-- ==== Sys2Proof/Word.lean ====
section
/-!
DEFINITION. The word types of the Fuale model and the one carrier of its sparse tables.
A `SMap` is a list of key and value pairs; the operations on it (and its canonical form) stand in
Machine/Map.lean.
-/

namespace Sys2Proof

/-- One byte. -/
abbrev Byte := BitVec 8
/-- One 16-bit halfword (token, block tag). -/
abbrev Half := BitVec 16
/-- One 32-bit register word. -/
abbrev Word := BitVec 32
/-- One 64-bit word (instruction, general register, global address). -/
abbrev Dword := BitVec 64

/-- A sparse table: strictly rising keys, and no entry equal to what an unlisted key reads as. -/
abbrev SMap (α : Type) := List (Nat × α)

/-- Memory: a sparse table of bytes (the same type as a list of `Host.Cell`). -/
abbrev Mem := SMap Byte

end Sys2Proof
end

