-- ==== Sys2Proof/Syntax.lean ====
section
/-!
DEFINITION. The commands of the Fuale block: one constructor of `Instr` per row of
spec/opcode_table.json, in the table's order, and the operand types they carry.
A command is one whole, indivisible step of the part (spec/95_what_each_step_holds.md).
Data that reaches the module from outside (a packet, a companion line, a sensor reading, an analogue
level) is an operand of the command that brings it in.
-/

namespace Sys2Proof

/-! ## Places and tile instructions (R12, R13, R130, R150) -/

/-- A tile as programs and global addresses name it: stack and logical tile (R12, R13). -/
structure TileRef where
  stack : BitVec 3
  tile  : BitVec 9
deriving DecidableEq, Repr

/-- A physical router or tile site of a stack, 24 × row + column (R293). -/
structure SiteRef where
  stack : BitVec 3
  site  : Nat
deriving DecidableEq, Repr

/-- The five engines of a tile, in the order of their codes (Table 5.1). -/
inductive Engine
  | fet | arr | sid | plt | sig
deriving DecidableEq, Repr

/-- An instruction word without its opcode: bits [63:62] and bits [55:0] (Table 6.1).
The opcode, bits [61:56], is the command's own. -/
structure Enc where
  fmt  : BitVec 2
  body : BitVec 56
deriving DecidableEq, Repr

/-- An engine of a tile reaches an instruction `dt` tile cycles after the last event of the module's
tile clock. -/
structure Issue where
  tile : TileRef
  dt   : Nat
  enc  : Enc
deriving DecidableEq, Repr

/-- The deviation of one held level from its nominal count, in 2^-16 count (R59, R64).
`col` is the logical column, and a merged conversion takes the entry of its even segment (R66). -/
structure Level where
  seg   : BitVec 2
  plane : BitVec 3
  col   : BitVec 10
  dev   : Int
deriving DecidableEq, Repr

/-! ## Packets (R169, R323) -/

/-- Operation codes of a packet (Table 13.7, OP). -/
inductive PktOp
  | put | get | add32 | add64 | ladd | cas64 | mput | arrive | completion | getData
  | regAccess | control | hail | numbers
deriving DecidableEq, Repr

/-- Who issued an operation (R322, R329): a tile, or a part of a stack that holds tags 15,360 up; `lead`: the module's lead
Helm (R14). -/
inductive Source
  | tile (module : BitVec 10) (at_ : TileRef)
  | helm (module : BitVec 10) (stack : BitVec 3) (lead : Bool)
  | sextant (stack : BitVec 3)
  | walker (stack : BitVec 3)
  | binnacle
  | bearing
  | companion
deriving DecidableEq, Repr

/-- Completion status codes (Table 6.14). -/
inductive Status
  | ok | fenced | aborted | timeout
deriving DecidableEq, Repr

/-- A packet of the fabric (Table 13.7). `tag` is the issuer's own tag (0-31 for a tile), `turn` its
TURN; `targets` are the targets that an MPUT's copy serves, and of a branch completion or a reduction flit the one it
concerns; `upper` is the upper class of its channel (R325); `port` is the fleet port by which it entered this module, none
for one issued here (R326); `reduction`: a completion that acknowledges a reduction flit (Table 12.2). -/
structure Packet where
  op      : PktOp
  dest    : Dword
  src     : Source
  tag     : BitVec 5
  turn    : BitVec 4
  len     : Nat
  data    : List Byte
  status  : Status
  sat     : Bool
  targets : List (Nat × Dword)
  upper   : Bool
  port    : Option (BitVec 4)
  reduction : Bool
deriving DecidableEq, Repr

/-- An MPUT at its replication router: the packet, and the indexes of the branches whose next buffer has no credit (R333). -/
structure McastArrival where
  packet  : Packet
  waiting : List Nat
deriving DecidableEq, Repr

/-- A register access (R149, R321, R322): `tile` for the register block of a tile, `reg2` for a
control-region offset. `wide` is an 8-byte access of region 2. -/
inductive RegAddr
  | tile (at_ : TileRef) (off : BitVec 12)
  | reg2 (stack : BitVec 3) (off : BitVec 21)
deriving DecidableEq, Repr

structure RegAccess where
  src   : Source
  addr  : RegAddr
  wide  : Bool
  write : Option Dword
deriving DecidableEq, Repr

/-- A report on the control channel (R170, R384, Table 16.1). -/
inductive Report
  | tileFault (at_ : TileRef)
  | opFailed (at_ : TileRef) (tag : BitVec 5) (status : Status)
  | bankCrc (at_ : TileRef) (channel : BitVec 5)
  | chartFault (stack : BitVec 3)
deriving DecidableEq, Repr

/-- Who waits in a fleet waypoint timeout (R351). -/
inductive Waiter
  | engine (at_ : TileRef)
  | berth (berth : BitVec 4)
  | module
deriving DecidableEq, Repr

/-! ## Chart commands (R231) -/

/-- Words 0 to 3 of a 64-byte chart command; OP, bits [7:0] of word 0, is the command's own. -/
structure ChartArgs where
  stack : BitVec 3
  w0    : Dword
  arg0  : Dword
  arg1  : Dword
  arg2  : Dword
deriving DecidableEq, Repr

/-! ## Companion lines (R250, R276) -/

/-- A 64-byte companion line: its address and its contents, byte 0 in bits [7:0]. -/
structure Line where
  addr : BitVec 48
  data : BitVec 512
deriving DecidableEq, Repr

/-- An image command: its line, and whether NAND reports an error in it (R276). -/
structure ImageOrder where
  line : Line
  nand : Bool
deriving DecidableEq, Repr

/-! ## Fleet records (R311, R314, R316, R317, R340) -/

/-- A 264-byte frame: the 256 flit bytes and the link trailer of Table 13.1. `fecLanes` names the lanes
on which the FEC left uncorrected symbols. -/
structure Frame where
  flit     : List Byte
  trailer  : Dword
  fecLanes : BitVec 8
deriving DecidableEq, Repr

/-- An identity frame (Table 13.3). -/
structure Identity where
  serial : Dword
  hint   : BitVec 16
  port   : BitVec 8
  grade  : BitVec 8
  revMin : BitVec 8
  revMax : BitVec 8
  epoch  : BitVec 8
deriving DecidableEq, Repr

/-- What a hail record says of one port (R316). -/
structure HailPort where
  state     : BitVec 3
  nbrSerial : Dword
  nbrPort   : BitVec 4
deriving DecidableEq, Repr

/-- A hail record (R316). -/
structure HailRec where
  serial : Dword
  hint   : BitVec 16
  grade  : BitVec 8
  revMin : BitVec 8
  revMax : BitVec 8
  round  : BitVec 8
  ports  : List HailPort
deriving DecidableEq, Repr

/-- A numbers record (R317): every serial with its number, the count, ROUND and the CRC-32C. -/
structure NumbersRec where
  serials : List (Dword × BitVec 10)
  count   : Nat
  round   : BitVec 8
  crc     : Word
deriving DecidableEq, Repr

/-- The four timestamps of one exchange of timing frames, in 1/8 ns (R340, CHR_OFFSET). -/
structure TimePair where
  t1 : Int
  t2 : Int
  t3 : Int
  t4 : Int
deriving DecidableEq, Repr

/-- A link that replays and retrains on its own (R379, R381, Table 16.2). -/
inductive LinkRef
  | fleetPort (port : BitVec 4)
  | vilger (half : BitVec 1)
  | crossing (channel : BitVec 8)
deriving DecidableEq, Repr

/-! ## Vilger messages and flits (R362, R364) -/

/-- A received 256-byte Vilger flit after the Reed-Solomon decoder: the corrected bytes 0 to 235 and
how many symbols were corrected (Table 15.3). -/
structure VFlit where
  bytes     : List Byte
  corrected : Nat
  fecLanes  : BitVec 16
deriving DecidableEq, Repr

/-! ## Sextant, sensors, Binnacle -/

/-- One test pattern on the compute rows of a bank (R183): the input bits on the segment's 128 rows, and the levels, in
2^-16 count, at which the group's 16 lines convert or compare. -/
structure PatternTest where
  bank   : Bool
  input  : BitVec 128
  levels : List Int
deriving DecidableEq, Repr

/-- What the measurement of one column group gave (R181 to R184): the trim targets as bytes of the tile record (Table 7.5)
or, for the references, by generator (R182); of a line group the levels of its 16 lines with 0 to 8 calibration cells
conducting and on the test patterns; of an ADC group the levels of its 16 ADCs with charge for the counts 0 to 128; and
whether a counted ADC is faulty (R95). -/
structure GroupResult where
  targets  : List (Nat × Int)
  cal      : List (List Int)
  tests    : List PatternTest
  sweep    : List (List Int)
  adcFault : Bool
deriving DecidableEq, Repr

/-- One diode of a round: the forward voltage at the high current in mV and the reading in 1/256 °C. -/
structure DiodeSample where
  diode : BitVec 6
  mv    : Nat
  temp  : Int
deriving DecidableEq, Repr

/-- A frame on the Bearing port as it arrived (Table 19.3). -/
structure BearingReq where
  op   : Byte
  addr : BitVec 24
  data : Word
  crc  : Byte
deriving DecidableEq, Repr

/-- ADDR and DATA of a Bearing request whose CRC was right and whose OP the command fixes. -/
structure BearingArg where
  addr : BitVec 24
  data : Word
deriving DecidableEq, Repr

/-- A log unit (Table 16.3, UNIT). -/
structure UnitRef where
  kind  : BitVec 4
  stack : BitVec 3
  index : Nat
deriving DecidableEq, Repr

/-- One failed check of power-up self-test (Table 18.5). -/
inductive SelfTestFail
  | module
  | stack (stack : BitVec 3)
  | site (stack : BitVec 3) (site : Nat)
  | retire (stack : BitVec 3) (site : Nat)
  | router (stack : BitVec 3) (site : Nat)
  | helm (stack : BitVec 3)
deriving DecidableEq, Repr

/-- A value that self-test measures (Table 18.5): a voltage in microvolts, or the counts of a clock with GATE = 156,250. -/
inductive SelfReading
  | vin (uv : Nat)
  | vbus (uv : Nat)
  | vbd (stack : BitVec 3) (uv : Nat)
  | vref (stack : BitVec 3) (uv : Nat)
  | bck (counts : Nat)
  | stackPll (stack : BitVec 3) (pll : Nat) (counts : Nat)
  | linkCore (die : BitVec 2) (counts : Nat)
deriving DecidableEq, Repr

/-- What a bring-up step brought in from outside the model (R425): the values that self-test measures, and its other checks
that failed. -/
structure BringupIn where
  fails    : List SelfTestFail
  readings : List SelfReading
deriving DecidableEq, Repr

/-- A clock multiplexer (Table 17.4). -/
inductive MuxRef
  | tile (at_ : TileRef)
  | mesh (stack : BitVec 3)
  | dram (stack : BitVec 3)
  | binnacle
deriving DecidableEq, Repr

/-- What a loss-of-clock detector found (R410): BCK, the forwarded reference, a PLL that runs from it, or Binnacle's PLL. -/
inductive ClockLoss
  | bck | ref | pll | binnaclePll
deriving DecidableEq, Repr

/-- A frequency counter (R412): of a stack, or the module's. -/
inductive FmeasRef
  | stack (stack : BitVec 3)
  | module
deriving DecidableEq, Repr

/-- An uncorrectable DRAM error (R374 to R376): the stack, the channel and the byte offset. -/
structure DramErr where
  stack   : BitVec 3
  channel : BitVec 5
  off     : Nat
deriving DecidableEq, Repr

/-! ## The commands -/

/-- One constructor per row of spec/opcode_table.json, in the table's order. -/
inductive Instr
  -- common control instructions (R157, R158)
  | nop (e : Engine) (i : Issue)
  | setr (e : Engine) (i : Issue)
  | setrh (e : Engine) (i : Issue)
  | addr (e : Engine) (i : Issue)
  | jump (e : Engine) (i : Issue)
  | loop (e : Engine) (i : Issue)
  | nextw (e : Engine) (i : Issue)
  | halt (e : Engine) (i : Issue)
  -- Fetch (R159)
  | fetLoad (i : Issue)
  | fetLoads (i : Issue)
  | fetCopy (i : Issue)
  | fetZero (i : Issue)
  | fetBankw (i : Issue)
  -- Array (R160)
  | arrMvm (i : Issue) (lv : List Level)
  | arrRetry (i : Issue) (lv : List Level)
  | arrBank (i : Issue)
  | arrMode (i : Issue)
  -- Side (R162)
  | sidMode (i : Issue)
  | sidRecomp (i : Issue)
  | sidDrain (i : Issue)
  | sidEmit (i : Issue)
  -- Plot (R165)
  | pltNorm (i : Issue)
  | pltScore (i : Issue)
  | pltSoftmax (i : Issue)
  | pltVprod (i : Issue)
  | pltTopk (i : Issue)
  | pltSort (i : Issue)
  | pltMerge (i : Issue)
  | pltIsect (i : Issue)
  | pltGather (i : Issue)
  | pltScatter (i : Issue)
  | pltHprobe (i : Issue)
  | pltRelax (i : Issue)
  | pltSample (i : Issue)
  -- Signal (R168)
  | sigPut (i : Issue)
  | sigGet (i : Issue)
  | sigAdd32 (i : Issue)
  | sigAdd64 (i : Issue)
  | sigLadd (i : Issue)
  | sigCas64 (i : Issue)
  | sigMput (i : Issue)
  | sigArrive (i : Issue)
  | sigWaitg (i : Issue)
  | sigWaitwp (i : Issue)
  | sigWpinit (i : Issue)
  -- tile events and tile register commands
  | staticIssueSlot (e : Engine) (at_ : TileRef) (dt : Nat) (w : Dword) (lv : List Level)
  | wdog (e : Engine) (at_ : TileRef)
  | stall (e : Engine) (at_ : TileRef)
  | tileClockGate (at_ : TileRef)
  | wakeRequest (at_ : TileRef)
  | clockStartGrant (dns : Nat)
  | clockStopGrant (dns : Nat)
  | run (at_ : TileRef) (v : Bool)
  | fence (at_ : TileRef)
  | wdogLock (at_ : TileRef)
  | srst (at_ : TileRef)
  | tilArrLock (at_ : TileRef)
  -- packets at their destinations (R169, R142, R305, R332)
  | put (p : Packet)
  | get (p : Packet) (via : Option SiteRef)
  | add32 (p : Packet) (via : Option SiteRef) (others : List Packet)
  | add64 (p : Packet) (via : Option SiteRef) (others : List Packet)
  | ladd (p : Packet) (via : Option SiteRef) (others : List Packet)
  | cas64 (p : Packet)
  | mput (m : McastArrival)
  | arrive (p : Packet)
  | completion (p : Packet)
  | getData (p : Packet)
  | registerAccess (a : RegAccess)
  | controlReport (r : Report)
  | hopTimeout (p : Packet) (where_ : Option LinkRef)
  | endToEndTimeout (at_ : TileRef) (tag : BitVec 5)
  -- chart and Rutter (R227 to R243)
  | chtOpen (c : ChartArgs)
  | chtMap (c : ChartArgs)
  | chtFork (c : ChartArgs)
  | chtAlloc (c : ChartArgs)
  | chtCow (c : ChartArgs)
  | chtAdv (c : ChartArgs)
  | chtFree (c : ChartArgs)
  | chtPin (c : ChartArgs)
  | chtUnpin (c : ChartArgs)
  | rutLookup (c : ChartArgs)
  | rutInsert (c : ChartArgs)
  | rutEvict (c : ChartArgs)
  | pageWindow (p : Packet)
  | appendWindow (p : Packet)
  | chtEn (stack : BitVec 3) (v : Bool)
  | invAll (stack : BitVec 3)
  | chtLock (stack : BitVec 3)
  | chtHead (stack : BitVec 3) (head : BitVec 12)
  -- serving (R250 to R267)
  | submit (l : Line) (prompt : List Word)
  | cancel (l : Line)
  | adapterPublish (l : Line)
  | adapterRetire (l : Line)
  | berthDisable (l : Line)
  | watchNotice (l : Line)
  | returnLine (idx : Word)
  | stepBoundary (berth : BitVec 4)
  | stackCommitRelease (stack : BitVec 3) (berth : BitVec 4)
  | commitPoint (berth : BitVec 4)
  | releaseRecord (berth : BitVec 4) (watch : Word) (vmax : Half)
  | stepTimeout (berth : BitVec 4)
  | helmEn (v : Bool)
  | hlmLock
  -- image commands (R275 to R284)
  | programBegin (o : ImageOrder)
  | programChunk (o : ImageOrder) (bytes : List Byte)
  | programEnd (o : ImageOrder)
  | activate (o : ImageOrder)
  | erase (o : ImageOrder)
  | load (o : ImageOrder)
  | stageAdapter (o : ImageOrder)
  | replace (o : ImageOrder)
  | bootset (o : ImageOrder)
  -- fleet fabric (R311 to R325)
  | portEn (port : BitVec 4) (v : Bool)
  | receiverDetect (port : BitVec 4)
  | trainingLimit (port : BitVec 4) (lanes : BitVec 8)
  | identityFrame (port : BitVec 4) (f : Identity)
  | fleetFrame (port : BitVec 4) (f : Frame)
  | linkReplayLimit (l : LinkRef)
  | discover
  | hail (port : BitVec 4) (r : HailRec)
  | discoverySettle
  | numbers (port : BitVec 4) (r : NumbersRec)
  | commit
  | fltLock (die : BitVec 2)
  -- Chronometer (R340 to R353)
  | timingFrame (pairs : List TimePair)
  | offsetMeasure (t : TimePair)
  | slew
  | watchBoundary
  | arm
  | chrLock
  | agreementRecord (watch : Word) (q : BitVec 7) (d : Bool)
  | fleetWaypointTimeout (w : Waiter)
  -- Sextant (R181 to R200)
  | fixReq (stack : BitVec 3)
  | sxtLock (stack : BitVec 3)
  | dogSlot (stack : BitVec 3)
  | idleCycle (at_ : TileRef)
  | groupComplete (stack : BitVec 3) (site : Nat) (group : Nat) (fix : Bool) (r : GroupResult)
  | passComplete (stack : BitVec 3)
  | ageingTrigger (stack : BitVec 3)
  | demandStretch (stack : BitVec 3)
  | tableEccError (stack : BitVec 3) (site : Nat)
  -- Vilger Link (R359 to R371)
  | lnkEn (v : Bool)
  | retrain
  | lnkLock (half : BitVec 1)
  | vilgerTrainingLimit
  | vilgerFlit (half : BitVec 1) (f : VFlit)
  | ackTimer (half : BitVec 1)
  | hotReset
  | sni (addr : BitVec 48)
  | dat (half : BitVec 1) (tag : BitVec 12) (status : Status) (data : List Byte)
  | cmp (half : BitVec 1) (tag : BitVec 12) (status : Status)
  | regrd (half : BitVec 1) (hdr : BitVec 128)
  | regwr (half : BitVec 1) (hdr : BitVec 128)
  -- faults and recovery (R374 to R392)
  | dramCorrected (stack : BitVec 3) (channel : BitVec 5)
  | dramUncorrectable (e : DramErr)
  | heartbeat (stack : BitVec 3)
  | heartbeatTimeout (stack : BitVec 3)
  | watchdog
  | logAppend
  | stressTest (at_ : TileRef) (pass : Bool)
  | replayWatch (berth : BitVec 4)
  | abandonNotice (berth : BitVec 4) (firstWatch : Word) (module : BitVec 10)
  | abandonRecord (berth : BitVec 4) (firstWatch : Word) (replay : Word)
  | abandonNoticeTimeout (berth : BitVec 4)
  | thermalStopEvent
  | thermalNotice (berth : BitVec 4)
  -- power and clocks (R394 to R412)
  | mainEn (v : Bool)
  | chargeComplete
  | inrush
  | vinuv
  | vinov
  | busuv
  | busov
  -- the 10 ms and 1 s means in 0.1 W (PWR_PAVG)
  | powerSample (mean10ms : Nat) (mean1s : Nat)
  | pwrLock
  | stackOn (stack : BitVec 3) (v : Bool)
  | stackPowerDone (stack : BitVec 3)
  | muxSwitch (m : MuxRef)
  | muxHang (m : MuxRef)
  | lossOfClock (c : ClockLoss)
  | fmeasGo (f : FmeasRef)
  | fmeasDone (f : FmeasRef) (count : Word)
  -- reset and bring-up (R415 to R430)
  | poweron
  | bearingReset (a : BearingArg)
  | fltrst (src : Source) (v : Word)
  | blockReset
  | idleAck (b : UnitRef)
  | quiesceTimeout (b : UnitRef)
  | blockRelease (b : UnitRef)
  | domainRelease
  | preconditionTimeout
  | bringupStep (b : BringupIn)
  -- Binnacle and Sounding ADC (R432 to R449)
  | diodeRound (samples : List DiodeSample)
  | dramTemperature (stack : BitVec 3) (temp : Int)
  | grace
  | hostq (v : BitVec 7)
  | bearingRead (a : BearingArg)
  | bearingWrite (a : BearingArg)
  | bearingState
  | logread (a : BearingArg)
  | lifecycleAdvance (a : BearingArg)
  | fuseProgram (a : BearingArg)
  | devtableCommit (a : BearingArg)
  | imageSlotSelect (a : BearingArg)
  | longdone (code : Byte)
  | longOverrun
  | sequencePass
  | fastPair
  | urgentRequest
  | conversionDone (code : BitVec 12)
  | refbufEn (v : Bool)
  | refRdy
  -- Lodestar and test access (R459 to R467)
  | attest
  | testreq
  | mfLoad (bytes : List Byte)
  | fwLoad (bytes : List Byte)
  | zeroise
  | tapBypass
  | tapIdcode
  | tapSamplePreload
  | tapExtest
  -- link training, power and log events
  | equalisationDone (port : BitVec 4)
  | fecLock (port : BitVec 4)
  | vilgerReceiverDetection
  | vilgerEqualisationDone (good0 : Half) (good1 : Half)
  | flitBoundaryLock
  | identityExchange (revMin : Byte) (revMax : Byte)
  | retrainDone (ok : Bool)
  | crossingFlitError (channel : BitVec 8)
  | crossingRetrainDone (channel : BitVec 8) (ok : Bool)
  -- PLLs 0 to 4 of a stack (Table 17.3); 5 the core PLL of the link die that attaches to it, 6 Binnacle's
  | pllLock (stack : BitVec 3) (pll : BitVec 3)
  | vbusInRegulation
  | powerLoss
  | clockReturn (c : ClockLoss)
  | logBucketBoundary (kind : BitVec 4)
  | bearingRequestFormat (r : BearingReq)
  | binnacleEccHalt
deriving DecidableEq, Repr

end Sys2Proof
end

