-- ==== Sys2Proof/Decode.lean ====
section
/-!
DEFINITION. Commands spelled by words: spec/opcode_table.json gives no row any bits, so no word spells a command. The
instruction words of the tile engines (Table 6.1) are operands of the commands that issue them.
-/

namespace Sys2Proof

/-- The command that a word spells by the table's bits: none (notes/assumptions/2.md). -/
def decodeTableWord (_nbits _w : Nat) : Option Instr := none

end Sys2Proof
end

