-- ==== Sys2Proof/Schedule.lean ====
section
/-!
DEFINITION. The contents of a schedule that the manual's rules read (R185, R214, R246, R270 to R281, R349, R390).
The manual leaves their encoding to the Rolson Compiler and Scheduler Guide, so the model takes them
decoded (Config.decodeSchedule).
-/

namespace Sys2Proof

/-- The declared path of an attention slot (Table 10.1, R214): plot, or array with a bank format and a
number of leading groups. -/
inductive SlotPath
  | plot
  | array (w8 : Bool) (groups : Nat)
deriving DecidableEq, Repr

/-- A slot table entry (Table 10.1); addresses are global addresses. -/
structure SlotEntry where
  slot   : Nat
  m      : Nat
  span   : Nat
  path   : SlotPath
  inrec  : List Dword
  outrec : Dword
  masks  : List Dword
deriving DecidableEq, Repr

/-- What a schedule says of one logical tile: its rings, where its load and step programs start, and
whether it tolerates a demotion (R271, R390, R482). -/
structure TileProgram where
  tile     : TileRef
  rings    : List (Engine × List Dword)
  loadPc   : List (Engine × BitVec 9)
  stepPc   : List (Engine × BitVec 9)
  tolerant : Bool
deriving DecidableEq, Repr

/-- A stream-table entry (R280); `share` in MB/s, `window` in tile cycles. -/
structure StreamEntry where
  tile   : TileRef
  bank   : Bool
  off    : Nat
  beats  : Nat
  share  : Nat
  group  : Nat
  window : Nat
deriving DecidableEq, Repr

/-- What a schedule says of one stack: arrivals at its commit counter (R349), spares and cover mask (R278),
KV layers and page indexes of a context, the array-eligible layers (R213), and the DRAM ranges of the berth (R245). -/
structure StackPlan where
  stack    : BitVec 3
  commits  : Nat
  spares   : Nat
  cover    : List (BitVec 9)
  layers   : Nat
  ppl      : Nat
  listBase : Nat
  eligible : List Nat
  ranges   : List (Nat × Nat)
  lfmt     : List (BitVec 32)
deriving DecidableEq, Repr

/-- A decoded schedule (STEADY, CROSS_A or CROSS_B of Table 11.3). -/
structure Schedule where
  slots    : List SlotEntry
  tiles    : List TileProgram
  plans    : List StackPlan
  streams  : List StreamEntry
  wps      : Nat
  minRev   : Nat
  dog      : BitVec 32
  dogper   : BitVec 32
  ports    : List (BitVec 4)
  modules  : List (BitVec 10)
deriving DecidableEq, Repr

end Sys2Proof
end

