-- ==== Sys2Proof/Config.lean ====
section
/-!
DEFINITION. What one implementation fixes and the manual does not, and the free values. Every constant here but the table of
grades is opaque: nothing can evaluate it, so a statement that holds, holds whatever it is.
-/

namespace Sys2Proof.Config

/-- The value number `n` that the manual leaves open, as a 32-bit word (undefined bytes and results;
notes/assumptions/3.md). Each use takes the next `n` from `State.free`. -/
opaque freeWord : Nat → BitVec 32

/-- The nth 32-bit word drawn from Lodestar's TRNG (R455, R456). -/
opaque trng : Nat → BitVec 32

/-- SHA-384 of a byte string (R269, R458); FIPS 180 is not part of the manual. -/
opaque sha384 : List Byte → BitVec 384

/-- ECDSA P-384: does the signature (r, s) verify over the digest under the public key (x, y)? -/
opaque ecdsaVerify : (key : BitVec 768) → (digest : BitVec 384) → (sig : BitVec 768) → Bool

/-- ECDSA P-384: the signature of a digest under a private scalar (R465). -/
opaque ecdsaSign : (scalar : BitVec 384) → (digest : BitVec 384) → BitVec 768

/-- The public key (x, y) of a private scalar (R465). -/
opaque ecdsaPublic : (scalar : BitVec 384) → BitVec 768

/-- The schedule that a STEADY, CROSS_A or CROSS_B section spells: the manual gives its encoding to the
Rolson Compiler and Scheduler Guide (R271). -/
opaque decodeSchedule : List Byte → Option Schedule

/-- The load program that a LOADPROG or CROSS_LOAD section spells (R271, R281): start addresses by engine. -/
opaque decodeLoadProgram : List Byte → Option (List TileProgram)

/-- The manual's IDCODE register is IEEE 1149.1's, with no value given (R466). -/
opaque idcode : BitVec 32

/-- What the first 64 bytes of the chart area say of its tables: Helm writes the frame count and the table
offsets there, in an order the manual does not give (R243). In order: frame count, frame pool, descriptor
table, chart root table. -/
opaque chartHeader : List Byte → List Nat

/-- Where a Rutter node and its page list lie in the chart area: the manual gives INSERT no place (R241). Indexed by the
stack and the number of the insert. -/
opaque nodePlace : (stack n : Nat) → Nat
opaque nodeList : (stack n : Nat) → Nat

/-- Ordering grades (Table 0.1). -/
inductive Grade
  | syf3712 | syf3456 | syf3200
deriving DecidableEq, Repr, Inhabited

/-- The module's grade. -/
opaque grade : Grade

/-- Tiles per stack of a grade, T (R2, R13, Table 0.1): an eighth of the grade's tiles per module. -/
def gradeTiles : Grade → Nat
  | .syf3712 => 464
  | .syf3456 => 432
  | .syf3200 => 400

/-- Tiles per stack of the module. -/
def tilesPerStack : Nat := gradeTiles grade

/-- The module has one of the three grades. -/
theorem tilesPerStack_cases : tilesPerStack = 464 ∨ tilesPerStack = 432 ∨ tilesPerStack = 400 := by
  unfold tilesPerStack
  cases grade
  · exact .inl rfl
  · exact .inr (.inl rfl)
  · exact .inr (.inr rfl)

/-- The root key of the first binding of a model version and an adapter version that Helm meets; the manual asks only that
different bindings have different keys, and each further binding takes the next (R239). -/
opaque rootBase : BitVec 64

/-- The NAND block at which a slot's content starts: the store chooses it (R274). Indexed by the records written. -/
opaque nandStart : Nat → Nat

/-- Where a context's token buffer lies in a stack's DRAM: Helm chooses it (R252). -/
opaque tokenPlace : (stack context : Nat) → Nat

/-- What a page-window offset names that Table 9.5 gives to no position: the manual says that a form part is read through
the page window by slot, layer, group and part, and gives no encoding (R213, R226). Group, part, format and byte. -/
opaque formAt : (offset : Nat) → Option (Nat × Nat × Nat × Nat)

/-- Credits, arbitration and load decide how long a flit waits at a router, and the manual bounds the waits alone: how many
flits of a packet reach the 1,024 mesh cycles of R297, the largest channel-0 waits of one at a mesh hop and at a crossing in
mesh cycles (Table 12.7), and whether a credit arrived for a full channel. Indexed by the stack, a number that tells the flits
of the channel by the stack where they entered, and the tile cycle. -/
opaque starved : (stack flits cyc : Nat) → Nat
opaque waitMesh : (stack flits cyc : Nat) → Nat
opaque waitXing : (stack flits cyc : Nat) → Nat
opaque creditFault : (stack flits cyc : Nat) → Bool

/-- Slots of credit that each side of Vilger Link gives the other at the start, by class: the manual gives the classes
their own credits and not how many (R364). -/
opaque vilgerCredits : (cls : Nat) → Nat
opaque vilgerGrants : (cls : Nat) → Nat

/-- Byte `i` of the 20 parity bytes over bytes 0 to 235 of a Vilger flit: the manual names the code and neither its field
polynomial nor its generator (Table 15.3). -/
opaque vilgerParity : (flit : List (BitVec 8)) → (i : Nat) → BitVec 8

/-- How many attempts at a clearing of the secret set find a word that does not read back zero, by the number of clearings
before it (R460). -/
opaque clearMisses : (n : Nat) → Nat

/-- Where a part of a key-bank form lies in the chart area: Helm chooses it (R213). Indexed by the stack, the Rutter
node, the layer, the part and its format. -/
opaque formPlace : (stack node layer part fmt : Nat) → Nat

/-- How many local-port grants an instruction of a tile is denied, each a tile cycle of waiting: Rolson bounds them from the
schedule (R140, R167, Table 5.3). Indexed by the tile and by how many free values it has used. -/
opaque storeWait : (stack tile n : Nat) → Nat

/-- Tile cycles, beyond the first, until the router accepts a remote operation (Table 5.3, class 8). -/
opaque acceptCycles : (stack tile n : Nat) → Nat

/-- Free word number `n` of a tile: results that the manual leaves undefined in its tile store (R165, R166). -/
opaque tileWord : (stack tile n : Nat) → BitVec 32

/-- What a write leaves in a reserved waypoint counter of a tile's store: undefined (R138). Indexed by how many free
values the tile has used, and the byte's offset. -/
opaque counterByte : (n off : Nat) → BitVec 8

/-- The chart-cache set of a context, layer and page index: the manual gives 32 sets and no index function (R229). -/
opaque chartSet : (context layer page : Nat) → Nat

/-- Which of a full set's eight ways a chart-cache fill replaces: the manual gives no policy (R229). Indexed by how
often it has been asked. -/
opaque chartVictim : Nat → Nat

/-- Byte `n` of a hail record as the topology table holds it: the manual gives its size, 256 bytes, and its fields, and
no layout (R316, R319). -/
opaque hailByte : HailRec → (n : Nat) → BitVec 8

/-- The temperature, in 1/256 °C, that a thermistor's code stands for: the manual gives no curve (Table 19.5). -/
opaque thermistor : (code : BitVec 12) → Int

end Sys2Proof.Config
end

