-- ==== Sys2Proof/Machine/Map.lean ====
section
/-!
DEFINITION. Sparse tables in one canonical form: keys strictly rising, and no entry equal to what an unlisted
key reads as. `d` says what an unlisted key reads as. Memory is the table of bytes whose unlisted addresses read 0
(R481: power-up writes zeros through the ECC).
-/

namespace Sys2Proof.Machine

/-- What key `k` reads as. -/
def mapGet {α : Type} (d : Nat → α) (m : SMap α) (k : Nat) : α :=
  match m.find? (fun p => p.1 == k) with
  | some p => p.2
  | none => d k

/-- The entries that `vs`, at keys `k` up, needs: those that differ from what an unlisted key reads as. -/
def mapEntries {α : Type} [DecidableEq α] (d : Nat → α) : Nat → List α → SMap α
  | _, [] => []
  | k, v :: vs => if v = d k then mapEntries d (k + 1) vs else (k, v) :: mapEntries d (k + 1) vs

/-- Write `vs` at the keys `k`, `k + 1`, …; every other key reads as before. -/
def mapSetRange {α : Type} [DecidableEq α] (d : Nat → α) (m : SMap α) (k : Nat) (vs : List α) : SMap α :=
  m.filter (fun p => p.1 < k) ++ mapEntries d k vs ++ m.filter (fun p => k + vs.length ≤ p.1)

/-- Write `v` at key `k`; every other key reads as before. -/
def mapSet {α : Type} [DecidableEq α] (d : Nat → α) (m : SMap α) (k : Nat) (v : α) : SMap α :=
  mapSetRange d m k [v]

/-- Every key from `lo` up to but not including `hi` reads as an unlisted key does. -/
def mapClear {α : Type} (m : SMap α) (lo hi : Nat) : SMap α :=
  m.filter (fun p => p.1 < lo || hi ≤ p.1)

/-- The canonical form: strictly rising keys, and no entry at its default. -/
def mapWf {α : Type} [DecidableEq α] (d : Nat → α) : SMap α → Bool
  | [] => true
  | [p] => p.2 ≠ d p.1
  | p :: q :: m => p.2 ≠ d p.1 && p.1 < q.1 && mapWf d (q :: m)

/-- What a byte that nothing has written reads as (R481). -/
def memDefault : Nat → Byte := fun _ => 0

/-- One byte of memory. -/
def memByte (m : Mem) (a : Nat) : Byte := mapGet memDefault m a

/-- `n` bytes of memory from address `a` up. -/
def memRead (m : Mem) (a n : Nat) : List Byte := (List.range n).map fun i => memByte m (a + i)

/-- Write bytes from address `a` up. -/
def memWrite (m : Mem) (a : Nat) (bs : List Byte) : Mem := mapSetRange memDefault m a bs

/-- The canonical form of a memory. -/
def memWf (m : Mem) : Bool := mapWf memDefault m

end Sys2Proof.Machine
end

