-- ==== Sys2Proof/Machine/Bits.lean ====
section
/-!
DEFINITION. Bit fields, byte order and rounding: the small arithmetic that every family uses.
All words are little-endian (R80, R150).
-/

namespace Sys2Proof.Machine

/-- Bits [lo + w − 1 : lo] of `x`. -/
def bitsOf (x lo w : Nat) : Nat := x / 2 ^ lo % 2 ^ w

/-- Bit `i` of `x`. -/
def bitOf (x i : Nat) : Bool := x / 2 ^ i % 2 == 1

/-- `x` with bits [lo + w − 1 : lo] replaced by the low `w` bits of `v`. -/
def putBits (x lo w v : Nat) : Nat :=
  x - bitsOf x lo w * 2 ^ lo + v % 2 ^ w * 2 ^ lo

/-- A Boolean as a bit. -/
def bit (b : Bool) : Nat := if b then 1 else 0

/-- The two's-complement value of the low `w` bits of `x`. -/
def signed (w x : Nat) : Int :=
  if x % 2 ^ w < 2 ^ (w - 1) then ((x % 2 ^ w : Nat) : Int) else ((x % 2 ^ w : Nat) : Int) - ((2 ^ w : Nat) : Int)

/-- The low `w` bits of the two's-complement form of `v`. -/
def unsigned (w : Nat) (v : Int) : Nat := (v % ((2 ^ w : Nat) : Int)).toNat

/-- `v` held to the range of a `w`-bit two's-complement number (R39, R41). -/
def saturate (w : Nat) (v : Int) : Int :=
  if v < -((2 ^ (w - 1) : Nat) : Int) then -((2 ^ (w - 1) : Nat) : Int)
  else if ((2 ^ (w - 1) : Nat) : Int) - 1 < v then ((2 ^ (w - 1) : Nat) : Int) - 1
  else v

/-- `v` held to the range lo..hi. -/
def clamp (lo hi v : Int) : Int := if v < lo then lo else if hi < v then hi else v

/-- The `n` bytes of `v`, lowest first. -/
def leBytes : Nat → Nat → List Byte
  | 0, _ => []
  | n + 1, v => BitVec.ofNat 8 v :: leBytes n (v / 256)

/-- The number that bytes spell, lowest first. -/
def leVal : List Byte → Nat
  | [] => 0
  | b :: bs => b.toNat + 256 * leVal bs

/-- The quotient n ÷ d (d > 0) rounded to the nearest integer, ties to even: RNE. -/
def rne (n : Int) (d : Nat) : Int :=
  let q := n / (d : Int)
  let r := n % (d : Int)
  if 2 * r < d then q else if (d : Int) < 2 * r then q + 1 else if q % 2 = 0 then q else q + 1

/-- ⌈n ÷ d⌉. -/
def ceilDiv (n d : Nat) : Nat := (n + d - 1) / d

/-- The bytes cut into pieces of `n` bytes, the last one perhaps shorter; at most `fuel` pieces. -/
def chunks {α : Type} (n : Nat) : Nat → List α → List (List α)
  | 0, _ => []
  | _, [] => []
  | fuel + 1, l => l.take n :: chunks n fuel (l.drop n)

/-- The 32-bit words that bytes spell. -/
def wordsOf (bs : List Byte) : List Nat := (chunks 4 (bs.length / 4 + 1) bs).map leVal

/-- How many of the booleans are true. -/
def countTrue (l : List Bool) : Nat := l.countP id

/-- Element `i` of a list of numbers, 0 beyond its end. -/
def nth (l : List Nat) (i : Nat) : Nat := l.getD i 0

/-- Insertion before the first element that `a` is strictly less than: keeps the order of equal elements. -/
def insertBy {α : Type} (le : α → α → Bool) (a : α) : List α → List α
  | [] => [a]
  | b :: r => if le a b && !le b a then a :: b :: r else b :: insertBy le a r

/-- Stable sort by `le`. -/
def sortBy {α : Type} (le : α → α → Bool) (l : List α) : List α := l.foldl (fun s a => insertBy le a s) []

end Sys2Proof.Machine
end

