-- ==== Sys2Proof/Machine/Numeric.lean ====
section
/-!
DEFINITION. The number formats and roundings of chapter 02 and the functions of R53, R121 and R166.
A block scale is an integer in units of 2^-9 and a long value (Q64.32) an integer in units of 2^-32, so every
product and sum below is exact; a rounding happens only where the manual puts one.
-/

namespace Sys2Proof.Machine

/-! ### E4M3 scales (R36, R37, R38) -/

/-- Whether an E4M3 code is a NaN (Table 2.4). -/
def e4m3Nan (c : Nat) : Bool := c % 128 == 0x7F

/-- The magnitude of the finite code `c`, bits [6:0], in units of 2^-9 (Table 2.4). -/
def e4m3Mag (c : Nat) : Nat :=
  let e := c / 8 % 16
  let m := c % 8
  if e = 0 then m else (8 + m) * 2 ^ (e - 1)

/-- The value of a finite E4M3 code in units of 2^-9; a NaN counts as 0 (R38). -/
def e4m3 (c : Nat) : Int :=
  if e4m3Nan c then 0 else if c / 128 % 2 = 1 then -(e4m3Mag c : Int) else (e4m3Mag c : Int)

/-- Whether an input block of this scale code counts as a zero block: +0, −0 or NaN (R37, R38). -/
def zeroScale (c : Nat) : Bool := c % 128 == 0 || e4m3Nan c

/-! ### Long values (R41, R43, R44) -/

/-- One in long format. -/
def longOne : Int := 4294967296

/-- An integer times two E4M3 values, as a long value: exact (R41). -/
def longProduct (p : Int) (sa sw : Int) : Int := p * sa * sw * 16384

/-- An element times its block scale, as a long value: exact. -/
def longElement (q : Int) (s : Int) : Int := q * s * 8388608

/-- A Q15.16 value as a long value (R44). -/
def longQ16 (v : Int) : Int := v * 65536

/-- The 16-byte container of a long value and its OVF (R43). -/
def longBytes (v : Int) (ovf : Bool) : List Byte :=
  leBytes 12 (unsigned 96 v) ++ [if ovf then 1 else 0, 0, 0, 0]

/-- The long value of a 16-byte container. -/
def longOf (bs : List Byte) : Int := signed 96 (leVal (bs.take 12))

/-- The OVF bit of a 16-byte container. -/
def longOvf (bs : List Byte) : Bool := (bs.getD 12 0).getLsbD 0

/-- The sum of two containers: saturating, OVF set by saturation or by either operand (R41, R43). -/
def longAdd (a b : List Byte) : List Byte :=
  let v := longOf a + longOf b
  longBytes (saturate 96 v) (longOvf a || longOvf b || decide (saturate 96 v ≠ v))

/-! ### Elements (R29 to R32) -/

/-- Output formats (Table 6.8, OFMT): whether the element is 8 bits wide. -/
def ofmtWide (f : Nat) : Bool := f == 0 || f == 2 || f == 3

/-- How many bytes a block of 128 elements takes. -/
def blockBytes (wide : Bool) : Nat := if wide then 128 else 64

/-- Element `i` of elements packed from the first byte of `bs` (R32). -/
def elementOf (wide : Bool) (bs : List Byte) (i : Nat) : Int :=
  if wide then signed 8 (bs.getD i 0).toNat
  else signed 4 ((bs.getD (i / 2) 0).toNat / 16 ^ (i % 2))

/-- Elements packed into bytes (R32). -/
def packElements (wide : Bool) : List Int → List Byte
  | [] => []
  | [a] => if wide then [BitVec.ofNat 8 (unsigned 8 a)] else [BitVec.ofNat 8 (unsigned 4 a)]
  | a :: b :: r =>
    if wide then BitVec.ofNat 8 (unsigned 8 a) :: packElements wide (b :: r)
    else BitVec.ofNat 8 (unsigned 4 a + 16 * unsigned 4 b) :: packElements wide r

/-! ### Conversion to narrow formats (R45 to R48) -/

/-- The largest element magnitude of a narrow format, L of R45. -/
def limitOf (wide : Bool) : Nat := if wide then 127 else 7

/-- The smallest E4M3 code, from `c` up, whose value is at least amax ÷ L; 0x7E where there is none. -/
def scaleFrom (amax l : Nat) : Nat → Nat → Nat
  | 0, _ => 0x7E
  | fuel + 1, c => if amax ≤ e4m3Mag c * l * 8388608 then c else scaleFrom amax l fuel (c + 1)

/-- The scale code of R45 for the largest magnitude `amax` (in long units): 0 when amax is 0. -/
def scaleOf (wide : Bool) (amax : Nat) : Nat :=
  if amax = 0 then 0 else scaleFrom amax (limitOf wide) 126 1

/-- Whether R45 clips: amax ÷ L > 448. -/
def clips (wide : Bool) (amax : Nat) : Bool := decide (448 * 512 * limitOf wide * 8388608 < amax)

/-- One converted block. -/
structure Block where
  elems : List Int
  scale : Nat
  clip  : Bool
  uflow : Bool
  pair  : Bool
deriving DecidableEq, Repr

/-- The 16-bit tag of a block (Table 2.3). -/
def Block.tag (b : Block) : Nat := b.scale + 256 * bit b.clip + 512 * bit b.uflow + 1024 * bit b.pair

/-- The largest magnitude of long values. -/
def amaxOf (ys : List Int) : Nat := ys.foldl (fun m y => max m y.natAbs) 0

/-- Convert the real elements `ys` of one block with the largest magnitude `amax` (its own, or that of its row
or pair when `shared`): R45 and R48. -/
def convertBlock (wide shared pair : Bool) (amax : Nat) (ys : List Int) : Block :=
  if amax = 0 then ⟨ys.map fun _ => 0, 0, false, false, pair⟩
  else
    let c := scaleOf wide amax
    let d := e4m3Mag c * 8388608
    let l : Int := limitOf wide
    let q := ys.map fun y => clamp (-l) l (rne y d)
    let allZero := q.all (· == 0)
    let anyReal := ys.any (· != 0)
    if clips wide amax then ⟨q, c, true, allZero && anyReal, pair⟩
    else if allZero && !shared then ⟨q, 0, false, true, pair⟩
    else ⟨q, c, false, allZero && anyReal, pair⟩

/-- Convert the blocks of one row: CONV 0 per block, 1 token-uniform, 2 pair (Table 6.8, R48, R123). -/
def convertPairs (wide : Bool) : List (List Int) → List Block
  | a :: b :: r =>
    let m := max (amaxOf a) (amaxOf b)
    convertBlock wide true true m a :: convertBlock wide true true m b :: convertPairs wide r
  | [a] => [convertBlock wide false false (amaxOf a) a]
  | [] => []

/-- The blocks of one output row (R45, R48, R123). -/
def convertRow (wide : Bool) (conv : Nat) (ys : List Int) : List Block :=
  let blocks := chunks 128 (ys.length / 128 + 1) ys
  if conv = 1 then blocks.map (convertBlock wide true false (amaxOf ys))
  else if conv = 2 then convertPairs wide blocks
  else blocks.map fun b => convertBlock wide false false (amaxOf b) b

/-- The element bytes of a block, padded with zero elements to 128 (R34, R35). -/
def Block.bytes (wide : Bool) (b : Block) : List Byte :=
  packElements wide (b.elems ++ List.replicate (128 - b.elems.length) 0)

/-! ### exp, GELU and SiLU (R53, R121) -/

/-- Fixed-point precision of the series below: far beyond what any rounding below needs. -/
def seriesBits : Nat := 320

/-- The Taylor sum Σ (−1)^k x^k ÷ k! with x = n ÷ d, terms in units of 2^-seriesBits. -/
def expTerms (n d : Nat) : Nat → Nat → Nat → Int
  | 0, _, _ => 0
  | fuel + 1, k, t => (t : Int) - expTerms n d fuel (k + 1) (t * n / (d * (k + 1)))

/-- exp(−n ÷ d) in units of 2^-seriesBits (n ÷ d up to 32). -/
def expNeg (n d : Nat) : Int := expTerms n d 240 0 (2 ^ seriesBits)

/-- The exponential cell of R53 for a raw score `x` (≤ 0, in 2^-16) below the maximum: U1.31. -/
def expCell (x : Int) : Nat :=
  if x < -(22 * 65536) then 0 else (rne (expNeg x.natAbs 65536) (2 ^ (seriesBits - 31))).toNat

/-- SiLU(i ÷ 64) rounded to 2^-20: y ÷ (1 + e^−y), by 1 ÷ (1 + e^−y) = e^y ÷ (1 + e^y) for y < 0. -/
def siluPoint (i : Int) : Int :=
  let e := (expNeg i.natAbs 64).toNat
  let num : Int := if i < 0 then i * (e : Int) else i * ((2 ^ seriesBits : Nat) : Int)
  rne (num * 16384) (2 ^ seriesBits + e)

/-- The sum Σ y^(2k+1) ÷ (1·3·5···(2k+1)) in units of 2^-seriesBits, y = n ÷ 64. -/
def phiTerms (n : Nat) : Nat → Nat → Nat → Nat
  | 0, _, _ => 0
  | fuel + 1, k, t => t + phiTerms n fuel (k + 1) (t * n * n / (4096 * (2 * k + 3)))

/-- 1 ÷ √(2π), in units of 2^-320. -/
def invSqrt2Pi : Nat :=
  852135539018184763820396513245673747463731821652439675318870577517399952981679869195813084020151

/-- e^(−n² ÷ 8192) = exp(−y² ÷ 2) with y = n ÷ 64 ≤ 16, in units of 2^-seriesBits: the fourth power of
exp(−y² ÷ 8). -/
def gaussNeg (n : Nat) : Nat :=
  let q := (expNeg (n * n) 32768).toNat
  let q2 := q * q / 2 ^ seriesBits
  q2 * q2 / 2 ^ seriesBits

/-- Φ(n ÷ 64) − ½ for n ≥ 0, in units of 2^-seriesBits, Φ the standard normal distribution function. -/
def phiHalf (n : Nat) : Nat :=
  let sum := phiTerms n 600 0 (2 ^ seriesBits * n / 64)
  sum * gaussNeg n / 2 ^ seriesBits * invSqrt2Pi / 2 ^ seriesBits

/-- GELU(i ÷ 64) = y · Φ(y), rounded to 2^-20. -/
def geluPoint (i : Int) : Int :=
  let h : Int := phiHalf i.natAbs
  let phi : Int := if i < 0 then ((2 ^ (seriesBits - 1) : Nat) : Int) - h else ((2 ^ (seriesBits - 1) : Nat) : Int) + h
  rne (i * phi * 16384) (2 ^ seriesBits)

/-- A function of R121 at the long value `y`: 0 below −16, `y` from 16 up, and between these the linear
interpolation of the table's points at spacing 2^-6, rounded to 2^-20. -/
def interpolate (point : Int → Int) (y : Int) : Int :=
  if y < -(16 * longOne) then 0
  else if 16 * longOne ≤ y then y
  else
    let i := y / 67108864
    let f := y % 67108864
    let a := point i
    let b := point (i + 1)
    rne (a * 67108864 + (b - a) * f) 67108864 * 4096

/-- The activation stage (Table 4.4, ACT of Table 6.8): identity, ReLU, GELU, SiLU. -/
def activation (act : Nat) (y : Int) : Int :=
  if act = 1 then max 0 y
  else if act = 2 then interpolate geluPoint y
  else if act = 3 then interpolate siluPoint y
  else y

/-! ### Plot arithmetic (R53, R166) -/

/-- ⌊√n⌋ by bits: `b` is the bit tried next. -/
def isqrtBits (n : Nat) : Nat → Nat → Nat
  | 0, r => r
  | b + 1, r =>
    let r1 := r + 2 ^ b
    isqrtBits n b (if r1 * r1 ≤ n then r1 else r)

/-- ⌊√n⌋. -/
def isqrt (n : Nat) : Nat := isqrtBits n (Nat.log2 n / 2 + 1) 0

/-- z^(−1/2), z = num ÷ den > 0, as (m, k) with value m · 2^-k: a 64-bit significand, rounded to nearest with
ties to even (R166). -/
def invSqrt (num den : Nat) : Nat × Int :=
  -- 2^(2k) · den ÷ num lies in [2^126, 2^128) for the right k
  let lz : Int := (Nat.log2 num : Int) - (Nat.log2 den : Int)
  let k0 : Int := (126 + lz) / 2
  let sc : Int → Nat × Nat := fun k =>
    if 0 ≤ k then (den * 2 ^ (2 * k.toNat), num) else (den, num * 2 ^ (2 * (-k).toNat))
  let fit : Int → Bool := fun k => decide (2 ^ 126 * (sc k).2 ≤ (sc k).1) && decide ((sc k).1 < 2 ^ 128 * (sc k).2)
  let k := if fit k0 then k0 else if fit (k0 + 1) then k0 + 1 else k0 - 1
  let a := (sc k).1
  let b := (sc k).2
  let m := isqrt (a / b)
  -- m ≤ √(a ÷ b) < m + 1; compare with m + ½
  let lhs := (2 * m + 1) * (2 * m + 1) * b
  let m1 := if lhs < 4 * a then m + 1 else if 4 * a < lhs then m else if m % 2 = 0 then m else m + 1
  if m1 = 2 ^ 64 then (2 ^ 63, k - 1) else (m1, k)

/-- Seeded mixing of PLT.SAMPLE (R166). -/
def mix64 (seed pos : Dword) : Dword :=
  let z0 := seed + pos * 0x9E3779B97F4A7C15
  let z1 := (z0 ^^^ (z0 >>> 30)) * 0xBF58476D1CE4E5B9
  let z2 := (z1 ^^^ (z1 >>> 27)) * 0x94D049BB133111EB
  z2 ^^^ (z2 >>> 31)

end Sys2Proof.Machine
end

