-- ==== Sys2Proof/Machine/Regs.lean ====
section
/-!
DEFINITION. Every register field of the manual's register maps: place, access code and reset value, each
transcribed from the table its docstring names. A field of a register array has a stride and a count.
`tileFields` are the fields of a tile's register block (Tables 3.9 to 3.14, 4.5 to 4.9, 5.4 to 5.12), and
`reg2Fields` those of the control region (Table 13.6), at their region-2 offsets.
-/

namespace Sys2Proof.Machine

/-- Register access codes (R7, Table 0.3). -/
inductive Acc
  | ro | rw | w1c | w1s | wo | rwl
deriving DecidableEq, Repr

/-- One field of a register (or of each register of an array): offset of the first register, distance and
number of the registers, lowest bit, width, access code, and the reset values by index (one value: the same
for every index). -/
structure Fld where
  off    : Nat
  stride : Nat
  count  : Nat
  lo     : Nat
  width  : Nat
  acc    : Acc
  resets : List Nat
deriving DecidableEq, Repr

/-! ### Block tile -/

/-- Table 5.6 (R149). -/
def TIL_CTL_RUN : Fld := ⟨0x0, 0, 1, 0, 1, .rw, [0]⟩
/-- Table 5.6 (R149). -/
def TIL_CTL_GATE_EN : Fld := ⟨0x0, 0, 1, 1, 1, .rw, [1]⟩
/-- Table 5.6 (R149). -/
def TIL_CTL_FENCE : Fld := ⟨0x0, 0, 1, 2, 1, .w1s, [0]⟩
/-- Table 5.6 (R149). -/
def TIL_CTL_WDOG_LOCK : Fld := ⟨0x0, 0, 1, 3, 1, .w1s, [0]⟩
/-- Table 5.6 (R149). -/
def TIL_CTL_SRST : Fld := ⟨0x0, 0, 1, 4, 1, .wo, [0]⟩
/-- Table 5.7 (R149). -/
def TIL_STATUS_ENG_STATE : Fld := ⟨0x4, 0, 1, 0, 10, .ro, [0]⟩
/-- Table 5.7 (R149). -/
def TIL_STATUS_CLK_ON : Fld := ⟨0x4, 0, 1, 10, 1, .ro, [0]⟩
/-- Table 5.7 (R149). -/
def TIL_STATUS_WAKE_PEND : Fld := ⟨0x4, 0, 1, 11, 1, .ro, [0]⟩
/-- Table 5.7 (R149). -/
def TIL_STATUS_FENCED : Fld := ⟨0x4, 0, 1, 12, 1, .ro, [0]⟩
/-- Table 5.7 (R149). -/
def TIL_STATUS_FAULT : Fld := ⟨0x4, 0, 1, 13, 1, .ro, [0]⟩
/-- Table 5.8 (R149). -/
def TIL_FAULT_CAUSE : Fld := ⟨0x8, 0, 1, 0, 4, .ro, [0]⟩
/-- Table 5.8 (R149). -/
def TIL_FAULT_ENGINE : Fld := ⟨0x8, 0, 1, 4, 3, .ro, [0]⟩
/-- Table 5.8 (R149). -/
def TIL_FAULT_PC : Fld := ⟨0x8, 0, 1, 8, 9, .ro, [0]⟩
/-- Table 5.8 (R149). -/
def TIL_FAULT_MULTI : Fld := ⟨0x8, 0, 1, 30, 1, .ro, [0]⟩
/-- Table 5.8 (R149). -/
def TIL_FAULT_VALID : Fld := ⟨0x8, 0, 1, 31, 1, .w1c, [0]⟩
/-- Table 5.9 (R149). -/
def TIL_ENG_PC_PC : Fld := ⟨0x10, 4, 5, 0, 9, .rw, [0]⟩
/-- Table 5.10 (R482). -/
def TIL_WDOG_LIMIT : Fld := ⟨0x40, 4, 9, 0, 20, .rwl, [1200, 24000, 19200, 480, 12, 48, 6000, 60000, 24000]⟩
/-- Table 5.11 (R482). -/
def TIL_GATE_WAKE_LEAD : Fld := ⟨0x80, 0, 1, 0, 8, .rw, [16]⟩
/-- Table 5.11 (R482). -/
def TIL_GATE_IDLE : Fld := ⟨0x80, 0, 1, 8, 16, .rw, [1200]⟩
/-- Table 5.12 (R482). -/
def TIL_TOKQ_LEVEL0 : Fld := ⟨0xC0, 4, 7, 0, 6, .ro, [0]⟩
/-- Table 5.12 (R482). -/
def TIL_TOKQ_LEVEL1 : Fld := ⟨0xC0, 4, 7, 8, 6, .ro, [0, 0, 0, 0, 0, 0, 1]⟩
/-- Table 5.12 (R482). -/
def TIL_TOKQ_LEVEL2 : Fld := ⟨0xC0, 4, 7, 16, 6, .ro, [0, 0, 0, 0, 0, 0, 1]⟩
/-- Table 5.12 (R482). -/
def TIL_TOKQ_LEVEL3 : Fld := ⟨0xC0, 4, 7, 24, 6, .ro, [0]⟩
/-- Table 5.5 (R149). -/
def TIL_STORE_WAIT : Fld := ⟨0x100, 0, 1, 0, 32, .ro, [0]⟩
/-- Table 5.5 (R149). -/
def TIL_GATE_STARTS : Fld := ⟨0x104, 0, 1, 0, 32, .ro, [0]⟩
/-- Table 5.5 (R149). -/
def TIL_RTR_MERGED : Fld := ⟨0x108, 0, 1, 0, 32, .ro, [0]⟩
/-- Table 5.5 (R149). -/
def TIL_RTR_MERGE_FULL : Fld := ⟨0x10C, 0, 1, 0, 32, .ro, [0]⟩
/-- Table 3.10 (R97). -/
def TIL_ARR_STATUS_PORT_STATE : Fld := ⟨0x400, 0, 1, 0, 2, .ro, [0]⟩
/-- Table 3.10 (R97). -/
def TIL_ARR_STATUS_STBD_STATE : Fld := ⟨0x400, 0, 1, 2, 2, .ro, [0]⟩
/-- Table 3.10 (R97). -/
def TIL_ARR_STATUS_PORT_FMT : Fld := ⟨0x400, 0, 1, 4, 4, .ro, [0]⟩
/-- Table 3.10 (R97). -/
def TIL_ARR_STATUS_STBD_FMT : Fld := ⟨0x400, 0, 1, 8, 4, .ro, [0]⟩
/-- Table 3.10 (R97). -/
def TIL_ARR_STATUS_PORT_HELD : Fld := ⟨0x400, 0, 1, 12, 1, .ro, [0]⟩
/-- Table 3.10 (R97). -/
def TIL_ARR_STATUS_STBD_HELD : Fld := ⟨0x400, 0, 1, 13, 1, .ro, [0]⟩
/-- Table 3.10 (R97). -/
def TIL_ARR_STATUS_MODE : Fld := ⟨0x400, 0, 1, 14, 1, .ro, [0]⟩
/-- Table 3.10 (R97). -/
def TIL_ARR_STATUS_RETRYQ : Fld := ⟨0x400, 0, 1, 16, 5, .ro, [0]⟩
/-- Table 3.10 (R97). -/
def TIL_ARR_STATUS_DEMOTE_PEND : Fld := ⟨0x400, 0, 1, 24, 1, .ro, [0]⟩
/-- Table 3.10 (R97). -/
def TIL_ARR_STATUS_DEMOTED : Fld := ⟨0x400, 0, 1, 25, 1, .ro, [0]⟩
/-- Table 3.11 (R97). -/
def TIL_ARR_BANKTAG_P_TAG : Fld := ⟨0x408, 0, 1, 0, 32, .ro, [0]⟩
/-- Table 3.11 (R97). -/
def TIL_ARR_BANKTAG_S_TAG : Fld := ⟨0x40C, 0, 1, 0, 32, .ro, [0]⟩
/-- Table 3.12 (R97). -/
def TIL_ARR_FAULT_SWAP : Fld := ⟨0x410, 0, 1, 0, 1, .w1c, [0]⟩
/-- Table 3.12 (R97). -/
def TIL_ARR_FAULT_BANKBUSY : Fld := ⟨0x410, 0, 1, 1, 1, .w1c, [0]⟩
/-- Table 3.12 (R97). -/
def TIL_ARR_FAULT_WRCRC : Fld := ⟨0x410, 0, 1, 2, 1, .w1c, [0]⟩
/-- Table 3.12 (R97). -/
def TIL_ARR_FAULT_WRFMT : Fld := ⟨0x410, 0, 1, 3, 1, .w1c, [0]⟩
/-- Table 3.12 (R97). -/
def TIL_ARR_FAULT_DOGSLOT : Fld := ⟨0x410, 0, 1, 4, 1, .w1c, [0]⟩
/-- Table 3.12 (R97). -/
def TIL_ARR_FAULT_WRSRC : Fld := ⟨0x410, 0, 1, 5, 1, .w1c, [0]⟩
/-- Table 3.12 (R97). -/
def TIL_ARR_FAULT_BANK : Fld := ⟨0x410, 0, 1, 8, 1, .ro, [0]⟩
/-- Table 3.13 (R97). -/
def TIL_ARR_MARGIN_MIN : Fld := ⟨0x418, 0, 1, 0, 4, .ro, [0]⟩
/-- Table 3.13 (R97). -/
def TIL_ARR_MARGIN_MEAN : Fld := ⟨0x418, 0, 1, 8, 8, .ro, [0]⟩
/-- Table 3.13 (R97). -/
def TIL_ARR_MARGIN_VALID : Fld := ⟨0x418, 0, 1, 16, 1, .ro, [0]⟩
/-- Table 3.9 (R97). -/
def TIL_ARR_PLANES : Fld := ⟨0x420, 0, 1, 0, 32, .ro, [0]⟩
/-- Table 3.9 (R97). -/
def TIL_ARR_SKIPPED : Fld := ⟨0x424, 0, 1, 0, 32, .ro, [0]⟩
/-- Table 3.9 (R97). -/
def TIL_ARR_SEGSKIP : Fld := ⟨0x428, 0, 1, 0, 32, .ro, [0]⟩
/-- Table 3.9 (R97). -/
def TIL_ARR_RETRIES : Fld := ⟨0x42C, 0, 1, 0, 32, .ro, [0]⟩
/-- Table 3.9 (R97). -/
def TIL_ARR_PASSED : Fld := ⟨0x430, 0, 1, 0, 32, .ro, [0]⟩
/-- Table 3.9 (R97). -/
def TIL_ARR_BANKWR : Fld := ⟨0x434, 0, 1, 0, 32, .ro, [0]⟩
/-- Table 3.14 (R97). -/
def TIL_COLREP_COLUMN : Fld := ⟨0x440, 4, 64, 0, 10, .rwl, [0]⟩
/-- Table 3.14 (R97). -/
def TIL_COLREP_VALID : Fld := ⟨0x440, 4, 64, 15, 1, .rwl, [0]⟩
/-- Table 3.14 (R97). -/
def TIL_ARR_LOCK_LOCK : Fld := ⟨0x540, 0, 1, 0, 1, .w1s, [0]⟩
/-- Table 4.6 (R129). -/
def TIL_SID_STATUS_SET0_MODE : Fld := ⟨0x800, 0, 1, 0, 1, .ro, [0]⟩
/-- Table 4.6 (R129). -/
def TIL_SID_STATUS_SET0_STATE : Fld := ⟨0x800, 0, 1, 1, 1, .ro, [0]⟩
/-- Table 4.6 (R129). -/
def TIL_SID_STATUS_SET1_MODE : Fld := ⟨0x800, 0, 1, 2, 1, .ro, [0]⟩
/-- Table 4.6 (R129). -/
def TIL_SID_STATUS_SET1_STATE : Fld := ⟨0x800, 0, 1, 3, 1, .ro, [0]⟩
/-- Table 4.6 (R129). -/
def TIL_SID_STATUS_PIPE_BUSY : Fld := ⟨0x800, 0, 1, 4, 1, .ro, [0]⟩
/-- Table 4.6 (R129). -/
def TIL_SID_STATUS_LANE_BUSY : Fld := ⟨0x800, 0, 1, 5, 1, .ro, [0]⟩
/-- Table 4.6 (R129). -/
def TIL_SID_STATUS_RCQ : Fld := ⟨0x800, 0, 1, 8, 5, .ro, [0]⟩
/-- Table 4.7 (R129). -/
def TIL_SID_FAULT_RCQFULL : Fld := ⟨0x804, 0, 1, 0, 1, .w1c, [0]⟩
/-- Table 4.7 (R129). -/
def TIL_SID_FAULT_RCLATE : Fld := ⟨0x804, 0, 1, 1, 1, .w1c, [0]⟩
/-- Table 4.7 (R129). -/
def TIL_SID_FAULT_DRAINEARLY : Fld := ⟨0x804, 0, 1, 2, 1, .w1c, [0]⟩
/-- Table 4.7 (R129). -/
def TIL_SID_FAULT_SETBUSY : Fld := ⟨0x804, 0, 1, 3, 1, .w1c, [0]⟩
/-- Table 4.7 (R129). -/
def TIL_SID_FAULT_MODEBUSY : Fld := ⟨0x804, 0, 1, 4, 1, .w1c, [0]⟩
/-- Table 4.7 (R129). -/
def TIL_SID_FAULT_WSCALE : Fld := ⟨0x804, 0, 1, 5, 1, .w1c, [0]⟩
/-- Table 4.7 (R129). -/
def TIL_SID_FAULT_SET : Fld := ⟨0x804, 0, 1, 8, 1, .ro, [0]⟩
/-- Table 4.7 (R129). -/
def TIL_SID_FAULT_ROW : Fld := ⟨0x804, 0, 1, 9, 4, .ro, [0]⟩
/-- Table 4.8 (R129). -/
def TIL_SID_ROT_RHO : Fld := ⟨0x808, 0, 1, 0, 4, .ro, [0]⟩
/-- Table 4.5 (R129). -/
def TIL_SID_CMPFAIL : Fld := ⟨0x810, 0, 1, 0, 32, .ro, [0]⟩
/-- Table 4.5 (R129). -/
def TIL_SID_RNGFAIL : Fld := ⟨0x814, 0, 1, 0, 32, .ro, [0]⟩
/-- Table 4.5 (R129). -/
def TIL_SID_SHDFAIL : Fld := ⟨0x818, 0, 1, 0, 32, .ro, [0]⟩
/-- Table 4.5 (R129). -/
def TIL_SID_RECOMP : Fld := ⟨0x81C, 0, 1, 0, 32, .ro, [0]⟩
/-- Table 4.5 (R129). -/
def TIL_SID_CLIP : Fld := ⟨0x820, 0, 1, 0, 32, .ro, [0]⟩
/-- Table 4.5 (R129). -/
def TIL_SID_UFLOW : Fld := ⟨0x824, 0, 1, 0, 32, .ro, [0]⟩
/-- Table 4.5 (R129). -/
def TIL_SID_SAT : Fld := ⟨0x828, 0, 1, 0, 32, .ro, [0]⟩
/-- Table 4.5 (R129). -/
def TIL_SID_OVF : Fld := ⟨0x82C, 0, 1, 0, 32, .ro, [0]⟩
/-- Table 4.5 (R129). -/
def TIL_SID_FORMAT : Fld := ⟨0x830, 0, 1, 0, 32, .ro, [0]⟩

/-- The fields of block tile. -/
def tileFields : List Fld :=
  [TIL_CTL_RUN, TIL_CTL_GATE_EN, TIL_CTL_FENCE, TIL_CTL_WDOG_LOCK, TIL_CTL_SRST, TIL_STATUS_ENG_STATE, TIL_STATUS_CLK_ON, TIL_STATUS_WAKE_PEND, TIL_STATUS_FENCED, TIL_STATUS_FAULT, TIL_FAULT_CAUSE, TIL_FAULT_ENGINE]
  ++ [TIL_FAULT_PC, TIL_FAULT_MULTI, TIL_FAULT_VALID, TIL_ENG_PC_PC, TIL_WDOG_LIMIT, TIL_GATE_WAKE_LEAD, TIL_GATE_IDLE, TIL_TOKQ_LEVEL0, TIL_TOKQ_LEVEL1, TIL_TOKQ_LEVEL2, TIL_TOKQ_LEVEL3, TIL_STORE_WAIT]
  ++ [TIL_GATE_STARTS, TIL_RTR_MERGED, TIL_RTR_MERGE_FULL, TIL_ARR_STATUS_PORT_STATE, TIL_ARR_STATUS_STBD_STATE, TIL_ARR_STATUS_PORT_FMT, TIL_ARR_STATUS_STBD_FMT, TIL_ARR_STATUS_PORT_HELD, TIL_ARR_STATUS_STBD_HELD, TIL_ARR_STATUS_MODE, TIL_ARR_STATUS_RETRYQ, TIL_ARR_STATUS_DEMOTE_PEND]
  ++ [TIL_ARR_STATUS_DEMOTED, TIL_ARR_BANKTAG_P_TAG, TIL_ARR_BANKTAG_S_TAG, TIL_ARR_FAULT_SWAP, TIL_ARR_FAULT_BANKBUSY, TIL_ARR_FAULT_WRCRC, TIL_ARR_FAULT_WRFMT, TIL_ARR_FAULT_DOGSLOT, TIL_ARR_FAULT_WRSRC, TIL_ARR_FAULT_BANK, TIL_ARR_MARGIN_MIN, TIL_ARR_MARGIN_MEAN]
  ++ [TIL_ARR_MARGIN_VALID, TIL_ARR_PLANES, TIL_ARR_SKIPPED, TIL_ARR_SEGSKIP, TIL_ARR_RETRIES, TIL_ARR_PASSED, TIL_ARR_BANKWR, TIL_COLREP_COLUMN, TIL_COLREP_VALID, TIL_ARR_LOCK_LOCK, TIL_SID_STATUS_SET0_MODE, TIL_SID_STATUS_SET0_STATE]
  ++ [TIL_SID_STATUS_SET1_MODE, TIL_SID_STATUS_SET1_STATE, TIL_SID_STATUS_PIPE_BUSY, TIL_SID_STATUS_LANE_BUSY, TIL_SID_STATUS_RCQ, TIL_SID_FAULT_RCQFULL, TIL_SID_FAULT_RCLATE, TIL_SID_FAULT_DRAINEARLY, TIL_SID_FAULT_SETBUSY, TIL_SID_FAULT_MODEBUSY, TIL_SID_FAULT_WSCALE, TIL_SID_FAULT_SET]
  ++ [TIL_SID_FAULT_ROW, TIL_SID_ROT_RHO, TIL_SID_CMPFAIL, TIL_SID_RNGFAIL, TIL_SID_SHDFAIL, TIL_SID_RECOMP, TIL_SID_CLIP, TIL_SID_UFLOW, TIL_SID_SAT, TIL_SID_OVF, TIL_SID_FORMAT]

/-! ### Block stk -/

/-- Table 12.6 (R309). -/
def STK_RT_CTL_COMB_EN : Fld := ⟨0x0, 0, 1, 0, 1, .rw, [1]⟩
/-- Table 12.6 (R309). -/
def STK_RT_CTL_LOCK : Fld := ⟨0x0, 0, 1, 1, 1, .w1s, [0]⟩
/-- Table 12.6 (R309). -/
def STK_RT_CTL_CLRMAX : Fld := ⟨0x0, 0, 1, 2, 1, .wo, [0]⟩
/-- Table 12.6 (R309). -/
def STK_RT_STATUS_MAPPED : Fld := ⟨0x4, 0, 1, 0, 9, .ro, [0]⟩
/-- Table 12.6 (R309). -/
def STK_RT_STATUS_NFAIL : Fld := ⟨0x4, 0, 1, 9, 4, .ro, [0]⟩
/-- Table 12.6 (R309). -/
def STK_RT_STATUS_LEGAL : Fld := ⟨0x4, 0, 1, 13, 1, .ro, [0]⟩
/-- Table 12.7 (R309). -/
def STK_NOC_FAULT_CREDIT : Fld := ⟨0x8, 0, 1, 0, 1, .w1c, [0]⟩
/-- Table 12.7 (R309). -/
def STK_NOC_FAULT_XREPLAY : Fld := ⟨0x8, 0, 1, 1, 1, .w1c, [0]⟩
/-- Table 12.7 (R309). -/
def STK_NOC_FAULT_XDOWN : Fld := ⟨0x8, 0, 1, 2, 1, .w1c, [0]⟩
/-- Table 12.7 (R309). -/
def STK_WPWAIT_MESH : Fld := ⟨0xC, 0, 1, 0, 8, .ro, [0]⟩
/-- Table 12.7 (R309). -/
def STK_WPWAIT_XING : Fld := ⟨0xC, 0, 1, 8, 8, .ro, [0]⟩
/-- Table 12.8 (R309). -/
def STK_RT_FAIL_SITE : Fld := ⟨0x10, 4, 8, 0, 9, .rwl, [0]⟩
/-- Table 12.8 (R309). -/
def STK_RT_FAIL_VALID : Fld := ⟨0x10, 4, 8, 15, 1, .rwl, [0]⟩
/-- Table 12.5 (R309). -/
def STK_FLITS_VC0 : Fld := ⟨0x80, 0, 1, 0, 32, .ro, [0]⟩
/-- Table 12.5 (R309). -/
def STK_FLITS_VC1 : Fld := ⟨0x84, 0, 1, 0, 32, .ro, [0]⟩
/-- Table 12.5 (R309). -/
def STK_FLITS_VC2 : Fld := ⟨0x88, 0, 1, 0, 32, .ro, [0]⟩
/-- Table 12.5 (R309). -/
def STK_FLITS_VC3 : Fld := ⟨0x8C, 0, 1, 0, 32, .ro, [0]⟩
/-- Table 12.5 (R309). -/
def STK_COMBINED : Fld := ⟨0x90, 0, 1, 0, 32, .ro, [0]⟩
/-- Table 12.5 (R309). -/
def STK_COMB_FULL : Fld := ⟨0x94, 0, 1, 0, 32, .ro, [0]⟩
/-- Table 12.5 (R309). -/
def STK_STARVE : Fld := ⟨0x98, 0, 1, 0, 32, .ro, [0]⟩
/-- Table 12.9 (R309). -/
def STK_RT_MAP_SITE0 : Fld := ⟨0x400, 4, 240, 0, 9, .rwl, [0]⟩
/-- Table 12.9 (R309). -/
def STK_RT_MAP_VALID0 : Fld := ⟨0x400, 4, 240, 15, 1, .rwl, [0]⟩
/-- Table 12.9 (R309). -/
def STK_RT_MAP_SITE1 : Fld := ⟨0x400, 4, 240, 16, 9, .rwl, [0]⟩
/-- Table 12.9 (R309). -/
def STK_RT_MAP_VALID1 : Fld := ⟨0x400, 4, 240, 31, 1, .rwl, [0]⟩

/-- The fields of block stk. -/
def stkFields : List Fld :=
  [STK_RT_CTL_COMB_EN, STK_RT_CTL_LOCK, STK_RT_CTL_CLRMAX, STK_RT_STATUS_MAPPED, STK_RT_STATUS_NFAIL, STK_RT_STATUS_LEGAL, STK_NOC_FAULT_CREDIT, STK_NOC_FAULT_XREPLAY, STK_NOC_FAULT_XDOWN, STK_WPWAIT_MESH, STK_WPWAIT_XING, STK_RT_FAIL_SITE]
  ++ [STK_RT_FAIL_VALID, STK_FLITS_VC0, STK_FLITS_VC1, STK_FLITS_VC2, STK_FLITS_VC3, STK_COMBINED, STK_COMB_FULL, STK_STARVE, STK_RT_MAP_SITE0, STK_RT_MAP_VALID0, STK_RT_MAP_SITE1, STK_RT_MAP_VALID1]

/-! ### Block sxt -/

/-- Table 7.7 (R201). -/
def SXT_CTL_EN : Fld := ⟨0x10000, 0, 1, 0, 1, .rwl, [1]⟩
/-- Table 7.7 (R201). -/
def SXT_CTL_IDLE_EN : Fld := ⟨0x10000, 0, 1, 1, 1, .rwl, [1]⟩
/-- Table 7.7 (R201). -/
def SXT_CTL_FIX_REQ : Fld := ⟨0x10000, 0, 1, 2, 1, .w1s, [0]⟩
/-- Table 7.7 (R201). -/
def SXT_CTL_STRETCH_EN : Fld := ⟨0x10000, 0, 1, 3, 1, .rwl, [1]⟩
/-- Table 7.7 (R201). -/
def SXT_CTL_DEMAND_WAIT : Fld := ⟨0x10000, 0, 1, 4, 8, .rwl, [8]⟩
/-- Table 7.7 (R201). -/
def SXT_CTL_LOCK : Fld := ⟨0x10000, 0, 1, 12, 1, .w1s, [0]⟩
/-- Table 7.8 (R201). -/
def SXT_STATUS_ACTIVITY : Fld := ⟨0x10004, 0, 1, 0, 3, .ro, [0]⟩
/-- Table 7.8 (R201). -/
def SXT_STATUS_STEPPING : Fld := ⟨0x10004, 0, 1, 3, 1, .ro, [0]⟩
/-- Table 7.8 (R201). -/
def SXT_STATUS_TEMP_INVALID : Fld := ⟨0x10004, 0, 1, 4, 1, .ro, [0]⟩
/-- Table 7.8 (R201). -/
def SXT_STATUS_NOTBL : Fld := ⟨0x10004, 0, 1, 5, 1, .ro, [0]⟩
/-- Table 7.8 (R201). -/
def SXT_STATUS_COMMIT : Fld := ⟨0x10004, 0, 1, 6, 1, .ro, [0]⟩
/-- Table 7.8 (R201). -/
def SXT_STATUS_REMAIN : Fld := ⟨0x10004, 0, 1, 16, 9, .ro, [0]⟩
/-- Table 7.9 (R201). -/
def SXT_TRIG_BRINGUP : Fld := ⟨0x10008, 0, 1, 0, 1, .w1c, [0]⟩
/-- Table 7.9 (R201). -/
def SXT_TRIG_TEMP : Fld := ⟨0x10008, 0, 1, 1, 1, .w1c, [0]⟩
/-- Table 7.9 (R201). -/
def SXT_TRIG_AGE : Fld := ⟨0x10008, 0, 1, 2, 1, .w1c, [0]⟩
/-- Table 7.9 (R201). -/
def SXT_TRIG_DEMAND : Fld := ⟨0x10008, 0, 1, 3, 1, .w1c, [0]⟩
/-- Table 7.9 (R201). -/
def SXT_TRIG_HOST : Fld := ⟨0x10008, 0, 1, 4, 1, .w1c, [0]⟩
/-- Table 7.9 (R201). -/
def SXT_TRIG_RESTART : Fld := ⟨0x10008, 0, 1, 5, 1, .w1c, [0]⟩
/-- Table 7.10 (R201). -/
def SXT_TEMP_FIXTEMP : Fld := ⟨0x1000C, 0, 1, 0, 16, .ro, [0]⟩
/-- Table 7.10 (R201). -/
def SXT_TEMP_NOWTEMP : Fld := ⟨0x1000C, 0, 1, 16, 16, .ro, [0]⟩
/-- Table 7.10 (R201). -/
def SXT_FIXTICK_LO_TICK : Fld := ⟨0x10010, 0, 1, 0, 32, .ro, [0]⟩
/-- Table 7.10 (R201). -/
def SXT_FIXTICK_HI_TICK : Fld := ⟨0x10014, 0, 1, 0, 32, .ro, [0]⟩
/-- Table 7.11 (R201). -/
def SXT_DOG_FIRST : Fld := ⟨0x10018, 0, 1, 0, 24, .rw, [0]⟩
/-- Table 7.11 (R201). -/
def SXT_DOG_COUNT : Fld := ⟨0x10018, 0, 1, 24, 8, .rw, [0]⟩
/-- Table 7.11 (R201). -/
def SXT_DOGPER_PERIOD : Fld := ⟨0x1001C, 0, 1, 0, 24, .rw, [0]⟩
/-- Table 7.11 (R201). -/
def SXT_DOGPER_EVERY : Fld := ⟨0x1001C, 0, 1, 24, 8, .rw, [1]⟩
/-- Table 7.12 (R201). -/
def SXT_DEMAND_PENDING : Fld := ⟨0x10020, 0, 1, 0, 9, .ro, [0]⟩
/-- Table 7.12 (R201). -/
def SXT_DEMAND_WAITED : Fld := ⟨0x10020, 0, 1, 16, 8, .ro, [0]⟩
/-- Table 7.12 (R201). -/
def SXT_DEMAND_STRETCH_REQ : Fld := ⟨0x10020, 0, 1, 24, 1, .ro, [0]⟩
/-- Table 7.12 (R201). -/
def SXT_TBL_A_VALID : Fld := ⟨0x10024, 0, 1, 0, 1, .ro, [0]⟩
/-- Table 7.12 (R201). -/
def SXT_TBL_B_VALID : Fld := ⟨0x10024, 0, 1, 1, 1, .ro, [0]⟩
/-- Table 7.12 (R201). -/
def SXT_TBL_INFORCE : Fld := ⟨0x10024, 0, 1, 2, 1, .ro, [0]⟩
/-- Table 7.12 (R201). -/
def SXT_TBL_CMTFAIL : Fld := ⟨0x10024, 0, 1, 3, 1, .w1c, [0]⟩
/-- Table 7.13 (R201). -/
def SXT_TBLSEQ_SEQ : Fld := ⟨0x10028, 0, 1, 0, 32, .ro, [0]⟩
/-- Table 7.13 (R201). -/
def SXT_DMAP_PEND : Fld := ⟨0x10040, 4, 15, 0, 32, .ro, [0]⟩
/-- Table 7.6 (R201). -/
def SXT_PASSES : Fld := ⟨0x10080, 0, 1, 0, 32, .ro, [0]⟩
/-- Table 7.6 (R201). -/
def SXT_SIGHTS : Fld := ⟨0x10084, 0, 1, 0, 32, .ro, [0]⟩
/-- Table 7.6 (R201). -/
def SXT_DEMANDS : Fld := ⟨0x10088, 0, 1, 0, 32, .ro, [0]⟩
/-- Table 7.6 (R201). -/
def SXT_STRETCH : Fld := ⟨0x1008C, 0, 1, 0, 32, .ro, [0]⟩
/-- Table 7.6 (R201). -/
def SXT_OUTRANGE : Fld := ⟨0x10090, 0, 1, 0, 32, .ro, [0]⟩
/-- Table 7.6 (R201). -/
def SXT_DISCARD : Fld := ⟨0x10094, 0, 1, 0, 32, .ro, [0]⟩
/-- Table 7.6 (R201). -/
def SXT_RESTART : Fld := ⟨0x10098, 0, 1, 0, 32, .ro, [0]⟩
/-- Table 7.6 (R201). -/
def SXT_DOGUSED : Fld := ⟨0x1009C, 0, 1, 0, 32, .ro, [0]⟩
/-- Table 7.6 (R201). -/
def SXT_IDLEUSED : Fld := ⟨0x100A0, 0, 1, 0, 32, .ro, [0]⟩

/-- The fields of block sxt. -/
def sxtFields : List Fld :=
  [SXT_CTL_EN, SXT_CTL_IDLE_EN, SXT_CTL_FIX_REQ, SXT_CTL_STRETCH_EN, SXT_CTL_DEMAND_WAIT, SXT_CTL_LOCK, SXT_STATUS_ACTIVITY, SXT_STATUS_STEPPING, SXT_STATUS_TEMP_INVALID, SXT_STATUS_NOTBL, SXT_STATUS_COMMIT, SXT_STATUS_REMAIN]
  ++ [SXT_TRIG_BRINGUP, SXT_TRIG_TEMP, SXT_TRIG_AGE, SXT_TRIG_DEMAND, SXT_TRIG_HOST, SXT_TRIG_RESTART, SXT_TEMP_FIXTEMP, SXT_TEMP_NOWTEMP, SXT_FIXTICK_LO_TICK, SXT_FIXTICK_HI_TICK, SXT_DOG_FIRST, SXT_DOG_COUNT]
  ++ [SXT_DOGPER_PERIOD, SXT_DOGPER_EVERY, SXT_DEMAND_PENDING, SXT_DEMAND_WAITED, SXT_DEMAND_STRETCH_REQ, SXT_TBL_A_VALID, SXT_TBL_B_VALID, SXT_TBL_INFORCE, SXT_TBL_CMTFAIL, SXT_TBLSEQ_SEQ, SXT_DMAP_PEND, SXT_PASSES]
  ++ [SXT_SIGHTS, SXT_DEMANDS, SXT_STRETCH, SXT_OUTRANGE, SXT_DISCARD, SXT_RESTART, SXT_DOGUSED, SXT_IDLEUSED]

/-! ### Block cht -/

/-- Table 9.12 (R243). -/
def CHT_CTL_EN : Fld := ⟨0x20000, 0, 1, 0, 1, .rw, [0]⟩
/-- Table 9.12 (R243). -/
def CHT_CTL_INV_ALL : Fld := ⟨0x20000, 0, 1, 1, 1, .wo, [0]⟩
/-- Table 9.12 (R243). -/
def CHT_CTL_LOCK : Fld := ⟨0x20000, 0, 1, 2, 1, .w1s, [0]⟩
/-- Table 9.12 (R243). -/
def CHT_STATUS_BUSY : Fld := ⟨0x20004, 0, 1, 0, 1, .ro, [0]⟩
/-- Table 9.12 (R243). -/
def CHT_STATUS_DEFERRED : Fld := ⟨0x20004, 0, 1, 1, 1, .ro, [0]⟩
/-- Table 9.12 (R243). -/
def CHT_STATUS_FULLMAP : Fld := ⟨0x20004, 0, 1, 16, 16, .ro, [0]⟩
/-- Table 9.13 (R243). -/
def CHT_FAULT_STALE : Fld := ⟨0x20008, 0, 1, 0, 1, .w1c, [0]⟩
/-- Table 9.13 (R243). -/
def CHT_FAULT_CORRUPT : Fld := ⟨0x20008, 0, 1, 1, 1, .w1c, [0]⟩
/-- Table 9.13 (R243). -/
def CHT_FAULT_CONTEXT : Fld := ⟨0x20008, 0, 1, 8, 14, .ro, [0]⟩
/-- Table 9.14 (R243). -/
def CHT_BASE_LO_BASE : Fld := ⟨0x20010, 0, 1, 0, 32, .rwl, [0]⟩
/-- Table 9.14 (R243). -/
def CHT_BASE_HI_BASE : Fld := ⟨0x20014, 0, 1, 0, 16, .rwl, [0]⟩
/-- Table 9.14 (R243). -/
def CHT_LAYOUT_BLOCKS : Fld := ⟨0x20018, 0, 1, 0, 5, .rwl, [0]⟩
/-- Table 9.14 (R243). -/
def CHT_LAYOUT_FRAMESZ : Fld := ⟨0x20018, 0, 1, 8, 8, .rwl, [0]⟩
/-- Table 9.14 (R243). -/
def CHT_FREE_FREE : Fld := ⟨0x2001C, 0, 1, 0, 24, .ro, [0]⟩
/-- Table 9.14 (R243). -/
def CHT_FREE_DEFER : Fld := ⟨0x2001C, 0, 1, 24, 8, .ro, [0]⟩
/-- Table 9.15 (R243). -/
def CHT_RING_OFFSET : Fld := ⟨0x20020, 0, 1, 0, 26, .rwl, [0]⟩
/-- Table 9.15 (R243). -/
def CHT_RING_SIZE : Fld := ⟨0x20020, 0, 1, 26, 6, .rwl, [0]⟩
/-- Table 9.15 (R243). -/
def CHT_HEAD_HEAD : Fld := ⟨0x20024, 0, 1, 0, 12, .rw, [0]⟩
/-- Table 9.15 (R243). -/
def CHT_TAIL_TAIL : Fld := ⟨0x20028, 0, 1, 0, 12, .ro, [0]⟩
/-- Table 9.15 (R243). -/
def CHT_LFMT_WIDTHS : Fld := ⟨0x20040, 4, 8, 0, 32, .rw, [0]⟩
/-- Table 9.11 (R243). -/
def CHT_HITS : Fld := ⟨0x20080, 0, 1, 0, 32, .ro, [0]⟩
/-- Table 9.11 (R243). -/
def CHT_MISSES : Fld := ⟨0x20084, 0, 1, 0, 32, .ro, [0]⟩
/-- Table 9.11 (R243). -/
def CHT_ALLOCS : Fld := ⟨0x20088, 0, 1, 0, 32, .ro, [0]⟩
/-- Table 9.11 (R243). -/
def CHT_COWS : Fld := ⟨0x2008C, 0, 1, 0, 32, .ro, [0]⟩
/-- Table 9.11 (R243). -/
def CHT_RELEASES : Fld := ⟨0x20090, 0, 1, 0, 32, .ro, [0]⟩
/-- Table 9.11 (R243). -/
def CHT_WRAPS : Fld := ⟨0x20094, 0, 1, 0, 32, .ro, [0]⟩
/-- Table 9.11 (R243). -/
def CHT_NULLS : Fld := ⟨0x20098, 0, 1, 0, 32, .ro, [0]⟩
/-- Table 9.11 (R243). -/
def CHT_OVERFLOWS : Fld := ⟨0x2009C, 0, 1, 0, 32, .ro, [0]⟩
/-- Table 9.16 (R243). -/
def RUT_CFG_K : Fld := ⟨0x20100, 0, 1, 0, 5, .rwl, [0]⟩
/-- Table 9.16 (R243). -/
def RUT_BUCKETS_OFFSET : Fld := ⟨0x20104, 0, 1, 0, 32, .rwl, [0]⟩
/-- Table 9.11 (R243). -/
def RUT_LOOKUPS : Fld := ⟨0x20108, 0, 1, 0, 32, .ro, [0]⟩
/-- Table 9.11 (R243). -/
def RUT_BLOCKS : Fld := ⟨0x2010C, 0, 1, 0, 32, .ro, [0]⟩
/-- Table 9.11 (R243). -/
def RUT_COLLIDE : Fld := ⟨0x20110, 0, 1, 0, 32, .ro, [0]⟩
/-- Table 9.11 (R243). -/
def RUT_INSERTS : Fld := ⟨0x20114, 0, 1, 0, 32, .ro, [0]⟩
/-- Table 9.11 (R243). -/
def RUT_EVICTS : Fld := ⟨0x20118, 0, 1, 0, 32, .ro, [0]⟩
/-- Table 9.16 (R243). -/
def CHT_SLOT_CONTEXT : Fld := ⟨0x21000, 4, 1024, 0, 14, .rw, [0]⟩
/-- Table 9.16 (R243). -/
def CHT_SLOT_BERTH : Fld := ⟨0x21000, 4, 1024, 14, 4, .rw, [0]⟩
/-- Table 9.16 (R243). -/
def CHT_SLOT_M : Fld := ⟨0x21000, 4, 1024, 18, 5, .rw, [0]⟩
/-- Table 9.16 (R243). -/
def CHT_SLOT_VALID : Fld := ⟨0x21000, 4, 1024, 31, 1, .rw, [0]⟩

/-- The fields of block cht. -/
def chtFields : List Fld :=
  [CHT_CTL_EN, CHT_CTL_INV_ALL, CHT_CTL_LOCK, CHT_STATUS_BUSY, CHT_STATUS_DEFERRED, CHT_STATUS_FULLMAP, CHT_FAULT_STALE, CHT_FAULT_CORRUPT, CHT_FAULT_CONTEXT, CHT_BASE_LO_BASE, CHT_BASE_HI_BASE, CHT_LAYOUT_BLOCKS]
  ++ [CHT_LAYOUT_FRAMESZ, CHT_FREE_FREE, CHT_FREE_DEFER, CHT_RING_OFFSET, CHT_RING_SIZE, CHT_HEAD_HEAD, CHT_TAIL_TAIL, CHT_LFMT_WIDTHS, CHT_HITS, CHT_MISSES, CHT_ALLOCS, CHT_COWS]
  ++ [CHT_RELEASES, CHT_WRAPS, CHT_NULLS, CHT_OVERFLOWS, RUT_CFG_K, RUT_BUCKETS_OFFSET, RUT_LOOKUPS, RUT_BLOCKS, RUT_COLLIDE, RUT_INSERTS, RUT_EVICTS, CHT_SLOT_CONTEXT]
  ++ [CHT_SLOT_BERTH, CHT_SLOT_M, CHT_SLOT_VALID]

/-! ### Block hlm -/

/-- Table 10.11 (R267). -/
def HLM_CTL_EN : Fld := ⟨0x30000, 0, 1, 0, 1, .rw, [0]⟩
/-- Table 10.11 (R267). -/
def HLM_CTL_LOCK : Fld := ⟨0x30000, 0, 1, 1, 1, .w1s, [0]⟩
/-- Table 10.11 (R267). -/
def HLM_STATUS_LEAD : Fld := ⟨0x30004, 0, 1, 0, 1, .ro, [0]⟩
/-- Table 10.11 (R267). -/
def HLM_STATUS_LEADSTK : Fld := ⟨0x30004, 0, 1, 1, 3, .ro, [0]⟩
/-- Table 10.11 (R267). -/
def HLM_STATUS_THERMSTOP : Fld := ⟨0x30004, 0, 1, 4, 1, .ro, [0]⟩
/-- Table 10.11 (R267). -/
def HLM_STATUS_LIVE : Fld := ⟨0x30004, 0, 1, 5, 15, .ro, [0]⟩
/-- Table 10.11 (R267). -/
def HLM_EVENT_EVENT : Fld := ⟨0x30008, 0, 1, 0, 32, .ro, [0]⟩
/-- Table 10.12 (R267). -/
def HLM_CLASS_TARGET : Fld := ⟨0x30010, 4, 4, 0, 16, .rw, [0]⟩
/-- Table 10.12 (R267). -/
def HLM_CLASS_MINRUN : Fld := ⟨0x30010, 4, 4, 16, 8, .rw, [0]⟩
/-- Table 10.12 (R267). -/
def HLM_CLASS_PREEMPT : Fld := ⟨0x30010, 4, 4, 24, 1, .rw, [0]⟩
/-- Table 10.13 (R267). -/
def HLM_RPT_BASE_LO_BASE : Fld := ⟨0x30020, 0, 1, 0, 32, .rwl, [0]⟩
/-- Table 10.13 (R267). -/
def HLM_RPT_BASE_HI_BASE : Fld := ⟨0x30024, 0, 1, 0, 32, .rwl, [0]⟩
/-- Table 10.13 (R267). -/
def HLM_RPT_CFG_SIZE : Fld := ⟨0x30028, 0, 1, 0, 5, .rwl, [0]⟩
/-- Table 10.13 (R267). -/
def HLM_RPT_HEAD_HEAD : Fld := ⟨0x3002C, 0, 1, 0, 32, .ro, [0]⟩
/-- Table 10.13 (R267). -/
def HLM_CPL_BASE_LO_BASE : Fld := ⟨0x30030, 0, 1, 0, 32, .rwl, [0]⟩
/-- Table 10.13 (R267). -/
def HLM_CPL_BASE_HI_BASE : Fld := ⟨0x30034, 0, 1, 0, 32, .rwl, [0]⟩
/-- Table 10.14 (R267). -/
def HLM_BERTH_STATE : Fld := ⟨0x30040, 4, 16, 0, 2, .ro, [0]⟩
/-- Table 10.14 (R267). -/
def HLM_BERTH_RPTWAIT : Fld := ⟨0x30040, 4, 16, 2, 1, .ro, [0]⟩
/-- Table 10.14 (R267). -/
def HLM_BERTH_STEPTO : Fld := ⟨0x30040, 4, 16, 8, 8, .rw, [0]⟩
/-- Table 10.14 (R267). -/
def HLM_BERTH_WPS : Fld := ⟨0x30040, 4, 16, 16, 16, .ro, [0]⟩
/-- Table 10.10 (R267). -/
def HLM_ADMITS : Fld := ⟨0x30080, 0, 1, 0, 32, .ro, [0]⟩
/-- Table 10.10 (R267). -/
def HLM_REFUSED : Fld := ⟨0x30084, 0, 1, 0, 32, .ro, [0]⟩
/-- Table 10.10 (R267). -/
def HLM_PAUSES : Fld := ⟨0x30088, 0, 1, 0, 32, .ro, [0]⟩
/-- Table 10.10 (R267). -/
def HLM_RESUMES : Fld := ⟨0x3008C, 0, 1, 0, 32, .ro, [0]⟩
/-- Table 10.10 (R267). -/
def HLM_CANCELS : Fld := ⟨0x30090, 0, 1, 0, 32, .ro, [0]⟩
/-- Table 10.10 (R267). -/
def HLM_LATE : Fld := ⟨0x30094, 0, 1, 0, 32, .ro, [0]⟩
/-- Table 10.10 (R267). -/
def HLM_RECORDS : Fld := ⟨0x30098, 0, 1, 0, 32, .ro, [0]⟩
/-- Table 10.10 (R267). -/
def HLM_RPTWAIT : Fld := ⟨0x3009C, 0, 1, 0, 32, .ro, [0]⟩
/-- Table 11.9 (R292). -/
def HLM_IMG_STATUS_BUSY : Fld := ⟨0x30100, 0, 1, 0, 1, .ro, [0]⟩
/-- Table 11.9 (R292). -/
def HLM_IMG_STATUS_OP : Fld := ⟨0x30100, 0, 1, 1, 4, .ro, [0]⟩
/-- Table 11.9 (R292). -/
def HLM_IMG_STATUS_PROGRESS : Fld := ⟨0x30100, 0, 1, 8, 7, .ro, [0]⟩
/-- Table 11.10 (R292). -/
def HLM_IMG_AREA_LO_BASE : Fld := ⟨0x30104, 0, 1, 0, 32, .rwl, [0]⟩
/-- Table 11.10 (R292). -/
def HLM_IMG_AREA_HI_BASE : Fld := ⟨0x30108, 0, 1, 0, 16, .rwl, [0]⟩
/-- Table 11.10 (R292). -/
def HLM_IMG_AREASZ_AREASZ : Fld := ⟨0x3010C, 0, 1, 0, 10, .rwl, [0]⟩
/-- Table 11.10 (R292). -/
def HLM_ADP_BASE_LO_BASE : Fld := ⟨0x30110, 0, 1, 0, 32, .rwl, [0]⟩
/-- Table 11.10 (R292). -/
def HLM_ADP_BASE_HI_BASE : Fld := ⟨0x30114, 0, 1, 0, 16, .rwl, [0]⟩
/-- Table 11.10 (R292). -/
def HLM_ADP_CFG_SIZE : Fld := ⟨0x30118, 0, 1, 0, 16, .rwl, [0]⟩
/-- Table 11.10 (R292). -/
def HLM_ADP_CFG_COUNT : Fld := ⟨0x30118, 0, 1, 16, 11, .rwl, [0]⟩
/-- Table 11.9 (R292). -/
def HLM_XING_BERTH : Fld := ⟨0x3011C, 0, 1, 0, 4, .ro, [0]⟩
/-- Table 11.9 (R292). -/
def HLM_XING_PHASE : Fld := ⟨0x3011C, 0, 1, 4, 2, .ro, [0]⟩
/-- Table 11.9 (R292). -/
def HLM_XING_BLOCKING : Fld := ⟨0x3011C, 0, 1, 8, 15, .ro, [0]⟩
/-- Table 11.9 (R292). -/
def HLM_BVER_VERSION : Fld := ⟨0x30140, 4, 16, 0, 32, .ro, [0]⟩
/-- Table 11.8 (R292). -/
def HLM_LOADS : Fld := ⟨0x30180, 0, 1, 0, 32, .ro, [0]⟩
/-- Table 11.8 (R292). -/
def HLM_SIGFAIL : Fld := ⟨0x30184, 0, 1, 0, 32, .ro, [0]⟩
/-- Table 11.8 (R292). -/
def HLM_DIGFAIL : Fld := ⟨0x30188, 0, 1, 0, 32, .ro, [0]⟩
/-- Table 11.8 (R292). -/
def HLM_STREAMREF : Fld := ⟨0x3018C, 0, 1, 0, 32, .ro, [0]⟩
/-- Table 11.8 (R292). -/
def HLM_CROSSINGS : Fld := ⟨0x30190, 0, 1, 0, 32, .ro, [0]⟩
/-- Table 11.8 (R292). -/
def HLM_PROGRAMS : Fld := ⟨0x30194, 0, 1, 0, 32, .ro, [0]⟩
/-- Table 16.6 (R393). -/
def HLM_RCV_CTL_REPLAY_MAX : Fld := ⟨0x30200, 0, 1, 0, 4, .rwl, [3]⟩
/-- Table 16.6 (R393). -/
def HLM_RCV_CTL_STRESS_EN : Fld := ⟨0x30200, 0, 1, 4, 1, .rw, [0]⟩
/-- Table 16.6 (R393). -/
def HLM_RCV_STATUS_REPLAYING : Fld := ⟨0x30204, 0, 1, 0, 16, .ro, [0]⟩
/-- Table 16.6 (R393). -/
def HLM_RCV_STATUS_SHAPE : Fld := ⟨0x30204, 0, 1, 16, 1, .w1c, [0]⟩
/-- Table 16.7 (R393). -/
def HLM_RCV_LAST_BERTH : Fld := ⟨0x30208, 0, 1, 0, 4, .ro, [0]⟩
/-- Table 16.7 (R393). -/
def HLM_RCV_LAST_CLASS : Fld := ⟨0x30208, 0, 1, 4, 4, .ro, [0]⟩
/-- Table 16.7 (R393). -/
def HLM_RCV_LAST_STACK : Fld := ⟨0x30208, 0, 1, 8, 3, .ro, [0]⟩
/-- Table 16.7 (R393). -/
def HLM_RCV_LAST_TILE : Fld := ⟨0x30208, 0, 1, 11, 9, .ro, [0]⟩
/-- Table 16.7 (R393). -/
def HLM_RCV_LAST_CAUSE : Fld := ⟨0x30208, 0, 1, 20, 4, .ro, [0]⟩
/-- Table 16.7 (R393). -/
def HLM_RCV_LAST_ATTEMPT : Fld := ⟨0x30208, 0, 1, 24, 4, .ro, [0]⟩
/-- Table 16.5 (R393). -/
def HLM_ABANDONS : Fld := ⟨0x30240, 0, 1, 0, 32, .ro, [0]⟩
/-- Table 16.5 (R393). -/
def HLM_REPLAYOK : Fld := ⟨0x30244, 0, 1, 0, 32, .ro, [0]⟩
/-- Table 16.5 (R393). -/
def HLM_GIVEUP : Fld := ⟨0x30248, 0, 1, 0, 32, .ro, [0]⟩
/-- Table 16.5 (R393). -/
def HLM_HBMISS : Fld := ⟨0x3024C, 0, 1, 0, 32, .ro, [0]⟩
/-- Table 16.5 (R393). -/
def HLM_STRESSRUN : Fld := ⟨0x30250, 0, 1, 0, 32, .ro, [0]⟩

/-- The fields of block hlm. -/
def hlmFields : List Fld :=
  [HLM_CTL_EN, HLM_CTL_LOCK, HLM_STATUS_LEAD, HLM_STATUS_LEADSTK, HLM_STATUS_THERMSTOP, HLM_STATUS_LIVE, HLM_EVENT_EVENT, HLM_CLASS_TARGET, HLM_CLASS_MINRUN, HLM_CLASS_PREEMPT, HLM_RPT_BASE_LO_BASE, HLM_RPT_BASE_HI_BASE]
  ++ [HLM_RPT_CFG_SIZE, HLM_RPT_HEAD_HEAD, HLM_CPL_BASE_LO_BASE, HLM_CPL_BASE_HI_BASE, HLM_BERTH_STATE, HLM_BERTH_RPTWAIT, HLM_BERTH_STEPTO, HLM_BERTH_WPS, HLM_ADMITS, HLM_REFUSED, HLM_PAUSES, HLM_RESUMES]
  ++ [HLM_CANCELS, HLM_LATE, HLM_RECORDS, HLM_RPTWAIT, HLM_IMG_STATUS_BUSY, HLM_IMG_STATUS_OP, HLM_IMG_STATUS_PROGRESS, HLM_IMG_AREA_LO_BASE, HLM_IMG_AREA_HI_BASE, HLM_IMG_AREASZ_AREASZ, HLM_ADP_BASE_LO_BASE, HLM_ADP_BASE_HI_BASE]
  ++ [HLM_ADP_CFG_SIZE, HLM_ADP_CFG_COUNT, HLM_XING_BERTH, HLM_XING_PHASE, HLM_XING_BLOCKING, HLM_BVER_VERSION, HLM_LOADS, HLM_SIGFAIL, HLM_DIGFAIL, HLM_STREAMREF, HLM_CROSSINGS, HLM_PROGRAMS]
  ++ [HLM_RCV_CTL_REPLAY_MAX, HLM_RCV_CTL_STRESS_EN, HLM_RCV_STATUS_REPLAYING, HLM_RCV_STATUS_SHAPE, HLM_RCV_LAST_BERTH, HLM_RCV_LAST_CLASS, HLM_RCV_LAST_STACK, HLM_RCV_LAST_TILE, HLM_RCV_LAST_CAUSE, HLM_RCV_LAST_ATTEMPT, HLM_ABANDONS, HLM_REPLAYOK]
  ++ [HLM_GIVEUP, HLM_HBMISS, HLM_STRESSRUN]

/-! ### Block chr -/

/-- Table 14.4 (R356). -/
def CHR_CTL_MODE : Fld := ⟨0x40000, 0, 1, 0, 1, .rwl, [0]⟩
/-- Table 14.4 (R356). -/
def CHR_CTL_ARM : Fld := ⟨0x40000, 0, 1, 1, 1, .wo, [0]⟩
/-- Table 14.4 (R356). -/
def CHR_CTL_LOCK : Fld := ⟨0x40000, 0, 1, 2, 1, .w1s, [0]⟩
/-- Table 14.4 (R356). -/
def CHR_STATUS_ALIGNED : Fld := ⟨0x40004, 0, 1, 0, 1, .ro, [0]⟩
/-- Table 14.4 (R356). -/
def CHR_STATUS_HOLDOVER : Fld := ⟨0x40004, 0, 1, 1, 1, .ro, [0]⟩
/-- Table 14.4 (R356). -/
def CHR_STATUS_ARMED : Fld := ⟨0x40004, 0, 1, 2, 1, .ro, [0]⟩
/-- Table 14.4 (R356). -/
def CHR_STATUS_STALE : Fld := ⟨0x40004, 0, 1, 3, 1, .w1c, [0]⟩
/-- Table 14.4 (R356). -/
def CHR_STATUS_LATE : Fld := ⟨0x40004, 0, 1, 4, 1, .w1c, [0]⟩
/-- Table 14.4 (R356). -/
def CHR_STATUS_BUSYL : Fld := ⟨0x40004, 0, 1, 5, 1, .w1c, [0]⟩
/-- Table 14.4 (R356). -/
def CHR_STATUS_AGREELATE : Fld := ⟨0x40004, 0, 1, 6, 1, .w1c, [0]⟩
/-- Table 14.4 (R356). -/
def CHR_STATUS_RTSKEW : Fld := ⟨0x40004, 0, 1, 7, 1, .w1c, [0]⟩
/-- Table 14.4 (R356). -/
def CHR_STATUS_PARENT : Fld := ⟨0x40004, 0, 1, 8, 4, .ro, [0]⟩
/-- Table 14.4 (R356). -/
def CHR_STATUS_ROOT : Fld := ⟨0x40004, 0, 1, 12, 1, .ro, [0]⟩
/-- Table 14.4 (R356). -/
def CHR_STATUS_DEPTH : Fld := ⟨0x40004, 0, 1, 16, 10, .ro, [0]⟩
/-- Table 14.5 (R356). -/
def CHR_TICK_LO_TICK : Fld := ⟨0x40008, 0, 1, 0, 32, .ro, [0]⟩
/-- Table 14.5 (R356). -/
def CHR_TICK_HI_TICK : Fld := ⟨0x4000C, 0, 1, 0, 32, .ro, [0]⟩
/-- Table 14.5 (R356). -/
def CHR_WATCH_WATCH : Fld := ⟨0x40010, 0, 1, 0, 32, .ro, [0]⟩
/-- Table 14.5 (R356). -/
def CHR_WSTART_LO_TICK : Fld := ⟨0x40014, 0, 1, 0, 32, .ro, [0]⟩
/-- Table 14.5 (R356). -/
def CHR_WSTART_HI_TICK : Fld := ⟨0x40018, 0, 1, 0, 32, .ro, [0]⟩
/-- Table 14.5 (R356). -/
def CHR_WLEN_L : Fld := ⟨0x4001C, 0, 1, 0, 21, .ro, [25600]⟩
/-- Table 14.5 (R356). -/
def CHR_EPOCH_EPOCH : Fld := ⟨0x40020, 0, 1, 0, 8, .ro, [0]⟩
/-- Table 14.5 (R356). -/
def CHR_EPOCH_NEXT : Fld := ⟨0x40020, 0, 1, 8, 8, .rw, [0]⟩
/-- Table 14.5 (R356). -/
def CHR_NEXT_WLEN_L : Fld := ⟨0x40024, 0, 1, 0, 21, .rw, [0]⟩
/-- Table 14.5 (R356). -/
def CHR_ACTIVATE_WATCH : Fld := ⟨0x40028, 0, 1, 0, 32, .rw, [0]⟩
/-- Table 14.6 (R356). -/
def CHR_OFFSET_OFFSET : Fld := ⟨0x4002C, 0, 1, 0, 16, .ro, [0]⟩
/-- Table 14.6 (R356). -/
def CHR_STRETCH_X : Fld := ⟨0x40030, 0, 1, 0, 21, .ro, [0]⟩
/-- Table 14.6 (R356). -/
def CHR_STRETCH_Q : Fld := ⟨0x40030, 0, 1, 21, 7, .ro, [0]⟩
/-- Table 14.6 (R356). -/
def CHR_STRETCH_D : Fld := ⟨0x40030, 0, 1, 28, 1, .ro, [0]⟩
/-- Table 14.6 (R356). -/
def CHR_AGREE_LO_WATCH : Fld := ⟨0x40038, 0, 1, 0, 32, .rw, [0]⟩
/-- Table 14.6 (R356). -/
def CHR_AGREE_HI_Q : Fld := ⟨0x4003C, 0, 1, 0, 7, .rw, [0]⟩
/-- Table 14.6 (R356). -/
def CHR_AGREE_HI_D : Fld := ⟨0x4003C, 0, 1, 7, 1, .rw, [0]⟩
/-- Table 14.3 (R356). -/
def CHR_ROUNDS : Fld := ⟨0x40080, 0, 1, 0, 32, .ro, [0]⟩
/-- Table 14.3 (R356). -/
def CHR_STRETCHES : Fld := ⟨0x40084, 0, 1, 0, 32, .ro, [0]⟩
/-- Table 14.3 (R356). -/
def CHR_SLEWS : Fld := ⟨0x40088, 0, 1, 0, 32, .ro, [0]⟩
/-- Table 14.3 (R356). -/
def CHR_WPTIMEOUT : Fld := ⟨0x4008C, 0, 1, 0, 32, .ro, [0]⟩

/-- The fields of block chr. -/
def chrFields : List Fld :=
  [CHR_CTL_MODE, CHR_CTL_ARM, CHR_CTL_LOCK, CHR_STATUS_ALIGNED, CHR_STATUS_HOLDOVER, CHR_STATUS_ARMED, CHR_STATUS_STALE, CHR_STATUS_LATE, CHR_STATUS_BUSYL, CHR_STATUS_AGREELATE, CHR_STATUS_RTSKEW, CHR_STATUS_PARENT]
  ++ [CHR_STATUS_ROOT, CHR_STATUS_DEPTH, CHR_TICK_LO_TICK, CHR_TICK_HI_TICK, CHR_WATCH_WATCH, CHR_WSTART_LO_TICK, CHR_WSTART_HI_TICK, CHR_WLEN_L, CHR_EPOCH_EPOCH, CHR_EPOCH_NEXT, CHR_NEXT_WLEN_L, CHR_ACTIVATE_WATCH]
  ++ [CHR_OFFSET_OFFSET, CHR_STRETCH_X, CHR_STRETCH_Q, CHR_STRETCH_D, CHR_AGREE_LO_WATCH, CHR_AGREE_HI_Q, CHR_AGREE_HI_D, CHR_ROUNDS, CHR_STRETCHES, CHR_SLEWS, CHR_WPTIMEOUT]

/-! ### Block spw -/

/-- Table 17.10 (R414). -/
def PWR_STK_CTL_ON : Fld := ⟨0x50000, 0, 1, 0, 1, .rw, [0]⟩
/-- Table 17.10 (R414). -/
def PWR_STK_CTL_STRESS_TILE : Fld := ⟨0x50000, 0, 1, 1, 9, .rw, [0]⟩
/-- Table 17.10 (R414). -/
def PWR_STK_CTL_STRESS_EN : Fld := ⟨0x50000, 0, 1, 10, 1, .rw, [0]⟩
/-- Table 17.10 (R414). -/
def PWR_STK_STATUS_STATE : Fld := ⟨0x50004, 0, 1, 0, 2, .ro, [0]⟩
/-- Table 17.10 (R414). -/
def PWR_STK_STATUS_VBD_OK : Fld := ⟨0x50004, 0, 1, 2, 1, .ro, [0]⟩
/-- Table 17.10 (R414). -/
def PWR_STK_STATUS_VREF_OK : Fld := ⟨0x50004, 0, 1, 3, 1, .ro, [0]⟩
/-- Table 17.10 (R414). -/
def PWR_STK_STATUS_DRAM_OK : Fld := ⟨0x50004, 0, 1, 4, 1, .ro, [0]⟩
/-- Table 17.10 (R414). -/
def CLK_PLL_REFDIV : Fld := ⟨0x50100, 4, 5, 0, 6, .rw, [25, 25, 25, 25, 25]⟩
/-- Table 17.10 (R414). -/
def CLK_PLL_FBDIV : Fld := ⟨0x50100, 4, 5, 6, 12, .rw, [768, 1056, 1024, 960, 960]⟩
/-- Table 17.10 (R414). -/
def CLK_PLL_POSTDIV : Fld := ⟨0x50100, 4, 5, 18, 4, .rw, [4, 5, 4, 3, 6]⟩
/-- Table 17.10 (R414). -/
def CLK_PLL_EN : Fld := ⟨0x50100, 4, 5, 22, 1, .rw, [1]⟩
/-- Table 17.10 (R414). -/
def CLK_PLL_LOCK : Fld := ⟨0x50100, 4, 5, 23, 1, .ro, [0]⟩
/-- Table 17.10 (R414). -/
def CLK_SEL_MESH : Fld := ⟨0x50120, 0, 1, 0, 1, .rw, [0]⟩
/-- Table 17.10 (R414). -/
def CLK_SEL_DRAM : Fld := ⟨0x50120, 0, 1, 1, 1, .rw, [0]⟩
/-- Table 17.10 (R414). -/
def CLK_SEL_ARRDIV : Fld := ⟨0x50120, 0, 1, 2, 2, .rw, [3]⟩
/-- Table 17.10 (R414). -/
def CLK_SEL_SWITCHING : Fld := ⟨0x50120, 0, 1, 4, 1, .ro, [0]⟩
/-- Table 17.10 (R414). -/
def CLK_TSEL_SEL : Fld := ⟨0x50140, 4, 15, 0, 32, .rw, [0]⟩
/-- Table 17.9 (R414). -/
def SCLK_FMEAS_CTL_TARGET : Fld := ⟨0x501C0, 0, 1, 0, 4, .rw, [0]⟩
/-- Table 17.9 (R414). -/
def SCLK_FMEAS_CTL_BASE : Fld := ⟨0x501C0, 0, 1, 4, 1, .rw, [0]⟩
/-- Table 17.9 (R414). -/
def SCLK_FMEAS_CTL_GO : Fld := ⟨0x501C0, 0, 1, 5, 1, .wo, [0]⟩
/-- Table 17.9 (R414). -/
def SCLK_FMEAS_CTL_DONE : Fld := ⟨0x501C0, 0, 1, 6, 1, .ro, [0]⟩
/-- Table 17.9 (R414). -/
def SCLK_FMEAS_CTL_GATE : Fld := ⟨0x501C0, 0, 1, 8, 24, .rw, [0]⟩
/-- Table 17.9 (R414). -/
def SCLK_FMEAS_RES_COUNT : Fld := ⟨0x501C4, 0, 1, 0, 32, .ro, [0]⟩

/-- The fields of block spw. -/
def spwFields : List Fld :=
  [PWR_STK_CTL_ON, PWR_STK_CTL_STRESS_TILE, PWR_STK_CTL_STRESS_EN, PWR_STK_STATUS_STATE, PWR_STK_STATUS_VBD_OK, PWR_STK_STATUS_VREF_OK, PWR_STK_STATUS_DRAM_OK, CLK_PLL_REFDIV, CLK_PLL_FBDIV, CLK_PLL_POSTDIV, CLK_PLL_EN, CLK_PLL_LOCK]
  ++ [CLK_SEL_MESH, CLK_SEL_DRAM, CLK_SEL_ARRDIV, CLK_SEL_SWITCHING, CLK_TSEL_SEL, SCLK_FMEAS_CTL_TARGET, SCLK_FMEAS_CTL_BASE, SCLK_FMEAS_CTL_GO, SCLK_FMEAS_CTL_DONE, SCLK_FMEAS_CTL_GATE, SCLK_FMEAS_RES_COUNT]

/-! ### Block flt -/

/-- Table 13.12 (R337). -/
def FLT_CTL_FLEET_EN : Fld := ⟨0x100000, 0, 1, 0, 1, .rwl, [0]⟩
/-- Table 13.12 (R337). -/
def FLT_CTL_DISCOVER : Fld := ⟨0x100000, 0, 1, 1, 1, .wo, [0]⟩
/-- Table 13.12 (R337). -/
def FLT_CTL_LOCK : Fld := ⟨0x100000, 0, 1, 2, 1, .w1s, [0]⟩
/-- Table 13.12 (R337). -/
def FLT_STATUS_DISC : Fld := ⟨0x100004, 0, 1, 0, 3, .ro, [0]⟩
/-- Table 13.12 (R337). -/
def FLT_STATUS_PILOT : Fld := ⟨0x100004, 0, 1, 3, 1, .ro, [0]⟩
/-- Table 13.12 (R337). -/
def FLT_STATUS_ROUND : Fld := ⟨0x100004, 0, 1, 8, 8, .ro, [0]⟩
/-- Table 13.13 (R337). -/
def FLT_SERIAL_LO_SERIAL : Fld := ⟨0x100008, 0, 1, 0, 32, .ro, [0]⟩
/-- Table 13.13 (R337). -/
def FLT_SERIAL_HI_SERIAL : Fld := ⟨0x10000C, 0, 1, 0, 32, .ro, [0]⟩
/-- Table 13.13 (R337). -/
def FLT_MOD_NUMBER : Fld := ⟨0x100010, 0, 1, 0, 10, .ro, [0]⟩
/-- Table 13.13 (R337). -/
def FLT_MOD_COUNT : Fld := ⟨0x100010, 0, 1, 10, 11, .ro, [1]⟩
/-- Table 13.13 (R337). -/
def FLT_MOD_VALID : Fld := ⟨0x100010, 0, 1, 21, 1, .ro, [0]⟩
/-- Table 13.13 (R337). -/
def FLT_MOD_HINT : Fld := ⟨0x100010, 0, 1, 22, 10, .ro, [0]⟩
/-- Table 13.13 (R337). -/
def FLT_REV_REVMIN : Fld := ⟨0x100014, 0, 1, 0, 8, .ro, [1]⟩
/-- Table 13.13 (R337). -/
def FLT_REV_REVMAX : Fld := ⟨0x100014, 0, 1, 8, 8, .ro, [1]⟩
/-- Table 13.13 (R337). -/
def FLT_REV_FLEETREV : Fld := ⟨0x100014, 0, 1, 16, 8, .ro, [0]⟩
/-- Table 13.13 (R337). -/
def FLT_TOPO_LO_ADDR : Fld := ⟨0x100018, 0, 1, 0, 32, .rwl, [0]⟩
/-- Table 13.13 (R337). -/
def FLT_TOPO_HI_ADDR : Fld := ⟨0x10001C, 0, 1, 0, 32, .rwl, [0]⟩
/-- Table 13.14 (R337). -/
def FLT_RT_CTL_COMMIT : Fld := ⟨0x100020, 0, 1, 0, 1, .wo, [0]⟩
/-- Table 13.14 (R337). -/
def FLT_RT_CTL_PENDING : Fld := ⟨0x100020, 0, 1, 1, 1, .ro, [0]⟩
/-- Table 13.14 (R337). -/
def FLT_RT_CTL_LIVE : Fld := ⟨0x100020, 0, 1, 2, 1, .ro, [0]⟩
/-- Table 13.14 (R337). -/
def FLT_PORT_EN : Fld := ⟨0x100040, 4, 4, 0, 1, .rw, [1]⟩
/-- Table 13.14 (R337). -/
def FLT_PORT_STATE : Fld := ⟨0x100040, 4, 4, 1, 3, .ro, [0]⟩
/-- Table 13.14 (R337). -/
def FLT_PORT_CAUSE : Fld := ⟨0x100040, 4, 4, 4, 3, .ro, [0]⟩
/-- Table 13.14 (R337). -/
def FLT_PORT_NEGREV : Fld := ⟨0x100040, 4, 4, 8, 8, .ro, [0]⟩
/-- Table 13.14 (R337). -/
def FLT_PORT_NBRPORT : Fld := ⟨0x100040, 4, 4, 16, 4, .ro, [0]⟩
/-- Table 13.14 (R337). -/
def FLT_PORT_NBRMOD : Fld := ⟨0x100040, 4, 4, 20, 10, .ro, [0]⟩
/-- Table 13.14 (R337). -/
def FLT_PORT_NBRVALID : Fld := ⟨0x100040, 4, 4, 30, 1, .ro, [0]⟩
/-- Table 13.11 (R337). -/
def FLT_REPLAYS : Fld := ⟨0x100080, 0, 1, 0, 32, .ro, [0]⟩
/-- Table 13.11 (R337). -/
def FLT_RETRAINS : Fld := ⟨0x100084, 0, 1, 0, 32, .ro, [0]⟩
/-- Table 13.11 (R337). -/
def FLT_DROPPED : Fld := ⟨0x100088, 0, 1, 0, 32, .ro, [0]⟩
/-- Table 13.11 (R337). -/
def FLT_NOROUTE : Fld := ⟨0x10008C, 0, 1, 0, 32, .ro, [0]⟩
/-- Table 13.11 (R337). -/
def FLT_MCFAIL : Fld := ⟨0x100090, 0, 1, 0, 32, .ro, [0]⟩
/-- Table 13.11 (R337). -/
def FLT_STALE : Fld := ⟨0x100094, 0, 1, 0, 32, .ro, [0]⟩
/-- Table 13.11 (R337). -/
def FLT_TRANSIT : Fld := ⟨0x100098, 0, 1, 0, 32, .ro, [0]⟩
/-- Table 13.8 (R327). -/
def FLT_RT_PRI : Fld := ⟨0x101000, 4, 1024, 0, 4, .rwl, [0]⟩
/-- Table 13.8 (R327). -/
def FLT_RT_ALT1 : Fld := ⟨0x101000, 4, 1024, 4, 4, .rwl, [0]⟩
/-- Table 13.8 (R327). -/
def FLT_RT_ALT2 : Fld := ⟨0x101000, 4, 1024, 8, 4, .rwl, [0]⟩
/-- Table 13.8 (R327). -/
def FLT_RT_ALT3 : Fld := ⟨0x101000, 4, 1024, 12, 4, .rwl, [0]⟩
/-- Table 13.8 (R327). -/
def FLT_RT_VALID : Fld := ⟨0x101000, 4, 1024, 16, 4, .rwl, [0]⟩
/-- Table 13.8 (R327). -/
def FLT_RT_DL : Fld := ⟨0x101000, 4, 1024, 20, 4, .rwl, [0]⟩

/-- The fields of block flt. -/
def fltFields : List Fld :=
  [FLT_CTL_FLEET_EN, FLT_CTL_DISCOVER, FLT_CTL_LOCK, FLT_STATUS_DISC, FLT_STATUS_PILOT, FLT_STATUS_ROUND, FLT_SERIAL_LO_SERIAL, FLT_SERIAL_HI_SERIAL, FLT_MOD_NUMBER, FLT_MOD_COUNT, FLT_MOD_VALID, FLT_MOD_HINT]
  ++ [FLT_REV_REVMIN, FLT_REV_REVMAX, FLT_REV_FLEETREV, FLT_TOPO_LO_ADDR, FLT_TOPO_HI_ADDR, FLT_RT_CTL_COMMIT, FLT_RT_CTL_PENDING, FLT_RT_CTL_LIVE, FLT_PORT_EN, FLT_PORT_STATE, FLT_PORT_CAUSE, FLT_PORT_NEGREV]
  ++ [FLT_PORT_NBRPORT, FLT_PORT_NBRMOD, FLT_PORT_NBRVALID, FLT_REPLAYS, FLT_RETRAINS, FLT_DROPPED, FLT_NOROUTE, FLT_MCFAIL, FLT_STALE, FLT_TRANSIT, FLT_RT_PRI, FLT_RT_ALT1]
  ++ [FLT_RT_ALT2, FLT_RT_ALT3, FLT_RT_VALID, FLT_RT_DL]

/-! ### Block lnk -/

/-- Table 15.8 (R373). -/
def LNK_CTL_EN : Fld := ⟨0x110000, 0, 1, 0, 1, .rw, [0]⟩
/-- Table 15.8 (R373). -/
def LNK_CTL_NOTIFY_EN : Fld := ⟨0x110000, 0, 1, 1, 1, .rw, [0]⟩
/-- Table 15.8 (R373). -/
def LNK_CTL_LEADSTK : Fld := ⟨0x110000, 0, 1, 2, 3, .ro, [0]⟩
/-- Table 15.8 (R373). -/
def LNK_CTL_RETRAIN : Fld := ⟨0x110000, 0, 1, 5, 1, .wo, [0]⟩
/-- Table 15.8 (R373). -/
def LNK_CTL_LOCK : Fld := ⟨0x110000, 0, 1, 9, 1, .w1s, [0]⟩
/-- Table 15.8 (R373). -/
def LNK_STATUS_STATE : Fld := ⟨0x110004, 0, 1, 0, 3, .ro, [0]⟩
/-- Table 15.8 (R373). -/
def LNK_STATUS_WIDTH : Fld := ⟨0x110004, 0, 1, 3, 2, .ro, [0]⟩
/-- Table 15.8 (R373). -/
def LNK_STATUS_NEGREV : Fld := ⟨0x110004, 0, 1, 8, 8, .ro, [0]⟩
/-- Table 15.9 (R373). -/
def LNK_REV_REVMIN : Fld := ⟨0x110008, 0, 1, 0, 8, .ro, [1]⟩
/-- Table 15.9 (R373). -/
def LNK_REV_REVMAX : Fld := ⟨0x110008, 0, 1, 8, 8, .ro, [1]⟩
/-- Table 15.9 (R373). -/
def LNK_LANES_GOOD : Fld := ⟨0x11000C, 0, 1, 0, 16, .ro, [0]⟩
/-- Table 15.9 (R373). -/
def LNK_LANES_USED : Fld := ⟨0x11000C, 0, 1, 16, 16, .ro, [0]⟩
/-- Table 15.9 (R373). -/
def LNK_FAULT_TRAINFAIL : Fld := ⟨0x110010, 0, 1, 0, 1, .w1c, [0]⟩
/-- Table 15.9 (R373). -/
def LNK_FAULT_DEGRADE : Fld := ⟨0x110010, 0, 1, 1, 1, .w1c, [0]⟩
/-- Table 15.9 (R373). -/
def LNK_FAULT_RETRAINED : Fld := ⟨0x110010, 0, 1, 2, 1, .w1c, [0]⟩
/-- Table 15.9 (R373). -/
def LNK_FAULT_REFUSED : Fld := ⟨0x110010, 0, 1, 3, 1, .w1c, [0]⟩
/-- Table 15.9 (R373). -/
def LNK_FAULT_CREDIT : Fld := ⟨0x110010, 0, 1, 4, 1, .w1c, [0]⟩
/-- Table 15.9 (R373). -/
def LNK_FAULT_ORPHAN : Fld := ⟨0x110010, 0, 1, 5, 1, .w1c, [0]⟩
/-- Table 15.9 (R373). -/
def LNK_CACHE_LINES : Fld := ⟨0x110014, 0, 1, 0, 16, .ro, [0]⟩
/-- Table 15.9 (R373). -/
def LNK_CACHE_WATCHED : Fld := ⟨0x110014, 0, 1, 16, 13, .ro, [0]⟩
/-- Table 15.10 (R373). -/
def LNK_WINLO_BASE : Fld := ⟨0x110020, 16, 4, 0, 32, .rwl, [0]⟩
/-- Table 15.10 (R373). -/
def LNK_WINHI_BASE : Fld := ⟨0x110024, 16, 4, 0, 16, .rwl, [0]⟩
/-- Table 15.10 (R373). -/
def LNK_WINCFG_SIZE : Fld := ⟨0x110028, 16, 4, 0, 6, .rwl, [0]⟩
/-- Table 15.10 (R373). -/
def LNK_WINCFG_C : Fld := ⟨0x110028, 16, 4, 8, 1, .rwl, [0]⟩
/-- Table 15.10 (R373). -/
def LNK_WINCFG_W : Fld := ⟨0x110028, 16, 4, 9, 1, .rwl, [0]⟩
/-- Table 15.10 (R373). -/
def LNK_WINCFG_EN : Fld := ⟨0x110028, 16, 4, 10, 1, .rwl, [0]⟩
/-- Table 15.11 (R373). -/
def LNK_DESC_LO_BASE : Fld := ⟨0x110060, 0, 1, 0, 32, .rwl, [0]⟩
/-- Table 15.11 (R373). -/
def LNK_DESC_HI_BASE : Fld := ⟨0x110064, 0, 1, 0, 16, .rwl, [0]⟩
/-- Table 15.11 (R373). -/
def LNK_DESC_N_N : Fld := ⟨0x110068, 0, 1, 0, 13, .rwl, [0]⟩
/-- Table 15.7 (R373). -/
def LNK_FLITS_TX : Fld := ⟨0x110080, 0, 1, 0, 32, .ro, [0]⟩
/-- Table 15.7 (R373). -/
def LNK_FLITS_RX : Fld := ⟨0x110084, 0, 1, 0, 32, .ro, [0]⟩
/-- Table 15.7 (R373). -/
def LNK_FECCORR : Fld := ⟨0x110088, 0, 1, 0, 32, .ro, [0]⟩
/-- Table 15.7 (R373). -/
def LNK_CRCERR : Fld := ⟨0x11008C, 0, 1, 0, 32, .ro, [0]⟩
/-- Table 15.7 (R373). -/
def LNK_REPLAYS : Fld := ⟨0x110090, 0, 1, 0, 32, .ro, [0]⟩
/-- Table 15.7 (R373). -/
def LNK_RETRAINS : Fld := ⟨0x110094, 0, 1, 0, 32, .ro, [0]⟩
/-- Table 15.7 (R373). -/
def LNK_SNOOPS : Fld := ⟨0x110098, 0, 1, 0, 32, .ro, [0]⟩
/-- Table 15.7 (R373). -/
def LNK_POISON : Fld := ⟨0x11009C, 0, 1, 0, 32, .ro, [0]⟩
/-- Table 15.7 (R373). -/
def LNK_NOTICES : Fld := ⟨0x1100A0, 0, 1, 0, 32, .ro, [0]⟩
/-- Table 15.7 (R373). -/
def LNK_EVICTS : Fld := ⟨0x1100A4, 0, 1, 0, 32, .ro, [0]⟩

/-- The fields of block lnk. -/
def lnkFields : List Fld :=
  [LNK_CTL_EN, LNK_CTL_NOTIFY_EN, LNK_CTL_LEADSTK, LNK_CTL_RETRAIN, LNK_CTL_LOCK, LNK_STATUS_STATE, LNK_STATUS_WIDTH, LNK_STATUS_NEGREV, LNK_REV_REVMIN, LNK_REV_REVMAX, LNK_LANES_GOOD, LNK_LANES_USED]
  ++ [LNK_FAULT_TRAINFAIL, LNK_FAULT_DEGRADE, LNK_FAULT_RETRAINED, LNK_FAULT_REFUSED, LNK_FAULT_CREDIT, LNK_FAULT_ORPHAN, LNK_CACHE_LINES, LNK_CACHE_WATCHED, LNK_WINLO_BASE, LNK_WINHI_BASE, LNK_WINCFG_SIZE, LNK_WINCFG_C]
  ++ [LNK_WINCFG_W, LNK_WINCFG_EN, LNK_DESC_LO_BASE, LNK_DESC_HI_BASE, LNK_DESC_N_N, LNK_FLITS_TX, LNK_FLITS_RX, LNK_FECCORR, LNK_CRCERR, LNK_REPLAYS, LNK_RETRAINS, LNK_SNOOPS]
  ++ [LNK_POISON, LNK_NOTICES, LNK_EVICTS]

/-! ### Block bnc -/

/-- Table 19.8 (R450). -/
def BNC_STATUS_MODE : Fld := ⟨0x120000, 0, 1, 0, 1, .ro, [0]⟩
/-- Table 19.8 (R450). -/
def BNC_STATUS_LONG_BUSY : Fld := ⟨0x120000, 0, 1, 1, 1, .ro, [0]⟩
/-- Table 19.8 (R450). -/
def BNC_STATUS_THERMSTOP : Fld := ⟨0x120000, 0, 1, 2, 1, .ro, [0]⟩
/-- Table 19.8 (R450). -/
def BNC_STATUS_STOPCAUSE : Fld := ⟨0x120000, 0, 1, 3, 3, .ro, [0]⟩
/-- Table 19.8 (R450). -/
def BNC_ALERT_ALERTS : Fld := ⟨0x120004, 0, 1, 0, 7, .w1c, [0]⟩
/-- Table 19.8 (R450). -/
def BNC_ALERT_EN_EN : Fld := ⟨0x120008, 0, 1, 0, 7, .rw, [127]⟩
/-- Table 19.8 (R450). -/
def BNC_THROTTLE_REQ : Fld := ⟨0x12000C, 0, 1, 0, 7, .ro, [0]⟩
/-- Table 19.8 (R450). -/
def BNC_THROTTLE_HOSTQ : Fld := ⟨0x12000C, 0, 1, 8, 7, .rw, [0]⟩
/-- Table 19.8 (R450). -/
def BNC_THROTTLE_APPLIED : Fld := ⟨0x12000C, 0, 1, 16, 7, .ro, [0]⟩
/-- Table 19.8 (R450). -/
def BNC_THROTTLE_GRACE : Fld := ⟨0x12000C, 0, 1, 23, 1, .ro, [0]⟩
/-- Table 19.8 (R450). -/
def BNC_THROTTLE_ENFORCED : Fld := ⟨0x12000C, 0, 1, 24, 1, .ro, [0]⟩
/-- Table 19.8 (R450). -/
def BNC_TJ_T : Fld := ⟨0x120010, 0, 1, 0, 16, .ro, [0]⟩
/-- Table 19.8 (R450). -/
def BNC_TJ_SRC : Fld := ⟨0x120010, 0, 1, 16, 6, .ro, [0]⟩
/-- Table 19.8 (R450). -/
def BNC_LONG_OP : Fld := ⟨0x120014, 0, 1, 0, 8, .ro, [0]⟩
/-- Table 19.8 (R450). -/
def BNC_LONG_CODE : Fld := ⟨0x120014, 0, 1, 8, 8, .ro, [0]⟩
/-- Table 19.8 (R450). -/
def BNC_LOGN_ENTRIES : Fld := ⟨0x120018, 0, 1, 0, 24, .ro, [0]⟩
/-- Table 19.9 (R450). -/
def BNC_DIODE_TEMP : Fld := ⟨0x120040, 4, 48, 0, 16, .ro, [0]⟩
/-- Table 19.9 (R450). -/
def BNC_DIODE_STATE : Fld := ⟨0x120040, 4, 48, 16, 2, .ro, [0]⟩
/-- Table 18.8 (R430). -/
def BNC_LAST_RESET_CAUSE : Fld := ⟨0x120100, 0, 1, 0, 4, .ro, [1]⟩
/-- Table 18.8 (R430). -/
def BNC_LAST_RESET_SCOPE : Fld := ⟨0x120100, 0, 1, 4, 1, .ro, [0]⟩
/-- Table 18.8 (R430). -/
def BNC_LAST_RESET_STACK : Fld := ⟨0x120100, 0, 1, 5, 3, .ro, [0]⟩
/-- Table 18.8 (R430). -/
def BNC_LAST_RESET_KIND : Fld := ⟨0x120100, 0, 1, 8, 3, .ro, [0]⟩
/-- Table 18.8 (R430). -/
def BNC_LAST_RESET_INDEX : Fld := ⟨0x120100, 0, 1, 11, 9, .ro, [0]⟩
/-- Table 18.8 (R430). -/
def BNC_LAST_RESET_QTIMEOUT : Fld := ⟨0x120100, 0, 1, 20, 1, .ro, [0]⟩
/-- Table 18.8 (R430). -/
def BNC_BRST_STACK : Fld := ⟨0x120104, 0, 1, 0, 3, .rw, [0]⟩
/-- Table 18.8 (R430). -/
def BNC_BRST_KIND : Fld := ⟨0x120104, 0, 1, 3, 3, .rw, [0]⟩
/-- Table 18.8 (R430). -/
def BNC_BRST_INDEX : Fld := ⟨0x120104, 0, 1, 6, 9, .rw, [0]⟩
/-- Table 18.8 (R430). -/
def BNC_BRST_GO : Fld := ⟨0x120104, 0, 1, 15, 1, .wo, [0]⟩
/-- Table 18.9 (R430). -/
def BNC_BRST_STATUS_BUSY : Fld := ⟨0x120108, 0, 1, 0, 1, .ro, [0]⟩
/-- Table 18.9 (R430). -/
def BNC_BRST_STATUS_QUIESCE : Fld := ⟨0x120108, 0, 1, 1, 1, .ro, [0]⟩
/-- Table 18.9 (R430). -/
def BNC_BRST_STATUS_REJECT : Fld := ⟨0x120108, 0, 1, 2, 1, .w1c, [0]⟩
/-- Table 18.9 (R430). -/
def BNC_BRST_STATUS_QTIMEOUT : Fld := ⟨0x120108, 0, 1, 3, 1, .w1c, [0]⟩
/-- Table 18.9 (R430). -/
def BNC_BRINGUP_STEP : Fld := ⟨0x12010C, 0, 1, 0, 4, .ro, [0]⟩
/-- Table 18.9 (R430). -/
def BNC_BRINGUP_READY : Fld := ⟨0x12010C, 0, 1, 4, 1, .ro, [0]⟩
/-- Table 18.9 (R430). -/
def BNC_BRINGUP_FAULTED : Fld := ⟨0x12010C, 0, 1, 5, 1, .ro, [0]⟩
/-- Table 18.9 (R430). -/
def BNC_BRINGUP_STACKFAIL : Fld := ⟨0x12010C, 0, 1, 6, 8, .ro, [0]⟩
/-- Table 18.9 (R430). -/
def BNC_BRINGUP_MODFAIL : Fld := ⟨0x12010C, 0, 1, 14, 1, .ro, [0]⟩
/-- Table 18.9 (R430). -/
def BNC_BRINGUP_BOOTFAIL : Fld := ⟨0x12010C, 0, 1, 15, 1, .w1c, [0]⟩
/-- Table 18.7 (R430). -/
def BNC_FLTRST_VALUE : Fld := ⟨0x120110, 0, 1, 0, 32, .wo, [0]⟩
/-- Table 18.9 (R430). -/
def BNC_FLTCTL_FLTRST_EN : Fld := ⟨0x120114, 0, 1, 0, 1, .rw, [0]⟩
/-- Table 18.7 (R430). -/
def BNC_ABORTED : Fld := ⟨0x120140, 0, 1, 0, 32, .ro, [0]⟩
/-- Table 18.7 (R430). -/
def BNC_FLTREJ : Fld := ⟨0x120144, 0, 1, 0, 32, .ro, [0]⟩
/-- Table 19.9 (R450). -/
def BNC_THERM_TEMP : Fld := ⟨0x120180, 4, 12, 0, 16, .ro, [0]⟩
/-- Table 19.9 (R450). -/
def BNC_THERM_STATE : Fld := ⟨0x120180, 4, 12, 16, 2, .ro, [0]⟩
/-- Table 19.9 (R450). -/
def BNC_DRAMT_TEMP : Fld := ⟨0x1201C0, 4, 8, 0, 16, .ro, [0]⟩
/-- Table 19.9 (R450). -/
def BNC_DRAMT_VALID : Fld := ⟨0x1201C0, 4, 8, 16, 1, .ro, [0]⟩
/-- Table 19.7 (R450). -/
def BNC_BROKEN : Fld := ⟨0x1201E0, 0, 1, 0, 32, .ro, [0]⟩
/-- Table 19.7 (R450). -/
def BNC_ENFORCED : Fld := ⟨0x1201E4, 0, 1, 0, 32, .ro, [0]⟩
/-- Table 19.7 (R450). -/
def BNC_IDLEW : Fld := ⟨0x1201E8, 0, 1, 0, 32, .ro, [0]⟩
/-- Table 19.7 (R450). -/
def BNC_BCRC : Fld := ⟨0x1201EC, 0, 1, 0, 32, .ro, [0]⟩
/-- Table 19.7 (R450). -/
def BNC_BBUSY : Fld := ⟨0x1201F0, 0, 1, 0, 32, .ro, [0]⟩

/-- The fields of block bnc. -/
def bncFields : List Fld :=
  [BNC_STATUS_MODE, BNC_STATUS_LONG_BUSY, BNC_STATUS_THERMSTOP, BNC_STATUS_STOPCAUSE, BNC_ALERT_ALERTS, BNC_ALERT_EN_EN, BNC_THROTTLE_REQ, BNC_THROTTLE_HOSTQ, BNC_THROTTLE_APPLIED, BNC_THROTTLE_GRACE, BNC_THROTTLE_ENFORCED, BNC_TJ_T]
  ++ [BNC_TJ_SRC, BNC_LONG_OP, BNC_LONG_CODE, BNC_LOGN_ENTRIES, BNC_DIODE_TEMP, BNC_DIODE_STATE, BNC_LAST_RESET_CAUSE, BNC_LAST_RESET_SCOPE, BNC_LAST_RESET_STACK, BNC_LAST_RESET_KIND, BNC_LAST_RESET_INDEX, BNC_LAST_RESET_QTIMEOUT]
  ++ [BNC_BRST_STACK, BNC_BRST_KIND, BNC_BRST_INDEX, BNC_BRST_GO, BNC_BRST_STATUS_BUSY, BNC_BRST_STATUS_QUIESCE, BNC_BRST_STATUS_REJECT, BNC_BRST_STATUS_QTIMEOUT, BNC_BRINGUP_STEP, BNC_BRINGUP_READY, BNC_BRINGUP_FAULTED, BNC_BRINGUP_STACKFAIL]
  ++ [BNC_BRINGUP_MODFAIL, BNC_BRINGUP_BOOTFAIL, BNC_FLTRST_VALUE, BNC_FLTCTL_FLTRST_EN, BNC_ABORTED, BNC_FLTREJ, BNC_THERM_TEMP, BNC_THERM_STATE, BNC_DRAMT_TEMP, BNC_DRAMT_VALID, BNC_BROKEN, BNC_ENFORCED]
  ++ [BNC_IDLEW, BNC_BCRC, BNC_BBUSY]

/-! ### Block snd -/

/-- Table 19.11 (R451). -/
def SND_CTL_REFBUF_EN : Fld := ⟨0x130000, 0, 1, 0, 1, .rw, [0]⟩
/-- Table 19.11 (R451). -/
def SND_CTL_SEQ_EN : Fld := ⟨0x130000, 0, 1, 1, 1, .rw, [0]⟩
/-- Table 19.11 (R451). -/
def SND_CTL_FAST_EN : Fld := ⟨0x130000, 0, 1, 2, 1, .rw, [0]⟩
/-- Table 19.11 (R451). -/
def SND_STATUS_REF_RDY : Fld := ⟨0x130004, 0, 1, 0, 1, .ro, [0]⟩
/-- Table 19.11 (R451). -/
def SND_STATUS_SEQ_RUN : Fld := ⟨0x130004, 0, 1, 1, 1, .ro, [0]⟩
/-- Table 19.11 (R451). -/
def SND_STATUS_URGQ : Fld := ⟨0x130004, 0, 1, 2, 3, .ro, [0]⟩
/-- Table 19.11 (R451). -/
def SND_STATUS_ENTRY : Fld := ⟨0x130004, 0, 1, 8, 5, .ro, [0]⟩
/-- Table 19.11 (R451). -/
def SND_STATUS_URGOVF : Fld := ⟨0x130004, 0, 1, 13, 1, .w1c, [0]⟩
/-- Table 19.11 (R451). -/
def SND_STATUS_SEQLATE : Fld := ⟨0x130004, 0, 1, 14, 1, .w1c, [0]⟩
/-- Table 19.11 (R451). -/
def SND_CHSEL_CH : Fld := ⟨0x130008, 0, 1, 0, 6, .rw, [0]⟩
/-- Table 19.11 (R451). -/
def SND_CHSEL_GO : Fld := ⟨0x130008, 0, 1, 8, 1, .wo, [0]⟩
/-- Table 19.11 (R451). -/
def SND_CHSEL_DONE : Fld := ⟨0x130008, 0, 1, 9, 1, .ro, [0]⟩
/-- Table 19.11 (R451). -/
def SND_MANRES_RESULT : Fld := ⟨0x13000C, 0, 1, 0, 12, .ro, [0]⟩
/-- Table 19.11 (R451). -/
def SND_SEQCFG_LEN : Fld := ⟨0x130010, 0, 1, 0, 5, .rw, [0]⟩
/-- Table 19.11 (R451). -/
def SND_SEQCFG_PERIOD : Fld := ⟨0x130010, 0, 1, 8, 16, .rw, [1000]⟩
/-- Table 19.11 (R451). -/
def SND_FASTRES_VIN : Fld := ⟨0x130014, 0, 1, 0, 12, .ro, [0]⟩
/-- Table 19.11 (R451). -/
def SND_FASTRES_IIN : Fld := ⟨0x130014, 0, 1, 16, 12, .ro, [0]⟩
/-- Table 19.10 (R451). -/
def SND_CONV : Fld := ⟨0x130040, 0, 1, 0, 32, .ro, [0]⟩
/-- Table 19.10 (R451). -/
def SND_PREEMPT : Fld := ⟨0x130044, 0, 1, 0, 32, .ro, [0]⟩
/-- Table 19.10 (R451). -/
def SND_SEQSKIP : Fld := ⟨0x130048, 0, 1, 0, 32, .ro, [0]⟩
/-- Table 19.11 (R451). -/
def SND_SEQ_CH : Fld := ⟨0x130080, 4, 32, 0, 6, .rw, [0]⟩
/-- Table 19.11 (R451). -/
def SND_SEQ_EN : Fld := ⟨0x130080, 4, 32, 7, 1, .rw, [0]⟩
/-- Table 19.11 (R451). -/
def SND_RES_RESULT : Fld := ⟨0x130100, 4, 32, 0, 12, .ro, [0]⟩
/-- Table 19.11 (R451). -/
def SND_RES_VALID : Fld := ⟨0x130100, 4, 32, 16, 1, .ro, [0]⟩
/-- Table 19.11 (R451). -/
def SND_RES_PASS : Fld := ⟨0x130100, 4, 32, 24, 8, .ro, [0]⟩

/-- The fields of block snd. -/
def sndFields : List Fld :=
  [SND_CTL_REFBUF_EN, SND_CTL_SEQ_EN, SND_CTL_FAST_EN, SND_STATUS_REF_RDY, SND_STATUS_SEQ_RUN, SND_STATUS_URGQ, SND_STATUS_ENTRY, SND_STATUS_URGOVF, SND_STATUS_SEQLATE, SND_CHSEL_CH, SND_CHSEL_GO, SND_CHSEL_DONE]
  ++ [SND_MANRES_RESULT, SND_SEQCFG_LEN, SND_SEQCFG_PERIOD, SND_FASTRES_VIN, SND_FASTRES_IIN, SND_CONV, SND_PREEMPT, SND_SEQSKIP, SND_SEQ_CH, SND_SEQ_EN, SND_RES_RESULT, SND_RES_VALID]
  ++ [SND_RES_PASS]

/-! ### Block lsr -/

/-- Table 20.9 (R471). -/
def LSR_CTL_ATTEST : Fld := ⟨0x140000, 0, 1, 0, 1, .wo, [0]⟩
/-- Table 20.9 (R471). -/
def LSR_CTL_TESTREQ : Fld := ⟨0x140000, 0, 1, 1, 1, .wo, [0]⟩
/-- Table 20.9 (R471). -/
def LSR_CTL_MF_LOAD : Fld := ⟨0x140000, 0, 1, 2, 1, .wo, [0]⟩
/-- Table 20.9 (R471). -/
def LSR_CTL_FW_LOAD : Fld := ⟨0x140000, 0, 1, 3, 1, .wo, [0]⟩
/-- Table 20.9 (R471). -/
def LSR_CTL_ZEROISE : Fld := ⟨0x140000, 0, 1, 4, 1, .wo, [0]⟩
/-- Table 20.9 (R471). -/
def LSR_STATUS_STATE : Fld := ⟨0x140004, 0, 1, 0, 3, .ro, [0]⟩
/-- Table 20.9 (R471). -/
def LSR_STATUS_LCCOUNT : Fld := ⟨0x140004, 0, 1, 3, 3, .ro, [0]⟩
/-- Table 20.9 (R471). -/
def LSR_STATUS_TESTMODE : Fld := ⟨0x140004, 0, 1, 6, 1, .ro, [0]⟩
/-- Table 20.9 (R471). -/
def LSR_STATUS_ZFAIL : Fld := ⟨0x140004, 0, 1, 7, 1, .ro, [0]⟩
/-- Table 20.9 (R471). -/
def LSR_STATUS_MFVALID : Fld := ⟨0x140004, 0, 1, 8, 1, .ro, [0]⟩
/-- Table 20.9 (R471). -/
def LSR_STATUS_BUSY : Fld := ⟨0x140004, 0, 1, 9, 1, .ro, [0]⟩
/-- Table 20.9 (R471). -/
def LSR_STATUS_RPTDONE : Fld := ⟨0x140004, 0, 1, 10, 1, .ro, [0]⟩
/-- Table 20.9 (R471). -/
def LSR_STATUS_FWCOPY : Fld := ⟨0x140004, 0, 1, 11, 1, .ro, [0]⟩
/-- Table 20.9 (R471). -/
def LSR_STATUS_RECOVERY : Fld := ⟨0x140004, 0, 1, 12, 1, .ro, [0]⟩
/-- Table 20.9 (R471). -/
def LSR_STATUS_CODE : Fld := ⟨0x140004, 0, 1, 13, 8, .ro, [0]⟩
/-- Table 20.9 (R471). -/
def LSR_SVN_MINSVN : Fld := ⟨0x140008, 0, 1, 0, 7, .ro, [0]⟩
/-- Table 20.9 (R471). -/
def LSR_FWVER_VERSION : Fld := ⟨0x14000C, 0, 1, 0, 32, .ro, [0]⟩
/-- Table 20.9 (R471). -/
def LSR_SRC_LO_ADDR : Fld := ⟨0x140010, 0, 1, 0, 32, .rw, [0]⟩
/-- Table 20.9 (R471). -/
def LSR_SRC_HI_ADDR : Fld := ⟨0x140014, 0, 1, 0, 32, .rw, [0]⟩
/-- Table 20.9 (R471). -/
def LSR_SRCLEN_LEN : Fld := ⟨0x140018, 0, 1, 0, 28, .rw, [0]⟩
/-- Table 20.9 (R471). -/
def LSR_NONCE_NONCE : Fld := ⟨0x140020, 4, 8, 0, 32, .ro, [0]⟩
/-- Table 20.9 (R471). -/
def LSR_FUSEREC_COUNT : Fld := ⟨0x140040, 0, 1, 0, 12, .ro, [0]⟩
/-- Table 20.9 (R471). -/
def LSR_STAGE_DATA : Fld := ⟨0x140080, 4, 32, 0, 32, .rw, [0]⟩
/-- Table 20.9 (R471). -/
def LSR_DIKPUB_KEY : Fld := ⟨0x140100, 4, 24, 0, 32, .ro, [0]⟩
/-- Table 20.8 (R471). -/
def LSR_VERIFIES : Fld := ⟨0x140180, 0, 1, 0, 32, .ro, [0]⟩
/-- Table 20.8 (R471). -/
def LSR_SIGFAIL : Fld := ⟨0x140184, 0, 1, 0, 32, .ro, [0]⟩
/-- Table 20.8 (R471). -/
def LSR_ZEROISES : Fld := ⟨0x140188, 0, 1, 0, 32, .ro, [0]⟩
/-- Table 20.8 (R471). -/
def LSR_ATTESTS : Fld := ⟨0x14018C, 0, 1, 0, 32, .ro, [0]⟩
/-- Table 20.8 (R471). -/
def LSR_REPORT_WORD : Fld := ⟨0x141000, 4, 116, 0, 32, .ro, [0]⟩

/-- The fields of block lsr. -/
def lsrFields : List Fld :=
  [LSR_CTL_ATTEST, LSR_CTL_TESTREQ, LSR_CTL_MF_LOAD, LSR_CTL_FW_LOAD, LSR_CTL_ZEROISE, LSR_STATUS_STATE, LSR_STATUS_LCCOUNT, LSR_STATUS_TESTMODE, LSR_STATUS_ZFAIL, LSR_STATUS_MFVALID, LSR_STATUS_BUSY, LSR_STATUS_RPTDONE]
  ++ [LSR_STATUS_FWCOPY, LSR_STATUS_RECOVERY, LSR_STATUS_CODE, LSR_SVN_MINSVN, LSR_FWVER_VERSION, LSR_SRC_LO_ADDR, LSR_SRC_HI_ADDR, LSR_SRCLEN_LEN, LSR_NONCE_NONCE, LSR_FUSEREC_COUNT, LSR_STAGE_DATA, LSR_DIKPUB_KEY]
  ++ [LSR_VERIFIES, LSR_SIGFAIL, LSR_ZEROISES, LSR_ATTESTS, LSR_REPORT_WORD]

/-! ### Block mpw -/

/-- Table 17.7 (R413). -/
def PWR_CTL_MAIN_EN : Fld := ⟨0x150000, 0, 1, 0, 1, .rw, [0]⟩
/-- Table 17.7 (R413). -/
def PWR_CTL_LOCK : Fld := ⟨0x150000, 0, 1, 1, 1, .w1s, [0]⟩
/-- Table 17.7 (R413). -/
def PWR_STATUS_STATE : Fld := ⟨0x150004, 0, 1, 0, 3, .ro, [0]⟩
/-- Table 17.7 (R413). -/
def PWR_STATUS_VIN_OK : Fld := ⟨0x150004, 0, 1, 3, 1, .ro, [0]⟩
/-- Table 17.7 (R413). -/
def PWR_STATUS_BUS_OK : Fld := ⟨0x150004, 0, 1, 4, 1, .ro, [0]⟩
/-- Table 17.7 (R413). -/
def PWR_STATUS_OVERTDP : Fld := ⟨0x150004, 0, 1, 5, 1, .w1c, [0]⟩
/-- Table 17.7 (R413). -/
def PWR_TRIP_CAUSE : Fld := ⟨0x150008, 0, 1, 0, 4, .ro, [0]⟩
/-- Table 17.8 (R413). -/
def PWR_VIN_V : Fld := ⟨0x15000C, 0, 1, 0, 16, .ro, [0]⟩
/-- Table 17.8 (R413). -/
def PWR_VIN_I : Fld := ⟨0x15000C, 0, 1, 16, 16, .ro, [0]⟩
/-- Table 17.8 (R413). -/
def PWR_VBUS_V : Fld := ⟨0x150010, 0, 1, 0, 16, .ro, [0]⟩
/-- Table 17.8 (R413). -/
def PWR_PAVG_P10MS : Fld := ⟨0x150014, 0, 1, 0, 16, .ro, [0]⟩
/-- Table 17.8 (R413). -/
def PWR_PAVG_P1S : Fld := ⟨0x150014, 0, 1, 16, 16, .ro, [0]⟩
/-- Table 17.8 (R413). -/
def PWR_GOV_START_CAP : Fld := ⟨0x150018, 0, 1, 0, 8, .rwl, [240]⟩
/-- Table 17.8 (R413). -/
def PWR_GOV_STOP_CAP : Fld := ⟨0x150018, 0, 1, 8, 8, .rwl, [240]⟩
/-- Table 17.8 (R413). -/
def PWR_GOV_PENDING : Fld := ⟨0x150018, 0, 1, 16, 12, .ro, [0]⟩
/-- Table 17.6 (R413). -/
def PWR_STARTS : Fld := ⟨0x150040, 0, 1, 0, 32, .ro, [0]⟩
/-- Table 17.6 (R413). -/
def PWR_STOPS : Fld := ⟨0x150044, 0, 1, 0, 32, .ro, [0]⟩
/-- Table 17.6 (R413). -/
def PWR_DEFERRED : Fld := ⟨0x150048, 0, 1, 0, 32, .ro, [0]⟩
/-- Table 17.6 (R413). -/
def PWR_OVERTDP : Fld := ⟨0x15004C, 0, 1, 0, 32, .ro, [0]⟩
/-- Table 17.7 (R413). -/
def CLK_STATUS_BCK_OK : Fld := ⟨0x150100, 0, 1, 0, 1, .ro, [0]⟩
/-- Table 17.7 (R413). -/
def CLK_STATUS_REF_OK : Fld := ⟨0x150100, 0, 1, 1, 1, .ro, [0]⟩
/-- Table 17.7 (R413). -/
def CLK_STATUS_LOC_BCK : Fld := ⟨0x150100, 0, 1, 2, 1, .w1c, [0]⟩
/-- Table 17.7 (R413). -/
def CLK_STATUS_LOC_REF : Fld := ⟨0x150100, 0, 1, 3, 1, .w1c, [0]⟩
/-- Table 17.7 (R413). -/
def CLK_STATUS_SAFE : Fld := ⟨0x150100, 0, 1, 4, 1, .ro, [0]⟩
/-- Table 17.7 (R413). -/
def CLK_STATUS_BNC_LOCK : Fld := ⟨0x150100, 0, 1, 5, 1, .ro, [0]⟩
/-- Table 17.8 (R413). -/
def CLK_FMEAS_CTL_TARGET : Fld := ⟨0x150104, 0, 1, 0, 4, .rw, [0]⟩
/-- Table 17.8 (R413). -/
def CLK_FMEAS_CTL_BASE : Fld := ⟨0x150104, 0, 1, 4, 1, .rw, [0]⟩
/-- Table 17.8 (R413). -/
def CLK_FMEAS_CTL_GO : Fld := ⟨0x150104, 0, 1, 5, 1, .wo, [0]⟩
/-- Table 17.8 (R413). -/
def CLK_FMEAS_CTL_DONE : Fld := ⟨0x150104, 0, 1, 6, 1, .ro, [0]⟩
/-- Table 17.8 (R413). -/
def CLK_FMEAS_CTL_GATE : Fld := ⟨0x150104, 0, 1, 8, 24, .rw, [0]⟩
/-- Table 17.8 (R413). -/
def CLK_FMEAS_RES_COUNT : Fld := ⟨0x150108, 0, 1, 0, 32, .ro, [0]⟩
/-- Table 17.6 (R413). -/
def CLK_LOCS : Fld := ⟨0x150140, 0, 1, 0, 32, .ro, [0]⟩
/-- Table 17.6 (R413). -/
def CLK_HANGS : Fld := ⟨0x150144, 0, 1, 0, 32, .ro, [0]⟩

/-- The fields of block mpw. -/
def mpwFields : List Fld :=
  [PWR_CTL_MAIN_EN, PWR_CTL_LOCK, PWR_STATUS_STATE, PWR_STATUS_VIN_OK, PWR_STATUS_BUS_OK, PWR_STATUS_OVERTDP, PWR_TRIP_CAUSE, PWR_VIN_V, PWR_VIN_I, PWR_VBUS_V, PWR_PAVG_P10MS, PWR_PAVG_P1S]
  ++ [PWR_GOV_START_CAP, PWR_GOV_STOP_CAP, PWR_GOV_PENDING, PWR_STARTS, PWR_STOPS, PWR_DEFERRED, PWR_OVERTDP, CLK_STATUS_BCK_OK, CLK_STATUS_REF_OK, CLK_STATUS_LOC_BCK, CLK_STATUS_LOC_REF, CLK_STATUS_SAFE]
  ++ [CLK_STATUS_BNC_LOCK, CLK_FMEAS_CTL_TARGET, CLK_FMEAS_CTL_BASE, CLK_FMEAS_CTL_GO, CLK_FMEAS_CTL_DONE, CLK_FMEAS_CTL_GATE, CLK_FMEAS_RES_COUNT, CLK_LOCS, CLK_HANGS]

/-- Every field of the control region of a stack (Table 13.6). -/
def reg2Fields : List Fld :=
  stkFields ++ sxtFields ++ chtFields ++ hlmFields ++ chrFields ++ spwFields
  ++ fltFields ++ lnkFields ++ bncFields ++ sndFields ++ lsrFields ++ mpwFields

/-- The index of the register at offset `o` within the array of field `f`, if `o` is one of its registers. -/
def fldIndex (f : Fld) (o : Nat) : Option Nat :=
  if o < f.off then none
  else if f.stride = 0 then (if o = f.off then some 0 else none)
  else if (o - f.off) % f.stride = 0 ∧ (o - f.off) / f.stride < f.count then some ((o - f.off) / f.stride)
  else none

/-- The reset value of index `i` of a field. -/
def fldReset (f : Fld) (i : Nat) : Nat :=
  match f.resets with
  | [v] => v
  | vs => vs.getD i 0

/-- The reset word of the register at offset `o` of a block whose fields are `fs` (the Reset column). -/
def resetWord (fs : List Fld) (o : Nat) : Word :=
  BitVec.ofNat 32 (fs.foldl (fun acc f =>
    match fldIndex f o with
    | some i => acc + (fldReset f i) * 2 ^ f.lo
    | none => acc) 0)

/-- The fields of the register block of the region-2 offset `o`: only that block's list is searched. -/
def blockFields (o : Nat) : List Fld :=
  match o / 0x10000 with
  | 0x0 => stkFields
  | 0x1 => sxtFields
  | 0x2 => chtFields
  | 0x3 => hlmFields
  | 0x4 => chrFields
  | 0x5 => spwFields
  | 0x10 => fltFields
  | 0x11 => lnkFields
  | 0x12 => bncFields
  | 0x13 => sndFields
  | 0x14 => lsrFields
  | 0x15 => mpwFields
  | _ => []

/-- What the register word with key stack × 2^21 + offset reads as after the reset of its block. -/
def reg2Reset (key : Nat) : Word := resetWord (blockFields (key % 2 ^ 21)) (key % 2 ^ 21)

/-- What the register word at a tile-block offset reads as after a tile reset (R97, R129, R149). -/
def tileRegReset (o : Nat) : Word := resetWord tileFields o

end Sys2Proof.Machine
end

