-- ==== Sys2Proof/Machine/TileState.lean ====
section
/-!
DEFINITION. The state of one tile: registers, tile store, engines, token queues, weight banks, retry and
recompute queues, accumulator sets, remote-operation tags, and the effects that an issued instruction has
still to bring about, each with the tile cycle at whose end it comes about.
-/

namespace Sys2Proof.Machine

/-- Bank states, in the order of their codes (Table 3.7, Table 3.10). -/
inductive BankState
  | invalid | writing | ready | active
deriving DecidableEq, Repr

/-- One weight bank (R59, R80 to R86). `cells` holds the bank's bits on the column lines 0 to 655 of rows 0 to 511 (an
absent row is all zero); `mirror` the logical columns of the last bank write: the digital mirror and the stored popcounts
of R82 are its counted columns and their column sums. `scales` is ordered by segment, then output (R83), `outl` by
segment, output and record. -/
structure Bank where
  st        : BankState
  fmt       : Nat
  cells     : List (BitVec 656)
  mirror    : List (BitVec 640)
  scales    : List Byte
  outl      : List Word
  busyUntil : Nat
  wasBusy   : Bool
deriving DecidableEq, Repr

/-- A bank after tile reset: INVALID and not busy (R85, R136). -/
def Bank.reset : Bank := ⟨.invalid, 0, [], [], [], [], 0, false⟩

/-- A retry or recompute entry (R76, R104, R108). `seg` is the segment, or the even one of a merged pair;
`bits` the input bits of its 128 or 256 rows; `sign` whether the plane is the sign plane; `slots` the counted
slots the conversion covers; `failed` the mask of failed groups, as a list; `pc` the ring index of its ARR.MVM;
`bounded` the mode of its ARR.MVM (R77). -/
structure RetryEntry where
  bank   : Bool
  merged : Bool
  seg    : Nat
  plane  : Nat
  sign   : Bool
  bits   : BitVec 256
  pop    : Nat
  slots  : List Nat
  failed : List Nat
  set    : Bool
  row    : Nat
  sa     : Nat
  rho    : Nat
  pc     : BitVec 9
  bounded : Bool
deriving DecidableEq, Repr

/-- One lane row of an accumulator set (R114): absent values and flags are 0. `touched` says that the row has
received a contribution since it was last drained. -/
structure AccRow where
  val     : List Int
  flag    : List Bool
  format  : Bool
  clipped : Bool
  touched : Bool
  sa      : Option Nat
  sw      : Option (List Nat)
deriving DecidableEq, Repr

/-- A row after tile reset or drain. -/
def AccRow.zero : AccRow := ⟨[], [], false, false, false, none, none⟩

/-- An accumulator set (R114, R117): mode, one more than the cycle in which its last drain issued (0: none), and that
drain's effect and OPEN cycles (0: none). -/
structure AccSet where
  long     : Bool
  drainAt  : Nat
  effectAt : Nat
  openAt   : Nat
deriving DecidableEq, Repr

/-- A queue token and the cycle from which its consumer sees it (R135). -/
structure Token where
  value   : Half
  visible : Nat
deriving DecidableEq, Repr

/-- A token queue (R134, R135): tokens, reserved places, and one more than the cycle of the last pop (0: none). -/
structure TokQ where
  toks : List Token
  resv : Nat
  pop  : Nat
deriving DecidableEq, Repr

/-- An empty queue. -/
def TokQ.empty : TokQ := ⟨[], 0, 0⟩

/-- What an ARR.MVM brings to its row (R113): the destination, the format, the unscaled partials P(s, j) of
stage 2 by selected segment, the scale codes of these segments (none where the block is a zero block or treated
as one), the weight scale codes by selected segment, the segment-0 weight codes, the FORMAT of the row's own
blocks and of the weights, the ring index, and the cycle of its issue (R118). -/
structure MvmJob where
  set     : Bool
  row     : Nat
  parts   : List (List Int)
  sa      : List (Option Nat)
  sw      : List (List Nat)
  sw0     : List Nat
  format  : Bool
  wformat : Bool
  pc      : BitVec 9
  issued  : Nat
deriving DecidableEq, Repr

/-- An issued SID.DRAIN with the register values it was issued with (R118 to R126, R163), and the watch on its bias and
residual operands (R127). -/
structure DrainJob where
  watch  : Nat
  set    : Bool
  raw    : Bool
  add    : Bool
  dcfg   : Dword
  ea     : Dword
  tags   : Dword
  flags  : Dword
  biasA  : Dword
  resA   : Dword
  restA  : Dword
  pc     : BitVec 9
deriving DecidableEq, Repr

/-- What the output pipeline reads and writes for one row: bias, residual elements and residual tags, destination
elements and tags, step flag word. -/
structure RowPlaces where
  bias   : Nat
  resE   : Nat
  resT   : Nat
  elems  : Nat
  tags   : Nat
  flags  : Nat
deriving DecidableEq, Repr

/-- An issued SID.EMIT with the register values it was issued with (R127, R164), and the watch on its operands: DCFG
register, descriptor, source address and places. -/
structure EmitJob where
  watch  : Nat
  dcfg   : Dword
  desc   : Dword
  src    : Nat
  places : RowPlaces
deriving DecidableEq, Repr

/-- A watch on tile store while an instruction runs (R127, R165): its number, its tile, whether it still watches, whether
every write counts or only one that changes a byte, the ranges watched (address and length), and the bytes of them that
were written. -/
structure Watch where
  id     : Nat
  me     : TileRef
  on     : Bool
  any    : Bool
  ranges : List (Nat × Nat)
  hits   : List Nat
deriving DecidableEq, Repr

/-- An instruction in flight (R143, R145): engine, ring index, class, cycle of issue, queue posted to, and the
token's value (none: PV, R154). -/
structure Flight where
  eng    : Engine
  pc     : BitVec 9
  cls    : Nat
  issued : Nat
  post   : Nat
  tok    : Option Half
deriving DecidableEq, Repr

/-- What comes about at the end of a tile cycle. -/
inductive Effect
  /-- An instruction retires and writes its token (R135). -/
  | retire (f : Flight)
  /-- The partials of an ARR.MVM reach stage 1 of the adder tree (R113, R118). -/
  | stage1 (j : MvmJob)
  /-- The partials of an ARR.MVM are added into its row (R113). -/
  | rowAdd (j : MvmJob)
  /-- A failed segment-plane enters the retry queue (R76, R86). -/
  | retryIn (e : RetryEntry)
  /-- A re-conversion delivers: its contributions by lane, or none when it failed again (R106). -/
  | retryDone (e : RetryEntry) (delta : Option (List (Nat × Int))) (pc : BitVec 9)
  /-- A recompute delivers its contributions by lane (R107). -/
  | recompDone (e : RetryEntry) (delta : List (Nat × Int)) (pc : BitVec 9)
  /-- A drain takes effect (R118). -/
  | drain (j : DrainJob)
  /-- The second pass of a row of a pipeline-mode drain ends (R119, R124). -/
  | drainRow (j : DrainJob) (row : Nat)
  /-- Eight lanes of a row of a raw-mode drain have been written (R126). -/
  | rawRow (j : DrainJob) (row part : Nat)
  /-- The second pass of a SID.EMIT ends (R124, R127). -/
  | emitRow (j : EmitJob)
  /-- The blocks of a row are written to tile store: the conversion code, where elements and tags go, the bytes, and by
  block the operand ranges (R119, R127). -/
  | blocks (watch conv : Nat) (elems tags size : Nat) (data : List (List Byte × List Byte)) (ops : List (List (Nat × Nat)))
  /-- The second pass of a drain's last row ends, and with it the watch on its operands (R127). -/
  | drained (j : DrainJob)
  /-- An instruction's watch ends: results whose watch was hit are undefined (R165). -/
  | endWatch (watch : Nat) (results : List (Nat × Nat))
  /-- Trims that a watch boundary moved take effect, after the last plane of an ARR.MVM (R89, R192). -/
  | trims (ts : SMap Int)
  /-- A bank may have ceased to be busy (R86, R136). -/
  | bankCheck
  /-- A bank write that passed its checks makes its bank READY (R84), with the content given. -/
  | bankReady (b : Bool) (fmt tag : Nat) (cells : List (BitVec 640)) (scales : List Byte) (outl : List Word)
      (f : Flight)
deriving DecidableEq, Repr

/-- The order of the effects of one cycle: what is added into a row by the end of a cycle is in it before a drain that
takes effect at that end, or before the last row of one is read there (R118, notes/assumptions/94.md), and a fault raised there
withholds the tokens of what retires there (R145). -/
def Effect.rank : Effect → Nat
  | .retire _ => 2
  | .stage1 _ => 0
  | .rowAdd _ => 0
  | .retryIn _ => 0
  | .retryDone _ _ _ => 0
  | .recompDone _ _ _ => 0
  | .drain _ => 1
  | .drainRow _ _ => 1
  | .rawRow _ _ _ => 1
  | .emitRow _ => 1
  | .blocks _ _ _ _ _ _ _ => 1
  | .drained _ => 2
  | .endWatch _ _ => 2
  | .trims _ => 2
  | .bankCheck => 2
  | .bankReady _ _ _ _ _ _ _ => 2

/-- A pending effect and its cycle. -/
structure Due where
  at_ : Nat
  eff : Effect
deriving DecidableEq, Repr

/-- One transaction of a Fetch transfer (R159): its source, its place in tile store (or in the bank-write
stream) and its length. -/
structure Tx where
  src : Dword
  dst : Nat
  len : Nat
deriving DecidableEq, Repr

/-- A Fetch instruction whose transactions are not all done: the transactions that still wait for a tag, those
in flight by tag, and, for FET.BANKW, the source, the bank, the beat count, the bytes received by stream offset and
whether a transaction failed (R84). -/
structure FetchOp where
  flight : Flight
  src    : Dword
  todo   : List Tx
  flying : List (BitVec 5 × Tx)
  bankw  : Option Bool
  beats  : Nat
  got    : List (Nat × List Byte)
  failed : Bool
deriving DecidableEq, Repr

/-- A Signal operation in flight by tag (R168 to R172): its group, its kind, the local address its completion
writes, how many bytes it expects, and the branches (MPUT) or reduction flits still open, those that failed and
whether one saturated (R172, R304). -/
structure SigOp where
  tag    : BitVec 5
  group  : Nat
  op     : PktOp
  localA : Nat
  len    : Nat
  open_  : List Nat
  fails  : List (Nat × Status)
  sat    : Bool
deriving DecidableEq, Repr

/-- A completion group (R171, Table 6.15). -/
structure Group where
  count : Nat
  sat   : Bool
  fail  : Bool
  first : Nat
  nfail : Nat
deriving DecidableEq, Repr

/-- A group with nothing in flight and no status. -/
def Group.clear : Group := ⟨0, false, false, 0, 0⟩

/-- One engine: its registers (Table 6.3), its state as TIL_STATUS shows it, whether it is started (R482) and
whether its TIL_ENG_PC was written since it became idle, the cycle of its last issue plus one, since when it has
waited (R144), the restart it met at e.NEXTW, since when it has waited at a waypoint (R351), and the instruction it is
known to hold (R131). -/
structure Eng where
  gp        : SMap Dword
  st        : Nat
  on        : Bool
  pcWritten : Bool
  nextIssue : Nat
  since     : Option Nat
  nextw     : Option Nat
  wpSince   : Option Nat
  held      : Option Dword
deriving DecidableEq, Repr

/-- An engine after tile reset (R153, R482). -/
def Eng.reset : Eng := ⟨[], 0, false, false, 0, none, none, none, none⟩

/-- A failed check that passed re-conversion, or one passed to recompute (`repeated`), with its segment and column
lines: what the log counts against column groups (Table 16.1, class 1). -/
structure CheckEvent where
  repeated : Bool
  seg      : Nat
  cols     : List Nat
  adcs     : List Nat
deriving DecidableEq, Repr

/-- One tile. `arrFree`, `laneFree`, `pipeFree` and `pltFree` are the cycles from which the array, the exact
lane, the output pipeline and the vector unit are free again. `stopped`: a tile fault has stopped the engines
(R145). `wnan`: a weight scale that is NaN was read since the berth's last commit (R38). `watches` are the operands that
running instructions watch (R127, R165); `stale` the ring words, by engine and index, that were overwritten where an
engine may have prefetched them (R131). `lastBusy` is the last cycle at whose end the tile was not idle (R147); `gate0` the
slot-count restart that a gated tile's static slots count from (R148). `cal` holds the cells of the 32 calibration rows
(R59). `crcAt` is the source of the bank write whose CRC failure is the recorded tile fault (R84). `trims` holds the applied trims by the byte of the tile record that holds their target (R180, Table 7.5);
`tally` the segments' tallies of R184; `events` check events that have not reached the log; `free` counts the free
values the tile has used. -/
structure Tile where
  regs     : SMap Word
  store    : Mem
  engs     : List Eng
  queues   : SMap TokQ
  port     : Bank
  stbd     : Bank
  bounded  : Bool
  retryQ   : List RetryEntry
  recompQ  : List RetryEntry
  sets     : List AccSet
  acc      : SMap AccRow
  outReg   : List (List Int)
  rho      : Nat
  arrFree  : Nat
  laneFree : Nat
  pipeFree : Nat
  pltFree  : Nat
  due      : List Due
  fetches  : List FetchOp
  sigs     : List SigOp
  turns    : SMap Nat
  groups   : List Group
  stopped  : Bool
  clkOn    : Bool
  wakePend : Bool
  inReset  : Bool
  wrapped  : Bool
  demotePend : Bool
  demoted  : Bool
  trims    : SMap Int
  tally    : SMap (Int × Nat)
  events   : List CheckEvent
  free     : Nat
  wnan     : Bool
  watches  : List Watch
  stale    : List (Nat × BitVec 9 × Dword)
  lastBusy : Nat
  gate0    : Nat
  cal      : List (BitVec 656)
  crcAt    : Option Dword
deriving DecidableEq, Repr

/-- What an unlisted token queue holds: after tile reset the bank-free queues hold one token each, of value 0
for the port bank and 1 for the starboard bank (R136, R154). -/
def queueReset (q : Nat) : TokQ :=
  if q = 25 then ⟨[⟨0, 0⟩], 0, 0⟩ else if q = 26 then ⟨[⟨1, 0⟩], 0, 0⟩ else TokQ.empty

/-- A set after tile reset: INT32 mode and OPEN (Table 4.6). -/
def AccSet.reset : AccSet := ⟨false, 0, 0, 0⟩

/-- A tile after power-on: registers at their reset values, tile store zero (R481), clock off. -/
def Tile.reset : Tile where
  regs := []
  store := []
  engs := [Eng.reset, Eng.reset, Eng.reset, Eng.reset, Eng.reset]
  queues := []
  port := Bank.reset
  stbd := Bank.reset
  bounded := false
  retryQ := []
  recompQ := []
  sets := [AccSet.reset, AccSet.reset]
  acc := []
  outReg := []
  rho := 0
  arrFree := 0
  laneFree := 0
  pipeFree := 0
  pltFree := 0
  due := []
  fetches := []
  sigs := []
  turns := []
  groups := [Group.clear, Group.clear, Group.clear, Group.clear]
  stopped := false
  clkOn := false
  wakePend := false
  inReset := false
  wrapped := false
  demotePend := false
  demoted := false
  trims := []
  tally := []
  events := []
  free := 0
  wnan := false
  watches := []
  stale := []
  lastBusy := 0
  gate0 := 0
  cal := []
  crcAt := none

end Sys2Proof.Machine
end

