-- ==== Sys2Proof/Machine/TileOps.lean ====
section
/-!
DEFINITION. Named operations on one tile: its registers, its store, its token queues, tile faults, bank-free
tokens and step flag words.
-/

namespace Sys2Proof.Machine

/-! ### Register fields -/

/-- The value of field `f` of the register word `w`. -/
def fldOf (f : Fld) (w : Word) : Nat := bitsOf w.toNat f.lo f.width

/-- The register word `w` with field `f` at `v`. -/
def fldPut (f : Fld) (w : Word) (v : Nat) : Word := BitVec.ofNat 32 (putBits w.toNat f.lo f.width v)

/-- The register word at a tile-block offset, as it is stored. -/
def tileReg (t : Tile) (off : Nat) : Word := mapGet tileRegReset t.regs off

/-- The tile with the register word at `off` replaced. -/
def setTileReg (t : Tile) (off : Nat) (w : Word) : Tile := { t with regs := mapSet tileRegReset t.regs off w }

/-- A field of a tile register; `i` is the index in a register array. -/
def tget (t : Tile) (f : Fld) (i : Nat := 0) : Nat := fldOf f (tileReg t (f.off + f.stride * i))

/-- The tile with a register field at `v`. -/
def tput (t : Tile) (f : Fld) (v : Nat) (i : Nat := 0) : Tile :=
  setTileReg t (f.off + f.stride * i) (fldPut f (tileReg t (f.off + f.stride * i)) v)

/-- A tile counter `n` higher (32 bits, wrapping). -/
def tbump (t : Tile) (f : Fld) (n : Nat := 1) : Tile := tput t f (tget t f + n)

/-! ### Engines -/

/-- Engine codes (Table 5.1). -/
def engCode : Engine → Nat
  | .fet => 0
  | .arr => 1
  | .sid => 2
  | .plt => 3
  | .sig => 4

/-- An engine of a tile. -/
def engOf (t : Tile) (e : Engine) : Eng := t.engs.getD (engCode e) Eng.reset

/-- The tile with one engine replaced. -/
def setEng (t : Tile) (e : Engine) (g : Eng) : Tile := { t with engs := t.engs.set (engCode e) g }

/-- Width of an engine register, or none where the number is reserved (Table 6.3). -/
def regWidth (e : Engine) (n : Nat) : Option Nat :=
  if n ≤ 15 then some 64
  else if n = 16 ∨ n = 17 ∨ n = 18 ∨ n = 19 then some 16
  else if n = 20 then some 24
  else if 24 ≤ n ∧ n ≤ 27 then some 16
  else match e with
    | .arr => if 32 ≤ n ∧ n ≤ 35 then some 64 else none
    | .sid => if 32 ≤ n ∧ n ≤ 38 then some 64 else none
    | .plt => if n = 32 then some 64 else none
    | .fet => none
    | .sig => none

/-- Reset values of engine registers: EADV resets to 512 and TADV to 8 (R161), the others to 0. -/
def gpReset (e : Engine) (n : Nat) : Dword :=
  if e = .arr ∧ n = 34 then 512 else if e = .arr ∧ n = 35 then 8 else 0

/-- What engine register `n` reads as: GP0 reads as 0 (Table 6.3). -/
def gp (t : Tile) (e : Engine) (n : Nat) : Dword :=
  if n = 0 then 0 else mapGet (gpReset e) (engOf t e).gp n

/-- The tile after a write of engine register `n`: a write of GP0 is ignored, and a register holds its width. -/
def setGp (t : Tile) (e : Engine) (n : Nat) (v : Dword) : Tile :=
  if n = 0 then t
  else
    let w := (regWidth e n).getD 0
    setEng t e { engOf t e with gp := mapSet (gpReset e) (engOf t e).gp n (BitVec.ofNat 64 (v.toNat % 2 ^ w)) }

/-- The program counter of an engine (Table 5.9). -/
def pcOf (t : Tile) (e : Engine) : BitVec 9 := BitVec.ofNat 9 (tget t TIL_ENG_PC_PC (engCode e))

/-- The tile with an engine's program counter at ring index `v`. -/
def setPc (t : Tile) (e : Engine) (v : BitVec 9) : Tile := tput t TIL_ENG_PC_PC v.toNat (engCode e)

/-- ENG_STATE codes (Table 5.7). -/
def setEngState (t : Tile) (e : Engine) (st : Nat) : Tile := setEng t e { engOf t e with st := st }

/-! ### Tile store (R138) -/

/-- First offset above what the tile's own engines may touch: data, rings and waypoint counters (R138). -/
def storeTop : Nat := 0x7E000

/-- Whether an engine access of `n` bytes at tile-local address `a` is legal (R138, R155). -/
def storeLegal (a : Dword) (n : Nat) : Bool := decide (a.toNat + n ≤ storeTop)

/-- Bytes of tile store. -/
def sread (t : Tile) (a n : Nat) : List Byte := memRead t.store a n

/-- Offsets of the reserved waypoint counters 248 to 255: what a write leaves in them is undefined (R138). -/
def reservedCounter (a : Nat) : Bool := decide (0x7DF80 ≤ a) && decide (a < 0x7E000)

/-- Whether address `x` lies in one of the ranges. -/
def inRanges (l : List (Nat × Nat)) (x : Nat) : Bool := l.any fun r => decide (r.1 ≤ x) && decide (x < r.1 + r.2)

/-- A watch after bytes were written at `a` of a store: the watched bytes that were written, or that changed, are hit
(R127, R165). -/
def noteWatch (m : Mem) (a : Nat) (bs : List Byte) (w : Watch) : Watch :=
  if w.on then
    { w with hits := w.hits ++ (bs.zipIdx.filter fun q =>
        inRanges w.ranges (a + q.2) && (w.any || decide (memByte m (a + q.2) ≠ q.1))).map fun q => a + q.2 }
  else w

/-- The place of ring index `i` of the engine with code `c` (Table 5.2). -/
def ringPlace (c : Nat) (i : BitVec 9) : Nat := 0x78000 + 0x1000 * c + 8 * i.toNat

/-- The ring index at the program counter of the engine with code `c`. -/
def pcAt (t : Tile) (c : Nat) : BitVec 9 := BitVec.ofNat 9 (tget t TIL_ENG_PC_PC c)

/-- The ring indexes of an engine that may be prefetched: its next instruction and 16 ahead of it (R131). -/
def ringWindow (t : Tile) (c : Nat) : List (BitVec 9) := (List.range 17).map fun i => pcAt t c + BitVec.ofNat 9 i

/-- The word at ring index `i` of the engine with code `c`. -/
def ringAt (t : Tile) (c : Nat) (i : BitVec 9) : Dword := BitVec.ofNat 64 (leVal (sread t (ringPlace c i) 8))

/-- The ring words that a write of `n` bytes at `a` overwrites where a started engine may have prefetched them (R131). -/
def staleWords (t : Tile) (a n : Nat) : List (Nat × BitVec 9 × Dword) :=
  if a + n ≤ 0x78000 ∨ 0x7D000 ≤ a then []
  else ((List.range 5).filter fun c => (t.engs.getD c Eng.reset).on).flatMap fun c =>
    ((ringWindow t c).filter fun i => decide (ringPlace c i < a + n) && decide (a < ringPlace c i + 8)).map fun i =>
      (c, i, ringAt t c i)

/-- The instruction that an engine is known to hold once `n` bytes at `a` have been written: one that runs and whose next
instruction waits for its static slot has read it (R131, notes/assumptions/8.md). -/
def heldAfter (t : Tile) (a n c : Nat) (g : Eng) : Option Dword :=
  let w := ringAt t c (pcAt t c)
  if g.held.isNone ∧ g.on = true ∧ tget t TIL_CTL_RUN = 1 ∧ bitsOf w.toNat 62 2 = 0
      ∧ ringPlace c (pcAt t c) < a + n ∧ a < ringPlace c (pcAt t c) + 8 then some w
  else g.held

/-- What watches and prefetch see of a write of tile store (R127, R131, R165). -/
def noteWrite (t : Tile) (a : Nat) (bs : List Byte) : Tile :=
  { t with
    watches := t.watches.map (noteWatch t.store a bs)
    stale := t.stale ++ staleWords t a bs.length
    engs := t.engs.zipIdx.map fun q => { q.1 with held := heldAfter t a bs.length q.2 q.1 } }

/-- The tile after a write of tile store. A byte that falls in a reserved counter takes a free value. -/
def swrite (t : Tile) (a : Nat) (bs : List Byte) : Tile :=
  if (List.range bs.length).any (fun i => reservedCounter (a + i)) then
    { noteWrite t a bs with
      store := memWrite t.store a (bs.zipIdx.map fun q =>
        if reservedCounter (a + q.2) then Config.counterByte t.free (a + q.2) else q.1)
      free := t.free + 1 }
  else { noteWrite t a bs with store := memWrite t.store a bs }

/-- A little-endian number of `n` bytes in tile store. -/
def snat (t : Tile) (a n : Nat) : Nat := leVal (sread t a n)

/-- The tile after `bits` are ORed into the 32-bit step flag word at `a` (R124): FORMAT is bit 0, CLIPPED
bit 1. -/
def orFlags (t : Tile) (a : Nat) (format clipped : Bool) : Tile :=
  if format || clipped then
    swrite t a (leBytes 4 ((BitVec.ofNat 32 (snat t a 4) ||| BitVec.ofNat 32 (bit format + 2 * bit clipped)).toNat))
  else t

/-! ### Token queues (R134 to R137) -/

/-- Producer and consumer of a queue, or none for "no queue" and reserved identifiers (R134). The Array engine
writes the bank-free queues 25 and 26 and Fetch waits on them (R136). -/
def queueEnds (q : Nat) : Option (Nat × Nat) :=
  if q = 25 ∨ q = 26 then some (1, 0)
  else if 1 ≤ q ∧ q ≤ 24 ∧ q / 5 ≠ q % 5 then some (q / 5, q % 5)
  else none

/-- Queue depth (R134). -/
def queueDepth (q : Nat) : Nat :=
  if q = 25 ∨ q = 26 then 1 else if q / 5 = 0 then 32 else 16

/-- A queue of the tile. -/
def queueOf (t : Tile) (q : Nat) : TokQ := mapGet queueReset t.queues q

/-- The tile with a queue replaced. -/
def setQueue (t : Tile) (q : Nat) (v : TokQ) : Tile := { t with queues := mapSet queueReset t.queues q v }

/-- The oldest token of queue `q`, when its consumer sees it in cycle `now` (R135). -/
def tokenAt (t : Tile) (q now : Nat) : Option Half :=
  match (queueOf t q).toks with
  | k :: _ => if k.visible ≤ now then some k.value else none
  | [] => none

/-- Whether queue `q` has a place to reserve in cycle `now`: a place freed by a pop in this cycle counts only
from the next one (R135). -/
def queueRoom (t : Tile) (q now : Nat) : Bool :=
  let v := queueOf t q
  decide (v.toks.length + v.resv + (if v.pop = now + 1 then 1 else 0) < queueDepth q)

/-- The tile after a pop of queue `q` in cycle `now`. -/
def popToken (t : Tile) (q now : Nat) : Tile :=
  let v := queueOf t q
  setQueue t q { v with toks := v.toks.drop 1, pop := now + 1 }

/-- The tile after a place of queue `q` is reserved. -/
def reservePlace (t : Tile) (q : Nat) : Tile :=
  let v := queueOf t q
  setQueue t q { v with resv := v.resv + 1 }

/-- The tile after a token is written into its reserved place at the end of cycle `now`. -/
def writeToken (t : Tile) (q : Nat) (value : Half) (now : Nat) : Tile :=
  let v := queueOf t q
  setQueue t q { v with toks := v.toks ++ [⟨value, now + 1⟩], resv := v.resv - 1 }

/-! ### Pending effects -/

/-- Whether pending effect `d` comes about before `x`: in the order of cycles, and of ranks within a cycle. -/
def dueBefore (d x : Due) : Bool :=
  decide (d.at_ < x.at_) || (decide (d.at_ = x.at_) && decide (d.eff.rank < x.eff.rank))

/-- A pending effect in its place among the others, after those of the same cycle and rank. -/
def insertDue (d : Due) : List Due → List Due
  | [] => [d]
  | x :: r => if dueBefore d x then d :: x :: r else x :: insertDue d r

/-- The tile with one more effect to come at cycle `at_`. -/
def later (t : Tile) (at_ : Nat) (eff : Effect) : Tile := { t with due := insertDue ⟨at_, eff⟩ t.due }

/-! ### Tile faults (R145) -/

/-- Causes of TIL_FAULT (Table 5.8). -/
inductive Cause
  | wdog | stall | toklate | tokfull | slotlate | array | side | addr | illegal | queue
deriving DecidableEq, Repr

/-- The code of a cause (Table 5.8). -/
def causeCode : Cause → Nat
  | .wdog => 1
  | .stall => 2
  | .toklate => 3
  | .tokfull => 4
  | .slotlate => 5
  | .array => 6
  | .side => 7
  | .addr => 8
  | .illegal => 9
  | .queue => 10

/-- A pending effect as it goes on after a tile fault: instructions in flight complete but post no tokens. -/
def unpost (d : Due) : Due :=
  match d.eff with
  | .retire f => ⟨d.at_, .retire { f with post := 0 }⟩
  | .bankReady b fmt tag cells scales outl f => ⟨d.at_, .bankReady b fmt tag cells scales outl { f with post := 0 }⟩
  | _ => d

/-- A tile fault (R145): the first is recorded, later ones set MULTI; all engines stop issuing, and what is in
flight posts no token, its reserved places released (R135). `eng` is 7 for QUEUE. -/
def tileFault (t : Tile) (cause : Cause) (eng : Nat) (pc : BitVec 9) : Tile :=
  let t1 :=
    if tget t TIL_FAULT_VALID = 1 then tput t TIL_FAULT_MULTI 1
    else tput (tput (tput (tput t TIL_FAULT_CAUSE (causeCode cause)) TIL_FAULT_ENGINE eng) TIL_FAULT_PC pc.toNat)
      TIL_FAULT_VALID 1
  { t1 with
    stopped := true
    crcAt := if tget t TIL_FAULT_VALID = 1 then t.crcAt else none
    due := t1.due.map unpost
    fetches := t1.fetches.map fun o => { o with flight := { o.flight with post := 0 } }
    queues := (t1.queues.map fun p => (p.1, { p.2 with resv := 0 })).filter fun p => p.2 ≠ queueReset p.1
    engs := t1.engs.map fun g => { g with st := 0 } }

/-- Schedule faults of the array, with their bit of TIL_ARR_FAULT (Table 3.12). -/
def arrFault (t : Tile) (f : Fld) (bank : Bool) (eng : Nat) (pc : BitVec 9) : Tile :=
  tileFault (tput (tput t f 1) TIL_ARR_FAULT_BANK (bit bank)) .array eng pc

/-- Faults of the side path, with their bit of TIL_SID_FAULT (Table 4.7). -/
def sidFault (t : Tile) (f : Fld) (set : Bool) (row : Nat) (eng : Nat) (pc : BitVec 9) : Tile :=
  tileFault (tput (tput (tput t f 1) TIL_SID_FAULT_SET (bit set)) TIL_SID_FAULT_ROW row) .side eng pc

/-! ### Banks (R79, R85 to R87, R136) -/

/-- A bank: false is the port bank, true the starboard bank. -/
def bankOf (t : Tile) (b : Bool) : Bank := if b then t.stbd else t.port

/-- The tile with a bank replaced. -/
def setBank (t : Tile) (b : Bool) (v : Bank) : Tile := if b then { t with stbd := v } else { t with port := v }

/-- The bank that a pending effect's entry refers to. -/
def effectBank (d : Due) : Option Bool :=
  match d.eff with
  | .retryDone e _ _ => some e.bank
  | .recompDone e _ _ => some e.bank
  | _ => none

/-- Whether any retry or recompute entry refers to the bank (R79). -/
def bankHeld (t : Tile) (b : Bool) : Bool :=
  t.retryQ.any (fun e => e.bank == b) || t.recompQ.any (fun e => e.bank == b)
    || t.due.any (fun d => effectBank d == some b)

/-- Whether the bank is busy in cycle `now` (R86): `busyUntil` is the cycle in which its last check ends. -/
def bankBusy (t : Tile) (b : Bool) (now : Nat) : Bool :=
  decide ((bankOf t b).st = .active) || decide (0 < (bankOf t b).busyUntil ∧ now ≤ (bankOf t b).busyUntil)
    || bankHeld t b

/-- The bank-free queue of a bank (R134). -/
def bankQueue (b : Bool) : Nat := if b then 26 else 25

/-- One bank's token after its busy state may have changed at the end of cycle `now` (R136): written when the
bank ceased to be busy, unless the queue holds one, and withdrawn when it became busy again. -/
def bankToken (t : Tile) (b : Bool) (now : Nat) : Tile :=
  let busy := bankBusy t b (now + 1)
  let t1 := setBank t b { bankOf t b with wasBusy := busy }
  if (bankOf t b).wasBusy && !busy then
    if (queueOf t1 (bankQueue b)).toks.isEmpty then
      setQueue t1 (bankQueue b) { queueOf t1 (bankQueue b) with toks := [⟨if b then 1 else 0, now + 1⟩] }
    else t1
  else if busy then
    setQueue t1 (bankQueue b) { queueOf t1 (bankQueue b) with toks := [] }
  else t1

/-- Both banks' tokens. -/
def bankTokens (t : Tile) (now : Nat) : Tile := bankToken (bankToken t false now) true now

/-! ### Accumulator sets (R114) -/

/-- A set. -/
def setOf (t : Tile) (s : Bool) : AccSet := t.sets.getD (bit s) AccSet.reset

/-- The tile with a set replaced. -/
def putSet (t : Tile) (s : Bool) (v : AccSet) : Tile := { t with sets := t.sets.set (bit s) v }

/-- Whether a set is DRAINING in cycle `now` (R117). -/
def draining (t : Tile) (s : Bool) (now : Nat) : Bool := decide (now < (setOf t s).openAt)

/-- Key of a row. -/
def rowKey (s : Bool) (row : Nat) : Nat := 16 * bit s + row

/-- A row of a set. -/
def rowOf (t : Tile) (s : Bool) (row : Nat) : AccRow := mapGet (fun _ => AccRow.zero) t.acc (rowKey s row)

/-- The tile with a row replaced. -/
def putRow (t : Tile) (s : Bool) (row : Nat) (v : AccRow) : Tile :=
  { t with acc := mapSet (fun _ => AccRow.zero) t.acc (rowKey s row) v }

/-! ### What a tile sees of the module -/

/-- The time and place of an event: the tile cycle, the restart of the current watch's slot count (R345), the
watch's nominal length in tile cycles (R156), the starts of its dog slots after the restart (R185), the tile's
name and its module's number. -/
structure Ctx where
  now    : Nat
  slot0  : Nat
  len    : Nat
  dogs   : List Nat
  me     : TileRef
  module : BitVec 10
deriving DecidableEq, Repr

/-- Whether the array cycles from `a` up to `b` touch a dog slot, 2,400 tile cycles each (R89, R185); an instruction that
drives no plane has none. -/
def inDog (c : Ctx) (a b : Nat) : Bool :=
  decide (a < b) && c.dogs.any fun d => decide (c.slot0 + d < b) && decide (a < c.slot0 + d + 2400)

/-- The next free value, as a 32-bit word (notes/assumptions/3.md), and the tile that has used it. -/
def tileFree (t : Tile) : Tile := { t with free := t.free + 1 }

/-- `n` free bytes of a tile (R127, R165, R166: results the manual leaves undefined). -/
def freeAt (r : TileRef) (t : Tile) (n : Nat) : List Byte :=
  (List.range n).map fun i => BitVec.ofNat 8 (Config.tileWord r.stack.toNat r.tile.toNat (t.free + i)).toNat

/-- The tile after `n` of its free words are used. -/
def useFree (t : Tile) (n : Nat) : Tile := { t with free := t.free + n }

/-- The tile with `n` bytes at `a` undefined. -/
def undefine (r : TileRef) (t : Tile) (a n : Nat) : Tile := useFree (swrite t a (freeAt r t n)) n

/-- The local-port waits of an access, counted (R140, R167): how many grants are denied is free. -/
def storeWaits (c : Ctx) (t : Tile) : Nat := Config.storeWait c.me.stack.toNat c.me.tile.toNat t.free

/-- The tile after the waits of an access: TIL_STORE_WAIT counts them (R140). -/
def waited (c : Ctx) (t : Tile) : Tile := tileFree (tbump t TIL_STORE_WAIT (storeWaits c t))

/-! ### Watches (R127, R165) -/

/-- The tile with a new watch of tile `r` on operand ranges. -/
def addWatch (t : Tile) (r : TileRef) (id : Nat) (any : Bool) (ranges : List (Nat × Nat)) : Tile :=
  { t with watches := t.watches ++ [⟨id, r, true, any, ranges, []⟩] }

/-- A watch of the tile. -/
def watchOf (t : Tile) (id : Nat) : Option Watch := t.watches.find? fun w => w.id == id

/-- The number of the watch of an instruction: an engine issues one instruction a cycle. -/
def watchId (f : Flight) : Nat := 8 * f.issued + engCode f.eng

/-- Whether a watch was hit in one of the ranges. -/
def Watch.hitIn (w : Watch) (l : List (Nat × Nat)) : Bool := w.hits.any (inRanges l)

/-- The tile at whose time `now` something was under way (R147). -/
def busyAt (t : Tile) (now : Nat) : Tile := { t with lastBusy := max t.lastBusy now }

end Sys2Proof.Machine
end

