-- ==== Sys2Proof/Machine/ArrayOps.lean ====
section
/-!
DEFINITION. The compute array: bank formats and layout (R61, R62, R81 to R84), conversion of segment-planes
(R64 to R71), the checks of R100 to R103, and what a retry or recompute contributes (R104 to R107).
-/

namespace Sys2Proof.Machine

/-! ### Bank formats (Table 3.2, Table 3.5) -/

/-- FMT codes: 1 W4, 2 W3, 3 WT, 4 W8H, 5 W8L (Table 3.5). -/
def fmtValid (f : Nat) : Bool := 1 ≤ f && f ≤ 5

/-- Group width g (Table 3.2). -/
def fmtWidth (f : Nat) : Nat := if f = 2 then 4 else if f = 3 then 3 else 5

/-- Outputs of a bank (Table 3.2). -/
def fmtOutputs (f : Nat) : Nat := if f = 2 then 160 else if f = 3 then 213 else 128

/-- Slot weights ω of the counted slots (Table 3.2). -/
def slotWeights (f : Nat) : List Int := if f = 2 then [1, 2, -4] else if f = 3 then [1, -1] else [1, 2, 4, -8]

/-- Counted slots. -/
def countedSlots (f : Nat) : List Nat := List.range (slotWeights f).length

/-- The low slots of bounded mode (R57): W4 and W8 b0 and b1, W3 b0, none for WT. -/
def lowSlots (f : Nat) : List Nat := if f = 2 then [0] else if f = 3 then [] else [0, 1]

/-- Slots whose counts the check comparator subtracts from pop (R65). -/
def checkedSlots (f : Nat) : List Nat := if f = 2 then [2] else if f = 3 then [0, 1] else [3]

/-- The check slot (Table 3.2). -/
def checkSlot (f : Nat) : Nat := fmtWidth f - 1

/-- The logical column of slot `k` of output `j` (R61). -/
def columnOf (f j k : Nat) : Nat := fmtWidth f * j + k

/-- The number a of a counted column (R62). -/
def countedIndex (f j k : Nat) : Nat := (slotWeights f).length * j + k

/-! ### Bank writes (R80 to R84) -/

/-- Bytes of the scale section, whole beats (Table 3.6). -/
def scaleBytes (f : Nat) : Nat := 32 * ceilDiv (4 * fmtOutputs f) 32

/-- Bytes of the outlier section (Table 3.6). -/
def outlierBytes (f : Nat) : Nat := 64 * fmtOutputs f

/-- Beats of a bank write (Table 3.6). -/
def bankBeats (f : Nat) (outl : Bool) : Nat :=
  1 + 1024 + scaleBytes f / 32 + (if outl then outlierBytes f / 32 else 0)

/-- The 640 usable columns of a row from its 512 payload bits (R81). -/
def placeRow (f : Nat) (v : BitVec 512) : BitVec 640 :=
  BitVec.ofBoolListLE (((List.range (fmtOutputs f)).flatMap fun j =>
    if f = 2 then
      [v.getLsbD (3 * j), v.getLsbD (3 * j + 1), v.getLsbD (3 * j + 2), !v.getLsbD (3 * j + 2)]
    else if f = 3 then
      [v.getLsbD (2 * j), v.getLsbD (2 * j + 1), !(v.getLsbD (2 * j) || v.getLsbD (2 * j + 1))]
    else
      [v.getLsbD (4 * j), v.getLsbD (4 * j + 1), v.getLsbD (4 * j + 2), v.getLsbD (4 * j + 3),
        !v.getLsbD (4 * j + 3)])
    ++ (if f = 3 then [false] else [])) |>.setWidth 640

/-- Whether a WT row has p = n = 1 for an output (R84). -/
def wtBad (v : BitVec 512) : Bool :=
  (List.range 213).any fun j => v.getLsbD (2 * j) && v.getLsbD (2 * j + 1)

/-- The 512 payload bits of a row's two beats (R80, R81). -/
def rowPayload (bs : List Byte) : BitVec 512 := BitVec.ofNat 512 (leVal bs)

/-- What a bank write's stream gives (R84): the bits WRFMT and WRCRC, and the bank's content when both are
clear. `stream` holds the bytes of the beats received, `beats` the beat count of FET.BANKW. -/
structure BankLoad where
  wrfmt  : Bool
  wrcrc  : Bool
  fmt    : Nat
  tag    : Nat
  cells  : List (BitVec 640)
  scales : List Byte
  outl   : List Word
deriving DecidableEq, Repr

/-- Check and take apart the stream of a bank write (R80 to R84). -/
def loadBank (stream : List Byte) (beats : Nat) : BankLoad :=
  let hdr := leVal (stream.take 32)
  let f := bitsOf hdr 0 4
  let ol := bitOf hdr 4
  let body := stream.drop 32
  let rows := (chunks 64 513 (body.take 32768)).map rowPayload
  let sc := body.drop 32768
  let wrfmt := !fmtValid f || decide (beats ≠ bankBeats f ol) || (decide (f = 3) && rows.any wtBad)
  { wrfmt := wrfmt
    wrcrc := decide ((crc32c body).toNat ≠ bitsOf hdr 64 32)
    fmt := f
    tag := bitsOf hdr 32 32
    cells := rows.map (placeRow f)
    scales := sc.take (4 * fmtOutputs f)
    outl := if ol then (wordsOf ((sc.drop (scaleBytes f)).take (outlierBytes f))).map (BitVec.ofNat 32) else [] }

/-! ### Spare lines (R94) -/

/-- The spare-line assignments of a tile, in the order of their entries: segment, logical column, line. -/
def steering (t : Tile) : List (Nat × Nat × Nat) :=
  (List.range 64).filterMap fun n =>
    if tget t TIL_COLREP_VALID n = 1 then some (n / 16, tget t TIL_COLREP_COLUMN n, 640 + n % 16) else none

/-- The column line that serves logical column `col` in segment `s`: the spare line of the first valid entry that names
the column, or its own line. -/
def cellLine (st : List (Nat × Nat × Nat)) (s col : Nat) : Nat :=
  match st.find? fun e => e.1 == s && e.2.1 == col with
  | some e => e.2.2
  | none => col

/-- A row's bits on the column lines after a bank write of its logical columns `v` in segment `s` (R81, R94): a column's
bit goes to the line that serves it; a line that serves none keeps its bit. -/
def placeLines (st : List (Nat × Nat × Nat)) (s : Nat) (old : BitVec 656) (v : BitVec 640) : BitVec 656 :=
  let own := st.filter fun e => e.1 == s && cellLine st s e.2.1 == e.2.2
  BitVec.ofBoolListLE ((List.range 656).map fun l =>
    match own.find? fun e => e.2.2 == l with
    | some e => v.getLsbD e.2.1
    | none => if 640 ≤ l || own.any fun e => e.2.1 == l then old.getLsbD l else v.getLsbD l) |>.setWidth 656

/-- A bank's cells after a bank write of the logical rows `rows`. -/
def placeCells (st : List (Nat × Nat × Nat)) (old : List (BitVec 656)) (rows : List (BitVec 640)) : List (BitVec 656) :=
  rows.zipIdx.map fun q => placeLines st (q.2 / 128) (old.getD q.2 0) q.1

/-! ### Counts -/

/-- The mirror bits of column `col` in segment `s` of a bank, row 128 s first (R82). -/
def segCells (b : Bank) (s col : Nat) : BitVec 128 :=
  BitVec.ofBoolListLE (((b.mirror.drop (128 * s)).take 128).map fun r => r.getLsbD col) |>.setWidth 128

/-- The cell bits of line `l` in segment `s` of a bank, row 128 s first. -/
def lineCells (b : Bank) (s l : Nat) : BitVec 128 :=
  BitVec.ofBoolListLE (((b.cells.drop (128 * s)).take 128).map fun r => r.getLsbD l) |>.setWidth 128

/-- How many bits of a word are 1. -/
def popBits {w : Nat} (x : BitVec w) : Nat := ((List.range w).filter fun i => x.getLsbD i).length

/-- The exact count of a column from the digital mirror (R63, R82). -/
def trueCount (b : Bank) (s col : Nat) (x : BitVec 128) : Nat := popBits (x &&& segCells b s col)

/-- The conducting cells of the line that serves a column (R59, R94). -/
def lineCount (st : List (Nat × Nat × Nat)) (b : Bank) (s col : Nat) (x : BitVec 128) : Nat :=
  popBits (x &&& lineCells b s (cellLine st s col))

/-- The stored popcount of a column (R82). -/
def storedPop (b : Bank) (s col : Nat) : Nat := popBits (segCells b s col)

/-- How far the held level lies from the nominal level of the true count, in 2^-16 count. -/
def levelDev (lv : List Level) (s p col : Nat) : Int :=
  match lv.find? (fun l => l.seg.toNat == s && l.plane.toNat == p && l.col.toNat == col) with
  | some l => l.dev
  | none => 0

/-- The level of a true count with its deviation, in 2^-16 count. -/
def levelOf (c : Nat) (dev : Int) : Int := (c : Int) * 65536 + dev

/-- The code of an exact conversion (R64): min(255, max(0, ⌊2u⌋)). -/
def exactCode (u : Int) : Nat := (clamp 0 255 (2 * u / 65536)).toNat

/-- The count decoded from an exact conversion (R64): ⌊(code + 1) ÷ 2⌋. -/
def exactCount (u : Int) : Nat := (exactCode u + 1) / 2

/-- The count decoded from a merged conversion (R66): min(255, max(0, ⌊u + ½⌋)). -/
def mergedCount (u : Int) : Nat := (clamp 0 255 ((u + 32768) / 65536)).toNat

/-- The check comparator of R65: e − ½ < u < e + ½. -/
def comparatorPasses (e u : Int) : Bool := decide (e * 65536 - 32768 < u) && decide (u < e * 65536 + 32768)

/-- The shadow check's columns: counted column a with a mod 16 = ρ (R102). -/
def sampled (f j k rho : Nat) : Bool := countedIndex f j k % 16 == rho

/-- What one group of one segment-plane's conversion gave: the counts of the slots converted, the codes of exact
conversions, and which checks failed. -/
structure GroupConv where
  counts : List (Nat × Nat)
  codes  : List Nat
  cmp    : Bool
  rng    : Bool
  shd    : Bool
deriving DecidableEq, Repr

/-- A group fails when any of its checks fails (R103). -/
def GroupConv.failed (g : GroupConv) : Bool := g.cmp || g.rng || g.shd

/-- Exact conversion of the slots `slots` of group `j` in segment `s` and plane `p`, and its checks
(R64, R65, R99 to R103): `x` the input bits, `pop` their popcount, `st` the spare lines in use. -/
def convertExact (st : List (Nat × Nat × Nat)) (b : Bank) (lv : List Level) (s p j : Nat) (x : BitVec 128) (pop rho : Nat) (slots : List Nat) :
    GroupConv :=
  let f := b.fmt
  let code := fun k =>
    exactCode (levelOf (lineCount st b s (columnOf f j k) x) (levelDev lv s p (columnOf f j k)))
  let count := fun k => (code k + 1) / 2
  let counts := slots.map fun k => (k, count k)
  let e : Int := (pop : Int) - ((checkedSlots f).foldl (fun a k => a + count k) 0 : Nat)
  let cc := columnOf f j (checkSlot f)
  let u := levelOf (lineCount st b s cc x) (levelDev lv s p cc)
  { counts := counts
    codes := slots.map code
    cmp := !comparatorPasses e u
    rng := counts.any fun q => decide (min pop (storedPop b s (columnOf f j q.1)) < q.2)
    shd := counts.any fun q => sampled f j q.1 rho && decide (q.2 ≠ trueCount b s (columnOf f j q.1) x) }

/-- Merged conversion of the low slots of group `j` over segments `s` and `s + 1` (R66, R100, R102). -/
def convertMerged (st : List (Nat × Nat × Nat)) (b : Bank) (lv : List Level) (s p j : Nat) (x0 x1 : BitVec 128) (pop rho : Nat) : GroupConv :=
  let f := b.fmt
  let true2 := fun k => trueCount b s (columnOf f j k) x0 + trueCount b (s + 1) (columnOf f j k) x1
  let level2 := fun k => lineCount st b s (columnOf f j k) x0 + lineCount st b (s + 1) (columnOf f j k) x1
  let sp2 := fun k => storedPop b s (columnOf f j k) + storedPop b (s + 1) (columnOf f j k)
  let counts := (lowSlots f).map fun k => (k, mergedCount (levelOf (level2 k) (levelDev lv s p (columnOf f j k))))
  { counts := counts
    codes := []
    cmp := false
    rng := counts.any fun q => decide (min pop (sp2 q.1) < q.2)
    shd := counts.any fun q => sampled f j q.1 rho &&
      decide (1 < ((q.2 : Int) - (true2 q.1 : Int)).natAbs) }

/-- The plane weight σ_p · 2^p (R29). -/
def planeWeight (p : Nat) (sign : Bool) : Int := if sign then -((2 ^ p : Nat) : Int) else ((2 ^ p : Nat) : Int)

/-- Σ_k ω_k · c over the slots converted (R63). -/
def weightedCounts (f : Nat) (counts : List (Nat × Nat)) : Int :=
  counts.foldl (fun a q => a + (slotWeights f).getD q.1 0 * (q.2 : Int)) 0

/-- The two halves of an entry's input bits. -/
def entryBits (e : RetryEntry) (hi : Bool) : BitVec 128 :=
  if hi then (e.bits >>> 128).setWidth 128 else e.bits.setWidth 128

/-- Δ of R105 for one failed group: the plane weight times the weighted counts, times 16 on a W8H tile. -/
def contribution (f : Nat) (e : RetryEntry) (counts : List (Nat × Nat)) : Int :=
  planeWeight e.plane e.sign * weightedCounts f counts * (if f = 4 then 16 else 1)

/-- The exact counts of an entry's group, from the digital mirror (R107). -/
def mirrorCounts (b : Bank) (e : RetryEntry) (j : Nat) : List (Nat × Nat) :=
  e.slots.map fun k => (k, trueCount b e.seg (columnOf b.fmt j k) (entryBits e false)
    + if e.merged then trueCount b (e.seg + 1) (columnOf b.fmt j k) (entryBits e true) else 0)

/-- What codes add to a segment's tally: +1 for an even code and −1 for an odd code of a nonzero count; the conversion count
that divides a tally counts these codes (R184; DEDUCED, notes/assumptions/98.md). -/
def tallyOf (codes : List Nat) : Int × Nat :=
  let l := codes.filter fun c => decide (1 ≤ c)
  (l.foldl (fun v c => if c % 2 = 0 then v + 1 else v - 1) 0, l.length)

/-- The re-conversion of one failed group of an entry under the entry's mode, with the same checks on the same sampled
columns (R77, R104). -/
def reconvertGroup (st : List (Nat × Nat × Nat)) (b : Bank) (lv : List Level) (e : RetryEntry) (j : Nat) : GroupConv :=
  if e.merged then convertMerged st b lv e.seg e.plane j (entryBits e false) (entryBits e true) e.pop e.rho
  else convertExact st b lv e.seg e.plane j (entryBits e false) e.pop e.rho e.slots

/-- A re-conversion of an entry's failed groups: the contributions by lane, or none when a check fails again. -/
def reconvert (st : List (Nat × Nat × Nat)) (b : Bank) (lv : List Level) (e : RetryEntry) : Option (List (Nat × Int)) :=
  let gs := e.failed.map fun j => (j, reconvertGroup st b lv e j)
  if gs.any fun g => g.2.failed then none
  else some (gs.map fun g => (g.1, contribution b.fmt e g.2.counts))

/-- What the exact-mode codes of a re-conversion add to its segment's tally (R184). -/
def retryTally (st : List (Nat × Nat × Nat)) (b : Bank) (lv : List Level) (e : RetryEntry) : List (Nat × Int × Nat) :=
  if e.bounded then [] else [(e.seg, tallyOf (e.failed.flatMap fun j => (reconvertGroup st b lv e j).codes))]

/-- The column lines that an entry's failed groups cover: the slots converted and, in an exact conversion, the check
column; a spared column's line is its spare line (R94). -/
def entryColumns (st : List (Nat × Nat × Nat)) (f : Nat) (e : RetryEntry) : List Nat :=
  e.failed.flatMap fun j =>
    (e.slots ++ if e.merged then [] else [checkSlot f]).map fun k => cellLine st e.seg (columnOf f j k)

/-- The ADCs that converted an entry's failed groups: ADC a of the segment converts counted column a (R62). -/
def entryAdcs (f : Nat) (e : RetryEntry) : List Nat :=
  e.failed.flatMap fun j => e.slots.map fun k => countedIndex f j k

/-- The recomputed contributions of an entry, exact at any margin (R107). -/
def recompute (b : Bank) (e : RetryEntry) : List (Nat × Int) :=
  e.failed.map fun j => (j, contribution b.fmt e (mirrorCounts b e j))

/-! ### One input vector (R68 to R71, R99 to R103) -/

/-- One selected segment of an input vector: its number, its 128 values (all 0 in a zero block), its scale
code, and whether the scale is NaN (R37, R38). -/
structure SegIn where
  seg  : Nat
  vals : List Int
  code : Nat
  nan  : Bool
deriving DecidableEq, Repr

/-- Bit-plane `p` of a segment's elements, `w` bits wide (R29). -/
def planeBits (w p : Nat) (s : SegIn) : BitVec 128 :=
  BitVec.ofBoolListLE (s.vals.map fun v => bitOf (unsigned w v) p) |>.setWidth 128

/-- What one plane of a vector gave: the partial products by segment and output, the failures of original
conversions by kind, the retry entries, and what it adds to the segments' tallies (R184). -/
structure PlaneOut where
  parts   : List (List Int)
  cmp     : Nat
  rng     : Nat
  shd     : Nat
  entries : List RetryEntry
  tally   : List (Nat × Int × Nat)
deriving DecidableEq, Repr

/-- What an ARR.MVM is converting: bank, spare lines, mode, width, set, row and ring index. -/
structure MvmArgs where
  bankId  : Bool
  steer   : List (Nat × Nat × Nat)
  bank    : Bank
  bounded : Bool
  w       : Nat
  set     : Bool
  row     : Nat
  pc      : BitVec 9
deriving DecidableEq, Repr

/-- Whether the pair of even segment `e` converts its low slots merged (R58, R66): bounded mode, both selected,
equal scale codes. -/
def pairMerged (a : MvmArgs) (segs : List SegIn) (e : Nat) : Bool :=
  a.bounded && !(lowSlots a.bank.fmt).isEmpty &&
    match segs.find? (fun s => s.seg == e), segs.find? (fun s => s.seg == e + 1) with
    | some s0, some s1 => s0.code == s1.code
    | _, _ => false

/-- A retry entry of this instruction (R76, R104). -/
def entryOf (a : MvmArgs) (merged : Bool) (seg p : Nat) (bits : BitVec 256) (pop : Nat) (slots failed : List Nat)
    (sa rho : Nat) : RetryEntry :=
  ⟨a.bankId, merged, seg, p, p + 1 == a.w, bits, pop, slots, failed, a.set, a.row, sa, rho, a.pc, a.bounded⟩

/-- The exact conversion of one selected segment in plane `p`: its contribution by output, failures, entries. -/
def segPlane (a : MvmArgs) (lv : List Level) (segs : List SegIn) (p rho : Nat) (s : SegIn) :
    List Int × PlaneOut :=
  let f := a.bank.fmt
  let x := planeBits a.w p s
  let pop := popBits x
  if pop = 0 then ([], ⟨[], 0, 0, 0, [], []⟩)
  else
    let slots := if pairMerged a segs (s.seg / 2 * 2) then
      (countedSlots f).filter (fun k => !(lowSlots f).contains k) else countedSlots f
    let gs := (List.range (fmtOutputs f)).map fun j => convertExact a.steer a.bank lv s.seg p j x pop rho slots
    let failed := (List.range (fmtOutputs f)).filter fun j => match gs[j]? with | some g => g.failed | none => false
    (gs.map fun g => if g.failed then 0 else planeWeight p (p + 1 == a.w) * weightedCounts f g.counts,
     ⟨[], gs.countP (fun g => g.cmp), gs.countP (fun g => g.rng), gs.countP (fun g => g.shd),
      if failed.isEmpty then [] else [entryOf a false s.seg p (x.setWidth 256) pop slots failed s.code rho],
      if a.bounded then [] else [(s.seg, tallyOf (gs.flatMap fun g => g.codes))]⟩)

/-- The merged conversion of a pair's low slots in plane `p`. -/
def pairPlane (a : MvmArgs) (lv : List Level) (p rho : Nat) (s0 s1 : SegIn) : List Int × PlaneOut :=
  let f := a.bank.fmt
  let x0 := planeBits a.w p s0
  let x1 := planeBits a.w p s1
  let pop := popBits x0 + popBits x1
  if pop = 0 then ([], ⟨[], 0, 0, 0, [], []⟩)
  else
    let gs := (List.range (fmtOutputs f)).map fun j => convertMerged a.steer a.bank lv s0.seg p j x0 x1 pop rho
    let failed := (List.range (fmtOutputs f)).filter fun j => match gs[j]? with | some g => g.failed | none => false
    (gs.map fun g => if g.failed then 0 else planeWeight p (p + 1 == a.w) * weightedCounts f g.counts,
     ⟨[], 0, gs.countP (fun g => g.rng), gs.countP (fun g => g.shd),
      if failed.isEmpty then []
      else [entryOf a true s0.seg p (x0.setWidth 256 ||| (x1.setWidth 256 <<< 128)) pop (lowSlots f) failed s0.code
        rho], []⟩)

/-- The sum of two lists of numbers, the shorter one padded with zeros. -/
def addLists : List Int → List Int → List Int
  | [], b => b
  | a, [] => a
  | x :: a, y :: b => (x + y) :: addLists a b

/-- One driven plane of a vector: its contributions by selected segment (a pair's merged counts go to its even
segment), its failures and its entries. Entries of one plane enter the retry queue in the order of their segments, those
of merged pairs last: R76 gives no order (DESIGN CHOICE, notes/assumptions/68.md). -/
def convertPlane (a : MvmArgs) (lv : List Level) (segs : List SegIn) (p rho : Nat) : PlaneOut :=
  let own := segs.map fun s => (s, segPlane a lv segs p rho s)
  let merged := segs.map fun s =>
    if s.seg % 2 = 0 && pairMerged a segs s.seg then
      match segs.find? (fun r => r.seg == s.seg + 1) with
      | some s1 => pairPlane a lv p rho s s1
      | none => ([], ⟨[], 0, 0, 0, [], []⟩)
    else ([], ⟨[], 0, 0, 0, [], []⟩)
  let all := own.map (fun q => q.2.2) ++ merged.map (fun q => q.2)
  { parts := List.zipWith addLists (own.map fun q => q.2.1) (merged.map fun q => q.1)
    cmp := all.foldl (fun n o => n + o.cmp) 0
    rng := all.foldl (fun n o => n + o.rng) 0
    shd := all.foldl (fun n o => n + o.shd) 0
    entries := all.flatMap fun o => o.entries
    tally := all.flatMap fun o => o.tally }

/-- What a whole vector gave: contributions by segment and output, failures, entries with the index of their
plane among the driven ones, the shadow rotation after it, and the tallies. -/
structure VectorOut where
  parts   : List (List Int)
  cmp     : Nat
  rng     : Nat
  shd     : Nat
  entries : List (Nat × RetryEntry)
  rho     : Nat
  tally   : List (Nat × Int × Nat)
deriving DecidableEq, Repr

/-- Drive the planes in order (R68, R71, R102): `k` counts the planes driven so far. -/
def convertPlanes (a : MvmArgs) (lv : List Level) (segs : List SegIn) : List Nat → Nat → VectorOut → VectorOut
  | [], _, o => o
  | p :: ps, k, o =>
    let q := convertPlane a lv segs p o.rho
    convertPlanes a lv segs ps (k + 1)
      { parts := List.zipWith addLists o.parts q.parts
        cmp := o.cmp + q.cmp
        rng := o.rng + q.rng
        shd := o.shd + q.shd
        entries := o.entries ++ q.entries.map fun e => (k, e)
        rho := (o.rho + 1) % 16
        tally := o.tally ++ q.tally }

/-- The planes driven: those with a nonzero popcount in some selected segment (R70, R71). -/
def drivenPlanes (w : Nat) (segs : List SegIn) : List Nat :=
  (List.range w).filter fun p => segs.any fun s => decide (planeBits w p s ≠ 0)

/-- Segment-planes of selected segments that do not convert (R70). -/
def skippedSegPlanes (w : Nat) (segs : List SegIn) : Nat :=
  ((List.range w).map fun p => segs.countP fun s => decide (planeBits w p s = 0)).foldl (· + ·) 0

/-- The exact partials of a segment, as the exact lane forms them (R96): Σ x · weight over the counted slots. -/
def exactPartials (b : Bank) (w : Nat) (s : SegIn) : List Int :=
  (List.range (fmtOutputs b.fmt)).map fun j =>
    (List.range w).foldl (fun acc p =>
      acc + planeWeight p (p + 1 == w) *
        weightedCounts b.fmt ((countedSlots b.fmt).map fun k =>
          (k, trueCount b s.seg (columnOf b.fmt j k) (planeBits w p s)))) 0

/-- The outlier products of output `j` in a segment (R27, R112). -/
def outlierSum (b : Bank) (s : SegIn) (j : Nat) : Int :=
  ((b.outl.drop ((s.seg * fmtOutputs b.fmt + j) * 4)).take 4).foldl (fun acc r =>
    if bitOf r.toNat 7 then acc + s.vals.getD (bitsOf r.toNat 0 7) 0 * signed 12 (bitsOf r.toNat 8 12) else acc) 0

/-- Stage 2 of the adder tree (Table 4.2, R26): outliers, then ×16 on a W8H tile or + 8·X on a W8L tile. The outliers of a W8H
tile are multiplied too (DESIGN CHOICE, notes/assumptions/90.md). -/
def stage2 (b : Bank) (s : SegIn) (parts : List Int) : List Int :=
  (List.range (fmtOutputs b.fmt)).map fun j =>
    let p := parts.getD j 0 + outlierSum b s j
    if b.fmt = 4 then 16 * p
    else if b.fmt = 5 then p + 8 * s.vals.foldl (· + ·) 0
    else p

/-- The weight scale codes of a segment, by output (R83). -/
def segScales (b : Bank) (s : Nat) : List Nat :=
  ((b.scales.drop (s * fmtOutputs b.fmt)).take (fmtOutputs b.fmt)).map fun c => c.toNat

end Sys2Proof.Machine
end

