-- ==== Sys2Proof/Machine/SideOps.lean ====
section
/-!
DEFINITION. The side path: contributions to accumulator rows (R105, R111, R113, R116, R117), drains (R118 to
R126), the fused output pipeline (R120 to R125), and the effects of a tile as they fall due.
-/

namespace Sys2Proof.Machine

/-! ### Accumulation -/

/-- Whether a pending effect adds into the row (R111). -/
def addsTo (set : Bool) (row : Nat) (d : Due) : Bool :=
  match d.eff with
  | .rowAdd j => j.set == set && j.row == row
  | .retryDone e (some _) _ => e.set == set && e.row == row
  | .recompDone e _ _ => e.set == set && e.row == row
  | _ => false

/-- Every lane of a row held to its format, with its sticky flag (R39, R41, R114). -/
def saturateRow (long : Bool) (r : AccRow) : AccRow :=
  let w := if long then 96 else 32
  { r with
    val := r.val.map (saturate w)
    flag := (List.range r.val.length).map fun j =>
      r.flag.getD j false || decide (saturate w (r.val.getD j 0) ≠ r.val.getD j 0) }

/-- The row saturates once all that is added in this cycle has been added (R111). -/
def settleRow (t : Tile) (set : Bool) (row now : Nat) : Tile :=
  if t.due.any (fun d => d.at_ == now && addsTo set row d) then t
  else putRow t set row (saturateRow (setOf t set).long (rowOf t set row))

/-- FORMAT set in every row of a set (R38, R116). -/
def formatSet (t : Tile) (set : Bool) : Tile :=
  (List.range 16).foldl (fun t r => putRow t set r { rowOf t set r with format := true }) t

/-- The scale product of a segment and output in units of 2^-18; a NaN counts as 0 (R38, R41). -/
def scaledTerm (p : Int) (sa sw : Nat) : Int := longProduct p (e4m3 sa) (e4m3 sw)

/-- Stages 3 to 5 of the adder tree for one output (Table 4.2). -/
def laneTerm (long : Bool) (j : MvmJob) (o : Nat) : Int :=
  (List.range j.parts.length).foldl (fun acc i =>
    let p := (j.parts.getD i []).getD o 0
    if long then
      match j.sa.getD i none with
      | some c => acc + scaledTerm p c ((j.sw.getD i []).getD o 0)
      | none => acc
    else acc + p) 0

/-- INT32 records and checks of R116 for one ARR.MVM: the row with S_A and S_W recorded and FORMAT set where a
scale code differs, and whether a weight scale differs. -/
def recordScales (j : MvmJob) (r : AccRow) : AccRow × Bool :=
  let codes := j.sa.filterMap id
  let sa := match r.sa with
    | some c => some c
    | none => codes.head?
  let sw := match r.sw with
    | some l => l
    | none => j.sw0
  let bad := j.sw.any fun l => (List.range l.length).any fun o => decide (l.getD o 0 ≠ sw.getD o 0)
  ({ r with sa := sa, sw := some sw, format := r.format || codes.any (fun c => some c != sa) }, bad)

/-- Whether an ARR.MVM brings a weight scale that is NaN to a row: one of a selected segment, or, in INT32 mode, one of
segment 0 that it records as S_W (R38, R116). -/
def nanScales (long : Bool) (j : MvmJob) (r : AccRow) : Bool :=
  j.wformat || (!long && r.sw.isNone && j.sw0.any e4m3Nan)

/-- The partials of an ARR.MVM are added into its row through the partial port (R113, R116). A partial takes the
accumulator mode that its set has when it is added (DEDUCED, notes/assumptions/95.md). -/
def addPartials (t : Tile) (j : MvmJob) (now : Nat) : Tile :=
  let long := (setOf t j.set).long
  let outs := (j.sw0).length
  let r0 := rowOf t j.set j.row
  let rb := if long then (r0, false) else recordScales j r0
  let r1 := { rb.1 with
    val := addLists rb.1.val ((List.range outs).map (laneTerm long j))
    format := rb.1.format || j.format
    touched := true }
  let t1 := { putRow t j.set j.row r1 with outReg := j.parts }
  let t2 := if nanScales long j r0 then { formatSet t1 j.set with wnan := true } else t1
  let t3 := if rb.2 then
      formatSet (tput (tput (tput t2 TIL_SID_FAULT_WSCALE 1) TIL_SID_FAULT_SET (bit j.set)) TIL_SID_FAULT_ROW j.row)
        j.set
    else t2
  settleRow t3 j.set j.row now

/-- Contributions by lane as a list of lanes. -/
def lanesOf (delta : List (Nat × Int)) : List Int :=
  (List.range 256).map fun o => delta.foldl (fun acc d => if d.1 = o then acc + d.2 else acc) 0

/-- A withheld contribution arrives through the correction port at the end of cycle `now` (R105, R117); `eng` and
`pc` name the instruction that brings it. -/
def addCorrection (t : Tile) (e : RetryEntry) (delta : List (Nat × Int)) (eng : Nat) (pc : BitVec 9) (now : Nat) :
    Tile :=
  let s := setOf t e.set
  if draining t e.set now && decide (s.effectAt < now) then
    settleRow (sidFault t TIL_SID_FAULT_SETBUSY e.set e.row eng pc) e.set e.row now
  else
    let codes := segScales (bankOf t e.bank) e.seg
    let terms := if s.long then delta.map fun d => (d.1, scaledTerm d.2 e.sa (codes.getD d.1 0)) else delta
    let r0 := rowOf t e.set e.row
    let r1 := { r0 with val := addLists r0.val (lanesOf terms), touched := true }
    settleRow (putRow t e.set e.row r1) e.set e.row now

/-- The tile with a check event of entry `e` for the log (Table 16.1, class 1). -/
def checkEvent (t : Tile) (e : RetryEntry) (repeated : Bool) : Tile :=
  { t with events := t.events ++ [⟨repeated, e.seg, entryColumns (steering t) (bankOf t e.bank).fmt e,
    entryAdcs (bankOf t e.bank).fmt e⟩] }

/-- An entry passes to the recompute queue (R78, R107, R108); `eng` and `pc` name the instruction whose action
passed it. -/
def passToRecompute (t : Tile) (e : RetryEntry) (eng : Nat) (pc : BitVec 9) : Tile :=
  if 16 ≤ t.recompQ.length then sidFault t TIL_SID_FAULT_RCQFULL e.set e.row eng pc
  else { checkEvent t e true with recompQ := t.recompQ ++ [e] }

/-- A failed segment-plane enters the retry queue, or passes on when the queue holds 16 entries (R76, R78). -/
def enterRetry (t : Tile) (e : RetryEntry) : Tile :=
  if 16 ≤ t.retryQ.length then passToRecompute (tbump t TIL_ARR_PASSED) e (engCode .arr) e.pc
  else { t with retryQ := t.retryQ ++ [e] }

/-! ### The fused output pipeline (R120 to R125) -/

/-- Fields of a DCFG register (Table 6.8). -/
def dcfgMask (d : Dword) : Nat := bitsOf d.toNat 0 16
def dcfgM (d : Dword) : Nat := if bitsOf d.toNat 16 9 = 0 then 256 else bitsOf d.toNat 16 9
def dcfgAct (d : Dword) : Nat := bitsOf d.toNat 25 3
def dcfgBias (d : Dword) : Bool := bitOf d.toNat 28
def dcfgRes (d : Dword) : Bool := bitOf d.toNat 29
def dcfgOfmt (d : Dword) : Nat := bitsOf d.toNat 30 3
def dcfgConv (d : Dword) : Nat := bitsOf d.toNat 33 2
def dcfgResw (d : Dword) : Bool := bitOf d.toNat 35
def dcfgTstride (d : Dword) : Nat := bitsOf d.toNat 36 12
def dcfgRstride (d : Dword) : Nat := bitsOf d.toNat 48 16

/-- The codes of a DCFG register that are legal (Table 6.8). -/
def dcfgLegal (d : Dword) : Bool :=
  decide (dcfgAct d ≤ 3) && decide (dcfgOfmt d ≤ 5) && decide (dcfgConv d ≠ 3) &&
    decide (dcfgTstride d % 2 = 0) && decide (dcfgRstride d % 32 = 0)

/-- The rows a drain selects, in increasing order (R119). -/
def dcfgRows (d : Dword) : List Nat := (List.range 16).filter fun r => bitOf (dcfgMask d) r

/-- A residual value and whether its block sets FORMAT (R122, R51): block `b`, element `i` of it. -/
def residualBlock (t : Tile) (d : Dword) (p : RowPlaces) (b n : Nat) : List Int × Bool :=
  let wide := !dcfgResw d
  if wide && !ofmtWide (dcfgOfmt d) then (List.replicate n 0, true)
  else
    let code := snat t (p.resT + 2 * b) 1
    if e4m3Nan code then (List.replicate n 0, true)
    else
      let bs := sread t (p.resE + blockBytes wide * b) (blockBytes wide)
      ((List.range n).map fun i => longElement (elementOf wide bs i) (e4m3 code), false)

/-- Stage 4 over a row of `n` values: the residuals and whether a block set FORMAT. -/
def residuals (t : Tile) (d : Dword) (p : RowPlaces) (n : Nat) : List Int × Bool :=
  if dcfgRes d then
    let bs := (List.range (ceilDiv n 128)).map fun b => residualBlock t d p b (min 128 (n - 128 * b))
    (bs.flatMap fun q => q.1, bs.any fun q => q.2)
  else (List.replicate n 0, false)

/-- Where the operands of output block `b` of a row of `n` values lie besides its source: bias, residual elements and
residual tag (R122, R127). -/
def sideOperands (d : Dword) (p : RowPlaces) (n b : Nat) : List (Nat × Nat) :=
  let w := min 128 (n - 128 * b)
  (if dcfgBias d then [(p.bias + 512 * b, 4 * w)] else []) ++
    (if dcfgRes d then [(p.resE + blockBytes (!dcfgResw d) * b, blockBytes (!dcfgResw d)), (p.resT + 2 * b, 2)] else [])

/-- Stages 2 to 5 on the long values `ys` of one row when its second pass ends: flags and counters (Table 4.4, R124,
R125), and its blocks to be written 10 cycles later (R119, R127, notes/assumptions/9.md). `flagged` says whether a source
lane or container is flagged, `format` whether FORMAT is already set, `ops` where each block's operands lie. A row of
SID.EMIT counts in TIL_SID_SAT, TIL_SID_OVF and TIL_SID_FORMAT as a drained row does (DESIGN CHOICE,
notes/assumptions/71.md). -/
def pipeRow (t : Tile) (watch : Nat) (d : Dword) (p : RowPlaces) (ops : Nat → List (Nat × Nat)) (ys : List Int)
    (long format clipped flagged : Bool) (now : Nat) : Tile :=
  let n := ys.length
  let wide := ofmtWide (dcfgOfmt d)
  let biased := if dcfgBias d then
      (List.range n).map fun j => ys.getD j 0 + longQ16 (signed 32 (snat t (p.bias + 4 * j) 4))
    else ys
  let res := residuals t d p n
  let zs := List.zipWith (· + ·) (biased.map (activation (dcfgAct d))) res.1
  let blocks := convertRow wide (dcfgConv d) zs
  let fmt := format || res.2
  let clip := clipped || flagged || blocks.any fun b => b.clip
  let t1 := orFlags t p.flags fmt clip
  let t2 := tbump t1 TIL_SID_CLIP (blocks.countP fun b => b.clip)
  let t3 := tbump t2 TIL_SID_UFLOW (blocks.countP fun b => b.uflow)
  let t4 := if flagged then tbump t3 (if long then TIL_SID_OVF else TIL_SID_SAT) else t3
  let t5 := if fmt then tbump t4 TIL_SID_FORMAT else t4
  later t5 (now + 10) (.blocks watch (dcfgConv d) p.elems p.tags (blockBytes wide)
    (blocks.map fun b => (b.bytes wide, leBytes 2 b.tag)) ((List.range blocks.length).map ops))

/-- The blocks that a change of an operand of block `b` concerns: those converted with a scale in common (R48, R123, R127):
the whole row in token-uniform conversion, the pair in a pair conversion, else the block. -/
def sharesScale (conv a b : Nat) : Bool := if conv = 1 then true else if conv = 2 then a / 2 == b / 2 else a == b

/-- Whether a hit of the watch concerns block `b`, of blocks with the operands `ops`. -/
def concerned (w : Watch) (conv : Nat) (ops : List (List (Nat × Nat))) (b : Nat) : Bool :=
  ops.zipIdx.any fun o => sharesScale conv o.2 b && w.hitIn o.1

/-- Block `b` of a row is written, or undefined where an operand that concerns it changed (R127). -/
def writeBlock (t : Tile) (w : Option Watch) (conv elems tags size : Nat) (ops : List (List (Nat × Nat))) (b : Nat)
    (q : List Byte × List Byte) : Tile :=
  match w.filter fun w => concerned w conv ops b with
  | some w => undefine w.me (undefine w.me t (elems + size * b) size) (tags + 2 * b) 2
  | none => swrite (swrite t (elems + size * b) q.1) (tags + 2 * b) q.2

/-- The blocks of a row are written (R119, R127). -/
def writeBlocks (t : Tile) (watch conv elems tags size : Nat) (data : List (List Byte × List Byte))
    (ops : List (List (Nat × Nat))) : Tile :=
  data.zipIdx.foldl (fun t q => writeBlock t (watchOf t watch) conv elems tags size ops q.2 q.1) t

/-- Stage 1 on INT32 values: y = acc · S_A · S_W; a NaN scale counts as 0 and sets FORMAT (R38, R39). -/
def scaleRow (vals : List Int) (sa : Option Nat) (sw : List Nat) : List Int × Bool :=
  match sa with
  | none => (vals.map fun _ => 0, false)
  | some c =>
    ((List.range vals.length).map fun j => longProduct (vals.getD j 0) (e4m3 c) (e4m3 (sw.getD j 0)),
     e4m3Nan c || (List.range vals.length).any fun j => e4m3Nan (sw.getD j 0))

/-! ### Drains (R118 to R126) -/

/-- The places of row `r` of a drain (R163). -/
def drainPlaces (j : DrainJob) (r : Nat) : RowPlaces where
  bias := j.biasA.toNat
  resE := (j.resA + BitVec.ofNat 64 (r * dcfgRstride j.dcfg)).toNat
  resT := (j.restA + BitVec.ofNat 64 (r * dcfgTstride j.dcfg)).toNat
  elems := (j.ea + BitVec.ofNat 64 (r * dcfgRstride j.dcfg)).toNat
  tags := (j.tags + BitVec.ofNat 64 (r * dcfgTstride j.dcfg)).toNat
  flags := (j.flags + BitVec.ofNat 64 (4 * r)).toNat

/-- The first `m` lanes of a row. -/
def lanes (r : AccRow) (m : Nat) : List Int := (List.range m).map fun j => r.val.getD j 0

/-- Whether any lane of a row is flagged. -/
def rowFlagged (r : AccRow) : Bool := r.flag.any id

/-- The second pass of a row of a pipeline-mode drain has ended: the row is read and zeroed, its flags and counters are
set and its blocks are on their way (R119 to R125). -/
def drainPipeRow (t : Tile) (j : DrainJob) (r now : Nat) : Tile :=
  let row := rowOf t j.set r
  let long := (setOf t j.set).long
  let vals := lanes row (dcfgM j.dcfg)
  let ys := if long then (vals, false) else scaleRow vals row.sa (row.sw.getD [])
  let wnan := !long && row.sa.isSome && ((row.sw.getD []).take vals.length).any e4m3Nan
  putRow (pipeRow (if wnan then { t with wnan := true } else t) j.watch j.dcfg (drainPlaces j r) (sideOperands j.dcfg (drainPlaces j r) vals.length) ys.1 long
    (row.format || ys.2) row.clipped (rowFlagged row) now) j.set r AccRow.zero

/-- Lane `k` of a raw drain: its bytes at the destination, and whether an addition saturated (R126). -/
def rawLane (t : Tile) (j : DrainJob) (row : AccRow) (long : Bool) (base k : Nat) : List Byte × Bool :=
  if long then
    let own := longBytes (row.val.getD k 0) (row.flag.getD k false)
    if j.add then
      let old := sread t (base + 16 * k) 16
      (longAdd old own, decide (saturate 96 (longOf old + longOf own) ≠ longOf old + longOf own))
    else (own, false)
  else
    let old := if j.add then signed 32 (snat t (base + 4 * k) 4) else 0
    (leBytes 4 (unsigned 32 (saturate 32 (old + row.val.getD k 0))),
     decide (saturate 32 (old + row.val.getD k 0) ≠ old + row.val.getD k 0))

/-- The lanes that a raw drain of `m` lanes writes in cycle `part` of a row (R126). -/
def partLanes (m part : Nat) : List Nat := (List.range m).filter fun k => k / 8 == part

/-- Eight lanes of a row of a raw-mode drain are written and zeroed as they are read; with the last ones the row has been
written: its flags go to its step flag word, and the row is zero (R126). Until then CLIPPED keeps a saturation at the
destination. -/
def drainRawRow (t : Tile) (j : DrainJob) (r part : Nat) : Tile :=
  let row := rowOf t j.set r
  let long := (setOf t j.set).long
  let p := drainPlaces j r
  let ks := partLanes (dcfgM j.dcfg) part
  let out := ks.map (rawLane t j row long p.elems)
  let t1 := swrite t (p.elems + (if long then 128 else 32) * part) (out.flatMap fun q => q.1)
  let clipped := row.clipped || out.any fun q => q.2
  if part + 1 < ceilDiv (dcfgM j.dcfg) 8 then
    putRow t1 j.set r { row with
      val := row.val.zipIdx.map fun q => if ks.contains q.2 then 0 else q.1
      clipped := clipped }
  else
    let t2 := orFlags t1 p.flags row.format (clipped || rowFlagged row)
    let t3 := if rowFlagged row then tbump t2 (if long then TIL_SID_OVF else TIL_SID_SAT) else t2
    putRow (if row.format then tbump t3 TIL_SID_FORMAT else t3) j.set r AccRow.zero

/-- Whether an entry for the set remains in the retry queue, the recompute queue or the exact lane (R109). An entry is in the
exact lane until its contribution arrives, 13 cycles after issue (DEDUCED, notes/assumptions/93.md). -/
def entriesLeft (t : Tile) (set : Bool) : Bool :=
  t.retryQ.any (fun e => e.set == set) || t.recompQ.any (fun e => e.set == set)
    || t.due.any fun d => match d.eff with
      | .recompDone e _ _ => e.set == set
      | _ => false

/-- Tile cycles a drain takes for each row (R119, R126). -/
def drainRowCycles (j : DrainJob) : Nat :=
  if j.raw then ceilDiv (dcfgM j.dcfg) 8 else 2 * ceilDiv (dcfgM j.dcfg) 64

/-- What a drain brings about after it took effect, with the cycles from then: its rows follow one after another, in
pipeline mode each at the end of its passes, in raw mode 8 lanes a cycle (R119, R126). -/
def drainSteps (j : DrainJob) : List (Nat × Effect) :=
  (dcfgRows j.dcfg).zipIdx.flatMap fun q =>
    if j.raw then (List.range (drainRowCycles j)).map fun i => (q.2 * drainRowCycles j + i + 1, .rawRow j q.1 i)
    else [((q.2 + 1) * drainRowCycles j, .drainRow j q.1)]

/-- A drain takes effect at the end of cycle t + 6 (R118); one that meets an entry left for its set emits nothing, and
its operands are watched no longer (R109). -/
def drainEffect (t : Tile) (j : DrainJob) (now : Nat) : Tile :=
  if entriesLeft t j.set then
    sidFault { t with watches := t.watches.filter fun w => w.id != j.watch } TIL_SID_FAULT_RCLATE j.set 0 (engCode .sid) j.pc
  else (drainSteps j).foldl (fun t q => later t (now + q.1) q.2) t

/-! ### SID.EMIT (R127) -/

/-- Fields of the descriptor register (Table 6.9). -/
def emitN (d : Dword) : Nat := bitsOf d.toNat 0 15
def emitInt32 (d : Dword) : Bool := bitOf d.toNat 15
def emitSA (d : Dword) : Nat := bitsOf d.toNat 16 8
def emitWSA (d : Dword) : Nat := bitsOf d.toNat 24 19
def emitFlagA (d : Dword) : Nat := bitsOf d.toNat 43 19

/-- Where the operands of output block `b` of a SID.EMIT lie: source values, weight scale codes, bias and residual. -/
def emitOperands (j : EmitJob) (b : Nat) : List (Nat × Nat) :=
  let n := emitN j.desc
  let w := min 128 (n - 128 * b)
  let vb := if emitInt32 j.desc then 4 else 16
  (j.src + 128 * vb * b, vb * w) ::
    ((if emitInt32 j.desc then [(emitWSA j.desc + 128 * b, w)] else []) ++ sideOperands j.dcfg j.places n b)

/-- The second pass of a SID.EMIT ends (R120 to R127): one output row of N values from a buffer in tile store. -/
def emitEffect (t : Tile) (j : EmitJob) (now : Nat) : Tile :=
  let k := emitN j.desc
  let i32 := emitInt32 j.desc
  let raw := (List.range k).map fun i =>
    if i32 then signed 32 (snat t (j.src + 4 * i) 4) else longOf (sread t (j.src + 16 * i) 16)
  let ovf := !i32 && (List.range k).any fun i => longOvf (sread t (j.src + 16 * i) 16)
  let codes := (sread t (emitWSA j.desc) k).map fun b => b.toNat
  let ys := if i32 then scaleRow raw (some (emitSA j.desc)) codes else (raw, false)
  let t1 := if i32 && codes.any e4m3Nan then { t with wnan := true } else t
  pipeRow t1 j.watch j.dcfg j.places (emitOperands j) ys.1 (!i32) ys.2 false ovf now

/-! ### Watches that end (R127, R165) -/

/-- The second pass of a drain's last row ends: the blocks that a changed operand concerns are undefined, written or still
to be written, and the watch stops watching (R127). -/
def drainedEffect (t : Tile) (j : DrainJob) : Tile :=
  let n := dcfgM j.dcfg
  let size := blockBytes (ofmtWide (dcfgOfmt j.dcfg))
  let t1 := match watchOf t j.watch with
    | some w => (dcfgRows j.dcfg).foldl (fun t r =>
        let p := drainPlaces j r
        let ops := (List.range (ceilDiv n 128)).map (sideOperands j.dcfg p n)
        (List.range (ceilDiv n 128)).foldl (fun t b =>
          if concerned w (dcfgConv j.dcfg) ops b then
            undefine w.me (undefine w.me t (p.elems + size * b) size) (p.tags + 2 * b) 2
          else t) t) t
    | none => t
  { t1 with watches := t1.watches.map fun w => if w.id = j.watch then { w with on := false } else w }

/-- An instruction's watch ends: where it was hit, the instruction's results are undefined (R165). -/
def endWatch (t : Tile) (id : Nat) (results : List (Nat × Nat)) : Tile :=
  let t1 := { t with watches := t.watches.filter fun w => w.id != id }
  match watchOf t id with
  | some w => if w.hits.isEmpty then t1 else results.foldl (fun t r => undefine w.me t r.1 r.2) t1
  | none => t1

/-! ### Effects falling due -/

/-- An instruction retires and posts its token (R135, R154). -/
def retireFlight (t : Tile) (f : Flight) (now : Nat) : Tile :=
  if f.post = 0 then t
  else
    match f.tok with
    | some v => writeToken t f.post v now
    | none =>
      let pv := (gp t f.eng 17).toNat
      let m := (gp t f.eng 18).toNat
      setGp (writeToken t f.post (BitVec.ofNat 16 pv) now) f.eng 17
        (BitVec.ofNat 64 ((pv + 1) % (if m = 0 then 65536 else m)))

/-- Whether partials that reach stage 1 in cycle `now` come too late: a drain of their set issued before `now`, and either
it issued after the ARR.MVM, or the set is still DRAINING (R117, R118). -/
def comesLate (t : Tile) (j : MvmJob) (now : Nat) : Bool :=
  let d := (setOf t j.set).drainAt
  decide (0 < d) && decide (d ≤ now) && (decide (j.issued < d) || draining t j.set now)

/-- The partials of an ARR.MVM reach adder-tree stage 1: discarded, with DRAINEARLY, when they come too late for their
set's drain (R117, R118); otherwise they are added six tile cycles later (R113). -/
def reachStage1 (t : Tile) (j : MvmJob) (now : Nat) : Tile :=
  if comesLate t j now then
    sidFault t TIL_SID_FAULT_DRAINEARLY j.set j.row (engCode .arr) j.pc
  else later t (now + 6) (.rowAdd j)

/-- One effect comes about at the end of cycle `now`. -/
def applyEffect (t : Tile) (now : Nat) : Effect → Tile
  | .retire f => retireFlight t f now
  | .stage1 j => reachStage1 t j now
  | .rowAdd j => addPartials t j now
  | .retryIn e => enterRetry t e
  | .retryDone e (some delta) pc => addCorrection (checkEvent t e false) e delta (engCode .arr) pc now
  | .retryDone e none pc => passToRecompute (tbump t TIL_ARR_PASSED) e (engCode .arr) pc
  | .recompDone e delta pc => addCorrection (tbump t TIL_SID_RECOMP) e delta (engCode .sid) pc now
  | .drain j => drainEffect t j now
  | .drainRow j r => drainPipeRow t j r now
  | .rawRow j r part => drainRawRow t j r part
  | .emitRow j => emitEffect t j now
  | .blocks w conv elems tags size data ops => writeBlocks t w conv elems tags size data ops
  | .drained j => drainedEffect t j
  | .endWatch id results => endWatch t id results
  | .trims ts => { t with trims := ts }
  | .bankCheck => t
  | .bankReady b fmt tag cells scales outl f =>
    let o := bankOf t b
    let t1 := setBank t b { o with
      st := .ready, fmt := fmt, cells := placeCells (steering t) o.cells cells, mirror := cells, scales := scales, outl := outl }
    let t2 := tput t1 (if b then TIL_ARR_BANKTAG_S_TAG else TIL_ARR_BANKTAG_P_TAG) tag
    retireFlight (tbump t2 TIL_ARR_BANKWR) f now

/-- The tile with every effect due by the end of cycle `now` brought about, in the order of cycles; after each, a
bank that ceased to be busy writes its token (R136). -/
def settleTile : Nat → Nat → Tile → Tile
  | 0, _, t => t
  | fuel + 1, now, t =>
    match t.due with
    | [] => t
    | d :: rest =>
      if d.at_ ≤ now then
        settleTile fuel now (busyAt (bankTokens (applyEffect { t with due := rest } d.at_ d.eff) d.at_) d.at_)
      else t

/-- Every effect due by `now`: a pending effect, a raw drain of 16 rows of 256 lanes, brings at most 512 more. -/
def settle (now : Nat) (t : Tile) : Tile := settleTile (513 * t.due.length + 1) now t

/-- The tile as an instruction that issues in cycle `now` finds it: what comes about at the end of that cycle has not
yet come about (R135, R141, R145). -/
def settleBefore (now : Nat) (t : Tile) : Tile := settle (now - 1) t

end Sys2Proof.Machine
end

