-- ==== Sys2Proof/Machine/Operands.lean ====
section
/-!
DEFINITION. Instruction words and operands (R150 to R156): the fields of the four formats, the opcode tables'
rows (formats, class, fields used), the checks that depend on the word alone (R134, R135, R151, R152, Table 6.4),
effective addresses and effective slots.
-/

namespace Sys2Proof.Machine

/-! ### Fields (Table 6.1, Table 6.2) -/

/-- Bits [lo + w − 1 : lo] of the word's bits [55:0]. -/
def encBits (n : Enc) (lo w : Nat) : Nat := bitsOf n.body.toNat lo w

def encWQ (n : Enc) : Nat := encBits n 51 5
def encPQ (n : Enc) : Nat := encBits n 46 5
def encA (n : Enc) : Nat := encBits n 42 4
def encB (n : Enc) : Nat := encBits n 38 4
def encC (n : Enc) : Nat := encBits n 34 4
def encD (n : Enc) : Nat := encBits n 30 4
/-- Bit `i` (24 to 29) of the X field. -/
def encX (n : Enc) (i : Nat) : Bool := bitOf n.body.toNat i
def encXs (n : Enc) : Nat := encBits n 24 6
def encSlot (n : Enc) : Nat := encBits n 0 24
/-- EXT, a signed 24-bit byte offset; 0 in F0. -/
def encExt (n : Enc) : Int := if n.fmt = 1 then signed 24 (encBits n 0 24) else 0
def encReg (n : Enc) : Nat := encBits n 50 6
def encImm (n : Enc) : Nat := encBits n 0 48
def encTarget (n : Enc) : BitVec 9 := BitVec.ofNat 9 (encBits n 47 9)
def encLci (n : Enc) : Nat := encBits n 45 2
def encStride (n : Enc) : Nat := encBits n 24 21

/-- The 64-bit word of an instruction (Table 6.1). -/
def wordOf (op : Nat) (n : Enc) : Dword :=
  BitVec.ofNat 64 (n.fmt.toNat * 2 ^ 62 + op % 64 * 2 ^ 56 + n.body.toNat)

/-- The opcode, bits [61:56], of a word. -/
def wordOp (w : Dword) : Nat := bitsOf w.toNat 56 6

/-- The format and the bits [55:0] of a word. -/
def wordEnc (w : Dword) : Enc := ⟨BitVec.ofNat 2 (bitsOf w.toNat 62 2), BitVec.ofNat 56 (bitsOf w.toNat 0 56)⟩

/-! ### Opcode tables (Tables 6.4 to 6.7, 6.10, 6.12) -/

/-- One row of an opcode table: class of Table 5.3, the formats permitted (bit i for Fi), whether fields A, B, C
and D are used, the X bits used (bit i for X[24 + i]), and which operand is marked † (0 none, 1 A, 2 B). -/
structure OpRow where
  cls   : Nat
  fmts  : Nat
  useA  : Bool
  useB  : Bool
  useC  : Bool
  useD  : Bool
  xs    : Nat
  dag   : Nat
deriving DecidableEq, Repr

/-- An F0 or F1 row. -/
def rowF01 (cls : Nat) (a b c d : Bool) (xs dag : Nat) : OpRow := ⟨cls, 3, a, b, c, d, xs, dag⟩

/-- The control class of an engine (R157, Table 5.3). -/
def controlClass : Engine → Nat
  | .fet => 0
  | .arr => 4
  | .sid => 5
  | .plt => 7
  | .sig => 8

/-- Common control instructions (Table 6.4). -/
def controlRow (e : Engine) (op : Nat) : Option OpRow :=
  match op with
  | 0 => some (rowF01 (controlClass e) false false false false 0 0)
  | 1 => some ⟨controlClass e, 4, false, false, false, false, 0, 0⟩
  | 2 => some ⟨controlClass e, 4, false, false, false, false, 0, 0⟩
  | 3 => some ⟨controlClass e, 2, true, true, true, false, 0, 3⟩
  | 4 => some ⟨controlClass e, 8, false, false, false, false, 0, 0⟩
  | 5 => some ⟨controlClass e, 8, false, false, false, false, 0, 0⟩
  | 6 => some ⟨controlClass e, 2, false, false, false, false, 0, 0⟩
  | 7 => some ⟨controlClass e, 2, false, false, false, false, 0, 0⟩
  | _ => none

/-- The row of an opcode in an engine's table, or none where the table does not list it. X[29] is TKA in the
opcodes that form an address from their operand marked † (Table 6.2, R155); in the others it is unused. -/
def opRow (e : Engine) (op : Nat) : Option OpRow :=
  if op < 8 then controlRow e op
  else match e, op with
    | .fet, 0x08 => some (rowF01 1 true true true false 32 2)
    | .fet, 0x09 => some (rowF01 1 true true true true 32 2)
    | .fet, 0x0A => some (rowF01 1 true true true false 32 2)
    | .fet, 0x0B => some (rowF01 1 false true true false 32 2)
    | .fet, 0x0C => some (rowF01 2 true false true false 33 1)
    | .arr, 0x08 => some (rowF01 3 true true true true 60 1)
    | .arr, 0x09 => some (rowF01 3 false false false false 0 0)
    | .arr, 0x0A => some (rowF01 4 false false false false 1 0)
    | .arr, 0x0B => some (rowF01 4 false false false false 1 0)
    | .sid, 0x08 => some (rowF01 5 false false false false 3 0)
    | .sid, 0x09 => some (rowF01 5 false false false false 0 0)
    | .sid, 0x0A => some (rowF01 6 true true true false 63 1)
    | .sid, 0x0B => some (rowF01 6 true true true true 35 1)
    | .plt, n =>
      if n = 0x0A ∨ n = 0x0C ∨ n = 0x0D then some (rowF01 7 true true false true 32 1)
      else if n ≤ 0x14 then some (rowF01 7 true true true true 32 1)
      else none
    | .sig, 0x08 => some (rowF01 8 true true true false 56 2)
    | .sig, 0x09 => some (rowF01 8 true true true false 56 2)
    | .sig, 0x0A => some (rowF01 8 true true true false 56 2)
    | .sig, 0x0B => some (rowF01 8 true true true false 56 2)
    | .sig, 0x0C => some (rowF01 8 true true true false 56 2)
    | .sig, 0x0D => some (rowF01 8 true true false false 56 2)
    | .sig, 0x0E => some (rowF01 8 false true true true 56 2)
    | .sig, 0x0F => some (rowF01 8 true false true false 24 0)
    | .sig, 0x10 => some (rowF01 8 false true true false 28 0)
    | .sig, 0x11 => some (rowF01 8 true true false false 32 1)
    | .sig, 0x12 => some (rowF01 8 true false true false 32 1)
    | _, _ => none

/-! ### Legality of a word (R134, R135, R136, R150 to R152, Table 6.4) -/

/-- The queue waited on: one whose consumer is the engine; a bank-free queue only by FET.BANKW of its bank. -/
def waitLegal (e : Engine) (op : Nat) (n : Enc) : Bool :=
  encWQ n == 0 ||
    (match queueEnds (encWQ n) with
      | some (_, c) => c == engCode e
      | none => false) &&
    (if encWQ n = 25 ∨ encWQ n = 26 then
      e == .fet && op == 0x0C && encWQ n == 25 + bit (encX n 24) else true)

/-- The queue posted to: one whose producer is the engine, never a bank-free queue. -/
def postLegal (e : Engine) (n : Enc) : Bool :=
  encPQ n == 0 ||
    (match queueEnds (encPQ n) with
      | some (p, _) => p == engCode e
      | none => false) && encPQ n != 25 && encPQ n != 26

/-- Unused fields of an F0 or F1 word are 0 (R150, R151). -/
def coreLegal (r : OpRow) (n : Enc) : Bool :=
  (r.useA || encA n == 0) && (r.useB || encB n == 0) && (r.useC || encC n == 0) && (r.useD || encD n == 0) &&
    (encXs n &&& r.xs) == encXs n && (n.fmt == 0 || r.dag != 0 || encBits n 0 24 == 0)

/-- An F2 word (Table 6.4: SETR, SETRH). -/
def setrLegal (e : Engine) (op : Nat) (n : Enc) : Bool :=
  encBits n 48 2 == 0 &&
    match regWidth e (encReg n) with
    | none => false
    | some w =>
      if op = 1 then encReg n != 0 && encReg n != 16 && (48 ≤ w || encImm n < 2 ^ w)
      else w == 64 && encReg n != 0 && encBits n 16 32 == 0

/-- Whether the word is legal by its own bits. -/
def wordLegal (e : Engine) (op : Nat) (n : Enc) : Bool :=
  match opRow e op with
  | none => false
  | some r =>
    bitOf r.fmts n.fmt.toNat &&
      if n.fmt = 2 then setrLegal e op n
      else if n.fmt = 3 then
        encBits n 0 24 == 0 && (op != 4 || (encLci n == 0 && encStride n == 0))
      else
        coreLegal r n && waitLegal e op n && postLegal e n &&
          (op != 3 || encA n != 0)

/-! ### Operands (R155, R156) -/

/-- The effective address of the operand marked † in register field `field` (R155), with the engine's TK as it
stands. -/
def effAddr (t : Tile) (e : Engine) (n : Enc) (field : Nat) : Dword :=
  gp t e field + (if encX n 29 then gp t e 16 * gp t e 19 else 0) + BitVec.ofInt 64 (encExt n)

/-- The effective slot, SLOT + SB (R156). -/
def effSlot (t : Tile) (e : Engine) (n : Enc) : Nat := encSlot n + (gp t e 20).toNat

/-- A span of tile store that an instruction touches: address, bytes, alignment. -/
structure Span where
  addr  : Dword
  bytes : Nat
  align : Nat
deriving DecidableEq, Repr

/-- What the checks of R178 find in an instruction's operands: ILLEGAL when a limit is broken or a span is
misaligned, then ADDR when a span leaves what an engine may touch (R138). -/
def spansFault (limits : Bool) (l : List Span) : Option Cause :=
  if !limits || l.any (fun p => p.addr.toNat % p.align != 0) then some .illegal
  else if l.any (fun p => !storeLegal p.addr p.bytes) then some .addr
  else none

end Sys2Proof.Machine
end

