-- ==== Sys2Proof/Machine/Issue.lean ====
section
/-!
DEFINITION. Issue (R131 to R135, R144, R154, R156, R178, R482): what happens when an engine reaches an
instruction. The instruction issues, faults, or leaves its engine waiting with its program counter unchanged.
-/

namespace Sys2Proof.Machine

/-- What an opcode's own hardware says of an instruction before issue: it needs no resource that is busy, a
resource is free from a known cycle on, it waits for a queue, tag or lane, or it waits at a waypoint (R132, R144,
R171, R174). -/
inductive Ready
  | free
  | from_ (cycle : Nat)
  | busy
  | waypoint
deriving DecidableEq, Repr

/-- What an opcode does: its operand checks (R178), its resources, and its effect once issued, which takes the
flight record and schedules its own retirement. -/
structure OpUnit where
  check : Tile → Option Cause
  ready : Ctx → Tile → Ready
  run   : Ctx → Tile → Flight → Tile × List Packet

/-- Whether the engine executes at all: RUN is 1, the engine is started, no fault has stopped the tile, the tile
is neither fenced nor in reset, and its clock runs (R145, R146, R482). -/
def engineRuns (t : Tile) (e : Engine) : Bool :=
  decide (tget t TIL_CTL_RUN = 1) && (engOf t e).on && !t.stopped && decide (tget t TIL_CTL_FENCE = 0)
    && t.clkOn && !t.inReset && !t.wrapped

/-- The word in the ring of the engine at its program counter (R131, Table 5.2). -/
def ringWord (t : Tile) (e : Engine) : Dword :=
  BitVec.ofNat 64 (leVal (sread t (ringPlace (engCode e) (pcOf t e)) 8))

/-- The engine's next instruction: the one it is known to hold, or the word its ring holds (R131). -/
def nextWord (t : Tile) (e : Engine) : Dword := (engOf t e).held.getD (ringWord t e)

/-- Whether the engine can hold `w` as its next instruction: the word it is known to hold, or else the one its ring holds,
or one that the ring held when the engine may have prefetched it (R131, notes/assumptions/8.md). -/
def holdsWord (t : Tile) (e : Engine) (w : Dword) : Bool :=
  match (engOf t e).held with
  | some h => h == w
  | none => ringWord t e == w || t.stale.contains (engCode e, pcOf t e, w)

/-- The tile without the overwritten ring words that its engine `e` can no longer have prefetched (R131). -/
def dropStale (t : Tile) (e : Engine) : Tile :=
  { t with stale := t.stale.filter fun x => x.1 != engCode e || (ringWindow t (engCode e)).contains x.2.1 }

/-- The engine waits from cycle `now`, its program counter unchanged, and holds its instruction `w` (R131): state 2 on a
queue or resource, 3 at a waypoint (Table 5.7); R144 and R351 count from the first such cycle. -/
def waitAt (t : Tile) (e : Engine) (w : Dword) (now : Nat) (waypoint : Bool) : Tile :=
  let g := engOf t e
  setEng t e { g with
    st := if waypoint then 3 else 2
    since := if waypoint then none else match g.since with
      | some c => some c
      | none => some now
    wpSince := if waypoint then some (g.wpSince.getD now) else none
    held := some w }

/-- The instruction issues in cycle `c.now`: the wait pops its token, which becomes TK (R154), the post reserves a
place, the program counter steps (R131), and the opcode's effect follows. Operands formed from the new TK are
checked again (R178). -/
def issueNow (c : Ctx) (t : Tile) (e : Engine) (cls : Nat) (n : Enc) (u : OpUnit) : Tile × List Packet :=
  let pc := pcOf t e
  let f01 := decide (n.fmt.toNat < 2)
  let wq := if f01 then encWQ n else 0
  let pq := if f01 then encPQ n else 0
  let tok := if wq = 0 then none else tokenAt t wq c.now
  let t1 := match tok with
    | some v => setGp (popToken t wq c.now) e 16 (v.setWidth 64)
    | none => t
  let t2 := if pq = 0 then t1 else reservePlace t1 pq
  let t3 := setEng t2 e { engOf t2 e with st := 1, since := none, nextIssue := c.now + 1, nextw := none, wpSince := none, held := none }
  let t4 := busyAt (dropStale (setPc t3 e (pc + 1)) e) c.now
  match u.check t4 with
  | some cause => (tileFault t4 cause (engCode e) pc, [])
  | none => u.run c t4 ⟨e, pc, cls, c.now, pq, tok⟩

/-- A slotted instruction at its effective slot (R133): it issues there, or the tile faults. -/
def issueSlotted (c : Ctx) (t : Tile) (e : Engine) (cls : Nat) (n : Enc) (u : OpUnit) : Tile × List Packet :=
  let pc := pcOf t e
  if !engineRuns t e then (t, [])
  else if encWQ n ≠ 0 ∧ tokenAt t (encWQ n) c.now = none then (tileFault t .toklate (engCode e) pc, [])
  else if encPQ n ≠ 0 ∧ !queueRoom t (encPQ n) c.now then (tileFault t .tokfull (engCode e) pc, [])
  else if c.now < (engOf t e).nextIssue then (tileFault t .slotlate (engCode e) pc, [])
  else match u.ready c t with
    | .free => issueNow c t e cls n u
    | .from_ k => if k ≤ c.now then issueNow c t e cls n u else (tileFault t .slotlate (engCode e) pc, [])
    | .busy => (tileFault t .slotlate (engCode e) pc, [])
    | .waypoint => (tileFault t .slotlate (engCode e) pc, [])

/-- Whether the unslotted instruction's queues let it issue in cycle `now` (R132). -/
def queuesReady (t : Tile) (n : Enc) (now : Nat) : Bool :=
  decide (2 ≤ n.fmt.toNat) ||
    (decide (encWQ n = 0) || (tokenAt t (encWQ n) now).isSome) && (decide (encPQ n = 0) || queueRoom t (encPQ n) now)

/-- An unslotted instruction `w`: it issues, or its engine waits, and has held it since cycle `since` (R132, R144). -/
def issueFree (c : Ctx) (t : Tile) (e : Engine) (cls : Nat) (n : Enc) (u : OpUnit) (w : Dword) (since : Nat) :
    Tile × List Packet :=
  if !engineRuns t e then (t, [])
  else if !queuesReady t n c.now then (waitAt t e w since false, [])
  else match u.ready c t with
    | .free => issueNow c t e cls n u
    | .from_ k => if k ≤ c.now then issueNow c t e cls n u else (waitAt t e w since false, [])
    | .busy => (waitAt t e w since false, [])
    | .waypoint => (waitAt t e w c.now true, [])

/-- The first cycle of phase 1 from `k` on (R72): tile cycles of a watch count from its restart. -/
def phase1From (slot0 k : Nat) : Nat := k + (4 - (k + 2 * slot0) % 3) % 3

/-- The first tile cycle, from `c.now` on, in which an unslotted instruction could issue as far as its engine's one
issue per cycle, the phase rule and resources of known times go (R72, R132). -/
def earliest (c : Ctx) (t : Tile) (e : Engine) (phased : Bool) (u : OpUnit) : Nat :=
  let a := max c.now (engOf t e).nextIssue
  let b := match u.ready { c with now := a } t with
    | .from_ k => max a k
    | _ => a
  if phased then phase1From c.slot0 b else b

/-- What happens when engine `e` reaches the instruction with opcode `op` in cycle `c.now`: nothing where the engine
cannot hold that instruction (R131), else the checks of R178, then issue. `phased`: ARR.MVM and ARR.RETRY issue only in phase 1 (R72). Answers the tile, the packets it sends,
and the cycle at which the outcome stands. -/
def reach (c : Ctx) (t0 : Tile) (e : Engine) (op : Nat) (n : Enc) (phased : Bool) (u : OpUnit) :
    Tile × List Packet × Nat :=
  let t := settleBefore c.now t0
  if !engineRuns t e || !holdsWord t e (wordOf op n) then (t, [], c.now)
  else
    let pc := pcOf t e
    let cls := match opRow e op with
      | some r => r.cls
      | none => 0
    if !wordLegal e op n then (tileFault t .illegal (engCode e) pc, [], c.now)
    else match u.check t with
      | some cause => (tileFault t cause (engCode e) pc, [], c.now)
      | none =>
        if n.fmt = 0 then
          let slot := effSlot t e n
          if c.len ≤ slot || (phased && slot % 3 != 1) then (tileFault t .illegal (engCode e) pc, [], c.now)
          else if c.slot0 + slot < c.now then (tileFault t .slotlate (engCode e) pc, [], c.now)
          else
            let k := c.slot0 + slot
            let r := issueSlotted { c with now := k } (settleBefore k t) e cls n u
            (bankTokens r.1 k, r.2, k)
        else
          let k := earliest c t e phased u
          let r := issueFree { c with now := k } (settleBefore k t) e cls n u (wordOf op n) (max c.now (engOf t e).nextIssue)
          (bankTokens r.1 k, r.2, k)

/-- Engines in the order of their codes. -/
def engineList : List Engine := [.fet, .arr, .sid, .plt, .sig]

/-- The tile cycle of the static slot at which a started engine waits, if its next instruction carries one and RUN
is 1 (R132, R156); a gated tile's slots count from the restart at which its clock stopped or RUN was set (R148). -/
def slotAt (slot0 : Nat) (t : Tile) (e : Engine) : Option Nat :=
  if tget t TIL_CTL_RUN = 1 && (engOf t e).on && (wordEnc (nextWord t e)).fmt == 0 then
    some ((if t.clkOn then slot0 else t.gate0) + effSlot t e (wordEnc (nextWord t e)))
  else none

/-- A flight retires `n` cycles after issue (Table 5.3). -/
def retireIn (t : Tile) (f : Flight) (n : Nat) : Tile := later t (f.issued + n) (.retire f)

end Sys2Proof.Machine
end

