-- ==== Sys2Proof/Machine/ControlOps.lean ====
section
/-!
DEFINITION. The common control instructions (R157, R158, Table 6.4) of every engine: each retires one tile cycle
after issue.
-/

namespace Sys2Proof.Machine

/-- A control instruction: no operand limits beyond its word, no resource, and `f` as its effect on the tile. -/
def controlUnit (f : Tile → Tile) : OpUnit where
  check := fun _ => none
  ready := fun _ _ => .free
  run := fun _ t fl => (retireIn (f t) fl 1, [])

/-- e.NOP: no work. -/
def nopUnit : OpUnit := controlUnit id

/-- e.SETR: REG := IMM, zero-extended. -/
def setrUnit (e : Engine) (n : Enc) : OpUnit :=
  controlUnit fun t => setGp t e (encReg n) (BitVec.ofNat 64 (encImm n))

/-- e.SETRH: GP[REG][63:48] := IMM[15:0]. -/
def setrhUnit (e : Engine) (n : Enc) : OpUnit :=
  controlUnit fun t =>
    setGp t e (encReg n) (BitVec.ofNat 64 ((gp t e (encReg n)).toNat % 2 ^ 48 + encImm n % 65536 * 2 ^ 48))

/-- e.ADDR: GP[A] := GP[B] + GP[C] + EXT, modulo 2^64. -/
def addrUnit (e : Engine) (n : Enc) : OpUnit :=
  controlUnit fun t => setGp t e (encA n) (gp t e (encB n) + gp t e (encC n) + BitVec.ofInt 64 (encExt n))

/-- e.JUMP: the next instruction is at ring index TARGET. -/
def jumpUnit (e : Engine) (n : Enc) : OpUnit := controlUnit fun t => setPc t e (encTarget n)

/-- e.LOOP (Table 6.4): SB := SB + STRIDE; then, if LC[LCI] > 1, it counts down and the next instruction is at
TARGET; otherwise LC[LCI] := 0 and execution falls through. -/
def loopTile (e : Engine) (n : Enc) (t : Tile) : Tile :=
  let t1 := setGp t e 20 (gp t e 20 + BitVec.ofNat 64 (encStride n))
  let lc := 24 + encLci n
  if 1 < (gp t1 e lc).toNat then setPc (setGp t1 e lc (gp t1 e lc - 1)) e (encTarget n)
  else setGp t1 e lc 0

def loopUnit (e : Engine) (n : Enc) : OpUnit := controlUnit (loopTile e n)

/-- e.NEXTW issues at the first tile cycle of the watch after the one in which its engine reached it, and sets
SB := 0 there (R157, R158). -/
def nextwUnit (e : Engine) : OpUnit where
  check := fun _ => none
  ready := fun c t => match (engOf t e).nextw with
    | some s0 => if s0 = c.slot0 then .waypoint else .from_ c.slot0
    | none => .waypoint
  run := fun _ t fl => (retireIn (setGp t e 20 0) fl 1, [])

/-- The tile with the watch marked in which engine `e` first reached its e.NEXTW, the word with the fields `n`. -/
def markNextw (slot0 : Nat) (e : Engine) (n : Enc) (t : Tile) : Tile :=
  if engineRuns t e && holdsWord t e (wordOf 6 n) && (engOf t e).nextw.isNone then setEng t e { engOf t e with nextw := some slot0, held := some (wordOf 6 n) } else t

/-- e.HALT: the engine stops and is idle until its TIL_ENG_PC is written and RUN set (R157, R482). -/
def haltUnit (e : Engine) : OpUnit :=
  controlUnit fun t => setEng t e { engOf t e with on := false, pcWritten := false, st := 0 }

end Sys2Proof.Machine
end

