-- ==== Sys2Proof/Machine/FetchOps.lean ====
section
/-!
DEFINITION. The Fetch engine's instructions (R159, Table 6.5), the transactions they are split into, the tile's
remote-operation tags (R159, R168, R329), and bank writes (R80 to R87).
-/

namespace Sys2Proof.Machine

/-! ### Tags -/

/-- Whether a tag of the tile is in use. -/
def tagUsed (t : Tile) (k : Nat) : Bool :=
  t.fetches.any (fun o => o.flying.any fun q => q.1.toNat == k) || t.sigs.any fun o => o.tag.toNat == k

/-- The lowest free tag of `lo` to `hi − 1`. Fetch has 8 of the tile's 32 tags, Signal 24 (R159, R168); the
manual does not number them (notes/assumptions/12.md). -/
def freeTag (t : Tile) (lo hi : Nat) : Option Nat := (List.range (hi - lo)).map (lo + ·) |>.find? fun k => !tagUsed t k

def fetTag (t : Tile) : Option Nat := freeTag t 0 8
def sigTag (t : Tile) : Option Nat := freeTag t 8 32

/-- TURN of a tag (R329). -/
def turnOf (t : Tile) (k : Nat) : Nat := mapGet (fun _ => 0) t.turns k

/-- The tile after tag `k` is allocated once more: TURN counts allocations modulo 16. -/
def takeTurn (t : Tile) (k : Nat) : Tile := { t with turns := mapSet (fun _ => 0) t.turns k ((turnOf t k + 1) % 16) }

/-! ### Transactions (R159) -/

/-- A transfer split into transactions of at most 4 KiB, aligned to 4 KiB in the source. -/
def splitTx : Nat → Dword → Nat → Nat → List Tx
  | 0, _, _, _ => []
  | fuel + 1, src, dst, len =>
    if len = 0 then []
    else
      let n := min len (4096 - src.toNat % 4096)
      ⟨src, dst, n⟩ :: splitTx fuel (src + BitVec.ofNat 64 n) (dst + n) (len - n)

/-- A GET packet of this tile. -/
def getPacket (c : Ctx) (dest : Dword) (tag turn len : Nat) : Packet :=
  ⟨.get, dest, .tile c.module c.me, BitVec.ofNat 5 tag, BitVec.ofNat 4 turn, len, [], .ok, false, [], false, none, false⟩

/-- The first fetch with a transaction that waits for a tag requests it, if a Fetch tag is free. -/
def pumpOps (c : Ctx) (k : Nat) : List FetchOp → List FetchOp × Option (Tx)
  | [] => ([], none)
  | o :: r =>
    match o.todo with
    | x :: xs => ({ o with todo := xs, flying := o.flying ++ [(BitVec.ofNat 5 k, x)] } :: r, some x)
    | [] =>
      let q := pumpOps c k r
      (o :: q.1, q.2)

/-- Requests as many waiting transactions, oldest first, as there are free Fetch tags (at most `fuel`). -/
def pump (c : Ctx) : Nat → Tile → List Packet → Tile × List Packet
  | 0, t, ps => (t, ps)
  | fuel + 1, t, ps =>
    match fetTag t with
    | none => (t, ps)
    | some k =>
      match pumpOps c k t.fetches with
      | (_, none) => (t, ps)
      | (ops, some x) =>
        let t1 := takeTurn { t with fetches := ops } k
        pump c fuel t1 (ps ++ [getPacket c x.src k (turnOf t1 k) x.len])

/-- A Fetch instruction that needs a tag waits before issue when none is free (R159). -/
def fetReady (_ : Ctx) (t : Tile) : Ready := if (fetTag t).isSome then .free else .busy

/-- Starts a transfer's transactions. -/
def startFetch (c : Ctx) (t : Tile) (f : Flight) (src : Dword) (txs : List Tx) (bank : Option Bool) (beats : Nat) :
    Tile × List Packet :=
  pump c 8 { t with fetches := t.fetches ++ [⟨f, src, txs, [], bank, beats, [], false⟩] } []

/-! ### Loads, copies and zeroing -/

/-- A length of 32 to 65,536 bytes, a multiple of 32 (Table 6.5). -/
def lenLegal (n : Nat) : Bool := decide (32 ≤ n) && decide (n ≤ 65536) && decide (n % 32 = 0)

/-- GP[C][16:0]. -/
def fetLen (t : Tile) (n : Enc) : Nat := bitsOf (gp t .fet (encC n)).toNat 0 17

/-- FET.LOAD. -/
def loadUnit (n : Enc) : OpUnit where
  check := fun t => spansFault (lenLegal (fetLen t n) && decide ((gp t .fet (encA n)).toNat % 32 = 0))
    [⟨effAddr t .fet n (encB n), fetLen t n, 32⟩]
  ready := fetReady
  run := fun c t f =>
    startFetch c t f (gp t .fet (encA n)) (splitTx 20 (gp t .fet (encA n)) (effAddr t .fet n (encB n)).toNat (fetLen t n)) none 0

/-- The rows of FET.LOADS: source, destination and length of each (Table 6.5). -/
def loadsRows (t : Tile) (n : Enc) : List (Dword × Dword × Nat) :=
  let cc := (gp t .fet (encC n)).toNat
  let d := (gp t .fet (encD n)).toNat
  (List.range (bitsOf cc 17 11 + 1)).map fun r =>
    (gp t .fet (encA n) + BitVec.ofNat 64 (r * bitsOf d 0 32),
     effAddr t .fet n (encB n) + BitVec.ofNat 64 (r * bitsOf d 32 19), fetLen t n)

/-- FET.LOADS. -/
def loadsUnit (n : Enc) : OpUnit where
  check := fun t =>
    let d := (gp t .fet (encD n)).toNat
    spansFault (lenLegal (fetLen t n) && decide ((gp t .fet (encA n)).toNat % 32 = 0)
        && decide (bitsOf d 0 32 % 32 = 0) && decide (bitsOf d 32 19 % 32 = 0))
      ((loadsRows t n).map fun r => ⟨r.2.1, r.2.2, 32⟩)
  ready := fetReady
  run := fun c t f =>
    startFetch c t f (gp t .fet (encA n)) ((loadsRows t n).flatMap fun r => splitTx 20 r.1 r.2.1.toNat r.2.2) none 0

/-- How long a copy or zero of `len` bytes takes: its local-port grants are not fixed by the manual (R140). -/
def copyTime (c : Ctx) (t : Tile) (len : Nat) : Nat := len / 32 + 1 + storeWaits c t

/-- FET.COPY. Overlapping ranges are illegal. -/
def copyUnit (n : Enc) : OpUnit where
  check := fun t =>
    let src := gp t .fet (encA n)
    let dst := effAddr t .fet n (encB n)
    let len := fetLen t n
    spansFault (lenLegal len && (decide (src.toNat + len ≤ dst.toNat) || decide (dst.toNat + len ≤ src.toNat)))
      [⟨src, len, 32⟩, ⟨dst, len, 32⟩]
  ready := fun _ _ => .free
  run := fun c t f =>
    let len := fetLen t n
    let t1 := swrite t (effAddr t .fet n (encB n)).toNat (sread t (gp t .fet (encA n)).toNat len)
    (retireIn (waited c t1) f (copyTime c t1 len), [])

/-- FET.ZERO. -/
def zeroUnit (n : Enc) : OpUnit where
  check := fun t => spansFault (lenLegal (fetLen t n)) [⟨effAddr t .fet n (encB n), fetLen t n, 32⟩]
  ready := fun _ _ => .free
  run := fun c t f =>
    let len := fetLen t n
    let t1 := swrite t (effAddr t .fet n (encB n)).toNat (List.replicate len 0)
    (retireIn (waited c t1) f (copyTime c t1 len), [])

/-! ### Bank writes -/

/-- GP[C][10:0]: beats. -/
def bankwBeats (t : Tile) (n : Enc) : Nat := bitsOf (gp t .fet (encC n)).toNat 0 11

/-- FET.BANKW (R84 to R87): a busy bank, or one in WRITING, is not written and raises BANKBUSY; otherwise the bank
is in WRITING and its stream is fetched. -/
def bankwUnit (n : Enc) : OpUnit where
  check := fun t => spansFault (decide (bankwBeats t n ≠ 0) && decide ((effAddr t .fet n (encA n)).toNat % 32 = 0)) []
  ready := fetReady
  run := fun c t f =>
    let b := encX n 24
    if bankBusy t b c.now || decide ((bankOf t b).st = .writing) then
      (arrFault t TIL_ARR_FAULT_BANKBUSY b (engCode .fet) f.pc, [])
    else
      startFetch c (setBank t b { bankOf t b with st := .writing, fmt := 0 }) f
        (effAddr t .fet n (encA n)) (splitTx 20 (effAddr t .fet n (encA n)) 0 (32 * bankwBeats t n)) (some b) (bankwBeats t n)

/-- The stream of a bank write: the bytes received in order of their place. -/
def bankStream (o : FetchOp) : List Byte := (sortBy (fun a b => decide (a.1 ≤ b.1)) o.got).flatMap fun g => g.2

/-- Whether the header beat was received: without it no FMT, count or CHECK is known, and only WRSRC applies
(notes/assumptions/13.md). -/
def gotHeader (o : FetchOp) : Bool := o.got.any fun g => g.1 == 0

/-- A bank write ends with its last transaction (R84): the bank is READY two cycles after its last beat, which the
write port takes at one beat a cycle at most; or the bank is INVALID and the tile raises a schedule fault. -/
def finishBankWrite (t : Tile) (o : FetchOp) (b : Bool) (now : Nat) : Tile :=
  let stream := bankStream o
  let l := loadBank stream (stream.length / 32)
  let t0 := { t with fetches := t.fetches.erase o }
  if l.wrfmt || l.wrcrc || o.failed then
    let t1 := setBank t0 b { Bank.reset with busyUntil := (bankOf t b).busyUntil, wasBusy := (bankOf t b).wasBusy }
    let t2 := if l.wrfmt && gotHeader o then tput t1 TIL_ARR_FAULT_WRFMT 1 else t1
    let t3 := if l.wrcrc && gotHeader o then tput t2 TIL_ARR_FAULT_WRCRC 1 else t2
    let t4 := if o.failed then tput t3 TIL_ARR_FAULT_WRSRC 1 else t3
    let t5 := tileFault (tput t4 TIL_ARR_FAULT_BANK (bit b)) .array (engCode .fet) o.flight.pc
    if tget t TIL_FAULT_VALID = 0 ∧ l.wrcrc ∧ gotHeader o then { t5 with crcAt := some o.src } else t5
  else
    later t0 (max now (o.flight.issued + o.beats) + 2) (.bankReady b l.fmt l.tag l.cells l.scales l.outl o.flight)

/-- The fetch whose transaction holds tag `k`. -/
def fetchOf (t : Tile) (k : BitVec 5) : Option FetchOp := t.fetches.find? fun o => o.flying.any fun q => q.1 == k

/-- A transaction completes (R84, R159, R170): its data is written, or not when the status is not OK; its tag is
free; and the instruction retires with its last transaction. -/
def completeFetch (c : Ctx) (t : Tile) (o : FetchOp) (k : BitVec 5) (st : Status) (data : List Byte) :
    Tile × List Packet :=
  match o.flying.find? (fun q => q.1 == k) with
  | none => (t, [])
  | some q =>
    let ok := decide (st = .ok)
    let o1 := { o with
      flying := o.flying.erase q
      got := if ok && o.bankw.isSome then o.got ++ [(q.2.dst, data.take q.2.len)] else o.got
      failed := o.failed || !ok }
    let t1 := if ok && o.bankw.isNone then swrite t q.2.dst (data.take q.2.len) else t
    let t2 := busyAt { t1 with fetches := t1.fetches.map fun x => if x = o then o1 else x } c.now
    let t3 := if o1.todo.isEmpty && o1.flying.isEmpty then
        match o.bankw with
        | some b => finishBankWrite t2 o1 b c.now
        | none => retireFlight { t2 with fetches := t2.fetches.erase o1 } o1.flight c.now
      else t2
    pump c 8 t3 []

end Sys2Proof.Machine
end

