-- ==== Sys2Proof/Machine/ArrayUnits.lean ====
section
/-!
DEFINITION. The Array engine's instructions (R67 to R79, R86 to R89, R96, R160, R161, Table 6.6).
-/

namespace Sys2Proof.Machine

/-! ### Operands of ARR.MVM (R161) -/

/-- Bits of an element: X[28] is W (0 A8, 1 A4). -/
def mvmWide (n : Enc) : Bool := !encX n 28

/-- Planes of the input width. -/
def mvmPlanes (n : Enc) : Nat := if mvmWide n then 8 else 4

/-- The selected segments, in order (D). -/
def mvmSegs (n : Enc) : List Nat := (List.range 4).filter fun s => bitOf (encD n) s

/-- Element address of segment `s`: an SSTRIDE of 0 means the block size. -/
def mvmElemAddr (t : Tile) (n : Enc) (s : Nat) : Dword :=
  let st := gp t .arr 32
  effAddr t .arr n (encA n) +
    BitVec.ofNat 64 s * (if st = 0 then BitVec.ofNat 64 (blockBytes (mvmWide n)) else st)

/-- Tag address of segment `s`: a TSTRIDE of 0 means 2. -/
def mvmTagAddr (t : Tile) (n : Enc) (s : Nat) : Dword :=
  let st := gp t .arr 33
  gp t .arr (encB n) + (if encX n 29 then 8 * gp t .arr 16 else 0) +
    BitVec.ofNat 64 s * (if st = 0 then 2 else st)

/-- One selected segment as the input register receives it (R37, R38, R68). -/
def readSeg (t : Tile) (n : Enc) (s : Nat) : SegIn :=
  let code := snat t (mvmTagAddr t n s).toNat 1
  let bs := sread t (mvmElemAddr t n s).toNat (blockBytes (mvmWide n))
  { seg := s
    vals := if zeroScale code then List.replicate 128 0
      else (List.range 128).map (elementOf (mvmWide n) bs)
    code := code
    nan := e4m3Nan code }

/-- The bank that is ACTIVE, if any (R86). -/
def activeBank (t : Tile) : Option Bool :=
  if t.port.st = .active then some false else if t.stbd.st = .active then some true else none

/-- After reading, ADV moves the element and tag addresses on (R161). -/
def advance (t : Tile) (n : Enc) : Tile :=
  if encX n 26 then
    let t1 := setGp t .arr (encA n) (gp t .arr (encA n) + gp t .arr 34)
    setGp t1 .arr (encB n) (gp t1 .arr (encB n) + gp t1 .arr 35)
  else t

/-- What an ARR.MVM brings to its row, from its partials before stage 2 (R113, R116). -/
def mvmJob (b : Bank) (n : Enc) (segs : List SegIn) (parts : List (List Int)) (f : Flight) : MvmJob where
  set := encX n 27
  row := encC n
  parts := List.zipWith (stage2 b) segs parts
  sa := segs.map fun s => if zeroScale s.code then none else some s.code
  sw := segs.map fun s => segScales b s.seg
  sw0 := (segScales b 0).take (fmtOutputs b.fmt) ++
    List.replicate (fmtOutputs b.fmt - (segScales b 0).length) 0
  format := segs.any fun s => s.nan
  wformat := segs.any fun s => (segScales b s.seg).any e4m3Nan
  pc := f.pc
  issued := f.issued

/-- A tile's tallies after a vector (R184). -/
def addTallies (m : SMap (Int × Nat)) (l : List (Nat × Int × Nat)) : SMap (Int × Nat) :=
  l.foldl (fun m q =>
    let v := mapGet (fun _ => (0, 0)) m q.1
    mapSet (fun _ => (0, 0)) m q.1 (v.1 + q.2.1, v.2 + q.2.2)) m

/-- An ARR.MVM on a tile that is not demoted (R64 to R76, R99 to R103): conversion, counters, retry entries and
the partials' way to their row. -/
def runMvm (c : Ctx) (t : Tile) (f : Flight) (n : Enc) (lv : List Level) (bid : Bool) : Tile :=
  let b := bankOf t bid
  let segs := (mvmSegs n).map (readSeg t n)
  let w := mvmPlanes n
  let planes := drivenPlanes w segs
  let d := planes.length
  if inDog c (f.issued + 2) (f.issued + 2 + 3 * d) then arrFault t TIL_ARR_FAULT_DOGSLOT bid (engCode .arr) f.pc
  else
    let args : MvmArgs := ⟨bid, steering t, b, t.bounded, w, encX n 27, encC n, f.pc⟩
    let o := convertPlanes args lv segs planes 0 ⟨segs.map fun _ => [], 0, 0, 0, [], t.rho, []⟩
    let t1 := advance { t with rho := o.rho, arrFree := f.issued + 3 * max d 1, tally := addTallies t.tally o.tally } n
    let t2 := tbump (tbump (tbump t1 TIL_ARR_PLANES d) TIL_ARR_SKIPPED (w - d)) TIL_ARR_SEGSKIP
      (skippedSegPlanes w segs)
    let t3 := tbump (tbump (tbump t2 TIL_SID_CMPFAIL o.cmp) TIL_SID_RNGFAIL o.rng) TIL_SID_SHDFAIL o.shd
    let t4 := setBank t3 bid { b with busyUntil := max b.busyUntil (f.issued + 10 + 3 * d) }
    let t5 := o.entries.foldl (fun t e => later t (f.issued + 13 + 3 * e.1) (.retryIn e.2)) t4
    let t6 := later t5 (f.issued + 10 + 3 * d) .bankCheck
    let t7 := later t6 (f.issued + 12 + 3 * d) (.stage1 (mvmJob b n segs o.parts f))
    retireIn t7 f (19 + 3 * d)

/-- An ARR.MVM on a demoted tile: the exact lane, 16 array cycles a plane, no plane skipped; the array stays idle, and the
exact lane's time is that to the next ARR.MVM (R96, R195). -/
def runMvmDemoted (t : Tile) (f : Flight) (n : Enc) (bid : Bool) : Tile :=
  let b := bankOf t bid
  let segs := (mvmSegs n).map (readSeg t n)
  let k := 48 * mvmPlanes n
  let t1 := advance { t with laneFree := f.issued + k } n
  let t2 := setBank t1 bid { b with busyUntil := max b.busyUntil (f.issued + 19 + k) }
  let t3 := later t2 (f.issued + 12 + k) (.stage1 (mvmJob b n segs (segs.map (exactPartials b (mvmPlanes n))) f))
  later (retireIn t3 f (19 + k)) (f.issued + 19 + k) .bankCheck

/-- ARR.MVM. -/
def mvmUnit (n : Enc) (lv : List Level) : OpUnit where
  check := fun t => spansFault (decide (encD n ≠ 0))
    ((mvmSegs n).flatMap fun s =>
      [⟨mvmElemAddr t n s, blockBytes (mvmWide n), blockBytes (mvmWide n)⟩, ⟨mvmTagAddr t n s, 2, 2⟩])
  ready := fun _ t => .from_ (if t.demoted then max t.arrFree t.laneFree else t.arrFree)
  run := fun c t f =>
    match activeBank t with
    | none => (arrFault t TIL_ARR_FAULT_SWAP false (engCode .arr) f.pc, [])
    | some b => (if t.demoted then runMvmDemoted t f n b else runMvm c t f n lv b, [])

/-- ARR.RETRY (R77, R78, R106): it retires 15 cycles after issue in every case. Its plane does not move the shadow
rotation on, which counts the planes of ARR.MVM instructions (DESIGN CHOICE, notes/assumptions/69.md). A demoted tile
converts nothing in its array: its entries wait for their set's drain (R96, R109, notes/assumptions/70.md). -/
def retryUnit (lv : List Level) : OpUnit where
  check := fun _ => none
  ready := fun _ t => .from_ t.arrFree
  run := fun c t f =>
    if !t.demoted && inDog c (f.issued + 2) (f.issued + 5) then
      (arrFault t TIL_ARR_FAULT_DOGSLOT ((activeBank t).getD false) (engCode .arr) f.pc, [])
    else
      let t1 := { t with arrFree := f.issued + 3 }
      match (if t.demoted then [] else t.retryQ) with
      | [] => (retireIn t1 f 15, [])
      | e :: q =>
        let tally := addTallies t.tally (retryTally (steering t) (bankOf t e.bank) lv e)
        let t2 := tbump { t1 with retryQ := q, tally := tally } TIL_ARR_RETRIES
        (retireIn (later t2 (f.issued + 15) (.retryDone e (reconvert (steering t) (bankOf t e.bank) lv e) f.pc)) f 15, [])

/-- Bank selection (R86): the tile after ARR.BANK names bank `b`. -/
def selectBank (t : Tile) (b : Bool) (pc : BitVec 9) : Tile :=
  match (bankOf t b).st with
  | .active => t
  | .ready =>
    let o := bankOf t (!b)
    let t1 := setBank t b { bankOf t b with st := .active }
    if o.st = .active then setBank t1 (!b) { o with st := .ready } else t1
  | .invalid => arrFault t TIL_ARR_FAULT_SWAP b (engCode .arr) pc
  | .writing => arrFault t TIL_ARR_FAULT_SWAP b (engCode .arr) pc

/-- ARR.BANK. -/
def bankUnit (n : Enc) : OpUnit where
  check := fun _ => none
  ready := fun _ _ => .free
  run := fun _ t f =>
    let t1 := selectBank t (encX n 24) f.pc
    (if t1.stopped then t1 else retireIn t1 f 1, [])

/-- ARR.MODE: the mode of later ARR.MVM instructions (R67). -/
def modeUnit (n : Enc) : OpUnit := controlUnit fun t => { t with bounded := encX n 24 }

end Sys2Proof.Machine
end

