-- ==== Sys2Proof/Machine/SideUnits.lean ====
section
/-!
DEFINITION. The Side engine's instructions (R107, R109, R115, R117 to R127, R162 to R164, Table 6.7).
-/

namespace Sys2Proof.Machine

/-- SID.MODE (R115): a set none of whose rows holds a contribution takes the mode; any other raises MODEBUSY. A row
that is being drained holds its contributions until its second pass has read it (R119). -/
def sidModeUnit (n : Enc) : OpUnit where
  check := fun _ => none
  ready := fun _ _ => .free
  run := fun _ t f =>
    let s := encX n 25
    if (List.range 16).any fun r => (rowOf t s r).touched then
      (sidFault t TIL_SID_FAULT_MODEBUSY s 0 (engCode .sid) f.pc, [])
    else (retireIn (putSet t s { setOf t s with long := encX n 24 }) f 1, [])

/-- SID.RECOMP (R107): the oldest entry occupies the exact lane for 12 cycles and delivers after 13; an empty queue
leaves the lane free. -/
def recompUnit : OpUnit where
  check := fun _ => none
  ready := fun _ t => if t.recompQ.isEmpty then .free else .from_ t.laneFree
  run := fun _ t f =>
    match t.recompQ with
    | [] => (retireIn t f 13, [])
    | e :: q =>
      let t1 := { t with recompQ := q, laneFree := f.issued + 12 }
      (retireIn (later t1 (f.issued + 13) (.recompDone e (recompute (bankOf t e.bank) e) f.pc)) f 13, [])

/-! ### SID.DRAIN -/

/-- The DCFG register that X[25:24] selects. -/
def dcfgOf (t : Tile) (n : Enc) : Dword := gp t .sid (32 + bitsOf (encXs n) 0 2)

/-- A SID.DRAIN with the registers as they stand (R163). -/
def drainJob (t : Tile) (n : Enc) (watch : Nat) (pc : BitVec 9) : DrainJob :=
  ⟨watch, encX n 28, encX n 27, encX n 26, dcfgOf t n, effAddr t .sid n (encA n), gp t .sid (encB n), gp t .sid (encC n),
    gp t .sid 36, gp t .sid 37, gp t .sid 38, pc⟩

/-- What the pipeline touches in tile store for one row of `m` values (R35, R163). The step flag word and the bias are to
be 4 B aligned, which R163 does not state (DESIGN CHOICE, notes/assumptions/72.md). -/
def pipeSpans (d : Dword) (p : RowPlaces) (m : Nat) : List Span :=
  let nb := ceilDiv m 128
  let eb := blockBytes (ofmtWide (dcfgOfmt d))
  let rb := blockBytes (!dcfgResw d)
  [⟨BitVec.ofNat 64 p.elems, nb * eb, eb⟩, ⟨BitVec.ofNat 64 p.tags, 2 * nb, 2⟩, ⟨BitVec.ofNat 64 p.flags, 4, 4⟩] ++
    (if dcfgBias d then [⟨BitVec.ofNat 64 p.bias, 4 * m, 4⟩] else []) ++
    (if dcfgRes d then [⟨BitVec.ofNat 64 p.resE, nb * rb, rb⟩, ⟨BitVec.ofNat 64 p.resT, 2 * nb, 2⟩] else [])

/-- What a raw drain touches for one row. Its containers are to be 16 B aligned, its words and the step flag word 4 B, which
R163 does not state (DESIGN CHOICE, notes/assumptions/72.md). -/
def rawSpans (d : Dword) (p : RowPlaces) (long : Bool) : List Span :=
  let lb := if long then 16 else 4
  [⟨BitVec.ofNat 64 p.elems, dcfgM d * lb, lb⟩, ⟨BitVec.ofNat 64 p.flags, 4, 4⟩]

/-- Operand checks of SID.DRAIN (R163, R178). -/
def drainCheck (n : Enc) (t : Tile) : Option Cause :=
  let j := drainJob t n 0 0
  spansFault (dcfgLegal j.dcfg && decide (dcfgMask j.dcfg ≠ 0) && decide (dcfgM j.dcfg ≤ 256))
    ((dcfgRows j.dcfg).flatMap fun r =>
      if j.raw then rawSpans j.dcfg (drainPlaces j r) (setOf t j.set).long
      else pipeSpans j.dcfg (drainPlaces j r) (dcfgM j.dcfg))

/-- Tile cycles of the passes of a drain (R119, R126). -/
def drainCycles (j : DrainJob) : Nat :=
  (dcfgRows j.dcfg).length * drainRowCycles j

/-- Every retry entry of the set passes to the recompute queue at once, oldest first (R109). -/
def passEntries (t : Tile) (s : Bool) (pc : BitVec 9) : Tile :=
  (t.retryQ.filter fun e => e.set == s).foldl (fun t e => passToRecompute t e (engCode .sid) pc)
    { t with retryQ := t.retryQ.filter fun e => e.set != s }

/-- Where the bias and residual operands of a pipeline-mode drain lie, all rows together (R127). -/
def drainOperands (j : DrainJob) : List (Nat × Nat) :=
  if j.raw then []
  else (dcfgRows j.dcfg).flatMap fun r =>
    (List.range (ceilDiv (dcfgM j.dcfg) 128)).flatMap (sideOperands j.dcfg (drainPlaces j r) (dcfgM j.dcfg))

/-- SID.DRAIN (R109, R117 to R119, R126, R127). A pipeline-mode drain frees the pipeline at the end of its second passes
(DESIGN CHOICE, notes/assumptions/92.md). -/
def drainUnit (n : Enc) : OpUnit where
  check := drainCheck n
  ready := fun _ _ => .free
  run := fun c t f =>
    let j := drainJob t n (watchId f) f.pc
    if draining t j.set c.now || (!j.raw && decide (c.now < t.pipeFree)) then
      (sidFault t TIL_SID_FAULT_SETBUSY j.set 0 (engCode .sid) f.pc, [])
    else
      let opens := f.issued + 6 + drainCycles j
      let t1 := putSet t j.set { setOf t j.set with drainAt := f.issued + 1, effectAt := f.issued + 6, openAt := opens }
      let t2 := if j.raw then t1 else
        later (later (addWatch { t1 with pipeFree := opens } c.me j.watch false (drainOperands j)) opens (.drained j))
          (opens + 10) (.endWatch j.watch [])
      let t3 := later (passEntries t2 j.set f.pc) (f.issued + 6) (.drain j)
      (retireIn t3 (if t3.stopped then { f with post := 0 } else f) (opens - f.issued + if j.raw then 0 else 10), [])

/-! ### SID.EMIT -/

/-- The places of the row a SID.EMIT forms (R163, r = 0). -/
def emitPlaces (t : Tile) (n : Enc) : RowPlaces where
  bias := (gp t .sid 36).toNat
  resE := (gp t .sid 37).toNat
  resT := (gp t .sid 38).toNat
  elems := (gp t .sid (encB n)).toNat
  tags := (gp t .sid (encC n)).toNat
  flags := emitFlagA (gp t .sid (encD n))

/-- Operand checks of SID.EMIT (R127, R164, R178). -/
def emitCheck (n : Enc) (t : Tile) : Option Cause :=
  let d := gp t .sid (encD n)
  let vb := if emitInt32 d then 4 else 16
  spansFault (dcfgLegal (dcfgOf t n) && decide (1 ≤ emitN d) && decide (emitN d ≤ 16384)
      && decide (bitsOf d.toNat 62 2 = 0))
    ([⟨effAddr t .sid n (encA n), emitN d * vb, vb⟩] ++
      pipeSpans (dcfgOf t n) (emitPlaces t n) (emitN d) ++
      (if emitInt32 d then [⟨BitVec.ofNat 64 (emitWSA d), emitN d, 1⟩] else []))

/-- A SID.EMIT with the registers as they stand. -/
def emitJob (t : Tile) (n : Enc) (watch : Nat) : EmitJob :=
  ⟨watch, dcfgOf t n, gp t .sid (encD n), (effAddr t .sid n (encA n)).toNat, emitPlaces t n⟩

/-- Tile cycles of the passes of a SID.EMIT (R127). -/
def emitCycles (j : EmitJob) : Nat := 2 * ceilDiv (emitN j.desc) 8

/-- Where the operands of a SID.EMIT lie, all blocks together (R127). -/
def emitRanges (j : EmitJob) : List (Nat × Nat) := (List.range (ceilDiv (emitN j.desc) 128)).flatMap (emitOperands j)

/-- SID.EMIT (R127): one output row of N values from a buffer in tile store, formed by the end of its second pass. R127
raises SETBUSY for one that meets a drain; one that meets another SID.EMIT in the pipeline they share raises it too
(DESIGN CHOICE, notes/assumptions/73.md). The pipeline is free again at the end of the second pass (DESIGN CHOICE,
notes/assumptions/92.md). -/
def emitUnit (n : Enc) : OpUnit where
  check := emitCheck n
  ready := fun _ _ => .free
  run := fun c t f =>
    if c.now < t.pipeFree then (sidFault t TIL_SID_FAULT_SETBUSY false 0 (engCode .sid) f.pc, [])
    else
      let j := emitJob t n (watchId f)
      let ends := f.issued + emitCycles j
      let t1 := addWatch { t with pipeFree := ends } c.me j.watch false (emitRanges j)
      (retireIn (later (later t1 ends (.emitRow j)) (ends + 10) (.endWatch j.watch [])) f (emitCycles j + 10), [])

end Sys2Proof.Machine
end

