-- ==== Sys2Proof/Machine/PlotUnits.lean ====
section
/-!
DEFINITION. The Plot engine's instructions (R50 to R55, R165 to R167, R204 to R216, Tables 6.10 and 6.11). Each
reads its operands and writes its results as one whole, and retires after the cycles its shape register fixes.
Alignments of operands that R166 does not state are those of their elements: cells and indices 4 B, entries, keys and the
seed record 8 B, long containers 16 B, PFLAG 4 B (DESIGN CHOICE, notes/assumptions/75.md).
-/

namespace Sys2Proof.Machine

/-! ### Operands -/

def pltA (t : Tile) (n : Enc) : Dword := effAddr t .plt n (encA n)
def pltB (t : Tile) (n : Enc) : Dword := gp t .plt (encB n)
def pltC (t : Tile) (n : Enc) : Dword := gp t .plt (encC n)
/-- The shape register (Table 6.11). -/
def shape (t : Tile) (n : Enc) : Nat := (gp t .plt (encD n)).toNat
/-- PFLAG (R165). -/
def pflag (t : Tile) : Dword := gp t .plt 32
/-- [13:0] N or n, where code 0 encodes 16,384. -/
def count14 (sh : Nat) : Nat := if bitsOf sh 0 14 = 0 then 16384 else bitsOf sh 0 14

/-- The vector unit runs one instruction at a time (R165). -/
def pltReady (_ : Ctx) (t : Tile) : Ready := .from_ t.pltFree

/-- The instruction has left tile `t` and retires `cycles` after issue, one cycle later for each local-port
grant denied (R167); the vector unit is free from the cycle after. A write of an operand range or of a result until then
leaves its results undefined (R165, notes/assumptions/9.md). -/
def pltDone (c : Ctx) (t : Tile) (f : Flight) (cycles : Nat) (operands results : List (Nat × Nat)) : Tile :=
  let n := cycles + storeWaits c t
  let t1 := waited c (addWatch { t with pltFree := f.issued + n + 1 } c.me (watchId f) true (operands ++ results))
  later (retireIn t1 f n) (f.issued + n) (.endWatch (watchId f) results)

/-- `n` free bytes of this tile (R165, R166: results the manual leaves undefined). -/
def freeBytes (c : Ctx) (t : Tile) (n : Nat) : List Byte := freeAt c.me t n

/-- Signed and unsigned 32-bit cells. -/
def cellS (t : Tile) (a i : Nat) : Int := signed 32 (snat t (a + 4 * i) 4)
def cellU (t : Tile) (a i : Nat) : Nat := snat t (a + 4 * i) 4

/-- The scale code of a block's tag. -/
def tagCode (t : Tile) (a : Nat) : Nat := snat t a 1

/-- The sum of a list of integers. -/
def isum (l : List Int) : Int := l.foldl (· + ·) 0

/-! ### PLT.NORM (R166) -/

/-- The values of a row of `n` elements in units of 2^-9, and whether a block scale is NaN (R37, R38). -/
def normRow (t : Tile) (wide : Bool) (elems tags n : Nat) : List Int × Bool :=
  let bb := blockBytes wide
  let codes := (List.range (n / 128)).map fun b => tagCode t (tags + 2 * b)
  ((List.range (n / 128)).flatMap fun b =>
      let bs := sread t (elems + bb * b) bb
      (List.range 128).map fun i => elementOf wide bs i * e4m3 (codes.getD b 0),
   codes.any e4m3Nan)

/-- One row of PLT.NORM: the long values y_j and whether FORMAT is set for a z ≤ 0 with a negative ε (R166).
`xs` are the elements in units of 2^-9, `gain` and `offs` Q15.16 values, `eps` ε in units of 2^-9. -/
def normValues (layer : Bool) (xs gain offs : List Int) (eps : Int) : List Int × Bool :=
  let n : Int := xs.length
  let s1 := isum xs
  let s2 := isum (xs.map fun x => x * x)
  -- z in units of 2^-18 ÷ n² (layer) or 2^-18 ÷ n (RMS)
  let zn := if layer then n * s2 - s1 * s1 + eps * n * n * 512 else s2 + eps * n * 512
  let zd := if layer then n * n * 262144 else n * 262144
  if zn ≤ 0 then
    ((List.range xs.length).map fun j => if layer then longQ16 (offs.getD j 0) else 0, decide (eps < 0))
  else
    let r := invSqrt zn.toNat zd.toNat
    let up : Nat := 2 ^ (7 - r.2).toNat
    let dn : Nat := 2 ^ (r.2 - 7).toNat
    let m : Int := r.1
    ((List.range xs.length).map fun j =>
        if layer then
          rne (gain.getD j 0 * (n * xs.getD j 0 - s1) * m * up + longQ16 (offs.getD j 0) * n * dn) (xs.length * dn)
        else rne (gain.getD j 0 * xs.getD j 0 * m * up) dn,
     false)

/-- Geometry of PLT.NORM (Table 6.11). -/
def normRows (sh : Nat) : Nat := bitsOf sh 14 5
def normLayer (sh : Nat) : Bool := bitOf sh 19
def normOfmt (sh : Nat) : Nat := bitsOf sh 20 3
def normWide (sh : Nat) : Bool := !bitOf sh 23
def normEps (sh : Nat) : Nat := bitsOf sh 24 8

def normCheck (n : Enc) (t : Tile) : Option Cause :=
  let sh := shape t n
  let k := count14 sh
  let rows := normRows sh
  let ib := blockBytes (normWide sh)
  let ob := blockBytes (ofmtWide (normOfmt sh))
  let blocks := rows * (k / 128)
  spansFault (decide (k % 128 = 0) && decide (1 ≤ rows) && decide (rows ≤ 16) && decide (normOfmt sh ≤ 5))
    [⟨pltA t n, blocks * ib + 2 * blocks, ib⟩, ⟨pltB t n, blocks * ob + 2 * blocks, ob⟩,
     ⟨pltC t n, 4 * k * (if normLayer sh then 2 else 1), 4⟩, ⟨pflag t, 4 * rows, 4⟩]

/-- Row `r` of PLT.NORM, converted under R45 with fresh block scales; its clipped and flushed blocks count as R45 says. -/
def normOne (t : Tile) (n : Enc) (r : Nat) : Tile :=
  let sh := shape t n
  let k := count14 sh
  let blocks := normRows sh * (k / 128)
  let ib := blockBytes (normWide sh)
  let wide := ofmtWide (normOfmt sh)
  let ob := blockBytes wide
  let a := (pltA t n).toNat
  let b := (pltB t n).toNat
  let cc := (pltC t n).toNat
  let row := normRow t (normWide sh) (a + r * (k / 128) * ib) (a + blocks * ib + 2 * r * (k / 128)) k
  let gain := (List.range k).map (cellS t cc)
  let offs := if normLayer sh then (List.range k).map (cellS t (cc + 4 * k)) else []
  let v := normValues (normLayer sh) row.1 gain offs (e4m3 (normEps sh))
  let out := convertRow wide 0 v.1
  let t1 := swrite t (b + r * (k / 128) * ob) (out.flatMap (Block.bytes wide))
  let t2 := swrite t1 (b + blocks * ob + 2 * r * (k / 128)) (out.flatMap fun q => leBytes 2 q.tag)
  let t3 := tbump (tbump t2 TIL_SID_CLIP (out.countP fun q => q.clip)) TIL_SID_UFLOW (out.countP fun q => q.uflow)
  orFlags t3 ((pflag t).toNat + 4 * r) (row.2 || v.2 || e4m3Nan (normEps sh)) (out.any fun q => q.clip)

/-- The operand and the result ranges of PLT.NORM. -/
def normReads (t : Tile) (n : Enc) : List (Nat × Nat) :=
  let sh := shape t n
  let blocks := normRows sh * (count14 sh / 128)
  [((pltA t n).toNat, blocks * blockBytes (normWide sh) + 2 * blocks),
   ((pltC t n).toNat, 4 * count14 sh * (if normLayer sh then 2 else 1))]
def normWrites (t : Tile) (n : Enc) : List (Nat × Nat) :=
  let sh := shape t n
  let blocks := normRows sh * (count14 sh / 128)
  [((pltB t n).toNat, blocks * blockBytes (ofmtWide (normOfmt sh)) + 2 * blocks), ((pflag t).toNat, 4 * normRows sh)]

def normUnit (n : Enc) : OpUnit where
  check := normCheck n
  ready := pltReady
  run := fun c t f =>
    let sh := shape t n
    (pltDone c ((List.range (normRows sh)).foldl (fun t r => normOne t n r) t) f
      (normRows sh * (3 * ceilDiv (count14 sh) 32) + 20) (normReads t n) (normWrites t n), [])

/-! ### PLT.SCORE, PLT.SOFTMAX, PLT.VPROD (R52 to R55, R204 to R216) -/

/-- The head's channels (Table 6.11). -/
def headDim (sh : Nat) : Nat := 32 * 2 ^ bitsOf sh 14 2
def headOff (sh : Nat) : Nat := 32 * bitsOf sh 16 2
/-- The operand's width, bit [19]. -/
def headWide (sh : Nat) : Bool := bitOf sh 19
/-- R51: the operand is wider than the widest accepted, bit [18]. -/
def headRefused (sh : Nat) : Bool := bitOf sh 19 && !bitOf sh 18
/-- The head fits in the block from HOFF (R166). -/
def headLegal (sh : Nat) : Bool := decide (bitsOf sh 14 2 ≠ 3) && decide (headOff sh + headDim sh ≤ 128)

/-- The head's channels of block `i` of a blocked operand of `k` blocks at `a`: element codes times the block
scale in units of 2^-9, and whether the scale is NaN; a refused block reads as zeros (R37, R38, R51). -/
def headBlock (t : Tile) (sh a k i : Nat) : List Int × Bool :=
  let bb := blockBytes (headWide sh)
  let code := tagCode t (a + k * bb + 2 * i)
  let bs := sread t (a + bb * i) bb
  let s := if headRefused sh then 0 else e4m3 code
  ((List.range (headDim sh)).map fun j => elementOf (headWide sh) bs (headOff sh + j) * s, e4m3Nan code)

/-- A raw score cell from c · dot given as num ÷ den in units of 2^-16: RNE, saturating at ±(2^31 − 1) (R52). -/
def scoreCell (num : Int) (den : Nat) : Int × Bool :=
  let v := rne num den
  let lim : Int := 2147483647
  (clamp (-lim) lim v, decide (v < -lim) || decide (lim < v))

def scoreMul (sh : Nat) : Int := (bitsOf sh 32 16 : Nat)
/-- CSRC (R216). -/
def scoreCsrc (sh : Nat) : Bool := bitOf sh 20

def scoreCheck (n : Enc) (t : Tile) : Option Cause :=
  let sh := shape t n
  let k := count14 sh
  let bb := blockBytes (headWide sh)
  if scoreCsrc sh then
    spansFault (decide (bitsOf sh 14 6 = 0)) [⟨pltB t n, 16 * k, 16⟩, ⟨pltC t n, 4 * k, 4⟩, ⟨pflag t, 4, 4⟩]
  else
    spansFault (headLegal sh)
      [⟨pltA t n, bb + 2, bb⟩, ⟨pltB t n, k * bb + 2 * k, bb⟩, ⟨pltC t n, 4 * k, 4⟩, ⟨pflag t, 4, 4⟩]

/-- The cells of PLT.SCORE, whether one saturated, and whether FORMAT is set. -/
def scoreCells (t : Tile) (n : Enc) : List (Int × Bool) × Bool :=
  let sh := shape t n
  let k := count14 sh
  if scoreCsrc sh then
    ((List.range k).map fun i =>
        let bs := sread t ((pltB t n).toNat + 16 * i) 16
        let q := scoreCell (scoreMul sh * longOf bs) 4294967296
        (q.1, q.2 || longOvf bs), false)
  else
    let q := headBlock t sh (pltA t n).toNat 1 0
    let keys := (List.range k).map (headBlock t sh (pltB t n).toNat k)
    (keys.map fun b => scoreCell (scoreMul sh * isum (List.zipWith (· * ·) q.1 b.1)) 262144,
     headRefused sh || q.2 || keys.any fun b => b.2)

/-- The operand ranges of PLT.SCORE. -/
def scoreReads (t : Tile) (n : Enc) : List (Nat × Nat) :=
  let sh := shape t n
  let k := count14 sh
  let bb := blockBytes (headWide sh)
  if scoreCsrc sh then [((pltB t n).toNat, 16 * k)]
  else [((pltA t n).toNat, bb + 2), ((pltB t n).toNat, k * bb + 2 * k)]

def scoreUnit (n : Enc) : OpUnit where
  check := scoreCheck n
  ready := pltReady
  run := fun c t f =>
    let sh := shape t n
    let k := count14 sh
    let q := scoreCells t n
    let t1 := swrite t (pltC t n).toNat (q.1.flatMap fun x => leBytes 4 (unsigned 32 x.1))
    let t2 := orFlags t1 (pflag t).toNat q.2 (q.1.any fun x => x.2)
    (pltDone c t2 f (if scoreCsrc sh then ceilDiv k 8 + 24 else ceilDiv (k * headDim sh) 256 + 24) (scoreReads t n)
      [((pltC t n).toNat, 4 * k), ((pflag t).toNat, 4)], [])

/-- Normalisation of R53: `raw` the raw scores, `masked` the mask. -/
def softmaxCells (raw : List Int) (masked : List Bool) : List Nat :=
  let live := (List.range raw.length).filter fun i => !masked.getD i false
  match live with
  | [] => raw.map fun _ => 0
  | i0 :: _ =>
    let m := live.foldl (fun m i => max m (raw.getD i 0)) (raw.getD i0 0)
    let e := (List.range raw.length).map fun i =>
      if masked.getD i false then 0 else expCell (raw.getD i 0 - m)
    let total := e.foldl (· + ·) 0
    e.map fun x => (rne ((x * 32768 : Nat) : Int) total).toNat

/-- The mask bit of cell `i` (R207). -/
def maskBit (t : Tile) (a i : Nat) : Bool := bitOf (snat t (a + i / 8) 1) (i % 8)

def softmaxUnit (n : Enc) : OpUnit where
  check := fun t =>
    let sh := shape t n
    let k := count14 sh
    spansFault true (⟨pltA t n, 4 * k, 32⟩ :: (if bitOf sh 14 then [⟨pltB t n, ceilDiv k 8, 1⟩] else []))
  ready := pltReady
  run := fun c t f =>
    let sh := shape t n
    let k := count14 sh
    let a := (pltA t n).toNat
    let masked := (List.range k).map fun i => bitOf sh 14 && maskBit t (pltB t n).toNat i
    let out := softmaxCells ((List.range k).map (cellS t a)) masked
    (pltDone c (swrite t a (out.flatMap (leBytes 4))) f (3 * ceilDiv k 16 + 30)
      (if bitOf sh 14 then [((pltB t n).toNat, ceilDiv k 8)] else []) [(a, 4 * k)], [])

/-- The d containers after a value product adds its terms (R55, R209). The terms are summed exactly and the sum saturates
once, at the end: R55 does not say whether each term saturates (DESIGN CHOICE, notes/assumptions/74.md). -/
def vprodBytes (t : Tile) (n : Enc) : List Byte :=
  let sh := shape t n
  let k := count14 sh
  let p := (List.range k).map fun i => ((cellU t (pltA t n).toNat i % 65536 : Nat) : Int)
  let vals := (List.range k).map (headBlock t sh (pltB t n).toNat k)
  (List.range (headDim sh)).flatMap fun ch =>
    let term := isum (List.zipWith (fun q (v : List Int × Bool) => q * v.1.getD ch 0) p vals) * 256
    let old := sread t ((pltC t n).toNat + 16 * ch) 16
    longBytes (saturate 96 (longOf old + term))
      (longOvf old || decide (saturate 96 (longOf old + term) ≠ longOf old + term))

def vprodUnit (n : Enc) : OpUnit where
  check := fun t =>
    let sh := shape t n
    let k := count14 sh
    let bb := blockBytes (headWide sh)
    spansFault (headLegal sh)
      [⟨pltA t n, 4 * k, 4⟩, ⟨pltB t n, k * bb + 2 * k, bb⟩, ⟨pltC t n, 16 * headDim sh, 16⟩, ⟨pflag t, 4, 4⟩]
  ready := pltReady
  run := fun c t f =>
    let sh := shape t n
    let k := count14 sh
    let nan := headRefused sh || (List.range k).any fun i => (headBlock t sh (pltB t n).toNat k i).2
    let t1 := orFlags (swrite t (pltC t n).toNat (vprodBytes t n)) (pflag t).toNat nan false
    (pltDone c t1 f (ceilDiv (k * headDim sh) 256 + 24)
      [((pltA t n).toNat, 4 * k), ((pltB t n).toNat, k * blockBytes (headWide sh) + 2 * k)]
      [((pltC t n).toNat, 16 * headDim sh), ((pflag t).toNat, 4)], [])

/-! ### Selection, sorting and sets (R166) -/

def topkK (sh : Nat) : Nat := if bitsOf sh 16 6 = 0 then 64 else bitsOf sh 16 6

/-- The k largest values with their indices, ties to the lower index; missing entries are 0xFFFF_FFFF and
0x8000_0000. -/
def topkEntries (vals : List Int) (k : Nat) : List (Nat × Nat) :=
  let idx := sortBy (fun a b => decide (vals.getD b 0 ≤ vals.getD a 0)) (List.range vals.length)
  (idx.take k).map (fun i => (i, unsigned 32 (vals.getD i 0)))
    ++ List.replicate (k - vals.length) (0xFFFFFFFF, 0x80000000)

def topkUnit (n : Enc) : OpUnit where
  check := fun t =>
    let sh := shape t n
    spansFault true [⟨pltA t n, 4 * count14 sh, 4⟩, ⟨pltB t n, 8 * topkK sh, 8⟩]
  ready := pltReady
  run := fun c t f =>
    let sh := shape t n
    let out := topkEntries ((List.range (count14 sh)).map (cellS t (pltA t n).toNat)) (topkK sh)
    let t1 := swrite t (pltB t n).toNat (out.flatMap fun q => leBytes 4 q.1 ++ leBytes 4 q.2)
    (pltDone c t1 f (ceilDiv (count14 sh) 16 + 4 * topkK sh + 20) [((pltA t n).toNat, 4 * count14 sh)]
      [((pltB t n).toNat, 8 * topkK sh)], [])

/-- ⌈log₂ n⌉ for n ≥ 1. -/
def log2Up (n : Nat) : Nat := if n ≤ 1 then 0 else Nat.log2 (n - 1) + 1

def sortN (sh : Nat) : Nat := bitsOf sh 0 13

/-- Stable sort of entries by unsigned key, ascending or descending. -/
def sortEntries (desc : Bool) (es : List (Nat × Nat)) : List (Nat × Nat) :=
  sortBy (fun a b => if desc then decide (b.1 ≤ a.1) else decide (a.1 ≤ b.1)) es

def sortUnit (n : Enc) : OpUnit where
  check := fun t =>
    let k := sortN (shape t n)
    spansFault (decide (1 ≤ k) && decide (k ≤ 4096)) [⟨pltA t n, 8 * k, 8⟩, ⟨pltB t n, 8 * k, 8⟩]
  ready := pltReady
  run := fun c t f =>
    let sh := shape t n
    let k := sortN sh
    let a := (pltA t n).toNat
    let es := (List.range k).map fun i => (cellU t a (2 * i), cellU t a (2 * i + 1))
    let t1 := swrite t (pltB t n).toNat
      ((sortEntries (bitOf sh 13) es).flatMap fun q => leBytes 4 q.1 ++ leBytes 4 q.2)
    (pltDone c t1 f (ceilDiv k 16 * (log2Up k * (log2Up k + 1) / 2) + 20) [(a, 8 * k)] [((pltB t n).toNat, 8 * k)], [])

def setNa (sh : Nat) : Nat := bitsOf sh 0 14
def setNb (sh : Nat) : Nat := bitsOf sh 14 14

/-- Whether keys are in non-decreasing order. -/
def ordered : List Nat → Bool
  | a :: b :: r => decide (a ≤ b) && ordered (b :: r)
  | _ => true

/-- Distinct keys of a sorted list, without the padding key. -/
def distinct : List Nat → List Nat
  | a :: b :: r => if a = b then distinct (b :: r) else a :: distinct (b :: r)
  | l => l

/-- Sorted union, each key once, and sorted intersection, each key once; 0xFFFF_FFFF never appears (R166). -/
def unionKeys (a b : List Nat) : List Nat :=
  distinct ((sortBy (fun x y => decide (x ≤ y)) (a ++ b)).filter (· != 0xFFFFFFFF))
def isectKeys (a b : List Nat) : List Nat := distinct (a.filter fun k => b.contains k && k != 0xFFFFFFFF)

/-- The operand ranges of PLT.MERGE and PLT.ISECT. -/
def setReads (t : Tile) (n : Enc) : List (Nat × Nat) :=
  [((pltA t n).toNat, 4 * setNa (shape t n)), ((pltB t n).toNat, 4 * setNb (shape t n))]

/-- PLT.MERGE and PLT.ISECT: `op` forms the output of ordered inputs and `bound` the largest output count. For an
input that is not in order the count, within the bound, and the keys are free values (R166). The check before issue takes
the output for the largest possible count (DESIGN CHOICE, notes/assumptions/76.md). -/
def setopUnit (n : Enc) (op : List Nat → List Nat → List Nat) (bound : Nat → Nat → Nat) : OpUnit where
  check := fun t =>
    let sh := shape t n
    spansFault true [⟨pltA t n, 4 * setNa sh, 4⟩, ⟨pltB t n, 4 * setNb sh, 4⟩,
      ⟨pltC t n, 4 + 4 * bound (setNa sh) (setNb sh), 4⟩]
  ready := pltReady
  run := fun c t f =>
    let sh := shape t n
    let a := (List.range (setNa sh)).map (cellU t (pltA t n).toNat)
    let b := (List.range (setNb sh)).map (cellU t (pltB t n).toNat)
    let cycles := ceilDiv (setNa sh + setNb sh) 4 + 20
    let cc := (pltC t n).toNat
    if ordered a && ordered b then
      let out := op a b
      (pltDone c (swrite t cc (leBytes 4 out.length ++ out.flatMap (leBytes 4))) f cycles (setReads t n)
        [(cc, 4 + 4 * out.length)], [])
    else
      let k := (Config.tileWord c.me.stack.toNat c.me.tile.toNat t.free).toNat % (bound (setNa sh) (setNb sh) + 1)
      let t0 := useFree t 1
      let t1 := swrite t0 cc (leBytes 4 k ++ freeBytes c t0 (4 * k))
      (pltDone c (useFree t1 (4 * k)) f cycles (setReads t n) [(cc, 4 + 4 * k)], [])

def mergeUnit (n : Enc) : OpUnit := setopUnit n unionKeys (· + ·)
def isectUnit (n : Enc) : OpUnit := setopUnit n isectKeys min

/-! ### Gather, scatter, probe, relax, sample (R166) -/

def elemCode (sh : Nat) : Nat := bitsOf sh 14 3
def elemSize (sh : Nat) : Nat := 4 * 2 ^ elemCode sh
def elemAlign (sh : Nat) : Nat := min (elemSize sh) 32

/-- The addresses base + e · index of a data-dependent operand. -/
def indexed (t : Tile) (base : Dword) (idx n e : Nat) : List Dword :=
  (List.range n).map fun i => base + BitVec.ofNat 64 (e * cellU t idx i)

/-- A Plot instruction faults on a data-dependent address (R165, R178): each span of its results that lies in
what an engine may touch becomes free values, and the tile raises ADDR. -/
def plotAddrFault (c : Ctx) (t : Tile) (f : Flight) (results : List (Dword × Nat)) : Tile :=
  let t1 := results.foldl (fun t r =>
    if storeLegal r.1 r.2 then useFree (swrite t r.1.toNat (freeBytes c t r.2)) r.2 else t) t
  tileFault t1 .addr (engCode .plt) f.pc

def gatherUnit (n : Enc) : OpUnit where
  check := fun t =>
    let sh := shape t n
    let k := count14 sh
    spansFault (decide (elemCode sh ≤ 5) && decide ((pltA t n).toNat % elemAlign sh = 0))
      [⟨pltB t n, 4 * k, 4⟩, ⟨pltC t n, k * elemSize sh, elemAlign sh⟩]
  ready := pltReady
  run := fun c t f =>
    let sh := shape t n
    let k := count14 sh
    let e := elemSize sh
    let addrs := indexed t (pltA t n) (pltB t n).toNat k e
    if addrs.all fun a => storeLegal a e then
      (pltDone c (swrite t (pltC t n).toNat (addrs.flatMap fun a => sread t a.toNat e)) f (k * ceilDiv e 32 + 12)
        (((pltB t n).toNat, 4 * k) :: addrs.map fun a => (a.toNat, e)) [((pltC t n).toNat, k * e)], [])
    else (plotAddrFault c t f [(pltC t n, k * e)], [])

def scatterUnit (n : Enc) : OpUnit where
  check := fun t =>
    let sh := shape t n
    let k := count14 sh
    spansFault (decide (elemCode sh ≤ 5) && decide ((pltC t n).toNat % elemAlign sh = 0))
      [⟨pltA t n, k * elemSize sh, elemAlign sh⟩, ⟨pltB t n, 4 * k, 4⟩]
  ready := pltReady
  run := fun c t f =>
    let sh := shape t n
    let k := count14 sh
    let e := elemSize sh
    let addrs := indexed t (pltC t n) (pltB t n).toNat k e
    if addrs.all fun a => storeLegal a e then
      let src := sread t (pltA t n).toNat (k * e)
      let t1 := (List.range k).foldl (fun t i =>
        swrite t (addrs.getD i 0).toNat ((src.drop (i * e)).take e)) t
      (pltDone c t1 f (k * ceilDiv e 32 + 12) [((pltA t n).toNat, k * e), ((pltB t n).toNat, 4 * k)]
        (addrs.map fun a => (a.toNat, e)), [])
    else (plotAddrFault c t f (addrs.map fun a => (a, e)), [])

def probeK (sh : Nat) : Nat := bitsOf sh 14 4
def probeLmax (sh : Nat) : Nat := bitsOf sh 18 4

/-- The value of the first slot whose key matches, or all ones (R166). -/
def hprobe (t : Tile) (table k lmax : Nat) (key : Dword) : Nat :=
  let h := ((key * 0x9E3779B97F4A7C15) >>> (64 - k)).toNat
  if key = 0xFFFFFFFFFFFFFFFF then 0xFFFFFFFFFFFFFFFF
  else
    match (List.range lmax).find? fun j => snat t (table + 16 * ((h + j) % 2 ^ k)) 8 == key.toNat with
    | some j => snat t (table + 16 * ((h + j) % 2 ^ k) + 8) 8
    | none => 0xFFFFFFFFFFFFFFFF

def hprobeUnit (n : Enc) : OpUnit where
  check := fun t =>
    let sh := shape t n
    let k := count14 sh
    spansFault (decide (1 ≤ probeK sh) && decide (probeK sh ≤ 14) && decide (1 ≤ probeLmax sh))
      [⟨pltA t n, 8 * k, 8⟩, ⟨pltB t n, 16 * 2 ^ probeK sh, 8⟩, ⟨pltC t n, 8 * k, 8⟩]
  ready := pltReady
  run := fun c t f =>
    let sh := shape t n
    let k := count14 sh
    let out := (List.range k).map fun i =>
      hprobe t (pltB t n).toNat (probeK sh) (probeLmax sh) (BitVec.ofNat 64 (snat t ((pltA t n).toNat + 8 * i) 8))
    (pltDone c (swrite t (pltC t n).toNat (out.flatMap (leBytes 8))) f (k * probeLmax sh + 12)
      [((pltA t n).toNat, 8 * k), ((pltB t n).toNat, 16 * 2 ^ probeK sh)] [((pltC t n).toNat, 8 * k)], [])

/-- One edge of PLT.RELAX: an equal cost keeps the earlier edge (R166). -/
def relaxEdge (t : Tile) (n : Enc) (i : Nat) : Tile :=
  let a := (pltA t n).toNat + 16 * i
  let src := (pltB t n + BitVec.ofNat 64 (4 * snat t a 4)).toNat
  let dst := (pltB t n + BitVec.ofNat 64 (4 * snat t (a + 4) 4)).toNat
  let back := (pltC t n + BitVec.ofNat 64 (4 * snat t (a + 4) 4)).toNat
  let cost := min (snat t src 4 + snat t (a + 8) 4) 0xFFFFFFFF
  if cost < snat t dst 4 then swrite (swrite t dst (leBytes 4 cost)) back (leBytes 4 i) else t

/-- Every data-dependent address of an edge: distances of source and destination, and the back-pointer. All are checked,
those of the destination also where the edge does not improve it (DESIGN CHOICE, notes/assumptions/77.md). -/
def relaxAddrs (t : Tile) (n : Enc) (i : Nat) : List Dword :=
  let a := (pltA t n).toNat + 16 * i
  [pltB t n + BitVec.ofNat 64 (4 * snat t a 4), pltB t n + BitVec.ofNat 64 (4 * snat t (a + 4) 4),
   pltC t n + BitVec.ofNat 64 (4 * snat t (a + 4) 4)]

def relaxUnit (n : Enc) : OpUnit where
  check := fun t =>
    let k := count14 (shape t n)
    spansFault (decide ((pltB t n).toNat % 4 = 0) && decide ((pltC t n).toNat % 4 = 0)) [⟨pltA t n, 16 * k, 4⟩]
  ready := pltReady
  run := fun c t f =>
    let k := count14 (shape t n)
    if (List.range k).all fun i => (relaxAddrs t n i).all fun a => storeLegal a 4 then
      let t1 := (List.range k).foldl (fun t i => relaxEdge t n i) t
      (pltDone c t1 f (k + 20)
        (((pltA t n).toNat, 16 * k) :: (List.range k).flatMap fun i => ((relaxAddrs t n i).take 1).map fun a => (a.toNat, 4))
        ((List.range k).flatMap fun i => ((relaxAddrs t n i).drop 1).map fun a => (a.toNat, 4)), [])
    else
      (plotAddrFault c t f ((List.range k).flatMap fun i => ((relaxAddrs t n i).drop 1).map fun a => (a, 4)), [])

/-- The smallest i with p_0 + … + p_i > T. -/
def sampleIndex : List Nat → Nat → Nat → Nat → Option Nat
  | [], _, _, _ => none
  | p :: ps, i, acc, lim => if lim < acc + p then some i else sampleIndex ps (i + 1) (acc + p) lim

def sampleUnit (n : Enc) : OpUnit where
  check := fun t =>
    spansFault true [⟨pltA t n, 4 * count14 (shape t n), 4⟩, ⟨pltB t n, 4, 4⟩, ⟨pltC t n, 16, 8⟩, ⟨pflag t, 4, 4⟩]
  ready := pltReady
  run := fun c t f =>
    let k := count14 (shape t n)
    let p := (List.range k).map fun i => cellU t (pltA t n).toNat i % 65536
    let total := p.foldl (· + ·) 0
    let z := mix64 (BitVec.ofNat 64 (snat t (pltC t n).toNat 8)) (BitVec.ofNat 64 (snat t ((pltC t n).toNat + 8) 8))
    let lim := (z >>> 49).toNat * total / 32768
    let t1 := match sampleIndex p 0 0 lim with
      | some i => swrite t (pltB t n).toNat (leBytes 4 i)
      | none => orFlags (swrite t (pltB t n).toNat (leBytes 4 0xFFFFFFFF)) (pflag t).toNat true false
    (pltDone c t1 f (2 * ceilDiv k 16 + 30) [((pltA t n).toNat, 4 * k), ((pltC t n).toNat, 16)]
      [((pltB t n).toNat, 4), ((pflag t).toNat, 4)], [])

end Sys2Proof.Machine
end

