-- ==== Sys2Proof/Machine/SignalUnits.lean ====
section
/-!
DEFINITION. The Signal engine's instructions (R168 to R175, Tables 6.12 to 6.17) and the completion of remote
operations at their tile.
-/

namespace Sys2Proof.Machine

/-! ### Issue of remote operations -/

/-- The completion group, X[28:27]. -/
def sigGroup (n : Enc) : Nat := bitsOf (encXs n) 3 2

/-- Groups of the tile. -/
def groupOf (t : Tile) (g : Nat) : Group := t.groups.getD g Group.clear
def putGroup (t : Tile) (g : Nat) (v : Group) : Tile := { t with groups := t.groups.set g v }

/-- A remote operation that finds no free Signal tag waits before issue (R168). -/
def sigReady (_ : Ctx) (t : Tile) : Ready := if (sigTag t).isSome then .free else .busy

/-- A packet of a remote operation: destination, length in bytes, elements or containers, payload, and the targets
it serves (MPUT) or its own place in a multi-flit operation (R304). -/
structure Piece where
  dest    : Dword
  len     : Nat
  data    : List Byte
  targets : List (Nat × Dword)
deriving DecidableEq, Repr

/-- A remote operation is issued: a tag with its TURN (R329), one more operation in flight in its group (R171), its
packets, and retirement when the router accepts it (Table 5.3). An operation with several flits or branches stays
open until each has completed (R172, R304). -/
def sendOp (c : Ctx) (t : Tile) (f : Flight) (n : Enc) (op : PktOp) (localA len : Nat) (ps : List Piece) :
    Tile × List Packet :=
  match sigTag t with
  | none => (t, [])
  | some k =>
    let t1 := takeTurn t k
    let g := sigGroup n
    let o : SigOp :=
      ⟨BitVec.ofNat 5 k, g, op, localA, len, ps.flatMap fun q => q.targets.map fun r => r.1, [], false⟩
    let t2 := putGroup { t1 with sigs := t1.sigs ++ [o] } g { groupOf t1 g with count := (groupOf t1 g).count + 1 }
    (retireIn (tileFree t2) f (1 + Config.acceptCycles c.me.stack.toNat c.me.tile.toNat t.free),
      ps.map fun q => ⟨op, q.dest, .tile c.module c.me, BitVec.ofNat 5 k, BitVec.ofNat 4 (turnOf t1 k), q.len, q.data,
        .ok, false, q.targets, false, none, false⟩)

/-- GP[C]: a length or a count. -/
def sigC (t : Tile) (n : Enc) : Nat := (gp t .sig (encC n)).toNat

/-- A length of 32 to 4,096 bytes, a multiple of 32 (Table 6.12). -/
def putLen (k : Nat) : Bool := decide (32 ≤ k) && decide (k ≤ 4096) && decide (k % 32 = 0)

/-- SIG.PUT. -/
def putUnit (n : Enc) : OpUnit where
  check := fun t => spansFault (putLen (sigC t n) && decide ((gp t .sig (encA n)).toNat % 32 = 0))
    [⟨effAddr t .sig n (encB n), sigC t n, 32⟩]
  ready := sigReady
  run := fun c t f =>
    sendOp c t f n .put 0 (sigC t n)
      [⟨gp t .sig (encA n), sigC t n, sread t (effAddr t .sig n (encB n)).toNat (sigC t n), []⟩]

/-- SIG.GET. -/
def getUnit (n : Enc) : OpUnit where
  check := fun t => spansFault (putLen (sigC t n) && decide ((gp t .sig (encA n)).toNat % 32 = 0))
    [⟨effAddr t .sig n (encB n), sigC t n, 32⟩]
  ready := sigReady
  run := fun c t f => 
    sendOp c t f n .get (effAddr t .sig n (encB n)).toNat (sigC t n) [⟨gp t .sig (encA n), sigC t n, [], []⟩]

/-- The reduction flits of an operation (R304): at most 224 bytes of operands each, every flit with its own
destination. -/
def reductionFlits (dest : Dword) (size : Nat) (data : List Byte) : List Piece :=
  (chunks 224 (data.length / 224 + 1) data).zipIdx.map fun q =>
    let d := dest + BitVec.ofNat 64 (224 * q.2)
    ⟨d, q.1.length / size, q.1, [(q.2, d)]⟩

/-- SIG.ADD32, SIG.ADD64 and SIG.LADD: `size` bytes an element, at most `lim` of them (Table 6.12). -/
def addUnit (n : Enc) (op : PktOp) (size lim : Nat) : OpUnit where
  check := fun t =>
    spansFault (decide (1 ≤ sigC t n) && decide (sigC t n ≤ lim)
        && decide ((gp t .sig (encA n)).toNat % size = 0))
      [⟨effAddr t .sig n (encB n), size * sigC t n, size⟩]
  ready := sigReady
  run := fun c t f =>
    sendOp c t f n op 0 (sigC t n)
      (reductionFlits (gp t .sig (encA n)) size (sread t (effAddr t .sig n (encB n)).toNat (size * sigC t n)))

/-- SIG.CAS64: the local block holds the compare and the new word; the old word returns into its last 8 bytes. -/
def casUnit (n : Enc) : OpUnit where
  check := fun t => spansFault (decide ((gp t .sig (encA n)).toNat % 8 = 0))
    [⟨effAddr t .sig n (encB n), 24, 8⟩]
  ready := sigReady
  run := fun c t f =>
    let a := (effAddr t .sig n (encB n)).toNat
    sendOp c t f n .cas64 (a + 16) 8 [⟨gp t .sig (encA n), 8, sread t a 16, []⟩]

/-- The target list of SIG.MPUT (Table 6.16): its address and N. -/
def listAddr (t : Tile) (n : Enc) : Dword := gp t .sig (encD n)
def listN (t : Tile) (n : Enc) : Nat := bitsOf (snat t (listAddr t n).toNat 8) 0 5

/-- Target `i`. -/
def listTarget (t : Tile) (n : Enc) (i : Nat) : Dword :=
  BitVec.ofNat 64 (snat t ((listAddr t n).toNat + 8 + 8 * i) 8)

/-- SIG.MPUT: N and the targets' alignment are judged when the instruction issues
(Table 6.16). -/
def mputUnit (n : Enc) : OpUnit where
  check := fun t => spansFault (putLen (sigC t n))
    [⟨effAddr t .sig n (encB n), sigC t n, 32⟩, ⟨listAddr t n, 8, 8⟩]
  ready := sigReady
  run := fun c t f =>
    let k := listN t n
    let targets := (List.range k).map fun i => (i, listTarget t n i)
    match spansFault (decide (1 ≤ k) && decide (k ≤ 16)
        && targets.all fun q => decide (q.2.toNat % 32 = 0)) [⟨listAddr t n, 16 + 8 * k, 8⟩] with
    | some cause => (tileFault t cause (engCode .sig) f.pc, [])
    | none =>
      sendOp c t f n .mput ((listAddr t n).toNat + 8 + 8 * k) (sigC t n)
        [⟨0, sigC t n, sread t (effAddr t .sig n (encB n)).toNat (sigC t n), targets⟩]

/-- SIG.ARRIVE. -/
def arriveUnit (n : Enc) : OpUnit where
  check := fun t => spansFault (decide ((gp t .sig (encA n)).toNat % 16 = 0)) []
  ready := sigReady
  run := fun c t f => 
    sendOp c t f n .arrive 0 0 [⟨gp t .sig (encA n), 0, leBytes 2 (sigC t n), []⟩]

/-! ### Waits -/

/-- The group status word (Table 6.15). -/
def groupWord (g : Group) : Nat := bit g.sat + 2 * bit g.fail + 16 * g.first + 256 * g.nfail

/-- SIG.WAITG (R171): waits until the group's count is 0, writes and clears its status. -/
def waitgUnit (n : Enc) : OpUnit where
  check := fun t => spansFault true
    (⟨gp t .sig (encC n), 4, 4⟩ :: (if encX n 26 then [⟨gp t .sig (encB n), 4, 4⟩] else []))
  ready := fun _ t => if (groupOf t (sigGroup n)).count = 0 then .free else .waypoint
  run := fun _ t f =>
    let g := groupOf t (sigGroup n)
    let t1 := swrite t (gp t .sig (encC n)).toNat (leBytes 4 (groupWord g))
    let t2 := putGroup t1 (sigGroup n) { Group.clear with count := g.count }
    let t3 := if encX n 26 && g.sat then orFlags t2 (gp t .sig (encB n)).toNat false true else t2
    (retireIn t3 f 1, [])

/-- Whether `a` is the address of waypoint counter 0 to 247 (R173). -/
def counterAddr (a : Dword) : Bool :=
  decide (a.toNat % 16 = 0) && decide (0x7D000 ≤ a.toNat) && decide (a.toNat ≤ 0x7DF70)

/-- COUNT, EXPECT and VMAX of a waypoint counter (Table 6.17). -/
def wpCount (t : Tile) (a : Nat) : Nat := snat t a 4
def wpExpect (t : Tile) (a : Nat) : Nat := snat t (a + 4) 4
def wpVmax (t : Tile) (a : Nat) : Nat := snat t (a + 8) 2

/-- SIG.WAITWP (R174). -/
def waitwpUnit (n : Enc) : OpUnit where
  check := fun t => spansFault (counterAddr (effAddr t .sig n (encA n))) [⟨gp t .sig (encB n), 4, 4⟩]
  ready := fun _ t =>
    let a := (effAddr t .sig n (encA n)).toNat
    if wpExpect t a ≤ wpCount t a then .free else .waypoint
  run := fun _ t f =>
    let a := (effAddr t .sig n (encA n)).toNat
    let t1 := swrite t a (leBytes 4 (wpCount t a - wpExpect t a))
    let t2 := swrite t1 (gp t .sig (encB n)).toNat (leBytes 4 (wpVmax t a))
    (retireIn (swrite t2 (a + 8) (leBytes 2 0)) f 1, [])

/-- SIG.WPINIT (R174): COUNT := 0, EXPECT := GP[C][31:0], VMAX := 0. -/
def wpinitUnit (n : Enc) : OpUnit where
  check := fun t => spansFault (counterAddr (effAddr t .sig n (encA n))) []
  ready := fun _ _ => .free
  run := fun _ t f =>
    let a := (effAddr t .sig n (encA n)).toNat
    (retireIn (swrite t a (leBytes 4 0 ++ leBytes 4 (sigC t n) ++ leBytes 2 0)) f 1, [])

/-! ### Completions (R170 to R172, R331) -/

/-- Status codes (Table 6.14). -/
def statusCode : Status → Nat
  | .ok => 0
  | .fenced => 1
  | .aborted => 2
  | .timeout => 3

/-- A group after one of its operations completes. -/
def groupDone (g : Group) (st : Status) (sat : Bool) : Group :=
  let g1 := { g with count := g.count - 1, sat := g.sat || sat }
  if st = .ok then g1
  else { g1 with
    fail := true
    first := if g.fail then g.first else statusCode st
    nfail := min 255 (g.nfail + 1) }

/-- The FAILMASK word of an MPUT (Table 6.16). -/
def failWord (fails : List (Nat × Status)) : Nat :=
  let s := sortBy (fun (a b : Nat × Status) => decide (a.1 ≤ b.1)) fails
  (s.foldl (fun m q => m + 2 ^ q.1) 0) % 65536 +
    65536 * (match s with
      | q :: _ => statusCode q.2
      | [] => 0)

/-- An operation of the Signal engine completes (R170): what the status lets it write locally, its group, its
tag. -/
def completeSig (t : Tile) (o : SigOp) (st : Status) (sat : Bool) (data : List Byte) : Tile :=
  let t1 :=
    match o.op with
    | .get => if st = .ok then swrite t o.localA (data.take o.len) else t
    | .cas64 => if st = .ok then swrite t o.localA (data.take 8) else t
    | .mput => swrite t o.localA (leBytes 8 (failWord o.fails))
    | _ => t
  let st1 := match o.op, o.fails with
    | .mput, q :: _ => if st = .ok then q.2 else st
    | _, _ => st
  putGroup { t1 with sigs := t1.sigs.erase o } o.group (groupDone (groupOf t1 o.group) st1 sat)

/-- The Signal operation that holds tag `k`. -/
def sigOf (t : Tile) (k : BitVec 5) : Option SigOp := t.sigs.find? fun o => o.tag == k

/-- Whether a completion's tag and TURN are those of an operation in flight (R329, R331). -/
def turnMatches (t : Tile) (k : BitVec 5) (turn : BitVec 4) : Bool :=
  tagUsed t k.toNat && turnOf t k.toNat == turn.toNat

/-- The completion of one branch of an MPUT (R333) or of one flit of a reduction (R304): the operation completes with
the last one. A reduction that failed completes with the status of the first flit that failed. -/
def completeBranch (t : Tile) (o : SigOp) (i : Nat) (st : Status) (sat : Bool) : Tile :=
  let o1 := { o with
    open_ := o.open_.erase i
    sat := o.sat || sat
    fails := if st = .ok then o.fails else o.fails ++ [(i, st)] }
  let t1 := { t with sigs := t.sigs.map fun x => if x = o then o1 else x }
  if o1.open_.isEmpty then
    completeSig t1 o1 (match o.op, o1.fails with
      | .mput, _ => .ok
      | _, q :: _ => q.2
      | _, [] => .ok) o1.sat []
  else t1

/-! ### Waypoint counters at their destination (R169, R173) -/

/-- An ARRIVE at a program's counter: COUNT := COUNT + 1, VMAX := max(VMAX, value). -/
def arriveAt (t : Tile) (a : Nat) (value : Nat) : Tile :=
  let t1 := swrite t a (leBytes 4 ((wpCount t a + 1) % 2 ^ 32))
  swrite t1 (a + 8) (leBytes 2 (max (wpVmax t a) (value % 65536)))

end Sys2Proof.Machine
end

