-- ==== Sys2Proof/Machine/ModuleState.lean ====
section
/-!
DEFINITION. The state of everything outside the tiles that no register of Table 13.6 shows: the parts of a stack's
base die (Helm counters, Sextant, walkers, router tables), the link dies, the Chronometer, serving, images, the log,
power, Binnacle, the Sounding ADC, Lodestar and the test port. Registers stand in `State.regs`.
-/

namespace Sys2Proof.Machine

/-! ### Routers, Helm counters (R142, R305, R349) -/

/-- An entry of a router's merge table (R142): the requesters in recording order as the GETs they sent, and the tile
cycle of the first. -/
structure MergeEntry where
  site  : Nat
  first : Nat
  reqs  : List Packet
deriving DecidableEq, Repr

/-- An entry of a router's combine table (R305): the flits it combined, in recording order, without their operands, and
whether combining saturated. -/
structure CombEntry where
  site : Nat
  sat  : Bool
  reqs : List Packet
deriving DecidableEq, Repr

/-- A packet in a multicast buffer (R332, R333): the replication router's site, and the MPUT with the branches that wait. -/
structure McastEntry where
  site   : Nat
  packet : Packet
deriving DecidableEq, Repr

/-- A Helm waypoint counter (R349, Table 6.17). -/
structure HelmCounter where
  count  : Nat
  expect : Nat
  vmax   : Nat
deriving DecidableEq, Repr

/-- A counter after Helm's reset. -/
def HelmCounter.zero : HelmCounter := ⟨0, 0, 0⟩

/-! ### Sextant (R179 to R200) -/

/-- A column group in hand (R181, R187, R188): a fix or a sight, which group, the idle array cycles already spent on it,
and the banks whose results are discarded. -/
structure GroupHand where
  fix     : Bool
  group   : Nat
  done    : Nat
  dropped : List Bool
deriving DecidableEq, Repr

/-- A tile's calibration sequencer (R186, R187): the groups in hand, the cycle from which it may use another idle array
cycle, the array cycles left in the dog slot at hand, and the cycle at which that slot ends. -/
structure GroupWork where
  hands  : List GroupHand
  next   : Nat
  left   : Nat
  until_ : Nat
deriving DecidableEq, Repr

/-- What a group's result gives to its tile's measurement (R91, R184): the group, its smallest distance, the sum of its
distances and their number. -/
structure GroupMeas where
  group : Nat
  low   : Nat
  sum   : Nat
  count : Nat
deriving DecidableEq, Repr

/-- A pass (R182, R190): the triggers it serves, the cycle at which its references are measured and whether they have been,
whether it is to restart after the groups in hand, and the groups finished by site (an unlisted mapped site has finished
none). -/
structure Pass where
  kinds    : List Nat
  refsAt   : Nat
  refsDone : Bool
  again    : Bool
  done     : SMap Nat
deriving DecidableEq, Repr

/-- A demand (R189, R193): the tile, the groups still to fix, those still to sight, the watches it has waited, and
whether a stretch has been asked for it. -/
structure Demand where
  tile    : Nat
  site    : Nat
  toFix   : List Nat
  toSight : List Nat
  waited  : Nat
  asked   : Bool
deriving DecidableEq, Repr

/-! ### Walkers (R221 to R242) -/

/-- A chart-cache entry (R229). -/
structure ChartLine where
  context : Nat
  layer   : Nat
  page    : Nat
  frame   : Nat
  gen     : Nat
  kw      : Bool
  vw      : Bool
deriving DecidableEq, Repr

/-- One stack outside its tiles and registers. `table` is the working deviation table, `copyA` and `copyB` its
persistent copies (R196), `inforce` which of them is in force (true: B) and its SEQ; `outs` the groups out of range of
each site (R180); `passes` the pending pass triggers; `meas` the group results of each site since its last
completed measurement (R184); `sight` the site whose sight is taken, and its next line group; `stretched` the ticks of
each site's stretched demands (R194); `dog`, `dogper` the dog-slot registers in force, `dogAt` the first cycle after the start of
the last dog slot (R185); `frames` and `deferred` the
walker's lists (R234, R237); `pins` the berths' pin lists (R236); `beat` the tick of Helm's last heartbeat;
`dramReady`: the DRAM is trained and zeroed (R481);
`refs`: the applied reference trims by generator (R180); `nodeLayers` how many layers each Rutter node's list holds,
`inserts` how many nodes were written (R239, R241); `retired` the frames out of service for good (R376); `phase` the tile
cycle, modulo 3, in which array cycles begin (R345). -/
structure StackSt where
  wps        : SMap HelmCounter
  merges     : List MergeEntry
  combs      : List CombEntry
  mcasts     : List McastEntry
  table      : Mem
  copyA      : Mem
  copyB      : Mem
  inforce    : Option (Bool × Word)
  outs       : SMap (List Nat)
  pass       : Option Pass
  passes     : List Nat
  work       : SMap GroupWork
  meas       : SMap (List GroupMeas)
  sight      : Option (Nat × Nat)
  demands    : List Demand
  stretched  : SMap (List Nat)
  dog        : Word
  dogper     : Word
  demandSlot : Bool
  dogAt      : Nat
  frames     : List Nat
  deferred   : List Nat
  framesInit : Bool
  cache      : List ChartLine
  evicts     : Nat
  pins       : SMap (List Nat)
  helmPins   : Nat
  beat       : Nat
  dramReady  : Bool
  refs       : SMap Int
  nodeLayers : SMap Nat
  inserts    : Nat
  retired    : List Nat
  phase      : Nat
deriving DecidableEq, Repr

/-- What an unlisted site works on: nothing. -/
def GroupWork.none : GroupWork := ⟨[], 0, 0, 0⟩

/-- A stack after power-on. SXT_DOGPER resets with EVERY 1 (Table 7.11). -/
def StackSt.reset : StackSt where
  wps := []
  merges := []
  combs := []
  mcasts := []
  table := []
  copyA := []
  copyB := []
  inforce := Option.none
  outs := []
  pass := Option.none
  passes := []
  work := []
  meas := []
  sight := Option.none
  demands := []
  stretched := []
  dog := 0
  dogper := 0x01000000
  demandSlot := false
  dogAt := 0
  frames := []
  deferred := []
  framesInit := false
  cache := []
  evicts := 0
  pins := []
  helmPins := 0
  beat := 0
  dramReady := false
  refs := []
  nodeLayers := []
  inserts := 0
  retired := []
  phase := 0

/-! ### Vilger Link (R357 to R371) -/

/-- A message to the companion (Tables 15.4, 15.5): `half`, opcode, tag, lines, byte address, AUX and data. -/
structure VMsg where
  half : BitVec 1
  opc  : Byte
  tag  : BitVec 12
  len  : Nat
  addr : BitVec 48
  aux  : Dword
  data : List Byte
deriving DecidableEq, Repr

/-- Why a request is outstanding at the companion: part `part` of region-4 operation `op`, the lead Helm's read of a
watched line, a write of the lead Helm in a write group, a dropped line, a notification, or Lodestar's read of a source. -/
inductive VPurpose
  | packet (op : Nat) (part : Nat)
  | watch
  | helm (group : Nat)
  | evict
  | notify
  | load
deriving DecidableEq, Repr

/-- An outstanding request of a half (R365, R368): `poisoned` marks an RDS that an SNI overtook, `again` a watched line
whose notice is kept. -/
structure VReq where
  msg      : VMsg
  poisoned : Bool
  again    : Bool
  purpose  : VPurpose
deriving DecidableEq, Repr

/-- A region-4 operation under way (R366): its packet, the parts still open, the first status other than OK, and the
bytes read by part. -/
structure VOp where
  id     : Nat
  packet : Packet
  open_  : List Nat
  status : Status
  got    : List (Nat × List Byte)
deriving DecidableEq, Repr

/-- A cached companion line (R367): the line number, its bytes, whether it is watched; the list is ordered least
recently used first. -/
structure VLine where
  line    : Nat
  data    : List Byte
  watched : Bool
deriving DecidableEq, Repr

/-- A data flit as a half keeps it until it is acknowledged (R363): SEQ, the credit class and credits that it returns, and
its slots. -/
structure HeldFlit where
  seq   : Nat
  cls   : Nat
  crdn  : Nat
  slots : List Byte
deriving DecidableEq, Repr

/-- A half of Vilger Link (R362 to R364): sequence numbers, replay buffer (oldest first), the replays since the last
acknowledgement, whether a NAK is due, credits that the companion returned and that messages took, by class, cached lines,
the requests in order (the first 2,048 are outstanding, later ones wait, R365), the slots received that make no message yet,
the slots of flits that wait for the link or for room in the replay buffer, the messages that wait for credits, whether a flit
has come in order (ACKV), the credits to be returned by class, the flits sent, and the scrambler of each lane that carries
traffic (R358). -/
structure VHalf where
  txSeq   : Nat
  rxSeq   : Nat
  replay  : List HeldFlit
  replays : Nat
  nak     : Bool
  credits : List Nat
  spent   : List Nat
  lines   : List VLine
  reqs    : List VReq
  slots   : List (List Byte)
  waiting : List (List Byte)
  stalled : List VMsg
  heard   : Bool
  owed    : List Nat
  sent    : List (List Byte)
  scram   : List (BitVec 31)
deriving DecidableEq, Repr

/-- A half after reset. -/
def VHalf.reset : VHalf := ⟨0, 0, [], 0, false, [0, 0, 0], [0, 0, 0], [], [], [], [], [], false, [0, 0, 0], [], []⟩

/-- Vilger Link: both halves, failed training attempts in a row, whether it retrains, the replayed flits (by half), the
messages sent, the region-4 operations under way, and whether a link die's reset took the link down, which Binnacle enables
again at the release. -/
structure VilgerSt where
  halves   : List VHalf
  attempts : Nat
  retrain  : Bool
  resent   : List (Nat × Nat)
  out      : List VMsg
  ops      : List VOp
  nextOp   : Nat
  again    : Bool
deriving DecidableEq, Repr

def VilgerSt.reset : VilgerSt := ⟨[VHalf.reset, VHalf.reset], 0, false, [], [], [], 0, false⟩

/-! ### Fleet fabric (R311 to R327) -/

/-- A fleet port (R311, R312): failed attempts in a row, whether equalisation is stored, sequence numbers, the replay
buffer, unacknowledged replays in a row, the NAK state, the flits accepted in order that make no packet yet, the
neighbour's serial, the packets that are not acknowledged as a whole, by the SEQ of their last frame, the flits that wait for
room in the replay buffer, whether a frame has come in order (ACKV), and the frames sent. `sentId` is the identity frame sent
(R314). -/
structure PortSt where
  attempts : Nat
  eqStored : Bool
  locked   : Bool
  retrain  : Bool
  txSeq    : Nat
  rxSeq    : Nat
  replay   : List (Nat × List Byte)
  replays  : Nat
  nak      : Bool
  resent   : List Nat
  flits    : List (List Byte)
  sentId   : Option Identity
  nbr      : Dword
  queued   : List (Nat × Packet)
  waiting  : List (List Byte)
  heard    : Bool
  sent     : List Frame
deriving DecidableEq, Repr

/-- A port after reset. `rxSeq` is the next expected sequence number. -/
def PortSt.reset : PortSt := ⟨0, false, false, false, 0, 0, [], 0, false, [], [], none, 0, [], [], false, []⟩

/-- The fleet fabric: ports, hail records seen in the current discovery, the records and numbers sent (port and
record), how often ROUND has advanced in this discovery, the tick of the last new record, the numbers accepted by
serial, the HINT that Binnacle's NOR holds, and the committed routing table; and of the package's crossing channels the
replays since the last retrain, and which are in retrain (R379, R381). -/
structure FleetSt where
  ports     : List PortSt
  hails     : List HailRec
  sentHails : List (Nat × HailRec)
  sentNums  : List (Nat × NumbersRec)
  advances  : Nat
  lastNew   : Nat
  numbers   : List (Dword × BitVec 10)
  hint      : Option (BitVec 10)
  rt        : SMap Word
  xreplays  : SMap Nat
  xtrain    : List Nat
deriving DecidableEq, Repr

def FleetSt.reset : FleetSt where
  ports := List.replicate 16 PortSt.reset
  hails := []
  sentHails := []
  sentNums := []
  advances := 0
  lastNew := 0
  numbers := []
  hint := none
  rt := []
  xreplays := []
  xtrain := []

/-! ### Chronometer (R338 to R354) -/

/-- An agreement record (R352). -/
structure Agreed where
  watch : Word
  q     : Nat
  d     : Bool
deriving DecidableEq, Repr

/-- The Chronometer beyond its registers: the armed charter (epoch, length in 5 ns units, watch), held agreement
records, the latched high words of R356, whether a slew runs and how far the tick has still to move (1/8 ns), the
tree's children and parent, in harbour mode the demand requests by watch, the round whose record is awaited, offers
that wait for it (watch, q, d), and the first round since the first charter (R344, R352). -/
structure ChronoSt where
  armed     : Option (Nat × Nat × Word)
  agreed    : List Agreed
  tickHi    : Word
  startHi   : Word
  slewing   : Bool
  offset    : Int
  children  : List (BitVec 10)
  parent    : Option (BitVec 10)
  requests  : List (Word × Bool)
  openRound : Option Word
  offers    : List (Word × Nat × Bool)
  firstRound : Option Word
deriving DecidableEq, Repr

def ChronoSt.reset : ChronoSt where
  armed := none
  agreed := []
  tickHi := 0
  startHi := 0
  slewing := false
  offset := 0
  children := []
  parent := none
  requests := []
  openRound := none
  offers := []
  firstRound := none

/-! ### Serving (R245 to R267) -/

/-- Context states (Table 10.4). -/
inductive CtxState
  | waiting | placed | ended
deriving DecidableEq, Repr

/-- A request context that is not FREE (R248 to R264). `pending` are its P pending tokens; `positions` its committed
positions; `queued` the watch in which it last entered its class queue; `run` the steps committed since it was
last placed; `masked`: it keeps its slot but is not placed in the coming or running step (R232); `root` the root key of
its bindings at admission (R239); `version` the bound model version; `blocks` the whole blocks inserted or mapped; `lost`: it maps a frame
that R376 took out of service. -/
structure Context where
  st        : CtxState
  reqid     : Dword
  seed      : Dword
  berth     : Nat
  cls       : Nat
  maxnew    : Nat
  stop      : Word
  model     : Nat
  adapter   : Nat
  vslot     : Option Nat
  version   : Nat
  rebind    : Bool
  noprefix  : Bool
  pending   : List Word
  tokens    : List Word
  positions : Nat
  delivered : Nat
  queued    : Word
  run       : Nat
  slot      : Option Nat
  masked    : Bool
  root      : Dword
  order     : Nat
  cancelled : Bool
  resumed   : Bool
  rebound   : Bool
  rebounded : Bool
  format    : Bool
  paused    : Bool
  blocks    : Nat
  lost      : Bool
deriving DecidableEq, Repr

/-- A step report record (Table 10.7), before it is written. -/
structure ReportRec where
  reqid     : Dword
  status    : Nat
  end_      : Nat
  flags     : Nat
  toks      : List Word
  context   : Nat
  berth     : Nat
  cls       : Nat
  positions : Nat
  delivered : Nat
  watch     : Word
  adapter   : Nat
  vslot     : Nat
deriving DecidableEq, Repr

/-- A report that waits for room in the ring (R260). -/
structure HeldReport where
  recs  : List ReportRec
  watch : Word
  tick  : Nat
  final : Bool
deriving DecidableEq, Repr

/-- Where a berth's step stands: between steps, running, or awaiting its replay watch (R251, R257, R385). -/
inductive StepState
  | idle
  | running (first : Word)
  | replay (first : Word) (watch : Word)
deriving DecidableEq, Repr

/-- An image that a berth holds: its name, slot, version, module index, its stage area half and its sections, decoded
(R271, R277 to R279). -/
structure BerthImage where
  name     : Nat × Nat × Nat
  slot     : Nat
  version  : Nat
  area     : Nat
  steady   : Schedule
  crossA   : Option Schedule
  crossB   : Option Schedule
  load     : List TileProgram
  crossLoad : List TileProgram
  digest   : BitVec 384
deriving DecidableEq, Repr

/-- A berth (R245, R254, R257 to R265, R285, R384 to R387, R439): among the rest `loading` are the tiles whose
load program runs and whose step program has not started (R281, R344), `debt` is its idle debt, `faulted` the
tiles of class 2 faults of the step (stack, site, cause), `late` those of faults charged to the next step, `charged` an event charged to its next step (class, stack,
tile, cause), `arrivedAt` the tile cycle of its arrival at the commit waypoint, `allReady` whether the last commit found every module ready to cross, `thermal` a thermal stop awaited,
`live` the area half that was the berth's live area last (R279), `discarded`: a disable has discarded both areas (R290),
`loadLine` the image line of a LOAD whose ACK awaits the versions of the berth's other modules, and `versions` those that
have come (R336). -/
structure Berth where
  image     : Option BerthImage
  next      : Option BerthImage
  step      : StepState
  loading   : List TileRef
  released  : List (BitVec 3)
  arrived   : Bool
  arrivedAt : Nat
  cseq      : Nat
  ended     : List ReportRec
  held      : List HeldReport
  rptwait   : Bool
  disableAt : Option Word
  disableLine : Option (BitVec 48)
  attempts  : Nat
  lastStep  : Option Word
  debt      : Nat
  spares    : List (Nat × Nat)
  notice    : Option (Word × Nat)
  faulted   : List (Nat × Nat × Nat)
  late      : List (Nat × Nat × Nat)
  charged   : Option (Nat × Nat × Nat × Nat)
  allReady  : Bool
  thermal   : Bool
  live      : Nat
  discarded : Bool
  loadLine  : Option (BitVec 48)
  versions  : List (BitVec 10 × Word)
deriving DecidableEq, Repr

/-- A disabled berth. -/
def Berth.reset : Berth where
  image := none
  next := none
  step := .idle
  loading := []
  released := []
  arrived := false
  arrivedAt := 0
  cseq := 0
  ended := []
  held := []
  rptwait := false
  disableAt := none
  disableLine := none
  attempts := 0
  lastStep := none
  debt := 0
  spares := []
  notice := none
  faulted := []
  late := []
  charged := none
  allReady := false
  thermal := false
  live := 1
  discarded := false
  loadLine := none
  versions := []

/-- Adapter version slots that are not FREE (R282, R283). -/
inductive VSlotState
  | staged | current | superseded
deriving DecidableEq, Repr

structure VSlot where
  st      : VSlotState
  adapter : Nat
  model   : Nat
  version : Nat
deriving DecidableEq, Repr

/-- Writes of the lead Helm that wait for CMPs (R371): group number, CMPs still open, and what follows the last: the
completion line of a berth, the berth's notification, the closing of its wrapper (R265), or the re-reading of the
watched line that was written (R370). -/
structure WriteGroup where
  group  : Nat
  open_  : Nat
  line   : Option (BitVec 48 × List Byte)
  berth  : Nat
  notify : Bool
  last   : Bool
  reread : Option (BitVec 48)
deriving DecidableEq, Repr

/-- Messages that the lead Helm sends to lead Helms of other modules (R350, R352, R386, R441). -/
inductive HelmMsg
  | release (dst : BitVec 10) (berth : Nat) (watch : Word) (vmax : Half)
  | arrive (dst : BitVec 10) (counter : Nat) (value : Nat)
  | agree (dst : BitVec 10) (watch : Word) (q : Nat) (d : Bool)
  | abandonNotice (dst : BitVec 10) (berth : Nat) (first : Word)
  | abandonRecord (dst : BitVec 10) (berth : Nat) (first : Word) (replay : Word)
  | thermal (dst : BitVec 10) (berth : Nat)
  | version (dst : BitVec 10) (berth : Nat) (version : Nat)
deriving DecidableEq, Repr

/-- A remote operation of the lead Helm in flight (R329): its tag, its TURN and what it carries. -/
structure HelmOp where
  tag  : Nat
  turn : Nat
  msg  : HelmMsg
deriving DecidableEq, Repr

/-- The lead Helm's serving state. `hseq` by watched line, `queues` one per class, `curr` the current version slot of
each adapter, `returned` the host's return index, `msgs` what was sent to other modules, `masked` the operations on the
append window of a masked slot that completed with FENCED (R247), `keys` the bindings that have root keys, in the order in
which Helm met them: model, its version, adapter, its version (R239), `ops` its remote operations in flight, `waits` those
that wait for a tag, `turns` the TURN of each of its tags (R329). -/
structure ServeSt where
  contexts : SMap (Option Context)
  queues   : List (List Nat)
  berths   : List Berth
  hseq     : SMap Word
  notices  : List (BitVec 48)
  curr     : SMap (Option Nat)
  vslots   : SMap (Option VSlot)
  returned : Word
  groups   : List WriteGroup
  nextGroup : Nat
  orders   : Nat
  msgs     : List HelmMsg
  masked   : List (TileRef × BitVec 5)
  keys     : List (Nat × Nat × Nat × Nat)
  ops      : List HelmOp
  waits    : List HelmMsg
  turns    : SMap Nat
deriving DecidableEq, Repr

def ServeSt.reset : ServeSt where
  contexts := []
  queues := [[], [], [], []]
  berths := List.replicate 16 Berth.reset
  hseq := []
  notices := []
  curr := []
  vslots := []
  returned := 0
  groups := []
  nextGroup := 0
  orders := 0
  msgs := []
  masked := []
  keys := []
  ops := []
  waits := []
  turns := []

/-! ### Module NAND (R273 to R276) -/

/-- Image slot states (Table 11.4). -/
inductive SlotState
  | empty | incomplete | verified | active
deriving DecidableEq, Repr

/-- A catalogue record (R274): `start` is the NAND start block of the slot's content, `crc` the record's CRC-32C. -/
structure CatRec where
  name   : Nat × Nat × Nat
  slot   : Nat
  st     : SlotState
  modidx : Nat
  length : Nat
  start  : Nat
  seq    : Nat
  crc    : Word
deriving DecidableEq, Repr

/-- A slot's content: the image bytes stored, and how many bytes of each 4 KiB index, from its first, chunks have covered
(R275). -/
structure SlotData where
  bytes   : Mem
  covered : SMap Nat
deriving DecidableEq, Repr

/-- A boot record (R276): the image slot that bring-up loads into the berth. -/
structure BootRec where
  name : Nat × Nat × Nat
  slot : Nat
deriving DecidableEq, Repr

/-- Module NAND: the catalogue, the slots' contents by name and slot, the boot records by berth; and the slots whose
programming has begun since the last reset (R429). -/
structure ImageSt where
  catalogue : List CatRec
  data      : List ((Nat × Nat × Nat) × Nat × SlotData)
  boots     : SMap (Option BootRec)
  begun     : List ((Nat × Nat × Nat) × Nat)
deriving DecidableEq, Repr

def ImageSt.reset : ImageSt := ⟨[], [], [], []⟩

/-! ### The log (R377, R378) -/

/-- A log entry (Table 16.3), keyed by its UNIT; `bucket` is the window bucket that entry 0 of the bucket lists
stands for. -/
structure LogEntry where
  unit    : UnitRef
  st      : Nat
  local_  : Bool
  stress  : Nat
  cause   : Nat
  trans   : Nat
  repeats : Nat
  tick    : Nat
  tb      : List Nat
  rb      : List Nat
deriving DecidableEq, Repr

/-- The log (R378): Binnacle's working copy in the order of first events, the entries changed since the last append,
and the entries in NOR. `extra` counts the events that no unit carries; `lines` are the column lines (stack, site,
segment, line) that repeated events of class 1 named, `spared` those of them that a bring-up has given a spare line
(Table 16.2, R94); `margins` the margins and mean margins of demoted tiles by stack and site (R195); `norUsed` the entries
that the half of the log area in use holds, `norUpper` which half that is; `hops` the ports and crossings at which hop
timeouts expired, with their ticks (class 9 of Table 16.1). -/
structure LogSt where
  entries : List LogEntry
  changed : List UnitRef
  nor     : List LogEntry
  extra   : List (Nat × Nat)
  lines   : List (Nat × Nat × Nat × Nat)
  spared  : List (Nat × Nat × Nat × Nat)
  margins : SMap (Nat × Nat)
  norUsed : Nat
  norUpper : Bool
  hops    : List (LinkRef × Nat)
deriving DecidableEq, Repr

def LogSt.reset : LogSt := ⟨[], [], [], [], [], [], [], 0, false, []⟩

/-! ### Power and clocks (R394 to R412) -/

/-- A request at the ramp governor (R398): start or stop, tile, tick of the request, and whether it has waited
beyond its turn (PWR_DEFERRED). -/
structure GovReq where
  start : Bool
  stack : Nat
  tile  : Nat
  at_   : Nat
  waited : Bool
deriving DecidableEq, Repr

/-- Power beyond its registers: MAIN_EN held (before step 2 ends, or while T is 95 °C or more), the
governor's queue and its grants of the last microsecond, whether an orderly stop runs, the clock
multiplexers that switch, whether the input capacitance is charged, the frequency counters that run, and the link dies
whose core PLL is locked. -/
structure PowerSt where
  held     : Bool
  queue    : List GovReq
  starts   : List Nat
  stops    : List Nat
  stopping : Bool
  switching : List MuxRef
  charged  : Bool
  measuring : List FmeasRef
  linkLocks : List Nat
deriving DecidableEq, Repr

def PowerSt.reset : PowerSt := ⟨false, [], [], [], false, [], false, [], []⟩

/-! ### Reset and bring-up (R415 to R430) -/

/-- A block reset in progress (R421): the block, whether IDLE_REQ is raised, whether its reset is asserted,
whether BNC_BRST asked for it, and the tick of IDLE_REQ or of the assertion. -/
structure BlockRst where
  block    : UnitRef
  quiesce  : Bool
  asserted : Bool
  brst     : Bool
  at_      : Nat
deriving DecidableEq, Repr

/-- Bring-up: how many orders of Table 18.2 are released (0: none), in order 6 how many stacks, block resets in
progress, whether step 5 has begun for each stack, and the BCK cycle in which the last reset cause was recorded. -/
structure ResetSt where
  domains : Nat
  stacks6 : Nat
  blocks  : List BlockRst
  firstStep : List Nat
  causeAt : Option Nat
deriving DecidableEq, Repr

def ResetSt.reset : ResetSt := ⟨0, 0, [], [], none⟩

/-! ### Binnacle and the Sounding ADC (R431 to R449) -/

/-- A sensor's filter (R432, R434): its last valid readings (latest first, 1/256 °C), its state, plausible
readings in a row while broken, and readings at or above the trip limit in a row. -/
structure Sensor where
  readings : List Int
  st       : Nat
  good     : Nat
  hot      : Nat
deriving DecidableEq, Repr

def Sensor.reset : Sensor := ⟨[], 0, 0, 0⟩

/-- A reply on the Bearing port (Table 19.3). -/
structure BearingReply where
  status : Nat
  data   : Word
deriving DecidableEq, Repr

/-- Binnacle: sensors by index (0-47 diodes, 48-59 thermistors, 60-67 DRAM stacks), the long command in progress
(operation and the arguments it was accepted with) and its outcome where that is settled before it ends, the replies
sent, whether the core is halted (R431), whether an orderly stop has begun since reset, the tile cycle in which the
throttle grace began (R438), the stacks whose automatic commit is due or runs, in order, those whose commit of a
DEVTABLE_COMMIT has not ended and whether one has failed (R198), and the samples of input power, in 0.1 mW, the latest
first (R401). -/
structure BinnSt where
  sensors  : SMap Sensor
  long     : Option (Byte × BitVec 24 × Word)
  longOut  : Option Nat
  replies  : List BearingReply
  halted   : Bool
  stopped  : Bool
  graceAt  : Nat
  commits  : List Nat
  masked   : List Nat
  maskBad  : Bool
  powers   : List Nat
deriving DecidableEq, Repr

def BinnSt.reset : BinnSt := ⟨[], none, none, [], false, false, 0, [], [], false, []⟩

/-- The Sounding ADC (R446 to R449): the urgent queue (channel and whether it belongs to the fast pair), the conversion
in progress (`true`: of the sequence), the pass number, and for each channel that a status flag follows the samples in a
row that disagree with the flag (R432), and the tile cycle in which the last conversion completed (R448). -/
structure SndSt where
  urgent  : List (Nat × Bool)
  active  : Option Bool
  pass    : Nat
  agree   : SMap Nat
  doneAt  : Option Nat
deriving DecidableEq, Repr

def SndSt.reset : SndSt := ⟨[], none, 0, [], none⟩

/-! ### Lodestar and the test port (R452 to R467) -/

/-- Fuses (Table 20.1). -/
structure Fuses where
  serial    : Dword
  calhash   : BitVec 384
  lcRows    : List Word
  decom     : Word
  ownerhash : BitVec 384
  dik       : BitVec 384
  minsvn    : Nat
  repair    : SMap Word
deriving DecidableEq, Repr

/-- An unprogrammed fuse array: every bit reads 0 (R452). -/
def Fuses.blank : Fuses := ⟨0, 0, List.replicate 7 0, 0, 0, 0, 0, []⟩

/-- Lodestar beyond its registers: fuses; key manifest copies A and B (their bytes) and which is in force; firmware
copies A and B, which is preferred, the bytes of the bundle that runs, which copy it came from, whether a preferred copy has
been written since it was chosen, and the copies from which the link dies' and the Helms' components were loaded (R461,
R463); the DIK working copy, the TRNG pool and the working memory (R460); whether clearing fails and refuses everything;
TESTMODE (cleared only at power-on); how many words the TRNG has given; the fuses as the long command in progress will leave
them (R457, R469); which load a write of LSR_CTL has started, firmware (`true`) or key manifest (R459, R463); how many times
the secret set has been cleared (R460; the model's own, for Config.clearMisses). -/
structure LodestarSt where
  fuses     : Fuses
  mfA       : Option (List Byte)
  mfB       : Option (List Byte)
  mfInForce : Option Bool
  fwA       : Option (List Byte)
  fwB       : Option (List Byte)
  preferB   : Bool
  inForceB  : Option Bool
  running   : Option (List Byte)
  fresh     : Bool
  linkFw    : Option Bool
  helmFw    : Option Bool
  dikCopy   : BitVec 384
  pool      : List Word
  work      : List Byte
  zlock     : Bool
  testmode  : Bool
  drawn     : Nat
  burning   : Option Fuses
  loading   : Option Bool
  clears    : Nat
deriving DecidableEq, Repr

def LodestarSt.reset : LodestarSt where
  fuses := Fuses.blank
  mfA := none
  mfB := none
  mfInForce := none
  fwA := none
  fwB := none
  preferB := false
  inForceB := none
  running := none
  fresh := false
  linkFw := none
  helmFw := none
  dikCopy := 0
  pool := []
  work := []
  zlock := false
  testmode := false
  drawn := 0
  burning := none
  loading := none
  clears := 0

/-- The instruction that the test access port has selected (R466). -/
inductive TapIr
  | bypass | idcode | samplePreload | extest
deriving DecidableEq, Repr

/-- The test port: the selected instruction and what its data register captures. -/
structure TapSt where
  ir : TapIr
  dr : Word
deriving DecidableEq, Repr

end Sys2Proof.Machine
end

