-- ==== Sys2Proof/Machine/State.lean ====
section
/-!
DEFINITION. The state of the Fuale module as plain data, the reasons a step can stop, and the state after power-on.
The module is one clocked block: `cyc` counts tile cycles since the tile domain's first release, `tick` is the
Chronometer tick, `tfrac` the sixths of a nanosecond beyond it (a tile cycle is 5/6 ns), and `slot0` the cycle from which
the slot counts of the current watch restart with the next array cycle of their stack (R345).
-/

namespace Sys2Proof.Machine

/-- Why the machine stops with a fault. No rule of the manual stops the module for good, so nothing raises one. -/
inductive Fault
  /-- A stop of the whole machine. Nobody raises it: every fault of the manual is an effect on the state. Safe. -/
  | stopped
deriving DecidableEq, Repr

/-- Why a command has no meaning. -/
inductive Refusal
  /-- The command's mnemonic is not modelled. Safe: the machine stops. -/
  | notModelled (mnemonic : String)
deriving DecidableEq, Repr

/-- The answer to a register access (R149, R322): the access, its completion status and, for a read, the data. -/
structure RegAnswer where
  access : RegAccess
  status : Status
  data   : Dword
deriving DecidableEq, Repr

/-- The machine. `regs` holds the control region's registers by stack × 2^21 + region-2 offset (Table 13.6), unlisted
ones at their reset values; `tiles` the tiles by stack × 512 + physical site (R12, R13); `dram` the stacks' DRAM by
stack × 2^36 + offset; `net` the packets in flight, oldest first; `reports` the control reports under way to Helm;
`free` counts the free values used; `stk` the eight stacks;
`answers` the answers to register accesses; `pending` the commands that wait, first in first out. -/
structure State where
  cyc     : Nat
  slot0   : Nat
  tick    : Nat
  tfrac   : Nat
  regs    : SMap Word
  tiles   : SMap Tile
  dram    : Mem
  net     : List Packet
  reports : List Report
  free    : Nat
  stk     : List StackSt
  vil     : VilgerSt
  fleet   : FleetSt
  chr     : ChronoSt
  serve   : ServeSt
  img     : ImageSt
  log     : LogSt
  pwr     : PowerSt
  rst     : ResetSt
  bnc     : BinnSt
  snd     : SndSt
  lsr     : LodestarSt
  tap     : TapSt
  answers : List RegAnswer
  pending : List Instr
deriving DecidableEq, Repr

/-- The machine right after power-on: VAON has risen, every domain is in reset, every register holds its reset
value, every memory is empty, and no command waits (R415 to R417, R481). -/
def State.reset : State where
  cyc := 0
  slot0 := 0
  tick := 0
  tfrac := 0
  regs := []
  tiles := []
  dram := []
  net := []
  reports := []
  free := 0
  stk := List.replicate 8 StackSt.reset
  vil := VilgerSt.reset
  fleet := FleetSt.reset
  chr := ChronoSt.reset
  serve := ServeSt.reset
  img := ImageSt.reset
  log := LogSt.reset
  pwr := PowerSt.reset
  rst := ResetSt.reset
  bnc := BinnSt.reset
  snd := SndSt.reset
  lsr := LodestarSt.reset
  tap := ⟨.idcode, 0⟩
  answers := []
  pending := []

end Sys2Proof.Machine
end

