-- ==== Sys2Proof/Machine/Ops.lean ====
section
/-!
DEFINITION. Named operations on the whole machine: control-region registers, stacks, time, tiles by name, and
packets.
-/

namespace Sys2Proof.Machine

/-! ### Registers of the control region (Table 13.6) -/

/-- Key of a region-2 register of a stack. -/
def regKey (k off : Nat) : Nat := k * 2 ^ 21 + off

/-- The register word stored at region-2 offset `off` of stack `k`. -/
def rword (s : State) (k off : Nat) : Word := mapGet reg2Reset s.regs (regKey k off)

/-- The machine with that word replaced. -/
def setRword (s : State) (k off : Nat) (w : Word) : State :=
  { s with regs := mapSet reg2Reset s.regs (regKey k off) w }

/-- A register field of stack `k`; `i` is the index in a register array. -/
def rget (s : State) (k : Nat) (f : Fld) (i : Nat := 0) : Nat := fldOf f (rword s k (f.off + f.stride * i))

/-- The machine with a register field at `v`. -/
def rput (s : State) (k : Nat) (f : Fld) (v : Nat) (i : Nat := 0) : State :=
  setRword s k (f.off + f.stride * i) (fldPut f (rword s k (f.off + f.stride * i)) v)

/-- A counter `n` higher (32 bits, wrapping). -/
def rbump (s : State) (k : Nat) (f : Fld) (n : Nat := 1) : State := rput s k f (rget s k f + n)

/-- A status bit set. -/
def rset (s : State) (k : Nat) (f : Fld) (i : Nat := 0) : State := rput s k f 1 i

/-- Whether a one-bit field is 1. -/
def ron (s : State) (k : Nat) (f : Fld) (i : Nat := 0) : Bool := decide (rget s k f i = 1)

/-- Every register of the 64 KiB block at `base` of stack `k` back at its reset value. -/
def resetBlock (s : State) (k base : Nat) : State :=
  { s with regs := mapClear s.regs (regKey k base) (regKey k (base + 0x10000)) }

/-! ### Stacks -/

/-- Stack `k` outside its tiles and registers. -/
def stkOf (s : State) (k : Nat) : StackSt := s.stk.getD k StackSt.reset

/-- The machine with stack `k` replaced. -/
def putStk (s : State) (k : Nat) (v : StackSt) : State := { s with stk := s.stk.set k v }

/-- The eight stacks' numbers (R12). -/
def stackNos : List Nat := List.range 8

/-- The stack to which a link die attaches (Table 1.2). -/
def dieStack (d : Nat) : Nat := if d = 0 then 0 else if d = 1 then 4 else if d = 2 then 3 else 7

/-- The link die attached to a stack, if any (Table 1.2). -/
def stackDie (k : Nat) : Option Nat :=
  if k = 0 then some 0 else if k = 4 then some 1 else if k = 3 then some 2 else if k = 7 then some 3 else none

/-- Field `f` of fleet port `p`: stack of its link die, and its index there (Table 13.11). -/
def portStack (p : Nat) : Nat := dieStack (p / 4)
def pget (s : State) (p : Nat) (f : Fld) : Nat := rget s (portStack p) f (p % 4)
def pput (s : State) (p : Nat) (f : Fld) (v : Nat) : State := rput s (portStack p) f v (p % 4)

/-- The lead Helm's stack, once chosen (R14). -/
def leadOf (s : State) : Option Nat := stackNos.find? fun k => ron s k HLM_STATUS_LEAD

/-- The lead Helm's stack, or stack 0 while none is chosen. -/
def leadStk (s : State) : Nat := (leadOf s).getD 0

/-- This module's number (R319, FLT_MOD). -/
def moduleNo (s : State) : BitVec 10 := BitVec.ofNat 10 (rget s 0 FLT_MOD_NUMBER)

/-- Modules in the fleet (FLT_MOD). -/
def moduleCount (s : State) : Nat := rget s 0 FLT_MOD_COUNT

/-- Whether the module is in fleet mode (CHR_CTL.MODE). -/
def fleetMode (s : State) : Bool := ron s 0 CHR_CTL_MODE

/-- The current watch number (R346). -/
def watchNo (s : State) : Word := BitVec.ofNat 32 (rget s 0 CHR_WATCH_WATCH)

/-- Whether watch `a` is later than watch `b` (R346). -/
def laterWatch (a b : Word) : Bool :=
  decide (1 ≤ (a - b).toNat) && decide ((a - b).toNat ≤ 2 ^ 31 - 1)

/-- Nominal watch length in 5 ns units (R343). -/
def watchLen (s : State) : Nat := rget s 0 CHR_WLEN_L

/-! ### Time -/

/-- How many orders of Table 18.2 are released; the tick runs once the PLL domain, order 2, is (R338). -/
def tickRuns (s : State) : Bool := decide (2 ≤ s.rst.domains)

/-- Whether Binnacle's island, with Lodestar, is released: order 1. -/
def islandUp (s : State) : Bool := decide (1 ≤ s.rst.domains)

/-- Whether Binnacle's firmware runs: its island is released, its core is not halted (R431), and BCK, from which it runs,
is there (R404, R411). -/
def binnacleRuns (s : State) : Bool := islandUp s && !s.bnc.halted && ron s 0 CLK_STATUS_BCK_OK

/-- Time after `n` tile cycles, 5/6 ns each. -/
def elapse (s : State) (n : Nat) : State :=
  if tickRuns s then
    { s with cyc := s.cyc + n, tick := s.tick + (s.tfrac + 5 * n) / 6, tfrac := (s.tfrac + 5 * n) % 6 }
  else { s with cyc := s.cyc + n }

/-- Time at tile cycle `c`, or unchanged when that has passed. -/
def elapseTo (s : State) (c : Nat) : State := elapse s (c - s.cyc)

/-- Time at Chronometer tick `b`, or unchanged when that has passed: the tile cycles up to it pass. -/
def elapseToTick (s : State) (b : Nat) : State :=
  if b ≤ s.tick || !tickRuns s then s
  else { s with tick := b, tfrac := 0, cyc := s.cyc + ceilDiv (6 * (b - s.tick) - s.tfrac) 5 }

/-- Time `n` nanoseconds later. -/
def elapseNs (s : State) (n : Nat) : State := elapseToTick s (s.tick + n)

/-! ### Tiles by name (R13, R309) -/

/-- Key of the tile at a physical site of a stack. -/
def tileKey (k site : Nat) : Nat := k * 512 + site

/-- The physical site of logical tile `l` of stack `k` (STK_RT_MAP_n), if mapped. -/
def siteOf (s : State) (k l : Nat) : Option Nat :=
  if l % 2 = 0 then
    if ron s k STK_RT_MAP_VALID0 (l / 2) then some (rget s k STK_RT_MAP_SITE0 (l / 2)) else none
  else
    if ron s k STK_RT_MAP_VALID1 (l / 2) then some (rget s k STK_RT_MAP_SITE1 (l / 2)) else none

/-- The logical tile at a physical site, if one is mapped to it. -/
def logicalOf (s : State) (k site : Nat) : Option Nat := (List.range 480).find? fun l => siteOf s k l == some site

/-- The tile at a physical site. -/
def tileAt (s : State) (k site : Nat) : Tile := mapGet (fun _ => Tile.reset) s.tiles (tileKey k site)

/-- The machine with that tile replaced. -/
def putTile (s : State) (k site : Nat) (t : Tile) : State :=
  { s with tiles := mapSet (fun _ => Tile.reset) s.tiles (tileKey k site) t }

/-- The tick of the current watch start. -/
def watchStart (s : State) : Nat := rget s 0 CHR_WSTART_LO_TICK + rget s 0 CHR_WSTART_HI_TICK * 2 ^ 32

/-- The tick of the next boundary: B + L + X (R343). -/
def nextBoundary (s : State) : Nat := watchStart s + 5 * (watchLen s + rget s 0 CHR_STRETCH_X)

/-- The first cycle from `c` on that begins an array cycle of stack `k`: its array dividers run in step with the phase
that started when its tiles were released (R345). -/
def arrayCycleFrom (s : State) (k c : Nat) : Nat := c + (3 + (stkOf s k).phase % 3 - c % 3) % 3

/-- The restart of the current watch's slot count in stack `k`'s tiles (R345). -/
def slotZero (s : State) (k : Nat) : Nat := arrayCycleFrom s k s.slot0

/-- The restart of the next watch's slot count as far as the present ticks show it. -/
def nextZero (s : State) (k : Nat) : Nat :=
  arrayCycleFrom s k (s.cyc + ceilDiv (6 * (nextBoundary s - s.tick) - s.tfrac) 5 + 16)

/-- The dog slots that SXT_DOG and SXT_DOGPER place in watch `w`, after its restart (R185). -/
def placedDogs (d : StackSt) (w : Word) : List Nat :=
  if w.toNat % max 1 (fldOf SXT_DOGPER_EVERY d.dogper) = 0 then
    (List.range (fldOf SXT_DOG_COUNT d.dog)).map fun i =>
      fldOf SXT_DOG_FIRST d.dog + i * fldOf SXT_DOGPER_PERIOD d.dogper
  else []

/-- The starts, after the slot-count restart, of the dog slots of stack `k` in the current watch and the placed ones of the
next, which an array cycle of this watch may reach (R89, R185, R193). -/
def dogStarts (s : State) (k : Nat) : List Nat :=
  let d := stkOf s k
  placedDogs d (watchNo s) ++ (if d.demandSlot then [6 * watchLen s] else [])
    ++ (placedDogs d (watchNo s + 1)).map fun x => nextZero s k - slotZero s k + x

/-- What a tile sees of the module at the present cycle. -/
def ctxOf (s : State) (r : TileRef) : Ctx :=
  ⟨s.cyc, slotZero s r.stack.toNat, 6 * watchLen s, dogStarts s r.stack.toNat, r, moduleNo s⟩

/-- The report of a tile fault that `t1` has and `t0` had not (R145). -/
def faultReports (t0 t1 : Tile) (r : TileRef) : List Report :=
  if tget t0 TIL_FAULT_VALID = 0 ∧ tget t1 TIL_FAULT_VALID = 1 then [.tileFault r] else []

/-! ### Packets (R294, R295, R320, R323) -/

/-- Fields of a global address (Table 13.4). -/
def addrModule (d : Dword) : BitVec 10 := BitVec.ofNat 10 (bitsOf d.toNat 54 10)
def addrStack (d : Dword) : Nat := bitsOf d.toNat 51 3
def addrRegion (d : Dword) : Nat := bitsOf d.toNat 48 3
def addrOff (d : Dword) : Nat := bitsOf d.toNat 0 48
def addrTile (d : Dword) : Nat := bitsOf d.toNat 39 9
def addrLocal (d : Dword) : Nat := bitsOf d.toNat 0 39

/-- The global address of region-1 tile-local offset `off`. -/
def tileAddr (m : BitVec 10) (r : TileRef) (off : Nat) : Dword :=
  BitVec.ofNat 64 (m.toNat * 2 ^ 54 + r.stack.toNat * 2 ^ 51 + 2 ^ 48 + r.tile.toNat * 2 ^ 39 + off)

/-- The virtual channel of a packet (Table 12.2). -/
def pktChannel (p : Packet) : Nat :=
  match p.op with
  | .arrive | .control => 0
  | .add32 | .add64 | .ladd => 1
  | .completion => if p.reduction then 1 else 2
  | .put | .get | .cas64 | .mput | .getData => 2
  | .regAccess | .hail | .numbers => 3

/-- How many flits a packet is (R294, R304, R332); an MPUT is its list flit and the flits of its payload
(notes/assumptions/87.md). -/
def pktFlits (p : Packet) : Nat :=
  match p.op with
  | .arrive | .control | .completion | .get => 1
  | .mput => 1 + ceilDiv (p.data.length + 32) 256
  | _ => ceilDiv (p.data.length + 32) 256

/-- The flit counter of a channel (Table 12.5). -/
def flitCounter (c : Nat) : Fld :=
  if c = 0 then STK_FLITS_VC0 else if c = 1 then STK_FLITS_VC1 else if c = 2 then STK_FLITS_VC2 else STK_FLITS_VC3

/-- The choice of the committed routing table for a destination module and class (R324): port, and the class it leaves
in. -/
def routeChoice (s : State) (m : Nat) (upper : Bool) : Option (Nat × Bool) :=
  let w := mapGet (fun _ => 0) s.fleet.rt m
  (List.range 4).findSome? fun i =>
    let port := bitsOf w.toNat (4 * i) 4
    let dl := bitOf w.toNat (20 + i)
    if bitOf w.toNat (16 + i) && decide (pget s port FLT_PORT_STATE = 4) && (!upper || !dl) then some (port, upper || dl)
    else none

/-- The stack in which a packet leaves this module's meshes: that of its destination address, or the attach stack of the
port it takes to another module (R298, R324). -/
def exitStack (s : State) (p : Packet) : Option Nat :=
  if addrModule p.dest = moduleNo s then some (addrStack p.dest)
  else (routeChoice s (addrModule p.dest).toNat p.upper).map fun q => portStack q.1

/-- The stacks that a packet enters after stack `k` on its way to stack `j`, at most `fuel` of them (R298). -/
def crossedStacks : Nat → (k j : Nat) → List Nat
  | 0, _, _ => []
  | fuel + 1, k, j =>
    if k = j then []
    else
      let n := if k % 4 < j % 4 then k + 1 else if j % 4 < k % 4 then k - 1 else j
      n :: crossedStacks fuel n j

/-- What the waits of flits on a channel, which entered at stack `k0`, leave in stack `k`'s routing registers (R297,
Table 12.7): free values, since credits and arbitration are left out (notes/assumptions/17.md). -/
def noteWaits (s : State) (k0 k ch : Nat) : State :=
  let n := 8 * rget s k0 (flitCounter ch) + k0
  let s1 := if 2 ≤ ch then rbump s k STK_STARVE (Config.starved k n s.cyc) else s
  let s2 :=
    if ch = 0 then
      rput (rput s1 k STK_WPWAIT_MESH (max (rget s1 k STK_WPWAIT_MESH) (min 255 (Config.waitMesh k n s.cyc)))) k STK_WPWAIT_XING
        (max (rget s1 k STK_WPWAIT_XING) (min 255 (Config.waitXing k n s.cyc)))
    else s1
  if Config.creditFault k n s.cyc then rset s2 k STK_NOC_FAULT_CREDIT else s2

/-- `n` flits of a channel enter the network at stack `k` (notes/assumptions/16.md: each flit is counted where it enters). -/
def countFlits (s : State) (k ch n : Nat) : State := noteWaits (rbump s k (flitCounter ch) n) k k ch

/-- `n` flits of a channel go from stack `k` to stack `j`, and may wait in each stack on their way (R297, R298). -/
def crossFlits (s : State) (k j ch n : Nat) : State :=
  (crossedStacks 4 k j).foldl (fun s x => noteWaits s k x ch) (countFlits s k ch n)

/-- A packet enters the network at stack `k`. -/
def sendPacket (s : State) (k : Nat) (p : Packet) : State :=
  crossFlits { s with net := s.net ++ [p] } k ((exitStack s p).getD k) (pktChannel p) (pktFlits p)

/-- Packets enter the network at stack `k`, in order. -/
def sendPackets (s : State) (k : Nat) (ps : List Packet) : State := ps.foldl (fun s p => sendPacket s k p) s

/-- The address to which an operation's completion goes (Table 13.7, DEST): the issuer's module and stack with
region 1 and its tile; for a part of a stack, region 2 of its stack. -/
def issuerAddr (s : State) (src : Source) : Dword :=
  match src with
  | .tile m r => tileAddr m r 0
  | .helm m k _ => BitVec.ofNat 64 (m.toNat * 2 ^ 54 + k.toNat * 2 ^ 51 + 2 * 2 ^ 48 + 0x30000)
  | .sextant k => BitVec.ofNat 64 ((moduleNo s).toNat * 2 ^ 54 + k.toNat * 2 ^ 51 + 2 * 2 ^ 48 + 0x10000)
  | .walker k => BitVec.ofNat 64 ((moduleNo s).toNat * 2 ^ 54 + k.toNat * 2 ^ 51 + 2 * 2 ^ 48 + 0x20000)
  | _ => 0

/-- Whether an operation travels as reduction flits (R304). -/
def isReduction (op : PktOp) : Bool := op == .add32 || op == .add64 || op == .ladd

/-- The completion of an operation (R170, R329): the issuer's tag and TURN, a status, the SAT bit, and the target that
names the branch or flit it completes. It starts in the lower class, and an acknowledgement of a reduction flit travels on
channel 1 (R324, Table 12.2). -/
def completionOf (s : State) (p : Packet) (st : Status) (sat : Bool) (data : List Byte) : Packet :=
  { p with
    op := if (p.op = .get ∧ st = .ok) then .getData else .completion
    dest := issuerAddr s p.src
    status := st
    sat := sat
    data := data
    len := if p.op = .get then p.len else data.length
    upper := false
    port := none
    reduction := isReduction p.op }

/-- The destination completes an operation: its packet leaves the network and its completion enters it. -/
def complete (s : State) (k : Nat) (p : Packet) (st : Status) (sat : Bool) (data : List Byte) : State :=
  sendPacket { s with net := s.net.erase p } k (completionOf s p st sat data)

end Sys2Proof.Machine
end

