-- ==== Sys2Proof/Machine/LogOps.lean ====
section
/-!
DEFINITION. The log (R377, R378, Tables 16.2 and 16.3): events counted against units, the thresholds at which a unit
becomes lasting, and the effects of a lasting unit that come about at once in a tile.
-/

namespace Sys2Proof.Machine

/-- An event that no unit carries is recorded by kind and tick (notes/assumptions/40.md). -/
def logExtra (s : State) (kind : Nat) : State :=
  { s with log := { s.log with extra := s.log.extra ++ [(kind, s.tick)] } }

/-- A hop timeout is recorded with the port or crossing at which it expired (class 9 of Table 16.1). -/
def logHop (s : State) (l : LinkRef) : State :=
  logExtra { s with log := { s.log with hops := s.log.hops ++ [(l, s.tick)] } } 9

/-- The number of transient events in a window above which a unit of the kind is lasting (Table 16.2); a Helm has no
transient event. -/
def transLimit (kind : Nat) : Option Nat :=
  match kind with
  | 1 => some 4096
  | 2 => some 8
  | 3 => some 1024
  | 4 => some 1024
  | 5 => some 65536
  | 6 => some 1024
  | _ => none

/-- The number of repeated events at which a unit of the kind is lasting (Table 16.2). -/
def repeatLimit (kind : Nat) : Nat :=
  match kind with
  | 1 => 65
  | 5 => 2
  | 7 => 2
  | _ => 1

/-- Length of a window bucket in ns: an eighth of 1 h or 24 h (R378). -/
def bucketLength (kind : Nat) : Nat :=
  if kind = 2 ∨ kind = 5 ∨ kind = 7 then 10800000000000 else 450000000000

/-- The entry of a unit without events. -/
def LogEntry.blank (u : UnitRef) : LogEntry where
  unit := u
  st := 0
  local_ := false
  stress := 0
  cause := 0
  trans := 0
  repeats := 0
  tick := 0
  tb := List.replicate 8 0
  rb := List.replicate 8 0

/-- Whether the counts of an entry's window make its unit lasting (R377). -/
def LogEntry.over (e : LogEntry) : Bool :=
  (match transLimit e.unit.kind.toNat with
    | some n => decide (n < e.tb.foldl (· + ·) 0)
    | none => false)
  || decide (repeatLimit e.unit.kind.toNat ≤ e.rb.foldl (· + ·) 0)

/-- Element 0 of a bucket list raised by `n`, held to `lim`. -/
def bumpBucket (lim n : Nat) (l : List Nat) : List Nat := l.set 0 (min lim (nth l 0 + n))

/-- An entry after `n` events, transient or repeated, at a tick (Table 16.3). -/
def LogEntry.count (e : LogEntry) (repeated : Bool) (n cause tick : Nat) (early : Bool) : LogEntry :=
  let e1 := { e with cause := cause, tick := tick, local_ := early }
  if repeated then { e1 with repeats := min (2 ^ 32 - 1) (e.repeats + n), rb := bumpBucket 255 n e.rb }
  else { e1 with trans := min (2 ^ 32 - 1) (e.trans + n), tb := bumpBucket 65535 n e.tb }

/-- The entry of a unit in the working copy. -/
def logEntryOf (s : State) (u : UnitRef) : Option LogEntry := s.log.entries.find? fun e => e.unit == u

/-- A list of entries with that of `e.unit` replaced, or added at its end. -/
def putEntry (l : List LogEntry) (e : LogEntry) : List LogEntry :=
  if l.any (fun x => x.unit == e.unit) then l.map fun x => if x.unit = e.unit then e else x else l ++ [e]

/-- Entries of 64 bytes that one half of the 32 MiB log area holds. -/
def norHalf : Nat := 262144

/-- An entry of the working copy is appended to the log area; once the half in use is full, the current entries are written
into the erased half and the old half is erased (R378). -/
def appendNor (g : LogSt) (e : LogEntry) : LogSt :=
  let rest := g.changed.filter fun u => u != e.unit
  if g.norUsed < norHalf then { g with nor := putEntry g.nor e, norUsed := g.norUsed + 1, changed := rest }
  else { g with nor := g.entries, norUsed := g.entries.length, norUpper := !g.norUpper, changed := [] }

/-- The working copy with an entry changed; an entry that turns lasting is appended to NOR at once (R378). -/
def storeEntry (s : State) (e : LogEntry) (atOnce : Bool) : State :=
  let g := s.log
  let g1 := { g with
    entries := putEntry g.entries e
    changed := if g.changed.contains e.unit then g.changed else g.changed ++ [e.unit] }
  { s with log := if atOnce then appendNor g1 e else g1 }

/-- `n` events of a unit (R377, R378): the machine, and whether the unit has just become lasting. A unit lasting or
retired stays so. -/
def logCount (s : State) (u : UnitRef) (repeated : Bool) (n cause : Nat) : State × Bool :=
  let e0 := (logEntryOf s u).getD (LogEntry.blank u)
  let e1 := e0.count repeated n cause s.tick (!ron s 0 CHR_STATUS_ALIGNED)
  let turns := e1.over && (decide (e0.st = 0) || decide (e0.st = 2))
  (storeEntry s (if turns then { e1 with st := 1 } else e1) turns, turns)

/-- Every changed entry appended to NOR: every 60 s and at an orderly stop (R378). -/
def logFlush (s : State) : State :=
  { s with log := (s.log.entries.filter fun e => s.log.changed.contains e.unit).foldl appendNor s.log }

/-! ### Units -/

/-- The unit of a tile at its site (Table 16.2). -/
def tileUnit (k site : Nat) : UnitRef := ⟨2, BitVec.ofNat 3 k, site⟩
/-- The unit of a column group `g` of a tile's site. -/
def groupUnit (k site g : Nat) : UnitRef := ⟨1, BitVec.ofNat 3 k, 292 * site + g⟩
/-- The unit of a lane of a fleet port. -/
def fleetLaneUnit (port lane : Nat) : UnitRef := ⟨3, 0, 8 * port + lane⟩
/-- The unit of a Vilger lane. -/
def vilgerLaneUnit (lane : Nat) : UnitRef := ⟨4, 0, lane⟩
/-- The unit of a DRAM channel. -/
def dramUnit (k ch : Nat) : UnitRef := ⟨5, BitVec.ofNat 3 k, ch⟩
/-- The unit of a crossing channel. -/
def crossingUnit (ch : Nat) : UnitRef := ⟨6, 0, ch⟩
/-- The unit of a stack's Helm. -/
def helmUnit (k : Nat) : UnitRef := ⟨7, BitVec.ofNat 3 k, 0⟩

/-! ### Tiles -/

/-- The tile at a site becomes demotion-pending, unless it is demoted (R95, Table 16.2). -/
def pendDemotion (s : State) (k site : Nat) : State :=
  let t := tileAt s k site
  putTile s k site { t with demotePend := t.demotePend || !t.demoted }

/-- `n` events of a tile's own unit; a lasting tile is demotion-pending. -/
def tileEvent (s : State) (k site : Nat) (repeated : Bool) (n cause : Nat) : State :=
  let r := logCount s (tileUnit k site) repeated n cause
  if r.2 then pendDemotion r.1 k site else r.1

/-- An event of a column group; a lasting ADC group makes its tile demotion-pending (R95). -/
def groupEvent (s : State) (k site g : Nat) (repeated : Bool) : State :=
  let r := logCount s (groupUnit k site g) repeated 1 0
  if r.2 && decide (164 ≤ g) then pendDemotion r.1 k site else r.1

/-- The column groups of a check event in segment `seg` (R181): the line groups of its columns and the ADC groups that
converted them, since a check does not tell a line from its ADC (DESIGN CHOICE, notes/assumptions/104.md). -/
def eventGroups (e : CheckEvent) : List Nat :=
  ((List.range 41).filterMap fun j => if e.cols.any fun c => c / 16 == j then some (41 * e.seg + j) else none)
    ++ (List.range 32).filterMap fun h => if e.adcs.any fun a => a / 16 == h then some (164 + 32 * e.seg + h) else none

/-- A check event of a tile enters the log (class 1 of Table 16.1): each line group and ADC group that it lies
in counts one event, and a repeated event names its lines for the next bring-up. -/
def logCheck (k site : Nat) (s : State) (e : CheckEvent) : State :=
  let s1 := (eventGroups e).foldl (fun s g => groupEvent s k site g e.repeated) s
  if e.repeated then
    let ls := e.cols.map fun c => (k, site, e.seg, c)
    { s1 with log := { s1.log with lines := s1.log.lines ++ ls.filter fun l => !s1.log.lines.contains l } }
  else s1

/-- The tile's check events since the last time enter the log. -/
def drainChecks (s : State) (k site : Nat) : State :=
  let t := tileAt s k site
  if t.events.isEmpty then s
  else t.events.foldl (logCheck k site) (putTile s k site { t with events := [] })

end Sys2Proof.Machine
end

