-- ==== Sys2Proof/Machine/RunOps.lean ====
section
/-!
DEFINITION. The one path by which an engine's instruction runs on the machine, and changes of one tile.
-/

namespace Sys2Proof.Machine

/-- The tile named `r` runs `g`; packets it sends enter the network, a new tile fault is reported, its check events
enter the log, and time stands where the outcome does. -/
def onTile (s : State) (r : TileRef) (g : Ctx → Tile → Tile × List Packet × Nat) : State :=
  match siteOf s r.stack.toNat r.tile.toNat with
  | none => s
  | some site =>
    let t := tileAt s r.stack.toNat site
    let q := g (ctxOf s r) t
    let s1 := elapseTo (putTile s r.stack.toNat site q.1) q.2.2
    let s2 := { s1 with reports := s1.reports ++ faultReports t q.1 r }
    drainChecks (sendPackets s2 r.stack.toNat q.2.1) r.stack.toNat site

/-- Engine `e` reaches the instruction of an Issue with opcode `op`. -/
def runIssue (s : State) (e : Engine) (op : Nat) (i : Issue) (phased : Bool) (u : OpUnit) : State :=
  onTile (elapse s i.dt) i.tile fun c t => reach c t e op i.enc phased u

/-- The tile named `r` changes by `g` at the present cycle, its pending effects up to now first. -/
def changeTile (s : State) (r : TileRef) (g : Ctx → Tile → Tile) : State :=
  onTile s r fun c t => (bankTokens (g c (settle c.now t)) c.now, [], c.now)

/-- The report of a tile fault at a physical site that `t1` has and `t0` had not, under the site's logical tile (R145). -/
def siteReports (s : State) (k site : Nat) (t0 t1 : Tile) : List Report :=
  if tget t0 TIL_FAULT_VALID = 0 ∧ tget t1 TIL_FAULT_VALID = 1 then
    match logicalOf s k site with
    | some l => [.tileFault ⟨BitVec.ofNat 3 k, BitVec.ofNat 9 l⟩]
    | none => []
  else []

/-- The tile at a physical site changes by `g`, its pending effects up to now first; faults that these raise are reported
and its check events enter the log. -/
def changeSite (s : State) (k site : Nat) (g : Tile → Tile) : State :=
  let t := tileAt s k site
  let t0 := settle s.cyc t
  let s1 := putTile s k site (g t0)
  drainChecks { s1 with reports := s1.reports ++ siteReports s k site t t0 ++ siteReports s k site t0 (g t0) } k site

/-- Every mapped site of stack `k`: logical tile and site. -/
def mappedTiles (s : State) (k : Nat) : List (Nat × Nat) :=
  (List.range 480).filterMap fun l => (siteOf s k l).map fun site => (l, site)

end Sys2Proof.Machine
end

