-- ==== Sys2Proof/Machine/Array.lean ====
section
/-!
DEFINITION. The Array engine's instructions (R160): reaching one.
-/

namespace Sys2Proof.Machine

/-- ARR.MVM: converts one input vector into an accumulator row (R74, R160). `lv` are the levels off their nominal
counts. -/
def execArrMvm (i : Issue) (lv : List Level) (s : State) : Host.Outcome State Fault Refusal :=
  .next (runIssue s .arr 8 i true (mvmUnit i.enc lv))

/-- ARR.RETRY: re-converts the oldest retry entry (R77, R160). -/
def execArrRetry (i : Issue) (lv : List Level) (s : State) : Host.Outcome State Fault Refusal :=
  .next (runIssue s .arr 9 i true (retryUnit lv))

/-- ARR.BANK: selects a bank (R86, R160). -/
def execArrBank (i : Issue) (s : State) : Host.Outcome State Fault Refusal :=
  .next (runIssue s .arr 10 i false (bankUnit i.enc))

/-- ARR.MODE: exact or bounded mode (R67, R160). -/
def execArrMode (i : Issue) (s : State) : Host.Outcome State Fault Refusal :=
  .next (runIssue s .arr 11 i false (modeUnit i.enc))

end Sys2Proof.Machine
end

