-- ==== Sys2Proof/Machine/Control.lean ====
section
/-!
DEFINITION. The common control instructions of every engine (R157, R158): reaching one.
-/

namespace Sys2Proof.Machine

/-- e.NOP: no work (R157). -/
def execNop (e : Engine) (i : Issue) (s : State) : Host.Outcome State Fault Refusal :=
  .next (runIssue s e 0 i false nopUnit)

/-- e.SETR: REG := IMM (R157). -/
def execSetr (e : Engine) (i : Issue) (s : State) : Host.Outcome State Fault Refusal :=
  .next (runIssue s e 1 i false (setrUnit e i.enc))

/-- e.SETRH: GP[REG][63:48] := IMM[15:0] (R157). -/
def execSetrh (e : Engine) (i : Issue) (s : State) : Host.Outcome State Fault Refusal :=
  .next (runIssue s e 2 i false (setrhUnit e i.enc))

/-- e.ADDR: GP[A] := GP[B] + GP[C] + EXT (R157). -/
def execAddr (e : Engine) (i : Issue) (s : State) : Host.Outcome State Fault Refusal :=
  .next (runIssue s e 3 i false (addrUnit e i.enc))

/-- e.JUMP: the next instruction is at ring index TARGET (R157). -/
def execJump (e : Engine) (i : Issue) (s : State) : Host.Outcome State Fault Refusal :=
  .next (runIssue s e 4 i false (jumpUnit e i.enc))

/-- e.LOOP: SB and LC change, and a branch while LC is above 1 (R158). -/
def execLoop (e : Engine) (i : Issue) (s : State) : Host.Outcome State Fault Refusal :=
  .next (runIssue s e 5 i false (loopUnit e i.enc))

/-- e.NEXTW: waits for the first tile cycle of the next watch and clears SB there (R158). -/
def execNextw (e : Engine) (i : Issue) (s : State) : Host.Outcome State Fault Refusal :=
  let s1 := changeTile (elapse s i.dt) i.tile fun c t => markNextw c.slot0 e i.enc t
  .next (runIssue s1 e 6 { i with dt := 0 } false (nextwUnit e))

/-- e.HALT: the engine stops until its TIL_ENG_PC is written and RUN set (R157, R482). -/
def execHalt (e : Engine) (i : Issue) (s : State) : Host.Outcome State Fault Refusal :=
  .next (runIssue s e 7 i false (haltUnit e))

end Sys2Proof.Machine
end

