-- ==== Sys2Proof/Machine/SextantBase.lean ====
section
/-!
DEFINITION. What Sextant works on (R179 to R200): tile records and their copies, column groups, the work of a tile's
calibration sequencer, and the sights that a bank write disturbs.
-/

namespace Sys2Proof.Machine

/-! ### Tile records (R196, Table 7.5) -/

/-- Address of a tile record in a deviation table. -/
def recordBase (site : Nat) : Nat := 64 + 12032 * site

/-- The trims of a record: byte offsets 64 to 12,031 with their targets. -/
def recordTargets (m : Mem) (site : Nat) : SMap Int :=
  (m.filter fun p => decide (recordBase site + 64 ≤ p.1) && decide (p.1 < recordBase site + 12032)).filterMap fun p =>
    if p.2 = 0 then none else some (p.1 - recordBase site, signed 8 p.2.toNat)

/-- The record of a site with the bytes at `off` replaced. -/
def putRecord (s : State) (k site off : Nat) (bs : List Byte) : State :=
  let d := stkOf s k
  putStk s k { d with table := memWrite d.table (recordBase site + off) bs }

/-- A table whose records hold their SITE and nothing else. -/
def blankTable : Mem :=
  ((List.range 480).flatMap fun site =>
    [(recordBase site, BitVec.ofNat 8 site), (recordBase site + 1, BitVec.ofNat 8 (site / 256))]).filter fun p => p.2 ≠ 0

/-! ### Persistent copies (R196 to R199) -/

/-- Bytes of a stack copy. -/
def tableSize : Nat := 5775424

/-- The CHECK of a stack copy. -/
def tableCheck (m : Mem) : Word := crc32c (memRead m 0 60 ++ memRead m 64 (tableSize - 64))

/-- Whether a persistent copy of stack `k` is valid (R197). -/
def copyValid (s : State) (k : Nat) (m : Mem) : Bool :=
  decide (leVal (memRead m 0 4) = 0x53585431) && decide (leVal (memRead m 4 2) = 1) && decide (leVal (memRead m 6 1) = k)
    && decide (leVal (memRead m 8 8) = s.lsr.fuses.serial.toNat) && decide (leVal (memRead m 32 2) = 480)
    && decide (leVal (memRead m 34 2) = 12032) && decide (leVal (memRead m 60 4) = (tableCheck m).toNat)

/-- SEQ of a copy. -/
def copySeq (m : Mem) : Word := BitVec.ofNat 32 (leVal (memRead m 16 4))

/-- The header of a copy of stack `k` with a SEQ, without CHECK (Table 7.4). -/
def copyHeader (s : State) (k : Nat) (seq : Word) : List Byte :=
  leBytes 4 0x53585431 ++ leBytes 2 1 ++ leBytes 2 k ++ leBytes 8 s.lsr.fuses.serial.toNat ++ leBytes 4 seq.toNat
    ++ leBytes 4 0 ++ leBytes 8 s.tick ++ leBytes 2 480 ++ leBytes 2 12032 ++ memRead (stkOf s k).table 36 16
    ++ leBytes 8 0

/-- The copy of the working table that a commit writes. -/
def newCopy (s : State) (k : Nat) (seq : Word) : Mem :=
  let m := memWrite (stkOf s k).table 0 (copyHeader s k seq ++ leBytes 4 0)
  memWrite m 60 (leBytes 4 (tableCheck m).toNat)

/-- Whether a commit of a stack writes copy B: the one that is not in force (R198). -/
def writesB (d : StackSt) : Bool :=
  match d.inforce with
  | some q => !q.1
  | none => false

/-- SEQ of the copy that a commit writes: one greater than that of the copy in force (R198). With none in force it is 1, of
copy A (DESIGN CHOICE, notes/assumptions/96.md). -/
def nextSeq (d : StackSt) : Word :=
  match d.inforce with
  | some q => q.2 + 1
  | none => 1

/-- A commit of stack `k`'s table (R198): the copy that is not in force is written and comes into force. -/
def commitTable (s : State) (k : Nat) : State :=
  let d := stkOf s k
  let toB := writesB d
  let seq := nextSeq d
  let m := newCopy s k seq
  let d1 := { d with inforce := some (toB, seq) }
  let s1 := putStk s k (if toB then { d1 with copyB := m } else { d1 with copyA := m })
  let s2 := rset s1 k (if toB then SXT_TBL_B_VALID else SXT_TBL_A_VALID)
  rput (rput (rput s2 k SXT_TBL_INFORCE (bit toB)) k SXT_TBL_CMTFAIL 0) k SXT_TBLSEQ_SEQ seq.toNat

/-- The copy that a commit was writing is erased: it is not valid (R199). -/
def spoilCopy (s : State) (k : Nat) : State :=
  let d := stkOf s k
  putStk s k (if writesB d then { d with copyB := [] } else { d with copyA := [] })

/-- A commit that failed twice: the old copy stays in force, the other is not valid, and the log has it (R198). -/
def failCommit (s : State) (k : Nat) : State :=
  let toB := writesB (stkOf s k)
  logExtra (rset (rput (spoilCopy s k) k (if toB then SXT_TBL_B_VALID else SXT_TBL_A_VALID) 0) k SXT_TBL_CMTFAIL) 13

/-- The end of stack `k`'s commit, successful or failed twice. -/
def endStackCommit (s : State) (k : Nat) (ok : Bool) : State :=
  rput (if ok then commitTable s k else failCommit s k) k SXT_STATUS_COMMIT 0

/-- SXT_STATUS.COMMIT of the stack whose automatic commit runs: the first that waits, unless a DEVTABLE_COMMIT runs
(R198: commits run one after another). -/
def showCommit (s : State) : State :=
  match s.bnc.commits, s.bnc.long with
  | k :: _, none => rset s k SXT_STATUS_COMMIT
  | _, _ => s

/-- An automatic commit of stack `k` is due (R198). -/
def askCommit (s : State) (k : Nat) : State :=
  showCommit { s with bnc := { s.bnc with commits := s.bnc.commits ++ [k] } }

/-- The automatic commit that runs ends (notes/assumptions/80.md). -/
def endAutoCommit (s : State) (ok : Bool) : State :=
  match s.bnc.commits with
  | [] => s
  | k :: r => showCommit (endStackCommit { s with bnc := { s.bnc with commits := r } } k ok)

/-- One commit of a DEVTABLE_COMMIT ends; Binnacle remembers one that failed. -/
def endMasked (s : State) (k : Nat) (ok : Bool) : State :=
  let s1 := endStackCommit s k ok
  { s1 with bnc := { s1.bnc with maskBad := s1.bnc.maskBad || !ok } }

/-- SXT_STATUS.COMMIT of the stack whose commit of a DEVTABLE_COMMIT runs: the first that is left. -/
def showMasked (s : State) : State :=
  match s.bnc.masked with
  | k :: _ => rset s k SXT_STATUS_COMMIT
  | [] => s

/-- A DEVTABLE_COMMIT goes on: its commits run one after another, and how many have ended by now, all but the last at
most, and with what outcome, is open (R198, notes/assumptions/80.md). -/
def passMasked (s : State) : State :=
  let l := s.bnc.masked
  if l.isEmpty then s
  else
    let n := (Config.freeWord s.free).toNat % l.length
    let w := Config.freeWord (s.free + 1)
    let s1 := (l.take n).zipIdx.foldl (fun s q => endMasked s q.1 (!w.getLsbD q.2)) { s with free := s.free + 2 }
    showMasked { s1 with bnc := { s1.bnc with masked := l.drop n } }

/-- The commit of a DEVTABLE_COMMIT that runs is cut off: the copy that it was writing is not valid (R199). -/
def spoilMasked (s : State) : State :=
  match s.bnc.masked with
  | k :: _ => spoilCopy s k
  | [] => s

/-- A reset takes away what a commit of stack `k` reads: the copy being written is not valid (R199), and a commit that
waits is dropped, of a DEVTABLE_COMMIT too. -/
def dropCommit (s : State) (k : Nat) : State :=
  let s1 := passMasked s
  let s2 := if s1.bnc.commits.head? = some k ∧ s1.bnc.long.isNone ∨ s1.bnc.masked.head? = some k then spoilCopy s1 k else s1
  showMasked (showCommit { s2 with bnc := { s2.bnc with
    commits := s2.bnc.commits.filter fun j => j != k
    masked := s2.bnc.masked.filter fun j => j != k
    maskBad := s2.bnc.maskBad || s2.bnc.masked.contains k } })

/-- The stacks that DEVTABLE_COMMIT names (Table 19.4). -/
def maskStacks (addr : BitVec 24) : List Nat :=
  let m := bitsOf addr.toNat 0 8
  stackNos.filter fun k => m == 0 || bitOf m k

/-- The commits of a DEVTABLE_COMMIT that are left end, with the outcome of each from a free value `w`; the last fails
if `fails` and no other has. -/
def endMasks (s : State) (w : Word) (fails : Bool) : State :=
  let l := s.bnc.masked
  let bad := fun (i : Nat) => fails && (w.getLsbD i
    || (decide (i + 1 = l.length) && !s.bnc.maskBad && !(List.range i).any fun j => w.getLsbD j))
  let s1 := l.zipIdx.foldl (fun s q => endMasked s q.1 (!bad q.2)) s
  { s1 with bnc := { s1.bnc with masked := [] } }

/-- A DEVTABLE_COMMIT, or the automatic commit that runs, is cut off by a reset or a loss of power (R199): some commits have
ended, one was being written, and the others have not begun. -/
def breakCommits (s : State) : State :=
  let s1 := spoilMasked (passMasked s)
  let s2 := match s1.bnc.commits.head?, s1.bnc.long with
    | some k, none => spoilCopy s1 k
    | _, _ => s1
  { s2 with bnc := { s2.bnc with commits := [], masked := [], maskBad := s2.bnc.maskBad || !s2.bnc.masked.isEmpty } }

/-- The choice of a stack's copies at bring-up: valid bits, the one in force, SEQ, and NOTBL (R197). Of two valid copies of
which neither SEQ is greater, A is taken (DESIGN CHOICE, notes/assumptions/97.md). -/
def chooseTable (s : State) (k : Nat) : State :=
  let d := stkOf s k
  let a := copyValid s k d.copyA
  let b := copyValid s k d.copyB
  let useB := b && (!a || laterWatch (copySeq d.copyB) (copySeq d.copyA))
  let own := if useB then some (true, copySeq d.copyB) else if a then some (false, copySeq d.copyA) else none
  let s1 := rput (rput (rput s k SXT_TBL_A_VALID (bit a)) k SXT_TBL_B_VALID (bit b)) k SXT_TBL_INFORCE (bit useB)
  let s2 := rput (putStk s1 k { stkOf s1 k with inforce := own }) k SXT_STATUS_NOTBL (bit (!a && !b))
  rput s2 k SXT_TBLSEQ_SEQ (match own with
    | some q => q.2.toNat
    | none => 0)

/-- The copy in force is loaded into SRAM; with none, every trim starts at 0 (R197). -/
def loadTable (s : State) (k : Nat) : State :=
  let d := stkOf s k
  putStk s k { d with table := match d.inforce with
    | some q => if q.1 then d.copyB else d.copyA
    | none => blankTable }

/-! ### Column groups and trims (R180, R181) -/

/-- Column groups of a tile: 164 line groups, then 128 ADC groups. -/
def tileGroups : Nat := 292

/-- Whether group `g` is a line group. -/
def isLineGroup (g : Nat) : Bool := decide (g < 164)

/-- Array cycles of a group in a fix or in a sight (Table 7.2). -/
def groupCost (fix : Bool) (g : Nat) : Nat := if isLineGroup g then (if fix then 384 else 128) else 256

/-- The target of reference generator `i` (Table 7.4). -/
def refTarget (m : Mem) (i : Nat) : Int := signed 8 (memByte m (36 + i)).toNat

/-- The applied trim of reference generator `i`. -/
def refApplied (d : StackSt) (i : Nat) : Int := mapGet (fun _ => 0) d.refs i

/-- Whether stack `k` has run a step since bring-up (R192). -/
def hasStepped (s : State) (k : Nat) : Bool := s.rst.firstStep.contains k

/-! ### The sequencer of a tile (R186, R187) -/

/-- The sequencer of a site. -/
def sequencer (s : State) (k site : Nat) : GroupWork := mapGet (fun _ => GroupWork.none) (stkOf s k).work site
def putSequencer (s : State) (k site : Nat) (w : GroupWork) : State :=
  let d := stkOf s k
  putStk s k { d with work := mapSet (fun _ => GroupWork.none) d.work site w }

/-- A group in hand, or one not begun. -/
def GroupWork.hand (w : GroupWork) (fix : Bool) (g : Nat) : GroupHand :=
  (w.hands.find? fun h => h.fix == fix && h.group == g).getD ⟨fix, g, 0, []⟩

/-- The sequencer without a group in hand. -/
def GroupWork.drop (w : GroupWork) (fix : Bool) (g : Nat) : GroupWork :=
  { w with hands := w.hands.filter fun h => !(h.fix == fix && h.group == g) }

/-- The sequencer with a group in hand. -/
def GroupWork.put (w : GroupWork) (h : GroupHand) : GroupWork :=
  { w.drop h.fix h.group with hands := (w.drop h.fix h.group).hands ++ [h] }

/-- Array cycles that a group still needs. -/
def GroupHand.need (h : GroupHand) : Nat := groupCost h.fix h.group - h.done

/-- Array cycles left in the dog slot at hand (R186). -/
def slotLeft (s : State) (w : GroupWork) : Nat := if s.cyc ≤ w.until_ then w.left else 0

/-! ### The work of a tile (R182, R189, R190, R193) -/

/-- Sites that a pass covers: mapped and not fenced, in the order of their logical tiles. -/
def passSites (s : State) (k : Nat) : List Nat :=
  ((mappedTiles s k).map fun q => q.2).filter fun site => decide (tget (tileAt s k site) TIL_CTL_FENCE = 0)

/-- The pending demand of a site. -/
def demandOf (s : State) (k site : Nat) : Option Demand := (stkOf s k).demands.find? fun x => x.site == site

/-- Groups of a site that the pass has finished. -/
def passCount (p : Pass) (site : Nat) : Nat := mapGet (fun _ => 0) p.done site

/-- Whether a site has a group of the pass in hand: one that has had array cycles, or one that the dog slot at hand holds. -/
def passInHand (s : State) (k : Nat) (p : Pass) (site : Nat) : Bool :=
  let w := sequencer s k site
  let h := w.hand true (passCount p site)
  decide (0 < h.done) || (decide (0 < slotLeft s w) && decide (h.need ≤ slotLeft s w)
    && (demandOf s k site).isNone && decide (passCount p site < tileGroups))

/-- The pass's next group for a site: after the references' measurement, and for an ADC group once the reference trim that
serves the site has reached its target (R182); of a pass that is to restart, only the group in hand (R190). -/
def passGroup (s : State) (k site : Nat) : Option Nat :=
  let d := stkOf s k
  match d.pass with
  | none => none
  | some p =>
    let n := passCount p site
    if !p.refsDone ∨ tileGroups ≤ n ∨ !(passSites s k).contains site ∨ (p.again && !passInHand s k p site) then none
    else if !isLineGroup n ∧ refApplied d (site / 30) ≠ refTarget d.table (site / 30) then none
    else some n

/-- The demand of the lowest logical tile with a pending demand: it is served first (R193). -/
def firstDemand (s : State) (k : Nat) : Option Demand :=
  (stkOf s k).demands.foldl (fun m x => match m with
    | some y => if x.tile < y.tile then some x else some y
    | none => some x) none

/-- A demand's next work. -/
def Demand.work (x : Demand) : Option (Bool × Nat) :=
  match x.toFix, x.toSight with
  | g :: _, _ => some (true, g)
  | [], g :: _ => some (false, g)
  | [], [] => none

/-- The demand work of a site. -/
def demandWork (s : State) (k site : Nat) : Option (Bool × Nat) :=
  match firstDemand s k with
  | some x => if x.site = site then x.work else none
  | none => none

/-- What a site's sequencer does next, in the priority order of Table 7.3: fix or sight, and the group. A tile with a demand
does nothing else, and waits while that of a lower tile is served (R189, R193, notes/assumptions/55.md). -/
def siteWork (s : State) (k site : Nat) : Option (Bool × Nat) :=
  let d := stkOf s k
  let bring := match d.pass with
    | some p => p.kinds.contains 1
    | none => false
  let pass := (passGroup s k site).map fun g => (true, g)
  let sight := match d.sight with
    | some q => if q.1 = site then some (false, q.2) else none
    | none => none
  if bring then pass
  else if (demandOf s k site).isSome then demandWork s k site
  else pass.or sight

/-! ### Sights and bank writes (R183, R188) -/

/-- The group that Sextant is sighting on a site, with the tile's banks: one in hand, or one that the dog slot at hand
still holds. -/
def sightReads (s : State) (k site : Nat) : Option Nat :=
  let w := sequencer s k site
  match siteWork s k site with
  | some (false, g) =>
    if isLineGroup g ∧ (0 < (w.hand false g).done ∨ (0 < slotLeft s w ∧ (w.hand false g).need ≤ slotLeft s w)) then some g
    else none
  | _ => none

/-- Whether a bank write has begun, between two states of a tile, on a bank that a sight reads: READY or ACTIVE. -/
def writeBegan (t0 t1 : Tile) (b : Bool) : Bool :=
  (decide ((bankOf t0 b).st = .ready) || decide ((bankOf t0 b).st = .active)) && decide ((bankOf t1 b).st = .writing)

/-- A bank write that starts on a bank that Sextant reads for a sight makes Sextant discard the group's results for that
bank. -/
def dropResults (k site : Nat) (t0 : Tile) (s : State) (b : Bool) : State :=
  match sightReads s k site with
  | some g =>
    if writeBegan t0 (tileAt s k site) b then
      let w := sequencer s k site
      rbump (putSequencer s k site (w.put { w.hand false g with dropped := (w.hand false g).dropped ++ [b] })) k SXT_DISCARD
    else s
  | none => s

/-- The same for both banks of the tile named `r`, which stood as `t0`. -/
def discardSight (s : State) (r : TileRef) (t0 : Tile) : State :=
  match siteOf s r.stack.toNat r.tile.toNat with
  | none => s
  | some site => [false, true].foldl (dropResults r.stack.toNat site t0) s

/-- The tile named `r`, if it is mapped. -/
def namedTile (s : State) (r : TileRef) : Tile :=
  match siteOf s r.stack.toNat r.tile.toNat with
  | some site => tileAt s r.stack.toNat site
  | none => Tile.reset

end Sys2Proof.Machine
end

