-- ==== Sys2Proof/Machine/Fetch.lean ====
section
/-!
DEFINITION. The Fetch engine's instructions (R159): reaching one.
-/

namespace Sys2Proof.Machine

/-- FET.LOAD: one transfer into tile store (R159). -/
def execFetLoad (i : Issue) (s : State) : Host.Outcome State Fault Refusal :=
  .next (runIssue s .fet 8 i false (loadUnit i.enc))

/-- FET.LOADS: a strided transfer into tile store (R159). -/
def execFetLoads (i : Issue) (s : State) : Host.Outcome State Fault Refusal :=
  .next (runIssue s .fet 9 i false (loadsUnit i.enc))

/-- FET.COPY: a copy within the tile store (R159). -/
def execFetCopy (i : Issue) (s : State) : Host.Outcome State Fault Refusal :=
  .next (runIssue s .fet 10 i false (copyUnit i.enc))

/-- FET.ZERO: zeros in tile store (R159). -/
def execFetZero (i : Issue) (s : State) : Host.Outcome State Fault Refusal :=
  .next (runIssue s .fet 11 i false (zeroUnit i.enc))

/-- FET.BANKW: streams a bank write (R80 to R87, R159, R188). -/
def execFetBankw (i : Issue) (s : State) : Host.Outcome State Fault Refusal :=
  .next (discardSight (runIssue s .fet 12 i false (bankwUnit i.enc)) i.tile (namedTile s i.tile))

end Sys2Proof.Machine
end

