-- ==== Sys2Proof/Machine/Plot.lean ====
section
/-!
DEFINITION. The Plot engine's instructions (R165, R166): reaching one.
-/

namespace Sys2Proof.Machine

/-- PLT.NORM: normalises rows (R166). -/
def execPltNorm (i : Issue) (s : State) : Host.Outcome State Fault Refusal :=
  .next (runIssue s .plt 8 i false (normUnit i.enc))

/-- PLT.SCORE: scores of a query over keys (R52, R166). -/
def execPltScore (i : Issue) (s : State) : Host.Outcome State Fault Refusal :=
  .next (runIssue s .plt 9 i false (scoreUnit i.enc))

/-- PLT.SOFTMAX: softmax of a score row (R53, R54). -/
def execPltSoftmax (i : Issue) (s : State) : Host.Outcome State Fault Refusal :=
  .next (runIssue s .plt 10 i false (softmaxUnit i.enc))

/-- PLT.VPROD: the weighted sum of values (R55). -/
def execPltVprod (i : Issue) (s : State) : Host.Outcome State Fault Refusal :=
  .next (runIssue s .plt 11 i false (vprodUnit i.enc))

/-- PLT.TOPK: the largest cells (R166). -/
def execPltTopk (i : Issue) (s : State) : Host.Outcome State Fault Refusal :=
  .next (runIssue s .plt 12 i false (topkUnit i.enc))

/-- PLT.SORT: sorts entries (R166). -/
def execPltSort (i : Issue) (s : State) : Host.Outcome State Fault Refusal :=
  .next (runIssue s .plt 13 i false (sortUnit i.enc))

/-- PLT.MERGE: the ordered union of two key lists (R166). -/
def execPltMerge (i : Issue) (s : State) : Host.Outcome State Fault Refusal :=
  .next (runIssue s .plt 14 i false (mergeUnit i.enc))

/-- PLT.ISECT: the ordered intersection of two key lists (R166). -/
def execPltIsect (i : Issue) (s : State) : Host.Outcome State Fault Refusal :=
  .next (runIssue s .plt 15 i false (isectUnit i.enc))

/-- PLT.GATHER: gathers elements (R166). -/
def execPltGather (i : Issue) (s : State) : Host.Outcome State Fault Refusal :=
  .next (runIssue s .plt 16 i false (gatherUnit i.enc))

/-- PLT.SCATTER: scatters elements (R166). -/
def execPltScatter (i : Issue) (s : State) : Host.Outcome State Fault Refusal :=
  .next (runIssue s .plt 17 i false (scatterUnit i.enc))

/-- PLT.HPROBE: probes a hash table (R166). -/
def execPltHprobe (i : Issue) (s : State) : Host.Outcome State Fault Refusal :=
  .next (runIssue s .plt 18 i false (hprobeUnit i.enc))

/-- PLT.RELAX: relaxes edges (R166). -/
def execPltRelax (i : Issue) (s : State) : Host.Outcome State Fault Refusal :=
  .next (runIssue s .plt 19 i false (relaxUnit i.enc))

/-- PLT.SAMPLE: draws a sample (R165). -/
def execPltSample (i : Issue) (s : State) : Host.Outcome State Fault Refusal :=
  .next (runIssue s .plt 20 i false (sampleUnit i.enc))

end Sys2Proof.Machine
end

