-- ==== Sys2Proof/Machine/Flags.lean ====
section
/-!
DEFINITION. Status that registers show without storing it, and how a write changes a register word: the access
codes of Table 0.3 and the lock bits.
-/

namespace Sys2Proof.Machine

/-! ### Writes by access code (R7, R8) -/

/-- What a write of `v` leaves in one field of the stored word `old` (Table 0.3). -/
def storeField (locked : Bool) (old v : Nat) (f : Fld) : Nat :=
  match f.acc with
  | .rw => putBits old f.lo f.width (bitsOf v f.lo f.width)
  | .rwl => if locked then old else putBits old f.lo f.width (bitsOf v f.lo f.width)
  | .w1c => putBits old f.lo f.width
      (bitsOf old f.lo f.width - (BitVec.ofNat 32 (bitsOf old f.lo f.width) &&& BitVec.ofNat 32 (bitsOf v f.lo f.width)).toNat)
  | .w1s => putBits old f.lo f.width
      (BitVec.ofNat 32 (bitsOf old f.lo f.width) ||| BitVec.ofNat 32 (bitsOf v f.lo f.width)).toNat
  | .ro => old
  | .wo => old

/-- What a write of `v` leaves in the register at offset `off`, of those whose fields are `fs`: reserved fields stay
0 (R8). -/
def storeWord (fs : List Fld) (locked : Bool) (off : Nat) (old v : Word) : Word :=
  BitVec.ofNat 32 (fs.foldl (fun w f => match fldIndex f off with
    | some _ => storeField locked w v.toNat f
    | none => w) old.toNat)

/-- A register word as it reads where nothing overrides it: write-only fields read 0 (Table 0.3). -/
def readWord (fs : List Fld) (off : Nat) (w : Word) : Word :=
  BitVec.ofNat 32 (fs.foldl (fun v f => match fldIndex f off with
    | some _ => if f.acc = .wo then putBits v f.lo f.width 0 else v
    | none => v) w.toNat)

/-! ### Tile status (Tables 3.10, 4.6, 4.8, 5.7, 5.12) -/

/-- Bank state codes (Table 3.10). -/
def bankCode : BankState → Nat
  | .invalid => 0
  | .writing => 1
  | .ready => 2
  | .active => 3

/-- The FMT that TIL_ARR_STATUS shows: 0 while the bank holds no complete write (DESIGN CHOICE for WRITING,
notes/assumptions/91.md). -/
def bankFmt (b : Bank) : Nat :=
  match b.st with
  | .ready => b.fmt
  | .active => b.fmt
  | _ => 0

/-- The state of an engine as TIL_STATUS shows it in cycle `now`: 3 while it waits for a static slot (Table 5.7). -/
def engState (slot0 now : Nat) (t : Tile) (e : Engine) : Nat :=
  match slotAt slot0 t e with
  | some k => if now < k && !t.stopped && tget t TIL_CTL_FENCE == 0 then 3 else (engOf t e).st % 4
  | none => (engOf t e).st % 4

/-- TIL_STATUS in cycle `now` of the watch whose slots count from `slot0`. -/
def tilStatus (slot0 now : Nat) (t : Tile) : Nat :=
  engineList.foldl (fun v e => v + engState slot0 now t e * 4 ^ engCode e) 0
    + bit t.clkOn * 2 ^ 10 + bit t.wakePend * 2 ^ 11 + tget t TIL_CTL_FENCE * 2 ^ 12 + tget t TIL_FAULT_VALID * 2 ^ 13

/-- TIL_TOKQ_n: the levels of queues 4n to 4n + 3; reserved identifiers read 0. -/
def tilTokq (t : Tile) (n : Nat) : Nat :=
  (List.range 4).foldl (fun v i =>
    v + (if (queueEnds (4 * n + i)).isSome then (queueOf t (4 * n + i)).toks.length else 0) * 256 ^ i) 0

/-- TIL_ARR_STATUS in cycle `now`. -/
def tilArrStatus (t : Tile) : Nat :=
  bankCode t.port.st + 4 * bankCode t.stbd.st + 16 * bankFmt t.port + 256 * bankFmt t.stbd
    + 4096 * bit (bankHeld t false) + 8192 * bit (bankHeld t true) + 16384 * bit t.bounded
    + 65536 * t.retryQ.length + 2 ^ 24 * bit t.demotePend + 2 ^ 25 * bit t.demoted

/-- TIL_SID_STATUS in cycle `now`. -/
def tilSidStatus (t : Tile) (now : Nat) : Nat :=
  bit (setOf t false).long + 2 * bit (draining t false now) + 4 * bit (setOf t true).long
    + 8 * bit (draining t true now) + 16 * bit (decide (now < t.pipeFree)) + 32 * bit (decide (now < t.laneFree))
    + 256 * t.recompQ.length

/-- What a tile-block offset reads as in cycle `now` of the watch whose slots count from `slot0`. -/
def tileView (t : Tile) (slot0 now off : Nat) : Word :=
  if off = 0x004 then BitVec.ofNat 32 (tilStatus slot0 now t)
  else if 0x0C0 ≤ off ∧ off ≤ 0x0D8 ∧ off % 4 = 0 then BitVec.ofNat 32 (tilTokq t ((off - 0x0C0) / 4))
  else if off = 0x400 then BitVec.ofNat 32 (tilArrStatus t)
  else if off = 0x800 then BitVec.ofNat 32 (tilSidStatus t now)
  else if off = 0x808 then BitVec.ofNat 32 t.rho
  else readWord tileFields off (tileReg t off)

/-! ### Status of the control region -/

/-- How many of a berth's contexts, or of all, are not FREE (HLM_STATUS.LIVE). -/
def liveContexts (s : State) : Nat := (s.serve.contexts.filter fun p => p.2.isSome).length

/-- Live requests of berth `b` that are bound to the version that it computes with and were not submitted with REBIND
(R285). -/
def blockingCount (s : State) (b : Nat) : Nat :=
  match (s.serve.berths.getD b Berth.reset).image with
  | some im => s.serve.contexts.countP fun q => match q.2 with
    | some x => x.berth == b && x.st != .ended && x.version == im.version && !x.rebind
    | none => false
  | none => 0

/-- HLM_XING.BLOCKING while a crossing is in progress, of the word that holds BERTH and PHASE. -/
def blockingContexts (s : State) (w : Nat) : Nat := if bitsOf w 4 2 = 0 then 0 else blockingCount s (bitsOf w 0 4)

/-- Valid map entries and failed-router entries (STK_RT_STATUS). -/
def mappedCount (s : State) (k : Nat) : Nat := (mappedTiles s k).length
def failedCount (s : State) (k : Nat) : Nat := countTrue ((List.range 8).map fun i => ron s k STK_RT_FAIL_VALID i)

/-- The life-cycle count: the highest blown LC row (R453). -/
def rowBlown (w : Word) : Bool := decide (16 ≤ popBits w)
def lcCount (u : Fuses) : Nat := (List.range 7).foldl (fun m i => if rowBlown (u.lcRows.getD i 0) then i + 1 else m) 0

/-- The life-cycle state code (Table 20.2). -/
def lcState (u : Fuses) : Nat :=
  if rowBlown u.decom then 4
  else match lcCount u with
    | 0 => 0
    | 1 => 1
    | n => if n % 2 = 0 then 2 else 3

/-- The bits of LSR_STATUS, LSR_SVN and LSR_FUSEREC that the fuses and TESTMODE give. -/
def lsrView (s : State) (off : Nat) (w : Word) : Word :=
  let u := s.lsr.fuses
  if off = 0x140004 then
    BitVec.ofNat 32 (putBits (putBits (putBits w.toNat 0 3 (lcState u)) 3 3 (lcCount u)) 6 1 (bit s.lsr.testmode))
  else if off = 0x140008 then BitVec.ofNat 32 u.minsvn
  else if off = 0x140040 then BitVec.ofNat 32 u.repair.length
  else if 0x140100 ≤ off ∧ off ≤ 0x14015C then
    if u.dik = 0 ∨ u.dik = BitVec.allOnes 384 then 0
    else (Config.ecdsaPublic u.dik).extractLsb' (736 - 32 * ((off - 0x140100) / 4)) 32
  else w

/-- What a register of the control region of stack `k` reads as. The Chronometer reads the same in every stack
(R356); Helm's registers of a stack that is not the lead's read 0, but for HLM_STATUS (R267, R292); a link die's
registers of die 0 alone read 0 on the others (R337, R373), and the state of Vilger Link, which its halves share, reads
the same in both (R359). -/
def reg2View (s : State) (k off : Nat) : Word :=
  let blk := off / 0x10000
  let plain := readWord (blockFields off) off (rword s k off)
  if blk = 4 then
    if off = 0x40008 then BitVec.ofNat 32 s.tick
    else if off = 0x4000C then s.chr.tickHi
    else if off = 0x40018 then s.chr.startHi
    else readWord (blockFields off) off (rword s 0 off)
  else if blk = 3 then
    if off = 0x30004 then BitVec.ofNat 32 (putBits plain.toNat 5 15 (if ron s k HLM_STATUS_LEAD then liveContexts s else 0))
    else if !ron s k HLM_STATUS_LEAD then 0
    else if off = 0x3011C then BitVec.ofNat 32 (putBits plain.toNat 8 15 (blockingContexts s plain.toNat))
    else plain
  else if off = 0x0004 then
    BitVec.ofNat 32 (putBits (putBits plain.toNat 0 9 (mappedCount s k)) 9 4 (failedCount s k))
  else if off = 0x2001C then
    BitVec.ofNat 32 ((stkOf s k).frames.length % 2 ^ 24 + 2 ^ 24 * min 255 (stkOf s k).deferred.length)
  else if blk = 0x10 then
    if (stackDie k).isNone then 0
    else if off = 0x100008 then BitVec.ofNat 32 s.lsr.fuses.serial.toNat
    else if off = 0x10000C then BitVec.ofNat 32 (s.lsr.fuses.serial.toNat / 2 ^ 32)
    else if k ≠ 0 then
      if off = 0x100010 ∨ off = 0x100018 ∨ off = 0x10001C ∨ off = 0x100020 ∨ (0x101000 ≤ off ∧ off ≤ 0x101FFC) then 0
      else if off = 0x100014 then BitVec.ofNat 32 (plain.toNat % 65536)
      else plain
    else plain
  else if blk = 0x11 then
    if k = 0 then
      if off = 0x110014 then
        let h := s.vil.halves.getD 0 VHalf.reset
        BitVec.ofNat 32 (min 65535 h.lines.length + 65536 * (h.lines.filter fun l => l.watched).length)
      else plain
    else if k = 4 then
      if off = 0x110000 then
        BitVec.ofNat 32 (putBits (putBits plain.toNat 1 8 0) 0 1 (rget s 0 LNK_CTL_EN))
      else if off = 0x110004 then readWord (blockFields off) off (rword s 0 off)
      else if 0x110020 ≤ off ∧ off ≤ 0x110068 then 0
      else if off = 0x110014 then
        let h := s.vil.halves.getD 1 VHalf.reset
        BitVec.ofNat 32 (min 65535 h.lines.length + 65536 * (h.lines.filter fun l => l.watched).length)
      else plain
    else 0
  else if 0x12 ≤ blk ∧ blk ≤ 0x15 then
    if k ≠ 0 then 0
    else if off = 0x120000 then BitVec.ofNat 32 (putBits plain.toNat 0 1 (bit (fleetMode s)))
    else if off = 0x120018 then BitVec.ofNat 32 s.log.entries.length
    else if off = 0x150018 then BitVec.ofNat 32 (putBits plain.toNat 16 12 s.pwr.queue.length)
    else if off = 0x130004 then BitVec.ofNat 32 (putBits plain.toNat 2 3 s.snd.urgent.length)
    else if blk = 0x14 then lsrView s off plain
    else plain
  else plain

/-! ### Pins (R445, R410) -/

/-- BALERT_N is low while an enabled alert is set. -/
def balertN (s : State) : Bool :=
  decide (rword s 0 0x120004 &&& rword s 0 0x120008 = 0)

/-- SAFE_N is low while SAFE is latched. -/
def safeN (s : State) : Bool := !ron s 0 CLK_STATUS_SAFE

end Sys2Proof.Machine
end

