-- ==== Sys2Proof/Machine/GovOps.lean ====
section
/-!
DEFINITION. Tile clocks and the ramp governor (R146 to R148, R398, R399): requests, their order, the budget, and what
a granted start or stop does to the tile.
-/

namespace Sys2Proof.Machine

/-- Tile cycles of WAKE_LEAD microseconds (R147, R148). -/
def leadCycles (t : Tile) : Nat := 1200 * tget t TIL_GATE_WAKE_LEAD

/-- The same, from what a tile sees of the module. -/
def slotOf (c : Ctx) (t : Tile) (e : Engine) : Option Nat := slotAt c.slot0 t e

/-- Whether an engine lets its tile's clock gate: RUN is 0, or it waits for a static slot more than WAKE_LEAD ahead
(R147). An idle engine at RUN = 1 does not, by the rule's words (notes/assumptions/78.md). -/
def engineGates (c : Ctx) (t : Tile) (e : Engine) : Bool :=
  decide (tget t TIL_CTL_RUN = 0) ||
    match slotOf c t e with
    | some k => decide (c.now + leadCycles t < k)
    | none => false

/-- The conditions under which a tile's clock gates off, but for their duration (R147). -/
def tileIdle (c : Ctx) (t : Tile) : Bool :=
  engineList.all (engineGates c t) && t.due.isEmpty && t.fetches.isEmpty && t.sigs.isEmpty && t.retryQ.isEmpty
    && t.recompQ.isEmpty && !decide (t.port.st = .writing) && !decide (t.stbd.st = .writing)
    && !draining t false c.now && !draining t true c.now

/-- The first cycle since which the tile has been idle (R147): the one after the last issue, retirement, completion, effect
or clearing of RUN. -/
def idleSince (t : Tile) : Nat := t.lastBusy + 1

/-- The earliest static slot of the tile's engines that has not passed (R148). -/
def nextSlot (c : Ctx) (t : Tile) : Option Nat :=
  (engineList.filterMap (slotOf c t)).foldl (fun m k =>
    if k < c.now then m else match m with
      | some x => some (min x k)
      | none => some k) none

/-! ### The queue -/

/-- Whether a request of the tile waits. -/
def govWaits (s : State) (start : Bool) (k l : Nat) : Bool :=
  s.pwr.queue.any fun q => q.start == start && q.stack == k && q.tile == l

/-- The machine without the tile's waiting request of a kind. -/
def govWithdraw (s : State) (start : Bool) (k l : Nat) : State :=
  { s with pwr := { s.pwr with
      queue := s.pwr.queue.filter fun q => !(q.start == start && q.stack == k && q.tile == l) } }

/-- A request enters the queue. -/
def govAdd (s : State) (start : Bool) (k l : Nat) : State :=
  { s with pwr := { s.pwr with queue := s.pwr.queue ++ [⟨start, k, l, s.tick, false⟩] } }

/-- Whether the stack is ON (R397). -/
def stackOnNow (s : State) (k : Nat) : Bool := ron s k PWR_STK_CTL_ON

/-- A tile asks for its clock to start (R148, R399): a stop that waits is withdrawn, and neither uses budget; a tile
of a stack that is off, fenced, in reset, or of a module that stops in order asks nothing. -/
def askStart (s : State) (k l : Nat) : State :=
  match siteOf s k l with
  | none => s
  | some site =>
    let t := tileAt s k site
    if t.clkOn then govWithdraw s false k l
    else if govWaits s true k l || !stackOnNow s k || t.inReset || decide (tget t TIL_CTL_FENCE = 1)
        || s.pwr.stopping then s
    else putTile (govAdd s true k l) k site { t with wakePend := true }

/-- A tile asks for its clock to stop (R147, R398, R399). -/
def askStop (s : State) (k l : Nat) : State :=
  match siteOf s k l with
  | none => s
  | some site =>
    if !(tileAt s k site).clkOn || govWaits s false k l || !stackOnNow s k then s else govAdd s false k l

/-- Whether request `a` is granted before `b`: oldest, then lower stack, then lower logical tile (R398). -/
def govBefore (a b : GovReq) : Bool :=
  decide (a.at_ < b.at_) || decide (a.at_ = b.at_) &&
    (decide (a.stack < b.stack) || decide (a.stack = b.stack) && decide (a.tile < b.tile))

/-- The request of a kind that the governor grants next. -/
def govNext (s : State) (start : Bool) : Option GovReq :=
  (s.pwr.queue.filter fun q => q.start == start).foldl (fun m q =>
    match m with
    | some x => if govBefore q x then some q else some x
    | none => some q) none

/-- The cap of a kind, in grants per microsecond: 0 or above 240 acts as 240 (PWR_GOV). -/
def govCap (s : State) (start : Bool) : Nat :=
  let v := rget s 0 (if start then PWR_GOV_START_CAP else PWR_GOV_STOP_CAP)
  if v = 0 ∨ 240 < v then 240 else v

/-- Whether the budget allows one more grant after grants at the ticks `g` (R398): at most n fortieths of the cap, rounded
up, in any 25 n ticks, so that a lowered cap is spread evenly over the microsecond (notes/assumptions/30.md). -/
def govRoom (s : State) (start : Bool) (g : List Nat) : Bool :=
  let cap := govCap s start
  (List.range 40).all fun i => decide ((g.countP fun x => s.tick < x + 25 * (i + 1)) < ceilDiv (cap * (i + 1)) 40)

/-- The grants that a later grant's budget still counts. -/
def govRecent (s : State) (g : List Nat) : List Nat := g.filter fun x => decide (s.tick < x + 1000)

/-- The requests of a kind that exceed the budget wait: PWR_DEFERRED counts each of them once (R398). -/
def govDefer (s : State) (start : Bool) : State :=
  let n := s.pwr.queue.countP fun q => q.start == start && !q.waited
  let s1 := rbump s 0 PWR_DEFERRED n
  { s1 with pwr := { s1.pwr with
    queue := s1.pwr.queue.map fun q => if q.start = start then { q with waited := true } else q } }

/-- After a grant: with the budget spent, the requests that remain wait. -/
def govRest (s : State) (start : Bool) : State :=
  if govRoom s start (if start then s.pwr.starts else s.pwr.stops) then s else govDefer s start

/-- A started engine whose static slot passed while the clock stood, in this watch or an earlier one, raises SLOTLATE when
the clock starts (R148); `t` is the tile with its clock still off. -/
def lateSlots (c : Ctx) (t : Tile) : Tile :=
  engineList.foldl (fun t e =>
    match slotOf c t e with
    | some k => if k < c.now then tileFault t .slotlate (engCode e) (pcOf t e) else t
    | none => t) t

/-- A granted start (R148): the clock runs. -/
def startClock (s : State) (q : GovReq) : State :=
  let s1 := rbump (govWithdraw s true q.stack q.tile) 0 PWR_STARTS
  let s2 := { s1 with pwr := { s1.pwr with starts := govRecent s s1.pwr.starts ++ [s.tick] } }
  changeTile s2 ⟨BitVec.ofNat 3 q.stack, BitVec.ofNat 9 q.tile⟩ fun c t =>
    tbump { busyAt (lateSlots c t) c.now with clkOn := true, wakePend := false } TIL_GATE_STARTS

/-- A granted stop (R147): the clock gates off. -/
def stopClock (s : State) (q : GovReq) : State :=
  let s1 := rbump (govWithdraw s false q.stack q.tile) 0 PWR_STOPS
  let s2 := { s1 with pwr := { s1.pwr with stops := govRecent s s1.pwr.stops ++ [s.tick] } }
  changeTile s2 ⟨BitVec.ofNat 3 q.stack, BitVec.ofNat 9 q.tile⟩ fun c t => { t with clkOn := false, gate0 := c.slot0 }

/-- Whether any mapped tile of a stack is clocked. -/
def anyClocked (s : State) (k : Nat) : Bool := (mappedTiles s k).any fun q => (tileAt s k q.2).clkOn

end Sys2Proof.Machine
end

