-- ==== Sys2Proof/Machine/PowerOps.lean ====
section
/-!
DEFINITION. Resets of the whole module, the hard trip, the safe state, stack power and the orderly stop
(R397, R400, R402, R410, R415 to R417, R440, R456, R460).
-/

namespace Sys2Proof.Machine

/-! ### Lodestar's secret set (R456, R460) -/

/-- Words `i` up of a list of register words written from offset `off` of stack 0. -/
def putWords (s : State) (off : Nat) (ws : List Word) : State :=
  ws.zipIdx.foldl (fun s q => setRword s 0 (off + 4 * q.2) q.1) s

/-- Lodestar after a clearing (R460): the DIK working copy is 0, and a second attempt that fails too locks everything
until a power-on reset. -/
def LodestarSt.cleared (v : LodestarSt) : LodestarSt :=
  { v with dikCopy := 0, pool := [], work := [], clears := v.clears + 1, zlock := v.zlock || decide (2 ≤ Config.clearMisses v.clears) }

/-- The secret set written zero and read back (R460): the staging words, the nonce and the DIK working copy; a word that
does not read back zero sets ZFAIL (notes/assumptions/65.md). -/
def clearSecrets (s : State) : State :=
  let s1 := putWords (putWords s 0x140080 (List.replicate 32 0)) 0x140020 (List.replicate 8 0)
  let s2 := rbump { s1 with lsr := s1.lsr.cleared } 0 LSR_ZEROISES
  if Config.clearMisses s.lsr.clears = 0 then s2 else rset s2 0 LSR_STATUS_ZFAIL

/-- A fresh nonce of eight words from the TRNG (R456). -/
def drawNonce (s : State) : State :=
  let ws := (List.range 8).map fun i => Config.trng (s.lsr.drawn + i)
  putWords { s with lsr := { s.lsr with drawn := s.lsr.drawn + 8, pool := ws } } 0x140020 ws

/-! ### Module reset (R415 to R417) -/

/-- Whether a register key lies in a block of Binnacle's island: BNC, SND, LSR and module power and clocks (R443). -/
def islandKey (key : Nat) : Bool := decide (0x120000 ≤ key) && decide (key < 0x160000)

/-- A stack loses everything but what Binnacle's NOR holds for it (R196) and the frames out of service for good (R376;
notes/assumptions/105.md). -/
def StackSt.lost (d : StackSt) : StackSt := { StackSt.reset with copyA := d.copyA, copyB := d.copyB, retired := d.retired }

/-- Every domain after Binnacle is in reset and without power: what they held is lost (R417). Module NAND, NOR, the
log and the island stay. -/
def dropDomains (s : State) : State :=
  { s with
    tick := 0
    tfrac := 0
    slot0 := 0
    regs := s.regs.filter fun p => islandKey p.1
    tiles := []
    dram := []
    net := []
    reports := []
    stk := s.stk.map StackSt.lost
    vil := VilgerSt.reset
    fleet := { FleetSt.reset with hint := s.fleet.hint }
    chr := ChronoSt.reset
    serve := ServeSt.reset
    pwr := PowerSt.reset
    img := { s.img with begun := [] }
    lsr := { s.lsr with linkFw := none, helmFw := none }
    rst := { ResetSt.reset with domains := min s.rst.domains 1, causeAt := s.rst.causeAt } }

/-- The place of a reset cause among those of one BCK cycle (R416). -/
def causeRank (cause : Nat) : Nat := ([1, 4, 9, 5, 8, 3, 2, 6, 7] : List Nat).idxOf cause

/-- The BCK cycle of now: 250 ns, 300 tile cycles (R421). -/
def bckCycle (s : State) : Nat := s.cyc / 300

/-- BNC_LAST_RESET becomes `w`, unless a cause before `w`'s was recorded in this BCK cycle (R416). -/
def recordCause (s : State) (w : Word) : State :=
  if s.rst.causeAt = some (bckCycle s) ∧ causeRank (rget s 0 BNC_LAST_RESET_CAUSE) < causeRank (bitsOf w.toNat 0 4) then s
  else setRword { s with rst := { s.rst with causeAt := some (bckCycle s) } } 0 0x120100 w

/-- BNC_LAST_RESET for a module reset (R416). -/
def lastReset (s : State) (cause : Nat) : State := recordCause s (BitVec.ofNat 32 (putBits 0 0 4 cause))

/-- The island's registers that show the clock detectors, which only their events change, and those that only a power-on
clears (R413, R416; notes/assumptions/61.md). -/
def keptIsland (s : State) : SMap Word :=
  let trip := BitVec.ofNat 32 (rget s 0 PWR_TRIP_CAUSE)
  let clk := BitVec.ofNat 32 (bitsOf (rword s 0 0x150100).toNat 0 4)
  let last := if s.rst.causeAt = some (bckCycle s) then rword s 0 0x120100 else 0
  mapSet reg2Reset (mapSet reg2Reset (mapSet reg2Reset [] 0x150008 trip) 0x150100 clk) 0x120100 last

/-- Binnacle and Lodestar reset too: what their SRAM and registers held is lost (R415, R430, R450, R451, R471). -/
def dropIsland (s : State) : State :=
  { s with
    regs := keptIsland s
    bnc := BinnSt.reset
    snd := SndSt.reset
    log := { s.log with entries := [], changed := [] }
    lsr := { s.lsr with mfInForce := none, inForceB := none, running := none, dikCopy := 0, pool := [], work := [] }
    rst := { s.rst with domains := 0 } }

/-- A load in progress ends with a reset: the copy that it was writing is not valid (R459, R463). -/
def endLoad (s : State) : State :=
  match s.lsr.loading with
  | none => s
  | some fw =>
    let v := { s.lsr with loading := none }
    let toB := if fw then !s.lsr.preferB else s.lsr.mfInForce == some false
    rput { s with lsr :=
      (if fw then (if toB then { v with fwB := none } else { v with fwA := none })
      else if toB then { v with mfB := none } else { v with mfA := none }) } 0 LSR_STATUS_BUSY 0

/-- A row whose programming is cut short: `w` tells which of its new bits are blown. -/
def cutRow (old new w : Word) : Word := old ||| (new &&& w)

/-- The fuses `a` when a command that leaves `b` is cut short at its `stage`-th item (R455, R457): DECOM is blown before DIK,
and for Provisioned the row follows DIK and OWNERHASH. Which bits of the item in hand are blown is open: `w`. -/
def cutFuses (a b : Fuses) (stage : Nat) (w : Nat → Word) : Fuses :=
  let m : BitVec 384 := BitVec.ofNat 384 (leVal ((List.range 12).flatMap fun i => leBytes 4 (w (i + 1)).toNat))
  let rows := (a.lcRows.zip b.lcRows).map fun q => cutRow q.1 q.2 (w 0)
  if a.decom ≠ b.decom then
    if stage = 0 then { a with decom := cutRow a.decom b.decom (w 0) }
    else { a with decom := b.decom, dik := a.dik ||| (b.dik &&& m) }
  else if a.dik ≠ b.dik then
    if stage = 0 then { a with dik := a.dik ||| (b.dik &&& m) }
    else if stage = 1 then { a with dik := b.dik, ownerhash := a.ownerhash ||| (b.ownerhash &&& m) }
    else { b with lcRows := rows }
  else { b with
    lcRows := rows
    minsvn := a.minsvn + (w 0).toNat % (b.minsvn - a.minsvn + 1)
    repair := b.repair.foldl (fun l q =>
      if mapGet (fun _ => (0 : Word)) a.repair q.1 = q.2 then l else mapSet (fun _ => (0 : Word)) l q.1 (q.2 &&& w 0)) a.repair }

/-- The fuses after a reset that cuts a fuse command short. -/
def brokenFuses (s : State) : Fuses :=
  match s.lsr.burning with
  | some b => cutFuses s.lsr.fuses b ((Config.freeWord s.free).toNat % 3) fun i => Config.freeWord (s.free + 1 + i)
  | none => s.lsr.fuses

/-- A long command in progress ends with a reset (R444, R457, R469); what a fuse command leaves is open within its order. -/
def endCommand (s : State) : State :=
  match s.bnc.long with
  | some _ =>
    let s2 := rput (rput s 0 BNC_STATUS_LONG_BUSY 0) 0 LSR_STATUS_BUSY 0
    { s2 with
      free := s2.free + 14
      bnc := { s2.bnc with long := none, longOut := none, maskBad := false }
      lsr := { s2.lsr with
        burning := none
        fuses := brokenFuses s2 } }
  | none => s

/-- A firmware or manifest copy. -/
def fwCopy (s : State) (b : Bool) : Option (List Byte) := if b then s.lsr.fwB else s.lsr.fwA
def mfCopy (s : State) (b : Bool) : Option (List Byte) := if b then s.lsr.mfB else s.lsr.mfA

/-- VERSION of a bundle. -/
def bundleVersion (bs : List Byte) : Nat := leVal ((bs.drop 12).take 4)

/-- Firmware copy `b` runs from now on. -/
def runFirmware (s : State) (b : Bool) : State :=
  let s1 := { s with lsr := { s.lsr with inForceB := some b, running := fwCopy s b, fresh := false } }
  rput (rput (rput s1 0 LSR_STATUS_RECOVERY 0) 0 LSR_STATUS_FWCOPY (bit b)) 0 LSR_FWVER_VERSION
    (bundleVersion ((fwCopy s b).getD []))

/-- A bundle that FW_LOAD has made the preferred copy runs from the next module reset, also from one that resumes at step 2
(R463, notes/assumptions/111.md). -/
def takeFirmware (s : State) : State := if s.lsr.fresh then runFirmware s s.lsr.preferB else s

/-- What a reset makes of a long command, of a commit and of a load in progress. -/
def endLong (s : State) : State := endCommand (breakCommits (endLoad s))

/-- Power and status after any module reset (R417, BNC_STATUS, BNC_BRINGUP): STANDBY, MAIN_EN 0, SAFE clear, no stop
since reset, bring-up at step `step`. -/
def resetStatus (s : State) (step : Nat) : State :=
  let s1 := rput (rput (rput (rput s 0 PWR_STATUS_STATE 0) 0 PWR_CTL_MAIN_EN 0) 0 CLK_STATUS_SAFE 0) 0 PWR_STATUS_BUS_OK 0
  let s2 := rput (rput s1 0 BNC_STATUS_THERMSTOP 0) 0 BNC_STATUS_STOPCAUSE 0
  let s3 := rput (rput s2 0 BNC_BRST_STATUS_BUSY 0) 0 BNC_BRST_STATUS_QUIESCE 0
  let s4 := rput (rput (rput (rput s3 0 BNC_BRINGUP_READY 0) 0 BNC_BRINGUP_FAULTED 0) 0 BNC_BRINGUP_STACKFAIL 0) 0
    BNC_BRINGUP_MODFAIL 0
  rput { s4 with bnc := { s4.bnc with stopped := false } } 0 BNC_BRINGUP_STEP step

/-- A module reset (R415, R417, R456, R460): `island` says whether Binnacle and Lodestar reset with it; their
secret set is then cleared, and the nonce drawn, when domain 1 is released. -/
def moduleReset (s : State) (cause : Nat) (island : Bool) : State :=
  let s1 := dropDomains (endLong s)
  if island then resetStatus (lastReset (dropIsland s1) cause) 1
  else
    let s2 := drawNonce (clearSecrets (lastReset (takeFirmware s1) cause))
    if ron s2 0 LSR_STATUS_RECOVERY then rset (resetStatus s2 1) 0 BNC_BRINGUP_FAULTED else resetStatus s2 2

/-- A hard trip (R402, R415): the module resets with cause TRIP and stays TRIPPED; PWR_TRIP keeps the trip's cause. -/
def hardTrip (s : State) (cause : Nat) : State :=
  rput (rput (moduleReset s 5 false) 0 PWR_STATUS_STATE 4) 0 PWR_TRIP_CAUSE cause

/-- The safe state (R410): everything but the island is held in reset, the converter and switched regulators are at
standby, and SAFE is latched; a tripped module stays TRIPPED (R402). Commits are cut off (R199). -/
def safeState (s : State) : State :=
  let st := if rget s 0 PWR_STATUS_STATE = 4 then 4 else 3
  rput (rset (rput (dropDomains (breakCommits s)) 0 PWR_STATUS_STATE st) 0 CLK_STATUS_SAFE) 0 PWR_STATUS_BUS_OK 0

/-! ### Input power (R401) -/

/-- The mean of the last `n` samples of input power, in 0.1 W; of all samples while there are fewer. -/
def runningMean (n : Nat) (l : List Nat) : Nat :=
  (l.take n).foldl (· + ·) 0 / (1000 * max 1 (min n l.length))

/-- A sample of input power, in 0.1 mW, enters the 10 ms and 1 s means (R401; notes/assumptions/102.md): 1,000 and 100,000
samples of 10 µs. An excess of the 1 s mean is recorded, one of the 10 ms mean trips. -/
def takePower (s : State) : State :=
  let l := (rget s 0 PWR_VIN_V * rget s 0 PWR_VIN_I :: s.bnc.powers).take 100000
  let m := runningMean 1000 l
  let n := runningMean 100000 l
  let was := rget s 0 PWR_PAVG_P1S
  let s1 := rput (rput { s with bnc := { s.bnc with powers := l } } 0 PWR_PAVG_P10MS (min 65535 m)) 0 PWR_PAVG_P1S (min 65535 n)
  let s2 := if 16000 < n ∧ was ≤ 16000 then logExtra (rbump (rset s1 0 PWR_STATUS_OVERTDP) 0 PWR_OVERTDP) 15 else s1
  if 20000 < m ∧ rget s 0 PWR_STATUS_STATE ≠ 4 then hardTrip s2 6 else s2

/-! ### Stacks (R397) -/

/-- The stack of a multiplexer, if it is a stack's. -/
def muxStack : MuxRef → Option Nat
  | .tile r => some r.stack.toNat
  | .mesh k => some k.toNat
  | .dram k => some k.toNat
  | .binnacle => none

/-- What a stack's power and clock registers reset takes with it: switches and a measurement in progress (R414). -/
def dropClocks (s : State) (k : Nat) : State :=
  { s with pwr := { s.pwr with
    switching := s.pwr.switching.filter fun m => muxStack m != some k
    measuring := s.pwr.measuring.erase (.stack (BitVec.ofNat 3 k)) } }

/-- A tile in reset (R423): tile store, the calibration rows' cells, the demotion state and the turns of its tags
stay. -/
def Tile.hold (t : Tile) : Tile :=
  { Tile.reset with
    store := t.store
    turns := t.turns
    trims := t.trims
    crcAt := t.crcAt
    tally := t.tally
    cal := t.cal
    demotePend := t.demotePend
    demoted := t.demoted
    free := t.free
    inReset := true
    wrapped := true }

/-- Every tile of stack `k` held in reset, its governor requests gone. -/
def holdTiles (s : State) (k : Nat) : State :=
  let s1 := (List.range 480).foldl (fun s site => putTile s k site (tileAt s k site).hold) s
  { s1 with pwr := { s1.pwr with queue := s1.pwr.queue.filter fun q => q.stack != k } }

/-- Stack `k` loses power on its compute die and DRAM (R397): tiles in reset, DRAM content lost. -/
def stackOff (s : State) (k : Nat) : State :=
  let s1 := holdTiles s k
  let s2 := { s1 with dram := mapClear s1.dram (k * 2 ^ 36) ((k + 1) * 2 ^ 36) }
  rput (putStk s2 k { stkOf s2 k with dramReady := false }) k PWR_STK_STATUS_DRAM_OK 0

/-! ### Orderly stop (R400, R440) -/

/-- The stacks that are not off, from 7 down to 0. -/
def poweredStacks (s : State) : List Nat :=
  (List.range 8).reverse.filter fun k => rget s k PWR_STK_STATUS_STATE ≠ 0

/-- The next part of an orderly stop, once no tile is clocked and no stop waits: the next stack powers down, or the
entry converter soft-stops and the disconnect opens. -/
def stopStep (s : State) : State :=
  if !s.pwr.stopping || (s.pwr.queue.any fun q => !q.start) || stackNos.any (anyClocked s)
      || stackNos.any (fun k => rget s k PWR_STK_STATUS_STATE = 3) then s
  else match poweredStacks s with
    | k :: _ => rput (rput (stackOff s k) k PWR_STK_CTL_ON 0) k PWR_STK_STATUS_STATE 3
    | [] => rput (rput (dropDomains (breakCommits s)) 0 PWR_STATUS_STATE 0) 0 PWR_STATUS_BUS_OK 0

/-- An orderly stop begins (R400, R378): changed log entries are appended, starts that wait are dropped, and every
clocked tile asks for a stop. MAIN_EN reads 0 from then on (DESIGN CHOICE, notes/assumptions/79.md). -/
def orderlyStop (s : State) : State :=
  if rget s 0 PWR_STATUS_STATE ≠ 1 ∧ rget s 0 PWR_STATUS_STATE ≠ 2 then s
  else
    let s1 := rput (rput (logFlush s) 0 PWR_STATUS_STATE 5) 0 PWR_CTL_MAIN_EN 0
    let s2 := { s1 with
      bnc := { s1.bnc with stopped := true }
      pwr := { s1.pwr with stopping := true, queue := s1.pwr.queue.filter fun q => !q.start } }
    stopStep (stackNos.foldl (fun s k => (mappedTiles s k).foldl (fun s q => askStop s k q.1) s) s2)

end Sys2Proof.Machine
end

