-- ==== Sys2Proof/Machine/ResetOps.lean ====
section
/-!
DEFINITION. Block resets (R421 to R424, Table 18.3): isolation wrappers, what is inside a block, the assertion of each
kind of reset, and the release.
-/

namespace Sys2Proof.Machine

/-- Key of a block in the list of resets in progress: kind, stack and index; a link die's stack is ignored. -/
def sameBlock (a b : UnitRef) : Bool :=
  a.kind == b.kind && (a.kind == 6 || a.stack == b.stack) && (a.index == b.index || !(a.kind == 0 || a.kind == 6))

/-- The reset in progress of a block. -/
def resetOf (s : State) (b : UnitRef) : Option BlockRst := s.rst.blocks.find? fun r => sameBlock r.block b

/-- Whether a block's wrapper is closed (R421). -/
def wrapperClosed (s : State) (kind k idx : Nat) : Bool :=
  (resetOf s ⟨BitVec.ofNat 4 kind, BitVec.ofNat 3 k, idx⟩).isSome

/-- The tile that a block names, if it is a mapped tile. -/
def blockTile (s : State) (b : UnitRef) : Option (TileRef × Nat) :=
  if b.kind = 0 ∧ b.index < 480 then
    (siteOf s b.stack.toNat b.index).map fun site => (⟨b.stack, BitVec.ofNat 9 b.index⟩, site)
  else none

/-- The Vilger half of a link die (R357: dies 0 and 1). -/
def dieHalf (d : Nat) : Option Nat := if d < 2 then some d else none

/-- The UP ports. -/
def upPorts (s : State) : List Nat := (List.range 16).filter fun p => pget s p FLT_PORT_STATE == 4

/-- The port to the parent has left UP: the module enters holdover (R341). -/
def enterHoldover (s : State) (p : Nat) : State :=
  if ron s 0 CHR_STATUS_ALIGNED && !ron s 0 CHR_STATUS_ROOT && rget s 0 CHR_STATUS_PARENT == p && s.chr.parent.isSome then
    rset s 0 CHR_STATUS_HOLDOVER
  else s

/-- A module with no UP port is not in a fleet: number 0, count 1 (R319). -/
def loseNumber (s : State) : State :=
  if (upPorts s).isEmpty then rput (rput (rput s 0 FLT_MOD_NUMBER 0) 0 FLT_MOD_COUNT 1) 0 FLT_MOD_VALID 0 else s

/-- Whether a port of link die `d` holds packets that its neighbour has not acknowledged. -/
def portsBusy (s : State) (d : Nat) : Bool :=
  (List.range 4).any fun i => match s.fleet.ports[4 * d + i]? with
    | some v => !v.queued.isEmpty || !v.waiting.isEmpty
    | none => false

/-- Whether a transfer is inside the block (notes/assumptions/31.md): operations that it issued and that are still in
flight, and what its fleet ports send. The walkers and the DRAM controller always quiesce (Table 18.3). -/
def blockInside (s : State) (b : UnitRef) : Bool :=
  match b.kind.toNat with
  | 0 => match blockTile s b with
    | some q => !(tileAt s b.stack.toNat q.2).fetches.isEmpty || !(tileAt s b.stack.toNat q.2).sigs.isEmpty
    | none => false
  | 3 => true
  | 4 => true
  | 6 => portsBusy s b.index || match dieHalf b.index with
    | some h => !(s.vil.halves.getD h VHalf.reset).reqs.isEmpty
    | none => false
  | _ => false

/-- BNC_LAST_RESET for a block reset (R416). -/
def lastBlock (s : State) (b : UnitRef) (late : Bool) : State :=
  let k := if b.kind = 6 then 0 else b.stack.toNat
  let i := if b.kind = 0 ∨ b.kind = 6 then b.index else 0
  recordCause s (BitVec.ofNat 32
    (7 + 16 + k * 32 + b.kind.toNat * 256 + (i % 512) * 2048 + bit late * 2 ^ 20))

/-! ### What each reset does -/

/-- A tile's reset is asserted (R423): its clock is off, its registers, banks, queues and engines are reset. -/
def assertTile (s : State) (b : UnitRef) : State :=
  match blockTile s b with
  | none => s
  | some q =>
    let s1 := govWithdraw (govWithdraw s true b.stack.toNat b.index) false b.stack.toNat b.index
    let s2 := changeSite s1 b.stack.toNat q.2 id
    putTile s2 b.stack.toNat q.2 (tileAt s2 b.stack.toNat q.2).hold

/-- A Helm's reset: its registers and waypoint counters (R267, R349, notes/assumptions/66.md). -/
def assertHelm (s : State) (k : Nat) : State := putStk (resetBlock s k 0x30000) k { stkOf s k with wps := [] }

/-- Sextant's reset: group work in hand is discarded and the pass restarts (Table 18.3, R190). -/
def assertSextant (s : State) (k : Nat) : State :=
  let d := stkOf s k
  match d.pass with
  | some p =>
    let s1 := rbump (rset (putStk s k { d with
      work := []
      pass := some { p with done := [], refsAt := s.cyc + 24000, refsDone := false, again := false } }) k SXT_TRIG_RESTART) k SXT_RESTART
    rput s1 k SXT_TEMP_FIXTEMP (rget s1 k SXT_TEMP_NOWTEMP)
  | none => putStk s k { d with work := [] }

/-- The base-die networks' reset: the routers' and Sextant's and the walkers' and the stack power registers, the walkers' frame
and pin lists, and the flits that the stack's routers hold (Table 18.3, R201, R243, R309, R414, notes/assumptions/43.md). -/
def assertNetworks (s : State) (k : Nat) : State :=
  let s1 := dropClocks (dropCommit (stackOff s k) k) k
  let d := stkOf s1 k
  let s2 := putStk s1 k { d with
    merges := []
    combs := []
    mcasts := []
    pass := none
    passes := []
    work := []
    meas := []
    sight := none
    demands := []
    cache := []
    frames := []
    deferred := []
    framesInit := false
    pins := []
    helmPins := 0
    dog := 0
    dogper := 0x01000000
    demandSlot := false }
  let s3 := resetBlock (resetBlock (resetBlock (resetBlock s2 k 0) k 0x10000) k 0x20000) k 0x50000
  { s3 with net := s3.net.filter fun p => !(addrModule p.dest == moduleNo s && addrStack p.dest == k) }

/-- A link die's reset: its registers, its four ports, which leave UP, and its Vilger half, whose link Binnacle enables
again at the release; LEADSTK stays (R337, R341, R368, R373, notes/assumptions/106.md). -/
def assertDie (s : State) (d : Nat) : State :=
  let k := dieStack d
  let en := ron s 0 LNK_CTL_EN
  let lead := rget s k LNK_CTL_LEADSTK
  let down := (upPorts s).filter fun p => p / 4 == d
  let s1 := resetBlock (resetBlock s k 0x100000) k 0x110000
  let s2 := { s1 with
    fleet := { s1.fleet with
      ports := (s1.fleet.ports.zipIdx.map fun q => if q.2 / 4 = d then PortSt.reset else q.1)
      rt := if d = 0 then [] else s1.fleet.rt }
    vil := match dieHalf d with
      | some h => { s1.vil with halves := s1.vil.halves.set h VHalf.reset, again := s1.vil.again || (d = 0 && en) }
      | none => s1.vil }
  let s3 := loseNumber (down.foldl enterHoldover (rput s2 k LNK_CTL_LEADSTK lead))
  if d = 0 then rput s3 (dieStack 1) LNK_LANES_USED 0
  else if d = 1 then setRword (rput s3 0 LNK_LANES_USED 0) 0 0x110004 0
  else s3

/-- The reset of a block is asserted (R421, Table 18.3). -/
def assertEffect (s : State) (b : UnitRef) : State :=
  match b.kind.toNat with
  | 0 => assertTile s b
  | 1 => assertHelm s b.stack.toNat
  | 2 => assertSextant s b.stack.toNat
  | 3 => putStk s b.stack.toNat { stkOf s b.stack.toNat with cache := [] }
  | 5 => assertNetworks s b.stack.toNat
  | 6 => assertDie s b.index
  | _ => s

/-- BNC_BRST_STATUS.BUSY and QUIESCE as the resets in progress say. -/
def brstStatus (s : State) : State :=
  rput (rput s 0 BNC_BRST_STATUS_BUSY (bit (s.rst.blocks.any fun r => r.brst))) 0 BNC_BRST_STATUS_QUIESCE
    (bit (s.rst.blocks.any fun r => r.brst && r.quiesce))

/-- The machine with a reset in progress replaced. -/
def putReset (s : State) (r r1 : BlockRst) : State :=
  { s with rst := { s.rst with blocks := s.rst.blocks.map fun x => if x = r then r1 else x } }

/-- The wrapper asserts the reset now; `late`: the quiesce expired. -/
def assertBlock (s : State) (r : BlockRst) (late : Bool) : State :=
  let s1 := putReset s r { r with quiesce := false, asserted := true, at_ := s.tick }
  brstStatus (lastBlock (assertEffect s1 r.block) r.block late)

/-- A block's wrapper closes and the reset begins (R421). -/
def startBlock (s : State) (b : UnitRef) (brst : Bool) : State :=
  if (resetOf s b).isSome then rset s 0 BNC_BRST_STATUS_REJECT
  else
    let q := blockInside s b
    let r : BlockRst := ⟨b, q, false, brst, s.tick⟩
    let s1 := { s with rst := { s.rst with blocks := s.rst.blocks ++ [r] } }
    let s2 := match blockTile s b with
      | some p => changeSite s1 b.stack.toNat p.2 fun t =>
          { t with wrapped := true, engs := (t.engs.map fun g => { g with st := 0 }) }
      | none => s1
    if q then brstStatus s2 else assertBlock s2 r false

/-- Whether the block may be reset at all (R422): a kind of Table 18.3, not the lead Helm, and a block that is there. -/
def blockLegal (s : State) (b : UnitRef) : Bool :=
  match b.kind.toNat with
  | 0 => (blockTile s b).isSome
  | 1 => leadOf s ≠ some b.stack.toNat
  | 2 => true
  | 3 => true
  | 4 => true
  | 5 => true
  | 6 => decide (b.index < 4)
  | _ => false

/-! ### Release (R423) -/

/-- The entry of TIL_COLREP for a spared line. -/
def colrepWord (line : Nat) : Word := BitVec.ofNat 32 (line % 1024 + 2 ^ 15)

/-- The lines of a segment that fused repair records spare, first (R468, R469): records of kind 1 with odd parity. -/
def fusedLines (u : Fuses) (k site seg : Nat) : List Nat :=
  u.repair.filterMap fun p =>
    let w := p.2.toNat
    if popBits p.2 % 2 = 1 ∧ bitsOf w 0 2 = 1 ∧ bitsOf w 2 3 = k ∧ bitsOf w 5 9 = site ∧ bitsOf w 14 2 = seg then
      some (bitsOf w 16 10)
    else none

/-- All lines of a segment that get a spare line: the fused ones, then the log's (R94, R468). -/
def segmentSpares (s : State) (k site seg : Nat) : List Nat :=
  fusedLines s.lsr.fuses k site seg ++
    s.log.spared.filterMap fun q => if q.1 = k ∧ q.2.1 = site ∧ q.2.2.1 = seg then some q.2.2.2 else none

/-- The tile with its spare-line assignments loaded and locked (R94): 16 a segment. -/
def loadColreps (s : State) (k site : Nat) (t : Tile) : Tile :=
  let t1 := (List.range 4).foldl (fun t seg =>
    ((segmentSpares s k site seg).take 16).zipIdx.foldl (fun t q =>
      setTileReg t (0x440 + 4 * (16 * seg + q.2)) (colrepWord q.1)) t) t
  tput t1 TIL_ARR_LOCK_LOCK 1

/-- A tile's release (R97, R423): spare lines, trims at the targets of its record, clock gated. -/
def releaseTile (s : State) (b : UnitRef) : State :=
  match blockTile s b with
  | none => s
  | some q =>
    let k := b.stack.toNat
    let t := tileAt s k q.2
    let t1 := loadColreps s k q.2 { t with inReset := false, wrapped := false }
    putTile s k q.2 { t1 with trims := recordTargets (stkOf s k).table q.2 }

/-- The Vilger half of a released link die trains again: EN is 1 as before the reset (Table 18.3,
notes/assumptions/106.md). -/
def retrainHalf (s : State) : State :=
  if ron s 0 LNK_CTL_EN || s.vil.again then
    let s1 := rset { s with vil := { s.vil with again := false } } 0 LNK_CTL_EN
    if ron s1 0 CLK_STATUS_REF_OK then rput s1 0 LNK_STATUS_STATE 1 else s1
  else s

/-- What a block's release does beyond opening its wrapper. -/
def releaseEffect (s : State) (b : UnitRef) : State :=
  match b.kind.toNat with
  | 0 => releaseTile s b
  | 1 => putStk s b.stack.toNat { stkOf s b.stack.toNat with beat := s.tick }
  | 6 => if b.index < 2 then retrainHalf s else s
  | _ => s

/-- The block is released: its reset in progress ends. -/
def releaseBlock (s : State) (r : BlockRst) : State :=
  let s1 := { s with rst := { s.rst with blocks := s.rst.blocks.erase r } }
  brstStatus (releaseEffect s1 r.block)

/-- Whether the tiles of stack `k` are released: domain 6 releases one stack after another (R419). -/
def tilesReleased (s : State) (k : Nat) : Bool :=
  decide (6 ≤ s.rst.domains) || (decide (s.rst.domains = 5) && decide (k < s.rst.stacks6))

/-- An operation that arrives for a closed block, or for one held in reset, completes with FENCED (R421, R397). -/
def tileClosed (s : State) (k site : Nat) : Bool :=
  let t := tileAt s k site
  t.wrapped || t.inReset || !stackOnNow s k || !tilesReleased s k

end Sys2Proof.Machine
end

