-- ==== Sys2Proof/Machine/Side.lean ====
section
/-!
DEFINITION. The Side engine's instructions (R162): reaching one.
-/

namespace Sys2Proof.Machine

/-- SID.MODE: the format of an accumulator set (R115, R162). -/
def execSidMode (i : Issue) (s : State) : Host.Outcome State Fault Refusal :=
  .next (runIssue s .sid 8 i false (sidModeUnit i.enc))

/-- SID.RECOMP: recomputes the oldest entry in the exact lane (R107, R162). -/
def execSidRecomp (i : Issue) (s : State) : Host.Outcome State Fault Refusal :=
  .next (runIssue s .sid 9 i false recompUnit)

/-- SID.DRAIN: drains rows of a set through the output pipeline or raw (R118 to R126, R162). -/
def execSidDrain (i : Issue) (s : State) : Host.Outcome State Fault Refusal :=
  .next (runIssue s .sid 10 i false (drainUnit i.enc))

/-- SID.EMIT: one output row from a buffer in tile store (R127, R162). -/
def execSidEmit (i : Issue) (s : State) : Host.Outcome State Fault Refusal :=
  .next (runIssue s .sid 11 i false (emitUnit i.enc))

end Sys2Proof.Machine
end

