-- ==== Sys2Proof/Machine/Signal.lean ====
section
/-!
DEFINITION. The Signal engine's instructions (R168): reaching one.
-/

namespace Sys2Proof.Machine

/-- SIG.PUT: a remote write (R168). -/
def execSigPut (i : Issue) (s : State) : Host.Outcome State Fault Refusal :=
  .next (runIssue s .sig 8 i false (putUnit i.enc))

/-- SIG.GET: a remote read (R168). -/
def execSigGet (i : Issue) (s : State) : Host.Outcome State Fault Refusal :=
  .next (runIssue s .sig 9 i false (getUnit i.enc))

/-- SIG.ADD32: a remote addition of 32-bit elements (R168). -/
def execSigAdd32 (i : Issue) (s : State) : Host.Outcome State Fault Refusal :=
  .next (runIssue s .sig 10 i false (addUnit i.enc .add32 4 1024))

/-- SIG.ADD64: a remote addition of 64-bit elements (R168). -/
def execSigAdd64 (i : Issue) (s : State) : Host.Outcome State Fault Refusal :=
  .next (runIssue s .sig 11 i false (addUnit i.enc .add64 8 512))

/-- SIG.LADD: a remote addition of long containers (R168). -/
def execSigLadd (i : Issue) (s : State) : Host.Outcome State Fault Refusal :=
  .next (runIssue s .sig 12 i false (addUnit i.enc .ladd 16 256))

/-- SIG.CAS64: a remote compare-and-swap (R168). -/
def execSigCas64 (i : Issue) (s : State) : Host.Outcome State Fault Refusal :=
  .next (runIssue s .sig 13 i false (casUnit i.enc))

/-- SIG.MPUT: a multicast write (R168, R172). -/
def execSigMput (i : Issue) (s : State) : Host.Outcome State Fault Refusal :=
  .next (runIssue s .sig 14 i false (mputUnit i.enc))

/-- SIG.ARRIVE: an arrival at a waypoint (R168). -/
def execSigArrive (i : Issue) (s : State) : Host.Outcome State Fault Refusal :=
  .next (runIssue s .sig 15 i false (arriveUnit i.enc))

/-- SIG.WAITG: waits for a completion group (R171). -/
def execSigWaitg (i : Issue) (s : State) : Host.Outcome State Fault Refusal :=
  .next (runIssue s .sig 16 i false (waitgUnit i.enc))

/-- SIG.WAITWP: waits at a waypoint counter (R174). -/
def execSigWaitwp (i : Issue) (s : State) : Host.Outcome State Fault Refusal :=
  .next (runIssue s .sig 17 i false (waitwpUnit i.enc))

/-- SIG.WPINIT: initialises a waypoint counter (R174). -/
def execSigWpinit (i : Issue) (s : State) : Host.Outcome State Fault Refusal :=
  .next (runIssue s .sig 18 i false (wpinitUnit i.enc))

end Sys2Proof.Machine
end

