-- ==== Sys2Proof/Machine/TileEvents.lean ====
section
/-!
DEFINITION. Tile events (R133, R143 to R148, R398) and the writes of tile control bits (R94, R143, R146, R423, R482).
-/

namespace Sys2Proof.Machine

/-! ### Static issue slots (R133) -/

/-- The unit of an opcode of Fetch. -/
def fetUnit (op : Nat) (n : Enc) : OpUnit :=
  match op with
  | 8 => loadUnit n
  | 9 => loadsUnit n
  | 10 => copyUnit n
  | 11 => zeroUnit n
  | 12 => bankwUnit n
  | _ => nopUnit

/-- The unit of an opcode of Array. -/
def arrUnit (op : Nat) (n : Enc) (lv : List Level) : OpUnit :=
  match op with
  | 8 => mvmUnit n lv
  | 9 => retryUnit lv
  | 10 => bankUnit n
  | 11 => modeUnit n
  | _ => nopUnit

/-- The unit of an opcode of Side. -/
def sidUnit (op : Nat) (n : Enc) : OpUnit :=
  match op with
  | 8 => sidModeUnit n
  | 9 => recompUnit
  | 10 => drainUnit n
  | 11 => emitUnit n
  | _ => nopUnit

/-- The unit of an opcode of Plot. -/
def pltUnit (op : Nat) (n : Enc) : OpUnit :=
  match op with
  | 8 => normUnit n
  | 9 => scoreUnit n
  | 10 => softmaxUnit n
  | 11 => vprodUnit n
  | 12 => topkUnit n
  | 13 => sortUnit n
  | 14 => mergeUnit n
  | 15 => isectUnit n
  | 16 => gatherUnit n
  | 17 => scatterUnit n
  | 18 => hprobeUnit n
  | 19 => relaxUnit n
  | 20 => sampleUnit n
  | _ => nopUnit

/-- The unit of an opcode of Signal. -/
def sigUnit (op : Nat) (n : Enc) : OpUnit :=
  match op with
  | 8 => putUnit n
  | 9 => getUnit n
  | 10 => addUnit n .add32 4 1024
  | 11 => addUnit n .add64 8 512
  | 12 => addUnit n .ladd 16 256
  | 13 => casUnit n
  | 14 => mputUnit n
  | 15 => arriveUnit n
  | 16 => waitgUnit n
  | 17 => waitwpUnit n
  | 18 => wpinitUnit n
  | _ => nopUnit

/-- The unit of an opcode; one that the engine's table does not list is illegal before its unit matters (R150). -/
def unitOf (e : Engine) (op : Nat) (n : Enc) (lv : List Level) : OpUnit :=
  match op with
  | 0 => nopUnit
  | 1 => setrUnit e n
  | 2 => setrhUnit e n
  | 3 => addrUnit e n
  | 4 => jumpUnit e n
  | 5 => loopUnit e n
  | 6 => nextwUnit e
  | 7 => haltUnit e
  | _ => match e with
    | .fet => fetUnit op n
    | .arr => arrUnit op n lv
    | .sid => sidUnit op n
    | .plt => pltUnit op n
    | .sig => sigUnit op n

/-- STATIC_ISSUE_SLOT: the engine's instruction `w` reaches its static slot and issues, or its tile faults with
TOKLATE, TOKFULL or SLOTLATE (R133). -/
def execStaticIssueSlot (e : Engine) (r : TileRef) (dt : Nat) (w : Dword) (lv : List Level) (s : State) :
    Host.Outcome State Fault Refusal :=
  let op := wordOp w
  .next (discardSight
    (runIssue s e op ⟨r, dt, wordEnc w⟩ (e == .arr && (op == 8 || op == 9)) (unitOf e op (wordEnc w) lv)) r (namedTile s r))

/-! ### Watchdog and stall (R143, R144) -/

/-- Instructions of an engine in flight. -/
def flightsOf (t : Tile) (e : Engine) : List Flight :=
  ((t.due.filterMap fun d => match d.eff with
      | .retire f => some f
      | .bankReady _ _ _ _ _ _ f => some f
      | _ => none) ++ t.fetches.map fun o => o.flight).filter fun f => f.eng == e

/-- The watchdog limit of a class: a limit of 0 acts as the class's reset value (R143). -/
def wdogLimit (t : Tile) (cls : Nat) : Nat :=
  if tget t TIL_WDOG_LIMIT cls = 0 then fldReset TIL_WDOG_LIMIT cls else tget t TIL_WDOG_LIMIT cls

/-- The first cycle in which an instruction's count exceeds its limit. -/
def wdogCycle (t : Tile) (f : Flight) : Nat := f.issued + wdogLimit t f.cls + 1

/-- The instruction of the engine whose limit ends first. -/
def wdogFirst (t : Tile) (e : Engine) : Option Flight :=
  (flightsOf t e).foldl (fun m f =>
    match m with
    | some g => if wdogCycle t f < wdogCycle t g then some f else some g
    | none => some f) none

/-- A tile with the retirement of one instruction withheld. -/
def withhold (t : Tile) (f : Flight) : Tile := { t with due := t.due.filter fun d => d.eff != .retire f }

/-- WDOG: an instruction of the engine in flight has not retired when its count exceeds the limit of its class, and
the tile faults (R143, R145). -/
def execWdog (e : Engine) (r : TileRef) (s : State) : Host.Outcome State Fault Refusal :=
  .next (onTile s r fun c t =>
    let t0 := settleBefore c.now t
    match wdogFirst t0 e with
    | none => (t0, [], c.now)
    | some f =>
      let k := max c.now (wdogCycle t0 f)
      (bankTokens (tileFault (settleBefore k (withhold t0 f)) .wdog (engCode e) f.pc) k, [], k))

/-- Tile cycles of the stall limit (R144). -/
def stallLimit : Nat := 76800

/-- STALL: the engine has held one instruction unissued for 76,800 cycles, and the tile faults (R144, R145). -/
def execStall (e : Engine) (r : TileRef) (s : State) : Host.Outcome State Fault Refusal :=
  .next (onTile s r fun c t =>
    let t0 := settleBefore c.now t
    match (engOf t0 e).since with
    | none => (t0, [], c.now)
    | some k0 =>
      if !engineRuns t0 e then (t0, [], c.now)
      else
        let k := max c.now (k0 + stallLimit - 1)
        (bankTokens (tileFault (settleBefore k t0) .stall (engCode e) (pcOf t0 e)) k, [], k))

/-! ### Clock gating (R147, R148, R398) -/

/-- TILE_CLOCK_GATE: when IDLE idle cycles have passed and the tile is idle still, it asks for its clock to stop (R147). -/
def execTileClockGate (r : TileRef) (s : State) : Host.Outcome State Fault Refusal :=
  match siteOf s r.stack.toNat r.tile.toNat with
  | none => .next s
  | some site =>
    let t := settle s.cyc (tileAt s r.stack.toNat site)
    let s1 := elapseTo s (idleSince t + tget t TIL_GATE_IDLE)
    if tget t TIL_CTL_GATE_EN = 1 ∧ t.clkOn = true ∧ tileIdle (ctxOf s r) t = true ∧ tileIdle (ctxOf s1 r) t = true then
      .next (askStop s1 r.stack.toNat r.tile.toNat)
    else .next s

/-- WAKE_REQUEST: WAKE_LEAD before its earliest static slot, or at once where it waits for none, a gated tile asks for
its clock to start (R148, R399). -/
def execWakeRequest (r : TileRef) (s : State) : Host.Outcome State Fault Refusal :=
  match siteOf s r.stack.toNat r.tile.toNat with
  | none => .next s
  | some site =>
    let t := tileAt s r.stack.toNat site
    let s1 := match nextSlot (ctxOf s r) t with
      | some k => elapseTo s (k - leadCycles t)
      | none => s
    .next (askStart s1 r.stack.toNat r.tile.toNat)

/-- CLOCK_START_GRANT: after `dns` nanoseconds the governor grants the start that is next, if its budget allows
(R398). -/
def execClockStartGrant (dns : Nat) (s : State) : Host.Outcome State Fault Refusal :=
  let s1 := elapseNs s dns
  match govNext s1 true with
  | none => .next s1
  | some q => .next (if govRoom s1 true s1.pwr.starts then govRest (startClock s1 q) true else govDefer s1 true)

/-- CLOCK_STOP_GRANT: the same for the stop that is next (R398); an orderly stop goes on with the last one (R400). -/
def execClockStopGrant (dns : Nat) (s : State) : Host.Outcome State Fault Refusal :=
  let s1 := elapseNs s dns
  match govNext s1 false with
  | none => .next (stopStep s1)
  | some q => .next (if govRoom s1 false s1.pwr.stops then stopStep (govRest (stopClock s1 q) false) else govDefer s1 false)

/-! ### Tile control bits -/

/-- Whether a tile's TIL_CTL can be written: mapped, not in reset, its stack on. -/
def ctlReach (s : State) (r : TileRef) : Bool :=
  match siteOf s r.stack.toNat r.tile.toNat with
  | none => false
  | some site => !tileClosed s r.stack.toNat site

/-- The tile whose static slots, while its clock is gated, count from the present watch's restart (R148). -/
def slotsFrom (slot0 : Nat) (t : Tile) : Tile := if t.clkOn then t else { t with gate0 := slot0 }

/-- TIL_CTL.RUN set (R482): an idle engine whose TIL_ENG_PC was written starts; a stopped one resumes. -/
def setRunOn (t : Tile) : Tile :=
  if tget t TIL_CTL_RUN = 1 then t
  else
    { tput t TIL_CTL_RUN 1 with
      engs := t.engs.map fun g => if !g.on && g.pcWritten then { g with on := true, pcWritten := false } else g }

/-- TIL_CTL.RUN cleared: the engines stop at an instruction boundary (Table 5.6). -/
def setRunOff (t : Tile) : Tile :=
  { tput t TIL_CTL_RUN 0 with engs := t.engs.map fun g => { g with st := 0, since := none, nextw := none, wpSince := none, held := none } }

/-- RUN of a tile written; a gated tile whose RUN is set asks for its clock at once (R148). -/
def writeRun (s : State) (r : TileRef) (v : Bool) : State :=
  if !ctlReach s r then s
  else if v then askStart (changeTile s r fun c t => slotsFrom c.slot0 (setRunOn t)) r.stack.toNat r.tile.toNat
  else changeTile s r fun c t => if tget t TIL_CTL_RUN = 1 then busyAt (setRunOff t) c.now else setRunOff t

/-- RUN: TIL_CTL.RUN is written (R482). -/
def execRun (r : TileRef) (v : Bool) (s : State) : Host.Outcome State Fault Refusal := .next (writeRun s r v)

/-- A fenced tile (R146): its engines do not issue, its clock is gated, so that nothing pending comes about, its retry and
recompute queues are gone. -/
def fenceTile (t : Tile) : Tile :=
  { tput t TIL_CTL_FENCE 1 with
    clkOn := false
    wakePend := false
    retryQ := []
    recompQ := []
    due := []
    watches := []
    engs := t.engs.map fun g => { g with st := 0 } }

/-- FENCE of a tile set; its requests at the governor end. -/
def writeFence (s : State) (r : TileRef) : State :=
  if ctlReach s r then
    changeTile (govWithdraw (govWithdraw s true r.stack.toNat r.tile.toNat) false r.stack.toNat r.tile.toNat) r
      fun _ t => fenceTile t
  else s

/-- FENCE: TIL_CTL.FENCE is set (R146). -/
def execFence (r : TileRef) (s : State) : Host.Outcome State Fault Refusal := .next (writeFence s r)

/-- WDOG_LOCK of a tile set. -/
def writeWdogLock (s : State) (r : TileRef) : State :=
  if ctlReach s r then changeTile s r fun _ t => tput t TIL_CTL_WDOG_LOCK 1 else s

/-- WDOG_LOCK: TIL_WDOG_n are locked until tile reset (R143, Table 5.6). -/
def execWdogLock (r : TileRef) (s : State) : Host.Outcome State Fault Refusal := .next (writeWdogLock s r)

/-- The block of a tile (Table 18.3). -/
def tileBlock (r : TileRef) : UnitRef := ⟨0, r.stack, r.tile.toNat⟩

/-- A tile software reset requested (R421, R423, R424). -/
def writeSrst (s : State) (r : TileRef) : State :=
  match siteOf s r.stack.toNat r.tile.toNat with
  | none => s
  | some _ =>
    if stackOnNow s r.stack.toNat && tilesReleased s r.stack.toNat then startBlock s (tileBlock r) false else s

/-- SRST: TIL_CTL.SRST is written (R423). -/
def execSrst (r : TileRef) (s : State) : Host.Outcome State Fault Refusal := .next (writeSrst s r)

/-- TIL_ARR_LOCK of a tile set; a fenced tile's array registers are unreachable (R146). -/
def writeArrLock (s : State) (r : TileRef) : State :=
  if ctlReach s r then
    changeTile s r fun _ t => if tget t TIL_CTL_FENCE = 1 then t else tput t TIL_ARR_LOCK_LOCK 1
  else s

/-- TIL_ARR_LOCK: the spare-line assignments are locked until tile reset (R94). -/
def execTilArrLock (r : TileRef) (s : State) : Host.Outcome State Fault Refusal := .next (writeArrLock s r)

end Sys2Proof.Machine
end

