-- ==== Sys2Proof/Machine/VilgerOps.lean ====
section
/-!
DEFINITION. Vilger Link's transactions (R357, R362 to R371): halves, flits sent, windows, cached lines, requests and
their answers.
-/

namespace Sys2Proof.Machine

/-! ### Halves and flits -/

/-- The half of a companion address: bit 14 (R357). -/
def halfOf (a : Nat) : Nat := bitsOf a 14 1

/-- The stack in whose control region half `h` appears: link dies 0 and 1 (Table 15.1). -/
def halfStk (h : Nat) : Nat := dieStack h

/-- A half, and the machine with it replaced. -/
def vhalf (s : State) (h : Nat) : VHalf := s.vil.halves.getD h VHalf.reset
def putHalf (s : State) (h : Nat) (v : VHalf) : State :=
  { s with vil := { s.vil with halves := s.vil.halves.set h v } }

/-- Bits [63:22] of a header slot, for line requests and SNI the line number (Table 15.4). -/
def msgField (m : VMsg) : Nat := m.addr.toNat / 64

/-- The slots of a message: the header and its data (Table 15.4). -/
def msgBytes (m : VMsg) : List Byte :=
  leBytes 8 (m.opc.toNat + m.tag.toNat * 2 ^ 8 + (m.len - 1) % 4 * 2 ^ 20 + msgField m * 2 ^ 22)
    ++ leBytes 8 m.aux.toNat ++ m.data

/-- The credit class that the next flit returns: the first with credit to return, else none (Table 15.3). -/
def owedClass (v : VHalf) : Nat := ([0, 1, 2].find? fun c => decide (nth v.owed c ≠ 0)).getD 3

/-- The bytes of a flit of TYPE `ty` as a half sends it now: header, slots, CRC and FEC parity (Table 15.3). -/
def vflitBytes (v : VHalf) (ty : Nat) (q : HeldFlit) : List Byte :=
  let hdr := q.seq + ((v.rxSeq + 1023) % 1024) * 2 ^ 10 + bit v.heard * 2 ^ 20 + bit v.nak * 2 ^ 21 + ty * 2 ^ 22
    + q.cls * 2 ^ 24 + q.crdn * 2 ^ 26
  let bs := leBytes 8 hdr ++ q.slots ++ List.replicate (224 - q.slots.length) 0
  let cs := bs ++ leBytes 4 (crc32c bs).toNat
  cs ++ (List.range 20).map (Config.vilgerParity cs)

/-- The scrambler of a lane `n` bits later: the sequence of x^31 + x^28 + 1 (R358). -/
def scramble : Nat → BitVec 31 → BitVec 31
  | 0, x => x
  | n + 1, x => scramble n (x <<< 1 ||| (BitVec.ofBool (x.getLsbD 30 ^^ x.getLsbD 27)).setWidth 31)

/-- A half sends a flit, and with it a NAK that is due; its 2,048 bits pass the scramblers of its lanes. -/
def putOut (v : VHalf) (ty : Nat) (q : HeldFlit) : VHalf :=
  { v with
    sent := v.sent ++ [vflitBytes v ty q]
    nak := false
    scram := v.scram.map (scramble (2048 / v.scram.length)) }

/-- A half sends the next data flit, with the credits of one class, and keeps it in its replay buffer (R363). -/
def sendNext (v : VHalf) (bs : List Byte) : VHalf :=
  let c := owedClass v
  let q : HeldFlit := ⟨v.txSeq, c, min 4095 (nth v.owed c), bs⟩
  putOut { v with
    txSeq := (v.txSeq + 1) % 1024
    replay := v.replay ++ [q]
    owed := v.owed.set c (nth v.owed c - q.crdn) } 1 q

/-- A NAK that is due leaves in an idle flit, which returns no credit (R362, notes/assumptions/41.md). -/
def sendNak (v : VHalf) : VHalf := if v.nak then putOut v 0 ⟨0, 3, 0, []⟩ else v

/-- The link up with both halves trained. -/
def linkActive (s : State) : Bool := decide (rget s 0 LNK_STATUS_STATE = 5)

/-- A half discards a flit: NAK with the last good SEQ (R362), sent once the link is ACTIVE. -/
def discardFlit (s : State) (h : Nat) : State :=
  let v := { vhalf s h with nak := true }
  putHalf s h (if linkActive s then sendNak v else v)

/-- A data flit is sent, or waits while the link is not ACTIVE or the half's replay buffer holds 256 flits (R363). -/
def sendVFlit (s : State) (h : Nat) (bs : List Byte) : State :=
  let v := vhalf s h
  if linkActive s ∧ v.replay.length < 256 ∧ v.waiting.isEmpty then
    rbump (putHalf s h (sendNext v bs)) (halfStk h) LNK_FLITS_TX
  else putHalf s h { v with waiting := v.waiting ++ [bs] }

/-- A half sends the waiting flits for which its replay buffer has room. -/
def sendHeld (s : State) (h : Nat) : State :=
  let v := vhalf s h
  let l := v.waiting.take (if linkActive s then 256 - v.replay.length else 0)
  rbump (putHalf s h (l.foldl sendNext { v with waiting := v.waiting.drop l.length })) (halfStk h) LNK_FLITS_TX l.length

/-- The credit class of a message to the companion (Table 15.5). -/
def sentClass (m : VMsg) : Nat := if 7 ≤ m.opc.toNat then 1 else 0

/-- Slots of a message. -/
def msgSlots (m : VMsg) : Nat := (msgBytes m).length / 16

/-- Whether a half has the credits of its class for a message, and none of that class waits before it (R364). -/
def hasCredit (v : VHalf) (m : VMsg) : Bool :=
  let c := sentClass m
  !v.stalled.any (fun x => sentClass x == c)
    && decide (nth v.spent c + msgSlots m ≤ Config.vilgerCredits c + nth v.credits c)

/-- A message's slots fill flits of 14 slots, each message beginning a flit (notes/assumptions/41.md). -/
def giveMsg (s : State) (m : VMsg) : State :=
  let bs := msgBytes m
  let v := vhalf s m.half.toNat
  let s1 := putHalf { s with vil := { s.vil with out := s.vil.out ++ [m] } } m.half.toNat
    { v with spent := v.spent.set (sentClass m) (nth v.spent (sentClass m) + msgSlots m) }
  (chunks 224 (bs.length / 224 + 1) bs).foldl (fun s b => sendVFlit s m.half.toNat b) s1

/-- A message is sent, or waits for credits of its class (R364). -/
def sendMsg (s : State) (m : VMsg) : State :=
  let v := vhalf s m.half.toNat
  if hasCredit v m then giveMsg s m else putHalf s m.half.toNat { v with stalled := v.stalled ++ [m] }

/-- The messages of a half that wait go on in order, as far as there are credits. -/
def sendStalled (s : State) (h : Nat) : State :=
  (vhalf s h).stalled.foldl sendMsg (putHalf s h { vhalf s h with stalled := [] })

/-! ### Windows (R366) -/

/-- Whether `n` bytes at companion address `a` lie wholly in window `w`, which is enabled (Table 15.10). -/
def inWindow (s : State) (a n w : Nat) : Bool :=
  let base := rget s 0 LNK_WINLO_BASE w + rget s 0 LNK_WINHI_BASE w * 2 ^ 32
  let size := rget s 0 LNK_WINCFG_SIZE w
  ron s 0 LNK_WINCFG_EN w && decide (12 ≤ size) && decide (size ≤ 48) && decide (base ≤ a)
    && decide (a + n ≤ base + 2 ^ size)

/-- The first enabled window that holds `n` bytes at `a`. -/
def windowOf (s : State) (a n : Nat) : Option Nat := (List.range 4).find? (inWindow s a n)

/-! ### Requests (R365) -/

/-- A tag that no request of the half holds. -/
def freeVTag (v : VHalf) : BitVec 12 :=
  BitVec.ofNat 12 (((List.range 4096).find? fun t => !v.reqs.any fun q => q.msg.tag.toNat == t).getD 0)

/-- A request of half `h`: sent when fewer than 2,048 are outstanding, else it waits its turn (R365). -/
def request (s : State) (h opc addr len : Nat) (aux : Nat) (data : List Byte) (why : VPurpose) : State :=
  let v := vhalf s h
  let m : VMsg :=
    ⟨BitVec.ofNat 1 h, BitVec.ofNat 8 opc, freeVTag v, len, BitVec.ofNat 48 addr, BitVec.ofNat 64 aux, data⟩
  let s1 := putHalf s h { v with reqs := v.reqs ++ [⟨m, false, false, why⟩] }
  if v.reqs.length < 2048 then sendMsg s1 m else s1

/-- The outstanding request that a response's tag names. -/
def reqOf (s : State) (h : Nat) (tag : BitVec 12) : Option VReq :=
  ((vhalf s h).reqs.take 2048).find? fun q => q.msg.tag == tag

/-- A request ends; the oldest that waits is sent. -/
def endReq (s : State) (h : Nat) (q : VReq) : State :=
  let v := vhalf s h
  let s1 := putHalf s h { v with reqs := v.reqs.erase q }
  match v.reqs.drop 2048 with
  | w :: _ => sendMsg s1 w.msg
  | [] => s1

/-! ### Cached lines (R367) -/

/-- The cache set of a line: address bits [17:15] and [13:6]. -/
def lineSet (line : Nat) : Nat := bitsOf (64 * line) 6 8 + 256 * bitsOf (64 * line) 15 3

/-- The line of the half's cache that holds companion line number `n`. -/
def lineOf (s : State) (h n : Nat) : Option VLine := (vhalf s h).lines.find? fun l => l.line == n

/-- The half without a line. -/
def dropLine (s : State) (h n : Nat) : State :=
  putHalf s h { vhalf s h with lines := (vhalf s h).lines.filter fun l => l.line != n }

/-- A line is used: it becomes the most recently used. -/
def touchLine (s : State) (h : Nat) (l : VLine) : State :=
  putHalf s h { vhalf s h with lines := ((vhalf s h).lines.erase l) ++ [l] }

/-- A full set gives up its least recently used line that is not pinned, with EVS (R367). -/
def makeRoom (s : State) (h n : Nat) : State :=
  let inSet := (vhalf s h).lines.filter fun l => lineSet l.line == lineSet n
  if inSet.length < 16 then s
  else match inSet.find? fun l => !l.watched with
    | some l =>
      rbump (request (dropLine s h l.line) h 0x05 (64 * l.line) 1 0 [] .evict) (halfStk h) LNK_EVICTS
    | none => s

/-- A line is installed; a watched line is pinned. -/
def installLine (s : State) (h n : Nat) (data : List Byte) (watched : Bool) : State :=
  let pinned := watched || (match lineOf s h n with
    | some l => l.watched
    | none => false)
  let s1 := makeRoom (dropLine s h n) h n
  putHalf s1 h { vhalf s1 h with lines := (vhalf s1 h).lines ++ [⟨n, data, pinned⟩] }

/-! ### Region-4 operations (R366) -/

/-- The pieces of `n` bytes at `a` by 64-byte line: address and length. -/
def linePieces : Nat → Nat → Nat → List (Nat × Nat)
  | 0, _, _ => []
  | fuel + 1, a, n =>
    if n = 0 then []
    else
      let k := min n (64 - a % 64)
      (a, k) :: linePieces fuel (a + k) (n - k)

/-- The byte mask of WRP for `n` bytes from byte `b` of a line. -/
def byteMask (b n : Nat) : Nat := (2 ^ n - 1) * 2 ^ b

/-- A write of bytes at companion address `a` leaves half `h`: the die drops its copy of each line; whole lines leave
as WRF and parts of lines as WRP. Piece `i` has the purpose `why i`. -/
def writeLines (s : State) (h a : Nat) (bs : List Byte) (why : Nat → VPurpose) : State :=
  ((linePieces 2048 a bs.length).zipIdx).foldl (fun s q =>
    let at_ := q.1.1
    let part := (bs.drop (at_ - a)).take q.1.2
    let s1 := dropLine s h (at_ / 64)
    if q.1.2 = 64 then request s1 h 0x03 at_ 1 0 part (why q.2)
    else request s1 h 0x04 (at_ - at_ % 64) 1 (byteMask (at_ % 64) q.1.2)
      (List.replicate (at_ % 64) 0 ++ part ++ List.replicate (64 - at_ % 64 - q.1.2) 0) (why q.2)) s

/-- A region-4 operation ends with its last part: its completion goes to the issuer. -/
def finishVOp (s : State) (o : VOp) : State :=
  let s1 := { s with vil := { s.vil with ops := s.vil.ops.filter fun x => x.id != o.id } }
  let bytes := (sortBy (fun (a b : Nat × List Byte) => decide (a.1 ≤ b.1)) o.got).flatMap fun g => g.2
  complete s1 (halfStk (halfOf (addrOff o.packet.dest))) o.packet o.status false
    (if o.packet.op = .get ∧ o.status = .ok then bytes else [])

/-- The machine with a region-4 operation replaced. -/
def putVOp (s : State) (o : VOp) : State :=
  { s with vil := { s.vil with ops := (s.vil.ops.map fun (x : VOp) => if x.id = o.id then o else x) } }

/-- Part `i` of an operation ends with a status, with bytes when it read. -/
def endPart (s : State) (id i : Nat) (st : Status) (bytes : List Byte) : State :=
  match s.vil.ops.find? fun o => o.id == id with
  | none => s
  | some o =>
    let o1 : VOp := { o with
      open_ := o.open_.erase i
      status := (if o.status = Status.ok then st else o.status)
      got := o.got ++ [(i, bytes)] }
    if o1.open_.isEmpty then finishVOp s o1 else putVOp s o1

/-- A region-4 operation begins: its packet has left the network. -/
def startVOp (s : State) (p : Packet) (parts : Nat) : State :=
  { s with
    net := s.net.erase p
    vil := { s.vil with
      ops := s.vil.ops ++ [⟨s.vil.nextOp, p, List.range parts, .ok, []⟩]
      nextOp := s.vil.nextOp + 1 } }

/-- A region-4 PUT (R366): it completes when the CMP of its last part has arrived. -/
def companionPut (s : State) (p : Packet) : State :=
  let a := addrOff p.dest
  let id := s.vil.nextOp
  let bs := p.data.take p.len
  writeLines (startVOp s p (linePieces 2048 a bs.length).length) (halfOf a) a bs fun i => .packet id i

/-- One line of a region-4 GET: from the cache, as RDS where lines may be cached, else as RDU. -/
def companionRead (s : State) (h id i : Nat) (cached : Bool) (a n : Nat) : State :=
  match lineOf s h (a / 64) with
  | some l => endPart (touchLine s h l) id i .ok ((l.data.drop (a % 64)).take n)
  | none => request s h (if cached then 0x01 else 0x02) (a - a % 64) 1 0 [] (.packet id i)

/-- A region-4 GET (R366). -/
def companionGet (s : State) (p : Packet) (w : Nat) : State :=
  let a := addrOff p.dest
  let id := s.vil.nextOp
  let ps := linePieces 2048 a p.len
  ps.zipIdx.foldl (fun s q => companionRead s (halfOf a) id q.2 (ron s 0 LNK_WINCFG_C w) q.1.1 q.1.2)
    (startVOp s p ps.length)

/-! ### The lead Helm's reads of watched lines (R369, R370) -/

/-- The lead Helm reads a watched line; a notice for a line whose read is outstanding is kept. -/
def watchRead (s : State) (a : Nat) : State :=
  let h := halfOf a
  let v := vhalf s h
  if v.reqs.any fun q => q.purpose == .watch && q.msg.addr.toNat == a - a % 64 then
    putHalf s h { v with reqs := v.reqs.map fun q =>
      if q.purpose == .watch && q.msg.addr.toNat == a - a % 64 then { q with again := true } else q }
  else request s h 0x01 (a - a % 64) 1 0 [] .watch

/-- Companion addresses of the descriptor area, the report ring and the completion lines. -/
def descBase (s : State) : Nat := rget s 0 LNK_DESC_LO_BASE + rget s 0 LNK_DESC_HI_BASE * 2 ^ 32
def rptBase (s : State) : Nat := rget s (leadStk s) HLM_RPT_BASE_LO_BASE + rget s (leadStk s) HLM_RPT_BASE_HI_BASE * 2 ^ 32
def cplBase (s : State) : Nat := rget s (leadStk s) HLM_CPL_BASE_LO_BASE + rget s (leadStk s) HLM_CPL_BASE_HI_BASE * 2 ^ 32

/-- The watched lines (R369): the descriptor lines, the return line and the image command line. -/
def watchedLines (s : State) : List Nat :=
  ((List.range (min 4096 (rget s 0 LNK_DESC_N_N))).map fun i => descBase s + 64 * i)
    ++ [cplBase s + 1024, cplBase s + 1088]

/-- Whether a watched line lies in a window with W = 1 and C = 1 (R369). -/
def watchable (s : State) (a : Nat) : Bool :=
  match windowOf s a 64 with
  | some w => ron s 0 LNK_WINCFG_W w && ron s 0 LNK_WINCFG_C w
  | none => false

end Sys2Proof.Machine
end

