-- ==== Sys2Proof/Machine/ChartOps.lean ====
section
/-!
DEFINITION. The chart area of a stack and the walkers' work on it (R221 to R242): descriptors, charts, references and
pins, the chart cache, and the two windows.
-/

namespace Sys2Proof.Machine

/-! ### DRAM and the chart area -/

/-- Bytes of a stack's DRAM. -/
def dread (s : State) (k off n : Nat) : List Byte := memRead s.dram (k * 2 ^ 36 + off) n
def dwrite (s : State) (k off : Nat) (bs : List Byte) : State := { s with dram := memWrite s.dram (k * 2 ^ 36 + off) bs }

/-- The size of a stack's DRAM: 48 GiB (R320). -/
def dramSize : Nat := 48 * 2 ^ 30

/-- Base of the chart area (CHT_BASE). -/
def chartBase (s : State) (k : Nat) : Nat := rget s k CHT_BASE_LO_BASE + rget s k CHT_BASE_HI_BASE * 2 ^ 32

/-- Whether a region-0 access reaches the chart area: from CHT_BASE to the end of DRAM, and nowhere while CHT_BASE holds
its reset value 0 (notes/assumptions/42.md). -/
def inChart (s : State) (k off n : Nat) : Bool := decide (chartBase s k ≠ 0) && decide (chartBase s k < off + n)

/-- Bytes, and 64-bit words, of the chart area. -/
def cread (s : State) (k off n : Nat) : List Byte := dread s k (chartBase s k + off) n
def cwrite (s : State) (k off : Nat) (bs : List Byte) : State := dwrite s k (chartBase s k + off) bs
def cword (s : State) (k off : Nat) : Nat := leVal (cread s k off 8)
def putCword (s : State) (k off v : Nat) : State := cwrite s k off (leBytes 8 v)

/-- What Helm wrote in the area's first 64 bytes (R243). -/
def chartFacts (s : State) (k : Nat) : List Nat := Config.chartHeader (cread s k 0 64)
def frameCount (s : State) (k : Nat) : Nat := nth (chartFacts s k) 0
def poolOff (s : State) (k : Nat) : Nat := nth (chartFacts s k) 1
def descTable (s : State) (k : Nat) : Nat := nth (chartFacts s k) 2
def rootTable (s : State) (k : Nat) : Nat := nth (chartFacts s k) 3

/-- KV blocks of the stack, B. -/
def kvBlocks (s : State) (k : Nat) : Nat := rget s k CHT_LAYOUT_BLOCKS + 1

/-- The width bits of a layer: KW, VW (CHT_LFMT_n). -/
def layerKW (s : State) (k l : Nat) : Bool := bitOf (rget s k CHT_LFMT_WIDTHS (l / 16)) (2 * (l % 16))
def layerVW (s : State) (k l : Nat) : Bool := bitOf (rget s k CHT_LFMT_WIDTHS (l / 16)) (2 * (l % 16) + 1)

/-! ### Faults (R225, R374 class 7) -/

/-- A chart fault is recorded and reported to the lead Helm. -/
def chartFault (s : State) (k c : Nat) (f : Fld) : State :=
  let s1 := rput (rset s k f) k CHT_FAULT_CONTEXT c
  { s1 with reports := s1.reports ++ [.chartFault (BitVec.ofNat 3 k)] }

/-! ### Descriptors (Table 9.2) -/

/-- Words 0 and 1 of the descriptor of frame `f`. -/
def desc0 (s : State) (k f : Nat) : Nat := cword s k (descTable s k + 16 * f)
def desc1 (s : State) (k f : Nat) : Nat := cword s k (descTable s k + 16 * f + 8)
def putDesc1 (s : State) (k f v : Nat) : State := putCword s k (descTable s k + 16 * f + 8) v

def descRef (w : Nat) : Nat := bitsOf w 0 16
def descPin (w : Nat) : Nat := bitsOf w 16 16
def descGen (w : Nat) : Nat := bitsOf w 32 16
def descValid (w : Nat) : Nat := bitsOf w 48 7
def descAlloc (w : Nat) : Bool := bitOf w 55
def descPub (w : Nat) : Bool := bitOf w 56

/-- The frame's descriptor says ALLOC = 1 and GEN = `gen` (R233). -/
def genHolds (s : State) (k f gen : Nat) : Bool := descAlloc (desc1 s k f) && descGen (desc1 s k f) == gen

/-- DEFER of a descriptor. -/
def descDefer (w : Nat) : Bool := bitOf w 58

/-- A frame leaves service (R234, R237): ALLOC := 0 and onto the free list, or, in deferred-free mode, DEFER := 1 instead and
onto the deferred list; a frame out of service for good joins neither (R376). PUB and FORMS go with the content. -/
def releaseFrame (s : State) (k f : Nat) : State :=
  let w := putBits (desc1 s k f) 56 2 0
  let s1 := rbump s k CHT_RELEASES
  let d := stkOf s1 k
  if d.retired.contains f then putDesc1 s1 k f (putBits w 55 1 0)
  else if ron s k CHT_STATUS_DEFERRED then putStk (putDesc1 s1 k f (putBits w 58 1 1)) k { d with deferred := d.deferred ++ [f] }
  else putStk (putDesc1 s1 k f (putBits w 55 1 0)) k { d with frames := d.frames ++ [f] }

/-- A frame is taken out of service for good (R376). -/
def retireFrame (s : State) (k f : Nat) : State :=
  let d := stkOf s k
  putStk s k { d with
    frames := (d.frames.filter fun x => x != f)
    deferred := (d.deferred.filter fun x => x != f)
    retired := if d.retired.contains f then d.retired else d.retired ++ [f] }

/-- The word 1 of a frame replaced by the walker's CAS; at REF = 0 and PIN = 0 the frame leaves service, unless it waits on
the deferred list already. -/
def casDesc (s : State) (k f w : Nat) : State :=
  let s1 := putDesc1 s k f w
  if descRef w = 0 ∧ descPin w = 0 ∧ descAlloc w ∧ !descDefer w then releaseFrame s1 k f else s1

/-- REF + 1 under the GEN check: none when it fails (R233). -/
def refUp (s : State) (k f gen : Nat) : Option State :=
  if genHolds s k f gen then some (putDesc1 s k f (putBits (desc1 s k f) 0 16 (descRef (desc1 s k f) + 1))) else none

/-- REF − 1. -/
def refDown (s : State) (k f : Nat) : State := casDesc s k f (putBits (desc1 s k f) 0 16 (descRef (desc1 s k f) - 1))

/-- PIN + 1 under the GEN check. -/
def pinUp (s : State) (k f gen : Nat) : Option State :=
  if genHolds s k f gen then some (putDesc1 s k f (putBits (desc1 s k f) 16 16 (descPin (desc1 s k f) + 1))) else none

/-- PIN − 1. -/
def pinDown (s : State) (k f : Nat) : State := casDesc s k f (putBits (desc1 s k f) 16 16 (descPin (desc1 s k f) - 1))

/-- The oldest free frame is allocated for a layer (R223, R234, R238): none when the free list is empty. -/
def allocFrame (s : State) (k l : Nat) : Option (State × Nat × Nat) :=
  let d := stkOf s k
  match d.frames with
  | [] => none
  | f :: r =>
    let gen := (descGen (desc1 s k f) + 1) % 65536
    let wrap := decide (gen = 0)
    let s1 := putStk s k { d with
      frames := r
      cache := if wrap then d.cache.filter fun e => e.frame != f else d.cache }
    let s2 := if wrap then rbump s1 k CHT_WRAPS else s1
    let s3 := putDesc1 (rbump s2 k CHT_ALLOCS) k f (1 + gen * 2 ^ 32 + 2 ^ 55)
    some (putCword s3 k (descTable s k + 16 * f)
      (f % 2 ^ 24 + bit (layerKW s k l) * 2 ^ 24 + bit (layerVW s k l) * 2 ^ 25 + l % 128 * 2 ^ 32), f, gen)

/-! ### Charts (Tables 9.3 and 9.4) -/

/-- A root entry. -/
structure Root where
  list   : Nat
  layers : Nat
  ppl    : Nat
  toks   : Nat
deriving DecidableEq, Repr

/-- The root entry of a context. -/
def rootOf (s : State) (k c : Nat) : Root :=
  let w := cword s k (rootTable s k + 16 * c)
  ⟨bitsOf w 0 40, bitsOf w 40 8, bitsOf w 48 9, bitsOf (cword s k (rootTable s k + 16 * c + 8)) 0 15⟩

/-- The machine with a context's root entry replaced. -/
def putRoot (s : State) (k c : Nat) (r : Root) : State :=
  putCword (putCword s k (rootTable s k + 16 * c) (r.list + r.layers * 2 ^ 40 + r.ppl * 2 ^ 48)) k
    (rootTable s k + 16 * c + 8) r.toks

/-- A page-list entry: frame, generation, V. -/
structure Ple where
  frame : Nat
  gen   : Nat
  v     : Bool
deriving DecidableEq, Repr

def pleOf (w : Nat) : Ple := ⟨bitsOf w 0 24, bitsOf w 24 16, bitOf w 40⟩
def pleWord (e : Ple) : Nat := e.frame + e.gen * 2 ^ 24 + bit e.v * 2 ^ 40

/-- Chart-area offset of the entry of layer `l` and page `p`. -/
def pleAt (r : Root) (l p : Nat) : Nat := r.list + 8 * (l * r.ppl + p)

/-- The page-list entry of a context. -/
def getPle (s : State) (k : Nat) (r : Root) (l p : Nat) : Ple := pleOf (cword s k (pleAt r l p))

/-- A page-list entry rewritten; its cache entry goes (R229). -/
def putPle (s : State) (k c : Nat) (r : Root) (l p : Nat) (e : Ple) : State :=
  let s1 := putCword s k (pleAt r l p) (pleWord e)
  let d := stkOf s1 k
  putStk s1 k { d with cache := d.cache.filter fun x => !(x.context == c && x.layer == l && x.page == p) }

/-- Whether an entry in use is stale (R225). -/
def pleStale (s : State) (k : Nat) (e : Ple) : Bool := e.v && !genHolds s k e.frame e.gen

/-- The walker has read a page-list entry of context `c`: a stale one, and one whose descriptor is not its frame's, is a
chart fault (R225, Table 9.13). -/
def seeEntry (s : State) (k c : Nat) (e : Ple) : State :=
  if pleStale s k e then chartFault s k c CHT_FAULT_STALE
  else if e.v ∧ bitsOf (desc0 s k e.frame) 0 24 ≠ e.frame then chartFault s k c CHT_FAULT_CORRUPT
  else s

/-- The first entry of a context, among some places of its chart, that is stale: the walker stops there (R225, R233). -/
def firstStale (s : State) (k : Nat) (r : Root) (places : List (Nat × Nat)) : Option Ple :=
  (places.map fun q => getPle s k r q.1 q.2).find? (pleStale s k)

/-- An entry of context `c` no longer maps its frame: REF − 1, unless the frame has gone to another use (R225, R233). -/
def dropMapping (s : State) (k c : Nat) (e : Ple) : State :=
  if e.v ∧ !pleStale s k e then refDown (seeEntry s k c e) k e.frame else seeEntry s k c e

/-- Every (layer, page) of a chart. -/
def chartPlaces (r : Root) : List (Nat × Nat) :=
  (List.range r.layers).flatMap fun l => (List.range r.ppl).map fun p => (l, p)

/-! ### The chart cache (R229) -/

/-- The cache takes an entry: where its set is full, a victim goes. -/
def fillCache (s : State) (k : Nat) (e : ChartLine) : State :=
  let d := stkOf s k
  let setOf := fun (x : ChartLine) => Config.chartSet x.context x.layer x.page % 32
  let inSet := d.cache.filter fun x => setOf x == setOf e
  if inSet.length < 8 then putStk s k { d with cache := d.cache ++ [e] }
  else match inSet[Config.chartVictim d.evicts % 8]? with
    | some v => putStk s k { d with cache := d.cache.erase v ++ [e], evicts := d.evicts + 1 }
    | none => putStk s k { d with evicts := d.evicts + 1 }

/-- Where the page of (context, layer, page) lies: from the cache, or by reading entry and descriptor; none when the
entry is not in use, stale, or names a descriptor that is not its frame's (R225, R227, Table 9.13). -/
def translate (s : State) (k c : Nat) (r : Root) (l p : Nat) : State × Option ChartLine :=
  match (stkOf s k).cache.find? fun x => x.context == c && x.layer == l && x.page == p with
  | some x => (rbump s k CHT_HITS, some x)
  | none =>
    let s1 := rbump s k CHT_MISSES
    let e := getPle s k r l p
    if !e.v || pleStale s k e then (chartFault s1 k c CHT_FAULT_STALE, none)
    else if bitsOf (desc0 s k e.frame) 0 24 ≠ e.frame then (chartFault s1 k c CHT_FAULT_CORRUPT, none)
    else
      let x : ChartLine :=
        ⟨c, l, p, e.frame, e.gen, bitOf (desc0 s k e.frame) 24, bitOf (desc0 s k e.frame) 25⟩
      (fillCache s1 k x, some x)

/-! ### Frames (Table 9.1) -/

/-- Bytes an element plane gives a position: 64 when it is 4-bit, else 128. -/
def elemBytes (narrow : Bool) : Nat := if narrow then 64 else 128

/-- Chart-area offset of position `i` of block `b` in frame `f` whose planes have the given widths. -/
def frameOff (s : State) (k f : Nat) (kw vw plane tags : Bool) (b i : Nat) : Nat :=
  let bs := kvBlocks s k
  let ek := elemBytes kw
  let ev := elemBytes vw
  poolOff s k + f * (rget s k CHT_LAYOUT_FRAMESZ * 4096) +
    (if tags then 64 * bs * (ek + ev) + (if plane then 128 * bs else 0) + 128 * b + 2 * i
     else if plane then 64 * bs * ek + b * 64 * ev + i * ev
     else b * 64 * ek + i * ek)

/-- 4-bit elements, two to a byte with the even one low, sign-extended to a byte each (R50). -/
def widen (bs : List Byte) : List Byte :=
  bs.flatMap fun b => [BitVec.ofInt 8 (signed 4 (b.toNat % 16)), BitVec.ofInt 8 (signed 4 (b.toNat / 16))]

/-! ### Window offsets (Table 9.5) -/

/-- A region-3 offset, decoded. -/
structure WinAddr where
  win   : Nat
  slot  : Nat
  layer : Nat
  plane : Bool
  tags  : Bool
  w     : Bool
  block : Nat
  byte  : Nat
deriving DecidableEq, Repr

def winAddr (o : Nat) : WinAddr :=
  ⟨bitsOf o 46 2, bitsOf o 36 10, bitsOf o 29 7, bitOf o 28, bitOf o 27, bitOf o 26, bitsOf o 21 5, bitsOf o 0 21⟩

/-- Bytes a position has in the access's plane. -/
def winSize (a : WinAddr) : Nat := if a.tags then 2 else elemBytes a.w

/-- The positions that `n` bytes cover. -/
def winPositions (a : WinAddr) (n : Nat) : List Nat :=
  let lo := a.byte / winSize a
  (List.range ((a.byte + n - 1) / winSize a + 1 - lo)).map (lo + ·)

/-- The request in context `c` takes FORMAT (R205, R228). -/
def formatRequest (s : State) (c : Nat) : State :=
  match mapGet (fun _ => none) s.serve.contexts c with
  | some x => { s with serve := { s.serve with
      contexts := mapSet (fun _ => none) s.serve.contexts c (some { x with format := true }) } }
  | none => s

/-! ### Pins of window reads (R236, R237) -/

/-- Whether a step of berth `b` runs. -/
def stepRuns (s : State) (b : Nat) : Bool :=
  match (s.serve.berths.getD b Berth.reset).step with
  | .running _ => true
  | _ => false

/-- A window GET of a step of berth `b` pins frame `f` once, unless it is among the last 64; a full list puts the stack
into deferred-free mode. Outside a step nothing is pinned. -/
def pinForBerth (s : State) (k b f gen : Nat) : State :=
  let l := mapGet (fun _ => []) (stkOf s k).pins b
  if !stepRuns s b || ((l.drop (l.length - 64)).contains f) then s
  else if 2048 ≤ l.length then
    let full := rget s k CHT_STATUS_FULLMAP
    rput (rset (rbump s k CHT_OVERFLOWS) k CHT_STATUS_DEFERRED) k CHT_STATUS_FULLMAP
      (if bitOf full b then full else full + 2 ^ b)
  else match pinUp s k f gen with
    | some s1 => putStk s1 k { stkOf s1 k with pins := mapSet (fun _ => []) (stkOf s1 k).pins b (l ++ [f]) }
    | none => s

/-- Deferred-free mode ends: the deferred frames go to the free list in their order, DEFER and ALLOC clear. -/
def endDeferred (s : State) (k : Nat) : State :=
  let d := stkOf s k
  let s1 := d.deferred.foldl (fun s f => putDesc1 s k f (putBits (putBits (desc1 s k f) 58 1 0) 55 1 0)) s
  rput (putStk s1 k { d with frames := d.frames ++ d.deferred, deferred := [] }) k CHT_STATUS_DEFERRED 0

/-- Berth `b`'s step has committed or been abandoned: its pins in the stack are released (R236, R237). -/
def releasePins (s : State) (k b : Nat) : State :=
  let l := mapGet (fun _ => []) (stkOf s k).pins b
  let s1 := putStk s k { stkOf s k with pins := mapSet (fun _ => []) (stkOf s k).pins b [] }
  let s2 := l.foldl (fun s f => pinDown s k f) s1
  let s3 := rput s2 k CHT_STATUS_FULLMAP (putBits (rget s2 k CHT_STATUS_FULLMAP) b 1 0)
  if rget s3 k CHT_STATUS_FULLMAP = 0 ∧ ron s3 k CHT_STATUS_DEFERRED then endDeferred s3 k else s3

/-! ### The page window (R205, R227) -/

/-- The bytes of one position that a window read returns from the page found for it. -/
def pageBytes (s : State) (k : Nat) (a : WinAddr) (x : ChartLine) (i : Nat) : List Byte :=
  let narrow := if a.plane then x.vw else x.kw
  let off := frameOff s k x.frame x.kw x.vw a.plane a.tags a.block (i % 64)
  if a.tags then cread s k off 2
  else if narrow && !a.w then widen (cread s k off 64)
  else cread s k off (elemBytes narrow)

/-- Whether the page is wider than the read: it returns a null block and FORMAT (R205). -/
def pageWider (a : WinAddr) (x : ChartLine) : Bool := a.w && !(if a.plane then x.vw else x.kw)

/-- A window read of `n` bytes of pages: page by page, then the bytes. -/
def pageRead (s : State) (k : Nat) (a : WinAddr) (n : Nat) : State × List Byte :=
  let c := rget s k CHT_SLOT_CONTEXT a.slot
  let r := rootOf s k c
  let live := ron s k CHT_SLOT_VALID a.slot && decide (a.block < kvBlocks s k) && decide (a.layer < r.layers)
  let ps := winPositions a n
  let pages := ((ps.filter fun i => live && decide (i < r.toks)).map (· / 64)).eraseDups
  let found := pages.foldl (fun (q : State × List (Nat × ChartLine)) p =>
    match translate q.1 k c r a.layer p with
    | (s1, some x) =>
      let s2 := pinForBerth s1 k (rget s k CHT_SLOT_BERTH a.slot) x.frame x.gen
      if pageWider a x then (formatRequest s2 c, q.2) else (s2, q.2 ++ [(p, x)])
    | (s1, none) => (s1, q.2)) (s, [])
  let at_ := fun i => if live && decide (i < r.toks) then found.2.find? fun y => y.1 == i / 64 else none
  let bytes := ps.flatMap fun i => match at_ i with
    | some y => pageBytes s k a y.2 i
    | none => List.replicate (winSize a) 0
  let nulls := ps.countP fun i => (at_ i).isNone
  (rbump found.1 k CHT_NULLS nulls, (bytes.drop (a.byte % winSize a)).take n)

/-! ### The append window (R228) -/

/-- A window write of bytes: status, and the machine after it. -/
def windowWrite (s : State) (k : Nat) (a : WinAddr) (bs : List Byte) : State × Status :=
  let c := rget s k CHT_SLOT_CONTEXT a.slot
  let r := rootOf s k c
  let m := rget s k CHT_SLOT_M a.slot
  let ps := winPositions a bs.length
  let narrow := if a.plane then layerVW s k a.layer else layerKW s k a.layer
  if !ron s k CHT_SLOT_VALID a.slot || !(ps.all fun i => decide (r.toks ≤ i) && decide (i < r.toks + m))
      || !decide (a.block < kvBlocks s k) || !decide (a.layer < r.layers) then (s, .fenced)
  else if a.w ≠ narrow then (formatRequest s c, .ok)
  else
    let pages := (ps.map (· / 64)).eraseDups
    let found := pages.foldl (fun (q : State × List (Nat × ChartLine)) p =>
      match translate q.1 k c r a.layer p with
      | (s1, some x) => (s1, q.2 ++ [(p, x)])
      | (s1, none) => (s1, q.2)) (s, [])
    if found.2.length < pages.length then (found.1, .fenced)
    else
      let size := winSize a
      (ps.foldl (fun s i =>
        match found.2.find? fun y => y.1 == i / 64 with
        | some y =>
          let lo := max a.byte (i * size)
          let hi := min (a.byte + bs.length) ((i + 1) * size)
          cwrite s k (frameOff s k y.2.frame y.2.kw y.2.vw a.plane a.tags a.block (i % 64) + (lo - i * size))
            ((bs.drop (lo - a.byte)).take (hi - lo))
        | none => s) found.1, .ok)

end Sys2Proof.Machine
end

