-- ==== Sys2Proof/Machine/Rutter.lean ====
section
/-!
DEFINITION. The Rutter (R239 to R242, Table 9.10): block hashes, buckets and nodes.
-/

namespace Sys2Proof.Machine

/-- Hash of a block of tokens after `z` (R239). -/
def blockHash (z : Dword) (toks : List Nat) : Dword := toks.foldl (fun z t => mix64 z (BitVec.ofNat 64 (t + 1))) z

/-- The Rutter walker is enabled for K = 10 to 24 (Table 9.16). -/
def rutterOn (s : State) (k : Nat) : Bool := decide (10 ≤ rget s k RUT_CFG_K) && decide (rget s k RUT_CFG_K ≤ 24)

/-- Chart-area offset of the bucket of a hash. -/
def bucketAt (s : State) (k : Nat) (h : Dword) : Nat :=
  4096 * rget s k RUT_BUCKETS_OFFSET + 64 * (h.toNat / 2 ^ (64 - rget s k RUT_CFG_K))

/-- The eight places of a bucket. -/
def bucketPlaces (s : State) (k b : Nat) : List Nat := (List.range 8).map fun i => cword s k (b + 8 * i)

/-- 32-bit field of a node. -/
def nodeWord (s : State) (k x o : Nat) : Nat := leVal (cread s k (x + o) 4)
def putNodeWord (s : State) (k x o v : Nat) : State := cwrite s k (x + o) (leBytes 4 v)

/-- A node's fields. -/
def nodeHash (s : State) (k x : Nat) : Nat := cword s k x
def nodeParent (s : State) (k x : Nat) : Nat := cword s k (x + 8)
def nodeRoot (s : State) (k x : Nat) : Nat := cword s k (x + 16)
def nodeDepth (s : State) (k x : Nat) : Nat := nodeWord s k x 24
def nodeChildren (s : State) (k x : Nat) : Nat := nodeWord s k x 28
def nodeState (s : State) (k x : Nat) : Nat := nodeWord s k x 32
def nodeListAt (s : State) (k x : Nat) : Nat := cword s k (x + 40)
def nodeToks (s : State) (k x : Nat) : List Nat := wordsOf (cread s k (x + 64) 256)

/-- Layers that a node's list holds. -/
def nodeLayerCount (s : State) (k x : Nat) : Nat := mapGet (fun _ => 0) (stkOf s k).nodeLayers x

/-- The page-list entry of layer `l` in a node's list. -/
def nodePle (s : State) (k x l : Nat) : Ple := pleOf (cword s k (nodeListAt s k x + 8 * l))

/-- LASTUSE of a node. -/
def touchNode (s : State) (k x : Nat) : State := putCword s k (x + 48) s.tick

/-- Whether node `x` matches at a depth, but for its tokens (R240). -/
def nodeFits (s : State) (k x : Nat) (h root : Dword) (parent depth : Nat) : Bool :=
  nodeHash s k x == h.toNat && nodeParent s k x == parent && (depth != 0 || nodeRoot s k x == root.toNat)
    && nodeState s k x == 2

/-- The node of a bucket that matches a block: the machine after counting the nodes skipped because their hash matches and
their tokens differ, and the node (R240). -/
def findNode (s : State) (k : Nat) (h root : Dword) (parent depth : Nat) (toks : List Nat) : State × Option Nat :=
  (bucketPlaces s k (bucketAt s k h)).foldl (fun (q : State × Option Nat) x =>
    if q.2.isSome || x = 0 then q
    else if nodeHash s k x ≠ h.toNat then q
    else if nodeToks s k x ≠ toks then (rbump q.1 k RUT_COLLIDE, none)
    else if nodeFits s k x h root parent depth then (q.1, some x)
    else q) (s, none)

/-- One block of a prefix lookup: `q` holds the machine, the chain hash so far, the depth and node reached, and whether
a block has missed. -/
def lookupStep (k : Nat) (root : Dword) (q : State × Dword × Nat × Nat × Bool) (toks : List Nat) :
    State × Dword × Nat × Nat × Bool :=
  if q.2.2.2.2 then q
  else
    let h := blockHash q.2.1 toks
    let f := findNode q.1 k h root q.2.2.2.1 q.2.2.1 toks
    match f.2 with
    | none => (f.1, h, q.2.2.1, q.2.2.2.1, true)
    | some x => (rbump (touchNode f.1 k x) k RUT_BLOCKS, h, q.2.2.1 + 1, x, false)

/-- A lookup of blocks of tokens (R240): the depth matched and the deepest node. -/
def lookupBlocks (k : Nat) (root : Dword) (bs : List (List Nat)) (s : State) (z : Dword) (depth node : Nat) :
    State × Nat × Nat :=
  let q := bs.foldl (lookupStep k root) (s, z, depth, node, false)
  (q.1, q.2.2.1, q.2.2.2.1)

/-- The chain of nodes from `x` to depth 0, deepest first; none when it does not end there, or a node is not
published. -/
def nodeChain (s : State) (k : Nat) : Nat → Nat → Option (List Nat)
  | 0, _ => none
  | fuel + 1, x =>
    if nodeState s k x ≠ 2 then none
    else if nodeDepth s k x = 0 then some [x]
    else (nodeChain s k fuel (nodeParent s k x)).map fun l => x :: l

/-- A page-list entry of a context comes to map another frame: REF + 1 under the GEN check, then the mapping that stood
there is dropped (R233). -/
def remap (s : State) (k c : Nat) (r : Root) (l p : Nat) (e : Ple) : Option State :=
  (refUp s k e.frame e.gen).map fun s1 => dropMapping (putPle s1 k c r l p e) k c (getPle s1 k r l p)

/-- Layer `l` of a node's page is mapped at page `depth` of context `c`. -/
def mapLayer (k c : Nat) (r : Root) (x depth : Nat) (q : Option State) (l : Nat) : Option State :=
  match q with
  | none => none
  | some s =>
    let e := nodePle s k x l
    if e.v then remap s k c r l depth e else none

/-- Every layer of a node's page is mapped (MAP of Table 9.8). -/
def mapNode (k c : Nat) (r : Root) (q : Option State) (x : Nat) : Option State :=
  match q with
  | none => none
  | some s =>
    ((List.range r.layers).foldl (mapLayer k c r x (nodeDepth s k x)) (some s)).map fun s1 => touchNode s1 k x

/-- A node's page of layer `l` is published and referenced (R241). -/
def publishLayer (k : Nat) (r : Root) (page list_ : Nat) (q : Option State) (l : Nat) : Option State :=
  match q with
  | none => none
  | some s =>
    let e := getPle s k r l page
    if !e.v then none
    else (refUp s k e.frame e.gen).map fun s1 =>
      putCword (putDesc1 s1 k e.frame (putBits (desc1 s1 k e.frame) 56 1 1)) k (list_ + 8 * l) (pleWord e)

/-- A node written in the bucket's place `b + 8 i` and published (R241): none on a STALE check. -/
def writeNode (s : State) (k : Nat) (r : Root) (place : Nat) (h root : Dword) (parent j : Nat) (toks : List Nat) :
    Option (State × Nat) :=
  let n := (stkOf s k).inserts
  let x := Config.nodePlace k n
  let list_ := Config.nodeList k n
  let s1 := putStk s k { stkOf s k with inserts := n + 1, nodeLayers := mapSet (fun _ => 0) (stkOf s k).nodeLayers x r.layers }
  let body := leBytes 8 h.toNat ++ leBytes 8 parent ++ leBytes 8 root.toNat ++ leBytes 4 j ++ leBytes 4 0
    ++ leBytes 4 1 ++ leBytes 4 0 ++ leBytes 8 list_ ++ leBytes 8 0 ++ leBytes 8 0 ++ toks.flatMap (leBytes 4)
  let s2 := cwrite (putCword s1 k place x) k x body
  match (List.range r.layers).foldl (publishLayer k r j list_) (some s2) with
  | none => none
  | some s3 =>
    let s4 := if j = 0 then s3 else putNodeWord s3 k parent 28 (nodeChildren s3 k parent + 1)
    some (putNodeWord s4 k x 32 2, x)

/-! ### Key-bank forms of a node (R213) -/

/-- The group's page-list entries of layer `l` at a node of odd depth: its parent's page and its own. -/
def groupPles (s : State) (k x l : Nat) : List Ple := [nodePle s k (nodeParent s k x) l, nodePle s k x l]

/-- FORMS of the group's pages of a layer set. -/
def markForms (s : State) (k x l : Nat) : State :=
  (groupPles s k x l).foldl (fun s e => if e.v then putDesc1 s k e.frame (putBits (desc1 s k e.frame) 57 1 1) else s) s

/-- Whether a form of some node covers the page of an entry of layer `l`. -/
def formedPage (s : State) (k l : Nat) (e : Ple) : Bool :=
  (stkOf s k).nodeLayers.any fun q => decide (nodeState s k q.1 = 2) && decide (nodeDepth s k q.1 % 2 = 1)
    && decide (cword s k (q.1 + 56) ≠ 0) && (groupPles s k q.1 l).contains e

/-- FORMS of the group's pages of a layer cleared, but of a page that another node's form still covers. -/
def unmarkForms (s : State) (k x l : Nat) : State :=
  (groupPles s k x l).foldl (fun s e =>
    if e.v && !formedPage s k l e then putDesc1 s k e.frame (putBits (desc1 s k e.frame) 57 1 0) else s) s

/-- The forms of a node are freed with it (R213, R242). -/
def freeForms (s : State) (k x : Nat) : State :=
  if cword s k (x + 56) = 0 then s
  else (List.range (nodeLayerCount s k x)).foldl (fun s l => unmarkForms s k x l) (putCword s k (x + 56) 0)

/-- A node leaves its bucket (R242). -/
def unlinkNode (s : State) (k x : Nat) : State :=
  let b := bucketAt s k (BitVec.ofNat 64 (nodeHash s k x))
  (List.range 8).foldl (fun s i => if cword s k (b + 8 * i) = x then putCword s k (b + 8 * i) 0 else s)
    (putNodeWord s k x 32 0)

/-- EVICT of a node (R242): its pages lose a reference and its parent a child. -/
def evictNode (s : State) (k x : Nat) : State :=
  let s1 := unlinkNode s k x
  let s2 := (List.range (nodeLayerCount s1 k x)).foldl (fun s l =>
    let e := nodePle s k x l
    if e.v then refDown s k e.frame else s) s1
  let s3 := if nodeParent s2 k x = 0 then s2
    else putNodeWord s2 k (nodeParent s2 k x) 28 (nodeChildren s2 k (nodeParent s2 k x) - 1)
  rbump s3 k RUT_EVICTS

end Sys2Proof.Machine
end

