-- ==== Sys2Proof/Machine/Chart.lean ====
section
/-!
DEFINITION. The chart and Rutter commands of the ring (R231, Tables 9.7 and 9.8), the windows, and the walkers'
control registers.
-/

namespace Sys2Proof.Machine

/-! ### The command ring (R231) -/

/-- RESULT codes (Table 9.7). -/
inductive ChtCode
  | ok | noframe | stale | range | exists_ | nospace | inuse | norutter
deriving DecidableEq, Repr

def chtCodeNo : ChtCode → Nat
  | .ok => 0
  | .noframe => 1
  | .stale => 2
  | .range => 3
  | .exists_ => 4
  | .nospace => 5
  | .inuse => 6
  | .norutter => 7

/-- What a command answers: the machine, CODE, DEPTH and NODE. -/
structure ChtDone where
  st    : State
  code  : ChtCode
  depth : Nat
  node  : Nat

/-- A command that changes nothing. -/
def chtFail (s : State) (c : ChtCode) : ChtDone := ⟨s, c, 0, 0⟩

/-- A command that ends OK. -/
def chtOk (s : State) : ChtDone := ⟨s, .ok, 0, 0⟩

/-- Commands in the ring. -/
def ringSize (s : State) (k : Nat) : Nat := 2 ^ rget s k CHT_RING_SIZE

/-- Whether the walkers execute the command at TAIL now: EN is 1 and the ring holds one (R227, R231). -/
def ringReady (s : State) (k : Nat) : Bool :=
  ron s k CHT_CTL_EN && decide (rget s k CHT_HEAD_HEAD ≠ rget s k CHT_TAIL_TAIL)

/-- Fields of word 0. -/
def chtContext (a : ChartArgs) : Nat := bitsOf a.w0.toNat 8 14
def chtPage (a : ChartArgs) : Nat := bitsOf a.w0.toNat 32 9
def chtCount (a : ChartArgs) : Nat := bitsOf a.w0.toNat 48 16

/-- Whether a reserved field of word 0 is set. -/
def chtReserved (a : ChartArgs) : Bool := decide (bitsOf a.w0.toNat 22 10 ≠ 0) || decide (bitsOf a.w0.toNat 41 7 ≠ 0)

/-- Chart-area offset of the ring's place `i`. -/
def chtPlace (s : State) (k i : Nat) : Nat := 64 * rget s k CHT_RING_OFFSET + 64 * (i % ringSize s k)

/-- The walkers execute the command at TAIL: its result is written in its place and TAIL moves on (R231). -/
def runRing (s : State) (k : Nat) (a : ChartArgs) (f : State → Nat → ChtDone) : ChtDone :=
  let d := if chtReserved a then chtFail s .range else f s k
  let at_ := chtPlace s k (rget s k CHT_TAIL_TAIL)
  let s1 := putCword d.st k (at_ + 40) d.node
  let s2 := putCword s1 k (at_ + 32) (chtCodeNo d.code + 256 + d.depth * 512)
  { d with st := rput s2 k CHT_TAIL_TAIL ((rget s k CHT_TAIL_TAIL + 1) % ringSize s k) }

/-- The walkers execute the ring's next command. A command in a ring that is not served waits (R227). -/
def runChart (s : State) (a : ChartArgs) (f : State → Nat → ChtDone) : State :=
  if ringReady s a.stack.toNat then (runRing s a.stack.toNat a f).st else s

/-! ### Chart commands -/

/-- Every mapping of a context is dropped, and its cache entries with it. -/
def unmapChart (s : State) (k c : Nat) : State :=
  let r := rootOf s k c
  let s1 := (chartPlaces r).foldl (fun s lp =>
    let e := getPle s k r lp.1 lp.2
    if e.v then dropMapping (putPle s k c r lp.1 lp.2 ⟨0, 0, false⟩) k c e else s) s
  putStk s1 k { stkOf s1 k with cache := (stkOf s1 k).cache.filter fun x => x.context != c }

/-- OPEN: writes the root entry and clears the page list. Mappings that the context still holds are dropped first, so that
REF goes on counting the entries in use (R233). -/
def openChart (a : ChartArgs) (s : State) (k : Nat) : ChtDone :=
  let r : Root := ⟨a.arg0.toNat, chtCount a % 256, a.arg1.toNat, 0⟩
  if 128 < r.layers ∨ r.ppl = 0 ∨ 256 < r.ppl ∨ r.list % 64 ≠ 0 ∨ 2 ^ 40 ≤ r.list then chtFail s .range
  else
    chtOk (cwrite (putRoot (unmapChart s k (chtContext a)) k (chtContext a) r) k r.list
      (List.replicate (8 * (r.layers * r.ppl)) 0))

/-- MAP: every page of the prefix that node ARG0 ends. -/
def mapChart (a : ChartArgs) (s : State) (k : Nat) : ChtDone :=
  let c := chtContext a
  let r := rootOf s k c
  if r.toks ≠ 0 then chtFail s .range
  else match nodeChain s k 256 a.arg0.toNat with
    | none => chtFail s .stale
    | some l =>
      if r.ppl < l.length then chtFail s .range
      else match l.foldl (mapNode k c r) (some s) with
        | none => chtFail s .stale
        | some s1 => chtOk (putRoot s1 k c { r with toks := 64 * l.length })

/-- The context's places at page `p`. -/
def pagePlaces (r : Root) (p : Nat) : List (Nat × Nat) := (List.range r.layers).map fun l => (l, p)

/-- A command that a stale entry of context `c` among `places` stops changes nothing, and the fault is recorded and reported
(R225, R233). -/
def chtStale (s : State) (k c : Nat) (r : Root) (places : List (Nat × Nat)) : ChtDone :=
  chtFail (match firstStale s k r places with
    | some e => seeEntry s k c e
    | none => s) .stale

/-- One entry of FORK. -/
def forkEntry (k c : Nat) (from_ r : Root) (q : Option State) (lp : Nat × Nat) : Option State :=
  match q with
  | none => none
  | some s =>
    let e := getPle s k from_ lp.1 lp.2
    if e.v then remap s k c r lp.1 lp.2 e
    else some (dropMapping (putPle s k c r lp.1 lp.2 e) k c (getPle s k r lp.1 lp.2))

/-- FORK: the page list and TOKENS of context ARG0; mappings that CONTEXT held are dropped. -/
def forkChart (a : ChartArgs) (s : State) (k : Nat) : ChtDone :=
  let c := chtContext a
  let src := rootOf s k (a.arg0.toNat % 16384)
  let r := rootOf s k c
  if 16384 ≤ a.arg0.toNat ∨ r.layers ≠ src.layers ∨ r.ppl ≠ src.ppl then chtFail s .range
  else match (chartPlaces src).foldl (forkEntry k c src r) (some s) with
    | none => chtStale s k (a.arg0.toNat % 16384) src (chartPlaces src)
    | some s1 => chtOk (putRoot s1 k c { r with toks := src.toks })

/-- ALLOC in one layer: the machine, the frames allocated by layer, and whether the free list ran out. -/
def allocLayer (k c : Nat) (r : Root) (p : Nat) (q : State × List (Nat × Nat) × Bool) (l : Nat) :
    State × List (Nat × Nat) × Bool :=
  let e := getPle q.1 k r l p
  if q.2.2 then q
  else if e.v then (seeEntry q.1 k c e, q.2)
  else match allocFrame q.1 k l with
    | none => (q.1, q.2.1, true)
    | some (s1, f, gen) => (putPle s1 k c r l p ⟨f, gen, true⟩, q.2.1 ++ [(l, f)], false)

/-- ALLOC: a frame for page PAGE in each layer that has none; when the free list runs out, this command's frames are
released again. -/
def allocChart (a : ChartArgs) (s : State) (k : Nat) : ChtDone :=
  let c := chtContext a
  let r := rootOf s k c
  let p := chtPage a
  if r.ppl ≤ p then chtFail s .range
  else
    let q := (List.range r.layers).foldl (allocLayer k c r p) (s, [], false)
    if q.2.2 then
      chtFail (q.2.1.foldl (fun s lf => refDown (putPle s k c r lf.1 p ⟨0, 0, false⟩) k lf.2) q.1) .noframe
    else chtOk q.1

/-- The first `v` positions of every plane copied from a frame to another (R235). -/
def copyFrame (s : State) (k src dst v : Nat) (kw vw : Bool) : State :=
  (List.range (kvBlocks s k)).foldl (fun s b =>
    [(false, false), (true, false), (false, true), (true, true)].foldl (fun s pt =>
      let size := if pt.2 then 2 else elemBytes (if pt.1 then vw else kw)
      cwrite s k (frameOff s k dst kw vw pt.1 pt.2 b 0) (cread s k (frameOff s k src kw vw pt.1 pt.2 b 0) (size * v))) s) s

/-- Copy-on-write of one layer (R235). -/
def cowLayer (k c : Nat) (r : Root) (p : Nat) (q : State × ChtCode) (l : Nat) : State × ChtCode :=
  let e := getPle q.1 k r l p
  let s := seeEntry q.1 k c e
  if q.2 ≠ .ok ∨ !e.v then q
  else if pleStale s k e then (s, .stale)
  else if descRef (desc1 s k e.frame) = 1 ∧ !descPub (desc1 s k e.frame) then (s, .ok)
  else match allocFrame s k l with
    | none => (s, .noframe)
    | some (s1, f, gen) =>
      let v := min 64 (r.toks - 64 * p)
      let s2 := copyFrame s1 k e.frame f v (layerKW s k l) (layerVW s k l)
      let s3 := putDesc1 s2 k f (putBits (desc1 s2 k f) 48 7 v)
      (refDown (rbump (putPle s3 k c r l p ⟨f, gen, true⟩) k CHT_COWS) k e.frame, .ok)

/-- COW: copy-on-write of page PAGE; a failed GEN check in any layer leaves every layer as it was (R233). -/
def cowChart (a : ChartArgs) (s : State) (k : Nat) : ChtDone :=
  let c := chtContext a
  let r := rootOf s k c
  if r.ppl ≤ chtPage a then chtFail s .range
  else
    let q := (List.range r.layers).foldl (cowLayer k c r (chtPage a)) (s, .ok)
    if q.2 = .stale then chtStale s k c r (pagePlaces r (chtPage a)) else ⟨q.1, q.2, 0, 0⟩

/-- ADV: TOKENS and the VALID counts of the pages touched. -/
def advChart (a : ChartArgs) (s : State) (k : Nat) : ChtDone :=
  let c := chtContext a
  let r := rootOf s k c
  let t1 := r.toks + chtCount a
  if 16384 < t1 ∨ 64 * r.ppl < t1 then chtFail s .range
  else
    let pages := (List.range r.ppl).filter fun p => decide (r.toks < 64 * (p + 1)) && decide (64 * p < t1)
    let s1 := pages.foldl (fun s p => (List.range r.layers).foldl (fun s l =>
      let e := getPle s k r l p
      if e.v ∧ !pleStale s k e then
        let w := desc1 s k e.frame
        putDesc1 (seeEntry s k c e) k e.frame (putBits w 48 7 (max (descValid w) (min 64 (t1 - 64 * p))))
      else seeEntry s k c e) s) s
    chtOk (putRoot s1 k c { r with toks := t1 })

/-- FREE: every mapping, the root entry and the cache entries of the context. -/
def freeChart (a : ChartArgs) (s : State) (k : Nat) : ChtDone :=
  chtOk (putRoot (unmapChart s k (chtContext a)) k (chtContext a) ⟨0, 0, 0, 0⟩)

/-- PIN and UNPIN in each layer that maps the page; beyond 1,024 outstanding PINs of Helm a PIN is refused (R236,
notes/assumptions/83.md). -/
def pinChart (up : Bool) (a : ChartArgs) (s : State) (k : Nat) : ChtDone :=
  let c := chtContext a
  let r := rootOf s k c
  let p := chtPage a
  if r.ppl ≤ p ∨ (up ∧ 1024 ≤ (stkOf s k).helmPins) then chtFail s .range
  else
    let q := (List.range r.layers).foldl (fun (q : Option State) l =>
      match q with
      | none => none
      | some s =>
        let e := getPle s k r l p
        if !e.v then some s
        else if up then (pinUp s k e.frame e.gen).map fun s1 => seeEntry s1 k c e
        else if pleStale s k e then some (seeEntry s k c e)
        else some (pinDown (seeEntry s k c e) k e.frame)) (some s)
    match q with
    | none => chtStale s k c r (pagePlaces r p)
    | some s1 =>
      let d := stkOf s1 k
      chtOk (putStk s1 k { d with helmPins := if up then d.helmPins + 1 else d.helmPins - 1 })

/-- LOOKUP of blocks of tokens under a root key (R240). -/
def lookupToks (s : State) (k : Nat) (root : Dword) (blocks : List (List Nat)) : ChtDone :=
  if !rutterOn s k then chtFail s .norutter
  else
    let q := lookupBlocks k root blocks (rbump s k RUT_LOOKUPS) root 0 0
    ⟨q.1, .ok, q.2.1, q.2.2⟩

/-- LOOKUP of COUNT blocks of tokens at region-0 offset ARG0. -/
def lookupChart (a : ChartArgs) (s : State) (k : Nat) : ChtDone :=
  if rutterOn s k ∧ 256 < chtCount a then chtFail s .range
  else lookupToks s k a.arg1
    ((List.range (chtCount a)).map fun j => wordsOf (dread s k (a.arg0.toNat + 256 * j) 256))

/-- INSERT of block `j` of a context (R241): needs the block's positions committed and, beyond depth 0, a published
parent; else it answers RANGE, a code that R241 does not name for this (DESIGN CHOICE, notes/assumptions/101.md). -/
def insertBlock (s : State) (k c j : Nat) (root : Dword) (above : Nat) (toks : List Nat) : ChtDone :=
  let r := rootOf s k c
  let parent := if j = 0 then 0 else above
  if !rutterOn s k then chtFail s .norutter
  else if r.toks < 64 * (j + 1) ∨ r.ppl ≤ j ∨ (j ≠ 0 ∧ nodeState s k parent ≠ 2) then chtFail s .range
  else
    let h := blockHash (if j = 0 then root else BitVec.ofNat 64 (nodeHash s k parent)) toks
    match findNode s k h root parent j toks with
    | (s1, some x) => ⟨s1, .exists_, 0, x⟩
    | (s1, none) =>
      match (List.range 8).find? fun i => cword s1 k (bucketAt s1 k h + 8 * i) == 0 with
      | none => chtFail s1 .nospace
      | some i =>
        match writeNode s1 k r (bucketAt s1 k h + 8 * i) h root parent j toks with
        | none => chtStale s1 k c r (pagePlaces r j)
        | some q => ⟨rbump q.1 k RUT_INSERTS, .ok, 0, q.2⟩

/-- INSERT of block PAGE of CONTEXT, tokens at ARG0. -/
def insertChart (a : ChartArgs) (s : State) (k : Nat) : ChtDone :=
  insertBlock s k (chtContext a) (chtPage a) a.arg1 a.arg2.toNat (wordsOf (dread s k a.arg0.toNat 256))

/-- EVICT (R242). Forms that Helm has not freed before are freed with the node (R213). -/
def evictChart (a : ChartArgs) (s : State) (k : Nat) : ChtDone :=
  if !rutterOn s k then chtFail s .norutter
  else if nodeChildren s k a.arg0.toNat ≠ 0 ∨ nodeState s k a.arg0.toNat ≠ 2 then chtFail s .inuse
  else chtOk (evictNode (freeForms s k a.arg0.toNat) k a.arg0.toNat)

/-- OPEN (R231). -/
def execChtOpen (a : ChartArgs) (s : State) : Host.Outcome State Fault Refusal := .next (runChart s a (openChart a))
/-- MAP (R231, R233). -/
def execChtMap (a : ChartArgs) (s : State) : Host.Outcome State Fault Refusal := .next (runChart s a (mapChart a))
/-- FORK (R231). -/
def execChtFork (a : ChartArgs) (s : State) : Host.Outcome State Fault Refusal := .next (runChart s a (forkChart a))
/-- ALLOC (R231, R234). -/
def execChtAlloc (a : ChartArgs) (s : State) : Host.Outcome State Fault Refusal := .next (runChart s a (allocChart a))
/-- COW (R235). -/
def execChtCow (a : ChartArgs) (s : State) : Host.Outcome State Fault Refusal := .next (runChart s a (cowChart a))
/-- ADV (R231). -/
def execChtAdv (a : ChartArgs) (s : State) : Host.Outcome State Fault Refusal := .next (runChart s a (advChart a))
/-- FREE (R231). -/
def execChtFree (a : ChartArgs) (s : State) : Host.Outcome State Fault Refusal := .next (runChart s a (freeChart a))
/-- PIN (R231, R236). -/
def execChtPin (a : ChartArgs) (s : State) : Host.Outcome State Fault Refusal := .next (runChart s a (pinChart true a))
/-- UNPIN (R231, R236). -/
def execChtUnpin (a : ChartArgs) (s : State) : Host.Outcome State Fault Refusal := .next (runChart s a (pinChart false a))
/-- LOOKUP (R240). -/
def execRutLookup (a : ChartArgs) (s : State) : Host.Outcome State Fault Refusal := .next (runChart s a (lookupChart a))
/-- EVICT (R242). -/
def execRutEvict (a : ChartArgs) (s : State) : Host.Outcome State Fault Refusal := .next (runChart s a (evictChart a))

/-! ### Windows -/

/-- The node whose key-bank forms cover group `g` of a chart: it maps the page 2 g + 1 of the layer, and its FORMPTR is
set (R213). -/
def formNode (s : State) (k : Nat) (r : Root) (l g : Nat) : Option Nat :=
  ((stkOf s k).nodeLayers.map fun q => q.1).find? fun x =>
    decide (nodeState s k x = 2) && decide (nodeDepth s k x = 2 * g + 1) && decide (cword s k (x + 56) ≠ 0)
      && (getPle s k r l (2 * g + 1)).v && decide (nodePle s k x l = getPle s k r l (2 * g + 1))

/-- `n` bytes of a part of a form, from byte `b` on: zeros where the slot's chart has no such form. -/
def formRead (s : State) (k : Nat) (a : WinAddr) (n : Nat) (g part fmt b : Nat) : List Byte :=
  let r := rootOf s k (rget s k CHT_SLOT_CONTEXT a.slot)
  let x := if ron s k CHT_SLOT_VALID a.slot && decide (a.layer < r.layers) && decide (128 * (g + 1) ≤ r.toks) then
      formNode s k r a.layer g
    else none
  match x with
  | some x => cread s k (Config.formPlace k x a.layer part fmt + b) n
  | none => List.replicate n 0

/-- What a page-window offset that Table 9.5 gives to no position names, if it names a part of a form. -/
def formOf (a : WinAddr) (off : Nat) : Option (Nat × Nat × Nat × Nat) :=
  if 16384 ≤ a.byte / winSize a then Config.formAt off else none

/-- A window read of `n` bytes: of a key-bank form (R213), or of pages. -/
def windowRead (s : State) (k off n : Nat) : State × List Byte :=
  match formOf (winAddr off) off with
  | some q => (s, formRead s k (winAddr off) n q.1 q.2.1 q.2.2.1 q.2.2.2)
  | none => pageRead s k (winAddr off) n

/-- A packet in the page window (R227): a GET is answered, any other operation is fenced. -/
def pageWindow (s : State) (p : Packet) : State :=
  let k := addrStack p.dest
  if p.op = .get ∧ ron s k CHT_CTL_EN then
    let q := windowRead s k (addrOff p.dest) p.len
    complete q.1 k p .ok false q.2
  else complete s k p .fenced false []

/-- A tile's operation on the append window of a masked slot that completed with FENCED is remembered: its report is no
fault (R247). -/
def noteMasked (s : State) (k : Nat) (a : WinAddr) (p : Packet) (st : Status) : State :=
  match p.src with
  | .tile _ r =>
    if st = .fenced ∧ !ron s k CHT_SLOT_VALID a.slot then
      { s with serve := { s.serve with masked := s.serve.masked ++ [(r, p.tag)] } }
    else s
  | _ => s

/-- A packet in the append window (R228): a PUT is applied or refused, any other operation is fenced. -/
def appendWindow (s : State) (p : Packet) : State :=
  let k := addrStack p.dest
  let a := winAddr (addrOff p.dest)
  if p.op = .put ∧ ron s k CHT_CTL_EN then
    let q := windowWrite s k a (p.data.take p.len)
    noteMasked (complete q.1 k p q.2 false []) k a p q.2
  else complete s k p .fenced false []

/-- PAGE_WINDOW: a GET through the page window (R227). -/
def execPageWindow (p : Packet) (s : State) : Host.Outcome State Fault Refusal := .next (pageWindow s p)

/-- APPEND_WINDOW: a PUT through the append window (R228). -/
def execAppendWindow (p : Packet) (s : State) : Host.Outcome State Fault Refusal := .next (appendWindow s p)

/-! ### Walker control -/

/-- Whether a stack's walkers are released and not in reset (Table 18.2, R421). -/
def chtReach (s : State) (k : Nat) : Bool :=
  decide (3 ≤ s.rst.domains) && !wrapperClosed s 5 k 0 && !wrapperClosed s 3 k 0

/-- CHT_CTL.EN of a stack written: at its first setting every frame is free, in order (notes/assumptions/43.md). -/
def writeChtEn (s : State) (k : Nat) (v : Bool) : State :=
  let s1 := rput s k CHT_CTL_EN (bit v)
  if !chtReach s k then s
  else if v && !(stkOf s1 k).framesInit then
    putStk s1 k { stkOf s1 k with framesInit := true, frames := (List.range (frameCount s1 k)).filter fun f => !(stkOf s1 k).retired.contains f }
  else s1

/-- CHT_EN: CHT_CTL.EN is written (R227). -/
def execChtEn (k : BitVec 3) (v : Bool) (s : State) : Host.Outcome State Fault Refusal := .next (writeChtEn s k.toNat v)

/-- Every chart-cache entry of a stack invalidated (R229). -/
def invalidateCache (s : State) (k : Nat) : State :=
  if chtReach s k then putStk s k { stkOf s k with cache := [] } else s

/-- INV_ALL: every chart-cache entry is invalidated (R229). -/
def execInvAll (k : BitVec 3) (s : State) : Host.Outcome State Fault Refusal := .next (invalidateCache s k.toNat)

/-- CHT_LOCK: the layout registers are locked until reset (Table 9.12). -/
def execChtLock (k : BitVec 3) (s : State) : Host.Outcome State Fault Refusal :=
  .next (if chtReach s k.toNat then rset s k.toNat CHT_CTL_LOCK else s)

/-- CHT_HEAD: HEAD is written (R231). -/
def execChtHead (k : BitVec 3) (head : BitVec 12) (s : State) : Host.Outcome State Fault Refusal :=
  .next (if chtReach s k.toNat then rput s k.toNat CHT_HEAD_HEAD head.toNat else s)

end Sys2Proof.Machine
end

