-- ==== Sys2Proof/Machine/Routes.lean ====
section
/-!
DEFINITION. The package network's places and routes (R293, R298 to R300, R306, R326): sites of a mesh, edges, DRAM ports and
attach routers, the route of a packet through the stacks, and the detour round a failed router.
-/

namespace Sys2Proof.Machine

/-! ### Sites of a mesh (R293, Table 12.1) -/

/-- Row and column of a site; row 0 is north, column 0 west. -/
def siteRow (a : Nat) : Nat := a / 24
def siteCol (a : Nat) : Nat := a % 24

/-- The site at a row and a column. -/
def siteAt (r c : Nat) : Nat := 24 * r + c

/-- The row of a stack's outer edge, and of its inner edge, which faces the other row of stacks (R293). -/
def outerRow (k : Nat) : Nat := if k < 4 then 0 else 19
def innerRow (k : Nat) : Nat := if k < 4 then 19 else 0

/-- The router whose DRAM port serves stack offset `a` (R300): consecutive 256 B units rotate over the 24 ports on the
outer edge. -/
def dramPort (k a : Nat) : Nat := siteAt (outerRow k) (a / 256 % 24)

/-- A packet's stripe: bits [13:12] of its global address (R299). -/
def stripeOf (d : Dword) : Nat := bitsOf d.toNat 12 2

/-- The rows of the attach routers by stripe (R299, Table 12.1). -/
def attachRow (stripe : Nat) : Nat := 2 + 5 * stripe

/-- The column of the attach routers of a link die's stack: the west edge of stacks 0 and 4, the east edge of 3 and 7. -/
def attachCol (k : Nat) : Nat := if k % 4 = 0 then 0 else 23

/-- The attach router that a packet takes between link die `d` and its attach stack (R299): stack and site. -/
def attachRouter (d : Nat) (dest : Dword) : Nat × Nat :=
  (dieStack d, siteAt (attachRow (stripeOf dest)) (attachCol (dieStack d)))

/-! ### Routes (R298) -/

/-- The sites of a row after column `a`, up to column `b`. -/
def rowLeg (r a b : Nat) : List Nat :=
  if a ≤ b then (List.range (b - a)).map fun i => siteAt r (a + 1 + i)
  else (List.range (a - b)).map fun i => siteAt r (a - 1 - i)

/-- The sites of a column after row `a`, up to row `b`. -/
def colLeg (c a b : Nat) : List Nat :=
  if a ≤ b then (List.range (b - a)).map fun i => siteAt (a + 1 + i) c
  else (List.range (a - b)).map fun i => siteAt (a - 1 - i) c

/-- The sites from `a` to `b` within one stack: along the row, then along the column. -/
def stackLeg (a b : Nat) : List Nat :=
  a :: (rowLeg (siteRow a) (siteCol a) (siteCol b) ++ colLeg (siteCol b) (siteRow a) (siteRow b))

/-- The ring of a router's eight neighbours, clockwise from its north. -/
def ringOf (r : Nat) : List Nat := [r - 24, r - 23, r + 1, r + 25, r + 24, r + 23, r - 1, r - 25]

/-- The detour from `p` to `n` round router `r` (R306): a turn clockwise from the direction of travel, on along the ring. -/
def detour (p r n : Nat) : List Nat :=
  let ring := ringOf r
  let i := ring.idxOf p
  let j := ring.idxOf n
  (List.range ((i + 7 - j) % 8)).map fun m => nth ring ((i + 7 - m) % 8)

/-- A route within one stack with its detours round the failed routers. -/
def bypass (failed : List Nat) : List Nat → List Nat
  | p :: r :: n :: l =>
    if failed.contains r then p :: (detour p r n ++ bypass failed (n :: l)) else p :: bypass failed (r :: n :: l)
  | l => l

/-- The failed routers of a stack (STK_RT_FAIL_n). -/
def failedAt (s : State) (k : Nat) : List Nat :=
  ((List.range 8).filter fun i => ron s k STK_RT_FAIL_VALID i).map fun i => rget s k STK_RT_FAIL_SITE i

/-- A route's part within one stack, with its detours. -/
def legOf (s : State) (k a b : Nat) : List (Nat × Nat) := (bypass (failedAt s k) (stackLeg a b)).map fun x => (k, x)

/-- The routers of the package that a packet passes from site `a` of stack `k` to site `b` of stack `j` (R298): east–west
crossings in the source row first, then the north–south crossing in the destination column, at most `fuel` stacks. -/
def packageRoute (s : State) : Nat → (k a j b : Nat) → List (Nat × Nat)
  | 0, _, _, _, _ => []
  | fuel + 1, k, a, j, b =>
    if k = j then legOf s k a b
    else if k % 4 < j % 4 then legOf s k a (siteAt (siteRow a) 23) ++ packageRoute s fuel (k + 1) (siteAt (siteRow a) 0) j b
    else if j % 4 < k % 4 then legOf s k a (siteAt (siteRow a) 0) ++ packageRoute s fuel (k - 1) (siteAt (siteRow a) 23) j b
    else legOf s k a (siteAt (innerRow k) (siteCol b)) ++ packageRoute s fuel j (siteAt (innerRow j) (siteCol b)) j b

/-! ### A packet's ends -/

/-- Where a request enters this module's meshes: the attach router of the port by which it came, or its issuing tile's
router. The manual gives the other issuers no router. -/
def originOf (s : State) (p : Packet) : Option (Nat × Nat) :=
  match p.port, p.src with
  | some q, _ => some (attachRouter (q.toNat / 4) p.dest)
  | none, .tile _ r => (siteOf s r.stack.toNat r.tile.toNat).map fun site => (r.stack.toNat, site)
  | none, _ => none

/-- Where a request leaves this module's meshes: the attach router of the port that it takes to another module, the DRAM
port of a region-0 address, the router of a tile, the attach router of the link die of a region-4 address. The manual gives
the other destinations no router. -/
def targetOf (s : State) (p : Packet) : Option (Nat × Nat) :=
  let k := addrStack p.dest
  if addrModule p.dest ≠ moduleNo s then
    (routeChoice s (addrModule p.dest).toNat p.upper).map fun q => attachRouter (q.1 / 4) p.dest
  else if addrRegion p.dest = 0 then some (k, dramPort k (addrOff p.dest))
  else if addrRegion p.dest = 1 then (siteOf s k (addrTile p.dest)).map fun site => (k, site)
  else if addrRegion p.dest = 4 then some (attachRouter (bitsOf (addrOff p.dest) 14 1) p.dest)
  else none

/-- Whether a packet in transit stays on one link die: it passes port to port and enters no mesh (R326). -/
def portToPort (s : State) (p : Packet) : Bool :=
  match p.port with
  | some q => addrModule p.dest != moduleNo s && match routeChoice s (addrModule p.dest).toNat p.upper with
      | some c => q.toNat / 4 == c.1 / 4
      | none => false
  | none => false

/-- The routers that a request passes in this module, where the manual gives both ends a router. -/
def routeOf (s : State) (p : Packet) : Option (List (Nat × Nat)) :=
  match originOf s p, targetOf s p with
  | some a, some b => some (if portToPort s p then [] else packageRoute s 5 a.1 a.2 b.1 b.2)
  | _, _ => none

/-- Whether a packet names a logical tile of this module whose map entry is not VALID: it is not forwarded (R308). -/
def unmapped (s : State) (p : Packet) : Bool :=
  addrModule p.dest == moduleNo s && addrRegion p.dest == 1 && (siteOf s (addrStack p.dest) (addrTile p.dest)).isNone

/-- Whether a request passes the router at a site of stack `k` (R298, R306, R308): it lies on the route, or may lie on it
where the manual leaves an end open (notes/assumptions/86.md). A failed router forwards nothing. -/
def passesRouter (s : State) (p : Packet) (k site : Nat) : Bool :=
  !unmapped s p && !(failedAt s k).contains site && match routeOf s p with
    | some l => l.contains (k, site)
    | none => decide (k < 8) && decide (site < 480)

end Sys2Proof.Machine
end

