-- ==== Sys2Proof/Machine/NetOps.lean ====
section
/-!
DEFINITION. Where packets go (R142, R169, R170, R298 to R308, R320 to R333, R349): routes to other modules, destinations
by region, merging and combining in routers, and completions at their tiles.
-/

namespace Sys2Proof.Machine

/-! ### Packets on fleet ports (R311, R323, R324) -/

/-- OP codes (Table 13.7). -/
def opCode : PktOp → Nat
  | .put => 0
  | .get => 1
  | .add32 => 2
  | .add64 => 3
  | .ladd => 4
  | .cas64 => 5
  | .mput => 6
  | .arrive => 7
  | .completion => 8
  | .getData => 9
  | .regAccess => 10
  | .control => 11
  | .hail => 12
  | .numbers => 13

/-- Responses travel in the response class (R330). -/
def isResponse (p : Packet) : Bool := p.op == .completion || p.op == .getData

/-- The module that issued a packet. -/
def sourceModule (s : State) : Source → BitVec 10
  | .tile m _ => m
  | .helm m _ _ => m
  | _ => moduleNo s

/-- The module tag of an operation (R329): the parts of a stack hold values from 15,360 up, split among them as
notes/assumptions/88.md says. -/
def moduleTag (p : Packet) : Nat :=
  match p.src with
  | .tile _ r => r.stack.toNat * 2 ^ 14 + 32 * r.tile.toNat + p.tag.toNat
  | .helm _ k lead => k.toNat * 2 ^ 14 + (if lead then 15488 else 15360) + p.tag.toNat
  | .sextant k => k.toNat * 2 ^ 14 + 15392 + p.tag.toNat
  | .walker k => k.toNat * 2 ^ 14 + 15424 + p.tag.toNat
  | _ => 15456 + p.tag.toNat

/-- The operation-specific bytes of a header (Table 13.7): for a packet that concerns one target or flit, its index and
address (notes/assumptions/87.md). -/
def ownBytes (p : Packet) : List Byte :=
  match p.op, p.targets with
  | .mput, _ => List.replicate 11 0
  | _, [t] => leBytes 1 1 ++ leBytes 2 t.1 ++ leBytes 8 t.2.toNat
  | _, _ => List.replicate 11 0

/-- A packet's header (Table 13.7). -/
def headerBytes (s : State) (p : Packet) : List Byte :=
  leBytes 8 p.dest.toNat ++ leBytes 2 (sourceModule s p.src).toNat
    ++ leBytes 3 (moduleTag p + p.turn.toNat * 2 ^ 17) ++ leBytes 1 (opCode p.op)
    ++ leBytes 1 (pktChannel p + 4 * bit (isResponse p) + 8 * bit p.upper) ++ leBytes 1 (pktFlits p) ++ leBytes 2 p.len
    ++ leBytes 2 (statusCode p.status + 16 * bit p.sat) ++ leBytes 1 1 ++ ownBytes p

/-- Bytes filled up with zeros to a whole flit. -/
def wholeFlit (bs : List Byte) : List Byte := bs ++ List.replicate (256 - bs.length) 0

/-- The list flit of an MPUT (R332): the header, the target list as in Table 6.16, and the targets' indexes. -/
def listFlit (s : State) (p : Packet) : List Byte :=
  wholeFlit (headerBytes s p ++ leBytes 8 p.targets.length ++ (p.targets.flatMap fun t => leBytes 8 t.2.toNat)
    ++ p.targets.flatMap fun t => leBytes 1 t.1)

/-- The bytes of a packet: its header and its payload; an MPUT's list flit goes before them. -/
def packetBytes (s : State) (p : Packet) : List Byte :=
  (if p.op = .mput then listFlit s p else []) ++ headerBytes s p ++ p.data

/-- A port, and the machine with it replaced. -/
def portOf (s : State) (p : Nat) : PortSt := s.fleet.ports.getD p PortSt.reset
def putPort (s : State) (p : Nat) (v : PortSt) : State :=
  { s with fleet := { s.fleet with ports := s.fleet.ports.set p v } }

/-- The link trailer of a frame that a port sends now (Table 13.1). -/
def trailerOf (v : PortSt) (seq : Nat) (flit : List Byte) : Dword :=
  let lo := seq + ((v.rxSeq + 4095) % 4096) * 2 ^ 12 + bit v.heard * 2 ^ 24 + bit v.nak * 2 ^ 25
  BitVec.ofNat 64 (lo + (crc32c (flit ++ leBytes 4 lo)).toNat * 2 ^ 32)

/-- The frame of a flit, as a port sends it now. -/
def frameOf (v : PortSt) (q : Nat × List Byte) : Frame := ⟨q.2, trailerOf v q.1 q.2, 0⟩

/-- A port sends a flit in a frame with the next SEQ, and keeps it in the replay buffer (R311). -/
def sendFrame (v : PortSt) (flit : List Byte) : PortSt :=
  { v with
    txSeq := (v.txSeq + 1) % 4096
    replay := v.replay ++ [(v.txSeq, flit)]
    sent := v.sent ++ [frameOf v (v.txSeq, flit)] }

/-- A flit leaves through a port, or waits while the replay buffer holds 256 frames (R311). -/
def sendFlit (s : State) (p : Nat) (bs : List Byte) : State :=
  let v := portOf s p
  putPort s p (if v.replay.length < 256 ∧ v.waiting.isEmpty then sendFrame v (wholeFlit bs)
    else { v with waiting := v.waiting ++ [wholeFlit bs] })

/-- A port sends the waiting flits for which its replay buffer has room. -/
def sendWaiting (v : PortSt) : PortSt :=
  let n := 256 - v.replay.length
  (v.waiting.take n).foldl sendFrame { v with waiting := v.waiting.drop n }

/-- Completions of an operation that ends here with a status other than OK, or with OK and data: one for the packet, or
one for each target of a multicast copy (R333). A response has none. -/
def endPacket (s : State) (k : Nat) (p : Packet) (st : Status) : State :=
  if isResponse p then { s with net := s.net.erase p }
  else if p.op = .mput then
    let s1 := rbump { s with net := s.net.erase p } 0 FLT_MCFAIL (if st = .ok then 0 else p.targets.length)
    p.targets.foldl (fun s t => sendPacket s k (completionOf s { p with targets := [t] } st false [])) s1
  else complete s k p st false []

/-- A packet bound for another module leaves through a port, or ends with FENCED when no choice qualifies (R319, R324,
R326). An issued packet stays under way until its completion returns; one that came in by a port is in transit. -/
def routeOut (s : State) (p : Packet) (m : Nat) : State :=
  match (if m < moduleCount s then routeChoice s m p.upper else none) with
  | none => endPacket (rbump s 0 FLT_NOROUTE) (addrStack (issuerAddr s p.src)) p .fenced
  | some (port, up) =>
    let s1 := { s with net := s.net.erase p }
    let s2 := if p.port.isSome then rbump s1 (portStack port) FLT_TRANSIT else s1
    let bs := packetBytes s2 { p with upper := up }
    let s3 := (chunks 256 (bs.length / 256 + 1) bs).foldl (fun s b => sendFlit s port b) s2
    let v := portOf s3 port
    putPort s3 port { v with
      queued := v.queued ++ [((v.txSeq + v.waiting.length + 4095) % 4096, { p with upper := up })] }

/-! ### Destinations (R320, R321, Table 13.5) -/

/-- Where an address lies. -/
inductive Dest
  | dram (k off : Nat)
  | tile (r : TileRef) (off : Nat)
  | page
  | append
  | chart (k off : Nat)
  | companion (w : Nat)
  | helm (k i : Nat)
  | fenced
deriving DecidableEq, Repr

/-- Whether a source is stack `k`'s Helm or Sextant: these alone use the Sextant and Helm area of a tile (R138). -/
def controlSource (s : State) (k : Nat) (src : Source) : Bool :=
  match src with
  | .helm m j _ => m == moduleNo s && j.toNat == k
  | .sextant j => j.toNat == k
  | _ => false

/-- Whether a source may use stack `k`'s chart area directly: its Helm, its Sextant, its walkers (R226). -/
def privileged (s : State) (k : Nat) (src : Source) : Bool :=
  controlSource s k src || match src with
    | .walker j => j.toNat == k
    | _ => false

/-- The tiles of a berth's schedule. -/
def berthTiles (s : State) (b : Nat) : List TileRef :=
  match (s.serve.berths.getD b Berth.reset).image with
  | some im => im.steady.tiles.map fun t => t.tile
  | none => []

/-- The berth whose schedule uses a tile. -/
def berthOfTile (s : State) (r : TileRef) : Option Nat := (List.range 16).find? fun b => (berthTiles s b).contains r

/-- Whether the wrapper of a fenced berth covers a tile or a DRAM range (R265). -/
def berthFenced (s : State) (b : Nat) : Bool := decide (rget s (leadStk s) HLM_BERTH_STATE b = 3)

/-- The plan of a berth's schedule for a stack. -/
def berthPlan (s : State) (b k : Nat) : Option StackPlan :=
  match (s.serve.berths.getD b Berth.reset).image with
  | some im => im.steady.plans.find? fun p => p.stack.toNat == k
  | none => none

/-- Whether a DRAM range lies in one of a fenced berth. -/
def rangeFenced (s : State) (k off n : Nat) : Bool :=
  (List.range 16).any fun b => berthFenced s b && match berthPlan s b k with
    | some p => p.ranges.any fun r => decide (r.1 < off + n) && decide (off < r.1 + r.2)
    | none => false

/-- A tile whose operations complete with FENCED: unmapped, isolated, fenced, or of a fenced berth (R146, R265, R308,
R421). -/
def tileFenced (s : State) (r : TileRef) : Bool :=
  match siteOf s r.stack.toNat r.tile.toNat with
  | none => true
  | some site =>
    tileClosed s r.stack.toNat site || decide (tget (tileAt s r.stack.toNat site) TIL_CTL_FENCE = 1)
      || (List.range 16).any fun b => berthFenced s b && (berthTiles s b).contains r

/-- Whether a stack's DRAM answers: the stack is on, its DRAM trained and zeroed, its controller not isolated (R397,
R421, R481). -/
def dramOpen (s : State) (k : Nat) : Bool := stackOnNow s k && (stkOf s k).dramReady && !wrapperClosed s 4 k 0

/-- Whether the walkers of a stack answer. -/
def walkersOpen (s : State) (k : Nat) : Bool := dramOpen s k && !wrapperClosed s 3 k 0

/-- Where `n` bytes at address `d` lie for a source, in this module. -/
def destOf (s : State) (d : Dword) (n : Nat) (src : Source) : Dest :=
  let k := addrStack d
  let off := addrOff d
  match addrRegion d with
  | 0 =>
    if off + n ≤ dramSize ∧ dramOpen s k ∧ !inChart s k off n ∧ !rangeFenced s k off n then .dram k off else .fenced
  | 1 =>
    let r : TileRef := ⟨BitVec.ofNat 3 k, BitVec.ofNat 9 (addrTile d)⟩
    let top := if controlSource s k src then 0x80000 else storeTop
    if addrLocal d + n ≤ top ∧ !tileFenced s r then .tile r (addrLocal d) else .fenced
  | 2 =>
    if 0x30800 ≤ off ∧ off < 0x30B00 ∧ off % 16 = 0 ∧ !wrapperClosed s 1 k 0 then .helm k ((off - 0x30800) / 16)
    else .fenced
  | 3 =>
    if !walkersOpen s k then .fenced
    else match bitsOf off 46 2 with
      | 0 => if privileged s k src ∧ chartBase s k + bitsOf off 0 46 + n ≤ dramSize then .chart k (bitsOf off 0 46)
        else .fenced
      | 1 => .page
      | 2 => .append
      | _ => .fenced
  | 4 =>
    if k ≠ 0 ∨ wrapperClosed s 6 0 (halfOf off) then .fenced
    else match windowOf s off n with
      | some w => .companion w
      | none => .fenced
  | _ => .fenced

/-- Bytes at a destination that is memory; a read of the router's port finds what stood there before what comes about in
its cycle (R141). -/
def destRead (s : State) (d : Dest) (n : Nat) : List Byte :=
  match d with
  | .dram k off => dread s k off n
  | .tile r off =>
    match siteOf s r.stack.toNat r.tile.toNat with
    | some site => sread (settleBefore s.cyc (tileAt s r.stack.toNat site)) off n
    | none => []
  | .chart k off => cread s k off n
  | _ => []

/-- Bytes written at a destination that is memory. -/
def destWrite (s : State) (d : Dest) (bs : List Byte) : State :=
  match d with
  | .dram k off => dwrite s k off bs
  | .tile r off => changeTile s r fun _ t => swrite t off bs
  | .chart k off => cwrite s k off bs
  | _ => s

/-- Bytes written by an atomic operation: in a tile before what comes about in its cycle, which waits in the write buffer
(R141). -/
def destAtomic (s : State) (d : Dest) (bs : List Byte) : State :=
  match d with
  | .tile r off => onTile s r fun c t => (swrite (settleBefore c.now t) off bs, [], c.now)
  | d => destWrite s d bs

/-- Whether a destination is memory that takes atomic operations. -/
def atomicDest : Dest → Bool
  | .dram _ _ => true
  | .tile _ _ => true
  | _ => false

/-! ### Reductions (R42, R169) -/

/-- Bytes an element or container has. -/
def opSize : PktOp → Nat
  | .add32 => 4
  | .add64 => 8
  | .ladd => 16
  | _ => 1

/-- One element added: its bytes, and whether it saturated. -/
def addElem (op : PktOp) (a b : List Byte) : List Byte × Bool :=
  match op with
  | .ladd => (longAdd a b, false)
  | _ =>
    let w := 8 * opSize op
    let v := signed w (leVal a) + signed w (leVal b)
    (leBytes (opSize op) (unsigned w (saturate w v)), decide (saturate w v ≠ v))

/-- Element-wise sum of two operand lists. -/
def addBytes (op : PktOp) (a b : List Byte) : List Byte × Bool :=
  let z := opSize op
  let l := ((chunks z (a.length / z + 1) a).zip (chunks z (b.length / z + 1) b)).map fun q => addElem op q.1 q.2
  (l.flatMap fun q => q.1, l.any fun q => q.2)

/-! ### Waypoint counters of Helm (R349) -/

/-- The modules of a berth, and its host module: the lowest (R349). -/
def berthModules (s : State) (b : Nat) : List (BitVec 10) :=
  match (s.serve.berths.getD b Berth.reset).image with
  | some im => im.steady.modules
  | none => []
def lowestOf (s : State) (ms : List (BitVec 10)) : BitVec 10 :=
  match ms with
  | [] => moduleNo s
  | m :: r => r.foldl (fun a x => if x.toNat < a.toNat then x else a) m
def hostModule (s : State) (b : Nat) : BitVec 10 := lowestOf s (berthModules s b)

/-- Whether a source may arrive at Helm counter `i` of stack `k` (R349). -/
def helmArrival (s : State) (k i : Nat) (src : Source) : Bool :=
  let lead := leadOf s == some k
  if i < 16 then
    lead && hostModule s i == moduleNo s && (match src with
      | .helm m j l => (berthModules s i).contains m && (if m = moduleNo s then j.toNat == k else l)
      | _ => false)
  else if i < 18 then
    lead && (match src with
      | .helm m j l => if m = moduleNo s then j.toNat == k else l && s.chr.children.contains m
      | _ => false)
  else if i < 32 then false
  else match src with
    | .tile m r => m == moduleNo s && r.stack.toNat == k && (berthTiles s (i - 32)).contains r
    | _ => false

/-- Counter `i` of stack `k`'s Helm. -/
def helmCounter (s : State) (k i : Nat) : HelmCounter := mapGet (fun _ => HelmCounter.zero) (stkOf s k).wps i
def putCounter (s : State) (k i : Nat) (c : HelmCounter) : State :=
  putStk s k { stkOf s k with wps := mapSet (fun _ => HelmCounter.zero) (stkOf s k).wps i c }

/-- An arrival at a Helm counter. -/
def arriveHelm (s : State) (k i v : Nat) : State :=
  let c := helmCounter s k i
  putCounter s k i { c with count := (c.count + 1) % 2 ^ 32, vmax := max c.vmax (v % 65536) }

/-- A release of a Helm counter (R174): COUNT falls by EXPECT and VMAX to 0. -/
def releaseHelm (s : State) (k i : Nat) : State :=
  let c := helmCounter s k i
  putCounter s k i { c with count := c.count - c.expect, vmax := 0 }

/-! ### Routers (R142, R305) -/

/-- Whether two GETs may share an entry (R142). -/
def mergeable (p q : Packet) : Bool := p.dest == q.dest && p.len == q.len && pktChannel p == pktChannel q

/-- A router on its route forwards a GET (R142): merged into an entry younger than 20 ns, recorded in a free entry, or
forwarded unrecorded. -/
def routerGet (s : State) (k site : Nat) (p : Packet) : State :=
  let d := stkOf s k
  let here := d.merges.filter fun e => e.site == site
  let fits := fun (e : MergeEntry) => e.reqs.any (mergeable p) && decide (s.cyc ≤ e.first + 24)
  if !passesRouter s p k site then s
  else match here.find? fits with
  | some e =>
    if e.reqs.length < 16 then
      let e1 := { e with reqs := e.reqs ++ [p] }
      let s1 := putStk { s with net := s.net.erase p } k { d with merges := (d.merges.map fun x => if x = e then e1 else x) }
      changeSite s1 k site fun t => tbump t TIL_RTR_MERGED
    else changeSite s k site fun t => tbump t TIL_RTR_MERGE_FULL
  | none =>
    if here.length < 16 then putStk s k { d with merges := d.merges ++ [⟨site, s.cyc, [p]⟩] }
    else changeSite s k site fun t => tbump t TIL_RTR_MERGE_FULL

/-- Whether flits may be combined (R305): same operation, destination and operand count. -/
def combinable (p q : Packet) : Bool := p.op == q.op && p.dest == q.dest && p.len == q.len

/-- A flit as the combine table records it. -/
def recorded (p : Packet) : Packet := { p with data := [] }

/-- Whether a flit is under way and passes the router at a site of stack `k`. Flits of one destination leave a router by
one link (R298). -/
def waitsAt (s : State) (k site : Nat) (p : Packet) : Bool := s.net.contains p && passesRouter s p k site

/-- How many further requesters a router's entries of one destination take (R305), where `here` are its records and `same`
those of the destination: an entry holds 16, a free entry takes more, and one that holds fewer than 16 takes part in one
more combining. -/
def combineRoom (here same : List CombEntry) : Nat :=
  let count := fun (l : List CombEntry) => (l.map fun e => e.reqs.length).foldl (· + ·) 0
  let keys := (here.map fun e => e.reqs.head?.map fun q => (q.op, q.dest, q.len)).eraseDups
  let full := (keys.map fun x => ceilDiv
    (count (here.filter fun e => (e.reqs.head?.map fun q => (q.op, q.dest, q.len)) == x)) 16).foldl (· + ·) 0
  let room := 16 * (16 - full) + (16 * ceilDiv (count same) 16 - count same)
  if room = 0 then 0 else max 1 (room - 1)

/-- A router combines the flits that wait for the same output link (R305): one flit with their sum goes on. -/
def routerCombine (s : State) (k site : Nat) (p : Packet) (others : List Packet) : State :=
  let d := stkOf s k
  let all := (others.filter fun q => combinable p q && q != p && waitsAt s k site q).eraseDups
  let here := d.combs.filter fun e => e.site == site
  let same := here.filter fun e => e.reqs.any (combinable p)
  let qs := all.take (combineRoom here same)
  let full := fun (s : State) => if qs.length < all.length then rbump s k STK_COMB_FULL else s
  if !ron s k STK_RT_CTL_COMB_EN || !waitsAt s k site p || all.isEmpty then s
  else if qs.isEmpty then full s
  else
    let sum := qs.foldl (fun (a : List Byte × Bool) q =>
      let r := addBytes p.op a.1 q.data
      (r.1, a.2 || r.2 || q.sat)) (p.data, p.sat)
    let e : CombEntry := ⟨site, sum.2, (p :: qs).map recorded⟩
    let s1 := { s with net := (s.net.filter fun q => !qs.contains q).map fun q =>
      if q = p then { p with data := sum.1, sat := sum.2 } else q }
    full (rbump (putStk s1 k { d with combs := d.combs ++ [e] }) k STK_COMBINED qs.length)

/-- Whether a response answers the operation of a recorded requester. -/
def answers (p q : Packet) : Bool := p.src == q.src && p.tag == q.tag && p.turn == q.turn && p.targets == q.targets

/-- A response as another requester gets it. -/
def copyFor (s : State) (p q : Packet) (sat : Bool) : Packet :=
  { p with dest := issuerAddr s q.src, src := q.src, tag := q.tag, turn := q.turn, targets := q.targets, sat := sat }

/-- A response passes back through stack `k`'s routers (R142, R305): a copy for each further requester, in recording
order; entries that it answers end. The first result is whether combining saturated. -/
def passBack (s : State) (k : Nat) (p : Packet) : Bool × State :=
  let d := stkOf s k
  let first := fun (l : List Packet) => match l.head? with
    | some q => answers p q
    | none => false
  let ms := d.merges.filter fun e => first e.reqs
  let cs := d.combs.filter fun e => first e.reqs
  let s1 := putStk s k { d with
    merges := (d.merges.filter fun e => !first e.reqs)
    combs := (d.combs.filter fun e => !first e.reqs) }
  let s2 := (ms.flatMap fun e => e.reqs.drop 1).foldl (fun s q => sendPacket s k (copyFor s p q p.sat)) s1
  let s3 := cs.foldl (fun s e => (e.reqs.drop 1).foldl (fun s q => sendPacket s k (copyFor s p q (p.sat || e.sat))) s) s2
  (cs.any fun e => e.sat, s3)

/-- The same in every stack. -/
def passBackAll (s : State) (p : Packet) : Bool × State :=
  stackNos.foldl (fun q k =>
    let r := passBack q.2 k p
    (q.1 || r.1, r.2)) (false, s)

/-! ### Completions at their tile (R170 to R172, R329, R331) -/

/-- A fenced tile's operation under a tag ends and frees its tag; its store is unreachable, nothing follows from it, and
no further transaction goes out (R146). -/
def endFenced (t : Tile) (tag : BitVec 5) : Tile :=
  { t with
    fetches := (t.fetches.map fun o =>
      { o with todo := [], flying := o.flying.filter fun q => q.1 != tag }).filter fun o => !o.flying.isEmpty
    sigs := t.sigs.filter fun o => o.tag != tag }

/-- What a completion does in its tile. -/
def completeTile (c : Ctx) (t : Tile) (tag : BitVec 5) (st : Status) (sat : Bool) (data : List Byte)
    (branches : List Nat) : Tile × List Packet :=
  if tget t TIL_CTL_FENCE = 1 then (endFenced t tag, [])
  else
  match fetchOf t tag with
  | some o => completeFetch c t o tag st data
  | none =>
    match sigOf t tag with
    | none => (t, [])
    | some o =>
      if o.open_.isEmpty then (completeSig t o st sat data, [])
      else (branches.foldl (fun t i => match sigOf t tag with
        | some o => completeBranch t o i st sat
        | none => t) t, [])

/-- Whether the tile's operation under a tag has ended between two states of the tile. -/
def tagEnded (t0 t1 : Tile) (tag : BitVec 5) : Bool := tagUsed t0 tag.toNat && !tagUsed t1 tag.toNat

/-- Failures that the branches of a tag's operation have already shown. -/
def branchFails (t : Tile) (tag : BitVec 5) : List (Nat × Status) :=
  match sigOf t tag with
  | some o => o.fails
  | none => []

/-- A completion reaches tile `r`: stale ones are counted, others complete the operation, and an operation that ends
with a status other than OK is reported to Helm. -/
def deliver (s : State) (r : TileRef) (tag : BitVec 5) (turn : BitVec 4) (st : Status) (sat : Bool) (data : List Byte)
    (branches : List Nat) : State :=
  match siteOf s r.stack.toNat r.tile.toNat with
  | none => rbump s 0 FLT_STALE
  | some site =>
    let t0 := tileAt s r.stack.toNat site
    if !turnMatches t0 tag turn then rbump s 0 FLT_STALE
    else
      let s1 := onTile s r fun c t =>
        let q := completeTile c (settle c.now t) tag st sat data branches
        (bankTokens (busyAt q.1 c.now) c.now, q.2, c.now)
      let bad := if st ≠ .ok then some st else (branchFails t0 tag).head?.map fun f => f.2
      match bad with
      | some b =>
        if fetchOf t0 tag ≠ none ∨ tagEnded t0 (tileAt s1 r.stack.toNat site) tag then
          { s1 with reports := s1.reports ++ [.opFailed r tag b] }
        else s1
      | none => s1

end Sys2Proof.Machine
end

