-- ==== Sys2Proof/Machine/AgreeOps.lean ====
section
/-!
DEFINITION. Messages between lead Helms, and the rounds of the stretch agreement (R352, R353).
-/

namespace Sys2Proof.Machine

/-- The module to which a message goes. -/
def HelmMsg.dst : HelmMsg → BitVec 10
  | .release d _ _ _ => d
  | .arrive d _ _ => d
  | .agree d _ _ _ => d
  | .abandonNotice d _ _ => d
  | .abandonRecord d _ _ _ => d
  | .thermal d _ => d
  | .version d _ _ => d

/-- Whether the routing tables reach a module (R324). -/
def reaches (s : State) (m : BitVec 10) : Bool :=
  m == moduleNo s || (decide (m.toNat < moduleCount s) && (routeChoice s m.toNat false).isSome)

/-- A remote operation of the lead Helm takes the lowest free of its 32 tags, with TURN one higher, and its message is sent,
or it waits for a tag (R329). Where no choice of the routing table qualifies, it ends at once with FENCED (R324). -/
def issueHelm (s : State) (m : HelmMsg) : State :=
  match (List.range 32).find? fun t => !s.serve.ops.any fun o => o.tag == t with
  | some t =>
    let n := (mapGet (fun _ => 0) s.serve.turns t + 1) % 16
    let s1 := { s with serve := { s.serve with turns := mapSet (fun _ => 0) s.serve.turns t n } }
    if reaches s m.dst then
      { s1 with serve := { s1.serve with ops := s1.serve.ops ++ [⟨t, n, m⟩], msgs := s1.serve.msgs ++ [m] } }
    else rbump s1 0 FLT_NOROUTE
  | none => { s with serve := { s.serve with waits := s.serve.waits ++ [m] } }

/-- Messages to other lead Helms. -/
def sendHelm (s : State) (ms : List HelmMsg) : State := ms.foldl issueHelm s

/-- A completion reaches the lead Helm: its operation ends and its tag goes to the messages that wait, the oldest first; a
stale one is counted (R329, R331). -/
def endHelmOp (s : State) (tag turn : Nat) : State :=
  match s.serve.ops.find? fun o => o.tag == tag && o.turn == turn with
  | none => rbump s 0 FLT_STALE
  | some o =>
    sendHelm { s with serve := { s.serve with ops := s.serve.ops.erase o, waits := [] } } s.serve.waits

/-- Whether both agreement counters of the lead Helm have their arrivals (R174, R352). -/
def roundFull (s : State) : Bool :=
  let a := helmCounter s (leadStk s) 16
  let b := helmCounter s (leadStk s) 17
  decide (0 < a.expect) && decide (a.expect ≤ a.count) && decide (b.expect ≤ b.count)

/-- The record that the module awaits has come: it may arrive for the next round (R352). -/
def recordCame (s : State) (w : Word) : State :=
  if s.chr.openRound = some (w - 2) then { s with chr := { s.chr with openRound := none } } else s

/-- A record is written on to the children (R352). -/
def passRecord (s : State) (w : Word) (q : Nat) (d : Bool) : State :=
  sendHelm s (s.chr.children.map fun m => .agree m w q d)

/-- An agreement record is held and written on to the children; its round is complete (R352, R353). A record whose
watch is not later than the current watch is not held. -/
def holdRecord (s : State) (w : Word) (q : Nat) (d : Bool) : State :=
  if !laterWatch w (watchNo s) then passRecord (recordCame s w) w q d
  else
    let s1 := rput (rput (rput s 0 CHR_AGREE_LO_WATCH w.toNat) 0 CHR_AGREE_HI_Q q) 0 CHR_AGREE_HI_D (bit d)
    let s2 := { s1 with chr := { s1.chr with
      agreed := s1.chr.agreed.filter (fun r => r.watch != w) ++ [⟨w, q, d⟩]
      openRound := none } }
    passRecord (rbump s2 0 CHR_ROUNDS) w q d

/-- Both counters release: the root forms the record of its round, another module arrives at its parent's counters with
the released values (R352). -/
def closeRound (s : State) : State :=
  if !roundFull s then s
  else
    let k := leadStk s
    let q := (helmCounter s k 16).vmax
    let d := (helmCounter s k 17).vmax
    let s1 := releaseHelm (releaseHelm s k 16) k 17
    match s1.chr.parent, s1.chr.openRound with
    | some m, _ => sendHelm s1 [.arrive m 16 q, .arrive m 17 d]
    | none, some n => holdRecord s1 (n + 2) q (d % 2 == 1)
    | none, none => s1

/-- The oldest offer arrives at the lead Helm's own counters, unless the record of an earlier round is awaited. -/
def arriveOffer (s : State) : State :=
  match s.chr.openRound, s.chr.offers with
  | none, (w, q, d) :: r =>
    let s1 := { s with chr := { s.chr with offers := r, openRound := some w } }
    closeRound (arriveHelm (arriveHelm s1 (leadStk s) 16 q) (leadStk s) 17 (bit d))
  | _, _ => s

end Sys2Proof.Machine
end

