-- ==== Sys2Proof/Machine/Network.lean ====
section
/-!
DEFINITION. Packets at routers and destinations (R142, R169, R305, R332), completions (R170), timeouts (R331, R380).
-/

namespace Sys2Proof.Machine

/-- A packet for this module meets `f`; one for another module is routed on. -/
def atModule (s : State) (p : Packet) (f : State → State) : State :=
  if addrModule p.dest = moduleNo s then f s else routeOut s p (addrModule p.dest).toNat

/-- PUT at its destination. -/
def putPacket (s : State) (p : Packet) : State :=
  atModule s p fun s =>
    let bs := p.data.take p.len
    match destOf s p.dest p.len p.src with
    | .companion _ => companionPut s p
    | .append => appendWindow s p
    | .page => pageWindow s p
    | .fenced => complete s (addrStack p.dest) p .fenced false []
    | .helm _ _ => complete s (addrStack p.dest) p .fenced false []
    | d => complete (destWrite s d bs) (addrStack p.dest) p .ok false []

/-- PUT: writes its bytes (R169, R321). -/
def execPut (p : Packet) (s : State) : Host.Outcome State Fault Refusal := .next (putPacket s p)

/-- GET at its destination. -/
def getAtDest (s : State) (p : Packet) : State :=
  atModule s p fun s =>
    match destOf s p.dest p.len p.src with
    | .companion w => companionGet s p w
    | .page => pageWindow s p
    | .append => appendWindow s p
    | .fenced => complete s (addrStack p.dest) p .fenced false []
    | .helm _ _ => complete s (addrStack p.dest) p .fenced false []
    | d => complete s (addrStack p.dest) p .ok false (destRead s d p.len)

/-- GET: a router forwards it (R142), or it reads its bytes at the destination (R169). -/
def execGet (p : Packet) (via : Option SiteRef) (s : State) : Host.Outcome State Fault Refusal :=
  .next (match via with
    | some r => routerGet s r.stack.toNat r.site p
    | none => getAtDest s p)

/-- A reduction flit at its destination (R42, R169). -/
def reduceAtDest (s : State) (p : Packet) : State :=
  atModule s p fun s =>
    let n := p.len * opSize p.op
    let d := destOf s p.dest n p.src
    if atomicDest d then
      let r := addBytes p.op (destRead s d n) (p.data.take n)
      complete (destAtomic s d r.1) (addrStack p.dest) p .ok (p.op != .ladd && (r.2 || p.sat)) []
    else complete s (addrStack p.dest) p .fenced false []

/-- ADD32: combined in a router (R305), or added at the destination. -/
def execAdd32 (p : Packet) (via : Option SiteRef) (others : List Packet) (s : State) :
    Host.Outcome State Fault Refusal :=
  .next (match via with
    | some r => routerCombine s r.stack.toNat r.site { p with op := .add32 } others
    | none => reduceAtDest s { p with op := .add32 })

/-- ADD64: the same in 64 bits. -/
def execAdd64 (p : Packet) (via : Option SiteRef) (others : List Packet) (s : State) :
    Host.Outcome State Fault Refusal :=
  .next (match via with
    | some r => routerCombine s r.stack.toNat r.site { p with op := .add64 } others
    | none => reduceAtDest s { p with op := .add64 })

/-- LADD: long containers. -/
def execLadd (p : Packet) (via : Option SiteRef) (others : List Packet) (s : State) :
    Host.Outcome State Fault Refusal :=
  .next (match via with
    | some r => routerCombine s r.stack.toNat r.site { p with op := .ladd } others
    | none => reduceAtDest s { p with op := .ladd })

/-- CAS64 (R169): compare bytes 7:0 of the block, write bytes 15:8, return the old word. -/
def execCas64 (p : Packet) (s : State) : Host.Outcome State Fault Refusal :=
  .next (atModule s p fun s =>
    let d := destOf s p.dest 8 p.src
    if atomicDest d then
      let old := destRead s d 8
      let s1 := if old = p.data.take 8 then destAtomic s d ((p.data.drop 8).take 8) else s
      complete s1 (addrStack p.dest) p .ok false old
    else complete s (addrStack p.dest) p .fenced false [])

/-- One target of a multicast in this module is written, or fails (R332, R333): regions 0 and 1 alone take one
(Table 13.5). -/
def mputTarget (p : Packet) (s : State) (t : Nat × Dword) : State :=
  let q := { p with op := .put, dest := t.2, targets := [t] }
  match destOf s t.2 p.len p.src with
  | .dram k off => complete (destWrite s (.dram k off) (p.data.take p.len)) k q .ok false []
  | .tile r off => complete (destWrite s (.tile r off) (p.data.take p.len)) r.stack.toNat q .ok false []
  | _ => complete (rbump s 0 FLT_MCFAIL) (addrStack t.2) q .fenced false []

/-- The modules other than this that a list flit's targets lie in. -/
def targetModules (s : State) (p : Packet) : List Nat :=
  ((p.targets.map fun t => (addrModule t.2).toNat).filter fun m => m != (moduleNo s).toNat).eraseDups

/-- The copy of a multicast for module `m`: its targets, at the first of which it enters. -/
def copyTo (p : Packet) (m : Nat) : Packet :=
  let ts := p.targets.filter fun t => (addrModule t.2).toNat == m
  { p with targets := ts, dest := (ts.head?.map fun t => t.2).getD p.dest }

/-- The targets of a multicast whose branch waits at its replication router: a branch is a target of this module, or a copy
for another one. -/
def waitingTargets (s : State) (p : Packet) (waiting : List Nat) : List (Nat × Dword) :=
  let held := fun (t : Nat × Dword) => waiting.contains t.1
  p.targets.filter fun t =>
    if addrModule t.2 = moduleNo s then held t
    else (copyTo p (addrModule t.2).toNat).targets.any held

/-- The replication router of a multicast in this module: stack and site (R332). -/
def mcastRouter (s : State) (p : Packet) : Nat × Nat := (originOf s p).getD (addrStack (issuerAddr s p.src), 0)

/-- The machine without a multicast in the network and in its buffer. -/
def takeMcast (s : State) (k : Nat) (e : McastEntry) : State :=
  putStk { s with net := s.net.erase e.packet } k { stkOf s k with mcasts := (stkOf s k).mcasts.erase e }

/-- The branches of a multicast that have credit proceed: a copy to each target here, and one to each other module with
targets; the others stay in the buffer (R332, R333). -/
def replicate_ (s : State) (k : Nat) (e : McastEntry) (waiting : List Nat) : State :=
  let p := e.packet
  let rest := waitingTargets s p waiting
  let q := { p with targets := p.targets.filter fun t => !rest.contains t }
  let s1 := (q.targets.filter fun t => addrModule t.2 == moduleNo s).foldl (mputTarget p) (takeMcast s k e)
  let s2 := (targetModules s q).foldl (fun s m => routeOut s (copyTo q m) m) s1
  if rest.isEmpty then s2
  else putStk s2 k { stkOf s2 k with mcasts := (stkOf s2 k).mcasts ++ [⟨e.site, { p with targets := rest }⟩] }

/-- MPUT: a list flit is replicated at its router, which holds it in one of two multicast buffers until every branch has
taken it; it waits while both are in use (R332, R333). -/
def execMput (m : McastArrival) (s : State) : Host.Outcome State Fault Refusal :=
  let r := mcastRouter s m.packet
  let here := (stkOf s r.1).mcasts.filter fun e => e.site == r.2
  .next (if 2 ≤ here.length ∧ !here.contains ⟨r.2, m.packet⟩ then s else replicate_ s r.1 ⟨r.2, m.packet⟩ m.waiting)

/-- ARRIVE (R173, R174, R349): a tile's counter 0 to 247, or a Helm counter from its sources. -/
def execArrive (p : Packet) (s : State) : Host.Outcome State Fault Refusal :=
  .next (atModule s p fun s =>
    let v := leVal (p.data.take 2)
    match destOf s p.dest 16 p.src with
    | .tile r off =>
      if off % 16 = 0 ∧ 0x7D000 ≤ off ∧ off ≤ 0x7DF70 then
        complete (changeTile s r fun _ t => arriveAt t off v) (addrStack p.dest) p .ok false []
      else complete s (addrStack p.dest) p .fenced false []
    | .helm k i =>
      if helmArrival s k i p.src then complete (arriveOffer (closeRound (arriveHelm s k i v))) k p .ok false []
      else complete s k p .fenced false []
    | _ => complete s (addrStack p.dest) p .fenced false [])

/-- A response passes back through the routers, which send its copies, and reaches its issuer's module and tile (R142, R170,
R305). -/
def responsePacket (s : State) (p : Packet) : State :=
  let r := passBackAll { s with net := s.net.erase p } p
  let q := { p with sat := p.sat || r.1 }
  atModule r.2 q fun s =>
    match q.src with
    | .tile _ t => deliver s t q.tag q.turn q.status q.sat q.data (q.targets.map fun x => x.1)
    | .helm _ _ _ => endHelmOp s q.tag.toNat q.turn.toNat
    | _ => rbump s 0 FLT_STALE

/-- COMPLETION: frees its tag and updates its completion group, or is discarded as stale (R170, R331). -/
def execCompletion (p : Packet) (s : State) : Host.Outcome State Fault Refusal := .next (responsePacket s p)

/-- GET_DATA: the data is written into the issuer's tile store and the GET completes (R169, R170). -/
def execGetData (p : Packet) (s : State) : Host.Outcome State Fault Refusal :=
  .next (responsePacket s { p with status := .ok })

/-- The buffered multicast of which some waiting branches are `p`: its stack and entry. -/
def bufferOf (s : State) (p : Packet) : Option (Nat × McastEntry) :=
  stackNos.findSome? fun k => ((stkOf s k).mcasts.find? fun e =>
    p.targets.all (fun t => e.packet.targets.contains t) && { e.packet with targets := p.targets, dest := p.dest } == p).map
      fun e => (k, e)

/-- Waiting branches of a buffered multicast are dropped. -/
def dropBranches (s : State) (k : Nat) (e : McastEntry) (p : Packet) : State :=
  let rest := e.packet.targets.filter fun t => !p.targets.contains t
  let l := (stkOf s k).mcasts.erase e
  putStk s k { stkOf s k with
    mcasts := if rest.isEmpty then l else l ++ [{ e with packet := { e.packet with targets := rest } }] }

/-- The machine after a hop timeout is recorded for the link it came about at, where it came about at one (R378). -/
def recordHop (s : State) (where_ : Option LinkRef) : State :=
  match where_ with
  | some l => logHop s l
  | none => s

/-- The machine after a packet ends with TIMEOUT on the way to its destination (R379). -/
def timeoutHop (s : State) (p : Packet) : State := endPacket s (addrStack (issuerAddr s p.src)) p .timeout

/-- HOP_TIMEOUT (R333, R334, R380): a request packet that still waits, in the network or in a multicast buffer, is discarded
and its issuer sent TIMEOUT; one that has gone on, or whose credit came in the same cycle, is not. A response never times
out. The port or crossing at which it expired is recorded (Table 16.1, class 9). -/
def execHopTimeout (p : Packet) (where_ : Option LinkRef) (s : State) : Host.Outcome State Fault Refusal :=
  .next (
    if isResponse p then s
    else if s.net.contains p then timeoutHop (recordHop s where_) p
    else match (if p.op = .mput ∧ !p.targets.isEmpty then bufferOf s p else none) with
      | some q => timeoutHop (recordHop (dropBranches s q.1 q.2 p) where_) p
      | none => s)

/-- END_TO_END_TIMEOUT (R331): an operation still under way completes with TIMEOUT and its tag is free. -/
def execEndToEndTimeout (r : TileRef) (tag : BitVec 5) (s : State) : Host.Outcome State Fault Refusal :=
  match siteOf s r.stack.toNat r.tile.toNat with
  | none => .next s
  | some site =>
    let t := tileAt s r.stack.toNat site
    if tagUsed t tag.toNat then
      .next (deliver s r tag (BitVec.ofNat 4 (turnOf t tag.toNat)) .timeout false [] (match sigOf t tag with
        | some o => o.open_
        | none => []))
    else .next s

end Sys2Proof.Machine
end

