-- ==== Sys2Proof/Machine/AbortOps.lean ====
section
/-!
DEFINITION. What a block reset that cuts a tile's transfers off leaves (R170, R421): open destinations and ABORTED.
-/

namespace Sys2Proof.Machine

/-- `n` free bytes, and the machine after they are used. -/
def openBytes (s : State) (n : Nat) : State × List Byte :=
  ({ s with free := s.free + n }, (List.range n).map fun i => (Config.freeWord (s.free + i)).setWidth 8)

/-- Free bytes at a destination of a tile's operation; a window of the chart is written through it. -/
def openDest (s : State) (p : Packet) (n : Nat) : State :=
  if addrModule p.dest ≠ moduleNo s then s
  else
    let q := openBytes s n
    match destOf s p.dest n p.src with
    | .append => appendWindow q.1 { p with op := .put, len := n, data := q.2 }
    | .page => pageWindow q.1 { p with op := .put, len := n, data := q.2 }
    | d => destWrite q.1 d q.2

/-- An operation ended inside its block leaves its destination range undefined. -/
def openPacket (s : State) (p : Packet) : State :=
  match p.op with
  | .put => openDest s p p.len
  | .add32 => openDest s p (4 * p.len)
  | .add64 => openDest s p (8 * p.len)
  | .ladd => openDest s p (16 * p.len)
  | .cas64 => openDest s p 8
  | .mput => p.targets.foldl (fun s t => openDest s { p with dest := t.2 } p.len) s
  | _ => s

/-- Ranges of its own store that a tile's operations in flight write: offset and length. -/
def inwardRanges (t : Tile) : List (Nat × Nat) :=
  (t.fetches.flatMap fun o => if o.bankw.isSome then [] else o.flying.map fun q => (q.2.dst, q.2.len))
    ++ t.sigs.map fun o => (o.localA, o.len)

/-- Whether a packet is an operation, or its response, of a tile of this module. -/
def ofTile (s : State) (r : TileRef) (p : Packet) : Bool := p.src == .tile (moduleNo s) r

/-- Tags that the operations of a tile hold. -/
def openTags (t : Tile) : List (BitVec 5) :=
  (t.fetches.flatMap fun o => o.flying.map fun q => q.1) ++ t.sigs.map fun o => o.tag

/-- A tile's transfers end ABORTED after a quiesce that expired, each reported to Helm (R170, R421). -/
def abortTile (s : State) (r : TileRef) (site : Nat) : State :=
  let t := tileAt s r.stack.toNat site
  let s1 := (s.net.filter (ofTile s r)).foldl openPacket s
  let s2 := { s1 with
    net := s1.net.filter fun p => !ofTile s r p
    stk := s1.stk.map fun d => { d with mcasts := d.mcasts.filter fun e => !ofTile s r e.packet } }
  let s3 := (inwardRanges t).foldl (fun s q =>
    let b := openBytes s q.2
    changeSite b.1 r.stack.toNat site fun t => swrite t q.1 b.2) s2
  let s4 := { s3 with reports := s3.reports ++ (openTags t).map fun k => .opFailed r k .aborted }
  rbump s4 0 BNC_ABORTED (openTags t).length

end Sys2Proof.Machine
end

