-- ==== Sys2Proof/Machine/Forms.lean ====
section
/-!
DEFINITION. Keys in array banks (R213, R214): the key-bank forms that Helm builds over a published prefix.
-/

namespace Sys2Proof.Machine

/-- A key element as its page holds it: channel `i` of block `b` at position `j` of the page. -/
def keyElem (s : State) (k f : Nat) (kw : Bool) (b i j : Nat) : Nat :=
  if kw then bitsOf (leVal (cread s k (frameOff s k f kw false false false b j + i / 2) 1)) (4 * (i % 2)) 4
  else leVal (cread s k (frameOff s k f kw false false false b j + i) 1)

/-- The W4 code of a key element: the element itself, or a half of it under R26 (FMT 4 or 5). -/
def formCode (fmt w : Nat) : Nat := if fmt = 4 then w / 16 else if fmt = 5 then (w % 16 + 8) % 16 else w

/-- Row beats of a part: row 128 s + i holds channel i of block 4 r + s for the 128 keys; `fs` are the group's frames. -/
def formRow (s : State) (k : Nat) (fs : List Nat) (fmt r row : Nat) : List Byte :=
  let b := 4 * r + row / 128
  let code := fun j => formCode fmt (keyElem s k (nth fs (j / 64)) (fmt == 1) b (row % 128) (j % 64))
  if b < kvBlocks s k then (List.range 64).map fun m => BitVec.ofNat 8 (code (2 * m) + 16 * code (2 * m + 1))
  else List.replicate 64 0

/-- The scale section: SCALE of each position's K tag, +0 beyond the stack's blocks; each page has its own V width. -/
def formScales (s : State) (k : Nat) (fs : List Nat) (kw : Bool) (r : Nat) : List Byte :=
  (List.range 4).flatMap fun g => (List.range 128).map fun j =>
    let f := nth fs (j / 64)
    if 4 * r + g < kvBlocks s k then
      BitVec.ofNat 8 (leVal (cread s k (frameOff s k f kw (bitOf (desc0 s k f) 25) false true (4 * r + g) (j % 64)) 1))
    else 0

/-- One part of a form: a complete bank write (R80, R213). -/
def formPart (s : State) (k : Nat) (es : List Ple) (kw : Bool) (r fmt : Nat) : List Byte :=
  let fs := es.map fun e => e.frame
  let body := (List.range 512).flatMap (formRow s k fs fmt r) ++ formScales s k fs kw r
  leBytes 4 fmt ++ (es.map fun e => e.gen).flatMap (leBytes 2) ++ leBytes 4 (crc32c body).toNat
    ++ List.replicate 20 0 ++ body

/-- The formats of a form's parts: W4, or W8H and W8L. -/
def formFormats (kw : Bool) : List Nat := if kw then [1] else [4, 5]

/-- The K width of a layer's group, where both of its pages are mapped and have the same; R213 gives a form to no other
group, and none is built for one (DEDUCED, notes/assumptions/100.md). -/
def groupWidth (s : State) (k x l : Nat) : Option Bool :=
  let es := groupPles s k x l
  match es.map fun e => bitOf (desc0 s k e.frame) 24 with
  | [a, b] => if (es.all fun e => e.v) && a == b then some a else none
  | _ => none

/-- The form of one layer of a group is built. -/
def buildForm (k x : Nat) (s : State) (l : Nat) : State :=
  match groupWidth s k x l with
  | some a =>
    let s1 := (List.range (ceilDiv (kvBlocks s k) 4)).foldl (fun s r =>
      (formFormats a).foldl (fun s fmt =>
        cwrite s k (Config.formPlace k x l r fmt) (formPart s k (groupPles s k x l) a r fmt)) s) s
    markForms s1 k x l
  | none => s

/-- The forms of the group that a published node of odd depth completes, for the array-eligible layers; FORMPTR of the
node names the first part of the first (R213). -/
def buildForms (s : State) (k x : Nat) (eligible : List Nat) : State :=
  let ls := if nodeDepth s k x % 2 = 1 then
      eligible.filter fun l => decide (l < nodeLayerCount s k x) && (groupWidth s k x l).isSome
    else []
  match ls with
  | l :: _ => match groupWidth s k x l with
    | some a => putCword (ls.foldl (buildForm k x) s) k (x + 56) (Config.formPlace k x l 0 (nth (formFormats a) 0))
    | none => s
  | [] => s

/-- Whether a form in a slot's bank format covers group `g` of layer `l` of a chart: a published node maps the group's
second page, its parent the first, and its form has the format's width (R213, R214). -/
def formCovers (s : State) (k : Nat) (r : Root) (l g : Nat) (w8 : Bool) : Bool :=
  match formNode s k r l g with
  | some x => decide (getPle s k r l (2 * g) = nodePle s k (nodeParent s k x) l) && groupWidth s k x l == some (!w8)
  | none => false

/-- Whether the chart of context `c` in stack `k` meets an array slot's conditions (R214). -/
def arrayFits (s : State) (k c : Nat) (eligible : List Nat) (w8 : Bool) (groups : Nat) : Bool :=
  let r := rootOf s k c
  eligible.all fun l => (List.range groups).all fun g =>
    decide (l < r.layers) && decide (2 * g + 1 < r.ppl) && formCovers s k r l g w8

end Sys2Proof.Machine
end

