-- ==== Sys2Proof/Machine/ServeOps.lean ====
section
/-!
DEFINITION. The lead Helm's serving work (R245 to R266): contexts, berths, its writes to the companion, its chart work,
reports, and the start of a step.
-/

namespace Sys2Proof.Machine

/-! ### Contexts and berths -/

/-- A berth, and the machine with it replaced. -/
def berthOf (s : State) (b : Nat) : Berth := s.serve.berths.getD b Berth.reset
def putBerth (s : State) (b : Nat) (v : Berth) : State :=
  { s with serve := { s.serve with berths := s.serve.berths.set b v } }

/-- HLM_BERTH_n.STATE: 0 disabled, 1 enabled, 2 disabling, 3 fenced. -/
def berthState (s : State) (b : Nat) : Nat := rget s (leadStk s) HLM_BERTH_STATE b
def putBerthState (s : State) (b v : Nat) : State := rput s (leadStk s) HLM_BERTH_STATE v b

/-- A context, and the machine with it replaced. -/
def ctxAt (s : State) (c : Nat) : Option Context := mapGet (fun _ => none) s.serve.contexts c
def putCtx (s : State) (c : Nat) (x : Option Context) : State :=
  { s with serve := { s.serve with contexts := mapSet (fun _ => none) s.serve.contexts c x } }

/-- The live contexts of a berth, WAITING or PLACED, by number. -/
def berthContexts (s : State) (b : Nat) : List (Nat × Context) :=
  s.serve.contexts.filterMap fun q => match q.2 with
    | some x => if x.berth = b ∧ x.st ≠ .ended then some (q.1, x) else none
    | none => none

/-- A class queue, and the machine with it replaced. -/
def queueAt (s : State) (c : Nat) : List Nat := s.serve.queues.getD c []
def putQueue (s : State) (c : Nat) (l : List Nat) : State :=
  { s with serve := { s.serve with queues := s.serve.queues.set c l } }

/-- A context leaves every queue. -/
def unqueue (s : State) (c : Nat) : State :=
  { s with serve := { s.serve with queues := s.serve.queues.map fun l => l.filter fun x => x != c } }

/-- One event of the event order (R251). -/
def countEvent (s : State) : State := rbump s (leadStk s) HLM_EVENT_EVENT

/-- The phase of a crossing, 0 none, and its berth (HLM_XING). -/
def xingPhase (s : State) : Nat := rget s (leadStk s) HLM_XING_PHASE
def xingBerth (s : State) : Nat := rget s (leadStk s) HLM_XING_BERTH

/-- The schedule that a berth's coming or running step uses: the crossing forms in σ and σ + 1 (R286). -/
def scheduleOf (s : State) (b : Nat) : Option Schedule :=
  let v := berthOf s b
  if xingPhase s = 2 ∧ xingBerth s = b then
    match v.next with
    | some im => im.crossA
    | none => none
  else if xingPhase s = 3 ∧ xingBerth s = b then
    match v.next with
    | some im => im.crossB
    | none => none
  else v.image.map fun im => im.steady

/-- The slots of a berth, and the stacks it uses. -/
def berthSlots (s : State) (b : Nat) : List SlotEntry :=
  match scheduleOf s b with
  | some x => x.slots
  | none => []
def berthStacks (s : State) (b : Nat) : List Nat :=
  match (berthOf s b).image with
  | some im => im.steady.plans.map fun p => p.stack.toNat
  | none => []

/-- Whether a berth spans modules, and its other modules. -/
def spansModules (s : State) (b : Nat) : Bool := decide (1 < (berthModules s b).length)
def otherModules (s : State) (b : Nat) : List (BitVec 10) := (berthModules s b).filter fun m => m != moduleNo s

/-! ### Writes to the companion (R370, R371) -/

/-- The lead Helm writes bytes at a companion address; what follows the last CMP stands in the group. -/
def helmWrite (s : State) (a : Nat) (bs : List Byte) (line : Option (BitVec 48 × List Byte)) (b : Nat)
    (notify last : Bool) (reread : Option (BitVec 48)) : State :=
  let g := s.serve.nextGroup
  let n := (linePieces 2048 a bs.length).length
  let s1 := { s with serve := { s.serve with
    groups := s.serve.groups ++ [⟨g, n, line, b, notify, last, reread⟩]
    nextGroup := g + 1 } }
  writeLines s1 (halfOf a) a bs fun _ => .helm g

/-- ACK of a descriptor or image line, in one write of the line (R250, R276). -/
def writeAck (s : State) (line off code detail : Nat) : State :=
  helmWrite s (line + off) (leBytes 8 (code + 256 + detail)) none 0 false false (some (BitVec.ofNat 48 line))

/-- NTF for a berth on half 0 (R371, Table 15.4). -/
def notifyHost (s : State) (b : Nat) : State :=
  if ron s 0 LNK_CTL_NOTIFY_EN then request s 0 0x06 (64 * 2 ^ b) 1 0 [] .notify else s

/-- What follows the last CMP of a write group: its completion line, its notification, the closing of its wrapper. -/
def groupDoneThen (s : State) (g : WriteGroup) : State :=
  let s1 := match g.line with
    | some l => helmWrite s l.1.toNat l.2 none g.berth true g.last none
    | none => s
  let s2 := if g.notify then notifyHost s1 g.berth else s1
  let s3 := if g.notify && g.last then putBerthState s2 g.berth 3 else s2
  match g.reread with
  | some a => watchRead s3 a.toNat
  | none => s3

/-- A write group ends. -/
def endGroup (s : State) (g : WriteGroup) : State :=
  groupDoneThen { s with serve := { s.serve with groups := s.serve.groups.filter fun x => x.group != g.group } } g

/-- The groups of a berth that end in a completion line, oldest first. -/
def lineGroups (s : State) (b : Nat) : List WriteGroup := s.serve.groups.filter fun g => g.berth == b && g.line.isSome

/-- The completion lines of a berth are written in the order of its reports: those whose records are all in companion
memory, up to the first report whose records are not (R260, R371). -/
def flushLines (s : State) (b : Nat) : State := ((lineGroups s b).takeWhile fun g => g.open_ == 0).foldl endGroup s

/-- One CMP of a write group. -/
def groupCmp (s : State) (n : Nat) : State :=
  match s.serve.groups.find? fun g => g.group == n with
  | none => s
  | some g =>
    if g.open_ ≤ 1 ∧ g.line.isNone then endGroup s g
    else flushLines { s with serve := { s.serve with
      groups := (s.serve.groups.map fun x => if x.group = n then { x with open_ := x.open_ - 1 } else x) } } g.berth

/-! ### Watched lines (R250, R370) -/

/-- A 32-bit or other field of a line. -/
def lineField (l : Line) (off n : Nat) : Nat := bitsOf l.data.toNat (8 * off) (8 * n)

/-- HSEQ of a line, and the HSEQ last processed on it. -/
def lineSeq (l : Line) : Word := BitVec.ofNat 32 (lineField l 4 4)
def lastSeq (s : State) (l : Line) : Word := mapGet (fun _ => 0) s.serve.hseq l.addr.toNat

/-- The lead Helm processes descriptors, and the line holds a new one. -/
def newLine (s : State) (l : Line) : Bool :=
  ron s (leadStk s) HLM_CTL_EN && (leadOf s).isSome && lineSeq l != lastSeq s l

/-- The line has been processed. -/
def markLine (s : State) (l : Line) : State :=
  { s with serve := { s.serve with hseq := mapSet (fun _ => 0) s.serve.hseq l.addr.toNat (lineSeq l) } }

/-! ### Reports (R259, R260) -/

/-- A step report record (Table 10.7). -/
def recBytes (r : ReportRec) : List Byte :=
  leBytes 8 r.reqid.toNat ++ leBytes 1 r.status ++ leBytes 1 r.end_ ++ leBytes 1 r.flags ++ leBytes 1 r.toks.length
    ++ leBytes 2 r.context ++ leBytes 1 (r.berth + 16 * r.cls) ++ leBytes 1 0 ++ leBytes 4 r.positions
    ++ leBytes 4 r.delivered ++ leBytes 4 r.watch.toNat ++ leBytes 2 r.adapter ++ leBytes 2 r.vslot
    ++ ((r.toks.map fun (t : Word) => t.toNat) ++ List.replicate (8 - r.toks.length) 0).flatMap (leBytes 4)

/-- Room in the report ring, in records. -/
def ringRoom (s : State) : Nat :=
  2 ^ rget s (leadStk s) HLM_RPT_CFG_SIZE
    - (BitVec.ofNat 32 (rget s (leadStk s) HLM_RPT_HEAD_HEAD) - s.serve.returned).toNat

/-! ### Chart commands of the lead Helm (R231, R232; notes/assumptions/44.md) -/

/-- INSERT by the ring, with the forms that Helm builds over the prefix that it publishes (R213, R241). -/
def insertFormed (eligible : List Nat) (d : ChtDone) (k : Nat) : ChtDone :=
  if d.code = .ok then { d with st := buildForms d.st k d.node eligible } else d

/-- The array-eligible layers of a berth's model in a stack. -/
def eligibleLayers (s : State) (b k : Nat) : List Nat :=
  match berthPlan s b k with
  | some p => p.eligible
  | none => []

/-- INSERT of a context's block, with its forms. -/
def insertRing (a : ChartArgs) (s : State) (k : Nat) : ChtDone :=
  insertFormed (match ctxAt s (chtContext a) with
    | some x => eligibleLayers s x.berth k
    | none => []) (insertChart a s k) k

/-- INSERT (R241). -/
def execRutInsert (a : ChartArgs) (s : State) : Host.Outcome State Fault Refusal := .next (runChart s a (insertRing a))

/-- The operation that a command's OP names (Table 9.8); another OP is refused with RANGE. -/
def chartOp (a : ChartArgs) (s : State) (k : Nat) : ChtDone :=
  match bitsOf a.w0.toNat 0 8 with
  | 1 => openChart a s k
  | 2 => mapChart a s k
  | 3 => forkChart a s k
  | 4 => allocChart a s k
  | 5 => cowChart a s k
  | 6 => advChart a s k
  | 7 => freeChart a s k
  | 8 => pinChart true a s k
  | 9 => pinChart false a s k
  | 0x10 => lookupChart a s k
  | 0x11 => insertRing a s k
  | 0x12 => evictChart a s k
  | _ => chtFail s .range

/-- The command in the ring's place at TAIL. -/
def ringArgs (s : State) (k : Nat) : ChartArgs :=
  let a := chtPlace s k (rget s k CHT_TAIL_TAIL)
  ⟨BitVec.ofNat 3 k, BitVec.ofNat 64 (cword s k a), BitVec.ofNat 64 (cword s k (a + 8)),
    BitVec.ofNat 64 (cword s k (a + 16)), BitVec.ofNat 64 (cword s k (a + 24))⟩

/-- The walkers execute up to `n` commands that wait in the ring. -/
def serveRing (k : Nat) : Nat → State → State
  | 0, s => s
  | n + 1, s => if ringReady s k then serveRing k n (runRing s k (ringArgs s k) (chartOp (ringArgs s k))).st else s

/-- Whether a stack's walkers serve a command ring. -/
def ringServed (s : State) (k : Nat) : Bool :=
  ron s k CHT_CTL_EN && walkersOpen s k && decide (4 ≤ rget s k CHT_RING_SIZE) && decide (rget s k CHT_RING_SIZE ≤ 12)

/-- A chart command of Helm in stack `k`: it is written at HEAD, the commands before it are executed, and then it is
itself (R231). -/
def helmChart (s : State) (k op c page count : Nat) (arg0 arg1 arg2 : Nat) (f : ChartArgs → State → Nat → ChtDone) :
    ChtDone :=
  if ringServed s k then
    let s1 := serveRing k (ringSize s k) s
    let a : ChartArgs := ⟨BitVec.ofNat 3 k, BitVec.ofNat 64 (op + c * 2 ^ 8 + page * 2 ^ 32 + count * 2 ^ 48),
      BitVec.ofNat 64 arg0, BitVec.ofNat 64 arg1, BitVec.ofNat 64 arg2⟩
    let s2 := cwrite s1 k (chtPlace s1 k (rget s1 k CHT_HEAD_HEAD))
      ([a.w0, a.arg0, a.arg1, a.arg2].flatMap fun (w : Dword) => leBytes 8 w.toNat)
    runRing (rput s2 k CHT_HEAD_HEAD ((rget s1 k CHT_HEAD_HEAD + 1) % ringSize s1 k)) k a (f a)
  else chtFail s .norutter

/-- Where the chart of a context lies in a stack. -/
def chartList (p : StackPlan) (c : Nat) : Nat := p.listBase + c * (64 * ceilDiv (8 * p.layers * p.ppl) 64)

/-- OPEN of a context in every stack of its berth. -/
def openAll (s : State) (b c : Nat) : State :=
  (berthStacks s b).foldl (fun s k =>
    match berthPlan s b k with
    | some p => (helmChart s k 1 c 0 p.layers (chartList p c) p.ppl 0 openChart).st
    | none => s) s

/-- FREE of a context in every stack that holds a chart of it. -/
def freeAll (s : State) (c : Nat) : State :=
  stackNos.foldl (fun s k =>
    if ringServed s k && decide ((rootOf s k c).layers ≠ 0) then (helmChart s k 7 c 0 0 0 0 0 freeChart).st else s) s

/-- ADV of a context in every stack of its berth. -/
def advAll (s : State) (b c n : Nat) : State :=
  (berthStacks s b).foldl (fun s k => (helmChart s k 6 c 0 n 0 0 0 advChart).st) s

/-- An ended context whose last record has been written: its chart is freed, and then it is FREE (R249, R257 step 4). -/
def freeEnded (s : State) (r : ReportRec) : State :=
  match ctxAt s r.context with
  | some x => if x.st = .ended ∧ r.end_ ≠ 0 then putCtx (freeAll s r.context) r.context none else s
  | none => s

/-- Contexts bound to an adapter version slot (R263). -/
def boundTo (s : State) (v : Nat) : Nat :=
  s.serve.contexts.countP fun q => match q.2 with
    | some x => x.vslot == some v
    | none => false

/-- Superseded versions without a bound context are FREE again (R263). -/
def sweepVersions (s : State) : State :=
  { s with serve := { s.serve with vslots := (s.serve.vslots.filter fun q => match q.2 with
    | some v => !(v.st == .superseded && boundTo s q.1 == 0)
    | none => true) } }

/-- A report without records is written: its line, after those of the berth's reports before it (R260). -/
def writeBareLine (s : State) (cpl : Nat) (line : List Byte) (b : Nat) (final : Bool) : State :=
  if (lineGroups s b).isEmpty then helmWrite s cpl line none b true final none
  else { s with serve := { s.serve with
    groups := s.serve.groups ++ [⟨s.serve.nextGroup, 0, some (BitVec.ofNat 48 cpl, line), b, false, final, none⟩]
    nextGroup := s.serve.nextGroup + 1 } }

/-- A report is written (R260, R371): its records, then the berth's completion line; the contexts that end in it become
FREE. -/
def writeReport (s : State) (b : Nat) (recs : List ReportRec) (watch : Word) (tick : Nat) (final waited : Bool) : State :=
  let k := leadStk s
  let head := rget s k HLM_RPT_HEAD_HEAD
  let v := berthOf s b
  let line := leBytes 4 (v.cseq + 1) ++ leBytes 4 head ++ leBytes 4 recs.length ++ leBytes 4 watch.toNat
    ++ leBytes 8 tick ++ leBytes 1 (bit final + 2 * bit waited) ++ List.replicate 39 0
  let cpl := cplBase s + 64 * b
  let s1 := putBerth (rput (rbump s k HLM_RECORDS recs.length) k HLM_RPT_HEAD_HEAD (head + recs.length)) b
    { v with cseq := v.cseq + 1 }
  match recs with
  | [] => writeBareLine s1 cpl line b final
  | _ =>
    let g := s1.serve.nextGroup
    let s2 := { s1 with serve := { s1.serve with
      groups := s1.serve.groups ++
        [⟨g, recs.length, some (BitVec.ofNat 48 cpl, line), b, false, final, none⟩]
      nextGroup := g + 1 } }
    let s3 := recs.zipIdx.foldl (fun s q =>
      let a := rptBase s + 64 * ((head + q.2) % 2 ^ rget s k HLM_RPT_CFG_SIZE)
      writeLines s (halfOf a) a (recBytes q.1) fun _ => .helm g) s2
    recs.foldl freeEnded s3

/-- A report at the present watch: written, or held until the ring has room (R260). -/
def report (s : State) (b : Nat) (recs : List ReportRec) (final : Bool) : State :=
  if (berthOf s b).held.isEmpty ∧ recs.length ≤ ringRoom s then writeReport s b recs (watchNo s) s.tick final false
  else
    let s1 := rput (rbump s (leadStk s) HLM_RPTWAIT) (leadStk s) HLM_BERTH_RPTWAIT 1 b
    putBerth s1 b { berthOf s1 b with
      held := (berthOf s1 b).held ++ [⟨recs, watchNo s, s.tick, final⟩]
      rptwait := true }

/-- One held report is written if the ring has room for it. -/
def releaseOne (b : Nat) (s : State) (h : HeldReport) : State :=
  if (berthOf s b).held.head? = some h ∧ h.recs.length ≤ ringRoom s then
    let rest := (berthOf s b).held.drop 1
    let s1 := putBerth s b { berthOf s b with held := rest, rptwait := !rest.isEmpty }
    writeReport (rput s1 (leadStk s) HLM_BERTH_RPTWAIT (bit !rest.isEmpty) b) b h.recs h.watch h.tick h.final true
  else s

/-- Held reports are written, in order, once the ring has room. -/
def releaseHeld (s : State) (b : Nat) : State := (berthOf s b).held.foldl (releaseOne b) s

/-! ### Chart work of the lead Helm for a request (R232, R252, R255) -/

/-- Where a context's token buffer lies in a stack's DRAM (notes/assumptions/44.md). -/
def tokenBase (k c : Nat) : Nat := Config.tokenPlace k c % 2 ^ 36

/-- The blocks of 64 tokens of a token list. -/
def tokenBlocks (toks : List Word) : List (List Nat) :=
  (chunks 64 (toks.length / 64) toks).map fun l => l.map fun t => t.toNat

/-- The root key of a binding, and the machine that has one for it: each new binding takes the next key (R239). -/
def rootKey (s : State) (q : Nat × Nat × Nat × Nat) : State × Dword :=
  if s.serve.keys.contains q then (s, Config.rootBase + BitVec.ofNat 64 (s.serve.keys.idxOf q))
  else ({ s with serve := { s.serve with keys := s.serve.keys ++ [q] } },
    Config.rootBase + BitVec.ofNat 64 s.serve.keys.length)

/-- The binding of a context: model, its version, adapter, its version. -/
def bindingOf (s : State) (x : Context) : Nat × Nat × Nat × Nat :=
  (x.model, x.version, x.adapter, match x.vslot with
    | some v => match mapGet (fun _ => none) s.serve.vslots v with
      | some y => y.version
      | none => 0
    | none => 0)

/-- The tokens of a context lie in its token buffer in each stack of its berth, where the walkers read them (R252 step 2). -/
def saveTokens (s : State) (b c : Nat) (toks : List Word) : State :=
  (berthStacks s b).foldl (fun s k => dwrite s k (tokenBase k c) (toks.flatMap fun (t : Word) => leBytes 4 t.toNat)) s

/-- LOOKUP of a context's blocks in one stack (R252 step 4). -/
def lookupIn (s : State) (k c : Nat) (root : Dword) (bs : List (List Nat)) : ChtDone :=
  helmChart s k 0x10 c 0 bs.length (tokenBase k c) root.toNat 0 fun _ s k => lookupToks s k root bs

/-- The node `n` levels above `x`. -/
def nodeAbove (s : State) (k : Nat) : Nat → Nat → Nat
  | 0, x => x
  | n + 1, x => nodeAbove s k n (nodeParent s k x)

/-- The prefix MAP of an admitted request (R252 step 4): one LOOKUP over the whole blocks of its prompt in each stack of its
berth, and the MAP of the blocks that every stack matches, at most PLEN − 1 positions; none where a MAP fails. The second
result is the blocks mapped. -/
def prefixMap (s : State) (b c : Nat) (x : Context) : State × Nat :=
  let blocks := tokenBlocks x.tokens
  let q := (berthStacks s b).foldl (fun (q : State × List (Nat × Nat × Nat)) k =>
    let r := lookupIn q.1 k c x.root blocks
    (r.st, q.2 ++ [(k, r.depth, r.node)])) (s, [])
  let n := q.2.foldl (fun n r => min n r.2.1) (if q.2.isEmpty then 0 else (x.tokens.length - 1) / 64)
  if n = 0 then (q.1, 0)
  else
    let m := q.2.foldl (fun (m : State × Bool) r =>
      let h := helmChart m.1 r.1 2 c 0 0 (nodeAbove m.1 r.1 (r.2.1 - n) r.2.2) 0 0 mapChart
      (h.st, m.2 && h.code == .ok)) (q.1, true)
    if m.2 then (m.1, n) else (openAll (freeAll m.1 c) b c, 0)

/-- The pages that begin within the positions t0 to t0 + m − 1. -/
def newPages (t0 m : Nat) : List Nat :=
  (List.range (m / 64 + 2)).filterMap fun i =>
    let p := ceilDiv t0 64 + i
    if 64 * p < t0 + m then some p else none

/-- The first code other than OK. -/
def firstCode (a b : ChtCode) : ChtCode := if a = .ok then b else a

/-- ALLOC and COW for the positions of a request's next step in one stack (R232). -/
def preparePages (k c t0 m : Nat) (s : State) : State × ChtCode :=
  let cow := if t0 % 64 = 0 then chtOk s else helmChart s k 5 c (t0 / 64) 0 0 0 0 cowChart
  (newPages t0 m).foldl (fun q p =>
    let r := helmChart q.1 k 4 c p 0 0 0 0 allocChart
    (r.st, firstCode q.2 r.code)) (cow.st, cow.code)

/-- Nodes of a stack that can be evicted, least recently used first (R242, R255). -/
def evictable (s : State) (k : Nat) : List Nat :=
  sortBy (fun (a b : Nat) => decide (cword s k (a + 48) ≤ cword s k (b + 48)))
    (((stkOf s k).nodeLayers.map fun q => q.1).filter fun x => decide (nodeState s k x = 2 ∧ nodeChildren s k x = 0))

/-- Leaf nodes are evicted by LASTUSE until `need` frames are free, or none can be (R255; notes/assumptions/84.md). -/
def evictUntil (k need : Nat) : Nat → State → State
  | 0, s => s
  | n + 1, s =>
    if need ≤ (stkOf s k).frames.length then s
    else match evictable s k with
      | x :: _ => evictUntil k need n (helmChart (freeForms s k x) k 0x12 0 0 0 x 0 0 evictChart).st
      | [] => s

/-- After NOFRAME in the stacks `ks`, room is made there for a request's next step. -/
def evictForRoom (s : State) (b t0 m : Nat) (ks : List Nat) : State :=
  ks.foldl (fun s k =>
    let layers := match berthPlan s b k with
      | some p => p.layers
      | none => 0
    evictUntil k (layers * ((newPages t0 m).length + bit (decide (t0 % 64 ≠ 0)))) (stkOf s k).nodeLayers.length s) s

/-- One whole block of a request becomes a node, with its forms where its group is complete (R213). -/
def insertOne (s : State) (b k c j : Nat) (x : Context) (above : Nat) (toks : List Nat) : State :=
  (helmChart s k 0x11 c j 0 (tokenBase k c + 256 * j) x.root.toNat above fun _ s k =>
    insertFormed (eligibleLayers s b k) (insertBlock s k c j x.root above toks) k).st

/-- Whole blocks of a request become nodes in every stack of its berth (R257 step 5); a block whose parent is no longer
published cannot. -/
def insertBlocks (s : State) (b c : Nat) (x : Context) : State :=
  let blocks := tokenBlocks (x.tokens.take x.positions)
  (berthStacks s b).foldl (fun s k =>
    if ringServed s k && rutterOn s k then
      (List.range (blocks.length - x.blocks)).foldl (fun s i =>
        let j := x.blocks + i
        let up := (lookupBlocks k x.root (blocks.take j) s x.root 0 0).2
        if up.1 < j then s else insertOne s b k c j x up.2 (blocks.getD j [])) s
    else s) s

/-! ### Memory that Helm writes for a step (R247) -/

/-- Helm of the address's stack writes bytes in this module's memory. -/
def helmPoke (s : State) (a : Dword) (bs : List Byte) : State :=
  destWrite s (destOf s a bs.length (.helm (moduleNo s) (BitVec.ofNat 3 (addrStack a)) false)) bs

/-- Helm reads bytes of this module's memory. -/
def helmPeek (s : State) (a : Dword) (n : Nat) : List Byte :=
  destRead s (destOf s a n (.helm (moduleNo s) (BitVec.ofNat 3 (addrStack a)) false)) n

/-- DRAM offset of an adapter version slot (R282). -/
def vslotBase (s : State) (v : Nat) : Nat :=
  rget s (leadStk s) HLM_ADP_BASE_LO_BASE + rget s (leadStk s) HLM_ADP_BASE_HI_BASE * 2 ^ 32
    + v * rget s (leadStk s) HLM_ADP_CFG_SIZE * 65536

/-- The slot input record of a placed request (Table 10.2). -/
def inRecord (s : State) (c : Nat) (x : Context) (m : Nat) : List Byte :=
  leBytes 1 1 ++ leBytes 1 m ++ leBytes 2 c ++ leBytes 4 x.positions ++ leBytes 8 x.seed.toNat
    ++ leBytes 8 (x.positions + m - 1) ++ leBytes 8 (match x.vslot with
      | some v => vslotBase s v
      | none => 0)
    ++ List.replicate 32 0
    ++ ((List.range 16).map fun i => if i < m then (x.pending.getD i 0).toNat else 0).flatMap (leBytes 4)

/-- The mask bitmap of own query `j` (R207). -/
def maskBytes (t0 span m j : Nat) : List Byte :=
  (List.range (ceilDiv (span + m) 8)).map fun i =>
    BitVec.ofNat 8 ((List.range 8).foldl (fun v n =>
      let c := 8 * i + n
      v + bit ((decide (t0 ≤ c) && decide (c < span)) || (decide (span + j < c) && decide (c < span + m))) * 2 ^ n) 0)

/-- CHT_SLOT_n of a slot in every stack of a berth (R246). -/
def writeSlotMap (s : State) (b n : Nat) (x : Option (Nat × Nat)) : State :=
  (berthStacks s b).foldl (fun s k => setRword s k (0x21000 + 4 * n) (match x with
    | some (c, m) => BitVec.ofNat 32 (c + b * 2 ^ 14 + m * 2 ^ 18 + 2 ^ 31)
    | none => 0)) s

/-- What Helm writes for one slot before a step: the slot map, the input record and the masks. The i-th address of MASKS takes
the mask of own query i mod M (DESIGN CHOICE, notes/assumptions/99.md). -/
def writeSlot (s : State) (b : Nat) (e : SlotEntry) : State :=
  match (berthContexts s b).find? fun q => q.2.slot == some e.slot && !q.2.masked with
  | some (c, x) =>
    let s1 := writeSlotMap s b e.slot (some (c, e.m))
    let s2 := e.inrec.foldl (fun s a => helmPoke s a (inRecord s c x e.m)) s1
    e.masks.zipIdx.foldl (fun s q => helmPoke s q.1 (maskBytes x.positions e.span e.m (q.2 % e.m))) s2
  | none => e.inrec.foldl (fun s a => helmPoke s a (List.replicate 128 0)) (writeSlotMap s b e.slot none)

/-! ### Ending a request -/

/-- A report record of a context. -/
def recordOf (s : State) (c : Nat) (x : Context) (status end_ : Nat) (toks : List Word) (clipped : Bool) : ReportRec where
  reqid := x.reqid
  status := status
  end_ := end_
  flags := bit x.format + 2 * bit clipped + 4 * bit x.rebounded + 8 * bit x.resumed
  toks := toks
  context := c
  berth := x.berth
  cls := x.cls
  positions := x.positions
  delivered := x.delivered
  watch := watchNo s
  adapter := x.adapter
  vslot := x.vslot.getD 0xFFFF

/-- A context ends: it leaves its queue and slot, and is ENDED until its last record is written (R249). -/
def dropContext (s : State) (c : Nat) : State :=
  match ctxAt s c with
  | some x => putCtx (unqueue s c) c (some { x with st := .ended, slot := none })
  | none => s

/-! ### Engines of a berth (R281, R385, R482) -/

/-- An idle engine's start address is written; Helm leaves a running engine as it is (R482). -/
def setStart (t : Tile) (q : Engine × BitVec 9) : Tile :=
  if (engOf t q.1).on then t else setEng (setPc t q.1 q.2) q.1 { engOf t q.1 with pcWritten := true, held := none }

/-- A tile's engines are started at given ring indexes: TIL_ENG_PC written with RUN 0, then RUN set. -/
def startTile (s : State) (r : TileRef) (pcs : List (Engine × BitVec 9)) : State :=
  askStart (changeTile s r fun c t => slotsFrom c.slot0 <| setRunOn (pcs.foldl setStart (setRunOff t))) r.stack.toNat r.tile.toNat

/-- Every engine of a tile is idle. -/
def tileHalted (s : State) (r : TileRef) : Bool :=
  match siteOf s r.stack.toNat r.tile.toNat with
  | some site => (tileAt s r.stack.toNat site).engs.all fun g => !g.on
  | none => true

/-- The tiles' load programs start (R281). -/
def startLoads (s : State) (ps : List TileProgram) : State := ps.foldl (fun s p => startTile s p.tile p.loadPc) s

/-- The tiles' step programs start; their stacks have then run a step since bring-up (R192). -/
def startSteps (s : State) (ps : List TileProgram) : State :=
  ps.foldl (fun s p => startTile s p.tile p.stepPc) { s with rst := { s.rst with
    firstStep := (s.rst.firstStep ++ ps.map fun p => p.tile.stack.toNat).eraseDups } }

/-- Instruction rings of a schedule are written into tile stores. -/
def loadRings (s : State) (ps : List TileProgram) : State :=
  ps.foldl (fun s p => p.rings.foldl (fun s q =>
    changeTile s p.tile fun _ t => swrite t (0x78000 + 0x1000 * engCode q.1)
      ((q.2.take 512).flatMap fun w => leBytes 8 w.toNat)) s) s

/-- Load programs run: each is written into its tile's rings and started (R281, R289; notes/assumptions/24.md). -/
def runLoads (s : State) (ps : List TileProgram) : State := startLoads (loadRings s ps) ps

/-- COUNT and VMAX of a tile's counters 0 to 247 become 0 (R177). -/
def clearCounters (t : Tile) : Tile :=
  (List.range 248).foldl (fun t i =>
    let a := 0x7D000 + 16 * i
    { t with store := memWrite (memWrite t.store a (leBytes 4 0)) (a + 8) (leBytes 2 0) }) t

/-- The waypoint counters of a berth before a replay (R177). -/
def clearBerthCounters (s : State) (b : Nat) : State :=
  let s1 := (berthTiles s b).foldl (fun s r => changeTile s r fun _ t => clearCounters t) s
  let s2 := (berthStacks s b).foldl (fun s k =>
    putCounter s k (32 + b) { helmCounter s k (32 + b) with count := 0, vmax := 0 }) s1
  if hostModule s b = moduleNo s then
    putCounter s2 (leadStk s) b { helmCounter s2 (leadStk s) b with count := 0, vmax := 0 }
  else s2

/-- A tile's reset by order of Helm runs its steps at once: its transfers end ABORTED as after a quiesce that expired, the
reset is asserted and recorded, and the tile is released (R385, R416, R421, R423, notes/assumptions/45.md). -/
def resetThrough (s : State) (r : TileRef) (site : Nat) : State :=
  let late := !(openTags (tileAt s r.stack.toNat site)).isEmpty
  let s1 := if late then rset s 0 BNC_BRST_STATUS_QTIMEOUT else s
  let s2 := assertTile (abortTile s1 r site) (tileBlock r)
  releaseTile (lastBlock s2 (tileBlock r) late) (tileBlock r)

/-- A tile of a berth is reset and released within an abandonment. -/
def resetTileNow (s : State) (r : TileRef) : State :=
  match siteOf s r.stack.toNat r.tile.toNat with
  | none => s
  | some site =>
    if stackOnNow s r.stack.toNat && tilesReleased s r.stack.toNat && (resetOf s (tileBlock r)).isNone then
      resetThrough (changeTile s r fun c t => busyAt (setRunOff t) c.now) r site
    else s

end Sys2Proof.Machine
end

