-- ==== Sys2Proof/Machine/SecurityOps.lean ====
section
/-!
DEFINITION. Lodestar (R452 to R470): life-cycle rows, keys, signatures over images, bundles and manifests, and fuse
commands. Result codes are those of Table 11.6 with the additions of R470.
-/

namespace Sys2Proof.Machine

/-! ### Bytes -/

/-- The number that bytes spell, highest first. -/
def beVal (bs : List Byte) : Nat := leVal bs.reverse

/-- The `n` bytes of `v`, highest first. -/
def beBytes (n v : Nat) : List Byte := (leBytes n v).reverse

/-- A reader of bytes: offset and length. -/
abbrev Reader := Nat → Nat → List Byte

/-- Readers over a byte list and over stored bytes. -/
def listReader (bs : List Byte) : Reader := fun o n => (bs.drop o).take n
def memReader (m : Mem) : Reader := fun o n => memRead m o n

/-- A little-endian field. -/
def rdNat (r : Reader) (o n : Nat) : Nat := leVal (r o n)

/-! ### Signed parts (Tables 11.1 and 11.2, R269) -/

/-- What an image's signature covers: header bytes 0 to 63, then the whole directory. -/
def signedPart (r : Reader) : List Byte := r 0 64 ++ r (rdNat r 40 8) (128 * rdNat r 48 4)

/-- SIG: r, then s. -/
def sigField (r : Reader) : BitVec 768 := BitVec.ofNat 768 (beVal (r 72 96))

/-- A directory entry. -/
structure DirEntry where
  index  : Nat
  module : Nat
  stack  : Nat
  off    : Nat
  len    : Nat
  stage  : Nat
  digest : BitVec 384
deriving DecidableEq, Repr

/-- The directory of an image. -/
def directory (r : Reader) : List DirEntry :=
  (List.range (min 8192 (rdNat r 48 4))).map fun i =>
    let o := rdNat r 40 8 + 128 * i
    ⟨i, rdNat r o 2, rdNat r (o + 2) 1, rdNat r (o + 8) 8, rdNat r (o + 16) 8, rdNat r (o + 24) 8,
      BitVec.ofNat 384 (beVal (r (o + 32) 48))⟩

/-- Whether a directory entry's bytes have its digest. -/
def shardGood (r : Reader) (e : DirEntry) : Bool := decide (Config.sha384 (r e.off e.len) = e.digest)

/-! ### Keys (R458, R459) -/

/-- The bundle that runs and the manifest copy in force. -/
def fwInForce (s : State) : Option (List Byte) := s.lsr.running
def mfNow (s : State) : Option (List Byte) := s.lsr.mfInForce.bind (mfCopy s)

/-- FWKEY of a bundle. -/
def fwKey (bs : List Byte) : BitVec 768 := BitVec.ofNat 768 (beVal ((bs.drop 168).take 96))

/-- Whether a FWKEY is Calarnoa's (CALHASH). -/
def keyGenuine (s : State) (bs : List Byte) : Bool :=
  decide (Config.sha384 ((bs.drop 168).take 96) = s.lsr.fuses.calhash)

/-- OWNERPUB and the key of KEYID in a manifest (Table 20.4). -/
def ownerPub (m : List Byte) : BitVec 768 := BitVec.ofNat 768 (beVal ((m.drop 64).take 96))
def manifestSize (m : List Byte) : Nat := leVal ((m.drop 8).take 2)
def manifestKey (m : List Byte) (id : Nat) : Option (BitVec 768) :=
  ((List.range (min 16 (manifestSize m))).find? fun i => leVal ((m.drop (160 + 104 * i)).take 8) == id).map fun i =>
    BitVec.ofNat 768 (beVal ((m.drop (168 + 104 * i)).take 96))

/-- Whether bytes have a manifest's form. -/
def manifestShape (m : List Byte) : Bool :=
  decide (leVal (m.take 4) = 0x4B4D4631) && decide (1 ≤ manifestSize m) && decide (manifestSize m ≤ 16)

/-- Whether bytes are a valid manifest; while a clearing has failed, nothing verifies (R460). -/
def manifestValid (s : State) (m : List Byte) : Bool :=
  manifestShape m && !s.lsr.zlock && decide (Config.sha384 ((m.drop 64).take 96) = s.lsr.fuses.ownerhash)
    && Config.ecdsaVerify (ownerPub m) (Config.sha384 (m.take (160 + 104 * manifestSize m)))
      (BitVec.ofNat 768 (beVal ((m.drop (160 + 104 * manifestSize m)).take 96)))

/-- SEQ of a manifest. -/
def manifestSeq (m : List Byte) : Word := BitVec.ofNat 32 (leVal ((m.drop 4).take 4))

/-- The key that KEYID names (R454, R458, R459, R467): none when every check fails. -/
def keyFor (s : State) (id : Nat) : Option (BitVec 768) :=
  if s.lsr.zlock || s.lsr.testmode || decide (lcState s.lsr.fuses = 4) then none
  else if id = 0 then (fwInForce s).map fwKey
  else if lcState s.lsr.fuses = 0 then none
  else (mfNow s).bind fun m => manifestKey m id

/-- A signature check, counted (LSR_VERIFIES, LSR_SIGFAIL). -/
def countVerify (s : State) (good : Bool) : State :=
  let s1 := rbump s 0 LSR_VERIFIES
  if good then s1 else rbump s1 0 LSR_SIGFAIL

/-- Whether an image's signature verifies (R269). -/
def signatureGood (s : State) (r : Reader) : Bool :=
  match keyFor s (rdNat r 64 8) with
  | some key => Config.ecdsaVerify key (Config.sha384 (signedPart r)) (sigField r)
  | none => false

/-! ### Firmware (R461) -/

/-- Header and directory of a firmware bundle. -/
def bundleShape (r : Reader) : Bool :=
  decide (rdNat r 0 4 = 0x494D4731) && decide (rdNat r 4 2 = 1) && decide (rdNat r 6 1 = 3) && decide (rdNat r 8 2 = 0)
    && decide (rdNat r 10 2 = 0xFFFF) && decide (rdNat r 20 2 = 1) && decide (rdNat r 24 1 = 0)
    && decide (rdNat r 64 8 = 0) && decide (rdNat r 48 4 = 3) && decide (rdNat r 40 8 % 4096 = 0)
    && decide (rdNat r 264 3832 = 0)
    && (directory r).all (fun e => decide (e.module = 0)) && [0, 1, 2].all fun c => (directory r).any fun e => e.stack == c

/-- Result code of a bundle's checks: 1 OK, 3 FORMAT, 8 SIGNATURE, 9 DIGEST, 19 SVN. -/
def bundleCode (s : State) (bs : List Byte) : Nat :=
  let r := listReader bs
  if !bundleShape r then 3
  else if s.lsr.zlock || !keyGenuine s bs
      || !Config.ecdsaVerify (fwKey bs) (Config.sha384 (signedPart r)) (sigField r) then 8
  else if !(directory r).all (shardGood r) then 9
  else if bundleVersion bs < s.lsr.fuses.minsvn then 19
  else 1

/-- Whether a firmware copy passes at bring-up. -/
def copyPasses (s : State) (b : Bool) : Bool :=
  match fwCopy s b with
  | some bs => bundleCode s bs == 1
  | none => false

/-- The valid manifest copy with the later SEQ (R459). -/
def chooseManifest (s : State) : Option Bool :=
  match s.lsr.mfA.filter (manifestValid s), s.lsr.mfB.filter (manifestValid s) with
  | some a, some b => some (laterWatch (manifestSeq b) (manifestSeq a))
  | some _, none => some false
  | none, some _ => some true
  | none, none => none

/-- The check of a firmware copy at bring-up is counted; one without a bundle's form is not verified. -/
def countCopy (s : State) (b : Bool) : State :=
  match fwCopy s b with
  | some bs => if bundleShape (listReader bs) then countVerify s (decide (bundleCode s bs ≠ 8)) else s
  | none => s

/-- The check of a manifest copy is counted. -/
def countManifest (s : State) (m : Option (List Byte)) : State :=
  match m with
  | some bs => if manifestShape bs then countVerify s (manifestValid s bs) else s
  | none => s

/-- Firmware and manifest chosen at bring-up step 1 (R459, R461, R462): the preferred firmware copy is checked, and the other
when it fails. -/
def chooseCopies (s : State) : State :=
  let first := copyPasses s s.lsr.preferB
  let pick := if first then some s.lsr.preferB
    else if copyPasses s (!s.lsr.preferB) then some (!s.lsr.preferB) else none
  let mf := chooseManifest s
  let s0 := countCopy s s.lsr.preferB
  let s1 := countManifest (countManifest (if first then s0 else countCopy s0 (!s.lsr.preferB)) s.lsr.mfA) s.lsr.mfB
  let s2 := rput { s1 with lsr := { s1.lsr with mfInForce := mf } } 0 LSR_STATUS_MFVALID (bit mf.isSome)
  match pick with
  | some b => runFirmware s2 b
  | none => rset { s2 with lsr := { s2.lsr with inForceB := none, running := none, fresh := false } } 0 LSR_STATUS_RECOVERY

/-! ### Actions -/

/-- The result of a Lodestar action (LSR_STATUS.CODE). -/
def lsrResult (s : State) (code : Nat) : State := rput s 0 LSR_STATUS_CODE code

/-- The secret set cleared, and the action's result: OK, or ZFAIL where the clearing failed (R460). -/
def clearResult (s : State) : State :=
  let s1 := clearSecrets s
  lsrResult s1 (if s1.lsr.zlock then 20 else 1)

/-- Words `0` to `n − 1` of LSR_STAGE as bytes. -/
def stageBytes (s : State) (n : Nat) : List Byte :=
  (List.range n).flatMap fun i => leBytes 4 (rget s 0 LSR_STAGE_DATA i)

/-- The nonce's 32 bytes. -/
def nonceBytes (s : State) : List Byte := (List.range 8).flatMap fun i => leBytes 4 (rget s 0 LSR_NONCE_NONCE i)

/-- A life-cycle row is blown: every bit. -/
def blowRow (s : State) (n : Nat) : State :=
  { s with lsr := { s.lsr with fuses := { s.lsr.fuses with lcRows := s.lsr.fuses.lcRows.set (n - 1) 0xFFFFFFFF } } }

/-- Whether any berth is enabled or disabling. -/
def berthsLive (s : State) : Bool := (List.range 16).any fun b => berthState s b == 1 || berthState s b == 2

/-- Whether the staged owner token allows a transition to state `to_` (R456). -/
def tokenGood (s : State) (to_ : Nat) : Bool :=
  match mfNow s with
  | some m => !s.lsr.zlock && Config.ecdsaVerify (ownerPub m)
      (Config.sha384 (leBytes 8 s.lsr.fuses.serial.toNat ++ nonceBytes s ++ leBytes 1 (lcCount s.lsr.fuses) ++ leBytes 1 to_))
      (BitVec.ofNat 768 (beVal (stageBytes s 24)))
  | none => false

/-- A P-384 scalar drawn from the TRNG. -/
def drawScalar (s : State) : State × BitVec 384 :=
  let ws := (List.range 12).map fun i => Config.trng (s.lsr.drawn + i)
  ({ s with lsr := { s.lsr with drawn := s.lsr.drawn + 12, pool := ws } },
    BitVec.ofNat 384 (leVal (ws.flatMap fun w => leBytes 4 w.toNat)))

/-- Decommissioning: DECOM blown, every DIK bit programmed. -/
def decommission (s : State) : State :=
  { s with lsr := { s.lsr with fuses := { s.lsr.fuses with decom := 0xFFFFFFFF, dik := BitVec.allOnes 384 } } }

/-- Secrets are cleared before the row of `f` is programmed; a clearing that fails ends the command with ZFAIL (R455,
R460). -/
def clearThen (s : State) (f : State → State) : State × Nat :=
  let s1 := clearSecrets s
  if s1.lsr.zlock then (s1, 20) else (f s1, 1)

/-- The transition of LIFECYCLE_ADVANCE (Table 20.3, R455): the machine and the result code. -/
def advanceLife (s : State) (to_ : Nat) : State × Nat :=
  let from_ := lcState s.lsr.fuses
  let n := lcCount s.lsr.fuses
  if s.lsr.zlock then (s, 20)
  else if (to_ = 3 ∨ to_ = 4) ∧ berthsLive s then (s, 16)
  else if to_ = 2 ∧ s.lsr.testmode then (s, 16)
  else if from_ = 0 ∧ to_ = 1 then
    let q := drawScalar s
    let owner := BitVec.ofNat 384 (beVal (stageBytes s 12))
    let u := q.1.lsr.fuses
    (blowRow { q.1 with lsr := { q.1.lsr with fuses := { u with dik := u.dik ||| q.2, ownerhash := u.ownerhash ||| owner } } } 1, 1)
  else if from_ = 1 ∧ to_ = 2 then (blowRow s 2, 1)
  else if from_ = 1 ∧ to_ = 3 then clearThen s fun s => blowRow s 3
  else if from_ = 2 ∧ to_ = 3 ∧ (n = 2 ∨ n = 4 ∨ n = 6) then
    let good := tokenGood s 3
    let s1 := countVerify s good
    if good then clearThen s1 (fun s => blowRow s (n + 1)) else (s1, 8)
  else if from_ = 3 ∧ to_ = 2 ∧ (n = 3 ∨ n = 5) then (blowRow s (n + 1), 1)
  else if to_ = 4 ∧ (from_ = 0 ∨ from_ = 1 ∨ from_ = 3) then clearThen s decommission
  else if to_ = 4 ∧ from_ = 2 then
    let good := tokenGood s 4
    let s1 := countVerify s good
    if good then clearThen s1 decommission else (s1, 8)
  else (s, 16)

/-- FUSE_PROGRAM of a repair record (R460, R469). -/
def programRepair (s : State) (idx : Nat) (w : Word) : State × Nat :=
  let u := s.lsr.fuses
  if s.lsr.zlock then (s, 20)
  else if lcState u ≠ 0 ∧ lcState u ≠ 3 then (s, 16)
  else if 2048 ≤ idx ∨ mapGet (fun _ => (0 : Word)) u.repair idx ≠ 0 then (s, 18)
  else if popBits w % 2 = 0 then (s, 3)
  else ({ s with lsr := { s.lsr with fuses := { u with repair := mapSet (fun _ => (0 : Word)) u.repair idx w } } }, 1)

/-- FUSE_PROGRAM of MINSVN (R460, R464). -/
def programSvn (s : State) (v : Nat) : State × Nat :=
  let u := s.lsr.fuses
  if s.lsr.zlock then (s, 20)
  else if lcState u = 4 then (s, 16)
  else if v < u.minsvn ∨ bundleVersion ((fwInForce s).getD []) < v ∨ 64 < v then (s, 19)
  else ({ s with lsr := { s.lsr with fuses := { u with minsvn := v } } }, 1)

/-- The attestation report's bytes 0 to 367 (Table 20.6). -/
def reportBody (s : State) : List Byte :=
  let u := s.lsr.fuses
  let digests := (List.range 16).flatMap fun b => match (if berthState s b = 1 ∨ berthState s b = 2 then (berthOf s b).image else none) with
    | some im => beBytes 48 im.digest.toNat
    | none => List.replicate 48 0
  leBytes 4 0x4C535231 ++ leBytes 1 (lcState u) ++ leBytes 1 (lcCount u)
    ++ leBytes 2 (rget s 0 LSR_STATUS_RECOVERY + 2 * rget s 0 LSR_STATUS_MFVALID + 4 * rget s 0 LSR_STATUS_FWCOPY)
    ++ leBytes 8 u.serial.toNat ++ stageBytes s 8
    ++ (match fwInForce s with
      | some f => beBytes 48 (Config.sha384 (signedPart (listReader f))).toNat
      | none => List.replicate 48 0)
    ++ (match mfNow s with
      | some m => beBytes 48 (Config.sha384 m).toNat
      | none => List.replicate 48 0)
    ++ beBytes 48 (Config.sha384 digests).toNat
    ++ ((List.range 16).flatMap fun b => leBytes 4 (rget s (leadStk s) HLM_BVER_VERSION b))
    ++ leBytes 8 s.tick ++ leBytes 4 u.minsvn ++ List.replicate 100 0

/-- ATTEST (R465): the signed report, after which the secret set is cleared. -/
def attest (s : State) : State :=
  let s0 := rput s 0 LSR_STATUS_RPTDONE 0
  let st := lcState s.lsr.fuses
  if s.lsr.zlock then lsrResult s0 20
  else if st = 0 ∨ st = 4 ∨ s.lsr.testmode then lsrResult s0 16
  else
    let body := reportBody s0
    let digest := Config.sha384 body
    let sig := Config.ecdsaSign s.lsr.fuses.dik digest
    let words := wordsOf (body ++ beBytes 96 sig.toNat)
    let s1 := putWords { s0 with lsr := { s0.lsr with dikCopy := s0.lsr.fuses.dik, work := beBytes 48 digest.toNat } } 0x141000
      (words.map fun w => BitVec.ofNat 32 w)
    clearResult (rbump (rset s1 0 LSR_STATUS_RPTDONE) 0 LSR_ATTESTS)

/-- TESTREQ (R467). -/
def testRequest (s : State) : State :=
  let st := lcState s.lsr.fuses
  if s.lsr.zlock then lsrResult s 20
  else if (st = 0 ∨ st = 3) ∧ !berthsLive s then
    let s1 := clearResult s
    { s1 with lsr := { s1.lsr with testmode := s1.lsr.testmode || !s1.lsr.zlock } }
  else lsrResult s 16

/-- Whether what Lodestar writes to NOR reads back, at the first or the second writing (R198, R459): the manual gives no
cause of a failure, so a free word decides. -/
def norHolds (s : State) : Bool := bitsOf (Config.freeWord s.free).toNat 0 2 != 0

/-- The machine after a readback, which used a free word. -/
def afterNor (s : State) : State := { s with free := s.free + 1 }

/-- The result of a load whose copy does not read back: the manual names none (notes/assumptions/112.md). -/
def norFailed (s : State) : State :=
  lsrResult { s with free := s.free + 1 } ((Config.freeWord s.free).toNat % 256)

/-- A manifest copy is written, and valid only if it reads back. -/
def writeManifest (s : State) (b : Bool) (bs : Option (List Byte)) : State :=
  { s with lsr := { s.lsr with
    mfA := if b then s.lsr.mfA else bs
    mfB := if b then bs else s.lsr.mfB } }

/-- A firmware copy is written. -/
def writeFirmware (s : State) (b : Bool) (bs : Option (List Byte)) : State :=
  { s with lsr := { s.lsr with
    fwA := if b then s.lsr.fwA else bs
    fwB := if b then bs else s.lsr.fwB } }

/-- MF_LOAD of bytes read from the companion (R459): the copy not in force is written, read back, and comes into force. -/
def loadManifest (s : State) (bs : List Byte) : State :=
  let good := manifestValid s bs
  let s1 := if manifestShape bs then countVerify s good else s
  let later := match mfNow s with
    | some m => laterWatch (manifestSeq bs) (manifestSeq m)
    | none => true
  let b := match s.lsr.mfInForce with
    | some x => !x
    | none => false
  if s.lsr.zlock then lsrResult s 20
  else if !good || !later then lsrResult s1 8
  else if norHolds s1 then
    let s2 := writeManifest (afterNor s1) b (some bs)
    lsrResult (rset { s2 with lsr := { s2.lsr with mfInForce := some b } } 0 LSR_STATUS_MFVALID) 1
  else norFailed (writeManifest (afterNor s1) b none)

/-- FW_LOAD of a bundle read from the companion (R463): the copy that is not preferred is written, read back, and preferred. -/
def loadFirmware (s : State) (bs : List Byte) : State :=
  let c := bundleCode s bs
  let s1 := if bundleShape (listReader bs) then countVerify s (decide (c ≠ 8)) else s
  let b := !s.lsr.preferB
  if s.lsr.zlock then lsrResult s 20
  else if c ≠ 1 then lsrResult s1 c
  else if norHolds s1 then
    let s2 := writeFirmware (afterNor s1) b (some bs)
    lsrResult { s2 with lsr := { s2.lsr with preferB := b, fresh := true } } 1
  else norFailed (writeFirmware (afterNor s1) b none)

/-- ZEROISE (R460). -/
def zeroise (s : State) : State := if s.lsr.zlock then lsrResult s 20 else clearResult s

/-- One action at a time (R470): an action written while BUSY is 1 is ignored. -/
def lsrAction (s : State) (f : State → State) : State :=
  if islandUp s && !ron s 0 LSR_STATUS_BUSY then f s else s

/-- Lodestar's reads of a source: an RDU for each 256 B unit that LSR_SRCLEN bytes from LSR_SRC touch (R459). -/
def readSource (s : State) : State :=
  let a := rget s 0 LSR_SRC_LO_ADDR + rget s 0 LSR_SRC_HI_ADDR * 2 ^ 32
  let e := a + rget s 0 LSR_SRCLEN_LEN
  (List.range (ceilDiv e 256 - a / 256)).foldl (fun s i =>
    let x := max (a / 64 * 64) (256 * (a / 256 + i))
    let y := min e (256 * (a / 256 + i + 1))
    request s (halfOf x) 0x02 x (ceilDiv (y - x) 64) 0 [] .load) s

/-- A write of LSR_CTL starts a load: Lodestar reads LSR_SRCLEN bytes from the companion, and is busy until they have
come (R459, R463). -/
def startLoad (s : State) (fw : Bool) : State :=
  let s1 := readSource s
  { rset s1 0 LSR_STATUS_BUSY with lsr := { s1.lsr with loading := some fw } }

/-- The bytes of a load have come: the load that was started, or one that starts with them. -/
def loadBytes (s : State) (fw : Bool) (f : State → State) : State :=
  let ended := fun (s : State) => f { rput s 0 LSR_STATUS_BUSY 0 with lsr := { s.lsr with loading := none } }
  if s.lsr.loading = some fw then ended s else lsrAction s fun s => ended (startLoad s fw)

end Sys2Proof.Machine
end

