-- ==== Sys2Proof/Machine/ImageOps.lean ====
section
/-!
DEFINITION. The image store of module NAND (R273 to R275), images and shards (R268 to R272), staging and loading
(R277 to R281), adapter versions (R282, R283) and the arming of a replacement (R284).
-/

namespace Sys2Proof.Machine

/-! ### The catalogue -/

/-- An image name: KIND, MODEL, ADAPTER (R273). -/
abbrev ImgName := Nat × Nat × Nat

/-- STATE as a catalogue record codes it. -/
def slotCode : SlotState → Nat
  | .empty => 0
  | .incomplete => 1
  | .verified => 2
  | .active => 3

/-- CRC-32C of a catalogue record's fields, in the order of R274 (notes/assumptions/85.md). -/
def recordCrc (r : CatRec) : Word :=
  crc32c (leBytes 1 r.name.1 ++ leBytes 2 r.name.2.1 ++ leBytes 2 r.name.2.2 ++ leBytes 1 r.slot ++ leBytes 1 (slotCode r.st)
    ++ leBytes 2 r.modidx ++ leBytes 8 r.length ++ leBytes 8 r.start ++ leBytes 4 r.seq)

/-- Of two catalogue records the one with the higher sequence number. -/
def newerRec (a : Option CatRec) (r : CatRec) : Option CatRec :=
  match a with
  | some x => if x.seq < r.seq then some r else some x
  | none => some r

/-- The catalogue record in force of a slot: of those whose CRC matches the one with the highest sequence number (R274). -/
def catOf (s : State) (n : ImgName) (slot : Nat) : Option CatRec :=
  (s.img.catalogue.filter fun r => r.name == n && r.slot == slot && r.crc == recordCrc r).foldl newerRec none

/-- The catalogue records in force. -/
def catsOf (s : State) : List CatRec :=
  ((s.img.catalogue.map fun r => (r.name, r.slot)).eraseDups).filterMap fun q => catOf s q.1 q.2

/-- The state of a slot. -/
def slotState (s : State) (n : ImgName) (slot : Nat) : SlotState :=
  match catOf s n slot with
  | some r => r.st
  | none => .empty

/-- The sequence number of the next catalogue record, 32 bits wide. -/
def nextSeqNo (s : State) : Nat := s.img.catalogue.foldl (fun m x => max m (x.seq + 1)) 0 % 2 ^ 32

/-- The record as it is written: the next sequence number, and its CRC. -/
def sealRec (s : State) (r : CatRec) : CatRec :=
  { r with seq := nextSeqNo s, crc := recordCrc { r with seq := nextSeqNo s } }

/-- A catalogue record is written; the records before it stay (R274). -/
def putCat (s : State) (r : CatRec) : State :=
  { s with img := { s.img with catalogue := s.img.catalogue ++ [sealRec s r] } }

/-- The content of a slot, and the image store with it replaced. -/
def slotData (s : State) (n : ImgName) (slot : Nat) : Option SlotData :=
  (s.img.data.find? fun q => q.1 == n && q.2.1 == slot).map fun q => q.2.2
def putSlotData (s : State) (n : ImgName) (slot : Nat) (d : Option SlotData) : State :=
  let rest := s.img.data.filter fun q => !(q.1 == n && q.2.1 == slot)
  { s with img := { s.img with data := (match d with
    | some x => rest ++ [(n, slot, x)]
    | none => rest) } }

/-- The slot that SLOT names: A, B, or with 2 the ACTIVE one (Table 11.5). -/
def resolveSlot (s : State) (n : ImgName) (v : Nat) : Option Nat :=
  if v < 2 then some v
  else if v = 2 then [0, 1].find? fun i => slotState s n i == .active
  else none

/-- Whether a slot may be loaded. -/
def slotUsable (s : State) (n : ImgName) (slot : Nat) : Bool :=
  slotState s n slot == .verified || slotState s n slot == .active

/-- A slot becomes ACTIVE; the other of its name VERIFIED if it was ACTIVE (R273). -/
def activateSlot (s : State) (n : ImgName) (slot : Nat) : State :=
  let s1 := match catOf s n (1 - slot) with
    | some r => if r.st = .active then putCat s { r with st := .verified } else s
    | none => s
  match catOf s1 n slot with
  | some r => putCat s1 { r with st := .active }
  | none => s1

/-! ### Form of an image (R268, R270, R271) -/

/-- The entries of a directory that serve a module. -/
def shardsOf (r : Reader) (m : Nat) : List DirEntry := (directory r).filter fun e => e.module == m

/-- A section: kind, offset in the image, and length. -/
def sections (r : Reader) (e : DirEntry) : List (Nat × Nat × Nat) :=
  (List.range (rdNat r (e.off + 4) 2)).map fun i =>
    let o := e.off + 64 + 32 * i
    (rdNat r o 1, e.off + rdNat r (o + 8) 8, rdNat r (o + 16) 8)

/-- Whether a shard's section kinds are those of its image: a model image has one each of kinds 1 to 4, and of kinds 5 to 7
with XING; an adapter image has only kinds 3 and 4 (R271). -/
def kindsFit (kind xing : Nat) (l : List Nat) : Bool :=
  if kind = 2 then l.all fun n => n == 3 || n == 4
  else decide (sortBy (fun (a b : Nat) => decide (a ≤ b)) l = if xing = 1 then [1, 2, 3, 4, 5, 6, 7] else [1, 2, 3, 4])

/-- Whether the bytes that R271 gives as 0 in a shard's header and section entries are 0. -/
def shardZeros (r : Reader) (e : DirEntry) : Bool :=
  decide (rdNat r (e.off + 6) 58 = 0) && (List.range (rdNat r (e.off + 4) 2)).all fun i =>
    decide (rdNat r (e.off + 64 + 32 * i + 1) 7 = 0) && decide (rdNat r (e.off + 64 + 32 * i + 24) 8 = 0)

/-- Whether a shard has its header and exactly its sections. -/
def shardShape (r : Reader) (e : DirEntry) : Bool :=
  decide (rdNat r e.off 4 = 0x53484431) && shardZeros r e
    && kindsFit (rdNat r 6 1) (rdNat r 7 1) ((sections r e).map fun q => q.1)
    && (sections r e).all fun q => decide ((q.2.1 - e.off) % 32 = 0)

/-- Whether header and directory have the form of R268 and R270. -/
def imageShape (r : Reader) : Bool :=
  let kind := rdNat r 6 1
  let xing := rdNat r 7 1
  let mods := rdNat r 20 2
  let mask := rdNat r 24 1
  let ks := (List.range 8).filter fun k => bitOf mask k
  let want := (List.range mods).flatMap fun m => ks.map fun k => (m, k)
  decide (rdNat r 0 4 = 0x494D4731) && decide (rdNat r 4 2 = 1) && (decide (kind = 1) || decide (kind = 2))
    && decide (xing ≤ 1) && decide (1 ≤ rdNat r 12 4)
    && (if kind = 1 then decide (rdNat r 10 2 = 0xFFFF) else decide (rdNat r 10 2 ≤ 4095))
    && (decide (xing = 1) || decide (rdNat r 16 4 = 0)) && decide (1 ≤ mods) && decide (mods ≤ 1024)
    && decide (rdNat r 40 8 % 4096 = 0) && decide (rdNat r 48 4 = want.length) && decide (want.length ≤ 8192)
    && want.all (fun w => (directory r).any fun e => e.module == w.1 && e.stack == w.2)
    && (directory r).all fun e => decide (e.off % 4096 = 0)

/-- The 4 KiB indexes that some bytes lie in, each with how many of its bytes, from its first, they reach. -/
def spanNeeds (o n : Nat) : List (Nat × Nat) :=
  (List.range (ceilDiv (o % 4096 + n) 4096)).map fun i =>
    (o / 4096 + i, min 4096 (o + n - 4096 * (o / 4096 + i)))

/-- What a slot of module `m` stores: header, directory and own shards (R275). -/
def storedNeeds (r : Reader) (m : Nat) : List (Nat × Nat) :=
  (0, 4096) :: spanNeeds (rdNat r 40 8) (128 * min 8192 (rdNat r 48 4))
    ++ (shardsOf r m).flatMap fun e => spanNeeds e.off e.len

/-- Their 4 KiB indexes. -/
def storedIndexes (r : Reader) (m : Nat) : List Nat := (storedNeeds r m).map fun q => q.1

/-- The first 4 KiB index that holds a stored byte which no chunk has covered. -/
def firstUncovered (d : SlotData) (needs : List (Nat × Nat)) : Option Nat :=
  (needs.filter fun q => decide (mapGet (fun _ => 0) d.covered q.1 < q.2)).foldl (fun a q =>
    match a with
    | some x => some (min x q.1)
    | none => some q.1) none

/-- A chunk of `n` bytes at a 4 KiB-aligned offset covers them. -/
def coverChunk (d : SlotData) (off n : Nat) : SlotData :=
  { d with covered := (spanNeeds off n).foldl (fun m q =>
    mapSet (fun _ => 0) m q.1 (max q.2 (mapGet (fun _ => 0) m q.1))) d.covered }

/-! ### Checks -/

/-- The module count and number that image checks use: 1 and 0 outside a fleet and in harbour mode (R277). -/
def checkCount (s : State) : Nat := if fleetMode s && ron s 0 FLT_MOD_VALID then moduleCount s else 1
def checkNumber (s : State) : Nat := if fleetMode s && ron s 0 FLT_MOD_VALID then (moduleNo s).toNat else 0

/-- The fleet revision (R335): the lowest NEGREV of the UP ports, or REVMAX. -/
def fleetRev (s : State) : Nat :=
  ((List.range 16).filter fun p => pget s p FLT_PORT_STATE == 4).foldl (fun m p => min m (pget s p FLT_PORT_NEGREV))
    (rget s 0 FLT_REV_REVMAX)

/-- Bytes of an image area, and where area `h` of a berth lies (R279). -/
def areaSize (s : State) : Nat := rget s (leadStk s) HLM_IMG_AREASZ_AREASZ * 2 ^ 26
def areaBase (s : State) (b h : Nat) : Nat :=
  rget s (leadStk s) HLM_IMG_AREA_LO_BASE + rget s (leadStk s) HLM_IMG_AREA_HI_BASE * 2 ^ 32 + (2 * b + h) * areaSize s

/-- Whether a DRAM range overlaps the chart area of any of some stacks (R292). -/
def overlapsChart (s : State) (ks : List Nat) (off n : Nat) : Bool := ks.any fun k => inChart s k off n

/-- An image with its schedules and load programs decoded. -/
structure Decoded where
  steady    : Schedule
  crossA    : Option Schedule
  crossB    : Option Schedule
  load      : List TileProgram
  crossLoad : List TileProgram

/-- Schedules of several shards as one. -/
def joinSchedules : List Schedule → Option Schedule
  | [] => none
  | x :: r => some (r.foldl (fun a b => { a with
      tiles := a.tiles ++ b.tiles
      plans := a.plans ++ b.plans
      streams := a.streams ++ b.streams
      minRev := max a.minRev b.minRev
      ports := a.ports ++ b.ports.filter fun p => !a.ports.contains p }) x)

/-- The bytes of the sections of a kind in a module's shards. -/
def sectionBytes (r : Reader) (m kind : Nat) : List (List Byte) :=
  (shardsOf r m).flatMap fun e => ((sections r e).filter fun q => q.1 == kind).map fun q => r q.2.1 q.2.2

/-- The schedule of a kind: none when a section does not decode. -/
def scheduleIn (r : Reader) (m kind : Nat) : Option Schedule :=
  let l := (sectionBytes r m kind).map Config.decodeSchedule
  if l.any fun x => x.isNone then none else joinSchedules (l.filterMap id)

/-- The load program of a kind. -/
def programIn (r : Reader) (m kind : Nat) : List TileProgram :=
  (sectionBytes r m kind).flatMap fun b => (Config.decodeLoadProgram b).getD []

/-- What the image says. -/
def decodeImage (r : Reader) (m : Nat) : Option Decoded :=
  (scheduleIn r m 1).map fun x =>
    ⟨x, scheduleIn r m 5, scheduleIn r m 6, programIn r m 2, programIn r m 7⟩

/-- The spare logical tiles of a stack that are mapped and that no berth other than `b` has reserved (R278). -/
def freeSpares (s : State) (b k : Nat) : List Nat :=
  (List.range (480 - Config.tilesPerStack)).filterMap fun i =>
    let l := Config.tilesPerStack + i
    if (siteOf s k l).isSome && !(List.range 16).any (fun x => x != b && (berthOf s x).spares.contains (k, l)) then some l
    else none

/-- The spares that a schedule reserves: none when a stack holds too few. -/
def takeSpares (s : State) (b : Nat) (ps : List StackPlan) : Option (List (Nat × Nat)) :=
  if ps.any fun p => (freeSpares s b p.stack.toNat).length < p.spares then none
  else some (ps.flatMap fun p => ((freeSpares s b p.stack.toNat).take p.spares).map fun l => (p.stack.toNat, l))

/-! ### Staging (R279) -/

/-- A stack writes its shard into its DRAM. -/
def stageShard (s : State) (r : Reader) (e : DirEntry) (at_ : Nat) : State := dwrite s e.stack at_ (r e.off e.len)

/-- Each stack stages its own shard; the first directory index whose digest does not match, if any. -/
def stageAll (s : State) (r : Reader) (m at_ : Nat) : State × Option Nat :=
  let l := shardsOf r m
  (l.foldl (fun s e => stageShard s r e at_) s, (l.find? fun e => !shardGood r e).map fun e => e.index)

/-- Where the BANKS section of a stack's shard begins, in the image. -/
def banksOff (r : Reader) (m k : Nat) : Nat :=
  match (shardsOf r m).find? fun e => e.stack == k with
  | some e => match (sections r e).find? fun q => q.1 == 3 with
    | some q => q.2.1
    | none => 0
  | none => 0

/-- Whether a stream-table entry fails (R280). -/
def streamFails (r : Reader) (m : Nat) (l : List StreamEntry) (x : StreamEntry) : Bool :=
  let hdr := rdNat r (banksOff r m x.tile.stack.toNat + x.off) 32
  let sum := (l.filter fun y => y.group == x.group && y.tile.stack == x.tile.stack).foldl (fun (n : Nat) y => n + y.share) 0
  decide (x.beats ≠ bankBeats (bitsOf hdr 0 4) (bitOf hdr 4))
    || decide ((x.window - 2) * 5 * x.share < x.beats * 192000) || decide (2048000 < sum)

/-- The first failing entry of a schedule's stream table. -/
def streamFault (r : Reader) (m : Nat) (x : Schedule) : Option Nat := x.streams.findIdx? (streamFails r m x.streams)

/-- The checks of an image against the module (R277): 12 MISMATCH. -/
def moduleMatches (s : State) (r : Reader) (modidx : Nat) : Bool :=
  decide (rdNat r 20 2 = checkCount s) && decide (modidx = checkNumber s)

/-! ### Loading a berth -/

/-- A result: the machine, CODE and DETAIL (Table 11.5). -/
abbrev ImgDone := State × Nat × Nat

/-- The signature check of an image command (R269), counted. -/
def checkImage (s : State) (r : Reader) : State × Bool :=
  let good := signatureGood s r
  let s1 := countVerify s good
  (if good then s1 else rbump s1 (leadStk s1) HLM_SIGFAIL, good)

/-- The stacks of an image. -/
def imageStacks (r : Reader) (m : Nat) : List Nat := (shardsOf r m).map fun e => e.stack

/-- Signature, form and space: the machine, the decoded image, or a code and detail (R277, R279 step 1). -/
def checkModel (s : State) (r : Reader) (m b h : Nat) : State × Except (Nat × Nat) Decoded :=
  let c := checkImage s r
  if !c.2 then (c.1, .error (8, 0))
  else if !imageShape r || !(shardsOf r m).all (shardShape r) then (c.1, .error (3, 0))
  else match decodeImage r m with
    | none => (c.1, .error (3, 0))
    | some d =>
      if (areaSize s = 0) ∨ (directory r).any (fun e => areaSize s < e.stage)
          ∨ overlapsChart s (imageStacks r m) (areaBase s b h) (areaSize s) then (c.1, .error (11, 0))
      else (c.1, .ok d)

/-- The first failing stream-table entry of an image's schedules (R279 step 4). -/
def streamFaults (r : Reader) (m : Nat) (d : Decoded) : Option Nat :=
  ([some d.steady, d.crossA, d.crossB].filterMap id).findSome? (streamFault r m)

/-- Staging into area `h` of a berth and the checks that follow it: the machine, and a code and detail where one fails
(R279 steps 2 to 4). -/
def stageModel (s : State) (r : Reader) (m b h : Nat) (d : Decoded) : State × Option (Nat × Nat) :=
  let q := stageAll s r m (areaBase s b h)
  match q.2, streamFaults r m d with
  | some i, _ => (rbump q.1 (leadStk q.1) HLM_DIGFAIL, some (9, i))
  | none, some i => (rbump q.1 (leadStk q.1) HLM_STREAMREF, some (13, i))
  | none, none => (q.1, none)

/-- The image of a slot, decoded, in area `h`. -/
def imageIn (n : ImgName) (slot h : Nat) (r : Reader) (d : Decoded) : BerthImage :=
  ⟨n, slot, rdNat r 12 4, h, d.steady, d.crossA, d.crossB, d.load, d.crossLoad, Config.sha384 (signedPart r)⟩

/-- A counter of Helm expects `e` arrivals; `fresh`: its count begins anew. -/
def expectCounter (fresh : Bool) (s : State) (k i e : Nat) : State :=
  putCounter s k i (if fresh then ⟨0, e, 0⟩ else { helmCounter s k i with expect := e })

/-- EXPECT of a berth's counters (R349): its stacks' commit counters, and its commit waypoint in the host module. -/
def setExpects (s : State) (b : Nat) (x : Schedule) (fresh : Bool) : State :=
  let s1 := x.plans.foldl (fun s p => expectCounter fresh s p.stack.toNat (32 + b) p.commits) s
  if lowestOf s1 x.modules = moduleNo s1 then expectCounter fresh s1 (leadStk s1) b (max 1 x.modules.length) else s1

/-- The dog-slot positions of a schedule come into force in its stacks at the next watch (SXT_DOG, SXT_DOGPER). -/
def writeDogs (s : State) (x : Schedule) : State :=
  x.plans.foldl (fun s p => setRword (setRword s p.stack.toNat 0x10018 x.dog) p.stack.toNat 0x1001C x.dogper) s

/-- The layer widths of a schedule (CHT_LFMT_n, R222). -/
def writeWidths (s : State) (x : Schedule) : State :=
  x.plans.foldl (fun s p => (p.lfmt.take 8).zipIdx.foldl (fun s q =>
    setRword s p.stack.toNat (0x20040 + 4 * q.2) q.1) s) s

/-- A schedule is loaded: counters, dog slots, layer widths and instruction rings (R185, R222, R279, R286, R349). -/
def enterSchedule (s : State) (b : Nat) (o : Option Schedule) (fresh : Bool := false) : State :=
  match o with
  | some x => loadRings (writeWidths (writeDogs (setExpects s b x fresh) x) x) x.tiles
  | none => s

/-- The image that a berth holds from now on: its schedule is loaded, its load programs started (R279 step 5). -/
def placeImage (s : State) (b : Nat) (im : BerthImage) (spares : List (Nat × Nat)) : State :=
  let k := leadStk s
  let v := { Berth.reset with
    image := some im
    live := im.area
    spares := spares
    loading := (im.steady.tiles.map fun p => p.tile) }
  let s1 := putBerthState (putBerth s b v) b 1
  let s2 := rput (rput s1 k HLM_BVER_VERSION im.version b) k HLM_BERTH_WPS im.steady.wps b
  runLoads (enterSchedule s2 b (some im.steady) true) im.load

/-- A LOAD's image is staged: a berth of this module alone is enabled; in one that spans modules its version goes to the
lowest-numbered module, and the berth waits for that module's word (R336). Code 0: the ACK waits. -/
def placeLoaded (s : State) (b : Nat) (im : BerthImage) (sp : List (Nat × Nat)) : ImgDone :=
  if im.steady.modules.length ≤ 1 then (rbump (placeImage s b im sp) (leadStk s) HLM_LOADS, 1, 0)
  else
    let host := lowestOf s im.steady.modules
    let s1 := putBerth s b { berthOf s b with next := some im, spares := sp }
    (if host = moduleNo s then s1 else sendHelm s1 [.version host b im.version], 0, 0)

/-- The checks of LOAD on the module, once the image has its form: MISMATCH (R277); in harbour mode no berth spans modules
(R354). -/
def fitsModule (s : State) (b : Nat) (d : Decoded) : Option (List (Nat × Nat)) :=
  if fleetRev s < d.steady.minRev ∨ (!fleetMode s ∧ 1 < d.steady.modules.length) then none
  else takeSpares s b d.steady.plans

/-- LOAD (R277, R279) of a slot into the free area of a berth. -/
def loadBerth (s : State) (n : ImgName) (slot b : Nat) : ImgDone :=
  let st := berthState s b
  let h := 1 - (berthOf s b).live
  if st ≠ 0 ∧ st ≠ 3 then (s, 15, 0)
  else match catOf s n slot, slotData s n slot with
    | some cat, some data =>
      if !slotUsable s n slot then (s, 10, 0)
      else if n.1 ≠ 1 then (s, 3, 0)
      else
        let r := memReader data.bytes
        if Config.tilesPerStack < rdNat r 22 2 ∨ !moduleMatches s r cat.modidx then (s, 12, 0)
        else match checkModel s r cat.modidx b h with
          | (s1, .error e) => (s1, e.1, e.2)
          | (s1, .ok d) => match fitsModule s1 b d with
            | none => (s1, 12, 0)
            | some sp => match stageModel s1 r cat.modidx b h d with
              | (s2, some e) => (s2, e.1, e.2)
              | (s2, none) => placeLoaded s2 b (imageIn n slot h r d) sp
    | _, _ => (s, 10, 0)

/-- A LOAD that waited for the berth's other modules ends here: the berth is enabled, or refused with MISMATCH (R336). -/
def finishLoad (s : State) (b : Nat) (im : BerthImage) (good : Bool) : State :=
  let v := berthOf s b
  let s1 := rput (putBerth s b { v with next := none, spares := [], loadLine := none, versions := [] }) (leadStk s)
    HLM_IMG_STATUS_BUSY 0
  let r := match (if good then takeSpares s1 b im.steady.plans else none) with
    | some sp => (rbump (placeImage s1 b im sp) (leadStk s) HLM_LOADS, 1)
    | none => (s1, 12)
  match v.loadLine with
  | some a => writeAck r.1 a.toNat 40 r.2 0
  | none => if r.2 = 1 then r.1 else rset r.1 0 BNC_BRINGUP_BOOTFAIL

/-- The image of a LOAD that awaits the versions of the berth's other modules, by an image line or at bring-up (R336,
R428). -/
def loadPending (s : State) (b : Nat) : Option BerthImage :=
  if berthState s b = 0 ∨ berthState s b = 3 then (berthOf s b).next else none

/-- In the lowest-numbered module: once every other module's version has come, all are told whether they are equal. -/
def decideLoad (s : State) (b : Nat) : State :=
  let v := berthOf s b
  match loadPending s b with
  | some im =>
    let others := im.steady.modules.filter fun m => m != moduleNo s
    if others.all fun m => v.versions.any fun q => q.1 == m then
      let good := v.versions.all fun q => q.2 == BitVec.ofNat 32 im.version
      finishLoad (sendHelm s (others.map fun m => .version m b (if good then im.version else 0))) b im good
    else s
  | none => s

/-- HLM_BVER_n written by the lead Helm of module `m` (R336): to the lowest-numbered module its version, from that module
its word: the common version, or 0. -/
def hearVersion (s : State) (m : BitVec 10) (b : Nat) (v : Word) : State :=
  let x := berthOf s b
  let heard := decideLoad (putBerth s b { x with versions := x.versions.filter (fun q => q.1 != m) ++ [(m, v)] }) b
  match loadPending s b with
  | some im =>
    if lowestOf s im.steady.modules = moduleNo s then heard
    else if lowestOf s im.steady.modules = m then finishLoad s b im (v == BitVec.ofNat 32 im.version)
    else s
  | none => heard

/-- The image command of a line waits for other modules; no other runs meanwhile (R276). -/
def awaitVersions (s : State) (b : Nat) (a : BitVec 48) : State :=
  decideLoad (rset (putBerth s b { berthOf s b with loadLine := some a }) (leadStk s) HLM_IMG_STATUS_BUSY) b

/-! ### Replacement (R284) -/

/-- What two schedules must share for a crossing: slot table and watches per step. -/
def sameShape (a b : Schedule) : Bool := decide (a.slots = b.slots) && decide (a.wps = b.wps)

/-- Whether every schedule of an image fits the one that runs. -/
def crossingFits (run_ : Schedule) (d : Decoded) : Bool :=
  sameShape run_ d.steady && (match d.crossA, d.crossB with
    | some x, some y => sameShape run_ x && sameShape run_ y
    | _, _ => false)

/-- The refusals of REPLACE by name, state and header (R284): a code, or none. -/
def replaceCode (s : State) (n : ImgName) (slot b : Nat) (old : BerthImage) (cat : CatRec) (r : Reader) : Option Nat :=
  if berthState s b ≠ 1 ∨ xingPhase s ≠ 0 then some 15
  else if !slotUsable s n slot then some 10
  else if n.1 ≠ 1 then some 3
  else if n.2.1 ≠ old.name.2.1 ∨ rdNat r 7 1 ≠ 1 ∨ rdNat r 16 4 ≠ rget s (leadStk s) HLM_BVER_VERSION b
      ∨ Config.tilesPerStack < rdNat r 22 2 ∨ !moduleMatches s r cat.modidx then some 12
  else none

/-- The crossing of a berth is armed: an event of the event order (R276, R285). The spares of the new STEADY are reserved
beside the old (R278). -/
def armCrossing (s : State) (b : Nat) (im : BerthImage) (sp : List (Nat × Nat)) : State :=
  let v := berthOf s b
  let s1 := countEvent (putBerth s b { v with next := some im, spares := v.spares ++ sp.filter fun q => !v.spares.contains q })
  rput (rput s1 (leadStk s) HLM_XING_BERTH b) (leadStk s) HLM_XING_PHASE 1

/-- REPLACE: staging and arming. One that is refused or fails changes nothing but the counts of its checks. -/
def replaceBerth (s : State) (n : ImgName) (slot b : Nat) : ImgDone :=
  match (berthOf s b).image, catOf s n slot, slotData s n slot with
  | some old, some cat, some data =>
    let r := memReader data.bytes
    let h := 1 - old.area
    match replaceCode s n slot b old cat r with
    | some e => (s, e, 0)
    | none => match checkModel s r cat.modidx b h with
      | (s1, .error e) => (s1, e.1, e.2)
      | (s1, .ok d) => match (if crossingFits old.steady d then fitsModule s1 b d else none) with
        | none => (s1, 12, 0)
        | some sp => match stageModel s1 r cat.modidx b h d with
          | (s2, some e) => ({ s2 with dram := s1.dram }, e.1, e.2)
          | (s2, none) => (armCrossing s2 b (imageIn n slot h r d) sp, 1, 0)
  | none, _, _ => (s, 15, 0)
  | _, _, _ => (s, 10, 0)

/-- A crossing ends. -/
def endCrossing (s : State) : State := setRword s (leadStk s) 0x3011C 0

/-! ### Adapters (R282) -/

/-- STAGE_ADAPTER into a version slot. -/
def stageAdapter (s : State) (n : ImgName) (slot v : Nat) : ImgDone :=
  match catOf s n slot, slotData s n slot with
  | some cat, some data =>
    let r := memReader data.bytes
    let k := leadStk s
    let size := rget s k HLM_ADP_CFG_SIZE * 65536
    if rget s k HLM_ADP_CFG_COUNT ≤ v then (s, 3, 0)
    else if (mapGet (fun _ => none) s.serve.vslots v).isSome ∨ !slotUsable s n slot then (s, 10, 0)
    else if n.1 ≠ 2 then (s, 3, 0)
    else if !moduleMatches s r cat.modidx then (s, 12, 0)
    else if (directory r).any (fun e => size < e.stage)
        ∨ overlapsChart s (imageStacks r cat.modidx) (vslotBase s v) size then (s, 11, 0)
    else
      let c := checkImage s r
      if !c.2 then (c.1, 8, 0)
      else if !imageShape r ∨ !(shardsOf r cat.modidx).all (shardShape r) then (c.1, 3, 0)
      else
        let q := stageAll c.1 r cat.modidx (vslotBase s v)
        match q.2 with
        | some i => (rbump q.1 k HLM_DIGFAIL, 9, i)
        | none =>
          let x : VSlot := ⟨.staged, n.2.2, n.2.1, rdNat r 12 4⟩
          ({ q.1 with serve := { q.1.serve with vslots := mapSet (fun _ => none) q.1.serve.vslots v (some x) } }, 1, 0)
  | _, _ => (s, 10, 0)

/-- An image's shard of one stack is staged again: its bytes from NAND, if their digest is right. -/
def restageShard (s : State) (r : Reader) (m k at_ : Nat) : State :=
  match (shardsOf r m).find? fun e => e.stack == k with
  | some e => if shardGood r e then stageShard s r e at_ else rbump s (leadStk s) HLM_DIGFAIL
  | none => s

/-- The same of a berth's image (R376, R385 step 4): where its slot still holds that image, VERIFIED or ACTIVE, and its
signature verifies before any byte is staged (R269). -/
def restageImage (s : State) (b k : Nat) (im : BerthImage) : State :=
  match catOf s im.name im.slot, slotData s im.name im.slot with
  | some cat, some data =>
    let r := memReader data.bytes
    if slotUsable s im.name im.slot && Config.sha384 (signedPart r) == im.digest then
      let c := checkImage s r
      if c.2 then restageShard c.1 r cat.modidx k (areaBase s b im.area) else c.1
    else s
  | _, _ => s

/-- A berth's live shard of one stack is staged again. -/
def restage (s : State) (b k : Nat) : State :=
  match (berthOf s b).image with
  | some im => if (berthOf s b).discarded then s else restageImage s b k im
  | none => s

/-- The NAND slot that holds the image of an adapter version. -/
def versionSource (s : State) (x : VSlot) : Option (CatRec × Reader) :=
  [0, 1].findSome? fun i =>
    let n := (2, x.model, x.adapter)
    match catOf s n i, slotData s n i with
    | some cat, some data =>
      if slotUsable s n i && rdNat (memReader data.bytes) 12 4 == x.version then some (cat, memReader data.bytes) else none
    | _, _ => none

/-- The shard of an adapter version slot in one stack is staged again (R376), once its signature verifies. -/
def restageVersion (s : State) (v k : Nat) (x : VSlot) : State :=
  match versionSource s x with
  | some (cat, r) =>
    let c := checkImage s r
    if c.2 then restageShard c.1 r cat.modidx k (vslotBase s v) else c.1
  | none => s

end Sys2Proof.Machine
end

