-- ==== Sys2Proof/Machine/Weights.lean ====
section
/-!
DEFINITION. The image commands of the image command line (R273 to R284, Tables 11.5 and 11.6).
-/

namespace Sys2Proof.Machine

/-- Name, SLOT, berth and version slot of a command line. -/
def lineName (l : Line) : ImgName := (lineField l 1 1, lineField l 8 2, lineField l 10 2)
def lineSlot (l : Line) : Nat := lineField l 2 1
def lineBerth (l : Line) : Nat := lineField l 3 1

/-- Whether a line's operands are in range: berth, reserved bytes. -/
def imgLineLegal (l : Line) : Bool :=
  decide (lineBerth l ≤ 15) && decide (lineSlot l ≤ 2) && decide (lineField l 48 16 = 0) && decide (lineField l 12 2 ≤ 1023)

/-- What an image command answers where NAND reports an error in place of success: MEDIA, and nothing has changed. -/
def mediaResult (nand : Bool) (s : State) (q : ImgDone) : ImgDone := if nand && decide (q.2.1 ≤ 1) then (s, 14, 0) else q

/-- One image command runs (R276): a new command on the image line is processed and acknowledged, while no other
executes. `nand`: NAND reports an error. -/
def imageCommand (s : State) (l : Line) (op : Nat) (nand : Bool) (f : State → ImgDone) : State :=
  if newLine s l && decide (l.addr.toNat = cplBase s + 1088) && decide (lineField l 0 1 = op)
      && !ron s (leadStk s) HLM_IMG_STATUS_BUSY then
    let s1 := rput (rput (markLine s l) (leadStk s) HLM_IMG_STATUS_OP op) (leadStk s) HLM_IMG_STATUS_PROGRESS 100
    let r := mediaResult nand s1 (if imgLineLegal l then f s1 else (s1, 3, 0))
    if r.2.1 = 0 then awaitVersions r.1 (lineBerth l) l.addr
    else writeAck r.1 l.addr.toNat 40 r.2.1 (r.2.2 * 65536)
  else s

/-- A command that names slot 0, 1 or the ACTIVE slot. -/
def withSlot (l : Line) (f : State → Nat → ImgDone) (s : State) : ImgDone :=
  match resolveSlot s (lineName l) (lineSlot l) with
  | some i => f s i
  | none => (s, 10, 0)

/-- A command that names slot 0 or 1. -/
def withPlainSlot (l : Line) (f : State → Nat → ImgDone) (s : State) : ImgDone :=
  if lineSlot l < 2 then f s (lineSlot l) else (s, 3, 0)

/-- Bytes that the store's slots take, but for one. -/
def storeUsed (s : State) (n : ImgName) (slot : Nat) : Nat :=
  ((catsOf s).filter fun r => !(r.name == n && r.slot == slot) && r.st != .empty).foldl (fun (m : Nat) r => m + r.length) 0

/-- Names in the store. -/
def storeNames (s : State) : List ImgName := (((catsOf s).filter fun r => r.st != .empty).map fun r => r.name).eraseDups

/-- A slot's programming begins: its chunks count until the next reset (R429). -/
def beginProgram (s : State) (n : ImgName) (slot : Nat) : State :=
  { s with img := { s.img with begun := (s.img.begun.filter fun q => q != (n, slot)) ++ [(n, slot)] } }

/-- Whether a slot's programming has begun since the last reset. -/
def programming (s : State) (n : ImgName) (slot : Nat) : Bool := s.img.begun.contains (n, slot)

/-- PROGRAM_BEGIN: NAND lacks room beyond 16 TiB or 8,192 names (Table 0.2, R273). -/
def programBegin (l : Line) (s : State) (slot : Nat) : ImgDone :=
  let n := lineName l
  let len := lineField l 32 8
  if slotState s n slot = .active then (s, 10, 0)
  else if 2 ^ 44 < storeUsed s n slot + len ∨ (!(storeNames s).contains n ∧ 8192 ≤ (storeNames s).length) then (s, 11, 0)
  else
    let s1 := putCat s ⟨n, slot, .incomplete, lineField l 14 2, len, Config.nandStart s.img.catalogue.length, 0, 0⟩
    (putSlotData (beginProgram s1 n slot) n slot (some ⟨[], []⟩), 1, 0)

/-- PROGRAM_CHUNK: bytes at a 4 KiB-aligned image offset, at most 64 MiB. -/
def programChunk (l : Line) (bytes : List Byte) (s : State) (slot : Nat) : ImgDone :=
  let n := lineName l
  let off := lineField l 24 8
  let len := lineField l 32 8
  match catOf s n slot, slotData s n slot with
  | some cat, some d =>
    if cat.st ≠ .incomplete ∨ !programming s n slot then (s, 10, 0)
    else if off % 4096 ≠ 0 ∨ 2 ^ 26 < len ∨ cat.length < off + len then (s, 3, 0)
    else (putSlotData s n slot (some (coverChunk { d with bytes := memWrite d.bytes off (bytes.take len) } off len)), 1, 0)
  | _, _ => (s, 10, 0)

/-- What a slot keeps: the header, the directory and the shards of its module (R275). -/
def keepStored (d : SlotData) (l : List Nat) : SlotData :=
  { d with bytes := d.bytes.filter fun p => l.contains (p.1 / 4096) }

/-- PROGRAM_END: coverage, signature, form and digests. -/
def programEnd (l : Line) (s : State) (slot : Nat) : ImgDone :=
  let n := lineName l
  match catOf s n slot, slotData s n slot with
  | some cat, some d =>
    let r := memReader d.bytes
    if cat.st ≠ .incomplete ∨ !programming s n slot then (s, 10, 0)
    else match firstUncovered d (storedNeeds r cat.modidx) with
      | some i => (s, 3, i)
      | none =>
        let c := checkImage s r
        if !c.2 then (c.1, 8, 0)
        else if !imageShape r || decide (rdNat r 6 1 ≠ n.1) || decide (rdNat r 8 2 ≠ n.2.1)
            || decide (rdNat r 10 2 ≠ n.2.2) || !(shardsOf r cat.modidx).all (shardShape r) then (c.1, 3, 0)
        else match (shardsOf r cat.modidx).find? fun e => !shardGood r e with
          | some e => (rbump c.1 (leadStk s) HLM_DIGFAIL, 9, e.index)
          | none =>
            (rbump (putSlotData (putCat c.1 { cat with st := .verified }) n slot (some (keepStored d (storedIndexes r cat.modidx)))) (leadStk s)
              HLM_PROGRAMS, 1, 0)
  | _, _ => (s, 10, 0)

/-- ACTIVATE. -/
def activateCmd (l : Line) (s : State) (slot : Nat) : ImgDone :=
  if slotUsable s (lineName l) slot then (activateSlot s (lineName l) slot, 1, 0) else (s, 10, 0)

/-- ERASE: an INCOMPLETE record before the erasure, an EMPTY one after it (R429). -/
def eraseCmd (l : Line) (s : State) (slot : Nat) : ImgDone :=
  let n := lineName l
  match catOf s n slot with
  | some cat =>
    if cat.st = .active then (s, 10, 0)
    else (putSlotData (putCat (putCat s { cat with st := .incomplete }) { cat with st := .empty, length := 0 }) n slot none, 1, 0)
  | none => (s, 1, 0)

/-- BOOTSET: the berth's boot record. -/
def bootsetCmd (l : Line) (s : State) (slot : Nat) : ImgDone :=
  if lineField l 1 1 ≠ 1 then (s, 3, 0)
  else if slotUsable s (lineName l) slot then
    ({ s with img := { s.img with
      boots := mapSet (fun _ => none) s.img.boots (lineBerth l) (some ⟨lineName l, slot⟩) } }, 1, 0)
  else (s, 10, 0)

/-- PROGRAM_BEGIN (R275). -/
def execProgramBegin (o : ImageOrder) (s : State) : Host.Outcome State Fault Refusal :=
  .next (imageCommand s o.line 1 o.nand (withPlainSlot o.line (programBegin o.line)))

/-- PROGRAM_CHUNK (R275). -/
def execProgramChunk (o : ImageOrder) (bytes : List Byte) (s : State) : Host.Outcome State Fault Refusal :=
  .next (imageCommand s o.line 2 o.nand (withPlainSlot o.line (programChunk o.line bytes)))

/-- PROGRAM_END (R275). -/
def execProgramEnd (o : ImageOrder) (s : State) : Host.Outcome State Fault Refusal :=
  .next (imageCommand s o.line 3 o.nand (withPlainSlot o.line (programEnd o.line)))

/-- ACTIVATE (R273). -/
def execActivate (o : ImageOrder) (s : State) : Host.Outcome State Fault Refusal :=
  .next (imageCommand s o.line 4 o.nand (withPlainSlot o.line (activateCmd o.line)))

/-- ERASE (Table 11.6). -/
def execErase (o : ImageOrder) (s : State) : Host.Outcome State Fault Refusal :=
  .next (imageCommand s o.line 5 o.nand (withPlainSlot o.line (eraseCmd o.line)))

/-- LOAD (R277, R279). -/
def execLoad (o : ImageOrder) (s : State) : Host.Outcome State Fault Refusal :=
  .next (imageCommand s o.line 6 o.nand (withSlot o.line fun s i => loadBerth s (lineName o.line) i (lineBerth o.line)))

/-- STAGE_ADAPTER (R282). -/
def execStageAdapter (o : ImageOrder) (s : State) : Host.Outcome State Fault Refusal :=
  .next (imageCommand s o.line 7 o.nand (withSlot o.line fun s i => stageAdapter s (lineName o.line) i (lineField o.line 12 2)))

/-- REPLACE (R284). -/
def execReplace (o : ImageOrder) (s : State) : Host.Outcome State Fault Refusal :=
  .next (imageCommand s o.line 8 o.nand (withSlot o.line fun s i => replaceBerth s (lineName o.line) i (lineBerth o.line)))

/-- BOOTSET (R276). -/
def execBootset (o : ImageOrder) (s : State) : Host.Outcome State Fault Refusal :=
  .next (imageCommand s o.line 9 o.nand (withSlot o.line (bootsetCmd o.line)))

end Sys2Proof.Machine
end

