-- ==== Sys2Proof/Machine/RecoverOps.lean ====
section
/-!
DEFINITION. The end of a berth (R265, R266, R387), the abandonment of a step and its replay (R384 to R387, R289), and
changes of the fleet's shape (R96, R278, R390).
-/

namespace Sys2Proof.Machine

/-! ### A berth's programs -/

/-- The tiles' programs of the schedule that a berth's coming or running step uses. -/
def berthPrograms (s : State) (b : Nat) : List TileProgram :=
  match scheduleOf s b with
  | some x => x.tiles
  | none => []

/-- The load program that sets a berth's tiles to the start state of its step (R281, R289). -/
def berthLoads (s : State) (b : Nat) : List TileProgram :=
  let v := berthOf s b
  if xingPhase s = 3 ∧ xingBerth s = b then
    match v.next with
    | some im => im.crossLoad
    | none => []
  else match v.image with
    | some im => im.load
    | none => []

/-- The step programs of the tiles that were loaded are written into their rings again and start (R344, R482;
notes/assumptions/24.md). -/
def startLoaded (s : State) (b : Nat) : State :=
  let ps := (berthPrograms s b).filter fun p => (berthOf s b).loading.contains p.tile
  let s1 := startSteps (loadRings s ps) ps
  putBerth s1 b { berthOf s1 b with loading := [] }

/-- Every load program of a berth has halted. -/
def loadsHalted (s : State) (b : Nat) : Bool := (berthOf s b).loading.all (tileHalted s)

/-- At a watch boundary the berths whose step begins with this watch start the tiles that were loaded (R344). -/
def startDue (s : State) : State :=
  (List.range 16).foldl (fun s b =>
    match (berthOf s b).step with
    | .running first => if first = watchNo s ∧ !(berthOf s b).loading.isEmpty then startLoaded s b else s
    | _ => s) s

/-! ### The end of a berth -/

/-- The berth's last watch for a step in flight once it is disabled: STEPTO, or 4 × WPS (Table 10.14). -/
def stepLimit (s : State) (b : Nat) : Word :=
  let v := rget s (leadStk s) HLM_BERTH_STEPTO b
  watchNo s + BitVec.ofNat 32 (if v = 0 then 4 * rget s (leadStk s) HLM_BERTH_WPS b else v)

/-- Some contexts of a berth end outside a step: each gets a record with STATUS and END (R259), and is freed. -/
def endOutside (s : State) (b status end_ : Nat) (l : List (Nat × Context)) : State :=
  let v := berthOf s b
  let s1 := putBerth s b { v with ended := v.ended ++ l.map fun q => recordOf s q.1 q.2 status end_ [] false }
  l.foldl (fun s q => dropContext s q.1) s1

/-- HLM_RCV_STATUS.REPLAYING of a berth. -/
def setReplaying (s : State) (b v : Nat) : State :=
  rput s (leadStk s) HLM_RCV_STATUS_REPLAYING (putBits (rget s (leadStk s) HLM_RCV_STATUS_REPLAYING) b 1 v)

/-- A crossing of the berth ends with it, and both its areas are discarded: no image is left (R290). -/
def discardAreas (s : State) (b : Nat) : State :=
  if xingPhase s ≠ 0 ∧ xingBerth s = b then
    rput (putBerth (endCrossing s) b { berthOf s b with discarded := true }) (leadStk s) HLM_BVER_VERSION 0 b
  else s

/-- The berth's final report has been made: no further report until it is enabled again (R260). -/
def finalMade (s : State) (b : Nat) : Bool :=
  s.serve.groups.any (fun g => g.berth == b && g.last) || (berthOf s b).held.any fun h => h.final

/-- Every context of a berth ends with STATUS and END 6, the acknowledgement that waits is written, and the final
report; its wrapper closes when the completion line is written (R265, R266; notes/assumptions/46.md). -/
def finishBerth (s : State) (b status : Nat) : State :=
  let s1 := endOutside s b status 6 (berthContexts s b)
  let s2 := discardAreas s1 b
  let v := berthOf s2 b
  let s3 := putBerthState (putBerth s2 b { v with
    ended := []
    step := .idle
    next := none
    spares := []
    arrived := false
    released := []
    notice := none
    disableAt := none
    disableLine := none
    late := []
    thermal := false }) b 2
  let s4 := match v.disableLine with
    | some l => writeAck s3 l.toNat 48 1 0
    | none => s3
  report (setReplaying s4 b 0) b v.ended true

/-- Whether every berth has stopped, after which an orderly stop lowers load (R440). -/
def allStopped (s : State) : Bool :=
  ron s (leadStk s) HLM_STATUS_THERMSTOP && (List.range 16).all fun b => berthState s b != 1 && (berthOf s b).step == .idle

/-- After the last commit point of an orderly thermal stop, every context ends with STATUS THERMAL (R266) and load is lowered
(R400, R440). -/
def stopAfterLast (s : State) : State :=
  if allStopped s then
    orderlyStop ((List.range 16).foldl (fun s b => if (berthOf s b).thermal then finishBerth s b 2 else s) s)
  else s

/-- A thermal notice for a berth that spans modules: to the host module, or from it to every other module (R441). -/
def sendThermal (s : State) (b : Nat) : State :=
  if !spansModules s b || !fleetMode s then s
  else if hostModule s b = moduleNo s then
    sendHelm s ((otherModules s b).map fun m => .thermal m b)
  else sendHelm s [.thermal (hostModule s b) b]

/-- A berth whose last step is over ends as its disable says; at a thermal stop its requests wait for the last commit point
of every berth (R265, R266). -/
def closeBerth (s : State) (b : Nat) : State :=
  if (berthOf s b).thermal then
    stopAfterLast (sendThermal (putBerth s b { berthOf s b with step := .idle, arrived := false, released := [] }) b)
  else stopAfterLast (finishBerth s b 1)

/-- A berth is disabled (R265): no admission and no placement from now on; it ends at once between steps. -/
def disableBerth (s : State) (b : Nat) (line : Option (BitVec 48)) : State :=
  let v := berthOf s b
  let s1 := putBerthState (putBerth s b { v with disableAt := some (stepLimit s b), disableLine := line }) b 2
  if v.step = .idle then closeBerth s1 b else s1

/-! ### Spares and demotion (R96, R278, R390) -/

/-- STK_RT_MAP_n: the site of logical tile `l`. -/
def putMap (s : State) (k l : Nat) (site : Option Nat) : State :=
  let v := bit site.isSome
  let n := site.getD 0
  if l % 2 = 0 then rput (rput s k STK_RT_MAP_SITE0 n (l / 2)) k STK_RT_MAP_VALID0 v (l / 2)
  else rput (rput s k STK_RT_MAP_SITE1 n (l / 2)) k STK_RT_MAP_VALID1 v (l / 2)

/-- Spare `l` takes a tile's logical number; the former site is fenced and the new one loaded. -/
def takeSpare (s : State) (b : Nat) (r : TileRef) (l : Nat) : State :=
  let k := r.stack.toNat
  match siteOf s k r.tile.toNat, siteOf s k l with
  | some old, some new =>
    let s1 := govWithdraw (govWithdraw (changeSite s k old fenceTile) true k r.tile.toNat) false k r.tile.toNat
    let s2 := putMap (putMap s1 k l none) k r.tile.toNat (some new)
    let v := berthOf s2 b
    let s3 := putBerth s2 b { v with
      spares := v.spares.erase (k, l)
      loading := r :: v.loading.erase r }
    runLoads (loadRings s3 ((berthPrograms s3 b).filter fun p => p.tile == r))
      ((berthLoads s3 b).filter fun p => p.tile == r)
  | _, _ => s

/-- The lowest spare of a stack that a berth has reserved and not used (R278). -/
def lowestSpare (s : State) (b k : Nat) : Option Nat :=
  ((berthOf s b).spares.filter fun q => q.1 == k).foldl (fun m q => some (match m with
    | some l => min l q.2
    | none => q.2)) none

/-- A demotion-pending tile of a berth at its step boundary (R390). -/
def shapeTile (b : Nat) (s : State) (p : TileProgram) : State :=
  let k := p.tile.stack.toNat
  match siteOf s k p.tile.tile.toNat with
  | none => s
  | some site =>
    let t := tileAt s k site
    let covered := match berthPlan s b k with
      | some q => q.cover.contains p.tile.tile
      | none => false
    if !t.demotePend || t.demoted then s
    else match (if covered then lowestSpare s b k else none) with
      | some l => takeSpare s b p.tile l
      | none =>
        if p.tolerant then putTile s k site { t with demoted := true }
        else if berthState s b = 1 then disableBerth (rset s (leadStk s) HLM_RCV_STATUS_SHAPE) b none
        else s

/-- Every demotion-pending tile of a berth. -/
def shapeBerth (s : State) (b : Nat) : State := (berthPrograms s b).foldl (shapeTile b) s

/-! ### What a fault is and counts against (R374 to R377) -/

/-- The images that a berth's areas hold (R279, R290). -/
def berthImages (s : State) (b : Nat) : List BerthImage :=
  if (berthOf s b).discarded then [] else [(berthOf s b).image, (berthOf s b).next].filterMap id

/-- Berths with an image whose area holds an offset, with that image. -/
def imagesAt (s : State) (off : Nat) : List (Nat × BerthImage) :=
  (List.range 16).flatMap fun b => ((berthImages s b).filter fun im =>
    decide (areaBase s b im.area ≤ off) && decide (off < areaBase s b im.area + areaSize s)).map fun im => (b, im)

/-- Adapter version slots, not FREE, that hold an offset. -/
def versionsAt (s : State) (off : Nat) : List (Nat × VSlot) :=
  s.serve.vslots.filterMap fun q => match q.2 with
    | some x =>
      if vslotBase s q.1 ≤ off ∧ off < vslotBase s q.1 + rget s (leadStk s) HLM_ADP_CFG_SIZE * 65536 then some (q.1, x)
      else none
    | none => none

/-- Whether a bank write's source lies in a shard that was staged with its digest right (R84, R272). -/
def crcStaged (s : State) (d : Option Dword) : Bool :=
  match d with
  | some a => decide (addrModule a = moduleNo s) && decide (addrRegion a = 0)
      && (!(imagesAt s (addrOff a)).isEmpty || !(versionsAt s (addrOff a)).isEmpty)
  | none => false

/-- The fault class of a tile's TIL_FAULT (R84, R374): 4 for a bank write from a staged shard that failed its CRC, 2 for
WDOG, STALL, and SIDE with RCQFULL or RCLATE, else 3. -/
def tileClass (s : State) (t : Tile) : Nat :=
  let c := tget t TIL_FAULT_CAUSE
  if c = 6 ∧ crcStaged s t.crcAt then 4
  else if c = 1 ∨ c = 2 then 2
  else if c = 7 ∧ (tget t TIL_SID_FAULT_RCQFULL = 1 ∨ tget t TIL_SID_FAULT_RCLATE = 1) then 2
  else 3

/-- A class 2 fault counts against its tile: as repeated in a replay, else once the replay of its step commits (R377). Its step
is the current one, the one abandoned last while its replay is awaited, or else the next (R384). -/
def countHardware (s : State) (b k site cause : Nat) : State :=
  let v := berthOf s b
  match v.step with
  | .running _ =>
    if v.arrived then putBerth s b { v with late := v.late ++ [(k, site, cause)] }
    else if v.attempts = 0 then putBerth s b { v with faulted := v.faulted ++ [(k, site, cause)] }
    else tileEvent s k site true 1 cause
  | .replay _ _ => putBerth s b { v with faulted := v.faulted ++ [(k, site, cause)] }
  | .idle => putBerth s b { v with late := v.late ++ [(k, site, cause)] }

/-- The staged shards at a DRAM offset are staged again. -/
def restageAt (s : State) (k off : Nat) : State :=
  (versionsAt s off).foldl (fun s q => restageVersion s q.1 k q.2)
    ((imagesAt s off).foldl (fun s q => restageImage s q.1 k q.2) s)

/-- The shard that a bank write came from is staged again, once its CRC has failed (R385 step 4). -/
def restageSource (s : State) (d : Option Dword) : State :=
  match d with
  | some a => if crcStaged s d then restageAt s (addrStack a) (addrOff a) else s
  | none => s

/-- The source of the bank write of a tile whose CRC failed. -/
def bankSource (s : State) (r : TileRef) : Option Dword :=
  match siteOf s r.stack.toNat r.tile.toNat with
  | some site => (tileAt s r.stack.toNat site).crcAt
  | none => none

/-- A bank write of a tile that failed its CRC, from a staged shard: counted once against the DRAM channel, and restaged. -/
def countBank (s : State) (r : TileRef) (ch : Nat) : State :=
  match bankSource s r with
  | some a =>
    if crcStaged s (some a) then
      changeTile (restageSource (logCount s (dramUnit (addrStack a) ch) false 1 0).1 (some a)) r fun _ t =>
        { t with crcAt := none }
    else s
  | none => s

/-- A report of a berth's tile that is still under way when the berth's step is abandoned: it concerns the abandoned step, is
counted, and abandons nothing more (R384). -/
def countReport (b : Nat) (s : State) (r : Report) : State :=
  let s1 := { s with reports := s.reports.erase r }
  match r with
  | .tileFault a =>
    if !(berthTiles s b).contains a then s
    else match siteOf s a.stack.toNat a.tile.toNat with
      | none => s1
      | some site =>
        let t := tileAt s a.stack.toNat site
        if tget t TIL_FAULT_VALID = 1 ∧ tileClass s t = 2 then
          countHardware s1 b a.stack.toNat site (tget t TIL_FAULT_CAUSE)
        else s1
  | .bankCrc a ch => if (berthTiles s b).contains a then countBank s1 a ch.toNat else s
  | .opFailed a tag _ =>
    if (berthTiles s b).contains a then
      { s1 with serve := { s1.serve with masked := s1.serve.masked.erase (a, tag) } }
    else s
  | .chartFault _ => s

/-- Every report of the berth's tiles that is under way is counted. -/
def countPending (s : State) (b : Nat) : State := s.reports.foldl (countReport b) s

/-! ### Abandonment (R384 to R387) -/

/-- The first watch that starts at least 2 ms from now, at the nominal length (notes/assumptions/47.md). -/
def replayFrom (s : State) : Word :=
  watchNo s + BitVec.ofNat 32 (ceilDiv (s.tick + 2000000 - (rget s 0 CHR_WSTART_LO_TICK + rget s 0 CHR_WSTART_HI_TICK * 2 ^ 32))
    (max 1 (5 * watchLen s)))

/-- Abandonments of one step before it is given up. -/
def replayMax (s : State) : Nat :=
  if rget s (leadStk s) HLM_RCV_CTL_REPLAY_MAX = 0 then 3 else rget s (leadStk s) HLM_RCV_CTL_REPLAY_MAX

/-- The tiles of a berth are reset and its pins released (R385 steps 1 and 2, R265 step 3). -/
def stopTiles (s : State) (b : Nat) : State :=
  (berthStacks s b).foldl (fun s k => releasePins s k b) ((berthTiles s b).foldl resetTileNow s)

/-- HLM_RCV_LAST and HLM_ABANDONS. -/
def noteAbandon (s : State) (b cls k l cause attempt : Nat) : State :=
  setRword (rbump s (leadStk s) HLM_ABANDONS) (leadStk s) 0x30208
    (BitVec.ofNat 32 (b + cls * 2 ^ 4 + k * 2 ^ 8 + l * 2 ^ 11 + cause * 2 ^ 20 + min 15 attempt * 2 ^ 24))

/-- A step that was abandoned too often is given up (R387). -/
def giveUp (s : State) (b : Nat) : State :=
  let s1 := rbump s (leadStk s) HLM_GIVEUP
  finishBerth (endOutside s1 b 3 6 ((berthContexts s1 b).filter fun q => q.2.st == .placed)) b 1

/-- The current step of a berth is abandoned, to run again from watch `at_` (R385). The shards that step 4 stages again have been
staged with the fault that names them. -/
def abandonNow (s : State) (b cls k l cause : Nat) (at_ : Word) : State :=
  let v := berthOf s b
  match v.step with
  | .running first =>
    let n := v.attempts + 1
    let s1 := stopTiles (countPending (noteAbandon s b cls k l cause n) b) b
    if replayMax s ≤ n then stopAfterLast (giveUp s1 b)
    else
      let s2 := clearBerthCounters s1 b
      let s4 := putBerth s2 b { berthOf s2 b with
        step := .replay first at_
        attempts := n
        lastStep := some at_
        released := []
        notice := none
        loading := ((berthPrograms s2 b).map fun p => p.tile) }
      let s5 := shapeBerth (setReplaying s4 b 1) b
      runLoads s5 (berthLoads s5 b)
  | _ => s

/-- An abandon record from the host module to every other module of the berth (R386). -/
def sendRecords (s : State) (b : Nat) (first at_ : Word) : State :=
  sendHelm s ((otherModules s b).map fun m => .abandonRecord m b first at_)

/-- An event that concerns a berth (R384, R386): its current step is abandoned, or, after this module's arrival or
between steps, the event is charged to the next; a module other than the host sends a notice and awaits the record. -/
def berthFault (s : State) (b cls k l cause : Nat) : State :=
  let v := berthOf s b
  match v.step with
  | .running first =>
    if v.arrived then putBerth s b { v with charged := some (v.charged.getD (cls, k, l, cause)) }
    else if !spansModules s b then abandonNow s b cls k l cause (replayFrom s)
    else if hostModule s b = moduleNo s then
      abandonNow (sendRecords s b first (replayFrom s)) b cls k l cause (replayFrom s)
    else if v.notice.isSome then s
    else sendHelm (putBerth s b { v with notice := some (first, s.tick) }) [.abandonNotice (hostModule s b) b first]
  | .replay _ _ => s
  | .idle =>
    if berthState s b = 1 then putBerth s b { v with charged := some (v.charged.getD (cls, k, l, cause)) } else s

/-- The same for every berth that uses a stack. -/
def stackFault (s : State) (cls k : Nat) : State :=
  (List.range 16).foldl (fun s b => if (berthStacks s b).contains k then berthFault s b cls k 0 0 else s) s

/-- The same for every berth. -/
def moduleFault (s : State) (cls : Nat) : State := (List.range 16).foldl (fun s b => berthFault s b cls 0 0 0) s

end Sys2Proof.Machine
end

