-- ==== Sys2Proof/Machine/Serving.lean ====
section
/-!
DEFINITION. The serving commands (R250 to R267, R284 to R288, R349, R350): descriptors, notices, step boundaries and
commit points.
-/

namespace Sys2Proof.Machine

/-! ### Descriptors (R250, Table 10.5) -/

/-- Fields of a descriptor. -/
def dKind (l : Line) : Nat := lineField l 0 1
def dFlags (l : Line) : Nat := lineField l 1 1
def dBerth (l : Line) : Nat := lineField l 2 1
def dClass (l : Line) : Nat := lineField l 3 1
def dReqid (l : Line) : Dword := BitVec.ofNat 64 (lineField l 8 8)
def dPlen (l : Line) : Nat := lineField l 24 4
def dMaxnew (l : Line) : Nat := lineField l 28 4
def dModel (l : Line) : Nat := lineField l 40 2
def dAdapter (l : Line) : Nat := lineField l 42 2
def dStop (l : Line) : Nat := lineField l 44 4

/-- The current version slot of an adapter (R263). -/
def currentSlot (s : State) (a : Nat) : Option Nat := mapGet (fun _ => none) s.serve.curr a
def putCurrent (s : State) (a : Nat) (v : Option Nat) : State :=
  { s with serve := { s.serve with curr := mapSet (fun _ => none) s.serve.curr a v } }

/-- A version slot that is not FREE, and the machine with it changed. -/
def vslotAt (s : State) (v : Nat) : Option VSlot := mapGet (fun _ => none) s.serve.vslots v
def putVslot (s : State) (v : Nat) (x : VSlot) : State :=
  { s with serve := { s.serve with vslots := mapSet (fun _ => none) s.serve.vslots v (some x) } }

/-- Whether the fields of a SUBMIT lie in their ranges (R252 step 1). -/
def submitForm (l : Line) : Bool :=
  decide (dFlags l < 4) && decide (dBerth l < 16) && decide (dClass l < 4) && decide (1 ≤ dPlen l)
    && decide (dPlen l ≤ 16383) && decide (1 ≤ dMaxnew l) && decide (dMaxnew l ≤ 16383)
    && (decide (dAdapter l ≤ 4095) || decide (dAdapter l = 0xFFFF)) && decide (lineField l 56 8 = 0)

/-- The lowest FREE context (R249). -/
def freeContext (s : State) : Option Nat := (List.range 16384).find? fun c => (ctxAt s c).isNone

/-- The version that a SUBMIT to a berth binds: the next one while a crossing is armed (R285). -/
def boundVersion (s : State) (b : Nat) : Nat :=
  match (if xingPhase s ≠ 0 ∧ xingBerth s = b then (berthOf s b).next else (berthOf s b).image) with
  | some im => im.version
  | none => 0

/-- The context of an admitted SUBMIT, before its prefix is mapped. -/
def newContext (s : State) (l : Line) (toks : List Word) : Context where
  st := .waiting
  reqid := dReqid l
  seed := BitVec.ofNat 64 (lineField l 16 8)
  berth := dBerth l
  cls := dClass l
  maxnew := dMaxnew l
  stop := BitVec.ofNat 32 (dStop l)
  model := dModel l
  adapter := dAdapter l
  vslot := if dAdapter l = 0xFFFF then none else currentSlot s (dAdapter l)
  version := boundVersion s (dBerth l)
  rebind := bitOf (dFlags l) 0
  noprefix := bitOf (dFlags l) 1
  pending := toks
  tokens := toks
  positions := 0
  delivered := 0
  queued := watchNo s
  run := 0
  slot := none
  masked := false
  root := 0
  order := 0
  cancelled := false
  resumed := false
  rebound := false
  rebounded := false
  format := false
  paused := false
  blocks := 0
  lost := false

/-- Why a SUBMIT is refused, if it is: its ACK code (Table 10.6). -/
def submitCode (s : State) (l : Line) : Option Nat :=
  let b := dBerth l
  if !submitForm l then some 3
  else if berthState s b ≠ 1 then some 4
  else if (freeContext s).isNone then some 5
  else if (match (berthOf s b).image with
      | some im => decide (im.name.2.1 ≠ dModel l)
      | none => true) then some 6
  else if dAdapter l ≠ 0xFFFF ∧ (currentSlot s (dAdapter l)).isNone then some 7
  else none

/-- OPEN and, unless NOPREFIX is set, the prefix MAP of a new context (R252 step 4). -/
def mapPrefix (s : State) (c : Nat) (x : Context) : State × Context :=
  if x.noprefix then (openAll s x.berth c, x)
  else
    let q := prefixMap (openAll s x.berth c) x.berth c x
    (q.1, { x with pending := x.tokens.drop (64 * q.2), positions := 64 * q.2, blocks := q.2 })

/-- SUBMIT processed (R252). -/
def submitJob (l : Line) (toks : List Word) (s : State) : State :=
  let k := leadStk s
  match submitCode s l, freeContext s with
  | none, some c =>
    let x := newContext s l (toks.take (dPlen l))
    let r := rootKey (rbump s k HLM_ADMITS) (bindingOf s x)
    let s1 := saveTokens r.1 (dBerth l) c x.tokens
    let q := mapPrefix (writeAck s1 l.addr.toNat 48 1 (c * 2 ^ 16)) c { x with root := r.2 }
    putQueue (putCtx q.1 c (some q.2)) (dClass l) (queueAt q.1 (dClass l) ++ [c])
  | code, _ => writeAck (rbump s k HLM_REFUSED) l.addr.toNat 48 (code.getD 5) 0

/-- The live context that a CANCEL names. -/
def cancelTarget (s : State) (r : Dword) : Option (Nat × Context) :=
  s.serve.contexts.findSome? fun q => match q.2 with
    | some x => if x.reqid = r ∧ x.st ≠ .ended then some (q.1, x) else none
    | none => none

/-- CANCEL processed (R262). -/
def cancelJob (l : Line) (s : State) : State :=
  match cancelTarget s (dReqid l) with
  | some (c, x) =>
    writeAck (rbump (putCtx s c (some { x with cancelled := true })) (leadStk s) HLM_CANCELS) l.addr.toNat 48 1 0
  | none => writeAck (rbump s (leadStk s) HLM_LATE) l.addr.toNat 48 2 0

/-- A version that is no longer current is superseded, and freed when nothing is bound to it. -/
def supersede (s : State) (v : Option Nat) : State :=
  match v with
  | none => s
  | some i => match vslotAt s i with
    | some x => putVslot s i { x with st := .superseded }
    | none => s

/-- ADAPTER_PUBLISH processed (R263, R283). -/
def publishJob (l : Line) (s : State) : State :=
  let v := dStop l
  let a := l.addr.toNat
  if 16 ≤ dBerth l ∨ 4095 < dAdapter l then writeAck s a 48 3 0
  else if berthState s (dBerth l) ≠ 1 then writeAck s a 48 4 0
  else match vslotAt s v with
    | none => writeAck s a 48 7 0
    | some x =>
      if x.st ≠ .staged ∨ x.adapter ≠ dAdapter l then writeAck s a 48 7 0
      else if (match (berthOf s (dBerth l)).image with
          | some im => decide (im.name.2.1 ≠ x.model)
          | none => true) then writeAck s a 48 6 0
      else writeAck (putCurrent (putVslot (supersede s (currentSlot s (dAdapter l))) v { x with st := .current })
        (dAdapter l) (some v)) a 48 1 0

/-- ADAPTER_RETIRE processed (R263). -/
def retireJob (l : Line) (s : State) : State :=
  match currentSlot s (dAdapter l) with
  | none => writeAck s l.addr.toNat 48 7 0
  | some v => writeAck (putCurrent (supersede s (some v)) (dAdapter l) none) l.addr.toNat 48 1 0

/-- BERTH_DISABLE processed (R265); its ACK is written when the berth has ended. -/
def disableJob (l : Line) (s : State) : State :=
  if 16 ≤ dBerth l then writeAck s l.addr.toNat 48 3 0
  else if berthState s (dBerth l) ≠ 1 then writeAck s l.addr.toNat 48 4 0
  else disableBerth s (dBerth l) (some l.addr)

/-- A descriptor is observed: one event, processed as its KIND says (R250, R251). -/
def descriptor (s : State) (l : Line) (toks : List Word) : State :=
  if !newLine s l then s
  else
    let s1 := countEvent (markLine s l)
    match dKind l with
    | 1 => submitJob l toks s1
    | 2 => cancelJob l s1
    | 3 => publishJob l s1
    | 4 => retireJob l s1
    | 5 => disableJob l s1
    | _ => writeAck s1 l.addr.toNat 48 3 0

/-- SUBMIT (R252). -/
def execSubmit (l : Line) (toks : List Word) (s : State) : Host.Outcome State Fault Refusal := .next (descriptor s l toks)
/-- CANCEL (R262). -/
def execCancel (l : Line) (s : State) : Host.Outcome State Fault Refusal := .next (descriptor s l [])
/-- ADAPTER_PUBLISH (R263). -/
def execAdapterPublish (l : Line) (s : State) : Host.Outcome State Fault Refusal := .next (descriptor s l [])
/-- ADAPTER_RETIRE (R263). -/
def execAdapterRetire (l : Line) (s : State) : Host.Outcome State Fault Refusal := .next (descriptor s l [])
/-- BERTH_DISABLE (R265). -/
def execBerthDisable (l : Line) (s : State) : Host.Outcome State Fault Refusal := .next (descriptor s l [])

/-- WATCH_NOTICE (R370): the lead Helm reads the line again and compares its HSEQ when the data comes. -/
def execWatchNotice (l : Line) (s : State) : Host.Outcome State Fault Refusal :=
  let a := l.addr.toNat - l.addr.toNat % 64
  let s1 := { s with serve := { s.serve with notices := s.serve.notices.filter fun x => x.toNat != a } }
  .next (if (leadOf s).isSome && (watchedLines s).contains a then watchRead s1 a else s1)

/-- RETURN_LINE (R260): the host's return index makes room, and held reports are written. -/
def execReturnLine (idx : Word) (s : State) : Host.Outcome State Fault Refusal :=
  .next ((List.range 16).foldl releaseHeld { s with serve := { s.serve with returned := idx } })

/-! ### Step boundaries (R254, R264, R285, R439) -/

/-- Slots that are taken by placed requests of a berth. -/
def takenSlots (s : State) (b : Nat) : List Nat := (berthContexts s b).filterMap fun q => q.2.slot

/-- Whether an array slot's conditions hold for a request in every stack (R214). -/
def pathFits (s : State) (b c : Nat) (e : SlotEntry) : Bool :=
  match e.path with
  | .plot => true
  | .array w8 g => (berthStacks s b).all fun k => match berthPlan s b k with
    | some p => arrayFits s k c p.eligible w8 g
    | none => true

/-- Whether a slot is compatible with a request (R253). -/
def compatible (s : State) (b c : Nat) (x : Context) (e : SlotEntry) : Bool :=
  decide (e.m ≤ x.pending.length) && decide (x.positions ≤ e.span) && pathFits s b c e

/-- The free compatible slot with the largest M, the lowest number on a tie. -/
def bestSlot (s : State) (b c : Nat) (x : Context) : Option SlotEntry :=
  ((berthSlots s b).filter fun e => compatible s b c x e && !(takenSlots s b).contains e.slot).foldl (fun m e =>
    match m with
    | none => some e
    | some f => if f.m < e.m ∨ (f.m = e.m ∧ e.slot < f.slot) then some e else some f) none

/-- The placed request that a class may pause for a request: the greatest class, then the latest placed. -/
def victim (s : State) (b c : Nat) (x : Context) : Option (Nat × Context) :=
  ((berthContexts s b).filter fun q =>
    q.2.st == .placed && decide (x.cls < q.2.cls)
      && decide (rget s (leadStk s) HLM_CLASS_MINRUN q.2.cls ≤ q.2.run)
      && (berthSlots s b).any fun e => some e.slot == q.2.slot && compatible s b c x e).foldl (fun m q =>
    match m with
    | none => some q
    | some p => if p.2.cls < q.2.cls ∨ (p.2.cls = q.2.cls ∧ p.2.order < q.2.order) then some q else some p) none

/-- A request leaves its slot and enters the tail of its class queue (R254, R256). -/
def toQueue (s : State) (c : Nat) (x : Context) : State :=
  putQueue (putCtx s c (some { x with st := .waiting, slot := none, masked := false, paused := true, queued := watchNo s }))
    x.cls (queueAt s x.cls ++ [c])

/-- ALLOC and COW of a request in every stack of its berth (R255): the machine, whether all returned OK, and the stacks where
a command returned NOFRAME. -/
def prepareAll (s : State) (b c : Nat) (x : Context) (m : Nat) : State × Bool × List Nat :=
  (berthStacks s b).foldl (fun q k =>
    let r := preparePages k c x.positions m q.1
    (r.1, q.2.1 && r.2 == .ok, if r.2 = .noframe then q.2.2 ++ [k] else q.2.2)) (s, true, [])

/-- A request is placed in a slot when its commands return OK; else it keeps its place and room is made (R255). -/
def placeIn (s : State) (b c : Nat) (x : Context) (e : SlotEntry) : State :=
  let q := prepareAll s b c x e.m
  if q.2.1 then
    let s1 := if x.paused then rbump q.1 (leadStk s) HLM_RESUMES else q.1
    let x1 := { x with st := .placed, slot := some e.slot, masked := false, run := 0, order := s.serve.orders, resumed := x.paused, paused := false }
    let s2 := putCtx (unqueue s1 c) c (some x1)
    { s2 with serve := { s2.serve with orders := s2.serve.orders + 1 } }
  else evictForRoom q.1 b x.positions e.m q.2.2

/-- The version whose requests may be placed at a boundary (R285). -/
def placeable (s : State) (b : Nat) (x : Context) : Bool :=
  match (if xingPhase s = 3 ∧ xingBerth s = b then (berthOf s b).next else (berthOf s b).image) with
  | some im => x.version == im.version
  | none => false

/-- One waiting request at a step boundary (R254). -/
def placeOne (b : Nat) (s : State) (c : Nat) : State :=
  match ctxAt s c with
  | none => s
  | some x =>
    if x.berth ≠ b ∨ !placeable s b x then s
    else match bestSlot s b c x with
      | some e => placeIn s b c x e
      | none =>
        let k := leadStk s
        let target := rget s k HLM_CLASS_TARGET x.cls
        if target ≠ 0 ∧ target ≤ (watchNo s - x.queued).toNat ∧ ron s k HLM_CLASS_PREEMPT x.cls then
          match victim s b c x with
          | some v =>
            match (berthSlots s b).find? fun e => some e.slot == v.2.slot with
            | some e => placeIn (rbump (toQueue s v.1 v.2) k HLM_PAUSES) b c x e
            | none => s
          | none => s
        else s

/-- A request whose slot is no longer compatible with it leaves it, not as a pause, and waits at the head of its class queue
(R208, R253; notes/assumptions/49.md). -/
def backToQueue (s : State) (c : Nat) (x : Context) : State :=
  putQueue (putCtx s c (some { x with st := .waiting, slot := none, masked := false, queued := watchNo s })) x.cls
    (c :: queueAt s x.cls)

/-- A request that stays in its slot gets its pages (R254); one whose commands fail keeps the slot, is not placed in the step,
and its slot is masked (R232, R255). -/
def keepOne (b : Nat) (s : State) (q : Nat × Context) : State :=
  match (berthSlots s b).find? fun e => some e.slot == q.2.slot with
  | none => s
  | some e =>
    if !compatible s b q.1 q.2 e then backToQueue s q.1 q.2
    else
      let r := prepareAll s b q.1 q.2 e.m
      evictForRoom (putCtx r.1 q.1 (some { q.2 with masked := !r.2.1 })) b q.2.positions e.m r.2.2

/-- The placements of a step boundary, class by class, head first. -/
def placeAll (s : State) (b : Nat) : State :=
  let placed := sortBy (fun (p q : Nat × Context) => decide (p.2.slot.getD 0 ≤ q.2.slot.getD 0))
    ((berthContexts s b).filter fun q => q.2.st == .placed)
  let s1 := placed.reverse.foldl (keepOne b) s
  (List.range 4).foldl (fun s c => (queueAt s c).foldl (placeOne b) s) s1

/-- REBIND moves a request to its adapter's current version (R264). -/
def rebindOne (s : State) (q : Nat × Context) : State :=
  match currentSlot s q.2.adapter with
  | some v =>
    if q.2.rebind ∧ q.2.adapter ≠ 0xFFFF ∧ q.2.vslot ≠ some v then
      putCtx s q.1 (some { q.2 with vslot := some v, rebound := true, rebounded := true })
    else s
  | none => s

/-- REBIND moves a request to the model version of σ + 1 (R285). -/
def rebindModel (v : Nat) (s : State) (q : Nat × Context) : State :=
  if q.2.rebind ∧ q.2.version ≠ v then
    putCtx s q.1 (some { q.2 with version := v, rebound := true, rebounded := true })
  else s

/-- The crossing at a boundary of its berth: σ begins once it is drained (R285, R291), and at the boundary of σ + 1
requests with REBIND move to the new version. Each is an event of the event order (R276). -/
def crossBoundary (s : State) (b : Nat) : State :=
  if xingBerth s ≠ b then s
  else match xingPhase s with
    | 1 =>
      if blockingCount s b = 0 ∧ (!spansModules s b ∨ (berthOf s b).allReady) then
        let s1 := rput (countEvent s) (leadStk s) HLM_XING_PHASE 2
        enterSchedule s1 b (scheduleOf s1 b)
      else s
    | 3 => match (berthOf s b).next with
      | some im =>
        let s1 := (berthContexts s b).foldl (rebindModel im.version) (countEvent s)
        enterSchedule s1 b (scheduleOf s1 b)
      | none => s
    | _ => s

/-- Waiting requests that a CANCEL named end at their berth's boundary (R262). -/
def endCancelled (s : State) (b : Nat) : State :=
  endOutside s b 0 5 ((berthContexts s b).filter fun q => q.2.cancelled && q.2.st == .waiting)

/-- An event that was charged to this step abandons it (R384). -/
def applyCharged (s : State) (b : Nat) : State :=
  match (berthOf s b).charged with
  | some (cls, k, l, cause) => berthFault (putBerth s b { berthOf s b with charged := none }) b cls k l cause
  | none => s

/-- The first watch of a berth's next step: the next watch, but not before its last step's watches and the idle watches
since have passed (R439). -/
def firstWatch (s : State) (b : Nat) : Word :=
  match (berthOf s b).lastStep with
  | some w =>
    let e := w + BitVec.ofNat 32 (rget s (leadStk s) HLM_BERTH_WPS b)
    if laterWatch e (watchNo s + 1) then e else watchNo s + 1
  | none => watchNo s + 1

/-- The work of a step boundary. -/
def stepBoundary (s : State) (b : Nat) : State :=
  let s0 := endCancelled s b
  let s1 := sweepVersions ((berthContexts s0 b).foldl rebindOne s0)
  let s2 := placeAll (crossBoundary s1 b) b
  let s3 := (berthSlots s2 b).foldl (fun s e => writeSlot s b e) s2
  applyCharged (putBerth s3 b { berthOf s3 b with
    step := .running (firstWatch s3 b)
    lastStep := some (firstWatch s3 b)
    arrived := false
    released := []
    notice := none
    faulted := (berthOf s3 b).late
    late := [] }) b

/-- An idle watch: the debt falls by 100 and the next step starts one whole watch later (R439); the last step then counts as
begun so much later that its watches end there. -/
def payWatch (s : State) (b : Nat) : State :=
  let v := berthOf s b
  putBerth s b { v with
    debt := v.debt - 100
    lastStep := some (firstWatch s b + 1 - BitVec.ofNat 32 (rget s (leadStk s) HLM_BERTH_WPS b)) }

/-- STEP_BOUNDARY (R254, R255, R260, R390, R439): of an enabled berth between steps whose tiles are loaded and whose
last report is written; an idle watch pays 100 of the berth's debt instead (notes/assumptions/48.md). -/
def execStepBoundary (b : BitVec 4) (s : State) : Host.Outcome State Fault Refusal :=
  let n := b.toNat
  if berthState s n ≠ 1 ∨ (berthOf s n).step ≠ .idle ∨ (berthOf s n).rptwait ∨ !loadsHalted s n then .next s
  else if 100 ≤ (berthOf s n).debt then
    .next (rbump (payWatch s n) 0 BNC_IDLEW)
  else
    let s1 := shapeBerth s n
    .next (if berthState s1 n = 1 ∧ loadsHalted s1 n then stepBoundary s1 n else s1)

/-! ### Commit points (R257, R258) -/

/-- What a commit decides for a placed request: the context after it, STATUS, END, the tokens delivered, CLIPPED, and whether
the step's tokens are kept. -/
structure CommitOut where
  ctx     : Context
  status  : Nat
  end_    : Nat
  toks    : List Word
  clipped : Bool
  keep    : Bool
deriving DecidableEq, Repr

/-- The tokens of an output record up to the first STOP. -/
def cutStop (stop : Word) : List Word → List Word
  | [] => []
  | t :: r => if t = stop ∧ stop ≠ 0xFFFFFFFF then [t] else t :: cutStop stop r

/-- The outcome of a consuming step (R258). `small` is the smallest M that the berth's slots offer. -/
def consume (x : Context) (m small : Nat) (out : List Byte) : CommitOut :=
  let flags := leVal (out.take 4)
  let n := min 8 (leVal ((out.drop 4).take 1))
  let all := ((wordsOf ((out.drop 32).take 32)).take n).map (BitVec.ofNat 32)
  let ends := bitOf flags 2
  let cut := if ends then all else cutStop x.stop all
  let toks := cut.take (x.maxnew - x.delivered)
  let stopped := x.stop ≠ 0xFFFFFFFF ∧ toks.getLast? = some x.stop
  let empty := all.isEmpty && !ends
  let x1 := { x with
    pending := toks
    tokens := x.tokens ++ toks
    positions := x.positions + m
    delivered := x.delivered + toks.length
    run := x.run + 1
    format := x.format || bitOf flags 0 || empty }
  let code :=
    if ends ∨ empty then 2
    else if stopped then 1
    else if x.maxnew ≤ x1.delivered then 3
    else if 16384 - small < x1.positions + toks.length then 4
    else 0
  ⟨x1, 0, code, toks, bitOf flags 1, true⟩

/-- Whether a tile of a berth has read a weight scale that is NaN in the step: every request of the step takes FORMAT
(R38). -/
def stepNan (s : State) (b : Nat) : Bool :=
  (berthTiles s b).any fun r => match siteOf s r.stack.toNat r.tile.toNat with
    | some site => (tileAt s r.stack.toNat site).wnan
    | none => false

/-- The outcome of a placed request at the commit point (R257, R258, R262). FORMAT and CLIPPED come from the output record on
every step, consuming or not (R247, R259). -/
def commitOut (s : State) (b : Nat) (y : Context) (e : SlotEntry) : CommitOut :=
  let small := (berthSlots s b).foldl (fun n e => min n e.m) 16
  let out := helmPeek s e.outrec 64
  let flags := leVal (out.take 4)
  let x := { y with format := y.format || bitOf flags 0 || stepNan s b }
  if x.cancelled then ⟨x, 0, 5, [], bitOf flags 1, false⟩
  else if x.lost then ⟨x, 3, 6, [], bitOf flags 1, false⟩
  else if e.m < x.pending.length then
    ⟨{ x with pending := x.pending.drop e.m, positions := x.positions + e.m, run := x.run + 1 }, 0, 0, [], bitOf flags 1, true⟩
  else consume x e.m small out

/-- The outcomes of the requests placed in a berth's step: context number, M and outcome. -/
def outcomes (s : State) (b : Nat) : List (Nat × Nat × CommitOut) :=
  (berthContexts s b).filterMap fun q =>
    if q.2.masked then none
    else ((berthSlots s b).find? fun e => some e.slot == q.2.slot).map fun e => (q.1, e.m, commitOut s b q.2 e)

/-- The tiles' record of NaN weight scales begins anew. -/
def clearNan (s : State) (b : Nat) : State :=
  (berthTiles s b).foldl (fun s r => changeTile s r fun _ t => { t with wnan := false }) s

/-- A request goes on: the marks that its record has shown are clear. -/
def Context.shown (x : Context) : Context := { x with resumed := false, rebounded := false, format := false }

/-- Blocks that became whole in a request's chart are inserted, unless it was rebound or has NOPREFIX (R257 step 5). -/
def insertAfter (b : Nat) (s : State) (q : Nat × Nat × CommitOut) : State :=
  let x := q.2.2.ctx
  if q.2.2.end_ ≠ 0 ∨ x.rebound ∨ x.noprefix then s
  else putCtx (insertBlocks (saveTokens s b q.1 x.tokens) b q.1 x) q.1 (some { x.shown with blocks := x.positions / 64 })

/-- What a replay that commits leaves in counters and log (R374, R385). -/
def replayCommitted (s : State) (b : Nat) : State :=
  let v := berthOf s b
  if v.attempts = 0 then s
  else
    let s1 := rbump s (leadStk s) HLM_REPLAYOK
    v.faulted.foldl (fun s q => tileEvent s q.1 q.2.1 false 1 q.2.2) (putBerth s1 b { v with attempts := 0, faulted := [] })

/-- The crossing at a commit point of its berth (R288). -/
def crossCommit (s : State) (b : Nat) : State :=
  if xingBerth s ≠ b ∨ xingPhase s < 2 then s
  else match (berthOf s b).next with
    | none => s
    | some im =>
      let k := leadStk s
      if xingPhase s = 2 then rput (rput s k HLM_BVER_VERSION im.version b) k HLM_XING_PHASE 3
      else
        let s1 := activateSlot (endCrossing (rbump s k HLM_CROSSINGS)) im.name im.slot
        let s2 := match mapGet (fun _ => none) s1.img.boots b with
          | some _ => { s1 with img := { s1.img with
              boots := mapSet (fun _ => none) s1.img.boots b (some ⟨im.name, im.slot⟩) } }
          | none => s1
        let sp := (takeSpares s2 b im.steady.plans).getD (berthOf s2 b).spares
        enterSchedule (putBerth s2 b { berthOf s2 b with image := some im, next := none, live := im.area, spares := sp }) b
          (some im.steady)

/-- Idle debt of harbour throttling (R439). -/
def addDebt (s : State) (b : Nat) : State :=
  if fleetMode s then s
  else putBerth s b { berthOf s b with
    debt := (berthOf s b).debt + rget s (leadStk s) HLM_BERTH_WPS b * rget s 0 BNC_THROTTLE_APPLIED }

/-- Whether a tile's queues hold tokens at a commit point, but for the bank-free queues 25 and 26 (R137). -/
def queuesHold (t : Tile) : Bool := (List.range 25).any fun q => !(queueOf t q).toks.isEmpty

/-- Helm raises a tile fault with cause QUEUE in each tile of the berth whose queues hold tokens (R137). No instruction raises
it: its PC is 0 (DESIGN CHOICE, notes/assumptions/81.md). -/
def checkQueues (s : State) (b : Nat) : State :=
  (berthTiles s b).foldl (fun s r => changeTile s r fun _ t => if queuesHold t then tileFault t .queue 7 0 else t) s

/-- Requests that no step runs at a commit point: without a slot, or in a masked one. -/
def Context.out (x : Context) : Bool := x.slot.isNone || x.masked

/-- Requests outside the step that end at the berth's commit point: in a masked slot and named by a CANCEL (R262), or with a
frame that is out of service (R376). -/
def endLost (s : State) (b : Nat) : State :=
  let s1 := endOutside s b 0 5 ((berthContexts s b).filter fun q => q.2.cancelled && q.2.masked)
  endOutside s1 b 3 6 ((berthContexts s1 b).filter fun q => q.2.lost && q.2.out)

/-- The commit point of a berth's step (R257). -/
def commitBerth (s : State) (b : Nat) : State :=
  let outs := outcomes s b
  let recs := outs.map fun q => recordOf s q.1 q.2.2.ctx q.2.2.status q.2.2.end_ q.2.2.toks q.2.2.clipped
  let s1 := outs.foldl (fun s q => if q.2.2.keep then advAll s b q.1 q.2.1 else s)
    (endLost (countEvent (clearNan (checkQueues s b) b)) b)
  let s2 := outs.foldl (fun s q =>
    if q.2.2.end_ = 0 then putCtx s q.1 (some q.2.2.ctx.shown) else dropContext s q.1) s1
  let s3 := report (putBerth s2 b { berthOf s2 b with ended := [] }) b ((berthOf s2 b).ended ++ recs) false
  let s4 := outs.foldl (insertAfter b) s3
  let s5 := (berthStacks s4 b).foldl (fun s k => releasePins s k b) s4
  let s6 := addDebt (crossCommit (replayCommitted s5 b) b) b
  let s7 := putBerth s6 b { berthOf s6 b with step := .idle, arrived := false, released := [] }
  sweepVersions (if berthState s7 b = 2 then closeBerth s7 b else s7)

/-- What this module's lead Helm arrives with: NOTREADY in bit 0 unless its crossing is armed and drained (R350). -/
def readyValue (s : State) (b : Nat) : Nat :=
  bit !(decide (xingPhase s = 1) && decide (xingBerth s = b) && decide (blockingCount s b = 0))

/-- The lead Helm arrives at the berth's commit waypoint (R349, R350). -/
def arriveCommit (s : State) (b : Nat) : State :=
  let s1 := putBerth s b { berthOf s b with arrived := true, arrivedAt := s.cyc }
  if hostModule s b = moduleNo s then arriveHelm s1 (leadStk s) b (readyValue s b)
  else sendHelm s1 [.arrive (hostModule s b) b (readyValue s b)]

/-- A stack's part of a step is done. -/
def stackReleased (s : State) (k b : Nat) : State :=
  let v := berthOf s b
  let s1 := putBerth (releaseHelm s k (32 + b)) b { v with released := (BitVec.ofNat 3 k) :: v.released }
  if !v.arrived ∧ v.notice.isNone ∧ (berthStacks s b).all (fun j => j == k || v.released.contains (BitVec.ofNat 3 j)) then
    arriveCommit s1 b
  else s1

/-- STACK_COMMIT_RELEASE (R349, R350). -/
def execStackCommitRelease (k : BitVec 3) (b : BitVec 4) (s : State) : Host.Outcome State Fault Refusal :=
  let c := helmCounter s k.toNat (32 + b.toNat)
  match (berthOf s b.toNat).step with
  | .running _ =>
    .next (if c.expect ≤ c.count ∧ (berthStacks s b.toNat).contains k.toNat ∧ !(berthOf s b.toNat).released.contains k then
      stackReleased s k.toNat b.toNat
    else s)
  | _ => .next s

/-- The last watch of a step. -/
def lastWatch (s : State) (b : Nat) (first : Word) : Word :=
  first + BitVec.ofNat 32 (rget s (leadStk s) HLM_BERTH_WPS b - 1)

/-- COMMIT_POINT (R257, R350): in the host module the berth's commit waypoint releases; the other modules are sent the
release record. -/
def execCommitPoint (b : BitVec 4) (s : State) : Host.Outcome State Fault Refusal :=
  let n := b.toNat
  let c := helmCounter s (leadStk s) n
  match (berthOf s n).step with
  | .running first =>
    if hostModule s n ≠ moduleNo s ∨ !(berthOf s n).arrived ∨ c.count < c.expect then .next s
    else
      let s1 := sendHelm (releaseHelm s (leadStk s) n)
        ((otherModules s n).map fun m => .release m n (lastWatch s n first) (BitVec.ofNat 16 c.vmax))
      .next (commitBerth (putBerth s1 n { berthOf s1 n with allReady := c.vmax % 2 == 0 }) n)
  | _ => .next s

/-- RELEASE_RECORD (R350): another module of the berth gets its commit point. -/
def execReleaseRecord (b : BitVec 4) (w : Word) (vmax : Half) (s : State) : Host.Outcome State Fault Refusal :=
  let n := b.toNat
  match (berthOf s n).step with
  | .running first =>
    if !(berthOf s n).arrived ∨ w ≠ lastWatch s n first ∨ hostModule s n = moduleNo s then .next s
    else .next (commitBerth (putBerth s n { berthOf s n with allReady := vmax.toNat % 2 == 0 }) n)
  | _ => .next s

/-- STEP_TIMEOUT (R251, R265, R440): STEPTO has passed without the disabled berth's commit; its step is abandoned. -/
def execStepTimeout (b : BitVec 4) (s : State) : Host.Outcome State Fault Refusal :=
  let n := b.toNat
  match (berthOf s n).disableAt with
  | some w =>
    if berthState s n = 2 ∧ (berthOf s n).step ≠ .idle ∧ (watchNo s - w).toNat < 2 ^ 31 then
      .next (closeBerth (stopTiles (countEvent s) n) n)
    else .next s
  | none => .next s

/-! ### Control -/

/-- HLM_CTL.EN: the watched lines are read and held (R369). -/
def writeHelmEn (s : State) (v : Bool) : State :=
  let k := leadStk s
  if (leadOf s).isNone then s
  else
    let s1 := rput s k HLM_CTL_EN (bit v)
    if v && !ron s k HLM_CTL_EN then
      (watchedLines s1).foldl (fun s a => if watchable s a then watchRead s a else s) s1
    else s1

/-- HELM_EN (R369). -/
def execHelmEn (v : Bool) (s : State) : Host.Outcome State Fault Refusal := .next (writeHelmEn s v)

/-- HLM_LOCK (R267). -/
def execHlmLock (s : State) : Host.Outcome State Fault Refusal :=
  .next (if (leadOf s).isSome then rset s (leadStk s) HLM_CTL_LOCK else s)

end Sys2Proof.Machine
end

