-- ==== Sys2Proof/Machine/Recovery.lean ====
section
/-!
DEFINITION. Fault reports and recovery (R170, R374 to R392, R440, R441): control reports, DRAM errors, heartbeats, the
log, stress tests, replays, and thermal stops of the lead Helm.
-/

namespace Sys2Proof.Machine

/-! ### Control reports (Table 16.1) -/

/-- A tile fault reaches Helm; a fault cleared since then has no effect. -/
def reportTile (s : State) (r : TileRef) : State :=
  let k := r.stack.toNat
  match siteOf s k r.tile.toNat with
  | none => s
  | some site =>
    let t := tileAt s k site
    if tget t TIL_FAULT_VALID = 0 then s
    else match berthOfTile s r with
      | none => s
      | some b =>
        let s1 := if tileClass s t = 2 then countHardware s b k site (tget t TIL_FAULT_CAUSE) else restageSource s t.crcAt
        berthFault s1 b (tileClass s t) k r.tile.toNat (tget t TIL_FAULT_CAUSE)

/-- An operation of a tile completed other than OK: class 9, unless it was an append of a masked slot (R247, R375). -/
def reportFailed (s : State) (r : TileRef) (tag : BitVec 5) : State :=
  if s.serve.masked.contains (r, tag) then
    { s with serve := { s.serve with masked := s.serve.masked.erase (r, tag) } }
  else match berthOfTile s r with
    | some b => berthFault s b 9 r.stack.toNat 0 0
    | none => s

/-- A bank write from a staged shard that failed its CRC counts against the DRAM channel of its source
(notes/assumptions/50.md), and the shard is restaged; one from elsewhere is a schedule fault of class 3 (R84). -/
def reportBank (s : State) (r : TileRef) (ch : Nat) : State :=
  let d := bankSource s r
  let s1 := countBank s r ch
  match berthOfTile s r with
  | some b => berthFault s1 b (if crcStaged s d then 4 else 3) r.stack.toNat 0 0
  | none => s1

/-- A report acts as its kind says. -/
def reportEffect (s : State) (r : Report) : State :=
  match r with
  | .tileFault t => reportTile s t
  | .opFailed t tag _ => reportFailed s t tag
  | .bankCrc t ch => reportBank s t ch.toNat
  | .chartFault k => stackFault (logCount s (helmUnit k.toNat) true 1 0).1 7 k.toNat

/-- The stack in which a report enters the network. -/
def reportStack : Report → Nat
  | .tileFault r => r.stack.toNat
  | .opFailed r _ _ => r.stack.toNat
  | .bankCrc r _ => r.stack.toNat
  | .chartFault k => k.toNat

/-- CONTROL_REPORT (R170, R374, R384): the report, a flit of channel 0 (Table 12.2), leaves the control channel and its fault
is answered. -/
def execControlReport (r : Report) (s : State) : Host.Outcome State Fault Refusal :=
  .next (reportEffect (countFlits { s with reports := s.reports.erase r } (reportStack r) 0 1) r)

/-! ### DRAM errors (R374 to R376) -/

/-- DRAM_CORRECTED: a transient event of the channel. -/
def execDramCorrected (k : BitVec 3) (ch : BitVec 5) (s : State) : Host.Outcome State Fault Refusal :=
  .next (logCount s (dramUnit k.toNat ch.toNat) false 1 0).1

/-- The KV frame that holds a DRAM offset of stack `k`. -/
def frameAt (s : State) (k off : Nat) : Option Nat :=
  let size := rget s k CHT_LAYOUT_FRAMESZ * 4096
  let base := chartBase s k + poolOff s k
  if chartBase s k ≠ 0 ∧ 0 < size ∧ base ≤ off ∧ (off - base) / size < frameCount s k then some ((off - base) / size)
  else none

/-- Whether the chart of a context in stack `k` maps frame `f`. -/
def mapsFrame (s : State) (k c f : Nat) : Bool :=
  let r := rootOf s k c
  (chartPlaces r).any fun q => (getPle s k r q.1 q.2).v && (getPle s k r q.1 q.2).frame == f

/-- Whether the page list of a context in stack `k` holds a DRAM offset. -/
def listHolds (s : State) (k c off : Nat) : Bool :=
  let r := rootOf s k c
  let a := chartBase s k + r.list
  decide (0 < r.layers) && decide (a ≤ off) && decide (off < a + 8 * r.layers * r.ppl)

/-- The contexts that `p` names are to end with TIMEOUT at their berths' next commit points (R376). -/
def loseContexts (s : State) (p : Nat → Bool) : State :=
  { s with serve := { s.serve with contexts := (s.serve.contexts.map fun q => match q.2 with
    | some x => if p q.1 then (q.1, some { x with lost := true }) else q
    | none => q) } }

/-- The KV data at a DRAM offset is lost: its frame is taken out of service, or the contexts whose page list holds it
are lost. -/
def retireAt (s : State) (k off : Nat) (o : Option Nat) : State :=
  match o with
  | some f => retireFrame (loseContexts s fun c => mapsFrame s k c f) k f
  | none => if inChart s k off 1 then loseContexts s fun c => listHolds s k c off else s

/-- The lowest context whose data an offset of the chart area holds, or 0 where none is known. -/
def lostContext (s : State) (k off : Nat) (o : Option Nat) : Nat :=
  match s.serve.contexts.find? fun q => q.2.isSome && match o with
      | some f => mapsFrame s k q.1 f
      | none => listHolds s k q.1 off with
  | some q => q.1
  | none => 0

/-- An uncorrectable error in the chart area: CORRUPT and the context that it concerns (Table 9.13). -/
def noteCorrupt (s : State) (k off : Nat) (o : Option Nat) : State :=
  if inChart s k off 1 then rput (rset s k CHT_FAULT_CORRUPT) k CHT_FAULT_CONTEXT (lostContext s k off o) else s

/-- What an uncorrectable error destroys: a staged shard is restaged, a frame is taken out of service. -/
def repairData (s : State) (k off : Nat) : State :=
  let s1 := restageAt s k off
  retireAt (noteCorrupt s1 k off (frameAt s1 k off)) k off (frameAt s1 k off)

/-- The berths that an uncorrectable error concerns: those whose image or DRAM range holds it, or else all of the
stack. -/
def errorBerths (s : State) (k off : Nat) : List Nat :=
  let own := (List.range 16).filter fun b => (imagesAt s off).any (fun q => q.1 == b) || match berthPlan s b k with
    | some p => p.ranges.any fun r => decide (r.1 ≤ off) && decide (off < r.1 + r.2)
    | none => false
  if own.isEmpty then (List.range 16).filter fun b => (berthStacks s b).contains k else own

/-- The reads of a DRAM offset under way: what met the error completes never, and its issuer times out (class 6 of
Table 16.1). -/
def withholdReads (s : State) (k off : Nat) : State :=
  { s with net := s.net.filter fun p => !([PktOp.get, .add32, .add64, .ladd, .cas64].contains p.op
    && addrModule p.dest == moduleNo s && addrStack p.dest == k && addrRegion p.dest == 0
    && decide (addrOff p.dest ≤ off) && decide (off < addrOff p.dest + p.len)) }

/-- DRAM_UNCORRECTABLE (R376): a repeated event of the channel; the data is restaged or retired and the steps that it
concerns are abandoned. -/
def execDramUncorrectable (e : DramErr) (s : State) : Host.Outcome State Fault Refusal :=
  let k := e.stack.toNat
  let s1 := repairData (logCount (withholdReads s k e.off) (dramUnit k e.channel.toNat) true 1 0).1 k e.off
  .next ((errorBerths s k e.off).foldl (fun s b => berthFault s b 6 k 0 0) s1)

/-! ### Heartbeats and the watchdog (R382, Table 16.4) -/

/-- HEARTBEAT (R382): a Helm's heartbeat, a control write on channel 3, reaches Binnacle. -/
def execHeartbeat (k : BitVec 3) (s : State) : Host.Outcome State Fault Refusal :=
  .next (countFlits (putStk s k.toNat { stkOf s k.toNat with beat := s.tick }) k.toNat 3 1)

/-- The block of a stack's Helm (Table 18.3). -/
def helmBlock (k : Nat) : UnitRef := ⟨1, BitVec.ofNat 3 k, 0⟩

/-- HEARTBEAT_TIMEOUT (R382): 10 ms without a heartbeat of a released Helm. The lead Helm's resets the module; another
Helm is reset, and every berth that uses the stack abandons its step. -/
def execHeartbeatTimeout (k : BitVec 3) (s : State) : Host.Outcome State Fault Refusal :=
  let n := k.toNat
  let s1 := elapseToTick s ((stkOf s n).beat + 10000000)
  if !binnacleRuns s ∨ s.rst.domains < 7 ∨ wrapperClosed s 1 n 0 ∨ s1.tick < (stkOf s n).beat + 10000000 then .next s
  else
    let s2 := (logCount s1 (helmUnit n) true 1 0).1
    if leadOf s2 = some n then .next (moduleReset s2 8 false)
    else .next (stackFault (startBlock (rbump s2 (leadStk s2) HLM_HBMISS) (helmBlock n) false) 11 n)

/-- WATCHDOG (Table 16.4, R415): Binnacle's watchdog expires and resets the module. -/
def execWatchdog (s : State) : Host.Outcome State Fault Refusal := .next (moduleReset (logExtra s 12) 4 true)

/-- LOG_APPEND (R378): changed entries are appended to NOR. -/
def execLogAppend (s : State) : Host.Outcome State Fault Refusal :=
  .next (if binnacleRuns s then logFlush s else s)

/-! ### Field stress tests (R391, R392) -/

/-- Whether an enabled berth uses a tile in this watch: a step of it runs, awaits its replay or is being loaded. -/
def usedNow (s : State) (b : Nat) (r : TileRef) : Bool :=
  (berthState s b == 1 || berthState s b == 2) && (berthTiles s b).contains r
    && ((berthOf s b).step != .idle || (berthOf s b).loading.contains r)

/-- Whether a tile may be stressed (R391): mapped, used by no enabled berth in this watch, running from PLL 1, and with its rail
5 % below nominal. -/
def stressable (s : State) (r : TileRef) : Bool :=
  let k := r.stack.toNat
  (siteOf s k r.tile.toNat).isSome && !(List.range 16).any (fun b => usedNow s b r)
    && bitOf (rget s k CLK_TSEL_SEL (r.tile.toNat / 32)) (r.tile.toNat % 32) && ron s k PWR_STK_CTL_STRESS_EN
    && decide (rget s k PWR_STK_CTL_STRESS_TILE = r.tile.toNat)

/-- A failed stress test: a repeated event, STRESS one higher, and the unit retired at its second (R391, R392). -/
def stressFail (s : State) (k site : Nat) : State :=
  let s1 := tileEvent s k site true 1 0
  match logEntryOf s1 (tileUnit k site) with
  | some e =>
    let n := min 255 (e.stress + 1)
    storeEntry s1 { e with stress := n, st := if 2 ≤ n then 3 else e.st } (decide (2 ≤ n))
  | none => s1

/-- STRESS_TEST (R391). -/
def execStressTest (r : TileRef) (pass : Bool) (s : State) : Host.Outcome State Fault Refusal :=
  if !ron s (leadStk s) HLM_RCV_CTL_STRESS_EN || !stressable s r then .next s
  else
    let s1 := rbump s (leadStk s) HLM_STRESSRUN
    match siteOf s r.stack.toNat r.tile.toNat with
    | some site => .next (if pass then s1 else stressFail s1 r.stack.toNat site)
    | none => .next s1

/-! ### Replays and notices (R385, R386) -/

/-- REPLAY_WATCH (R385 step 7): at the replay watch the step runs again. -/
def execReplayWatch (b : BitVec 4) (s : State) : Host.Outcome State Fault Refusal :=
  let n := b.toNat
  match (berthOf s n).step with
  | .replay _ w =>
    if (watchNo s - w).toNat < 2 ^ 31 ∧ loadsHalted s n then
      let s1 := putBerth (setReplaying s n 0) n { berthOf s n with step := .running (watchNo s), lastStep := some (watchNo s), arrived := false, released := [] }
      .next (applyCharged (startLoaded s1 n) n)
    else .next s
  | _ => .next s

/-- ABANDON_NOTICE (R386): the host module sends an abandon record to every module of the berth, itself included. -/
def execAbandonNotice (b : BitVec 4) (first : Word) (m : BitVec 10) (s : State) : Host.Outcome State Fault Refusal :=
  let n := b.toNat
  if hostModule s n ≠ moduleNo s ∨ !(berthModules s n).contains m ∨ (berthOf s n).step ≠ .running first then .next s
  else .next (abandonNow (sendRecords s n first (replayFrom s)) n 13 0 0 0 (replayFrom s))

/-- ABANDON_RECORD (R386): a module abandons the named step; duplicates are ignored. -/
def execAbandonRecord (b : BitVec 4) (first replay : Word) (s : State) : Host.Outcome State Fault Refusal :=
  let n := b.toNat
  if (berthOf s n).step ≠ .running first then .next s else .next (abandonNow s n 13 0 0 0 replay)

/-- ABANDON_NOTICE_TIMEOUT (R386): 10 ms after a notice no record has come, and the berth is disabled locally. -/
def execAbandonNoticeTimeout (b : BitVec 4) (s : State) : Host.Outcome State Fault Refusal :=
  let n := b.toNat
  match (berthOf s n).notice with
  | some (_, t) =>
    let s1 := elapseToTick s (t + 10000000)
    if s1.tick < t + 10000000 ∨ berthState s n ≠ 1 then .next s1
    else .next (disableBerth (putBerth s1 n { berthOf s1 n with notice := none }) n none)
  | none => .next s

/-! ### Thermal stops (R266, R440, R441) -/

/-- A berth at a thermal stop event: it commits its current step, or ends at once between steps. -/
def thermalBerth (s : State) (b : Nat) : State :=
  if (berthState s b ≠ 1 ∧ berthState s b ≠ 2) ∨ finalMade s b then s
  else
    let v := berthOf s b
    let s1 := putBerthState (putBerth s b { v with
      thermal := true
      disableAt := some (v.disableAt.getD (stepLimit s b)) }) b 2
    if v.step = .idle then sendThermal s1 b else s1

/-- A thermal stop event enters the event order (R251, R266). -/
def thermalStop (s : State) : State :=
  if (leadOf s).isNone then orderlyStop s
  else stopAfterLast ((List.range 16).foldl thermalBerth (rset (countEvent s) (leadStk s) HLM_STATUS_THERMSTOP))

/-- THERMAL_STOP_EVENT (R266, R440 step 2): the event of an orderly stop that Binnacle has begun, which the lead Helm has not
yet taken; without one it changes nothing (notes/assumptions/63.md). -/
def execThermalStopEvent (s : State) : Host.Outcome State Fault Refusal :=
  .next (if ron s 0 BNC_STATUS_THERMSTOP && !ron s (leadStk s) HLM_STATUS_THERMSTOP then thermalStop s else s)

/-- What a thermal notice does to the berth in this module: its step is abandoned if it has started, and its requests end with
THERMAL (R441). -/
def endThermal (s : State) (b : Nat) : State :=
  if (berthState s b ≠ 1 ∧ berthState s b ≠ 2) ∨ finalMade s b then s
  else stopAfterLast (finishBerth (if (berthOf s b).step = .idle then s else stopTiles s b) b 2)

/-- THERMAL_NOTICE (R441): the host module forwards it to every module of the berth, and the berth's requests end here. -/
def execThermalNotice (b : BitVec 4) (s : State) : Host.Outcome State Fault Refusal :=
  let n := b.toNat
  .next (endThermal (if hostModule s n = moduleNo s then
      sendHelm s ((otherModules s n).map fun m => .thermal m n)
    else s) n)

end Sys2Proof.Machine
end

