-- ==== Sys2Proof/Machine/FleetOps.lean ====
section
/-!
DEFINITION. Fleet ports, discovery and the alignment tree (R311 to R319, R327, R335, R340).
-/

namespace Sys2Proof.Machine

/-! ### Packets from flits (Table 13.7) -/

/-- The operation that an OP code names; 14 to 255 are reserved. -/
def opOf : Nat → Option PktOp
  | 0 => some .put
  | 1 => some .get
  | 2 => some .add32
  | 3 => some .add64
  | 4 => some .ladd
  | 5 => some .cas64
  | 6 => some .mput
  | 7 => some .arrive
  | 8 => some .completion
  | 9 => some .getData
  | 10 => some .regAccess
  | 11 => some .control
  | 12 => some .hail
  | 13 => some .numbers
  | _ => none

/-- The status that a code names (Table 6.14). -/
def statusOf (n : Nat) : Status :=
  if n = 0 then .ok else if n = 1 then .fenced else if n = 2 then .aborted else .timeout

/-- The issuer that SRC and a module tag name (R329). -/
def sourceOf (m : BitVec 10) (tag : Nat) : Source :=
  let k := BitVec.ofNat 3 (tag / 2 ^ 14)
  let n := tag % 2 ^ 14
  if n < 15360 then .tile m ⟨k, BitVec.ofNat 9 (n / 32)⟩
  else if n < 15392 then .helm m k false
  else if n < 15424 then .sextant k
  else if 15488 ≤ n ∧ n < 15520 then .helm m k true
  else .walker k

/-- Payload bytes by operation and LEN. -/
def payloadLen (op : PktOp) (len : Nat) : Nat :=
  match op with
  | .put => len
  | .add32 => 4 * len
  | .add64 => 8 * len
  | .ladd => 16 * len
  | .cas64 => 16
  | .arrive => 2
  | .completion => len
  | .getData => len
  | .mput => len
  | .get => 0
  | .regAccess => len
  | .control => len
  | .hail => len
  | .numbers => len

/-- A field of `n` bytes at offset `o`. -/
def byteField (bs : List Byte) (o n : Nat) : Nat := leVal ((bs.drop o).take n)

/-- The targets that a packet's first flit names (`listFlit`, `ownBytes`). -/
def targetsOf (op : PktOp) (bs : List Byte) : List (Nat × Dword) :=
  if op = .mput then
    let n := min 16 (byteField bs 32 8)
    (List.range n).map fun i => (byteField bs (40 + 8 * n + i) 1, BitVec.ofNat 64 (byteField bs (40 + 8 * i) 8))
  else if byteField bs 21 1 = 1 then [(byteField bs 22 2, BitVec.ofNat 64 (byteField bs 24 8))]
  else []

/-- The packet that some flits spell, as it comes in by port `p`. -/
def packetOf (p : Nat) (op : PktOp) (bs : List Byte) : Packet :=
  { op := op
    dest := BitVec.ofNat 64 (byteField bs 0 8)
    src := sourceOf (BitVec.ofNat 10 (byteField bs 8 2)) (bitsOf (byteField bs 10 3) 0 17)
    tag := BitVec.ofNat 5 (byteField bs 10 3)
    turn := BitVec.ofNat 4 (bitsOf (byteField bs 10 3) 17 4)
    len := byteField bs 16 2
    data := (bs.drop (if op = .mput then 288 else 32)).take (payloadLen op (byteField bs 16 2))
    status := statusOf (bitsOf (byteField bs 18 2) 0 4)
    sat := bitOf (byteField bs 18 2) 4
    targets := targetsOf op bs
    upper := bitOf (byteField bs 14 1) 3
    port := some (BitVec.ofNat 4 p)
    reduction := decide (op = .completion) && decide (bitsOf (byteField bs 14 1) 0 2 = 1) }

/-- What stands at the head of the flits of port `p`, once they hold all of it, and the flits after it: a packet, or nothing
where OP is reserved. -/
def headPacket (p : Nat) (fl : List (List Byte)) : Option (Option Packet × List (List Byte)) :=
  match fl with
  | [] => none
  | f :: _ =>
    let n := max 1 (byteField f 15 1)
    if n ≤ fl.length then some ((opOf (byteField f 13 1)).map fun op => packetOf p op (fl.take n).flatten, fl.drop n) else none

/-! ### Ports -/

/-- FLT_STATUS and discovery bits appear alike on every link die. -/
def fltAll (s : State) (f : Fld) (v : Nat) : State := (List.range 4).foldl (fun s d => rput s (dieStack d) f v) s

/-- FLEETREV (R335). -/
def refreshRev (s : State) : State := rput s 0 FLT_REV_FLEETREV (fleetRev s)

/-- A response to the issuer of a packet that a port discarded (R327). -/
def dropPacket (s : State) (p : Packet) : State :=
  if isResponse p then s else endPacket s (addrStack (issuerAddr s p.src)) p .timeout

/-- A port leaves UP (R319, R327, R341): the flits queued for it are discarded and their issuers get TIMEOUT; when it is the
port to the parent the module enters holdover, and with the last UP port it leaves its fleet. -/
def leaveUp (s : State) (p : Nat) : State :=
  if pget s p FLT_PORT_STATE ≠ 4 then s
  else
    let v := portOf s p
    let s1 := rbump (putPort s p { v with replay := [], queued := [], resent := [], waiting := [] }) (portStack p) FLT_DROPPED
      (v.replay.length + v.waiting.length)
    let s2 := v.queued.foldl (fun s q => dropPacket s q.2) (pput (pput s1 p FLT_PORT_STATE 0) p FLT_PORT_NBRVALID 0)
    loseNumber (enterHoldover (refreshRev s2) p)

/-- FLT_PORT_n.EN of a port (R312). -/
def writePortEn (s : State) (p : Nat) (v : Bool) : State :=
  if v then pput s p FLT_PORT_EN 1
  else
    let s1 := leaveUp s p
    let w := portOf s1 p
    let s2 := putPort s1 p { w with attempts := 0, locked := false, retrain := false, eqStored := false, sentId := none }
    pput (pput (pput (pput s2 p FLT_PORT_EN 0) p FLT_PORT_STATE 0) p FLT_PORT_CAUSE 0) p FLT_PORT_NBRVALID 0

/-- A port stays DOWN or REFUSED until EN is rewritten, and Binnacle records it (R312). -/
def lockPort (s : State) (p state_ cause : Nat) : State :=
  let s1 := putPort s p { portOf s p with locked := true, retrain := false }
  logExtra (pput (pput s1 p FLT_PORT_STATE state_) p FLT_PORT_CAUSE cause) 8

/-- A lane's event; a lasting lane clears the port's EN (Table 16.2). -/
def laneEvent (s : State) (p lane : Nat) (repeated : Bool) : State :=
  let r := logCount s (fleetLaneUnit p lane) repeated 1 0
  if r.2 then writePortEn r.1 p false else r.1

/-- The events of the lanes that a mask names. -/
def laneEvents (s : State) (p : Nat) (mask : BitVec 8) (repeated : Bool) : State :=
  (List.range 8).foldl (fun s i => if mask.getLsbD i then laneEvent s p i repeated else s) s

/-- A retrain of a port (R381): it leaves UP and repeats ALIGN and IDENT with its stored equalisation. -/
def retrainPort (s : State) (p : Nat) : State :=
  if pget s p FLT_PORT_STATE ≠ 4 then s
  else
    let s1 := rbump (leaveUp s p) (portStack p) FLT_RETRAINS
    pput (putPort s1 p { portOf s1 p with retrain := true, replays := 0, nak := false, sentId := none }) p FLT_PORT_STATE 2

/-- Berths whose schedule sends on a port and needs a revision above the port's (R335). -/
def revFaults (s : State) (p rev : Nat) : List Nat :=
  (List.range 16).filter fun b => match (berthOf s b).image with
    | some im => im.steady.ports.contains (BitVec.ofNat 4 p) && decide (rev < im.steady.minRev)
    | none => false

/-- The number of a serial. -/
def numberOf (l : List (Dword × BitVec 10)) (x : Dword) : Option (BitVec 10) := (l.find? fun q => q.1 == x).map fun q => q.2

/-- NBRMOD of the ports whose neighbour has a number. -/
def fillNeighbours (s : State) : State :=
  (upPorts s).foldl (fun s p => match numberOf s.fleet.numbers (portOf s p).nbr with
    | some n => pput s p FLT_PORT_NBRMOD n.toNat
    | none => s) s

/-- IDENT ends (R314, R315): UP, or REFUSED with its cause. -/
def checkIdentity (s : State) (p : Nat) (f : Identity) : State :=
  let neg := min f.revMax.toNat (rget s 0 FLT_REV_REVMAX)
  let own := rget s 0 CHR_EPOCH_EPOCH
  if f.serial = s.lsr.fuses.serial then lockPort s p 5 4
  else if neg < max f.revMin.toNat (rget s 0 FLT_REV_REVMIN) then lockPort s p 5 3
  else if own ≠ 0 ∧ f.epoch.toNat ≠ 0 ∧ own ≠ f.epoch.toNat then lockPort s p 5 5
  else
    let s1 := putPort s p { portOf s p with attempts := 0, retrain := false, nbr := f.serial }
    let s2 := pput (pput (pput s1 p FLT_PORT_STATE 4) p FLT_PORT_NEGREV neg) p FLT_PORT_NBRPORT f.port.toNat
    let s3 := fillNeighbours (refreshRev (pput (pput s2 p FLT_PORT_NBRVALID 1) p FLT_PORT_CAUSE 0))
    (revFaults s3 p neg).foldl (fun s b => berthFault s b 9 0 0 0) s3

/-! ### Frames (R311) -/

/-- Whether a frame's CRC-32C over the flit and trailer bits [31:0] is right. -/
def frameGood (f : Frame) : Bool :=
  crc32c (f.flit ++ leBytes 4 f.trailer.toNat) == f.trailer.extractLsb' 32 32

/-- An acknowledgement up to SEQ `ack`: those frames leave the replay buffer, oldest first. -/
def ackFrames (v : PortSt) (ack : Nat) : PortSt :=
  let old := fun (q : Nat) => decide ((ack + 4096 - q) % 4096 < 256)
  { v with
    replay := (v.replay.filter fun q => !old q.1)
    queued := (v.queued.filter fun q => !old q.1)
    replays := if v.replay.any fun q => old q.1 then 0 else v.replays }

/-- ACK and NAK of a good frame: a NAK replays every frame that is not acknowledged. -/
def takeAck (s : State) (p : Nat) (t : Dword) : State :=
  let v := if bitOf t.toNat 24 then ackFrames (portOf s p) (bitsOf t.toNat 12 12) else portOf s p
  if bitOf t.toNat 25 then
    rbump (putPort s p (sendWaiting { v with
      resent := (v.replay.map fun q => q.1)
      replays := v.replays + 1
      sent := v.sent ++ v.replay.map (frameOf v) })) (portStack p) FLT_REPLAYS v.replay.length
  else putPort s p (sendWaiting { v with resent := [] })

/-- A packet that came in by port `p` goes on (R326): port to port, or into the meshes at the port's attach stack; one that
carries a register access or a control message for another module leaves at once by its port. -/
def enterPacket (s : State) (p : Nat) (q : Packet) : State :=
  if addrModule q.dest ≠ moduleNo s ∧ (q.op = .regAccess ∨ q.op = .control) then routeOut s q (addrModule q.dest).toNat
  else if portToPort s q then { s with net := s.net ++ [q] }
  else sendPacket s (portStack p) q

/-- A flit is accepted; a packet that is whole enters the network. What hail and numbers packets carry reaches the lead Helm
by the commands HAIL and NUMBERS (notes/assumptions/87.md). -/
def acceptFlit (s : State) (p : Nat) (flit : List Byte) : State :=
  let v := portOf s p
  let fl := v.flits ++ [flit]
  match headPacket p fl with
  | some (some q, rest) =>
    let s1 := putPort s p { v with flits := rest }
    if q.op = .hail ∨ q.op = .numbers then s1 else enterPacket s1 p q
  | some (none, rest) => putPort s p { v with flits := rest }
  | none => putPort s p { v with flits := fl }

/-- A received frame. -/
def receiveFrame (s : State) (p : Nat) (f : Frame) : State :=
  let v := portOf s p
  if !frameGood f then laneEvents (putPort s p { v with nak := true }) p f.fecLanes false
  else if f.trailer.toNat % 4096 ≠ v.rxSeq then putPort s p { v with nak := true }
  else
    let s1 := takeAck (putPort s p { v with rxSeq := (v.rxSeq + 1) % 4096, nak := false, heard := true }) p f.trailer
    acceptFlit s1 p f.flit

/-! ### Discovery (R316 to R319) -/

/-- This module's serial. -/
def ownSerial (s : State) : Dword := s.lsr.fuses.serial

/-- The HINT of identity and hail records. -/
def hintWord (s : State) : BitVec 16 :=
  match s.fleet.hint with
  | some h => BitVec.ofNat 16 (h.toNat + 2 ^ 15)
  | none => 0

/-- This module's hail record of the present ROUND. -/
def ownHail (s : State) : HailRec where
  serial := ownSerial s
  hint := hintWord s
  grade := BitVec.ofNat 8 (Config.tilesPerStack / 16)
  revMin := BitVec.ofNat 8 (rget s 0 FLT_REV_REVMIN)
  revMax := BitVec.ofNat 8 (rget s 0 FLT_REV_REVMAX)
  round := BitVec.ofNat 8 (rget s 0 FLT_STATUS_ROUND)
  ports := (List.range 16).map fun p =>
    ⟨BitVec.ofNat 3 (pget s p FLT_PORT_STATE), (portOf s p).nbr, BitVec.ofNat 4 (pget s p FLT_PORT_NBRPORT)⟩

/-- The identity frame that a port sends (Table 13.3). -/
def ownIdentity (s : State) (p : Nat) : Identity where
  serial := ownSerial s
  hint := hintWord s
  port := BitVec.ofNat 8 p
  grade := BitVec.ofNat 8 (Config.tilesPerStack / 16)
  revMin := BitVec.ofNat 8 (rget s 0 FLT_REV_REVMIN)
  revMax := BitVec.ofNat 8 (rget s 0 FLT_REV_REVMAX)
  epoch := BitVec.ofNat 8 (rget s 0 CHR_EPOCH_EPOCH)

/-- A hail record sent on every UP port but one. -/
def floodHail (s : State) (r : HailRec) (but : Option Nat) : State :=
  { s with fleet := { s.fleet with
    sentHails := s.fleet.sentHails ++ ((upPorts s).filter fun p => some p != but).map fun p => (p, r) } }

/-- The own record of the present ROUND is stored and sent. -/
def hailAgain (s : State) : State :=
  let r := ownHail s
  floodHail { s with fleet := { s.fleet with hails := [r], lastNew := s.tick } } r none

/-- Discovery fails (R317). -/
def failDiscovery (s : State) : State := fltAll s FLT_STATUS_DISC 5

/-- Whether some port is in EQ, ALIGN or IDENT. -/
def portsTrain (s : State) : Bool :=
  (List.range 16).any fun p => decide (1 ≤ pget s p FLT_PORT_STATE) && decide (pget s p FLT_PORT_STATE ≤ 3)

/-- Discovery waits for its ports to train (FLT_STATUS.DISC 1), or hails at once. -/
def trainOrHail (s : State) (training : Bool) : State :=
  if training then fltAll { s with fleet := { s.fleet with hails := [] } } FLT_STATUS_DISC 1
  else hailAgain (fltAll s FLT_STATUS_DISC 2)

/-- The module goes over to ROUND `r` (R316, R317): the sixteenth advance fails discovery. -/
def advanceRound (s : State) (r : Nat) : State :=
  let s1 := fltAll (fltAll s FLT_STATUS_ROUND r) FLT_STATUS_PILOT 0
  let s2 := { s1 with fleet := { s1.fleet with advances := s1.fleet.advances + 1 } }
  if 16 ≤ s2.fleet.advances then failDiscovery s2 else trainOrHail s2 (rget s 0 FLT_STATUS_DISC == 1)

/-- A discovery begins at ROUND `r` (R316), by DISCOVER or by another module's hail: FLT_MOD.HINT shows the number held
before, the advances of ROUND count from 0, and the holdover of the last tree ends (R317, R341). While ports train, it
begins in training (R337, notes/assumptions/107.md). -/
def beginDiscovery (s : State) (r : Nat) (training : Bool) : State :=
  let h := if ron s 0 FLT_MOD_VALID then some (moduleNo s) else s.fleet.hint
  let s1 := rput s 0 FLT_MOD_HINT (match h with
    | some x => x.toNat
    | none => 0)
  let s2 := { s1 with fleet := { s1.fleet with advances := 0, hails := [] } }
  let s3 := rput (fltAll (fltAll s2 FLT_STATUS_ROUND r) FLT_STATUS_PILOT 0) 0
    CHR_STATUS_HOLDOVER 0
  trainOrHail s3 training

/-- Whether the module is to be in a fleet: FLEET_EN of link die 0 (R319, notes/assumptions/89.md). -/
def fleetOn (s : State) : Bool := ron s 0 FLT_CTL_FLEET_EN

/-- A discovery begins with a new ROUND (R316). -/
def startDiscovery (s : State) (training : Bool) : State :=
  if fleetOn s then beginDiscovery s ((rget s 0 FLT_STATUS_ROUND + 1) % 256) training else s

/-- The records stored, with this module's own as it is now. -/
def withOwnHail (s : State) : List HailRec := ownHail s :: s.fleet.hails.filter fun r => r.serial != ownSerial s

/-- Once no port trains, the module hails: its record joins those that came meanwhile (R316). -/
def endTraining (s : State) : State :=
  if rget s 0 FLT_STATUS_DISC = 1 ∧ !portsTrain s then
    let s1 := fltAll s FLT_STATUS_DISC 2
    floodHail { s1 with fleet := { s1.fleet with hails := withOwnHail s1, lastNew := s1.tick } } (ownHail s1) none
  else s

/-- The module is in its fleet again when a port comes UP after the last had gone (R319, notes/assumptions/108.md). -/
def regainNumber (s : State) : State :=
  match numberOf s.fleet.numbers (ownSerial s) with
  | some n =>
    if fleetOn s ∧ rget s 0 FLT_STATUS_DISC = 4 ∧ !ron s 0 FLT_MOD_VALID then
      fillNeighbours (rput (rput (rput s 0 FLT_MOD_NUMBER n.toNat) 0 FLT_MOD_COUNT s.fleet.numbers.length) 0 FLT_MOD_VALID 1)
    else s
  | none => s

/-- A port that has come UP (R316, R319): a discovery that runs sends this module's record, renewed, on it too. -/
def portUp (s : State) (p : Nat) : State :=
  let d := rget s 0 FLT_STATUS_DISC
  if d = 2 ∨ d = 3 then
    { s with fleet := { s.fleet with hails := withOwnHail s, sentHails := s.fleet.sentHails ++ [(p, ownHail s)] } }
  else endTraining (regainNumber s)

/-- A record of the present ROUND: stored and forwarded once when it is new. -/
def storeHail (s : State) (p : Nat) (r : HailRec) : State :=
  if s.fleet.hails.any fun x => x.serial == r.serial then s
  else if 1024 ≤ s.fleet.hails.length then failDiscovery s
  else floodHail { s with fleet := { s.fleet with hails := s.fleet.hails ++ [r], lastNew := s.tick } } r (some p)

/-- Whether a discovery runs: training, hailing or numbering. -/
def discovering (s : State) : Bool := decide (1 ≤ rget s 0 FLT_STATUS_DISC) && decide (rget s 0 FLT_STATUS_DISC ≤ 3)

/-- A hail record arrives: a higher ROUND is adopted, in the discovery that runs or as the start of one; a record of the
present ROUND is stored and forwarded when it is new (R316). -/
def takeHail (s : State) (p : Nat) (r : HailRec) : State :=
  let own := rget s 0 FLT_STATUS_ROUND
  if !fleetOn s then s
  else if own < r.round.toNat then
    let s1 := if discovering s then advanceRound s r.round.toNat else beginDiscovery s r.round.toNat (portsTrain s)
    if rget s1 0 FLT_STATUS_DISC = 5 then s1 else storeHail s1 p r
  else if r.round.toNat = own then storeHail s p r
  else s

/-- The serials of a view, in ascending order, and their CRC-32C. -/
def viewSerials (s : State) : List Dword :=
  sortBy (fun (a b : Dword) => decide (a.toNat ≤ b.toNat)) (s.fleet.hails.map fun r => r.serial)
def serialCrc (l : List Dword) : Word := crc32c (l.flatMap fun x => leBytes 8 x.toNat)

/-- Numbers of the modules whose HINT is valid and below M: the lowest SERIAL keeps a number (R318 step 1). `rs` are
the records in ascending order of SERIAL. -/
def keptNumbers (m : Nat) (rs : List HailRec) : List (Dword × BitVec 10) :=
  rs.foldl (fun l r =>
    let h := r.hint.extractLsb' 0 10
    if r.hint.getLsbD 15 && decide (h.toNat < m) && !l.any (fun q => q.2 == h) then l ++ [(r.serial, h)] else l) []

/-- The numbers of R318, by ascending SERIAL. -/
def assignNumbers (s : State) : List (Dword × BitVec 10) :=
  let rs := sortBy (fun (a b : HailRec) => decide (a.serial.toNat ≤ b.serial.toNat)) s.fleet.hails
  let kept := keptNumbers rs.length rs
  let free := (List.range rs.length).filter fun n => !kept.any fun q => q.2.toNat == n
  (rs.foldl (fun (q : List (Dword × BitVec 10) × List Nat) r =>
    match kept.find? fun x => x.1 == r.serial with
    | some x => (q.1 ++ [x], q.2)
    | none => (q.1 ++ [(r.serial, BitVec.ofNat 10 (nth q.2 0))], q.2.drop 1)) ([], free)).1

/-! ### The alignment tree (R340) -/

/-- The hail record of module `m`. -/
def hailOf (s : State) (m : BitVec 10) : Option HailRec :=
  s.fleet.hails.find? fun r => numberOf s.fleet.numbers r.serial == some m

/-- The UP neighbours of a module: port and module number. -/
def neighbours (s : State) (m : BitVec 10) : List (Nat × BitVec 10) :=
  match hailOf s m with
  | some r => r.ports.zipIdx.filterMap fun q =>
      if q.1.state = 4 then (numberOf s.fleet.numbers q.1.nbrSerial).map fun n => (q.2, n) else none
  | none => []

/-- Port hops from module 0, one list of modules for each depth, at most `fuel` of them. -/
def treeLevels (s : State) : Nat → List (List (BitVec 10)) → List (List (BitVec 10))
  | 0, l => l
  | fuel + 1, l =>
    match l.getLast? with
    | none => l
    | some front =>
      let next := (front.flatMap fun m => (neighbours s m).map fun q => q.2).eraseDups.filter fun n =>
        !l.any fun lv => lv.contains n
      if next.isEmpty then l else treeLevels s fuel (l ++ [next])

/-- The modules by depth. -/
def alignLevels (s : State) : List (List (BitVec 10)) := treeLevels s (moduleCount s) [[0]]

/-- The depth of a module. -/
def depthOf (s : State) (m : BitVec 10) : Option Nat := (alignLevels s).findIdx? fun l => l.contains m

/-- The parent of a module: port and module number; fewest hops, then lowest module number, then lowest port. -/
def parentOf (s : State) (m : BitVec 10) : Option (Nat × BitVec 10) :=
  let key := fun (q : Nat × BitVec 10) => ((depthOf s q.2).getD 1024) * 2 ^ 14 + q.2.toNat * 16 + q.1
  if m = 0 then none
  else ((neighbours s m).filter fun q => (depthOf s q.2).isSome).foldl (fun b q =>
    match b with
    | none => some q
    | some x => if key q < key x then some q else some x) none

/-- CHR_STATUS.PARENT, ROOT and DEPTH, the parent and the children, from the topology (R340). -/
def placeInTree (s : State) : State :=
  let me := moduleNo s
  let up := parentOf s me
  let s1 := rput (rput (rput s 0 CHR_STATUS_ROOT (bit (me == 0))) 0 CHR_STATUS_DEPTH ((depthOf s me).getD 0)) 0
    CHR_STATUS_PARENT (match up with
      | some q => q.1
      | none => 0)
  { s1 with chr := { s1.chr with
    parent := up.map fun q => q.2
    children := ((List.range (moduleCount s)).map (BitVec.ofNat 10)).filter fun n => match parentOf s n with
      | some q => q.2 == me
      | none => false } }

/-! ### Numbers accepted (R319) -/

/-- The lead Helm writes the topology table into companion memory (R319). -/
def writeTopology (s : State) : State :=
  let base := rget s 0 FLT_TOPO_LO_ADDR + rget s 0 FLT_TOPO_HI_ADDR * 2 ^ 32
  if (leadOf s).isNone then s
  else (List.range s.fleet.numbers.length).foldl (fun s i =>
    match hailOf s (BitVec.ofNat 10 i) with
    | some r => helmWrite s (base + 256 * i) ((List.range 256).map (Config.hailByte r)) none 0 false false none
    | none => s) s

/-- A numbers record is accepted: number, count, topology table, DISC_DONE, and the alignment tree; module 0 is aligned
(R319, R340 step 1). -/
def acceptNumbers (s : State) (r : NumbersRec) : State :=
  let s1 := { s with fleet := { s.fleet with numbers := r.serials, advances := 0 } }
  let n := (numberOf r.serials (ownSerial s)).getD 0
  let s2 := rput (rput (rput s1 0 FLT_MOD_NUMBER n.toNat) 0 FLT_MOD_COUNT r.count) 0 FLT_MOD_VALID 1
  let s3 := placeInTree (fltAll (writeTopology (fillNeighbours s2)) FLT_STATUS_DISC 4)
  if n = 0 ∧ 1 < r.count then rset s3 0 CHR_STATUS_ALIGNED else s3

/-- A numbers record sent on every UP port but one. -/
def floodNumbers (s : State) (r : NumbersRec) (but : Option Nat) : State :=
  { s with fleet := { s.fleet with
    sentNums := s.fleet.sentNums ++ ((upPorts s).filter fun p => some p != but).map fun p => (p, r) } }

/-- A numbers record arrives (R317): one that matches the view is accepted and forwarded once, any other advances
ROUND. -/
def takeNumbers (s : State) (p : Nat) (r : NumbersRec) : State :=
  let d := rget s 0 FLT_STATUS_DISC
  if !fleetOn s ∨ r.round.toNat ≠ rget s 0 FLT_STATUS_ROUND ∨ (d ≠ 2 ∧ d ≠ 3) then s
  else if r.crc ≠ serialCrc (viewSerials s) then advanceRound s ((rget s 0 FLT_STATUS_ROUND + 1) % 256)
  else floodNumbers (acceptNumbers s r) r (some p)

/-- The view settles (R317): the pilot numbers the modules, any other module awaits the numbers. -/
def settleView (s : State) : State :=
  match viewSerials s with
  | x :: _ =>
    if x = ownSerial s then
      let nums := assignNumbers s
      let r : NumbersRec := ⟨nums, nums.length, BitVec.ofNat 8 (rget s 0 FLT_STATUS_ROUND), serialCrc (viewSerials s)⟩
      floodNumbers (acceptNumbers (fltAll (fltAll s FLT_STATUS_PILOT 1) FLT_STATUS_DISC 3) r) r none
    else fltAll s FLT_STATUS_DISC 3
  | [] => s

end Sys2Proof.Machine
end

