-- ==== Sys2Proof/Machine/Fleet.lean ====
section
/-!
DEFINITION. The fleet commands (R311 to R327): port training, frames, discovery, and the routing table's commit.
-/

namespace Sys2Proof.Machine

/-- Whether the link die of a port is released and not in reset (Table 18.2, R421). -/
def portReach (s : State) (p : Nat) : Bool := decide (4 ≤ s.rst.domains) && !wrapperClosed s 6 0 (p / 4)

/-- PORT_EN (R312). -/
def execPortEn (p : BitVec 4) (v : Bool) (s : State) : Host.Outcome State Fault Refusal :=
  .next (if portReach s p.toNat then endTraining (writePortEn s p.toNat v) else s)

/-- RECEIVER_DETECT (R312): DOWN to EQ. -/
def execReceiverDetect (p : BitVec 4) (s : State) : Host.Outcome State Fault Refusal :=
  let n := p.toNat
  .next (if portReach s n ∧ pget s n FLT_PORT_EN = 1 ∧ pget s n FLT_PORT_STATE = 0 ∧ !(portOf s n).locked then
    pput s n FLT_PORT_STATE 1
  else s)

/-- EQUALISATION_DONE (R312): EQ to ALIGN. -/
def execEqualisationDone (p : BitVec 4) (s : State) : Host.Outcome State Fault Refusal :=
  let n := p.toNat
  .next (if pget s n FLT_PORT_STATE = 1 then
    pput (putPort s n { portOf s n with eqStored := true }) n FLT_PORT_STATE 2
  else s)

/-- FEC_LOCK (R312): ALIGN to IDENT, where the port sends its identity frame. -/
def execFecLock (p : BitVec 4) (s : State) : Host.Outcome State Fault Refusal :=
  let n := p.toNat
  .next (if pget s n FLT_PORT_STATE = 2 then
    pput (putPort s n { portOf s n with sentId := some (ownIdentity s n) }) n FLT_PORT_STATE 3
  else s)

/-- The CAUSE of an exceeded limit: EQ or ALIGN; the manual names none for IDENT. -/
def limitCause (st : Nat) (old : Nat) : Nat := if st = 1 then 1 else if st = 2 then 2 else old

/-- TRAINING_LIMIT (R312): a state exceeded its limit; the third failed attempt in a row locks the port. Lanes that
failed at a retrain count a repeated event (Table 16.2). -/
def execTrainingLimit (p : BitVec 4) (lanes : BitVec 8) (s : State) : Host.Outcome State Fault Refusal :=
  let n := p.toNat
  let st := pget s n FLT_PORT_STATE
  if st = 1 ∨ st = 2 ∨ st = 3 then
    let v := portOf s n
    let s1 := if v.retrain then laneEvents s n lanes true else s
    let s2 := putPort s1 n { portOf s1 n with attempts := v.attempts + 1, retrain := false, sentId := none }
    .next (endTraining (if 3 ≤ v.attempts + 1 then lockPort s2 n 0 6
      else pput (pput s2 n FLT_PORT_STATE 0) n FLT_PORT_CAUSE (limitCause st (pget s n FLT_PORT_CAUSE))))
  else .next s

/-- IDENTITY_FRAME (R314, R315, R316). -/
def execIdentityFrame (p : BitVec 4) (f : Identity) (s : State) : Host.Outcome State Fault Refusal :=
  .next (if pget s p.toNat FLT_PORT_STATE = 3 then
    let s1 := checkIdentity s p.toNat f
    if pget s1 p.toNat FLT_PORT_STATE = 4 then portUp s1 p.toNat else endTraining s1
  else s)

/-- FLEET_FRAME (R311). -/
def execFleetFrame (p : BitVec 4) (f : Frame) (s : State) : Host.Outcome State Fault Refusal :=
  .next (if pget s p.toNat FLT_PORT_STATE = 4 then receiveFrame s p.toNat f else s)

/-- DISCOVER (R316). -/
def writeDiscover (s : State) : State := if portReach s 0 then startDiscovery s (portsTrain s) else s

/-- DISCOVER. -/
def execDiscover (s : State) : Host.Outcome State Fault Refusal := .next (writeDiscover s)

/-- HAIL (R316). -/
def execHail (p : BitVec 4) (r : HailRec) (s : State) : Host.Outcome State Fault Refusal :=
  .next (if pget s p.toNat FLT_PORT_STATE = 4 then takeHail s p.toNat r else s)

/-- DISCOVERY_SETTLE (R317): 10 ms without a new record, and no port in training; while the module still waits for its
ports, it hails. -/
def execDiscoverySettle (s : State) : Host.Outcome State Fault Refusal :=
  if rget s 0 FLT_STATUS_DISC = 2 ∧ !portsTrain s then .next (settleView (elapseToTick s (s.fleet.lastNew + 10000000)))
  else .next (endTraining s)

/-- NUMBERS (R317, R319). -/
def execNumbers (p : BitVec 4) (r : NumbersRec) (s : State) : Host.Outcome State Fault Refusal :=
  .next (if pget s p.toNat FLT_PORT_STATE = 4 then takeNumbers s p.toNat r else s)

/-- FLT_RT_CTL.COMMIT: the table waits for the next watch boundary (R325). -/
def writeCommit (s : State) : State := if portReach s 0 then rset s 0 FLT_RT_CTL_PENDING else s

/-- COMMIT (R325). -/
def execCommit (s : State) : Host.Outcome State Fault Refusal := .next (writeCommit s)

/-- FLT_LOCK (R337). -/
def execFltLock (d : BitVec 2) (s : State) : Host.Outcome State Fault Refusal :=
  .next (if portReach s (4 * d.toNat) then rset s (dieStack d.toNat) FLT_CTL_LOCK else s)

end Sys2Proof.Machine
end

