-- ==== Sys2Proof/Machine/SextantOps.lean ====
section
/-!
DEFINITION. Sextant (R179 to R200): passes, demands, sights, measurements and their test patterns, fixes, and the movement
of trims.
-/

namespace Sys2Proof.Machine

/-! ### Trims (R180, Table 7.5) -/

/-- The trims of a group, by their byte offsets in a tile record. -/
def groupTrims (g : Nat) : List Nat :=
  if isLineGroup g then
    (List.range 16).flatMap fun i =>
      let l := 656 * (g / 41) + 16 * (g % 41) + i
      [4160 + 2 * l, 4161 + 2 * l, 9408 + l]
  else
    (List.range 16).flatMap fun i =>
      let a := 16 * (g - 164) + i
      [64 + 2 * a, 65 + 2 * a]

/-- Largest move of a trim at a watch boundary, in its LSB: offsets 2, gains 1 (Table 7.1). -/
def trimStep (off : Nat) : Int := if off < 9408 ∧ off % 2 = 1 then 1 else 2

/-- A trim that moves toward its target by at most `lim`. -/
def trimMove (lim a t : Int) : Int := if a < t then min (a + lim) t else max (a - lim) t

/-- A tile's applied trims after a watch boundary (R192). -/
def movedTrims (applied targets : SMap Int) : SMap Int :=
  if applied = targets then applied
  else mapEntries (fun _ => 0) 64 ((List.range 11968).map fun i =>
    trimMove (trimStep (64 + i)) (mapGet (fun _ => 0) applied (64 + i)) (mapGet (fun _ => 0) targets (64 + i)))

/-- Trims and reference trims take their targets at once, before the first step (R192). -/
def takeTargets (s : State) (k : Nat) : State :=
  let d := stkOf s k
  let s1 := (mappedTiles s k).foldl (fun s q =>
    putTile s k q.2 { tileAt s k q.2 with trims := recordTargets d.table q.2 }) s
  putStk s1 k { d with refs := mapEntries (fun _ => 0) 0 ((List.range 16).map (refTarget d.table)) }

/-! ### Sights (R184) -/

/-- The magnitude of a tile's tally, the sum of its segments', and its conversion count. -/
def tileTally (t : Tile) : Nat × Nat :=
  let q := t.tally.foldl (fun (a : Int × Nat) q => (a.1 + q.2.1, a.2 + q.2.2)) (0, 0)
  (q.1.natAbs, q.2)

/-- Whether tile tally `a` lies further from 0 than `b`, each divided by its conversion count. -/
def tallyBefore (a b : Nat × Nat) : Bool := decide (b.1 * max 1 a.2 < a.1 * max 1 b.2)

/-- The site that a sight examines next: the one whose tally comes first (R184). -/
def nextSight (s : State) (k : Nat) : Option Nat :=
  (passSites s k).foldl (fun (m : Option Nat) site =>
    match m with
    | none => some site
    | some x => if tallyBefore (tileTally (tileAt s k site)) (tileTally (tileAt s k x)) then some site else some x) none

/-- A sight of a site begins, and clears that tile's tallies. -/
def beginSight (s : State) (k site : Nat) : State :=
  putTile (putStk s k { stkOf s k with sight := some (site, 0) }) k site { tileAt s k site with tally := [] }

/-- Sextant chooses the tile of its next sight, and clears that tile's tallies (R184). -/
def pickSight (s : State) (k : Nat) : State :=
  if (stkOf s k).sight.isSome then s
  else match nextSight s k with
    | none => s
    | some site => beginSight s k site

/-! ### Status (Tables 7.8, 7.12, 7.13) -/

/-- SXT_STATUS.ACTIVITY of a pass, by the highest of its triggers. -/
def passActivity (p : Pass) : Nat :=
  if p.kinds.contains 1 then 5
  else if p.kinds.contains 3 then 3
  else if p.kinds.contains 4 then 2
  else 6

/-- SXT_STATUS.ACTIVITY. -/
def sextantActivity (s : State) (k : Nat) : Nat :=
  let d := stkOf s k
  match d.pass with
  | some p => if p.kinds.contains 1 then 5 else if d.demands.isEmpty then passActivity p else 4
  | none => if !d.demands.isEmpty then 4 else if ron s k SXT_CTL_EN then 1 else 0

/-- Whether some applied trim differs from its target. -/
def stepping (s : State) (k : Nat) : Bool :=
  let d := stkOf s k
  ((mappedTiles s k).any fun q => decide ((tileAt s k q.2).trims ≠ recordTargets d.table q.2))
    || (List.range 16).any fun i => decide (refApplied d i ≠ refTarget d.table i)

/-- SXT_STATUS.REMAIN. -/
def passRemain (s : State) (k : Nat) : Nat :=
  match (stkOf s k).pass with
  | some p => (passSites s k).foldl (fun m site => max m (tileGroups - passCount p site)) 0
  | none => 0

/-- The registers that show Sextant's work, from its state. -/
def showSextant (s : State) (k : Nat) : State :=
  let d := stkOf s k
  let s1 := rput (rput (rput s k SXT_STATUS_ACTIVITY (sextantActivity s k)) k SXT_STATUS_STEPPING (bit (stepping s k))) k
    SXT_STATUS_REMAIN (passRemain s k)
  let s2 := rput (rput (rput s1 k SXT_DEMAND_PENDING d.demands.length) k SXT_DEMAND_WAITED
    (min 255 (d.demands.foldl (fun m x => max m x.waited) 0))) k SXT_DEMAND_STRETCH_REQ
    (bit (ron s k SXT_CTL_STRETCH_EN && d.demands.any fun x => x.asked))
  (List.range 15).foldl (fun s n =>
    rput s k SXT_DMAP_PEND (d.demands.foldl (fun v x => if x.tile / 32 = n then putBits v (x.tile % 32) 1 1 else v) 0) n) s2

/-! ### Passes (R189, R190) -/

/-- The tiles of a pass whose clock is off ask for a start: Sextant needs their arrays (R148). -/
def wakeSites (s : State) (k : Nat) : State :=
  (mappedTiles s k).foldl (fun s q =>
    if tget (tileAt s k q.2) TIL_CTL_FENCE = 0 ∧ !(tileAt s k q.2).clkOn then askStart s k q.1 else s) s

/-- A pending pass starts, once Sextant runs and none is under way: it takes every pending trigger, measures the
references for 20 µs, and takes its fix temperature. -/
def startPass (s : State) (k : Nat) : State :=
  let d := stkOf s k
  if d.pass.isSome ∨ d.passes.isEmpty ∨ !ron s k SXT_CTL_EN then s
  else
    let s1 := putStk s k { d with pass := some ⟨d.passes, s.cyc + 24000, false, false, []⟩, passes := [] }
    let s2 := rput s1 k SXT_TEMP_FIXTEMP (rget s k SXT_TEMP_NOWTEMP)
    let s3 := if d.passes.contains 1 then rset s2 k SXT_TRIG_BRINGUP else s2
    wakeSites (if d.passes.contains 5 then rput (rset s3 k SXT_TRIG_HOST) k SXT_CTL_FIX_REQ 0 else s3) k

/-- A pass trigger of priority `kind` fires (Table 7.3). -/
def trigger (s : State) (k kind : Nat) : State :=
  let d := stkOf s k
  let s1 := if kind = 3 then rset s k SXT_TRIG_TEMP else if kind = 4 then rset s k SXT_TRIG_AGE else s
  showSextant (startPass (putStk s1 k { d with
    passes := if d.passes.contains kind then d.passes else d.passes ++ [kind] }) k) k

/-- A pass that is to restart does so when no site has a group of it in hand (R190): with a new fix temperature, the
references first. -/
def restartPass (s : State) (k : Nat) : State :=
  let d := stkOf s k
  match d.pass with
  | none => s
  | some p =>
    if !p.again || (passSites s k).any (passInHand s k p) then s
    else
      let s1 := rbump (rset s k SXT_TRIG_RESTART) k SXT_RESTART
      let s2 := rput s1 k SXT_TEMP_FIXTEMP (rget s k SXT_TEMP_NOWTEMP)
      putStk s2 k { d with pass := some ⟨p.kinds, s.cyc + 24000, false, false, []⟩ }

/-- A temperature trigger (R190): during a pass it restarts the pass, after the groups in hand. -/
def temperatureTrigger (s : State) (k : Nat) : State :=
  let d := stkOf s k
  match d.pass with
  | none => trigger s k 3
  | some p =>
    showSextant (restartPass (putStk (rset s k SXT_TRIG_TEMP) k { d with
      pass := some { p with again := true, kinds := if p.kinds.contains 3 then p.kinds else p.kinds ++ [3] } }) k) k

/-! ### Demands (R189, R192, R193) -/

/-- A demand for groups of a site: it starts, or joins the one that is pending. -/
def demandGroups (s : State) (k site : Nat) (gs : List Nat) : State :=
  let d := stkOf s k
  match demandOf s k site, logicalOf s k site with
  | some x, _ =>
    let more := gs.filter fun g => !(x.toFix ++ x.toSight).contains g
    putStk s k { d with demands := d.demands.map fun y => if y.site = site then { y with toFix := y.toFix ++ more } else y }
  | none, some l =>
    if gs.isEmpty then s
    else rset (putStk s k { d with demands := d.demands ++ [⟨l, site, gs, [], 0, false⟩] }) k SXT_TRIG_DEMAND
  | none, none => s

/-- A demand for every group of a site, whatever a pending demand of it has already fixed (R200). -/
def demandAll (s : State) (k site : Nat) : State :=
  let d := stkOf s k
  match demandOf s k site with
  | some _ =>
    putStk s k { d with demands := d.demands.map fun y =>
      if y.site = site then { y with toFix := List.range tileGroups, toSight := [] } else y }
  | none => demandGroups s k site (List.range tileGroups)

/-- A demand after a group of it was fixed or sighted; a group without a sight is done with its fix. -/
def demandDone (fix : Bool) (g : Nat) (x : Demand) : Demand :=
  if fix then { x with toFix := x.toFix.erase g, toSight := if isLineGroup g then x.toSight ++ [g] else x.toSight }
  else { x with toSight := x.toSight.erase g }

/-- The demand of a site after a group, and its end with the last one. -/
def advanceDemand (s : State) (k site : Nat) (fix : Bool) (g : Nat) : State :=
  match demandOf s k site with
  | none => s
  | some x =>
    if x.work ≠ some (fix, g) then s
    else
      let y := demandDone fix g x
      let d := stkOf s k
      if y.toFix.isEmpty && y.toSight.isEmpty then
        rbump (putStk s k { d with demands := d.demands.filter fun z => z.site != site }) k SXT_DEMANDS
      else putStk s k { d with demands := d.demands.map fun z => if z.site = site then y else z }

/-! ### Test patterns and distances (R91, R183) -/

/-- The distance of a level from count `c` in 1/16 count, rounded down, 0 at least (R91). -/
def distance (u : Int) (c : Nat) : Nat := ((32768 - ((u - (c : Int) * 65536).natAbs : Int)) / 4096).toNat

/-- The logical column that line `l` of a segment serves, if any (R94). -/
def lineColumn (st : List (Nat × Nat × Nat)) (seg l : Nat) : Option Nat :=
  match st.find? fun e => e.1 == seg && e.2.2 == l && cellLine st seg e.2.1 == l with
  | some e => some e.2.1
  | none => if l < 640 ∧ cellLine st seg l = l then some l else none

/-- Whether a logical column is one of a bank's (R61), and whether it is then a counted one (R62). -/
def usedColumn (b : Bank) (col : Nat) : Bool := decide (col / fmtWidth b.fmt < fmtOutputs b.fmt)
def countedColumn (b : Bank) (col : Nat) : Bool := usedColumn b col && decide (col % fmtWidth b.fmt ≠ checkSlot b.fmt)

/-- The expected count of a check column on an input (R65). -/
def expectedCount (b : Bank) (seg col : Nat) (x : BitVec 128) : Nat :=
  popBits x - ((checkedSlots b.fmt).map fun k => trueCount b seg (columnOf b.fmt (col / fmtWidth b.fmt) k) x).foldl (· + ·) 0

/-- The 16 lines of a line group, in its segment. -/
def groupLines (g : Nat) : List Nat := (List.range 16).map fun i => 16 * (g % 41) + i

/-- Whether input patterns bring a counted column to count 0, its stored popcount, and 14 further counts between the two,
or all of those there are. -/
def patternsReach (b : Bank) (seg col : Nat) (ps : List (BitVec 128)) : Bool :=
  let cs := (ps.map (trueCount b seg col)).eraseDups
  let pop := storedPop b seg col
  cs.contains 0 && cs.contains pop && decide (min 14 (pop - 1) ≤ cs.countP fun c => decide (0 < c) && decide (c < pop))

/-- The banks that a measurement of a line group reads: READY or ACTIVE, and none whose results are discarded (R183,
R188). -/
def testBanks (t : Tile) (dropped : List Bool) : List Bool :=
  [false, true].filter fun b =>
    (decide ((bankOf t b).st = .ready) || decide ((bankOf t b).st = .active)) && !dropped.contains b

/-- The tests of bank `b`: 48 patterns that cover every counted column that the group's lines serve. -/
def bankCovered (t : Tile) (g : Nat) (r : GroupResult) (b : Bool) : Bool :=
  let own := r.tests.filter fun p => p.bank == b
  decide (own.length = 48) && own.all (fun p => decide (p.levels.length = 16))
    && (groupLines g).all fun l => match lineColumn (steering t) (g / 41) l with
      | some col => !countedColumn (bankOf t b) col || patternsReach (bankOf t b) (g / 41) col (own.map fun p => p.input)
      | none => true

/-- Whether a result comes from the whole of a group's measurement (Table 7.2, R183). -/
def resultWhole (t : Tile) (g : Nat) (dropped : List Bool) (r : GroupResult) : Bool :=
  if isLineGroup g then
    decide (r.cal.length = 9) && r.cal.all (fun l => decide (l.length = 16)) && (testBanks t dropped).all (bankCovered t g r)
  else decide (r.sweep.length = 129) && r.sweep.all fun l => decide (l.length = 16)

/-- The distances of one test pattern: a counted column converts, a check column is compared with its expected count. -/
def testDistances (t : Tile) (g : Nat) (p : PatternTest) : List Nat :=
  let b := bankOf t p.bank
  ((groupLines g).zip p.levels).filterMap fun q =>
    match lineColumn (steering t) (g / 41) q.1 with
    | some col =>
      if countedColumn b col then some (distance q.2 (exactCount q.2))
      else if usedColumn b col then some (distance q.2 (expectedCount b (g / 41) col p.input))
      else none
    | none => none

/-- The distances that a group's measurement showed (R91): of banks that are not read, none. -/
def groupDistances (t : Tile) (g : Nat) (dropped : List Bool) (r : GroupResult) : List Nat :=
  if isLineGroup g then
    (r.cal.flatMap fun l => l.map fun u => distance u (exactCount u))
      ++ (r.tests.filter fun p => (testBanks t dropped).contains p.bank).flatMap (testDistances t g)
  else r.sweep.flatMap fun l => l.map fun u => distance u (exactCount u)

/-- What a group's result gives to its tile's measurement. -/
def groupMeas (t : Tile) (g : Nat) (dropped : List Bool) (r : GroupResult) : GroupMeas :=
  let l := groupDistances t g dropped r
  ⟨g, l.foldl min 8, l.foldl (· + ·) 0, l.length⟩

/-- The cells of a line group's lines in the calibration rows after its measurement: what it left in them is open
(R179). -/
def driveCal (s : State) (k site g : Nat) : State :=
  let t := tileAt s k site
  let sh := 16 * (g % 41)
  let rows := (List.range 32).map fun i =>
    let old := t.cal.getD i 0
    if i / 8 = g / 41 then
      (old &&& ~~~((0xFFFF : BitVec 656) <<< sh)) |||
        (((Config.freeWord (s.free + i % 8)).setWidth 16).setWidth 656 <<< sh)
    else old
  putTile { s with free := s.free + 8 } k site { t with cal := rows }

/-! ### Measurements (R184, R91, R92) -/

/-- A tile's demands and demotion by its valid margin and its low groups (R92, R95). -/
def checkMargin (s : State) (k site : Nat) (low : List Nat) : State :=
  let t := tileAt s k site
  let v := tget t TIL_ARR_MARGIN_MIN
  if tget t TIL_ARR_MARGIN_VALID = 0 ∨ 3 ≤ v then s
  else
    let s1 := demandGroups s k site low
    if v < 1 then pendDemotion s1 k site else s1

/-- The margin of a demoted tile enters the log (R195). -/
def logMargin (s : State) (k site mn mean : Nat) : State :=
  if (tileAt s k site).demoted then
    { s with log := { s.log with margins := mapSet (fun _ => (0, 0)) s.log.margins (tileKey k site) (mn, mean) } }
  else s

/-- MIN and MEAN of a tile, from a completed measurement: the smallest distance, and the average over the conversions in
1/256 count (R91). -/
def completeMeasurement (s : State) (k site : Nat) (l : List GroupMeas) : State :=
  let mn := l.foldl (fun m q => min m q.low) 8
  let n := l.foldl (fun m q => m + q.count) 0
  let mean := min 255 (16 * l.foldl (fun m q => m + q.sum) 0 / max 1 n)
  let t := tput (tput (tput (tileAt s k site) TIL_ARR_MARGIN_MIN mn) TIL_ARR_MARGIN_MEAN mean) TIL_ARR_MARGIN_VALID 1
  let s1 := putRecord (putTile s k site t) k site 3 [BitVec.ofNat 8 mn, BitVec.ofNat 8 mean]
  rbump (logMargin s1 k site mn mean) k SXT_SIGHTS

/-- A group's result enters its tile's measurement: a margin below the current one counts at once (R184). -/
def takeResult (s : State) (k site : Nat) (q : GroupMeas) : State :=
  let d := stkOf s k
  let l := (mapGet (fun _ => []) d.meas site).filter (fun x => x.group != q.group) ++ [q]
  if l.length = tileGroups then
    let s1 := completeMeasurement (putStk s k { d with meas := mapSet (fun _ => []) d.meas site [] }) k site l
    checkMargin s1 k site ((l.filter fun x => decide (x.low < 3)).map fun x => x.group)
  else
    let s1 := putStk s k { d with meas := mapSet (fun _ => []) d.meas site l }
    let t := tileAt s1 k site
    let s2 := if tget t TIL_ARR_MARGIN_VALID = 1 ∧ q.low < tget t TIL_ARR_MARGIN_MIN then
        putTile s1 k site (tput t TIL_ARR_MARGIN_MIN q.low)
      else s1
    checkMargin s2 k site (if q.low < 3 then [q.group] else [])

/-! ### Fixes (R180, R181) -/

/-- A target held to its range. -/
def trimTarget (v : Int) : Int := clamp (-128) 127 v

/-- Whether a group is out of range, and what its record says of its tile: how many of its groups are (R180). -/
def markRange (s : State) (k site g : Nat) (out : Bool) : State :=
  let d := stkOf s k
  let l := (mapGet (fun _ => []) d.outs site).filter fun x => x != g
  let l1 := if out then l ++ [g] else l
  let s1 := putRecord (putStk s k { d with outs := mapSet (fun _ => []) d.outs site l1 }) k site 5
    [BitVec.ofNat 8 (min 255 l1.length)]
  if out then rbump s1 k SXT_OUTRANGE else s1

/-- The new targets of a group, written to the tile's record. -/
def writeTargets (s : State) (k site g : Nat) (ts : List (Nat × Int)) : State :=
  let own := ts.filter fun q => (groupTrims g).contains q.1
  let s1 := own.foldl (fun s q => putRecord s k site q.1 [BitVec.ofInt 8 (trimTarget q.2)]) s
  markRange s1 k site g (own.any fun q => trimTarget q.2 ≠ q.2)

/-- The targets of the reference trims, from the references' measurement (R182). -/
def writeReferences (s : State) (k : Nat) (ts : List (Nat × Int)) : State :=
  let d := stkOf s k
  putStk s k { d with table := (ts.filter fun q => decide (q.1 < 16)).foldl (fun m q =>
    memWrite m (36 + q.1) [BitVec.ofInt 8 (trimTarget q.2)]) d.table }

/-! ### Array cycles (R186, R187) -/

/-- A group of a site ends: it has had its idle array cycles, or what it still needs fits in the dog slot at hand, and time
stands at its end there; before the first step every array is idle, and its cycles are idle ones (R186, R187, R189,
notes/assumptions/55.md). Answers the machine after the cycles are used, if so. -/
def spendGroup (s : State) (k site : Nat) (fix : Bool) (g : Nat) : Option State :=
  let w := sequencer s k site
  let need := (w.hand fix g).need
  if need = 0 then some (putSequencer s k site (w.drop fix g))
  else if !hasStepped s k && ron s k SXT_CTL_IDLE_EN then some (rbump (putSequencer s k site (w.drop fix g)) k SXT_IDLEUSED need)
  else if need ≤ slotLeft s w then
    some (elapseTo (rbump (putSequencer s k site { w.drop fix g with left := w.left - need }) k SXT_DOGUSED need)
      (w.until_ - 3 * (w.left - need)))
  else none

/-! ### Watch boundaries (R187, R192, R193) -/

/-- The trims that a tile will have once a move that waits has taken effect. -/
def comingTrims (t : Tile) : SMap Int :=
  t.due.foldl (fun m d => match d.eff with
    | .trims ts => ts
    | _ => m) t.trims

/-- The trims of a tile that a boundary moved. -/
def changedTrims (a b : SMap Int) : List Nat :=
  (List.range 11968).filterMap fun i =>
    if mapGet (fun _ => 0) a (64 + i) ≠ mapGet (fun _ => 0) b (64 + i) then some (64 + i) else none

/-- The trims of a tile in force from a boundary on: at once, or when the array cycles in flight have ended (R89, R192). -/
def applyTrims (t : Tile) (ts : SMap Int) (now : Nat) : Tile :=
  if t.arrFree + 2 ≤ now then { t with trims := ts } else later t (t.arrFree + 1) (.trims ts)

/-- The trims of a tile that move at a boundary: those they will have had before, and those they move to. -/
def boundaryTrims (s : State) (k site : Nat) : SMap Int × SMap Int :=
  let a := comingTrims (tileAt s k site)
  (a, movedTrims a (recordTargets (stkOf s k).table site))

/-- The groups in hand that `hit` names restart (R187), counted. -/
def restartHands (s : State) (k site : Nat) (hit : GroupHand → Bool) : State :=
  let w := sequencer s k site
  let n := w.hands.countP fun h => decide (0 < h.done) && hit h
  if n = 0 then s
  else rbump (putSequencer s k site { w with hands := w.hands.map fun h => if hit h then { h with done := 0 } else h }) k
    SXT_RESTART n

/-- A tile at a boundary: its trims move, and a group in hand one of whose trims moved restarts. -/
def moveTile (k : Nat) (s : State) (site : Nat) : State :=
  let q := boundaryTrims s k site
  if q.2 = q.1 then s
  else
    let s1 := changeSite s k site fun t => applyTrims t q.2 s.cyc
    restartHands s1 k site fun h => (groupTrims h.group).any fun o => (changedTrims q.1 q.2).contains o

/-- Whether an ADC gain trim of a tile is about to move. -/
def gainMoves (s : State) (k site : Nat) : Bool :=
  (changedTrims (boundaryTrims s k site).1 (boundaryTrims s k site).2).any fun o => decide (o < 4160) && o % 2 == 1

/-- A reference trim at a boundary: it moves only when no ADC gain trim of its tiles does, and restarts the ADC groups in
hand of the tiles that it serves. `free` says that none does. -/
def moveReference (k : Nat) (s : State) (i : Nat) (free : Bool) : State :=
  let d := stkOf s k
  let a := refApplied d i
  let b := trimMove 1 a (refTarget d.table i)
  if a = b ∨ !free then s
  else
    ((d.work.map fun p => p.1).filter fun site => site / 30 == i).foldl
      (fun s site => restartHands s k site fun h => !isLineGroup h.group)
      (putStk s k { d with refs := mapSet (fun _ => 0) d.refs i b })

/-- The trims of a stack at a watch boundary. -/
def moveTrims (s : State) (k : Nat) : State :=
  if !hasStepped s k then takeTargets s k
  else
    let sites := (mappedTiles s k).map fun q => q.2
    let still := (List.range 16).map fun i => !(sites.any fun site => site / 30 == i && gainMoves s k site)
    (List.range 16).foldl (fun s i => moveReference k s i (still.getD i true)) (sites.foldl (moveTile k) s)

/-- A stack at a watch boundary: the dog slots come into force, demands have waited one watch more, a stretch is asked
again, the trims move, and a pass that is to restart does so once no group of it is in hand (R185, R190, R192, R193). -/
def sextantBoundary (s : State) (k : Nat) : State :=
  let d := stkOf s k
  let again := bit (ron s k SXT_CTL_STRETCH_EN && d.demands.any fun x => x.asked)
  let s1 := putStk s k { d with
    dog := rword s k 0x10018
    dogper := rword s k 0x1001C
    work := d.work.filterMap fun p =>
      let w : GroupWork := { p.2 with left := 0 }
      if w = GroupWork.none then none else some (p.1, w)
    demands := d.demands.map fun x => { x with waited := x.waited + 1 } }
  showSextant (restartPass (moveTrims (rbump s1 k SXT_STRETCH again) k) k) k

end Sys2Proof.Machine
end

