-- ==== Sys2Proof/Machine/Sextant.lean ====
section
/-!
DEFINITION. The Sextant commands (R181 to R201): triggers, dog slots, idle cycles, group results, and the deviation
table's errors.
-/

namespace Sys2Proof.Machine

/-- Whether Sextant of a stack is released and not in reset (Table 18.2, R421). -/
def baseReach (s : State) (k : Nat) : Bool :=
  decide (3 ≤ s.rst.domains) && !wrapperClosed s 5 k 0 && !wrapperClosed s 2 k 0

/-- SXT_CTL.FIX_REQ set (R189): it reads 1 until the host pass starts. -/
def writeFixReq (s : State) (k : Nat) : State :=
  if baseReach s k then trigger (rset s k SXT_CTL_FIX_REQ) k 5 else s

/-- FIX_REQ. -/
def execFixReq (k : BitVec 3) (s : State) : Host.Outcome State Fault Refusal := .next (writeFixReq s k.toNat)

/-- SXT_LOCK (R201): Sextant's RWL fields are locked until reset. -/
def execSxtLock (k : BitVec 3) (s : State) : Host.Outcome State Fault Refusal :=
  .next (if baseReach s k.toNat then rset s k.toNat SXT_CTL_LOCK else s)

/-- The start of the next dog slot of stack `k`. -/
def nextDog (s : State) (k : Nat) : Option Nat :=
  ((dogStarts s k).map fun x => slotZero s k + x).foldl (fun (m : Option Nat) x =>
    if x < max s.cyc (stkOf s k).dogAt then m else match m with
      | some y => some (min x y)
      | none => some x) none

/-- Every clocked tile of a stack has the 800 array cycles of a dog slot that ends at `till` (R185, R186). -/
def openDog (s : State) (k till : Nat) : State :=
  (passSites s k).foldl (fun s site =>
    if (tileAt s k site).clkOn then putSequencer s k site { sequencer s k site with left := 800, until_ := till } else s) s

/-- DOG_SLOT (R185, R186): the next dog slot of the stack starts; the groups that Sextant completes in it follow as
GROUP_COMPLETE. A tile whose clock is off asks for a start (R148). -/
def execDogSlot (k : BitVec 3) (s : State) : Host.Outcome State Fault Refusal :=
  let n := k.toNat
  match nextDog s n with
  | none => .next s
  | some x =>
    let s1 := elapseTo s x
    let s2 := putStk s1 n { stkOf s1 n with dogAt := x + 1 }
    .next (if ron s n SXT_CTL_EN then wakeSites (pickSight (openDog s2 n (x + 2400)) n) n else s2)

/-- The first array cycle, phase 0, that begins at cycle `k` or later (R72). -/
def phase0From (slot0 k : Nat) : Nat := k + (3 - (k + 2 * slot0) % 3) % 3

/-- Whether a tile's array is idle in the array cycle that begins now: no announced plane lies in it, and no dog slot
(R89, R187). -/
def arrayIdle (s : State) (r : TileRef) (t : Tile) : Bool :=
  decide (t.arrFree + 2 ≤ s.cyc) && !inDog (ctxOf s r) s.cyc (s.cyc + 3) && decide (tget t TIL_CTL_FENCE = 0)

/-- A site's next idle array cycle goes to the group in hand. -/
def useIdle (s : State) (r : TileRef) (site : Nat) : State :=
  let k := r.stack.toNat
  let s1 := pickSight s k
  match siteWork s1 k site with
  | none => s1
  | some q =>
    let w := sequencer s1 k site
    let h := w.hand q.1 q.2
    if h.need = 0 then s1
    else
      let s2 := elapseTo s1 (phase0From (slotZero s1 k) (max s1.cyc w.next))
      if arrayIdle s2 r (settle s2.cyc (tileAt s2 k site)) then
        rbump (putSequencer s2 k site { w.put { h with done := h.done + 1 } with next := s2.cyc + 3 }) k SXT_IDLEUSED
      else s1

/-- IDLE_CYCLE (R187): one idle array cycle of a tile goes to the group in hand; a tile whose clock is off asks for a start
(R148). -/
def execIdleCycle (r : TileRef) (s : State) : Host.Outcome State Fault Refusal :=
  let k := r.stack.toNat
  match siteOf s k r.tile.toNat with
  | none => .next s
  | some site =>
    if !ron s k SXT_CTL_EN ∨ !ron s k SXT_CTL_IDLE_EN then .next s
    else if !(tileAt s k site).clkOn then .next (askStart s k r.tile.toNat)
    else .next (useIdle s r site)

/-- The work of a site goes on after a group: that of its demand, the pass or the sight. -/
def finishGroup (s : State) (k site : Nat) (fix : Bool) (g : Nat) : State :=
  let d := stkOf s k
  let demand := decide (demandWork s k site = some (fix, g)) && (match d.pass with
    | some p => !p.kinds.contains 1
    | none => true)
  if demand then advanceDemand s k site fix g
  else if fix then match d.pass with
    | some p => restartPass (putStk s k { d with pass := some { p with done := mapSet (fun _ => 0) p.done site (g + 1) } }) k
    | none => s
  else if g + 1 < 164 then putStk s k { d with sight := some (site, g + 1) }
  else pickSight (putStk s k { d with sight := none }) k

/-- The result of a group that Sextant has finished: targets, the calibration cells, the measurement. -/
def groupResult (s : State) (k site : Nat) (fix : Bool) (g : Nat) (dropped : List Bool) (r : GroupResult) : State :=
  let s1 := if fix then writeTargets s k site g r.targets else s
  let s2 := if isLineGroup g then driveCal s1 k site g else s1
  let s3 := takeResult (finishGroup s2 k site fix g) k site (groupMeas (tileAt s k site) g dropped r)
  let s4 := if r.adcFault && !isLineGroup g then pendDemotion s3 k site else s3
  if hasStepped s4 k then s4 else putTile s4 k site { tileAt s4 k site with trims := recordTargets (stkOf s4 k).table site }

/-- The references of a stack have been measured: their targets, with which the pass goes on (R182). -/
def referencesDone (s : State) (k : Nat) (ts : List (Nat × Int)) : State :=
  match (stkOf s k).pass with
  | none => s
  | some p =>
    if p.refsDone then s
    else
      let s1 := writeReferences (elapseTo s p.refsAt) k ts
      let s2 := putStk s1 k { stkOf s1 k with pass := some { p with refsDone := true } }
      showSextant (if hasStepped s2 k then s2 else takeTargets s2 k) k

/-- A column group of a site is finished. -/
def siteGroup (s : State) (k site g : Nat) (fix : Bool) (r : GroupResult) : State :=
  let s1 := pickSight s k
  let dropped := ((sequencer s1 k site).hand fix g).dropped
  if siteWork s1 k site ≠ some (fix, g) ∨ !resultWhole (tileAt s1 k site) g dropped r then s
  else match spendGroup s1 k site fix g with
    | none => s
    | some s2 => showSextant (groupResult s2 k site fix g dropped r) k

/-- GROUP_COMPLETE (R181, R183, R184, R186): a column group is finished and its result taken; group 292 is the measurement
of the references, with which a pass begins (R182, notes/assumptions/55.md). A tile whose clock is off asks for a start
(R148). -/
def execGroupComplete (k : BitVec 3) (site group : Nat) (fix : Bool) (r : GroupResult) (s : State) :
    Host.Outcome State Fault Refusal :=
  let n := k.toNat
  if !ron s n SXT_CTL_EN then .next s
  else if group = tileGroups then .next (if fix then referencesDone s n r.targets else s)
  else match logicalOf s n site with
    | none => .next s
    | some l =>
      if !(tileAt s n site).clkOn then .next (askStart s n l) else .next (siteGroup s n site group fix r)

/-- The records of the tiles that a completed pass covered, and of unmapped sites (Table 7.5). -/
def stampRecords (s : State) (k : Nat) : State :=
  let s1 := (passSites s k).foldl (fun s site =>
    putRecord (putRecord s k site 0 (leBytes 2 site ++ [1])) k site 6
      (leBytes 2 (rget s k SXT_TEMP_FIXTEMP) ++ leBytes 8 s.tick)) s
  ((List.range 480).filter fun site => (logicalOf s k site).isNone).foldl (fun s site =>
    putRecord s k site 0 (leBytes 2 site ++ [2])) s1

/-- Whether every tile that the pass covers has finished (R182). -/
def passFinished (s : State) (k : Nat) : Bool :=
  match (stkOf s k).pass with
  | none => false
  | some p => p.refsDone && !p.again && (passSites s k).all fun site => decide (tileGroups ≤ passCount p site)

/-- A pass completes (R190, R198): its tick, its records, the commit after a bring-up or an ageing pass, and the start of
the next. -/
def endPass (s : State) (k : Nat) : State :=
  let d := stkOf s k
  let kinds := match d.pass with
    | some p => p.kinds
    | none => []
  let s1 := rput (rput (putStk s k { d with pass := none }) k SXT_FIXTICK_LO_TICK s.tick) k SXT_FIXTICK_HI_TICK (s.tick / 2 ^ 32)
  let s2 := stampRecords (rbump s1 k SXT_PASSES) k
  let s3 := if kinds.contains 1 || kinds.contains 4 then askCommit s2 k else s2
  showSextant (startPass s3 k) k

/-- PASS_COMPLETE (R182, R190). -/
def execPassComplete (k : BitVec 3) (s : State) : Host.Outcome State Fault Refusal :=
  let n := k.toNat
  .next (if passFinished s n then endPass s n else s)

/-- AGEING_TRIGGER (R189): 86,400 s after the last completed pass. -/
def execAgeingTrigger (k : BitVec 3) (s : State) : Host.Outcome State Fault Refusal :=
  let n := k.toNat
  let at_ := rget s n SXT_FIXTICK_LO_TICK + rget s n SXT_FIXTICK_HI_TICK * 2 ^ 32 + 86400000000000
  let s1 := elapseToTick s at_
  .next (if baseReach s n ∧ at_ ≤ s1.tick then trigger s1 n 4 else s)

/-- Watches that a demand waits before a stretch (SXT_CTL). -/
def demandWait (s : State) (k : Nat) : Nat := if rget s k SXT_CTL_DEMAND_WAIT = 0 then 8 else rget s k SXT_CTL_DEMAND_WAIT

/-- A demand's first stretch request (R193, R194): none after 4 stretched demands of its tile in 24 h, which the log
then records. -/
def askStretch (k : Nat) (s : State) (x : Demand) : State :=
  let d := stkOf s k
  let recent := (mapGet (fun _ => []) d.stretched x.site).filter fun t => decide (s.tick < t + 86400000000000)
  if 4 ≤ recent.length then logExtra s 14
  else rbump (putStk s k { d with
    stretched := mapSet (fun _ => []) d.stretched x.site (recent ++ [s.tick])
    demands := d.demands.map fun y => if y.site = x.site then { y with asked := true } else y }) k SXT_STRETCH

/-- DEMAND_STRETCH (R193). -/
def execDemandStretch (k : BitVec 3) (s : State) : Host.Outcome State Fault Refusal :=
  let n := k.toNat
  let due := (stkOf s n).demands.filter fun x => !x.asked && decide (demandWait s n ≤ x.waited)
  .next (if ron s n SXT_CTL_STRETCH_EN then showSextant (due.foldl (askStretch n) s) n else s)

/-- The targets of a site's record are its applied trims. -/
def keepTrims (s : State) (k site : Nat) : State :=
  let d := stkOf s k
  let t := settle s.cyc (tileAt s k site)
  let bs := (List.range 11968).map fun i => BitVec.ofInt 8 (mapGet (fun _ => 0) t.trims (64 + i))
  putStk s k { d with table := memWrite d.table (recordBase site + 64) bs }

/-- TABLE_ECC_ERROR (R200): an uncorrectable record takes the applied trims, and every group of the tile is demanded. -/
def execTableEccError (k : BitVec 3) (site : Nat) (s : State) : Host.Outcome State Fault Refusal :=
  let n := k.toNat
  .next (if 480 ≤ site ∨ !baseReach s n then s
    else showSextant (demandAll (keepTrims s n site) n site) n)

end Sys2Proof.Machine
end

