-- ==== Sys2Proof/Machine/Chrono.lean ====
section
/-!
DEFINITION. The Chronometer commands (R338 to R356): alignment, slews, watch boundaries, the charter, the stretch
agreement and the fleet waypoint timeout.
-/

namespace Sys2Proof.Machine

/-- Whether the Chronometers run (Table 18.2). -/
def chrReach (s : State) : Bool := decide (2 ≤ s.rst.domains)

/-! ### Alignment (R340, R341, R344) -/

/-- Twice the offset to the parent that one exchange shows, in 1/8 ns. -/
def pairTwice (t : TimePair) : Int := (t.t2 - t.t1) - (t.t4 - t.t3)

/-- Four times the median offset of 16 exchanges, in 1/8 ns: the sum of the two middle values of `pairTwice`
(notes/assumptions/54.md). -/
def medianFour (l : List TimePair) : Int :=
  let v := sortBy (fun a b => decide (a ≤ b)) (l.map pairTwice)
  v.getD 7 0 + v.getD 8 0

/-- CHR_OFFSET shows an offset in 1/8 ns. -/
def showOffset (s : State) (o : Int) : State := rput s 0 CHR_OFFSET_OFFSET (unsigned 16 o)

/-- The current watch start at a tick. -/
def putStart (s : State) (b : Nat) : State :=
  rput (rput s 0 CHR_WSTART_LO_TICK b) 0 CHR_WSTART_HI_TICK (b / 2 ^ 32)

/-- The tick is stepped: watch counter and watch start follow from it (R344). -/
def stepTick (s : State) (o : Int) : State :=
  let t := ((s.tick : Int) + o).toNat
  putStart (rput { s with tick := t } 0 CHR_WATCH_WATCH (t / 128000)) (t / 128000 * 128000)

/-- Whether the module may be aligned: after a discovery with more than one module, not the root, and not before
(R340). -/
def mayAlign (s : State) : Bool :=
  chrReach s && rget s 0 FLT_STATUS_DISC == 4 && decide (1 < moduleCount s) && !ron s 0 CHR_STATUS_ROOT
    && !ron s 0 CHR_STATUS_ALIGNED

/-- TIMING_FRAME (R340): 16 exchanges with the parent; the tick is stepped by the median offset. -/
def execTimingFrame (l : List TimePair) (s : State) : Host.Outcome State Fault Refusal :=
  if !mayAlign s ∨ l.length ≠ 16 then .next s
  else
    let m := medianFour l
    .next (rset (showOffset (stepTick s (rne m 32)) (rne m 4)) 0 CHR_STATUS_ALIGNED)

/-- Whether the module follows its parent: aligned, not the root, not in holdover (R341). -/
def follows (s : State) : Bool :=
  chrReach s && ron s 0 CHR_STATUS_ALIGNED && !ron s 0 CHR_STATUS_ROOT && !ron s 0 CHR_STATUS_HOLDOVER

/-- OFFSET_MEASURE (R341): a magnitude above 1 ns starts a slew, one within 0.5 ns ends it. -/
def execOffsetMeasure (t : TimePair) (s : State) : Host.Outcome State Fault Refusal :=
  if !follows s then .next s
  else
    let o := rne (pairTwice t) 2
    let start := decide (16 < (pairTwice t).natAbs) && !s.chr.slewing
    let slews := (start || s.chr.slewing) && !decide ((pairTwice t).natAbs ≤ 8)
    let s1 := showOffset { s with chr := { s.chr with offset := o, slewing := slews } } o
    .next (if start then rbump s1 0 CHR_SLEWS else s1)

/-- SLEW (R341): one microsecond passes, in which the tick is held for one clock or advances by 2 once. -/
def execSlew (s : State) : Host.Outcome State Fault Refusal :=
  if !follows s ∨ !s.chr.slewing then .next s
  else
    let up := decide (0 < s.chr.offset)
    let s1 := elapseNs s 1000
    let o := if up then s.chr.offset - 8 else s.chr.offset + 8
    .next { s1 with
      tick := if up then s1.tick + 1 else s1.tick - 1
      chr := { s1.chr with offset := o, slewing := decide (4 < o.natAbs) } }

/-! ### The charter (R347, R348) -/

/-- The stretch that an agreed Q and D give, in 5 ns units (R353). -/
def stretchOf (s : State) (q : Nat) (d : Bool) : Nat := ceilDiv (watchLen s * q) 100 + 400 * bit d

/-- Whether a demand stretch is asked for in any stack (R352). -/
def stretchAsked (s : State) : Bool := stackNos.any fun k => ron s k SXT_DEMAND_STRETCH_REQ

/-- The offer q of the hottest compute junction (R352). -/
def thermalOffer (s : State) : Nat :=
  let v := (signed 16 (rget s 0 BNC_TJ_T) - 25600) / 64
  (clamp 0 60 v).toNat

/-- In fleet mode with a charter, each watch opens a round (R352). -/
def openRound (s : State) : State :=
  if s.chr.firstRound.isNone ∨ (leadOf s).isNone then s
  else arriveOffer { s with chr := { s.chr with
    offers := s.chr.offers ++ [(watchNo s, thermalOffer s, stretchAsked s)] } }

/-- An armed charter comes into force (R347, R349). -/
def activateCharter (s : State) (epoch len : Nat) : State :=
  let k := leadStk s
  let n := s.chr.children.length + 1
  let s1 := rput (rput (rput s 0 CHR_EPOCH_EPOCH epoch) 0 CHR_WLEN_L len) 0 CHR_STATUS_ARMED 0
  let s2 := putCounter (putCounter s1 k 16 { helmCounter s k 16 with expect := n }) k 17 { helmCounter s k 17 with expect := n }
  { s2 with chr := { s2.chr with armed := none, firstRound := some (s2.chr.firstRound.getD (watchNo s2)) } }

/-- A charter comes into force at the boundary of the present tick (R347): the watch that it began takes the new L with its
agreed stretch, and opens its round as the first one where no charter was in force. -/
def activateNow (s : State) (epoch len : Nat) : State :=
  let s1 := activateCharter s epoch len
  let s2 := rput s1 0 CHR_STRETCH_X (stretchOf s1 (rget s1 0 CHR_STRETCH_Q) (ron s1 0 CHR_STRETCH_D))
  if fleetMode s2 && s.chr.firstRound.isNone then openRound s2 else s2

/-- CHR_CTL.ARM (R347): the charter fields are armed, or a refusal bit is set; in the tick of the boundary that starts
ACTIVATE the charter takes effect at that boundary. -/
def writeArm (s : State) : State :=
  let next := rget s 0 CHR_EPOCH_NEXT
  let len := rget s 0 CHR_NEXT_WLEN_L
  let act := BitVec.ofNat 32 (rget s 0 CHR_ACTIVATE_WATCH)
  let d := (next + 256 - rget s 0 CHR_EPOCH_EPOCH) % 256
  let stale := !(decide (1 ≤ d) && decide (d ≤ 127))
  let now := decide (act = watchNo s) && decide (s.tick = watchStart s)
  let late := !laterWatch act (watchNo s) && !now
  let busy := decide (len ≠ watchLen s) && berthsLive s
  if stale || late || busy then
    let s1 := if stale then rset s 0 CHR_STATUS_STALE else s
    let s2 := if late then rset s1 0 CHR_STATUS_LATE else s1
    if busy then rset s2 0 CHR_STATUS_BUSYL else s2
  else if now then activateNow s next len
  else rset { s with chr := { s.chr with armed := some (next, len, act) } } 0 CHR_STATUS_ARMED

/-- ARM. -/
def execArm (s : State) : Host.Outcome State Fault Refusal := .next (if chrReach s then writeArm s else s)

/-- CHR_LOCK (Table 14.4): MODE is locked until reset. -/
def execChrLock (s : State) : Host.Outcome State Fault Refusal :=
  .next (if chrReach s then rset s 0 CHR_CTL_LOCK else s)

/-! ### Watch boundaries (R343 to R346, R352 to R354) -/

/-- The 16th tile cycle after the tick of the boundary: slot counts restart with the first array cycle from it on (R345). -/
def restartCycle (s : State) (b : Nat) : Nat := s.cyc - (6 * (s.tick - b) + s.tfrac) / 5 + 16

/-- The charter whose ACTIVATE the new watch is. -/
def charterDue (s : State) : State :=
  match s.chr.armed with
  | some (e, l, w) => if w = watchNo s then activateCharter s e l else s
  | none => s

/-- A committed routing table takes effect (R325, R348), and Binnacle keeps the module number as HINT (R319). -/
def tableDue (s : State) : State :=
  if !ron s 0 FLT_RT_CTL_PENDING then s
  else
    let ws := (List.range 1024).map fun i => rword s 0 (0x101000 + 4 * i)
    let s1 := rset (rput s 0 FLT_RT_CTL_PENDING 0) 0 FLT_RT_CTL_LIVE
    let s2 := { s1 with fleet := { s1.fleet with
      rt := mapEntries (fun _ => 0) 0 ws
      hint := if ron s 0 FLT_MOD_VALID then some (moduleNo s) else s1.fleet.hint } }
    if rget s 0 CHR_ACTIVATE_WATCH = (watchNo s).toNat then s2 else rset s2 0 CHR_STATUS_RTSKEW

/-- The stretch of the current watch: X, Q and D, and the demand dog slot of every stack (R193, R345). -/
def putStretch (s : State) (q : Nat) (d : Bool) : State :=
  let x := stretchOf s q d
  let s1 := rput (rput (rput s 0 CHR_STRETCH_X x) 0 CHR_STRETCH_Q q) 0 CHR_STRETCH_D (bit d)
  let s2 := { s1 with stk := s1.stk.map fun v => { v with demandSlot := d } }
  if 0 < x then rbump s2 0 CHR_STRETCHES else s2

/-- The fleet waypoint timeout of an agreement that is late (R353). -/
def agreementLate (s : State) : State :=
  moduleFault (rbump (rset (putStretch s 0 false) 0 CHR_STATUS_AGREELATE) 0 CHR_WPTIMEOUT) 10

/-- In fleet mode, the record for the new watch (R344, R353); the first two watches after the first charter have no
round, and the first one is kept within reach of the comparison of R346. -/
def fleetStretch (s : State) : State :=
  let w := watchNo s
  let s1 := { s with chr := { s.chr with agreed := s.chr.agreed.filter fun r => laterWatch r.watch w } }
  match s.chr.firstRound with
  | none => putStretch s1 0 false
  | some f =>
    let past := laterWatch w (f + 1)
    let s2 := if past then { s1 with chr := { s1.chr with firstRound := some (w - 2) } } else s1
    match s.chr.agreed.find? fun r => r.watch == w with
    | some r => putStretch s2 r.q r.d
    | none => if past then agreementLate s2 else putStretch s2 0 false

/-- In harbour mode, the module's own request of two watches before (R354). -/
def harbourStretch (s : State) : State :=
  let w := watchNo s
  let d := match s.chr.requests.find? fun r => r.1 == w - 2 with
    | some r => r.2
    | none => false
  putStretch { s with chr := { s.chr with
    requests := s.chr.requests.filter (fun r => r.1 == w - 1) ++ [(w, stretchAsked s)] } } 0 d

/-- The new watch begins: number, start, slot-count restart. -/
def openWatch (s : State) (b : Nat) : State :=
  let s1 := putStart (rput s 0 CHR_WATCH_WATCH (rget s 0 CHR_WATCH_WATCH + 1)) b
  { s1 with slot0 := restartCycle s b }

/-- WATCH_BOUNDARY (R343 to R348, R352 to R354). -/
def execWatchBoundary (s : State) : Host.Outcome State Fault Refusal :=
  if !chrReach s then .next s
  else
    let b := nextBoundary s
    let s1 := tableDue (charterDue (openWatch (elapseToTick s b) b))
    let s2 := if fleetMode s1 then openRound (fleetStretch s1) else harbourStretch s1
    .next (startDue (stackNos.foldl sextantBoundary s2))

/-! ### Agreements and waypoint timeouts (R351, R352) -/

/-- AGREEMENT_RECORD (R352): a record written to CHR_AGREE. -/
def execAgreementRecord (w : Word) (q : BitVec 7) (d : Bool) (s : State) : Host.Outcome State Fault Refusal :=
  .next (if chrReach s then arriveOffer (holdRecord s w q.toNat d) else s)

/-- A tile's waypoint wait ends in the timeout 5·L after it began, unless that lies ahead of no wait. -/
def engineTimeout (s : State) (r : TileRef) : State :=
  match siteOf s r.stack.toNat r.tile.toNat with
  | none => s
  | some site =>
    let g := engOf (tileAt s r.stack.toNat site) .sig
    match g.wpSince, g.nextw with
    | some k, none =>
      let s1 := rbump (elapseTo s (k + 30 * watchLen s)) 0 CHR_WPTIMEOUT
      match berthOfTile s1 r with
      | some b => berthFault s1 b 10 r.stack.toNat r.tile.toNat 0
      | none => s1
    | _, _ => s

/-- The commit waypoint of a berth, at which this module has arrived, has not released 5·L after that (R350, R351). -/
def berthTimeout (s : State) (b : Nat) : State :=
  match (berthOf s b).step with
  | .running _ =>
    if (berthOf s b).arrived then
      berthFault (rbump (elapseTo s ((berthOf s b).arrivedAt + 30 * watchLen s)) 0 CHR_WPTIMEOUT) b 10 0 0 0
    else s
  | _ => s

/-- FLEET_WAYPOINT_TIMEOUT (R351): a waypoint wait has not ended 5·L after it began; the module's own waits are its berths'
commit waypoints. -/
def execFleetWaypointTimeout (w : Waiter) (s : State) : Host.Outcome State Fault Refusal :=
  match w with
  | .engine r => .next (engineTimeout s r)
  | .berth b => .next (berthTimeout s b.toNat)
  | .module => .next ((List.range 16).foldl berthTimeout s)

end Sys2Proof.Machine
end

