-- ==== Sys2Proof/Machine/LinkOps.lean ====
section
/-!
DEFINITION. Vilger Link's training (R359 to R361), acknowledgements and replays (R362, R363), its responses and snoops
(R366 to R371), and the crossing channels of the package (R374, R381, Table 16.2).
-/

namespace Sys2Proof.Machine

/-- Whether Vilger Link's dies are released and not in reset (Table 18.2, R421). -/
def lnkReach (s : State) : Bool := decide (4 ≤ s.rst.domains) && !wrapperClosed s 6 0 0 && !wrapperClosed s 6 0 1

/-- LNK_STATUS.STATE: 0 DOWN, 1 DETECT, 2 EQ, 3 DESKEW, 4 REV, 5 ACTIVE, 6 RETRAIN, 7 REFUSED; the halves share it
(R359). -/
def lnkState (s : State) : Nat := rget s 0 LNK_STATUS_STATE
def putLnkState (s : State) (v : Nat) : State := rput s 0 LNK_STATUS_STATE v

/-- A fault bit, a counter, of both halves. -/
def lnkFault (s : State) (f : Fld) : State := rset (rset s (halfStk 0) f) (halfStk 1) f
def lnkBump (s : State) (f : Fld) : State := rbump (rbump s (halfStk 0) f) (halfStk 1) f

/-- The machine with the training attempts and the retrain flag of the link. -/
def putTraining (s : State) (attempts : Nat) (retrain : Bool) : State :=
  { s with vil := { s.vil with attempts := attempts, retrain := retrain } }

/-! ### Training (R359 to R361) -/

/-- No lane carries traffic: USED and WIDTH are 0 (Tables 15.8, 15.9). -/
def dropLanes (s : State) : State :=
  rput (rput (rput s (halfStk 0) LNK_LANES_USED 0) (halfStk 1) LNK_LANES_USED 0) 0 LNK_STATUS_WIDTH 0

/-- LNK_CTL.EN written (R359): from 0 to 1 training starts when the reference is present; 0 takes the link DOWN. -/
def writeLnkEn (s : State) (v : Bool) : State :=
  if !v then putTraining (setRword (dropLanes (rput s 0 LNK_CTL_EN 0)) 0 0x110004 0) 0 false
  else if ron s 0 LNK_CTL_EN then s
  else
    let s1 := putTraining (rset s 0 LNK_CTL_EN) 0 false
    if ron s 0 CLK_STATUS_REF_OK then putLnkState s1 1 else s1

/-- A training attempt fails: the third in a row leaves the link DOWN with TRAINFAIL, else it starts again. -/
def failTraining (s : State) : State :=
  let n := s.vil.attempts + 1
  let s1 := dropLanes (putTraining s n false)
  if 3 ≤ n then lnkFault (putLnkState s1 0) LNK_FAULT_TRAINFAIL else putLnkState s1 1

/-- The lanes of a half that may carry traffic: good, and not lasting in the log (R360, Table 16.2). -/
def usableLanes (s : State) (h : Nat) : List Nat :=
  (List.range 16).filter fun i => bitOf (rget s (halfStk h) LNK_LANES_GOOD) i && match logEntryOf s (vilgerLaneUnit (16 * h + i)) with
    | some e => e.st != 1
    | none => true

/-- The lowest aligned group of `w` usable lanes of a half: its first lane (R360). -/
def laneGroup (s : State) (h w : Nat) : Option Nat :=
  ((List.range (16 / w)).map fun j => j * w).find? fun a =>
    (List.range w).all fun i => (usableLanes s h).contains (a + i)

/-- The largest width that both halves can fill (R360). -/
def linkWidth (s : State) : Option Nat :=
  [16, 8, 4].find? fun w => (laneGroup s 0 w).isSome && (laneGroup s 1 w).isSome

/-- The width in force: WIDTH, USED, and DEGRADE below 32 lanes. -/
def putWidth (s : State) (w : Nat) : State :=
  let s1 := (List.range 2).foldl (fun s h =>
    rput s (halfStk h) LNK_LANES_USED ((2 ^ w - 1) * 2 ^ ((laneGroup s h w).getD 0))) s
  let s2 := rput s1 0 LNK_STATUS_WIDTH (if w = 16 then 3 else if w = 8 then 2 else 1)
  if w < 16 then lnkFault s2 LNK_FAULT_DEGRADE else s2

/-- Both halves enter RETRAIN, by LNK_CTL.RETRAIN or after eight replays; RETRAINED is set for the latter (R363,
Table 15.9). -/
def startRetrain (s : State) (replays : Bool) : State :=
  if lnkState s ≠ 5 then s
  else
    let s0 := putLnkState s 6
    let s1 := lnkBump (if replays then lnkFault s0 LNK_FAULT_RETRAINED else s0) LNK_RETRAINS
    { s1 with vil := { s1.vil with
      retrain := true
      halves := s1.vil.halves.map fun v => { v with replays := 0 } } }

/-- Lanes that fail EQ at a retrain count a repeated event (Table 16.2). -/
def failedLanes (s : State) (h : Nat) (good : Half) : State :=
  (List.range 16).foldl (fun s i =>
    if good.getLsbD i then s else (logCount s (vilgerLaneUnit (16 * h + i)) true 1 0).1) s

/-! ### Acknowledgements and replays (R362, R363) -/

/-- A half after an acknowledgement up to SEQ `ack`. -/
def ackHalf (v : VHalf) (ack : Nat) : VHalf :=
  let old := fun (q : Nat) => decide ((ack + 1024 - q) % 1024 < 256)
  { v with
    replay := (v.replay.filter fun q => !old q.seq)
    replays := if v.replay.any fun q => old q.seq then 0 else v.replays }

/-- A half replays its unacknowledged flits, oldest first. -/
def replayHalf (s : State) (h : Nat) : State :=
  let v := vhalf s h
  if v.replay.isEmpty then s
  else
    let s1 := putHalf s h (v.replay.foldl (fun v q => putOut v 1 q) { v with replays := v.replays + 1 })
    rbump { s1 with vil := { s1.vil with
      resent := s1.vil.resent.filter (fun q => q.1 != h) ++ v.replay.map fun q => (h, q.seq) } } (halfStk h)
      LNK_REPLAYS v.replay.length

/-- The scramblers of a half's lanes in use at the end of training: the lane number, and 1 in bit 30 (R358). -/
def scramSeeds (s : State) (h : Nat) : List (BitVec 31) :=
  ((List.range 16).filter fun i => bitOf (rget s (halfStk h) LNK_LANES_USED) i).map fun i =>
    BitVec.ofNat 31 (16 * h + i + 2 ^ 30)

/-- At the end of a training a half seeds its scramblers, sends the NAK that is due, and sends on from the last acknowledged
SEQ (R358, R363). -/
def resumeHalf (s : State) (h : Nat) : State :=
  let s1 := replayHalf (putHalf s h (sendNak { vhalf s h with scram := scramSeeds s h })) h
  sendStalled (sendHeld (putHalf s1 h { vhalf s1 h with replays := 0 }) h) h

/-- Both halves do. -/
def resumeLink (s : State) : State := resumeHalf (resumeHalf s 0) 1

/-- What a good flit's first eight bytes say: ACK, NAK, returned credits (Table 15.3). -/
def takeHeader (s : State) (h : Nat) (hdr : Nat) : State :=
  let v := vhalf s h
  let v1 := if bitOf hdr 20 then ackHalf v (bitsOf hdr 10 10) else v
  let cls := bitsOf hdr 24 2
  let v2 := if cls < 3 then { v1 with credits := v1.credits.set cls (nth v1.credits cls + bitsOf hdr 26 12) } else v1
  sendStalled (sendHeld (if bitOf hdr 21 then replayHalf (putHalf s h v2) h else putHalf s h v2) h) h

/-- The companion's revisions (R361): ACTIVE at the highest common revision, or REFUSED. -/
def exchangeRevisions (s : State) (lo hi : Nat) : State :=
  let neg := min hi (rget s 0 LNK_REV_REVMAX)
  if neg < max lo (rget s 0 LNK_REV_REVMIN) then lnkFault (putLnkState (dropLanes s) 7) LNK_FAULT_REFUSED
  else resumeLink (rput (putLnkState (putTraining s 0 false) 5) 0 LNK_STATUS_NEGREV neg)

/-! ### Responses and snoops (R366 to R371) -/

/-- The bytes that part `i` of a region-4 read takes from its line. -/
def partBytes (s : State) (id i : Nat) (data : List Byte) : List Byte :=
  match s.vil.ops.find? fun o => o.id == id with
  | some o =>
    match (linePieces 2048 (addrOff o.packet.dest) o.packet.len)[i]? with
    | some q => (data.drop (q.1 % 64)).take q.2
    | none => []
  | none => []

/-- A response with an unknown tag is discarded (LNK_FAULT.ORPHAN). -/
def orphan (s : State) (h : Nat) : State := rset s (halfStk h) LNK_FAULT_ORPHAN

/-- DAT (R366, R368, R370): an RDS that no snoop has poisoned installs its line, and the data goes to its requester. -/
def takeDat (s : State) (h : Nat) (tag : BitVec 12) (st : Status) (data : List Byte) : State :=
  match reqOf s h tag with
  | none => orphan s h
  | some q =>
    let line := q.msg.addr.toNat / 64
    let bytes := data.take 64
    let s1 := endReq s h q
    let keep := decide (q.msg.opc = 0x01) && decide (st = .ok) && !q.poisoned
    let s2 := if keep then installLine s1 h line bytes (q.purpose == .watch) else s1
    match q.purpose with
    | .packet id i => endPart s2 id i st (partBytes s2 id i bytes)
    | .watch => if q.again then watchRead s2 (64 * line) else s2
    | _ => s2

/-- CMP (R366, R371): a write, an EVS or an NTF of the module has ended. -/
def takeCmp (s : State) (h : Nat) (tag : BitVec 12) (st : Status) : State :=
  match reqOf s h tag with
  | none => orphan s h
  | some q =>
    let s1 := endReq s h q
    match q.purpose with
    | .packet id i => endPart s1 id i st []
    | .helm g => groupCmp s1 g
    | _ => s1

/-- Reads of a line, outstanding when it is snooped, are poisoned (R368). -/
def poisonReads (s : State) (h line : Nat) : State :=
  let v := vhalf s h
  let hit := fun (q : VReq) => q.msg.opc == 0x01 && q.msg.addr.toNat / 64 == line && !q.poisoned
  let n := (v.reqs.take 2048).countP hit
  rbump (putHalf s h { v with reqs :=
    ((v.reqs.take 2048).map fun q => if hit q then { q with poisoned := true } else q) ++ v.reqs.drop 2048 }) (halfStk h)
    LNK_POISON n

/-- A watch notice goes on channel 0 to the Helm of the stack that LEADSTK names; the lead Helm keeps it (R368). -/
def sendNotice (s : State) (h line : Nat) : State :=
  let k := rget s 0 LNK_CTL_LEADSTK
  let s1 := crossFlits (rbump s (halfStk h) LNK_NOTICES) (halfStk h) k 0 1
  if leadOf s = some k then
    { s1 with serve := { s1.serve with notices := s1.serve.notices ++ [BitVec.ofNat 48 (64 * line)] } }
  else s1

/-- SNI (R368): the line is dropped, its outstanding reads are poisoned, SNR answers, and a watched line sends a notice
to the lead Helm. -/
def takeSni (s : State) (h : Nat) (tag : BitVec 12) (addr : BitVec 48) : State :=
  let line := addr.toNat / 64
  let s1 := poisonReads (dropLine (rbump s (halfStk h) LNK_SNOOPS) h line) h line
  let s2 := sendMsg s1 ⟨BitVec.ofNat 1 h, 0x07, tag, 1, 0, 0, []⟩
  if (watchedLines s).contains (64 * line) then sendNotice s2 h line else s2

/-! ### Crossing channels (Table 16.2) -/

/-- The stacks that a crossing channel joins (notes/assumptions/57.md). -/
def crossingStacks (ch : Nat) : List Nat :=
  if ch < 120 then
    let k := 4 * (ch / 20 / 3) + ch / 20 % 3
    [k, k + 1]
  else if ch < 216 then [(ch - 120) / 24, (ch - 120) / 24 + 4]
  else if ch < 248 then [dieStack ((ch - 216) / 8)]
  else []

/-- An event of a crossing channel: a lasting one resets the module (Table 16.2). -/
def crossingEvent (s : State) (ch : Nat) (repeated : Bool) : State :=
  let s1 := (crossingStacks ch).foldl (fun s k =>
    rset s k (if repeated then STK_NOC_FAULT_XDOWN else STK_NOC_FAULT_XREPLAY)) s
  let r := logCount s1 (crossingUnit ch) repeated 1 0
  if r.2 then moduleReset r.1 8 false else r.1

/-! ### Replay limits (Table 16.4, R381) -/

/-- Eight consecutive replays without an acknowledgement (R381): a fleet port, or both Vilger halves, retrain; the flits
of a crossing channel wait in their buffers. -/
def replayLimit (s : State) (l : LinkRef) : State :=
  match l with
  | .fleetPort p => if 8 ≤ (portOf s p.toNat).replays then retrainPort s p.toNat else s
  | .vilger h => if 8 ≤ (vhalf s h.toNat).replays then startRetrain s true else s
  | .crossing c =>
    if 8 ≤ mapGet (fun _ => 0) s.fleet.xreplays c.toNat ∧ !s.fleet.xtrain.contains c.toNat then
      { s with fleet := { s.fleet with
        xreplays := mapSet (fun _ => 0) s.fleet.xreplays c.toNat 0
        xtrain := s.fleet.xtrain ++ [c.toNat] } }
    else s

end Sys2Proof.Machine
end

