-- ==== Sys2Proof/Machine/Power.lean ====
section
/-!
DEFINITION. The power and clock commands (R394 to R414): the 48 V entry, hard trips, stack power, clock multiplexers,
PLLs, loss of clock, and the frequency counters.
-/

namespace Sys2Proof.Machine

/-- Module power states (Table 17.7): 0 STANDBY, 1 CHARGING, 2 MAIN, 3 SAFE, 4 TRIPPED, 5 STOPPING. -/
def pwrState (s : State) : Nat := rget s 0 PWR_STATUS_STATE
def putPwrState (s : State) (v : Nat) : State := rput s 0 PWR_STATUS_STATE v

/-! ### The 48 V entry (R394 to R396, R440) -/

/-- Whether a MAIN_EN must wait: step 2 is not complete, or T is 95 °C or more (R425, R440). -/
def mainWaits (s : State) : Bool :=
  decide (rget s 0 BNC_BRINGUP_STEP < 3) || decide (95 * 256 ≤ signed 16 (rget s 0 BNC_TJ_T))

/-- The input disconnect closes and charging begins (R395). -/
def startCharge (s : State) : State :=
  putPwrState { s with pwr := { s.pwr with held := false, charged := false } } 1

/-- A MAIN_EN that was held takes effect once it may. -/
def heldMain (s : State) : State :=
  if s.pwr.held && !s.bnc.stopped && !mainWaits s && decide (pwrState s = 0) then startCharge s else s

/-- PWR_CTL.MAIN_EN written (R395, R400): 1 starts charging from STANDBY, unless an orderly stop has begun since the
last reset or ROM recovery refuses it (R440, R462); 0 starts an orderly stop. -/
def writeMainEn (s : State) (v : Bool) : State :=
  if !islandUp s then s
  else if !v then orderlyStop { rput s 0 PWR_CTL_MAIN_EN 0 with pwr := { s.pwr with held := false } }
  else if ron s 0 LSR_STATUS_RECOVERY then s
  else
    let s1 := rset s 0 PWR_CTL_MAIN_EN
    if pwrState s ≠ 0 ∨ s.bnc.stopped then s1
    else if mainWaits s then { s1 with pwr := { s1.pwr with held := true } }
    else startCharge s1

/-- MAIN_EN. -/
def execMainEn (v : Bool) (s : State) : Host.Outcome State Fault Refusal := .next (writeMainEn s v)

/-- CHARGE_COMPLETE (R395): the capacitance is within 2 V of the input, and the entry converter starts. -/
def execChargeComplete (s : State) : Host.Outcome State Fault Refusal :=
  .next (if pwrState s = 1 then { s with pwr := { s.pwr with charged := true } } else s)

/-- VBUS_IN_REGULATION (R395, Table 17.2): STATE becomes MAIN. -/
def execVbusInRegulation (s : State) : Host.Outcome State Fault Refusal :=
  .next (if pwrState s = 1 ∧ s.pwr.charged then putPwrState s 2 else s)

/-- INRUSH (R395): charging has not finished 50 ms after MAIN_EN. -/
def execInrush (s : State) : Host.Outcome State Fault Refusal :=
  .next (if pwrState s = 1 ∧ !s.pwr.charged then hardTrip s 7 else s)

/-- VINUV (R394): input below 38 V for 20 µs; a module that is TRIPPED already stays so. -/
def execVinuv (s : State) : Host.Outcome State Fault Refusal :=
  .next (if pwrState s = 4 then s else hardTrip s 2)

/-- VINOV (R394): input above 62 V for 20 µs. -/
def execVinov (s : State) : Host.Outcome State Fault Refusal :=
  .next (if pwrState s = 4 then s else hardTrip s 3)

/-- BUSUV (R396): VBUS leaves its window downwards while it is in regulation, in MAIN or during an orderly stop. -/
def execBusuv (s : State) : Host.Outcome State Fault Refusal :=
  .next (if pwrState s = 2 ∨ pwrState s = 5 then hardTrip s 4 else s)

/-- BUSOV (R396): VBUS leaves its window upwards. -/
def execBusov (s : State) : Host.Outcome State Fault Refusal :=
  .next (if pwrState s = 2 ∨ pwrState s = 5 then hardTrip s 5 else s)

/-- POWER_SAMPLE (R401): a sample of input voltage and current, in the units of PWR_VIN, is taken into the means. -/
def execPowerSample (v i : Nat) (s : State) : Host.Outcome State Fault Refusal :=
  .next (if binnacleRuns s then takePower (rput (rput s 0 PWR_VIN_V (min 65535 v)) 0 PWR_VIN_I (min 65535 i)) else s)

/-- PWR_LOCK (R413): the governor caps are locked until reset. -/
def execPwrLock (s : State) : Host.Outcome State Fault Refusal :=
  .next (if islandUp s then rset s 0 PWR_CTL_LOCK else s)

/-! ### Stack power (R397) -/

/-- A stack's ramp in the direction that ON says, from off or on. -/
def rampStack (s : State) (k : Nat) : State :=
  if stackOnNow s k && decide (rget s k PWR_STK_STATUS_STATE = 0) then rput s k PWR_STK_STATUS_STATE 1
  else if !stackOnNow s k && decide (rget s k PWR_STK_STATUS_STATE = 2) then rput s k PWR_STK_STATUS_STATE 3
  else s

/-- PWR_STK_CTL.ON written: 0 takes the power from compute die and DRAM at once. -/
def writeStackOn (s : State) (k : Nat) (v : Bool) : State :=
  if s.rst.domains < 3 ∨ wrapperClosed s 5 k 0 then s
  else if v then rampStack (rset s k PWR_STK_CTL_ON) k
  else rampStack (stackOff (rput s k PWR_STK_CTL_ON 0) k) k

/-- STACK_ON. -/
def execStackOn (k : BitVec 3) (v : Bool) (s : State) : Host.Outcome State Fault Refusal :=
  .next (writeStackOn s k.toNat v)

/-- Tiles of a stack that were held in reset for want of power are released, once their domain is (R397, R419). -/
def freeTiles (s : State) (k : Nat) : State :=
  if tilesReleased s k then
    (mappedTiles s k).foldl (fun s q =>
      if (tileAt s k q.2).inReset ∧ (resetOf s ⟨0, BitVec.ofNat 3 k, q.1⟩).isNone then
        releaseTile s ⟨0, BitVec.ofNat 3 k, q.1⟩
      else s) (putStk s k { stkOf s k with phase := s.cyc % 3 })
  else s

/-- DRAM of a stack trained and zeroed (R481). -/
def zeroDram (s : State) (k : Nat) : State :=
  putStk { s with dram := mapClear s.dram (k * 2 ^ 36) ((k + 1) * 2 ^ 36) } k { stkOf s k with dramReady := true }

/-- What a stack with power gains: DRAM rails are good, its tiles are released; after bring-up step 8 its DRAM is trained and
zeroed at once (R481). -/
def stackPowered (s : State) (k : Nat) : State :=
  let s1 := freeTiles (rset s k PWR_STK_STATUS_DRAM_OK) k
  if 8 < rget s 0 BNC_BRINGUP_STEP then zeroDram s1 k else s1

/-- A stack's power-up ends: it has power unless ON was cleared meanwhile, when its power-down follows (R397); at step 5 the
next stack follows (R425). -/
def stackUp (s : State) (k : Nat) : State :=
  let s1 := rput s k PWR_STK_STATUS_STATE 2
  let s3 := rampStack (if stackOnNow s k then stackPowered s1 k else s1) k
  if rget s 0 BNC_BRINGUP_STEP = 5 ∧ s.rst.domains = 4 ∧ k < 7 then writeStackOn s3 (k + 1) true else s3

/-- STACK_POWER_DONE (R397): a ramp of 500 µs completes. -/
def execStackPowerDone (k : BitVec 3) (s : State) : Host.Outcome State Fault Refusal :=
  let n := k.toNat
  let s1 := elapseNs s 500000
  if rget s n PWR_STK_STATUS_STATE = 1 then .next (stackUp s1 n)
  else if rget s n PWR_STK_STATUS_STATE = 3 then
    .next (stopStep (rampStack (rput s1 n PWR_STK_STATUS_STATE 0) n))
  else .next s

/-! ### Clock multiplexers (R406, R407) -/

/-- CLK_SEL.SWITCHING of a stack as the multiplexers say. -/
def showSwitching (s : State) (m : MuxRef) : State :=
  match muxStack m with
  | some k => rput s k CLK_SEL_SWITCHING (bit (s.pwr.switching.any fun x => muxStack x == some k))
  | none => s

/-- A multiplexer begins to switch: its selection has changed. -/
def startSwitch (s : State) (m : MuxRef) : State :=
  if s.pwr.switching.contains m then s
  else showSwitching { s with pwr := { s.pwr with switching := s.pwr.switching ++ [m] } } m

/-- A multiplexer stands on its selected source. -/
def endSwitch (s : State) (m : MuxRef) : State :=
  showSwitching { s with pwr := { s.pwr with switching := s.pwr.switching.erase m } } m

/-- Whether a multiplexer's selected source is its source 1 (Table 17.4). -/
def muxSel (s : State) (m : MuxRef) : Bool :=
  match m with
  | .tile r => bitOf (rget s r.stack.toNat CLK_TSEL_SEL (r.tile.toNat / 32)) (r.tile.toNat % 32)
  | .mesh k => ron s k.toNat CLK_SEL_MESH
  | .dram k => ron s k.toNat CLK_SEL_DRAM
  | .binnacle => !ron s 0 CLK_STATUS_BNC_LOCK

/-- Whether a source of a multiplexer runs (Table 17.4): a PLL that is enabled, the forwarded reference, or BCK. -/
def sourceRuns (s : State) (m : MuxRef) (one : Bool) : Bool :=
  match m with
  | .tile r => ron s r.stack.toNat CLK_PLL_EN (bit one)
  | .mesh k => if one then ron s 0 CLK_STATUS_REF_OK else ron s k.toNat CLK_PLL_EN 2
  | .dram k => if one then ron s 0 CLK_STATUS_REF_OK else ron s k.toNat CLK_PLL_EN 3
  | .binnacle => true

/-- MUX_SWITCH (R406, R407): a switch completes, unless the old source has stopped. -/
def execMuxSwitch (m : MuxRef) (s : State) : Host.Outcome State Fault Refusal :=
  .next (if sourceRuns s m (!muxSel s m) then endSwitch s m else s)

/-- The blocks that a multiplexer feeds (Table 17.4, Table 18.3); the mesh feeds the stack's routers and its Helm. -/
def muxBlocks : MuxRef → List UnitRef
  | .tile r => [tileBlock r]
  | .mesh k => [⟨5, k, 0⟩, ⟨1, k, 0⟩]
  | .dram k => [⟨4, k, 0⟩]
  | .binnacle => []

/-- A block's reset begins, unless it is in reset already. -/
def ensureReset (s : State) (b : UnitRef) : State := if (resetOf s b).isSome then s else startBlock s b false

/-- MUX_HANG (R407): a multiplexer still switches after 64 BCK cycles, and Binnacle resets the fed domain; a hang of
Binnacle's own stops its core. -/
def execMuxHang (m : MuxRef) (s : State) : Host.Outcome State Fault Refusal :=
  match muxBlocks m with
  | [] => .next { s with bnc := { s.bnc with halted := true } }
  | bs =>
    if !s.pwr.switching.contains m || !binnacleRuns s then .next s
    else .next (bs.foldl ensureReset (rbump (endSwitch (elapseNs s 16000) m) 0 CLK_HANGS))

/-! ### Clocks (R404, R410, R411) -/

/-- PLL_LOCK (R404, Table 17.10): an enabled PLL of a released stack, a link die's core PLL, or Binnacle's locks
(notes/assumptions/61.md). -/
def execPllLock (k : BitVec 3) (pll : BitVec 3) (s : State) : Host.Outcome State Fault Refusal :=
  let n := k.toNat
  let p := pll.toNat
  if p = 6 then .next (if islandUp s then rset s 0 CLK_STATUS_BNC_LOCK else s)
  else if s.rst.domains < 2 then .next s
  else if p < 5 then .next (if ron s n CLK_PLL_EN p then rset s n CLK_PLL_LOCK p else s)
  else match (if p = 5 then stackDie n else none) with
    | some d => .next { s with pwr := { s.pwr with linkLocks := if s.pwr.linkLocks.contains d then s.pwr.linkLocks
        else s.pwr.linkLocks ++ [d] } }
    | none => .next s

/-- What a loss-of-clock detector records (Table 17.7). -/
def noteLoss (s : State) (c : ClockLoss) : State :=
  match c with
  | .bck => rset (rput (rput s 0 CLK_STATUS_BCK_OK 0) 0 CLK_STATUS_BNC_LOCK 0) 0 CLK_STATUS_LOC_BCK
  | .ref => rset (rput s 0 CLK_STATUS_REF_OK 0) 0 CLK_STATUS_LOC_REF
  | .pll => rset s 0 CLK_STATUS_LOC_REF
  | .binnaclePll => rset (rput s 0 CLK_STATUS_BNC_LOCK 0) 0 CLK_STATUS_LOC_REF

/-- LOSS_OF_CLOCK (R410): the module enters and latches the safe state. -/
def execLossOfClock (c : ClockLoss) (s : State) : Host.Outcome State Fault Refusal :=
  .next (rbump (safeState (noteLoss s c)) 0 CLK_LOCS)

/-- CLOCK_RETURN (R411): a detector rises; SAFE stays. -/
def execClockReturn (c : ClockLoss) (s : State) : Host.Outcome State Fault Refusal :=
  match c with
  | .bck => .next (rset s 0 CLK_STATUS_BCK_OK)
  | .ref => .next (rset s 0 CLK_STATUS_REF_OK)
  | .pll => .next s
  | .binnaclePll => .next s

/-! ### Power loss (R199, R415, R416) -/

/-- The registers that only a power-on clears are cleared, TESTMODE and the lock of a failed clearing (R413, R416, R460, R467); the detectors' outputs
stand. -/
def clearPowerOn (s : State) : State :=
  let clk := BitVec.ofNat 32 (bitsOf (rword s 0 0x150100).toNat 0 2)
  setRword (setRword (recordCause { s with lsr := { s.lsr with testmode := false, zlock := false } } 1) 0 0x150008 0) 0 0x150100 clk

/-- POWER_LOSS (R199): every domain, Binnacle among them, loses its power; NOR, NAND and fuses stay. -/
def execPowerLoss (s : State) : Host.Outcome State Fault Refusal :=
  .next { clearPowerOn (dropIsland (dropDomains (endLong s))) with
    regs := [] }

/-! ### Frequency counters (R412) -/

/-- Stack, control and result fields of a frequency counter. -/
def fmeasStack : FmeasRef → Nat
  | .stack k => k.toNat
  | .module => 0

def fmeasDone (f : FmeasRef) : Fld := match f with
  | .stack _ => SCLK_FMEAS_CTL_DONE
  | .module => CLK_FMEAS_CTL_DONE

def fmeasCount (f : FmeasRef) : Fld := match f with
  | .stack _ => SCLK_FMEAS_RES_COUNT
  | .module => CLK_FMEAS_RES_COUNT

/-- Whether a counter's domain is released. -/
def fmeasReach (s : State) (f : FmeasRef) : Bool :=
  match f with
  | .stack k => decide (3 ≤ s.rst.domains) && !wrapperClosed s 5 k.toNat 0
  | .module => islandUp s

/-- GO of a frequency counter: a measurement starts, DONE is cleared. -/
def startMeasure (s : State) (f : FmeasRef) : State :=
  if !fmeasReach s f then s
  else
    let s1 := rput s (fmeasStack f) (fmeasDone f) 0
    { s1 with pwr := { s1.pwr with measuring := s1.pwr.measuring.erase f ++ [f] } }

/-- FMEAS_GO (R412). -/
def execFmeasGo (f : FmeasRef) (s : State) : Host.Outcome State Fault Refusal := .next (startMeasure s f)

/-- A clock in Hz as a fraction, and whether it comes from BCK. -/
structure ClockRate where
  num     : Nat
  den     : Nat
  fromBck : Bool
deriving DecidableEq, Repr

/-- BCK and the forwarded reference (R404). -/
def bckRate : ClockRate := ⟨4000000, 1, true⟩
def refRate : ClockRate := ⟨156250000, 1, false⟩

/-- A PLL of a stack: its reference divided by REFDIV, multiplied by FBDIV and divided by POSTDIV; 0 Hz while it does not
run (R404). -/
def pllRate (s : State) (k n : Nat) : ClockRate :=
  if ron s k CLK_PLL_EN n then
    ⟨156250000 * rget s k CLK_PLL_FBDIV n, max 1 (rget s k CLK_PLL_REFDIV n * rget s k CLK_PLL_POSTDIV n), false⟩
  else ⟨0, 1, false⟩

/-- The clock that a frequency counter's TARGET selects (Table 17.8); the mesh and DRAM clocks are their multiplexers'
(Table 17.4), and a reserved value selects none. -/
def targetRate (s : State) (f : FmeasRef) : ClockRate :=
  match f with
  | .stack k =>
    let n := rget s k.toNat SCLK_FMEAS_CTL_TARGET
    if (n = 2 ∧ ron s k.toNat CLK_SEL_MESH) ∨ (n = 3 ∧ ron s k.toNat CLK_SEL_DRAM) then refRate
    else if n < 5 then pllRate s k.toNat n
    else ⟨0, 1, false⟩
  | .module =>
    let n := rget s 0 CLK_FMEAS_CTL_TARGET
    if n = 0 then (if ron s 0 CLK_STATUS_BNC_LOCK then ⟨100000000, 1, true⟩ else bckRate)
    else if n < 5 then ⟨1250000000, 1, false⟩
    else ⟨0, 1, false⟩

/-- The counts that a measurement can give: target edges in GATE timebase cycles to ±1, and to BCK's ±0.5 % where one of the
two clocks comes from BCK and the other does not (R404, R412). -/
def fmeasRange (s : State) (f : FmeasRef) : Nat × Nat :=
  let t := targetRate s f
  let gate := match f with
    | .stack k => rget s k.toNat SCLK_FMEAS_CTL_GATE
    | .module => rget s 0 CLK_FMEAS_CTL_GATE
  let base := if (match f with
      | .stack k => ron s k.toNat SCLK_FMEAS_CTL_BASE
      | .module => ron s 0 CLK_FMEAS_CTL_BASE) then refRate else bckRate
  let lo := if t.fromBck = base.fromBck then 1000 else if base.fromBck then 1005 else 995
  let hi := if t.fromBck = base.fromBck then 1000 else if base.fromBck then 995 else 1005
  if base.fromBck then
    (gate * t.num * 1000 / (t.den * base.num * lo) - 1, ceilDiv (gate * t.num * 1000) (t.den * base.num * hi) + 1)
  else
    (gate * t.num * lo / (t.den * base.num * 1000) - 1, ceilDiv (gate * t.num * hi) (t.den * base.num * 1000) + 1)

/-- The count of a measurement: the operand, within the counts that the clocks allow (notes/assumptions/61.md). -/
def fmeasValue (s : State) (f : FmeasRef) (count : Word) : Nat :=
  max (fmeasRange s f).1 (min (fmeasRange s f).2 count.toNat)

/-- FMEAS_DONE (R412): the gate ends, the count is written. -/
def execFmeasDone (f : FmeasRef) (count : Word) (s : State) : Host.Outcome State Fault Refusal :=
  .next (if s.pwr.measuring.contains f then
    rset (rput { s with pwr := { s.pwr with measuring := s.pwr.measuring.erase f } } (fmeasStack f) (fmeasCount f)
      (fmeasValue s f count)) (fmeasStack f) (fmeasDone f)
  else s)

end Sys2Proof.Machine
end

