-- ==== Sys2Proof/Machine/ThermalOps.lean ====
section
/-!
DEFINITION. Sensors and their filters (R432 to R434), thermal limits (R433, R435, R436), throttling (R438), and
Sextant's temperature trigger (R189, R191).
-/

namespace Sys2Proof.Machine

/-! ### Sensors (R432, R434) -/

/-- A sensor by index: 0 to 47 diodes, 48 to 59 thermistors, 60 to 67 DRAM stacks. -/
def sensorAt (s : State) (i : Nat) : Sensor := mapGet (fun _ => Sensor.reset) s.bnc.sensors i
def putSensor (s : State) (i : Nat) (x : Sensor) : State :=
  { s with bnc := { s.bnc with sensors := mapSet (fun _ => Sensor.reset) s.bnc.sensors i x } }

/-- The mean of some readings, rounded down (notes/assumptions/59.md). -/
def meanOf (l : List Int) : Int := l.foldl (· + ·) 0 / ((max 1 l.length : Nat) : Int)

/-- The filtered value of a sensor, in 1/256 °C: 112 °C when it is broken. -/
def Sensor.filtered (x : Sensor) : Int := if x.st ≠ 0 then 28672 else meanOf x.readings

/-- Whether a sensor is valid and has been read. -/
def Sensor.valid (x : Sensor) : Bool := decide (x.st = 0) && !x.readings.isEmpty

/-- Whether a reading is implausible by the first two tests of R434: outside −40 to 150 °C, or more than 10 °C from the
previous valid reading. -/
def Sensor.implausible (x : Sensor) (temp : Int) : Bool :=
  decide (temp < -10240) || decide (38400 < temp) || match x.readings with
    | p :: _ => decide (2560 < (temp - p).natAbs)
    | [] => false

/-- A sensor after a reading of class `code` (0 plausible, 1 open, 2 short, 3 implausible): a broken one becomes valid
again after 64 plausible readings in a row. -/
def Sensor.take (x : Sensor) (code : Nat) (temp : Int) : Sensor :=
  if code ≠ 0 then { x with st := code, good := 0 }
  else if x.st = 0 then { x with readings := (temp :: x.readings).take 4 }
  else if 64 ≤ x.good + 1 then { x with readings := [temp], st := 0, good := 0 }
  else { x with good := x.good + 1 }

/-- Readings in a row at or above a limit. -/
def Sensor.heat (x : Sensor) (hotNow : Bool) : Sensor := { x with hot := if hotNow then x.hot + 1 else 0 }

/-- An alert is raised (Table 19.8). -/
def alert (s : State) (i : Nat) : State := rput s 0 BNC_ALERT_ALERTS (putBits (rget s 0 BNC_ALERT_ALERTS) i 1 1)

/-- A sensor that has just been found broken is counted. -/
def noteBroken (s : State) (before after : Sensor) : State :=
  if before.st = 0 ∧ after.st ≠ 0 then alert (rbump s 0 BNC_BROKEN) 3 else s

/-! ### Orderly stops (R436, R440) -/

/-- An orderly stop with one of some causes begins, unless one has begun since reset (notes/assumptions/63.md): the lowest
cause code is recorded, and only a module reset leaves STANDBY afterwards. Its event waits for the lead Helm; without one
load is lowered at once. -/
def startStop (s : State) (causes : List Nat) : State :=
  match causes with
  | [] => s
  | c :: cs =>
    if ron s 0 BNC_STATUS_THERMSTOP then s
    else
      let s1 := alert (rput (rset s 0 BNC_STATUS_THERMSTOP) 0 BNC_STATUS_STOPCAUSE (cs.foldl min c)) 2
      let s2 := { s1 with bnc := { s1.bnc with stopped := true } }
      if (leadOf s2).isNone then orderlyStop s2 else s2

/-! ### Diodes (R432 to R435) -/

/-- The diodes of the die that holds diode `n`: index 0 to 3 of a stack the compute die, 4 and 5 the base die. -/
def dieDiodes (n : Nat) : List Nat :=
  if n % 6 < 4 then (List.range 4).map fun i => n - n % 6 + i else [n - n % 6 + 4, n - n % 6 + 5]

/-- Whether a reading lies more than 20 °C from the mean of the other valid diodes of its die, when at least two are
valid. -/
def offDie (s : State) (n : Nat) (temp : Int) : Bool :=
  let l := ((dieDiodes n).filter fun i => i != n && (sensorAt s i).valid).map fun i => (sensorAt s i).filtered
  decide (2 ≤ l.length) && decide (5120 * l.length < (temp * l.length - l.foldl (· + ·) 0).natAbs)

/-- The class of a diode's sample (R434). -/
def diodeCode (s : State) (x : DiodeSample) : Nat :=
  if 950 < x.mv then 1
  else if x.mv < 100 then 2
  else if (sensorAt s x.diode.toNat).implausible x.temp || offDie s x.diode.toNat x.temp then 3
  else 0

/-- A diode's sample is taken; `s0` is the machine before the round. -/
def takeDiode (s0 s : State) (x : DiodeSample) : State :=
  let n := x.diode.toNat
  if 48 ≤ n then s
  else
    let a := sensorAt s n
    let b := (a.take (diodeCode s0 x) x.temp)
    let c := b.heat (decide (b.st = 0) && decide (32000 ≤ x.temp))
    let s1 := noteBroken (putSensor s n c) a c
    rput (rput s1 0 BNC_DIODE_TEMP (unsigned 16 c.filtered) n) 0 BNC_DIODE_STATE c.st n

/-- The largest filtered value over all diodes, and the diode that gives it (R433). -/
def hottest (s : State) : Int × Nat :=
  (List.range 48).foldl (fun m n => if m.1 < (sensorAt s n).filtered then ((sensorAt s n).filtered, n) else m)
    ((sensorAt s 0).filtered, 0)

/-- BNC_TJ at the end of a round. -/
def putJunction (s : State) : State :=
  rput (rput s 0 BNC_TJ_T (unsigned 16 (hottest s).1)) 0 BNC_TJ_SRC (hottest s).2

/-- T, in 1/256 °C. -/
def junction (s : State) : Int := signed 16 (rget s 0 BNC_TJ_T)

/-- Whether two diodes of one die are broken (R435). -/
def dieBroken (s : State) : Bool :=
  (List.range 48).any fun n => decide (2 ≤ (dieDiodes n).countP fun i => (sensorAt s i).st != 0)

/-! ### Throttling (R438) -/

/-- HOSTQ as it acts: 100 at most. -/
def hostLevel (s : State) : Nat := min 100 (rget s 0 BNC_THROTTLE_HOSTQ)

/-- APPLIED, GRACE and ENFORCED from REQ and HOSTQ. -/
def decideThrottle (s : State) : State :=
  let q := rget s 0 BNC_THROTTLE_REQ
  let h := hostLevel s
  if q ≤ h then rput (rput (rput s 0 BNC_THROTTLE_APPLIED h) 0 BNC_THROTTLE_GRACE 0) 0 BNC_THROTTLE_ENFORCED 0
  else if ron s 0 BNC_THROTTLE_ENFORCED then rput s 0 BNC_THROTTLE_APPLIED q
  else if ron s 0 BNC_THROTTLE_GRACE then rput s 0 BNC_THROTTLE_APPLIED h
  else
    let s1 := rput (rset s 0 BNC_THROTTLE_GRACE) 0 BNC_THROTTLE_APPLIED h
    { s1 with bnc := { s1.bnc with graceAt := s.cyc } }

/-- REQ at the end of a round, in harbour mode. -/
def requestThrottle (s : State) : State :=
  if fleetMode s then s
  else
    let q := thermalOffer s
    let s1 := if rget s 0 BNC_THROTTLE_REQ = 0 ∧ 0 < q then alert s 0 else s
    decideThrottle (rput s1 0 BNC_THROTTLE_REQ q)

/-! ### Sextant's temperature (R189, R191) -/

/-- The valid compute-die diodes of a stack. -/
def stackDiodes (s : State) (k : Nat) : List Int :=
  (((List.range 4).map fun i => sensorAt s (6 * k + i)).filter fun x => x.valid).map Sensor.filtered

/-- NOWTEMP and TEMP_INVALID of a stack, and its temperature trigger once a pass has given a fix temperature. -/
def stackTemperature (s : State) (k : Nat) : State :=
  if !baseReach s k then s
  else match stackDiodes s k with
    | [] => rset s k SXT_STATUS_TEMP_INVALID
    | l =>
      let s1 := rput (rput s k SXT_TEMP_NOWTEMP (unsigned 16 (meanOf l))) k SXT_STATUS_TEMP_INVALID 0
      let d := stkOf s1 k
      let was := signed 16 (rget s1 k SXT_TEMP_FIXTEMP)
      if (d.pass.isSome ∨ 0 < rget s1 k SXT_PASSES) ∧ !d.passes.contains 3 ∧ 1024 ≤ (meanOf l - was).natAbs then
        temperatureTrigger s1 k
      else s1

/-! ### Rounds and readings -/

/-- What follows the end of a round of diodes (R433 to R438, R440). -/
def endRound (s : State) : State :=
  let s1 := putJunction s
  if pwrState s1 ≠ 4 ∧ (List.range 48).any fun n => decide ((sensorAt s1 n).st = 0) && decide (2 ≤ (sensorAt s1 n).hot) then
    hardTrip s1 1
  else
    let s2 := stackNos.foldl stackTemperature (requestThrottle s1)
    heldMain (startStop s2 ((if 29440 ≤ junction s2 then [1] else []) ++ if dieBroken s2 then [2] else []))

/-- A DRAM stack's reading (R436). -/
def takeDramTemp (s : State) (k : Nat) (temp : Int) : State :=
  let x := (sensorAt s (60 + k)).heat (decide (26880 ≤ temp))
  let s1 := rput (rput (putSensor s (60 + k) x) 0 BNC_DRAMT_TEMP (unsigned 16 temp) k) 0 BNC_DRAMT_VALID
    (bit (decide (rget s k PWR_STK_STATUS_STATE = 2))) k
  if 2 ≤ x.hot then startStop s1 [3] else s1

/-- The class of a thermistor's code (R434; notes/assumptions/60.md). -/
def thermistorCode (x : Sensor) (code : BitVec 12) : Nat :=
  if 4080 < code.toNat then 1
  else if code.toNat < 16 then 2
  else if x.implausible (Config.thermistor code) then 3
  else 0

/-- A thermistor's reading, and its limit (R436). -/
def takeThermistor (s : State) (n : Nat) (code : BitVec 12) : State :=
  let a := sensorAt s (48 + n)
  let b := a.take (thermistorCode a code) (Config.thermistor code)
  let s1 := noteBroken (putSensor s (48 + n) b) a b
  let s2 := rput (rput s1 0 BNC_THERM_TEMP (unsigned 16 b.filtered) n) 0 BNC_THERM_STATE b.st n
  if n < 10 then (if 32000 ≤ b.filtered then startStop s2 [4] else s2)
  else if n = 10 then (if 21760 ≤ b.filtered then alert s2 5 else s2)
  else if 11520 ≤ b.filtered then alert s2 4
  else s2

end Sys2Proof.Machine
end

