-- ==== Sys2Proof/Machine/Sounding.lean ====
section
/-!
DEFINITION. The Sounding ADC (R432, R446 to R449): sequence passes, urgent conversions, results, and the reference
buffer.
-/

namespace Sys2Proof.Machine

/-! ### Which conversion runs (R447 to R449) -/

/-- The first sequence entry from `n` up to LEN that converts. -/
def nextEntry (s : State) (n : Nat) : Option Nat :=
  (List.range 32).find? fun i => decide (n ≤ i) && decide (i ≤ rget s 0 SND_SEQCFG_LEN) && ron s 0 SND_SEQ_EN i

/-- The machine with a conversion in progress. -/
def putActive (s : State) (a : Option Bool) : State := { s with snd := { s.snd with active := a } }
def putUrgent (s : State) (l : List (Nat × Bool)) : State := { s with snd := { s.snd with urgent := l } }

/-- The next conversion starts, once the reference is ready and none is in progress: urgent ones first. -/
def startConversion (s : State) : State :=
  if s.snd.active.isSome || !ron s 0 SND_STATUS_REF_RDY then s
  else if !s.snd.urgent.isEmpty then putActive s (some false)
  else if ron s 0 SND_STATUS_SEQ_RUN then putActive s (some true)
  else s

/-- The conversion in progress is aborted: it writes no result. -/
def abortConversion (s : State) : State :=
  if s.snd.active.isSome then rbump (putActive s none) 0 SND_PREEMPT else s

/-- The sequence conversion in progress gives way to an urgent request: it is aborted, unless the last entry's conversion
completed in this very cycle, when the next one has not begun (R448; notes/assumptions/103.md). -/
def giveWay (s : State) : State :=
  if s.snd.active ≠ some true then s
  else if s.snd.doneAt = some s.cyc then putActive s none
  else abortConversion s

/-- A channel enters the urgent queue of four, or is dropped. -/
def enqueueUrgent (s : State) (ch : Nat) (fast : Bool) : State :=
  if 4 ≤ s.snd.urgent.length then rset s 0 SND_STATUS_URGOVF
  else
    let s1 := putUrgent s (s.snd.urgent ++ [(ch, fast)])
    startConversion (giveWay s1)

/-- SND_CHSEL.GO (R448): an urgent request for CH. -/
def writeChsel (s : State) : State :=
  if islandUp s then enqueueUrgent (rput s 0 SND_CHSEL_DONE 0) (rget s 0 SND_CHSEL_CH) false else s

/-- URGENT_REQUEST. -/
def execUrgentRequest (s : State) : Host.Outcome State Fault Refusal := .next (writeChsel s)

/-- FAST_PAIR (R448): while FAST_EN is 1 the timer requests VIN, then IIN. -/
def execFastPair (s : State) : Host.Outcome State Fault Refusal :=
  .next (if islandUp s ∧ ron s 0 SND_CTL_FAST_EN then enqueueUrgent (enqueueUrgent s 3 true) 4 true else s)

/-- SEQUENCE_PASS (R447): a pass starts, or is skipped while the last one runs. -/
def execSequencePass (s : State) : Host.Outcome State Fault Refusal :=
  if !islandUp s ∨ !ron s 0 SND_CTL_SEQ_EN then .next s
  else if ron s 0 SND_STATUS_SEQ_RUN then .next (rbump (rset s 0 SND_STATUS_SEQLATE) 0 SND_SEQSKIP)
  else
    let s1 := { s with snd := { s.snd with pass := (s.snd.pass + 1) % 256 } }
    match nextEntry s1 0 with
    | some i => .next (startConversion (rset (rput s1 0 SND_STATUS_ENTRY i) 0 SND_STATUS_SEQ_RUN))
    | none => .next s1

/-! ### Results (R401, R432, Table 19.5) -/

/-- A flag of Table 17.7 or 17.10 and its window: the flag changes after four samples that disagree with it (R432).
`lo` and `hi` are in mV at the channel's input scale `mul`. -/
def sampleFlag (s : State) (ch k : Nat) (f : Fld) (code mul lo hi : Nat) : State :=
  let good := decide (lo * 4096 ≤ code * 2500 * mul) && decide (code * 2500 * mul ≤ hi * 4096)
  if good = ron s k f then { s with snd := { s.snd with agree := mapSet (fun _ => 0) s.snd.agree ch 0 } }
  else
    let n := mapGet (fun _ => 0) s.snd.agree ch + 1
    if 4 ≤ n then
      rput { s with snd := { s.snd with agree := mapSet (fun _ => 0) s.snd.agree ch 0 } } k f (bit good)
    else { s with snd := { s.snd with agree := mapSet (fun _ => 0) s.snd.agree ch n } }

/-- What Binnacle takes from a channel's code: rails, input, bus and thermistors. Voltages are rounded down. -/
def takeChannel (s : State) (ch : Nat) (code : BitVec 12) : State :=
  let c := code.toNat
  if !binnacleRuns s then s
  else if ch = 3 then sampleFlag (rput s 0 PWR_VIN_V (c * 125 / 64)) ch 0 PWR_STATUS_VIN_OK c 32 40000 60000
  else if ch = 4 then rput s 0 PWR_VIN_I (c * 3125 / 2048)
  else if ch = 5 then sampleFlag (rput s 0 PWR_VBUS_V (c * 625 / 128)) ch 0 PWR_STATUS_BUS_OK c 8 11400 13200
  else if 8 ≤ ch ∧ ch < 16 then
    (if s.rst.domains < 3 then s else sampleFlag s ch (ch - 8) PWR_STK_STATUS_VBD_OK c 1 776 824)
  else if 16 ≤ ch ∧ ch < 24 then
    (if s.rst.domains < 3 then s else sampleFlag s ch (ch - 16) PWR_STK_STATUS_VREF_OK c 2 1188 1212)
  else if 32 ≤ ch ∧ ch < 44 then takeThermistor s (ch - 32) code
  else s

/-- The result of the sequence entry in progress; the pass goes on with the next entry, or ends. -/
def entryResult (s : State) (code : BitVec 12) : State :=
  let i := rget s 0 SND_STATUS_ENTRY
  let s1 := rput (rput (rset s 0 SND_RES_VALID i) 0 SND_RES_RESULT code.toNat i) 0 SND_RES_PASS s.snd.pass i
  let s2 := match nextEntry s1 (i + 1) with
    | some j => rput s1 0 SND_STATUS_ENTRY j
    | none => rput (rput s1 0 SND_STATUS_ENTRY 0) 0 SND_STATUS_SEQ_RUN 0
  takeChannel s2 (rget s 0 SND_SEQ_CH i) code

/-- The fast pair's second result completes a sample of input power (R401). -/
def fastSample (s : State) (ch : Nat) : State := if ch = 4 ∧ binnacleRuns s then takePower s else s

/-- The result of the urgent conversion in progress. -/
def urgentResult (s : State) (code : BitVec 12) : State :=
  match s.snd.urgent with
  | [] => s
  | (ch, fast) :: l =>
    let s1 := putUrgent s l
    if fast then fastSample (takeChannel (rput s1 0 (if ch = 3 then SND_FASTRES_VIN else SND_FASTRES_IIN) code.toNat) ch code) ch
    else rset (rput s1 0 SND_MANRES_RESULT code.toNat) 0 SND_CHSEL_DONE

/-- Whether Table 19.5 reserves a channel. -/
def channelReserved (ch : Nat) : Bool := ch == 7 || decide (26 ≤ ch ∧ ch < 32) || decide (44 ≤ ch)

/-- The channel of the conversion in progress: the sequence entry's, or that of the first urgent request. -/
def activeChannel (s : State) (entry : Bool) : Nat :=
  if entry then rget s 0 SND_SEQ_CH (rget s 0 SND_STATUS_ENTRY)
  else match s.snd.urgent with
    | q :: _ => q.1
    | [] => 0

/-- The code that a conversion gives: a reserved channel converts ground, code 0 (notes/assumptions/60.md). -/
def channelCode (ch : Nat) (code : BitVec 12) : BitVec 12 := if channelReserved ch then 0 else code

/-- CONVERSION_DONE (R446): the conversion in progress completes with a code, and the next one starts. -/
def execConversionDone (code : BitVec 12) (s : State) : Host.Outcome State Fault Refusal :=
  match s.snd.active with
  | none => .next s
  | some q =>
    let s1 := rbump (putActive { s with snd := { s.snd with doneAt := some s.cyc } } none) 0 SND_CONV
    let c := channelCode (activeChannel s q) code
    .next (startConversion (if q then entryResult s1 c else urgentResult s1 c))

/-! ### The reference buffer (R449) -/

/-- SND_CTL.REFBUF_EN written: 1 starts the count of 2,000 BCK cycles; 0 clears REF_RDY and aborts the conversion in
progress. -/
def writeRefbuf (s : State) (v : Bool) : State :=
  if !islandUp s then s
  else if v then rset s 0 SND_CTL_REFBUF_EN
  else abortConversion (rput (rput s 0 SND_CTL_REFBUF_EN 0) 0 SND_STATUS_REF_RDY 0)

/-- REFBUF_EN. -/
def execRefbufEn (v : Bool) (s : State) : Host.Outcome State Fault Refusal := .next (writeRefbuf s v)

/-- REF_RDY (R449): the count ends, and waiting conversions start. -/
def execRefRdy (s : State) : Host.Outcome State Fault Refusal :=
  .next (if ron s 0 SND_CTL_REFBUF_EN then startConversion (rset s 0 SND_STATUS_REF_RDY) else s)

end Sys2Proof.Machine
end

