-- ==== Sys2Proof/Machine/BringOps.lean ====
section
/-!
DEFINITION. What a quiesce that expires leaves (R421), the order of domain release (R419), and the work of bring-up
(R425 to R428): route tables (R306, R307), soft repair (R94, R468), self-test's effects, and boot records.
-/

namespace Sys2Proof.Machine

/-! ### Quiesce timeouts (R421) -/

/-- Free bytes where a GET that ends in the link die would have written, in its issuer. -/
def openIssuer (s : State) (p : Packet) : State :=
  match p.op, p.src with
  | .get, .tile m r =>
    if m ≠ moduleNo s then s
    else match siteOf s r.stack.toNat r.tile.toNat with
      | none => s
      | some site =>
        let t := tileAt s r.stack.toNat site
        let own := (t.fetches.flatMap fun o => if o.bankw.isSome then [] else
            (o.flying.filter fun q => q.1 == p.tag).map fun q => (q.2.dst, q.2.len))
          ++ (t.sigs.filter fun o => o.tag == p.tag).map fun o => (o.localA, o.len)
        own.foldl (fun s q =>
          let b := openBytes s q.2
          changeSite b.1 r.stack.toNat site fun t => swrite t q.1 b.2) s
  | _, _ => s

/-- The region-4 operations that run through a half end ABORTED. -/
def abortHalf (s : State) (h : Nat) : State :=
  let ops := s.vil.ops.filter fun o => halfOf (addrOff o.packet.dest) == h
  let s1 := ops.foldl (fun s o => openIssuer s o.packet) s
  let s2 := ops.foldl (fun s o => o.open_.foldl (fun s i => endPart s o.id i .aborted []) s) s1
  rbump s2 0 BNC_ABORTED ops.length

/-- What the ports of a link die still hold is lost, and the operations among it end ABORTED. -/
def abortPorts (s : State) (d : Nat) : State :=
  (List.range 4).foldl (fun s i =>
    let p := 4 * d + i
    let v := portOf s p
    let ops := (v.queued.map fun q => q.2).filter fun q => !isResponse q
    let s1 := putPort s p { v with replay := [], queued := [], resent := [], waiting := [] }
    rbump (ops.foldl (fun s q => endPacket s (addrStack (issuerAddr s q.src)) q .aborted) s1) 0 BNC_ABORTED ops.length) s

/-- The transfers inside a block end ABORTED. -/
def abortInside (s : State) (b : UnitRef) : State :=
  match blockTile s b with
  | some q => abortTile s q.1 q.2
  | none =>
    if b.kind ≠ 6 then s
    else abortPorts (if b.index < 2 then abortHalf s b.index else s) b.index

/-! ### Domain release (R419, Table 18.2) -/

/-- The precondition of an order. -/
def preconditionHolds (s : State) (order : Nat) : Bool :=
  match order with
  | 1 => ron s 0 CLK_STATUS_BCK_OK
  | 2 => decide (pwrState s = 2) && ron s 0 CLK_STATUS_REF_OK
  | 3 => stackNos.all fun k => (List.range 5).all fun i => ron s k CLK_PLL_LOCK i
  | 4 => (List.range 4).all fun d => s.pwr.linkLocks.contains d
  | 5 => decide (rget s 0 BNC_BRINGUP_STEP = 5)
      && stackNos.all fun k => !stackOnNow s k || decide (rget s k PWR_STK_STATUS_STATE = 2)
  | 6 => true
  | 7 => true
  | _ => false

/-- The orders up to `order` are released. -/
def orderUp (s : State) (order : Nat) : State := { s with rst := { s.rst with domains := order, stacks6 := 0 } }

/-- The release of order 6 takes the tiles of one stack after the other out of reset. -/
def releaseStack (s : State) : State :=
  let s1 := freeTiles { s with rst := { s.rst with stacks6 := s.rst.stacks6 + 1 } } s.rst.stacks6
  if 8 ≤ s1.rst.stacks6 then orderUp s1 6 else s1

/-- The heartbeats of the released Helms start. -/
def startBeats (s : State) : State := { s with stk := s.stk.map fun d => { d with beat := s.tick } }

/-- Slot 0 of the released domains is the present cycle. -/
def restartSlots (s : State) : State := { s with slot0 := restartCycle s 0 }

/-- What the release of an order does beyond leaving reset: the island's secrets and nonce (R456, R460), tick 0 (R338), the
link dies' and the Helms' firmware components (R461), the tiles of one stack, and the heartbeats' start. -/
def releaseOrder (s : State) (order : Nat) : State :=
  match order with
  | 1 => drawNonce (clearSecrets (orderUp s 1))
  | 2 => restartSlots (orderUp s 2)
  | 4 => orderUp { s with lsr := { s.lsr with linkFw := s.lsr.inForceB } } 4
  | 6 => releaseStack s
  | 7 => startBeats (orderUp { s with lsr := { s.lsr with helmFw := s.lsr.inForceB } } 7)
  | _ => orderUp s order

/-- Whether bring-up still runs: not ended, and the module neither in the safe state nor tripped. -/
def bringing (s : State) : Bool :=
  !ron s 0 BNC_BRINGUP_FAULTED && decide (pwrState s ≠ 3) && decide (pwrState s ≠ 4)

/-! ### Route tables (R306, R307) -/

/-- Whether failed routers `a` and `b` are neighbours, diagonal ones included. -/
def routerNear (a b : Nat) : Bool :=
  a != b && decide (a / 24 ≤ b / 24 + 1) && decide (b / 24 ≤ a / 24 + 1) && decide (a % 24 ≤ b % 24 + 1)
    && decide (b % 24 ≤ a % 24 + 1)

/-- Whether a router lies on an edge of the 20 × 24 mesh. -/
def routerEdge (a : Nat) : Bool := a / 24 == 0 || a / 24 == 19 || a % 24 == 0 || a % 24 == 23

/-- Failed routers on a longest route through the corner at `row` and `col`: along the row from the side that `west`
names, then along the column to the side that `north` names (R298). -/
def routePasses (l : List Nat) (row col : Nat) (west north : Bool) : Nat :=
  l.countP fun a =>
    (a / 24 == row && (if west then decide (a % 24 ≤ col) else decide (col ≤ a % 24)))
      || (a % 24 == col && (if north then decide (a / 24 < row) else decide (row < a / 24)))

/-- Whether a table with failed routers `l` is legal (R307). -/
def routesLegal (l : List Nat) : Bool :=
  decide (l.length ≤ 8) && !l.any routerEdge && !l.any (fun a => l.any (routerNear a))
    && (List.range 20).all fun r => (List.range 24).all fun c =>
      [true, false].all fun w => [true, false].all fun n => decide (routePasses l r c w n ≤ 2)

/-- Sites of a stack that fused records of a kind name (R468, R469). -/
def fusedSites (u : Fuses) (kind k : Nat) : List Nat :=
  u.repair.filterMap fun p =>
    let w := p.2.toNat
    if popBits p.2 % 2 = 1 ∧ bitsOf w 0 2 = kind ∧ bitsOf w 2 3 = k ∧ bitsOf w 5 9 < 480 then some (bitsOf w 5 9) else none

/-- The failed routers of a stack, from fuses and self-test. -/
def failedRouters (s : State) (k : Nat) (fails : List SelfTestFail) : List Nat :=
  (fusedSites s.lsr.fuses 3 k ++ fails.filterMap fun f => match f with
    | .router j site => if j.toNat = k ∧ site < 480 then some site else none
    | _ => none).eraseDups

/-- Sites of a stack that stay unmapped: fused, retired by the log, failed in self-test, or with a failed router. -/
def badSites (s : State) (k : Nat) (fails : List SelfTestFail) : List Nat :=
  fusedSites s.lsr.fuses 2 k ++ failedRouters s k fails
    ++ (s.log.entries.filterMap fun e => if e.unit.kind = 2 ∧ e.unit.stack.toNat = k ∧ e.st = 3 then some e.unit.index else none)
    ++ fails.filterMap fun f => match f with
      | .site j site => if j.toNat = k then some site else none
      | .retire j site => if j.toNat = k then some site else none
      | _ => none

/-- The good sites of a stack, in ascending order: logical tiles are numbered along them (notes/assumptions/62.md). -/
def goodSites (s : State) (k : Nat) (fails : List SelfTestFail) : List Nat :=
  (List.range 480).filter fun site => !(badSites s k fails).contains site

/-- A stack's route table loaded and locked (R309). -/
def loadRoutes (s : State) (k : Nat) (fails : List SelfTestFail) : State :=
  let s1 := (goodSites s k fails).zipIdx.foldl (fun s q => putMap s k q.2 (some q.1)) s
  let s2 := ((failedRouters s k fails).take 8).zipIdx.foldl (fun s q =>
    rput (rset s k STK_RT_FAIL_VALID q.2) k STK_RT_FAIL_SITE q.1 q.2) s1
  rset (rset s2 k STK_RT_STATUS_LEGAL) k STK_RT_CTL_LOCK

/-! ### Self-test (R426, R427, Table 18.5) -/

/-- Whether a value lies within `d` of `n`. -/
def withinOf (v n d : Nat) : Bool := decide (n ≤ v + d) && decide (v ≤ n + d)

/-- The counts of stack PLLs 0 to 4 in 1 ms (Table 18.5). -/
def pllCounts (i : Nat) : Nat := nth [1200000, 1320000, 1600000, 2000000, 1000000] i

/-- The failure that a measured value outside its limits is (Table 18.5). -/
def readingFail : SelfReading → Option SelfTestFail
  | .vin v => if 40000000 ≤ v ∧ v ≤ 60000000 then none else some .module
  | .vbus v => if 11400000 ≤ v ∧ v ≤ 13200000 then none else some .module
  | .vbd k v => if 776000 ≤ v ∧ v ≤ 824000 then none else some (.stack k)
  | .vref k v => if 1188000 ≤ v ∧ v ≤ 1212000 then none else some (.stack k)
  | .bck n => if withinOf n 100000 500 then none else some .module
  | .stackPll k i n => if withinOf n (pllCounts i) 1 then none else some (.stack k)
  | .linkCore _ n => if withinOf n 1250000 1 then none else some .module

/-- All failed checks of self-test: those reported, and those that the limits of Table 18.5 show. -/
def allFails (b : BringupIn) : List SelfTestFail := b.fails ++ b.readings.filterMap readingFail

/-- A log unit's STATE set. -/
def setUnitState (s : State) (u : UnitRef) (st : Nat) : State :=
  storeEntry s { (logEntryOf s u).getD (LogEntry.blank u) with st := st } true

/-- Whether a unit is lasting. -/
def unitLasting (s : State) (u : UnitRef) : Bool := match logEntryOf s u with
  | some e => e.st == 1
  | none => false

/-- Whether self-test fails with effect Module: a module check, or a lasting crossing channel (Table 16.2). -/
def moduleFails (s : State) (fails : List SelfTestFail) : Bool :=
  fails.contains .module || (List.range 248).any fun ch => unitLasting s (crossingUnit ch)

/-- Whether a stack fails self-test: a stack check, its Helm twice, a lasting Helm, its route table, or its tile count
(R307, R392, R427). -/
def stackFails (s : State) (fails : List SelfTestFail) (k : Nat) : Bool :=
  fails.any (fun f => match f with
    | .stack j => j.toNat == k
    | .helm j => j.toNat == k
    | _ => false)
  || unitLasting s (helmUnit k) || !routesLegal (failedRouters s k fails)
  || decide ((goodSites s k fails).length < Config.tilesPerStack)

/-- The stack and site of a failure with effect Site or Router. -/
def failedSite : SelfTestFail → Option (Nat × Nat)
  | .retire k site => some (k.toNat, site)
  | .site k site => some (k.toNat, site)
  | .router k site => some (k.toNat, site)
  | _ => none

/-- Sites that fail self-test enter the log as retired tiles, those fenced and those of a failed router too (R392, R427,
notes/assumptions/110.md). -/
def retireSites (s : State) (fails : List SelfTestFail) : State :=
  fails.foldl (fun s f => match failedSite f with
    | some q => setUnitState s (tileUnit q.1 q.2) 3
    | none => s) s

/-- Bring-up ends in FAULTED. -/
def faultBringup (s : State) : State := rset s 0 BNC_BRINGUP_FAULTED

/-- A stack that failed stays in reset with ON = 0. -/
def failStack (s : State) (k : Nat) : State :=
  writeStackOn (rput s 0 BNC_BRINGUP_STACKFAIL (putBits (rget s 0 BNC_BRINGUP_STACKFAIL) k 1 1)) k false

/-- Whether a stack's Helm passed power-up self-test: its ROM self-test, once or on the retest, and no lasting fault of it in
the log (Table 18.5, Table 16.2). -/
def helmPassed (s : State) (fails : List SelfTestFail) (k : Nat) : Bool :=
  !unitLasting s (helmUnit k) && fails.all fun f => match f with
    | .helm j => j.toNat != k
    | _ => true

/-- Stack `k`'s Helm becomes the lead Helm, and LEADSTK names it (R14, R368). -/
def putLead (s : State) (k : Nat) : State :=
  let s1 := stackNos.foldl (fun s j => rput s j HLM_STATUS_LEADSTK k) (rset s k HLM_STATUS_LEAD)
  stackNos.foldl (fun s j => if (stackDie j).isSome then rput s j LNK_CTL_LEADSTK k else s) s1

/-- The lead Helm is chosen: the lowest stack whose Helm passed power-up self-test (R14, notes/assumptions/52.md). -/
def chooseLead (s : State) (fails : List SelfTestFail) : State :=
  match stackNos.find? (helmPassed s fails) with
  | some k => putLead s k
  | none => s

/-! ### Soft repair (R94, R95, R468) -/

/-- The lines that a stack's lasting line groups spare from this bring-up on; their groups are repaired. -/
def spareLines (s : State) : State :=
  let due := s.log.lines.filter fun q =>
    !s.log.spared.contains q && unitLasting s (groupUnit q.1 q.2.1 (41 * q.2.2.1 + q.2.2.2 / 16))
  let s1 := { s with log := { s.log with spared := s.log.spared ++ due } }
  due.foldl (fun s q => setUnitState s (groupUnit q.1 q.2.1 (41 * q.2.2.1 + q.2.2.2 / 16)) 2) s1

/-- A tile's spare lines loaded and locked; a segment that needs a seventeenth makes it demotion-pending. -/
def repairTile (k : Nat) (s : State) (site : Nat) : State :=
  let many := (List.range 4).any fun seg => decide (16 < (segmentSpares s k site seg).length)
  let s1 := putTile s k site (loadColreps s k site (tileAt s k site))
  if many then pendDemotion s1 k site else s1

/-- Soft repair of a stack, FENCE of the sites left unmapped (R146), its deviation table, and its bring-up pass (R425
step 7). -/
def repairStack (fails : List SelfTestFail) (s : State) (k : Nat) : State :=
  let s1 := loadRoutes s k fails
  let s2 := (mappedTiles s1 k).foldl (fun s q => repairTile k s q.2)
    ((badSites s k fails).eraseDups.foldl (fun s site => changeSite s k site fenceTile) s1)
  trigger (takeTargets (loadTable s2 k) k) k 1

/-! ### Bring-up steps (Table 18.4) -/

/-- The sequence table's entries 0 to 27 and LEN (R447). -/
def loadSequence (s : State) : State :=
  let chs := [0, 1, 2, 5, 6] ++ (List.range 8).map (· + 8) ++ [24, 25] ++ (List.range 12).map (· + 32)
  let s1 := chs.zipIdx.foldl (fun s q => rset (rput s 0 SND_SEQ_CH q.1 q.2) 0 SND_SEQ_EN q.2) s
  rput (rput (rput s1 0 SND_SEQ_CH 0 27) 0 SND_SEQ_EN 0 27) 0 SND_SEQCFG_LEN 31

/-- The next step begins. -/
def toStep (s : State) (n : Nat) : State := rput s 0 BNC_BRINGUP_STEP n

/-- Step 1 ends: Lodestar's choice of firmware and manifest; with no copy that passes, ROM recovery (R461, R462). -/
def endStep1 (s : State) : State :=
  let s1 := loadSequence (chooseCopies s)
  if ron s1 0 LSR_STATUS_RECOVERY then faultBringup (clearSecrets s1) else toStep s1 2

/-- Step 2 ends: the persistent tables are chosen, the log is read; a MAIN_EN that waited takes effect (R425). -/
def endStep2 (s : State) : State :=
  let s1 := stackNos.foldl chooseTable s
  heldMain (toStep { s1 with log := { s1.log with entries := s1.log.nor, changed := [] } } 3)

/-- Step 6 ends: self-test's effects on the log and the route tables, the lead Helm, and soft repair. -/
def endStep6 (s : State) (fails : List SelfTestFail) : State :=
  let s1 := stackNos.foldl (fun s k => loadRoutes s k fails) (retireSites s fails)
  let bad := stackNos.filter (stackFails s1 fails)
  let s2 := chooseLead (if moduleFails s1 fails then faultBringup (rset s1 0 BNC_BRINGUP_MODFAIL) else s1) fails
  let s3 := bad.foldl failStack (if bad.isEmpty then s2 else faultBringup s2)
  if ron s3 0 BNC_BRINGUP_FAULTED then s3
  else toStep (stackNos.foldl (repairStack fails) (spareLines s3)) 7

/-- Whether a stack's bring-up pass is over. -/
def bringupPassOver (s : State) (k : Nat) : Bool :=
  let d := stkOf s k
  !d.passes.contains 1 && match d.pass with
    | some p => !p.kinds.contains 1
    | none => true

/-- DRAM channels that the log names are repaired (Table 16.2). -/
def repairChannels (s : State) : State :=
  s.log.entries.foldl (fun s e => if e.unit.kind = 5 ∧ e.st = 1 then setUnitState s e.unit 2 else s) s

/-- Step 9 begins: with FLEET_EN the ports train and discovery runs. -/
def fleetStep (s : State) : State :=
  if ron s 0 FLT_CTL_FLEET_EN then startDiscovery ((List.range 16).foldl (fun s p => writePortEn s p true) s) true else s

/-- The slot that a boot record loads (R428): the one it names, else the ACTIVE one. -/
def bootSlot (s : State) (r : BootRec) : Option Nat :=
  if slotUsable s r.name r.slot then some r.slot else [0, 1].find? fun i => slotState s r.name i == .active

/-- A berth's boot record served (R428). -/
def bootBerth (s : State) (b : Nat) : State :=
  match mapGet (fun _ => none) s.img.boots b with
  | none => s
  | some r =>
    match bootSlot s r with
    | none => rset s 0 BNC_BRINGUP_BOOTFAIL
    | some i =>
      let q := loadBerth s r.name i b
      if q.2.1 = 0 then decideLoad q.1 b else if q.2.1 = 1 then q.1 else rset q.1 0 BNC_BRINGUP_BOOTFAIL

/-- The step in progress completes, once its condition holds, and the next one runs (R425). -/
def endStep (s : State) (fails : List SelfTestFail) : State :=
  match rget s 0 BNC_BRINGUP_STEP with
  | 1 => endStep1 s
  | 2 => endStep2 s
  | 3 => if 4 ≤ s.rst.domains then writeLnkEn (toStep s 4) true else s
  | 4 => if linkActive s then writeStackOn (toStep s 5) 0 true else s
  | 5 => if s.rst.domains = 7 then toStep s 6 else s
  | 6 => endStep6 s fails
  | 7 => if stackNos.all (bringupPassOver s) then toStep s 8 else s
  | 8 => fleetStep (toStep (repairChannels ((stackNos.filter (stackOnNow s)).foldl zeroDram s)) 9)
  | 9 => if ron s 0 FLT_CTL_FLEET_EN ∧ rget s 0 FLT_STATUS_DISC ≠ 4 then s else toStep s 10
  | 10 => rset (toStep ((List.range 16).foldl bootBerth s) 11) 0 BNC_BRINGUP_READY
  | _ => s

end Sys2Proof.Machine
end

