-- ==== Sys2Proof/Machine/Reset.lean ====
section
/-!
DEFINITION. The reset and bring-up commands (R415 to R428): power-on, module resets from outside, block resets, domain
release and the bring-up steps.
-/

namespace Sys2Proof.Machine

/-! ### Module resets (R415 to R418) -/

/-- POWERON (R415, R416): VAON rises into range; every domain starts from reset with cause POWERON. -/
def execPoweron (s : State) : Host.Outcome State Fault Refusal :=
  .next (resetStatus (clearPowerOn (dropIsland (dropDomains (endLong s)))) 1)

/-- A write of `v` to BNC_FLTRST (R418): a fleet reset message under its four conditions, from a module whose number is below
FLT_MOD.COUNT; else a rejected write. -/
def writeFltrst (s : State) (src : Source) (v : Word) : State :=
  let other : Bool := match src with
    | .helm m _ lead => m != moduleNo s && lead && decide (m.toNat < moduleCount s)
    | _ => false
  if !islandUp s then s
  else if v = 0xA5A5 ∧ other ∧ ron s 0 BNC_FLTCTL_FLTRST_EN ∧ rget s 0 CHR_EPOCH_EPOCH ≠ 0 then moduleReset s 6 false
  else rbump s 0 BNC_FLTREJ

/-- FLTRST. -/
def execFltrst (src : Source) (v : Word) (s : State) : Host.Outcome State Fault Refusal := .next (writeFltrst s src v)

/-! ### Block resets (R421 to R424) -/

/-- Whether the domain that holds a block is released (Table 18.2). -/
def blockReleased (s : State) (b : UnitRef) : Bool :=
  match b.kind.toNat with
  | 0 => stackOnNow s b.stack.toNat && tilesReleased s b.stack.toNat
  | 1 => decide (7 ≤ s.rst.domains)
  | 4 => decide (5 ≤ s.rst.domains)
  | 6 => decide (4 ≤ s.rst.domains)
  | _ => decide (3 ≤ s.rst.domains)

/-- The block that BNC_BRST names. -/
def namedBlock (s : State) : UnitRef :=
  ⟨BitVec.ofNat 4 (rget s 0 BNC_BRST_KIND), BitVec.ofNat 3 (rget s 0 BNC_BRST_STACK), rget s 0 BNC_BRST_INDEX⟩

/-- BNC_BRST.GO written (R421, R422, R424). -/
def writeBrst (s : State) : State :=
  let b := namedBlock s
  if !islandUp s then s
  else if ron s 0 BNC_BRST_STATUS_BUSY || !blockLegal s b || !blockReleased s b then rset s 0 BNC_BRST_STATUS_REJECT
  else startBlock s b true

/-- BLOCK_RESET. -/
def execBlockReset (s : State) : Host.Outcome State Fault Refusal := .next (writeBrst s)

/-- IDLE_ACK (R421): the block has finished the transfers inside it, and its reset is asserted. Walkers and DRAM
controllers have finished their command within the commands before. -/
def execIdleAck (b : UnitRef) (s : State) : Host.Outcome State Fault Refusal :=
  match resetOf s b with
  | none => .next s
  | some r =>
    let busy := (b.kind == 0 || b.kind == 6) && blockInside s b
    .next (if r.quiesce && !busy then assertBlock s r false else s)

/-- QUIESCE_TIMEOUT (R421): 100 µs after IDLE_REQ the reset is asserted anyway; for walkers and a DRAM controller
Binnacle resets the module (Table 18.3). -/
def execQuiesceTimeout (b : UnitRef) (s : State) : Host.Outcome State Fault Refusal :=
  match resetOf s b with
  | none => .next s
  | some r =>
    if !r.quiesce then .next s
    else
      let s1 := rset (elapseToTick s (r.at_ + 100000)) 0 BNC_BRST_STATUS_QTIMEOUT
      let s2 := assertBlock (abortInside s1 r.block) r true
      .next (if b.kind = 3 ∨ b.kind = 4 then moduleReset s2 8 false else s2)

/-- BLOCK_RELEASE (R421, R423): the reset has been asserted for 4 µs and more, and the block is released. -/
def execBlockRelease (b : UnitRef) (s : State) : Host.Outcome State Fault Refusal :=
  match resetOf s b with
  | none => .next s
  | some r => .next (if r.asserted then releaseBlock (elapseToTick s (r.at_ + 4000)) r else s)

/-! ### Domain release and bring-up (R419, R420, R425 to R428) -/

/-- DOMAIN_RELEASE (R419): the next order is released once its precondition holds, 64 µs or more after the last. -/
def execDomainRelease (s : State) : Host.Outcome State Fault Refusal :=
  let n := s.rst.domains + 1
  .next (if bringing s && preconditionHolds s n then releaseOrder (elapseNs s 64000) n else s)

/-- PRECONDITION_TIMEOUT (R419): a precondition does not hold within 100 ms of the last release; that of order 2 counts
once the entry converter is up (notes/assumptions/58.md). -/
def execPreconditionTimeout (s : State) : Host.Outcome State Fault Refusal :=
  let n := s.rst.domains + 1
  let waits := decide (2 ≤ n) && decide (n ≤ 7) && !preconditionHolds s n && (decide (n ≠ 2) || decide (pwrState s = 2))
  .next (if bringing s && waits then faultBringup s else s)

/-- BRINGUP_STEP (R425): a step completes and the next one runs, in order. -/
def execBringupStep (b : BringupIn) (s : State) : Host.Outcome State Fault Refusal :=
  .next (if islandUp s && bringing s then endStep s (allFails b) else s)

end Sys2Proof.Machine
end

