-- ==== Sys2Proof/Machine/Binnacle.lean ====
section
/-!
DEFINITION. Binnacle's commands (R431 to R444): sensor rounds, throttling, the Bearing port but for its register
accesses, long commands, and the log's buckets.
-/

namespace Sys2Proof.Machine

/-! ### Sensors and throttling (R432 to R438) -/

/-- DIODE_ROUND (R433 to R436): the samples of a round are taken, then its limits are applied. -/
def execDiodeRound (samples : List DiodeSample) (s : State) : Host.Outcome State Fault Refusal :=
  .next (if binnacleRuns s then endRound (samples.foldl (takeDiode s) s) else s)

/-- DRAM_TEMPERATURE (R436). -/
def execDramTemperature (k : BitVec 3) (temp : Int) (s : State) : Host.Outcome State Fault Refusal :=
  .next (if binnacleRuns s then takeDramTemp s k.toNat temp else s)

/-- The machine once the 500 ms grace has passed, in tile cycles (R438). -/
def passGrace (s : State) : State := elapse s (s.bnc.graceAt + 600000000 - s.cyc)

/-- GRACE (R438): the 500 ms grace expires with REQ above HOSTQ, and APPLIED follows REQ; in fleet mode Binnacle does nothing
(R437). -/
def execGrace (s : State) : Host.Outcome State Fault Refusal :=
  if !binnacleRuns s ∨ fleetMode s ∨ !ron s 0 BNC_THROTTLE_GRACE then .next s
  else
    let s1 := passGrace s
    let s2 := rput (rset s1 0 BNC_THROTTLE_ENFORCED) 0 BNC_THROTTLE_GRACE 0
    .next (alert (rbump (rput s2 0 BNC_THROTTLE_APPLIED (rget s 0 BNC_THROTTLE_REQ)) 0 BNC_ENFORCED) 1)

/-- HOSTQ written (R438): in harbour mode the applied level is decided again. -/
def writeHostq (s : State) (v : Nat) : State :=
  if !islandUp s then s
  else
    let s1 := rput s 0 BNC_THROTTLE_HOSTQ v
    if fleetMode s || !binnacleRuns s then s1 else decideThrottle s1

/-- HOSTQ. -/
def execHostq (v : BitVec 7) (s : State) : Host.Outcome State Fault Refusal := .next (writeHostq s v.toNat)

/-! ### The Bearing port (R442 to R444) -/

/-- A reply leaves: 0 OK, 1 BUSY, 2 FORMAT, 3 FENCED (Table 19.3). -/
def reply (s : State) (status : Nat) (data : Word) : State :=
  { s with bnc := { s.bnc with replies := s.bnc.replies ++ [⟨status, data⟩] } }

/-- The CRC-8 of a reply's fields, as it follows them on BDIO (R442, Table 19.3). -/
def replyCrc (r : BearingReply) : Byte :=
  ([BitVec.ofNat 8 r.status] ++ (leBytes 4 r.data.toNat).reverse).foldl crc8Byte 0

/-- Whether Binnacle answers on the port: its firmware or ROM runs (R411). -/
def portRuns (s : State) : Bool := binnacleRuns s

/-- BUSY while a long command runs: its OP, and a progress in per cent that is free (R444). -/
def replyBusy (s : State) (op : Byte) : State :=
  let p := (Config.freeWord s.free).toNat % 101
  reply (rbump { s with free := s.free + 1 } 0 BNC_BBUSY) 1 (BitVec.ofNat 32 (op.toNat + 256 * p))

/-- A request whose CRC is right: BUSY while a long command runs, FENCED in ROM recovery unless `kept` says that it is
answered there (R444, R462), else its own effect. -/
def bearing (s : State) (kept : Bool) (f : State → State) : State :=
  if !portRuns s then s
  else match s.bnc.long with
    | some q => replyBusy s q.1
    | none => if ron s 0 LSR_STATUS_RECOVERY && !kept then reply s 3 0 else f s

/-- RESET (R443): 0x5A5A resets the module after the reply; other values are FORMAT. -/
def execBearingReset (a : BearingArg) (s : State) : Host.Outcome State Fault Refusal :=
  .next (bearing s false fun s => if a.data = 0x5A5A then moduleReset (reply s 0 0) 2 false else reply s 2 0)

/-- The data of STATE (Table 19.4). -/
def stateWord (s : State) : Word :=
  BitVec.ofNat 32 (rget s 0 BNC_BRINGUP_STEP + 16 * rget s 0 BNC_BRINGUP_READY + 32 * rget s 0 BNC_BRINGUP_FAULTED
    + 64 * pwrState s + 512 * rget s 0 CLK_STATUS_SAFE + 1024 * rget s 0 BNC_STATUS_THERMSTOP
    + 2048 * rget s 0 CLK_STATUS_LOC_BCK + 4096 * rget s 0 CLK_STATUS_LOC_REF + 65536 * rget s 0 BNC_LAST_RESET_CAUSE)

/-- STATE. -/
def execBearingState (s : State) : Host.Outcome State Fault Refusal :=
  .next (bearing s true fun s => reply s 0 (stateWord s))

/-- The 64 bytes of a log entry (Table 16.3). -/
def entryBytes (e : LogEntry) : List Byte :=
  leBytes 4 (e.unit.index % 2 ^ 25 + e.unit.stack.toNat * 2 ^ 25 + e.unit.kind.toNat * 2 ^ 28)
    ++ leBytes 1 e.st ++ leBytes 1 (bit e.local_) ++ leBytes 1 e.stress ++ leBytes 1 e.cause
    ++ leBytes 4 e.trans ++ leBytes 4 e.repeats ++ leBytes 8 e.tick
    ++ ((List.range 8).flatMap fun i => leBytes 2 (nth e.tb i)) ++ ((List.range 8).flatMap fun i => leBytes 1 (nth e.rb i))
    ++ List.replicate 16 0

/-- LOGREAD (R443): a word of the working copy; beyond its entries the data is free. -/
def execLogread (a : BearingArg) (s : State) : Host.Outcome State Fault Refusal :=
  .next (bearing s false fun s0 =>
    let s := countFlits s0 0 3 1
    match s.log.entries[a.addr.toNat / 16]? with
    | some e => reply s 0 (BitVec.ofNat 32 (leVal (((entryBytes e).drop (4 * (a.addr.toNat % 16))).take 4)))
    | none => reply { s with free := s.free + 1 } 0 (Config.freeWord s.free))

/-- A request with a bad CRC, or with an OP that Table 19.4 does not list, is answered FORMAT (R443). -/
def badRequest (s : State) (r : BearingReq) : State :=
  let bytes := [r.op] ++ (leBytes 3 r.addr.toNat).reverse ++ (leBytes 4 r.data.toNat).reverse
  if !portRuns s then s
  else if bytes.foldl crc8Byte 0 ≠ r.crc then reply (rbump s 0 BNC_BCRC) 2 0
  else if [0x01, 0x02, 0x03, 0x04, 0x05, 0x10, 0x11, 0x12, 0x13].contains r.op then s
  else match s.bnc.long with
    | some q => replyBusy s q.1
    | none => reply s 2 0

/-- BEARING_REQUEST_FORMAT. -/
def execBearingRequestFormat (r : BearingReq) (s : State) : Host.Outcome State Fault Refusal := .next (badRequest s r)

/-! ### Long commands (R444, R455, R469, R470) -/

/-- A long command is accepted: OK, and the port is busy. -/
def startLong (s : State) (op : Byte) (a : BearingArg) (out : Option Nat) : State :=
  let s1 := rset (reply s 0 0) 0 BNC_STATUS_LONG_BUSY
  { s1 with bnc := { s1.bnc with long := some (op, a.addr, a.data), longOut := out } }

/-- A fuse command's outcome; its fuses read programmed when it ends. -/
def startFuses (s : State) (op : Byte) (a : BearingArg) (q : State × Nat) : State :=
  if ron s 0 LSR_STATUS_BUSY then replyBusy s op
  else
    let s1 := rset q.1 0 LSR_STATUS_BUSY
    startLong { s1 with lsr := { s1.lsr with fuses := s.lsr.fuses, burning := some s1.lsr.fuses } } op a (some q.2)

/-- LIFECYCLE_ADVANCE (R455, R470). -/
def execLifecycleAdvance (a : BearingArg) (s : State) : Host.Outcome State Fault Refusal :=
  .next (bearing s false fun s =>
    if a.data ≠ 0x4C434144 ∨ 8 ≤ a.addr.toNat then reply s 2 0
    else startFuses s 0x10 a (advanceLife s a.addr.toNat))

/-- FUSE_PROGRAM (R464, R469, R470): MINSVN stays available in ROM recovery. -/
def execFuseProgram (a : BearingArg) (s : State) : Host.Outcome State Fault Refusal :=
  let target := bitsOf a.addr.toNat 22 2
  .next (bearing s (target == 1) fun s =>
    if target = 0 ∧ bitsOf a.addr.toNat 11 11 = 0 then startFuses s 0x11 a (programRepair s (bitsOf a.addr.toNat 0 11) a.data)
    else if target = 1 ∧ bitsOf a.addr.toNat 0 22 = 0 then startFuses s 0x11 a (programSvn s a.data.toNat)
    else reply s 2 0)

/-- DEVTABLE_COMMIT (R198): BUSY during an automatic commit; FENCED while Sextant of a stack that it names is in reset. -/
def execDevtableCommit (a : BearingArg) (s : State) : Host.Outcome State Fault Refusal :=
  .next (bearing s false fun s =>
    if !s.bnc.commits.isEmpty then replyBusy s 0x12
    else if (maskStacks a.addr).all (baseReach s) then
      let s1 := startLong s 0x12 a none
      showMasked { s1 with bnc := { s1.bnc with masked := maskStacks a.addr, maskBad := false } }
    else reply s 3 0)

/-- IMAGE_SLOT_SELECT (R274, R444): FENCED while no lead Helm runs. -/
def execImageSlotSelect (a : BearingArg) (s : State) : Host.Outcome State Fault Refusal :=
  .next (bearing s false fun s => if (leadOf s).isNone then reply s 3 0 else startLong s 0x13 a none)

/-- The end of a fuse command: FUSEFAIL (17) leaves the fuses. -/
def endFuses (s : State) (code : Nat) : State × Nat :=
  let fuses := if code = 17 then s.lsr.fuses else s.lsr.burning.getD s.lsr.fuses
  let out := if code = 17 then 17 else s.bnc.longOut.getD 1
  (lsrResult (rput { s with lsr := { s.lsr with fuses := fuses, burning := none } } 0 LSR_STATUS_BUSY 0) out, out)

/-- The end of a DEVTABLE_COMMIT: OK (1), or an error of one stack or more, whose old copies stay in force (R198); of which
stacks is open. Once a commit of it has failed or was cut off its code is an error, MEDIA unless another comes. -/
def endCommit (s : State) (code : Nat) : State × Nat :=
  let s1 := endMasks { s with free := s.free + 1 } (Config.freeWord s.free) (decide (code ≠ 1))
  ({ s1 with bnc := { s1.bnc with maskBad := false } }, if code = 1 ∧ s.bnc.maskBad = true then 14 else code)

/-- The end of a slot selection: the lead Helm executes ACTIVATE. -/
def endSelect (s : State) (addr : BitVec 24) (data : Word) (code : Nat) : State × Nat :=
  let n := (bitsOf addr.toNat 0 8, bitsOf data.toNat 0 16, bitsOf data.toNat 16 16)
  let slot := bitsOf addr.toNat 8 1
  if code = 14 then (s, 14)
  else if slotUsable s n slot then (activateSlot s n slot, 1)
  else (s, 10)

/-- What a long command brings about at its end, and its result code; `code` is the result that the media gave. -/
def finishLong (s : State) (op : Byte) (addr : BitVec 24) (data : Word) (code : Nat) : State × Nat :=
  if op = 0x10 then
    let q := endFuses s code
    (drawNonce q.1, q.2)
  else if op = 0x11 then endFuses s code
  else if op = 0x12 then endCommit s code
  else endSelect s addr data code

/-- A long command that cannot end yet: a slot selection while an image command is in progress (R274). -/
def longWaits (s : State) (op : Byte) : Bool := op == 0x13 && ron s (leadStk s) HLM_IMG_STATUS_BUSY

/-- LONGDONE (R444): a long command ends, its OP and CODE stand in BNC_LONG, and the alert is raised. With none in progress
it is the automatic commit that ends, by its code (R198, notes/assumptions/80.md). -/
def execLongdone (code : Byte) (s : State) : Host.Outcome State Fault Refusal :=
  if !binnacleRuns s then .next s
  else match s.bnc.long with
  | none => .next (endAutoCommit s (decide (code.toNat = 1)))
  | some q =>
    if longWaits s q.1 then .next s
    else
      let r := finishLong s q.1 q.2.1 q.2.2 code.toNat
      let s1 := rput (rput (rput r.1 0 BNC_LONG_OP q.1.toNat) 0 BNC_LONG_CODE r.2) 0 BNC_STATUS_LONG_BUSY 0
      .next (alert (showCommit { s1 with bnc := { s1.bnc with long := none, longOut := none } }) 6)

/-- LONG_OVERRUN (R444): Binnacle resets itself, a module reset with cause SELF. -/
def execLongOverrun (s : State) : Host.Outcome State Fault Refusal :=
  .next (if binnacleRuns s && s.bnc.long.isSome then moduleReset s 9 true else s)

/-! ### Log buckets and the core (R378, R431) -/

/-- An entry one bucket later: the oldest eighth of its window is dropped. -/
def LogEntry.shift (e : LogEntry) : LogEntry := { e with tb := 0 :: e.tb.take 7, rb := 0 :: e.rb.take 7 }

/-- LOG_BUCKET_BOUNDARY (R378), for the units of a kind. -/
def execLogBucketBoundary (kind : BitVec 4) (s : State) : Host.Outcome State Fault Refusal :=
  .next (if binnacleRuns s then
    { s with log := { s.log with entries := s.log.entries.map fun e => if e.unit.kind = kind then e.shift else e } }
  else s)

/-- BINNACLE_ECC_HALT (R431): the core halts, and the watchdog is kicked no more. -/
def execBinnacleEccHalt (s : State) : Host.Outcome State Fault Refusal :=
  .next { s with bnc := { s.bnc with halted := true } }

end Sys2Proof.Machine
end

