-- ==== Sys2Proof/Machine/RegOps.lean ====
section
/-!
DEFINITION. Register accesses (R7, R8, R149, R321, R322, R337, R356, R443, R471): who may access what, what a read
gives, and what a write does beyond storing its fields.
-/

namespace Sys2Proof.Machine

/-! ### Sources and blocks (R322, R443, R471) -/

/-- Sources of register accesses (R322): every part of the module but tiles and walkers, and of another module its lead
Helm; a part that is in reset makes none, nor does the companion over a link that is not ACTIVE (R473). -/
def regSource (s : State) (src : Source) : Bool :=
  match src with
  | .tile _ _ => false
  | .walker _ => false
  | .helm m _ lead => if m = moduleNo s then decide (7 ≤ s.rst.domains) else lead
  | .sextant k => baseReach s k.toNat
  | .companion => linkActive s
  | _ => true

/-- The flit of a register access enters the network (R295, Table 12.2): Helm's control writes on channel 0, the others on
channel 3, in the issuer's stack; those of Binnacle and the companion in stack 0, those of another module in the stack they
reach (notes/assumptions/16.md). -/
def accessFlit (s : State) (src : Source) (k : Nat) (write : Bool) : State :=
  match src with
  | .helm m j _ => crossFlits s (if m = moduleNo s then j.toNat else k) k (if write then 0 else 3) 1
  | .sextant j => crossFlits s j.toNat k 3 1
  | .walker j => crossFlits s j.toNat k 3 1
  | .tile _ r => crossFlits s r.stack.toNat k 3 1
  | _ => crossFlits s 0 k 3 1

/-- Lodestar's registers take accesses from the Bearing port and the companion alone (R471). -/
def lsrSource (src : Source) : Bool := src == .bearing || src == .companion

/-- Whether the block at a region-2 offset of stack `k` is released, its reset not in progress. An offset that no block
maps always answers (R322). -/
def blockOpen (s : State) (k off : Nat) : Bool :=
  match off / 0x10000 with
  | 0 => decide (3 ≤ s.rst.domains) && !wrapperClosed s 5 k 0
  | 1 => baseReach s k
  | 2 => chtReach s k
  | 3 => decide (7 ≤ s.rst.domains) && !wrapperClosed s 1 k 0
  | 4 => chrReach s
  | 5 => decide (3 ≤ s.rst.domains) && !wrapperClosed s 5 k 0
  | 0x10 => match stackDie k with
    | some d => decide (4 ≤ s.rst.domains) && !wrapperClosed s 6 0 d
    | none => true
  | 0x11 => if k = 0 ∨ k = 4 then decide (4 ≤ s.rst.domains) && !wrapperClosed s 6 0 (k / 4) else true
  | 0x12 => k != 0 || islandUp s
  | 0x13 => k != 0 || islandUp s
  | 0x14 => k != 0 || islandUp s
  | 0x15 => k != 0 || islandUp s
  | _ => true

/-- Whether an access of region 2 is answered with a value: else FENCED. The Bearing port finds the blocks of a stack
that is off fenced (R443, notes/assumptions/64.md). -/
def regOpen (s : State) (src : Source) (k off : Nat) : Bool :=
  regSource s src && blockOpen s k off && (off / 0x10000 != 0x14 || k != 0 || lsrSource src)
    && (src != .bearing || decide (6 ≤ off / 0x10000) || stackOnNow s k)

/-! ### Reads -/

/-- A register read: CHR_TICK_LO and CHR_WSTART_LO latch their high words (R356). -/
def readReg (s : State) (k off : Nat) : State × Word :=
  let s1 :=
    if off = 0x40008 then { s with chr := { s.chr with tickHi := BitVec.ofNat 32 (s.tick / 2 ^ 32) } }
    else if off = 0x40014 then { s with chr := { s.chr with startHi := BitVec.ofNat 32 (rget s 0 CHR_WSTART_HI_TICK) } }
    else if off / 0x10000 = 1 then passMasked s
    else s
  (s1, reg2View s1 k off)

/-! ### Writes by block -/

/-- Whether the RWL fields of the block at an offset are locked; the route map yields to Binnacle alone (R278, R309). -/
def regLocked (s : State) (src : Source) (k off : Nat) : Bool :=
  match off / 0x10000 with
  | 0 => ron s k STK_RT_CTL_LOCK && !(src == .binnacle && decide (0x400 ≤ off))
  | 1 => ron s k SXT_CTL_LOCK
  | 2 => ron s k CHT_CTL_LOCK
  | 3 => ron s k HLM_CTL_LOCK
  | 4 => ron s 0 CHR_CTL_LOCK
  | 0x10 => ron s k FLT_CTL_LOCK
  | 0x11 => ron s k LNK_CTL_LOCK
  | 0x15 => ron s 0 PWR_CTL_LOCK
  | _ => false

/-- The word written by the access codes of its fields, but for the fields that act on their own. -/
def storeReg (s : State) (src : Source) (k off : Nat) (v : Word) (but : List Fld) : State :=
  setRword s k off (storeWord ((blockFields off).filter fun f => !but.contains f) (regLocked s src k off) off
    (rword s k off) v)

/-- Bit `i` of a written word. -/
def wbit (v : Word) (i : Nat) : Bool := v.getLsbD i

/-- A write in the routing block: CLRMAX clears STK_WPWAIT (Table 12.6). -/
def writeStk (s : State) (src : Source) (k off : Nat) (v : Word) : State :=
  let s1 := storeReg s src k off v []
  if off = 0 ∧ wbit v 2 then setRword s1 k 0x000C 0 else s1

/-- A write in the Sextant block: EN starts a pass that waits, FIX_REQ asks for one (Table 7.7). -/
def writeSxt (s : State) (src : Source) (k off : Nat) (v : Word) : State :=
  if off = 0x10000 then
    let s1 := storeReg s src k off v [SXT_CTL_FIX_REQ]
    let s2 := if wbit v 2 then writeFixReq s1 k else s1
    showSextant (startPass s2 k) k
  else storeReg s src k off v []

/-- A write in the walker block (Table 9.12). -/
def writeCht (s : State) (src : Source) (k off : Nat) (v : Word) : State :=
  if off = 0x20000 then
    let s1 := writeChtEn (storeReg s src k off v [CHT_CTL_EN]) k (wbit v 0)
    if wbit v 1 then invalidateCache s1 k else s1
  else storeReg s src k off v []

/-- The berth whose HLM_BVER_n another module's lead Helm writes, and that module (R336). -/
def versionWrite (s : State) (src : Source) (off : Nat) : Option (BitVec 10 × Nat) :=
  match src with
  | .helm m _ _ =>
    if m ≠ moduleNo s ∧ 0x30140 ≤ off ∧ off < 0x30180 ∧ off % 4 = 0 then some (m, (off - 0x30140) / 4) else none
  | _ => none

/-- A write in the Helm block: ignored on a stack whose Helm is not the lead (R267, R292). -/
def writeHlm (s : State) (src : Source) (k off : Nat) (v : Word) : State :=
  if !ron s k HLM_STATUS_LEAD then s
  else if (versionWrite s src off).isSome then
    match versionWrite s src off with
    | some q => hearVersion s q.1 q.2 v
    | none => s
  else if off = 0x30000 then writeHelmEn (storeReg s src k off v [HLM_CTL_EN]) (wbit v 0)
  else storeReg s src k off v []

/-- A write in the Chronometer block: stack 0 alone takes it; ARM arms a charter, and CHR_AGREE_HI completes an
agreement record (R347, R352, R356). -/
def writeChr (s : State) (src : Source) (k off : Nat) (v : Word) : State :=
  if k ≠ 0 then s
  else
    let s1 := storeReg s src 0 off v []
    if off = 0x40000 then (if wbit v 1 then writeArm s1 else s1)
    else if off = 0x4003C then
      arriveOffer (holdRecord s1 (BitVec.ofNat 32 (rget s1 0 CHR_AGREE_LO_WATCH)) (v.toNat % 128) (wbit v 7))
    else s1

/-- A PLL register written: dividers while EN is 0; EN 0 loses the lock (Table 17.10). -/
def writePll (s : State) (src : Source) (k i : Nat) (v : Word) : State :=
  let off := 0x50100 + 4 * i
  let s1 := storeReg s src k off v
    (if ron s k CLK_PLL_EN i then [CLK_PLL_REFDIV, CLK_PLL_FBDIV, CLK_PLL_POSTDIV] else [])
  if ron s1 k CLK_PLL_EN i then s1 else rput s1 k CLK_PLL_LOCK 0 i

/-- The multiplexers that a write of CLK_SEL or CLK_TSEL_n switches. -/
def muxChanges (k off : Nat) (old v : Word) : List MuxRef :=
  let diff := old ^^^ v
  if off = 0x50120 then
    (if wbit diff 0 then [.mesh (BitVec.ofNat 3 k)] else []) ++ if wbit diff 1 then [.dram (BitVec.ofNat 3 k)] else []
  else
    ((List.range 32).filter fun i => wbit diff i).filterMap fun i =>
      let l := 32 * ((off - 0x50140) / 4) + i
      if l < 480 then some (.tile ⟨BitVec.ofNat 3 k, BitVec.ofNat 9 l⟩) else none

/-- A write in the stack power and clock block (Table 17.10). -/
def writeSpw (s : State) (src : Source) (k off : Nat) (v : Word) : State :=
  if off = 0x50000 then writeStackOn (storeReg s src k off v [PWR_STK_CTL_ON]) k (wbit v 0)
  else if 0x50100 ≤ off ∧ off ≤ 0x50110 then writePll s src k ((off - 0x50100) / 4) v
  else if off = 0x50120 ∨ (0x50140 ≤ off ∧ off ≤ 0x50178) then
    (muxChanges k off (rword s k off) v).foldl startSwitch (storeReg s src k off v [])
  else if off = 0x501C0 then
    let s1 := storeReg s src k off v []
    if wbit v 5 then startMeasure s1 (.stack (BitVec.ofNat 3 k)) else s1
  else storeReg s src k off v []

/-- FLEET_EN of link die 0 cleared: the module is in no fleet, with number 0 and count 1 (R319, notes/assumptions/89.md). -/
def leaveFleet (s : State) : State :=
  if fleetOn s then s
  else rput (rput (rput s 0 FLT_MOD_NUMBER 0) 0 FLT_MOD_COUNT 1) 0 FLT_MOD_VALID 0

/-- Offsets of the fleet block that act on link die 0 only (R337). -/
def fltDie0 (off : Nat) : Bool :=
  off == 0x100010 || off == 0x100018 || off == 0x10001C || off == 0x100020 || (decide (0x101000 ≤ off) && decide (off < 0x102000))

/-- A write in the fleet port block of a link die (Tables 13.12 to 13.15). -/
def writeFlt (s : State) (src : Source) (k off : Nat) (v : Word) : State :=
  match stackDie k with
  | none => s
  | some d =>
    if k ≠ 0 ∧ fltDie0 off then s
    else if off = 0x100000 then
      let s1 := leaveFleet (storeReg s src k off v [])
      if wbit v 1 then writeDiscover s1 else s1
    else if off = 0x100020 then (if wbit v 0 then writeCommit s else s)
    else if 0x100040 ≤ off ∧ off < 0x100050 then endTraining (writePortEn s (4 * d + (off - 0x100040) / 4) (wbit v 0))
    else storeReg s src k off v []

/-- A write in the Vilger block of a link die: on die 1 the fields that act on die 0 alone are ignored (R373). -/
def writeLnk (s : State) (src : Source) (k off : Nat) (v : Word) : State :=
  if k ≠ 0 ∧ k ≠ 4 then s
  else if off = 0x110000 then
    let s1 := storeReg s src k off v (if k = 0 then [LNK_CTL_EN] else [LNK_CTL_EN, LNK_CTL_NOTIFY_EN])
    let s2 := writeLnkEn s1 (wbit v 0)
    if k = 0 ∧ wbit v 5 then startRetrain s2 false else s2
  else if k ≠ 0 ∧ 0x110020 ≤ off ∧ off ≤ 0x110068 then s
  else storeReg s src k off v []

/-- A write in Binnacle's block (Tables 18.8, 18.9, 19.8). -/
def writeBnc (s : State) (src : Source) (off : Nat) (v : Word) : State :=
  if off = 0x12000C then writeHostq s (bitsOf v.toNat 8 7)
  else if off = 0x120104 then
    let s1 := storeReg s src 0 off v []
    if wbit v 15 then writeBrst s1 else s1
  else if off = 0x120110 then writeFltrst s src v
  else storeReg s src 0 off v []

/-- A write in the Sounding ADC's block (Table 19.11). -/
def writeSnd (s : State) (src : Source) (off : Nat) (v : Word) : State :=
  if off = 0x130000 then writeRefbuf (storeReg s src 0 off v [SND_CTL_REFBUF_EN]) (wbit v 0)
  else if off = 0x130008 then
    let s1 := storeReg s src 0 off v []
    if wbit v 8 then writeChsel s1 else s1
  else storeReg s src 0 off v []

/-- A write of LSR_CTL: one action runs, that of the lowest bit set (R470). -/
def writeLsrCtl (s : State) (v : Word) : State :=
  lsrAction s fun s =>
    if wbit v 0 then attest s
    else if wbit v 1 then testRequest s
    else if wbit v 2 then startLoad s false
    else if wbit v 3 then startLoad s true
    else if wbit v 4 then zeroise s
    else s

/-- A write in the module power and clock block (Tables 17.7, 17.8). -/
def writeMpw (s : State) (src : Source) (off : Nat) (v : Word) : State :=
  if off = 0x150000 then writeMainEn (storeReg s src 0 off v [PWR_CTL_MAIN_EN]) (wbit v 0)
  else if off = 0x150104 then
    let s1 := storeReg s src 0 off v []
    if wbit v 5 then startMeasure s1 .module else s1
  else storeReg s src 0 off v []

/-- A register of region 2 written. -/
def writeReg (s : State) (src : Source) (k off : Nat) (v : Word) : State :=
  match off / 0x10000 with
  | 0 => writeStk s src k off v
  | 1 => writeSxt s src k off v
  | 2 => writeCht s src k off v
  | 3 => writeHlm s src k off v
  | 4 => writeChr s src k off v
  | 5 => writeSpw s src k off v
  | 0x10 => writeFlt s src k off v
  | 0x11 => writeLnk s src k off v
  | 0x12 => if k = 0 then writeBnc s src off v else s
  | 0x13 => if k = 0 then writeSnd s src off v else s
  | 0x14 => if k ≠ 0 then s else if off = 0x140000 then writeLsrCtl s v else storeReg s src 0 off v []
  | 0x15 => if k = 0 then writeMpw s src off v else s
  | _ => s

/-! ### Tile registers (R146, R149) -/

/-- The tile whose register at `off` a source may access: its site. A fenced tile shows TIL_CTL and TIL_STATUS alone. -/
def tileRegSite (s : State) (src : Source) (r : TileRef) (off : Nat) : Option Nat :=
  match siteOf s r.stack.toNat r.tile.toNat with
  | none => none
  | some site =>
    if regSource s src && !tileClosed s r.stack.toNat site && (off == 0 || off == 4
        || decide (tget (tileAt s r.stack.toNat site) TIL_CTL_FENCE = 0)) then some site
    else none

/-- Whether the RWL fields at a tile-block offset are locked. -/
def tileRegLocked (t : Tile) (off : Nat) : Bool :=
  if off < 0x400 then decide (tget t TIL_CTL_WDOG_LOCK = 1) else decide (tget t TIL_ARR_LOCK_LOCK = 1)

/-- An engine's program counter written: ignored while RUN is 1 (Table 5.9); an idle engine may then start (R482). -/
def writePc (t : Tile) (i : Nat) (v : Word) : Tile :=
  if tget t TIL_CTL_RUN = 1 then t
  else match engineList[i]? with
    | some e =>
      let t1 := setPc t e (v.setWidth 9)
      if (engOf t1 e).on then setEng t1 e { engOf t1 e with held := none } else setEng t1 e { engOf t1 e with pcWritten := true, held := none }
    | none => t

/-- A tile register written, but for TIL_CTL. -/
def writeTileWord (t : Tile) (off : Nat) (v : Word) : Tile :=
  if off = 0x008 then (if wbit v 31 then setTileReg t off 0 else t)
  else if 0x010 ≤ off ∧ off ≤ 0x020 then writePc t ((off - 0x010) / 4) v
  else setTileReg t off (storeWord tileFields (tileRegLocked t off) off (tileReg t off) v)

/-- TIL_CTL written (Table 5.6). -/
def writeTilCtl (s : State) (r : TileRef) (v : Word) : State :=
  let s1 := changeTile s r fun _ t => tput t TIL_CTL_GATE_EN (bit (wbit v 1))
  let s2 := writeRun s1 r (wbit v 0)
  let s3 := if wbit v 2 then writeFence s2 r else s2
  let s4 := if wbit v 3 then writeWdogLock s3 r else s3
  if wbit v 4 then writeSrst s4 r else s4

/-- A tile register written. -/
def writeTileReg (s : State) (r : TileRef) (off : Nat) (v : Word) : State :=
  if off = 0 then writeTilCtl s r v else changeTile s r fun _ t => writeTileWord t off v

/-! ### Accesses -/

/-- Two words as a doubleword. -/
def joinWords (lo hi : Word) : Dword := BitVec.ofNat 64 (lo.toNat + hi.toNat * 2 ^ 32)

/-- An access of region 2: 4 or 8 bytes, aligned (R321). -/
def accessReg2 (s : State) (src : Source) (k off : Nat) (wide : Bool) (write : Option Dword) : State × Status × Dword :=
  if off % (if wide then 8 else 4) ≠ 0 ∨ !regOpen s src k off then (s, .fenced, 0)
  else match write with
    | some v =>
      let s1 := writeReg s src k off (v.setWidth 32)
      (if wide then writeReg s1 src k (off + 4) ((v >>> 32).setWidth 32) else s1, .ok, 0)
    | none =>
      let a := readReg s k off
      let b := if wide then readReg a.1 k (off + 4) else (a.1, 0)
      (b.1, .ok, joinWords a.2 b.2)

/-- An access of a tile's register block: 4 bytes, aligned (R149). -/
def accessTile (s : State) (src : Source) (r : TileRef) (off : Nat) (wide : Bool) (write : Option Dword) :
    State × Status × Dword :=
  match tileRegSite s src r off with
  | none => (s, .fenced, 0)
  | some site =>
    if wide ∨ off % 4 ≠ 0 then (s, .fenced, 0)
    else match write with
      | some v => (writeTileReg s r off (v.setWidth 32), .ok, 0)
      | none =>
        let s1 := changeSite s r.stack.toNat site id
        (s1, .ok, (tileView (tileAt s1 r.stack.toNat site) (slotZero s r.stack.toNat) s.cyc off).setWidth 64)

/-- A register access: the machine after it, its status, and a read's data. -/
def access (s : State) (a : RegAccess) : State × Status × Dword :=
  match a.addr with
  | .tile r off => accessTile s a.src r off.toNat a.wide a.write
  | .reg2 k off => accessReg2 s a.src k.toNat off.toNat a.wide a.write

end Sys2Proof.Machine
end

