-- ==== Sys2Proof/Machine/Access.lean ====
section
/-!
DEFINITION. Register accesses as commands: REGISTER_ACCESS (R149, R322), and READ and WRITE of the Bearing port (R443).
-/

namespace Sys2Proof.Machine

/-- The stack of a register. -/
def accessStack : RegAddr → Nat
  | .tile r _ => r.stack.toNat
  | .reg2 k _ => k.toNat

/-- REGISTER_ACCESS: the access is carried out and answered. -/
def execRegisterAccess (a : RegAccess) (s : State) : Host.Outcome State Fault Refusal :=
  let q := access (accessFlit s a.src (accessStack a.addr) a.write.isSome) a
  .next { q.1 with answers := q.1.answers ++ [⟨a, q.2.1, q.2.2⟩] }

/-- An access through the Bearing port: ADDR holds the stack and the region-2 offset (Table 19.4); what does not
complete is answered FENCED, and in ROM recovery so is every block but Binnacle's island (R462). -/
def bearingAccess (s : State) (a : BearingArg) (write : Option Dword) : State :=
  let k := bitsOf a.addr.toNat 21 3
  let off := bitsOf a.addr.toNat 0 21
  bearing s (decide (0x12 ≤ off / 0x10000) && decide (off / 0x10000 ≤ 0x15) && k == 0) fun s =>
    let q := accessReg2 (accessFlit s .bearing k write.isSome) .bearing k off false write
    reply q.1 (if q.2.1 = .ok then 0 else 3) (q.2.2.setWidth 32)

/-- READ. -/
def execBearingRead (a : BearingArg) (s : State) : Host.Outcome State Fault Refusal := .next (bearingAccess s a none)

/-- WRITE. -/
def execBearingWrite (a : BearingArg) (s : State) : Host.Outcome State Fault Refusal :=
  .next (bearingAccess s a (some (a.data.setWidth 64)))

end Sys2Proof.Machine
end

