-- ==== Sys2Proof/Machine/Lodestar.lean ====
section
/-!
DEFINITION. Lodestar's actions (R459, R460, R463, R465, R467) and the test access port (R466).
-/

namespace Sys2Proof.Machine

/-- ATTEST: Lodestar signs a report over the staged nonce (R465). -/
def execAttest (s : State) : Host.Outcome State Fault Refusal := .next (lsrAction s attest)

/-- TESTREQ: secrets are cleared and TESTMODE set, where permitted (R467). -/
def execTestreq (s : State) : Host.Outcome State Fault Refusal := .next (lsrAction s testRequest)

/-- MF_LOAD: a later valid key manifest comes into force (R459); LSR_SRCLEN bytes are read. -/
def execMfLoad (bytes : List Byte) (s : State) : Host.Outcome State Fault Refusal :=
  .next (loadBytes s false fun s => loadManifest s (bytes.take (rget s 0 LSR_SRCLEN_LEN)))

/-- FW_LOAD: a verified firmware bundle becomes the preferred copy (R463). -/
def execFwLoad (bytes : List Byte) (s : State) : Host.Outcome State Fault Refusal :=
  .next (loadBytes s true fun s => loadFirmware s (bytes.take (rget s 0 LSR_SRCLEN_LEN)))

/-- ZEROISE: the secret set is cleared (R460). -/
def execZeroise (s : State) : Host.Outcome State Fault Refusal := .next (lsrAction s zeroise)

/-- The test port selects an instruction and captures its data register. -/
def selectTap (s : State) (ir : TapIr) (dr : Word) : State := { s with tap := ⟨ir, dr⟩ }

/-- BYPASS: the one-bit bypass register is selected and captures 0 (R466, IEEE 1149.1). -/
def execTapBypass (s : State) : Host.Outcome State Fault Refusal := .next (selectTap s .bypass 0)

/-- IDCODE: the identification register is selected (R466). -/
def execTapIdcode (s : State) : Host.Outcome State Fault Refusal := .next (selectTap s .idcode Config.idcode)

/-- SAMPLE/PRELOAD: selected with TESTMODE 1, else BYPASS (R466). What the boundary register captures is free: its cells
are not the manual's. -/
def execTapSamplePreload (s : State) : Host.Outcome State Fault Refusal :=
  .next (if s.lsr.testmode then selectTap { s with free := s.free + 1 } .samplePreload (Config.freeWord s.free)
    else selectTap s .bypass 0)

/-- EXTEST: selected with TESTMODE 1, else BYPASS (R466). -/
def execTapExtest (s : State) : Host.Outcome State Fault Refusal :=
  .next (if s.lsr.testmode then selectTap { s with free := s.free + 1 } .extest (Config.freeWord s.free)
    else selectTap s .bypass 0)

end Sys2Proof.Machine
end

