-- ==== Sys2Proof/Machine/Vilger.lean ====
section
/-!
DEFINITION. Vilger Link as commands: training (R359 to R361), flits and replay (R362, R363), messages (R364 to R370), the
replay limit (R381) and the package's crossing channels (Table 16.2).
-/

namespace Sys2Proof.Machine

/-- A change of the link when its dies can be reached. -/
def onLink (s : State) (f : State → State) : State := if lnkReach s then f s else s

/-- A change that traffic makes: the link is ACTIVE. -/
def onTraffic (s : State) (f : State → State) : State := onLink s fun s => if lnkState s = 5 then f s else s

/-! ### Training (R359 to R361) -/

/-- LNK_EN. -/
def execLnkEn (v : Bool) (s : State) : Host.Outcome State Fault Refusal := .next (onLink s fun s => writeLnkEn s v)

/-- RETRAIN. -/
def execRetrain (s : State) : Host.Outcome State Fault Refusal := .next (onLink s fun s => startRetrain s false)

/-- LNK_LOCK: LOCK of the half's link die. -/
def execLnkLock (half : BitVec 1) (s : State) : Host.Outcome State Fault Refusal :=
  .next (onLink s fun s => rset s (halfStk half.toNat) LNK_CTL_LOCK)

/-- VILGER_TRAINING_LIMIT: a failed attempt; a RETRAIN beyond its limit goes to EQ and counts none (Table 15.2). -/
def trainingLimit (s : State) : State :=
  let st := lnkState s
  if st = 6 then putLnkState s 2 else if 1 ≤ st ∧ st ≤ 4 then failTraining s else s

def execVilgerTrainingLimit (s : State) : Host.Outcome State Fault Refusal := .next (onLink s trainingLimit)

/-- VILGER_RECEIVER_DETECTION: DETECT to EQ. -/
def execVilgerReceiverDetection (s : State) : Host.Outcome State Fault Refusal :=
  .next (onLink s fun s => if lnkState s = 1 then putLnkState s 2 else s)

/-- VILGER_EQUALISATION_DONE: the lanes are marked, EQ to DESKEW; at a retrain a failed lane counts (Table 16.2). -/
def markLanes (s : State) (good0 good1 : Half) : State :=
  if lnkState s ≠ 2 then s
  else
    let s1 := if s.vil.retrain then failedLanes (failedLanes s 0 good0) 1 good1 else s
    putLnkState (rput (rput s1 (halfStk 0) LNK_LANES_GOOD good0.toNat) (halfStk 1) LNK_LANES_GOOD good1.toNat) 3

def execVilgerEqualisationDone (good0 good1 : Half) (s : State) : Host.Outcome State Fault Refusal :=
  .next (onLink s fun s => markLanes s good0 good1)

/-- FLIT_BOUNDARY_LOCK: the width, then REV; no aligned group of four in either half fails the attempt (R360). -/
def lockBoundary (s : State) : State :=
  if lnkState s ≠ 3 then s
  else match linkWidth s with
    | some w => putLnkState (putWidth s w) 4
    | none => failTraining s

def execFlitBoundaryLock (s : State) : Host.Outcome State Fault Refusal := .next (onLink s lockBoundary)

/-- IDENTITY_EXCHANGE (R361). -/
def execIdentityExchange (revMin revMax : Byte) (s : State) : Host.Outcome State Fault Refusal :=
  .next (onLink s fun s => if lnkState s = 4 then exchangeRevisions s revMin.toNat revMax.toNat else s)

/-- RETRAIN_DONE: ACTIVE again, or EQ when it failed (Table 15.2). -/
def endRetrain (s : State) (ok : Bool) : State :=
  if lnkState s ≠ 6 then s
  else match (if ok then linkWidth s else none) with
    | some w => resumeLink (putTraining (putLnkState (putWidth s w) 5) 0 false)
    | none => putLnkState s 2

def execRetrainDone (ok : Bool) (s : State) : Host.Outcome State Fault Refusal := .next (onLink s fun s => endRetrain s ok)

/-- HOT_RESET (R361): from any training state but DOWN and REFUSED. -/
def hotReset (s : State) : State := if lnkState s = 0 ∨ lnkState s = 7 then s else moduleReset s 3 false

def execHotReset (s : State) : Host.Outcome State Fault Refusal := .next (onLink s hotReset)

/-! ### Messages (R364 to R370) -/

/-- The register that REGRD or REGWR names, and whether it is 8 bytes wide (Table 15.4). -/
def regTarget (hdr : Nat) : Nat × Nat × Bool := (bitsOf hdr 43 3, bitsOf hdr 22 21, bitOf hdr 46)

/-- REGRD: DAT answers with the data in AUX (Table 15.5). -/
def takeRegrd (s : State) (h hdr : Nat) : State :=
  let (k, off, wide) := regTarget hdr
  let q := accessReg2 (accessFlit s .companion k false) .companion k off wide none
  sendMsg q.1 ⟨BitVec.ofNat 1 h, 0x09, BitVec.ofNat 12 (bitsOf hdr 8 12), 1, BitVec.ofNat 48 (64 * statusCode q.2.1),
    (if q.2.1 = .ok then q.2.2 else 0), []⟩

/-- REGWR: CMP answers. -/
def takeRegwr (s : State) (h hdr : Nat) : State :=
  let (k, off, wide) := regTarget hdr
  let q := accessReg2 (accessFlit s .companion k true) .companion k off wide (some (BitVec.ofNat 64 (hdr / 2 ^ 64)))
  sendMsg q.1 ⟨BitVec.ofNat 1 h, 0x08, BitVec.ofNat 12 (bitsOf hdr 8 12), 1, BitVec.ofNat 48 (64 * statusCode q.2.1), 0, []⟩

/-- SNI. -/
def execSni (addr : BitVec 48) (s : State) : Host.Outcome State Fault Refusal :=
  .next (onTraffic s fun s => takeSni s (halfOf addr.toNat) 0 addr)

/-- DAT. -/
def execDat (half : BitVec 1) (tag : BitVec 12) (status : Status) (data : List Byte) (s : State) :
    Host.Outcome State Fault Refusal :=
  .next (onTraffic s fun s => takeDat s half.toNat tag status data)

/-- CMP. -/
def execCmp (half : BitVec 1) (tag : BitVec 12) (status : Status) (s : State) : Host.Outcome State Fault Refusal :=
  .next (onTraffic s fun s => takeCmp s half.toNat tag status)

/-- REGRD. -/
def execRegrd (half : BitVec 1) (hdr : BitVec 128) (s : State) : Host.Outcome State Fault Refusal :=
  .next (onTraffic s fun s => takeRegrd s half.toNat hdr.toNat)

/-- REGWR. -/
def execRegwr (half : BitVec 1) (hdr : BitVec 128) (s : State) : Host.Outcome State Fault Refusal :=
  .next (onTraffic s fun s => takeRegwr s half.toNat hdr.toNat)

/-! ### Flits (R362, R363) -/

/-- The data slots that follow a header slot to the module (Table 15.5). -/
def dataSlots (hdr : Nat) : Nat := if hdr % 256 = 0x09 then 4 * (bitsOf hdr 20 2 + 1) else 0

/-- The credit class of a companion's message (Table 15.5). -/
def messageClass (opc : Nat) : Option Nat :=
  if opc = 0x11 ∨ opc = 0x12 then some 0 else if opc = 0x09 ∨ opc = 0x0A then some 1 else if opc = 0x10 then some 2 else none

/-- A message's slots are taken: their credits are to be returned (R364). -/
def owe (v : VHalf) (opc n : Nat) : VHalf :=
  match messageClass opc with
  | some c => { v with owed := v.owed.set c (nth v.owed c + n) }
  | none => v

/-- Whether the companion had the credits for a message of `n` slots (R364). -/
def beyondCredit (v : VHalf) (opc n : Nat) : Bool :=
  match messageClass opc with
  | some c => decide (Config.vilgerGrants c < nth v.owed c + n)
  | none => false

/-- A message of `n` slots is taken from the slots received: `rest` are those after it (R364, LNK_FAULT.CREDIT). -/
def takeHead (s : State) (h opc n : Nat) (rest : List (List Byte)) : State :=
  let v := vhalf s h
  let s1 := putHalf s h (owe { v with slots := rest } opc n)
  if beyondCredit v opc n then rset s1 (halfStk h) LNK_FAULT_CREDIT else s1

/-- A message of the companion, by its opcode. -/
def takeMessage (s : State) (h hdr : Nat) (data : List Byte) : State :=
  let opc := hdr % 256
  let tag := BitVec.ofNat 12 (bitsOf hdr 8 12)
  let st := statusOf (bitsOf hdr 22 4)
  if opc = 0x09 then takeDat s h tag st data
  else if opc = 0x0A then takeCmp s h tag st
  else if opc = 0x10 then takeSni s h tag (BitVec.ofNat 48 (64 * bitsOf hdr 22 42))
  else if opc = 0x11 then takeRegrd s h hdr
  else if opc = 0x12 then takeRegwr s h hdr
  else s

/-- The messages that the received slots of a half make up, in order; an unfinished one waits for its data slots. -/
def takeSlots : Nat → State → Nat → State
  | 0, s, _ => s
  | fuel + 1, s, h =>
    let v := vhalf s h
    match v.slots with
    | [] => s
    | hd :: rest =>
      let hdr := leVal hd
      let n := dataSlots hdr
      if rest.length < n then s
      else takeSlots fuel (takeMessage (takeHead s h (hdr % 256) (n + 1) (rest.drop n)) h hdr (rest.take n).flatten) h

/-- The CRC of a flit after correction (Table 15.3). -/
def vflitGood (f : VFlit) : Bool := crc32c (f.bytes.take 232) == BitVec.ofNat 32 (leVal ((f.bytes.drop 232).take 4))

/-- A good data flit with the next SEQ: its header and its slots. -/
def takeDataFlit (s : State) (h hdr : Nat) (f : VFlit) : State :=
  let v := vhalf s h
  let s1 := takeHeader (putHalf s h { v with rxSeq := (v.rxSeq + 1) % 1024, nak := false, heard := true }) h hdr
  let w := vhalf s1 h
  let slots := w.slots ++ chunks 16 14 ((f.bytes.drop 8).take 224)
  takeSlots (slots.length + 1) (putHalf s1 h { w with slots := slots }) h

/-- A good flit, by its TYPE; one out of sequence is discarded with a NAK. -/
def takeGoodFlit (s : State) (h : Nat) (f : VFlit) : State :=
  let hdr := leVal (f.bytes.take 8)
  let ty := bitsOf hdr 22 2
  if ty = 2 ∧ bitOf hdr 38 then hotReset s
  else if lnkState s ≠ 5 ∨ ty = 3 then s
  else if ty ≠ 1 then takeHeader s h hdr
  else if hdr % 1024 ≠ (vhalf s h).rxSeq then discardFlit s h
  else takeDataFlit s h hdr f

/-- A flit whose CRC fails: discarded with a NAK, a transient event for each lane with uncorrected symbols. -/
def dropBadFlit (s : State) (h : Nat) (f : VFlit) : State :=
  let s1 := rbump (discardFlit s h) (halfStk h) LNK_CRCERR
  (List.range 16).foldl (fun s i =>
    if f.fecLanes.getLsbD i then (logCount s (vilgerLaneUnit (16 * h + i)) false 1 0).1 else s) s1

/-- A received flit. -/
def takeVFlit (s : State) (h : Nat) (f : VFlit) : State :=
  let s1 := rbump (rbump s (halfStk h) LNK_FLITS_RX) (halfStk h) LNK_FECCORR f.corrected
  if vflitGood f then takeGoodFlit s1 h f else dropBadFlit s1 h f

/-- VILGER_FLIT: received in any state but DOWN. -/
def execVilgerFlit (half : BitVec 1) (f : VFlit) (s : State) : Host.Outcome State Fault Refusal :=
  .next (onLink s fun s => if lnkState s = 0 then s else takeVFlit s half.toNat f)

/-- ACK_TIMER: no acknowledgement has advanced for 2 µs while flits are unacknowledged (R363). -/
def execAckTimer (half : BitVec 1) (s : State) : Host.Outcome State Fault Refusal :=
  .next (onTraffic s fun s => if (vhalf s half.toNat).replay.isEmpty then s else replayHalf (elapseNs s 2000) half.toNat)

/-! ### Replay limit and crossing channels (R374, R381) -/

/-- LINK_REPLAY_LIMIT. -/
def execLinkReplayLimit (l : LinkRef) (s : State) : Host.Outcome State Fault Refusal :=
  .next (if 4 ≤ s.rst.domains then replayLimit s l else s)

/-- An event of a crossing channel in domains that are released. -/
def onCrossing (s : State) (ch : BitVec 8) (repeated : Bool) : State :=
  if s.rst.domains < 3 ∨ 248 ≤ ch.toNat then s else crossingEvent s ch.toNat repeated

/-- One more replay on a crossing channel with no acknowledgement (Table 16.4). -/
def countReplay (s : State) (ch : Nat) : State :=
  { s with fleet := { s.fleet with
    xreplays := mapSet (fun _ => 0) s.fleet.xreplays ch (mapGet (fun _ => 0) s.fleet.xreplays ch + 1) } }

/-- CROSSING_FLIT_ERROR: the flit is replayed and is a transient event. -/
def execCrossingFlitError (channel : BitVec 8) (s : State) : Host.Outcome State Fault Refusal :=
  .next (onCrossing (countReplay s channel.toNat) channel false)

/-- CROSSING_RETRAIN_DONE (R381): a channel in retrain leaves it; after a success the waiting flits move on, and a failure is a
repeated event. -/
def execCrossingRetrainDone (channel : BitVec 8) (ok : Bool) (s : State) : Host.Outcome State Fault Refusal :=
  .next (
    if !s.fleet.xtrain.contains channel.toNat then s
    else
      let s1 := { s with fleet := { s.fleet with xtrain := s.fleet.xtrain.erase channel.toNat } }
      if ok then s1 else onCrossing s1 channel true)

end Sys2Proof.Machine
end

