-- ==== Sys2Proof/Machine/Dispatch.lean ====
section
/-!
DEFINITION. Dispatch: one arm per command, each one call of its meaning.
-/

namespace Sys2Proof.Machine

/-- What a command does to everything but the queue. -/
def exec (i : Instr) (s : State) : Host.Outcome State Fault Refusal :=
  match i with
  | .nop e iss => Sys2Proof.Machine.execNop e iss s
  | .setr e iss => Sys2Proof.Machine.execSetr e iss s
  | .setrh e iss => Sys2Proof.Machine.execSetrh e iss s
  | .addr e iss => Sys2Proof.Machine.execAddr e iss s
  | .jump e iss => Sys2Proof.Machine.execJump e iss s
  | .loop e iss => Sys2Proof.Machine.execLoop e iss s
  | .nextw e iss => Sys2Proof.Machine.execNextw e iss s
  | .halt e iss => Sys2Proof.Machine.execHalt e iss s
  | .fetLoad iss => Sys2Proof.Machine.execFetLoad iss s
  | .fetLoads iss => Sys2Proof.Machine.execFetLoads iss s
  | .fetCopy iss => Sys2Proof.Machine.execFetCopy iss s
  | .fetZero iss => Sys2Proof.Machine.execFetZero iss s
  | .fetBankw iss => Sys2Proof.Machine.execFetBankw iss s
  | .arrMvm iss lv => Sys2Proof.Machine.execArrMvm iss lv s
  | .arrRetry iss lv => Sys2Proof.Machine.execArrRetry iss lv s
  | .arrBank iss => Sys2Proof.Machine.execArrBank iss s
  | .arrMode iss => Sys2Proof.Machine.execArrMode iss s
  | .sidMode iss => Sys2Proof.Machine.execSidMode iss s
  | .sidRecomp iss => Sys2Proof.Machine.execSidRecomp iss s
  | .sidDrain iss => Sys2Proof.Machine.execSidDrain iss s
  | .sidEmit iss => Sys2Proof.Machine.execSidEmit iss s
  | .pltNorm iss => Sys2Proof.Machine.execPltNorm iss s
  | .pltScore iss => Sys2Proof.Machine.execPltScore iss s
  | .pltSoftmax iss => Sys2Proof.Machine.execPltSoftmax iss s
  | .pltVprod iss => Sys2Proof.Machine.execPltVprod iss s
  | .pltTopk iss => Sys2Proof.Machine.execPltTopk iss s
  | .pltSort iss => Sys2Proof.Machine.execPltSort iss s
  | .pltMerge iss => Sys2Proof.Machine.execPltMerge iss s
  | .pltIsect iss => Sys2Proof.Machine.execPltIsect iss s
  | .pltGather iss => Sys2Proof.Machine.execPltGather iss s
  | .pltScatter iss => Sys2Proof.Machine.execPltScatter iss s
  | .pltHprobe iss => Sys2Proof.Machine.execPltHprobe iss s
  | .pltRelax iss => Sys2Proof.Machine.execPltRelax iss s
  | .pltSample iss => Sys2Proof.Machine.execPltSample iss s
  | .sigPut iss => Sys2Proof.Machine.execSigPut iss s
  | .sigGet iss => Sys2Proof.Machine.execSigGet iss s
  | .sigAdd32 iss => Sys2Proof.Machine.execSigAdd32 iss s
  | .sigAdd64 iss => Sys2Proof.Machine.execSigAdd64 iss s
  | .sigLadd iss => Sys2Proof.Machine.execSigLadd iss s
  | .sigCas64 iss => Sys2Proof.Machine.execSigCas64 iss s
  | .sigMput iss => Sys2Proof.Machine.execSigMput iss s
  | .sigArrive iss => Sys2Proof.Machine.execSigArrive iss s
  | .sigWaitg iss => Sys2Proof.Machine.execSigWaitg iss s
  | .sigWaitwp iss => Sys2Proof.Machine.execSigWaitwp iss s
  | .sigWpinit iss => Sys2Proof.Machine.execSigWpinit iss s
  | .staticIssueSlot e at_ dt w lv => Sys2Proof.Machine.execStaticIssueSlot e at_ dt w lv s
  | .wdog e at_ => Sys2Proof.Machine.execWdog e at_ s
  | .stall e at_ => Sys2Proof.Machine.execStall e at_ s
  | .tileClockGate at_ => Sys2Proof.Machine.execTileClockGate at_ s
  | .wakeRequest at_ => Sys2Proof.Machine.execWakeRequest at_ s
  | .clockStartGrant dns => Sys2Proof.Machine.execClockStartGrant dns s
  | .clockStopGrant dns => Sys2Proof.Machine.execClockStopGrant dns s
  | .run at_ v => Sys2Proof.Machine.execRun at_ v s
  | .fence at_ => Sys2Proof.Machine.execFence at_ s
  | .wdogLock at_ => Sys2Proof.Machine.execWdogLock at_ s
  | .srst at_ => Sys2Proof.Machine.execSrst at_ s
  | .tilArrLock at_ => Sys2Proof.Machine.execTilArrLock at_ s
  | .put p => Sys2Proof.Machine.execPut p s
  | .get p via => Sys2Proof.Machine.execGet p via s
  | .add32 p via others => Sys2Proof.Machine.execAdd32 p via others s
  | .add64 p via others => Sys2Proof.Machine.execAdd64 p via others s
  | .ladd p via others => Sys2Proof.Machine.execLadd p via others s
  | .cas64 p => Sys2Proof.Machine.execCas64 p s
  | .mput m => Sys2Proof.Machine.execMput m s
  | .arrive p => Sys2Proof.Machine.execArrive p s
  | .completion p => Sys2Proof.Machine.execCompletion p s
  | .getData p => Sys2Proof.Machine.execGetData p s
  | .registerAccess a => Sys2Proof.Machine.execRegisterAccess a s
  | .controlReport r => Sys2Proof.Machine.execControlReport r s
  | .hopTimeout p where_ => Sys2Proof.Machine.execHopTimeout p where_ s
  | .endToEndTimeout at_ tag => Sys2Proof.Machine.execEndToEndTimeout at_ tag s
  | .chtOpen c => Sys2Proof.Machine.execChtOpen c s
  | .chtMap c => Sys2Proof.Machine.execChtMap c s
  | .chtFork c => Sys2Proof.Machine.execChtFork c s
  | .chtAlloc c => Sys2Proof.Machine.execChtAlloc c s
  | .chtCow c => Sys2Proof.Machine.execChtCow c s
  | .chtAdv c => Sys2Proof.Machine.execChtAdv c s
  | .chtFree c => Sys2Proof.Machine.execChtFree c s
  | .chtPin c => Sys2Proof.Machine.execChtPin c s
  | .chtUnpin c => Sys2Proof.Machine.execChtUnpin c s
  | .rutLookup c => Sys2Proof.Machine.execRutLookup c s
  | .rutInsert c => Sys2Proof.Machine.execRutInsert c s
  | .rutEvict c => Sys2Proof.Machine.execRutEvict c s
  | .pageWindow p => Sys2Proof.Machine.execPageWindow p s
  | .appendWindow p => Sys2Proof.Machine.execAppendWindow p s
  | .chtEn stack v => Sys2Proof.Machine.execChtEn stack v s
  | .invAll stack => Sys2Proof.Machine.execInvAll stack s
  | .chtLock stack => Sys2Proof.Machine.execChtLock stack s
  | .chtHead stack head => Sys2Proof.Machine.execChtHead stack head s
  | .submit l prompt => Sys2Proof.Machine.execSubmit l prompt s
  | .cancel l => Sys2Proof.Machine.execCancel l s
  | .adapterPublish l => Sys2Proof.Machine.execAdapterPublish l s
  | .adapterRetire l => Sys2Proof.Machine.execAdapterRetire l s
  | .berthDisable l => Sys2Proof.Machine.execBerthDisable l s
  | .watchNotice l => Sys2Proof.Machine.execWatchNotice l s
  | .returnLine idx => Sys2Proof.Machine.execReturnLine idx s
  | .stepBoundary berth => Sys2Proof.Machine.execStepBoundary berth s
  | .stackCommitRelease stack berth => Sys2Proof.Machine.execStackCommitRelease stack berth s
  | .commitPoint berth => Sys2Proof.Machine.execCommitPoint berth s
  | .releaseRecord berth watch vmax => Sys2Proof.Machine.execReleaseRecord berth watch vmax s
  | .stepTimeout berth => Sys2Proof.Machine.execStepTimeout berth s
  | .helmEn v => Sys2Proof.Machine.execHelmEn v s
  | .hlmLock => Sys2Proof.Machine.execHlmLock s
  | .programBegin o => Sys2Proof.Machine.execProgramBegin o s
  | .programChunk o bytes => Sys2Proof.Machine.execProgramChunk o bytes s
  | .programEnd o => Sys2Proof.Machine.execProgramEnd o s
  | .activate o => Sys2Proof.Machine.execActivate o s
  | .erase o => Sys2Proof.Machine.execErase o s
  | .load o => Sys2Proof.Machine.execLoad o s
  | .stageAdapter o => Sys2Proof.Machine.execStageAdapter o s
  | .replace o => Sys2Proof.Machine.execReplace o s
  | .bootset o => Sys2Proof.Machine.execBootset o s
  | .portEn port v => Sys2Proof.Machine.execPortEn port v s
  | .receiverDetect port => Sys2Proof.Machine.execReceiverDetect port s
  | .trainingLimit port lanes => Sys2Proof.Machine.execTrainingLimit port lanes s
  | .identityFrame port f => Sys2Proof.Machine.execIdentityFrame port f s
  | .fleetFrame port f => Sys2Proof.Machine.execFleetFrame port f s
  | .linkReplayLimit l => Sys2Proof.Machine.execLinkReplayLimit l s
  | .discover => Sys2Proof.Machine.execDiscover s
  | .hail port r => Sys2Proof.Machine.execHail port r s
  | .discoverySettle => Sys2Proof.Machine.execDiscoverySettle s
  | .numbers port r => Sys2Proof.Machine.execNumbers port r s
  | .commit => Sys2Proof.Machine.execCommit s
  | .fltLock die => Sys2Proof.Machine.execFltLock die s
  | .timingFrame pairs => Sys2Proof.Machine.execTimingFrame pairs s
  | .offsetMeasure t => Sys2Proof.Machine.execOffsetMeasure t s
  | .slew => Sys2Proof.Machine.execSlew s
  | .watchBoundary => Sys2Proof.Machine.execWatchBoundary s
  | .arm => Sys2Proof.Machine.execArm s
  | .chrLock => Sys2Proof.Machine.execChrLock s
  | .agreementRecord watch q d => Sys2Proof.Machine.execAgreementRecord watch q d s
  | .fleetWaypointTimeout w => Sys2Proof.Machine.execFleetWaypointTimeout w s
  | .fixReq stack => Sys2Proof.Machine.execFixReq stack s
  | .sxtLock stack => Sys2Proof.Machine.execSxtLock stack s
  | .dogSlot stack => Sys2Proof.Machine.execDogSlot stack s
  | .idleCycle at_ => Sys2Proof.Machine.execIdleCycle at_ s
  | .groupComplete stack site group fix r => Sys2Proof.Machine.execGroupComplete stack site group fix r s
  | .passComplete stack => Sys2Proof.Machine.execPassComplete stack s
  | .ageingTrigger stack => Sys2Proof.Machine.execAgeingTrigger stack s
  | .demandStretch stack => Sys2Proof.Machine.execDemandStretch stack s
  | .tableEccError stack site => Sys2Proof.Machine.execTableEccError stack site s
  | .lnkEn v => Sys2Proof.Machine.execLnkEn v s
  | .retrain => Sys2Proof.Machine.execRetrain s
  | .lnkLock half => Sys2Proof.Machine.execLnkLock half s
  | .vilgerTrainingLimit => Sys2Proof.Machine.execVilgerTrainingLimit s
  | .vilgerFlit half f => Sys2Proof.Machine.execVilgerFlit half f s
  | .ackTimer half => Sys2Proof.Machine.execAckTimer half s
  | .hotReset => Sys2Proof.Machine.execHotReset s
  | .sni addr => Sys2Proof.Machine.execSni addr s
  | .dat half tag status data => Sys2Proof.Machine.execDat half tag status data s
  | .cmp half tag status => Sys2Proof.Machine.execCmp half tag status s
  | .regrd half hdr => Sys2Proof.Machine.execRegrd half hdr s
  | .regwr half hdr => Sys2Proof.Machine.execRegwr half hdr s
  | .dramCorrected stack channel => Sys2Proof.Machine.execDramCorrected stack channel s
  | .dramUncorrectable e => Sys2Proof.Machine.execDramUncorrectable e s
  | .heartbeat stack => Sys2Proof.Machine.execHeartbeat stack s
  | .heartbeatTimeout stack => Sys2Proof.Machine.execHeartbeatTimeout stack s
  | .watchdog => Sys2Proof.Machine.execWatchdog s
  | .logAppend => Sys2Proof.Machine.execLogAppend s
  | .stressTest at_ pass => Sys2Proof.Machine.execStressTest at_ pass s
  | .replayWatch berth => Sys2Proof.Machine.execReplayWatch berth s
  | .abandonNotice berth firstWatch module => Sys2Proof.Machine.execAbandonNotice berth firstWatch module s
  | .abandonRecord berth firstWatch replay => Sys2Proof.Machine.execAbandonRecord berth firstWatch replay s
  | .abandonNoticeTimeout berth => Sys2Proof.Machine.execAbandonNoticeTimeout berth s
  | .thermalStopEvent => Sys2Proof.Machine.execThermalStopEvent s
  | .thermalNotice berth => Sys2Proof.Machine.execThermalNotice berth s
  | .mainEn v => Sys2Proof.Machine.execMainEn v s
  | .chargeComplete => Sys2Proof.Machine.execChargeComplete s
  | .inrush => Sys2Proof.Machine.execInrush s
  | .vinuv => Sys2Proof.Machine.execVinuv s
  | .vinov => Sys2Proof.Machine.execVinov s
  | .busuv => Sys2Proof.Machine.execBusuv s
  | .busov => Sys2Proof.Machine.execBusov s
  | .powerSample mean10ms mean1s => Sys2Proof.Machine.execPowerSample mean10ms mean1s s
  | .pwrLock => Sys2Proof.Machine.execPwrLock s
  | .stackOn stack v => Sys2Proof.Machine.execStackOn stack v s
  | .stackPowerDone stack => Sys2Proof.Machine.execStackPowerDone stack s
  | .muxSwitch m => Sys2Proof.Machine.execMuxSwitch m s
  | .muxHang m => Sys2Proof.Machine.execMuxHang m s
  | .lossOfClock c => Sys2Proof.Machine.execLossOfClock c s
  | .fmeasGo f => Sys2Proof.Machine.execFmeasGo f s
  | .fmeasDone f count => Sys2Proof.Machine.execFmeasDone f count s
  | .poweron => Sys2Proof.Machine.execPoweron s
  | .bearingReset a => Sys2Proof.Machine.execBearingReset a s
  | .fltrst src v => Sys2Proof.Machine.execFltrst src v s
  | .blockReset => Sys2Proof.Machine.execBlockReset s
  | .idleAck b => Sys2Proof.Machine.execIdleAck b s
  | .quiesceTimeout b => Sys2Proof.Machine.execQuiesceTimeout b s
  | .blockRelease b => Sys2Proof.Machine.execBlockRelease b s
  | .domainRelease => Sys2Proof.Machine.execDomainRelease s
  | .preconditionTimeout => Sys2Proof.Machine.execPreconditionTimeout s
  | .bringupStep b => Sys2Proof.Machine.execBringupStep b s
  | .diodeRound samples => Sys2Proof.Machine.execDiodeRound samples s
  | .dramTemperature stack temp => Sys2Proof.Machine.execDramTemperature stack temp s
  | .grace => Sys2Proof.Machine.execGrace s
  | .hostq v => Sys2Proof.Machine.execHostq v s
  | .bearingRead a => Sys2Proof.Machine.execBearingRead a s
  | .bearingWrite a => Sys2Proof.Machine.execBearingWrite a s
  | .bearingState => Sys2Proof.Machine.execBearingState s
  | .logread a => Sys2Proof.Machine.execLogread a s
  | .lifecycleAdvance a => Sys2Proof.Machine.execLifecycleAdvance a s
  | .fuseProgram a => Sys2Proof.Machine.execFuseProgram a s
  | .devtableCommit a => Sys2Proof.Machine.execDevtableCommit a s
  | .imageSlotSelect a => Sys2Proof.Machine.execImageSlotSelect a s
  | .longdone code => Sys2Proof.Machine.execLongdone code s
  | .longOverrun => Sys2Proof.Machine.execLongOverrun s
  | .sequencePass => Sys2Proof.Machine.execSequencePass s
  | .fastPair => Sys2Proof.Machine.execFastPair s
  | .urgentRequest => Sys2Proof.Machine.execUrgentRequest s
  | .conversionDone code => Sys2Proof.Machine.execConversionDone code s
  | .refbufEn v => Sys2Proof.Machine.execRefbufEn v s
  | .refRdy => Sys2Proof.Machine.execRefRdy s
  | .attest => Sys2Proof.Machine.execAttest s
  | .testreq => Sys2Proof.Machine.execTestreq s
  | .mfLoad bytes => Sys2Proof.Machine.execMfLoad bytes s
  | .fwLoad bytes => Sys2Proof.Machine.execFwLoad bytes s
  | .zeroise => Sys2Proof.Machine.execZeroise s
  | .tapBypass => Sys2Proof.Machine.execTapBypass s
  | .tapIdcode => Sys2Proof.Machine.execTapIdcode s
  | .tapSamplePreload => Sys2Proof.Machine.execTapSamplePreload s
  | .tapExtest => Sys2Proof.Machine.execTapExtest s
  | .equalisationDone port => Sys2Proof.Machine.execEqualisationDone port s
  | .fecLock port => Sys2Proof.Machine.execFecLock port s
  | .vilgerReceiverDetection => Sys2Proof.Machine.execVilgerReceiverDetection s
  | .vilgerEqualisationDone good0 good1 => Sys2Proof.Machine.execVilgerEqualisationDone good0 good1 s
  | .flitBoundaryLock => Sys2Proof.Machine.execFlitBoundaryLock s
  | .identityExchange revMin revMax => Sys2Proof.Machine.execIdentityExchange revMin revMax s
  | .retrainDone ok => Sys2Proof.Machine.execRetrainDone ok s
  | .crossingFlitError channel => Sys2Proof.Machine.execCrossingFlitError channel s
  | .crossingRetrainDone channel ok => Sys2Proof.Machine.execCrossingRetrainDone channel ok s
  | .pllLock stack pll => Sys2Proof.Machine.execPllLock stack pll s
  | .vbusInRegulation => Sys2Proof.Machine.execVbusInRegulation s
  | .powerLoss => Sys2Proof.Machine.execPowerLoss s
  | .clockReturn c => Sys2Proof.Machine.execClockReturn c s
  | .logBucketBoundary kind => Sys2Proof.Machine.execLogBucketBoundary kind s
  | .bearingRequestFormat r => Sys2Proof.Machine.execBearingRequestFormat r s
  | .binnacleEccHalt => Sys2Proof.Machine.execBinnacleEccHalt s

end Sys2Proof.Machine
end

