-- ==== Sys2Proof/WellFormed.lean ====
section
/-!
DEFINITION. The operands that a command's row admits, where the operand's type is wider than the hardware's: sites,
lengths of flits, frames and lines, units of the log. A command that is not well-formed brings in something the part
cannot receive; what an instruction word holds is checked by the part itself (R151, R178) and not here.
-/

namespace Sys2Proof

/-- Router and tile sites of a stack: 24 columns, 20 rows (R293). -/
def siteOk (n : Nat) : Bool := decide (n < 480)

/-- A router named by stack and site. -/
def viaOk (v : Option SiteRef) : Bool :=
  match v with
  | some r => siteOk r.site
  | none => true

/-- The bytes a packet of each operation carries (R168, R294, R304, Table 13.7). -/
def payloadOk (p : Packet) : Bool :=
  match p.op with
  | .put => p.data.length == p.len && decide (1 ≤ p.len) && decide (p.len ≤ 4096)
  | .mput => p.data.length == p.len && decide (1 ≤ p.len) && decide (p.len ≤ 4096) && decide (1 ≤ p.targets.length)
      && decide (p.targets.length ≤ 16)
  | .get => decide (1 ≤ p.len) && decide (p.len ≤ 4096)
  | .add32 => p.data.length == 4 * p.len && decide (1 ≤ p.len) && decide (p.len ≤ 56)
  | .add64 => p.data.length == 8 * p.len && decide (1 ≤ p.len) && decide (p.len ≤ 28)
  | .ladd => p.data.length == 16 * p.len && decide (1 ≤ p.len) && decide (p.len ≤ 14)
  | .cas64 => p.data.length == 16
  | .getData => p.data.length == p.len
  | _ => true

/-- A companion line's data: one to four lines of 64 bytes, or none (R364). -/
def linesOk (bs : List Byte) : Bool := bs.length % 64 == 0 && decide (bs.length ≤ 256)

/-- A crossing channel of the package (Table 16.2). -/
def crossingOk (n : BitVec 8) : Bool := decide (n.toNat < 248)

/-- A link that can reach a replay limit. -/
def linkOk : LinkRef → Bool
  | .crossing n => crossingOk n
  | _ => true

/-- A failed check of self-test names a site. -/
def failOk : SelfTestFail → Bool
  | .site _ n => siteOk n
  | .retire _ n => siteOk n
  | .router _ n => siteOk n
  | _ => true

/-- A measured clock of self-test is one of a stack's PLLs 0 to 4. -/
def readingOk : SelfReading → Bool
  | .stackPll _ i _ => decide (i ≤ 4)
  | _ => true

/-- Whether a command's operands are such as the part can receive. -/
def wellFormed : Instr → Bool
  | .put p => p.op == .put && payloadOk p
  | .get p via => p.op == .get && payloadOk p && viaOk via
  | .add32 p via _ => p.op == .add32 && payloadOk p && viaOk via
  | .add64 p via _ => p.op == .add64 && payloadOk p && viaOk via
  | .ladd p via _ => p.op == .ladd && payloadOk p && viaOk via
  | .cas64 p => p.op == .cas64 && payloadOk p
  | .mput m => m.packet.op == .mput && payloadOk m.packet
  | .arrive p => p.op == .arrive
  | .getData p => p.op == .getData && payloadOk p
  | .programChunk _ bytes => decide (bytes.length ≤ 67108864)
  | .fleetFrame _ f => f.flit.length == 256
  | .linkReplayLimit l => linkOk l
  | .hail _ r => r.ports.length == 16
  | .groupComplete _ site group _ _ => siteOk site && decide (group < 293)
  | .tableEccError _ site => siteOk site
  | .vilgerFlit _ f => f.bytes.length == 236
  | .dat _ _ _ data => linesOk data
  | .dramUncorrectable e => decide (e.off < 51539607552)
  | .bringupStep b => b.fails.all failOk && b.readings.all readingOk
  | .diodeRound samples => samples.all fun x => decide (x.diode.toNat < 48)
  | .crossingFlitError n => crossingOk n
  | .crossingRetrainDone n _ => crossingOk n
  | .pllLock _ pll => decide (pll.toNat ≤ 6)
  | .logBucketBoundary kind => decide (1 ≤ kind.toNat) && decide (kind.toNat ≤ 7)
  | _ => true

end Sys2Proof
end

