-- ==== Sys2Proof/Safety.lean ====
section
/-!
DEFINITION. What counts as a safe machine: every table and memory is in its canonical form, so that equal machines are
equal data, and the lists that stand for a fixed number of like things keep their number.
-/

namespace Sys2Proof

/-- A tile's own tables are canonical (registers, tile store, queues, accumulator rows), and it has its five engines
(R130), two accumulator sets (R114) and four completion groups (R171). -/
def tileSafe (t : Machine.Tile) : Bool :=
  Machine.mapWf Machine.tileRegReset t.regs && Machine.memWf t.store && Machine.mapWf Machine.queueReset t.queues
    && Machine.mapWf (fun _ => Machine.AccRow.zero) t.acc && decide (t.engs.length = 5) && decide (t.sets.length = 2)
    && decide (t.groups.length = 4)

/-- The machine's registers, DRAM and tiles are canonical, every listed tile is safe, and there are eight stacks (R12),
16 fleet ports (R311), 16 berths (R245), four class queues (R253) and two halves of Vilger Link (R363). -/
def machineSafe (s : Machine.State) : Bool :=
  Machine.mapWf Machine.reg2Reset s.regs && Machine.memWf s.dram
    && Machine.mapWf (fun _ => Machine.Tile.reset) s.tiles && s.tiles.all (fun p => tileSafe p.2)
    && decide (s.stk.length = 8) && decide (s.fleet.ports.length = 16) && decide (s.serve.berths.length = 16)
    && decide (s.serve.queues.length = 4) && decide (s.vil.halves.length = 2)

/-- Whether a step goes on. -/
def goesOn (s : Machine.State) : Prop := ∃ t, Machine.step s = .next t

end Sys2Proof
end

