-- ==== Sys2Proof/Certificates/Slice0/Obligations.lean ====
section
/-!
DEFINITION. The statements for the provers, over the rules of spec/. `Sys2Proof.Claims` holds their vocabulary: when an
instruction issues, what a run leaves, which parts of the machine a command touches. Each statement names the rules it
formalises; where it rests on a choice of the model's it names the log entry.
-/

/-! ### An engine's instruction that issues -/

namespace Sys2Proof.Claims

open Sys2Proof Sys2Proof.Machine

/-- What a tile sees of the module once the `dt` cycles before an instruction is reached have passed. -/
def reachCtx (s : State) (i : Issue) : Ctx := ctxOf (elapse s i.dt) i.tile

/-- The tile as engine `e` finds it in cycle `k`: what comes about before the engine reaches the instruction, and then
before cycle `k`, has come about (R135, R141, R145). -/
def found (s : State) (i : Issue) (site k : Nat) : Tile :=
  settleBefore k (settleBefore (reachCtx s i).now (tileAt s i.tile.stack.toNat site))

/-- The token that an F0 or F1 word's wait takes in cycle `k` (R134, R135). -/
def taken (t : Tile) (n : Enc) (k : Nat) : Option Half :=
  if n.fmt.toNat < 2 ∧ encWQ n ≠ 0 then tokenAt t (encWQ n) k else none

/-- The queue an F0 or F1 word posts to, 0 for none. -/
def postsTo (n : Enc) : Nat := if n.fmt.toNat < 2 then encPQ n else 0

/-- The tile with issue done and the opcode's own effect to come: the wait's token is popped and is TK (R154), a place is
reserved for the post (R135), the engine runs and may issue again from the next cycle (R132), its program counter has
stepped (R131) and what it can have prefetched with it, and the tile was busy in that cycle (R147). -/
def issued (t : Tile) (e : Engine) (n : Enc) (k : Nat) : Tile :=
  let t1 := match taken t n k with
    | some v => setGp (popToken t (encWQ n) k) e 16 (v.setWidth 64)
    | none => t
  let t2 := if postsTo n = 0 then t1 else reservePlace t1 (postsTo n)
  let t3 := setEng t2 e
    { engOf t2 e with st := 1, since := none, nextIssue := k + 1, nextw := none, wpSince := none, held := none }
  busyAt (dropStale (setPc t3 e (pcOf t e + 1)) e) k

/-- The flight record of an instruction that issues in cycle `k` (R143, R145). -/
def flight (t : Tile) (e : Engine) (op : Nat) (n : Enc) (k : Nat) : Flight :=
  ⟨e, pcOf t e, (match opRow e op with | some r => r.cls | none => 0), k, postsTo n, taken t n k⟩

/-- The instruction of `i`, with opcode `op` of engine `e`, issues in cycle `k` at the tile at `site` (R131 to R135, R154,
R156, R178, R482): the tile is mapped there, the engine runs and can hold the instruction's word, the word is legal, its operands pass their checks, the
cycle is the one its slot or the rules for an unslotted instruction give, its queues and the opcode's own resources
are ready. `phased`: it issues only in phase 1 (R72). `u` holds the opcode's checks and readiness. -/
structure Issues (s : State) (e : Engine) (op : Nat) (i : Issue) (phased : Bool) (u : OpUnit) (site k : Nat) : Prop where
  mapped : siteOf s i.tile.stack.toNat i.tile.tile.toNat = some site
  reached : engineRuns (settleBefore (reachCtx s i).now (tileAt s i.tile.stack.toNat site)) e = true
  holds : holdsWord (settleBefore (reachCtx s i).now (tileAt s i.tile.stack.toNat site)) e (wordOf op i.enc) = true
  legal : wordLegal e op i.enc = true
  checked : u.check (settleBefore (reachCtx s i).now (tileAt s i.tile.stack.toNat site)) = none
  cycle : if i.enc.fmt = 0 then
      effSlot (settleBefore (reachCtx s i).now (tileAt s i.tile.stack.toNat site)) e i.enc < (reachCtx s i).len
        ∧ (phased = true → effSlot (settleBefore (reachCtx s i).now (tileAt s i.tile.stack.toNat site)) e i.enc % 3 = 1)
        ∧ (reachCtx s i).now ≤ k
        ∧ k = (reachCtx s i).slot0 + effSlot (settleBefore (reachCtx s i).now (tileAt s i.tile.stack.toNat site)) e i.enc
        ∧ (engOf (found s i site k) e).nextIssue ≤ k
    else
      k = earliest (reachCtx s i) (settleBefore (reachCtx s i).now (tileAt s i.tile.stack.toNat site)) e phased u
  runs : engineRuns (found s i site k) e = true
  waits : i.enc.fmt.toNat < 2 → encWQ i.enc ≠ 0 → (tokenAt (found s i site k) (encWQ i.enc) k).isSome = true
  posts : i.enc.fmt.toNat < 2 → encPQ i.enc ≠ 0 → queueRoom (found s i site k) (encPQ i.enc) k = true
  ready : u.ready { reachCtx s i with now := k } (found s i site k) = .free ∨
    ∃ j, j ≤ k ∧ u.ready { reachCtx s i with now := k } (found s i site k) = .from_ j
  operands : u.check (issued (found s i site k) e i.enc k) = none

/-- The machine once tile `r` at `site` has become `t'` in cycle `k` and has sent `ps`: time stands at `k`; a new tile
fault is reported (R145); check events go to the log; the packets enter the network and their flits are counted; and
nothing else changes: no other tile, no DRAM byte, no other register or part. -/
structure Ran (s s' : State) (r : TileRef) (site k : Nat) (t' : Tile) (ps : List Packet) : Prop where
  cyc : s'.cyc = k
  slot0 : s'.slot0 = s.slot0
  tile : ∃ d, tileAt s' r.stack.toNat site = { t' with events := [], demotePend := d }
    ∧ (t'.events = [] → d = t'.demotePend)
  tiles : ∀ k2 site2, tileKey k2 site2 ≠ tileKey r.stack.toNat site → tileAt s' k2 site2 = tileAt s k2 site2
  dram : ∀ a, memByte s'.dram a = memByte s.dram a
  net : s'.net = s.net ++ ps
  regs : ∀ k2 off, rword s' k2 off = rword (sendPackets { s with cyc := k } r.stack.toNat ps) k2 off
  reports : s'.reports = s.reports ++ faultReports (tileAt s r.stack.toNat site) t' r
  log : t'.events = [] → s'.log = s.log
  rest : s'.free = s.free ∧ s'.stk = s.stk ∧ s'.vil = s.vil ∧ s'.fleet = s.fleet ∧ s'.chr = s.chr ∧ s'.serve = s.serve ∧
    s'.img = s.img ∧ s'.pwr = s.pwr ∧ s'.rst = s.rst ∧ s'.bnc = s.bnc ∧ s'.snd = s.snd ∧ s'.lsr = s.lsr ∧
    s'.tap = s.tap ∧ s'.answers = s.answers ∧ s'.pending = s.pending

/-- The instruction, where it issues and `ok` holds of the module's view, the tile with issue done and the flight, has the
effect `g` on its tile, bank-free tokens following the banks (R136), and sends `g`'s packets. -/
def Acts (s : State) (e : Engine) (op : Nat) (i : Issue) (phased : Bool) (u : OpUnit)
    (ok : Ctx → Tile → Flight → Prop) (g : Ctx → Tile → Flight → Tile × List Packet)
    (out : Host.Outcome State Fault Refusal) : Prop :=
  ∀ site k, Issues s e op i phased u site k →
    ok { reachCtx s i with now := k } (issued (found s i site k) e i.enc k) (flight (found s i site k) e op i.enc k) →
    ∃ s', out = .next s' ∧ Ran s s' i.tile site k
      (bankTokens (g { reachCtx s i with now := k } (issued (found s i site k) e i.enc k)
        (flight (found s i site k) e op i.enc k)).1 k)
      (g { reachCtx s i with now := k } (issued (found s i site k) e i.enc k)
        (flight (found s i site k) e op i.enc k)).2

/-- No condition beyond issue. -/
def always (_ : Ctx) (_ : Tile) (_ : Flight) : Prop := True

/-- The instruction changes its tile by `f` and retires `n` cycles after issue; it sends nothing. -/
def changes (n : Nat) (f : Flight → Tile → Tile) (_ : Ctx) (t : Tile) (fl : Flight) : Tile × List Packet :=
  (later (f fl t) (fl.issued + n) (.retire fl), [])

end Sys2Proof.Claims

open Sys2Proof Sys2Proof.Machine Sys2Proof.Claims

/-! ### Control instructions -/

/-- R157: NOP has no work; SETR writes IMM, zero-extended, into REG; SETRH writes IMM[15:0] into GP[REG][63:48]; ADDR
writes GP[B] + GP[C] + EXT, modulo 2^64, into GP[A]. Each retires one tile cycle after issue and leaves the rest of
the tile and of the machine as it was. -/
def Obligations.ControlWritesRegisters : Prop :=
  ∀ (s : State) (e : Engine) (i : Issue),
    Acts s e 0 i false nopUnit always (changes 1 fun _ t => t) (exec (.nop e i) s)
    ∧ Acts s e 1 i false (setrUnit e i.enc) always
        (changes 1 fun _ t => setGp t e (encReg i.enc) (BitVec.ofNat 64 (encImm i.enc))) (exec (.setr e i) s)
    ∧ Acts s e 2 i false (setrhUnit e i.enc) always
        (changes 1 fun _ t => setGp t e (encReg i.enc)
          (BitVec.ofNat 64 ((gp t e (encReg i.enc)).toNat % 2 ^ 48 + encImm i.enc % 65536 * 2 ^ 48))) (exec (.setrh e i) s)
    ∧ Acts s e 3 i false (addrUnit e i.enc) always
        (changes 1 fun _ t => setGp t e (encA i.enc)
          (gp t e (encB i.enc) + gp t e (encC i.enc) + BitVec.ofInt 64 (encExt i.enc))) (exec (.addr e i) s)

/-- R157, R158: JUMP continues at ring index TARGET. LOOP adds STRIDE to SB; then, while LC[LCI] is above 1, it counts
down and the next instruction is at TARGET, and otherwise LC[LCI] becomes 0 and execution falls through. NEXTW, whose
engine reached it in an earlier watch, issues and clears SB. HALT leaves its engine idle until it is started again
(R482). -/
def Obligations.ControlTransfers : Prop :=
  ∀ (s : State) (e : Engine) (i : Issue),
    Acts s e 4 i false (jumpUnit e i.enc) always (changes 1 fun _ t => setPc t e (encTarget i.enc)) (exec (.jump e i) s)
    ∧ Acts s e 5 i false (loopUnit e i.enc)
        (fun _ t _ => 1 < (gp (setGp t e 20 (gp t e 20 + BitVec.ofNat 64 (encStride i.enc))) e (24 + encLci i.enc)).toNat)
        (changes 1 fun _ t =>
          let t1 := setGp t e 20 (gp t e 20 + BitVec.ofNat 64 (encStride i.enc))
          setPc (setGp t1 e (24 + encLci i.enc) (gp t1 e (24 + encLci i.enc) - 1)) e (encTarget i.enc))
        (exec (.loop e i) s)
    ∧ Acts s e 5 i false (loopUnit e i.enc)
        (fun _ t _ => ¬ 1 < (gp (setGp t e 20 (gp t e 20 + BitVec.ofNat 64 (encStride i.enc))) e (24 + encLci i.enc)).toNat)
        (changes 1 fun _ t => setGp (setGp t e 20 (gp t e 20 + BitVec.ofNat 64 (encStride i.enc))) e (24 + encLci i.enc) 0)
        (exec (.loop e i) s)
    ∧ Acts (changeTile (elapse s i.dt) i.tile fun c t => markNextw c.slot0 e i.enc t) e 6 { i with dt := 0 } false (nextwUnit e)
        always (changes 1 fun _ t => setGp t e 20 0) (exec (.nextw e i) s)
    ∧ Acts s e 7 i false (haltUnit e) always
        (changes 1 fun _ t => setEng t e { engOf t e with on := false, pcWritten := false, st := 0 }) (exec (.halt e i) s)

/-! ### Fetch -/

/-- R159: LOAD requests one transfer into tile store, LOADS COUNT rows, COPY copies within the tile store, ZERO writes
zeros, and BANKW starts the stream of a bank write into a bank that is neither busy nor in WRITING (R86), which is
then in WRITING. Where Sextant sights a group of the tile meanwhile, it discards the results of that bank (R188), and
elsewhere nothing further changes. How many grants a copy or a zero waits for is free (notes/assumptions/3.md); they
are counted in TIL_STORE_WAIT (R140). The model's own choices it rests on: notes/assumptions/3.md,
notes/assumptions/9.md, notes/assumptions/12.md and notes/assumptions/16.md. -/
def Obligations.FetchInstructions : Prop :=
  ∀ (s : State) (i : Issue),
    Acts s .fet 8 i false (loadUnit i.enc) always
        (fun c t fl => startFetch c t fl (gp t .fet (encA i.enc))
          (splitTx 20 (gp t .fet (encA i.enc)) (effAddr t .fet i.enc (encB i.enc)).toNat (fetLen t i.enc)) none 0)
        (exec (.fetLoad i) s)
    ∧ Acts s .fet 9 i false (loadsUnit i.enc) always
        (fun c t fl => startFetch c t fl (gp t .fet (encA i.enc))
          ((loadsRows t i.enc).flatMap fun r => splitTx 20 r.1 r.2.1.toNat r.2.2) none 0) (exec (.fetLoads i) s)
    ∧ Acts s .fet 10 i false (copyUnit i.enc) always
        (fun c t fl =>
          let t1 := swrite t (effAddr t .fet i.enc (encB i.enc)).toNat (sread t (gp t .fet (encA i.enc)).toNat (fetLen t i.enc))
          changes (fetLen t i.enc / 32 + 1 + storeWaits c t1) (fun _ _ => waited c t1) c t fl) (exec (.fetCopy i) s)
    ∧ Acts s .fet 11 i false (zeroUnit i.enc) always
        (fun c t fl =>
          let t1 := swrite t (effAddr t .fet i.enc (encB i.enc)).toNat (List.replicate (fetLen t i.enc) 0)
          changes (fetLen t i.enc / 32 + 1 + storeWaits c t1) (fun _ _ => waited c t1) c t fl) (exec (.fetZero i) s)
    ∧ ∀ site k, Issues s .fet 12 i false (bankwUnit i.enc) site k →
        let t := issued (found s i site k) .fet i.enc k
        let fl := flight (found s i site k) .fet 12 i.enc k
        let b := encX i.enc 24
        bankBusy t b k = false → (bankOf t b).st ≠ .writing →
        ∃ s' s'', exec (.fetBankw i) s = .next s''
          ∧ s'' = discardSight s' i.tile (tileAt s i.tile.stack.toNat site)
          ∧ (sightReads s' i.tile.stack.toNat site = none → s'' = s')
          ∧ Ran s s' i.tile site k
              (bankTokens (startFetch { reachCtx s i with now := k }
                (setBank t b { bankOf t b with st := .writing, fmt := 0 }) fl
                (effAddr t .fet i.enc (encA i.enc))
                (splitTx 20 (effAddr t .fet i.enc (encA i.enc)) 0 (32 * bankwBeats t i.enc)) (some b)
                (bankwBeats t i.enc)).1 k)
              (startFetch { reachCtx s i with now := k }
                (setBank t b { bankOf t b with st := .writing, fmt := 0 }) fl
                (effAddr t .fet i.enc (encA i.enc))
                (splitTx 20 (effAddr t .fet i.enc (encA i.enc)) 0 (32 * bankwBeats t i.enc)) (some b)
                (bankwBeats t i.enc)).2

/-! ### Array -/

namespace Sys2Proof.Claims

/-- What an array instruction leaves alone in its tile: the store, the accumulators and sets, the retry and recompute
queues, the token queues, the remote operations, the fetches and the completion groups. -/
def ArrayKeeps (t t' : Tile) : Prop :=
  t'.store = t.store ∧ t'.acc = t.acc ∧ t'.sets = t.sets ∧ t'.retryQ = t.retryQ ∧ t'.recompQ = t.recompQ ∧
    t'.queues = t.queues ∧ t'.sigs = t.sigs ∧ t'.turns = t.turns ∧ t'.fetches = t.fetches ∧ t'.groups = t.groups ∧
    t'.stopped = t.stopped ∧ t'.bounded = t.bounded ∧ t'.pltFree = t.pltFree ∧ t'.pipeFree = t.pipeFree

/-- ADV (R161): with X[26], GP[A] and GP[B] of the array engine have moved on by EADV and TADV; every other register of
the tile's engines is as it was. -/
def Advanced (n : Enc) (t t' : Tile) : Prop :=
  ∀ e m, gp t' e m = gp (if encX n 26 then
      setGp (setGp t .arr (encA n) (gp t .arr (encA n) + gp t .arr 34)) .arr (encB n)
        (gp (setGp t .arr (encA n) (gp t .arr (encA n) + gp t .arr 34)) .arr (encB n)
          + gp (setGp t .arr (encA n) (gp t .arr (encA n) + gp t .arr 34)) .arr 35)
    else t) e m

end Sys2Proof.Claims

/-- R68, R72, R74 to R76, R161: ARR.MVM on a tile that is not demoted, outside dog slots, with an ACTIVE bank. With d
driven planes the array is busy for 3·max(d, 1) tile cycles from issue, the bank until k + 10 + 3d; the partials reach
stage 1 at k + 12 + 3d, a failed segment-plane of plane position p enters the retry queue at k + 13 + 3p, and the
instruction retires at k + 19 + 3d; PLANES and SKIPPED count the planes; the addresses advance as ADV says. The
model's own choices it rests on: notes/assumptions/12.md, notes/assumptions/14.md, notes/assumptions/90.md and
notes/assumptions/98.md. -/
def Obligations.ArrMvmConverts : Prop :=
  ∀ (s : State) (i : Issue) (lv : List Level) (site k : Nat), Issues s .arr 8 i true (mvmUnit i.enc lv) site k →
    let t := issued (found s i site k) .arr i.enc k
    let fl := flight (found s i site k) .arr 8 i.enc k
    let segs := (mvmSegs i.enc).map (readSeg t i.enc)
    let planes := drivenPlanes (mvmPlanes i.enc) segs
    let d := planes.length
    ∀ b, activeBank t = some b → t.demoted = false →
      inDog { reachCtx s i with now := k } (k + 2) (k + 2 + 3 * d) = false →
      let o := convertPlanes ⟨b, steering t, bankOf t b, t.bounded, mvmPlanes i.enc, encX i.enc 27, encC i.enc, fl.pc⟩ lv segs planes 0
        ⟨segs.map fun _ => [], 0, 0, 0, [], t.rho, []⟩
      ∃ s' t', exec (.arrMvm i lv) s = .next s' ∧ Ran s s' i.tile site k (bankTokens t' k) []
        ∧ t'.arrFree = k + 3 * max d 1 ∧ t'.rho = o.rho
        ∧ ⟨k + 12 + 3 * d, .stage1 (mvmJob (bankOf t b) i.enc segs o.parts fl)⟩ ∈ t'.due
        ∧ (∀ q ∈ o.entries, ⟨k + 13 + 3 * q.1, .retryIn q.2⟩ ∈ t'.due)
        ∧ ⟨k + 19 + 3 * d, .retire fl⟩ ∈ t'.due ∧ (∀ x ∈ t.due, x ∈ t'.due)
        ∧ (bankOf t' b).busyUntil = max (bankOf t b).busyUntil (k + 10 + 3 * d) ∧ (bankOf t' b).st = .active
        ∧ bankOf t' (!b) = bankOf t (!b)
        ∧ tget t' TIL_ARR_PLANES = (tget t TIL_ARR_PLANES + d) % 2 ^ 32
        ∧ tget t' TIL_ARR_SKIPPED = (tget t TIL_ARR_SKIPPED + (mvmPlanes i.enc - d)) % 2 ^ 32
        ∧ Advanced i.enc t t' ∧ ArrayKeeps t t'

/-- R96, R195: on a demoted tile an ARR.MVM runs in the exact lane, 16 array cycles a plane, and the array stays idle; no
plane is skipped, and nothing enters the retry queue. -/
def Sys2Proof.Claims.ArrMvmDemoted : Prop :=
  ∀ (s : State) (i : Issue) (lv : List Level) (site k : Nat), Issues s .arr 8 i true (mvmUnit i.enc lv) site k →
    let t := issued (found s i site k) .arr i.enc k
    let fl := flight (found s i site k) .arr 8 i.enc k
    let segs := (mvmSegs i.enc).map (readSeg t i.enc)
    let n := 48 * mvmPlanes i.enc
    ∀ b, activeBank t = some b → t.demoted = true →
      ∃ s' t', exec (.arrMvm i lv) s = .next s' ∧ Ran s s' i.tile site k (bankTokens t' k) []
        ∧ t'.arrFree = t.arrFree ∧ t'.laneFree = k + n
        ∧ ⟨k + 12 + n, .stage1 (mvmJob (bankOf t b) i.enc segs
            (segs.map (exactPartials (bankOf t b) (mvmPlanes i.enc))) fl)⟩ ∈ t'.due
        ∧ ⟨k + 19 + n, .retire fl⟩ ∈ t'.due ∧ (∀ x ∈ t.due, x ∈ t'.due)
        ∧ (bankOf t' b).busyUntil = max (bankOf t b).busyUntil (k + 19 + n) ∧ t'.regs = t.regs
        ∧ Advanced i.enc t t' ∧ ArrayKeeps t t'

/-- R77, R78, R184: ARR.RETRY takes the oldest retry entry, if any, counts it, adds its conversions to the tile's tally, and
delivers its re-conversion 15 tile cycles after issue; it retires then in either case, and the array is free after one conversion's three cycles. A demoted tile
re-converts nothing (R96, notes/assumptions/70.md). R86: ARR.BANK
makes a READY bank ACTIVE, and the bank that was ACTIVE READY; an ACTIVE bank it leaves so. R67: ARR.MODE takes the
mode of later conversions from X[24]. -/
def Sys2Proof.Claims.ArrRetryBankMode : Prop :=
  ∀ (s : State) (i : Issue) (lv : List Level),
    Acts s .arr 9 i true (retryUnit lv)
        (fun c t fl => t.demoted = true ∨ (inDog c (fl.issued + 2) (fl.issued + 5) = false ∧ t.retryQ = []))
        (changes 15 fun fl t => { t with arrFree := fl.issued + 3 }) (exec (.arrRetry i lv) s)
    ∧ (∀ x q, Acts s .arr 9 i true (retryUnit lv)
        (fun c t fl => t.demoted = false ∧ inDog c (fl.issued + 2) (fl.issued + 5) = false ∧ t.retryQ = x :: q)
        (changes 15 fun fl t => later (tbump { t with
            arrFree := fl.issued + 3
            retryQ := q
            tally := addTallies t.tally (retryTally (steering t) (bankOf t x.bank) lv x) } TIL_ARR_RETRIES)
          (fl.issued + 15) (.retryDone x (reconvert (steering t) (bankOf t x.bank) lv x) fl.pc)) (exec (.arrRetry i lv) s))
    ∧ Acts s .arr 10 i false (bankUnit i.enc)
        (fun _ t _ => t.stopped = false ∧ (bankOf t (encX i.enc 24)).st = .active)
        (changes 1 fun _ t => t) (exec (.arrBank i) s)
    ∧ Acts s .arr 10 i false (bankUnit i.enc)
        (fun _ t _ => t.stopped = false ∧ (bankOf t (encX i.enc 24)).st = .ready)
        (changes 1 fun _ t =>
          let t1 := setBank t (encX i.enc 24) { bankOf t (encX i.enc 24) with st := .active }
          if (bankOf t (!encX i.enc 24)).st = .active then
            setBank t1 (!encX i.enc 24) { bankOf t (!encX i.enc 24) with st := .ready } else t1) (exec (.arrBank i) s)
    ∧ Acts s .arr 11 i false (modeUnit i.enc) always
        (changes 1 fun _ t => { t with bounded := encX i.enc 24 }) (exec (.arrMode i) s)

/-- ARR.MVM on a demoted tile, ARR.RETRY, ARR.BANK and ARR.MODE (R67, R77, R78, R86, R96). The model's own choices it
rests on: notes/assumptions/14.md, notes/assumptions/22.md, notes/assumptions/69.md and notes/assumptions/70.md. -/
def Obligations.ArrDemotedRetryBankMode : Prop :=
  Sys2Proof.Claims.ArrMvmDemoted ∧ Sys2Proof.Claims.ArrRetryBankMode

/-! ### Side -/

namespace Sys2Proof.Claims

/-- The tile once a SID.DRAIN, job `j` of flight `fl`, has its set and its share of the pipeline, with its effect, the end
of its passes and the end of its operands' watch to come; the set's retry entries are in the recompute queue (R109,
R118, R119, R127). -/
def drainTaken (c : Ctx) (t : Tile) (j : DrainJob) (fl : Flight) : Tile :=
  let opens := fl.issued + 6 + drainCycles j
  let t1 := putSet t j.set { setOf t j.set with drainAt := fl.issued + 1, effectAt := fl.issued + 6, openAt := opens }
  let t2 := if j.raw then t1 else
    later (later (addWatch { t1 with pipeFree := opens } c.me j.watch false (drainOperands j)) opens (.drained j))
      (opens + 10) (.endWatch j.watch [])
  later (passEntries t2 j.set fl.pc) (fl.issued + 6) (.drain j)

/-- The row that the second pass of a SID.EMIT puts through the pipeline (R127): INT32 values times their scales, or long
values as they are, an overflowed one flagged. -/
def emitRow (t : Tile) (j : EmitJob) (now : Nat) : Tile :=
  let n := emitN j.desc
  if emitInt32 j.desc then
    let codes := (sread t (emitWSA j.desc) n).map fun b => b.toNat
    let ys := scaleRow ((List.range n).map fun q => signed 32 (snat t (j.src + 4 * q) 4)) (some (emitSA j.desc)) codes
    pipeRow (if codes.any e4m3Nan then { t with wnan := true } else t) j.watch j.dcfg j.places (emitOperands j) ys.1 false
      ys.2 false false now
  else
    pipeRow t j.watch j.dcfg j.places (emitOperands j) ((List.range n).map fun q => longOf (sread t (j.src + 16 * q) 16)) true
      false false ((List.range n).any fun q => longOvf (sread t (j.src + 16 * q) 16)) now

end Sys2Proof.Claims

/-- R115: SID.MODE gives a set that holds no contribution the accumulator format of X[24]. R107: SID.RECOMP takes the
oldest recompute entry into the exact lane for 12 cycles and delivers after 13; with an empty queue the lane stays
free. R118, R119, R126: SID.DRAIN of a set that is open, with the pipeline free or raw, takes effect 6 cycles after
issue, and each row then follows at the end of its own passes, or raw at 8 lanes a cycle; the set opens, and the
pipeline is free, after the last row's; the retry entries of the set pass to the recompute queue at once (R109). R127:
SID.EMIT puts N values of the store through the pipeline into one row, at the end of its second pass. The model's own
choices it rests on: notes/assumptions/9.md, notes/assumptions/22.md, notes/assumptions/92.md, notes/assumptions/93.md
and notes/assumptions/94.md. -/
def Obligations.SideInstructions : Prop :=
  (∀ (s : State) (i : Issue),
    Acts s .sid 8 i false (sidModeUnit i.enc)
        (fun _ t _ => ∀ r, r < 16 → (rowOf t (encX i.enc 25) r).touched = false)
        (changes 1 fun _ t => putSet t (encX i.enc 25) { setOf t (encX i.enc 25) with long := encX i.enc 24 })
        (exec (.sidMode i) s)
    ∧ Acts s .sid 9 i false recompUnit (fun _ t _ => t.recompQ = []) (changes 13 fun _ t => t) (exec (.sidRecomp i) s)
    ∧ (∀ x q, Acts s .sid 9 i false recompUnit (fun _ t _ => t.recompQ = x :: q)
        (changes 13 fun fl t => later { t with recompQ := q, laneFree := fl.issued + 12 } (fl.issued + 13)
          (.recompDone x (recompute (bankOf t x.bank) x) fl.pc)) (exec (.sidRecomp i) s))
    ∧ Acts s .sid 10 i false (drainUnit i.enc)
        (fun c t fl => draining t (encX i.enc 28) c.now = false ∧ (encX i.enc 27 = true ∨ t.pipeFree ≤ c.now)
          ∧ (drainTaken c t (drainJob t i.enc (watchId fl) fl.pc) fl).stopped = false)
        (fun c t fl => changes (6 + drainCycles (drainJob t i.enc (watchId fl) fl.pc) + if encX i.enc 27 then 0 else 10)
          (fun fl t => drainTaken c t (drainJob t i.enc (watchId fl) fl.pc) fl) c t fl)
        (exec (.sidDrain i) s)
    ∧ Acts s .sid 11 i false (emitUnit i.enc) (fun c t _ => t.pipeFree ≤ c.now)
        (fun c t fl =>
          let j := emitJob t i.enc (watchId fl)
          let ends := fl.issued + 2 * ceilDiv (emitN j.desc) 8
          changes (2 * ceilDiv (emitN j.desc) 8 + 10)
            (fun _ t => later (later (addWatch { t with pipeFree := ends } c.me j.watch false (emitRanges j)) ends (.emitRow j))
              (ends + 10) (.endWatch j.watch [])) c t fl)
        (exec (.sidEmit i) s))
  ∧ (∀ (t : Tile) (j : DrainJob) (now : Nat), entriesLeft t j.set = false →
      ∀ q ∈ (dcfgRows j.dcfg).zipIdx,
        (j.raw = false → ⟨now + (q.2 + 1) * drainRowCycles j, .drainRow j q.1⟩ ∈ (applyEffect t now (.drain j)).due)
        ∧ (j.raw = true → ∀ i, i < drainRowCycles j →
            ⟨now + q.2 * drainRowCycles j + i + 1, .rawRow j q.1 i⟩ ∈ (applyEffect t now (.drain j)).due))
  ∧ (∀ (t : Tile) (j : EmitJob) (now : Nat), applyEffect t now (.emitRow j) = emitRow t j now)

/-! ### Plot -/

/-- R52 to R55, R165, R166: NORM converts each row with fresh block scales; SCORE writes the raw cells and the flag word;
SOFTMAX writes the normalised cells in place; VPROD adds the weighted values into its containers; TOPK and SORT write
the chosen or ordered entries. Each retires after the cycles that its shape register fixes and the local-port waits
(R167), the vector unit is free from the next cycle, and until it retires a write of its operands or results by anything
else leaves its results undefined (R165). -/
def Sys2Proof.Claims.PlotNumbers : Prop :=
  ∀ (s : State) (i : Issue),
    Acts s .plt 8 i false (normUnit i.enc) always
        (fun c t fl => (pltDone c ((List.range (normRows (shape t i.enc))).foldl (fun t r => normOne t i.enc r) t) fl
          (normRows (shape t i.enc) * (3 * ceilDiv (count14 (shape t i.enc)) 32) + 20)
            (normReads t i.enc) (normWrites t i.enc), [])) (exec (.pltNorm i) s)
    ∧ Acts s .plt 9 i false (scoreUnit i.enc) always
        (fun c t fl => (pltDone c (orFlags (swrite t (pltC t i.enc).toNat
              ((scoreCells t i.enc).1.flatMap fun x => leBytes 4 (unsigned 32 x.1)))
            (pflag t).toNat (scoreCells t i.enc).2 ((scoreCells t i.enc).1.any fun x => x.2)) fl
          (if scoreCsrc (shape t i.enc) then ceilDiv (count14 (shape t i.enc)) 8 + 24
            else ceilDiv (count14 (shape t i.enc) * headDim (shape t i.enc)) 256 + 24)
            (scoreReads t i.enc) [((pltC t i.enc).toNat, 4 * count14 (shape t i.enc)), ((pflag t).toNat, 4)], [])) (exec (.pltScore i) s)
    ∧ Acts s .plt 10 i false (softmaxUnit i.enc) always
        (fun c t fl => (pltDone c (swrite t (pltA t i.enc).toNat
            ((softmaxCells ((List.range (count14 (shape t i.enc))).map (cellS t (pltA t i.enc).toNat))
              ((List.range (count14 (shape t i.enc))).map fun j =>
                bitOf (shape t i.enc) 14 && maskBit t (pltB t i.enc).toNat j)).flatMap (leBytes 4))) fl
          (3 * ceilDiv (count14 (shape t i.enc)) 16 + 30)
            (if bitOf (shape t i.enc) 14 then [((pltB t i.enc).toNat, ceilDiv (count14 (shape t i.enc)) 8)] else []) [((pltA t i.enc).toNat, 4 * count14 (shape t i.enc))], [])) (exec (.pltSoftmax i) s)
    ∧ Acts s .plt 11 i false (vprodUnit i.enc) always
        (fun c t fl => (pltDone c (orFlags (swrite t (pltC t i.enc).toNat (vprodBytes t i.enc)) (pflag t).toNat
            (headRefused (shape t i.enc) || (List.range (count14 (shape t i.enc))).any fun j =>
              (headBlock t (shape t i.enc) (pltB t i.enc).toNat (count14 (shape t i.enc)) j).2) false) fl
          (ceilDiv (count14 (shape t i.enc) * headDim (shape t i.enc)) 256 + 24)
            [((pltA t i.enc).toNat, 4 * count14 (shape t i.enc)), ((pltB t i.enc).toNat, count14 (shape t i.enc) * blockBytes (headWide (shape t i.enc)) + 2 * count14 (shape t i.enc))]
            [((pltC t i.enc).toNat, 16 * headDim (shape t i.enc)), ((pflag t).toNat, 4)], [])) (exec (.pltVprod i) s)
    ∧ Acts s .plt 12 i false (topkUnit i.enc) always
        (fun c t fl => (pltDone c (swrite t (pltB t i.enc).toNat
            ((topkEntries ((List.range (count14 (shape t i.enc))).map (cellS t (pltA t i.enc).toNat))
              (topkK (shape t i.enc))).flatMap fun q => leBytes 4 q.1 ++ leBytes 4 q.2)) fl
          (ceilDiv (count14 (shape t i.enc)) 16 + 4 * topkK (shape t i.enc) + 20)
            [((pltA t i.enc).toNat, 4 * count14 (shape t i.enc))] [((pltB t i.enc).toNat, 8 * topkK (shape t i.enc))], [])) (exec (.pltTopk i) s)
    ∧ Acts s .plt 13 i false (sortUnit i.enc) always
        (fun c t fl => (pltDone c (swrite t (pltB t i.enc).toNat
            ((sortEntries (bitOf (shape t i.enc) 13) ((List.range (sortN (shape t i.enc))).map fun j =>
                (cellU t (pltA t i.enc).toNat (2 * j), cellU t (pltA t i.enc).toNat (2 * j + 1)))).flatMap fun q =>
              leBytes 4 q.1 ++ leBytes 4 q.2)) fl
          (ceilDiv (sortN (shape t i.enc)) 16 * (log2Up (sortN (shape t i.enc)) * (log2Up (sortN (shape t i.enc)) + 1) / 2)
            + 20)
            [((pltA t i.enc).toNat, 8 * sortN (shape t i.enc))] [((pltB t i.enc).toNat, 8 * sortN (shape t i.enc))], [])) (exec (.pltSort i) s)

/-- R166: MERGE writes the count and the keys of the ordered union of two ordered key lists, and ISECT those of their
intersection. -/
def Sys2Proof.Claims.PlotSets : Prop :=
  ∀ (s : State) (i : Issue),
    Acts s .plt 14 i false (mergeUnit i.enc)
        (fun _ t _ => ordered ((List.range (setNa (shape t i.enc))).map (cellU t (pltA t i.enc).toNat)) = true ∧
          ordered ((List.range (setNb (shape t i.enc))).map (cellU t (pltB t i.enc).toNat)) = true)
        (fun c t fl =>
          let out := unionKeys ((List.range (setNa (shape t i.enc))).map (cellU t (pltA t i.enc).toNat))
            ((List.range (setNb (shape t i.enc))).map (cellU t (pltB t i.enc).toNat))
          (pltDone c (swrite t (pltC t i.enc).toNat (leBytes 4 out.length ++ out.flatMap (leBytes 4))) fl
            (ceilDiv (setNa (shape t i.enc) + setNb (shape t i.enc)) 4 + 20)
            (setReads t i.enc) [((pltC t i.enc).toNat, 4 + 4 * out.length)], [])) (exec (.pltMerge i) s)
    ∧ Acts s .plt 15 i false (isectUnit i.enc)
        (fun _ t _ => ordered ((List.range (setNa (shape t i.enc))).map (cellU t (pltA t i.enc).toNat)) = true ∧
          ordered ((List.range (setNb (shape t i.enc))).map (cellU t (pltB t i.enc).toNat)) = true)
        (fun c t fl =>
          let out := isectKeys ((List.range (setNa (shape t i.enc))).map (cellU t (pltA t i.enc).toNat))
            ((List.range (setNb (shape t i.enc))).map (cellU t (pltB t i.enc).toNat))
          (pltDone c (swrite t (pltC t i.enc).toNat (leBytes 4 out.length ++ out.flatMap (leBytes 4))) fl
            (ceilDiv (setNa (shape t i.enc) + setNb (shape t i.enc)) 4 + 20)
            (setReads t i.enc) [((pltC t i.enc).toNat, 4 + 4 * out.length)], [])) (exec (.pltIsect i) s)

/-- The Plot engine's numeric and set instructions (R52 to R55, R165, R166). The model's own choices it rests on:
notes/assumptions/9.md, notes/assumptions/20.md, notes/assumptions/74.md, notes/assumptions/75.md and
notes/assumptions/76.md. -/
def Obligations.PlotNumbersAndSets : Prop :=
  Sys2Proof.Claims.PlotNumbers ∧ Sys2Proof.Claims.PlotSets

/-- R165, R166: GATHER copies the indexed elements together, SCATTER spreads elements to their indexed places in
order, HPROBE writes the values its keys find, RELAX relaxes its edges in order, where every data-dependent address is
one an engine may touch; SAMPLE writes the index its draw selects, or all ones and FORMAT where none is. The model's
own choices it rests on: notes/assumptions/9.md, notes/assumptions/20.md, notes/assumptions/75.md and
notes/assumptions/77.md. -/
def Obligations.PlotAddresses : Prop :=
  ∀ (s : State) (i : Issue),
    Acts s .plt 16 i false (gatherUnit i.enc)
        (fun _ t _ => ∀ a ∈ indexed t (pltA t i.enc) (pltB t i.enc).toNat (count14 (shape t i.enc)) (elemSize (shape t i.enc)),
          storeLegal a (elemSize (shape t i.enc)) = true)
        (fun c t fl => (pltDone c (swrite t (pltC t i.enc).toNat
            ((indexed t (pltA t i.enc) (pltB t i.enc).toNat (count14 (shape t i.enc))
              (elemSize (shape t i.enc))).flatMap fun a => sread t a.toNat (elemSize (shape t i.enc)))) fl
          (count14 (shape t i.enc) * ceilDiv (elemSize (shape t i.enc)) 32 + 12)
            (((pltB t i.enc).toNat, 4 * count14 (shape t i.enc)) ::
              (indexed t (pltA t i.enc) (pltB t i.enc).toNat (count14 (shape t i.enc)) (elemSize (shape t i.enc))).map fun a => (a.toNat, elemSize (shape t i.enc)))
            [((pltC t i.enc).toNat, count14 (shape t i.enc) * elemSize (shape t i.enc))], [])) (exec (.pltGather i) s)
    ∧ Acts s .plt 17 i false (scatterUnit i.enc)
        (fun _ t _ => ∀ a ∈ indexed t (pltC t i.enc) (pltB t i.enc).toNat (count14 (shape t i.enc)) (elemSize (shape t i.enc)),
          storeLegal a (elemSize (shape t i.enc)) = true)
        (fun c t fl =>
          let e := elemSize (shape t i.enc)
          let addrs := indexed t (pltC t i.enc) (pltB t i.enc).toNat (count14 (shape t i.enc)) e
          let src := sread t (pltA t i.enc).toNat (count14 (shape t i.enc) * e)
          (pltDone c ((List.range (count14 (shape t i.enc))).foldl (fun t j =>
              swrite t (addrs.getD j 0).toNat ((src.drop (j * e)).take e)) t) fl
            (count14 (shape t i.enc) * ceilDiv e 32 + 12)
            [((pltA t i.enc).toNat, count14 (shape t i.enc) * e), ((pltB t i.enc).toNat, 4 * count14 (shape t i.enc))] (addrs.map fun a => (a.toNat, e)), [])) (exec (.pltScatter i) s)
    ∧ Acts s .plt 18 i false (hprobeUnit i.enc) always
        (fun c t fl => (pltDone c (swrite t (pltC t i.enc).toNat
            (((List.range (count14 (shape t i.enc))).map fun j =>
              hprobe t (pltB t i.enc).toNat (probeK (shape t i.enc)) (probeLmax (shape t i.enc))
                (BitVec.ofNat 64 (snat t ((pltA t i.enc).toNat + 8 * j) 8))).flatMap (leBytes 8))) fl
          (count14 (shape t i.enc) * probeLmax (shape t i.enc) + 12)
            [((pltA t i.enc).toNat, 8 * count14 (shape t i.enc)), ((pltB t i.enc).toNat, 16 * 2 ^ probeK (shape t i.enc))] [((pltC t i.enc).toNat, 8 * count14 (shape t i.enc))], [])) (exec (.pltHprobe i) s)
    ∧ Acts s .plt 19 i false (relaxUnit i.enc)
        (fun _ t _ => ∀ j, j < count14 (shape t i.enc) → ∀ a ∈ relaxAddrs t i.enc j, storeLegal a 4 = true)
        (fun c t fl => (pltDone c ((List.range (count14 (shape t i.enc))).foldl (fun t j => relaxEdge t i.enc j) t) fl
          (count14 (shape t i.enc) + 20)
            (((pltA t i.enc).toNat, 16 * count14 (shape t i.enc)) ::
              (List.range (count14 (shape t i.enc))).flatMap fun j => ((relaxAddrs t i.enc j).take 1).map fun a => (a.toNat, 4))
            ((List.range (count14 (shape t i.enc))).flatMap fun j => ((relaxAddrs t i.enc j).drop 1).map fun a => (a.toNat, 4)), [])) (exec (.pltRelax i) s)
    ∧ Acts s .plt 20 i false (sampleUnit i.enc) always
        (fun c t fl =>
          let p := (List.range (count14 (shape t i.enc))).map fun j => cellU t (pltA t i.enc).toNat j % 65536
          let z := mix64 (BitVec.ofNat 64 (snat t (pltC t i.enc).toNat 8))
            (BitVec.ofNat 64 (snat t ((pltC t i.enc).toNat + 8) 8))
          (pltDone c (match sampleIndex p 0 0 ((z >>> 49).toNat * p.foldl (· + ·) 0 / 32768) with
            | some j => swrite t (pltB t i.enc).toNat (leBytes 4 j)
            | none => orFlags (swrite t (pltB t i.enc).toNat (leBytes 4 0xFFFFFFFF)) (pflag t).toNat true false) fl
            (2 * ceilDiv (count14 (shape t i.enc)) 16 + 30)
            [((pltA t i.enc).toNat, 4 * count14 (shape t i.enc)), ((pltC t i.enc).toNat, 16)] [((pltB t i.enc).toNat, 4), ((pflag t).toNat, 4)], [])) (exec (.pltSample i) s)

/-! ### Signal -/

namespace Sys2Proof.Claims

/-- What the issue of a remote operation leaves (R168, R169, R171, R329): tag `k`, the lowest free one of Signal's, with its
next TURN, holds the operation; one more operation is in flight in its group; the instruction retires once the router has
accepted its packets, one for each piece; and the rest of the tile is as it was. -/
structure Sent (c : Ctx) (t : Tile) (fl : Flight) (n : Enc) (op : PktOp) (localA len : Nat) (ps : List Piece)
    (k : Nat) (t' : Tile) (pk : List Packet) : Prop where
  packets : pk = ps.map fun q => ⟨op, q.dest, .tile c.module c.me, BitVec.ofNat 5 k, BitVec.ofNat 4 ((turnOf t k + 1) % 16), q.len,
    q.data, .ok, false, q.targets, false, none, false⟩
  sigs : t'.sigs = t.sigs ++
    [⟨BitVec.ofNat 5 k, sigGroup n, op, localA, len, ps.flatMap fun q => q.targets.map fun r => r.1, [], false⟩]
  group : groupOf t' (sigGroup n) = { groupOf t (sigGroup n) with count := (groupOf t (sigGroup n)).count + 1 }
  turn : turnOf t' k = (turnOf t k + 1) % 16 ∧ ∀ k2, k2 ≠ k → turnOf t' k2 = turnOf t k2
  retires : ⟨fl.issued + (1 + Config.acceptCycles c.me.stack.toNat c.me.tile.toNat t.free), .retire fl⟩ ∈ t'.due ∧
    ∀ x ∈ t.due, x ∈ t'.due
  rest : t' = { t with sigs := t'.sigs, groups := t'.groups, turns := t'.turns, due := t'.due, free := t'.free }

/-- The instruction, where it issues and `ok` holds, answers a next state in which it has sent the operation that `ps`
gives, with the lowest free Signal tag. -/
def SendsOp (s : State) (op : Nat) (i : Issue) (u : OpUnit) (ok : Tile → Prop) (o : PktOp) (localA len : Tile → Nat)
    (ps : Tile → List Piece) (out : Host.Outcome State Fault Refusal) : Prop :=
  ∀ site k, Issues s .sig op i false u site k →
    let t := issued (found s i site k) .sig i.enc k
    ok t → ∃ s' t' pk tag, out = .next s' ∧ sigTag (found s i site k) = some tag
      ∧ Ran s s' i.tile site k (bankTokens t' k) pk
      ∧ Sent { reachCtx s i with now := k } t (flight (found s i site k) .sig op i.enc k) i.enc o (localA t) (len t) (ps t)
        tag t' pk

end Sys2Proof.Claims

/-- R168, R169, R304, R329: PUT, GET, ADD32, ADD64, LADD, CAS64, MPUT and ARRIVE each take the lowest free Signal tag
with its next TURN, count one more operation in flight in their group, and send their packets: one packet, or one flit
for each 224 bytes of operands of a reduction. An MPUT's list names 1 to 16 aligned targets. Each answers a next state
wherever it issues. The model's own choices it rests on: notes/assumptions/12.md and notes/assumptions/16.md. -/
def Obligations.SignalOperations : Prop :=
  ∀ (s : State) (i : Issue),
    SendsOp s 8 i (putUnit i.enc) (fun _ => True) .put (fun _ => 0) (fun t => sigC t i.enc)
        (fun t => [⟨gp t .sig (encA i.enc), sigC t i.enc,
          sread t (effAddr t .sig i.enc (encB i.enc)).toNat (sigC t i.enc), []⟩]) (exec (.sigPut i) s)
    ∧ SendsOp s 9 i (getUnit i.enc) (fun _ => True) .get (fun t => (effAddr t .sig i.enc (encB i.enc)).toNat)
        (fun t => sigC t i.enc) (fun t => [⟨gp t .sig (encA i.enc), sigC t i.enc, [], []⟩]) (exec (.sigGet i) s)
    ∧ SendsOp s 10 i (addUnit i.enc .add32 4 1024) (fun _ => True) .add32 (fun _ => 0) (fun t => sigC t i.enc)
        (fun t => reductionFlits (gp t .sig (encA i.enc)) 4
          (sread t (effAddr t .sig i.enc (encB i.enc)).toNat (4 * sigC t i.enc))) (exec (.sigAdd32 i) s)
    ∧ SendsOp s 11 i (addUnit i.enc .add64 8 512) (fun _ => True) .add64 (fun _ => 0) (fun t => sigC t i.enc)
        (fun t => reductionFlits (gp t .sig (encA i.enc)) 8
          (sread t (effAddr t .sig i.enc (encB i.enc)).toNat (8 * sigC t i.enc))) (exec (.sigAdd64 i) s)
    ∧ SendsOp s 12 i (addUnit i.enc .ladd 16 256) (fun _ => True) .ladd (fun _ => 0) (fun t => sigC t i.enc)
        (fun t => reductionFlits (gp t .sig (encA i.enc)) 16
          (sread t (effAddr t .sig i.enc (encB i.enc)).toNat (16 * sigC t i.enc))) (exec (.sigLadd i) s)
    ∧ SendsOp s 13 i (casUnit i.enc) (fun _ => True) .cas64 (fun t => (effAddr t .sig i.enc (encB i.enc)).toNat + 16)
        (fun _ => 8) (fun t => [⟨gp t .sig (encA i.enc), 8, sread t (effAddr t .sig i.enc (encB i.enc)).toNat 16, []⟩])
        (exec (.sigCas64 i) s)
    ∧ SendsOp s 14 i (mputUnit i.enc)
        (fun t => 1 ≤ listN t i.enc ∧ listN t i.enc ≤ 16 ∧ (∀ j, j < listN t i.enc → (listTarget t i.enc j).toNat % 32 = 0)
          ∧ (listAddr t i.enc).toNat % 8 = 0 ∧ storeLegal (listAddr t i.enc) (16 + 8 * listN t i.enc) = true)
        .mput (fun t => (listAddr t i.enc).toNat + 8 + 8 * listN t i.enc) (fun t => sigC t i.enc)
        (fun t => [⟨0, sigC t i.enc, sread t (effAddr t .sig i.enc (encB i.enc)).toNat (sigC t i.enc),
          (List.range (listN t i.enc)).map fun j => (j, listTarget t i.enc j)⟩]) (exec (.sigMput i) s)
    ∧ SendsOp s 15 i (arriveUnit i.enc) (fun _ => True) .arrive (fun _ => 0) (fun _ => 0)
        (fun t => [⟨gp t .sig (encA i.enc), 0, leBytes 2 (sigC t i.enc), []⟩]) (exec (.sigArrive i) s)

/-- R171: WAITG, whose group has nothing in flight, writes the group's status word and clears the group, and sets CLIPPED
in the flag word when X[26] is 1 and an operation saturated. R174: WAITWP, whose counter has COUNT ≥ EXPECT, takes
EXPECT from COUNT, writes VMAX and clears it; WPINIT sets COUNT := 0, EXPECT and VMAX := 0. -/
def Obligations.SignalWaits : Prop :=
  ∀ (s : State) (i : Issue),
    Acts s .sig 16 i false (waitgUnit i.enc) always
        (changes 1 fun _ t =>
          let g := groupOf t (sigGroup i.enc)
          let t1 := putGroup (swrite t (gp t .sig (encC i.enc)).toNat (leBytes 4 (groupWord g))) (sigGroup i.enc)
            { Group.clear with count := g.count }
          if encX i.enc 26 && g.sat then orFlags t1 (gp t .sig (encB i.enc)).toNat false true else t1)
        (exec (.sigWaitg i) s)
    ∧ Acts s .sig 17 i false (waitwpUnit i.enc) always
        (changes 1 fun _ t =>
          let a := (effAddr t .sig i.enc (encA i.enc)).toNat
          swrite (swrite (swrite t a (leBytes 4 (wpCount t a - wpExpect t a)))
            (gp t .sig (encB i.enc)).toNat (leBytes 4 (wpVmax t a))) (a + 8) (leBytes 2 0)) (exec (.sigWaitwp i) s)
    ∧ Acts s .sig 18 i false (wpinitUnit i.enc) always
        (changes 1 fun _ t => swrite t (effAddr t .sig i.enc (encA i.enc)).toNat
          (leBytes 4 0 ++ leBytes 4 (sigC t i.enc) ++ leBytes 2 0)) (exec (.sigWpinit i) s)

/-! ### What a command leaves alone -/

namespace Sys2Proof.Claims

/-- The parts of the machine: the fields of its state. -/
inductive Component
  | cyc | slot0 | tick | tfrac | regs | tiles | dram | net | reports | free | stk | vil | fleet | chr | serve | img | log
  | pwr | rst | bnc | snd | lsr | tap | answers | pending
deriving DecidableEq, Repr

/-- The part is in `t` as it is in `s`. -/
def Component.same (s t : State) : Component → Prop
  | .cyc => t.cyc = s.cyc
  | .slot0 => t.slot0 = s.slot0
  | .tick => t.tick = s.tick
  | .tfrac => t.tfrac = s.tfrac
  | .regs => t.regs = s.regs
  | .tiles => t.tiles = s.tiles
  | .dram => t.dram = s.dram
  | .net => t.net = s.net
  | .reports => t.reports = s.reports
  | .free => t.free = s.free
  | .stk => t.stk = s.stk
  | .vil => t.vil = s.vil
  | .fleet => t.fleet = s.fleet
  | .chr => t.chr = s.chr
  | .serve => t.serve = s.serve
  | .img => t.img = s.img
  | .log => t.log = s.log
  | .pwr => t.pwr = s.pwr
  | .rst => t.rst = s.rst
  | .bnc => t.bnc = s.bnc
  | .snd => t.snd = s.snd
  | .lsr => t.lsr = s.lsr
  | .tap => t.tap = s.tap
  | .answers => t.answers = s.answers
  | .pending => t.pending = s.pending

/-- Every part of `s` that is not listed is in `t` as it is in `s`. -/
def changesOnly (ps : List Component) (s t : State) : Prop := ∀ p, p ∉ ps → p.same s t

/-- Every register of the control region but those listed, by stack and offset, is in `t` as it is in `s`. -/
def regsBut (l : List (Nat × Nat)) (s t : State) : Prop :=
  ∀ k off, (∀ q ∈ l, regKey k off ≠ regKey q.1 q.2) → rword t k off = rword s k off

end Sys2Proof.Claims

/-! ### Tile events and control bits -/

/-- R133: at its static slot the engine's instruction `w` issues and has its opcode's effect; the one further change is
that of Sextant's results, where a bank write starts on a bank that it reads for a sight (R188). -/
def Obligations.StaticSlotIssues : Prop :=
  ∀ (s : State) (e : Engine) (r : TileRef) (dt : Nat) (w : Dword) (lv : List Level) (site k : Nat),
    Issues s e (wordOp w) ⟨r, dt, wordEnc w⟩ (e == .arr && (wordOp w == 8 || wordOp w == 9))
      (unitOf e (wordOp w) (wordEnc w) lv) site k →
    let t := issued (found s ⟨r, dt, wordEnc w⟩ site k) e (wordEnc w) k
    let fl := flight (found s ⟨r, dt, wordEnc w⟩ site k) e (wordOp w) (wordEnc w) k
    let o := (unitOf e (wordOp w) (wordEnc w) lv).run { reachCtx s ⟨r, dt, wordEnc w⟩ with now := k } t fl
    ∃ s' s'', exec (.staticIssueSlot e r dt w lv) s = .next s''
      ∧ s'' = discardSight s' r (tileAt s r.stack.toNat site) ∧ (sightReads s' r.stack.toNat site = none → s'' = s')
      ∧ Ran s s' r site k (bankTokens o.1 k) o.2

/-- R143, R145: an instruction in flight beyond its class's limit (the first of the engine whose limit ends) faults
its tile with WDOG, its own retirement withheld. R144, R145: an engine that has held an instruction unissued for
76,800 tile cycles faults its tile with STALL. The fault stands in the cycle in which the count exceeds the limit. The
model's own choices it rests on: notes/assumptions/19.md. -/
def Obligations.WatchdogAndStall : Prop :=
  ∀ (s : State) (e : Engine) (r : TileRef) (site : Nat), siteOf s r.stack.toNat r.tile.toNat = some site →
    let t := settleBefore s.cyc (tileAt s r.stack.toNat site)
    (∀ f, wdogFirst t e = some f →
      let k := max s.cyc (wdogCycle t f)
      ∃ s', exec (.wdog e r) s = .next s' ∧
        Ran s s' r site k (bankTokens (tileFault (settleBefore k (withhold t f)) .wdog (engCode e) f.pc) k) [])
    ∧ (∀ k0, (engOf t e).since = some k0 → engineRuns t e = true →
      let k := max s.cyc (k0 + 76799)
      ∃ s', exec (.stall e r) s = .next s' ∧
        Ran s s' r site k (bankTokens (tileFault (settleBefore k t) .stall (engCode e) (pcOf t e)) k) [])

/-- R147, R148, R399: a clocked tile that stays idle asks for its clock to stop when its idle count ends, and one that is
busy now or then, or that a static slot holds, does not; a gated tile asks for its clock to start WAKE_LEAD before its next static slot, or at once where it waits for none, and shows
WAKE_PEND. Each request enters the governor's queue at the present tick. -/
def Sys2Proof.Claims.ClockRequests : Prop :=
  ∀ (s : State) (r : TileRef) (site : Nat), siteOf s r.stack.toNat r.tile.toNat = some site →
    stackOnNow s r.stack.toNat = true →
    ((tileAt s r.stack.toNat site).clkOn = true → govWaits s false r.stack.toNat r.tile.toNat = false →
      let t := settle s.cyc (tileAt s r.stack.toNat site)
      let s1 := elapseTo s (idleSince t + tget t TIL_GATE_IDLE)
      (tget t TIL_CTL_GATE_EN = 1 → t.clkOn = true → tileIdle (ctxOf s r) t = true → tileIdle (ctxOf s1 r) t = true →
      ∃ s', exec (.tileClockGate r) s = .next s'
        ∧ s'.cyc = max s.cyc (idleSince t + tget t TIL_GATE_IDLE)
        ∧ s'.pwr = { s.pwr with queue := s.pwr.queue ++ [⟨false, r.stack.toNat, r.tile.toNat, s'.tick, false⟩] }
        ∧ s'.tiles = s.tiles ∧ s'.regs = s.regs ∧ s'.dram = s.dram ∧ s'.net = s.net)
      ∧ (tileIdle (ctxOf s r) t = false ∨ tileIdle (ctxOf s1 r) t = false → exec (.tileClockGate r) s = .next s))
    ∧ ((tileAt s r.stack.toNat site).clkOn = false → govWaits s true r.stack.toNat r.tile.toNat = false →
      (tileAt s r.stack.toNat site).inReset = false → tget (tileAt s r.stack.toNat site) TIL_CTL_FENCE ≠ 1 →
      s.pwr.stopping = false →
      ∃ s', exec (.wakeRequest r) s = .next s'
        ∧ s'.cyc = (match nextSlot (ctxOf s r) (tileAt s r.stack.toNat site) with
            | some k => max s.cyc (k - leadCycles (tileAt s r.stack.toNat site))
            | none => s.cyc)
        ∧ s'.pwr = { s.pwr with queue := s.pwr.queue ++ [⟨true, r.stack.toNat, r.tile.toNat, s'.tick, false⟩] }
        ∧ tileAt s' r.stack.toNat site = { tileAt s r.stack.toNat site with wakePend := true }
        ∧ (∀ k2 site2, tileKey k2 site2 ≠ tileKey r.stack.toNat site → tileAt s' k2 site2 = tileAt s k2 site2)
        ∧ s'.regs = s.regs ∧ s'.dram = s.dram ∧ s'.net = s.net)

/-- R398, R399: the governor grants the request that is next while its budget allows. A granted start leaves the queue, is
counted in PWR_STARTS and TIL_GATE_STARTS, and its tile's clock runs; an engine whose static slot passed meanwhile
raises SLOTLATE (R148). A granted stop leaves the queue, is counted in PWR_STOPS, and its tile's clock is gated (while
no orderly stop is under way). Where the budget then has no more room, or had none, every request of the kind that
waits and has not been counted yet is counted in PWR_DEFERRED. The model's own choices it rests on: notes/assumptions/30.md. -/
def Sys2Proof.Claims.ClockGrants : Prop :=
  ∀ (s : State) (dns : Nat) (q : GovReq) (site : Nat),
    let s1 := elapseNs s dns
    let r : TileRef := ⟨BitVec.ofNat 3 q.stack, BitVec.ofNat 9 q.tile⟩
    siteOf s r.stack.toNat r.tile.toNat = some site →
    (govNext s1 true = some q → govRoom s1 true s1.pwr.starts = true →
      ∃ s2 s', exec (.clockStartGrant dns) s = .next (govRest s' true)
        ∧ rget s2 0 PWR_STARTS = (rget s 0 PWR_STARTS + 1) % 2 ^ 32
        ∧ s2.pwr = { s.pwr with
            queue := s.pwr.queue.filter fun x => !(x.start == true && x.stack == q.stack && x.tile == q.tile)
            starts := govRecent s1 s.pwr.starts ++ [s1.tick] }
        ∧ s2.cyc = s1.cyc ∧ s2.tiles = s.tiles ∧ s2.dram = s.dram ∧ s2.net = s.net
        ∧ Ran s2 s' r site s1.cyc (bankTokens (tbump
            { busyAt (lateSlots (ctxOf s2 r) (settle s1.cyc (tileAt s r.stack.toNat site))) s1.cyc with
              clkOn := true, wakePend := false } TIL_GATE_STARTS) s1.cyc) [])
    ∧ (govNext s1 false = some q → govRoom s1 false s1.pwr.stops = true → s.pwr.stopping = false →
      ∃ s2 s', exec (.clockStopGrant dns) s = .next (govRest s' false)
        ∧ rget s2 0 PWR_STOPS = (rget s 0 PWR_STOPS + 1) % 2 ^ 32
        ∧ s2.pwr = { s.pwr with
            queue := s.pwr.queue.filter fun x => !(x.start == false && x.stack == q.stack && x.tile == q.tile)
            stops := govRecent s1 s.pwr.stops ++ [s1.tick] }
        ∧ s2.cyc = s1.cyc ∧ s2.tiles = s.tiles ∧ s2.dram = s.dram ∧ s2.net = s.net
        ∧ Ran s2 s' r site s1.cyc
            (bankTokens { settle s1.cyc (tileAt s r.stack.toNat site) with clkOn := false, gate0 := slotZero s q.stack } s1.cyc) [])
    ∧ (govNext s1 true = some q → govRoom s1 true s1.pwr.starts = false →
      exec (.clockStartGrant dns) s = .next (govDefer s1 true))
    ∧ (govNext s1 false = some q → govRoom s1 false s1.pwr.stops = false →
      exec (.clockStopGrant dns) s = .next (govDefer s1 false))
    ∧ (∀ start, let n := s.pwr.queue.countP fun x => x.start == start && !x.waited
      ∃ t, govDefer s start = t ∧ rget t 0 PWR_DEFERRED = (rget s 0 PWR_DEFERRED + n) % 2 ^ 32
        ∧ (∀ x ∈ t.pwr.queue, x.start = start → x.waited = true)
        ∧ t.pwr.starts = s.pwr.starts ∧ t.pwr.stops = s.pwr.stops ∧ changesOnly [.regs, .pwr] s t
        ∧ regsBut [(0, PWR_DEFERRED.off)] s t
        ∧ govRest s start = if govRoom s start (if start then s.pwr.starts else s.pwr.stops) then s else t)

/-- A tile's requests for its clock and the governor's grants (R147, R148, R398, R399). The model's own choices it
rests on: notes/assumptions/30.md and notes/assumptions/78.md. -/
def Obligations.TileClocks : Prop :=
  Sys2Proof.Claims.ClockRequests ∧ Sys2Proof.Claims.ClockGrants

/-- R482, R146, R143, R94, R423: writes of a reachable tile's control bits. RUN starts each idle engine whose
TIL_ENG_PC was written, RUN cleared stops all at an instruction boundary; FENCE stops the engines and the clock, so
that nothing pending comes about, and empties the retry and recompute queues, and the tile's requests at the governor
end; WDOG_LOCK and TIL_ARR_LOCK lock until tile reset. SRST of a tile with operations in flight closes its wrapper,
and the reset waits for them (R421). The model's own choices it rests on: notes/assumptions/31.md and
notes/assumptions/45.md. -/
def Obligations.TileControlBits : Prop :=
  ∀ (s : State) (r : TileRef) (site : Nat), siteOf s r.stack.toNat r.tile.toNat = some site →
    tileClosed s r.stack.toNat site = false →
    let t := settle s.cyc (tileAt s r.stack.toNat site)
    (tget t TIL_CTL_RUN ≠ 1 → ∃ s1 s', exec (.run r true) s = .next s'
      ∧ Ran s s1 r site s.cyc (bankTokens (slotsFrom (slotZero s r.stack.toNat) { tput t TIL_CTL_RUN 1 with
          engs := t.engs.map fun g => if !g.on && g.pcWritten then { g with on := true, pcWritten := false } else g })
          s.cyc) []
      ∧ s' = askStart s1 r.stack.toNat r.tile.toNat)
    ∧ (tget t TIL_CTL_RUN = 1 → ∃ s', exec (.run r false) s = .next s' ∧ Ran s s' r site s.cyc (bankTokens (busyAt { tput t TIL_CTL_RUN 0 with
          engs := t.engs.map fun g => { g with st := 0, since := none, nextw := none, wpSince := none, held := none } } s.cyc) s.cyc) [])
    ∧ (∃ s0 s', exec (.fence r) s = .next s'
      ∧ s0 = { s with pwr := { s.pwr with
          queue := s.pwr.queue.filter fun q => !(q.stack == r.stack.toNat && q.tile == r.tile.toNat) } }
      ∧ Ran s0 s' r site s.cyc (bankTokens { tput t TIL_CTL_FENCE 1 with
          clkOn := false, wakePend := false, retryQ := [], recompQ := [], due := [], watches := []
          engs := t.engs.map fun g => { g with st := 0 } } s.cyc) [])
    ∧ (∃ s', exec (.wdogLock r) s = .next s' ∧ Ran s s' r site s.cyc (bankTokens (tput t TIL_CTL_WDOG_LOCK 1) s.cyc) [])
    ∧ (tget t TIL_CTL_FENCE ≠ 1 → ∃ s', exec (.tilArrLock r) s = .next s'
      ∧ Ran s s' r site s.cyc (bankTokens (tput t TIL_ARR_LOCK_LOCK 1) s.cyc) [])
    ∧ (blockInside s (tileBlock r) = true → resetOf s (tileBlock r) = none → r.tile.toNat < 480 →
        ∃ s', exec (.srst r) s = .next s'
          ∧ s'.rst = { s.rst with blocks := s.rst.blocks ++ [⟨tileBlock r, true, false, false, s.tick⟩] }
          ∧ tileAt s' r.stack.toNat site =
              { t with wrapped := true, engs := t.engs.map fun g => { g with st := 0 } }
          ∧ (∀ k2 site2, tileKey k2 site2 ≠ tileKey r.stack.toNat site → tileAt s' k2 site2 = tileAt s k2 site2)
          ∧ s'.dram = s.dram ∧ s'.net = s.net ∧ s'.cyc = s.cyc)

/-! ### Packets at their destinations -/

namespace Sys2Proof.Claims

/-- The machine `s'` is `s` with packet `p` answered from stack `k` (R170, R329): the packet has left the network, its
completion has entered it and its flits are counted; nothing else has changed. -/
structure Answered (s s' : State) (k : Nat) (p : Packet) (st : Status) (sat : Bool) (data : List Byte) : Prop where
  net : s'.net = s.net.erase p ++ [completionOf s p st sat data]
  regs : ∀ k2 off, rword s' k2 off = rword (sendPacket s k (completionOf s p st sat data)) k2 off
  tiles : ∀ k2 site, tileAt s' k2 site = tileAt s k2 site
  dram : ∀ a, memByte s'.dram a = memByte s.dram a
  rest : s'.cyc = s.cyc ∧ s'.tick = s.tick ∧ s'.slot0 = s.slot0 ∧ s'.reports = s.reports ∧ s'.stk = s.stk ∧ s'.vil = s.vil ∧
    s'.fleet = s.fleet ∧ s'.chr = s.chr ∧ s'.serve = s.serve ∧ s'.img = s.img ∧ s'.log = s.log ∧ s'.pwr = s.pwr ∧
    s'.rst = s.rst ∧ s'.bnc = s.bnc ∧ s'.snd = s.snd ∧ s'.lsr = s.lsr ∧ s'.answers = s.answers ∧ s'.pending = s.pending

/-- The packet's destination in this module is the byte `off` of stack `k`'s DRAM (R320), `bs` are written there, and it
is answered: every other byte of DRAM is as it was. -/
def DramAnswered (s : State) (p : Packet) (k off : Nat) (bs : List Byte) (st : Status) (sat : Bool) (data : List Byte)
    (out : Host.Outcome State Fault Refusal) : Prop :=
  ∃ s1 s', out = .next s' ∧ Answered s1 s' (addrStack p.dest) p st sat data
    ∧ (∀ j (h : j < bs.length), memByte s1.dram (k * 2 ^ 36 + off + j) = bs[j])
    ∧ (∀ a, (a < k * 2 ^ 36 + off ∨ k * 2 ^ 36 + off + bs.length ≤ a) → memByte s1.dram a = memByte s.dram a)
    ∧ s1 = { s with dram := s1.dram }

/-- The same where the destination is the store of tile `r` at `site`: its tile has become `t'`. -/
def TileAnswered (s : State) (p : Packet) (r : TileRef) (site : Nat) (t' : Tile) (st : Status) (sat : Bool)
    (data : List Byte) (out : Host.Outcome State Fault Refusal) : Prop :=
  ∃ s1 s', out = .next s' ∧ Answered s1 s' (addrStack p.dest) p st sat data ∧ Ran s s1 r site s.cyc t' []

/-- Tile `r`'s store with `bs` written at `off` by a PUT, after the local writes of the same cycle (R141). -/
def tilePut (s : State) (r : TileRef) (site off : Nat) (bs : List Byte) : Tile :=
  bankTokens (swrite (settle s.cyc (tileAt s r.stack.toNat site)) off bs) s.cyc

/-- The same by an atomic operation, before the local writes of the same cycle (R141). -/
def tileAtomic (s : State) (r : TileRef) (site off : Nat) (bs : List Byte) : Tile :=
  swrite (settleBefore s.cyc (tileAt s r.stack.toNat site)) off bs

end Sys2Proof.Claims

/-- R169: PUT at DRAM or at a tile's store writes its bytes there and completes with OK; GET reads them and completes
with them, and changes no memory; either completes with FENCED, and nothing is written, where nothing answers (R322).
The model's own choices it rests on: notes/assumptions/16.md and notes/assumptions/21.md. -/
def Obligations.PutAndGetPackets : Prop :=
  ∀ (s : State) (p : Packet), addrModule p.dest = moduleNo s →
    (∀ k off, destOf s p.dest p.len p.src = .dram k off →
      DramAnswered s p k off (p.data.take p.len) .ok false [] (exec (.put p) s)
      ∧ DramAnswered s p k off [] .ok false (dread s k off p.len) (exec (.get p none) s))
    ∧ (∀ r off site, destOf s p.dest p.len p.src = .tile r off → siteOf s r.stack.toNat r.tile.toNat = some site →
      TileAnswered s p r site (tilePut s r site off (p.data.take p.len)) .ok false [] (exec (.put p) s)
      ∧ ∃ s', exec (.get p none) s = .next s' ∧ Answered s s' (addrStack p.dest) p .ok false
          (sread (settleBefore s.cyc (tileAt s r.stack.toNat site)) off p.len))
    ∧ (destOf s p.dest p.len p.src = .fenced →
      (∃ s', exec (.put p) s = .next s' ∧ Answered s s' (addrStack p.dest) p .fenced false [])
      ∧ ∃ s', exec (.get p none) s = .next s' ∧ Answered s s' (addrStack p.dest) p .fenced false [])

/-- R42, R169, R304: a reduction flit adds its elements into the destination's (32-bit, 64-bit or long), writes the sums
and completes with OK; SAT says that an element of ADD32 or ADD64 saturated, here or when flits were combined. -/
def Sys2Proof.Claims.ReductionPackets : Prop :=
  ∀ (s : State) (p : Packet), addrModule p.dest = moduleNo s →
    (∀ k off, destOf s p.dest (p.len * 4) p.src = .dram k off →
      DramAnswered s { p with op := .add32 } k off
        (addBytes .add32 (dread s k off (p.len * 4)) (p.data.take (p.len * 4))).1 .ok
        ((addBytes .add32 (dread s k off (p.len * 4)) (p.data.take (p.len * 4))).2 || p.sat) []
        (exec (.add32 p none []) s))
    ∧ (∀ k off, destOf s p.dest (p.len * 8) p.src = .dram k off →
      DramAnswered s { p with op := .add64 } k off
        (addBytes .add64 (dread s k off (p.len * 8)) (p.data.take (p.len * 8))).1 .ok
        ((addBytes .add64 (dread s k off (p.len * 8)) (p.data.take (p.len * 8))).2 || p.sat) []
        (exec (.add64 p none []) s))
    ∧ (∀ k off, destOf s p.dest (p.len * 16) p.src = .dram k off →
      DramAnswered s { p with op := .ladd } k off
        (addBytes .ladd (dread s k off (p.len * 16)) (p.data.take (p.len * 16))).1 .ok false []
        (exec (.ladd p none []) s))
    ∧ (∀ r off site, siteOf s r.stack.toNat r.tile.toNat = some site →
      let old := fun n => sread (settleBefore s.cyc (tileAt s r.stack.toNat site)) off n
      (destOf s p.dest (p.len * 4) p.src = .tile r off → TileAnswered s { p with op := .add32 } r site
        (tileAtomic s r site off (addBytes .add32 (old (p.len * 4)) (p.data.take (p.len * 4))).1) .ok
        ((addBytes .add32 (old (p.len * 4)) (p.data.take (p.len * 4))).2 || p.sat) [] (exec (.add32 p none []) s))
      ∧ (destOf s p.dest (p.len * 8) p.src = .tile r off → TileAnswered s { p with op := .add64 } r site
        (tileAtomic s r site off (addBytes .add64 (old (p.len * 8)) (p.data.take (p.len * 8))).1) .ok
        ((addBytes .add64 (old (p.len * 8)) (p.data.take (p.len * 8))).2 || p.sat) [] (exec (.add64 p none []) s))
      ∧ (destOf s p.dest (p.len * 16) p.src = .tile r off → TileAnswered s { p with op := .ladd } r site
        (tileAtomic s r site off (addBytes .ladd (old (p.len * 16)) (p.data.take (p.len * 16))).1) .ok false [] (exec (.ladd p none []) s)))

/-- R169: CAS64 writes bytes 15:8 of its block where the destination's word equals bytes 7:0, leaves it where it does not,
and completes with the old word. R173: ARRIVE at a tile's counter 0 to 247 adds one to COUNT and holds the larger
VMAX. R332, R333: MPUT with one target in this module's DRAM, whose branch has credit and whose replication router has
a buffer free, writes there, answers that branch with OK, and ends as a list flit. -/
def Sys2Proof.Claims.AtomicArriveMulticast : Prop :=
  ∀ (s : State) (p : Packet), addrModule p.dest = moduleNo s →
    (∀ k off, destOf s p.dest 8 p.src = .dram k off →
      (dread s k off 8 = p.data.take 8 →
        DramAnswered s p k off ((p.data.drop 8).take 8) .ok false (p.data.take 8) (exec (.cas64 p) s))
      ∧ (dread s k off 8 ≠ p.data.take 8 →
        ∃ s', exec (.cas64 p) s = .next s' ∧ Answered s s' (addrStack p.dest) p .ok false (dread s k off 8)))
    ∧ (∀ r off site, destOf s p.dest 8 p.src = .tile r off → siteOf s r.stack.toNat r.tile.toNat = some site →
      let old := sread (settleBefore s.cyc (tileAt s r.stack.toNat site)) off 8
      (old = p.data.take 8 →
        TileAnswered s p r site (tileAtomic s r site off ((p.data.drop 8).take 8)) .ok false (p.data.take 8) (exec (.cas64 p) s))
      ∧ (old ≠ p.data.take 8 →
        ∃ s', exec (.cas64 p) s = .next s' ∧ Answered s s' (addrStack p.dest) p .ok false old))
    ∧ (∀ r off site, destOf s p.dest 16 p.src = .tile r off → siteOf s r.stack.toNat r.tile.toNat = some site →
      off % 16 = 0 → 0x7D000 ≤ off → off ≤ 0x7DF70 →
      ∃ s1 s', exec (.arrive p) s = .next s' ∧ Answered s1 s' (addrStack p.dest) p .ok false []
        ∧ Ran s s1 r site s.cyc
            (bankTokens (arriveAt (settle s.cyc (tileAt s r.stack.toNat site)) off (leVal (p.data.take 2))) s.cyc) [])
    ∧ (∀ j d k off, p.targets = [(j, d)] → addrModule d = moduleNo s → destOf s d p.len p.src = .dram k off →
      ((stkOf s (mcastRouter s p).1).mcasts.filter fun e => e.site == (mcastRouter s p).2).length < 2 →
      (stkOf s (mcastRouter s p).1).mcasts.contains ⟨(mcastRouter s p).2, p⟩ = false →
      ∃ s', exec (.mput ⟨p, []⟩) s = .next s'
        ∧ (∀ i (h : i < (p.data.take p.len).length), memByte s'.dram (k * 2 ^ 36 + off + i) = (p.data.take p.len)[i])
        ∧ (∀ a, (a < k * 2 ^ 36 + off ∨ k * 2 ^ 36 + off + (p.data.take p.len).length ≤ a) →
            memByte s'.dram a = memByte s.dram a)
        ∧ s'.net = (s.net.erase p).erase { p with op := .put, dest := d, targets := [(j, d)] }
            ++ [completionOf s { p with op := .put, dest := d, targets := [(j, d)] } .ok false []]
        ∧ (∀ k2, stkOf s' k2 = stkOf s k2)
        ∧ s'.tiles = s.tiles ∧ s'.serve = s.serve ∧ s'.cyc = s.cyc ∧ s'.reports = s.reports)

/-- Reduction flits, CAS64, ARRIVE and MPUT at their destination (R42, R169, R173, R304, R332). The model's own
choices it rests on: notes/assumptions/16.md, notes/assumptions/17.md, notes/assumptions/21.md and
notes/assumptions/87.md. -/
def Obligations.ReductionAndAtomicPackets : Prop :=
  Sys2Proof.Claims.ReductionPackets ∧ Sys2Proof.Claims.AtomicArriveMulticast

/-! ### Completions and timeouts -/

namespace Sys2Proof.Claims

/-- A completion with status `st` and `data` has reached the operation that tile `r` at `site` has in flight under `tag`:
a Fetch transaction, or a Signal operation that waits for one completion, ends as R159 and R170 say, and in a fenced tile
frees its tag alone (R146); and a Fetch transaction that failed, and a Signal operation that a failure ended, is reported to
Helm. -/
def Delivered (s : State) (r : TileRef) (site : Nat) (tag : BitVec 5) (st : Status) (sat : Bool) (data : List Byte)
    (out : Host.Outcome State Fault Refusal) : Prop :=
  let t := settle s.cyc (tileAt s r.stack.toNat site)
  (∀ o, fetchOf t tag = some o → fetchOf (tileAt s r.stack.toNat site) tag ≠ none →
    (st = .ok → branchFails (tileAt s r.stack.toNat site) tag = []) →
    tget t TIL_CTL_FENCE = 0 → ∃ s1, Ran s s1 r site s.cyc (bankTokens (busyAt (completeFetch (ctxOf s r) t o tag st data).1 s.cyc) s.cyc)
        (completeFetch (ctxOf s r) t o tag st data).2
      ∧ out = .next (if st = .ok then s1 else { s1 with reports := s1.reports ++ [.opFailed r tag st] }))
  ∧ (∀ o, fetchOf t tag = none → sigOf t tag = some o → o.open_ = [] → st = .ok →
    branchFails (tileAt s r.stack.toNat site) tag = [] →
    tget t TIL_CTL_FENCE = 0 → ∃ s1, Ran s s1 r site s.cyc (bankTokens (busyAt (completeSig t o st sat data) s.cyc) s.cyc) [] ∧ out = .next s1)
  ∧ (∀ o, fetchOf t tag = none → fetchOf (tileAt s r.stack.toNat site) tag = none → sigOf t tag = some o → o.open_ = [] →
    st ≠ .ok → tget t TIL_CTL_FENCE = 0 →
    ∃ s1, Ran s s1 r site s.cyc (bankTokens (busyAt (completeSig t o st sat data) s.cyc) s.cyc) []
      ∧ out = .next (if tagEnded (tileAt s r.stack.toNat site) (tileAt s1 r.stack.toNat site) tag = true
          then { s1 with reports := s1.reports ++ [.opFailed r tag st] } else s1))
  ∧ (st = .ok → tget t TIL_CTL_FENCE = 1 →
    branchFails (tileAt s r.stack.toNat site) tag = [] →
    ∃ s1, Ran s s1 r site s.cyc (bankTokens (busyAt (endFenced t tag) s.cyc) s.cyc) [] ∧ out = .next s1)

end Sys2Proof.Claims

/-- R170, R331: a completion, or a GET's data, that reaches its tile ends the tile's operation under its tag, after
the copies that routers owe other requesters on the way (R142, R305) have been sent; FLT_STALE counts one whose TURN
is another's. R333, R334, R380: a request that expires in the network leaves it and its issuer is sent TIMEOUT, the
port or crossing where it expired being recorded (Table 16.1, class 9); one that has gone on before is left alone, and
a response never expires. R331: an operation that no completion ended in time completes with TIMEOUT. The model's own
choices it rests on: notes/assumptions/16.md and notes/assumptions/29.md. -/
def Obligations.CompletionsAndTimeouts : Prop :=
  (∀ (s : State) (p : Packet) (m : BitVec 10) (r : TileRef) (site : Nat),
    addrModule p.dest = moduleNo s → p.src = .tile m r →
    let q := passBackAll { s with net := s.net.erase p } p
    let t := tileAt q.2 r.stack.toNat site
    siteOf q.2 r.stack.toNat r.tile.toNat = some site →
    (turnMatches t p.tag p.turn = true →
      Delivered q.2 r site p.tag p.status (p.sat || q.1) p.data (exec (.completion p) s)
      ∧ (∀ p2, p = { p2 with status := .ok } →
        let q2 := passBackAll { s with net := s.net.erase p } p
        Delivered q2.2 r site p.tag .ok (p.sat || q2.1) p.data (exec (.getData p2) s)))
    ∧ (turnMatches t p.tag p.turn = false → exec (.completion p) s = .next (rbump q.2 0 FLT_STALE)))
  ∧ (∀ (s : State) (p : Packet), isResponse p = false → p.op ≠ .mput →
      (s.net.contains p = true → ∃ s', exec (.hopTimeout p none) s = .next s'
        ∧ Answered s s' (addrStack (issuerAddr s p.src)) p .timeout false [])
      ∧ (∀ l : LinkRef, s.net.contains p = true → ∃ s', exec (.hopTimeout p (some l)) s = .next s'
        ∧ Answered { s with log := { s.log with hops := s.log.hops ++ [(l, s.tick)], extra := s.log.extra ++ [(9, s.tick)] } } s'
            (addrStack (issuerAddr s p.src)) p .timeout false [])
      ∧ ∀ w, s.net.contains p = false → exec (.hopTimeout p w) s = .next s)
  ∧ (∀ (s : State) (p : Packet) (w : Option LinkRef), isResponse p = true → exec (.hopTimeout p w) s = .next s)
  ∧ (∀ (s : State) (r : TileRef) (tag : BitVec 5) (site : Nat), siteOf s r.stack.toNat r.tile.toNat = some site →
      tagUsed (tileAt s r.stack.toNat site) tag.toNat = true →
      turnMatches (tileAt s r.stack.toNat site) tag
        (BitVec.ofNat 4 (turnOf (tileAt s r.stack.toNat site) tag.toNat)) = true →
      Delivered s r site tag .timeout false [] (exec (.endToEndTimeout r tag) s))

/-! ### Charts and the Rutter -/

namespace Sys2Proof.Claims

/-- The walkers of the command's stack serve its ring (R227, R231): the command at TAIL is executed as `f` says, or, with
a reserved field set, answers RANGE and changes nothing; RESULT (CODE, DONE, DEPTH) and NODE are written in its place,
TAIL moves on round the ring, and nothing else changes. -/
def ChartRuns (s : State) (a : ChartArgs) (f : State → Nat → ChtDone) (out : Host.Outcome State Fault Refusal) : Prop :=
  let k := a.stack.toNat
  let d := if chtReserved a then ⟨s, .range, 0, 0⟩ else f s k
  let place := chartBase d.st k + 64 * rget s k CHT_RING_OFFSET + 64 * (rget s k CHT_TAIL_TAIL % ringSize s k)
  ringReady s k = true →
  ∃ s', out = .next s'
    ∧ rget s' k CHT_TAIL_TAIL = (rget s k CHT_TAIL_TAIL + 1) % ringSize s k % 2 ^ 12
    ∧ dread s' k (place + 32) 8 = leBytes 8 (chtCodeNo d.code + 256 + d.depth * 512)
    ∧ dread s' k (place + 40) 8 = leBytes 8 d.node
    ∧ (∀ x, (x < k * 2 ^ 36 + place + 32 ∨ k * 2 ^ 36 + place + 48 ≤ x) → memByte s'.dram x = memByte d.st.dram x)
    ∧ regsBut [(k, CHT_TAIL_TAIL.off)] d.st s'
    ∧ changesOnly [.regs, .dram] d.st s'

end Sys2Proof.Claims

/-- R231, R240 to R242: each chart and Rutter command of the ring is executed in turn by the walkers of its stack. -/
def Obligations.ChartRingCommands : Prop :=
  ∀ (s : State) (a : ChartArgs),
    ChartRuns s a (openChart a) (exec (.chtOpen a) s)
    ∧ ChartRuns s a (mapChart a) (exec (.chtMap a) s)
    ∧ ChartRuns s a (forkChart a) (exec (.chtFork a) s)
    ∧ ChartRuns s a (allocChart a) (exec (.chtAlloc a) s)
    ∧ ChartRuns s a (cowChart a) (exec (.chtCow a) s)
    ∧ ChartRuns s a (advChart a) (exec (.chtAdv a) s)
    ∧ ChartRuns s a (freeChart a) (exec (.chtFree a) s)
    ∧ ChartRuns s a (pinChart true a) (exec (.chtPin a) s)
    ∧ ChartRuns s a (pinChart false a) (exec (.chtUnpin a) s)
    ∧ ChartRuns s a (lookupChart a) (exec (.rutLookup a) s)
    ∧ ChartRuns s a (insertRing a) (exec (.rutInsert a) s)
    ∧ ChartRuns s a (evictChart a) (exec (.rutEvict a) s)

namespace Sys2Proof.Claims

/-- The ring that the walkers serve completes its command with what `d` answers, and OK (R231): its machine, with NODE and
RESULT written in the command's place and TAIL moved on. -/
def ChartCompletes (s : State) (a : ChartArgs) (d : ChtDone) (out : Host.Outcome State Fault Refusal) : Prop :=
  let k := a.stack.toNat
  let place := 64 * rget s k CHT_RING_OFFSET + 64 * (rget s k CHT_TAIL_TAIL % ringSize s k)
  ringReady s k = true → chtReserved a = false →
    d.code = .ok
    ∧ out = .next (rput (putCword (putCword d.st k (place + 40) d.node) k (place + 32) (256 + d.depth * 512)) k
        CHT_TAIL_TAIL ((rget s k CHT_TAIL_TAIL + 1) % ringSize s k))

/-- The chart commands complete (Table 9.8, R233 to R236). MAP and FORK, every mapping of which passes its GEN check, leave
the mappings and TOKENS; ALLOC, with a free frame for every layer, takes at most one frame a layer; COW of a page that no
one else refers to changes nothing, and otherwise leaves what its layers give; PIN and UNPIN count a pin of Helm, and one
in the frame of a chart's only layer. -/
def ChartsComplete (s : State) (a : ChartArgs) : Prop :=
  let k := a.stack.toNat
  let c := chtContext a
  let r := rootOf s k c
  let p := chtPage a
  let pins := fun (s1 : State) (n : Nat) => putStk s1 k { stkOf s1 k with helmPins := n }
  (∀ l s1, r.toks = 0 → nodeChain s k 256 a.arg0.toNat = some l → l.length ≤ r.ppl →
    l.foldl (mapNode k c r) (some s) = some s1 →
      ChartCompletes s a ⟨putRoot s1 k c { r with toks := 64 * l.length }, .ok, 0, 0⟩ (exec (.chtMap a) s))
  ∧ (∀ s1, let src := rootOf s k a.arg0.toNat
      a.arg0.toNat < 16384 → r.layers = src.layers → r.ppl = src.ppl →
      (chartPlaces src).foldl (forkEntry k c src r) (some s) = some s1 →
      ChartCompletes s a ⟨putRoot s1 k c { r with toks := src.toks }, .ok, 0, 0⟩ (exec (.chtFork a) s))
  ∧ (p < r.ppl → r.layers ≤ (stkOf s k).frames.length →
      ChartCompletes s a (allocChart a s k) (exec (.chtAlloc a) s)
      ∧ ∃ n, n ≤ r.layers ∧ (stkOf (allocChart a s k).st k).frames = (stkOf s k).frames.drop n)
  ∧ (p < r.ppl → (∀ l, l < r.layers → (getPle s k r l p).v = true →
        pleStale s k (getPle s k r l p) = false
        ∧ bitsOf (desc0 s k (getPle s k r l p).frame) 0 24 = (getPle s k r l p).frame
        ∧ descRef (desc1 s k (getPle s k r l p).frame) = 1 ∧ descPub (desc1 s k (getPle s k r l p).frame) = false) →
      ChartCompletes s a ⟨s, .ok, 0, 0⟩ (exec (.chtCow a) s))
  ∧ (∀ s1, p < r.ppl → (List.range r.layers).foldl (cowLayer k c r p) (s, .ok) = (s1, .ok) →
      ChartCompletes s a ⟨s1, .ok, 0, 0⟩ (exec (.chtCow a) s))
  ∧ (p < r.ppl → (∀ l, l < r.layers → (getPle s k r l p).v = false) →
      ((stkOf s k).helmPins < 1024 →
        ChartCompletes s a ⟨pins s ((stkOf s k).helmPins + 1), .ok, 0, 0⟩ (exec (.chtPin a) s))
      ∧ ChartCompletes s a ⟨pins s ((stkOf s k).helmPins - 1), .ok, 0, 0⟩ (exec (.chtUnpin a) s))
  ∧ (p < r.ppl → r.layers = 1 → (getPle s k r 0 p).v = true →
      (∀ s1, (stkOf s k).helmPins < 1024 → pinUp s k (getPle s k r 0 p).frame (getPle s k r 0 p).gen = some s1 →
        ChartCompletes s a ⟨pins (seeEntry s1 k c (getPle s k r 0 p)) ((stkOf s k).helmPins + 1), .ok, 0, 0⟩
          (exec (.chtPin a) s))
      ∧ (pleStale s k (getPle s k r 0 p) = false →
        let s1 := pinDown (seeEntry s k c (getPle s k r 0 p)) k (getPle s k r 0 p).frame
        ChartCompletes s a ⟨pins s1 ((stkOf s k).helmPins - 1), .ok, 0, 0⟩ (exec (.chtUnpin a) s)))

/-- The Rutter commands complete (R240 to R242): LOOKUP of at most 256 blocks answers what its prefix walk finds, the empty
prefix nothing; INSERT of a block whose positions are committed, under a published parent, writes its node in the first
free place of the bucket, and its forms; EVICT of a published node without children frees its forms (R213) and takes it out. -/
def RutterCompletes (s : State) (a : ChartArgs) : Prop :=
  let k := a.stack.toNat
  let c := chtContext a
  let r := rootOf s k c
  let j := chtPage a
  let parent := if j = 0 then 0 else a.arg2.toNat
  let toks := wordsOf (dread s k a.arg0.toNat 256)
  let h := blockHash (if j = 0 then a.arg1 else BitVec.ofNat 64 (nodeHash s k parent)) toks
  let eligible := match ctxAt s c with
    | some x => eligibleLayers s x.berth k
    | none => []
  rutterOn s k = true →
    (chtCount a ≤ 256 →
      let q := lookupBlocks k a.arg1 ((List.range (chtCount a)).map fun i => wordsOf (dread s k (a.arg0.toNat + 256 * i) 256))
        (rbump s k RUT_LOOKUPS) a.arg1 0 0
      ChartCompletes s a ⟨q.1, .ok, q.2.1, q.2.2⟩ (exec (.rutLookup a) s))
    ∧ (chtCount a = 0 → ChartCompletes s a ⟨rbump s k RUT_LOOKUPS, .ok, 0, 0⟩ (exec (.rutLookup a) s))
    ∧ (64 * (j + 1) ≤ r.toks → j < r.ppl → (j = 0 ∨ nodeState s k parent = 2) →
      ∀ s1 i s2 x, findNode s k h a.arg1 parent j toks = (s1, none) →
        (List.range 8).find? (fun i => cword s1 k (bucketAt s1 k h + 8 * i) == 0) = some i →
        writeNode s1 k r (bucketAt s1 k h + 8 * i) h a.arg1 parent j toks = some (s2, x) →
        ChartCompletes s a ⟨buildForms (rbump s2 k RUT_INSERTS) k x eligible, .ok, 0, x⟩ (exec (.rutInsert a) s))
    ∧ (nodeChildren s k a.arg0.toNat = 0 → nodeState s k a.arg0.toNat = 2 →
      ChartCompletes s a ⟨evictNode (freeForms s k a.arg0.toNat) k a.arg0.toNat, .ok, 0, 0⟩ (exec (.rutEvict a) s))

end Sys2Proof.Claims

/-- What the commands answer (Tables 9.7, 9.8): OPEN within its bounds writes the root and clears the page list, and
where the context had no chart changes nothing else; arguments beyond the chart answer RANGE, a Rutter command without
a Rutter NORUTTER, an EVICT of a node with children or not published INUSE, each changing nothing; ADV moves TOKENS
on; FREE always succeeds; and every other command completes with OK as `ChartsComplete` and `RutterCompletes` say. The
model's own choices it rests on: notes/assumptions/25.md, notes/assumptions/26.md, notes/assumptions/82.md and
notes/assumptions/101.md. -/
def Obligations.ChartCommandResults : Prop :=
  ∀ (s : State) (a : ChartArgs) (k : Nat),
    let c := chtContext a
    let r := rootOf s k c
    let failed := fun (d : ChtDone) (e : ChtCode) => d.st = s ∧ d.code = e ∧ d.depth = 0 ∧ d.node = 0
    (((chtCount a % 256 ≤ 128 ∧ 0 < a.arg1.toNat ∧ a.arg1.toNat ≤ 256 ∧ a.arg0.toNat % 64 = 0 ∧ a.arg0.toNat < 2 ^ 40) →
        (openChart a s k).code = .ok
        ∧ cread (openChart a s k).st k a.arg0.toNat (8 * (chtCount a % 256 * a.arg1.toNat))
            = List.replicate (8 * (chtCount a % 256 * a.arg1.toNat)) 0
        ∧ changesOnly [.regs, .dram, .reports, .stk] s (openChart a s k).st
        ∧ (r.layers = 0 ∨ r.ppl = 0 → changesOnly [.dram, .stk] s (openChart a s k).st))
      ∧ (128 < chtCount a % 256 ∨ a.arg1.toNat = 0 ∨ 256 < a.arg1.toNat ∨ a.arg0.toNat % 64 ≠ 0 ∨ 2 ^ 40 ≤ a.arg0.toNat →
        failed (openChart a s k) .range))
    ∧ (r.toks ≠ 0 → failed (mapChart a s k) .range)
    ∧ (r.toks = 0 → nodeState s k a.arg0.toNat ≠ 2 → failed (mapChart a s k) .stale)
    ∧ (16384 ≤ a.arg0.toNat → failed (forkChart a s k) .range)
    ∧ (r.ppl ≤ chtPage a → failed (allocChart a s k) .range ∧ failed (cowChart a s k) .range
        ∧ failed (pinChart true a s k) .range ∧ failed (pinChart false a s k) .range)
    ∧ (16384 < r.toks + chtCount a ∨ 64 * r.ppl < r.toks + chtCount a → failed (advChart a s k) .range)
    ∧ (r.toks + chtCount a ≤ 16384 → r.toks + chtCount a ≤ 64 * r.ppl →
        (advChart a s k).code = .ok ∧ ∃ s1, changesOnly [.regs, .dram, .reports] s s1
        ∧ (advChart a s k).st = putRoot s1 k c { r with toks := r.toks + chtCount a })
    ∧ (freeChart a s k).code = .ok
    ∧ (rutterOn s k = false → failed (lookupChart a s k) .norutter ∧ failed (insertChart a s k) .norutter
        ∧ failed (evictChart a s k) .norutter)
    ∧ (rutterOn s k = true → 256 < chtCount a → failed (lookupChart a s k) .range)
    ∧ (rutterOn s k = true → (nodeChildren s k a.arg0.toNat ≠ 0 ∨ nodeState s k a.arg0.toNat ≠ 2) →
        failed (evictChart a s k) .inuse)
    ∧ Sys2Proof.Claims.ChartsComplete s a ∧ Sys2Proof.Claims.RutterCompletes s a

/-- Table 9.12, R229, R231: writes of the walkers' control bits of a stack whose walkers are released: EN (its first
setting makes every frame free that R376 has not retired, notes/assumptions/43.md), LOCK, HEAD; INV_ALL empties the
chart cache. The model's own choices it rests on: notes/assumptions/43.md and notes/assumptions/105.md. -/
def Obligations.WalkerControls : Prop :=
  ∀ (s : State) (k : BitVec 3), chtReach s k.toNat = true → k.toNat < s.stk.length →
    (∀ v, ∃ s', exec (.chtEn k v) s = .next s'
      ∧ rget s' k.toNat CHT_CTL_EN = bit v
      ∧ rget s' k.toNat CHT_CTL_LOCK = rget s k.toNat CHT_CTL_LOCK
      ∧ regsBut [(k.toNat, CHT_CTL_EN.off)] s s' ∧ changesOnly [.regs, .stk] s s'
      ∧ (v = false ∨ (stkOf s k.toNat).framesInit = true → s'.stk = s.stk)
      ∧ (v = true → (stkOf s k.toNat).framesInit = false →
          stkOf s' k.toNat = { stkOf s k.toNat with
            framesInit := true
            frames := (List.range (frameCount s k.toNat)).filter fun f => !(stkOf s k.toNat).retired.contains f }))
    ∧ (∃ s', exec (.invAll k) s = .next s' ∧ stkOf s' k.toNat = { stkOf s k.toNat with cache := [] }
      ∧ (∀ j, j ≠ k.toNat → stkOf s' j = stkOf s j) ∧ changesOnly [.stk] s s')
    ∧ (∃ s', exec (.chtLock k) s = .next s' ∧ rget s' k.toNat CHT_CTL_LOCK = 1
      ∧ rget s' k.toNat CHT_CTL_EN = rget s k.toNat CHT_CTL_EN
      ∧ regsBut [(k.toNat, CHT_CTL_LOCK.off)] s s' ∧ changesOnly [.regs] s s')
    ∧ (∀ h, ∃ s', exec (.chtHead k h) s = .next s' ∧ rget s' k.toNat CHT_HEAD_HEAD = h.toNat
      ∧ regsBut [(k.toNat, CHT_HEAD_HEAD.off)] s s' ∧ changesOnly [.regs] s s')

/-! ### Serving -/

namespace Sys2Proof.Claims

/-- The machine after a new descriptor has been observed (R250, R251): its HSEQ is kept and one event is counted. -/
def observed (s : State) (l : Line) : State := countEvent (markLine s l)

end Sys2Proof.Claims

/-- R250, R252, R262: a new SUBMIT whose checks pass takes the lowest FREE context, which waits at the tail of its
class queue with its tokens (less a mapped prefix), which are copied to its token buffer in each stack of the berth
(where the buffers lie: notes/assumptions/44.md); HLM_ADMITS counts and the ACK carries the context. One whose check
fails is answered with its code and counted in HLM_REFUSED. A new CANCEL marks the live context of its REQID, or is
late (ACK 2). A line whose HSEQ has been processed changes nothing. The model's own choices it rests on:
notes/assumptions/24.md, notes/assumptions/35.md and notes/assumptions/44.md. -/
def Obligations.SubmitAndCancel : Prop :=
  ∀ (s : State) (l : Line) (toks : List Word), machineSafe s = true →
    let s1 := observed s l
    let k := leadStk s1
    (newLine s l = true → dKind l = 1 →
      (∀ c, submitCode s1 l = none → freeContext s1 = some c →
        let x := newContext s1 l (toks.take (dPlen l))
        let r := rootKey (rbump s1 k HLM_ADMITS) (bindingOf s1 x)
        let r1 := saveTokens r.1 (dBerth l) c x.tokens
        let q := mapPrefix (writeAck r1 l.addr.toNat 48 1 (c * 2 ^ 16)) c { x with root := r.2 }
        ∃ s', exec (.submit l toks) s = .next s'
          ∧ ctxAt s' c = some q.2 ∧ q.2.st = .waiting ∧ q.2.reqid = dReqid l
          ∧ (∀ d, d ≠ c → ctxAt s' d = ctxAt q.1 d)
          ∧ queueAt s' (dClass l) = queueAt q.1 (dClass l) ++ [c]
          ∧ (∀ d, d ≠ dClass l → queueAt s' d = queueAt q.1 d)
          ∧ changesOnly [.serve] q.1 s'
          ∧ changesOnly [.dram] r.1 r1
          ∧ (∀ j, berthStacks r.1 (dBerth l) = [j] → dread r1 j (tokenBase j c) (4 * x.tokens.length)
              = x.tokens.flatMap fun (w : Word) => leBytes 4 w.toNat))
      ∧ (∀ e, submitCode s1 l = some e → exec (.submit l toks) s =
          .next (writeAck (rbump s1 k HLM_REFUSED) l.addr.toNat 48 e 0)))
    ∧ (newLine s l = true → dKind l = 2 →
      (∀ c x, cancelTarget s1 (dReqid l) = some (c, x) → exec (.cancel l) s =
        .next (writeAck (rbump (putCtx s1 c (some { x with cancelled := true })) k HLM_CANCELS) l.addr.toNat 48 1 0))
      ∧ (cancelTarget s1 (dReqid l) = none → exec (.cancel l) s =
        .next (writeAck (rbump s1 k HLM_LATE) l.addr.toNat 48 2 0)))
    ∧ (newLine s l = false → exec (.submit l toks) s = .next s ∧ exec (.cancel l) s = .next s
        ∧ exec (.adapterPublish l) s = .next s ∧ exec (.adapterRetire l) s = .next s
        ∧ exec (.berthDisable l) s = .next s)

/-- R263, R265, R283: a new ADAPTER_PUBLISH of a STAGED version slot of the adapter and the berth's model makes it
CURRENT and the former one SUPERSEDED; ADAPTER_RETIRE leaves the adapter without a current version; BERTH_DISABLE of
an enabled berth begins to disable it, and ends it at once between steps. Each refused descriptor is answered with its
code. The model's own choices it rests on: notes/assumptions/35.md and notes/assumptions/46.md. -/
def Obligations.AdaptersAndDisable : Prop :=
  ∀ (s : State) (l : Line), newLine s l = true →
    let s1 := observed s l
    let a := l.addr.toNat
    (dKind l = 3 → dBerth l < 16 → dAdapter l ≤ 4095 → berthState s1 (dBerth l) = 1 →
      ∀ x im, vslotAt s1 (dStop l) = some x → x.st = .staged → x.adapter = dAdapter l →
        (berthOf s1 (dBerth l)).image = some im → im.name.2.1 = x.model →
        ∃ s2, exec (.adapterPublish l) s = .next (writeAck s2 a 48 1 0)
          ∧ vslotAt s2 (dStop l) = some { x with st := .current }
          ∧ currentSlot s2 (dAdapter l) = some (dStop l)
          ∧ (∀ b, b ≠ dAdapter l → currentSlot s2 b = currentSlot s1 b)
          ∧ (∀ v y, currentSlot s1 (dAdapter l) = some v → v ≠ dStop l → vslotAt s1 v = some y →
              vslotAt s2 v = some { y with st := .superseded })
          ∧ changesOnly [.serve] s1 s2)
    ∧ (dKind l = 3 → (16 ≤ dBerth l ∨ 4095 < dAdapter l) → exec (.adapterPublish l) s = .next (writeAck s1 a 48 3 0))
    ∧ (dKind l = 3 → dBerth l < 16 → dAdapter l ≤ 4095 → berthState s1 (dBerth l) ≠ 1 →
        exec (.adapterPublish l) s = .next (writeAck s1 a 48 4 0))
    ∧ (dKind l = 4 → (∀ v, currentSlot s1 (dAdapter l) = some v →
        ∃ s2, exec (.adapterRetire l) s = .next (writeAck s2 a 48 1 0)
          ∧ currentSlot s2 (dAdapter l) = none
          ∧ (∀ y, vslotAt s1 v = some y → vslotAt s2 v = some { y with st := .superseded })
          ∧ changesOnly [.serve] s1 s2)
      ∧ (currentSlot s1 (dAdapter l) = none → exec (.adapterRetire l) s = .next (writeAck s1 a 48 7 0)))
    ∧ (dKind l = 5 → dBerth l < 16 → berthState s1 (dBerth l) = 1 →
        let b := dBerth l
        ∃ s2, berthState s2 b = 2 ∧ regsBut [(leadStk s1, 0x30040 + 4 * b)] s1 s2
          ∧ s2.serve = (putBerth s1 b { berthOf s1 b with disableAt := some (stepLimit s1 b), disableLine := some l.addr }).serve
          ∧ exec (.berthDisable l) s = .next (if (berthOf s1 b).step = .idle then closeBerth s2 b else s2))
    ∧ (dKind l = 5 → 16 ≤ dBerth l → exec (.berthDisable l) s = .next (writeAck s1 a 48 3 0))
    ∧ (dKind l = 5 → dBerth l < 16 → berthState s1 (dBerth l) ≠ 1 → exec (.berthDisable l) s = .next (writeAck s1 a 48 4 0))

/-- R260, R267, R369, R370: a watch notice has the lead Helm read its line again; the host's return index is taken and
held reports are written while the ring has room; HLM_CTL.EN's first setting reads every watched line; HLM_LOCK locks.
The model's own choices it rests on: notes/assumptions/35.md, notes/assumptions/44.md and notes/assumptions/46.md. -/
def Obligations.HelmLines : Prop :=
  ∀ (s : State),
    (∀ l : Line, leadOf s ≠ none → l.addr.toNat % 64 = 0 → (watchedLines s).contains l.addr.toNat = true →
      exec (.watchNotice l) s = .next (watchRead
        { s with serve := { s.serve with notices := s.serve.notices.filter fun x => x.toNat != l.addr.toNat } } l.addr.toNat))
    ∧ (∀ idx : Word, ∃ s', exec (.returnLine idx) s = .next s'
        ∧ s' = (List.range 16).foldl releaseHeld { s with serve := { s.serve with returned := idx } }
        ∧ ((∀ b, b < 16 → (berthOf s b).held = []) → s' = { s with serve := { s.serve with returned := idx } }))
    ∧ (∀ k, leadOf s = some k →
        (∃ s', exec (.helmEn false) s = .next s' ∧ rget s' k HLM_CTL_EN = 0
          ∧ rget s' k HLM_CTL_LOCK = rget s k HLM_CTL_LOCK
          ∧ regsBut [(k, HLM_CTL_EN.off)] s s' ∧ changesOnly [.regs] s s')
        ∧ (ron s k HLM_CTL_EN = true → ∃ s', exec (.helmEn true) s = .next s' ∧ rget s' k HLM_CTL_EN = 1
          ∧ regsBut [(k, HLM_CTL_EN.off)] s s' ∧ changesOnly [.regs] s s')
        ∧ (ron s k HLM_CTL_EN = false → ∃ s1, rget s1 k HLM_CTL_EN = 1 ∧ regsBut [(k, HLM_CTL_EN.off)] s s1
          ∧ changesOnly [.regs] s s1
          ∧ exec (.helmEn true) s = .next ((watchedLines s1).foldl (fun s a => if watchable s a then watchRead s a else s) s1))
        ∧ (∃ s', exec .hlmLock s = .next s' ∧ rget s' k HLM_CTL_LOCK = 1 ∧ rget s' k HLM_CTL_EN = rget s k HLM_CTL_EN
          ∧ regsBut [(k, HLM_CTL_LOCK.off)] s s' ∧ changesOnly [.regs] s s'))

/-- R254, R257, R265, R349, R350, R439, R440: an idle watch pays 100 of a berth's debt and puts its next step one
whole watch off; a step boundary of an enabled berth whose tiles are loaded and whose last report is written starts
its step; a stack that has all its tiles' arrivals takes part in the commit, the last one with the lead Helm's
arrival; the host module's commit waypoint releases, with the release record to the others, and commits the step; a
release record commits it elsewhere; a disabled berth's step that has not committed by STEPTO is given up. The model's
own choices it rests on: notes/assumptions/38.md and notes/assumptions/48.md. -/
def Obligations.StepsAndCommits : Prop :=
  ∀ (s : State) (b : BitVec 4) (first : Word), machineSafe s = true →
    let n := b.toNat
    (berthState s n = 1 → (berthOf s n).step = .idle → (berthOf s n).rptwait = false → loadsHalted s n = true →
      (100 ≤ (berthOf s n).debt → ∃ s', exec (.stepBoundary b) s = .next s'
        ∧ berthOf s' n = { berthOf s n with
            debt := (berthOf s n).debt - 100
            lastStep := some (firstWatch s n + 1 - BitVec.ofNat 32 (rget s (leadStk s) HLM_BERTH_WPS n)) }
        ∧ (laterWatch (firstWatch s n + 1) (watchNo s + 1) = true → firstWatch s' n = firstWatch s n + 1)
        ∧ (∀ m, m ≠ n → berthOf s' m = berthOf s m)
        ∧ rget s' 0 BNC_IDLEW = (rget s 0 BNC_IDLEW + 1) % 2 ^ 32 ∧ regsBut [(0, BNC_IDLEW.off)] s s'
        ∧ changesOnly [.regs, .serve] s s')
      ∧ ((berthOf s n).debt < 100 → berthState (shapeBerth s n) n = 1 → loadsHalted (shapeBerth s n) n = true →
        ∃ s2 s3, exec (.stepBoundary b) s = .next (applyCharged s3 n) ∧ changesOnly [.serve] s2 s3
          ∧ (berthOf s3 n).step = .running (firstWatch s2 n) ∧ (berthOf s3 n).lastStep = some (firstWatch s2 n)
          ∧ (berthOf s3 n).arrived = false ∧ (berthOf s3 n).released = []))
    ∧ (∀ k : BitVec 3, (berthOf s n).step = .running first →
        (helmCounter s k.toNat (32 + n)).expect ≤ (helmCounter s k.toNat (32 + n)).count →
        (berthStacks s n).contains k.toNat = true → (berthOf s n).released.contains k = false →
        ∃ s', exec (.stackCommitRelease k b) s = .next s'
          ∧ helmCounter s' k.toNat (32 + n) = { helmCounter s k.toNat (32 + n) with
              count := (helmCounter s k.toNat (32 + n)).count - (helmCounter s k.toNat (32 + n)).expect, vmax := 0 }
          ∧ (berthOf s' n).released = k :: (berthOf s n).released
          ∧ regsBut [(0, FLT_NOROUTE.off)] s s' ∧ changesOnly [.regs, .stk, .serve] s s')
    ∧ ((berthOf s n).step = .running first → hostModule s n = moduleNo s → (berthOf s n).arrived = true →
        (helmCounter s (leadStk s) n).expect ≤ (helmCounter s (leadStk s) n).count →
        let c := helmCounter s (leadStk s) n
        let s1 := sendHelm (releaseHelm s (leadStk s) n)
          ((otherModules s n).map fun m => .release m n (lastWatch s n first) (BitVec.ofNat 16 c.vmax))
        exec (.commitPoint b) s = .next (commitBerth (putBerth s1 n { berthOf s1 n with allReady := c.vmax % 2 == 0 }) n))
    ∧ (∀ vmax : Half, (berthOf s n).step = .running first → hostModule s n ≠ moduleNo s → (berthOf s n).arrived = true →
        exec (.releaseRecord b (lastWatch s n first) vmax) s =
          .next (commitBerth (putBerth s n { berthOf s n with allReady := vmax.toNat % 2 == 0 }) n))
    ∧ (∀ w, (berthOf s n).disableAt = some w → berthState s n = 2 → (berthOf s n).step ≠ .idle →
        (watchNo s - w).toNat < 2 ^ 31 →
        exec (.stepTimeout b) s = .next (closeBerth (stopTiles (countEvent s) n) n))

/-! ### Images -/

namespace Sys2Proof.Claims

/-- The machine once a new image command has been taken: its HSEQ is kept, and HLM_IMG_STATUS shows OP and full progress.
-/
def imageTaken (s : State) (l : Line) (op : Nat) : State :=
  rput (rput (markLine s l) (leadStk s) HLM_IMG_STATUS_OP op) (leadStk s) HLM_IMG_STATUS_PROGRESS 100

/-- A new image command on the image line, with its operands in range, while no other runs (R276, Table 11.5). -/
def imageLine (s : State) (l : Line) (op : Nat) : Prop :=
  newLine s l = true ∧ l.addr.toNat = cplBase s + 1088 ∧ lineField l 0 1 = op ∧ imgLineLegal l = true
    ∧ ron s (leadStk s) HLM_IMG_STATUS_BUSY = false

/-- The command ends with machine `t`, CODE and DETAIL: its ACK is written in the line (R276). -/
def acked (l : Line) (t : State) (code detail : Nat) (out : Host.Outcome State Fault Refusal) : Prop :=
  out = .next (writeAck t l.addr.toNat 40 code (detail * 65536))

/-- The catalogue has sequence numbers left for two more records (R274). -/
def seqRoom (s : State) : Prop := ∀ x ∈ s.img.catalogue, x.seq + 2 < 2 ^ 32

/-- Every stored byte of an image has been covered by a chunk (R275). -/
def coveredAll (d : SlotData) (r : Reader) (m : Nat) : Prop :=
  ∀ q ∈ storedNeeds r m, q.2 ≤ mapGet (fun _ => 0) d.covered q.1

end Sys2Proof.Claims

/-- R273, R275, R276: PROGRAM_BEGIN opens a slot that is not ACTIVE as INCOMPLETE and empty; PROGRAM_CHUNK writes its
bytes there, and it and PROGRAM_END refuse a slot whose PROGRAM_BEGIN came before the last reset (R429); PROGRAM_END of a covered slot whose signature, form and digests hold makes it VERIFIED, and otherwise
answers why not, with the lowest 4 KiB index that a chunk left out; ACTIVATE makes a usable slot ACTIVE and the other of
its name VERIFIED; ERASE empties a slot that is not ACTIVE; BOOTSET writes the berth's boot record. A NAND error answers
MEDIA and changes nothing more. The model's own choices it rests on: notes/assumptions/85.md (a record's CRC). -/
def Sys2Proof.Claims.ImageStoreCommands : Prop :=
  ∀ (s : State) (l : Line) (bytes : List Byte), seqRoom s →
    let n := lineName l
    let i := lineSlot l
    let len := lineField l 32 8
    let off := lineField l 24 8
    (imageLine s l 1 → i < 2 →
      let s1 := imageTaken s l 1
      (slotState s1 n i ≠ .active → storeUsed s1 n i + len ≤ 2 ^ 44 →
        ((storeNames s1).contains n = true ∨ (storeNames s1).length < 8192) →
        (∃ t, acked l t 1 0 (exec (.programBegin ⟨l, false⟩) s) ∧ slotState t n i = .incomplete
          ∧ slotData t n i = some ⟨[], []⟩ ∧ programming t n i = true ∧ changesOnly [.img] s1 t)
        ∧ acked l s1 14 0 (exec (.programBegin ⟨l, true⟩) s))
      ∧ (slotState s1 n i = .active → acked l s1 10 0 (exec (.programBegin ⟨l, false⟩) s)))
    ∧ (imageLine s l 2 → i < 2 →
      let s1 := imageTaken s l 2
      ∀ cat d, catOf s1 n i = some cat → slotData s1 n i = some d →
        (programming s1 n i = false → acked l s1 10 0 (exec (.programChunk ⟨l, false⟩ bytes) s))
        ∧ (cat.st = .incomplete → programming s1 n i = true →
        (off % 4096 = 0 → len ≤ 2 ^ 26 → off + len ≤ cat.length →
          (∃ t d1, acked l t 1 0 (exec (.programChunk ⟨l, false⟩ bytes) s) ∧ slotData t n i = some d1
            ∧ d1.bytes = memWrite d.bytes off (bytes.take len)
            ∧ (∀ x, mapGet (fun _ => 0) d1.covered x = max (mapGet (fun _ => 0) d.covered x)
                (if off / 4096 ≤ x then min 4096 (off + len - 4096 * x) else 0))
            ∧ changesOnly [.img] s1 t)
          ∧ acked l s1 14 0 (exec (.programChunk ⟨l, true⟩ bytes) s))
        ∧ (off % 4096 ≠ 0 → acked l s1 3 0 (exec (.programChunk ⟨l, false⟩ bytes) s))))
    ∧ (imageLine s l 3 → i < 2 →
      let s1 := imageTaken s l 3
      ∀ cat d, catOf s1 n i = some cat → slotData s1 n i = some d →
        (programming s1 n i = false → acked l s1 10 0 (exec (.programEnd ⟨l, false⟩) s))
        ∧ (cat.st = .incomplete → programming s1 n i = true →
        let r := memReader d.bytes
        (∀ q ∈ storedNeeds r cat.modidx, mapGet (fun _ => 0) d.covered q.1 < q.2 →
          (∀ y ∈ storedNeeds r cat.modidx, mapGet (fun _ => 0) d.covered y.1 < y.2 → q.1 ≤ y.1) →
          acked l s1 3 q.1 (exec (.programEnd ⟨l, false⟩) s))
        ∧ (coveredAll d r cat.modidx → signatureGood s1 r = true →
            imageShape r = true → rdNat r 6 1 = n.1 → rdNat r 8 2 = n.2.1 → rdNat r 10 2 = n.2.2 →
            (shardsOf r cat.modidx).all (shardShape r) = true →
            (shardsOf r cat.modidx).find? (fun e => !shardGood r e) = none →
            (∃ t, acked l t 1 0 (exec (.programEnd ⟨l, false⟩) s) ∧ slotState t n i = .verified
              ∧ slotData t n i = some (keepStored d (storedIndexes r cat.modidx)) ∧ changesOnly [.img, .regs] s1 t)
            ∧ acked l s1 14 0 (exec (.programEnd ⟨l, true⟩) s))))
    ∧ (imageLine s l 4 → i < 2 →
      let s1 := imageTaken s l 4
      (slotUsable s1 n i = true → (∃ t, acked l t 1 0 (exec (.activate ⟨l, false⟩) s) ∧ slotState t n i = .active
        ∧ (slotState s1 n (1 - i) = .active → slotState t n (1 - i) = .verified) ∧ changesOnly [.img] s1 t)
        ∧ acked l s1 14 0 (exec (.activate ⟨l, true⟩) s))
      ∧ (slotUsable s1 n i = false → acked l s1 10 0 (exec (.activate ⟨l, false⟩) s)))
    ∧ (imageLine s l 5 → i < 2 →
      let s1 := imageTaken s l 5
      (slotState s1 n i = .active → acked l s1 10 0 (exec (.erase ⟨l, false⟩) s))
      ∧ (slotState s1 n i ≠ .active → (∃ t, acked l t 1 0 (exec (.erase ⟨l, false⟩) s) ∧ slotState t n i = .empty
          ∧ changesOnly [.img] s1 t)
          ∧ acked l s1 14 0 (exec (.erase ⟨l, true⟩) s)))
    ∧ (imageLine s l 9 →
      let s1 := imageTaken s l 9
      ∀ j, resolveSlot s1 n i = some j → lineField l 1 1 = 1 →
        (slotUsable s1 n j = true → (∃ t, acked l t 1 0 (exec (.bootset ⟨l, false⟩) s)
          ∧ mapGet (fun _ => none) t.img.boots (lineBerth l) = some ⟨n, j⟩ ∧ changesOnly [.img] s1 t)
          ∧ acked l s1 14 0 (exec (.bootset ⟨l, true⟩) s))
        ∧ (slotUsable s1 n j = false → acked l s1 10 0 (exec (.bootset ⟨l, false⟩) s)))

/-- R277, R279, R280, R282, R284, R336: LOAD of a usable base image into the free area of a disabled or fenced berth, whose
checks and staging succeed, places it in the berth with its spares and counts HLM_LOADS, or, of a berth that spans
modules, awaits the others' versions; REPLACE arms a crossing of the running berth; STAGE_ADAPTER stages a version slot.
A berth in another state answers 15, a slot that is not usable 10, and a NAND error 14. -/
def Sys2Proof.Claims.ImageLoadCommands : Prop :=
  ∀ (s : State) (l : Line) (j : Nat) (cat : CatRec) (data : SlotData),
    let n := lineName l
    let b := lineBerth l
    let r := memReader data.bytes
    let m := cat.modidx
    (imageLine s l 6 →
      let s1 := imageTaken s l 6
      let h := 1 - (berthOf s1 b).live
      resolveSlot s1 n (lineSlot l) = some j →
      (berthState s1 b ≠ 0 → berthState s1 b ≠ 3 → acked l s1 15 0 (exec (.load ⟨l, false⟩) s))
      ∧ (berthState s1 b = 0 ∨ berthState s1 b = 3 → catOf s1 n j = some cat → slotData s1 n j = some data →
          (slotUsable s1 n j = false → acked l s1 10 0 (exec (.load ⟨l, false⟩) s))
          ∧ (slotUsable s1 n j = true → n.1 = 1 → rdNat r 22 2 ≤ Config.tilesPerStack → moduleMatches s1 r m = true →
              (∀ s2 e, checkModel s1 r m b h = (s2, .error e) → 1 < e.1 → acked l s2 e.1 e.2 (exec (.load ⟨l, false⟩) s))
              ∧ ∀ s2 d sp s3, checkModel s1 r m b h = (s2, .ok d) → fitsModule s2 b d = some sp →
                stageModel s2 r m b h d = (s3, none) →
                (d.steady.modules.length ≤ 1 →
                  acked l (rbump (placeImage s3 b (imageIn n j h r d) sp) (leadStk s3) HLM_LOADS) 1 0 (exec (.load ⟨l, false⟩) s)
                  ∧ acked l s1 14 0 (exec (.load ⟨l, true⟩) s))
                ∧ (1 < d.steady.modules.length →
                  let s4 := putBerth s3 b { berthOf s3 b with next := some (imageIn n j h r d), spares := sp }
                  let host := lowestOf s3 d.steady.modules
                  exec (.load ⟨l, false⟩) s = .next (awaitVersions
                    (if host = moduleNo s3 then s4 else sendHelm s4 [.version host b (rdNat r 12 4)]) b l.addr)))))
    ∧ (imageLine s l 8 →
      let s1 := imageTaken s l 8
      resolveSlot s1 n (lineSlot l) = some j →
      ∀ old, (berthOf s1 b).image = some old → catOf s1 n j = some cat → slotData s1 n j = some data →
        (berthState s1 b ≠ 1 ∨ xingPhase s1 ≠ 0 → acked l s1 15 0 (exec (.replace ⟨l, false⟩) s))
        ∧ (berthState s1 b = 1 → xingPhase s1 = 0 → slotUsable s1 n j = true → n.1 = 1 → n.2.1 = old.name.2.1 →
            rdNat r 7 1 = 1 → rdNat r 16 4 = rget s1 (leadStk s1) HLM_BVER_VERSION b →
            rdNat r 22 2 ≤ Config.tilesPerStack → moduleMatches s1 r m = true →
            ∀ s2 d sp s3, checkModel s1 r m b (1 - old.area) = (s2, .ok d) → crossingFits old.steady d = true →
              fitsModule s2 b d = some sp → stageModel s2 r m b (1 - old.area) d = (s3, none) →
              b < s3.serve.berths.length →
              (∃ t, acked l t 1 0 (exec (.replace ⟨l, false⟩) s)
                ∧ (berthOf t b).next = some (imageIn n j (1 - old.area) r d)
                ∧ (berthOf t b).image = (berthOf s3 b).image
                ∧ (∀ q, q ∈ (berthOf t b).spares ↔ q ∈ (berthOf s3 b).spares ∨ q ∈ sp)
                ∧ xingPhase t = 1 ∧ xingBerth t = b
                ∧ rget t (leadStk s3) HLM_EVENT_EVENT = (rget s3 (leadStk s3) HLM_EVENT_EVENT + 1) % 2 ^ 32
                ∧ changesOnly [.regs, .serve] s3 t)
              ∧ acked l s1 14 0 (exec (.replace ⟨l, true⟩) s)))
    ∧ (imageLine s l 7 →
      let s1 := imageTaken s l 7
      let v := lineField l 12 2
      resolveSlot s1 n (lineSlot l) = some j → catOf s1 n j = some cat → slotData s1 n j = some data →
      v < rget s1 (leadStk s1) HLM_ADP_CFG_COUNT →
      (vslotAt s1 v ≠ none → acked l s1 10 0 (exec (.stageAdapter ⟨l, false⟩) s))
      ∧ (vslotAt s1 v = none → slotUsable s1 n j = true → n.1 = 2 → moduleMatches s1 r m = true →
          (directory r).any (fun e => rget s1 (leadStk s1) HLM_ADP_CFG_SIZE * 65536 < e.stage) = false →
          overlapsChart s1 (imageStacks r m) (vslotBase s1 v) (rget s1 (leadStk s1) HLM_ADP_CFG_SIZE * 65536) = false →
          (checkImage s1 r).2 = true → imageShape r = true → (shardsOf r m).all (shardShape r) = true →
          (stageAll (checkImage s1 r).1 r m (vslotBase s1 v)).2 = none →
          (∃ t, acked l t 1 0 (exec (.stageAdapter ⟨l, false⟩) s)
            ∧ vslotAt t v = some ⟨.staged, n.2.2, n.2.1, rdNat r 12 4⟩
            ∧ changesOnly [.serve] (stageAll (checkImage s1 r).1 r m (vslotBase s1 v)).1 t)
          ∧ acked l s1 14 0 (exec (.stageAdapter ⟨l, true⟩) s)))

/-- The commands of the image line (R273, R275 to R277, R279, R280, R282, R284). The model's own choices it rests on:
notes/assumptions/32.md, notes/assumptions/33.md, notes/assumptions/34.md and notes/assumptions/85.md. -/
def Obligations.ImageCommands : Prop :=
  Sys2Proof.Claims.ImageStoreCommands ∧ Sys2Proof.Claims.ImageLoadCommands

/-! ### Fleet ports -/

namespace Sys2Proof.Claims

/-- The register FLT_PORT_n of port `p`, by stack and offset (Table 13.11). -/
def portWord (p : Nat) : Nat × Nat := (portStack p, 0x100040 + 4 * (p % 4))

end Sys2Proof.Claims

/-- R312: EN of a port whose link die is released: 0 leaves it DOWN, without cause or neighbour, and unlocks it. From DOWN
a receiver takes it to EQ, equalisation to ALIGN, a lock of the FEC to IDENT; a limit exceeded takes it DOWN, and the
third failed attempt in a row leaves it DOWN until EN is written again. With the last port that trains a discovery's
training ends, and its own hail is sent (R337; the model's own choice, notes/assumptions/107.md). -/
def Sys2Proof.Claims.FleetPortTraining : Prop :=
  ∀ (s : State) (p : BitVec 4), machineSafe s = true →
    let n := p.toNat
    (portReach s n = true →
      (∃ t, exec (.portEn p true) s = .next (endTraining t) ∧ pget t n FLT_PORT_EN = 1
        ∧ pget t n FLT_PORT_STATE = pget s n FLT_PORT_STATE
        ∧ regsBut [portWord n] s t ∧ changesOnly [.regs] s t)
      ∧ (∃ t, exec (.portEn p false) s = .next (endTraining t) ∧ pget t n FLT_PORT_EN = 0 ∧ pget t n FLT_PORT_STATE = 0
        ∧ pget t n FLT_PORT_CAUSE = 0 ∧ pget t n FLT_PORT_NBRVALID = 0 ∧ (portOf t n).attempts = 0
        ∧ (portOf t n).locked = false ∧ changesOnly [.regs, .net, .fleet] s t
        ∧ (pget s n FLT_PORT_STATE ≠ 4 → regsBut [portWord n] s t ∧ t.net = s.net))
      ∧ (pget s n FLT_PORT_EN = 1 → pget s n FLT_PORT_STATE = 0 → (portOf s n).locked = false →
        ∃ t, exec (.receiverDetect p) s = .next t ∧ pget t n FLT_PORT_STATE = 1 ∧ pget t n FLT_PORT_EN = 1
          ∧ regsBut [portWord n] s t ∧ changesOnly [.regs] s t))
    ∧ (pget s n FLT_PORT_STATE = 1 → ∃ t, exec (.equalisationDone p) s = .next t ∧ pget t n FLT_PORT_STATE = 2
        ∧ portOf t n = { portOf s n with eqStored := true } ∧ (∀ m, m ≠ n → portOf t m = portOf s m)
        ∧ regsBut [portWord n] s t ∧ changesOnly [.regs, .fleet] s t)
    ∧ (pget s n FLT_PORT_STATE = 2 → ∃ t, exec (.fecLock p) s = .next t ∧ pget t n FLT_PORT_STATE = 3
        ∧ portOf t n = { portOf s n with sentId := some (ownIdentity s n) } ∧ (∀ m, m ≠ n → portOf t m = portOf s m)
        ∧ regsBut [portWord n] s t ∧ changesOnly [.regs, .fleet] s t)
    ∧ (1 ≤ pget s n FLT_PORT_STATE → pget s n FLT_PORT_STATE ≤ 3 → (portOf s n).retrain = false →
        ∀ lanes, ∃ t, exec (.trainingLimit p lanes) s = .next (endTraining t) ∧ pget t n FLT_PORT_STATE = 0
          ∧ (portOf t n).attempts = (portOf s n).attempts + 1
          ∧ ((portOf s n).attempts < 2 → (portOf t n).locked = (portOf s n).locked
              ∧ pget t n FLT_PORT_CAUSE = limitCause (pget s n FLT_PORT_STATE) (pget s n FLT_PORT_CAUSE) ∧ t.log = s.log)
          ∧ (2 ≤ (portOf s n).attempts → (portOf t n).locked = true ∧ pget t n FLT_PORT_CAUSE = 6
              ∧ t.log = { s.log with extra := s.log.extra ++ [(8, s.tick)] })
          ∧ regsBut [portWord n] s t ∧ changesOnly [.regs, .fleet, .log] s t)
    ∧ (∀ u : State, (rget u 0 FLT_STATUS_DISC ≠ 1 ∨ portsTrain u = true → endTraining u = u)
        ∧ (rget u 0 FLT_STATUS_DISC = 1 → portsTrain u = false → ∃ u1, u1 = fltAll u FLT_STATUS_DISC 2
          ∧ rget (endTraining u) 0 FLT_STATUS_DISC = 2 ∧ (endTraining u).fleet.lastNew = u.tick
          ∧ (endTraining u).fleet.hails = ownHail u1 :: u1.fleet.hails.filter (fun r => r.serial != ownSerial u1)
          ∧ (endTraining u).fleet.sentHails = u.fleet.sentHails ++ (upPorts u1).map (fun q => (q, ownHail u1))
          ∧ changesOnly [.regs, .fleet] u (endTraining u)))

/-- R311, R314, R315, R325, R337: an identity frame in IDENT brings the port UP at the highest revision both offer, with
its neighbour, or leaves it REFUSED with the cause: its own serial, no common revision, or another epoch. A frame
whose CRC fails asks for a replay and accepts nothing, and so does one out of sequence; a good one is accepted: with a packet whole the network takes it, a register access or a
control packet for another module goes on by the routing tables (R326). A port that comes UP in a discovery is sent this
module's record (R316). COMMIT
has the routing table wait for the next watch; LOCK locks the die's block. The model's own choices it rests on:
notes/assumptions/51.md. -/
def Sys2Proof.Claims.FleetLinkFrames : Prop :=
  ∀ (s : State) (p : BitVec 4), machineSafe s = true →
    let n := p.toNat
    (pget s n FLT_PORT_STATE = 3 → ∀ f : Identity,
      let neg := min f.revMax.toNat (rget s 0 FLT_REV_REVMAX)
      let refused := fun (c : Nat) => ∃ t, exec (.identityFrame p f) s = .next (endTraining t) ∧ pget t n FLT_PORT_STATE = 5
        ∧ pget t n FLT_PORT_CAUSE = c ∧ (portOf t n).locked = true ∧ regsBut [portWord n] s t
        ∧ changesOnly [.regs, .fleet, .log] s t
      (f.serial = s.lsr.fuses.serial → refused 4)
      ∧ (f.serial ≠ s.lsr.fuses.serial → neg < max f.revMin.toNat (rget s 0 FLT_REV_REVMIN) → refused 3)
      ∧ (f.serial ≠ s.lsr.fuses.serial → max f.revMin.toNat (rget s 0 FLT_REV_REVMIN) ≤ neg →
          rget s 0 CHR_EPOCH_EPOCH ≠ 0 → f.epoch.toNat ≠ 0 → rget s 0 CHR_EPOCH_EPOCH ≠ f.epoch.toNat → refused 5)
      ∧ (f.serial ≠ s.lsr.fuses.serial → max f.revMin.toNat (rget s 0 FLT_REV_REVMIN) ≤ neg →
          (rget s 0 CHR_EPOCH_EPOCH = 0 ∨ f.epoch.toNat = 0 ∨ rget s 0 CHR_EPOCH_EPOCH = f.epoch.toNat) →
          ∃ s1 t, exec (.identityFrame p f) s = .next (if pget t n FLT_PORT_STATE = 4 then portUp t n else endTraining t)
            ∧ t = (revFaults s1 n neg).foldl (fun s b => berthFault s b 9 0 0 0) s1
            ∧ pget s1 n FLT_PORT_STATE = 4 ∧ pget s1 n FLT_PORT_NEGREV = neg % 256 ∧ pget s1 n FLT_PORT_NBRVALID = 1
            ∧ (∀ x, numberOf s.fleet.numbers f.serial = some x → pget s1 n FLT_PORT_NBRMOD = x.toNat)
            ∧ (portOf s1 n).nbr = f.serial ∧ (portOf s1 n).attempts = 0
            ∧ (∀ m, m < 16 → m ≠ n → pget s1 m FLT_PORT_STATE = pget s m FLT_PORT_STATE)
            ∧ regsBut ((List.range 16).map portWord ++ [(0, FLT_REV_FLEETREV.off)]) s s1 ∧ changesOnly [.regs, .fleet] s s1
            ∧ (rget t 0 FLT_STATUS_DISC = 2 ∨ rget t 0 FLT_STATUS_DISC = 3 →
                (portUp t n).fleet.sentHails = t.fleet.sentHails ++ [(n, ownHail t)] ∧ changesOnly [.fleet] t (portUp t n))))
    ∧ (pget s n FLT_PORT_STATE = 4 → ∀ f : Sys2Proof.Frame,
      (frameGood f = false → f.fecLanes = 0 → ∃ t, exec (.fleetFrame p f) s = .next t
        ∧ portOf t n = { portOf s n with nak := true } ∧ (∀ m, m ≠ n → portOf t m = portOf s m)
        ∧ changesOnly [.fleet] s t)
      ∧ (frameGood f = true → f.trailer.toNat % 4096 ≠ (portOf s n).rxSeq → ∃ t, exec (.fleetFrame p f) s = .next t
        ∧ portOf t n = { portOf s n with nak := true } ∧ (∀ m, m ≠ n → portOf t m = portOf s m)
        ∧ changesOnly [.fleet] s t)
      ∧ (frameGood f = true → f.trailer.toNat % 4096 = (portOf s n).rxSeq →
          let s1 := putPort s n { portOf s n with rxSeq := ((portOf s n).rxSeq + 1) % 4096, nak := false, heard := true }
          let fl := (portOf s n).flits ++ [f.flit]
          ∃ t, exec (.fleetFrame p f) s = .next t ∧ t = acceptFlit (takeAck s1 n f.trailer) n f.flit
            ∧ (∀ s2, s2 = takeAck s1 n f.trailer →
                (portOf s2 n).rxSeq = ((portOf s n).rxSeq + 1) % 4096 ∧ (portOf s2 n).nak = false ∧ s2.net = s.net
                ∧ (headPacket n fl = none → t = putPort s2 n { portOf s2 n with flits := fl })
                ∧ (∀ rest, headPacket n fl = some (none, rest) → t = putPort s2 n { portOf s2 n with flits := rest })
                ∧ (∀ q rest, headPacket n fl = some (some q, rest) →
                  let s3 := putPort s2 n { portOf s2 n with flits := rest }
                  (q.op = .hail ∨ q.op = .numbers → t = s3)
                  ∧ (q.op ≠ .hail → q.op ≠ .numbers →
                    let away := addrModule q.dest ≠ moduleNo s3 ∧ (q.op = .regAccess ∨ q.op = .control)
                    (away → t = routeOut s3 q (addrModule q.dest).toNat)
                    ∧ (¬ away → t.net = s.net ++ [q] ∧ t.fleet = s3.fleet ∧ changesOnly [.net, .regs] s3 t
                        ∧ (portToPort s3 q = true → t.regs = s3.regs)))))))
    ∧ (portReach s 0 = true → ∃ t, exec .commit s = .next t ∧ rget t 0 FLT_RT_CTL_PENDING = 1
        ∧ rget t 0 FLT_RT_CTL_LIVE = rget s 0 FLT_RT_CTL_LIVE ∧ t.fleet = s.fleet
        ∧ regsBut [(0, FLT_RT_CTL_PENDING.off)] s t ∧ changesOnly [.regs] s t)
    ∧ (∀ d : BitVec 2, portReach s (4 * d.toNat) = true → ∃ t, exec (.fltLock d) s = .next t
        ∧ rget t (dieStack d.toNat) FLT_CTL_LOCK = 1
        ∧ rget t (dieStack d.toNat) FLT_CTL_FLEET_EN = rget s (dieStack d.toNat) FLT_CTL_FLEET_EN
        ∧ regsBut [(dieStack d.toNat, FLT_CTL_LOCK.off)] s t ∧ changesOnly [.regs] s t)

/-- The training of a fleet port and the frames it takes (R311, R312, R314, R315, R325, R337). The model's own choices
it rests on: notes/assumptions/51.md, notes/assumptions/87.md, notes/assumptions/107.md and notes/assumptions/108.md. -/
def Obligations.FleetPorts : Prop :=
  Sys2Proof.Claims.FleetPortTraining ∧ Sys2Proof.Claims.FleetLinkFrames

/-- R316 to R319, R337: DISCOVER begins a new ROUND, with the number held before as HINT and no advances counted, in
DISC 1 while ports still train and else in DISC 2 with its own hail sent; a hail record of an earlier round, or one
already held, changes nothing, a new one is held and forwarded, and a higher ROUND is adopted, in the discovery that
runs or as the start of one; once 10 ms brought nothing new, the module with the lowest serial numbers the fleet and
any other awaits the numbers; a numbers record that matches the view is accepted and forwarded, and one that does not
advances ROUND. With FLEET_EN 0 none of these changes anything (the model's own choice, notes/assumptions/89.md; when
DISC shows 1, notes/assumptions/107.md). The model's own choices it rests on: notes/assumptions/37.md,
notes/assumptions/89.md and notes/assumptions/107.md. -/
def Obligations.FleetDiscovery : Prop :=
  ∀ (s : State) (p : BitVec 4),
    (fleetOn s = false → exec .discover s = .next s ∧ (∀ r, exec (.hail p r) s = .next s)
      ∧ ∀ r, exec (.numbers p r) s = .next s)
    ∧ (portReach s 0 = true → fleetOn s = true → ∃ s1 t, exec .discover s = .next t
      ∧ s1.fleet.advances = 0 ∧ s1.fleet.hails = []
      ∧ (portsTrain s = false → t = hailAgain s1 ∧ t.fleet.hails = [ownHail s1] ∧ rget s1 0 FLT_STATUS_DISC = 2)
      ∧ (portsTrain s = true → t = s1 ∧ rget s1 0 FLT_STATUS_DISC = 1)
      ∧ changesOnly [.regs, .fleet] s s1
      ∧ (ron s 0 FLT_MOD_VALID = true → rget s1 0 FLT_MOD_HINT = (moduleNo s).toNat)
      ∧ rget s1 0 FLT_STATUS_ROUND = (rget s 0 FLT_STATUS_ROUND + 1) % 256 ∧ rget s1 0 CHR_STATUS_HOLDOVER = 0)
    ∧ (pget s p.toNat FLT_PORT_STATE = 4 → fleetOn s = true → ∀ r : HailRec,
      (r.round.toNat < rget s 0 FLT_STATUS_ROUND → exec (.hail p r) s = .next s)
      ∧ (r.round.toNat = rget s 0 FLT_STATUS_ROUND →
          ((s.fleet.hails.any fun x => x.serial == r.serial) = true → exec (.hail p r) s = .next s)
          ∧ ((s.fleet.hails.any fun x => x.serial == r.serial) = false → s.fleet.hails.length < 1024 →
              ∃ t, exec (.hail p r) s = .next t ∧ t.fleet.hails = s.fleet.hails ++ [r] ∧ t.fleet.lastNew = s.tick
                ∧ t.fleet.sentHails = s.fleet.sentHails
                    ++ ((upPorts s).filter fun q => some q != some p.toNat).map (fun q => (q, r))
                ∧ changesOnly [.fleet] s t)
          ∧ ((s.fleet.hails.any fun x => x.serial == r.serial) = false → 1024 ≤ s.fleet.hails.length →
              exec (.hail p r) s = .next (fltAll s FLT_STATUS_DISC 5)))
      ∧ (rget s 0 FLT_STATUS_ROUND < r.round.toNat →
          let s1 := if discovering s then advanceRound s r.round.toNat else beginDiscovery s r.round.toNat (portsTrain s)
          exec (.hail p r) s = .next (if rget s1 0 FLT_STATUS_DISC = 5 then s1 else storeHail s1 p.toNat r)))
    ∧ ((rget s 0 FLT_STATUS_DISC ≠ 2 ∨ portsTrain s = true) → exec .discoverySettle s = .next (endTraining s))
    ∧ (rget s 0 FLT_STATUS_DISC = 2 → (∀ q, q < 16 → pget s q FLT_PORT_STATE = 0 ∨ 4 ≤ pget s q FLT_PORT_STATE) →
        let s1 := elapseToTick s (s.fleet.lastNew + 10000000)
        ∀ x l, viewSerials s1 = x :: l →
          (x ≠ ownSerial s1 → exec .discoverySettle s = .next (fltAll s1 FLT_STATUS_DISC 3))
          ∧ (x = ownSerial s1 →
              let nums := assignNumbers s1
              let r : NumbersRec :=
                ⟨nums, nums.length, BitVec.ofNat 8 (rget s1 0 FLT_STATUS_ROUND), serialCrc (viewSerials s1)⟩
              exec .discoverySettle s = .next (floodNumbers (acceptNumbers
                (fltAll (fltAll s1 FLT_STATUS_PILOT 1) FLT_STATUS_DISC 3) r) r none)))
    ∧ (pget s p.toNat FLT_PORT_STATE = 4 → fleetOn s = true → ∀ r : NumbersRec,
        r.round.toNat = rget s 0 FLT_STATUS_ROUND → (rget s 0 FLT_STATUS_DISC = 2 ∨ rget s 0 FLT_STATUS_DISC = 3) →
        (r.crc = serialCrc (viewSerials s) →
          exec (.numbers p r) s = .next (floodNumbers (acceptNumbers s r) r (some p.toNat))
          ∧ (acceptNumbers s r).fleet.numbers = r.serials ∧ (acceptNumbers s r).fleet.advances = 0)
        ∧ (r.crc ≠ serialCrc (viewSerials s) →
          exec (.numbers p r) s = .next (advanceRound s ((rget s 0 FLT_STATUS_ROUND + 1) % 256))))

/-! ### Register accesses -/

namespace Sys2Proof.Claims

/-- The one word at an offset of a block whose write starts something: CTL of the routing, Sextant and walker blocks. -/
def actsOnWrite (off : Nat) : Bool := off == 0 || off == 0x10000 || off == 0x20000

/-- The machine once the answer of an access has gone to its source. -/
def answered (s : State) (a : RegAccess) (st : Status) (d : Dword) : State :=
  { s with answers := s.answers ++ [⟨a, st, d⟩] }

end Sys2Proof.Claims

/-- R7, R8: what a write leaves in each field of a register of region 2 and of a tile: the new value where the field is
read/write (or lockable and not locked), the old one where it is read-only or locked, the old bits less those written
as 1 where it is write-1-to-clear, and with them where it is write-1-to-set; a write-only field keeps nothing of it and
reads 0, and every other field reads as it is. -/
def Obligations.AccessCodes : Prop :=
  ∀ (fs : List Fld) (locked : Bool) (off i : Nat) (old v : Word) (f : Fld),
    (fs = tileFields ∨ fs = blockFields off) → f ∈ fs → fldIndex f off = some i →
    let now := bitsOf (storeWord fs locked off old v).toNat f.lo f.width
    let was := bitsOf old.toNat f.lo f.width
    let new := bitsOf v.toNat f.lo f.width
    (f.acc = .rw → now = new)
    ∧ (f.acc = .rwl → now = if locked then was else new)
    ∧ (f.acc = .ro → now = was)
    ∧ (f.acc = .w1c → ∀ j, j < f.width → bitOf now j = (bitOf was j && !bitOf new j))
    ∧ (f.acc = .w1s → ∀ j, j < f.width → bitOf now j = (bitOf was j || bitOf new j))
    ∧ (f.acc = .wo → now = was)
    ∧ bitsOf (readWord fs off old).toNat f.lo f.width = if f.acc = .wo then 0 else was

/-- R321, R322, R471: a 4-byte access, aligned, of an open block completes with OK: a write of a word that starts
nothing stores its fields by their access codes and leaves every other register alone; a read gives the word's view,
after the commits of a DEVTABLE_COMMIT that have ended by then show in Sextant's block (R198), and changes nothing
else but the latched high words of the tick (R356). An access that is not open, or not aligned, completes with FENCED
and changes nothing. R149: a tile's register block is read and written one word at a time, in the tile. Before any of
these the access's own flit is counted, which changes registers of the routing block alone (Table 12.5). The model's
own choices it rests on: notes/assumptions/16.md, notes/assumptions/17.md and notes/assumptions/80.md. -/
def Obligations.RegisterAccesses : Prop :=
  (∀ (s : State) (src : Source) (k : Nat) (w : Bool), changesOnly [.regs] s (accessFlit s src k w)
    ∧ ∀ j off, 0x10000 ≤ off → off < 2 ^ 21 → rword (accessFlit s src k w) j off = rword s j off)
  ∧ (∀ (s : State) (src : Source) (k : BitVec 3) (off : BitVec 21), off.toNat % 4 = 0 →
    (∀ v : Dword, let s0 := accessFlit s src k.toNat true
      regOpen s0 src k.toNat off.toNat = true → ∃ t, exec (.registerAccess ⟨src, .reg2 k off, false, some v⟩) s = .next t
        ∧ t = answered (writeReg s0 src k.toNat off.toNat (v.setWidth 32)) ⟨src, .reg2 k off, false, some v⟩ .ok 0
        ∧ (off.toNat / 0x10000 < 3 → actsOnWrite off.toNat = false →
            rword t k.toNat off.toNat = storeWord (blockFields off.toNat) (regLocked s0 src k.toNat off.toNat) off.toNat
                (rword s0 k.toNat off.toNat) (v.setWidth 32)
            ∧ regsBut [(k.toNat, off.toNat)] s0 t ∧ changesOnly [.regs, .answers] s0 t))
    ∧ (let s0 := accessFlit s src k.toNat false
      let s1 := (readReg s0 k.toNat off.toNat).1
      regOpen s0 src k.toNat off.toNat = true → ∃ t, exec (.registerAccess ⟨src, .reg2 k off, false, none⟩) s = .next t
        ∧ t = answered s1 ⟨src, .reg2 k off, false, none⟩ .ok ((reg2View s1 k.toNat off.toNat).setWidth 64)
        ∧ (off.toNat / 0x10000 ≠ 1 ∨ s.bnc.masked = [] → changesOnly [.chr] s0 s1)
        ∧ (off.toNat ≠ 0x40008 → off.toNat ≠ 0x40014 → off.toNat / 0x10000 ≠ 1 → s1 = s0)))
  ∧ (∀ (s : State) (src : Source) (k : BitVec 3) (off : BitVec 21) (wide : Bool) (w : Option Dword),
    let s0 := accessFlit s src k.toNat w.isSome
    (regOpen s0 src k.toNat off.toNat = false ∨ off.toNat % (if wide then 8 else 4) ≠ 0) →
    exec (.registerAccess ⟨src, .reg2 k off, wide, w⟩) s
      = .next (answered s0 ⟨src, .reg2 k off, wide, w⟩ .fenced 0))
  ∧ (∀ (s : State) (src : Source) (r : TileRef) (off : BitVec 12) (site : Nat), off.toNat % 4 = 0 →
    (∀ v : Dword, let s0 := accessFlit s src r.stack.toNat true
      tileRegSite s0 src r off.toNat = some site →
      (off ≠ 0 → exec (.registerAccess ⟨src, .tile r off, false, some v⟩) s
        = .next (answered (changeTile s0 r fun _ t => writeTileWord t off.toNat (v.setWidth 32))
            ⟨src, .tile r off, false, some v⟩ .ok 0))
      ∧ (off = 0 → exec (.registerAccess ⟨src, .tile r off, false, some v⟩) s
        = .next (answered (writeTilCtl s0 r (v.setWidth 32)) ⟨src, .tile r off, false, some v⟩ .ok 0)))
    ∧ (let s0 := accessFlit s src r.stack.toNat false
      tileRegSite s0 src r off.toNat = some site → exec (.registerAccess ⟨src, .tile r off, false, none⟩) s
      = .next (answered (changeSite s0 r.stack.toNat site id) ⟨src, .tile r off, false, none⟩ .ok
          ((tileView (tileAt (changeSite s0 r.stack.toNat site id) r.stack.toNat site) (slotZero s r.stack.toNat) s.cyc off.toNat).setWidth
            64))))
  ∧ (∀ (s : State) (src : Source) (r : TileRef) (off : BitVec 12) (wide : Bool) (w : Option Dword),
    let s0 := accessFlit s src r.stack.toNat w.isSome
    (tileRegSite s0 src r off.toNat = none ∨ wide = true ∨ off.toNat % 4 ≠ 0) →
    exec (.registerAccess ⟨src, .tile r off, wide, w⟩) s = .next (answered s0 ⟨src, .tile r off, wide, w⟩ .fenced 0))

/-- R442, R443: with Binnacle and its clock running and no long command, READ and WRITE on the Bearing port access the
control region of the stack that ADDR names, one word, and reply OK, or FENCED where the access is not open. In
recovery mode only the blocks of Sounding, power, Lodestar and Binnacle's own answer (R462). The access's flits are
counted first (the model's own choice, notes/assumptions/16.md). The model's own choices it rests on:
notes/assumptions/16.md and notes/assumptions/80.md. -/
def Obligations.BearingAccesses : Prop :=
  ∀ (s : State) (a : BearingArg), portRuns s = true → s.bnc.long = none →
    let k := bitsOf a.addr.toNat 21 3
    let off := bitsOf a.addr.toNat 0 21
    let kept := 0x12 ≤ off / 0x10000 ∧ off / 0x10000 ≤ 0x15 ∧ k = 0
    let s0 := crossFlits s 0 k 3 1
    let s1 := (readReg s0 k off).1
    (ron s 0 LSR_STATUS_RECOVERY = true → ¬ kept →
      exec (.bearingRead a) s = .next (reply s 3 0) ∧ exec (.bearingWrite a) s = .next (reply s 3 0))
    ∧ (ron s 0 LSR_STATUS_RECOVERY = false ∨ kept → (off % 4 ≠ 0 ∨ regOpen s0 .bearing k off = false) →
      exec (.bearingRead a) s = .next (reply s0 3 0) ∧ exec (.bearingWrite a) s = .next (reply s0 3 0))
    ∧ (ron s 0 LSR_STATUS_RECOVERY = false ∨ kept → off % 4 = 0 → regOpen s0 .bearing k off = true →
      exec (.bearingRead a) s = .next (reply s1 0 (reg2View s1 k off))
      ∧ exec (.bearingWrite a) s = .next (reply (writeReg s0 .bearing k off a.data) 0 0)
      ∧ (∃ t, exec (.bearingWrite a) s = .next t
          ∧ t.bnc.replies = (writeReg s0 .bearing k off a.data).bnc.replies ++ [⟨0, 0⟩])
      ∧ (off / 0x10000 ≠ 1 ∨ s.bnc.masked = [] → ∃ t, exec (.bearingRead a) s = .next t
          ∧ t.bnc.replies = s.bnc.replies ++ [⟨0, reg2View s1 k off⟩] ∧ changesOnly [.chr, .bnc] s0 t))

/-! ### Windows and control reports -/

/-- R227, R228: a GET in the page window and a PUT in the append window, while the walkers are enabled, complete with
the window's bytes and its status; any other operation there completes with FENCED. R170, R374: a control report
leaves its channel, one flit of it counted (Table 12.5); a tile fault that stands is answered by its berth, a failed
operation that no masked slot explains abandons its berth's step with class 9, a bank write that failed its CRC
abandons it with class 4 where a staged shard was its source and else with class 3 (R84), and a chart fault concerns
every berth of its stack. A staged shard that failed is counted at its DRAM channel and restaged (R374, R385), and so
is the source of a tile fault of another class than 2. The model's own choices it rests on: notes/assumptions/16.md,
notes/assumptions/17.md, notes/assumptions/40.md and notes/assumptions/50.md. -/
def Obligations.WindowsAndReports : Prop :=
  (∀ (s : State) (p : Packet),
    let k := addrStack p.dest
    let a := winAddr (addrOff p.dest)
    let q := windowRead s k (addrOff p.dest) p.len
    (p.op = .get → ron s k CHT_CTL_EN = true → exec (.pageWindow p) s = .next (complete q.1 k p .ok false q.2))
    ∧ (p.op = .put → ron s k CHT_CTL_EN = true → ∃ t, exec (.appendWindow p) s = .next t
        ∧ t = noteMasked (complete (windowWrite s k a (p.data.take p.len)).1 k p
            (windowWrite s k a (p.data.take p.len)).2 false []) k a p (windowWrite s k a (p.data.take p.len)).2
        ∧ ((windowWrite s k a (p.data.take p.len)).2 = .ok →
            t = complete (windowWrite s k a (p.data.take p.len)).1 k p .ok false []))
    ∧ (p.op ≠ .get ∨ ron s k CHT_CTL_EN = false → exec (.pageWindow p) s = .next (complete s k p .fenced false []))
    ∧ (p.op ≠ .put ∨ ron s k CHT_CTL_EN = false → exec (.appendWindow p) s = .next (complete s k p .fenced false [])))
  ∧ (∀ (s : State) (r : TileRef) (site b : Nat) (rep : Report),
    let s1 := countFlits { s with reports := s.reports.erase rep } (reportStack rep) 0 1
    let t := tileAt s1 r.stack.toNat site
    siteOf s1 r.stack.toNat r.tile.toNat = some site → berthOfTile s1 r = some b →
    (rep = .tileFault r → tget t TIL_FAULT_VALID ≠ 0 → tileClass s1 t ≠ 2 → exec (.controlReport rep) s
        = .next (berthFault (restageSource s1 t.crcAt) b (tileClass s1 t) r.stack.toNat r.tile.toNat (tget t TIL_FAULT_CAUSE)))
    ∧ (rep = .tileFault r → tget t TIL_FAULT_VALID ≠ 0 → tileClass s1 t = 2 → exec (.controlReport rep) s
        = .next (berthFault (countHardware s1 b r.stack.toNat site (tget t TIL_FAULT_CAUSE)) b 2
            r.stack.toNat r.tile.toNat (tget t TIL_FAULT_CAUSE)))
    ∧ (rep = .tileFault r → tget t TIL_FAULT_VALID = 0 → exec (.controlReport rep) s = .next s1)
    ∧ (∀ tag st, rep = .opFailed r tag st → s.serve.masked.contains (r, tag) = false →
        exec (.controlReport rep) s = .next (berthFault s1 b 9 r.stack.toNat 0 0))
    ∧ (∀ ch a, rep = .bankCrc r ch → t.crcAt = some a → crcStaged s1 t.crcAt = true → exec (.controlReport rep) s
        = .next (berthFault (changeTile (restageSource (logCount s1 (dramUnit (addrStack a) ch.toNat) false 1 0).1 (some a)) r
            fun _ t => { t with crcAt := none }) b 4 r.stack.toNat 0 0))
    ∧ (∀ ch, rep = .bankCrc r ch → crcStaged s1 t.crcAt = false → exec (.controlReport rep) s
        = .next (berthFault s1 b 3 r.stack.toNat 0 0))
    ∧ (∀ k, rep = .chartFault k → exec (.controlReport rep) s
        = .next (stackFault (logCount s1 (helmUnit k.toNat) true 1 0).1 7 k.toNat)))

/-! ### Chronometer -/

namespace Sys2Proof.Claims

/-- The words of the Chronometer block that alignment writes: CHR_STATUS, CHR_WATCH, CHR_WSTART and CHR_OFFSET. -/
def alignWords : List (Nat × Nat) := [(0, 0x40004), (0, 0x40010), (0, 0x40014), (0, 0x40018), (0, 0x4002C)]

end Sys2Proof.Claims

/-- R340, R341, R344: 16 exchanges align a module that may be aligned: the tick is stepped by the median offset,
CHR_OFFSET shows it, the watch number and its start follow from the tick, and ALIGNED is set; on any other module a
frame changes nothing. A measurement shows the offset, starts a slew above 1 ns, which CHR_SLEWS counts, and ends one
within 0.5 ns; in each microsecond of a slew the tick is held once or advances by 2 once. The model's own choices it
rests on: notes/assumptions/54.md. -/
def Obligations.ClockAlignment : Prop :=
  ∀ (s : State),
    (∀ l : List TimePair, mayAlign s = true → l.length = 16 → ∃ t, exec (.timingFrame l) s = .next t
      ∧ t.tick = ((s.tick : Int) + rne (medianFour l) 32).toNat
      ∧ rget t 0 CHR_OFFSET_OFFSET = unsigned 16 (rne (medianFour l) 4) % 65536
      ∧ rget t 0 CHR_WATCH_WATCH = t.tick / 128000 % 2 ^ 32
      ∧ watchStart t = t.tick / 128000 * 128000 % 2 ^ 64
      ∧ rget t 0 CHR_STATUS_ALIGNED = 1 ∧ rget t 0 CHR_STATUS_HOLDOVER = rget s 0 CHR_STATUS_HOLDOVER
      ∧ regsBut alignWords s t ∧ changesOnly [.tick, .regs] s t)
    ∧ (∀ l : List TimePair, mayAlign s = false ∨ l.length ≠ 16 → exec (.timingFrame l) s = .next s)
    ∧ (∀ p : TimePair, follows s = true →
      let start := decide (16 < (pairTwice p).natAbs) && !s.chr.slewing
      ∃ t, exec (.offsetMeasure p) s = .next t
        ∧ t.chr = { s.chr with
            offset := rne (pairTwice p) 2
            slewing := (start || s.chr.slewing) && !decide ((pairTwice p).natAbs ≤ 8) }
        ∧ rget t 0 CHR_OFFSET_OFFSET = unsigned 16 (rne (pairTwice p) 2) % 65536
        ∧ rget t 0 CHR_SLEWS = (rget s 0 CHR_SLEWS + bit start) % 2 ^ 32
        ∧ regsBut [(0, 0x4002C), (0, 0x40088)] s t ∧ changesOnly [.regs, .chr] s t)
    ∧ (follows s = true → s.chr.slewing = true → tickRuns s = true → ∃ t, exec .slew s = .next t
        ∧ (0 < s.chr.offset → t.tick = s.tick + 1001 ∧ t.chr.offset = s.chr.offset - 8)
        ∧ (s.chr.offset ≤ 0 → t.tick = s.tick + 999 ∧ t.chr.offset = s.chr.offset + 8)
        ∧ t.chr.slewing = decide (4 < t.chr.offset.natAbs)
        ∧ changesOnly [.cyc, .tick, .tfrac, .chr] s t)
    ∧ (follows s = false → exec .slew s = .next s ∧ ∀ p, exec (.offsetMeasure p) s = .next s)

/-- R343 to R345, R347: a watch boundary comes at B + L + X: the watch number rises by 1, its start is that tick, and slot
counts restart at the first cycle that R345 allows; then charter, routing table, stretch and trims take effect. ARM
refuses an epoch that is not ahead, an ACTIVATE that is not later, and a new length while berths are live, each with
its bit; else the charter is armed, or, written in the boundary tick of the watch that ACTIVATE names, takes effect at
once: EPOCH and L change, the stretch of this watch is that of the new L, and in fleet mode the charter's first round
opens. LOCK locks MODE. -/
def Sys2Proof.Claims.WatchBoundaries : Prop :=
  ∀ (s : State), chrReach s = true →
    (∃ s0 t, exec .watchBoundary s = .next t
      ∧ s0 = openWatch (elapseToTick s (nextBoundary s)) (nextBoundary s)
      ∧ rget s0 0 CHR_WATCH_WATCH = (rget s 0 CHR_WATCH_WATCH + 1) % 2 ^ 32
      ∧ watchStart s0 = nextBoundary s % 2 ^ 64
      ∧ s0.slot0 = restartCycle (elapseToTick s (nextBoundary s)) (nextBoundary s)
      ∧ regsBut [(0, 0x40010), (0, 0x40014), (0, 0x40018)] s s0
      ∧ changesOnly [.cyc, .slot0, .tick, .tfrac, .regs] s s0
      ∧ t = startDue (stackNos.foldl sextantBoundary (
          if fleetMode (tableDue (charterDue s0)) then openRound (fleetStretch (tableDue (charterDue s0)))
          else harbourStretch (tableDue (charterDue s0)))))
    ∧ (let d := (rget s 0 CHR_EPOCH_NEXT + 256 - rget s 0 CHR_EPOCH_EPOCH) % 256
      let act := BitVec.ofNat 32 (rget s 0 CHR_ACTIVATE_WATCH)
      let busy := rget s 0 CHR_NEXT_WLEN_L ≠ watchLen s ∧ berthsLive s = true
      (1 ≤ d → d ≤ 127 → laterWatch act (watchNo s) = true → ¬ busy → ∃ t, exec .arm s = .next t
        ∧ t.chr = { s.chr with armed := some (rget s 0 CHR_EPOCH_NEXT, rget s 0 CHR_NEXT_WLEN_L, act) }
        ∧ rget t 0 CHR_STATUS_ARMED = 1 ∧ regsBut [(0, 0x40004)] s t ∧ changesOnly [.regs, .chr] s t)
      ∧ (1 ≤ d → d ≤ 127 → act = watchNo s → s.tick = watchStart s → ¬ busy → ∃ t,
          exec .arm s = .next (if fleetMode s = true ∧ s.chr.firstRound = none then openRound t else t)
        ∧ rget t 0 CHR_EPOCH_EPOCH = rget s 0 CHR_EPOCH_NEXT ∧ watchLen t = rget s 0 CHR_NEXT_WLEN_L
        ∧ rget t 0 CHR_STATUS_ARMED = 0 ∧ t.chr.armed = none
        ∧ t.chr.firstRound = some (s.chr.firstRound.getD (watchNo s))
        ∧ rget t 0 CHR_STRETCH_X = (ceilDiv (watchLen t * rget s 0 CHR_STRETCH_Q) 100
            + 400 * rget s 0 CHR_STRETCH_D) % 2 ^ CHR_STRETCH_X.width
        ∧ changesOnly [.regs, .stk, .chr] s t)
      ∧ ((d = 0 ∨ 127 < d) → ∃ t, exec .arm s = .next t ∧ rget t 0 CHR_STATUS_STALE = 1
        ∧ regsBut [(0, 0x40004)] s t ∧ changesOnly [.regs] s t)
      ∧ (laterWatch act (watchNo s) = false → ¬ (act = watchNo s ∧ s.tick = watchStart s) → ∃ t, exec .arm s = .next t
        ∧ rget t 0 CHR_STATUS_LATE = 1 ∧ regsBut [(0, 0x40004)] s t ∧ changesOnly [.regs] s t)
      ∧ (busy → ∃ t, exec .arm s = .next t ∧ rget t 0 CHR_STATUS_BUSYL = 1
        ∧ regsBut [(0, 0x40004)] s t ∧ changesOnly [.regs] s t))
    ∧ (∃ t, exec .chrLock s = .next t ∧ rget t 0 CHR_CTL_LOCK = 1 ∧ rget t 0 CHR_CTL_MODE = rget s 0 CHR_CTL_MODE
        ∧ regsBut [(0, 0x40000)] s t ∧ changesOnly [.regs] s t)

/-- R351 to R353: an agreement record for a later watch is held, shown in CHR_AGREE, counted, and written on to the
children; its round is over, and the next offer arrives. A record for a watch that is not later is written on to the
children too and else discarded. A fleet waypoint wait ends when it has lasted 5 L, 30 L tile cycles after it began, with
a fault of class 10 for the berth, or, of the module, for every berth that waits. The lead Helm sends each of these
operations under its lowest free tag: one that no route reaches is counted in FLT_NOROUTE, and one that finds no free
tag waits. The model's own choices it rests on: notes/assumptions/37.md and 38.md. -/
def Sys2Proof.Claims.StretchAgreement : Prop :=
  ∀ (s : State),
    (∀ (w : Word) (q : BitVec 7) (d : Bool), chrReach s = true → laterWatch w (watchNo s) = true → ∃ s1 t,
      exec (.agreementRecord w q d) s = .next t
      ∧ t = arriveOffer (sendHelm s1 (s.chr.children.map fun m => HelmMsg.agree m w q.toNat d))
      ∧ s1.chr = { s.chr with
          agreed := s.chr.agreed.filter (fun r => r.watch != w) ++ [⟨w, q.toNat, d⟩]
          openRound := none }
      ∧ rget s1 0 CHR_AGREE_LO_WATCH = w.toNat ∧ rget s1 0 CHR_AGREE_HI_Q = q.toNat
      ∧ rget s1 0 CHR_AGREE_HI_D = bit d ∧ rget s1 0 CHR_ROUNDS = (rget s 0 CHR_ROUNDS + 1) % 2 ^ 32
      ∧ regsBut [(0, 0x40038), (0, 0x4003C), (0, 0x40080)] s s1 ∧ changesOnly [.regs, .chr] s s1)
    ∧ (∀ (m : HelmMsg) (ms : List HelmMsg), sendHelm s (m :: ms) = sendHelm (issueHelm s m) ms ∧ sendHelm s [] = s
      ∧ (∀ g, g < 32 → (∀ o ∈ s.serve.ops, o.tag ≠ g) → (∀ g', g' < g → ∃ o ∈ s.serve.ops, o.tag = g') →
        (reaches s m.dst = true → ∃ n, issueHelm s m = { s with serve := { s.serve with
            turns := mapSet (fun _ => 0) s.serve.turns g n
            ops := s.serve.ops ++ [⟨g, n, m⟩]
            msgs := s.serve.msgs ++ [m] } })
        ∧ (reaches s m.dst = false → ∃ t, issueHelm s m = t ∧ rget t 0 FLT_NOROUTE = (rget s 0 FLT_NOROUTE + 1) % 2 ^ 32
            ∧ t.serve.msgs = s.serve.msgs ∧ t.serve.ops = s.serve.ops ∧ changesOnly [.regs, .serve] s t))
      ∧ ((∀ g, g < 32 → ∃ o ∈ s.serve.ops, o.tag = g) →
        issueHelm s m = { s with serve := { s.serve with waits := s.serve.waits ++ [m] } }))
    ∧ (∀ (w : Word) (q : BitVec 7) (d : Bool), chrReach s = true → laterWatch w (watchNo s) = false →
      exec (.agreementRecord w q d) s = .next (arriveOffer (sendHelm { s with chr := { s.chr with
        openRound := if s.chr.openRound = some (w - 2) then none else s.chr.openRound } }
          (s.chr.children.map fun m => HelmMsg.agree m w q.toNat d))))
    ∧ (let waits := fun b => (∃ first, (berthOf s b).step = .running first) ∧ (berthOf s b).arrived = true
      let ended := fun b => berthFault (rbump (elapseTo s ((berthOf s b).arrivedAt + 30 * watchLen s)) 0 CHR_WPTIMEOUT)
        b 10 0 0 0
      (∀ b : BitVec 4, (waits b.toNat → exec (.fleetWaypointTimeout (.berth b)) s = .next (ended b.toNat))
        ∧ (¬ waits b.toNat → exec (.fleetWaypointTimeout (.berth b)) s = .next s))
      ∧ (∀ t, exec (.fleetWaypointTimeout .module) s = .next t →
        ((∀ b, b < 16 → ¬ waits b) → t = s)
        ∧ (∀ b, b < 16 → waits b → (∀ b', b' < 16 → b' ≠ b → ¬ waits b') →
            (∀ b', b' < 16 → b' ≠ b → ∀ first, (berthOf (ended b) b').step = .running first →
              (berthOf (ended b) b').arrived = false) → t = ended b)))
    ∧ (∀ (r : TileRef) (site b k : Nat), siteOf s r.stack.toNat r.tile.toNat = some site →
        (engOf (tileAt s r.stack.toNat site) .sig).wpSince = some k →
        (engOf (tileAt s r.stack.toNat site) .sig).nextw = none →
        berthOfTile (rbump (elapseTo s (k + 30 * watchLen s)) 0 CHR_WPTIMEOUT) r = some b →
        exec (.fleetWaypointTimeout (.engine r)) s
          = .next (berthFault (rbump (elapseTo s (k + 30 * watchLen s)) 0 CHR_WPTIMEOUT) b 10 r.stack.toNat r.tile.toNat 0))

/-- Watch boundaries, charters, agreement records and waypoint timeouts (R343 to R345, R347, R351 to R353). The
model's own choices it rests on: notes/assumptions/37.md and notes/assumptions/38.md. -/
def Obligations.WatchCoordination : Prop :=
  Sys2Proof.Claims.WatchBoundaries ∧ Sys2Proof.Claims.StretchAgreement

/-! ### Sextant -/

namespace Sys2Proof.Claims

/-- The words that Sextant of stack `k` writes when a trigger fires: SXT_CTL, SXT_STATUS, SXT_TRIG, SXT_TEMP, SXT_DEMAND
and SXT_DMAP_n. -/
def triggerWords (k : Nat) : List (Nat × Nat) :=
  [(k, SXT_CTL_FIX_REQ.off), (k, SXT_STATUS_ACTIVITY.off), (k, SXT_TRIG_HOST.off), (k, SXT_TEMP_FIXTEMP.off),
    (k, SXT_DEMAND_PENDING.off)] ++ (List.range 15).map fun n => (k, SXT_DMAP_PEND.off + SXT_DMAP_PEND.stride * n)

/-- The pending passes of a stack with one more trigger. -/
def withTrigger (l : List Nat) (kind : Nat) : List Nat := if l.contains kind then l else l ++ [kind]

end Sys2Proof.Claims

/-- R148, R189, R190, R201: FIX_REQ and, 86,400 s after the last pass, ageing each have a pass wait; it starts at once
if Sextant runs and no pass is under way: it takes every waiting trigger and the temperature, measures the references
for 20 µs, and has the tiles whose clock is off ask for a start; FIX_REQ reads 1 until then. LOCK locks Sextant's
fields. The model's own choices it rests on: notes/assumptions/27.md and notes/assumptions/55.md. -/
def Obligations.SextantTriggers : Prop :=
  ∀ (s : State) (k : BitVec 3), machineSafe s = true → baseReach s k.toNat = true →
    let n := k.toNat
    let starts := (stkOf s n).pass = none ∧ ron s n SXT_CTL_EN = true
    (∃ t, exec (.fixReq k) s = .next t
      ∧ (¬ starts → (stkOf t n).passes = withTrigger (stkOf s n).passes 5 ∧ (stkOf t n).pass = (stkOf s n).pass
          ∧ rget t n SXT_CTL_FIX_REQ = 1)
      ∧ (starts → (stkOf t n).passes = []
          ∧ (stkOf t n).pass = some ⟨withTrigger (stkOf s n).passes 5, s.cyc + 24000, false, false, []⟩
          ∧ rget t n SXT_CTL_FIX_REQ = 0 ∧ rget t n SXT_TRIG_HOST = 1
          ∧ rget t n SXT_TEMP_FIXTEMP = rget s n SXT_TEMP_NOWTEMP)
      ∧ (∀ m, m ≠ n → stkOf t m = stkOf s m)
      ∧ (¬ starts ∨ (∀ q ∈ mappedTiles s n, (tileAt s n q.2).clkOn = true) → t.tiles = s.tiles ∧ t.pwr = s.pwr)
      ∧ regsBut (triggerWords n) s t ∧ changesOnly [.regs, .tiles, .stk, .pwr] s t)
    ∧ (∃ t, exec (.sxtLock k) s = .next t ∧ rget t n SXT_CTL_LOCK = 1
        ∧ regsBut [(n, SXT_CTL_LOCK.off)] s t ∧ changesOnly [.regs] s t)
    ∧ (tickRuns s = true → ∃ t, exec (.ageingTrigger k) s = .next t ∧ rget t n SXT_TRIG_AGE = 1
        ∧ (¬ starts → (stkOf t n).passes = withTrigger (stkOf s n).passes 4)
        ∧ (starts → (stkOf t n).pass = some ⟨withTrigger (stkOf s n).passes 4, t.cyc + 24000, false, false, []⟩)
        ∧ regsBut (triggerWords n) s t ∧ changesOnly [.cyc, .tick, .tfrac, .regs, .tiles, .stk, .pwr] s t)

/-- R148, R186, R187, R193, R200: at a dog slot each clocked tile of the pass sites has 800 array cycles, which end with
it 2,400 tile cycles on; a clocked tile's next idle array cycle goes to the group in hand of an enabled Sextant, and
is counted, and a tile whose clock is off asks for a start. A demand that has waited asks for a stretch. An
uncorrectable record takes the tile's applied trims and all its groups are demanded, those that a pending demand has
fixed already among them. The model's own choices it rests on: notes/assumptions/55.md. -/
def Obligations.SextantCycles : Prop :=
  ∀ (s : State) (k : BitVec 3),
    let n := k.toNat
    (∀ x, nextDog s n = some x → ∃ s2, s2 = putStk (elapseTo s x) n { stkOf (elapseTo s x) n with dogAt := x + 1 }
      ∧ (ron s n SXT_CTL_EN = false → exec (.dogSlot k) s = .next s2)
      ∧ (ron s n SXT_CTL_EN = true →
          exec (.dogSlot k) s = .next (wakeSites (pickSight (openDog s2 n (x + 2400)) n) n)
          ∧ (n < s.stk.length → ∀ site ∈ passSites s2 n, (tileAt s2 n site).clkOn = true →
              sequencer (openDog s2 n (x + 2400)) n site = { sequencer s2 n site with left := 800, until_ := x + 2400 })))
    ∧ (∀ (r : TileRef) (site : Nat), r.stack = k → siteOf s n r.tile.toNat = some site →
        ron s n SXT_CTL_EN = true → ron s n SXT_CTL_IDLE_EN = true →
        ((tileAt s n site).clkOn = false → exec (.idleCycle r) s = .next (askStart s n r.tile.toNat))
        ∧ (∀ q, (tileAt s n site).clkOn = true → siteWork (pickSight s n) n site = some q →
          let s1 := pickSight s n
          let w := sequencer s1 n site
          let h := w.hand q.1 q.2
          let s2 := elapseTo s1 (phase0From (slotZero s1 n) (max s1.cyc w.next))
          h.need ≠ 0 → arrayIdle s2 r (settle s2.cyc (tileAt s2 n site)) = true → exec (.idleCycle r) s
            = .next (rbump (putSequencer s2 n site { w.put { h with done := h.done + 1 } with next := s2.cyc + 3 }) n
                SXT_IDLEUSED)))
    ∧ (ron s n SXT_CTL_STRETCH_EN = true → exec (.demandStretch k) s
        = .next (showSextant (((stkOf s n).demands.filter fun x => !x.asked && decide (demandWait s n ≤ x.waited)).foldl
            (askStretch n) s) n))
    ∧ (∀ site, site < 480 → baseReach s n = true →
        exec (.tableEccError k site) s = .next (showSextant (demandAll (keepTrims s n site) n site) n)
        ∧ (∀ x, n < s.stk.length → demandOf s n site = some x →
            demandOf (demandAll (keepTrims s n site) n site) n site
              = some { x with toFix := List.range 292, toSight := [] }))

/-- R148, R181 to R184, R186, R190: a group that its site's sequencer works on, whose test patterns are whole and whose
array cycles are spent, is finished: its trims or its result are taken, without the banks whose results were
discarded; in a dog slot it takes what it needs of the slot's cycles, and without enough of them it does not finish.
A tile whose clock is off asks for a start. The references' measurement, with which a pass begins, writes their
targets. A pass whose tiles have all finished completes. The model's own choices it rests on:
notes/assumptions/55.md. -/
def Obligations.SextantResults : Prop :=
  ∀ (s : State) (k : BitVec 3),
    let n := k.toNat
    (∀ (site g l : Nat) (fix : Bool) (r : GroupResult), g < 292 → ron s n SXT_CTL_EN = true →
        logicalOf s n site = some l →
        ((tileAt s n site).clkOn = false → exec (.groupComplete k site g fix r) s = .next (askStart s n l))
        ∧ ((tileAt s n site).clkOn = true →
          let s1 := pickSight s n
          let dropped := ((sequencer s1 n site).hand fix g).dropped
          siteWork s1 n site = some (fix, g) → resultWhole (tileAt s1 n site) g dropped r = true →
          (∀ s2, spendGroup s1 n site fix g = some s2 →
            exec (.groupComplete k site g fix r) s = .next (showSextant (groupResult s2 n site fix g dropped r) n))
          ∧ (spendGroup s1 n site fix g = none → exec (.groupComplete k site g fix r) s = .next s)))
    ∧ (∀ (site g : Nat) (fix : Bool), n < s.stk.length → hasStepped s n = true ∨ ron s n SXT_CTL_IDLE_EN = false →
        let w := sequencer s n site
        let need := (w.hand fix g).need
        (need ≠ 0 → need ≤ slotLeft s w → ∃ s2, spendGroup s n site fix g = some s2
          ∧ (sequencer s2 n site).left = w.left - need
          ∧ rget s2 n SXT_DOGUSED = (rget s n SXT_DOGUSED + need) % 2 ^ 32)
        ∧ (slotLeft s w < need → spendGroup s n site fix g = none))
    ∧ (∀ (site : Nat) (r : GroupResult) (p : Pass), ron s n SXT_CTL_EN = true → (stkOf s n).pass = some p →
        let s1 := writeReferences (elapseTo s p.refsAt) n r.targets
        let s2 := putStk s1 n { stkOf s1 n with pass := some { p with refsDone := true } }
        (p.refsDone = false → exec (.groupComplete k site 292 true r) s = .next (showSextant (
          if hasStepped s2 n then s2 else takeTargets s2 n) n))
        ∧ (p.refsDone = true → exec (.groupComplete k site 292 true r) s = .next s))
    ∧ (passFinished s n = true → exec (.passComplete k) s = .next (endPass s n))

/-! ### Vilger Link -/

namespace Sys2Proof.Claims

/-- The word LNK_STATUS, which the halves share, and LNK_FAULT of both halves. -/
def lnkStatusWord : Nat × Nat := (0, 0x110004)
def lnkFaultWords : List (Nat × Nat) := [(halfStk 0, 0x110010), (halfStk 1, 0x110010)]
/-- LNK_REPLAYS of both halves. -/
def lnkReplayWords : List (Nat × Nat) := [(halfStk 0, 0x110090), (halfStk 1, 0x110090)]
/-- LNK_LANES of both halves. -/
def lnkLaneWords : List (Nat × Nat) := [(halfStk 0, 0x11000C), (halfStk 1, 0x11000C)]
/-- LNK_FLITS_TX of both halves. -/
def lnkSentWords : List (Nat × Nat) := [(halfStk 0, LNK_FLITS_TX.off), (halfStk 1, LNK_FLITS_TX.off)]

/-- A half has no flit or message that waits, and no NAK to send. -/
def halfQuiet (s : State) (h : Nat) : Prop :=
  (vhalf s h).waiting = [] ∧ (vhalf s h).stalled = [] ∧ (vhalf s h).nak = false

/-- The flit in which a half that is ACTIVE sends its NAK at once, an idle flit (R362, notes/assumptions/41.md); in any
other state the NAK waits. -/
def naked (active : Bool) (v : VHalf) : VHalf :=
  if active then { v with
    sent := v.sent ++ [vflitBytes { v with nak := true } 0 ⟨0, 3, 0, []⟩]
    nak := false
    scram := v.scram.map (scramble (2048 / v.scram.length)) }
  else { v with nak := true }

/-- The halves have sent every unacknowledged flit again, oldest first, and count no replay in a row (R363). -/
def Resumed (s t : State) : Prop :=
  s.vil.halves.length = 2 → halfQuiet s 0 → halfQuiet s 1 → ∀ h, h < 2 → (vhalf t h).replay = (vhalf s h).replay ∧ (vhalf t h).replays = 0
    ∧ (vhalf t h).sent = (vhalf s h).sent ++ ((vhalf t h).sent.drop (vhalf s h).sent.length)
    ∧ ((vhalf t h).sent.length = (vhalf s h).sent.length + (vhalf s h).replay.length)
    ∧ rget t (halfStk h) LNK_REPLAYS = (rget s (halfStk h) LNK_REPLAYS + (vhalf s h).replay.length) % 2 ^ 32

end Sys2Proof.Claims

/-- R359 to R361, R363: EN takes the link from DOWN to DETECT when the reference is present, and EN 0 takes it DOWN; receivers
take it to EQ, equalisation marks the lanes and takes it to DESKEW, a boundary lock takes it to REV at the widest
width both halves can fill, and the exchange to ACTIVE at the highest common revision, where the halves send on, or to
REFUSED. An attempt that fails starts again, the third in a row leaves the link DOWN with TRAINFAIL; no lane carries
traffic then. The model's own choices it rests on: notes/assumptions/36.md. -/
def Sys2Proof.Claims.VilgerStates : Prop :=
  ∀ (s : State), lnkReach s = true →
    (ron s 0 LNK_CTL_EN = false → ron s 0 CLK_STATUS_REF_OK = true → ∃ t, exec (.lnkEn true) s = .next t
      ∧ lnkState t = 1 ∧ rget t 0 LNK_CTL_EN = 1 ∧ t.vil = { s.vil with attempts := 0, retrain := false }
      ∧ regsBut [(0, 0x110000), lnkStatusWord] s t ∧ changesOnly [.regs, .vil] s t)
    ∧ (∃ t, exec (.lnkEn false) s = .next t ∧ lnkState t = 0 ∧ rget t 0 LNK_CTL_EN = 0
      ∧ t.vil = { s.vil with attempts := 0, retrain := false }
      ∧ (∀ h, h < 2 → rget t (halfStk h) LNK_LANES_USED = 0) ∧ rget t 0 LNK_STATUS_WIDTH = 0
      ∧ regsBut ((0, 0x110000) :: lnkStatusWord :: lnkLaneWords) s t ∧ changesOnly [.regs, .vil] s t)
    ∧ (lnkState s = 1 → ∃ t, exec .vilgerReceiverDetection s = .next t ∧ lnkState t = 2
      ∧ regsBut [lnkStatusWord] s t ∧ changesOnly [.regs] s t)
    ∧ (lnkState s = 2 → s.vil.retrain = false → ∀ a b : Half, ∃ t, exec (.vilgerEqualisationDone a b) s = .next t
      ∧ lnkState t = 3 ∧ rget t (halfStk 0) LNK_LANES_GOOD = a.toNat ∧ rget t (halfStk 1) LNK_LANES_GOOD = b.toNat
      ∧ regsBut (lnkStatusWord :: lnkLaneWords) s t ∧ changesOnly [.regs] s t)
    ∧ (lnkState s = 3 → ∀ w, linkWidth s = some w → ∃ t, exec .flitBoundaryLock s = .next t ∧ lnkState t = 4
      ∧ rget t 0 LNK_STATUS_WIDTH = (if w = 16 then 3 else if w = 8 then 2 else 1)
      ∧ (w < 16 → rget t (halfStk 0) LNK_FAULT_DEGRADE = 1)
      ∧ regsBut (lnkStatusWord :: (lnkLaneWords ++ lnkFaultWords)) s t ∧ changesOnly [.regs] s t)
    ∧ (lnkState s = 4 → ∀ lo hi : Byte,
      let neg := min hi.toNat (rget s 0 LNK_REV_REVMAX)
      (max lo.toNat (rget s 0 LNK_REV_REVMIN) ≤ neg → ∃ u, exec (.identityExchange lo hi) s = .next (resumeLink u)
        ∧ lnkState u = 5 ∧ rget u 0 LNK_STATUS_NEGREV = neg ∧ u.vil = { s.vil with attempts := 0, retrain := false }
        ∧ regsBut [lnkStatusWord] s u ∧ changesOnly [.regs, .vil] s u)
      ∧ (neg < max lo.toNat (rget s 0 LNK_REV_REVMIN) → ∃ t, exec (.identityExchange lo hi) s = .next t
        ∧ lnkState t = 7 ∧ rget t (halfStk 0) LNK_FAULT_REFUSED = 1 ∧ rget t (halfStk 1) LNK_FAULT_REFUSED = 1
        ∧ (∀ h, h < 2 → rget t (halfStk h) LNK_LANES_USED = 0)
        ∧ regsBut (lnkStatusWord :: (lnkLaneWords ++ lnkFaultWords)) s t ∧ changesOnly [.regs] s t))
    ∧ (1 ≤ lnkState s → lnkState s ≤ 4 → ∃ t, exec .vilgerTrainingLimit s = .next t
        ∧ t.vil.attempts = s.vil.attempts + 1
        ∧ (s.vil.attempts < 2 → lnkState t = 1)
        ∧ (2 ≤ s.vil.attempts → lnkState t = 0 ∧ rget t (halfStk 0) LNK_FAULT_TRAINFAIL = 1
            ∧ rget t (halfStk 1) LNK_FAULT_TRAINFAIL = 1)
        ∧ (∀ h, h < 2 → rget t (halfStk h) LNK_LANES_USED = 0)
        ∧ regsBut (lnkStatusWord :: (lnkLaneWords ++ lnkFaultWords)) s t ∧ changesOnly [.regs, .vil] s t)
    ∧ (lnkState s = 5 → Resumed s (resumeLink s))
    ∧ regsBut (lnkSentWords ++ lnkReplayWords) s (resumeLink s) ∧ changesOnly [.regs, .vil] s (resumeLink s)

/-- R363, R381, Table 15.2: RETRAIN, and eight replays in a row, take an ACTIVE link to RETRAIN in both halves, counted,
with RETRAINED set for the replays (Table 15.9); its end is ACTIVE again at the width the lanes allow, or EQ. An acknowledgement that has
not come for 2 µs has the unacknowledged flits sent again, oldest first. HOT_RESET resets the module with cause 3.
LOCK locks the half's windows. -/
def Sys2Proof.Claims.VilgerRetrain : Prop :=
  ∀ (s : State), lnkReach s = true →
    (lnkState s = 5 → ∃ t, exec .retrain s = .next t ∧ lnkState t = 6 ∧ t.vil.retrain = true
      ∧ rget t (halfStk 0) LNK_RETRAINS = (rget s (halfStk 0) LNK_RETRAINS + 1) % 2 ^ 32
      ∧ t.vil.halves = s.vil.halves.map (fun v => { v with replays := 0 }) ∧ changesOnly [.regs, .vil] s t
      ∧ rget t (halfStk 0) LNK_FAULT_RETRAINED = rget s (halfStk 0) LNK_FAULT_RETRAINED
      ∧ (∀ h : BitVec 1, 8 ≤ (vhalf s h.toNat).replays → ∃ u, exec (.linkReplayLimit (.vilger h)) s = .next u
          ∧ rget u (halfStk 0) LNK_FAULT_RETRAINED = 1 ∧ rget u (halfStk 1) LNK_FAULT_RETRAINED = 1
          ∧ lnkState u = 6 ∧ u.vil = t.vil ∧ regsBut lnkFaultWords t u ∧ changesOnly [.regs] t u))
    ∧ (lnkState s = 6 →
      (∀ w, linkWidth s = some w → ∃ u, exec (.retrainDone true) s = .next (resumeLink u) ∧ lnkState u = 5
        ∧ rget u 0 LNK_STATUS_WIDTH = (if w = 16 then 3 else if w = 8 then 2 else 1)
        ∧ u.vil = { s.vil with attempts := 0, retrain := false }
        ∧ regsBut (lnkStatusWord :: (lnkLaneWords ++ lnkFaultWords)) s u ∧ changesOnly [.regs, .vil] s u)
      ∧ (∃ t, exec (.retrainDone false) s = .next t ∧ lnkState t = 2 ∧ regsBut [lnkStatusWord] s t
          ∧ changesOnly [.regs] s t)
      ∧ exec .vilgerTrainingLimit s = exec (.retrainDone false) s)
    ∧ (lnkState s = 5 → s.vil.halves.length = 2 → ∀ h : BitVec 1, (vhalf s h.toNat).replay ≠ [] →
        ∃ t, exec (.ackTimer h) s = .next t
          ∧ t.vil.resent = s.vil.resent.filter (fun q => q.1 != h.toNat)
              ++ (vhalf s h.toNat).replay.map (fun q => (h.toNat, q.seq))
          ∧ (vhalf t h.toNat).replay = (vhalf s h.toNat).replay
          ∧ (vhalf t h.toNat).replays = (vhalf s h.toNat).replays + 1
          ∧ rget t (halfStk h.toNat) LNK_REPLAYS
              = (rget s (halfStk h.toNat) LNK_REPLAYS + (vhalf s h.toNat).replay.length) % 2 ^ 32
          ∧ regsBut [(halfStk h.toNat, 0x110090)] s t ∧ changesOnly [.cyc, .tick, .tfrac, .regs, .vil] s t)
    ∧ (lnkState s ≠ 0 → lnkState s ≠ 7 → exec .hotReset s = .next (moduleReset s 3 false))
    ∧ (∀ h : BitVec 1, ∃ t, exec (.lnkLock h) s = .next t ∧ rget t (halfStk h.toNat) LNK_CTL_LOCK = 1
        ∧ regsBut [(halfStk h.toNat, 0x110000)] s t ∧ changesOnly [.regs] s t)

/-- The training of Vilger Link, its retrains, replays, hot reset and lock (R359 to R361, R363, R381). The model's own
choices it rests on: notes/assumptions/36.md and notes/assumptions/41.md. -/
def Obligations.VilgerTraining : Prop :=
  Sys2Proof.Claims.VilgerStates ∧ Sys2Proof.Claims.VilgerRetrain

/-- R362, R363: a flit whose CRC fails is counted and answered with NAK, and accepts nothing; a good data flit out of
sequence is answered so too; one in sequence advances the sequence, and its header, its credits and its slots are
taken. A flit of TYPE 2 with its reset bit resets the module. The model's own choices it rests on:
notes/assumptions/41.md. -/
def Obligations.VilgerFlits : Prop :=
  ∀ (s : State) (h : BitVec 1) (f : VFlit), lnkReach s = true → s.vil.halves.length = 2 → lnkState s ≠ 0 →
    let n := h.toNat
    let hdr := leVal (f.bytes.take 8)
    let s1 := rbump (rbump s (halfStk n) LNK_FLITS_RX) (halfStk n) LNK_FECCORR f.corrected
    (vflitGood f = false → f.fecLanes = 0 → ∃ t, exec (.vilgerFlit h f) s = .next t
      ∧ vhalf t n = Sys2Proof.Claims.naked (lnkState s == 5) (vhalf s n)
      ∧ rget t (halfStk n) LNK_FLITS_RX = (rget s (halfStk n) LNK_FLITS_RX + 1) % 2 ^ 32
      ∧ rget t (halfStk n) LNK_FECCORR = (rget s (halfStk n) LNK_FECCORR + f.corrected) % 2 ^ 32
      ∧ rget t (halfStk n) LNK_CRCERR = (rget s (halfStk n) LNK_CRCERR + 1) % 2 ^ 32
      ∧ regsBut [(halfStk n, 0x110084), (halfStk n, 0x110088), (halfStk n, 0x11008C)] s t ∧ changesOnly [.regs, .vil] s t)
    ∧ (vflitGood f = true → bitsOf hdr 22 2 = 2 → bitOf hdr 38 = true → lnkState s ≠ 7 →
        exec (.vilgerFlit h f) s = .next (moduleReset s1 3 false))
    ∧ (vflitGood f = true → lnkState s = 5 → bitsOf hdr 22 2 = 1 →
      (hdr % 1024 ≠ (vhalf s n).rxSeq → ∃ t, exec (.vilgerFlit h f) s = .next t
        ∧ vhalf t n = Sys2Proof.Claims.naked true (vhalf s n)
        ∧ regsBut [(halfStk n, 0x110084), (halfStk n, 0x110088)] s t ∧ changesOnly [.regs, .vil] s t)
      ∧ (hdr % 1024 = (vhalf s n).rxSeq → ∃ s2, exec (.vilgerFlit h f) s
            = .next (takeSlots ((vhalf s2 n).slots.length + 1) s2 n)
          ∧ (vhalf s2 n).rxSeq = ((vhalf s n).rxSeq + 1) % 1024 ∧ (vhalf s2 n).nak = false
          ∧ (vhalf s2 n).slots = (vhalf s n).slots ++ chunks 16 14 ((f.bytes.drop 8).take 224)
          ∧ (vhalf s2 n).heard = true
          ∧ (vhalf s2 n).credits = (if bitsOf hdr 24 2 < 3 then (vhalf s n).credits.set (bitsOf hdr 24 2)
              (nth (vhalf s n).credits (bitsOf hdr 24 2) + bitsOf hdr 26 12) else (vhalf s n).credits)
          ∧ (bitOf hdr 20 = true → bitOf hdr 21 = false → (vhalf s n).waiting = [] → (vhalf s n).stalled = [] →
              (vhalf s2 n).replay
              = (vhalf s n).replay.filter (fun q => !decide ((bitsOf hdr 10 10 + 1024 - q.seq) % 1024 < 256)))
          ∧ changesOnly [.regs, .vil] s s2))

/-- R366 to R371, R471: DAT ends the request of its tag and gives its data to the requester, and CMP ends a write; a
tag that no request holds sets ORPHAN. SNI drops the line, poisons its outstanding reads and is answered when the half
has credits for the answer, which waits otherwise; of a watched line it sends a notice to the lead Helm. REGRD and
REGWR access a register as the companion, which counts a flit (the model's own choice, notes/assumptions/16.md), and
are answered with its status. The model's own choices it rests on: notes/assumptions/16.md, notes/assumptions/36.md
and notes/assumptions/41.md. -/
def Obligations.VilgerMessages : Prop :=
  ∀ (s : State), lnkReach s = true → lnkState s = 5 →
    (∀ (h : BitVec 1) (tag : BitVec 12), reqOf s h.toNat tag = none →
      ∃ t, rget t (halfStk h.toNat) LNK_FAULT_ORPHAN = 1 ∧ regsBut [(halfStk h.toNat, 0x110010)] s t
        ∧ changesOnly [.regs] s t
        ∧ (∀ st d, exec (.dat h tag st d) s = .next t) ∧ ∀ st, exec (.cmp h tag st) s = .next t)
    ∧ (∀ (h : BitVec 1) (tag : BitVec 12) (q : VReq) (st : Status) (d : List Byte), reqOf s h.toNat tag = some q →
      let line := q.msg.addr.toNat / 64
      let s1 := endReq s h.toNat q
      let s2 := if q.msg.opc = 0x01 ∧ st = .ok ∧ q.poisoned = false
        then installLine s1 h.toNat line (d.take 64) (q.purpose == .watch) else s1
      (∀ id i, q.purpose = .packet id i →
        exec (.dat h tag st d) s = .next (endPart s2 id i st (partBytes s2 id i (d.take 64)))
        ∧ exec (.cmp h tag st) s = .next (endPart s1 id i st []))
      ∧ (q.purpose = .watch → exec (.dat h tag st d) s = .next (if q.again then watchRead s2 (64 * line) else s2))
      ∧ (∀ g, q.purpose = .helm g → exec (.cmp h tag st) s = .next (groupCmp s1 g)))
    ∧ (∀ a : BitVec 48, let h := halfOf a.toNat
      let m : VMsg := ⟨BitVec.ofNat 1 h, 0x07, 0, 1, 0, 0, []⟩
      s.vil.halves.length = 2 → ∃ t, exec (.sni a) s = .next t
      ∧ (hasCredit (vhalf s h) m = true → t.vil.out = s.vil.out ++ [m])
      ∧ (hasCredit (vhalf s h) m = false → t.vil.out = s.vil.out ∧ (vhalf t h).stalled = (vhalf s h).stalled ++ [m])
      ∧ ((watchedLines s).contains (64 * (a.toNat / 64)) = true → leadOf s = some (rget s 0 LNK_CTL_LEADSTK) →
          t.serve.notices = s.serve.notices ++ [BitVec.ofNat 48 (64 * (a.toNat / 64))])
      ∧ ((watchedLines s).contains (64 * (a.toNat / 64)) = false → t.serve = s.serve)
      ∧ changesOnly [.regs, .vil, .serve] s t)
    ∧ (∀ (h : BitVec 1) (hdr : BitVec 128),
      let k := bitsOf hdr.toNat 43 3
      let off := bitsOf hdr.toNat 22 21
      let wide := bitOf hdr.toNat 46
      let s0 := crossFlits s 0 k 3 1
      let r := accessReg2 s0 .companion k off wide none
      let w := accessReg2 s0 .companion k off wide (some (BitVec.ofNat 64 (hdr.toNat / 2 ^ 64)))
      exec (.regrd h hdr) s = .next (sendMsg r.1 ⟨BitVec.ofNat 1 h.toNat, 0x09, BitVec.ofNat 12 (bitsOf hdr.toNat 8 12), 1,
          BitVec.ofNat 48 (64 * statusCode r.2.1), if r.2.1 = .ok then r.2.2 else 0, []⟩)
      ∧ exec (.regwr h hdr) s = .next (sendMsg w.1 ⟨BitVec.ofNat 1 h.toNat, 0x08, BitVec.ofNat 12 (bitsOf hdr.toNat 8 12), 1,
          BitVec.ofNat 48 (64 * statusCode w.2.1), 0, []⟩))

/-- R374, R381, Table 16.2: an error on a crossing channel sets XREPLAY in both its stacks and counts a transient event of
the channel; eight of them in a row retrain it; a channel that could not retrain sets XDOWN and counts a repeated event,
which resets the module when the channel has become lasting; a retrain that succeeded ends. Eight replays in a row
retrain a fleet port. The model's own choices it rests on: notes/assumptions/57.md. -/
def Obligations.CrossingChannels : Prop :=
  ∀ (s : State) (ch : BitVec 8), 3 ≤ s.rst.domains → ch.toNat < 248 →
    let count := mapGet (fun _ => 0) s.fleet.xreplays ch.toNat
    let mark := fun (s : State) (f : Fld) => (crossingStacks ch.toNat).foldl (fun s k => rset s k f) s
    let replayed := { s with fleet := { s.fleet with
      xreplays := mapSet (fun _ => 0) s.fleet.xreplays ch.toNat (count + 1) } }
    let ended := { s with fleet := { s.fleet with xtrain := s.fleet.xtrain.erase ch.toNat } }
    let a := logCount (mark replayed STK_NOC_FAULT_XREPLAY) (crossingUnit ch.toNat) false 1 0
    let b := logCount (mark ended STK_NOC_FAULT_XDOWN) (crossingUnit ch.toNat) true 1 0
    let training := s.fleet.xtrain.contains ch.toNat
    (a.2 = false → exec (.crossingFlitError ch) s = .next a.1)
    ∧ (a.2 = true → exec (.crossingFlitError ch) s = .next (moduleReset a.1 8 false))
    ∧ (training = true → b.2 = false → exec (.crossingRetrainDone ch false) s = .next b.1)
    ∧ (training = true → b.2 = true → exec (.crossingRetrainDone ch false) s = .next (moduleReset b.1 8 false))
    ∧ (∀ f : Fld, f.off = STK_NOC_FAULT_XREPLAY.off → f.lo + f.width ≤ 32 → 1 < 2 ^ f.width → f.stride = 0 →
        ∀ k ∈ crossingStacks ch.toNat, rget (mark s f) k f = 1)
    ∧ (training = true → exec (.crossingRetrainDone ch true) s = .next ended)
    ∧ (training = false → ∀ ok, exec (.crossingRetrainDone ch ok) s = .next s)
    ∧ (4 ≤ s.rst.domains → 8 ≤ count → training = false → exec (.linkReplayLimit (.crossing ch)) s
        = .next { s with fleet := { s.fleet with
            xreplays := mapSet (fun _ => 0) s.fleet.xreplays ch.toNat 0
            xtrain := s.fleet.xtrain ++ [ch.toNat] } })
    ∧ (4 ≤ s.rst.domains → count < 8 ∨ training = true → exec (.linkReplayLimit (.crossing ch)) s = .next s)
    ∧ (∀ p : BitVec 4, 4 ≤ s.rst.domains → 8 ≤ (portOf s p.toNat).replays →
        exec (.linkReplayLimit (.fleetPort p)) s = .next (retrainPort s p.toNat))

/-! ### Module resets, power and clocks -/

namespace Sys2Proof.Claims

/-- The causes in the order of R416. -/
def causeOrder : List Nat := [1, 4, 9, 5, 8, 3, 2, 6, 7]

/-- Whether a cause that R416 ranks before `cause` has been recorded in the BCK cycle that is now, 300 tile cycles. -/
def ranksBefore (s : State) (cause : Nat) : Bool :=
  decide (s.rst.causeAt = some (s.cyc / 300))
    && decide (causeOrder.idxOf (rget s 0 BNC_LAST_RESET_CAUSE) < causeOrder.idxOf cause)

/-- What every reset of the domains after Binnacle's leaves (R415, R417): no tile, DRAM byte, packet or report, no Vilger,
Chronometer, serving or power state but that of reset, tick 0, and at most Binnacle's domain released; a stack keeps
only the persistent copies of its table and what the log has retired of its frames, the fleet port blocks only the
module's hint, and no image's programming goes on (R429). -/
structure Dropped (s t : State) : Prop where
  tiles : t.tiles = []
  dram : t.dram = []
  net : t.net = []
  reports : t.reports = []
  vil : t.vil = VilgerSt.reset
  fleet : t.fleet = { FleetSt.reset with hint := s.fleet.hint }
  chr : t.chr = ChronoSt.reset
  serve : t.serve = ServeSt.reset
  pwr : t.pwr = PowerSt.reset
  tick : t.tick = 0
  slot0 : t.slot0 = 0
  stk : ∀ d ∈ t.stk, ∃ a b l, d = { StackSt.reset with copyA := a, copyB := b, retired := l }
  domains : t.rst.domains ≤ 1
  rest : t.cyc = s.cyc ∧ t.img = { s.img with begun := [] } ∧ t.tap = s.tap ∧ t.answers = s.answers ∧ t.pending = s.pending

/-- What a module reset with a cause leaves (R415 to R417, R456, R460): the domains are dropped; the converter is at
standby and MAIN_EN is 0; BNC_LAST_RESET holds the cause, unless a cause that ranks before it was recorded in the same
BCK cycle; bring-up is at step 1 when Binnacle's domain resets too or only recovery mode is left, else at step 2. -/
structure ModuleReset (s t : State) (cause : Nat) (island : Bool) : Prop extends Dropped s t where
  last : ranksBefore s cause = false → rget t 0 BNC_LAST_RESET_CAUSE = cause ∧ rget t 0 BNC_LAST_RESET_SCOPE = 0
  kept : ranksBefore s cause = true → rget t 0 BNC_LAST_RESET_CAUSE = rget s 0 BNC_LAST_RESET_CAUSE
  state : pwrState t = 0
  mainEn : rget t 0 PWR_CTL_MAIN_EN = 0
  safe : rget t 0 CLK_STATUS_SAFE = 0
  step : rget t 0 BNC_BRINGUP_STEP = if island || ron t 0 LSR_STATUS_RECOVERY then 1 else 2
  island_ : t.rst.domains = if island then 0 else min s.rst.domains 1

/-- A hard trip with a cause (R402): a module reset with cause TRIP that stays in TRIPPED, the cause kept in PWR_TRIP. -/
structure Tripped (s t : State) (cause : Nat) : Prop extends Dropped s t where
  last : ranksBefore s 5 = false → rget t 0 BNC_LAST_RESET_CAUSE = 5
  state : pwrState t = 4
  trip : rget t 0 PWR_TRIP_CAUSE = cause
  mainEn : rget t 0 PWR_CTL_MAIN_EN = 0
  step : rget t 0 BNC_BRINGUP_STEP = if ron t 0 LSR_STATUS_RECOVERY then 1 else 2

end Sys2Proof.Claims

/-- R415, R416, R418, R382, R361, R443, R444: what each command that resets the module leaves: power-on (cause 1), the
watchdog (4) and an overrun of a long command (9) with Binnacle's domain; a reset from the Bearing port (2), Vilger's
hot reset (3), a fleet reset message under its four conditions (6) and the lead Helm's missing heartbeat (8) without
it. Any other write of BNC_FLTRST is counted. The model's own choices it rests on: notes/assumptions/39.md and
notes/assumptions/105.md. -/
def Obligations.ModuleResets : Prop :=
  ∀ (s : State),
    (∃ t, exec .watchdog s = .next t ∧ ModuleReset s t 4 true)
    ∧ (binnacleRuns s = true → s.bnc.long ≠ none → ∃ t, exec .longOverrun s = .next t ∧ ModuleReset s t 9 true)
    ∧ (∀ a : BearingArg, portRuns s = true → s.bnc.long = none → ron s 0 LSR_STATUS_RECOVERY = false →
        (a.data = 0x5A5A → ∃ t, exec (.bearingReset a) s = .next t ∧ ModuleReset s t 2 false
          ∧ t.bnc.replies = s.bnc.replies ++ [⟨0, 0⟩])
        ∧ (a.data ≠ 0x5A5A → exec (.bearingReset a) s = .next (reply s 2 0)))
    ∧ (lnkReach s = true → lnkState s ≠ 0 → lnkState s ≠ 7 →
        ∃ t, exec .hotReset s = .next t ∧ ModuleReset s t 3 false)
    ∧ (∀ (m : BitVec 10) (k : BitVec 3), islandUp s = true → m ≠ moduleNo s → m.toNat < moduleCount s → ron s 0 BNC_FLTCTL_FLTRST_EN = true →
        rget s 0 CHR_EPOCH_EPOCH ≠ 0 →
        ∃ t, exec (.fltrst (.helm m k true) 0xA5A5) s = .next t ∧ ModuleReset s t 6 false)
    ∧ (∀ (src : Source) (v : Word), islandUp s = true →
        (v ≠ 0xA5A5 ∨ ron s 0 BNC_FLTCTL_FLTRST_EN = false ∨ rget s 0 CHR_EPOCH_EPOCH = 0 ∨ 
          ∀ m k, src = .helm m k true → m = moduleNo s ∨ moduleCount s ≤ m.toNat) →
        exec (.fltrst src v) s = .next (rbump s 0 BNC_FLTREJ))
    ∧ (∀ k : BitVec 3, binnacleRuns s = true → 7 ≤ s.rst.domains → wrapperClosed s 1 k.toNat 0 = false → leadOf s = some k.toNat →
        let s1 := elapseToTick s ((stkOf s k.toNat).beat + 10000000)
        (stkOf s k.toNat).beat + 10000000 ≤ s1.tick → ∃ t, exec (.heartbeatTimeout k) s = .next t
          ∧ ModuleReset (logCount s1 (helmUnit k.toNat) true 1 0).1 t 8 false)
    ∧ (∃ t, exec .poweron s = .next t ∧ Dropped s t ∧ rget t 0 BNC_LAST_RESET_CAUSE = 1 ∧ pwrState t = 0
        ∧ rget t 0 PWR_TRIP_CAUSE = 0 ∧ rget t 0 BNC_BRINGUP_STEP = 1 ∧ t.rst.domains = 0)

/-- R394, R395, R396, R402: MAIN_EN in STANDBY closes the input disconnect and starts charging, or is held while
bring-up has not come to step 3 or the module is hot; charging complete and the bus in regulation make STATE MAIN.
Charging that does not finish, an input or a bus out of range, and too high a 10 ms mean of the power trip the module
with their cause (R401: 1,000 samples of 10 µs, in W, and 100,000 for the mean over 1 s). The model's own choices it
rests on: notes/assumptions/39.md, notes/assumptions/63.md, notes/assumptions/79.md and notes/assumptions/102.md. -/
def Obligations.PowerEntry : Prop :=
  ∀ (s : State),
    (islandUp s = true → ron s 0 LSR_STATUS_RECOVERY = false → pwrState s = 0 → s.bnc.stopped = false →
      (mainWaits s = false → ∃ t, exec (.mainEn true) s = .next t ∧ pwrState t = 1 ∧ rget t 0 PWR_CTL_MAIN_EN = 1
        ∧ t.pwr = { s.pwr with held := false, charged := false } ∧ changesOnly [.regs, .pwr] s t
        ∧ regsBut [(0, 0x150000), (0, 0x150004)] s t)
      ∧ (mainWaits s = true → ∃ t, exec (.mainEn true) s = .next t ∧ pwrState t = 0 ∧ t.pwr = { s.pwr with held := true }
        ∧ rget t 0 PWR_CTL_MAIN_EN = 1 ∧ changesOnly [.regs, .pwr] s t))
    ∧ (islandUp s = true → exec (.mainEn false) s
        = .next (orderlyStop { rput s 0 PWR_CTL_MAIN_EN 0 with pwr := { s.pwr with held := false } }))
    ∧ (pwrState s = 1 → exec .chargeComplete s = .next { s with pwr := { s.pwr with charged := true } })
    ∧ (pwrState s = 1 → s.pwr.charged = true → ∃ t, exec .vbusInRegulation s = .next t ∧ pwrState t = 2
        ∧ regsBut [(0, 0x150004)] s t ∧ changesOnly [.regs] s t)
    ∧ (pwrState s = 1 → s.pwr.charged = false → ∃ t, exec .inrush s = .next t ∧ Tripped s t 7)
    ∧ (pwrState s ≠ 4 → (∃ t, exec .vinuv s = .next t ∧ Tripped s t 2) ∧ ∃ t, exec .vinov s = .next t ∧ Tripped s t 3)
    ∧ (pwrState s = 2 ∨ pwrState s = 5 → (∃ t, exec .busuv s = .next t ∧ Tripped s t 4) ∧ ∃ t, exec .busov s = .next t ∧ Tripped s t 5)
    ∧ (∀ v i : Nat, binnacleRuns s = true →
        let l := (min 65535 v * min 65535 i :: s.bnc.powers).take 100000
        let mean := fun (n : Nat) => (l.take n).foldl (· + ·) 0 / (1000 * max 1 (min n l.length))
        (20000 < mean 1000 → pwrState s ≠ 4 → ∃ t, exec (.powerSample v i) s = .next t ∧ Tripped s t 6)
        ∧ (mean 1000 ≤ 20000 → ∃ t, exec (.powerSample v i) s = .next t
          ∧ rget t 0 PWR_VIN_V = min 65535 v ∧ rget t 0 PWR_VIN_I = min 65535 i ∧ t.bnc = { s.bnc with powers := l }
          ∧ rget t 0 PWR_PAVG_P10MS = mean 1000 ∧ rget t 0 PWR_PAVG_P1S = min 65535 (mean 100000)
          ∧ (16000 < mean 100000 → rget s 0 PWR_PAVG_P1S ≤ 16000 → rget t 0 PWR_STATUS_OVERTDP = 1
              ∧ rget t 0 PWR_OVERTDP = (rget s 0 PWR_OVERTDP + 1) % 2 ^ 32)
          ∧ (mean 100000 ≤ 16000 → regsBut [(0, PWR_VIN_V.off), (0, 0x150014)] s t ∧ t.log = s.log)
          ∧ changesOnly [.regs, .log, .bnc] s t))
    ∧ (∀ v i : Nat, binnacleRuns s = false → exec (.powerSample v i) s = .next s)
    ∧ (islandUp s = true → ∃ t, exec .pwrLock s = .next t ∧ rget t 0 PWR_CTL_LOCK = 1
        ∧ rget t 0 PWR_CTL_MAIN_EN = rget s 0 PWR_CTL_MAIN_EN ∧ regsBut [(0, 0x150000)] s t ∧ changesOnly [.regs] s t)

/-- R397, R406, R407: ON has a stack that is off ramp up, and ON 0 takes the power of its compute die and DRAM at once
and has it ramp down; after 500 µs a ramp ends, and one whose ON was cleared meanwhile ramps down. A multiplexer that
has switched stands on its source, which it cannot while the old source does not run; one that hangs after 64 BCK
cycles is counted and each block of its domain is reset, and Binnacle's own stops its core. The model's own choices it
rests on: notes/assumptions/39.md and notes/assumptions/61.md. -/
def Obligations.StackPower : Prop :=
  ∀ (s : State),
    (∀ k : BitVec 3, 3 ≤ s.rst.domains → wrapperClosed s 5 k.toNat 0 = false →
      (rget s k.toNat PWR_STK_STATUS_STATE = 0 → ∃ t, exec (.stackOn k true) s = .next t ∧ stackOnNow t k.toNat = true
        ∧ rget t k.toNat PWR_STK_STATUS_STATE = 1
        ∧ regsBut [(k.toNat, 0x50000), (k.toNat, 0x50004)] s t ∧ changesOnly [.regs] s t)
      ∧ (rget s k.toNat PWR_STK_STATUS_STATE = 2 → machineSafe s = true → ∃ t, exec (.stackOn k false) s = .next t
        ∧ stackOnNow t k.toNat = false ∧ rget t k.toNat PWR_STK_STATUS_STATE = 3
        ∧ rget t k.toNat PWR_STK_STATUS_DRAM_OK = 0 ∧ (stkOf t k.toNat).dramReady = false
        ∧ regsBut [(k.toNat, 0x50000), (k.toNat, 0x50004)] s t
        ∧ changesOnly [.regs, .tiles, .dram, .stk, .pwr] s t))
    ∧ (∀ k : BitVec 3,
      (rget s k.toNat PWR_STK_STATUS_STATE = 1 →
        exec (.stackPowerDone k) s = .next (stackUp (elapseNs s 500000) k.toNat)
        ∧ (stackOnNow s k.toNat = false → rget s 0 BNC_BRINGUP_STEP ≠ 5 → ∃ t, exec (.stackPowerDone k) s = .next t
          ∧ rget t k.toNat PWR_STK_STATUS_STATE = 3
          ∧ rget t k.toNat PWR_STK_STATUS_DRAM_OK = rget s k.toNat PWR_STK_STATUS_DRAM_OK
          ∧ regsBut [(k.toNat, 0x50004)] s t ∧ changesOnly [.cyc, .tick, .tfrac, .regs] s t))
      ∧ (rget s k.toNat PWR_STK_STATUS_STATE = 3 → s.pwr.stopping = false → stackOnNow s k.toNat = false →
        ∃ t, exec (.stackPowerDone k) s = .next t ∧ rget t k.toNat PWR_STK_STATUS_STATE = 0
          ∧ regsBut [(k.toNat, 0x50004)] s t ∧ changesOnly [.cyc, .tick, .tfrac, .regs] s t))
    ∧ (∀ m : MuxRef, sourceRuns s m (!muxSel s m) = false → exec (.muxSwitch m) s = .next s)
    ∧ (∀ m : MuxRef, sourceRuns s m (!muxSel s m) = true → ∃ t, exec (.muxSwitch m) s = .next t ∧ t.pwr = { s.pwr with switching := s.pwr.switching.erase m }
        ∧ (∀ k, muxStack m = some k → rget t k CLK_SEL_SWITCHING
            = bit ((s.pwr.switching.erase m).any fun x => muxStack x == some k))
        ∧ changesOnly [.regs, .pwr] s t)
    ∧ (∀ m : MuxRef, m ≠ .binnacle → binnacleRuns s = true → s.pwr.switching.contains m = true →
        let s1 := rbump (endSwitch (elapseNs s 16000) m) 0 CLK_HANGS
        rget s1 0 CLK_HANGS = (rget s 0 CLK_HANGS + 1) % 2 ^ 32
        ∧ exec (.muxHang m) s = .next (match m with
          | .tile r => ensureReset s1 (tileBlock r)
          | .mesh k => ensureReset (ensureReset s1 ⟨5, k, 0⟩) ⟨1, k, 0⟩
          | .dram k => ensureReset s1 ⟨4, k, 0⟩
          | .binnacle => s))
    ∧ (∀ b : UnitRef, ensureReset s b = if (resetOf s b).isSome then s else startBlock s b false)
    ∧ (∃ t, exec (.muxHang .binnacle) s = .next t ∧ t.bnc = { s.bnc with halted := true } ∧ changesOnly [.bnc] s t)

/-- R404, R410 to R413, R199: an enabled PLL locks, and so does a link die's core PLL and Binnacle's; the loss of a
clock is recorded and puts the module into the safe state, where SAFE is latched and everything but Binnacle's island
is held in reset, until the clock returns, which SAFE outlives; a frequency counter's measurement starts with DONE 0
and ends with DONE and its count, which lies within one of what TARGET, BASE, GATE and the clocks' tolerance give. A
power loss clears every register, and NOR, NAND and fuses stay. The model's own choices it rests on:
notes/assumptions/39.md, notes/assumptions/61.md and notes/assumptions/105.md. -/
def Obligations.Clocks : Prop :=
  ∀ (s : State),
    (∀ k p : BitVec 3, 2 ≤ s.rst.domains → p.toNat < 5 → ron s k.toNat CLK_PLL_EN p.toNat = true →
      ∃ t, exec (.pllLock k p) s = .next t ∧ rget t k.toNat CLK_PLL_LOCK p.toNat = 1
        ∧ regsBut [(k.toNat, 0x50100 + 4 * p.toNat)] s t ∧ changesOnly [.regs] s t)
    ∧ (∀ k : BitVec 3, 2 ≤ s.rst.domains →
      (∀ d, stackDie k.toNat = some d → ∃ t, exec (.pllLock k 5) s = .next t
        ∧ t.pwr = { s.pwr with linkLocks := if s.pwr.linkLocks.contains d then s.pwr.linkLocks else s.pwr.linkLocks ++ [d] }
        ∧ changesOnly [.pwr] s t)
      ∧ (stackDie k.toNat = none → exec (.pllLock k 5) s = .next s))
    ∧ (islandUp s = true → ∀ k, ∃ t, exec (.pllLock k 6) s = .next t ∧ rget t 0 CLK_STATUS_BNC_LOCK = 1
        ∧ changesOnly [.regs] s t)
    ∧ (∀ c : ClockLoss, ∃ t, exec (.lossOfClock c) s = .next t ∧ Dropped s t ∧ rget t 0 CLK_STATUS_SAFE = 1
        ∧ pwrState t = (if pwrState s = 4 then 4 else 3)
        ∧ rget t 0 CLK_LOCS = (rget s 0 CLK_LOCS + 1) % 2 ^ 32
        ∧ (c = .bck → rget t 0 CLK_STATUS_LOC_BCK = 1 ∧ rget t 0 CLK_STATUS_BCK_OK = 0)
        ∧ (c = .bck ∨ c = .binnaclePll → rget t 0 CLK_STATUS_BNC_LOCK = 0)
        ∧ (c ≠ .bck → rget t 0 CLK_STATUS_LOC_REF = 1))
    ∧ (∃ t, exec (.clockReturn .bck) s = .next t ∧ rget t 0 CLK_STATUS_BCK_OK = 1
        ∧ rget t 0 CLK_STATUS_SAFE = rget s 0 CLK_STATUS_SAFE ∧ regsBut [(0, 0x150100)] s t ∧ changesOnly [.regs] s t)
    ∧ (∃ t, exec (.clockReturn .ref) s = .next t ∧ rget t 0 CLK_STATUS_REF_OK = 1
        ∧ rget t 0 CLK_STATUS_SAFE = rget s 0 CLK_STATUS_SAFE ∧ regsBut [(0, 0x150100)] s t ∧ changesOnly [.regs] s t)
    ∧ (∃ t, exec .powerLoss s = .next t ∧ Dropped s t ∧ t.regs = [] ∧ t.log.nor = s.log.nor ∧ t.log.entries = []
        ∧ t.rst.domains = 0 ∧ t.lsr.dikCopy = 0)
    ∧ (∀ f : FmeasRef, fmeasReach s f = true → ∃ t, exec (.fmeasGo f) s = .next t
        ∧ rget t (fmeasStack f) (fmeasDone f) = 0 ∧ t.pwr = { s.pwr with measuring := s.pwr.measuring.erase f ++ [f] }
        ∧ changesOnly [.regs, .pwr] s t)
    ∧ (∀ (f : FmeasRef) (n : Word), s.pwr.measuring.contains f = true → ∃ t, exec (.fmeasDone f n) s = .next t
        ∧ rget t (fmeasStack f) (fmeasCount f) = fmeasValue s f n % 2 ^ (fmeasCount f).width
        ∧ ((fmeasRange s f).1 ≤ (fmeasRange s f).2 →
            (fmeasRange s f).1 ≤ fmeasValue s f n ∧ fmeasValue s f n ≤ (fmeasRange s f).2)
        ∧ rget t (fmeasStack f) (fmeasDone f) = 1
        ∧ t.pwr = { s.pwr with measuring := s.pwr.measuring.erase f } ∧ changesOnly [.regs, .pwr] s t)

/-! ### The log, faults and recovery -/

namespace Sys2Proof.Claims

/-- The entry of a unit, a blank one where the log has none. -/
def unitEntry (s : State) (u : UnitRef) : LogEntry := (logEntryOf s u).getD (LogEntry.blank u)

/-- One event of unit `u` has been counted (R377, R378, Table 16.3): its entry shows the cause and the tick, the counter
and the newest bucket of its kind of event are one higher, held to their widths; the entry turns lasting when the
counts of its window say so, and is then in NOR at once; no other entry of the working copy differs. -/
structure Counted (s t : State) (u : UnitRef) (repeated : Bool) (cause : Nat) : Prop where
  listed : (logEntryOf t u).isSome = true
  cause_ : (unitEntry t u).cause = cause
  tick : (unitEntry t u).tick = s.tick
  repeats : (unitEntry t u).repeats = if repeated then min (2 ^ 32 - 1) ((unitEntry s u).repeats + 1) else (unitEntry s u).repeats
  trans : (unitEntry t u).trans = if repeated then (unitEntry s u).trans else min (2 ^ 32 - 1) ((unitEntry s u).trans + 1)
  bucket : (if repeated then (unitEntry t u).rb = (unitEntry s u).rb.set 0 (min 255 (nth (unitEntry s u).rb 0 + 1))
      ∧ (unitEntry t u).tb = (unitEntry s u).tb
    else (unitEntry t u).tb = (unitEntry s u).tb.set 0 (min 65535 (nth (unitEntry s u).tb 0 + 1))
      ∧ (unitEntry t u).rb = (unitEntry s u).rb)
  stress : (unitEntry t u).stress = (unitEntry s u).stress
  st : (unitEntry t u).st = if (unitEntry t u).over = true ∧ ((unitEntry s u).st = 0 ∨ (unitEntry s u).st = 2) then 1
    else (unitEntry s u).st
  atOnce : (unitEntry t u).over = true → (unitEntry s u).st = 0 ∨ (unitEntry s u).st = 2 →
    t.log.nor.find? (fun e => e.unit == u) = some (unitEntry t u)
  others : ∀ v, v ≠ u → logEntryOf t v = logEntryOf s v
  rest : t.log.extra = s.log.extra ∧ t.log.lines = s.log.lines ∧ t.log.spared = s.log.spared

end Sys2Proof.Claims

/-- R377, R378, R391, R392: a corrected DRAM error is one transient event of its channel. A stress test of a tile that may
be stressed counts HLM_STRESSRUN; a failed one is a repeated event of the tile, raises its stress count, and retires
the tile (STATE 3, in NOR at once) at the second. An append copies the changed entries to NOR, and leaves none of them
changed; a half of NOR that is full is left for the other, which takes every entry (R378). At a bucket boundary each entry of the kind loses the oldest eighth of its window. The model's own choices it
rests on: notes/assumptions/39.md and 40.md. -/
def Obligations.LogEvents : Prop :=
  ∀ (s : State),
    (∀ (k : BitVec 3) (ch : BitVec 5), ∃ t, exec (.dramCorrected k ch) s = .next t
      ∧ Counted s t (dramUnit k.toNat ch.toNat) false 0 ∧ changesOnly [.log] s t)
    ∧ (∀ (r : TileRef) (site : Nat), ron s (leadStk s) HLM_RCV_CTL_STRESS_EN = true → stressable s r = true →
        siteOf s r.stack.toNat r.tile.toNat = some site →
        (∃ t, exec (.stressTest r true) s = .next t ∧ t = rbump s (leadStk s) HLM_STRESSRUN)
        ∧ (∃ t, exec (.stressTest r false) s = .next t ∧ changesOnly [.regs, .tiles, .log] s t
            ∧ regsBut [(leadStk s, HLM_STRESSRUN.off)] s t
            ∧ rget t (leadStk s) HLM_STRESSRUN = (rget s (leadStk s) HLM_STRESSRUN + 1) % 2 ^ 32
            ∧ (unitEntry t (tileUnit r.stack.toNat site)).stress
                = min 255 ((unitEntry s (tileUnit r.stack.toNat site)).stress + 1)
            ∧ (unitEntry t (tileUnit r.stack.toNat site)).repeats
                = min (2 ^ 32 - 1) ((unitEntry s (tileUnit r.stack.toNat site)).repeats + 1)
            ∧ (1 ≤ (unitEntry s (tileUnit r.stack.toNat site)).stress →
                (unitEntry t (tileUnit r.stack.toNat site)).st = 3
                ∧ t.log.nor.find? (fun e => e.unit == tileUnit r.stack.toNat site)
                    = some (unitEntry t (tileUnit r.stack.toNat site)))
            ∧ ∀ v, v ≠ tileUnit r.stack.toNat site → logEntryOf t v = logEntryOf s v))
    ∧ (binnacleRuns s = true → ∃ t, exec .logAppend s = .next t ∧ (∀ u ∈ t.log.changed, ∀ e ∈ s.log.entries, e.unit ≠ u)
        ∧ t.log.entries = s.log.entries ∧ changesOnly [.log] s t
        ∧ (s.log.norUsed + (s.log.entries.countP fun e => s.log.changed.contains e.unit) ≤ 262144 → ∀ u, s.log.changed.contains u = false → t.log.nor.find? (fun e => e.unit == u) = s.log.nor.find? (fun e => e.unit == u))
        ∧ ∀ u, s.log.changed.contains u = true → (s.log.entries.filter fun e => e.unit == u).length = 1 →
            t.log.nor.find? (fun e => e.unit == u) = logEntryOf s u)
    ∧ (∀ (g : LogSt) (e : LogEntry), 262144 ≤ g.norUsed → appendNor g e
        = { g with nor := g.entries, norUsed := g.entries.length, norUpper := !g.norUpper, changed := [] })
    ∧ (∀ kind : BitVec 4, binnacleRuns s = true → ∃ t, exec (.logBucketBoundary kind) s = .next t ∧ changesOnly [.log] s t
        ∧ t.log.nor = s.log.nor ∧ t.log.entries.length = s.log.entries.length
        ∧ ∀ i (h : i < s.log.entries.length), t.log.entries[i]? = some (if s.log.entries[i].unit.kind = kind then
            { s.log.entries[i] with tb := 0 :: s.log.entries[i].tb.take 7, rb := 0 :: s.log.entries[i].rb.take 7 }
          else s.log.entries[i]))

/-- R374, R376, R382, R384, R386: an uncorrectable DRAM error is a repeated event of its channel, and the packets that read
its byte get no completion; where no berth uses it and no KV data or staged shard lies there, nothing else. A heartbeat's tick is noted and its flit counted; 10 ms without one of a released
Helm is a repeated event that resets the module, cause 8, when the Helm leads, and otherwise resets that Helm with
every step on its stack abandoned. Neither happens while its heartbeat is younger. The model's own choices it rests on:
notes/assumptions/16.md and 29.md. -/
def Obligations.MemoryAndHeartbeats : Prop :=
  ∀ (s : State),
    (∀ e : DramErr,
      let s0 := withholdReads s e.stack.toNat e.off
      let s1 := (logCount s0 (dramUnit e.stack.toNat e.channel.toNat) true 1 0).1
      changesOnly [.net] s s0
      ∧ (∀ p, p ∈ s0.net ↔ p ∈ s.net ∧ ¬ ((p.op = .get ∨ p.op = .add32 ∨ p.op = .add64 ∨ p.op = .ladd ∨ p.op = .cas64)
          ∧ addrModule p.dest = moduleNo s ∧ addrStack p.dest = e.stack.toNat ∧ addrRegion p.dest = 0
          ∧ addrOff p.dest ≤ e.off ∧ e.off < addrOff p.dest + p.len))
      ∧ Counted s0 s1 (dramUnit e.stack.toNat e.channel.toNat) true 0
      ∧ exec (.dramUncorrectable e) s = .next ((errorBerths s e.stack.toNat e.off).foldl
          (fun s b => berthFault s b 6 e.stack.toNat 0 0) (repairData s1 e.stack.toNat e.off))
      ∧ (errorBerths s e.stack.toNat e.off = [] → imagesAt s e.off = [] → versionsAt s e.off = [] →
          frameAt s e.stack.toNat e.off = none → inChart s e.stack.toNat e.off 1 = false →
          exec (.dramUncorrectable e) s = .next s1))
    ∧ (∀ k : BitVec 3, ∃ t, exec (.heartbeat k) s = .next t
        ∧ (k.toNat < s.stk.length → stkOf t k.toNat = { stkOf s k.toNat with beat := s.tick })
        ∧ (∀ j, j ≠ k.toNat → stkOf t j = stkOf s j)
        ∧ rget t k.toNat STK_FLITS_VC3 = (rget s k.toNat STK_FLITS_VC3 + 1) % 2 ^ 32
        ∧ regsBut [(k.toNat, STK_FLITS_VC3.off), (k.toNat, STK_STARVE.off), (k.toNat, STK_NOC_FAULT_CREDIT.off)] s t
        ∧ changesOnly [.regs, .stk] s t)
    ∧ (∀ k : BitVec 3, binnacleRuns s = true → 7 ≤ s.rst.domains → wrapperClosed s 1 k.toNat 0 = false →
        let s1 := elapseToTick s ((stkOf s k.toNat).beat + 10000000)
        (s1.tick < (stkOf s k.toNat).beat + 10000000 → exec (.heartbeatTimeout k) s = .next s)
        ∧ ((stkOf s k.toNat).beat + 10000000 ≤ s1.tick →
            let s2 := (logCount s1 (helmUnit k.toNat) true 1 0).1
            Counted s1 s2 (helmUnit k.toNat) true 0
            ∧ (leadOf s = some k.toNat → ∃ t, exec (.heartbeatTimeout k) s = .next t ∧ ModuleReset s2 t 8 false)
            ∧ (leadOf s ≠ some k.toNat → exec (.heartbeatTimeout k) s
                = .next (stackFault (startBlock (rbump s2 (leadStk s2) HLM_HBMISS) (helmBlock k.toNat) false) 11 k.toNat))))

/-- R385 to R387, R266, R440, R441: at its replay watch an abandoned step whose tiles' loads have halted runs again; a
notice of the running step at the host, and a record of it anywhere, abandon it; a notice or record of another step
changes nothing; 10 ms without the record disable the berth. A thermal stop event lets every berth end, counting one
event in the order; a thermal notice is written on to the berth's other modules at its host, and ends the berth with
THERMAL, once. The model's own choices it rests on: notes/assumptions/45.md, notes/assumptions/46.md,
notes/assumptions/47.md and notes/assumptions/63.md. -/
def Obligations.AbandonmentAndThermal : Prop :=
  ∀ (s : State) (b : BitVec 4),
    let n := b.toNat
    (∀ first w, (berthOf s n).step = .replay first w → (watchNo s - w).toNat < 2 ^ 31 → loadsHalted s n = true →
        n < s.serve.berths.length → (berthOf s n).charged = none →
        ∃ t, exec (.replayWatch b) s = .next t ∧ (berthOf t n).step = .running (watchNo s)
          ∧ (berthOf t n).lastStep = some (watchNo s) ∧ (berthOf t n).arrived = false ∧ (berthOf t n).loading = []
          ∧ (berthOf t n).attempts = (berthOf s n).attempts)
    ∧ (∀ first w, (berthOf s n).step = .replay first w → (2 ^ 31 ≤ (watchNo s - w).toNat ∨ loadsHalted s n = false) →
        exec (.replayWatch b) s = .next s)
    ∧ (∀ first m, hostModule s n = moduleNo s → (berthModules s n).contains m = true →
        ((berthOf s n).step = .running first → exec (.abandonNotice b first m) s
            = .next (abandonNow (sendRecords s n first (replayFrom s)) n 13 0 0 0 (replayFrom s)))
        ∧ ((berthOf s n).step ≠ .running first → exec (.abandonNotice b first m) s = .next s))
    ∧ (∀ first m, hostModule s n ≠ moduleNo s → exec (.abandonNotice b first m) s = .next s)
    ∧ (∀ first w,
        ((berthOf s n).step = .running first → exec (.abandonRecord b first w) s = .next (abandonNow s n 13 0 0 0 w)
          ∧ (replayMax s ≤ (berthOf s n).attempts + 1 → abandonNow s n 13 0 0 0 w
              = stopAfterLast (giveUp (stopTiles (countPending (noteAbandon s n 13 0 0 0 ((berthOf s n).attempts + 1)) n) n) n)))
        ∧ ((berthOf s n).step ≠ .running first → exec (.abandonRecord b first w) s = .next s))
    ∧ (∀ first t0, (berthOf s n).notice = some (first, t0) → berthState s n = 1 →
        let s1 := elapseToTick s (t0 + 10000000)
        (t0 + 10000000 ≤ s1.tick → exec (.abandonNoticeTimeout b) s
            = .next (disableBerth (putBerth s1 n { berthOf s n with notice := none }) n none))
        ∧ (s1.tick < t0 + 10000000 → exec (.abandonNoticeTimeout b) s = .next s1))
    ∧ (let asked := ron s 0 BNC_STATUS_THERMSTOP = true ∧ ron s (leadStk s) HLM_STATUS_THERMSTOP = false
      (¬ asked → exec .thermalStopEvent s = .next s)
      ∧ (asked → leadOf s = none → exec .thermalStopEvent s = .next (orderlyStop s))
      ∧ (asked → leadOf s ≠ none → (∀ i, i < 16 → berthState s i ≠ 1 ∧ berthState s i ≠ 2 ∧ (berthOf s i).step = .idle
          ∧ (berthOf s i).thermal = false) →
        exec .thermalStopEvent s = .next (orderlyStop (rset (countEvent s) (leadStk s) HLM_STATUS_THERMSTOP))))
    ∧ (let s1 := if hostModule s n = moduleNo s then sendHelm s ((otherModules s n).map fun m => HelmMsg.thermal m n) else s
      ((berthState s n ≠ 1 ∧ berthState s n ≠ 2) ∨ finalMade s n = true → exec (.thermalNotice b) s = .next s1)
      ∧ ((berthState s n = 1 ∨ berthState s n = 2) → finalMade s n = false → (berthOf s n).step = .idle →
        exec (.thermalNotice b) s = .next (stopAfterLast (finishBerth s1 n 2))))

/-! ### The Sounding ADC, block resets and bring-up -/

namespace Sys2Proof.Claims

/-- The channels whose codes Binnacle takes (Table 19.5): input, bus, rails and thermistors. -/
def taken_ (ch : Nat) : Prop := ch = 3 ∨ ch = 4 ∨ ch = 5 ∨ (8 ≤ ch ∧ ch < 24) ∨ (32 ≤ ch ∧ ch < 44)

/-- Which conversion starts when none runs (R447 to R449): none before the reference is ready; urgent ones first. -/
def nextConversion (s : State) : Option Bool :=
  if ron s 0 SND_STATUS_REF_RDY = false then none
  else if s.snd.urgent ≠ [] then some false
  else if ron s 0 SND_STATUS_SEQ_RUN = true then some true
  else none

end Sys2Proof.Claims

/-- R401, R432, R446 to R449: an urgent request enters the queue of four, behind what waits, with DONE 0, and aborts a
sequence conversion that runs; a fifth is dropped with URGOVF. FAST_EN has the timer request VIN, then IIN. A pass of
the sequence starts at its first enabled entry, or is counted as skipped while one runs. A request in the cycle in
which the entry before completed aborts nothing (notes/assumptions/103.md). A completed conversion is counted, its
code goes to the result of its request or entry, and the next one starts, but none before the reference buffer is
ready; Binnacle takes input, bus, rail and thermistor codes as its readings, and the fast pair's two as a sample of
input power. REFBUF_EN 0 clears REF_RDY and aborts the conversion in progress. The model's own choices it rests on:
notes/assumptions/56.md and notes/assumptions/103.md. -/
def Obligations.SoundingConversions : Prop :=
  ∀ (s : State),
    (islandUp s = true → s.snd.urgent.length < 4 → ∃ t, exec .urgentRequest s = .next t
      ∧ t.snd.urgent = s.snd.urgent ++ [(rget s 0 SND_CHSEL_CH, false)] ∧ rget t 0 SND_CHSEL_DONE = 0
      ∧ (s.snd.active = some true → rget t 0 SND_PREEMPT
              = (if s.snd.doneAt = some s.cyc then rget s 0 SND_PREEMPT else (rget s 0 SND_PREEMPT + 1) % 2 ^ 32)
          ∧ t.snd.active = if ron s 0 SND_STATUS_REF_RDY then some false else none)
      ∧ (s.snd.active = some false → t.snd.active = some false)
      ∧ (s.snd.active = none → t.snd.active = if ron s 0 SND_STATUS_REF_RDY then some false else none)
      ∧ regsBut [(0, SND_CHSEL_DONE.off), (0, SND_PREEMPT.off)] s t ∧ changesOnly [.regs, .snd] s t)
    ∧ (islandUp s = true → 4 ≤ s.snd.urgent.length → ∃ t, exec .urgentRequest s = .next t ∧ t.snd = s.snd
      ∧ rget t 0 SND_STATUS_URGOVF = 1 ∧ rget t 0 SND_CHSEL_DONE = 0
      ∧ regsBut [(0, SND_CHSEL_DONE.off), (0, SND_STATUS_URGOVF.off)] s t ∧ changesOnly [.regs] s t)
    ∧ (islandUp s = true → ron s 0 SND_CTL_FAST_EN = true → s.snd.urgent.length < 3 → s.snd.active ≠ some true →
        ∃ t, exec .fastPair s = .next t ∧ t.snd.urgent = s.snd.urgent ++ [(3, true), (4, true)]
          ∧ t.regs = s.regs ∧ changesOnly [.snd] s t)
    ∧ (ron s 0 SND_CTL_FAST_EN = false → exec .fastPair s = .next s)
    ∧ (islandUp s = true → ron s 0 SND_CTL_SEQ_EN = true →
        (ron s 0 SND_STATUS_SEQ_RUN = true → ∃ t, exec .sequencePass s = .next t ∧ t.snd = s.snd
          ∧ rget t 0 SND_STATUS_SEQLATE = 1 ∧ rget t 0 SND_SEQSKIP = (rget s 0 SND_SEQSKIP + 1) % 2 ^ 32
          ∧ regsBut [(0, SND_STATUS_SEQLATE.off), (0, SND_SEQSKIP.off)] s t ∧ changesOnly [.regs] s t)
        ∧ (ron s 0 SND_STATUS_SEQ_RUN = false → ∀ i, nextEntry s 0 = some i → ∃ t, exec .sequencePass s = .next t
          ∧ t.snd.pass = (s.snd.pass + 1) % 256 ∧ rget t 0 SND_STATUS_ENTRY = i ∧ rget t 0 SND_STATUS_SEQ_RUN = 1
          ∧ regsBut [(0, SND_STATUS_ENTRY.off)] s t ∧ changesOnly [.regs, .snd] s t))
    ∧ (∀ code : BitVec 12,
        (s.snd.active = none → exec (.conversionDone code) s = .next s)
        ∧ (s.snd.active = some false → ∀ ch l, s.snd.urgent = (ch, false) :: l → ∃ t, exec (.conversionDone code) s = .next t
          ∧ rget t 0 SND_MANRES_RESULT = (if channelReserved ch then 0 else code.toNat) ∧ rget t 0 SND_CHSEL_DONE = 1 ∧ t.snd.urgent = l
          ∧ rget t 0 SND_CONV = (rget s 0 SND_CONV + 1) % 2 ^ 32
          ∧ t.snd.active = nextConversion { s with snd := { s.snd with urgent := l } }
          ∧ changesOnly [.regs, .snd] s t)
        ∧ (s.snd.active = some true → ¬taken_ (rget s 0 SND_SEQ_CH (rget s 0 SND_STATUS_ENTRY)) →
          rget s 0 SND_STATUS_ENTRY < 32 →
          ∃ t, exec (.conversionDone code) s = .next t
            ∧ rget t 0 SND_RES_RESULT (rget s 0 SND_STATUS_ENTRY)
                = (if channelReserved (rget s 0 SND_SEQ_CH (rget s 0 SND_STATUS_ENTRY)) then 0 else code.toNat)
            ∧ rget t 0 SND_RES_VALID (rget s 0 SND_STATUS_ENTRY) = 1
            ∧ rget t 0 SND_RES_PASS (rget s 0 SND_STATUS_ENTRY) = s.snd.pass % 256
            ∧ rget t 0 SND_CONV = (rget s 0 SND_CONV + 1) % 2 ^ 32 ∧ t.snd.urgent = s.snd.urgent
            ∧ changesOnly [.regs, .snd] s t)
        ∧ (s.snd.active = some true → taken_ (rget s 0 SND_SEQ_CH (rget s 0 SND_STATUS_ENTRY)) →
          rget s 0 SND_STATUS_ENTRY < 32 →
          ∃ u, exec (.conversionDone code) s
              = .next (startConversion (takeChannel u (rget s 0 SND_SEQ_CH (rget s 0 SND_STATUS_ENTRY)) code))
            ∧ rget u 0 SND_RES_RESULT (rget s 0 SND_STATUS_ENTRY) = code.toNat
            ∧ rget u 0 SND_RES_VALID (rget s 0 SND_STATUS_ENTRY) = 1
            ∧ rget u 0 SND_CONV = (rget s 0 SND_CONV + 1) % 2 ^ 32 ∧ u.snd.active = none ∧ u.snd.urgent = s.snd.urgent
            ∧ changesOnly [.regs, .snd] s u)
        ∧ (s.snd.active = some false → binnacleRuns s = true → ∀ l,
          (s.snd.urgent = (3, true) :: l → ∃ u, exec (.conversionDone code) s = .next (startConversion u)
            ∧ rget u 0 SND_FASTRES_VIN = code.toNat ∧ rget u 0 PWR_VIN_V = code.toNat * 125 / 64
            ∧ rget u 0 SND_CONV = (rget s 0 SND_CONV + 1) % 2 ^ 32 ∧ u.snd.active = none ∧ u.snd.urgent = l
            ∧ changesOnly [.regs, .snd] s u)
          ∧ (s.snd.urgent = (4, true) :: l → ∃ u, exec (.conversionDone code) s = .next (startConversion (takePower u))
            ∧ rget u 0 SND_FASTRES_IIN = code.toNat ∧ rget u 0 PWR_VIN_I = code.toNat * 3125 / 2048
            ∧ rget u 0 SND_CONV = (rget s 0 SND_CONV + 1) % 2 ^ 32 ∧ u.snd.active = none ∧ u.snd.urgent = l
            ∧ changesOnly [.regs, .snd] s u))
        ∧ (binnacleRuns s = true →
          (rget (takeChannel s 5 code) 0 PWR_VBUS_V = code.toNat * 625 / 128)
          ∧ (∀ n, n < 12 → takeChannel s (32 + n) code = takeThermistor s n code)
          ∧ (∀ k, k < 8 → 3 ≤ s.rst.domains →
              takeChannel s (8 + k) code = sampleFlag s (8 + k) k PWR_STK_STATUS_VBD_OK code.toNat 1 776 824
              ∧ takeChannel s (16 + k) code = sampleFlag s (16 + k) k PWR_STK_STATUS_VREF_OK code.toNat 2 1188 1212))
        ∧ (binnacleRuns s = false → ∀ ch, takeChannel s ch code = s))
    ∧ (∀ (ch k : Nat) (f : Fld) (c mul lo hi : Nat),
        let good := decide (lo * 4096 ≤ c * 2500 * mul ∧ c * 2500 * mul ≤ hi * 4096)
        let n := mapGet (fun _ => 0) s.snd.agree ch
        let t := sampleFlag s ch k f c mul lo hi
        (good = ron s k f → t.regs = s.regs ∧ mapGet (fun _ => 0) t.snd.agree ch = 0)
        ∧ (good ≠ ron s k f → n < 3 → t.regs = s.regs ∧ mapGet (fun _ => 0) t.snd.agree ch = n + 1)
        ∧ (good ≠ ron s k f → 3 ≤ n → ∃ s1, t = rput s1 k f (bit good) ∧ s1.regs = s.regs
            ∧ mapGet (fun _ => 0) s1.snd.agree ch = 0 ∧ changesOnly [.snd] s s1)
        ∧ changesOnly [.regs, .snd] s t)
    ∧ (islandUp s = true → ∃ t, exec (.refbufEn true) s = .next t ∧ rget t 0 SND_CTL_REFBUF_EN = 1
        ∧ regsBut [(0, SND_CTL_REFBUF_EN.off)] s t ∧ changesOnly [.regs] s t)
    ∧ (islandUp s = true → ∃ t, exec (.refbufEn false) s = .next t ∧ rget t 0 SND_CTL_REFBUF_EN = 0
        ∧ rget t 0 SND_STATUS_REF_RDY = 0 ∧ t.snd = { s.snd with active := none }
        ∧ (s.snd.active ≠ none → rget t 0 SND_PREEMPT = (rget s 0 SND_PREEMPT + 1) % 2 ^ 32)
        ∧ changesOnly [.regs, .snd] s t)
    ∧ (ron s 0 SND_CTL_REFBUF_EN = true → s.snd.active = none → ∃ t, exec .refRdy s = .next t
        ∧ rget t 0 SND_STATUS_REF_RDY = 1 ∧ t.snd.urgent = s.snd.urgent
        ∧ t.snd.active = (if s.snd.urgent ≠ [] then some false else if ron s 0 SND_STATUS_SEQ_RUN = true then some true else none)
        ∧ regsBut [(0, SND_STATUS_REF_RDY.off)] s t ∧ changesOnly [.regs, .snd] s t)

/-- R421 to R424: BNC_BRST.GO is ignored, with REJECT set, while a BNC_BRST reset runs, and for a block whose reset is
in progress, that may not be reset, or whose domain is not released; else the block's wrapper closes, and BUSY shows
it. The reset is asserted once the block is idle, and 100 µs after the request in any case; for walkers and a DRAM
controller the module resets then. After 4 µs the block is released, and its reset is no longer in progress. The
model's own choices it rests on: notes/assumptions/31.md, notes/assumptions/45.md and notes/assumptions/106.md. -/
def Obligations.BlockResets : Prop :=
  ∀ (s : State),
    (islandUp s = true →
      ((ron s 0 BNC_BRST_STATUS_BUSY = true ∨ blockLegal s (namedBlock s) = false ∨ blockReleased s (namedBlock s) = false
          ∨ (resetOf s (namedBlock s)).isSome = true) →
        ∃ t, exec .blockReset s = .next t ∧ t = rset s 0 BNC_BRST_STATUS_REJECT)
      ∧ (ron s 0 BNC_BRST_STATUS_BUSY = false → blockLegal s (namedBlock s) = true → blockReleased s (namedBlock s) = true →
          resetOf s (namedBlock s) = none → ∃ t, exec .blockReset s = .next t
          ∧ rget t 0 BNC_BRST_STATUS_BUSY = 1 ∧ (resetOf t (namedBlock s)).isSome = true
          ∧ (blockInside s (namedBlock s) = true →
              t.rst.blocks = s.rst.blocks ++ [⟨namedBlock s, true, false, true, s.tick⟩]
              ∧ rget t 0 BNC_BRST_STATUS_QUIESCE = 1)))
    ∧ (∀ b : UnitRef, resetOf s b = none →
        exec (.idleAck b) s = .next s ∧ exec (.quiesceTimeout b) s = .next s ∧ exec (.blockRelease b) s = .next s)
    ∧ (∀ (b : UnitRef) (r : BlockRst), resetOf s b = some r →
        (r.quiesce = true → ((b.kind = 0 ∨ b.kind = 6) → blockInside s b = false) →
          exec (.idleAck b) s = .next (assertBlock s r false))
        ∧ (r.quiesce = true → (b.kind = 0 ∨ b.kind = 6) → blockInside s b = true → exec (.idleAck b) s = .next s)
        ∧ (r.quiesce = false → exec (.idleAck b) s = .next s ∧ exec (.quiesceTimeout b) s = .next s)
        ∧ (r.quiesce = true →
            let s1 := rset (elapseToTick s (r.at_ + 100000)) 0 BNC_BRST_STATUS_QTIMEOUT
            ((b.kind = 3 ∨ b.kind = 4) → ∃ s2 t, exec (.quiesceTimeout b) s = .next t
              ∧ s2 = assertBlock (abortInside s1 r.block) r true ∧ ModuleReset s2 t 8 false)
            ∧ (b.kind ≠ 3 → b.kind ≠ 4 → exec (.quiesceTimeout b) s
                = .next (assertBlock (abortInside s1 r.block) r true)))
        ∧ (r.asserted = true → ∃ t, exec (.blockRelease b) s = .next t
            ∧ t = releaseBlock (elapseToTick s (r.at_ + 4000)) r ∧ t.rst.blocks = s.rst.blocks.erase r)
        ∧ (r.asserted = false → exec (.blockRelease b) s = .next s))

/-- R419, R425, Table 18.2: the next order is released once its precondition holds, 64 µs on, and order 6 stack by
stack; before that, and once bring-up has ended, nothing happens; orders 4 and 7 load the firmware of the link dies
and the Helms (R461). A precondition that does not come ends bring-up in FAULTED. A bring-up step ends when its
condition holds: step 5 once all orders are released, step 7 once every stack's bring-up pass is over, step 9 once
discovery is, with FLEET_EN; and bring-up ends at step 11. The model's own choices it rests on:
notes/assumptions/58.md and notes/assumptions/111.md. -/
def Obligations.ReleaseAndBringup : Prop :=
  ∀ (s : State),
    (bringing s = true → preconditionHolds s (s.rst.domains + 1) = true → ∃ t, exec .domainRelease s = .next t
      ∧ (s.rst.domains ≠ 5 → t.rst.domains = s.rst.domains + 1 ∧ t.rst.stacks6 = 0)
      ∧ (s.rst.domains = 5 → s.rst.stacks6 < 7 → t.rst.domains = 5 ∧ t.rst.stacks6 = s.rst.stacks6 + 1)
      ∧ (s.rst.domains = 5 → s.rst.stacks6 = 7 → t.rst.domains = 6 ∧ t.rst.stacks6 = 0)
      ∧ (s.rst.domains = 6 → ∀ d ∈ t.stk, d.beat = t.tick)
      ∧ (s.rst.domains = 0 → t.lsr.dikCopy = 0 ∧ t.lsr.drawn = s.lsr.drawn + 8)
      ∧ (s.rst.domains = 3 → t.lsr = { s.lsr with linkFw := s.lsr.inForceB })
      ∧ (s.rst.domains = 6 → t.lsr = { s.lsr with helmFw := s.lsr.inForceB })
      ∧ (2 ≤ s.rst.domains → s.rst.domains < 5 → changesOnly [.cyc, .tick, .tfrac, .rst, .lsr] s t)
      ∧ changesOnly [.cyc, .slot0, .tick, .tfrac, .regs, .tiles, .stk, .rst, .lsr] s t)
    ∧ ((bringing s = false ∨ preconditionHolds s (s.rst.domains + 1) = false) → exec .domainRelease s = .next s)
    ∧ (bringing s = true → 1 ≤ s.rst.domains → s.rst.domains ≤ 6 → preconditionHolds s (s.rst.domains + 1) = false →
        (s.rst.domains = 1 → pwrState s = 2) → ∃ t, exec .preconditionTimeout s = .next t
        ∧ rget t 0 BNC_BRINGUP_FAULTED = 1 ∧ rget t 0 BNC_BRINGUP_STEP = rget s 0 BNC_BRINGUP_STEP
        ∧ regsBut [(0, BNC_BRINGUP_FAULTED.off)] s t ∧ changesOnly [.regs] s t)
    ∧ (preconditionHolds s (s.rst.domains + 1) = true → exec .preconditionTimeout s = .next s)
    ∧ (∀ b : BringupIn, islandUp s = true → bringing s = true →
        let goes := fun n => ∃ t, exec (.bringupStep b) s = .next t ∧ rget t 0 BNC_BRINGUP_STEP = n
          ∧ regsBut [(0, BNC_BRINGUP_STEP.off)] s t ∧ changesOnly [.regs] s t
        (rget s 0 BNC_BRINGUP_STEP = 5 → s.rst.domains = 7 → goes 6)
        ∧ (rget s 0 BNC_BRINGUP_STEP = 5 → s.rst.domains ≠ 7 → exec (.bringupStep b) s = .next s)
        ∧ (rget s 0 BNC_BRINGUP_STEP = 7 → (∀ k, k < 8 → bringupPassOver s k = true) → goes 8)
        ∧ (rget s 0 BNC_BRINGUP_STEP = 9 → (ron s 0 FLT_CTL_FLEET_EN = false ∨ rget s 0 FLT_STATUS_DISC = 4) → goes 10)
        ∧ (rget s 0 BNC_BRINGUP_STEP = 9 → ron s 0 FLT_CTL_FLEET_EN = true → rget s 0 FLT_STATUS_DISC ≠ 4 →
            exec (.bringupStep b) s = .next s)
        ∧ (rget s 0 BNC_BRINGUP_STEP = 10 → s.img.boots = [] → ∃ t, exec (.bringupStep b) s = .next t
            ∧ rget t 0 BNC_BRINGUP_STEP = 11 ∧ rget t 0 BNC_BRINGUP_READY = 1
            ∧ regsBut [(0, BNC_BRINGUP_STEP.off)] s t ∧ changesOnly [.regs] s t)
        ∧ (rget s 0 BNC_BRINGUP_STEP = 11 → exec (.bringupStep b) s = .next s))
    ∧ (∀ b : BringupIn, bringing s = false → exec (.bringupStep b) s = .next s)

/-! ### Binnacle, Lodestar and the test port -/

namespace Sys2Proof.Claims

/-- The applied throttle level and its bits as R438 decides them from REQ and HOSTQ. -/
def ThrottleDecided (s t : State) : Prop :=
  let q := rget s 0 BNC_THROTTLE_REQ
  let h := min 100 (rget s 0 BNC_THROTTLE_HOSTQ)
  (q ≤ h → rget t 0 BNC_THROTTLE_APPLIED = h ∧ rget t 0 BNC_THROTTLE_GRACE = 0 ∧ rget t 0 BNC_THROTTLE_ENFORCED = 0
      ∧ t.bnc = s.bnc)
  ∧ (h < q → ron s 0 BNC_THROTTLE_ENFORCED = true → rget t 0 BNC_THROTTLE_APPLIED = q ∧ rget t 0 BNC_THROTTLE_ENFORCED = 1
      ∧ t.bnc = s.bnc)
  ∧ (h < q → ron s 0 BNC_THROTTLE_ENFORCED = false → rget t 0 BNC_THROTTLE_APPLIED = h ∧ rget t 0 BNC_THROTTLE_GRACE = 1
      ∧ rget t 0 BNC_THROTTLE_ENFORCED = 0
      ∧ t.bnc = if ron s 0 BNC_THROTTLE_GRACE then s.bnc else { s.bnc with graceAt := s.cyc })

/-- A long command `op` has been accepted (R444): OK, the port is busy with it, and the fuses read as before. -/
structure Accepted (s t : State) (op : Byte) (a : BearingArg) : Prop where
  reply_ : t.bnc.replies = s.bnc.replies ++ [⟨0, 0⟩]
  long : t.bnc.long = some (op, a.addr, a.data)
  busy : rget t 0 BNC_STATUS_LONG_BUSY = 1
  fuses : t.lsr.fuses = s.lsr.fuses
  only : changesOnly [.regs, .free, .bnc, .lsr] s t

end Sys2Proof.Claims

/-- R433, R436: at the end of a round of samples BNC_TJ holds the largest filtered value over the 48 diodes, whether valid
or broken, and a diode that gives it; a diode with two readings in a row at the trip limit trips the module. A DRAM
stack's reading goes to its register, and stops nothing below its limit. The model's own choices it rests on:
notes/assumptions/59.md. -/
def Sys2Proof.Claims.DiodesAndDram : Prop :=
  ∀ (s : State), binnacleRuns s = true →
    (∀ l : List DiodeSample,
      let s1 := l.foldl (takeDiode s) s
      (∃ n, n < 48 ∧ rget (putJunction s1) 0 BNC_TJ_SRC = n ∧ (∀ i, i < 48 → (sensorAt s1 i).filtered ≤ (sensorAt s1 n).filtered)
        ∧ rget (putJunction s1) 0 BNC_TJ_T = unsigned 16 (sensorAt s1 n).filtered)
      ∧ exec (.diodeRound l) s = .next (endRound s1)
      ∧ ((∃ n, n < 48 ∧ (sensorAt s1 n).st = 0 ∧ 2 ≤ (sensorAt s1 n).hot) → pwrState s1 ≠ 4 →
          ∃ t, exec (.diodeRound l) s = .next t ∧ Tripped s t 1)
      ∧ changesOnly [.regs, .bnc] s s1)
    ∧ (∀ (k : BitVec 3) (temp : Int), temp < 26880 → ∃ t, exec (.dramTemperature k temp) s = .next t
        ∧ rget t 0 BNC_DRAMT_TEMP k.toNat = unsigned 16 temp
        ∧ rget t 0 BNC_DRAMT_VALID k.toNat = bit (decide (rget s k.toNat PWR_STK_STATUS_STATE = 2))
        ∧ (sensorAt t (60 + k.toNat)).hot = 0
        ∧ regsBut [(0, 0x1201C0 + 4 * k.toNat)] s t ∧ changesOnly [.regs, .bnc] s t)

/-- R438, R431: HOSTQ is taken as written and, in harbour mode while Binnacle runs, decides the applied level again; when
the grace expires, 500 ms after its start, APPLIED follows REQ, enforced, counted and alerted. An uncorrectable error in its memory halts Binnacle's core. -/
def Sys2Proof.Claims.ThrottleAndAlert : Prop :=
  ∀ (s : State),
    (∀ v : BitVec 7, islandUp s = true →
      let s1 := rput s 0 BNC_THROTTLE_HOSTQ v.toNat
      ∃ t, exec (.hostq v) s = .next t ∧ rget t 0 BNC_THROTTLE_HOSTQ = v.toNat
        ∧ rget t 0 BNC_THROTTLE_REQ = rget s 0 BNC_THROTTLE_REQ
        ∧ (fleetMode s = true ∨ binnacleRuns s = false → t = s1)
        ∧ (fleetMode s = false → binnacleRuns s = true → ThrottleDecided s1 t)
        ∧ regsBut [(0, BNC_THROTTLE_HOSTQ.off)] s t ∧ changesOnly [.regs, .bnc] s t)
    ∧ (binnacleRuns s = true → fleetMode s = false → ron s 0 BNC_THROTTLE_GRACE = true → ∃ t, exec .grace s = .next t
        ∧ t.cyc = max s.cyc (s.bnc.graceAt + 600000000)
        ∧ rget t 0 BNC_THROTTLE_APPLIED = rget s 0 BNC_THROTTLE_REQ ∧ rget t 0 BNC_THROTTLE_ENFORCED = 1
        ∧ rget t 0 BNC_THROTTLE_GRACE = 0 ∧ rget t 0 BNC_ENFORCED = (rget s 0 BNC_ENFORCED + 1) % 2 ^ 32
        ∧ (rget t 0 BNC_ALERT_ALERTS).testBit 1 = true
        ∧ regsBut [(0, BNC_THROTTLE_GRACE.off), (0, BNC_ENFORCED.off), (0, BNC_ALERT_ALERTS.off)] s t
        ∧ changesOnly [.cyc, .tick, .tfrac, .regs] s t)
    ∧ (ron s 0 BNC_THROTTLE_GRACE = false ∨ fleetMode s = true → exec .grace s = .next s)
    ∧ (∃ t, exec .binnacleEccHalt s = .next t ∧ t.bnc = { s.bnc with halted := true } ∧ changesOnly [.bnc] s t)

/-- Binnacle's temperature rounds, the throttle and the halt of its core (R431, R433, R436, R438). -/
def Obligations.ThermalControl : Prop :=
  Sys2Proof.Claims.DiodesAndDram ∧ Sys2Proof.Claims.ThrottleAndAlert

/-- R443, R444, R462, R470, Table 19.4: what the Bearing port answers beside its register accesses. While a long
command runs every request is answered BUSY with its OP, and changes nothing else; a bad CRC is FORMAT, counted. STATE
tells the bring-up step and the power, safe, stop and clock bits; LOGREAD a word of an entry, which comes on channel 3
(R295); in ROM recovery only STATE and MINSVN are answered. A long command with wrong arguments is FORMAT; else it is
accepted, and its fuses read unchanged until it ends; a fuse command keeps Lodestar BUSY, and finds the port busy
while Lodestar is. At its end BNC_LONG holds its OP and CODE, the port is free, and the alert is raised.
DEVTABLE_COMMIT is BUSY during an automatic commit (R198), whose end shows its stack's table. The model's own choices
it rests on: notes/assumptions/53.md, notes/assumptions/64.md and notes/assumptions/80.md. -/
def Obligations.BearingCommands : Prop :=
  ∀ (s : State) (a : BearingArg), portRuns s = true →
    (∀ q, s.bnc.long = some q → ∃ t p, p ≤ 100
      ∧ t.bnc.replies = s.bnc.replies ++ [⟨1, BitVec.ofNat 32 (q.1.toNat + 256 * p)⟩]
      ∧ rget t 0 BNC_BBUSY = (rget s 0 BNC_BBUSY + 1) % 2 ^ 32
      ∧ regsBut [(0, BNC_BBUSY.off)] s t ∧ changesOnly [.regs, .free, .bnc] s t
      ∧ ∀ c ∈ [Instr.bearingState, .logread a, .lifecycleAdvance a, .fuseProgram a, .devtableCommit a, .imageSlotSelect a,
          .bearingReset a], exec c s = .next t)
    ∧ (∀ r : BearingReq, ([r.op] ++ (leBytes 3 r.addr.toNat).reverse ++ (leBytes 4 r.data.toNat).reverse).foldl crc8Byte 0 ≠ r.crc →
        ∃ t, exec (.bearingRequestFormat r) s = .next t ∧ t.bnc.replies = s.bnc.replies ++ [⟨2, 0⟩]
          ∧ rget t 0 BNC_BCRC = (rget s 0 BNC_BCRC + 1) % 2 ^ 32
          ∧ regsBut [(0, BNC_BCRC.off)] s t ∧ changesOnly [.regs, .bnc] s t)
    ∧ (s.bnc.long = none →
        (∃ t w, exec .bearingState s = .next t ∧ t.bnc.replies = s.bnc.replies ++ [⟨0, w⟩] ∧ changesOnly [.bnc] s t
          ∧ w.toNat % 16 = rget s 0 BNC_BRINGUP_STEP ∧ w.toNat / 16 % 2 = rget s 0 BNC_BRINGUP_READY
          ∧ w.toNat / 32 % 2 = rget s 0 BNC_BRINGUP_FAULTED ∧ w.toNat / 64 % 8 = pwrState s
          ∧ w.toNat / 512 % 2 = rget s 0 CLK_STATUS_SAFE ∧ w.toNat / 1024 % 2 = rget s 0 BNC_STATUS_THERMSTOP
          ∧ w.toNat / 65536 % 16 = rget s 0 BNC_LAST_RESET_CAUSE)
        ∧ (ron s 0 LSR_STATUS_RECOVERY = true → ∃ t, t = reply s 3 0
          ∧ ∀ c ∈ [Instr.logread a, .lifecycleAdvance a, .devtableCommit a, .imageSlotSelect a], exec c s = .next t)
        ∧ (ron s 0 LSR_STATUS_RECOVERY = false →
          (∀ e, s.log.entries[a.addr.toNat / 16]? = some e → exec (.logread a) s = .next (reply (countFlits s 0 3 1) 0
              (BitVec.ofNat 32 (leVal (((entryBytes e).drop (4 * (a.addr.toNat % 16))).take 4)))))
          ∧ ((a.data ≠ 0x4C434144 ∨ 8 ≤ a.addr.toNat) → exec (.lifecycleAdvance a) s = .next (reply s 2 0))
          ∧ (ron s 0 LSR_STATUS_BUSY = true →
              ((a.data = 0x4C434144 ∧ a.addr.toNat < 8) → exec (.lifecycleAdvance a) s = .next (replyBusy s 0x10))
              ∧ (bitsOf a.addr.toNat 22 2 = 0 → bitsOf a.addr.toNat 11 11 = 0 → exec (.fuseProgram a) s = .next (replyBusy s 0x11)))
          ∧ (ron s 0 LSR_STATUS_BUSY = false → a.data = 0x4C434144 → a.addr.toNat < 8 →
              ∃ t, exec (.lifecycleAdvance a) s = .next t ∧ Accepted s t 0x10 a ∧ rget t 0 LSR_STATUS_BUSY = 1
              ∧ t.bnc.longOut = some (advanceLife s a.addr.toNat).2)
          ∧ (2 ≤ bitsOf a.addr.toNat 22 2 → exec (.fuseProgram a) s = .next (reply s 2 0))
          ∧ (ron s 0 LSR_STATUS_BUSY = false → bitsOf a.addr.toNat 22 2 = 0 → bitsOf a.addr.toNat 11 11 = 0 →
              ∃ t, exec (.fuseProgram a) s = .next t ∧ Accepted s t 0x11 a ∧ rget t 0 LSR_STATUS_BUSY = 1 ∧ t.bnc.longOut = some (programRepair s (bitsOf a.addr.toNat 0 11) a.data).2)
          ∧ (s.bnc.commits = [] → (maskStacks a.addr).all (baseReach s) = false → exec (.devtableCommit a) s = .next (reply s 3 0))
          ∧ (s.bnc.commits = [] → (maskStacks a.addr).all (baseReach s) = true →
              ∃ t, exec (.devtableCommit a) s = .next t ∧ Accepted s t 0x12 a)
          ∧ (s.bnc.commits ≠ [] → ∃ t p, p ≤ 100 ∧ exec (.devtableCommit a) s = .next t
              ∧ t.bnc.replies = s.bnc.replies ++ [⟨1, BitVec.ofNat 32 (0x12 + 256 * p)⟩]
              ∧ regsBut [(0, BNC_BBUSY.off)] s t ∧ changesOnly [.regs, .free, .bnc] s t)
          ∧ (leadOf s = none → exec (.imageSlotSelect a) s = .next (reply s 3 0))
          ∧ (leadOf s ≠ none → ∃ t, exec (.imageSlotSelect a) s = .next t ∧ Accepted s t 0x13 a))
        ∧ (ron s 0 LSR_STATUS_BUSY = false → bitsOf a.addr.toNat 22 2 = 1 → bitsOf a.addr.toNat 0 22 = 0 →
            ∃ t, exec (.fuseProgram a) s = .next t ∧ Accepted s t 0x11 a ∧ t.bnc.longOut = some (programSvn s a.data.toNat).2))
    ∧ (∀ (code : Byte) (addr : BitVec 24) (data : Word),
        (s.bnc.long = some (0x11, addr, data) → ∀ u, s.lsr.burning = some u → ∃ t, exec (.longdone code) s = .next t
          ∧ rget t 0 BNC_LONG_OP = 0x11 ∧ rget t 0 BNC_LONG_CODE = (if code.toNat = 17 then 17 else (s.bnc.longOut.getD 1) % 256)
          ∧ t.lsr.fuses = (if code.toNat = 17 then s.lsr.fuses else u) ∧ t.lsr.burning = none
          ∧ rget t 0 LSR_STATUS_BUSY = 0 ∧ rget t 0 LSR_STATUS_CODE = rget t 0 BNC_LONG_CODE
          ∧ rget t 0 BNC_STATUS_LONG_BUSY = 0 ∧ t.bnc.long = none ∧ (rget t 0 BNC_ALERT_ALERTS).testBit 6 = true
          ∧ changesOnly [.regs, .bnc, .lsr] s t)
        ∧ (∀ op, s.bnc.long = some (op, addr, data) →
          (op ≠ 0x13 ∨ ron s (leadStk s) HLM_IMG_STATUS_BUSY = false) → ∃ t, exec (.longdone code) s = .next t
          ∧ t.bnc.long = none ∧ t.bnc.replies = s.bnc.replies ∧ rget t 0 BNC_LONG_OP = op.toNat
          ∧ changesOnly [.regs, .free, .stk, .img, .log, .bnc, .lsr] s t))
    ∧ (s.bnc.long = none → ∀ code,
        (s.bnc.commits = [] → exec (.longdone code) s = .next s)
        ∧ (∀ k r, s.bnc.commits = k :: r → exec (.longdone code) s = .next (showCommit
            (endStackCommit { s with bnc := { s.bnc with commits := r } } k (decide (code.toNat = 1))))))

/-- R456, R459, R460, R463, R465, R466, R467, R470: an action written while Lodestar is BUSY is ignored. ZEROISE
clears the secret set; ATTEST reports and clears it, in Provisioned and Secured and Return only and not in test mode,
else LCSTATE (16); TESTREQ sets TESTMODE in Manufacturing and Return while every berth is disabled, the secret set
cleared; a clear whose second attempt fails too, and every action after it, ends with ZFAIL (20). A manifest that is
not valid, or not later than the one in force, and a bundle that fails its checks change no copy and end with their
code; one that passes is written to the copy that is not in force, which comes into force if it reads back and is left
invalid if not. A bundle is in force from the next reset. The test port always answers BYPASS and IDCODE, and
SAMPLE/PRELOAD and EXTEST only with TESTMODE 1. The model's own choices it rests on: notes/assumptions/53.md,
notes/assumptions/64.md, notes/assumptions/65.md and notes/assumptions/112.md. -/
def Obligations.LodestarAndTestPort : Prop :=
  ∀ (s : State),
    (islandUp s = true → ron s 0 LSR_STATUS_BUSY = true →
      ∀ c ∈ [Instr.attest, .testreq, .zeroise], exec c s = .next s)
    ∧ (islandUp s = true → ron s 0 LSR_STATUS_BUSY = false →
        (s.lsr.zlock = true → ∀ c ∈ [Instr.attest, .testreq, .zeroise], ∃ t, exec c s = .next t
          ∧ rget t 0 LSR_STATUS_CODE = 20 ∧ t.lsr = s.lsr ∧ regsBut [(0, LSR_STATUS_CODE.off)] s t ∧ changesOnly [.regs] s t)
        ∧ (s.lsr.zlock = false →
          let ended := if s.lsr.cleared.zlock then 20 else 1
          s.lsr.cleared.dikCopy = 0 ∧ s.lsr.cleared.fuses = s.lsr.fuses
          ∧ (∃ t, exec .zeroise s = .next t ∧ t.lsr = s.lsr.cleared ∧ rget t 0 LSR_STATUS_CODE = ended
            ∧ (Config.clearMisses s.lsr.clears ≠ 0 → rget t 0 LSR_STATUS_ZFAIL = 1)
            ∧ rget t 0 LSR_ZEROISES = (rget s 0 LSR_ZEROISES + 1) % 2 ^ 32
            ∧ (∀ i, i < 8 → rword t 0 (0x140020 + 4 * i) = 0) ∧ (∀ i, i < 32 → rword t 0 (0x140080 + 4 * i) = 0)
            ∧ changesOnly [.regs, .lsr] s t)
          ∧ ((lcState s.lsr.fuses = 0 ∨ lcState s.lsr.fuses = 4 ∨ s.lsr.testmode = true) → ∃ t, exec .attest s = .next t
            ∧ rget t 0 LSR_STATUS_CODE = 16 ∧ rget t 0 LSR_STATUS_RPTDONE = 0 ∧ t.lsr = s.lsr ∧ changesOnly [.regs] s t)
          ∧ (lcState s.lsr.fuses ≠ 0 → lcState s.lsr.fuses ≠ 4 → s.lsr.testmode = false →
            let body := reportBody (rput s 0 LSR_STATUS_RPTDONE 0)
            let words := wordsOf (body ++ beBytes 96 (Config.ecdsaSign s.lsr.fuses.dik (Config.sha384 body)).toNat)
            ∃ t, exec .attest s = .next t
            ∧ rget t 0 LSR_STATUS_RPTDONE = 1 ∧ rget t 0 LSR_ATTESTS = (rget s 0 LSR_ATTESTS + 1) % 2 ^ 32
            ∧ (∀ i w, words[i]? = some w → rword t 0 (0x141000 + 4 * i) = BitVec.ofNat 32 w)
            ∧ rget t 0 LSR_STATUS_CODE = ended ∧ t.lsr = s.lsr.cleared ∧ changesOnly [.regs, .lsr] s t)
          ∧ ((lcState s.lsr.fuses = 0 ∨ lcState s.lsr.fuses = 3) → berthsLive s = false → ∃ t, exec .testreq s = .next t
            ∧ rget t 0 LSR_STATUS_CODE = ended
            ∧ t.lsr = { s.lsr.cleared with testmode := s.lsr.testmode || !s.lsr.cleared.zlock }
            ∧ changesOnly [.regs, .lsr] s t)
          ∧ ((lcState s.lsr.fuses ≠ 0 ∧ lcState s.lsr.fuses ≠ 3 ∨ berthsLive s = true) → ∃ t, exec .testreq s = .next t
            ∧ rget t 0 LSR_STATUS_CODE = 16 ∧ t.lsr = s.lsr ∧ changesOnly [.regs] s t)
          ∧ (∀ bytes : List Byte,
            let bs := bytes.take (rget s 0 LSR_SRCLEN_LEN)
            let later := ∀ m, mfNow s = some m → laterWatch (manifestSeq bs) (manifestSeq m) = true
            let s1 := startLoad s false
            let s2 := startLoad s true
            (s.lsr.loading = none → changesOnly [.regs, .vil, .lsr] s s1 ∧ changesOnly [.regs, .vil, .lsr] s s2
              ∧ s1.lsr = { s.lsr with loading := some false } ∧ s2.lsr = { s.lsr with loading := some true }
              ∧ rget s1 0 LSR_STATUS_BUSY = 1 ∧ rget s2 0 LSR_STATUS_BUSY = 1)
            ∧ (s.lsr.loading = none → ∃ t u, exec (.mfLoad bytes) s = .next t ∧ exec (.fwLoad bytes) s = .next u
                ∧ t.vil = s1.vil ∧ u.vil = s2.vil ∧ rget t 0 LSR_STATUS_BUSY = 0 ∧ rget u 0 LSR_STATUS_BUSY = 0
              ∧ (manifestValid s bs = true → later →
                (norHolds s = true → rget t 0 LSR_STATUS_CODE = 1 ∧ rget t 0 LSR_STATUS_MFVALID = 1 ∧ mfNow t = some bs)
                ∧ (norHolds s = false → (∀ m, mfNow s = some m → mfNow t = some m)
                    ∧ (s.lsr.mfInForce ≠ some true → (if s.lsr.mfInForce = none then t.lsr.mfA else t.lsr.mfB) = none)
                    ∧ (s.lsr.mfInForce = some true → t.lsr.mfA = none))
                ∧ t.lsr.fwA = s.lsr.fwA ∧ t.lsr.fwB = s.lsr.fwB ∧ changesOnly [.free, .regs, .vil, .lsr] s t)
              ∧ (manifestValid s bs = true → ¬ later → rget t 0 LSR_STATUS_CODE = 8
                ∧ rget t 0 LSR_SIGFAIL = rget s 0 LSR_SIGFAIL ∧ t.lsr = s.lsr ∧ changesOnly [.regs, .vil] s t)
              ∧ (manifestValid s bs = false → rget t 0 LSR_STATUS_CODE = 8
                ∧ rget t 0 LSR_SIGFAIL = (rget s 0 LSR_SIGFAIL + bit (manifestShape bs)) % 2 ^ 32
                ∧ t.lsr = s.lsr ∧ changesOnly [.regs, .vil] s t)
              ∧ (bundleCode s bs = 1 →
                (norHolds s = true → rget u 0 LSR_STATUS_CODE = 1 ∧ u.lsr.preferB = !s.lsr.preferB
                  ∧ fwCopy u u.lsr.preferB = some bs ∧ u.lsr.fresh = true)
                ∧ (norHolds s = false → u.lsr.preferB = s.lsr.preferB ∧ fwCopy u (!s.lsr.preferB) = none)
                ∧ fwCopy u s.lsr.preferB = fwCopy s s.lsr.preferB ∧ u.lsr.running = s.lsr.running
                ∧ changesOnly [.free, .regs, .vil, .lsr] s u)
              ∧ (bundleCode s bs ≠ 1 → rget u 0 LSR_STATUS_CODE = bundleCode s bs % 256
                ∧ u.lsr = s.lsr ∧ changesOnly [.regs, .vil] s u)))))
    ∧ (∃ t, exec .tapBypass s = .next t ∧ t.tap = ⟨.bypass, 0⟩ ∧ changesOnly [.tap] s t)
    ∧ (∃ t, exec .tapIdcode s = .next t ∧ t.tap = ⟨.idcode, Config.idcode⟩ ∧ changesOnly [.tap] s t)
    ∧ (s.lsr.testmode = false → ∀ c ∈ [Instr.tapSamplePreload, .tapExtest], ∃ t, exec c s = .next t ∧ t.tap = ⟨.bypass, 0⟩
        ∧ changesOnly [.tap] s t)
    ∧ (s.lsr.testmode = true →
        (∃ t, exec .tapSamplePreload s = .next t ∧ t.tap.ir = .samplePreload ∧ changesOnly [.tap, .free] s t)
        ∧ (∃ t, exec .tapExtest s = .next t ∧ t.tap.ir = .extest ∧ changesOnly [.tap, .free] s t))

/-! ### The step and the numbers -/

/-- A step takes the command at the front of the queue and answers what that command does to the machine with the queue's
rest; a command put at the front is the one that runs next. The queue is the model's own; that the block idles on an
empty queue is the model's choice (notes/assumptions/1.md). -/
def Obligations.StepRunsFront : Prop :=
  (∀ (s : State) (c : Instr) (rest : List Instr), s.pending = c :: rest → step s = exec c { s with pending := rest })
    ∧ (∀ (s : State) (c : Instr), step (s.withCommand c) = exec c s)
    ∧ ∀ s : State, s.pending = [] → step s = .next s

/-- Every step of a safe machine answers a next state, in which the machine is safe again: its register file, its DRAM,
every tile's registers, tile store, queues and accumulators are in canonical form, and it still has eight stacks
(R12), 16 fleet ports (R311), 16 berths (R245), four class queues (R253), two halves of Vilger Link (R363), and in
every tile five engines (R130), two accumulator sets (R114) and four completion groups (R171). The step takes exactly
the front of the queue. -/
def Obligations.StepKeepsSafe : Prop :=
  ∀ s : State, machineSafe s = true → ∃ t, step s = .next t ∧ machineSafe t = true ∧ t.pending = s.pending.tail

/-- R31, R32: the elements of every converted block lie in −127..127 at 8 bits and in −7..7 at 4 bits, so the codes −128
and −8 are not among them; packed, 8-bit elements take one byte each, and of 4-bit elements 2i stands in bits [3:0]
and 2i + 1 in bits [7:4] of byte i; and reading packed elements gives each its full value, −128 and −8 included. -/
def Obligations.NarrowElements : Prop :=
  (∀ (wide : Bool) (conv : Nat) (ys : List Int) (b : Block) (q : Int), b ∈ convertRow wide conv ys → q ∈ b.elems →
      -(if wide then 127 else 7 : Int) ≤ q ∧ q ≤ (if wide then 127 else 7 : Int))
    ∧ (∀ xs : List Int, packElements true xs = xs.map fun x => BitVec.ofNat 8 (unsigned 8 x))
    ∧ (∀ (xs : List Int) (j : Nat), 2 * j < xs.length →
        ((packElements false xs).getD j 0).toNat = unsigned 4 (xs.getD (2 * j) 0) + 16 * unsigned 4 (xs.getD (2 * j + 1) 0))
    ∧ (∀ (wide : Bool) (xs : List Int) (i : Nat), i < xs.length →
        -(if wide then 128 else 8 : Int) ≤ xs.getD i 0 → xs.getD i 0 < (if wide then 128 else 8 : Int) →
        elementOf wide (packElements wide xs) i = xs.getD i 0)

/-- R43: the container of a long value has 16 bytes, lowest first, which hold the value in bits [95:0], OVF in bit [96]
and zeros in bits [127:97]; both are read back from it; and the OVF of a sum of two containers is set where either
operand's is (or where the sum itself saturates, R41). -/
def Obligations.LongContainers : Prop :=
  (∀ (v : Int) (ovf : Bool), (longBytes v ovf).length = 16
      ∧ leVal (longBytes v ovf) = unsigned 96 v + (if ovf then 2 ^ 96 else 0)
      ∧ longOvf (longBytes v ovf) = ovf)
    ∧ (∀ (v : Int) (ovf : Bool), -2 ^ 95 ≤ v → v < 2 ^ 95 → longOf (longBytes v ovf) = v)
    ∧ (∀ a b : List Byte, longOf (longAdd a b) = saturate 96 (longOf a + longOf b)
      ∧ longOvf (longAdd a b) = (longOvf a || longOvf b || decide (saturate 96 (longOf a + longOf b) ≠ longOf a + longOf b)))

namespace Sys2Proof.Claims

/-- Whether a register word, by stack and offset, lies outside Binnacle's island: in a block of a domain that every module
reset takes back. -/
def afterIsland (k off : Nat) : Prop := islandKey (regKey k off) = false

end Sys2Proof.Claims

/-- R420: a module reset in the release sequence, with `s.rst.domains` orders released, returns every released domain
to reset: its registers, tiles, memories, links, Chronometer and serving state are those of reset, and so are
Binnacle's where Binnacle itself is reset, but for the trip's cause, the clock detectors, the last reset and the
bring-up step. The sequence then restarts: the next order to be released is order 2, which waits for main power and
the reference, or order 1 when Binnacle was reset, and is released when its precondition has come to hold.
`moduleReset` is what every command that resets the module runs (ModuleResets). The model's own choices it rests on:
notes/assumptions/39.md, notes/assumptions/61.md and notes/assumptions/105.md. -/
def Obligations.ReleaseRestarts : Prop :=
  ∀ (s : State) (cause : Nat) (island : Bool), 1 ≤ cause → cause < 16 → 1 ≤ s.rst.domains →
    let t := moduleReset s cause island
    ModuleReset s t cause island
      ∧ (∀ k off, afterIsland k off → rword t k off = reg2Reset (regKey k off))
      ∧ (island = true → t.bnc = BinnSt.reset ∧ t.snd = SndSt.reset ∧ t.log.entries = [] ∧ t.lsr.dikCopy = 0
          ∧ rget t 0 PWR_TRIP_CAUSE = rget s 0 PWR_TRIP_CAUSE
          ∧ ∀ off, islandKey off = true → off ∉ [0x150008, 0x150100, 0x120100, BNC_BRINGUP_STEP.off] →
              rword t 0 off = reg2Reset off)
      ∧ t.rst.domains = (if island then 0 else 1)
      ∧ (island = true → preconditionHolds t 1 = true → ∃ u, exec .domainRelease t = .next u ∧ u.rst.domains = 1)
      ∧ (∀ u : State, u.rst = t.rst → bringing u = true → preconditionHolds u (if island then 1 else 2) = true →
          ∃ v, exec .domainRelease u = .next v ∧ v.rst.domains = if island then 1 else 2)
      ∧ (∀ u : State, preconditionHolds u 2 = true ↔ pwrState u = 2 ∧ ron u 0 CLK_STATUS_REF_OK = true)

/-- R445: BALERT_N is low exactly while some bit of BNC_ALERT is set whose bit in BNC_ALERT_EN is also set. -/
def Obligations.AlertLine : Prop :=
  ∀ s : State, balertN s = false ↔
    ∃ i, (rword s 0 BNC_ALERT_ALERTS.off).getLsbD i = true ∧ (rword s 0 BNC_ALERT_EN_EN.off).getLsbD i = true

/-- What reset leaves (the Reset columns of Tables 5.6, 5.11, 7.7, 7.11, 12.6, 13.13, 13.14, 14.5, 16.6, 17.8, 17.10, 18.8,
19.8 and 19.11): the fields whose reset value is not 0 hold it, on every stack, tile, port and clock; the queue is
empty; and the machine is safe. Every byte of DRAM and of a tile's store reads 0, which is the model's own choice before
bring-up's end (notes/assumptions/4.md). -/
def Obligations.ResetState : Prop :=
  machineSafe State.reset = true ∧ State.reset.pending = []
    ∧ (∀ a, memByte State.reset.dram a = 0)
    ∧ (∀ k, k < 8 → ∀ q ∈ [(SXT_CTL_EN, 1), (SXT_CTL_IDLE_EN, 1), (SXT_CTL_STRETCH_EN, 1), (SXT_CTL_DEMAND_WAIT, 8),
        (SXT_DOGPER_EVERY, 1), (STK_RT_CTL_COMB_EN, 1), (HLM_RCV_CTL_REPLAY_MAX, 3), (CLK_SEL_ARRDIV, 3)],
        rget State.reset k q.1 = q.2)
    ∧ (∀ p, p < 16 → pget State.reset p FLT_PORT_EN = 1)
    ∧ (∀ k, k < 8 → (List.range 5).map (fun i => (rget State.reset k CLK_PLL_REFDIV i, rget State.reset k CLK_PLL_FBDIV i,
        rget State.reset k CLK_PLL_POSTDIV i, rget State.reset k CLK_PLL_EN i))
        = [(25, 768, 4, 1), (25, 1056, 5, 1), (25, 1024, 4, 1), (25, 960, 3, 1), (25, 960, 6, 1)])
    ∧ (∀ q ∈ [(FLT_MOD_COUNT, 1), (CHR_WLEN_L, 25600), (PWR_GOV_START_CAP, 240), (PWR_GOV_STOP_CAP, 240),
        (BNC_LAST_RESET_CAUSE, 1), (BNC_ALERT_EN_EN, 127), (SND_SEQCFG_PERIOD, 1000)], rget State.reset 0 q.1 = q.2)
    ∧ (∀ k site, let t := tileAt State.reset k site
        (∀ a, memByte t.store a = 0) ∧ tget t TIL_CTL_GATE_EN = 1 ∧ tget t TIL_GATE_WAKE_LEAD = 16 ∧ tget t TIL_GATE_IDLE = 1200
        ∧ bankOf t false = bankOf t true ∧ (bankOf t false).st = .invalid)
end

