-- ==== Sys2Proof/Laws/Bits.lean ====
section
/-!
SUPPORT. Bit fields: a field reads what was put into it, and a put leaves every disjoint field alone.
-/

namespace Sys2Proof.Machine

theorem bitsOf_lt (x lo w : Nat) : bitsOf x lo w < 2 ^ w := Nat.mod_lt _ (Nat.two_pow_pos w)

/-- A number cut at bits `lo` and `lo + w`. -/
theorem bits_split (x lo w : Nat) :
    x = x % 2 ^ lo + 2 ^ lo * bitsOf x lo w + 2 ^ (lo + w) * (x / 2 ^ (lo + w)) := by
  have h1 := Nat.mod_add_div x (2 ^ lo)
  have h2 := Nat.mod_add_div (x / 2 ^ lo) (2 ^ w)
  rw [Nat.div_div_eq_div_mul, ← Nat.pow_add] at h2
  unfold bitsOf
  calc x = x % 2 ^ lo + 2 ^ lo * (x / 2 ^ lo) := h1.symm
    _ = x % 2 ^ lo + 2 ^ lo * (x / 2 ^ lo % 2 ^ w + 2 ^ w * (x / 2 ^ (lo + w))) := by rw [h2]
    _ = _ := by rw [Nat.mul_add, Nat.pow_add]; ring

theorem putBits_eq (x lo w v : Nat) :
    putBits x lo w v = x % 2 ^ lo + 2 ^ lo * (v % 2 ^ w) + 2 ^ (lo + w) * (x / 2 ^ (lo + w)) := by
  have h := bits_split x lo w
  unfold putBits
  have e : x - bitsOf x lo w * 2 ^ lo = x % 2 ^ lo + 2 ^ (lo + w) * (x / 2 ^ (lo + w)) := by
    have hc : bitsOf x lo w * 2 ^ lo = 2 ^ lo * bitsOf x lo w := Nat.mul_comm _ _
    omega
  rw [e, Nat.mul_comm (v % 2 ^ w)]
  omega

theorem putBits_mod (x lo w v : Nat) : putBits x lo w v % 2 ^ lo = x % 2 ^ lo := by
  rw [putBits_eq, Nat.pow_add, Nat.mul_assoc, Nat.add_assoc, ← Nat.mul_add, Nat.add_mul_mod_self_left, Nat.mod_mod]

theorem putBits_div (x lo w v : Nat) : putBits x lo w v / 2 ^ (lo + w) = x / 2 ^ (lo + w) := by
  rw [putBits_eq, Nat.add_mul_div_left _ _ (Nat.two_pow_pos _)]
  have h1 : x % 2 ^ lo + 2 ^ lo * (v % 2 ^ w) < 2 ^ (lo + w) := by
    have a := Nat.mod_lt x (Nat.two_pow_pos lo)
    have b := Nat.mod_lt v (Nat.two_pow_pos w)
    rw [Nat.pow_add]
    calc x % 2 ^ lo + 2 ^ lo * (v % 2 ^ w) < 2 ^ lo + 2 ^ lo * (v % 2 ^ w) := by omega
      _ = 2 ^ lo * (v % 2 ^ w + 1) := by ring
      _ ≤ 2 ^ lo * 2 ^ w := Nat.mul_le_mul_left _ b
  rw [Nat.div_eq_of_lt h1]; omega

/-- A field reads what was put into it. -/
theorem bitsOf_putBits (x lo w v : Nat) : bitsOf (putBits x lo w v) lo w = v % 2 ^ w := by
  unfold bitsOf
  rw [putBits_eq, Nat.pow_add, Nat.mul_assoc, Nat.add_assoc, ← Nat.mul_add,
    Nat.add_mul_div_left _ _ (Nat.two_pow_pos _), Nat.div_eq_of_lt (Nat.mod_lt _ (Nat.two_pow_pos _)),
    Nat.zero_add, Nat.add_mul_mod_self_left, Nat.mod_mod]

theorem bitsOf_mod (x n lo w : Nat) (h : lo + w ≤ n) : bitsOf (x % 2 ^ n) lo w = bitsOf x lo w := by
  unfold bitsOf
  have e : n = lo + (n - lo) := by omega
  rw [e, Nat.pow_add, Nat.mod_mul_right_div_self, Nat.mod_mod_of_dvd]
  exact Nat.pow_dvd_pow 2 (by omega)

/-- A put leaves a field below alone. -/
theorem bitsOf_putBits_below (x lo w v lo' w' : Nat) (h : lo' + w' ≤ lo) :
    bitsOf (putBits x lo w v) lo' w' = bitsOf x lo' w' := by
  rw [← bitsOf_mod _ lo _ _ h, putBits_mod, bitsOf_mod _ lo _ _ h]

/-- A put leaves a field above alone. -/
theorem bitsOf_putBits_above (x lo w v lo' w' : Nat) (h : lo + w ≤ lo') :
    bitsOf (putBits x lo w v) lo' w' = bitsOf x lo' w' := by
  unfold bitsOf
  have e : lo' = lo + w + (lo' - (lo + w)) := by omega
  rw [e, Nat.pow_add, ← Nat.div_div_eq_div_mul, ← Nat.div_div_eq_div_mul, putBits_div]

theorem putBits_lt (x lo w v n : Nat) (hx : x < 2 ^ n) (h : lo + w ≤ n) : putBits x lo w v < 2 ^ n := by
  have e : n = lo + w + (n - (lo + w)) := by omega
  have hd := putBits_div x lo w v
  have hq : x / 2 ^ (lo + w) < 2 ^ (n - (lo + w)) := by
    rw [Nat.div_lt_iff_lt_mul (Nat.two_pow_pos _), ← Nat.pow_add, Nat.add_comm, ← e]; exact hx
  rw [← hd, Nat.div_lt_iff_lt_mul (Nat.two_pow_pos _), ← Nat.pow_add, Nat.add_comm, ← e] at hq
  exact hq

/-! ### Register fields -/

/-- Whether a field lies in a 32-bit word. -/
def Fld.fits (f : Fld) : Bool := decide (f.lo + f.width ≤ 32)

/-- Whether two fields of one word share no bit. -/
def Fld.apart (f g : Fld) : Bool := decide (f.lo + f.width ≤ g.lo) || decide (g.lo + g.width ≤ f.lo)

theorem fldPut_toNat (f : Fld) (w : Word) (v : Nat) (h : f.fits = true) :
    (fldPut f w v).toNat = putBits w.toNat f.lo f.width v := by
  simp only [fldPut, BitVec.toNat_ofNat]
  exact Nat.mod_eq_of_lt (putBits_lt _ _ _ _ _ w.isLt (by simpa [Fld.fits] using h))

/-- A field of a word reads what was put into it. -/
theorem fldOf_fldPut (f : Fld) (w : Word) (v : Nat) (h : f.fits = true) :
    fldOf f (fldPut f w v) = v % 2 ^ f.width := by
  rw [fldOf, fldPut_toNat f w v h, bitsOf_putBits]

/-- A put leaves a field apart from it alone. -/
theorem fldOf_fldPut_apart (f g : Fld) (w : Word) (v : Nat) (h : g.fits = true) (ha : f.apart g = true) :
    fldOf f (fldPut g w v) = fldOf f w := by
  rw [fldOf, fldPut_toNat g w v h]
  simp only [Fld.apart, Bool.or_eq_true, decide_eq_true_eq] at ha
  rcases ha with ha | ha
  · exact bitsOf_putBits_below _ _ _ _ _ _ ha
  · exact bitsOf_putBits_above _ _ _ _ _ _ ha

theorem fldOf_lt (f : Fld) (w : Word) : fldOf f w < 2 ^ f.width := bitsOf_lt _ _ _

end Sys2Proof.Machine
end

