-- ==== Sys2Proof/Laws/Map.lean ====
section
/-!
SUPPORT. What the sparse tables do: a read after a write, what a write leaves alone, and that every operation keeps
the canonical form.
-/

namespace Sys2Proof.Machine

variable {α : Type}

/-! ### Reads -/

@[simp] theorem mapGet_nil (d : Nat → α) (k : Nat) : mapGet d [] k = d k := rfl

theorem mapGet_cons (d : Nat → α) (p : Nat × α) (m : SMap α) (k : Nat) :
    mapGet d (p :: m) k = if p.1 = k then p.2 else mapGet d m k := by
  simp only [mapGet, List.find?_cons]
  by_cases h : p.1 = k
  · simp [h]
  · have hb : (p.1 == k) = false := by simp [h]
    simp [hb, h]

theorem mapGet_append_left (d : Nat → α) (m n : SMap α) (k : Nat) (h : ∀ p ∈ m, p.1 ≠ k) :
    mapGet d (m ++ n) k = mapGet d n k := by
  induction m with
  | nil => rfl
  | cons p m ih =>
    rw [List.cons_append, mapGet_cons, if_neg (h p (by simp)), ih fun q hq => h q (by simp [hq])]

theorem mapGet_append_right (d : Nat → α) (m n : SMap α) (k : Nat) (h : ∀ p ∈ n, p.1 ≠ k) :
    mapGet d (m ++ n) k = mapGet d m k := by
  induction m with
  | nil => simpa using mapGet_append_left d n [] k h
  | cons p m ih => rw [List.cons_append, mapGet_cons, mapGet_cons, ih]

theorem mapGet_filter (d : Nat → α) (f : Nat → Bool) (m : SMap α) (k : Nat) :
    mapGet d (m.filter fun p => f p.1) k = if f k then mapGet d m k else d k := by
  induction m with
  | nil => simp
  | cons p m ih =>
    rw [List.filter_cons]
    by_cases hp : p.1 = k
    · subst hp
      cases h : f p.1 <;> simp [h, mapGet_cons, ih]
    · cases h : f p.1 <;> simp [mapGet_cons, hp, ih]

variable [DecidableEq α]

theorem mapEntries_key (d : Nat → α) (k : Nat) (vs : List α) :
    ∀ p ∈ mapEntries d k vs, k ≤ p.1 ∧ p.1 < k + vs.length := by
  induction vs generalizing k with
  | nil => simp [mapEntries]
  | cons v vs ih =>
    intro p hp
    simp only [mapEntries] at hp
    have := ih (k + 1) p
    split at hp
    · have := this hp; simp; omega
    · rcases List.mem_cons.1 hp with rfl | hp
      · simp
      · have := this hp; simp; omega

theorem mapGet_mapEntries (d : Nat → α) (k : Nat) (vs : List α) (i : Nat) :
    mapGet d (mapEntries d k vs) (k + i) = vs.getD i (d (k + i)) := by
  induction vs generalizing k i with
  | nil => simp [mapEntries]
  | cons v vs ih =>
    cases i with
    | zero =>
      have hk : ∀ p ∈ mapEntries d (k + 1) vs, p.1 ≠ k := fun p hp => by
        have := mapEntries_key d (k + 1) vs p hp; omega
      simp only [mapEntries]
      split
      · rename_i hv
        have := mapGet_append_left d (mapEntries d (k + 1) vs) [] k hk
        simp_all
      · simp [mapGet_cons]
    | succ i =>
      have e : k + (i + 1) = k + 1 + i := by omega
      simp only [mapEntries]
      split
      · rw [e, ih]; simp
      · rw [mapGet_cons, if_neg (by simp), e, ih]; simp

/-- A read inside the range a write covers gives the value written. -/
theorem mapGet_mapSetRange_in (d : Nat → α) (m : SMap α) (k : Nat) (vs : List α) (i : Nat) (h : i < vs.length) :
    mapGet d (mapSetRange d m k vs) (k + i) = vs[i] := by
  unfold mapSetRange
  rw [mapGet_append_right, mapGet_append_left, mapGet_mapEntries]
  · simp [h]
  · intro p hp
    have := (List.mem_filter.1 hp).2
    simp at this; omega
  · intro p hp
    have := (List.mem_filter.1 hp).2
    simp at this; omega

/-- A read outside the range a write covers gives what it gave before. -/
theorem mapGet_mapSetRange_out (d : Nat → α) (m : SMap α) (k : Nat) (vs : List α) (a : Nat)
    (h : a < k ∨ k + vs.length ≤ a) : mapGet d (mapSetRange d m k vs) a = mapGet d m a := by
  unfold mapSetRange
  have he : ∀ p ∈ mapEntries d k vs, p.1 ≠ a := fun p hp => by
    have := mapEntries_key d k vs p hp; omega
  rcases h with h | h
  · rw [mapGet_append_right, mapGet_append_right _ _ _ _ he]
    · rw [mapGet_filter d (fun x => decide (x < k)) m a]; simp [h]
    · intro p hp
      have := (List.mem_filter.1 hp).2
      simp at this; omega
  · rw [mapGet_append_left]
    · rw [mapGet_filter d (fun x => decide (k + vs.length ≤ x)) m a]; simp [h]
    · intro p hp
      rcases List.mem_append.1 hp with hp | hp
      · have := (List.mem_filter.1 hp).2
        simp at this; omega
      · exact he p hp

/-- A read after a write of one key. -/
theorem mapGet_mapSet (d : Nat → α) (m : SMap α) (k : Nat) (v : α) (a : Nat) :
    mapGet d (mapSet d m k v) a = if a = k then v else mapGet d m a := by
  by_cases h : a = k
  · subst h
    simpa [mapSet] using mapGet_mapSetRange_in d m a [v] 0 (by simp)
  · rw [if_neg h]
    exact mapGet_mapSetRange_out d m k [v] a (by simp; omega)

@[simp] theorem mapGet_mapSet_same (d : Nat → α) (m : SMap α) (k : Nat) (v : α) :
    mapGet d (mapSet d m k v) k = v := by simp [mapGet_mapSet]

theorem mapGet_mapSet_ne (d : Nat → α) (m : SMap α) (k : Nat) (v : α) (a : Nat) (h : a ≠ k) :
    mapGet d (mapSet d m k v) a = mapGet d m a := by simp [mapGet_mapSet, h]

omit [DecidableEq α] in
/-- A cleared range reads as unlisted keys do; every other key reads as before. -/
theorem mapGet_mapClear (d : Nat → α) (m : SMap α) (lo hi a : Nat) :
    mapGet d (mapClear m lo hi) a = if a < lo ∨ hi ≤ a then mapGet d m a else d a := by
  unfold mapClear
  rw [mapGet_filter d (fun x => decide (x < lo) || decide (hi ≤ x)) m a]
  simp

/-! ### The canonical form -/

theorem mapWf_iff (d : Nat → α) (m : SMap α) :
    mapWf d m = true ↔ m.Pairwise (fun p q => p.1 < q.1) ∧ ∀ p ∈ m, p.2 ≠ d p.1 := by
  induction m with
  | nil => simp [mapWf]
  | cons p m ih =>
    cases m with
    | nil => simp [mapWf]
    | cons q m =>
      simp only [mapWf, Bool.and_eq_true, decide_eq_true_eq, ih]
      constructor
      · rintro ⟨⟨hp, hpq⟩, hpw, hne⟩
        refine ⟨List.pairwise_cons.2 ⟨?_, hpw⟩, ?_⟩
        · intro r hr
          rcases List.mem_cons.1 hr with rfl | hr
          · exact hpq
          · exact Nat.lt_trans hpq ((List.pairwise_cons.1 hpw).1 r hr)
        · intro r hr
          rcases List.mem_cons.1 hr with rfl | hr
          · exact hp
          · exact hne r hr
      · rintro ⟨hpw, hne⟩
        have hc := List.pairwise_cons.1 hpw
        exact ⟨⟨hne p (by simp), hc.1 q (by simp)⟩, hc.2, fun r hr => hne r (by simp [hr])⟩

theorem mapEntries_wf (d : Nat → α) (k : Nat) (vs : List α) : mapWf d (mapEntries d k vs) = true := by
  rw [mapWf_iff]
  induction vs generalizing k with
  | nil => simp [mapEntries]
  | cons v vs ih =>
    have hi := ih (k + 1)
    simp only [mapEntries]
    split
    · exact hi
    · rename_i hv
      refine ⟨List.pairwise_cons.2 ⟨?_, hi.1⟩, ?_⟩
      · intro p hp
        have := mapEntries_key d (k + 1) vs p hp
        show k < p.1
        omega
      · intro p hp
        rcases List.mem_cons.1 hp with rfl | hp
        · exact hv
        · exact hi.2 p hp

theorem mapWf_filter (d : Nat → α) (f : Nat × α → Bool) (m : SMap α) (h : mapWf d m = true) :
    mapWf d (m.filter f) = true := by
  rw [mapWf_iff] at *
  exact ⟨h.1.filter f, fun p hp => h.2 p (List.mem_filter.1 hp).1⟩

/-- A write keeps the canonical form. -/
theorem mapSetRange_wf (d : Nat → α) (m : SMap α) (k : Nat) (vs : List α) (h : mapWf d m = true) :
    mapWf d (mapSetRange d m k vs) = true := by
  have he := (mapWf_iff d _).1 (mapEntries_wf d k vs)
  have hk := mapEntries_key d k vs
  rw [mapWf_iff] at *
  unfold mapSetRange
  refine ⟨?_, ?_⟩
  · rw [List.pairwise_append, List.pairwise_append]
    refine ⟨⟨h.1.filter _, he.1, ?_⟩, h.1.filter _, ?_⟩
    · intro p hp q hq
      have h1 := (List.mem_filter.1 hp).2
      have h2 := hk q hq
      simp at h1; omega
    · intro p hp q hq
      have h2 := (List.mem_filter.1 hq).2
      rcases List.mem_append.1 hp with hp | hp
      · have h1 := (List.mem_filter.1 hp).2
        simp at h1 h2; omega
      · have h1 := hk p hp
        simp at h2; omega
  · intro p hp
    rcases List.mem_append.1 hp with hp | hp
    · rcases List.mem_append.1 hp with hp | hp
      · exact h.2 p (List.mem_filter.1 hp).1
      · exact he.2 p hp
    · exact h.2 p (List.mem_filter.1 hp).1

theorem mapSet_wf (d : Nat → α) (m : SMap α) (k : Nat) (v : α) (h : mapWf d m = true) :
    mapWf d (mapSet d m k v) = true := mapSetRange_wf d m k [v] h

theorem mapClear_wf (d : Nat → α) (m : SMap α) (lo hi : Nat) (h : mapWf d m = true) :
    mapWf d (mapClear m lo hi) = true := mapWf_filter d _ m h

/-- What a write of one key can list: the entry written, or an entry listed before. -/
theorem mem_mapSet (d : Nat → α) (m : SMap α) (k : Nat) (v : α) (p : Nat × α) (h : p ∈ mapSet d m k v) :
    p = (k, v) ∨ p ∈ m := by
  unfold mapSet mapSetRange at h
  rcases List.mem_append.1 h with h | h
  · rcases List.mem_append.1 h with h | h
    · exact .inr (List.mem_filter.1 h).1
    · simp only [mapEntries] at h
      split at h
      · simp at h
      · exact .inl (by simpa using h)
  · exact .inr (List.mem_filter.1 h).1

omit [DecidableEq α] in
/-- What a key reads as is a listed value or the default. -/
theorem mapGet_mem (d : Nat → α) (m : SMap α) (k : Nat) : (k, mapGet d m k) ∈ m ∨ mapGet d m k = d k := by
  induction m with
  | nil => simp
  | cons p m ih =>
    rw [mapGet_cons]
    split
    · rename_i h; subst h; simp
    · rcases ih with h | h
      · exact .inl (by simp [h])
      · exact .inr h

/-! ### Memory -/

@[simp] theorem memRead_length (m : Mem) (a n : Nat) : (memRead m a n).length = n := by simp [memRead]

/-- A byte inside the range a write covers. -/
theorem memByte_memWrite_in (m : Mem) (a : Nat) (bs : List Byte) (i : Nat) (h : i < bs.length) :
    memByte (memWrite m a bs) (a + i) = bs[i] := mapGet_mapSetRange_in _ _ _ _ _ h

/-- A byte outside it. -/
theorem memByte_memWrite_out (m : Mem) (a : Nat) (bs : List Byte) (x : Nat) (h : x < a ∨ a + bs.length ≤ x) :
    memByte (memWrite m a bs) x = memByte m x := mapGet_mapSetRange_out _ _ _ _ _ h

/-- Reading back what was written. -/
theorem memRead_memWrite (m : Mem) (a : Nat) (bs : List Byte) : memRead (memWrite m a bs) a bs.length = bs := by
  apply List.ext_getElem (by simp)
  intro i h1 h2
  simp only [memRead, List.getElem_map, List.getElem_range]
  exact memByte_memWrite_in m a bs i h2

/-- A read of other bytes. -/
theorem memRead_memWrite_out (m : Mem) (a : Nat) (bs : List Byte) (x n : Nat)
    (h : x + n ≤ a ∨ a + bs.length ≤ x) : memRead (memWrite m a bs) x n = memRead m x n := by
  apply List.ext_getElem (by simp)
  intro i h1 h2
  simp only [memRead, List.getElem_map, List.getElem_range]
  simp at h1
  exact memByte_memWrite_out m a bs _ (by omega)

/-- A write keeps a memory's canonical form. -/
theorem memWrite_wf (m : Mem) (a : Nat) (bs : List Byte) (h : memWf m = true) : memWf (memWrite m a bs) = true :=
  mapSetRange_wf _ m a bs h

end Sys2Proof.Machine
end

