-- ==== Sys2Proof/Laws/Frame.lean ====
section
/-!
SUPPORT. What an operation on the machine can touch: `Frame m s t` says that every part of the state outside the list
`m` is in `t` as it is in `s`, and that a safe machine stays safe. The frame lemmas of Laws/Frames*.lean give each
operation its list; a lemma about a longer chain is a chain of them.
-/

namespace Sys2Proof.Machine

/-- The parts of the state: its fields. -/
inductive Part
  | cyc | slot0 | tick | tfrac | regs | tiles | dram | net | reports | free | stk | vil | fleet | chr | serve | img | log | pwr | rst | bnc | snd | lsr | tap | answers | pending
deriving DecidableEq, Repr

/-- Whether every part of `a` is among `b`. -/
def Part.sub (a b : List Part) : Bool := a.all fun p => b.contains p

theorem Part.sub_trans {a b c : List Part} (h1 : Part.sub a b = true) (h2 : Part.sub b c = true) :
    Part.sub a c = true := by
  simp only [Part.sub, List.all_eq_true, List.contains_iff_mem] at *
  exact fun p hp => h2 p (h1 p hp)

theorem Part.sub_has {a b : List Part} (p : Part) (h : Part.sub a b = true) (hp : a.contains p = true) :
    b.contains p = true := by
  simp only [Part.sub, List.all_eq_true, List.contains_iff_mem] at *
  exact h p hp

/-- The tables and lists of the state as the safe machine has them. -/
structure SafeParts (s : State) : Prop where
  regs : mapWf reg2Reset s.regs = true
  dram : memWf s.dram = true
  tiles : mapWf (fun _ => Tile.reset) s.tiles = true
  tile : ∀ p ∈ s.tiles, tileSafe p.2 = true
  stk : s.stk.length = 8
  fleet : s.fleet.ports.length = 16
  serve : s.serve.berths.length = 16 ∧ s.serve.queues.length = 4
  vil : s.vil.halves.length = 2

theorem machineSafe_iff (s : State) : machineSafe s = true ↔ SafeParts s := by
  simp only [machineSafe, Bool.and_eq_true, decide_eq_true_eq, List.all_eq_true]
  exact ⟨fun ⟨⟨⟨⟨⟨⟨⟨⟨a, b⟩, c⟩, d⟩, e⟩, f⟩, g⟩, i⟩, j⟩ => ⟨a, b, c, d, e, f, ⟨g, i⟩, j⟩,
    fun h => ⟨⟨⟨⟨⟨⟨⟨⟨h.1, h.2⟩, h.3⟩, h.4⟩, h.5⟩, h.6⟩, h.7.1⟩, h.7.2⟩, h.8⟩⟩

/-- What the machine `t` has in common with `s`: every part that is not listed in `m`, and safety. -/
structure Frame (m : List Part) (s t : State) : Prop where
  cyc : m.contains Part.cyc = true ∨ t.cyc = s.cyc
  slot0 : m.contains Part.slot0 = true ∨ t.slot0 = s.slot0
  tick : m.contains Part.tick = true ∨ t.tick = s.tick
  tfrac : m.contains Part.tfrac = true ∨ t.tfrac = s.tfrac
  regs : m.contains Part.regs = true ∨ t.regs = s.regs
  tiles : m.contains Part.tiles = true ∨ t.tiles = s.tiles
  dram : m.contains Part.dram = true ∨ t.dram = s.dram
  net : m.contains Part.net = true ∨ t.net = s.net
  reports : m.contains Part.reports = true ∨ t.reports = s.reports
  free : m.contains Part.free = true ∨ t.free = s.free
  stk : m.contains Part.stk = true ∨ t.stk = s.stk
  vil : m.contains Part.vil = true ∨ t.vil = s.vil
  fleet : m.contains Part.fleet = true ∨ t.fleet = s.fleet
  chr : m.contains Part.chr = true ∨ t.chr = s.chr
  serve : m.contains Part.serve = true ∨ t.serve = s.serve
  img : m.contains Part.img = true ∨ t.img = s.img
  log : m.contains Part.log = true ∨ t.log = s.log
  pwr : m.contains Part.pwr = true ∨ t.pwr = s.pwr
  rst : m.contains Part.rst = true ∨ t.rst = s.rst
  bnc : m.contains Part.bnc = true ∨ t.bnc = s.bnc
  snd : m.contains Part.snd = true ∨ t.snd = s.snd
  lsr : m.contains Part.lsr = true ∨ t.lsr = s.lsr
  tap : m.contains Part.tap = true ∨ t.tap = s.tap
  answers : m.contains Part.answers = true ∨ t.answers = s.answers
  pending : m.contains Part.pending = true ∨ t.pending = s.pending
  safe : SafeParts s → SafeParts t

theorem Frame.refl (m : List Part) (s : State) : Frame m s s where
  cyc := .inr rfl
  slot0 := .inr rfl
  tick := .inr rfl
  tfrac := .inr rfl
  regs := .inr rfl
  tiles := .inr rfl
  dram := .inr rfl
  net := .inr rfl
  reports := .inr rfl
  free := .inr rfl
  stk := .inr rfl
  vil := .inr rfl
  fleet := .inr rfl
  chr := .inr rfl
  serve := .inr rfl
  img := .inr rfl
  log := .inr rfl
  pwr := .inr rfl
  rst := .inr rfl
  bnc := .inr rfl
  snd := .inr rfl
  lsr := .inr rfl
  tap := .inr rfl
  answers := .inr rfl
  pending := .inr rfl
  safe := id

theorem Frame.trans {m : List Part} {s t u : State} (a : Frame m s t) (b : Frame m t u) : Frame m s u where
  cyc := b.cyc.elim .inl fun h => a.cyc.elim .inl fun g => .inr (h.trans g)
  slot0 := b.slot0.elim .inl fun h => a.slot0.elim .inl fun g => .inr (h.trans g)
  tick := b.tick.elim .inl fun h => a.tick.elim .inl fun g => .inr (h.trans g)
  tfrac := b.tfrac.elim .inl fun h => a.tfrac.elim .inl fun g => .inr (h.trans g)
  regs := b.regs.elim .inl fun h => a.regs.elim .inl fun g => .inr (h.trans g)
  tiles := b.tiles.elim .inl fun h => a.tiles.elim .inl fun g => .inr (h.trans g)
  dram := b.dram.elim .inl fun h => a.dram.elim .inl fun g => .inr (h.trans g)
  net := b.net.elim .inl fun h => a.net.elim .inl fun g => .inr (h.trans g)
  reports := b.reports.elim .inl fun h => a.reports.elim .inl fun g => .inr (h.trans g)
  free := b.free.elim .inl fun h => a.free.elim .inl fun g => .inr (h.trans g)
  stk := b.stk.elim .inl fun h => a.stk.elim .inl fun g => .inr (h.trans g)
  vil := b.vil.elim .inl fun h => a.vil.elim .inl fun g => .inr (h.trans g)
  fleet := b.fleet.elim .inl fun h => a.fleet.elim .inl fun g => .inr (h.trans g)
  chr := b.chr.elim .inl fun h => a.chr.elim .inl fun g => .inr (h.trans g)
  serve := b.serve.elim .inl fun h => a.serve.elim .inl fun g => .inr (h.trans g)
  img := b.img.elim .inl fun h => a.img.elim .inl fun g => .inr (h.trans g)
  log := b.log.elim .inl fun h => a.log.elim .inl fun g => .inr (h.trans g)
  pwr := b.pwr.elim .inl fun h => a.pwr.elim .inl fun g => .inr (h.trans g)
  rst := b.rst.elim .inl fun h => a.rst.elim .inl fun g => .inr (h.trans g)
  bnc := b.bnc.elim .inl fun h => a.bnc.elim .inl fun g => .inr (h.trans g)
  snd := b.snd.elim .inl fun h => a.snd.elim .inl fun g => .inr (h.trans g)
  lsr := b.lsr.elim .inl fun h => a.lsr.elim .inl fun g => .inr (h.trans g)
  tap := b.tap.elim .inl fun h => a.tap.elim .inl fun g => .inr (h.trans g)
  answers := b.answers.elim .inl fun h => a.answers.elim .inl fun g => .inr (h.trans g)
  pending := b.pending.elim .inl fun h => a.pending.elim .inl fun g => .inr (h.trans g)
  safe := fun h => b.safe (a.safe h)

/-- A frame with fewer parts touched is one with more. -/
theorem Frame.mono {m n : List Part} {s t : State} (hm : Part.sub m n = true) (a : Frame m s t) : Frame n s t where
  cyc := a.cyc.imp_left (Part.sub_has _ hm)
  slot0 := a.slot0.imp_left (Part.sub_has _ hm)
  tick := a.tick.imp_left (Part.sub_has _ hm)
  tfrac := a.tfrac.imp_left (Part.sub_has _ hm)
  regs := a.regs.imp_left (Part.sub_has _ hm)
  tiles := a.tiles.imp_left (Part.sub_has _ hm)
  dram := a.dram.imp_left (Part.sub_has _ hm)
  net := a.net.imp_left (Part.sub_has _ hm)
  reports := a.reports.imp_left (Part.sub_has _ hm)
  free := a.free.imp_left (Part.sub_has _ hm)
  stk := a.stk.imp_left (Part.sub_has _ hm)
  vil := a.vil.imp_left (Part.sub_has _ hm)
  fleet := a.fleet.imp_left (Part.sub_has _ hm)
  chr := a.chr.imp_left (Part.sub_has _ hm)
  serve := a.serve.imp_left (Part.sub_has _ hm)
  img := a.img.imp_left (Part.sub_has _ hm)
  log := a.log.imp_left (Part.sub_has _ hm)
  pwr := a.pwr.imp_left (Part.sub_has _ hm)
  rst := a.rst.imp_left (Part.sub_has _ hm)
  bnc := a.bnc.imp_left (Part.sub_has _ hm)
  snd := a.snd.imp_left (Part.sub_has _ hm)
  lsr := a.lsr.imp_left (Part.sub_has _ hm)
  tap := a.tap.imp_left (Part.sub_has _ hm)
  answers := a.answers.imp_left (Part.sub_has _ hm)
  pending := a.pending.imp_left (Part.sub_has _ hm)
  safe := a.safe

/-- A machine given part by part. -/
theorem Frame.upd {m : List Part} {s t : State}
    {cyc : Nat}
    {slot0 : Nat}
    {tick : Nat}
    {tfrac : Nat}
    {regs : SMap Word}
    {tiles : SMap Tile}
    {dram : Mem}
    {net : List Packet}
    {reports : List Report}
    {free : Nat}
    {stk : List StackSt}
    {vil : VilgerSt}
    {fleet : FleetSt}
    {chr : ChronoSt}
    {serve : ServeSt}
    {img : ImageSt}
    {log : LogSt}
    {pwr : PowerSt}
    {rst : ResetSt}
    {bnc : BinnSt}
    {snd : SndSt}
    {lsr : LodestarSt}
    {tap : TapSt}
    {answers : List RegAnswer}
    {pending : List Instr}
    (h_cyc : m.contains Part.cyc = true ∨ cyc = t.cyc)
    (h_slot0 : m.contains Part.slot0 = true ∨ slot0 = t.slot0)
    (h_tick : m.contains Part.tick = true ∨ tick = t.tick)
    (h_tfrac : m.contains Part.tfrac = true ∨ tfrac = t.tfrac)
    (h_regs : (m.contains Part.regs = true ∧ (mapWf reg2Reset t.regs = true → mapWf reg2Reset regs = true)) ∨ regs = t.regs)
    (h_tiles : (m.contains Part.tiles = true ∧ (SafeParts t → mapWf (fun _ => Tile.reset) tiles = true ∧ ∀ p ∈ tiles, tileSafe p.2 = true)) ∨ tiles = t.tiles)
    (h_dram : (m.contains Part.dram = true ∧ (memWf t.dram = true → memWf dram = true)) ∨ dram = t.dram)
    (h_net : m.contains Part.net = true ∨ net = t.net)
    (h_reports : m.contains Part.reports = true ∨ reports = t.reports)
    (h_free : m.contains Part.free = true ∨ free = t.free)
    (h_stk : (m.contains Part.stk = true ∧ (t.stk.length = 8 → stk.length = 8)) ∨ stk = t.stk)
    (h_vil : (m.contains Part.vil = true ∧ (t.vil.halves.length = 2 → vil.halves.length = 2)) ∨ vil = t.vil)
    (h_fleet : (m.contains Part.fleet = true ∧ (t.fleet.ports.length = 16 → fleet.ports.length = 16)) ∨ fleet = t.fleet)
    (h_chr : m.contains Part.chr = true ∨ chr = t.chr)
    (h_serve : (m.contains Part.serve = true ∧ (t.serve.berths.length = 16 ∧ t.serve.queues.length = 4 → serve.berths.length = 16 ∧ serve.queues.length = 4)) ∨ serve = t.serve)
    (h_img : m.contains Part.img = true ∨ img = t.img)
    (h_log : m.contains Part.log = true ∨ log = t.log)
    (h_pwr : m.contains Part.pwr = true ∨ pwr = t.pwr)
    (h_rst : m.contains Part.rst = true ∨ rst = t.rst)
    (h_bnc : m.contains Part.bnc = true ∨ bnc = t.bnc)
    (h_snd : m.contains Part.snd = true ∨ snd = t.snd)
    (h_lsr : m.contains Part.lsr = true ∨ lsr = t.lsr)
    (h_tap : m.contains Part.tap = true ∨ tap = t.tap)
    (h_answers : m.contains Part.answers = true ∨ answers = t.answers)
    (h_pending : m.contains Part.pending = true ∨ pending = t.pending)
    (h : Frame m s t) :
    Frame m s ⟨cyc, slot0, tick, tfrac, regs, tiles, dram, net, reports, free, stk, vil, fleet, chr, serve, img, log, pwr, rst, bnc, snd, lsr, tap, answers, pending⟩ where
  cyc := (h_cyc).elim .inl fun e => h.cyc.imp_right (e.trans ·)
  slot0 := (h_slot0).elim .inl fun e => h.slot0.imp_right (e.trans ·)
  tick := (h_tick).elim .inl fun e => h.tick.imp_right (e.trans ·)
  tfrac := (h_tfrac).elim .inl fun e => h.tfrac.imp_right (e.trans ·)
  regs := (h_regs.imp_left (·.1)).elim .inl fun e => h.regs.imp_right (e.trans ·)
  tiles := (h_tiles.imp_left (·.1)).elim .inl fun e => h.tiles.imp_right (e.trans ·)
  dram := (h_dram.imp_left (·.1)).elim .inl fun e => h.dram.imp_right (e.trans ·)
  net := (h_net).elim .inl fun e => h.net.imp_right (e.trans ·)
  reports := (h_reports).elim .inl fun e => h.reports.imp_right (e.trans ·)
  free := (h_free).elim .inl fun e => h.free.imp_right (e.trans ·)
  stk := (h_stk.imp_left (·.1)).elim .inl fun e => h.stk.imp_right (e.trans ·)
  vil := (h_vil.imp_left (·.1)).elim .inl fun e => h.vil.imp_right (e.trans ·)
  fleet := (h_fleet.imp_left (·.1)).elim .inl fun e => h.fleet.imp_right (e.trans ·)
  chr := (h_chr).elim .inl fun e => h.chr.imp_right (e.trans ·)
  serve := (h_serve.imp_left (·.1)).elim .inl fun e => h.serve.imp_right (e.trans ·)
  img := (h_img).elim .inl fun e => h.img.imp_right (e.trans ·)
  log := (h_log).elim .inl fun e => h.log.imp_right (e.trans ·)
  pwr := (h_pwr).elim .inl fun e => h.pwr.imp_right (e.trans ·)
  rst := (h_rst).elim .inl fun e => h.rst.imp_right (e.trans ·)
  bnc := (h_bnc).elim .inl fun e => h.bnc.imp_right (e.trans ·)
  snd := (h_snd).elim .inl fun e => h.snd.imp_right (e.trans ·)
  lsr := (h_lsr).elim .inl fun e => h.lsr.imp_right (e.trans ·)
  tap := (h_tap).elim .inl fun e => h.tap.imp_right (e.trans ·)
  answers := (h_answers).elim .inl fun e => h.answers.imp_right (e.trans ·)
  pending := (h_pending).elim .inl fun e => h.pending.imp_right (e.trans ·)
  safe := fun hs => by
    have ht := h.safe hs
    constructor
    · rcases h_regs with ⟨-, g⟩ | rfl
      · exact g ht.regs
      · exact ht.regs
    · rcases h_dram with ⟨-, g⟩ | rfl
      · exact g ht.dram
      · exact ht.dram
    · rcases h_tiles with ⟨-, g⟩ | rfl
      · exact (g ht).1
      · exact ht.tiles
    · rcases h_tiles with ⟨-, g⟩ | rfl
      · exact (g ht).2
      · exact ht.tile
    · rcases h_stk with ⟨-, g⟩ | rfl
      · exact g ht.stk
      · exact ht.stk
    · rcases h_fleet with ⟨-, g⟩ | rfl
      · exact g ht.fleet
      · exact ht.fleet
    · rcases h_serve with ⟨-, g⟩ | rfl
      · exact g ht.serve
      · exact ht.serve
    · rcases h_vil with ⟨-, g⟩ | rfl
      · exact g ht.vil
      · exact ht.vil

/-- A fold of steps that each keep the frame. -/
theorem Frame.foldl {β : Type} {m : List Part} {s t : State} (l : List β) (g : State → β → State)
    (hg : ∀ u x, Frame m s u → Frame m s (g u x)) (h : Frame m s t) : Frame m s (l.foldl g t) := by
  induction l generalizing t with
  | nil => exact h
  | cons x l ih => exact ih (hg t x h)

theorem Frame.ite {m : List Part} {s a b : State} {c : Prop} [Decidable c] (ha : Frame m s a) (hb : Frame m s b) :
    Frame m s (if c then a else b) := by split <;> assumption

/-- A tile of a safe machine is safe. -/
theorem SafeParts.tileAt {s : State} (h : SafeParts s) (k site : Nat) : tileSafe (tileAt s k site) = true := by
  rcases mapGet_mem (fun _ => Tile.reset) s.tiles (tileKey k site) with hm | hd
  · exact h.tile _ hm
  · rw [show Machine.tileAt s k site = Tile.reset from hd]; decide

/-- Every next state of an outcome keeps the frame. -/
def FrameOut (m : List Part) (s : State) (o : Host.Outcome State Fault Refusal) : Prop :=
  ∀ t, o = .next t → Frame m s t

theorem FrameOut.next {m : List Part} {s t : State} (h : Frame m s t) : FrameOut m s (.next t) := by
  intro u hu; cases hu; exact h

end Sys2Proof.Machine
end

