-- ==== Sys2Proof/Laws/State.lean ====
section
/-!
SUPPORT. What each named update of the state or of a tile leaves alone: one lemma per field and update.
-/

namespace Sys2Proof.Machine

/-! ### The machine -/

@[simp] theorem setRword_cyc (s : State) (k off : Nat) (w : Word) : (setRword s k off w).cyc = s.cyc := rfl
@[simp] theorem setRword_slot0 (s : State) (k off : Nat) (w : Word) : (setRword s k off w).slot0 = s.slot0 := rfl
@[simp] theorem setRword_tick (s : State) (k off : Nat) (w : Word) : (setRword s k off w).tick = s.tick := rfl
@[simp] theorem setRword_tfrac (s : State) (k off : Nat) (w : Word) : (setRword s k off w).tfrac = s.tfrac := rfl
@[simp] theorem setRword_tiles (s : State) (k off : Nat) (w : Word) : (setRword s k off w).tiles = s.tiles := rfl
@[simp] theorem setRword_dram (s : State) (k off : Nat) (w : Word) : (setRword s k off w).dram = s.dram := rfl
@[simp] theorem setRword_net (s : State) (k off : Nat) (w : Word) : (setRword s k off w).net = s.net := rfl
@[simp] theorem setRword_reports (s : State) (k off : Nat) (w : Word) : (setRword s k off w).reports = s.reports := rfl
@[simp] theorem setRword_free (s : State) (k off : Nat) (w : Word) : (setRword s k off w).free = s.free := rfl
@[simp] theorem setRword_stk (s : State) (k off : Nat) (w : Word) : (setRword s k off w).stk = s.stk := rfl
@[simp] theorem setRword_vil (s : State) (k off : Nat) (w : Word) : (setRword s k off w).vil = s.vil := rfl
@[simp] theorem setRword_fleet (s : State) (k off : Nat) (w : Word) : (setRword s k off w).fleet = s.fleet := rfl
@[simp] theorem setRword_chr (s : State) (k off : Nat) (w : Word) : (setRword s k off w).chr = s.chr := rfl
@[simp] theorem setRword_serve (s : State) (k off : Nat) (w : Word) : (setRword s k off w).serve = s.serve := rfl
@[simp] theorem setRword_img (s : State) (k off : Nat) (w : Word) : (setRword s k off w).img = s.img := rfl
@[simp] theorem setRword_log (s : State) (k off : Nat) (w : Word) : (setRword s k off w).log = s.log := rfl
@[simp] theorem setRword_pwr (s : State) (k off : Nat) (w : Word) : (setRword s k off w).pwr = s.pwr := rfl
@[simp] theorem setRword_rst (s : State) (k off : Nat) (w : Word) : (setRword s k off w).rst = s.rst := rfl
@[simp] theorem setRword_bnc (s : State) (k off : Nat) (w : Word) : (setRword s k off w).bnc = s.bnc := rfl
@[simp] theorem setRword_snd (s : State) (k off : Nat) (w : Word) : (setRword s k off w).snd = s.snd := rfl
@[simp] theorem setRword_lsr (s : State) (k off : Nat) (w : Word) : (setRword s k off w).lsr = s.lsr := rfl
@[simp] theorem setRword_tap (s : State) (k off : Nat) (w : Word) : (setRword s k off w).tap = s.tap := rfl
@[simp] theorem setRword_answers (s : State) (k off : Nat) (w : Word) : (setRword s k off w).answers = s.answers := rfl
@[simp] theorem setRword_pending (s : State) (k off : Nat) (w : Word) : (setRword s k off w).pending = s.pending := rfl

@[simp] theorem rput_cyc (s : State) (k : Nat) (f : Fld) (v i : Nat) : (rput s k f v i).cyc = s.cyc := rfl
@[simp] theorem rput_slot0 (s : State) (k : Nat) (f : Fld) (v i : Nat) : (rput s k f v i).slot0 = s.slot0 := rfl
@[simp] theorem rput_tick (s : State) (k : Nat) (f : Fld) (v i : Nat) : (rput s k f v i).tick = s.tick := rfl
@[simp] theorem rput_tfrac (s : State) (k : Nat) (f : Fld) (v i : Nat) : (rput s k f v i).tfrac = s.tfrac := rfl
@[simp] theorem rput_tiles (s : State) (k : Nat) (f : Fld) (v i : Nat) : (rput s k f v i).tiles = s.tiles := rfl
@[simp] theorem rput_dram (s : State) (k : Nat) (f : Fld) (v i : Nat) : (rput s k f v i).dram = s.dram := rfl
@[simp] theorem rput_net (s : State) (k : Nat) (f : Fld) (v i : Nat) : (rput s k f v i).net = s.net := rfl
@[simp] theorem rput_reports (s : State) (k : Nat) (f : Fld) (v i : Nat) : (rput s k f v i).reports = s.reports := rfl
@[simp] theorem rput_free (s : State) (k : Nat) (f : Fld) (v i : Nat) : (rput s k f v i).free = s.free := rfl
@[simp] theorem rput_stk (s : State) (k : Nat) (f : Fld) (v i : Nat) : (rput s k f v i).stk = s.stk := rfl
@[simp] theorem rput_vil (s : State) (k : Nat) (f : Fld) (v i : Nat) : (rput s k f v i).vil = s.vil := rfl
@[simp] theorem rput_fleet (s : State) (k : Nat) (f : Fld) (v i : Nat) : (rput s k f v i).fleet = s.fleet := rfl
@[simp] theorem rput_chr (s : State) (k : Nat) (f : Fld) (v i : Nat) : (rput s k f v i).chr = s.chr := rfl
@[simp] theorem rput_serve (s : State) (k : Nat) (f : Fld) (v i : Nat) : (rput s k f v i).serve = s.serve := rfl
@[simp] theorem rput_img (s : State) (k : Nat) (f : Fld) (v i : Nat) : (rput s k f v i).img = s.img := rfl
@[simp] theorem rput_log (s : State) (k : Nat) (f : Fld) (v i : Nat) : (rput s k f v i).log = s.log := rfl
@[simp] theorem rput_pwr (s : State) (k : Nat) (f : Fld) (v i : Nat) : (rput s k f v i).pwr = s.pwr := rfl
@[simp] theorem rput_rst (s : State) (k : Nat) (f : Fld) (v i : Nat) : (rput s k f v i).rst = s.rst := rfl
@[simp] theorem rput_bnc (s : State) (k : Nat) (f : Fld) (v i : Nat) : (rput s k f v i).bnc = s.bnc := rfl
@[simp] theorem rput_snd (s : State) (k : Nat) (f : Fld) (v i : Nat) : (rput s k f v i).snd = s.snd := rfl
@[simp] theorem rput_lsr (s : State) (k : Nat) (f : Fld) (v i : Nat) : (rput s k f v i).lsr = s.lsr := rfl
@[simp] theorem rput_tap (s : State) (k : Nat) (f : Fld) (v i : Nat) : (rput s k f v i).tap = s.tap := rfl
@[simp] theorem rput_answers (s : State) (k : Nat) (f : Fld) (v i : Nat) : (rput s k f v i).answers = s.answers := rfl
@[simp] theorem rput_pending (s : State) (k : Nat) (f : Fld) (v i : Nat) : (rput s k f v i).pending = s.pending := rfl

@[simp] theorem rset_cyc (s : State) (k : Nat) (f : Fld) (i : Nat) : (rset s k f i).cyc = s.cyc := rfl
@[simp] theorem rset_slot0 (s : State) (k : Nat) (f : Fld) (i : Nat) : (rset s k f i).slot0 = s.slot0 := rfl
@[simp] theorem rset_tick (s : State) (k : Nat) (f : Fld) (i : Nat) : (rset s k f i).tick = s.tick := rfl
@[simp] theorem rset_tfrac (s : State) (k : Nat) (f : Fld) (i : Nat) : (rset s k f i).tfrac = s.tfrac := rfl
@[simp] theorem rset_tiles (s : State) (k : Nat) (f : Fld) (i : Nat) : (rset s k f i).tiles = s.tiles := rfl
@[simp] theorem rset_dram (s : State) (k : Nat) (f : Fld) (i : Nat) : (rset s k f i).dram = s.dram := rfl
@[simp] theorem rset_net (s : State) (k : Nat) (f : Fld) (i : Nat) : (rset s k f i).net = s.net := rfl
@[simp] theorem rset_reports (s : State) (k : Nat) (f : Fld) (i : Nat) : (rset s k f i).reports = s.reports := rfl
@[simp] theorem rset_free (s : State) (k : Nat) (f : Fld) (i : Nat) : (rset s k f i).free = s.free := rfl
@[simp] theorem rset_stk (s : State) (k : Nat) (f : Fld) (i : Nat) : (rset s k f i).stk = s.stk := rfl
@[simp] theorem rset_vil (s : State) (k : Nat) (f : Fld) (i : Nat) : (rset s k f i).vil = s.vil := rfl
@[simp] theorem rset_fleet (s : State) (k : Nat) (f : Fld) (i : Nat) : (rset s k f i).fleet = s.fleet := rfl
@[simp] theorem rset_chr (s : State) (k : Nat) (f : Fld) (i : Nat) : (rset s k f i).chr = s.chr := rfl
@[simp] theorem rset_serve (s : State) (k : Nat) (f : Fld) (i : Nat) : (rset s k f i).serve = s.serve := rfl
@[simp] theorem rset_img (s : State) (k : Nat) (f : Fld) (i : Nat) : (rset s k f i).img = s.img := rfl
@[simp] theorem rset_log (s : State) (k : Nat) (f : Fld) (i : Nat) : (rset s k f i).log = s.log := rfl
@[simp] theorem rset_pwr (s : State) (k : Nat) (f : Fld) (i : Nat) : (rset s k f i).pwr = s.pwr := rfl
@[simp] theorem rset_rst (s : State) (k : Nat) (f : Fld) (i : Nat) : (rset s k f i).rst = s.rst := rfl
@[simp] theorem rset_bnc (s : State) (k : Nat) (f : Fld) (i : Nat) : (rset s k f i).bnc = s.bnc := rfl
@[simp] theorem rset_snd (s : State) (k : Nat) (f : Fld) (i : Nat) : (rset s k f i).snd = s.snd := rfl
@[simp] theorem rset_lsr (s : State) (k : Nat) (f : Fld) (i : Nat) : (rset s k f i).lsr = s.lsr := rfl
@[simp] theorem rset_tap (s : State) (k : Nat) (f : Fld) (i : Nat) : (rset s k f i).tap = s.tap := rfl
@[simp] theorem rset_answers (s : State) (k : Nat) (f : Fld) (i : Nat) : (rset s k f i).answers = s.answers := rfl
@[simp] theorem rset_pending (s : State) (k : Nat) (f : Fld) (i : Nat) : (rset s k f i).pending = s.pending := rfl

@[simp] theorem rbump_cyc (s : State) (k : Nat) (f : Fld) (n : Nat) : (rbump s k f n).cyc = s.cyc := rfl
@[simp] theorem rbump_slot0 (s : State) (k : Nat) (f : Fld) (n : Nat) : (rbump s k f n).slot0 = s.slot0 := rfl
@[simp] theorem rbump_tick (s : State) (k : Nat) (f : Fld) (n : Nat) : (rbump s k f n).tick = s.tick := rfl
@[simp] theorem rbump_tfrac (s : State) (k : Nat) (f : Fld) (n : Nat) : (rbump s k f n).tfrac = s.tfrac := rfl
@[simp] theorem rbump_tiles (s : State) (k : Nat) (f : Fld) (n : Nat) : (rbump s k f n).tiles = s.tiles := rfl
@[simp] theorem rbump_dram (s : State) (k : Nat) (f : Fld) (n : Nat) : (rbump s k f n).dram = s.dram := rfl
@[simp] theorem rbump_net (s : State) (k : Nat) (f : Fld) (n : Nat) : (rbump s k f n).net = s.net := rfl
@[simp] theorem rbump_reports (s : State) (k : Nat) (f : Fld) (n : Nat) : (rbump s k f n).reports = s.reports := rfl
@[simp] theorem rbump_free (s : State) (k : Nat) (f : Fld) (n : Nat) : (rbump s k f n).free = s.free := rfl
@[simp] theorem rbump_stk (s : State) (k : Nat) (f : Fld) (n : Nat) : (rbump s k f n).stk = s.stk := rfl
@[simp] theorem rbump_vil (s : State) (k : Nat) (f : Fld) (n : Nat) : (rbump s k f n).vil = s.vil := rfl
@[simp] theorem rbump_fleet (s : State) (k : Nat) (f : Fld) (n : Nat) : (rbump s k f n).fleet = s.fleet := rfl
@[simp] theorem rbump_chr (s : State) (k : Nat) (f : Fld) (n : Nat) : (rbump s k f n).chr = s.chr := rfl
@[simp] theorem rbump_serve (s : State) (k : Nat) (f : Fld) (n : Nat) : (rbump s k f n).serve = s.serve := rfl
@[simp] theorem rbump_img (s : State) (k : Nat) (f : Fld) (n : Nat) : (rbump s k f n).img = s.img := rfl
@[simp] theorem rbump_log (s : State) (k : Nat) (f : Fld) (n : Nat) : (rbump s k f n).log = s.log := rfl
@[simp] theorem rbump_pwr (s : State) (k : Nat) (f : Fld) (n : Nat) : (rbump s k f n).pwr = s.pwr := rfl
@[simp] theorem rbump_rst (s : State) (k : Nat) (f : Fld) (n : Nat) : (rbump s k f n).rst = s.rst := rfl
@[simp] theorem rbump_bnc (s : State) (k : Nat) (f : Fld) (n : Nat) : (rbump s k f n).bnc = s.bnc := rfl
@[simp] theorem rbump_snd (s : State) (k : Nat) (f : Fld) (n : Nat) : (rbump s k f n).snd = s.snd := rfl
@[simp] theorem rbump_lsr (s : State) (k : Nat) (f : Fld) (n : Nat) : (rbump s k f n).lsr = s.lsr := rfl
@[simp] theorem rbump_tap (s : State) (k : Nat) (f : Fld) (n : Nat) : (rbump s k f n).tap = s.tap := rfl
@[simp] theorem rbump_answers (s : State) (k : Nat) (f : Fld) (n : Nat) : (rbump s k f n).answers = s.answers := rfl
@[simp] theorem rbump_pending (s : State) (k : Nat) (f : Fld) (n : Nat) : (rbump s k f n).pending = s.pending := rfl

@[simp] theorem pput_cyc (s : State) (p : Nat) (f : Fld) (v : Nat) : (pput s p f v).cyc = s.cyc := rfl
@[simp] theorem pput_slot0 (s : State) (p : Nat) (f : Fld) (v : Nat) : (pput s p f v).slot0 = s.slot0 := rfl
@[simp] theorem pput_tick (s : State) (p : Nat) (f : Fld) (v : Nat) : (pput s p f v).tick = s.tick := rfl
@[simp] theorem pput_tfrac (s : State) (p : Nat) (f : Fld) (v : Nat) : (pput s p f v).tfrac = s.tfrac := rfl
@[simp] theorem pput_tiles (s : State) (p : Nat) (f : Fld) (v : Nat) : (pput s p f v).tiles = s.tiles := rfl
@[simp] theorem pput_dram (s : State) (p : Nat) (f : Fld) (v : Nat) : (pput s p f v).dram = s.dram := rfl
@[simp] theorem pput_net (s : State) (p : Nat) (f : Fld) (v : Nat) : (pput s p f v).net = s.net := rfl
@[simp] theorem pput_reports (s : State) (p : Nat) (f : Fld) (v : Nat) : (pput s p f v).reports = s.reports := rfl
@[simp] theorem pput_free (s : State) (p : Nat) (f : Fld) (v : Nat) : (pput s p f v).free = s.free := rfl
@[simp] theorem pput_stk (s : State) (p : Nat) (f : Fld) (v : Nat) : (pput s p f v).stk = s.stk := rfl
@[simp] theorem pput_vil (s : State) (p : Nat) (f : Fld) (v : Nat) : (pput s p f v).vil = s.vil := rfl
@[simp] theorem pput_fleet (s : State) (p : Nat) (f : Fld) (v : Nat) : (pput s p f v).fleet = s.fleet := rfl
@[simp] theorem pput_chr (s : State) (p : Nat) (f : Fld) (v : Nat) : (pput s p f v).chr = s.chr := rfl
@[simp] theorem pput_serve (s : State) (p : Nat) (f : Fld) (v : Nat) : (pput s p f v).serve = s.serve := rfl
@[simp] theorem pput_img (s : State) (p : Nat) (f : Fld) (v : Nat) : (pput s p f v).img = s.img := rfl
@[simp] theorem pput_log (s : State) (p : Nat) (f : Fld) (v : Nat) : (pput s p f v).log = s.log := rfl
@[simp] theorem pput_pwr (s : State) (p : Nat) (f : Fld) (v : Nat) : (pput s p f v).pwr = s.pwr := rfl
@[simp] theorem pput_rst (s : State) (p : Nat) (f : Fld) (v : Nat) : (pput s p f v).rst = s.rst := rfl
@[simp] theorem pput_bnc (s : State) (p : Nat) (f : Fld) (v : Nat) : (pput s p f v).bnc = s.bnc := rfl
@[simp] theorem pput_snd (s : State) (p : Nat) (f : Fld) (v : Nat) : (pput s p f v).snd = s.snd := rfl
@[simp] theorem pput_lsr (s : State) (p : Nat) (f : Fld) (v : Nat) : (pput s p f v).lsr = s.lsr := rfl
@[simp] theorem pput_tap (s : State) (p : Nat) (f : Fld) (v : Nat) : (pput s p f v).tap = s.tap := rfl
@[simp] theorem pput_answers (s : State) (p : Nat) (f : Fld) (v : Nat) : (pput s p f v).answers = s.answers := rfl
@[simp] theorem pput_pending (s : State) (p : Nat) (f : Fld) (v : Nat) : (pput s p f v).pending = s.pending := rfl

@[simp] theorem resetBlock_cyc (s : State) (k base : Nat) : (resetBlock s k base).cyc = s.cyc := rfl
@[simp] theorem resetBlock_slot0 (s : State) (k base : Nat) : (resetBlock s k base).slot0 = s.slot0 := rfl
@[simp] theorem resetBlock_tick (s : State) (k base : Nat) : (resetBlock s k base).tick = s.tick := rfl
@[simp] theorem resetBlock_tfrac (s : State) (k base : Nat) : (resetBlock s k base).tfrac = s.tfrac := rfl
@[simp] theorem resetBlock_tiles (s : State) (k base : Nat) : (resetBlock s k base).tiles = s.tiles := rfl
@[simp] theorem resetBlock_dram (s : State) (k base : Nat) : (resetBlock s k base).dram = s.dram := rfl
@[simp] theorem resetBlock_net (s : State) (k base : Nat) : (resetBlock s k base).net = s.net := rfl
@[simp] theorem resetBlock_reports (s : State) (k base : Nat) : (resetBlock s k base).reports = s.reports := rfl
@[simp] theorem resetBlock_free (s : State) (k base : Nat) : (resetBlock s k base).free = s.free := rfl
@[simp] theorem resetBlock_stk (s : State) (k base : Nat) : (resetBlock s k base).stk = s.stk := rfl
@[simp] theorem resetBlock_vil (s : State) (k base : Nat) : (resetBlock s k base).vil = s.vil := rfl
@[simp] theorem resetBlock_fleet (s : State) (k base : Nat) : (resetBlock s k base).fleet = s.fleet := rfl
@[simp] theorem resetBlock_chr (s : State) (k base : Nat) : (resetBlock s k base).chr = s.chr := rfl
@[simp] theorem resetBlock_serve (s : State) (k base : Nat) : (resetBlock s k base).serve = s.serve := rfl
@[simp] theorem resetBlock_img (s : State) (k base : Nat) : (resetBlock s k base).img = s.img := rfl
@[simp] theorem resetBlock_log (s : State) (k base : Nat) : (resetBlock s k base).log = s.log := rfl
@[simp] theorem resetBlock_pwr (s : State) (k base : Nat) : (resetBlock s k base).pwr = s.pwr := rfl
@[simp] theorem resetBlock_rst (s : State) (k base : Nat) : (resetBlock s k base).rst = s.rst := rfl
@[simp] theorem resetBlock_bnc (s : State) (k base : Nat) : (resetBlock s k base).bnc = s.bnc := rfl
@[simp] theorem resetBlock_snd (s : State) (k base : Nat) : (resetBlock s k base).snd = s.snd := rfl
@[simp] theorem resetBlock_lsr (s : State) (k base : Nat) : (resetBlock s k base).lsr = s.lsr := rfl
@[simp] theorem resetBlock_tap (s : State) (k base : Nat) : (resetBlock s k base).tap = s.tap := rfl
@[simp] theorem resetBlock_answers (s : State) (k base : Nat) : (resetBlock s k base).answers = s.answers := rfl
@[simp] theorem resetBlock_pending (s : State) (k base : Nat) : (resetBlock s k base).pending = s.pending := rfl

@[simp] theorem putTile_cyc (s : State) (k site : Nat) (t : Tile) : (putTile s k site t).cyc = s.cyc := rfl
@[simp] theorem putTile_slot0 (s : State) (k site : Nat) (t : Tile) : (putTile s k site t).slot0 = s.slot0 := rfl
@[simp] theorem putTile_tick (s : State) (k site : Nat) (t : Tile) : (putTile s k site t).tick = s.tick := rfl
@[simp] theorem putTile_tfrac (s : State) (k site : Nat) (t : Tile) : (putTile s k site t).tfrac = s.tfrac := rfl
@[simp] theorem putTile_regs (s : State) (k site : Nat) (t : Tile) : (putTile s k site t).regs = s.regs := rfl
@[simp] theorem putTile_dram (s : State) (k site : Nat) (t : Tile) : (putTile s k site t).dram = s.dram := rfl
@[simp] theorem putTile_net (s : State) (k site : Nat) (t : Tile) : (putTile s k site t).net = s.net := rfl
@[simp] theorem putTile_reports (s : State) (k site : Nat) (t : Tile) : (putTile s k site t).reports = s.reports := rfl
@[simp] theorem putTile_free (s : State) (k site : Nat) (t : Tile) : (putTile s k site t).free = s.free := rfl
@[simp] theorem putTile_stk (s : State) (k site : Nat) (t : Tile) : (putTile s k site t).stk = s.stk := rfl
@[simp] theorem putTile_vil (s : State) (k site : Nat) (t : Tile) : (putTile s k site t).vil = s.vil := rfl
@[simp] theorem putTile_fleet (s : State) (k site : Nat) (t : Tile) : (putTile s k site t).fleet = s.fleet := rfl
@[simp] theorem putTile_chr (s : State) (k site : Nat) (t : Tile) : (putTile s k site t).chr = s.chr := rfl
@[simp] theorem putTile_serve (s : State) (k site : Nat) (t : Tile) : (putTile s k site t).serve = s.serve := rfl
@[simp] theorem putTile_img (s : State) (k site : Nat) (t : Tile) : (putTile s k site t).img = s.img := rfl
@[simp] theorem putTile_log (s : State) (k site : Nat) (t : Tile) : (putTile s k site t).log = s.log := rfl
@[simp] theorem putTile_pwr (s : State) (k site : Nat) (t : Tile) : (putTile s k site t).pwr = s.pwr := rfl
@[simp] theorem putTile_rst (s : State) (k site : Nat) (t : Tile) : (putTile s k site t).rst = s.rst := rfl
@[simp] theorem putTile_bnc (s : State) (k site : Nat) (t : Tile) : (putTile s k site t).bnc = s.bnc := rfl
@[simp] theorem putTile_snd (s : State) (k site : Nat) (t : Tile) : (putTile s k site t).snd = s.snd := rfl
@[simp] theorem putTile_lsr (s : State) (k site : Nat) (t : Tile) : (putTile s k site t).lsr = s.lsr := rfl
@[simp] theorem putTile_tap (s : State) (k site : Nat) (t : Tile) : (putTile s k site t).tap = s.tap := rfl
@[simp] theorem putTile_answers (s : State) (k site : Nat) (t : Tile) : (putTile s k site t).answers = s.answers := rfl
@[simp] theorem putTile_pending (s : State) (k site : Nat) (t : Tile) : (putTile s k site t).pending = s.pending := rfl

@[simp] theorem putStk_cyc (s : State) (k : Nat) (v : StackSt) : (putStk s k v).cyc = s.cyc := rfl
@[simp] theorem putStk_slot0 (s : State) (k : Nat) (v : StackSt) : (putStk s k v).slot0 = s.slot0 := rfl
@[simp] theorem putStk_tick (s : State) (k : Nat) (v : StackSt) : (putStk s k v).tick = s.tick := rfl
@[simp] theorem putStk_tfrac (s : State) (k : Nat) (v : StackSt) : (putStk s k v).tfrac = s.tfrac := rfl
@[simp] theorem putStk_regs (s : State) (k : Nat) (v : StackSt) : (putStk s k v).regs = s.regs := rfl
@[simp] theorem putStk_tiles (s : State) (k : Nat) (v : StackSt) : (putStk s k v).tiles = s.tiles := rfl
@[simp] theorem putStk_dram (s : State) (k : Nat) (v : StackSt) : (putStk s k v).dram = s.dram := rfl
@[simp] theorem putStk_net (s : State) (k : Nat) (v : StackSt) : (putStk s k v).net = s.net := rfl
@[simp] theorem putStk_reports (s : State) (k : Nat) (v : StackSt) : (putStk s k v).reports = s.reports := rfl
@[simp] theorem putStk_free (s : State) (k : Nat) (v : StackSt) : (putStk s k v).free = s.free := rfl
@[simp] theorem putStk_vil (s : State) (k : Nat) (v : StackSt) : (putStk s k v).vil = s.vil := rfl
@[simp] theorem putStk_fleet (s : State) (k : Nat) (v : StackSt) : (putStk s k v).fleet = s.fleet := rfl
@[simp] theorem putStk_chr (s : State) (k : Nat) (v : StackSt) : (putStk s k v).chr = s.chr := rfl
@[simp] theorem putStk_serve (s : State) (k : Nat) (v : StackSt) : (putStk s k v).serve = s.serve := rfl
@[simp] theorem putStk_img (s : State) (k : Nat) (v : StackSt) : (putStk s k v).img = s.img := rfl
@[simp] theorem putStk_log (s : State) (k : Nat) (v : StackSt) : (putStk s k v).log = s.log := rfl
@[simp] theorem putStk_pwr (s : State) (k : Nat) (v : StackSt) : (putStk s k v).pwr = s.pwr := rfl
@[simp] theorem putStk_rst (s : State) (k : Nat) (v : StackSt) : (putStk s k v).rst = s.rst := rfl
@[simp] theorem putStk_bnc (s : State) (k : Nat) (v : StackSt) : (putStk s k v).bnc = s.bnc := rfl
@[simp] theorem putStk_snd (s : State) (k : Nat) (v : StackSt) : (putStk s k v).snd = s.snd := rfl
@[simp] theorem putStk_lsr (s : State) (k : Nat) (v : StackSt) : (putStk s k v).lsr = s.lsr := rfl
@[simp] theorem putStk_tap (s : State) (k : Nat) (v : StackSt) : (putStk s k v).tap = s.tap := rfl
@[simp] theorem putStk_answers (s : State) (k : Nat) (v : StackSt) : (putStk s k v).answers = s.answers := rfl
@[simp] theorem putStk_pending (s : State) (k : Nat) (v : StackSt) : (putStk s k v).pending = s.pending := rfl

@[simp] theorem noteWaits_cyc (s : State) (k0 k ch : Nat) : (noteWaits s k0 k ch).cyc = s.cyc := by
  unfold noteWaits; dsimp only; split <;> split <;> split <;> rfl
@[simp] theorem noteWaits_slot0 (s : State) (k0 k ch : Nat) : (noteWaits s k0 k ch).slot0 = s.slot0 := by
  unfold noteWaits; dsimp only; split <;> split <;> split <;> rfl
@[simp] theorem noteWaits_tick (s : State) (k0 k ch : Nat) : (noteWaits s k0 k ch).tick = s.tick := by
  unfold noteWaits; dsimp only; split <;> split <;> split <;> rfl
@[simp] theorem noteWaits_tfrac (s : State) (k0 k ch : Nat) : (noteWaits s k0 k ch).tfrac = s.tfrac := by
  unfold noteWaits; dsimp only; split <;> split <;> split <;> rfl
@[simp] theorem noteWaits_tiles (s : State) (k0 k ch : Nat) : (noteWaits s k0 k ch).tiles = s.tiles := by
  unfold noteWaits; dsimp only; split <;> split <;> split <;> rfl
@[simp] theorem noteWaits_dram (s : State) (k0 k ch : Nat) : (noteWaits s k0 k ch).dram = s.dram := by
  unfold noteWaits; dsimp only; split <;> split <;> split <;> rfl
@[simp] theorem noteWaits_net (s : State) (k0 k ch : Nat) : (noteWaits s k0 k ch).net = s.net := by
  unfold noteWaits; dsimp only; split <;> split <;> split <;> rfl
@[simp] theorem noteWaits_reports (s : State) (k0 k ch : Nat) : (noteWaits s k0 k ch).reports = s.reports := by
  unfold noteWaits; dsimp only; split <;> split <;> split <;> rfl
@[simp] theorem noteWaits_free (s : State) (k0 k ch : Nat) : (noteWaits s k0 k ch).free = s.free := by
  unfold noteWaits; dsimp only; split <;> split <;> split <;> rfl
@[simp] theorem noteWaits_stk (s : State) (k0 k ch : Nat) : (noteWaits s k0 k ch).stk = s.stk := by
  unfold noteWaits; dsimp only; split <;> split <;> split <;> rfl
@[simp] theorem noteWaits_vil (s : State) (k0 k ch : Nat) : (noteWaits s k0 k ch).vil = s.vil := by
  unfold noteWaits; dsimp only; split <;> split <;> split <;> rfl
@[simp] theorem noteWaits_fleet (s : State) (k0 k ch : Nat) : (noteWaits s k0 k ch).fleet = s.fleet := by
  unfold noteWaits; dsimp only; split <;> split <;> split <;> rfl
@[simp] theorem noteWaits_chr (s : State) (k0 k ch : Nat) : (noteWaits s k0 k ch).chr = s.chr := by
  unfold noteWaits; dsimp only; split <;> split <;> split <;> rfl
@[simp] theorem noteWaits_serve (s : State) (k0 k ch : Nat) : (noteWaits s k0 k ch).serve = s.serve := by
  unfold noteWaits; dsimp only; split <;> split <;> split <;> rfl
@[simp] theorem noteWaits_img (s : State) (k0 k ch : Nat) : (noteWaits s k0 k ch).img = s.img := by
  unfold noteWaits; dsimp only; split <;> split <;> split <;> rfl
@[simp] theorem noteWaits_log (s : State) (k0 k ch : Nat) : (noteWaits s k0 k ch).log = s.log := by
  unfold noteWaits; dsimp only; split <;> split <;> split <;> rfl
@[simp] theorem noteWaits_pwr (s : State) (k0 k ch : Nat) : (noteWaits s k0 k ch).pwr = s.pwr := by
  unfold noteWaits; dsimp only; split <;> split <;> split <;> rfl
@[simp] theorem noteWaits_rst (s : State) (k0 k ch : Nat) : (noteWaits s k0 k ch).rst = s.rst := by
  unfold noteWaits; dsimp only; split <;> split <;> split <;> rfl
@[simp] theorem noteWaits_bnc (s : State) (k0 k ch : Nat) : (noteWaits s k0 k ch).bnc = s.bnc := by
  unfold noteWaits; dsimp only; split <;> split <;> split <;> rfl
@[simp] theorem noteWaits_snd (s : State) (k0 k ch : Nat) : (noteWaits s k0 k ch).snd = s.snd := by
  unfold noteWaits; dsimp only; split <;> split <;> split <;> rfl
@[simp] theorem noteWaits_lsr (s : State) (k0 k ch : Nat) : (noteWaits s k0 k ch).lsr = s.lsr := by
  unfold noteWaits; dsimp only; split <;> split <;> split <;> rfl
@[simp] theorem noteWaits_tap (s : State) (k0 k ch : Nat) : (noteWaits s k0 k ch).tap = s.tap := by
  unfold noteWaits; dsimp only; split <;> split <;> split <;> rfl
@[simp] theorem noteWaits_answers (s : State) (k0 k ch : Nat) : (noteWaits s k0 k ch).answers = s.answers := by
  unfold noteWaits; dsimp only; split <;> split <;> split <;> rfl
@[simp] theorem noteWaits_pending (s : State) (k0 k ch : Nat) : (noteWaits s k0 k ch).pending = s.pending := by
  unfold noteWaits; dsimp only; split <;> split <;> split <;> rfl

@[simp] theorem countFlits_cyc (s : State) (k ch n : Nat) : (countFlits s k ch n).cyc = s.cyc := noteWaits_cyc _ _ _ _
@[simp] theorem countFlits_slot0 (s : State) (k ch n : Nat) : (countFlits s k ch n).slot0 = s.slot0 := noteWaits_slot0 _ _ _ _
@[simp] theorem countFlits_tick (s : State) (k ch n : Nat) : (countFlits s k ch n).tick = s.tick := noteWaits_tick _ _ _ _
@[simp] theorem countFlits_tfrac (s : State) (k ch n : Nat) : (countFlits s k ch n).tfrac = s.tfrac := noteWaits_tfrac _ _ _ _
@[simp] theorem countFlits_tiles (s : State) (k ch n : Nat) : (countFlits s k ch n).tiles = s.tiles := noteWaits_tiles _ _ _ _
@[simp] theorem countFlits_dram (s : State) (k ch n : Nat) : (countFlits s k ch n).dram = s.dram := noteWaits_dram _ _ _ _
@[simp] theorem countFlits_net (s : State) (k ch n : Nat) : (countFlits s k ch n).net = s.net := noteWaits_net _ _ _ _
@[simp] theorem countFlits_reports (s : State) (k ch n : Nat) : (countFlits s k ch n).reports = s.reports := noteWaits_reports _ _ _ _
@[simp] theorem countFlits_free (s : State) (k ch n : Nat) : (countFlits s k ch n).free = s.free := noteWaits_free _ _ _ _
@[simp] theorem countFlits_stk (s : State) (k ch n : Nat) : (countFlits s k ch n).stk = s.stk := noteWaits_stk _ _ _ _
@[simp] theorem countFlits_vil (s : State) (k ch n : Nat) : (countFlits s k ch n).vil = s.vil := noteWaits_vil _ _ _ _
@[simp] theorem countFlits_fleet (s : State) (k ch n : Nat) : (countFlits s k ch n).fleet = s.fleet := noteWaits_fleet _ _ _ _
@[simp] theorem countFlits_chr (s : State) (k ch n : Nat) : (countFlits s k ch n).chr = s.chr := noteWaits_chr _ _ _ _
@[simp] theorem countFlits_serve (s : State) (k ch n : Nat) : (countFlits s k ch n).serve = s.serve := noteWaits_serve _ _ _ _
@[simp] theorem countFlits_img (s : State) (k ch n : Nat) : (countFlits s k ch n).img = s.img := noteWaits_img _ _ _ _
@[simp] theorem countFlits_log (s : State) (k ch n : Nat) : (countFlits s k ch n).log = s.log := noteWaits_log _ _ _ _
@[simp] theorem countFlits_pwr (s : State) (k ch n : Nat) : (countFlits s k ch n).pwr = s.pwr := noteWaits_pwr _ _ _ _
@[simp] theorem countFlits_rst (s : State) (k ch n : Nat) : (countFlits s k ch n).rst = s.rst := noteWaits_rst _ _ _ _
@[simp] theorem countFlits_bnc (s : State) (k ch n : Nat) : (countFlits s k ch n).bnc = s.bnc := noteWaits_bnc _ _ _ _
@[simp] theorem countFlits_snd (s : State) (k ch n : Nat) : (countFlits s k ch n).snd = s.snd := noteWaits_snd _ _ _ _
@[simp] theorem countFlits_lsr (s : State) (k ch n : Nat) : (countFlits s k ch n).lsr = s.lsr := noteWaits_lsr _ _ _ _
@[simp] theorem countFlits_tap (s : State) (k ch n : Nat) : (countFlits s k ch n).tap = s.tap := noteWaits_tap _ _ _ _
@[simp] theorem countFlits_answers (s : State) (k ch n : Nat) : (countFlits s k ch n).answers = s.answers := noteWaits_answers _ _ _ _
@[simp] theorem countFlits_pending (s : State) (k ch n : Nat) : (countFlits s k ch n).pending = s.pending := noteWaits_pending _ _ _ _

/-- A field that no step of a fold changes. -/
theorem foldl_field {α β : Type} (f : State → α → State) (g : State → β) (h : ∀ s x, g (f s x) = g s) (l : List α) (s : State) :
    g (l.foldl f s) = g s := by
  induction l generalizing s with
  | nil => rfl
  | cons x l ih => exact (ih _).trans (h s x)

@[simp] theorem crossFlits_cyc (s : State) (k j ch n : Nat) : (crossFlits s k j ch n).cyc = s.cyc :=
  (foldl_field (fun s x => noteWaits s k x ch) State.cyc (fun s x => noteWaits_cyc s k x ch) _ _).trans (countFlits_cyc s k ch n)
@[simp] theorem crossFlits_slot0 (s : State) (k j ch n : Nat) : (crossFlits s k j ch n).slot0 = s.slot0 :=
  (foldl_field (fun s x => noteWaits s k x ch) State.slot0 (fun s x => noteWaits_slot0 s k x ch) _ _).trans (countFlits_slot0 s k ch n)
@[simp] theorem crossFlits_tick (s : State) (k j ch n : Nat) : (crossFlits s k j ch n).tick = s.tick :=
  (foldl_field (fun s x => noteWaits s k x ch) State.tick (fun s x => noteWaits_tick s k x ch) _ _).trans (countFlits_tick s k ch n)
@[simp] theorem crossFlits_tfrac (s : State) (k j ch n : Nat) : (crossFlits s k j ch n).tfrac = s.tfrac :=
  (foldl_field (fun s x => noteWaits s k x ch) State.tfrac (fun s x => noteWaits_tfrac s k x ch) _ _).trans (countFlits_tfrac s k ch n)
@[simp] theorem crossFlits_tiles (s : State) (k j ch n : Nat) : (crossFlits s k j ch n).tiles = s.tiles :=
  (foldl_field (fun s x => noteWaits s k x ch) State.tiles (fun s x => noteWaits_tiles s k x ch) _ _).trans (countFlits_tiles s k ch n)
@[simp] theorem crossFlits_dram (s : State) (k j ch n : Nat) : (crossFlits s k j ch n).dram = s.dram :=
  (foldl_field (fun s x => noteWaits s k x ch) State.dram (fun s x => noteWaits_dram s k x ch) _ _).trans (countFlits_dram s k ch n)
@[simp] theorem crossFlits_net (s : State) (k j ch n : Nat) : (crossFlits s k j ch n).net = s.net :=
  (foldl_field (fun s x => noteWaits s k x ch) State.net (fun s x => noteWaits_net s k x ch) _ _).trans (countFlits_net s k ch n)
@[simp] theorem crossFlits_reports (s : State) (k j ch n : Nat) : (crossFlits s k j ch n).reports = s.reports :=
  (foldl_field (fun s x => noteWaits s k x ch) State.reports (fun s x => noteWaits_reports s k x ch) _ _).trans (countFlits_reports s k ch n)
@[simp] theorem crossFlits_free (s : State) (k j ch n : Nat) : (crossFlits s k j ch n).free = s.free :=
  (foldl_field (fun s x => noteWaits s k x ch) State.free (fun s x => noteWaits_free s k x ch) _ _).trans (countFlits_free s k ch n)
@[simp] theorem crossFlits_stk (s : State) (k j ch n : Nat) : (crossFlits s k j ch n).stk = s.stk :=
  (foldl_field (fun s x => noteWaits s k x ch) State.stk (fun s x => noteWaits_stk s k x ch) _ _).trans (countFlits_stk s k ch n)
@[simp] theorem crossFlits_vil (s : State) (k j ch n : Nat) : (crossFlits s k j ch n).vil = s.vil :=
  (foldl_field (fun s x => noteWaits s k x ch) State.vil (fun s x => noteWaits_vil s k x ch) _ _).trans (countFlits_vil s k ch n)
@[simp] theorem crossFlits_fleet (s : State) (k j ch n : Nat) : (crossFlits s k j ch n).fleet = s.fleet :=
  (foldl_field (fun s x => noteWaits s k x ch) State.fleet (fun s x => noteWaits_fleet s k x ch) _ _).trans (countFlits_fleet s k ch n)
@[simp] theorem crossFlits_chr (s : State) (k j ch n : Nat) : (crossFlits s k j ch n).chr = s.chr :=
  (foldl_field (fun s x => noteWaits s k x ch) State.chr (fun s x => noteWaits_chr s k x ch) _ _).trans (countFlits_chr s k ch n)
@[simp] theorem crossFlits_serve (s : State) (k j ch n : Nat) : (crossFlits s k j ch n).serve = s.serve :=
  (foldl_field (fun s x => noteWaits s k x ch) State.serve (fun s x => noteWaits_serve s k x ch) _ _).trans (countFlits_serve s k ch n)
@[simp] theorem crossFlits_img (s : State) (k j ch n : Nat) : (crossFlits s k j ch n).img = s.img :=
  (foldl_field (fun s x => noteWaits s k x ch) State.img (fun s x => noteWaits_img s k x ch) _ _).trans (countFlits_img s k ch n)
@[simp] theorem crossFlits_log (s : State) (k j ch n : Nat) : (crossFlits s k j ch n).log = s.log :=
  (foldl_field (fun s x => noteWaits s k x ch) State.log (fun s x => noteWaits_log s k x ch) _ _).trans (countFlits_log s k ch n)
@[simp] theorem crossFlits_pwr (s : State) (k j ch n : Nat) : (crossFlits s k j ch n).pwr = s.pwr :=
  (foldl_field (fun s x => noteWaits s k x ch) State.pwr (fun s x => noteWaits_pwr s k x ch) _ _).trans (countFlits_pwr s k ch n)
@[simp] theorem crossFlits_rst (s : State) (k j ch n : Nat) : (crossFlits s k j ch n).rst = s.rst :=
  (foldl_field (fun s x => noteWaits s k x ch) State.rst (fun s x => noteWaits_rst s k x ch) _ _).trans (countFlits_rst s k ch n)
@[simp] theorem crossFlits_bnc (s : State) (k j ch n : Nat) : (crossFlits s k j ch n).bnc = s.bnc :=
  (foldl_field (fun s x => noteWaits s k x ch) State.bnc (fun s x => noteWaits_bnc s k x ch) _ _).trans (countFlits_bnc s k ch n)
@[simp] theorem crossFlits_snd (s : State) (k j ch n : Nat) : (crossFlits s k j ch n).snd = s.snd :=
  (foldl_field (fun s x => noteWaits s k x ch) State.snd (fun s x => noteWaits_snd s k x ch) _ _).trans (countFlits_snd s k ch n)
@[simp] theorem crossFlits_lsr (s : State) (k j ch n : Nat) : (crossFlits s k j ch n).lsr = s.lsr :=
  (foldl_field (fun s x => noteWaits s k x ch) State.lsr (fun s x => noteWaits_lsr s k x ch) _ _).trans (countFlits_lsr s k ch n)
@[simp] theorem crossFlits_tap (s : State) (k j ch n : Nat) : (crossFlits s k j ch n).tap = s.tap :=
  (foldl_field (fun s x => noteWaits s k x ch) State.tap (fun s x => noteWaits_tap s k x ch) _ _).trans (countFlits_tap s k ch n)
@[simp] theorem crossFlits_answers (s : State) (k j ch n : Nat) : (crossFlits s k j ch n).answers = s.answers :=
  (foldl_field (fun s x => noteWaits s k x ch) State.answers (fun s x => noteWaits_answers s k x ch) _ _).trans (countFlits_answers s k ch n)
@[simp] theorem crossFlits_pending (s : State) (k j ch n : Nat) : (crossFlits s k j ch n).pending = s.pending :=
  (foldl_field (fun s x => noteWaits s k x ch) State.pending (fun s x => noteWaits_pending s k x ch) _ _).trans (countFlits_pending s k ch n)

@[simp] theorem sendPacket_cyc (s : State) (k : Nat) (p : Packet) : (sendPacket s k p).cyc = s.cyc := crossFlits_cyc _ _ _ _ _
@[simp] theorem sendPacket_slot0 (s : State) (k : Nat) (p : Packet) : (sendPacket s k p).slot0 = s.slot0 := crossFlits_slot0 _ _ _ _ _
@[simp] theorem sendPacket_tick (s : State) (k : Nat) (p : Packet) : (sendPacket s k p).tick = s.tick := crossFlits_tick _ _ _ _ _
@[simp] theorem sendPacket_tfrac (s : State) (k : Nat) (p : Packet) : (sendPacket s k p).tfrac = s.tfrac := crossFlits_tfrac _ _ _ _ _
@[simp] theorem sendPacket_tiles (s : State) (k : Nat) (p : Packet) : (sendPacket s k p).tiles = s.tiles := crossFlits_tiles _ _ _ _ _
@[simp] theorem sendPacket_dram (s : State) (k : Nat) (p : Packet) : (sendPacket s k p).dram = s.dram := crossFlits_dram _ _ _ _ _
@[simp] theorem sendPacket_reports (s : State) (k : Nat) (p : Packet) : (sendPacket s k p).reports = s.reports := crossFlits_reports _ _ _ _ _
@[simp] theorem sendPacket_free (s : State) (k : Nat) (p : Packet) : (sendPacket s k p).free = s.free := crossFlits_free _ _ _ _ _
@[simp] theorem sendPacket_stk (s : State) (k : Nat) (p : Packet) : (sendPacket s k p).stk = s.stk := crossFlits_stk _ _ _ _ _
@[simp] theorem sendPacket_vil (s : State) (k : Nat) (p : Packet) : (sendPacket s k p).vil = s.vil := crossFlits_vil _ _ _ _ _
@[simp] theorem sendPacket_fleet (s : State) (k : Nat) (p : Packet) : (sendPacket s k p).fleet = s.fleet := crossFlits_fleet _ _ _ _ _
@[simp] theorem sendPacket_chr (s : State) (k : Nat) (p : Packet) : (sendPacket s k p).chr = s.chr := crossFlits_chr _ _ _ _ _
@[simp] theorem sendPacket_serve (s : State) (k : Nat) (p : Packet) : (sendPacket s k p).serve = s.serve := crossFlits_serve _ _ _ _ _
@[simp] theorem sendPacket_img (s : State) (k : Nat) (p : Packet) : (sendPacket s k p).img = s.img := crossFlits_img _ _ _ _ _
@[simp] theorem sendPacket_log (s : State) (k : Nat) (p : Packet) : (sendPacket s k p).log = s.log := crossFlits_log _ _ _ _ _
@[simp] theorem sendPacket_pwr (s : State) (k : Nat) (p : Packet) : (sendPacket s k p).pwr = s.pwr := crossFlits_pwr _ _ _ _ _
@[simp] theorem sendPacket_rst (s : State) (k : Nat) (p : Packet) : (sendPacket s k p).rst = s.rst := crossFlits_rst _ _ _ _ _
@[simp] theorem sendPacket_bnc (s : State) (k : Nat) (p : Packet) : (sendPacket s k p).bnc = s.bnc := crossFlits_bnc _ _ _ _ _
@[simp] theorem sendPacket_snd (s : State) (k : Nat) (p : Packet) : (sendPacket s k p).snd = s.snd := crossFlits_snd _ _ _ _ _
@[simp] theorem sendPacket_lsr (s : State) (k : Nat) (p : Packet) : (sendPacket s k p).lsr = s.lsr := crossFlits_lsr _ _ _ _ _
@[simp] theorem sendPacket_tap (s : State) (k : Nat) (p : Packet) : (sendPacket s k p).tap = s.tap := crossFlits_tap _ _ _ _ _
@[simp] theorem sendPacket_answers (s : State) (k : Nat) (p : Packet) : (sendPacket s k p).answers = s.answers := crossFlits_answers _ _ _ _ _
@[simp] theorem sendPacket_pending (s : State) (k : Nat) (p : Packet) : (sendPacket s k p).pending = s.pending := crossFlits_pending _ _ _ _ _
@[simp] theorem sendPacket_net (s : State) (k : Nat) (p : Packet) : (sendPacket s k p).net = s.net ++ [p] := crossFlits_net _ _ _ _ _

@[simp] theorem elapse_slot0 (s : State) (n : Nat) : (elapse s n).slot0 = s.slot0 := by unfold elapse; split <;> rfl
@[simp] theorem elapse_regs (s : State) (n : Nat) : (elapse s n).regs = s.regs := by unfold elapse; split <;> rfl
@[simp] theorem elapse_tiles (s : State) (n : Nat) : (elapse s n).tiles = s.tiles := by unfold elapse; split <;> rfl
@[simp] theorem elapse_dram (s : State) (n : Nat) : (elapse s n).dram = s.dram := by unfold elapse; split <;> rfl
@[simp] theorem elapse_net (s : State) (n : Nat) : (elapse s n).net = s.net := by unfold elapse; split <;> rfl
@[simp] theorem elapse_reports (s : State) (n : Nat) : (elapse s n).reports = s.reports := by unfold elapse; split <;> rfl
@[simp] theorem elapse_free (s : State) (n : Nat) : (elapse s n).free = s.free := by unfold elapse; split <;> rfl
@[simp] theorem elapse_stk (s : State) (n : Nat) : (elapse s n).stk = s.stk := by unfold elapse; split <;> rfl
@[simp] theorem elapse_vil (s : State) (n : Nat) : (elapse s n).vil = s.vil := by unfold elapse; split <;> rfl
@[simp] theorem elapse_fleet (s : State) (n : Nat) : (elapse s n).fleet = s.fleet := by unfold elapse; split <;> rfl
@[simp] theorem elapse_chr (s : State) (n : Nat) : (elapse s n).chr = s.chr := by unfold elapse; split <;> rfl
@[simp] theorem elapse_serve (s : State) (n : Nat) : (elapse s n).serve = s.serve := by unfold elapse; split <;> rfl
@[simp] theorem elapse_img (s : State) (n : Nat) : (elapse s n).img = s.img := by unfold elapse; split <;> rfl
@[simp] theorem elapse_log (s : State) (n : Nat) : (elapse s n).log = s.log := by unfold elapse; split <;> rfl
@[simp] theorem elapse_pwr (s : State) (n : Nat) : (elapse s n).pwr = s.pwr := by unfold elapse; split <;> rfl
@[simp] theorem elapse_rst (s : State) (n : Nat) : (elapse s n).rst = s.rst := by unfold elapse; split <;> rfl
@[simp] theorem elapse_bnc (s : State) (n : Nat) : (elapse s n).bnc = s.bnc := by unfold elapse; split <;> rfl
@[simp] theorem elapse_snd (s : State) (n : Nat) : (elapse s n).snd = s.snd := by unfold elapse; split <;> rfl
@[simp] theorem elapse_lsr (s : State) (n : Nat) : (elapse s n).lsr = s.lsr := by unfold elapse; split <;> rfl
@[simp] theorem elapse_tap (s : State) (n : Nat) : (elapse s n).tap = s.tap := by unfold elapse; split <;> rfl
@[simp] theorem elapse_answers (s : State) (n : Nat) : (elapse s n).answers = s.answers := by unfold elapse; split <;> rfl
@[simp] theorem elapse_pending (s : State) (n : Nat) : (elapse s n).pending = s.pending := by unfold elapse; split <;> rfl

@[simp] theorem elapseTo_slot0 (s : State) (c : Nat) : (elapseTo s c).slot0 = s.slot0 := elapse_slot0 s _
@[simp] theorem elapseTo_regs (s : State) (c : Nat) : (elapseTo s c).regs = s.regs := elapse_regs s _
@[simp] theorem elapseTo_tiles (s : State) (c : Nat) : (elapseTo s c).tiles = s.tiles := elapse_tiles s _
@[simp] theorem elapseTo_dram (s : State) (c : Nat) : (elapseTo s c).dram = s.dram := elapse_dram s _
@[simp] theorem elapseTo_net (s : State) (c : Nat) : (elapseTo s c).net = s.net := elapse_net s _
@[simp] theorem elapseTo_reports (s : State) (c : Nat) : (elapseTo s c).reports = s.reports := elapse_reports s _
@[simp] theorem elapseTo_free (s : State) (c : Nat) : (elapseTo s c).free = s.free := elapse_free s _
@[simp] theorem elapseTo_stk (s : State) (c : Nat) : (elapseTo s c).stk = s.stk := elapse_stk s _
@[simp] theorem elapseTo_vil (s : State) (c : Nat) : (elapseTo s c).vil = s.vil := elapse_vil s _
@[simp] theorem elapseTo_fleet (s : State) (c : Nat) : (elapseTo s c).fleet = s.fleet := elapse_fleet s _
@[simp] theorem elapseTo_chr (s : State) (c : Nat) : (elapseTo s c).chr = s.chr := elapse_chr s _
@[simp] theorem elapseTo_serve (s : State) (c : Nat) : (elapseTo s c).serve = s.serve := elapse_serve s _
@[simp] theorem elapseTo_img (s : State) (c : Nat) : (elapseTo s c).img = s.img := elapse_img s _
@[simp] theorem elapseTo_log (s : State) (c : Nat) : (elapseTo s c).log = s.log := elapse_log s _
@[simp] theorem elapseTo_pwr (s : State) (c : Nat) : (elapseTo s c).pwr = s.pwr := elapse_pwr s _
@[simp] theorem elapseTo_rst (s : State) (c : Nat) : (elapseTo s c).rst = s.rst := elapse_rst s _
@[simp] theorem elapseTo_bnc (s : State) (c : Nat) : (elapseTo s c).bnc = s.bnc := elapse_bnc s _
@[simp] theorem elapseTo_snd (s : State) (c : Nat) : (elapseTo s c).snd = s.snd := elapse_snd s _
@[simp] theorem elapseTo_lsr (s : State) (c : Nat) : (elapseTo s c).lsr = s.lsr := elapse_lsr s _
@[simp] theorem elapseTo_tap (s : State) (c : Nat) : (elapseTo s c).tap = s.tap := elapse_tap s _
@[simp] theorem elapseTo_answers (s : State) (c : Nat) : (elapseTo s c).answers = s.answers := elapse_answers s _
@[simp] theorem elapseTo_pending (s : State) (c : Nat) : (elapseTo s c).pending = s.pending := elapse_pending s _

@[simp] theorem elapseToTick_slot0 (s : State) (b : Nat) : (elapseToTick s b).slot0 = s.slot0 := by
  unfold elapseToTick; split <;> rfl
@[simp] theorem elapseToTick_regs (s : State) (b : Nat) : (elapseToTick s b).regs = s.regs := by
  unfold elapseToTick; split <;> rfl
@[simp] theorem elapseToTick_tiles (s : State) (b : Nat) : (elapseToTick s b).tiles = s.tiles := by
  unfold elapseToTick; split <;> rfl
@[simp] theorem elapseToTick_dram (s : State) (b : Nat) : (elapseToTick s b).dram = s.dram := by
  unfold elapseToTick; split <;> rfl
@[simp] theorem elapseToTick_net (s : State) (b : Nat) : (elapseToTick s b).net = s.net := by
  unfold elapseToTick; split <;> rfl
@[simp] theorem elapseToTick_reports (s : State) (b : Nat) : (elapseToTick s b).reports = s.reports := by
  unfold elapseToTick; split <;> rfl
@[simp] theorem elapseToTick_free (s : State) (b : Nat) : (elapseToTick s b).free = s.free := by
  unfold elapseToTick; split <;> rfl
@[simp] theorem elapseToTick_stk (s : State) (b : Nat) : (elapseToTick s b).stk = s.stk := by
  unfold elapseToTick; split <;> rfl
@[simp] theorem elapseToTick_vil (s : State) (b : Nat) : (elapseToTick s b).vil = s.vil := by
  unfold elapseToTick; split <;> rfl
@[simp] theorem elapseToTick_fleet (s : State) (b : Nat) : (elapseToTick s b).fleet = s.fleet := by
  unfold elapseToTick; split <;> rfl
@[simp] theorem elapseToTick_chr (s : State) (b : Nat) : (elapseToTick s b).chr = s.chr := by
  unfold elapseToTick; split <;> rfl
@[simp] theorem elapseToTick_serve (s : State) (b : Nat) : (elapseToTick s b).serve = s.serve := by
  unfold elapseToTick; split <;> rfl
@[simp] theorem elapseToTick_img (s : State) (b : Nat) : (elapseToTick s b).img = s.img := by
  unfold elapseToTick; split <;> rfl
@[simp] theorem elapseToTick_log (s : State) (b : Nat) : (elapseToTick s b).log = s.log := by
  unfold elapseToTick; split <;> rfl
@[simp] theorem elapseToTick_pwr (s : State) (b : Nat) : (elapseToTick s b).pwr = s.pwr := by
  unfold elapseToTick; split <;> rfl
@[simp] theorem elapseToTick_rst (s : State) (b : Nat) : (elapseToTick s b).rst = s.rst := by
  unfold elapseToTick; split <;> rfl
@[simp] theorem elapseToTick_bnc (s : State) (b : Nat) : (elapseToTick s b).bnc = s.bnc := by
  unfold elapseToTick; split <;> rfl
@[simp] theorem elapseToTick_snd (s : State) (b : Nat) : (elapseToTick s b).snd = s.snd := by
  unfold elapseToTick; split <;> rfl
@[simp] theorem elapseToTick_lsr (s : State) (b : Nat) : (elapseToTick s b).lsr = s.lsr := by
  unfold elapseToTick; split <;> rfl
@[simp] theorem elapseToTick_tap (s : State) (b : Nat) : (elapseToTick s b).tap = s.tap := by
  unfold elapseToTick; split <;> rfl
@[simp] theorem elapseToTick_answers (s : State) (b : Nat) : (elapseToTick s b).answers = s.answers := by
  unfold elapseToTick; split <;> rfl
@[simp] theorem elapseToTick_pending (s : State) (b : Nat) : (elapseToTick s b).pending = s.pending := by
  unfold elapseToTick; split <;> rfl

/-! ### A tile -/

@[simp] theorem setTileReg_store (t : Tile) (off : Nat) (w : Word) : (setTileReg t off w).store = t.store := rfl
@[simp] theorem setTileReg_engs (t : Tile) (off : Nat) (w : Word) : (setTileReg t off w).engs = t.engs := rfl
@[simp] theorem setTileReg_queues (t : Tile) (off : Nat) (w : Word) : (setTileReg t off w).queues = t.queues := rfl
@[simp] theorem setTileReg_port (t : Tile) (off : Nat) (w : Word) : (setTileReg t off w).port = t.port := rfl
@[simp] theorem setTileReg_stbd (t : Tile) (off : Nat) (w : Word) : (setTileReg t off w).stbd = t.stbd := rfl
@[simp] theorem setTileReg_bounded (t : Tile) (off : Nat) (w : Word) : (setTileReg t off w).bounded = t.bounded := rfl
@[simp] theorem setTileReg_retryQ (t : Tile) (off : Nat) (w : Word) : (setTileReg t off w).retryQ = t.retryQ := rfl
@[simp] theorem setTileReg_recompQ (t : Tile) (off : Nat) (w : Word) : (setTileReg t off w).recompQ = t.recompQ := rfl
@[simp] theorem setTileReg_sets (t : Tile) (off : Nat) (w : Word) : (setTileReg t off w).sets = t.sets := rfl
@[simp] theorem setTileReg_acc (t : Tile) (off : Nat) (w : Word) : (setTileReg t off w).acc = t.acc := rfl
@[simp] theorem setTileReg_outReg (t : Tile) (off : Nat) (w : Word) : (setTileReg t off w).outReg = t.outReg := rfl
@[simp] theorem setTileReg_rho (t : Tile) (off : Nat) (w : Word) : (setTileReg t off w).rho = t.rho := rfl
@[simp] theorem setTileReg_arrFree (t : Tile) (off : Nat) (w : Word) : (setTileReg t off w).arrFree = t.arrFree := rfl
@[simp] theorem setTileReg_laneFree (t : Tile) (off : Nat) (w : Word) : (setTileReg t off w).laneFree = t.laneFree := rfl
@[simp] theorem setTileReg_pipeFree (t : Tile) (off : Nat) (w : Word) : (setTileReg t off w).pipeFree = t.pipeFree := rfl
@[simp] theorem setTileReg_pltFree (t : Tile) (off : Nat) (w : Word) : (setTileReg t off w).pltFree = t.pltFree := rfl
@[simp] theorem setTileReg_due (t : Tile) (off : Nat) (w : Word) : (setTileReg t off w).due = t.due := rfl
@[simp] theorem setTileReg_fetches (t : Tile) (off : Nat) (w : Word) : (setTileReg t off w).fetches = t.fetches := rfl
@[simp] theorem setTileReg_sigs (t : Tile) (off : Nat) (w : Word) : (setTileReg t off w).sigs = t.sigs := rfl
@[simp] theorem setTileReg_turns (t : Tile) (off : Nat) (w : Word) : (setTileReg t off w).turns = t.turns := rfl
@[simp] theorem setTileReg_groups (t : Tile) (off : Nat) (w : Word) : (setTileReg t off w).groups = t.groups := rfl
@[simp] theorem setTileReg_stopped (t : Tile) (off : Nat) (w : Word) : (setTileReg t off w).stopped = t.stopped := rfl
@[simp] theorem setTileReg_clkOn (t : Tile) (off : Nat) (w : Word) : (setTileReg t off w).clkOn = t.clkOn := rfl
@[simp] theorem setTileReg_wakePend (t : Tile) (off : Nat) (w : Word) : (setTileReg t off w).wakePend = t.wakePend := rfl
@[simp] theorem setTileReg_inReset (t : Tile) (off : Nat) (w : Word) : (setTileReg t off w).inReset = t.inReset := rfl
@[simp] theorem setTileReg_wrapped (t : Tile) (off : Nat) (w : Word) : (setTileReg t off w).wrapped = t.wrapped := rfl
@[simp] theorem setTileReg_demotePend (t : Tile) (off : Nat) (w : Word) : (setTileReg t off w).demotePend = t.demotePend := rfl
@[simp] theorem setTileReg_demoted (t : Tile) (off : Nat) (w : Word) : (setTileReg t off w).demoted = t.demoted := rfl
@[simp] theorem setTileReg_trims (t : Tile) (off : Nat) (w : Word) : (setTileReg t off w).trims = t.trims := rfl
@[simp] theorem setTileReg_tally (t : Tile) (off : Nat) (w : Word) : (setTileReg t off w).tally = t.tally := rfl
@[simp] theorem setTileReg_events (t : Tile) (off : Nat) (w : Word) : (setTileReg t off w).events = t.events := rfl
@[simp] theorem setTileReg_wnan (t : Tile) (off : Nat) (w : Word) : (setTileReg t off w).wnan = t.wnan := rfl
@[simp] theorem setTileReg_watches (t : Tile) (off : Nat) (w : Word) : (setTileReg t off w).watches = t.watches := rfl
@[simp] theorem setTileReg_stale (t : Tile) (off : Nat) (w : Word) : (setTileReg t off w).stale = t.stale := rfl
@[simp] theorem setTileReg_lastBusy (t : Tile) (off : Nat) (w : Word) : (setTileReg t off w).lastBusy = t.lastBusy := rfl
@[simp] theorem setTileReg_gate0 (t : Tile) (off : Nat) (w : Word) : (setTileReg t off w).gate0 = t.gate0 := rfl
@[simp] theorem setTileReg_cal (t : Tile) (off : Nat) (w : Word) : (setTileReg t off w).cal = t.cal := rfl
@[simp] theorem setTileReg_crcAt (t : Tile) (off : Nat) (w : Word) : (setTileReg t off w).crcAt = t.crcAt := rfl
@[simp] theorem setTileReg_free (t : Tile) (off : Nat) (w : Word) : (setTileReg t off w).free = t.free := rfl

@[simp] theorem tput_store (t : Tile) (f : Fld) (v i : Nat) : (tput t f v i).store = t.store := rfl
@[simp] theorem tput_engs (t : Tile) (f : Fld) (v i : Nat) : (tput t f v i).engs = t.engs := rfl
@[simp] theorem tput_queues (t : Tile) (f : Fld) (v i : Nat) : (tput t f v i).queues = t.queues := rfl
@[simp] theorem tput_port (t : Tile) (f : Fld) (v i : Nat) : (tput t f v i).port = t.port := rfl
@[simp] theorem tput_stbd (t : Tile) (f : Fld) (v i : Nat) : (tput t f v i).stbd = t.stbd := rfl
@[simp] theorem tput_bounded (t : Tile) (f : Fld) (v i : Nat) : (tput t f v i).bounded = t.bounded := rfl
@[simp] theorem tput_retryQ (t : Tile) (f : Fld) (v i : Nat) : (tput t f v i).retryQ = t.retryQ := rfl
@[simp] theorem tput_recompQ (t : Tile) (f : Fld) (v i : Nat) : (tput t f v i).recompQ = t.recompQ := rfl
@[simp] theorem tput_sets (t : Tile) (f : Fld) (v i : Nat) : (tput t f v i).sets = t.sets := rfl
@[simp] theorem tput_acc (t : Tile) (f : Fld) (v i : Nat) : (tput t f v i).acc = t.acc := rfl
@[simp] theorem tput_outReg (t : Tile) (f : Fld) (v i : Nat) : (tput t f v i).outReg = t.outReg := rfl
@[simp] theorem tput_rho (t : Tile) (f : Fld) (v i : Nat) : (tput t f v i).rho = t.rho := rfl
@[simp] theorem tput_arrFree (t : Tile) (f : Fld) (v i : Nat) : (tput t f v i).arrFree = t.arrFree := rfl
@[simp] theorem tput_laneFree (t : Tile) (f : Fld) (v i : Nat) : (tput t f v i).laneFree = t.laneFree := rfl
@[simp] theorem tput_pipeFree (t : Tile) (f : Fld) (v i : Nat) : (tput t f v i).pipeFree = t.pipeFree := rfl
@[simp] theorem tput_pltFree (t : Tile) (f : Fld) (v i : Nat) : (tput t f v i).pltFree = t.pltFree := rfl
@[simp] theorem tput_due (t : Tile) (f : Fld) (v i : Nat) : (tput t f v i).due = t.due := rfl
@[simp] theorem tput_fetches (t : Tile) (f : Fld) (v i : Nat) : (tput t f v i).fetches = t.fetches := rfl
@[simp] theorem tput_sigs (t : Tile) (f : Fld) (v i : Nat) : (tput t f v i).sigs = t.sigs := rfl
@[simp] theorem tput_turns (t : Tile) (f : Fld) (v i : Nat) : (tput t f v i).turns = t.turns := rfl
@[simp] theorem tput_groups (t : Tile) (f : Fld) (v i : Nat) : (tput t f v i).groups = t.groups := rfl
@[simp] theorem tput_stopped (t : Tile) (f : Fld) (v i : Nat) : (tput t f v i).stopped = t.stopped := rfl
@[simp] theorem tput_clkOn (t : Tile) (f : Fld) (v i : Nat) : (tput t f v i).clkOn = t.clkOn := rfl
@[simp] theorem tput_wakePend (t : Tile) (f : Fld) (v i : Nat) : (tput t f v i).wakePend = t.wakePend := rfl
@[simp] theorem tput_inReset (t : Tile) (f : Fld) (v i : Nat) : (tput t f v i).inReset = t.inReset := rfl
@[simp] theorem tput_wrapped (t : Tile) (f : Fld) (v i : Nat) : (tput t f v i).wrapped = t.wrapped := rfl
@[simp] theorem tput_demotePend (t : Tile) (f : Fld) (v i : Nat) : (tput t f v i).demotePend = t.demotePend := rfl
@[simp] theorem tput_demoted (t : Tile) (f : Fld) (v i : Nat) : (tput t f v i).demoted = t.demoted := rfl
@[simp] theorem tput_trims (t : Tile) (f : Fld) (v i : Nat) : (tput t f v i).trims = t.trims := rfl
@[simp] theorem tput_tally (t : Tile) (f : Fld) (v i : Nat) : (tput t f v i).tally = t.tally := rfl
@[simp] theorem tput_events (t : Tile) (f : Fld) (v i : Nat) : (tput t f v i).events = t.events := rfl
@[simp] theorem tput_wnan (t : Tile) (f : Fld) (v i : Nat) : (tput t f v i).wnan = t.wnan := rfl
@[simp] theorem tput_watches (t : Tile) (f : Fld) (v i : Nat) : (tput t f v i).watches = t.watches := rfl
@[simp] theorem tput_stale (t : Tile) (f : Fld) (v i : Nat) : (tput t f v i).stale = t.stale := rfl
@[simp] theorem tput_lastBusy (t : Tile) (f : Fld) (v i : Nat) : (tput t f v i).lastBusy = t.lastBusy := rfl
@[simp] theorem tput_gate0 (t : Tile) (f : Fld) (v i : Nat) : (tput t f v i).gate0 = t.gate0 := rfl
@[simp] theorem tput_cal (t : Tile) (f : Fld) (v i : Nat) : (tput t f v i).cal = t.cal := rfl
@[simp] theorem tput_crcAt (t : Tile) (f : Fld) (v i : Nat) : (tput t f v i).crcAt = t.crcAt := rfl
@[simp] theorem tput_free (t : Tile) (f : Fld) (v i : Nat) : (tput t f v i).free = t.free := rfl

@[simp] theorem tbump_store (t : Tile) (f : Fld) (n : Nat) : (tbump t f n).store = t.store := rfl
@[simp] theorem tbump_engs (t : Tile) (f : Fld) (n : Nat) : (tbump t f n).engs = t.engs := rfl
@[simp] theorem tbump_queues (t : Tile) (f : Fld) (n : Nat) : (tbump t f n).queues = t.queues := rfl
@[simp] theorem tbump_port (t : Tile) (f : Fld) (n : Nat) : (tbump t f n).port = t.port := rfl
@[simp] theorem tbump_stbd (t : Tile) (f : Fld) (n : Nat) : (tbump t f n).stbd = t.stbd := rfl
@[simp] theorem tbump_bounded (t : Tile) (f : Fld) (n : Nat) : (tbump t f n).bounded = t.bounded := rfl
@[simp] theorem tbump_retryQ (t : Tile) (f : Fld) (n : Nat) : (tbump t f n).retryQ = t.retryQ := rfl
@[simp] theorem tbump_recompQ (t : Tile) (f : Fld) (n : Nat) : (tbump t f n).recompQ = t.recompQ := rfl
@[simp] theorem tbump_sets (t : Tile) (f : Fld) (n : Nat) : (tbump t f n).sets = t.sets := rfl
@[simp] theorem tbump_acc (t : Tile) (f : Fld) (n : Nat) : (tbump t f n).acc = t.acc := rfl
@[simp] theorem tbump_outReg (t : Tile) (f : Fld) (n : Nat) : (tbump t f n).outReg = t.outReg := rfl
@[simp] theorem tbump_rho (t : Tile) (f : Fld) (n : Nat) : (tbump t f n).rho = t.rho := rfl
@[simp] theorem tbump_arrFree (t : Tile) (f : Fld) (n : Nat) : (tbump t f n).arrFree = t.arrFree := rfl
@[simp] theorem tbump_laneFree (t : Tile) (f : Fld) (n : Nat) : (tbump t f n).laneFree = t.laneFree := rfl
@[simp] theorem tbump_pipeFree (t : Tile) (f : Fld) (n : Nat) : (tbump t f n).pipeFree = t.pipeFree := rfl
@[simp] theorem tbump_pltFree (t : Tile) (f : Fld) (n : Nat) : (tbump t f n).pltFree = t.pltFree := rfl
@[simp] theorem tbump_due (t : Tile) (f : Fld) (n : Nat) : (tbump t f n).due = t.due := rfl
@[simp] theorem tbump_fetches (t : Tile) (f : Fld) (n : Nat) : (tbump t f n).fetches = t.fetches := rfl
@[simp] theorem tbump_sigs (t : Tile) (f : Fld) (n : Nat) : (tbump t f n).sigs = t.sigs := rfl
@[simp] theorem tbump_turns (t : Tile) (f : Fld) (n : Nat) : (tbump t f n).turns = t.turns := rfl
@[simp] theorem tbump_groups (t : Tile) (f : Fld) (n : Nat) : (tbump t f n).groups = t.groups := rfl
@[simp] theorem tbump_stopped (t : Tile) (f : Fld) (n : Nat) : (tbump t f n).stopped = t.stopped := rfl
@[simp] theorem tbump_clkOn (t : Tile) (f : Fld) (n : Nat) : (tbump t f n).clkOn = t.clkOn := rfl
@[simp] theorem tbump_wakePend (t : Tile) (f : Fld) (n : Nat) : (tbump t f n).wakePend = t.wakePend := rfl
@[simp] theorem tbump_inReset (t : Tile) (f : Fld) (n : Nat) : (tbump t f n).inReset = t.inReset := rfl
@[simp] theorem tbump_wrapped (t : Tile) (f : Fld) (n : Nat) : (tbump t f n).wrapped = t.wrapped := rfl
@[simp] theorem tbump_demotePend (t : Tile) (f : Fld) (n : Nat) : (tbump t f n).demotePend = t.demotePend := rfl
@[simp] theorem tbump_demoted (t : Tile) (f : Fld) (n : Nat) : (tbump t f n).demoted = t.demoted := rfl
@[simp] theorem tbump_trims (t : Tile) (f : Fld) (n : Nat) : (tbump t f n).trims = t.trims := rfl
@[simp] theorem tbump_tally (t : Tile) (f : Fld) (n : Nat) : (tbump t f n).tally = t.tally := rfl
@[simp] theorem tbump_events (t : Tile) (f : Fld) (n : Nat) : (tbump t f n).events = t.events := rfl
@[simp] theorem tbump_wnan (t : Tile) (f : Fld) (n : Nat) : (tbump t f n).wnan = t.wnan := rfl
@[simp] theorem tbump_watches (t : Tile) (f : Fld) (n : Nat) : (tbump t f n).watches = t.watches := rfl
@[simp] theorem tbump_stale (t : Tile) (f : Fld) (n : Nat) : (tbump t f n).stale = t.stale := rfl
@[simp] theorem tbump_lastBusy (t : Tile) (f : Fld) (n : Nat) : (tbump t f n).lastBusy = t.lastBusy := rfl
@[simp] theorem tbump_gate0 (t : Tile) (f : Fld) (n : Nat) : (tbump t f n).gate0 = t.gate0 := rfl
@[simp] theorem tbump_cal (t : Tile) (f : Fld) (n : Nat) : (tbump t f n).cal = t.cal := rfl
@[simp] theorem tbump_crcAt (t : Tile) (f : Fld) (n : Nat) : (tbump t f n).crcAt = t.crcAt := rfl
@[simp] theorem tbump_free (t : Tile) (f : Fld) (n : Nat) : (tbump t f n).free = t.free := rfl

@[simp] theorem setEng_regs (t : Tile) (e : Engine) (g : Eng) : (setEng t e g).regs = t.regs := rfl
@[simp] theorem setEng_store (t : Tile) (e : Engine) (g : Eng) : (setEng t e g).store = t.store := rfl
@[simp] theorem setEng_queues (t : Tile) (e : Engine) (g : Eng) : (setEng t e g).queues = t.queues := rfl
@[simp] theorem setEng_port (t : Tile) (e : Engine) (g : Eng) : (setEng t e g).port = t.port := rfl
@[simp] theorem setEng_stbd (t : Tile) (e : Engine) (g : Eng) : (setEng t e g).stbd = t.stbd := rfl
@[simp] theorem setEng_bounded (t : Tile) (e : Engine) (g : Eng) : (setEng t e g).bounded = t.bounded := rfl
@[simp] theorem setEng_retryQ (t : Tile) (e : Engine) (g : Eng) : (setEng t e g).retryQ = t.retryQ := rfl
@[simp] theorem setEng_recompQ (t : Tile) (e : Engine) (g : Eng) : (setEng t e g).recompQ = t.recompQ := rfl
@[simp] theorem setEng_sets (t : Tile) (e : Engine) (g : Eng) : (setEng t e g).sets = t.sets := rfl
@[simp] theorem setEng_acc (t : Tile) (e : Engine) (g : Eng) : (setEng t e g).acc = t.acc := rfl
@[simp] theorem setEng_outReg (t : Tile) (e : Engine) (g : Eng) : (setEng t e g).outReg = t.outReg := rfl
@[simp] theorem setEng_rho (t : Tile) (e : Engine) (g : Eng) : (setEng t e g).rho = t.rho := rfl
@[simp] theorem setEng_arrFree (t : Tile) (e : Engine) (g : Eng) : (setEng t e g).arrFree = t.arrFree := rfl
@[simp] theorem setEng_laneFree (t : Tile) (e : Engine) (g : Eng) : (setEng t e g).laneFree = t.laneFree := rfl
@[simp] theorem setEng_pipeFree (t : Tile) (e : Engine) (g : Eng) : (setEng t e g).pipeFree = t.pipeFree := rfl
@[simp] theorem setEng_pltFree (t : Tile) (e : Engine) (g : Eng) : (setEng t e g).pltFree = t.pltFree := rfl
@[simp] theorem setEng_due (t : Tile) (e : Engine) (g : Eng) : (setEng t e g).due = t.due := rfl
@[simp] theorem setEng_fetches (t : Tile) (e : Engine) (g : Eng) : (setEng t e g).fetches = t.fetches := rfl
@[simp] theorem setEng_sigs (t : Tile) (e : Engine) (g : Eng) : (setEng t e g).sigs = t.sigs := rfl
@[simp] theorem setEng_turns (t : Tile) (e : Engine) (g : Eng) : (setEng t e g).turns = t.turns := rfl
@[simp] theorem setEng_groups (t : Tile) (e : Engine) (g : Eng) : (setEng t e g).groups = t.groups := rfl
@[simp] theorem setEng_stopped (t : Tile) (e : Engine) (g : Eng) : (setEng t e g).stopped = t.stopped := rfl
@[simp] theorem setEng_clkOn (t : Tile) (e : Engine) (g : Eng) : (setEng t e g).clkOn = t.clkOn := rfl
@[simp] theorem setEng_wakePend (t : Tile) (e : Engine) (g : Eng) : (setEng t e g).wakePend = t.wakePend := rfl
@[simp] theorem setEng_inReset (t : Tile) (e : Engine) (g : Eng) : (setEng t e g).inReset = t.inReset := rfl
@[simp] theorem setEng_wrapped (t : Tile) (e : Engine) (g : Eng) : (setEng t e g).wrapped = t.wrapped := rfl
@[simp] theorem setEng_demotePend (t : Tile) (e : Engine) (g : Eng) : (setEng t e g).demotePend = t.demotePend := rfl
@[simp] theorem setEng_demoted (t : Tile) (e : Engine) (g : Eng) : (setEng t e g).demoted = t.demoted := rfl
@[simp] theorem setEng_trims (t : Tile) (e : Engine) (g : Eng) : (setEng t e g).trims = t.trims := rfl
@[simp] theorem setEng_tally (t : Tile) (e : Engine) (g : Eng) : (setEng t e g).tally = t.tally := rfl
@[simp] theorem setEng_events (t : Tile) (e : Engine) (g : Eng) : (setEng t e g).events = t.events := rfl
@[simp] theorem setEng_wnan (t : Tile) (e : Engine) (g : Eng) : (setEng t e g).wnan = t.wnan := rfl
@[simp] theorem setEng_watches (t : Tile) (e : Engine) (g : Eng) : (setEng t e g).watches = t.watches := rfl
@[simp] theorem setEng_stale (t : Tile) (e : Engine) (g : Eng) : (setEng t e g).stale = t.stale := rfl
@[simp] theorem setEng_lastBusy (t : Tile) (e : Engine) (g : Eng) : (setEng t e g).lastBusy = t.lastBusy := rfl
@[simp] theorem setEng_gate0 (t : Tile) (e : Engine) (g : Eng) : (setEng t e g).gate0 = t.gate0 := rfl
@[simp] theorem setEng_cal (t : Tile) (e : Engine) (g : Eng) : (setEng t e g).cal = t.cal := rfl
@[simp] theorem setEng_crcAt (t : Tile) (e : Engine) (g : Eng) : (setEng t e g).crcAt = t.crcAt := rfl
@[simp] theorem setEng_free (t : Tile) (e : Engine) (g : Eng) : (setEng t e g).free = t.free := rfl

@[simp] theorem setPc_store (t : Tile) (e : Engine) (v : BitVec 9) : (setPc t e v).store = t.store := rfl
@[simp] theorem setPc_engs (t : Tile) (e : Engine) (v : BitVec 9) : (setPc t e v).engs = t.engs := rfl
@[simp] theorem setPc_queues (t : Tile) (e : Engine) (v : BitVec 9) : (setPc t e v).queues = t.queues := rfl
@[simp] theorem setPc_port (t : Tile) (e : Engine) (v : BitVec 9) : (setPc t e v).port = t.port := rfl
@[simp] theorem setPc_stbd (t : Tile) (e : Engine) (v : BitVec 9) : (setPc t e v).stbd = t.stbd := rfl
@[simp] theorem setPc_bounded (t : Tile) (e : Engine) (v : BitVec 9) : (setPc t e v).bounded = t.bounded := rfl
@[simp] theorem setPc_retryQ (t : Tile) (e : Engine) (v : BitVec 9) : (setPc t e v).retryQ = t.retryQ := rfl
@[simp] theorem setPc_recompQ (t : Tile) (e : Engine) (v : BitVec 9) : (setPc t e v).recompQ = t.recompQ := rfl
@[simp] theorem setPc_sets (t : Tile) (e : Engine) (v : BitVec 9) : (setPc t e v).sets = t.sets := rfl
@[simp] theorem setPc_acc (t : Tile) (e : Engine) (v : BitVec 9) : (setPc t e v).acc = t.acc := rfl
@[simp] theorem setPc_outReg (t : Tile) (e : Engine) (v : BitVec 9) : (setPc t e v).outReg = t.outReg := rfl
@[simp] theorem setPc_rho (t : Tile) (e : Engine) (v : BitVec 9) : (setPc t e v).rho = t.rho := rfl
@[simp] theorem setPc_arrFree (t : Tile) (e : Engine) (v : BitVec 9) : (setPc t e v).arrFree = t.arrFree := rfl
@[simp] theorem setPc_laneFree (t : Tile) (e : Engine) (v : BitVec 9) : (setPc t e v).laneFree = t.laneFree := rfl
@[simp] theorem setPc_pipeFree (t : Tile) (e : Engine) (v : BitVec 9) : (setPc t e v).pipeFree = t.pipeFree := rfl
@[simp] theorem setPc_pltFree (t : Tile) (e : Engine) (v : BitVec 9) : (setPc t e v).pltFree = t.pltFree := rfl
@[simp] theorem setPc_due (t : Tile) (e : Engine) (v : BitVec 9) : (setPc t e v).due = t.due := rfl
@[simp] theorem setPc_fetches (t : Tile) (e : Engine) (v : BitVec 9) : (setPc t e v).fetches = t.fetches := rfl
@[simp] theorem setPc_sigs (t : Tile) (e : Engine) (v : BitVec 9) : (setPc t e v).sigs = t.sigs := rfl
@[simp] theorem setPc_turns (t : Tile) (e : Engine) (v : BitVec 9) : (setPc t e v).turns = t.turns := rfl
@[simp] theorem setPc_groups (t : Tile) (e : Engine) (v : BitVec 9) : (setPc t e v).groups = t.groups := rfl
@[simp] theorem setPc_stopped (t : Tile) (e : Engine) (v : BitVec 9) : (setPc t e v).stopped = t.stopped := rfl
@[simp] theorem setPc_clkOn (t : Tile) (e : Engine) (v : BitVec 9) : (setPc t e v).clkOn = t.clkOn := rfl
@[simp] theorem setPc_wakePend (t : Tile) (e : Engine) (v : BitVec 9) : (setPc t e v).wakePend = t.wakePend := rfl
@[simp] theorem setPc_inReset (t : Tile) (e : Engine) (v : BitVec 9) : (setPc t e v).inReset = t.inReset := rfl
@[simp] theorem setPc_wrapped (t : Tile) (e : Engine) (v : BitVec 9) : (setPc t e v).wrapped = t.wrapped := rfl
@[simp] theorem setPc_demotePend (t : Tile) (e : Engine) (v : BitVec 9) : (setPc t e v).demotePend = t.demotePend := rfl
@[simp] theorem setPc_demoted (t : Tile) (e : Engine) (v : BitVec 9) : (setPc t e v).demoted = t.demoted := rfl
@[simp] theorem setPc_trims (t : Tile) (e : Engine) (v : BitVec 9) : (setPc t e v).trims = t.trims := rfl
@[simp] theorem setPc_tally (t : Tile) (e : Engine) (v : BitVec 9) : (setPc t e v).tally = t.tally := rfl
@[simp] theorem setPc_events (t : Tile) (e : Engine) (v : BitVec 9) : (setPc t e v).events = t.events := rfl
@[simp] theorem setPc_wnan (t : Tile) (e : Engine) (v : BitVec 9) : (setPc t e v).wnan = t.wnan := rfl
@[simp] theorem setPc_watches (t : Tile) (e : Engine) (v : BitVec 9) : (setPc t e v).watches = t.watches := rfl
@[simp] theorem setPc_stale (t : Tile) (e : Engine) (v : BitVec 9) : (setPc t e v).stale = t.stale := rfl
@[simp] theorem setPc_lastBusy (t : Tile) (e : Engine) (v : BitVec 9) : (setPc t e v).lastBusy = t.lastBusy := rfl
@[simp] theorem setPc_gate0 (t : Tile) (e : Engine) (v : BitVec 9) : (setPc t e v).gate0 = t.gate0 := rfl
@[simp] theorem setPc_cal (t : Tile) (e : Engine) (v : BitVec 9) : (setPc t e v).cal = t.cal := rfl
@[simp] theorem setPc_crcAt (t : Tile) (e : Engine) (v : BitVec 9) : (setPc t e v).crcAt = t.crcAt := rfl
@[simp] theorem setPc_free (t : Tile) (e : Engine) (v : BitVec 9) : (setPc t e v).free = t.free := rfl

@[simp] theorem setGp_regs (t : Tile) (e : Engine) (n : Nat) (v : Dword) : (setGp t e n v).regs = t.regs := by unfold setGp; split <;> rfl
@[simp] theorem setGp_store (t : Tile) (e : Engine) (n : Nat) (v : Dword) : (setGp t e n v).store = t.store := by unfold setGp; split <;> rfl
@[simp] theorem setGp_queues (t : Tile) (e : Engine) (n : Nat) (v : Dword) : (setGp t e n v).queues = t.queues := by unfold setGp; split <;> rfl
@[simp] theorem setGp_port (t : Tile) (e : Engine) (n : Nat) (v : Dword) : (setGp t e n v).port = t.port := by unfold setGp; split <;> rfl
@[simp] theorem setGp_stbd (t : Tile) (e : Engine) (n : Nat) (v : Dword) : (setGp t e n v).stbd = t.stbd := by unfold setGp; split <;> rfl
@[simp] theorem setGp_bounded (t : Tile) (e : Engine) (n : Nat) (v : Dword) : (setGp t e n v).bounded = t.bounded := by unfold setGp; split <;> rfl
@[simp] theorem setGp_retryQ (t : Tile) (e : Engine) (n : Nat) (v : Dword) : (setGp t e n v).retryQ = t.retryQ := by unfold setGp; split <;> rfl
@[simp] theorem setGp_recompQ (t : Tile) (e : Engine) (n : Nat) (v : Dword) : (setGp t e n v).recompQ = t.recompQ := by unfold setGp; split <;> rfl
@[simp] theorem setGp_sets (t : Tile) (e : Engine) (n : Nat) (v : Dword) : (setGp t e n v).sets = t.sets := by unfold setGp; split <;> rfl
@[simp] theorem setGp_acc (t : Tile) (e : Engine) (n : Nat) (v : Dword) : (setGp t e n v).acc = t.acc := by unfold setGp; split <;> rfl
@[simp] theorem setGp_outReg (t : Tile) (e : Engine) (n : Nat) (v : Dword) : (setGp t e n v).outReg = t.outReg := by unfold setGp; split <;> rfl
@[simp] theorem setGp_rho (t : Tile) (e : Engine) (n : Nat) (v : Dword) : (setGp t e n v).rho = t.rho := by unfold setGp; split <;> rfl
@[simp] theorem setGp_arrFree (t : Tile) (e : Engine) (n : Nat) (v : Dword) : (setGp t e n v).arrFree = t.arrFree := by unfold setGp; split <;> rfl
@[simp] theorem setGp_laneFree (t : Tile) (e : Engine) (n : Nat) (v : Dword) : (setGp t e n v).laneFree = t.laneFree := by unfold setGp; split <;> rfl
@[simp] theorem setGp_pipeFree (t : Tile) (e : Engine) (n : Nat) (v : Dword) : (setGp t e n v).pipeFree = t.pipeFree := by unfold setGp; split <;> rfl
@[simp] theorem setGp_pltFree (t : Tile) (e : Engine) (n : Nat) (v : Dword) : (setGp t e n v).pltFree = t.pltFree := by unfold setGp; split <;> rfl
@[simp] theorem setGp_due (t : Tile) (e : Engine) (n : Nat) (v : Dword) : (setGp t e n v).due = t.due := by unfold setGp; split <;> rfl
@[simp] theorem setGp_fetches (t : Tile) (e : Engine) (n : Nat) (v : Dword) : (setGp t e n v).fetches = t.fetches := by unfold setGp; split <;> rfl
@[simp] theorem setGp_sigs (t : Tile) (e : Engine) (n : Nat) (v : Dword) : (setGp t e n v).sigs = t.sigs := by unfold setGp; split <;> rfl
@[simp] theorem setGp_turns (t : Tile) (e : Engine) (n : Nat) (v : Dword) : (setGp t e n v).turns = t.turns := by unfold setGp; split <;> rfl
@[simp] theorem setGp_groups (t : Tile) (e : Engine) (n : Nat) (v : Dword) : (setGp t e n v).groups = t.groups := by unfold setGp; split <;> rfl
@[simp] theorem setGp_stopped (t : Tile) (e : Engine) (n : Nat) (v : Dword) : (setGp t e n v).stopped = t.stopped := by unfold setGp; split <;> rfl
@[simp] theorem setGp_clkOn (t : Tile) (e : Engine) (n : Nat) (v : Dword) : (setGp t e n v).clkOn = t.clkOn := by unfold setGp; split <;> rfl
@[simp] theorem setGp_wakePend (t : Tile) (e : Engine) (n : Nat) (v : Dword) : (setGp t e n v).wakePend = t.wakePend := by unfold setGp; split <;> rfl
@[simp] theorem setGp_inReset (t : Tile) (e : Engine) (n : Nat) (v : Dword) : (setGp t e n v).inReset = t.inReset := by unfold setGp; split <;> rfl
@[simp] theorem setGp_wrapped (t : Tile) (e : Engine) (n : Nat) (v : Dword) : (setGp t e n v).wrapped = t.wrapped := by unfold setGp; split <;> rfl
@[simp] theorem setGp_demotePend (t : Tile) (e : Engine) (n : Nat) (v : Dword) : (setGp t e n v).demotePend = t.demotePend := by unfold setGp; split <;> rfl
@[simp] theorem setGp_demoted (t : Tile) (e : Engine) (n : Nat) (v : Dword) : (setGp t e n v).demoted = t.demoted := by unfold setGp; split <;> rfl
@[simp] theorem setGp_trims (t : Tile) (e : Engine) (n : Nat) (v : Dword) : (setGp t e n v).trims = t.trims := by unfold setGp; split <;> rfl
@[simp] theorem setGp_tally (t : Tile) (e : Engine) (n : Nat) (v : Dword) : (setGp t e n v).tally = t.tally := by unfold setGp; split <;> rfl
@[simp] theorem setGp_events (t : Tile) (e : Engine) (n : Nat) (v : Dword) : (setGp t e n v).events = t.events := by unfold setGp; split <;> rfl
@[simp] theorem setGp_wnan (t : Tile) (e : Engine) (n : Nat) (v : Dword) : (setGp t e n v).wnan = t.wnan := by unfold setGp; split <;> rfl
@[simp] theorem setGp_watches (t : Tile) (e : Engine) (n : Nat) (v : Dword) : (setGp t e n v).watches = t.watches := by unfold setGp; split <;> rfl
@[simp] theorem setGp_stale (t : Tile) (e : Engine) (n : Nat) (v : Dword) : (setGp t e n v).stale = t.stale := by unfold setGp; split <;> rfl
@[simp] theorem setGp_lastBusy (t : Tile) (e : Engine) (n : Nat) (v : Dword) : (setGp t e n v).lastBusy = t.lastBusy := by unfold setGp; split <;> rfl
@[simp] theorem setGp_gate0 (t : Tile) (e : Engine) (n : Nat) (v : Dword) : (setGp t e n v).gate0 = t.gate0 := by unfold setGp; split <;> rfl
@[simp] theorem setGp_cal (t : Tile) (e : Engine) (n : Nat) (v : Dword) : (setGp t e n v).cal = t.cal := by unfold setGp; split <;> rfl
@[simp] theorem setGp_crcAt (t : Tile) (e : Engine) (n : Nat) (v : Dword) : (setGp t e n v).crcAt = t.crcAt := by unfold setGp; split <;> rfl
@[simp] theorem setGp_free (t : Tile) (e : Engine) (n : Nat) (v : Dword) : (setGp t e n v).free = t.free := by unfold setGp; split <;> rfl

@[simp] theorem setQueue_regs (t : Tile) (q : Nat) (v : TokQ) : (setQueue t q v).regs = t.regs := rfl
@[simp] theorem setQueue_store (t : Tile) (q : Nat) (v : TokQ) : (setQueue t q v).store = t.store := rfl
@[simp] theorem setQueue_engs (t : Tile) (q : Nat) (v : TokQ) : (setQueue t q v).engs = t.engs := rfl
@[simp] theorem setQueue_port (t : Tile) (q : Nat) (v : TokQ) : (setQueue t q v).port = t.port := rfl
@[simp] theorem setQueue_stbd (t : Tile) (q : Nat) (v : TokQ) : (setQueue t q v).stbd = t.stbd := rfl
@[simp] theorem setQueue_bounded (t : Tile) (q : Nat) (v : TokQ) : (setQueue t q v).bounded = t.bounded := rfl
@[simp] theorem setQueue_retryQ (t : Tile) (q : Nat) (v : TokQ) : (setQueue t q v).retryQ = t.retryQ := rfl
@[simp] theorem setQueue_recompQ (t : Tile) (q : Nat) (v : TokQ) : (setQueue t q v).recompQ = t.recompQ := rfl
@[simp] theorem setQueue_sets (t : Tile) (q : Nat) (v : TokQ) : (setQueue t q v).sets = t.sets := rfl
@[simp] theorem setQueue_acc (t : Tile) (q : Nat) (v : TokQ) : (setQueue t q v).acc = t.acc := rfl
@[simp] theorem setQueue_outReg (t : Tile) (q : Nat) (v : TokQ) : (setQueue t q v).outReg = t.outReg := rfl
@[simp] theorem setQueue_rho (t : Tile) (q : Nat) (v : TokQ) : (setQueue t q v).rho = t.rho := rfl
@[simp] theorem setQueue_arrFree (t : Tile) (q : Nat) (v : TokQ) : (setQueue t q v).arrFree = t.arrFree := rfl
@[simp] theorem setQueue_laneFree (t : Tile) (q : Nat) (v : TokQ) : (setQueue t q v).laneFree = t.laneFree := rfl
@[simp] theorem setQueue_pipeFree (t : Tile) (q : Nat) (v : TokQ) : (setQueue t q v).pipeFree = t.pipeFree := rfl
@[simp] theorem setQueue_pltFree (t : Tile) (q : Nat) (v : TokQ) : (setQueue t q v).pltFree = t.pltFree := rfl
@[simp] theorem setQueue_due (t : Tile) (q : Nat) (v : TokQ) : (setQueue t q v).due = t.due := rfl
@[simp] theorem setQueue_fetches (t : Tile) (q : Nat) (v : TokQ) : (setQueue t q v).fetches = t.fetches := rfl
@[simp] theorem setQueue_sigs (t : Tile) (q : Nat) (v : TokQ) : (setQueue t q v).sigs = t.sigs := rfl
@[simp] theorem setQueue_turns (t : Tile) (q : Nat) (v : TokQ) : (setQueue t q v).turns = t.turns := rfl
@[simp] theorem setQueue_groups (t : Tile) (q : Nat) (v : TokQ) : (setQueue t q v).groups = t.groups := rfl
@[simp] theorem setQueue_stopped (t : Tile) (q : Nat) (v : TokQ) : (setQueue t q v).stopped = t.stopped := rfl
@[simp] theorem setQueue_clkOn (t : Tile) (q : Nat) (v : TokQ) : (setQueue t q v).clkOn = t.clkOn := rfl
@[simp] theorem setQueue_wakePend (t : Tile) (q : Nat) (v : TokQ) : (setQueue t q v).wakePend = t.wakePend := rfl
@[simp] theorem setQueue_inReset (t : Tile) (q : Nat) (v : TokQ) : (setQueue t q v).inReset = t.inReset := rfl
@[simp] theorem setQueue_wrapped (t : Tile) (q : Nat) (v : TokQ) : (setQueue t q v).wrapped = t.wrapped := rfl
@[simp] theorem setQueue_demotePend (t : Tile) (q : Nat) (v : TokQ) : (setQueue t q v).demotePend = t.demotePend := rfl
@[simp] theorem setQueue_demoted (t : Tile) (q : Nat) (v : TokQ) : (setQueue t q v).demoted = t.demoted := rfl
@[simp] theorem setQueue_trims (t : Tile) (q : Nat) (v : TokQ) : (setQueue t q v).trims = t.trims := rfl
@[simp] theorem setQueue_tally (t : Tile) (q : Nat) (v : TokQ) : (setQueue t q v).tally = t.tally := rfl
@[simp] theorem setQueue_events (t : Tile) (q : Nat) (v : TokQ) : (setQueue t q v).events = t.events := rfl
@[simp] theorem setQueue_wnan (t : Tile) (q : Nat) (v : TokQ) : (setQueue t q v).wnan = t.wnan := rfl
@[simp] theorem setQueue_watches (t : Tile) (q : Nat) (v : TokQ) : (setQueue t q v).watches = t.watches := rfl
@[simp] theorem setQueue_stale (t : Tile) (q : Nat) (v : TokQ) : (setQueue t q v).stale = t.stale := rfl
@[simp] theorem setQueue_lastBusy (t : Tile) (q : Nat) (v : TokQ) : (setQueue t q v).lastBusy = t.lastBusy := rfl
@[simp] theorem setQueue_gate0 (t : Tile) (q : Nat) (v : TokQ) : (setQueue t q v).gate0 = t.gate0 := rfl
@[simp] theorem setQueue_cal (t : Tile) (q : Nat) (v : TokQ) : (setQueue t q v).cal = t.cal := rfl
@[simp] theorem setQueue_crcAt (t : Tile) (q : Nat) (v : TokQ) : (setQueue t q v).crcAt = t.crcAt := rfl
@[simp] theorem setQueue_free (t : Tile) (q : Nat) (v : TokQ) : (setQueue t q v).free = t.free := rfl

@[simp] theorem popToken_regs (t : Tile) (q now : Nat) : (popToken t q now).regs = t.regs := rfl
@[simp] theorem popToken_store (t : Tile) (q now : Nat) : (popToken t q now).store = t.store := rfl
@[simp] theorem popToken_engs (t : Tile) (q now : Nat) : (popToken t q now).engs = t.engs := rfl
@[simp] theorem popToken_port (t : Tile) (q now : Nat) : (popToken t q now).port = t.port := rfl
@[simp] theorem popToken_stbd (t : Tile) (q now : Nat) : (popToken t q now).stbd = t.stbd := rfl
@[simp] theorem popToken_bounded (t : Tile) (q now : Nat) : (popToken t q now).bounded = t.bounded := rfl
@[simp] theorem popToken_retryQ (t : Tile) (q now : Nat) : (popToken t q now).retryQ = t.retryQ := rfl
@[simp] theorem popToken_recompQ (t : Tile) (q now : Nat) : (popToken t q now).recompQ = t.recompQ := rfl
@[simp] theorem popToken_sets (t : Tile) (q now : Nat) : (popToken t q now).sets = t.sets := rfl
@[simp] theorem popToken_acc (t : Tile) (q now : Nat) : (popToken t q now).acc = t.acc := rfl
@[simp] theorem popToken_outReg (t : Tile) (q now : Nat) : (popToken t q now).outReg = t.outReg := rfl
@[simp] theorem popToken_rho (t : Tile) (q now : Nat) : (popToken t q now).rho = t.rho := rfl
@[simp] theorem popToken_arrFree (t : Tile) (q now : Nat) : (popToken t q now).arrFree = t.arrFree := rfl
@[simp] theorem popToken_laneFree (t : Tile) (q now : Nat) : (popToken t q now).laneFree = t.laneFree := rfl
@[simp] theorem popToken_pipeFree (t : Tile) (q now : Nat) : (popToken t q now).pipeFree = t.pipeFree := rfl
@[simp] theorem popToken_pltFree (t : Tile) (q now : Nat) : (popToken t q now).pltFree = t.pltFree := rfl
@[simp] theorem popToken_due (t : Tile) (q now : Nat) : (popToken t q now).due = t.due := rfl
@[simp] theorem popToken_fetches (t : Tile) (q now : Nat) : (popToken t q now).fetches = t.fetches := rfl
@[simp] theorem popToken_sigs (t : Tile) (q now : Nat) : (popToken t q now).sigs = t.sigs := rfl
@[simp] theorem popToken_turns (t : Tile) (q now : Nat) : (popToken t q now).turns = t.turns := rfl
@[simp] theorem popToken_groups (t : Tile) (q now : Nat) : (popToken t q now).groups = t.groups := rfl
@[simp] theorem popToken_stopped (t : Tile) (q now : Nat) : (popToken t q now).stopped = t.stopped := rfl
@[simp] theorem popToken_clkOn (t : Tile) (q now : Nat) : (popToken t q now).clkOn = t.clkOn := rfl
@[simp] theorem popToken_wakePend (t : Tile) (q now : Nat) : (popToken t q now).wakePend = t.wakePend := rfl
@[simp] theorem popToken_inReset (t : Tile) (q now : Nat) : (popToken t q now).inReset = t.inReset := rfl
@[simp] theorem popToken_wrapped (t : Tile) (q now : Nat) : (popToken t q now).wrapped = t.wrapped := rfl
@[simp] theorem popToken_demotePend (t : Tile) (q now : Nat) : (popToken t q now).demotePend = t.demotePend := rfl
@[simp] theorem popToken_demoted (t : Tile) (q now : Nat) : (popToken t q now).demoted = t.demoted := rfl
@[simp] theorem popToken_trims (t : Tile) (q now : Nat) : (popToken t q now).trims = t.trims := rfl
@[simp] theorem popToken_tally (t : Tile) (q now : Nat) : (popToken t q now).tally = t.tally := rfl
@[simp] theorem popToken_events (t : Tile) (q now : Nat) : (popToken t q now).events = t.events := rfl
@[simp] theorem popToken_wnan (t : Tile) (q now : Nat) : (popToken t q now).wnan = t.wnan := rfl
@[simp] theorem popToken_watches (t : Tile) (q now : Nat) : (popToken t q now).watches = t.watches := rfl
@[simp] theorem popToken_stale (t : Tile) (q now : Nat) : (popToken t q now).stale = t.stale := rfl
@[simp] theorem popToken_lastBusy (t : Tile) (q now : Nat) : (popToken t q now).lastBusy = t.lastBusy := rfl
@[simp] theorem popToken_gate0 (t : Tile) (q now : Nat) : (popToken t q now).gate0 = t.gate0 := rfl
@[simp] theorem popToken_cal (t : Tile) (q now : Nat) : (popToken t q now).cal = t.cal := rfl
@[simp] theorem popToken_crcAt (t : Tile) (q now : Nat) : (popToken t q now).crcAt = t.crcAt := rfl
@[simp] theorem popToken_free (t : Tile) (q now : Nat) : (popToken t q now).free = t.free := rfl

@[simp] theorem reservePlace_regs (t : Tile) (q : Nat) : (reservePlace t q).regs = t.regs := rfl
@[simp] theorem reservePlace_store (t : Tile) (q : Nat) : (reservePlace t q).store = t.store := rfl
@[simp] theorem reservePlace_engs (t : Tile) (q : Nat) : (reservePlace t q).engs = t.engs := rfl
@[simp] theorem reservePlace_port (t : Tile) (q : Nat) : (reservePlace t q).port = t.port := rfl
@[simp] theorem reservePlace_stbd (t : Tile) (q : Nat) : (reservePlace t q).stbd = t.stbd := rfl
@[simp] theorem reservePlace_bounded (t : Tile) (q : Nat) : (reservePlace t q).bounded = t.bounded := rfl
@[simp] theorem reservePlace_retryQ (t : Tile) (q : Nat) : (reservePlace t q).retryQ = t.retryQ := rfl
@[simp] theorem reservePlace_recompQ (t : Tile) (q : Nat) : (reservePlace t q).recompQ = t.recompQ := rfl
@[simp] theorem reservePlace_sets (t : Tile) (q : Nat) : (reservePlace t q).sets = t.sets := rfl
@[simp] theorem reservePlace_acc (t : Tile) (q : Nat) : (reservePlace t q).acc = t.acc := rfl
@[simp] theorem reservePlace_outReg (t : Tile) (q : Nat) : (reservePlace t q).outReg = t.outReg := rfl
@[simp] theorem reservePlace_rho (t : Tile) (q : Nat) : (reservePlace t q).rho = t.rho := rfl
@[simp] theorem reservePlace_arrFree (t : Tile) (q : Nat) : (reservePlace t q).arrFree = t.arrFree := rfl
@[simp] theorem reservePlace_laneFree (t : Tile) (q : Nat) : (reservePlace t q).laneFree = t.laneFree := rfl
@[simp] theorem reservePlace_pipeFree (t : Tile) (q : Nat) : (reservePlace t q).pipeFree = t.pipeFree := rfl
@[simp] theorem reservePlace_pltFree (t : Tile) (q : Nat) : (reservePlace t q).pltFree = t.pltFree := rfl
@[simp] theorem reservePlace_due (t : Tile) (q : Nat) : (reservePlace t q).due = t.due := rfl
@[simp] theorem reservePlace_fetches (t : Tile) (q : Nat) : (reservePlace t q).fetches = t.fetches := rfl
@[simp] theorem reservePlace_sigs (t : Tile) (q : Nat) : (reservePlace t q).sigs = t.sigs := rfl
@[simp] theorem reservePlace_turns (t : Tile) (q : Nat) : (reservePlace t q).turns = t.turns := rfl
@[simp] theorem reservePlace_groups (t : Tile) (q : Nat) : (reservePlace t q).groups = t.groups := rfl
@[simp] theorem reservePlace_stopped (t : Tile) (q : Nat) : (reservePlace t q).stopped = t.stopped := rfl
@[simp] theorem reservePlace_clkOn (t : Tile) (q : Nat) : (reservePlace t q).clkOn = t.clkOn := rfl
@[simp] theorem reservePlace_wakePend (t : Tile) (q : Nat) : (reservePlace t q).wakePend = t.wakePend := rfl
@[simp] theorem reservePlace_inReset (t : Tile) (q : Nat) : (reservePlace t q).inReset = t.inReset := rfl
@[simp] theorem reservePlace_wrapped (t : Tile) (q : Nat) : (reservePlace t q).wrapped = t.wrapped := rfl
@[simp] theorem reservePlace_demotePend (t : Tile) (q : Nat) : (reservePlace t q).demotePend = t.demotePend := rfl
@[simp] theorem reservePlace_demoted (t : Tile) (q : Nat) : (reservePlace t q).demoted = t.demoted := rfl
@[simp] theorem reservePlace_trims (t : Tile) (q : Nat) : (reservePlace t q).trims = t.trims := rfl
@[simp] theorem reservePlace_tally (t : Tile) (q : Nat) : (reservePlace t q).tally = t.tally := rfl
@[simp] theorem reservePlace_events (t : Tile) (q : Nat) : (reservePlace t q).events = t.events := rfl
@[simp] theorem reservePlace_wnan (t : Tile) (q : Nat) : (reservePlace t q).wnan = t.wnan := rfl
@[simp] theorem reservePlace_watches (t : Tile) (q : Nat) : (reservePlace t q).watches = t.watches := rfl
@[simp] theorem reservePlace_stale (t : Tile) (q : Nat) : (reservePlace t q).stale = t.stale := rfl
@[simp] theorem reservePlace_lastBusy (t : Tile) (q : Nat) : (reservePlace t q).lastBusy = t.lastBusy := rfl
@[simp] theorem reservePlace_gate0 (t : Tile) (q : Nat) : (reservePlace t q).gate0 = t.gate0 := rfl
@[simp] theorem reservePlace_cal (t : Tile) (q : Nat) : (reservePlace t q).cal = t.cal := rfl
@[simp] theorem reservePlace_crcAt (t : Tile) (q : Nat) : (reservePlace t q).crcAt = t.crcAt := rfl
@[simp] theorem reservePlace_free (t : Tile) (q : Nat) : (reservePlace t q).free = t.free := rfl

@[simp] theorem writeToken_regs (t : Tile) (q : Nat) (v : Half) (now : Nat) : (writeToken t q v now).regs = t.regs := rfl
@[simp] theorem writeToken_store (t : Tile) (q : Nat) (v : Half) (now : Nat) : (writeToken t q v now).store = t.store := rfl
@[simp] theorem writeToken_engs (t : Tile) (q : Nat) (v : Half) (now : Nat) : (writeToken t q v now).engs = t.engs := rfl
@[simp] theorem writeToken_port (t : Tile) (q : Nat) (v : Half) (now : Nat) : (writeToken t q v now).port = t.port := rfl
@[simp] theorem writeToken_stbd (t : Tile) (q : Nat) (v : Half) (now : Nat) : (writeToken t q v now).stbd = t.stbd := rfl
@[simp] theorem writeToken_bounded (t : Tile) (q : Nat) (v : Half) (now : Nat) : (writeToken t q v now).bounded = t.bounded := rfl
@[simp] theorem writeToken_retryQ (t : Tile) (q : Nat) (v : Half) (now : Nat) : (writeToken t q v now).retryQ = t.retryQ := rfl
@[simp] theorem writeToken_recompQ (t : Tile) (q : Nat) (v : Half) (now : Nat) : (writeToken t q v now).recompQ = t.recompQ := rfl
@[simp] theorem writeToken_sets (t : Tile) (q : Nat) (v : Half) (now : Nat) : (writeToken t q v now).sets = t.sets := rfl
@[simp] theorem writeToken_acc (t : Tile) (q : Nat) (v : Half) (now : Nat) : (writeToken t q v now).acc = t.acc := rfl
@[simp] theorem writeToken_outReg (t : Tile) (q : Nat) (v : Half) (now : Nat) : (writeToken t q v now).outReg = t.outReg := rfl
@[simp] theorem writeToken_rho (t : Tile) (q : Nat) (v : Half) (now : Nat) : (writeToken t q v now).rho = t.rho := rfl
@[simp] theorem writeToken_arrFree (t : Tile) (q : Nat) (v : Half) (now : Nat) : (writeToken t q v now).arrFree = t.arrFree := rfl
@[simp] theorem writeToken_laneFree (t : Tile) (q : Nat) (v : Half) (now : Nat) : (writeToken t q v now).laneFree = t.laneFree := rfl
@[simp] theorem writeToken_pipeFree (t : Tile) (q : Nat) (v : Half) (now : Nat) : (writeToken t q v now).pipeFree = t.pipeFree := rfl
@[simp] theorem writeToken_pltFree (t : Tile) (q : Nat) (v : Half) (now : Nat) : (writeToken t q v now).pltFree = t.pltFree := rfl
@[simp] theorem writeToken_due (t : Tile) (q : Nat) (v : Half) (now : Nat) : (writeToken t q v now).due = t.due := rfl
@[simp] theorem writeToken_fetches (t : Tile) (q : Nat) (v : Half) (now : Nat) : (writeToken t q v now).fetches = t.fetches := rfl
@[simp] theorem writeToken_sigs (t : Tile) (q : Nat) (v : Half) (now : Nat) : (writeToken t q v now).sigs = t.sigs := rfl
@[simp] theorem writeToken_turns (t : Tile) (q : Nat) (v : Half) (now : Nat) : (writeToken t q v now).turns = t.turns := rfl
@[simp] theorem writeToken_groups (t : Tile) (q : Nat) (v : Half) (now : Nat) : (writeToken t q v now).groups = t.groups := rfl
@[simp] theorem writeToken_stopped (t : Tile) (q : Nat) (v : Half) (now : Nat) : (writeToken t q v now).stopped = t.stopped := rfl
@[simp] theorem writeToken_clkOn (t : Tile) (q : Nat) (v : Half) (now : Nat) : (writeToken t q v now).clkOn = t.clkOn := rfl
@[simp] theorem writeToken_wakePend (t : Tile) (q : Nat) (v : Half) (now : Nat) : (writeToken t q v now).wakePend = t.wakePend := rfl
@[simp] theorem writeToken_inReset (t : Tile) (q : Nat) (v : Half) (now : Nat) : (writeToken t q v now).inReset = t.inReset := rfl
@[simp] theorem writeToken_wrapped (t : Tile) (q : Nat) (v : Half) (now : Nat) : (writeToken t q v now).wrapped = t.wrapped := rfl
@[simp] theorem writeToken_demotePend (t : Tile) (q : Nat) (v : Half) (now : Nat) : (writeToken t q v now).demotePend = t.demotePend := rfl
@[simp] theorem writeToken_demoted (t : Tile) (q : Nat) (v : Half) (now : Nat) : (writeToken t q v now).demoted = t.demoted := rfl
@[simp] theorem writeToken_trims (t : Tile) (q : Nat) (v : Half) (now : Nat) : (writeToken t q v now).trims = t.trims := rfl
@[simp] theorem writeToken_tally (t : Tile) (q : Nat) (v : Half) (now : Nat) : (writeToken t q v now).tally = t.tally := rfl
@[simp] theorem writeToken_events (t : Tile) (q : Nat) (v : Half) (now : Nat) : (writeToken t q v now).events = t.events := rfl
@[simp] theorem writeToken_wnan (t : Tile) (q : Nat) (v : Half) (now : Nat) : (writeToken t q v now).wnan = t.wnan := rfl
@[simp] theorem writeToken_watches (t : Tile) (q : Nat) (v : Half) (now : Nat) : (writeToken t q v now).watches = t.watches := rfl
@[simp] theorem writeToken_stale (t : Tile) (q : Nat) (v : Half) (now : Nat) : (writeToken t q v now).stale = t.stale := rfl
@[simp] theorem writeToken_lastBusy (t : Tile) (q : Nat) (v : Half) (now : Nat) : (writeToken t q v now).lastBusy = t.lastBusy := rfl
@[simp] theorem writeToken_gate0 (t : Tile) (q : Nat) (v : Half) (now : Nat) : (writeToken t q v now).gate0 = t.gate0 := rfl
@[simp] theorem writeToken_cal (t : Tile) (q : Nat) (v : Half) (now : Nat) : (writeToken t q v now).cal = t.cal := rfl
@[simp] theorem writeToken_crcAt (t : Tile) (q : Nat) (v : Half) (now : Nat) : (writeToken t q v now).crcAt = t.crcAt := rfl
@[simp] theorem writeToken_free (t : Tile) (q : Nat) (v : Half) (now : Nat) : (writeToken t q v now).free = t.free := rfl

@[simp] theorem later_regs (t : Tile) (n : Nat) (x : Effect) : (later t n x).regs = t.regs := rfl
@[simp] theorem later_store (t : Tile) (n : Nat) (x : Effect) : (later t n x).store = t.store := rfl
@[simp] theorem later_engs (t : Tile) (n : Nat) (x : Effect) : (later t n x).engs = t.engs := rfl
@[simp] theorem later_queues (t : Tile) (n : Nat) (x : Effect) : (later t n x).queues = t.queues := rfl
@[simp] theorem later_port (t : Tile) (n : Nat) (x : Effect) : (later t n x).port = t.port := rfl
@[simp] theorem later_stbd (t : Tile) (n : Nat) (x : Effect) : (later t n x).stbd = t.stbd := rfl
@[simp] theorem later_bounded (t : Tile) (n : Nat) (x : Effect) : (later t n x).bounded = t.bounded := rfl
@[simp] theorem later_retryQ (t : Tile) (n : Nat) (x : Effect) : (later t n x).retryQ = t.retryQ := rfl
@[simp] theorem later_recompQ (t : Tile) (n : Nat) (x : Effect) : (later t n x).recompQ = t.recompQ := rfl
@[simp] theorem later_sets (t : Tile) (n : Nat) (x : Effect) : (later t n x).sets = t.sets := rfl
@[simp] theorem later_acc (t : Tile) (n : Nat) (x : Effect) : (later t n x).acc = t.acc := rfl
@[simp] theorem later_outReg (t : Tile) (n : Nat) (x : Effect) : (later t n x).outReg = t.outReg := rfl
@[simp] theorem later_rho (t : Tile) (n : Nat) (x : Effect) : (later t n x).rho = t.rho := rfl
@[simp] theorem later_arrFree (t : Tile) (n : Nat) (x : Effect) : (later t n x).arrFree = t.arrFree := rfl
@[simp] theorem later_laneFree (t : Tile) (n : Nat) (x : Effect) : (later t n x).laneFree = t.laneFree := rfl
@[simp] theorem later_pipeFree (t : Tile) (n : Nat) (x : Effect) : (later t n x).pipeFree = t.pipeFree := rfl
@[simp] theorem later_pltFree (t : Tile) (n : Nat) (x : Effect) : (later t n x).pltFree = t.pltFree := rfl
@[simp] theorem later_fetches (t : Tile) (n : Nat) (x : Effect) : (later t n x).fetches = t.fetches := rfl
@[simp] theorem later_sigs (t : Tile) (n : Nat) (x : Effect) : (later t n x).sigs = t.sigs := rfl
@[simp] theorem later_turns (t : Tile) (n : Nat) (x : Effect) : (later t n x).turns = t.turns := rfl
@[simp] theorem later_groups (t : Tile) (n : Nat) (x : Effect) : (later t n x).groups = t.groups := rfl
@[simp] theorem later_stopped (t : Tile) (n : Nat) (x : Effect) : (later t n x).stopped = t.stopped := rfl
@[simp] theorem later_clkOn (t : Tile) (n : Nat) (x : Effect) : (later t n x).clkOn = t.clkOn := rfl
@[simp] theorem later_wakePend (t : Tile) (n : Nat) (x : Effect) : (later t n x).wakePend = t.wakePend := rfl
@[simp] theorem later_inReset (t : Tile) (n : Nat) (x : Effect) : (later t n x).inReset = t.inReset := rfl
@[simp] theorem later_wrapped (t : Tile) (n : Nat) (x : Effect) : (later t n x).wrapped = t.wrapped := rfl
@[simp] theorem later_demotePend (t : Tile) (n : Nat) (x : Effect) : (later t n x).demotePend = t.demotePend := rfl
@[simp] theorem later_demoted (t : Tile) (n : Nat) (x : Effect) : (later t n x).demoted = t.demoted := rfl
@[simp] theorem later_trims (t : Tile) (n : Nat) (x : Effect) : (later t n x).trims = t.trims := rfl
@[simp] theorem later_tally (t : Tile) (n : Nat) (x : Effect) : (later t n x).tally = t.tally := rfl
@[simp] theorem later_events (t : Tile) (n : Nat) (x : Effect) : (later t n x).events = t.events := rfl
@[simp] theorem later_wnan (t : Tile) (n : Nat) (x : Effect) : (later t n x).wnan = t.wnan := rfl
@[simp] theorem later_watches (t : Tile) (n : Nat) (x : Effect) : (later t n x).watches = t.watches := rfl
@[simp] theorem later_stale (t : Tile) (n : Nat) (x : Effect) : (later t n x).stale = t.stale := rfl
@[simp] theorem later_lastBusy (t : Tile) (n : Nat) (x : Effect) : (later t n x).lastBusy = t.lastBusy := rfl
@[simp] theorem later_gate0 (t : Tile) (n : Nat) (x : Effect) : (later t n x).gate0 = t.gate0 := rfl
@[simp] theorem later_cal (t : Tile) (n : Nat) (x : Effect) : (later t n x).cal = t.cal := rfl
@[simp] theorem later_crcAt (t : Tile) (n : Nat) (x : Effect) : (later t n x).crcAt = t.crcAt := rfl
@[simp] theorem later_free (t : Tile) (n : Nat) (x : Effect) : (later t n x).free = t.free := rfl

@[simp] theorem retireIn_regs (t : Tile) (f : Flight) (n : Nat) : (retireIn t f n).regs = t.regs := rfl
@[simp] theorem retireIn_store (t : Tile) (f : Flight) (n : Nat) : (retireIn t f n).store = t.store := rfl
@[simp] theorem retireIn_engs (t : Tile) (f : Flight) (n : Nat) : (retireIn t f n).engs = t.engs := rfl
@[simp] theorem retireIn_queues (t : Tile) (f : Flight) (n : Nat) : (retireIn t f n).queues = t.queues := rfl
@[simp] theorem retireIn_port (t : Tile) (f : Flight) (n : Nat) : (retireIn t f n).port = t.port := rfl
@[simp] theorem retireIn_stbd (t : Tile) (f : Flight) (n : Nat) : (retireIn t f n).stbd = t.stbd := rfl
@[simp] theorem retireIn_bounded (t : Tile) (f : Flight) (n : Nat) : (retireIn t f n).bounded = t.bounded := rfl
@[simp] theorem retireIn_retryQ (t : Tile) (f : Flight) (n : Nat) : (retireIn t f n).retryQ = t.retryQ := rfl
@[simp] theorem retireIn_recompQ (t : Tile) (f : Flight) (n : Nat) : (retireIn t f n).recompQ = t.recompQ := rfl
@[simp] theorem retireIn_sets (t : Tile) (f : Flight) (n : Nat) : (retireIn t f n).sets = t.sets := rfl
@[simp] theorem retireIn_acc (t : Tile) (f : Flight) (n : Nat) : (retireIn t f n).acc = t.acc := rfl
@[simp] theorem retireIn_outReg (t : Tile) (f : Flight) (n : Nat) : (retireIn t f n).outReg = t.outReg := rfl
@[simp] theorem retireIn_rho (t : Tile) (f : Flight) (n : Nat) : (retireIn t f n).rho = t.rho := rfl
@[simp] theorem retireIn_arrFree (t : Tile) (f : Flight) (n : Nat) : (retireIn t f n).arrFree = t.arrFree := rfl
@[simp] theorem retireIn_laneFree (t : Tile) (f : Flight) (n : Nat) : (retireIn t f n).laneFree = t.laneFree := rfl
@[simp] theorem retireIn_pipeFree (t : Tile) (f : Flight) (n : Nat) : (retireIn t f n).pipeFree = t.pipeFree := rfl
@[simp] theorem retireIn_pltFree (t : Tile) (f : Flight) (n : Nat) : (retireIn t f n).pltFree = t.pltFree := rfl
@[simp] theorem retireIn_fetches (t : Tile) (f : Flight) (n : Nat) : (retireIn t f n).fetches = t.fetches := rfl
@[simp] theorem retireIn_sigs (t : Tile) (f : Flight) (n : Nat) : (retireIn t f n).sigs = t.sigs := rfl
@[simp] theorem retireIn_turns (t : Tile) (f : Flight) (n : Nat) : (retireIn t f n).turns = t.turns := rfl
@[simp] theorem retireIn_groups (t : Tile) (f : Flight) (n : Nat) : (retireIn t f n).groups = t.groups := rfl
@[simp] theorem retireIn_stopped (t : Tile) (f : Flight) (n : Nat) : (retireIn t f n).stopped = t.stopped := rfl
@[simp] theorem retireIn_clkOn (t : Tile) (f : Flight) (n : Nat) : (retireIn t f n).clkOn = t.clkOn := rfl
@[simp] theorem retireIn_wakePend (t : Tile) (f : Flight) (n : Nat) : (retireIn t f n).wakePend = t.wakePend := rfl
@[simp] theorem retireIn_inReset (t : Tile) (f : Flight) (n : Nat) : (retireIn t f n).inReset = t.inReset := rfl
@[simp] theorem retireIn_wrapped (t : Tile) (f : Flight) (n : Nat) : (retireIn t f n).wrapped = t.wrapped := rfl
@[simp] theorem retireIn_demotePend (t : Tile) (f : Flight) (n : Nat) : (retireIn t f n).demotePend = t.demotePend := rfl
@[simp] theorem retireIn_demoted (t : Tile) (f : Flight) (n : Nat) : (retireIn t f n).demoted = t.demoted := rfl
@[simp] theorem retireIn_trims (t : Tile) (f : Flight) (n : Nat) : (retireIn t f n).trims = t.trims := rfl
@[simp] theorem retireIn_tally (t : Tile) (f : Flight) (n : Nat) : (retireIn t f n).tally = t.tally := rfl
@[simp] theorem retireIn_events (t : Tile) (f : Flight) (n : Nat) : (retireIn t f n).events = t.events := rfl
@[simp] theorem retireIn_wnan (t : Tile) (f : Flight) (n : Nat) : (retireIn t f n).wnan = t.wnan := rfl
@[simp] theorem retireIn_watches (t : Tile) (f : Flight) (n : Nat) : (retireIn t f n).watches = t.watches := rfl
@[simp] theorem retireIn_stale (t : Tile) (f : Flight) (n : Nat) : (retireIn t f n).stale = t.stale := rfl
@[simp] theorem retireIn_lastBusy (t : Tile) (f : Flight) (n : Nat) : (retireIn t f n).lastBusy = t.lastBusy := rfl
@[simp] theorem retireIn_gate0 (t : Tile) (f : Flight) (n : Nat) : (retireIn t f n).gate0 = t.gate0 := rfl
@[simp] theorem retireIn_cal (t : Tile) (f : Flight) (n : Nat) : (retireIn t f n).cal = t.cal := rfl
@[simp] theorem retireIn_crcAt (t : Tile) (f : Flight) (n : Nat) : (retireIn t f n).crcAt = t.crcAt := rfl
@[simp] theorem retireIn_free (t : Tile) (f : Flight) (n : Nat) : (retireIn t f n).free = t.free := rfl

@[simp] theorem setBank_regs (t : Tile) (b : Bool) (v : Bank) : (setBank t b v).regs = t.regs := by unfold setBank; split <;> rfl
@[simp] theorem setBank_store (t : Tile) (b : Bool) (v : Bank) : (setBank t b v).store = t.store := by unfold setBank; split <;> rfl
@[simp] theorem setBank_engs (t : Tile) (b : Bool) (v : Bank) : (setBank t b v).engs = t.engs := by unfold setBank; split <;> rfl
@[simp] theorem setBank_queues (t : Tile) (b : Bool) (v : Bank) : (setBank t b v).queues = t.queues := by unfold setBank; split <;> rfl
@[simp] theorem setBank_bounded (t : Tile) (b : Bool) (v : Bank) : (setBank t b v).bounded = t.bounded := by unfold setBank; split <;> rfl
@[simp] theorem setBank_retryQ (t : Tile) (b : Bool) (v : Bank) : (setBank t b v).retryQ = t.retryQ := by unfold setBank; split <;> rfl
@[simp] theorem setBank_recompQ (t : Tile) (b : Bool) (v : Bank) : (setBank t b v).recompQ = t.recompQ := by unfold setBank; split <;> rfl
@[simp] theorem setBank_sets (t : Tile) (b : Bool) (v : Bank) : (setBank t b v).sets = t.sets := by unfold setBank; split <;> rfl
@[simp] theorem setBank_acc (t : Tile) (b : Bool) (v : Bank) : (setBank t b v).acc = t.acc := by unfold setBank; split <;> rfl
@[simp] theorem setBank_outReg (t : Tile) (b : Bool) (v : Bank) : (setBank t b v).outReg = t.outReg := by unfold setBank; split <;> rfl
@[simp] theorem setBank_rho (t : Tile) (b : Bool) (v : Bank) : (setBank t b v).rho = t.rho := by unfold setBank; split <;> rfl
@[simp] theorem setBank_arrFree (t : Tile) (b : Bool) (v : Bank) : (setBank t b v).arrFree = t.arrFree := by unfold setBank; split <;> rfl
@[simp] theorem setBank_laneFree (t : Tile) (b : Bool) (v : Bank) : (setBank t b v).laneFree = t.laneFree := by unfold setBank; split <;> rfl
@[simp] theorem setBank_pipeFree (t : Tile) (b : Bool) (v : Bank) : (setBank t b v).pipeFree = t.pipeFree := by unfold setBank; split <;> rfl
@[simp] theorem setBank_pltFree (t : Tile) (b : Bool) (v : Bank) : (setBank t b v).pltFree = t.pltFree := by unfold setBank; split <;> rfl
@[simp] theorem setBank_due (t : Tile) (b : Bool) (v : Bank) : (setBank t b v).due = t.due := by unfold setBank; split <;> rfl
@[simp] theorem setBank_fetches (t : Tile) (b : Bool) (v : Bank) : (setBank t b v).fetches = t.fetches := by unfold setBank; split <;> rfl
@[simp] theorem setBank_sigs (t : Tile) (b : Bool) (v : Bank) : (setBank t b v).sigs = t.sigs := by unfold setBank; split <;> rfl
@[simp] theorem setBank_turns (t : Tile) (b : Bool) (v : Bank) : (setBank t b v).turns = t.turns := by unfold setBank; split <;> rfl
@[simp] theorem setBank_groups (t : Tile) (b : Bool) (v : Bank) : (setBank t b v).groups = t.groups := by unfold setBank; split <;> rfl
@[simp] theorem setBank_stopped (t : Tile) (b : Bool) (v : Bank) : (setBank t b v).stopped = t.stopped := by unfold setBank; split <;> rfl
@[simp] theorem setBank_clkOn (t : Tile) (b : Bool) (v : Bank) : (setBank t b v).clkOn = t.clkOn := by unfold setBank; split <;> rfl
@[simp] theorem setBank_wakePend (t : Tile) (b : Bool) (v : Bank) : (setBank t b v).wakePend = t.wakePend := by unfold setBank; split <;> rfl
@[simp] theorem setBank_inReset (t : Tile) (b : Bool) (v : Bank) : (setBank t b v).inReset = t.inReset := by unfold setBank; split <;> rfl
@[simp] theorem setBank_wrapped (t : Tile) (b : Bool) (v : Bank) : (setBank t b v).wrapped = t.wrapped := by unfold setBank; split <;> rfl
@[simp] theorem setBank_demotePend (t : Tile) (b : Bool) (v : Bank) : (setBank t b v).demotePend = t.demotePend := by unfold setBank; split <;> rfl
@[simp] theorem setBank_demoted (t : Tile) (b : Bool) (v : Bank) : (setBank t b v).demoted = t.demoted := by unfold setBank; split <;> rfl
@[simp] theorem setBank_trims (t : Tile) (b : Bool) (v : Bank) : (setBank t b v).trims = t.trims := by unfold setBank; split <;> rfl
@[simp] theorem setBank_tally (t : Tile) (b : Bool) (v : Bank) : (setBank t b v).tally = t.tally := by unfold setBank; split <;> rfl
@[simp] theorem setBank_events (t : Tile) (b : Bool) (v : Bank) : (setBank t b v).events = t.events := by unfold setBank; split <;> rfl
@[simp] theorem setBank_wnan (t : Tile) (b : Bool) (v : Bank) : (setBank t b v).wnan = t.wnan := by unfold setBank; split <;> rfl
@[simp] theorem setBank_watches (t : Tile) (b : Bool) (v : Bank) : (setBank t b v).watches = t.watches := by unfold setBank; split <;> rfl
@[simp] theorem setBank_stale (t : Tile) (b : Bool) (v : Bank) : (setBank t b v).stale = t.stale := by unfold setBank; split <;> rfl
@[simp] theorem setBank_lastBusy (t : Tile) (b : Bool) (v : Bank) : (setBank t b v).lastBusy = t.lastBusy := by unfold setBank; split <;> rfl
@[simp] theorem setBank_gate0 (t : Tile) (b : Bool) (v : Bank) : (setBank t b v).gate0 = t.gate0 := by unfold setBank; split <;> rfl
@[simp] theorem setBank_cal (t : Tile) (b : Bool) (v : Bank) : (setBank t b v).cal = t.cal := by unfold setBank; split <;> rfl
@[simp] theorem setBank_crcAt (t : Tile) (b : Bool) (v : Bank) : (setBank t b v).crcAt = t.crcAt := by unfold setBank; split <;> rfl
@[simp] theorem setBank_free (t : Tile) (b : Bool) (v : Bank) : (setBank t b v).free = t.free := by unfold setBank; split <;> rfl

@[simp] theorem putSet_regs (t : Tile) (b : Bool) (v : AccSet) : (putSet t b v).regs = t.regs := rfl
@[simp] theorem putSet_store (t : Tile) (b : Bool) (v : AccSet) : (putSet t b v).store = t.store := rfl
@[simp] theorem putSet_engs (t : Tile) (b : Bool) (v : AccSet) : (putSet t b v).engs = t.engs := rfl
@[simp] theorem putSet_queues (t : Tile) (b : Bool) (v : AccSet) : (putSet t b v).queues = t.queues := rfl
@[simp] theorem putSet_port (t : Tile) (b : Bool) (v : AccSet) : (putSet t b v).port = t.port := rfl
@[simp] theorem putSet_stbd (t : Tile) (b : Bool) (v : AccSet) : (putSet t b v).stbd = t.stbd := rfl
@[simp] theorem putSet_bounded (t : Tile) (b : Bool) (v : AccSet) : (putSet t b v).bounded = t.bounded := rfl
@[simp] theorem putSet_retryQ (t : Tile) (b : Bool) (v : AccSet) : (putSet t b v).retryQ = t.retryQ := rfl
@[simp] theorem putSet_recompQ (t : Tile) (b : Bool) (v : AccSet) : (putSet t b v).recompQ = t.recompQ := rfl
@[simp] theorem putSet_acc (t : Tile) (b : Bool) (v : AccSet) : (putSet t b v).acc = t.acc := rfl
@[simp] theorem putSet_outReg (t : Tile) (b : Bool) (v : AccSet) : (putSet t b v).outReg = t.outReg := rfl
@[simp] theorem putSet_rho (t : Tile) (b : Bool) (v : AccSet) : (putSet t b v).rho = t.rho := rfl
@[simp] theorem putSet_arrFree (t : Tile) (b : Bool) (v : AccSet) : (putSet t b v).arrFree = t.arrFree := rfl
@[simp] theorem putSet_laneFree (t : Tile) (b : Bool) (v : AccSet) : (putSet t b v).laneFree = t.laneFree := rfl
@[simp] theorem putSet_pipeFree (t : Tile) (b : Bool) (v : AccSet) : (putSet t b v).pipeFree = t.pipeFree := rfl
@[simp] theorem putSet_pltFree (t : Tile) (b : Bool) (v : AccSet) : (putSet t b v).pltFree = t.pltFree := rfl
@[simp] theorem putSet_due (t : Tile) (b : Bool) (v : AccSet) : (putSet t b v).due = t.due := rfl
@[simp] theorem putSet_fetches (t : Tile) (b : Bool) (v : AccSet) : (putSet t b v).fetches = t.fetches := rfl
@[simp] theorem putSet_sigs (t : Tile) (b : Bool) (v : AccSet) : (putSet t b v).sigs = t.sigs := rfl
@[simp] theorem putSet_turns (t : Tile) (b : Bool) (v : AccSet) : (putSet t b v).turns = t.turns := rfl
@[simp] theorem putSet_groups (t : Tile) (b : Bool) (v : AccSet) : (putSet t b v).groups = t.groups := rfl
@[simp] theorem putSet_stopped (t : Tile) (b : Bool) (v : AccSet) : (putSet t b v).stopped = t.stopped := rfl
@[simp] theorem putSet_clkOn (t : Tile) (b : Bool) (v : AccSet) : (putSet t b v).clkOn = t.clkOn := rfl
@[simp] theorem putSet_wakePend (t : Tile) (b : Bool) (v : AccSet) : (putSet t b v).wakePend = t.wakePend := rfl
@[simp] theorem putSet_inReset (t : Tile) (b : Bool) (v : AccSet) : (putSet t b v).inReset = t.inReset := rfl
@[simp] theorem putSet_wrapped (t : Tile) (b : Bool) (v : AccSet) : (putSet t b v).wrapped = t.wrapped := rfl
@[simp] theorem putSet_demotePend (t : Tile) (b : Bool) (v : AccSet) : (putSet t b v).demotePend = t.demotePend := rfl
@[simp] theorem putSet_demoted (t : Tile) (b : Bool) (v : AccSet) : (putSet t b v).demoted = t.demoted := rfl
@[simp] theorem putSet_trims (t : Tile) (b : Bool) (v : AccSet) : (putSet t b v).trims = t.trims := rfl
@[simp] theorem putSet_tally (t : Tile) (b : Bool) (v : AccSet) : (putSet t b v).tally = t.tally := rfl
@[simp] theorem putSet_events (t : Tile) (b : Bool) (v : AccSet) : (putSet t b v).events = t.events := rfl
@[simp] theorem putSet_wnan (t : Tile) (b : Bool) (v : AccSet) : (putSet t b v).wnan = t.wnan := rfl
@[simp] theorem putSet_watches (t : Tile) (b : Bool) (v : AccSet) : (putSet t b v).watches = t.watches := rfl
@[simp] theorem putSet_stale (t : Tile) (b : Bool) (v : AccSet) : (putSet t b v).stale = t.stale := rfl
@[simp] theorem putSet_lastBusy (t : Tile) (b : Bool) (v : AccSet) : (putSet t b v).lastBusy = t.lastBusy := rfl
@[simp] theorem putSet_gate0 (t : Tile) (b : Bool) (v : AccSet) : (putSet t b v).gate0 = t.gate0 := rfl
@[simp] theorem putSet_cal (t : Tile) (b : Bool) (v : AccSet) : (putSet t b v).cal = t.cal := rfl
@[simp] theorem putSet_crcAt (t : Tile) (b : Bool) (v : AccSet) : (putSet t b v).crcAt = t.crcAt := rfl
@[simp] theorem putSet_free (t : Tile) (b : Bool) (v : AccSet) : (putSet t b v).free = t.free := rfl

@[simp] theorem putRow_regs (t : Tile) (b : Bool) (row : Nat) (v : AccRow) : (putRow t b row v).regs = t.regs := rfl
@[simp] theorem putRow_store (t : Tile) (b : Bool) (row : Nat) (v : AccRow) : (putRow t b row v).store = t.store := rfl
@[simp] theorem putRow_engs (t : Tile) (b : Bool) (row : Nat) (v : AccRow) : (putRow t b row v).engs = t.engs := rfl
@[simp] theorem putRow_queues (t : Tile) (b : Bool) (row : Nat) (v : AccRow) : (putRow t b row v).queues = t.queues := rfl
@[simp] theorem putRow_port (t : Tile) (b : Bool) (row : Nat) (v : AccRow) : (putRow t b row v).port = t.port := rfl
@[simp] theorem putRow_stbd (t : Tile) (b : Bool) (row : Nat) (v : AccRow) : (putRow t b row v).stbd = t.stbd := rfl
@[simp] theorem putRow_bounded (t : Tile) (b : Bool) (row : Nat) (v : AccRow) : (putRow t b row v).bounded = t.bounded := rfl
@[simp] theorem putRow_retryQ (t : Tile) (b : Bool) (row : Nat) (v : AccRow) : (putRow t b row v).retryQ = t.retryQ := rfl
@[simp] theorem putRow_recompQ (t : Tile) (b : Bool) (row : Nat) (v : AccRow) : (putRow t b row v).recompQ = t.recompQ := rfl
@[simp] theorem putRow_sets (t : Tile) (b : Bool) (row : Nat) (v : AccRow) : (putRow t b row v).sets = t.sets := rfl
@[simp] theorem putRow_outReg (t : Tile) (b : Bool) (row : Nat) (v : AccRow) : (putRow t b row v).outReg = t.outReg := rfl
@[simp] theorem putRow_rho (t : Tile) (b : Bool) (row : Nat) (v : AccRow) : (putRow t b row v).rho = t.rho := rfl
@[simp] theorem putRow_arrFree (t : Tile) (b : Bool) (row : Nat) (v : AccRow) : (putRow t b row v).arrFree = t.arrFree := rfl
@[simp] theorem putRow_laneFree (t : Tile) (b : Bool) (row : Nat) (v : AccRow) : (putRow t b row v).laneFree = t.laneFree := rfl
@[simp] theorem putRow_pipeFree (t : Tile) (b : Bool) (row : Nat) (v : AccRow) : (putRow t b row v).pipeFree = t.pipeFree := rfl
@[simp] theorem putRow_pltFree (t : Tile) (b : Bool) (row : Nat) (v : AccRow) : (putRow t b row v).pltFree = t.pltFree := rfl
@[simp] theorem putRow_due (t : Tile) (b : Bool) (row : Nat) (v : AccRow) : (putRow t b row v).due = t.due := rfl
@[simp] theorem putRow_fetches (t : Tile) (b : Bool) (row : Nat) (v : AccRow) : (putRow t b row v).fetches = t.fetches := rfl
@[simp] theorem putRow_sigs (t : Tile) (b : Bool) (row : Nat) (v : AccRow) : (putRow t b row v).sigs = t.sigs := rfl
@[simp] theorem putRow_turns (t : Tile) (b : Bool) (row : Nat) (v : AccRow) : (putRow t b row v).turns = t.turns := rfl
@[simp] theorem putRow_groups (t : Tile) (b : Bool) (row : Nat) (v : AccRow) : (putRow t b row v).groups = t.groups := rfl
@[simp] theorem putRow_stopped (t : Tile) (b : Bool) (row : Nat) (v : AccRow) : (putRow t b row v).stopped = t.stopped := rfl
@[simp] theorem putRow_clkOn (t : Tile) (b : Bool) (row : Nat) (v : AccRow) : (putRow t b row v).clkOn = t.clkOn := rfl
@[simp] theorem putRow_wakePend (t : Tile) (b : Bool) (row : Nat) (v : AccRow) : (putRow t b row v).wakePend = t.wakePend := rfl
@[simp] theorem putRow_inReset (t : Tile) (b : Bool) (row : Nat) (v : AccRow) : (putRow t b row v).inReset = t.inReset := rfl
@[simp] theorem putRow_wrapped (t : Tile) (b : Bool) (row : Nat) (v : AccRow) : (putRow t b row v).wrapped = t.wrapped := rfl
@[simp] theorem putRow_demotePend (t : Tile) (b : Bool) (row : Nat) (v : AccRow) : (putRow t b row v).demotePend = t.demotePend := rfl
@[simp] theorem putRow_demoted (t : Tile) (b : Bool) (row : Nat) (v : AccRow) : (putRow t b row v).demoted = t.demoted := rfl
@[simp] theorem putRow_trims (t : Tile) (b : Bool) (row : Nat) (v : AccRow) : (putRow t b row v).trims = t.trims := rfl
@[simp] theorem putRow_tally (t : Tile) (b : Bool) (row : Nat) (v : AccRow) : (putRow t b row v).tally = t.tally := rfl
@[simp] theorem putRow_events (t : Tile) (b : Bool) (row : Nat) (v : AccRow) : (putRow t b row v).events = t.events := rfl
@[simp] theorem putRow_wnan (t : Tile) (b : Bool) (row : Nat) (v : AccRow) : (putRow t b row v).wnan = t.wnan := rfl
@[simp] theorem putRow_watches (t : Tile) (b : Bool) (row : Nat) (v : AccRow) : (putRow t b row v).watches = t.watches := rfl
@[simp] theorem putRow_stale (t : Tile) (b : Bool) (row : Nat) (v : AccRow) : (putRow t b row v).stale = t.stale := rfl
@[simp] theorem putRow_lastBusy (t : Tile) (b : Bool) (row : Nat) (v : AccRow) : (putRow t b row v).lastBusy = t.lastBusy := rfl
@[simp] theorem putRow_gate0 (t : Tile) (b : Bool) (row : Nat) (v : AccRow) : (putRow t b row v).gate0 = t.gate0 := rfl
@[simp] theorem putRow_cal (t : Tile) (b : Bool) (row : Nat) (v : AccRow) : (putRow t b row v).cal = t.cal := rfl
@[simp] theorem putRow_crcAt (t : Tile) (b : Bool) (row : Nat) (v : AccRow) : (putRow t b row v).crcAt = t.crcAt := rfl
@[simp] theorem putRow_free (t : Tile) (b : Bool) (row : Nat) (v : AccRow) : (putRow t b row v).free = t.free := rfl

@[simp] theorem putGroup_regs (t : Tile) (g : Nat) (v : Group) : (putGroup t g v).regs = t.regs := rfl
@[simp] theorem putGroup_store (t : Tile) (g : Nat) (v : Group) : (putGroup t g v).store = t.store := rfl
@[simp] theorem putGroup_engs (t : Tile) (g : Nat) (v : Group) : (putGroup t g v).engs = t.engs := rfl
@[simp] theorem putGroup_queues (t : Tile) (g : Nat) (v : Group) : (putGroup t g v).queues = t.queues := rfl
@[simp] theorem putGroup_port (t : Tile) (g : Nat) (v : Group) : (putGroup t g v).port = t.port := rfl
@[simp] theorem putGroup_stbd (t : Tile) (g : Nat) (v : Group) : (putGroup t g v).stbd = t.stbd := rfl
@[simp] theorem putGroup_bounded (t : Tile) (g : Nat) (v : Group) : (putGroup t g v).bounded = t.bounded := rfl
@[simp] theorem putGroup_retryQ (t : Tile) (g : Nat) (v : Group) : (putGroup t g v).retryQ = t.retryQ := rfl
@[simp] theorem putGroup_recompQ (t : Tile) (g : Nat) (v : Group) : (putGroup t g v).recompQ = t.recompQ := rfl
@[simp] theorem putGroup_sets (t : Tile) (g : Nat) (v : Group) : (putGroup t g v).sets = t.sets := rfl
@[simp] theorem putGroup_acc (t : Tile) (g : Nat) (v : Group) : (putGroup t g v).acc = t.acc := rfl
@[simp] theorem putGroup_outReg (t : Tile) (g : Nat) (v : Group) : (putGroup t g v).outReg = t.outReg := rfl
@[simp] theorem putGroup_rho (t : Tile) (g : Nat) (v : Group) : (putGroup t g v).rho = t.rho := rfl
@[simp] theorem putGroup_arrFree (t : Tile) (g : Nat) (v : Group) : (putGroup t g v).arrFree = t.arrFree := rfl
@[simp] theorem putGroup_laneFree (t : Tile) (g : Nat) (v : Group) : (putGroup t g v).laneFree = t.laneFree := rfl
@[simp] theorem putGroup_pipeFree (t : Tile) (g : Nat) (v : Group) : (putGroup t g v).pipeFree = t.pipeFree := rfl
@[simp] theorem putGroup_pltFree (t : Tile) (g : Nat) (v : Group) : (putGroup t g v).pltFree = t.pltFree := rfl
@[simp] theorem putGroup_due (t : Tile) (g : Nat) (v : Group) : (putGroup t g v).due = t.due := rfl
@[simp] theorem putGroup_fetches (t : Tile) (g : Nat) (v : Group) : (putGroup t g v).fetches = t.fetches := rfl
@[simp] theorem putGroup_sigs (t : Tile) (g : Nat) (v : Group) : (putGroup t g v).sigs = t.sigs := rfl
@[simp] theorem putGroup_turns (t : Tile) (g : Nat) (v : Group) : (putGroup t g v).turns = t.turns := rfl
@[simp] theorem putGroup_stopped (t : Tile) (g : Nat) (v : Group) : (putGroup t g v).stopped = t.stopped := rfl
@[simp] theorem putGroup_clkOn (t : Tile) (g : Nat) (v : Group) : (putGroup t g v).clkOn = t.clkOn := rfl
@[simp] theorem putGroup_wakePend (t : Tile) (g : Nat) (v : Group) : (putGroup t g v).wakePend = t.wakePend := rfl
@[simp] theorem putGroup_inReset (t : Tile) (g : Nat) (v : Group) : (putGroup t g v).inReset = t.inReset := rfl
@[simp] theorem putGroup_wrapped (t : Tile) (g : Nat) (v : Group) : (putGroup t g v).wrapped = t.wrapped := rfl
@[simp] theorem putGroup_demotePend (t : Tile) (g : Nat) (v : Group) : (putGroup t g v).demotePend = t.demotePend := rfl
@[simp] theorem putGroup_demoted (t : Tile) (g : Nat) (v : Group) : (putGroup t g v).demoted = t.demoted := rfl
@[simp] theorem putGroup_trims (t : Tile) (g : Nat) (v : Group) : (putGroup t g v).trims = t.trims := rfl
@[simp] theorem putGroup_tally (t : Tile) (g : Nat) (v : Group) : (putGroup t g v).tally = t.tally := rfl
@[simp] theorem putGroup_events (t : Tile) (g : Nat) (v : Group) : (putGroup t g v).events = t.events := rfl
@[simp] theorem putGroup_wnan (t : Tile) (g : Nat) (v : Group) : (putGroup t g v).wnan = t.wnan := rfl
@[simp] theorem putGroup_watches (t : Tile) (g : Nat) (v : Group) : (putGroup t g v).watches = t.watches := rfl
@[simp] theorem putGroup_stale (t : Tile) (g : Nat) (v : Group) : (putGroup t g v).stale = t.stale := rfl
@[simp] theorem putGroup_lastBusy (t : Tile) (g : Nat) (v : Group) : (putGroup t g v).lastBusy = t.lastBusy := rfl
@[simp] theorem putGroup_gate0 (t : Tile) (g : Nat) (v : Group) : (putGroup t g v).gate0 = t.gate0 := rfl
@[simp] theorem putGroup_cal (t : Tile) (g : Nat) (v : Group) : (putGroup t g v).cal = t.cal := rfl
@[simp] theorem putGroup_crcAt (t : Tile) (g : Nat) (v : Group) : (putGroup t g v).crcAt = t.crcAt := rfl
@[simp] theorem putGroup_free (t : Tile) (g : Nat) (v : Group) : (putGroup t g v).free = t.free := rfl

@[simp] theorem takeTurn_regs (t : Tile) (k : Nat) : (takeTurn t k).regs = t.regs := rfl
@[simp] theorem takeTurn_store (t : Tile) (k : Nat) : (takeTurn t k).store = t.store := rfl
@[simp] theorem takeTurn_engs (t : Tile) (k : Nat) : (takeTurn t k).engs = t.engs := rfl
@[simp] theorem takeTurn_queues (t : Tile) (k : Nat) : (takeTurn t k).queues = t.queues := rfl
@[simp] theorem takeTurn_port (t : Tile) (k : Nat) : (takeTurn t k).port = t.port := rfl
@[simp] theorem takeTurn_stbd (t : Tile) (k : Nat) : (takeTurn t k).stbd = t.stbd := rfl
@[simp] theorem takeTurn_bounded (t : Tile) (k : Nat) : (takeTurn t k).bounded = t.bounded := rfl
@[simp] theorem takeTurn_retryQ (t : Tile) (k : Nat) : (takeTurn t k).retryQ = t.retryQ := rfl
@[simp] theorem takeTurn_recompQ (t : Tile) (k : Nat) : (takeTurn t k).recompQ = t.recompQ := rfl
@[simp] theorem takeTurn_sets (t : Tile) (k : Nat) : (takeTurn t k).sets = t.sets := rfl
@[simp] theorem takeTurn_acc (t : Tile) (k : Nat) : (takeTurn t k).acc = t.acc := rfl
@[simp] theorem takeTurn_outReg (t : Tile) (k : Nat) : (takeTurn t k).outReg = t.outReg := rfl
@[simp] theorem takeTurn_rho (t : Tile) (k : Nat) : (takeTurn t k).rho = t.rho := rfl
@[simp] theorem takeTurn_arrFree (t : Tile) (k : Nat) : (takeTurn t k).arrFree = t.arrFree := rfl
@[simp] theorem takeTurn_laneFree (t : Tile) (k : Nat) : (takeTurn t k).laneFree = t.laneFree := rfl
@[simp] theorem takeTurn_pipeFree (t : Tile) (k : Nat) : (takeTurn t k).pipeFree = t.pipeFree := rfl
@[simp] theorem takeTurn_pltFree (t : Tile) (k : Nat) : (takeTurn t k).pltFree = t.pltFree := rfl
@[simp] theorem takeTurn_due (t : Tile) (k : Nat) : (takeTurn t k).due = t.due := rfl
@[simp] theorem takeTurn_fetches (t : Tile) (k : Nat) : (takeTurn t k).fetches = t.fetches := rfl
@[simp] theorem takeTurn_sigs (t : Tile) (k : Nat) : (takeTurn t k).sigs = t.sigs := rfl
@[simp] theorem takeTurn_groups (t : Tile) (k : Nat) : (takeTurn t k).groups = t.groups := rfl
@[simp] theorem takeTurn_stopped (t : Tile) (k : Nat) : (takeTurn t k).stopped = t.stopped := rfl
@[simp] theorem takeTurn_clkOn (t : Tile) (k : Nat) : (takeTurn t k).clkOn = t.clkOn := rfl
@[simp] theorem takeTurn_wakePend (t : Tile) (k : Nat) : (takeTurn t k).wakePend = t.wakePend := rfl
@[simp] theorem takeTurn_inReset (t : Tile) (k : Nat) : (takeTurn t k).inReset = t.inReset := rfl
@[simp] theorem takeTurn_wrapped (t : Tile) (k : Nat) : (takeTurn t k).wrapped = t.wrapped := rfl
@[simp] theorem takeTurn_demotePend (t : Tile) (k : Nat) : (takeTurn t k).demotePend = t.demotePend := rfl
@[simp] theorem takeTurn_demoted (t : Tile) (k : Nat) : (takeTurn t k).demoted = t.demoted := rfl
@[simp] theorem takeTurn_trims (t : Tile) (k : Nat) : (takeTurn t k).trims = t.trims := rfl
@[simp] theorem takeTurn_tally (t : Tile) (k : Nat) : (takeTurn t k).tally = t.tally := rfl
@[simp] theorem takeTurn_events (t : Tile) (k : Nat) : (takeTurn t k).events = t.events := rfl
@[simp] theorem takeTurn_wnan (t : Tile) (k : Nat) : (takeTurn t k).wnan = t.wnan := rfl
@[simp] theorem takeTurn_watches (t : Tile) (k : Nat) : (takeTurn t k).watches = t.watches := rfl
@[simp] theorem takeTurn_stale (t : Tile) (k : Nat) : (takeTurn t k).stale = t.stale := rfl
@[simp] theorem takeTurn_lastBusy (t : Tile) (k : Nat) : (takeTurn t k).lastBusy = t.lastBusy := rfl
@[simp] theorem takeTurn_gate0 (t : Tile) (k : Nat) : (takeTurn t k).gate0 = t.gate0 := rfl
@[simp] theorem takeTurn_cal (t : Tile) (k : Nat) : (takeTurn t k).cal = t.cal := rfl
@[simp] theorem takeTurn_crcAt (t : Tile) (k : Nat) : (takeTurn t k).crcAt = t.crcAt := rfl
@[simp] theorem takeTurn_free (t : Tile) (k : Nat) : (takeTurn t k).free = t.free := rfl

@[simp] theorem tileFree_regs (t : Tile) : (tileFree t).regs = t.regs := rfl
@[simp] theorem tileFree_store (t : Tile) : (tileFree t).store = t.store := rfl
@[simp] theorem tileFree_engs (t : Tile) : (tileFree t).engs = t.engs := rfl
@[simp] theorem tileFree_queues (t : Tile) : (tileFree t).queues = t.queues := rfl
@[simp] theorem tileFree_port (t : Tile) : (tileFree t).port = t.port := rfl
@[simp] theorem tileFree_stbd (t : Tile) : (tileFree t).stbd = t.stbd := rfl
@[simp] theorem tileFree_bounded (t : Tile) : (tileFree t).bounded = t.bounded := rfl
@[simp] theorem tileFree_retryQ (t : Tile) : (tileFree t).retryQ = t.retryQ := rfl
@[simp] theorem tileFree_recompQ (t : Tile) : (tileFree t).recompQ = t.recompQ := rfl
@[simp] theorem tileFree_sets (t : Tile) : (tileFree t).sets = t.sets := rfl
@[simp] theorem tileFree_acc (t : Tile) : (tileFree t).acc = t.acc := rfl
@[simp] theorem tileFree_outReg (t : Tile) : (tileFree t).outReg = t.outReg := rfl
@[simp] theorem tileFree_rho (t : Tile) : (tileFree t).rho = t.rho := rfl
@[simp] theorem tileFree_arrFree (t : Tile) : (tileFree t).arrFree = t.arrFree := rfl
@[simp] theorem tileFree_laneFree (t : Tile) : (tileFree t).laneFree = t.laneFree := rfl
@[simp] theorem tileFree_pipeFree (t : Tile) : (tileFree t).pipeFree = t.pipeFree := rfl
@[simp] theorem tileFree_pltFree (t : Tile) : (tileFree t).pltFree = t.pltFree := rfl
@[simp] theorem tileFree_due (t : Tile) : (tileFree t).due = t.due := rfl
@[simp] theorem tileFree_fetches (t : Tile) : (tileFree t).fetches = t.fetches := rfl
@[simp] theorem tileFree_sigs (t : Tile) : (tileFree t).sigs = t.sigs := rfl
@[simp] theorem tileFree_turns (t : Tile) : (tileFree t).turns = t.turns := rfl
@[simp] theorem tileFree_groups (t : Tile) : (tileFree t).groups = t.groups := rfl
@[simp] theorem tileFree_stopped (t : Tile) : (tileFree t).stopped = t.stopped := rfl
@[simp] theorem tileFree_clkOn (t : Tile) : (tileFree t).clkOn = t.clkOn := rfl
@[simp] theorem tileFree_wakePend (t : Tile) : (tileFree t).wakePend = t.wakePend := rfl
@[simp] theorem tileFree_inReset (t : Tile) : (tileFree t).inReset = t.inReset := rfl
@[simp] theorem tileFree_wrapped (t : Tile) : (tileFree t).wrapped = t.wrapped := rfl
@[simp] theorem tileFree_demotePend (t : Tile) : (tileFree t).demotePend = t.demotePend := rfl
@[simp] theorem tileFree_demoted (t : Tile) : (tileFree t).demoted = t.demoted := rfl
@[simp] theorem tileFree_trims (t : Tile) : (tileFree t).trims = t.trims := rfl
@[simp] theorem tileFree_tally (t : Tile) : (tileFree t).tally = t.tally := rfl
@[simp] theorem tileFree_events (t : Tile) : (tileFree t).events = t.events := rfl
@[simp] theorem tileFree_wnan (t : Tile) : (tileFree t).wnan = t.wnan := rfl
@[simp] theorem tileFree_watches (t : Tile) : (tileFree t).watches = t.watches := rfl
@[simp] theorem tileFree_stale (t : Tile) : (tileFree t).stale = t.stale := rfl
@[simp] theorem tileFree_lastBusy (t : Tile) : (tileFree t).lastBusy = t.lastBusy := rfl
@[simp] theorem tileFree_gate0 (t : Tile) : (tileFree t).gate0 = t.gate0 := rfl
@[simp] theorem tileFree_cal (t : Tile) : (tileFree t).cal = t.cal := rfl
@[simp] theorem tileFree_crcAt (t : Tile) : (tileFree t).crcAt = t.crcAt := rfl

@[simp] theorem swrite_regs (t : Tile) (a : Nat) (bs : List Byte) : (swrite t a bs).regs = t.regs := by unfold swrite; split <;> rfl
/-- A write of tile store changes the engines only by the words that they hold. -/
@[simp] theorem swrite_engs (t : Tile) (a : Nat) (bs : List Byte) :
    (swrite t a bs).engs = t.engs.zipIdx.map fun q => { q.1 with held := heldAfter t a bs.length q.2 q.1 } := by
  unfold swrite; split <;> rfl
@[simp] theorem swrite_queues (t : Tile) (a : Nat) (bs : List Byte) : (swrite t a bs).queues = t.queues := by unfold swrite; split <;> rfl
@[simp] theorem swrite_port (t : Tile) (a : Nat) (bs : List Byte) : (swrite t a bs).port = t.port := by unfold swrite; split <;> rfl
@[simp] theorem swrite_stbd (t : Tile) (a : Nat) (bs : List Byte) : (swrite t a bs).stbd = t.stbd := by unfold swrite; split <;> rfl
@[simp] theorem swrite_bounded (t : Tile) (a : Nat) (bs : List Byte) : (swrite t a bs).bounded = t.bounded := by unfold swrite; split <;> rfl
@[simp] theorem swrite_retryQ (t : Tile) (a : Nat) (bs : List Byte) : (swrite t a bs).retryQ = t.retryQ := by unfold swrite; split <;> rfl
@[simp] theorem swrite_recompQ (t : Tile) (a : Nat) (bs : List Byte) : (swrite t a bs).recompQ = t.recompQ := by unfold swrite; split <;> rfl
@[simp] theorem swrite_sets (t : Tile) (a : Nat) (bs : List Byte) : (swrite t a bs).sets = t.sets := by unfold swrite; split <;> rfl
@[simp] theorem swrite_acc (t : Tile) (a : Nat) (bs : List Byte) : (swrite t a bs).acc = t.acc := by unfold swrite; split <;> rfl
@[simp] theorem swrite_outReg (t : Tile) (a : Nat) (bs : List Byte) : (swrite t a bs).outReg = t.outReg := by unfold swrite; split <;> rfl
@[simp] theorem swrite_rho (t : Tile) (a : Nat) (bs : List Byte) : (swrite t a bs).rho = t.rho := by unfold swrite; split <;> rfl
@[simp] theorem swrite_arrFree (t : Tile) (a : Nat) (bs : List Byte) : (swrite t a bs).arrFree = t.arrFree := by unfold swrite; split <;> rfl
@[simp] theorem swrite_laneFree (t : Tile) (a : Nat) (bs : List Byte) : (swrite t a bs).laneFree = t.laneFree := by unfold swrite; split <;> rfl
@[simp] theorem swrite_pipeFree (t : Tile) (a : Nat) (bs : List Byte) : (swrite t a bs).pipeFree = t.pipeFree := by unfold swrite; split <;> rfl
@[simp] theorem swrite_pltFree (t : Tile) (a : Nat) (bs : List Byte) : (swrite t a bs).pltFree = t.pltFree := by unfold swrite; split <;> rfl
@[simp] theorem swrite_due (t : Tile) (a : Nat) (bs : List Byte) : (swrite t a bs).due = t.due := by unfold swrite; split <;> rfl
@[simp] theorem swrite_fetches (t : Tile) (a : Nat) (bs : List Byte) : (swrite t a bs).fetches = t.fetches := by unfold swrite; split <;> rfl
@[simp] theorem swrite_sigs (t : Tile) (a : Nat) (bs : List Byte) : (swrite t a bs).sigs = t.sigs := by unfold swrite; split <;> rfl
@[simp] theorem swrite_turns (t : Tile) (a : Nat) (bs : List Byte) : (swrite t a bs).turns = t.turns := by unfold swrite; split <;> rfl
@[simp] theorem swrite_groups (t : Tile) (a : Nat) (bs : List Byte) : (swrite t a bs).groups = t.groups := by unfold swrite; split <;> rfl
@[simp] theorem swrite_stopped (t : Tile) (a : Nat) (bs : List Byte) : (swrite t a bs).stopped = t.stopped := by unfold swrite; split <;> rfl
@[simp] theorem swrite_clkOn (t : Tile) (a : Nat) (bs : List Byte) : (swrite t a bs).clkOn = t.clkOn := by unfold swrite; split <;> rfl
@[simp] theorem swrite_wakePend (t : Tile) (a : Nat) (bs : List Byte) : (swrite t a bs).wakePend = t.wakePend := by unfold swrite; split <;> rfl
@[simp] theorem swrite_inReset (t : Tile) (a : Nat) (bs : List Byte) : (swrite t a bs).inReset = t.inReset := by unfold swrite; split <;> rfl
@[simp] theorem swrite_wrapped (t : Tile) (a : Nat) (bs : List Byte) : (swrite t a bs).wrapped = t.wrapped := by unfold swrite; split <;> rfl
@[simp] theorem swrite_demotePend (t : Tile) (a : Nat) (bs : List Byte) : (swrite t a bs).demotePend = t.demotePend := by unfold swrite; split <;> rfl
@[simp] theorem swrite_demoted (t : Tile) (a : Nat) (bs : List Byte) : (swrite t a bs).demoted = t.demoted := by unfold swrite; split <;> rfl
@[simp] theorem swrite_trims (t : Tile) (a : Nat) (bs : List Byte) : (swrite t a bs).trims = t.trims := by unfold swrite; split <;> rfl
@[simp] theorem swrite_tally (t : Tile) (a : Nat) (bs : List Byte) : (swrite t a bs).tally = t.tally := by unfold swrite; split <;> rfl
@[simp] theorem swrite_events (t : Tile) (a : Nat) (bs : List Byte) : (swrite t a bs).events = t.events := by unfold swrite; split <;> rfl
@[simp] theorem swrite_wnan (t : Tile) (a : Nat) (bs : List Byte) : (swrite t a bs).wnan = t.wnan := by unfold swrite; split <;> rfl
@[simp] theorem swrite_lastBusy (t : Tile) (a : Nat) (bs : List Byte) : (swrite t a bs).lastBusy = t.lastBusy := by unfold swrite; split <;> rfl
@[simp] theorem swrite_gate0 (t : Tile) (a : Nat) (bs : List Byte) : (swrite t a bs).gate0 = t.gate0 := by unfold swrite; split <;> rfl
@[simp] theorem swrite_cal (t : Tile) (a : Nat) (bs : List Byte) : (swrite t a bs).cal = t.cal := by unfold swrite; split <;> rfl
@[simp] theorem swrite_crcAt (t : Tile) (a : Nat) (bs : List Byte) : (swrite t a bs).crcAt = t.crcAt := by unfold swrite; split <;> rfl

end Sys2Proof.Machine
end

