-- ==== Sys2Proof/Laws/Regs.lean ====
section
/-!
SUPPORT. Registers and stacks: a field reads what was put into it, every other field reads as before, and what the
named updates of tiles and stacks answer when they are read back.
-/

namespace Sys2Proof.Machine

/-! ### Tile registers -/

theorem tileReg_setTileReg (t : Tile) (a b : Nat) (w : Word) :
    tileReg (setTileReg t a w) b = if b = a then w else tileReg t b := mapGet_mapSet _ _ _ _ _

/-- A field of a tile register reads what was put into it. -/
theorem tget_tput_same (t : Tile) (f : Fld) (v i : Nat) (h : f.fits = true) :
    tget (tput t f v i) f i = v % 2 ^ f.width := by
  simp only [tget, tput, tileReg_setTileReg, if_true, fldOf_fldPut _ _ _ h]

/-- A put leaves the fields of other registers, and the fields apart from it, alone. -/
theorem tget_tput_other (t : Tile) (f g : Fld) (v i j : Nat) (hg : g.fits = true)
    (h : f.off + f.stride * i ≠ g.off + g.stride * j ∨ f.apart g = true) :
    tget (tput t g v j) f i = tget t f i := by
  simp only [tget, tput, tileReg_setTileReg]
  split
  · rename_i he
    rcases h with h | h
    · exact absurd he h
    · rw [fldOf_fldPut_apart _ _ _ _ hg h, he]
  · rfl

theorem tget_lt (t : Tile) (f : Fld) (i : Nat) : tget t f i < 2 ^ f.width := fldOf_lt _ _

/-- What does not touch a tile's registers leaves every field alone. -/
theorem tget_congr (t u : Tile) (h : u.regs = t.regs) (f : Fld) (i : Nat) : tget u f i = tget t f i := by
  simp only [tget, tileReg, h]

/-! ### Registers of the control region -/

theorem rword_setRword (s : State) (k k' a b : Nat) (w : Word) :
    rword (setRword s k a w) k' b = if regKey k' b = regKey k a then w else rword s k' b :=
  mapGet_mapSet _ _ _ _ _

/-- A field of a register of the control region reads what was put into it. -/
theorem rget_rput_same (s : State) (k : Nat) (f : Fld) (v i : Nat) (h : f.fits = true) :
    rget (rput s k f v i) k f i = v % 2 ^ f.width := by
  simp only [rget, rput, rword_setRword, if_true, fldOf_fldPut _ _ _ h]

/-- A put leaves the fields of other registers, and the fields apart from it, alone. -/
theorem rget_rput_other (s : State) (k k' : Nat) (f g : Fld) (v i j : Nat) (hg : g.fits = true)
    (h : regKey k' (f.off + f.stride * i) ≠ regKey k (g.off + g.stride * j) ∨ f.apart g = true) :
    rget (rput s k g v j) k' f i = rget s k' f i := by
  simp only [rget, rput, rword_setRword]
  split
  · rename_i he
    rcases h with h | h
    · exact absurd he h
    · rw [fldOf_fldPut_apart _ _ _ _ hg h]
      simp only [rword, he]
  · rfl

/-- Registers of two stacks never share a key. -/
theorem regKey_ne_stack (k k' a b : Nat) (h : k ≠ k') (ha : a < 2 ^ 21) (hb : b < 2 ^ 21) :
    regKey k a ≠ regKey k' b := by
  unfold regKey; omega

theorem regKey_inj (k a b : Nat) : regKey k a = regKey k b ↔ a = b := by unfold regKey; omega

theorem rget_lt (s : State) (k : Nat) (f : Fld) (i : Nat) : rget s k f i < 2 ^ f.width := fldOf_lt _ _

/-- What does not touch the registers leaves every field alone. -/
theorem rget_congr (s t : State) (h : t.regs = s.regs) (k : Nat) (f : Fld) (i : Nat) : rget t k f i = rget s k f i := by
  simp only [rget, rword, h]

theorem ron_congr (s t : State) (h : t.regs = s.regs) (k : Nat) (f : Fld) (i : Nat) : ron t k f i = ron s k f i := by
  simp only [ron, rget_congr s t h]

theorem siteOf_congr (s t : State) (h : t.regs = s.regs) (k l : Nat) : siteOf t k l = siteOf s k l := by
  simp only [siteOf, ron_congr s t h, rget_congr s t h]

/-! ### Tiles and stacks -/

@[simp] theorem tileAt_putTile (s : State) (k site : Nat) (t : Tile) : tileAt (putTile s k site t) k site = t :=
  mapGet_mapSet_same _ _ _ _

theorem tileAt_putTile_ne (s : State) (k site k' site' : Nat) (t : Tile) (h : tileKey k' site' ≠ tileKey k site) :
    tileAt (putTile s k site t) k' site' = tileAt s k' site' := mapGet_mapSet_ne _ _ _ _ _ h

theorem tileAt_congr (s t : State) (h : t.tiles = s.tiles) (k site : Nat) : tileAt t k site = tileAt s k site := by
  simp only [tileAt, h]

theorem stkOf_putStk (s : State) (k : Nat) (v : StackSt) (h : k < s.stk.length) : stkOf (putStk s k v) k = v := by
  simp [stkOf, putStk, h]

theorem stkOf_putStk_ne (s : State) (k k' : Nat) (v : StackSt) (h : k' ≠ k) :
    stkOf (putStk s k v) k' = stkOf s k' := by
  simp [stkOf, putStk, List.getD_eq_getElem?_getD, List.getElem?_set_ne (Ne.symm h)]

theorem stkOf_congr (s t : State) (h : t.stk = s.stk) (k : Nat) : stkOf t k = stkOf s k := by
  simp only [stkOf, h]

end Sys2Proof.Machine
end

