-- ==== Sys2Proof/Laws/TileSafe.lean ====
section
/-!
SUPPORT. Every operation on a tile keeps the tile's tables canonical and its lists at their number (`tileSafe`).
-/

namespace Sys2Proof.Machine

/-- The tables and lists of a tile as a safe machine has them. -/
structure TileParts (t : Tile) : Prop where
  regs : mapWf tileRegReset t.regs = true
  store : memWf t.store = true
  queues : mapWf queueReset t.queues = true
  acc : mapWf (fun _ => AccRow.zero) t.acc = true
  engs : t.engs.length = 5
  sets : t.sets.length = 2
  groups : t.groups.length = 4

theorem tileSafe_iff (t : Tile) : tileSafe t = true ↔ TileParts t := by
  simp only [tileSafe, Bool.and_eq_true, decide_eq_true_eq]
  exact ⟨fun ⟨⟨⟨⟨⟨⟨a, b⟩, c⟩, d⟩, e⟩, f⟩, g⟩ => ⟨a, b, c, d, e, f, g⟩,
    fun h => ⟨⟨⟨⟨⟨⟨h.1, h.2⟩, h.3⟩, h.4⟩, h.5⟩, h.6⟩, h.7⟩⟩

/-- A tile given part by part is safe when each part is that of a safe tile or is itself in order. -/
theorem tileSafe_upd {t : Tile}
    {regs : SMap Word}
    {store : Mem}
    {engs : List Eng}
    {queues : SMap TokQ}
    {port : Bank}
    {stbd : Bank}
    {bounded : Bool}
    {retryQ : List RetryEntry}
    {recompQ : List RetryEntry}
    {sets : List AccSet}
    {acc : SMap AccRow}
    {outReg : List (List Int)}
    {rho : Nat}
    {arrFree : Nat}
    {laneFree : Nat}
    {pipeFree : Nat}
    {pltFree : Nat}
    {due : List Due}
    {fetches : List FetchOp}
    {sigs : List SigOp}
    {turns : SMap Nat}
    {groups : List Group}
    {stopped : Bool}
    {clkOn : Bool}
    {wakePend : Bool}
    {inReset : Bool}
    {wrapped : Bool}
    {demotePend : Bool}
    {demoted : Bool}
    {trims : SMap Int}
    {tally : SMap (Int × Nat)}
    {events : List CheckEvent}
    {free : Nat}
    {wnan : Bool}
    {watches : List Watch}
    {stale : List (Nat × BitVec 9 × Dword)}
    {lastBusy : Nat}
    {gate0 : Nat}
    {cal : List (BitVec 656)}
    {crcAt : Option Dword}
    (h_regs : regs = t.regs ∨ (mapWf tileRegReset t.regs = true → mapWf tileRegReset regs = true))
    (h_store : store = t.store ∨ (memWf t.store = true → memWf store = true))
    (h_queues : queues = t.queues ∨ (mapWf queueReset t.queues = true → mapWf queueReset queues = true))
    (h_acc : acc = t.acc ∨ (mapWf (fun _ => AccRow.zero) t.acc = true → mapWf (fun _ => AccRow.zero) acc = true))
    (h_engs : engs = t.engs ∨ (t.engs.length = 5 → engs.length = 5))
    (h_sets : sets = t.sets ∨ (t.sets.length = 2 → sets.length = 2))
    (h_groups : groups = t.groups ∨ (t.groups.length = 4 → groups.length = 4))
    (h : tileSafe t = true) :
    tileSafe ⟨regs, store, engs, queues, port, stbd, bounded, retryQ, recompQ, sets, acc, outReg, rho, arrFree, laneFree, pipeFree, pltFree, due, fetches, sigs, turns, groups, stopped, clkOn, wakePend, inReset, wrapped, demotePend, demoted, trims, tally, events, free, wnan, watches, stale, lastBusy, gate0, cal, crcAt⟩ = true := by
  rw [tileSafe_iff] at *
  constructor
  · rcases h_regs with rfl | g
    · exact h.regs
    · exact g h.regs
  · rcases h_store with rfl | g
    · exact h.store
    · exact g h.store
  · rcases h_queues with rfl | g
    · exact h.queues
    · exact g h.queues
  · rcases h_acc with rfl | g
    · exact h.acc
    · exact g h.acc
  · rcases h_engs with rfl | g
    · exact h.engs
    · exact g h.engs
  · rcases h_sets with rfl | g
    · exact h.sets
    · exact g h.sets
  · rcases h_groups with rfl | g
    · exact h.groups
    · exact g h.groups

theorem foldl_safe {β : Type} (l : List β) (g : Tile → β → Tile)
    (hg : ∀ u x, tileSafe u = true → tileSafe (g u x) = true) (t : Tile) (h : tileSafe t = true) :
    tileSafe (l.foldl g t) = true := by
  induction l generalizing t with
  | nil => exact h
  | cons x l ih => exact ih _ (hg t x h)

theorem ite_safe {c : Prop} [Decidable c] {a b : Tile} (ha : tileSafe a = true) (hb : tileSafe b = true) :
    tileSafe (if c then a else b) = true := by split <;> assumption

/-- What an opcode's unit answers is safe when it is given a safe tile. -/
def UnitSafe (u : OpUnit) : Prop := ∀ c t f, tileSafe t = true → tileSafe (u.run c t f).1 = true

theorem setTileReg_safe (t : Tile) (off : Nat) (w : Word) (h : tileSafe t = true) : tileSafe (setTileReg t off w) = true := by
  unfold setTileReg
  repeat' first
    | with_reducible assumption
    | with_reducible apply tileSafe_upd
    | with_reducible exact .inl rfl
    | with_reducible exact .inr fun h => mapSet_wf _ _ _ _ h

theorem tput_safe (t : Tile) (f : Fld) (v : Nat) (i : Nat) (h : tileSafe t = true) : tileSafe (tput t f v i) = true := by
  unfold tput
  repeat' first
    | with_reducible assumption
    | with_reducible apply setTileReg_safe

theorem tbump_safe (t : Tile) (f : Fld) (n : Nat) (h : tileSafe t = true) : tileSafe (tbump t f n) = true := by
  unfold tbump
  repeat' first
    | with_reducible assumption
    | with_reducible apply tput_safe

theorem setEng_safe (t : Tile) (e : Engine) (g : Eng) (h : tileSafe t = true) : tileSafe (setEng t e g) = true := by
  unfold setEng
  repeat' first
    | with_reducible assumption
    | with_reducible apply tileSafe_upd
    | with_reducible exact .inl rfl
    | exact .inr fun h => by simpa only [List.length_set, List.length_map] using h

theorem setGp_safe (t : Tile) (e : Engine) (n : Nat) (v : Dword) (h : tileSafe t = true) : tileSafe (setGp t e n v) = true := by
  unfold setGp
  repeat' first
    | with_reducible assumption
    | with_reducible apply setEng_safe
    | with_reducible apply ite_safe
    | with_reducible apply tileSafe_upd
    | with_reducible exact .inl rfl

theorem setPc_safe (t : Tile) (e : Engine) (v : BitVec 9) (h : tileSafe t = true) : tileSafe (setPc t e v) = true := by
  unfold setPc
  repeat' first
    | with_reducible assumption
    | with_reducible apply tput_safe

theorem setEngState_safe (t : Tile) (e : Engine) (st : Nat) (h : tileSafe t = true) : tileSafe (setEngState t e st) = true := by
  unfold setEngState
  repeat' first
    | with_reducible assumption
    | with_reducible apply setEng_safe
    | with_reducible apply tileSafe_upd
    | with_reducible exact .inl rfl

theorem noteWrite_safe (t : Tile) (a : Nat) (bs : List Byte) (h : tileSafe t = true) : tileSafe (noteWrite t a bs) = true := by
  unfold noteWrite
  exact tileSafe_upd (h := h) (.inl rfl) (.inl rfl) (.inl rfl) (.inl rfl)
    (.inr fun h => by simpa only [List.length_map, List.length_zipIdx] using h) (.inl rfl) (.inl rfl)

theorem useFree_safe (t : Tile) (n : Nat) (h : tileSafe t = true) : tileSafe (useFree t n) = true := by
  unfold useFree
  repeat' first
    | with_reducible assumption
    | with_reducible apply tileSafe_upd
    | with_reducible exact .inl rfl

theorem swrite_safe (t : Tile) (a : Nat) (bs : List Byte) (h : tileSafe t = true) : tileSafe (swrite t a bs) = true := by
  unfold swrite
  repeat' first
    | with_reducible assumption
    | with_reducible apply noteWrite_safe
    | with_reducible apply ite_safe
    | with_reducible apply tileSafe_upd
    | with_reducible exact .inl rfl
    | exact .inr fun h => memWrite_wf _ _ _ h

theorem undefine_safe (r : TileRef) (t : Tile) (a n : Nat) (h : tileSafe t = true) : tileSafe (undefine r t a n) = true := by
  unfold undefine
  repeat' first
    | with_reducible assumption
    | with_reducible apply useFree_safe
    | with_reducible apply swrite_safe

theorem orFlags_safe (t : Tile) (a : Nat) (format clipped : Bool) (h : tileSafe t = true) : tileSafe (orFlags t a format clipped) = true := by
  unfold orFlags
  repeat' first
    | with_reducible assumption
    | with_reducible apply swrite_safe
    | with_reducible apply ite_safe

theorem busyAt_safe (t : Tile) (now : Nat) (h : tileSafe t = true) : tileSafe (busyAt t now) = true := by
  unfold busyAt
  repeat' first
    | with_reducible assumption
    | with_reducible apply tileSafe_upd
    | with_reducible exact .inl rfl

theorem addWatch_safe (t : Tile) (r : TileRef) (id : Nat) (any : Bool) (ranges : List (Nat × Nat)) (h : tileSafe t = true) : tileSafe (addWatch t r id any ranges) = true := by
  unfold addWatch
  repeat' first
    | with_reducible assumption
    | with_reducible apply tileSafe_upd
    | with_reducible exact .inl rfl

theorem setQueue_safe (t : Tile) (q : Nat) (v : TokQ) (h : tileSafe t = true) : tileSafe (setQueue t q v) = true := by
  unfold setQueue
  repeat' first
    | with_reducible assumption
    | with_reducible apply tileSafe_upd
    | with_reducible exact .inl rfl
    | with_reducible exact .inr fun h => mapSet_wf _ _ _ _ h

theorem popToken_safe (t : Tile) (q now : Nat) (h : tileSafe t = true) : tileSafe (popToken t q now) = true := by
  unfold popToken
  repeat' first
    | with_reducible assumption
    | with_reducible apply setQueue_safe
    | with_reducible apply tileSafe_upd
    | with_reducible exact .inl rfl

theorem reservePlace_safe (t : Tile) (q : Nat) (h : tileSafe t = true) : tileSafe (reservePlace t q) = true := by
  unfold reservePlace
  repeat' first
    | with_reducible assumption
    | with_reducible apply setQueue_safe
    | with_reducible apply tileSafe_upd
    | with_reducible exact .inl rfl

theorem writeToken_safe (t : Tile) (q : Nat) (value : Half) (now : Nat) (h : tileSafe t = true) : tileSafe (writeToken t q value now) = true := by
  unfold writeToken
  repeat' first
    | with_reducible assumption
    | with_reducible apply setQueue_safe
    | with_reducible apply tileSafe_upd
    | with_reducible exact .inl rfl

theorem later_safe (t : Tile) (at_ : Nat) (eff : Effect) (h : tileSafe t = true) : tileSafe (later t at_ eff) = true := by
  unfold later
  repeat' first
    | with_reducible assumption
    | with_reducible apply tileSafe_upd
    | with_reducible exact .inl rfl

/-- Clearing the reservations of the queues keeps their table canonical. -/
theorem clearResv_wf (m : SMap TokQ) (h : mapWf queueReset m = true) :
    mapWf queueReset ((m.map fun p => (p.1, { p.2 with resv := 0 })).filter fun p => p.2 ≠ queueReset p.1) = true := by
  rw [mapWf_iff] at *
  refine ⟨(List.pairwise_map.2 ?_).filter _, fun p hp => ?_⟩
  · exact h.1
  · simpa using (List.mem_filter.1 hp).2

theorem tileFault_safe (t : Tile) (cause : Cause) (eng : Nat) (pc : BitVec 9) (h : tileSafe t = true) :
    tileSafe (tileFault t cause eng pc) = true := by
  have h1 : tileSafe (if tget t TIL_FAULT_VALID = 1 then tput t TIL_FAULT_MULTI 1
      else tput (tput (tput (tput t TIL_FAULT_CAUSE (causeCode cause)) TIL_FAULT_ENGINE eng) TIL_FAULT_PC pc.toNat)
        TIL_FAULT_VALID 1) = true := by
    split
    · exact tput_safe _ _ _ _ h
    · exact tput_safe _ _ _ _ (tput_safe _ _ _ _ (tput_safe _ _ _ _ (tput_safe _ _ _ _ h)))
  unfold tileFault
  exact tileSafe_upd (h := h1) (.inl rfl) (.inl rfl) (.inr (clearResv_wf _)) (.inl rfl)
    (.inr fun h => by simpa only [List.length_map] using h) (.inl rfl) (.inl rfl)

theorem arrFault_safe (t : Tile) (f : Fld) (bank : Bool) (eng : Nat) (pc : BitVec 9) (h : tileSafe t = true) : tileSafe (arrFault t f bank eng pc) = true := by
  unfold arrFault
  repeat' first
    | with_reducible assumption
    | with_reducible apply tileFault_safe
    | with_reducible apply tput_safe

theorem sidFault_safe (t : Tile) (f : Fld) (set : Bool) (row : Nat) (eng : Nat) (pc : BitVec 9) (h : tileSafe t = true) : tileSafe (sidFault t f set row eng pc) = true := by
  unfold sidFault
  repeat' first
    | with_reducible assumption
    | with_reducible apply tileFault_safe
    | with_reducible apply tput_safe

theorem setBank_safe (t : Tile) (b : Bool) (v : Bank) (h : tileSafe t = true) : tileSafe (setBank t b v) = true := by
  unfold setBank
  repeat' first
    | with_reducible assumption
    | with_reducible apply ite_safe
    | with_reducible apply tileSafe_upd
    | with_reducible exact .inl rfl

theorem bankToken_safe (t : Tile) (b : Bool) (now : Nat) (h : tileSafe t = true) : tileSafe (bankToken t b now) = true := by
  unfold bankToken
  repeat' first
    | with_reducible assumption
    | with_reducible apply setBank_safe
    | with_reducible apply setQueue_safe
    | with_reducible apply ite_safe
    | with_reducible apply tileSafe_upd
    | with_reducible exact .inl rfl

theorem bankTokens_safe (t : Tile) (now : Nat) (h : tileSafe t = true) : tileSafe (bankTokens t now) = true := by
  unfold bankTokens
  repeat' first
    | with_reducible assumption
    | with_reducible apply bankToken_safe

theorem putSet_safe (t : Tile) (s : Bool) (v : AccSet) (h : tileSafe t = true) : tileSafe (putSet t s v) = true := by
  unfold putSet
  repeat' first
    | with_reducible assumption
    | with_reducible apply tileSafe_upd
    | with_reducible exact .inl rfl
    | exact .inr fun h => by simpa only [List.length_set, List.length_map] using h

theorem putRow_safe (t : Tile) (s : Bool) (row : Nat) (v : AccRow) (h : tileSafe t = true) : tileSafe (putRow t s row v) = true := by
  unfold putRow
  repeat' first
    | with_reducible assumption
    | with_reducible apply tileSafe_upd
    | with_reducible exact .inl rfl
    | with_reducible exact .inr fun h => mapSet_wf _ _ _ _ h

theorem tileFree_safe (t : Tile) (h : tileSafe t = true) : tileSafe (tileFree t) = true := by
  unfold tileFree
  repeat' first
    | with_reducible assumption
    | with_reducible apply tileSafe_upd
    | with_reducible exact .inl rfl

theorem waited_safe (c : Ctx) (t : Tile) (h : tileSafe t = true) : tileSafe (waited c t) = true := by
  unfold waited
  repeat' first
    | with_reducible assumption
    | with_reducible apply tileFree_safe
    | with_reducible apply tbump_safe

theorem settleRow_safe (t : Tile) (set : Bool) (row now : Nat) (h : tileSafe t = true) : tileSafe (settleRow t set row now) = true := by
  unfold settleRow
  repeat' first
    | with_reducible assumption
    | with_reducible apply putRow_safe
    | with_reducible apply ite_safe

theorem formatSet_safe (t : Tile) (set : Bool) (h : tileSafe t = true) : tileSafe (formatSet t set) = true := by
  unfold formatSet
  repeat' first
    | with_reducible assumption
    | with_reducible apply putRow_safe
    | with_reducible apply foldl_safe
    | intro _ _ _
    | with_reducible apply tileSafe_upd
    | with_reducible exact .inl rfl

theorem addPartials_safe (t : Tile) (j : MvmJob) (now : Nat) (h : tileSafe t = true) : tileSafe (addPartials t j now) = true := by
  unfold addPartials
  repeat' first
    | with_reducible assumption
    | with_reducible apply putRow_safe
    | with_reducible apply formatSet_safe
    | with_reducible apply tput_safe
    | with_reducible apply settleRow_safe
    | with_reducible apply ite_safe
    | (extract_lets x; clear_value x)
    | with_reducible apply tileSafe_upd
    | with_reducible exact .inl rfl

theorem addCorrection_safe (t : Tile) (e : RetryEntry) (delta : List (Nat × Int)) (eng : Nat) (pc : BitVec 9) (now : Nat) (h : tileSafe t = true) : tileSafe (addCorrection t e delta eng pc now) = true := by
  unfold addCorrection
  repeat' first
    | with_reducible assumption
    | with_reducible apply settleRow_safe
    | with_reducible apply sidFault_safe
    | with_reducible apply putRow_safe
    | with_reducible apply ite_safe
    | with_reducible apply tileSafe_upd
    | with_reducible exact .inl rfl

theorem checkEvent_safe (t : Tile) (e : RetryEntry) (repeated : Bool) (h : tileSafe t = true) : tileSafe (checkEvent t e repeated) = true := by
  unfold checkEvent
  repeat' first
    | with_reducible assumption
    | with_reducible apply tileSafe_upd
    | with_reducible exact .inl rfl

theorem passToRecompute_safe (t : Tile) (e : RetryEntry) (eng : Nat) (pc : BitVec 9) (h : tileSafe t = true) : tileSafe (passToRecompute t e eng pc) = true := by
  unfold passToRecompute
  repeat' first
    | with_reducible assumption
    | with_reducible apply sidFault_safe
    | with_reducible apply checkEvent_safe
    | with_reducible apply ite_safe
    | (extract_lets x; refine (fun hx => ?_ : tileSafe x = true → _) ?_; (on_goal 2 => unfold x); all_goals clear_value x)
    | with_reducible apply tileSafe_upd
    | with_reducible exact .inl rfl

theorem enterRetry_safe (t : Tile) (e : RetryEntry) (h : tileSafe t = true) : tileSafe (enterRetry t e) = true := by
  unfold enterRetry
  repeat' first
    | with_reducible assumption
    | with_reducible apply passToRecompute_safe
    | with_reducible apply tbump_safe
    | with_reducible apply ite_safe
    | with_reducible apply tileSafe_upd
    | with_reducible exact .inl rfl

theorem pipeRow_safe (t : Tile) (watch : Nat) (d : Dword) (p : RowPlaces) (ops : Nat → List (Nat × Nat)) (ys : List Int) (long format clipped flagged : Bool) (now : Nat) (h : tileSafe t = true) : tileSafe (pipeRow t watch d p ops ys long format clipped flagged now) = true := by
  unfold pipeRow
  repeat' first
    | with_reducible assumption
    | with_reducible apply orFlags_safe
    | with_reducible apply tbump_safe
    | with_reducible apply later_safe
    | with_reducible apply swrite_safe
    | with_reducible apply ite_safe

theorem writeBlock_safe (t : Tile) (w : Option Watch) (conv elems tags size : Nat) (ops : List (List (Nat × Nat))) (b : Nat) (q : List Byte × List Byte) (h : tileSafe t = true) : tileSafe (writeBlock t w conv elems tags size ops b q) = true := by
  unfold writeBlock
  repeat' first
    | with_reducible assumption
    | with_reducible apply undefine_safe
    | with_reducible apply swrite_safe
    | split

theorem writeBlocks_safe (t : Tile) (watch conv elems tags size : Nat) (data : List (List Byte × List Byte)) (ops : List (List (Nat × Nat))) (h : tileSafe t = true) : tileSafe (writeBlocks t watch conv elems tags size data ops) = true := by
  unfold writeBlocks
  repeat' first
    | with_reducible assumption
    | with_reducible apply writeBlock_safe
    | with_reducible apply foldl_safe
    | intro _ _ _

theorem drainPipeRow_safe (t : Tile) (j : DrainJob) (r now : Nat) (h : tileSafe t = true) : tileSafe (drainPipeRow t j r now) = true := by
  unfold drainPipeRow
  repeat' first
    | with_reducible assumption
    | with_reducible apply putRow_safe
    | with_reducible apply pipeRow_safe
    | with_reducible apply ite_safe
    | with_reducible apply tileSafe_upd
    | with_reducible exact .inl rfl

theorem drainRawRow_safe (t : Tile) (j : DrainJob) (r part : Nat) (h : tileSafe t = true) : tileSafe (drainRawRow t j r part) = true := by
  unfold drainRawRow
  repeat' first
    | with_reducible assumption
    | with_reducible apply swrite_safe
    | with_reducible apply orFlags_safe
    | with_reducible apply tbump_safe
    | with_reducible apply putRow_safe
    | with_reducible apply ite_safe

theorem emitEffect_safe (t : Tile) (j : EmitJob) (now : Nat) (h : tileSafe t = true) : tileSafe (emitEffect t j now) = true := by
  unfold emitEffect
  repeat' first
    | with_reducible assumption
    | with_reducible apply pipeRow_safe
    | with_reducible apply ite_safe
    | with_reducible apply tileSafe_upd
    | with_reducible exact .inl rfl

theorem drainEffect_safe (t : Tile) (j : DrainJob) (now : Nat) (h : tileSafe t = true) : tileSafe (drainEffect t j now) = true := by
  unfold drainEffect
  repeat' first
    | with_reducible assumption
    | with_reducible apply sidFault_safe
    | with_reducible apply later_safe
    | with_reducible apply putSet_safe
    | with_reducible apply drainPipeRow_safe
    | with_reducible apply drainRawRow_safe
    | with_reducible apply ite_safe
    | with_reducible apply foldl_safe
    | intro _ _ _
    | (extract_lets x; clear_value x)
    | with_reducible apply tileSafe_upd
    | with_reducible exact .inl rfl

theorem drainedEffect_safe (t : Tile) (j : DrainJob) (h : tileSafe t = true) : tileSafe (drainedEffect t j) = true := by
  unfold drainedEffect
  repeat' first
    | with_reducible assumption
    | with_reducible apply undefine_safe
    | with_reducible apply ite_safe
    | with_reducible apply foldl_safe
    | intro _ _ _
    | split
    | with_reducible apply tileSafe_upd
    | with_reducible exact .inl rfl

theorem endWatch_safe (t : Tile) (id : Nat) (results : List (Nat × Nat)) (h : tileSafe t = true) : tileSafe (endWatch t id results) = true := by
  unfold endWatch
  repeat' first
    | with_reducible assumption
    | with_reducible apply undefine_safe
    | with_reducible apply ite_safe
    | with_reducible apply foldl_safe
    | intro _ _ _
    | split
    | with_reducible apply tileSafe_upd
    | with_reducible exact .inl rfl

theorem retireFlight_safe (t : Tile) (f : Flight) (now : Nat) (h : tileSafe t = true) : tileSafe (retireFlight t f now) = true := by
  unfold retireFlight
  repeat' first
    | with_reducible assumption
    | with_reducible apply writeToken_safe
    | with_reducible apply setGp_safe
    | with_reducible apply ite_safe
    | (extract_lets x; clear_value x)
    | split

theorem reachStage1_safe (t : Tile) (j : MvmJob) (now : Nat) (h : tileSafe t = true) : tileSafe (reachStage1 t j now) = true := by
  unfold reachStage1
  repeat' first
    | with_reducible assumption
    | with_reducible apply sidFault_safe
    | with_reducible apply later_safe
    | with_reducible apply ite_safe

theorem applyEffect_safe (t : Tile) (now : Nat) (x : Effect) (h : tileSafe t = true) :
    tileSafe (applyEffect t now x) = true := by
  unfold applyEffect
  split
  · exact retireFlight_safe _ _ _ h
  · exact reachStage1_safe _ _ _ h
  · exact addPartials_safe _ _ _ h
  · exact enterRetry_safe _ _ h
  · exact addCorrection_safe _ _ _ _ _ _ (checkEvent_safe _ _ _ h)
  · exact passToRecompute_safe _ _ _ _ (tbump_safe _ _ _ h)
  · exact addCorrection_safe _ _ _ _ _ _ (tbump_safe _ _ _ h)
  · exact drainEffect_safe _ _ _ h
  · exact drainPipeRow_safe _ _ _ _ h
  · exact drainRawRow_safe _ _ _ _ h
  · exact emitEffect_safe _ _ _ h
  · exact writeBlocks_safe _ _ _ _ _ _ _ _ h
  · exact drainedEffect_safe _ _ h
  · exact endWatch_safe _ _ _ h
  · apply tileSafe_upd (t := t) <;> first | exact .inl rfl | exact h
  · exact h
  · exact retireFlight_safe _ _ _ (tbump_safe _ _ _ (tput_safe _ _ _ _ (setBank_safe _ _ _ h)))

theorem settleTile_safe (fuel now : Nat) (t : Tile) (h : tileSafe t = true) :
    tileSafe (settleTile fuel now t) = true := by
  induction fuel generalizing t with
  | zero => exact h
  | succ n ih =>
    simp only [settleTile]
    split
    · exact h
    · split
      · apply ih
        apply bankTokens_safe
        apply applyEffect_safe
        apply tileSafe_upd (t := t) <;> first | exact .inl rfl | exact h
      · exact h

theorem settle_safe (now : Nat) (t : Tile) (h : tileSafe t = true) : tileSafe (settle now t) = true := by
  unfold settle
  repeat' first
    | with_reducible assumption
    | with_reducible apply settleTile_safe

theorem settleBefore_safe (now : Nat) (t : Tile) (h : tileSafe t = true) : tileSafe (settleBefore now t) = true := by
  unfold settleBefore
  repeat' first
    | with_reducible assumption
    | with_reducible apply settle_safe

theorem waitAt_safe (t : Tile) (e : Engine) (w : Dword) (now : Nat) (waypoint : Bool) (h : tileSafe t = true) : tileSafe (waitAt t e w now waypoint) = true := by
  unfold waitAt
  repeat' first
    | with_reducible assumption
    | with_reducible apply setEng_safe
    | with_reducible apply ite_safe
    | split
    | with_reducible apply tileSafe_upd
    | with_reducible exact .inl rfl

theorem dropStale_safe (t : Tile) (e : Engine) (h : tileSafe t = true) : tileSafe (dropStale t e) = true := by
  unfold dropStale
  repeat' first
    | with_reducible assumption
    | with_reducible apply tileSafe_upd
    | with_reducible exact .inl rfl

theorem issueNow_safe (c : Ctx) (t : Tile) (e : Engine) (cls : Nat) (n : Enc) (u : OpUnit) (hu : UnitSafe u)
    (h : tileSafe t = true) : tileSafe (issueNow c t e cls n u).1 = true := by
  have h1 : ∀ (o : Option Half) (q : Nat), tileSafe (match o with
      | some v => setGp (popToken t q c.now) e 16 (v.setWidth 64)
      | none => t) = true := by
    intro o q
    cases o
    · exact h
    · exact setGp_safe _ _ _ _ (popToken_safe _ _ _ h)
  simp only [issueNow]
  split
  · exact tileFault_safe _ _ _ _ (setPc_safe _ _ _ (setEng_safe _ _ _ (ite_safe (h1 _ _)
      (reservePlace_safe _ _ (h1 _ _)))))
  · exact hu _ _ _ (setPc_safe _ _ _ (setEng_safe _ _ _ (ite_safe (h1 _ _)
      (reservePlace_safe _ _ (h1 _ _)))))

theorem issueSlotted_safe (c : Ctx) (t : Tile) (e : Engine) (cls : Nat) (n : Enc) (u : OpUnit) (hu : UnitSafe u)
    (h : tileSafe t = true) : tileSafe (issueSlotted c t e cls n u).1 = true := by
  simp only [issueSlotted]
  repeat' first
    | with_reducible assumption
    | with_reducible apply tileFault_safe
    | with_reducible apply issueNow_safe
    | with_reducible apply ite_safe
    | split
    | with_reducible exact h
    | with_reducible exact issueNow_safe _ _ _ _ _ _ hu h
    | with_reducible exact tileFault_safe _ _ _ _ h

theorem issueFree_safe (c : Ctx) (t : Tile) (e : Engine) (cls : Nat) (n : Enc) (u : OpUnit) (w : Dword) (since : Nat)
    (hu : UnitSafe u) (h : tileSafe t = true) : tileSafe (issueFree c t e cls n u w since).1 = true := by
  simp only [issueFree]
  repeat' first
    | with_reducible assumption
    | with_reducible apply waitAt_safe
    | with_reducible apply issueNow_safe
    | with_reducible apply ite_safe
    | split
    | with_reducible exact h
    | with_reducible exact issueNow_safe _ _ _ _ _ _ hu h
    | with_reducible exact waitAt_safe _ _ _ _ _ h

theorem reach_safe (c : Ctx) (t0 : Tile) (e : Engine) (op : Nat) (n : Enc) (phased : Bool) (u : OpUnit)
    (hu : UnitSafe u) (h : tileSafe t0 = true) : tileSafe (reach c t0 e op n phased u).1 = true := by
  have hb : ∀ k, tileSafe (settleBefore k t0) = true := fun k => settleBefore_safe k t0 h
  have hc : ∀ j k, tileSafe (settleBefore j (settleBefore k t0)) = true := fun j k => settleBefore_safe j _ (hb k)
  simp only [reach]
  repeat' first
    | with_reducible assumption
    | with_reducible apply settleBefore_safe
    | with_reducible apply tileFault_safe
    | with_reducible apply issueSlotted_safe
    | with_reducible apply bankTokens_safe
    | with_reducible apply issueFree_safe
    | with_reducible apply ite_safe
    | split
    | with_reducible apply tileSafe_upd
    | with_reducible exact .inl rfl
    | with_reducible exact hb _
    | with_reducible exact tileFault_safe _ _ _ _ (hb _)
    | with_reducible exact bankTokens_safe _ _ (issueSlotted_safe _ _ _ _ _ _ hu (hc _ _))
    | with_reducible exact bankTokens_safe _ _ (issueFree_safe _ _ _ _ _ _ _ _ hu (hc _ _))

theorem retireIn_safe (t : Tile) (f : Flight) (n : Nat) (h : tileSafe t = true) : tileSafe (retireIn t f n) = true := by
  unfold retireIn
  repeat' first
    | with_reducible assumption
    | with_reducible apply later_safe

theorem controlUnit_safe (f : Tile → Tile) (hf : ∀ t, tileSafe t = true → tileSafe (f t) = true) :
    UnitSafe (controlUnit f) := fun _ t fl h => retireIn_safe (f t) fl 1 (hf t h)

theorem nopUnit_safe : UnitSafe nopUnit := controlUnit_safe id fun _ h => h

theorem setrUnit_safe (e : Engine) (n : Enc) : UnitSafe (setrUnit e n) := by
  unfold setrUnit
  repeat' first
    | with_reducible assumption
    | with_reducible apply controlUnit_safe
    | with_reducible apply setGp_safe
    | intro _ _

theorem setrhUnit_safe (e : Engine) (n : Enc) : UnitSafe (setrhUnit e n) := by
  unfold setrhUnit
  repeat' first
    | with_reducible assumption
    | with_reducible apply controlUnit_safe
    | with_reducible apply setGp_safe
    | intro _ _

theorem addrUnit_safe (e : Engine) (n : Enc) : UnitSafe (addrUnit e n) := by
  unfold addrUnit
  repeat' first
    | with_reducible assumption
    | with_reducible apply controlUnit_safe
    | with_reducible apply setGp_safe
    | intro _ _

theorem jumpUnit_safe (e : Engine) (n : Enc) : UnitSafe (jumpUnit e n) := by
  unfold jumpUnit
  repeat' first
    | with_reducible assumption
    | with_reducible apply controlUnit_safe
    | with_reducible apply setPc_safe
    | intro _ _

theorem loopTile_safe (e : Engine) (n : Enc) (t : Tile) (h : tileSafe t = true) : tileSafe (loopTile e n t) = true := by
  unfold loopTile
  repeat' first
    | with_reducible assumption
    | with_reducible apply setGp_safe
    | with_reducible apply setPc_safe
    | with_reducible apply ite_safe

theorem loopUnit_safe (e : Engine) (n : Enc) : UnitSafe (loopUnit e n) := by
  unfold loopUnit
  repeat' first
    | with_reducible assumption
    | with_reducible apply controlUnit_safe
    | with_reducible apply loopTile_safe

theorem nextwUnit_safe (e : Engine) : UnitSafe (nextwUnit e) := by
  intro c t f h
  simp only [nextwUnit]
  repeat' first
    | with_reducible assumption
    | with_reducible apply retireIn_safe
    | with_reducible apply setGp_safe
    | with_reducible apply ite_safe
    | split

theorem markNextw_safe (slot0 : Nat) (e : Engine) (n : Enc) (t : Tile) (h : tileSafe t = true) : tileSafe (markNextw slot0 e n t) = true := by
  unfold markNextw
  repeat' first
    | with_reducible assumption
    | with_reducible apply setEng_safe
    | with_reducible apply ite_safe
    | with_reducible apply tileSafe_upd
    | with_reducible exact .inl rfl

theorem haltUnit_safe (e : Engine) : UnitSafe (haltUnit e) := by
  unfold haltUnit
  repeat' first
    | with_reducible assumption
    | with_reducible apply controlUnit_safe
    | with_reducible apply setEng_safe
    | intro _ _
    | with_reducible apply tileSafe_upd
    | with_reducible exact .inl rfl

theorem takeTurn_safe (t : Tile) (k : Nat) (h : tileSafe t = true) : tileSafe (takeTurn t k) = true := by
  unfold takeTurn
  repeat' first
    | with_reducible assumption
    | with_reducible apply tileSafe_upd
    | with_reducible exact .inl rfl

theorem pump_safe (c : Ctx) (fuel : Nat) (t : Tile) (ps : List Packet) (h : tileSafe t = true) :
    tileSafe (pump c fuel t ps).1 = true := by
  induction fuel generalizing t ps with
  | zero => exact h
  | succ n ih =>
    simp only [pump]
    split
    · exact h
    · split
      · exact h
      · apply ih
        apply takeTurn_safe
        apply tileSafe_upd (t := t) <;> first | exact .inl rfl | exact h

theorem startFetch_safe (c : Ctx) (t : Tile) (f : Flight) (src : Dword) (txs : List Tx) (bank : Option Bool) (beats : Nat) (h : tileSafe t = true) : tileSafe (startFetch c t f src txs bank beats).1 = true := by
  unfold startFetch
  repeat' first
    | with_reducible assumption
    | with_reducible apply pump_safe
    | with_reducible apply tileSafe_upd
    | with_reducible exact .inl rfl

theorem loadUnit_safe (n : Enc) : UnitSafe (loadUnit n) := by
  intro c t f h
  simp only [loadUnit]
  repeat' first
    | with_reducible assumption
    | with_reducible apply startFetch_safe

theorem loadsUnit_safe (n : Enc) : UnitSafe (loadsUnit n) := by
  intro c t f h
  simp only [loadsUnit]
  repeat' first
    | with_reducible assumption
    | with_reducible apply startFetch_safe

theorem copyUnit_safe (n : Enc) : UnitSafe (copyUnit n) := by
  intro c t f h
  simp only [copyUnit]
  repeat' first
    | with_reducible assumption
    | with_reducible apply swrite_safe
    | with_reducible apply retireIn_safe
    | with_reducible apply waited_safe
    | with_reducible apply tileFree_safe

theorem zeroUnit_safe (n : Enc) : UnitSafe (zeroUnit n) := by
  intro c t f h
  simp only [zeroUnit]
  repeat' first
    | with_reducible assumption
    | with_reducible apply swrite_safe
    | with_reducible apply retireIn_safe
    | with_reducible apply waited_safe
    | with_reducible apply tileFree_safe

theorem bankwUnit_safe (n : Enc) : UnitSafe (bankwUnit n) := by
  intro c t f h
  simp only [bankwUnit]
  repeat' first
    | with_reducible assumption
    | with_reducible apply arrFault_safe
    | with_reducible apply startFetch_safe
    | with_reducible apply setBank_safe
    | with_reducible apply ite_safe
    | split
    | with_reducible apply tileSafe_upd
    | with_reducible exact .inl rfl

theorem finishBankWrite_safe (t : Tile) (o : FetchOp) (b : Bool) (now : Nat) (h : tileSafe t = true) : tileSafe (finishBankWrite t o b now) = true := by
  unfold finishBankWrite
  repeat' first
    | with_reducible assumption
    | with_reducible apply setBank_safe
    | with_reducible apply tput_safe
    | with_reducible apply tileFault_safe
    | with_reducible apply later_safe
    | with_reducible apply ite_safe
    | with_reducible apply tileSafe_upd
    | with_reducible exact .inl rfl

theorem completeFetch_safe (c : Ctx) (t : Tile) (o : FetchOp) (k : BitVec 5) (st : Status) (data : List Byte) (h : tileSafe t = true) : tileSafe (completeFetch c t o k st data).1 = true := by
  unfold completeFetch
  repeat' first
    | with_reducible assumption
    | with_reducible apply swrite_safe
    | with_reducible apply busyAt_safe
    | with_reducible apply finishBankWrite_safe
    | with_reducible apply retireFlight_safe
    | with_reducible apply pump_safe
    | with_reducible apply ite_safe
    | (extract_lets x; clear_value x)
    | split
    | with_reducible apply tileSafe_upd
    | with_reducible exact .inl rfl

theorem advance_safe (t : Tile) (n : Enc) (h : tileSafe t = true) : tileSafe (advance t n) = true := by
  unfold advance
  repeat' first
    | with_reducible assumption
    | with_reducible apply setGp_safe
    | with_reducible apply ite_safe

theorem runMvm_safe (c : Ctx) (t : Tile) (f : Flight) (n : Enc) (lv : List Level) (bid : Bool) (h : tileSafe t = true) : tileSafe (runMvm c t f n lv bid) = true := by
  unfold runMvm
  repeat' first
    | with_reducible assumption
    | with_reducible apply arrFault_safe
    | with_reducible apply advance_safe
    | with_reducible apply tbump_safe
    | with_reducible apply setBank_safe
    | with_reducible apply later_safe
    | with_reducible apply retireIn_safe
    | with_reducible apply ite_safe
    | with_reducible apply foldl_safe
    | intro _ _ _
    | with_reducible apply tileSafe_upd
    | with_reducible exact .inl rfl

theorem runMvmDemoted_safe (t : Tile) (f : Flight) (n : Enc) (bid : Bool) (h : tileSafe t = true) : tileSafe (runMvmDemoted t f n bid) = true := by
  unfold runMvmDemoted
  repeat' first
    | with_reducible assumption
    | with_reducible apply advance_safe
    | with_reducible apply setBank_safe
    | with_reducible apply later_safe
    | with_reducible apply retireIn_safe
    | with_reducible apply tileSafe_upd
    | with_reducible exact .inl rfl

theorem mvmUnit_safe (n : Enc) (lv : List Level) : UnitSafe (mvmUnit n lv) := by
  intro c t f h
  simp only [mvmUnit]
  repeat' first
    | with_reducible assumption
    | with_reducible apply arrFault_safe
    | with_reducible apply runMvmDemoted_safe
    | with_reducible apply runMvm_safe
    | with_reducible apply ite_safe
    | split

theorem retryUnit_safe (lv : List Level) : UnitSafe (retryUnit lv) := by
  intro c t f h
  simp only [retryUnit]
  repeat' first
    | with_reducible assumption
    | with_reducible apply arrFault_safe
    | with_reducible apply retireIn_safe
    | with_reducible apply tbump_safe
    | with_reducible apply later_safe
    | with_reducible apply ite_safe
    | split
    | with_reducible apply tileSafe_upd
    | with_reducible exact .inl rfl

theorem selectBank_safe (t : Tile) (b : Bool) (pc : BitVec 9) (h : tileSafe t = true) : tileSafe (selectBank t b pc) = true := by
  unfold selectBank
  repeat' first
    | with_reducible assumption
    | with_reducible apply setBank_safe
    | with_reducible apply arrFault_safe
    | with_reducible apply ite_safe
    | (extract_lets x; clear_value x)
    | split
    | with_reducible apply tileSafe_upd
    | with_reducible exact .inl rfl

theorem bankUnit_safe (n : Enc) : UnitSafe (bankUnit n) := by
  intro c t f h
  simp only [bankUnit]
  repeat' first
    | with_reducible assumption
    | with_reducible apply selectBank_safe
    | with_reducible apply retireIn_safe
    | with_reducible apply ite_safe

theorem modeUnit_safe (n : Enc) : UnitSafe (modeUnit n) := by
  unfold modeUnit
  repeat' first
    | with_reducible assumption
    | with_reducible apply controlUnit_safe
    | intro _ _
    | with_reducible apply tileSafe_upd
    | with_reducible exact .inl rfl

theorem sidModeUnit_safe (n : Enc) : UnitSafe (sidModeUnit n) := by
  intro c t f h
  simp only [sidModeUnit]
  repeat' first
    | with_reducible assumption
    | with_reducible apply sidFault_safe
    | with_reducible apply retireIn_safe
    | with_reducible apply putSet_safe
    | with_reducible apply ite_safe
    | split
    | with_reducible apply tileSafe_upd
    | with_reducible exact .inl rfl

theorem recompUnit_safe  : UnitSafe (recompUnit) := by
  intro c t f h
  simp only [recompUnit]
  repeat' first
    | with_reducible assumption
    | with_reducible apply retireIn_safe
    | with_reducible apply later_safe
    | with_reducible apply ite_safe
    | split
    | with_reducible apply tileSafe_upd
    | with_reducible exact .inl rfl

theorem passEntries_safe (t : Tile) (s : Bool) (pc : BitVec 9) (h : tileSafe t = true) : tileSafe (passEntries t s pc) = true := by
  unfold passEntries
  repeat' first
    | with_reducible assumption
    | with_reducible apply passToRecompute_safe
    | with_reducible apply foldl_safe
    | intro _ _ _
    | with_reducible apply tileSafe_upd
    | with_reducible exact .inl rfl

theorem drainUnit_safe (n : Enc) : UnitSafe (drainUnit n) := by
  intro c t f h
  simp only [drainUnit]
  repeat' first
    | with_reducible assumption
    | with_reducible apply sidFault_safe
    | with_reducible apply putSet_safe
    | with_reducible apply later_safe
    | with_reducible apply addWatch_safe
    | with_reducible apply passEntries_safe
    | with_reducible apply retireIn_safe
    | with_reducible apply ite_safe
    | split
    | with_reducible apply tileSafe_upd
    | with_reducible exact .inl rfl

theorem emitUnit_safe (n : Enc) : UnitSafe (emitUnit n) := by
  intro c t f h
  simp only [emitUnit]
  repeat' first
    | with_reducible assumption
    | with_reducible apply sidFault_safe
    | with_reducible apply addWatch_safe
    | with_reducible apply retireIn_safe
    | with_reducible apply later_safe
    | with_reducible apply pipeRow_safe
    | with_reducible apply ite_safe
    | split
    | with_reducible apply tileSafe_upd
    | with_reducible exact .inl rfl

theorem pltDone_safe (c : Ctx) (t : Tile) (f : Flight) (cycles : Nat) (operands results : List (Nat × Nat)) (h : tileSafe t = true) : tileSafe (pltDone c t f cycles operands results) = true := by
  unfold pltDone
  repeat' first
    | with_reducible assumption
    | with_reducible apply waited_safe
    | with_reducible apply addWatch_safe
    | with_reducible apply later_safe
    | with_reducible apply retireIn_safe
    | with_reducible apply tileSafe_upd
    | with_reducible exact .inl rfl

theorem normOne_safe (t : Tile) (n : Enc) (r : Nat) (h : tileSafe t = true) : tileSafe (normOne t n r) = true := by
  unfold normOne
  repeat' first
    | with_reducible assumption
    | with_reducible apply swrite_safe
    | with_reducible apply tbump_safe
    | with_reducible apply orFlags_safe
    | with_reducible apply ite_safe

theorem normUnit_safe (n : Enc) : UnitSafe (normUnit n) := by
  intro c t f h
  simp only [normUnit]
  repeat' first
    | with_reducible assumption
    | with_reducible apply pltDone_safe
    | with_reducible apply normOne_safe
    | with_reducible apply foldl_safe
    | intro _ _ _

theorem scoreUnit_safe (n : Enc) : UnitSafe (scoreUnit n) := by
  intro c t f h
  simp only [scoreUnit]
  repeat' first
    | with_reducible assumption
    | with_reducible apply swrite_safe
    | with_reducible apply orFlags_safe
    | with_reducible apply pltDone_safe
    | with_reducible apply ite_safe

theorem softmaxUnit_safe (n : Enc) : UnitSafe (softmaxUnit n) := by
  intro c t f h
  simp only [softmaxUnit]
  repeat' first
    | with_reducible assumption
    | with_reducible apply pltDone_safe
    | with_reducible apply swrite_safe
    | with_reducible apply ite_safe

theorem vprodUnit_safe (n : Enc) : UnitSafe (vprodUnit n) := by
  intro c t f h
  simp only [vprodUnit]
  repeat' first
    | with_reducible assumption
    | with_reducible apply orFlags_safe
    | with_reducible apply swrite_safe
    | with_reducible apply pltDone_safe

theorem topkUnit_safe (n : Enc) : UnitSafe (topkUnit n) := by
  intro c t f h
  simp only [topkUnit]
  repeat' first
    | with_reducible assumption
    | with_reducible apply swrite_safe
    | with_reducible apply pltDone_safe

theorem sortUnit_safe (n : Enc) : UnitSafe (sortUnit n) := by
  intro c t f h
  simp only [sortUnit]
  repeat' first
    | with_reducible assumption
    | with_reducible apply swrite_safe
    | with_reducible apply pltDone_safe

theorem setopUnit_safe (n : Enc) (op : List Nat → List Nat → List Nat) (bound : Nat → Nat → Nat) : UnitSafe (setopUnit n op bound) := by
  intro c t f h
  simp only [setopUnit]
  repeat' first
    | with_reducible assumption
    | with_reducible apply pltDone_safe
    | with_reducible apply swrite_safe
    | with_reducible apply useFree_safe
    | with_reducible apply ite_safe
    | split

theorem mergeUnit_safe (n : Enc) : UnitSafe (mergeUnit n) := setopUnit_safe n _ _

theorem isectUnit_safe (n : Enc) : UnitSafe (isectUnit n) := setopUnit_safe n _ _

theorem plotAddrFault_safe (c : Ctx) (t : Tile) (f : Flight) (results : List (Dword × Nat)) (h : tileSafe t = true) : tileSafe (plotAddrFault c t f results) = true := by
  unfold plotAddrFault
  repeat' first
    | with_reducible assumption
    | with_reducible apply useFree_safe
    | with_reducible apply swrite_safe
    | with_reducible apply tileFault_safe
    | with_reducible apply ite_safe
    | with_reducible apply foldl_safe
    | intro _ _ _

theorem gatherUnit_safe (n : Enc) : UnitSafe (gatherUnit n) := by
  intro c t f h
  simp only [gatherUnit]
  repeat' first
    | with_reducible assumption
    | with_reducible apply pltDone_safe
    | with_reducible apply swrite_safe
    | with_reducible apply plotAddrFault_safe
    | with_reducible apply ite_safe
    | split

theorem scatterUnit_safe (n : Enc) : UnitSafe (scatterUnit n) := by
  intro c t f h
  simp only [scatterUnit]
  repeat' first
    | with_reducible assumption
    | with_reducible apply swrite_safe
    | with_reducible apply pltDone_safe
    | with_reducible apply plotAddrFault_safe
    | with_reducible apply ite_safe
    | with_reducible apply foldl_safe
    | intro _ _ _
    | split

theorem hprobeUnit_safe (n : Enc) : UnitSafe (hprobeUnit n) := by
  intro c t f h
  simp only [hprobeUnit]
  repeat' first
    | with_reducible assumption
    | with_reducible apply pltDone_safe
    | with_reducible apply swrite_safe

theorem relaxEdge_safe (t : Tile) (n : Enc) (i : Nat) (h : tileSafe t = true) : tileSafe (relaxEdge t n i) = true := by
  unfold relaxEdge
  repeat' first
    | with_reducible assumption
    | with_reducible apply swrite_safe
    | with_reducible apply ite_safe

theorem relaxUnit_safe (n : Enc) : UnitSafe (relaxUnit n) := by
  intro c t f h
  simp only [relaxUnit]
  repeat' first
    | with_reducible assumption
    | with_reducible apply relaxEdge_safe
    | with_reducible apply pltDone_safe
    | with_reducible apply plotAddrFault_safe
    | with_reducible apply ite_safe
    | with_reducible apply foldl_safe
    | intro _ _ _
    | split

theorem sampleUnit_safe (n : Enc) : UnitSafe (sampleUnit n) := by
  intro c t f h
  simp only [sampleUnit]
  repeat' first
    | with_reducible assumption
    | with_reducible apply swrite_safe
    | with_reducible apply orFlags_safe
    | with_reducible apply pltDone_safe
    | with_reducible apply foldl_safe
    | intro _ _ _
    | split

theorem putGroup_safe (t : Tile) (g : Nat) (v : Group) (h : tileSafe t = true) : tileSafe (putGroup t g v) = true := by
  unfold putGroup
  repeat' first
    | with_reducible assumption
    | with_reducible apply tileSafe_upd
    | with_reducible exact .inl rfl
    | exact .inr fun h => by simpa only [List.length_set, List.length_map] using h

theorem sendOp_safe (c : Ctx) (t : Tile) (f : Flight) (n : Enc) (op : PktOp) (localA len : Nat) (ps : List Piece) (h : tileSafe t = true) : tileSafe (sendOp c t f n op localA len ps).1 = true := by
  unfold sendOp
  repeat' first
    | with_reducible assumption
    | with_reducible apply takeTurn_safe
    | with_reducible apply putGroup_safe
    | with_reducible apply retireIn_safe
    | with_reducible apply tileFree_safe
    | (extract_lets x; clear_value x)
    | split
    | with_reducible apply tileSafe_upd
    | with_reducible exact .inl rfl

theorem putUnit_safe (n : Enc) : UnitSafe (putUnit n) := by
  intro c t f h
  simp only [putUnit]
  repeat' first
    | with_reducible assumption
    | with_reducible apply sendOp_safe

theorem getUnit_safe (n : Enc) : UnitSafe (getUnit n) := by
  intro c t f h
  simp only [getUnit]
  repeat' first
    | with_reducible assumption
    | with_reducible apply sendOp_safe

theorem addUnit_safe (n : Enc) (op : PktOp) (size lim : Nat) : UnitSafe (addUnit n op size lim) := by
  intro c t f h
  simp only [addUnit]
  repeat' first
    | with_reducible assumption
    | with_reducible apply sendOp_safe

theorem casUnit_safe (n : Enc) : UnitSafe (casUnit n) := by
  intro c t f h
  simp only [casUnit]
  repeat' first
    | with_reducible assumption
    | with_reducible apply sendOp_safe

theorem mputUnit_safe (n : Enc) : UnitSafe (mputUnit n) := by
  intro c t f h
  simp only [mputUnit]
  repeat' first
    | with_reducible assumption
    | with_reducible apply tileFault_safe
    | with_reducible apply sendOp_safe
    | split

theorem arriveUnit_safe (n : Enc) : UnitSafe (arriveUnit n) := by
  intro c t f h
  simp only [arriveUnit]
  repeat' first
    | with_reducible assumption
    | with_reducible apply sendOp_safe

theorem waitgUnit_safe (n : Enc) : UnitSafe (waitgUnit n) := by
  intro c t f h
  simp only [waitgUnit]
  repeat' first
    | with_reducible assumption
    | with_reducible apply swrite_safe
    | with_reducible apply putGroup_safe
    | with_reducible apply orFlags_safe
    | with_reducible apply retireIn_safe
    | with_reducible apply ite_safe
    | with_reducible apply tileSafe_upd
    | with_reducible exact .inl rfl

theorem waitwpUnit_safe (n : Enc) : UnitSafe (waitwpUnit n) := by
  intro c t f h
  simp only [waitwpUnit]
  repeat' first
    | with_reducible assumption
    | with_reducible apply swrite_safe
    | with_reducible apply retireIn_safe
    | with_reducible apply ite_safe

theorem wpinitUnit_safe (n : Enc) : UnitSafe (wpinitUnit n) := by
  intro c t f h
  simp only [wpinitUnit]
  repeat' first
    | with_reducible assumption
    | with_reducible apply retireIn_safe
    | with_reducible apply swrite_safe

theorem completeSig_safe (t : Tile) (o : SigOp) (st : Status) (sat : Bool) (data : List Byte) (h : tileSafe t = true) : tileSafe (completeSig t o st sat data) = true := by
  unfold completeSig
  repeat' first
    | with_reducible assumption
    | with_reducible apply swrite_safe
    | with_reducible apply putGroup_safe
    | with_reducible apply ite_safe
    | split
    | with_reducible apply tileSafe_upd
    | with_reducible exact .inl rfl

theorem completeBranch_safe (t : Tile) (o : SigOp) (i : Nat) (st : Status) (sat : Bool) (h : tileSafe t = true) : tileSafe (completeBranch t o i st sat) = true := by
  unfold completeBranch
  repeat' first
    | with_reducible assumption
    | with_reducible apply completeSig_safe
    | with_reducible apply ite_safe
    | split
    | with_reducible apply tileSafe_upd
    | with_reducible exact .inl rfl

theorem arriveAt_safe (t : Tile) (a : Nat) (value : Nat) (h : tileSafe t = true) : tileSafe (arriveAt t a value) = true := by
  unfold arriveAt
  repeat' first
    | with_reducible assumption
    | with_reducible apply swrite_safe

theorem lateSlots_safe (c : Ctx) (t : Tile) (h : tileSafe t = true) : tileSafe (lateSlots c t) = true := by
  unfold lateSlots
  repeat' first
    | with_reducible assumption
    | with_reducible apply tileFault_safe
    | with_reducible apply ite_safe
    | with_reducible apply foldl_safe
    | intro _ _ _
    | split

theorem Tile_hold_safe (t : Tile) (h : tileSafe t = true) : tileSafe t.hold = true :=
  tileSafe_upd (t := Tile.reset) (.inl rfl) (.inr fun _ => ((tileSafe_iff t).1 h).store) (.inl rfl) (.inl rfl)
    (.inl rfl) (.inl rfl) (.inl rfl) (by decide)

theorem loadColreps_safe (s : State) (k site : Nat) (t : Tile) (h : tileSafe t = true) : tileSafe (loadColreps s k site t) = true := by
  unfold loadColreps
  repeat' first
    | with_reducible assumption
    | with_reducible apply setTileReg_safe
    | with_reducible apply tput_safe
    | with_reducible apply foldl_safe
    | intro _ _ _

theorem fetUnit_safe (op : Nat) (n : Enc) : UnitSafe (fetUnit op n) := by
  unfold fetUnit
  split
  · exact loadUnit_safe n
  · exact loadsUnit_safe n
  · exact copyUnit_safe n
  · exact zeroUnit_safe n
  · exact bankwUnit_safe n
  · exact nopUnit_safe

theorem arrUnit_safe (op : Nat) (n : Enc) (lv : List Level) : UnitSafe (arrUnit op n lv) := by
  unfold arrUnit
  split
  · exact mvmUnit_safe n lv
  · exact retryUnit_safe lv
  · exact bankUnit_safe n
  · exact modeUnit_safe n
  · exact nopUnit_safe

theorem sidUnit_safe (op : Nat) (n : Enc) : UnitSafe (sidUnit op n) := by
  unfold sidUnit
  split
  · exact sidModeUnit_safe n
  · exact recompUnit_safe
  · exact drainUnit_safe n
  · exact emitUnit_safe n
  · exact nopUnit_safe

theorem pltUnit_safe (op : Nat) (n : Enc) : UnitSafe (pltUnit op n) := by
  unfold pltUnit
  split
  · exact normUnit_safe n
  · exact scoreUnit_safe n
  · exact softmaxUnit_safe n
  · exact vprodUnit_safe n
  · exact topkUnit_safe n
  · exact sortUnit_safe n
  · exact mergeUnit_safe n
  · exact isectUnit_safe n
  · exact gatherUnit_safe n
  · exact scatterUnit_safe n
  · exact hprobeUnit_safe n
  · exact relaxUnit_safe n
  · exact sampleUnit_safe n
  · exact nopUnit_safe

theorem sigUnit_safe (op : Nat) (n : Enc) : UnitSafe (sigUnit op n) := by
  unfold sigUnit
  split
  · exact putUnit_safe n
  · exact getUnit_safe n
  · exact addUnit_safe n _ _ _
  · exact addUnit_safe n _ _ _
  · exact addUnit_safe n _ _ _
  · exact casUnit_safe n
  · exact mputUnit_safe n
  · exact arriveUnit_safe n
  · exact waitgUnit_safe n
  · exact waitwpUnit_safe n
  · exact wpinitUnit_safe n
  · exact nopUnit_safe

theorem unitOf_safe (e : Engine) (op : Nat) (n : Enc) (lv : List Level) : UnitSafe (unitOf e op n lv) := by
  unfold unitOf
  split
  · exact nopUnit_safe
  · exact setrUnit_safe e n
  · exact setrhUnit_safe e n
  · exact addrUnit_safe e n
  · exact jumpUnit_safe e n
  · exact loopUnit_safe e n
  · exact nextwUnit_safe e
  · exact haltUnit_safe e
  · cases e
    · exact fetUnit_safe op n
    · exact arrUnit_safe op n lv
    · exact sidUnit_safe op n
    · exact pltUnit_safe op n
    · exact sigUnit_safe op n

theorem withhold_safe (t : Tile) (f : Flight) (h : tileSafe t = true) : tileSafe (withhold t f) = true := by
  unfold withhold
  repeat' first
    | with_reducible assumption
    | with_reducible apply tileSafe_upd
    | with_reducible exact .inl rfl

theorem setRunOn_safe (t : Tile) (h : tileSafe t = true) : tileSafe (setRunOn t) = true := by
  unfold setRunOn
  split
  · exact h
  · exact tileSafe_upd (h := tput_safe t TIL_CTL_RUN 1 0 h) (.inl rfl) (.inl rfl) (.inl rfl) (.inl rfl)
      (.inr fun _ => by simpa only [List.length_map] using ((tileSafe_iff t).1 h).engs) (.inl rfl) (.inl rfl)

theorem setRunOff_safe (t : Tile) (h : tileSafe t = true) : tileSafe (setRunOff t) = true := by
  unfold setRunOff
  exact tileSafe_upd (h := tput_safe t TIL_CTL_RUN 0 0 h) (.inl rfl) (.inl rfl) (.inl rfl) (.inl rfl)
    (.inr fun _ => by simpa only [List.length_map] using ((tileSafe_iff t).1 h).engs) (.inl rfl) (.inl rfl)

theorem slotsFrom_safe (slot0 : Nat) (t : Tile) (h : tileSafe t = true) : tileSafe (slotsFrom slot0 t) = true := by
  unfold slotsFrom
  repeat' first
    | with_reducible assumption
    | with_reducible apply ite_safe
    | with_reducible apply tileSafe_upd
    | with_reducible exact .inl rfl

theorem fenceTile_safe (t : Tile) (h : tileSafe t = true) : tileSafe (fenceTile t) = true := by
  unfold fenceTile
  exact tileSafe_upd (h := tput_safe t TIL_CTL_FENCE 1 0 h) (.inl rfl) (.inl rfl) (.inl rfl) (.inl rfl)
    (.inr fun _ => by simpa only [List.length_map] using ((tileSafe_iff t).1 h).engs) (.inl rfl) (.inl rfl)

theorem endFenced_safe (t : Tile) (tag : BitVec 5) (h : tileSafe t = true) : tileSafe (endFenced t tag) = true := by
  unfold endFenced
  repeat' first
    | with_reducible assumption
    | with_reducible apply tileSafe_upd
    | with_reducible exact .inl rfl

theorem completeTile_safe (c : Ctx) (t : Tile) (tag : BitVec 5) (st : Status) (sat : Bool) (data : List Byte) (branches : List Nat) (h : tileSafe t = true) : tileSafe (completeTile c t tag st sat data branches).1 = true := by
  unfold completeTile
  repeat' first
    | with_reducible assumption
    | with_reducible apply completeFetch_safe
    | with_reducible apply endFenced_safe
    | with_reducible apply completeSig_safe
    | with_reducible apply completeBranch_safe
    | with_reducible apply ite_safe
    | with_reducible apply foldl_safe
    | intro _ _ _
    | split

theorem setStart_safe (t : Tile) (q : Engine × BitVec 9) (h : tileSafe t = true) : tileSafe (setStart t q) = true := by
  unfold setStart
  repeat' first
    | with_reducible assumption
    | with_reducible apply setEng_safe
    | with_reducible apply setPc_safe
    | with_reducible apply ite_safe
    | with_reducible apply tileSafe_upd
    | with_reducible exact .inl rfl

theorem clearCounters_safe (t : Tile) (h : tileSafe t = true) : tileSafe (clearCounters t) = true := by
  unfold clearCounters
  refine foldl_safe _ _ (fun u x hu => ?_) t h
  exact tileSafe_upd (h := hu) (.inl rfl) (.inr fun g => memWrite_wf _ _ _ (memWrite_wf _ _ _ g)) (.inl rfl) (.inl rfl)
    (.inl rfl) (.inl rfl) (.inl rfl)

theorem writePc_safe (t : Tile) (i : Nat) (v : Word) (h : tileSafe t = true) : tileSafe (writePc t i v) = true := by
  unfold writePc
  repeat' first
    | with_reducible assumption
    | with_reducible apply setPc_safe
    | with_reducible apply setEng_safe
    | with_reducible apply ite_safe
    | split
    | with_reducible apply tileSafe_upd
    | with_reducible exact .inl rfl

theorem writeTileWord_safe (t : Tile) (off : Nat) (v : Word) (h : tileSafe t = true) : tileSafe (writeTileWord t off v) = true := by
  unfold writeTileWord
  repeat' first
    | with_reducible assumption
    | with_reducible apply setTileReg_safe
    | with_reducible apply writePc_safe
    | with_reducible apply ite_safe

end Sys2Proof.Machine
end

