-- ==== Sys2Proof/Laws/FrameBase.lean ====
section
/-!
SUPPORT. Frames of operations that answer an optional machine, and of the outcomes that stop.
-/

namespace Sys2Proof.Machine

/-- Every machine that an optional answer holds keeps the frame. -/
def FrameOpt (m : List Part) (s : State) (o : Option State) : Prop := ∀ t, o = some t → Frame m s t

/-- The same of a machine answered with more beside it. -/
def FrameOpt1 {α : Type} (m : List Part) (s : State) (o : Option (State × α)) : Prop :=
  ∀ q, o = some q → Frame m s q.1

variable {m : List Part} {s : State}

theorem FrameOpt.of {t : State} {o : Option State} (ho : o = some t) (h : FrameOpt m s o) : Frame m s t := h t ho

theorem FrameOpt1.of {α : Type} {q : State × α} {o : Option (State × α)} (ho : o = some q) (h : FrameOpt1 m s o) :
    Frame m s q.1 := h q ho

theorem FrameOpt.none : FrameOpt m s none := fun _ h => by cases h

theorem FrameOpt1.none {α : Type} : FrameOpt1 (α := α) m s none := fun _ h => by cases h

theorem FrameOpt.some {t : State} (h : Frame m s t) : FrameOpt m s (some t) := fun _ e => by cases e; exact h

theorem FrameOpt1.some {α : Type} {q : State × α} (h : Frame m s q.1) : FrameOpt1 m s (some q) :=
  fun _ e => by cases e; exact h

theorem FrameOpt.ite {c : Prop} [Decidable c] {a b : Option State} (ha : FrameOpt m s a) (hb : FrameOpt m s b) :
    FrameOpt m s (if c then a else b) := by split <;> assumption

theorem FrameOpt.map {o : Option State} {f : State → State} (hf : ∀ u, Frame m s u → Frame m s (f u))
    (h : FrameOpt m s o) : FrameOpt m s (o.map f) := by
  cases o with
  | none => exact FrameOpt.none
  | some u => exact FrameOpt.some (hf u (h u rfl))

theorem FrameOpt.foldl {β : Type} (l : List β) (g : Option State → β → Option State)
    (hg : ∀ u x, FrameOpt m s u → FrameOpt m s (g u x)) {o : Option State} (h : FrameOpt m s o) :
    FrameOpt m s (l.foldl g o) := by
  induction l generalizing o with
  | nil => exact h
  | cons x l ih => exact ih (hg o x h)

theorem Frame.foldlFst {α β : Type} (l : List β) (g : State × α → β → State × α)
    (hg : ∀ q x, Frame m s q.1 → Frame m s (g q x).1) {q : State × α} (h : Frame m s q.1) :
    Frame m s (l.foldl g q).1 := by
  induction l generalizing q with
  | nil => exact h
  | cons x l ih => exact ih (hg q x h)

theorem Frame.foldlSnd {α β : Type} (l : List β) (g : α × State → β → α × State)
    (hg : ∀ q x, Frame m s q.2 → Frame m s (g q x).2) {q : α × State} (h : Frame m s q.2) :
    Frame m s (l.foldl g q).2 := by
  induction l generalizing q with
  | nil => exact h
  | cons x l ih => exact ih (hg q x h)

theorem Frame.ofPair {α : Type} {t : State} {a : α} {q : State × α} (he : q = (t, a)) (h : Frame m s q.1) :
    Frame m s t := by subst he; exact h

theorem Frame.ofFst {α : Type} {q r : State × α} (he : q = r) (h : Frame m s q.1) : Frame m s r.1 := by
  subst he; exact h

theorem FrameOpt1.ofPair {α : Type} {t : State} {a : α} {o : Option (State × α)} (ho : o = Option.some (t, a))
    (h : FrameOpt1 m s o) : Frame m s t := h _ ho

end Sys2Proof.Machine
end

