-- ==== Sys2Proof/Laws/FramesMachine.lean ====
section
/-!
SUPPORT. Frames of the operations of the model (machine): which parts of the state each can touch, and that a safe
machine stays safe.
-/

namespace Sys2Proof.Machine

theorem setRword_frame {fm : List Part} {b0 : State} (s : State) (k off : Nat) (w : Word)
    (hfr : Frame fm b0 s) (hfm : Part.sub [.regs] fm = true) : Frame fm b0 (setRword s k off w) := by
  unfold setRword
  repeat' first
    | with_reducible assumption
    | extract_lets +onlyGivenNames x
    | ((conv in State.mk _ _ _ _ _ _ _ _ _ _ _ _ _ _ _ _ _ _ _ _ _ _ _ _ _ => skip); with_reducible apply Frame.upd)
    | with_reducible exact .inr rfl
    | exact .inl ⟨Part.sub_has _ hfm (by decide), fun h => mapSet_wf _ _ _ _ h⟩

theorem rput_frame {fm : List Part} {b0 : State} (s : State) (k : Nat) (f : Fld) (v : Nat) (i : Nat)
    (hfr : Frame fm b0 s) (hfm : Part.sub [.regs] fm = true) : Frame fm b0 (rput s k f v i) := by
  unfold rput
  repeat' first
    | with_reducible assumption
    | with_reducible apply setRword_frame

theorem rbump_frame {fm : List Part} {b0 : State} (s : State) (k : Nat) (f : Fld) (n : Nat)
    (hfr : Frame fm b0 s) (hfm : Part.sub [.regs] fm = true) : Frame fm b0 (rbump s k f n) := by
  unfold rbump
  repeat' first
    | with_reducible assumption
    | with_reducible apply rput_frame

theorem rset_frame {fm : List Part} {b0 : State} (s : State) (k : Nat) (f : Fld) (i : Nat)
    (hfr : Frame fm b0 s) (hfm : Part.sub [.regs] fm = true) : Frame fm b0 (rset s k f i) := by
  unfold rset
  repeat' first
    | with_reducible assumption
    | with_reducible apply rput_frame

theorem resetBlock_frame {fm : List Part} {b0 : State} (s : State) (k base : Nat)
    (hfr : Frame fm b0 s) (hfm : Part.sub [.regs] fm = true) : Frame fm b0 (resetBlock s k base) := by
  unfold resetBlock
  repeat' first
    | with_reducible assumption
    | extract_lets +onlyGivenNames x
    | ((conv in State.mk _ _ _ _ _ _ _ _ _ _ _ _ _ _ _ _ _ _ _ _ _ _ _ _ _ => skip); with_reducible apply Frame.upd)
    | with_reducible exact .inr rfl
    | exact .inl ⟨Part.sub_has _ hfm (by decide), fun h => mapClear_wf _ _ _ _ h⟩

theorem putStk_frame {fm : List Part} {b0 : State} (s : State) (k : Nat) (v : StackSt)
    (hfr : Frame fm b0 s) (hfm : Part.sub [.stk] fm = true) : Frame fm b0 (putStk s k v) := by
  unfold putStk
  repeat' first
    | with_reducible assumption
    | extract_lets +onlyGivenNames x
    | ((conv in State.mk _ _ _ _ _ _ _ _ _ _ _ _ _ _ _ _ _ _ _ _ _ _ _ _ _ => skip); with_reducible apply Frame.upd)
    | with_reducible exact .inr rfl
    | exact .inl ⟨Part.sub_has _ hfm (by decide), fun h => by simpa only [List.length_set, List.length_map, List.length_zipIdx] using h⟩

theorem pput_frame {fm : List Part} {b0 : State} (s : State) (p : Nat) (f : Fld) (v : Nat)
    (hfr : Frame fm b0 s) (hfm : Part.sub [.regs] fm = true) : Frame fm b0 (pput s p f v) := by
  unfold pput
  repeat' first
    | with_reducible assumption
    | with_reducible apply rput_frame

theorem elapse_frame {fm : List Part} {b0 : State} (s : State) (n : Nat)
    (hfr : Frame fm b0 s) (hfm : Part.sub [.cyc, .tick, .tfrac] fm = true) : Frame fm b0 (elapse s n) := by
  unfold elapse
  repeat' first
    | with_reducible assumption
    | extract_lets +onlyGivenNames x
    | with_reducible apply Frame.ite
    | ((conv in State.mk _ _ _ _ _ _ _ _ _ _ _ _ _ _ _ _ _ _ _ _ _ _ _ _ _ => skip); with_reducible apply Frame.upd)
    | with_reducible exact .inr rfl
    | exact .inl (Part.sub_has _ hfm (by decide))

theorem elapseTo_frame {fm : List Part} {b0 : State} (s : State) (c : Nat)
    (hfr : Frame fm b0 s) (hfm : Part.sub [.cyc, .tick, .tfrac] fm = true) : Frame fm b0 (elapseTo s c) := by
  unfold elapseTo
  repeat' first
    | with_reducible assumption
    | with_reducible apply elapse_frame

theorem elapseToTick_frame {fm : List Part} {b0 : State} (s : State) (b : Nat)
    (hfr : Frame fm b0 s) (hfm : Part.sub [.cyc, .tick, .tfrac] fm = true) : Frame fm b0 (elapseToTick s b) := by
  unfold elapseToTick
  repeat' first
    | with_reducible assumption
    | extract_lets +onlyGivenNames x
    | with_reducible apply Frame.ite
    | ((conv in State.mk _ _ _ _ _ _ _ _ _ _ _ _ _ _ _ _ _ _ _ _ _ _ _ _ _ => skip); with_reducible apply Frame.upd)
    | with_reducible exact .inr rfl
    | exact .inl (Part.sub_has _ hfm (by decide))

theorem elapseNs_frame {fm : List Part} {b0 : State} (s : State) (n : Nat)
    (hfr : Frame fm b0 s) (hfm : Part.sub [.cyc, .tick, .tfrac] fm = true) : Frame fm b0 (elapseNs s n) := by
  unfold elapseNs
  repeat' first
    | with_reducible assumption
    | with_reducible apply elapseToTick_frame

theorem putTile_frame {m : List Part} {s0 : State} (s : State) (k site : Nat) (t : Tile)
    (h : Frame m s0 s) (ht : SafeParts s0 → tileSafe t = true) (hm : Part.sub [.tiles] m = true) :
    Frame m s0 (putTile s k site t) := by
  have hh : Frame m s0 s := h
  unfold putTile
  refine ⟨h.cyc, h.slot0, h.tick, h.tfrac, h.regs, .inl (Part.sub_has _ hm (by decide)), h.dram, h.net, h.reports, h.free,
    h.stk, h.vil, h.fleet, h.chr, h.serve, h.img, h.log, h.pwr, h.rst, h.bnc, h.snd, h.lsr, h.tap, h.answers, h.pending,
    fun hs => ?_⟩
  have g := hh.safe hs
  exact ⟨g.regs, g.dram, mapSet_wf _ _ _ _ g.tiles, fun p hp => (mem_mapSet _ _ _ _ p hp).elim
    (fun e => by rw [e]; exact ht hs) (g.tile p), g.stk, g.fleet, g.serve, g.vil⟩

theorem noteWaits_frame {fm : List Part} {b0 : State} (s : State) (k0 k ch : Nat)
    (hfr : Frame fm b0 s) (hfm : Part.sub [.regs] fm = true) : Frame fm b0 (noteWaits s k0 k ch) := by
  unfold noteWaits
  repeat' first
    | with_reducible assumption
    | exact Part.sub_trans (by decide) hfm
    | with_reducible intro _
    | (extract_lets +onlyGivenNames x; refine (fun hx => ?_ : (Frame fm b0 x) → _) ?_; (on_goal 2 => unfold x); all_goals clear_value x)
    | (extract_lets +onlyGivenNames x; refine (fun hx => ?_ : (Frame fm b0 x.1) → _) ?_; (on_goal 2 => unfold x); all_goals clear_value x)
    | (extract_lets +onlyGivenNames x; refine (fun hx => ?_ : (tileSafe x = true) → _) ?_; (on_goal 2 => unfold x); all_goals clear_value x)
    | (extract_lets +onlyGivenNames x; refine (fun hx => ?_ : (tileSafe x.1 = true) → _) ?_; (on_goal 2 => unfold x); all_goals clear_value x)
    | (extract_lets +onlyGivenNames x; refine (fun hx => ?_ : (FrameOpt fm b0 x) → _) ?_; (on_goal 2 => unfold x); all_goals clear_value x)
    | (extract_lets +onlyGivenNames x; refine (fun hx => ?_ : (Frame fm b0 x.st) → _) ?_; (on_goal 2 => unfold x); all_goals clear_value x)
    | extract_lets +onlyGivenNames x
    | with_reducible apply rbump_frame
    | with_reducible apply rput_frame
    | with_reducible apply rset_frame
    | with_reducible apply Frame.ite
    | split

theorem countFlits_frame {fm : List Part} {b0 : State} (s : State) (k ch n : Nat)
    (hfr : Frame fm b0 s) (hfm : Part.sub [.regs] fm = true) : Frame fm b0 (countFlits s k ch n) := by
  unfold countFlits
  repeat' first
    | with_reducible assumption
    | exact Part.sub_trans (by decide) hfm
    | with_reducible intro _
    | with_reducible apply noteWaits_frame
    | with_reducible apply rbump_frame

theorem crossFlits_frame {fm : List Part} {b0 : State} (s : State) (k j ch n : Nat)
    (hfr : Frame fm b0 s) (hfm : Part.sub [.regs] fm = true) : Frame fm b0 (crossFlits s k j ch n) := by
  unfold crossFlits
  repeat' first
    | with_reducible assumption
    | exact Part.sub_trans (by decide) hfm
    | with_reducible intro _
    | with_reducible apply noteWaits_frame
    | with_reducible apply countFlits_frame
    | with_reducible apply Frame.foldl
    | with_reducible apply Frame.foldlFst

theorem sendPacket_frame {fm : List Part} {b0 : State} (s : State) (k : Nat) (p : Packet)
    (hfr : Frame fm b0 s) (hfm : Part.sub [.regs, .net] fm = true) : Frame fm b0 (sendPacket s k p) := by
  unfold sendPacket
  repeat' first
    | with_reducible assumption
    | exact Part.sub_trans (by decide) hfm
    | with_reducible intro _
    | with_reducible apply crossFlits_frame
    | ((conv in State.mk _ _ _ _ _ _ _ _ _ _ _ _ _ _ _ _ _ _ _ _ _ _ _ _ _ => skip); with_reducible apply Frame.upd)
    | with_reducible exact .inr rfl
    | exact .inl (Part.sub_has _ hfm (by decide))
    | exact .inl ⟨Part.sub_has _ hfm (by decide), fun h => h⟩
    | exact .inl ⟨Part.sub_has _ hfm (by decide), fun h => by simpa only [List.length_set, List.length_map, List.length_zipIdx] using h⟩
    | extract_lets +onlyGivenNames x

theorem sendPackets_frame {fm : List Part} {b0 : State} (s : State) (k : Nat) (ps : List Packet)
    (hfr : Frame fm b0 s) (hfm : Part.sub [.regs, .net] fm = true) : Frame fm b0 (sendPackets s k ps) := by
  unfold sendPackets
  repeat' first
    | with_reducible assumption
    | with_reducible intro _
    | extract_lets +onlyGivenNames x
    | with_reducible apply sendPacket_frame
    | with_reducible apply Frame.foldl

theorem complete_frame {fm : List Part} {b0 : State} (s : State) (k : Nat) (p : Packet) (st : Status) (sat : Bool) (data : List Byte)
    (hfr : Frame fm b0 s) (hfm : Part.sub [.regs, .net] fm = true) : Frame fm b0 (complete s k p st sat data) := by
  unfold complete
  repeat' first
    | with_reducible assumption
    | extract_lets +onlyGivenNames x
    | with_reducible apply sendPacket_frame
    | ((conv in State.mk _ _ _ _ _ _ _ _ _ _ _ _ _ _ _ _ _ _ _ _ _ _ _ _ _ => skip); with_reducible apply Frame.upd)
    | with_reducible exact .inr rfl
    | exact .inl (Part.sub_has _ hfm (by decide))

theorem logExtra_frame {fm : List Part} {b0 : State} (s : State) (kind : Nat)
    (hfr : Frame fm b0 s) (hfm : Part.sub [.log] fm = true) : Frame fm b0 (logExtra s kind) := by
  unfold logExtra
  repeat' first
    | with_reducible assumption
    | extract_lets +onlyGivenNames x
    | ((conv in State.mk _ _ _ _ _ _ _ _ _ _ _ _ _ _ _ _ _ _ _ _ _ _ _ _ _ => skip); with_reducible apply Frame.upd)
    | with_reducible exact .inr rfl
    | exact .inl (Part.sub_has _ hfm (by decide))

theorem storeEntry_frame {fm : List Part} {b0 : State} (s : State) (e : LogEntry) (atOnce : Bool)
    (hfr : Frame fm b0 s) (hfm : Part.sub [.log] fm = true) : Frame fm b0 (storeEntry s e atOnce) := by
  unfold storeEntry
  repeat' first
    | with_reducible assumption
    | exact Part.sub_trans (by decide) hfm
    | with_reducible intro _
    | (extract_lets +onlyGivenNames x; refine (fun hx => ?_ : (Frame fm b0 x) → _) ?_; (on_goal 2 => unfold x); all_goals clear_value x)
    | (extract_lets +onlyGivenNames x; refine (fun hx => ?_ : (Frame fm b0 x.1) → _) ?_; (on_goal 2 => unfold x); all_goals clear_value x)
    | (extract_lets +onlyGivenNames x; refine (fun hx => ?_ : (tileSafe x = true) → _) ?_; (on_goal 2 => unfold x); all_goals clear_value x)
    | (extract_lets +onlyGivenNames x; refine (fun hx => ?_ : (tileSafe x.1 = true) → _) ?_; (on_goal 2 => unfold x); all_goals clear_value x)
    | (extract_lets +onlyGivenNames x; refine (fun hx => ?_ : (FrameOpt fm b0 x) → _) ?_; (on_goal 2 => unfold x); all_goals clear_value x)
    | (extract_lets +onlyGivenNames x; refine (fun hx => ?_ : (Frame fm b0 x.st) → _) ?_; (on_goal 2 => unfold x); all_goals clear_value x)
    | extract_lets +onlyGivenNames x
    | with_reducible apply Frame.ite
    | split
    | ((conv in State.mk _ _ _ _ _ _ _ _ _ _ _ _ _ _ _ _ _ _ _ _ _ _ _ _ _ => skip); with_reducible apply Frame.upd)
    | with_reducible exact .inr rfl
    | exact .inl (Part.sub_has _ hfm (by decide))
    | exact .inl ⟨Part.sub_has _ hfm (by decide), fun h => h⟩
    | exact .inl ⟨Part.sub_has _ hfm (by decide), fun h => by simpa only [List.length_set, List.length_map, List.length_zipIdx] using h⟩

theorem logCount_frame {fm : List Part} {b0 : State} (s : State) (u : UnitRef) (repeated : Bool) (n cause : Nat)
    (hfr : Frame fm b0 s) (hfm : Part.sub [.log] fm = true) : Frame fm b0 (logCount s u repeated n cause).1 := by
  unfold logCount
  repeat' first
    | with_reducible assumption
    | extract_lets +onlyGivenNames x
    | with_reducible apply storeEntry_frame

theorem logFlush_frame {fm : List Part} {b0 : State} (s : State)
    (hfr : Frame fm b0 s) (hfm : Part.sub [.log] fm = true) : Frame fm b0 (logFlush s) := by
  unfold logFlush
  repeat' first
    | with_reducible assumption
    | exact Part.sub_trans (by decide) hfm
    | with_reducible intro _
    | with_reducible apply Frame.foldl
    | with_reducible apply Frame.foldlFst
    | ((conv in State.mk _ _ _ _ _ _ _ _ _ _ _ _ _ _ _ _ _ _ _ _ _ _ _ _ _ => skip); with_reducible apply Frame.upd)
    | with_reducible exact .inr rfl
    | exact .inl (Part.sub_has _ hfm (by decide))
    | exact .inl ⟨Part.sub_has _ hfm (by decide), fun h => h⟩
    | exact .inl ⟨Part.sub_has _ hfm (by decide), fun h => by simpa only [List.length_set, List.length_map, List.length_zipIdx] using h⟩
    | extract_lets +onlyGivenNames x

theorem pendDemotion_frame {fm : List Part} {b0 : State} (s : State) (k site : Nat)
    (hfr : Frame fm b0 s) (hfm : Part.sub [.tiles] fm = true) : Frame fm b0 (pendDemotion s k site) := by
  unfold pendDemotion
  repeat' first
    | with_reducible assumption
    | with_reducible intro _
    | (extract_lets +onlyGivenNames x; refine (fun hx => ?_ : (SafeParts b0 → tileSafe x = true) → _) ?_; (on_goal 2 => unfold x); all_goals clear_value x)
    | extract_lets +onlyGivenNames x
    | with_reducible apply putTile_frame
    | (refine SafeParts.tileAt (Frame.safe (m := fm) ?_ ‹SafeParts b0›) _ _)
    | with_reducible exact (‹SafeParts _ → tileSafe _ = true› ‹_›)
    | ((conv in Tile.mk _ _ _ _ _ _ _ _ _ _ _ _ _ _ _ _ _ _ _ _ _ _ _ _ _ _ _ _ _ _ _ _ _ _ _ _ _ _ _ _ => skip); with_reducible apply tileSafe_upd)
    | with_reducible exact .inl rfl

theorem tileEvent_frame {fm : List Part} {b0 : State} (s : State) (k site : Nat) (repeated : Bool) (n cause : Nat)
    (hfr : Frame fm b0 s) (hfm : Part.sub [.tiles, .log] fm = true) : Frame fm b0 (tileEvent s k site repeated n cause) := by
  unfold tileEvent
  repeat' first
    | with_reducible assumption
    | exact Part.sub_trans (by decide) hfm
    | (extract_lets +onlyGivenNames x; refine (fun hx => ?_ : (Frame fm b0 x.1) → _) ?_; (on_goal 2 => unfold x); all_goals clear_value x)
    | extract_lets +onlyGivenNames x
    | with_reducible apply pendDemotion_frame
    | with_reducible apply logCount_frame
    | with_reducible apply Frame.ite

theorem groupEvent_frame {fm : List Part} {b0 : State} (s : State) (k site g : Nat) (repeated : Bool)
    (hfr : Frame fm b0 s) (hfm : Part.sub [.tiles, .log] fm = true) : Frame fm b0 (groupEvent s k site g repeated) := by
  unfold groupEvent
  repeat' first
    | with_reducible assumption
    | exact Part.sub_trans (by decide) hfm
    | (extract_lets +onlyGivenNames x; refine (fun hx => ?_ : (Frame fm b0 x.1) → _) ?_; (on_goal 2 => unfold x); all_goals clear_value x)
    | extract_lets +onlyGivenNames x
    | with_reducible apply pendDemotion_frame
    | with_reducible apply logCount_frame
    | with_reducible apply Frame.ite

theorem logCheck_frame {fm : List Part} {b0 : State} (k site : Nat) (s : State) (e : CheckEvent)
    (hfr : Frame fm b0 s) (hfm : Part.sub [.tiles, .log] fm = true) : Frame fm b0 (logCheck k site s e) := by
  unfold logCheck
  repeat' first
    | with_reducible assumption
    | with_reducible intro _
    | (extract_lets +onlyGivenNames x; refine (fun hx => ?_ : (Frame fm b0 x) → _) ?_; (on_goal 2 => unfold x); all_goals clear_value x)
    | extract_lets +onlyGivenNames x
    | with_reducible apply groupEvent_frame
    | with_reducible apply Frame.foldl
    | with_reducible apply Frame.ite
    | ((conv in State.mk _ _ _ _ _ _ _ _ _ _ _ _ _ _ _ _ _ _ _ _ _ _ _ _ _ => skip); with_reducible apply Frame.upd)
    | with_reducible exact .inr rfl
    | exact .inl (Part.sub_has _ hfm (by decide))

theorem drainChecks_frame {fm : List Part} {b0 : State} (s : State) (k site : Nat)
    (hfr : Frame fm b0 s) (hfm : Part.sub [.tiles, .log] fm = true) : Frame fm b0 (drainChecks s k site) := by
  unfold drainChecks
  repeat' first
    | with_reducible assumption
    | exact Part.sub_trans (by decide) hfm
    | with_reducible intro _
    | (extract_lets +onlyGivenNames x; refine (fun hx => ?_ : (SafeParts b0 → tileSafe x = true) → _) ?_; (on_goal 2 => unfold x); all_goals clear_value x)
    | extract_lets +onlyGivenNames x
    | with_reducible apply logCheck_frame
    | with_reducible apply putTile_frame
    | with_reducible apply Frame.foldl
    | with_reducible apply Frame.ite
    | (refine SafeParts.tileAt (Frame.safe (m := fm) ?_ ‹SafeParts b0›) _ _)
    | with_reducible exact (‹SafeParts _ → tileSafe _ = true› ‹_›)
    | ((conv in Tile.mk _ _ _ _ _ _ _ _ _ _ _ _ _ _ _ _ _ _ _ _ _ _ _ _ _ _ _ _ _ _ _ _ _ _ _ _ _ _ _ _ => skip); with_reducible apply tileSafe_upd)
    | with_reducible exact .inl rfl

theorem onTile_frame {fm : List Part} {b0 : State} (s : State) (r : TileRef) (g : Ctx → Tile → Tile × List Packet × Nat) (hg : ∀ c t, tileSafe t = true → tileSafe (g c t).1 = true)
    (hfr : Frame fm b0 s) (hfm : Part.sub [.cyc, .tick, .tfrac, .regs, .tiles, .net, .reports, .log] fm = true) : Frame fm b0 (onTile s r g) := by
  unfold onTile
  repeat' first
    | with_reducible assumption
    | exact Part.sub_trans (by decide) hfm
    | with_reducible intro _
    | (extract_lets +onlyGivenNames x; refine (fun hx => ?_ : (Frame fm b0 x) → _) ?_; (on_goal 2 => unfold x); all_goals clear_value x)
    | (extract_lets +onlyGivenNames x; refine (fun hx => ?_ : (SafeParts b0 → tileSafe x = true) → _) ?_; (on_goal 2 => unfold x); all_goals clear_value x)
    | (extract_lets +onlyGivenNames x; refine (fun hx => ?_ : (SafeParts b0 → tileSafe x.1 = true) → _) ?_; (on_goal 2 => unfold x); all_goals clear_value x)
    | extract_lets +onlyGivenNames x
    | with_reducible apply drainChecks_frame
    | with_reducible apply sendPackets_frame
    | with_reducible apply putTile_frame
    | with_reducible apply elapseTo_frame
    | with_reducible apply hg
    | (refine SafeParts.tileAt (Frame.safe (m := fm) ?_ ‹SafeParts b0›) _ _)
    | with_reducible exact (‹SafeParts _ → tileSafe _ = true› ‹_›)
    | split
    | ((conv in State.mk _ _ _ _ _ _ _ _ _ _ _ _ _ _ _ _ _ _ _ _ _ _ _ _ _ => skip); with_reducible apply Frame.upd)
    | with_reducible exact .inr rfl
    | exact .inl (Part.sub_has _ hfm (by decide))

theorem runIssue_frame {fm : List Part} {b0 : State} (s : State) (e : Engine) (op : Nat) (i : Issue) (phased : Bool) (u : OpUnit) (hu : UnitSafe u)
    (hfr : Frame fm b0 s) (hfm : Part.sub [.cyc, .tick, .tfrac, .regs, .tiles, .net, .reports, .log] fm = true) : Frame fm b0 (runIssue s e op i phased u) := by
  unfold runIssue
  repeat' first
    | with_reducible assumption
    | exact Part.sub_trans (by decide) hfm
    | with_reducible intro _
    | extract_lets +onlyGivenNames x
    | with_reducible apply onTile_frame
    | with_reducible apply elapse_frame
    | with_reducible apply reach_safe

theorem changeTile_frame {fm : List Part} {b0 : State} (s : State) (r : TileRef) (g : Ctx → Tile → Tile) (hg : ∀ c t, tileSafe t = true → tileSafe (g c t) = true)
    (hfr : Frame fm b0 s) (hfm : Part.sub [.cyc, .tick, .tfrac, .regs, .tiles, .net, .reports, .log] fm = true) : Frame fm b0 (changeTile s r g) := by
  unfold changeTile
  repeat' first
    | with_reducible assumption
    | with_reducible intro _
    | extract_lets +onlyGivenNames x
    | with_reducible apply onTile_frame
    | with_reducible apply bankTokens_safe
    | with_reducible apply settle_safe
    | with_reducible apply hg

theorem changeSite_frame {fm : List Part} {b0 : State} (s : State) (k site : Nat) (g : Tile → Tile) (hg : ∀ t, tileSafe t = true → tileSafe (g t) = true)
    (hfr : Frame fm b0 s) (hfm : Part.sub [.tiles, .reports, .log] fm = true) : Frame fm b0 (changeSite s k site g) := by
  unfold changeSite
  repeat' first
    | with_reducible assumption
    | exact Part.sub_trans (by decide) hfm
    | with_reducible intro _
    | (extract_lets +onlyGivenNames x; refine (fun hx => ?_ : (Frame fm b0 x) → _) ?_; (on_goal 2 => unfold x); all_goals clear_value x)
    | (extract_lets +onlyGivenNames x; refine (fun hx => ?_ : (Frame fm b0 x.1) → _) ?_; (on_goal 2 => unfold x); all_goals clear_value x)
    | (extract_lets +onlyGivenNames x; refine (fun hx => ?_ : (SafeParts b0 → tileSafe x = true) → _) ?_; (on_goal 2 => unfold x); all_goals clear_value x)
    | (extract_lets +onlyGivenNames x; refine (fun hx => ?_ : (SafeParts b0 → tileSafe x.1 = true) → _) ?_; (on_goal 2 => unfold x); all_goals clear_value x)
    | (extract_lets +onlyGivenNames x; refine (fun hx => ?_ : (FrameOpt fm b0 x) → _) ?_; (on_goal 2 => unfold x); all_goals clear_value x)
    | (extract_lets +onlyGivenNames x; refine (fun hx => ?_ : (Frame fm b0 x.st) → _) ?_; (on_goal 2 => unfold x); all_goals clear_value x)
    | extract_lets +onlyGivenNames x
    | with_reducible apply hg
    | with_reducible apply putTile_frame
    | with_reducible apply drainChecks_frame
    | with_reducible apply settle_safe
    | ((conv in State.mk _ _ _ _ _ _ _ _ _ _ _ _ _ _ _ _ _ _ _ _ _ _ _ _ _ => skip); with_reducible apply Frame.upd)
    | with_reducible exact .inr rfl
    | exact .inl (Part.sub_has _ hfm (by decide))
    | exact .inl ⟨Part.sub_has _ hfm (by decide), fun h => h⟩
    | exact .inl ⟨Part.sub_has _ hfm (by decide), fun h => by simpa only [List.length_set, List.length_map, List.length_zipIdx] using h⟩
    | ((conv in Tile.mk _ _ _ _ _ _ _ _ _ _ _ _ _ _ _ _ _ _ _ _ _ _ _ _ _ _ _ _ _ _ _ _ _ _ _ _ _ _ _ _ => skip); with_reducible apply tileSafe_upd)
    | with_reducible exact .inl rfl
    | (refine SafeParts.tileAt (Frame.safe (m := fm) ?_ ‹SafeParts b0›) _ _)
    | with_reducible exact (‹SafeParts _ → tileSafe _ = true› ‹_›)

theorem govWithdraw_frame {fm : List Part} {b0 : State} (s : State) (start : Bool) (k l : Nat)
    (hfr : Frame fm b0 s) (hfm : Part.sub [.pwr] fm = true) : Frame fm b0 (govWithdraw s start k l) := by
  unfold govWithdraw
  repeat' first
    | with_reducible assumption
    | extract_lets +onlyGivenNames x
    | ((conv in State.mk _ _ _ _ _ _ _ _ _ _ _ _ _ _ _ _ _ _ _ _ _ _ _ _ _ => skip); with_reducible apply Frame.upd)
    | with_reducible exact .inr rfl
    | exact .inl (Part.sub_has _ hfm (by decide))

theorem govAdd_frame {fm : List Part} {b0 : State} (s : State) (start : Bool) (k l : Nat)
    (hfr : Frame fm b0 s) (hfm : Part.sub [.pwr] fm = true) : Frame fm b0 (govAdd s start k l) := by
  unfold govAdd
  repeat' first
    | with_reducible assumption
    | extract_lets +onlyGivenNames x
    | ((conv in State.mk _ _ _ _ _ _ _ _ _ _ _ _ _ _ _ _ _ _ _ _ _ _ _ _ _ => skip); with_reducible apply Frame.upd)
    | with_reducible exact .inr rfl
    | exact .inl (Part.sub_has _ hfm (by decide))

theorem askStart_frame {fm : List Part} {b0 : State} (s : State) (k l : Nat)
    (hfr : Frame fm b0 s) (hfm : Part.sub [.tiles, .pwr] fm = true) : Frame fm b0 (askStart s k l) := by
  unfold askStart
  repeat' first
    | with_reducible assumption
    | exact Part.sub_trans (by decide) hfm
    | with_reducible intro _
    | (extract_lets +onlyGivenNames x; refine (fun hx => ?_ : (SafeParts b0 → tileSafe x = true) → _) ?_; (on_goal 2 => unfold x); all_goals clear_value x)
    | extract_lets +onlyGivenNames x
    | with_reducible apply govAdd_frame
    | with_reducible apply govWithdraw_frame
    | with_reducible apply putTile_frame
    | with_reducible apply Frame.ite
    | (refine SafeParts.tileAt (Frame.safe (m := fm) ?_ ‹SafeParts b0›) _ _)
    | with_reducible exact (‹SafeParts _ → tileSafe _ = true› ‹_›)
    | split
    | ((conv in Tile.mk _ _ _ _ _ _ _ _ _ _ _ _ _ _ _ _ _ _ _ _ _ _ _ _ _ _ _ _ _ _ _ _ _ _ _ _ _ _ _ _ => skip); with_reducible apply tileSafe_upd)
    | with_reducible exact .inl rfl

theorem askStop_frame {fm : List Part} {b0 : State} (s : State) (k l : Nat)
    (hfr : Frame fm b0 s) (hfm : Part.sub [.pwr] fm = true) : Frame fm b0 (askStop s k l) := by
  unfold askStop
  repeat' first
    | with_reducible assumption
    | extract_lets +onlyGivenNames x
    | with_reducible apply govAdd_frame
    | with_reducible apply Frame.ite
    | split

theorem govDefer_frame {fm : List Part} {b0 : State} (s : State) (start : Bool)
    (hfr : Frame fm b0 s) (hfm : Part.sub [.regs, .pwr] fm = true) : Frame fm b0 (govDefer s start) := by
  unfold govDefer
  repeat' first
    | with_reducible assumption
    | exact Part.sub_trans (by decide) hfm
    | with_reducible intro _
    | (extract_lets +onlyGivenNames x; refine (fun hx => ?_ : (Frame fm b0 x) → _) ?_; (on_goal 2 => unfold x); all_goals clear_value x)
    | (extract_lets +onlyGivenNames x; refine (fun hx => ?_ : (Frame fm b0 x.1) → _) ?_; (on_goal 2 => unfold x); all_goals clear_value x)
    | (extract_lets +onlyGivenNames x; refine (fun hx => ?_ : (tileSafe x = true) → _) ?_; (on_goal 2 => unfold x); all_goals clear_value x)
    | (extract_lets +onlyGivenNames x; refine (fun hx => ?_ : (tileSafe x.1 = true) → _) ?_; (on_goal 2 => unfold x); all_goals clear_value x)
    | (extract_lets +onlyGivenNames x; refine (fun hx => ?_ : (FrameOpt fm b0 x) → _) ?_; (on_goal 2 => unfold x); all_goals clear_value x)
    | (extract_lets +onlyGivenNames x; refine (fun hx => ?_ : (Frame fm b0 x.st) → _) ?_; (on_goal 2 => unfold x); all_goals clear_value x)
    | extract_lets +onlyGivenNames x
    | with_reducible apply rbump_frame
    | with_reducible apply Frame.ite
    | split
    | ((conv in State.mk _ _ _ _ _ _ _ _ _ _ _ _ _ _ _ _ _ _ _ _ _ _ _ _ _ => skip); with_reducible apply Frame.upd)
    | with_reducible exact .inr rfl
    | exact .inl (Part.sub_has _ hfm (by decide))
    | exact .inl ⟨Part.sub_has _ hfm (by decide), fun h => h⟩
    | exact .inl ⟨Part.sub_has _ hfm (by decide), fun h => by simpa only [List.length_set, List.length_map, List.length_zipIdx] using h⟩

theorem startClock_frame {fm : List Part} {b0 : State} (s : State) (q : GovReq)
    (hfr : Frame fm b0 s) (hfm : Part.sub [.cyc, .tick, .tfrac, .regs, .tiles, .net, .reports, .log, .pwr] fm = true) : Frame fm b0 (startClock s q) := by
  unfold startClock
  repeat' first
    | with_reducible assumption
    | exact Part.sub_trans (by decide) hfm
    | with_reducible intro _
    | (extract_lets +onlyGivenNames x; refine (fun hx => ?_ : (Frame fm b0 x) → _) ?_; (on_goal 2 => unfold x); all_goals clear_value x)
    | (extract_lets +onlyGivenNames x; refine (fun hx => ?_ : (Frame fm b0 x.1) → _) ?_; (on_goal 2 => unfold x); all_goals clear_value x)
    | (extract_lets +onlyGivenNames x; refine (fun hx => ?_ : (tileSafe x = true) → _) ?_; (on_goal 2 => unfold x); all_goals clear_value x)
    | (extract_lets +onlyGivenNames x; refine (fun hx => ?_ : (tileSafe x.1 = true) → _) ?_; (on_goal 2 => unfold x); all_goals clear_value x)
    | (extract_lets +onlyGivenNames x; refine (fun hx => ?_ : (FrameOpt fm b0 x) → _) ?_; (on_goal 2 => unfold x); all_goals clear_value x)
    | (extract_lets +onlyGivenNames x; refine (fun hx => ?_ : (Frame fm b0 x.st) → _) ?_; (on_goal 2 => unfold x); all_goals clear_value x)
    | extract_lets +onlyGivenNames x
    | with_reducible apply rbump_frame
    | with_reducible apply govWithdraw_frame
    | with_reducible apply changeTile_frame
    | with_reducible apply tbump_safe
    | with_reducible apply busyAt_safe
    | with_reducible apply lateSlots_safe
    | ((conv in State.mk _ _ _ _ _ _ _ _ _ _ _ _ _ _ _ _ _ _ _ _ _ _ _ _ _ => skip); with_reducible apply Frame.upd)
    | with_reducible exact .inr rfl
    | exact .inl (Part.sub_has _ hfm (by decide))
    | exact .inl ⟨Part.sub_has _ hfm (by decide), fun h => h⟩
    | exact .inl ⟨Part.sub_has _ hfm (by decide), fun h => by simpa only [List.length_set, List.length_map, List.length_zipIdx] using h⟩
    | ((conv in Tile.mk _ _ _ _ _ _ _ _ _ _ _ _ _ _ _ _ _ _ _ _ _ _ _ _ _ _ _ _ _ _ _ _ _ _ _ _ _ _ _ _ => skip); with_reducible apply tileSafe_upd)
    | with_reducible exact .inl rfl

theorem stopClock_frame {fm : List Part} {b0 : State} (s : State) (q : GovReq)
    (hfr : Frame fm b0 s) (hfm : Part.sub [.cyc, .tick, .tfrac, .regs, .tiles, .net, .reports, .log, .pwr] fm = true) : Frame fm b0 (stopClock s q) := by
  unfold stopClock
  repeat' first
    | with_reducible assumption
    | exact Part.sub_trans (by decide) hfm
    | with_reducible intro _
    | (extract_lets +onlyGivenNames x; refine (fun hx => ?_ : (Frame fm b0 x) → _) ?_; (on_goal 2 => unfold x); all_goals clear_value x)
    | (extract_lets +onlyGivenNames x; refine (fun hx => ?_ : (Frame fm b0 x.1) → _) ?_; (on_goal 2 => unfold x); all_goals clear_value x)
    | (extract_lets +onlyGivenNames x; refine (fun hx => ?_ : (tileSafe x = true) → _) ?_; (on_goal 2 => unfold x); all_goals clear_value x)
    | (extract_lets +onlyGivenNames x; refine (fun hx => ?_ : (tileSafe x.1 = true) → _) ?_; (on_goal 2 => unfold x); all_goals clear_value x)
    | (extract_lets +onlyGivenNames x; refine (fun hx => ?_ : (FrameOpt fm b0 x) → _) ?_; (on_goal 2 => unfold x); all_goals clear_value x)
    | (extract_lets +onlyGivenNames x; refine (fun hx => ?_ : (Frame fm b0 x.st) → _) ?_; (on_goal 2 => unfold x); all_goals clear_value x)
    | extract_lets +onlyGivenNames x
    | with_reducible apply rbump_frame
    | with_reducible apply govWithdraw_frame
    | with_reducible apply changeTile_frame
    | ((conv in State.mk _ _ _ _ _ _ _ _ _ _ _ _ _ _ _ _ _ _ _ _ _ _ _ _ _ => skip); with_reducible apply Frame.upd)
    | with_reducible exact .inr rfl
    | exact .inl (Part.sub_has _ hfm (by decide))
    | exact .inl ⟨Part.sub_has _ hfm (by decide), fun h => h⟩
    | exact .inl ⟨Part.sub_has _ hfm (by decide), fun h => by simpa only [List.length_set, List.length_map, List.length_zipIdx] using h⟩
    | ((conv in Tile.mk _ _ _ _ _ _ _ _ _ _ _ _ _ _ _ _ _ _ _ _ _ _ _ _ _ _ _ _ _ _ _ _ _ _ _ _ _ _ _ _ => skip); with_reducible apply tileSafe_upd)
    | with_reducible exact .inl rfl

theorem putWords_frame {fm : List Part} {b0 : State} (s : State) (off : Nat) (ws : List Word)
    (hfr : Frame fm b0 s) (hfm : Part.sub [.regs] fm = true) : Frame fm b0 (putWords s off ws) := by
  unfold putWords
  repeat' first
    | with_reducible assumption
    | with_reducible intro _
    | extract_lets +onlyGivenNames x
    | with_reducible apply setRword_frame
    | with_reducible apply Frame.foldl

theorem clearSecrets_frame {m : List Part} {s0 : State} (s : State) (h : Frame m s0 s)
    (hm : Part.sub [.regs, .lsr] m = true) : Frame m s0 (clearSecrets s) := by
  unfold clearSecrets
  extract_lets s1 s2
  have h1 : Frame m s0 s1 :=
    putWords_frame _ _ _ (putWords_frame _ _ _ h (Part.sub_trans (by decide) hm)) (Part.sub_trans (by decide) hm)
  have h2 : Frame m s0 s2 := by
    apply rbump_frame _ _ _ _ _ (Part.sub_trans (by decide) hm)
    clear_value s1
    apply Frame.upd (t := s1) (h := h1)
    all_goals first | with_reducible exact .inr rfl | exact .inl (Part.sub_has _ hm (by decide))
  exact Frame.ite h2 (rset_frame _ _ _ _ h2 (Part.sub_trans (by decide) hm))

theorem drawNonce_frame {fm : List Part} {b0 : State} (s : State)
    (hfr : Frame fm b0 s) (hfm : Part.sub [.regs, .lsr] fm = true) : Frame fm b0 (drawNonce s) := by
  unfold drawNonce
  repeat' first
    | with_reducible assumption
    | exact Part.sub_trans (by decide) hfm
    | with_reducible intro _
    | (extract_lets +onlyGivenNames x; refine (fun hx => ?_ : (Frame fm b0 x) → _) ?_; (on_goal 2 => unfold x); all_goals clear_value x)
    | (extract_lets +onlyGivenNames x; refine (fun hx => ?_ : (Frame fm b0 x.1) → _) ?_; (on_goal 2 => unfold x); all_goals clear_value x)
    | (extract_lets +onlyGivenNames x; refine (fun hx => ?_ : (tileSafe x = true) → _) ?_; (on_goal 2 => unfold x); all_goals clear_value x)
    | (extract_lets +onlyGivenNames x; refine (fun hx => ?_ : (tileSafe x.1 = true) → _) ?_; (on_goal 2 => unfold x); all_goals clear_value x)
    | (extract_lets +onlyGivenNames x; refine (fun hx => ?_ : (FrameOpt fm b0 x) → _) ?_; (on_goal 2 => unfold x); all_goals clear_value x)
    | (extract_lets +onlyGivenNames x; refine (fun hx => ?_ : (Frame fm b0 x.st) → _) ?_; (on_goal 2 => unfold x); all_goals clear_value x)
    | extract_lets +onlyGivenNames x
    | with_reducible apply putWords_frame
    | ((conv in State.mk _ _ _ _ _ _ _ _ _ _ _ _ _ _ _ _ _ _ _ _ _ _ _ _ _ => skip); with_reducible apply Frame.upd)
    | with_reducible exact .inr rfl
    | exact .inl (Part.sub_has _ hfm (by decide))
    | exact .inl ⟨Part.sub_has _ hfm (by decide), fun h => h⟩
    | exact .inl ⟨Part.sub_has _ hfm (by decide), fun h => by simpa only [List.length_set, List.length_map, List.length_zipIdx] using h⟩

theorem dropDomains_frame {m : List Part} {s0 : State} (s : State) (h : Frame m s0 s)
    (hm : Part.sub [.slot0, .tick, .tfrac, .regs, .tiles, .dram, .net, .reports, .stk, .vil, .fleet, .chr, .serve, .img, .pwr, .rst, .lsr] m = true) : Frame m s0 (dropDomains s) := by
  unfold dropDomains
  apply Frame.upd (t := s) (h := h)
  case h_regs => exact .inl ⟨Part.sub_has _ hm (by decide), mapWf_filter _ _ _⟩
  case h_tiles => exact .inl ⟨Part.sub_has _ hm (by decide), fun _ => ⟨rfl, by simp⟩⟩
  case h_dram => exact .inl ⟨Part.sub_has _ hm (by decide), fun _ => rfl⟩
  case h_stk => exact .inl ⟨Part.sub_has _ hm (by decide), fun g => by simpa only [List.length_map] using g⟩
  case h_fleet => exact .inl ⟨Part.sub_has _ hm (by decide), fun _ => rfl⟩
  case h_serve => exact .inl ⟨Part.sub_has _ hm (by decide), fun _ => ⟨rfl, rfl⟩⟩
  case h_vil => exact .inl ⟨Part.sub_has _ hm (by decide), fun _ => rfl⟩
  all_goals first | with_reducible exact .inr rfl | exact .inl (Part.sub_has _ hm (by decide))

theorem recordCause_frame {fm : List Part} {b0 : State} (s : State) (w : Word)
    (hfr : Frame fm b0 s) (hfm : Part.sub [.regs, .rst] fm = true) : Frame fm b0 (recordCause s w) := by
  unfold recordCause
  repeat' first
    | with_reducible assumption
    | exact Part.sub_trans (by decide) hfm
    | with_reducible intro _
    | with_reducible apply setRword_frame
    | with_reducible apply Frame.ite
    | split
    | ((conv in State.mk _ _ _ _ _ _ _ _ _ _ _ _ _ _ _ _ _ _ _ _ _ _ _ _ _ => skip); with_reducible apply Frame.upd)
    | with_reducible exact .inr rfl
    | exact .inl (Part.sub_has _ hfm (by decide))
    | exact .inl ⟨Part.sub_has _ hfm (by decide), fun h => h⟩
    | exact .inl ⟨Part.sub_has _ hfm (by decide), fun h => by simpa only [List.length_set, List.length_map, List.length_zipIdx] using h⟩

theorem lastReset_frame {fm : List Part} {b0 : State} (s : State) (cause : Nat)
    (hfr : Frame fm b0 s) (hfm : Part.sub [.regs, .rst] fm = true) : Frame fm b0 (lastReset s cause) := by
  unfold lastReset
  repeat' first
    | with_reducible assumption
    | exact Part.sub_trans (by decide) hfm
    | with_reducible intro _
    | with_reducible apply recordCause_frame

theorem dropIsland_frame {m : List Part} {s0 : State} (s : State) (h : Frame m s0 s)
    (hm : Part.sub [.regs, .log, .rst, .bnc, .snd, .lsr] m = true) : Frame m s0 (dropIsland s) := by
  unfold dropIsland
  apply Frame.upd (t := s) (h := h)
  case h_regs => exact .inl ⟨Part.sub_has _ hm (by decide), fun _ => mapSet_wf _ _ _ _ (mapSet_wf _ _ _ _ (mapSet_wf _ _ _ _ rfl))⟩
  all_goals first | with_reducible exact .inr rfl | exact .inl (Part.sub_has _ hm (by decide))

theorem spoilCopy_frame {fm : List Part} {b0 : State} (s : State) (k : Nat)
    (hfr : Frame fm b0 s) (hfm : Part.sub [.stk] fm = true) : Frame fm b0 (spoilCopy s k) := by
  unfold spoilCopy
  repeat' first
    | with_reducible assumption
    | exact Part.sub_trans (by decide) hfm
    | with_reducible intro _
    | (extract_lets +onlyGivenNames x; refine (fun hx => ?_ : (Frame fm b0 x) → _) ?_; (on_goal 2 => unfold x); all_goals clear_value x)
    | (extract_lets +onlyGivenNames x; refine (fun hx => ?_ : (Frame fm b0 x.1) → _) ?_; (on_goal 2 => unfold x); all_goals clear_value x)
    | (extract_lets +onlyGivenNames x; refine (fun hx => ?_ : (tileSafe x = true) → _) ?_; (on_goal 2 => unfold x); all_goals clear_value x)
    | (extract_lets +onlyGivenNames x; refine (fun hx => ?_ : (tileSafe x.1 = true) → _) ?_; (on_goal 2 => unfold x); all_goals clear_value x)
    | (extract_lets +onlyGivenNames x; refine (fun hx => ?_ : (FrameOpt fm b0 x) → _) ?_; (on_goal 2 => unfold x); all_goals clear_value x)
    | (extract_lets +onlyGivenNames x; refine (fun hx => ?_ : (Frame fm b0 x.st) → _) ?_; (on_goal 2 => unfold x); all_goals clear_value x)
    | extract_lets +onlyGivenNames x
    | with_reducible apply putStk_frame
    | with_reducible apply Frame.ite
    | split
    | ((conv in State.mk _ _ _ _ _ _ _ _ _ _ _ _ _ _ _ _ _ _ _ _ _ _ _ _ _ => skip); with_reducible apply Frame.upd)
    | with_reducible exact .inr rfl
    | exact .inl (Part.sub_has _ hfm (by decide))
    | exact .inl ⟨Part.sub_has _ hfm (by decide), fun h => h⟩
    | exact .inl ⟨Part.sub_has _ hfm (by decide), fun h => by simpa only [List.length_set, List.length_map, List.length_zipIdx] using h⟩

theorem endLoad_frame {m : List Part} {s0 : State} (s : State) (h : Frame m s0 s)
    (hm : Part.sub [.regs, .lsr] m = true) : Frame m s0 (endLoad s) := by
  unfold endLoad
  split
  · exact h
  · apply rput_frame _ _ _ _ _ _ (Part.sub_trans (by decide) hm)
    apply Frame.upd (t := s) (h := h)
    all_goals first | with_reducible exact .inr rfl | exact .inl (Part.sub_has _ hm (by decide))

theorem resetStatus_frame {fm : List Part} {b0 : State} (s : State) (step : Nat)
    (hfr : Frame fm b0 s) (hfm : Part.sub [.regs, .bnc] fm = true) : Frame fm b0 (resetStatus s step) := by
  unfold resetStatus
  repeat' first
    | with_reducible assumption
    | exact Part.sub_trans (by decide) hfm
    | (extract_lets +onlyGivenNames x; refine (fun hx => ?_ : (Frame fm b0 x) → _) ?_; (on_goal 2 => unfold x); all_goals clear_value x)
    | extract_lets +onlyGivenNames x
    | with_reducible apply rput_frame
    | ((conv in State.mk _ _ _ _ _ _ _ _ _ _ _ _ _ _ _ _ _ _ _ _ _ _ _ _ _ => skip); with_reducible apply Frame.upd)
    | with_reducible exact .inr rfl
    | exact .inl (Part.sub_has _ hfm (by decide))

theorem holdTiles_frame {fm : List Part} {b0 : State} (s : State) (k : Nat)
    (hfr : Frame fm b0 s) (hfm : Part.sub [.tiles, .pwr] fm = true) : Frame fm b0 (holdTiles s k) := by
  unfold holdTiles
  repeat' first
    | with_reducible assumption
    | exact Part.sub_trans (by decide) hfm
    | with_reducible intro _
    | (extract_lets +onlyGivenNames x; refine (fun hx => ?_ : (Frame fm b0 x) → _) ?_; (on_goal 2 => unfold x); all_goals clear_value x)
    | extract_lets +onlyGivenNames x
    | with_reducible apply putTile_frame
    | with_reducible apply Frame.foldl
    | with_reducible apply Tile_hold_safe
    | (refine SafeParts.tileAt (Frame.safe (m := fm) ?_ ‹SafeParts b0›) _ _)
    | ((conv in State.mk _ _ _ _ _ _ _ _ _ _ _ _ _ _ _ _ _ _ _ _ _ _ _ _ _ => skip); with_reducible apply Frame.upd)
    | with_reducible exact .inr rfl
    | exact .inl (Part.sub_has _ hfm (by decide))

theorem stackOff_frame {m : List Part} {s0 : State} (s : State) (k : Nat) (h : Frame m s0 s)
    (hm : Part.sub [.regs, .tiles, .dram, .stk, .pwr] m = true) : Frame m s0 (stackOff s k) := by
  unfold stackOff
  apply rput_frame _ _ _ _ _ _ (Part.sub_trans (by decide) hm)
  apply putStk_frame _ _ _ _ (Part.sub_trans (by decide) hm)
  apply Frame.upd (t := holdTiles s k) (h := holdTiles_frame s k h (Part.sub_trans (by decide) hm))
  case h_dram => exact .inl ⟨Part.sub_has _ hm (by decide), mapClear_wf _ _ _ _⟩
  all_goals first | with_reducible exact .inr rfl | exact .inl (Part.sub_has _ hm (by decide))

theorem lastBlock_frame {fm : List Part} {b0 : State} (s : State) (b : UnitRef) (late : Bool)
    (hfr : Frame fm b0 s) (hfm : Part.sub [.regs, .rst] fm = true) : Frame fm b0 (lastBlock s b late) := by
  unfold lastBlock
  repeat' first
    | with_reducible assumption
    | exact Part.sub_trans (by decide) hfm
    | with_reducible intro _
    | (extract_lets +onlyGivenNames x; refine (fun hx => ?_ : (Frame fm b0 x) → _) ?_; (on_goal 2 => unfold x); all_goals clear_value x)
    | (extract_lets +onlyGivenNames x; refine (fun hx => ?_ : (Frame fm b0 x.1) → _) ?_; (on_goal 2 => unfold x); all_goals clear_value x)
    | (extract_lets +onlyGivenNames x; refine (fun hx => ?_ : (tileSafe x = true) → _) ?_; (on_goal 2 => unfold x); all_goals clear_value x)
    | (extract_lets +onlyGivenNames x; refine (fun hx => ?_ : (tileSafe x.1 = true) → _) ?_; (on_goal 2 => unfold x); all_goals clear_value x)
    | (extract_lets +onlyGivenNames x; refine (fun hx => ?_ : (FrameOpt fm b0 x) → _) ?_; (on_goal 2 => unfold x); all_goals clear_value x)
    | (extract_lets +onlyGivenNames x; refine (fun hx => ?_ : (Frame fm b0 x.st) → _) ?_; (on_goal 2 => unfold x); all_goals clear_value x)
    | extract_lets +onlyGivenNames x
    | with_reducible apply recordCause_frame
    | with_reducible apply Frame.ite
    | split

theorem assertTile_frame {fm : List Part} {b0 : State} (s : State) (b : UnitRef)
    (hfr : Frame fm b0 s) (hfm : Part.sub [.tiles, .reports, .log, .pwr] fm = true) : Frame fm b0 (assertTile s b) := by
  unfold assertTile
  repeat' first
    | with_reducible assumption
    | exact Part.sub_trans (by decide) hfm
    | with_reducible intro _
    | (extract_lets +onlyGivenNames x; refine (fun hx => ?_ : (Frame fm b0 x) → _) ?_; (on_goal 2 => unfold x); all_goals clear_value x)
    | (extract_lets +onlyGivenNames x; refine (fun hx => ?_ : (Frame fm b0 x.1) → _) ?_; (on_goal 2 => unfold x); all_goals clear_value x)
    | (extract_lets +onlyGivenNames x; refine (fun hx => ?_ : (SafeParts b0 → tileSafe x = true) → _) ?_; (on_goal 2 => unfold x); all_goals clear_value x)
    | (extract_lets +onlyGivenNames x; refine (fun hx => ?_ : (SafeParts b0 → tileSafe x.1 = true) → _) ?_; (on_goal 2 => unfold x); all_goals clear_value x)
    | (extract_lets +onlyGivenNames x; refine (fun hx => ?_ : (FrameOpt fm b0 x) → _) ?_; (on_goal 2 => unfold x); all_goals clear_value x)
    | (extract_lets +onlyGivenNames x; refine (fun hx => ?_ : (Frame fm b0 x.st) → _) ?_; (on_goal 2 => unfold x); all_goals clear_value x)
    | extract_lets +onlyGivenNames x
    | with_reducible apply govWithdraw_frame
    | with_reducible apply changeSite_frame
    | with_reducible apply putTile_frame
    | (with_reducible refine Frame.ofPair ‹_ = (_, _)› ?_)
    | split
    | ((conv in State.mk _ _ _ _ _ _ _ _ _ _ _ _ _ _ _ _ _ _ _ _ _ _ _ _ _ => skip); with_reducible apply Frame.upd)
    | with_reducible exact .inr rfl
    | exact .inl (Part.sub_has _ hfm (by decide))
    | exact .inl ⟨Part.sub_has _ hfm (by decide), fun h => h⟩
    | exact .inl ⟨Part.sub_has _ hfm (by decide), fun h => by simpa only [List.length_set, List.length_map, List.length_zipIdx] using h⟩
    | ((conv in Tile.mk _ _ _ _ _ _ _ _ _ _ _ _ _ _ _ _ _ _ _ _ _ _ _ _ _ _ _ _ _ _ _ _ _ _ _ _ _ _ _ _ => skip); with_reducible apply tileSafe_upd)
    | with_reducible exact .inl rfl
    | (refine SafeParts.tileAt (Frame.safe (m := fm) ?_ ‹SafeParts b0›) _ _)
    | with_reducible exact (‹SafeParts _ → tileSafe _ = true› ‹_›)
    | with_reducible apply Tile_hold_safe
    | exact ‹tileSafe _ = true›

theorem assertHelm_frame {fm : List Part} {b0 : State} (s : State) (k : Nat)
    (hfr : Frame fm b0 s) (hfm : Part.sub [.regs, .stk] fm = true) : Frame fm b0 (assertHelm s k) := by
  unfold assertHelm
  repeat' first
    | with_reducible assumption
    | exact Part.sub_trans (by decide) hfm
    | with_reducible intro _
    | with_reducible apply putStk_frame
    | with_reducible apply resetBlock_frame
    | ((conv in State.mk _ _ _ _ _ _ _ _ _ _ _ _ _ _ _ _ _ _ _ _ _ _ _ _ _ => skip); with_reducible apply Frame.upd)
    | with_reducible exact .inr rfl
    | exact .inl (Part.sub_has _ hfm (by decide))
    | exact .inl ⟨Part.sub_has _ hfm (by decide), fun h => h⟩
    | exact .inl ⟨Part.sub_has _ hfm (by decide), fun h => by simpa only [List.length_set, List.length_map, List.length_zipIdx] using h⟩
    | extract_lets +onlyGivenNames x

theorem assertSextant_frame {fm : List Part} {b0 : State} (s : State) (k : Nat)
    (hfr : Frame fm b0 s) (hfm : Part.sub [.regs, .stk] fm = true) : Frame fm b0 (assertSextant s k) := by
  unfold assertSextant
  repeat' first
    | with_reducible assumption
    | exact Part.sub_trans (by decide) hfm
    | with_reducible intro _
    | (extract_lets +onlyGivenNames x; refine (fun hx => ?_ : (Frame fm b0 x) → _) ?_; (on_goal 2 => unfold x); all_goals clear_value x)
    | (extract_lets +onlyGivenNames x; refine (fun hx => ?_ : (Frame fm b0 x.1) → _) ?_; (on_goal 2 => unfold x); all_goals clear_value x)
    | (extract_lets +onlyGivenNames x; refine (fun hx => ?_ : (tileSafe x = true) → _) ?_; (on_goal 2 => unfold x); all_goals clear_value x)
    | (extract_lets +onlyGivenNames x; refine (fun hx => ?_ : (tileSafe x.1 = true) → _) ?_; (on_goal 2 => unfold x); all_goals clear_value x)
    | (extract_lets +onlyGivenNames x; refine (fun hx => ?_ : (FrameOpt fm b0 x) → _) ?_; (on_goal 2 => unfold x); all_goals clear_value x)
    | (extract_lets +onlyGivenNames x; refine (fun hx => ?_ : (Frame fm b0 x.st) → _) ?_; (on_goal 2 => unfold x); all_goals clear_value x)
    | extract_lets +onlyGivenNames x
    | with_reducible apply rbump_frame
    | with_reducible apply rset_frame
    | with_reducible apply putStk_frame
    | with_reducible apply rput_frame
    | (with_reducible refine Frame.ofPair ‹_ = (_, _)› ?_)
    | split
    | ((conv in State.mk _ _ _ _ _ _ _ _ _ _ _ _ _ _ _ _ _ _ _ _ _ _ _ _ _ => skip); with_reducible apply Frame.upd)
    | with_reducible exact .inr rfl
    | exact .inl (Part.sub_has _ hfm (by decide))
    | exact .inl ⟨Part.sub_has _ hfm (by decide), fun h => h⟩
    | exact .inl ⟨Part.sub_has _ hfm (by decide), fun h => by simpa only [List.length_set, List.length_map, List.length_zipIdx] using h⟩

theorem loseNumber_frame {fm : List Part} {b0 : State} (s : State)
    (hfr : Frame fm b0 s) (hfm : Part.sub [.regs] fm = true) : Frame fm b0 (loseNumber s) := by
  unfold loseNumber
  repeat' first
    | with_reducible assumption
    | exact Part.sub_trans (by decide) hfm
    | with_reducible intro _
    | with_reducible apply rput_frame
    | with_reducible apply Frame.ite
    | split

theorem enterHoldover_frame {fm : List Part} {b0 : State} (s : State) (p : Nat)
    (hfr : Frame fm b0 s) (hfm : Part.sub [.regs] fm = true) : Frame fm b0 (enterHoldover s p) := by
  unfold enterHoldover
  repeat' first
    | with_reducible assumption
    | exact Part.sub_trans (by decide) hfm
    | with_reducible intro _
    | with_reducible apply rset_frame
    | with_reducible apply Frame.ite
    | split

theorem assertDie_frame {fm : List Part} {b0 : State} (s : State) (d : Nat)
    (hfr : Frame fm b0 s) (hfm : Part.sub [.regs, .vil, .fleet] fm = true) : Frame fm b0 (assertDie s d) := by
  unfold assertDie
  repeat' first
    | with_reducible assumption
    | exact Part.sub_trans (by decide) hfm
    | with_reducible intro _
    | (extract_lets +onlyGivenNames x; refine (fun hx => ?_ : (Frame fm b0 x) → _) ?_; (on_goal 2 => unfold x); all_goals clear_value x)
    | (extract_lets +onlyGivenNames x; refine (fun hx => ?_ : (Frame fm b0 x.1) → _) ?_; (on_goal 2 => unfold x); all_goals clear_value x)
    | (extract_lets +onlyGivenNames x; refine (fun hx => ?_ : (tileSafe x = true) → _) ?_; (on_goal 2 => unfold x); all_goals clear_value x)
    | (extract_lets +onlyGivenNames x; refine (fun hx => ?_ : (tileSafe x.1 = true) → _) ?_; (on_goal 2 => unfold x); all_goals clear_value x)
    | (extract_lets +onlyGivenNames x; refine (fun hx => ?_ : (FrameOpt fm b0 x) → _) ?_; (on_goal 2 => unfold x); all_goals clear_value x)
    | (extract_lets +onlyGivenNames x; refine (fun hx => ?_ : (Frame fm b0 x.st) → _) ?_; (on_goal 2 => unfold x); all_goals clear_value x)
    | extract_lets +onlyGivenNames x
    | with_reducible apply resetBlock_frame
    | with_reducible apply loseNumber_frame
    | with_reducible apply enterHoldover_frame
    | with_reducible apply rput_frame
    | with_reducible apply setRword_frame
    | with_reducible apply Frame.foldl
    | with_reducible apply Frame.foldlFst
    | with_reducible apply Frame.ite
    | (with_reducible refine Frame.ofPair ‹_ = (_, _)› ?_)
    | split
    | ((conv in State.mk _ _ _ _ _ _ _ _ _ _ _ _ _ _ _ _ _ _ _ _ _ _ _ _ _ => skip); with_reducible apply Frame.upd)
    | with_reducible exact .inr rfl
    | exact .inl (Part.sub_has _ hfm (by decide))
    | exact .inl ⟨Part.sub_has _ hfm (by decide), fun h => h⟩
    | exact .inl ⟨Part.sub_has _ hfm (by decide), fun h => by simpa only [List.length_set, List.length_map, List.length_zipIdx] using h⟩

theorem brstStatus_frame {fm : List Part} {b0 : State} (s : State)
    (hfr : Frame fm b0 s) (hfm : Part.sub [.regs] fm = true) : Frame fm b0 (brstStatus s) := by
  unfold brstStatus
  repeat' first
    | with_reducible assumption
    | extract_lets +onlyGivenNames x
    | with_reducible apply rput_frame

theorem putReset_frame {fm : List Part} {b0 : State} (s : State) (r r1 : BlockRst)
    (hfr : Frame fm b0 s) (hfm : Part.sub [.rst] fm = true) : Frame fm b0 (putReset s r r1) := by
  unfold putReset
  repeat' first
    | with_reducible assumption
    | extract_lets +onlyGivenNames x
    | ((conv in State.mk _ _ _ _ _ _ _ _ _ _ _ _ _ _ _ _ _ _ _ _ _ _ _ _ _ => skip); with_reducible apply Frame.upd)
    | with_reducible exact .inr rfl
    | exact .inl (Part.sub_has _ hfm (by decide))

theorem releaseTile_frame {m : List Part} {s0 : State} (s : State) (b : UnitRef) (h : Frame m s0 s)
    (hm : Part.sub [.tiles] m = true) : Frame m s0 (releaseTile s b) := by
  unfold releaseTile
  split
  · exact h
  · rename_i q _
    apply putTile_frame _ _ _ _ h _ (Part.sub_trans (by decide) hm)
    intro hs
    have h1 : tileSafe { tileAt s b.stack.toNat q.2 with inReset := false, wrapped := false } = true :=
      tileSafe_upd (h := (h.safe hs).tileAt b.stack.toNat q.2) (.inl rfl) (.inl rfl) (.inl rfl) (.inl rfl) (.inl rfl)
        (.inl rfl) (.inl rfl)
    exact tileSafe_upd (h := loadColreps_safe s b.stack.toNat q.2 _ h1) (.inl rfl) (.inl rfl) (.inl rfl) (.inl rfl)
      (.inl rfl) (.inl rfl) (.inl rfl)

theorem retrainHalf_frame {fm : List Part} {b0 : State} (s : State)
    (hfr : Frame fm b0 s) (hfm : Part.sub [.regs, .vil] fm = true) : Frame fm b0 (retrainHalf s) := by
  unfold retrainHalf
  repeat' first
    | with_reducible assumption
    | exact Part.sub_trans (by decide) hfm
    | with_reducible intro _
    | (extract_lets +onlyGivenNames x; refine (fun hx => ?_ : (Frame fm b0 x) → _) ?_; (on_goal 2 => unfold x); all_goals clear_value x)
    | (extract_lets +onlyGivenNames x; refine (fun hx => ?_ : (Frame fm b0 x.1) → _) ?_; (on_goal 2 => unfold x); all_goals clear_value x)
    | (extract_lets +onlyGivenNames x; refine (fun hx => ?_ : (tileSafe x = true) → _) ?_; (on_goal 2 => unfold x); all_goals clear_value x)
    | (extract_lets +onlyGivenNames x; refine (fun hx => ?_ : (tileSafe x.1 = true) → _) ?_; (on_goal 2 => unfold x); all_goals clear_value x)
    | (extract_lets +onlyGivenNames x; refine (fun hx => ?_ : (FrameOpt fm b0 x) → _) ?_; (on_goal 2 => unfold x); all_goals clear_value x)
    | (extract_lets +onlyGivenNames x; refine (fun hx => ?_ : (Frame fm b0 x.st) → _) ?_; (on_goal 2 => unfold x); all_goals clear_value x)
    | extract_lets +onlyGivenNames x
    | with_reducible apply rset_frame
    | with_reducible apply rput_frame
    | with_reducible apply Frame.ite
    | split
    | ((conv in State.mk _ _ _ _ _ _ _ _ _ _ _ _ _ _ _ _ _ _ _ _ _ _ _ _ _ => skip); with_reducible apply Frame.upd)
    | with_reducible exact .inr rfl
    | exact .inl (Part.sub_has _ hfm (by decide))
    | exact .inl ⟨Part.sub_has _ hfm (by decide), fun h => h⟩
    | exact .inl ⟨Part.sub_has _ hfm (by decide), fun h => by simpa only [List.length_set, List.length_map, List.length_zipIdx] using h⟩

theorem releaseEffect_frame {fm : List Part} {b0 : State} (s : State) (b : UnitRef)
    (hfr : Frame fm b0 s) (hfm : Part.sub [.regs, .tiles, .stk, .vil] fm = true) : Frame fm b0 (releaseEffect s b) := by
  unfold releaseEffect
  repeat' first
    | with_reducible assumption
    | exact Part.sub_trans (by decide) hfm
    | with_reducible intro _
    | with_reducible apply releaseTile_frame
    | with_reducible apply putStk_frame
    | with_reducible apply retrainHalf_frame
    | with_reducible apply Frame.ite
    | (with_reducible refine Frame.ofPair ‹_ = (_, _)› ?_)
    | split
    | ((conv in State.mk _ _ _ _ _ _ _ _ _ _ _ _ _ _ _ _ _ _ _ _ _ _ _ _ _ => skip); with_reducible apply Frame.upd)
    | with_reducible exact .inr rfl
    | exact .inl (Part.sub_has _ hfm (by decide))
    | exact .inl ⟨Part.sub_has _ hfm (by decide), fun h => h⟩
    | exact .inl ⟨Part.sub_has _ hfm (by decide), fun h => by simpa only [List.length_set, List.length_map, List.length_zipIdx] using h⟩
    | extract_lets +onlyGivenNames x

theorem releaseBlock_frame {fm : List Part} {b0 : State} (s : State) (r : BlockRst)
    (hfr : Frame fm b0 s) (hfm : Part.sub [.regs, .tiles, .stk, .vil, .rst] fm = true) : Frame fm b0 (releaseBlock s r) := by
  unfold releaseBlock
  repeat' first
    | with_reducible assumption
    | exact Part.sub_trans (by decide) hfm
    | (extract_lets +onlyGivenNames x; refine (fun hx => ?_ : (Frame fm b0 x) → _) ?_; (on_goal 2 => unfold x); all_goals clear_value x)
    | extract_lets +onlyGivenNames x
    | with_reducible apply releaseEffect_frame
    | with_reducible apply brstStatus_frame
    | ((conv in State.mk _ _ _ _ _ _ _ _ _ _ _ _ _ _ _ _ _ _ _ _ _ _ _ _ _ => skip); with_reducible apply Frame.upd)
    | with_reducible exact .inr rfl
    | exact .inl (Part.sub_has _ hfm (by decide))

theorem logHop_frame {fm : List Part} {b0 : State} (s : State) (l : LinkRef)
    (hfr : Frame fm b0 s) (hfm : Part.sub [.log] fm = true) : Frame fm b0 (logHop s l) := by
  unfold logHop
  repeat' first
    | with_reducible assumption
    | exact Part.sub_trans (by decide) hfm
    | with_reducible intro _
    | with_reducible apply logExtra_frame
    | ((conv in State.mk _ _ _ _ _ _ _ _ _ _ _ _ _ _ _ _ _ _ _ _ _ _ _ _ _ => skip); with_reducible apply Frame.upd)
    | with_reducible exact .inr rfl
    | exact .inl (Part.sub_has _ hfm (by decide))
    | exact .inl ⟨Part.sub_has _ hfm (by decide), fun h => h⟩
    | exact .inl ⟨Part.sub_has _ hfm (by decide), fun h => by simpa only [List.length_set, List.length_map, List.length_zipIdx] using h⟩

theorem showMasked_frame {fm : List Part} {b0 : State} (s : State)
    (hfr : Frame fm b0 s) (hfm : Part.sub [.regs] fm = true) : Frame fm b0 (showMasked s) := by
  unfold showMasked
  repeat' first
    | with_reducible assumption
    | exact Part.sub_trans (by decide) hfm
    | with_reducible intro _
    | with_reducible apply rset_frame
    | (with_reducible refine Frame.ofPair ‹_ = (_, _)› ?_)
    | split
    | ((conv in State.mk _ _ _ _ _ _ _ _ _ _ _ _ _ _ _ _ _ _ _ _ _ _ _ _ _ => skip); with_reducible apply Frame.upd)
    | with_reducible exact .inr rfl
    | exact .inl (Part.sub_has _ hfm (by decide))
    | exact .inl ⟨Part.sub_has _ hfm (by decide), fun h => h⟩
    | exact .inl ⟨Part.sub_has _ hfm (by decide), fun h => by simpa only [List.length_set, List.length_map, List.length_zipIdx] using h⟩

theorem spoilMasked_frame {fm : List Part} {b0 : State} (s : State)
    (hfr : Frame fm b0 s) (hfm : Part.sub [.stk] fm = true) : Frame fm b0 (spoilMasked s) := by
  unfold spoilMasked
  repeat' first
    | with_reducible assumption
    | exact Part.sub_trans (by decide) hfm
    | with_reducible intro _
    | with_reducible apply spoilCopy_frame
    | (with_reducible refine Frame.ofPair ‹_ = (_, _)› ?_)
    | split
    | ((conv in State.mk _ _ _ _ _ _ _ _ _ _ _ _ _ _ _ _ _ _ _ _ _ _ _ _ _ => skip); with_reducible apply Frame.upd)
    | with_reducible exact .inr rfl
    | exact .inl (Part.sub_has _ hfm (by decide))
    | exact .inl ⟨Part.sub_has _ hfm (by decide), fun h => h⟩
    | exact .inl ⟨Part.sub_has _ hfm (by decide), fun h => by simpa only [List.length_set, List.length_map, List.length_zipIdx] using h⟩

theorem govRest_frame {fm : List Part} {b0 : State} (s : State) (start : Bool)
    (hfr : Frame fm b0 s) (hfm : Part.sub [.regs, .pwr] fm = true) : Frame fm b0 (govRest s start) := by
  unfold govRest
  repeat' first
    | with_reducible assumption
    | exact Part.sub_trans (by decide) hfm
    | with_reducible intro _
    | with_reducible apply govDefer_frame
    | with_reducible apply Frame.ite
    | split

theorem runFirmware_frame {fm : List Part} {b0 : State} (s : State) (b : Bool)
    (hfr : Frame fm b0 s) (hfm : Part.sub [.regs, .lsr] fm = true) : Frame fm b0 (runFirmware s b) := by
  unfold runFirmware
  repeat' first
    | with_reducible assumption
    | exact Part.sub_trans (by decide) hfm
    | with_reducible intro _
    | (extract_lets +onlyGivenNames x; refine (fun hx => ?_ : (Frame fm b0 x) → _) ?_; (on_goal 2 => unfold x); all_goals clear_value x)
    | (extract_lets +onlyGivenNames x; refine (fun hx => ?_ : (Frame fm b0 x.1) → _) ?_; (on_goal 2 => unfold x); all_goals clear_value x)
    | (extract_lets +onlyGivenNames x; refine (fun hx => ?_ : (tileSafe x = true) → _) ?_; (on_goal 2 => unfold x); all_goals clear_value x)
    | (extract_lets +onlyGivenNames x; refine (fun hx => ?_ : (tileSafe x.1 = true) → _) ?_; (on_goal 2 => unfold x); all_goals clear_value x)
    | (extract_lets +onlyGivenNames x; refine (fun hx => ?_ : (FrameOpt fm b0 x) → _) ?_; (on_goal 2 => unfold x); all_goals clear_value x)
    | (extract_lets +onlyGivenNames x; refine (fun hx => ?_ : (Frame fm b0 x.st) → _) ?_; (on_goal 2 => unfold x); all_goals clear_value x)
    | extract_lets +onlyGivenNames x
    | with_reducible apply rput_frame
    | ((conv in State.mk _ _ _ _ _ _ _ _ _ _ _ _ _ _ _ _ _ _ _ _ _ _ _ _ _ => skip); with_reducible apply Frame.upd)
    | with_reducible exact .inr rfl
    | exact .inl (Part.sub_has _ hfm (by decide))
    | exact .inl ⟨Part.sub_has _ hfm (by decide), fun h => h⟩
    | exact .inl ⟨Part.sub_has _ hfm (by decide), fun h => by simpa only [List.length_set, List.length_map, List.length_zipIdx] using h⟩

theorem takeFirmware_frame {fm : List Part} {b0 : State} (s : State)
    (hfr : Frame fm b0 s) (hfm : Part.sub [.regs, .lsr] fm = true) : Frame fm b0 (takeFirmware s) := by
  unfold takeFirmware
  repeat' first
    | with_reducible assumption
    | exact Part.sub_trans (by decide) hfm
    | with_reducible intro _
    | with_reducible apply runFirmware_frame
    | with_reducible apply Frame.ite
    | split

theorem dropClocks_frame {fm : List Part} {b0 : State} (s : State) (k : Nat)
    (hfr : Frame fm b0 s) (hfm : Part.sub [.pwr] fm = true) : Frame fm b0 (dropClocks s k) := by
  unfold dropClocks
  repeat' first
    | with_reducible assumption
    | exact Part.sub_trans (by decide) hfm
    | with_reducible intro _
    | ((conv in State.mk _ _ _ _ _ _ _ _ _ _ _ _ _ _ _ _ _ _ _ _ _ _ _ _ _ => skip); with_reducible apply Frame.upd)
    | with_reducible exact .inr rfl
    | exact .inl (Part.sub_has _ hfm (by decide))
    | exact .inl ⟨Part.sub_has _ hfm (by decide), fun h => h⟩
    | exact .inl ⟨Part.sub_has _ hfm (by decide), fun h => by simpa only [List.length_set, List.length_map, List.length_zipIdx] using h⟩

end Sys2Proof.Machine
end

