-- ==== Sys2Proof/Laws/FramesTiles.lean ====
section
/-!
SUPPORT. Frames of the operations of the model (tiles): which parts of the state each can touch, and that a safe
machine stays safe.
-/

namespace Sys2Proof.Machine

theorem execNop_frame {fm : List Part} {b0 : State} (e : Engine) (i : Issue) (s : State)
    (hfr : Frame fm b0 s) (hfm : Part.sub [.cyc, .tick, .tfrac, .regs, .tiles, .net, .reports, .log] fm = true) : FrameOut fm b0 (execNop e i s) := by
  unfold execNop
  repeat' first
    | with_reducible assumption
    | extract_lets +onlyGivenNames x
    | with_reducible apply FrameOut.next
    | with_reducible apply runIssue_frame
    | with_reducible apply nopUnit_safe

theorem execSetr_frame {fm : List Part} {b0 : State} (e : Engine) (i : Issue) (s : State)
    (hfr : Frame fm b0 s) (hfm : Part.sub [.cyc, .tick, .tfrac, .regs, .tiles, .net, .reports, .log] fm = true) : FrameOut fm b0 (execSetr e i s) := by
  unfold execSetr
  repeat' first
    | with_reducible assumption
    | extract_lets +onlyGivenNames x
    | with_reducible apply FrameOut.next
    | with_reducible apply runIssue_frame
    | with_reducible apply setrUnit_safe

theorem execSetrh_frame {fm : List Part} {b0 : State} (e : Engine) (i : Issue) (s : State)
    (hfr : Frame fm b0 s) (hfm : Part.sub [.cyc, .tick, .tfrac, .regs, .tiles, .net, .reports, .log] fm = true) : FrameOut fm b0 (execSetrh e i s) := by
  unfold execSetrh
  repeat' first
    | with_reducible assumption
    | extract_lets +onlyGivenNames x
    | with_reducible apply FrameOut.next
    | with_reducible apply runIssue_frame
    | with_reducible apply setrhUnit_safe

theorem execAddr_frame {fm : List Part} {b0 : State} (e : Engine) (i : Issue) (s : State)
    (hfr : Frame fm b0 s) (hfm : Part.sub [.cyc, .tick, .tfrac, .regs, .tiles, .net, .reports, .log] fm = true) : FrameOut fm b0 (execAddr e i s) := by
  unfold execAddr
  repeat' first
    | with_reducible assumption
    | extract_lets +onlyGivenNames x
    | with_reducible apply FrameOut.next
    | with_reducible apply runIssue_frame
    | with_reducible apply addrUnit_safe

theorem execJump_frame {fm : List Part} {b0 : State} (e : Engine) (i : Issue) (s : State)
    (hfr : Frame fm b0 s) (hfm : Part.sub [.cyc, .tick, .tfrac, .regs, .tiles, .net, .reports, .log] fm = true) : FrameOut fm b0 (execJump e i s) := by
  unfold execJump
  repeat' first
    | with_reducible assumption
    | extract_lets +onlyGivenNames x
    | with_reducible apply FrameOut.next
    | with_reducible apply runIssue_frame
    | with_reducible apply jumpUnit_safe

theorem execLoop_frame {fm : List Part} {b0 : State} (e : Engine) (i : Issue) (s : State)
    (hfr : Frame fm b0 s) (hfm : Part.sub [.cyc, .tick, .tfrac, .regs, .tiles, .net, .reports, .log] fm = true) : FrameOut fm b0 (execLoop e i s) := by
  unfold execLoop
  repeat' first
    | with_reducible assumption
    | extract_lets +onlyGivenNames x
    | with_reducible apply FrameOut.next
    | with_reducible apply runIssue_frame
    | with_reducible apply loopUnit_safe

theorem execNextw_frame {fm : List Part} {b0 : State} (e : Engine) (i : Issue) (s : State)
    (hfr : Frame fm b0 s) (hfm : Part.sub [.cyc, .tick, .tfrac, .regs, .tiles, .net, .reports, .log] fm = true) : FrameOut fm b0 (execNextw e i s) := by
  unfold execNextw
  repeat' first
    | with_reducible assumption
    | exact Part.sub_trans (by decide) hfm
    | with_reducible intro _
    | (extract_lets +onlyGivenNames x; refine (fun hx => ?_ : (Frame fm b0 x) → _) ?_; (on_goal 2 => unfold x); all_goals clear_value x)
    | (extract_lets +onlyGivenNames x; refine (fun hx => ?_ : (Frame fm b0 x.1) → _) ?_; (on_goal 2 => unfold x); all_goals clear_value x)
    | (extract_lets +onlyGivenNames x; refine (fun hx => ?_ : (tileSafe x = true) → _) ?_; (on_goal 2 => unfold x); all_goals clear_value x)
    | (extract_lets +onlyGivenNames x; refine (fun hx => ?_ : (tileSafe x.1 = true) → _) ?_; (on_goal 2 => unfold x); all_goals clear_value x)
    | (extract_lets +onlyGivenNames x; refine (fun hx => ?_ : (FrameOpt fm b0 x) → _) ?_; (on_goal 2 => unfold x); all_goals clear_value x)
    | (extract_lets +onlyGivenNames x; refine (fun hx => ?_ : (Frame fm b0 x.st) → _) ?_; (on_goal 2 => unfold x); all_goals clear_value x)
    | extract_lets +onlyGivenNames x
    | with_reducible apply FrameOut.next
    | with_reducible apply changeTile_frame
    | with_reducible apply elapse_frame
    | with_reducible apply runIssue_frame
    | with_reducible apply markNextw_safe
    | with_reducible apply nextwUnit_safe
    | ((conv in State.mk _ _ _ _ _ _ _ _ _ _ _ _ _ _ _ _ _ _ _ _ _ _ _ _ _ => skip); with_reducible apply Frame.upd)
    | with_reducible exact .inr rfl
    | exact .inl (Part.sub_has _ hfm (by decide))
    | exact .inl ⟨Part.sub_has _ hfm (by decide), fun h => h⟩
    | exact .inl ⟨Part.sub_has _ hfm (by decide), fun h => by simpa only [List.length_set, List.length_map, List.length_zipIdx] using h⟩
    | ((conv in Tile.mk _ _ _ _ _ _ _ _ _ _ _ _ _ _ _ _ _ _ _ _ _ _ _ _ _ _ _ _ _ _ _ _ _ _ _ _ _ _ _ _ => skip); with_reducible apply tileSafe_upd)
    | with_reducible exact .inl rfl

theorem execHalt_frame {fm : List Part} {b0 : State} (e : Engine) (i : Issue) (s : State)
    (hfr : Frame fm b0 s) (hfm : Part.sub [.cyc, .tick, .tfrac, .regs, .tiles, .net, .reports, .log] fm = true) : FrameOut fm b0 (execHalt e i s) := by
  unfold execHalt
  repeat' first
    | with_reducible assumption
    | extract_lets +onlyGivenNames x
    | with_reducible apply FrameOut.next
    | with_reducible apply runIssue_frame
    | with_reducible apply haltUnit_safe

theorem execFetLoad_frame {fm : List Part} {b0 : State} (i : Issue) (s : State)
    (hfr : Frame fm b0 s) (hfm : Part.sub [.cyc, .tick, .tfrac, .regs, .tiles, .net, .reports, .log] fm = true) : FrameOut fm b0 (execFetLoad i s) := by
  unfold execFetLoad
  repeat' first
    | with_reducible assumption
    | extract_lets +onlyGivenNames x
    | with_reducible apply FrameOut.next
    | with_reducible apply runIssue_frame
    | with_reducible apply loadUnit_safe

theorem execFetLoads_frame {fm : List Part} {b0 : State} (i : Issue) (s : State)
    (hfr : Frame fm b0 s) (hfm : Part.sub [.cyc, .tick, .tfrac, .regs, .tiles, .net, .reports, .log] fm = true) : FrameOut fm b0 (execFetLoads i s) := by
  unfold execFetLoads
  repeat' first
    | with_reducible assumption
    | extract_lets +onlyGivenNames x
    | with_reducible apply FrameOut.next
    | with_reducible apply runIssue_frame
    | with_reducible apply loadsUnit_safe

theorem execFetCopy_frame {fm : List Part} {b0 : State} (i : Issue) (s : State)
    (hfr : Frame fm b0 s) (hfm : Part.sub [.cyc, .tick, .tfrac, .regs, .tiles, .net, .reports, .log] fm = true) : FrameOut fm b0 (execFetCopy i s) := by
  unfold execFetCopy
  repeat' first
    | with_reducible assumption
    | extract_lets +onlyGivenNames x
    | with_reducible apply FrameOut.next
    | with_reducible apply runIssue_frame
    | with_reducible apply copyUnit_safe

theorem execFetZero_frame {fm : List Part} {b0 : State} (i : Issue) (s : State)
    (hfr : Frame fm b0 s) (hfm : Part.sub [.cyc, .tick, .tfrac, .regs, .tiles, .net, .reports, .log] fm = true) : FrameOut fm b0 (execFetZero i s) := by
  unfold execFetZero
  repeat' first
    | with_reducible assumption
    | extract_lets +onlyGivenNames x
    | with_reducible apply FrameOut.next
    | with_reducible apply runIssue_frame
    | with_reducible apply zeroUnit_safe

theorem execArrMvm_frame {fm : List Part} {b0 : State} (i : Issue) (lv : List Level) (s : State)
    (hfr : Frame fm b0 s) (hfm : Part.sub [.cyc, .tick, .tfrac, .regs, .tiles, .net, .reports, .log] fm = true) : FrameOut fm b0 (execArrMvm i lv s) := by
  unfold execArrMvm
  repeat' first
    | with_reducible assumption
    | extract_lets +onlyGivenNames x
    | with_reducible apply FrameOut.next
    | with_reducible apply runIssue_frame
    | with_reducible apply mvmUnit_safe

theorem execArrRetry_frame {fm : List Part} {b0 : State} (i : Issue) (lv : List Level) (s : State)
    (hfr : Frame fm b0 s) (hfm : Part.sub [.cyc, .tick, .tfrac, .regs, .tiles, .net, .reports, .log] fm = true) : FrameOut fm b0 (execArrRetry i lv s) := by
  unfold execArrRetry
  repeat' first
    | with_reducible assumption
    | extract_lets +onlyGivenNames x
    | with_reducible apply FrameOut.next
    | with_reducible apply runIssue_frame
    | with_reducible apply retryUnit_safe

theorem execArrBank_frame {fm : List Part} {b0 : State} (i : Issue) (s : State)
    (hfr : Frame fm b0 s) (hfm : Part.sub [.cyc, .tick, .tfrac, .regs, .tiles, .net, .reports, .log] fm = true) : FrameOut fm b0 (execArrBank i s) := by
  unfold execArrBank
  repeat' first
    | with_reducible assumption
    | extract_lets +onlyGivenNames x
    | with_reducible apply FrameOut.next
    | with_reducible apply runIssue_frame
    | with_reducible apply bankUnit_safe

theorem execArrMode_frame {fm : List Part} {b0 : State} (i : Issue) (s : State)
    (hfr : Frame fm b0 s) (hfm : Part.sub [.cyc, .tick, .tfrac, .regs, .tiles, .net, .reports, .log] fm = true) : FrameOut fm b0 (execArrMode i s) := by
  unfold execArrMode
  repeat' first
    | with_reducible assumption
    | extract_lets +onlyGivenNames x
    | with_reducible apply FrameOut.next
    | with_reducible apply runIssue_frame
    | with_reducible apply modeUnit_safe

theorem execSidMode_frame {fm : List Part} {b0 : State} (i : Issue) (s : State)
    (hfr : Frame fm b0 s) (hfm : Part.sub [.cyc, .tick, .tfrac, .regs, .tiles, .net, .reports, .log] fm = true) : FrameOut fm b0 (execSidMode i s) := by
  unfold execSidMode
  repeat' first
    | with_reducible assumption
    | extract_lets +onlyGivenNames x
    | with_reducible apply FrameOut.next
    | with_reducible apply runIssue_frame
    | with_reducible apply sidModeUnit_safe

theorem execSidRecomp_frame {fm : List Part} {b0 : State} (i : Issue) (s : State)
    (hfr : Frame fm b0 s) (hfm : Part.sub [.cyc, .tick, .tfrac, .regs, .tiles, .net, .reports, .log] fm = true) : FrameOut fm b0 (execSidRecomp i s) := by
  unfold execSidRecomp
  repeat' first
    | with_reducible assumption
    | extract_lets +onlyGivenNames x
    | with_reducible apply FrameOut.next
    | with_reducible apply runIssue_frame
    | with_reducible apply recompUnit_safe

theorem execSidDrain_frame {fm : List Part} {b0 : State} (i : Issue) (s : State)
    (hfr : Frame fm b0 s) (hfm : Part.sub [.cyc, .tick, .tfrac, .regs, .tiles, .net, .reports, .log] fm = true) : FrameOut fm b0 (execSidDrain i s) := by
  unfold execSidDrain
  repeat' first
    | with_reducible assumption
    | extract_lets +onlyGivenNames x
    | with_reducible apply FrameOut.next
    | with_reducible apply runIssue_frame
    | with_reducible apply drainUnit_safe

theorem execSidEmit_frame {fm : List Part} {b0 : State} (i : Issue) (s : State)
    (hfr : Frame fm b0 s) (hfm : Part.sub [.cyc, .tick, .tfrac, .regs, .tiles, .net, .reports, .log] fm = true) : FrameOut fm b0 (execSidEmit i s) := by
  unfold execSidEmit
  repeat' first
    | with_reducible assumption
    | extract_lets +onlyGivenNames x
    | with_reducible apply FrameOut.next
    | with_reducible apply runIssue_frame
    | with_reducible apply emitUnit_safe

theorem execPltNorm_frame {fm : List Part} {b0 : State} (i : Issue) (s : State)
    (hfr : Frame fm b0 s) (hfm : Part.sub [.cyc, .tick, .tfrac, .regs, .tiles, .net, .reports, .log] fm = true) : FrameOut fm b0 (execPltNorm i s) := by
  unfold execPltNorm
  repeat' first
    | with_reducible assumption
    | extract_lets +onlyGivenNames x
    | with_reducible apply FrameOut.next
    | with_reducible apply runIssue_frame
    | with_reducible apply normUnit_safe

theorem execPltScore_frame {fm : List Part} {b0 : State} (i : Issue) (s : State)
    (hfr : Frame fm b0 s) (hfm : Part.sub [.cyc, .tick, .tfrac, .regs, .tiles, .net, .reports, .log] fm = true) : FrameOut fm b0 (execPltScore i s) := by
  unfold execPltScore
  repeat' first
    | with_reducible assumption
    | extract_lets +onlyGivenNames x
    | with_reducible apply FrameOut.next
    | with_reducible apply runIssue_frame
    | with_reducible apply scoreUnit_safe

theorem execPltSoftmax_frame {fm : List Part} {b0 : State} (i : Issue) (s : State)
    (hfr : Frame fm b0 s) (hfm : Part.sub [.cyc, .tick, .tfrac, .regs, .tiles, .net, .reports, .log] fm = true) : FrameOut fm b0 (execPltSoftmax i s) := by
  unfold execPltSoftmax
  repeat' first
    | with_reducible assumption
    | extract_lets +onlyGivenNames x
    | with_reducible apply FrameOut.next
    | with_reducible apply runIssue_frame
    | with_reducible apply softmaxUnit_safe

theorem execPltVprod_frame {fm : List Part} {b0 : State} (i : Issue) (s : State)
    (hfr : Frame fm b0 s) (hfm : Part.sub [.cyc, .tick, .tfrac, .regs, .tiles, .net, .reports, .log] fm = true) : FrameOut fm b0 (execPltVprod i s) := by
  unfold execPltVprod
  repeat' first
    | with_reducible assumption
    | extract_lets +onlyGivenNames x
    | with_reducible apply FrameOut.next
    | with_reducible apply runIssue_frame
    | with_reducible apply vprodUnit_safe

theorem execPltTopk_frame {fm : List Part} {b0 : State} (i : Issue) (s : State)
    (hfr : Frame fm b0 s) (hfm : Part.sub [.cyc, .tick, .tfrac, .regs, .tiles, .net, .reports, .log] fm = true) : FrameOut fm b0 (execPltTopk i s) := by
  unfold execPltTopk
  repeat' first
    | with_reducible assumption
    | extract_lets +onlyGivenNames x
    | with_reducible apply FrameOut.next
    | with_reducible apply runIssue_frame
    | with_reducible apply topkUnit_safe

theorem execPltSort_frame {fm : List Part} {b0 : State} (i : Issue) (s : State)
    (hfr : Frame fm b0 s) (hfm : Part.sub [.cyc, .tick, .tfrac, .regs, .tiles, .net, .reports, .log] fm = true) : FrameOut fm b0 (execPltSort i s) := by
  unfold execPltSort
  repeat' first
    | with_reducible assumption
    | extract_lets +onlyGivenNames x
    | with_reducible apply FrameOut.next
    | with_reducible apply runIssue_frame
    | with_reducible apply sortUnit_safe

theorem execPltMerge_frame {fm : List Part} {b0 : State} (i : Issue) (s : State)
    (hfr : Frame fm b0 s) (hfm : Part.sub [.cyc, .tick, .tfrac, .regs, .tiles, .net, .reports, .log] fm = true) : FrameOut fm b0 (execPltMerge i s) := by
  unfold execPltMerge
  repeat' first
    | with_reducible assumption
    | extract_lets +onlyGivenNames x
    | with_reducible apply FrameOut.next
    | with_reducible apply runIssue_frame
    | with_reducible apply mergeUnit_safe

theorem execPltIsect_frame {fm : List Part} {b0 : State} (i : Issue) (s : State)
    (hfr : Frame fm b0 s) (hfm : Part.sub [.cyc, .tick, .tfrac, .regs, .tiles, .net, .reports, .log] fm = true) : FrameOut fm b0 (execPltIsect i s) := by
  unfold execPltIsect
  repeat' first
    | with_reducible assumption
    | extract_lets +onlyGivenNames x
    | with_reducible apply FrameOut.next
    | with_reducible apply runIssue_frame
    | with_reducible apply isectUnit_safe

theorem execPltGather_frame {fm : List Part} {b0 : State} (i : Issue) (s : State)
    (hfr : Frame fm b0 s) (hfm : Part.sub [.cyc, .tick, .tfrac, .regs, .tiles, .net, .reports, .log] fm = true) : FrameOut fm b0 (execPltGather i s) := by
  unfold execPltGather
  repeat' first
    | with_reducible assumption
    | extract_lets +onlyGivenNames x
    | with_reducible apply FrameOut.next
    | with_reducible apply runIssue_frame
    | with_reducible apply gatherUnit_safe

theorem execPltScatter_frame {fm : List Part} {b0 : State} (i : Issue) (s : State)
    (hfr : Frame fm b0 s) (hfm : Part.sub [.cyc, .tick, .tfrac, .regs, .tiles, .net, .reports, .log] fm = true) : FrameOut fm b0 (execPltScatter i s) := by
  unfold execPltScatter
  repeat' first
    | with_reducible assumption
    | extract_lets +onlyGivenNames x
    | with_reducible apply FrameOut.next
    | with_reducible apply runIssue_frame
    | with_reducible apply scatterUnit_safe

theorem execPltHprobe_frame {fm : List Part} {b0 : State} (i : Issue) (s : State)
    (hfr : Frame fm b0 s) (hfm : Part.sub [.cyc, .tick, .tfrac, .regs, .tiles, .net, .reports, .log] fm = true) : FrameOut fm b0 (execPltHprobe i s) := by
  unfold execPltHprobe
  repeat' first
    | with_reducible assumption
    | extract_lets +onlyGivenNames x
    | with_reducible apply FrameOut.next
    | with_reducible apply runIssue_frame
    | with_reducible apply hprobeUnit_safe

theorem execPltRelax_frame {fm : List Part} {b0 : State} (i : Issue) (s : State)
    (hfr : Frame fm b0 s) (hfm : Part.sub [.cyc, .tick, .tfrac, .regs, .tiles, .net, .reports, .log] fm = true) : FrameOut fm b0 (execPltRelax i s) := by
  unfold execPltRelax
  repeat' first
    | with_reducible assumption
    | extract_lets +onlyGivenNames x
    | with_reducible apply FrameOut.next
    | with_reducible apply runIssue_frame
    | with_reducible apply relaxUnit_safe

theorem execPltSample_frame {fm : List Part} {b0 : State} (i : Issue) (s : State)
    (hfr : Frame fm b0 s) (hfm : Part.sub [.cyc, .tick, .tfrac, .regs, .tiles, .net, .reports, .log] fm = true) : FrameOut fm b0 (execPltSample i s) := by
  unfold execPltSample
  repeat' first
    | with_reducible assumption
    | extract_lets +onlyGivenNames x
    | with_reducible apply FrameOut.next
    | with_reducible apply runIssue_frame
    | with_reducible apply sampleUnit_safe

theorem execSigPut_frame {fm : List Part} {b0 : State} (i : Issue) (s : State)
    (hfr : Frame fm b0 s) (hfm : Part.sub [.cyc, .tick, .tfrac, .regs, .tiles, .net, .reports, .log] fm = true) : FrameOut fm b0 (execSigPut i s) := by
  unfold execSigPut
  repeat' first
    | with_reducible assumption
    | extract_lets +onlyGivenNames x
    | with_reducible apply FrameOut.next
    | with_reducible apply runIssue_frame
    | with_reducible apply putUnit_safe

theorem execSigGet_frame {fm : List Part} {b0 : State} (i : Issue) (s : State)
    (hfr : Frame fm b0 s) (hfm : Part.sub [.cyc, .tick, .tfrac, .regs, .tiles, .net, .reports, .log] fm = true) : FrameOut fm b0 (execSigGet i s) := by
  unfold execSigGet
  repeat' first
    | with_reducible assumption
    | extract_lets +onlyGivenNames x
    | with_reducible apply FrameOut.next
    | with_reducible apply runIssue_frame
    | with_reducible apply getUnit_safe

theorem execSigAdd32_frame {fm : List Part} {b0 : State} (i : Issue) (s : State)
    (hfr : Frame fm b0 s) (hfm : Part.sub [.cyc, .tick, .tfrac, .regs, .tiles, .net, .reports, .log] fm = true) : FrameOut fm b0 (execSigAdd32 i s) := by
  unfold execSigAdd32
  repeat' first
    | with_reducible assumption
    | extract_lets +onlyGivenNames x
    | with_reducible apply FrameOut.next
    | with_reducible apply runIssue_frame
    | with_reducible apply addUnit_safe

theorem execSigAdd64_frame {fm : List Part} {b0 : State} (i : Issue) (s : State)
    (hfr : Frame fm b0 s) (hfm : Part.sub [.cyc, .tick, .tfrac, .regs, .tiles, .net, .reports, .log] fm = true) : FrameOut fm b0 (execSigAdd64 i s) := by
  unfold execSigAdd64
  repeat' first
    | with_reducible assumption
    | extract_lets +onlyGivenNames x
    | with_reducible apply FrameOut.next
    | with_reducible apply runIssue_frame
    | with_reducible apply addUnit_safe

theorem execSigLadd_frame {fm : List Part} {b0 : State} (i : Issue) (s : State)
    (hfr : Frame fm b0 s) (hfm : Part.sub [.cyc, .tick, .tfrac, .regs, .tiles, .net, .reports, .log] fm = true) : FrameOut fm b0 (execSigLadd i s) := by
  unfold execSigLadd
  repeat' first
    | with_reducible assumption
    | extract_lets +onlyGivenNames x
    | with_reducible apply FrameOut.next
    | with_reducible apply runIssue_frame
    | with_reducible apply addUnit_safe

theorem execSigCas64_frame {fm : List Part} {b0 : State} (i : Issue) (s : State)
    (hfr : Frame fm b0 s) (hfm : Part.sub [.cyc, .tick, .tfrac, .regs, .tiles, .net, .reports, .log] fm = true) : FrameOut fm b0 (execSigCas64 i s) := by
  unfold execSigCas64
  repeat' first
    | with_reducible assumption
    | extract_lets +onlyGivenNames x
    | with_reducible apply FrameOut.next
    | with_reducible apply runIssue_frame
    | with_reducible apply casUnit_safe

theorem execSigMput_frame {fm : List Part} {b0 : State} (i : Issue) (s : State)
    (hfr : Frame fm b0 s) (hfm : Part.sub [.cyc, .tick, .tfrac, .regs, .tiles, .net, .reports, .log] fm = true) : FrameOut fm b0 (execSigMput i s) := by
  unfold execSigMput
  repeat' first
    | with_reducible assumption
    | extract_lets +onlyGivenNames x
    | with_reducible apply FrameOut.next
    | with_reducible apply runIssue_frame
    | with_reducible apply mputUnit_safe

theorem execSigArrive_frame {fm : List Part} {b0 : State} (i : Issue) (s : State)
    (hfr : Frame fm b0 s) (hfm : Part.sub [.cyc, .tick, .tfrac, .regs, .tiles, .net, .reports, .log] fm = true) : FrameOut fm b0 (execSigArrive i s) := by
  unfold execSigArrive
  repeat' first
    | with_reducible assumption
    | extract_lets +onlyGivenNames x
    | with_reducible apply FrameOut.next
    | with_reducible apply runIssue_frame
    | with_reducible apply arriveUnit_safe

theorem execSigWaitg_frame {fm : List Part} {b0 : State} (i : Issue) (s : State)
    (hfr : Frame fm b0 s) (hfm : Part.sub [.cyc, .tick, .tfrac, .regs, .tiles, .net, .reports, .log] fm = true) : FrameOut fm b0 (execSigWaitg i s) := by
  unfold execSigWaitg
  repeat' first
    | with_reducible assumption
    | extract_lets +onlyGivenNames x
    | with_reducible apply FrameOut.next
    | with_reducible apply runIssue_frame
    | with_reducible apply waitgUnit_safe

theorem execSigWaitwp_frame {fm : List Part} {b0 : State} (i : Issue) (s : State)
    (hfr : Frame fm b0 s) (hfm : Part.sub [.cyc, .tick, .tfrac, .regs, .tiles, .net, .reports, .log] fm = true) : FrameOut fm b0 (execSigWaitwp i s) := by
  unfold execSigWaitwp
  repeat' first
    | with_reducible assumption
    | extract_lets +onlyGivenNames x
    | with_reducible apply FrameOut.next
    | with_reducible apply runIssue_frame
    | with_reducible apply waitwpUnit_safe

theorem execSigWpinit_frame {fm : List Part} {b0 : State} (i : Issue) (s : State)
    (hfr : Frame fm b0 s) (hfm : Part.sub [.cyc, .tick, .tfrac, .regs, .tiles, .net, .reports, .log] fm = true) : FrameOut fm b0 (execSigWpinit i s) := by
  unfold execSigWpinit
  repeat' first
    | with_reducible assumption
    | extract_lets +onlyGivenNames x
    | with_reducible apply FrameOut.next
    | with_reducible apply runIssue_frame
    | with_reducible apply wpinitUnit_safe

theorem execWdog_frame {m : List Part} {s0 : State} (e : Engine) (r : TileRef) (s : State) (h : Frame m s0 s)
    (hm : Part.sub [.cyc, .tick, .tfrac, .regs, .tiles, .net, .reports, .log] m = true) : FrameOut m s0 (execWdog e r s) := by
  unfold execWdog
  apply FrameOut.next
  apply onTile_frame _ _ _ _ h (Part.sub_trans (by decide) hm)
  · intro c t ht
    have h0 := settleBefore_safe c.now t ht
    dsimp only
    split
    · exact h0
    · exact bankTokens_safe _ _ (tileFault_safe _ _ _ _ (settleBefore_safe _ _ (withhold_safe _ _ h0)))

theorem execStall_frame {m : List Part} {s0 : State} (e : Engine) (r : TileRef) (s : State) (h : Frame m s0 s)
    (hm : Part.sub [.cyc, .tick, .tfrac, .regs, .tiles, .net, .reports, .log] m = true) : FrameOut m s0 (execStall e r s) := by
  unfold execStall
  apply FrameOut.next
  apply onTile_frame _ _ _ _ h (Part.sub_trans (by decide) hm)
  · intro c t ht
    have h0 := settleBefore_safe c.now t ht
    dsimp only
    split
    · exact h0
    · split
      · exact h0
      · exact bankTokens_safe _ _ (tileFault_safe _ _ _ _ (settleBefore_safe _ _ h0))

theorem execTileClockGate_frame {fm : List Part} {b0 : State} (r : TileRef) (s : State)
    (hfr : Frame fm b0 s) (hfm : Part.sub [.cyc, .tick, .tfrac, .pwr] fm = true) : FrameOut fm b0 (execTileClockGate r s) := by
  unfold execTileClockGate
  repeat' first
    | with_reducible assumption
    | exact Part.sub_trans (by decide) hfm
    | with_reducible intro _
    | (extract_lets +onlyGivenNames x; refine (fun hx => ?_ : (Frame fm b0 x) → _) ?_; (on_goal 2 => unfold x); all_goals clear_value x)
    | (extract_lets +onlyGivenNames x; refine (fun hx => ?_ : (Frame fm b0 x.1) → _) ?_; (on_goal 2 => unfold x); all_goals clear_value x)
    | (extract_lets +onlyGivenNames x; refine (fun hx => ?_ : (SafeParts b0 → tileSafe x = true) → _) ?_; (on_goal 2 => unfold x); all_goals clear_value x)
    | (extract_lets +onlyGivenNames x; refine (fun hx => ?_ : (SafeParts b0 → tileSafe x.1 = true) → _) ?_; (on_goal 2 => unfold x); all_goals clear_value x)
    | (extract_lets +onlyGivenNames x; refine (fun hx => ?_ : (FrameOpt fm b0 x) → _) ?_; (on_goal 2 => unfold x); all_goals clear_value x)
    | (extract_lets +onlyGivenNames x; refine (fun hx => ?_ : (Frame fm b0 x.st) → _) ?_; (on_goal 2 => unfold x); all_goals clear_value x)
    | extract_lets +onlyGivenNames x
    | with_reducible apply FrameOut.next
    | with_reducible apply elapseTo_frame
    | with_reducible apply askStop_frame
    | with_reducible apply settle_safe
    | with_reducible apply Frame.ite
    | (with_reducible refine Frame.ofPair ‹_ = (_, _)› ?_)
    | split
    | ((conv in State.mk _ _ _ _ _ _ _ _ _ _ _ _ _ _ _ _ _ _ _ _ _ _ _ _ _ => skip); with_reducible apply Frame.upd)
    | with_reducible exact .inr rfl
    | exact .inl (Part.sub_has _ hfm (by decide))
    | exact .inl ⟨Part.sub_has _ hfm (by decide), fun h => h⟩
    | exact .inl ⟨Part.sub_has _ hfm (by decide), fun h => by simpa only [List.length_set, List.length_map, List.length_zipIdx] using h⟩
    | ((conv in Tile.mk _ _ _ _ _ _ _ _ _ _ _ _ _ _ _ _ _ _ _ _ _ _ _ _ _ _ _ _ _ _ _ _ _ _ _ _ _ _ _ _ => skip); with_reducible apply tileSafe_upd)
    | with_reducible exact .inl rfl
    | (refine SafeParts.tileAt (Frame.safe (m := fm) ?_ ‹SafeParts b0›) _ _)
    | with_reducible exact (‹SafeParts _ → tileSafe _ = true› ‹_›)

theorem execWakeRequest_frame {fm : List Part} {b0 : State} (r : TileRef) (s : State)
    (hfr : Frame fm b0 s) (hfm : Part.sub [.cyc, .tick, .tfrac, .tiles, .pwr] fm = true) : FrameOut fm b0 (execWakeRequest r s) := by
  unfold execWakeRequest
  repeat' first
    | with_reducible assumption
    | exact Part.sub_trans (by decide) hfm
    | with_reducible intro _
    | (extract_lets +onlyGivenNames x; refine (fun hx => ?_ : (Frame fm b0 x) → _) ?_; (on_goal 2 => unfold x); all_goals clear_value x)
    | (extract_lets +onlyGivenNames x; refine (fun hx => ?_ : (SafeParts b0 → tileSafe x = true) → _) ?_; (on_goal 2 => unfold x); all_goals clear_value x)
    | extract_lets +onlyGivenNames x
    | with_reducible apply FrameOut.next
    | with_reducible apply askStart_frame
    | with_reducible apply elapseTo_frame
    | (refine SafeParts.tileAt (Frame.safe (m := fm) ?_ ‹SafeParts b0›) _ _)
    | split

theorem execClockStartGrant_frame {fm : List Part} {b0 : State} (dns : Nat) (s : State)
    (hfr : Frame fm b0 s) (hfm : Part.sub [.cyc, .tick, .tfrac, .regs, .tiles, .net, .reports, .log, .pwr] fm = true) : FrameOut fm b0 (execClockStartGrant dns s) := by
  unfold execClockStartGrant
  repeat' first
    | with_reducible assumption
    | exact Part.sub_trans (by decide) hfm
    | with_reducible intro _
    | (extract_lets +onlyGivenNames x; refine (fun hx => ?_ : (Frame fm b0 x) → _) ?_; (on_goal 2 => unfold x); all_goals clear_value x)
    | (extract_lets +onlyGivenNames x; refine (fun hx => ?_ : (Frame fm b0 x.1) → _) ?_; (on_goal 2 => unfold x); all_goals clear_value x)
    | (extract_lets +onlyGivenNames x; refine (fun hx => ?_ : (tileSafe x = true) → _) ?_; (on_goal 2 => unfold x); all_goals clear_value x)
    | (extract_lets +onlyGivenNames x; refine (fun hx => ?_ : (tileSafe x.1 = true) → _) ?_; (on_goal 2 => unfold x); all_goals clear_value x)
    | (extract_lets +onlyGivenNames x; refine (fun hx => ?_ : (FrameOpt fm b0 x) → _) ?_; (on_goal 2 => unfold x); all_goals clear_value x)
    | (extract_lets +onlyGivenNames x; refine (fun hx => ?_ : (Frame fm b0 x.st) → _) ?_; (on_goal 2 => unfold x); all_goals clear_value x)
    | extract_lets +onlyGivenNames x
    | with_reducible apply FrameOut.next
    | with_reducible apply elapseNs_frame
    | with_reducible apply govRest_frame
    | with_reducible apply startClock_frame
    | with_reducible apply govDefer_frame
    | with_reducible apply Frame.ite
    | (with_reducible refine Frame.ofPair ‹_ = (_, _)› ?_)
    | split
    | ((conv in State.mk _ _ _ _ _ _ _ _ _ _ _ _ _ _ _ _ _ _ _ _ _ _ _ _ _ => skip); with_reducible apply Frame.upd)
    | with_reducible exact .inr rfl
    | exact .inl (Part.sub_has _ hfm (by decide))
    | exact .inl ⟨Part.sub_has _ hfm (by decide), fun h => h⟩
    | exact .inl ⟨Part.sub_has _ hfm (by decide), fun h => by simpa only [List.length_set, List.length_map, List.length_zipIdx] using h⟩

theorem writeRun_frame {fm : List Part} {b0 : State} (s : State) (r : TileRef) (v : Bool)
    (hfr : Frame fm b0 s) (hfm : Part.sub [.cyc, .tick, .tfrac, .regs, .tiles, .net, .reports, .log, .pwr] fm = true) : Frame fm b0 (writeRun s r v) := by
  unfold writeRun
  repeat' first
    | with_reducible assumption
    | exact Part.sub_trans (by decide) hfm
    | with_reducible intro _
    | with_reducible apply askStart_frame
    | with_reducible apply changeTile_frame
    | with_reducible apply slotsFrom_safe
    | with_reducible apply setRunOn_safe
    | with_reducible apply busyAt_safe
    | with_reducible apply setRunOff_safe
    | with_reducible apply Frame.ite
    | split
    | extract_lets +onlyGivenNames x

theorem execRun_frame {fm : List Part} {b0 : State} (r : TileRef) (v : Bool) (s : State)
    (hfr : Frame fm b0 s) (hfm : Part.sub [.cyc, .tick, .tfrac, .regs, .tiles, .net, .reports, .log, .pwr] fm = true) : FrameOut fm b0 (execRun r v s) := by
  unfold execRun
  repeat' first
    | with_reducible assumption
    | extract_lets +onlyGivenNames x
    | with_reducible apply FrameOut.next
    | with_reducible apply writeRun_frame

theorem writeFence_frame {fm : List Part} {b0 : State} (s : State) (r : TileRef)
    (hfr : Frame fm b0 s) (hfm : Part.sub [.cyc, .tick, .tfrac, .regs, .tiles, .net, .reports, .log, .pwr] fm = true) : Frame fm b0 (writeFence s r) := by
  unfold writeFence
  repeat' first
    | with_reducible assumption
    | exact Part.sub_trans (by decide) hfm
    | with_reducible intro _
    | extract_lets +onlyGivenNames x
    | with_reducible apply govWithdraw_frame
    | with_reducible apply changeTile_frame
    | with_reducible apply Frame.ite
    | with_reducible apply fenceTile_safe

theorem execFence_frame {fm : List Part} {b0 : State} (r : TileRef) (s : State)
    (hfr : Frame fm b0 s) (hfm : Part.sub [.cyc, .tick, .tfrac, .regs, .tiles, .net, .reports, .log, .pwr] fm = true) : FrameOut fm b0 (execFence r s) := by
  unfold execFence
  repeat' first
    | with_reducible assumption
    | extract_lets +onlyGivenNames x
    | with_reducible apply FrameOut.next
    | with_reducible apply writeFence_frame

theorem writeWdogLock_frame {fm : List Part} {b0 : State} (s : State) (r : TileRef)
    (hfr : Frame fm b0 s) (hfm : Part.sub [.cyc, .tick, .tfrac, .regs, .tiles, .net, .reports, .log] fm = true) : Frame fm b0 (writeWdogLock s r) := by
  unfold writeWdogLock
  repeat' first
    | with_reducible assumption
    | with_reducible intro _
    | extract_lets +onlyGivenNames x
    | with_reducible apply changeTile_frame
    | with_reducible apply Frame.ite
    | with_reducible apply tput_safe

theorem execWdogLock_frame {fm : List Part} {b0 : State} (r : TileRef) (s : State)
    (hfr : Frame fm b0 s) (hfm : Part.sub [.cyc, .tick, .tfrac, .regs, .tiles, .net, .reports, .log] fm = true) : FrameOut fm b0 (execWdogLock r s) := by
  unfold execWdogLock
  repeat' first
    | with_reducible assumption
    | extract_lets +onlyGivenNames x
    | with_reducible apply FrameOut.next
    | with_reducible apply writeWdogLock_frame

theorem writeArrLock_frame {fm : List Part} {b0 : State} (s : State) (r : TileRef)
    (hfr : Frame fm b0 s) (hfm : Part.sub [.cyc, .tick, .tfrac, .regs, .tiles, .net, .reports, .log] fm = true) : Frame fm b0 (writeArrLock s r) := by
  unfold writeArrLock
  repeat' first
    | with_reducible assumption
    | with_reducible intro _
    | extract_lets +onlyGivenNames x
    | with_reducible apply changeTile_frame
    | with_reducible apply Frame.ite
    | with_reducible apply tput_safe
    | with_reducible apply ite_safe

theorem execTilArrLock_frame {fm : List Part} {b0 : State} (r : TileRef) (s : State)
    (hfr : Frame fm b0 s) (hfm : Part.sub [.cyc, .tick, .tfrac, .regs, .tiles, .net, .reports, .log] fm = true) : FrameOut fm b0 (execTilArrLock r s) := by
  unfold execTilArrLock
  repeat' first
    | with_reducible assumption
    | extract_lets +onlyGivenNames x
    | with_reducible apply FrameOut.next
    | with_reducible apply writeArrLock_frame

end Sys2Proof.Machine
end

