-- ==== Sys2Proof/Laws/FramesChart.lean ====
section
/-!
SUPPORT. Frames of the operations of the model (chart): which parts of the state each can touch, and that a safe
machine stays safe.
-/

namespace Sys2Proof.Machine

theorem putHalf_frame {fm : List Part} {b0 : State} (s : State) (h : Nat) (v : VHalf)
    (hfr : Frame fm b0 s) (hfm : Part.sub [.vil] fm = true) : Frame fm b0 (putHalf s h v) := by
  unfold putHalf
  repeat' first
    | with_reducible assumption
    | extract_lets +onlyGivenNames x
    | ((conv in State.mk _ _ _ _ _ _ _ _ _ _ _ _ _ _ _ _ _ _ _ _ _ _ _ _ _ => skip); with_reducible apply Frame.upd)
    | with_reducible exact .inr rfl
    | exact .inl ⟨Part.sub_has _ hfm (by decide), fun h => by simpa only [List.length_set, List.length_map, List.length_zipIdx] using h⟩

theorem sendVFlit_frame {fm : List Part} {b0 : State} (s : State) (h : Nat) (bs : List Byte)
    (hfr : Frame fm b0 s) (hfm : Part.sub [.regs, .vil] fm = true) : Frame fm b0 (sendVFlit s h bs) := by
  unfold sendVFlit
  repeat' first
    | with_reducible assumption
    | exact Part.sub_trans (by decide) hfm
    | with_reducible intro _
    | (extract_lets +onlyGivenNames x; refine (fun hx => ?_ : (Frame fm b0 x) → _) ?_; (on_goal 2 => unfold x); all_goals clear_value x)
    | (extract_lets +onlyGivenNames x; refine (fun hx => ?_ : (Frame fm b0 x.1) → _) ?_; (on_goal 2 => unfold x); all_goals clear_value x)
    | (extract_lets +onlyGivenNames x; refine (fun hx => ?_ : (tileSafe x = true) → _) ?_; (on_goal 2 => unfold x); all_goals clear_value x)
    | (extract_lets +onlyGivenNames x; refine (fun hx => ?_ : (tileSafe x.1 = true) → _) ?_; (on_goal 2 => unfold x); all_goals clear_value x)
    | (extract_lets +onlyGivenNames x; refine (fun hx => ?_ : (FrameOpt fm b0 x) → _) ?_; (on_goal 2 => unfold x); all_goals clear_value x)
    | (extract_lets +onlyGivenNames x; refine (fun hx => ?_ : (Frame fm b0 x.st) → _) ?_; (on_goal 2 => unfold x); all_goals clear_value x)
    | extract_lets +onlyGivenNames x
    | with_reducible apply rbump_frame
    | with_reducible apply putHalf_frame
    | with_reducible apply Frame.ite
    | split
    | ((conv in State.mk _ _ _ _ _ _ _ _ _ _ _ _ _ _ _ _ _ _ _ _ _ _ _ _ _ => skip); with_reducible apply Frame.upd)
    | with_reducible exact .inr rfl
    | exact .inl (Part.sub_has _ hfm (by decide))
    | exact .inl ⟨Part.sub_has _ hfm (by decide), fun h => h⟩
    | exact .inl ⟨Part.sub_has _ hfm (by decide), fun h => by simpa only [List.length_set, List.length_map, List.length_zipIdx] using h⟩

theorem giveMsg_frame {fm : List Part} {b0 : State} (s : State) (m : VMsg)
    (hfr : Frame fm b0 s) (hfm : Part.sub [.regs, .vil] fm = true) : Frame fm b0 (giveMsg s m) := by
  unfold giveMsg
  repeat' first
    | with_reducible assumption
    | exact Part.sub_trans (by decide) hfm
    | with_reducible intro _
    | (extract_lets +onlyGivenNames x; refine (fun hx => ?_ : (Frame fm b0 x) → _) ?_; (on_goal 2 => unfold x); all_goals clear_value x)
    | (extract_lets +onlyGivenNames x; refine (fun hx => ?_ : (Frame fm b0 x.1) → _) ?_; (on_goal 2 => unfold x); all_goals clear_value x)
    | (extract_lets +onlyGivenNames x; refine (fun hx => ?_ : (tileSafe x = true) → _) ?_; (on_goal 2 => unfold x); all_goals clear_value x)
    | (extract_lets +onlyGivenNames x; refine (fun hx => ?_ : (tileSafe x.1 = true) → _) ?_; (on_goal 2 => unfold x); all_goals clear_value x)
    | (extract_lets +onlyGivenNames x; refine (fun hx => ?_ : (FrameOpt fm b0 x) → _) ?_; (on_goal 2 => unfold x); all_goals clear_value x)
    | (extract_lets +onlyGivenNames x; refine (fun hx => ?_ : (Frame fm b0 x.st) → _) ?_; (on_goal 2 => unfold x); all_goals clear_value x)
    | extract_lets +onlyGivenNames x
    | with_reducible apply putHalf_frame
    | with_reducible apply sendVFlit_frame
    | with_reducible apply Frame.foldl
    | with_reducible apply Frame.foldlFst
    | ((conv in State.mk _ _ _ _ _ _ _ _ _ _ _ _ _ _ _ _ _ _ _ _ _ _ _ _ _ => skip); with_reducible apply Frame.upd)
    | with_reducible exact .inr rfl
    | exact .inl (Part.sub_has _ hfm (by decide))
    | exact .inl ⟨Part.sub_has _ hfm (by decide), fun h => h⟩
    | exact .inl ⟨Part.sub_has _ hfm (by decide), fun h => by simpa only [List.length_set, List.length_map, List.length_zipIdx] using h⟩

theorem sendMsg_frame {fm : List Part} {b0 : State} (s : State) (m : VMsg)
    (hfr : Frame fm b0 s) (hfm : Part.sub [.regs, .vil] fm = true) : Frame fm b0 (sendMsg s m) := by
  unfold sendMsg
  repeat' first
    | with_reducible assumption
    | exact Part.sub_trans (by decide) hfm
    | with_reducible intro _
    | (extract_lets +onlyGivenNames x; refine (fun hx => ?_ : (Frame fm b0 x) → _) ?_; (on_goal 2 => unfold x); all_goals clear_value x)
    | (extract_lets +onlyGivenNames x; refine (fun hx => ?_ : (Frame fm b0 x.1) → _) ?_; (on_goal 2 => unfold x); all_goals clear_value x)
    | (extract_lets +onlyGivenNames x; refine (fun hx => ?_ : (tileSafe x = true) → _) ?_; (on_goal 2 => unfold x); all_goals clear_value x)
    | (extract_lets +onlyGivenNames x; refine (fun hx => ?_ : (tileSafe x.1 = true) → _) ?_; (on_goal 2 => unfold x); all_goals clear_value x)
    | (extract_lets +onlyGivenNames x; refine (fun hx => ?_ : (FrameOpt fm b0 x) → _) ?_; (on_goal 2 => unfold x); all_goals clear_value x)
    | (extract_lets +onlyGivenNames x; refine (fun hx => ?_ : (Frame fm b0 x.st) → _) ?_; (on_goal 2 => unfold x); all_goals clear_value x)
    | extract_lets +onlyGivenNames x
    | with_reducible apply giveMsg_frame
    | with_reducible apply putHalf_frame
    | with_reducible apply Frame.ite
    | split
    | ((conv in State.mk _ _ _ _ _ _ _ _ _ _ _ _ _ _ _ _ _ _ _ _ _ _ _ _ _ => skip); with_reducible apply Frame.upd)
    | with_reducible exact .inr rfl
    | exact .inl (Part.sub_has _ hfm (by decide))
    | exact .inl ⟨Part.sub_has _ hfm (by decide), fun h => h⟩
    | exact .inl ⟨Part.sub_has _ hfm (by decide), fun h => by simpa only [List.length_set, List.length_map, List.length_zipIdx] using h⟩

theorem request_frame {fm : List Part} {b0 : State} (s : State) (h opc addr len : Nat) (aux : Nat) (data : List Byte) (why : VPurpose)
    (hfr : Frame fm b0 s) (hfm : Part.sub [.regs, .vil] fm = true) : Frame fm b0 (request s h opc addr len aux data why) := by
  unfold request
  repeat' first
    | with_reducible assumption
    | exact Part.sub_trans (by decide) hfm
    | (extract_lets +onlyGivenNames x; refine (fun hx => ?_ : (Frame fm b0 x) → _) ?_; (on_goal 2 => unfold x); all_goals clear_value x)
    | extract_lets +onlyGivenNames x
    | with_reducible apply sendMsg_frame
    | with_reducible apply putHalf_frame
    | with_reducible apply Frame.ite

theorem endReq_frame {fm : List Part} {b0 : State} (s : State) (h : Nat) (q : VReq)
    (hfr : Frame fm b0 s) (hfm : Part.sub [.regs, .vil] fm = true) : Frame fm b0 (endReq s h q) := by
  unfold endReq
  repeat' first
    | with_reducible assumption
    | exact Part.sub_trans (by decide) hfm
    | (extract_lets +onlyGivenNames x; refine (fun hx => ?_ : (Frame fm b0 x) → _) ?_; (on_goal 2 => unfold x); all_goals clear_value x)
    | extract_lets +onlyGivenNames x
    | with_reducible apply sendMsg_frame
    | with_reducible apply putHalf_frame
    | split

theorem dropLine_frame {fm : List Part} {b0 : State} (s : State) (h n : Nat)
    (hfr : Frame fm b0 s) (hfm : Part.sub [.vil] fm = true) : Frame fm b0 (dropLine s h n) := by
  unfold dropLine
  repeat' first
    | with_reducible assumption
    | extract_lets +onlyGivenNames x
    | with_reducible apply putHalf_frame

theorem touchLine_frame {fm : List Part} {b0 : State} (s : State) (h : Nat) (l : VLine)
    (hfr : Frame fm b0 s) (hfm : Part.sub [.vil] fm = true) : Frame fm b0 (touchLine s h l) := by
  unfold touchLine
  repeat' first
    | with_reducible assumption
    | extract_lets +onlyGivenNames x
    | with_reducible apply putHalf_frame

theorem makeRoom_frame {fm : List Part} {b0 : State} (s : State) (h n : Nat)
    (hfr : Frame fm b0 s) (hfm : Part.sub [.regs, .vil] fm = true) : Frame fm b0 (makeRoom s h n) := by
  unfold makeRoom
  repeat' first
    | with_reducible assumption
    | exact Part.sub_trans (by decide) hfm
    | extract_lets +onlyGivenNames x
    | with_reducible apply dropLine_frame
    | with_reducible apply request_frame
    | with_reducible apply rbump_frame
    | with_reducible apply Frame.ite
    | split

theorem installLine_frame {fm : List Part} {b0 : State} (s : State) (h n : Nat) (data : List Byte) (watched : Bool)
    (hfr : Frame fm b0 s) (hfm : Part.sub [.regs, .vil] fm = true) : Frame fm b0 (installLine s h n data watched) := by
  unfold installLine
  repeat' first
    | with_reducible assumption
    | exact Part.sub_trans (by decide) hfm
    | (extract_lets +onlyGivenNames x; refine (fun hx => ?_ : (Frame fm b0 x) → _) ?_; (on_goal 2 => unfold x); all_goals clear_value x)
    | extract_lets +onlyGivenNames x
    | with_reducible apply makeRoom_frame
    | with_reducible apply dropLine_frame
    | with_reducible apply putHalf_frame

theorem writeLines_frame {fm : List Part} {b0 : State} (s : State) (h a : Nat) (bs : List Byte) (why : Nat → VPurpose)
    (hfr : Frame fm b0 s) (hfm : Part.sub [.regs, .vil] fm = true) : Frame fm b0 (writeLines s h a bs why) := by
  unfold writeLines
  repeat' first
    | with_reducible assumption
    | exact Part.sub_trans (by decide) hfm
    | with_reducible intro _
    | (extract_lets +onlyGivenNames x; refine (fun hx => ?_ : (Frame fm b0 x) → _) ?_; (on_goal 2 => unfold x); all_goals clear_value x)
    | extract_lets +onlyGivenNames x
    | with_reducible apply dropLine_frame
    | with_reducible apply request_frame
    | with_reducible apply Frame.foldl
    | with_reducible apply Frame.ite

theorem finishVOp_frame {fm : List Part} {b0 : State} (s : State) (o : VOp)
    (hfr : Frame fm b0 s) (hfm : Part.sub [.regs, .net, .vil] fm = true) : Frame fm b0 (finishVOp s o) := by
  unfold finishVOp
  repeat' first
    | with_reducible assumption
    | exact Part.sub_trans (by decide) hfm
    | (extract_lets +onlyGivenNames x; refine (fun hx => ?_ : (Frame fm b0 x) → _) ?_; (on_goal 2 => unfold x); all_goals clear_value x)
    | extract_lets +onlyGivenNames x
    | with_reducible apply complete_frame
    | ((conv in State.mk _ _ _ _ _ _ _ _ _ _ _ _ _ _ _ _ _ _ _ _ _ _ _ _ _ => skip); with_reducible apply Frame.upd)
    | with_reducible exact .inr rfl
    | exact .inl ⟨Part.sub_has _ hfm (by decide), fun h => h⟩

theorem putVOp_frame {fm : List Part} {b0 : State} (s : State) (o : VOp)
    (hfr : Frame fm b0 s) (hfm : Part.sub [.vil] fm = true) : Frame fm b0 (putVOp s o) := by
  unfold putVOp
  repeat' first
    | with_reducible assumption
    | extract_lets +onlyGivenNames x
    | ((conv in State.mk _ _ _ _ _ _ _ _ _ _ _ _ _ _ _ _ _ _ _ _ _ _ _ _ _ => skip); with_reducible apply Frame.upd)
    | with_reducible exact .inr rfl
    | exact .inl ⟨Part.sub_has _ hfm (by decide), fun h => h⟩

theorem endPart_frame {fm : List Part} {b0 : State} (s : State) (id i : Nat) (st : Status) (bytes : List Byte)
    (hfr : Frame fm b0 s) (hfm : Part.sub [.regs, .net, .vil] fm = true) : Frame fm b0 (endPart s id i st bytes) := by
  unfold endPart
  repeat' first
    | with_reducible assumption
    | exact Part.sub_trans (by decide) hfm
    | extract_lets +onlyGivenNames x
    | with_reducible apply putVOp_frame
    | with_reducible apply finishVOp_frame
    | with_reducible apply Frame.ite
    | split

theorem startVOp_frame {fm : List Part} {b0 : State} (s : State) (p : Packet) (parts : Nat)
    (hfr : Frame fm b0 s) (hfm : Part.sub [.net, .vil] fm = true) : Frame fm b0 (startVOp s p parts) := by
  unfold startVOp
  repeat' first
    | with_reducible assumption
    | extract_lets +onlyGivenNames x
    | ((conv in State.mk _ _ _ _ _ _ _ _ _ _ _ _ _ _ _ _ _ _ _ _ _ _ _ _ _ => skip); with_reducible apply Frame.upd)
    | with_reducible exact .inr rfl
    | exact .inl (Part.sub_has _ hfm (by decide))
    | exact .inl ⟨Part.sub_has _ hfm (by decide), fun h => h⟩

theorem companionPut_frame {fm : List Part} {b0 : State} (s : State) (p : Packet)
    (hfr : Frame fm b0 s) (hfm : Part.sub [.regs, .net, .vil] fm = true) : Frame fm b0 (companionPut s p) := by
  unfold companionPut
  repeat' first
    | with_reducible assumption
    | exact Part.sub_trans (by decide) hfm
    | extract_lets +onlyGivenNames x
    | with_reducible apply startVOp_frame
    | with_reducible apply writeLines_frame

theorem companionRead_frame {fm : List Part} {b0 : State} (s : State) (h id i : Nat) (cached : Bool) (a n : Nat)
    (hfr : Frame fm b0 s) (hfm : Part.sub [.regs, .net, .vil] fm = true) : Frame fm b0 (companionRead s h id i cached a n) := by
  unfold companionRead
  repeat' first
    | with_reducible assumption
    | exact Part.sub_trans (by decide) hfm
    | extract_lets +onlyGivenNames x
    | with_reducible apply endPart_frame
    | with_reducible apply touchLine_frame
    | with_reducible apply request_frame
    | split

theorem companionGet_frame {fm : List Part} {b0 : State} (s : State) (p : Packet) (w : Nat)
    (hfr : Frame fm b0 s) (hfm : Part.sub [.regs, .net, .vil] fm = true) : Frame fm b0 (companionGet s p w) := by
  unfold companionGet
  repeat' first
    | with_reducible assumption
    | exact Part.sub_trans (by decide) hfm
    | with_reducible intro _
    | extract_lets +onlyGivenNames x
    | with_reducible apply companionRead_frame
    | with_reducible apply startVOp_frame
    | with_reducible apply Frame.foldl

theorem watchRead_frame {fm : List Part} {b0 : State} (s : State) (a : Nat)
    (hfr : Frame fm b0 s) (hfm : Part.sub [.regs, .vil] fm = true) : Frame fm b0 (watchRead s a) := by
  unfold watchRead
  repeat' first
    | with_reducible assumption
    | exact Part.sub_trans (by decide) hfm
    | extract_lets +onlyGivenNames x
    | with_reducible apply request_frame
    | with_reducible apply putHalf_frame
    | with_reducible apply Frame.ite

theorem dwrite_frame {fm : List Part} {b0 : State} (s : State) (k off : Nat) (bs : List Byte)
    (hfr : Frame fm b0 s) (hfm : Part.sub [.dram] fm = true) : Frame fm b0 (dwrite s k off bs) := by
  unfold dwrite
  repeat' first
    | with_reducible assumption
    | extract_lets +onlyGivenNames x
    | ((conv in State.mk _ _ _ _ _ _ _ _ _ _ _ _ _ _ _ _ _ _ _ _ _ _ _ _ _ => skip); with_reducible apply Frame.upd)
    | with_reducible exact .inr rfl
    | exact .inl ⟨Part.sub_has _ hfm (by decide), fun h => memWrite_wf _ _ _ h⟩

theorem cwrite_frame {fm : List Part} {b0 : State} (s : State) (k off : Nat) (bs : List Byte)
    (hfr : Frame fm b0 s) (hfm : Part.sub [.dram] fm = true) : Frame fm b0 (cwrite s k off bs) := by
  unfold cwrite
  repeat' first
    | with_reducible assumption
    | with_reducible apply dwrite_frame

theorem putCword_frame {fm : List Part} {b0 : State} (s : State) (k off v : Nat)
    (hfr : Frame fm b0 s) (hfm : Part.sub [.dram] fm = true) : Frame fm b0 (putCword s k off v) := by
  unfold putCword
  repeat' first
    | with_reducible assumption
    | with_reducible apply cwrite_frame

theorem chartFault_frame {fm : List Part} {b0 : State} (s : State) (k c : Nat) (f : Fld)
    (hfr : Frame fm b0 s) (hfm : Part.sub [.regs, .reports] fm = true) : Frame fm b0 (chartFault s k c f) := by
  unfold chartFault
  repeat' first
    | with_reducible assumption
    | exact Part.sub_trans (by decide) hfm
    | (extract_lets +onlyGivenNames x; refine (fun hx => ?_ : (Frame fm b0 x) → _) ?_; (on_goal 2 => unfold x); all_goals clear_value x)
    | extract_lets +onlyGivenNames x
    | with_reducible apply rset_frame
    | with_reducible apply rput_frame
    | ((conv in State.mk _ _ _ _ _ _ _ _ _ _ _ _ _ _ _ _ _ _ _ _ _ _ _ _ _ => skip); with_reducible apply Frame.upd)
    | with_reducible exact .inr rfl
    | exact .inl (Part.sub_has _ hfm (by decide))

theorem putDesc1_frame {fm : List Part} {b0 : State} (s : State) (k f v : Nat)
    (hfr : Frame fm b0 s) (hfm : Part.sub [.dram] fm = true) : Frame fm b0 (putDesc1 s k f v) := by
  unfold putDesc1
  repeat' first
    | with_reducible assumption
    | with_reducible apply putCword_frame

theorem releaseFrame_frame {fm : List Part} {b0 : State} (s : State) (k f : Nat)
    (hfr : Frame fm b0 s) (hfm : Part.sub [.regs, .dram, .stk] fm = true) : Frame fm b0 (releaseFrame s k f) := by
  unfold releaseFrame
  repeat' first
    | with_reducible assumption
    | exact Part.sub_trans (by decide) hfm
    | with_reducible intro _
    | (extract_lets +onlyGivenNames x; refine (fun hx => ?_ : (Frame fm b0 x) → _) ?_; (on_goal 2 => unfold x); all_goals clear_value x)
    | (extract_lets +onlyGivenNames x; refine (fun hx => ?_ : (Frame fm b0 x.1) → _) ?_; (on_goal 2 => unfold x); all_goals clear_value x)
    | (extract_lets +onlyGivenNames x; refine (fun hx => ?_ : (tileSafe x = true) → _) ?_; (on_goal 2 => unfold x); all_goals clear_value x)
    | (extract_lets +onlyGivenNames x; refine (fun hx => ?_ : (tileSafe x.1 = true) → _) ?_; (on_goal 2 => unfold x); all_goals clear_value x)
    | (extract_lets +onlyGivenNames x; refine (fun hx => ?_ : (FrameOpt fm b0 x) → _) ?_; (on_goal 2 => unfold x); all_goals clear_value x)
    | (extract_lets +onlyGivenNames x; refine (fun hx => ?_ : (Frame fm b0 x.st) → _) ?_; (on_goal 2 => unfold x); all_goals clear_value x)
    | extract_lets +onlyGivenNames x
    | with_reducible apply rbump_frame
    | with_reducible apply putDesc1_frame
    | with_reducible apply putStk_frame
    | with_reducible apply Frame.ite
    | split
    | ((conv in State.mk _ _ _ _ _ _ _ _ _ _ _ _ _ _ _ _ _ _ _ _ _ _ _ _ _ => skip); with_reducible apply Frame.upd)
    | with_reducible exact .inr rfl
    | exact .inl (Part.sub_has _ hfm (by decide))
    | exact .inl ⟨Part.sub_has _ hfm (by decide), fun h => h⟩
    | exact .inl ⟨Part.sub_has _ hfm (by decide), fun h => by simpa only [List.length_set, List.length_map, List.length_zipIdx] using h⟩

theorem retireFrame_frame {fm : List Part} {b0 : State} (s : State) (k f : Nat)
    (hfr : Frame fm b0 s) (hfm : Part.sub [.stk] fm = true) : Frame fm b0 (retireFrame s k f) := by
  unfold retireFrame
  repeat' first
    | with_reducible assumption
    | extract_lets +onlyGivenNames x
    | with_reducible apply putStk_frame

theorem casDesc_frame {fm : List Part} {b0 : State} (s : State) (k f w : Nat)
    (hfr : Frame fm b0 s) (hfm : Part.sub [.regs, .dram, .stk] fm = true) : Frame fm b0 (casDesc s k f w) := by
  unfold casDesc
  repeat' first
    | with_reducible assumption
    | exact Part.sub_trans (by decide) hfm
    | with_reducible intro _
    | (extract_lets +onlyGivenNames x; refine (fun hx => ?_ : (Frame fm b0 x) → _) ?_; (on_goal 2 => unfold x); all_goals clear_value x)
    | (extract_lets +onlyGivenNames x; refine (fun hx => ?_ : (Frame fm b0 x.1) → _) ?_; (on_goal 2 => unfold x); all_goals clear_value x)
    | (extract_lets +onlyGivenNames x; refine (fun hx => ?_ : (tileSafe x = true) → _) ?_; (on_goal 2 => unfold x); all_goals clear_value x)
    | (extract_lets +onlyGivenNames x; refine (fun hx => ?_ : (tileSafe x.1 = true) → _) ?_; (on_goal 2 => unfold x); all_goals clear_value x)
    | (extract_lets +onlyGivenNames x; refine (fun hx => ?_ : (FrameOpt fm b0 x) → _) ?_; (on_goal 2 => unfold x); all_goals clear_value x)
    | (extract_lets +onlyGivenNames x; refine (fun hx => ?_ : (Frame fm b0 x.st) → _) ?_; (on_goal 2 => unfold x); all_goals clear_value x)
    | extract_lets +onlyGivenNames x
    | with_reducible apply putDesc1_frame
    | with_reducible apply releaseFrame_frame
    | with_reducible apply Frame.ite
    | split

theorem refUp_frame {fm : List Part} {b0 : State} (s : State) (k f gen : Nat)
    (hfr : Frame fm b0 s) (hfm : Part.sub [.dram] fm = true) : FrameOpt fm b0 (refUp s k f gen) := by
  unfold refUp
  repeat' first
    | with_reducible assumption
    | extract_lets +onlyGivenNames x
    | with_reducible apply putDesc1_frame
    | with_reducible apply FrameOpt.none
    | with_reducible apply FrameOpt.some
    | with_reducible apply FrameOpt.ite

theorem refDown_frame {fm : List Part} {b0 : State} (s : State) (k f : Nat)
    (hfr : Frame fm b0 s) (hfm : Part.sub [.regs, .dram, .stk] fm = true) : Frame fm b0 (refDown s k f) := by
  unfold refDown
  repeat' first
    | with_reducible assumption
    | with_reducible apply casDesc_frame

theorem pinUp_frame {fm : List Part} {b0 : State} (s : State) (k f gen : Nat)
    (hfr : Frame fm b0 s) (hfm : Part.sub [.dram] fm = true) : FrameOpt fm b0 (pinUp s k f gen) := by
  unfold pinUp
  repeat' first
    | with_reducible assumption
    | extract_lets +onlyGivenNames x
    | with_reducible apply putDesc1_frame
    | with_reducible apply FrameOpt.none
    | with_reducible apply FrameOpt.some
    | with_reducible apply FrameOpt.ite

theorem pinDown_frame {fm : List Part} {b0 : State} (s : State) (k f : Nat)
    (hfr : Frame fm b0 s) (hfm : Part.sub [.regs, .dram, .stk] fm = true) : Frame fm b0 (pinDown s k f) := by
  unfold pinDown
  repeat' first
    | with_reducible assumption
    | with_reducible apply casDesc_frame

theorem allocFrame_frame {fm : List Part} {b0 : State} (s : State) (k l : Nat)
    (hfr : Frame fm b0 s) (hfm : Part.sub [.regs, .dram, .stk] fm = true) : FrameOpt1 fm b0 (allocFrame s k l) := by
  unfold allocFrame
  repeat' first
    | with_reducible assumption
    | exact Part.sub_trans (by decide) hfm
    | (extract_lets +onlyGivenNames x; refine (fun hx => ?_ : (Frame fm b0 x) → _) ?_; (on_goal 2 => unfold x); all_goals clear_value x)
    | extract_lets +onlyGivenNames x
    | with_reducible apply putDesc1_frame
    | with_reducible apply putCword_frame
    | with_reducible apply putStk_frame
    | with_reducible apply rbump_frame
    | with_reducible apply Frame.ite
    | with_reducible apply FrameOpt1.none
    | with_reducible apply FrameOpt1.some
    | split

theorem putRoot_frame {fm : List Part} {b0 : State} (s : State) (k c : Nat) (r : Root)
    (hfr : Frame fm b0 s) (hfm : Part.sub [.dram] fm = true) : Frame fm b0 (putRoot s k c r) := by
  unfold putRoot
  repeat' first
    | with_reducible assumption
    | extract_lets +onlyGivenNames x
    | with_reducible apply putCword_frame

theorem putPle_frame {fm : List Part} {b0 : State} (s : State) (k c : Nat) (r : Root) (l p : Nat) (e : Ple)
    (hfr : Frame fm b0 s) (hfm : Part.sub [.dram, .stk] fm = true) : Frame fm b0 (putPle s k c r l p e) := by
  unfold putPle
  repeat' first
    | with_reducible assumption
    | exact Part.sub_trans (by decide) hfm
    | (extract_lets +onlyGivenNames x; refine (fun hx => ?_ : (Frame fm b0 x) → _) ?_; (on_goal 2 => unfold x); all_goals clear_value x)
    | extract_lets +onlyGivenNames x
    | with_reducible apply putCword_frame
    | with_reducible apply putStk_frame

theorem fillCache_frame {fm : List Part} {b0 : State} (s : State) (k : Nat) (e : ChartLine)
    (hfr : Frame fm b0 s) (hfm : Part.sub [.stk] fm = true) : Frame fm b0 (fillCache s k e) := by
  unfold fillCache
  repeat' first
    | with_reducible assumption
    | extract_lets +onlyGivenNames x
    | with_reducible apply putStk_frame
    | with_reducible apply Frame.ite
    | split

theorem translate_frame {fm : List Part} {b0 : State} (s : State) (k c : Nat) (r : Root) (l p : Nat)
    (hfr : Frame fm b0 s) (hfm : Part.sub [.regs, .reports, .stk] fm = true) : Frame fm b0 (translate s k c r l p).1 := by
  unfold translate
  repeat' first
    | with_reducible assumption
    | exact Part.sub_trans (by decide) hfm
    | (extract_lets +onlyGivenNames x; refine (fun hx => ?_ : (Frame fm b0 x) → _) ?_; (on_goal 2 => unfold x); all_goals clear_value x)
    | extract_lets +onlyGivenNames x
    | with_reducible apply fillCache_frame
    | with_reducible apply chartFault_frame
    | with_reducible apply rbump_frame
    | split

theorem formatRequest_frame {fm : List Part} {b0 : State} (s : State) (c : Nat)
    (hfr : Frame fm b0 s) (hfm : Part.sub [.serve] fm = true) : Frame fm b0 (formatRequest s c) := by
  unfold formatRequest
  repeat' first
    | with_reducible assumption
    | extract_lets +onlyGivenNames x
    | split
    | ((conv in State.mk _ _ _ _ _ _ _ _ _ _ _ _ _ _ _ _ _ _ _ _ _ _ _ _ _ => skip); with_reducible apply Frame.upd)
    | with_reducible exact .inr rfl
    | exact .inl ⟨Part.sub_has _ hfm (by decide), fun h => h⟩

theorem pinForBerth_frame {fm : List Part} {b0 : State} (s : State) (k b f gen : Nat)
    (hfr : Frame fm b0 s) (hfm : Part.sub [.regs, .dram, .stk] fm = true) : Frame fm b0 (pinForBerth s k b f gen) := by
  unfold pinForBerth
  repeat' first
    | with_reducible assumption
    | exact Part.sub_trans (by decide) hfm
    | with_reducible intro _
    | (extract_lets +onlyGivenNames x; refine (fun hx => ?_ : (Frame fm b0 x) → _) ?_; (on_goal 2 => unfold x); all_goals clear_value x)
    | (extract_lets +onlyGivenNames x; refine (fun hx => ?_ : (Frame fm b0 x.1) → _) ?_; (on_goal 2 => unfold x); all_goals clear_value x)
    | (extract_lets +onlyGivenNames x; refine (fun hx => ?_ : (tileSafe x = true) → _) ?_; (on_goal 2 => unfold x); all_goals clear_value x)
    | (extract_lets +onlyGivenNames x; refine (fun hx => ?_ : (tileSafe x.1 = true) → _) ?_; (on_goal 2 => unfold x); all_goals clear_value x)
    | (extract_lets +onlyGivenNames x; refine (fun hx => ?_ : (FrameOpt fm b0 x) → _) ?_; (on_goal 2 => unfold x); all_goals clear_value x)
    | (extract_lets +onlyGivenNames x; refine (fun hx => ?_ : (Frame fm b0 x.st) → _) ?_; (on_goal 2 => unfold x); all_goals clear_value x)
    | extract_lets +onlyGivenNames x
    | with_reducible apply rput_frame
    | with_reducible apply rset_frame
    | with_reducible apply rbump_frame
    | with_reducible apply pinUp_frame
    | with_reducible apply putStk_frame
    | with_reducible apply Frame.ite
    | with_reducible apply FrameOpt.none
    | with_reducible apply FrameOpt1.none
    | with_reducible apply FrameOpt.some
    | with_reducible apply FrameOpt1.some
    | with_reducible apply FrameOpt.ite
    | with_reducible apply FrameOpt.foldl
    | with_reducible apply FrameOpt.map
    | (exact (by assumption : FrameOpt fm b0 (some _)) _ rfl)
    | (with_reducible refine FrameOpt.of ‹_ = some _› ?_)
    | (with_reducible refine FrameOpt1.ofPair ‹_ = some _› ?_)
    | (with_reducible refine FrameOpt1.of ‹_ = some _› ?_)
    | (with_reducible refine Frame.ofPair ‹_ = (_, _)› ?_)
    | split
    | ((conv in State.mk _ _ _ _ _ _ _ _ _ _ _ _ _ _ _ _ _ _ _ _ _ _ _ _ _ => skip); with_reducible apply Frame.upd)
    | with_reducible exact .inr rfl
    | exact .inl (Part.sub_has _ hfm (by decide))
    | exact .inl ⟨Part.sub_has _ hfm (by decide), fun h => h⟩
    | exact .inl ⟨Part.sub_has _ hfm (by decide), fun h => by simpa only [List.length_set, List.length_map, List.length_zipIdx] using h⟩
    | exact .inl ⟨Part.sub_has _ hfm (by decide), fun h => mapSet_wf _ _ _ _ h⟩

theorem endDeferred_frame {fm : List Part} {b0 : State} (s : State) (k : Nat)
    (hfr : Frame fm b0 s) (hfm : Part.sub [.regs, .dram, .stk] fm = true) : Frame fm b0 (endDeferred s k) := by
  unfold endDeferred
  repeat' first
    | with_reducible assumption
    | exact Part.sub_trans (by decide) hfm
    | with_reducible intro _
    | (extract_lets +onlyGivenNames x; refine (fun hx => ?_ : (Frame fm b0 x) → _) ?_; (on_goal 2 => unfold x); all_goals clear_value x)
    | extract_lets +onlyGivenNames x
    | with_reducible apply putDesc1_frame
    | with_reducible apply putStk_frame
    | with_reducible apply rput_frame
    | with_reducible apply Frame.foldl

theorem releasePins_frame {fm : List Part} {b0 : State} (s : State) (k b : Nat)
    (hfr : Frame fm b0 s) (hfm : Part.sub [.regs, .dram, .stk] fm = true) : Frame fm b0 (releasePins s k b) := by
  unfold releasePins
  repeat' first
    | with_reducible assumption
    | exact Part.sub_trans (by decide) hfm
    | with_reducible intro _
    | (extract_lets +onlyGivenNames x; refine (fun hx => ?_ : (Frame fm b0 x) → _) ?_; (on_goal 2 => unfold x); all_goals clear_value x)
    | extract_lets +onlyGivenNames x
    | with_reducible apply endDeferred_frame
    | with_reducible apply pinDown_frame
    | with_reducible apply putStk_frame
    | with_reducible apply rput_frame
    | with_reducible apply Frame.foldl
    | with_reducible apply Frame.ite

theorem pageRead_frame {fm : List Part} {b0 : State} (s : State) (k : Nat) (a : WinAddr) (n : Nat)
    (hfr : Frame fm b0 s) (hfm : Part.sub [.regs, .dram, .reports, .stk, .serve] fm = true) : Frame fm b0 (pageRead s k a n).1 := by
  unfold pageRead
  repeat' first
    | with_reducible assumption
    | exact Part.sub_trans (by decide) hfm
    | with_reducible intro _
    | (extract_lets +onlyGivenNames x; refine (fun hx => ?_ : (Frame fm b0 x) → _) ?_; (on_goal 2 => unfold x); all_goals clear_value x)
    | (extract_lets +onlyGivenNames x; refine (fun hx => ?_ : (Frame fm b0 x.1) → _) ?_; (on_goal 2 => unfold x); all_goals clear_value x)
    | (extract_lets +onlyGivenNames x; refine (fun hx => ?_ : (tileSafe x = true) → _) ?_; (on_goal 2 => unfold x); all_goals clear_value x)
    | (extract_lets +onlyGivenNames x; refine (fun hx => ?_ : (tileSafe x.1 = true) → _) ?_; (on_goal 2 => unfold x); all_goals clear_value x)
    | (extract_lets +onlyGivenNames x; refine (fun hx => ?_ : (FrameOpt fm b0 x) → _) ?_; (on_goal 2 => unfold x); all_goals clear_value x)
    | (extract_lets +onlyGivenNames x; refine (fun hx => ?_ : (Frame fm b0 x.st) → _) ?_; (on_goal 2 => unfold x); all_goals clear_value x)
    | extract_lets +onlyGivenNames x
    | with_reducible apply translate_frame
    | with_reducible apply pinForBerth_frame
    | with_reducible apply formatRequest_frame
    | with_reducible apply rbump_frame
    | with_reducible apply Frame.foldl
    | with_reducible apply Frame.foldlFst
    | with_reducible apply Frame.ite
    | with_reducible apply FrameOpt.none
    | with_reducible apply FrameOpt1.none
    | with_reducible apply FrameOpt.some
    | with_reducible apply FrameOpt1.some
    | with_reducible apply FrameOpt.ite
    | with_reducible apply FrameOpt.foldl
    | with_reducible apply FrameOpt.map
    | (exact (by assumption : FrameOpt fm b0 (some _)) _ rfl)
    | (with_reducible refine FrameOpt.of ‹_ = some _› ?_)
    | (with_reducible refine FrameOpt1.ofPair ‹_ = some _› ?_)
    | (with_reducible refine FrameOpt1.of ‹_ = some _› ?_)
    | (with_reducible refine Frame.ofPair ‹_ = (_, _)› ?_)
    | split
    | ((conv in State.mk _ _ _ _ _ _ _ _ _ _ _ _ _ _ _ _ _ _ _ _ _ _ _ _ _ => skip); with_reducible apply Frame.upd)
    | with_reducible exact .inr rfl
    | exact .inl (Part.sub_has _ hfm (by decide))
    | exact .inl ⟨Part.sub_has _ hfm (by decide), fun h => h⟩
    | exact .inl ⟨Part.sub_has _ hfm (by decide), fun h => by simpa only [List.length_set, List.length_map, List.length_zipIdx] using h⟩

theorem windowRead_frame {fm : List Part} {b0 : State} (s : State) (k off n : Nat)
    (hfr : Frame fm b0 s) (hfm : Part.sub [.regs, .dram, .reports, .stk, .serve] fm = true) : Frame fm b0 (windowRead s k off n).1 := by
  unfold windowRead
  repeat' first
    | with_reducible assumption
    | exact Part.sub_trans (by decide) hfm
    | with_reducible intro _
    | with_reducible apply pageRead_frame
    | (with_reducible refine Frame.ofPair ‹_ = (_, _)› ?_)
    | split
    | ((conv in State.mk _ _ _ _ _ _ _ _ _ _ _ _ _ _ _ _ _ _ _ _ _ _ _ _ _ => skip); with_reducible apply Frame.upd)
    | with_reducible exact .inr rfl
    | exact .inl (Part.sub_has _ hfm (by decide))
    | exact .inl ⟨Part.sub_has _ hfm (by decide), fun h => h⟩
    | exact .inl ⟨Part.sub_has _ hfm (by decide), fun h => by simpa only [List.length_set, List.length_map, List.length_zipIdx] using h⟩

theorem windowWrite_frame {fm : List Part} {b0 : State} (s : State) (k : Nat) (a : WinAddr) (bs : List Byte)
    (hfr : Frame fm b0 s) (hfm : Part.sub [.regs, .dram, .reports, .stk, .serve] fm = true) : Frame fm b0 (windowWrite s k a bs).1 := by
  unfold windowWrite
  repeat' first
    | with_reducible assumption
    | exact Part.sub_trans (by decide) hfm
    | with_reducible intro _
    | (extract_lets +onlyGivenNames x; refine (fun hx => ?_ : (Frame fm b0 x.1) → _) ?_; (on_goal 2 => unfold x); all_goals clear_value x)
    | extract_lets +onlyGivenNames x
    | with_reducible apply formatRequest_frame
    | with_reducible apply translate_frame
    | with_reducible apply cwrite_frame
    | with_reducible apply Frame.foldl
    | with_reducible apply Frame.foldlFst
    | (with_reducible refine Frame.ofPair ‹_ = (_, _)› ?_)
    | split

theorem putNodeWord_frame {fm : List Part} {b0 : State} (s : State) (k x o v : Nat)
    (hfr : Frame fm b0 s) (hfm : Part.sub [.dram] fm = true) : Frame fm b0 (putNodeWord s k x o v) := by
  unfold putNodeWord
  repeat' first
    | with_reducible assumption
    | with_reducible apply cwrite_frame

theorem touchNode_frame {fm : List Part} {b0 : State} (s : State) (k x : Nat)
    (hfr : Frame fm b0 s) (hfm : Part.sub [.dram] fm = true) : Frame fm b0 (touchNode s k x) := by
  unfold touchNode
  repeat' first
    | with_reducible assumption
    | with_reducible apply putCword_frame

theorem findNode_frame {m : List Part} {s0 : State} (s : State) (k : Nat) (z root : Dword) (parent depth : Nat)
    (toks : List Nat) (h : Frame m s0 s) (hm : Part.sub [.regs] m = true) :
    Frame m s0 (findNode s k z root parent depth toks).1 := by
  unfold findNode
  refine Frame.foldlFst _ _ (fun q x hq => ?_) h
  split
  · exact hq
  · split
    · exact hq
    · split
      · exact rbump_frame _ _ _ _ hq (Part.sub_trans (by decide) hm)
      · split <;> exact hq

theorem lookupStep_frame {m : List Part} {s0 : State} (k : Nat) (root : Dword) (q : State × Dword × Nat × Nat × Bool)
    (toks : List Nat) (h : Frame m s0 q.1) (hm : Part.sub [.regs, .dram] m = true) : Frame m s0 (lookupStep k root q toks).1 := by
  have hf : ∀ y, Frame m s0 (findNode q.1 k y root q.2.2.2.1 q.2.2.1 toks).1 := fun y =>
    findNode_frame _ _ _ _ _ _ _ h (Part.sub_trans (by decide) hm)
  unfold lookupStep
  split
  · exact h
  · extract_lets y f
    have h1 : Frame m s0 f.1 := hf y
    clear_value f
    split
    · exact h1
    · exact rbump_frame _ _ _ _ (touchNode_frame _ _ _ h1 (Part.sub_trans (by decide) hm))
        (Part.sub_trans (by decide) hm)

theorem lookupBlocks_frame {m : List Part} {s0 : State} (k : Nat) (root : Dword) (bs : List (List Nat)) (s : State)
    (z : Dword) (depth node : Nat) (h : Frame m s0 s) (hm : Part.sub [.regs, .dram] m = true) :
    Frame m s0 (lookupBlocks k root bs s z depth node).1 := by
  unfold lookupBlocks
  exact Frame.foldlFst bs _ (fun q x hq => lookupStep_frame k root q x hq (Part.sub_trans (by decide) hm)) h

theorem seeEntry_frame {fm : List Part} {b0 : State} (s : State) (k c : Nat) (e : Ple)
    (hfr : Frame fm b0 s) (hfm : Part.sub [.regs, .reports] fm = true) : Frame fm b0 (seeEntry s k c e) := by
  unfold seeEntry
  repeat' first
    | with_reducible assumption
    | exact Part.sub_trans (by decide) hfm
    | with_reducible intro _
    | with_reducible apply chartFault_frame
    | with_reducible apply Frame.ite
    | split

theorem dropMapping_frame {fm : List Part} {b0 : State} (s : State) (k c : Nat) (e : Ple)
    (hfr : Frame fm b0 s) (hfm : Part.sub [.regs, .dram, .reports, .stk] fm = true) : Frame fm b0 (dropMapping s k c e) := by
  unfold dropMapping
  repeat' first
    | with_reducible assumption
    | exact Part.sub_trans (by decide) hfm
    | with_reducible intro _
    | with_reducible apply refDown_frame
    | with_reducible apply seeEntry_frame
    | with_reducible apply Frame.ite
    | split

theorem remap_frame {fm : List Part} {b0 : State} (s : State) (k c : Nat) (r : Root) (l p : Nat) (e : Ple)
    (hfr : Frame fm b0 s) (hfm : Part.sub [.regs, .dram, .reports, .stk] fm = true) : FrameOpt fm b0 (remap s k c r l p e) := by
  unfold remap
  repeat' first
    | with_reducible assumption
    | exact Part.sub_trans (by decide) hfm
    | with_reducible intro _
    | with_reducible apply refUp_frame
    | with_reducible apply dropMapping_frame
    | with_reducible apply putPle_frame
    | with_reducible apply FrameOpt.none
    | with_reducible apply FrameOpt1.none
    | with_reducible apply FrameOpt.some
    | with_reducible apply FrameOpt1.some
    | with_reducible apply FrameOpt.ite
    | with_reducible apply FrameOpt.foldl
    | with_reducible apply FrameOpt.map
    | (exact (by assumption : FrameOpt fm b0 (some _)) _ rfl)
    | (with_reducible refine FrameOpt.of ‹_ = some _› ?_)
    | (with_reducible refine FrameOpt1.ofPair ‹_ = some _› ?_)
    | (with_reducible refine FrameOpt1.of ‹_ = some _› ?_)

theorem mapLayer_frame {fm : List Part} {b0 : State} (k c : Nat) (r : Root) (x depth : Nat) (q : Option State) (l : Nat)
    (hfr : FrameOpt fm b0 q) (hfm : Part.sub [.regs, .dram, .reports, .stk] fm = true) : FrameOpt fm b0 (mapLayer k c r x depth q l) := by
  unfold mapLayer
  repeat' first
    | with_reducible assumption
    | exact Part.sub_trans (by decide) hfm
    | with_reducible intro _
    | (extract_lets +onlyGivenNames x; refine (fun hx => ?_ : (Frame fm b0 x) → _) ?_; (on_goal 2 => unfold x); all_goals clear_value x)
    | (extract_lets +onlyGivenNames x; refine (fun hx => ?_ : (Frame fm b0 x.1) → _) ?_; (on_goal 2 => unfold x); all_goals clear_value x)
    | (extract_lets +onlyGivenNames x; refine (fun hx => ?_ : (tileSafe x = true) → _) ?_; (on_goal 2 => unfold x); all_goals clear_value x)
    | (extract_lets +onlyGivenNames x; refine (fun hx => ?_ : (tileSafe x.1 = true) → _) ?_; (on_goal 2 => unfold x); all_goals clear_value x)
    | (extract_lets +onlyGivenNames x; refine (fun hx => ?_ : (FrameOpt fm b0 x) → _) ?_; (on_goal 2 => unfold x); all_goals clear_value x)
    | (extract_lets +onlyGivenNames x; refine (fun hx => ?_ : (Frame fm b0 x.st) → _) ?_; (on_goal 2 => unfold x); all_goals clear_value x)
    | extract_lets +onlyGivenNames x
    | with_reducible apply remap_frame
    | with_reducible apply Frame.ite
    | with_reducible apply FrameOpt.none
    | with_reducible apply FrameOpt1.none
    | with_reducible apply FrameOpt.some
    | with_reducible apply FrameOpt1.some
    | with_reducible apply FrameOpt.ite
    | with_reducible apply FrameOpt.foldl
    | with_reducible apply FrameOpt.map
    | (exact (by assumption : FrameOpt fm b0 (some _)) _ rfl)
    | (with_reducible refine FrameOpt.of ‹_ = some _› ?_)
    | (with_reducible refine FrameOpt1.ofPair ‹_ = some _› ?_)
    | (with_reducible refine FrameOpt1.of ‹_ = some _› ?_)
    | (with_reducible refine Frame.ofPair ‹_ = (_, _)› ?_)
    | split
    | ((conv in State.mk _ _ _ _ _ _ _ _ _ _ _ _ _ _ _ _ _ _ _ _ _ _ _ _ _ => skip); with_reducible apply Frame.upd)
    | with_reducible exact .inr rfl
    | exact .inl (Part.sub_has _ hfm (by decide))
    | exact .inl ⟨Part.sub_has _ hfm (by decide), fun h => h⟩
    | exact .inl ⟨Part.sub_has _ hfm (by decide), fun h => by simpa only [List.length_set, List.length_map, List.length_zipIdx] using h⟩
    | exact hfr _ rfl

theorem mapNode_frame {fm : List Part} {b0 : State} (k c : Nat) (r : Root) (q : Option State) (x : Nat)
    (hfr : FrameOpt fm b0 q) (hfm : Part.sub [.regs, .dram, .reports, .stk] fm = true) : FrameOpt fm b0 (mapNode k c r q x) := by
  unfold mapNode
  repeat' first
    | with_reducible assumption
    | exact Part.sub_trans (by decide) hfm
    | with_reducible intro _
    | extract_lets +onlyGivenNames x
    | with_reducible apply mapLayer_frame
    | with_reducible apply touchNode_frame
    | with_reducible apply FrameOpt.foldl
    | with_reducible apply FrameOpt.map
    | split

theorem publishLayer_frame {fm : List Part} {b0 : State} (k : Nat) (r : Root) (page list_ : Nat) (q : Option State) (l : Nat)
    (hfr : FrameOpt fm b0 q) (hfm : Part.sub [.dram] fm = true) : FrameOpt fm b0 (publishLayer k r page list_ q l) := by
  unfold publishLayer
  repeat' first
    | with_reducible assumption
    | with_reducible intro _
    | exact hfr _ rfl
    | extract_lets +onlyGivenNames x
    | with_reducible apply refUp_frame
    | with_reducible apply putDesc1_frame
    | with_reducible apply putCword_frame
    | with_reducible apply FrameOpt.map
    | with_reducible apply FrameOpt.none
    | with_reducible apply FrameOpt.ite
    | split

theorem writeNode_frame {fm : List Part} {b0 : State} (s : State) (k : Nat) (r : Root) (place : Nat) (h root : Dword) (parent j : Nat) (toks : List Nat)
    (hfr : Frame fm b0 s) (hfm : Part.sub [.dram, .stk] fm = true) : FrameOpt1 fm b0 (writeNode s k r place h root parent j toks) := by
  unfold writeNode
  repeat' first
    | with_reducible assumption
    | exact Part.sub_trans (by decide) hfm
    | with_reducible intro _
    | (extract_lets +onlyGivenNames x; refine (fun hx => ?_ : (Frame fm b0 x) → _) ?_; (on_goal 2 => unfold x); all_goals clear_value x)
    | extract_lets +onlyGivenNames x
    | with_reducible apply publishLayer_frame
    | with_reducible apply putNodeWord_frame
    | with_reducible apply putCword_frame
    | with_reducible apply cwrite_frame
    | with_reducible apply putStk_frame
    | with_reducible apply FrameOpt.foldl
    | (with_reducible refine FrameOpt.of ‹_ = some _› ?_)
    | with_reducible apply Frame.ite
    | with_reducible apply FrameOpt.some
    | with_reducible apply FrameOpt1.none
    | with_reducible apply FrameOpt1.some
    | split

theorem unlinkNode_frame {fm : List Part} {b0 : State} (s : State) (k x : Nat)
    (hfr : Frame fm b0 s) (hfm : Part.sub [.dram] fm = true) : Frame fm b0 (unlinkNode s k x) := by
  unfold unlinkNode
  repeat' first
    | with_reducible assumption
    | with_reducible intro _
    | extract_lets +onlyGivenNames x
    | with_reducible apply putNodeWord_frame
    | with_reducible apply putCword_frame
    | with_reducible apply Frame.foldl
    | with_reducible apply Frame.ite

theorem evictNode_frame {fm : List Part} {b0 : State} (s : State) (k x : Nat)
    (hfr : Frame fm b0 s) (hfm : Part.sub [.regs, .dram, .stk] fm = true) : Frame fm b0 (evictNode s k x) := by
  unfold evictNode
  repeat' first
    | with_reducible assumption
    | exact Part.sub_trans (by decide) hfm
    | with_reducible intro _
    | (extract_lets +onlyGivenNames x; refine (fun hx => ?_ : (Frame fm b0 x) → _) ?_; (on_goal 2 => unfold x); all_goals clear_value x)
    | extract_lets +onlyGivenNames x
    | with_reducible apply unlinkNode_frame
    | with_reducible apply putNodeWord_frame
    | with_reducible apply refDown_frame
    | with_reducible apply rbump_frame
    | with_reducible apply Frame.foldl
    | with_reducible apply Frame.ite

theorem chtFail_frame {fm : List Part} {b0 : State} (s : State) (c : ChtCode)
    (hfr : Frame fm b0 s) (hfm : Part.sub [] fm = true) : Frame fm b0 (chtFail s c).st := by
  unfold chtFail
  repeat' with_reducible assumption

theorem chtOk_frame {fm : List Part} {b0 : State} (s : State)
    (hfr : Frame fm b0 s) (hfm : Part.sub [] fm = true) : Frame fm b0 (chtOk s).st := by
  unfold chtOk
  repeat' with_reducible assumption

theorem runRing_frame {fm : List Part} {b0 : State} (s : State) (k : Nat) (a : ChartArgs) (f : State → Nat → ChtDone)
    (hfr : Frame fm b0 s) (hf : ∀ u y1, Frame fm b0 u → Frame fm b0 (f u y1).st) (hfm : Part.sub [.regs, .dram] fm = true) : Frame fm b0 (runRing s k a f).st := by
  unfold runRing
  repeat' first
    | with_reducible assumption
    | exact Part.sub_trans (by decide) hfm
    | with_reducible intro _
    | (extract_lets +onlyGivenNames x; refine (fun hx => ?_ : (Frame fm b0 x) → _) ?_; (on_goal 2 => unfold x); all_goals clear_value x)
    | (extract_lets +onlyGivenNames x; refine (fun hx => ?_ : (Frame fm b0 x.1) → _) ?_; (on_goal 2 => unfold x); all_goals clear_value x)
    | (extract_lets +onlyGivenNames x; refine (fun hx => ?_ : (tileSafe x = true) → _) ?_; (on_goal 2 => unfold x); all_goals clear_value x)
    | (extract_lets +onlyGivenNames x; refine (fun hx => ?_ : (tileSafe x.1 = true) → _) ?_; (on_goal 2 => unfold x); all_goals clear_value x)
    | (extract_lets +onlyGivenNames x; refine (fun hx => ?_ : (FrameOpt fm b0 x) → _) ?_; (on_goal 2 => unfold x); all_goals clear_value x)
    | (extract_lets +onlyGivenNames x; refine (fun hx => ?_ : (Frame fm b0 x.st) → _) ?_; (on_goal 2 => unfold x); all_goals clear_value x)
    | extract_lets +onlyGivenNames x
    | with_reducible apply hf
    | with_reducible apply chtFail_frame
    | with_reducible apply putCword_frame
    | with_reducible apply rput_frame
    | with_reducible apply Frame.ite
    | split
    | ((conv in State.mk _ _ _ _ _ _ _ _ _ _ _ _ _ _ _ _ _ _ _ _ _ _ _ _ _ => skip); with_reducible apply Frame.upd)
    | with_reducible exact .inr rfl
    | exact .inl (Part.sub_has _ hfm (by decide))
    | exact .inl ⟨Part.sub_has _ hfm (by decide), fun h => h⟩
    | exact .inl ⟨Part.sub_has _ hfm (by decide), fun h => by simpa only [List.length_set, List.length_map, List.length_zipIdx] using h⟩

theorem runChart_frame {fm : List Part} {b0 : State} (s : State) (a : ChartArgs) (f : State → Nat → ChtDone) (hf : ∀ u k, Frame fm b0 u → Frame fm b0 (f u k).st)
    (hfr : Frame fm b0 s) (hfm : Part.sub [.regs, .dram] fm = true) : Frame fm b0 (runChart s a f) := by
  unfold runChart
  repeat' first
    | with_reducible assumption
    | exact Part.sub_trans (by decide) hfm
    | with_reducible intro _
    | with_reducible apply hf
    | with_reducible apply runRing_frame
    | with_reducible apply Frame.ite
    | split
    | (extract_lets +onlyGivenNames x; refine (fun hx => ?_ : (Frame fm b0 x) → _) ?_; (on_goal 2 => unfold x); all_goals clear_value x)
    | (extract_lets +onlyGivenNames x; refine (fun hx => ?_ : (Frame fm b0 x.1) → _) ?_; (on_goal 2 => unfold x); all_goals clear_value x)

theorem unmapChart_frame {fm : List Part} {b0 : State} (s : State) (k c : Nat)
    (hfr : Frame fm b0 s) (hfm : Part.sub [.regs, .dram, .reports, .stk] fm = true) : Frame fm b0 (unmapChart s k c) := by
  unfold unmapChart
  repeat' first
    | with_reducible assumption
    | exact Part.sub_trans (by decide) hfm
    | with_reducible intro _
    | (extract_lets +onlyGivenNames x; refine (fun hx => ?_ : (Frame fm b0 x) → _) ?_; (on_goal 2 => unfold x); all_goals clear_value x)
    | (extract_lets +onlyGivenNames x; refine (fun hx => ?_ : (Frame fm b0 x.1) → _) ?_; (on_goal 2 => unfold x); all_goals clear_value x)
    | (extract_lets +onlyGivenNames x; refine (fun hx => ?_ : (tileSafe x = true) → _) ?_; (on_goal 2 => unfold x); all_goals clear_value x)
    | (extract_lets +onlyGivenNames x; refine (fun hx => ?_ : (tileSafe x.1 = true) → _) ?_; (on_goal 2 => unfold x); all_goals clear_value x)
    | (extract_lets +onlyGivenNames x; refine (fun hx => ?_ : (FrameOpt fm b0 x) → _) ?_; (on_goal 2 => unfold x); all_goals clear_value x)
    | (extract_lets +onlyGivenNames x; refine (fun hx => ?_ : (Frame fm b0 x.st) → _) ?_; (on_goal 2 => unfold x); all_goals clear_value x)
    | extract_lets +onlyGivenNames x
    | with_reducible apply dropMapping_frame
    | with_reducible apply putPle_frame
    | with_reducible apply putStk_frame
    | with_reducible apply Frame.foldl
    | with_reducible apply Frame.foldlFst
    | with_reducible apply Frame.ite
    | split
    | ((conv in State.mk _ _ _ _ _ _ _ _ _ _ _ _ _ _ _ _ _ _ _ _ _ _ _ _ _ => skip); with_reducible apply Frame.upd)
    | with_reducible exact .inr rfl
    | exact .inl (Part.sub_has _ hfm (by decide))
    | exact .inl ⟨Part.sub_has _ hfm (by decide), fun h => h⟩
    | exact .inl ⟨Part.sub_has _ hfm (by decide), fun h => by simpa only [List.length_set, List.length_map, List.length_zipIdx] using h⟩

theorem openChart_frame {fm : List Part} {b0 : State} (a : ChartArgs) (s : State) (k : Nat)
    (hfr : Frame fm b0 s) (hfm : Part.sub [.regs, .dram, .reports, .stk] fm = true) : Frame fm b0 (openChart a s k).st := by
  unfold openChart
  repeat' first
    | with_reducible assumption
    | exact Part.sub_trans (by decide) hfm
    | with_reducible intro _
    | (extract_lets +onlyGivenNames x; refine (fun hx => ?_ : (Frame fm b0 x) → _) ?_; (on_goal 2 => unfold x); all_goals clear_value x)
    | (extract_lets +onlyGivenNames x; refine (fun hx => ?_ : (Frame fm b0 x.1) → _) ?_; (on_goal 2 => unfold x); all_goals clear_value x)
    | (extract_lets +onlyGivenNames x; refine (fun hx => ?_ : (tileSafe x = true) → _) ?_; (on_goal 2 => unfold x); all_goals clear_value x)
    | (extract_lets +onlyGivenNames x; refine (fun hx => ?_ : (tileSafe x.1 = true) → _) ?_; (on_goal 2 => unfold x); all_goals clear_value x)
    | (extract_lets +onlyGivenNames x; refine (fun hx => ?_ : (FrameOpt fm b0 x) → _) ?_; (on_goal 2 => unfold x); all_goals clear_value x)
    | (extract_lets +onlyGivenNames x; refine (fun hx => ?_ : (Frame fm b0 x.st) → _) ?_; (on_goal 2 => unfold x); all_goals clear_value x)
    | extract_lets +onlyGivenNames x
    | with_reducible apply chtFail_frame
    | with_reducible apply chtOk_frame
    | with_reducible apply cwrite_frame
    | with_reducible apply putRoot_frame
    | with_reducible apply unmapChart_frame
    | with_reducible apply Frame.ite
    | split

theorem mapChart_frame {fm : List Part} {b0 : State} (a : ChartArgs) (s : State) (k : Nat)
    (hfr : Frame fm b0 s) (hfm : Part.sub [.regs, .dram, .reports, .stk] fm = true) : Frame fm b0 (mapChart a s k).st := by
  unfold mapChart
  repeat' first
    | with_reducible assumption
    | exact Part.sub_trans (by decide) hfm
    | with_reducible intro _
    | extract_lets +onlyGivenNames x
    | with_reducible apply chtOk_frame
    | with_reducible apply chtFail_frame
    | with_reducible apply mapNode_frame
    | with_reducible apply putRoot_frame
    | with_reducible apply FrameOpt.foldl
    | (with_reducible refine FrameOpt.of ‹_ = some _› ?_)
    | with_reducible apply FrameOpt.some
    | split

theorem forkEntry_frame {fm : List Part} {b0 : State} (k c : Nat) (from_ r : Root) (q : Option State) (lp : Nat × Nat)
    (hfr : FrameOpt fm b0 q) (hfm : Part.sub [.regs, .dram, .reports, .stk] fm = true) : FrameOpt fm b0 (forkEntry k c from_ r q lp) := by
  unfold forkEntry
  repeat' first
    | with_reducible assumption
    | exact Part.sub_trans (by decide) hfm
    | with_reducible intro _
    | (extract_lets +onlyGivenNames x; refine (fun hx => ?_ : (Frame fm b0 x) → _) ?_; (on_goal 2 => unfold x); all_goals clear_value x)
    | (extract_lets +onlyGivenNames x; refine (fun hx => ?_ : (Frame fm b0 x.1) → _) ?_; (on_goal 2 => unfold x); all_goals clear_value x)
    | (extract_lets +onlyGivenNames x; refine (fun hx => ?_ : (tileSafe x = true) → _) ?_; (on_goal 2 => unfold x); all_goals clear_value x)
    | (extract_lets +onlyGivenNames x; refine (fun hx => ?_ : (tileSafe x.1 = true) → _) ?_; (on_goal 2 => unfold x); all_goals clear_value x)
    | (extract_lets +onlyGivenNames x; refine (fun hx => ?_ : (FrameOpt fm b0 x) → _) ?_; (on_goal 2 => unfold x); all_goals clear_value x)
    | (extract_lets +onlyGivenNames x; refine (fun hx => ?_ : (Frame fm b0 x.st) → _) ?_; (on_goal 2 => unfold x); all_goals clear_value x)
    | extract_lets +onlyGivenNames x
    | with_reducible apply remap_frame
    | with_reducible apply dropMapping_frame
    | with_reducible apply putPle_frame
    | with_reducible apply Frame.ite
    | with_reducible apply FrameOpt.none
    | with_reducible apply FrameOpt1.none
    | with_reducible apply FrameOpt.some
    | with_reducible apply FrameOpt1.some
    | with_reducible apply FrameOpt.ite
    | with_reducible apply FrameOpt.foldl
    | with_reducible apply FrameOpt.map
    | (exact (by assumption : FrameOpt fm b0 (some _)) _ rfl)
    | (with_reducible refine FrameOpt.of ‹_ = some _› ?_)
    | (with_reducible refine FrameOpt1.ofPair ‹_ = some _› ?_)
    | (with_reducible refine FrameOpt1.of ‹_ = some _› ?_)
    | (with_reducible refine Frame.ofPair ‹_ = (_, _)› ?_)
    | split
    | ((conv in State.mk _ _ _ _ _ _ _ _ _ _ _ _ _ _ _ _ _ _ _ _ _ _ _ _ _ => skip); with_reducible apply Frame.upd)
    | with_reducible exact .inr rfl
    | exact .inl (Part.sub_has _ hfm (by decide))
    | exact .inl ⟨Part.sub_has _ hfm (by decide), fun h => h⟩
    | exact .inl ⟨Part.sub_has _ hfm (by decide), fun h => by simpa only [List.length_set, List.length_map, List.length_zipIdx] using h⟩
    | exact hfr _ rfl

theorem chtStale_frame {fm : List Part} {b0 : State} (s : State) (k c : Nat) (r : Root) (places : List (Nat × Nat))
    (hfr : Frame fm b0 s) (hfm : Part.sub [.regs, .reports] fm = true) : Frame fm b0 (chtStale s k c r places).st := by
  unfold chtStale
  repeat' first
    | with_reducible assumption
    | exact Part.sub_trans (by decide) hfm
    | with_reducible intro _
    | with_reducible apply chtFail_frame
    | with_reducible apply seeEntry_frame
    | (with_reducible refine Frame.ofPair ‹_ = (_, _)› ?_)
    | split
    | ((conv in State.mk _ _ _ _ _ _ _ _ _ _ _ _ _ _ _ _ _ _ _ _ _ _ _ _ _ => skip); with_reducible apply Frame.upd)
    | with_reducible exact .inr rfl
    | exact .inl (Part.sub_has _ hfm (by decide))
    | exact .inl ⟨Part.sub_has _ hfm (by decide), fun h => h⟩
    | exact .inl ⟨Part.sub_has _ hfm (by decide), fun h => by simpa only [List.length_set, List.length_map, List.length_zipIdx] using h⟩

theorem forkChart_frame {fm : List Part} {b0 : State} (a : ChartArgs) (s : State) (k : Nat)
    (hfr : Frame fm b0 s) (hfm : Part.sub [.regs, .dram, .reports, .stk] fm = true) : Frame fm b0 (forkChart a s k).st := by
  unfold forkChart
  repeat' first
    | with_reducible assumption
    | exact Part.sub_trans (by decide) hfm
    | with_reducible intro _
    | (extract_lets +onlyGivenNames x; refine (fun hx => ?_ : (Frame fm b0 x) → _) ?_; (on_goal 2 => unfold x); all_goals clear_value x)
    | (extract_lets +onlyGivenNames x; refine (fun hx => ?_ : (Frame fm b0 x.1) → _) ?_; (on_goal 2 => unfold x); all_goals clear_value x)
    | (extract_lets +onlyGivenNames x; refine (fun hx => ?_ : (tileSafe x = true) → _) ?_; (on_goal 2 => unfold x); all_goals clear_value x)
    | (extract_lets +onlyGivenNames x; refine (fun hx => ?_ : (tileSafe x.1 = true) → _) ?_; (on_goal 2 => unfold x); all_goals clear_value x)
    | (extract_lets +onlyGivenNames x; refine (fun hx => ?_ : (FrameOpt fm b0 x) → _) ?_; (on_goal 2 => unfold x); all_goals clear_value x)
    | (extract_lets +onlyGivenNames x; refine (fun hx => ?_ : (Frame fm b0 x.st) → _) ?_; (on_goal 2 => unfold x); all_goals clear_value x)
    | extract_lets +onlyGivenNames x
    | with_reducible apply chtFail_frame
    | with_reducible apply forkEntry_frame
    | with_reducible apply chtStale_frame
    | with_reducible apply chtOk_frame
    | with_reducible apply putRoot_frame
    | with_reducible apply Frame.foldl
    | with_reducible apply Frame.foldlFst
    | with_reducible apply Frame.ite
    | with_reducible apply FrameOpt.none
    | with_reducible apply FrameOpt1.none
    | with_reducible apply FrameOpt.some
    | with_reducible apply FrameOpt1.some
    | with_reducible apply FrameOpt.ite
    | with_reducible apply FrameOpt.foldl
    | with_reducible apply FrameOpt.map
    | (exact (by assumption : FrameOpt fm b0 (some _)) _ rfl)
    | (with_reducible refine FrameOpt.of ‹_ = some _› ?_)
    | (with_reducible refine FrameOpt1.ofPair ‹_ = some _› ?_)
    | (with_reducible refine FrameOpt1.of ‹_ = some _› ?_)
    | (with_reducible refine Frame.ofPair ‹_ = (_, _)› ?_)
    | split
    | ((conv in State.mk _ _ _ _ _ _ _ _ _ _ _ _ _ _ _ _ _ _ _ _ _ _ _ _ _ => skip); with_reducible apply Frame.upd)
    | with_reducible exact .inr rfl
    | exact .inl (Part.sub_has _ hfm (by decide))
    | exact .inl ⟨Part.sub_has _ hfm (by decide), fun h => h⟩
    | exact .inl ⟨Part.sub_has _ hfm (by decide), fun h => by simpa only [List.length_set, List.length_map, List.length_zipIdx] using h⟩

theorem allocLayer_frame {fm : List Part} {b0 : State} (k c : Nat) (r : Root) (p : Nat) (q : State × List (Nat × Nat) × Bool) (l : Nat)
    (hfr : Frame fm b0 q.1) (hfm : Part.sub [.regs, .dram, .reports, .stk] fm = true) : Frame fm b0 (allocLayer k c r p q l).1 := by
  unfold allocLayer
  repeat' first
    | with_reducible assumption
    | exact Part.sub_trans (by decide) hfm
    | with_reducible intro _
    | (extract_lets +onlyGivenNames x; refine (fun hx => ?_ : (Frame fm b0 x) → _) ?_; (on_goal 2 => unfold x); all_goals clear_value x)
    | (extract_lets +onlyGivenNames x; refine (fun hx => ?_ : (Frame fm b0 x.1) → _) ?_; (on_goal 2 => unfold x); all_goals clear_value x)
    | (extract_lets +onlyGivenNames x; refine (fun hx => ?_ : (tileSafe x = true) → _) ?_; (on_goal 2 => unfold x); all_goals clear_value x)
    | (extract_lets +onlyGivenNames x; refine (fun hx => ?_ : (tileSafe x.1 = true) → _) ?_; (on_goal 2 => unfold x); all_goals clear_value x)
    | (extract_lets +onlyGivenNames x; refine (fun hx => ?_ : (FrameOpt fm b0 x) → _) ?_; (on_goal 2 => unfold x); all_goals clear_value x)
    | (extract_lets +onlyGivenNames x; refine (fun hx => ?_ : (Frame fm b0 x.st) → _) ?_; (on_goal 2 => unfold x); all_goals clear_value x)
    | extract_lets +onlyGivenNames x
    | with_reducible apply seeEntry_frame
    | with_reducible apply allocFrame_frame
    | with_reducible apply putPle_frame
    | with_reducible apply Frame.ite
    | with_reducible apply FrameOpt.none
    | with_reducible apply FrameOpt1.none
    | with_reducible apply FrameOpt.some
    | with_reducible apply FrameOpt1.some
    | with_reducible apply FrameOpt.ite
    | with_reducible apply FrameOpt.foldl
    | with_reducible apply FrameOpt.map
    | (exact (by assumption : FrameOpt fm b0 (some _)) _ rfl)
    | (with_reducible refine FrameOpt.of ‹_ = some _› ?_)
    | (with_reducible refine FrameOpt1.ofPair ‹_ = some _› ?_)
    | (with_reducible refine FrameOpt1.of ‹_ = some _› ?_)
    | (with_reducible refine Frame.ofPair ‹_ = (_, _)› ?_)
    | split
    | ((conv in State.mk _ _ _ _ _ _ _ _ _ _ _ _ _ _ _ _ _ _ _ _ _ _ _ _ _ => skip); with_reducible apply Frame.upd)
    | with_reducible exact .inr rfl
    | exact .inl (Part.sub_has _ hfm (by decide))
    | exact .inl ⟨Part.sub_has _ hfm (by decide), fun h => h⟩
    | exact .inl ⟨Part.sub_has _ hfm (by decide), fun h => by simpa only [List.length_set, List.length_map, List.length_zipIdx] using h⟩

theorem allocChart_frame {fm : List Part} {b0 : State} (a : ChartArgs) (s : State) (k : Nat)
    (hfr : Frame fm b0 s) (hfm : Part.sub [.regs, .dram, .reports, .stk] fm = true) : Frame fm b0 (allocChart a s k).st := by
  unfold allocChart
  repeat' first
    | with_reducible assumption
    | exact Part.sub_trans (by decide) hfm
    | with_reducible intro _
    | (extract_lets +onlyGivenNames x; refine (fun hx => ?_ : (Frame fm b0 x.1) → _) ?_; (on_goal 2 => unfold x); all_goals clear_value x)
    | extract_lets +onlyGivenNames x
    | with_reducible apply allocLayer_frame
    | with_reducible apply chtOk_frame
    | with_reducible apply chtFail_frame
    | with_reducible apply putPle_frame
    | with_reducible apply refDown_frame
    | with_reducible apply Frame.foldl
    | with_reducible apply Frame.foldlFst
    | split

theorem copyFrame_frame {fm : List Part} {b0 : State} (s : State) (k src dst v : Nat) (kw vw : Bool)
    (hfr : Frame fm b0 s) (hfm : Part.sub [.dram] fm = true) : Frame fm b0 (copyFrame s k src dst v kw vw) := by
  unfold copyFrame
  repeat' first
    | with_reducible assumption
    | with_reducible intro _
    | extract_lets +onlyGivenNames x
    | with_reducible apply cwrite_frame
    | with_reducible apply Frame.foldl

theorem cowLayer_frame {fm : List Part} {b0 : State} (k c : Nat) (r : Root) (p : Nat) (q : State × ChtCode) (l : Nat)
    (hfr : Frame fm b0 q.1) (hfm : Part.sub [.regs, .dram, .reports, .stk] fm = true) : Frame fm b0 (cowLayer k c r p q l).1 := by
  unfold cowLayer
  repeat' first
    | with_reducible assumption
    | exact Part.sub_trans (by decide) hfm
    | with_reducible intro _
    | (extract_lets +onlyGivenNames x; refine (fun hx => ?_ : (Frame fm b0 x) → _) ?_; (on_goal 2 => unfold x); all_goals clear_value x)
    | (extract_lets +onlyGivenNames x; refine (fun hx => ?_ : (Frame fm b0 x.1) → _) ?_; (on_goal 2 => unfold x); all_goals clear_value x)
    | (extract_lets +onlyGivenNames x; refine (fun hx => ?_ : (tileSafe x = true) → _) ?_; (on_goal 2 => unfold x); all_goals clear_value x)
    | (extract_lets +onlyGivenNames x; refine (fun hx => ?_ : (tileSafe x.1 = true) → _) ?_; (on_goal 2 => unfold x); all_goals clear_value x)
    | (extract_lets +onlyGivenNames x; refine (fun hx => ?_ : (FrameOpt fm b0 x) → _) ?_; (on_goal 2 => unfold x); all_goals clear_value x)
    | (extract_lets +onlyGivenNames x; refine (fun hx => ?_ : (Frame fm b0 x.st) → _) ?_; (on_goal 2 => unfold x); all_goals clear_value x)
    | extract_lets +onlyGivenNames x
    | with_reducible apply seeEntry_frame
    | with_reducible apply allocFrame_frame
    | with_reducible apply copyFrame_frame
    | with_reducible apply putDesc1_frame
    | with_reducible apply refDown_frame
    | with_reducible apply rbump_frame
    | with_reducible apply putPle_frame
    | with_reducible apply Frame.ite
    | with_reducible apply FrameOpt.none
    | with_reducible apply FrameOpt1.none
    | with_reducible apply FrameOpt.some
    | with_reducible apply FrameOpt1.some
    | with_reducible apply FrameOpt.ite
    | with_reducible apply FrameOpt.foldl
    | with_reducible apply FrameOpt.map
    | (exact (by assumption : FrameOpt fm b0 (some _)) _ rfl)
    | (with_reducible refine FrameOpt.of ‹_ = some _› ?_)
    | (with_reducible refine FrameOpt1.ofPair ‹_ = some _› ?_)
    | (with_reducible refine FrameOpt1.of ‹_ = some _› ?_)
    | (with_reducible refine Frame.ofPair ‹_ = (_, _)› ?_)
    | split
    | ((conv in State.mk _ _ _ _ _ _ _ _ _ _ _ _ _ _ _ _ _ _ _ _ _ _ _ _ _ => skip); with_reducible apply Frame.upd)
    | with_reducible exact .inr rfl
    | exact .inl (Part.sub_has _ hfm (by decide))
    | exact .inl ⟨Part.sub_has _ hfm (by decide), fun h => h⟩
    | exact .inl ⟨Part.sub_has _ hfm (by decide), fun h => by simpa only [List.length_set, List.length_map, List.length_zipIdx] using h⟩

theorem cowChart_frame {fm : List Part} {b0 : State} (a : ChartArgs) (s : State) (k : Nat)
    (hfr : Frame fm b0 s) (hfm : Part.sub [.regs, .dram, .reports, .stk] fm = true) : Frame fm b0 (cowChart a s k).st := by
  unfold cowChart
  repeat' first
    | with_reducible assumption
    | exact Part.sub_trans (by decide) hfm
    | with_reducible intro _
    | (extract_lets +onlyGivenNames x; refine (fun hx => ?_ : (Frame fm b0 x) → _) ?_; (on_goal 2 => unfold x); all_goals clear_value x)
    | (extract_lets +onlyGivenNames x; refine (fun hx => ?_ : (Frame fm b0 x.1) → _) ?_; (on_goal 2 => unfold x); all_goals clear_value x)
    | (extract_lets +onlyGivenNames x; refine (fun hx => ?_ : (tileSafe x = true) → _) ?_; (on_goal 2 => unfold x); all_goals clear_value x)
    | (extract_lets +onlyGivenNames x; refine (fun hx => ?_ : (tileSafe x.1 = true) → _) ?_; (on_goal 2 => unfold x); all_goals clear_value x)
    | (extract_lets +onlyGivenNames x; refine (fun hx => ?_ : (FrameOpt fm b0 x) → _) ?_; (on_goal 2 => unfold x); all_goals clear_value x)
    | (extract_lets +onlyGivenNames x; refine (fun hx => ?_ : (Frame fm b0 x.st) → _) ?_; (on_goal 2 => unfold x); all_goals clear_value x)
    | extract_lets +onlyGivenNames x
    | with_reducible apply chtFail_frame
    | with_reducible apply cowLayer_frame
    | with_reducible apply chtStale_frame
    | with_reducible apply Frame.foldl
    | with_reducible apply Frame.foldlFst
    | with_reducible apply Frame.ite
    | split

theorem advChart_frame {fm : List Part} {b0 : State} (a : ChartArgs) (s : State) (k : Nat)
    (hfr : Frame fm b0 s) (hfm : Part.sub [.regs, .dram, .reports] fm = true) : Frame fm b0 (advChart a s k).st := by
  unfold advChart
  repeat' first
    | with_reducible assumption
    | exact Part.sub_trans (by decide) hfm
    | with_reducible intro _
    | (extract_lets +onlyGivenNames x; refine (fun hx => ?_ : (Frame fm b0 x) → _) ?_; (on_goal 2 => unfold x); all_goals clear_value x)
    | (extract_lets +onlyGivenNames x; refine (fun hx => ?_ : (Frame fm b0 x.1) → _) ?_; (on_goal 2 => unfold x); all_goals clear_value x)
    | (extract_lets +onlyGivenNames x; refine (fun hx => ?_ : (tileSafe x = true) → _) ?_; (on_goal 2 => unfold x); all_goals clear_value x)
    | (extract_lets +onlyGivenNames x; refine (fun hx => ?_ : (tileSafe x.1 = true) → _) ?_; (on_goal 2 => unfold x); all_goals clear_value x)
    | (extract_lets +onlyGivenNames x; refine (fun hx => ?_ : (FrameOpt fm b0 x) → _) ?_; (on_goal 2 => unfold x); all_goals clear_value x)
    | (extract_lets +onlyGivenNames x; refine (fun hx => ?_ : (Frame fm b0 x.st) → _) ?_; (on_goal 2 => unfold x); all_goals clear_value x)
    | extract_lets +onlyGivenNames x
    | with_reducible apply chtFail_frame
    | with_reducible apply putDesc1_frame
    | with_reducible apply seeEntry_frame
    | with_reducible apply chtOk_frame
    | with_reducible apply putRoot_frame
    | with_reducible apply Frame.foldl
    | with_reducible apply Frame.foldlFst
    | with_reducible apply Frame.ite
    | split
    | ((conv in State.mk _ _ _ _ _ _ _ _ _ _ _ _ _ _ _ _ _ _ _ _ _ _ _ _ _ => skip); with_reducible apply Frame.upd)
    | with_reducible exact .inr rfl
    | exact .inl (Part.sub_has _ hfm (by decide))
    | exact .inl ⟨Part.sub_has _ hfm (by decide), fun h => h⟩
    | exact .inl ⟨Part.sub_has _ hfm (by decide), fun h => by simpa only [List.length_set, List.length_map, List.length_zipIdx] using h⟩

theorem freeChart_frame {fm : List Part} {b0 : State} (a : ChartArgs) (s : State) (k : Nat)
    (hfr : Frame fm b0 s) (hfm : Part.sub [.regs, .dram, .reports, .stk] fm = true) : Frame fm b0 (freeChart a s k).st := by
  unfold freeChart
  repeat' first
    | with_reducible assumption
    | exact Part.sub_trans (by decide) hfm
    | with_reducible intro _
    | with_reducible apply chtOk_frame
    | with_reducible apply putRoot_frame
    | with_reducible apply unmapChart_frame
    | (extract_lets +onlyGivenNames x; refine (fun hx => ?_ : (Frame fm b0 x) → _) ?_; (on_goal 2 => unfold x); all_goals clear_value x)

theorem pinChart_frame {fm : List Part} {b0 : State} (up : Bool) (a : ChartArgs) (s : State) (k : Nat)
    (hfr : Frame fm b0 s) (hfm : Part.sub [.regs, .dram, .reports, .stk] fm = true) : Frame fm b0 (pinChart up a s k).st := by
  unfold pinChart
  repeat' first
    | with_reducible assumption
    | exact Part.sub_trans (by decide) hfm
    | with_reducible intro _
    | (extract_lets +onlyGivenNames x; refine (fun hx => ?_ : (Frame fm b0 x) → _) ?_; (on_goal 2 => unfold x); all_goals clear_value x)
    | (extract_lets +onlyGivenNames x; refine (fun hx => ?_ : (Frame fm b0 x.1) → _) ?_; (on_goal 2 => unfold x); all_goals clear_value x)
    | (extract_lets +onlyGivenNames x; refine (fun hx => ?_ : (tileSafe x = true) → _) ?_; (on_goal 2 => unfold x); all_goals clear_value x)
    | (extract_lets +onlyGivenNames x; refine (fun hx => ?_ : (tileSafe x.1 = true) → _) ?_; (on_goal 2 => unfold x); all_goals clear_value x)
    | (extract_lets +onlyGivenNames x; refine (fun hx => ?_ : (FrameOpt fm b0 x) → _) ?_; (on_goal 2 => unfold x); all_goals clear_value x)
    | (extract_lets +onlyGivenNames x; refine (fun hx => ?_ : (Frame fm b0 x.st) → _) ?_; (on_goal 2 => unfold x); all_goals clear_value x)
    | extract_lets +onlyGivenNames x
    | with_reducible apply chtFail_frame
    | with_reducible apply pinUp_frame
    | with_reducible apply seeEntry_frame
    | with_reducible apply pinDown_frame
    | with_reducible apply chtStale_frame
    | with_reducible apply chtOk_frame
    | with_reducible apply putStk_frame
    | with_reducible apply Frame.foldl
    | with_reducible apply Frame.foldlFst
    | with_reducible apply Frame.ite
    | with_reducible apply FrameOpt.none
    | with_reducible apply FrameOpt1.none
    | with_reducible apply FrameOpt.some
    | with_reducible apply FrameOpt1.some
    | with_reducible apply FrameOpt.ite
    | with_reducible apply FrameOpt.foldl
    | with_reducible apply FrameOpt.map
    | (exact (by assumption : FrameOpt fm b0 (some _)) _ rfl)
    | (with_reducible refine FrameOpt.of ‹_ = some _› ?_)
    | (with_reducible refine FrameOpt1.ofPair ‹_ = some _› ?_)
    | (with_reducible refine FrameOpt1.of ‹_ = some _› ?_)
    | (with_reducible refine Frame.ofPair ‹_ = (_, _)› ?_)
    | split
    | ((conv in State.mk _ _ _ _ _ _ _ _ _ _ _ _ _ _ _ _ _ _ _ _ _ _ _ _ _ => skip); with_reducible apply Frame.upd)
    | with_reducible exact .inr rfl
    | exact .inl (Part.sub_has _ hfm (by decide))
    | exact .inl ⟨Part.sub_has _ hfm (by decide), fun h => h⟩
    | exact .inl ⟨Part.sub_has _ hfm (by decide), fun h => by simpa only [List.length_set, List.length_map, List.length_zipIdx] using h⟩

theorem lookupToks_frame {fm : List Part} {b0 : State} (s : State) (k : Nat) (root : Dword) (blocks : List (List Nat))
    (hfr : Frame fm b0 s) (hfm : Part.sub [.regs, .dram] fm = true) : Frame fm b0 (lookupToks s k root blocks).st := by
  unfold lookupToks
  repeat' first
    | with_reducible assumption
    | exact Part.sub_trans (by decide) hfm
    | with_reducible intro _
    | (extract_lets +onlyGivenNames x; refine (fun hx => ?_ : (Frame fm b0 x) → _) ?_; (on_goal 2 => unfold x); all_goals clear_value x)
    | (extract_lets +onlyGivenNames x; refine (fun hx => ?_ : (Frame fm b0 x.1) → _) ?_; (on_goal 2 => unfold x); all_goals clear_value x)
    | (extract_lets +onlyGivenNames x; refine (fun hx => ?_ : (tileSafe x = true) → _) ?_; (on_goal 2 => unfold x); all_goals clear_value x)
    | (extract_lets +onlyGivenNames x; refine (fun hx => ?_ : (tileSafe x.1 = true) → _) ?_; (on_goal 2 => unfold x); all_goals clear_value x)
    | (extract_lets +onlyGivenNames x; refine (fun hx => ?_ : (FrameOpt fm b0 x) → _) ?_; (on_goal 2 => unfold x); all_goals clear_value x)
    | (extract_lets +onlyGivenNames x; refine (fun hx => ?_ : (Frame fm b0 x.st) → _) ?_; (on_goal 2 => unfold x); all_goals clear_value x)
    | extract_lets +onlyGivenNames x
    | with_reducible apply chtFail_frame
    | with_reducible apply lookupBlocks_frame
    | with_reducible apply rbump_frame
    | with_reducible apply Frame.ite
    | split

theorem lookupChart_frame {fm : List Part} {b0 : State} (a : ChartArgs) (s : State) (k : Nat)
    (hfr : Frame fm b0 s) (hfm : Part.sub [.regs, .dram] fm = true) : Frame fm b0 (lookupChart a s k).st := by
  unfold lookupChart
  repeat' first
    | with_reducible assumption
    | exact Part.sub_trans (by decide) hfm
    | with_reducible intro _
    | with_reducible apply chtFail_frame
    | with_reducible apply lookupToks_frame
    | with_reducible apply Frame.ite
    | split
    | (extract_lets +onlyGivenNames x; refine (fun hx => ?_ : (Frame fm b0 x.1) → _) ?_; (on_goal 2 => unfold x); all_goals clear_value x)

theorem Frame.iteSt {m : List Part} {s : State} {c : Prop} [Decidable c] {a b : ChtDone} (ha : Frame m s a.st)
    (hb : Frame m s b.st) : Frame m s (if c then a else b).st := by split <;> assumption

theorem insertBlock_frame {m : List Part} {s0 : State} (s : State) (k c j : Nat) (root : Dword) (above : Nat)
    (toks : List Nat) (h : Frame m s0 s) (hm : Part.sub [.regs, .dram, .reports, .stk] m = true) :
    Frame m s0 (insertBlock s k c j root above toks).st := by
  have hf : ∀ z parent, Frame m s0 (findNode s k z root parent j toks).1 := fun z parent =>
    findNode_frame s k z root parent j toks h (Part.sub_trans (by decide) hm)
  unfold insertBlock
  extract_lets r parent
  refine Frame.iteSt h (Frame.iteSt h ?_)
  · extract_lets z
    · split
      · rename_i he
        exact Frame.ofPair he (hf _ _)
      · rename_i he
        have h1 := Frame.ofPair he (hf _ _)
        split
        · exact h1
        · split
          · exact chtStale_frame _ _ _ _ _ h1 (Part.sub_trans (by decide) hm)
          · rename_i hq
            exact rbump_frame _ _ _ _ (FrameOpt1.of hq (writeNode_frame _ _ _ _ _ _ _ _ _ h1 (Part.sub_trans (by decide) hm)))
              (Part.sub_trans (by decide) hm)

theorem insertChart_frame {fm : List Part} {b0 : State} (a : ChartArgs) (s : State) (k : Nat)
    (hfr : Frame fm b0 s) (hfm : Part.sub [.regs, .dram, .reports, .stk] fm = true) : Frame fm b0 (insertChart a s k).st := by
  unfold insertChart
  repeat' first
    | with_reducible assumption
    | with_reducible apply insertBlock_frame

theorem execChtOpen_frame {fm : List Part} {b0 : State} (a : ChartArgs) (s : State)
    (hfr : Frame fm b0 s) (hfm : Part.sub [.regs, .dram, .reports, .stk] fm = true) : FrameOut fm b0 (execChtOpen a s) := by
  unfold execChtOpen
  repeat' first
    | with_reducible assumption
    | exact Part.sub_trans (by decide) hfm
    | with_reducible intro _
    | extract_lets +onlyGivenNames x
    | with_reducible apply FrameOut.next
    | with_reducible apply openChart_frame
    | with_reducible apply runChart_frame

theorem execChtMap_frame {fm : List Part} {b0 : State} (a : ChartArgs) (s : State)
    (hfr : Frame fm b0 s) (hfm : Part.sub [.regs, .dram, .reports, .stk] fm = true) : FrameOut fm b0 (execChtMap a s) := by
  unfold execChtMap
  repeat' first
    | with_reducible assumption
    | exact Part.sub_trans (by decide) hfm
    | with_reducible intro _
    | extract_lets +onlyGivenNames x
    | with_reducible apply FrameOut.next
    | with_reducible apply mapChart_frame
    | with_reducible apply runChart_frame

theorem execChtFork_frame {fm : List Part} {b0 : State} (a : ChartArgs) (s : State)
    (hfr : Frame fm b0 s) (hfm : Part.sub [.regs, .dram, .reports, .stk] fm = true) : FrameOut fm b0 (execChtFork a s) := by
  unfold execChtFork
  repeat' first
    | with_reducible assumption
    | exact Part.sub_trans (by decide) hfm
    | with_reducible intro _
    | extract_lets +onlyGivenNames x
    | with_reducible apply FrameOut.next
    | with_reducible apply forkChart_frame
    | with_reducible apply runChart_frame

theorem execChtAlloc_frame {fm : List Part} {b0 : State} (a : ChartArgs) (s : State)
    (hfr : Frame fm b0 s) (hfm : Part.sub [.regs, .dram, .reports, .stk] fm = true) : FrameOut fm b0 (execChtAlloc a s) := by
  unfold execChtAlloc
  repeat' first
    | with_reducible assumption
    | exact Part.sub_trans (by decide) hfm
    | with_reducible intro _
    | extract_lets +onlyGivenNames x
    | with_reducible apply FrameOut.next
    | with_reducible apply allocChart_frame
    | with_reducible apply runChart_frame

theorem execChtCow_frame {fm : List Part} {b0 : State} (a : ChartArgs) (s : State)
    (hfr : Frame fm b0 s) (hfm : Part.sub [.regs, .dram, .reports, .stk] fm = true) : FrameOut fm b0 (execChtCow a s) := by
  unfold execChtCow
  repeat' first
    | with_reducible assumption
    | exact Part.sub_trans (by decide) hfm
    | with_reducible intro _
    | extract_lets +onlyGivenNames x
    | with_reducible apply FrameOut.next
    | with_reducible apply cowChart_frame
    | with_reducible apply runChart_frame

theorem execChtAdv_frame {fm : List Part} {b0 : State} (a : ChartArgs) (s : State)
    (hfr : Frame fm b0 s) (hfm : Part.sub [.regs, .dram, .reports] fm = true) : FrameOut fm b0 (execChtAdv a s) := by
  unfold execChtAdv
  repeat' first
    | with_reducible assumption
    | exact Part.sub_trans (by decide) hfm
    | with_reducible intro _
    | extract_lets +onlyGivenNames x
    | with_reducible apply FrameOut.next
    | with_reducible apply advChart_frame
    | with_reducible apply runChart_frame

theorem execChtFree_frame {fm : List Part} {b0 : State} (a : ChartArgs) (s : State)
    (hfr : Frame fm b0 s) (hfm : Part.sub [.regs, .dram, .reports, .stk] fm = true) : FrameOut fm b0 (execChtFree a s) := by
  unfold execChtFree
  repeat' first
    | with_reducible assumption
    | exact Part.sub_trans (by decide) hfm
    | with_reducible intro _
    | extract_lets +onlyGivenNames x
    | with_reducible apply FrameOut.next
    | with_reducible apply freeChart_frame
    | with_reducible apply runChart_frame

theorem execChtPin_frame {fm : List Part} {b0 : State} (a : ChartArgs) (s : State)
    (hfr : Frame fm b0 s) (hfm : Part.sub [.regs, .dram, .reports, .stk] fm = true) : FrameOut fm b0 (execChtPin a s) := by
  unfold execChtPin
  repeat' first
    | with_reducible assumption
    | exact Part.sub_trans (by decide) hfm
    | with_reducible intro _
    | extract_lets +onlyGivenNames x
    | with_reducible apply FrameOut.next
    | with_reducible apply pinChart_frame
    | with_reducible apply runChart_frame

theorem execChtUnpin_frame {fm : List Part} {b0 : State} (a : ChartArgs) (s : State)
    (hfr : Frame fm b0 s) (hfm : Part.sub [.regs, .dram, .reports, .stk] fm = true) : FrameOut fm b0 (execChtUnpin a s) := by
  unfold execChtUnpin
  repeat' first
    | with_reducible assumption
    | exact Part.sub_trans (by decide) hfm
    | with_reducible intro _
    | extract_lets +onlyGivenNames x
    | with_reducible apply FrameOut.next
    | with_reducible apply pinChart_frame
    | with_reducible apply runChart_frame

theorem execRutLookup_frame {fm : List Part} {b0 : State} (a : ChartArgs) (s : State)
    (hfr : Frame fm b0 s) (hfm : Part.sub [.regs, .dram] fm = true) : FrameOut fm b0 (execRutLookup a s) := by
  unfold execRutLookup
  repeat' first
    | with_reducible assumption
    | with_reducible intro _
    | extract_lets +onlyGivenNames x
    | with_reducible apply FrameOut.next
    | with_reducible apply lookupChart_frame
    | with_reducible apply runChart_frame

theorem pageWindow_frame {fm : List Part} {b0 : State} (s : State) (p : Packet)
    (hfr : Frame fm b0 s) (hfm : Part.sub [.regs, .dram, .net, .reports, .stk, .serve] fm = true) : Frame fm b0 (pageWindow s p) := by
  unfold pageWindow
  repeat' first
    | with_reducible assumption
    | exact Part.sub_trans (by decide) hfm
    | with_reducible intro _
    | (extract_lets +onlyGivenNames x; refine (fun hx => ?_ : (Frame fm b0 x) → _) ?_; (on_goal 2 => unfold x); all_goals clear_value x)
    | (extract_lets +onlyGivenNames x; refine (fun hx => ?_ : (Frame fm b0 x.1) → _) ?_; (on_goal 2 => unfold x); all_goals clear_value x)
    | (extract_lets +onlyGivenNames x; refine (fun hx => ?_ : (tileSafe x = true) → _) ?_; (on_goal 2 => unfold x); all_goals clear_value x)
    | (extract_lets +onlyGivenNames x; refine (fun hx => ?_ : (tileSafe x.1 = true) → _) ?_; (on_goal 2 => unfold x); all_goals clear_value x)
    | (extract_lets +onlyGivenNames x; refine (fun hx => ?_ : (FrameOpt fm b0 x) → _) ?_; (on_goal 2 => unfold x); all_goals clear_value x)
    | (extract_lets +onlyGivenNames x; refine (fun hx => ?_ : (Frame fm b0 x.st) → _) ?_; (on_goal 2 => unfold x); all_goals clear_value x)
    | extract_lets +onlyGivenNames x
    | with_reducible apply windowRead_frame
    | with_reducible apply complete_frame
    | with_reducible apply Frame.ite
    | split

theorem noteMasked_frame {fm : List Part} {b0 : State} (s : State) (k : Nat) (a : WinAddr) (p : Packet) (st : Status)
    (hfr : Frame fm b0 s) (hfm : Part.sub [.serve] fm = true) : Frame fm b0 (noteMasked s k a p st) := by
  unfold noteMasked
  repeat' first
    | with_reducible assumption
    | extract_lets +onlyGivenNames x
    | with_reducible apply Frame.ite
    | split
    | ((conv in State.mk _ _ _ _ _ _ _ _ _ _ _ _ _ _ _ _ _ _ _ _ _ _ _ _ _ => skip); with_reducible apply Frame.upd)
    | with_reducible exact .inr rfl
    | exact .inl ⟨Part.sub_has _ hfm (by decide), fun h => h⟩

theorem appendWindow_frame {fm : List Part} {b0 : State} (s : State) (p : Packet)
    (hfr : Frame fm b0 s) (hfm : Part.sub [.regs, .dram, .net, .reports, .stk, .serve] fm = true) : Frame fm b0 (appendWindow s p) := by
  unfold appendWindow
  repeat' first
    | with_reducible assumption
    | exact Part.sub_trans (by decide) hfm
    | (extract_lets +onlyGivenNames x; refine (fun hx => ?_ : (Frame fm b0 x.1) → _) ?_; (on_goal 2 => unfold x); all_goals clear_value x)
    | extract_lets +onlyGivenNames x
    | with_reducible apply noteMasked_frame
    | with_reducible apply windowWrite_frame
    | with_reducible apply complete_frame
    | with_reducible apply Frame.ite

theorem execPageWindow_frame {fm : List Part} {b0 : State} (p : Packet) (s : State)
    (hfr : Frame fm b0 s) (hfm : Part.sub [.regs, .dram, .net, .reports, .stk, .serve] fm = true) : FrameOut fm b0 (execPageWindow p s) := by
  unfold execPageWindow
  repeat' first
    | with_reducible assumption
    | extract_lets +onlyGivenNames x
    | with_reducible apply FrameOut.next
    | with_reducible apply pageWindow_frame

theorem execAppendWindow_frame {fm : List Part} {b0 : State} (p : Packet) (s : State)
    (hfr : Frame fm b0 s) (hfm : Part.sub [.regs, .dram, .net, .reports, .stk, .serve] fm = true) : FrameOut fm b0 (execAppendWindow p s) := by
  unfold execAppendWindow
  repeat' first
    | with_reducible assumption
    | extract_lets +onlyGivenNames x
    | with_reducible apply FrameOut.next
    | with_reducible apply appendWindow_frame

theorem writeChtEn_frame {fm : List Part} {b0 : State} (s : State) (k : Nat) (v : Bool)
    (hfr : Frame fm b0 s) (hfm : Part.sub [.regs, .stk] fm = true) : Frame fm b0 (writeChtEn s k v) := by
  unfold writeChtEn
  repeat' first
    | with_reducible assumption
    | exact Part.sub_trans (by decide) hfm
    | with_reducible intro _
    | (extract_lets +onlyGivenNames x; refine (fun hx => ?_ : (Frame fm b0 x) → _) ?_; (on_goal 2 => unfold x); all_goals clear_value x)
    | (extract_lets +onlyGivenNames x; refine (fun hx => ?_ : (Frame fm b0 x.1) → _) ?_; (on_goal 2 => unfold x); all_goals clear_value x)
    | (extract_lets +onlyGivenNames x; refine (fun hx => ?_ : (tileSafe x = true) → _) ?_; (on_goal 2 => unfold x); all_goals clear_value x)
    | (extract_lets +onlyGivenNames x; refine (fun hx => ?_ : (tileSafe x.1 = true) → _) ?_; (on_goal 2 => unfold x); all_goals clear_value x)
    | (extract_lets +onlyGivenNames x; refine (fun hx => ?_ : (FrameOpt fm b0 x) → _) ?_; (on_goal 2 => unfold x); all_goals clear_value x)
    | (extract_lets +onlyGivenNames x; refine (fun hx => ?_ : (Frame fm b0 x.st) → _) ?_; (on_goal 2 => unfold x); all_goals clear_value x)
    | extract_lets +onlyGivenNames x
    | with_reducible apply rput_frame
    | with_reducible apply putStk_frame
    | with_reducible apply Frame.ite
    | split
    | ((conv in State.mk _ _ _ _ _ _ _ _ _ _ _ _ _ _ _ _ _ _ _ _ _ _ _ _ _ => skip); with_reducible apply Frame.upd)
    | with_reducible exact .inr rfl
    | exact .inl (Part.sub_has _ hfm (by decide))
    | exact .inl ⟨Part.sub_has _ hfm (by decide), fun h => h⟩
    | exact .inl ⟨Part.sub_has _ hfm (by decide), fun h => by simpa only [List.length_set, List.length_map, List.length_zipIdx] using h⟩

theorem execChtEn_frame {fm : List Part} {b0 : State} (k : BitVec 3) (v : Bool) (s : State)
    (hfr : Frame fm b0 s) (hfm : Part.sub [.regs, .stk] fm = true) : FrameOut fm b0 (execChtEn k v s) := by
  unfold execChtEn
  repeat' first
    | with_reducible assumption
    | extract_lets +onlyGivenNames x
    | with_reducible apply FrameOut.next
    | with_reducible apply writeChtEn_frame

theorem invalidateCache_frame {fm : List Part} {b0 : State} (s : State) (k : Nat)
    (hfr : Frame fm b0 s) (hfm : Part.sub [.stk] fm = true) : Frame fm b0 (invalidateCache s k) := by
  unfold invalidateCache
  repeat' first
    | with_reducible assumption
    | extract_lets +onlyGivenNames x
    | with_reducible apply putStk_frame
    | with_reducible apply Frame.ite

theorem execInvAll_frame {fm : List Part} {b0 : State} (k : BitVec 3) (s : State)
    (hfr : Frame fm b0 s) (hfm : Part.sub [.stk] fm = true) : FrameOut fm b0 (execInvAll k s) := by
  unfold execInvAll
  repeat' first
    | with_reducible assumption
    | extract_lets +onlyGivenNames x
    | with_reducible apply FrameOut.next
    | with_reducible apply invalidateCache_frame

theorem execChtLock_frame {fm : List Part} {b0 : State} (k : BitVec 3) (s : State)
    (hfr : Frame fm b0 s) (hfm : Part.sub [.regs] fm = true) : FrameOut fm b0 (execChtLock k s) := by
  unfold execChtLock
  repeat' first
    | with_reducible assumption
    | extract_lets +onlyGivenNames x
    | with_reducible apply FrameOut.next
    | with_reducible apply rset_frame
    | with_reducible apply Frame.ite

theorem execChtHead_frame {fm : List Part} {b0 : State} (k : BitVec 3) (head : BitVec 12) (s : State)
    (hfr : Frame fm b0 s) (hfm : Part.sub [.regs] fm = true) : FrameOut fm b0 (execChtHead k head s) := by
  unfold execChtHead
  repeat' first
    | with_reducible assumption
    | extract_lets +onlyGivenNames x
    | with_reducible apply FrameOut.next
    | with_reducible apply rput_frame
    | with_reducible apply Frame.ite

theorem sendHeld_frame {fm : List Part} {b0 : State} (s : State) (h : Nat)
    (hfr : Frame fm b0 s) (hfm : Part.sub [.regs, .vil] fm = true) : Frame fm b0 (sendHeld s h) := by
  unfold sendHeld
  repeat' first
    | with_reducible assumption
    | exact Part.sub_trans (by decide) hfm
    | with_reducible intro _
    | (extract_lets +onlyGivenNames x; refine (fun hx => ?_ : (Frame fm b0 x) → _) ?_; (on_goal 2 => unfold x); all_goals clear_value x)
    | (extract_lets +onlyGivenNames x; refine (fun hx => ?_ : (Frame fm b0 x.1) → _) ?_; (on_goal 2 => unfold x); all_goals clear_value x)
    | (extract_lets +onlyGivenNames x; refine (fun hx => ?_ : (tileSafe x = true) → _) ?_; (on_goal 2 => unfold x); all_goals clear_value x)
    | (extract_lets +onlyGivenNames x; refine (fun hx => ?_ : (tileSafe x.1 = true) → _) ?_; (on_goal 2 => unfold x); all_goals clear_value x)
    | (extract_lets +onlyGivenNames x; refine (fun hx => ?_ : (FrameOpt fm b0 x) → _) ?_; (on_goal 2 => unfold x); all_goals clear_value x)
    | (extract_lets +onlyGivenNames x; refine (fun hx => ?_ : (Frame fm b0 x.st) → _) ?_; (on_goal 2 => unfold x); all_goals clear_value x)
    | extract_lets +onlyGivenNames x
    | with_reducible apply rbump_frame
    | with_reducible apply putHalf_frame
    | with_reducible apply Frame.foldl
    | with_reducible apply Frame.foldlFst
    | with_reducible apply Frame.ite
    | split
    | ((conv in State.mk _ _ _ _ _ _ _ _ _ _ _ _ _ _ _ _ _ _ _ _ _ _ _ _ _ => skip); with_reducible apply Frame.upd)
    | with_reducible exact .inr rfl
    | exact .inl (Part.sub_has _ hfm (by decide))
    | exact .inl ⟨Part.sub_has _ hfm (by decide), fun h => h⟩
    | exact .inl ⟨Part.sub_has _ hfm (by decide), fun h => by simpa only [List.length_set, List.length_map, List.length_zipIdx] using h⟩

theorem discardFlit_frame {fm : List Part} {b0 : State} (s : State) (h : Nat)
    (hfr : Frame fm b0 s) (hfm : Part.sub [.vil] fm = true) : Frame fm b0 (discardFlit s h) := by
  unfold discardFlit
  repeat' first
    | with_reducible assumption
    | exact Part.sub_trans (by decide) hfm
    | with_reducible intro _
    | (extract_lets +onlyGivenNames x; refine (fun hx => ?_ : (Frame fm b0 x) → _) ?_; (on_goal 2 => unfold x); all_goals clear_value x)
    | (extract_lets +onlyGivenNames x; refine (fun hx => ?_ : (Frame fm b0 x.1) → _) ?_; (on_goal 2 => unfold x); all_goals clear_value x)
    | (extract_lets +onlyGivenNames x; refine (fun hx => ?_ : (tileSafe x = true) → _) ?_; (on_goal 2 => unfold x); all_goals clear_value x)
    | (extract_lets +onlyGivenNames x; refine (fun hx => ?_ : (tileSafe x.1 = true) → _) ?_; (on_goal 2 => unfold x); all_goals clear_value x)
    | (extract_lets +onlyGivenNames x; refine (fun hx => ?_ : (FrameOpt fm b0 x) → _) ?_; (on_goal 2 => unfold x); all_goals clear_value x)
    | (extract_lets +onlyGivenNames x; refine (fun hx => ?_ : (Frame fm b0 x.st) → _) ?_; (on_goal 2 => unfold x); all_goals clear_value x)
    | extract_lets +onlyGivenNames x
    | with_reducible apply putHalf_frame
    | with_reducible apply Frame.ite
    | split
    | ((conv in State.mk _ _ _ _ _ _ _ _ _ _ _ _ _ _ _ _ _ _ _ _ _ _ _ _ _ => skip); with_reducible apply Frame.upd)
    | with_reducible exact .inr rfl
    | exact .inl (Part.sub_has _ hfm (by decide))
    | exact .inl ⟨Part.sub_has _ hfm (by decide), fun h => h⟩
    | exact .inl ⟨Part.sub_has _ hfm (by decide), fun h => by simpa only [List.length_set, List.length_map, List.length_zipIdx] using h⟩

theorem sendStalled_frame {fm : List Part} {b0 : State} (s : State) (h : Nat)
    (hfr : Frame fm b0 s) (hfm : Part.sub [.regs, .vil] fm = true) : Frame fm b0 (sendStalled s h) := by
  unfold sendStalled
  repeat' first
    | with_reducible assumption
    | exact Part.sub_trans (by decide) hfm
    | with_reducible intro _
    | with_reducible apply sendMsg_frame
    | with_reducible apply putHalf_frame
    | with_reducible apply Frame.foldl
    | with_reducible apply Frame.foldlFst
    | ((conv in State.mk _ _ _ _ _ _ _ _ _ _ _ _ _ _ _ _ _ _ _ _ _ _ _ _ _ => skip); with_reducible apply Frame.upd)
    | with_reducible exact .inr rfl
    | exact .inl (Part.sub_has _ hfm (by decide))
    | exact .inl ⟨Part.sub_has _ hfm (by decide), fun h => h⟩
    | exact .inl ⟨Part.sub_has _ hfm (by decide), fun h => by simpa only [List.length_set, List.length_map, List.length_zipIdx] using h⟩

theorem unmarkForms_frame {fm : List Part} {b0 : State} (s : State) (k x l : Nat)
    (hfr : Frame fm b0 s) (hfm : Part.sub [.dram] fm = true) : Frame fm b0 (unmarkForms s k x l) := by
  unfold unmarkForms
  repeat' first
    | with_reducible assumption
    | exact Part.sub_trans (by decide) hfm
    | with_reducible intro _
    | with_reducible apply putDesc1_frame
    | with_reducible apply Frame.foldl
    | with_reducible apply Frame.foldlFst
    | with_reducible apply Frame.ite
    | split

end Sys2Proof.Machine
end

