-- ==== Sys2Proof/Laws/FramesNetwork.lean ====
section
/-!
SUPPORT. Frames of the operations of the model (network): which parts of the state each can touch, and that a safe
machine stays safe.
-/

namespace Sys2Proof.Machine

theorem putPort_frame {fm : List Part} {b0 : State} (s : State) (p : Nat) (v : PortSt)
    (hfr : Frame fm b0 s) (hfm : Part.sub [.fleet] fm = true) : Frame fm b0 (putPort s p v) := by
  unfold putPort
  repeat' first
    | with_reducible assumption
    | extract_lets +onlyGivenNames x
    | ((conv in State.mk _ _ _ _ _ _ _ _ _ _ _ _ _ _ _ _ _ _ _ _ _ _ _ _ _ => skip); with_reducible apply Frame.upd)
    | with_reducible exact .inr rfl
    | exact .inl ⟨Part.sub_has _ hfm (by decide), fun h => by simpa only [List.length_set, List.length_map, List.length_zipIdx] using h⟩

theorem sendFlit_frame {fm : List Part} {b0 : State} (s : State) (p : Nat) (bs : List Byte)
    (hfr : Frame fm b0 s) (hfm : Part.sub [.fleet] fm = true) : Frame fm b0 (sendFlit s p bs) := by
  unfold sendFlit
  repeat' first
    | with_reducible assumption
    | exact Part.sub_trans (by decide) hfm
    | with_reducible intro _
    | (extract_lets +onlyGivenNames x; refine (fun hx => ?_ : (Frame fm b0 x) → _) ?_; (on_goal 2 => unfold x); all_goals clear_value x)
    | (extract_lets +onlyGivenNames x; refine (fun hx => ?_ : (Frame fm b0 x.1) → _) ?_; (on_goal 2 => unfold x); all_goals clear_value x)
    | (extract_lets +onlyGivenNames x; refine (fun hx => ?_ : (tileSafe x = true) → _) ?_; (on_goal 2 => unfold x); all_goals clear_value x)
    | (extract_lets +onlyGivenNames x; refine (fun hx => ?_ : (tileSafe x.1 = true) → _) ?_; (on_goal 2 => unfold x); all_goals clear_value x)
    | (extract_lets +onlyGivenNames x; refine (fun hx => ?_ : (FrameOpt fm b0 x) → _) ?_; (on_goal 2 => unfold x); all_goals clear_value x)
    | (extract_lets +onlyGivenNames x; refine (fun hx => ?_ : (Frame fm b0 x.st) → _) ?_; (on_goal 2 => unfold x); all_goals clear_value x)
    | extract_lets +onlyGivenNames x
    | with_reducible apply putPort_frame
    | with_reducible apply Frame.ite
    | split
    | ((conv in State.mk _ _ _ _ _ _ _ _ _ _ _ _ _ _ _ _ _ _ _ _ _ _ _ _ _ => skip); with_reducible apply Frame.upd)
    | with_reducible exact .inr rfl
    | exact .inl (Part.sub_has _ hfm (by decide))
    | exact .inl ⟨Part.sub_has _ hfm (by decide), fun h => h⟩
    | exact .inl ⟨Part.sub_has _ hfm (by decide), fun h => by simpa only [List.length_set, List.length_map, List.length_zipIdx] using h⟩

theorem endPacket_frame {fm : List Part} {b0 : State} (s : State) (k : Nat) (p : Packet) (st : Status)
    (hfr : Frame fm b0 s) (hfm : Part.sub [.regs, .net] fm = true) : Frame fm b0 (endPacket s k p st) := by
  unfold endPacket
  repeat' first
    | with_reducible assumption
    | exact Part.sub_trans (by decide) hfm
    | with_reducible intro _
    | (extract_lets +onlyGivenNames x; refine (fun hx => ?_ : (Frame fm b0 x) → _) ?_; (on_goal 2 => unfold x); all_goals clear_value x)
    | extract_lets +onlyGivenNames x
    | with_reducible apply complete_frame
    | with_reducible apply sendPacket_frame
    | with_reducible apply rbump_frame
    | with_reducible apply Frame.foldl
    | with_reducible apply Frame.ite
    | ((conv in State.mk _ _ _ _ _ _ _ _ _ _ _ _ _ _ _ _ _ _ _ _ _ _ _ _ _ => skip); with_reducible apply Frame.upd)
    | with_reducible exact .inr rfl
    | exact .inl (Part.sub_has _ hfm (by decide))

theorem routeOut_frame {fm : List Part} {b0 : State} (s : State) (p : Packet) (m : Nat)
    (hfr : Frame fm b0 s) (hfm : Part.sub [.regs, .net, .fleet] fm = true) : Frame fm b0 (routeOut s p m) := by
  unfold routeOut
  repeat' first
    | with_reducible assumption
    | exact Part.sub_trans (by decide) hfm
    | with_reducible intro _
    | (extract_lets +onlyGivenNames x; refine (fun hx => ?_ : (Frame fm b0 x) → _) ?_; (on_goal 2 => unfold x); all_goals clear_value x)
    | (extract_lets +onlyGivenNames x; refine (fun hx => ?_ : (Frame fm b0 x.1) → _) ?_; (on_goal 2 => unfold x); all_goals clear_value x)
    | (extract_lets +onlyGivenNames x; refine (fun hx => ?_ : (tileSafe x = true) → _) ?_; (on_goal 2 => unfold x); all_goals clear_value x)
    | (extract_lets +onlyGivenNames x; refine (fun hx => ?_ : (tileSafe x.1 = true) → _) ?_; (on_goal 2 => unfold x); all_goals clear_value x)
    | (extract_lets +onlyGivenNames x; refine (fun hx => ?_ : (FrameOpt fm b0 x) → _) ?_; (on_goal 2 => unfold x); all_goals clear_value x)
    | (extract_lets +onlyGivenNames x; refine (fun hx => ?_ : (Frame fm b0 x.st) → _) ?_; (on_goal 2 => unfold x); all_goals clear_value x)
    | extract_lets +onlyGivenNames x
    | with_reducible apply endPacket_frame
    | with_reducible apply rbump_frame
    | with_reducible apply sendFlit_frame
    | with_reducible apply putPort_frame
    | with_reducible apply Frame.foldl
    | with_reducible apply Frame.foldlFst
    | with_reducible apply Frame.ite
    | (with_reducible refine Frame.ofPair ‹_ = (_, _)› ?_)
    | split
    | ((conv in State.mk _ _ _ _ _ _ _ _ _ _ _ _ _ _ _ _ _ _ _ _ _ _ _ _ _ => skip); with_reducible apply Frame.upd)
    | with_reducible exact .inr rfl
    | exact .inl (Part.sub_has _ hfm (by decide))
    | exact .inl ⟨Part.sub_has _ hfm (by decide), fun h => h⟩
    | exact .inl ⟨Part.sub_has _ hfm (by decide), fun h => by simpa only [List.length_set, List.length_map, List.length_zipIdx] using h⟩

theorem destWrite_frame {fm : List Part} {b0 : State} (s : State) (d : Dest) (bs : List Byte)
    (hfr : Frame fm b0 s) (hfm : Part.sub [.cyc, .tick, .tfrac, .regs, .tiles, .dram, .net, .reports, .log] fm = true) : Frame fm b0 (destWrite s d bs) := by
  unfold destWrite
  repeat' first
    | with_reducible assumption
    | exact Part.sub_trans (by decide) hfm
    | with_reducible intro _
    | extract_lets +onlyGivenNames x
    | with_reducible apply cwrite_frame
    | with_reducible apply dwrite_frame
    | with_reducible apply changeTile_frame
    | with_reducible apply swrite_safe
    | split

theorem putCounter_frame {fm : List Part} {b0 : State} (s : State) (k i : Nat) (c : HelmCounter)
    (hfr : Frame fm b0 s) (hfm : Part.sub [.stk] fm = true) : Frame fm b0 (putCounter s k i c) := by
  unfold putCounter
  repeat' first
    | with_reducible assumption
    | extract_lets +onlyGivenNames x
    | with_reducible apply putStk_frame

theorem arriveHelm_frame {fm : List Part} {b0 : State} (s : State) (k i v : Nat)
    (hfr : Frame fm b0 s) (hfm : Part.sub [.stk] fm = true) : Frame fm b0 (arriveHelm s k i v) := by
  unfold arriveHelm
  repeat' first
    | with_reducible assumption
    | extract_lets +onlyGivenNames x
    | with_reducible apply putCounter_frame

theorem releaseHelm_frame {fm : List Part} {b0 : State} (s : State) (k i : Nat)
    (hfr : Frame fm b0 s) (hfm : Part.sub [.stk] fm = true) : Frame fm b0 (releaseHelm s k i) := by
  unfold releaseHelm
  repeat' first
    | with_reducible assumption
    | extract_lets +onlyGivenNames x
    | with_reducible apply putCounter_frame

theorem routerGet_frame {fm : List Part} {b0 : State} (s : State) (k site : Nat) (p : Packet)
    (hfr : Frame fm b0 s) (hfm : Part.sub [.tiles, .net, .reports, .stk, .log] fm = true) : Frame fm b0 (routerGet s k site p) := by
  unfold routerGet
  repeat' first
    | with_reducible assumption
    | exact Part.sub_trans (by decide) hfm
    | with_reducible intro _
    | (extract_lets +onlyGivenNames x; refine (fun hx => ?_ : (Frame fm b0 x) → _) ?_; (on_goal 2 => unfold x); all_goals clear_value x)
    | (extract_lets +onlyGivenNames x; refine (fun hx => ?_ : (Frame fm b0 x.1) → _) ?_; (on_goal 2 => unfold x); all_goals clear_value x)
    | (extract_lets +onlyGivenNames x; refine (fun hx => ?_ : (tileSafe x = true) → _) ?_; (on_goal 2 => unfold x); all_goals clear_value x)
    | (extract_lets +onlyGivenNames x; refine (fun hx => ?_ : (tileSafe x.1 = true) → _) ?_; (on_goal 2 => unfold x); all_goals clear_value x)
    | (extract_lets +onlyGivenNames x; refine (fun hx => ?_ : (FrameOpt fm b0 x) → _) ?_; (on_goal 2 => unfold x); all_goals clear_value x)
    | (extract_lets +onlyGivenNames x; refine (fun hx => ?_ : (Frame fm b0 x.st) → _) ?_; (on_goal 2 => unfold x); all_goals clear_value x)
    | extract_lets +onlyGivenNames x
    | with_reducible apply putStk_frame
    | with_reducible apply changeSite_frame
    | with_reducible apply tbump_safe
    | with_reducible apply Frame.ite
    | (with_reducible refine Frame.ofPair ‹_ = (_, _)› ?_)
    | split
    | ((conv in State.mk _ _ _ _ _ _ _ _ _ _ _ _ _ _ _ _ _ _ _ _ _ _ _ _ _ => skip); with_reducible apply Frame.upd)
    | with_reducible exact .inr rfl
    | exact .inl (Part.sub_has _ hfm (by decide))
    | exact .inl ⟨Part.sub_has _ hfm (by decide), fun h => h⟩
    | exact .inl ⟨Part.sub_has _ hfm (by decide), fun h => by simpa only [List.length_set, List.length_map, List.length_zipIdx] using h⟩
    | ((conv in Tile.mk _ _ _ _ _ _ _ _ _ _ _ _ _ _ _ _ _ _ _ _ _ _ _ _ _ _ _ _ _ _ _ _ _ _ _ _ _ _ _ _ => skip); with_reducible apply tileSafe_upd)
    | with_reducible exact .inl rfl

theorem routerCombine_frame {fm : List Part} {b0 : State} (s : State) (k site : Nat) (p : Packet) (others : List Packet)
    (hfr : Frame fm b0 s) (hfm : Part.sub [.regs, .net, .stk] fm = true) : Frame fm b0 (routerCombine s k site p others) := by
  unfold routerCombine
  repeat' first
    | with_reducible assumption
    | exact Part.sub_trans (by decide) hfm
    | with_reducible intro _
    | (extract_lets +onlyGivenNames x; refine (fun hx => ?_ : (Frame fm b0 x) → _) ?_; (on_goal 2 => unfold x); all_goals clear_value x)
    | (extract_lets +onlyGivenNames x; refine (fun hx => ?_ : (Frame fm b0 x.1) → _) ?_; (on_goal 2 => unfold x); all_goals clear_value x)
    | (extract_lets +onlyGivenNames x; refine (fun hx => ?_ : (tileSafe x = true) → _) ?_; (on_goal 2 => unfold x); all_goals clear_value x)
    | (extract_lets +onlyGivenNames x; refine (fun hx => ?_ : (tileSafe x.1 = true) → _) ?_; (on_goal 2 => unfold x); all_goals clear_value x)
    | (extract_lets +onlyGivenNames x; refine (fun hx => ?_ : (FrameOpt fm b0 x) → _) ?_; (on_goal 2 => unfold x); all_goals clear_value x)
    | (extract_lets +onlyGivenNames x; refine (fun hx => ?_ : (Frame fm b0 x.st) → _) ?_; (on_goal 2 => unfold x); all_goals clear_value x)
    | extract_lets +onlyGivenNames x
    | with_reducible apply rbump_frame
    | with_reducible apply putStk_frame
    | with_reducible apply Frame.foldl
    | with_reducible apply Frame.foldlFst
    | with_reducible apply Frame.ite
    | split
    | ((conv in State.mk _ _ _ _ _ _ _ _ _ _ _ _ _ _ _ _ _ _ _ _ _ _ _ _ _ => skip); with_reducible apply Frame.upd)
    | with_reducible exact .inr rfl
    | exact .inl (Part.sub_has _ hfm (by decide))
    | exact .inl ⟨Part.sub_has _ hfm (by decide), fun h => h⟩
    | exact .inl ⟨Part.sub_has _ hfm (by decide), fun h => by simpa only [List.length_set, List.length_map, List.length_zipIdx] using h⟩

theorem passBack_frame {fm : List Part} {b0 : State} (s : State) (k : Nat) (p : Packet)
    (hfr : Frame fm b0 s) (hfm : Part.sub [.regs, .net, .stk] fm = true) : Frame fm b0 (passBack s k p).2 := by
  unfold passBack
  repeat' first
    | with_reducible assumption
    | exact Part.sub_trans (by decide) hfm
    | with_reducible intro _
    | (extract_lets +onlyGivenNames x; refine (fun hx => ?_ : (Frame fm b0 x) → _) ?_; (on_goal 2 => unfold x); all_goals clear_value x)
    | extract_lets +onlyGivenNames x
    | with_reducible apply sendPacket_frame
    | with_reducible apply putStk_frame
    | with_reducible apply Frame.foldl

theorem passBackAll_frame {m : List Part} {s0 : State} (s : State) (p : Packet) (h : Frame m s0 s)
    (hm : Part.sub [.regs, .net, .stk] m = true) : Frame m s0 (passBackAll s p).2 := by
  unfold passBackAll
  have hg : ∀ (q : Bool × State) (k : Nat), Frame m s0 q.2 → Frame m s0 (passBack q.2 k p).2 := fun q k hq =>
    passBack_frame q.2 k p hq (Part.sub_trans (by decide) hm)
  refine Frame.foldlSnd _ _ (fun q k hq => ?_) h
  dsimp only
  exact hg q k hq

theorem deliver_frame {m : List Part} {s0 : State} (s : State) (r : TileRef) (tag : BitVec 5) (turn : BitVec 4)
    (st : Status) (sat : Bool) (data : List Byte) (branches : List Nat) (h : Frame m s0 s)
    (hm : Part.sub [.cyc, .tick, .tfrac, .regs, .tiles, .net, .reports, .log] m = true) : Frame m s0 (deliver s r tag turn st sat data branches) := by
  have h1 : Frame m s0 (onTile s r fun c t =>
      let q := completeTile c (settle c.now t) tag st sat data branches
      (bankTokens (busyAt q.1 c.now) c.now, q.2, c.now)) :=
    onTile_frame s r _ (fun c t ht => bankTokens_safe _ _ (busyAt_safe _ _ (completeTile_safe _ _ _ _ _ _ _ (settle_safe _ _ ht)))) h
      (Part.sub_trans (by decide) hm)
  unfold deliver
  split
  · exact rbump_frame _ _ _ _ h (Part.sub_trans (by decide) hm)
  · extract_lets t0 s1 bad
    have h2 : Frame m s0 s1 := h1
    clear_value s1 bad
    split
    · exact rbump_frame _ _ _ _ h (Part.sub_trans (by decide) hm)
    · split
      · split
        · apply Frame.upd (t := s1) (h := h2)
          all_goals first | with_reducible exact .inr rfl | exact .inl (Part.sub_has _ hm (by decide))
        · exact h2
      · exact h2

theorem issueHelm_frame {fm : List Part} {b0 : State} (s : State) (m : HelmMsg)
    (hfr : Frame fm b0 s) (hfm : Part.sub [.regs, .serve] fm = true) : Frame fm b0 (issueHelm s m) := by
  unfold issueHelm
  repeat' first
    | with_reducible assumption
    | exact Part.sub_trans (by decide) hfm
    | with_reducible intro _
    | (extract_lets +onlyGivenNames x; refine (fun hx => ?_ : (Frame fm b0 x) → _) ?_; (on_goal 2 => unfold x); all_goals clear_value x)
    | (extract_lets +onlyGivenNames x; refine (fun hx => ?_ : (Frame fm b0 x.1) → _) ?_; (on_goal 2 => unfold x); all_goals clear_value x)
    | (extract_lets +onlyGivenNames x; refine (fun hx => ?_ : (tileSafe x = true) → _) ?_; (on_goal 2 => unfold x); all_goals clear_value x)
    | (extract_lets +onlyGivenNames x; refine (fun hx => ?_ : (tileSafe x.1 = true) → _) ?_; (on_goal 2 => unfold x); all_goals clear_value x)
    | (extract_lets +onlyGivenNames x; refine (fun hx => ?_ : (FrameOpt fm b0 x) → _) ?_; (on_goal 2 => unfold x); all_goals clear_value x)
    | (extract_lets +onlyGivenNames x; refine (fun hx => ?_ : (Frame fm b0 x.st) → _) ?_; (on_goal 2 => unfold x); all_goals clear_value x)
    | extract_lets +onlyGivenNames x
    | with_reducible apply rbump_frame
    | with_reducible apply Frame.ite
    | (with_reducible refine Frame.ofPair ‹_ = (_, _)› ?_)
    | split
    | ((conv in State.mk _ _ _ _ _ _ _ _ _ _ _ _ _ _ _ _ _ _ _ _ _ _ _ _ _ => skip); with_reducible apply Frame.upd)
    | with_reducible exact .inr rfl
    | exact .inl (Part.sub_has _ hfm (by decide))
    | exact .inl ⟨Part.sub_has _ hfm (by decide), fun h => h⟩
    | exact .inl ⟨Part.sub_has _ hfm (by decide), fun h => by simpa only [List.length_set, List.length_map, List.length_zipIdx] using h⟩
    | exact .inl ⟨Part.sub_has _ hfm (by decide), fun h => mapSet_wf _ _ _ _ h⟩

theorem sendHelm_frame {fm : List Part} {b0 : State} (s : State) (ms : List HelmMsg)
    (hfr : Frame fm b0 s) (hfm : Part.sub [.regs, .serve] fm = true) : Frame fm b0 (sendHelm s ms) := by
  unfold sendHelm
  repeat' first
    | with_reducible assumption
    | exact Part.sub_trans (by decide) hfm
    | with_reducible intro _
    | with_reducible apply issueHelm_frame
    | with_reducible apply Frame.foldl
    | with_reducible apply Frame.foldlFst
    | with_reducible exact .inr rfl
    | exact .inl (Part.sub_has _ hfm (by decide))
    | exact .inl ⟨Part.sub_has _ hfm (by decide), fun h => h⟩
    | exact .inl ⟨Part.sub_has _ hfm (by decide), fun h => by simpa only [List.length_set, List.length_map, List.length_zipIdx] using h⟩
    | extract_lets +onlyGivenNames x

theorem recordCame_frame {fm : List Part} {b0 : State} (s : State) (w : Word)
    (hfr : Frame fm b0 s) (hfm : Part.sub [.chr] fm = true) : Frame fm b0 (recordCame s w) := by
  unfold recordCame
  repeat' first
    | with_reducible assumption
    | exact Part.sub_trans (by decide) hfm
    | with_reducible intro _
    | with_reducible apply Frame.ite
    | split
    | ((conv in State.mk _ _ _ _ _ _ _ _ _ _ _ _ _ _ _ _ _ _ _ _ _ _ _ _ _ => skip); with_reducible apply Frame.upd)
    | with_reducible exact .inr rfl
    | exact .inl (Part.sub_has _ hfm (by decide))
    | exact .inl ⟨Part.sub_has _ hfm (by decide), fun h => h⟩
    | exact .inl ⟨Part.sub_has _ hfm (by decide), fun h => by simpa only [List.length_set, List.length_map, List.length_zipIdx] using h⟩

theorem passRecord_frame {fm : List Part} {b0 : State} (s : State) (w : Word) (q : Nat) (d : Bool)
    (hfr : Frame fm b0 s) (hfm : Part.sub [.regs, .serve] fm = true) : Frame fm b0 (passRecord s w q d) := by
  unfold passRecord
  repeat' first
    | with_reducible assumption
    | exact Part.sub_trans (by decide) hfm
    | with_reducible intro _
    | with_reducible apply sendHelm_frame

theorem holdRecord_frame {fm : List Part} {b0 : State} (s : State) (w : Word) (q : Nat) (d : Bool)
    (hfr : Frame fm b0 s) (hfm : Part.sub [.regs, .chr, .serve] fm = true) : Frame fm b0 (holdRecord s w q d) := by
  unfold holdRecord
  repeat' first
    | with_reducible assumption
    | exact Part.sub_trans (by decide) hfm
    | with_reducible intro _
    | (extract_lets +onlyGivenNames x; refine (fun hx => ?_ : (Frame fm b0 x) → _) ?_; (on_goal 2 => unfold x); all_goals clear_value x)
    | (extract_lets +onlyGivenNames x; refine (fun hx => ?_ : (Frame fm b0 x.1) → _) ?_; (on_goal 2 => unfold x); all_goals clear_value x)
    | (extract_lets +onlyGivenNames x; refine (fun hx => ?_ : (tileSafe x = true) → _) ?_; (on_goal 2 => unfold x); all_goals clear_value x)
    | (extract_lets +onlyGivenNames x; refine (fun hx => ?_ : (tileSafe x.1 = true) → _) ?_; (on_goal 2 => unfold x); all_goals clear_value x)
    | (extract_lets +onlyGivenNames x; refine (fun hx => ?_ : (FrameOpt fm b0 x) → _) ?_; (on_goal 2 => unfold x); all_goals clear_value x)
    | (extract_lets +onlyGivenNames x; refine (fun hx => ?_ : (Frame fm b0 x.st) → _) ?_; (on_goal 2 => unfold x); all_goals clear_value x)
    | extract_lets +onlyGivenNames x
    | with_reducible apply passRecord_frame
    | with_reducible apply recordCame_frame
    | with_reducible apply rput_frame
    | with_reducible apply rbump_frame
    | with_reducible apply Frame.ite
    | split
    | ((conv in State.mk _ _ _ _ _ _ _ _ _ _ _ _ _ _ _ _ _ _ _ _ _ _ _ _ _ => skip); with_reducible apply Frame.upd)
    | with_reducible exact .inr rfl
    | exact .inl (Part.sub_has _ hfm (by decide))
    | exact .inl ⟨Part.sub_has _ hfm (by decide), fun h => h⟩
    | exact .inl ⟨Part.sub_has _ hfm (by decide), fun h => by simpa only [List.length_set, List.length_map, List.length_zipIdx] using h⟩

theorem closeRound_frame {fm : List Part} {b0 : State} (s : State)
    (hfr : Frame fm b0 s) (hfm : Part.sub [.regs, .stk, .chr, .serve] fm = true) : Frame fm b0 (closeRound s) := by
  unfold closeRound
  repeat' first
    | with_reducible assumption
    | exact Part.sub_trans (by decide) hfm
    | (extract_lets +onlyGivenNames x; refine (fun hx => ?_ : (Frame fm b0 x) → _) ?_; (on_goal 2 => unfold x); all_goals clear_value x)
    | extract_lets +onlyGivenNames x
    | with_reducible apply holdRecord_frame
    | with_reducible apply sendHelm_frame
    | with_reducible apply releaseHelm_frame
    | with_reducible apply Frame.ite
    | split

theorem arriveOffer_frame {fm : List Part} {b0 : State} (s : State)
    (hfr : Frame fm b0 s) (hfm : Part.sub [.regs, .stk, .chr, .serve] fm = true) : Frame fm b0 (arriveOffer s) := by
  unfold arriveOffer
  repeat' first
    | with_reducible assumption
    | exact Part.sub_trans (by decide) hfm
    | (extract_lets +onlyGivenNames x; refine (fun hx => ?_ : (Frame fm b0 x) → _) ?_; (on_goal 2 => unfold x); all_goals clear_value x)
    | extract_lets +onlyGivenNames x
    | with_reducible apply closeRound_frame
    | with_reducible apply arriveHelm_frame
    | split
    | ((conv in State.mk _ _ _ _ _ _ _ _ _ _ _ _ _ _ _ _ _ _ _ _ _ _ _ _ _ => skip); with_reducible apply Frame.upd)
    | with_reducible exact .inr rfl
    | exact .inl (Part.sub_has _ hfm (by decide))

theorem atModule_frame {fm : List Part} {b0 : State} (s : State) (p : Packet) (f : State → State) (hf : ∀ u, Frame fm b0 u → Frame fm b0 (f u))
    (hfr : Frame fm b0 s) (hfm : Part.sub [.regs, .net, .fleet] fm = true) : Frame fm b0 (atModule s p f) := by
  unfold atModule
  repeat' first
    | with_reducible assumption
    | extract_lets +onlyGivenNames x
    | with_reducible apply routeOut_frame
    | with_reducible apply Frame.ite
    | with_reducible apply hf

theorem putPacket_frame {fm : List Part} {b0 : State} (s : State) (p : Packet)
    (hfr : Frame fm b0 s) (hfm : Part.sub [.cyc, .tick, .tfrac, .regs, .tiles, .dram, .net, .reports, .stk, .vil, .fleet, .serve, .log] fm = true) : Frame fm b0 (putPacket s p) := by
  unfold putPacket
  repeat' first
    | with_reducible assumption
    | exact Part.sub_trans (by decide) hfm
    | with_reducible intro _
    | extract_lets +onlyGivenNames x
    | with_reducible apply atModule_frame
    | with_reducible apply destWrite_frame
    | with_reducible apply appendWindow_frame
    | with_reducible apply pageWindow_frame
    | with_reducible apply companionPut_frame
    | with_reducible apply complete_frame
    | split

theorem execPut_frame {fm : List Part} {b0 : State} (p : Packet) (s : State)
    (hfr : Frame fm b0 s) (hfm : Part.sub [.cyc, .tick, .tfrac, .regs, .tiles, .dram, .net, .reports, .stk, .vil, .fleet, .serve, .log] fm = true) : FrameOut fm b0 (execPut p s) := by
  unfold execPut
  repeat' first
    | with_reducible assumption
    | extract_lets +onlyGivenNames x
    | with_reducible apply FrameOut.next
    | with_reducible apply putPacket_frame

theorem getAtDest_frame {fm : List Part} {b0 : State} (s : State) (p : Packet)
    (hfr : Frame fm b0 s) (hfm : Part.sub [.regs, .dram, .net, .reports, .stk, .vil, .fleet, .serve] fm = true) : Frame fm b0 (getAtDest s p) := by
  unfold getAtDest
  repeat' first
    | with_reducible assumption
    | exact Part.sub_trans (by decide) hfm
    | with_reducible intro _
    | extract_lets +onlyGivenNames x
    | with_reducible apply atModule_frame
    | with_reducible apply appendWindow_frame
    | with_reducible apply pageWindow_frame
    | with_reducible apply companionGet_frame
    | with_reducible apply complete_frame
    | split

theorem execGet_frame {fm : List Part} {b0 : State} (p : Packet) (via : Option SiteRef) (s : State)
    (hfr : Frame fm b0 s) (hfm : Part.sub [.regs, .tiles, .dram, .net, .reports, .stk, .vil, .fleet, .serve, .log] fm = true) : FrameOut fm b0 (execGet p via s) := by
  unfold execGet
  repeat' first
    | with_reducible assumption
    | exact Part.sub_trans (by decide) hfm
    | extract_lets +onlyGivenNames x
    | with_reducible apply FrameOut.next
    | with_reducible apply getAtDest_frame
    | with_reducible apply routerGet_frame
    | split

theorem destAtomic_frame {fm : List Part} {b0 : State} (s : State) (d : Dest) (bs : List Byte)
    (hfr : Frame fm b0 s) (hfm : Part.sub [.cyc, .tick, .tfrac, .regs, .tiles, .dram, .net, .reports, .log] fm = true) : Frame fm b0 (destAtomic s d bs) := by
  unfold destAtomic
  repeat' first
    | with_reducible assumption
    | exact Part.sub_trans (by decide) hfm
    | with_reducible intro _
    | with_reducible apply onTile_frame
    | with_reducible apply destWrite_frame
    | with_reducible apply swrite_safe
    | with_reducible apply settleBefore_safe
    | (with_reducible refine Frame.ofPair ‹_ = (_, _)› ?_)
    | split
    | ((conv in State.mk _ _ _ _ _ _ _ _ _ _ _ _ _ _ _ _ _ _ _ _ _ _ _ _ _ => skip); with_reducible apply Frame.upd)
    | with_reducible exact .inr rfl
    | exact .inl (Part.sub_has _ hfm (by decide))
    | exact .inl ⟨Part.sub_has _ hfm (by decide), fun h => h⟩
    | exact .inl ⟨Part.sub_has _ hfm (by decide), fun h => by simpa only [List.length_set, List.length_map, List.length_zipIdx] using h⟩
    | ((conv in Tile.mk _ _ _ _ _ _ _ _ _ _ _ _ _ _ _ _ _ _ _ _ _ _ _ _ _ _ _ _ _ _ _ _ _ _ _ _ _ _ _ _ => skip); with_reducible apply tileSafe_upd)
    | with_reducible exact .inl rfl

theorem reduceAtDest_frame {fm : List Part} {b0 : State} (s : State) (p : Packet)
    (hfr : Frame fm b0 s) (hfm : Part.sub [.cyc, .tick, .tfrac, .regs, .tiles, .dram, .net, .reports, .fleet, .log] fm = true) : Frame fm b0 (reduceAtDest s p) := by
  unfold reduceAtDest
  repeat' first
    | with_reducible assumption
    | exact Part.sub_trans (by decide) hfm
    | with_reducible intro _
    | (extract_lets +onlyGivenNames x; refine (fun hx => ?_ : (Frame fm b0 x) → _) ?_; (on_goal 2 => unfold x); all_goals clear_value x)
    | (extract_lets +onlyGivenNames x; refine (fun hx => ?_ : (Frame fm b0 x.1) → _) ?_; (on_goal 2 => unfold x); all_goals clear_value x)
    | (extract_lets +onlyGivenNames x; refine (fun hx => ?_ : (tileSafe x = true) → _) ?_; (on_goal 2 => unfold x); all_goals clear_value x)
    | (extract_lets +onlyGivenNames x; refine (fun hx => ?_ : (tileSafe x.1 = true) → _) ?_; (on_goal 2 => unfold x); all_goals clear_value x)
    | (extract_lets +onlyGivenNames x; refine (fun hx => ?_ : (FrameOpt fm b0 x) → _) ?_; (on_goal 2 => unfold x); all_goals clear_value x)
    | (extract_lets +onlyGivenNames x; refine (fun hx => ?_ : (Frame fm b0 x.st) → _) ?_; (on_goal 2 => unfold x); all_goals clear_value x)
    | extract_lets +onlyGivenNames x
    | with_reducible apply atModule_frame
    | with_reducible apply complete_frame
    | with_reducible apply destAtomic_frame
    | with_reducible apply Frame.ite
    | split

theorem execAdd32_frame {fm : List Part} {b0 : State} (p : Packet) (via : Option SiteRef) (others : List Packet) (s : State)
    (hfr : Frame fm b0 s) (hfm : Part.sub [.cyc, .tick, .tfrac, .regs, .tiles, .dram, .net, .reports, .stk, .fleet, .log] fm = true) : FrameOut fm b0 (execAdd32 p via others s) := by
  unfold execAdd32
  repeat' first
    | with_reducible assumption
    | exact Part.sub_trans (by decide) hfm
    | extract_lets +onlyGivenNames x
    | with_reducible apply FrameOut.next
    | with_reducible apply reduceAtDest_frame
    | with_reducible apply routerCombine_frame
    | split

theorem execAdd64_frame {fm : List Part} {b0 : State} (p : Packet) (via : Option SiteRef) (others : List Packet) (s : State)
    (hfr : Frame fm b0 s) (hfm : Part.sub [.cyc, .tick, .tfrac, .regs, .tiles, .dram, .net, .reports, .stk, .fleet, .log] fm = true) : FrameOut fm b0 (execAdd64 p via others s) := by
  unfold execAdd64
  repeat' first
    | with_reducible assumption
    | exact Part.sub_trans (by decide) hfm
    | extract_lets +onlyGivenNames x
    | with_reducible apply FrameOut.next
    | with_reducible apply reduceAtDest_frame
    | with_reducible apply routerCombine_frame
    | split

theorem execLadd_frame {fm : List Part} {b0 : State} (p : Packet) (via : Option SiteRef) (others : List Packet) (s : State)
    (hfr : Frame fm b0 s) (hfm : Part.sub [.cyc, .tick, .tfrac, .regs, .tiles, .dram, .net, .reports, .stk, .fleet, .log] fm = true) : FrameOut fm b0 (execLadd p via others s) := by
  unfold execLadd
  repeat' first
    | with_reducible assumption
    | exact Part.sub_trans (by decide) hfm
    | extract_lets +onlyGivenNames x
    | with_reducible apply FrameOut.next
    | with_reducible apply reduceAtDest_frame
    | with_reducible apply routerCombine_frame
    | split

theorem execCas64_frame {fm : List Part} {b0 : State} (p : Packet) (s : State)
    (hfr : Frame fm b0 s) (hfm : Part.sub [.cyc, .tick, .tfrac, .regs, .tiles, .dram, .net, .reports, .fleet, .log] fm = true) : FrameOut fm b0 (execCas64 p s) := by
  unfold execCas64
  repeat' first
    | with_reducible assumption
    | exact Part.sub_trans (by decide) hfm
    | with_reducible intro _
    | (extract_lets +onlyGivenNames x; refine (fun hx => ?_ : (Frame fm b0 x) → _) ?_; (on_goal 2 => unfold x); all_goals clear_value x)
    | (extract_lets +onlyGivenNames x; refine (fun hx => ?_ : (Frame fm b0 x.1) → _) ?_; (on_goal 2 => unfold x); all_goals clear_value x)
    | (extract_lets +onlyGivenNames x; refine (fun hx => ?_ : (tileSafe x = true) → _) ?_; (on_goal 2 => unfold x); all_goals clear_value x)
    | (extract_lets +onlyGivenNames x; refine (fun hx => ?_ : (tileSafe x.1 = true) → _) ?_; (on_goal 2 => unfold x); all_goals clear_value x)
    | (extract_lets +onlyGivenNames x; refine (fun hx => ?_ : (FrameOpt fm b0 x) → _) ?_; (on_goal 2 => unfold x); all_goals clear_value x)
    | (extract_lets +onlyGivenNames x; refine (fun hx => ?_ : (Frame fm b0 x.st) → _) ?_; (on_goal 2 => unfold x); all_goals clear_value x)
    | extract_lets +onlyGivenNames x
    | with_reducible apply FrameOut.next
    | with_reducible apply atModule_frame
    | with_reducible apply destAtomic_frame
    | with_reducible apply complete_frame
    | with_reducible apply Frame.ite
    | split

theorem mputTarget_frame {fm : List Part} {b0 : State} (p : Packet) (s : State) (t : Nat × Dword)
    (hfr : Frame fm b0 s) (hfm : Part.sub [.cyc, .tick, .tfrac, .regs, .tiles, .dram, .net, .reports, .log] fm = true) : Frame fm b0 (mputTarget p s t) := by
  unfold mputTarget
  repeat' first
    | with_reducible assumption
    | exact Part.sub_trans (by decide) hfm
    | with_reducible intro _
    | (extract_lets +onlyGivenNames x; refine (fun hx => ?_ : (Frame fm b0 x) → _) ?_; (on_goal 2 => unfold x); all_goals clear_value x)
    | (extract_lets +onlyGivenNames x; refine (fun hx => ?_ : (Frame fm b0 x.1) → _) ?_; (on_goal 2 => unfold x); all_goals clear_value x)
    | (extract_lets +onlyGivenNames x; refine (fun hx => ?_ : (tileSafe x = true) → _) ?_; (on_goal 2 => unfold x); all_goals clear_value x)
    | (extract_lets +onlyGivenNames x; refine (fun hx => ?_ : (tileSafe x.1 = true) → _) ?_; (on_goal 2 => unfold x); all_goals clear_value x)
    | (extract_lets +onlyGivenNames x; refine (fun hx => ?_ : (FrameOpt fm b0 x) → _) ?_; (on_goal 2 => unfold x); all_goals clear_value x)
    | (extract_lets +onlyGivenNames x; refine (fun hx => ?_ : (Frame fm b0 x.st) → _) ?_; (on_goal 2 => unfold x); all_goals clear_value x)
    | extract_lets +onlyGivenNames x
    | with_reducible apply complete_frame
    | with_reducible apply destWrite_frame
    | with_reducible apply rbump_frame
    | (with_reducible refine Frame.ofPair ‹_ = (_, _)› ?_)
    | split
    | ((conv in State.mk _ _ _ _ _ _ _ _ _ _ _ _ _ _ _ _ _ _ _ _ _ _ _ _ _ => skip); with_reducible apply Frame.upd)
    | with_reducible exact .inr rfl
    | exact .inl (Part.sub_has _ hfm (by decide))
    | exact .inl ⟨Part.sub_has _ hfm (by decide), fun h => h⟩
    | exact .inl ⟨Part.sub_has _ hfm (by decide), fun h => by simpa only [List.length_set, List.length_map, List.length_zipIdx] using h⟩

theorem takeMcast_frame {fm : List Part} {b0 : State} (s : State) (k : Nat) (e : McastEntry)
    (hfr : Frame fm b0 s) (hfm : Part.sub [.net, .stk] fm = true) : Frame fm b0 (takeMcast s k e) := by
  unfold takeMcast
  repeat' first
    | with_reducible assumption
    | exact Part.sub_trans (by decide) hfm
    | with_reducible intro _
    | with_reducible apply putStk_frame
    | ((conv in State.mk _ _ _ _ _ _ _ _ _ _ _ _ _ _ _ _ _ _ _ _ _ _ _ _ _ => skip); with_reducible apply Frame.upd)
    | with_reducible exact .inr rfl
    | exact .inl (Part.sub_has _ hfm (by decide))
    | exact .inl ⟨Part.sub_has _ hfm (by decide), fun h => h⟩
    | exact .inl ⟨Part.sub_has _ hfm (by decide), fun h => by simpa only [List.length_set, List.length_map, List.length_zipIdx] using h⟩

theorem replicate__frame {fm : List Part} {b0 : State} (s : State) (k : Nat) (e : McastEntry) (waiting : List Nat)
    (hfr : Frame fm b0 s) (hfm : Part.sub [.cyc, .tick, .tfrac, .regs, .tiles, .dram, .net, .reports, .stk, .fleet, .log] fm = true) : Frame fm b0 (replicate_ s k e waiting) := by
  unfold replicate_
  repeat' first
    | with_reducible assumption
    | exact Part.sub_trans (by decide) hfm
    | with_reducible intro _
    | (extract_lets +onlyGivenNames x; refine (fun hx => ?_ : (Frame fm b0 x) → _) ?_; (on_goal 2 => unfold x); all_goals clear_value x)
    | (extract_lets +onlyGivenNames x; refine (fun hx => ?_ : (Frame fm b0 x.1) → _) ?_; (on_goal 2 => unfold x); all_goals clear_value x)
    | (extract_lets +onlyGivenNames x; refine (fun hx => ?_ : (tileSafe x = true) → _) ?_; (on_goal 2 => unfold x); all_goals clear_value x)
    | (extract_lets +onlyGivenNames x; refine (fun hx => ?_ : (tileSafe x.1 = true) → _) ?_; (on_goal 2 => unfold x); all_goals clear_value x)
    | (extract_lets +onlyGivenNames x; refine (fun hx => ?_ : (FrameOpt fm b0 x) → _) ?_; (on_goal 2 => unfold x); all_goals clear_value x)
    | (extract_lets +onlyGivenNames x; refine (fun hx => ?_ : (Frame fm b0 x.st) → _) ?_; (on_goal 2 => unfold x); all_goals clear_value x)
    | extract_lets +onlyGivenNames x
    | with_reducible apply mputTarget_frame
    | with_reducible apply takeMcast_frame
    | with_reducible apply routeOut_frame
    | with_reducible apply putStk_frame
    | with_reducible apply Frame.foldl
    | with_reducible apply Frame.foldlFst
    | with_reducible apply Frame.ite
    | split
    | ((conv in State.mk _ _ _ _ _ _ _ _ _ _ _ _ _ _ _ _ _ _ _ _ _ _ _ _ _ => skip); with_reducible apply Frame.upd)
    | with_reducible exact .inr rfl
    | exact .inl (Part.sub_has _ hfm (by decide))
    | exact .inl ⟨Part.sub_has _ hfm (by decide), fun h => h⟩
    | exact .inl ⟨Part.sub_has _ hfm (by decide), fun h => by simpa only [List.length_set, List.length_map, List.length_zipIdx] using h⟩

theorem execMput_frame {fm : List Part} {b0 : State} (m : McastArrival) (s : State)
    (hfr : Frame fm b0 s) (hfm : Part.sub [.cyc, .tick, .tfrac, .regs, .tiles, .dram, .net, .reports, .stk, .fleet, .log] fm = true) : FrameOut fm b0 (execMput m s) := by
  unfold execMput
  repeat' first
    | with_reducible assumption
    | exact Part.sub_trans (by decide) hfm
    | with_reducible intro _
    | (extract_lets +onlyGivenNames x; refine (fun hx => ?_ : (Frame fm b0 x) → _) ?_; (on_goal 2 => unfold x); all_goals clear_value x)
    | (extract_lets +onlyGivenNames x; refine (fun hx => ?_ : (Frame fm b0 x.1) → _) ?_; (on_goal 2 => unfold x); all_goals clear_value x)
    | (extract_lets +onlyGivenNames x; refine (fun hx => ?_ : (tileSafe x = true) → _) ?_; (on_goal 2 => unfold x); all_goals clear_value x)
    | (extract_lets +onlyGivenNames x; refine (fun hx => ?_ : (tileSafe x.1 = true) → _) ?_; (on_goal 2 => unfold x); all_goals clear_value x)
    | (extract_lets +onlyGivenNames x; refine (fun hx => ?_ : (FrameOpt fm b0 x) → _) ?_; (on_goal 2 => unfold x); all_goals clear_value x)
    | (extract_lets +onlyGivenNames x; refine (fun hx => ?_ : (Frame fm b0 x.st) → _) ?_; (on_goal 2 => unfold x); all_goals clear_value x)
    | extract_lets +onlyGivenNames x
    | with_reducible apply FrameOut.next
    | with_reducible apply replicate__frame
    | with_reducible apply Frame.ite
    | split

theorem execArrive_frame {fm : List Part} {b0 : State} (p : Packet) (s : State)
    (hfr : Frame fm b0 s) (hfm : Part.sub [.cyc, .tick, .tfrac, .regs, .tiles, .net, .reports, .stk, .fleet, .chr, .serve, .log] fm = true) : FrameOut fm b0 (execArrive p s) := by
  unfold execArrive
  repeat' first
    | with_reducible assumption
    | exact Part.sub_trans (by decide) hfm
    | with_reducible intro _
    | (extract_lets +onlyGivenNames x; refine (fun hx => ?_ : (Frame fm b0 x) → _) ?_; (on_goal 2 => unfold x); all_goals clear_value x)
    | (extract_lets +onlyGivenNames x; refine (fun hx => ?_ : (Frame fm b0 x.1) → _) ?_; (on_goal 2 => unfold x); all_goals clear_value x)
    | (extract_lets +onlyGivenNames x; refine (fun hx => ?_ : (tileSafe x = true) → _) ?_; (on_goal 2 => unfold x); all_goals clear_value x)
    | (extract_lets +onlyGivenNames x; refine (fun hx => ?_ : (tileSafe x.1 = true) → _) ?_; (on_goal 2 => unfold x); all_goals clear_value x)
    | (extract_lets +onlyGivenNames x; refine (fun hx => ?_ : (FrameOpt fm b0 x) → _) ?_; (on_goal 2 => unfold x); all_goals clear_value x)
    | (extract_lets +onlyGivenNames x; refine (fun hx => ?_ : (Frame fm b0 x.st) → _) ?_; (on_goal 2 => unfold x); all_goals clear_value x)
    | extract_lets +onlyGivenNames x
    | with_reducible apply FrameOut.next
    | with_reducible apply atModule_frame
    | with_reducible apply complete_frame
    | with_reducible apply changeTile_frame
    | with_reducible apply arriveOffer_frame
    | with_reducible apply closeRound_frame
    | with_reducible apply arriveHelm_frame
    | with_reducible apply arriveAt_safe
    | with_reducible apply Frame.ite
    | (with_reducible refine Frame.ofPair ‹_ = (_, _)› ?_)
    | split
    | ((conv in State.mk _ _ _ _ _ _ _ _ _ _ _ _ _ _ _ _ _ _ _ _ _ _ _ _ _ => skip); with_reducible apply Frame.upd)
    | with_reducible exact .inr rfl
    | exact .inl (Part.sub_has _ hfm (by decide))
    | exact .inl ⟨Part.sub_has _ hfm (by decide), fun h => h⟩
    | exact .inl ⟨Part.sub_has _ hfm (by decide), fun h => by simpa only [List.length_set, List.length_map, List.length_zipIdx] using h⟩
    | ((conv in Tile.mk _ _ _ _ _ _ _ _ _ _ _ _ _ _ _ _ _ _ _ _ _ _ _ _ _ _ _ _ _ _ _ _ _ _ _ _ _ _ _ _ => skip); with_reducible apply tileSafe_upd)
    | with_reducible exact .inl rfl

theorem endHelmOp_frame {fm : List Part} {b0 : State} (s : State) (tag turn : Nat)
    (hfr : Frame fm b0 s) (hfm : Part.sub [.regs, .serve] fm = true) : Frame fm b0 (endHelmOp s tag turn) := by
  unfold endHelmOp
  repeat' first
    | with_reducible assumption
    | exact Part.sub_trans (by decide) hfm
    | with_reducible intro _
    | with_reducible apply rbump_frame
    | with_reducible apply sendHelm_frame
    | (with_reducible refine Frame.ofPair ‹_ = (_, _)› ?_)
    | split
    | ((conv in State.mk _ _ _ _ _ _ _ _ _ _ _ _ _ _ _ _ _ _ _ _ _ _ _ _ _ => skip); with_reducible apply Frame.upd)
    | with_reducible exact .inr rfl
    | exact .inl (Part.sub_has _ hfm (by decide))
    | exact .inl ⟨Part.sub_has _ hfm (by decide), fun h => h⟩
    | exact .inl ⟨Part.sub_has _ hfm (by decide), fun h => by simpa only [List.length_set, List.length_map, List.length_zipIdx] using h⟩
    | (extract_lets +onlyGivenNames x; refine (fun hx => ?_ : (Frame fm b0 x) → _) ?_; (on_goal 2 => unfold x); all_goals clear_value x)
    | (extract_lets +onlyGivenNames x; refine (fun hx => ?_ : (Frame fm b0 x.1) → _) ?_; (on_goal 2 => unfold x); all_goals clear_value x)
    | (extract_lets +onlyGivenNames x; refine (fun hx => ?_ : (tileSafe x = true) → _) ?_; (on_goal 2 => unfold x); all_goals clear_value x)
    | (extract_lets +onlyGivenNames x; refine (fun hx => ?_ : (tileSafe x.1 = true) → _) ?_; (on_goal 2 => unfold x); all_goals clear_value x)
    | (extract_lets +onlyGivenNames x; refine (fun hx => ?_ : (FrameOpt fm b0 x) → _) ?_; (on_goal 2 => unfold x); all_goals clear_value x)
    | (extract_lets +onlyGivenNames x; refine (fun hx => ?_ : (Frame fm b0 x.st) → _) ?_; (on_goal 2 => unfold x); all_goals clear_value x)

theorem responsePacket_frame {fm : List Part} {b0 : State} (s : State) (p : Packet)
    (hfr : Frame fm b0 s) (hfm : Part.sub [.cyc, .tick, .tfrac, .regs, .tiles, .net, .reports, .stk, .fleet, .serve, .log] fm = true) : Frame fm b0 (responsePacket s p) := by
  unfold responsePacket
  repeat' first
    | with_reducible assumption
    | exact Part.sub_trans (by decide) hfm
    | with_reducible intro _
    | (extract_lets +onlyGivenNames x; refine (fun hx => ?_ : (Frame fm b0 x) → _) ?_; (on_goal 2 => unfold x); all_goals clear_value x)
    | (extract_lets +onlyGivenNames x; refine (fun hx => ?_ : (Frame fm b0 x.1) → _) ?_; (on_goal 2 => unfold x); all_goals clear_value x)
    | (extract_lets +onlyGivenNames x; refine (fun hx => ?_ : (tileSafe x = true) → _) ?_; (on_goal 2 => unfold x); all_goals clear_value x)
    | (extract_lets +onlyGivenNames x; refine (fun hx => ?_ : (tileSafe x.1 = true) → _) ?_; (on_goal 2 => unfold x); all_goals clear_value x)
    | (extract_lets +onlyGivenNames x; refine (fun hx => ?_ : (FrameOpt fm b0 x) → _) ?_; (on_goal 2 => unfold x); all_goals clear_value x)
    | (extract_lets +onlyGivenNames x; refine (fun hx => ?_ : (Frame fm b0 x.st) → _) ?_; (on_goal 2 => unfold x); all_goals clear_value x)
    | extract_lets +onlyGivenNames x
    | with_reducible apply passBackAll_frame
    | with_reducible apply atModule_frame
    | with_reducible apply deliver_frame
    | with_reducible apply endHelmOp_frame
    | with_reducible apply rbump_frame
    | (with_reducible refine Frame.ofPair ‹_ = (_, _)› ?_)
    | split
    | ((conv in State.mk _ _ _ _ _ _ _ _ _ _ _ _ _ _ _ _ _ _ _ _ _ _ _ _ _ => skip); with_reducible apply Frame.upd)
    | with_reducible exact .inr rfl
    | exact .inl (Part.sub_has _ hfm (by decide))
    | exact .inl ⟨Part.sub_has _ hfm (by decide), fun h => h⟩
    | exact .inl ⟨Part.sub_has _ hfm (by decide), fun h => by simpa only [List.length_set, List.length_map, List.length_zipIdx] using h⟩
    | (extract_lets +onlyGivenNames x; refine (fun hx => ?_ : (Frame fm b0 x.2) → _) ?_; (on_goal 2 => unfold x); all_goals clear_value x)

theorem execCompletion_frame {fm : List Part} {b0 : State} (p : Packet) (s : State)
    (hfr : Frame fm b0 s) (hfm : Part.sub [.cyc, .tick, .tfrac, .regs, .tiles, .net, .reports, .stk, .fleet, .serve, .log] fm = true) : FrameOut fm b0 (execCompletion p s) := by
  unfold execCompletion
  repeat' first
    | with_reducible assumption
    | extract_lets +onlyGivenNames x
    | with_reducible apply FrameOut.next
    | with_reducible apply responsePacket_frame

theorem execGetData_frame {fm : List Part} {b0 : State} (p : Packet) (s : State)
    (hfr : Frame fm b0 s) (hfm : Part.sub [.cyc, .tick, .tfrac, .regs, .tiles, .net, .reports, .stk, .fleet, .serve, .log] fm = true) : FrameOut fm b0 (execGetData p s) := by
  unfold execGetData
  repeat' first
    | with_reducible assumption
    | extract_lets +onlyGivenNames x
    | with_reducible apply FrameOut.next
    | with_reducible apply responsePacket_frame

theorem dropBranches_frame {fm : List Part} {b0 : State} (s : State) (k : Nat) (e : McastEntry) (p : Packet)
    (hfr : Frame fm b0 s) (hfm : Part.sub [.stk] fm = true) : Frame fm b0 (dropBranches s k e p) := by
  unfold dropBranches
  repeat' first
    | with_reducible assumption
    | exact Part.sub_trans (by decide) hfm
    | with_reducible intro _
    | (extract_lets +onlyGivenNames x; refine (fun hx => ?_ : (Frame fm b0 x) → _) ?_; (on_goal 2 => unfold x); all_goals clear_value x)
    | (extract_lets +onlyGivenNames x; refine (fun hx => ?_ : (Frame fm b0 x.1) → _) ?_; (on_goal 2 => unfold x); all_goals clear_value x)
    | (extract_lets +onlyGivenNames x; refine (fun hx => ?_ : (tileSafe x = true) → _) ?_; (on_goal 2 => unfold x); all_goals clear_value x)
    | (extract_lets +onlyGivenNames x; refine (fun hx => ?_ : (tileSafe x.1 = true) → _) ?_; (on_goal 2 => unfold x); all_goals clear_value x)
    | (extract_lets +onlyGivenNames x; refine (fun hx => ?_ : (FrameOpt fm b0 x) → _) ?_; (on_goal 2 => unfold x); all_goals clear_value x)
    | (extract_lets +onlyGivenNames x; refine (fun hx => ?_ : (Frame fm b0 x.st) → _) ?_; (on_goal 2 => unfold x); all_goals clear_value x)
    | extract_lets +onlyGivenNames x
    | with_reducible apply putStk_frame
    | with_reducible apply Frame.ite
    | split
    | ((conv in State.mk _ _ _ _ _ _ _ _ _ _ _ _ _ _ _ _ _ _ _ _ _ _ _ _ _ => skip); with_reducible apply Frame.upd)
    | with_reducible exact .inr rfl
    | exact .inl (Part.sub_has _ hfm (by decide))
    | exact .inl ⟨Part.sub_has _ hfm (by decide), fun h => h⟩
    | exact .inl ⟨Part.sub_has _ hfm (by decide), fun h => by simpa only [List.length_set, List.length_map, List.length_zipIdx] using h⟩

theorem timeoutHop_frame {fm : List Part} {b0 : State} (s : State) (p : Packet)
    (hfr : Frame fm b0 s) (hfm : Part.sub [.regs, .net] fm = true) : Frame fm b0 (timeoutHop s p) := by
  unfold timeoutHop
  repeat' first
    | with_reducible assumption
    | exact Part.sub_trans (by decide) hfm
    | with_reducible intro _
    | with_reducible apply endPacket_frame

theorem recordHop_frame {fm : List Part} {b0 : State} (s : State) (where_ : Option LinkRef)
    (hfr : Frame fm b0 s) (hfm : Part.sub [.log] fm = true) : Frame fm b0 (recordHop s where_) := by
  unfold recordHop
  repeat' first
    | with_reducible assumption
    | exact Part.sub_trans (by decide) hfm
    | with_reducible intro _
    | with_reducible apply logHop_frame
    | (with_reducible refine Frame.ofPair ‹_ = (_, _)› ?_)
    | split
    | ((conv in State.mk _ _ _ _ _ _ _ _ _ _ _ _ _ _ _ _ _ _ _ _ _ _ _ _ _ => skip); with_reducible apply Frame.upd)
    | with_reducible exact .inr rfl
    | exact .inl (Part.sub_has _ hfm (by decide))
    | exact .inl ⟨Part.sub_has _ hfm (by decide), fun h => h⟩
    | exact .inl ⟨Part.sub_has _ hfm (by decide), fun h => by simpa only [List.length_set, List.length_map, List.length_zipIdx] using h⟩

theorem execHopTimeout_frame {fm : List Part} {b0 : State} (p : Packet) (where_ : Option LinkRef) (s : State)
    (hfr : Frame fm b0 s) (hfm : Part.sub [.regs, .net, .stk, .log] fm = true) : FrameOut fm b0 (execHopTimeout p where_ s) := by
  unfold execHopTimeout
  repeat' first
    | with_reducible assumption
    | exact Part.sub_trans (by decide) hfm
    | with_reducible intro _
    | with_reducible apply FrameOut.next
    | with_reducible apply timeoutHop_frame
    | with_reducible apply recordHop_frame
    | with_reducible apply dropBranches_frame
    | with_reducible apply Frame.ite
    | (with_reducible refine Frame.ofPair ‹_ = (_, _)› ?_)
    | split
    | ((conv in State.mk _ _ _ _ _ _ _ _ _ _ _ _ _ _ _ _ _ _ _ _ _ _ _ _ _ => skip); with_reducible apply Frame.upd)
    | with_reducible exact .inr rfl
    | exact .inl (Part.sub_has _ hfm (by decide))
    | exact .inl ⟨Part.sub_has _ hfm (by decide), fun h => h⟩
    | exact .inl ⟨Part.sub_has _ hfm (by decide), fun h => by simpa only [List.length_set, List.length_map, List.length_zipIdx] using h⟩
    | (extract_lets +onlyGivenNames x; refine (fun hx => ?_ : (Frame fm b0 x) → _) ?_; (on_goal 2 => unfold x); all_goals clear_value x)
    | (extract_lets +onlyGivenNames x; refine (fun hx => ?_ : (Frame fm b0 x.1) → _) ?_; (on_goal 2 => unfold x); all_goals clear_value x)
    | (extract_lets +onlyGivenNames x; refine (fun hx => ?_ : (tileSafe x = true) → _) ?_; (on_goal 2 => unfold x); all_goals clear_value x)
    | (extract_lets +onlyGivenNames x; refine (fun hx => ?_ : (tileSafe x.1 = true) → _) ?_; (on_goal 2 => unfold x); all_goals clear_value x)
    | (extract_lets +onlyGivenNames x; refine (fun hx => ?_ : (FrameOpt fm b0 x) → _) ?_; (on_goal 2 => unfold x); all_goals clear_value x)
    | (extract_lets +onlyGivenNames x; refine (fun hx => ?_ : (Frame fm b0 x.st) → _) ?_; (on_goal 2 => unfold x); all_goals clear_value x)

theorem execEndToEndTimeout_frame {fm : List Part} {b0 : State} (r : TileRef) (tag : BitVec 5) (s : State)
    (hfr : Frame fm b0 s) (hfm : Part.sub [.cyc, .tick, .tfrac, .regs, .tiles, .net, .reports, .log] fm = true) : FrameOut fm b0 (execEndToEndTimeout r tag s) := by
  unfold execEndToEndTimeout
  repeat' first
    | with_reducible assumption
    | with_reducible intro _
    | (extract_lets +onlyGivenNames x; refine (fun hx => ?_ : (SafeParts b0 → tileSafe x = true) → _) ?_; (on_goal 2 => unfold x); all_goals clear_value x)
    | extract_lets +onlyGivenNames x
    | with_reducible apply FrameOut.next
    | with_reducible apply deliver_frame
    | (refine SafeParts.tileAt (Frame.safe (m := fm) ?_ ‹SafeParts b0›) _ _)
    | split

end Sys2Proof.Machine
end

