-- ==== Sys2Proof/Laws/FramesServing.lean ====
section
/-!
SUPPORT. Frames of the operations of the model (serving): which parts of the state each can touch, and that a safe
machine stays safe.
-/

namespace Sys2Proof.Machine

theorem freeForms_frame {fm : List Part} {b0 : State} (s : State) (k x : Nat)
    (hfr : Frame fm b0 s) (hfm : Part.sub [.dram] fm = true) : Frame fm b0 (freeForms s k x) := by
  unfold freeForms
  repeat' first
    | with_reducible assumption
    | exact Part.sub_trans (by decide) hfm
    | with_reducible intro _
    | with_reducible apply unmarkForms_frame
    | with_reducible apply putCword_frame
    | with_reducible apply Frame.foldl
    | with_reducible apply Frame.foldlFst
    | with_reducible apply Frame.ite
    | split
    | extract_lets +onlyGivenNames x

theorem evictChart_frame {fm : List Part} {b0 : State} (a : ChartArgs) (s : State) (k : Nat)
    (hfr : Frame fm b0 s) (hfm : Part.sub [.regs, .dram, .stk] fm = true) : Frame fm b0 (evictChart a s k).st := by
  unfold evictChart
  repeat' first
    | with_reducible assumption
    | exact Part.sub_trans (by decide) hfm
    | with_reducible intro _
    | with_reducible apply chtFail_frame
    | with_reducible apply chtOk_frame
    | with_reducible apply evictNode_frame
    | with_reducible apply freeForms_frame
    | with_reducible apply Frame.ite
    | split
    | extract_lets +onlyGivenNames x

theorem execRutEvict_frame {fm : List Part} {b0 : State} (a : ChartArgs) (s : State)
    (hfr : Frame fm b0 s) (hfm : Part.sub [.regs, .dram, .stk] fm = true) : FrameOut fm b0 (execRutEvict a s) := by
  unfold execRutEvict
  repeat' first
    | with_reducible assumption
    | exact Part.sub_trans (by decide) hfm
    | with_reducible intro _
    | extract_lets +onlyGivenNames x
    | with_reducible apply FrameOut.next
    | with_reducible apply evictChart_frame
    | with_reducible apply runChart_frame

theorem markForms_frame {fm : List Part} {b0 : State} (s : State) (k x l : Nat)
    (hfr : Frame fm b0 s) (hfm : Part.sub [.dram] fm = true) : Frame fm b0 (markForms s k x l) := by
  unfold markForms
  repeat' first
    | with_reducible assumption
    | exact Part.sub_trans (by decide) hfm
    | with_reducible intro _
    | with_reducible apply putDesc1_frame
    | with_reducible apply Frame.foldl
    | with_reducible apply Frame.foldlFst
    | with_reducible apply Frame.ite
    | split

theorem buildForm_frame {fm : List Part} {b0 : State} (k x : Nat) (s : State) (l : Nat)
    (hfr : Frame fm b0 s) (hfm : Part.sub [.dram] fm = true) : Frame fm b0 (buildForm k x s l) := by
  unfold buildForm
  repeat' first
    | with_reducible assumption
    | exact Part.sub_trans (by decide) hfm
    | with_reducible intro _
    | (extract_lets +onlyGivenNames x; refine (fun hx => ?_ : (Frame fm b0 x) → _) ?_; (on_goal 2 => unfold x); all_goals clear_value x)
    | (extract_lets +onlyGivenNames x; refine (fun hx => ?_ : (Frame fm b0 x.1) → _) ?_; (on_goal 2 => unfold x); all_goals clear_value x)
    | (extract_lets +onlyGivenNames x; refine (fun hx => ?_ : (tileSafe x = true) → _) ?_; (on_goal 2 => unfold x); all_goals clear_value x)
    | (extract_lets +onlyGivenNames x; refine (fun hx => ?_ : (tileSafe x.1 = true) → _) ?_; (on_goal 2 => unfold x); all_goals clear_value x)
    | (extract_lets +onlyGivenNames x; refine (fun hx => ?_ : (FrameOpt fm b0 x) → _) ?_; (on_goal 2 => unfold x); all_goals clear_value x)
    | (extract_lets +onlyGivenNames x; refine (fun hx => ?_ : (Frame fm b0 x.st) → _) ?_; (on_goal 2 => unfold x); all_goals clear_value x)
    | extract_lets +onlyGivenNames x
    | with_reducible apply cwrite_frame
    | with_reducible apply markForms_frame
    | with_reducible apply Frame.foldl
    | with_reducible apply Frame.foldlFst
    | (with_reducible refine Frame.ofPair ‹_ = (_, _)› ?_)
    | split
    | ((conv in State.mk _ _ _ _ _ _ _ _ _ _ _ _ _ _ _ _ _ _ _ _ _ _ _ _ _ => skip); with_reducible apply Frame.upd)
    | with_reducible exact .inr rfl
    | exact .inl (Part.sub_has _ hfm (by decide))
    | exact .inl ⟨Part.sub_has _ hfm (by decide), fun h => h⟩
    | exact .inl ⟨Part.sub_has _ hfm (by decide), fun h => by simpa only [List.length_set, List.length_map, List.length_zipIdx] using h⟩
    | (clear_value x; split)

theorem buildForms_frame {fm : List Part} {b0 : State} (s : State) (k x : Nat) (eligible : List Nat)
    (hfr : Frame fm b0 s) (hfm : Part.sub [.dram] fm = true) : Frame fm b0 (buildForms s k x eligible) := by
  unfold buildForms
  extract_lets ls
  clear_value ls
  split
  · split
    · exact putCword_frame _ _ _ _ (Frame.foldl _ _ (fun u l hu => buildForm_frame k x u l hu (Part.sub_trans (by decide) hfm)) hfr)
        (Part.sub_trans (by decide) hfm)
    · exact hfr
  · exact hfr

theorem insertFormed_frame {fm : List Part} {b0 : State} (eligible : List Nat) (d : ChtDone) (k : Nat)
    (hfr : Frame fm b0 d.st) (hfm : Part.sub [.dram] fm = true) : Frame fm b0 (insertFormed eligible d k).st := by
  unfold insertFormed
  repeat' first
    | with_reducible assumption
    | exact Part.sub_trans (by decide) hfm
    | with_reducible intro _
    | with_reducible apply buildForms_frame
    | with_reducible apply Frame.ite
    | split
    | ((conv in State.mk _ _ _ _ _ _ _ _ _ _ _ _ _ _ _ _ _ _ _ _ _ _ _ _ _ => skip); with_reducible apply Frame.upd)
    | with_reducible exact .inr rfl
    | exact .inl (Part.sub_has _ hfm (by decide))
    | exact .inl ⟨Part.sub_has _ hfm (by decide), fun h => h⟩
    | exact .inl ⟨Part.sub_has _ hfm (by decide), fun h => by simpa only [List.length_set, List.length_map, List.length_zipIdx] using h⟩

theorem insertRing_frame {fm : List Part} {b0 : State} (a : ChartArgs) (s : State) (k : Nat)
    (hfr : Frame fm b0 s) (hfm : Part.sub [.regs, .dram, .reports, .stk] fm = true) : Frame fm b0 (insertRing a s k).st := by
  unfold insertRing
  repeat' first
    | with_reducible assumption
    | exact Part.sub_trans (by decide) hfm
    | with_reducible intro _
    | with_reducible apply insertFormed_frame
    | with_reducible apply insertChart_frame
    | (with_reducible refine Frame.ofPair ‹_ = (_, _)› ?_)
    | split
    | ((conv in State.mk _ _ _ _ _ _ _ _ _ _ _ _ _ _ _ _ _ _ _ _ _ _ _ _ _ => skip); with_reducible apply Frame.upd)
    | with_reducible exact .inr rfl
    | exact .inl (Part.sub_has _ hfm (by decide))
    | exact .inl ⟨Part.sub_has _ hfm (by decide), fun h => h⟩
    | exact .inl ⟨Part.sub_has _ hfm (by decide), fun h => by simpa only [List.length_set, List.length_map, List.length_zipIdx] using h⟩

theorem execRutInsert_frame {fm : List Part} {b0 : State} (a : ChartArgs) (s : State)
    (hfr : Frame fm b0 s) (hfm : Part.sub [.regs, .dram, .reports, .stk] fm = true) : FrameOut fm b0 (execRutInsert a s) := by
  unfold execRutInsert
  repeat' first
    | with_reducible assumption
    | exact Part.sub_trans (by decide) hfm
    | with_reducible intro _
    | with_reducible apply FrameOut.next
    | with_reducible apply runChart_frame
    | with_reducible apply insertRing_frame
    | extract_lets +onlyGivenNames x

theorem putBerth_frame {fm : List Part} {b0 : State} (s : State) (b : Nat) (v : Berth)
    (hfr : Frame fm b0 s) (hfm : Part.sub [.serve] fm = true) : Frame fm b0 (putBerth s b v) := by
  unfold putBerth
  repeat' first
    | with_reducible assumption
    | extract_lets +onlyGivenNames x
    | ((conv in State.mk _ _ _ _ _ _ _ _ _ _ _ _ _ _ _ _ _ _ _ _ _ _ _ _ _ => skip); with_reducible apply Frame.upd)
    | with_reducible exact .inr rfl
    | exact .inl ⟨Part.sub_has _ hfm (by decide), fun h => by simpa only [List.length_set, List.length_map, List.length_zipIdx] using h⟩

theorem putBerthState_frame {fm : List Part} {b0 : State} (s : State) (b v : Nat)
    (hfr : Frame fm b0 s) (hfm : Part.sub [.regs] fm = true) : Frame fm b0 (putBerthState s b v) := by
  unfold putBerthState
  repeat' first
    | with_reducible assumption
    | with_reducible apply rput_frame

theorem putCtx_frame {fm : List Part} {b0 : State} (s : State) (c : Nat) (x : Option Context)
    (hfr : Frame fm b0 s) (hfm : Part.sub [.serve] fm = true) : Frame fm b0 (putCtx s c x) := by
  unfold putCtx
  repeat' first
    | with_reducible assumption
    | extract_lets +onlyGivenNames x
    | ((conv in State.mk _ _ _ _ _ _ _ _ _ _ _ _ _ _ _ _ _ _ _ _ _ _ _ _ _ => skip); with_reducible apply Frame.upd)
    | with_reducible exact .inr rfl
    | exact .inl ⟨Part.sub_has _ hfm (by decide), fun h => h⟩

theorem putQueue_frame {fm : List Part} {b0 : State} (s : State) (c : Nat) (l : List Nat)
    (hfr : Frame fm b0 s) (hfm : Part.sub [.serve] fm = true) : Frame fm b0 (putQueue s c l) := by
  unfold putQueue
  repeat' first
    | with_reducible assumption
    | extract_lets +onlyGivenNames x
    | ((conv in State.mk _ _ _ _ _ _ _ _ _ _ _ _ _ _ _ _ _ _ _ _ _ _ _ _ _ => skip); with_reducible apply Frame.upd)
    | with_reducible exact .inr rfl
    | exact .inl ⟨Part.sub_has _ hfm (by decide), fun h => by simpa only [List.length_set, List.length_map, List.length_zipIdx] using h⟩

theorem unqueue_frame {fm : List Part} {b0 : State} (s : State) (c : Nat)
    (hfr : Frame fm b0 s) (hfm : Part.sub [.serve] fm = true) : Frame fm b0 (unqueue s c) := by
  unfold unqueue
  repeat' first
    | with_reducible assumption
    | extract_lets +onlyGivenNames x
    | ((conv in State.mk _ _ _ _ _ _ _ _ _ _ _ _ _ _ _ _ _ _ _ _ _ _ _ _ _ => skip); with_reducible apply Frame.upd)
    | with_reducible exact .inr rfl
    | exact .inl ⟨Part.sub_has _ hfm (by decide), fun h => by simpa only [List.length_set, List.length_map, List.length_zipIdx] using h⟩

theorem countEvent_frame {fm : List Part} {b0 : State} (s : State)
    (hfr : Frame fm b0 s) (hfm : Part.sub [.regs] fm = true) : Frame fm b0 (countEvent s) := by
  unfold countEvent
  repeat' first
    | with_reducible assumption
    | with_reducible apply rbump_frame

theorem helmWrite_frame {fm : List Part} {b0 : State} (s : State) (a : Nat) (bs : List Byte) (line : Option (BitVec 48 × List Byte)) (b : Nat) (notify last : Bool) (reread : Option (BitVec 48))
    (hfr : Frame fm b0 s) (hfm : Part.sub [.regs, .vil, .serve] fm = true) : Frame fm b0 (helmWrite s a bs line b notify last reread) := by
  unfold helmWrite
  repeat' first
    | with_reducible assumption
    | exact Part.sub_trans (by decide) hfm
    | (extract_lets +onlyGivenNames x; refine (fun hx => ?_ : (Frame fm b0 x) → _) ?_; (on_goal 2 => unfold x); all_goals clear_value x)
    | extract_lets +onlyGivenNames x
    | with_reducible apply writeLines_frame
    | ((conv in State.mk _ _ _ _ _ _ _ _ _ _ _ _ _ _ _ _ _ _ _ _ _ _ _ _ _ => skip); with_reducible apply Frame.upd)
    | with_reducible exact .inr rfl
    | exact .inl ⟨Part.sub_has _ hfm (by decide), fun h => h⟩

theorem writeAck_frame {fm : List Part} {b0 : State} (s : State) (line off code detail : Nat)
    (hfr : Frame fm b0 s) (hfm : Part.sub [.regs, .vil, .serve] fm = true) : Frame fm b0 (writeAck s line off code detail) := by
  unfold writeAck
  repeat' first
    | with_reducible assumption
    | with_reducible apply helmWrite_frame

theorem notifyHost_frame {fm : List Part} {b0 : State} (s : State) (b : Nat)
    (hfr : Frame fm b0 s) (hfm : Part.sub [.regs, .vil] fm = true) : Frame fm b0 (notifyHost s b) := by
  unfold notifyHost
  repeat' first
    | with_reducible assumption
    | extract_lets +onlyGivenNames x
    | with_reducible apply request_frame
    | with_reducible apply Frame.ite

theorem groupDoneThen_frame {fm : List Part} {b0 : State} (s : State) (g : WriteGroup)
    (hfr : Frame fm b0 s) (hfm : Part.sub [.regs, .vil, .serve] fm = true) : Frame fm b0 (groupDoneThen s g) := by
  unfold groupDoneThen
  repeat' first
    | with_reducible assumption
    | exact Part.sub_trans (by decide) hfm
    | (extract_lets +onlyGivenNames x; refine (fun hx => ?_ : (Frame fm b0 x) → _) ?_; (on_goal 2 => unfold x); all_goals clear_value x)
    | extract_lets +onlyGivenNames x
    | with_reducible apply notifyHost_frame
    | with_reducible apply helmWrite_frame
    | with_reducible apply putBerthState_frame
    | with_reducible apply watchRead_frame
    | with_reducible apply Frame.ite
    | split

theorem endGroup_frame {fm : List Part} {b0 : State} (s : State) (g : WriteGroup)
    (hfr : Frame fm b0 s) (hfm : Part.sub [.regs, .vil, .serve] fm = true) : Frame fm b0 (endGroup s g) := by
  unfold endGroup
  repeat' first
    | with_reducible assumption
    | exact Part.sub_trans (by decide) hfm
    | with_reducible intro _
    | with_reducible apply groupDoneThen_frame
    | ((conv in State.mk _ _ _ _ _ _ _ _ _ _ _ _ _ _ _ _ _ _ _ _ _ _ _ _ _ => skip); with_reducible apply Frame.upd)
    | with_reducible exact .inr rfl
    | exact .inl (Part.sub_has _ hfm (by decide))
    | exact .inl ⟨Part.sub_has _ hfm (by decide), fun h => h⟩
    | exact .inl ⟨Part.sub_has _ hfm (by decide), fun h => by simpa only [List.length_set, List.length_map, List.length_zipIdx] using h⟩

theorem flushLines_frame {fm : List Part} {b0 : State} (s : State) (b : Nat)
    (hfr : Frame fm b0 s) (hfm : Part.sub [.regs, .vil, .serve] fm = true) : Frame fm b0 (flushLines s b) := by
  unfold flushLines
  repeat' first
    | with_reducible assumption
    | exact Part.sub_trans (by decide) hfm
    | with_reducible intro _
    | with_reducible apply endGroup_frame
    | with_reducible apply Frame.foldl
    | with_reducible apply Frame.foldlFst

theorem groupCmp_frame {fm : List Part} {b0 : State} (s : State) (n : Nat)
    (hfr : Frame fm b0 s) (hfm : Part.sub [.regs, .vil, .serve] fm = true) : Frame fm b0 (groupCmp s n) := by
  unfold groupCmp
  repeat' first
    | with_reducible assumption
    | exact Part.sub_trans (by decide) hfm
    | with_reducible intro _
    | with_reducible apply endGroup_frame
    | with_reducible apply flushLines_frame
    | with_reducible apply Frame.ite
    | (with_reducible refine Frame.ofPair ‹_ = (_, _)› ?_)
    | split
    | ((conv in State.mk _ _ _ _ _ _ _ _ _ _ _ _ _ _ _ _ _ _ _ _ _ _ _ _ _ => skip); with_reducible apply Frame.upd)
    | with_reducible exact .inr rfl
    | exact .inl (Part.sub_has _ hfm (by decide))
    | exact .inl ⟨Part.sub_has _ hfm (by decide), fun h => h⟩
    | exact .inl ⟨Part.sub_has _ hfm (by decide), fun h => by simpa only [List.length_set, List.length_map, List.length_zipIdx] using h⟩
    | extract_lets +onlyGivenNames x

theorem markLine_frame {fm : List Part} {b0 : State} (s : State) (l : Line)
    (hfr : Frame fm b0 s) (hfm : Part.sub [.serve] fm = true) : Frame fm b0 (markLine s l) := by
  unfold markLine
  repeat' first
    | with_reducible assumption
    | extract_lets +onlyGivenNames x
    | ((conv in State.mk _ _ _ _ _ _ _ _ _ _ _ _ _ _ _ _ _ _ _ _ _ _ _ _ _ => skip); with_reducible apply Frame.upd)
    | with_reducible exact .inr rfl
    | exact .inl ⟨Part.sub_has _ hfm (by decide), fun h => h⟩

theorem writeBareLine_frame {fm : List Part} {b0 : State} (s : State) (cpl : Nat) (line : List Byte) (b : Nat) (final : Bool)
    (hfr : Frame fm b0 s) (hfm : Part.sub [.regs, .vil, .serve] fm = true) : Frame fm b0 (writeBareLine s cpl line b final) := by
  unfold writeBareLine
  repeat' first
    | with_reducible assumption
    | exact Part.sub_trans (by decide) hfm
    | with_reducible intro _
    | with_reducible apply helmWrite_frame
    | with_reducible apply Frame.ite
    | split
    | ((conv in State.mk _ _ _ _ _ _ _ _ _ _ _ _ _ _ _ _ _ _ _ _ _ _ _ _ _ => skip); with_reducible apply Frame.upd)
    | with_reducible exact .inr rfl
    | exact .inl (Part.sub_has _ hfm (by decide))
    | exact .inl ⟨Part.sub_has _ hfm (by decide), fun h => h⟩
    | exact .inl ⟨Part.sub_has _ hfm (by decide), fun h => by simpa only [List.length_set, List.length_map, List.length_zipIdx] using h⟩

theorem sweepVersions_frame {fm : List Part} {b0 : State} (s : State)
    (hfr : Frame fm b0 s) (hfm : Part.sub [.serve] fm = true) : Frame fm b0 (sweepVersions s) := by
  unfold sweepVersions
  repeat' first
    | with_reducible assumption
    | extract_lets +onlyGivenNames x
    | ((conv in State.mk _ _ _ _ _ _ _ _ _ _ _ _ _ _ _ _ _ _ _ _ _ _ _ _ _ => skip); with_reducible apply Frame.upd)
    | with_reducible exact .inr rfl
    | exact .inl ⟨Part.sub_has _ hfm (by decide), fun h => h⟩

theorem chartOp_frame {fm : List Part} {b0 : State} (a : ChartArgs) (s : State) (k : Nat)
    (hfr : Frame fm b0 s) (hfm : Part.sub [.regs, .dram, .reports, .stk] fm = true) : Frame fm b0 (chartOp a s k).st := by
  unfold chartOp
  repeat' first
    | with_reducible assumption
    | exact Part.sub_trans (by decide) hfm
    | with_reducible intro _
    | with_reducible apply openChart_frame
    | with_reducible apply mapChart_frame
    | with_reducible apply forkChart_frame
    | with_reducible apply allocChart_frame
    | with_reducible apply cowChart_frame
    | with_reducible apply advChart_frame
    | with_reducible apply freeChart_frame
    | with_reducible apply pinChart_frame
    | with_reducible apply lookupChart_frame
    | with_reducible apply insertRing_frame
    | with_reducible apply evictChart_frame
    | with_reducible apply chtFail_frame
    | (with_reducible refine Frame.ofPair ‹_ = (_, _)› ?_)
    | split
    | ((conv in State.mk _ _ _ _ _ _ _ _ _ _ _ _ _ _ _ _ _ _ _ _ _ _ _ _ _ => skip); with_reducible apply Frame.upd)
    | with_reducible exact .inr rfl
    | exact .inl (Part.sub_has _ hfm (by decide))
    | exact .inl ⟨Part.sub_has _ hfm (by decide), fun h => h⟩
    | exact .inl ⟨Part.sub_has _ hfm (by decide), fun h => by simpa only [List.length_set, List.length_map, List.length_zipIdx] using h⟩

theorem serveRing_frame {fm : List Part} {b0 : State} (k n : Nat) (s : State) (hfr : Frame fm b0 s)
    (hfm : Part.sub [.regs, .dram, .reports, .stk] fm = true) : Frame fm b0 (serveRing k n s) := by
  induction n generalizing s with
  | zero => exact hfr
  | succ n ih =>
    unfold serveRing
    exact Frame.ite (ih _ (runRing_frame _ _ _ _ hfr (fun u y hu => chartOp_frame _ u y hu (Part.sub_trans (by decide) hfm))
      (Part.sub_trans (by decide) hfm))) hfr

theorem helmChart_frame {fm : List Part} {b0 : State} (s : State) (k op c page count : Nat) (arg0 arg1 arg2 : Nat) (f : ChartArgs → State → Nat → ChtDone)
    (hfr : Frame fm b0 s) (hf : ∀ y0 u y2, Frame fm b0 u → Frame fm b0 (f y0 u y2).st) (hfm : Part.sub [.regs, .dram, .reports, .stk] fm = true) : Frame fm b0 (helmChart s k op c page count arg0 arg1 arg2 f).st := by
  unfold helmChart
  repeat' first
    | with_reducible assumption
    | exact Part.sub_trans (by decide) hfm
    | with_reducible intro _
    | (extract_lets +onlyGivenNames x; refine (fun hx => ?_ : (Frame fm b0 x) → _) ?_; (on_goal 2 => unfold x); all_goals clear_value x)
    | (extract_lets +onlyGivenNames x; refine (fun hx => ?_ : (Frame fm b0 x.1) → _) ?_; (on_goal 2 => unfold x); all_goals clear_value x)
    | (extract_lets +onlyGivenNames x; refine (fun hx => ?_ : (tileSafe x = true) → _) ?_; (on_goal 2 => unfold x); all_goals clear_value x)
    | (extract_lets +onlyGivenNames x; refine (fun hx => ?_ : (tileSafe x.1 = true) → _) ?_; (on_goal 2 => unfold x); all_goals clear_value x)
    | (extract_lets +onlyGivenNames x; refine (fun hx => ?_ : (FrameOpt fm b0 x) → _) ?_; (on_goal 2 => unfold x); all_goals clear_value x)
    | (extract_lets +onlyGivenNames x; refine (fun hx => ?_ : (Frame fm b0 x.st) → _) ?_; (on_goal 2 => unfold x); all_goals clear_value x)
    | extract_lets +onlyGivenNames x
    | with_reducible apply hf
    | with_reducible apply serveRing_frame
    | with_reducible apply cwrite_frame
    | with_reducible apply runRing_frame
    | with_reducible apply rput_frame
    | with_reducible apply chtFail_frame
    | with_reducible apply Frame.ite
    | split

theorem freeAll_frame {fm : List Part} {b0 : State} (s : State) (c : Nat)
    (hfr : Frame fm b0 s) (hfm : Part.sub [.regs, .dram, .reports, .stk] fm = true) : Frame fm b0 (freeAll s c) := by
  unfold freeAll
  repeat' first
    | with_reducible assumption
    | exact Part.sub_trans (by decide) hfm
    | with_reducible intro _
    | with_reducible apply helmChart_frame
    | with_reducible apply freeChart_frame
    | with_reducible apply Frame.foldl
    | with_reducible apply Frame.foldlFst
    | with_reducible apply Frame.ite
    | split

theorem freeEnded_frame {fm : List Part} {b0 : State} (s : State) (r : ReportRec)
    (hfr : Frame fm b0 s) (hfm : Part.sub [.regs, .dram, .reports, .stk, .serve] fm = true) : Frame fm b0 (freeEnded s r) := by
  unfold freeEnded
  repeat' first
    | with_reducible assumption
    | exact Part.sub_trans (by decide) hfm
    | with_reducible intro _
    | with_reducible apply putCtx_frame
    | with_reducible apply freeAll_frame
    | with_reducible apply Frame.ite
    | (with_reducible refine Frame.ofPair ‹_ = (_, _)› ?_)
    | split
    | ((conv in State.mk _ _ _ _ _ _ _ _ _ _ _ _ _ _ _ _ _ _ _ _ _ _ _ _ _ => skip); with_reducible apply Frame.upd)
    | with_reducible exact .inr rfl
    | exact .inl (Part.sub_has _ hfm (by decide))
    | exact .inl ⟨Part.sub_has _ hfm (by decide), fun h => h⟩
    | exact .inl ⟨Part.sub_has _ hfm (by decide), fun h => by simpa only [List.length_set, List.length_map, List.length_zipIdx] using h⟩

theorem writeReport_frame {fm : List Part} {b0 : State} (s : State) (b : Nat) (recs : List ReportRec) (watch : Word) (tick : Nat) (final waited : Bool)
    (hfr : Frame fm b0 s) (hfm : Part.sub [.regs, .dram, .reports, .stk, .vil, .serve] fm = true) : Frame fm b0 (writeReport s b recs watch tick final waited) := by
  unfold writeReport
  repeat' first
    | with_reducible assumption
    | exact Part.sub_trans (by decide) hfm
    | with_reducible intro _
    | (extract_lets +onlyGivenNames x; refine (fun hx => ?_ : (Frame fm b0 x) → _) ?_; (on_goal 2 => unfold x); all_goals clear_value x)
    | (extract_lets +onlyGivenNames x; refine (fun hx => ?_ : (Frame fm b0 x.1) → _) ?_; (on_goal 2 => unfold x); all_goals clear_value x)
    | (extract_lets +onlyGivenNames x; refine (fun hx => ?_ : (tileSafe x = true) → _) ?_; (on_goal 2 => unfold x); all_goals clear_value x)
    | (extract_lets +onlyGivenNames x; refine (fun hx => ?_ : (tileSafe x.1 = true) → _) ?_; (on_goal 2 => unfold x); all_goals clear_value x)
    | (extract_lets +onlyGivenNames x; refine (fun hx => ?_ : (FrameOpt fm b0 x) → _) ?_; (on_goal 2 => unfold x); all_goals clear_value x)
    | (extract_lets +onlyGivenNames x; refine (fun hx => ?_ : (Frame fm b0 x.st) → _) ?_; (on_goal 2 => unfold x); all_goals clear_value x)
    | extract_lets +onlyGivenNames x
    | with_reducible apply putBerth_frame
    | with_reducible apply rput_frame
    | with_reducible apply rbump_frame
    | with_reducible apply writeBareLine_frame
    | with_reducible apply writeLines_frame
    | with_reducible apply freeEnded_frame
    | with_reducible apply waited_safe
    | with_reducible apply Frame.foldl
    | with_reducible apply Frame.foldlFst
    | (with_reducible refine Frame.ofPair ‹_ = (_, _)› ?_)
    | split
    | ((conv in State.mk _ _ _ _ _ _ _ _ _ _ _ _ _ _ _ _ _ _ _ _ _ _ _ _ _ => skip); with_reducible apply Frame.upd)
    | with_reducible exact .inr rfl
    | exact .inl (Part.sub_has _ hfm (by decide))
    | exact .inl ⟨Part.sub_has _ hfm (by decide), fun h => h⟩
    | exact .inl ⟨Part.sub_has _ hfm (by decide), fun h => by simpa only [List.length_set, List.length_map, List.length_zipIdx] using h⟩

theorem report_frame {fm : List Part} {b0 : State} (s : State) (b : Nat) (recs : List ReportRec) (final : Bool)
    (hfr : Frame fm b0 s) (hfm : Part.sub [.regs, .dram, .reports, .stk, .vil, .serve] fm = true) : Frame fm b0 (report s b recs final) := by
  unfold report
  repeat' first
    | with_reducible assumption
    | exact Part.sub_trans (by decide) hfm
    | (extract_lets +onlyGivenNames x; refine (fun hx => ?_ : (Frame fm b0 x) → _) ?_; (on_goal 2 => unfold x); all_goals clear_value x)
    | extract_lets +onlyGivenNames x
    | with_reducible apply writeReport_frame
    | with_reducible apply putBerth_frame
    | with_reducible apply rbump_frame
    | with_reducible apply rput_frame
    | with_reducible apply Frame.ite

theorem releaseOne_frame {fm : List Part} {b0 : State} (b : Nat) (s : State) (h : HeldReport)
    (hfr : Frame fm b0 s) (hfm : Part.sub [.regs, .dram, .reports, .stk, .vil, .serve] fm = true) : Frame fm b0 (releaseOne b s h) := by
  unfold releaseOne
  repeat' first
    | with_reducible assumption
    | exact Part.sub_trans (by decide) hfm
    | (extract_lets +onlyGivenNames x; refine (fun hx => ?_ : (Frame fm b0 x) → _) ?_; (on_goal 2 => unfold x); all_goals clear_value x)
    | extract_lets +onlyGivenNames x
    | with_reducible apply writeReport_frame
    | with_reducible apply putBerth_frame
    | with_reducible apply rput_frame
    | with_reducible apply Frame.ite

theorem releaseHeld_frame {fm : List Part} {b0 : State} (s : State) (b : Nat)
    (hfr : Frame fm b0 s) (hfm : Part.sub [.regs, .dram, .reports, .stk, .vil, .serve] fm = true) : Frame fm b0 (releaseHeld s b) := by
  unfold releaseHeld
  repeat' first
    | with_reducible assumption
    | with_reducible intro _
    | extract_lets +onlyGivenNames x
    | with_reducible apply releaseOne_frame
    | with_reducible apply Frame.foldl

theorem openAll_frame {fm : List Part} {b0 : State} (s : State) (b c : Nat)
    (hfr : Frame fm b0 s) (hfm : Part.sub [.regs, .dram, .reports, .stk] fm = true) : Frame fm b0 (openAll s b c) := by
  unfold openAll
  repeat' first
    | with_reducible assumption
    | exact Part.sub_trans (by decide) hfm
    | with_reducible intro _
    | with_reducible apply helmChart_frame
    | with_reducible apply openChart_frame
    | with_reducible apply Frame.foldl
    | with_reducible apply Frame.foldlFst
    | (with_reducible refine Frame.ofPair ‹_ = (_, _)› ?_)
    | split
    | ((conv in State.mk _ _ _ _ _ _ _ _ _ _ _ _ _ _ _ _ _ _ _ _ _ _ _ _ _ => skip); with_reducible apply Frame.upd)
    | with_reducible exact .inr rfl
    | exact .inl (Part.sub_has _ hfm (by decide))
    | exact .inl ⟨Part.sub_has _ hfm (by decide), fun h => h⟩
    | exact .inl ⟨Part.sub_has _ hfm (by decide), fun h => by simpa only [List.length_set, List.length_map, List.length_zipIdx] using h⟩
    | extract_lets +onlyGivenNames x

theorem advAll_frame {fm : List Part} {b0 : State} (s : State) (b c n : Nat)
    (hfr : Frame fm b0 s) (hfm : Part.sub [.regs, .dram, .reports, .stk] fm = true) : Frame fm b0 (advAll s b c n) := by
  unfold advAll
  repeat' first
    | with_reducible assumption
    | exact Part.sub_trans (by decide) hfm
    | with_reducible intro _
    | with_reducible apply helmChart_frame
    | with_reducible apply advChart_frame
    | with_reducible apply Frame.foldl
    | with_reducible apply Frame.foldlFst
    | extract_lets +onlyGivenNames x

theorem lookupIn_frame {fm : List Part} {b0 : State} (s : State) (k c : Nat) (root : Dword) (bs : List (List Nat))
    (hfr : Frame fm b0 s) (hfm : Part.sub [.regs, .dram, .reports, .stk] fm = true) : Frame fm b0 (lookupIn s k c root bs).st := by
  unfold lookupIn
  repeat' first
    | with_reducible assumption
    | exact Part.sub_trans (by decide) hfm
    | with_reducible intro _
    | with_reducible apply helmChart_frame
    | with_reducible apply lookupToks_frame

theorem prefixMap_frame {fm : List Part} {b0 : State} (s : State) (b c : Nat) (x : Context)
    (hfr : Frame fm b0 s) (hfm : Part.sub [.regs, .dram, .reports, .stk] fm = true) : Frame fm b0 (prefixMap s b c x).1 := by
  unfold prefixMap
  repeat' first
    | with_reducible assumption
    | exact Part.sub_trans (by decide) hfm
    | with_reducible intro _
    | (extract_lets +onlyGivenNames x; refine (fun hx => ?_ : (Frame fm b0 x) → _) ?_; (on_goal 2 => unfold x); all_goals clear_value x)
    | (extract_lets +onlyGivenNames x; refine (fun hx => ?_ : (Frame fm b0 x.1) → _) ?_; (on_goal 2 => unfold x); all_goals clear_value x)
    | (extract_lets +onlyGivenNames x; refine (fun hx => ?_ : (tileSafe x = true) → _) ?_; (on_goal 2 => unfold x); all_goals clear_value x)
    | (extract_lets +onlyGivenNames x; refine (fun hx => ?_ : (tileSafe x.1 = true) → _) ?_; (on_goal 2 => unfold x); all_goals clear_value x)
    | (extract_lets +onlyGivenNames x; refine (fun hx => ?_ : (FrameOpt fm b0 x) → _) ?_; (on_goal 2 => unfold x); all_goals clear_value x)
    | (extract_lets +onlyGivenNames x; refine (fun hx => ?_ : (Frame fm b0 x.st) → _) ?_; (on_goal 2 => unfold x); all_goals clear_value x)
    | extract_lets +onlyGivenNames x
    | with_reducible apply lookupIn_frame
    | with_reducible apply helmChart_frame
    | with_reducible apply mapChart_frame
    | with_reducible apply openAll_frame
    | with_reducible apply freeAll_frame
    | with_reducible apply Frame.foldl
    | with_reducible apply Frame.foldlFst
    | with_reducible apply Frame.ite
    | split

theorem preparePages_frame {fm : List Part} {b0 : State} (k c t0 m : Nat) (s : State)
    (hfr : Frame fm b0 s) (hfm : Part.sub [.regs, .dram, .reports, .stk] fm = true) : Frame fm b0 (preparePages k c t0 m s).1 := by
  unfold preparePages
  repeat' first
    | with_reducible assumption
    | exact Part.sub_trans (by decide) hfm
    | with_reducible intro _
    | (extract_lets +onlyGivenNames x; refine (fun hx => ?_ : (Frame fm b0 x) → _) ?_; (on_goal 2 => unfold x); all_goals clear_value x)
    | (extract_lets +onlyGivenNames x; refine (fun hx => ?_ : (Frame fm b0 x.1) → _) ?_; (on_goal 2 => unfold x); all_goals clear_value x)
    | (extract_lets +onlyGivenNames x; refine (fun hx => ?_ : (tileSafe x = true) → _) ?_; (on_goal 2 => unfold x); all_goals clear_value x)
    | (extract_lets +onlyGivenNames x; refine (fun hx => ?_ : (tileSafe x.1 = true) → _) ?_; (on_goal 2 => unfold x); all_goals clear_value x)
    | (extract_lets +onlyGivenNames x; refine (fun hx => ?_ : (FrameOpt fm b0 x) → _) ?_; (on_goal 2 => unfold x); all_goals clear_value x)
    | (extract_lets +onlyGivenNames x; refine (fun hx => ?_ : (Frame fm b0 x.st) → _) ?_; (on_goal 2 => unfold x); all_goals clear_value x)
    | extract_lets +onlyGivenNames x
    | with_reducible apply chtOk_frame
    | with_reducible apply helmChart_frame
    | with_reducible apply cowChart_frame
    | with_reducible apply allocChart_frame
    | with_reducible apply Frame.foldl
    | with_reducible apply Frame.foldlFst
    | with_reducible apply Frame.ite
    | split

theorem evictUntil_frame {fm : List Part} {b0 : State} (k need n : Nat) (s : State) (hfr : Frame fm b0 s)
    (hfm : Part.sub [.regs, .dram, .reports, .stk] fm = true) : Frame fm b0 (evictUntil k need n s) := by
  induction n generalizing s with
  | zero => exact hfr
  | succ n ih =>
    unfold evictUntil
    refine Frame.ite hfr ?_
    split
    · exact ih _ (helmChart_frame _ _ _ _ _ _ _ _ _ _ (freeForms_frame _ _ _ hfr (Part.sub_trans (by decide) hfm))
        (fun a u y hu => evictChart_frame a u y hu (Part.sub_trans (by decide) hfm)) (Part.sub_trans (by decide) hfm))
    · exact hfr

theorem evictForRoom_frame {fm : List Part} {b0 : State} (s : State) (b t0 m : Nat) (ks : List Nat)
    (hfr : Frame fm b0 s) (hfm : Part.sub [.regs, .dram, .reports, .stk] fm = true) : Frame fm b0 (evictForRoom s b t0 m ks) := by
  unfold evictForRoom
  repeat' first
    | with_reducible assumption
    | exact Part.sub_trans (by decide) hfm
    | with_reducible intro _
    | (extract_lets +onlyGivenNames x; refine (fun hx => ?_ : (Frame fm b0 x) → _) ?_; (on_goal 2 => unfold x); all_goals clear_value x)
    | (extract_lets +onlyGivenNames x; refine (fun hx => ?_ : (Frame fm b0 x.1) → _) ?_; (on_goal 2 => unfold x); all_goals clear_value x)
    | (extract_lets +onlyGivenNames x; refine (fun hx => ?_ : (tileSafe x = true) → _) ?_; (on_goal 2 => unfold x); all_goals clear_value x)
    | (extract_lets +onlyGivenNames x; refine (fun hx => ?_ : (tileSafe x.1 = true) → _) ?_; (on_goal 2 => unfold x); all_goals clear_value x)
    | (extract_lets +onlyGivenNames x; refine (fun hx => ?_ : (FrameOpt fm b0 x) → _) ?_; (on_goal 2 => unfold x); all_goals clear_value x)
    | (extract_lets +onlyGivenNames x; refine (fun hx => ?_ : (Frame fm b0 x.st) → _) ?_; (on_goal 2 => unfold x); all_goals clear_value x)
    | extract_lets +onlyGivenNames x
    | with_reducible apply evictUntil_frame
    | with_reducible apply Frame.foldl
    | with_reducible apply Frame.foldlFst
    | (with_reducible refine Frame.ofPair ‹_ = (_, _)› ?_)
    | split
    | ((conv in State.mk _ _ _ _ _ _ _ _ _ _ _ _ _ _ _ _ _ _ _ _ _ _ _ _ _ => skip); with_reducible apply Frame.upd)
    | with_reducible exact .inr rfl
    | exact .inl (Part.sub_has _ hfm (by decide))
    | exact .inl ⟨Part.sub_has _ hfm (by decide), fun h => h⟩
    | exact .inl ⟨Part.sub_has _ hfm (by decide), fun h => by simpa only [List.length_set, List.length_map, List.length_zipIdx] using h⟩

theorem insertOne_frame {fm : List Part} {b0 : State} (s : State) (b k c j : Nat) (x : Context) (above : Nat) (toks : List Nat)
    (hfr : Frame fm b0 s) (hfm : Part.sub [.regs, .dram, .reports, .stk] fm = true) : Frame fm b0 (insertOne s b k c j x above toks) := by
  unfold insertOne
  repeat' first
    | with_reducible assumption
    | exact Part.sub_trans (by decide) hfm
    | with_reducible intro _
    | with_reducible apply helmChart_frame
    | with_reducible apply insertFormed_frame
    | with_reducible apply insertBlock_frame
    | (extract_lets +onlyGivenNames x; refine (fun hx => ?_ : (Frame fm b0 x.1) → _) ?_; (on_goal 2 => unfold x); all_goals clear_value x)

theorem insertBlocks_frame {fm : List Part} {b0 : State} (s : State) (b c : Nat) (x : Context)
    (hfr : Frame fm b0 s) (hfm : Part.sub [.regs, .dram, .reports, .stk] fm = true) : Frame fm b0 (insertBlocks s b c x) := by
  unfold insertBlocks
  repeat' first
    | with_reducible assumption
    | exact Part.sub_trans (by decide) hfm
    | with_reducible intro _
    | (extract_lets +onlyGivenNames x; refine (fun hx => ?_ : (Frame fm b0 x) → _) ?_; (on_goal 2 => unfold x); all_goals clear_value x)
    | (extract_lets +onlyGivenNames x; refine (fun hx => ?_ : (Frame fm b0 x.1) → _) ?_; (on_goal 2 => unfold x); all_goals clear_value x)
    | (extract_lets +onlyGivenNames x; refine (fun hx => ?_ : (tileSafe x = true) → _) ?_; (on_goal 2 => unfold x); all_goals clear_value x)
    | (extract_lets +onlyGivenNames x; refine (fun hx => ?_ : (tileSafe x.1 = true) → _) ?_; (on_goal 2 => unfold x); all_goals clear_value x)
    | (extract_lets +onlyGivenNames x; refine (fun hx => ?_ : (FrameOpt fm b0 x) → _) ?_; (on_goal 2 => unfold x); all_goals clear_value x)
    | (extract_lets +onlyGivenNames x; refine (fun hx => ?_ : (Frame fm b0 x.st) → _) ?_; (on_goal 2 => unfold x); all_goals clear_value x)
    | extract_lets +onlyGivenNames x
    | with_reducible apply lookupBlocks_frame
    | with_reducible apply insertOne_frame
    | with_reducible apply Frame.foldl
    | with_reducible apply Frame.foldlFst
    | with_reducible apply Frame.ite
    | split

theorem helmPoke_frame {fm : List Part} {b0 : State} (s : State) (a : Dword) (bs : List Byte)
    (hfr : Frame fm b0 s) (hfm : Part.sub [.cyc, .tick, .tfrac, .regs, .tiles, .dram, .net, .reports, .log] fm = true) : Frame fm b0 (helmPoke s a bs) := by
  unfold helmPoke
  repeat' first
    | with_reducible assumption
    | exact Part.sub_trans (by decide) hfm
    | with_reducible intro _
    | with_reducible apply destWrite_frame

theorem writeSlotMap_frame {fm : List Part} {b0 : State} (s : State) (b n : Nat) (x : Option (Nat × Nat))
    (hfr : Frame fm b0 s) (hfm : Part.sub [.regs] fm = true) : Frame fm b0 (writeSlotMap s b n x) := by
  unfold writeSlotMap
  repeat' first
    | with_reducible assumption
    | with_reducible intro _
    | extract_lets +onlyGivenNames x
    | with_reducible apply setRword_frame
    | with_reducible apply Frame.foldl

theorem writeSlot_frame {fm : List Part} {b0 : State} (s : State) (b : Nat) (e : SlotEntry)
    (hfr : Frame fm b0 s) (hfm : Part.sub [.cyc, .tick, .tfrac, .regs, .tiles, .dram, .net, .reports, .log] fm = true) : Frame fm b0 (writeSlot s b e) := by
  unfold writeSlot
  repeat' first
    | with_reducible assumption
    | exact Part.sub_trans (by decide) hfm
    | with_reducible intro _
    | (extract_lets +onlyGivenNames x; refine (fun hx => ?_ : (Frame fm b0 x) → _) ?_; (on_goal 2 => unfold x); all_goals clear_value x)
    | (extract_lets +onlyGivenNames x; refine (fun hx => ?_ : (Frame fm b0 x.1) → _) ?_; (on_goal 2 => unfold x); all_goals clear_value x)
    | (extract_lets +onlyGivenNames x; refine (fun hx => ?_ : (tileSafe x = true) → _) ?_; (on_goal 2 => unfold x); all_goals clear_value x)
    | (extract_lets +onlyGivenNames x; refine (fun hx => ?_ : (tileSafe x.1 = true) → _) ?_; (on_goal 2 => unfold x); all_goals clear_value x)
    | (extract_lets +onlyGivenNames x; refine (fun hx => ?_ : (FrameOpt fm b0 x) → _) ?_; (on_goal 2 => unfold x); all_goals clear_value x)
    | (extract_lets +onlyGivenNames x; refine (fun hx => ?_ : (Frame fm b0 x.st) → _) ?_; (on_goal 2 => unfold x); all_goals clear_value x)
    | extract_lets +onlyGivenNames x
    | with_reducible apply writeSlotMap_frame
    | with_reducible apply helmPoke_frame
    | with_reducible apply Frame.foldl
    | with_reducible apply Frame.foldlFst
    | (with_reducible refine Frame.ofPair ‹_ = (_, _)› ?_)
    | split
    | ((conv in State.mk _ _ _ _ _ _ _ _ _ _ _ _ _ _ _ _ _ _ _ _ _ _ _ _ _ => skip); with_reducible apply Frame.upd)
    | with_reducible exact .inr rfl
    | exact .inl (Part.sub_has _ hfm (by decide))
    | exact .inl ⟨Part.sub_has _ hfm (by decide), fun h => h⟩
    | exact .inl ⟨Part.sub_has _ hfm (by decide), fun h => by simpa only [List.length_set, List.length_map, List.length_zipIdx] using h⟩

theorem dropContext_frame {fm : List Part} {b0 : State} (s : State) (c : Nat)
    (hfr : Frame fm b0 s) (hfm : Part.sub [.serve] fm = true) : Frame fm b0 (dropContext s c) := by
  unfold dropContext
  repeat' first
    | with_reducible assumption
    | exact Part.sub_trans (by decide) hfm
    | with_reducible intro _
    | with_reducible apply putCtx_frame
    | with_reducible apply unqueue_frame
    | (with_reducible refine Frame.ofPair ‹_ = (_, _)› ?_)
    | split
    | ((conv in State.mk _ _ _ _ _ _ _ _ _ _ _ _ _ _ _ _ _ _ _ _ _ _ _ _ _ => skip); with_reducible apply Frame.upd)
    | with_reducible exact .inr rfl
    | exact .inl (Part.sub_has _ hfm (by decide))
    | exact .inl ⟨Part.sub_has _ hfm (by decide), fun h => h⟩
    | exact .inl ⟨Part.sub_has _ hfm (by decide), fun h => by simpa only [List.length_set, List.length_map, List.length_zipIdx] using h⟩

theorem startTile_frame {m : List Part} {s0 : State} (s : State) (r : TileRef) (pcs : List (Engine × BitVec 9))
    (h : Frame m s0 s) (hm : Part.sub [.cyc, .tick, .tfrac, .regs, .tiles, .net, .reports, .log, .pwr] m = true) : Frame m s0 (startTile s r pcs) := by
  unfold startTile
  exact askStart_frame _ _ _ (changeTile_frame _ _ _ (fun c t ht => slotsFrom_safe _ _ (setRunOn_safe _ (foldl_safe _ _
    (fun u x hu => setStart_safe u x hu) _ (setRunOff_safe _ ht)))) h (Part.sub_trans (by decide) hm))
    (Part.sub_trans (by decide) hm)

theorem startLoads_frame {fm : List Part} {b0 : State} (s : State) (ps : List TileProgram)
    (hfr : Frame fm b0 s) (hfm : Part.sub [.cyc, .tick, .tfrac, .regs, .tiles, .net, .reports, .log, .pwr] fm = true) : Frame fm b0 (startLoads s ps) := by
  unfold startLoads
  repeat' first
    | with_reducible assumption
    | with_reducible intro _
    | extract_lets +onlyGivenNames x
    | with_reducible apply startTile_frame
    | with_reducible apply Frame.foldl

theorem startSteps_frame {fm : List Part} {b0 : State} (s : State) (ps : List TileProgram)
    (hfr : Frame fm b0 s) (hfm : Part.sub [.cyc, .tick, .tfrac, .regs, .tiles, .net, .reports, .log, .pwr, .rst] fm = true) : Frame fm b0 (startSteps s ps) := by
  unfold startSteps
  repeat' first
    | with_reducible assumption
    | exact Part.sub_trans (by decide) hfm
    | with_reducible intro _
    | extract_lets +onlyGivenNames x
    | with_reducible apply startTile_frame
    | with_reducible apply Frame.foldl
    | ((conv in State.mk _ _ _ _ _ _ _ _ _ _ _ _ _ _ _ _ _ _ _ _ _ _ _ _ _ => skip); with_reducible apply Frame.upd)
    | with_reducible exact .inr rfl
    | exact .inl (Part.sub_has _ hfm (by decide))

theorem loadRings_frame {fm : List Part} {b0 : State} (s : State) (ps : List TileProgram)
    (hfr : Frame fm b0 s) (hfm : Part.sub [.cyc, .tick, .tfrac, .regs, .tiles, .net, .reports, .log] fm = true) : Frame fm b0 (loadRings s ps) := by
  unfold loadRings
  repeat' first
    | with_reducible assumption
    | with_reducible intro _
    | extract_lets +onlyGivenNames x
    | with_reducible apply changeTile_frame
    | with_reducible apply Frame.foldl
    | with_reducible apply swrite_safe

theorem clearBerthCounters_frame {fm : List Part} {b0 : State} (s : State) (b : Nat)
    (hfr : Frame fm b0 s) (hfm : Part.sub [.cyc, .tick, .tfrac, .regs, .tiles, .net, .reports, .stk, .log] fm = true) : Frame fm b0 (clearBerthCounters s b) := by
  unfold clearBerthCounters
  repeat' first
    | with_reducible assumption
    | exact Part.sub_trans (by decide) hfm
    | with_reducible intro _
    | (extract_lets +onlyGivenNames x; refine (fun hx => ?_ : (Frame fm b0 x) → _) ?_; (on_goal 2 => unfold x); all_goals clear_value x)
    | extract_lets +onlyGivenNames x
    | with_reducible apply putCounter_frame
    | with_reducible apply changeTile_frame
    | with_reducible apply Frame.foldl
    | with_reducible apply Frame.ite
    | with_reducible apply clearCounters_safe

theorem countVerify_frame {fm : List Part} {b0 : State} (s : State) (good : Bool)
    (hfr : Frame fm b0 s) (hfm : Part.sub [.regs] fm = true) : Frame fm b0 (countVerify s good) := by
  unfold countVerify
  repeat' first
    | with_reducible assumption
    | (extract_lets +onlyGivenNames x; refine (fun hx => ?_ : (Frame fm b0 x) → _) ?_; (on_goal 2 => unfold x); all_goals clear_value x)
    | extract_lets +onlyGivenNames x
    | with_reducible apply rbump_frame
    | with_reducible apply Frame.ite

theorem countCopy_frame {fm : List Part} {b0 : State} (s : State) (b : Bool)
    (hfr : Frame fm b0 s) (hfm : Part.sub [.regs] fm = true) : Frame fm b0 (countCopy s b) := by
  unfold countCopy
  repeat' first
    | with_reducible assumption
    | exact Part.sub_trans (by decide) hfm
    | with_reducible intro _
    | with_reducible apply countVerify_frame
    | with_reducible apply Frame.ite
    | (with_reducible refine Frame.ofPair ‹_ = (_, _)› ?_)
    | split
    | ((conv in State.mk _ _ _ _ _ _ _ _ _ _ _ _ _ _ _ _ _ _ _ _ _ _ _ _ _ => skip); with_reducible apply Frame.upd)
    | with_reducible exact .inr rfl
    | exact .inl (Part.sub_has _ hfm (by decide))
    | exact .inl ⟨Part.sub_has _ hfm (by decide), fun h => h⟩
    | exact .inl ⟨Part.sub_has _ hfm (by decide), fun h => by simpa only [List.length_set, List.length_map, List.length_zipIdx] using h⟩

theorem countManifest_frame {fm : List Part} {b0 : State} (s : State) (m : Option (List Byte))
    (hfr : Frame fm b0 s) (hfm : Part.sub [.regs] fm = true) : Frame fm b0 (countManifest s m) := by
  unfold countManifest
  repeat' first
    | with_reducible assumption
    | exact Part.sub_trans (by decide) hfm
    | with_reducible intro _
    | with_reducible apply countVerify_frame
    | with_reducible apply Frame.ite
    | (with_reducible refine Frame.ofPair ‹_ = (_, _)› ?_)
    | split
    | ((conv in State.mk _ _ _ _ _ _ _ _ _ _ _ _ _ _ _ _ _ _ _ _ _ _ _ _ _ => skip); with_reducible apply Frame.upd)
    | with_reducible exact .inr rfl
    | exact .inl (Part.sub_has _ hfm (by decide))
    | exact .inl ⟨Part.sub_has _ hfm (by decide), fun h => h⟩
    | exact .inl ⟨Part.sub_has _ hfm (by decide), fun h => by simpa only [List.length_set, List.length_map, List.length_zipIdx] using h⟩

theorem chooseCopies_frame {m : List Part} {s0 : State} (s : State) (h : Frame m s0 s)
    (hm : Part.sub [.regs, .lsr] m = true) : Frame m s0 (chooseCopies s) := by
  have hc : ∀ u b, Frame m s0 u → Frame m s0 (countCopy u b) := fun u b hu =>
    countCopy_frame u b hu (Part.sub_trans (by decide) hm)
  have hf : ∀ u b, Frame m s0 u → Frame m s0 (countManifest u b) := fun u b hu =>
    countManifest_frame u b hu (Part.sub_trans (by decide) hm)
  unfold chooseCopies
  extract_lets +onlyGivenNames first pick mf u0 s1 l s2
  have h1 : Frame m s0 s1 := hf _ _ (hf _ _ (Frame.ite (hc _ _ h) (hc _ _ (hc _ _ h))))
  clear_value s1
  have h2 : Frame m s0 s2 := by
    refine rput_frame _ _ _ _ _ ?_ (Part.sub_trans (by decide) hm)
    apply Frame.upd (t := s1) (h := h1)
    all_goals first | with_reducible exact .inr rfl | exact .inl (Part.sub_has _ hm (by decide))
  clear_value s2 pick
  split
  · exact runFirmware_frame _ _ h2 (Part.sub_trans (by decide) hm)
  · refine rset_frame _ _ _ _ ?_ (Part.sub_trans (by decide) hm)
    apply Frame.upd (t := s2) (h := h2)
    all_goals first | with_reducible exact .inr rfl | exact .inl (Part.sub_has _ hm (by decide))

theorem lsrResult_frame {fm : List Part} {b0 : State} (s : State) (code : Nat)
    (hfr : Frame fm b0 s) (hfm : Part.sub [.regs] fm = true) : Frame fm b0 (lsrResult s code) := by
  unfold lsrResult
  repeat' first
    | with_reducible assumption
    | with_reducible apply rput_frame

theorem blowRow_frame {fm : List Part} {b0 : State} (s : State) (n : Nat)
    (hfr : Frame fm b0 s) (hfm : Part.sub [.lsr] fm = true) : Frame fm b0 (blowRow s n) := by
  unfold blowRow
  repeat' first
    | with_reducible assumption
    | extract_lets +onlyGivenNames x
    | ((conv in State.mk _ _ _ _ _ _ _ _ _ _ _ _ _ _ _ _ _ _ _ _ _ _ _ _ _ => skip); with_reducible apply Frame.upd)
    | with_reducible exact .inr rfl
    | exact .inl (Part.sub_has _ hfm (by decide))

theorem drawScalar_frame {fm : List Part} {b0 : State} (s : State)
    (hfr : Frame fm b0 s) (hfm : Part.sub [.lsr] fm = true) : Frame fm b0 (drawScalar s).1 := by
  unfold drawScalar
  repeat' first
    | with_reducible assumption
    | exact Part.sub_trans (by decide) hfm
    | with_reducible intro _
    | (extract_lets +onlyGivenNames x; refine (fun hx => ?_ : (Frame fm b0 x) → _) ?_; (on_goal 2 => unfold x); all_goals clear_value x)
    | (extract_lets +onlyGivenNames x; refine (fun hx => ?_ : (Frame fm b0 x.1) → _) ?_; (on_goal 2 => unfold x); all_goals clear_value x)
    | (extract_lets +onlyGivenNames x; refine (fun hx => ?_ : (tileSafe x = true) → _) ?_; (on_goal 2 => unfold x); all_goals clear_value x)
    | (extract_lets +onlyGivenNames x; refine (fun hx => ?_ : (tileSafe x.1 = true) → _) ?_; (on_goal 2 => unfold x); all_goals clear_value x)
    | (extract_lets +onlyGivenNames x; refine (fun hx => ?_ : (FrameOpt fm b0 x) → _) ?_; (on_goal 2 => unfold x); all_goals clear_value x)
    | (extract_lets +onlyGivenNames x; refine (fun hx => ?_ : (Frame fm b0 x.st) → _) ?_; (on_goal 2 => unfold x); all_goals clear_value x)
    | extract_lets +onlyGivenNames x
    | ((conv in State.mk _ _ _ _ _ _ _ _ _ _ _ _ _ _ _ _ _ _ _ _ _ _ _ _ _ => skip); with_reducible apply Frame.upd)
    | with_reducible exact .inr rfl
    | exact .inl (Part.sub_has _ hfm (by decide))
    | exact .inl ⟨Part.sub_has _ hfm (by decide), fun h => h⟩
    | exact .inl ⟨Part.sub_has _ hfm (by decide), fun h => by simpa only [List.length_set, List.length_map, List.length_zipIdx] using h⟩

theorem decommission_frame {fm : List Part} {b0 : State} (s : State)
    (hfr : Frame fm b0 s) (hfm : Part.sub [.lsr] fm = true) : Frame fm b0 (decommission s) := by
  unfold decommission
  repeat' first
    | with_reducible assumption
    | exact Part.sub_trans (by decide) hfm
    | with_reducible intro _
    | ((conv in State.mk _ _ _ _ _ _ _ _ _ _ _ _ _ _ _ _ _ _ _ _ _ _ _ _ _ => skip); with_reducible apply Frame.upd)
    | with_reducible exact .inr rfl
    | exact .inl (Part.sub_has _ hfm (by decide))
    | exact .inl ⟨Part.sub_has _ hfm (by decide), fun h => h⟩
    | exact .inl ⟨Part.sub_has _ hfm (by decide), fun h => by simpa only [List.length_set, List.length_map, List.length_zipIdx] using h⟩
    | (extract_lets +onlyGivenNames x; refine (fun hx => ?_ : (Frame fm b0 x) → _) ?_; (on_goal 2 => unfold x); all_goals clear_value x)

theorem clearThen_frame {fm : List Part} {b0 : State} (s : State) (f : State → State)
    (hfr : Frame fm b0 s) (hf : ∀ u, Frame fm b0 u → Frame fm b0 (f u)) (hfm : Part.sub [.regs, .lsr] fm = true) : Frame fm b0 (clearThen s f).1 := by
  unfold clearThen
  repeat' first
    | with_reducible assumption
    | exact Part.sub_trans (by decide) hfm
    | with_reducible intro _
    | (extract_lets +onlyGivenNames x; refine (fun hx => ?_ : (Frame fm b0 x) → _) ?_; (on_goal 2 => unfold x); all_goals clear_value x)
    | (extract_lets +onlyGivenNames x; refine (fun hx => ?_ : (Frame fm b0 x.1) → _) ?_; (on_goal 2 => unfold x); all_goals clear_value x)
    | (extract_lets +onlyGivenNames x; refine (fun hx => ?_ : (tileSafe x = true) → _) ?_; (on_goal 2 => unfold x); all_goals clear_value x)
    | (extract_lets +onlyGivenNames x; refine (fun hx => ?_ : (tileSafe x.1 = true) → _) ?_; (on_goal 2 => unfold x); all_goals clear_value x)
    | (extract_lets +onlyGivenNames x; refine (fun hx => ?_ : (FrameOpt fm b0 x) → _) ?_; (on_goal 2 => unfold x); all_goals clear_value x)
    | (extract_lets +onlyGivenNames x; refine (fun hx => ?_ : (Frame fm b0 x.st) → _) ?_; (on_goal 2 => unfold x); all_goals clear_value x)
    | extract_lets +onlyGivenNames x
    | with_reducible apply hf
    | with_reducible apply clearSecrets_frame
    | with_reducible apply Frame.ite
    | split

theorem advanceLife_frame {m : List Part} {s0 : State} (s : State) (to_ : Nat) (h : Frame m s0 s)
    (hm : Part.sub [.regs, .lsr] m = true) : Frame m s0 (advanceLife s to_).1 := by
  have hi : ∀ {c : Prop} [Decidable c] {a b : State × Nat}, Frame m s0 a.1 → Frame m s0 b.1 →
      Frame m s0 (if c then a else b).1 := fun {c _ a b} ha hb => by split <;> assumption
  have hp : ∀ {c : Prop} [Decidable c] {a : State} {k : Nat} {b : State × Nat}, Frame m s0 a → Frame m s0 b.1 →
      Frame m s0 (if c then (a, k) else b).1 := fun {c _ a k b} ha hb => by split <;> assumption
  have hl : ∀ {a : State} {k : Nat}, Frame m s0 a → Frame m s0 (a, k).1 := fun h => h
  have hb : ∀ u n, Frame m s0 u → Frame m s0 (blowRow u n) := fun u n hu =>
    blowRow_frame u n hu (Part.sub_trans (by decide) hm)
  have hd : ∀ u, Frame m s0 u → Frame m s0 (decommission u) := fun u hu =>
    decommission_frame u hu (Part.sub_trans (by decide) hm)
  have hc : ∀ u (f : State → State), (∀ u, Frame m s0 u → Frame m s0 (f u)) → Frame m s0 u →
      Frame m s0 (clearThen u f).1 := fun u f hf hu => clearThen_frame u f hu hf (Part.sub_trans (by decide) hm)
  have hv : ∀ u g, Frame m s0 u → Frame m s0 (countVerify u g) := fun u g hu =>
    countVerify_frame u g hu (Part.sub_trans (by decide) hm)
  have hq : Frame m s0 (drawScalar s).1 := drawScalar_frame s h (Part.sub_trans (by decide) hm)
  unfold advanceLife
  generalize drawScalar s = q at hq
  extract_lets +onlyGivenNames f n owner u
  refine hp h (hp h (hp h (hi ?_ ?_)))
  · extract_lets +onlyGivenNames q' owner u
    refine hl (hb _ _ ?_)
    apply Frame.upd (t := q.1) (h := hq)
    case h_lsr => exact .inl (Part.sub_has _ hm (by decide))
    all_goals first | with_reducible exact .inr rfl | exact .inl (Part.sub_has _ hm (by decide))
  refine hp (hb _ _ h) (hi (hc _ _ (fun u hu => hb _ _ hu) h) (hi ?_ (hp (hb _ _ h) (hi (hc _ _ hd h) (hi ?_ (hl h))))))
  · with_reducible exact hi (hc _ _ (fun u hu => hb _ _ hu) (hv _ _ h)) (hl (hv _ _ h))
  · with_reducible exact hi (hc _ _ hd (hv _ _ h)) (hl (hv _ _ h))

theorem programRepair_frame {fm : List Part} {b0 : State} (s : State) (idx : Nat) (w : Word)
    (hfr : Frame fm b0 s) (hfm : Part.sub [.lsr] fm = true) : Frame fm b0 (programRepair s idx w).1 := by
  unfold programRepair
  repeat' first
    | with_reducible assumption
    | exact Part.sub_trans (by decide) hfm
    | with_reducible intro _
    | (extract_lets +onlyGivenNames x; refine (fun hx => ?_ : (Frame fm b0 x) → _) ?_; (on_goal 2 => unfold x); all_goals clear_value x)
    | (extract_lets +onlyGivenNames x; refine (fun hx => ?_ : (Frame fm b0 x.1) → _) ?_; (on_goal 2 => unfold x); all_goals clear_value x)
    | (extract_lets +onlyGivenNames x; refine (fun hx => ?_ : (tileSafe x = true) → _) ?_; (on_goal 2 => unfold x); all_goals clear_value x)
    | (extract_lets +onlyGivenNames x; refine (fun hx => ?_ : (tileSafe x.1 = true) → _) ?_; (on_goal 2 => unfold x); all_goals clear_value x)
    | (extract_lets +onlyGivenNames x; refine (fun hx => ?_ : (FrameOpt fm b0 x) → _) ?_; (on_goal 2 => unfold x); all_goals clear_value x)
    | (extract_lets +onlyGivenNames x; refine (fun hx => ?_ : (Frame fm b0 x.st) → _) ?_; (on_goal 2 => unfold x); all_goals clear_value x)
    | extract_lets +onlyGivenNames x
    | with_reducible apply Frame.ite
    | split
    | ((conv in State.mk _ _ _ _ _ _ _ _ _ _ _ _ _ _ _ _ _ _ _ _ _ _ _ _ _ => skip); with_reducible apply Frame.upd)
    | with_reducible exact .inr rfl
    | exact .inl (Part.sub_has _ hfm (by decide))
    | exact .inl ⟨Part.sub_has _ hfm (by decide), fun h => h⟩
    | exact .inl ⟨Part.sub_has _ hfm (by decide), fun h => by simpa only [List.length_set, List.length_map, List.length_zipIdx] using h⟩
    | exact .inl ⟨Part.sub_has _ hfm (by decide), fun h => mapSet_wf _ _ _ _ h⟩

theorem programSvn_frame {fm : List Part} {b0 : State} (s : State) (v : Nat)
    (hfr : Frame fm b0 s) (hfm : Part.sub [.lsr] fm = true) : Frame fm b0 (programSvn s v).1 := by
  unfold programSvn
  repeat' first
    | with_reducible assumption
    | exact Part.sub_trans (by decide) hfm
    | with_reducible intro _
    | (extract_lets +onlyGivenNames x; refine (fun hx => ?_ : (Frame fm b0 x) → _) ?_; (on_goal 2 => unfold x); all_goals clear_value x)
    | (extract_lets +onlyGivenNames x; refine (fun hx => ?_ : (Frame fm b0 x.1) → _) ?_; (on_goal 2 => unfold x); all_goals clear_value x)
    | (extract_lets +onlyGivenNames x; refine (fun hx => ?_ : (tileSafe x = true) → _) ?_; (on_goal 2 => unfold x); all_goals clear_value x)
    | (extract_lets +onlyGivenNames x; refine (fun hx => ?_ : (tileSafe x.1 = true) → _) ?_; (on_goal 2 => unfold x); all_goals clear_value x)
    | (extract_lets +onlyGivenNames x; refine (fun hx => ?_ : (FrameOpt fm b0 x) → _) ?_; (on_goal 2 => unfold x); all_goals clear_value x)
    | (extract_lets +onlyGivenNames x; refine (fun hx => ?_ : (Frame fm b0 x.st) → _) ?_; (on_goal 2 => unfold x); all_goals clear_value x)
    | extract_lets +onlyGivenNames x
    | with_reducible apply Frame.ite
    | split
    | ((conv in State.mk _ _ _ _ _ _ _ _ _ _ _ _ _ _ _ _ _ _ _ _ _ _ _ _ _ => skip); with_reducible apply Frame.upd)
    | with_reducible exact .inr rfl
    | exact .inl (Part.sub_has _ hfm (by decide))
    | exact .inl ⟨Part.sub_has _ hfm (by decide), fun h => h⟩
    | exact .inl ⟨Part.sub_has _ hfm (by decide), fun h => by simpa only [List.length_set, List.length_map, List.length_zipIdx] using h⟩

theorem clearResult_frame {fm : List Part} {b0 : State} (s : State)
    (hfr : Frame fm b0 s) (hfm : Part.sub [.regs, .lsr] fm = true) : Frame fm b0 (clearResult s) := by
  unfold clearResult
  repeat' first
    | with_reducible assumption
    | exact Part.sub_trans (by decide) hfm
    | with_reducible intro _
    | (extract_lets +onlyGivenNames x; refine (fun hx => ?_ : (Frame fm b0 x) → _) ?_; (on_goal 2 => unfold x); all_goals clear_value x)
    | (extract_lets +onlyGivenNames x; refine (fun hx => ?_ : (Frame fm b0 x.1) → _) ?_; (on_goal 2 => unfold x); all_goals clear_value x)
    | (extract_lets +onlyGivenNames x; refine (fun hx => ?_ : (tileSafe x = true) → _) ?_; (on_goal 2 => unfold x); all_goals clear_value x)
    | (extract_lets +onlyGivenNames x; refine (fun hx => ?_ : (tileSafe x.1 = true) → _) ?_; (on_goal 2 => unfold x); all_goals clear_value x)
    | (extract_lets +onlyGivenNames x; refine (fun hx => ?_ : (FrameOpt fm b0 x) → _) ?_; (on_goal 2 => unfold x); all_goals clear_value x)
    | (extract_lets +onlyGivenNames x; refine (fun hx => ?_ : (Frame fm b0 x.st) → _) ?_; (on_goal 2 => unfold x); all_goals clear_value x)
    | extract_lets +onlyGivenNames x
    | with_reducible apply clearSecrets_frame
    | with_reducible apply lsrResult_frame
    | with_reducible apply Frame.ite
    | split

theorem attest_frame {fm : List Part} {b0 : State} (s : State)
    (hfr : Frame fm b0 s) (hfm : Part.sub [.regs, .lsr] fm = true) : Frame fm b0 (attest s) := by
  unfold attest
  repeat' first
    | with_reducible assumption
    | exact Part.sub_trans (by decide) hfm
    | with_reducible intro _
    | (extract_lets +onlyGivenNames x; refine (fun hx => ?_ : (Frame fm b0 x) → _) ?_; (on_goal 2 => unfold x); all_goals clear_value x)
    | (extract_lets +onlyGivenNames x; refine (fun hx => ?_ : (Frame fm b0 x.1) → _) ?_; (on_goal 2 => unfold x); all_goals clear_value x)
    | (extract_lets +onlyGivenNames x; refine (fun hx => ?_ : (tileSafe x = true) → _) ?_; (on_goal 2 => unfold x); all_goals clear_value x)
    | (extract_lets +onlyGivenNames x; refine (fun hx => ?_ : (tileSafe x.1 = true) → _) ?_; (on_goal 2 => unfold x); all_goals clear_value x)
    | (extract_lets +onlyGivenNames x; refine (fun hx => ?_ : (FrameOpt fm b0 x) → _) ?_; (on_goal 2 => unfold x); all_goals clear_value x)
    | (extract_lets +onlyGivenNames x; refine (fun hx => ?_ : (Frame fm b0 x.st) → _) ?_; (on_goal 2 => unfold x); all_goals clear_value x)
    | extract_lets +onlyGivenNames x
    | with_reducible apply rput_frame
    | with_reducible apply lsrResult_frame
    | with_reducible apply putWords_frame
    | with_reducible apply clearResult_frame
    | with_reducible apply rbump_frame
    | with_reducible apply rset_frame
    | with_reducible apply Frame.ite
    | split
    | ((conv in State.mk _ _ _ _ _ _ _ _ _ _ _ _ _ _ _ _ _ _ _ _ _ _ _ _ _ => skip); with_reducible apply Frame.upd)
    | with_reducible exact .inr rfl
    | exact .inl (Part.sub_has _ hfm (by decide))
    | exact .inl ⟨Part.sub_has _ hfm (by decide), fun h => h⟩
    | exact .inl ⟨Part.sub_has _ hfm (by decide), fun h => by simpa only [List.length_set, List.length_map, List.length_zipIdx] using h⟩

theorem testRequest_frame {fm : List Part} {b0 : State} (s : State)
    (hfr : Frame fm b0 s) (hfm : Part.sub [.regs, .lsr] fm = true) : Frame fm b0 (testRequest s) := by
  unfold testRequest
  repeat' first
    | with_reducible assumption
    | exact Part.sub_trans (by decide) hfm
    | with_reducible intro _
    | (extract_lets +onlyGivenNames x; refine (fun hx => ?_ : (Frame fm b0 x) → _) ?_; (on_goal 2 => unfold x); all_goals clear_value x)
    | (extract_lets +onlyGivenNames x; refine (fun hx => ?_ : (Frame fm b0 x.1) → _) ?_; (on_goal 2 => unfold x); all_goals clear_value x)
    | (extract_lets +onlyGivenNames x; refine (fun hx => ?_ : (tileSafe x = true) → _) ?_; (on_goal 2 => unfold x); all_goals clear_value x)
    | (extract_lets +onlyGivenNames x; refine (fun hx => ?_ : (tileSafe x.1 = true) → _) ?_; (on_goal 2 => unfold x); all_goals clear_value x)
    | (extract_lets +onlyGivenNames x; refine (fun hx => ?_ : (FrameOpt fm b0 x) → _) ?_; (on_goal 2 => unfold x); all_goals clear_value x)
    | (extract_lets +onlyGivenNames x; refine (fun hx => ?_ : (Frame fm b0 x.st) → _) ?_; (on_goal 2 => unfold x); all_goals clear_value x)
    | extract_lets +onlyGivenNames x
    | with_reducible apply lsrResult_frame
    | with_reducible apply clearResult_frame
    | with_reducible apply Frame.ite
    | split
    | ((conv in State.mk _ _ _ _ _ _ _ _ _ _ _ _ _ _ _ _ _ _ _ _ _ _ _ _ _ => skip); with_reducible apply Frame.upd)
    | with_reducible exact .inr rfl
    | exact .inl (Part.sub_has _ hfm (by decide))
    | exact .inl ⟨Part.sub_has _ hfm (by decide), fun h => h⟩
    | exact .inl ⟨Part.sub_has _ hfm (by decide), fun h => by simpa only [List.length_set, List.length_map, List.length_zipIdx] using h⟩

theorem writeManifest_frame {fm : List Part} {b0 : State} (s : State) (b : Bool) (bs : Option (List Byte))
    (hfr : Frame fm b0 s) (hfm : Part.sub [.lsr] fm = true) : Frame fm b0 (writeManifest s b bs) := by
  unfold writeManifest
  repeat' first
    | with_reducible assumption
    | exact Part.sub_trans (by decide) hfm
    | with_reducible intro _
    | with_reducible apply Frame.ite
    | split
    | ((conv in State.mk _ _ _ _ _ _ _ _ _ _ _ _ _ _ _ _ _ _ _ _ _ _ _ _ _ => skip); with_reducible apply Frame.upd)
    | with_reducible exact .inr rfl
    | exact .inl (Part.sub_has _ hfm (by decide))
    | exact .inl ⟨Part.sub_has _ hfm (by decide), fun h => h⟩
    | exact .inl ⟨Part.sub_has _ hfm (by decide), fun h => by simpa only [List.length_set, List.length_map, List.length_zipIdx] using h⟩

theorem afterNor_frame {fm : List Part} {b0 : State} (s : State)
    (hfr : Frame fm b0 s) (hfm : Part.sub [.free] fm = true) : Frame fm b0 (afterNor s) := by
  unfold afterNor
  repeat' first
    | with_reducible assumption
    | exact Part.sub_trans (by decide) hfm
    | with_reducible intro _
    | ((conv in State.mk _ _ _ _ _ _ _ _ _ _ _ _ _ _ _ _ _ _ _ _ _ _ _ _ _ => skip); with_reducible apply Frame.upd)
    | with_reducible exact .inr rfl
    | exact .inl (Part.sub_has _ hfm (by decide))
    | exact .inl ⟨Part.sub_has _ hfm (by decide), fun h => h⟩
    | exact .inl ⟨Part.sub_has _ hfm (by decide), fun h => by simpa only [List.length_set, List.length_map, List.length_zipIdx] using h⟩

theorem norFailed_frame {fm : List Part} {b0 : State} (s : State)
    (hfr : Frame fm b0 s) (hfm : Part.sub [.regs, .free] fm = true) : Frame fm b0 (norFailed s) := by
  unfold norFailed
  repeat' first
    | with_reducible assumption
    | exact Part.sub_trans (by decide) hfm
    | with_reducible intro _
    | with_reducible apply lsrResult_frame
    | ((conv in State.mk _ _ _ _ _ _ _ _ _ _ _ _ _ _ _ _ _ _ _ _ _ _ _ _ _ => skip); with_reducible apply Frame.upd)
    | with_reducible exact .inr rfl
    | exact .inl (Part.sub_has _ hfm (by decide))
    | exact .inl ⟨Part.sub_has _ hfm (by decide), fun h => h⟩
    | exact .inl ⟨Part.sub_has _ hfm (by decide), fun h => by simpa only [List.length_set, List.length_map, List.length_zipIdx] using h⟩

theorem loadManifest_frame {fm : List Part} {b0 : State} (s : State) (bs : List Byte)
    (hfr : Frame fm b0 s) (hfm : Part.sub [.regs, .free, .lsr] fm = true) : Frame fm b0 (loadManifest s bs) := by
  unfold loadManifest
  repeat' first
    | with_reducible assumption
    | exact Part.sub_trans (by decide) hfm
    | with_reducible intro _
    | (extract_lets +onlyGivenNames x; refine (fun hx => ?_ : (Frame fm b0 x) → _) ?_; (on_goal 2 => unfold x); all_goals clear_value x)
    | (extract_lets +onlyGivenNames x; refine (fun hx => ?_ : (Frame fm b0 x.1) → _) ?_; (on_goal 2 => unfold x); all_goals clear_value x)
    | (extract_lets +onlyGivenNames x; refine (fun hx => ?_ : (tileSafe x = true) → _) ?_; (on_goal 2 => unfold x); all_goals clear_value x)
    | (extract_lets +onlyGivenNames x; refine (fun hx => ?_ : (tileSafe x.1 = true) → _) ?_; (on_goal 2 => unfold x); all_goals clear_value x)
    | (extract_lets +onlyGivenNames x; refine (fun hx => ?_ : (FrameOpt fm b0 x) → _) ?_; (on_goal 2 => unfold x); all_goals clear_value x)
    | (extract_lets +onlyGivenNames x; refine (fun hx => ?_ : (Frame fm b0 x.st) → _) ?_; (on_goal 2 => unfold x); all_goals clear_value x)
    | extract_lets +onlyGivenNames x
    | with_reducible apply countVerify_frame
    | with_reducible apply lsrResult_frame
    | with_reducible apply writeManifest_frame
    | with_reducible apply afterNor_frame
    | with_reducible apply rset_frame
    | with_reducible apply norFailed_frame
    | with_reducible apply later_safe
    | with_reducible apply Frame.ite
    | (with_reducible refine Frame.ofPair ‹_ = (_, _)› ?_)
    | split
    | ((conv in State.mk _ _ _ _ _ _ _ _ _ _ _ _ _ _ _ _ _ _ _ _ _ _ _ _ _ => skip); with_reducible apply Frame.upd)
    | with_reducible exact .inr rfl
    | exact .inl (Part.sub_has _ hfm (by decide))
    | exact .inl ⟨Part.sub_has _ hfm (by decide), fun h => h⟩
    | exact .inl ⟨Part.sub_has _ hfm (by decide), fun h => by simpa only [List.length_set, List.length_map, List.length_zipIdx] using h⟩

theorem writeFirmware_frame {fm : List Part} {b0 : State} (s : State) (b : Bool) (bs : Option (List Byte))
    (hfr : Frame fm b0 s) (hfm : Part.sub [.lsr] fm = true) : Frame fm b0 (writeFirmware s b bs) := by
  unfold writeFirmware
  repeat' first
    | with_reducible assumption
    | exact Part.sub_trans (by decide) hfm
    | with_reducible intro _
    | with_reducible apply Frame.ite
    | split
    | ((conv in State.mk _ _ _ _ _ _ _ _ _ _ _ _ _ _ _ _ _ _ _ _ _ _ _ _ _ => skip); with_reducible apply Frame.upd)
    | with_reducible exact .inr rfl
    | exact .inl (Part.sub_has _ hfm (by decide))
    | exact .inl ⟨Part.sub_has _ hfm (by decide), fun h => h⟩
    | exact .inl ⟨Part.sub_has _ hfm (by decide), fun h => by simpa only [List.length_set, List.length_map, List.length_zipIdx] using h⟩

theorem loadFirmware_frame {fm : List Part} {b0 : State} (s : State) (bs : List Byte)
    (hfr : Frame fm b0 s) (hfm : Part.sub [.regs, .free, .lsr] fm = true) : Frame fm b0 (loadFirmware s bs) := by
  unfold loadFirmware
  repeat' first
    | with_reducible assumption
    | exact Part.sub_trans (by decide) hfm
    | with_reducible intro _
    | (extract_lets +onlyGivenNames x; refine (fun hx => ?_ : (Frame fm b0 x) → _) ?_; (on_goal 2 => unfold x); all_goals clear_value x)
    | (extract_lets +onlyGivenNames x; refine (fun hx => ?_ : (Frame fm b0 x.1) → _) ?_; (on_goal 2 => unfold x); all_goals clear_value x)
    | (extract_lets +onlyGivenNames x; refine (fun hx => ?_ : (tileSafe x = true) → _) ?_; (on_goal 2 => unfold x); all_goals clear_value x)
    | (extract_lets +onlyGivenNames x; refine (fun hx => ?_ : (tileSafe x.1 = true) → _) ?_; (on_goal 2 => unfold x); all_goals clear_value x)
    | (extract_lets +onlyGivenNames x; refine (fun hx => ?_ : (FrameOpt fm b0 x) → _) ?_; (on_goal 2 => unfold x); all_goals clear_value x)
    | (extract_lets +onlyGivenNames x; refine (fun hx => ?_ : (Frame fm b0 x.st) → _) ?_; (on_goal 2 => unfold x); all_goals clear_value x)
    | extract_lets +onlyGivenNames x
    | with_reducible apply countVerify_frame
    | with_reducible apply lsrResult_frame
    | with_reducible apply writeFirmware_frame
    | with_reducible apply afterNor_frame
    | with_reducible apply norFailed_frame
    | with_reducible apply Frame.ite
    | split
    | ((conv in State.mk _ _ _ _ _ _ _ _ _ _ _ _ _ _ _ _ _ _ _ _ _ _ _ _ _ => skip); with_reducible apply Frame.upd)
    | with_reducible exact .inr rfl
    | exact .inl (Part.sub_has _ hfm (by decide))
    | exact .inl ⟨Part.sub_has _ hfm (by decide), fun h => h⟩
    | exact .inl ⟨Part.sub_has _ hfm (by decide), fun h => by simpa only [List.length_set, List.length_map, List.length_zipIdx] using h⟩

theorem zeroise_frame {fm : List Part} {b0 : State} (s : State)
    (hfr : Frame fm b0 s) (hfm : Part.sub [.regs, .lsr] fm = true) : Frame fm b0 (zeroise s) := by
  unfold zeroise
  repeat' first
    | with_reducible assumption
    | exact Part.sub_trans (by decide) hfm
    | with_reducible intro _
    | with_reducible apply lsrResult_frame
    | with_reducible apply clearResult_frame
    | with_reducible apply Frame.ite
    | split
    | extract_lets +onlyGivenNames x

theorem lsrAction_frame {fm : List Part} {b0 : State} (s : State) (f : State → State) (hf : ∀ u, Frame fm b0 u → Frame fm b0 (f u))
    (hfr : Frame fm b0 s) (hfm : Part.sub [] fm = true) : Frame fm b0 (lsrAction s f) := by
  unfold lsrAction
  repeat' first
    | with_reducible assumption
    | extract_lets +onlyGivenNames x
    | with_reducible apply Frame.ite
    | with_reducible apply hf

theorem readSource_frame {fm : List Part} {b0 : State} (s : State)
    (hfr : Frame fm b0 s) (hfm : Part.sub [.regs, .vil] fm = true) : Frame fm b0 (readSource s) := by
  unfold readSource
  repeat' first
    | with_reducible assumption
    | exact Part.sub_trans (by decide) hfm
    | with_reducible intro _
    | (extract_lets +onlyGivenNames x; refine (fun hx => ?_ : (Frame fm b0 x) → _) ?_; (on_goal 2 => unfold x); all_goals clear_value x)
    | (extract_lets +onlyGivenNames x; refine (fun hx => ?_ : (Frame fm b0 x.1) → _) ?_; (on_goal 2 => unfold x); all_goals clear_value x)
    | (extract_lets +onlyGivenNames x; refine (fun hx => ?_ : (tileSafe x = true) → _) ?_; (on_goal 2 => unfold x); all_goals clear_value x)
    | (extract_lets +onlyGivenNames x; refine (fun hx => ?_ : (tileSafe x.1 = true) → _) ?_; (on_goal 2 => unfold x); all_goals clear_value x)
    | (extract_lets +onlyGivenNames x; refine (fun hx => ?_ : (FrameOpt fm b0 x) → _) ?_; (on_goal 2 => unfold x); all_goals clear_value x)
    | (extract_lets +onlyGivenNames x; refine (fun hx => ?_ : (Frame fm b0 x.st) → _) ?_; (on_goal 2 => unfold x); all_goals clear_value x)
    | extract_lets +onlyGivenNames x
    | with_reducible apply request_frame
    | with_reducible apply Frame.foldl
    | with_reducible apply Frame.foldlFst

theorem startLoad_frame {fm : List Part} {b0 : State} (s : State) (fw : Bool)
    (hfr : Frame fm b0 s) (hfm : Part.sub [.regs, .vil, .lsr] fm = true) : Frame fm b0 (startLoad s fw) := by
  unfold startLoad
  repeat' first
    | with_reducible assumption
    | exact Part.sub_trans (by decide) hfm
    | with_reducible intro _
    | (extract_lets +onlyGivenNames x; refine (fun hx => ?_ : (Frame fm b0 x) → _) ?_; (on_goal 2 => unfold x); all_goals clear_value x)
    | (extract_lets +onlyGivenNames x; refine (fun hx => ?_ : (Frame fm b0 x.1) → _) ?_; (on_goal 2 => unfold x); all_goals clear_value x)
    | (extract_lets +onlyGivenNames x; refine (fun hx => ?_ : (tileSafe x = true) → _) ?_; (on_goal 2 => unfold x); all_goals clear_value x)
    | (extract_lets +onlyGivenNames x; refine (fun hx => ?_ : (tileSafe x.1 = true) → _) ?_; (on_goal 2 => unfold x); all_goals clear_value x)
    | (extract_lets +onlyGivenNames x; refine (fun hx => ?_ : (FrameOpt fm b0 x) → _) ?_; (on_goal 2 => unfold x); all_goals clear_value x)
    | (extract_lets +onlyGivenNames x; refine (fun hx => ?_ : (Frame fm b0 x.st) → _) ?_; (on_goal 2 => unfold x); all_goals clear_value x)
    | extract_lets +onlyGivenNames x
    | with_reducible apply readSource_frame
    | with_reducible apply rset_frame
    | ((conv in State.mk _ _ _ _ _ _ _ _ _ _ _ _ _ _ _ _ _ _ _ _ _ _ _ _ _ => skip); with_reducible apply Frame.upd)
    | with_reducible exact .inr rfl
    | exact .inl (Part.sub_has _ hfm (by decide))
    | exact .inl ⟨Part.sub_has _ hfm (by decide), fun h => h⟩
    | exact .inl ⟨Part.sub_has _ hfm (by decide), fun h => by simpa only [List.length_set, List.length_map, List.length_zipIdx] using h⟩

theorem loadBytes_frame {fm : List Part} {b0 : State} (s : State) (fw : Bool) (f : State → State) (hf : ∀ u, Frame fm b0 u → Frame fm b0 (f u))
    (hfr : Frame fm b0 s) (hfm : Part.sub [.regs, .vil, .lsr] fm = true) : Frame fm b0 (loadBytes s fw f) := by
  unfold loadBytes
  repeat' first
    | with_reducible assumption
    | exact Part.sub_trans (by decide) hfm
    | with_reducible intro _
    | (extract_lets +onlyGivenNames x; refine (fun hx => ?_ : (Frame fm b0 x) → _) ?_; (on_goal 2 => unfold x); all_goals clear_value x)
    | (extract_lets +onlyGivenNames x; refine (fun hx => ?_ : (Frame fm b0 x.1) → _) ?_; (on_goal 2 => unfold x); all_goals clear_value x)
    | (extract_lets +onlyGivenNames x; refine (fun hx => ?_ : (tileSafe x = true) → _) ?_; (on_goal 2 => unfold x); all_goals clear_value x)
    | (extract_lets +onlyGivenNames x; refine (fun hx => ?_ : (tileSafe x.1 = true) → _) ?_; (on_goal 2 => unfold x); all_goals clear_value x)
    | (extract_lets +onlyGivenNames x; refine (fun hx => ?_ : (FrameOpt fm b0 x) → _) ?_; (on_goal 2 => unfold x); all_goals clear_value x)
    | (extract_lets +onlyGivenNames x; refine (fun hx => ?_ : (Frame fm b0 x.st) → _) ?_; (on_goal 2 => unfold x); all_goals clear_value x)
    | extract_lets +onlyGivenNames x
    | with_reducible apply hf
    | with_reducible apply rput_frame
    | with_reducible apply lsrAction_frame
    | with_reducible apply startLoad_frame
    | with_reducible apply Frame.ite
    | split
    | ((conv in State.mk _ _ _ _ _ _ _ _ _ _ _ _ _ _ _ _ _ _ _ _ _ _ _ _ _ => skip); with_reducible apply Frame.upd)
    | with_reducible exact .inr rfl
    | exact .inl (Part.sub_has _ hfm (by decide))
    | exact .inl ⟨Part.sub_has _ hfm (by decide), fun h => h⟩
    | exact .inl ⟨Part.sub_has _ hfm (by decide), fun h => by simpa only [List.length_set, List.length_map, List.length_zipIdx] using h⟩

theorem putCat_frame {fm : List Part} {b0 : State} (s : State) (r : CatRec)
    (hfr : Frame fm b0 s) (hfm : Part.sub [.img] fm = true) : Frame fm b0 (putCat s r) := by
  unfold putCat
  repeat' first
    | with_reducible assumption
    | exact Part.sub_trans (by decide) hfm
    | with_reducible intro _
    | ((conv in State.mk _ _ _ _ _ _ _ _ _ _ _ _ _ _ _ _ _ _ _ _ _ _ _ _ _ => skip); with_reducible apply Frame.upd)
    | with_reducible exact .inr rfl
    | exact .inl (Part.sub_has _ hfm (by decide))
    | exact .inl ⟨Part.sub_has _ hfm (by decide), fun h => h⟩
    | exact .inl ⟨Part.sub_has _ hfm (by decide), fun h => by simpa only [List.length_set, List.length_map, List.length_zipIdx] using h⟩
    | extract_lets +onlyGivenNames x

theorem putSlotData_frame {fm : List Part} {b0 : State} (s : State) (n : ImgName) (slot : Nat) (d : Option SlotData)
    (hfr : Frame fm b0 s) (hfm : Part.sub [.img] fm = true) : Frame fm b0 (putSlotData s n slot d) := by
  unfold putSlotData
  repeat' first
    | with_reducible assumption
    | extract_lets +onlyGivenNames x
    | split
    | ((conv in State.mk _ _ _ _ _ _ _ _ _ _ _ _ _ _ _ _ _ _ _ _ _ _ _ _ _ => skip); with_reducible apply Frame.upd)
    | with_reducible exact .inr rfl
    | exact .inl (Part.sub_has _ hfm (by decide))

theorem activateSlot_frame {fm : List Part} {b0 : State} (s : State) (n : ImgName) (slot : Nat)
    (hfr : Frame fm b0 s) (hfm : Part.sub [.img] fm = true) : Frame fm b0 (activateSlot s n slot) := by
  unfold activateSlot
  repeat' first
    | with_reducible assumption
    | (extract_lets +onlyGivenNames x; refine (fun hx => ?_ : (Frame fm b0 x) → _) ?_; (on_goal 2 => unfold x); all_goals clear_value x)
    | extract_lets +onlyGivenNames x
    | with_reducible apply putCat_frame
    | with_reducible apply Frame.ite
    | split

theorem stageShard_frame {fm : List Part} {b0 : State} (s : State) (r : Reader) (e : DirEntry) (at_ : Nat)
    (hfr : Frame fm b0 s) (hfm : Part.sub [.dram] fm = true) : Frame fm b0 (stageShard s r e at_) := by
  unfold stageShard
  repeat' first
    | with_reducible assumption
    | with_reducible apply dwrite_frame

theorem stageAll_frame {fm : List Part} {b0 : State} (s : State) (r : Reader) (m at_ : Nat)
    (hfr : Frame fm b0 s) (hfm : Part.sub [.dram] fm = true) : Frame fm b0 (stageAll s r m at_).1 := by
  unfold stageAll
  repeat' first
    | with_reducible assumption
    | with_reducible intro _
    | extract_lets +onlyGivenNames x
    | with_reducible apply stageShard_frame
    | with_reducible apply Frame.foldl

theorem checkImage_frame {fm : List Part} {b0 : State} (s : State) (r : Reader)
    (hfr : Frame fm b0 s) (hfm : Part.sub [.regs] fm = true) : Frame fm b0 (checkImage s r).1 := by
  unfold checkImage
  repeat' first
    | with_reducible assumption
    | (extract_lets +onlyGivenNames x; refine (fun hx => ?_ : (Frame fm b0 x) → _) ?_; (on_goal 2 => unfold x); all_goals clear_value x)
    | extract_lets +onlyGivenNames x
    | with_reducible apply countVerify_frame
    | with_reducible apply rbump_frame
    | with_reducible apply Frame.ite

theorem stageModel_frame {fm : List Part} {b0 : State} (s : State) (r : Reader) (m b h : Nat) (d : Decoded)
    (hfr : Frame fm b0 s) (hfm : Part.sub [.regs, .dram] fm = true) : Frame fm b0 (stageModel s r m b h d).1 := by
  unfold stageModel
  repeat' first
    | with_reducible assumption
    | exact Part.sub_trans (by decide) hfm
    | with_reducible intro _
    | (extract_lets +onlyGivenNames x; refine (fun hx => ?_ : (Frame fm b0 x) → _) ?_; (on_goal 2 => unfold x); all_goals clear_value x)
    | (extract_lets +onlyGivenNames x; refine (fun hx => ?_ : (Frame fm b0 x.1) → _) ?_; (on_goal 2 => unfold x); all_goals clear_value x)
    | (extract_lets +onlyGivenNames x; refine (fun hx => ?_ : (tileSafe x = true) → _) ?_; (on_goal 2 => unfold x); all_goals clear_value x)
    | (extract_lets +onlyGivenNames x; refine (fun hx => ?_ : (tileSafe x.1 = true) → _) ?_; (on_goal 2 => unfold x); all_goals clear_value x)
    | (extract_lets +onlyGivenNames x; refine (fun hx => ?_ : (FrameOpt fm b0 x) → _) ?_; (on_goal 2 => unfold x); all_goals clear_value x)
    | (extract_lets +onlyGivenNames x; refine (fun hx => ?_ : (Frame fm b0 x.st) → _) ?_; (on_goal 2 => unfold x); all_goals clear_value x)
    | extract_lets +onlyGivenNames x
    | with_reducible apply stageAll_frame
    | with_reducible apply rbump_frame
    | with_reducible apply FrameOpt.none
    | with_reducible apply FrameOpt1.none
    | with_reducible apply FrameOpt.some
    | with_reducible apply FrameOpt1.some
    | with_reducible apply FrameOpt.ite
    | with_reducible apply FrameOpt.foldl
    | with_reducible apply FrameOpt.map
    | (exact (by assumption : FrameOpt fm b0 (some _)) _ rfl)
    | (with_reducible refine FrameOpt.of ‹_ = some _› ?_)
    | (with_reducible refine FrameOpt1.ofPair ‹_ = some _› ?_)
    | (with_reducible refine FrameOpt1.of ‹_ = some _› ?_)
    | (with_reducible refine Frame.ofPair ‹_ = (_, _)› ?_)
    | split
    | ((conv in State.mk _ _ _ _ _ _ _ _ _ _ _ _ _ _ _ _ _ _ _ _ _ _ _ _ _ => skip); with_reducible apply Frame.upd)
    | with_reducible exact .inr rfl
    | exact .inl (Part.sub_has _ hfm (by decide))
    | exact .inl ⟨Part.sub_has _ hfm (by decide), fun h => h⟩
    | exact .inl ⟨Part.sub_has _ hfm (by decide), fun h => by simpa only [List.length_set, List.length_map, List.length_zipIdx] using h⟩

theorem expectCounter_frame {fm : List Part} {b0 : State} (fresh : Bool) (s : State) (k i e : Nat)
    (hfr : Frame fm b0 s) (hfm : Part.sub [.stk] fm = true) : Frame fm b0 (expectCounter fresh s k i e) := by
  unfold expectCounter
  repeat' first
    | with_reducible assumption
    | exact Part.sub_trans (by decide) hfm
    | with_reducible intro _
    | with_reducible apply putCounter_frame
    | with_reducible apply Frame.ite
    | split
    | ((conv in State.mk _ _ _ _ _ _ _ _ _ _ _ _ _ _ _ _ _ _ _ _ _ _ _ _ _ => skip); with_reducible apply Frame.upd)
    | with_reducible exact .inr rfl
    | exact .inl (Part.sub_has _ hfm (by decide))
    | exact .inl ⟨Part.sub_has _ hfm (by decide), fun h => h⟩
    | exact .inl ⟨Part.sub_has _ hfm (by decide), fun h => by simpa only [List.length_set, List.length_map, List.length_zipIdx] using h⟩

theorem setExpects_frame {fm : List Part} {b0 : State} (s : State) (b : Nat) (x : Schedule) (fresh : Bool)
    (hfr : Frame fm b0 s) (hfm : Part.sub [.stk] fm = true) : Frame fm b0 (setExpects s b x fresh) := by
  unfold setExpects
  repeat' first
    | with_reducible assumption
    | exact Part.sub_trans (by decide) hfm
    | with_reducible intro _
    | (extract_lets +onlyGivenNames x; refine (fun hx => ?_ : (Frame fm b0 x) → _) ?_; (on_goal 2 => unfold x); all_goals clear_value x)
    | (extract_lets +onlyGivenNames x; refine (fun hx => ?_ : (Frame fm b0 x.1) → _) ?_; (on_goal 2 => unfold x); all_goals clear_value x)
    | (extract_lets +onlyGivenNames x; refine (fun hx => ?_ : (tileSafe x = true) → _) ?_; (on_goal 2 => unfold x); all_goals clear_value x)
    | (extract_lets +onlyGivenNames x; refine (fun hx => ?_ : (tileSafe x.1 = true) → _) ?_; (on_goal 2 => unfold x); all_goals clear_value x)
    | (extract_lets +onlyGivenNames x; refine (fun hx => ?_ : (FrameOpt fm b0 x) → _) ?_; (on_goal 2 => unfold x); all_goals clear_value x)
    | (extract_lets +onlyGivenNames x; refine (fun hx => ?_ : (Frame fm b0 x.st) → _) ?_; (on_goal 2 => unfold x); all_goals clear_value x)
    | extract_lets +onlyGivenNames x
    | with_reducible apply expectCounter_frame
    | with_reducible apply Frame.foldl
    | with_reducible apply Frame.foldlFst
    | with_reducible apply Frame.ite
    | split

theorem writeDogs_frame {fm : List Part} {b0 : State} (s : State) (x : Schedule)
    (hfr : Frame fm b0 s) (hfm : Part.sub [.regs] fm = true) : Frame fm b0 (writeDogs s x) := by
  unfold writeDogs
  repeat' first
    | with_reducible assumption
    | with_reducible intro _
    | extract_lets +onlyGivenNames x
    | with_reducible apply setRword_frame
    | with_reducible apply Frame.foldl

theorem writeWidths_frame {fm : List Part} {b0 : State} (s : State) (x : Schedule)
    (hfr : Frame fm b0 s) (hfm : Part.sub [.regs] fm = true) : Frame fm b0 (writeWidths s x) := by
  unfold writeWidths
  repeat' first
    | with_reducible assumption
    | exact Part.sub_trans (by decide) hfm
    | with_reducible intro _
    | with_reducible apply setRword_frame
    | with_reducible apply Frame.foldl
    | with_reducible apply Frame.foldlFst

theorem enterSchedule_frame {fm : List Part} {b0 : State} (s : State) (b : Nat) (o : Option Schedule) (fresh : Bool := false)
    (hfr : Frame fm b0 s) (hfm : Part.sub [.cyc, .tick, .tfrac, .regs, .tiles, .net, .reports, .stk, .log] fm = true) : Frame fm b0 (enterSchedule s b o fresh) := by
  unfold enterSchedule
  repeat' first
    | with_reducible assumption
    | exact Part.sub_trans (by decide) hfm
    | with_reducible intro _
    | with_reducible apply loadRings_frame
    | with_reducible apply writeWidths_frame
    | with_reducible apply writeDogs_frame
    | with_reducible apply setExpects_frame
    | (with_reducible refine Frame.ofPair ‹_ = (_, _)› ?_)
    | split
    | ((conv in State.mk _ _ _ _ _ _ _ _ _ _ _ _ _ _ _ _ _ _ _ _ _ _ _ _ _ => skip); with_reducible apply Frame.upd)
    | with_reducible exact .inr rfl
    | exact .inl (Part.sub_has _ hfm (by decide))
    | exact .inl ⟨Part.sub_has _ hfm (by decide), fun h => h⟩
    | exact .inl ⟨Part.sub_has _ hfm (by decide), fun h => by simpa only [List.length_set, List.length_map, List.length_zipIdx] using h⟩

theorem runLoads_frame {fm : List Part} {b0 : State} (s : State) (ps : List TileProgram)
    (hfr : Frame fm b0 s) (hfm : Part.sub [.cyc, .tick, .tfrac, .regs, .tiles, .net, .reports, .log, .pwr] fm = true) : Frame fm b0 (runLoads s ps) := by
  unfold runLoads
  repeat' first
    | with_reducible assumption
    | exact Part.sub_trans (by decide) hfm
    | with_reducible intro _
    | with_reducible apply startLoads_frame
    | with_reducible apply loadRings_frame

theorem placeImage_frame {fm : List Part} {b0 : State} (s : State) (b : Nat) (im : BerthImage) (spares : List (Nat × Nat))
    (hfr : Frame fm b0 s) (hfm : Part.sub [.cyc, .tick, .tfrac, .regs, .tiles, .net, .reports, .stk, .serve, .log, .pwr] fm = true) : Frame fm b0 (placeImage s b im spares) := by
  unfold placeImage
  repeat' first
    | with_reducible assumption
    | exact Part.sub_trans (by decide) hfm
    | with_reducible intro _
    | (extract_lets +onlyGivenNames x; refine (fun hx => ?_ : (Frame fm b0 x) → _) ?_; (on_goal 2 => unfold x); all_goals clear_value x)
    | (extract_lets +onlyGivenNames x; refine (fun hx => ?_ : (Frame fm b0 x.1) → _) ?_; (on_goal 2 => unfold x); all_goals clear_value x)
    | (extract_lets +onlyGivenNames x; refine (fun hx => ?_ : (tileSafe x = true) → _) ?_; (on_goal 2 => unfold x); all_goals clear_value x)
    | (extract_lets +onlyGivenNames x; refine (fun hx => ?_ : (tileSafe x.1 = true) → _) ?_; (on_goal 2 => unfold x); all_goals clear_value x)
    | (extract_lets +onlyGivenNames x; refine (fun hx => ?_ : (FrameOpt fm b0 x) → _) ?_; (on_goal 2 => unfold x); all_goals clear_value x)
    | (extract_lets +onlyGivenNames x; refine (fun hx => ?_ : (Frame fm b0 x.st) → _) ?_; (on_goal 2 => unfold x); all_goals clear_value x)
    | extract_lets +onlyGivenNames x
    | with_reducible apply putBerthState_frame
    | with_reducible apply putBerth_frame
    | with_reducible apply rput_frame
    | with_reducible apply runLoads_frame
    | with_reducible apply enterSchedule_frame
    | ((conv in State.mk _ _ _ _ _ _ _ _ _ _ _ _ _ _ _ _ _ _ _ _ _ _ _ _ _ => skip); with_reducible apply Frame.upd)
    | with_reducible exact .inr rfl
    | exact .inl (Part.sub_has _ hfm (by decide))
    | exact .inl ⟨Part.sub_has _ hfm (by decide), fun h => h⟩
    | exact .inl ⟨Part.sub_has _ hfm (by decide), fun h => by simpa only [List.length_set, List.length_map, List.length_zipIdx] using h⟩

theorem checkModel_frame {fm : List Part} {b0 : State} (s : State) (r : Reader) (m b h : Nat)
    (hfr : Frame fm b0 s) (hfm : Part.sub [.regs] fm = true) : Frame fm b0 (checkModel s r m b h).1 := by
  unfold checkModel
  repeat' first
    | with_reducible assumption
    | exact Part.sub_trans (by decide) hfm
    | with_reducible intro _
    | (extract_lets +onlyGivenNames x; refine (fun hx => ?_ : (Frame fm b0 x) → _) ?_; (on_goal 2 => unfold x); all_goals clear_value x)
    | (extract_lets +onlyGivenNames x; refine (fun hx => ?_ : (Frame fm b0 x.1) → _) ?_; (on_goal 2 => unfold x); all_goals clear_value x)
    | (extract_lets +onlyGivenNames x; refine (fun hx => ?_ : (tileSafe x = true) → _) ?_; (on_goal 2 => unfold x); all_goals clear_value x)
    | (extract_lets +onlyGivenNames x; refine (fun hx => ?_ : (tileSafe x.1 = true) → _) ?_; (on_goal 2 => unfold x); all_goals clear_value x)
    | (extract_lets +onlyGivenNames x; refine (fun hx => ?_ : (FrameOpt fm b0 x) → _) ?_; (on_goal 2 => unfold x); all_goals clear_value x)
    | (extract_lets +onlyGivenNames x; refine (fun hx => ?_ : (Frame fm b0 x.st) → _) ?_; (on_goal 2 => unfold x); all_goals clear_value x)
    | extract_lets +onlyGivenNames x
    | with_reducible apply checkImage_frame
    | with_reducible apply Frame.ite
    | (with_reducible refine Frame.ofPair ‹_ = (_, _)› ?_)
    | split
    | ((conv in State.mk _ _ _ _ _ _ _ _ _ _ _ _ _ _ _ _ _ _ _ _ _ _ _ _ _ => skip); with_reducible apply Frame.upd)
    | with_reducible exact .inr rfl
    | exact .inl (Part.sub_has _ hfm (by decide))
    | exact .inl ⟨Part.sub_has _ hfm (by decide), fun h => h⟩
    | exact .inl ⟨Part.sub_has _ hfm (by decide), fun h => by simpa only [List.length_set, List.length_map, List.length_zipIdx] using h⟩

theorem placeLoaded_frame {fm : List Part} {b0 : State} (s : State) (b : Nat) (im : BerthImage) (sp : List (Nat × Nat))
    (hfr : Frame fm b0 s) (hfm : Part.sub [.cyc, .tick, .tfrac, .regs, .tiles, .net, .reports, .stk, .serve, .log, .pwr] fm = true) : Frame fm b0 (placeLoaded s b im sp).1 := by
  unfold placeLoaded
  repeat' first
    | with_reducible assumption
    | exact Part.sub_trans (by decide) hfm
    | with_reducible intro _
    | (extract_lets +onlyGivenNames x; refine (fun hx => ?_ : (Frame fm b0 x) → _) ?_; (on_goal 2 => unfold x); all_goals clear_value x)
    | (extract_lets +onlyGivenNames x; refine (fun hx => ?_ : (Frame fm b0 x.1) → _) ?_; (on_goal 2 => unfold x); all_goals clear_value x)
    | (extract_lets +onlyGivenNames x; refine (fun hx => ?_ : (tileSafe x = true) → _) ?_; (on_goal 2 => unfold x); all_goals clear_value x)
    | (extract_lets +onlyGivenNames x; refine (fun hx => ?_ : (tileSafe x.1 = true) → _) ?_; (on_goal 2 => unfold x); all_goals clear_value x)
    | (extract_lets +onlyGivenNames x; refine (fun hx => ?_ : (FrameOpt fm b0 x) → _) ?_; (on_goal 2 => unfold x); all_goals clear_value x)
    | (extract_lets +onlyGivenNames x; refine (fun hx => ?_ : (Frame fm b0 x.st) → _) ?_; (on_goal 2 => unfold x); all_goals clear_value x)
    | extract_lets +onlyGivenNames x
    | with_reducible apply rbump_frame
    | with_reducible apply placeImage_frame
    | with_reducible apply putBerth_frame
    | with_reducible apply sendHelm_frame
    | with_reducible apply Frame.ite
    | split
    | ((conv in State.mk _ _ _ _ _ _ _ _ _ _ _ _ _ _ _ _ _ _ _ _ _ _ _ _ _ => skip); with_reducible apply Frame.upd)
    | with_reducible exact .inr rfl
    | exact .inl (Part.sub_has _ hfm (by decide))
    | exact .inl ⟨Part.sub_has _ hfm (by decide), fun h => h⟩
    | exact .inl ⟨Part.sub_has _ hfm (by decide), fun h => by simpa only [List.length_set, List.length_map, List.length_zipIdx] using h⟩

theorem loadBerth_frame {fm : List Part} {b0 : State} (s : State) (n : ImgName) (slot b : Nat)
    (hfr : Frame fm b0 s) (hfm : Part.sub [.cyc, .tick, .tfrac, .regs, .tiles, .dram, .net, .reports, .stk, .serve, .log, .pwr] fm = true) : Frame fm b0 (loadBerth s n slot b).1 := by
  unfold loadBerth
  repeat' first
    | with_reducible assumption
    | exact Part.sub_trans (by decide) hfm
    | with_reducible intro _
    | (extract_lets +onlyGivenNames x; refine (fun hx => ?_ : (Frame fm b0 x) → _) ?_; (on_goal 2 => unfold x); all_goals clear_value x)
    | (extract_lets +onlyGivenNames x; refine (fun hx => ?_ : (Frame fm b0 x.1) → _) ?_; (on_goal 2 => unfold x); all_goals clear_value x)
    | (extract_lets +onlyGivenNames x; refine (fun hx => ?_ : (tileSafe x = true) → _) ?_; (on_goal 2 => unfold x); all_goals clear_value x)
    | (extract_lets +onlyGivenNames x; refine (fun hx => ?_ : (tileSafe x.1 = true) → _) ?_; (on_goal 2 => unfold x); all_goals clear_value x)
    | (extract_lets +onlyGivenNames x; refine (fun hx => ?_ : (FrameOpt fm b0 x) → _) ?_; (on_goal 2 => unfold x); all_goals clear_value x)
    | (extract_lets +onlyGivenNames x; refine (fun hx => ?_ : (Frame fm b0 x.st) → _) ?_; (on_goal 2 => unfold x); all_goals clear_value x)
    | extract_lets +onlyGivenNames x
    | with_reducible apply checkModel_frame
    | with_reducible apply stageModel_frame
    | with_reducible apply placeLoaded_frame
    | with_reducible apply Frame.ite
    | with_reducible apply FrameOpt.none
    | with_reducible apply FrameOpt1.none
    | with_reducible apply FrameOpt.some
    | with_reducible apply FrameOpt1.some
    | with_reducible apply FrameOpt.ite
    | with_reducible apply FrameOpt.foldl
    | with_reducible apply FrameOpt.map
    | (exact (by assumption : FrameOpt fm b0 (some _)) _ rfl)
    | (with_reducible refine FrameOpt.of ‹_ = some _› ?_)
    | (with_reducible refine FrameOpt1.ofPair ‹_ = some _› ?_)
    | (with_reducible refine FrameOpt1.of ‹_ = some _› ?_)
    | (with_reducible refine Frame.ofPair ‹_ = (_, _)› ?_)
    | split
    | ((conv in State.mk _ _ _ _ _ _ _ _ _ _ _ _ _ _ _ _ _ _ _ _ _ _ _ _ _ => skip); with_reducible apply Frame.upd)
    | with_reducible exact .inr rfl
    | exact .inl (Part.sub_has _ hfm (by decide))
    | exact .inl ⟨Part.sub_has _ hfm (by decide), fun h => h⟩
    | exact .inl ⟨Part.sub_has _ hfm (by decide), fun h => by simpa only [List.length_set, List.length_map, List.length_zipIdx] using h⟩

theorem armCrossing_frame {fm : List Part} {b0 : State} (s : State) (b : Nat) (im : BerthImage) (sp : List (Nat × Nat))
    (hfr : Frame fm b0 s) (hfm : Part.sub [.regs, .serve] fm = true) : Frame fm b0 (armCrossing s b im sp) := by
  unfold armCrossing
  repeat' first
    | with_reducible assumption
    | exact Part.sub_trans (by decide) hfm
    | with_reducible intro _
    | (extract_lets +onlyGivenNames x; refine (fun hx => ?_ : (Frame fm b0 x) → _) ?_; (on_goal 2 => unfold x); all_goals clear_value x)
    | (extract_lets +onlyGivenNames x; refine (fun hx => ?_ : (Frame fm b0 x.1) → _) ?_; (on_goal 2 => unfold x); all_goals clear_value x)
    | (extract_lets +onlyGivenNames x; refine (fun hx => ?_ : (tileSafe x = true) → _) ?_; (on_goal 2 => unfold x); all_goals clear_value x)
    | (extract_lets +onlyGivenNames x; refine (fun hx => ?_ : (tileSafe x.1 = true) → _) ?_; (on_goal 2 => unfold x); all_goals clear_value x)
    | (extract_lets +onlyGivenNames x; refine (fun hx => ?_ : (FrameOpt fm b0 x) → _) ?_; (on_goal 2 => unfold x); all_goals clear_value x)
    | (extract_lets +onlyGivenNames x; refine (fun hx => ?_ : (Frame fm b0 x.st) → _) ?_; (on_goal 2 => unfold x); all_goals clear_value x)
    | extract_lets +onlyGivenNames x
    | with_reducible apply countEvent_frame
    | with_reducible apply putBerth_frame
    | with_reducible apply rput_frame
    | ((conv in State.mk _ _ _ _ _ _ _ _ _ _ _ _ _ _ _ _ _ _ _ _ _ _ _ _ _ => skip); with_reducible apply Frame.upd)
    | with_reducible exact .inr rfl
    | exact .inl (Part.sub_has _ hfm (by decide))
    | exact .inl ⟨Part.sub_has _ hfm (by decide), fun h => h⟩
    | exact .inl ⟨Part.sub_has _ hfm (by decide), fun h => by simpa only [List.length_set, List.length_map, List.length_zipIdx] using h⟩

theorem replaceBerth_frame {m : List Part} {s0 : State} (s : State) (n : ImgName) (slot b : Nat) (h : Frame m s0 s)
    (hm : Part.sub [.regs, .dram, .serve] m = true) : Frame m s0 (replaceBerth s n slot b).1 := by
  have hc : ∀ r i g, Frame m s0 (checkModel s r i b g).1 := fun r i g =>
    checkModel_frame s r i b g h (Part.sub_trans (by decide) hm)
  unfold replaceBerth
  split
  · extract_lets r g
    split
    · exact h
    · split
      · exact Frame.ofPair ‹_› (hc _ _ _)
      · have h1 := Frame.ofPair ‹_› (hc _ _ _)
        split
        · exact h1
        · have hst := fun r i d => stageModel_frame _ r i b g d h1 (Part.sub_trans (by decide) hm)
          split
          · have h2 := Frame.ofPair ‹_› (hst _ _ _)
            exact { h2 with
              dram := .inl (Part.sub_has _ hm (by decide))
              safe := fun hs => { h2.safe hs with dram := (h1.safe hs).dram } }
          · exact armCrossing_frame _ _ _ _ (Frame.ofPair ‹_› (hst _ _ _)) (Part.sub_trans (by decide) hm)
  · exact h
  · exact h

theorem endCrossing_frame {fm : List Part} {b0 : State} (s : State)
    (hfr : Frame fm b0 s) (hfm : Part.sub [.regs] fm = true) : Frame fm b0 (endCrossing s) := by
  unfold endCrossing
  repeat' first
    | with_reducible assumption
    | with_reducible apply setRword_frame

theorem stageAdapter_frame {m : List Part} {s0 : State} (s : State) (n : ImgName) (slot v : Nat) (h : Frame m s0 s)
    (hm : Part.sub [.regs, .dram, .serve] m = true) : Frame m s0 (stageAdapter s n slot v).1 := by
  have hi : ∀ {c : Prop} [Decidable c] {a b : ImgDone}, Frame m s0 a.1 → Frame m s0 b.1 →
      Frame m s0 (if c then a else b).1 := fun {c _ a b} ha hb => by split <;> assumption
  unfold stageAdapter
  split
  · rename_i cat data _ _
    extract_lets +onlyGivenNames r k size c
    have hc : Frame m s0 c.1 := checkImage_frame s r h (Part.sub_trans (by decide) hm)
    clear_value c
    refine hi h (hi h (hi h (hi h (hi h (hi hc (hi hc ?_))))))
    extract_lets +onlyGivenNames q x
    have hq : Frame m s0 q.1 := stageAll_frame _ _ _ _ hc (Part.sub_trans (by decide) hm)
    clear_value q x
    split
    · exact rbump_frame _ _ _ _ hq (Part.sub_trans (by decide) hm)
    · apply Frame.upd (t := q.1) (h := hq)
      case h_serve => exact .inl ⟨Part.sub_has _ hm (by decide), fun g => g⟩
      all_goals first | with_reducible exact .inr rfl | exact .inl (Part.sub_has _ hm (by decide))
  · exact h

theorem restageShard_frame {fm : List Part} {b0 : State} (s : State) (r : Reader) (m k at_ : Nat)
    (hfr : Frame fm b0 s) (hfm : Part.sub [.regs, .dram] fm = true) : Frame fm b0 (restageShard s r m k at_) := by
  unfold restageShard
  repeat' first
    | with_reducible assumption
    | exact Part.sub_trans (by decide) hfm
    | with_reducible intro _
    | with_reducible apply stageShard_frame
    | with_reducible apply rbump_frame
    | with_reducible apply Frame.ite
    | (with_reducible refine Frame.ofPair ‹_ = (_, _)› ?_)
    | split
    | ((conv in State.mk _ _ _ _ _ _ _ _ _ _ _ _ _ _ _ _ _ _ _ _ _ _ _ _ _ => skip); with_reducible apply Frame.upd)
    | with_reducible exact .inr rfl
    | exact .inl (Part.sub_has _ hfm (by decide))
    | exact .inl ⟨Part.sub_has _ hfm (by decide), fun h => h⟩
    | exact .inl ⟨Part.sub_has _ hfm (by decide), fun h => by simpa only [List.length_set, List.length_map, List.length_zipIdx] using h⟩

theorem restageImage_frame {fm : List Part} {b0 : State} (s : State) (b k : Nat) (im : BerthImage)
    (hfr : Frame fm b0 s) (hfm : Part.sub [.regs, .dram] fm = true) : Frame fm b0 (restageImage s b k im) := by
  unfold restageImage
  repeat' first
    | with_reducible assumption
    | exact Part.sub_trans (by decide) hfm
    | with_reducible intro _
    | (extract_lets +onlyGivenNames x; refine (fun hx => ?_ : (Frame fm b0 x) → _) ?_; (on_goal 2 => unfold x); all_goals clear_value x)
    | (extract_lets +onlyGivenNames x; refine (fun hx => ?_ : (Frame fm b0 x.1) → _) ?_; (on_goal 2 => unfold x); all_goals clear_value x)
    | (extract_lets +onlyGivenNames x; refine (fun hx => ?_ : (tileSafe x = true) → _) ?_; (on_goal 2 => unfold x); all_goals clear_value x)
    | (extract_lets +onlyGivenNames x; refine (fun hx => ?_ : (tileSafe x.1 = true) → _) ?_; (on_goal 2 => unfold x); all_goals clear_value x)
    | (extract_lets +onlyGivenNames x; refine (fun hx => ?_ : (FrameOpt fm b0 x) → _) ?_; (on_goal 2 => unfold x); all_goals clear_value x)
    | (extract_lets +onlyGivenNames x; refine (fun hx => ?_ : (Frame fm b0 x.st) → _) ?_; (on_goal 2 => unfold x); all_goals clear_value x)
    | extract_lets +onlyGivenNames x
    | with_reducible apply checkImage_frame
    | with_reducible apply restageShard_frame
    | with_reducible apply Frame.ite
    | (with_reducible refine Frame.ofPair ‹_ = (_, _)› ?_)
    | split
    | ((conv in State.mk _ _ _ _ _ _ _ _ _ _ _ _ _ _ _ _ _ _ _ _ _ _ _ _ _ => skip); with_reducible apply Frame.upd)
    | with_reducible exact .inr rfl
    | exact .inl (Part.sub_has _ hfm (by decide))
    | exact .inl ⟨Part.sub_has _ hfm (by decide), fun h => h⟩
    | exact .inl ⟨Part.sub_has _ hfm (by decide), fun h => by simpa only [List.length_set, List.length_map, List.length_zipIdx] using h⟩

theorem restage_frame {fm : List Part} {b0 : State} (s : State) (b k : Nat)
    (hfr : Frame fm b0 s) (hfm : Part.sub [.regs, .dram] fm = true) : Frame fm b0 (restage s b k) := by
  unfold restage
  repeat' first
    | with_reducible assumption
    | exact Part.sub_trans (by decide) hfm
    | with_reducible intro _
    | with_reducible apply restageImage_frame
    | with_reducible apply Frame.ite
    | (with_reducible refine Frame.ofPair ‹_ = (_, _)› ?_)
    | split
    | ((conv in State.mk _ _ _ _ _ _ _ _ _ _ _ _ _ _ _ _ _ _ _ _ _ _ _ _ _ => skip); with_reducible apply Frame.upd)
    | with_reducible exact .inr rfl
    | exact .inl (Part.sub_has _ hfm (by decide))
    | exact .inl ⟨Part.sub_has _ hfm (by decide), fun h => h⟩
    | exact .inl ⟨Part.sub_has _ hfm (by decide), fun h => by simpa only [List.length_set, List.length_map, List.length_zipIdx] using h⟩

theorem restageVersion_frame {fm : List Part} {b0 : State} (s : State) (v k : Nat) (x : VSlot)
    (hfr : Frame fm b0 s) (hfm : Part.sub [.regs, .dram] fm = true) : Frame fm b0 (restageVersion s v k x) := by
  unfold restageVersion
  repeat' first
    | with_reducible assumption
    | exact Part.sub_trans (by decide) hfm
    | with_reducible intro _
    | (extract_lets +onlyGivenNames x; refine (fun hx => ?_ : (Frame fm b0 x) → _) ?_; (on_goal 2 => unfold x); all_goals clear_value x)
    | (extract_lets +onlyGivenNames x; refine (fun hx => ?_ : (Frame fm b0 x.1) → _) ?_; (on_goal 2 => unfold x); all_goals clear_value x)
    | (extract_lets +onlyGivenNames x; refine (fun hx => ?_ : (tileSafe x = true) → _) ?_; (on_goal 2 => unfold x); all_goals clear_value x)
    | (extract_lets +onlyGivenNames x; refine (fun hx => ?_ : (tileSafe x.1 = true) → _) ?_; (on_goal 2 => unfold x); all_goals clear_value x)
    | (extract_lets +onlyGivenNames x; refine (fun hx => ?_ : (FrameOpt fm b0 x) → _) ?_; (on_goal 2 => unfold x); all_goals clear_value x)
    | (extract_lets +onlyGivenNames x; refine (fun hx => ?_ : (Frame fm b0 x.st) → _) ?_; (on_goal 2 => unfold x); all_goals clear_value x)
    | extract_lets +onlyGivenNames x
    | with_reducible apply checkImage_frame
    | with_reducible apply restageShard_frame
    | with_reducible apply Frame.ite
    | (with_reducible refine Frame.ofPair ‹_ = (_, _)› ?_)
    | split
    | ((conv in State.mk _ _ _ _ _ _ _ _ _ _ _ _ _ _ _ _ _ _ _ _ _ _ _ _ _ => skip); with_reducible apply Frame.upd)
    | with_reducible exact .inr rfl
    | exact .inl (Part.sub_has _ hfm (by decide))
    | exact .inl ⟨Part.sub_has _ hfm (by decide), fun h => h⟩
    | exact .inl ⟨Part.sub_has _ hfm (by decide), fun h => by simpa only [List.length_set, List.length_map, List.length_zipIdx] using h⟩

theorem mediaResult_frame {fm : List Part} {b0 : State} (nand : Bool) (s : State) (q : ImgDone)
    (hfr : Frame fm b0 s) (hfr1 : Frame fm b0 q.1) (hfm : Part.sub [] fm = true) : Frame fm b0 (mediaResult nand s q).1 := by
  unfold mediaResult
  repeat' first
    | with_reducible assumption
    | exact Part.sub_trans (by decide) hfm
    | with_reducible intro _
    | with_reducible apply Frame.ite
    | split

theorem finishLoad_frame {fm : List Part} {b0 : State} (s : State) (b : Nat) (im : BerthImage) (good : Bool)
    (hfr : Frame fm b0 s) (hfm : Part.sub [.cyc, .tick, .tfrac, .regs, .tiles, .net, .reports, .stk, .vil, .serve, .log, .pwr] fm = true) : Frame fm b0 (finishLoad s b im good) := by
  unfold finishLoad
  repeat' first
    | with_reducible assumption
    | exact Part.sub_trans (by decide) hfm
    | with_reducible intro _
    | (extract_lets +onlyGivenNames x; refine (fun hx => ?_ : (Frame fm b0 x) → _) ?_; (on_goal 2 => unfold x); all_goals clear_value x)
    | (extract_lets +onlyGivenNames x; refine (fun hx => ?_ : (Frame fm b0 x.1) → _) ?_; (on_goal 2 => unfold x); all_goals clear_value x)
    | (extract_lets +onlyGivenNames x; refine (fun hx => ?_ : (tileSafe x = true) → _) ?_; (on_goal 2 => unfold x); all_goals clear_value x)
    | (extract_lets +onlyGivenNames x; refine (fun hx => ?_ : (tileSafe x.1 = true) → _) ?_; (on_goal 2 => unfold x); all_goals clear_value x)
    | (extract_lets +onlyGivenNames x; refine (fun hx => ?_ : (FrameOpt fm b0 x) → _) ?_; (on_goal 2 => unfold x); all_goals clear_value x)
    | (extract_lets +onlyGivenNames x; refine (fun hx => ?_ : (Frame fm b0 x.st) → _) ?_; (on_goal 2 => unfold x); all_goals clear_value x)
    | extract_lets +onlyGivenNames x
    | with_reducible apply rput_frame
    | with_reducible apply putBerth_frame
    | with_reducible apply rbump_frame
    | with_reducible apply placeImage_frame
    | with_reducible apply writeAck_frame
    | with_reducible apply rset_frame
    | with_reducible apply Frame.ite
    | (with_reducible refine Frame.ofPair ‹_ = (_, _)› ?_)
    | split
    | ((conv in State.mk _ _ _ _ _ _ _ _ _ _ _ _ _ _ _ _ _ _ _ _ _ _ _ _ _ => skip); with_reducible apply Frame.upd)
    | with_reducible exact .inr rfl
    | exact .inl (Part.sub_has _ hfm (by decide))
    | exact .inl ⟨Part.sub_has _ hfm (by decide), fun h => h⟩
    | exact .inl ⟨Part.sub_has _ hfm (by decide), fun h => by simpa only [List.length_set, List.length_map, List.length_zipIdx] using h⟩

theorem decideLoad_frame {fm : List Part} {b0 : State} (s : State) (b : Nat)
    (hfr : Frame fm b0 s) (hfm : Part.sub [.cyc, .tick, .tfrac, .regs, .tiles, .net, .reports, .stk, .vil, .serve, .log, .pwr] fm = true) : Frame fm b0 (decideLoad s b) := by
  unfold decideLoad
  repeat' first
    | with_reducible assumption
    | exact Part.sub_trans (by decide) hfm
    | with_reducible intro _
    | (extract_lets +onlyGivenNames x; refine (fun hx => ?_ : (Frame fm b0 x) → _) ?_; (on_goal 2 => unfold x); all_goals clear_value x)
    | (extract_lets +onlyGivenNames x; refine (fun hx => ?_ : (Frame fm b0 x.1) → _) ?_; (on_goal 2 => unfold x); all_goals clear_value x)
    | (extract_lets +onlyGivenNames x; refine (fun hx => ?_ : (tileSafe x = true) → _) ?_; (on_goal 2 => unfold x); all_goals clear_value x)
    | (extract_lets +onlyGivenNames x; refine (fun hx => ?_ : (tileSafe x.1 = true) → _) ?_; (on_goal 2 => unfold x); all_goals clear_value x)
    | (extract_lets +onlyGivenNames x; refine (fun hx => ?_ : (FrameOpt fm b0 x) → _) ?_; (on_goal 2 => unfold x); all_goals clear_value x)
    | (extract_lets +onlyGivenNames x; refine (fun hx => ?_ : (Frame fm b0 x.st) → _) ?_; (on_goal 2 => unfold x); all_goals clear_value x)
    | extract_lets +onlyGivenNames x
    | with_reducible apply finishLoad_frame
    | with_reducible apply sendHelm_frame
    | with_reducible apply Frame.ite
    | (with_reducible refine Frame.ofPair ‹_ = (_, _)› ?_)
    | split
    | ((conv in State.mk _ _ _ _ _ _ _ _ _ _ _ _ _ _ _ _ _ _ _ _ _ _ _ _ _ => skip); with_reducible apply Frame.upd)
    | with_reducible exact .inr rfl
    | exact .inl (Part.sub_has _ hfm (by decide))
    | exact .inl ⟨Part.sub_has _ hfm (by decide), fun h => h⟩
    | exact .inl ⟨Part.sub_has _ hfm (by decide), fun h => by simpa only [List.length_set, List.length_map, List.length_zipIdx] using h⟩

theorem awaitVersions_frame {fm : List Part} {b0 : State} (s : State) (b : Nat) (a : BitVec 48)
    (hfr : Frame fm b0 s) (hfm : Part.sub [.cyc, .tick, .tfrac, .regs, .tiles, .net, .reports, .stk, .vil, .serve, .log, .pwr] fm = true) : Frame fm b0 (awaitVersions s b a) := by
  unfold awaitVersions
  repeat' first
    | with_reducible assumption
    | exact Part.sub_trans (by decide) hfm
    | with_reducible intro _
    | with_reducible apply decideLoad_frame
    | with_reducible apply rset_frame
    | with_reducible apply putBerth_frame
    | ((conv in State.mk _ _ _ _ _ _ _ _ _ _ _ _ _ _ _ _ _ _ _ _ _ _ _ _ _ => skip); with_reducible apply Frame.upd)
    | with_reducible exact .inr rfl
    | exact .inl (Part.sub_has _ hfm (by decide))
    | exact .inl ⟨Part.sub_has _ hfm (by decide), fun h => h⟩
    | exact .inl ⟨Part.sub_has _ hfm (by decide), fun h => by simpa only [List.length_set, List.length_map, List.length_zipIdx] using h⟩

theorem imageCommand_frame {fm : List Part} {b0 : State} (s : State) (l : Line) (op : Nat) (nand : Bool) (f : State → ImgDone)
    (hfr : Frame fm b0 s) (hf : ∀ u, Frame fm b0 u → Frame fm b0 (f u).1) (hfm : Part.sub [.cyc, .tick, .tfrac, .regs, .tiles, .net, .reports, .stk, .vil, .serve, .log, .pwr] fm = true) : Frame fm b0 (imageCommand s l op nand f) := by
  unfold imageCommand
  repeat' first
    | with_reducible assumption
    | exact Part.sub_trans (by decide) hfm
    | with_reducible intro _
    | (extract_lets +onlyGivenNames x; refine (fun hx => ?_ : (Frame fm b0 x) → _) ?_; (on_goal 2 => unfold x); all_goals clear_value x)
    | (extract_lets +onlyGivenNames x; refine (fun hx => ?_ : (Frame fm b0 x.1) → _) ?_; (on_goal 2 => unfold x); all_goals clear_value x)
    | (extract_lets +onlyGivenNames x; refine (fun hx => ?_ : (tileSafe x = true) → _) ?_; (on_goal 2 => unfold x); all_goals clear_value x)
    | (extract_lets +onlyGivenNames x; refine (fun hx => ?_ : (tileSafe x.1 = true) → _) ?_; (on_goal 2 => unfold x); all_goals clear_value x)
    | (extract_lets +onlyGivenNames x; refine (fun hx => ?_ : (FrameOpt fm b0 x) → _) ?_; (on_goal 2 => unfold x); all_goals clear_value x)
    | (extract_lets +onlyGivenNames x; refine (fun hx => ?_ : (Frame fm b0 x.st) → _) ?_; (on_goal 2 => unfold x); all_goals clear_value x)
    | extract_lets +onlyGivenNames x
    | with_reducible apply hf
    | with_reducible apply rput_frame
    | with_reducible apply markLine_frame
    | with_reducible apply mediaResult_frame
    | with_reducible apply awaitVersions_frame
    | with_reducible apply writeAck_frame
    | with_reducible apply Frame.ite
    | split

theorem withSlot_frame {fm : List Part} {b0 : State} (l : Line) (f : State → Nat → ImgDone) (s : State) (hf : ∀ u k, Frame fm b0 u → Frame fm b0 (f u k).1)
    (hfr : Frame fm b0 s) (hfm : Part.sub [] fm = true) : Frame fm b0 (withSlot l f s).1 := by
  unfold withSlot
  repeat' first
    | with_reducible assumption
    | with_reducible apply hf
    | split

theorem withPlainSlot_frame {fm : List Part} {b0 : State} (l : Line) (f : State → Nat → ImgDone) (s : State) (hf : ∀ u k, Frame fm b0 u → Frame fm b0 (f u k).1)
    (hfr : Frame fm b0 s) (hfm : Part.sub [] fm = true) : Frame fm b0 (withPlainSlot l f s).1 := by
  unfold withPlainSlot
  repeat' first
    | with_reducible assumption
    | with_reducible apply hf
    | split

theorem beginProgram_frame {fm : List Part} {b0 : State} (s : State) (n : ImgName) (slot : Nat)
    (hfr : Frame fm b0 s) (hfm : Part.sub [.img] fm = true) : Frame fm b0 (beginProgram s n slot) := by
  unfold beginProgram
  repeat' first
    | with_reducible assumption
    | exact Part.sub_trans (by decide) hfm
    | with_reducible intro _
    | ((conv in State.mk _ _ _ _ _ _ _ _ _ _ _ _ _ _ _ _ _ _ _ _ _ _ _ _ _ => skip); with_reducible apply Frame.upd)
    | with_reducible exact .inr rfl
    | exact .inl (Part.sub_has _ hfm (by decide))
    | exact .inl ⟨Part.sub_has _ hfm (by decide), fun h => h⟩
    | exact .inl ⟨Part.sub_has _ hfm (by decide), fun h => by simpa only [List.length_set, List.length_map, List.length_zipIdx] using h⟩

theorem programBegin_frame {fm : List Part} {b0 : State} (l : Line) (s : State) (slot : Nat)
    (hfr : Frame fm b0 s) (hfm : Part.sub [.img] fm = true) : Frame fm b0 (programBegin l s slot).1 := by
  unfold programBegin
  repeat' first
    | with_reducible assumption
    | exact Part.sub_trans (by decide) hfm
    | with_reducible intro _
    | (extract_lets +onlyGivenNames x; refine (fun hx => ?_ : (Frame fm b0 x) → _) ?_; (on_goal 2 => unfold x); all_goals clear_value x)
    | (extract_lets +onlyGivenNames x; refine (fun hx => ?_ : (Frame fm b0 x.1) → _) ?_; (on_goal 2 => unfold x); all_goals clear_value x)
    | (extract_lets +onlyGivenNames x; refine (fun hx => ?_ : (tileSafe x = true) → _) ?_; (on_goal 2 => unfold x); all_goals clear_value x)
    | (extract_lets +onlyGivenNames x; refine (fun hx => ?_ : (tileSafe x.1 = true) → _) ?_; (on_goal 2 => unfold x); all_goals clear_value x)
    | (extract_lets +onlyGivenNames x; refine (fun hx => ?_ : (FrameOpt fm b0 x) → _) ?_; (on_goal 2 => unfold x); all_goals clear_value x)
    | (extract_lets +onlyGivenNames x; refine (fun hx => ?_ : (Frame fm b0 x.st) → _) ?_; (on_goal 2 => unfold x); all_goals clear_value x)
    | extract_lets +onlyGivenNames x
    | with_reducible apply putCat_frame
    | with_reducible apply putSlotData_frame
    | with_reducible apply beginProgram_frame
    | with_reducible apply Frame.ite
    | split

theorem programChunk_frame {fm : List Part} {b0 : State} (l : Line) (bytes : List Byte) (s : State) (slot : Nat)
    (hfr : Frame fm b0 s) (hfm : Part.sub [.img] fm = true) : Frame fm b0 (programChunk l bytes s slot).1 := by
  unfold programChunk
  repeat' first
    | with_reducible assumption
    | exact Part.sub_trans (by decide) hfm
    | with_reducible intro _
    | (extract_lets +onlyGivenNames x; refine (fun hx => ?_ : (Frame fm b0 x) → _) ?_; (on_goal 2 => unfold x); all_goals clear_value x)
    | (extract_lets +onlyGivenNames x; refine (fun hx => ?_ : (Frame fm b0 x.1) → _) ?_; (on_goal 2 => unfold x); all_goals clear_value x)
    | (extract_lets +onlyGivenNames x; refine (fun hx => ?_ : (tileSafe x = true) → _) ?_; (on_goal 2 => unfold x); all_goals clear_value x)
    | (extract_lets +onlyGivenNames x; refine (fun hx => ?_ : (tileSafe x.1 = true) → _) ?_; (on_goal 2 => unfold x); all_goals clear_value x)
    | (extract_lets +onlyGivenNames x; refine (fun hx => ?_ : (FrameOpt fm b0 x) → _) ?_; (on_goal 2 => unfold x); all_goals clear_value x)
    | (extract_lets +onlyGivenNames x; refine (fun hx => ?_ : (Frame fm b0 x.st) → _) ?_; (on_goal 2 => unfold x); all_goals clear_value x)
    | extract_lets +onlyGivenNames x
    | with_reducible apply putSlotData_frame
    | with_reducible apply Frame.ite
    | (with_reducible refine Frame.ofPair ‹_ = (_, _)› ?_)
    | split
    | ((conv in State.mk _ _ _ _ _ _ _ _ _ _ _ _ _ _ _ _ _ _ _ _ _ _ _ _ _ => skip); with_reducible apply Frame.upd)
    | with_reducible exact .inr rfl
    | exact .inl (Part.sub_has _ hfm (by decide))
    | exact .inl ⟨Part.sub_has _ hfm (by decide), fun h => h⟩
    | exact .inl ⟨Part.sub_has _ hfm (by decide), fun h => by simpa only [List.length_set, List.length_map, List.length_zipIdx] using h⟩
    | exact .inl ⟨Part.sub_has _ hfm (by decide), fun h => memWrite_wf _ _ _ h⟩

theorem programEnd_frame {fm : List Part} {b0 : State} (l : Line) (s : State) (slot : Nat)
    (hfr : Frame fm b0 s) (hfm : Part.sub [.regs, .img] fm = true) : Frame fm b0 (programEnd l s slot).1 := by
  unfold programEnd
  repeat' first
    | with_reducible assumption
    | exact Part.sub_trans (by decide) hfm
    | with_reducible intro _
    | (extract_lets +onlyGivenNames x; refine (fun hx => ?_ : (Frame fm b0 x) → _) ?_; (on_goal 2 => unfold x); all_goals clear_value x)
    | (extract_lets +onlyGivenNames x; refine (fun hx => ?_ : (Frame fm b0 x.1) → _) ?_; (on_goal 2 => unfold x); all_goals clear_value x)
    | (extract_lets +onlyGivenNames x; refine (fun hx => ?_ : (tileSafe x = true) → _) ?_; (on_goal 2 => unfold x); all_goals clear_value x)
    | (extract_lets +onlyGivenNames x; refine (fun hx => ?_ : (tileSafe x.1 = true) → _) ?_; (on_goal 2 => unfold x); all_goals clear_value x)
    | (extract_lets +onlyGivenNames x; refine (fun hx => ?_ : (FrameOpt fm b0 x) → _) ?_; (on_goal 2 => unfold x); all_goals clear_value x)
    | (extract_lets +onlyGivenNames x; refine (fun hx => ?_ : (Frame fm b0 x.st) → _) ?_; (on_goal 2 => unfold x); all_goals clear_value x)
    | extract_lets +onlyGivenNames x
    | with_reducible apply checkImage_frame
    | with_reducible apply rbump_frame
    | with_reducible apply putSlotData_frame
    | with_reducible apply putCat_frame
    | with_reducible apply Frame.ite
    | (with_reducible refine Frame.ofPair ‹_ = (_, _)› ?_)
    | split
    | ((conv in State.mk _ _ _ _ _ _ _ _ _ _ _ _ _ _ _ _ _ _ _ _ _ _ _ _ _ => skip); with_reducible apply Frame.upd)
    | with_reducible exact .inr rfl
    | exact .inl (Part.sub_has _ hfm (by decide))
    | exact .inl ⟨Part.sub_has _ hfm (by decide), fun h => h⟩
    | exact .inl ⟨Part.sub_has _ hfm (by decide), fun h => by simpa only [List.length_set, List.length_map, List.length_zipIdx] using h⟩

theorem activateCmd_frame {fm : List Part} {b0 : State} (l : Line) (s : State) (slot : Nat)
    (hfr : Frame fm b0 s) (hfm : Part.sub [.img] fm = true) : Frame fm b0 (activateCmd l s slot).1 := by
  unfold activateCmd
  repeat' first
    | with_reducible assumption
    | with_reducible apply activateSlot_frame
    | split

theorem eraseCmd_frame {fm : List Part} {b0 : State} (l : Line) (s : State) (slot : Nat)
    (hfr : Frame fm b0 s) (hfm : Part.sub [.img] fm = true) : Frame fm b0 (eraseCmd l s slot).1 := by
  unfold eraseCmd
  repeat' first
    | with_reducible assumption
    | exact Part.sub_trans (by decide) hfm
    | with_reducible intro _
    | (extract_lets +onlyGivenNames x; refine (fun hx => ?_ : (Frame fm b0 x) → _) ?_; (on_goal 2 => unfold x); all_goals clear_value x)
    | (extract_lets +onlyGivenNames x; refine (fun hx => ?_ : (Frame fm b0 x.1) → _) ?_; (on_goal 2 => unfold x); all_goals clear_value x)
    | (extract_lets +onlyGivenNames x; refine (fun hx => ?_ : (tileSafe x = true) → _) ?_; (on_goal 2 => unfold x); all_goals clear_value x)
    | (extract_lets +onlyGivenNames x; refine (fun hx => ?_ : (tileSafe x.1 = true) → _) ?_; (on_goal 2 => unfold x); all_goals clear_value x)
    | (extract_lets +onlyGivenNames x; refine (fun hx => ?_ : (FrameOpt fm b0 x) → _) ?_; (on_goal 2 => unfold x); all_goals clear_value x)
    | (extract_lets +onlyGivenNames x; refine (fun hx => ?_ : (Frame fm b0 x.st) → _) ?_; (on_goal 2 => unfold x); all_goals clear_value x)
    | extract_lets +onlyGivenNames x
    | with_reducible apply putSlotData_frame
    | with_reducible apply putCat_frame
    | with_reducible apply Frame.ite
    | (with_reducible refine Frame.ofPair ‹_ = (_, _)› ?_)
    | split
    | ((conv in State.mk _ _ _ _ _ _ _ _ _ _ _ _ _ _ _ _ _ _ _ _ _ _ _ _ _ => skip); with_reducible apply Frame.upd)
    | with_reducible exact .inr rfl
    | exact .inl (Part.sub_has _ hfm (by decide))
    | exact .inl ⟨Part.sub_has _ hfm (by decide), fun h => h⟩
    | exact .inl ⟨Part.sub_has _ hfm (by decide), fun h => by simpa only [List.length_set, List.length_map, List.length_zipIdx] using h⟩

theorem bootsetCmd_frame {fm : List Part} {b0 : State} (l : Line) (s : State) (slot : Nat)
    (hfr : Frame fm b0 s) (hfm : Part.sub [.img] fm = true) : Frame fm b0 (bootsetCmd l s slot).1 := by
  unfold bootsetCmd
  repeat' first
    | with_reducible assumption
    | extract_lets +onlyGivenNames x
    | split
    | ((conv in State.mk _ _ _ _ _ _ _ _ _ _ _ _ _ _ _ _ _ _ _ _ _ _ _ _ _ => skip); with_reducible apply Frame.upd)
    | with_reducible exact .inr rfl
    | exact .inl (Part.sub_has _ hfm (by decide))

theorem execProgramBegin_frame {fm : List Part} {b0 : State} (o : ImageOrder) (s : State)
    (hfr : Frame fm b0 s) (hfm : Part.sub [.cyc, .tick, .tfrac, .regs, .tiles, .net, .reports, .stk, .vil, .serve, .img, .log, .pwr] fm = true) : FrameOut fm b0 (execProgramBegin o s) := by
  unfold execProgramBegin
  repeat' first
    | with_reducible assumption
    | exact Part.sub_trans (by decide) hfm
    | with_reducible intro _
    | with_reducible apply FrameOut.next
    | with_reducible apply imageCommand_frame
    | with_reducible apply withPlainSlot_frame
    | with_reducible apply programBegin_frame
    | ((conv in State.mk _ _ _ _ _ _ _ _ _ _ _ _ _ _ _ _ _ _ _ _ _ _ _ _ _ => skip); with_reducible apply Frame.upd)
    | with_reducible exact .inr rfl
    | exact .inl (Part.sub_has _ hfm (by decide))
    | exact .inl ⟨Part.sub_has _ hfm (by decide), fun h => h⟩
    | exact .inl ⟨Part.sub_has _ hfm (by decide), fun h => by simpa only [List.length_set, List.length_map, List.length_zipIdx] using h⟩

theorem execProgramChunk_frame {fm : List Part} {b0 : State} (o : ImageOrder) (bytes : List Byte) (s : State)
    (hfr : Frame fm b0 s) (hfm : Part.sub [.cyc, .tick, .tfrac, .regs, .tiles, .net, .reports, .stk, .vil, .serve, .img, .log, .pwr] fm = true) : FrameOut fm b0 (execProgramChunk o bytes s) := by
  unfold execProgramChunk
  repeat' first
    | with_reducible assumption
    | exact Part.sub_trans (by decide) hfm
    | with_reducible intro _
    | with_reducible apply FrameOut.next
    | with_reducible apply imageCommand_frame
    | with_reducible apply withPlainSlot_frame
    | with_reducible apply programChunk_frame
    | ((conv in State.mk _ _ _ _ _ _ _ _ _ _ _ _ _ _ _ _ _ _ _ _ _ _ _ _ _ => skip); with_reducible apply Frame.upd)
    | with_reducible exact .inr rfl
    | exact .inl (Part.sub_has _ hfm (by decide))
    | exact .inl ⟨Part.sub_has _ hfm (by decide), fun h => h⟩
    | exact .inl ⟨Part.sub_has _ hfm (by decide), fun h => by simpa only [List.length_set, List.length_map, List.length_zipIdx] using h⟩

theorem execProgramEnd_frame {fm : List Part} {b0 : State} (o : ImageOrder) (s : State)
    (hfr : Frame fm b0 s) (hfm : Part.sub [.cyc, .tick, .tfrac, .regs, .tiles, .net, .reports, .stk, .vil, .serve, .img, .log, .pwr] fm = true) : FrameOut fm b0 (execProgramEnd o s) := by
  unfold execProgramEnd
  repeat' first
    | with_reducible assumption
    | exact Part.sub_trans (by decide) hfm
    | with_reducible intro _
    | with_reducible apply FrameOut.next
    | with_reducible apply imageCommand_frame
    | with_reducible apply withPlainSlot_frame
    | with_reducible apply programEnd_frame
    | ((conv in State.mk _ _ _ _ _ _ _ _ _ _ _ _ _ _ _ _ _ _ _ _ _ _ _ _ _ => skip); with_reducible apply Frame.upd)
    | with_reducible exact .inr rfl
    | exact .inl (Part.sub_has _ hfm (by decide))
    | exact .inl ⟨Part.sub_has _ hfm (by decide), fun h => h⟩
    | exact .inl ⟨Part.sub_has _ hfm (by decide), fun h => by simpa only [List.length_set, List.length_map, List.length_zipIdx] using h⟩

theorem execActivate_frame {fm : List Part} {b0 : State} (o : ImageOrder) (s : State)
    (hfr : Frame fm b0 s) (hfm : Part.sub [.cyc, .tick, .tfrac, .regs, .tiles, .net, .reports, .stk, .vil, .serve, .img, .log, .pwr] fm = true) : FrameOut fm b0 (execActivate o s) := by
  unfold execActivate
  repeat' first
    | with_reducible assumption
    | exact Part.sub_trans (by decide) hfm
    | with_reducible intro _
    | with_reducible apply FrameOut.next
    | with_reducible apply imageCommand_frame
    | with_reducible apply withPlainSlot_frame
    | with_reducible apply activateCmd_frame
    | ((conv in State.mk _ _ _ _ _ _ _ _ _ _ _ _ _ _ _ _ _ _ _ _ _ _ _ _ _ => skip); with_reducible apply Frame.upd)
    | with_reducible exact .inr rfl
    | exact .inl (Part.sub_has _ hfm (by decide))
    | exact .inl ⟨Part.sub_has _ hfm (by decide), fun h => h⟩
    | exact .inl ⟨Part.sub_has _ hfm (by decide), fun h => by simpa only [List.length_set, List.length_map, List.length_zipIdx] using h⟩

theorem execErase_frame {fm : List Part} {b0 : State} (o : ImageOrder) (s : State)
    (hfr : Frame fm b0 s) (hfm : Part.sub [.cyc, .tick, .tfrac, .regs, .tiles, .net, .reports, .stk, .vil, .serve, .img, .log, .pwr] fm = true) : FrameOut fm b0 (execErase o s) := by
  unfold execErase
  repeat' first
    | with_reducible assumption
    | exact Part.sub_trans (by decide) hfm
    | with_reducible intro _
    | with_reducible apply FrameOut.next
    | with_reducible apply imageCommand_frame
    | with_reducible apply withPlainSlot_frame
    | with_reducible apply eraseCmd_frame
    | ((conv in State.mk _ _ _ _ _ _ _ _ _ _ _ _ _ _ _ _ _ _ _ _ _ _ _ _ _ => skip); with_reducible apply Frame.upd)
    | with_reducible exact .inr rfl
    | exact .inl (Part.sub_has _ hfm (by decide))
    | exact .inl ⟨Part.sub_has _ hfm (by decide), fun h => h⟩
    | exact .inl ⟨Part.sub_has _ hfm (by decide), fun h => by simpa only [List.length_set, List.length_map, List.length_zipIdx] using h⟩

theorem execLoad_frame {fm : List Part} {b0 : State} (o : ImageOrder) (s : State)
    (hfr : Frame fm b0 s) (hfm : Part.sub [.cyc, .tick, .tfrac, .regs, .tiles, .dram, .net, .reports, .stk, .vil, .serve, .log, .pwr] fm = true) : FrameOut fm b0 (execLoad o s) := by
  unfold execLoad
  repeat' first
    | with_reducible assumption
    | exact Part.sub_trans (by decide) hfm
    | with_reducible intro _
    | with_reducible apply FrameOut.next
    | with_reducible apply imageCommand_frame
    | with_reducible apply withSlot_frame
    | with_reducible apply loadBerth_frame
    | ((conv in State.mk _ _ _ _ _ _ _ _ _ _ _ _ _ _ _ _ _ _ _ _ _ _ _ _ _ => skip); with_reducible apply Frame.upd)
    | with_reducible exact .inr rfl
    | exact .inl (Part.sub_has _ hfm (by decide))
    | exact .inl ⟨Part.sub_has _ hfm (by decide), fun h => h⟩
    | exact .inl ⟨Part.sub_has _ hfm (by decide), fun h => by simpa only [List.length_set, List.length_map, List.length_zipIdx] using h⟩

theorem execStageAdapter_frame {fm : List Part} {b0 : State} (o : ImageOrder) (s : State)
    (hfr : Frame fm b0 s) (hfm : Part.sub [.cyc, .tick, .tfrac, .regs, .tiles, .dram, .net, .reports, .stk, .vil, .serve, .log, .pwr] fm = true) : FrameOut fm b0 (execStageAdapter o s) := by
  unfold execStageAdapter
  repeat' first
    | with_reducible assumption
    | exact Part.sub_trans (by decide) hfm
    | with_reducible intro _
    | with_reducible apply FrameOut.next
    | with_reducible apply imageCommand_frame
    | with_reducible apply withSlot_frame
    | with_reducible apply stageAdapter_frame
    | ((conv in State.mk _ _ _ _ _ _ _ _ _ _ _ _ _ _ _ _ _ _ _ _ _ _ _ _ _ => skip); with_reducible apply Frame.upd)
    | with_reducible exact .inr rfl
    | exact .inl (Part.sub_has _ hfm (by decide))
    | exact .inl ⟨Part.sub_has _ hfm (by decide), fun h => h⟩
    | exact .inl ⟨Part.sub_has _ hfm (by decide), fun h => by simpa only [List.length_set, List.length_map, List.length_zipIdx] using h⟩

theorem execReplace_frame {fm : List Part} {b0 : State} (o : ImageOrder) (s : State)
    (hfr : Frame fm b0 s) (hfm : Part.sub [.cyc, .tick, .tfrac, .regs, .tiles, .dram, .net, .reports, .stk, .vil, .serve, .log, .pwr] fm = true) : FrameOut fm b0 (execReplace o s) := by
  unfold execReplace
  repeat' first
    | with_reducible assumption
    | exact Part.sub_trans (by decide) hfm
    | with_reducible intro _
    | with_reducible apply FrameOut.next
    | with_reducible apply imageCommand_frame
    | with_reducible apply withSlot_frame
    | with_reducible apply replaceBerth_frame
    | ((conv in State.mk _ _ _ _ _ _ _ _ _ _ _ _ _ _ _ _ _ _ _ _ _ _ _ _ _ => skip); with_reducible apply Frame.upd)
    | with_reducible exact .inr rfl
    | exact .inl (Part.sub_has _ hfm (by decide))
    | exact .inl ⟨Part.sub_has _ hfm (by decide), fun h => h⟩
    | exact .inl ⟨Part.sub_has _ hfm (by decide), fun h => by simpa only [List.length_set, List.length_map, List.length_zipIdx] using h⟩

theorem execBootset_frame {fm : List Part} {b0 : State} (o : ImageOrder) (s : State)
    (hfr : Frame fm b0 s) (hfm : Part.sub [.cyc, .tick, .tfrac, .regs, .tiles, .net, .reports, .stk, .vil, .serve, .img, .log, .pwr] fm = true) : FrameOut fm b0 (execBootset o s) := by
  unfold execBootset
  repeat' first
    | with_reducible assumption
    | exact Part.sub_trans (by decide) hfm
    | with_reducible intro _
    | with_reducible apply FrameOut.next
    | with_reducible apply imageCommand_frame
    | with_reducible apply withSlot_frame
    | with_reducible apply bootsetCmd_frame
    | ((conv in State.mk _ _ _ _ _ _ _ _ _ _ _ _ _ _ _ _ _ _ _ _ _ _ _ _ _ => skip); with_reducible apply Frame.upd)
    | with_reducible exact .inr rfl
    | exact .inl (Part.sub_has _ hfm (by decide))
    | exact .inl ⟨Part.sub_has _ hfm (by decide), fun h => h⟩
    | exact .inl ⟨Part.sub_has _ hfm (by decide), fun h => by simpa only [List.length_set, List.length_map, List.length_zipIdx] using h⟩

theorem startLoaded_frame {fm : List Part} {b0 : State} (s : State) (b : Nat)
    (hfr : Frame fm b0 s) (hfm : Part.sub [.cyc, .tick, .tfrac, .regs, .tiles, .net, .reports, .serve, .log, .pwr, .rst] fm = true) : Frame fm b0 (startLoaded s b) := by
  unfold startLoaded
  repeat' first
    | with_reducible assumption
    | exact Part.sub_trans (by decide) hfm
    | with_reducible intro _
    | (extract_lets +onlyGivenNames x; refine (fun hx => ?_ : (Frame fm b0 x) → _) ?_; (on_goal 2 => unfold x); all_goals clear_value x)
    | (extract_lets +onlyGivenNames x; refine (fun hx => ?_ : (Frame fm b0 x.1) → _) ?_; (on_goal 2 => unfold x); all_goals clear_value x)
    | (extract_lets +onlyGivenNames x; refine (fun hx => ?_ : (tileSafe x = true) → _) ?_; (on_goal 2 => unfold x); all_goals clear_value x)
    | (extract_lets +onlyGivenNames x; refine (fun hx => ?_ : (tileSafe x.1 = true) → _) ?_; (on_goal 2 => unfold x); all_goals clear_value x)
    | (extract_lets +onlyGivenNames x; refine (fun hx => ?_ : (FrameOpt fm b0 x) → _) ?_; (on_goal 2 => unfold x); all_goals clear_value x)
    | (extract_lets +onlyGivenNames x; refine (fun hx => ?_ : (Frame fm b0 x.st) → _) ?_; (on_goal 2 => unfold x); all_goals clear_value x)
    | extract_lets +onlyGivenNames x
    | with_reducible apply startSteps_frame
    | with_reducible apply loadRings_frame
    | with_reducible apply putBerth_frame
    | ((conv in State.mk _ _ _ _ _ _ _ _ _ _ _ _ _ _ _ _ _ _ _ _ _ _ _ _ _ => skip); with_reducible apply Frame.upd)
    | with_reducible exact .inr rfl
    | exact .inl (Part.sub_has _ hfm (by decide))
    | exact .inl ⟨Part.sub_has _ hfm (by decide), fun h => h⟩
    | exact .inl ⟨Part.sub_has _ hfm (by decide), fun h => by simpa only [List.length_set, List.length_map, List.length_zipIdx] using h⟩

theorem startDue_frame {fm : List Part} {b0 : State} (s : State)
    (hfr : Frame fm b0 s) (hfm : Part.sub [.cyc, .tick, .tfrac, .regs, .tiles, .net, .reports, .serve, .log, .pwr, .rst] fm = true) : Frame fm b0 (startDue s) := by
  unfold startDue
  repeat' first
    | with_reducible assumption
    | with_reducible intro _
    | extract_lets +onlyGivenNames x
    | with_reducible apply startLoaded_frame
    | with_reducible apply Frame.foldl
    | with_reducible apply Frame.ite
    | split

theorem endOutside_frame {fm : List Part} {b0 : State} (s : State) (b status end_ : Nat) (l : List (Nat × Context))
    (hfr : Frame fm b0 s) (hfm : Part.sub [.serve] fm = true) : Frame fm b0 (endOutside s b status end_ l) := by
  unfold endOutside
  repeat' first
    | with_reducible assumption
    | exact Part.sub_trans (by decide) hfm
    | with_reducible intro _
    | (extract_lets +onlyGivenNames x; refine (fun hx => ?_ : (Frame fm b0 x) → _) ?_; (on_goal 2 => unfold x); all_goals clear_value x)
    | (extract_lets +onlyGivenNames x; refine (fun hx => ?_ : (Frame fm b0 x.1) → _) ?_; (on_goal 2 => unfold x); all_goals clear_value x)
    | (extract_lets +onlyGivenNames x; refine (fun hx => ?_ : (tileSafe x = true) → _) ?_; (on_goal 2 => unfold x); all_goals clear_value x)
    | (extract_lets +onlyGivenNames x; refine (fun hx => ?_ : (tileSafe x.1 = true) → _) ?_; (on_goal 2 => unfold x); all_goals clear_value x)
    | (extract_lets +onlyGivenNames x; refine (fun hx => ?_ : (FrameOpt fm b0 x) → _) ?_; (on_goal 2 => unfold x); all_goals clear_value x)
    | (extract_lets +onlyGivenNames x; refine (fun hx => ?_ : (Frame fm b0 x.st) → _) ?_; (on_goal 2 => unfold x); all_goals clear_value x)
    | extract_lets +onlyGivenNames x
    | with_reducible apply putBerth_frame
    | with_reducible apply dropContext_frame
    | with_reducible apply Frame.foldl
    | with_reducible apply Frame.foldlFst
    | ((conv in State.mk _ _ _ _ _ _ _ _ _ _ _ _ _ _ _ _ _ _ _ _ _ _ _ _ _ => skip); with_reducible apply Frame.upd)
    | with_reducible exact .inr rfl
    | exact .inl (Part.sub_has _ hfm (by decide))
    | exact .inl ⟨Part.sub_has _ hfm (by decide), fun h => h⟩
    | exact .inl ⟨Part.sub_has _ hfm (by decide), fun h => by simpa only [List.length_set, List.length_map, List.length_zipIdx] using h⟩

theorem setReplaying_frame {fm : List Part} {b0 : State} (s : State) (b v : Nat)
    (hfr : Frame fm b0 s) (hfm : Part.sub [.regs] fm = true) : Frame fm b0 (setReplaying s b v) := by
  unfold setReplaying
  repeat' first
    | with_reducible assumption
    | with_reducible apply rput_frame

theorem discardAreas_frame {fm : List Part} {b0 : State} (s : State) (b : Nat)
    (hfr : Frame fm b0 s) (hfm : Part.sub [.regs, .serve] fm = true) : Frame fm b0 (discardAreas s b) := by
  unfold discardAreas
  repeat' first
    | with_reducible assumption
    | exact Part.sub_trans (by decide) hfm
    | with_reducible intro _
    | with_reducible apply rput_frame
    | with_reducible apply putBerth_frame
    | with_reducible apply endCrossing_frame
    | with_reducible apply Frame.ite
    | split
    | ((conv in State.mk _ _ _ _ _ _ _ _ _ _ _ _ _ _ _ _ _ _ _ _ _ _ _ _ _ => skip); with_reducible apply Frame.upd)
    | with_reducible exact .inr rfl
    | exact .inl (Part.sub_has _ hfm (by decide))
    | exact .inl ⟨Part.sub_has _ hfm (by decide), fun h => h⟩
    | exact .inl ⟨Part.sub_has _ hfm (by decide), fun h => by simpa only [List.length_set, List.length_map, List.length_zipIdx] using h⟩

theorem finishBerth_frame {fm : List Part} {b0 : State} (s : State) (b status : Nat)
    (hfr : Frame fm b0 s) (hfm : Part.sub [.regs, .dram, .reports, .stk, .vil, .serve] fm = true) : Frame fm b0 (finishBerth s b status) := by
  unfold finishBerth
  repeat' first
    | with_reducible assumption
    | exact Part.sub_trans (by decide) hfm
    | with_reducible intro _
    | (extract_lets +onlyGivenNames x; refine (fun hx => ?_ : (Frame fm b0 x) → _) ?_; (on_goal 2 => unfold x); all_goals clear_value x)
    | (extract_lets +onlyGivenNames x; refine (fun hx => ?_ : (Frame fm b0 x.1) → _) ?_; (on_goal 2 => unfold x); all_goals clear_value x)
    | (extract_lets +onlyGivenNames x; refine (fun hx => ?_ : (tileSafe x = true) → _) ?_; (on_goal 2 => unfold x); all_goals clear_value x)
    | (extract_lets +onlyGivenNames x; refine (fun hx => ?_ : (tileSafe x.1 = true) → _) ?_; (on_goal 2 => unfold x); all_goals clear_value x)
    | (extract_lets +onlyGivenNames x; refine (fun hx => ?_ : (FrameOpt fm b0 x) → _) ?_; (on_goal 2 => unfold x); all_goals clear_value x)
    | (extract_lets +onlyGivenNames x; refine (fun hx => ?_ : (Frame fm b0 x.st) → _) ?_; (on_goal 2 => unfold x); all_goals clear_value x)
    | extract_lets +onlyGivenNames x
    | with_reducible apply endOutside_frame
    | with_reducible apply discardAreas_frame
    | with_reducible apply putBerthState_frame
    | with_reducible apply putBerth_frame
    | with_reducible apply writeAck_frame
    | with_reducible apply report_frame
    | with_reducible apply setReplaying_frame
    | (with_reducible refine Frame.ofPair ‹_ = (_, _)› ?_)
    | split
    | ((conv in State.mk _ _ _ _ _ _ _ _ _ _ _ _ _ _ _ _ _ _ _ _ _ _ _ _ _ => skip); with_reducible apply Frame.upd)
    | with_reducible exact .inr rfl
    | exact .inl (Part.sub_has _ hfm (by decide))
    | exact .inl ⟨Part.sub_has _ hfm (by decide), fun h => h⟩
    | exact .inl ⟨Part.sub_has _ hfm (by decide), fun h => by simpa only [List.length_set, List.length_map, List.length_zipIdx] using h⟩

theorem sendThermal_frame {fm : List Part} {b0 : State} (s : State) (b : Nat)
    (hfr : Frame fm b0 s) (hfm : Part.sub [.regs, .serve] fm = true) : Frame fm b0 (sendThermal s b) := by
  unfold sendThermal
  repeat' first
    | with_reducible assumption
    | exact Part.sub_trans (by decide) hfm
    | extract_lets +onlyGivenNames x
    | with_reducible apply sendHelm_frame
    | with_reducible apply Frame.ite

theorem putMap_frame {fm : List Part} {b0 : State} (s : State) (k l : Nat) (site : Option Nat)
    (hfr : Frame fm b0 s) (hfm : Part.sub [.regs] fm = true) : Frame fm b0 (putMap s k l site) := by
  unfold putMap
  repeat' first
    | with_reducible assumption
    | extract_lets +onlyGivenNames x
    | with_reducible apply rput_frame
    | with_reducible apply Frame.ite

theorem takeSpare_frame {fm : List Part} {b0 : State} (s : State) (b : Nat) (r : TileRef) (l : Nat)
    (hfr : Frame fm b0 s) (hfm : Part.sub [.cyc, .tick, .tfrac, .regs, .tiles, .net, .reports, .serve, .log, .pwr] fm = true) : Frame fm b0 (takeSpare s b r l) := by
  unfold takeSpare
  repeat' first
    | with_reducible assumption
    | exact Part.sub_trans (by decide) hfm
    | with_reducible intro _
    | (extract_lets +onlyGivenNames x; refine (fun hx => ?_ : (Frame fm b0 x) → _) ?_; (on_goal 2 => unfold x); all_goals clear_value x)
    | (extract_lets +onlyGivenNames x; refine (fun hx => ?_ : (Frame fm b0 x.1) → _) ?_; (on_goal 2 => unfold x); all_goals clear_value x)
    | (extract_lets +onlyGivenNames x; refine (fun hx => ?_ : (tileSafe x = true) → _) ?_; (on_goal 2 => unfold x); all_goals clear_value x)
    | (extract_lets +onlyGivenNames x; refine (fun hx => ?_ : (tileSafe x.1 = true) → _) ?_; (on_goal 2 => unfold x); all_goals clear_value x)
    | (extract_lets +onlyGivenNames x; refine (fun hx => ?_ : (FrameOpt fm b0 x) → _) ?_; (on_goal 2 => unfold x); all_goals clear_value x)
    | (extract_lets +onlyGivenNames x; refine (fun hx => ?_ : (Frame fm b0 x.st) → _) ?_; (on_goal 2 => unfold x); all_goals clear_value x)
    | extract_lets +onlyGivenNames x
    | with_reducible apply govWithdraw_frame
    | with_reducible apply changeSite_frame
    | with_reducible apply putMap_frame
    | with_reducible apply putBerth_frame
    | with_reducible apply runLoads_frame
    | with_reducible apply loadRings_frame
    | with_reducible apply fenceTile_safe
    | (with_reducible refine Frame.ofPair ‹_ = (_, _)› ?_)
    | split
    | ((conv in State.mk _ _ _ _ _ _ _ _ _ _ _ _ _ _ _ _ _ _ _ _ _ _ _ _ _ => skip); with_reducible apply Frame.upd)
    | with_reducible exact .inr rfl
    | exact .inl (Part.sub_has _ hfm (by decide))
    | exact .inl ⟨Part.sub_has _ hfm (by decide), fun h => h⟩
    | exact .inl ⟨Part.sub_has _ hfm (by decide), fun h => by simpa only [List.length_set, List.length_map, List.length_zipIdx] using h⟩
    | ((conv in Tile.mk _ _ _ _ _ _ _ _ _ _ _ _ _ _ _ _ _ _ _ _ _ _ _ _ _ _ _ _ _ _ _ _ _ _ _ _ _ _ _ _ => skip); with_reducible apply tileSafe_upd)
    | with_reducible exact .inl rfl

theorem noteAbandon_frame {fm : List Part} {b0 : State} (s : State) (b cls k l cause attempt : Nat)
    (hfr : Frame fm b0 s) (hfm : Part.sub [.regs] fm = true) : Frame fm b0 (noteAbandon s b cls k l cause attempt) := by
  unfold noteAbandon
  repeat' first
    | with_reducible assumption
    | extract_lets +onlyGivenNames x
    | with_reducible apply rbump_frame
    | with_reducible apply setRword_frame

theorem giveUp_frame {fm : List Part} {b0 : State} (s : State) (b : Nat)
    (hfr : Frame fm b0 s) (hfm : Part.sub [.regs, .dram, .reports, .stk, .vil, .serve] fm = true) : Frame fm b0 (giveUp s b) := by
  unfold giveUp
  repeat' first
    | with_reducible assumption
    | exact Part.sub_trans (by decide) hfm
    | (extract_lets +onlyGivenNames x; refine (fun hx => ?_ : (Frame fm b0 x) → _) ?_; (on_goal 2 => unfold x); all_goals clear_value x)
    | extract_lets +onlyGivenNames x
    | with_reducible apply finishBerth_frame
    | with_reducible apply endOutside_frame
    | with_reducible apply rbump_frame

theorem sendRecords_frame {fm : List Part} {b0 : State} (s : State) (b : Nat) (first at_ : Word)
    (hfr : Frame fm b0 s) (hfm : Part.sub [.regs, .serve] fm = true) : Frame fm b0 (sendRecords s b first at_) := by
  unfold sendRecords
  repeat' first
    | with_reducible assumption
    | exact Part.sub_trans (by decide) hfm
    | with_reducible apply sendHelm_frame

theorem putCurrent_frame {fm : List Part} {b0 : State} (s : State) (a : Nat) (v : Option Nat)
    (hfr : Frame fm b0 s) (hfm : Part.sub [.serve] fm = true) : Frame fm b0 (putCurrent s a v) := by
  unfold putCurrent
  repeat' first
    | with_reducible assumption
    | extract_lets +onlyGivenNames x
    | ((conv in State.mk _ _ _ _ _ _ _ _ _ _ _ _ _ _ _ _ _ _ _ _ _ _ _ _ _ => skip); with_reducible apply Frame.upd)
    | with_reducible exact .inr rfl
    | exact .inl ⟨Part.sub_has _ hfm (by decide), fun h => h⟩

theorem putVslot_frame {fm : List Part} {b0 : State} (s : State) (v : Nat) (x : VSlot)
    (hfr : Frame fm b0 s) (hfm : Part.sub [.serve] fm = true) : Frame fm b0 (putVslot s v x) := by
  unfold putVslot
  repeat' first
    | with_reducible assumption
    | extract_lets +onlyGivenNames x
    | ((conv in State.mk _ _ _ _ _ _ _ _ _ _ _ _ _ _ _ _ _ _ _ _ _ _ _ _ _ => skip); with_reducible apply Frame.upd)
    | with_reducible exact .inr rfl
    | exact .inl ⟨Part.sub_has _ hfm (by decide), fun h => h⟩

theorem mapPrefix_frame {fm : List Part} {b0 : State} (s : State) (c : Nat) (x : Context)
    (hfr : Frame fm b0 s) (hfm : Part.sub [.regs, .dram, .reports, .stk] fm = true) : Frame fm b0 (mapPrefix s c x).1 := by
  unfold mapPrefix
  repeat' first
    | with_reducible assumption
    | exact Part.sub_trans (by decide) hfm
    | (extract_lets +onlyGivenNames x; refine (fun hx => ?_ : (Frame fm b0 x.1) → _) ?_; (on_goal 2 => unfold x); all_goals clear_value x)
    | extract_lets +onlyGivenNames x
    | with_reducible apply prefixMap_frame
    | with_reducible apply openAll_frame
    | split

theorem rootKey_frame {fm : List Part} {b0 : State} (s : State) (q : Nat × Nat × Nat × Nat)
    (hfr : Frame fm b0 s) (hfm : Part.sub [.serve] fm = true) : Frame fm b0 (rootKey s q).1 := by
  unfold rootKey
  repeat' first
    | with_reducible assumption
    | exact Part.sub_trans (by decide) hfm
    | with_reducible intro _
    | with_reducible apply Frame.ite
    | split
    | ((conv in State.mk _ _ _ _ _ _ _ _ _ _ _ _ _ _ _ _ _ _ _ _ _ _ _ _ _ => skip); with_reducible apply Frame.upd)
    | with_reducible exact .inr rfl
    | exact .inl (Part.sub_has _ hfm (by decide))
    | exact .inl ⟨Part.sub_has _ hfm (by decide), fun h => h⟩
    | exact .inl ⟨Part.sub_has _ hfm (by decide), fun h => by simpa only [List.length_set, List.length_map, List.length_zipIdx] using h⟩

theorem saveTokens_frame {fm : List Part} {b0 : State} (s : State) (b c : Nat) (toks : List Word)
    (hfr : Frame fm b0 s) (hfm : Part.sub [.dram] fm = true) : Frame fm b0 (saveTokens s b c toks) := by
  unfold saveTokens
  repeat' first
    | with_reducible assumption
    | exact Part.sub_trans (by decide) hfm
    | with_reducible intro _
    | with_reducible apply dwrite_frame
    | with_reducible apply Frame.foldl
    | with_reducible apply Frame.foldlFst
    | split

theorem submitJob_frame {fm : List Part} {b0 : State} (l : Line) (toks : List Word) (s : State)
    (hfr : Frame fm b0 s) (hfm : Part.sub [.regs, .dram, .reports, .stk, .vil, .serve] fm = true) : Frame fm b0 (submitJob l toks s) := by
  unfold submitJob
  repeat' first
    | with_reducible assumption
    | exact Part.sub_trans (by decide) hfm
    | with_reducible intro _
    | (extract_lets +onlyGivenNames x; refine (fun hx => ?_ : (Frame fm b0 x) → _) ?_; (on_goal 2 => unfold x); all_goals clear_value x)
    | (extract_lets +onlyGivenNames x; refine (fun hx => ?_ : (Frame fm b0 x.1) → _) ?_; (on_goal 2 => unfold x); all_goals clear_value x)
    | (extract_lets +onlyGivenNames x; refine (fun hx => ?_ : (tileSafe x = true) → _) ?_; (on_goal 2 => unfold x); all_goals clear_value x)
    | (extract_lets +onlyGivenNames x; refine (fun hx => ?_ : (tileSafe x.1 = true) → _) ?_; (on_goal 2 => unfold x); all_goals clear_value x)
    | (extract_lets +onlyGivenNames x; refine (fun hx => ?_ : (FrameOpt fm b0 x) → _) ?_; (on_goal 2 => unfold x); all_goals clear_value x)
    | (extract_lets +onlyGivenNames x; refine (fun hx => ?_ : (Frame fm b0 x.st) → _) ?_; (on_goal 2 => unfold x); all_goals clear_value x)
    | extract_lets +onlyGivenNames x
    | with_reducible apply rootKey_frame
    | with_reducible apply rbump_frame
    | with_reducible apply saveTokens_frame
    | with_reducible apply mapPrefix_frame
    | with_reducible apply writeAck_frame
    | with_reducible apply putQueue_frame
    | with_reducible apply putCtx_frame
    | (with_reducible refine Frame.ofPair ‹_ = (_, _)› ?_)
    | split
    | ((conv in State.mk _ _ _ _ _ _ _ _ _ _ _ _ _ _ _ _ _ _ _ _ _ _ _ _ _ => skip); with_reducible apply Frame.upd)
    | with_reducible exact .inr rfl
    | exact .inl (Part.sub_has _ hfm (by decide))
    | exact .inl ⟨Part.sub_has _ hfm (by decide), fun h => h⟩
    | exact .inl ⟨Part.sub_has _ hfm (by decide), fun h => by simpa only [List.length_set, List.length_map, List.length_zipIdx] using h⟩

theorem cancelJob_frame {fm : List Part} {b0 : State} (l : Line) (s : State)
    (hfr : Frame fm b0 s) (hfm : Part.sub [.regs, .vil, .serve] fm = true) : Frame fm b0 (cancelJob l s) := by
  unfold cancelJob
  repeat' first
    | with_reducible assumption
    | exact Part.sub_trans (by decide) hfm
    | extract_lets +onlyGivenNames x
    | with_reducible apply writeAck_frame
    | with_reducible apply putCtx_frame
    | with_reducible apply rbump_frame
    | split

theorem supersede_frame {fm : List Part} {b0 : State} (s : State) (v : Option Nat)
    (hfr : Frame fm b0 s) (hfm : Part.sub [.serve] fm = true) : Frame fm b0 (supersede s v) := by
  unfold supersede
  repeat' first
    | with_reducible assumption
    | with_reducible apply putVslot_frame
    | split

theorem publishJob_frame {fm : List Part} {b0 : State} (l : Line) (s : State)
    (hfr : Frame fm b0 s) (hfm : Part.sub [.regs, .vil, .serve] fm = true) : Frame fm b0 (publishJob l s) := by
  unfold publishJob
  repeat' first
    | with_reducible assumption
    | exact Part.sub_trans (by decide) hfm
    | extract_lets +onlyGivenNames x
    | with_reducible apply supersede_frame
    | with_reducible apply putVslot_frame
    | with_reducible apply putCurrent_frame
    | with_reducible apply writeAck_frame
    | with_reducible apply Frame.ite
    | split

theorem retireJob_frame {fm : List Part} {b0 : State} (l : Line) (s : State)
    (hfr : Frame fm b0 s) (hfm : Part.sub [.regs, .vil, .serve] fm = true) : Frame fm b0 (retireJob l s) := by
  unfold retireJob
  repeat' first
    | with_reducible assumption
    | exact Part.sub_trans (by decide) hfm
    | extract_lets +onlyGivenNames x
    | with_reducible apply supersede_frame
    | with_reducible apply putCurrent_frame
    | with_reducible apply writeAck_frame
    | split

theorem execWatchNotice_frame {fm : List Part} {b0 : State} (l : Line) (s : State)
    (hfr : Frame fm b0 s) (hfm : Part.sub [.regs, .vil, .serve] fm = true) : FrameOut fm b0 (execWatchNotice l s) := by
  unfold execWatchNotice
  repeat' first
    | with_reducible assumption
    | exact Part.sub_trans (by decide) hfm
    | (extract_lets +onlyGivenNames x; refine (fun hx => ?_ : (Frame fm b0 x) → _) ?_; (on_goal 2 => unfold x); all_goals clear_value x)
    | extract_lets +onlyGivenNames x
    | with_reducible apply FrameOut.next
    | with_reducible apply watchRead_frame
    | with_reducible apply Frame.ite
    | ((conv in State.mk _ _ _ _ _ _ _ _ _ _ _ _ _ _ _ _ _ _ _ _ _ _ _ _ _ => skip); with_reducible apply Frame.upd)
    | with_reducible exact .inr rfl
    | exact .inl ⟨Part.sub_has _ hfm (by decide), fun h => h⟩

theorem execReturnLine_frame {fm : List Part} {b0 : State} (idx : Word) (s : State)
    (hfr : Frame fm b0 s) (hfm : Part.sub [.regs, .dram, .reports, .stk, .vil, .serve] fm = true) : FrameOut fm b0 (execReturnLine idx s) := by
  unfold execReturnLine
  repeat' first
    | with_reducible assumption
    | with_reducible intro _
    | extract_lets +onlyGivenNames x
    | with_reducible apply FrameOut.next
    | with_reducible apply releaseHeld_frame
    | with_reducible apply Frame.foldl
    | ((conv in State.mk _ _ _ _ _ _ _ _ _ _ _ _ _ _ _ _ _ _ _ _ _ _ _ _ _ => skip); with_reducible apply Frame.upd)
    | with_reducible exact .inr rfl
    | exact .inl ⟨Part.sub_has _ hfm (by decide), fun h => h⟩

theorem toQueue_frame {fm : List Part} {b0 : State} (s : State) (c : Nat) (x : Context)
    (hfr : Frame fm b0 s) (hfm : Part.sub [.serve] fm = true) : Frame fm b0 (toQueue s c x) := by
  unfold toQueue
  repeat' first
    | with_reducible assumption
    | exact Part.sub_trans (by decide) hfm
    | with_reducible intro _
    | with_reducible apply putQueue_frame
    | with_reducible apply putCtx_frame
    | ((conv in State.mk _ _ _ _ _ _ _ _ _ _ _ _ _ _ _ _ _ _ _ _ _ _ _ _ _ => skip); with_reducible apply Frame.upd)
    | with_reducible exact .inr rfl
    | exact .inl (Part.sub_has _ hfm (by decide))
    | exact .inl ⟨Part.sub_has _ hfm (by decide), fun h => h⟩
    | exact .inl ⟨Part.sub_has _ hfm (by decide), fun h => by simpa only [List.length_set, List.length_map, List.length_zipIdx] using h⟩
    | extract_lets +onlyGivenNames x

theorem prepareAll_frame {fm : List Part} {b0 : State} (s : State) (b c : Nat) (x : Context) (m : Nat)
    (hfr : Frame fm b0 s) (hfm : Part.sub [.regs, .dram, .reports, .stk] fm = true) : Frame fm b0 (prepareAll s b c x m).1 := by
  unfold prepareAll
  repeat' first
    | with_reducible assumption
    | exact Part.sub_trans (by decide) hfm
    | with_reducible intro _
    | (extract_lets +onlyGivenNames x; refine (fun hx => ?_ : (Frame fm b0 x) → _) ?_; (on_goal 2 => unfold x); all_goals clear_value x)
    | (extract_lets +onlyGivenNames x; refine (fun hx => ?_ : (Frame fm b0 x.1) → _) ?_; (on_goal 2 => unfold x); all_goals clear_value x)
    | (extract_lets +onlyGivenNames x; refine (fun hx => ?_ : (tileSafe x = true) → _) ?_; (on_goal 2 => unfold x); all_goals clear_value x)
    | (extract_lets +onlyGivenNames x; refine (fun hx => ?_ : (tileSafe x.1 = true) → _) ?_; (on_goal 2 => unfold x); all_goals clear_value x)
    | (extract_lets +onlyGivenNames x; refine (fun hx => ?_ : (FrameOpt fm b0 x) → _) ?_; (on_goal 2 => unfold x); all_goals clear_value x)
    | (extract_lets +onlyGivenNames x; refine (fun hx => ?_ : (Frame fm b0 x.st) → _) ?_; (on_goal 2 => unfold x); all_goals clear_value x)
    | extract_lets +onlyGivenNames x
    | with_reducible apply preparePages_frame
    | with_reducible apply Frame.foldl
    | with_reducible apply Frame.foldlFst
    | with_reducible apply Frame.ite
    | split

theorem placeIn_frame {fm : List Part} {b0 : State} (s : State) (b c : Nat) (x : Context) (e : SlotEntry)
    (hfr : Frame fm b0 s) (hfm : Part.sub [.regs, .dram, .reports, .stk, .serve] fm = true) : Frame fm b0 (placeIn s b c x e) := by
  unfold placeIn
  repeat' first
    | with_reducible assumption
    | exact Part.sub_trans (by decide) hfm
    | with_reducible intro _
    | (extract_lets +onlyGivenNames x; refine (fun hx => ?_ : (Frame fm b0 x) → _) ?_; (on_goal 2 => unfold x); all_goals clear_value x)
    | (extract_lets +onlyGivenNames x; refine (fun hx => ?_ : (Frame fm b0 x.1) → _) ?_; (on_goal 2 => unfold x); all_goals clear_value x)
    | (extract_lets +onlyGivenNames x; refine (fun hx => ?_ : (tileSafe x = true) → _) ?_; (on_goal 2 => unfold x); all_goals clear_value x)
    | (extract_lets +onlyGivenNames x; refine (fun hx => ?_ : (tileSafe x.1 = true) → _) ?_; (on_goal 2 => unfold x); all_goals clear_value x)
    | (extract_lets +onlyGivenNames x; refine (fun hx => ?_ : (FrameOpt fm b0 x) → _) ?_; (on_goal 2 => unfold x); all_goals clear_value x)
    | (extract_lets +onlyGivenNames x; refine (fun hx => ?_ : (Frame fm b0 x.st) → _) ?_; (on_goal 2 => unfold x); all_goals clear_value x)
    | extract_lets +onlyGivenNames x
    | with_reducible apply prepareAll_frame
    | with_reducible apply rbump_frame
    | with_reducible apply putCtx_frame
    | with_reducible apply unqueue_frame
    | with_reducible apply evictForRoom_frame
    | with_reducible apply Frame.ite
    | split
    | ((conv in State.mk _ _ _ _ _ _ _ _ _ _ _ _ _ _ _ _ _ _ _ _ _ _ _ _ _ => skip); with_reducible apply Frame.upd)
    | with_reducible exact .inr rfl
    | exact .inl (Part.sub_has _ hfm (by decide))
    | exact .inl ⟨Part.sub_has _ hfm (by decide), fun h => h⟩
    | exact .inl ⟨Part.sub_has _ hfm (by decide), fun h => by simpa only [List.length_set, List.length_map, List.length_zipIdx] using h⟩

theorem placeOne_frame {fm : List Part} {b0 : State} (b : Nat) (s : State) (c : Nat)
    (hfr : Frame fm b0 s) (hfm : Part.sub [.regs, .dram, .reports, .stk, .serve] fm = true) : Frame fm b0 (placeOne b s c) := by
  unfold placeOne
  repeat' first
    | with_reducible assumption
    | exact Part.sub_trans (by decide) hfm
    | extract_lets +onlyGivenNames x
    | with_reducible apply placeIn_frame
    | with_reducible apply toQueue_frame
    | with_reducible apply rbump_frame
    | with_reducible apply Frame.ite
    | split

theorem backToQueue_frame {fm : List Part} {b0 : State} (s : State) (c : Nat) (x : Context)
    (hfr : Frame fm b0 s) (hfm : Part.sub [.serve] fm = true) : Frame fm b0 (backToQueue s c x) := by
  unfold backToQueue
  repeat' first
    | with_reducible assumption
    | exact Part.sub_trans (by decide) hfm
    | with_reducible intro _
    | with_reducible apply putQueue_frame
    | with_reducible apply putCtx_frame
    | ((conv in State.mk _ _ _ _ _ _ _ _ _ _ _ _ _ _ _ _ _ _ _ _ _ _ _ _ _ => skip); with_reducible apply Frame.upd)
    | with_reducible exact .inr rfl
    | exact .inl (Part.sub_has _ hfm (by decide))
    | exact .inl ⟨Part.sub_has _ hfm (by decide), fun h => h⟩
    | exact .inl ⟨Part.sub_has _ hfm (by decide), fun h => by simpa only [List.length_set, List.length_map, List.length_zipIdx] using h⟩
    | extract_lets +onlyGivenNames x

theorem keepOne_frame {fm : List Part} {b0 : State} (b : Nat) (s : State) (q : Nat × Context)
    (hfr : Frame fm b0 s) (hfm : Part.sub [.regs, .dram, .reports, .stk, .serve] fm = true) : Frame fm b0 (keepOne b s q) := by
  unfold keepOne
  repeat' first
    | with_reducible assumption
    | exact Part.sub_trans (by decide) hfm
    | with_reducible intro _
    | (extract_lets +onlyGivenNames x; refine (fun hx => ?_ : (Frame fm b0 x) → _) ?_; (on_goal 2 => unfold x); all_goals clear_value x)
    | (extract_lets +onlyGivenNames x; refine (fun hx => ?_ : (Frame fm b0 x.1) → _) ?_; (on_goal 2 => unfold x); all_goals clear_value x)
    | (extract_lets +onlyGivenNames x; refine (fun hx => ?_ : (tileSafe x = true) → _) ?_; (on_goal 2 => unfold x); all_goals clear_value x)
    | (extract_lets +onlyGivenNames x; refine (fun hx => ?_ : (tileSafe x.1 = true) → _) ?_; (on_goal 2 => unfold x); all_goals clear_value x)
    | (extract_lets +onlyGivenNames x; refine (fun hx => ?_ : (FrameOpt fm b0 x) → _) ?_; (on_goal 2 => unfold x); all_goals clear_value x)
    | (extract_lets +onlyGivenNames x; refine (fun hx => ?_ : (Frame fm b0 x.st) → _) ?_; (on_goal 2 => unfold x); all_goals clear_value x)
    | extract_lets +onlyGivenNames x
    | with_reducible apply backToQueue_frame
    | with_reducible apply prepareAll_frame
    | with_reducible apply evictForRoom_frame
    | with_reducible apply putCtx_frame
    | with_reducible apply Frame.ite
    | (with_reducible refine Frame.ofPair ‹_ = (_, _)› ?_)
    | split
    | ((conv in State.mk _ _ _ _ _ _ _ _ _ _ _ _ _ _ _ _ _ _ _ _ _ _ _ _ _ => skip); with_reducible apply Frame.upd)
    | with_reducible exact .inr rfl
    | exact .inl (Part.sub_has _ hfm (by decide))
    | exact .inl ⟨Part.sub_has _ hfm (by decide), fun h => h⟩
    | exact .inl ⟨Part.sub_has _ hfm (by decide), fun h => by simpa only [List.length_set, List.length_map, List.length_zipIdx] using h⟩

theorem placeAll_frame {fm : List Part} {b0 : State} (s : State) (b : Nat)
    (hfr : Frame fm b0 s) (hfm : Part.sub [.regs, .dram, .reports, .stk, .serve] fm = true) : Frame fm b0 (placeAll s b) := by
  unfold placeAll
  repeat' first
    | with_reducible assumption
    | with_reducible intro _
    | (extract_lets +onlyGivenNames x; refine (fun hx => ?_ : (Frame fm b0 x) → _) ?_; (on_goal 2 => unfold x); all_goals clear_value x)
    | extract_lets +onlyGivenNames x
    | with_reducible apply keepOne_frame
    | with_reducible apply placeOne_frame
    | with_reducible apply Frame.foldl

theorem rebindOne_frame {fm : List Part} {b0 : State} (s : State) (q : Nat × Context)
    (hfr : Frame fm b0 s) (hfm : Part.sub [.serve] fm = true) : Frame fm b0 (rebindOne s q) := by
  unfold rebindOne
  repeat' first
    | with_reducible assumption
    | extract_lets +onlyGivenNames x
    | with_reducible apply putCtx_frame
    | with_reducible apply Frame.ite
    | split

theorem rebindModel_frame {fm : List Part} {b0 : State} (v : Nat) (s : State) (q : Nat × Context)
    (hfr : Frame fm b0 s) (hfm : Part.sub [.serve] fm = true) : Frame fm b0 (rebindModel v s q) := by
  unfold rebindModel
  repeat' first
    | with_reducible assumption
    | extract_lets +onlyGivenNames x
    | with_reducible apply putCtx_frame
    | with_reducible apply Frame.ite

theorem crossBoundary_frame {fm : List Part} {b0 : State} (s : State) (b : Nat)
    (hfr : Frame fm b0 s) (hfm : Part.sub [.cyc, .tick, .tfrac, .regs, .tiles, .net, .reports, .stk, .serve, .log] fm = true) : Frame fm b0 (crossBoundary s b) := by
  unfold crossBoundary
  repeat' first
    | with_reducible assumption
    | exact Part.sub_trans (by decide) hfm
    | with_reducible intro _
    | (extract_lets +onlyGivenNames x; refine (fun hx => ?_ : (Frame fm b0 x) → _) ?_; (on_goal 2 => unfold x); all_goals clear_value x)
    | (extract_lets +onlyGivenNames x; refine (fun hx => ?_ : (Frame fm b0 x.1) → _) ?_; (on_goal 2 => unfold x); all_goals clear_value x)
    | (extract_lets +onlyGivenNames x; refine (fun hx => ?_ : (tileSafe x = true) → _) ?_; (on_goal 2 => unfold x); all_goals clear_value x)
    | (extract_lets +onlyGivenNames x; refine (fun hx => ?_ : (tileSafe x.1 = true) → _) ?_; (on_goal 2 => unfold x); all_goals clear_value x)
    | (extract_lets +onlyGivenNames x; refine (fun hx => ?_ : (FrameOpt fm b0 x) → _) ?_; (on_goal 2 => unfold x); all_goals clear_value x)
    | (extract_lets +onlyGivenNames x; refine (fun hx => ?_ : (Frame fm b0 x.st) → _) ?_; (on_goal 2 => unfold x); all_goals clear_value x)
    | extract_lets +onlyGivenNames x
    | with_reducible apply rput_frame
    | with_reducible apply countEvent_frame
    | with_reducible apply enterSchedule_frame
    | with_reducible apply rebindModel_frame
    | with_reducible apply Frame.foldl
    | with_reducible apply Frame.foldlFst
    | with_reducible apply Frame.ite
    | (with_reducible refine Frame.ofPair ‹_ = (_, _)› ?_)
    | split
    | ((conv in State.mk _ _ _ _ _ _ _ _ _ _ _ _ _ _ _ _ _ _ _ _ _ _ _ _ _ => skip); with_reducible apply Frame.upd)
    | with_reducible exact .inr rfl
    | exact .inl (Part.sub_has _ hfm (by decide))
    | exact .inl ⟨Part.sub_has _ hfm (by decide), fun h => h⟩
    | exact .inl ⟨Part.sub_has _ hfm (by decide), fun h => by simpa only [List.length_set, List.length_map, List.length_zipIdx] using h⟩

theorem endCancelled_frame {fm : List Part} {b0 : State} (s : State) (b : Nat)
    (hfr : Frame fm b0 s) (hfm : Part.sub [.serve] fm = true) : Frame fm b0 (endCancelled s b) := by
  unfold endCancelled
  repeat' first
    | with_reducible assumption
    | with_reducible apply endOutside_frame

theorem insertAfter_frame {fm : List Part} {b0 : State} (b : Nat) (s : State) (q : Nat × Nat × CommitOut)
    (hfr : Frame fm b0 s) (hfm : Part.sub [.regs, .dram, .reports, .stk, .serve] fm = true) : Frame fm b0 (insertAfter b s q) := by
  unfold insertAfter
  repeat' first
    | with_reducible assumption
    | exact Part.sub_trans (by decide) hfm
    | with_reducible intro _
    | (extract_lets +onlyGivenNames x; refine (fun hx => ?_ : (Frame fm b0 x) → _) ?_; (on_goal 2 => unfold x); all_goals clear_value x)
    | (extract_lets +onlyGivenNames x; refine (fun hx => ?_ : (Frame fm b0 x.1) → _) ?_; (on_goal 2 => unfold x); all_goals clear_value x)
    | (extract_lets +onlyGivenNames x; refine (fun hx => ?_ : (tileSafe x = true) → _) ?_; (on_goal 2 => unfold x); all_goals clear_value x)
    | (extract_lets +onlyGivenNames x; refine (fun hx => ?_ : (tileSafe x.1 = true) → _) ?_; (on_goal 2 => unfold x); all_goals clear_value x)
    | (extract_lets +onlyGivenNames x; refine (fun hx => ?_ : (FrameOpt fm b0 x) → _) ?_; (on_goal 2 => unfold x); all_goals clear_value x)
    | (extract_lets +onlyGivenNames x; refine (fun hx => ?_ : (Frame fm b0 x.st) → _) ?_; (on_goal 2 => unfold x); all_goals clear_value x)
    | extract_lets +onlyGivenNames x
    | with_reducible apply putCtx_frame
    | with_reducible apply insertBlocks_frame
    | with_reducible apply saveTokens_frame
    | with_reducible apply Frame.ite
    | split
    | ((conv in State.mk _ _ _ _ _ _ _ _ _ _ _ _ _ _ _ _ _ _ _ _ _ _ _ _ _ => skip); with_reducible apply Frame.upd)
    | with_reducible exact .inr rfl
    | exact .inl (Part.sub_has _ hfm (by decide))
    | exact .inl ⟨Part.sub_has _ hfm (by decide), fun h => h⟩
    | exact .inl ⟨Part.sub_has _ hfm (by decide), fun h => by simpa only [List.length_set, List.length_map, List.length_zipIdx] using h⟩

theorem replayCommitted_frame {fm : List Part} {b0 : State} (s : State) (b : Nat)
    (hfr : Frame fm b0 s) (hfm : Part.sub [.regs, .tiles, .serve, .log] fm = true) : Frame fm b0 (replayCommitted s b) := by
  unfold replayCommitted
  repeat' first
    | with_reducible assumption
    | exact Part.sub_trans (by decide) hfm
    | with_reducible intro _
    | (extract_lets +onlyGivenNames x; refine (fun hx => ?_ : (Frame fm b0 x) → _) ?_; (on_goal 2 => unfold x); all_goals clear_value x)
    | extract_lets +onlyGivenNames x
    | with_reducible apply putBerth_frame
    | with_reducible apply tileEvent_frame
    | with_reducible apply rbump_frame
    | with_reducible apply Frame.foldl
    | with_reducible apply Frame.ite

theorem crossCommit_frame {fm : List Part} {b0 : State} (s : State) (b : Nat)
    (hfr : Frame fm b0 s) (hfm : Part.sub [.cyc, .tick, .tfrac, .regs, .tiles, .net, .reports, .stk, .serve, .img, .log] fm = true) : Frame fm b0 (crossCommit s b) := by
  unfold crossCommit
  repeat' first
    | with_reducible assumption
    | exact Part.sub_trans (by decide) hfm
    | with_reducible intro _
    | (extract_lets +onlyGivenNames x; refine (fun hx => ?_ : (Frame fm b0 x) → _) ?_; (on_goal 2 => unfold x); all_goals clear_value x)
    | (extract_lets +onlyGivenNames x; refine (fun hx => ?_ : (Frame fm b0 x.1) → _) ?_; (on_goal 2 => unfold x); all_goals clear_value x)
    | (extract_lets +onlyGivenNames x; refine (fun hx => ?_ : (tileSafe x = true) → _) ?_; (on_goal 2 => unfold x); all_goals clear_value x)
    | (extract_lets +onlyGivenNames x; refine (fun hx => ?_ : (tileSafe x.1 = true) → _) ?_; (on_goal 2 => unfold x); all_goals clear_value x)
    | (extract_lets +onlyGivenNames x; refine (fun hx => ?_ : (FrameOpt fm b0 x) → _) ?_; (on_goal 2 => unfold x); all_goals clear_value x)
    | (extract_lets +onlyGivenNames x; refine (fun hx => ?_ : (Frame fm b0 x.st) → _) ?_; (on_goal 2 => unfold x); all_goals clear_value x)
    | extract_lets +onlyGivenNames x
    | with_reducible apply rput_frame
    | with_reducible apply activateSlot_frame
    | with_reducible apply endCrossing_frame
    | with_reducible apply rbump_frame
    | with_reducible apply enterSchedule_frame
    | with_reducible apply putBerth_frame
    | with_reducible apply Frame.ite
    | (with_reducible refine Frame.ofPair ‹_ = (_, _)› ?_)
    | split
    | ((conv in State.mk _ _ _ _ _ _ _ _ _ _ _ _ _ _ _ _ _ _ _ _ _ _ _ _ _ => skip); with_reducible apply Frame.upd)
    | with_reducible exact .inr rfl
    | exact .inl (Part.sub_has _ hfm (by decide))
    | exact .inl ⟨Part.sub_has _ hfm (by decide), fun h => h⟩
    | exact .inl ⟨Part.sub_has _ hfm (by decide), fun h => by simpa only [List.length_set, List.length_map, List.length_zipIdx] using h⟩
    | exact .inl ⟨Part.sub_has _ hfm (by decide), fun h => mapSet_wf _ _ _ _ h⟩

theorem addDebt_frame {fm : List Part} {b0 : State} (s : State) (b : Nat)
    (hfr : Frame fm b0 s) (hfm : Part.sub [.serve] fm = true) : Frame fm b0 (addDebt s b) := by
  unfold addDebt
  repeat' first
    | with_reducible assumption
    | extract_lets +onlyGivenNames x
    | with_reducible apply putBerth_frame
    | with_reducible apply Frame.ite

theorem checkQueues_frame {fm : List Part} {b0 : State} (s : State) (b : Nat)
    (hfr : Frame fm b0 s) (hfm : Part.sub [.cyc, .tick, .tfrac, .regs, .tiles, .net, .reports, .log] fm = true) : Frame fm b0 (checkQueues s b) := by
  unfold checkQueues
  repeat' first
    | with_reducible assumption
    | with_reducible intro _
    | extract_lets +onlyGivenNames x
    | with_reducible apply changeTile_frame
    | with_reducible apply Frame.foldl
    | with_reducible apply tileFault_safe
    | with_reducible apply ite_safe

theorem endLost_frame {fm : List Part} {b0 : State} (s : State) (b : Nat)
    (hfr : Frame fm b0 s) (hfm : Part.sub [.serve] fm = true) : Frame fm b0 (endLost s b) := by
  unfold endLost
  repeat' first
    | with_reducible assumption
    | exact Part.sub_trans (by decide) hfm
    | with_reducible intro _
    | (extract_lets +onlyGivenNames x; refine (fun hx => ?_ : (Frame fm b0 x) → _) ?_; (on_goal 2 => unfold x); all_goals clear_value x)
    | (extract_lets +onlyGivenNames x; refine (fun hx => ?_ : (Frame fm b0 x.1) → _) ?_; (on_goal 2 => unfold x); all_goals clear_value x)
    | (extract_lets +onlyGivenNames x; refine (fun hx => ?_ : (tileSafe x = true) → _) ?_; (on_goal 2 => unfold x); all_goals clear_value x)
    | (extract_lets +onlyGivenNames x; refine (fun hx => ?_ : (tileSafe x.1 = true) → _) ?_; (on_goal 2 => unfold x); all_goals clear_value x)
    | (extract_lets +onlyGivenNames x; refine (fun hx => ?_ : (FrameOpt fm b0 x) → _) ?_; (on_goal 2 => unfold x); all_goals clear_value x)
    | (extract_lets +onlyGivenNames x; refine (fun hx => ?_ : (Frame fm b0 x.st) → _) ?_; (on_goal 2 => unfold x); all_goals clear_value x)
    | extract_lets +onlyGivenNames x
    | with_reducible apply endOutside_frame

theorem clearNan_frame {fm : List Part} {b0 : State} (s : State) (b : Nat)
    (hfr : Frame fm b0 s) (hfm : Part.sub [.cyc, .tick, .tfrac, .regs, .tiles, .net, .reports, .log] fm = true) : Frame fm b0 (clearNan s b) := by
  unfold clearNan
  repeat' first
    | with_reducible assumption
    | exact Part.sub_trans (by decide) hfm
    | with_reducible intro _
    | with_reducible apply changeTile_frame
    | with_reducible apply Frame.foldl
    | with_reducible apply Frame.foldlFst
    | ((conv in State.mk _ _ _ _ _ _ _ _ _ _ _ _ _ _ _ _ _ _ _ _ _ _ _ _ _ => skip); with_reducible apply Frame.upd)
    | with_reducible exact .inr rfl
    | exact .inl (Part.sub_has _ hfm (by decide))
    | exact .inl ⟨Part.sub_has _ hfm (by decide), fun h => h⟩
    | exact .inl ⟨Part.sub_has _ hfm (by decide), fun h => by simpa only [List.length_set, List.length_map, List.length_zipIdx] using h⟩
    | ((conv in Tile.mk _ _ _ _ _ _ _ _ _ _ _ _ _ _ _ _ _ _ _ _ _ _ _ _ _ _ _ _ _ _ _ _ _ _ _ _ _ _ _ _ => skip); with_reducible apply tileSafe_upd)
    | with_reducible exact .inl rfl

theorem arriveCommit_frame {fm : List Part} {b0 : State} (s : State) (b : Nat)
    (hfr : Frame fm b0 s) (hfm : Part.sub [.regs, .stk, .serve] fm = true) : Frame fm b0 (arriveCommit s b) := by
  unfold arriveCommit
  repeat' first
    | with_reducible assumption
    | exact Part.sub_trans (by decide) hfm
    | with_reducible intro _
    | (extract_lets +onlyGivenNames x; refine (fun hx => ?_ : (Frame fm b0 x) → _) ?_; (on_goal 2 => unfold x); all_goals clear_value x)
    | (extract_lets +onlyGivenNames x; refine (fun hx => ?_ : (Frame fm b0 x.1) → _) ?_; (on_goal 2 => unfold x); all_goals clear_value x)
    | (extract_lets +onlyGivenNames x; refine (fun hx => ?_ : (tileSafe x = true) → _) ?_; (on_goal 2 => unfold x); all_goals clear_value x)
    | (extract_lets +onlyGivenNames x; refine (fun hx => ?_ : (tileSafe x.1 = true) → _) ?_; (on_goal 2 => unfold x); all_goals clear_value x)
    | (extract_lets +onlyGivenNames x; refine (fun hx => ?_ : (FrameOpt fm b0 x) → _) ?_; (on_goal 2 => unfold x); all_goals clear_value x)
    | (extract_lets +onlyGivenNames x; refine (fun hx => ?_ : (Frame fm b0 x.st) → _) ?_; (on_goal 2 => unfold x); all_goals clear_value x)
    | extract_lets +onlyGivenNames x
    | with_reducible apply putBerth_frame
    | with_reducible apply arriveHelm_frame
    | with_reducible apply sendHelm_frame
    | with_reducible apply Frame.ite
    | split
    | ((conv in State.mk _ _ _ _ _ _ _ _ _ _ _ _ _ _ _ _ _ _ _ _ _ _ _ _ _ => skip); with_reducible apply Frame.upd)
    | with_reducible exact .inr rfl
    | exact .inl (Part.sub_has _ hfm (by decide))
    | exact .inl ⟨Part.sub_has _ hfm (by decide), fun h => h⟩
    | exact .inl ⟨Part.sub_has _ hfm (by decide), fun h => by simpa only [List.length_set, List.length_map, List.length_zipIdx] using h⟩

theorem stackReleased_frame {fm : List Part} {b0 : State} (s : State) (k b : Nat)
    (hfr : Frame fm b0 s) (hfm : Part.sub [.regs, .stk, .serve] fm = true) : Frame fm b0 (stackReleased s k b) := by
  unfold stackReleased
  repeat' first
    | with_reducible assumption
    | exact Part.sub_trans (by decide) hfm
    | (extract_lets +onlyGivenNames x; refine (fun hx => ?_ : (Frame fm b0 x) → _) ?_; (on_goal 2 => unfold x); all_goals clear_value x)
    | extract_lets +onlyGivenNames x
    | with_reducible apply arriveCommit_frame
    | with_reducible apply putBerth_frame
    | with_reducible apply releaseHelm_frame
    | with_reducible apply Frame.ite

theorem execStackCommitRelease_frame {fm : List Part} {b0 : State} (k : BitVec 3) (b : BitVec 4) (s : State)
    (hfr : Frame fm b0 s) (hfm : Part.sub [.regs, .stk, .serve] fm = true) : FrameOut fm b0 (execStackCommitRelease k b s) := by
  unfold execStackCommitRelease
  repeat' first
    | with_reducible assumption
    | exact Part.sub_trans (by decide) hfm
    | extract_lets +onlyGivenNames x
    | with_reducible apply FrameOut.next
    | with_reducible apply stackReleased_frame
    | with_reducible apply Frame.ite
    | split

theorem writeHelmEn_frame {fm : List Part} {b0 : State} (s : State) (v : Bool)
    (hfr : Frame fm b0 s) (hfm : Part.sub [.regs, .vil] fm = true) : Frame fm b0 (writeHelmEn s v) := by
  unfold writeHelmEn
  repeat' first
    | with_reducible assumption
    | exact Part.sub_trans (by decide) hfm
    | with_reducible intro _
    | (extract_lets +onlyGivenNames x; refine (fun hx => ?_ : (Frame fm b0 x) → _) ?_; (on_goal 2 => unfold x); all_goals clear_value x)
    | extract_lets +onlyGivenNames x
    | with_reducible apply watchRead_frame
    | with_reducible apply rput_frame
    | with_reducible apply Frame.foldl
    | with_reducible apply Frame.ite

theorem execHelmEn_frame {fm : List Part} {b0 : State} (v : Bool) (s : State)
    (hfr : Frame fm b0 s) (hfm : Part.sub [.regs, .vil] fm = true) : FrameOut fm b0 (execHelmEn v s) := by
  unfold execHelmEn
  repeat' first
    | with_reducible assumption
    | extract_lets +onlyGivenNames x
    | with_reducible apply FrameOut.next
    | with_reducible apply writeHelmEn_frame

theorem execHlmLock_frame {fm : List Part} {b0 : State} (s : State)
    (hfr : Frame fm b0 s) (hfm : Part.sub [.regs] fm = true) : FrameOut fm b0 (execHlmLock s) := by
  unfold execHlmLock
  repeat' first
    | with_reducible assumption
    | extract_lets +onlyGivenNames x
    | with_reducible apply FrameOut.next
    | with_reducible apply rset_frame
    | with_reducible apply Frame.ite

theorem countHardware_frame {fm : List Part} {b0 : State} (s : State) (b k site cause : Nat)
    (hfr : Frame fm b0 s) (hfm : Part.sub [.tiles, .serve, .log] fm = true) : Frame fm b0 (countHardware s b k site cause) := by
  unfold countHardware
  repeat' first
    | with_reducible assumption
    | exact Part.sub_trans (by decide) hfm
    | with_reducible intro _
    | (extract_lets +onlyGivenNames x; refine (fun hx => ?_ : (Frame fm b0 x) → _) ?_; (on_goal 2 => unfold x); all_goals clear_value x)
    | (extract_lets +onlyGivenNames x; refine (fun hx => ?_ : (Frame fm b0 x.1) → _) ?_; (on_goal 2 => unfold x); all_goals clear_value x)
    | (extract_lets +onlyGivenNames x; refine (fun hx => ?_ : (tileSafe x = true) → _) ?_; (on_goal 2 => unfold x); all_goals clear_value x)
    | (extract_lets +onlyGivenNames x; refine (fun hx => ?_ : (tileSafe x.1 = true) → _) ?_; (on_goal 2 => unfold x); all_goals clear_value x)
    | (extract_lets +onlyGivenNames x; refine (fun hx => ?_ : (FrameOpt fm b0 x) → _) ?_; (on_goal 2 => unfold x); all_goals clear_value x)
    | (extract_lets +onlyGivenNames x; refine (fun hx => ?_ : (Frame fm b0 x.st) → _) ?_; (on_goal 2 => unfold x); all_goals clear_value x)
    | extract_lets +onlyGivenNames x
    | with_reducible apply putBerth_frame
    | with_reducible apply tileEvent_frame
    | with_reducible apply Frame.ite
    | (with_reducible refine Frame.ofPair ‹_ = (_, _)› ?_)
    | split
    | ((conv in State.mk _ _ _ _ _ _ _ _ _ _ _ _ _ _ _ _ _ _ _ _ _ _ _ _ _ => skip); with_reducible apply Frame.upd)
    | with_reducible exact .inr rfl
    | exact .inl (Part.sub_has _ hfm (by decide))
    | exact .inl ⟨Part.sub_has _ hfm (by decide), fun h => h⟩
    | exact .inl ⟨Part.sub_has _ hfm (by decide), fun h => by simpa only [List.length_set, List.length_map, List.length_zipIdx] using h⟩

theorem execDramCorrected_frame {fm : List Part} {b0 : State} (k : BitVec 3) (ch : BitVec 5) (s : State)
    (hfr : Frame fm b0 s) (hfm : Part.sub [.log] fm = true) : FrameOut fm b0 (execDramCorrected k ch s) := by
  unfold execDramCorrected
  repeat' first
    | with_reducible assumption
    | extract_lets +onlyGivenNames x
    | with_reducible apply FrameOut.next
    | with_reducible apply logCount_frame

theorem loseContexts_frame {m : List Part} {s0 : State} (s : State) (p : Nat → Bool) (h : Frame m s0 s)
    (hm : Part.sub [.serve] m = true) : Frame m s0 (loseContexts s p) := by
  unfold loseContexts
  apply Frame.upd (t := s) (h := h)
  case h_serve => exact .inl ⟨Part.sub_has _ hm (by decide), fun g => g⟩
  all_goals first | with_reducible exact .inr rfl | exact .inl (Part.sub_has _ hm (by decide))

theorem retireAt_frame {m : List Part} {s0 : State} (s : State) (k off : Nat) (o : Option Nat) (h : Frame m s0 s)
    (hm : Part.sub [.stk, .serve] m = true) : Frame m s0 (retireAt s k off o) := by
  cases o with
  | some f => exact retireFrame_frame _ _ _ (loseContexts_frame _ _ h (Part.sub_trans (by decide) hm)) (Part.sub_trans (by decide) hm)
  | none => exact Frame.ite (loseContexts_frame _ _ h (Part.sub_trans (by decide) hm)) h

theorem restageAt_frame {m : List Part} {s0 : State} (s : State) (k off : Nat) (h : Frame m s0 s)
    (hm : Part.sub [.regs, .dram] m = true) : Frame m s0 (restageAt s k off) := by
  unfold restageAt
  refine Frame.foldl _ _ (fun u x hu => ?_) (Frame.foldl _ _ (fun u x hu => ?_) h)
  · with_reducible exact restageVersion_frame u x.1 k x.2 hu (Part.sub_trans (by decide) hm)
  · with_reducible exact restageImage_frame u x.1 k x.2 hu (Part.sub_trans (by decide) hm)

theorem noteCorrupt_frame {fm : List Part} {b0 : State} (s : State) (k off : Nat) (o : Option Nat)
    (hfr : Frame fm b0 s) (hfm : Part.sub [.regs] fm = true) : Frame fm b0 (noteCorrupt s k off o) := by
  unfold noteCorrupt
  repeat' first
    | with_reducible assumption
    | exact Part.sub_trans (by decide) hfm
    | with_reducible intro _
    | with_reducible apply rput_frame
    | with_reducible apply rset_frame
    | with_reducible apply Frame.ite
    | split

theorem repairData_frame {m : List Part} {s0 : State} (s : State) (k off : Nat) (h : Frame m s0 s)
    (hm : Part.sub [.regs, .dram, .stk, .serve] m = true) : Frame m s0 (repairData s k off) :=
  retireAt_frame _ _ _ _ (noteCorrupt_frame _ _ _ _ (restageAt_frame _ _ _ h (Part.sub_trans (by decide) hm))
    (Part.sub_trans (by decide) hm)) (Part.sub_trans (by decide) hm)

theorem execHeartbeat_frame {fm : List Part} {b0 : State} (k : BitVec 3) (s : State)
    (hfr : Frame fm b0 s) (hfm : Part.sub [.regs, .stk] fm = true) : FrameOut fm b0 (execHeartbeat k s) := by
  unfold execHeartbeat
  repeat' first
    | with_reducible assumption
    | exact Part.sub_trans (by decide) hfm
    | with_reducible intro _
    | with_reducible apply FrameOut.next
    | with_reducible apply countFlits_frame
    | with_reducible apply putStk_frame
    | ((conv in State.mk _ _ _ _ _ _ _ _ _ _ _ _ _ _ _ _ _ _ _ _ _ _ _ _ _ => skip); with_reducible apply Frame.upd)
    | with_reducible exact .inr rfl
    | exact .inl (Part.sub_has _ hfm (by decide))
    | exact .inl ⟨Part.sub_has _ hfm (by decide), fun h => h⟩
    | exact .inl ⟨Part.sub_has _ hfm (by decide), fun h => by simpa only [List.length_set, List.length_map, List.length_zipIdx] using h⟩
    | extract_lets +onlyGivenNames x

theorem execLogAppend_frame {fm : List Part} {b0 : State} (s : State)
    (hfr : Frame fm b0 s) (hfm : Part.sub [.log] fm = true) : FrameOut fm b0 (execLogAppend s) := by
  unfold execLogAppend
  repeat' first
    | with_reducible assumption
    | exact Part.sub_trans (by decide) hfm
    | with_reducible intro _
    | with_reducible apply FrameOut.next
    | with_reducible apply logFlush_frame
    | with_reducible apply Frame.ite
    | split
    | extract_lets +onlyGivenNames x

theorem stressFail_frame {fm : List Part} {b0 : State} (s : State) (k site : Nat)
    (hfr : Frame fm b0 s) (hfm : Part.sub [.tiles, .log] fm = true) : Frame fm b0 (stressFail s k site) := by
  unfold stressFail
  repeat' first
    | with_reducible assumption
    | exact Part.sub_trans (by decide) hfm
    | (extract_lets +onlyGivenNames x; refine (fun hx => ?_ : (Frame fm b0 x) → _) ?_; (on_goal 2 => unfold x); all_goals clear_value x)
    | extract_lets +onlyGivenNames x
    | with_reducible apply tileEvent_frame
    | with_reducible apply storeEntry_frame
    | split

theorem execStressTest_frame {fm : List Part} {b0 : State} (r : TileRef) (pass : Bool) (s : State)
    (hfr : Frame fm b0 s) (hfm : Part.sub [.regs, .tiles, .log] fm = true) : FrameOut fm b0 (execStressTest r pass s) := by
  unfold execStressTest
  repeat' first
    | with_reducible assumption
    | exact Part.sub_trans (by decide) hfm
    | (extract_lets +onlyGivenNames x; refine (fun hx => ?_ : (Frame fm b0 x) → _) ?_; (on_goal 2 => unfold x); all_goals clear_value x)
    | extract_lets +onlyGivenNames x
    | with_reducible apply FrameOut.next
    | with_reducible apply stressFail_frame
    | with_reducible apply rbump_frame
    | with_reducible apply Frame.ite
    | split

theorem thermalBerth_frame {fm : List Part} {b0 : State} (s : State) (b : Nat)
    (hfr : Frame fm b0 s) (hfm : Part.sub [.regs, .serve] fm = true) : Frame fm b0 (thermalBerth s b) := by
  unfold thermalBerth
  repeat' first
    | with_reducible assumption
    | exact Part.sub_trans (by decide) hfm
    | with_reducible intro _
    | (extract_lets +onlyGivenNames x; refine (fun hx => ?_ : (Frame fm b0 x) → _) ?_; (on_goal 2 => unfold x); all_goals clear_value x)
    | (extract_lets +onlyGivenNames x; refine (fun hx => ?_ : (Frame fm b0 x.1) → _) ?_; (on_goal 2 => unfold x); all_goals clear_value x)
    | (extract_lets +onlyGivenNames x; refine (fun hx => ?_ : (tileSafe x = true) → _) ?_; (on_goal 2 => unfold x); all_goals clear_value x)
    | (extract_lets +onlyGivenNames x; refine (fun hx => ?_ : (tileSafe x.1 = true) → _) ?_; (on_goal 2 => unfold x); all_goals clear_value x)
    | (extract_lets +onlyGivenNames x; refine (fun hx => ?_ : (FrameOpt fm b0 x) → _) ?_; (on_goal 2 => unfold x); all_goals clear_value x)
    | (extract_lets +onlyGivenNames x; refine (fun hx => ?_ : (Frame fm b0 x.st) → _) ?_; (on_goal 2 => unfold x); all_goals clear_value x)
    | extract_lets +onlyGivenNames x
    | with_reducible apply putBerthState_frame
    | with_reducible apply putBerth_frame
    | with_reducible apply sendThermal_frame
    | with_reducible apply Frame.ite
    | split
    | ((conv in State.mk _ _ _ _ _ _ _ _ _ _ _ _ _ _ _ _ _ _ _ _ _ _ _ _ _ => skip); with_reducible apply Frame.upd)
    | with_reducible exact .inr rfl
    | exact .inl (Part.sub_has _ hfm (by decide))
    | exact .inl ⟨Part.sub_has _ hfm (by decide), fun h => h⟩
    | exact .inl ⟨Part.sub_has _ hfm (by decide), fun h => by simpa only [List.length_set, List.length_map, List.length_zipIdx] using h⟩

theorem execAttest_frame {fm : List Part} {b0 : State} (s : State)
    (hfr : Frame fm b0 s) (hfm : Part.sub [.regs, .lsr] fm = true) : FrameOut fm b0 (execAttest s) := by
  unfold execAttest
  repeat' first
    | with_reducible assumption
    | exact Part.sub_trans (by decide) hfm
    | with_reducible intro _
    | extract_lets +onlyGivenNames x
    | with_reducible apply FrameOut.next
    | with_reducible apply lsrAction_frame
    | with_reducible apply attest_frame

theorem execTestreq_frame {fm : List Part} {b0 : State} (s : State)
    (hfr : Frame fm b0 s) (hfm : Part.sub [.regs, .lsr] fm = true) : FrameOut fm b0 (execTestreq s) := by
  unfold execTestreq
  repeat' first
    | with_reducible assumption
    | exact Part.sub_trans (by decide) hfm
    | with_reducible intro _
    | extract_lets +onlyGivenNames x
    | with_reducible apply FrameOut.next
    | with_reducible apply lsrAction_frame
    | with_reducible apply testRequest_frame

theorem execMfLoad_frame {fm : List Part} {b0 : State} (bytes : List Byte) (s : State)
    (hfr : Frame fm b0 s) (hfm : Part.sub [.regs, .free, .vil, .lsr] fm = true) : FrameOut fm b0 (execMfLoad bytes s) := by
  unfold execMfLoad
  repeat' first
    | with_reducible assumption
    | exact Part.sub_trans (by decide) hfm
    | with_reducible intro _
    | extract_lets +onlyGivenNames x
    | with_reducible apply FrameOut.next
    | with_reducible apply loadBytes_frame
    | with_reducible apply loadManifest_frame

theorem execFwLoad_frame {fm : List Part} {b0 : State} (bytes : List Byte) (s : State)
    (hfr : Frame fm b0 s) (hfm : Part.sub [.regs, .free, .vil, .lsr] fm = true) : FrameOut fm b0 (execFwLoad bytes s) := by
  unfold execFwLoad
  repeat' first
    | with_reducible assumption
    | exact Part.sub_trans (by decide) hfm
    | with_reducible intro _
    | extract_lets +onlyGivenNames x
    | with_reducible apply FrameOut.next
    | with_reducible apply loadBytes_frame
    | with_reducible apply loadFirmware_frame

theorem execZeroise_frame {fm : List Part} {b0 : State} (s : State)
    (hfr : Frame fm b0 s) (hfm : Part.sub [.regs, .lsr] fm = true) : FrameOut fm b0 (execZeroise s) := by
  unfold execZeroise
  repeat' first
    | with_reducible assumption
    | exact Part.sub_trans (by decide) hfm
    | with_reducible intro _
    | extract_lets +onlyGivenNames x
    | with_reducible apply FrameOut.next
    | with_reducible apply lsrAction_frame
    | with_reducible apply zeroise_frame

theorem selectTap_frame {fm : List Part} {b0 : State} (s : State) (ir : TapIr) (dr : Word)
    (hfr : Frame fm b0 s) (hfm : Part.sub [.tap] fm = true) : Frame fm b0 (selectTap s ir dr) := by
  unfold selectTap
  repeat' first
    | with_reducible assumption
    | extract_lets +onlyGivenNames x
    | ((conv in State.mk _ _ _ _ _ _ _ _ _ _ _ _ _ _ _ _ _ _ _ _ _ _ _ _ _ => skip); with_reducible apply Frame.upd)
    | with_reducible exact .inr rfl
    | exact .inl (Part.sub_has _ hfm (by decide))

theorem execTapBypass_frame {fm : List Part} {b0 : State} (s : State)
    (hfr : Frame fm b0 s) (hfm : Part.sub [.tap] fm = true) : FrameOut fm b0 (execTapBypass s) := by
  unfold execTapBypass
  repeat' first
    | with_reducible assumption
    | extract_lets +onlyGivenNames x
    | with_reducible apply FrameOut.next
    | with_reducible apply selectTap_frame

theorem execTapIdcode_frame {fm : List Part} {b0 : State} (s : State)
    (hfr : Frame fm b0 s) (hfm : Part.sub [.tap] fm = true) : FrameOut fm b0 (execTapIdcode s) := by
  unfold execTapIdcode
  repeat' first
    | with_reducible assumption
    | extract_lets +onlyGivenNames x
    | with_reducible apply FrameOut.next
    | with_reducible apply selectTap_frame

theorem execTapSamplePreload_frame {fm : List Part} {b0 : State} (s : State)
    (hfr : Frame fm b0 s) (hfm : Part.sub [.free, .tap] fm = true) : FrameOut fm b0 (execTapSamplePreload s) := by
  unfold execTapSamplePreload
  repeat' first
    | with_reducible assumption
    | exact Part.sub_trans (by decide) hfm
    | extract_lets +onlyGivenNames x
    | with_reducible apply FrameOut.next
    | with_reducible apply selectTap_frame
    | with_reducible apply Frame.ite
    | ((conv in State.mk _ _ _ _ _ _ _ _ _ _ _ _ _ _ _ _ _ _ _ _ _ _ _ _ _ => skip); with_reducible apply Frame.upd)
    | with_reducible exact .inr rfl
    | exact .inl (Part.sub_has _ hfm (by decide))

theorem execTapExtest_frame {fm : List Part} {b0 : State} (s : State)
    (hfr : Frame fm b0 s) (hfm : Part.sub [.free, .tap] fm = true) : FrameOut fm b0 (execTapExtest s) := by
  unfold execTapExtest
  repeat' first
    | with_reducible assumption
    | exact Part.sub_trans (by decide) hfm
    | extract_lets +onlyGivenNames x
    | with_reducible apply FrameOut.next
    | with_reducible apply selectTap_frame
    | with_reducible apply Frame.ite
    | ((conv in State.mk _ _ _ _ _ _ _ _ _ _ _ _ _ _ _ _ _ _ _ _ _ _ _ _ _ => skip); with_reducible apply Frame.upd)
    | with_reducible exact .inr rfl
    | exact .inl (Part.sub_has _ hfm (by decide))

theorem hearVersion_frame {fm : List Part} {b0 : State} (s : State) (m : BitVec 10) (b : Nat) (v : Word)
    (hfr : Frame fm b0 s) (hfm : Part.sub [.cyc, .tick, .tfrac, .regs, .tiles, .net, .reports, .stk, .vil, .serve, .log, .pwr] fm = true) : Frame fm b0 (hearVersion s m b v) := by
  unfold hearVersion
  repeat' first
    | with_reducible assumption
    | exact Part.sub_trans (by decide) hfm
    | with_reducible intro _
    | (extract_lets +onlyGivenNames x; refine (fun hx => ?_ : (Frame fm b0 x) → _) ?_; (on_goal 2 => unfold x); all_goals clear_value x)
    | (extract_lets +onlyGivenNames x; refine (fun hx => ?_ : (Frame fm b0 x.1) → _) ?_; (on_goal 2 => unfold x); all_goals clear_value x)
    | (extract_lets +onlyGivenNames x; refine (fun hx => ?_ : (tileSafe x = true) → _) ?_; (on_goal 2 => unfold x); all_goals clear_value x)
    | (extract_lets +onlyGivenNames x; refine (fun hx => ?_ : (tileSafe x.1 = true) → _) ?_; (on_goal 2 => unfold x); all_goals clear_value x)
    | (extract_lets +onlyGivenNames x; refine (fun hx => ?_ : (FrameOpt fm b0 x) → _) ?_; (on_goal 2 => unfold x); all_goals clear_value x)
    | (extract_lets +onlyGivenNames x; refine (fun hx => ?_ : (Frame fm b0 x.st) → _) ?_; (on_goal 2 => unfold x); all_goals clear_value x)
    | extract_lets +onlyGivenNames x
    | with_reducible apply decideLoad_frame
    | with_reducible apply putBerth_frame
    | with_reducible apply finishLoad_frame
    | with_reducible apply Frame.ite
    | (with_reducible refine Frame.ofPair ‹_ = (_, _)› ?_)
    | split
    | ((conv in State.mk _ _ _ _ _ _ _ _ _ _ _ _ _ _ _ _ _ _ _ _ _ _ _ _ _ => skip); with_reducible apply Frame.upd)
    | with_reducible exact .inr rfl
    | exact .inl (Part.sub_has _ hfm (by decide))
    | exact .inl ⟨Part.sub_has _ hfm (by decide), fun h => h⟩
    | exact .inl ⟨Part.sub_has _ hfm (by decide), fun h => by simpa only [List.length_set, List.length_map, List.length_zipIdx] using h⟩

theorem restageSource_frame {fm : List Part} {b0 : State} (s : State) (d : Option Dword)
    (hfr : Frame fm b0 s) (hfm : Part.sub [.regs, .dram] fm = true) : Frame fm b0 (restageSource s d) := by
  unfold restageSource
  repeat' first
    | with_reducible assumption
    | exact Part.sub_trans (by decide) hfm
    | with_reducible intro _
    | with_reducible apply restageAt_frame
    | with_reducible apply Frame.ite
    | (with_reducible refine Frame.ofPair ‹_ = (_, _)› ?_)
    | split
    | ((conv in State.mk _ _ _ _ _ _ _ _ _ _ _ _ _ _ _ _ _ _ _ _ _ _ _ _ _ => skip); with_reducible apply Frame.upd)
    | with_reducible exact .inr rfl
    | exact .inl (Part.sub_has _ hfm (by decide))
    | exact .inl ⟨Part.sub_has _ hfm (by decide), fun h => h⟩
    | exact .inl ⟨Part.sub_has _ hfm (by decide), fun h => by simpa only [List.length_set, List.length_map, List.length_zipIdx] using h⟩

theorem countBank_frame {fm : List Part} {b0 : State} (s : State) (r : TileRef) (ch : Nat)
    (hfr : Frame fm b0 s) (hfm : Part.sub [.cyc, .tick, .tfrac, .regs, .tiles, .dram, .net, .reports, .log] fm = true) : Frame fm b0 (countBank s r ch) := by
  unfold countBank
  repeat' first
    | with_reducible assumption
    | exact Part.sub_trans (by decide) hfm
    | with_reducible intro _
    | with_reducible apply changeTile_frame
    | with_reducible apply restageSource_frame
    | with_reducible apply logCount_frame
    | with_reducible apply Frame.ite
    | (with_reducible refine Frame.ofPair ‹_ = (_, _)› ?_)
    | split
    | ((conv in State.mk _ _ _ _ _ _ _ _ _ _ _ _ _ _ _ _ _ _ _ _ _ _ _ _ _ => skip); with_reducible apply Frame.upd)
    | with_reducible exact .inr rfl
    | exact .inl (Part.sub_has _ hfm (by decide))
    | exact .inl ⟨Part.sub_has _ hfm (by decide), fun h => h⟩
    | exact .inl ⟨Part.sub_has _ hfm (by decide), fun h => by simpa only [List.length_set, List.length_map, List.length_zipIdx] using h⟩
    | ((conv in Tile.mk _ _ _ _ _ _ _ _ _ _ _ _ _ _ _ _ _ _ _ _ _ _ _ _ _ _ _ _ _ _ _ _ _ _ _ _ _ _ _ _ => skip); with_reducible apply tileSafe_upd)
    | with_reducible exact .inl rfl

theorem countReport_frame {fm : List Part} {b0 : State} (b : Nat) (s : State) (r : Report)
    (hfr : Frame fm b0 s) (hfm : Part.sub [.cyc, .tick, .tfrac, .regs, .tiles, .dram, .net, .reports, .serve, .log] fm = true) : Frame fm b0 (countReport b s r) := by
  unfold countReport
  repeat' first
    | with_reducible assumption
    | exact Part.sub_trans (by decide) hfm
    | with_reducible intro _
    | (extract_lets +onlyGivenNames x; refine (fun hx => ?_ : (Frame fm b0 x) → _) ?_; (on_goal 2 => unfold x); all_goals clear_value x)
    | (extract_lets +onlyGivenNames x; refine (fun hx => ?_ : (Frame fm b0 x.1) → _) ?_; (on_goal 2 => unfold x); all_goals clear_value x)
    | (extract_lets +onlyGivenNames x; refine (fun hx => ?_ : (SafeParts b0 → tileSafe x = true) → _) ?_; (on_goal 2 => unfold x); all_goals clear_value x)
    | (extract_lets +onlyGivenNames x; refine (fun hx => ?_ : (SafeParts b0 → tileSafe x.1 = true) → _) ?_; (on_goal 2 => unfold x); all_goals clear_value x)
    | (extract_lets +onlyGivenNames x; refine (fun hx => ?_ : (FrameOpt fm b0 x) → _) ?_; (on_goal 2 => unfold x); all_goals clear_value x)
    | (extract_lets +onlyGivenNames x; refine (fun hx => ?_ : (Frame fm b0 x.st) → _) ?_; (on_goal 2 => unfold x); all_goals clear_value x)
    | extract_lets +onlyGivenNames x
    | with_reducible apply countHardware_frame
    | with_reducible apply countBank_frame
    | with_reducible apply Frame.ite
    | (with_reducible refine Frame.ofPair ‹_ = (_, _)› ?_)
    | split
    | ((conv in State.mk _ _ _ _ _ _ _ _ _ _ _ _ _ _ _ _ _ _ _ _ _ _ _ _ _ => skip); with_reducible apply Frame.upd)
    | with_reducible exact .inr rfl
    | exact .inl (Part.sub_has _ hfm (by decide))
    | exact .inl ⟨Part.sub_has _ hfm (by decide), fun h => h⟩
    | exact .inl ⟨Part.sub_has _ hfm (by decide), fun h => by simpa only [List.length_set, List.length_map, List.length_zipIdx] using h⟩
    | ((conv in Tile.mk _ _ _ _ _ _ _ _ _ _ _ _ _ _ _ _ _ _ _ _ _ _ _ _ _ _ _ _ _ _ _ _ _ _ _ _ _ _ _ _ => skip); with_reducible apply tileSafe_upd)
    | with_reducible exact .inl rfl
    | (refine SafeParts.tileAt (Frame.safe (m := fm) ?_ ‹SafeParts b0›) _ _)
    | with_reducible exact (‹SafeParts _ → tileSafe _ = true› ‹_›)

theorem countPending_frame {fm : List Part} {b0 : State} (s : State) (b : Nat)
    (hfr : Frame fm b0 s) (hfm : Part.sub [.cyc, .tick, .tfrac, .regs, .tiles, .dram, .net, .reports, .serve, .log] fm = true) : Frame fm b0 (countPending s b) := by
  unfold countPending
  repeat' first
    | with_reducible assumption
    | exact Part.sub_trans (by decide) hfm
    | with_reducible intro _
    | with_reducible apply countReport_frame
    | with_reducible apply Frame.foldl
    | with_reducible apply Frame.foldlFst

theorem payWatch_frame {fm : List Part} {b0 : State} (s : State) (b : Nat)
    (hfr : Frame fm b0 s) (hfm : Part.sub [.serve] fm = true) : Frame fm b0 (payWatch s b) := by
  unfold payWatch
  repeat' first
    | with_reducible assumption
    | exact Part.sub_trans (by decide) hfm
    | with_reducible intro _
    | (extract_lets +onlyGivenNames x; refine (fun hx => ?_ : (Frame fm b0 x) → _) ?_; (on_goal 2 => unfold x); all_goals clear_value x)
    | (extract_lets +onlyGivenNames x; refine (fun hx => ?_ : (Frame fm b0 x.1) → _) ?_; (on_goal 2 => unfold x); all_goals clear_value x)
    | (extract_lets +onlyGivenNames x; refine (fun hx => ?_ : (tileSafe x = true) → _) ?_; (on_goal 2 => unfold x); all_goals clear_value x)
    | (extract_lets +onlyGivenNames x; refine (fun hx => ?_ : (tileSafe x.1 = true) → _) ?_; (on_goal 2 => unfold x); all_goals clear_value x)
    | (extract_lets +onlyGivenNames x; refine (fun hx => ?_ : (FrameOpt fm b0 x) → _) ?_; (on_goal 2 => unfold x); all_goals clear_value x)
    | (extract_lets +onlyGivenNames x; refine (fun hx => ?_ : (Frame fm b0 x.st) → _) ?_; (on_goal 2 => unfold x); all_goals clear_value x)
    | extract_lets +onlyGivenNames x
    | with_reducible apply putBerth_frame
    | ((conv in State.mk _ _ _ _ _ _ _ _ _ _ _ _ _ _ _ _ _ _ _ _ _ _ _ _ _ => skip); with_reducible apply Frame.upd)
    | with_reducible exact .inr rfl
    | exact .inl (Part.sub_has _ hfm (by decide))
    | exact .inl ⟨Part.sub_has _ hfm (by decide), fun h => h⟩
    | exact .inl ⟨Part.sub_has _ hfm (by decide), fun h => by simpa only [List.length_set, List.length_map, List.length_zipIdx] using h⟩

theorem withholdReads_frame {fm : List Part} {b0 : State} (s : State) (k off : Nat)
    (hfr : Frame fm b0 s) (hfm : Part.sub [.net] fm = true) : Frame fm b0 (withholdReads s k off) := by
  unfold withholdReads
  repeat' first
    | with_reducible assumption
    | exact Part.sub_trans (by decide) hfm
    | with_reducible intro _
    | ((conv in State.mk _ _ _ _ _ _ _ _ _ _ _ _ _ _ _ _ _ _ _ _ _ _ _ _ _ => skip); with_reducible apply Frame.upd)
    | with_reducible exact .inr rfl
    | exact .inl (Part.sub_has _ hfm (by decide))
    | exact .inl ⟨Part.sub_has _ hfm (by decide), fun h => h⟩
    | exact .inl ⟨Part.sub_has _ hfm (by decide), fun h => by simpa only [List.length_set, List.length_map, List.length_zipIdx] using h⟩

end Sys2Proof.Machine
end

