-- ==== Sys2Proof/Laws/FramesFabric.lean ====
section
/-!
SUPPORT. Frames of the operations of the model (fabric): which parts of the state each can touch, and that a safe
machine stays safe.
-/

namespace Sys2Proof.Machine

theorem applyTrims_safe (t : Tile) (ts : SMap Int) (now : Nat) (h : tileSafe t = true) :
    tileSafe (applyTrims t ts now) = true := by
  unfold applyTrims
  split
  · exact tileSafe_upd (h := h) (.inl rfl) (.inl rfl) (.inl rfl) (.inl rfl) (.inl rfl) (.inl rfl) (.inl rfl)
  · exact later_safe _ _ _ h

theorem commitTable_frame {fm : List Part} {b0 : State} (s : State) (k : Nat)
    (hfr : Frame fm b0 s) (hfm : Part.sub [.regs, .stk] fm = true) : Frame fm b0 (commitTable s k) := by
  unfold commitTable
  repeat' first
    | with_reducible assumption
    | exact Part.sub_trans (by decide) hfm
    | with_reducible intro _
    | (extract_lets +onlyGivenNames x; refine (fun hx => ?_ : (Frame fm b0 x) → _) ?_; (on_goal 2 => unfold x); all_goals clear_value x)
    | (extract_lets +onlyGivenNames x; refine (fun hx => ?_ : (Frame fm b0 x.1) → _) ?_; (on_goal 2 => unfold x); all_goals clear_value x)
    | (extract_lets +onlyGivenNames x; refine (fun hx => ?_ : (tileSafe x = true) → _) ?_; (on_goal 2 => unfold x); all_goals clear_value x)
    | (extract_lets +onlyGivenNames x; refine (fun hx => ?_ : (tileSafe x.1 = true) → _) ?_; (on_goal 2 => unfold x); all_goals clear_value x)
    | (extract_lets +onlyGivenNames x; refine (fun hx => ?_ : (FrameOpt fm b0 x) → _) ?_; (on_goal 2 => unfold x); all_goals clear_value x)
    | (extract_lets +onlyGivenNames x; refine (fun hx => ?_ : (Frame fm b0 x.st) → _) ?_; (on_goal 2 => unfold x); all_goals clear_value x)
    | extract_lets +onlyGivenNames x
    | with_reducible apply putStk_frame
    | with_reducible apply rset_frame
    | with_reducible apply rput_frame
    | with_reducible apply Frame.ite
    | split
    | ((conv in State.mk _ _ _ _ _ _ _ _ _ _ _ _ _ _ _ _ _ _ _ _ _ _ _ _ _ => skip); with_reducible apply Frame.upd)
    | with_reducible exact .inr rfl
    | exact .inl (Part.sub_has _ hfm (by decide))
    | exact .inl ⟨Part.sub_has _ hfm (by decide), fun h => h⟩
    | exact .inl ⟨Part.sub_has _ hfm (by decide), fun h => by simpa only [List.length_set, List.length_map, List.length_zipIdx] using h⟩

theorem failCommit_frame {fm : List Part} {b0 : State} (s : State) (k : Nat)
    (hfr : Frame fm b0 s) (hfm : Part.sub [.regs, .stk, .log] fm = true) : Frame fm b0 (failCommit s k) := by
  unfold failCommit
  repeat' first
    | with_reducible assumption
    | exact Part.sub_trans (by decide) hfm
    | with_reducible intro _
    | (extract_lets +onlyGivenNames x; refine (fun hx => ?_ : (Frame fm b0 x) → _) ?_; (on_goal 2 => unfold x); all_goals clear_value x)
    | (extract_lets +onlyGivenNames x; refine (fun hx => ?_ : (Frame fm b0 x.1) → _) ?_; (on_goal 2 => unfold x); all_goals clear_value x)
    | (extract_lets +onlyGivenNames x; refine (fun hx => ?_ : (tileSafe x = true) → _) ?_; (on_goal 2 => unfold x); all_goals clear_value x)
    | (extract_lets +onlyGivenNames x; refine (fun hx => ?_ : (tileSafe x.1 = true) → _) ?_; (on_goal 2 => unfold x); all_goals clear_value x)
    | (extract_lets +onlyGivenNames x; refine (fun hx => ?_ : (FrameOpt fm b0 x) → _) ?_; (on_goal 2 => unfold x); all_goals clear_value x)
    | (extract_lets +onlyGivenNames x; refine (fun hx => ?_ : (Frame fm b0 x.st) → _) ?_; (on_goal 2 => unfold x); all_goals clear_value x)
    | extract_lets +onlyGivenNames x
    | with_reducible apply logExtra_frame
    | with_reducible apply rset_frame
    | with_reducible apply rput_frame
    | with_reducible apply spoilCopy_frame
    | with_reducible apply Frame.ite
    | split

theorem endStackCommit_frame {fm : List Part} {b0 : State} (s : State) (k : Nat) (ok : Bool)
    (hfr : Frame fm b0 s) (hfm : Part.sub [.regs, .stk, .log] fm = true) : Frame fm b0 (endStackCommit s k ok) := by
  unfold endStackCommit
  repeat' first
    | with_reducible assumption
    | exact Part.sub_trans (by decide) hfm
    | with_reducible intro _
    | with_reducible apply rput_frame
    | with_reducible apply commitTable_frame
    | with_reducible apply failCommit_frame
    | with_reducible apply Frame.ite
    | split

theorem endMasked_frame {fm : List Part} {b0 : State} (s : State) (k : Nat) (ok : Bool)
    (hfr : Frame fm b0 s) (hfm : Part.sub [.regs, .stk, .log, .bnc] fm = true) : Frame fm b0 (endMasked s k ok) := by
  unfold endMasked
  repeat' first
    | with_reducible assumption
    | exact Part.sub_trans (by decide) hfm
    | with_reducible intro _
    | (extract_lets +onlyGivenNames x; refine (fun hx => ?_ : (Frame fm b0 x) → _) ?_; (on_goal 2 => unfold x); all_goals clear_value x)
    | (extract_lets +onlyGivenNames x; refine (fun hx => ?_ : (Frame fm b0 x.1) → _) ?_; (on_goal 2 => unfold x); all_goals clear_value x)
    | (extract_lets +onlyGivenNames x; refine (fun hx => ?_ : (tileSafe x = true) → _) ?_; (on_goal 2 => unfold x); all_goals clear_value x)
    | (extract_lets +onlyGivenNames x; refine (fun hx => ?_ : (tileSafe x.1 = true) → _) ?_; (on_goal 2 => unfold x); all_goals clear_value x)
    | (extract_lets +onlyGivenNames x; refine (fun hx => ?_ : (FrameOpt fm b0 x) → _) ?_; (on_goal 2 => unfold x); all_goals clear_value x)
    | (extract_lets +onlyGivenNames x; refine (fun hx => ?_ : (Frame fm b0 x.st) → _) ?_; (on_goal 2 => unfold x); all_goals clear_value x)
    | extract_lets +onlyGivenNames x
    | with_reducible apply endStackCommit_frame
    | split
    | ((conv in State.mk _ _ _ _ _ _ _ _ _ _ _ _ _ _ _ _ _ _ _ _ _ _ _ _ _ => skip); with_reducible apply Frame.upd)
    | with_reducible exact .inr rfl
    | exact .inl (Part.sub_has _ hfm (by decide))
    | exact .inl ⟨Part.sub_has _ hfm (by decide), fun h => h⟩
    | exact .inl ⟨Part.sub_has _ hfm (by decide), fun h => by simpa only [List.length_set, List.length_map, List.length_zipIdx] using h⟩

theorem passMasked_frame {fm : List Part} {b0 : State} (s : State)
    (hfr : Frame fm b0 s) (hfm : Part.sub [.regs, .free, .stk, .log, .bnc] fm = true) : Frame fm b0 (passMasked s) := by
  unfold passMasked
  repeat' first
    | with_reducible assumption
    | exact Part.sub_trans (by decide) hfm
    | with_reducible intro _
    | (extract_lets +onlyGivenNames x; refine (fun hx => ?_ : (Frame fm b0 x) → _) ?_; (on_goal 2 => unfold x); all_goals clear_value x)
    | (extract_lets +onlyGivenNames x; refine (fun hx => ?_ : (Frame fm b0 x.1) → _) ?_; (on_goal 2 => unfold x); all_goals clear_value x)
    | (extract_lets +onlyGivenNames x; refine (fun hx => ?_ : (tileSafe x = true) → _) ?_; (on_goal 2 => unfold x); all_goals clear_value x)
    | (extract_lets +onlyGivenNames x; refine (fun hx => ?_ : (tileSafe x.1 = true) → _) ?_; (on_goal 2 => unfold x); all_goals clear_value x)
    | (extract_lets +onlyGivenNames x; refine (fun hx => ?_ : (FrameOpt fm b0 x) → _) ?_; (on_goal 2 => unfold x); all_goals clear_value x)
    | (extract_lets +onlyGivenNames x; refine (fun hx => ?_ : (Frame fm b0 x.st) → _) ?_; (on_goal 2 => unfold x); all_goals clear_value x)
    | extract_lets +onlyGivenNames x
    | with_reducible apply endMasked_frame
    | with_reducible apply showMasked_frame
    | with_reducible apply Frame.foldl
    | with_reducible apply Frame.foldlFst
    | with_reducible apply Frame.ite
    | split
    | ((conv in State.mk _ _ _ _ _ _ _ _ _ _ _ _ _ _ _ _ _ _ _ _ _ _ _ _ _ => skip); with_reducible apply Frame.upd)
    | with_reducible exact .inr rfl
    | exact .inl (Part.sub_has _ hfm (by decide))
    | exact .inl ⟨Part.sub_has _ hfm (by decide), fun h => h⟩
    | exact .inl ⟨Part.sub_has _ hfm (by decide), fun h => by simpa only [List.length_set, List.length_map, List.length_zipIdx] using h⟩

theorem breakCommits_frame {fm : List Part} {b0 : State} (s : State)
    (hfr : Frame fm b0 s) (hfm : Part.sub [.regs, .free, .stk, .log, .bnc] fm = true) : Frame fm b0 (breakCommits s) := by
  unfold breakCommits
  repeat' first
    | with_reducible assumption
    | exact Part.sub_trans (by decide) hfm
    | with_reducible intro _
    | (extract_lets +onlyGivenNames x; refine (fun hx => ?_ : (Frame fm b0 x) → _) ?_; (on_goal 2 => unfold x); all_goals clear_value x)
    | (extract_lets +onlyGivenNames x; refine (fun hx => ?_ : (Frame fm b0 x.1) → _) ?_; (on_goal 2 => unfold x); all_goals clear_value x)
    | (extract_lets +onlyGivenNames x; refine (fun hx => ?_ : (tileSafe x = true) → _) ?_; (on_goal 2 => unfold x); all_goals clear_value x)
    | (extract_lets +onlyGivenNames x; refine (fun hx => ?_ : (tileSafe x.1 = true) → _) ?_; (on_goal 2 => unfold x); all_goals clear_value x)
    | (extract_lets +onlyGivenNames x; refine (fun hx => ?_ : (FrameOpt fm b0 x) → _) ?_; (on_goal 2 => unfold x); all_goals clear_value x)
    | (extract_lets +onlyGivenNames x; refine (fun hx => ?_ : (Frame fm b0 x.st) → _) ?_; (on_goal 2 => unfold x); all_goals clear_value x)
    | extract_lets +onlyGivenNames x
    | with_reducible apply spoilMasked_frame
    | with_reducible apply passMasked_frame
    | with_reducible apply spoilCopy_frame
    | (with_reducible refine Frame.ofPair ‹_ = (_, _)› ?_)
    | split
    | ((conv in State.mk _ _ _ _ _ _ _ _ _ _ _ _ _ _ _ _ _ _ _ _ _ _ _ _ _ => skip); with_reducible apply Frame.upd)
    | with_reducible exact .inr rfl
    | exact .inl (Part.sub_has _ hfm (by decide))
    | exact .inl ⟨Part.sub_has _ hfm (by decide), fun h => h⟩
    | exact .inl ⟨Part.sub_has _ hfm (by decide), fun h => by simpa only [List.length_set, List.length_map, List.length_zipIdx] using h⟩

theorem safeState_frame {fm : List Part} {b0 : State} (s : State)
    (hfr : Frame fm b0 s) (hfm : Part.sub [.slot0, .tick, .tfrac, .regs, .tiles, .dram, .net, .reports, .free, .stk, .vil, .fleet, .chr, .serve, .img, .log, .pwr, .rst, .bnc, .lsr] fm = true) : Frame fm b0 (safeState s) := by
  unfold safeState
  repeat' first
    | with_reducible assumption
    | exact Part.sub_trans (by decide) hfm
    | with_reducible intro _
    | (extract_lets +onlyGivenNames x; refine (fun hx => ?_ : (Frame fm b0 x) → _) ?_; (on_goal 2 => unfold x); all_goals clear_value x)
    | (extract_lets +onlyGivenNames x; refine (fun hx => ?_ : (Frame fm b0 x.1) → _) ?_; (on_goal 2 => unfold x); all_goals clear_value x)
    | (extract_lets +onlyGivenNames x; refine (fun hx => ?_ : (tileSafe x = true) → _) ?_; (on_goal 2 => unfold x); all_goals clear_value x)
    | (extract_lets +onlyGivenNames x; refine (fun hx => ?_ : (tileSafe x.1 = true) → _) ?_; (on_goal 2 => unfold x); all_goals clear_value x)
    | (extract_lets +onlyGivenNames x; refine (fun hx => ?_ : (FrameOpt fm b0 x) → _) ?_; (on_goal 2 => unfold x); all_goals clear_value x)
    | (extract_lets +onlyGivenNames x; refine (fun hx => ?_ : (Frame fm b0 x.st) → _) ?_; (on_goal 2 => unfold x); all_goals clear_value x)
    | extract_lets +onlyGivenNames x
    | with_reducible apply rput_frame
    | with_reducible apply rset_frame
    | with_reducible apply dropDomains_frame
    | with_reducible apply breakCommits_frame
    | with_reducible apply Frame.ite
    | split

theorem stopStep_frame {fm : List Part} {b0 : State} (s : State)
    (hfr : Frame fm b0 s) (hfm : Part.sub [.slot0, .tick, .tfrac, .regs, .tiles, .dram, .net, .reports, .free, .stk, .vil, .fleet, .chr, .serve, .img, .log, .pwr, .rst, .bnc, .lsr] fm = true) : Frame fm b0 (stopStep s) := by
  unfold stopStep
  repeat' first
    | with_reducible assumption
    | exact Part.sub_trans (by decide) hfm
    | with_reducible intro _
    | with_reducible apply rput_frame
    | with_reducible apply stackOff_frame
    | with_reducible apply dropDomains_frame
    | with_reducible apply breakCommits_frame
    | with_reducible apply Frame.ite
    | (with_reducible refine Frame.ofPair ‹_ = (_, _)› ?_)
    | split
    | ((conv in State.mk _ _ _ _ _ _ _ _ _ _ _ _ _ _ _ _ _ _ _ _ _ _ _ _ _ => skip); with_reducible apply Frame.upd)
    | with_reducible exact .inr rfl
    | exact .inl (Part.sub_has _ hfm (by decide))
    | exact .inl ⟨Part.sub_has _ hfm (by decide), fun h => h⟩
    | exact .inl ⟨Part.sub_has _ hfm (by decide), fun h => by simpa only [List.length_set, List.length_map, List.length_zipIdx] using h⟩
    | extract_lets +onlyGivenNames x

theorem orderlyStop_frame {fm : List Part} {b0 : State} (s : State)
    (hfr : Frame fm b0 s) (hfm : Part.sub [.slot0, .tick, .tfrac, .regs, .tiles, .dram, .net, .reports, .free, .stk, .vil, .fleet, .chr, .serve, .img, .log, .pwr, .rst, .bnc, .lsr] fm = true) : Frame fm b0 (orderlyStop s) := by
  unfold orderlyStop
  repeat' first
    | with_reducible assumption
    | exact Part.sub_trans (by decide) hfm
    | with_reducible intro _
    | (extract_lets +onlyGivenNames x; refine (fun hx => ?_ : (Frame fm b0 x) → _) ?_; (on_goal 2 => unfold x); all_goals clear_value x)
    | extract_lets +onlyGivenNames x
    | with_reducible apply stopStep_frame
    | with_reducible apply askStop_frame
    | with_reducible apply logFlush_frame
    | with_reducible apply rput_frame
    | with_reducible apply Frame.foldl
    | with_reducible apply Frame.ite
    | ((conv in State.mk _ _ _ _ _ _ _ _ _ _ _ _ _ _ _ _ _ _ _ _ _ _ _ _ _ => skip); with_reducible apply Frame.upd)
    | with_reducible exact .inr rfl
    | exact .inl (Part.sub_has _ hfm (by decide))

theorem execClockStopGrant_frame {fm : List Part} {b0 : State} (dns : Nat) (s : State)
    (hfr : Frame fm b0 s) (hfm : Part.sub [.cyc, .slot0, .tick, .tfrac, .regs, .tiles, .dram, .net, .reports, .free, .stk, .vil, .fleet, .chr, .serve, .img, .log, .pwr, .rst, .bnc, .lsr] fm = true) : FrameOut fm b0 (execClockStopGrant dns s) := by
  unfold execClockStopGrant
  repeat' first
    | with_reducible assumption
    | exact Part.sub_trans (by decide) hfm
    | with_reducible intro _
    | (extract_lets +onlyGivenNames x; refine (fun hx => ?_ : (Frame fm b0 x) → _) ?_; (on_goal 2 => unfold x); all_goals clear_value x)
    | (extract_lets +onlyGivenNames x; refine (fun hx => ?_ : (Frame fm b0 x.1) → _) ?_; (on_goal 2 => unfold x); all_goals clear_value x)
    | (extract_lets +onlyGivenNames x; refine (fun hx => ?_ : (tileSafe x = true) → _) ?_; (on_goal 2 => unfold x); all_goals clear_value x)
    | (extract_lets +onlyGivenNames x; refine (fun hx => ?_ : (tileSafe x.1 = true) → _) ?_; (on_goal 2 => unfold x); all_goals clear_value x)
    | (extract_lets +onlyGivenNames x; refine (fun hx => ?_ : (FrameOpt fm b0 x) → _) ?_; (on_goal 2 => unfold x); all_goals clear_value x)
    | (extract_lets +onlyGivenNames x; refine (fun hx => ?_ : (Frame fm b0 x.st) → _) ?_; (on_goal 2 => unfold x); all_goals clear_value x)
    | extract_lets +onlyGivenNames x
    | with_reducible apply FrameOut.next
    | with_reducible apply elapseNs_frame
    | with_reducible apply stopStep_frame
    | with_reducible apply govRest_frame
    | with_reducible apply stopClock_frame
    | with_reducible apply govDefer_frame
    | with_reducible apply Frame.ite
    | (with_reducible refine Frame.ofPair ‹_ = (_, _)› ?_)
    | split
    | ((conv in State.mk _ _ _ _ _ _ _ _ _ _ _ _ _ _ _ _ _ _ _ _ _ _ _ _ _ => skip); with_reducible apply Frame.upd)
    | with_reducible exact .inr rfl
    | exact .inl (Part.sub_has _ hfm (by decide))
    | exact .inl ⟨Part.sub_has _ hfm (by decide), fun h => h⟩
    | exact .inl ⟨Part.sub_has _ hfm (by decide), fun h => by simpa only [List.length_set, List.length_map, List.length_zipIdx] using h⟩

theorem stopAfterLast_frame {fm : List Part} {b0 : State} (s : State)
    (hfr : Frame fm b0 s) (hfm : Part.sub [.slot0, .tick, .tfrac, .regs, .tiles, .dram, .net, .reports, .free, .stk, .vil, .fleet, .chr, .serve, .img, .log, .pwr, .rst, .bnc, .lsr] fm = true) : Frame fm b0 (stopAfterLast s) := by
  unfold stopAfterLast
  repeat' first
    | with_reducible assumption
    | exact Part.sub_trans (by decide) hfm
    | with_reducible intro _
    | with_reducible apply orderlyStop_frame
    | with_reducible apply finishBerth_frame
    | with_reducible apply Frame.foldl
    | with_reducible apply Frame.foldlFst
    | with_reducible apply Frame.ite
    | split
    | extract_lets +onlyGivenNames x

theorem closeBerth_frame {fm : List Part} {b0 : State} (s : State) (b : Nat)
    (hfr : Frame fm b0 s) (hfm : Part.sub [.slot0, .tick, .tfrac, .regs, .tiles, .dram, .net, .reports, .free, .stk, .vil, .fleet, .chr, .serve, .img, .log, .pwr, .rst, .bnc, .lsr] fm = true) : Frame fm b0 (closeBerth s b) := by
  unfold closeBerth
  repeat' first
    | with_reducible assumption
    | exact Part.sub_trans (by decide) hfm
    | with_reducible intro _
    | with_reducible apply stopAfterLast_frame
    | with_reducible apply sendThermal_frame
    | with_reducible apply putBerth_frame
    | with_reducible apply finishBerth_frame
    | with_reducible apply Frame.ite
    | split
    | ((conv in State.mk _ _ _ _ _ _ _ _ _ _ _ _ _ _ _ _ _ _ _ _ _ _ _ _ _ => skip); with_reducible apply Frame.upd)
    | with_reducible exact .inr rfl
    | exact .inl (Part.sub_has _ hfm (by decide))
    | exact .inl ⟨Part.sub_has _ hfm (by decide), fun h => h⟩
    | exact .inl ⟨Part.sub_has _ hfm (by decide), fun h => by simpa only [List.length_set, List.length_map, List.length_zipIdx] using h⟩
    | extract_lets +onlyGivenNames x

theorem disableBerth_frame {fm : List Part} {b0 : State} (s : State) (b : Nat) (line : Option (BitVec 48))
    (hfr : Frame fm b0 s) (hfm : Part.sub [.slot0, .tick, .tfrac, .regs, .tiles, .dram, .net, .reports, .free, .stk, .vil, .fleet, .chr, .serve, .img, .log, .pwr, .rst, .bnc, .lsr] fm = true) : Frame fm b0 (disableBerth s b line) := by
  unfold disableBerth
  repeat' first
    | with_reducible assumption
    | exact Part.sub_trans (by decide) hfm
    | (extract_lets +onlyGivenNames x; refine (fun hx => ?_ : (Frame fm b0 x) → _) ?_; (on_goal 2 => unfold x); all_goals clear_value x)
    | extract_lets +onlyGivenNames x
    | with_reducible apply closeBerth_frame
    | with_reducible apply putBerthState_frame
    | with_reducible apply putBerth_frame
    | with_reducible apply Frame.ite

theorem shapeTile_frame {fm : List Part} {b0 : State} (b : Nat) (s : State) (p : TileProgram)
    (hfr : Frame fm b0 s) (hfm : Part.sub [.cyc, .slot0, .tick, .tfrac, .regs, .tiles, .dram, .net, .reports, .free, .stk, .vil, .fleet, .chr, .serve, .img, .log, .pwr, .rst, .bnc, .lsr] fm = true) : Frame fm b0 (shapeTile b s p) := by
  unfold shapeTile
  repeat' first
    | with_reducible assumption
    | exact Part.sub_trans (by decide) hfm
    | with_reducible intro _
    | (extract_lets +onlyGivenNames x; refine (fun hx => ?_ : (Frame fm b0 x) → _) ?_; (on_goal 2 => unfold x); all_goals clear_value x)
    | (extract_lets +onlyGivenNames x; refine (fun hx => ?_ : (Frame fm b0 x.1) → _) ?_; (on_goal 2 => unfold x); all_goals clear_value x)
    | (extract_lets +onlyGivenNames x; refine (fun hx => ?_ : (SafeParts b0 → tileSafe x = true) → _) ?_; (on_goal 2 => unfold x); all_goals clear_value x)
    | (extract_lets +onlyGivenNames x; refine (fun hx => ?_ : (SafeParts b0 → tileSafe x.1 = true) → _) ?_; (on_goal 2 => unfold x); all_goals clear_value x)
    | (extract_lets +onlyGivenNames x; refine (fun hx => ?_ : (FrameOpt fm b0 x) → _) ?_; (on_goal 2 => unfold x); all_goals clear_value x)
    | (extract_lets +onlyGivenNames x; refine (fun hx => ?_ : (Frame fm b0 x.st) → _) ?_; (on_goal 2 => unfold x); all_goals clear_value x)
    | extract_lets +onlyGivenNames x
    | with_reducible apply takeSpare_frame
    | with_reducible apply putTile_frame
    | with_reducible apply disableBerth_frame
    | with_reducible apply rset_frame
    | with_reducible apply Frame.ite
    | (with_reducible refine Frame.ofPair ‹_ = (_, _)› ?_)
    | split
    | ((conv in State.mk _ _ _ _ _ _ _ _ _ _ _ _ _ _ _ _ _ _ _ _ _ _ _ _ _ => skip); with_reducible apply Frame.upd)
    | with_reducible exact .inr rfl
    | exact .inl (Part.sub_has _ hfm (by decide))
    | exact .inl ⟨Part.sub_has _ hfm (by decide), fun h => h⟩
    | exact .inl ⟨Part.sub_has _ hfm (by decide), fun h => by simpa only [List.length_set, List.length_map, List.length_zipIdx] using h⟩
    | ((conv in Tile.mk _ _ _ _ _ _ _ _ _ _ _ _ _ _ _ _ _ _ _ _ _ _ _ _ _ _ _ _ _ _ _ _ _ _ _ _ _ _ _ _ => skip); with_reducible apply tileSafe_upd)
    | with_reducible exact .inl rfl
    | (refine SafeParts.tileAt (Frame.safe (m := fm) ?_ ‹SafeParts b0›) _ _)
    | with_reducible exact (‹SafeParts _ → tileSafe _ = true› ‹_›)

theorem shapeBerth_frame {fm : List Part} {b0 : State} (s : State) (b : Nat)
    (hfr : Frame fm b0 s) (hfm : Part.sub [.cyc, .slot0, .tick, .tfrac, .regs, .tiles, .dram, .net, .reports, .free, .stk, .vil, .fleet, .chr, .serve, .img, .log, .pwr, .rst, .bnc, .lsr] fm = true) : Frame fm b0 (shapeBerth s b) := by
  unfold shapeBerth
  repeat' first
    | with_reducible assumption
    | exact Part.sub_trans (by decide) hfm
    | with_reducible intro _
    | extract_lets +onlyGivenNames x
    | with_reducible apply shapeTile_frame
    | with_reducible apply Frame.foldl

theorem disableJob_frame {fm : List Part} {b0 : State} (l : Line) (s : State)
    (hfr : Frame fm b0 s) (hfm : Part.sub [.slot0, .tick, .tfrac, .regs, .tiles, .dram, .net, .reports, .free, .stk, .vil, .fleet, .chr, .serve, .img, .log, .pwr, .rst, .bnc, .lsr] fm = true) : Frame fm b0 (disableJob l s) := by
  unfold disableJob
  repeat' first
    | with_reducible assumption
    | exact Part.sub_trans (by decide) hfm
    | extract_lets +onlyGivenNames x
    | with_reducible apply disableBerth_frame
    | with_reducible apply writeAck_frame
    | with_reducible apply Frame.ite

theorem descriptor_frame {fm : List Part} {b0 : State} (s : State) (l : Line) (toks : List Word)
    (hfr : Frame fm b0 s) (hfm : Part.sub [.slot0, .tick, .tfrac, .regs, .tiles, .dram, .net, .reports, .free, .stk, .vil, .fleet, .chr, .serve, .img, .log, .pwr, .rst, .bnc, .lsr] fm = true) : Frame fm b0 (descriptor s l toks) := by
  unfold descriptor
  repeat' first
    | with_reducible assumption
    | exact Part.sub_trans (by decide) hfm
    | (extract_lets +onlyGivenNames x; refine (fun hx => ?_ : (Frame fm b0 x) → _) ?_; (on_goal 2 => unfold x); all_goals clear_value x)
    | extract_lets +onlyGivenNames x
    | with_reducible apply disableJob_frame
    | with_reducible apply retireJob_frame
    | with_reducible apply publishJob_frame
    | with_reducible apply cancelJob_frame
    | with_reducible apply submitJob_frame
    | with_reducible apply markLine_frame
    | with_reducible apply writeAck_frame
    | with_reducible apply countEvent_frame
    | with_reducible apply Frame.ite
    | split

theorem execSubmit_frame {fm : List Part} {b0 : State} (l : Line) (toks : List Word) (s : State)
    (hfr : Frame fm b0 s) (hfm : Part.sub [.slot0, .tick, .tfrac, .regs, .tiles, .dram, .net, .reports, .free, .stk, .vil, .fleet, .chr, .serve, .img, .log, .pwr, .rst, .bnc, .lsr] fm = true) : FrameOut fm b0 (execSubmit l toks s) := by
  unfold execSubmit
  repeat' first
    | with_reducible assumption
    | exact Part.sub_trans (by decide) hfm
    | extract_lets +onlyGivenNames x
    | with_reducible apply FrameOut.next
    | with_reducible apply descriptor_frame

theorem execCancel_frame {fm : List Part} {b0 : State} (l : Line) (s : State)
    (hfr : Frame fm b0 s) (hfm : Part.sub [.slot0, .tick, .tfrac, .regs, .tiles, .dram, .net, .reports, .free, .stk, .vil, .fleet, .chr, .serve, .img, .log, .pwr, .rst, .bnc, .lsr] fm = true) : FrameOut fm b0 (execCancel l s) := by
  unfold execCancel
  repeat' first
    | with_reducible assumption
    | exact Part.sub_trans (by decide) hfm
    | extract_lets +onlyGivenNames x
    | with_reducible apply FrameOut.next
    | with_reducible apply descriptor_frame

theorem execAdapterPublish_frame {fm : List Part} {b0 : State} (l : Line) (s : State)
    (hfr : Frame fm b0 s) (hfm : Part.sub [.slot0, .tick, .tfrac, .regs, .tiles, .dram, .net, .reports, .free, .stk, .vil, .fleet, .chr, .serve, .img, .log, .pwr, .rst, .bnc, .lsr] fm = true) : FrameOut fm b0 (execAdapterPublish l s) := by
  unfold execAdapterPublish
  repeat' first
    | with_reducible assumption
    | exact Part.sub_trans (by decide) hfm
    | extract_lets +onlyGivenNames x
    | with_reducible apply FrameOut.next
    | with_reducible apply descriptor_frame

theorem execAdapterRetire_frame {fm : List Part} {b0 : State} (l : Line) (s : State)
    (hfr : Frame fm b0 s) (hfm : Part.sub [.slot0, .tick, .tfrac, .regs, .tiles, .dram, .net, .reports, .free, .stk, .vil, .fleet, .chr, .serve, .img, .log, .pwr, .rst, .bnc, .lsr] fm = true) : FrameOut fm b0 (execAdapterRetire l s) := by
  unfold execAdapterRetire
  repeat' first
    | with_reducible assumption
    | exact Part.sub_trans (by decide) hfm
    | extract_lets +onlyGivenNames x
    | with_reducible apply FrameOut.next
    | with_reducible apply descriptor_frame

theorem execBerthDisable_frame {fm : List Part} {b0 : State} (l : Line) (s : State)
    (hfr : Frame fm b0 s) (hfm : Part.sub [.slot0, .tick, .tfrac, .regs, .tiles, .dram, .net, .reports, .free, .stk, .vil, .fleet, .chr, .serve, .img, .log, .pwr, .rst, .bnc, .lsr] fm = true) : FrameOut fm b0 (execBerthDisable l s) := by
  unfold execBerthDisable
  repeat' first
    | with_reducible assumption
    | exact Part.sub_trans (by decide) hfm
    | extract_lets +onlyGivenNames x
    | with_reducible apply FrameOut.next
    | with_reducible apply descriptor_frame

theorem commitBerth_frame {fm : List Part} {b0 : State} (s : State) (b : Nat)
    (hfr : Frame fm b0 s) (hfm : Part.sub [.cyc, .slot0, .tick, .tfrac, .regs, .tiles, .dram, .net, .reports, .free, .stk, .vil, .fleet, .chr, .serve, .img, .log, .pwr, .rst, .bnc, .lsr] fm = true) : Frame fm b0 (commitBerth s b) := by
  unfold commitBerth
  repeat' first
    | with_reducible assumption
    | exact Part.sub_trans (by decide) hfm
    | with_reducible intro _
    | (extract_lets +onlyGivenNames x; refine (fun hx => ?_ : (Frame fm b0 x) → _) ?_; (on_goal 2 => unfold x); all_goals clear_value x)
    | (extract_lets +onlyGivenNames x; refine (fun hx => ?_ : (Frame fm b0 x.1) → _) ?_; (on_goal 2 => unfold x); all_goals clear_value x)
    | (extract_lets +onlyGivenNames x; refine (fun hx => ?_ : (tileSafe x = true) → _) ?_; (on_goal 2 => unfold x); all_goals clear_value x)
    | (extract_lets +onlyGivenNames x; refine (fun hx => ?_ : (tileSafe x.1 = true) → _) ?_; (on_goal 2 => unfold x); all_goals clear_value x)
    | (extract_lets +onlyGivenNames x; refine (fun hx => ?_ : (FrameOpt fm b0 x) → _) ?_; (on_goal 2 => unfold x); all_goals clear_value x)
    | (extract_lets +onlyGivenNames x; refine (fun hx => ?_ : (Frame fm b0 x.st) → _) ?_; (on_goal 2 => unfold x); all_goals clear_value x)
    | extract_lets +onlyGivenNames x
    | with_reducible apply advAll_frame
    | with_reducible apply endLost_frame
    | with_reducible apply countEvent_frame
    | with_reducible apply clearNan_frame
    | with_reducible apply checkQueues_frame
    | with_reducible apply putCtx_frame
    | with_reducible apply dropContext_frame
    | with_reducible apply report_frame
    | with_reducible apply putBerth_frame
    | with_reducible apply insertAfter_frame
    | with_reducible apply releasePins_frame
    | with_reducible apply addDebt_frame
    | with_reducible apply crossCommit_frame
    | with_reducible apply replayCommitted_frame
    | with_reducible apply sweepVersions_frame
    | with_reducible apply closeBerth_frame
    | with_reducible apply Frame.foldl
    | with_reducible apply Frame.foldlFst
    | with_reducible apply Frame.ite
    | split
    | ((conv in State.mk _ _ _ _ _ _ _ _ _ _ _ _ _ _ _ _ _ _ _ _ _ _ _ _ _ => skip); with_reducible apply Frame.upd)
    | with_reducible exact .inr rfl
    | exact .inl (Part.sub_has _ hfm (by decide))
    | exact .inl ⟨Part.sub_has _ hfm (by decide), fun h => h⟩
    | exact .inl ⟨Part.sub_has _ hfm (by decide), fun h => by simpa only [List.length_set, List.length_map, List.length_zipIdx] using h⟩

theorem execCommitPoint_frame {fm : List Part} {b0 : State} (b : BitVec 4) (s : State)
    (hfr : Frame fm b0 s) (hfm : Part.sub [.cyc, .slot0, .tick, .tfrac, .regs, .tiles, .dram, .net, .reports, .free, .stk, .vil, .fleet, .chr, .serve, .img, .log, .pwr, .rst, .bnc, .lsr] fm = true) : FrameOut fm b0 (execCommitPoint b s) := by
  unfold execCommitPoint
  repeat' first
    | with_reducible assumption
    | exact Part.sub_trans (by decide) hfm
    | (extract_lets +onlyGivenNames x; refine (fun hx => ?_ : (Frame fm b0 x) → _) ?_; (on_goal 2 => unfold x); all_goals clear_value x)
    | extract_lets +onlyGivenNames x
    | with_reducible apply FrameOut.next
    | with_reducible apply commitBerth_frame
    | with_reducible apply putBerth_frame
    | with_reducible apply sendHelm_frame
    | with_reducible apply releaseHelm_frame
    | split

theorem execReleaseRecord_frame {fm : List Part} {b0 : State} (b : BitVec 4) (w : Word) (vmax : Half) (s : State)
    (hfr : Frame fm b0 s) (hfm : Part.sub [.cyc, .slot0, .tick, .tfrac, .regs, .tiles, .dram, .net, .reports, .free, .stk, .vil, .fleet, .chr, .serve, .img, .log, .pwr, .rst, .bnc, .lsr] fm = true) : FrameOut fm b0 (execReleaseRecord b w vmax s) := by
  unfold execReleaseRecord
  repeat' first
    | with_reducible assumption
    | exact Part.sub_trans (by decide) hfm
    | extract_lets +onlyGivenNames x
    | with_reducible apply FrameOut.next
    | with_reducible apply commitBerth_frame
    | with_reducible apply putBerth_frame
    | split

theorem execAbandonNoticeTimeout_frame {fm : List Part} {b0 : State} (b : BitVec 4) (s : State)
    (hfr : Frame fm b0 s) (hfm : Part.sub [.cyc, .slot0, .tick, .tfrac, .regs, .tiles, .dram, .net, .reports, .free, .stk, .vil, .fleet, .chr, .serve, .img, .log, .pwr, .rst, .bnc, .lsr] fm = true) : FrameOut fm b0 (execAbandonNoticeTimeout b s) := by
  unfold execAbandonNoticeTimeout
  repeat' first
    | with_reducible assumption
    | exact Part.sub_trans (by decide) hfm
    | (extract_lets +onlyGivenNames x; refine (fun hx => ?_ : (Frame fm b0 x) → _) ?_; (on_goal 2 => unfold x); all_goals clear_value x)
    | extract_lets +onlyGivenNames x
    | with_reducible apply FrameOut.next
    | with_reducible apply disableBerth_frame
    | with_reducible apply putBerth_frame
    | with_reducible apply elapseToTick_frame
    | split

theorem thermalStop_frame {fm : List Part} {b0 : State} (s : State)
    (hfr : Frame fm b0 s) (hfm : Part.sub [.slot0, .tick, .tfrac, .regs, .tiles, .dram, .net, .reports, .free, .stk, .vil, .fleet, .chr, .serve, .img, .log, .pwr, .rst, .bnc, .lsr] fm = true) : Frame fm b0 (thermalStop s) := by
  unfold thermalStop
  repeat' first
    | with_reducible assumption
    | exact Part.sub_trans (by decide) hfm
    | with_reducible intro _
    | extract_lets +onlyGivenNames x
    | with_reducible apply thermalBerth_frame
    | with_reducible apply stopAfterLast_frame
    | with_reducible apply countEvent_frame
    | with_reducible apply orderlyStop_frame
    | with_reducible apply rset_frame
    | with_reducible apply Frame.foldl
    | with_reducible apply Frame.ite

theorem execThermalStopEvent_frame {fm : List Part} {b0 : State} (s : State)
    (hfr : Frame fm b0 s) (hfm : Part.sub [.slot0, .tick, .tfrac, .regs, .tiles, .dram, .net, .reports, .free, .stk, .vil, .fleet, .chr, .serve, .img, .log, .pwr, .rst, .bnc, .lsr] fm = true) : FrameOut fm b0 (execThermalStopEvent s) := by
  unfold execThermalStopEvent
  repeat' first
    | with_reducible assumption
    | exact Part.sub_trans (by decide) hfm
    | with_reducible intro _
    | with_reducible apply FrameOut.next
    | with_reducible apply thermalStop_frame
    | with_reducible apply Frame.ite
    | split
    | extract_lets +onlyGivenNames x

theorem endCommand_frame {fm : List Part} {b0 : State} (s : State)
    (hfr : Frame fm b0 s) (hfm : Part.sub [.regs, .free, .bnc, .lsr] fm = true) : Frame fm b0 (endCommand s) := by
  unfold endCommand
  repeat' first
    | with_reducible assumption
    | exact Part.sub_trans (by decide) hfm
    | with_reducible intro _
    | (extract_lets +onlyGivenNames x; refine (fun hx => ?_ : (Frame fm b0 x) → _) ?_; (on_goal 2 => unfold x); all_goals clear_value x)
    | (extract_lets +onlyGivenNames x; refine (fun hx => ?_ : (Frame fm b0 x.1) → _) ?_; (on_goal 2 => unfold x); all_goals clear_value x)
    | (extract_lets +onlyGivenNames x; refine (fun hx => ?_ : (tileSafe x = true) → _) ?_; (on_goal 2 => unfold x); all_goals clear_value x)
    | (extract_lets +onlyGivenNames x; refine (fun hx => ?_ : (tileSafe x.1 = true) → _) ?_; (on_goal 2 => unfold x); all_goals clear_value x)
    | (extract_lets +onlyGivenNames x; refine (fun hx => ?_ : (FrameOpt fm b0 x) → _) ?_; (on_goal 2 => unfold x); all_goals clear_value x)
    | (extract_lets +onlyGivenNames x; refine (fun hx => ?_ : (Frame fm b0 x.st) → _) ?_; (on_goal 2 => unfold x); all_goals clear_value x)
    | extract_lets +onlyGivenNames x
    | with_reducible apply rput_frame
    | (with_reducible refine Frame.ofPair ‹_ = (_, _)› ?_)
    | split
    | ((conv in State.mk _ _ _ _ _ _ _ _ _ _ _ _ _ _ _ _ _ _ _ _ _ _ _ _ _ => skip); with_reducible apply Frame.upd)
    | with_reducible exact .inr rfl
    | exact .inl (Part.sub_has _ hfm (by decide))
    | exact .inl ⟨Part.sub_has _ hfm (by decide), fun h => h⟩
    | exact .inl ⟨Part.sub_has _ hfm (by decide), fun h => by simpa only [List.length_set, List.length_map, List.length_zipIdx] using h⟩

theorem endLong_frame {fm : List Part} {b0 : State} (s : State)
    (hfr : Frame fm b0 s) (hfm : Part.sub [.regs, .free, .stk, .log, .bnc, .lsr] fm = true) : Frame fm b0 (endLong s) := by
  unfold endLong
  repeat' first
    | with_reducible assumption
    | exact Part.sub_trans (by decide) hfm
    | with_reducible intro _
    | with_reducible apply endCommand_frame
    | with_reducible apply breakCommits_frame
    | with_reducible apply endLoad_frame
    | extract_lets +onlyGivenNames x

theorem moduleReset_frame {fm : List Part} {b0 : State} (s : State) (cause : Nat) (island : Bool)
    (hfr : Frame fm b0 s) (hfm : Part.sub [.slot0, .tick, .tfrac, .regs, .tiles, .dram, .net, .reports, .free, .stk, .vil, .fleet, .chr, .serve, .img, .log, .pwr, .rst, .bnc, .snd, .lsr] fm = true) : Frame fm b0 (moduleReset s cause island) := by
  unfold moduleReset
  repeat' first
    | with_reducible assumption
    | exact Part.sub_trans (by decide) hfm
    | with_reducible intro _
    | (extract_lets +onlyGivenNames x; refine (fun hx => ?_ : (Frame fm b0 x) → _) ?_; (on_goal 2 => unfold x); all_goals clear_value x)
    | (extract_lets +onlyGivenNames x; refine (fun hx => ?_ : (Frame fm b0 x.1) → _) ?_; (on_goal 2 => unfold x); all_goals clear_value x)
    | (extract_lets +onlyGivenNames x; refine (fun hx => ?_ : (tileSafe x = true) → _) ?_; (on_goal 2 => unfold x); all_goals clear_value x)
    | (extract_lets +onlyGivenNames x; refine (fun hx => ?_ : (tileSafe x.1 = true) → _) ?_; (on_goal 2 => unfold x); all_goals clear_value x)
    | (extract_lets +onlyGivenNames x; refine (fun hx => ?_ : (FrameOpt fm b0 x) → _) ?_; (on_goal 2 => unfold x); all_goals clear_value x)
    | (extract_lets +onlyGivenNames x; refine (fun hx => ?_ : (Frame fm b0 x.st) → _) ?_; (on_goal 2 => unfold x); all_goals clear_value x)
    | extract_lets +onlyGivenNames x
    | with_reducible apply dropDomains_frame
    | with_reducible apply endLong_frame
    | with_reducible apply resetStatus_frame
    | with_reducible apply lastReset_frame
    | with_reducible apply dropIsland_frame
    | with_reducible apply drawNonce_frame
    | with_reducible apply clearSecrets_frame
    | with_reducible apply takeFirmware_frame
    | with_reducible apply rset_frame
    | with_reducible apply Frame.ite
    | split

theorem hardTrip_frame {fm : List Part} {b0 : State} (s : State) (cause : Nat)
    (hfr : Frame fm b0 s) (hfm : Part.sub [.slot0, .tick, .tfrac, .regs, .tiles, .dram, .net, .reports, .free, .stk, .vil, .fleet, .chr, .serve, .img, .log, .pwr, .rst, .bnc, .snd, .lsr] fm = true) : Frame fm b0 (hardTrip s cause) := by
  unfold hardTrip
  repeat' first
    | with_reducible assumption
    | exact Part.sub_trans (by decide) hfm
    | extract_lets +onlyGivenNames x
    | with_reducible apply moduleReset_frame
    | with_reducible apply rput_frame

theorem showCommit_frame {fm : List Part} {b0 : State} (s : State)
    (hfr : Frame fm b0 s) (hfm : Part.sub [.regs] fm = true) : Frame fm b0 (showCommit s) := by
  unfold showCommit
  repeat' first
    | with_reducible assumption
    | exact Part.sub_trans (by decide) hfm
    | with_reducible intro _
    | with_reducible apply rset_frame
    | (with_reducible refine Frame.ofPair ‹_ = (_, _)› ?_)
    | split
    | ((conv in State.mk _ _ _ _ _ _ _ _ _ _ _ _ _ _ _ _ _ _ _ _ _ _ _ _ _ => skip); with_reducible apply Frame.upd)
    | with_reducible exact .inr rfl
    | exact .inl (Part.sub_has _ hfm (by decide))
    | exact .inl ⟨Part.sub_has _ hfm (by decide), fun h => h⟩
    | exact .inl ⟨Part.sub_has _ hfm (by decide), fun h => by simpa only [List.length_set, List.length_map, List.length_zipIdx] using h⟩

theorem dropCommit_frame {fm : List Part} {b0 : State} (s : State) (k : Nat)
    (hfr : Frame fm b0 s) (hfm : Part.sub [.regs, .free, .stk, .log, .bnc] fm = true) : Frame fm b0 (dropCommit s k) := by
  unfold dropCommit
  repeat' first
    | with_reducible assumption
    | exact Part.sub_trans (by decide) hfm
    | with_reducible intro _
    | (extract_lets +onlyGivenNames x; refine (fun hx => ?_ : (Frame fm b0 x) → _) ?_; (on_goal 2 => unfold x); all_goals clear_value x)
    | (extract_lets +onlyGivenNames x; refine (fun hx => ?_ : (Frame fm b0 x.1) → _) ?_; (on_goal 2 => unfold x); all_goals clear_value x)
    | (extract_lets +onlyGivenNames x; refine (fun hx => ?_ : (tileSafe x = true) → _) ?_; (on_goal 2 => unfold x); all_goals clear_value x)
    | (extract_lets +onlyGivenNames x; refine (fun hx => ?_ : (tileSafe x.1 = true) → _) ?_; (on_goal 2 => unfold x); all_goals clear_value x)
    | (extract_lets +onlyGivenNames x; refine (fun hx => ?_ : (FrameOpt fm b0 x) → _) ?_; (on_goal 2 => unfold x); all_goals clear_value x)
    | (extract_lets +onlyGivenNames x; refine (fun hx => ?_ : (Frame fm b0 x.st) → _) ?_; (on_goal 2 => unfold x); all_goals clear_value x)
    | extract_lets +onlyGivenNames x
    | with_reducible apply passMasked_frame
    | with_reducible apply spoilCopy_frame
    | with_reducible apply showMasked_frame
    | with_reducible apply showCommit_frame
    | with_reducible apply Frame.ite
    | split
    | ((conv in State.mk _ _ _ _ _ _ _ _ _ _ _ _ _ _ _ _ _ _ _ _ _ _ _ _ _ => skip); with_reducible apply Frame.upd)
    | with_reducible exact .inr rfl
    | exact .inl (Part.sub_has _ hfm (by decide))
    | exact .inl ⟨Part.sub_has _ hfm (by decide), fun h => h⟩
    | exact .inl ⟨Part.sub_has _ hfm (by decide), fun h => by simpa only [List.length_set, List.length_map, List.length_zipIdx] using h⟩

theorem assertNetworks_frame {fm : List Part} {b0 : State} (s : State) (k : Nat)
    (hfr : Frame fm b0 s) (hfm : Part.sub [.regs, .tiles, .dram, .net, .free, .stk, .log, .pwr, .bnc] fm = true) : Frame fm b0 (assertNetworks s k) := by
  unfold assertNetworks
  repeat' first
    | with_reducible assumption
    | exact Part.sub_trans (by decide) hfm
    | with_reducible intro _
    | (extract_lets +onlyGivenNames x; refine (fun hx => ?_ : (Frame fm b0 x) → _) ?_; (on_goal 2 => unfold x); all_goals clear_value x)
    | (extract_lets +onlyGivenNames x; refine (fun hx => ?_ : (Frame fm b0 x.1) → _) ?_; (on_goal 2 => unfold x); all_goals clear_value x)
    | (extract_lets +onlyGivenNames x; refine (fun hx => ?_ : (tileSafe x = true) → _) ?_; (on_goal 2 => unfold x); all_goals clear_value x)
    | (extract_lets +onlyGivenNames x; refine (fun hx => ?_ : (tileSafe x.1 = true) → _) ?_; (on_goal 2 => unfold x); all_goals clear_value x)
    | (extract_lets +onlyGivenNames x; refine (fun hx => ?_ : (FrameOpt fm b0 x) → _) ?_; (on_goal 2 => unfold x); all_goals clear_value x)
    | (extract_lets +onlyGivenNames x; refine (fun hx => ?_ : (Frame fm b0 x.st) → _) ?_; (on_goal 2 => unfold x); all_goals clear_value x)
    | extract_lets +onlyGivenNames x
    | with_reducible apply dropClocks_frame
    | with_reducible apply dropCommit_frame
    | with_reducible apply stackOff_frame
    | with_reducible apply putStk_frame
    | with_reducible apply resetBlock_frame
    | ((conv in State.mk _ _ _ _ _ _ _ _ _ _ _ _ _ _ _ _ _ _ _ _ _ _ _ _ _ => skip); with_reducible apply Frame.upd)
    | with_reducible exact .inr rfl
    | exact .inl (Part.sub_has _ hfm (by decide))
    | exact .inl ⟨Part.sub_has _ hfm (by decide), fun h => h⟩
    | exact .inl ⟨Part.sub_has _ hfm (by decide), fun h => by simpa only [List.length_set, List.length_map, List.length_zipIdx] using h⟩

theorem assertEffect_frame {fm : List Part} {b0 : State} (s : State) (b : UnitRef)
    (hfr : Frame fm b0 s) (hfm : Part.sub [.regs, .tiles, .dram, .net, .reports, .free, .stk, .vil, .fleet, .log, .pwr, .bnc] fm = true) : Frame fm b0 (assertEffect s b) := by
  unfold assertEffect
  repeat' first
    | with_reducible assumption
    | exact Part.sub_trans (by decide) hfm
    | extract_lets +onlyGivenNames x
    | with_reducible apply assertDie_frame
    | with_reducible apply assertNetworks_frame
    | with_reducible apply assertSextant_frame
    | with_reducible apply assertHelm_frame
    | with_reducible apply assertTile_frame
    | with_reducible apply putStk_frame
    | split

theorem assertBlock_frame {fm : List Part} {b0 : State} (s : State) (r : BlockRst) (late : Bool)
    (hfr : Frame fm b0 s) (hfm : Part.sub [.regs, .tiles, .dram, .net, .reports, .free, .stk, .vil, .fleet, .log, .pwr, .rst, .bnc] fm = true) : Frame fm b0 (assertBlock s r late) := by
  unfold assertBlock
  repeat' first
    | with_reducible assumption
    | exact Part.sub_trans (by decide) hfm
    | (extract_lets +onlyGivenNames x; refine (fun hx => ?_ : (Frame fm b0 x) → _) ?_; (on_goal 2 => unfold x); all_goals clear_value x)
    | extract_lets +onlyGivenNames x
    | with_reducible apply putReset_frame
    | with_reducible apply brstStatus_frame
    | with_reducible apply assertEffect_frame
    | with_reducible apply lastBlock_frame

theorem startBlock_frame {m : List Part} {s0 : State} (s : State) (b : UnitRef) (brst : Bool) (h : Frame m s0 s)
    (hm : Part.sub [.regs, .tiles, .dram, .net, .reports, .free, .stk, .vil, .fleet, .log, .pwr, .rst, .bnc] m = true) : Frame m s0 (startBlock s b brst) := by
  have h1 : Frame m s0 { s with rst := { s.rst with blocks :=
      s.rst.blocks ++ [(⟨b, blockInside s b, false, brst, s.tick⟩ : BlockRst)] } } := by
    apply Frame.upd (t := s) (h := h)
    all_goals first | with_reducible exact .inr rfl | exact .inl (Part.sub_has _ hm (by decide))
  have hg : ∀ t : Tile, tileSafe t = true →
      tileSafe { t with wrapped := true, engs := (t.engs.map fun g => { g with st := 0 }) } = true := fun t ht =>
    tileSafe_upd (h := ht) (.inl rfl) (.inl rfl) (.inl rfl) (.inl rfl)
      (.inr fun g => by simpa only [List.length_map] using g) (.inl rfl) (.inl rfl)
  unfold startBlock
  split
  · exact rset_frame _ _ _ _ h (Part.sub_trans (by decide) hm)
  · dsimp only
    have h2 : Frame m s0 (match blockTile s b with
        | some p => changeSite { s with rst := { s.rst with blocks :=
            s.rst.blocks ++ [(⟨b, blockInside s b, false, brst, s.tick⟩ : BlockRst)] } } b.stack.toNat p.2 fun t =>
            { t with wrapped := true, engs := (t.engs.map fun g => { g with st := 0 }) }
        | none => { s with rst := { s.rst with blocks :=
            s.rst.blocks ++ [(⟨b, blockInside s b, false, brst, s.tick⟩ : BlockRst)] } }) := by
      split
      · exact changeSite_frame _ _ _ _ hg h1 (Part.sub_trans (by decide) hm)
      · exact h1
    split
    · exact brstStatus_frame _ h2 (Part.sub_trans (by decide) hm)
    · exact assertBlock_frame _ _ _ h2 (Part.sub_trans (by decide) hm)

theorem putSequencer_frame {fm : List Part} {b0 : State} (s : State) (k site : Nat) (w : GroupWork)
    (hfr : Frame fm b0 s) (hfm : Part.sub [.stk] fm = true) : Frame fm b0 (putSequencer s k site w) := by
  unfold putSequencer
  repeat' first
    | with_reducible assumption
    | extract_lets +onlyGivenNames x
    | with_reducible apply putStk_frame

theorem dropResults_frame {fm : List Part} {b0 : State} (k site : Nat) (t0 : Tile) (s : State) (b : Bool)
    (hfr : Frame fm b0 s) (hfm : Part.sub [.regs, .stk] fm = true) : Frame fm b0 (dropResults k site t0 s b) := by
  unfold dropResults
  repeat' first
    | with_reducible assumption
    | exact Part.sub_trans (by decide) hfm
    | with_reducible intro _
    | (extract_lets +onlyGivenNames x; refine (fun hx => ?_ : (Frame fm b0 x) → _) ?_; (on_goal 2 => unfold x); all_goals clear_value x)
    | (extract_lets +onlyGivenNames x; refine (fun hx => ?_ : (Frame fm b0 x.1) → _) ?_; (on_goal 2 => unfold x); all_goals clear_value x)
    | (extract_lets +onlyGivenNames x; refine (fun hx => ?_ : (SafeParts b0 → tileSafe x = true) → _) ?_; (on_goal 2 => unfold x); all_goals clear_value x)
    | (extract_lets +onlyGivenNames x; refine (fun hx => ?_ : (SafeParts b0 → tileSafe x.1 = true) → _) ?_; (on_goal 2 => unfold x); all_goals clear_value x)
    | (extract_lets +onlyGivenNames x; refine (fun hx => ?_ : (FrameOpt fm b0 x) → _) ?_; (on_goal 2 => unfold x); all_goals clear_value x)
    | (extract_lets +onlyGivenNames x; refine (fun hx => ?_ : (Frame fm b0 x.st) → _) ?_; (on_goal 2 => unfold x); all_goals clear_value x)
    | extract_lets +onlyGivenNames x
    | with_reducible apply rbump_frame
    | with_reducible apply putSequencer_frame
    | with_reducible apply Frame.ite
    | (with_reducible refine Frame.ofPair ‹_ = (_, _)› ?_)
    | split
    | ((conv in State.mk _ _ _ _ _ _ _ _ _ _ _ _ _ _ _ _ _ _ _ _ _ _ _ _ _ => skip); with_reducible apply Frame.upd)
    | with_reducible exact .inr rfl
    | exact .inl (Part.sub_has _ hfm (by decide))
    | exact .inl ⟨Part.sub_has _ hfm (by decide), fun h => h⟩
    | exact .inl ⟨Part.sub_has _ hfm (by decide), fun h => by simpa only [List.length_set, List.length_map, List.length_zipIdx] using h⟩
    | ((conv in Tile.mk _ _ _ _ _ _ _ _ _ _ _ _ _ _ _ _ _ _ _ _ _ _ _ _ _ _ _ _ _ _ _ _ _ _ _ _ _ _ _ _ => skip); with_reducible apply tileSafe_upd)
    | with_reducible exact .inl rfl
    | (refine SafeParts.tileAt (Frame.safe (m := fm) ?_ ‹SafeParts b0›) _ _)
    | with_reducible exact (‹SafeParts _ → tileSafe _ = true› ‹_›)

theorem discardSight_frame {fm : List Part} {b0 : State} (s : State) (r : TileRef) (t0 : Tile)
    (hfr : Frame fm b0 s) (hfm : Part.sub [.regs, .stk] fm = true) : Frame fm b0 (discardSight s r t0) := by
  unfold discardSight
  repeat' first
    | with_reducible assumption
    | exact Part.sub_trans (by decide) hfm
    | with_reducible intro _
    | with_reducible apply dropResults_frame
    | with_reducible apply Frame.foldl
    | with_reducible apply Frame.foldlFst
    | (with_reducible refine Frame.ofPair ‹_ = (_, _)› ?_)
    | split
    | ((conv in State.mk _ _ _ _ _ _ _ _ _ _ _ _ _ _ _ _ _ _ _ _ _ _ _ _ _ => skip); with_reducible apply Frame.upd)
    | with_reducible exact .inr rfl
    | exact .inl (Part.sub_has _ hfm (by decide))
    | exact .inl ⟨Part.sub_has _ hfm (by decide), fun h => h⟩
    | exact .inl ⟨Part.sub_has _ hfm (by decide), fun h => by simpa only [List.length_set, List.length_map, List.length_zipIdx] using h⟩
    | ((conv in Tile.mk _ _ _ _ _ _ _ _ _ _ _ _ _ _ _ _ _ _ _ _ _ _ _ _ _ _ _ _ _ _ _ _ _ _ _ _ _ _ _ _ => skip); with_reducible apply tileSafe_upd)
    | with_reducible exact .inl rfl

theorem execFetBankw_frame {fm : List Part} {b0 : State} (i : Issue) (s : State)
    (hfr : Frame fm b0 s) (hfm : Part.sub [.cyc, .tick, .tfrac, .regs, .tiles, .net, .reports, .stk, .log] fm = true) : FrameOut fm b0 (execFetBankw i s) := by
  unfold execFetBankw
  repeat' first
    | with_reducible assumption
    | exact Part.sub_trans (by decide) hfm
    | with_reducible intro _
    | with_reducible apply FrameOut.next
    | with_reducible apply discardSight_frame
    | with_reducible apply runIssue_frame
    | with_reducible apply bankwUnit_safe
    | extract_lets +onlyGivenNames x

theorem execStaticIssueSlot_frame {fm : List Part} {b0 : State} (e : Engine) (r : TileRef) (dt : Nat) (w : Dword) (lv : List Level) (s : State)
    (hfr : Frame fm b0 s) (hfm : Part.sub [.cyc, .tick, .tfrac, .regs, .tiles, .net, .reports, .stk, .log] fm = true) : FrameOut fm b0 (execStaticIssueSlot e r dt w lv s) := by
  unfold execStaticIssueSlot
  repeat' first
    | with_reducible assumption
    | exact Part.sub_trans (by decide) hfm
    | with_reducible intro _
    | (extract_lets +onlyGivenNames x; refine (fun hx => ?_ : (Frame fm b0 x) → _) ?_; (on_goal 2 => unfold x); all_goals clear_value x)
    | (extract_lets +onlyGivenNames x; refine (fun hx => ?_ : (Frame fm b0 x.1) → _) ?_; (on_goal 2 => unfold x); all_goals clear_value x)
    | (extract_lets +onlyGivenNames x; refine (fun hx => ?_ : (tileSafe x = true) → _) ?_; (on_goal 2 => unfold x); all_goals clear_value x)
    | (extract_lets +onlyGivenNames x; refine (fun hx => ?_ : (tileSafe x.1 = true) → _) ?_; (on_goal 2 => unfold x); all_goals clear_value x)
    | (extract_lets +onlyGivenNames x; refine (fun hx => ?_ : (FrameOpt fm b0 x) → _) ?_; (on_goal 2 => unfold x); all_goals clear_value x)
    | (extract_lets +onlyGivenNames x; refine (fun hx => ?_ : (Frame fm b0 x.st) → _) ?_; (on_goal 2 => unfold x); all_goals clear_value x)
    | extract_lets +onlyGivenNames x
    | with_reducible apply FrameOut.next
    | with_reducible apply discardSight_frame
    | with_reducible apply runIssue_frame
    | with_reducible apply unitOf_safe
    | split

theorem writeSrst_frame {fm : List Part} {b0 : State} (s : State) (r : TileRef)
    (hfr : Frame fm b0 s) (hfm : Part.sub [.regs, .tiles, .dram, .net, .reports, .free, .stk, .vil, .fleet, .log, .pwr, .rst, .bnc] fm = true) : Frame fm b0 (writeSrst s r) := by
  unfold writeSrst
  repeat' first
    | with_reducible assumption
    | exact Part.sub_trans (by decide) hfm
    | extract_lets +onlyGivenNames x
    | with_reducible apply startBlock_frame
    | with_reducible apply Frame.ite
    | split

theorem execSrst_frame {fm : List Part} {b0 : State} (r : TileRef) (s : State)
    (hfr : Frame fm b0 s) (hfm : Part.sub [.regs, .tiles, .dram, .net, .reports, .free, .stk, .vil, .fleet, .log, .pwr, .rst, .bnc] fm = true) : FrameOut fm b0 (execSrst r s) := by
  unfold execSrst
  repeat' first
    | with_reducible assumption
    | exact Part.sub_trans (by decide) hfm
    | extract_lets +onlyGivenNames x
    | with_reducible apply FrameOut.next
    | with_reducible apply writeSrst_frame

theorem execWatchdog_frame {fm : List Part} {b0 : State} (s : State)
    (hfr : Frame fm b0 s) (hfm : Part.sub [.slot0, .tick, .tfrac, .regs, .tiles, .dram, .net, .reports, .free, .stk, .vil, .fleet, .chr, .serve, .img, .log, .pwr, .rst, .bnc, .snd, .lsr] fm = true) : FrameOut fm b0 (execWatchdog s) := by
  unfold execWatchdog
  repeat' first
    | with_reducible assumption
    | exact Part.sub_trans (by decide) hfm
    | extract_lets +onlyGivenNames x
    | with_reducible apply FrameOut.next
    | with_reducible apply moduleReset_frame
    | with_reducible apply logExtra_frame

theorem fltAll_frame {fm : List Part} {b0 : State} (s : State) (f : Fld) (v : Nat)
    (hfr : Frame fm b0 s) (hfm : Part.sub [.regs] fm = true) : Frame fm b0 (fltAll s f v) := by
  unfold fltAll
  repeat' first
    | with_reducible assumption
    | with_reducible intro _
    | extract_lets +onlyGivenNames x
    | with_reducible apply rput_frame
    | with_reducible apply Frame.foldl

theorem refreshRev_frame {fm : List Part} {b0 : State} (s : State)
    (hfr : Frame fm b0 s) (hfm : Part.sub [.regs] fm = true) : Frame fm b0 (refreshRev s) := by
  unfold refreshRev
  repeat' first
    | with_reducible assumption
    | with_reducible apply rput_frame

theorem dropPacket_frame {fm : List Part} {b0 : State} (s : State) (p : Packet)
    (hfr : Frame fm b0 s) (hfm : Part.sub [.regs, .net] fm = true) : Frame fm b0 (dropPacket s p) := by
  unfold dropPacket
  repeat' first
    | with_reducible assumption
    | extract_lets +onlyGivenNames x
    | with_reducible apply endPacket_frame
    | with_reducible apply Frame.ite

theorem leaveUp_frame {fm : List Part} {b0 : State} (s : State) (p : Nat)
    (hfr : Frame fm b0 s) (hfm : Part.sub [.regs, .net, .fleet] fm = true) : Frame fm b0 (leaveUp s p) := by
  unfold leaveUp
  repeat' first
    | with_reducible assumption
    | exact Part.sub_trans (by decide) hfm
    | with_reducible intro _
    | (extract_lets +onlyGivenNames x; refine (fun hx => ?_ : (Frame fm b0 x) → _) ?_; (on_goal 2 => unfold x); all_goals clear_value x)
    | (extract_lets +onlyGivenNames x; refine (fun hx => ?_ : (Frame fm b0 x.1) → _) ?_; (on_goal 2 => unfold x); all_goals clear_value x)
    | (extract_lets +onlyGivenNames x; refine (fun hx => ?_ : (tileSafe x = true) → _) ?_; (on_goal 2 => unfold x); all_goals clear_value x)
    | (extract_lets +onlyGivenNames x; refine (fun hx => ?_ : (tileSafe x.1 = true) → _) ?_; (on_goal 2 => unfold x); all_goals clear_value x)
    | (extract_lets +onlyGivenNames x; refine (fun hx => ?_ : (FrameOpt fm b0 x) → _) ?_; (on_goal 2 => unfold x); all_goals clear_value x)
    | (extract_lets +onlyGivenNames x; refine (fun hx => ?_ : (Frame fm b0 x.st) → _) ?_; (on_goal 2 => unfold x); all_goals clear_value x)
    | extract_lets +onlyGivenNames x
    | with_reducible apply rbump_frame
    | with_reducible apply putPort_frame
    | with_reducible apply dropPacket_frame
    | with_reducible apply pput_frame
    | with_reducible apply loseNumber_frame
    | with_reducible apply enterHoldover_frame
    | with_reducible apply refreshRev_frame
    | with_reducible apply Frame.foldl
    | with_reducible apply Frame.foldlFst
    | with_reducible apply Frame.ite
    | split
    | ((conv in State.mk _ _ _ _ _ _ _ _ _ _ _ _ _ _ _ _ _ _ _ _ _ _ _ _ _ => skip); with_reducible apply Frame.upd)
    | with_reducible exact .inr rfl
    | exact .inl (Part.sub_has _ hfm (by decide))
    | exact .inl ⟨Part.sub_has _ hfm (by decide), fun h => h⟩
    | exact .inl ⟨Part.sub_has _ hfm (by decide), fun h => by simpa only [List.length_set, List.length_map, List.length_zipIdx] using h⟩

theorem writePortEn_frame {fm : List Part} {b0 : State} (s : State) (p : Nat) (v : Bool)
    (hfr : Frame fm b0 s) (hfm : Part.sub [.regs, .net, .fleet] fm = true) : Frame fm b0 (writePortEn s p v) := by
  unfold writePortEn
  repeat' first
    | with_reducible assumption
    | exact Part.sub_trans (by decide) hfm
    | with_reducible intro _
    | (extract_lets +onlyGivenNames x; refine (fun hx => ?_ : (Frame fm b0 x) → _) ?_; (on_goal 2 => unfold x); all_goals clear_value x)
    | (extract_lets +onlyGivenNames x; refine (fun hx => ?_ : (Frame fm b0 x.1) → _) ?_; (on_goal 2 => unfold x); all_goals clear_value x)
    | (extract_lets +onlyGivenNames x; refine (fun hx => ?_ : (tileSafe x = true) → _) ?_; (on_goal 2 => unfold x); all_goals clear_value x)
    | (extract_lets +onlyGivenNames x; refine (fun hx => ?_ : (tileSafe x.1 = true) → _) ?_; (on_goal 2 => unfold x); all_goals clear_value x)
    | (extract_lets +onlyGivenNames x; refine (fun hx => ?_ : (FrameOpt fm b0 x) → _) ?_; (on_goal 2 => unfold x); all_goals clear_value x)
    | (extract_lets +onlyGivenNames x; refine (fun hx => ?_ : (Frame fm b0 x.st) → _) ?_; (on_goal 2 => unfold x); all_goals clear_value x)
    | extract_lets +onlyGivenNames x
    | with_reducible apply pput_frame
    | with_reducible apply leaveUp_frame
    | with_reducible apply putPort_frame
    | with_reducible apply Frame.ite
    | split
    | ((conv in State.mk _ _ _ _ _ _ _ _ _ _ _ _ _ _ _ _ _ _ _ _ _ _ _ _ _ => skip); with_reducible apply Frame.upd)
    | with_reducible exact .inr rfl
    | exact .inl (Part.sub_has _ hfm (by decide))
    | exact .inl ⟨Part.sub_has _ hfm (by decide), fun h => h⟩
    | exact .inl ⟨Part.sub_has _ hfm (by decide), fun h => by simpa only [List.length_set, List.length_map, List.length_zipIdx] using h⟩

theorem lockPort_frame {fm : List Part} {b0 : State} (s : State) (p state_ cause : Nat)
    (hfr : Frame fm b0 s) (hfm : Part.sub [.regs, .fleet, .log] fm = true) : Frame fm b0 (lockPort s p state_ cause) := by
  unfold lockPort
  repeat' first
    | with_reducible assumption
    | exact Part.sub_trans (by decide) hfm
    | (extract_lets +onlyGivenNames x; refine (fun hx => ?_ : (Frame fm b0 x) → _) ?_; (on_goal 2 => unfold x); all_goals clear_value x)
    | extract_lets +onlyGivenNames x
    | with_reducible apply putPort_frame
    | with_reducible apply logExtra_frame
    | with_reducible apply pput_frame

theorem laneEvent_frame {fm : List Part} {b0 : State} (s : State) (p lane : Nat) (repeated : Bool)
    (hfr : Frame fm b0 s) (hfm : Part.sub [.regs, .net, .fleet, .log] fm = true) : Frame fm b0 (laneEvent s p lane repeated) := by
  unfold laneEvent
  repeat' first
    | with_reducible assumption
    | exact Part.sub_trans (by decide) hfm
    | (extract_lets +onlyGivenNames x; refine (fun hx => ?_ : (Frame fm b0 x.1) → _) ?_; (on_goal 2 => unfold x); all_goals clear_value x)
    | extract_lets +onlyGivenNames x
    | with_reducible apply writePortEn_frame
    | with_reducible apply logCount_frame
    | with_reducible apply Frame.ite

theorem laneEvents_frame {fm : List Part} {b0 : State} (s : State) (p : Nat) (mask : BitVec 8) (repeated : Bool)
    (hfr : Frame fm b0 s) (hfm : Part.sub [.regs, .net, .fleet, .log] fm = true) : Frame fm b0 (laneEvents s p mask repeated) := by
  unfold laneEvents
  repeat' first
    | with_reducible assumption
    | with_reducible intro _
    | extract_lets +onlyGivenNames x
    | with_reducible apply laneEvent_frame
    | with_reducible apply Frame.foldl
    | with_reducible apply Frame.ite

theorem retrainPort_frame {fm : List Part} {b0 : State} (s : State) (p : Nat)
    (hfr : Frame fm b0 s) (hfm : Part.sub [.regs, .net, .fleet] fm = true) : Frame fm b0 (retrainPort s p) := by
  unfold retrainPort
  repeat' first
    | with_reducible assumption
    | exact Part.sub_trans (by decide) hfm
    | with_reducible intro _
    | (extract_lets +onlyGivenNames x; refine (fun hx => ?_ : (Frame fm b0 x) → _) ?_; (on_goal 2 => unfold x); all_goals clear_value x)
    | (extract_lets +onlyGivenNames x; refine (fun hx => ?_ : (Frame fm b0 x.1) → _) ?_; (on_goal 2 => unfold x); all_goals clear_value x)
    | (extract_lets +onlyGivenNames x; refine (fun hx => ?_ : (tileSafe x = true) → _) ?_; (on_goal 2 => unfold x); all_goals clear_value x)
    | (extract_lets +onlyGivenNames x; refine (fun hx => ?_ : (tileSafe x.1 = true) → _) ?_; (on_goal 2 => unfold x); all_goals clear_value x)
    | (extract_lets +onlyGivenNames x; refine (fun hx => ?_ : (FrameOpt fm b0 x) → _) ?_; (on_goal 2 => unfold x); all_goals clear_value x)
    | (extract_lets +onlyGivenNames x; refine (fun hx => ?_ : (Frame fm b0 x.st) → _) ?_; (on_goal 2 => unfold x); all_goals clear_value x)
    | extract_lets +onlyGivenNames x
    | with_reducible apply rbump_frame
    | with_reducible apply leaveUp_frame
    | with_reducible apply pput_frame
    | with_reducible apply putPort_frame
    | with_reducible apply Frame.ite
    | split
    | ((conv in State.mk _ _ _ _ _ _ _ _ _ _ _ _ _ _ _ _ _ _ _ _ _ _ _ _ _ => skip); with_reducible apply Frame.upd)
    | with_reducible exact .inr rfl
    | exact .inl (Part.sub_has _ hfm (by decide))
    | exact .inl ⟨Part.sub_has _ hfm (by decide), fun h => h⟩
    | exact .inl ⟨Part.sub_has _ hfm (by decide), fun h => by simpa only [List.length_set, List.length_map, List.length_zipIdx] using h⟩

theorem fillNeighbours_frame {fm : List Part} {b0 : State} (s : State)
    (hfr : Frame fm b0 s) (hfm : Part.sub [.regs] fm = true) : Frame fm b0 (fillNeighbours s) := by
  unfold fillNeighbours
  repeat' first
    | with_reducible assumption
    | with_reducible intro _
    | extract_lets +onlyGivenNames x
    | with_reducible apply pput_frame
    | with_reducible apply Frame.foldl
    | split

theorem takeAck_frame {fm : List Part} {b0 : State} (s : State) (p : Nat) (t : Dword)
    (hfr : Frame fm b0 s) (hfm : Part.sub [.regs, .fleet] fm = true) : Frame fm b0 (takeAck s p t) := by
  unfold takeAck
  repeat' first
    | with_reducible assumption
    | exact Part.sub_trans (by decide) hfm
    | with_reducible intro _
    | (extract_lets +onlyGivenNames x; refine (fun hx => ?_ : (Frame fm b0 x) → _) ?_; (on_goal 2 => unfold x); all_goals clear_value x)
    | (extract_lets +onlyGivenNames x; refine (fun hx => ?_ : (Frame fm b0 x.1) → _) ?_; (on_goal 2 => unfold x); all_goals clear_value x)
    | (extract_lets +onlyGivenNames x; refine (fun hx => ?_ : (tileSafe x = true) → _) ?_; (on_goal 2 => unfold x); all_goals clear_value x)
    | (extract_lets +onlyGivenNames x; refine (fun hx => ?_ : (tileSafe x.1 = true) → _) ?_; (on_goal 2 => unfold x); all_goals clear_value x)
    | (extract_lets +onlyGivenNames x; refine (fun hx => ?_ : (FrameOpt fm b0 x) → _) ?_; (on_goal 2 => unfold x); all_goals clear_value x)
    | (extract_lets +onlyGivenNames x; refine (fun hx => ?_ : (Frame fm b0 x.st) → _) ?_; (on_goal 2 => unfold x); all_goals clear_value x)
    | extract_lets +onlyGivenNames x
    | with_reducible apply rbump_frame
    | with_reducible apply putPort_frame
    | with_reducible apply Frame.ite
    | split
    | ((conv in State.mk _ _ _ _ _ _ _ _ _ _ _ _ _ _ _ _ _ _ _ _ _ _ _ _ _ => skip); with_reducible apply Frame.upd)
    | with_reducible exact .inr rfl
    | exact .inl (Part.sub_has _ hfm (by decide))
    | exact .inl ⟨Part.sub_has _ hfm (by decide), fun h => h⟩
    | exact .inl ⟨Part.sub_has _ hfm (by decide), fun h => by simpa only [List.length_set, List.length_map, List.length_zipIdx] using h⟩

theorem enterPacket_frame {fm : List Part} {b0 : State} (s : State) (p : Nat) (q : Packet)
    (hfr : Frame fm b0 s) (hfm : Part.sub [.regs, .net, .fleet] fm = true) : Frame fm b0 (enterPacket s p q) := by
  unfold enterPacket
  repeat' first
    | with_reducible assumption
    | exact Part.sub_trans (by decide) hfm
    | with_reducible intro _
    | with_reducible apply routeOut_frame
    | with_reducible apply sendPacket_frame
    | with_reducible apply Frame.ite
    | split
    | ((conv in State.mk _ _ _ _ _ _ _ _ _ _ _ _ _ _ _ _ _ _ _ _ _ _ _ _ _ => skip); with_reducible apply Frame.upd)
    | with_reducible exact .inr rfl
    | exact .inl (Part.sub_has _ hfm (by decide))
    | exact .inl ⟨Part.sub_has _ hfm (by decide), fun h => h⟩
    | exact .inl ⟨Part.sub_has _ hfm (by decide), fun h => by simpa only [List.length_set, List.length_map, List.length_zipIdx] using h⟩

theorem acceptFlit_frame {fm : List Part} {b0 : State} (s : State) (p : Nat) (flit : List Byte)
    (hfr : Frame fm b0 s) (hfm : Part.sub [.regs, .net, .fleet] fm = true) : Frame fm b0 (acceptFlit s p flit) := by
  unfold acceptFlit
  repeat' first
    | with_reducible assumption
    | exact Part.sub_trans (by decide) hfm
    | with_reducible intro _
    | (extract_lets +onlyGivenNames x; refine (fun hx => ?_ : (Frame fm b0 x) → _) ?_; (on_goal 2 => unfold x); all_goals clear_value x)
    | (extract_lets +onlyGivenNames x; refine (fun hx => ?_ : (Frame fm b0 x.1) → _) ?_; (on_goal 2 => unfold x); all_goals clear_value x)
    | (extract_lets +onlyGivenNames x; refine (fun hx => ?_ : (tileSafe x = true) → _) ?_; (on_goal 2 => unfold x); all_goals clear_value x)
    | (extract_lets +onlyGivenNames x; refine (fun hx => ?_ : (tileSafe x.1 = true) → _) ?_; (on_goal 2 => unfold x); all_goals clear_value x)
    | (extract_lets +onlyGivenNames x; refine (fun hx => ?_ : (FrameOpt fm b0 x) → _) ?_; (on_goal 2 => unfold x); all_goals clear_value x)
    | (extract_lets +onlyGivenNames x; refine (fun hx => ?_ : (Frame fm b0 x.st) → _) ?_; (on_goal 2 => unfold x); all_goals clear_value x)
    | extract_lets +onlyGivenNames x
    | with_reducible apply putPort_frame
    | with_reducible apply enterPacket_frame
    | with_reducible apply Frame.ite
    | (with_reducible refine Frame.ofPair ‹_ = (_, _)› ?_)
    | split
    | ((conv in State.mk _ _ _ _ _ _ _ _ _ _ _ _ _ _ _ _ _ _ _ _ _ _ _ _ _ => skip); with_reducible apply Frame.upd)
    | with_reducible exact .inr rfl
    | exact .inl (Part.sub_has _ hfm (by decide))
    | exact .inl ⟨Part.sub_has _ hfm (by decide), fun h => h⟩
    | exact .inl ⟨Part.sub_has _ hfm (by decide), fun h => by simpa only [List.length_set, List.length_map, List.length_zipIdx] using h⟩

theorem receiveFrame_frame {fm : List Part} {b0 : State} (s : State) (p : Nat) (f : Sys2Proof.Frame)
    (hfr : Frame fm b0 s) (hfm : Part.sub [.regs, .net, .fleet, .log] fm = true) : Frame fm b0 (receiveFrame s p f) := by
  unfold receiveFrame
  repeat' first
    | with_reducible assumption
    | exact Part.sub_trans (by decide) hfm
    | with_reducible intro _
    | (extract_lets +onlyGivenNames x; refine (fun hx => ?_ : (Frame fm b0 x) → _) ?_; (on_goal 2 => unfold x); all_goals clear_value x)
    | (extract_lets +onlyGivenNames x; refine (fun hx => ?_ : (Frame fm b0 x.1) → _) ?_; (on_goal 2 => unfold x); all_goals clear_value x)
    | (extract_lets +onlyGivenNames x; refine (fun hx => ?_ : (tileSafe x = true) → _) ?_; (on_goal 2 => unfold x); all_goals clear_value x)
    | (extract_lets +onlyGivenNames x; refine (fun hx => ?_ : (tileSafe x.1 = true) → _) ?_; (on_goal 2 => unfold x); all_goals clear_value x)
    | (extract_lets +onlyGivenNames x; refine (fun hx => ?_ : (FrameOpt fm b0 x) → _) ?_; (on_goal 2 => unfold x); all_goals clear_value x)
    | (extract_lets +onlyGivenNames x; refine (fun hx => ?_ : (Frame fm b0 x.st) → _) ?_; (on_goal 2 => unfold x); all_goals clear_value x)
    | extract_lets +onlyGivenNames x
    | with_reducible apply laneEvents_frame
    | with_reducible apply putPort_frame
    | with_reducible apply takeAck_frame
    | with_reducible apply acceptFlit_frame
    | with_reducible apply Frame.ite
    | split
    | ((conv in State.mk _ _ _ _ _ _ _ _ _ _ _ _ _ _ _ _ _ _ _ _ _ _ _ _ _ => skip); with_reducible apply Frame.upd)
    | with_reducible exact .inr rfl
    | exact .inl (Part.sub_has _ hfm (by decide))
    | exact .inl ⟨Part.sub_has _ hfm (by decide), fun h => h⟩
    | exact .inl ⟨Part.sub_has _ hfm (by decide), fun h => by simpa only [List.length_set, List.length_map, List.length_zipIdx] using h⟩

theorem floodHail_frame {fm : List Part} {b0 : State} (s : State) (r : HailRec) (but : Option Nat)
    (hfr : Frame fm b0 s) (hfm : Part.sub [.fleet] fm = true) : Frame fm b0 (floodHail s r but) := by
  unfold floodHail
  repeat' first
    | with_reducible assumption
    | extract_lets +onlyGivenNames x
    | ((conv in State.mk _ _ _ _ _ _ _ _ _ _ _ _ _ _ _ _ _ _ _ _ _ _ _ _ _ => skip); with_reducible apply Frame.upd)
    | with_reducible exact .inr rfl
    | exact .inl ⟨Part.sub_has _ hfm (by decide), fun h => h⟩

theorem hailAgain_frame {fm : List Part} {b0 : State} (s : State)
    (hfr : Frame fm b0 s) (hfm : Part.sub [.fleet] fm = true) : Frame fm b0 (hailAgain s) := by
  unfold hailAgain
  repeat' first
    | with_reducible assumption
    | extract_lets +onlyGivenNames x
    | with_reducible apply floodHail_frame
    | ((conv in State.mk _ _ _ _ _ _ _ _ _ _ _ _ _ _ _ _ _ _ _ _ _ _ _ _ _ => skip); with_reducible apply Frame.upd)
    | with_reducible exact .inr rfl
    | exact .inl ⟨Part.sub_has _ hfm (by decide), fun h => h⟩

theorem failDiscovery_frame {fm : List Part} {b0 : State} (s : State)
    (hfr : Frame fm b0 s) (hfm : Part.sub [.regs] fm = true) : Frame fm b0 (failDiscovery s) := by
  unfold failDiscovery
  repeat' first
    | with_reducible assumption
    | with_reducible apply fltAll_frame

theorem trainOrHail_frame {fm : List Part} {b0 : State} (s : State) (training : Bool)
    (hfr : Frame fm b0 s) (hfm : Part.sub [.regs, .fleet] fm = true) : Frame fm b0 (trainOrHail s training) := by
  unfold trainOrHail
  repeat' first
    | with_reducible assumption
    | exact Part.sub_trans (by decide) hfm
    | with_reducible intro _
    | with_reducible apply fltAll_frame
    | with_reducible apply hailAgain_frame
    | with_reducible apply Frame.ite
    | split
    | ((conv in State.mk _ _ _ _ _ _ _ _ _ _ _ _ _ _ _ _ _ _ _ _ _ _ _ _ _ => skip); with_reducible apply Frame.upd)
    | with_reducible exact .inr rfl
    | exact .inl (Part.sub_has _ hfm (by decide))
    | exact .inl ⟨Part.sub_has _ hfm (by decide), fun h => h⟩
    | exact .inl ⟨Part.sub_has _ hfm (by decide), fun h => by simpa only [List.length_set, List.length_map, List.length_zipIdx] using h⟩

theorem advanceRound_frame {m : List Part} {s0 : State} (s : State) (r : Nat) (h : Frame m s0 s)
    (hm : Part.sub [.regs, .fleet] m = true) : Frame m s0 (advanceRound s r) := by
  have hr := Part.sub_has .regs hm (by decide)
  have hf := Part.sub_has .fleet hm (by decide)
  have h1 : Frame m s0 (fltAll (fltAll s FLT_STATUS_ROUND r) FLT_STATUS_PILOT 0) :=
    fltAll_frame _ _ _ (fltAll_frame _ _ _ h (Part.sub_trans (by decide) hm)) (Part.sub_trans (by decide) hm)
  unfold advanceRound
  generalize fltAll (fltAll s FLT_STATUS_ROUND r) FLT_STATUS_PILOT 0 = s1 at h1
  have h2 : Frame m s0 { s1 with fleet := { s1.fleet with advances := s1.fleet.advances + 1 } } := by
    apply Frame.upd (t := s1) (h := h1)
    case h_fleet => exact .inl ⟨hf, fun g => g⟩
    all_goals first | with_reducible exact .inr rfl | exact .inl (Part.sub_has _ hm (by decide))
  dsimp only
  exact Frame.ite (failDiscovery_frame _ h2 (Part.sub_trans (by decide) hm))
    (trainOrHail_frame _ _ h2 (Part.sub_trans (by decide) hm))

theorem beginDiscovery_frame {fm : List Part} {b0 : State} (s : State) (r : Nat) (training : Bool)
    (hfr : Frame fm b0 s) (hfm : Part.sub [.regs, .fleet] fm = true) : Frame fm b0 (beginDiscovery s r training) := by
  unfold beginDiscovery
  repeat' first
    | with_reducible assumption
    | exact Part.sub_trans (by decide) hfm
    | with_reducible intro _
    | (extract_lets +onlyGivenNames x; refine (fun hx => ?_ : (Frame fm b0 x) → _) ?_; (on_goal 2 => unfold x); all_goals clear_value x)
    | (extract_lets +onlyGivenNames x; refine (fun hx => ?_ : (Frame fm b0 x.1) → _) ?_; (on_goal 2 => unfold x); all_goals clear_value x)
    | (extract_lets +onlyGivenNames x; refine (fun hx => ?_ : (tileSafe x = true) → _) ?_; (on_goal 2 => unfold x); all_goals clear_value x)
    | (extract_lets +onlyGivenNames x; refine (fun hx => ?_ : (tileSafe x.1 = true) → _) ?_; (on_goal 2 => unfold x); all_goals clear_value x)
    | (extract_lets +onlyGivenNames x; refine (fun hx => ?_ : (FrameOpt fm b0 x) → _) ?_; (on_goal 2 => unfold x); all_goals clear_value x)
    | (extract_lets +onlyGivenNames x; refine (fun hx => ?_ : (Frame fm b0 x.st) → _) ?_; (on_goal 2 => unfold x); all_goals clear_value x)
    | extract_lets +onlyGivenNames x
    | with_reducible apply rput_frame
    | with_reducible apply fltAll_frame
    | with_reducible apply trainOrHail_frame
    | with_reducible apply Frame.ite
    | (with_reducible refine Frame.ofPair ‹_ = (_, _)› ?_)
    | split
    | ((conv in State.mk _ _ _ _ _ _ _ _ _ _ _ _ _ _ _ _ _ _ _ _ _ _ _ _ _ => skip); with_reducible apply Frame.upd)
    | with_reducible exact .inr rfl
    | exact .inl (Part.sub_has _ hfm (by decide))
    | exact .inl ⟨Part.sub_has _ hfm (by decide), fun h => h⟩
    | exact .inl ⟨Part.sub_has _ hfm (by decide), fun h => by simpa only [List.length_set, List.length_map, List.length_zipIdx] using h⟩

theorem startDiscovery_frame {fm : List Part} {b0 : State} (s : State) (training : Bool)
    (hfr : Frame fm b0 s) (hfm : Part.sub [.regs, .fleet] fm = true) : Frame fm b0 (startDiscovery s training) := by
  unfold startDiscovery
  repeat' first
    | with_reducible assumption
    | exact Part.sub_trans (by decide) hfm
    | with_reducible intro _
    | with_reducible apply beginDiscovery_frame
    | with_reducible apply Frame.ite
    | split

theorem storeHail_frame {fm : List Part} {b0 : State} (s : State) (p : Nat) (r : HailRec)
    (hfr : Frame fm b0 s) (hfm : Part.sub [.regs, .fleet] fm = true) : Frame fm b0 (storeHail s p r) := by
  unfold storeHail
  repeat' first
    | with_reducible assumption
    | exact Part.sub_trans (by decide) hfm
    | extract_lets +onlyGivenNames x
    | with_reducible apply failDiscovery_frame
    | with_reducible apply floodHail_frame
    | with_reducible apply Frame.ite
    | ((conv in State.mk _ _ _ _ _ _ _ _ _ _ _ _ _ _ _ _ _ _ _ _ _ _ _ _ _ => skip); with_reducible apply Frame.upd)
    | with_reducible exact .inr rfl
    | exact .inl ⟨Part.sub_has _ hfm (by decide), fun h => h⟩

theorem takeHail_frame {fm : List Part} {b0 : State} (s : State) (p : Nat) (r : HailRec)
    (hfr : Frame fm b0 s) (hfm : Part.sub [.regs, .fleet] fm = true) : Frame fm b0 (takeHail s p r) := by
  unfold takeHail
  repeat' first
    | with_reducible assumption
    | exact Part.sub_trans (by decide) hfm
    | with_reducible intro _
    | (extract_lets +onlyGivenNames x; refine (fun hx => ?_ : (Frame fm b0 x) → _) ?_; (on_goal 2 => unfold x); all_goals clear_value x)
    | (extract_lets +onlyGivenNames x; refine (fun hx => ?_ : (Frame fm b0 x.1) → _) ?_; (on_goal 2 => unfold x); all_goals clear_value x)
    | (extract_lets +onlyGivenNames x; refine (fun hx => ?_ : (tileSafe x = true) → _) ?_; (on_goal 2 => unfold x); all_goals clear_value x)
    | (extract_lets +onlyGivenNames x; refine (fun hx => ?_ : (tileSafe x.1 = true) → _) ?_; (on_goal 2 => unfold x); all_goals clear_value x)
    | (extract_lets +onlyGivenNames x; refine (fun hx => ?_ : (FrameOpt fm b0 x) → _) ?_; (on_goal 2 => unfold x); all_goals clear_value x)
    | (extract_lets +onlyGivenNames x; refine (fun hx => ?_ : (Frame fm b0 x.st) → _) ?_; (on_goal 2 => unfold x); all_goals clear_value x)
    | extract_lets +onlyGivenNames x
    | with_reducible apply advanceRound_frame
    | with_reducible apply beginDiscovery_frame
    | with_reducible apply storeHail_frame
    | with_reducible apply Frame.ite
    | split

theorem placeInTree_frame {fm : List Part} {b0 : State} (s : State)
    (hfr : Frame fm b0 s) (hfm : Part.sub [.regs, .chr] fm = true) : Frame fm b0 (placeInTree s) := by
  unfold placeInTree
  repeat' first
    | with_reducible assumption
    | exact Part.sub_trans (by decide) hfm
    | (extract_lets +onlyGivenNames x; refine (fun hx => ?_ : (Frame fm b0 x) → _) ?_; (on_goal 2 => unfold x); all_goals clear_value x)
    | extract_lets +onlyGivenNames x
    | with_reducible apply rput_frame
    | ((conv in State.mk _ _ _ _ _ _ _ _ _ _ _ _ _ _ _ _ _ _ _ _ _ _ _ _ _ => skip); with_reducible apply Frame.upd)
    | with_reducible exact .inr rfl
    | exact .inl (Part.sub_has _ hfm (by decide))

theorem writeTopology_frame {fm : List Part} {b0 : State} (s : State)
    (hfr : Frame fm b0 s) (hfm : Part.sub [.regs, .vil, .serve] fm = true) : Frame fm b0 (writeTopology s) := by
  unfold writeTopology
  repeat' first
    | with_reducible assumption
    | with_reducible intro _
    | extract_lets +onlyGivenNames x
    | with_reducible apply helmWrite_frame
    | with_reducible apply Frame.foldl
    | with_reducible apply Frame.ite
    | split

theorem acceptNumbers_frame {fm : List Part} {b0 : State} (s : State) (r : NumbersRec)
    (hfr : Frame fm b0 s) (hfm : Part.sub [.regs, .vil, .fleet, .chr, .serve] fm = true) : Frame fm b0 (acceptNumbers s r) := by
  unfold acceptNumbers
  repeat' first
    | with_reducible assumption
    | exact Part.sub_trans (by decide) hfm
    | with_reducible intro _
    | (extract_lets +onlyGivenNames x; refine (fun hx => ?_ : (Frame fm b0 x) → _) ?_; (on_goal 2 => unfold x); all_goals clear_value x)
    | (extract_lets +onlyGivenNames x; refine (fun hx => ?_ : (Frame fm b0 x.1) → _) ?_; (on_goal 2 => unfold x); all_goals clear_value x)
    | (extract_lets +onlyGivenNames x; refine (fun hx => ?_ : (tileSafe x = true) → _) ?_; (on_goal 2 => unfold x); all_goals clear_value x)
    | (extract_lets +onlyGivenNames x; refine (fun hx => ?_ : (tileSafe x.1 = true) → _) ?_; (on_goal 2 => unfold x); all_goals clear_value x)
    | (extract_lets +onlyGivenNames x; refine (fun hx => ?_ : (FrameOpt fm b0 x) → _) ?_; (on_goal 2 => unfold x); all_goals clear_value x)
    | (extract_lets +onlyGivenNames x; refine (fun hx => ?_ : (Frame fm b0 x.st) → _) ?_; (on_goal 2 => unfold x); all_goals clear_value x)
    | extract_lets +onlyGivenNames x
    | with_reducible apply rput_frame
    | with_reducible apply placeInTree_frame
    | with_reducible apply fltAll_frame
    | with_reducible apply writeTopology_frame
    | with_reducible apply fillNeighbours_frame
    | with_reducible apply rset_frame
    | with_reducible apply Frame.ite
    | split
    | ((conv in State.mk _ _ _ _ _ _ _ _ _ _ _ _ _ _ _ _ _ _ _ _ _ _ _ _ _ => skip); with_reducible apply Frame.upd)
    | with_reducible exact .inr rfl
    | exact .inl (Part.sub_has _ hfm (by decide))
    | exact .inl ⟨Part.sub_has _ hfm (by decide), fun h => h⟩
    | exact .inl ⟨Part.sub_has _ hfm (by decide), fun h => by simpa only [List.length_set, List.length_map, List.length_zipIdx] using h⟩

theorem floodNumbers_frame {fm : List Part} {b0 : State} (s : State) (r : NumbersRec) (but : Option Nat)
    (hfr : Frame fm b0 s) (hfm : Part.sub [.fleet] fm = true) : Frame fm b0 (floodNumbers s r but) := by
  unfold floodNumbers
  repeat' first
    | with_reducible assumption
    | extract_lets +onlyGivenNames x
    | ((conv in State.mk _ _ _ _ _ _ _ _ _ _ _ _ _ _ _ _ _ _ _ _ _ _ _ _ _ => skip); with_reducible apply Frame.upd)
    | with_reducible exact .inr rfl
    | exact .inl ⟨Part.sub_has _ hfm (by decide), fun h => h⟩

theorem takeNumbers_frame {fm : List Part} {b0 : State} (s : State) (p : Nat) (r : NumbersRec)
    (hfr : Frame fm b0 s) (hfm : Part.sub [.regs, .vil, .fleet, .chr, .serve] fm = true) : Frame fm b0 (takeNumbers s p r) := by
  unfold takeNumbers
  repeat' first
    | with_reducible assumption
    | exact Part.sub_trans (by decide) hfm
    | with_reducible intro _
    | (extract_lets +onlyGivenNames x; refine (fun hx => ?_ : (Frame fm b0 x) → _) ?_; (on_goal 2 => unfold x); all_goals clear_value x)
    | (extract_lets +onlyGivenNames x; refine (fun hx => ?_ : (Frame fm b0 x.1) → _) ?_; (on_goal 2 => unfold x); all_goals clear_value x)
    | (extract_lets +onlyGivenNames x; refine (fun hx => ?_ : (tileSafe x = true) → _) ?_; (on_goal 2 => unfold x); all_goals clear_value x)
    | (extract_lets +onlyGivenNames x; refine (fun hx => ?_ : (tileSafe x.1 = true) → _) ?_; (on_goal 2 => unfold x); all_goals clear_value x)
    | (extract_lets +onlyGivenNames x; refine (fun hx => ?_ : (FrameOpt fm b0 x) → _) ?_; (on_goal 2 => unfold x); all_goals clear_value x)
    | (extract_lets +onlyGivenNames x; refine (fun hx => ?_ : (Frame fm b0 x.st) → _) ?_; (on_goal 2 => unfold x); all_goals clear_value x)
    | extract_lets +onlyGivenNames x
    | with_reducible apply advanceRound_frame
    | with_reducible apply floodNumbers_frame
    | with_reducible apply acceptNumbers_frame
    | with_reducible apply Frame.ite
    | split

theorem settleView_frame {fm : List Part} {b0 : State} (s : State)
    (hfr : Frame fm b0 s) (hfm : Part.sub [.regs, .vil, .fleet, .chr, .serve] fm = true) : Frame fm b0 (settleView s) := by
  unfold settleView
  repeat' first
    | with_reducible assumption
    | exact Part.sub_trans (by decide) hfm
    | extract_lets +onlyGivenNames x
    | with_reducible apply floodNumbers_frame
    | with_reducible apply acceptNumbers_frame
    | with_reducible apply fltAll_frame
    | with_reducible apply Frame.ite
    | split

theorem endTraining_frame {fm : List Part} {b0 : State} (s : State)
    (hfr : Frame fm b0 s) (hfm : Part.sub [.regs, .fleet] fm = true) : Frame fm b0 (endTraining s) := by
  unfold endTraining
  repeat' first
    | with_reducible assumption
    | exact Part.sub_trans (by decide) hfm
    | with_reducible intro _
    | (extract_lets +onlyGivenNames x; refine (fun hx => ?_ : (Frame fm b0 x) → _) ?_; (on_goal 2 => unfold x); all_goals clear_value x)
    | (extract_lets +onlyGivenNames x; refine (fun hx => ?_ : (Frame fm b0 x.1) → _) ?_; (on_goal 2 => unfold x); all_goals clear_value x)
    | (extract_lets +onlyGivenNames x; refine (fun hx => ?_ : (tileSafe x = true) → _) ?_; (on_goal 2 => unfold x); all_goals clear_value x)
    | (extract_lets +onlyGivenNames x; refine (fun hx => ?_ : (tileSafe x.1 = true) → _) ?_; (on_goal 2 => unfold x); all_goals clear_value x)
    | (extract_lets +onlyGivenNames x; refine (fun hx => ?_ : (FrameOpt fm b0 x) → _) ?_; (on_goal 2 => unfold x); all_goals clear_value x)
    | (extract_lets +onlyGivenNames x; refine (fun hx => ?_ : (Frame fm b0 x.st) → _) ?_; (on_goal 2 => unfold x); all_goals clear_value x)
    | extract_lets +onlyGivenNames x
    | with_reducible apply fltAll_frame
    | with_reducible apply floodHail_frame
    | with_reducible apply Frame.ite
    | split
    | ((conv in State.mk _ _ _ _ _ _ _ _ _ _ _ _ _ _ _ _ _ _ _ _ _ _ _ _ _ => skip); with_reducible apply Frame.upd)
    | with_reducible exact .inr rfl
    | exact .inl (Part.sub_has _ hfm (by decide))
    | exact .inl ⟨Part.sub_has _ hfm (by decide), fun h => h⟩
    | exact .inl ⟨Part.sub_has _ hfm (by decide), fun h => by simpa only [List.length_set, List.length_map, List.length_zipIdx] using h⟩

theorem execPortEn_frame {fm : List Part} {b0 : State} (p : BitVec 4) (v : Bool) (s : State)
    (hfr : Frame fm b0 s) (hfm : Part.sub [.regs, .net, .fleet] fm = true) : FrameOut fm b0 (execPortEn p v s) := by
  unfold execPortEn
  repeat' first
    | with_reducible assumption
    | exact Part.sub_trans (by decide) hfm
    | with_reducible intro _
    | with_reducible apply FrameOut.next
    | with_reducible apply endTraining_frame
    | with_reducible apply writePortEn_frame
    | with_reducible apply Frame.ite
    | split
    | extract_lets +onlyGivenNames x

theorem execReceiverDetect_frame {fm : List Part} {b0 : State} (p : BitVec 4) (s : State)
    (hfr : Frame fm b0 s) (hfm : Part.sub [.regs] fm = true) : FrameOut fm b0 (execReceiverDetect p s) := by
  unfold execReceiverDetect
  repeat' first
    | with_reducible assumption
    | extract_lets +onlyGivenNames x
    | with_reducible apply FrameOut.next
    | with_reducible apply pput_frame
    | with_reducible apply Frame.ite

theorem execEqualisationDone_frame {fm : List Part} {b0 : State} (p : BitVec 4) (s : State)
    (hfr : Frame fm b0 s) (hfm : Part.sub [.regs, .fleet] fm = true) : FrameOut fm b0 (execEqualisationDone p s) := by
  unfold execEqualisationDone
  repeat' first
    | with_reducible assumption
    | exact Part.sub_trans (by decide) hfm
    | extract_lets +onlyGivenNames x
    | with_reducible apply FrameOut.next
    | with_reducible apply putPort_frame
    | with_reducible apply pput_frame
    | with_reducible apply Frame.ite

theorem execFecLock_frame {fm : List Part} {b0 : State} (p : BitVec 4) (s : State)
    (hfr : Frame fm b0 s) (hfm : Part.sub [.regs, .fleet] fm = true) : FrameOut fm b0 (execFecLock p s) := by
  unfold execFecLock
  repeat' first
    | with_reducible assumption
    | exact Part.sub_trans (by decide) hfm
    | with_reducible intro _
    | (extract_lets +onlyGivenNames x; refine (fun hx => ?_ : (Frame fm b0 x) → _) ?_; (on_goal 2 => unfold x); all_goals clear_value x)
    | (extract_lets +onlyGivenNames x; refine (fun hx => ?_ : (Frame fm b0 x.1) → _) ?_; (on_goal 2 => unfold x); all_goals clear_value x)
    | (extract_lets +onlyGivenNames x; refine (fun hx => ?_ : (tileSafe x = true) → _) ?_; (on_goal 2 => unfold x); all_goals clear_value x)
    | (extract_lets +onlyGivenNames x; refine (fun hx => ?_ : (tileSafe x.1 = true) → _) ?_; (on_goal 2 => unfold x); all_goals clear_value x)
    | (extract_lets +onlyGivenNames x; refine (fun hx => ?_ : (FrameOpt fm b0 x) → _) ?_; (on_goal 2 => unfold x); all_goals clear_value x)
    | (extract_lets +onlyGivenNames x; refine (fun hx => ?_ : (Frame fm b0 x.st) → _) ?_; (on_goal 2 => unfold x); all_goals clear_value x)
    | extract_lets +onlyGivenNames x
    | with_reducible apply FrameOut.next
    | with_reducible apply pput_frame
    | with_reducible apply putPort_frame
    | with_reducible apply Frame.ite
    | split
    | ((conv in State.mk _ _ _ _ _ _ _ _ _ _ _ _ _ _ _ _ _ _ _ _ _ _ _ _ _ => skip); with_reducible apply Frame.upd)
    | with_reducible exact .inr rfl
    | exact .inl (Part.sub_has _ hfm (by decide))
    | exact .inl ⟨Part.sub_has _ hfm (by decide), fun h => h⟩
    | exact .inl ⟨Part.sub_has _ hfm (by decide), fun h => by simpa only [List.length_set, List.length_map, List.length_zipIdx] using h⟩

theorem execTrainingLimit_frame {fm : List Part} {b0 : State} (p : BitVec 4) (lanes : BitVec 8) (s : State)
    (hfr : Frame fm b0 s) (hfm : Part.sub [.regs, .net, .fleet, .log] fm = true) : FrameOut fm b0 (execTrainingLimit p lanes s) := by
  unfold execTrainingLimit
  repeat' first
    | with_reducible assumption
    | exact Part.sub_trans (by decide) hfm
    | with_reducible intro _
    | (extract_lets +onlyGivenNames x; refine (fun hx => ?_ : (Frame fm b0 x) → _) ?_; (on_goal 2 => unfold x); all_goals clear_value x)
    | (extract_lets +onlyGivenNames x; refine (fun hx => ?_ : (Frame fm b0 x.1) → _) ?_; (on_goal 2 => unfold x); all_goals clear_value x)
    | (extract_lets +onlyGivenNames x; refine (fun hx => ?_ : (tileSafe x = true) → _) ?_; (on_goal 2 => unfold x); all_goals clear_value x)
    | (extract_lets +onlyGivenNames x; refine (fun hx => ?_ : (tileSafe x.1 = true) → _) ?_; (on_goal 2 => unfold x); all_goals clear_value x)
    | (extract_lets +onlyGivenNames x; refine (fun hx => ?_ : (FrameOpt fm b0 x) → _) ?_; (on_goal 2 => unfold x); all_goals clear_value x)
    | (extract_lets +onlyGivenNames x; refine (fun hx => ?_ : (Frame fm b0 x.st) → _) ?_; (on_goal 2 => unfold x); all_goals clear_value x)
    | extract_lets +onlyGivenNames x
    | with_reducible apply FrameOut.next
    | with_reducible apply laneEvents_frame
    | with_reducible apply putPort_frame
    | with_reducible apply endTraining_frame
    | with_reducible apply lockPort_frame
    | with_reducible apply pput_frame
    | with_reducible apply Frame.ite
    | split
    | ((conv in State.mk _ _ _ _ _ _ _ _ _ _ _ _ _ _ _ _ _ _ _ _ _ _ _ _ _ => skip); with_reducible apply Frame.upd)
    | with_reducible exact .inr rfl
    | exact .inl (Part.sub_has _ hfm (by decide))
    | exact .inl ⟨Part.sub_has _ hfm (by decide), fun h => h⟩
    | exact .inl ⟨Part.sub_has _ hfm (by decide), fun h => by simpa only [List.length_set, List.length_map, List.length_zipIdx] using h⟩

theorem execFleetFrame_frame {fm : List Part} {b0 : State} (p : BitVec 4) (f : Sys2Proof.Frame) (s : State)
    (hfr : Frame fm b0 s) (hfm : Part.sub [.regs, .net, .fleet, .log] fm = true) : FrameOut fm b0 (execFleetFrame p f s) := by
  unfold execFleetFrame
  repeat' first
    | with_reducible assumption
    | extract_lets +onlyGivenNames x
    | with_reducible apply FrameOut.next
    | with_reducible apply receiveFrame_frame
    | with_reducible apply Frame.ite

theorem writeDiscover_frame {fm : List Part} {b0 : State} (s : State)
    (hfr : Frame fm b0 s) (hfm : Part.sub [.regs, .fleet] fm = true) : Frame fm b0 (writeDiscover s) := by
  unfold writeDiscover
  repeat' first
    | with_reducible assumption
    | exact Part.sub_trans (by decide) hfm
    | with_reducible intro _
    | with_reducible apply startDiscovery_frame
    | with_reducible apply Frame.ite
    | split
    | extract_lets +onlyGivenNames x

theorem execDiscover_frame {fm : List Part} {b0 : State} (s : State)
    (hfr : Frame fm b0 s) (hfm : Part.sub [.regs, .fleet] fm = true) : FrameOut fm b0 (execDiscover s) := by
  unfold execDiscover
  repeat' first
    | with_reducible assumption
    | extract_lets +onlyGivenNames x
    | with_reducible apply FrameOut.next
    | with_reducible apply writeDiscover_frame

theorem execHail_frame {fm : List Part} {b0 : State} (p : BitVec 4) (r : HailRec) (s : State)
    (hfr : Frame fm b0 s) (hfm : Part.sub [.regs, .fleet] fm = true) : FrameOut fm b0 (execHail p r s) := by
  unfold execHail
  repeat' first
    | with_reducible assumption
    | extract_lets +onlyGivenNames x
    | with_reducible apply FrameOut.next
    | with_reducible apply takeHail_frame
    | with_reducible apply Frame.ite

theorem execDiscoverySettle_frame {fm : List Part} {b0 : State} (s : State)
    (hfr : Frame fm b0 s) (hfm : Part.sub [.cyc, .tick, .tfrac, .regs, .vil, .fleet, .chr, .serve] fm = true) : FrameOut fm b0 (execDiscoverySettle s) := by
  unfold execDiscoverySettle
  repeat' first
    | with_reducible assumption
    | exact Part.sub_trans (by decide) hfm
    | with_reducible intro _
    | with_reducible apply FrameOut.next
    | with_reducible apply settleView_frame
    | with_reducible apply elapseToTick_frame
    | with_reducible apply endTraining_frame
    | with_reducible apply Frame.ite
    | split
    | extract_lets +onlyGivenNames x

theorem execNumbers_frame {fm : List Part} {b0 : State} (p : BitVec 4) (r : NumbersRec) (s : State)
    (hfr : Frame fm b0 s) (hfm : Part.sub [.regs, .vil, .fleet, .chr, .serve] fm = true) : FrameOut fm b0 (execNumbers p r s) := by
  unfold execNumbers
  repeat' first
    | with_reducible assumption
    | extract_lets +onlyGivenNames x
    | with_reducible apply FrameOut.next
    | with_reducible apply takeNumbers_frame
    | with_reducible apply Frame.ite

theorem writeCommit_frame {fm : List Part} {b0 : State} (s : State)
    (hfr : Frame fm b0 s) (hfm : Part.sub [.regs] fm = true) : Frame fm b0 (writeCommit s) := by
  unfold writeCommit
  repeat' first
    | with_reducible assumption
    | extract_lets +onlyGivenNames x
    | with_reducible apply rset_frame
    | with_reducible apply Frame.ite

theorem execCommit_frame {fm : List Part} {b0 : State} (s : State)
    (hfr : Frame fm b0 s) (hfm : Part.sub [.regs] fm = true) : FrameOut fm b0 (execCommit s) := by
  unfold execCommit
  repeat' first
    | with_reducible assumption
    | extract_lets +onlyGivenNames x
    | with_reducible apply FrameOut.next
    | with_reducible apply writeCommit_frame

theorem execFltLock_frame {fm : List Part} {b0 : State} (d : BitVec 2) (s : State)
    (hfr : Frame fm b0 s) (hfm : Part.sub [.regs] fm = true) : FrameOut fm b0 (execFltLock d s) := by
  unfold execFltLock
  repeat' first
    | with_reducible assumption
    | extract_lets +onlyGivenNames x
    | with_reducible apply FrameOut.next
    | with_reducible apply rset_frame
    | with_reducible apply Frame.ite

theorem takeTargets_frame {fm : List Part} {b0 : State} (s : State) (k : Nat)
    (hfr : Frame fm b0 s) (hfm : Part.sub [.tiles, .stk] fm = true) : Frame fm b0 (takeTargets s k) := by
  unfold takeTargets
  repeat' first
    | with_reducible assumption
    | exact Part.sub_trans (by decide) hfm
    | with_reducible intro _
    | (extract_lets +onlyGivenNames x; refine (fun hx => ?_ : (Frame fm b0 x) → _) ?_; (on_goal 2 => unfold x); all_goals clear_value x)
    | (extract_lets +onlyGivenNames x; refine (fun hx => ?_ : (SafeParts b0 → tileSafe x = true) → _) ?_; (on_goal 2 => unfold x); all_goals clear_value x)
    | extract_lets +onlyGivenNames x
    | with_reducible apply putTile_frame
    | with_reducible apply putStk_frame
    | with_reducible apply Frame.foldl
    | (refine SafeParts.tileAt (Frame.safe (m := fm) ?_ ‹SafeParts b0›) _ _)
    | with_reducible exact (‹SafeParts _ → tileSafe _ = true› ‹_›)
    | ((conv in Tile.mk _ _ _ _ _ _ _ _ _ _ _ _ _ _ _ _ _ _ _ _ _ _ _ _ _ _ _ _ _ _ _ _ _ _ _ _ _ _ _ _ => skip); with_reducible apply tileSafe_upd)
    | with_reducible exact .inl rfl

theorem beginSight_frame {fm : List Part} {b0 : State} (s : State) (k site : Nat)
    (hfr : Frame fm b0 s) (hfm : Part.sub [.tiles, .stk] fm = true) : Frame fm b0 (beginSight s k site) := by
  unfold beginSight
  repeat' first
    | with_reducible assumption
    | exact Part.sub_trans (by decide) hfm
    | with_reducible intro _
    | (extract_lets +onlyGivenNames x; refine (fun hx => ?_ : (SafeParts b0 → tileSafe x = true) → _) ?_; (on_goal 2 => unfold x); all_goals clear_value x)
    | extract_lets +onlyGivenNames x
    | with_reducible apply putTile_frame
    | with_reducible apply putStk_frame
    | (refine SafeParts.tileAt (Frame.safe (m := fm) ?_ ‹SafeParts b0›) _ _)
    | with_reducible exact (‹SafeParts _ → tileSafe _ = true› ‹_›)
    | ((conv in Tile.mk _ _ _ _ _ _ _ _ _ _ _ _ _ _ _ _ _ _ _ _ _ _ _ _ _ _ _ _ _ _ _ _ _ _ _ _ _ _ _ _ => skip); with_reducible apply tileSafe_upd)
    | with_reducible exact .inl rfl

theorem pickSight_frame {m : List Part} {s0 : State} (s : State) (k : Nat) (h : Frame m s0 s)
    (hm : Part.sub [.tiles, .stk] m = true) : Frame m s0 (pickSight s k) := by
  unfold pickSight
  generalize nextSight s k = o
  refine Frame.ite h ?_
  cases o with
  | none => exact h
  | some site => exact beginSight_frame _ _ _ h (Part.sub_trans (by decide) hm)

theorem showSextant_frame {fm : List Part} {b0 : State} (s : State) (k : Nat)
    (hfr : Frame fm b0 s) (hfm : Part.sub [.regs] fm = true) : Frame fm b0 (showSextant s k) := by
  unfold showSextant
  repeat' first
    | with_reducible assumption
    | exact Part.sub_trans (by decide) hfm
    | with_reducible intro _
    | (extract_lets +onlyGivenNames x; refine (fun hx => ?_ : (Frame fm b0 x) → _) ?_; (on_goal 2 => unfold x); all_goals clear_value x)
    | (extract_lets +onlyGivenNames x; refine (fun hx => ?_ : (Frame fm b0 x.1) → _) ?_; (on_goal 2 => unfold x); all_goals clear_value x)
    | (extract_lets +onlyGivenNames x; refine (fun hx => ?_ : (tileSafe x = true) → _) ?_; (on_goal 2 => unfold x); all_goals clear_value x)
    | (extract_lets +onlyGivenNames x; refine (fun hx => ?_ : (tileSafe x.1 = true) → _) ?_; (on_goal 2 => unfold x); all_goals clear_value x)
    | (extract_lets +onlyGivenNames x; refine (fun hx => ?_ : (FrameOpt fm b0 x) → _) ?_; (on_goal 2 => unfold x); all_goals clear_value x)
    | (extract_lets +onlyGivenNames x; refine (fun hx => ?_ : (Frame fm b0 x.st) → _) ?_; (on_goal 2 => unfold x); all_goals clear_value x)
    | extract_lets +onlyGivenNames x
    | with_reducible apply rput_frame
    | with_reducible apply Frame.foldl
    | with_reducible apply Frame.foldlFst
    | with_reducible apply Frame.ite
    | split

theorem wakeSites_frame {fm : List Part} {b0 : State} (s : State) (k : Nat)
    (hfr : Frame fm b0 s) (hfm : Part.sub [.tiles, .pwr] fm = true) : Frame fm b0 (wakeSites s k) := by
  unfold wakeSites
  repeat' first
    | with_reducible assumption
    | exact Part.sub_trans (by decide) hfm
    | with_reducible intro _
    | with_reducible apply askStart_frame
    | with_reducible apply Frame.foldl
    | with_reducible apply Frame.foldlFst
    | with_reducible apply Frame.ite
    | split
    | (refine SafeParts.tileAt (Frame.safe (m := fm) ?_ ‹SafeParts b0›) _ _)
    | with_reducible exact (‹SafeParts _ → tileSafe _ = true› ‹_›)

theorem startPass_frame {fm : List Part} {b0 : State} (s : State) (k : Nat)
    (hfr : Frame fm b0 s) (hfm : Part.sub [.regs, .tiles, .stk, .pwr] fm = true) : Frame fm b0 (startPass s k) := by
  unfold startPass
  repeat' first
    | with_reducible assumption
    | exact Part.sub_trans (by decide) hfm
    | with_reducible intro _
    | (extract_lets +onlyGivenNames x; refine (fun hx => ?_ : (Frame fm b0 x) → _) ?_; (on_goal 2 => unfold x); all_goals clear_value x)
    | (extract_lets +onlyGivenNames x; refine (fun hx => ?_ : (Frame fm b0 x.1) → _) ?_; (on_goal 2 => unfold x); all_goals clear_value x)
    | (extract_lets +onlyGivenNames x; refine (fun hx => ?_ : (tileSafe x = true) → _) ?_; (on_goal 2 => unfold x); all_goals clear_value x)
    | (extract_lets +onlyGivenNames x; refine (fun hx => ?_ : (tileSafe x.1 = true) → _) ?_; (on_goal 2 => unfold x); all_goals clear_value x)
    | (extract_lets +onlyGivenNames x; refine (fun hx => ?_ : (FrameOpt fm b0 x) → _) ?_; (on_goal 2 => unfold x); all_goals clear_value x)
    | (extract_lets +onlyGivenNames x; refine (fun hx => ?_ : (Frame fm b0 x.st) → _) ?_; (on_goal 2 => unfold x); all_goals clear_value x)
    | extract_lets +onlyGivenNames x
    | with_reducible apply putStk_frame
    | with_reducible apply rput_frame
    | with_reducible apply rset_frame
    | with_reducible apply wakeSites_frame
    | with_reducible apply Frame.ite
    | split
    | ((conv in State.mk _ _ _ _ _ _ _ _ _ _ _ _ _ _ _ _ _ _ _ _ _ _ _ _ _ => skip); with_reducible apply Frame.upd)
    | with_reducible exact .inr rfl
    | exact .inl (Part.sub_has _ hfm (by decide))
    | exact .inl ⟨Part.sub_has _ hfm (by decide), fun h => h⟩
    | exact .inl ⟨Part.sub_has _ hfm (by decide), fun h => by simpa only [List.length_set, List.length_map, List.length_zipIdx] using h⟩

theorem trigger_frame {fm : List Part} {b0 : State} (s : State) (k kind : Nat)
    (hfr : Frame fm b0 s) (hfm : Part.sub [.regs, .tiles, .stk, .pwr] fm = true) : Frame fm b0 (trigger s k kind) := by
  unfold trigger
  repeat' first
    | with_reducible assumption
    | exact Part.sub_trans (by decide) hfm
    | (extract_lets +onlyGivenNames x; refine (fun hx => ?_ : (Frame fm b0 x) → _) ?_; (on_goal 2 => unfold x); all_goals clear_value x)
    | extract_lets +onlyGivenNames x
    | with_reducible apply startPass_frame
    | with_reducible apply showSextant_frame
    | with_reducible apply putStk_frame
    | with_reducible apply rset_frame
    | with_reducible apply Frame.ite

theorem restartPass_frame {fm : List Part} {b0 : State} (s : State) (k : Nat)
    (hfr : Frame fm b0 s) (hfm : Part.sub [.regs, .stk] fm = true) : Frame fm b0 (restartPass s k) := by
  unfold restartPass
  repeat' first
    | with_reducible assumption
    | exact Part.sub_trans (by decide) hfm
    | with_reducible intro _
    | (extract_lets +onlyGivenNames x; refine (fun hx => ?_ : (Frame fm b0 x) → _) ?_; (on_goal 2 => unfold x); all_goals clear_value x)
    | (extract_lets +onlyGivenNames x; refine (fun hx => ?_ : (Frame fm b0 x.1) → _) ?_; (on_goal 2 => unfold x); all_goals clear_value x)
    | (extract_lets +onlyGivenNames x; refine (fun hx => ?_ : (tileSafe x = true) → _) ?_; (on_goal 2 => unfold x); all_goals clear_value x)
    | (extract_lets +onlyGivenNames x; refine (fun hx => ?_ : (tileSafe x.1 = true) → _) ?_; (on_goal 2 => unfold x); all_goals clear_value x)
    | (extract_lets +onlyGivenNames x; refine (fun hx => ?_ : (FrameOpt fm b0 x) → _) ?_; (on_goal 2 => unfold x); all_goals clear_value x)
    | (extract_lets +onlyGivenNames x; refine (fun hx => ?_ : (Frame fm b0 x.st) → _) ?_; (on_goal 2 => unfold x); all_goals clear_value x)
    | extract_lets +onlyGivenNames x
    | with_reducible apply rbump_frame
    | with_reducible apply rset_frame
    | with_reducible apply rput_frame
    | with_reducible apply putStk_frame
    | with_reducible apply Frame.ite
    | (with_reducible refine Frame.ofPair ‹_ = (_, _)› ?_)
    | split
    | ((conv in State.mk _ _ _ _ _ _ _ _ _ _ _ _ _ _ _ _ _ _ _ _ _ _ _ _ _ => skip); with_reducible apply Frame.upd)
    | with_reducible exact .inr rfl
    | exact .inl (Part.sub_has _ hfm (by decide))
    | exact .inl ⟨Part.sub_has _ hfm (by decide), fun h => h⟩
    | exact .inl ⟨Part.sub_has _ hfm (by decide), fun h => by simpa only [List.length_set, List.length_map, List.length_zipIdx] using h⟩

theorem temperatureTrigger_frame {fm : List Part} {b0 : State} (s : State) (k : Nat)
    (hfr : Frame fm b0 s) (hfm : Part.sub [.regs, .tiles, .stk, .pwr] fm = true) : Frame fm b0 (temperatureTrigger s k) := by
  unfold temperatureTrigger
  repeat' first
    | with_reducible assumption
    | exact Part.sub_trans (by decide) hfm
    | with_reducible intro _
    | (extract_lets +onlyGivenNames x; refine (fun hx => ?_ : (Frame fm b0 x) → _) ?_; (on_goal 2 => unfold x); all_goals clear_value x)
    | (extract_lets +onlyGivenNames x; refine (fun hx => ?_ : (Frame fm b0 x.1) → _) ?_; (on_goal 2 => unfold x); all_goals clear_value x)
    | (extract_lets +onlyGivenNames x; refine (fun hx => ?_ : (tileSafe x = true) → _) ?_; (on_goal 2 => unfold x); all_goals clear_value x)
    | (extract_lets +onlyGivenNames x; refine (fun hx => ?_ : (tileSafe x.1 = true) → _) ?_; (on_goal 2 => unfold x); all_goals clear_value x)
    | (extract_lets +onlyGivenNames x; refine (fun hx => ?_ : (FrameOpt fm b0 x) → _) ?_; (on_goal 2 => unfold x); all_goals clear_value x)
    | (extract_lets +onlyGivenNames x; refine (fun hx => ?_ : (Frame fm b0 x.st) → _) ?_; (on_goal 2 => unfold x); all_goals clear_value x)
    | extract_lets +onlyGivenNames x
    | with_reducible apply trigger_frame
    | with_reducible apply showSextant_frame
    | with_reducible apply restartPass_frame
    | with_reducible apply putStk_frame
    | with_reducible apply rset_frame
    | with_reducible apply Frame.ite
    | (with_reducible refine Frame.ofPair ‹_ = (_, _)› ?_)
    | split
    | ((conv in State.mk _ _ _ _ _ _ _ _ _ _ _ _ _ _ _ _ _ _ _ _ _ _ _ _ _ => skip); with_reducible apply Frame.upd)
    | with_reducible exact .inr rfl
    | exact .inl (Part.sub_has _ hfm (by decide))
    | exact .inl ⟨Part.sub_has _ hfm (by decide), fun h => h⟩
    | exact .inl ⟨Part.sub_has _ hfm (by decide), fun h => by simpa only [List.length_set, List.length_map, List.length_zipIdx] using h⟩

theorem demandGroups_frame {fm : List Part} {b0 : State} (s : State) (k site : Nat) (gs : List Nat)
    (hfr : Frame fm b0 s) (hfm : Part.sub [.regs, .stk] fm = true) : Frame fm b0 (demandGroups s k site gs) := by
  unfold demandGroups
  repeat' first
    | with_reducible assumption
    | exact Part.sub_trans (by decide) hfm
    | extract_lets +onlyGivenNames x
    | with_reducible apply putStk_frame
    | with_reducible apply rset_frame
    | with_reducible apply Frame.ite
    | split

theorem advanceDemand_frame {fm : List Part} {b0 : State} (s : State) (k site : Nat) (fix : Bool) (g : Nat)
    (hfr : Frame fm b0 s) (hfm : Part.sub [.regs, .stk] fm = true) : Frame fm b0 (advanceDemand s k site fix g) := by
  unfold advanceDemand
  repeat' first
    | with_reducible assumption
    | exact Part.sub_trans (by decide) hfm
    | extract_lets +onlyGivenNames x
    | with_reducible apply putStk_frame
    | with_reducible apply rbump_frame
    | with_reducible apply Frame.ite
    | split

theorem checkMargin_frame {fm : List Part} {b0 : State} (s : State) (k site : Nat) (low : List Nat)
    (hfr : Frame fm b0 s) (hfm : Part.sub [.regs, .tiles, .stk] fm = true) : Frame fm b0 (checkMargin s k site low) := by
  unfold checkMargin
  repeat' first
    | with_reducible assumption
    | exact Part.sub_trans (by decide) hfm
    | with_reducible intro _
    | (extract_lets +onlyGivenNames x; refine (fun hx => ?_ : (Frame fm b0 x) → _) ?_; (on_goal 2 => unfold x); all_goals clear_value x)
    | (extract_lets +onlyGivenNames x; refine (fun hx => ?_ : (SafeParts b0 → tileSafe x = true) → _) ?_; (on_goal 2 => unfold x); all_goals clear_value x)
    | extract_lets +onlyGivenNames x
    | with_reducible apply demandGroups_frame
    | with_reducible apply pendDemotion_frame
    | with_reducible apply Frame.ite
    | (refine SafeParts.tileAt (Frame.safe (m := fm) ?_ ‹SafeParts b0›) _ _)

theorem putRecord_frame {fm : List Part} {b0 : State} (s : State) (k site off : Nat) (bs : List Byte)
    (hfr : Frame fm b0 s) (hfm : Part.sub [.stk] fm = true) : Frame fm b0 (putRecord s k site off bs) := by
  unfold putRecord
  repeat' first
    | with_reducible assumption
    | extract_lets +onlyGivenNames x
    | with_reducible apply putStk_frame

theorem logMargin_frame {fm : List Part} {b0 : State} (s : State) (k site mn mean : Nat)
    (hfr : Frame fm b0 s) (hfm : Part.sub [.log] fm = true) : Frame fm b0 (logMargin s k site mn mean) := by
  unfold logMargin
  repeat' first
    | with_reducible assumption
    | exact Part.sub_trans (by decide) hfm
    | with_reducible intro _
    | with_reducible apply Frame.ite
    | split
    | ((conv in State.mk _ _ _ _ _ _ _ _ _ _ _ _ _ _ _ _ _ _ _ _ _ _ _ _ _ => skip); with_reducible apply Frame.upd)
    | with_reducible exact .inr rfl
    | exact .inl (Part.sub_has _ hfm (by decide))
    | exact .inl ⟨Part.sub_has _ hfm (by decide), fun h => h⟩
    | exact .inl ⟨Part.sub_has _ hfm (by decide), fun h => by simpa only [List.length_set, List.length_map, List.length_zipIdx] using h⟩
    | exact .inl ⟨Part.sub_has _ hfm (by decide), fun h => mapSet_wf _ _ _ _ h⟩
    | ((conv in Tile.mk _ _ _ _ _ _ _ _ _ _ _ _ _ _ _ _ _ _ _ _ _ _ _ _ _ _ _ _ _ _ _ _ _ _ _ _ _ _ _ _ => skip); with_reducible apply tileSafe_upd)
    | with_reducible exact .inl rfl
    | (refine SafeParts.tileAt (Frame.safe (m := fm) ?_ ‹SafeParts b0›) _ _)
    | with_reducible exact (‹SafeParts _ → tileSafe _ = true› ‹_›)

theorem completeMeasurement_frame {fm : List Part} {b0 : State} (s : State) (k site : Nat) (l : List GroupMeas)
    (hfr : Frame fm b0 s) (hfm : Part.sub [.regs, .tiles, .stk, .log] fm = true) : Frame fm b0 (completeMeasurement s k site l) := by
  unfold completeMeasurement
  repeat' first
    | with_reducible assumption
    | exact Part.sub_trans (by decide) hfm
    | with_reducible intro _
    | (extract_lets +onlyGivenNames x; refine (fun hx => ?_ : (Frame fm b0 x) → _) ?_; (on_goal 2 => unfold x); all_goals clear_value x)
    | (extract_lets +onlyGivenNames x; refine (fun hx => ?_ : (Frame fm b0 x.1) → _) ?_; (on_goal 2 => unfold x); all_goals clear_value x)
    | (extract_lets +onlyGivenNames x; refine (fun hx => ?_ : (SafeParts b0 → tileSafe x = true) → _) ?_; (on_goal 2 => unfold x); all_goals clear_value x)
    | (extract_lets +onlyGivenNames x; refine (fun hx => ?_ : (SafeParts b0 → tileSafe x.1 = true) → _) ?_; (on_goal 2 => unfold x); all_goals clear_value x)
    | (extract_lets +onlyGivenNames x; refine (fun hx => ?_ : (FrameOpt fm b0 x) → _) ?_; (on_goal 2 => unfold x); all_goals clear_value x)
    | (extract_lets +onlyGivenNames x; refine (fun hx => ?_ : (Frame fm b0 x.st) → _) ?_; (on_goal 2 => unfold x); all_goals clear_value x)
    | extract_lets +onlyGivenNames x
    | with_reducible apply putRecord_frame
    | with_reducible apply putTile_frame
    | with_reducible apply rbump_frame
    | with_reducible apply logMargin_frame
    | with_reducible apply tput_safe
    | with_reducible apply Frame.foldl
    | with_reducible apply Frame.foldlFst
    | (refine SafeParts.tileAt (Frame.safe (m := fm) ?_ ‹SafeParts b0›) _ _)
    | with_reducible exact (‹SafeParts _ → tileSafe _ = true› ‹_›)

theorem takeResult_frame {fm : List Part} {b0 : State} (s : State) (k site : Nat) (q : GroupMeas)
    (hfr : Frame fm b0 s) (hfm : Part.sub [.regs, .tiles, .stk, .log] fm = true) : Frame fm b0 (takeResult s k site q) := by
  unfold takeResult
  repeat' first
    | with_reducible assumption
    | exact Part.sub_trans (by decide) hfm
    | with_reducible intro _
    | (extract_lets +onlyGivenNames x; refine (fun hx => ?_ : (Frame fm b0 x) → _) ?_; (on_goal 2 => unfold x); all_goals clear_value x)
    | (extract_lets +onlyGivenNames x; refine (fun hx => ?_ : (Frame fm b0 x.1) → _) ?_; (on_goal 2 => unfold x); all_goals clear_value x)
    | (extract_lets +onlyGivenNames x; refine (fun hx => ?_ : (SafeParts b0 → tileSafe x = true) → _) ?_; (on_goal 2 => unfold x); all_goals clear_value x)
    | (extract_lets +onlyGivenNames x; refine (fun hx => ?_ : (SafeParts b0 → tileSafe x.1 = true) → _) ?_; (on_goal 2 => unfold x); all_goals clear_value x)
    | (extract_lets +onlyGivenNames x; refine (fun hx => ?_ : (FrameOpt fm b0 x) → _) ?_; (on_goal 2 => unfold x); all_goals clear_value x)
    | (extract_lets +onlyGivenNames x; refine (fun hx => ?_ : (Frame fm b0 x.st) → _) ?_; (on_goal 2 => unfold x); all_goals clear_value x)
    | extract_lets +onlyGivenNames x
    | with_reducible apply completeMeasurement_frame
    | with_reducible apply putStk_frame
    | with_reducible apply checkMargin_frame
    | with_reducible apply putTile_frame
    | with_reducible apply tput_safe
    | with_reducible apply Frame.ite
    | split
    | ((conv in State.mk _ _ _ _ _ _ _ _ _ _ _ _ _ _ _ _ _ _ _ _ _ _ _ _ _ => skip); with_reducible apply Frame.upd)
    | with_reducible exact .inr rfl
    | exact .inl (Part.sub_has _ hfm (by decide))
    | exact .inl ⟨Part.sub_has _ hfm (by decide), fun h => h⟩
    | exact .inl ⟨Part.sub_has _ hfm (by decide), fun h => by simpa only [List.length_set, List.length_map, List.length_zipIdx] using h⟩
    | exact .inl ⟨Part.sub_has _ hfm (by decide), fun h => mapSet_wf _ _ _ _ h⟩
    | ((conv in Tile.mk _ _ _ _ _ _ _ _ _ _ _ _ _ _ _ _ _ _ _ _ _ _ _ _ _ _ _ _ _ _ _ _ _ _ _ _ _ _ _ _ => skip); with_reducible apply tileSafe_upd)
    | with_reducible exact .inl rfl
    | (refine SafeParts.tileAt (Frame.safe (m := fm) ?_ ‹SafeParts b0›) _ _)
    | with_reducible exact (‹SafeParts _ → tileSafe _ = true› ‹_›)

theorem markRange_frame {fm : List Part} {b0 : State} (s : State) (k site g : Nat) (out : Bool)
    (hfr : Frame fm b0 s) (hfm : Part.sub [.regs, .stk] fm = true) : Frame fm b0 (markRange s k site g out) := by
  unfold markRange
  repeat' first
    | with_reducible assumption
    | exact Part.sub_trans (by decide) hfm
    | with_reducible intro _
    | (extract_lets +onlyGivenNames x; refine (fun hx => ?_ : (Frame fm b0 x) → _) ?_; (on_goal 2 => unfold x); all_goals clear_value x)
    | (extract_lets +onlyGivenNames x; refine (fun hx => ?_ : (Frame fm b0 x.1) → _) ?_; (on_goal 2 => unfold x); all_goals clear_value x)
    | (extract_lets +onlyGivenNames x; refine (fun hx => ?_ : (tileSafe x = true) → _) ?_; (on_goal 2 => unfold x); all_goals clear_value x)
    | (extract_lets +onlyGivenNames x; refine (fun hx => ?_ : (tileSafe x.1 = true) → _) ?_; (on_goal 2 => unfold x); all_goals clear_value x)
    | (extract_lets +onlyGivenNames x; refine (fun hx => ?_ : (FrameOpt fm b0 x) → _) ?_; (on_goal 2 => unfold x); all_goals clear_value x)
    | (extract_lets +onlyGivenNames x; refine (fun hx => ?_ : (Frame fm b0 x.st) → _) ?_; (on_goal 2 => unfold x); all_goals clear_value x)
    | extract_lets +onlyGivenNames x
    | with_reducible apply putRecord_frame
    | with_reducible apply putStk_frame
    | with_reducible apply rbump_frame
    | with_reducible apply Frame.ite
    | split
    | ((conv in State.mk _ _ _ _ _ _ _ _ _ _ _ _ _ _ _ _ _ _ _ _ _ _ _ _ _ => skip); with_reducible apply Frame.upd)
    | with_reducible exact .inr rfl
    | exact .inl (Part.sub_has _ hfm (by decide))
    | exact .inl ⟨Part.sub_has _ hfm (by decide), fun h => h⟩
    | exact .inl ⟨Part.sub_has _ hfm (by decide), fun h => by simpa only [List.length_set, List.length_map, List.length_zipIdx] using h⟩
    | exact .inl ⟨Part.sub_has _ hfm (by decide), fun h => mapSet_wf _ _ _ _ h⟩

theorem writeTargets_frame {fm : List Part} {b0 : State} (s : State) (k site g : Nat) (ts : List (Nat × Int))
    (hfr : Frame fm b0 s) (hfm : Part.sub [.regs, .stk] fm = true) : Frame fm b0 (writeTargets s k site g ts) := by
  unfold writeTargets
  repeat' first
    | with_reducible assumption
    | exact Part.sub_trans (by decide) hfm
    | with_reducible intro _
    | (extract_lets +onlyGivenNames x; refine (fun hx => ?_ : (Frame fm b0 x) → _) ?_; (on_goal 2 => unfold x); all_goals clear_value x)
    | (extract_lets +onlyGivenNames x; refine (fun hx => ?_ : (Frame fm b0 x.1) → _) ?_; (on_goal 2 => unfold x); all_goals clear_value x)
    | (extract_lets +onlyGivenNames x; refine (fun hx => ?_ : (tileSafe x = true) → _) ?_; (on_goal 2 => unfold x); all_goals clear_value x)
    | (extract_lets +onlyGivenNames x; refine (fun hx => ?_ : (tileSafe x.1 = true) → _) ?_; (on_goal 2 => unfold x); all_goals clear_value x)
    | (extract_lets +onlyGivenNames x; refine (fun hx => ?_ : (FrameOpt fm b0 x) → _) ?_; (on_goal 2 => unfold x); all_goals clear_value x)
    | (extract_lets +onlyGivenNames x; refine (fun hx => ?_ : (Frame fm b0 x.st) → _) ?_; (on_goal 2 => unfold x); all_goals clear_value x)
    | extract_lets +onlyGivenNames x
    | with_reducible apply putRecord_frame
    | with_reducible apply markRange_frame
    | with_reducible apply Frame.foldl
    | with_reducible apply Frame.foldlFst

theorem writeReferences_frame {fm : List Part} {b0 : State} (s : State) (k : Nat) (ts : List (Nat × Int))
    (hfr : Frame fm b0 s) (hfm : Part.sub [.stk] fm = true) : Frame fm b0 (writeReferences s k ts) := by
  unfold writeReferences
  repeat' first
    | with_reducible assumption
    | extract_lets +onlyGivenNames x
    | with_reducible apply putStk_frame

theorem spendGroup_frame {fm : List Part} {b0 : State} (s : State) (k site : Nat) (fix : Bool) (g : Nat)
    (hfr : Frame fm b0 s) (hfm : Part.sub [.cyc, .tick, .tfrac, .regs, .stk] fm = true) : FrameOpt fm b0 (spendGroup s k site fix g) := by
  unfold spendGroup
  repeat' first
    | with_reducible assumption
    | exact Part.sub_trans (by decide) hfm
    | with_reducible intro _
    | (extract_lets +onlyGivenNames x; refine (fun hx => ?_ : (Frame fm b0 x) → _) ?_; (on_goal 2 => unfold x); all_goals clear_value x)
    | (extract_lets +onlyGivenNames x; refine (fun hx => ?_ : (Frame fm b0 x.1) → _) ?_; (on_goal 2 => unfold x); all_goals clear_value x)
    | (extract_lets +onlyGivenNames x; refine (fun hx => ?_ : (tileSafe x = true) → _) ?_; (on_goal 2 => unfold x); all_goals clear_value x)
    | (extract_lets +onlyGivenNames x; refine (fun hx => ?_ : (tileSafe x.1 = true) → _) ?_; (on_goal 2 => unfold x); all_goals clear_value x)
    | (extract_lets +onlyGivenNames x; refine (fun hx => ?_ : (FrameOpt fm b0 x) → _) ?_; (on_goal 2 => unfold x); all_goals clear_value x)
    | (extract_lets +onlyGivenNames x; refine (fun hx => ?_ : (Frame fm b0 x.st) → _) ?_; (on_goal 2 => unfold x); all_goals clear_value x)
    | extract_lets +onlyGivenNames x
    | with_reducible apply putSequencer_frame
    | with_reducible apply rbump_frame
    | with_reducible apply elapseTo_frame
    | with_reducible apply Frame.ite
    | with_reducible apply FrameOpt.none
    | with_reducible apply FrameOpt1.none
    | with_reducible apply FrameOpt.some
    | with_reducible apply FrameOpt1.some
    | with_reducible apply FrameOpt.ite
    | with_reducible apply FrameOpt.foldl
    | with_reducible apply FrameOpt.map
    | (exact (by assumption : FrameOpt fm b0 (some _)) _ rfl)
    | (with_reducible refine FrameOpt.of ‹_ = some _› ?_)
    | (with_reducible refine FrameOpt1.ofPair ‹_ = some _› ?_)
    | (with_reducible refine FrameOpt1.of ‹_ = some _› ?_)
    | split
    | ((conv in State.mk _ _ _ _ _ _ _ _ _ _ _ _ _ _ _ _ _ _ _ _ _ _ _ _ _ => skip); with_reducible apply Frame.upd)
    | with_reducible exact .inr rfl
    | exact .inl (Part.sub_has _ hfm (by decide))
    | exact .inl ⟨Part.sub_has _ hfm (by decide), fun h => h⟩
    | exact .inl ⟨Part.sub_has _ hfm (by decide), fun h => by simpa only [List.length_set, List.length_map, List.length_zipIdx] using h⟩

theorem restartHands_frame {fm : List Part} {b0 : State} (s : State) (k site : Nat) (hit : GroupHand → Bool)
    (hfr : Frame fm b0 s) (hfm : Part.sub [.regs, .stk] fm = true) : Frame fm b0 (restartHands s k site hit) := by
  unfold restartHands
  repeat' first
    | with_reducible assumption
    | exact Part.sub_trans (by decide) hfm
    | with_reducible intro _
    | (extract_lets +onlyGivenNames x; refine (fun hx => ?_ : (Frame fm b0 x) → _) ?_; (on_goal 2 => unfold x); all_goals clear_value x)
    | (extract_lets +onlyGivenNames x; refine (fun hx => ?_ : (Frame fm b0 x.1) → _) ?_; (on_goal 2 => unfold x); all_goals clear_value x)
    | (extract_lets +onlyGivenNames x; refine (fun hx => ?_ : (tileSafe x = true) → _) ?_; (on_goal 2 => unfold x); all_goals clear_value x)
    | (extract_lets +onlyGivenNames x; refine (fun hx => ?_ : (tileSafe x.1 = true) → _) ?_; (on_goal 2 => unfold x); all_goals clear_value x)
    | (extract_lets +onlyGivenNames x; refine (fun hx => ?_ : (FrameOpt fm b0 x) → _) ?_; (on_goal 2 => unfold x); all_goals clear_value x)
    | (extract_lets +onlyGivenNames x; refine (fun hx => ?_ : (Frame fm b0 x.st) → _) ?_; (on_goal 2 => unfold x); all_goals clear_value x)
    | extract_lets +onlyGivenNames x
    | with_reducible apply rbump_frame
    | with_reducible apply putSequencer_frame
    | with_reducible apply Frame.ite
    | split
    | ((conv in State.mk _ _ _ _ _ _ _ _ _ _ _ _ _ _ _ _ _ _ _ _ _ _ _ _ _ => skip); with_reducible apply Frame.upd)
    | with_reducible exact .inr rfl
    | exact .inl (Part.sub_has _ hfm (by decide))
    | exact .inl ⟨Part.sub_has _ hfm (by decide), fun h => h⟩
    | exact .inl ⟨Part.sub_has _ hfm (by decide), fun h => by simpa only [List.length_set, List.length_map, List.length_zipIdx] using h⟩

theorem moveTile_frame {fm : List Part} {b0 : State} (k : Nat) (s : State) (site : Nat)
    (hfr : Frame fm b0 s) (hfm : Part.sub [.regs, .tiles, .reports, .stk, .log] fm = true) : Frame fm b0 (moveTile k s site) := by
  unfold moveTile
  repeat' first
    | with_reducible assumption
    | exact Part.sub_trans (by decide) hfm
    | with_reducible intro _
    | (extract_lets +onlyGivenNames x; refine (fun hx => ?_ : (Frame fm b0 x) → _) ?_; (on_goal 2 => unfold x); all_goals clear_value x)
    | (extract_lets +onlyGivenNames x; refine (fun hx => ?_ : (Frame fm b0 x.1) → _) ?_; (on_goal 2 => unfold x); all_goals clear_value x)
    | (extract_lets +onlyGivenNames x; refine (fun hx => ?_ : (tileSafe x = true) → _) ?_; (on_goal 2 => unfold x); all_goals clear_value x)
    | (extract_lets +onlyGivenNames x; refine (fun hx => ?_ : (tileSafe x.1 = true) → _) ?_; (on_goal 2 => unfold x); all_goals clear_value x)
    | (extract_lets +onlyGivenNames x; refine (fun hx => ?_ : (FrameOpt fm b0 x) → _) ?_; (on_goal 2 => unfold x); all_goals clear_value x)
    | (extract_lets +onlyGivenNames x; refine (fun hx => ?_ : (Frame fm b0 x.st) → _) ?_; (on_goal 2 => unfold x); all_goals clear_value x)
    | extract_lets +onlyGivenNames x
    | with_reducible apply changeSite_frame
    | with_reducible apply restartHands_frame
    | with_reducible apply applyTrims_safe
    | with_reducible apply Frame.ite
    | split
    | (extract_lets +onlyGivenNames x; refine (fun hx => ?_ : (SafeParts b0 → tileSafe x = true) → _) ?_; (on_goal 2 => unfold x); all_goals clear_value x)
    | (extract_lets +onlyGivenNames x; refine (fun hx => ?_ : (SafeParts b0 → tileSafe x.1 = true) → _) ?_; (on_goal 2 => unfold x); all_goals clear_value x)
    | (refine SafeParts.tileAt (Frame.safe (m := fm) ?_ ‹SafeParts b0›) _ _)
    | with_reducible exact (‹SafeParts _ → tileSafe _ = true› ‹_›)
    | with_reducible exact .inl rfl

theorem moveReference_frame {fm : List Part} {b0 : State} (k : Nat) (s : State) (i : Nat) (free : Bool)
    (hfr : Frame fm b0 s) (hfm : Part.sub [.regs, .stk] fm = true) : Frame fm b0 (moveReference k s i free) := by
  unfold moveReference
  repeat' first
    | with_reducible assumption
    | exact Part.sub_trans (by decide) hfm
    | with_reducible intro _
    | (extract_lets +onlyGivenNames x; refine (fun hx => ?_ : (Frame fm b0 x) → _) ?_; (on_goal 2 => unfold x); all_goals clear_value x)
    | (extract_lets +onlyGivenNames x; refine (fun hx => ?_ : (Frame fm b0 x.1) → _) ?_; (on_goal 2 => unfold x); all_goals clear_value x)
    | (extract_lets +onlyGivenNames x; refine (fun hx => ?_ : (tileSafe x = true) → _) ?_; (on_goal 2 => unfold x); all_goals clear_value x)
    | (extract_lets +onlyGivenNames x; refine (fun hx => ?_ : (tileSafe x.1 = true) → _) ?_; (on_goal 2 => unfold x); all_goals clear_value x)
    | (extract_lets +onlyGivenNames x; refine (fun hx => ?_ : (FrameOpt fm b0 x) → _) ?_; (on_goal 2 => unfold x); all_goals clear_value x)
    | (extract_lets +onlyGivenNames x; refine (fun hx => ?_ : (Frame fm b0 x.st) → _) ?_; (on_goal 2 => unfold x); all_goals clear_value x)
    | extract_lets +onlyGivenNames x
    | with_reducible apply restartHands_frame
    | with_reducible apply putStk_frame
    | with_reducible apply Frame.foldl
    | with_reducible apply Frame.foldlFst
    | with_reducible apply Frame.ite
    | split
    | ((conv in State.mk _ _ _ _ _ _ _ _ _ _ _ _ _ _ _ _ _ _ _ _ _ _ _ _ _ => skip); with_reducible apply Frame.upd)
    | with_reducible exact .inr rfl
    | exact .inl (Part.sub_has _ hfm (by decide))
    | exact .inl ⟨Part.sub_has _ hfm (by decide), fun h => h⟩
    | exact .inl ⟨Part.sub_has _ hfm (by decide), fun h => by simpa only [List.length_set, List.length_map, List.length_zipIdx] using h⟩
    | exact .inl ⟨Part.sub_has _ hfm (by decide), fun h => mapSet_wf _ _ _ _ h⟩

theorem moveTrims_frame {fm : List Part} {b0 : State} (s : State) (k : Nat)
    (hfr : Frame fm b0 s) (hfm : Part.sub [.regs, .tiles, .reports, .stk, .log] fm = true) : Frame fm b0 (moveTrims s k) := by
  unfold moveTrims
  repeat' first
    | with_reducible assumption
    | exact Part.sub_trans (by decide) hfm
    | with_reducible intro _
    | extract_lets +onlyGivenNames x
    | with_reducible apply moveReference_frame
    | with_reducible apply moveTile_frame
    | with_reducible apply takeTargets_frame
    | with_reducible apply Frame.foldl
    | with_reducible apply Frame.ite

theorem sextantBoundary_frame {fm : List Part} {b0 : State} (s : State) (k : Nat)
    (hfr : Frame fm b0 s) (hfm : Part.sub [.regs, .tiles, .reports, .stk, .log] fm = true) : Frame fm b0 (sextantBoundary s k) := by
  unfold sextantBoundary
  repeat' first
    | with_reducible assumption
    | exact Part.sub_trans (by decide) hfm
    | with_reducible intro _
    | (extract_lets +onlyGivenNames x; refine (fun hx => ?_ : (Frame fm b0 x) → _) ?_; (on_goal 2 => unfold x); all_goals clear_value x)
    | (extract_lets +onlyGivenNames x; refine (fun hx => ?_ : (Frame fm b0 x.1) → _) ?_; (on_goal 2 => unfold x); all_goals clear_value x)
    | (extract_lets +onlyGivenNames x; refine (fun hx => ?_ : (tileSafe x = true) → _) ?_; (on_goal 2 => unfold x); all_goals clear_value x)
    | (extract_lets +onlyGivenNames x; refine (fun hx => ?_ : (tileSafe x.1 = true) → _) ?_; (on_goal 2 => unfold x); all_goals clear_value x)
    | (extract_lets +onlyGivenNames x; refine (fun hx => ?_ : (FrameOpt fm b0 x) → _) ?_; (on_goal 2 => unfold x); all_goals clear_value x)
    | (extract_lets +onlyGivenNames x; refine (fun hx => ?_ : (Frame fm b0 x.st) → _) ?_; (on_goal 2 => unfold x); all_goals clear_value x)
    | extract_lets +onlyGivenNames x
    | with_reducible apply putStk_frame
    | with_reducible apply showSextant_frame
    | with_reducible apply restartPass_frame
    | with_reducible apply moveTrims_frame
    | with_reducible apply rbump_frame
    | with_reducible apply Frame.ite
    | split
    | ((conv in State.mk _ _ _ _ _ _ _ _ _ _ _ _ _ _ _ _ _ _ _ _ _ _ _ _ _ => skip); with_reducible apply Frame.upd)
    | with_reducible exact .inr rfl
    | exact .inl (Part.sub_has _ hfm (by decide))
    | exact .inl ⟨Part.sub_has _ hfm (by decide), fun h => h⟩
    | exact .inl ⟨Part.sub_has _ hfm (by decide), fun h => by simpa only [List.length_set, List.length_map, List.length_zipIdx] using h⟩

theorem chooseTable_frame {fm : List Part} {b0 : State} (s : State) (k : Nat)
    (hfr : Frame fm b0 s) (hfm : Part.sub [.regs, .stk] fm = true) : Frame fm b0 (chooseTable s k) := by
  unfold chooseTable
  repeat' first
    | with_reducible assumption
    | exact Part.sub_trans (by decide) hfm
    | with_reducible intro _
    | (extract_lets +onlyGivenNames x; refine (fun hx => ?_ : (Frame fm b0 x) → _) ?_; (on_goal 2 => unfold x); all_goals clear_value x)
    | (extract_lets +onlyGivenNames x; refine (fun hx => ?_ : (Frame fm b0 x.1) → _) ?_; (on_goal 2 => unfold x); all_goals clear_value x)
    | (extract_lets +onlyGivenNames x; refine (fun hx => ?_ : (tileSafe x = true) → _) ?_; (on_goal 2 => unfold x); all_goals clear_value x)
    | (extract_lets +onlyGivenNames x; refine (fun hx => ?_ : (tileSafe x.1 = true) → _) ?_; (on_goal 2 => unfold x); all_goals clear_value x)
    | (extract_lets +onlyGivenNames x; refine (fun hx => ?_ : (FrameOpt fm b0 x) → _) ?_; (on_goal 2 => unfold x); all_goals clear_value x)
    | (extract_lets +onlyGivenNames x; refine (fun hx => ?_ : (Frame fm b0 x.st) → _) ?_; (on_goal 2 => unfold x); all_goals clear_value x)
    | extract_lets +onlyGivenNames x
    | with_reducible apply rput_frame
    | with_reducible apply putStk_frame
    | with_reducible apply Frame.ite
    | (with_reducible refine Frame.ofPair ‹_ = (_, _)› ?_)
    | split
    | ((conv in State.mk _ _ _ _ _ _ _ _ _ _ _ _ _ _ _ _ _ _ _ _ _ _ _ _ _ => skip); with_reducible apply Frame.upd)
    | with_reducible exact .inr rfl
    | exact .inl (Part.sub_has _ hfm (by decide))
    | exact .inl ⟨Part.sub_has _ hfm (by decide), fun h => h⟩
    | exact .inl ⟨Part.sub_has _ hfm (by decide), fun h => by simpa only [List.length_set, List.length_map, List.length_zipIdx] using h⟩

theorem loadTable_frame {fm : List Part} {b0 : State} (s : State) (k : Nat)
    (hfr : Frame fm b0 s) (hfm : Part.sub [.stk] fm = true) : Frame fm b0 (loadTable s k) := by
  unfold loadTable
  repeat' first
    | with_reducible assumption
    | exact Part.sub_trans (by decide) hfm
    | with_reducible intro _
    | (extract_lets +onlyGivenNames x; refine (fun hx => ?_ : (Frame fm b0 x) → _) ?_; (on_goal 2 => unfold x); all_goals clear_value x)
    | (extract_lets +onlyGivenNames x; refine (fun hx => ?_ : (Frame fm b0 x.1) → _) ?_; (on_goal 2 => unfold x); all_goals clear_value x)
    | (extract_lets +onlyGivenNames x; refine (fun hx => ?_ : (tileSafe x = true) → _) ?_; (on_goal 2 => unfold x); all_goals clear_value x)
    | (extract_lets +onlyGivenNames x; refine (fun hx => ?_ : (tileSafe x.1 = true) → _) ?_; (on_goal 2 => unfold x); all_goals clear_value x)
    | (extract_lets +onlyGivenNames x; refine (fun hx => ?_ : (FrameOpt fm b0 x) → _) ?_; (on_goal 2 => unfold x); all_goals clear_value x)
    | (extract_lets +onlyGivenNames x; refine (fun hx => ?_ : (Frame fm b0 x.st) → _) ?_; (on_goal 2 => unfold x); all_goals clear_value x)
    | extract_lets +onlyGivenNames x
    | with_reducible apply putStk_frame
    | with_reducible apply Frame.ite
    | (with_reducible refine Frame.ofPair ‹_ = (_, _)› ?_)
    | split
    | ((conv in State.mk _ _ _ _ _ _ _ _ _ _ _ _ _ _ _ _ _ _ _ _ _ _ _ _ _ => skip); with_reducible apply Frame.upd)
    | with_reducible exact .inr rfl
    | exact .inl (Part.sub_has _ hfm (by decide))
    | exact .inl ⟨Part.sub_has _ hfm (by decide), fun h => h⟩
    | exact .inl ⟨Part.sub_has _ hfm (by decide), fun h => by simpa only [List.length_set, List.length_map, List.length_zipIdx] using h⟩

theorem writeFixReq_frame {fm : List Part} {b0 : State} (s : State) (k : Nat)
    (hfr : Frame fm b0 s) (hfm : Part.sub [.regs, .tiles, .stk, .pwr] fm = true) : Frame fm b0 (writeFixReq s k) := by
  unfold writeFixReq
  repeat' first
    | with_reducible assumption
    | exact Part.sub_trans (by decide) hfm
    | extract_lets +onlyGivenNames x
    | with_reducible apply trigger_frame
    | with_reducible apply rset_frame
    | with_reducible apply Frame.ite

theorem execFixReq_frame {fm : List Part} {b0 : State} (k : BitVec 3) (s : State)
    (hfr : Frame fm b0 s) (hfm : Part.sub [.regs, .tiles, .stk, .pwr] fm = true) : FrameOut fm b0 (execFixReq k s) := by
  unfold execFixReq
  repeat' first
    | with_reducible assumption
    | extract_lets +onlyGivenNames x
    | with_reducible apply FrameOut.next
    | with_reducible apply writeFixReq_frame

theorem execSxtLock_frame {fm : List Part} {b0 : State} (k : BitVec 3) (s : State)
    (hfr : Frame fm b0 s) (hfm : Part.sub [.regs] fm = true) : FrameOut fm b0 (execSxtLock k s) := by
  unfold execSxtLock
  repeat' first
    | with_reducible assumption
    | extract_lets +onlyGivenNames x
    | with_reducible apply FrameOut.next
    | with_reducible apply rset_frame
    | with_reducible apply Frame.ite

theorem openDog_frame {fm : List Part} {b0 : State} (s : State) (k till : Nat)
    (hfr : Frame fm b0 s) (hfm : Part.sub [.stk] fm = true) : Frame fm b0 (openDog s k till) := by
  unfold openDog
  repeat' first
    | with_reducible assumption
    | exact Part.sub_trans (by decide) hfm
    | with_reducible intro _
    | with_reducible apply putSequencer_frame
    | with_reducible apply Frame.foldl
    | with_reducible apply Frame.foldlFst
    | with_reducible apply Frame.ite
    | split
    | ((conv in State.mk _ _ _ _ _ _ _ _ _ _ _ _ _ _ _ _ _ _ _ _ _ _ _ _ _ => skip); with_reducible apply Frame.upd)
    | with_reducible exact .inr rfl
    | exact .inl (Part.sub_has _ hfm (by decide))
    | exact .inl ⟨Part.sub_has _ hfm (by decide), fun h => h⟩
    | exact .inl ⟨Part.sub_has _ hfm (by decide), fun h => by simpa only [List.length_set, List.length_map, List.length_zipIdx] using h⟩
    | ((conv in Tile.mk _ _ _ _ _ _ _ _ _ _ _ _ _ _ _ _ _ _ _ _ _ _ _ _ _ _ _ _ _ _ _ _ _ _ _ _ _ _ _ _ => skip); with_reducible apply tileSafe_upd)
    | with_reducible exact .inl rfl
    | (refine SafeParts.tileAt (Frame.safe (m := fm) ?_ ‹SafeParts b0›) _ _)
    | with_reducible exact (‹SafeParts _ → tileSafe _ = true› ‹_›)

theorem execDogSlot_frame {fm : List Part} {b0 : State} (k : BitVec 3) (s : State)
    (hfr : Frame fm b0 s) (hfm : Part.sub [.cyc, .tick, .tfrac, .tiles, .stk, .pwr] fm = true) : FrameOut fm b0 (execDogSlot k s) := by
  unfold execDogSlot
  repeat' first
    | with_reducible assumption
    | exact Part.sub_trans (by decide) hfm
    | with_reducible intro _
    | (extract_lets +onlyGivenNames x; refine (fun hx => ?_ : (Frame fm b0 x) → _) ?_; (on_goal 2 => unfold x); all_goals clear_value x)
    | (extract_lets +onlyGivenNames x; refine (fun hx => ?_ : (Frame fm b0 x.1) → _) ?_; (on_goal 2 => unfold x); all_goals clear_value x)
    | (extract_lets +onlyGivenNames x; refine (fun hx => ?_ : (tileSafe x = true) → _) ?_; (on_goal 2 => unfold x); all_goals clear_value x)
    | (extract_lets +onlyGivenNames x; refine (fun hx => ?_ : (tileSafe x.1 = true) → _) ?_; (on_goal 2 => unfold x); all_goals clear_value x)
    | (extract_lets +onlyGivenNames x; refine (fun hx => ?_ : (FrameOpt fm b0 x) → _) ?_; (on_goal 2 => unfold x); all_goals clear_value x)
    | (extract_lets +onlyGivenNames x; refine (fun hx => ?_ : (Frame fm b0 x.st) → _) ?_; (on_goal 2 => unfold x); all_goals clear_value x)
    | extract_lets +onlyGivenNames x
    | with_reducible apply FrameOut.next
    | with_reducible apply elapseTo_frame
    | with_reducible apply putStk_frame
    | with_reducible apply wakeSites_frame
    | with_reducible apply pickSight_frame
    | with_reducible apply openDog_frame
    | with_reducible apply Frame.ite
    | (with_reducible refine Frame.ofPair ‹_ = (_, _)› ?_)
    | split
    | ((conv in State.mk _ _ _ _ _ _ _ _ _ _ _ _ _ _ _ _ _ _ _ _ _ _ _ _ _ => skip); with_reducible apply Frame.upd)
    | with_reducible exact .inr rfl
    | exact .inl (Part.sub_has _ hfm (by decide))
    | exact .inl ⟨Part.sub_has _ hfm (by decide), fun h => h⟩
    | exact .inl ⟨Part.sub_has _ hfm (by decide), fun h => by simpa only [List.length_set, List.length_map, List.length_zipIdx] using h⟩

theorem useIdle_frame {fm : List Part} {b0 : State} (s : State) (r : TileRef) (site : Nat)
    (hfr : Frame fm b0 s) (hfm : Part.sub [.cyc, .tick, .tfrac, .regs, .tiles, .stk] fm = true) : Frame fm b0 (useIdle s r site) := by
  unfold useIdle
  repeat' first
    | with_reducible assumption
    | exact Part.sub_trans (by decide) hfm
    | with_reducible intro _
    | (extract_lets +onlyGivenNames x; refine (fun hx => ?_ : (Frame fm b0 x) → _) ?_; (on_goal 2 => unfold x); all_goals clear_value x)
    | (extract_lets +onlyGivenNames x; refine (fun hx => ?_ : (Frame fm b0 x.1) → _) ?_; (on_goal 2 => unfold x); all_goals clear_value x)
    | (extract_lets +onlyGivenNames x; refine (fun hx => ?_ : (SafeParts b0 → tileSafe x = true) → _) ?_; (on_goal 2 => unfold x); all_goals clear_value x)
    | (extract_lets +onlyGivenNames x; refine (fun hx => ?_ : (SafeParts b0 → tileSafe x.1 = true) → _) ?_; (on_goal 2 => unfold x); all_goals clear_value x)
    | (extract_lets +onlyGivenNames x; refine (fun hx => ?_ : (FrameOpt fm b0 x) → _) ?_; (on_goal 2 => unfold x); all_goals clear_value x)
    | (extract_lets +onlyGivenNames x; refine (fun hx => ?_ : (Frame fm b0 x.st) → _) ?_; (on_goal 2 => unfold x); all_goals clear_value x)
    | extract_lets +onlyGivenNames x
    | with_reducible apply pickSight_frame
    | with_reducible apply elapseTo_frame
    | with_reducible apply rbump_frame
    | with_reducible apply putSequencer_frame
    | with_reducible apply settle_safe
    | with_reducible apply Frame.ite
    | (with_reducible refine Frame.ofPair ‹_ = (_, _)› ?_)
    | split
    | ((conv in State.mk _ _ _ _ _ _ _ _ _ _ _ _ _ _ _ _ _ _ _ _ _ _ _ _ _ => skip); with_reducible apply Frame.upd)
    | with_reducible exact .inr rfl
    | exact .inl (Part.sub_has _ hfm (by decide))
    | exact .inl ⟨Part.sub_has _ hfm (by decide), fun h => h⟩
    | exact .inl ⟨Part.sub_has _ hfm (by decide), fun h => by simpa only [List.length_set, List.length_map, List.length_zipIdx] using h⟩
    | ((conv in Tile.mk _ _ _ _ _ _ _ _ _ _ _ _ _ _ _ _ _ _ _ _ _ _ _ _ _ _ _ _ _ _ _ _ _ _ _ _ _ _ _ _ => skip); with_reducible apply tileSafe_upd)
    | with_reducible exact .inl rfl
    | (refine SafeParts.tileAt (Frame.safe (m := fm) ?_ ‹SafeParts b0›) _ _)
    | with_reducible exact (‹SafeParts _ → tileSafe _ = true› ‹_›)

theorem execIdleCycle_frame {fm : List Part} {b0 : State} (r : TileRef) (s : State)
    (hfr : Frame fm b0 s) (hfm : Part.sub [.cyc, .tick, .tfrac, .regs, .tiles, .stk, .pwr] fm = true) : FrameOut fm b0 (execIdleCycle r s) := by
  unfold execIdleCycle
  repeat' first
    | with_reducible assumption
    | exact Part.sub_trans (by decide) hfm
    | with_reducible intro _
    | (extract_lets +onlyGivenNames x; refine (fun hx => ?_ : (Frame fm b0 x) → _) ?_; (on_goal 2 => unfold x); all_goals clear_value x)
    | (extract_lets +onlyGivenNames x; refine (fun hx => ?_ : (Frame fm b0 x.1) → _) ?_; (on_goal 2 => unfold x); all_goals clear_value x)
    | (extract_lets +onlyGivenNames x; refine (fun hx => ?_ : (SafeParts b0 → tileSafe x = true) → _) ?_; (on_goal 2 => unfold x); all_goals clear_value x)
    | (extract_lets +onlyGivenNames x; refine (fun hx => ?_ : (SafeParts b0 → tileSafe x.1 = true) → _) ?_; (on_goal 2 => unfold x); all_goals clear_value x)
    | (extract_lets +onlyGivenNames x; refine (fun hx => ?_ : (FrameOpt fm b0 x) → _) ?_; (on_goal 2 => unfold x); all_goals clear_value x)
    | (extract_lets +onlyGivenNames x; refine (fun hx => ?_ : (Frame fm b0 x.st) → _) ?_; (on_goal 2 => unfold x); all_goals clear_value x)
    | extract_lets +onlyGivenNames x
    | with_reducible apply FrameOut.next
    | with_reducible apply askStart_frame
    | with_reducible apply useIdle_frame
    | with_reducible apply Frame.ite
    | (with_reducible refine Frame.ofPair ‹_ = (_, _)› ?_)
    | split
    | ((conv in State.mk _ _ _ _ _ _ _ _ _ _ _ _ _ _ _ _ _ _ _ _ _ _ _ _ _ => skip); with_reducible apply Frame.upd)
    | with_reducible exact .inr rfl
    | exact .inl (Part.sub_has _ hfm (by decide))
    | exact .inl ⟨Part.sub_has _ hfm (by decide), fun h => h⟩
    | exact .inl ⟨Part.sub_has _ hfm (by decide), fun h => by simpa only [List.length_set, List.length_map, List.length_zipIdx] using h⟩
    | ((conv in Tile.mk _ _ _ _ _ _ _ _ _ _ _ _ _ _ _ _ _ _ _ _ _ _ _ _ _ _ _ _ _ _ _ _ _ _ _ _ _ _ _ _ => skip); with_reducible apply tileSafe_upd)
    | with_reducible exact .inl rfl
    | (refine SafeParts.tileAt (Frame.safe (m := fm) ?_ ‹SafeParts b0›) _ _)
    | with_reducible exact (‹SafeParts _ → tileSafe _ = true› ‹_›)

theorem finishGroup_frame {fm : List Part} {b0 : State} (s : State) (k site : Nat) (fix : Bool) (g : Nat)
    (hfr : Frame fm b0 s) (hfm : Part.sub [.regs, .tiles, .stk] fm = true) : Frame fm b0 (finishGroup s k site fix g) := by
  unfold finishGroup
  repeat' first
    | with_reducible assumption
    | exact Part.sub_trans (by decide) hfm
    | with_reducible intro _
    | (extract_lets +onlyGivenNames x; refine (fun hx => ?_ : (Frame fm b0 x) → _) ?_; (on_goal 2 => unfold x); all_goals clear_value x)
    | (extract_lets +onlyGivenNames x; refine (fun hx => ?_ : (Frame fm b0 x.1) → _) ?_; (on_goal 2 => unfold x); all_goals clear_value x)
    | (extract_lets +onlyGivenNames x; refine (fun hx => ?_ : (tileSafe x = true) → _) ?_; (on_goal 2 => unfold x); all_goals clear_value x)
    | (extract_lets +onlyGivenNames x; refine (fun hx => ?_ : (tileSafe x.1 = true) → _) ?_; (on_goal 2 => unfold x); all_goals clear_value x)
    | (extract_lets +onlyGivenNames x; refine (fun hx => ?_ : (FrameOpt fm b0 x) → _) ?_; (on_goal 2 => unfold x); all_goals clear_value x)
    | (extract_lets +onlyGivenNames x; refine (fun hx => ?_ : (Frame fm b0 x.st) → _) ?_; (on_goal 2 => unfold x); all_goals clear_value x)
    | extract_lets +onlyGivenNames x
    | with_reducible apply advanceDemand_frame
    | with_reducible apply restartPass_frame
    | with_reducible apply putStk_frame
    | with_reducible apply pickSight_frame
    | with_reducible apply Frame.ite
    | (with_reducible refine Frame.ofPair ‹_ = (_, _)› ?_)
    | split
    | ((conv in State.mk _ _ _ _ _ _ _ _ _ _ _ _ _ _ _ _ _ _ _ _ _ _ _ _ _ => skip); with_reducible apply Frame.upd)
    | with_reducible exact .inr rfl
    | exact .inl (Part.sub_has _ hfm (by decide))
    | exact .inl ⟨Part.sub_has _ hfm (by decide), fun h => h⟩
    | exact .inl ⟨Part.sub_has _ hfm (by decide), fun h => by simpa only [List.length_set, List.length_map, List.length_zipIdx] using h⟩
    | exact .inl ⟨Part.sub_has _ hfm (by decide), fun h => mapSet_wf _ _ _ _ h⟩

theorem driveCal_frame {fm : List Part} {b0 : State} (s : State) (k site g : Nat)
    (hfr : Frame fm b0 s) (hfm : Part.sub [.tiles, .free] fm = true) : Frame fm b0 (driveCal s k site g) := by
  unfold driveCal
  repeat' first
    | with_reducible assumption
    | exact Part.sub_trans (by decide) hfm
    | with_reducible intro _
    | (extract_lets +onlyGivenNames x; refine (fun hx => ?_ : (Frame fm b0 x) → _) ?_; (on_goal 2 => unfold x); all_goals clear_value x)
    | (extract_lets +onlyGivenNames x; refine (fun hx => ?_ : (Frame fm b0 x.1) → _) ?_; (on_goal 2 => unfold x); all_goals clear_value x)
    | (extract_lets +onlyGivenNames x; refine (fun hx => ?_ : (SafeParts b0 → tileSafe x = true) → _) ?_; (on_goal 2 => unfold x); all_goals clear_value x)
    | (extract_lets +onlyGivenNames x; refine (fun hx => ?_ : (SafeParts b0 → tileSafe x.1 = true) → _) ?_; (on_goal 2 => unfold x); all_goals clear_value x)
    | (extract_lets +onlyGivenNames x; refine (fun hx => ?_ : (FrameOpt fm b0 x) → _) ?_; (on_goal 2 => unfold x); all_goals clear_value x)
    | (extract_lets +onlyGivenNames x; refine (fun hx => ?_ : (Frame fm b0 x.st) → _) ?_; (on_goal 2 => unfold x); all_goals clear_value x)
    | extract_lets +onlyGivenNames x
    | with_reducible apply putTile_frame
    | with_reducible apply Frame.ite
    | split
    | ((conv in State.mk _ _ _ _ _ _ _ _ _ _ _ _ _ _ _ _ _ _ _ _ _ _ _ _ _ => skip); with_reducible apply Frame.upd)
    | with_reducible exact .inr rfl
    | exact .inl (Part.sub_has _ hfm (by decide))
    | exact .inl ⟨Part.sub_has _ hfm (by decide), fun h => h⟩
    | exact .inl ⟨Part.sub_has _ hfm (by decide), fun h => by simpa only [List.length_set, List.length_map, List.length_zipIdx] using h⟩
    | ((conv in Tile.mk _ _ _ _ _ _ _ _ _ _ _ _ _ _ _ _ _ _ _ _ _ _ _ _ _ _ _ _ _ _ _ _ _ _ _ _ _ _ _ _ => skip); with_reducible apply tileSafe_upd)
    | with_reducible exact .inl rfl
    | (refine SafeParts.tileAt (Frame.safe (m := fm) ?_ ‹SafeParts b0›) _ _)
    | with_reducible exact (‹SafeParts _ → tileSafe _ = true› ‹_›)

theorem groupResult_frame {fm : List Part} {b0 : State} (s : State) (k site : Nat) (fix : Bool) (g : Nat) (dropped : List Bool) (r : GroupResult)
    (hfr : Frame fm b0 s) (hfm : Part.sub [.regs, .tiles, .free, .stk, .log] fm = true) : Frame fm b0 (groupResult s k site fix g dropped r) := by
  unfold groupResult
  repeat' first
    | with_reducible assumption
    | exact Part.sub_trans (by decide) hfm
    | with_reducible intro _
    | (extract_lets +onlyGivenNames x; refine (fun hx => ?_ : (Frame fm b0 x) → _) ?_; (on_goal 2 => unfold x); all_goals clear_value x)
    | (extract_lets +onlyGivenNames x; refine (fun hx => ?_ : (Frame fm b0 x.1) → _) ?_; (on_goal 2 => unfold x); all_goals clear_value x)
    | (extract_lets +onlyGivenNames x; refine (fun hx => ?_ : (SafeParts b0 → tileSafe x = true) → _) ?_; (on_goal 2 => unfold x); all_goals clear_value x)
    | (extract_lets +onlyGivenNames x; refine (fun hx => ?_ : (SafeParts b0 → tileSafe x.1 = true) → _) ?_; (on_goal 2 => unfold x); all_goals clear_value x)
    | (extract_lets +onlyGivenNames x; refine (fun hx => ?_ : (FrameOpt fm b0 x) → _) ?_; (on_goal 2 => unfold x); all_goals clear_value x)
    | (extract_lets +onlyGivenNames x; refine (fun hx => ?_ : (Frame fm b0 x.st) → _) ?_; (on_goal 2 => unfold x); all_goals clear_value x)
    | extract_lets +onlyGivenNames x
    | with_reducible apply writeTargets_frame
    | with_reducible apply driveCal_frame
    | with_reducible apply takeResult_frame
    | with_reducible apply finishGroup_frame
    | with_reducible apply pendDemotion_frame
    | with_reducible apply putTile_frame
    | with_reducible apply Frame.ite
    | split
    | ((conv in State.mk _ _ _ _ _ _ _ _ _ _ _ _ _ _ _ _ _ _ _ _ _ _ _ _ _ => skip); with_reducible apply Frame.upd)
    | with_reducible exact .inr rfl
    | exact .inl (Part.sub_has _ hfm (by decide))
    | exact .inl ⟨Part.sub_has _ hfm (by decide), fun h => h⟩
    | exact .inl ⟨Part.sub_has _ hfm (by decide), fun h => by simpa only [List.length_set, List.length_map, List.length_zipIdx] using h⟩
    | ((conv in Tile.mk _ _ _ _ _ _ _ _ _ _ _ _ _ _ _ _ _ _ _ _ _ _ _ _ _ _ _ _ _ _ _ _ _ _ _ _ _ _ _ _ => skip); with_reducible apply tileSafe_upd)
    | with_reducible exact .inl rfl
    | (refine SafeParts.tileAt (Frame.safe (m := fm) ?_ ‹SafeParts b0›) _ _)
    | with_reducible exact (‹SafeParts _ → tileSafe _ = true› ‹_›)

theorem referencesDone_frame {fm : List Part} {b0 : State} (s : State) (k : Nat) (ts : List (Nat × Int))
    (hfr : Frame fm b0 s) (hfm : Part.sub [.cyc, .tick, .tfrac, .regs, .tiles, .stk] fm = true) : Frame fm b0 (referencesDone s k ts) := by
  unfold referencesDone
  repeat' first
    | with_reducible assumption
    | exact Part.sub_trans (by decide) hfm
    | with_reducible intro _
    | (extract_lets +onlyGivenNames x; refine (fun hx => ?_ : (Frame fm b0 x) → _) ?_; (on_goal 2 => unfold x); all_goals clear_value x)
    | (extract_lets +onlyGivenNames x; refine (fun hx => ?_ : (Frame fm b0 x.1) → _) ?_; (on_goal 2 => unfold x); all_goals clear_value x)
    | (extract_lets +onlyGivenNames x; refine (fun hx => ?_ : (tileSafe x = true) → _) ?_; (on_goal 2 => unfold x); all_goals clear_value x)
    | (extract_lets +onlyGivenNames x; refine (fun hx => ?_ : (tileSafe x.1 = true) → _) ?_; (on_goal 2 => unfold x); all_goals clear_value x)
    | (extract_lets +onlyGivenNames x; refine (fun hx => ?_ : (FrameOpt fm b0 x) → _) ?_; (on_goal 2 => unfold x); all_goals clear_value x)
    | (extract_lets +onlyGivenNames x; refine (fun hx => ?_ : (Frame fm b0 x.st) → _) ?_; (on_goal 2 => unfold x); all_goals clear_value x)
    | extract_lets +onlyGivenNames x
    | with_reducible apply writeReferences_frame
    | with_reducible apply elapseTo_frame
    | with_reducible apply putStk_frame
    | with_reducible apply showSextant_frame
    | with_reducible apply takeTargets_frame
    | with_reducible apply Frame.ite
    | (with_reducible refine Frame.ofPair ‹_ = (_, _)› ?_)
    | split
    | ((conv in State.mk _ _ _ _ _ _ _ _ _ _ _ _ _ _ _ _ _ _ _ _ _ _ _ _ _ => skip); with_reducible apply Frame.upd)
    | with_reducible exact .inr rfl
    | exact .inl (Part.sub_has _ hfm (by decide))
    | exact .inl ⟨Part.sub_has _ hfm (by decide), fun h => h⟩
    | exact .inl ⟨Part.sub_has _ hfm (by decide), fun h => by simpa only [List.length_set, List.length_map, List.length_zipIdx] using h⟩

theorem siteGroup_frame {fm : List Part} {b0 : State} (s : State) (k site g : Nat) (fix : Bool) (r : GroupResult)
    (hfr : Frame fm b0 s) (hfm : Part.sub [.cyc, .tick, .tfrac, .regs, .tiles, .free, .stk, .log] fm = true) : Frame fm b0 (siteGroup s k site g fix r) := by
  unfold siteGroup
  repeat' first
    | with_reducible assumption
    | exact Part.sub_trans (by decide) hfm
    | with_reducible intro _
    | (extract_lets +onlyGivenNames x; refine (fun hx => ?_ : (Frame fm b0 x) → _) ?_; (on_goal 2 => unfold x); all_goals clear_value x)
    | (extract_lets +onlyGivenNames x; refine (fun hx => ?_ : (Frame fm b0 x.1) → _) ?_; (on_goal 2 => unfold x); all_goals clear_value x)
    | (extract_lets +onlyGivenNames x; refine (fun hx => ?_ : (SafeParts b0 → tileSafe x = true) → _) ?_; (on_goal 2 => unfold x); all_goals clear_value x)
    | (extract_lets +onlyGivenNames x; refine (fun hx => ?_ : (SafeParts b0 → tileSafe x.1 = true) → _) ?_; (on_goal 2 => unfold x); all_goals clear_value x)
    | (extract_lets +onlyGivenNames x; refine (fun hx => ?_ : (FrameOpt fm b0 x) → _) ?_; (on_goal 2 => unfold x); all_goals clear_value x)
    | (extract_lets +onlyGivenNames x; refine (fun hx => ?_ : (Frame fm b0 x.st) → _) ?_; (on_goal 2 => unfold x); all_goals clear_value x)
    | extract_lets +onlyGivenNames x
    | with_reducible apply pickSight_frame
    | with_reducible apply spendGroup_frame
    | with_reducible apply showSextant_frame
    | with_reducible apply groupResult_frame
    | with_reducible apply Frame.ite
    | with_reducible apply FrameOpt.none
    | with_reducible apply FrameOpt1.none
    | with_reducible apply FrameOpt.some
    | with_reducible apply FrameOpt1.some
    | with_reducible apply FrameOpt.ite
    | with_reducible apply FrameOpt.foldl
    | with_reducible apply FrameOpt.map
    | (exact (by assumption : FrameOpt fm b0 (some _)) _ rfl)
    | (with_reducible refine FrameOpt.of ‹_ = some _› ?_)
    | (with_reducible refine FrameOpt1.ofPair ‹_ = some _› ?_)
    | (with_reducible refine FrameOpt1.of ‹_ = some _› ?_)
    | (with_reducible refine Frame.ofPair ‹_ = (_, _)› ?_)
    | split
    | ((conv in State.mk _ _ _ _ _ _ _ _ _ _ _ _ _ _ _ _ _ _ _ _ _ _ _ _ _ => skip); with_reducible apply Frame.upd)
    | with_reducible exact .inr rfl
    | exact .inl (Part.sub_has _ hfm (by decide))
    | exact .inl ⟨Part.sub_has _ hfm (by decide), fun h => h⟩
    | exact .inl ⟨Part.sub_has _ hfm (by decide), fun h => by simpa only [List.length_set, List.length_map, List.length_zipIdx] using h⟩
    | ((conv in Tile.mk _ _ _ _ _ _ _ _ _ _ _ _ _ _ _ _ _ _ _ _ _ _ _ _ _ _ _ _ _ _ _ _ _ _ _ _ _ _ _ _ => skip); with_reducible apply tileSafe_upd)
    | with_reducible exact .inl rfl
    | (refine SafeParts.tileAt (Frame.safe (m := fm) ?_ ‹SafeParts b0›) _ _)
    | with_reducible exact (‹SafeParts _ → tileSafe _ = true› ‹_›)

theorem execGroupComplete_frame {fm : List Part} {b0 : State} (k : BitVec 3) (site group : Nat) (fix : Bool) (r : GroupResult) (s : State)
    (hfr : Frame fm b0 s) (hfm : Part.sub [.cyc, .tick, .tfrac, .regs, .tiles, .free, .stk, .log, .pwr] fm = true) : FrameOut fm b0 (execGroupComplete k site group fix r s) := by
  unfold execGroupComplete
  repeat' first
    | with_reducible assumption
    | exact Part.sub_trans (by decide) hfm
    | with_reducible intro _
    | (extract_lets +onlyGivenNames x; refine (fun hx => ?_ : (Frame fm b0 x) → _) ?_; (on_goal 2 => unfold x); all_goals clear_value x)
    | (extract_lets +onlyGivenNames x; refine (fun hx => ?_ : (Frame fm b0 x.1) → _) ?_; (on_goal 2 => unfold x); all_goals clear_value x)
    | (extract_lets +onlyGivenNames x; refine (fun hx => ?_ : (SafeParts b0 → tileSafe x = true) → _) ?_; (on_goal 2 => unfold x); all_goals clear_value x)
    | (extract_lets +onlyGivenNames x; refine (fun hx => ?_ : (SafeParts b0 → tileSafe x.1 = true) → _) ?_; (on_goal 2 => unfold x); all_goals clear_value x)
    | (extract_lets +onlyGivenNames x; refine (fun hx => ?_ : (FrameOpt fm b0 x) → _) ?_; (on_goal 2 => unfold x); all_goals clear_value x)
    | (extract_lets +onlyGivenNames x; refine (fun hx => ?_ : (Frame fm b0 x.st) → _) ?_; (on_goal 2 => unfold x); all_goals clear_value x)
    | extract_lets +onlyGivenNames x
    | with_reducible apply FrameOut.next
    | with_reducible apply referencesDone_frame
    | with_reducible apply askStart_frame
    | with_reducible apply siteGroup_frame
    | with_reducible apply Frame.ite
    | (with_reducible refine Frame.ofPair ‹_ = (_, _)› ?_)
    | split
    | ((conv in State.mk _ _ _ _ _ _ _ _ _ _ _ _ _ _ _ _ _ _ _ _ _ _ _ _ _ => skip); with_reducible apply Frame.upd)
    | with_reducible exact .inr rfl
    | exact .inl (Part.sub_has _ hfm (by decide))
    | exact .inl ⟨Part.sub_has _ hfm (by decide), fun h => h⟩
    | exact .inl ⟨Part.sub_has _ hfm (by decide), fun h => by simpa only [List.length_set, List.length_map, List.length_zipIdx] using h⟩
    | ((conv in Tile.mk _ _ _ _ _ _ _ _ _ _ _ _ _ _ _ _ _ _ _ _ _ _ _ _ _ _ _ _ _ _ _ _ _ _ _ _ _ _ _ _ => skip); with_reducible apply tileSafe_upd)
    | with_reducible exact .inl rfl
    | (refine SafeParts.tileAt (Frame.safe (m := fm) ?_ ‹SafeParts b0›) _ _)
    | with_reducible exact (‹SafeParts _ → tileSafe _ = true› ‹_›)

theorem stampRecords_frame {fm : List Part} {b0 : State} (s : State) (k : Nat)
    (hfr : Frame fm b0 s) (hfm : Part.sub [.stk] fm = true) : Frame fm b0 (stampRecords s k) := by
  unfold stampRecords
  repeat' first
    | with_reducible assumption
    | with_reducible intro _
    | (extract_lets +onlyGivenNames x; refine (fun hx => ?_ : (Frame fm b0 x) → _) ?_; (on_goal 2 => unfold x); all_goals clear_value x)
    | extract_lets +onlyGivenNames x
    | with_reducible apply putRecord_frame
    | with_reducible apply Frame.foldl

theorem askCommit_frame {fm : List Part} {b0 : State} (s : State) (k : Nat)
    (hfr : Frame fm b0 s) (hfm : Part.sub [.regs, .bnc] fm = true) : Frame fm b0 (askCommit s k) := by
  unfold askCommit
  repeat' first
    | with_reducible assumption
    | exact Part.sub_trans (by decide) hfm
    | with_reducible intro _
    | with_reducible apply showCommit_frame
    | ((conv in State.mk _ _ _ _ _ _ _ _ _ _ _ _ _ _ _ _ _ _ _ _ _ _ _ _ _ => skip); with_reducible apply Frame.upd)
    | with_reducible exact .inr rfl
    | exact .inl (Part.sub_has _ hfm (by decide))
    | exact .inl ⟨Part.sub_has _ hfm (by decide), fun h => h⟩
    | exact .inl ⟨Part.sub_has _ hfm (by decide), fun h => by simpa only [List.length_set, List.length_map, List.length_zipIdx] using h⟩

theorem endPass_frame {fm : List Part} {b0 : State} (s : State) (k : Nat)
    (hfr : Frame fm b0 s) (hfm : Part.sub [.regs, .tiles, .stk, .pwr, .bnc] fm = true) : Frame fm b0 (endPass s k) := by
  unfold endPass
  repeat' first
    | with_reducible assumption
    | exact Part.sub_trans (by decide) hfm
    | with_reducible intro _
    | (extract_lets +onlyGivenNames x; refine (fun hx => ?_ : (Frame fm b0 x) → _) ?_; (on_goal 2 => unfold x); all_goals clear_value x)
    | (extract_lets +onlyGivenNames x; refine (fun hx => ?_ : (Frame fm b0 x.1) → _) ?_; (on_goal 2 => unfold x); all_goals clear_value x)
    | (extract_lets +onlyGivenNames x; refine (fun hx => ?_ : (tileSafe x = true) → _) ?_; (on_goal 2 => unfold x); all_goals clear_value x)
    | (extract_lets +onlyGivenNames x; refine (fun hx => ?_ : (tileSafe x.1 = true) → _) ?_; (on_goal 2 => unfold x); all_goals clear_value x)
    | (extract_lets +onlyGivenNames x; refine (fun hx => ?_ : (FrameOpt fm b0 x) → _) ?_; (on_goal 2 => unfold x); all_goals clear_value x)
    | (extract_lets +onlyGivenNames x; refine (fun hx => ?_ : (Frame fm b0 x.st) → _) ?_; (on_goal 2 => unfold x); all_goals clear_value x)
    | extract_lets +onlyGivenNames x
    | with_reducible apply rput_frame
    | with_reducible apply putStk_frame
    | with_reducible apply stampRecords_frame
    | with_reducible apply rbump_frame
    | with_reducible apply askCommit_frame
    | with_reducible apply showSextant_frame
    | with_reducible apply startPass_frame
    | with_reducible apply Frame.ite
    | (with_reducible refine Frame.ofPair ‹_ = (_, _)› ?_)
    | split
    | ((conv in State.mk _ _ _ _ _ _ _ _ _ _ _ _ _ _ _ _ _ _ _ _ _ _ _ _ _ => skip); with_reducible apply Frame.upd)
    | with_reducible exact .inr rfl
    | exact .inl (Part.sub_has _ hfm (by decide))
    | exact .inl ⟨Part.sub_has _ hfm (by decide), fun h => h⟩
    | exact .inl ⟨Part.sub_has _ hfm (by decide), fun h => by simpa only [List.length_set, List.length_map, List.length_zipIdx] using h⟩

theorem execPassComplete_frame {fm : List Part} {b0 : State} (k : BitVec 3) (s : State)
    (hfr : Frame fm b0 s) (hfm : Part.sub [.regs, .tiles, .stk, .pwr, .bnc] fm = true) : FrameOut fm b0 (execPassComplete k s) := by
  unfold execPassComplete
  repeat' first
    | with_reducible assumption
    | exact Part.sub_trans (by decide) hfm
    | with_reducible intro _
    | (extract_lets +onlyGivenNames x; refine (fun hx => ?_ : (Frame fm b0 x) → _) ?_; (on_goal 2 => unfold x); all_goals clear_value x)
    | (extract_lets +onlyGivenNames x; refine (fun hx => ?_ : (Frame fm b0 x.1) → _) ?_; (on_goal 2 => unfold x); all_goals clear_value x)
    | (extract_lets +onlyGivenNames x; refine (fun hx => ?_ : (tileSafe x = true) → _) ?_; (on_goal 2 => unfold x); all_goals clear_value x)
    | (extract_lets +onlyGivenNames x; refine (fun hx => ?_ : (tileSafe x.1 = true) → _) ?_; (on_goal 2 => unfold x); all_goals clear_value x)
    | (extract_lets +onlyGivenNames x; refine (fun hx => ?_ : (FrameOpt fm b0 x) → _) ?_; (on_goal 2 => unfold x); all_goals clear_value x)
    | (extract_lets +onlyGivenNames x; refine (fun hx => ?_ : (Frame fm b0 x.st) → _) ?_; (on_goal 2 => unfold x); all_goals clear_value x)
    | extract_lets +onlyGivenNames x
    | with_reducible apply FrameOut.next
    | with_reducible apply endPass_frame
    | with_reducible apply Frame.ite
    | split

theorem execAgeingTrigger_frame {fm : List Part} {b0 : State} (k : BitVec 3) (s : State)
    (hfr : Frame fm b0 s) (hfm : Part.sub [.cyc, .tick, .tfrac, .regs, .tiles, .stk, .pwr] fm = true) : FrameOut fm b0 (execAgeingTrigger k s) := by
  unfold execAgeingTrigger
  repeat' first
    | with_reducible assumption
    | exact Part.sub_trans (by decide) hfm
    | (extract_lets +onlyGivenNames x; refine (fun hx => ?_ : (Frame fm b0 x) → _) ?_; (on_goal 2 => unfold x); all_goals clear_value x)
    | extract_lets +onlyGivenNames x
    | with_reducible apply FrameOut.next
    | with_reducible apply trigger_frame
    | with_reducible apply elapseToTick_frame
    | with_reducible apply Frame.ite

theorem askStretch_frame {fm : List Part} {b0 : State} (k : Nat) (s : State) (x : Demand)
    (hfr : Frame fm b0 s) (hfm : Part.sub [.regs, .stk, .log] fm = true) : Frame fm b0 (askStretch k s x) := by
  unfold askStretch
  repeat' first
    | with_reducible assumption
    | exact Part.sub_trans (by decide) hfm
    | extract_lets +onlyGivenNames x
    | with_reducible apply logExtra_frame
    | with_reducible apply putStk_frame
    | with_reducible apply rbump_frame
    | with_reducible apply Frame.ite

theorem execDemandStretch_frame {fm : List Part} {b0 : State} (k : BitVec 3) (s : State)
    (hfr : Frame fm b0 s) (hfm : Part.sub [.regs, .stk, .log] fm = true) : FrameOut fm b0 (execDemandStretch k s) := by
  unfold execDemandStretch
  repeat' first
    | with_reducible assumption
    | exact Part.sub_trans (by decide) hfm
    | with_reducible intro _
    | extract_lets +onlyGivenNames x
    | with_reducible apply FrameOut.next
    | with_reducible apply askStretch_frame
    | with_reducible apply showSextant_frame
    | with_reducible apply Frame.foldl
    | with_reducible apply Frame.ite

theorem keepTrims_frame {fm : List Part} {b0 : State} (s : State) (k site : Nat)
    (hfr : Frame fm b0 s) (hfm : Part.sub [.stk] fm = true) : Frame fm b0 (keepTrims s k site) := by
  unfold keepTrims
  repeat' first
    | with_reducible assumption
    | exact Part.sub_trans (by decide) hfm
    | with_reducible intro _
    | (extract_lets +onlyGivenNames x; refine (fun hx => ?_ : (Frame fm b0 x) → _) ?_; (on_goal 2 => unfold x); all_goals clear_value x)
    | (extract_lets +onlyGivenNames x; refine (fun hx => ?_ : (Frame fm b0 x.1) → _) ?_; (on_goal 2 => unfold x); all_goals clear_value x)
    | (extract_lets +onlyGivenNames x; refine (fun hx => ?_ : (SafeParts b0 → tileSafe x = true) → _) ?_; (on_goal 2 => unfold x); all_goals clear_value x)
    | (extract_lets +onlyGivenNames x; refine (fun hx => ?_ : (SafeParts b0 → tileSafe x.1 = true) → _) ?_; (on_goal 2 => unfold x); all_goals clear_value x)
    | (extract_lets +onlyGivenNames x; refine (fun hx => ?_ : (FrameOpt fm b0 x) → _) ?_; (on_goal 2 => unfold x); all_goals clear_value x)
    | (extract_lets +onlyGivenNames x; refine (fun hx => ?_ : (Frame fm b0 x.st) → _) ?_; (on_goal 2 => unfold x); all_goals clear_value x)
    | extract_lets +onlyGivenNames x
    | with_reducible apply putStk_frame
    | with_reducible apply settle_safe
    | ((conv in State.mk _ _ _ _ _ _ _ _ _ _ _ _ _ _ _ _ _ _ _ _ _ _ _ _ _ => skip); with_reducible apply Frame.upd)
    | with_reducible exact .inr rfl
    | exact .inl (Part.sub_has _ hfm (by decide))
    | exact .inl ⟨Part.sub_has _ hfm (by decide), fun h => h⟩
    | exact .inl ⟨Part.sub_has _ hfm (by decide), fun h => by simpa only [List.length_set, List.length_map, List.length_zipIdx] using h⟩
    | exact .inl ⟨Part.sub_has _ hfm (by decide), fun h => memWrite_wf _ _ _ h⟩
    | ((conv in Tile.mk _ _ _ _ _ _ _ _ _ _ _ _ _ _ _ _ _ _ _ _ _ _ _ _ _ _ _ _ _ _ _ _ _ _ _ _ _ _ _ _ => skip); with_reducible apply tileSafe_upd)
    | with_reducible exact .inl rfl
    | (refine SafeParts.tileAt (Frame.safe (m := fm) ?_ ‹SafeParts b0›) _ _)
    | with_reducible exact (‹SafeParts _ → tileSafe _ = true› ‹_›)

theorem demandAll_frame {fm : List Part} {b0 : State} (s : State) (k site : Nat)
    (hfr : Frame fm b0 s) (hfm : Part.sub [.regs, .stk] fm = true) : Frame fm b0 (demandAll s k site) := by
  unfold demandAll
  repeat' first
    | with_reducible assumption
    | exact Part.sub_trans (by decide) hfm
    | with_reducible intro _
    | (extract_lets +onlyGivenNames x; refine (fun hx => ?_ : (Frame fm b0 x) → _) ?_; (on_goal 2 => unfold x); all_goals clear_value x)
    | (extract_lets +onlyGivenNames x; refine (fun hx => ?_ : (Frame fm b0 x.1) → _) ?_; (on_goal 2 => unfold x); all_goals clear_value x)
    | (extract_lets +onlyGivenNames x; refine (fun hx => ?_ : (tileSafe x = true) → _) ?_; (on_goal 2 => unfold x); all_goals clear_value x)
    | (extract_lets +onlyGivenNames x; refine (fun hx => ?_ : (tileSafe x.1 = true) → _) ?_; (on_goal 2 => unfold x); all_goals clear_value x)
    | (extract_lets +onlyGivenNames x; refine (fun hx => ?_ : (FrameOpt fm b0 x) → _) ?_; (on_goal 2 => unfold x); all_goals clear_value x)
    | (extract_lets +onlyGivenNames x; refine (fun hx => ?_ : (Frame fm b0 x.st) → _) ?_; (on_goal 2 => unfold x); all_goals clear_value x)
    | extract_lets +onlyGivenNames x
    | with_reducible apply putStk_frame
    | with_reducible apply demandGroups_frame
    | with_reducible apply Frame.ite
    | (with_reducible refine Frame.ofPair ‹_ = (_, _)› ?_)
    | split
    | ((conv in State.mk _ _ _ _ _ _ _ _ _ _ _ _ _ _ _ _ _ _ _ _ _ _ _ _ _ => skip); with_reducible apply Frame.upd)
    | with_reducible exact .inr rfl
    | exact .inl (Part.sub_has _ hfm (by decide))
    | exact .inl ⟨Part.sub_has _ hfm (by decide), fun h => h⟩
    | exact .inl ⟨Part.sub_has _ hfm (by decide), fun h => by simpa only [List.length_set, List.length_map, List.length_zipIdx] using h⟩

theorem execTableEccError_frame {fm : List Part} {b0 : State} (k : BitVec 3) (site : Nat) (s : State)
    (hfr : Frame fm b0 s) (hfm : Part.sub [.regs, .stk] fm = true) : FrameOut fm b0 (execTableEccError k site s) := by
  unfold execTableEccError
  repeat' first
    | with_reducible assumption
    | exact Part.sub_trans (by decide) hfm
    | with_reducible intro _
    | (extract_lets +onlyGivenNames x; refine (fun hx => ?_ : (Frame fm b0 x) → _) ?_; (on_goal 2 => unfold x); all_goals clear_value x)
    | (extract_lets +onlyGivenNames x; refine (fun hx => ?_ : (Frame fm b0 x.1) → _) ?_; (on_goal 2 => unfold x); all_goals clear_value x)
    | (extract_lets +onlyGivenNames x; refine (fun hx => ?_ : (tileSafe x = true) → _) ?_; (on_goal 2 => unfold x); all_goals clear_value x)
    | (extract_lets +onlyGivenNames x; refine (fun hx => ?_ : (tileSafe x.1 = true) → _) ?_; (on_goal 2 => unfold x); all_goals clear_value x)
    | (extract_lets +onlyGivenNames x; refine (fun hx => ?_ : (FrameOpt fm b0 x) → _) ?_; (on_goal 2 => unfold x); all_goals clear_value x)
    | (extract_lets +onlyGivenNames x; refine (fun hx => ?_ : (Frame fm b0 x.st) → _) ?_; (on_goal 2 => unfold x); all_goals clear_value x)
    | extract_lets +onlyGivenNames x
    | with_reducible apply FrameOut.next
    | with_reducible apply showSextant_frame
    | with_reducible apply demandAll_frame
    | with_reducible apply keepTrims_frame
    | with_reducible apply Frame.ite
    | split

theorem showOffset_frame {fm : List Part} {b0 : State} (s : State) (o : Int)
    (hfr : Frame fm b0 s) (hfm : Part.sub [.regs] fm = true) : Frame fm b0 (showOffset s o) := by
  unfold showOffset
  repeat' first
    | with_reducible assumption
    | with_reducible apply rput_frame

theorem putStart_frame {fm : List Part} {b0 : State} (s : State) (b : Nat)
    (hfr : Frame fm b0 s) (hfm : Part.sub [.regs] fm = true) : Frame fm b0 (putStart s b) := by
  unfold putStart
  repeat' first
    | with_reducible assumption
    | extract_lets +onlyGivenNames x
    | with_reducible apply rput_frame

theorem stepTick_frame {fm : List Part} {b0 : State} (s : State) (o : Int)
    (hfr : Frame fm b0 s) (hfm : Part.sub [.tick, .regs] fm = true) : Frame fm b0 (stepTick s o) := by
  unfold stepTick
  repeat' first
    | with_reducible assumption
    | exact Part.sub_trans (by decide) hfm
    | extract_lets +onlyGivenNames x
    | with_reducible apply putStart_frame
    | with_reducible apply rput_frame
    | ((conv in State.mk _ _ _ _ _ _ _ _ _ _ _ _ _ _ _ _ _ _ _ _ _ _ _ _ _ => skip); with_reducible apply Frame.upd)
    | with_reducible exact .inr rfl
    | exact .inl (Part.sub_has _ hfm (by decide))

theorem execTimingFrame_frame {fm : List Part} {b0 : State} (l : List TimePair) (s : State)
    (hfr : Frame fm b0 s) (hfm : Part.sub [.tick, .regs] fm = true) : FrameOut fm b0 (execTimingFrame l s) := by
  unfold execTimingFrame
  repeat' first
    | with_reducible assumption
    | exact Part.sub_trans (by decide) hfm
    | extract_lets +onlyGivenNames x
    | with_reducible apply FrameOut.next
    | with_reducible apply stepTick_frame
    | with_reducible apply showOffset_frame
    | with_reducible apply rset_frame
    | split

theorem execOffsetMeasure_frame {fm : List Part} {b0 : State} (t : TimePair) (s : State)
    (hfr : Frame fm b0 s) (hfm : Part.sub [.regs, .chr] fm = true) : FrameOut fm b0 (execOffsetMeasure t s) := by
  unfold execOffsetMeasure
  repeat' first
    | with_reducible assumption
    | exact Part.sub_trans (by decide) hfm
    | (extract_lets +onlyGivenNames x; refine (fun hx => ?_ : (Frame fm b0 x) → _) ?_; (on_goal 2 => unfold x); all_goals clear_value x)
    | extract_lets +onlyGivenNames x
    | with_reducible apply FrameOut.next
    | with_reducible apply showOffset_frame
    | with_reducible apply rbump_frame
    | with_reducible apply Frame.ite
    | split
    | ((conv in State.mk _ _ _ _ _ _ _ _ _ _ _ _ _ _ _ _ _ _ _ _ _ _ _ _ _ => skip); with_reducible apply Frame.upd)
    | with_reducible exact .inr rfl
    | exact .inl (Part.sub_has _ hfm (by decide))

theorem execSlew_frame {fm : List Part} {b0 : State} (s : State)
    (hfr : Frame fm b0 s) (hfm : Part.sub [.cyc, .tick, .tfrac, .chr] fm = true) : FrameOut fm b0 (execSlew s) := by
  unfold execSlew
  repeat' first
    | with_reducible assumption
    | exact Part.sub_trans (by decide) hfm
    | (extract_lets +onlyGivenNames x; refine (fun hx => ?_ : (Frame fm b0 x) → _) ?_; (on_goal 2 => unfold x); all_goals clear_value x)
    | extract_lets +onlyGivenNames x
    | with_reducible apply FrameOut.next
    | with_reducible apply elapseNs_frame
    | split
    | ((conv in State.mk _ _ _ _ _ _ _ _ _ _ _ _ _ _ _ _ _ _ _ _ _ _ _ _ _ => skip); with_reducible apply Frame.upd)
    | with_reducible exact .inr rfl
    | exact .inl (Part.sub_has _ hfm (by decide))

theorem activateCharter_frame {fm : List Part} {b0 : State} (s : State) (epoch len : Nat)
    (hfr : Frame fm b0 s) (hfm : Part.sub [.regs, .stk, .chr] fm = true) : Frame fm b0 (activateCharter s epoch len) := by
  unfold activateCharter
  repeat' first
    | with_reducible assumption
    | exact Part.sub_trans (by decide) hfm
    | (extract_lets +onlyGivenNames x; refine (fun hx => ?_ : (Frame fm b0 x) → _) ?_; (on_goal 2 => unfold x); all_goals clear_value x)
    | extract_lets +onlyGivenNames x
    | with_reducible apply putCounter_frame
    | with_reducible apply rput_frame
    | ((conv in State.mk _ _ _ _ _ _ _ _ _ _ _ _ _ _ _ _ _ _ _ _ _ _ _ _ _ => skip); with_reducible apply Frame.upd)
    | with_reducible exact .inr rfl
    | exact .inl (Part.sub_has _ hfm (by decide))

theorem openRound_frame {fm : List Part} {b0 : State} (s : State)
    (hfr : Frame fm b0 s) (hfm : Part.sub [.regs, .stk, .chr, .serve] fm = true) : Frame fm b0 (openRound s) := by
  unfold openRound
  repeat' first
    | with_reducible assumption
    | extract_lets +onlyGivenNames x
    | with_reducible apply arriveOffer_frame
    | with_reducible apply Frame.ite
    | ((conv in State.mk _ _ _ _ _ _ _ _ _ _ _ _ _ _ _ _ _ _ _ _ _ _ _ _ _ => skip); with_reducible apply Frame.upd)
    | with_reducible exact .inr rfl
    | exact .inl (Part.sub_has _ hfm (by decide))

theorem activateNow_frame {fm : List Part} {b0 : State} (s : State) (epoch len : Nat)
    (hfr : Frame fm b0 s) (hfm : Part.sub [.regs, .stk, .chr, .serve] fm = true) : Frame fm b0 (activateNow s epoch len) := by
  unfold activateNow
  repeat' first
    | with_reducible assumption
    | exact Part.sub_trans (by decide) hfm
    | with_reducible intro _
    | (extract_lets +onlyGivenNames x; refine (fun hx => ?_ : (Frame fm b0 x) → _) ?_; (on_goal 2 => unfold x); all_goals clear_value x)
    | (extract_lets +onlyGivenNames x; refine (fun hx => ?_ : (Frame fm b0 x.1) → _) ?_; (on_goal 2 => unfold x); all_goals clear_value x)
    | (extract_lets +onlyGivenNames x; refine (fun hx => ?_ : (tileSafe x = true) → _) ?_; (on_goal 2 => unfold x); all_goals clear_value x)
    | (extract_lets +onlyGivenNames x; refine (fun hx => ?_ : (tileSafe x.1 = true) → _) ?_; (on_goal 2 => unfold x); all_goals clear_value x)
    | (extract_lets +onlyGivenNames x; refine (fun hx => ?_ : (FrameOpt fm b0 x) → _) ?_; (on_goal 2 => unfold x); all_goals clear_value x)
    | (extract_lets +onlyGivenNames x; refine (fun hx => ?_ : (Frame fm b0 x.st) → _) ?_; (on_goal 2 => unfold x); all_goals clear_value x)
    | extract_lets +onlyGivenNames x
    | with_reducible apply activateCharter_frame
    | with_reducible apply rput_frame
    | with_reducible apply openRound_frame
    | with_reducible apply Frame.ite
    | split

theorem writeArm_frame {fm : List Part} {b0 : State} (s : State)
    (hfr : Frame fm b0 s) (hfm : Part.sub [.regs, .stk, .chr, .serve] fm = true) : Frame fm b0 (writeArm s) := by
  unfold writeArm
  repeat' first
    | with_reducible assumption
    | exact Part.sub_trans (by decide) hfm
    | with_reducible intro _
    | (extract_lets +onlyGivenNames x; refine (fun hx => ?_ : (Frame fm b0 x) → _) ?_; (on_goal 2 => unfold x); all_goals clear_value x)
    | (extract_lets +onlyGivenNames x; refine (fun hx => ?_ : (Frame fm b0 x.1) → _) ?_; (on_goal 2 => unfold x); all_goals clear_value x)
    | (extract_lets +onlyGivenNames x; refine (fun hx => ?_ : (tileSafe x = true) → _) ?_; (on_goal 2 => unfold x); all_goals clear_value x)
    | (extract_lets +onlyGivenNames x; refine (fun hx => ?_ : (tileSafe x.1 = true) → _) ?_; (on_goal 2 => unfold x); all_goals clear_value x)
    | (extract_lets +onlyGivenNames x; refine (fun hx => ?_ : (FrameOpt fm b0 x) → _) ?_; (on_goal 2 => unfold x); all_goals clear_value x)
    | (extract_lets +onlyGivenNames x; refine (fun hx => ?_ : (Frame fm b0 x.st) → _) ?_; (on_goal 2 => unfold x); all_goals clear_value x)
    | extract_lets +onlyGivenNames x
    | with_reducible apply rset_frame
    | with_reducible apply activateNow_frame
    | with_reducible apply Frame.ite
    | split
    | ((conv in State.mk _ _ _ _ _ _ _ _ _ _ _ _ _ _ _ _ _ _ _ _ _ _ _ _ _ => skip); with_reducible apply Frame.upd)
    | with_reducible exact .inr rfl
    | exact .inl (Part.sub_has _ hfm (by decide))
    | exact .inl ⟨Part.sub_has _ hfm (by decide), fun h => h⟩
    | exact .inl ⟨Part.sub_has _ hfm (by decide), fun h => by simpa only [List.length_set, List.length_map, List.length_zipIdx] using h⟩

theorem execArm_frame {fm : List Part} {b0 : State} (s : State)
    (hfr : Frame fm b0 s) (hfm : Part.sub [.regs, .stk, .chr, .serve] fm = true) : FrameOut fm b0 (execArm s) := by
  unfold execArm
  repeat' first
    | with_reducible assumption
    | exact Part.sub_trans (by decide) hfm
    | extract_lets +onlyGivenNames x
    | with_reducible apply FrameOut.next
    | with_reducible apply writeArm_frame
    | with_reducible apply Frame.ite

theorem execChrLock_frame {fm : List Part} {b0 : State} (s : State)
    (hfr : Frame fm b0 s) (hfm : Part.sub [.regs] fm = true) : FrameOut fm b0 (execChrLock s) := by
  unfold execChrLock
  repeat' first
    | with_reducible assumption
    | extract_lets +onlyGivenNames x
    | with_reducible apply FrameOut.next
    | with_reducible apply rset_frame
    | with_reducible apply Frame.ite

theorem charterDue_frame {fm : List Part} {b0 : State} (s : State)
    (hfr : Frame fm b0 s) (hfm : Part.sub [.regs, .stk, .chr] fm = true) : Frame fm b0 (charterDue s) := by
  unfold charterDue
  repeat' first
    | with_reducible assumption
    | extract_lets +onlyGivenNames x
    | with_reducible apply activateCharter_frame
    | with_reducible apply Frame.ite
    | split

theorem tableDue_frame {m : List Part} {s0 : State} (s : State) (h : Frame m s0 s)
    (hm : Part.sub [.regs, .fleet] m = true) : Frame m s0 (tableDue s) := by
  have hr := Part.sub_has .regs hm (by decide)
  have hf := Part.sub_has .fleet hm (by decide)
  have h1 : Frame m s0 (rset (rput s 0 FLT_RT_CTL_PENDING 0) 0 FLT_RT_CTL_LIVE) :=
    rset_frame _ _ _ _ (rput_frame _ _ _ _ _ h (Part.sub_trans (by decide) hm)) (Part.sub_trans (by decide) hm)
  unfold tableDue
  split
  · exact h
  · generalize (List.range 1024) = ws
    generalize rset (rput s 0 FLT_RT_CTL_PENDING 0) 0 FLT_RT_CTL_LIVE = s1 at h1
    have h2 : ∀ rt hint, Frame m s0 { s1 with fleet := { s1.fleet with rt := rt, hint := hint } } := fun rt hint => by
      apply Frame.upd (t := s1) (h := h1)
      case h_fleet => exact .inl ⟨hf, fun g => g⟩
      all_goals first | with_reducible exact .inr rfl | exact .inl (Part.sub_has _ hm (by decide))
    exact Frame.ite (h2 _ _) (rset_frame _ _ _ _ (h2 _ _) (Part.sub_trans (by decide) hm))

theorem putStretch_frame {fm : List Part} {b0 : State} (s : State) (q : Nat) (d : Bool)
    (hfr : Frame fm b0 s) (hfm : Part.sub [.regs, .stk] fm = true) : Frame fm b0 (putStretch s q d) := by
  unfold putStretch
  repeat' first
    | with_reducible assumption
    | exact Part.sub_trans (by decide) hfm
    | (extract_lets +onlyGivenNames x; refine (fun hx => ?_ : (Frame fm b0 x) → _) ?_; (on_goal 2 => unfold x); all_goals clear_value x)
    | extract_lets +onlyGivenNames x
    | with_reducible apply rbump_frame
    | with_reducible apply rput_frame
    | with_reducible apply Frame.ite
    | ((conv in State.mk _ _ _ _ _ _ _ _ _ _ _ _ _ _ _ _ _ _ _ _ _ _ _ _ _ => skip); with_reducible apply Frame.upd)
    | with_reducible exact .inr rfl
    | exact .inl ⟨Part.sub_has _ hfm (by decide), fun h => by simpa only [List.length_set, List.length_map, List.length_zipIdx] using h⟩

theorem harbourStretch_frame {fm : List Part} {b0 : State} (s : State)
    (hfr : Frame fm b0 s) (hfm : Part.sub [.regs, .stk, .chr] fm = true) : Frame fm b0 (harbourStretch s) := by
  unfold harbourStretch
  repeat' first
    | with_reducible assumption
    | exact Part.sub_trans (by decide) hfm
    | extract_lets +onlyGivenNames x
    | with_reducible apply putStretch_frame
    | ((conv in State.mk _ _ _ _ _ _ _ _ _ _ _ _ _ _ _ _ _ _ _ _ _ _ _ _ _ => skip); with_reducible apply Frame.upd)
    | with_reducible exact .inr rfl
    | exact .inl (Part.sub_has _ hfm (by decide))

theorem openWatch_frame {fm : List Part} {b0 : State} (s : State) (b : Nat)
    (hfr : Frame fm b0 s) (hfm : Part.sub [.slot0, .regs] fm = true) : Frame fm b0 (openWatch s b) := by
  unfold openWatch
  repeat' first
    | with_reducible assumption
    | exact Part.sub_trans (by decide) hfm
    | (extract_lets +onlyGivenNames x; refine (fun hx => ?_ : (Frame fm b0 x) → _) ?_; (on_goal 2 => unfold x); all_goals clear_value x)
    | extract_lets +onlyGivenNames x
    | with_reducible apply putStart_frame
    | with_reducible apply rput_frame
    | ((conv in State.mk _ _ _ _ _ _ _ _ _ _ _ _ _ _ _ _ _ _ _ _ _ _ _ _ _ => skip); with_reducible apply Frame.upd)
    | with_reducible exact .inr rfl
    | exact .inl (Part.sub_has _ hfm (by decide))

theorem execAgreementRecord_frame {fm : List Part} {b0 : State} (w : Word) (q : BitVec 7) (d : Bool) (s : State)
    (hfr : Frame fm b0 s) (hfm : Part.sub [.regs, .stk, .chr, .serve] fm = true) : FrameOut fm b0 (execAgreementRecord w q d s) := by
  unfold execAgreementRecord
  repeat' first
    | with_reducible assumption
    | exact Part.sub_trans (by decide) hfm
    | extract_lets +onlyGivenNames x
    | with_reducible apply FrameOut.next
    | with_reducible apply arriveOffer_frame
    | with_reducible apply holdRecord_frame
    | with_reducible apply Frame.ite

theorem putLnkState_frame {fm : List Part} {b0 : State} (s : State) (v : Nat)
    (hfr : Frame fm b0 s) (hfm : Part.sub [.regs] fm = true) : Frame fm b0 (putLnkState s v) := by
  unfold putLnkState
  repeat' first
    | with_reducible assumption
    | with_reducible apply rput_frame

theorem lnkFault_frame {fm : List Part} {b0 : State} (s : State) (f : Fld)
    (hfr : Frame fm b0 s) (hfm : Part.sub [.regs] fm = true) : Frame fm b0 (lnkFault s f) := by
  unfold lnkFault
  repeat' first
    | with_reducible assumption
    | extract_lets +onlyGivenNames x
    | with_reducible apply rset_frame

theorem lnkBump_frame {fm : List Part} {b0 : State} (s : State) (f : Fld)
    (hfr : Frame fm b0 s) (hfm : Part.sub [.regs] fm = true) : Frame fm b0 (lnkBump s f) := by
  unfold lnkBump
  repeat' first
    | with_reducible assumption
    | extract_lets +onlyGivenNames x
    | with_reducible apply rbump_frame

theorem putTraining_frame {fm : List Part} {b0 : State} (s : State) (attempts : Nat) (retrain : Bool)
    (hfr : Frame fm b0 s) (hfm : Part.sub [.vil] fm = true) : Frame fm b0 (putTraining s attempts retrain) := by
  unfold putTraining
  repeat' first
    | with_reducible assumption
    | extract_lets +onlyGivenNames x
    | ((conv in State.mk _ _ _ _ _ _ _ _ _ _ _ _ _ _ _ _ _ _ _ _ _ _ _ _ _ => skip); with_reducible apply Frame.upd)
    | with_reducible exact .inr rfl
    | exact .inl ⟨Part.sub_has _ hfm (by decide), fun h => h⟩

theorem dropLanes_frame {fm : List Part} {b0 : State} (s : State)
    (hfr : Frame fm b0 s) (hfm : Part.sub [.regs] fm = true) : Frame fm b0 (dropLanes s) := by
  unfold dropLanes
  repeat' first
    | with_reducible assumption
    | exact Part.sub_trans (by decide) hfm
    | with_reducible intro _
    | with_reducible apply rput_frame

theorem writeLnkEn_frame {fm : List Part} {b0 : State} (s : State) (v : Bool)
    (hfr : Frame fm b0 s) (hfm : Part.sub [.regs, .vil] fm = true) : Frame fm b0 (writeLnkEn s v) := by
  unfold writeLnkEn
  repeat' first
    | with_reducible assumption
    | exact Part.sub_trans (by decide) hfm
    | with_reducible intro _
    | (extract_lets +onlyGivenNames x; refine (fun hx => ?_ : (Frame fm b0 x) → _) ?_; (on_goal 2 => unfold x); all_goals clear_value x)
    | (extract_lets +onlyGivenNames x; refine (fun hx => ?_ : (Frame fm b0 x.1) → _) ?_; (on_goal 2 => unfold x); all_goals clear_value x)
    | (extract_lets +onlyGivenNames x; refine (fun hx => ?_ : (tileSafe x = true) → _) ?_; (on_goal 2 => unfold x); all_goals clear_value x)
    | (extract_lets +onlyGivenNames x; refine (fun hx => ?_ : (tileSafe x.1 = true) → _) ?_; (on_goal 2 => unfold x); all_goals clear_value x)
    | (extract_lets +onlyGivenNames x; refine (fun hx => ?_ : (FrameOpt fm b0 x) → _) ?_; (on_goal 2 => unfold x); all_goals clear_value x)
    | (extract_lets +onlyGivenNames x; refine (fun hx => ?_ : (Frame fm b0 x.st) → _) ?_; (on_goal 2 => unfold x); all_goals clear_value x)
    | extract_lets +onlyGivenNames x
    | with_reducible apply putTraining_frame
    | with_reducible apply setRword_frame
    | with_reducible apply dropLanes_frame
    | with_reducible apply rput_frame
    | with_reducible apply rset_frame
    | with_reducible apply putLnkState_frame
    | with_reducible apply Frame.ite
    | split

theorem failTraining_frame {fm : List Part} {b0 : State} (s : State)
    (hfr : Frame fm b0 s) (hfm : Part.sub [.regs, .vil] fm = true) : Frame fm b0 (failTraining s) := by
  unfold failTraining
  repeat' first
    | with_reducible assumption
    | exact Part.sub_trans (by decide) hfm
    | with_reducible intro _
    | (extract_lets +onlyGivenNames x; refine (fun hx => ?_ : (Frame fm b0 x) → _) ?_; (on_goal 2 => unfold x); all_goals clear_value x)
    | (extract_lets +onlyGivenNames x; refine (fun hx => ?_ : (Frame fm b0 x.1) → _) ?_; (on_goal 2 => unfold x); all_goals clear_value x)
    | (extract_lets +onlyGivenNames x; refine (fun hx => ?_ : (tileSafe x = true) → _) ?_; (on_goal 2 => unfold x); all_goals clear_value x)
    | (extract_lets +onlyGivenNames x; refine (fun hx => ?_ : (tileSafe x.1 = true) → _) ?_; (on_goal 2 => unfold x); all_goals clear_value x)
    | (extract_lets +onlyGivenNames x; refine (fun hx => ?_ : (FrameOpt fm b0 x) → _) ?_; (on_goal 2 => unfold x); all_goals clear_value x)
    | (extract_lets +onlyGivenNames x; refine (fun hx => ?_ : (Frame fm b0 x.st) → _) ?_; (on_goal 2 => unfold x); all_goals clear_value x)
    | extract_lets +onlyGivenNames x
    | with_reducible apply dropLanes_frame
    | with_reducible apply putTraining_frame
    | with_reducible apply lnkFault_frame
    | with_reducible apply putLnkState_frame
    | with_reducible apply Frame.ite
    | split

theorem putWidth_frame {fm : List Part} {b0 : State} (s : State) (w : Nat)
    (hfr : Frame fm b0 s) (hfm : Part.sub [.regs] fm = true) : Frame fm b0 (putWidth s w) := by
  unfold putWidth
  repeat' first
    | with_reducible assumption
    | with_reducible intro _
    | (extract_lets +onlyGivenNames x; refine (fun hx => ?_ : (Frame fm b0 x) → _) ?_; (on_goal 2 => unfold x); all_goals clear_value x)
    | extract_lets +onlyGivenNames x
    | with_reducible apply lnkFault_frame
    | with_reducible apply rput_frame
    | with_reducible apply Frame.foldl
    | with_reducible apply Frame.ite

theorem startRetrain_frame {fm : List Part} {b0 : State} (s : State) (replays : Bool)
    (hfr : Frame fm b0 s) (hfm : Part.sub [.regs, .vil] fm = true) : Frame fm b0 (startRetrain s replays) := by
  unfold startRetrain
  repeat' first
    | with_reducible assumption
    | exact Part.sub_trans (by decide) hfm
    | with_reducible intro _
    | (extract_lets +onlyGivenNames x; refine (fun hx => ?_ : (Frame fm b0 x) → _) ?_; (on_goal 2 => unfold x); all_goals clear_value x)
    | (extract_lets +onlyGivenNames x; refine (fun hx => ?_ : (Frame fm b0 x.1) → _) ?_; (on_goal 2 => unfold x); all_goals clear_value x)
    | (extract_lets +onlyGivenNames x; refine (fun hx => ?_ : (tileSafe x = true) → _) ?_; (on_goal 2 => unfold x); all_goals clear_value x)
    | (extract_lets +onlyGivenNames x; refine (fun hx => ?_ : (tileSafe x.1 = true) → _) ?_; (on_goal 2 => unfold x); all_goals clear_value x)
    | (extract_lets +onlyGivenNames x; refine (fun hx => ?_ : (FrameOpt fm b0 x) → _) ?_; (on_goal 2 => unfold x); all_goals clear_value x)
    | (extract_lets +onlyGivenNames x; refine (fun hx => ?_ : (Frame fm b0 x.st) → _) ?_; (on_goal 2 => unfold x); all_goals clear_value x)
    | extract_lets +onlyGivenNames x
    | with_reducible apply putLnkState_frame
    | with_reducible apply lnkBump_frame
    | with_reducible apply lnkFault_frame
    | with_reducible apply Frame.ite
    | split
    | ((conv in State.mk _ _ _ _ _ _ _ _ _ _ _ _ _ _ _ _ _ _ _ _ _ _ _ _ _ => skip); with_reducible apply Frame.upd)
    | with_reducible exact .inr rfl
    | exact .inl (Part.sub_has _ hfm (by decide))
    | exact .inl ⟨Part.sub_has _ hfm (by decide), fun h => h⟩
    | exact .inl ⟨Part.sub_has _ hfm (by decide), fun h => by simpa only [List.length_set, List.length_map, List.length_zipIdx] using h⟩

theorem failedLanes_frame {fm : List Part} {b0 : State} (s : State) (h : Nat) (good : Half)
    (hfr : Frame fm b0 s) (hfm : Part.sub [.log] fm = true) : Frame fm b0 (failedLanes s h good) := by
  unfold failedLanes
  repeat' first
    | with_reducible assumption
    | with_reducible intro _
    | extract_lets +onlyGivenNames x
    | with_reducible apply logCount_frame
    | with_reducible apply Frame.foldl
    | with_reducible apply Frame.ite

theorem replayHalf_frame {fm : List Part} {b0 : State} (s : State) (h : Nat)
    (hfr : Frame fm b0 s) (hfm : Part.sub [.regs, .vil] fm = true) : Frame fm b0 (replayHalf s h) := by
  unfold replayHalf
  repeat' first
    | with_reducible assumption
    | exact Part.sub_trans (by decide) hfm
    | with_reducible intro _
    | (extract_lets +onlyGivenNames x; refine (fun hx => ?_ : (Frame fm b0 x) → _) ?_; (on_goal 2 => unfold x); all_goals clear_value x)
    | (extract_lets +onlyGivenNames x; refine (fun hx => ?_ : (Frame fm b0 x.1) → _) ?_; (on_goal 2 => unfold x); all_goals clear_value x)
    | (extract_lets +onlyGivenNames x; refine (fun hx => ?_ : (tileSafe x = true) → _) ?_; (on_goal 2 => unfold x); all_goals clear_value x)
    | (extract_lets +onlyGivenNames x; refine (fun hx => ?_ : (tileSafe x.1 = true) → _) ?_; (on_goal 2 => unfold x); all_goals clear_value x)
    | (extract_lets +onlyGivenNames x; refine (fun hx => ?_ : (FrameOpt fm b0 x) → _) ?_; (on_goal 2 => unfold x); all_goals clear_value x)
    | (extract_lets +onlyGivenNames x; refine (fun hx => ?_ : (Frame fm b0 x.st) → _) ?_; (on_goal 2 => unfold x); all_goals clear_value x)
    | extract_lets +onlyGivenNames x
    | with_reducible apply putHalf_frame
    | with_reducible apply rbump_frame
    | with_reducible apply Frame.foldl
    | with_reducible apply Frame.foldlFst
    | with_reducible apply Frame.ite
    | split
    | ((conv in State.mk _ _ _ _ _ _ _ _ _ _ _ _ _ _ _ _ _ _ _ _ _ _ _ _ _ => skip); with_reducible apply Frame.upd)
    | with_reducible exact .inr rfl
    | exact .inl (Part.sub_has _ hfm (by decide))
    | exact .inl ⟨Part.sub_has _ hfm (by decide), fun h => h⟩
    | exact .inl ⟨Part.sub_has _ hfm (by decide), fun h => by simpa only [List.length_set, List.length_map, List.length_zipIdx] using h⟩

theorem resumeHalf_frame {fm : List Part} {b0 : State} (s : State) (h : Nat)
    (hfr : Frame fm b0 s) (hfm : Part.sub [.regs, .vil] fm = true) : Frame fm b0 (resumeHalf s h) := by
  unfold resumeHalf
  repeat' first
    | with_reducible assumption
    | exact Part.sub_trans (by decide) hfm
    | with_reducible intro _
    | (extract_lets +onlyGivenNames x; refine (fun hx => ?_ : (Frame fm b0 x) → _) ?_; (on_goal 2 => unfold x); all_goals clear_value x)
    | (extract_lets +onlyGivenNames x; refine (fun hx => ?_ : (Frame fm b0 x.1) → _) ?_; (on_goal 2 => unfold x); all_goals clear_value x)
    | (extract_lets +onlyGivenNames x; refine (fun hx => ?_ : (tileSafe x = true) → _) ?_; (on_goal 2 => unfold x); all_goals clear_value x)
    | (extract_lets +onlyGivenNames x; refine (fun hx => ?_ : (tileSafe x.1 = true) → _) ?_; (on_goal 2 => unfold x); all_goals clear_value x)
    | (extract_lets +onlyGivenNames x; refine (fun hx => ?_ : (FrameOpt fm b0 x) → _) ?_; (on_goal 2 => unfold x); all_goals clear_value x)
    | (extract_lets +onlyGivenNames x; refine (fun hx => ?_ : (Frame fm b0 x.st) → _) ?_; (on_goal 2 => unfold x); all_goals clear_value x)
    | extract_lets +onlyGivenNames x
    | with_reducible apply replayHalf_frame
    | with_reducible apply putHalf_frame
    | with_reducible apply sendStalled_frame
    | with_reducible apply sendHeld_frame
    | ((conv in State.mk _ _ _ _ _ _ _ _ _ _ _ _ _ _ _ _ _ _ _ _ _ _ _ _ _ => skip); with_reducible apply Frame.upd)
    | with_reducible exact .inr rfl
    | exact .inl (Part.sub_has _ hfm (by decide))
    | exact .inl ⟨Part.sub_has _ hfm (by decide), fun h => h⟩
    | exact .inl ⟨Part.sub_has _ hfm (by decide), fun h => by simpa only [List.length_set, List.length_map, List.length_zipIdx] using h⟩

theorem resumeLink_frame {fm : List Part} {b0 : State} (s : State)
    (hfr : Frame fm b0 s) (hfm : Part.sub [.regs, .vil] fm = true) : Frame fm b0 (resumeLink s) := by
  unfold resumeLink
  repeat' first
    | with_reducible assumption
    | exact Part.sub_trans (by decide) hfm
    | with_reducible intro _
    | with_reducible apply resumeHalf_frame

theorem exchangeRevisions_frame {fm : List Part} {b0 : State} (s : State) (lo hi : Nat)
    (hfr : Frame fm b0 s) (hfm : Part.sub [.regs, .vil] fm = true) : Frame fm b0 (exchangeRevisions s lo hi) := by
  unfold exchangeRevisions
  repeat' first
    | with_reducible assumption
    | exact Part.sub_trans (by decide) hfm
    | with_reducible intro _
    | (extract_lets +onlyGivenNames x; refine (fun hx => ?_ : (Frame fm b0 x) → _) ?_; (on_goal 2 => unfold x); all_goals clear_value x)
    | (extract_lets +onlyGivenNames x; refine (fun hx => ?_ : (Frame fm b0 x.1) → _) ?_; (on_goal 2 => unfold x); all_goals clear_value x)
    | (extract_lets +onlyGivenNames x; refine (fun hx => ?_ : (tileSafe x = true) → _) ?_; (on_goal 2 => unfold x); all_goals clear_value x)
    | (extract_lets +onlyGivenNames x; refine (fun hx => ?_ : (tileSafe x.1 = true) → _) ?_; (on_goal 2 => unfold x); all_goals clear_value x)
    | (extract_lets +onlyGivenNames x; refine (fun hx => ?_ : (FrameOpt fm b0 x) → _) ?_; (on_goal 2 => unfold x); all_goals clear_value x)
    | (extract_lets +onlyGivenNames x; refine (fun hx => ?_ : (Frame fm b0 x.st) → _) ?_; (on_goal 2 => unfold x); all_goals clear_value x)
    | extract_lets +onlyGivenNames x
    | with_reducible apply lnkFault_frame
    | with_reducible apply putLnkState_frame
    | with_reducible apply dropLanes_frame
    | with_reducible apply resumeLink_frame
    | with_reducible apply rput_frame
    | with_reducible apply putTraining_frame
    | with_reducible apply Frame.ite
    | split

theorem takeHeader_frame {fm : List Part} {b0 : State} (s : State) (h : Nat) (hdr : Nat)
    (hfr : Frame fm b0 s) (hfm : Part.sub [.regs, .vil] fm = true) : Frame fm b0 (takeHeader s h hdr) := by
  unfold takeHeader
  repeat' first
    | with_reducible assumption
    | exact Part.sub_trans (by decide) hfm
    | with_reducible intro _
    | (extract_lets +onlyGivenNames x; refine (fun hx => ?_ : (Frame fm b0 x) → _) ?_; (on_goal 2 => unfold x); all_goals clear_value x)
    | (extract_lets +onlyGivenNames x; refine (fun hx => ?_ : (Frame fm b0 x.1) → _) ?_; (on_goal 2 => unfold x); all_goals clear_value x)
    | (extract_lets +onlyGivenNames x; refine (fun hx => ?_ : (tileSafe x = true) → _) ?_; (on_goal 2 => unfold x); all_goals clear_value x)
    | (extract_lets +onlyGivenNames x; refine (fun hx => ?_ : (tileSafe x.1 = true) → _) ?_; (on_goal 2 => unfold x); all_goals clear_value x)
    | (extract_lets +onlyGivenNames x; refine (fun hx => ?_ : (FrameOpt fm b0 x) → _) ?_; (on_goal 2 => unfold x); all_goals clear_value x)
    | (extract_lets +onlyGivenNames x; refine (fun hx => ?_ : (Frame fm b0 x.st) → _) ?_; (on_goal 2 => unfold x); all_goals clear_value x)
    | extract_lets +onlyGivenNames x
    | with_reducible apply sendStalled_frame
    | with_reducible apply sendHeld_frame
    | with_reducible apply replayHalf_frame
    | with_reducible apply putHalf_frame
    | with_reducible apply Frame.ite
    | split
    | ((conv in State.mk _ _ _ _ _ _ _ _ _ _ _ _ _ _ _ _ _ _ _ _ _ _ _ _ _ => skip); with_reducible apply Frame.upd)
    | with_reducible exact .inr rfl
    | exact .inl (Part.sub_has _ hfm (by decide))
    | exact .inl ⟨Part.sub_has _ hfm (by decide), fun h => h⟩
    | exact .inl ⟨Part.sub_has _ hfm (by decide), fun h => by simpa only [List.length_set, List.length_map, List.length_zipIdx] using h⟩

theorem orphan_frame {fm : List Part} {b0 : State} (s : State) (h : Nat)
    (hfr : Frame fm b0 s) (hfm : Part.sub [.regs] fm = true) : Frame fm b0 (orphan s h) := by
  unfold orphan
  repeat' first
    | with_reducible assumption
    | with_reducible apply rset_frame

theorem takeDat_frame {fm : List Part} {b0 : State} (s : State) (h : Nat) (tag : BitVec 12) (st : Status) (data : List Byte)
    (hfr : Frame fm b0 s) (hfm : Part.sub [.regs, .net, .vil] fm = true) : Frame fm b0 (takeDat s h tag st data) := by
  unfold takeDat
  repeat' first
    | with_reducible assumption
    | exact Part.sub_trans (by decide) hfm
    | (extract_lets +onlyGivenNames x; refine (fun hx => ?_ : (Frame fm b0 x) → _) ?_; (on_goal 2 => unfold x); all_goals clear_value x)
    | extract_lets +onlyGivenNames x
    | with_reducible apply orphan_frame
    | with_reducible apply watchRead_frame
    | with_reducible apply endPart_frame
    | with_reducible apply installLine_frame
    | with_reducible apply endReq_frame
    | with_reducible apply Frame.ite
    | split

theorem takeCmp_frame {fm : List Part} {b0 : State} (s : State) (h : Nat) (tag : BitVec 12) (st : Status)
    (hfr : Frame fm b0 s) (hfm : Part.sub [.regs, .net, .vil, .serve] fm = true) : Frame fm b0 (takeCmp s h tag st) := by
  unfold takeCmp
  repeat' first
    | with_reducible assumption
    | exact Part.sub_trans (by decide) hfm
    | (extract_lets +onlyGivenNames x; refine (fun hx => ?_ : (Frame fm b0 x) → _) ?_; (on_goal 2 => unfold x); all_goals clear_value x)
    | with_reducible apply orphan_frame
    | with_reducible apply groupCmp_frame
    | with_reducible apply endPart_frame
    | with_reducible apply endReq_frame
    | split

theorem poisonReads_frame {fm : List Part} {b0 : State} (s : State) (h line : Nat)
    (hfr : Frame fm b0 s) (hfm : Part.sub [.regs, .vil] fm = true) : Frame fm b0 (poisonReads s h line) := by
  unfold poisonReads
  repeat' first
    | with_reducible assumption
    | exact Part.sub_trans (by decide) hfm
    | extract_lets +onlyGivenNames x
    | with_reducible apply putHalf_frame
    | with_reducible apply rbump_frame

theorem sendNotice_frame {fm : List Part} {b0 : State} (s : State) (h line : Nat)
    (hfr : Frame fm b0 s) (hfm : Part.sub [.regs, .serve] fm = true) : Frame fm b0 (sendNotice s h line) := by
  unfold sendNotice
  repeat' first
    | with_reducible assumption
    | exact Part.sub_trans (by decide) hfm
    | with_reducible intro _
    | (extract_lets +onlyGivenNames x; refine (fun hx => ?_ : (Frame fm b0 x) → _) ?_; (on_goal 2 => unfold x); all_goals clear_value x)
    | (extract_lets +onlyGivenNames x; refine (fun hx => ?_ : (Frame fm b0 x.1) → _) ?_; (on_goal 2 => unfold x); all_goals clear_value x)
    | (extract_lets +onlyGivenNames x; refine (fun hx => ?_ : (tileSafe x = true) → _) ?_; (on_goal 2 => unfold x); all_goals clear_value x)
    | (extract_lets +onlyGivenNames x; refine (fun hx => ?_ : (tileSafe x.1 = true) → _) ?_; (on_goal 2 => unfold x); all_goals clear_value x)
    | (extract_lets +onlyGivenNames x; refine (fun hx => ?_ : (FrameOpt fm b0 x) → _) ?_; (on_goal 2 => unfold x); all_goals clear_value x)
    | (extract_lets +onlyGivenNames x; refine (fun hx => ?_ : (Frame fm b0 x.st) → _) ?_; (on_goal 2 => unfold x); all_goals clear_value x)
    | extract_lets +onlyGivenNames x
    | with_reducible apply crossFlits_frame
    | with_reducible apply rbump_frame
    | with_reducible apply Frame.ite
    | split
    | ((conv in State.mk _ _ _ _ _ _ _ _ _ _ _ _ _ _ _ _ _ _ _ _ _ _ _ _ _ => skip); with_reducible apply Frame.upd)
    | with_reducible exact .inr rfl
    | exact .inl (Part.sub_has _ hfm (by decide))
    | exact .inl ⟨Part.sub_has _ hfm (by decide), fun h => h⟩
    | exact .inl ⟨Part.sub_has _ hfm (by decide), fun h => by simpa only [List.length_set, List.length_map, List.length_zipIdx] using h⟩

theorem takeSni_frame {fm : List Part} {b0 : State} (s : State) (h : Nat) (tag : BitVec 12) (addr : BitVec 48)
    (hfr : Frame fm b0 s) (hfm : Part.sub [.regs, .vil, .serve] fm = true) : Frame fm b0 (takeSni s h tag addr) := by
  unfold takeSni
  repeat' first
    | with_reducible assumption
    | exact Part.sub_trans (by decide) hfm
    | with_reducible intro _
    | (extract_lets +onlyGivenNames x; refine (fun hx => ?_ : (Frame fm b0 x) → _) ?_; (on_goal 2 => unfold x); all_goals clear_value x)
    | (extract_lets +onlyGivenNames x; refine (fun hx => ?_ : (Frame fm b0 x.1) → _) ?_; (on_goal 2 => unfold x); all_goals clear_value x)
    | (extract_lets +onlyGivenNames x; refine (fun hx => ?_ : (tileSafe x = true) → _) ?_; (on_goal 2 => unfold x); all_goals clear_value x)
    | (extract_lets +onlyGivenNames x; refine (fun hx => ?_ : (tileSafe x.1 = true) → _) ?_; (on_goal 2 => unfold x); all_goals clear_value x)
    | (extract_lets +onlyGivenNames x; refine (fun hx => ?_ : (FrameOpt fm b0 x) → _) ?_; (on_goal 2 => unfold x); all_goals clear_value x)
    | (extract_lets +onlyGivenNames x; refine (fun hx => ?_ : (Frame fm b0 x.st) → _) ?_; (on_goal 2 => unfold x); all_goals clear_value x)
    | extract_lets +onlyGivenNames x
    | with_reducible apply poisonReads_frame
    | with_reducible apply dropLine_frame
    | with_reducible apply rbump_frame
    | with_reducible apply sendMsg_frame
    | with_reducible apply sendNotice_frame
    | with_reducible apply Frame.ite
    | split
    | with_reducible exact .inr rfl
    | exact .inl ⟨Part.sub_has _ hfm (by decide), fun h => h⟩

theorem crossingEvent_frame {fm : List Part} {b0 : State} (s : State) (ch : Nat) (repeated : Bool)
    (hfr : Frame fm b0 s) (hfm : Part.sub [.slot0, .tick, .tfrac, .regs, .tiles, .dram, .net, .reports, .free, .stk, .vil, .fleet, .chr, .serve, .img, .log, .pwr, .rst, .bnc, .snd, .lsr] fm = true) : Frame fm b0 (crossingEvent s ch repeated) := by
  unfold crossingEvent
  repeat' first
    | with_reducible assumption
    | exact Part.sub_trans (by decide) hfm
    | with_reducible intro _
    | (extract_lets +onlyGivenNames x; refine (fun hx => ?_ : (Frame fm b0 x) → _) ?_; (on_goal 2 => unfold x); all_goals clear_value x)
    | (extract_lets +onlyGivenNames x; refine (fun hx => ?_ : (Frame fm b0 x.1) → _) ?_; (on_goal 2 => unfold x); all_goals clear_value x)
    | extract_lets +onlyGivenNames x
    | with_reducible apply moduleReset_frame
    | with_reducible apply logCount_frame
    | with_reducible apply rset_frame
    | with_reducible apply Frame.foldl
    | with_reducible apply Frame.ite

theorem replayLimit_frame {fm : List Part} {b0 : State} (s : State) (l : LinkRef)
    (hfr : Frame fm b0 s) (hfm : Part.sub [.regs, .net, .vil, .fleet] fm = true) : Frame fm b0 (replayLimit s l) := by
  unfold replayLimit
  repeat' first
    | with_reducible assumption
    | exact Part.sub_trans (by decide) hfm
    | with_reducible intro _
    | with_reducible apply retrainPort_frame
    | with_reducible apply startRetrain_frame
    | with_reducible apply Frame.ite
    | (with_reducible refine Frame.ofPair ‹_ = (_, _)› ?_)
    | split
    | ((conv in State.mk _ _ _ _ _ _ _ _ _ _ _ _ _ _ _ _ _ _ _ _ _ _ _ _ _ => skip); with_reducible apply Frame.upd)
    | with_reducible exact .inr rfl
    | exact .inl (Part.sub_has _ hfm (by decide))
    | exact .inl ⟨Part.sub_has _ hfm (by decide), fun h => h⟩
    | exact .inl ⟨Part.sub_has _ hfm (by decide), fun h => by simpa only [List.length_set, List.length_map, List.length_zipIdx] using h⟩
    | exact .inl ⟨Part.sub_has _ hfm (by decide), fun h => mapSet_wf _ _ _ _ h⟩
    | extract_lets +onlyGivenNames x

theorem putPwrState_frame {fm : List Part} {b0 : State} (s : State) (v : Nat)
    (hfr : Frame fm b0 s) (hfm : Part.sub [.regs] fm = true) : Frame fm b0 (putPwrState s v) := by
  unfold putPwrState
  repeat' first
    | with_reducible assumption
    | with_reducible apply rput_frame

theorem startCharge_frame {fm : List Part} {b0 : State} (s : State)
    (hfr : Frame fm b0 s) (hfm : Part.sub [.regs, .pwr] fm = true) : Frame fm b0 (startCharge s) := by
  unfold startCharge
  repeat' first
    | with_reducible assumption
    | exact Part.sub_trans (by decide) hfm
    | extract_lets +onlyGivenNames x
    | with_reducible apply putPwrState_frame
    | ((conv in State.mk _ _ _ _ _ _ _ _ _ _ _ _ _ _ _ _ _ _ _ _ _ _ _ _ _ => skip); with_reducible apply Frame.upd)
    | with_reducible exact .inr rfl
    | exact .inl (Part.sub_has _ hfm (by decide))

theorem heldMain_frame {fm : List Part} {b0 : State} (s : State)
    (hfr : Frame fm b0 s) (hfm : Part.sub [.regs, .pwr] fm = true) : Frame fm b0 (heldMain s) := by
  unfold heldMain
  repeat' first
    | with_reducible assumption
    | exact Part.sub_trans (by decide) hfm
    | with_reducible intro _
    | with_reducible apply startCharge_frame
    | with_reducible apply Frame.ite
    | split
    | extract_lets +onlyGivenNames x

theorem writeMainEn_frame {fm : List Part} {b0 : State} (s : State) (v : Bool)
    (hfr : Frame fm b0 s) (hfm : Part.sub [.slot0, .tick, .tfrac, .regs, .tiles, .dram, .net, .reports, .free, .stk, .vil, .fleet, .chr, .serve, .img, .log, .pwr, .rst, .bnc, .lsr] fm = true) : Frame fm b0 (writeMainEn s v) := by
  unfold writeMainEn
  repeat' first
    | with_reducible assumption
    | exact Part.sub_trans (by decide) hfm
    | (extract_lets +onlyGivenNames x; refine (fun hx => ?_ : (Frame fm b0 x) → _) ?_; (on_goal 2 => unfold x); all_goals clear_value x)
    | extract_lets +onlyGivenNames x
    | with_reducible apply startCharge_frame
    | with_reducible apply orderlyStop_frame
    | with_reducible apply rset_frame
    | with_reducible apply rput_frame
    | with_reducible apply Frame.ite
    | ((conv in State.mk _ _ _ _ _ _ _ _ _ _ _ _ _ _ _ _ _ _ _ _ _ _ _ _ _ => skip); with_reducible apply Frame.upd)
    | with_reducible exact .inr rfl
    | exact .inl (Part.sub_has _ hfm (by decide))

theorem execMainEn_frame {fm : List Part} {b0 : State} (v : Bool) (s : State)
    (hfr : Frame fm b0 s) (hfm : Part.sub [.slot0, .tick, .tfrac, .regs, .tiles, .dram, .net, .reports, .free, .stk, .vil, .fleet, .chr, .serve, .img, .log, .pwr, .rst, .bnc, .lsr] fm = true) : FrameOut fm b0 (execMainEn v s) := by
  unfold execMainEn
  repeat' first
    | with_reducible assumption
    | exact Part.sub_trans (by decide) hfm
    | extract_lets +onlyGivenNames x
    | with_reducible apply FrameOut.next
    | with_reducible apply writeMainEn_frame

theorem execChargeComplete_frame {fm : List Part} {b0 : State} (s : State)
    (hfr : Frame fm b0 s) (hfm : Part.sub [.pwr] fm = true) : FrameOut fm b0 (execChargeComplete s) := by
  unfold execChargeComplete
  repeat' first
    | with_reducible assumption
    | extract_lets +onlyGivenNames x
    | with_reducible apply FrameOut.next
    | with_reducible apply Frame.ite
    | ((conv in State.mk _ _ _ _ _ _ _ _ _ _ _ _ _ _ _ _ _ _ _ _ _ _ _ _ _ => skip); with_reducible apply Frame.upd)
    | with_reducible exact .inr rfl
    | exact .inl (Part.sub_has _ hfm (by decide))

theorem execVbusInRegulation_frame {fm : List Part} {b0 : State} (s : State)
    (hfr : Frame fm b0 s) (hfm : Part.sub [.regs] fm = true) : FrameOut fm b0 (execVbusInRegulation s) := by
  unfold execVbusInRegulation
  repeat' first
    | with_reducible assumption
    | extract_lets +onlyGivenNames x
    | with_reducible apply FrameOut.next
    | with_reducible apply putPwrState_frame
    | with_reducible apply Frame.ite

theorem execInrush_frame {fm : List Part} {b0 : State} (s : State)
    (hfr : Frame fm b0 s) (hfm : Part.sub [.slot0, .tick, .tfrac, .regs, .tiles, .dram, .net, .reports, .free, .stk, .vil, .fleet, .chr, .serve, .img, .log, .pwr, .rst, .bnc, .snd, .lsr] fm = true) : FrameOut fm b0 (execInrush s) := by
  unfold execInrush
  repeat' first
    | with_reducible assumption
    | exact Part.sub_trans (by decide) hfm
    | extract_lets +onlyGivenNames x
    | with_reducible apply FrameOut.next
    | with_reducible apply hardTrip_frame
    | with_reducible apply Frame.ite

theorem execVinuv_frame {fm : List Part} {b0 : State} (s : State)
    (hfr : Frame fm b0 s) (hfm : Part.sub [.slot0, .tick, .tfrac, .regs, .tiles, .dram, .net, .reports, .free, .stk, .vil, .fleet, .chr, .serve, .img, .log, .pwr, .rst, .bnc, .snd, .lsr] fm = true) : FrameOut fm b0 (execVinuv s) := by
  unfold execVinuv
  repeat' first
    | with_reducible assumption
    | exact Part.sub_trans (by decide) hfm
    | extract_lets +onlyGivenNames x
    | with_reducible apply FrameOut.next
    | with_reducible apply hardTrip_frame
    | with_reducible apply Frame.ite

theorem execVinov_frame {fm : List Part} {b0 : State} (s : State)
    (hfr : Frame fm b0 s) (hfm : Part.sub [.slot0, .tick, .tfrac, .regs, .tiles, .dram, .net, .reports, .free, .stk, .vil, .fleet, .chr, .serve, .img, .log, .pwr, .rst, .bnc, .snd, .lsr] fm = true) : FrameOut fm b0 (execVinov s) := by
  unfold execVinov
  repeat' first
    | with_reducible assumption
    | exact Part.sub_trans (by decide) hfm
    | extract_lets +onlyGivenNames x
    | with_reducible apply FrameOut.next
    | with_reducible apply hardTrip_frame
    | with_reducible apply Frame.ite

theorem execBusuv_frame {fm : List Part} {b0 : State} (s : State)
    (hfr : Frame fm b0 s) (hfm : Part.sub [.slot0, .tick, .tfrac, .regs, .tiles, .dram, .net, .reports, .free, .stk, .vil, .fleet, .chr, .serve, .img, .log, .pwr, .rst, .bnc, .snd, .lsr] fm = true) : FrameOut fm b0 (execBusuv s) := by
  unfold execBusuv
  repeat' first
    | with_reducible assumption
    | exact Part.sub_trans (by decide) hfm
    | with_reducible intro _
    | with_reducible apply FrameOut.next
    | with_reducible apply hardTrip_frame
    | with_reducible apply Frame.ite
    | split
    | extract_lets +onlyGivenNames x

theorem execBusov_frame {fm : List Part} {b0 : State} (s : State)
    (hfr : Frame fm b0 s) (hfm : Part.sub [.slot0, .tick, .tfrac, .regs, .tiles, .dram, .net, .reports, .free, .stk, .vil, .fleet, .chr, .serve, .img, .log, .pwr, .rst, .bnc, .snd, .lsr] fm = true) : FrameOut fm b0 (execBusov s) := by
  unfold execBusov
  repeat' first
    | with_reducible assumption
    | exact Part.sub_trans (by decide) hfm
    | with_reducible intro _
    | with_reducible apply FrameOut.next
    | with_reducible apply hardTrip_frame
    | with_reducible apply Frame.ite
    | split
    | extract_lets +onlyGivenNames x

theorem takePower_frame {fm : List Part} {b0 : State} (s : State)
    (hfr : Frame fm b0 s) (hfm : Part.sub [.slot0, .tick, .tfrac, .regs, .tiles, .dram, .net, .reports, .free, .stk, .vil, .fleet, .chr, .serve, .img, .log, .pwr, .rst, .bnc, .snd, .lsr] fm = true) : Frame fm b0 (takePower s) := by
  unfold takePower
  repeat' first
    | with_reducible assumption
    | exact Part.sub_trans (by decide) hfm
    | with_reducible intro _
    | (extract_lets +onlyGivenNames x; refine (fun hx => ?_ : (Frame fm b0 x) → _) ?_; (on_goal 2 => unfold x); all_goals clear_value x)
    | (extract_lets +onlyGivenNames x; refine (fun hx => ?_ : (Frame fm b0 x.1) → _) ?_; (on_goal 2 => unfold x); all_goals clear_value x)
    | (extract_lets +onlyGivenNames x; refine (fun hx => ?_ : (tileSafe x = true) → _) ?_; (on_goal 2 => unfold x); all_goals clear_value x)
    | (extract_lets +onlyGivenNames x; refine (fun hx => ?_ : (tileSafe x.1 = true) → _) ?_; (on_goal 2 => unfold x); all_goals clear_value x)
    | (extract_lets +onlyGivenNames x; refine (fun hx => ?_ : (FrameOpt fm b0 x) → _) ?_; (on_goal 2 => unfold x); all_goals clear_value x)
    | (extract_lets +onlyGivenNames x; refine (fun hx => ?_ : (Frame fm b0 x.st) → _) ?_; (on_goal 2 => unfold x); all_goals clear_value x)
    | extract_lets +onlyGivenNames x
    | with_reducible apply rput_frame
    | with_reducible apply logExtra_frame
    | with_reducible apply rbump_frame
    | with_reducible apply rset_frame
    | with_reducible apply hardTrip_frame
    | with_reducible apply Frame.ite
    | split
    | ((conv in State.mk _ _ _ _ _ _ _ _ _ _ _ _ _ _ _ _ _ _ _ _ _ _ _ _ _ => skip); with_reducible apply Frame.upd)
    | with_reducible exact .inr rfl
    | exact .inl (Part.sub_has _ hfm (by decide))
    | exact .inl ⟨Part.sub_has _ hfm (by decide), fun h => h⟩
    | exact .inl ⟨Part.sub_has _ hfm (by decide), fun h => by simpa only [List.length_set, List.length_map, List.length_zipIdx] using h⟩

theorem execPowerSample_frame {fm : List Part} {b0 : State} (v i : Nat) (s : State)
    (hfr : Frame fm b0 s) (hfm : Part.sub [.slot0, .tick, .tfrac, .regs, .tiles, .dram, .net, .reports, .free, .stk, .vil, .fleet, .chr, .serve, .img, .log, .pwr, .rst, .bnc, .snd, .lsr] fm = true) : FrameOut fm b0 (execPowerSample v i s) := by
  unfold execPowerSample
  repeat' first
    | with_reducible assumption
    | exact Part.sub_trans (by decide) hfm
    | with_reducible intro _
    | with_reducible apply FrameOut.next
    | with_reducible apply takePower_frame
    | with_reducible apply rput_frame
    | with_reducible apply Frame.ite
    | split

theorem execPwrLock_frame {fm : List Part} {b0 : State} (s : State)
    (hfr : Frame fm b0 s) (hfm : Part.sub [.regs] fm = true) : FrameOut fm b0 (execPwrLock s) := by
  unfold execPwrLock
  repeat' first
    | with_reducible assumption
    | extract_lets +onlyGivenNames x
    | with_reducible apply FrameOut.next
    | with_reducible apply rset_frame
    | with_reducible apply Frame.ite

theorem rampStack_frame {fm : List Part} {b0 : State} (s : State) (k : Nat)
    (hfr : Frame fm b0 s) (hfm : Part.sub [.regs] fm = true) : Frame fm b0 (rampStack s k) := by
  unfold rampStack
  repeat' first
    | with_reducible assumption
    | extract_lets +onlyGivenNames x
    | with_reducible apply rput_frame
    | with_reducible apply Frame.ite

theorem writeStackOn_frame {fm : List Part} {b0 : State} (s : State) (k : Nat) (v : Bool)
    (hfr : Frame fm b0 s) (hfm : Part.sub [.regs, .tiles, .dram, .stk, .pwr] fm = true) : Frame fm b0 (writeStackOn s k v) := by
  unfold writeStackOn
  repeat' first
    | with_reducible assumption
    | exact Part.sub_trans (by decide) hfm
    | extract_lets +onlyGivenNames x
    | with_reducible apply rampStack_frame
    | with_reducible apply stackOff_frame
    | with_reducible apply rset_frame
    | with_reducible apply rput_frame
    | with_reducible apply Frame.ite

theorem execStackOn_frame {fm : List Part} {b0 : State} (k : BitVec 3) (v : Bool) (s : State)
    (hfr : Frame fm b0 s) (hfm : Part.sub [.regs, .tiles, .dram, .stk, .pwr] fm = true) : FrameOut fm b0 (execStackOn k v s) := by
  unfold execStackOn
  repeat' first
    | with_reducible assumption
    | extract_lets +onlyGivenNames x
    | with_reducible apply FrameOut.next
    | with_reducible apply writeStackOn_frame

theorem freeTiles_frame {fm : List Part} {b0 : State} (s : State) (k : Nat)
    (hfr : Frame fm b0 s) (hfm : Part.sub [.tiles, .stk] fm = true) : Frame fm b0 (freeTiles s k) := by
  unfold freeTiles
  repeat' first
    | with_reducible assumption
    | exact Part.sub_trans (by decide) hfm
    | with_reducible intro _
    | with_reducible apply releaseTile_frame
    | with_reducible apply putStk_frame
    | with_reducible apply Frame.foldl
    | with_reducible apply Frame.foldlFst
    | with_reducible apply Frame.ite
    | split
    | ((conv in State.mk _ _ _ _ _ _ _ _ _ _ _ _ _ _ _ _ _ _ _ _ _ _ _ _ _ => skip); with_reducible apply Frame.upd)
    | with_reducible exact .inr rfl
    | exact .inl (Part.sub_has _ hfm (by decide))
    | exact .inl ⟨Part.sub_has _ hfm (by decide), fun h => h⟩
    | exact .inl ⟨Part.sub_has _ hfm (by decide), fun h => by simpa only [List.length_set, List.length_map, List.length_zipIdx] using h⟩
    | ((conv in Tile.mk _ _ _ _ _ _ _ _ _ _ _ _ _ _ _ _ _ _ _ _ _ _ _ _ _ _ _ _ _ _ _ _ _ _ _ _ _ _ _ _ => skip); with_reducible apply tileSafe_upd)
    | with_reducible exact .inl rfl
    | (refine SafeParts.tileAt (Frame.safe (m := fm) ?_ ‹SafeParts b0›) _ _)
    | with_reducible exact (‹SafeParts _ → tileSafe _ = true› ‹_›)
    | extract_lets +onlyGivenNames x

theorem zeroDram_frame {fm : List Part} {b0 : State} (s : State) (k : Nat)
    (hfr : Frame fm b0 s) (hfm : Part.sub [.dram, .stk] fm = true) : Frame fm b0 (zeroDram s k) := by
  unfold zeroDram
  repeat' first
    | with_reducible assumption
    | exact Part.sub_trans (by decide) hfm
    | extract_lets +onlyGivenNames x
    | with_reducible apply putStk_frame
    | ((conv in State.mk _ _ _ _ _ _ _ _ _ _ _ _ _ _ _ _ _ _ _ _ _ _ _ _ _ => skip); with_reducible apply Frame.upd)
    | with_reducible exact .inr rfl
    | exact .inl ⟨Part.sub_has _ hfm (by decide), fun h => mapClear_wf _ _ _ _ h⟩

theorem stackPowered_frame {fm : List Part} {b0 : State} (s : State) (k : Nat)
    (hfr : Frame fm b0 s) (hfm : Part.sub [.regs, .tiles, .dram, .stk] fm = true) : Frame fm b0 (stackPowered s k) := by
  unfold stackPowered
  repeat' first
    | with_reducible assumption
    | exact Part.sub_trans (by decide) hfm
    | with_reducible intro _
    | (extract_lets +onlyGivenNames x; refine (fun hx => ?_ : (Frame fm b0 x) → _) ?_; (on_goal 2 => unfold x); all_goals clear_value x)
    | (extract_lets +onlyGivenNames x; refine (fun hx => ?_ : (Frame fm b0 x.1) → _) ?_; (on_goal 2 => unfold x); all_goals clear_value x)
    | (extract_lets +onlyGivenNames x; refine (fun hx => ?_ : (tileSafe x = true) → _) ?_; (on_goal 2 => unfold x); all_goals clear_value x)
    | (extract_lets +onlyGivenNames x; refine (fun hx => ?_ : (tileSafe x.1 = true) → _) ?_; (on_goal 2 => unfold x); all_goals clear_value x)
    | (extract_lets +onlyGivenNames x; refine (fun hx => ?_ : (FrameOpt fm b0 x) → _) ?_; (on_goal 2 => unfold x); all_goals clear_value x)
    | (extract_lets +onlyGivenNames x; refine (fun hx => ?_ : (Frame fm b0 x.st) → _) ?_; (on_goal 2 => unfold x); all_goals clear_value x)
    | extract_lets +onlyGivenNames x
    | with_reducible apply freeTiles_frame
    | with_reducible apply rset_frame
    | with_reducible apply zeroDram_frame
    | with_reducible apply Frame.ite
    | split

theorem stackUp_frame {fm : List Part} {b0 : State} (s : State) (k : Nat)
    (hfr : Frame fm b0 s) (hfm : Part.sub [.regs, .tiles, .dram, .stk, .pwr] fm = true) : Frame fm b0 (stackUp s k) := by
  unfold stackUp
  repeat' first
    | with_reducible assumption
    | exact Part.sub_trans (by decide) hfm
    | with_reducible intro _
    | (extract_lets +onlyGivenNames x; refine (fun hx => ?_ : (Frame fm b0 x) → _) ?_; (on_goal 2 => unfold x); all_goals clear_value x)
    | (extract_lets +onlyGivenNames x; refine (fun hx => ?_ : (Frame fm b0 x.1) → _) ?_; (on_goal 2 => unfold x); all_goals clear_value x)
    | (extract_lets +onlyGivenNames x; refine (fun hx => ?_ : (tileSafe x = true) → _) ?_; (on_goal 2 => unfold x); all_goals clear_value x)
    | (extract_lets +onlyGivenNames x; refine (fun hx => ?_ : (tileSafe x.1 = true) → _) ?_; (on_goal 2 => unfold x); all_goals clear_value x)
    | (extract_lets +onlyGivenNames x; refine (fun hx => ?_ : (FrameOpt fm b0 x) → _) ?_; (on_goal 2 => unfold x); all_goals clear_value x)
    | (extract_lets +onlyGivenNames x; refine (fun hx => ?_ : (Frame fm b0 x.st) → _) ?_; (on_goal 2 => unfold x); all_goals clear_value x)
    | extract_lets +onlyGivenNames x
    | with_reducible apply rput_frame
    | with_reducible apply rampStack_frame
    | with_reducible apply stackPowered_frame
    | with_reducible apply writeStackOn_frame
    | with_reducible apply Frame.ite
    | split

theorem execStackPowerDone_frame {fm : List Part} {b0 : State} (k : BitVec 3) (s : State)
    (hfr : Frame fm b0 s) (hfm : Part.sub [.cyc, .slot0, .tick, .tfrac, .regs, .tiles, .dram, .net, .reports, .free, .stk, .vil, .fleet, .chr, .serve, .img, .log, .pwr, .rst, .bnc, .lsr] fm = true) : FrameOut fm b0 (execStackPowerDone k s) := by
  unfold execStackPowerDone
  repeat' first
    | with_reducible assumption
    | exact Part.sub_trans (by decide) hfm
    | (extract_lets +onlyGivenNames x; refine (fun hx => ?_ : (Frame fm b0 x) → _) ?_; (on_goal 2 => unfold x); all_goals clear_value x)
    | extract_lets +onlyGivenNames x
    | with_reducible apply FrameOut.next
    | with_reducible apply stackUp_frame
    | with_reducible apply rampStack_frame
    | with_reducible apply stopStep_frame
    | with_reducible apply elapseNs_frame
    | with_reducible apply rput_frame
    | split

theorem showSwitching_frame {fm : List Part} {b0 : State} (s : State) (m : MuxRef)
    (hfr : Frame fm b0 s) (hfm : Part.sub [.regs] fm = true) : Frame fm b0 (showSwitching s m) := by
  unfold showSwitching
  repeat' first
    | with_reducible assumption
    | with_reducible apply rput_frame
    | split

theorem startSwitch_frame {fm : List Part} {b0 : State} (s : State) (m : MuxRef)
    (hfr : Frame fm b0 s) (hfm : Part.sub [.regs, .pwr] fm = true) : Frame fm b0 (startSwitch s m) := by
  unfold startSwitch
  repeat' first
    | with_reducible assumption
    | exact Part.sub_trans (by decide) hfm
    | extract_lets +onlyGivenNames x
    | with_reducible apply showSwitching_frame
    | with_reducible apply Frame.ite
    | ((conv in State.mk _ _ _ _ _ _ _ _ _ _ _ _ _ _ _ _ _ _ _ _ _ _ _ _ _ => skip); with_reducible apply Frame.upd)
    | with_reducible exact .inr rfl
    | exact .inl (Part.sub_has _ hfm (by decide))

theorem endSwitch_frame {fm : List Part} {b0 : State} (s : State) (m : MuxRef)
    (hfr : Frame fm b0 s) (hfm : Part.sub [.regs, .pwr] fm = true) : Frame fm b0 (endSwitch s m) := by
  unfold endSwitch
  repeat' first
    | with_reducible assumption
    | exact Part.sub_trans (by decide) hfm
    | extract_lets +onlyGivenNames x
    | with_reducible apply showSwitching_frame
    | ((conv in State.mk _ _ _ _ _ _ _ _ _ _ _ _ _ _ _ _ _ _ _ _ _ _ _ _ _ => skip); with_reducible apply Frame.upd)
    | with_reducible exact .inr rfl
    | exact .inl (Part.sub_has _ hfm (by decide))

theorem execMuxSwitch_frame {fm : List Part} {b0 : State} (m : MuxRef) (s : State)
    (hfr : Frame fm b0 s) (hfm : Part.sub [.regs, .pwr] fm = true) : FrameOut fm b0 (execMuxSwitch m s) := by
  unfold execMuxSwitch
  repeat' first
    | with_reducible assumption
    | exact Part.sub_trans (by decide) hfm
    | with_reducible intro _
    | with_reducible apply FrameOut.next
    | with_reducible apply endSwitch_frame
    | with_reducible apply Frame.ite
    | split
    | extract_lets +onlyGivenNames x

theorem ensureReset_frame {fm : List Part} {b0 : State} (s : State) (b : UnitRef)
    (hfr : Frame fm b0 s) (hfm : Part.sub [.regs, .tiles, .dram, .net, .reports, .free, .stk, .vil, .fleet, .log, .pwr, .rst, .bnc] fm = true) : Frame fm b0 (ensureReset s b) := by
  unfold ensureReset
  repeat' first
    | with_reducible assumption
    | exact Part.sub_trans (by decide) hfm
    | with_reducible intro _
    | with_reducible apply startBlock_frame
    | with_reducible apply Frame.ite
    | split

theorem execMuxHang_frame {fm : List Part} {b0 : State} (m : MuxRef) (s : State)
    (hfr : Frame fm b0 s) (hfm : Part.sub [.cyc, .tick, .tfrac, .regs, .tiles, .dram, .net, .reports, .free, .stk, .vil, .fleet, .log, .pwr, .rst, .bnc] fm = true) : FrameOut fm b0 (execMuxHang m s) := by
  unfold execMuxHang
  repeat' first
    | with_reducible assumption
    | exact Part.sub_trans (by decide) hfm
    | with_reducible intro _
    | with_reducible apply FrameOut.next
    | with_reducible apply ensureReset_frame
    | with_reducible apply rbump_frame
    | with_reducible apply endSwitch_frame
    | with_reducible apply elapseNs_frame
    | with_reducible apply Frame.foldl
    | with_reducible apply Frame.foldlFst
    | with_reducible apply Frame.ite
    | (with_reducible refine Frame.ofPair ‹_ = (_, _)› ?_)
    | split
    | ((conv in State.mk _ _ _ _ _ _ _ _ _ _ _ _ _ _ _ _ _ _ _ _ _ _ _ _ _ => skip); with_reducible apply Frame.upd)
    | with_reducible exact .inr rfl
    | exact .inl (Part.sub_has _ hfm (by decide))
    | exact .inl ⟨Part.sub_has _ hfm (by decide), fun h => h⟩
    | exact .inl ⟨Part.sub_has _ hfm (by decide), fun h => by simpa only [List.length_set, List.length_map, List.length_zipIdx] using h⟩
    | extract_lets +onlyGivenNames x

theorem execPllLock_frame {fm : List Part} {b0 : State} (k : BitVec 3) (pll : BitVec 3) (s : State)
    (hfr : Frame fm b0 s) (hfm : Part.sub [.regs, .pwr] fm = true) : FrameOut fm b0 (execPllLock k pll s) := by
  unfold execPllLock
  repeat' first
    | with_reducible assumption
    | exact Part.sub_trans (by decide) hfm
    | extract_lets +onlyGivenNames x
    | with_reducible apply FrameOut.next
    | with_reducible apply rset_frame
    | with_reducible apply Frame.ite
    | split
    | ((conv in State.mk _ _ _ _ _ _ _ _ _ _ _ _ _ _ _ _ _ _ _ _ _ _ _ _ _ => skip); with_reducible apply Frame.upd)
    | with_reducible exact .inr rfl
    | exact .inl (Part.sub_has _ hfm (by decide))

theorem noteLoss_frame {fm : List Part} {b0 : State} (s : State) (c : ClockLoss)
    (hfr : Frame fm b0 s) (hfm : Part.sub [.regs] fm = true) : Frame fm b0 (noteLoss s c) := by
  unfold noteLoss
  repeat' first
    | with_reducible assumption
    | exact Part.sub_trans (by decide) hfm
    | with_reducible intro _
    | with_reducible apply rset_frame
    | with_reducible apply rput_frame
    | (with_reducible refine Frame.ofPair ‹_ = (_, _)› ?_)
    | split
    | ((conv in State.mk _ _ _ _ _ _ _ _ _ _ _ _ _ _ _ _ _ _ _ _ _ _ _ _ _ => skip); with_reducible apply Frame.upd)
    | with_reducible exact .inr rfl
    | exact .inl (Part.sub_has _ hfm (by decide))
    | exact .inl ⟨Part.sub_has _ hfm (by decide), fun h => h⟩
    | exact .inl ⟨Part.sub_has _ hfm (by decide), fun h => by simpa only [List.length_set, List.length_map, List.length_zipIdx] using h⟩
    | extract_lets +onlyGivenNames x

theorem execLossOfClock_frame {fm : List Part} {b0 : State} (c : ClockLoss) (s : State)
    (hfr : Frame fm b0 s) (hfm : Part.sub [.slot0, .tick, .tfrac, .regs, .tiles, .dram, .net, .reports, .free, .stk, .vil, .fleet, .chr, .serve, .img, .log, .pwr, .rst, .bnc, .lsr] fm = true) : FrameOut fm b0 (execLossOfClock c s) := by
  unfold execLossOfClock
  repeat' first
    | with_reducible assumption
    | exact Part.sub_trans (by decide) hfm
    | extract_lets +onlyGivenNames x
    | with_reducible apply FrameOut.next
    | with_reducible apply noteLoss_frame
    | with_reducible apply safeState_frame
    | with_reducible apply rbump_frame

theorem execClockReturn_frame {fm : List Part} {b0 : State} (c : ClockLoss) (s : State)
    (hfr : Frame fm b0 s) (hfm : Part.sub [.regs] fm = true) : FrameOut fm b0 (execClockReturn c s) := by
  unfold execClockReturn
  repeat' first
    | with_reducible assumption
    | exact Part.sub_trans (by decide) hfm
    | with_reducible intro _
    | with_reducible apply FrameOut.next
    | with_reducible apply rset_frame
    | (with_reducible refine Frame.ofPair ‹_ = (_, _)› ?_)
    | split
    | ((conv in State.mk _ _ _ _ _ _ _ _ _ _ _ _ _ _ _ _ _ _ _ _ _ _ _ _ _ => skip); with_reducible apply Frame.upd)
    | with_reducible exact .inr rfl
    | exact .inl (Part.sub_has _ hfm (by decide))
    | exact .inl ⟨Part.sub_has _ hfm (by decide), fun h => h⟩
    | exact .inl ⟨Part.sub_has _ hfm (by decide), fun h => by simpa only [List.length_set, List.length_map, List.length_zipIdx] using h⟩
    | extract_lets +onlyGivenNames x

theorem clearPowerOn_frame {fm : List Part} {b0 : State} (s : State)
    (hfr : Frame fm b0 s) (hfm : Part.sub [.regs, .rst, .lsr] fm = true) : Frame fm b0 (clearPowerOn s) := by
  unfold clearPowerOn
  repeat' first
    | with_reducible assumption
    | exact Part.sub_trans (by decide) hfm
    | with_reducible intro _
    | (extract_lets +onlyGivenNames x; refine (fun hx => ?_ : (Frame fm b0 x) → _) ?_; (on_goal 2 => unfold x); all_goals clear_value x)
    | (extract_lets +onlyGivenNames x; refine (fun hx => ?_ : (Frame fm b0 x.1) → _) ?_; (on_goal 2 => unfold x); all_goals clear_value x)
    | (extract_lets +onlyGivenNames x; refine (fun hx => ?_ : (tileSafe x = true) → _) ?_; (on_goal 2 => unfold x); all_goals clear_value x)
    | (extract_lets +onlyGivenNames x; refine (fun hx => ?_ : (tileSafe x.1 = true) → _) ?_; (on_goal 2 => unfold x); all_goals clear_value x)
    | (extract_lets +onlyGivenNames x; refine (fun hx => ?_ : (FrameOpt fm b0 x) → _) ?_; (on_goal 2 => unfold x); all_goals clear_value x)
    | (extract_lets +onlyGivenNames x; refine (fun hx => ?_ : (Frame fm b0 x.st) → _) ?_; (on_goal 2 => unfold x); all_goals clear_value x)
    | extract_lets +onlyGivenNames x
    | with_reducible apply setRword_frame
    | with_reducible apply recordCause_frame
    | ((conv in State.mk _ _ _ _ _ _ _ _ _ _ _ _ _ _ _ _ _ _ _ _ _ _ _ _ _ => skip); with_reducible apply Frame.upd)
    | with_reducible exact .inr rfl
    | exact .inl (Part.sub_has _ hfm (by decide))
    | exact .inl ⟨Part.sub_has _ hfm (by decide), fun h => h⟩
    | exact .inl ⟨Part.sub_has _ hfm (by decide), fun h => by simpa only [List.length_set, List.length_map, List.length_zipIdx] using h⟩

theorem execPowerLoss_frame {fm : List Part} {b0 : State} (s : State)
    (hfr : Frame fm b0 s) (hfm : Part.sub [.slot0, .tick, .tfrac, .regs, .tiles, .dram, .net, .reports, .free, .stk, .vil, .fleet, .chr, .serve, .img, .log, .pwr, .rst, .bnc, .snd, .lsr] fm = true) : FrameOut fm b0 (execPowerLoss s) := by
  unfold execPowerLoss
  repeat' first
    | with_reducible assumption
    | exact Part.sub_trans (by decide) hfm
    | (extract_lets +onlyGivenNames x; refine (fun hx => ?_ : (Frame fm b0 x) → _) ?_; (on_goal 2 => unfold x); all_goals clear_value x)
    | extract_lets +onlyGivenNames x
    | with_reducible apply FrameOut.next
    | with_reducible apply clearPowerOn_frame
    | with_reducible apply endLong_frame
    | with_reducible apply dropIsland_frame
    | with_reducible apply dropDomains_frame
    | ((conv in State.mk _ _ _ _ _ _ _ _ _ _ _ _ _ _ _ _ _ _ _ _ _ _ _ _ _ => skip); with_reducible apply Frame.upd)
    | with_reducible exact .inr rfl
    | exact .inl ⟨Part.sub_has _ hfm (by decide), fun _ => rfl⟩

theorem startMeasure_frame {fm : List Part} {b0 : State} (s : State) (f : FmeasRef)
    (hfr : Frame fm b0 s) (hfm : Part.sub [.regs, .pwr] fm = true) : Frame fm b0 (startMeasure s f) := by
  unfold startMeasure
  repeat' first
    | with_reducible assumption
    | exact Part.sub_trans (by decide) hfm
    | (extract_lets +onlyGivenNames x; refine (fun hx => ?_ : (Frame fm b0 x) → _) ?_; (on_goal 2 => unfold x); all_goals clear_value x)
    | extract_lets +onlyGivenNames x
    | with_reducible apply rput_frame
    | with_reducible apply Frame.ite
    | ((conv in State.mk _ _ _ _ _ _ _ _ _ _ _ _ _ _ _ _ _ _ _ _ _ _ _ _ _ => skip); with_reducible apply Frame.upd)
    | with_reducible exact .inr rfl
    | exact .inl (Part.sub_has _ hfm (by decide))

theorem execFmeasGo_frame {fm : List Part} {b0 : State} (f : FmeasRef) (s : State)
    (hfr : Frame fm b0 s) (hfm : Part.sub [.regs, .pwr] fm = true) : FrameOut fm b0 (execFmeasGo f s) := by
  unfold execFmeasGo
  repeat' first
    | with_reducible assumption
    | extract_lets +onlyGivenNames x
    | with_reducible apply FrameOut.next
    | with_reducible apply startMeasure_frame

theorem execFmeasDone_frame {fm : List Part} {b0 : State} (f : FmeasRef) (count : Word) (s : State)
    (hfr : Frame fm b0 s) (hfm : Part.sub [.regs, .pwr] fm = true) : FrameOut fm b0 (execFmeasDone f count s) := by
  unfold execFmeasDone
  repeat' first
    | with_reducible assumption
    | exact Part.sub_trans (by decide) hfm
    | with_reducible intro _
    | with_reducible apply FrameOut.next
    | with_reducible apply rset_frame
    | with_reducible apply rput_frame
    | with_reducible apply Frame.ite
    | split
    | ((conv in State.mk _ _ _ _ _ _ _ _ _ _ _ _ _ _ _ _ _ _ _ _ _ _ _ _ _ => skip); with_reducible apply Frame.upd)
    | with_reducible exact .inr rfl
    | exact .inl (Part.sub_has _ hfm (by decide))
    | exact .inl ⟨Part.sub_has _ hfm (by decide), fun h => h⟩
    | exact .inl ⟨Part.sub_has _ hfm (by decide), fun h => by simpa only [List.length_set, List.length_map, List.length_zipIdx] using h⟩
    | extract_lets +onlyGivenNames x

theorem endAutoCommit_frame {fm : List Part} {b0 : State} (s : State) (ok : Bool)
    (hfr : Frame fm b0 s) (hfm : Part.sub [.regs, .stk, .log, .bnc] fm = true) : Frame fm b0 (endAutoCommit s ok) := by
  unfold endAutoCommit
  repeat' first
    | with_reducible assumption
    | exact Part.sub_trans (by decide) hfm
    | with_reducible intro _
    | with_reducible apply showCommit_frame
    | with_reducible apply endStackCommit_frame
    | (with_reducible refine Frame.ofPair ‹_ = (_, _)› ?_)
    | split
    | ((conv in State.mk _ _ _ _ _ _ _ _ _ _ _ _ _ _ _ _ _ _ _ _ _ _ _ _ _ => skip); with_reducible apply Frame.upd)
    | with_reducible exact .inr rfl
    | exact .inl (Part.sub_has _ hfm (by decide))
    | exact .inl ⟨Part.sub_has _ hfm (by decide), fun h => h⟩
    | exact .inl ⟨Part.sub_has _ hfm (by decide), fun h => by simpa only [List.length_set, List.length_map, List.length_zipIdx] using h⟩

theorem endMasks_frame {fm : List Part} {b0 : State} (s : State) (w : Word) (fails : Bool)
    (hfr : Frame fm b0 s) (hfm : Part.sub [.regs, .stk, .log, .bnc] fm = true) : Frame fm b0 (endMasks s w fails) := by
  unfold endMasks
  repeat' first
    | with_reducible assumption
    | exact Part.sub_trans (by decide) hfm
    | with_reducible intro _
    | (extract_lets +onlyGivenNames x; refine (fun hx => ?_ : (Frame fm b0 x) → _) ?_; (on_goal 2 => unfold x); all_goals clear_value x)
    | (extract_lets +onlyGivenNames x; refine (fun hx => ?_ : (Frame fm b0 x.1) → _) ?_; (on_goal 2 => unfold x); all_goals clear_value x)
    | (extract_lets +onlyGivenNames x; refine (fun hx => ?_ : (tileSafe x = true) → _) ?_; (on_goal 2 => unfold x); all_goals clear_value x)
    | (extract_lets +onlyGivenNames x; refine (fun hx => ?_ : (tileSafe x.1 = true) → _) ?_; (on_goal 2 => unfold x); all_goals clear_value x)
    | (extract_lets +onlyGivenNames x; refine (fun hx => ?_ : (FrameOpt fm b0 x) → _) ?_; (on_goal 2 => unfold x); all_goals clear_value x)
    | (extract_lets +onlyGivenNames x; refine (fun hx => ?_ : (Frame fm b0 x.st) → _) ?_; (on_goal 2 => unfold x); all_goals clear_value x)
    | extract_lets +onlyGivenNames x
    | with_reducible apply endMasked_frame
    | with_reducible apply Frame.foldl
    | with_reducible apply Frame.foldlFst
    | split
    | ((conv in State.mk _ _ _ _ _ _ _ _ _ _ _ _ _ _ _ _ _ _ _ _ _ _ _ _ _ => skip); with_reducible apply Frame.upd)
    | with_reducible exact .inr rfl
    | exact .inl (Part.sub_has _ hfm (by decide))
    | exact .inl ⟨Part.sub_has _ hfm (by decide), fun h => h⟩
    | exact .inl ⟨Part.sub_has _ hfm (by decide), fun h => by simpa only [List.length_set, List.length_map, List.length_zipIdx] using h⟩

theorem regainNumber_frame {fm : List Part} {b0 : State} (s : State)
    (hfr : Frame fm b0 s) (hfm : Part.sub [.regs] fm = true) : Frame fm b0 (regainNumber s) := by
  unfold regainNumber
  repeat' first
    | with_reducible assumption
    | exact Part.sub_trans (by decide) hfm
    | with_reducible intro _
    | with_reducible apply fillNeighbours_frame
    | with_reducible apply rput_frame
    | with_reducible apply Frame.ite
    | (with_reducible refine Frame.ofPair ‹_ = (_, _)› ?_)
    | split
    | ((conv in State.mk _ _ _ _ _ _ _ _ _ _ _ _ _ _ _ _ _ _ _ _ _ _ _ _ _ => skip); with_reducible apply Frame.upd)
    | with_reducible exact .inr rfl
    | exact .inl (Part.sub_has _ hfm (by decide))
    | exact .inl ⟨Part.sub_has _ hfm (by decide), fun h => h⟩
    | exact .inl ⟨Part.sub_has _ hfm (by decide), fun h => by simpa only [List.length_set, List.length_map, List.length_zipIdx] using h⟩

theorem portUp_frame {fm : List Part} {b0 : State} (s : State) (p : Nat)
    (hfr : Frame fm b0 s) (hfm : Part.sub [.regs, .fleet] fm = true) : Frame fm b0 (portUp s p) := by
  unfold portUp
  repeat' first
    | with_reducible assumption
    | exact Part.sub_trans (by decide) hfm
    | with_reducible intro _
    | (extract_lets +onlyGivenNames x; refine (fun hx => ?_ : (Frame fm b0 x) → _) ?_; (on_goal 2 => unfold x); all_goals clear_value x)
    | (extract_lets +onlyGivenNames x; refine (fun hx => ?_ : (Frame fm b0 x.1) → _) ?_; (on_goal 2 => unfold x); all_goals clear_value x)
    | (extract_lets +onlyGivenNames x; refine (fun hx => ?_ : (tileSafe x = true) → _) ?_; (on_goal 2 => unfold x); all_goals clear_value x)
    | (extract_lets +onlyGivenNames x; refine (fun hx => ?_ : (tileSafe x.1 = true) → _) ?_; (on_goal 2 => unfold x); all_goals clear_value x)
    | (extract_lets +onlyGivenNames x; refine (fun hx => ?_ : (FrameOpt fm b0 x) → _) ?_; (on_goal 2 => unfold x); all_goals clear_value x)
    | (extract_lets +onlyGivenNames x; refine (fun hx => ?_ : (Frame fm b0 x.st) → _) ?_; (on_goal 2 => unfold x); all_goals clear_value x)
    | extract_lets +onlyGivenNames x
    | with_reducible apply endTraining_frame
    | with_reducible apply regainNumber_frame
    | with_reducible apply Frame.ite
    | split
    | ((conv in State.mk _ _ _ _ _ _ _ _ _ _ _ _ _ _ _ _ _ _ _ _ _ _ _ _ _ => skip); with_reducible apply Frame.upd)
    | with_reducible exact .inr rfl
    | exact .inl (Part.sub_has _ hfm (by decide))
    | exact .inl ⟨Part.sub_has _ hfm (by decide), fun h => h⟩
    | exact .inl ⟨Part.sub_has _ hfm (by decide), fun h => by simpa only [List.length_set, List.length_map, List.length_zipIdx] using h⟩

end Sys2Proof.Machine
end

