-- ==== Sys2Proof/Laws/FramesModule.lean ====
section
/-!
SUPPORT. Frames of the operations of the model (module): which parts of the state each can touch, and that a safe
machine stays safe.
-/

namespace Sys2Proof.Machine

theorem openBytes_frame {fm : List Part} {b0 : State} (s : State) (n : Nat)
    (hfr : Frame fm b0 s) (hfm : Part.sub [.free] fm = true) : Frame fm b0 (openBytes s n).1 := by
  unfold openBytes
  repeat' first
    | with_reducible assumption
    | extract_lets +onlyGivenNames x
    | ((conv in State.mk _ _ _ _ _ _ _ _ _ _ _ _ _ _ _ _ _ _ _ _ _ _ _ _ _ => skip); with_reducible apply Frame.upd)
    | with_reducible exact .inr rfl
    | exact .inl (Part.sub_has _ hfm (by decide))

theorem openDest_frame {fm : List Part} {b0 : State} (s : State) (p : Packet) (n : Nat)
    (hfr : Frame fm b0 s) (hfm : Part.sub [.cyc, .tick, .tfrac, .regs, .tiles, .dram, .net, .reports, .free, .stk, .serve, .log] fm = true) : Frame fm b0 (openDest s p n) := by
  unfold openDest
  repeat' first
    | with_reducible assumption
    | exact Part.sub_trans (by decide) hfm
    | (extract_lets +onlyGivenNames x; refine (fun hx => ?_ : (Frame fm b0 x.1) → _) ?_; (on_goal 2 => unfold x); all_goals clear_value x)
    | extract_lets +onlyGivenNames x
    | with_reducible apply openBytes_frame
    | with_reducible apply destWrite_frame
    | with_reducible apply appendWindow_frame
    | with_reducible apply pageWindow_frame
    | with_reducible apply Frame.ite
    | split

theorem openPacket_frame {fm : List Part} {b0 : State} (s : State) (p : Packet)
    (hfr : Frame fm b0 s) (hfm : Part.sub [.cyc, .tick, .tfrac, .regs, .tiles, .dram, .net, .reports, .free, .stk, .serve, .log] fm = true) : Frame fm b0 (openPacket s p) := by
  unfold openPacket
  repeat' first
    | with_reducible assumption
    | with_reducible intro _
    | extract_lets +onlyGivenNames x
    | with_reducible apply openDest_frame
    | with_reducible apply Frame.foldl
    | split

theorem abortTile_frame {fm : List Part} {b0 : State} (s : State) (r : TileRef) (site : Nat)
    (hfr : Frame fm b0 s) (hfm : Part.sub [.cyc, .tick, .tfrac, .regs, .tiles, .dram, .net, .reports, .free, .stk, .serve, .log] fm = true) : Frame fm b0 (abortTile s r site) := by
  unfold abortTile
  repeat' first
    | with_reducible assumption
    | exact Part.sub_trans (by decide) hfm
    | with_reducible intro _
    | (extract_lets +onlyGivenNames x; refine (fun hx => ?_ : (Frame fm b0 x) → _) ?_; (on_goal 2 => unfold x); all_goals clear_value x)
    | (extract_lets +onlyGivenNames x; refine (fun hx => ?_ : (Frame fm b0 x.1) → _) ?_; (on_goal 2 => unfold x); all_goals clear_value x)
    | (extract_lets +onlyGivenNames x; refine (fun hx => ?_ : (SafeParts b0 → tileSafe x = true) → _) ?_; (on_goal 2 => unfold x); all_goals clear_value x)
    | (extract_lets +onlyGivenNames x; refine (fun hx => ?_ : (SafeParts b0 → tileSafe x.1 = true) → _) ?_; (on_goal 2 => unfold x); all_goals clear_value x)
    | (extract_lets +onlyGivenNames x; refine (fun hx => ?_ : (FrameOpt fm b0 x) → _) ?_; (on_goal 2 => unfold x); all_goals clear_value x)
    | (extract_lets +onlyGivenNames x; refine (fun hx => ?_ : (Frame fm b0 x.st) → _) ?_; (on_goal 2 => unfold x); all_goals clear_value x)
    | extract_lets +onlyGivenNames x
    | with_reducible apply openPacket_frame
    | with_reducible apply openBytes_frame
    | with_reducible apply changeSite_frame
    | with_reducible apply rbump_frame
    | with_reducible apply swrite_safe
    | with_reducible apply Frame.foldl
    | with_reducible apply Frame.foldlFst
    | ((conv in State.mk _ _ _ _ _ _ _ _ _ _ _ _ _ _ _ _ _ _ _ _ _ _ _ _ _ => skip); with_reducible apply Frame.upd)
    | with_reducible exact .inr rfl
    | exact .inl (Part.sub_has _ hfm (by decide))
    | exact .inl ⟨Part.sub_has _ hfm (by decide), fun h => h⟩
    | exact .inl ⟨Part.sub_has _ hfm (by decide), fun h => by simpa only [List.length_set, List.length_map, List.length_zipIdx] using h⟩
    | ((conv in Tile.mk _ _ _ _ _ _ _ _ _ _ _ _ _ _ _ _ _ _ _ _ _ _ _ _ _ _ _ _ _ _ _ _ _ _ _ _ _ _ _ _ => skip); with_reducible apply tileSafe_upd)
    | with_reducible exact .inl rfl
    | (refine SafeParts.tileAt (Frame.safe (m := fm) ?_ ‹SafeParts b0›) _ _)
    | with_reducible exact (‹SafeParts _ → tileSafe _ = true› ‹_›)

theorem resetThrough_frame {fm : List Part} {b0 : State} (s : State) (r : TileRef) (site : Nat)
    (hfr : Frame fm b0 s) (hfm : Part.sub [.cyc, .tick, .tfrac, .regs, .tiles, .dram, .net, .reports, .free, .stk, .serve, .log, .pwr, .rst] fm = true) : Frame fm b0 (resetThrough s r site) := by
  unfold resetThrough
  repeat' first
    | with_reducible assumption
    | exact Part.sub_trans (by decide) hfm
    | with_reducible intro _
    | (extract_lets +onlyGivenNames x; refine (fun hx => ?_ : (Frame fm b0 x) → _) ?_; (on_goal 2 => unfold x); all_goals clear_value x)
    | (extract_lets +onlyGivenNames x; refine (fun hx => ?_ : (Frame fm b0 x.1) → _) ?_; (on_goal 2 => unfold x); all_goals clear_value x)
    | (extract_lets +onlyGivenNames x; refine (fun hx => ?_ : (SafeParts b0 → tileSafe x = true) → _) ?_; (on_goal 2 => unfold x); all_goals clear_value x)
    | (extract_lets +onlyGivenNames x; refine (fun hx => ?_ : (SafeParts b0 → tileSafe x.1 = true) → _) ?_; (on_goal 2 => unfold x); all_goals clear_value x)
    | (extract_lets +onlyGivenNames x; refine (fun hx => ?_ : (FrameOpt fm b0 x) → _) ?_; (on_goal 2 => unfold x); all_goals clear_value x)
    | (extract_lets +onlyGivenNames x; refine (fun hx => ?_ : (Frame fm b0 x.st) → _) ?_; (on_goal 2 => unfold x); all_goals clear_value x)
    | extract_lets +onlyGivenNames x
    | with_reducible apply rset_frame
    | with_reducible apply assertTile_frame
    | with_reducible apply abortTile_frame
    | with_reducible apply releaseTile_frame
    | with_reducible apply lastBlock_frame
    | with_reducible apply Frame.ite
    | split
    | (refine SafeParts.tileAt (Frame.safe (m := fm) ?_ ‹SafeParts b0›) _ _)
    | with_reducible exact (‹SafeParts _ → tileSafe _ = true› ‹_›)

theorem resetTileNow_frame {fm : List Part} {b0 : State} (s : State) (r : TileRef)
    (hfr : Frame fm b0 s) (hfm : Part.sub [.cyc, .tick, .tfrac, .regs, .tiles, .dram, .net, .reports, .free, .stk, .serve, .log, .pwr, .rst] fm = true) : Frame fm b0 (resetTileNow s r) := by
  unfold resetTileNow
  repeat' first
    | with_reducible assumption
    | exact Part.sub_trans (by decide) hfm
    | with_reducible intro _
    | with_reducible apply resetThrough_frame
    | with_reducible apply changeTile_frame
    | with_reducible apply busyAt_safe
    | with_reducible apply setRunOff_safe
    | with_reducible apply Frame.ite
    | (with_reducible refine Frame.ofPair ‹_ = (_, _)› ?_)
    | split
    | ((conv in State.mk _ _ _ _ _ _ _ _ _ _ _ _ _ _ _ _ _ _ _ _ _ _ _ _ _ => skip); with_reducible apply Frame.upd)
    | with_reducible exact .inr rfl
    | exact .inl (Part.sub_has _ hfm (by decide))
    | exact .inl ⟨Part.sub_has _ hfm (by decide), fun h => h⟩
    | exact .inl ⟨Part.sub_has _ hfm (by decide), fun h => by simpa only [List.length_set, List.length_map, List.length_zipIdx] using h⟩
    | ((conv in Tile.mk _ _ _ _ _ _ _ _ _ _ _ _ _ _ _ _ _ _ _ _ _ _ _ _ _ _ _ _ _ _ _ _ _ _ _ _ _ _ _ _ => skip); with_reducible apply tileSafe_upd)
    | with_reducible exact .inl rfl
    | extract_lets +onlyGivenNames x

theorem stopTiles_frame {fm : List Part} {b0 : State} (s : State) (b : Nat)
    (hfr : Frame fm b0 s) (hfm : Part.sub [.cyc, .tick, .tfrac, .regs, .tiles, .dram, .net, .reports, .free, .stk, .serve, .log, .pwr, .rst] fm = true) : Frame fm b0 (stopTiles s b) := by
  unfold stopTiles
  repeat' first
    | with_reducible assumption
    | exact Part.sub_trans (by decide) hfm
    | with_reducible intro _
    | extract_lets +onlyGivenNames x
    | with_reducible apply resetTileNow_frame
    | with_reducible apply releasePins_frame
    | with_reducible apply Frame.foldl

theorem abandonNow_frame {fm : List Part} {b0 : State} (s : State) (b cls k l cause : Nat) (at_ : Word)
    (hfr : Frame fm b0 s) (hfm : Part.sub [.cyc, .slot0, .tick, .tfrac, .regs, .tiles, .dram, .net, .reports, .free, .stk, .vil, .fleet, .chr, .serve, .img, .log, .pwr, .rst, .bnc, .lsr] fm = true) : Frame fm b0 (abandonNow s b cls k l cause at_) := by
  unfold abandonNow
  repeat' first
    | with_reducible assumption
    | exact Part.sub_trans (by decide) hfm
    | with_reducible intro _
    | (extract_lets +onlyGivenNames x; refine (fun hx => ?_ : (Frame fm b0 x) → _) ?_; (on_goal 2 => unfold x); all_goals clear_value x)
    | (extract_lets +onlyGivenNames x; refine (fun hx => ?_ : (Frame fm b0 x.1) → _) ?_; (on_goal 2 => unfold x); all_goals clear_value x)
    | (extract_lets +onlyGivenNames x; refine (fun hx => ?_ : (tileSafe x = true) → _) ?_; (on_goal 2 => unfold x); all_goals clear_value x)
    | (extract_lets +onlyGivenNames x; refine (fun hx => ?_ : (tileSafe x.1 = true) → _) ?_; (on_goal 2 => unfold x); all_goals clear_value x)
    | (extract_lets +onlyGivenNames x; refine (fun hx => ?_ : (FrameOpt fm b0 x) → _) ?_; (on_goal 2 => unfold x); all_goals clear_value x)
    | (extract_lets +onlyGivenNames x; refine (fun hx => ?_ : (Frame fm b0 x.st) → _) ?_; (on_goal 2 => unfold x); all_goals clear_value x)
    | extract_lets +onlyGivenNames x
    | with_reducible apply stopTiles_frame
    | with_reducible apply countPending_frame
    | with_reducible apply noteAbandon_frame
    | with_reducible apply stopAfterLast_frame
    | with_reducible apply giveUp_frame
    | with_reducible apply clearBerthCounters_frame
    | with_reducible apply putBerth_frame
    | with_reducible apply shapeBerth_frame
    | with_reducible apply setReplaying_frame
    | with_reducible apply runLoads_frame
    | with_reducible apply Frame.ite
    | (with_reducible refine Frame.ofPair ‹_ = (_, _)› ?_)
    | split
    | ((conv in State.mk _ _ _ _ _ _ _ _ _ _ _ _ _ _ _ _ _ _ _ _ _ _ _ _ _ => skip); with_reducible apply Frame.upd)
    | with_reducible exact .inr rfl
    | exact .inl (Part.sub_has _ hfm (by decide))
    | exact .inl ⟨Part.sub_has _ hfm (by decide), fun h => h⟩
    | exact .inl ⟨Part.sub_has _ hfm (by decide), fun h => by simpa only [List.length_set, List.length_map, List.length_zipIdx] using h⟩

theorem berthFault_frame {fm : List Part} {b0 : State} (s : State) (b cls k l cause : Nat)
    (hfr : Frame fm b0 s) (hfm : Part.sub [.cyc, .slot0, .tick, .tfrac, .regs, .tiles, .dram, .net, .reports, .free, .stk, .vil, .fleet, .chr, .serve, .img, .log, .pwr, .rst, .bnc, .lsr] fm = true) : Frame fm b0 (berthFault s b cls k l cause) := by
  unfold berthFault
  repeat' first
    | with_reducible assumption
    | exact Part.sub_trans (by decide) hfm
    | extract_lets +onlyGivenNames x
    | with_reducible apply sendRecords_frame
    | with_reducible apply abandonNow_frame
    | with_reducible apply putBerth_frame
    | with_reducible apply sendHelm_frame
    | with_reducible apply Frame.ite
    | split

theorem stackFault_frame {fm : List Part} {b0 : State} (s : State) (cls k : Nat)
    (hfr : Frame fm b0 s) (hfm : Part.sub [.cyc, .slot0, .tick, .tfrac, .regs, .tiles, .dram, .net, .reports, .free, .stk, .vil, .fleet, .chr, .serve, .img, .log, .pwr, .rst, .bnc, .lsr] fm = true) : Frame fm b0 (stackFault s cls k) := by
  unfold stackFault
  repeat' first
    | with_reducible assumption
    | exact Part.sub_trans (by decide) hfm
    | with_reducible intro _
    | extract_lets +onlyGivenNames x
    | with_reducible apply berthFault_frame
    | with_reducible apply Frame.foldl
    | with_reducible apply Frame.ite

theorem moduleFault_frame {fm : List Part} {b0 : State} (s : State) (cls : Nat)
    (hfr : Frame fm b0 s) (hfm : Part.sub [.cyc, .slot0, .tick, .tfrac, .regs, .tiles, .dram, .net, .reports, .free, .stk, .vil, .fleet, .chr, .serve, .img, .log, .pwr, .rst, .bnc, .lsr] fm = true) : Frame fm b0 (moduleFault s cls) := by
  unfold moduleFault
  repeat' first
    | with_reducible assumption
    | exact Part.sub_trans (by decide) hfm
    | with_reducible intro _
    | extract_lets +onlyGivenNames x
    | with_reducible apply berthFault_frame
    | with_reducible apply Frame.foldl

theorem applyCharged_frame {fm : List Part} {b0 : State} (s : State) (b : Nat)
    (hfr : Frame fm b0 s) (hfm : Part.sub [.cyc, .slot0, .tick, .tfrac, .regs, .tiles, .dram, .net, .reports, .free, .stk, .vil, .fleet, .chr, .serve, .img, .log, .pwr, .rst, .bnc, .lsr] fm = true) : Frame fm b0 (applyCharged s b) := by
  unfold applyCharged
  repeat' first
    | with_reducible assumption
    | exact Part.sub_trans (by decide) hfm
    | extract_lets +onlyGivenNames x
    | with_reducible apply berthFault_frame
    | with_reducible apply putBerth_frame
    | split

theorem stepBoundary_frame {fm : List Part} {b0 : State} (s : State) (b : Nat)
    (hfr : Frame fm b0 s) (hfm : Part.sub [.cyc, .slot0, .tick, .tfrac, .regs, .tiles, .dram, .net, .reports, .free, .stk, .vil, .fleet, .chr, .serve, .img, .log, .pwr, .rst, .bnc, .lsr] fm = true) : Frame fm b0 (stepBoundary s b) := by
  unfold stepBoundary
  repeat' first
    | with_reducible assumption
    | exact Part.sub_trans (by decide) hfm
    | with_reducible intro _
    | (extract_lets +onlyGivenNames x; refine (fun hx => ?_ : (Frame fm b0 x) → _) ?_; (on_goal 2 => unfold x); all_goals clear_value x)
    | (extract_lets +onlyGivenNames x; refine (fun hx => ?_ : (Frame fm b0 x.1) → _) ?_; (on_goal 2 => unfold x); all_goals clear_value x)
    | (extract_lets +onlyGivenNames x; refine (fun hx => ?_ : (tileSafe x = true) → _) ?_; (on_goal 2 => unfold x); all_goals clear_value x)
    | (extract_lets +onlyGivenNames x; refine (fun hx => ?_ : (tileSafe x.1 = true) → _) ?_; (on_goal 2 => unfold x); all_goals clear_value x)
    | (extract_lets +onlyGivenNames x; refine (fun hx => ?_ : (FrameOpt fm b0 x) → _) ?_; (on_goal 2 => unfold x); all_goals clear_value x)
    | (extract_lets +onlyGivenNames x; refine (fun hx => ?_ : (Frame fm b0 x.st) → _) ?_; (on_goal 2 => unfold x); all_goals clear_value x)
    | extract_lets +onlyGivenNames x
    | with_reducible apply endCancelled_frame
    | with_reducible apply sweepVersions_frame
    | with_reducible apply rebindOne_frame
    | with_reducible apply placeAll_frame
    | with_reducible apply crossBoundary_frame
    | with_reducible apply writeSlot_frame
    | with_reducible apply applyCharged_frame
    | with_reducible apply putBerth_frame
    | with_reducible apply Frame.foldl
    | with_reducible apply Frame.foldlFst
    | ((conv in State.mk _ _ _ _ _ _ _ _ _ _ _ _ _ _ _ _ _ _ _ _ _ _ _ _ _ => skip); with_reducible apply Frame.upd)
    | with_reducible exact .inr rfl
    | exact .inl (Part.sub_has _ hfm (by decide))
    | exact .inl ⟨Part.sub_has _ hfm (by decide), fun h => h⟩
    | exact .inl ⟨Part.sub_has _ hfm (by decide), fun h => by simpa only [List.length_set, List.length_map, List.length_zipIdx] using h⟩

theorem execStepBoundary_frame {fm : List Part} {b0 : State} (b : BitVec 4) (s : State)
    (hfr : Frame fm b0 s) (hfm : Part.sub [.cyc, .slot0, .tick, .tfrac, .regs, .tiles, .dram, .net, .reports, .free, .stk, .vil, .fleet, .chr, .serve, .img, .log, .pwr, .rst, .bnc, .lsr] fm = true) : FrameOut fm b0 (execStepBoundary b s) := by
  unfold execStepBoundary
  repeat' first
    | with_reducible assumption
    | exact Part.sub_trans (by decide) hfm
    | with_reducible intro _
    | (extract_lets +onlyGivenNames x; refine (fun hx => ?_ : (Frame fm b0 x) → _) ?_; (on_goal 2 => unfold x); all_goals clear_value x)
    | (extract_lets +onlyGivenNames x; refine (fun hx => ?_ : (Frame fm b0 x.1) → _) ?_; (on_goal 2 => unfold x); all_goals clear_value x)
    | (extract_lets +onlyGivenNames x; refine (fun hx => ?_ : (tileSafe x = true) → _) ?_; (on_goal 2 => unfold x); all_goals clear_value x)
    | (extract_lets +onlyGivenNames x; refine (fun hx => ?_ : (tileSafe x.1 = true) → _) ?_; (on_goal 2 => unfold x); all_goals clear_value x)
    | (extract_lets +onlyGivenNames x; refine (fun hx => ?_ : (FrameOpt fm b0 x) → _) ?_; (on_goal 2 => unfold x); all_goals clear_value x)
    | (extract_lets +onlyGivenNames x; refine (fun hx => ?_ : (Frame fm b0 x.st) → _) ?_; (on_goal 2 => unfold x); all_goals clear_value x)
    | extract_lets +onlyGivenNames x
    | with_reducible apply FrameOut.next
    | with_reducible apply rbump_frame
    | with_reducible apply payWatch_frame
    | with_reducible apply shapeBerth_frame
    | with_reducible apply stepBoundary_frame
    | with_reducible apply Frame.ite
    | split

theorem execStepTimeout_frame {fm : List Part} {b0 : State} (b : BitVec 4) (s : State)
    (hfr : Frame fm b0 s) (hfm : Part.sub [.cyc, .slot0, .tick, .tfrac, .regs, .tiles, .dram, .net, .reports, .free, .stk, .vil, .fleet, .chr, .serve, .img, .log, .pwr, .rst, .bnc, .lsr] fm = true) : FrameOut fm b0 (execStepTimeout b s) := by
  unfold execStepTimeout
  repeat' first
    | with_reducible assumption
    | exact Part.sub_trans (by decide) hfm
    | with_reducible intro _
    | (extract_lets +onlyGivenNames x; refine (fun hx => ?_ : (Frame fm b0 x) → _) ?_; (on_goal 2 => unfold x); all_goals clear_value x)
    | (extract_lets +onlyGivenNames x; refine (fun hx => ?_ : (Frame fm b0 x.1) → _) ?_; (on_goal 2 => unfold x); all_goals clear_value x)
    | (extract_lets +onlyGivenNames x; refine (fun hx => ?_ : (tileSafe x = true) → _) ?_; (on_goal 2 => unfold x); all_goals clear_value x)
    | (extract_lets +onlyGivenNames x; refine (fun hx => ?_ : (tileSafe x.1 = true) → _) ?_; (on_goal 2 => unfold x); all_goals clear_value x)
    | (extract_lets +onlyGivenNames x; refine (fun hx => ?_ : (FrameOpt fm b0 x) → _) ?_; (on_goal 2 => unfold x); all_goals clear_value x)
    | (extract_lets +onlyGivenNames x; refine (fun hx => ?_ : (Frame fm b0 x.st) → _) ?_; (on_goal 2 => unfold x); all_goals clear_value x)
    | extract_lets +onlyGivenNames x
    | with_reducible apply FrameOut.next
    | with_reducible apply closeBerth_frame
    | with_reducible apply stopTiles_frame
    | with_reducible apply countEvent_frame
    | with_reducible apply Frame.ite
    | (with_reducible refine Frame.ofPair ‹_ = (_, _)› ?_)
    | split
    | ((conv in State.mk _ _ _ _ _ _ _ _ _ _ _ _ _ _ _ _ _ _ _ _ _ _ _ _ _ => skip); with_reducible apply Frame.upd)
    | with_reducible exact .inr rfl
    | exact .inl (Part.sub_has _ hfm (by decide))
    | exact .inl ⟨Part.sub_has _ hfm (by decide), fun h => h⟩
    | exact .inl ⟨Part.sub_has _ hfm (by decide), fun h => by simpa only [List.length_set, List.length_map, List.length_zipIdx] using h⟩

theorem reportTile_frame {fm : List Part} {b0 : State} (s : State) (r : TileRef)
    (hfr : Frame fm b0 s) (hfm : Part.sub [.cyc, .slot0, .tick, .tfrac, .regs, .tiles, .dram, .net, .reports, .free, .stk, .vil, .fleet, .chr, .serve, .img, .log, .pwr, .rst, .bnc, .lsr] fm = true) : Frame fm b0 (reportTile s r) := by
  unfold reportTile
  repeat' first
    | with_reducible assumption
    | exact Part.sub_trans (by decide) hfm
    | with_reducible intro _
    | (extract_lets +onlyGivenNames x; refine (fun hx => ?_ : (Frame fm b0 x) → _) ?_; (on_goal 2 => unfold x); all_goals clear_value x)
    | (extract_lets +onlyGivenNames x; refine (fun hx => ?_ : (Frame fm b0 x.1) → _) ?_; (on_goal 2 => unfold x); all_goals clear_value x)
    | (extract_lets +onlyGivenNames x; refine (fun hx => ?_ : (SafeParts b0 → tileSafe x = true) → _) ?_; (on_goal 2 => unfold x); all_goals clear_value x)
    | (extract_lets +onlyGivenNames x; refine (fun hx => ?_ : (SafeParts b0 → tileSafe x.1 = true) → _) ?_; (on_goal 2 => unfold x); all_goals clear_value x)
    | (extract_lets +onlyGivenNames x; refine (fun hx => ?_ : (FrameOpt fm b0 x) → _) ?_; (on_goal 2 => unfold x); all_goals clear_value x)
    | (extract_lets +onlyGivenNames x; refine (fun hx => ?_ : (Frame fm b0 x.st) → _) ?_; (on_goal 2 => unfold x); all_goals clear_value x)
    | extract_lets +onlyGivenNames x
    | with_reducible apply countHardware_frame
    | with_reducible apply restageSource_frame
    | with_reducible apply berthFault_frame
    | with_reducible apply Frame.ite
    | (with_reducible refine Frame.ofPair ‹_ = (_, _)› ?_)
    | split
    | ((conv in State.mk _ _ _ _ _ _ _ _ _ _ _ _ _ _ _ _ _ _ _ _ _ _ _ _ _ => skip); with_reducible apply Frame.upd)
    | with_reducible exact .inr rfl
    | exact .inl (Part.sub_has _ hfm (by decide))
    | exact .inl ⟨Part.sub_has _ hfm (by decide), fun h => h⟩
    | exact .inl ⟨Part.sub_has _ hfm (by decide), fun h => by simpa only [List.length_set, List.length_map, List.length_zipIdx] using h⟩
    | ((conv in Tile.mk _ _ _ _ _ _ _ _ _ _ _ _ _ _ _ _ _ _ _ _ _ _ _ _ _ _ _ _ _ _ _ _ _ _ _ _ _ _ _ _ => skip); with_reducible apply tileSafe_upd)
    | with_reducible exact .inl rfl
    | (refine SafeParts.tileAt (Frame.safe (m := fm) ?_ ‹SafeParts b0›) _ _)
    | with_reducible exact (‹SafeParts _ → tileSafe _ = true› ‹_›)

theorem reportFailed_frame {fm : List Part} {b0 : State} (s : State) (r : TileRef) (tag : BitVec 5)
    (hfr : Frame fm b0 s) (hfm : Part.sub [.cyc, .slot0, .tick, .tfrac, .regs, .tiles, .dram, .net, .reports, .free, .stk, .vil, .fleet, .chr, .serve, .img, .log, .pwr, .rst, .bnc, .lsr] fm = true) : Frame fm b0 (reportFailed s r tag) := by
  unfold reportFailed
  repeat' first
    | with_reducible assumption
    | exact Part.sub_trans (by decide) hfm
    | extract_lets +onlyGivenNames x
    | with_reducible apply berthFault_frame
    | with_reducible apply Frame.ite
    | split
    | ((conv in State.mk _ _ _ _ _ _ _ _ _ _ _ _ _ _ _ _ _ _ _ _ _ _ _ _ _ => skip); with_reducible apply Frame.upd)
    | with_reducible exact .inr rfl
    | exact .inl ⟨Part.sub_has _ hfm (by decide), fun h => h⟩

theorem reportBank_frame {fm : List Part} {b0 : State} (s : State) (r : TileRef) (ch : Nat)
    (hfr : Frame fm b0 s) (hfm : Part.sub [.cyc, .slot0, .tick, .tfrac, .regs, .tiles, .dram, .net, .reports, .free, .stk, .vil, .fleet, .chr, .serve, .img, .log, .pwr, .rst, .bnc, .lsr] fm = true) : Frame fm b0 (reportBank s r ch) := by
  unfold reportBank
  repeat' first
    | with_reducible assumption
    | exact Part.sub_trans (by decide) hfm
    | with_reducible intro _
    | (extract_lets +onlyGivenNames x; refine (fun hx => ?_ : (Frame fm b0 x) → _) ?_; (on_goal 2 => unfold x); all_goals clear_value x)
    | (extract_lets +onlyGivenNames x; refine (fun hx => ?_ : (Frame fm b0 x.1) → _) ?_; (on_goal 2 => unfold x); all_goals clear_value x)
    | (extract_lets +onlyGivenNames x; refine (fun hx => ?_ : (tileSafe x = true) → _) ?_; (on_goal 2 => unfold x); all_goals clear_value x)
    | (extract_lets +onlyGivenNames x; refine (fun hx => ?_ : (tileSafe x.1 = true) → _) ?_; (on_goal 2 => unfold x); all_goals clear_value x)
    | (extract_lets +onlyGivenNames x; refine (fun hx => ?_ : (FrameOpt fm b0 x) → _) ?_; (on_goal 2 => unfold x); all_goals clear_value x)
    | (extract_lets +onlyGivenNames x; refine (fun hx => ?_ : (Frame fm b0 x.st) → _) ?_; (on_goal 2 => unfold x); all_goals clear_value x)
    | extract_lets +onlyGivenNames x
    | with_reducible apply countBank_frame
    | with_reducible apply berthFault_frame
    | with_reducible apply Frame.ite
    | (with_reducible refine Frame.ofPair ‹_ = (_, _)› ?_)
    | split
    | ((conv in State.mk _ _ _ _ _ _ _ _ _ _ _ _ _ _ _ _ _ _ _ _ _ _ _ _ _ => skip); with_reducible apply Frame.upd)
    | with_reducible exact .inr rfl
    | exact .inl (Part.sub_has _ hfm (by decide))
    | exact .inl ⟨Part.sub_has _ hfm (by decide), fun h => h⟩
    | exact .inl ⟨Part.sub_has _ hfm (by decide), fun h => by simpa only [List.length_set, List.length_map, List.length_zipIdx] using h⟩
    | ((conv in Tile.mk _ _ _ _ _ _ _ _ _ _ _ _ _ _ _ _ _ _ _ _ _ _ _ _ _ _ _ _ _ _ _ _ _ _ _ _ _ _ _ _ => skip); with_reducible apply tileSafe_upd)
    | with_reducible exact .inl rfl
    | (extract_lets +onlyGivenNames x; refine (fun hx => ?_ : (SafeParts b0 → tileSafe x = true) → _) ?_; (on_goal 2 => unfold x); all_goals clear_value x)
    | (extract_lets +onlyGivenNames x; refine (fun hx => ?_ : (SafeParts b0 → tileSafe x.1 = true) → _) ?_; (on_goal 2 => unfold x); all_goals clear_value x)
    | (refine SafeParts.tileAt (Frame.safe (m := fm) ?_ ‹SafeParts b0›) _ _)
    | with_reducible exact (‹SafeParts _ → tileSafe _ = true› ‹_›)

theorem reportEffect_frame {fm : List Part} {b0 : State} (s : State) (r : Report)
    (hfr : Frame fm b0 s) (hfm : Part.sub [.cyc, .slot0, .tick, .tfrac, .regs, .tiles, .dram, .net, .reports, .free, .stk, .vil, .fleet, .chr, .serve, .img, .log, .pwr, .rst, .bnc, .lsr] fm = true) : Frame fm b0 (reportEffect s r) := by
  unfold reportEffect
  repeat' first
    | with_reducible assumption
    | exact Part.sub_trans (by decide) hfm
    | extract_lets +onlyGivenNames x
    | with_reducible apply reportBank_frame
    | with_reducible apply reportFailed_frame
    | with_reducible apply reportTile_frame
    | with_reducible apply stackFault_frame
    | with_reducible apply logCount_frame
    | split

theorem execControlReport_frame {fm : List Part} {b0 : State} (r : Report) (s : State)
    (hfr : Frame fm b0 s) (hfm : Part.sub [.cyc, .slot0, .tick, .tfrac, .regs, .tiles, .dram, .net, .reports, .free, .stk, .vil, .fleet, .chr, .serve, .img, .log, .pwr, .rst, .bnc, .lsr] fm = true) : FrameOut fm b0 (execControlReport r s) := by
  unfold execControlReport
  repeat' first
    | with_reducible assumption
    | exact Part.sub_trans (by decide) hfm
    | with_reducible intro _
    | with_reducible apply FrameOut.next
    | with_reducible apply reportEffect_frame
    | with_reducible apply countFlits_frame
    | ((conv in State.mk _ _ _ _ _ _ _ _ _ _ _ _ _ _ _ _ _ _ _ _ _ _ _ _ _ => skip); with_reducible apply Frame.upd)
    | with_reducible exact .inr rfl
    | exact .inl (Part.sub_has _ hfm (by decide))
    | exact .inl ⟨Part.sub_has _ hfm (by decide), fun h => h⟩
    | exact .inl ⟨Part.sub_has _ hfm (by decide), fun h => by simpa only [List.length_set, List.length_map, List.length_zipIdx] using h⟩
    | extract_lets +onlyGivenNames x

theorem execDramUncorrectable_frame {fm : List Part} {b0 : State} (e : DramErr) (s : State)
    (hfr : Frame fm b0 s) (hfm : Part.sub [.cyc, .slot0, .tick, .tfrac, .regs, .tiles, .dram, .net, .reports, .free, .stk, .vil, .fleet, .chr, .serve, .img, .log, .pwr, .rst, .bnc, .lsr] fm = true) : FrameOut fm b0 (execDramUncorrectable e s) := by
  unfold execDramUncorrectable
  repeat' first
    | with_reducible assumption
    | exact Part.sub_trans (by decide) hfm
    | with_reducible intro _
    | (extract_lets +onlyGivenNames x; refine (fun hx => ?_ : (Frame fm b0 x) → _) ?_; (on_goal 2 => unfold x); all_goals clear_value x)
    | (extract_lets +onlyGivenNames x; refine (fun hx => ?_ : (Frame fm b0 x.1) → _) ?_; (on_goal 2 => unfold x); all_goals clear_value x)
    | (extract_lets +onlyGivenNames x; refine (fun hx => ?_ : (tileSafe x = true) → _) ?_; (on_goal 2 => unfold x); all_goals clear_value x)
    | (extract_lets +onlyGivenNames x; refine (fun hx => ?_ : (tileSafe x.1 = true) → _) ?_; (on_goal 2 => unfold x); all_goals clear_value x)
    | (extract_lets +onlyGivenNames x; refine (fun hx => ?_ : (FrameOpt fm b0 x) → _) ?_; (on_goal 2 => unfold x); all_goals clear_value x)
    | (extract_lets +onlyGivenNames x; refine (fun hx => ?_ : (Frame fm b0 x.st) → _) ?_; (on_goal 2 => unfold x); all_goals clear_value x)
    | extract_lets +onlyGivenNames x
    | with_reducible apply FrameOut.next
    | with_reducible apply repairData_frame
    | with_reducible apply logCount_frame
    | with_reducible apply withholdReads_frame
    | with_reducible apply berthFault_frame
    | with_reducible apply Frame.foldl
    | with_reducible apply Frame.foldlFst
    | ((conv in State.mk _ _ _ _ _ _ _ _ _ _ _ _ _ _ _ _ _ _ _ _ _ _ _ _ _ => skip); with_reducible apply Frame.upd)
    | with_reducible exact .inr rfl
    | exact .inl (Part.sub_has _ hfm (by decide))
    | exact .inl ⟨Part.sub_has _ hfm (by decide), fun h => h⟩
    | exact .inl ⟨Part.sub_has _ hfm (by decide), fun h => by simpa only [List.length_set, List.length_map, List.length_zipIdx] using h⟩

theorem execReplayWatch_frame {fm : List Part} {b0 : State} (b : BitVec 4) (s : State)
    (hfr : Frame fm b0 s) (hfm : Part.sub [.cyc, .slot0, .tick, .tfrac, .regs, .tiles, .dram, .net, .reports, .free, .stk, .vil, .fleet, .chr, .serve, .img, .log, .pwr, .rst, .bnc, .lsr] fm = true) : FrameOut fm b0 (execReplayWatch b s) := by
  unfold execReplayWatch
  repeat' first
    | with_reducible assumption
    | exact Part.sub_trans (by decide) hfm
    | (extract_lets +onlyGivenNames x; refine (fun hx => ?_ : (Frame fm b0 x) → _) ?_; (on_goal 2 => unfold x); all_goals clear_value x)
    | extract_lets +onlyGivenNames x
    | with_reducible apply FrameOut.next
    | with_reducible apply applyCharged_frame
    | with_reducible apply setReplaying_frame
    | with_reducible apply startLoaded_frame
    | with_reducible apply putBerth_frame
    | split

theorem execAbandonNotice_frame {fm : List Part} {b0 : State} (b : BitVec 4) (first : Word) (m : BitVec 10) (s : State)
    (hfr : Frame fm b0 s) (hfm : Part.sub [.cyc, .slot0, .tick, .tfrac, .regs, .tiles, .dram, .net, .reports, .free, .stk, .vil, .fleet, .chr, .serve, .img, .log, .pwr, .rst, .bnc, .lsr] fm = true) : FrameOut fm b0 (execAbandonNotice b first m s) := by
  unfold execAbandonNotice
  repeat' first
    | with_reducible assumption
    | exact Part.sub_trans (by decide) hfm
    | extract_lets +onlyGivenNames x
    | with_reducible apply FrameOut.next
    | with_reducible apply sendRecords_frame
    | with_reducible apply abandonNow_frame
    | split

theorem execAbandonRecord_frame {fm : List Part} {b0 : State} (b : BitVec 4) (first replay : Word) (s : State)
    (hfr : Frame fm b0 s) (hfm : Part.sub [.cyc, .slot0, .tick, .tfrac, .regs, .tiles, .dram, .net, .reports, .free, .stk, .vil, .fleet, .chr, .serve, .img, .log, .pwr, .rst, .bnc, .lsr] fm = true) : FrameOut fm b0 (execAbandonRecord b first replay s) := by
  unfold execAbandonRecord
  repeat' first
    | with_reducible assumption
    | exact Part.sub_trans (by decide) hfm
    | extract_lets +onlyGivenNames x
    | with_reducible apply FrameOut.next
    | with_reducible apply abandonNow_frame
    | split

theorem endThermal_frame {fm : List Part} {b0 : State} (s : State) (b : Nat)
    (hfr : Frame fm b0 s) (hfm : Part.sub [.cyc, .slot0, .tick, .tfrac, .regs, .tiles, .dram, .net, .reports, .free, .stk, .vil, .fleet, .chr, .serve, .img, .log, .pwr, .rst, .bnc, .lsr] fm = true) : Frame fm b0 (endThermal s b) := by
  unfold endThermal
  repeat' first
    | with_reducible assumption
    | exact Part.sub_trans (by decide) hfm
    | with_reducible intro _
    | with_reducible apply stopAfterLast_frame
    | with_reducible apply finishBerth_frame
    | with_reducible apply stopTiles_frame
    | with_reducible apply Frame.ite
    | split

theorem execThermalNotice_frame {fm : List Part} {b0 : State} (b : BitVec 4) (s : State)
    (hfr : Frame fm b0 s) (hfm : Part.sub [.cyc, .slot0, .tick, .tfrac, .regs, .tiles, .dram, .net, .reports, .free, .stk, .vil, .fleet, .chr, .serve, .img, .log, .pwr, .rst, .bnc, .lsr] fm = true) : FrameOut fm b0 (execThermalNotice b s) := by
  unfold execThermalNotice
  repeat' first
    | with_reducible assumption
    | exact Part.sub_trans (by decide) hfm
    | with_reducible intro _
    | (extract_lets +onlyGivenNames x; refine (fun hx => ?_ : (Frame fm b0 x) → _) ?_; (on_goal 2 => unfold x); all_goals clear_value x)
    | (extract_lets +onlyGivenNames x; refine (fun hx => ?_ : (Frame fm b0 x.1) → _) ?_; (on_goal 2 => unfold x); all_goals clear_value x)
    | (extract_lets +onlyGivenNames x; refine (fun hx => ?_ : (tileSafe x = true) → _) ?_; (on_goal 2 => unfold x); all_goals clear_value x)
    | (extract_lets +onlyGivenNames x; refine (fun hx => ?_ : (tileSafe x.1 = true) → _) ?_; (on_goal 2 => unfold x); all_goals clear_value x)
    | (extract_lets +onlyGivenNames x; refine (fun hx => ?_ : (FrameOpt fm b0 x) → _) ?_; (on_goal 2 => unfold x); all_goals clear_value x)
    | (extract_lets +onlyGivenNames x; refine (fun hx => ?_ : (Frame fm b0 x.st) → _) ?_; (on_goal 2 => unfold x); all_goals clear_value x)
    | extract_lets +onlyGivenNames x
    | with_reducible apply FrameOut.next
    | with_reducible apply endThermal_frame
    | with_reducible apply sendHelm_frame
    | with_reducible apply Frame.ite
    | split

theorem execHeartbeatTimeout_frame {fm : List Part} {b0 : State} (k : BitVec 3) (s : State)
    (hfr : Frame fm b0 s) (hfm : Part.sub [.cyc, .slot0, .tick, .tfrac, .regs, .tiles, .dram, .net, .reports, .free, .stk, .vil, .fleet, .chr, .serve, .img, .log, .pwr, .rst, .bnc, .snd, .lsr] fm = true) : FrameOut fm b0 (execHeartbeatTimeout k s) := by
  unfold execHeartbeatTimeout
  repeat' first
    | with_reducible assumption
    | exact Part.sub_trans (by decide) hfm
    | with_reducible intro _
    | (extract_lets +onlyGivenNames x; refine (fun hx => ?_ : (Frame fm b0 x) → _) ?_; (on_goal 2 => unfold x); all_goals clear_value x)
    | (extract_lets +onlyGivenNames x; refine (fun hx => ?_ : (Frame fm b0 x.1) → _) ?_; (on_goal 2 => unfold x); all_goals clear_value x)
    | (extract_lets +onlyGivenNames x; refine (fun hx => ?_ : (tileSafe x = true) → _) ?_; (on_goal 2 => unfold x); all_goals clear_value x)
    | (extract_lets +onlyGivenNames x; refine (fun hx => ?_ : (tileSafe x.1 = true) → _) ?_; (on_goal 2 => unfold x); all_goals clear_value x)
    | (extract_lets +onlyGivenNames x; refine (fun hx => ?_ : (FrameOpt fm b0 x) → _) ?_; (on_goal 2 => unfold x); all_goals clear_value x)
    | (extract_lets +onlyGivenNames x; refine (fun hx => ?_ : (Frame fm b0 x.st) → _) ?_; (on_goal 2 => unfold x); all_goals clear_value x)
    | extract_lets +onlyGivenNames x
    | with_reducible apply FrameOut.next
    | with_reducible apply elapseToTick_frame
    | with_reducible apply logCount_frame
    | with_reducible apply moduleReset_frame
    | with_reducible apply stackFault_frame
    | with_reducible apply startBlock_frame
    | with_reducible apply rbump_frame
    | with_reducible apply Frame.ite
    | split

theorem checkIdentity_frame {fm : List Part} {b0 : State} (s : State) (p : Nat) (f : Identity)
    (hfr : Frame fm b0 s) (hfm : Part.sub [.cyc, .slot0, .tick, .tfrac, .regs, .tiles, .dram, .net, .reports, .free, .stk, .vil, .fleet, .chr, .serve, .img, .log, .pwr, .rst, .bnc, .lsr] fm = true) : Frame fm b0 (checkIdentity s p f) := by
  unfold checkIdentity
  repeat' first
    | with_reducible assumption
    | exact Part.sub_trans (by decide) hfm
    | with_reducible intro _
    | (extract_lets +onlyGivenNames x; refine (fun hx => ?_ : (Frame fm b0 x) → _) ?_; (on_goal 2 => unfold x); all_goals clear_value x)
    | (extract_lets +onlyGivenNames x; refine (fun hx => ?_ : (Frame fm b0 x.1) → _) ?_; (on_goal 2 => unfold x); all_goals clear_value x)
    | (extract_lets +onlyGivenNames x; refine (fun hx => ?_ : (tileSafe x = true) → _) ?_; (on_goal 2 => unfold x); all_goals clear_value x)
    | (extract_lets +onlyGivenNames x; refine (fun hx => ?_ : (tileSafe x.1 = true) → _) ?_; (on_goal 2 => unfold x); all_goals clear_value x)
    | (extract_lets +onlyGivenNames x; refine (fun hx => ?_ : (FrameOpt fm b0 x) → _) ?_; (on_goal 2 => unfold x); all_goals clear_value x)
    | (extract_lets +onlyGivenNames x; refine (fun hx => ?_ : (Frame fm b0 x.st) → _) ?_; (on_goal 2 => unfold x); all_goals clear_value x)
    | extract_lets +onlyGivenNames x
    | with_reducible apply lockPort_frame
    | with_reducible apply putPort_frame
    | with_reducible apply pput_frame
    | with_reducible apply fillNeighbours_frame
    | with_reducible apply refreshRev_frame
    | with_reducible apply berthFault_frame
    | with_reducible apply Frame.foldl
    | with_reducible apply Frame.foldlFst
    | with_reducible apply Frame.ite
    | split
    | ((conv in State.mk _ _ _ _ _ _ _ _ _ _ _ _ _ _ _ _ _ _ _ _ _ _ _ _ _ => skip); with_reducible apply Frame.upd)
    | with_reducible exact .inr rfl
    | exact .inl (Part.sub_has _ hfm (by decide))
    | exact .inl ⟨Part.sub_has _ hfm (by decide), fun h => h⟩
    | exact .inl ⟨Part.sub_has _ hfm (by decide), fun h => by simpa only [List.length_set, List.length_map, List.length_zipIdx] using h⟩

theorem execIdentityFrame_frame {fm : List Part} {b0 : State} (p : BitVec 4) (f : Identity) (s : State)
    (hfr : Frame fm b0 s) (hfm : Part.sub [.cyc, .slot0, .tick, .tfrac, .regs, .tiles, .dram, .net, .reports, .free, .stk, .vil, .fleet, .chr, .serve, .img, .log, .pwr, .rst, .bnc, .lsr] fm = true) : FrameOut fm b0 (execIdentityFrame p f s) := by
  unfold execIdentityFrame
  repeat' first
    | with_reducible assumption
    | exact Part.sub_trans (by decide) hfm
    | with_reducible intro _
    | (extract_lets +onlyGivenNames x; refine (fun hx => ?_ : (Frame fm b0 x) → _) ?_; (on_goal 2 => unfold x); all_goals clear_value x)
    | (extract_lets +onlyGivenNames x; refine (fun hx => ?_ : (Frame fm b0 x.1) → _) ?_; (on_goal 2 => unfold x); all_goals clear_value x)
    | (extract_lets +onlyGivenNames x; refine (fun hx => ?_ : (tileSafe x = true) → _) ?_; (on_goal 2 => unfold x); all_goals clear_value x)
    | (extract_lets +onlyGivenNames x; refine (fun hx => ?_ : (tileSafe x.1 = true) → _) ?_; (on_goal 2 => unfold x); all_goals clear_value x)
    | (extract_lets +onlyGivenNames x; refine (fun hx => ?_ : (FrameOpt fm b0 x) → _) ?_; (on_goal 2 => unfold x); all_goals clear_value x)
    | (extract_lets +onlyGivenNames x; refine (fun hx => ?_ : (Frame fm b0 x.st) → _) ?_; (on_goal 2 => unfold x); all_goals clear_value x)
    | extract_lets +onlyGivenNames x
    | with_reducible apply FrameOut.next
    | with_reducible apply checkIdentity_frame
    | with_reducible apply portUp_frame
    | with_reducible apply endTraining_frame
    | with_reducible apply Frame.ite
    | split

theorem agreementLate_frame {fm : List Part} {b0 : State} (s : State)
    (hfr : Frame fm b0 s) (hfm : Part.sub [.cyc, .slot0, .tick, .tfrac, .regs, .tiles, .dram, .net, .reports, .free, .stk, .vil, .fleet, .chr, .serve, .img, .log, .pwr, .rst, .bnc, .lsr] fm = true) : Frame fm b0 (agreementLate s) := by
  unfold agreementLate
  repeat' first
    | with_reducible assumption
    | exact Part.sub_trans (by decide) hfm
    | extract_lets +onlyGivenNames x
    | with_reducible apply putStretch_frame
    | with_reducible apply moduleFault_frame
    | with_reducible apply rset_frame
    | with_reducible apply rbump_frame

theorem fleetStretch_frame {fm : List Part} {b0 : State} (s : State)
    (hfr : Frame fm b0 s) (hfm : Part.sub [.cyc, .slot0, .tick, .tfrac, .regs, .tiles, .dram, .net, .reports, .free, .stk, .vil, .fleet, .chr, .serve, .img, .log, .pwr, .rst, .bnc, .lsr] fm = true) : Frame fm b0 (fleetStretch s) := by
  unfold fleetStretch
  repeat' first
    | with_reducible assumption
    | exact Part.sub_trans (by decide) hfm
    | with_reducible intro _
    | (extract_lets +onlyGivenNames x; refine (fun hx => ?_ : (Frame fm b0 x) → _) ?_; (on_goal 2 => unfold x); all_goals clear_value x)
    | (extract_lets +onlyGivenNames x; refine (fun hx => ?_ : (Frame fm b0 x.1) → _) ?_; (on_goal 2 => unfold x); all_goals clear_value x)
    | (extract_lets +onlyGivenNames x; refine (fun hx => ?_ : (tileSafe x = true) → _) ?_; (on_goal 2 => unfold x); all_goals clear_value x)
    | (extract_lets +onlyGivenNames x; refine (fun hx => ?_ : (tileSafe x.1 = true) → _) ?_; (on_goal 2 => unfold x); all_goals clear_value x)
    | (extract_lets +onlyGivenNames x; refine (fun hx => ?_ : (FrameOpt fm b0 x) → _) ?_; (on_goal 2 => unfold x); all_goals clear_value x)
    | (extract_lets +onlyGivenNames x; refine (fun hx => ?_ : (Frame fm b0 x.st) → _) ?_; (on_goal 2 => unfold x); all_goals clear_value x)
    | extract_lets +onlyGivenNames x
    | with_reducible apply putStretch_frame
    | with_reducible apply agreementLate_frame
    | with_reducible apply Frame.ite
    | (with_reducible refine Frame.ofPair ‹_ = (_, _)› ?_)
    | split
    | ((conv in State.mk _ _ _ _ _ _ _ _ _ _ _ _ _ _ _ _ _ _ _ _ _ _ _ _ _ => skip); with_reducible apply Frame.upd)
    | with_reducible exact .inr rfl
    | exact .inl (Part.sub_has _ hfm (by decide))
    | exact .inl ⟨Part.sub_has _ hfm (by decide), fun h => h⟩
    | exact .inl ⟨Part.sub_has _ hfm (by decide), fun h => by simpa only [List.length_set, List.length_map, List.length_zipIdx] using h⟩

theorem execWatchBoundary_frame {fm : List Part} {b0 : State} (s : State)
    (hfr : Frame fm b0 s) (hfm : Part.sub [.cyc, .slot0, .tick, .tfrac, .regs, .tiles, .dram, .net, .reports, .free, .stk, .vil, .fleet, .chr, .serve, .img, .log, .pwr, .rst, .bnc, .lsr] fm = true) : FrameOut fm b0 (execWatchBoundary s) := by
  unfold execWatchBoundary
  repeat' first
    | with_reducible assumption
    | exact Part.sub_trans (by decide) hfm
    | with_reducible intro _
    | (extract_lets +onlyGivenNames x; refine (fun hx => ?_ : (Frame fm b0 x) → _) ?_; (on_goal 2 => unfold x); all_goals clear_value x)
    | extract_lets +onlyGivenNames x
    | with_reducible apply FrameOut.next
    | with_reducible apply openWatch_frame
    | with_reducible apply openRound_frame
    | with_reducible apply harbourStretch_frame
    | with_reducible apply fleetStretch_frame
    | with_reducible apply tableDue_frame
    | with_reducible apply charterDue_frame
    | with_reducible apply sextantBoundary_frame
    | with_reducible apply startDue_frame
    | with_reducible apply elapseToTick_frame
    | with_reducible apply Frame.foldl
    | with_reducible apply Frame.ite
    | split

theorem engineTimeout_frame {fm : List Part} {b0 : State} (s : State) (r : TileRef)
    (hfr : Frame fm b0 s) (hfm : Part.sub [.cyc, .slot0, .tick, .tfrac, .regs, .tiles, .dram, .net, .reports, .free, .stk, .vil, .fleet, .chr, .serve, .img, .log, .pwr, .rst, .bnc, .lsr] fm = true) : Frame fm b0 (engineTimeout s r) := by
  unfold engineTimeout
  repeat' first
    | with_reducible assumption
    | exact Part.sub_trans (by decide) hfm
    | (extract_lets +onlyGivenNames x; refine (fun hx => ?_ : (Frame fm b0 x) → _) ?_; (on_goal 2 => unfold x); all_goals clear_value x)
    | extract_lets +onlyGivenNames x
    | with_reducible apply berthFault_frame
    | with_reducible apply elapseTo_frame
    | with_reducible apply rbump_frame
    | split

theorem berthTimeout_frame {fm : List Part} {b0 : State} (s : State) (b : Nat)
    (hfr : Frame fm b0 s) (hfm : Part.sub [.cyc, .slot0, .tick, .tfrac, .regs, .tiles, .dram, .net, .reports, .free, .stk, .vil, .fleet, .chr, .serve, .img, .log, .pwr, .rst, .bnc, .lsr] fm = true) : Frame fm b0 (berthTimeout s b) := by
  unfold berthTimeout
  repeat' first
    | with_reducible assumption
    | exact Part.sub_trans (by decide) hfm
    | with_reducible intro _
    | with_reducible apply berthFault_frame
    | with_reducible apply rbump_frame
    | with_reducible apply elapseTo_frame
    | with_reducible apply Frame.ite
    | (with_reducible refine Frame.ofPair ‹_ = (_, _)› ?_)
    | split
    | ((conv in State.mk _ _ _ _ _ _ _ _ _ _ _ _ _ _ _ _ _ _ _ _ _ _ _ _ _ => skip); with_reducible apply Frame.upd)
    | with_reducible exact .inr rfl
    | exact .inl (Part.sub_has _ hfm (by decide))
    | exact .inl ⟨Part.sub_has _ hfm (by decide), fun h => h⟩
    | exact .inl ⟨Part.sub_has _ hfm (by decide), fun h => by simpa only [List.length_set, List.length_map, List.length_zipIdx] using h⟩

theorem execFleetWaypointTimeout_frame {fm : List Part} {b0 : State} (w : Waiter) (s : State)
    (hfr : Frame fm b0 s) (hfm : Part.sub [.cyc, .slot0, .tick, .tfrac, .regs, .tiles, .dram, .net, .reports, .free, .stk, .vil, .fleet, .chr, .serve, .img, .log, .pwr, .rst, .bnc, .lsr] fm = true) : FrameOut fm b0 (execFleetWaypointTimeout w s) := by
  unfold execFleetWaypointTimeout
  repeat' first
    | with_reducible assumption
    | exact Part.sub_trans (by decide) hfm
    | with_reducible intro _
    | with_reducible apply FrameOut.next
    | with_reducible apply engineTimeout_frame
    | with_reducible apply berthTimeout_frame
    | with_reducible apply Frame.foldl
    | with_reducible apply Frame.foldlFst
    | (with_reducible refine Frame.ofPair ‹_ = (_, _)› ?_)
    | split
    | ((conv in State.mk _ _ _ _ _ _ _ _ _ _ _ _ _ _ _ _ _ _ _ _ _ _ _ _ _ => skip); with_reducible apply Frame.upd)
    | with_reducible exact .inr rfl
    | exact .inl (Part.sub_has _ hfm (by decide))
    | exact .inl ⟨Part.sub_has _ hfm (by decide), fun h => h⟩
    | exact .inl ⟨Part.sub_has _ hfm (by decide), fun h => by simpa only [List.length_set, List.length_map, List.length_zipIdx] using h⟩
    | extract_lets +onlyGivenNames x

theorem putSensor_frame {fm : List Part} {b0 : State} (s : State) (i : Nat) (x : Sensor)
    (hfr : Frame fm b0 s) (hfm : Part.sub [.bnc] fm = true) : Frame fm b0 (putSensor s i x) := by
  unfold putSensor
  repeat' first
    | with_reducible assumption
    | extract_lets +onlyGivenNames x
    | ((conv in State.mk _ _ _ _ _ _ _ _ _ _ _ _ _ _ _ _ _ _ _ _ _ _ _ _ _ => skip); with_reducible apply Frame.upd)
    | with_reducible exact .inr rfl
    | exact .inl (Part.sub_has _ hfm (by decide))

theorem alert_frame {fm : List Part} {b0 : State} (s : State) (i : Nat)
    (hfr : Frame fm b0 s) (hfm : Part.sub [.regs] fm = true) : Frame fm b0 (alert s i) := by
  unfold alert
  repeat' first
    | with_reducible assumption
    | with_reducible apply rput_frame

theorem noteBroken_frame {fm : List Part} {b0 : State} (s : State) (before after : Sensor)
    (hfr : Frame fm b0 s) (hfm : Part.sub [.regs] fm = true) : Frame fm b0 (noteBroken s before after) := by
  unfold noteBroken
  repeat' first
    | with_reducible assumption
    | extract_lets +onlyGivenNames x
    | with_reducible apply alert_frame
    | with_reducible apply rbump_frame
    | with_reducible apply Frame.ite

theorem startStop_frame {fm : List Part} {b0 : State} (s : State) (causes : List Nat)
    (hfr : Frame fm b0 s) (hfm : Part.sub [.slot0, .tick, .tfrac, .regs, .tiles, .dram, .net, .reports, .free, .stk, .vil, .fleet, .chr, .serve, .img, .log, .pwr, .rst, .bnc, .lsr] fm = true) : Frame fm b0 (startStop s causes) := by
  unfold startStop
  repeat' first
    | with_reducible assumption
    | exact Part.sub_trans (by decide) hfm
    | with_reducible intro _
    | (extract_lets +onlyGivenNames x; refine (fun hx => ?_ : (Frame fm b0 x) → _) ?_; (on_goal 2 => unfold x); all_goals clear_value x)
    | (extract_lets +onlyGivenNames x; refine (fun hx => ?_ : (Frame fm b0 x.1) → _) ?_; (on_goal 2 => unfold x); all_goals clear_value x)
    | (extract_lets +onlyGivenNames x; refine (fun hx => ?_ : (tileSafe x = true) → _) ?_; (on_goal 2 => unfold x); all_goals clear_value x)
    | (extract_lets +onlyGivenNames x; refine (fun hx => ?_ : (tileSafe x.1 = true) → _) ?_; (on_goal 2 => unfold x); all_goals clear_value x)
    | (extract_lets +onlyGivenNames x; refine (fun hx => ?_ : (FrameOpt fm b0 x) → _) ?_; (on_goal 2 => unfold x); all_goals clear_value x)
    | (extract_lets +onlyGivenNames x; refine (fun hx => ?_ : (Frame fm b0 x.st) → _) ?_; (on_goal 2 => unfold x); all_goals clear_value x)
    | extract_lets +onlyGivenNames x
    | with_reducible apply alert_frame
    | with_reducible apply rput_frame
    | with_reducible apply rset_frame
    | with_reducible apply orderlyStop_frame
    | with_reducible apply Frame.foldl
    | with_reducible apply Frame.foldlFst
    | with_reducible apply Frame.ite
    | (with_reducible refine Frame.ofPair ‹_ = (_, _)› ?_)
    | split
    | ((conv in State.mk _ _ _ _ _ _ _ _ _ _ _ _ _ _ _ _ _ _ _ _ _ _ _ _ _ => skip); with_reducible apply Frame.upd)
    | with_reducible exact .inr rfl
    | exact .inl (Part.sub_has _ hfm (by decide))
    | exact .inl ⟨Part.sub_has _ hfm (by decide), fun h => h⟩
    | exact .inl ⟨Part.sub_has _ hfm (by decide), fun h => by simpa only [List.length_set, List.length_map, List.length_zipIdx] using h⟩

theorem takeDiode_frame {m : List Part} {s0 : State} (u s : State) (x : DiodeSample) (h : Frame m s0 s)
    (hm : Part.sub [.regs, .bnc] m = true) : Frame m s0 (takeDiode u s x) := by
  unfold takeDiode
  extract_lets +onlyGivenNames n a b c s1
  clear_value c
  exact Frame.ite h (rput_frame _ _ _ _ _ (rput_frame _ _ _ _ _ (noteBroken_frame _ _ _ (putSensor_frame _ _ _ h
    (Part.sub_trans (by decide) hm)) (Part.sub_trans (by decide) hm)) (Part.sub_trans (by decide) hm))
    (Part.sub_trans (by decide) hm))

theorem putJunction_frame {fm : List Part} {b0 : State} (s : State)
    (hfr : Frame fm b0 s) (hfm : Part.sub [.regs] fm = true) : Frame fm b0 (putJunction s) := by
  unfold putJunction
  repeat' first
    | with_reducible assumption
    | extract_lets +onlyGivenNames x
    | with_reducible apply rput_frame

theorem decideThrottle_frame {fm : List Part} {b0 : State} (s : State)
    (hfr : Frame fm b0 s) (hfm : Part.sub [.regs, .bnc] fm = true) : Frame fm b0 (decideThrottle s) := by
  unfold decideThrottle
  repeat' first
    | with_reducible assumption
    | exact Part.sub_trans (by decide) hfm
    | with_reducible intro _
    | (extract_lets +onlyGivenNames x; refine (fun hx => ?_ : (Frame fm b0 x) → _) ?_; (on_goal 2 => unfold x); all_goals clear_value x)
    | (extract_lets +onlyGivenNames x; refine (fun hx => ?_ : (Frame fm b0 x.1) → _) ?_; (on_goal 2 => unfold x); all_goals clear_value x)
    | (extract_lets +onlyGivenNames x; refine (fun hx => ?_ : (tileSafe x = true) → _) ?_; (on_goal 2 => unfold x); all_goals clear_value x)
    | (extract_lets +onlyGivenNames x; refine (fun hx => ?_ : (tileSafe x.1 = true) → _) ?_; (on_goal 2 => unfold x); all_goals clear_value x)
    | (extract_lets +onlyGivenNames x; refine (fun hx => ?_ : (FrameOpt fm b0 x) → _) ?_; (on_goal 2 => unfold x); all_goals clear_value x)
    | (extract_lets +onlyGivenNames x; refine (fun hx => ?_ : (Frame fm b0 x.st) → _) ?_; (on_goal 2 => unfold x); all_goals clear_value x)
    | extract_lets +onlyGivenNames x
    | with_reducible apply rput_frame
    | with_reducible apply rset_frame
    | with_reducible apply Frame.ite
    | split
    | ((conv in State.mk _ _ _ _ _ _ _ _ _ _ _ _ _ _ _ _ _ _ _ _ _ _ _ _ _ => skip); with_reducible apply Frame.upd)
    | with_reducible exact .inr rfl
    | exact .inl (Part.sub_has _ hfm (by decide))
    | exact .inl ⟨Part.sub_has _ hfm (by decide), fun h => h⟩
    | exact .inl ⟨Part.sub_has _ hfm (by decide), fun h => by simpa only [List.length_set, List.length_map, List.length_zipIdx] using h⟩

theorem requestThrottle_frame {fm : List Part} {b0 : State} (s : State)
    (hfr : Frame fm b0 s) (hfm : Part.sub [.regs, .bnc] fm = true) : Frame fm b0 (requestThrottle s) := by
  unfold requestThrottle
  repeat' first
    | with_reducible assumption
    | exact Part.sub_trans (by decide) hfm
    | (extract_lets +onlyGivenNames x; refine (fun hx => ?_ : (Frame fm b0 x) → _) ?_; (on_goal 2 => unfold x); all_goals clear_value x)
    | extract_lets +onlyGivenNames x
    | with_reducible apply decideThrottle_frame
    | with_reducible apply alert_frame
    | with_reducible apply rput_frame
    | with_reducible apply Frame.ite

theorem stackTemperature_frame {fm : List Part} {b0 : State} (s : State) (k : Nat)
    (hfr : Frame fm b0 s) (hfm : Part.sub [.regs, .tiles, .stk, .pwr] fm = true) : Frame fm b0 (stackTemperature s k) := by
  unfold stackTemperature
  repeat' first
    | with_reducible assumption
    | exact Part.sub_trans (by decide) hfm
    | (extract_lets +onlyGivenNames x; refine (fun hx => ?_ : (Frame fm b0 x) → _) ?_; (on_goal 2 => unfold x); all_goals clear_value x)
    | extract_lets +onlyGivenNames x
    | with_reducible apply temperatureTrigger_frame
    | with_reducible apply rset_frame
    | with_reducible apply rput_frame
    | with_reducible apply Frame.ite
    | split

theorem endRound_frame {fm : List Part} {b0 : State} (s : State)
    (hfr : Frame fm b0 s) (hfm : Part.sub [.slot0, .tick, .tfrac, .regs, .tiles, .dram, .net, .reports, .free, .stk, .vil, .fleet, .chr, .serve, .img, .log, .pwr, .rst, .bnc, .snd, .lsr] fm = true) : Frame fm b0 (endRound s) := by
  unfold endRound
  repeat' first
    | with_reducible assumption
    | exact Part.sub_trans (by decide) hfm
    | with_reducible intro _
    | (extract_lets +onlyGivenNames x; refine (fun hx => ?_ : (Frame fm b0 x) → _) ?_; (on_goal 2 => unfold x); all_goals clear_value x)
    | (extract_lets +onlyGivenNames x; refine (fun hx => ?_ : (Frame fm b0 x.1) → _) ?_; (on_goal 2 => unfold x); all_goals clear_value x)
    | (extract_lets +onlyGivenNames x; refine (fun hx => ?_ : (tileSafe x = true) → _) ?_; (on_goal 2 => unfold x); all_goals clear_value x)
    | (extract_lets +onlyGivenNames x; refine (fun hx => ?_ : (tileSafe x.1 = true) → _) ?_; (on_goal 2 => unfold x); all_goals clear_value x)
    | (extract_lets +onlyGivenNames x; refine (fun hx => ?_ : (FrameOpt fm b0 x) → _) ?_; (on_goal 2 => unfold x); all_goals clear_value x)
    | (extract_lets +onlyGivenNames x; refine (fun hx => ?_ : (Frame fm b0 x.st) → _) ?_; (on_goal 2 => unfold x); all_goals clear_value x)
    | extract_lets +onlyGivenNames x
    | with_reducible apply putJunction_frame
    | with_reducible apply hardTrip_frame
    | with_reducible apply stackTemperature_frame
    | with_reducible apply requestThrottle_frame
    | with_reducible apply heldMain_frame
    | with_reducible apply startStop_frame
    | with_reducible apply Frame.foldl
    | with_reducible apply Frame.foldlFst
    | with_reducible apply Frame.ite
    | split

theorem takeDramTemp_frame {fm : List Part} {b0 : State} (s : State) (k : Nat) (temp : Int)
    (hfr : Frame fm b0 s) (hfm : Part.sub [.slot0, .tick, .tfrac, .regs, .tiles, .dram, .net, .reports, .free, .stk, .vil, .fleet, .chr, .serve, .img, .log, .pwr, .rst, .bnc, .lsr] fm = true) : Frame fm b0 (takeDramTemp s k temp) := by
  unfold takeDramTemp
  repeat' first
    | with_reducible assumption
    | exact Part.sub_trans (by decide) hfm
    | (extract_lets +onlyGivenNames x; refine (fun hx => ?_ : (Frame fm b0 x) → _) ?_; (on_goal 2 => unfold x); all_goals clear_value x)
    | extract_lets +onlyGivenNames x
    | with_reducible apply startStop_frame
    | with_reducible apply putSensor_frame
    | with_reducible apply rput_frame
    | with_reducible apply Frame.ite

theorem takeThermistor_frame {fm : List Part} {b0 : State} (s : State) (n : Nat) (code : BitVec 12)
    (hfr : Frame fm b0 s) (hfm : Part.sub [.slot0, .tick, .tfrac, .regs, .tiles, .dram, .net, .reports, .free, .stk, .vil, .fleet, .chr, .serve, .img, .log, .pwr, .rst, .bnc, .lsr] fm = true) : Frame fm b0 (takeThermistor s n code) := by
  unfold takeThermistor
  repeat' first
    | with_reducible assumption
    | exact Part.sub_trans (by decide) hfm
    | (extract_lets +onlyGivenNames x; refine (fun hx => ?_ : (Frame fm b0 x) → _) ?_; (on_goal 2 => unfold x); all_goals clear_value x)
    | extract_lets +onlyGivenNames x
    | with_reducible apply startStop_frame
    | with_reducible apply noteBroken_frame
    | with_reducible apply alert_frame
    | with_reducible apply putSensor_frame
    | with_reducible apply rput_frame
    | with_reducible apply Frame.ite

theorem putActive_frame {fm : List Part} {b0 : State} (s : State) (a : Option Bool)
    (hfr : Frame fm b0 s) (hfm : Part.sub [.snd] fm = true) : Frame fm b0 (putActive s a) := by
  unfold putActive
  repeat' first
    | with_reducible assumption
    | extract_lets +onlyGivenNames x
    | ((conv in State.mk _ _ _ _ _ _ _ _ _ _ _ _ _ _ _ _ _ _ _ _ _ _ _ _ _ => skip); with_reducible apply Frame.upd)
    | with_reducible exact .inr rfl
    | exact .inl (Part.sub_has _ hfm (by decide))

theorem putUrgent_frame {fm : List Part} {b0 : State} (s : State) (l : List (Nat × Bool))
    (hfr : Frame fm b0 s) (hfm : Part.sub [.snd] fm = true) : Frame fm b0 (putUrgent s l) := by
  unfold putUrgent
  repeat' first
    | with_reducible assumption
    | extract_lets +onlyGivenNames x
    | ((conv in State.mk _ _ _ _ _ _ _ _ _ _ _ _ _ _ _ _ _ _ _ _ _ _ _ _ _ => skip); with_reducible apply Frame.upd)
    | with_reducible exact .inr rfl
    | exact .inl (Part.sub_has _ hfm (by decide))

theorem startConversion_frame {fm : List Part} {b0 : State} (s : State)
    (hfr : Frame fm b0 s) (hfm : Part.sub [.snd] fm = true) : Frame fm b0 (startConversion s) := by
  unfold startConversion
  repeat' first
    | with_reducible assumption
    | extract_lets +onlyGivenNames x
    | with_reducible apply putActive_frame
    | with_reducible apply Frame.ite

theorem abortConversion_frame {fm : List Part} {b0 : State} (s : State)
    (hfr : Frame fm b0 s) (hfm : Part.sub [.regs, .snd] fm = true) : Frame fm b0 (abortConversion s) := by
  unfold abortConversion
  repeat' first
    | with_reducible assumption
    | exact Part.sub_trans (by decide) hfm
    | extract_lets +onlyGivenNames x
    | with_reducible apply putActive_frame
    | with_reducible apply rbump_frame
    | with_reducible apply Frame.ite

theorem giveWay_frame {fm : List Part} {b0 : State} (s : State)
    (hfr : Frame fm b0 s) (hfm : Part.sub [.regs, .snd] fm = true) : Frame fm b0 (giveWay s) := by
  unfold giveWay
  repeat' first
    | with_reducible assumption
    | exact Part.sub_trans (by decide) hfm
    | with_reducible intro _
    | with_reducible apply putActive_frame
    | with_reducible apply abortConversion_frame
    | with_reducible apply Frame.ite
    | split

theorem enqueueUrgent_frame {fm : List Part} {b0 : State} (s : State) (ch : Nat) (fast : Bool)
    (hfr : Frame fm b0 s) (hfm : Part.sub [.regs, .snd] fm = true) : Frame fm b0 (enqueueUrgent s ch fast) := by
  unfold enqueueUrgent
  repeat' first
    | with_reducible assumption
    | exact Part.sub_trans (by decide) hfm
    | with_reducible intro _
    | (extract_lets +onlyGivenNames x; refine (fun hx => ?_ : (Frame fm b0 x) → _) ?_; (on_goal 2 => unfold x); all_goals clear_value x)
    | (extract_lets +onlyGivenNames x; refine (fun hx => ?_ : (Frame fm b0 x.1) → _) ?_; (on_goal 2 => unfold x); all_goals clear_value x)
    | (extract_lets +onlyGivenNames x; refine (fun hx => ?_ : (tileSafe x = true) → _) ?_; (on_goal 2 => unfold x); all_goals clear_value x)
    | (extract_lets +onlyGivenNames x; refine (fun hx => ?_ : (tileSafe x.1 = true) → _) ?_; (on_goal 2 => unfold x); all_goals clear_value x)
    | (extract_lets +onlyGivenNames x; refine (fun hx => ?_ : (FrameOpt fm b0 x) → _) ?_; (on_goal 2 => unfold x); all_goals clear_value x)
    | (extract_lets +onlyGivenNames x; refine (fun hx => ?_ : (Frame fm b0 x.st) → _) ?_; (on_goal 2 => unfold x); all_goals clear_value x)
    | extract_lets +onlyGivenNames x
    | with_reducible apply rset_frame
    | with_reducible apply putUrgent_frame
    | with_reducible apply startConversion_frame
    | with_reducible apply giveWay_frame
    | with_reducible apply Frame.ite
    | split

theorem writeChsel_frame {fm : List Part} {b0 : State} (s : State)
    (hfr : Frame fm b0 s) (hfm : Part.sub [.regs, .snd] fm = true) : Frame fm b0 (writeChsel s) := by
  unfold writeChsel
  repeat' first
    | with_reducible assumption
    | exact Part.sub_trans (by decide) hfm
    | extract_lets +onlyGivenNames x
    | with_reducible apply enqueueUrgent_frame
    | with_reducible apply rput_frame
    | with_reducible apply Frame.ite

theorem execUrgentRequest_frame {fm : List Part} {b0 : State} (s : State)
    (hfr : Frame fm b0 s) (hfm : Part.sub [.regs, .snd] fm = true) : FrameOut fm b0 (execUrgentRequest s) := by
  unfold execUrgentRequest
  repeat' first
    | with_reducible assumption
    | extract_lets +onlyGivenNames x
    | with_reducible apply FrameOut.next
    | with_reducible apply writeChsel_frame

theorem execFastPair_frame {fm : List Part} {b0 : State} (s : State)
    (hfr : Frame fm b0 s) (hfm : Part.sub [.regs, .snd] fm = true) : FrameOut fm b0 (execFastPair s) := by
  unfold execFastPair
  repeat' first
    | with_reducible assumption
    | extract_lets +onlyGivenNames x
    | with_reducible apply FrameOut.next
    | with_reducible apply enqueueUrgent_frame
    | with_reducible apply Frame.ite

theorem execSequencePass_frame {fm : List Part} {b0 : State} (s : State)
    (hfr : Frame fm b0 s) (hfm : Part.sub [.regs, .snd] fm = true) : FrameOut fm b0 (execSequencePass s) := by
  unfold execSequencePass
  repeat' first
    | with_reducible assumption
    | exact Part.sub_trans (by decide) hfm
    | (extract_lets +onlyGivenNames x; refine (fun hx => ?_ : (Frame fm b0 x) → _) ?_; (on_goal 2 => unfold x); all_goals clear_value x)
    | extract_lets +onlyGivenNames x
    | with_reducible apply FrameOut.next
    | with_reducible apply startConversion_frame
    | with_reducible apply rset_frame
    | with_reducible apply rbump_frame
    | with_reducible apply rput_frame
    | split
    | ((conv in State.mk _ _ _ _ _ _ _ _ _ _ _ _ _ _ _ _ _ _ _ _ _ _ _ _ _ => skip); with_reducible apply Frame.upd)
    | with_reducible exact .inr rfl
    | exact .inl (Part.sub_has _ hfm (by decide))

theorem sampleFlag_frame {fm : List Part} {b0 : State} (s : State) (ch k : Nat) (f : Fld) (code mul lo hi : Nat)
    (hfr : Frame fm b0 s) (hfm : Part.sub [.regs, .snd] fm = true) : Frame fm b0 (sampleFlag s ch k f code mul lo hi) := by
  unfold sampleFlag
  repeat' first
    | with_reducible assumption
    | exact Part.sub_trans (by decide) hfm
    | extract_lets +onlyGivenNames x
    | with_reducible apply rput_frame
    | with_reducible apply Frame.ite
    | ((conv in State.mk _ _ _ _ _ _ _ _ _ _ _ _ _ _ _ _ _ _ _ _ _ _ _ _ _ => skip); with_reducible apply Frame.upd)
    | with_reducible exact .inr rfl
    | exact .inl (Part.sub_has _ hfm (by decide))

theorem takeChannel_frame {fm : List Part} {b0 : State} (s : State) (ch : Nat) (code : BitVec 12)
    (hfr : Frame fm b0 s) (hfm : Part.sub [.slot0, .tick, .tfrac, .regs, .tiles, .dram, .net, .reports, .free, .stk, .vil, .fleet, .chr, .serve, .img, .log, .pwr, .rst, .bnc, .snd, .lsr] fm = true) : Frame fm b0 (takeChannel s ch code) := by
  unfold takeChannel
  repeat' first
    | with_reducible assumption
    | exact Part.sub_trans (by decide) hfm
    | with_reducible intro _
    | (extract_lets +onlyGivenNames x; refine (fun hx => ?_ : (Frame fm b0 x) → _) ?_; (on_goal 2 => unfold x); all_goals clear_value x)
    | (extract_lets +onlyGivenNames x; refine (fun hx => ?_ : (Frame fm b0 x.1) → _) ?_; (on_goal 2 => unfold x); all_goals clear_value x)
    | (extract_lets +onlyGivenNames x; refine (fun hx => ?_ : (tileSafe x = true) → _) ?_; (on_goal 2 => unfold x); all_goals clear_value x)
    | (extract_lets +onlyGivenNames x; refine (fun hx => ?_ : (tileSafe x.1 = true) → _) ?_; (on_goal 2 => unfold x); all_goals clear_value x)
    | (extract_lets +onlyGivenNames x; refine (fun hx => ?_ : (FrameOpt fm b0 x) → _) ?_; (on_goal 2 => unfold x); all_goals clear_value x)
    | (extract_lets +onlyGivenNames x; refine (fun hx => ?_ : (Frame fm b0 x.st) → _) ?_; (on_goal 2 => unfold x); all_goals clear_value x)
    | extract_lets +onlyGivenNames x
    | with_reducible apply sampleFlag_frame
    | with_reducible apply rput_frame
    | with_reducible apply takeThermistor_frame
    | with_reducible apply Frame.ite
    | split

theorem entryResult_frame {fm : List Part} {b0 : State} (s : State) (code : BitVec 12)
    (hfr : Frame fm b0 s) (hfm : Part.sub [.slot0, .tick, .tfrac, .regs, .tiles, .dram, .net, .reports, .free, .stk, .vil, .fleet, .chr, .serve, .img, .log, .pwr, .rst, .bnc, .snd, .lsr] fm = true) : Frame fm b0 (entryResult s code) := by
  unfold entryResult
  repeat' first
    | with_reducible assumption
    | exact Part.sub_trans (by decide) hfm
    | (extract_lets +onlyGivenNames x; refine (fun hx => ?_ : (Frame fm b0 x) → _) ?_; (on_goal 2 => unfold x); all_goals clear_value x)
    | extract_lets +onlyGivenNames x
    | with_reducible apply takeChannel_frame
    | with_reducible apply rset_frame
    | with_reducible apply rput_frame
    | split

theorem fastSample_frame {fm : List Part} {b0 : State} (s : State) (ch : Nat)
    (hfr : Frame fm b0 s) (hfm : Part.sub [.slot0, .tick, .tfrac, .regs, .tiles, .dram, .net, .reports, .free, .stk, .vil, .fleet, .chr, .serve, .img, .log, .pwr, .rst, .bnc, .snd, .lsr] fm = true) : Frame fm b0 (fastSample s ch) := by
  unfold fastSample
  repeat' first
    | with_reducible assumption
    | exact Part.sub_trans (by decide) hfm
    | with_reducible intro _
    | with_reducible apply takePower_frame
    | with_reducible apply Frame.ite
    | split

theorem urgentResult_frame {fm : List Part} {b0 : State} (s : State) (code : BitVec 12)
    (hfr : Frame fm b0 s) (hfm : Part.sub [.slot0, .tick, .tfrac, .regs, .tiles, .dram, .net, .reports, .free, .stk, .vil, .fleet, .chr, .serve, .img, .log, .pwr, .rst, .bnc, .snd, .lsr] fm = true) : Frame fm b0 (urgentResult s code) := by
  unfold urgentResult
  repeat' first
    | with_reducible assumption
    | exact Part.sub_trans (by decide) hfm
    | with_reducible intro _
    | (extract_lets +onlyGivenNames x; refine (fun hx => ?_ : (Frame fm b0 x) → _) ?_; (on_goal 2 => unfold x); all_goals clear_value x)
    | (extract_lets +onlyGivenNames x; refine (fun hx => ?_ : (Frame fm b0 x.1) → _) ?_; (on_goal 2 => unfold x); all_goals clear_value x)
    | (extract_lets +onlyGivenNames x; refine (fun hx => ?_ : (tileSafe x = true) → _) ?_; (on_goal 2 => unfold x); all_goals clear_value x)
    | (extract_lets +onlyGivenNames x; refine (fun hx => ?_ : (tileSafe x.1 = true) → _) ?_; (on_goal 2 => unfold x); all_goals clear_value x)
    | (extract_lets +onlyGivenNames x; refine (fun hx => ?_ : (FrameOpt fm b0 x) → _) ?_; (on_goal 2 => unfold x); all_goals clear_value x)
    | (extract_lets +onlyGivenNames x; refine (fun hx => ?_ : (Frame fm b0 x.st) → _) ?_; (on_goal 2 => unfold x); all_goals clear_value x)
    | extract_lets +onlyGivenNames x
    | with_reducible apply putUrgent_frame
    | with_reducible apply fastSample_frame
    | with_reducible apply takeChannel_frame
    | with_reducible apply rput_frame
    | with_reducible apply rset_frame
    | with_reducible apply Frame.ite
    | (with_reducible refine Frame.ofPair ‹_ = (_, _)› ?_)
    | split
    | ((conv in State.mk _ _ _ _ _ _ _ _ _ _ _ _ _ _ _ _ _ _ _ _ _ _ _ _ _ => skip); with_reducible apply Frame.upd)
    | with_reducible exact .inr rfl
    | exact .inl (Part.sub_has _ hfm (by decide))
    | exact .inl ⟨Part.sub_has _ hfm (by decide), fun h => h⟩
    | exact .inl ⟨Part.sub_has _ hfm (by decide), fun h => by simpa only [List.length_set, List.length_map, List.length_zipIdx] using h⟩

theorem execConversionDone_frame {fm : List Part} {b0 : State} (code : BitVec 12) (s : State)
    (hfr : Frame fm b0 s) (hfm : Part.sub [.slot0, .tick, .tfrac, .regs, .tiles, .dram, .net, .reports, .free, .stk, .vil, .fleet, .chr, .serve, .img, .log, .pwr, .rst, .bnc, .snd, .lsr] fm = true) : FrameOut fm b0 (execConversionDone code s) := by
  unfold execConversionDone
  repeat' first
    | with_reducible assumption
    | exact Part.sub_trans (by decide) hfm
    | with_reducible intro _
    | (extract_lets +onlyGivenNames x; refine (fun hx => ?_ : (Frame fm b0 x) → _) ?_; (on_goal 2 => unfold x); all_goals clear_value x)
    | (extract_lets +onlyGivenNames x; refine (fun hx => ?_ : (Frame fm b0 x.1) → _) ?_; (on_goal 2 => unfold x); all_goals clear_value x)
    | (extract_lets +onlyGivenNames x; refine (fun hx => ?_ : (tileSafe x = true) → _) ?_; (on_goal 2 => unfold x); all_goals clear_value x)
    | (extract_lets +onlyGivenNames x; refine (fun hx => ?_ : (tileSafe x.1 = true) → _) ?_; (on_goal 2 => unfold x); all_goals clear_value x)
    | (extract_lets +onlyGivenNames x; refine (fun hx => ?_ : (FrameOpt fm b0 x) → _) ?_; (on_goal 2 => unfold x); all_goals clear_value x)
    | (extract_lets +onlyGivenNames x; refine (fun hx => ?_ : (Frame fm b0 x.st) → _) ?_; (on_goal 2 => unfold x); all_goals clear_value x)
    | extract_lets +onlyGivenNames x
    | with_reducible apply FrameOut.next
    | with_reducible apply rbump_frame
    | with_reducible apply putActive_frame
    | with_reducible apply startConversion_frame
    | with_reducible apply entryResult_frame
    | with_reducible apply urgentResult_frame
    | with_reducible apply Frame.ite
    | (with_reducible refine Frame.ofPair ‹_ = (_, _)› ?_)
    | split
    | ((conv in State.mk _ _ _ _ _ _ _ _ _ _ _ _ _ _ _ _ _ _ _ _ _ _ _ _ _ => skip); with_reducible apply Frame.upd)
    | with_reducible exact .inr rfl
    | exact .inl (Part.sub_has _ hfm (by decide))
    | exact .inl ⟨Part.sub_has _ hfm (by decide), fun h => h⟩
    | exact .inl ⟨Part.sub_has _ hfm (by decide), fun h => by simpa only [List.length_set, List.length_map, List.length_zipIdx] using h⟩

theorem writeRefbuf_frame {fm : List Part} {b0 : State} (s : State) (v : Bool)
    (hfr : Frame fm b0 s) (hfm : Part.sub [.regs, .snd] fm = true) : Frame fm b0 (writeRefbuf s v) := by
  unfold writeRefbuf
  repeat' first
    | with_reducible assumption
    | exact Part.sub_trans (by decide) hfm
    | extract_lets +onlyGivenNames x
    | with_reducible apply abortConversion_frame
    | with_reducible apply rset_frame
    | with_reducible apply rput_frame
    | with_reducible apply Frame.ite

theorem execRefbufEn_frame {fm : List Part} {b0 : State} (v : Bool) (s : State)
    (hfr : Frame fm b0 s) (hfm : Part.sub [.regs, .snd] fm = true) : FrameOut fm b0 (execRefbufEn v s) := by
  unfold execRefbufEn
  repeat' first
    | with_reducible assumption
    | extract_lets +onlyGivenNames x
    | with_reducible apply FrameOut.next
    | with_reducible apply writeRefbuf_frame

theorem execRefRdy_frame {fm : List Part} {b0 : State} (s : State)
    (hfr : Frame fm b0 s) (hfm : Part.sub [.regs, .snd] fm = true) : FrameOut fm b0 (execRefRdy s) := by
  unfold execRefRdy
  repeat' first
    | with_reducible assumption
    | exact Part.sub_trans (by decide) hfm
    | extract_lets +onlyGivenNames x
    | with_reducible apply FrameOut.next
    | with_reducible apply startConversion_frame
    | with_reducible apply rset_frame
    | with_reducible apply Frame.ite

theorem openIssuer_frame {fm : List Part} {b0 : State} (s : State) (p : Packet)
    (hfr : Frame fm b0 s) (hfm : Part.sub [.tiles, .reports, .free, .log] fm = true) : Frame fm b0 (openIssuer s p) := by
  unfold openIssuer
  repeat' first
    | with_reducible assumption
    | exact Part.sub_trans (by decide) hfm
    | with_reducible intro _
    | (extract_lets +onlyGivenNames x; refine (fun hx => ?_ : (Frame fm b0 x.1) → _) ?_; (on_goal 2 => unfold x); all_goals clear_value x)
    | (extract_lets +onlyGivenNames x; refine (fun hx => ?_ : (SafeParts b0 → tileSafe x = true) → _) ?_; (on_goal 2 => unfold x); all_goals clear_value x)
    | extract_lets +onlyGivenNames x
    | with_reducible apply openBytes_frame
    | with_reducible apply changeSite_frame
    | with_reducible apply Frame.foldl
    | with_reducible apply Frame.ite
    | with_reducible apply swrite_safe
    | (refine SafeParts.tileAt (Frame.safe (m := fm) ?_ ‹SafeParts b0›) _ _)
    | split

theorem abortHalf_frame {fm : List Part} {b0 : State} (s : State) (h : Nat)
    (hfr : Frame fm b0 s) (hfm : Part.sub [.regs, .tiles, .net, .reports, .free, .vil, .log] fm = true) : Frame fm b0 (abortHalf s h) := by
  unfold abortHalf
  repeat' first
    | with_reducible assumption
    | exact Part.sub_trans (by decide) hfm
    | with_reducible intro _
    | (extract_lets +onlyGivenNames x; refine (fun hx => ?_ : (Frame fm b0 x) → _) ?_; (on_goal 2 => unfold x); all_goals clear_value x)
    | extract_lets +onlyGivenNames x
    | with_reducible apply openIssuer_frame
    | with_reducible apply endPart_frame
    | with_reducible apply rbump_frame
    | with_reducible apply Frame.foldl

theorem abortPorts_frame {fm : List Part} {b0 : State} (s : State) (d : Nat)
    (hfr : Frame fm b0 s) (hfm : Part.sub [.regs, .net, .fleet] fm = true) : Frame fm b0 (abortPorts s d) := by
  unfold abortPorts
  repeat' first
    | with_reducible assumption
    | exact Part.sub_trans (by decide) hfm
    | with_reducible intro _
    | (extract_lets +onlyGivenNames x; refine (fun hx => ?_ : (Frame fm b0 x) → _) ?_; (on_goal 2 => unfold x); all_goals clear_value x)
    | (extract_lets +onlyGivenNames x; refine (fun hx => ?_ : (Frame fm b0 x.1) → _) ?_; (on_goal 2 => unfold x); all_goals clear_value x)
    | (extract_lets +onlyGivenNames x; refine (fun hx => ?_ : (tileSafe x = true) → _) ?_; (on_goal 2 => unfold x); all_goals clear_value x)
    | (extract_lets +onlyGivenNames x; refine (fun hx => ?_ : (tileSafe x.1 = true) → _) ?_; (on_goal 2 => unfold x); all_goals clear_value x)
    | (extract_lets +onlyGivenNames x; refine (fun hx => ?_ : (FrameOpt fm b0 x) → _) ?_; (on_goal 2 => unfold x); all_goals clear_value x)
    | (extract_lets +onlyGivenNames x; refine (fun hx => ?_ : (Frame fm b0 x.st) → _) ?_; (on_goal 2 => unfold x); all_goals clear_value x)
    | extract_lets +onlyGivenNames x
    | with_reducible apply putPort_frame
    | with_reducible apply rbump_frame
    | with_reducible apply endPacket_frame
    | with_reducible apply Frame.foldl
    | with_reducible apply Frame.foldlFst
    | ((conv in State.mk _ _ _ _ _ _ _ _ _ _ _ _ _ _ _ _ _ _ _ _ _ _ _ _ _ => skip); with_reducible apply Frame.upd)
    | with_reducible exact .inr rfl
    | exact .inl (Part.sub_has _ hfm (by decide))
    | exact .inl ⟨Part.sub_has _ hfm (by decide), fun h => h⟩
    | exact .inl ⟨Part.sub_has _ hfm (by decide), fun h => by simpa only [List.length_set, List.length_map, List.length_zipIdx] using h⟩

theorem abortInside_frame {fm : List Part} {b0 : State} (s : State) (b : UnitRef)
    (hfr : Frame fm b0 s) (hfm : Part.sub [.cyc, .tick, .tfrac, .regs, .tiles, .dram, .net, .reports, .free, .stk, .vil, .fleet, .serve, .log] fm = true) : Frame fm b0 (abortInside s b) := by
  unfold abortInside
  repeat' first
    | with_reducible assumption
    | exact Part.sub_trans (by decide) hfm
    | with_reducible intro _
    | with_reducible apply abortTile_frame
    | with_reducible apply abortPorts_frame
    | with_reducible apply abortHalf_frame
    | with_reducible apply Frame.ite
    | (with_reducible refine Frame.ofPair ‹_ = (_, _)› ?_)
    | split
    | ((conv in State.mk _ _ _ _ _ _ _ _ _ _ _ _ _ _ _ _ _ _ _ _ _ _ _ _ _ => skip); with_reducible apply Frame.upd)
    | with_reducible exact .inr rfl
    | exact .inl (Part.sub_has _ hfm (by decide))
    | exact .inl ⟨Part.sub_has _ hfm (by decide), fun h => h⟩
    | exact .inl ⟨Part.sub_has _ hfm (by decide), fun h => by simpa only [List.length_set, List.length_map, List.length_zipIdx] using h⟩
    | extract_lets +onlyGivenNames x

theorem orderUp_frame {fm : List Part} {b0 : State} (s : State) (order : Nat)
    (hfr : Frame fm b0 s) (hfm : Part.sub [.rst] fm = true) : Frame fm b0 (orderUp s order) := by
  unfold orderUp
  repeat' first
    | with_reducible assumption
    | extract_lets +onlyGivenNames x
    | ((conv in State.mk _ _ _ _ _ _ _ _ _ _ _ _ _ _ _ _ _ _ _ _ _ _ _ _ _ => skip); with_reducible apply Frame.upd)
    | with_reducible exact .inr rfl
    | exact .inl (Part.sub_has _ hfm (by decide))

theorem releaseStack_frame {fm : List Part} {b0 : State} (s : State)
    (hfr : Frame fm b0 s) (hfm : Part.sub [.tiles, .stk, .rst] fm = true) : Frame fm b0 (releaseStack s) := by
  unfold releaseStack
  repeat' first
    | with_reducible assumption
    | exact Part.sub_trans (by decide) hfm
    | (extract_lets +onlyGivenNames x; refine (fun hx => ?_ : (Frame fm b0 x) → _) ?_; (on_goal 2 => unfold x); all_goals clear_value x)
    | extract_lets +onlyGivenNames x
    | with_reducible apply orderUp_frame
    | with_reducible apply freeTiles_frame
    | with_reducible apply Frame.ite
    | ((conv in State.mk _ _ _ _ _ _ _ _ _ _ _ _ _ _ _ _ _ _ _ _ _ _ _ _ _ => skip); with_reducible apply Frame.upd)
    | with_reducible exact .inr rfl
    | exact .inl (Part.sub_has _ hfm (by decide))

theorem startBeats_frame {fm : List Part} {b0 : State} (s : State)
    (hfr : Frame fm b0 s) (hfm : Part.sub [.stk] fm = true) : Frame fm b0 (startBeats s) := by
  unfold startBeats
  repeat' first
    | with_reducible assumption
    | extract_lets +onlyGivenNames x
    | ((conv in State.mk _ _ _ _ _ _ _ _ _ _ _ _ _ _ _ _ _ _ _ _ _ _ _ _ _ => skip); with_reducible apply Frame.upd)
    | with_reducible exact .inr rfl
    | exact .inl ⟨Part.sub_has _ hfm (by decide), fun h => by simpa only [List.length_set, List.length_map, List.length_zipIdx] using h⟩

theorem restartSlots_frame {fm : List Part} {b0 : State} (s : State)
    (hfr : Frame fm b0 s) (hfm : Part.sub [.slot0] fm = true) : Frame fm b0 (restartSlots s) := by
  unfold restartSlots
  repeat' first
    | with_reducible assumption
    | extract_lets +onlyGivenNames x
    | ((conv in State.mk _ _ _ _ _ _ _ _ _ _ _ _ _ _ _ _ _ _ _ _ _ _ _ _ _ => skip); with_reducible apply Frame.upd)
    | with_reducible exact .inr rfl
    | exact .inl (Part.sub_has _ hfm (by decide))

theorem releaseOrder_frame {fm : List Part} {b0 : State} (s : State) (order : Nat)
    (hfr : Frame fm b0 s) (hfm : Part.sub [.slot0, .regs, .tiles, .stk, .rst, .lsr] fm = true) : Frame fm b0 (releaseOrder s order) := by
  unfold releaseOrder
  repeat' first
    | with_reducible assumption
    | exact Part.sub_trans (by decide) hfm
    | with_reducible intro _
    | with_reducible apply drawNonce_frame
    | with_reducible apply clearSecrets_frame
    | with_reducible apply orderUp_frame
    | with_reducible apply restartSlots_frame
    | with_reducible apply releaseStack_frame
    | with_reducible apply startBeats_frame
    | (with_reducible refine Frame.ofPair ‹_ = (_, _)› ?_)
    | split
    | ((conv in State.mk _ _ _ _ _ _ _ _ _ _ _ _ _ _ _ _ _ _ _ _ _ _ _ _ _ => skip); with_reducible apply Frame.upd)
    | with_reducible exact .inr rfl
    | exact .inl (Part.sub_has _ hfm (by decide))
    | exact .inl ⟨Part.sub_has _ hfm (by decide), fun h => h⟩
    | exact .inl ⟨Part.sub_has _ hfm (by decide), fun h => by simpa only [List.length_set, List.length_map, List.length_zipIdx] using h⟩
    | extract_lets +onlyGivenNames x

theorem loadRoutes_frame {fm : List Part} {b0 : State} (s : State) (k : Nat) (fails : List SelfTestFail)
    (hfr : Frame fm b0 s) (hfm : Part.sub [.regs] fm = true) : Frame fm b0 (loadRoutes s k fails) := by
  unfold loadRoutes
  repeat' first
    | with_reducible assumption
    | with_reducible intro _
    | (extract_lets +onlyGivenNames x; refine (fun hx => ?_ : (Frame fm b0 x) → _) ?_; (on_goal 2 => unfold x); all_goals clear_value x)
    | extract_lets +onlyGivenNames x
    | with_reducible apply putMap_frame
    | with_reducible apply rset_frame
    | with_reducible apply rput_frame
    | with_reducible apply Frame.foldl

theorem setUnitState_frame {fm : List Part} {b0 : State} (s : State) (u : UnitRef) (st : Nat)
    (hfr : Frame fm b0 s) (hfm : Part.sub [.log] fm = true) : Frame fm b0 (setUnitState s u st) := by
  unfold setUnitState
  repeat' first
    | with_reducible assumption
    | extract_lets +onlyGivenNames x
    | with_reducible apply storeEntry_frame

theorem retireSites_frame {fm : List Part} {b0 : State} (s : State) (fails : List SelfTestFail)
    (hfr : Frame fm b0 s) (hfm : Part.sub [.log] fm = true) : Frame fm b0 (retireSites s fails) := by
  unfold retireSites
  repeat' first
    | with_reducible assumption
    | exact Part.sub_trans (by decide) hfm
    | with_reducible intro _
    | with_reducible apply setUnitState_frame
    | with_reducible apply Frame.foldl
    | with_reducible apply Frame.foldlFst
    | (with_reducible refine Frame.ofPair ‹_ = (_, _)› ?_)
    | split
    | ((conv in State.mk _ _ _ _ _ _ _ _ _ _ _ _ _ _ _ _ _ _ _ _ _ _ _ _ _ => skip); with_reducible apply Frame.upd)
    | with_reducible exact .inr rfl
    | exact .inl (Part.sub_has _ hfm (by decide))
    | exact .inl ⟨Part.sub_has _ hfm (by decide), fun h => h⟩
    | exact .inl ⟨Part.sub_has _ hfm (by decide), fun h => by simpa only [List.length_set, List.length_map, List.length_zipIdx] using h⟩
    | extract_lets +onlyGivenNames x

theorem faultBringup_frame {fm : List Part} {b0 : State} (s : State)
    (hfr : Frame fm b0 s) (hfm : Part.sub [.regs] fm = true) : Frame fm b0 (faultBringup s) := by
  unfold faultBringup
  repeat' first
    | with_reducible assumption
    | with_reducible apply rset_frame

theorem failStack_frame {fm : List Part} {b0 : State} (s : State) (k : Nat)
    (hfr : Frame fm b0 s) (hfm : Part.sub [.regs, .tiles, .dram, .stk, .pwr] fm = true) : Frame fm b0 (failStack s k) := by
  unfold failStack
  repeat' first
    | with_reducible assumption
    | exact Part.sub_trans (by decide) hfm
    | extract_lets +onlyGivenNames x
    | with_reducible apply writeStackOn_frame
    | with_reducible apply rput_frame

theorem putLead_frame {fm : List Part} {b0 : State} (s : State) (k : Nat)
    (hfr : Frame fm b0 s) (hfm : Part.sub [.regs] fm = true) : Frame fm b0 (putLead s k) := by
  unfold putLead
  repeat' first
    | with_reducible assumption
    | exact Part.sub_trans (by decide) hfm
    | with_reducible intro _
    | (extract_lets +onlyGivenNames x; refine (fun hx => ?_ : (Frame fm b0 x) → _) ?_; (on_goal 2 => unfold x); all_goals clear_value x)
    | (extract_lets +onlyGivenNames x; refine (fun hx => ?_ : (Frame fm b0 x.1) → _) ?_; (on_goal 2 => unfold x); all_goals clear_value x)
    | (extract_lets +onlyGivenNames x; refine (fun hx => ?_ : (tileSafe x = true) → _) ?_; (on_goal 2 => unfold x); all_goals clear_value x)
    | (extract_lets +onlyGivenNames x; refine (fun hx => ?_ : (tileSafe x.1 = true) → _) ?_; (on_goal 2 => unfold x); all_goals clear_value x)
    | (extract_lets +onlyGivenNames x; refine (fun hx => ?_ : (FrameOpt fm b0 x) → _) ?_; (on_goal 2 => unfold x); all_goals clear_value x)
    | (extract_lets +onlyGivenNames x; refine (fun hx => ?_ : (Frame fm b0 x.st) → _) ?_; (on_goal 2 => unfold x); all_goals clear_value x)
    | extract_lets +onlyGivenNames x
    | with_reducible apply rput_frame
    | with_reducible apply rset_frame
    | with_reducible apply Frame.foldl
    | with_reducible apply Frame.foldlFst
    | with_reducible apply Frame.ite
    | split

theorem chooseLead_frame {fm : List Part} {b0 : State} (s : State) (fails : List SelfTestFail)
    (hfr : Frame fm b0 s) (hfm : Part.sub [.regs] fm = true) : Frame fm b0 (chooseLead s fails) := by
  unfold chooseLead
  repeat' first
    | with_reducible assumption
    | exact Part.sub_trans (by decide) hfm
    | with_reducible intro _
    | with_reducible apply putLead_frame
    | (with_reducible refine Frame.ofPair ‹_ = (_, _)› ?_)
    | split
    | ((conv in State.mk _ _ _ _ _ _ _ _ _ _ _ _ _ _ _ _ _ _ _ _ _ _ _ _ _ => skip); with_reducible apply Frame.upd)
    | with_reducible exact .inr rfl
    | exact .inl (Part.sub_has _ hfm (by decide))
    | exact .inl ⟨Part.sub_has _ hfm (by decide), fun h => h⟩
    | exact .inl ⟨Part.sub_has _ hfm (by decide), fun h => by simpa only [List.length_set, List.length_map, List.length_zipIdx] using h⟩

theorem spareLines_frame {fm : List Part} {b0 : State} (s : State)
    (hfr : Frame fm b0 s) (hfm : Part.sub [.log] fm = true) : Frame fm b0 (spareLines s) := by
  unfold spareLines
  repeat' first
    | with_reducible assumption
    | with_reducible intro _
    | (extract_lets +onlyGivenNames x; refine (fun hx => ?_ : (Frame fm b0 x) → _) ?_; (on_goal 2 => unfold x); all_goals clear_value x)
    | extract_lets +onlyGivenNames x
    | with_reducible apply setUnitState_frame
    | with_reducible apply Frame.foldl
    | ((conv in State.mk _ _ _ _ _ _ _ _ _ _ _ _ _ _ _ _ _ _ _ _ _ _ _ _ _ => skip); with_reducible apply Frame.upd)
    | with_reducible exact .inr rfl
    | exact .inl (Part.sub_has _ hfm (by decide))

theorem repairTile_frame {fm : List Part} {b0 : State} (k : Nat) (s : State) (site : Nat)
    (hfr : Frame fm b0 s) (hfm : Part.sub [.tiles] fm = true) : Frame fm b0 (repairTile k s site) := by
  unfold repairTile
  repeat' first
    | with_reducible assumption
    | with_reducible intro _
    | (extract_lets +onlyGivenNames x; refine (fun hx => ?_ : (Frame fm b0 x) → _) ?_; (on_goal 2 => unfold x); all_goals clear_value x)
    | extract_lets +onlyGivenNames x
    | with_reducible apply pendDemotion_frame
    | with_reducible apply putTile_frame
    | with_reducible apply Frame.ite
    | with_reducible apply loadColreps_safe
    | (refine SafeParts.tileAt (Frame.safe (m := fm) ?_ ‹SafeParts b0›) _ _)

theorem repairStack_frame {fm : List Part} {b0 : State} (fails : List SelfTestFail) (s : State) (k : Nat)
    (hfr : Frame fm b0 s) (hfm : Part.sub [.regs, .tiles, .reports, .stk, .log, .pwr] fm = true) : Frame fm b0 (repairStack fails s k) := by
  unfold repairStack
  repeat' first
    | with_reducible assumption
    | exact Part.sub_trans (by decide) hfm
    | with_reducible intro _
    | (extract_lets +onlyGivenNames x; refine (fun hx => ?_ : (Frame fm b0 x) → _) ?_; (on_goal 2 => unfold x); all_goals clear_value x)
    | extract_lets +onlyGivenNames x
    | with_reducible apply repairTile_frame
    | with_reducible apply loadRoutes_frame
    | with_reducible apply loadTable_frame
    | with_reducible apply trigger_frame
    | with_reducible apply takeTargets_frame
    | with_reducible apply changeSite_frame
    | with_reducible apply Frame.foldl
    | with_reducible apply fenceTile_safe

theorem loadSequence_frame {fm : List Part} {b0 : State} (s : State)
    (hfr : Frame fm b0 s) (hfm : Part.sub [.regs] fm = true) : Frame fm b0 (loadSequence s) := by
  unfold loadSequence
  repeat' first
    | with_reducible assumption
    | with_reducible intro _
    | (extract_lets +onlyGivenNames x; refine (fun hx => ?_ : (Frame fm b0 x) → _) ?_; (on_goal 2 => unfold x); all_goals clear_value x)
    | extract_lets +onlyGivenNames x
    | with_reducible apply rset_frame
    | with_reducible apply rput_frame
    | with_reducible apply Frame.foldl

theorem toStep_frame {fm : List Part} {b0 : State} (s : State) (n : Nat)
    (hfr : Frame fm b0 s) (hfm : Part.sub [.regs] fm = true) : Frame fm b0 (toStep s n) := by
  unfold toStep
  repeat' first
    | with_reducible assumption
    | with_reducible apply rput_frame

theorem endStep1_frame {fm : List Part} {b0 : State} (s : State)
    (hfr : Frame fm b0 s) (hfm : Part.sub [.regs, .lsr] fm = true) : Frame fm b0 (endStep1 s) := by
  unfold endStep1
  repeat' first
    | with_reducible assumption
    | exact Part.sub_trans (by decide) hfm
    | (extract_lets +onlyGivenNames x; refine (fun hx => ?_ : (Frame fm b0 x) → _) ?_; (on_goal 2 => unfold x); all_goals clear_value x)
    | extract_lets +onlyGivenNames x
    | with_reducible apply toStep_frame
    | with_reducible apply loadSequence_frame
    | with_reducible apply faultBringup_frame
    | with_reducible apply chooseCopies_frame
    | with_reducible apply clearSecrets_frame
    | with_reducible apply Frame.ite

theorem endStep2_frame {fm : List Part} {b0 : State} (s : State)
    (hfr : Frame fm b0 s) (hfm : Part.sub [.regs, .stk, .log, .pwr] fm = true) : Frame fm b0 (endStep2 s) := by
  unfold endStep2
  repeat' first
    | with_reducible assumption
    | exact Part.sub_trans (by decide) hfm
    | with_reducible intro _
    | (extract_lets +onlyGivenNames x; refine (fun hx => ?_ : (Frame fm b0 x) → _) ?_; (on_goal 2 => unfold x); all_goals clear_value x)
    | extract_lets +onlyGivenNames x
    | with_reducible apply toStep_frame
    | with_reducible apply heldMain_frame
    | with_reducible apply chooseTable_frame
    | with_reducible apply Frame.foldl
    | ((conv in State.mk _ _ _ _ _ _ _ _ _ _ _ _ _ _ _ _ _ _ _ _ _ _ _ _ _ => skip); with_reducible apply Frame.upd)
    | with_reducible exact .inr rfl
    | exact .inl (Part.sub_has _ hfm (by decide))

theorem endStep6_frame {fm : List Part} {b0 : State} (s : State) (fails : List SelfTestFail)
    (hfr : Frame fm b0 s) (hfm : Part.sub [.regs, .tiles, .dram, .reports, .stk, .log, .pwr] fm = true) : Frame fm b0 (endStep6 s fails) := by
  unfold endStep6
  repeat' first
    | with_reducible assumption
    | exact Part.sub_trans (by decide) hfm
    | with_reducible intro _
    | (extract_lets +onlyGivenNames x; refine (fun hx => ?_ : (Frame fm b0 x) → _) ?_; (on_goal 2 => unfold x); all_goals clear_value x)
    | (extract_lets +onlyGivenNames x; refine (fun hx => ?_ : (Frame fm b0 x.1) → _) ?_; (on_goal 2 => unfold x); all_goals clear_value x)
    | (extract_lets +onlyGivenNames x; refine (fun hx => ?_ : (tileSafe x = true) → _) ?_; (on_goal 2 => unfold x); all_goals clear_value x)
    | (extract_lets +onlyGivenNames x; refine (fun hx => ?_ : (tileSafe x.1 = true) → _) ?_; (on_goal 2 => unfold x); all_goals clear_value x)
    | (extract_lets +onlyGivenNames x; refine (fun hx => ?_ : (FrameOpt fm b0 x) → _) ?_; (on_goal 2 => unfold x); all_goals clear_value x)
    | (extract_lets +onlyGivenNames x; refine (fun hx => ?_ : (Frame fm b0 x.st) → _) ?_; (on_goal 2 => unfold x); all_goals clear_value x)
    | extract_lets +onlyGivenNames x
    | with_reducible apply loadRoutes_frame
    | with_reducible apply retireSites_frame
    | with_reducible apply chooseLead_frame
    | with_reducible apply faultBringup_frame
    | with_reducible apply rset_frame
    | with_reducible apply failStack_frame
    | with_reducible apply toStep_frame
    | with_reducible apply repairStack_frame
    | with_reducible apply spareLines_frame
    | with_reducible apply Frame.foldl
    | with_reducible apply Frame.foldlFst
    | with_reducible apply Frame.ite
    | split

theorem repairChannels_frame {fm : List Part} {b0 : State} (s : State)
    (hfr : Frame fm b0 s) (hfm : Part.sub [.log] fm = true) : Frame fm b0 (repairChannels s) := by
  unfold repairChannels
  repeat' first
    | with_reducible assumption
    | with_reducible intro _
    | extract_lets +onlyGivenNames x
    | with_reducible apply setUnitState_frame
    | with_reducible apply Frame.foldl
    | with_reducible apply Frame.ite

theorem fleetStep_frame {fm : List Part} {b0 : State} (s : State)
    (hfr : Frame fm b0 s) (hfm : Part.sub [.regs, .net, .fleet] fm = true) : Frame fm b0 (fleetStep s) := by
  unfold fleetStep
  repeat' first
    | with_reducible assumption
    | exact Part.sub_trans (by decide) hfm
    | with_reducible intro _
    | with_reducible apply startDiscovery_frame
    | with_reducible apply writePortEn_frame
    | with_reducible apply Frame.foldl
    | with_reducible apply Frame.foldlFst
    | with_reducible apply Frame.ite
    | split
    | extract_lets +onlyGivenNames x

theorem bootBerth_frame {fm : List Part} {b0 : State} (s : State) (b : Nat)
    (hfr : Frame fm b0 s) (hfm : Part.sub [.cyc, .tick, .tfrac, .regs, .tiles, .dram, .net, .reports, .stk, .vil, .serve, .log, .pwr] fm = true) : Frame fm b0 (bootBerth s b) := by
  unfold bootBerth
  repeat' first
    | with_reducible assumption
    | exact Part.sub_trans (by decide) hfm
    | with_reducible intro _
    | (extract_lets +onlyGivenNames x; refine (fun hx => ?_ : (Frame fm b0 x) → _) ?_; (on_goal 2 => unfold x); all_goals clear_value x)
    | (extract_lets +onlyGivenNames x; refine (fun hx => ?_ : (Frame fm b0 x.1) → _) ?_; (on_goal 2 => unfold x); all_goals clear_value x)
    | (extract_lets +onlyGivenNames x; refine (fun hx => ?_ : (tileSafe x = true) → _) ?_; (on_goal 2 => unfold x); all_goals clear_value x)
    | (extract_lets +onlyGivenNames x; refine (fun hx => ?_ : (tileSafe x.1 = true) → _) ?_; (on_goal 2 => unfold x); all_goals clear_value x)
    | (extract_lets +onlyGivenNames x; refine (fun hx => ?_ : (FrameOpt fm b0 x) → _) ?_; (on_goal 2 => unfold x); all_goals clear_value x)
    | (extract_lets +onlyGivenNames x; refine (fun hx => ?_ : (Frame fm b0 x.st) → _) ?_; (on_goal 2 => unfold x); all_goals clear_value x)
    | extract_lets +onlyGivenNames x
    | with_reducible apply rset_frame
    | with_reducible apply loadBerth_frame
    | with_reducible apply decideLoad_frame
    | with_reducible apply Frame.ite
    | (with_reducible refine Frame.ofPair ‹_ = (_, _)› ?_)
    | split
    | ((conv in State.mk _ _ _ _ _ _ _ _ _ _ _ _ _ _ _ _ _ _ _ _ _ _ _ _ _ => skip); with_reducible apply Frame.upd)
    | with_reducible exact .inr rfl
    | exact .inl (Part.sub_has _ hfm (by decide))
    | exact .inl ⟨Part.sub_has _ hfm (by decide), fun h => h⟩
    | exact .inl ⟨Part.sub_has _ hfm (by decide), fun h => by simpa only [List.length_set, List.length_map, List.length_zipIdx] using h⟩

theorem endStep_frame {fm : List Part} {b0 : State} (s : State) (fails : List SelfTestFail)
    (hfr : Frame fm b0 s) (hfm : Part.sub [.cyc, .tick, .tfrac, .regs, .tiles, .dram, .net, .reports, .stk, .vil, .fleet, .serve, .log, .pwr, .lsr] fm = true) : Frame fm b0 (endStep s fails) := by
  unfold endStep
  repeat' first
    | with_reducible assumption
    | exact Part.sub_trans (by decide) hfm
    | with_reducible intro _
    | extract_lets +onlyGivenNames x
    | with_reducible apply bootBerth_frame
    | with_reducible apply fleetStep_frame
    | with_reducible apply repairChannels_frame
    | with_reducible apply endStep6_frame
    | with_reducible apply endStep2_frame
    | with_reducible apply endStep1_frame
    | with_reducible apply toStep_frame
    | with_reducible apply zeroDram_frame
    | with_reducible apply writeStackOn_frame
    | with_reducible apply writeLnkEn_frame
    | with_reducible apply rset_frame
    | with_reducible apply Frame.foldl
    | with_reducible apply Frame.ite
    | split

theorem execPoweron_frame {fm : List Part} {b0 : State} (s : State)
    (hfr : Frame fm b0 s) (hfm : Part.sub [.slot0, .tick, .tfrac, .regs, .tiles, .dram, .net, .reports, .free, .stk, .vil, .fleet, .chr, .serve, .img, .log, .pwr, .rst, .bnc, .snd, .lsr] fm = true) : FrameOut fm b0 (execPoweron s) := by
  unfold execPoweron
  repeat' first
    | with_reducible assumption
    | exact Part.sub_trans (by decide) hfm
    | extract_lets +onlyGivenNames x
    | with_reducible apply FrameOut.next
    | with_reducible apply clearPowerOn_frame
    | with_reducible apply resetStatus_frame
    | with_reducible apply endLong_frame
    | with_reducible apply dropIsland_frame
    | with_reducible apply dropDomains_frame

theorem writeFltrst_frame {fm : List Part} {b0 : State} (s : State) (src : Source) (v : Word)
    (hfr : Frame fm b0 s) (hfm : Part.sub [.slot0, .tick, .tfrac, .regs, .tiles, .dram, .net, .reports, .free, .stk, .vil, .fleet, .chr, .serve, .img, .log, .pwr, .rst, .bnc, .snd, .lsr] fm = true) : Frame fm b0 (writeFltrst s src v) := by
  unfold writeFltrst
  repeat' first
    | with_reducible assumption
    | exact Part.sub_trans (by decide) hfm
    | with_reducible intro _
    | (extract_lets +onlyGivenNames x; refine (fun hx => ?_ : (Frame fm b0 x) → _) ?_; (on_goal 2 => unfold x); all_goals clear_value x)
    | (extract_lets +onlyGivenNames x; refine (fun hx => ?_ : (Frame fm b0 x.1) → _) ?_; (on_goal 2 => unfold x); all_goals clear_value x)
    | (extract_lets +onlyGivenNames x; refine (fun hx => ?_ : (tileSafe x = true) → _) ?_; (on_goal 2 => unfold x); all_goals clear_value x)
    | (extract_lets +onlyGivenNames x; refine (fun hx => ?_ : (tileSafe x.1 = true) → _) ?_; (on_goal 2 => unfold x); all_goals clear_value x)
    | (extract_lets +onlyGivenNames x; refine (fun hx => ?_ : (FrameOpt fm b0 x) → _) ?_; (on_goal 2 => unfold x); all_goals clear_value x)
    | (extract_lets +onlyGivenNames x; refine (fun hx => ?_ : (Frame fm b0 x.st) → _) ?_; (on_goal 2 => unfold x); all_goals clear_value x)
    | extract_lets +onlyGivenNames x
    | with_reducible apply moduleReset_frame
    | with_reducible apply rbump_frame
    | with_reducible apply Frame.ite
    | (with_reducible refine Frame.ofPair ‹_ = (_, _)› ?_)
    | split
    | ((conv in State.mk _ _ _ _ _ _ _ _ _ _ _ _ _ _ _ _ _ _ _ _ _ _ _ _ _ => skip); with_reducible apply Frame.upd)
    | with_reducible exact .inr rfl
    | exact .inl (Part.sub_has _ hfm (by decide))
    | exact .inl ⟨Part.sub_has _ hfm (by decide), fun h => h⟩
    | exact .inl ⟨Part.sub_has _ hfm (by decide), fun h => by simpa only [List.length_set, List.length_map, List.length_zipIdx] using h⟩

theorem execFltrst_frame {fm : List Part} {b0 : State} (src : Source) (v : Word) (s : State)
    (hfr : Frame fm b0 s) (hfm : Part.sub [.slot0, .tick, .tfrac, .regs, .tiles, .dram, .net, .reports, .free, .stk, .vil, .fleet, .chr, .serve, .img, .log, .pwr, .rst, .bnc, .snd, .lsr] fm = true) : FrameOut fm b0 (execFltrst src v s) := by
  unfold execFltrst
  repeat' first
    | with_reducible assumption
    | exact Part.sub_trans (by decide) hfm
    | extract_lets +onlyGivenNames x
    | with_reducible apply FrameOut.next
    | with_reducible apply writeFltrst_frame

theorem writeBrst_frame {fm : List Part} {b0 : State} (s : State)
    (hfr : Frame fm b0 s) (hfm : Part.sub [.regs, .tiles, .dram, .net, .reports, .free, .stk, .vil, .fleet, .log, .pwr, .rst, .bnc] fm = true) : Frame fm b0 (writeBrst s) := by
  unfold writeBrst
  repeat' first
    | with_reducible assumption
    | exact Part.sub_trans (by decide) hfm
    | extract_lets +onlyGivenNames x
    | with_reducible apply startBlock_frame
    | with_reducible apply rset_frame
    | with_reducible apply Frame.ite

theorem execBlockReset_frame {fm : List Part} {b0 : State} (s : State)
    (hfr : Frame fm b0 s) (hfm : Part.sub [.regs, .tiles, .dram, .net, .reports, .free, .stk, .vil, .fleet, .log, .pwr, .rst, .bnc] fm = true) : FrameOut fm b0 (execBlockReset s) := by
  unfold execBlockReset
  repeat' first
    | with_reducible assumption
    | exact Part.sub_trans (by decide) hfm
    | extract_lets +onlyGivenNames x
    | with_reducible apply FrameOut.next
    | with_reducible apply writeBrst_frame

theorem execIdleAck_frame {fm : List Part} {b0 : State} (b : UnitRef) (s : State)
    (hfr : Frame fm b0 s) (hfm : Part.sub [.regs, .tiles, .dram, .net, .reports, .free, .stk, .vil, .fleet, .log, .pwr, .rst, .bnc] fm = true) : FrameOut fm b0 (execIdleAck b s) := by
  unfold execIdleAck
  repeat' first
    | with_reducible assumption
    | exact Part.sub_trans (by decide) hfm
    | extract_lets +onlyGivenNames x
    | with_reducible apply FrameOut.next
    | with_reducible apply assertBlock_frame
    | with_reducible apply Frame.ite
    | split

theorem execQuiesceTimeout_frame {fm : List Part} {b0 : State} (b : UnitRef) (s : State)
    (hfr : Frame fm b0 s) (hfm : Part.sub [.cyc, .slot0, .tick, .tfrac, .regs, .tiles, .dram, .net, .reports, .free, .stk, .vil, .fleet, .chr, .serve, .img, .log, .pwr, .rst, .bnc, .snd, .lsr] fm = true) : FrameOut fm b0 (execQuiesceTimeout b s) := by
  unfold execQuiesceTimeout
  repeat' first
    | with_reducible assumption
    | exact Part.sub_trans (by decide) hfm
    | (extract_lets +onlyGivenNames x; refine (fun hx => ?_ : (Frame fm b0 x) → _) ?_; (on_goal 2 => unfold x); all_goals clear_value x)
    | extract_lets +onlyGivenNames x
    | with_reducible apply FrameOut.next
    | with_reducible apply abortInside_frame
    | with_reducible apply assertBlock_frame
    | with_reducible apply moduleReset_frame
    | with_reducible apply elapseToTick_frame
    | with_reducible apply rset_frame
    | with_reducible apply Frame.ite
    | split

theorem execBlockRelease_frame {fm : List Part} {b0 : State} (b : UnitRef) (s : State)
    (hfr : Frame fm b0 s) (hfm : Part.sub [.cyc, .tick, .tfrac, .regs, .tiles, .stk, .vil, .rst] fm = true) : FrameOut fm b0 (execBlockRelease b s) := by
  unfold execBlockRelease
  repeat' first
    | with_reducible assumption
    | exact Part.sub_trans (by decide) hfm
    | extract_lets +onlyGivenNames x
    | with_reducible apply FrameOut.next
    | with_reducible apply releaseBlock_frame
    | with_reducible apply elapseToTick_frame
    | with_reducible apply Frame.ite
    | split

theorem execDomainRelease_frame {fm : List Part} {b0 : State} (s : State)
    (hfr : Frame fm b0 s) (hfm : Part.sub [.cyc, .slot0, .tick, .tfrac, .regs, .tiles, .stk, .rst, .lsr] fm = true) : FrameOut fm b0 (execDomainRelease s) := by
  unfold execDomainRelease
  repeat' first
    | with_reducible assumption
    | exact Part.sub_trans (by decide) hfm
    | extract_lets +onlyGivenNames x
    | with_reducible apply FrameOut.next
    | with_reducible apply releaseOrder_frame
    | with_reducible apply elapseNs_frame
    | with_reducible apply Frame.ite

theorem execPreconditionTimeout_frame {fm : List Part} {b0 : State} (s : State)
    (hfr : Frame fm b0 s) (hfm : Part.sub [.regs] fm = true) : FrameOut fm b0 (execPreconditionTimeout s) := by
  unfold execPreconditionTimeout
  repeat' first
    | with_reducible assumption
    | extract_lets +onlyGivenNames x
    | with_reducible apply FrameOut.next
    | with_reducible apply faultBringup_frame
    | with_reducible apply Frame.ite

theorem execBringupStep_frame {fm : List Part} {b0 : State} (b : BringupIn) (s : State)
    (hfr : Frame fm b0 s) (hfm : Part.sub [.cyc, .tick, .tfrac, .regs, .tiles, .dram, .net, .reports, .stk, .vil, .fleet, .serve, .log, .pwr, .lsr] fm = true) : FrameOut fm b0 (execBringupStep b s) := by
  unfold execBringupStep
  repeat' first
    | with_reducible assumption
    | exact Part.sub_trans (by decide) hfm
    | with_reducible intro _
    | with_reducible apply FrameOut.next
    | with_reducible apply endStep_frame
    | with_reducible apply Frame.ite
    | split
    | extract_lets +onlyGivenNames x

theorem execDiodeRound_frame {fm : List Part} {b0 : State} (samples : List DiodeSample) (s : State)
    (hfr : Frame fm b0 s) (hfm : Part.sub [.slot0, .tick, .tfrac, .regs, .tiles, .dram, .net, .reports, .free, .stk, .vil, .fleet, .chr, .serve, .img, .log, .pwr, .rst, .bnc, .snd, .lsr] fm = true) : FrameOut fm b0 (execDiodeRound samples s) := by
  unfold execDiodeRound
  repeat' first
    | with_reducible assumption
    | exact Part.sub_trans (by decide) hfm
    | with_reducible intro _
    | extract_lets +onlyGivenNames x
    | with_reducible apply FrameOut.next
    | with_reducible apply endRound_frame
    | with_reducible apply takeDiode_frame
    | with_reducible apply Frame.foldl
    | with_reducible apply Frame.ite

theorem execDramTemperature_frame {fm : List Part} {b0 : State} (k : BitVec 3) (temp : Int) (s : State)
    (hfr : Frame fm b0 s) (hfm : Part.sub [.slot0, .tick, .tfrac, .regs, .tiles, .dram, .net, .reports, .free, .stk, .vil, .fleet, .chr, .serve, .img, .log, .pwr, .rst, .bnc, .lsr] fm = true) : FrameOut fm b0 (execDramTemperature k temp s) := by
  unfold execDramTemperature
  repeat' first
    | with_reducible assumption
    | exact Part.sub_trans (by decide) hfm
    | extract_lets +onlyGivenNames x
    | with_reducible apply FrameOut.next
    | with_reducible apply takeDramTemp_frame
    | with_reducible apply Frame.ite

theorem passGrace_frame {fm : List Part} {b0 : State} (s : State)
    (hfr : Frame fm b0 s) (hfm : Part.sub [.cyc, .tick, .tfrac] fm = true) : Frame fm b0 (passGrace s) := by
  unfold passGrace
  repeat' first
    | with_reducible assumption
    | exact Part.sub_trans (by decide) hfm
    | with_reducible intro _
    | with_reducible apply elapse_frame

theorem execGrace_frame {fm : List Part} {b0 : State} (s : State)
    (hfr : Frame fm b0 s) (hfm : Part.sub [.cyc, .tick, .tfrac, .regs] fm = true) : FrameOut fm b0 (execGrace s) := by
  unfold execGrace
  repeat' first
    | with_reducible assumption
    | exact Part.sub_trans (by decide) hfm
    | with_reducible intro _
    | (extract_lets +onlyGivenNames x; refine (fun hx => ?_ : (Frame fm b0 x) → _) ?_; (on_goal 2 => unfold x); all_goals clear_value x)
    | (extract_lets +onlyGivenNames x; refine (fun hx => ?_ : (Frame fm b0 x.1) → _) ?_; (on_goal 2 => unfold x); all_goals clear_value x)
    | (extract_lets +onlyGivenNames x; refine (fun hx => ?_ : (tileSafe x = true) → _) ?_; (on_goal 2 => unfold x); all_goals clear_value x)
    | (extract_lets +onlyGivenNames x; refine (fun hx => ?_ : (tileSafe x.1 = true) → _) ?_; (on_goal 2 => unfold x); all_goals clear_value x)
    | (extract_lets +onlyGivenNames x; refine (fun hx => ?_ : (FrameOpt fm b0 x) → _) ?_; (on_goal 2 => unfold x); all_goals clear_value x)
    | (extract_lets +onlyGivenNames x; refine (fun hx => ?_ : (Frame fm b0 x.st) → _) ?_; (on_goal 2 => unfold x); all_goals clear_value x)
    | extract_lets +onlyGivenNames x
    | with_reducible apply FrameOut.next
    | with_reducible apply passGrace_frame
    | with_reducible apply rput_frame
    | with_reducible apply rset_frame
    | with_reducible apply alert_frame
    | with_reducible apply rbump_frame
    | with_reducible apply Frame.ite
    | split

theorem writeHostq_frame {fm : List Part} {b0 : State} (s : State) (v : Nat)
    (hfr : Frame fm b0 s) (hfm : Part.sub [.regs, .bnc] fm = true) : Frame fm b0 (writeHostq s v) := by
  unfold writeHostq
  repeat' first
    | with_reducible assumption
    | exact Part.sub_trans (by decide) hfm
    | with_reducible intro _
    | (extract_lets +onlyGivenNames x; refine (fun hx => ?_ : (Frame fm b0 x) → _) ?_; (on_goal 2 => unfold x); all_goals clear_value x)
    | (extract_lets +onlyGivenNames x; refine (fun hx => ?_ : (Frame fm b0 x.1) → _) ?_; (on_goal 2 => unfold x); all_goals clear_value x)
    | (extract_lets +onlyGivenNames x; refine (fun hx => ?_ : (tileSafe x = true) → _) ?_; (on_goal 2 => unfold x); all_goals clear_value x)
    | (extract_lets +onlyGivenNames x; refine (fun hx => ?_ : (tileSafe x.1 = true) → _) ?_; (on_goal 2 => unfold x); all_goals clear_value x)
    | (extract_lets +onlyGivenNames x; refine (fun hx => ?_ : (FrameOpt fm b0 x) → _) ?_; (on_goal 2 => unfold x); all_goals clear_value x)
    | (extract_lets +onlyGivenNames x; refine (fun hx => ?_ : (Frame fm b0 x.st) → _) ?_; (on_goal 2 => unfold x); all_goals clear_value x)
    | extract_lets +onlyGivenNames x
    | with_reducible apply rput_frame
    | with_reducible apply decideThrottle_frame
    | with_reducible apply Frame.ite
    | split

theorem execHostq_frame {fm : List Part} {b0 : State} (v : BitVec 7) (s : State)
    (hfr : Frame fm b0 s) (hfm : Part.sub [.regs, .bnc] fm = true) : FrameOut fm b0 (execHostq v s) := by
  unfold execHostq
  repeat' first
    | with_reducible assumption
    | extract_lets +onlyGivenNames x
    | with_reducible apply FrameOut.next
    | with_reducible apply writeHostq_frame

theorem reply_frame {fm : List Part} {b0 : State} (s : State) (status : Nat) (data : Word)
    (hfr : Frame fm b0 s) (hfm : Part.sub [.bnc] fm = true) : Frame fm b0 (reply s status data) := by
  unfold reply
  repeat' first
    | with_reducible assumption
    | extract_lets +onlyGivenNames x
    | ((conv in State.mk _ _ _ _ _ _ _ _ _ _ _ _ _ _ _ _ _ _ _ _ _ _ _ _ _ => skip); with_reducible apply Frame.upd)
    | with_reducible exact .inr rfl
    | exact .inl (Part.sub_has _ hfm (by decide))

theorem replyBusy_frame {fm : List Part} {b0 : State} (s : State) (op : Byte)
    (hfr : Frame fm b0 s) (hfm : Part.sub [.regs, .free, .bnc] fm = true) : Frame fm b0 (replyBusy s op) := by
  unfold replyBusy
  repeat' first
    | with_reducible assumption
    | exact Part.sub_trans (by decide) hfm
    | extract_lets +onlyGivenNames x
    | with_reducible apply reply_frame
    | with_reducible apply rbump_frame
    | ((conv in State.mk _ _ _ _ _ _ _ _ _ _ _ _ _ _ _ _ _ _ _ _ _ _ _ _ _ => skip); with_reducible apply Frame.upd)
    | with_reducible exact .inr rfl
    | exact .inl (Part.sub_has _ hfm (by decide))

theorem bearing_frame {fm : List Part} {b0 : State} (s : State) (kept : Bool) (f : State → State) (hf : ∀ u, Frame fm b0 u → Frame fm b0 (f u))
    (hfr : Frame fm b0 s) (hfm : Part.sub [.regs, .free, .bnc] fm = true) : Frame fm b0 (bearing s kept f) := by
  unfold bearing
  repeat' first
    | with_reducible assumption
    | exact Part.sub_trans (by decide) hfm
    | extract_lets +onlyGivenNames x
    | with_reducible apply replyBusy_frame
    | with_reducible apply reply_frame
    | with_reducible apply Frame.ite
    | with_reducible apply hf
    | split

theorem execBearingReset_frame {fm : List Part} {b0 : State} (a : BearingArg) (s : State)
    (hfr : Frame fm b0 s) (hfm : Part.sub [.slot0, .tick, .tfrac, .regs, .tiles, .dram, .net, .reports, .free, .stk, .vil, .fleet, .chr, .serve, .img, .log, .pwr, .rst, .bnc, .snd, .lsr] fm = true) : FrameOut fm b0 (execBearingReset a s) := by
  unfold execBearingReset
  repeat' first
    | with_reducible assumption
    | exact Part.sub_trans (by decide) hfm
    | with_reducible intro _
    | extract_lets +onlyGivenNames x
    | with_reducible apply FrameOut.next
    | with_reducible apply bearing_frame
    | with_reducible apply reply_frame
    | with_reducible apply moduleReset_frame
    | with_reducible apply Frame.ite

theorem execBearingState_frame {fm : List Part} {b0 : State} (s : State)
    (hfr : Frame fm b0 s) (hfm : Part.sub [.regs, .free, .bnc] fm = true) : FrameOut fm b0 (execBearingState s) := by
  unfold execBearingState
  repeat' first
    | with_reducible assumption
    | exact Part.sub_trans (by decide) hfm
    | with_reducible intro _
    | extract_lets +onlyGivenNames x
    | with_reducible apply FrameOut.next
    | with_reducible apply bearing_frame
    | with_reducible apply reply_frame

theorem execLogread_frame {fm : List Part} {b0 : State} (a : BearingArg) (s : State)
    (hfr : Frame fm b0 s) (hfm : Part.sub [.regs, .free, .bnc] fm = true) : FrameOut fm b0 (execLogread a s) := by
  unfold execLogread
  repeat' first
    | with_reducible assumption
    | exact Part.sub_trans (by decide) hfm
    | with_reducible intro _
    | (extract_lets +onlyGivenNames x; refine (fun hx => ?_ : (Frame fm b0 x) → _) ?_; (on_goal 2 => unfold x); all_goals clear_value x)
    | (extract_lets +onlyGivenNames x; refine (fun hx => ?_ : (Frame fm b0 x.1) → _) ?_; (on_goal 2 => unfold x); all_goals clear_value x)
    | (extract_lets +onlyGivenNames x; refine (fun hx => ?_ : (tileSafe x = true) → _) ?_; (on_goal 2 => unfold x); all_goals clear_value x)
    | (extract_lets +onlyGivenNames x; refine (fun hx => ?_ : (tileSafe x.1 = true) → _) ?_; (on_goal 2 => unfold x); all_goals clear_value x)
    | (extract_lets +onlyGivenNames x; refine (fun hx => ?_ : (FrameOpt fm b0 x) → _) ?_; (on_goal 2 => unfold x); all_goals clear_value x)
    | (extract_lets +onlyGivenNames x; refine (fun hx => ?_ : (Frame fm b0 x.st) → _) ?_; (on_goal 2 => unfold x); all_goals clear_value x)
    | extract_lets +onlyGivenNames x
    | with_reducible apply FrameOut.next
    | with_reducible apply bearing_frame
    | with_reducible apply countFlits_frame
    | with_reducible apply reply_frame
    | (with_reducible refine Frame.ofPair ‹_ = (_, _)› ?_)
    | split
    | ((conv in State.mk _ _ _ _ _ _ _ _ _ _ _ _ _ _ _ _ _ _ _ _ _ _ _ _ _ => skip); with_reducible apply Frame.upd)
    | with_reducible exact .inr rfl
    | exact .inl (Part.sub_has _ hfm (by decide))
    | exact .inl ⟨Part.sub_has _ hfm (by decide), fun h => h⟩
    | exact .inl ⟨Part.sub_has _ hfm (by decide), fun h => by simpa only [List.length_set, List.length_map, List.length_zipIdx] using h⟩

theorem badRequest_frame {fm : List Part} {b0 : State} (s : State) (r : BearingReq)
    (hfr : Frame fm b0 s) (hfm : Part.sub [.regs, .free, .bnc] fm = true) : Frame fm b0 (badRequest s r) := by
  unfold badRequest
  repeat' first
    | with_reducible assumption
    | exact Part.sub_trans (by decide) hfm
    | extract_lets +onlyGivenNames x
    | with_reducible apply replyBusy_frame
    | with_reducible apply reply_frame
    | with_reducible apply rbump_frame
    | with_reducible apply Frame.ite
    | split

theorem execBearingRequestFormat_frame {fm : List Part} {b0 : State} (r : BearingReq) (s : State)
    (hfr : Frame fm b0 s) (hfm : Part.sub [.regs, .free, .bnc] fm = true) : FrameOut fm b0 (execBearingRequestFormat r s) := by
  unfold execBearingRequestFormat
  repeat' first
    | with_reducible assumption
    | extract_lets +onlyGivenNames x
    | with_reducible apply FrameOut.next
    | with_reducible apply badRequest_frame

theorem startLong_frame {fm : List Part} {b0 : State} (s : State) (op : Byte) (a : BearingArg) (out : Option Nat)
    (hfr : Frame fm b0 s) (hfm : Part.sub [.regs, .bnc] fm = true) : Frame fm b0 (startLong s op a out) := by
  unfold startLong
  repeat' first
    | with_reducible assumption
    | exact Part.sub_trans (by decide) hfm
    | (extract_lets +onlyGivenNames x; refine (fun hx => ?_ : (Frame fm b0 x) → _) ?_; (on_goal 2 => unfold x); all_goals clear_value x)
    | extract_lets +onlyGivenNames x
    | with_reducible apply reply_frame
    | with_reducible apply rset_frame
    | ((conv in State.mk _ _ _ _ _ _ _ _ _ _ _ _ _ _ _ _ _ _ _ _ _ _ _ _ _ => skip); with_reducible apply Frame.upd)
    | with_reducible exact .inr rfl
    | exact .inl (Part.sub_has _ hfm (by decide))

theorem startFuses_frame {fm : List Part} {b0 : State} (s : State) (op : Byte) (a : BearingArg) (q : State × Nat)
    (hs : Frame fm b0 s) (hfr : Frame fm b0 q.1) (hfm : Part.sub [.regs, .free, .bnc, .lsr] fm = true) : Frame fm b0 (startFuses s op a q) := by
  unfold startFuses
  repeat' first
    | with_reducible assumption
    | exact Part.sub_trans (by decide) hfm
    | with_reducible intro _
    | (extract_lets +onlyGivenNames x; refine (fun hx => ?_ : (Frame fm b0 x) → _) ?_; (on_goal 2 => unfold x); all_goals clear_value x)
    | (extract_lets +onlyGivenNames x; refine (fun hx => ?_ : (Frame fm b0 x.1) → _) ?_; (on_goal 2 => unfold x); all_goals clear_value x)
    | (extract_lets +onlyGivenNames x; refine (fun hx => ?_ : (tileSafe x = true) → _) ?_; (on_goal 2 => unfold x); all_goals clear_value x)
    | (extract_lets +onlyGivenNames x; refine (fun hx => ?_ : (tileSafe x.1 = true) → _) ?_; (on_goal 2 => unfold x); all_goals clear_value x)
    | (extract_lets +onlyGivenNames x; refine (fun hx => ?_ : (FrameOpt fm b0 x) → _) ?_; (on_goal 2 => unfold x); all_goals clear_value x)
    | (extract_lets +onlyGivenNames x; refine (fun hx => ?_ : (Frame fm b0 x.st) → _) ?_; (on_goal 2 => unfold x); all_goals clear_value x)
    | extract_lets +onlyGivenNames x
    | with_reducible apply replyBusy_frame
    | with_reducible apply rset_frame
    | with_reducible apply startLong_frame
    | with_reducible apply Frame.ite
    | split
    | ((conv in State.mk _ _ _ _ _ _ _ _ _ _ _ _ _ _ _ _ _ _ _ _ _ _ _ _ _ => skip); with_reducible apply Frame.upd)
    | with_reducible exact .inr rfl
    | exact .inl (Part.sub_has _ hfm (by decide))
    | exact .inl ⟨Part.sub_has _ hfm (by decide), fun h => h⟩
    | exact .inl ⟨Part.sub_has _ hfm (by decide), fun h => by simpa only [List.length_set, List.length_map, List.length_zipIdx] using h⟩

theorem execLifecycleAdvance_frame {fm : List Part} {b0 : State} (a : BearingArg) (s : State)
    (hfr : Frame fm b0 s) (hfm : Part.sub [.regs, .free, .bnc, .lsr] fm = true) : FrameOut fm b0 (execLifecycleAdvance a s) := by
  unfold execLifecycleAdvance
  repeat' first
    | with_reducible assumption
    | exact Part.sub_trans (by decide) hfm
    | with_reducible intro _
    | extract_lets +onlyGivenNames x
    | with_reducible apply FrameOut.next
    | with_reducible apply startFuses_frame
    | with_reducible apply bearing_frame
    | with_reducible apply reply_frame
    | with_reducible apply advanceLife_frame
    | with_reducible apply Frame.ite

theorem execFuseProgram_frame {fm : List Part} {b0 : State} (a : BearingArg) (s : State)
    (hfr : Frame fm b0 s) (hfm : Part.sub [.regs, .free, .bnc, .lsr] fm = true) : FrameOut fm b0 (execFuseProgram a s) := by
  unfold execFuseProgram
  repeat' first
    | with_reducible assumption
    | exact Part.sub_trans (by decide) hfm
    | with_reducible intro _
    | extract_lets +onlyGivenNames x
    | with_reducible apply FrameOut.next
    | with_reducible apply startFuses_frame
    | with_reducible apply bearing_frame
    | with_reducible apply reply_frame
    | with_reducible apply programSvn_frame
    | with_reducible apply programRepair_frame
    | with_reducible apply Frame.ite

theorem execDevtableCommit_frame {fm : List Part} {b0 : State} (a : BearingArg) (s : State)
    (hfr : Frame fm b0 s) (hfm : Part.sub [.regs, .free, .bnc] fm = true) : FrameOut fm b0 (execDevtableCommit a s) := by
  unfold execDevtableCommit
  repeat' first
    | with_reducible assumption
    | exact Part.sub_trans (by decide) hfm
    | with_reducible intro _
    | (extract_lets +onlyGivenNames x; refine (fun hx => ?_ : (Frame fm b0 x) → _) ?_; (on_goal 2 => unfold x); all_goals clear_value x)
    | (extract_lets +onlyGivenNames x; refine (fun hx => ?_ : (Frame fm b0 x.1) → _) ?_; (on_goal 2 => unfold x); all_goals clear_value x)
    | (extract_lets +onlyGivenNames x; refine (fun hx => ?_ : (tileSafe x = true) → _) ?_; (on_goal 2 => unfold x); all_goals clear_value x)
    | (extract_lets +onlyGivenNames x; refine (fun hx => ?_ : (tileSafe x.1 = true) → _) ?_; (on_goal 2 => unfold x); all_goals clear_value x)
    | (extract_lets +onlyGivenNames x; refine (fun hx => ?_ : (FrameOpt fm b0 x) → _) ?_; (on_goal 2 => unfold x); all_goals clear_value x)
    | (extract_lets +onlyGivenNames x; refine (fun hx => ?_ : (Frame fm b0 x.st) → _) ?_; (on_goal 2 => unfold x); all_goals clear_value x)
    | extract_lets +onlyGivenNames x
    | with_reducible apply FrameOut.next
    | with_reducible apply bearing_frame
    | with_reducible apply replyBusy_frame
    | with_reducible apply startLong_frame
    | with_reducible apply showMasked_frame
    | with_reducible apply reply_frame
    | with_reducible apply Frame.ite
    | split
    | ((conv in State.mk _ _ _ _ _ _ _ _ _ _ _ _ _ _ _ _ _ _ _ _ _ _ _ _ _ => skip); with_reducible apply Frame.upd)
    | with_reducible exact .inr rfl
    | exact .inl (Part.sub_has _ hfm (by decide))
    | exact .inl ⟨Part.sub_has _ hfm (by decide), fun h => h⟩
    | exact .inl ⟨Part.sub_has _ hfm (by decide), fun h => by simpa only [List.length_set, List.length_map, List.length_zipIdx] using h⟩

theorem execImageSlotSelect_frame {fm : List Part} {b0 : State} (a : BearingArg) (s : State)
    (hfr : Frame fm b0 s) (hfm : Part.sub [.regs, .free, .bnc] fm = true) : FrameOut fm b0 (execImageSlotSelect a s) := by
  unfold execImageSlotSelect
  repeat' first
    | with_reducible assumption
    | exact Part.sub_trans (by decide) hfm
    | with_reducible intro _
    | extract_lets +onlyGivenNames x
    | with_reducible apply FrameOut.next
    | with_reducible apply startLong_frame
    | with_reducible apply bearing_frame
    | with_reducible apply reply_frame
    | with_reducible apply Frame.ite

theorem endFuses_frame {fm : List Part} {b0 : State} (s : State) (code : Nat)
    (hfr : Frame fm b0 s) (hfm : Part.sub [.regs, .lsr] fm = true) : Frame fm b0 (endFuses s code).1 := by
  unfold endFuses
  repeat' first
    | with_reducible assumption
    | exact Part.sub_trans (by decide) hfm
    | with_reducible intro _
    | (extract_lets +onlyGivenNames x; refine (fun hx => ?_ : (Frame fm b0 x) → _) ?_; (on_goal 2 => unfold x); all_goals clear_value x)
    | (extract_lets +onlyGivenNames x; refine (fun hx => ?_ : (Frame fm b0 x.1) → _) ?_; (on_goal 2 => unfold x); all_goals clear_value x)
    | (extract_lets +onlyGivenNames x; refine (fun hx => ?_ : (tileSafe x = true) → _) ?_; (on_goal 2 => unfold x); all_goals clear_value x)
    | (extract_lets +onlyGivenNames x; refine (fun hx => ?_ : (tileSafe x.1 = true) → _) ?_; (on_goal 2 => unfold x); all_goals clear_value x)
    | (extract_lets +onlyGivenNames x; refine (fun hx => ?_ : (FrameOpt fm b0 x) → _) ?_; (on_goal 2 => unfold x); all_goals clear_value x)
    | (extract_lets +onlyGivenNames x; refine (fun hx => ?_ : (Frame fm b0 x.st) → _) ?_; (on_goal 2 => unfold x); all_goals clear_value x)
    | extract_lets +onlyGivenNames x
    | with_reducible apply lsrResult_frame
    | with_reducible apply rput_frame
    | with_reducible apply Frame.ite
    | split
    | ((conv in State.mk _ _ _ _ _ _ _ _ _ _ _ _ _ _ _ _ _ _ _ _ _ _ _ _ _ => skip); with_reducible apply Frame.upd)
    | with_reducible exact .inr rfl
    | exact .inl (Part.sub_has _ hfm (by decide))
    | exact .inl ⟨Part.sub_has _ hfm (by decide), fun h => h⟩
    | exact .inl ⟨Part.sub_has _ hfm (by decide), fun h => by simpa only [List.length_set, List.length_map, List.length_zipIdx] using h⟩

theorem endCommit_frame {fm : List Part} {b0 : State} (s : State) (code : Nat)
    (hfr : Frame fm b0 s) (hfm : Part.sub [.regs, .free, .stk, .log, .bnc] fm = true) : Frame fm b0 (endCommit s code).1 := by
  unfold endCommit
  repeat' first
    | with_reducible assumption
    | exact Part.sub_trans (by decide) hfm
    | with_reducible intro _
    | (extract_lets +onlyGivenNames x; refine (fun hx => ?_ : (Frame fm b0 x) → _) ?_; (on_goal 2 => unfold x); all_goals clear_value x)
    | (extract_lets +onlyGivenNames x; refine (fun hx => ?_ : (Frame fm b0 x.1) → _) ?_; (on_goal 2 => unfold x); all_goals clear_value x)
    | (extract_lets +onlyGivenNames x; refine (fun hx => ?_ : (tileSafe x = true) → _) ?_; (on_goal 2 => unfold x); all_goals clear_value x)
    | (extract_lets +onlyGivenNames x; refine (fun hx => ?_ : (tileSafe x.1 = true) → _) ?_; (on_goal 2 => unfold x); all_goals clear_value x)
    | (extract_lets +onlyGivenNames x; refine (fun hx => ?_ : (FrameOpt fm b0 x) → _) ?_; (on_goal 2 => unfold x); all_goals clear_value x)
    | (extract_lets +onlyGivenNames x; refine (fun hx => ?_ : (Frame fm b0 x.st) → _) ?_; (on_goal 2 => unfold x); all_goals clear_value x)
    | extract_lets +onlyGivenNames x
    | with_reducible apply endMasks_frame
    | with_reducible apply Frame.ite
    | split
    | ((conv in State.mk _ _ _ _ _ _ _ _ _ _ _ _ _ _ _ _ _ _ _ _ _ _ _ _ _ => skip); with_reducible apply Frame.upd)
    | with_reducible exact .inr rfl
    | exact .inl (Part.sub_has _ hfm (by decide))
    | exact .inl ⟨Part.sub_has _ hfm (by decide), fun h => h⟩
    | exact .inl ⟨Part.sub_has _ hfm (by decide), fun h => by simpa only [List.length_set, List.length_map, List.length_zipIdx] using h⟩

theorem endSelect_frame {fm : List Part} {b0 : State} (s : State) (addr : BitVec 24) (data : Word) (code : Nat)
    (hfr : Frame fm b0 s) (hfm : Part.sub [.img] fm = true) : Frame fm b0 (endSelect s addr data code).1 := by
  unfold endSelect
  repeat' first
    | with_reducible assumption
    | extract_lets +onlyGivenNames x
    | with_reducible apply activateSlot_frame
    | split

theorem finishLong_frame {fm : List Part} {b0 : State} (s : State) (op : Byte) (addr : BitVec 24) (data : Word) (code : Nat)
    (hfr : Frame fm b0 s) (hfm : Part.sub [.regs, .free, .stk, .img, .log, .bnc, .lsr] fm = true) : Frame fm b0 (finishLong s op addr data code).1 := by
  unfold finishLong
  repeat' first
    | with_reducible assumption
    | exact Part.sub_trans (by decide) hfm
    | with_reducible intro _
    | (extract_lets +onlyGivenNames x; refine (fun hx => ?_ : (Frame fm b0 x) → _) ?_; (on_goal 2 => unfold x); all_goals clear_value x)
    | (extract_lets +onlyGivenNames x; refine (fun hx => ?_ : (Frame fm b0 x.1) → _) ?_; (on_goal 2 => unfold x); all_goals clear_value x)
    | (extract_lets +onlyGivenNames x; refine (fun hx => ?_ : (tileSafe x = true) → _) ?_; (on_goal 2 => unfold x); all_goals clear_value x)
    | (extract_lets +onlyGivenNames x; refine (fun hx => ?_ : (tileSafe x.1 = true) → _) ?_; (on_goal 2 => unfold x); all_goals clear_value x)
    | (extract_lets +onlyGivenNames x; refine (fun hx => ?_ : (FrameOpt fm b0 x) → _) ?_; (on_goal 2 => unfold x); all_goals clear_value x)
    | (extract_lets +onlyGivenNames x; refine (fun hx => ?_ : (Frame fm b0 x.st) → _) ?_; (on_goal 2 => unfold x); all_goals clear_value x)
    | extract_lets +onlyGivenNames x
    | with_reducible apply endFuses_frame
    | with_reducible apply drawNonce_frame
    | with_reducible apply endCommit_frame
    | with_reducible apply endSelect_frame
    | with_reducible apply Frame.ite
    | split

theorem execLongdone_frame {fm : List Part} {b0 : State} (code : Byte) (s : State)
    (hfr : Frame fm b0 s) (hfm : Part.sub [.regs, .free, .stk, .img, .log, .bnc, .lsr] fm = true) : FrameOut fm b0 (execLongdone code s) := by
  unfold execLongdone
  repeat' first
    | with_reducible assumption
    | exact Part.sub_trans (by decide) hfm
    | with_reducible intro _
    | (extract_lets +onlyGivenNames x; refine (fun hx => ?_ : (Frame fm b0 x) → _) ?_; (on_goal 2 => unfold x); all_goals clear_value x)
    | (extract_lets +onlyGivenNames x; refine (fun hx => ?_ : (Frame fm b0 x.1) → _) ?_; (on_goal 2 => unfold x); all_goals clear_value x)
    | (extract_lets +onlyGivenNames x; refine (fun hx => ?_ : (tileSafe x = true) → _) ?_; (on_goal 2 => unfold x); all_goals clear_value x)
    | (extract_lets +onlyGivenNames x; refine (fun hx => ?_ : (tileSafe x.1 = true) → _) ?_; (on_goal 2 => unfold x); all_goals clear_value x)
    | (extract_lets +onlyGivenNames x; refine (fun hx => ?_ : (FrameOpt fm b0 x) → _) ?_; (on_goal 2 => unfold x); all_goals clear_value x)
    | (extract_lets +onlyGivenNames x; refine (fun hx => ?_ : (Frame fm b0 x.st) → _) ?_; (on_goal 2 => unfold x); all_goals clear_value x)
    | extract_lets +onlyGivenNames x
    | with_reducible apply FrameOut.next
    | with_reducible apply endAutoCommit_frame
    | with_reducible apply finishLong_frame
    | with_reducible apply rput_frame
    | with_reducible apply alert_frame
    | with_reducible apply showCommit_frame
    | with_reducible apply Frame.ite
    | (with_reducible refine Frame.ofPair ‹_ = (_, _)› ?_)
    | split
    | ((conv in State.mk _ _ _ _ _ _ _ _ _ _ _ _ _ _ _ _ _ _ _ _ _ _ _ _ _ => skip); with_reducible apply Frame.upd)
    | with_reducible exact .inr rfl
    | exact .inl (Part.sub_has _ hfm (by decide))
    | exact .inl ⟨Part.sub_has _ hfm (by decide), fun h => h⟩
    | exact .inl ⟨Part.sub_has _ hfm (by decide), fun h => by simpa only [List.length_set, List.length_map, List.length_zipIdx] using h⟩

theorem execLongOverrun_frame {fm : List Part} {b0 : State} (s : State)
    (hfr : Frame fm b0 s) (hfm : Part.sub [.slot0, .tick, .tfrac, .regs, .tiles, .dram, .net, .reports, .free, .stk, .vil, .fleet, .chr, .serve, .img, .log, .pwr, .rst, .bnc, .snd, .lsr] fm = true) : FrameOut fm b0 (execLongOverrun s) := by
  unfold execLongOverrun
  repeat' first
    | with_reducible assumption
    | exact Part.sub_trans (by decide) hfm
    | with_reducible intro _
    | with_reducible apply FrameOut.next
    | with_reducible apply moduleReset_frame
    | with_reducible apply Frame.ite
    | split
    | extract_lets +onlyGivenNames x

theorem execLogBucketBoundary_frame {fm : List Part} {b0 : State} (kind : BitVec 4) (s : State)
    (hfr : Frame fm b0 s) (hfm : Part.sub [.log] fm = true) : FrameOut fm b0 (execLogBucketBoundary kind s) := by
  unfold execLogBucketBoundary
  repeat' first
    | with_reducible assumption
    | exact Part.sub_trans (by decide) hfm
    | with_reducible intro _
    | with_reducible apply FrameOut.next
    | with_reducible apply Frame.ite
    | split
    | ((conv in State.mk _ _ _ _ _ _ _ _ _ _ _ _ _ _ _ _ _ _ _ _ _ _ _ _ _ => skip); with_reducible apply Frame.upd)
    | with_reducible exact .inr rfl
    | exact .inl (Part.sub_has _ hfm (by decide))
    | exact .inl ⟨Part.sub_has _ hfm (by decide), fun h => h⟩
    | exact .inl ⟨Part.sub_has _ hfm (by decide), fun h => by simpa only [List.length_set, List.length_map, List.length_zipIdx] using h⟩
    | extract_lets +onlyGivenNames x

theorem execBinnacleEccHalt_frame {fm : List Part} {b0 : State} (s : State)
    (hfr : Frame fm b0 s) (hfm : Part.sub [.bnc] fm = true) : FrameOut fm b0 (execBinnacleEccHalt s) := by
  unfold execBinnacleEccHalt
  repeat' first
    | with_reducible assumption
    | extract_lets +onlyGivenNames x
    | with_reducible apply FrameOut.next
    | ((conv in State.mk _ _ _ _ _ _ _ _ _ _ _ _ _ _ _ _ _ _ _ _ _ _ _ _ _ => skip); with_reducible apply Frame.upd)
    | with_reducible exact .inr rfl
    | exact .inl (Part.sub_has _ hfm (by decide))

theorem readReg_frame {fm : List Part} {b0 : State} (s : State) (k off : Nat)
    (hfr : Frame fm b0 s) (hfm : Part.sub [.regs, .free, .stk, .chr, .log, .bnc] fm = true) : Frame fm b0 (readReg s k off).1 := by
  unfold readReg
  repeat' first
    | with_reducible assumption
    | exact Part.sub_trans (by decide) hfm
    | with_reducible intro _
    | (extract_lets +onlyGivenNames x; refine (fun hx => ?_ : (Frame fm b0 x) → _) ?_; (on_goal 2 => unfold x); all_goals clear_value x)
    | (extract_lets +onlyGivenNames x; refine (fun hx => ?_ : (Frame fm b0 x.1) → _) ?_; (on_goal 2 => unfold x); all_goals clear_value x)
    | (extract_lets +onlyGivenNames x; refine (fun hx => ?_ : (tileSafe x = true) → _) ?_; (on_goal 2 => unfold x); all_goals clear_value x)
    | (extract_lets +onlyGivenNames x; refine (fun hx => ?_ : (tileSafe x.1 = true) → _) ?_; (on_goal 2 => unfold x); all_goals clear_value x)
    | (extract_lets +onlyGivenNames x; refine (fun hx => ?_ : (FrameOpt fm b0 x) → _) ?_; (on_goal 2 => unfold x); all_goals clear_value x)
    | (extract_lets +onlyGivenNames x; refine (fun hx => ?_ : (Frame fm b0 x.st) → _) ?_; (on_goal 2 => unfold x); all_goals clear_value x)
    | extract_lets +onlyGivenNames x
    | with_reducible apply passMasked_frame
    | with_reducible apply Frame.ite
    | split
    | ((conv in State.mk _ _ _ _ _ _ _ _ _ _ _ _ _ _ _ _ _ _ _ _ _ _ _ _ _ => skip); with_reducible apply Frame.upd)
    | with_reducible exact .inr rfl
    | exact .inl (Part.sub_has _ hfm (by decide))
    | exact .inl ⟨Part.sub_has _ hfm (by decide), fun h => h⟩
    | exact .inl ⟨Part.sub_has _ hfm (by decide), fun h => by simpa only [List.length_set, List.length_map, List.length_zipIdx] using h⟩

theorem storeReg_frame {fm : List Part} {b0 : State} (s : State) (src : Source) (k off : Nat) (v : Word) (but : List Fld)
    (hfr : Frame fm b0 s) (hfm : Part.sub [.regs] fm = true) : Frame fm b0 (storeReg s src k off v but) := by
  unfold storeReg
  repeat' first
    | with_reducible assumption
    | with_reducible apply setRword_frame

theorem writeStk_frame {fm : List Part} {b0 : State} (s : State) (src : Source) (k off : Nat) (v : Word)
    (hfr : Frame fm b0 s) (hfm : Part.sub [.regs] fm = true) : Frame fm b0 (writeStk s src k off v) := by
  unfold writeStk
  repeat' first
    | with_reducible assumption
    | (extract_lets +onlyGivenNames x; refine (fun hx => ?_ : (Frame fm b0 x) → _) ?_; (on_goal 2 => unfold x); all_goals clear_value x)
    | extract_lets +onlyGivenNames x
    | with_reducible apply storeReg_frame
    | with_reducible apply setRword_frame
    | with_reducible apply Frame.ite

theorem writeSxt_frame {fm : List Part} {b0 : State} (s : State) (src : Source) (k off : Nat) (v : Word)
    (hfr : Frame fm b0 s) (hfm : Part.sub [.regs, .tiles, .stk, .pwr] fm = true) : Frame fm b0 (writeSxt s src k off v) := by
  unfold writeSxt
  repeat' first
    | with_reducible assumption
    | exact Part.sub_trans (by decide) hfm
    | (extract_lets +onlyGivenNames x; refine (fun hx => ?_ : (Frame fm b0 x) → _) ?_; (on_goal 2 => unfold x); all_goals clear_value x)
    | extract_lets +onlyGivenNames x
    | with_reducible apply storeReg_frame
    | with_reducible apply writeFixReq_frame
    | with_reducible apply startPass_frame
    | with_reducible apply showSextant_frame
    | with_reducible apply Frame.ite

theorem writeCht_frame {fm : List Part} {b0 : State} (s : State) (src : Source) (k off : Nat) (v : Word)
    (hfr : Frame fm b0 s) (hfm : Part.sub [.regs, .stk] fm = true) : Frame fm b0 (writeCht s src k off v) := by
  unfold writeCht
  repeat' first
    | with_reducible assumption
    | exact Part.sub_trans (by decide) hfm
    | (extract_lets +onlyGivenNames x; refine (fun hx => ?_ : (Frame fm b0 x) → _) ?_; (on_goal 2 => unfold x); all_goals clear_value x)
    | extract_lets +onlyGivenNames x
    | with_reducible apply storeReg_frame
    | with_reducible apply invalidateCache_frame
    | with_reducible apply writeChtEn_frame
    | with_reducible apply Frame.ite

theorem writeHlm_frame {fm : List Part} {b0 : State} (s : State) (src : Source) (k off : Nat) (v : Word)
    (hfr : Frame fm b0 s) (hfm : Part.sub [.cyc, .tick, .tfrac, .regs, .tiles, .net, .reports, .stk, .vil, .serve, .log, .pwr] fm = true) : Frame fm b0 (writeHlm s src k off v) := by
  unfold writeHlm
  repeat' first
    | with_reducible assumption
    | exact Part.sub_trans (by decide) hfm
    | with_reducible intro _
    | with_reducible apply hearVersion_frame
    | with_reducible apply writeHelmEn_frame
    | with_reducible apply storeReg_frame
    | with_reducible apply Frame.ite
    | (with_reducible refine Frame.ofPair ‹_ = (_, _)› ?_)
    | split
    | ((conv in State.mk _ _ _ _ _ _ _ _ _ _ _ _ _ _ _ _ _ _ _ _ _ _ _ _ _ => skip); with_reducible apply Frame.upd)
    | with_reducible exact .inr rfl
    | exact .inl (Part.sub_has _ hfm (by decide))
    | exact .inl ⟨Part.sub_has _ hfm (by decide), fun h => h⟩
    | exact .inl ⟨Part.sub_has _ hfm (by decide), fun h => by simpa only [List.length_set, List.length_map, List.length_zipIdx] using h⟩
    | extract_lets +onlyGivenNames x

theorem writeChr_frame {fm : List Part} {b0 : State} (s : State) (src : Source) (k off : Nat) (v : Word)
    (hfr : Frame fm b0 s) (hfm : Part.sub [.regs, .stk, .chr, .serve] fm = true) : Frame fm b0 (writeChr s src k off v) := by
  unfold writeChr
  repeat' first
    | with_reducible assumption
    | exact Part.sub_trans (by decide) hfm
    | (extract_lets +onlyGivenNames x; refine (fun hx => ?_ : (Frame fm b0 x) → _) ?_; (on_goal 2 => unfold x); all_goals clear_value x)
    | extract_lets +onlyGivenNames x
    | with_reducible apply storeReg_frame
    | with_reducible apply writeArm_frame
    | with_reducible apply arriveOffer_frame
    | with_reducible apply holdRecord_frame
    | with_reducible apply Frame.ite

theorem writePll_frame {fm : List Part} {b0 : State} (s : State) (src : Source) (k i : Nat) (v : Word)
    (hfr : Frame fm b0 s) (hfm : Part.sub [.regs] fm = true) : Frame fm b0 (writePll s src k i v) := by
  unfold writePll
  repeat' first
    | with_reducible assumption
    | (extract_lets +onlyGivenNames x; refine (fun hx => ?_ : (Frame fm b0 x) → _) ?_; (on_goal 2 => unfold x); all_goals clear_value x)
    | extract_lets +onlyGivenNames x
    | with_reducible apply storeReg_frame
    | with_reducible apply rput_frame
    | with_reducible apply Frame.ite

theorem writeSpw_frame {fm : List Part} {b0 : State} (s : State) (src : Source) (k off : Nat) (v : Word)
    (hfr : Frame fm b0 s) (hfm : Part.sub [.regs, .tiles, .dram, .stk, .pwr] fm = true) : Frame fm b0 (writeSpw s src k off v) := by
  unfold writeSpw
  repeat' first
    | with_reducible assumption
    | exact Part.sub_trans (by decide) hfm
    | with_reducible intro _
    | (extract_lets +onlyGivenNames x; refine (fun hx => ?_ : (Frame fm b0 x) → _) ?_; (on_goal 2 => unfold x); all_goals clear_value x)
    | extract_lets +onlyGivenNames x
    | with_reducible apply writePll_frame
    | with_reducible apply storeReg_frame
    | with_reducible apply startMeasure_frame
    | with_reducible apply startSwitch_frame
    | with_reducible apply writeStackOn_frame
    | with_reducible apply Frame.foldl
    | with_reducible apply Frame.ite

theorem leaveFleet_frame {fm : List Part} {b0 : State} (s : State)
    (hfr : Frame fm b0 s) (hfm : Part.sub [.regs] fm = true) : Frame fm b0 (leaveFleet s) := by
  unfold leaveFleet
  repeat' first
    | with_reducible assumption
    | exact Part.sub_trans (by decide) hfm
    | with_reducible intro _
    | with_reducible apply rput_frame
    | with_reducible apply Frame.ite
    | split

theorem writeFlt_frame {fm : List Part} {b0 : State} (s : State) (src : Source) (k off : Nat) (v : Word)
    (hfr : Frame fm b0 s) (hfm : Part.sub [.regs, .net, .fleet] fm = true) : Frame fm b0 (writeFlt s src k off v) := by
  unfold writeFlt
  repeat' first
    | with_reducible assumption
    | exact Part.sub_trans (by decide) hfm
    | with_reducible intro _
    | (extract_lets +onlyGivenNames x; refine (fun hx => ?_ : (Frame fm b0 x) → _) ?_; (on_goal 2 => unfold x); all_goals clear_value x)
    | (extract_lets +onlyGivenNames x; refine (fun hx => ?_ : (Frame fm b0 x.1) → _) ?_; (on_goal 2 => unfold x); all_goals clear_value x)
    | (extract_lets +onlyGivenNames x; refine (fun hx => ?_ : (tileSafe x = true) → _) ?_; (on_goal 2 => unfold x); all_goals clear_value x)
    | (extract_lets +onlyGivenNames x; refine (fun hx => ?_ : (tileSafe x.1 = true) → _) ?_; (on_goal 2 => unfold x); all_goals clear_value x)
    | (extract_lets +onlyGivenNames x; refine (fun hx => ?_ : (FrameOpt fm b0 x) → _) ?_; (on_goal 2 => unfold x); all_goals clear_value x)
    | (extract_lets +onlyGivenNames x; refine (fun hx => ?_ : (Frame fm b0 x.st) → _) ?_; (on_goal 2 => unfold x); all_goals clear_value x)
    | extract_lets +onlyGivenNames x
    | with_reducible apply leaveFleet_frame
    | with_reducible apply storeReg_frame
    | with_reducible apply writeDiscover_frame
    | with_reducible apply writeCommit_frame
    | with_reducible apply endTraining_frame
    | with_reducible apply writePortEn_frame
    | with_reducible apply Frame.ite
    | (with_reducible refine Frame.ofPair ‹_ = (_, _)› ?_)
    | split
    | ((conv in State.mk _ _ _ _ _ _ _ _ _ _ _ _ _ _ _ _ _ _ _ _ _ _ _ _ _ => skip); with_reducible apply Frame.upd)
    | with_reducible exact .inr rfl
    | exact .inl (Part.sub_has _ hfm (by decide))
    | exact .inl ⟨Part.sub_has _ hfm (by decide), fun h => h⟩
    | exact .inl ⟨Part.sub_has _ hfm (by decide), fun h => by simpa only [List.length_set, List.length_map, List.length_zipIdx] using h⟩

theorem writeLnk_frame {fm : List Part} {b0 : State} (s : State) (src : Source) (k off : Nat) (v : Word)
    (hfr : Frame fm b0 s) (hfm : Part.sub [.regs, .vil] fm = true) : Frame fm b0 (writeLnk s src k off v) := by
  unfold writeLnk
  repeat' first
    | with_reducible assumption
    | exact Part.sub_trans (by decide) hfm
    | with_reducible intro _
    | (extract_lets +onlyGivenNames x; refine (fun hx => ?_ : (Frame fm b0 x) → _) ?_; (on_goal 2 => unfold x); all_goals clear_value x)
    | (extract_lets +onlyGivenNames x; refine (fun hx => ?_ : (Frame fm b0 x.1) → _) ?_; (on_goal 2 => unfold x); all_goals clear_value x)
    | (extract_lets +onlyGivenNames x; refine (fun hx => ?_ : (tileSafe x = true) → _) ?_; (on_goal 2 => unfold x); all_goals clear_value x)
    | (extract_lets +onlyGivenNames x; refine (fun hx => ?_ : (tileSafe x.1 = true) → _) ?_; (on_goal 2 => unfold x); all_goals clear_value x)
    | (extract_lets +onlyGivenNames x; refine (fun hx => ?_ : (FrameOpt fm b0 x) → _) ?_; (on_goal 2 => unfold x); all_goals clear_value x)
    | (extract_lets +onlyGivenNames x; refine (fun hx => ?_ : (Frame fm b0 x.st) → _) ?_; (on_goal 2 => unfold x); all_goals clear_value x)
    | extract_lets +onlyGivenNames x
    | with_reducible apply storeReg_frame
    | with_reducible apply writeLnkEn_frame
    | with_reducible apply startRetrain_frame
    | with_reducible apply Frame.ite
    | split

theorem writeBnc_frame {fm : List Part} {b0 : State} (s : State) (src : Source) (off : Nat) (v : Word)
    (hfr : Frame fm b0 s) (hfm : Part.sub [.slot0, .tick, .tfrac, .regs, .tiles, .dram, .net, .reports, .free, .stk, .vil, .fleet, .chr, .serve, .img, .log, .pwr, .rst, .bnc, .snd, .lsr] fm = true) : Frame fm b0 (writeBnc s src off v) := by
  unfold writeBnc
  repeat' first
    | with_reducible assumption
    | exact Part.sub_trans (by decide) hfm
    | (extract_lets +onlyGivenNames x; refine (fun hx => ?_ : (Frame fm b0 x) → _) ?_; (on_goal 2 => unfold x); all_goals clear_value x)
    | extract_lets +onlyGivenNames x
    | with_reducible apply storeReg_frame
    | with_reducible apply writeHostq_frame
    | with_reducible apply writeBrst_frame
    | with_reducible apply writeFltrst_frame
    | with_reducible apply Frame.ite

theorem writeSnd_frame {fm : List Part} {b0 : State} (s : State) (src : Source) (off : Nat) (v : Word)
    (hfr : Frame fm b0 s) (hfm : Part.sub [.regs, .snd] fm = true) : Frame fm b0 (writeSnd s src off v) := by
  unfold writeSnd
  repeat' first
    | with_reducible assumption
    | exact Part.sub_trans (by decide) hfm
    | (extract_lets +onlyGivenNames x; refine (fun hx => ?_ : (Frame fm b0 x) → _) ?_; (on_goal 2 => unfold x); all_goals clear_value x)
    | extract_lets +onlyGivenNames x
    | with_reducible apply storeReg_frame
    | with_reducible apply writeRefbuf_frame
    | with_reducible apply writeChsel_frame
    | with_reducible apply Frame.ite

theorem writeLsrCtl_frame {fm : List Part} {b0 : State} (s : State) (v : Word)
    (hfr : Frame fm b0 s) (hfm : Part.sub [.regs, .vil, .lsr] fm = true) : Frame fm b0 (writeLsrCtl s v) := by
  unfold writeLsrCtl
  repeat' first
    | with_reducible assumption
    | exact Part.sub_trans (by decide) hfm
    | with_reducible intro _
    | extract_lets +onlyGivenNames x
    | with_reducible apply startLoad_frame
    | with_reducible apply lsrAction_frame
    | with_reducible apply zeroise_frame
    | with_reducible apply testRequest_frame
    | with_reducible apply attest_frame
    | with_reducible apply Frame.ite

theorem writeMpw_frame {fm : List Part} {b0 : State} (s : State) (src : Source) (off : Nat) (v : Word)
    (hfr : Frame fm b0 s) (hfm : Part.sub [.slot0, .tick, .tfrac, .regs, .tiles, .dram, .net, .reports, .free, .stk, .vil, .fleet, .chr, .serve, .img, .log, .pwr, .rst, .bnc, .lsr] fm = true) : Frame fm b0 (writeMpw s src off v) := by
  unfold writeMpw
  repeat' first
    | with_reducible assumption
    | exact Part.sub_trans (by decide) hfm
    | (extract_lets +onlyGivenNames x; refine (fun hx => ?_ : (Frame fm b0 x) → _) ?_; (on_goal 2 => unfold x); all_goals clear_value x)
    | extract_lets +onlyGivenNames x
    | with_reducible apply storeReg_frame
    | with_reducible apply startMeasure_frame
    | with_reducible apply writeMainEn_frame
    | with_reducible apply Frame.ite

theorem writeReg_frame {fm : List Part} {b0 : State} (s : State) (src : Source) (k off : Nat) (v : Word)
    (hfr : Frame fm b0 s) (hfm : Part.sub [.cyc, .slot0, .tick, .tfrac, .regs, .tiles, .dram, .net, .reports, .free, .stk, .vil, .fleet, .chr, .serve, .img, .log, .pwr, .rst, .bnc, .snd, .lsr] fm = true) : Frame fm b0 (writeReg s src k off v) := by
  unfold writeReg
  repeat' first
    | with_reducible assumption
    | exact Part.sub_trans (by decide) hfm
    | extract_lets +onlyGivenNames x
    | with_reducible apply writeMpw_frame
    | with_reducible apply writeLsrCtl_frame
    | with_reducible apply writeSnd_frame
    | with_reducible apply writeBnc_frame
    | with_reducible apply writeLnk_frame
    | with_reducible apply writeFlt_frame
    | with_reducible apply writeSpw_frame
    | with_reducible apply writeChr_frame
    | with_reducible apply writeHlm_frame
    | with_reducible apply writeCht_frame
    | with_reducible apply writeSxt_frame
    | with_reducible apply writeStk_frame
    | with_reducible apply storeReg_frame
    | with_reducible apply Frame.ite
    | split

theorem writeTilCtl_frame {fm : List Part} {b0 : State} (s : State) (r : TileRef) (v : Word)
    (hfr : Frame fm b0 s) (hfm : Part.sub [.cyc, .tick, .tfrac, .regs, .tiles, .dram, .net, .reports, .free, .stk, .vil, .fleet, .log, .pwr, .rst, .bnc] fm = true) : Frame fm b0 (writeTilCtl s r v) := by
  unfold writeTilCtl
  repeat' first
    | with_reducible assumption
    | exact Part.sub_trans (by decide) hfm
    | with_reducible intro _
    | (extract_lets +onlyGivenNames x; refine (fun hx => ?_ : (Frame fm b0 x) → _) ?_; (on_goal 2 => unfold x); all_goals clear_value x)
    | extract_lets +onlyGivenNames x
    | with_reducible apply writeSrst_frame
    | with_reducible apply writeWdogLock_frame
    | with_reducible apply writeFence_frame
    | with_reducible apply writeRun_frame
    | with_reducible apply changeTile_frame
    | with_reducible apply Frame.ite
    | with_reducible apply tput_safe

theorem writeTileReg_frame {fm : List Part} {b0 : State} (s : State) (r : TileRef) (off : Nat) (v : Word)
    (hfr : Frame fm b0 s) (hfm : Part.sub [.cyc, .tick, .tfrac, .regs, .tiles, .dram, .net, .reports, .free, .stk, .vil, .fleet, .log, .pwr, .rst, .bnc] fm = true) : Frame fm b0 (writeTileReg s r off v) := by
  unfold writeTileReg
  repeat' first
    | with_reducible assumption
    | exact Part.sub_trans (by decide) hfm
    | with_reducible intro _
    | extract_lets +onlyGivenNames x
    | with_reducible apply writeTilCtl_frame
    | with_reducible apply changeTile_frame
    | with_reducible apply Frame.ite
    | with_reducible apply writeTileWord_safe

theorem accessReg2_frame {fm : List Part} {b0 : State} (s : State) (src : Source) (k off : Nat) (wide : Bool) (write : Option Dword)
    (hfr : Frame fm b0 s) (hfm : Part.sub [.cyc, .slot0, .tick, .tfrac, .regs, .tiles, .dram, .net, .reports, .free, .stk, .vil, .fleet, .chr, .serve, .img, .log, .pwr, .rst, .bnc, .snd, .lsr] fm = true) : Frame fm b0 (accessReg2 s src k off wide write).1 := by
  unfold accessReg2
  repeat' first
    | with_reducible assumption
    | exact Part.sub_trans (by decide) hfm
    | (extract_lets +onlyGivenNames x; refine (fun hx => ?_ : (Frame fm b0 x) → _) ?_; (on_goal 2 => unfold x); all_goals clear_value x)
    | (extract_lets +onlyGivenNames x; refine (fun hx => ?_ : (Frame fm b0 x.1) → _) ?_; (on_goal 2 => unfold x); all_goals clear_value x)
    | with_reducible apply writeReg_frame
    | with_reducible apply readReg_frame
    | split

theorem accessTile_frame {fm : List Part} {b0 : State} (s : State) (src : Source) (r : TileRef) (off : Nat) (wide : Bool) (write : Option Dword)
    (hfr : Frame fm b0 s) (hfm : Part.sub [.cyc, .tick, .tfrac, .regs, .tiles, .dram, .net, .reports, .free, .stk, .vil, .fleet, .log, .pwr, .rst, .bnc] fm = true) : Frame fm b0 (accessTile s src r off wide write).1 := by
  unfold accessTile
  repeat' first
    | with_reducible assumption
    | exact Part.sub_trans (by decide) hfm
    | with_reducible intro _
    | (extract_lets +onlyGivenNames x; refine (fun hx => ?_ : (Frame fm b0 x) → _) ?_; (on_goal 2 => unfold x); all_goals clear_value x)
    | (extract_lets +onlyGivenNames x; refine (fun hx => ?_ : (Frame fm b0 x.1) → _) ?_; (on_goal 2 => unfold x); all_goals clear_value x)
    | (extract_lets +onlyGivenNames x; refine (fun hx => ?_ : (SafeParts b0 → tileSafe x = true) → _) ?_; (on_goal 2 => unfold x); all_goals clear_value x)
    | (extract_lets +onlyGivenNames x; refine (fun hx => ?_ : (SafeParts b0 → tileSafe x.1 = true) → _) ?_; (on_goal 2 => unfold x); all_goals clear_value x)
    | (extract_lets +onlyGivenNames x; refine (fun hx => ?_ : (FrameOpt fm b0 x) → _) ?_; (on_goal 2 => unfold x); all_goals clear_value x)
    | (extract_lets +onlyGivenNames x; refine (fun hx => ?_ : (Frame fm b0 x.st) → _) ?_; (on_goal 2 => unfold x); all_goals clear_value x)
    | extract_lets +onlyGivenNames x
    | with_reducible apply writeTileReg_frame
    | with_reducible apply changeSite_frame
    | with_reducible apply Frame.ite
    | (with_reducible refine Frame.ofPair ‹_ = (_, _)› ?_)
    | split
    | ((conv in State.mk _ _ _ _ _ _ _ _ _ _ _ _ _ _ _ _ _ _ _ _ _ _ _ _ _ => skip); with_reducible apply Frame.upd)
    | with_reducible exact .inr rfl
    | exact .inl (Part.sub_has _ hfm (by decide))
    | exact .inl ⟨Part.sub_has _ hfm (by decide), fun h => h⟩
    | exact .inl ⟨Part.sub_has _ hfm (by decide), fun h => by simpa only [List.length_set, List.length_map, List.length_zipIdx] using h⟩
    | ((conv in Tile.mk _ _ _ _ _ _ _ _ _ _ _ _ _ _ _ _ _ _ _ _ _ _ _ _ _ _ _ _ _ _ _ _ _ _ _ _ _ _ _ _ => skip); with_reducible apply tileSafe_upd)
    | with_reducible exact .inl rfl
    | (refine SafeParts.tileAt (Frame.safe (m := fm) ?_ ‹SafeParts b0›) _ _)
    | with_reducible exact (‹SafeParts _ → tileSafe _ = true› ‹_›)
    | exact ‹tileSafe _ = true›

theorem access_frame {fm : List Part} {b0 : State} (s : State) (a : RegAccess)
    (hfr : Frame fm b0 s) (hfm : Part.sub [.cyc, .slot0, .tick, .tfrac, .regs, .tiles, .dram, .net, .reports, .free, .stk, .vil, .fleet, .chr, .serve, .img, .log, .pwr, .rst, .bnc, .snd, .lsr] fm = true) : Frame fm b0 (access s a).1 := by
  unfold access
  repeat' first
    | with_reducible assumption
    | exact Part.sub_trans (by decide) hfm
    | with_reducible apply accessTile_frame
    | with_reducible apply accessReg2_frame
    | split

theorem accessFlit_frame {fm : List Part} {b0 : State} (s : State) (src : Source) (k : Nat) (write : Bool)
    (hfr : Frame fm b0 s) (hfm : Part.sub [.regs] fm = true) : Frame fm b0 (accessFlit s src k write) := by
  unfold accessFlit
  repeat' first
    | with_reducible assumption
    | exact Part.sub_trans (by decide) hfm
    | with_reducible intro _
    | with_reducible apply crossFlits_frame
    | with_reducible apply Frame.ite
    | (with_reducible refine Frame.ofPair ‹_ = (_, _)› ?_)
    | split
    | ((conv in State.mk _ _ _ _ _ _ _ _ _ _ _ _ _ _ _ _ _ _ _ _ _ _ _ _ _ => skip); with_reducible apply Frame.upd)
    | with_reducible exact .inr rfl
    | exact .inl (Part.sub_has _ hfm (by decide))
    | exact .inl ⟨Part.sub_has _ hfm (by decide), fun h => h⟩
    | exact .inl ⟨Part.sub_has _ hfm (by decide), fun h => by simpa only [List.length_set, List.length_map, List.length_zipIdx] using h⟩

theorem execRegisterAccess_frame {fm : List Part} {b0 : State} (a : RegAccess) (s : State)
    (hfr : Frame fm b0 s) (hfm : Part.sub [.cyc, .slot0, .tick, .tfrac, .regs, .tiles, .dram, .net, .reports, .free, .stk, .vil, .fleet, .chr, .serve, .img, .log, .pwr, .rst, .bnc, .snd, .lsr, .answers] fm = true) : FrameOut fm b0 (execRegisterAccess a s) := by
  unfold execRegisterAccess
  repeat' first
    | with_reducible assumption
    | exact Part.sub_trans (by decide) hfm
    | with_reducible intro _
    | (extract_lets +onlyGivenNames x; refine (fun hx => ?_ : (Frame fm b0 x) → _) ?_; (on_goal 2 => unfold x); all_goals clear_value x)
    | (extract_lets +onlyGivenNames x; refine (fun hx => ?_ : (Frame fm b0 x.1) → _) ?_; (on_goal 2 => unfold x); all_goals clear_value x)
    | (extract_lets +onlyGivenNames x; refine (fun hx => ?_ : (tileSafe x = true) → _) ?_; (on_goal 2 => unfold x); all_goals clear_value x)
    | (extract_lets +onlyGivenNames x; refine (fun hx => ?_ : (tileSafe x.1 = true) → _) ?_; (on_goal 2 => unfold x); all_goals clear_value x)
    | (extract_lets +onlyGivenNames x; refine (fun hx => ?_ : (FrameOpt fm b0 x) → _) ?_; (on_goal 2 => unfold x); all_goals clear_value x)
    | (extract_lets +onlyGivenNames x; refine (fun hx => ?_ : (Frame fm b0 x.st) → _) ?_; (on_goal 2 => unfold x); all_goals clear_value x)
    | extract_lets +onlyGivenNames x
    | with_reducible apply FrameOut.next
    | with_reducible apply access_frame
    | with_reducible apply accessFlit_frame
    | ((conv in State.mk _ _ _ _ _ _ _ _ _ _ _ _ _ _ _ _ _ _ _ _ _ _ _ _ _ => skip); with_reducible apply Frame.upd)
    | with_reducible exact .inr rfl
    | exact .inl (Part.sub_has _ hfm (by decide))
    | exact .inl ⟨Part.sub_has _ hfm (by decide), fun h => h⟩
    | exact .inl ⟨Part.sub_has _ hfm (by decide), fun h => by simpa only [List.length_set, List.length_map, List.length_zipIdx] using h⟩

theorem bearingAccess_frame {fm : List Part} {b0 : State} (s : State) (a : BearingArg) (write : Option Dword)
    (hfr : Frame fm b0 s) (hfm : Part.sub [.cyc, .slot0, .tick, .tfrac, .regs, .tiles, .dram, .net, .reports, .free, .stk, .vil, .fleet, .chr, .serve, .img, .log, .pwr, .rst, .bnc, .snd, .lsr] fm = true) : Frame fm b0 (bearingAccess s a write) := by
  unfold bearingAccess
  repeat' first
    | with_reducible assumption
    | exact Part.sub_trans (by decide) hfm
    | with_reducible intro _
    | (extract_lets +onlyGivenNames x; refine (fun hx => ?_ : (Frame fm b0 x) → _) ?_; (on_goal 2 => unfold x); all_goals clear_value x)
    | (extract_lets +onlyGivenNames x; refine (fun hx => ?_ : (Frame fm b0 x.1) → _) ?_; (on_goal 2 => unfold x); all_goals clear_value x)
    | (extract_lets +onlyGivenNames x; refine (fun hx => ?_ : (tileSafe x = true) → _) ?_; (on_goal 2 => unfold x); all_goals clear_value x)
    | (extract_lets +onlyGivenNames x; refine (fun hx => ?_ : (tileSafe x.1 = true) → _) ?_; (on_goal 2 => unfold x); all_goals clear_value x)
    | (extract_lets +onlyGivenNames x; refine (fun hx => ?_ : (FrameOpt fm b0 x) → _) ?_; (on_goal 2 => unfold x); all_goals clear_value x)
    | (extract_lets +onlyGivenNames x; refine (fun hx => ?_ : (Frame fm b0 x.st) → _) ?_; (on_goal 2 => unfold x); all_goals clear_value x)
    | extract_lets +onlyGivenNames x
    | with_reducible apply bearing_frame
    | with_reducible apply accessReg2_frame
    | with_reducible apply accessFlit_frame
    | with_reducible apply reply_frame
    | with_reducible apply Frame.ite
    | split

theorem execBearingRead_frame {fm : List Part} {b0 : State} (a : BearingArg) (s : State)
    (hfr : Frame fm b0 s) (hfm : Part.sub [.cyc, .slot0, .tick, .tfrac, .regs, .tiles, .dram, .net, .reports, .free, .stk, .vil, .fleet, .chr, .serve, .img, .log, .pwr, .rst, .bnc, .snd, .lsr] fm = true) : FrameOut fm b0 (execBearingRead a s) := by
  unfold execBearingRead
  repeat' first
    | with_reducible assumption
    | exact Part.sub_trans (by decide) hfm
    | extract_lets +onlyGivenNames x
    | with_reducible apply FrameOut.next
    | with_reducible apply bearingAccess_frame

theorem execBearingWrite_frame {fm : List Part} {b0 : State} (a : BearingArg) (s : State)
    (hfr : Frame fm b0 s) (hfm : Part.sub [.cyc, .slot0, .tick, .tfrac, .regs, .tiles, .dram, .net, .reports, .free, .stk, .vil, .fleet, .chr, .serve, .img, .log, .pwr, .rst, .bnc, .snd, .lsr] fm = true) : FrameOut fm b0 (execBearingWrite a s) := by
  unfold execBearingWrite
  repeat' first
    | with_reducible assumption
    | exact Part.sub_trans (by decide) hfm
    | extract_lets +onlyGivenNames x
    | with_reducible apply FrameOut.next
    | with_reducible apply bearingAccess_frame

theorem onLink_frame {fm : List Part} {b0 : State} (s : State) (f : State → State) (hf : ∀ u, Frame fm b0 u → Frame fm b0 (f u))
    (hfr : Frame fm b0 s) (hfm : Part.sub [] fm = true) : Frame fm b0 (onLink s f) := by
  unfold onLink
  repeat' first
    | with_reducible assumption
    | extract_lets +onlyGivenNames x
    | with_reducible apply Frame.ite
    | with_reducible apply hf

theorem onTraffic_frame {fm : List Part} {b0 : State} (s : State) (f : State → State) (hf : ∀ u, Frame fm b0 u → Frame fm b0 (f u))
    (hfr : Frame fm b0 s) (hfm : Part.sub [] fm = true) : Frame fm b0 (onTraffic s f) := by
  unfold onTraffic
  repeat' first
    | with_reducible assumption
    | with_reducible intro _
    | extract_lets +onlyGivenNames x
    | with_reducible apply onLink_frame
    | with_reducible apply Frame.ite
    | with_reducible apply hf

theorem execLnkEn_frame {fm : List Part} {b0 : State} (v : Bool) (s : State)
    (hfr : Frame fm b0 s) (hfm : Part.sub [.regs, .vil] fm = true) : FrameOut fm b0 (execLnkEn v s) := by
  unfold execLnkEn
  repeat' first
    | with_reducible assumption
    | exact Part.sub_trans (by decide) hfm
    | with_reducible intro _
    | extract_lets +onlyGivenNames x
    | with_reducible apply FrameOut.next
    | with_reducible apply onLink_frame
    | with_reducible apply writeLnkEn_frame

theorem execRetrain_frame {fm : List Part} {b0 : State} (s : State)
    (hfr : Frame fm b0 s) (hfm : Part.sub [.regs, .vil] fm = true) : FrameOut fm b0 (execRetrain s) := by
  unfold execRetrain
  repeat' first
    | with_reducible assumption
    | exact Part.sub_trans (by decide) hfm
    | with_reducible intro _
    | with_reducible apply FrameOut.next
    | with_reducible apply onLink_frame
    | with_reducible apply startRetrain_frame
    | extract_lets +onlyGivenNames x

theorem execLnkLock_frame {fm : List Part} {b0 : State} (half : BitVec 1) (s : State)
    (hfr : Frame fm b0 s) (hfm : Part.sub [.regs] fm = true) : FrameOut fm b0 (execLnkLock half s) := by
  unfold execLnkLock
  repeat' first
    | with_reducible assumption
    | exact Part.sub_trans (by decide) hfm
    | with_reducible intro _
    | extract_lets +onlyGivenNames x
    | with_reducible apply FrameOut.next
    | with_reducible apply onLink_frame
    | with_reducible apply rset_frame

theorem trainingLimit_frame {fm : List Part} {b0 : State} (s : State)
    (hfr : Frame fm b0 s) (hfm : Part.sub [.regs, .vil] fm = true) : Frame fm b0 (trainingLimit s) := by
  unfold trainingLimit
  repeat' first
    | with_reducible assumption
    | exact Part.sub_trans (by decide) hfm
    | extract_lets +onlyGivenNames x
    | with_reducible apply failTraining_frame
    | with_reducible apply putLnkState_frame
    | with_reducible apply Frame.ite

theorem execVilgerTrainingLimit_frame {fm : List Part} {b0 : State} (s : State)
    (hfr : Frame fm b0 s) (hfm : Part.sub [.regs, .vil] fm = true) : FrameOut fm b0 (execVilgerTrainingLimit s) := by
  unfold execVilgerTrainingLimit
  repeat' first
    | with_reducible assumption
    | exact Part.sub_trans (by decide) hfm
    | with_reducible intro _
    | extract_lets +onlyGivenNames x
    | with_reducible apply FrameOut.next
    | with_reducible apply trainingLimit_frame
    | with_reducible apply onLink_frame

theorem execVilgerReceiverDetection_frame {fm : List Part} {b0 : State} (s : State)
    (hfr : Frame fm b0 s) (hfm : Part.sub [.regs] fm = true) : FrameOut fm b0 (execVilgerReceiverDetection s) := by
  unfold execVilgerReceiverDetection
  repeat' first
    | with_reducible assumption
    | exact Part.sub_trans (by decide) hfm
    | with_reducible intro _
    | extract_lets +onlyGivenNames x
    | with_reducible apply FrameOut.next
    | with_reducible apply onLink_frame
    | with_reducible apply putLnkState_frame
    | with_reducible apply Frame.ite

theorem markLanes_frame {fm : List Part} {b0 : State} (s : State) (good0 good1 : Half)
    (hfr : Frame fm b0 s) (hfm : Part.sub [.regs, .log] fm = true) : Frame fm b0 (markLanes s good0 good1) := by
  unfold markLanes
  repeat' first
    | with_reducible assumption
    | exact Part.sub_trans (by decide) hfm
    | (extract_lets +onlyGivenNames x; refine (fun hx => ?_ : (Frame fm b0 x) → _) ?_; (on_goal 2 => unfold x); all_goals clear_value x)
    | extract_lets +onlyGivenNames x
    | with_reducible apply failedLanes_frame
    | with_reducible apply putLnkState_frame
    | with_reducible apply rput_frame
    | with_reducible apply Frame.ite

theorem execVilgerEqualisationDone_frame {fm : List Part} {b0 : State} (good0 good1 : Half) (s : State)
    (hfr : Frame fm b0 s) (hfm : Part.sub [.regs, .log] fm = true) : FrameOut fm b0 (execVilgerEqualisationDone good0 good1 s) := by
  unfold execVilgerEqualisationDone
  repeat' first
    | with_reducible assumption
    | exact Part.sub_trans (by decide) hfm
    | with_reducible intro _
    | extract_lets +onlyGivenNames x
    | with_reducible apply FrameOut.next
    | with_reducible apply markLanes_frame
    | with_reducible apply onLink_frame

theorem lockBoundary_frame {fm : List Part} {b0 : State} (s : State)
    (hfr : Frame fm b0 s) (hfm : Part.sub [.regs, .vil] fm = true) : Frame fm b0 (lockBoundary s) := by
  unfold lockBoundary
  repeat' first
    | with_reducible assumption
    | exact Part.sub_trans (by decide) hfm
    | extract_lets +onlyGivenNames x
    | with_reducible apply putWidth_frame
    | with_reducible apply failTraining_frame
    | with_reducible apply putLnkState_frame
    | with_reducible apply Frame.ite
    | split

theorem execFlitBoundaryLock_frame {fm : List Part} {b0 : State} (s : State)
    (hfr : Frame fm b0 s) (hfm : Part.sub [.regs, .vil] fm = true) : FrameOut fm b0 (execFlitBoundaryLock s) := by
  unfold execFlitBoundaryLock
  repeat' first
    | with_reducible assumption
    | exact Part.sub_trans (by decide) hfm
    | with_reducible intro _
    | extract_lets +onlyGivenNames x
    | with_reducible apply FrameOut.next
    | with_reducible apply lockBoundary_frame
    | with_reducible apply onLink_frame

theorem execIdentityExchange_frame {fm : List Part} {b0 : State} (revMin revMax : Byte) (s : State)
    (hfr : Frame fm b0 s) (hfm : Part.sub [.regs, .vil] fm = true) : FrameOut fm b0 (execIdentityExchange revMin revMax s) := by
  unfold execIdentityExchange
  repeat' first
    | with_reducible assumption
    | exact Part.sub_trans (by decide) hfm
    | with_reducible intro _
    | extract_lets +onlyGivenNames x
    | with_reducible apply FrameOut.next
    | with_reducible apply onLink_frame
    | with_reducible apply exchangeRevisions_frame
    | with_reducible apply Frame.ite

theorem endRetrain_frame {fm : List Part} {b0 : State} (s : State) (ok : Bool)
    (hfr : Frame fm b0 s) (hfm : Part.sub [.regs, .vil] fm = true) : Frame fm b0 (endRetrain s ok) := by
  unfold endRetrain
  repeat' first
    | with_reducible assumption
    | exact Part.sub_trans (by decide) hfm
    | with_reducible intro _
    | with_reducible apply resumeLink_frame
    | with_reducible apply putTraining_frame
    | with_reducible apply putLnkState_frame
    | with_reducible apply putWidth_frame
    | with_reducible apply Frame.ite
    | (with_reducible refine Frame.ofPair ‹_ = (_, _)› ?_)
    | split
    | ((conv in State.mk _ _ _ _ _ _ _ _ _ _ _ _ _ _ _ _ _ _ _ _ _ _ _ _ _ => skip); with_reducible apply Frame.upd)
    | with_reducible exact .inr rfl
    | exact .inl (Part.sub_has _ hfm (by decide))
    | exact .inl ⟨Part.sub_has _ hfm (by decide), fun h => h⟩
    | exact .inl ⟨Part.sub_has _ hfm (by decide), fun h => by simpa only [List.length_set, List.length_map, List.length_zipIdx] using h⟩
    | extract_lets +onlyGivenNames x

theorem execRetrainDone_frame {fm : List Part} {b0 : State} (ok : Bool) (s : State)
    (hfr : Frame fm b0 s) (hfm : Part.sub [.regs, .vil] fm = true) : FrameOut fm b0 (execRetrainDone ok s) := by
  unfold execRetrainDone
  repeat' first
    | with_reducible assumption
    | exact Part.sub_trans (by decide) hfm
    | with_reducible intro _
    | extract_lets +onlyGivenNames x
    | with_reducible apply FrameOut.next
    | with_reducible apply endRetrain_frame
    | with_reducible apply onLink_frame

theorem hotReset_frame {fm : List Part} {b0 : State} (s : State)
    (hfr : Frame fm b0 s) (hfm : Part.sub [.slot0, .tick, .tfrac, .regs, .tiles, .dram, .net, .reports, .free, .stk, .vil, .fleet, .chr, .serve, .img, .log, .pwr, .rst, .bnc, .snd, .lsr] fm = true) : Frame fm b0 (hotReset s) := by
  unfold hotReset
  repeat' first
    | with_reducible assumption
    | exact Part.sub_trans (by decide) hfm
    | extract_lets +onlyGivenNames x
    | with_reducible apply moduleReset_frame
    | with_reducible apply Frame.ite

theorem execHotReset_frame {fm : List Part} {b0 : State} (s : State)
    (hfr : Frame fm b0 s) (hfm : Part.sub [.slot0, .tick, .tfrac, .regs, .tiles, .dram, .net, .reports, .free, .stk, .vil, .fleet, .chr, .serve, .img, .log, .pwr, .rst, .bnc, .snd, .lsr] fm = true) : FrameOut fm b0 (execHotReset s) := by
  unfold execHotReset
  repeat' first
    | with_reducible assumption
    | exact Part.sub_trans (by decide) hfm
    | with_reducible intro _
    | extract_lets +onlyGivenNames x
    | with_reducible apply FrameOut.next
    | with_reducible apply hotReset_frame
    | with_reducible apply onLink_frame

theorem takeRegrd_frame {fm : List Part} {b0 : State} (s : State) (h hdr : Nat)
    (hfr : Frame fm b0 s) (hfm : Part.sub [.cyc, .slot0, .tick, .tfrac, .regs, .tiles, .dram, .net, .reports, .free, .stk, .vil, .fleet, .chr, .serve, .img, .log, .pwr, .rst, .bnc, .snd, .lsr] fm = true) : Frame fm b0 (takeRegrd s h hdr) := by
  unfold takeRegrd
  repeat' first
    | with_reducible assumption
    | exact Part.sub_trans (by decide) hfm
    | with_reducible intro _
    | (extract_lets +onlyGivenNames x; refine (fun hx => ?_ : (Frame fm b0 x) → _) ?_; (on_goal 2 => unfold x); all_goals clear_value x)
    | (extract_lets +onlyGivenNames x; refine (fun hx => ?_ : (Frame fm b0 x.1) → _) ?_; (on_goal 2 => unfold x); all_goals clear_value x)
    | (extract_lets +onlyGivenNames x; refine (fun hx => ?_ : (tileSafe x = true) → _) ?_; (on_goal 2 => unfold x); all_goals clear_value x)
    | (extract_lets +onlyGivenNames x; refine (fun hx => ?_ : (tileSafe x.1 = true) → _) ?_; (on_goal 2 => unfold x); all_goals clear_value x)
    | (extract_lets +onlyGivenNames x; refine (fun hx => ?_ : (FrameOpt fm b0 x) → _) ?_; (on_goal 2 => unfold x); all_goals clear_value x)
    | (extract_lets +onlyGivenNames x; refine (fun hx => ?_ : (Frame fm b0 x.st) → _) ?_; (on_goal 2 => unfold x); all_goals clear_value x)
    | extract_lets +onlyGivenNames x
    | with_reducible apply accessReg2_frame
    | with_reducible apply accessFlit_frame
    | with_reducible apply sendMsg_frame
    | with_reducible apply Frame.ite
    | (with_reducible refine Frame.ofPair ‹_ = (_, _)› ?_)
    | split

theorem takeRegwr_frame {fm : List Part} {b0 : State} (s : State) (h hdr : Nat)
    (hfr : Frame fm b0 s) (hfm : Part.sub [.cyc, .slot0, .tick, .tfrac, .regs, .tiles, .dram, .net, .reports, .free, .stk, .vil, .fleet, .chr, .serve, .img, .log, .pwr, .rst, .bnc, .snd, .lsr] fm = true) : Frame fm b0 (takeRegwr s h hdr) := by
  unfold takeRegwr
  repeat' first
    | with_reducible assumption
    | exact Part.sub_trans (by decide) hfm
    | with_reducible intro _
    | (extract_lets +onlyGivenNames x; refine (fun hx => ?_ : (Frame fm b0 x) → _) ?_; (on_goal 2 => unfold x); all_goals clear_value x)
    | (extract_lets +onlyGivenNames x; refine (fun hx => ?_ : (Frame fm b0 x.1) → _) ?_; (on_goal 2 => unfold x); all_goals clear_value x)
    | (extract_lets +onlyGivenNames x; refine (fun hx => ?_ : (tileSafe x = true) → _) ?_; (on_goal 2 => unfold x); all_goals clear_value x)
    | (extract_lets +onlyGivenNames x; refine (fun hx => ?_ : (tileSafe x.1 = true) → _) ?_; (on_goal 2 => unfold x); all_goals clear_value x)
    | (extract_lets +onlyGivenNames x; refine (fun hx => ?_ : (FrameOpt fm b0 x) → _) ?_; (on_goal 2 => unfold x); all_goals clear_value x)
    | (extract_lets +onlyGivenNames x; refine (fun hx => ?_ : (Frame fm b0 x.st) → _) ?_; (on_goal 2 => unfold x); all_goals clear_value x)
    | extract_lets +onlyGivenNames x
    | with_reducible apply accessReg2_frame
    | with_reducible apply accessFlit_frame
    | with_reducible apply sendMsg_frame
    | (with_reducible refine Frame.ofPair ‹_ = (_, _)› ?_)
    | split

theorem execSni_frame {fm : List Part} {b0 : State} (addr : BitVec 48) (s : State)
    (hfr : Frame fm b0 s) (hfm : Part.sub [.regs, .vil, .serve] fm = true) : FrameOut fm b0 (execSni addr s) := by
  unfold execSni
  repeat' first
    | with_reducible assumption
    | exact Part.sub_trans (by decide) hfm
    | with_reducible intro _
    | extract_lets +onlyGivenNames x
    | with_reducible apply FrameOut.next
    | with_reducible apply onTraffic_frame
    | with_reducible apply takeSni_frame

theorem execDat_frame {fm : List Part} {b0 : State} (half : BitVec 1) (tag : BitVec 12) (status : Status) (data : List Byte) (s : State)
    (hfr : Frame fm b0 s) (hfm : Part.sub [.regs, .net, .vil] fm = true) : FrameOut fm b0 (execDat half tag status data s) := by
  unfold execDat
  repeat' first
    | with_reducible assumption
    | exact Part.sub_trans (by decide) hfm
    | with_reducible intro _
    | extract_lets +onlyGivenNames x
    | with_reducible apply FrameOut.next
    | with_reducible apply onTraffic_frame
    | with_reducible apply takeDat_frame

theorem execCmp_frame {fm : List Part} {b0 : State} (half : BitVec 1) (tag : BitVec 12) (status : Status) (s : State)
    (hfr : Frame fm b0 s) (hfm : Part.sub [.regs, .net, .vil, .serve] fm = true) : FrameOut fm b0 (execCmp half tag status s) := by
  unfold execCmp
  repeat' first
    | with_reducible assumption
    | exact Part.sub_trans (by decide) hfm
    | with_reducible intro _
    | extract_lets +onlyGivenNames x
    | with_reducible apply FrameOut.next
    | with_reducible apply onTraffic_frame
    | with_reducible apply takeCmp_frame

theorem execRegrd_frame {fm : List Part} {b0 : State} (half : BitVec 1) (hdr : BitVec 128) (s : State)
    (hfr : Frame fm b0 s) (hfm : Part.sub [.cyc, .slot0, .tick, .tfrac, .regs, .tiles, .dram, .net, .reports, .free, .stk, .vil, .fleet, .chr, .serve, .img, .log, .pwr, .rst, .bnc, .snd, .lsr] fm = true) : FrameOut fm b0 (execRegrd half hdr s) := by
  unfold execRegrd
  repeat' first
    | with_reducible assumption
    | exact Part.sub_trans (by decide) hfm
    | with_reducible intro _
    | extract_lets +onlyGivenNames x
    | with_reducible apply FrameOut.next
    | with_reducible apply takeRegrd_frame
    | with_reducible apply onTraffic_frame

theorem execRegwr_frame {fm : List Part} {b0 : State} (half : BitVec 1) (hdr : BitVec 128) (s : State)
    (hfr : Frame fm b0 s) (hfm : Part.sub [.cyc, .slot0, .tick, .tfrac, .regs, .tiles, .dram, .net, .reports, .free, .stk, .vil, .fleet, .chr, .serve, .img, .log, .pwr, .rst, .bnc, .snd, .lsr] fm = true) : FrameOut fm b0 (execRegwr half hdr s) := by
  unfold execRegwr
  repeat' first
    | with_reducible assumption
    | exact Part.sub_trans (by decide) hfm
    | with_reducible intro _
    | extract_lets +onlyGivenNames x
    | with_reducible apply FrameOut.next
    | with_reducible apply takeRegwr_frame
    | with_reducible apply onTraffic_frame

theorem takeMessage_frame {fm : List Part} {b0 : State} (s : State) (h hdr : Nat) (data : List Byte)
    (hfr : Frame fm b0 s) (hfm : Part.sub [.cyc, .slot0, .tick, .tfrac, .regs, .tiles, .dram, .net, .reports, .free, .stk, .vil, .fleet, .chr, .serve, .img, .log, .pwr, .rst, .bnc, .snd, .lsr] fm = true) : Frame fm b0 (takeMessage s h hdr data) := by
  unfold takeMessage
  repeat' first
    | with_reducible assumption
    | exact Part.sub_trans (by decide) hfm
    | extract_lets +onlyGivenNames x
    | with_reducible apply takeRegwr_frame
    | with_reducible apply takeRegrd_frame
    | with_reducible apply takeSni_frame
    | with_reducible apply takeCmp_frame
    | with_reducible apply takeDat_frame
    | with_reducible apply Frame.ite

theorem takeHead_frame {fm : List Part} {b0 : State} (s : State) (h opc n : Nat) (rest : List (List Byte))
    (hfr : Frame fm b0 s) (hfm : Part.sub [.regs, .vil] fm = true) : Frame fm b0 (takeHead s h opc n rest) := by
  unfold takeHead
  repeat' first
    | with_reducible assumption
    | exact Part.sub_trans (by decide) hfm
    | with_reducible intro _
    | (extract_lets +onlyGivenNames x; refine (fun hx => ?_ : (Frame fm b0 x) → _) ?_; (on_goal 2 => unfold x); all_goals clear_value x)
    | (extract_lets +onlyGivenNames x; refine (fun hx => ?_ : (Frame fm b0 x.1) → _) ?_; (on_goal 2 => unfold x); all_goals clear_value x)
    | (extract_lets +onlyGivenNames x; refine (fun hx => ?_ : (tileSafe x = true) → _) ?_; (on_goal 2 => unfold x); all_goals clear_value x)
    | (extract_lets +onlyGivenNames x; refine (fun hx => ?_ : (tileSafe x.1 = true) → _) ?_; (on_goal 2 => unfold x); all_goals clear_value x)
    | (extract_lets +onlyGivenNames x; refine (fun hx => ?_ : (FrameOpt fm b0 x) → _) ?_; (on_goal 2 => unfold x); all_goals clear_value x)
    | (extract_lets +onlyGivenNames x; refine (fun hx => ?_ : (Frame fm b0 x.st) → _) ?_; (on_goal 2 => unfold x); all_goals clear_value x)
    | extract_lets +onlyGivenNames x
    | with_reducible apply putHalf_frame
    | with_reducible apply rset_frame
    | with_reducible apply Frame.ite
    | split
    | ((conv in State.mk _ _ _ _ _ _ _ _ _ _ _ _ _ _ _ _ _ _ _ _ _ _ _ _ _ => skip); with_reducible apply Frame.upd)
    | with_reducible exact .inr rfl
    | exact .inl (Part.sub_has _ hfm (by decide))
    | exact .inl ⟨Part.sub_has _ hfm (by decide), fun h => h⟩
    | exact .inl ⟨Part.sub_has _ hfm (by decide), fun h => by simpa only [List.length_set, List.length_map, List.length_zipIdx] using h⟩

theorem takeSlots_frame {m : List Part} {s0 : State} (fuel : Nat) (s : State) (k : Nat) (h : Frame m s0 s)
    (hm : Part.sub [.cyc, .slot0, .tick, .tfrac, .regs, .tiles, .dram, .net, .reports, .free, .stk, .vil, .fleet, .chr, .serve, .img, .log, .pwr, .rst, .bnc, .snd, .lsr] m = true) : Frame m s0 (takeSlots fuel s k) := by
  induction fuel generalizing s with
  | zero => exact h
  | succ fuel ih =>
    unfold takeSlots
    extract_lets +onlyGivenNames v
    split
    · exact h
    · extract_lets +onlyGivenNames hdr n
      refine Frame.ite h (ih _ ?_)
      exact takeMessage_frame _ _ _ _ (takeHead_frame _ _ _ _ _ h (Part.sub_trans (by decide) hm)) (Part.sub_trans (by decide) hm)

theorem takeDataFlit_frame {fm : List Part} {b0 : State} (s : State) (h hdr : Nat) (f : VFlit)
    (hfr : Frame fm b0 s) (hfm : Part.sub [.cyc, .slot0, .tick, .tfrac, .regs, .tiles, .dram, .net, .reports, .free, .stk, .vil, .fleet, .chr, .serve, .img, .log, .pwr, .rst, .bnc, .snd, .lsr] fm = true) : Frame fm b0 (takeDataFlit s h hdr f) := by
  unfold takeDataFlit
  repeat' first
    | with_reducible assumption
    | exact Part.sub_trans (by decide) hfm
    | with_reducible intro _
    | (extract_lets +onlyGivenNames x; refine (fun hx => ?_ : (Frame fm b0 x) → _) ?_; (on_goal 2 => unfold x); all_goals clear_value x)
    | (extract_lets +onlyGivenNames x; refine (fun hx => ?_ : (Frame fm b0 x.1) → _) ?_; (on_goal 2 => unfold x); all_goals clear_value x)
    | (extract_lets +onlyGivenNames x; refine (fun hx => ?_ : (tileSafe x = true) → _) ?_; (on_goal 2 => unfold x); all_goals clear_value x)
    | (extract_lets +onlyGivenNames x; refine (fun hx => ?_ : (tileSafe x.1 = true) → _) ?_; (on_goal 2 => unfold x); all_goals clear_value x)
    | (extract_lets +onlyGivenNames x; refine (fun hx => ?_ : (FrameOpt fm b0 x) → _) ?_; (on_goal 2 => unfold x); all_goals clear_value x)
    | (extract_lets +onlyGivenNames x; refine (fun hx => ?_ : (Frame fm b0 x.st) → _) ?_; (on_goal 2 => unfold x); all_goals clear_value x)
    | extract_lets +onlyGivenNames x
    | with_reducible apply takeHeader_frame
    | with_reducible apply putHalf_frame
    | with_reducible apply takeSlots_frame
    | ((conv in State.mk _ _ _ _ _ _ _ _ _ _ _ _ _ _ _ _ _ _ _ _ _ _ _ _ _ => skip); with_reducible apply Frame.upd)
    | with_reducible exact .inr rfl
    | exact .inl (Part.sub_has _ hfm (by decide))
    | exact .inl ⟨Part.sub_has _ hfm (by decide), fun h => h⟩
    | exact .inl ⟨Part.sub_has _ hfm (by decide), fun h => by simpa only [List.length_set, List.length_map, List.length_zipIdx] using h⟩

theorem takeGoodFlit_frame {fm : List Part} {b0 : State} (s : State) (h : Nat) (f : VFlit)
    (hfr : Frame fm b0 s) (hfm : Part.sub [.cyc, .slot0, .tick, .tfrac, .regs, .tiles, .dram, .net, .reports, .free, .stk, .vil, .fleet, .chr, .serve, .img, .log, .pwr, .rst, .bnc, .snd, .lsr] fm = true) : Frame fm b0 (takeGoodFlit s h f) := by
  unfold takeGoodFlit
  repeat' first
    | with_reducible assumption
    | exact Part.sub_trans (by decide) hfm
    | with_reducible intro _
    | (extract_lets +onlyGivenNames x; refine (fun hx => ?_ : (Frame fm b0 x) → _) ?_; (on_goal 2 => unfold x); all_goals clear_value x)
    | (extract_lets +onlyGivenNames x; refine (fun hx => ?_ : (Frame fm b0 x.1) → _) ?_; (on_goal 2 => unfold x); all_goals clear_value x)
    | (extract_lets +onlyGivenNames x; refine (fun hx => ?_ : (tileSafe x = true) → _) ?_; (on_goal 2 => unfold x); all_goals clear_value x)
    | (extract_lets +onlyGivenNames x; refine (fun hx => ?_ : (tileSafe x.1 = true) → _) ?_; (on_goal 2 => unfold x); all_goals clear_value x)
    | (extract_lets +onlyGivenNames x; refine (fun hx => ?_ : (FrameOpt fm b0 x) → _) ?_; (on_goal 2 => unfold x); all_goals clear_value x)
    | (extract_lets +onlyGivenNames x; refine (fun hx => ?_ : (Frame fm b0 x.st) → _) ?_; (on_goal 2 => unfold x); all_goals clear_value x)
    | extract_lets +onlyGivenNames x
    | with_reducible apply hotReset_frame
    | with_reducible apply takeHeader_frame
    | with_reducible apply discardFlit_frame
    | with_reducible apply takeDataFlit_frame
    | with_reducible apply Frame.ite
    | split

theorem dropBadFlit_frame {fm : List Part} {b0 : State} (s : State) (h : Nat) (f : VFlit)
    (hfr : Frame fm b0 s) (hfm : Part.sub [.regs, .vil, .log] fm = true) : Frame fm b0 (dropBadFlit s h f) := by
  unfold dropBadFlit
  repeat' first
    | with_reducible assumption
    | exact Part.sub_trans (by decide) hfm
    | with_reducible intro _
    | (extract_lets +onlyGivenNames x; refine (fun hx => ?_ : (Frame fm b0 x) → _) ?_; (on_goal 2 => unfold x); all_goals clear_value x)
    | (extract_lets +onlyGivenNames x; refine (fun hx => ?_ : (Frame fm b0 x.1) → _) ?_; (on_goal 2 => unfold x); all_goals clear_value x)
    | (extract_lets +onlyGivenNames x; refine (fun hx => ?_ : (tileSafe x = true) → _) ?_; (on_goal 2 => unfold x); all_goals clear_value x)
    | (extract_lets +onlyGivenNames x; refine (fun hx => ?_ : (tileSafe x.1 = true) → _) ?_; (on_goal 2 => unfold x); all_goals clear_value x)
    | (extract_lets +onlyGivenNames x; refine (fun hx => ?_ : (FrameOpt fm b0 x) → _) ?_; (on_goal 2 => unfold x); all_goals clear_value x)
    | (extract_lets +onlyGivenNames x; refine (fun hx => ?_ : (Frame fm b0 x.st) → _) ?_; (on_goal 2 => unfold x); all_goals clear_value x)
    | extract_lets +onlyGivenNames x
    | with_reducible apply rbump_frame
    | with_reducible apply discardFlit_frame
    | with_reducible apply logCount_frame
    | with_reducible apply Frame.foldl
    | with_reducible apply Frame.foldlFst
    | with_reducible apply Frame.ite
    | split

theorem takeVFlit_frame {fm : List Part} {b0 : State} (s : State) (h : Nat) (f : VFlit)
    (hfr : Frame fm b0 s) (hfm : Part.sub [.cyc, .slot0, .tick, .tfrac, .regs, .tiles, .dram, .net, .reports, .free, .stk, .vil, .fleet, .chr, .serve, .img, .log, .pwr, .rst, .bnc, .snd, .lsr] fm = true) : Frame fm b0 (takeVFlit s h f) := by
  unfold takeVFlit
  repeat' first
    | with_reducible assumption
    | exact Part.sub_trans (by decide) hfm
    | (extract_lets +onlyGivenNames x; refine (fun hx => ?_ : (Frame fm b0 x) → _) ?_; (on_goal 2 => unfold x); all_goals clear_value x)
    | extract_lets +onlyGivenNames x
    | with_reducible apply dropBadFlit_frame
    | with_reducible apply takeGoodFlit_frame
    | with_reducible apply rbump_frame
    | with_reducible apply Frame.ite

theorem execVilgerFlit_frame {fm : List Part} {b0 : State} (half : BitVec 1) (f : VFlit) (s : State)
    (hfr : Frame fm b0 s) (hfm : Part.sub [.cyc, .slot0, .tick, .tfrac, .regs, .tiles, .dram, .net, .reports, .free, .stk, .vil, .fleet, .chr, .serve, .img, .log, .pwr, .rst, .bnc, .snd, .lsr] fm = true) : FrameOut fm b0 (execVilgerFlit half f s) := by
  unfold execVilgerFlit
  repeat' first
    | with_reducible assumption
    | exact Part.sub_trans (by decide) hfm
    | with_reducible intro _
    | extract_lets +onlyGivenNames x
    | with_reducible apply FrameOut.next
    | with_reducible apply takeVFlit_frame
    | with_reducible apply onLink_frame
    | with_reducible apply Frame.ite

theorem execAckTimer_frame {fm : List Part} {b0 : State} (half : BitVec 1) (s : State)
    (hfr : Frame fm b0 s) (hfm : Part.sub [.cyc, .tick, .tfrac, .regs, .vil] fm = true) : FrameOut fm b0 (execAckTimer half s) := by
  unfold execAckTimer
  repeat' first
    | with_reducible assumption
    | exact Part.sub_trans (by decide) hfm
    | with_reducible intro _
    | extract_lets +onlyGivenNames x
    | with_reducible apply FrameOut.next
    | with_reducible apply onTraffic_frame
    | with_reducible apply replayHalf_frame
    | with_reducible apply elapseNs_frame
    | with_reducible apply Frame.ite

theorem execLinkReplayLimit_frame {fm : List Part} {b0 : State} (l : LinkRef) (s : State)
    (hfr : Frame fm b0 s) (hfm : Part.sub [.regs, .net, .vil, .fleet] fm = true) : FrameOut fm b0 (execLinkReplayLimit l s) := by
  unfold execLinkReplayLimit
  repeat' first
    | with_reducible assumption
    | extract_lets +onlyGivenNames x
    | with_reducible apply FrameOut.next
    | with_reducible apply replayLimit_frame
    | with_reducible apply Frame.ite

theorem onCrossing_frame {fm : List Part} {b0 : State} (s : State) (ch : BitVec 8) (repeated : Bool)
    (hfr : Frame fm b0 s) (hfm : Part.sub [.slot0, .tick, .tfrac, .regs, .tiles, .dram, .net, .reports, .free, .stk, .vil, .fleet, .chr, .serve, .img, .log, .pwr, .rst, .bnc, .snd, .lsr] fm = true) : Frame fm b0 (onCrossing s ch repeated) := by
  unfold onCrossing
  repeat' first
    | with_reducible assumption
    | exact Part.sub_trans (by decide) hfm
    | extract_lets +onlyGivenNames x
    | with_reducible apply crossingEvent_frame
    | with_reducible apply Frame.ite

theorem countReplay_frame {fm : List Part} {b0 : State} (s : State) (ch : Nat)
    (hfr : Frame fm b0 s) (hfm : Part.sub [.fleet] fm = true) : Frame fm b0 (countReplay s ch) := by
  unfold countReplay
  repeat' first
    | with_reducible assumption
    | exact Part.sub_trans (by decide) hfm
    | with_reducible intro _
    | ((conv in State.mk _ _ _ _ _ _ _ _ _ _ _ _ _ _ _ _ _ _ _ _ _ _ _ _ _ => skip); with_reducible apply Frame.upd)
    | with_reducible exact .inr rfl
    | exact .inl (Part.sub_has _ hfm (by decide))
    | exact .inl ⟨Part.sub_has _ hfm (by decide), fun h => h⟩
    | exact .inl ⟨Part.sub_has _ hfm (by decide), fun h => by simpa only [List.length_set, List.length_map, List.length_zipIdx] using h⟩
    | exact .inl ⟨Part.sub_has _ hfm (by decide), fun h => mapSet_wf _ _ _ _ h⟩

theorem execCrossingFlitError_frame {fm : List Part} {b0 : State} (channel : BitVec 8) (s : State)
    (hfr : Frame fm b0 s) (hfm : Part.sub [.slot0, .tick, .tfrac, .regs, .tiles, .dram, .net, .reports, .free, .stk, .vil, .fleet, .chr, .serve, .img, .log, .pwr, .rst, .bnc, .snd, .lsr] fm = true) : FrameOut fm b0 (execCrossingFlitError channel s) := by
  unfold execCrossingFlitError
  repeat' first
    | with_reducible assumption
    | exact Part.sub_trans (by decide) hfm
    | with_reducible intro _
    | with_reducible apply FrameOut.next
    | with_reducible apply onCrossing_frame
    | with_reducible apply countReplay_frame
    | extract_lets +onlyGivenNames x

theorem execCrossingRetrainDone_frame {fm : List Part} {b0 : State} (channel : BitVec 8) (ok : Bool) (s : State)
    (hfr : Frame fm b0 s) (hfm : Part.sub [.slot0, .tick, .tfrac, .regs, .tiles, .dram, .net, .reports, .free, .stk, .vil, .fleet, .chr, .serve, .img, .log, .pwr, .rst, .bnc, .snd, .lsr] fm = true) : FrameOut fm b0 (execCrossingRetrainDone channel ok s) := by
  unfold execCrossingRetrainDone
  repeat' first
    | with_reducible assumption
    | exact Part.sub_trans (by decide) hfm
    | with_reducible intro _
    | (extract_lets +onlyGivenNames x; refine (fun hx => ?_ : (Frame fm b0 x) → _) ?_; (on_goal 2 => unfold x); all_goals clear_value x)
    | (extract_lets +onlyGivenNames x; refine (fun hx => ?_ : (Frame fm b0 x.1) → _) ?_; (on_goal 2 => unfold x); all_goals clear_value x)
    | (extract_lets +onlyGivenNames x; refine (fun hx => ?_ : (tileSafe x = true) → _) ?_; (on_goal 2 => unfold x); all_goals clear_value x)
    | (extract_lets +onlyGivenNames x; refine (fun hx => ?_ : (tileSafe x.1 = true) → _) ?_; (on_goal 2 => unfold x); all_goals clear_value x)
    | (extract_lets +onlyGivenNames x; refine (fun hx => ?_ : (FrameOpt fm b0 x) → _) ?_; (on_goal 2 => unfold x); all_goals clear_value x)
    | (extract_lets +onlyGivenNames x; refine (fun hx => ?_ : (Frame fm b0 x.st) → _) ?_; (on_goal 2 => unfold x); all_goals clear_value x)
    | extract_lets +onlyGivenNames x
    | with_reducible apply FrameOut.next
    | with_reducible apply onCrossing_frame
    | with_reducible apply Frame.ite
    | split
    | ((conv in State.mk _ _ _ _ _ _ _ _ _ _ _ _ _ _ _ _ _ _ _ _ _ _ _ _ _ => skip); with_reducible apply Frame.upd)
    | with_reducible exact .inr rfl
    | exact .inl (Part.sub_has _ hfm (by decide))
    | exact .inl ⟨Part.sub_has _ hfm (by decide), fun h => h⟩
    | exact .inl ⟨Part.sub_has _ hfm (by decide), fun h => by simpa only [List.length_set, List.length_map, List.length_zipIdx] using h⟩

end Sys2Proof.Machine
end

