-- ==== Sys2Proof/Laws/Exec.lean ====
section
/-!
SUPPORT. What every command leaves alone.
-/

namespace Sys2Proof.Machine

/-- Every part of the state but the queue. -/
def noQueue : List Part := [.cyc, .slot0, .tick, .tfrac, .regs, .tiles, .dram, .net, .reports, .free, .stk, .vil, .fleet, .chr, .serve, .img, .log, .pwr, .rst, .bnc, .snd, .lsr, .tap, .answers]
/-- No command touches the queue, and every command keeps a safe machine safe. -/
theorem exec_frame (c : Instr) (s : State) : FrameOut noQueue s (exec c s) := by
  cases c with
  | nop x0 x1 => exact execNop_frame x0 x1 s (Frame.refl _ _) rfl
  | setr x0 x1 => exact execSetr_frame x0 x1 s (Frame.refl _ _) rfl
  | setrh x0 x1 => exact execSetrh_frame x0 x1 s (Frame.refl _ _) rfl
  | addr x0 x1 => exact execAddr_frame x0 x1 s (Frame.refl _ _) rfl
  | jump x0 x1 => exact execJump_frame x0 x1 s (Frame.refl _ _) rfl
  | loop x0 x1 => exact execLoop_frame x0 x1 s (Frame.refl _ _) rfl
  | nextw x0 x1 => exact execNextw_frame x0 x1 s (Frame.refl _ _) rfl
  | halt x0 x1 => exact execHalt_frame x0 x1 s (Frame.refl _ _) rfl
  | fetLoad x0 => exact execFetLoad_frame x0 s (Frame.refl _ _) rfl
  | fetLoads x0 => exact execFetLoads_frame x0 s (Frame.refl _ _) rfl
  | fetCopy x0 => exact execFetCopy_frame x0 s (Frame.refl _ _) rfl
  | fetZero x0 => exact execFetZero_frame x0 s (Frame.refl _ _) rfl
  | fetBankw x0 => exact execFetBankw_frame x0 s (Frame.refl _ _) rfl
  | arrMvm x0 x1 => exact execArrMvm_frame x0 x1 s (Frame.refl _ _) rfl
  | arrRetry x0 x1 => exact execArrRetry_frame x0 x1 s (Frame.refl _ _) rfl
  | arrBank x0 => exact execArrBank_frame x0 s (Frame.refl _ _) rfl
  | arrMode x0 => exact execArrMode_frame x0 s (Frame.refl _ _) rfl
  | sidMode x0 => exact execSidMode_frame x0 s (Frame.refl _ _) rfl
  | sidRecomp x0 => exact execSidRecomp_frame x0 s (Frame.refl _ _) rfl
  | sidDrain x0 => exact execSidDrain_frame x0 s (Frame.refl _ _) rfl
  | sidEmit x0 => exact execSidEmit_frame x0 s (Frame.refl _ _) rfl
  | pltNorm x0 => exact execPltNorm_frame x0 s (Frame.refl _ _) rfl
  | pltScore x0 => exact execPltScore_frame x0 s (Frame.refl _ _) rfl
  | pltSoftmax x0 => exact execPltSoftmax_frame x0 s (Frame.refl _ _) rfl
  | pltVprod x0 => exact execPltVprod_frame x0 s (Frame.refl _ _) rfl
  | pltTopk x0 => exact execPltTopk_frame x0 s (Frame.refl _ _) rfl
  | pltSort x0 => exact execPltSort_frame x0 s (Frame.refl _ _) rfl
  | pltMerge x0 => exact execPltMerge_frame x0 s (Frame.refl _ _) rfl
  | pltIsect x0 => exact execPltIsect_frame x0 s (Frame.refl _ _) rfl
  | pltGather x0 => exact execPltGather_frame x0 s (Frame.refl _ _) rfl
  | pltScatter x0 => exact execPltScatter_frame x0 s (Frame.refl _ _) rfl
  | pltHprobe x0 => exact execPltHprobe_frame x0 s (Frame.refl _ _) rfl
  | pltRelax x0 => exact execPltRelax_frame x0 s (Frame.refl _ _) rfl
  | pltSample x0 => exact execPltSample_frame x0 s (Frame.refl _ _) rfl
  | sigPut x0 => exact execSigPut_frame x0 s (Frame.refl _ _) rfl
  | sigGet x0 => exact execSigGet_frame x0 s (Frame.refl _ _) rfl
  | sigAdd32 x0 => exact execSigAdd32_frame x0 s (Frame.refl _ _) rfl
  | sigAdd64 x0 => exact execSigAdd64_frame x0 s (Frame.refl _ _) rfl
  | sigLadd x0 => exact execSigLadd_frame x0 s (Frame.refl _ _) rfl
  | sigCas64 x0 => exact execSigCas64_frame x0 s (Frame.refl _ _) rfl
  | sigMput x0 => exact execSigMput_frame x0 s (Frame.refl _ _) rfl
  | sigArrive x0 => exact execSigArrive_frame x0 s (Frame.refl _ _) rfl
  | sigWaitg x0 => exact execSigWaitg_frame x0 s (Frame.refl _ _) rfl
  | sigWaitwp x0 => exact execSigWaitwp_frame x0 s (Frame.refl _ _) rfl
  | sigWpinit x0 => exact execSigWpinit_frame x0 s (Frame.refl _ _) rfl
  | staticIssueSlot x0 x1 x2 x3 x4 => exact execStaticIssueSlot_frame x0 x1 x2 x3 x4 s (Frame.refl _ _) rfl
  | wdog x0 x1 => exact execWdog_frame x0 x1 s (Frame.refl _ _) rfl
  | stall x0 x1 => exact execStall_frame x0 x1 s (Frame.refl _ _) rfl
  | tileClockGate x0 => exact execTileClockGate_frame x0 s (Frame.refl _ _) rfl
  | wakeRequest x0 => exact execWakeRequest_frame x0 s (Frame.refl _ _) rfl
  | clockStartGrant x0 => exact execClockStartGrant_frame x0 s (Frame.refl _ _) rfl
  | clockStopGrant x0 => exact execClockStopGrant_frame x0 s (Frame.refl _ _) rfl
  | run x0 x1 => exact execRun_frame x0 x1 s (Frame.refl _ _) rfl
  | fence x0 => exact execFence_frame x0 s (Frame.refl _ _) rfl
  | wdogLock x0 => exact execWdogLock_frame x0 s (Frame.refl _ _) rfl
  | srst x0 => exact execSrst_frame x0 s (Frame.refl _ _) rfl
  | tilArrLock x0 => exact execTilArrLock_frame x0 s (Frame.refl _ _) rfl
  | put x0 => exact execPut_frame x0 s (Frame.refl _ _) rfl
  | get x0 x1 => exact execGet_frame x0 x1 s (Frame.refl _ _) rfl
  | add32 x0 x1 x2 => exact execAdd32_frame x0 x1 x2 s (Frame.refl _ _) rfl
  | add64 x0 x1 x2 => exact execAdd64_frame x0 x1 x2 s (Frame.refl _ _) rfl
  | ladd x0 x1 x2 => exact execLadd_frame x0 x1 x2 s (Frame.refl _ _) rfl
  | cas64 x0 => exact execCas64_frame x0 s (Frame.refl _ _) rfl
  | mput x0 => exact execMput_frame x0 s (Frame.refl _ _) rfl
  | arrive x0 => exact execArrive_frame x0 s (Frame.refl _ _) rfl
  | completion x0 => exact execCompletion_frame x0 s (Frame.refl _ _) rfl
  | getData x0 => exact execGetData_frame x0 s (Frame.refl _ _) rfl
  | registerAccess x0 => exact execRegisterAccess_frame x0 s (Frame.refl _ _) rfl
  | controlReport x0 => exact execControlReport_frame x0 s (Frame.refl _ _) rfl
  | hopTimeout x0 x1 => exact execHopTimeout_frame x0 x1 s (Frame.refl _ _) rfl
  | endToEndTimeout x0 x1 => exact execEndToEndTimeout_frame x0 x1 s (Frame.refl _ _) rfl
  | chtOpen x0 => exact execChtOpen_frame x0 s (Frame.refl _ _) rfl
  | chtMap x0 => exact execChtMap_frame x0 s (Frame.refl _ _) rfl
  | chtFork x0 => exact execChtFork_frame x0 s (Frame.refl _ _) rfl
  | chtAlloc x0 => exact execChtAlloc_frame x0 s (Frame.refl _ _) rfl
  | chtCow x0 => exact execChtCow_frame x0 s (Frame.refl _ _) rfl
  | chtAdv x0 => exact execChtAdv_frame x0 s (Frame.refl _ _) rfl
  | chtFree x0 => exact execChtFree_frame x0 s (Frame.refl _ _) rfl
  | chtPin x0 => exact execChtPin_frame x0 s (Frame.refl _ _) rfl
  | chtUnpin x0 => exact execChtUnpin_frame x0 s (Frame.refl _ _) rfl
  | rutLookup x0 => exact execRutLookup_frame x0 s (Frame.refl _ _) rfl
  | rutInsert x0 => exact execRutInsert_frame x0 s (Frame.refl _ _) rfl
  | rutEvict x0 => exact execRutEvict_frame x0 s (Frame.refl _ _) rfl
  | pageWindow x0 => exact execPageWindow_frame x0 s (Frame.refl _ _) rfl
  | appendWindow x0 => exact execAppendWindow_frame x0 s (Frame.refl _ _) rfl
  | chtEn x0 x1 => exact execChtEn_frame x0 x1 s (Frame.refl _ _) rfl
  | invAll x0 => exact execInvAll_frame x0 s (Frame.refl _ _) rfl
  | chtLock x0 => exact execChtLock_frame x0 s (Frame.refl _ _) rfl
  | chtHead x0 x1 => exact execChtHead_frame x0 x1 s (Frame.refl _ _) rfl
  | submit x0 x1 => exact execSubmit_frame x0 x1 s (Frame.refl _ _) rfl
  | cancel x0 => exact execCancel_frame x0 s (Frame.refl _ _) rfl
  | adapterPublish x0 => exact execAdapterPublish_frame x0 s (Frame.refl _ _) rfl
  | adapterRetire x0 => exact execAdapterRetire_frame x0 s (Frame.refl _ _) rfl
  | berthDisable x0 => exact execBerthDisable_frame x0 s (Frame.refl _ _) rfl
  | watchNotice x0 => exact execWatchNotice_frame x0 s (Frame.refl _ _) rfl
  | returnLine x0 => exact execReturnLine_frame x0 s (Frame.refl _ _) rfl
  | stepBoundary x0 => exact execStepBoundary_frame x0 s (Frame.refl _ _) rfl
  | stackCommitRelease x0 x1 => exact execStackCommitRelease_frame x0 x1 s (Frame.refl _ _) rfl
  | commitPoint x0 => exact execCommitPoint_frame x0 s (Frame.refl _ _) rfl
  | releaseRecord x0 x1 x2 => exact execReleaseRecord_frame x0 x1 x2 s (Frame.refl _ _) rfl
  | stepTimeout x0 => exact execStepTimeout_frame x0 s (Frame.refl _ _) rfl
  | helmEn x0 => exact execHelmEn_frame x0 s (Frame.refl _ _) rfl
  | hlmLock  => exact execHlmLock_frame  s (Frame.refl _ _) rfl
  | programBegin x0 => exact execProgramBegin_frame x0 s (Frame.refl _ _) rfl
  | programChunk x0 x1 => exact execProgramChunk_frame x0 x1 s (Frame.refl _ _) rfl
  | programEnd x0 => exact execProgramEnd_frame x0 s (Frame.refl _ _) rfl
  | activate x0 => exact execActivate_frame x0 s (Frame.refl _ _) rfl
  | erase x0 => exact execErase_frame x0 s (Frame.refl _ _) rfl
  | load x0 => exact execLoad_frame x0 s (Frame.refl _ _) rfl
  | stageAdapter x0 => exact execStageAdapter_frame x0 s (Frame.refl _ _) rfl
  | replace x0 => exact execReplace_frame x0 s (Frame.refl _ _) rfl
  | bootset x0 => exact execBootset_frame x0 s (Frame.refl _ _) rfl
  | portEn x0 x1 => exact execPortEn_frame x0 x1 s (Frame.refl _ _) rfl
  | receiverDetect x0 => exact execReceiverDetect_frame x0 s (Frame.refl _ _) rfl
  | trainingLimit x0 x1 => exact execTrainingLimit_frame x0 x1 s (Frame.refl _ _) rfl
  | identityFrame x0 x1 => exact execIdentityFrame_frame x0 x1 s (Frame.refl _ _) rfl
  | fleetFrame x0 x1 => exact execFleetFrame_frame x0 x1 s (Frame.refl _ _) rfl
  | linkReplayLimit x0 => exact execLinkReplayLimit_frame x0 s (Frame.refl _ _) rfl
  | discover  => exact execDiscover_frame  s (Frame.refl _ _) rfl
  | hail x0 x1 => exact execHail_frame x0 x1 s (Frame.refl _ _) rfl
  | discoverySettle  => exact execDiscoverySettle_frame  s (Frame.refl _ _) rfl
  | numbers x0 x1 => exact execNumbers_frame x0 x1 s (Frame.refl _ _) rfl
  | commit  => exact execCommit_frame  s (Frame.refl _ _) rfl
  | fltLock x0 => exact execFltLock_frame x0 s (Frame.refl _ _) rfl
  | timingFrame x0 => exact execTimingFrame_frame x0 s (Frame.refl _ _) rfl
  | offsetMeasure x0 => exact execOffsetMeasure_frame x0 s (Frame.refl _ _) rfl
  | slew  => exact execSlew_frame  s (Frame.refl _ _) rfl
  | watchBoundary  => exact execWatchBoundary_frame  s (Frame.refl _ _) rfl
  | arm  => exact execArm_frame  s (Frame.refl _ _) rfl
  | chrLock  => exact execChrLock_frame  s (Frame.refl _ _) rfl
  | agreementRecord x0 x1 x2 => exact execAgreementRecord_frame x0 x1 x2 s (Frame.refl _ _) rfl
  | fleetWaypointTimeout x0 => exact execFleetWaypointTimeout_frame x0 s (Frame.refl _ _) rfl
  | fixReq x0 => exact execFixReq_frame x0 s (Frame.refl _ _) rfl
  | sxtLock x0 => exact execSxtLock_frame x0 s (Frame.refl _ _) rfl
  | dogSlot x0 => exact execDogSlot_frame x0 s (Frame.refl _ _) rfl
  | idleCycle x0 => exact execIdleCycle_frame x0 s (Frame.refl _ _) rfl
  | groupComplete x0 x1 x2 x3 x4 => exact execGroupComplete_frame x0 x1 x2 x3 x4 s (Frame.refl _ _) rfl
  | passComplete x0 => exact execPassComplete_frame x0 s (Frame.refl _ _) rfl
  | ageingTrigger x0 => exact execAgeingTrigger_frame x0 s (Frame.refl _ _) rfl
  | demandStretch x0 => exact execDemandStretch_frame x0 s (Frame.refl _ _) rfl
  | tableEccError x0 x1 => exact execTableEccError_frame x0 x1 s (Frame.refl _ _) rfl
  | lnkEn x0 => exact execLnkEn_frame x0 s (Frame.refl _ _) rfl
  | retrain  => exact execRetrain_frame  s (Frame.refl _ _) rfl
  | lnkLock x0 => exact execLnkLock_frame x0 s (Frame.refl _ _) rfl
  | vilgerTrainingLimit  => exact execVilgerTrainingLimit_frame  s (Frame.refl _ _) rfl
  | vilgerFlit x0 x1 => exact execVilgerFlit_frame x0 x1 s (Frame.refl _ _) rfl
  | ackTimer x0 => exact execAckTimer_frame x0 s (Frame.refl _ _) rfl
  | hotReset  => exact execHotReset_frame  s (Frame.refl _ _) rfl
  | sni x0 => exact execSni_frame x0 s (Frame.refl _ _) rfl
  | dat x0 x1 x2 x3 => exact execDat_frame x0 x1 x2 x3 s (Frame.refl _ _) rfl
  | cmp x0 x1 x2 => exact execCmp_frame x0 x1 x2 s (Frame.refl _ _) rfl
  | regrd x0 x1 => exact execRegrd_frame x0 x1 s (Frame.refl _ _) rfl
  | regwr x0 x1 => exact execRegwr_frame x0 x1 s (Frame.refl _ _) rfl
  | dramCorrected x0 x1 => exact execDramCorrected_frame x0 x1 s (Frame.refl _ _) rfl
  | dramUncorrectable x0 => exact execDramUncorrectable_frame x0 s (Frame.refl _ _) rfl
  | heartbeat x0 => exact execHeartbeat_frame x0 s (Frame.refl _ _) rfl
  | heartbeatTimeout x0 => exact execHeartbeatTimeout_frame x0 s (Frame.refl _ _) rfl
  | watchdog  => exact execWatchdog_frame  s (Frame.refl _ _) rfl
  | logAppend  => exact execLogAppend_frame  s (Frame.refl _ _) rfl
  | stressTest x0 x1 => exact execStressTest_frame x0 x1 s (Frame.refl _ _) rfl
  | replayWatch x0 => exact execReplayWatch_frame x0 s (Frame.refl _ _) rfl
  | abandonNotice x0 x1 x2 => exact execAbandonNotice_frame x0 x1 x2 s (Frame.refl _ _) rfl
  | abandonRecord x0 x1 x2 => exact execAbandonRecord_frame x0 x1 x2 s (Frame.refl _ _) rfl
  | abandonNoticeTimeout x0 => exact execAbandonNoticeTimeout_frame x0 s (Frame.refl _ _) rfl
  | thermalStopEvent  => exact execThermalStopEvent_frame  s (Frame.refl _ _) rfl
  | thermalNotice x0 => exact execThermalNotice_frame x0 s (Frame.refl _ _) rfl
  | mainEn x0 => exact execMainEn_frame x0 s (Frame.refl _ _) rfl
  | chargeComplete  => exact execChargeComplete_frame  s (Frame.refl _ _) rfl
  | inrush  => exact execInrush_frame  s (Frame.refl _ _) rfl
  | vinuv  => exact execVinuv_frame  s (Frame.refl _ _) rfl
  | vinov  => exact execVinov_frame  s (Frame.refl _ _) rfl
  | busuv  => exact execBusuv_frame  s (Frame.refl _ _) rfl
  | busov  => exact execBusov_frame  s (Frame.refl _ _) rfl
  | powerSample x0 x1 => exact execPowerSample_frame x0 x1 s (Frame.refl _ _) rfl
  | pwrLock  => exact execPwrLock_frame  s (Frame.refl _ _) rfl
  | stackOn x0 x1 => exact execStackOn_frame x0 x1 s (Frame.refl _ _) rfl
  | stackPowerDone x0 => exact execStackPowerDone_frame x0 s (Frame.refl _ _) rfl
  | muxSwitch x0 => exact execMuxSwitch_frame x0 s (Frame.refl _ _) rfl
  | muxHang x0 => exact execMuxHang_frame x0 s (Frame.refl _ _) rfl
  | lossOfClock x0 => exact execLossOfClock_frame x0 s (Frame.refl _ _) rfl
  | fmeasGo x0 => exact execFmeasGo_frame x0 s (Frame.refl _ _) rfl
  | fmeasDone x0 x1 => exact execFmeasDone_frame x0 x1 s (Frame.refl _ _) rfl
  | poweron  => exact execPoweron_frame  s (Frame.refl _ _) rfl
  | bearingReset x0 => exact execBearingReset_frame x0 s (Frame.refl _ _) rfl
  | fltrst x0 x1 => exact execFltrst_frame x0 x1 s (Frame.refl _ _) rfl
  | blockReset  => exact execBlockReset_frame  s (Frame.refl _ _) rfl
  | idleAck x0 => exact execIdleAck_frame x0 s (Frame.refl _ _) rfl
  | quiesceTimeout x0 => exact execQuiesceTimeout_frame x0 s (Frame.refl _ _) rfl
  | blockRelease x0 => exact execBlockRelease_frame x0 s (Frame.refl _ _) rfl
  | domainRelease  => exact execDomainRelease_frame  s (Frame.refl _ _) rfl
  | preconditionTimeout  => exact execPreconditionTimeout_frame  s (Frame.refl _ _) rfl
  | bringupStep x0 => exact execBringupStep_frame x0 s (Frame.refl _ _) rfl
  | diodeRound x0 => exact execDiodeRound_frame x0 s (Frame.refl _ _) rfl
  | dramTemperature x0 x1 => exact execDramTemperature_frame x0 x1 s (Frame.refl _ _) rfl
  | grace  => exact execGrace_frame  s (Frame.refl _ _) rfl
  | hostq x0 => exact execHostq_frame x0 s (Frame.refl _ _) rfl
  | bearingRead x0 => exact execBearingRead_frame x0 s (Frame.refl _ _) rfl
  | bearingWrite x0 => exact execBearingWrite_frame x0 s (Frame.refl _ _) rfl
  | bearingState  => exact execBearingState_frame  s (Frame.refl _ _) rfl
  | logread x0 => exact execLogread_frame x0 s (Frame.refl _ _) rfl
  | lifecycleAdvance x0 => exact execLifecycleAdvance_frame x0 s (Frame.refl _ _) rfl
  | fuseProgram x0 => exact execFuseProgram_frame x0 s (Frame.refl _ _) rfl
  | devtableCommit x0 => exact execDevtableCommit_frame x0 s (Frame.refl _ _) rfl
  | imageSlotSelect x0 => exact execImageSlotSelect_frame x0 s (Frame.refl _ _) rfl
  | longdone x0 => exact execLongdone_frame x0 s (Frame.refl _ _) rfl
  | longOverrun  => exact execLongOverrun_frame  s (Frame.refl _ _) rfl
  | sequencePass  => exact execSequencePass_frame  s (Frame.refl _ _) rfl
  | fastPair  => exact execFastPair_frame  s (Frame.refl _ _) rfl
  | urgentRequest  => exact execUrgentRequest_frame  s (Frame.refl _ _) rfl
  | conversionDone x0 => exact execConversionDone_frame x0 s (Frame.refl _ _) rfl
  | refbufEn x0 => exact execRefbufEn_frame x0 s (Frame.refl _ _) rfl
  | refRdy  => exact execRefRdy_frame  s (Frame.refl _ _) rfl
  | attest  => exact execAttest_frame  s (Frame.refl _ _) rfl
  | testreq  => exact execTestreq_frame  s (Frame.refl _ _) rfl
  | mfLoad x0 => exact execMfLoad_frame x0 s (Frame.refl _ _) rfl
  | fwLoad x0 => exact execFwLoad_frame x0 s (Frame.refl _ _) rfl
  | zeroise  => exact execZeroise_frame  s (Frame.refl _ _) rfl
  | tapBypass  => exact execTapBypass_frame  s (Frame.refl _ _) rfl
  | tapIdcode  => exact execTapIdcode_frame  s (Frame.refl _ _) rfl
  | tapSamplePreload  => exact execTapSamplePreload_frame  s (Frame.refl _ _) rfl
  | tapExtest  => exact execTapExtest_frame  s (Frame.refl _ _) rfl
  | equalisationDone x0 => exact execEqualisationDone_frame x0 s (Frame.refl _ _) rfl
  | fecLock x0 => exact execFecLock_frame x0 s (Frame.refl _ _) rfl
  | vilgerReceiverDetection  => exact execVilgerReceiverDetection_frame  s (Frame.refl _ _) rfl
  | vilgerEqualisationDone x0 x1 => exact execVilgerEqualisationDone_frame x0 x1 s (Frame.refl _ _) rfl
  | flitBoundaryLock  => exact execFlitBoundaryLock_frame  s (Frame.refl _ _) rfl
  | identityExchange x0 x1 => exact execIdentityExchange_frame x0 x1 s (Frame.refl _ _) rfl
  | retrainDone x0 => exact execRetrainDone_frame x0 s (Frame.refl _ _) rfl
  | crossingFlitError x0 => exact execCrossingFlitError_frame x0 s (Frame.refl _ _) rfl
  | crossingRetrainDone x0 x1 => exact execCrossingRetrainDone_frame x0 x1 s (Frame.refl _ _) rfl
  | pllLock x0 x1 => exact execPllLock_frame x0 x1 s (Frame.refl _ _) rfl
  | vbusInRegulation  => exact execVbusInRegulation_frame  s (Frame.refl _ _) rfl
  | powerLoss  => exact execPowerLoss_frame  s (Frame.refl _ _) rfl
  | clockReturn x0 => exact execClockReturn_frame x0 s (Frame.refl _ _) rfl
  | logBucketBoundary x0 => exact execLogBucketBoundary_frame x0 s (Frame.refl _ _) rfl
  | bearingRequestFormat x0 => exact execBearingRequestFormat_frame x0 s (Frame.refl _ _) rfl
  | binnacleEccHalt  => exact execBinnacleEccHalt_frame  s (Frame.refl _ _) rfl

end Sys2Proof.Machine
end

