-- ==== Sys2Proof/Laws/Issue.lean ====
section
/-!
SUPPORT. What running a unit's change on a tile leaves of the machine, and that an instruction that issues has its opcode's effect.
-/

namespace Sys2Proof.Machine

open Sys2Proof.Claims

theorem sendPackets_net (s : State) (k : Nat) (ps : List Packet) : (sendPackets s k ps).net = s.net ++ ps := by
  unfold sendPackets
  induction ps generalizing s with
  | nil => simp
  | cons p ps ih => rw [List.foldl_cons, ih]; simp [sendPacket_net]

/-- Two machines with the same registers, cycle and fleet state. -/
def Alike (s t : State) : Prop := t.regs = s.regs ∧ t.cyc = s.cyc ∧ t.fleet = s.fleet

theorem Alike.rget {s t : State} (h : Alike s t) (k : Nat) (f : Fld) (i : Nat) : rget t k f i = rget s k f i :=
  rget_congr s t h.1 k f i

theorem Alike.rput {s t : State} (h : Alike s t) (k : Nat) (f : Fld) (v i : Nat) : Alike (rput s k f v i) (rput t k f v i) :=
  ⟨by simp only [Machine.rput, setRword, rword, h.1], h.2⟩

theorem Alike.rbump {s t : State} (h : Alike s t) (k : Nat) (f : Fld) (n : Nat) : Alike (rbump s k f n) (rbump t k f n) := by
  unfold Machine.rbump
  rw [h.rget]
  exact h.rput _ _ _ _

theorem Alike.noteWaits {s t : State} (h : Alike s t) (k0 k ch : Nat) : Alike (noteWaits s k0 k ch) (noteWaits t k0 k ch) := by
  unfold Machine.noteWaits
  dsimp only
  rw [h.rget k0, h.2.1]
  generalize 8 * Machine.rget s k0 (flitCounter ch) + k0 = n
  have h1 : Alike (if 2 ≤ ch then Machine.rbump s k STK_STARVE (Config.starved k n s.cyc) else s)
      (if 2 ≤ ch then Machine.rbump t k STK_STARVE (Config.starved k n s.cyc) else t) := by
    split
    · exact h.rbump _ _ _
    · exact h
  revert h1
  generalize (if 2 ≤ ch then Machine.rbump s k STK_STARVE (Config.starved k n s.cyc) else s) = a
  generalize (if 2 ≤ ch then Machine.rbump t k STK_STARVE (Config.starved k n s.cyc) else t) = b
  intro h1
  rw [h1.rget, h1.rget]
  split <;> split
  · exact ((h1.rput _ _ _ _).rput _ _ _ _).rput _ _ _ _
  · exact h1.rput _ _ _ _
  · exact (h1.rput _ _ _ _).rput _ _ _ _
  · exact h1

theorem Alike.crossFlits {s t : State} (h : Alike s t) (k j ch n : Nat) : Alike (crossFlits s k j ch n) (crossFlits t k j ch n) := by
  unfold Machine.crossFlits countFlits
  have h1 := (h.rbump k (flitCounter ch) n).noteWaits k k ch
  generalize Machine.noteWaits (Machine.rbump s k (flitCounter ch) n) k k ch = a at h1 ⊢
  generalize Machine.noteWaits (Machine.rbump t k (flitCounter ch) n) k k ch = b at h1 ⊢
  generalize crossedStacks 4 k j = l
  induction l generalizing a b with
  | nil => exact h1
  | cons x l ih => exact ih _ _ (h1.noteWaits k x ch)

theorem Alike.exitStack {s t : State} (h : Alike s t) (p : Packet) : exitStack t p = exitStack s p := by
  simp only [Machine.exitStack, moduleNo, routeChoice, pget, h.rget, h.2.2]
  rfl

/-- What a packet's entry leaves of the registers depends on the registers, the cycle and the fleet's state alone. -/
theorem Alike.sendPacket {s t : State} (h : Alike s t) (k : Nat) (p : Packet) : Alike (sendPacket s k p) (sendPacket t k p) := by
  have h1 : Alike { s with net := s.net ++ [p] } { t with net := t.net ++ [p] } := h
  unfold Machine.sendPacket
  rw [h.exitStack]
  exact h1.crossFlits _ _ _ _

theorem Alike.sendPackets {s t : State} (h : Alike s t) (k : Nat) (ps : List Packet) : Alike (sendPackets s k ps) (sendPackets t k ps) := by
  unfold Machine.sendPackets
  induction ps generalizing s t with
  | nil => exact h
  | cons p ps ih => exact ih (h.sendPacket k p)

theorem sendPackets_rword (s t : State) (h : Alike s t) (k : Nat) (ps : List Packet) (k2 off : Nat) :
    rword (sendPackets t k ps) k2 off = rword (sendPackets s k ps) k2 off := by
  simp only [rword, (h.sendPackets k ps).1]

theorem logCount_tiles (s : State) (u : UnitRef) (r : Bool) (n c : Nat) : (logCount s u r n c).1.tiles = s.tiles :=
  ((logCount_frame (fm := [.log]) s u r n c (Frame.refl _ _) (by decide)).tiles).resolve_left (by decide)

/-- A tile once some of its check events are logged: it may have become demotion-pending. -/
def Pended (s s' : State) (k site : Nat) : Prop :=
  (∃ d, tileAt s' k site = { tileAt s k site with demotePend := d }) ∧
    ∀ k2 site2, tileKey k2 site2 ≠ tileKey k site → tileAt s' k2 site2 = tileAt s k2 site2

theorem Pended.refl (s : State) (k site : Nat) : Pended s s k site := ⟨⟨_, rfl⟩, fun _ _ _ => rfl⟩

theorem Pended.trans {s t u : State} {k site : Nat} (a : Pended s t k site) (b : Pended t u k site) :
    Pended s u k site := by
  obtain ⟨⟨d, hd⟩, ho⟩ := a
  obtain ⟨⟨d', hd'⟩, ho'⟩ := b
  exact ⟨⟨d', by rw [hd', hd]⟩, fun k2 s2 h => (ho' k2 s2 h).trans (ho k2 s2 h)⟩

theorem Pended.of_tiles {s t : State} (h : t.tiles = s.tiles) (k site : Nat) : Pended s t k site :=
  ⟨⟨_, tileAt_congr s t h k site⟩, fun _ _ _ => tileAt_congr s t h _ _⟩

theorem pendDemotion_pended (s : State) (k site : Nat) : Pended s (pendDemotion s k site) k site :=
  ⟨⟨_, tileAt_putTile s k site _⟩, fun _ _ h => tileAt_putTile_ne s _ _ _ _ _ h⟩

theorem groupEvent_pended (s : State) (k site g : Nat) (r : Bool) : Pended s (groupEvent s k site g r) k site := by
  unfold groupEvent
  have h := Pended.of_tiles (logCount_tiles s (groupUnit k site g) r 1 0) k site
  dsimp only
  split
  · exact h.trans (pendDemotion_pended _ _ _)
  · exact h

theorem Pended.foldl {β : Type} {k site : Nat} (l : List β) (f : State → β → State)
    (hf : ∀ s x, Pended s (f s x) k site) (s : State) : Pended s (l.foldl f s) k site := by
  induction l generalizing s with
  | nil => exact .refl _ _ _
  | cons x l ih => exact (hf s x).trans (ih _)

theorem logCheck_pended (k site : Nat) (s : State) (e : CheckEvent) : Pended s (logCheck k site s e) k site := by
  unfold logCheck
  have h := Pended.foldl (eventGroups e) (fun s g => groupEvent s k site g e.repeated)
    (fun s g => groupEvent_pended s k site g e.repeated) s
  dsimp only
  split
  · exact h.trans (Pended.of_tiles rfl _ _)
  · exact h

/-- Logging a tile's check events empties them and may make the tile demotion-pending. -/
theorem drainChecks_tile (s : State) (k site : Nat) :
    (∃ d, tileAt (drainChecks s k site) k site = { tileAt s k site with events := [], demotePend := d }
      ∧ ((tileAt s k site).events = [] → d = (tileAt s k site).demotePend)) ∧
    (∀ k2 site2, tileKey k2 site2 ≠ tileKey k site → tileAt (drainChecks s k site) k2 site2 = tileAt s k2 site2) := by
  unfold drainChecks
  dsimp only
  split
  · rename_i h
    rw [List.isEmpty_iff] at h
    exact ⟨⟨_, by rw [← h], fun _ => rfl⟩, fun _ _ _ => rfl⟩
  · rename_i h
    obtain ⟨⟨d, hd⟩, ho⟩ := Pended.foldl (tileAt s k site).events (logCheck k site) (logCheck_pended k site)
      (putTile s k site { tileAt s k site with events := [] })
    refine ⟨⟨d, ?_, fun g => absurd (List.isEmpty_iff.mpr g) h⟩, fun k2 s2 hn => ?_⟩
    · rw [hd, tileAt_putTile]
    · rw [ho _ _ hn, tileAt_putTile_ne _ _ _ _ _ _ hn]

theorem drainChecks_log (s : State) (k site : Nat) (h : (tileAt s k site).events = []) : drainChecks s k site = s := by
  simp [drainChecks, h]

theorem elapse_cyc (s : State) (n : Nat) : (elapse s n).cyc = s.cyc + n := by unfold elapse; split <;> rfl

theorem elapseTo_cyc (s : State) (c : Nat) : (elapseTo s c).cyc = max s.cyc c := by
  rw [elapseTo, elapse_cyc]; omega

end Sys2Proof.Machine

namespace Sys2Proof.Machine

open Sys2Proof.Claims

theorem elapse_tileAt (s : State) (n k site : Nat) : tileAt (elapse s n) k site = tileAt s k site := by
  unfold elapse; split <;> rfl

theorem elapse_siteOf (s : State) (n k l : Nat) : siteOf (elapse s n) k l = siteOf s k l :=
  siteOf_congr _ _ (by unfold elapse; split <;> rfl) _ _

/-- What a tile's run leaves: `g`'s tile, time at its cycle, its packets and reports, and nothing else changed. -/
theorem onTile_ran (s : State) (r : TileRef) (g : Ctx → Tile → Tile × List Packet × Nat) (site k : Nat) (t' : Tile)
    (ps : List Packet) (hs : siteOf s r.stack.toNat r.tile.toNat = some site)
    (hg : g (ctxOf s r) (tileAt s r.stack.toNat site) = (t', ps, k)) (hk : s.cyc ≤ k) :
    Ran s (onTile s r g) r site k t' ps := by
  have hf := onTile_frame (fm := [.cyc, .tick, .tfrac, .regs, .tiles, .net, .reports, .log]) (b0 := s) s r
  unfold onTile
  rw [hs]
  dsimp only
  rw [hg]
  dsimp only
  set s1 := elapseTo (putTile s r.stack.toNat site t') k with hs1
  set s2 : State := { s1 with reports := s1.reports ++ faultReports (tileAt s r.stack.toNat site) t' r } with hs2
  set s3 := sendPackets s2 r.stack.toNat ps with hs3
  have f1 := elapseTo_frame (fm := [.cyc, .tick, .tfrac]) (b0 := putTile s r.stack.toNat site t') _ k (Frame.refl _ _)
    (by decide)
  have f3 := sendPackets_frame (fm := [.regs, .net]) (b0 := s2) s2 r.stack.toNat ps (Frame.refl _ _) (by decide)
  have f4 := drainChecks_frame (fm := [.tiles, .log]) (b0 := s3) s3 r.stack.toNat site (Frame.refl _ _) (by decide)
  rw [← hs1] at f1
  rw [← hs3] at f3
  have t3 : s3.tiles = (putTile s r.stack.toNat site t').tiles :=
    (f3.tiles.resolve_left (by decide)).trans (f1.tiles.resolve_left (by decide))
  have e3 : tileAt s3 r.stack.toNat site = t' := by rw [tileAt_congr _ _ t3, tileAt_putTile]
  obtain ⟨ht, ho⟩ := drainChecks_tile s3 r.stack.toNat site
  rw [e3] at ht
  have regs1 : s2.regs = s.regs := (f1.regs.resolve_left (by decide))
  have f4r : ∀ {α : Type} {p : State → α}, True := fun {_ _} => trivial
  constructor
  · rw [(f4.cyc.resolve_left (by decide)), (f3.cyc.resolve_left (by decide))]
    show s1.cyc = k
    rw [hs1, elapseTo_cyc]
    show max s.cyc k = k
    omega
  · rw [(f4.slot0.resolve_left (by decide)), (f3.slot0.resolve_left (by decide))]
    exact (f1.slot0.resolve_left (by decide))
  · exact ht
  · intro k2 site2 hn
    rw [ho _ _ hn, tileAt_congr _ _ t3, tileAt_putTile_ne _ _ _ _ _ _ hn]
  · intro a
    rw [(f4.dram.resolve_left (by decide)), (f3.dram.resolve_left (by decide))]
    rw [show s2.dram = s.dram from (f1.dram.resolve_left (by decide))]
  · rw [(f4.net.resolve_left (by decide)), hs3, sendPackets_net]
    rw [show s2.net = s.net from (f1.net.resolve_left (by decide))]
  · intro k2 off
    rw [show rword (drainChecks s3 r.stack.toNat site) k2 off = rword s3 k2 off by
      simp only [rword, f4.regs.resolve_left (by decide)]]
    refine sendPackets_rword { s with cyc := k } s2 ⟨regs1, ?_, f1.fleet.resolve_left (by decide)⟩ _ _ _ _
    show s1.cyc = k
    rw [hs1, elapseTo_cyc]
    show max s.cyc k = k
    omega
  · rw [(f4.reports.resolve_left (by decide)), (f3.reports.resolve_left (by decide))]
    show s1.reports ++ _ = _
    rw [show s1.reports = s.reports from (f1.reports.resolve_left (by decide))]
  · intro he
    rw [drainChecks_log s3 _ _ (by rw [e3]; exact he)]
    exact (f3.log.resolve_left (by decide)).trans (f1.log.resolve_left (by decide))
  · refine ⟨?_, ?_, ?_, ?_, ?_, ?_, ?_, ?_, ?_, ?_, ?_, ?_, ?_, ?_, ?_⟩
    · exact (f4.free.resolve_left (by decide)).trans ((f3.free.resolve_left (by decide)).trans (f1.free.resolve_left (by decide)))
    · exact (f4.stk.resolve_left (by decide)).trans ((f3.stk.resolve_left (by decide)).trans (f1.stk.resolve_left (by decide)))
    · exact (f4.vil.resolve_left (by decide)).trans ((f3.vil.resolve_left (by decide)).trans (f1.vil.resolve_left (by decide)))
    · exact (f4.fleet.resolve_left (by decide)).trans ((f3.fleet.resolve_left (by decide)).trans (f1.fleet.resolve_left (by decide)))
    · exact (f4.chr.resolve_left (by decide)).trans ((f3.chr.resolve_left (by decide)).trans (f1.chr.resolve_left (by decide)))
    · exact (f4.serve.resolve_left (by decide)).trans ((f3.serve.resolve_left (by decide)).trans (f1.serve.resolve_left (by decide)))
    · exact (f4.img.resolve_left (by decide)).trans ((f3.img.resolve_left (by decide)).trans (f1.img.resolve_left (by decide)))
    · exact (f4.pwr.resolve_left (by decide)).trans ((f3.pwr.resolve_left (by decide)).trans (f1.pwr.resolve_left (by decide)))
    · exact (f4.rst.resolve_left (by decide)).trans ((f3.rst.resolve_left (by decide)).trans (f1.rst.resolve_left (by decide)))
    · exact (f4.bnc.resolve_left (by decide)).trans ((f3.bnc.resolve_left (by decide)).trans (f1.bnc.resolve_left (by decide)))
    · exact (f4.snd.resolve_left (by decide)).trans ((f3.snd.resolve_left (by decide)).trans (f1.snd.resolve_left (by decide)))
    · exact (f4.lsr.resolve_left (by decide)).trans ((f3.lsr.resolve_left (by decide)).trans (f1.lsr.resolve_left (by decide)))
    · exact (f4.tap.resolve_left (by decide)).trans ((f3.tap.resolve_left (by decide)).trans (f1.tap.resolve_left (by decide)))
    · exact (f4.answers.resolve_left (by decide)).trans ((f3.answers.resolve_left (by decide)).trans (f1.answers.resolve_left (by decide)))
    · exact (f4.pending.resolve_left (by decide)).trans ((f3.pending.resolve_left (by decide)).trans (f1.pending.resolve_left (by decide)))

end Sys2Proof.Machine

namespace Sys2Proof.Machine

open Sys2Proof.Claims

theorem Ran.of_elapse {s s' : State} {n : Nat} {r : TileRef} {site k : Nat} {t' : Tile} {ps : List Packet}
    (h : Ran (elapse s n) s' r site k t' ps) : Ran s s' r site k t' ps := by
  have f := elapse_frame (fm := [.cyc, .tick, .tfrac]) (b0 := s) s n (Frame.refl _ _) (by decide)
  constructor
  · exact h.cyc
  · exact h.slot0.trans (f.slot0.resolve_left (by decide))
  · exact h.tile
  · intro k2 s2 hn; rw [h.tiles _ _ hn, elapse_tileAt]
  · intro a; rw [h.dram, f.dram.resolve_left (by decide)]
  · rw [h.net, f.net.resolve_left (by decide)]
  · intro k2 off; rw [h.regs, sendPackets_rword { s with cyc := k } { elapse s n with cyc := k }
      ⟨f.regs.resolve_left (by decide), rfl, f.fleet.resolve_left (by decide)⟩]
  · rw [h.reports, f.reports.resolve_left (by decide), elapse_tileAt]
  · intro he; rw [h.log he, f.log.resolve_left (by decide)]
  · obtain ⟨h1, h2, h3, h4, h5, h6, h7, h8, h9, h10, h11, h12, h13, h14, h15⟩ := h.rest
    exact ⟨h1.trans (f.free.resolve_left (by decide)), h2.trans (f.stk.resolve_left (by decide)),
      h3.trans (f.vil.resolve_left (by decide)), h4.trans (f.fleet.resolve_left (by decide)),
      h5.trans (f.chr.resolve_left (by decide)), h6.trans (f.serve.resolve_left (by decide)),
      h7.trans (f.img.resolve_left (by decide)), h8.trans (f.pwr.resolve_left (by decide)),
      h9.trans (f.rst.resolve_left (by decide)), h10.trans (f.bnc.resolve_left (by decide)),
      h11.trans (f.snd.resolve_left (by decide)), h12.trans (f.lsr.resolve_left (by decide)),
      h13.trans (f.tap.resolve_left (by decide)), h14.trans (f.answers.resolve_left (by decide)),
      h15.trans (f.pending.resolve_left (by decide))⟩

theorem phase1From_le (a k : Nat) : k ≤ phase1From a k := by unfold phase1From; omega

theorem earliest_le (c : Ctx) (t : Tile) (e : Engine) (phased : Bool) (u : OpUnit) : c.now ≤ earliest c t e phased u := by
  unfold earliest
  dsimp only
  have hb : ∀ b, c.now ≤ b → c.now ≤ if phased = true then phase1From c.slot0 b else b := fun b h => by
    split
    · exact h.trans (phase1From_le _ _)
    · exact h
  apply hb
  split
  · exact (Nat.le_max_left _ _).trans (Nat.le_max_left _ _)
  · exact Nat.le_max_left _ _

theorem issueNow_eq (c : Ctx) (t : Tile) (e : Engine) (op : Nat) (n : Enc) (u : OpUnit)
    (hc : u.check (issued t e n c.now) = none) :
    issueNow c t e (match opRow e op with | some r => r.cls | none => 0) n u =
      u.run c (issued t e n c.now) (flight t e op n c.now) := by
  have key : ∀ (t4 : Tile), t4 = issued t e n c.now → ∀ fl, fl = flight t e op n c.now → ∀ pc,
      (match u.check t4 with | some cause => (tileFault t4 cause (engCode e) pc, []) | none => u.run c t4 fl) =
      u.run c (issued t e n c.now) (flight t e op n c.now) := by
    intro t4 h4 fl hf pc; subst h4 hf; rw [hc]
  unfold issueNow
  apply key
  · unfold issued taken postsTo
    by_cases h2 : n.fmt.toNat < 2 <;> by_cases hw : encWQ n = 0 <;>
      cases ht : tokenAt t (encWQ n) c.now <;> simp [h2, hw, ht]
  · unfold flight taken postsTo
    by_cases h2 : n.fmt.toNat < 2 <;> by_cases hw : encWQ n = 0 <;> simp [h2, hw] <;> rfl

/-- An instruction that issues runs its opcode's effect on the tile with issue done. -/
theorem issues_reach {s : State} {e : Engine} {op : Nat} {i : Issue} {phased : Bool} {u : OpUnit} {site k : Nat}
    (h : Issues s e op i phased u site k) :
    reach (reachCtx s i) (tileAt s i.tile.stack.toNat site) e op i.enc phased u =
      (bankTokens (u.run { reachCtx s i with now := k } (issued (found s i site k) e i.enc k)
          (flight (found s i site k) e op i.enc k)).1 k,
        (u.run { reachCtx s i with now := k } (issued (found s i site k) e i.enc k)
          (flight (found s i site k) e op i.enc k)).2, k) ∧ (reachCtx s i).now ≤ k := by
  obtain ⟨hm, hr, hh, hl, hck, hcy, hru, hw, hp, hrd, hop⟩ := h
  have hn := issueNow_eq { reachCtx s i with now := k } (found s i site k) e op i.enc u hop
  unfold reach
  dsimp only
  rw [hr, hh, hl, hck]
  simp only [Bool.not_true, Bool.or_self, Bool.false_eq_true, if_false]
  by_cases hf : i.enc.fmt = 0
  · rw [if_pos hf] at hcy
    obtain ⟨h1, h2, h3, h4, h5⟩ := hcy
    have hf2 : i.enc.fmt.toNat < 2 := by rw [hf]; decide
    have c1 : (decide ((reachCtx s i).len ≤ effSlot (settleBefore (reachCtx s i).now (tileAt s i.tile.stack.toNat site)) e i.enc)
        || phased && effSlot (settleBefore (reachCtx s i).now (tileAt s i.tile.stack.toNat site)) e i.enc % 3 != 1) = false := by
      rw [decide_eq_false (by omega), Bool.false_or]
      cases phased with
      | false => rfl
      | true => simp [h2 rfl]
    have c2 : ¬ (reachCtx s i).slot0 + effSlot (settleBefore (reachCtx s i).now (tileAt s i.tile.stack.toNat site)) e i.enc
        < (reachCtx s i).now := by omega
    rw [if_pos hf, if_neg (by rw [c1]; decide), if_neg c2, ← h4]
    refine ⟨?_, h3⟩
    have : issueSlotted { reachCtx s i with now := k } (found s i site k) e
        (match opRow e op with | some r => r.cls | none => 0) i.enc u =
        u.run { reachCtx s i with now := k } (issued (found s i site k) e i.enc k)
          (flight (found s i site k) e op i.enc k) := by
      unfold issueSlotted
      dsimp only
      rw [hru]
      simp only [Bool.not_true, Bool.false_eq_true, if_false]
      rw [if_neg (fun hx => by have := hw hf2 hx.1; rw [hx.2] at this; exact absurd this (by decide)),
        if_neg (fun hx => by have := hp hf2 hx.1; rw [this] at hx; exact absurd hx.2 (by decide)), if_neg (by omega)]
      rcases hrd with hrd | ⟨j, hj, hrd⟩
      · rw [hrd]; exact hn
      · rw [hrd]; simp only [hj, if_true]; exact hn
    rw [← this]; rfl
  · rw [if_neg hf] at hcy
    rw [if_neg hf, ← hcy]
    refine ⟨?_, hcy ▸ earliest_le _ _ _ _ _⟩
    have : issueFree { reachCtx s i with now := k } (found s i site k) e
        (match opRow e op with | some r => r.cls | none => 0) i.enc u (wordOf op i.enc)
        (max (reachCtx s i).now (engOf (settleBefore (reachCtx s i).now (tileAt s i.tile.stack.toNat site)) e).nextIssue) =
        u.run { reachCtx s i with now := k } (issued (found s i site k) e i.enc k)
          (flight (found s i site k) e op i.enc k) := by
      unfold issueFree
      dsimp only
      have hq : queuesReady (found s i site k) i.enc k = true := by
        unfold queuesReady
        by_cases h2 : 2 ≤ i.enc.fmt.toNat
        · simp [h2]
        · have h2' : i.enc.fmt.toNat < 2 := by omega
          simp only [h2, decide_false, Bool.false_or, Bool.and_eq_true, Bool.or_eq_true, decide_eq_true_eq]
          exact ⟨(em _).imp_right (hw h2'), (em _).imp_right (hp h2')⟩
      rw [hru, hq]
      simp only [Bool.not_true, Bool.false_eq_true, if_false]
      rcases hrd with hrd | ⟨j, hj, hrd⟩
      · rw [hrd]; exact hn
      · rw [hrd]; simp only [hj, if_true]; exact hn
    rw [← this]; rfl

/-- An instruction that issues: the machine with its opcode's effect. -/
theorem runIssue_ran {s : State} {e : Engine} {op : Nat} {i : Issue} {phased : Bool} {u : OpUnit} {site k : Nat}
    (h : Issues s e op i phased u site k) {t' : Tile} {ps : List Packet}
    (hu : u.run { reachCtx s i with now := k } (issued (found s i site k) e i.enc k)
      (flight (found s i site k) e op i.enc k) = (t', ps)) :
    Ran s (runIssue s e op i phased u) i.tile site k (bankTokens t' k) ps := by
  obtain ⟨h1, h2⟩ := issues_reach h
  rw [hu] at h1
  apply Ran.of_elapse (n := i.dt)
  apply onTile_ran (elapse s i.dt) i.tile _ site k _ _ (by rw [elapse_siteOf]; exact h.mapped)
  · rw [elapse_tileAt]; exact h1
  · exact h2

end Sys2Proof.Machine

namespace Sys2Proof.Machine

/-- The registers that a flit's entry may change in its stack: the flit counters and the network's waits. -/
def flitRegs : List Nat := [0x80, 0x84, 0x88, 0x8C, 0x98, 0xC, 0x8]

theorem rword_rput_ne (s : State) (k k2 off : Nat) (f : Fld) (v : Nat) (h : regKey k2 off ≠ regKey k (f.off + f.stride * 0)) :
    rword (rput s k f v) k2 off = rword s k2 off := by
  unfold rput
  rw [rword_setRword, if_neg h]

theorem noteWaits_rword (s : State) (k0 k ch k2 off : Nat) (h : ∀ o ∈ flitRegs, regKey k2 off ≠ regKey k o) :
    rword (noteWaits s k0 k ch) k2 off = rword s k2 off := by
  unfold noteWaits
  dsimp only
  unfold rset rbump
  split <;> split <;> split <;> first
    | with_reducible rfl
    | (repeat first
        | rw [rword_rput_ne _ _ _ _ STK_NOC_FAULT_CREDIT _ (h _ (by decide))]
        | rw [rword_rput_ne _ _ _ _ STK_WPWAIT_MESH _ (h _ (by decide))]
        | rw [rword_rput_ne _ _ _ _ STK_WPWAIT_XING _ (h _ (by decide))]
        | rw [rword_rput_ne _ _ _ _ STK_STARVE _ (h _ (by decide))])

theorem countFlits_rword (s : State) (k ch n k2 off : Nat) (h : ∀ o ∈ flitRegs, regKey k2 off ≠ regKey k o) :
    rword (countFlits s k ch n) k2 off = rword s k2 off := by
  unfold countFlits
  rw [noteWaits_rword _ _ _ _ _ _ h]
  unfold rbump
  apply rword_rput_ne
  unfold flitCounter
  repeat' split
  all_goals exact h _ (by decide)

theorem crossFlits_rword (s : State) (k j ch n k2 off : Nat) (h : ∀ x, ∀ o ∈ flitRegs, regKey k2 off ≠ regKey x o) :
    rword (crossFlits s k j ch n) k2 off = rword s k2 off := by
  unfold crossFlits
  rw [← countFlits_rword s k ch n k2 off (h k)]
  generalize countFlits s k ch n = a
  generalize crossedStacks 4 k j = l
  induction l generalizing a with
  | nil => rfl
  | cons x l ih => rw [List.foldl_cons, ih, noteWaits_rword _ _ _ _ _ _ (h x)]

theorem sendPacket_rword (s : State) (k k2 off : Nat) (p : Packet) (h : ∀ x, ∀ o ∈ flitRegs, regKey k2 off ≠ regKey x o) :
    rword (sendPacket s k p) k2 off = rword s k2 off := crossFlits_rword _ _ _ _ _ _ _ h

/-- Packets change no register but those of the flits of the stacks that they enter and cross. -/
theorem sendPackets_rword_other (s : State) (k k2 off : Nat) (ps : List Packet)
    (h : ∀ x, ∀ o ∈ flitRegs, regKey k2 off ≠ regKey x o) : rword (sendPackets s k ps) k2 off = rword s k2 off := by
  unfold sendPackets
  induction ps generalizing s with
  | nil => rfl
  | cons p ps ih => rw [List.foldl_cons, ih, sendPacket_rword _ _ _ _ _ h]

theorem siteOf_of_rword (s t : State) (k l : Nat) (h : rword t k (0x400 + 4 * (l / 2)) = rword s k (0x400 + 4 * (l / 2))) :
    siteOf t k l = siteOf s k l := by
  have e : ∀ f : Fld, f.off = 0x400 → f.stride = 4 → rget t k f (l / 2) = rget s k f (l / 2) := by
    intro f h1 h2; simp only [rget, h1, h2, h]
  simp only [siteOf, ron, e STK_RT_MAP_VALID0 rfl rfl, e STK_RT_MAP_VALID1 rfl rfl, e STK_RT_MAP_SITE0 rfl rfl,
    e STK_RT_MAP_SITE1 rfl rfl]
  rfl

open Sys2Proof.Claims in

theorem Ran_siteOf {s s' : State} {r r2 : TileRef} {site k : Nat} {t' : Tile} {ps : List Packet}
    (h : Ran s s' r site k t' ps) : siteOf s' r2.stack.toNat r2.tile.toNat = siteOf s r2.stack.toNat r2.tile.toNat := by
  apply siteOf_of_rword
  rw [h.regs, sendPackets_rword_other]
  · rfl
  intro x o ho
  have := r2.tile.isLt
  simp only [flitRegs, List.mem_cons, List.not_mem_nil, or_false] at ho
  unfold regKey
  omega

end Sys2Proof.Machine
end

