-- ==== Sys2Proof/Laws/Touch.lean ====
section
/-!
SUPPORT. Which parts of the machine and which registers an operation touches: how frames, chains and register writes give it.
-/

namespace Sys2Proof.Claims

open Sys2Proof Sys2Proof.Machine

/-- The component of a part. -/
def compOf : Part → Component
  | .cyc => .cyc | .slot0 => .slot0 | .tick => .tick | .tfrac => .tfrac | .regs => .regs | .tiles => .tiles
  | .dram => .dram | .net => .net | .reports => .reports | .free => .free | .stk => .stk | .vil => .vil
  | .fleet => .fleet | .chr => .chr | .serve => .serve | .img => .img | .log => .log | .pwr => .pwr | .rst => .rst
  | .bnc => .bnc | .snd => .snd | .lsr => .lsr | .tap => .tap | .answers => .answers | .pending => .pending

theorem only_of_frame {m : List Part} {s t : State} (h : Machine.Frame m s t) : changesOnly (m.map compOf) s t := by
  intro p hp
  have key : ∀ q : Part, compOf q = p → ¬ m.contains q = true := fun q hq hc =>
    hp (List.mem_map.mpr ⟨q, by simpa using hc, hq⟩)
  cases p
  · exact h.cyc.resolve_left (key .cyc rfl)
  · exact h.slot0.resolve_left (key .slot0 rfl)
  · exact h.tick.resolve_left (key .tick rfl)
  · exact h.tfrac.resolve_left (key .tfrac rfl)
  · exact h.regs.resolve_left (key .regs rfl)
  · exact h.tiles.resolve_left (key .tiles rfl)
  · exact h.dram.resolve_left (key .dram rfl)
  · exact h.net.resolve_left (key .net rfl)
  · exact h.reports.resolve_left (key .reports rfl)
  · exact h.free.resolve_left (key .free rfl)
  · exact h.stk.resolve_left (key .stk rfl)
  · exact h.vil.resolve_left (key .vil rfl)
  · exact h.fleet.resolve_left (key .fleet rfl)
  · exact h.chr.resolve_left (key .chr rfl)
  · exact h.serve.resolve_left (key .serve rfl)
  · exact h.img.resolve_left (key .img rfl)
  · exact h.log.resolve_left (key .log rfl)
  · exact h.pwr.resolve_left (key .pwr rfl)
  · exact h.rst.resolve_left (key .rst rfl)
  · exact h.bnc.resolve_left (key .bnc rfl)
  · exact h.snd.resolve_left (key .snd rfl)
  · exact h.lsr.resolve_left (key .lsr rfl)
  · exact h.tap.resolve_left (key .tap rfl)
  · exact h.answers.resolve_left (key .answers rfl)
  · exact h.pending.resolve_left (key .pending rfl)

theorem only_refl (ps : List Component) (s : State) : changesOnly ps s s := by intro p _; cases p <;> rfl

theorem only_trans {ps : List Component} {s t u : State} (h : changesOnly ps s t) (h2 : changesOnly ps t u) :
    changesOnly ps s u := by
  intro p hp
  have a := h p hp; have b := h2 p hp
  cases p <;> exact Eq.trans b a

theorem only_mono {ps qs : List Component} {s t : State} (h : changesOnly ps s t) (hs : ∀ p ∈ ps, p ∈ qs) :
    changesOnly qs s t := fun p hp => h p fun hc => hp (hs p hc)

theorem regsBut_refl (l : List (Nat × Nat)) (s : State) : regsBut l s s := fun _ _ _ => rfl

theorem regsBut_of_regs {s t : State} (h : t.regs = s.regs) (l : List (Nat × Nat)) : regsBut l s t := fun k off _ => by
  simp only [rword, h]

theorem regsBut_trans {l : List (Nat × Nat)} {s t u : State} (h : regsBut l s t) (h2 : regsBut l t u) : regsBut l s u :=
  fun k off hn => (h2 k off hn).trans (h k off hn)

theorem regsBut_mono {l l' : List (Nat × Nat)} {s t : State} (h : regsBut l s t) (hs : ∀ q ∈ l, q ∈ l') : regsBut l' s t :=
  fun k off hn => h k off fun q hq => hn q (hs q hq)

theorem regsBut_setRword (s : State) (k off : Nat) (w : Word) : regsBut [(k, off)] s (setRword s k off w) := by
  intro k2 o2 hn
  rw [rword_setRword, if_neg (hn (k, off) (by simp))]

theorem regsBut_rput (s : State) (k : Nat) (f : Fld) (v i : Nat) : regsBut [(k, f.off + f.stride * i)] s (rput s k f v i) :=
  regsBut_setRword _ _ _ _

theorem rget_of_regsBut {l : List (Nat × Nat)} {s t : State} (h : regsBut l s t) (k : Nat) (f : Fld) (i : Nat)
    (hn : ∀ q ∈ l, regKey k (f.off + f.stride * i) ≠ regKey q.1 q.2) : rget t k f i = rget s k f i := by
  simp only [rget, h k _ hn]

theorem bit_lt (b : Bool) : bit b < 2 := by cases b <;> decide

theorem regsBut_rput0 (s : State) (k : Nat) (f : Fld) (v : Nat) : regsBut [(k, f.off)] s (rput s k f v) := by
  have := regsBut_rput s k f v 0
  rw [Nat.mul_zero, Nat.add_zero] at this
  exact this

theorem regsBut_rput1 (s : State) (k : Nat) (f : Fld) (v : Nat) (o : Nat) (h : o = f.off) :
    regsBut [(k, o)] s (rput s k f v) := h ▸ regsBut_rput0 s k f v

/-- Every part. -/
def allParts : List Part := [.cyc, .slot0, .tick, .tfrac, .regs, .tiles, .dram, .net, .reports, .free, .stk, .vil, .fleet,
  .chr, .serve, .img, .log, .pwr, .rst, .bnc, .snd, .lsr, .tap, .answers, .pending]

theorem regsBut_rputi (s : State) (k : Nat) (f : Fld) (v i o st : Nat) (ho : f.off = o) (hs : f.stride = st) :
    regsBut [(k, o + st * i)] s (rput s k f v i) := by subst ho hs; exact regsBut_rput s k f v i

/-- Writes elsewhere leave the choice of the lead Helm alone. -/
theorem leadOf_of_regsBut {l : List (Nat × Nat)} {s t : State} (h : regsBut l s t)
    (hl : ∀ q ∈ l, ∀ k, regKey k 0x30004 ≠ regKey q.1 q.2) : leadOf t = leadOf s := by
  have : (fun k => ron t k HLM_STATUS_LEAD) = fun k => ron s k HLM_STATUS_LEAD := by
    funext k
    unfold ron
    rw [rget_of_regsBut h k HLM_STATUS_LEAD 0 fun q hq => hl q hq k]
  unfold leadOf
  rw [this]

theorem leadStk_of_regsBut {l : List (Nat × Nat)} {s t : State} (h : regsBut l s t)
    (hl : ∀ q ∈ l, ∀ k, regKey k 0x30004 ≠ regKey q.1 q.2) : leadStk t = leadStk s := by
  unfold leadStk; rw [leadOf_of_regsBut h hl]

end Sys2Proof.Claims
end

