-- ==== Sys2Proof/Laws/Packets.lean ====
section
/-!
SUPPORT. Units that act on their tile, and packets at their destination: what answering one leaves, and the delivery of a completion.
-/

namespace Sys2Proof.Claims

open Sys2Proof Sys2Proof.Machine

theorem acts_run {s : State} {e : Engine} {op : Nat} {i : Issue} {ph : Bool} {u : OpUnit} {ok g out}
    (ho : out = .next (runIssue s e op i ph u)) (hg : ∀ c t fl, ok c t fl → u.run c t fl = g c t fl) :
    Acts s e op i ph u ok g out := fun _ _ h hok => ⟨_, ho, runIssue_ran h (by rw [hg _ _ _ hok])⟩

theorem mem_insertDue (d x : Due) (l : List Due) : x ∈ insertDue d l ↔ x = d ∨ x ∈ l := by
  induction l with
  | nil => simp [insertDue]
  | cons y l ih =>
    unfold insertDue
    split
    · simp
    · simp [ih]; tauto

theorem mem_later (t : Tile) (a : Nat) (f : Machine.Effect) (x : Due) : x ∈ (later t a f).due ↔ x = ⟨a, f⟩ ∨ x ∈ t.due :=
  mem_insertDue _ _ _

theorem foldl_later {β : Type} (l : List β) (at_ : β → Nat) (f : β → Machine.Effect) (t : Tile) :
    ∃ due, l.foldl (fun t q => later t (at_ q) (f q)) t = { t with due := due } ∧
      ∀ x, x ∈ due ↔ x ∈ t.due ∨ ∃ q ∈ l, x = ⟨at_ q, f q⟩ := by
  induction l generalizing t with
  | nil => exact ⟨t.due, rfl, by simp⟩
  | cons q l ih =>
    obtain ⟨due, h1, h2⟩ := ih (later t (at_ q) (f q))
    refine ⟨due, by rw [List.foldl_cons, h1]; rfl, fun x => ?_⟩
    rw [h2, mem_later]; simp [or_assoc, or_comm, or_left_comm]

theorem setGp_keeps (t : Tile) (e : Engine) (n : Nat) (v : Dword) : ∃ g, setGp t e n v = { t with engs := g } := by
  unfold setGp; split
  · exact ⟨t.engs, rfl⟩
  · exact ⟨_, rfl⟩

theorem advance_keeps (t : Tile) (n : Enc) : ∃ g, advance t n = { t with engs := g } := by
  unfold advance
  split
  · obtain ⟨g, h⟩ := setGp_keeps t .arr (encA n) (gp t .arr (encA n) + gp t .arr 34)
    obtain ⟨g2, h2⟩ := setGp_keeps (setGp t .arr (encA n) (gp t .arr (encA n) + gp t .arr 34)) .arr (encB n) (gp (setGp t .arr (encA n) (gp t .arr (encA n) + gp t .arr 34)) .arr (encB n) + gp (setGp t .arr (encA n) (gp t .arr (encA n) + gp t .arr 34)) .arr 35)
    exact ⟨g2, by dsimp only; rw [h2, h]⟩
  · exact ⟨t.engs, rfl⟩

theorem gp_engs (t u : Tile) (h : t.engs = u.engs) (e : Engine) (m : Nat) : gp t e m = gp u e m := by
  simp only [gp, engOf, h]

theorem setGp_engs (t u : Tile) (h : t.engs = u.engs) (e : Engine) (n : Nat) (v : Dword) :
    (setGp t e n v).engs = (setGp u e n v).engs := by
  unfold setGp engOf setEng
  split
  · exact h
  · dsimp only; simp only [engOf, h]

theorem advance_advanced (t u v : Tile) (n : Enc) (h : u.engs = t.engs) (hv : v.engs = (advance u n).engs) :
    Advanced n t v := by
  intro e m
  refine gp_engs _ _ ?_ e m
  rw [hv]
  unfold advance
  dsimp only
  split
  · have h1 := setGp_engs u t h .arr (encA n) (gp u .arr (encA n) + gp u .arr 34)
    rw [gp_engs u t h, gp_engs u t h] at h1
    rw [gp_engs u t h, gp_engs u t h, gp_engs _ _ h1, gp_engs _ _ h1]
    exact setGp_engs _ _ h1 _ _ _
  · exact h

theorem tget_tbump (t : Tile) (f : Fld) (n : Nat) (h : f.fits = true) : tget (tbump t f n) f = (tget t f + n) % 2 ^ f.width :=
  tget_tput_same _ _ _ _ h

theorem tget_tbump_other (t : Tile) (f g : Fld) (n : Nat) (hg : g.fits = true) (h : f.off + f.stride * 0 ≠ g.off + g.stride * 0 ∨ f.apart g = true) :
    tget (tbump t g n) f = tget t f := tget_tput_other _ _ _ _ _ _ hg h

def bumpRegs (r : SMap Word) (f : Fld) (n : Nat) : SMap Word := (tbump { Tile.reset with regs := r } f n).regs

theorem tbump_eq (x : Tile) (f : Fld) (n : Nat) : tbump x f n = { x with regs := bumpRegs x.regs f n } := rfl

/-- A bank write discards nothing where no sight is being taken. -/
theorem discardSight_none (s : State) (r : TileRef) (site : Nat) (t0 : Tile)
    (hm : siteOf s r.stack.toNat r.tile.toNat = some site) (h : sightReads s r.stack.toNat site = none) :
    discardSight s r t0 = s := by
  unfold discardSight
  rw [hm]
  simp [dropResults, h]

/-- A sight discards nothing where no bank write has begun. -/
theorem discardSight_idle (s : State) (r : TileRef) (site : Nat) (t0 : Tile)
    (hm : siteOf s r.stack.toNat r.tile.toNat = some site)
    (h : ∀ b, writeBegan t0 (tileAt s r.stack.toNat site) b = false) : discardSight s r t0 = s := by
  have hd : ∀ b, dropResults r.stack.toNat site t0 s b = s := by
    intro b; unfold dropResults; split
    · rw [if_neg (by rw [h]; decide)]
    · rfl
  unfold discardSight
  rw [hm]
  simp [hd]

theorem changeTile_ran (s : State) (r : TileRef) (g : Ctx → Tile → Tile) (site : Nat)
    (hs : siteOf s r.stack.toNat r.tile.toNat = some site) :
    Ran s (changeTile s r g) r site s.cyc
      (bankTokens (g (ctxOf s r) (settle s.cyc (tileAt s r.stack.toNat site))) s.cyc) [] :=
  onTile_ran s r _ site s.cyc _ _ hs rfl (Nat.le_refl _)

theorem elapseNs_frame' (s : State) (n : Nat) : Machine.Frame [.cyc, .tick, .tfrac] s (elapseNs s n) := by
  unfold elapseNs elapseToTick
  split
  · exact Machine.Frame.refl _ _
  · refine ⟨.inl (by decide), .inr rfl, .inl (by decide), .inl (by decide), .inr rfl, .inr rfl, .inr rfl, .inr rfl, .inr rfl, .inr rfl, .inr rfl, .inr rfl, .inr rfl, .inr rfl, .inr rfl, .inr rfl, .inr rfl, .inr rfl, .inr rfl, .inr rfl, .inr rfl, .inr rfl, .inr rfl, .inr rfl, .inr rfl, fun h => ⟨h.regs, h.dram, h.tiles, h.tile, h.stk, h.fleet, h.serve, h.vil⟩⟩

theorem complete_answered (s : State) (k : Nat) (p : Packet) (st : Status) (sat : Bool) (data : List Byte) :
    Answered s (complete s k p st sat data) k p st sat data := by
  unfold complete
  constructor
  · simp
  · intro k2 off
    exact sendPackets_rword s { s with net := s.net.erase p } ⟨rfl, rfl, rfl⟩ k [completionOf s p st sat data] k2 off
  · intro k2 site; exact tileAt_congr s _ (by simp) _ _
  · intro _; simp
  · simp

theorem atModule_here (s : State) (p : Packet) (f : State → State) (h : addrModule p.dest = moduleNo s) :
    atModule s p f = f s := if_pos h

theorem dramAnswered (s : State) (p : Packet) (k off : Nat) (bs : List Byte) (st : Status) (sat : Bool) (data : List Byte)
    (out : Host.Outcome State Fault Refusal)
    (h : out = .next (complete (dwrite s k off bs) (addrStack p.dest) p st sat data)) :
    DramAnswered s p k off bs st sat data out := by
  refine ⟨dwrite s k off bs, _, h, complete_answered _ _ _ _ _ _, ?_, ?_, rfl⟩
  · intro j hj; exact memByte_memWrite_in _ _ _ _ hj
  · intro a ha; exact memByte_memWrite_out _ _ _ _ ha

theorem tilePut_answered (s : State) (p : Packet) (r : TileRef) (site off : Nat) (bs : List Byte) (st : Status) (sat : Bool)
    (data : List Byte) (out : Host.Outcome State Fault Refusal) (hs : siteOf s r.stack.toNat r.tile.toNat = some site)
    (h : out = .next (complete (destWrite s (.tile r off) bs) (addrStack p.dest) p st sat data)) :
    TileAnswered s p r site (tilePut s r site off bs) st sat data out :=
  ⟨destWrite s (.tile r off) bs, _, h, complete_answered _ _ _ _ _ _, changeTile_ran s r (fun _ t => swrite t off bs) site hs⟩

theorem tileAtomic_answered (s : State) (p : Packet) (r : TileRef) (site off : Nat) (bs : List Byte) (st : Status) (sat : Bool)
    (data : List Byte) (out : Host.Outcome State Fault Refusal) (hs : siteOf s r.stack.toNat r.tile.toNat = some site)
    (h : out = .next (complete (destAtomic s (.tile r off) bs) (addrStack p.dest) p st sat data)) :
    TileAnswered s p r site (tileAtomic s r site off bs) st sat data out := by
  have hr := onTile_ran s r (fun c t => (swrite (settleBefore c.now t) off bs, [], c.now)) site s.cyc _ _ hs rfl (le_refl _)
  have hd : destAtomic s (.tile r off) bs = onTile s r fun c t => (swrite (settleBefore c.now t) off bs, [], c.now) := by
    simp only [destAtomic]
  rw [hd] at h
  exact ⟨_, _, h, complete_answered _ _ _ _ _ _, hr⟩

theorem destRead_tile (s : State) (r : TileRef) (off n site : Nat) (hs : siteOf s r.stack.toNat r.tile.toNat = some site) :
    destRead s (.tile r off) n = sread (settleBefore s.cyc (tileAt s r.stack.toNat site)) off n := by
  simp only [destRead, hs]

theorem reduce_here (s : State) (p : Packet) (op : PktOp) (hm : addrModule p.dest = moduleNo s) (d : Dest)
    (hd : destOf s p.dest (p.len * opSize op) p.src = d) (ha : atomicDest d = true) :
    reduceAtDest s { p with op := op } = complete (destAtomic s d (addBytes op (destRead s d (p.len * opSize op)) (p.data.take (p.len * opSize op))).1)
      (addrStack p.dest) { p with op := op } .ok (op != .ladd && ((addBytes op (destRead s d (p.len * opSize op)) (p.data.take (p.len * opSize op))).2 || p.sat)) [] := by
  unfold reduceAtDest
  rw [atModule_here s { p with op := op } _ hm]
  dsimp only
  rw [hd, if_pos ha]

theorem cas_here (s : State) (p : Packet) (hm : addrModule p.dest = moduleNo s) (d : Dest)
    (hd : destOf s p.dest 8 p.src = d) (ha : atomicDest d = true) :
    execCas64 p s = .next (complete (if destRead s d 8 = p.data.take 8 then destAtomic s d ((p.data.drop 8).take 8) else s)
      (addrStack p.dest) p .ok false (destRead s d 8)) := by
  unfold execCas64
  rw [atModule_here s p _ hm]
  dsimp only
  rw [hd, if_pos ha]

theorem completeTile_fetch (c : Ctx) (t : Tile) (tag : BitVec 5) (st : Status) (sat : Bool) (data : List Byte) (br : List Nat) (o : FetchOp)
    (hn : tget t TIL_CTL_FENCE = 0) (ho : fetchOf t tag = some o) :
    completeTile c t tag st sat data br = completeFetch c t o tag st data := by
  unfold completeTile
  rw [if_neg (by rw [hn]; decide), ho]

theorem completeTile_sig (c : Ctx) (t : Tile) (tag : BitVec 5) (st : Status) (sat : Bool) (data : List Byte) (br : List Nat) (o : SigOp)
    (hn : tget t TIL_CTL_FENCE = 0) (hf : fetchOf t tag = none) (ho : sigOf t tag = some o) (hop : o.open_ = []) :
    completeTile c t tag st sat data br = (completeSig t o st sat data, []) := by
  unfold completeTile
  rw [if_neg (by rw [hn]; decide), hf, ho]
  dsimp only
  rw [hop]
  rfl

theorem completeTile_fenced (c : Ctx) (t : Tile) (tag : BitVec 5) (st : Status) (sat : Bool) (data : List Byte) (br : List Nat)
    (hn : tget t TIL_CTL_FENCE = 1) : completeTile c t tag st sat data br = (endFenced t tag, []) := by
  unfold completeTile
  rw [if_pos hn]

theorem deliver_delivered (s : State) (r : TileRef) (site : Nat) (tag : BitVec 5) (turn : BitVec 4) (st : Status) (sat : Bool)
    (data : List Byte) (br : List Nat) (hs : siteOf s r.stack.toNat r.tile.toNat = some site)
    (ht : turnMatches (tileAt s r.stack.toNat site) tag turn = true) :
    Delivered s r site tag st sat data (.next (deliver s r tag turn st sat data br)) := by
  have hr := onTile_ran s r (fun c t => (bankTokens (busyAt (completeTile c (settle c.now t) tag st sat data br).1 c.now) c.now,
      (completeTile c (settle c.now t) tag st sat data br).2, c.now)) site s.cyc _ _ hs rfl (le_refl _)
  have hd : deliver s r tag turn st sat data br =
      (let s1 := onTile s r fun c t => (bankTokens (busyAt (completeTile c (settle c.now t) tag st sat data br).1 c.now) c.now,
        (completeTile c (settle c.now t) tag st sat data br).2, c.now)
      match if st ≠ .ok then some st else (branchFails (tileAt s r.stack.toNat site) tag).head?.map fun f => f.2 with
      | some b =>
        if fetchOf (tileAt s r.stack.toNat site) tag ≠ none ∨ tagEnded (tileAt s r.stack.toNat site) (tileAt s1 r.stack.toNat site) tag then
          { s1 with reports := s1.reports ++ [.opFailed r tag b] }
        else s1
      | none => s1) := by
    unfold deliver
    rw [hs]
    dsimp only
    rw [ht]
    simp only [Bool.not_true, Bool.false_eq_true, if_false]
    all_goals rfl
  rw [show (ctxOf s r).now = s.cyc from rfl] at hr
  rw [hd]
  refine ⟨?_, ?_, ?_, ?_⟩
  · intro o ho hf hb hn
    rw [completeTile_fetch _ _ _ _ _ _ _ o hn ho] at hr
    refine ⟨_, hr, ?_⟩
    by_cases he : st = .ok
    · rw [if_pos he]; dsimp only; rw [if_neg (not_not.mpr he), hb he]; rfl
    · rw [if_neg he]; dsimp only; rw [if_pos he]; dsimp only
      rw [if_pos (Or.inl hf)]
  · intro o hf ho hop he hb hn
    rw [completeTile_sig _ _ _ _ _ _ _ o hn hf ho hop] at hr
    refine ⟨_, hr, ?_⟩
    dsimp only
    rw [if_neg (not_not.mpr he), hb]
    rfl
  · intro o hf hf0 ho hop he hn
    rw [completeTile_sig _ _ _ _ _ _ _ o hn hf ho hop] at hr
    refine ⟨_, hr, ?_⟩
    dsimp only
    rw [if_pos he]
    dsimp only
    simp only [hf0, ne_eq, not_true_eq_false, false_or]
  · intro he hn hb
    rw [completeTile_fenced _ _ _ _ _ _ _ hn] at hr
    refine ⟨_, hr, ?_⟩
    dsimp only
    rw [if_neg (not_not.mpr he), hb]
    rfl

end Sys2Proof.Claims
end

