-- ==== Sys2Proof/Laws/Serving.lean ====
section
/-!
SUPPORT. Charts, berths, contexts, descriptors, version slots and image commands: one lemma for each shared operation.
-/

namespace Sys2Proof.Claims

open Sys2Proof Sys2Proof.Machine

theorem cread_cwrite (s : State) (k off : Nat) (l : List Byte) : cread (cwrite s k off l) k off l.length = l := by
  unfold cread
  rw [show chartBase (cwrite s k off l) k = chartBase s k from rfl]
  exact memRead_memWrite _ _ _

theorem two_words (m : Mem) (q a b : Nat) :
    let m2 := memWrite (memWrite m (q + 40) (leBytes 8 a)) (q + 32) (leBytes 8 b)
    memRead m2 (q + 32) 8 = leBytes 8 b ∧ memRead m2 (q + 40) 8 = leBytes 8 a
      ∧ ∀ x, (x < q + 32 ∨ q + 48 ≤ x) → memByte m2 x = memByte m x := by
  have l8 : ∀ n, (leBytes 8 n).length = 8 := by intro n; simp [leBytes]
  intro m2
  refine ⟨?_, ?_, fun x hx => ?_⟩
  · have := memRead_memWrite (memWrite m (q + 40) (leBytes 8 a)) (q + 32) (leBytes 8 b)
    rw [l8] at this
    exact this
  · show memRead (memWrite _ _ _) _ _ = _
    rw [memRead_memWrite_out _ _ _ _ _ (by rw [l8]; omega)]
    have := memRead_memWrite m (q + 40) (leBytes 8 a)
    rw [l8] at this
    exact this
  · show memByte (memWrite _ _ _) _ = _
    rw [memByte_memWrite_out _ _ _ _ (by rw [l8]; omega), memByte_memWrite_out _ _ _ _ (by rw [l8]; omega)]

theorem chartRuns (s : State) (a : ChartArgs) (f : State → Nat → ChtDone) :
    ChartRuns s a f (.next (runChart s a f)) := by
  unfold ChartRuns
  extract_lets k d place
  intro hr
  refine ⟨_, rfl, ?_⟩
  unfold runChart
  rw [if_pos hr]
  unfold runRing chtPlace
  show _ ∧ _
  dsimp only
  have hd : (if chtReserved a = true then chtFail s .range else f s a.stack.toNat) = d := rfl
  rw [hd, show a.stack.toNat = k from rfl]
  generalize hat : 64 * rget s k CHT_RING_OFFSET + 64 * (rget s k CHT_TAIL_TAIL % ringSize s k) = at_
  have hp : place = chartBase d.st k + at_ := by
    rw [← hat, ← Nat.add_assoc]
  clear_value k d place
  have e : (putCword (putCword d.st k (at_ + 40) d.node) k (at_ + 32) (chtCodeNo d.code + 256 + d.depth * 512)).dram
      = memWrite (memWrite d.st.dram (k * 2 ^ 36 + place + 40) (leBytes 8 d.node)) (k * 2 ^ 36 + place + 32)
        (leBytes 8 (chtCodeNo d.code + 256 + d.depth * 512)) := by
    show memWrite (memWrite d.st.dram (k * 2 ^ 36 + (chartBase d.st k + (at_ + 40))) (leBytes 8 d.node))
      (k * 2 ^ 36 + (chartBase d.st k + (at_ + 32))) _ = _
    rw [hp]
    simp only [Nat.add_assoc]
  obtain ⟨h1, h2, h3⟩ := two_words d.st.dram (k * 2 ^ 36 + place) d.node (chtCodeNo d.code + 256 + d.depth * 512)
  rw [← e] at h1 h2 h3
  generalize hs2 : putCword (putCword d.st k (at_ + 40) d.node) k (at_ + 32) (chtCodeNo d.code + 256 + d.depth * 512) = s2 at *
  have ho : changesOnly [.dram] d.st s2 := by
    rw [← hs2]
    intro p hp
    cases p <;> first | rfl | exact absurd (by simp) hp
  clear hs2 e
  rw [Nat.add_assoc] at h1 h2
  refine ⟨?_, h1, h2, h3, ?_, ?_⟩
  · have h := rget_rput_same s2 k CHT_TAIL_TAIL ((rget s k CHT_TAIL_TAIL + 1) % ringSize s k) 0 (by decide)
    have hw : CHT_TAIL_TAIL.width = 12 := rfl
    rw [hw] at h
    exact h
  · exact regsBut_trans (regsBut_of_regs (ho .regs (by decide)) _) (regsBut_rput0 s2 k CHT_TAIL_TAIL _)
  · refine only_trans (only_mono ho (by decide)) ?_
    intro p hp
    cases p <;> first | rfl | exact absurd (by simp) hp

theorem only_rput (s : State) (k : Nat) (f : Fld) (v i : Nat) : changesOnly [.regs] s (rput s k f v i) := by
  intro p hp
  cases p <;> first | rfl | exact absurd (by simp) hp

theorem only_putStk (s : State) (k : Nat) (v : StackSt) : changesOnly [.stk] s (putStk s k v) := by
  intro p hp
  cases p <;> first | rfl | exact absurd (by simp) hp

theorem rget_rput_same1 (s : State) (k : Nat) (f : Fld) (v : Nat) (h : f.fits = true) (hv : v < 2 ^ f.width) :
    rget (rput s k f v) k f = v := by
  rw [rget_rput_same _ _ _ _ _ h, Nat.mod_eq_of_lt hv]

theorem berthOf_putBerth (s : State) (b : Nat) (v : Berth) (h : b < s.serve.berths.length) :
    berthOf (putBerth s b v) b = v := by simp [berthOf, putBerth, h]

theorem berthOf_putBerth_ne (s : State) (b c : Nat) (v : Berth) (h : c ≠ b) :
    berthOf (putBerth s b v) c = berthOf s c := by
  simp [berthOf, putBerth, List.getD_eq_getElem?_getD, List.getElem?_set_ne (Ne.symm h)]

theorem queueAt_putQueue (s : State) (b : Nat) (v : List Nat) (h : b < s.serve.queues.length) :
    queueAt (putQueue s b v) b = v := by simp [queueAt, putQueue, h]

theorem queueAt_putQueue_ne (s : State) (b c : Nat) (v : List Nat) (h : c ≠ b) :
    queueAt (putQueue s b v) c = queueAt s c := by
  simp [queueAt, putQueue, List.getD_eq_getElem?_getD, List.getElem?_set_ne (Ne.symm h)]

theorem ctxAt_putCtx (s : State) (c : Nat) (x : Option Context) : ctxAt (putCtx s c x) c = x := mapGet_mapSet_same _ _ _ _

theorem ctxAt_putCtx_ne (s : State) (c d : Nat) (x : Option Context) (h : d ≠ c) : ctxAt (putCtx s c x) d = ctxAt s d :=
  mapGet_mapSet_ne _ _ _ _ _ h

theorem descriptor_new (s : State) (l : Line) (toks : List Word) (h : newLine s l = true) :
    descriptor s l toks = (match dKind l with
    | 1 => submitJob l toks (observed s l)
    | 2 => cancelJob l (observed s l)
    | 3 => publishJob l (observed s l)
    | 4 => retireJob l (observed s l)
    | 5 => disableJob l (observed s l)
    | _ => writeAck (observed s l) l.addr.toNat 48 3 0) := by
  unfold descriptor
  rw [if_neg (by rw [h]; decide)]
  rfl

theorem descriptor_old (s : State) (l : Line) (toks : List Word) (h : newLine s l = false) : descriptor s l toks = s := by
  unfold descriptor
  rw [if_pos (by rw [h]; rfl)]

theorem only_serve (s : State) (v : ServeSt) : changesOnly [.serve] s { s with serve := v } := by
  intro p hp
  cases p <;> first | rfl | exact absurd (by simp) hp

theorem observed_safe (s : State) (l : Line) (h : SafeParts s) : SafeParts (observed s l) := by
  have h1 := (markLine_frame (fm := [.serve]) (b0 := s) s l (.refl _ _) (by decide)).safe h
  exact (countEvent_frame (fm := [.regs]) (b0 := markLine s l) _ (.refl _ _) (by decide)).safe h1

theorem vslotAt_putVslot (s : State) (v : Nat) (x : VSlot) : vslotAt (putVslot s v x) v = some x := mapGet_mapSet_same _ _ _ _

theorem vslotAt_putVslot_ne (s : State) (v w : Nat) (x : VSlot) (h : w ≠ v) : vslotAt (putVslot s v x) w = vslotAt s w :=
  mapGet_mapSet_ne _ _ _ _ _ h

theorem currentSlot_put (s : State) (a : Nat) (v : Option Nat) : currentSlot (putCurrent s a v) a = v := mapGet_mapSet_same _ _ _ _

theorem currentSlot_put_ne (s : State) (a b : Nat) (v : Option Nat) (h : b ≠ a) : currentSlot (putCurrent s a v) b = currentSlot s b :=
  mapGet_mapSet_ne _ _ _ _ _ h

theorem supersede_curr (s : State) (o : Option Nat) (a : Nat) : currentSlot (supersede s o) a = currentSlot s a := by
  unfold supersede; split
  · rfl
  · split <;> rfl

theorem supersede_only (s : State) (o : Option Nat) : changesOnly [.serve] s (supersede s o) := by
  unfold supersede; split
  · exact only_refl _ _
  · split
    · exact only_serve _ _
    · exact only_refl _ _

theorem supersede_vslot (s : State) (v : Nat) (y : VSlot) (h : vslotAt s v = some y) :
    vslotAt (supersede s (some v)) v = some { y with st := .superseded } := by
  unfold supersede; dsimp only; rw [h]; exact vslotAt_putVslot _ _ _

theorem releaseHeld_none (s : State) (b : Nat) (h : (berthOf s b).held = []) : releaseHeld s b = s := by
  unfold releaseHeld; rw [h]; rfl

theorem helmCounter_put (s : State) (k i : Nat) (c : HelmCounter) (h : k < s.stk.length) : helmCounter (putCounter s k i c) k i = c := by
  unfold helmCounter putCounter
  rw [stkOf_putStk _ _ _ h]
  exact mapGet_mapSet_same _ _ _ _

theorem helmCounter_put_ne (s : State) (k i j i2 : Nat) (c : HelmCounter) (h : k < s.stk.length) (hi : i2 ≠ i) :
    helmCounter (putCounter s k i c) j i2 = helmCounter s j i2 := by
  unfold helmCounter putCounter
  by_cases hj : j = k
  · rw [hj, stkOf_putStk _ _ _ h]
    exact mapGet_mapSet_ne _ _ _ _ _ hi
  · rw [stkOf_putStk_ne _ _ _ _ hj]

theorem only_of_stk (s : State) (v : List StackSt) : changesOnly [.stk] s { s with stk := v } := by
  intro p hp
  cases p <;> first | rfl | exact absurd (by simp) hp

theorem leadStk_lt (s : State) : leadStk s < 8 := by
  unfold leadStk leadOf
  cases h : stackNos.find? fun k => ron s k HLM_STATUS_LEAD with
  | none => decide
  | some k => exact List.mem_range.mp (List.mem_of_find?_eq_some h)

/-- Messages between Helms change nothing but Helm's own record of them and FLT_NOROUTE. -/
theorem sendHelm_serve (s : State) (ms : List HelmMsg) : ∃ r a b c d,
    sendHelm s ms = { s with regs := r, serve := { s.serve with msgs := a, ops := b, turns := c, waits := d } }
      ∧ regsBut [(0, FLT_NOROUTE.off)] s (sendHelm s ms) := by
  let P : State → Prop := fun t => (∃ r a b c d,
    t = { s with regs := r, serve := { s.serve with msgs := a, ops := b, turns := c, waits := d } }) ∧
      regsBut [(0, FLT_NOROUTE.off)] s t
  have hi : ∀ (t : State) m, P t → P (issueHelm t m) := by
    rintro t m ⟨⟨r, a, b, c, d, rfl⟩, hr⟩
    unfold issueHelm
    split
    · dsimp only
      split
      · exact ⟨⟨_, _, _, _, _, rfl⟩, hr⟩
      · refine ⟨⟨_, _, _, _, _, rfl⟩, fun k off h => ?_⟩
        rw [← hr k off h]
        unfold rbump
        have hk : regKey k off ≠ regKey 0 (FLT_NOROUTE.off + FLT_NOROUTE.stride * 0) := h (0, FLT_NOROUTE.off) (List.mem_singleton.mpr rfl)
        rw [rword_rput_ne _ _ _ _ FLT_NOROUTE _ hk]
        rfl
    · exact ⟨⟨_, _, _, _, _, rfl⟩, hr⟩
  have hf : ∀ (l : List HelmMsg) (t : State), P t → P (l.foldl issueHelm t) := by
    intro l
    induction l with
    | nil => intro t h; exact h
    | cons m l ih => intro t h; exact ih _ (hi t m h)
  obtain ⟨⟨r, a, b, c, d, h⟩, h2⟩ := hf ms s ⟨⟨_, _, _, _, _, rfl⟩, fun _ _ _ => rfl⟩
  exact ⟨r, a, b, c, d, h, h2⟩

theorem arriveCommit_facts (s : State) (b k : Nat) (hst : s.stk.length = 8) (hb : b < 16) (hl : s.serve.berths.length = 16) :
    helmCounter (arriveCommit s b) k (32 + b) = helmCounter s k (32 + b)
    ∧ (berthOf (arriveCommit s b) b).released = (berthOf s b).released
    ∧ regsBut [(0, FLT_NOROUTE.off)] s (arriveCommit s b)
    ∧ changesOnly [.regs, .stk, .serve] s (arriveCommit s b) := by
  have hb1 : berthOf (putBerth s b { berthOf s b with arrived := true, arrivedAt := s.cyc }) b
      = { berthOf s b with arrived := true, arrivedAt := s.cyc } :=
    berthOf_putBerth _ _ _ (by rw [hl]; exact hb)
  unfold arriveCommit
  dsimp only
  split
  · refine ⟨?_, ?_, ?_, ?_⟩
    · unfold arriveHelm
      dsimp only
      rw [helmCounter_put_ne _ _ _ _ _ _ (by show leadStk s < s.stk.length; rw [hst]; exact leadStk_lt s) (by omega)]
      rfl
    · show (berthOf (putBerth s b _) b).released = _
      rw [hb1]
    · exact fun _ _ _ => rfl
    · exact only_trans (only_mono (only_serve s _) (by decide)) (only_mono (only_putStk _ _ _) (by decide))
  · obtain ⟨r, x, y, z, w, h, hr⟩ := sendHelm_serve (putBerth s b { berthOf s b with arrived := true, arrivedAt := s.cyc })
      [.arrive (hostModule s b) b (readyValue s b)]
    refine ⟨?_, ?_, fun k off hk => hr k off hk, ?_⟩
    · rw [h]; rfl
    · rw [h]
      show (berthOf (putBerth s b _) b).released = _
      rw [hb1]
    · rw [h]
      intro p hp
      cases p <;> first | rfl | exact absurd (by simp) hp

theorem only_img (s : State) (v : ImageSt) : changesOnly [.img] s { s with img := v } := by
  intro p hp
  cases p <;> first | rfl | exact absurd (by simp) hp

/-- The catalogue has sequence numbers left for `n` more records (R274). -/
def roomFor (n : Nat) (s : State) : Prop := ∀ x ∈ s.img.catalogue, x.seq + n < 2 ^ 32

theorem seqRoom_roomFor {s : State} (h : seqRoom s) : roomFor 2 s := h

theorem roomFor_mono {m n : Nat} {s : State} (h : m ≤ n) (hr : roomFor n s) : roomFor m s := fun x hx => by
  have := hr x hx; omega

theorem foldl_max_spec (l : List CatRec) (a B : Nat) (ha : a < B) (h : ∀ x ∈ l, x.seq + 1 < B) :
    a ≤ l.foldl (fun m x => max m (x.seq + 1)) a ∧ (∀ x ∈ l, x.seq < l.foldl (fun m x => max m (x.seq + 1)) a)
      ∧ l.foldl (fun m x => max m (x.seq + 1)) a < B := by
  induction l generalizing a with
  | nil => exact ⟨le_refl _, by simp, ha⟩
  | cons y l ih =>
    have hy := h y (by simp)
    obtain ⟨h1, h2, h3⟩ := ih (max a (y.seq + 1)) (by omega) fun x hx => h x (by simp [hx])
    rw [List.foldl_cons]
    refine ⟨by omega, fun x hx => ?_, h3⟩
    rcases List.mem_cons.mp hx with rfl | hx
    · omega
    · exact h2 x hx

/-- The next record's sequence number is higher than every one before, while there are numbers left. -/
theorem nextSeqNo_spec {n : Nat} {s : State} (hn : 1 ≤ n) (h : roomFor n s) :
    (∀ x ∈ s.img.catalogue, x.seq < nextSeqNo s) ∧ nextSeqNo s + n ≤ 2 ^ 32 ∨ s.img.catalogue = [] ∧ nextSeqNo s = 0 := by
  rcases hc : s.img.catalogue with _ | ⟨y, l⟩
  · right; exact ⟨rfl, by simp [nextSeqNo, hc]⟩
  · left
    have hB : ∀ x ∈ s.img.catalogue, x.seq + 1 < 2 ^ 32 - n + 1 := fun x hx => by have := h x hx; omega
    have h0 := h y (by rw [hc]; simp)
    obtain ⟨_, h2, h3⟩ := foldl_max_spec s.img.catalogue 0 (2 ^ 32 - n + 1) (by omega) hB
    have e : nextSeqNo s = s.img.catalogue.foldl (fun m x => max m (x.seq + 1)) 0 := by
      unfold nextSeqNo; exact Nat.mod_eq_of_lt (by omega)
    rw [e, ← hc]
    exact ⟨h2, by omega⟩

theorem roomFor_putCat {n : Nat} {s : State} (h : roomFor (n + 1) s) (hb : n < 2 ^ 32) (r : CatRec) : roomFor n (putCat s r) := by
  intro x hx
  rcases List.mem_append.mp hx with hx | hx
  · have := h x hx; omega
  · rw [List.mem_singleton] at hx
    subst hx
    show nextSeqNo s + n < 2 ^ 32
    rcases nextSeqNo_spec (by omega) h with ⟨_, h2⟩ | ⟨_, h2⟩ <;> omega

theorem newer_mem (l : List CatRec) (a : Option CatRec) (z : CatRec) (h : l.foldl newerRec a = some z) : z ∈ l ∨ a = some z := by
  induction l generalizing a with
  | nil => exact .inr h
  | cons y l ih =>
    rw [List.foldl_cons] at h
    rcases ih _ h with h | h
    · exact .inl (by simp [h])
    · unfold newerRec at h
      split at h
      · split at h
        · cases h; exact .inl (by simp)
        · exact .inr h
      · cases h; exact .inl (by simp)

/-- The record just written is the one in force of its slot (R274). -/
theorem catOf_putCat (s : State) (h : roomFor 1 s) (r : CatRec) : catOf (putCat s r) r.name r.slot = some (sealRec s r) := by
  unfold catOf putCat
  dsimp only
  rw [List.filter_append, List.foldl_append]
  have hs : (List.filter (fun x : CatRec => x.name == r.name && x.slot == r.slot && x.crc == recordCrc x) [sealRec s r]) = [sealRec s r] := by
    have : (sealRec s r).crc = recordCrc (sealRec s r) := rfl
    rw [List.filter_cons_of_pos]
    · rfl
    · simp only [Bool.and_eq_true, beq_iff_eq]; exact ⟨⟨rfl, rfl⟩, this⟩
  rw [hs]
  generalize hg : List.foldl newerRec none _ = o
  rw [List.foldl_cons, List.foldl_nil]
  unfold newerRec
  cases o with
  | none => rfl
  | some z =>
    have hz := newer_mem _ _ _ hg
    simp only [reduceCtorEq, or_false] at hz
    have hm := (List.mem_filter.mp hz).1
    dsimp only
    rw [if_pos]
    show z.seq < nextSeqNo s
    rcases nextSeqNo_spec (le_refl _) h with ⟨h1, _⟩ | ⟨h1, _⟩
    · exact h1 z hm
    · rw [h1] at hm; cases hm

theorem catOf_putCat_ne (s : State) (r : CatRec) (n : ImgName) (i : Nat) (h : r.name ≠ n ∨ r.slot ≠ i) :
    catOf (putCat s r) n i = catOf s n i := by
  unfold catOf putCat
  dsimp only
  rw [List.filter_append, List.foldl_append]
  have e : (List.filter (fun x : CatRec => x.name == n && x.slot == i && x.crc == recordCrc x) [sealRec s r]) = [] := by
    rw [List.filter_cons_of_neg]
    · rfl
    · show ¬ ((r.name == n && r.slot == i && _) = true)
      rcases h with h | h <;> simp [h]
  rw [e]
  rfl

theorem catOf_named {s : State} {n : ImgName} {i : Nat} {r : CatRec} (h : catOf s n i = some r) : r.name = n ∧ r.slot = i := by
  unfold catOf at h
  have := newer_mem _ _ _ h
  simp only [reduceCtorEq, or_false, List.mem_filter, Bool.and_eq_true, beq_iff_eq] at this
  exact this.2.1

theorem slotState_putCat (s : State) (h : roomFor 1 s) (r : CatRec) : slotState (putCat s r) r.name r.slot = r.st := by
  unfold slotState; rw [catOf_putCat s h]; rfl

theorem slotState_putCat1 (s : State) (h : roomFor 1 s) (r : CatRec) (n : ImgName) (i : Nat) (hn : r.name = n) (hi : r.slot = i) :
    slotState (putCat s r) n i = r.st := by subst hn hi; exact slotState_putCat s h r

theorem slotData_put (s : State) (n : ImgName) (i : Nat) (x : SlotData) : slotData (putSlotData s n i (some x)) n i = some x := by
  unfold slotData putSlotData
  dsimp only
  rw [List.find?_append]
  have : ((s.img.data.filter fun q => !(q.1 == n && q.2.1 == i)).find? fun q => q.1 == n && q.2.1 == i) = none := by
    rw [List.find?_eq_none]
    intro x hx hc
    have := (List.mem_filter.mp hx).2
    rw [hc] at this
    exact absurd this (by decide)
  rw [this]
  simp

theorem slotState_data (s : State) (n m : ImgName) (i j : Nat) (x : Option SlotData) :
    slotState (putSlotData s n i x) m j = slotState s m j := rfl

theorem only_putCat (s : State) (r : CatRec) : changesOnly [.img] s (putCat s r) := only_img _ _

theorem only_putSlotData (s : State) (n : ImgName) (i : Nat) (x : Option SlotData) : changesOnly [.img] s (putSlotData s n i x) :=
  only_img _ _

theorem slotState_data1 (s : State) (h : roomFor 1 s) (r : CatRec) (n : ImgName) (i : Nat) (x : Option SlotData) (hn : r.name = n) (hi : r.slot = i) :
    slotState (putSlotData (putCat s r) n i x) n i = r.st := slotState_putCat1 s h r n i hn hi

theorem only_rbump (s : State) (k : Nat) (f : Fld) (n : Nat) : changesOnly [.regs] s (rbump s k f n) := only_rput _ _ _ _ _

theorem slotState_img {s t : State} (h : t.img = s.img) (n : ImgName) (i : Nat) : slotState t n i = slotState s n i := by
  unfold slotState catOf; rw [h]

theorem slotData_img {s t : State} (h : t.img = s.img) (n : ImgName) (i : Nat) : slotData t n i = slotData s n i := by
  unfold slotData; rw [h]

/-- An image command with its operands in range that answers at once: its CODE and DETAIL go to the line (R276). -/
theorem imageCommand_eq (s : State) (l : Line) (op : Nat) (nand : Bool) (f : State → ImgDone) (h : imageLine s l op) (q : ImgDone)
    (hq : mediaResult nand (imageTaken s l op) (f (imageTaken s l op)) = q) (h0 : q.2.1 ≠ 0) :
    imageCommand s l op nand f = writeAck q.1 l.addr.toNat 40 q.2.1 (q.2.2 * 65536) := by
  obtain ⟨h1, h2, h3, h4, h5⟩ := h
  unfold imageCommand
  rw [if_pos (by rw [h1, h5]; simp [h2, h3])]
  dsimp only
  rw [if_pos h4]
  unfold imageTaken at hq
  rw [hq, if_neg h0]

theorem acked_of {s : State} {l : Line} {op : Nat} {f : State → ImgDone} (h : imageLine s l op) {t : State} {c d : Nat}
    (hf : f (imageTaken s l op) = (t, c, d)) (hc : c ≠ 0) : acked l t c d (.next (imageCommand s l op false f)) := by
  unfold acked
  rw [imageCommand_eq s l op false f h (t, c, d) (by rw [hf]; rfl) hc]

/-- A NAND error ends the command with MEDIA, unless it failed before. -/
theorem acked_media {s : State} {l : Line} {op : Nat} {f : State → ImgDone} (h : imageLine s l op) {t : State} {c d : Nat}
    (hf : f (imageTaken s l op) = (t, c, d)) (hc : c ≤ 1) :
    acked l (imageTaken s l op) 14 0 (.next (imageCommand s l op true f)) := by
  unfold acked
  rw [imageCommand_eq s l op true f h (imageTaken s l op, 14, 0) (by rw [hf]; simp [mediaResult, hc]) (by show 14 ≠ 0; decide)]

theorem plain (l : Line) (f : State → Nat → ImgDone) (s : State) (h : lineSlot l < 2) : withPlainSlot l f s = f s (lineSlot l) :=
  if_pos h

theorem resolved (l : Line) (f : State → Nat → ImgDone) (s : State) (j : Nat)
    (h : resolveSlot s (lineName l) (lineSlot l) = some j) : withSlot l f s = f s j := by
  unfold withSlot; rw [h]

theorem activate_facts (s : State) (hroom : roomFor 2 s) (n : ImgName) (i : Nat) (hi : i < 2) (hu : slotUsable s n i = true) :
    slotState (activateSlot s n i) n i = .active
    ∧ (slotState s n (1 - i) = .active → slotState (activateSlot s n i) n (1 - i) = .verified)
    ∧ changesOnly [.img] s (activateSlot s n i) := by
  have hk : ∀ {m : ImgName} {j : Nat} {r : CatRec} {t : State}, catOf t m j = some r → r.name = m ∧ r.slot = j :=
    fun h => catOf_named h
  have hr1 : roomFor 1 s := roomFor_mono (by decide) hroom
  have hne : (1 - i) ≠ i := by omega
  have hc : ∃ r, catOf s n i = some r := by
    unfold slotUsable slotState at hu
    cases h : catOf s n i with
    | none => rw [h] at hu; exact absurd hu (by decide)
    | some r => exact ⟨r, rfl⟩
  obtain ⟨r, hr⟩ := hc
  obtain ⟨rn, rs⟩ := hk hr
  set s1 := (match catOf s n (1 - i) with
    | some r => if r.st = SlotState.active then putCat s { r with st := SlotState.verified } else s
    | none => s) with hs1
  have h1 : catOf s1 n i = some r := by
    rw [hs1]
    split
    · rename_i r2 h2
      split
      · exact (catOf_putCat_ne s { r2 with st := .verified } _ _ (Or.inr (by show r2.slot ≠ _; rw [(hk h2).2]; exact hne))).trans hr
      · exact hr
    · exact hr
  have h2 : slotState s n (1 - i) = .active → slotState s1 n (1 - i) = .verified := by
    intro ha
    unfold slotState at ha
    rw [hs1]
    split at ha
    · rename_i r2 h2
      try rw [h2]
      try dsimp only
      rw [if_pos ha]
      exact slotState_putCat1 s hr1 { r2 with st := .verified } n (1 - i) (hk h2).1 (hk h2).2
    · exact absurd ha (by decide)
  have h3 : changesOnly [.img] s s1 := by
    rw [hs1]
    split
    · split
      · exact only_img _ _
      · exact only_refl _ _
    · exact only_refl _ _
  have hr2 : roomFor 1 s1 := by
    rw [hs1]
    split
    · split
      · exact roomFor_putCat hroom (by decide) _
      · exact hr1
    · exact hr1
  have he : activateSlot s n i = putCat s1 { r with st := .active } := by
    unfold activateSlot
    show (match catOf s1 n i with
      | some r => putCat s1 { r with st := SlotState.active }
      | none => s1) = _
    rw [h1]
  rw [he]
  refine ⟨?_, fun ha => ?_, only_trans h3 (only_img _ _)⟩
  · exact slotState_putCat1 s1 hr2 { r with st := .active } n i rn rs
  · have := h2 ha
    unfold slotState at this ⊢
    rw [catOf_putCat_ne s1 { r with st := .active } _ _ (Or.inr (by show r.slot ≠ _; rw [rs]; exact Ne.symm hne))]
    exact this

theorem armed_facts (s : State) (b n : Nat) :
    let t := rput (rput (rput s (leadStk s) HLM_XING_BERTH b) (leadStk s) HLM_XING_PHASE 1) (leadStk s) HLM_XING_BLOCKING n
    xingPhase t = 1 ∧ xingBerth t = b % 16 ∧ changesOnly [.regs] s t ∧ leadStk t = leadStk s := by
  intro t
  have r1 : regsBut [(leadStk s, HLM_XING_BERTH.off)] s (rput s (leadStk s) HLM_XING_BERTH b) := regsBut_rput0 _ _ _ _
  have r2 : regsBut [(leadStk s, HLM_XING_BERTH.off)] s (rput (rput s (leadStk s) HLM_XING_BERTH b) (leadStk s) HLM_XING_PHASE 1) :=
    regsBut_trans r1 (regsBut_rput1 _ _ HLM_XING_PHASE _ _ rfl)
  have r3 : regsBut [(leadStk s, HLM_XING_BERTH.off)] s t := regsBut_trans r2 (regsBut_rput1 _ _ HLM_XING_BLOCKING _ _ rfl)
  have hlead : leadStk t = leadStk s := by
    refine leadStk_of_regsBut r3 ?_
    intro q hq k
    rw [List.mem_singleton] at hq
    subst hq
    unfold regKey
    simp only [HLM_XING_BERTH]
    omega
  have w1 : HLM_XING_PHASE.width = 2 := rfl
  have w2 : HLM_XING_BERTH.width = 4 := rfl
  refine ⟨?_, ?_, only_trans (only_trans (only_rput _ _ _ _ _) (only_rput _ _ _ _ _)) (only_rput _ _ _ _ _), hlead⟩
  · unfold xingPhase; rw [hlead]
    rw [rget_rput_other _ _ _ _ _ _ _ _ (by decide) (Or.inr (by decide)), rget_rput_same _ _ _ _ _ (by decide), w1]; norm_num
  · unfold xingBerth; rw [hlead]
    rw [rget_rput_other _ _ _ _ _ _ _ _ (by decide) (Or.inr (by decide)), rget_rput_other _ _ _ _ _ _ _ _ (by decide) (Or.inr (by decide)), rget_rput_same _ _ _ _ _ (by decide), w2]; norm_num

end Sys2Proof.Claims
end

