-- ==== Sys2Proof/Laws/Fabric.lean ====
section
/-!
SUPPORT. Fleet ports, register accesses, the Chronometer, Sextant and Vilger Link: one lemma for each shared operation.
-/

namespace Sys2Proof.Claims

open Sys2Proof Sys2Proof.Machine

theorem regsBut_pput (s : State) (p : Nat) (f : Fld) (v : Nat) (ho : f.off = 0x100040) (hs : f.stride = 4) :
    regsBut [portWord p] s (pput s p f v) := regsBut_rputi _ _ f _ _ _ _ ho hs

theorem pget_pput_same (s : State) (p : Nat) (f : Fld) (v : Nat) (h : f.fits = true) :
    pget (pput s p f v) p f = v % 2 ^ f.width := rget_rput_same _ _ _ _ _ h

theorem pget_pput_lt (s : State) (p : Nat) (f : Fld) (v : Nat) (h : f.fits = true) (hv : v < 2 ^ f.width) :
    pget (pput s p f v) p f = v := by rw [pget_pput_same _ _ _ _ h, Nat.mod_eq_of_lt hv]

theorem pget_pput_apart (s : State) (p : Nat) (f g : Fld) (v : Nat) (h : g.fits = true) (ha : f.apart g = true) :
    pget (pput s p g v) p f = pget s p f := rget_rput_other _ _ _ _ _ _ _ _ h (Or.inr ha)

theorem only_pput (s : State) (p : Nat) (f : Fld) (v : Nat) : changesOnly [.regs] s (pput s p f v) := only_rput _ _ _ _ _

theorem only_putPort (s : State) (p : Nat) (v : PortSt) : changesOnly [.fleet] s (putPort s p v) := by
  intro p hp
  cases p <;> first | rfl | exact absurd (by simp) hp

theorem only_logExtra (s : State) (k : Nat) : changesOnly [.log] s (logExtra s k) := by
  intro p hp
  cases p <;> first | rfl | exact absurd (by simp) hp

theorem portOf_putPort (s : State) (p : Nat) (v : PortSt) (h : p < s.fleet.ports.length) : portOf (putPort s p v) p = v := by
  simp [portOf, putPort, h]

theorem portOf_putPort_ne (s : State) (p q : Nat) (v : PortSt) (h : q ≠ p) : portOf (putPort s p v) q = portOf s q := by
  simp [portOf, putPort, List.getD_eq_getElem?_getD, List.getElem?_set_ne (Ne.symm h)]

theorem portOf_congr {s t : State} (h : t.fleet = s.fleet) (p : Nat) : portOf t p = portOf s p := by
  unfold portOf; rw [h]

theorem portOf_pput (s : State) (p : Nat) (f : Fld) (v : Nat) (q : Nat) : portOf (pput s p f v) q = portOf s q := rfl

theorem pget_putPort (s : State) (p q : Nat) (v : PortSt) (f : Fld) : pget (putPort s p v) q f = pget s q f := rfl

theorem regsBut_cons {q : Nat × Nat} {l : List (Nat × Nat)} {s t : State} (h : regsBut l s t) : regsBut (q :: l) s t :=
  regsBut_mono h fun _ hx => List.mem_cons_of_mem _ hx

theorem regsBut_head {q : Nat × Nat} {l : List (Nat × Nat)} {s t : State} (h : regsBut [q] s t) : regsBut (q :: l) s t :=
  regsBut_mono h fun _ hx => by rw [List.mem_singleton] at hx; exact hx ▸ List.mem_cons_self

theorem lockPort_facts (s : State) (n st c : Nat) (hn : n < s.fleet.ports.length) (hs : st < 8) (hc : c < 8) :
    pget (lockPort s n st c) n FLT_PORT_STATE = st ∧ pget (lockPort s n st c) n FLT_PORT_CAUSE = c
    ∧ (portOf (lockPort s n st c) n).locked = true ∧ regsBut [portWord n] s (lockPort s n st c)
    ∧ changesOnly [.regs, .fleet, .log] s (lockPort s n st c) := by
  obtain ⟨s3, h3'⟩ : ∃ x, x = putPort s n { portOf s n with locked := true, retrain := false } := ⟨_, rfl⟩
  have q3 : portOf s3 n = { portOf s n with locked := true, retrain := false } := by
    rw [h3']; exact portOf_putPort _ _ _ hn
  have e : lockPort s n st c = logExtra (pput (pput s3 n FLT_PORT_STATE st) n FLT_PORT_CAUSE c) 8 := by
    unfold lockPort; rw [h3']
  rw [e]
  refine ⟨?_, ?_, ?_, ?_, ?_⟩
  · show pget (pput _ n FLT_PORT_CAUSE c) n FLT_PORT_STATE = st
    rw [pget_pput_apart _ _ _ _ _ (by decide) (by decide), pget_pput_lt _ _ _ _ (by decide) hs]
  · show pget (pput _ n FLT_PORT_CAUSE c) n FLT_PORT_CAUSE = c
    exact pget_pput_lt _ _ _ _ (by decide) hc
  · show (portOf s3 n).locked = _
    rw [q3]
  · refine regsBut_trans (t := pput (pput s3 n FLT_PORT_STATE st) n FLT_PORT_CAUSE c) ?_ (regsBut_of_regs rfl _)
    refine regsBut_trans (t := s3) (regsBut_of_regs (by rw [h3']; rfl) _) ?_
    exact regsBut_trans (regsBut_pput _ _ _ _ rfl rfl) (regsBut_pput _ _ _ _ rfl rfl)
  · refine only_trans (t := pput (pput s3 n FLT_PORT_STATE st) n FLT_PORT_CAUSE c) ?_ (only_mono (only_logExtra _ _) (by decide))
    refine only_trans (t := s3) (by rw [h3']; exact only_mono (only_putPort _ _ _) (by decide)) ?_
    exact only_mono (only_trans (only_pput _ _ _ _) (only_pput _ _ _ _)) (by decide)

/-- What a port does with a flit accepted: a part of a packet waits, a packet of a reserved OP is dropped, a hail or numbers
packet is taken off, and another packet enters the network there. -/
theorem acceptFlit_facts (s : State) (n : Nat) (b : List Byte) :
    (headPacket n ((portOf s n).flits ++ [b]) = none →
        acceptFlit s n b = putPort s n { portOf s n with flits := (portOf s n).flits ++ [b] })
    ∧ (∀ rest, headPacket n ((portOf s n).flits ++ [b]) = some (none, rest) →
        acceptFlit s n b = putPort s n { portOf s n with flits := rest })
    ∧ (∀ q rest, headPacket n ((portOf s n).flits ++ [b]) = some (some q, rest) →
        acceptFlit s n b = if q.op = .hail ∨ q.op = .numbers then putPort s n { portOf s n with flits := rest }
          else enterPacket (putPort s n { portOf s n with flits := rest }) n q) := by
  refine ⟨fun h => ?_, fun r h => ?_, fun q r h => ?_⟩ <;> (unfold acceptFlit; dsimp only; rw [h])

/-- A packet entering at a port: a register or control packet of another module goes out again, and any other joins the
network; a packet that passes from port to port of a link die changes nothing else. -/
theorem enterPacket_facts (s : State) (n : Nat) (q : Packet) :
    (addrModule q.dest ≠ moduleNo s ∧ (q.op = .regAccess ∨ q.op = .control) →
        enterPacket s n q = routeOut s q (addrModule q.dest).toNat)
    ∧ (¬ (addrModule q.dest ≠ moduleNo s ∧ (q.op = .regAccess ∨ q.op = .control)) →
        (enterPacket s n q).net = s.net ++ [q] ∧ (enterPacket s n q).fleet = s.fleet
        ∧ changesOnly [.net, .regs] s (enterPacket s n q) ∧ (portToPort s q = true → (enterPacket s n q).regs = s.regs)) := by
  refine ⟨fun h => ?_, fun h => ?_⟩
  · unfold enterPacket; rw [if_pos h]
  · have o : changesOnly [.net] s { s with net := s.net ++ [q] } := fun p hp => by
      cases p <;> first | rfl | exact absurd (by simp) hp
    unfold enterPacket
    rw [if_neg h]
    split
    · exact ⟨rfl, rfl, only_mono o (by decide), fun _ => rfl⟩
    · rename_i hp
      have f := crossFlits_frame (fm := [.regs]) { s with net := s.net ++ [q] } (portStack n)
        ((exitStack s q).getD (portStack n)) (pktChannel q) (pktFlits q) (.refl _ _) (by decide)
      refine ⟨f.net.resolve_left (by decide), f.fleet.resolve_left (by decide), ?_, fun h2 => absurd h2 hp⟩
      exact only_trans (only_mono o (by decide)) (only_mono (only_of_frame f) (by decide))

/-- What a port sends leaves what it receives alone. -/
theorem sendWaiting_facts (v : PortSt) : (sendWaiting v).rxSeq = v.rxSeq ∧ (sendWaiting v).nak = v.nak
    ∧ (sendWaiting v).flits = v.flits ∧ (v.waiting = [] → (sendWaiting v).replay = v.replay) := by
  have key : ∀ (l : List (List Byte)) (w : PortSt), (l.foldl sendFrame w).rxSeq = w.rxSeq ∧ (l.foldl sendFrame w).nak = w.nak
      ∧ (l.foldl sendFrame w).flits = w.flits := by
    intro l
    induction l with
    | nil => intro w; exact ⟨rfl, rfl, rfl⟩
    | cons a l ih => intro w; exact ih (sendFrame w a)
  unfold sendWaiting
  dsimp only
  obtain ⟨a, b, c⟩ := key (v.waiting.take (256 - v.replay.length)) { v with waiting := v.waiting.drop (256 - v.replay.length) }
  exact ⟨a, b, c, fun h => by rw [h, List.take_nil, List.foldl_nil]⟩

theorem portOf_rbump (s : State) (k : Nat) (f : Fld) (c q : Nat) : portOf (rbump s k f c) q = portOf s q := rfl

theorem takeAck_facts (s : State) (n : Nat) (t : Dword) (hn : n < s.fleet.ports.length) :
    (portOf (takeAck s n t) n).rxSeq = (portOf s n).rxSeq ∧ (portOf (takeAck s n t) n).nak = (portOf s n).nak
    ∧ (portOf (takeAck s n t) n).flits = (portOf s n).flits ∧ (takeAck s n t).net = s.net
    ∧ (takeAck s n t).fleet.ports.length = s.fleet.ports.length := by
  unfold takeAck
  dsimp only
  obtain ⟨v, hv⟩ : ∃ v, v = if bitOf t.toNat 24 then ackFrames (portOf s n) (bitsOf t.toNat 12 12) else portOf s n := ⟨_, rfl⟩
  have h1 : v.rxSeq = (portOf s n).rxSeq ∧ v.nak = (portOf s n).nak ∧ v.flits = (portOf s n).flits := by
    rw [hv]; split <;> exact ⟨rfl, rfl, rfl⟩
  rw [← hv]
  split
  · rw [portOf_rbump, portOf_putPort _ _ _ hn]
    obtain ⟨a, b, c, _⟩ := sendWaiting_facts { v with
      resent := v.replay.map (fun q => q.1), replays := v.replays + 1, sent := v.sent ++ v.replay.map (frameOf v) }
    exact ⟨a.trans h1.1, b.trans h1.2.1, c.trans h1.2.2, rfl, List.length_set⟩
  · rw [portOf_putPort _ _ _ hn]
    obtain ⟨a, b, c, _⟩ := sendWaiting_facts { v with resent := [] }
    exact ⟨a.trans h1.1, b.trans h1.2.1, c.trans h1.2.2, rfl, List.length_set⟩

theorem rget_fltAll_same (s : State) (f : Fld) (v : Nat) (h : f.fits = true) (hv : v < 2 ^ f.width) (hs : f.off < 2 ^ 21) (h0 : f.stride = 0) :
    rget (fltAll s f v) 0 f = v := by
  unfold fltAll
  show rget (rput (rput (rput (rput s (dieStack 0) f v) (dieStack 1) f v) (dieStack 2) f v) (dieStack 3) f v) 0 f = v
  have ne : ∀ a b : Nat, a ≠ b → regKey a (f.off + f.stride * 0) ≠ regKey b (f.off + f.stride * 0) := fun a b h =>
    regKey_ne_stack _ _ _ _ h (by rw [h0]; simpa using hs) (by rw [h0]; simpa using hs)
  rw [rget_rput_other _ _ _ _ _ _ _ _ h (Or.inl (ne _ _ (by decide))), rget_rput_other _ _ _ _ _ _ _ _ h (Or.inl (ne _ _ (by decide))), rget_rput_other _ _ _ _ _ _ _ _ h (Or.inl (ne _ _ (by decide)))]
  exact rget_rput_same1 s 0 f v h hv

theorem rget_fltAll_mod (s : State) (f : Fld) (v : Nat) (h : f.fits = true) (hs : f.off < 2 ^ 21) (h0 : f.stride = 0) :
    rget (fltAll s f v) 0 f = v % 2 ^ f.width := by
  unfold fltAll
  show rget (rput (rput (rput (rput s (dieStack 0) f v) (dieStack 1) f v) (dieStack 2) f v) (dieStack 3) f v) 0 f = _
  have ne : ∀ a b : Nat, a ≠ b → regKey a (f.off + f.stride * 0) ≠ regKey b (f.off + f.stride * 0) := fun a b h =>
    regKey_ne_stack _ _ _ _ h (by rw [h0]; simpa using hs) (by rw [h0]; simpa using hs)
  rw [rget_rput_other _ _ _ _ _ _ _ _ h (Or.inl (ne _ _ (by decide))), rget_rput_other _ _ _ _ _ _ _ _ h (Or.inl (ne _ _ (by decide))), rget_rput_other _ _ _ _ _ _ _ _ h (Or.inl (ne _ _ (by decide)))]
  exact rget_rput_same s 0 f v 0 h

theorem rget_fltAll_apart (s : State) (f g : Fld) (v : Nat) (hg : g.fits = true) (h : f.apart g = true) (k : Nat) :
    rget (fltAll s g v) k f = rget s k f := by
  unfold fltAll
  show rget (rput (rput (rput (rput s (dieStack 0) g v) (dieStack 1) g v) (dieStack 2) g v) (dieStack 3) g v) k f = _
  rw [rget_rput_other _ _ _ _ _ _ _ _ hg (Or.inr h), rget_rput_other _ _ _ _ _ _ _ _ hg (Or.inr h), rget_rput_other _ _ _ _ _ _ _ _ hg (Or.inr h), rget_rput_other _ _ _ _ _ _ _ _ hg (Or.inr h)]

theorem rget_fltAll_off (s : State) (f g : Fld) (v : Nat) (hg : g.fits = true)
    (h : ∀ d, d < 4 → regKey 0 (f.off + f.stride * 0) ≠ regKey (dieStack d) (g.off + g.stride * 0)) :
    rget (fltAll s g v) 0 f = rget s 0 f := by
  unfold fltAll
  show rget (rput (rput (rput (rput s (dieStack 0) g v) (dieStack 1) g v) (dieStack 2) g v) (dieStack 3) g v) 0 f = _
  rw [rget_rput_other _ _ _ _ _ _ _ _ hg (Or.inl (h 3 (by decide))), rget_rput_other _ _ _ _ _ _ _ _ hg (Or.inl (h 2 (by decide))), rget_rput_other _ _ _ _ _ _ _ _ hg (Or.inl (h 1 (by decide))), rget_rput_other _ _ _ _ _ _ _ _ hg (Or.inl (h 0 (by decide)))]

theorem only_fltAll (s : State) (f : Fld) (v : Nat) : changesOnly [.regs] s (fltAll s f v) := by
  unfold fltAll
  exact only_trans (only_trans (only_trans (only_rput _ _ _ _ _) (only_rput _ _ _ _ _)) (only_rput _ _ _ _ _)) (only_rput _ _ _ _ _)

theorem only_fleet (s : State) (v : FleetSt) : changesOnly [.fleet] s { s with fleet := v } := by
  intro p hp
  cases p <;> first | rfl | exact absurd (by simp) hp

theorem fltAll_fleet (s : State) (f : Fld) (v : Nat) : (fltAll s f v).fleet = s.fleet := rfl

theorem hailAgain_hails (s : State) : (hailAgain s).fleet.hails = [ownHail s] := rfl

theorem acceptNumbers_numbers (s : State) (r : NumbersRec) : (acceptNumbers s r).fleet.numbers = r.serials := by
  have a1 : ∀ x, (fillNeighbours x).fleet = x.fleet := fun x =>
    (fillNeighbours_frame (fm := [.regs]) x (.refl _ _) (by decide)).fleet.resolve_left (by decide)
  have a2 : ∀ x, (writeTopology x).fleet = x.fleet := fun x =>
    (writeTopology_frame (fm := [.regs, .vil, .serve]) x (.refl _ _) (by decide)).fleet.resolve_left (by decide)
  have a3 : ∀ x, (placeInTree x).fleet = x.fleet := fun x => rfl
  have a5 : ∀ x k f, (rset x k f).fleet = x.fleet := fun x k f => rfl
  unfold acceptNumbers
  dsimp only
  split
  · rw [a5, a3, fltAll_fleet, a2, a1, rput_fleet, rput_fleet, rput_fleet]
  · rw [a3, fltAll_fleet, a2, a1, rput_fleet, rput_fleet, rput_fleet]

theorem startDiscovery_eq (s : State) (b : Bool) (hf : fleetOn s = true) : ∃ s2 s3 : State, s2 = { rput s 0 FLT_MOD_HINT (match (if ron s 0 FLT_MOD_VALID then some (moduleNo s) else s.fleet.hint) with
        | some x => x.toNat
        | none => 0) with fleet := { s.fleet with advances := 0, hails := [] } }
      ∧ s3 = rput (fltAll (fltAll s2 FLT_STATUS_ROUND ((rget s 0 FLT_STATUS_ROUND + 1) % 256)) FLT_STATUS_PILOT 0) 0 CHR_STATUS_HOLDOVER 0
      ∧ startDiscovery s b = trainOrHail s3 b :=
  ⟨_, _, rfl, rfl, by unfold startDiscovery; rw [if_pos hf]; rfl⟩

theorem settle_eq (s : State) (hd : rget s 0 FLT_STATUS_DISC = 2)
    (hq : ∀ q, q < 16 → pget s q FLT_PORT_STATE = 0 ∨ 4 ≤ pget s q FLT_PORT_STATE) :
    exec .discoverySettle s = .next (settleView (elapseToTick s (s.fleet.lastNew + 10000000))) := by
  show execDiscoverySettle s = _
  unfold execDiscoverySettle
  rw [if_pos ⟨hd, by
    simp only [portsTrain, Bool.not_eq_true', List.any_eq_false, Bool.and_eq_true, decide_eq_true_eq, not_and, List.mem_range]
    intro q h16 h1
    have := hq q h16
    omega⟩]

theorem settleView_cases (s1 : State) (x : Dword) (l : List Dword) (hv : viewSerials s1 = x :: l) :
    (x ≠ ownSerial s1 → (Host.Outcome.next (settleView s1) : Host.Outcome State Fault Refusal) = .next (fltAll s1 FLT_STATUS_DISC 3))
    ∧ (x = ownSerial s1 →
        let nums := assignNumbers s1
        let r : NumbersRec :=
          ⟨nums, nums.length, BitVec.ofNat 8 (rget s1 0 FLT_STATUS_ROUND), serialCrc (viewSerials s1)⟩
        (Host.Outcome.next (settleView s1) : Host.Outcome State Fault Refusal) = .next (floodNumbers (acceptNumbers
          (fltAll (fltAll s1 FLT_STATUS_PILOT 1) FLT_STATUS_DISC 3) r) r none)) := by
  constructor
  · intro h; unfold settleView; rw [hv]; dsimp only; rw [if_neg h]
  · intro h; unfold settleView; rw [hv]; dsimp only; rw [if_pos h]

theorem only_answers (s : State) (l : List RegAnswer) : changesOnly [.answers] s { s with answers := l } := by
  intro p hp
  cases p <;> first | rfl | exact absurd (by simp) hp

theorem only_bnc (s : State) (v : BinnSt) : changesOnly [.bnc] s { s with bnc := v } := by
  intro p hp
  cases p <;> first | rfl | exact absurd (by simp) hp

theorem only_chr (s : State) (v : ChronoSt) : changesOnly [.chr] s { s with chr := v } := by
  intro p hp
  cases p <;> first | rfl | exact absurd (by simp) hp

theorem only_setRword (s : State) (k off : Nat) (w : Word) : changesOnly [.regs] s (setRword s k off w) := by
  intro p hp
  cases p <;> first | rfl | exact absurd (by simp) hp

/-- A register read leaves the machine as it was, but for the snapshots of the two low timing words and the stacks of a
DEVTABLE_COMMIT that have ended, and answers what the register then shows. -/
theorem readReg_facts (s : State) (k off : Nat) :
    (off / 0x10000 ≠ 1 ∨ s.bnc.masked = [] → changesOnly [.chr] s (readReg s k off).1)
    ∧ (off ≠ 0x40008 → off ≠ 0x40014 → off / 0x10000 ≠ 1 → (readReg s k off).1 = s)
    ∧ (off / 0x10000 = 1 → (readReg s k off).1 = passMasked s)
    ∧ (readReg s k off).2 = reg2View (readReg s k off).1 k off := by
  refine ⟨fun h => ?_, fun h1 h2 h3 => ?_, fun h => ?_, rfl⟩
  all_goals
    unfold readReg
    dsimp only
  · split
    · exact only_chr _ _
    · split
      · exact only_chr _ _
      · split
        · have e : s.bnc.masked = [] := h.resolve_left (not_not_intro (by assumption))
          have : passMasked s = s := by unfold passMasked; rw [e]; rfl
          rw [this]; exact only_refl _ _
        · exact only_refl _ _
  · rw [if_neg h1, if_neg h2, if_neg h3]
  · rw [if_neg (by omega), if_neg (by omega), if_pos h]

theorem joinWords_zero (w : Word) : joinWords w 0 = w.setWidth 64 := by
  unfold joinWords
  apply BitVec.eq_of_toNat_eq
  have := w.isLt
  simp

theorem filter_nil (fs : List Fld) : (fs.filter fun f => !([] : List Fld).contains f) = fs := by
  simp

theorem storeReg_nil (s : State) (src : Source) (k off : Nat) (v : Word) :
    storeReg s src k off v [] = setRword s k off (storeWord (blockFields off) (regLocked s src k off) off (rword s k off) v) := by
  unfold storeReg
  rw [filter_nil]

theorem writeReg_plain (s : State) (src : Source) (k off : Nat) (v : Word) (h : off / 0x10000 < 3) (ha : actsOnWrite off = false) :
    writeReg s src k off v = storeReg s src k off v [] := by
  simp only [actsOnWrite, Bool.or_eq_false_iff, beq_eq_false_iff_ne] at ha
  unfold writeReg
  generalize hq : off / 0x10000 = q at h
  match q, h with
  | 0, _ => show writeStk s src k off v = _; unfold writeStk; dsimp only; rw [if_neg (fun h => ha.1.1 h.1)]
  | 1, _ => show writeSxt s src k off v = _; unfold writeSxt; rw [if_neg ha.1.2]
  | 2, _ => show writeCht s src k off v = _; unfold writeCht; rw [if_neg ha.2]

theorem rword_answered (s : State) (a : RegAccess) (st : Status) (d : Dword) (k off : Nat) :
    rword (answered s a st d) k off = rword s k off := rfl

theorem access_open (s : State) (src : Source) (k : BitVec 3) (off : BitVec 21) (h4 : off.toNat % 4 = 0)
    (ho : regOpen s src k.toNat off.toNat = true) (w : Option Dword) :
    ¬ (off.toNat % (if false = true then 8 else 4) ≠ 0 ∨ (!regOpen s src k.toNat off.toNat) = true) := by
  rintro (h | h)
  · exact h h4
  · rw [ho] at h; cases h

theorem reg2_write (s : State) (src : Source) (k off : Nat) (v : Dword) (h4 : off % 4 = 0) (ho : regOpen s src k off = true) :
    accessReg2 s src k off false (some v) = (writeReg s src k off (v.setWidth 32), .ok, 0) := by
  unfold accessReg2
  rw [if_neg (by rintro (h | h); exacts [h h4, by rw [ho] at h; cases h])]
  rfl

theorem reg2_read (s : State) (src : Source) (k off : Nat) (h4 : off % 4 = 0) (ho : regOpen s src k off = true) :
    accessReg2 s src k off false none = ((readReg s k off).1, .ok, (reg2View (readReg s k off).1 k off).setWidth 64) := by
  unfold accessReg2
  rw [if_neg (by rintro (h | h); exacts [h h4, by rw [ho] at h; cases h])]
  show ((readReg s k off).1, Status.ok, joinWords (readReg s k off).2 0) = _
  rw [joinWords_zero, (readReg_facts s k off).2.2.2]

theorem reg2_fenced (s : State) (src : Source) (k off : Nat) (wide : Bool) (w : Option Dword)
    (h : regOpen s src k off = false ∨ off % (if wide then 8 else 4) ≠ 0) :
    accessReg2 s src k off wide w = (s, .fenced, 0) := by
  unfold accessReg2
  rw [if_pos (by rcases h with h | h; exacts [Or.inr (by rw [h]; rfl), Or.inl h])]

theorem reg2_exec (s : State) (src : Source) (k : BitVec 3) (off : BitVec 21) (wide : Bool) (w : Option Dword) (q : State × Status × Dword)
    (h : accessReg2 (accessFlit s src k.toNat w.isSome) src k.toNat off.toNat wide w = q) :
    exec (.registerAccess ⟨src, .reg2 k off, wide, w⟩) s = .next (answered q.1 ⟨src, .reg2 k off, wide, w⟩ q.2.1 q.2.2) := by
  subst h; rfl

theorem tile_exec (s : State) (src : Source) (r : TileRef) (off : BitVec 12) (wide : Bool) (w : Option Dword) (q : State × Status × Dword)
    (h : accessTile (accessFlit s src r.stack.toNat w.isSome) src r off.toNat wide w = q) :
    exec (.registerAccess ⟨src, .tile r off, wide, w⟩) s = .next (answered q.1 ⟨src, .tile r off, wide, w⟩ q.2.1 q.2.2) := by
  subst h; rfl

theorem bearing_run (s : State) (kept : Bool) (f : State → State) (h1 : portRuns s = true) (h2 : s.bnc.long = none)
    (h3 : ron s 0 LSR_STATUS_RECOVERY = false) : bearing s kept f = f s := by
  unfold bearing
  rw [h1, h2, h3]
  rfl

theorem only_reply (s : State) (st : Nat) (d : Word) : changesOnly [.bnc] s (reply s st d) := only_bnc _ _

def sepFld (f g : Fld) : Bool :=
  f.apart g || decide (f.off + f.stride * (f.count - 1) < g.off) || decide (g.off + g.stride * (g.count - 1) < f.off)
    || (decide (f.stride = g.stride) && decide (0 < f.stride) && decide (f.off % f.stride ≠ g.off % f.stride))

def sepAll : List Fld → Bool
  | [] => true
  | f :: fs => f.fits && fs.all (sepFld f) && sepAll fs

theorem fldIndex_range (f : Fld) (o i : Nat) (h : fldIndex f o = some i) :
    f.off ≤ o ∧ o ≤ f.off + f.stride * (f.count - 1) ∧ (0 < f.stride → o % f.stride = f.off % f.stride) := by
  unfold fldIndex at h
  split at h
  · cases h
  · split at h
    · rename_i h1 h2
      split at h
      · rename_i h3; rw [h2]; omega
      · cases h
    · rename_i h1 h2
      split at h
      · rename_i h3
        obtain ⟨h3, h4⟩ := h3
        have hd := Nat.div_add_mod (o - f.off) f.stride
        rw [h3] at hd
        have : f.stride * ((o - f.off) / f.stride) ≤ f.stride * (f.count - 1) := Nat.mul_le_mul_left _ (by omega)
        refine ⟨by omega, by omega, fun _ => ?_⟩
        have e : o = f.off + f.stride * ((o - f.off) / f.stride) := by omega
        rw [e, Nat.add_mul_mod_self_left]
      · cases h

theorem sep_apart (f g : Fld) (o i j : Nat) (hs : sepFld f g = true) (hf : fldIndex f o = some i) (hg : fldIndex g o = some j) :
    f.apart g = true := by
  have a := fldIndex_range f o i hf
  have b := fldIndex_range g o j hg
  simp only [sepFld, Bool.or_eq_true, Bool.and_eq_true, decide_eq_true_eq] at hs
  rcases hs with ((h | h) | h) | h
  · exact h
  · omega
  · omega
  · obtain ⟨⟨h1, h2⟩, h3⟩ := h
    have := a.2.2 h2
    have := b.2.2 (by omega)
    rw [← h1] at this
    omega

theorem storeField_apart (l : Bool) (w v : Nat) (f g : Fld) (h : f.apart g = true) :
    bitsOf (storeField l w v g) f.lo f.width = bitsOf w f.lo f.width := by
  have key : ∀ x, bitsOf (putBits w g.lo g.width x) f.lo f.width = bitsOf w f.lo f.width := by
    intro x
    simp only [Fld.apart, Bool.or_eq_true, decide_eq_true_eq] at h
    rcases h with h | h
    · exact bitsOf_putBits_below _ _ _ _ _ _ h
    · exact bitsOf_putBits_above _ _ _ _ _ _ h
  unfold storeField
  split <;> first | exact key _ | rfl | (split <;> first | exact key _ | rfl)

def stepFld (l : Bool) (o v : Nat) (w : Nat) (f : Fld) : Nat :=
  match fldIndex f o with
  | some _ => storeField l w v f
  | none => w

theorem fold_apart (l : Bool) (o v i : Nat) (f : Fld) (hf : fldIndex f o = some i) :
    ∀ (gs : List Fld) (w : Nat), gs.all (sepFld f) = true →
      bitsOf (gs.foldl (stepFld l o v) w) f.lo f.width = bitsOf w f.lo f.width := by
  intro gs
  induction gs with
  | nil => intro w _; rfl
  | cons g gs ih =>
    intro w h
    simp only [List.all_cons, Bool.and_eq_true] at h
    rw [List.foldl_cons, ih _ h.2]
    unfold stepFld
    split
    · rename_i j hj
      exact storeField_apart _ _ _ _ _ (sep_apart f g o i j h.1 hf hj)
    · rfl

theorem apart_symm (f g : Fld) : f.apart g = g.apart f := by simp only [Fld.apart, Bool.or_comm]

theorem sep_symm (f g : Fld) (h : sepFld f g = true) : sepFld g f = true := by
  unfold sepFld at *
  rw [apart_symm g f]
  simp only [Bool.or_eq_true, Bool.and_eq_true, decide_eq_true_eq] at *
  rcases h with ((h | h) | h) | h
  · exact .inl (.inl (.inl h))
  · exact .inl (.inr h)
  · exact .inl (.inl (.inr h))
  · refine .inr ⟨⟨h.1.1.symm, by omega⟩, ?_⟩
    rw [← h.1.1]; exact fun e => h.2 e.symm

/-- A field of the store is what its access code makes of the field before. -/
theorem fold_field (l : Bool) (o v i : Nat) (f : Fld) (hf : fldIndex f o = some i) :
    ∀ (fs : List Fld) (w : Nat), sepAll fs = true → f ∈ fs → ∃ w', bitsOf w' f.lo f.width = bitsOf w f.lo f.width ∧
      bitsOf (fs.foldl (stepFld l o v) w) f.lo f.width = bitsOf (storeField l w' v f) f.lo f.width := by
  intro fs
  induction fs with
  | nil => intro w _ h; simp at h
  | cons g gs ih =>
    intro w h hm
    simp only [sepAll, Bool.and_eq_true] at h
    rw [List.foldl_cons]
    by_cases e : f = g
    · subst e
      refine ⟨w, rfl, ?_⟩
      rw [fold_apart l o v i f hf gs _ h.1.2]
      unfold stepFld; rw [hf]
    · have hm2 : f ∈ gs := by simpa [e] using hm
      obtain ⟨w', h1, h2⟩ := ih (stepFld l o v w g) h.2 hm2
      refine ⟨w', h1.trans ?_, h2⟩
      have hsep : sepFld f g = true := sep_symm _ _ (List.all_eq_true.1 h.1.2 f hm2)
      unfold stepFld
      split
      · rename_i j hj
        exact storeField_apart _ _ _ _ _ (sep_apart f g o i j hsep hf hj)
      · rfl

theorem sepAll_fits (fs : List Fld) (f : Fld) (h : sepAll fs = true) (hm : f ∈ fs) : f.lo + f.width ≤ 32 := by
  induction fs with
  | nil => simp at hm
  | cons g gs ih =>
    simp only [sepAll, Bool.and_eq_true] at h
    rcases List.mem_cons.1 hm with rfl | hm
    · simpa [Fld.fits] using h.1.1
    · exact ih h.2 hm

theorem bitOf_testBit (x i : Nat) : bitOf x i = x.testBit i := by
  rw [Nat.testBit_eq_decide_div_mod_eq]
  simp [bitOf, Nat.beq_eq_true_eq, beq_eq_decide]

theorem sub_and_bit (a b : Nat) : ∀ j, (a - (a &&& b)).testBit j = (a.testBit j && !b.testBit j) := by
  intro j
  induction j generalizing a b with
  | zero =>
    have h1 : (a &&& b) ≤ a := Nat.and_le_left
    have h2 : (a &&& b) % 2 = (a % 2) * (b % 2) := by
      have := Nat.and_mod_two_pow (a := a) (b := b) (n := 1)
      simp only [Nat.pow_one] at this
      rw [this]
      rcases Nat.mod_two_eq_zero_or_one a with ha | ha <;> rcases Nat.mod_two_eq_zero_or_one b with hb | hb <;> simp [ha, hb]
    simp only [Nat.testBit_zero]
    rcases Nat.mod_two_eq_zero_or_one a with ha | ha <;> rcases Nat.mod_two_eq_zero_or_one b with hb | hb <;>
      simp only [ha, hb] at h2 ⊢ <;> simp <;> omega
  | succ j ih =>
    rw [Nat.testBit_succ, Nat.testBit_succ, Nat.testBit_succ, ← ih]
    congr 1
    have h1 : (a &&& b) ≤ a := Nat.and_le_left
    have h2 : (a &&& b) / 2 = (a / 2) &&& (b / 2) := by
      have := Nat.and_div_two_pow (a := a) (b := b) (n := 1)
      simpa using this
    have h3 : (a &&& b) % 2 ≤ a % 2 := by
      have := Nat.and_mod_two_pow (a := a) (b := b) (n := 1)
      simp only [Nat.pow_one] at this
      rw [this]; exact Nat.and_le_left
    rw [← h2]; omega

theorem tables_sep (off : Nat) (fs : List Fld) (h : fs = tileFields ∨ fs = blockFields off) : sepAll fs = true := by
  rcases h with rfl | rfl
  · decide +kernel
  · unfold blockFields
    split <;> first | rfl | decide +kernel

theorem rget_rput_ne (s : State) (k : Nat) (f g : Fld) (v : Nat) (hg : g.fits = true) (h : f.off ≠ g.off ∨ f.apart g = true) :
    rget (rput s k g v) k f = rget s k f := by
  refine rget_rput_other _ _ _ _ _ _ _ _ hg ?_
  rcases h with h | h
  · left
    rw [Ne, regKey_inj]
    simpa using h
  · exact Or.inr h

theorem rget_rput_mod (s : State) (k : Nat) (f : Fld) (v : Nat) (h : f.fits = true) :
    rget (rput s k f v) k f = v % 2 ^ f.width := rget_rput_same s k f v 0 h

theorem rget_setTick (s : State) (t k : Nat) (f : Fld) : rget { s with tick := t } k f = rget s k f := rfl

theorem rbump_same (s : State) (k : Nat) (f : Fld) (c : Nat) (h : f.fits = true) :
    rget (rbump s k f c) k f = (rget s k f + c) % 2 ^ f.width := rget_rput_mod _ _ _ _ h

theorem rbump_ne (s : State) (k : Nat) (f g : Fld) (c : Nat) (hg : g.fits = true) (h : f.off ≠ g.off ∨ f.apart g = true) :
    rget (rbump s k g c) k f = rget s k f := rget_rput_ne _ _ _ _ _ hg h

theorem rset_one (s : State) (k : Nat) (f : Fld) (h : f.fits = true) (hw : 1 < 2 ^ f.width) : rget (rset s k f) k f = 1 :=
  rget_rput_same1 s k f 1 h hw

theorem rset_ne (s : State) (k : Nat) (f g : Fld) (hg : g.fits = true) (h : f.off ≠ g.off ∨ f.apart g = true) :
    rget (rset s k g) k f = rget s k f := rget_rput_ne _ _ _ _ _ hg h

theorem regsBut_rputm (s : State) (k : Nat) (f : Fld) (v : Nat) (l : List (Nat × Nat)) (h : (k, f.off) ∈ l) :
    regsBut l s (rput s k f v) :=
  regsBut_mono (regsBut_rput0 s k f v) fun q hq => by rw [List.mem_singleton] at hq; exact hq ▸ h

theorem only_tick (s : State) (v : Nat) : changesOnly [.tick] s { s with tick := v } := by
  intro p hp
  cases p <;> first | rfl | exact absurd (by simp) hp

theorem watch_split (b : Nat) : b % 2 ^ 32 + b / 2 ^ 32 % 2 ^ 32 * 2 ^ 32 = b % 2 ^ 64 := by omega

theorem putStart_start (s : State) (b : Nat) : watchStart (putStart s b) = b % 2 ^ 64 := by
  unfold watchStart putStart
  rw [rget_rput_ne _ _ _ _ _ (by decide) (by decide), rget_rput_mod _ _ _ _ (by decide), rget_rput_mod _ _ _ _ (by decide)]
  exact watch_split b

theorem stepTick_facts (s : State) (o : Int) :
    (stepTick s o).tick = ((s.tick : Int) + o).toNat
    ∧ rget (stepTick s o) 0 CHR_WATCH_WATCH = (stepTick s o).tick / 128000 % 2 ^ 32
    ∧ watchStart (stepTick s o) = (stepTick s o).tick / 128000 * 128000 % 2 ^ 64
    ∧ rget (stepTick s o) 0 CHR_STATUS_HOLDOVER = rget s 0 CHR_STATUS_HOLDOVER
    ∧ regsBut alignWords s (stepTick s o) ∧ changesOnly [.tick, .regs] s (stepTick s o) := by
  unfold stepTick
  dsimp only
  generalize ((s.tick : Int) + o).toNat = t
  refine ⟨rfl, ?_, putStart_start _ _, ?_, ?_, ?_⟩
  · unfold putStart
    rw [rget_rput_ne _ _ _ _ _ (by decide) (by decide), rget_rput_ne _ _ _ _ _ (by decide) (by decide), rget_rput_mod _ _ _ _ (by decide)]
    rfl
  · unfold putStart
    rw [rget_rput_ne _ _ _ _ _ (by decide) (by decide), rget_rput_ne _ _ _ _ _ (by decide) (by decide), rget_rput_ne _ _ _ _ _ (by decide) (by decide)]
    rfl
  · unfold putStart
    exact regsBut_trans (regsBut_trans (regsBut_trans (t := { s with tick := t }) (regsBut_of_regs rfl _) (regsBut_rputm _ _ _ _ _ (by decide)))
      (regsBut_rputm _ _ _ _ _ (by decide))) (regsBut_rputm _ _ _ _ _ (by decide))
  · unfold putStart
    refine only_trans (only_mono (only_tick s t) (by decide)) (only_mono (ps := [.regs]) ?_ (by decide))
    exact only_trans (only_trans (only_rput _ _ _ _ _) (only_rput _ _ _ _ _)) (only_rput _ _ _ _ _)

theorem watchStart_rput (s : State) (f : Fld) (v : Nat) (hf : f.fits = true) (h1 : CHR_WSTART_LO_TICK.off ≠ f.off)
    (h2 : CHR_WSTART_HI_TICK.off ≠ f.off) : watchStart (rput s 0 f v) = watchStart s := by
  unfold watchStart
  rw [rget_rput_ne _ _ _ _ _ hf (Or.inl h1), rget_rput_ne _ _ _ _ _ hf (Or.inl h2)]

theorem elapseToTick_only (s : State) (b : Nat) : changesOnly [.cyc, .tick, .tfrac] s (elapseToTick s b) := by
  unfold elapseToTick
  split
  · exact only_refl _ _
  · intro p hp
    cases p <;> first | rfl | exact absurd (by simp) hp

theorem elapse_only (s : State) (n : Nat) : changesOnly [.cyc, .tick, .tfrac] s (elapse s n) := by
  unfold elapse
  split
  all_goals
    intro p hp
    cases p <;> first | rfl | exact absurd (by simp) hp

theorem regsBut_of_only {ps : List Component} {s t : State} (h : changesOnly ps s t) (hp : Component.regs ∉ ps) (l : List (Nat × Nat)) :
    regsBut l s t := regsBut_of_regs (h .regs hp) l

theorem only_slot0 (s : State) (v : Nat) : changesOnly [.slot0] s { s with slot0 := v } := by
  intro p hp
  cases p <;> first | rfl | exact absurd (by simp) hp

theorem rset_facts (s : State) (f : Fld) (h : f.fits = true) (hw : 1 < 2 ^ f.width) :
    rget (rset s 0 f) 0 f = 1 ∧ regsBut [(0, f.off)] s (rset s 0 f) ∧ changesOnly [.regs] s (rset s 0 f) :=
  ⟨rset_one _ _ _ h hw, regsBut_rput0 _ _ _ _, only_rput _ _ _ _ _⟩

/-- The refusal bits that ARM sets. -/
def refuseArm (s : State) (a b c : Bool) : State :=
  let s1 := if a then rset s 0 CHR_STATUS_STALE else s
  let s2 := if b then rset s1 0 CHR_STATUS_LATE else s1
  if c then rset s2 0 CHR_STATUS_BUSYL else s2

theorem refuseArm_facts (s : State) (a b c : Bool) :
    (a = true → rget (refuseArm s a b c) 0 CHR_STATUS_STALE = 1)
    ∧ (b = true → rget (refuseArm s a b c) 0 CHR_STATUS_LATE = 1)
    ∧ (c = true → rget (refuseArm s a b c) 0 CHR_STATUS_BUSYL = 1)
    ∧ regsBut [(0, 0x40004)] s (refuseArm s a b c) ∧ changesOnly [.regs] s (refuseArm s a b c) := by
  have k : ∀ (x : State) (f : Fld), f.off = 0x40004 → regsBut [(0, 0x40004)] x (rset x 0 f) := fun x f h => h ▸ regsBut_rput0 x 0 f 1
  have one : ∀ x f, changesOnly [.regs] x (rset x 0 f) := fun x f => only_rput _ _ _ _ _
  have n1 : ∀ x, rget (rset x 0 CHR_STATUS_LATE) 0 CHR_STATUS_STALE = rget x 0 CHR_STATUS_STALE := fun x => rset_ne _ _ _ _ (by decide) (by decide)
  have n2 : ∀ x, rget (rset x 0 CHR_STATUS_BUSYL) 0 CHR_STATUS_STALE = rget x 0 CHR_STATUS_STALE := fun x => rset_ne _ _ _ _ (by decide) (by decide)
  have n3 : ∀ x, rget (rset x 0 CHR_STATUS_BUSYL) 0 CHR_STATUS_LATE = rget x 0 CHR_STATUS_LATE := fun x => rset_ne _ _ _ _ (by decide) (by decide)
  have o1 : ∀ x, rget (rset x 0 CHR_STATUS_STALE) 0 CHR_STATUS_STALE = 1 := fun x => rset_one _ _ _ (by decide) (by decide)
  have o2 : ∀ x, rget (rset x 0 CHR_STATUS_LATE) 0 CHR_STATUS_LATE = 1 := fun x => rset_one _ _ _ (by decide) (by decide)
  have o3 : ∀ x, rget (rset x 0 CHR_STATUS_BUSYL) 0 CHR_STATUS_BUSYL = 1 := fun x => rset_one _ _ _ (by decide) (by decide)
  have r : ∀ (x : State) (f : Fld) (d : Bool), f.off = 0x40004 → regsBut [(0, 0x40004)] x (if d then rset x 0 f else x) := by
    intro x f d h; cases d; exacts [regsBut_refl _ _, k x f h]
  have q : ∀ (x : State) (f : Fld) (d : Bool), changesOnly [.regs] x (if d then rset x 0 f else x) := by
    intro x f d; cases d; exacts [only_refl _ _, one x f]
  unfold refuseArm
  dsimp only
  refine ⟨fun h => ?_, fun h => ?_, fun h => ?_, ?_, ?_⟩
  · subst h; cases b <;> cases c <;> simp [n1, n2, o1]
  · subst h; cases c <;> simp [n3, o2]
  · subst h; simp [o3]
  · exact regsBut_trans (regsBut_trans (r _ _ _ rfl) (r _ _ _ rfl)) (r _ _ _ rfl)
  · exact only_trans (only_trans (q _ _ _) (q _ _ _)) (q _ _ _)

theorem only_serve' (s : State) (v : ServeSt) : changesOnly [.serve] s { s with serve := v } := by
  intro p hp
  cases p <;> first | rfl | exact absurd (by simp) hp

theorem mem_regs_foldl {α : Type} (f : State → α → State) (l : List (Nat × Nat)) (xs : List α)
    (h : ∀ x ∈ xs, ∀ s, regsBut l s (f s x)) (s : State) : regsBut l s (xs.foldl f s) := by
  induction xs generalizing s with
  | nil => exact regsBut_refl _ _
  | cons a r ih =>
    exact regsBut_trans (h a List.mem_cons_self s) (ih (fun x hx => h x (List.mem_cons_of_mem _ hx)) _)

theorem only_foldl {α : Type} (f : State → α → State) (ps : List Component) (xs : List α)
    (h : ∀ x ∈ xs, ∀ s, changesOnly ps s (f s x)) (s : State) : changesOnly ps s (xs.foldl f s) := by
  induction xs generalizing s with
  | nil => exact only_refl _ _
  | cons a r ih =>
    exact only_trans (h a List.mem_cons_self s) (ih (fun x hx => h x (List.mem_cons_of_mem _ hx)) _)

/-- The words that `showSextant` writes. -/
def showWords (k : Nat) : List (Nat × Nat) :=
  [(k, 0x10004), (k, 0x10020)] ++ (List.range 15).map fun n => (k, 0x10040 + 4 * n)

theorem showSextant_regs (s : State) (k : Nat) : regsBut (showWords k) s (showSextant s k) := by
  have h1 : (k, SXT_STATUS_ACTIVITY.off) ∈ showWords k := by simp [showWords, SXT_STATUS_ACTIVITY]
  have h2 : (k, SXT_STATUS_STEPPING.off) ∈ showWords k := by simp [showWords, SXT_STATUS_STEPPING]
  have h3 : (k, SXT_STATUS_REMAIN.off) ∈ showWords k := by simp [showWords, SXT_STATUS_REMAIN]
  have h4 : (k, SXT_DEMAND_PENDING.off) ∈ showWords k := by simp [showWords, SXT_DEMAND_PENDING]
  have h5 : (k, SXT_DEMAND_WAITED.off) ∈ showWords k := by simp [showWords, SXT_DEMAND_WAITED]
  have h6 : (k, SXT_DEMAND_STRETCH_REQ.off) ∈ showWords k := by simp [showWords, SXT_DEMAND_STRETCH_REQ]
  unfold showSextant
  extract_lets d s1 s2
  have r1 : regsBut (showWords k) s s1 :=
    regsBut_trans (regsBut_trans (regsBut_rputm _ _ _ _ _ h1) (regsBut_rputm _ _ _ _ _ h2)) (regsBut_rputm _ _ _ _ _ h3)
  have r2 : regsBut (showWords k) s s2 :=
    regsBut_trans (regsBut_trans (regsBut_trans r1 (regsBut_rputm _ _ _ _ _ h4)) (regsBut_rputm _ _ _ _ _ h5)) (regsBut_rputm _ _ _ _ _ h6)
  clear_value s2
  refine regsBut_trans r2 (mem_regs_foldl _ _ _ (fun n hn s => ?_) s2)
  refine regsBut_mono (regsBut_rput s k SXT_DMAP_PEND _ n) fun q hq => ?_
  rw [List.mem_singleton] at hq
  subst hq
  simp only [showWords, List.mem_append, List.mem_map]
  exact Or.inr ⟨n, hn, rfl⟩

theorem showSextant_only (s : State) (k : Nat) : changesOnly [.regs] s (showSextant s k) := by
  unfold showSextant
  extract_lets d s1 s2
  have r2 : changesOnly [.regs] s s2 :=
    only_trans (only_trans (only_trans (only_trans (only_trans (only_rput _ _ _ _ _) (only_rput _ _ _ _ _)) (only_rput _ _ _ _ _)) (only_rput _ _ _ _ _)) (only_rput _ _ _ _ _)) (only_rput _ _ _ _ _)
  clear_value s2
  exact only_trans r2 (only_foldl _ _ _ (fun n _ s => only_rput _ _ _ _ _) s2)

theorem showWords_ne (k : Nat) (o : Nat) (h : ((showWords 0).any fun q => o == q.2) = false) :
    ∀ q ∈ showWords k, regKey k o ≠ regKey q.1 q.2 := by
  intro q hq e
  have hk : q.1 = k := by
    simp only [showWords, List.mem_append, List.mem_cons, List.not_mem_nil, or_false, List.mem_map] at hq
    rcases hq with (rfl | rfl) | ⟨n, -, rfl⟩ <;> rfl
  rw [hk, regKey_inj] at e
  rw [List.any_eq_false] at h
  have hm : (0, q.2) ∈ showWords 0 := by
    simp only [showWords, List.mem_append, List.mem_cons, List.not_mem_nil, or_false, List.mem_map] at hq ⊢
    rcases hq with (rfl | rfl) | ⟨n, hn, rfl⟩
    · simp
    · simp
    · exact Or.inr ⟨n, hn, rfl⟩
  exact h _ hm (by simpa using e)

theorem showSextant_get (s : State) (k : Nat) (f : Fld) (h : ((showWords 0).any fun q => f.off + f.stride * 0 == q.2) = false) :
    rget (showSextant s k) k f = rget s k f :=
  rget_of_regsBut (showSextant_regs s k) k f 0 (showWords_ne k _ h)

theorem only_putStk' (s : State) (k : Nat) (v : StackSt) : changesOnly [.stk] s (putStk s k v) := only_putStk s k v

theorem showWords_sub (k : Nat) : ∀ q ∈ showWords k, q ∈ triggerWords k := by
  intro q hq
  simp only [showWords, triggerWords, List.mem_append, List.mem_cons, List.not_mem_nil, or_false, List.mem_map] at hq ⊢
  rcases hq with (rfl | rfl) | ⟨n, hn, rfl⟩
  · left; right; left; rfl
  · left; right; right; right; right; rfl
  · right; exact ⟨n, hn, rfl⟩

theorem trigW (k : Nat) (f : Fld) (h : f.off = 0x10000 ∨ f.off = 0x10008 ∨ f.off = 0x1000C) : (k, f.off) ∈ triggerWords k := by
  simp only [triggerWords, List.mem_append, List.mem_cons]
  left
  rcases h with h | h | h <;> rw [h]
  · left; rfl
  · right; right; left; rfl
  · right; right; right; left; rfl

/-- A start of a pass, its facts. -/
theorem startPass_facts (s : State) (k : Nat) (hk : k < s.stk.length) (hp : (stkOf s k).passes ≠ []) :
    regsBut (triggerWords k) s (startPass s k) ∧ changesOnly [.regs, .tiles, .stk, .pwr] s (startPass s k)
    ∧ (∀ m, m ≠ k → stkOf (startPass s k) m = stkOf s m)
    ∧ rget (startPass s k) k SXT_TRIG_AGE = rget s k SXT_TRIG_AGE
    ∧ (¬ ((stkOf s k).pass = none ∧ ron s k SXT_CTL_EN = true) → startPass s k = s)
    ∧ ((stkOf s k).pass = none → ron s k SXT_CTL_EN = true →
        (stkOf (startPass s k) k).passes = [] ∧ (stkOf (startPass s k) k).pass = some ⟨(stkOf s k).passes, s.cyc + 24000, false, false, []⟩
        ∧ ((stkOf s k).passes.contains 5 = true → rget (startPass s k) k SXT_CTL_FIX_REQ = 0
            ∧ rget (startPass s k) k SXT_TRIG_HOST = 1)
        ∧ rget (startPass s k) k SXT_TEMP_FIXTEMP = rget s k SXT_TEMP_NOWTEMP) := by
  have hi : ¬ ((stkOf s k).pass = none ∧ ron s k SXT_CTL_EN = true) → startPass s k = s := by
    intro h
    unfold startPass
    dsimp only
    rw [if_pos]
    rcases Classical.em ((stkOf s k).pass = none) with h2 | h2
    · right; right
      have h3 : ¬ ron s k SXT_CTL_EN = true := fun e => h ⟨h2, e⟩
      simpa using h3
    · left; exact Option.isSome_iff_ne_none.mpr h2
  rcases Classical.em ((stkOf s k).pass = none ∧ ron s k SXT_CTL_EN = true) with h | h
  · obtain ⟨s1, h1⟩ : ∃ x, x = putStk s k { stkOf s k with pass := some ⟨(stkOf s k).passes, s.cyc + 24000, false, false, []⟩, passes := [] } := ⟨_, rfl⟩
    obtain ⟨s2, h2⟩ : ∃ x, x = rput s1 k SXT_TEMP_FIXTEMP (rget s k SXT_TEMP_NOWTEMP) := ⟨_, rfl⟩
    obtain ⟨s3, h3⟩ : ∃ x, x = if (stkOf s k).passes.contains 1 then rset s2 k SXT_TRIG_BRINGUP else s2 := ⟨_, rfl⟩
    obtain ⟨s4, h4⟩ : ∃ x, x = if (stkOf s k).passes.contains 5 then rput (rset s3 k SXT_TRIG_HOST) k SXT_CTL_FIX_REQ 0 else s3 := ⟨_, rfl⟩
    have e0 : startPass s k = wakeSites s4 k := by
      rw [h4]
      unfold startPass
      dsimp only
      rw [if_neg, h3, h2, h1]
      rintro (a | a | a)
      · rw [h.1] at a; cases a
      · exact hp (List.isEmpty_iff.mp a)
      · rw [h.2] at a; cases a
    have k1 : stkOf s1 k = { stkOf s k with pass := some ⟨(stkOf s k).passes, s.cyc + 24000, false, false, []⟩, passes := [] } := by
      rw [h1]; exact stkOf_putStk _ _ _ hk
    have n1 : ∀ m, m ≠ k → stkOf s1 m = stkOf s m := fun m hm => by rw [h1]; exact stkOf_putStk_ne _ _ _ _ hm
    have k3 : s3.stk = s1.stk := by rw [h3]; split <;> rw [h2] <;> rfl
    have wf := wakeSites_frame (fm := [.tiles, .pwr]) (b0 := s4) s4 k (.refl _ _) (by decide)
    have wr : (wakeSites s4 k).regs = s4.regs := wf.regs.resolve_left (by decide)
    have ws : (wakeSites s4 k).stk = s4.stk := wf.stk.resolve_left (by decide)
    have e : s4 = if (stkOf s k).passes.contains 5 then rput (rset s3 k SXT_TRIG_HOST) k SXT_CTL_FIX_REQ 0 else s3 := h4
    have ge : ∀ f : Fld, rget (wakeSites s4 k) k f = rget s4 k f := fun f => rget_congr s4 _ wr k f 0
    have ke : (startPass s k).stk = s1.stk := by rw [e0, ws, e, ← k3]; split <;> rfl
    have rr : ∀ (x : State) (f : Fld) (v : Nat), (f.off = 0x10000 ∨ f.off = 0x10008 ∨ f.off = 0x1000C) → regsBut (triggerWords k) x (rput x k f v) :=
      fun x f v h => regsBut_rputm _ _ _ _ _ (trigW k f h)
    have r3 : regsBut (triggerWords k) s s3 := by
      refine regsBut_trans (t := s2) ?_ ?_
      · rw [h2]
        refine regsBut_trans (t := s1) (regsBut_of_regs (by rw [h1]; rfl) _) (rr _ _ _ (Or.inr (Or.inr rfl)))
      · rw [h3]; split
        · exact rr _ _ _ (Or.inr (Or.inl rfl))
        · exact regsBut_refl _ _
    have o3 : changesOnly [.regs, .stk] s s3 := by
      refine only_trans (t := s2) ?_ ?_
      · rw [h2]
        exact only_trans (t := s1) (by rw [h1]; exact only_mono (only_putStk _ _ _) (by decide)) (only_mono (only_rput _ _ _ _ _) (by decide))
      · rw [h3]; split
        · exact only_mono (only_rput _ _ _ _ _) (by decide)
        · exact only_refl _ _
    have g3 : ∀ f : Fld, (f.off ≠ 0x10008 ∨ f.apart SXT_TRIG_BRINGUP = true) → rget s3 k f = rget s2 k f := by
      intro f hf
      rw [h3]; split
      · exact rset_ne _ _ _ _ (by decide) hf
      · rfl
    refine ⟨?_, ?_, fun m hm => ?_, ?_, fun hh => absurd h hh, fun _ _ => ⟨?_, ?_, fun h5 => ⟨?_, ?_⟩, ?_⟩⟩
    · rw [e0]
      refine regsBut_trans (t := s4) ?_ (regsBut_of_regs wr _)
      rw [e]; split
      · exact regsBut_trans (regsBut_trans r3 (rr _ _ _ (Or.inr (Or.inl rfl)))) (rr _ _ _ (Or.inl rfl))
      · exact r3
    · rw [e0]
      refine only_trans (t := s4) ?_ (only_mono (only_of_frame wf) (by decide))
      rw [e]; split
      · exact only_mono (only_trans (only_trans o3 (only_mono (only_rput _ _ _ _ _) (by decide))) (only_mono (only_rput _ _ _ _ _) (by decide))) (by decide)
      · exact only_mono o3 (by decide)
    · rw [stkOf_congr _ _ ke]; exact n1 m hm
    · rw [e0, ge, e]
      have a2 : rget s2 k SXT_TRIG_AGE = rget s k SXT_TRIG_AGE := by
        rw [h2, rget_rput_ne _ _ _ _ _ (by decide) (by decide), h1]; rfl
      split
      · rw [rget_rput_ne _ _ _ _ _ (by decide) (by decide), rset_ne _ _ _ _ (by decide) (by decide), g3 _ (by decide), a2]
      · rw [g3 _ (by decide), a2]
    · rw [stkOf_congr _ _ ke, k1]
    · rw [stkOf_congr _ _ ke, k1]
    · rw [e0, ge, e, if_pos h5, rget_rput_mod _ _ _ _ (by decide)]; rfl
    · rw [e0, ge, e, if_pos h5, rget_rput_ne _ _ _ _ _ (by decide) (by decide)]
      exact rset_one _ _ _ (by decide) (by decide)
    · have a2 : rget s2 k SXT_TEMP_FIXTEMP = rget s k SXT_TEMP_NOWTEMP := by
        rw [h2, rget_rput_mod _ _ _ _ (by decide)]
        exact Nat.mod_eq_of_lt (rget_lt s k SXT_TEMP_NOWTEMP 0)
      rw [e0, ge, e]
      split
      · rw [rget_rput_ne _ _ _ _ _ (by decide) (by decide), rset_ne _ _ _ _ (by decide) (by decide), g3 _ (by decide), a2]
      · rw [g3 _ (by decide), a2]
  · have e := hi h
    rw [e]
    exact ⟨regsBut_refl _ _, only_refl _ _, fun _ _ => rfl, rfl, fun _ => rfl, fun a b => absurd ⟨a, b⟩ h⟩

theorem trigger_facts (s : State) (k kind : Nat) (hk : k < s.stk.length) :
    regsBut (triggerWords k) s (trigger s k kind) ∧ changesOnly [.regs, .tiles, .stk, .pwr] s (trigger s k kind)
    ∧ (∀ m, m ≠ k → stkOf (trigger s k kind) m = stkOf s m)
    ∧ (kind = 4 → rget (trigger s k kind) k SXT_TRIG_AGE = 1)
    ∧ (¬ ((stkOf s k).pass = none ∧ ron s k SXT_CTL_EN = true) → (stkOf (trigger s k kind) k).passes = withTrigger (stkOf s k).passes kind
        ∧ (stkOf (trigger s k kind) k).pass = (stkOf s k).pass
        ∧ (kind = 5 → rget (trigger s k kind) k SXT_CTL_FIX_REQ = rget s k SXT_CTL_FIX_REQ))
    ∧ ((stkOf s k).pass = none → ron s k SXT_CTL_EN = true →
        (stkOf (trigger s k kind) k).passes = []
        ∧ (stkOf (trigger s k kind) k).pass = some ⟨withTrigger (stkOf s k).passes kind, s.cyc + 24000, false, false, []⟩
        ∧ (kind = 5 → rget (trigger s k kind) k SXT_CTL_FIX_REQ = 0 ∧ rget (trigger s k kind) k SXT_TRIG_HOST = 1)
        ∧ rget (trigger s k kind) k SXT_TEMP_FIXTEMP = rget s k SXT_TEMP_NOWTEMP) := by
  obtain ⟨s1, h1⟩ : ∃ x, x = if kind = 3 then rset s k SXT_TRIG_TEMP else if kind = 4 then rset s k SXT_TRIG_AGE else s := ⟨_, rfl⟩
  obtain ⟨s2, h2⟩ : ∃ x, x = putStk s1 k { stkOf s k with passes := withTrigger (stkOf s k).passes kind } := ⟨_, rfl⟩
  have e : trigger s k kind = showSextant (startPass s2 k) k := by rw [h2, h1]; rfl
  have k1 : s1.stk = s.stk := by rw [h1]; split; rfl; split <;> rfl
  have c1 : s1.cyc = s.cyc := by rw [h1]; split; rfl; split <;> rfl
  have l1 : k < s1.stk.length := by rw [k1]; exact hk
  have k2 : stkOf s2 k = { stkOf s k with passes := withTrigger (stkOf s k).passes kind } := by
    rw [h2]; exact stkOf_putStk _ _ _ l1
  have l2 : k < s2.stk.length := by
    rw [h2]; show k < (s1.stk.set _ _).length; rw [List.length_set]; exact l1
  have g1 : ∀ f : Fld, (f.off ≠ 0x10008) → rget s2 k f = rget s k f := by
    intro f hf
    rw [h2]
    show rget s1 k f = _
    rw [h1]; split
    · exact rset_ne _ _ _ _ (by decide) (Or.inl hf)
    · split
      · exact rset_ne _ _ _ _ (by decide) (Or.inl hf)
      · rfl
  have np : (stkOf s2 k).passes ≠ [] := by
    rw [k2]; show withTrigger _ _ ≠ []
    unfold withTrigger
    split
    · rename_i h; intro h0; rw [h0] at h; cases h
    · simp
  have r2 : regsBut (triggerWords k) s s2 := by
    refine regsBut_trans (t := s1) ?_ (regsBut_of_regs (by rw [h2]; rfl) _)
    rw [h1]; split
    · exact regsBut_rputm _ _ _ _ _ (trigW k _ (Or.inr (Or.inl rfl)))
    · split
      · exact regsBut_rputm _ _ _ _ _ (trigW k _ (Or.inr (Or.inl rfl)))
      · exact regsBut_refl _ _
  have o2 : changesOnly [.regs, .stk] s s2 := by
    refine only_trans (t := s1) ?_ (by rw [h2]; exact only_mono (only_putStk _ _ _) (by decide))
    rw [h1]; split
    · exact only_mono (only_rput _ _ _ _ _) (by decide)
    · split
      · exact only_mono (only_rput _ _ _ _ _) (by decide)
      · exact only_refl _ _
  have en : ron s2 k SXT_CTL_EN = ron s k SXT_CTL_EN := by unfold ron; rw [g1 _ (by decide)]
  obtain ⟨a1, a2, a3, a4, a5, a6⟩ := startPass_facts s2 k l2 np
  have cy : s2.cyc = s.cyc := by rw [h2]; exact c1
  have se : ∀ m, stkOf (trigger s k kind) m = stkOf (startPass s2 k) m := fun m => by
    rw [e]; exact stkOf_congr _ _ (showSextant_only _ _ .stk (by decide)) m
  refine ⟨?_, ?_, fun m hm => ?_, fun hq => ?_, fun h => ?_, fun hp he => ?_⟩
  · rw [e]; exact regsBut_trans (regsBut_trans r2 a1) (regsBut_mono (showSextant_regs _ _) (showWords_sub k))
  · rw [e]; exact only_trans (only_trans (only_mono o2 (by decide)) a2) (only_mono (showSextant_only _ _) (by decide))
  · rw [se, a3 m hm, h2, stkOf_putStk_ne _ _ _ _ hm]; exact stkOf_congr _ _ k1 m
  · rw [e, showSextant_get _ _ _ (by decide), a4, h2]
    show rget s1 k _ = _
    rw [h1, if_neg (by omega), if_pos hq]
    exact rset_one _ _ _ (by decide) (by decide)
  · have hh : startPass s2 k = s2 := a5 (by rw [k2, en]; exact h)
    rw [se, hh, k2]
    refine ⟨rfl, rfl, fun _ => ?_⟩
    rw [e, showSextant_get _ _ _ (by decide), hh, g1 _ (by decide)]
  · obtain ⟨b1, b2, b3, b4⟩ := a6 (by rw [k2]; exact hp) (by rw [en]; exact he)
    rw [se]
    refine ⟨b1, by rw [b2, k2, cy], fun h5 => ?_, ?_⟩
    · have h55 : (stkOf s2 k).passes.contains 5 = true := by
        rw [k2, h5]; show (withTrigger _ _).contains 5 = true
        unfold withTrigger
        split
        · assumption
        · simp
      obtain ⟨c1, c2⟩ := b3 h55
      rw [e, showSextant_get _ _ _ (by decide), showSextant_get _ _ _ (by decide)]
      exact ⟨c1, c2⟩
    · rw [e, showSextant_get _ _ _ (by decide), b4, g1 _ (by decide)]

theorem sequencer_put (s : State) (k site : Nat) (w : GroupWork) (hk : k < s.stk.length) (x : Nat) :
    sequencer (putSequencer s k site w) k x = if x = site then w else sequencer s k x := by
  unfold sequencer putSequencer
  rw [stkOf_putStk _ _ _ hk]
  show mapGet _ (mapSet _ _ _ _) x = _
  rw [mapGet_mapSet]

theorem putSequencer_len (s : State) (k site : Nat) (w : GroupWork) : (putSequencer s k site w).stk.length = s.stk.length := by
  unfold putSequencer putStk; simp

/-- A dog slot gives every clocked tile of a pass 800 array cycles until it ends (R185, R186). -/
theorem openDog_left (s : State) (k till : Nat) (hk : k < s.stk.length) : ∀ site ∈ passSites s k,
    (tileAt s k site).clkOn = true →
    (sequencer (openDog s k till) k site).left = 800 ∧ (sequencer (openDog s k till) k site).until_ = till := by
  unfold openDog
  have key : ∀ (l : List Nat) (s : State), k < s.stk.length → ∀ x, (tileAt s k x).clkOn = true → x ∈ l ∨
        ((sequencer s k x).left = 800 ∧ (sequencer s k x).until_ = till) →
      (sequencer (l.foldl (fun s site => if (tileAt s k site).clkOn then
          putSequencer s k site { sequencer s k site with left := 800, until_ := till } else s) s) k x).left = 800
      ∧ (sequencer (l.foldl (fun s site => if (tileAt s k site).clkOn then
          putSequencer s k site { sequencer s k site with left := 800, until_ := till } else s) s) k x).until_ = till := by
    intro l
    induction l with
    | nil => intro s _ x _ h; simpa using h
    | cons a r ih =>
      intro s hs x hx h
      rw [List.foldl_cons]
      by_cases hc : (tileAt s k a).clkOn = true
      · rw [if_pos hc]
        refine ih _ (by rw [putSequencer_len]; exact hs) x hx ?_
        rw [sequencer_put _ _ _ _ hs]
        by_cases hxa : x = a
        · right; simp [hxa]
        · rw [if_neg hxa]
          exact h.imp_left fun hm => (List.mem_cons.mp hm).resolve_left hxa
      · rw [if_neg hc]
        refine ih s hs x hx (h.imp_left fun hm => (List.mem_cons.mp hm).resolve_left fun he => hc (by rw [← he]; exact hx))
  intro site hm hc
  exact key _ _ hk site hc (Or.inl hm)

theorem only_vil (s : State) (v : VilgerSt) : changesOnly [.vil] s { s with vil := v } := by
  intro p hp
  cases p <;> first | rfl | exact absurd (by simp) hp

theorem vhalf_putHalf (s : State) (h : Nat) (v : VHalf) (hh : h < s.vil.halves.length) : vhalf (putHalf s h v) h = v := by
  simp [vhalf, putHalf, hh]

theorem putHalf_len (s : State) (h : Nat) (v : VHalf) : (putHalf s h v).vil.halves.length = s.vil.halves.length := by
  simp [putHalf]

theorem only_putHalf (s : State) (h : Nat) (v : VHalf) : changesOnly [.vil] s (putHalf s h v) := only_vil _ _

theorem regsBut_stk (s : State) (k : Nat) (f : Fld) (v : Nat) (l : List (Nat × Nat)) (h : (k, f.off) ∈ l) :
    regsBut l s (rput s k f v) := regsBut_rputm s k f v l h

theorem onLink_run (s : State) (f : State → State) (h : lnkReach s = true) : onLink s f = f s := by
  unfold onLink; rw [if_pos h]

theorem onTraffic_run (s : State) (f : State → State) (h : lnkReach s = true) (h5 : lnkState s = 5) : onTraffic s f = f s := by
  unfold onTraffic; rw [onLink_run _ _ h, if_pos h5]

theorem lnkState_put (s : State) (v : Nat) (hv : v < 8) : lnkState (putLnkState s v) = v :=
  rget_rput_same1 s 0 LNK_STATUS_STATE v (by decide) hv

theorem rget_ne4 (s : State) (f g : Fld) (v : Nat) (hg : g.fits = true) (a b : Nat)
    (h : regKey a (f.off + f.stride * 0) ≠ regKey b (g.off + g.stride * 0)) : rget (rput s b g v) a f = rget s a f :=
  rget_rput_other _ _ _ _ _ _ _ _ hg (Or.inl h)

theorem lnkFault_facts (s : State) (f : Fld) (h : f.fits = true) (hw : 1 < 2 ^ f.width) (ho : f.off = 0x110010) (hs : f.stride = 0) :
    rget (lnkFault s f) (halfStk 0) f = 1 ∧ rget (lnkFault s f) (halfStk 1) f = 1
    ∧ regsBut lnkFaultWords s (lnkFault s f) ∧ changesOnly [.regs] s (lnkFault s f)
    ∧ lnkState (lnkFault s f) = lnkState s
    ∧ (∀ k (g : Fld), g.off + g.stride * 0 < 2 ^ 21 → g.off + g.stride * 0 ≠ 0x110010 → rget (lnkFault s f) k g = rget s k g) := by
  have r : regsBut lnkFaultWords s (lnkFault s f) :=
    regsBut_trans (regsBut_rputm _ _ _ _ _ (by rw [ho]; simp [lnkFaultWords])) (regsBut_rputm _ _ _ _ _ (by rw [ho]; simp [lnkFaultWords]))
  have key : ∀ k (g : Fld), g.off + g.stride * 0 < 2 ^ 21 → g.off + g.stride * 0 ≠ 0x110010 → rget (lnkFault s f) k g = rget s k g := by
    intro k g h1 h2
    refine rget_of_regsBut r k g 0 fun q hq => ?_
    have hq2 : q.2 = 0x110010 := by
      simp only [lnkFaultWords, List.mem_cons, List.not_mem_nil, or_false] at hq
      rcases hq with rfl | rfl <;> rfl
    rw [hq2]
    by_cases hk : k = q.1
    · rw [hk, Ne, regKey_inj]; exact h2
    · exact regKey_ne_stack _ _ _ _ hk h1 (by decide)
  refine ⟨?_, ?_, r, only_trans (only_rput _ _ _ _ _) (only_rput _ _ _ _ _), key 0 LNK_STATUS_STATE (by decide) (by decide), key⟩
  · unfold lnkFault rset
    rw [rget_rput_other _ _ _ _ _ _ _ _ h (Or.inl (by rw [ho, hs]; decide))]
    exact rget_rput_same1 _ _ _ _ h hw
  · exact rget_rput_same1 _ _ _ _ h hw

theorem only_putTraining (s : State) (a : Nat) (r : Bool) : changesOnly [.vil] s (putTraining s a r) := only_vil _ _

theorem dropLanes_facts (s : State) : (∀ h, h < 2 → rget (dropLanes s) (halfStk h) LNK_LANES_USED = 0)
    ∧ regsBut (lnkStatusWord :: (lnkLaneWords ++ lnkFaultWords)) s (dropLanes s) ∧ changesOnly [.regs] s (dropLanes s) := by
  unfold dropLanes
  refine ⟨fun h hh => ?_, ?_, only_trans (only_trans (only_rput _ _ _ _ _) (only_rput _ _ _ _ _)) (only_rput _ _ _ _ _)⟩
  · have : h = 0 ∨ h = 1 := by omega
    rcases this with rfl | rfl
    · rw [rget_ne4 _ _ _ _ (by decide) _ _ (by decide), rget_ne4 _ _ _ _ (by decide) _ _ (by decide)]
      exact rget_rput_same1 _ _ _ _ (by decide) (by decide)
    · rw [rget_ne4 _ _ _ _ (by decide) _ _ (by decide)]
      exact rget_rput_same1 _ _ _ _ (by decide) (by decide)
  · refine regsBut_trans (regsBut_trans (regsBut_rputm _ _ _ _ _ (by decide)) (regsBut_rputm _ _ _ _ _ (by decide))) (regsBut_rputm _ _ _ _ _ (by decide))

/-- A training that failed is counted, and the third in a row leaves the link DOWN with TRAINFAIL; no lane is in use. -/
theorem failTraining_facts (s : State) :
    (failTraining s).vil.attempts = s.vil.attempts + 1
    ∧ (s.vil.attempts < 2 → lnkState (failTraining s) = 1)
    ∧ (2 ≤ s.vil.attempts → lnkState (failTraining s) = 0 ∧ rget (failTraining s) (halfStk 0) LNK_FAULT_TRAINFAIL = 1
        ∧ rget (failTraining s) (halfStk 1) LNK_FAULT_TRAINFAIL = 1)
    ∧ (∀ h, h < 2 → rget (failTraining s) (halfStk h) LNK_LANES_USED = 0)
    ∧ regsBut (lnkStatusWord :: (lnkLaneWords ++ lnkFaultWords)) s (failTraining s)
    ∧ changesOnly [.regs, .vil] s (failTraining s) := by
  obtain ⟨s0, h0⟩ : ∃ x, x = dropLanes (putTraining s (s.vil.attempts + 1) false) := ⟨_, rfl⟩
  obtain ⟨d1, d2, d3⟩ := dropLanes_facts (putTraining s (s.vil.attempts + 1) false)
  rw [← h0] at d1 d2 d3
  have v0 : s0.vil.attempts = s.vil.attempts + 1 := by rw [h0]; rfl
  have r0 : regsBut (lnkStatusWord :: (lnkLaneWords ++ lnkFaultWords)) s s0 :=
    regsBut_trans (t := putTraining s _ false) (regsBut_of_regs rfl _) d2
  have o0 : changesOnly [.regs, .vil] s s0 := only_trans (only_mono (only_putTraining _ _ _) (by decide)) (only_mono d3 (by decide))
  have e : failTraining s = if 3 ≤ s.vil.attempts + 1 then lnkFault (putLnkState s0 0) LNK_FAULT_TRAINFAIL else putLnkState s0 1 := by
    rw [h0]; rfl
  have q : ∀ v, v < 8 → lnkState (putLnkState s0 v) = v ∧ (∀ h, h < 2 → rget (putLnkState s0 v) (halfStk h) LNK_LANES_USED = 0)
      ∧ regsBut (lnkStatusWord :: (lnkLaneWords ++ lnkFaultWords)) s (putLnkState s0 v) ∧ changesOnly [.regs, .vil] s (putLnkState s0 v)
      ∧ (putLnkState s0 v).vil = s0.vil := by
    intro v hv
    refine ⟨lnkState_put _ _ hv, fun h hh => ?_, regsBut_trans r0 (regsBut_rputm _ _ _ _ _ (by decide)),
      only_trans o0 (only_mono (only_rput _ _ _ _ _) (by decide)), rfl⟩
    refine Eq.trans ?_ (d1 h hh)
    have : h = 0 ∨ h = 1 := by omega
    rcases this with rfl | rfl
    · exact rget_ne4 s0 LNK_LANES_USED LNK_STATUS_STATE v (by decide) (halfStk 0) 0 (by decide)
    · exact rget_ne4 s0 LNK_LANES_USED LNK_STATUS_STATE v (by decide) (halfStk 1) 0 (by decide)
  clear h0
  rw [e]
  by_cases h : 3 ≤ s.vil.attempts + 1
  · rw [if_pos h]
    obtain ⟨q1, q2, q3, q4, q5⟩ := q 0 (by decide)
    obtain ⟨s1, h1⟩ : ∃ x, x = putLnkState s0 0 := ⟨_, rfl⟩
    rw [← h1] at q1 q2 q3 q4 q5 ⊢
    obtain ⟨a, b, c, d, e', k⟩ := lnkFault_facts s1 LNK_FAULT_TRAINFAIL (by decide) (by decide) rfl rfl
    refine ⟨?_, fun hh => absurd hh (by omega), fun _ => ⟨e'.trans q1, a, b⟩, fun h hh => ?_,
      regsBut_trans q3 (regsBut_mono c fun q hq => List.mem_cons_of_mem _ (List.mem_append_right _ hq)), only_trans q4 (only_mono d (by decide))⟩
    · show s1.vil.attempts = _
      rw [q5, v0]
    · rw [k _ _ (by decide) (by decide)]; exact q2 h hh
  · rw [if_neg h]
    obtain ⟨q1, q2, q3, q4, q5⟩ := q 1 (by decide)
    exact ⟨by rw [q5, v0], fun _ => q1, fun hh => absurd hh (by omega), q2, q3, q4⟩

theorem width_mem (s : State) (w : Nat) (h : linkWidth s = some w) : w = 16 ∨ w = 8 ∨ w = 4 := by
  have := List.mem_of_find?_eq_some h
  simpa using this

theorem putWidth_facts (s : State) (w : Nat) (hw : w = 16 ∨ w = 8 ∨ w = 4) :
    rget (putWidth s w) 0 LNK_STATUS_WIDTH = (if w = 16 then 3 else if w = 8 then 2 else 1)
    ∧ (w < 16 → rget (putWidth s w) (halfStk 0) LNK_FAULT_DEGRADE = 1)
    ∧ regsBut (lnkStatusWord :: (lnkLaneWords ++ lnkFaultWords)) s (putWidth s w) ∧ changesOnly [.regs] s (putWidth s w)
    ∧ lnkState (putWidth s w) = lnkState s := by
  unfold putWidth
  extract_lets s1 s2
  have r1 : regsBut lnkLaneWords s s1 :=
    regsBut_trans (regsBut_rputm _ _ _ _ _ (by decide)) (regsBut_rputm _ _ _ _ _ (by decide))
  have o1 : changesOnly [.regs] s s1 := only_trans (only_rput _ _ _ _ _) (only_rput _ _ _ _ _)
  have l1 : lnkState s1 = lnkState s := by
    refine rget_of_regsBut r1 0 LNK_STATUS_STATE 0 fun q hq => ?_
    simp only [lnkLaneWords, List.mem_cons, List.not_mem_nil, or_false] at hq
    rcases hq with rfl | rfl <;> decide
  have g2 : rget s2 0 LNK_STATUS_WIDTH = (if w = 16 then 3 else if w = 8 then 2 else 1) := by
    refine rget_rput_same1 s1 0 LNK_STATUS_WIDTH _ (by decide) ?_
    rcases hw with rfl | rfl | rfl <;> decide
  have l2 : lnkState s2 = lnkState s := by
    rw [← l1]; exact rget_rput_ne _ _ _ _ _ (by decide) (by decide)
  have r2 : regsBut (lnkStatusWord :: (lnkLaneWords ++ lnkFaultWords)) s s2 := by
    refine regsBut_trans (regsBut_mono r1 fun q hq => List.mem_cons_of_mem _ (List.mem_append_left _ hq)) ?_
    exact regsBut_rputm _ _ _ _ _ (by decide)
  have o2 : changesOnly [.regs] s s2 := only_trans o1 (only_rput _ _ _ _ _)
  clear_value s2
  obtain ⟨a, b, c, d, e, k⟩ := lnkFault_facts s2 LNK_FAULT_DEGRADE (by decide) (by decide) rfl rfl
  split
  · refine ⟨?_, fun _ => a, regsBut_trans r2 (regsBut_mono c fun q hq => List.mem_cons_of_mem _ (List.mem_append_right _ hq)), only_trans o2 d, e.trans l2⟩
    rw [k 0 _ (by decide) (by decide), g2]
  · rename_i h
    exact ⟨g2, fun hh => absurd hh h, r2, o2, l2⟩

/-- The parts of a half that its receiver alone changes; a flit sent carries the NAK that was owed. -/
def SameIn (v w : VHalf) : Prop := w.rxSeq = v.rxSeq ∧ (v.nak = false → w.nak = false) ∧ w.slots = v.slots ∧ w.heard = v.heard
  ∧ w.credits = v.credits

theorem SameIn.refl (v : VHalf) : SameIn v v := ⟨rfl, id, rfl, rfl, rfl⟩

theorem SameIn.trans {u v w : VHalf} (a : SameIn u v) (b : SameIn v w) : SameIn u w :=
  ⟨b.1.trans a.1, b.2.1 ∘ a.2.1, b.2.2.1.trans a.2.2.1, b.2.2.2.1.trans a.2.2.2.1, b.2.2.2.2.trans a.2.2.2.2⟩

/-- What a half sends leaves what it receives alone. -/
theorem putOut_sameIn (v : VHalf) (ty : Nat) (q : HeldFlit) : SameIn v (putOut v ty q) := ⟨rfl, fun _ => rfl, rfl, rfl, rfl⟩

theorem sendNext_sameIn (v : VHalf) (bs : List Byte) : SameIn v (sendNext v bs) := ⟨rfl, fun _ => rfl, rfl, rfl, rfl⟩

theorem foldl_sameIn {α : Type} (f : VHalf → α → VHalf) (hf : ∀ v x, SameIn v (f v x)) (l : List α) (v : VHalf) :
    SameIn v (l.foldl f v) := by
  induction l generalizing v with
  | nil => exact .refl _
  | cons a l ih => exact (hf v a).trans (ih _)

/-- The receiver's side of half h is the same, and the link has as many halves. -/
def KeepIn (h : Nat) (s t : State) : Prop :=
  SameIn (vhalf s h) (vhalf t h) ∧ t.vil.halves.length = s.vil.halves.length

theorem KeepIn.refl (h : Nat) (s : State) : KeepIn h s s := ⟨.refl _, rfl⟩

theorem KeepIn.trans {h : Nat} {s t u : State} (a : KeepIn h s t) (b : KeepIn h t u) : KeepIn h s u :=
  ⟨a.1.trans b.1, b.2.trans a.2⟩

theorem KeepIn.of_vil {h : Nat} {s t : State} (e : t.vil.halves = s.vil.halves) : KeepIn h s t := by
  unfold KeepIn vhalf; rw [e]; exact ⟨.refl _, rfl⟩

theorem keepIn_putHalf (s : State) (h n : Nat) (v : VHalf) (hv : SameIn (vhalf s n) v) : KeepIn h s (putHalf s n v) := by
  refine ⟨?_, putHalf_len _ _ _⟩
  by_cases e : n = h
  · subst e
    by_cases l : n < s.vil.halves.length
    · rw [vhalf_putHalf _ _ _ l]; exact hv
    · have : putHalf s n v = s := by unfold putHalf; rw [List.set_eq_of_length_le (by omega)]
      rw [this]; exact .refl _
  · have : vhalf (putHalf s n v) h = vhalf s h := by
      simp [vhalf, putHalf, List.getD_eq_getElem?_getD, List.getElem?_set_ne e]
    rw [this]; exact .refl _

theorem foldl_keepIn {α : Type} (f : State → α → State) (h : Nat) (hf : ∀ s x, KeepIn h s (f s x)) (l : List α) (s : State) :
    KeepIn h s (l.foldl f s) := by
  induction l generalizing s with
  | nil => exact .refl _ _
  | cons a l ih => exact (hf s a).trans (ih _)

theorem sendHeld_facts (s : State) (h : Nat) (hl : h < s.vil.halves.length) : KeepIn h s (sendHeld s h)
    ∧ ((vhalf s h).waiting = [] → (vhalf (sendHeld s h) h).replay = (vhalf s h).replay)
    ∧ (vhalf (sendHeld s h) h).stalled = (vhalf s h).stalled
    ∧ changesOnly [.regs, .vil] s (sendHeld s h) := by
  obtain ⟨m, hm⟩ : ∃ m, m = if linkActive s then 256 - (vhalf s h).replay.length else 0 := ⟨_, rfl⟩
  have d : sendHeld s h = rbump (putHalf s h (((vhalf s h).waiting.take m).foldl sendNext
      { vhalf s h with waiting := (vhalf s h).waiting.drop ((vhalf s h).waiting.take m).length })) (halfStk h) LNK_FLITS_TX
      ((vhalf s h).waiting.take m).length := by rw [hm]; rfl
  have e : vhalf (sendHeld s h) h = ((vhalf s h).waiting.take m).foldl sendNext
      { vhalf s h with waiting := (vhalf s h).waiting.drop ((vhalf s h).waiting.take m).length } := by
    rw [d]; exact vhalf_putHalf _ _ _ hl
  have hk : ∀ (l : List (List Byte)) (v : VHalf), (l.foldl sendNext v).stalled = v.stalled := by
    intro l
    induction l with
    | nil => intro v; rfl
    | cons a l ih => intro v; exact ih _
  refine ⟨⟨?_, ?_⟩, fun hw => ?_, ?_, only_of_frame (sendHeld_frame (fm := [.regs, .vil]) s h (.refl _ _) (by decide))⟩
  · rw [e]
    exact SameIn.trans (v := { vhalf s h with waiting := _ }) ⟨rfl, id, rfl, rfl, rfl⟩ (foldl_sameIn sendNext sendNext_sameIn _ _)
  · rw [d]; exact putHalf_len _ _ _
  · rw [e, hw, List.take_nil, List.foldl_nil]
  · rw [e, hk]

theorem replayHalf_facts (s : State) (h : Nat) (hl : h < s.vil.halves.length) : KeepIn h s (replayHalf s h)
    ∧ (vhalf (replayHalf s h) h).waiting = (vhalf s h).waiting ∧ (vhalf (replayHalf s h) h).stalled = (vhalf s h).stalled
    ∧ changesOnly [.regs, .vil] s (replayHalf s h) := by
  have hk : ∀ (l : List HeldFlit) (v : VHalf), (l.foldl (fun v q => putOut v 1 q) v).waiting = v.waiting
      ∧ (l.foldl (fun v q => putOut v 1 q) v).stalled = v.stalled := by
    intro l
    induction l with
    | nil => intro v; exact ⟨rfl, rfl⟩
    | cons a l ih => intro v; exact ih _
  have key : replayHalf s h = s ∨ ((replayHalf s h).vil.halves = (putHalf s h ((vhalf s h).replay.foldl (fun v q => putOut v 1 q)
      { vhalf s h with replays := (vhalf s h).replays + 1 })).vil.halves) := by
    unfold replayHalf; dsimp only; split
    · exact .inl rfl
    · exact .inr rfl
  refine ⟨?_, ?_, ?_, only_of_frame (replayHalf_frame (fm := [.regs, .vil]) s h (.refl _ _) (by decide))⟩
  · rcases key with e | e
    · rw [e]; exact .refl _ _
    · refine KeepIn.trans (keepIn_putHalf s h h _ ?_) (.of_vil e)
      exact SameIn.trans (v := { vhalf s h with replays := _ }) ⟨rfl, id, rfl, rfl, rfl⟩ (foldl_sameIn _ (fun v q => putOut_sameIn v 1 q) _ _)
  · rcases key with e | e
    · rw [e]
    · exact (congrArg (fun l => (l.getD h VHalf.reset).waiting) e).trans ((congrArg VHalf.waiting (vhalf_putHalf s h _ hl)).trans (hk _ _).1)
  · rcases key with e | e
    · rw [e]
    · exact (congrArg (fun l => (l.getD h VHalf.reset).stalled) e).trans ((congrArg VHalf.stalled (vhalf_putHalf s h _ hl)).trans (hk _ _).2)

theorem sendVFlit_keepIn (s : State) (k h : Nat) (bs : List Byte) : KeepIn h s (sendVFlit s k bs) := by
  unfold sendVFlit
  dsimp only
  split
  · exact (keepIn_putHalf s h k _ (sendNext_sameIn _ _)).trans (.of_vil rfl)
  · exact keepIn_putHalf s h k _ ⟨rfl, id, rfl, rfl, rfl⟩

theorem vil_out_foldl {α : Type} (f : State → α → State) (xs : List α) (h : ∀ x s, (f s x).vil.out = s.vil.out) (s : State) :
    (xs.foldl f s).vil.out = s.vil.out := by
  induction xs generalizing s with
  | nil => rfl
  | cons a r ih => rw [List.foldl_cons, ih, h]

/-- A message given to its half is the last one sent. -/
theorem giveMsg_facts (s : State) (m : VMsg) : (giveMsg s m).vil.out = s.vil.out ++ [m] ∧ (∀ h, KeepIn h s (giveMsg s m))
    ∧ changesOnly [.regs, .vil] s (giveMsg s m) := by
  have h1 : ∀ x (s : State), (sendVFlit s m.half.toNat x).vil.out = s.vil.out := by
    intro x s; unfold sendVFlit; dsimp only; split <;> rfl
  refine ⟨?_, fun h => ?_, only_of_frame (giveMsg_frame (fm := [.regs, .vil]) s m (.refl _ _) (by decide))⟩
  · unfold giveMsg
    dsimp only
    exact (vil_out_foldl (fun s b => sendVFlit s m.half.toNat b) _ h1 _).trans rfl
  · unfold giveMsg
    dsimp only
    refine KeepIn.trans ?_ (foldl_keepIn (fun s b => sendVFlit s m.half.toNat b) h (fun s x => sendVFlit_keepIn s _ h x) _ _)
    refine KeepIn.trans (t := { s with vil := { s.vil with out := s.vil.out ++ [m] } }) (.of_vil rfl) (keepIn_putHalf _ h _ _ ?_)
    exact ⟨rfl, id, rfl, rfl, rfl⟩

/-- A message goes out if its half has credits for it, and waits there otherwise. -/
theorem sendMsg_facts (s : State) (m : VMsg) :
    (hasCredit (vhalf s m.half.toNat) m = true → sendMsg s m = giveMsg s m ∧ (sendMsg s m).vil.out = s.vil.out ++ [m])
    ∧ (hasCredit (vhalf s m.half.toNat) m = false → (sendMsg s m).vil.out = s.vil.out
        ∧ (m.half.toNat < s.vil.halves.length →
            (vhalf (sendMsg s m) m.half.toNat).stalled = (vhalf s m.half.toNat).stalled ++ [m]))
    ∧ (∀ h, KeepIn h s (sendMsg s m)) ∧ changesOnly [.regs, .vil] s (sendMsg s m) := by
  obtain ⟨g1, g2, g3⟩ := giveMsg_facts s m
  have e1 : hasCredit (vhalf s m.half.toNat) m = true → sendMsg s m = giveMsg s m := fun h => by
    unfold sendMsg; dsimp only; rw [if_pos h]
  have e2 : hasCredit (vhalf s m.half.toNat) m = false → sendMsg s m = putHalf s m.half.toNat { vhalf s m.half.toNat with
      stalled := (vhalf s m.half.toNat).stalled ++ [m] } := fun h => by
    unfold sendMsg; dsimp only; rw [if_neg (by rw [h]; decide)]
  refine ⟨fun h => ⟨e1 h, by rw [e1 h]; exact g1⟩, fun h => ?_, fun k => ?_, ?_⟩
  · rw [e2 h]; exact ⟨rfl, fun l => by rw [vhalf_putHalf _ _ _ l]⟩
  all_goals cases hc : hasCredit (vhalf s m.half.toNat) m
  · rw [e2 hc]; exact keepIn_putHalf _ _ _ _ ⟨rfl, id, rfl, rfl, rfl⟩
  · rw [e1 hc]; exact g2 k
  · rw [e2 hc]; exact only_mono (only_putHalf _ _ _) (by decide)
  · rw [e1 hc]; exact g3

theorem sendStalled_facts (s : State) (h : Nat) : KeepIn h s (sendStalled s h)
    ∧ ((vhalf s h).stalled = [] → h < s.vil.halves.length → (vhalf (sendStalled s h) h).replay = (vhalf s h).replay) := by
  unfold sendStalled
  refine ⟨?_, fun e l => ?_⟩
  · exact (keepIn_putHalf s h h { vhalf s h with stalled := [] } ⟨rfl, id, rfl, rfl, rfl⟩).trans (foldl_keepIn sendMsg h (fun s m => (sendMsg_facts s m).2.2.1 h) _ _)
  · rw [e, List.foldl_nil, vhalf_putHalf _ _ _ l]

/-- What a good flit's first eight bytes do to a half: its receiver's side stays but for the credits they carry; an ACK
without NAK drops the acknowledged frames, where nothing waits to be sent. -/
theorem takeHeader_facts (s : State) (h hdr : Nat) (hl : h < s.vil.halves.length) :
    SameIn { vhalf s h with credits := (if bitsOf hdr 24 2 < 3 then (vhalf s h).credits.set (bitsOf hdr 24 2)
              (nth (vhalf s h).credits (bitsOf hdr 24 2) + bitsOf hdr 26 12) else (vhalf s h).credits) }
        (vhalf (takeHeader s h hdr) h)
    ∧ (takeHeader s h hdr).vil.halves.length = s.vil.halves.length
    ∧ (bitOf hdr 20 = true → bitOf hdr 21 = false → (vhalf s h).waiting = [] → (vhalf s h).stalled = [] →
        (vhalf (takeHeader s h hdr) h).replay
        = (vhalf s h).replay.filter (fun q => !decide ((bitsOf hdr 10 10 + 1024 - q.seq) % 1024 < 256)))
    ∧ changesOnly [.regs, .vil] s (takeHeader s h hdr) := by
  obtain ⟨v1, e1⟩ : ∃ v1, v1 = if bitOf hdr 20 then ackHalf (vhalf s h) (bitsOf hdr 10 10) else vhalf s h := ⟨_, rfl⟩
  obtain ⟨v2, e2⟩ : ∃ v2 : VHalf, v2 = (if bitsOf hdr 24 2 < 3 then { v1 with credits := (v1.credits.set (bitsOf hdr 24 2)
    (nth v1.credits (bitsOf hdr 24 2) + bitsOf hdr 26 12)) } else v1) := ⟨_, rfl⟩
  obtain ⟨s1, h1⟩ : ∃ x, x = putHalf s h v2 := ⟨_, rfl⟩
  obtain ⟨s2, h2⟩ : ∃ x, x = if bitOf hdr 21 then replayHalf s1 h else s1 := ⟨_, rfl⟩
  have e : takeHeader s h hdr = sendStalled (sendHeld s2 h) h := by rw [h2, h1, e2, e1]; rfl
  have l1 : h < s1.vil.halves.length := by rw [h1, putHalf_len]; exact hl
  have w1 : vhalf s1 h = v2 := by rw [h1]; exact vhalf_putHalf _ _ _ hl
  have k2 : KeepIn h s1 s2 := by
    rw [h2]; split
    · exact (replayHalf_facts s1 h l1).1
    · exact .refl _ _
  have l2 : h < s2.vil.halves.length := by rw [k2.2]; exact l1
  obtain ⟨a1, a2, a3, _⟩ := sendHeld_facts s2 h l2
  obtain ⟨b1, b2⟩ := sendStalled_facts (sendHeld s2 h) h
  have k := (k2.trans a1).trans b1
  rw [← e] at k
  have q1 : v1.rxSeq = (vhalf s h).rxSeq ∧ v1.nak = (vhalf s h).nak ∧ v1.slots = (vhalf s h).slots ∧ v1.heard = (vhalf s h).heard
      ∧ v1.credits = (vhalf s h).credits ∧ v1.waiting = (vhalf s h).waiting ∧ v1.stalled = (vhalf s h).stalled := by
    rw [e1]; split <;> exact ⟨rfl, rfl, rfl, rfl, rfl, rfl, rfl⟩
  have q2 : v2.rxSeq = v1.rxSeq ∧ v2.nak = v1.nak ∧ v2.slots = v1.slots ∧ v2.heard = v1.heard
      ∧ v2.waiting = v1.waiting ∧ v2.stalled = v1.stalled ∧ v2.replay = v1.replay ∧ v2.credits = (if bitsOf hdr 24 2 < 3 then
        v1.credits.set (bitsOf hdr 24 2) (nth v1.credits (bitsOf hdr 24 2) + bitsOf hdr 26 12) else v1.credits) := by
    rw [e2]; split <;> exact ⟨rfl, rfl, rfl, rfl, rfl, rfl, rfl, rfl⟩
  refine ⟨?_, ?_, fun h20 h21 hw hs => ?_, only_of_frame (takeHeader_frame (fm := [.regs, .vil]) s h hdr (.refl _ _) (by decide))⟩
  · refine SameIn.trans (v := v2) ⟨q2.1.trans q1.1, fun x => ?_, q2.2.2.1.trans q1.2.2.1, q2.2.2.2.1.trans q1.2.2.2.1, ?_⟩ (w1 ▸ k.1)
    · rw [q2.2.1, q1.2.1]; exact x
    · rw [q2.2.2.2.2.2.2.2, q1.2.2.2.2.1]
  · rw [k.2, h1, putHalf_len]
  · have es : s2 = s1 := by rw [h2, if_neg (by rw [h21]; decide)]
    rw [e, b2 (by rw [a3, es, w1, q2.2.2.2.2.2.1, q1.2.2.2.2.2.2]; exact hs) (by rw [a1.2]; exact l2),
      a2 (by rw [es, w1, q2.2.2.2.2.1, q1.2.2.2.2.2.1]; exact hw), es, w1, q2.2.2.2.2.2.2.1, e1, if_pos h20]
    rfl

/-- A good data flit in sequence: its header is taken, its slots join those received, and the messages follow. -/
theorem takeDataFlit_eq (s : State) (h hdr : Nat) (f : VFlit) (hl : h < s.vil.halves.length) : ∃ s2, takeDataFlit s h hdr f = takeSlots ((vhalf s2 h).slots.length + 1) s2 h
      ∧ (vhalf s2 h).rxSeq = ((vhalf s h).rxSeq + 1) % 1024 ∧ (vhalf s2 h).nak = false
      ∧ (vhalf s2 h).slots = (vhalf s h).slots ++ chunks 16 14 ((f.bytes.drop 8).take 224)
      ∧ (vhalf s2 h).heard = true
      ∧ (vhalf s2 h).credits = (if bitsOf hdr 24 2 < 3 then (vhalf s h).credits.set (bitsOf hdr 24 2)
          (nth (vhalf s h).credits (bitsOf hdr 24 2) + bitsOf hdr 26 12) else (vhalf s h).credits)
      ∧ (bitOf hdr 20 = true → bitOf hdr 21 = false → (vhalf s h).waiting = [] → (vhalf s h).stalled = [] → (vhalf s2 h).replay
          = (vhalf s h).replay.filter (fun q => !decide ((bitsOf hdr 10 10 + 1024 - q.seq) % 1024 < 256)))
      ∧ changesOnly [.regs, .vil] s s2 := by
  obtain ⟨s0, h0⟩ : ∃ x, x = putHalf s h { vhalf s h with rxSeq := ((vhalf s h).rxSeq + 1) % 1024, nak := false, heard := true } := ⟨_, rfl⟩
  have l0 : h < s0.vil.halves.length := by rw [h0, putHalf_len]; exact hl
  have v0 : vhalf s0 h = { vhalf s h with rxSeq := ((vhalf s h).rxSeq + 1) % 1024, nak := false, heard := true } := by
    rw [h0, vhalf_putHalf _ _ _ hl]
  obtain ⟨⟨b1, b2, b3, bh, bc⟩, b4, b5, b6⟩ := takeHeader_facts s0 h hdr l0
  rw [v0] at b1 b2 b3 bh b5 bc
  obtain ⟨s1, h1⟩ : ∃ x, x = takeHeader s0 h hdr := ⟨_, rfl⟩
  rw [← h1] at b1 b2 b3 bh b4 b5 b6 bc
  have b4 : h < s1.vil.halves.length := by rw [b4]; exact l0
  obtain ⟨s2, h2⟩ : ∃ x, x = putHalf s1 h { vhalf s1 h with slots := (vhalf s1 h).slots ++ chunks 16 14 ((f.bytes.drop 8).take 224) } := ⟨_, rfl⟩
  have w2 : vhalf s2 h = { vhalf s1 h with slots := (vhalf s1 h).slots ++ chunks 16 14 ((f.bytes.drop 8).take 224) } := by
    rw [h2, vhalf_putHalf _ _ _ b4]
  refine ⟨s2, ?_, ?_, ?_, ?_, ?_, ?_, fun x y z u => ?_, ?_⟩
  · unfold takeDataFlit
    dsimp only
    rw [← h0, ← h1, ← h2, w2]
  · rw [w2]; exact b1
  · rw [w2]; exact b2 rfl
  · rw [w2]; show (vhalf s1 h).slots ++ _ = _; rw [b3]
  · rw [w2]; exact bh
  · rw [w2]; exact bc
  · rw [w2]; exact b5 x y z u
  · rw [h2]
    refine only_trans (only_trans ?_ b6) (only_mono (only_putHalf _ _ _) (by decide))
    rw [h0]; exact only_mono (only_putHalf _ _ _) (by decide)

theorem sendVFlit_only (s : State) (h : Nat) (b : List Byte) : changesOnly [.regs, .vil] s (sendVFlit s h b) :=
  only_of_frame (sendVFlit_frame (fm := [.regs, .vil]) s h b (.refl _ _) (by decide))

theorem only_bump (s : State) (k : Nat) (f : Fld) (c : Nat) : changesOnly [.regs] s (rbump s k f c) := only_rput _ _ _ _ _

theorem dropLine_only (s : State) (h n : Nat) : changesOnly [.regs, .vil] s (dropLine s h n) :=
  only_mono (only_putHalf _ _ _) (by decide)

theorem poisonReads_only (s : State) (h n : Nat) : changesOnly [.regs, .vil] s (poisonReads s h n) :=
  only_of_frame (poisonReads_frame (fm := [.regs, .vil]) s h n (.refl _ _) (by decide))

end Sys2Proof.Claims
end

