-- ==== Sys2Proof/Laws/Module.lean ====
section
/-!
SUPPORT. Resets, power, clocks, the log, the Sounding ADC, block resets, bring-up, Binnacle and Lodestar: one lemma for each shared operation.
-/

namespace Sys2Proof.Claims

open Sys2Proof Sys2Proof.Machine

theorem only_frameM {m : List Part} {s t : State} (h : Machine.Frame m s t) {ps : List Component} (hs : ∀ p ∈ m.map compOf, p ∈ ps) :
    changesOnly ps s t := only_mono (only_of_frame h) hs

/-- `Dropped` survives a change of registers, free values, the log, reset's blocks, and the island's own state. -/
theorem droppedTrans {s t u : State} (h : Dropped s t) (o : changesOnly [.regs, .free, .log, .rst, .bnc, .snd, .lsr] t u)
    (hd : u.rst.domains ≤ 1) : Dropped s u where
  tiles := (o .tiles (by decide)).trans h.tiles
  dram := (o .dram (by decide)).trans h.dram
  net := (o .net (by decide)).trans h.net
  reports := (o .reports (by decide)).trans h.reports
  vil := (o .vil (by decide)).trans h.vil
  fleet := (o .fleet (by decide)).trans h.fleet
  chr := (o .chr (by decide)).trans h.chr
  serve := (o .serve (by decide)).trans h.serve
  pwr := (o .pwr (by decide)).trans h.pwr
  tick := (o .tick (by decide)).trans h.tick
  slot0 := (o .slot0 (by decide)).trans h.slot0
  stk := by have := o .stk (by decide); rw [show u.stk = t.stk from this]; exact h.stk
  domains := hd
  rest := ⟨(o .cyc (by decide)).trans h.rest.1, (o .img (by decide)).trans h.rest.2.1, (o .tap (by decide)).trans h.rest.2.2.1,
    (o .answers (by decide)).trans h.rest.2.2.2.1, (o .pending (by decide)).trans h.rest.2.2.2.2⟩

theorem dropped_drop (s x : State) (h : changesOnly [.regs, .free, .stk, .bnc, .lsr, .log] s x) : Dropped s (dropDomains x) where
  tiles := rfl
  dram := rfl
  net := rfl
  reports := rfl
  vil := rfl
  fleet := by show ({ FleetSt.reset with hint := x.fleet.hint } : FleetSt) = _; rw [show x.fleet = s.fleet from h .fleet (by decide)]
  chr := rfl
  serve := rfl
  pwr := rfl
  tick := rfl
  slot0 := rfl
  stk := by
    intro d hd
    have : d ∈ x.stk.map StackSt.lost := hd
    obtain ⟨e, -, rfl⟩ := List.mem_map.mp this
    exact ⟨e.copyA, e.copyB, e.retired, rfl⟩
  domains := by show min x.rst.domains 1 ≤ 1; omega
  rest := ⟨h .cyc (by decide), by show { x.img with begun := [] } = _; rw [show x.img = s.img from h .img (by decide)], h .tap (by decide), h .answers (by decide), h .pending (by decide)⟩

theorem endLong_only (s : State) : changesOnly [.regs, .free, .stk, .bnc, .lsr, .log] s (endLong s) :=
  only_of_frame (m := [.regs, .free, .stk, .bnc, .lsr, .log]) (endLong_frame s (.refl _ _) (by decide))

theorem clearSecrets_only (s : State) : changesOnly [.regs, .lsr] s (clearSecrets s) :=
  only_of_frame (m := [.regs, .lsr]) (clearSecrets_frame s (.refl _ _) (by decide))

theorem drawNonce_only (s : State) : changesOnly [.regs, .lsr] s (drawNonce s) :=
  only_of_frame (m := [.regs, .lsr]) (drawNonce_frame s (.refl _ _) (by decide))

theorem resetStatus_only (s : State) (n : Nat) : changesOnly [.regs, .bnc] s (resetStatus s n) :=
  only_of_frame (m := [.regs, .bnc]) (resetStatus_frame s n (.refl _ _) (by decide))

/-- Binnacle's, Sounding's and the power block's registers, but for BNC_STATUS, are those of `s`. -/
def IslandKept (s t : State) : Prop := ∀ off, (0x120004 ≤ off ∧ off < 0x140000) ∨ (0x150000 ≤ off ∧ off < 0x160000) →
  rword t 0 off = rword s 0 off

theorem IslandKept.refl (s : State) : IslandKept s s := fun _ _ => rfl

theorem IslandKept.trans {s t u : State} (a : IslandKept s t) (b : IslandKept t u) : IslandKept s u :=
  fun off h => (b off h).trans (a off h)

theorem IslandKept.of_regs {s t : State} (h : t.regs = s.regs) : IslandKept s t := fun off _ => by unfold rword; rw [h]

theorem islandKept_rput (s : State) (k : Nat) (f : Fld) (v : Nat) (i : Nat := 0)
    (h : f.off + f.stride * i < 0x120004 ∨ (0x140000 ≤ f.off + f.stride * i ∧ f.off + f.stride * i < 0x150000)) :
    IslandKept s (rput s k f v i) := by
  intro off ho
  unfold rput
  rw [rword_setRword, if_neg]
  unfold regKey
  omega

theorem islandKept_foldl {α : Type} (f : State → α → State) (hf : ∀ s x, IslandKept s (f s x)) (l : List α) (s : State) :
    IslandKept s (l.foldl f s) := by
  induction l generalizing s with
  | nil => exact .refl _
  | cons a l ih => exact (hf s a).trans (ih _)

theorem IslandKept.rget {s t : State} (h : IslandKept s t) (f : Fld) (h0 : f.stride = 0)
    (ho : (0x120004 ≤ f.off ∧ f.off < 0x140000) ∨ (0x150000 ≤ f.off ∧ f.off < 0x160000)) : rget t 0 f = rget s 0 f := by
  unfold Machine.rget
  rw [h _ (by rw [h0]; omega)]

theorem spoilCopy_regs (s : State) (k : Nat) : (spoilCopy s k).regs = s.regs := rfl

theorem endStackCommit_kept (s : State) (k : Nat) (ok : Bool) : IslandKept s (endStackCommit s k ok) := by
  have a : IslandKept s (commitTable s k) := by
    obtain ⟨s1, e, h1⟩ : ∃ s1 : State, commitTable s k = rput (rput (rput (rset s1 k (if writesB (stkOf s k) then
        SXT_TBL_B_VALID else SXT_TBL_A_VALID)) k SXT_TBL_INFORCE (bit (writesB (stkOf s k)))) k SXT_TBL_CMTFAIL 0) k SXT_TBLSEQ_SEQ
        (nextSeq (stkOf s k)).toNat ∧ s1.regs = s.regs := ⟨_, rfl, rfl⟩
    rw [e]
    refine (IslandKept.of_regs h1).trans (.trans (.trans (.trans ?_ (islandKept_rput _ _ _ _ 0 (by decide))) (islandKept_rput _ _ _ _ 0 (by decide))) (islandKept_rput _ _ _ _ 0 (by decide)))
    split <;> exact islandKept_rput _ _ _ _ 0 (by decide)
  have b : IslandKept s (failCommit s k) := by
    unfold failCommit
    dsimp only
    refine IslandKept.trans (t := spoilCopy s k) (.of_regs (spoilCopy_regs s k)) (.trans (.trans ?_ (islandKept_rput _ _ SXT_TBL_CMTFAIL 1 0 (by decide))) (.of_regs rfl))
    split <;> exact islandKept_rput _ _ _ _ 0 (by decide)
  unfold endStackCommit
  refine .trans ?_ (islandKept_rput _ _ _ _ 0 (by decide))
  split
  · exact a
  · exact b

theorem endMasked_kept (s : State) (k : Nat) (ok : Bool) : IslandKept s (endMasked s k ok) :=
  (endStackCommit_kept s k ok).trans (.of_regs rfl)

theorem showMasked_kept (s : State) : IslandKept s (showMasked s) := by
  unfold showMasked
  split
  · exact islandKept_rput _ _ _ _ 0 (by decide)
  · exact .refl _

theorem endMasked_replies (s : State) (k : Nat) (ok : Bool) : (endMasked s k ok).bnc.replies = s.bnc.replies := by
  show (endStackCommit s k ok).bnc.replies = _
  rw [show (endStackCommit s k ok).bnc = s.bnc from
    only_of_frame (m := [.regs, .stk, .log]) (endStackCommit_frame s k ok (.refl _ _) (by decide)) .bnc (by decide)]

theorem showMasked_bnc (s : State) : (showMasked s).bnc = s.bnc :=
  only_of_frame (m := [.regs]) (showMasked_frame s (.refl _ _) (by decide)) .bnc (by decide)

/-- The commits of a DEVTABLE_COMMIT that have ended by now change no register of Binnacle, Sounding or power, and no reply. -/
theorem passMasked_facts (s : State) : IslandKept s (passMasked s) ∧ (passMasked s).bnc.replies = s.bnc.replies := by
  have fold : ∀ (l : List (Nat × Nat)) (w : Word) (s : State),
      IslandKept s (l.foldl (fun s q => endMasked s q.1 (!w.getLsbD q.2)) s)
      ∧ (l.foldl (fun s q => endMasked s q.1 (!w.getLsbD q.2)) s).bnc.replies = s.bnc.replies := by
    intro l w
    induction l with
    | nil => intro s; exact ⟨.refl _, rfl⟩
    | cons a l ih => intro s; exact ⟨(endMasked_kept s _ _).trans (ih _).1, (ih _).2.trans (endMasked_replies s _ _)⟩
  unfold passMasked
  dsimp only
  split
  · exact ⟨.refl _, rfl⟩
  · refine ⟨IslandKept.trans ?_ (showMasked_kept _), ?_⟩
    · exact IslandKept.trans (t := { s with free := s.free + 2 }) (.of_regs rfl) ((fold _ _ _).1.trans (.of_regs rfl))
    · rw [showMasked_bnc]; exact (fold _ _ _).2

theorem breakCommits_facts (s : State) : IslandKept s (breakCommits s) ∧ (breakCommits s).bnc.replies = s.bnc.replies := by
  obtain ⟨p1, p2⟩ := passMasked_facts s
  obtain ⟨u, hu⟩ : ∃ u, u = passMasked s := ⟨_, rfl⟩
  rw [← hu] at p1 p2
  have q : (spoilMasked u).regs = u.regs ∧ (spoilMasked u).bnc = u.bnc := by
    unfold spoilMasked; split <;> exact ⟨rfl, rfl⟩
  have e : ∃ v : State, v.regs = (spoilMasked u).regs ∧ v.bnc = (spoilMasked u).bnc
      ∧ (breakCommits s).regs = v.regs ∧ (breakCommits s).bnc.replies = v.bnc.replies := by
    rw [hu]
    unfold breakCommits
    dsimp only
    split <;> exact ⟨_, rfl, rfl, rfl, rfl⟩
  obtain ⟨v, v1, v2, v3, v4⟩ := e
  exact ⟨p1.trans (.of_regs (v3.trans (v1.trans q.1))), by rw [v4, v2, q.2, p2]⟩

theorem endLong_kept (s : State) : IslandKept s (endLong s) := by
  have a : ∀ s, IslandKept s (endLoad s) := fun s => by
    unfold endLoad
    split
    · exact .refl _
    · exact IslandKept.trans (.of_regs rfl) (islandKept_rput _ _ _ _ 0 (by decide))
  have c : ∀ s, IslandKept s (endCommand s) := fun s => by
    unfold endCommand
    split
    · refine IslandKept.trans (t := rput (rput s 0 BNC_STATUS_LONG_BUSY 0) 0 LSR_STATUS_BUSY 0) ?_ (.of_regs rfl)
      exact (islandKept_rput _ _ _ _ 0 (by decide)).trans (islandKept_rput _ _ _ _ 0 (by decide))
    · exact .refl _
  exact ((a s).trans (breakCommits_facts _).1).trans (c _)

theorem lastReset_only (s : State) (c : Nat) : changesOnly [.regs, .rst] s (lastReset s c) :=
  only_of_frame (m := [.regs, .rst]) (lastReset_frame s c (.refl _ _) (by decide))

theorem ranksBefore_congr {s t : State} (c : Nat) (h1 : t.cyc = s.cyc) (h2 : t.rst.causeAt = s.rst.causeAt)
    (h3 : rget t 0 BNC_LAST_RESET_CAUSE = rget s 0 BNC_LAST_RESET_CAUSE) : ranksBefore t c = ranksBefore s c := by
  unfold ranksBefore; rw [h1, h2, h3]

theorem dropIsland_only (s : State) : changesOnly [.regs, .log, .rst, .bnc, .snd, .lsr] s (dropIsland s) :=
  only_of_frame (m := [.regs, .log, .rst, .bnc, .snd, .lsr]) (dropIsland_frame s (.refl _ _) (by decide))

theorem clearPowerOn_only (s : State) : changesOnly [.regs, .rst, .lsr] s (clearPowerOn s) :=
  only_of_frame (m := [.regs, .rst, .lsr]) (clearPowerOn_frame s (.refl _ _) (by decide))

theorem rget_of_regs' {s t : State} (h : t.regs = s.regs) (k : Nat) (f : Fld) : rget t k f = rget s k f := by
  unfold rget rword; rw [h]

theorem rget_setRword_same (s : State) (k off : Nat) (w : Word) (f : Fld) (h : f.off + f.stride * 0 = off) :
    rget (setRword s k off w) k f = fldOf f w := by
  unfold rget
  rw [rword_setRword, if_pos (by rw [h])]

theorem four_facts (s : State) :
    pwrState (rput (rput (rput (rput s 0 PWR_STATUS_STATE 0) 0 PWR_CTL_MAIN_EN 0) 0 CLK_STATUS_SAFE 0) 0 PWR_STATUS_BUS_OK 0) = 0
    ∧ rget (rput (rput (rput (rput s 0 PWR_STATUS_STATE 0) 0 PWR_CTL_MAIN_EN 0) 0 CLK_STATUS_SAFE 0) 0 PWR_STATUS_BUS_OK 0) 0 PWR_CTL_MAIN_EN = 0
    ∧ rget (rput (rput (rput (rput s 0 PWR_STATUS_STATE 0) 0 PWR_CTL_MAIN_EN 0) 0 CLK_STATUS_SAFE 0) 0 PWR_STATUS_BUS_OK 0) 0 CLK_STATUS_SAFE = 0
    ∧ ∀ f : Fld, f.off ≠ 0x150004 → f.off ≠ 0x150000 → f.off ≠ 0x150100 →
        rget (rput (rput (rput (rput s 0 PWR_STATUS_STATE 0) 0 PWR_CTL_MAIN_EN 0) 0 CLK_STATUS_SAFE 0) 0 PWR_STATUS_BUS_OK 0) 0 f = rget s 0 f := by
  unfold pwrState
  refine ⟨?_, ?_, ?_, fun f h1 h2 h3 => ?_⟩
  · rw [rget_rput_ne _ _ _ _ _ (by decide) (by decide), rget_rput_ne _ _ _ _ _ (by decide) (by decide), rget_rput_ne _ _ _ _ _ (by decide) (by decide), rget_rput_mod _ _ _ _ (by decide), Nat.zero_mod]
  · rw [rget_rput_ne _ _ _ _ _ (by decide) (by decide), rget_rput_ne _ _ _ _ _ (by decide) (by decide), rget_rput_mod _ _ _ _ (by decide), Nat.zero_mod]
  · rw [rget_rput_ne _ _ _ _ _ (by decide) (by decide), rget_rput_mod _ _ _ _ (by decide), Nat.zero_mod]
  · rw [rget_rput_ne _ _ _ _ _ (by decide) (Or.inl h1), rget_rput_ne _ _ _ _ _ (by decide) (Or.inl h3), rget_rput_ne _ _ _ _ _ (by decide) (Or.inl h2), rget_rput_ne _ _ _ _ _ (by decide) (Or.inl h1)]

theorem two_ne (s : State) (g h : Fld) (a b : Nat) (f : Fld) (hg : g.stride = 0) (hh : h.stride = 0) (h1 : f.off ≠ g.off) (h2 : f.off ≠ h.off) (h0 : f.stride = 0) :
    rget (rput (rput s 0 g a) 0 h b) 0 f = rget s 0 f := by
  unfold rput rget
  rw [rword_setRword, if_neg (by rw [regKey_inj]; rw [h0, hh]; omega), rword_setRword, if_neg (by rw [regKey_inj]; rw [h0, hg]; omega)]

/-- The status registers of a reset. -/
theorem resetStatus_facts (s : State) (n : Nat) (hn : n < 16) :
    pwrState (resetStatus s n) = 0 ∧ rget (resetStatus s n) 0 PWR_CTL_MAIN_EN = 0 ∧ rget (resetStatus s n) 0 CLK_STATUS_SAFE = 0
    ∧ rget (resetStatus s n) 0 BNC_BRINGUP_STEP = n
    ∧ (∀ f : Fld, f.off ≠ 0x150004 → f.off ≠ 0x150000 → f.off ≠ 0x150100 → f.off ≠ 0x120000 → f.off ≠ 0x120108 → f.off ≠ 0x12010C → f.stride = 0 →
        rget (resetStatus s n) 0 f = rget s 0 f) := by
  obtain ⟨s1, h1⟩ : ∃ y, y = rput (rput (rput (rput s 0 PWR_STATUS_STATE 0) 0 PWR_CTL_MAIN_EN 0) 0 CLK_STATUS_SAFE 0) 0 PWR_STATUS_BUS_OK 0 := ⟨_, rfl⟩
  have f1 := four_facts s
  rw [← h1] at f1
  obtain ⟨b1, b2, b3, a1⟩ := f1
  obtain ⟨s2, h2⟩ : ∃ y, y = rput (rput s1 0 BNC_STATUS_THERMSTOP 0) 0 BNC_STATUS_STOPCAUSE 0 := ⟨_, rfl⟩
  obtain ⟨s3, h3⟩ : ∃ y, y = rput (rput s2 0 BNC_BRST_STATUS_BUSY 0) 0 BNC_BRST_STATUS_QUIESCE 0 := ⟨_, rfl⟩
  obtain ⟨s4, h4⟩ : ∃ y, y = rput (rput s3 0 BNC_BRINGUP_READY 0) 0 BNC_BRINGUP_FAULTED 0 := ⟨_, rfl⟩
  obtain ⟨s5, h5⟩ : ∃ y, y = rput (rput s4 0 BNC_BRINGUP_STACKFAIL 0) 0 BNC_BRINGUP_MODFAIL 0 := ⟨_, rfl⟩
  obtain ⟨s6, h6⟩ : ∃ y : State, y = { s5 with bnc := { s5.bnc with stopped := false } } := ⟨_, rfl⟩
  have e : resetStatus s n = rput s6 0 BNC_BRINGUP_STEP n := by rw [h6, h5, h4, h3, h2, h1]; rfl
  have a4 : ∀ f : Fld, f.off ≠ 0x120000 → f.off ≠ 0x120108 → f.off ≠ 0x12010C → f.stride = 0 → rget s6 0 f = rget s1 0 f := fun f x y z h0 => by
    have r6 : rget s6 0 f = rget s5 0 f := by rw [h6]; rfl
    rw [r6, h5, two_ne _ _ _ _ _ _ rfl rfl z z h0, h4, two_ne _ _ _ _ _ _ rfl rfl z z h0, h3, two_ne _ _ _ _ _ _ rfl rfl y y h0,
      h2, two_ne _ _ _ _ _ _ rfl rfl x x h0]
  rw [e]
  refine ⟨?_, ?_, ?_, ?_, fun f h1 h2 h3 h4 h5 h6 h0 => ?_⟩
  · unfold pwrState; rw [rget_rput_ne _ _ _ _ _ (by decide) (by decide), a4 _ (by decide) (by decide) (by decide) rfl]; exact b1
  · rw [rget_rput_ne _ _ _ _ _ (by decide) (by decide), a4 _ (by decide) (by decide) (by decide) rfl, b2]
  · rw [rget_rput_ne _ _ _ _ _ (by decide) (by decide), a4 _ (by decide) (by decide) (by decide) rfl, b3]
  · rw [rget_rput_mod _ _ _ _ (by decide)]; exact Nat.mod_eq_of_lt hn
  · rw [rget_rput_ne _ _ _ _ _ (by decide) (Or.inl h6), a4 _ h4 h5 h6 h0, a1 _ h1 h2 h3]

theorem putWords_get (s : State) (off : Nat) (ws : List Word) (f : Fld) (h : ∀ i, i < ws.length → f.off + f.stride * 0 ≠ off + 4 * i) :
    rget (putWords s off ws) 0 f = rget s 0 f := by
  unfold putWords
  have key : ∀ (l : List (Word × Nat)) (s : State), (∀ q ∈ l, f.off + f.stride * 0 ≠ off + 4 * q.2) →
      rget (l.foldl (fun s q => setRword s 0 (off + 4 * q.2) q.1) s) 0 f = rget s 0 f := by
    intro l
    induction l with
    | nil => intro s _; rfl
    | cons a r ih =>
      intro s hh
      rw [List.foldl_cons, ih _ (fun q hq => hh q (List.mem_cons_of_mem _ hq))]
      unfold rget
      rw [rword_setRword, if_neg]
      rw [regKey_inj]
      exact hh a List.mem_cons_self
  refine key _ _ fun q hq => h _ ?_
  have := List.snd_lt_of_mem_zipIdx hq
  omega

/-- A clearing (R460) counts in LSR_ZEROISES and, where a word does not read back zero, sets ZFAIL; the other registers of Lodestar
read as the words written zero leave them. -/
theorem clearSecrets_split (s : State) : ∃ y, y = putWords (putWords s 0x140080 (List.replicate 32 0)) 0x140020 (List.replicate 8 0) ∧
    ∃ z : State, z = { y with lsr := y.lsr.cleared } ∧
    clearSecrets s = if Config.clearMisses s.lsr.clears = 0 then rbump z 0 LSR_ZEROISES else rset (rbump z 0 LSR_ZEROISES) 0 LSR_STATUS_ZFAIL :=
  ⟨_, rfl, _, rfl, rfl⟩

theorem putWords_lsr (s : State) (off : Nat) (ws : List Word) : (putWords s off ws).lsr = s.lsr := by
  unfold putWords
  generalize ws.zipIdx = l
  induction l generalizing s with
  | nil => rfl
  | cons a r ih => rw [List.foldl_cons, ih]; rfl

theorem clearSecrets_lsr (s : State) : (clearSecrets s).lsr = s.lsr.cleared := by
  obtain ⟨y, hy, z, hz, e⟩ := clearSecrets_split s
  have lz : z.lsr = s.lsr.cleared := by rw [hz, hy]; dsimp only; rw [putWords_lsr, putWords_lsr]
  rw [e]
  split <;> exact lz

theorem clearSecrets_get (s : State) (f : Fld) (h0 : f.stride = 0) (h : f.off < 0x140000 ∨ 0x150000 ≤ f.off) :
    rget (clearSecrets s) 0 f = rget s 0 f := by
  obtain ⟨x, hx, z, hz, e0⟩ := clearSecrets_split s
  have b : rget (rbump z 0 LSR_ZEROISES) 0 f = rget x 0 f := by
    rw [rbump_ne _ _ _ _ _ (by decide) (Or.inl (by simp only [LSR_ZEROISES]; omega)), hz]
    rfl
  have e : rget (clearSecrets s) 0 f = rget x 0 f := by
    rw [e0]
    split
    · exact b
    · unfold rset
      rw [rget_rput_ne _ _ _ _ _ (by decide) (Or.inl (by simp only [LSR_STATUS_ZFAIL]; omega)), b]
  rw [e, hx, putWords_get _ _ _ _ (fun i hi => by simp only [List.length_replicate] at hi; rw [h0]; omega),
    putWords_get _ _ _ _ (fun i hi => by simp only [List.length_replicate] at hi; rw [h0]; omega)]

theorem drawNonce_get (s : State) (f : Fld) (h0 : f.stride = 0) (h : f.off < 0x140000 ∨ 0x150000 ≤ f.off) :
    rget (drawNonce s) 0 f = rget s 0 f := by
  unfold drawNonce
  rw [putWords_get _ _ _ _ (fun i hi => by simp only [List.length_map, List.length_range] at hi; rw [h0]; omega)]
  rfl

theorem cause_word (c : Nat) (hc : c < 16) : fldOf BNC_LAST_RESET_CAUSE (BitVec.ofNat 32 (putBits 0 0 4 c)) = c
    ∧ fldOf BNC_LAST_RESET_SCOPE (BitVec.ofNat 32 (putBits 0 0 4 c)) = 0 := by
  have : ∀ c, c < 16 → fldOf BNC_LAST_RESET_CAUSE (BitVec.ofNat 32 (putBits 0 0 4 c)) = c
    ∧ fldOf BNC_LAST_RESET_SCOPE (BitVec.ofNat 32 (putBits 0 0 4 c)) = 0 := by decide
  exact this c hc

/-- A reset's cause is recorded with scope 0, unless one that ranks before it was recorded in this BCK cycle. -/
theorem lastReset_facts (s : State) (c : Nat) (hc : c < 16) :
    (ranksBefore s c = false → rget (lastReset s c) 0 BNC_LAST_RESET_CAUSE = c ∧ rget (lastReset s c) 0 BNC_LAST_RESET_SCOPE = 0)
    ∧ (ranksBefore s c = true → lastReset s c = s) ∧ (lastReset s c).rst.domains = s.rst.domains := by
  have hw : bitsOf (BitVec.ofNat 32 (putBits 0 0 4 c)).toNat 0 4 = c := by
    have : ∀ c, c < 16 → bitsOf (BitVec.ofNat 32 (putBits 0 0 4 c)).toNat 0 4 = c := by decide
    exact this c hc
  have e : lastReset s c = if s.rst.causeAt = some (s.cyc / 300) ∧ causeOrder.idxOf (rget s 0 BNC_LAST_RESET_CAUSE) < causeOrder.idxOf c then s
      else setRword { s with rst := { s.rst with causeAt := some (s.cyc / 300) } } 0 0x120100 (BitVec.ofNat 32 (putBits 0 0 4 c)) := by
    unfold lastReset recordCause
    rw [hw]
    rfl
  have r : ranksBefore s c = true ↔ s.rst.causeAt = some (s.cyc / 300) ∧ causeOrder.idxOf (rget s 0 BNC_LAST_RESET_CAUSE) < causeOrder.idxOf c := by
    unfold ranksBefore; rw [Bool.and_eq_true, decide_eq_true_iff, decide_eq_true_iff]
  rw [e]
  refine ⟨fun h => ?_, fun h => if_pos (r.mp h), by split <;> rfl⟩
  rw [if_neg (fun hh => by rw [r.mpr hh] at h; cases h)]
  exact ⟨(rget_setRword_same _ _ _ _ BNC_LAST_RESET_CAUSE (by decide)).trans (cause_word c hc).1,
    (rget_setRword_same _ _ _ _ BNC_LAST_RESET_SCOPE (by decide)).trans (cause_word c hc).2⟩

theorem takeFirmware_only (s : State) : changesOnly [.regs, .lsr] s (takeFirmware s) :=
  only_of_frame (m := [.regs, .lsr]) (takeFirmware_frame s (.refl _ _) (by decide))

theorem takeFirmware_kept (s : State) : IslandKept s (takeFirmware s) := by
  unfold takeFirmware
  split
  · unfold runFirmware
    refine IslandKept.trans (t := { s with lsr := _ }) (.of_regs rfl) (.trans (.trans ?_ (islandKept_rput _ _ _ _ 0 (by decide))) (islandKept_rput _ _ _ _ 0 (by decide)))
    exact islandKept_rput _ _ _ _ 0 (by decide)
  · exact .refl _

/-- Where the cause of an earlier reset is kept: in the registers of the island that its own reset keeps, while the BCK
cycle is the same. -/
theorem dropIsland_ranks (s : State) (c : Nat) : ranksBefore (dropIsland s) c = ranksBefore s c
    ∧ (s.rst.causeAt = some (s.cyc / 300) → rget (dropIsland s) 0 BNC_LAST_RESET_CAUSE = rget s 0 BNC_LAST_RESET_CAUSE) := by
  have k : s.rst.causeAt = some (s.cyc / 300) → rget (dropIsland s) 0 BNC_LAST_RESET_CAUSE = rget s 0 BNC_LAST_RESET_CAUSE := fun h => by
    have : rword (dropIsland s) 0 (BNC_LAST_RESET_CAUSE.off + BNC_LAST_RESET_CAUSE.stride * 0)
        = rword s 0 (BNC_LAST_RESET_CAUSE.off + BNC_LAST_RESET_CAUSE.stride * 0) := by
      show mapGet reg2Reset (mapSet reg2Reset (mapSet reg2Reset (mapSet reg2Reset [] _ _) _ _) 0x120100
        (if s.rst.causeAt = some (s.cyc / 300) then rword s 0 0x120100 else 0)) 0x120100 = rword s 0 0x120100
      rw [mapGet_mapSet_same, if_pos h]
    unfold rget; rw [this]
  refine ⟨?_, k⟩
  by_cases h : s.rst.causeAt = some (s.cyc / 300)
  · exact ranksBefore_congr c rfl rfl (k h)
  · unfold ranksBefore
    rw [show (dropIsland s).rst.causeAt = s.rst.causeAt from rfl, show (dropIsland s).cyc = s.cyc from rfl, decide_eq_false h]
    rfl

theorem dropDomains_island (s : State) (f : Fld) (h : 0x120000 ≤ f.off + f.stride * 0 ∧ f.off + f.stride * 0 < 0x160000) :
    rget (dropDomains s) 0 f = rget s 0 f := by
  have : rword (dropDomains s) 0 (f.off + f.stride * 0) = rword s 0 (f.off + f.stride * 0) := by
    unfold rword
    show mapGet _ (s.regs.filter fun p => islandKey p.1) _ = _
    rw [mapGet_filter, if_pos]
    unfold islandKey regKey
    rw [Bool.and_eq_true, decide_eq_true_iff, decide_eq_true_iff]
    simp only [Nat.zero_mul, Nat.zero_add]
    omega
  unfold rget; rw [this]

theorem endLong_replies (s : State) (h : s.bnc.long = none) : (endLong s).bnc.replies = s.bnc.replies := by
  have h2 : (endLoad s).bnc = s.bnc := by unfold endLoad; split <;> rfl
  have h3 := (breakCommits_facts (endLoad s)).2
  have h4 : ∀ u : State, (endCommand u).bnc.replies = u.bnc.replies := fun u => by unfold endCommand; split <;> rfl
  unfold endLong
  rw [h4, h3, h2]

/-- What a module reset leaves, from a state that differs from `s` in Binnacle's own state and the log alone. -/
theorem moduleReset_facts (s x : State) (c : Nat) (i : Bool) (hc : c < 16) (hx : changesOnly [.bnc, .log] s x)
    : ModuleReset s (moduleReset x c i) c i ∧ (x.bnc.long = none → i = false → (moduleReset x c i).bnc.replies = x.bnc.replies) := by
  obtain ⟨s1, h1⟩ : ∃ y, y = dropDomains (endLong x) := ⟨_, rfl⟩
  have oL := endLong_only x
  have d1 : Dropped s s1 := by
    rw [h1]
    refine dropped_drop s _ (only_trans (only_mono hx (by decide)) (only_mono oL (by decide)))
  have dom1 : s1.rst.domains = min s.rst.domains 1 := by
    rw [h1]; show min (endLong x).rst.domains 1 = _
    rw [show (endLong x).rst = x.rst from oL .rst (by decide), show x.rst = s.rst from hx .rst (by decide)]
  have at1 : s1.rst.causeAt = s.rst.causeAt := by
    rw [h1]; show (endLong x).rst.causeAt = _
    rw [show (endLong x).rst = x.rst from oL .rst (by decide), show x.rst = s.rst from hx .rst (by decide)]
  have cy1 : s1.cyc = s.cyc := d1.rest.1
  have ca1 : rget s1 0 BNC_LAST_RESET_CAUSE = rget s 0 BNC_LAST_RESET_CAUSE := by
    rw [h1, dropDomains_island _ _ (by decide), (endLong_kept x).rget _ rfl (by decide)]
    exact rget_of_regs' (hx .regs (by decide)) _ _
  cases i
  · obtain ⟨s0, h0⟩ : ∃ y, y = takeFirmware s1 := ⟨_, rfl⟩
    have o0 : changesOnly [.regs, .lsr] s1 s0 := h0 ▸ takeFirmware_only s1
    have rk : ranksBefore s0 c = ranksBefore s c := by
      refine ranksBefore_congr c ((o0 .cyc (by decide)).trans cy1) ?_ ?_
      · rw [show s0.rst = s1.rst from o0 .rst (by decide)]; exact at1
      · rw [h0, (takeFirmware_kept s1).rget _ rfl (by decide)]; exact ca1
    have ca0 : rget s0 0 BNC_LAST_RESET_CAUSE = rget s 0 BNC_LAST_RESET_CAUSE := by
      rw [h0, (takeFirmware_kept s1).rget _ rfl (by decide)]; exact ca1
    obtain ⟨l1, l2, l3⟩ := lastReset_facts s0 c hc
    rw [rk] at l1 l2
    obtain ⟨s2, h2⟩ : ∃ y, y = drawNonce (clearSecrets (lastReset s0 c)) := ⟨_, rfl⟩
    have o2 : changesOnly [.regs, .lsr, .rst] s1 s2 := by
      rw [h2]
      exact only_trans (only_mono o0 (by decide)) (only_trans (only_trans (only_mono (lastReset_only _ _) (by decide))
        (only_mono (clearSecrets_only _) (by decide))) (only_mono (drawNonce_only _) (by decide)))
    have g2 : ∀ f : Fld, f.stride = 0 → (f.off < 0x140000 ∨ 0x150000 ≤ f.off) → rget s2 0 f = rget (lastReset s0 c) 0 f := fun f a b => by
      rw [h2, drawNonce_get _ _ a b, clearSecrets_get _ _ a b]
    have dom2 : s2.rst.domains = min s.rst.domains 1 := by
      rw [h2, show (drawNonce (clearSecrets (lastReset s0 c))).rst = (lastReset s0 c).rst from
        ((drawNonce_only _) .rst (by decide)).trans ((clearSecrets_only _) .rst (by decide)), l3,
        show s0.rst = s1.rst from o0 .rst (by decide), dom1]
    have e : moduleReset x c false = if ron s2 0 LSR_STATUS_RECOVERY then rset (resetStatus s2 1) 0 BNC_BRINGUP_FAULTED
        else resetStatus s2 2 := by rw [h2, h0, h1]; rfl
    obtain ⟨y, n, hn, ey, en, eb⟩ : ∃ y n, n < 16 ∧ moduleReset x c false = y ∧ (n = if ron s2 0 LSR_STATUS_RECOVERY then 1 else 2)
        ∧ (y = if ron s2 0 LSR_STATUS_RECOVERY then rset (resetStatus s2 1) 0 BNC_BRINGUP_FAULTED else resetStatus s2 2) := by
      refine ⟨_, _, ?_, e, rfl, rfl⟩; split <;> decide
    have key : pwrState y = 0 ∧ rget y 0 PWR_CTL_MAIN_EN = 0 ∧ rget y 0 CLK_STATUS_SAFE = 0 ∧ rget y 0 BNC_BRINGUP_STEP = n
        ∧ (∀ f : Fld, f.off ≠ 0x150004 → f.off ≠ 0x150000 → f.off ≠ 0x150100 → f.off ≠ 0x120000 → f.off ≠ 0x120108 → f.off ≠ 0x12010C → f.stride = 0 →
            rget y 0 f = rget s2 0 f) ∧ changesOnly [.regs, .bnc] s2 y ∧ y.bnc.replies = s2.bnc.replies := by
      by_cases hr : ron s2 0 LSR_STATUS_RECOVERY = true
      · rw [eb, en, if_pos hr, if_pos hr]
        obtain ⟨a, b, cc, d, k⟩ := resetStatus_facts s2 1 (by decide)
        refine ⟨?_, ?_, ?_, ?_, fun f p1 p2 p3 p4 p5 p6 p7 => ?_, only_trans (resetStatus_only _ _) (only_mono (only_rput _ _ _ _ _) (by decide)), rfl⟩
        · unfold pwrState; rw [rset_ne _ _ _ _ (by decide) (Or.inl (by decide))]; exact a
        · rw [rset_ne _ _ _ _ (by decide) (Or.inl (by decide))]; exact b
        · rw [rset_ne _ _ _ _ (by decide) (Or.inl (by decide))]; exact cc
        · rw [rset_ne _ _ _ _ (by decide) (Or.inr (by decide))]; exact d
        · rw [rset_ne _ _ _ _ (by decide) (Or.inl p6)]; exact k f p1 p2 p3 p4 p5 p6 p7
      · rw [eb, en, if_neg hr, if_neg hr]
        obtain ⟨a, b, cc, d, k⟩ := resetStatus_facts s2 2 (by decide)
        exact ⟨a, b, cc, d, k, resetStatus_only _ _, rfl⟩
    rw [ey]
    obtain ⟨a, b, cc, d, k, o3, rp⟩ := key
    have dom3 : y.rst.domains = min s.rst.domains 1 := by
      rw [show y.rst = s2.rst from o3 .rst (by decide), dom2]
    refine ⟨⟨droppedTrans d1 (only_trans (only_mono o2 (by decide)) (only_mono o3 (by decide))) (by rw [dom3]; omega), fun h => ?_, fun h => ?_, a, b, cc, ?_, dom3⟩, fun hl _ => ?_⟩
    · rw [k _ (by decide) (by decide) (by decide) (by decide) (by decide) (by decide) rfl, k _ (by decide) (by decide) (by decide) (by decide) (by decide) (by decide) rfl,
        g2 _ rfl (by decide), g2 _ rfl (by decide)]
      exact l1 h
    · rw [k _ (by decide) (by decide) (by decide) (by decide) (by decide) (by decide) rfl, g2 _ rfl (by decide), l2 h, ca0]
    · have : ron y 0 LSR_STATUS_RECOVERY = ron s2 0 LSR_STATUS_RECOVERY := by
        unfold ron; rw [k _ (by decide) (by decide) (by decide) (by decide) (by decide) (by decide) rfl]
      rw [d, en, this, Bool.false_or]
    · rw [rp, show s2.bnc = s1.bnc from o2 .bnc (by decide), h1]
      exact endLong_replies x hl
  · obtain ⟨s0, h0⟩ : ∃ y, y = dropIsland s1 := ⟨_, rfl⟩
    obtain ⟨q1, q2⟩ := dropIsland_ranks s1 c
    rw [← h0] at q1 q2
    have rk : ranksBefore s0 c = ranksBefore s c := q1.trans (ranksBefore_congr c cy1 at1 ca1)
    obtain ⟨l1, l2, l3⟩ := lastReset_facts s0 c hc
    rw [rk] at l1 l2
    obtain ⟨s2, h2⟩ : ∃ y, y = lastReset s0 c := ⟨_, rfl⟩
    rw [← h2] at l1 l2 l3
    have o2 : changesOnly [.regs, .log, .rst, .bnc, .snd, .lsr] s1 s2 := by
      rw [h2, h0]; exact only_trans (dropIsland_only _) (only_mono (lastReset_only _ _) (by decide))
    have e : moduleReset x c true = resetStatus s2 1 := by rw [h2, h0, h1]; rfl
    rw [e]
    obtain ⟨a, b, cc, d, k⟩ := resetStatus_facts s2 1 (by decide)
    have o3 := resetStatus_only s2 1
    have dom3 : (resetStatus s2 1).rst.domains = 0 := by
      rw [show (resetStatus s2 1).rst = s2.rst from o3 .rst (by decide), l3, h0]; rfl
    refine ⟨⟨droppedTrans d1 (only_trans (only_mono o2 (by decide)) (only_mono o3 (by decide))) (by rw [dom3]; omega), fun h => ?_, fun h => ?_, a, b, cc, d, dom3⟩, fun _ h => by cases h⟩
    · rw [k _ (by decide) (by decide) (by decide) (by decide) (by decide) (by decide) rfl, k _ (by decide) (by decide) (by decide) (by decide) (by decide) (by decide) rfl]
      exact l1 h
    · have hat : s1.rst.causeAt = some (s1.cyc / 300) := by
        rw [at1, cy1]
        unfold ranksBefore at h
        rw [Bool.and_eq_true, decide_eq_true_iff] at h
        exact h.1
      rw [k _ (by decide) (by decide) (by decide) (by decide) (by decide) (by decide) rfl, l2 h, q2 hat, ca1]

/-- What a hard trip leaves, from a state that differs from `s` in registers, Binnacle's own state and the log alone, and
in no recorded cause. -/
theorem hardTrip_facts (s x : State) (c : Nat) (hc : c < 16) (hx : changesOnly [.regs, .bnc, .log] s x)
    (hr : rget x 0 BNC_LAST_RESET_CAUSE = rget s 0 BNC_LAST_RESET_CAUSE) : Tripped s (hardTrip x c) c := by
  obtain ⟨y, hy⟩ : ∃ y, y = moduleReset x 5 false := ⟨_, rfl⟩
  have m := (moduleReset_facts x x 5 false (by decide) (only_refl _ _)).1
  rw [← hy] at m
  have e : hardTrip x c = rput (rput y 0 PWR_STATUS_STATE 4) 0 PWR_TRIP_CAUSE c := by rw [hy]; rfl
  have o : changesOnly [.regs] y (hardTrip x c) := by rw [e]; exact only_trans (only_rput _ _ _ _ _) (only_rput _ _ _ _ _)
  have hd : Dropped x (hardTrip x c) := droppedTrans m.toDropped (only_mono o (by decide)) (by
    rw [show (hardTrip x c).rst = y.rst from o .rst (by decide)]; exact m.domains)
  have ds : Dropped s (hardTrip x c) :=
    { hd with
      fleet := by rw [hd.fleet, show x.fleet = s.fleet from hx .fleet (by decide)]
      rest := ⟨hd.rest.1.trans (hx .cyc (by decide)), by rw [hd.rest.2.1, show x.img = s.img from hx .img (by decide)], hd.rest.2.2.1.trans (hx .tap (by decide)),
        hd.rest.2.2.2.1.trans (hx .answers (by decide)), hd.rest.2.2.2.2.trans (hx .pending (by decide))⟩ }
  have rk : ranksBefore x 5 = ranksBefore s 5 :=
    ranksBefore_congr 5 (hx .cyc (by decide)) (by rw [show x.rst = s.rst from hx .rst (by decide)]) hr
  have k : ∀ f : Fld, f.off ≠ 0x150004 → f.off ≠ 0x150008 → rget (hardTrip x c) 0 f = rget y 0 f := fun f h1 h2 => by
    rw [e, rget_rput_ne _ _ _ _ _ (by decide) (Or.inl h2), rget_rput_ne _ _ _ _ _ (by decide) (Or.inl h1)]
  refine ⟨ds, fun h => ?_, ?_, ?_, ?_, ?_⟩
  · rw [k _ (by decide) (by decide)]; exact (m.last (rk.trans h)).1
  · unfold pwrState
    rw [e, rget_rput_ne _ _ _ _ _ (by decide) (by decide), rget_rput_mod _ _ _ _ (by decide)]; rfl
  · rw [e, rget_rput_mod _ _ _ _ (by decide)]; exact Nat.mod_eq_of_lt hc
  · rw [k _ (by decide) (by decide)]; exact m.mainEn
  · have : ron (hardTrip x c) 0 LSR_STATUS_RECOVERY = ron y 0 LSR_STATUS_RECOVERY := by
      unfold ron; rw [k _ (by decide) (by decide)]
    rw [k _ (by decide) (by decide), m.step, this, Bool.false_or]

theorem only_pwr (s : State) (v : PowerSt) : changesOnly [.pwr] s { s with pwr := v } := by
  intro p hp
  cases p <;> first | rfl | exact absurd (by simp) hp

theorem rword_of_regs {s t : State} (h : t.regs = s.regs) (k off : Nat) : rword t k off = rword s k off := by
  unfold rword; rw [h]

theorem rget_of_regs {s t : State} (h : t.regs = s.regs) (k : Nat) (f : Fld) (i : Nat := 0) : rget t k f i = rget s k f i := by
  unfold rget; rw [rword_of_regs h]

theorem holdTiles_only (s : State) (k : Nat) : changesOnly [.tiles, .pwr] s (holdTiles s k) :=
  only_of_frame (m := [.tiles, .pwr]) (holdTiles_frame s k (.refl _ _) (by decide))

theorem stackOff_only (s : State) (k : Nat) : changesOnly [.regs, .tiles, .dram, .stk, .pwr] s (stackOff s k) :=
  only_of_frame (m := [.regs, .tiles, .dram, .stk, .pwr]) (stackOff_frame s k (.refl _ _) (by decide))

theorem elapseNs_only (s : State) (n : Nat) : changesOnly [.cyc, .tick, .tfrac] s (elapseNs s n) :=
  only_of_frame (m := [.cyc, .tick, .tfrac]) (elapseNs_frame s n (.refl _ _) (by decide))

theorem stackOff_facts (s : State) (k : Nat) (hs : k < s.stk.length) :
    regsBut [(k, 0x50004)] s (stackOff s k) ∧ rget (stackOff s k) k PWR_STK_STATUS_DRAM_OK = 0
    ∧ rget (stackOff s k) k PWR_STK_STATUS_STATE = rget s k PWR_STK_STATUS_STATE
    ∧ (stkOf (stackOff s k) k).dramReady = false := by
  obtain ⟨s1, h1⟩ : ∃ x, x = holdTiles s k := ⟨_, rfl⟩
  obtain ⟨s2, h2⟩ : ∃ x : State, x = { s1 with dram := mapClear s1.dram (k * 2 ^ 36) ((k + 1) * 2 ^ 36) } := ⟨_, rfl⟩
  obtain ⟨s3, h3⟩ : ∃ x, x = putStk s2 k { stkOf s2 k with dramReady := false } := ⟨_, rfl⟩
  have e : stackOff s k = rput s3 k PWR_STK_STATUS_DRAM_OK 0 := by rw [h3, h2, h1]; rfl
  have o1 := holdTiles_only s k
  rw [← h1] at o1
  have r3 : s3.regs = s.regs := by rw [h3]; show s2.regs = _; rw [h2]; exact o1 .regs (by decide)
  rw [e]
  refine ⟨regsBut_trans (regsBut_of_regs r3 _) (regsBut_rputm _ _ _ _ _ (by exact List.mem_singleton.mpr rfl)), ?_, ?_, ?_⟩
  · rw [rget_rput_mod _ _ _ _ (by decide), Nat.zero_mod]
  · rw [rget_rput_ne _ _ _ _ _ (by decide) (by decide), rget_of_regs r3]
  · have l2 : k < s2.stk.length := by rw [h2]; show k < s1.stk.length; rw [show s1.stk = s.stk from o1 .stk (by decide)]; exact hs
    show (stkOf s3 k).dramReady = false
    rw [h3]
    unfold stkOf putStk
    dsimp only
    rw [List.getD_eq_getElem?_getD, List.getElem?_set_self l2]
    rfl

theorem ron_rget {s t : State} {k k' : Nat} {f : Fld} {i : Nat} (h : rget t k f i = rget s k' f i) : ron t k f i = ron s k' f i := by
  unfold ron; rw [h]

theorem ron_true {s : State} {k : Nat} {f : Fld} (h : rget s k f = 1) : ron s k f = true := by
  unfold ron; rw [h]; rfl

theorem ron_false {s : State} {k : Nat} {f : Fld} (h : rget s k f = 0) : ron s k f = false := by
  unfold ron; rw [h]; rfl

theorem safeState_facts (s x : State) (hx : changesOnly [.regs] s x) :
    Dropped s (safeState x) ∧ rget (safeState x) 0 CLK_STATUS_SAFE = 1
    ∧ pwrState (safeState x) = (if pwrState x = 4 then 4 else 3)
    ∧ rget (safeState x) 0 CLK_LOCS = rget x 0 CLK_LOCS
    ∧ rget (safeState x) 0 CLK_STATUS_LOC_BCK = rget x 0 CLK_STATUS_LOC_BCK
    ∧ rget (safeState x) 0 CLK_STATUS_LOC_REF = rget x 0 CLK_STATUS_LOC_REF
    ∧ rget (safeState x) 0 CLK_STATUS_BCK_OK = rget x 0 CLK_STATUS_BCK_OK := by
  obtain ⟨d, hd⟩ : ∃ y, y = dropDomains (breakCommits x) := ⟨_, rfl⟩
  obtain ⟨v, hv⟩ : ∃ v, v = (if rget x 0 PWR_STATUS_STATE = 4 then 4 else 3) := ⟨_, rfl⟩
  have e : safeState x = rput (rset (rput d 0 PWR_STATUS_STATE v) 0 CLK_STATUS_SAFE) 0 PWR_STATUS_BUS_OK 0 := by rw [hv, hd]; rfl
  have k : ∀ f : Fld, f.off ≠ 0x150004 → (f.off ≠ 0x150100 ∨ f.apart CLK_STATUS_SAFE = true) → 0x150000 ≤ f.off ∧ f.off < 0x160000 → f.stride = 0 →
      rget (safeState x) 0 f = rget x 0 f := by
    intro f h1 h2 h3 h0
    rw [e, rget_rput_ne _ _ _ _ _ (by decide) (Or.inl h1), rset_ne _ _ _ _ (by decide) h2, rget_rput_ne _ _ _ _ _ (by decide) (Or.inl h1), hd,
      dropDomains_island _ _ (by rw [h0]; omega), (breakCommits_facts x).1.rget f h0 (Or.inr h3)]
  refine ⟨?_, ?_, ?_, k _ (by decide) (by decide) (by decide) rfl, k _ (by decide) (by decide) (by decide) rfl, k _ (by decide) (by decide) (by decide) rfl, k _ (by decide) (by decide) (by decide) rfl⟩
  · have d0 := dropped_drop s (breakCommits x) (only_trans (only_mono hx (by decide))
      (only_mono (only_of_frame (m := [.regs, .free, .stk, .log, .bnc]) (breakCommits_frame x (.refl _ _) (by decide))) (by decide)))
    rw [← hd] at d0
    refine droppedTrans d0 (by rw [e]; exact only_trans (only_trans (only_mono (only_rput _ _ _ _ _) (by decide)) (only_mono (only_rput _ _ _ _ _) (by decide))) (only_mono (only_rput _ _ _ _ _) (by decide))) ?_
    have hr : (safeState x).rst = d.rst := by rw [e]; rfl
    rw [hr]; exact d0.domains
  · rw [e, rget_rput_ne _ _ _ _ _ (by decide) (by decide)]; exact rset_one _ _ _ (by decide) (by decide)
  · have hvlt : v < 16 := by rw [hv]; split <;> decide
    unfold pwrState
    rw [e, rget_rput_ne _ _ _ _ _ (by decide) (by decide), rset_ne _ _ _ _ (by decide) (by decide), rget_rput_mod _ _ _ _ (by decide), ← hv]
    have hw : PWR_STATUS_STATE.width = 3 := rfl
    rw [hw]
    rw [hv]; split <;> rfl

theorem find_unit_of (l : List LogEntry) (u : UnitRef) (e : LogEntry) (h : l.find? (fun x => x.unit == u) = some e) : e.unit = u := by
  have := List.find?_some h
  simpa using this

theorem putEntry_find_same (l : List LogEntry) (e : LogEntry) : (putEntry l e).find? (fun x => x.unit == e.unit) = some e := by
  unfold putEntry
  split
  · rename_i h
    induction l with
    | nil => simp at h
    | cons a r ih =>
      rw [List.map_cons, List.find?_cons]
      by_cases ha : a.unit = e.unit
      · rw [if_pos ha]; simp
      · rw [if_neg ha]
        have : (a.unit == e.unit) = false := by simp [ha]
        rw [this]
        refine ih ?_
        rw [List.any_cons, this, Bool.false_or] at h
        exact h
  · rename_i h
    rw [List.find?_append]
    have : l.find? (fun x => x.unit == e.unit) = none := by
      rw [List.find?_eq_none]
      intro x hx hc
      exact h (List.any_eq_true.mpr ⟨x, hx, hc⟩)
    rw [this]
    simp

theorem putEntry_find_ne (l : List LogEntry) (e : LogEntry) (v : UnitRef) (h : v ≠ e.unit) :
    (putEntry l e).find? (fun x => x.unit == v) = l.find? (fun x => x.unit == v) := by
  unfold putEntry
  split
  · clear * - h
    induction l with
    | nil => rfl
    | cons a r ih =>
      rw [List.map_cons, List.find?_cons, List.find?_cons]
      by_cases ha : a.unit = e.unit
      · rw [if_pos ha]
        have h1 : (e.unit == v) = false := by simpa using Ne.symm h
        have h2 : (a.unit == v) = false := by rw [ha]; exact h1
        rw [h1, h2]; exact ih
      · rw [if_neg ha, ih]
  · rw [List.find?_append]
    have h1 : (e.unit == v) = false := by simpa using Ne.symm h
    simp [h1]

theorem unitEntry_unit (s : State) (u : UnitRef) : (unitEntry s u).unit = u := by
  unfold unitEntry logEntryOf
  cases h : s.log.entries.find? (fun e => e.unit == u) with
  | none => rfl
  | some e => exact find_unit_of _ _ _ h

theorem storeEntry_facts (s : State) (e : LogEntry) (b : Bool) :
    logEntryOf (storeEntry s e b) e.unit = some e ∧ (∀ v, v ≠ e.unit → logEntryOf (storeEntry s e b) v = logEntryOf s v)
    ∧ (b = true → (storeEntry s e b).log.nor.find? (fun x => x.unit == e.unit) = some e)
    ∧ ((storeEntry s e b).log.extra = s.log.extra ∧ (storeEntry s e b).log.lines = s.log.lines ∧ (storeEntry s e b).log.spared = s.log.spared) := by
  unfold storeEntry logEntryOf appendNor
  dsimp only
  cases b
  · exact ⟨putEntry_find_same _ _, fun v hv => putEntry_find_ne _ _ _ hv, fun h => (by cases h), rfl, rfl, rfl⟩
  · rw [if_pos rfl]
    split
    all_goals exact ⟨putEntry_find_same _ _, fun v hv => putEntry_find_ne _ _ _ hv, fun _ => putEntry_find_same _ _, rfl, rfl, rfl⟩

theorem logCount_only (s : State) (u : UnitRef) (r : Bool) (n c : Nat) : changesOnly [.log] s (logCount s u r n c).1 :=
  only_of_frame (m := [.log]) (logCount_frame s u r n c (.refl _ _) (by decide))

theorem count_fields (e : LogEntry) (r : Bool) (c tick : Nat) (early : Bool) :
    (e.count r 1 c tick early).unit = e.unit ∧ (e.count r 1 c tick early).st = e.st ∧ (e.count r 1 c tick early).cause = c
    ∧ (e.count r 1 c tick early).tick = tick ∧ (e.count r 1 c tick early).stress = e.stress
    ∧ (e.count r 1 c tick early).repeats = (if r then min (2 ^ 32 - 1) (e.repeats + 1) else e.repeats)
    ∧ (e.count r 1 c tick early).trans = (if r then e.trans else min (2 ^ 32 - 1) (e.trans + 1))
    ∧ (if r then (e.count r 1 c tick early).rb = e.rb.set 0 (min 255 (nth e.rb 0 + 1)) ∧ (e.count r 1 c tick early).tb = e.tb
        else (e.count r 1 c tick early).tb = e.tb.set 0 (min 65535 (nth e.tb 0 + 1)) ∧ (e.count r 1 c tick early).rb = e.rb) := by
  cases r
  · exact ⟨rfl, rfl, rfl, rfl, rfl, rfl, rfl, rfl, rfl⟩
  · exact ⟨rfl, rfl, rfl, rfl, rfl, rfl, rfl, rfl, rfl⟩

theorem logCount_counted (s : State) (u : UnitRef) (r : Bool) (c : Nat) : Counted s (logCount s u r 1 c).1 u r c := by
  obtain ⟨e1, h1⟩ : ∃ x, x = (unitEntry s u).count r 1 c s.tick (!ron s 0 CHR_STATUS_ALIGNED) := ⟨_, rfl⟩
  obtain ⟨b, hb⟩ : ∃ x, x = (e1.over && (decide ((unitEntry s u).st = 0) || decide ((unitEntry s u).st = 2))) := ⟨_, rfl⟩
  obtain ⟨e2, h2⟩ : ∃ x, x = (if b = true then { e1 with st := 1 } else e1) := ⟨_, rfl⟩
  have e : (logCount s u r 1 c).1 = storeEntry s e2 b := by rw [h2, hb, h1]; rfl
  obtain ⟨c1, c2, c3, c4, c5, c6, c7, c8⟩ := count_fields (unitEntry s u) r c s.tick (!ron s 0 CHR_STATUS_ALIGNED)
  rw [← h1] at c1 c2 c3 c4 c5 c6 c7 c8
  have hu : e1.unit = u := c1.trans (unitEntry_unit s u)
  have g : e2.cause = e1.cause ∧ e2.tick = e1.tick ∧ e2.repeats = e1.repeats ∧ e2.trans = e1.trans ∧ e2.tb = e1.tb ∧ e2.rb = e1.rb ∧ e2.stress = e1.stress := by
    rw [h2]; split <;> exact ⟨rfl, rfl, rfl, rfl, rfl, rfl, rfl⟩
  obtain ⟨g1, g2, g3, g4, g5, g6, g7⟩ := g
  have hu2 : e2.unit = u := by rw [h2]; split <;> exact hu
  obtain ⟨f1, f2, f3, f4⟩ := storeEntry_facts s e2 b
  rw [← e, hu2] at f1 f2 f3
  rw [← e] at f4
  have hE : unitEntry (logCount s u r 1 c).1 u = e2 := by unfold unitEntry; rw [f1]; rfl
  have ho : e2.over = e1.over := by rw [h2]; split <;> rfl
  have hst1 : e1.st = (unitEntry s u).st := c2
  refine ⟨by rw [f1]; rfl, by rw [hE, g1, c3], by rw [hE, g2, c4], by rw [hE, g3, c6], by rw [hE, g4, c7], ?_, by rw [hE, g7, c5], ?_, ?_, f2, f4⟩
  · rw [hE, g5, g6]; exact c8
  · rw [hE, ho]
    by_cases hh : b = true
    · rw [h2, if_pos hh, if_pos]
      rw [hb, Bool.and_eq_true, Bool.or_eq_true, decide_eq_true_iff, decide_eq_true_iff] at hh
      exact hh
    · rw [h2, if_neg hh, if_neg, hst1]
      rw [hb, Bool.and_eq_true, Bool.or_eq_true, decide_eq_true_iff, decide_eq_true_iff] at hh
      exact hh
  · rw [hE, ho]
    intro ha hc
    refine f3 ?_
    rw [hb, Bool.and_eq_true, Bool.or_eq_true, decide_eq_true_iff, decide_eq_true_iff]
    exact ⟨ha, hc⟩

theorem pend_log (s : State) (k site : Nat) : (pendDemotion s k site).log = s.log := rfl

theorem logEntryOf_log {s t : State} (h : t.log = s.log) (u : UnitRef) : logEntryOf t u = logEntryOf s u := by
  unfold logEntryOf; rw [h]

theorem tileEvent_facts (s : State) (k site : Nat) (r : Bool) (c : Nat) :
    ∃ x, Counted s x (tileUnit k site) r c ∧ (tileEvent s k site r 1 c).log = x.log := by
  refine ⟨(logCount s (tileUnit k site) r 1 c).1, logCount_counted _ _ _ _, ?_⟩
  unfold tileEvent
  dsimp only
  split <;> rfl

theorem foldl_putEntry_find (l : List LogEntry) (m : List LogEntry) (u : UnitRef) (h : ∀ e ∈ l, e.unit ≠ u) :
    (l.foldl putEntry m).find? (fun e => e.unit == u) = m.find? (fun e => e.unit == u) := by
  induction l generalizing m with
  | nil => rfl
  | cons a r ih =>
    rw [List.foldl_cons, ih _ (fun e he => h e (List.mem_cons_of_mem _ he)), putEntry_find_ne _ _ _ (Ne.symm (h a List.mem_cons_self))]

theorem foldl_putEntry_one (l : List LogEntry) (m : List LogEntry) (u : UnitRef) (h : (l.filter fun e => e.unit == u).length = 1) :
    (l.foldl putEntry m).find? (fun e => e.unit == u) = l.find? (fun e => e.unit == u) := by
  induction l generalizing m with
  | nil => simp at h
  | cons a r ih =>
    rw [List.foldl_cons, List.find?_cons]
    by_cases ha : (a.unit == u) = true
    · rw [ha]
      have hau : a.unit = u := by simpa using ha
      rw [List.filter_cons, if_pos ha, List.length_cons] at h
      have hr : (r.filter fun e => e.unit == u) = [] := List.eq_nil_of_length_eq_zero (by omega)
      rw [foldl_putEntry_find _ _ _ (fun e he hc => by
        have : e ∈ r.filter fun e => e.unit == u := List.mem_filter.mpr ⟨he, by simpa using hc⟩
        rw [hr] at this; cases this), ← hau, putEntry_find_same]
    · rw [List.filter_cons, if_neg ha] at h
      rw [ih _ h]
      simp [ha]

theorem uncorrectable_alone (s s1 : State) (k off : Nat) (ol : changesOnly [.log] s s1)
    (h2 : imagesAt s off = []) (h3 : versionsAt s off = []) (h4 : frameAt s k off = none) (h5 : inChart s k off 1 = false) :
    repairData s1 k off = s1 := by
  have es : s1.serve = s.serve := ol .serve (by decide)
  have er : s1.regs = s.regs := ol .regs (by decide)
  have ed : s1.dram = s.dram := ol .dram (by decide)
  have e2 : imagesAt s1 off = [] := by
    have : imagesAt s1 off = imagesAt s off := by
      unfold imagesAt berthImages berthOf areaBase areaSize leadStk leadOf ron rget rword
      rw [es, er]
    rw [this, h2]
  have e3 : versionsAt s1 off = [] := by
    have : versionsAt s1 off = versionsAt s off := by
      unfold versionsAt vslotBase leadStk leadOf ron rget rword
      rw [es, er]
    rw [this, h3]
  have eb : chartBase s1 k = chartBase s k := by unfold chartBase rget rword; rw [er]
  have ec : cread s1 k 0 64 = cread s k 0 64 := by
    unfold cread dread; rw [ed, eb]
  have e4 : frameAt s1 k off = none := by
    have : frameAt s1 k off = frameAt s k off := by
      unfold frameAt poolOff frameCount chartFacts
      rw [ec, eb]
      unfold rget rword
      rw [er]
    rw [this, h4]
  have e5 : inChart s1 k off 1 = false := by
    have : inChart s1 k off 1 = inChart s k off 1 := by
      unfold inChart
      rw [eb]
    rw [this, h5]
  unfold repairData restageAt
  rw [e2, e3]
  dsimp only [List.foldl_nil]
  rw [e4]
  have e6 : noteCorrupt s1 k off none = s1 := by
    unfold noteCorrupt
    rw [if_neg (by rw [e5]; decide)]
  rw [e6]
  unfold retireAt
  dsimp only
  rw [e5]
  rfl

theorem heartbeat_key (s s1 s2 : State) (k : BitVec 3) (h1 : s1 = elapseToTick s ((stkOf s k.toNat).beat + 10000000))
    (h2 : s2 = (logCount s1 (helmUnit k.toNat) true 1 0).1) :
    exec (.heartbeatTimeout k) s = (if (!binnacleRuns s) = true ∨ s.rst.domains < 7 ∨ wrapperClosed s 1 k.toNat 0 = true ∨ s1.tick < (stkOf s k.toNat).beat + 10000000 then .next s
      else if leadOf s2 = some k.toNat then .next (moduleReset s2 8 false)
      else .next (stackFault (startBlock (rbump s2 (leadStk s2) HLM_HBMISS) (helmBlock k.toNat) false) 11 k.toNat)) := by
  show execHeartbeatTimeout k s = _
  unfold execHeartbeatTimeout
  dsimp only
  rw [h2, h1]

theorem thermalStop_idle (s : State) (ht : ron s 0 BNC_STATUS_THERMSTOP = true) (hm : ron s (leadStk s) HLM_STATUS_THERMSTOP = false)
    (h : leadOf s ≠ none) (hi : ∀ i, i < 16 → berthState s i ≠ 1 ∧ berthState s i ≠ 2 ∧ (berthOf s i).step = .idle ∧ (berthOf s i).thermal = false) :
    exec .thermalStopEvent s = .next (orderlyStop (rset (countEvent s) (leadStk s) HLM_STATUS_THERMSTOP)) := by
  obtain ⟨s1, h1⟩ : ∃ x, x = rset (countEvent s) (leadStk s) HLM_STATUS_THERMSTOP := ⟨_, rfl⟩
  have ew : ∀ i, (∀ k, rget s1 k HLM_STATUS_LEAD i = rget s k HLM_STATUS_LEAD i) ∧ rget s1 (leadStk s) HLM_BERTH_STATE i = rget s (leadStk s) HLM_BERTH_STATE i := by
    intro i
    rw [h1]
    unfold countEvent
    constructor
    · intro k
      refine (rget_rput_other _ _ _ _ _ _ _ _ (by decide) (Or.inr (by decide))).trans (rget_rput_other _ _ _ _ _ _ _ _ (by decide) (Or.inl ?_))
      unfold regKey
      simp only [HLM_STATUS_LEAD, HLM_EVENT_EVENT]
      omega
    · refine (rget_rput_other _ _ _ _ _ _ _ _ (by decide) (Or.inl ?_)).trans (rget_rput_other _ _ _ _ _ _ _ _ (by decide) (Or.inl ?_))
      · rw [Ne, regKey_inj]
        simp only [HLM_STATUS_THERMSTOP, HLM_BERTH_STATE]
        omega
      · rw [Ne, regKey_inj]
        simp only [HLM_BERTH_STATE, HLM_EVENT_EVENT]
        omega
  have lead : leadOf s1 = leadOf s := by
    have : (fun k => ron s1 k HLM_STATUS_LEAD) = fun k => ron s k HLM_STATUS_LEAD := by
      funext k; exact ron_rget ((ew 0).1 k)
    unfold leadOf
    rw [this]
  have lk : leadStk s1 = leadStk s := by unfold leadStk; rw [lead]
  have bs : ∀ i, berthState s1 i = berthState s i := by
    intro i; unfold berthState; rw [lk]; exact (ew i).2
  have bo : ∀ i, berthOf s1 i = berthOf s i := by
    intro i; unfold berthOf; rw [show s1.serve = s.serve by rw [h1]; rfl]
  have fold : ∀ l : List Nat, (∀ i ∈ l, i < 16) → l.foldl thermalBerth s1 = s1 := by
    intro l
    induction l with
    | nil => intro _; rfl
    | cons a r ih =>
      intro hl
      have ha := hi a (hl a List.mem_cons_self)
      have : thermalBerth s1 a = s1 := by
        unfold thermalBerth
        rw [if_pos]
        rw [bs]; exact Or.inl ⟨ha.1, ha.2.1⟩
      rw [List.foldl_cons, this]
      exact ih fun i h => hl i (List.mem_cons_of_mem _ h)
  have e0 : exec .thermalStopEvent s = .next (thermalStop s) := by
    show execThermalStopEvent s = _
    unfold execThermalStopEvent
    rw [ht, hm]; rfl
  rw [e0]
  have e : thermalStop s = stopAfterLast ((List.range 16).foldl thermalBerth s1) := by
    unfold thermalStop
    rw [if_neg, ← h1]
    intro hc
    exact h (by simpa using hc)
  rw [e, fold _ (fun i hm => List.mem_range.mp hm), ← h1]
  have fin : ∀ l : List Nat, (∀ i ∈ l, i < 16) → l.foldl (fun s b => if (berthOf s b).thermal then finishBerth s b 2 else s) s1 = s1 := by
    intro l
    induction l with
    | nil => intro _; rfl
    | cons a r ih =>
      intro hl
      rw [List.foldl_cons, if_neg (by rw [bo, (hi a (hl a List.mem_cons_self)).2.2.2]; decide)]
      exact ih fun i h => hl i (List.mem_cons_of_mem _ h)
  unfold stopAfterLast
  rw [if_pos, fin _ (fun i hm => List.mem_range.mp hm)]
  unfold allStopped
  rw [Bool.and_eq_true]
  constructor
  · rw [lk]
    refine ron_true ?_
    rw [h1]
    exact rset_one _ _ _ (by decide) (by decide)
  · rw [List.all_eq_true]
    intro i him
    have hh := hi i (List.mem_range.mp him)
    rw [bs, bo, hh.2.2.1, Bool.and_eq_true]
    exact ⟨by simpa using hh.1, by decide⟩

theorem noticeTimeout_key (s s1 : State) (b : BitVec 4) (first : Word) (t0 : Nat) (hn : (berthOf s b.toNat).notice = some (first, t0))
    (h1 : s1 = elapseToTick s (t0 + 10000000)) :
    exec (.abandonNoticeTimeout b) s = (if s1.tick < t0 + 10000000 ∨ berthState s b.toNat ≠ 1 then .next s1
      else .next (disableBerth (putBerth s1 b.toNat { berthOf s1 b.toNat with notice := none }) b.toNat none)) := by
  show execAbandonNoticeTimeout b s = _
  unfold execAbandonNoticeTimeout
  dsimp only
  rw [hn, h1]

theorem only_snd (s : State) (v : SndSt) : changesOnly [.snd] s { s with snd := v } := by
  intro p hp
  cases p <;> first | rfl | exact absurd (by simp) hp

theorem startConversion_facts (s : State) :
    (startConversion s).regs = s.regs ∧ changesOnly [.snd] s (startConversion s) ∧ (startConversion s).snd.urgent = s.snd.urgent
    ∧ (s.snd.active ≠ none → startConversion s = s)
    ∧ (s.snd.active = none → (startConversion s).snd.active = nextConversion s)
    ∧ (startConversion s).snd.pass = s.snd.pass := by
  unfold startConversion
  cases ha : s.snd.active with
  | some b =>
    rw [if_pos (by rfl)]
    exact ⟨rfl, only_refl _ _, rfl, fun _ => rfl, fun h => (by cases h), rfl⟩
  | none =>
    unfold nextConversion
    cases hr : ron s 0 SND_STATUS_REF_RDY with
    | false =>
      rw [if_pos (by rfl), if_pos rfl]
      exact ⟨rfl, only_refl _ _, rfl, fun h => absurd rfl h, fun _ => ha, rfl⟩
    | true =>
      rw [if_neg (show ¬(((none : Option Bool).isSome || !true) = true) by decide), if_neg (show ¬(true = false) by decide)]
      by_cases hu : s.snd.urgent = []
      · have he : (!s.snd.urgent.isEmpty) = false := by rw [hu]; rfl
        rw [he, if_neg (show ¬(false = true) by decide), if_neg (show ¬(s.snd.urgent ≠ []) from fun h => h hu)]
        cases hs : ron s 0 SND_STATUS_SEQ_RUN with
        | true =>
          rw [if_pos rfl]
          exact ⟨rfl, only_snd _ _, rfl, fun h => absurd rfl h, fun _ => rfl, rfl⟩
        | false =>
          rw [if_neg (show ¬(false = true) by decide)]
          exact ⟨rfl, only_refl _ _, rfl, fun h => absurd rfl h, fun _ => ha, rfl⟩
      · have he : (!s.snd.urgent.isEmpty) = true := by simp [hu]
        rw [if_pos he, if_pos hu]
        exact ⟨rfl, only_snd _ _, rfl, fun h => absurd rfl h, fun _ => rfl, rfl⟩

theorem ron_of_regs {s t : State} (h : t.regs = s.regs) (k : Nat) (f : Fld) (i : Nat := 0) : ron t k f i = ron s k f i := by
  unfold ron; rw [rget_of_regs h k f i]

/-- A conversion of the sequence gives way to an urgent one: it is aborted and counted, or its result came in this cycle. -/
theorem giveWay_facts (s : State) : (giveWay s).snd.urgent = s.snd.urgent ∧ changesOnly [.regs, .snd] s (giveWay s)
    ∧ (s.snd.active ≠ some true → giveWay s = s)
    ∧ (s.snd.active = some true → (giveWay s).snd.active = none
        ∧ (giveWay s).regs = if s.snd.doneAt = some s.cyc then s.regs else (rbump s 0 SND_PREEMPT).regs) := by
  unfold giveWay
  by_cases ha : s.snd.active = some true
  · rw [if_neg (not_not_intro ha)]
    by_cases hd : s.snd.doneAt = some s.cyc
    · rw [if_pos hd]
      exact ⟨rfl, only_mono (only_snd _ _) (by decide), fun h => absurd ha h, fun _ => ⟨rfl, by rw [if_pos hd]; rfl⟩⟩
    · rw [if_neg hd]
      have e2 : abortConversion s = rbump (putActive s none) 0 SND_PREEMPT := by
        unfold abortConversion; rw [if_pos (by rw [ha]; rfl)]
      rw [e2]
      refine ⟨rfl, only_trans (only_mono (only_snd _ _) (by decide)) (only_mono (only_rput _ _ _ _ _) (by decide)), fun h => absurd ha h,
        fun _ => ⟨rfl, ?_⟩⟩
      rw [if_neg hd]; rfl
  · rw [if_pos ha]
    exact ⟨rfl, only_refl _ _, fun _ => rfl, fun h => absurd h ha⟩

/-- A request enters a queue with room. -/
theorem enqueue_facts (s : State) (ch : Nat) (fast : Bool) (h : s.snd.urgent.length < 4) :
    (enqueueUrgent s ch fast).snd.urgent = s.snd.urgent ++ [(ch, fast)]
    ∧ changesOnly [.regs, .snd] s (enqueueUrgent s ch fast)
    ∧ (s.snd.active = some true → (enqueueUrgent s ch fast).regs
            = (if s.snd.doneAt = some s.cyc then s.regs else (rbump s 0 SND_PREEMPT).regs)
        ∧ (enqueueUrgent s ch fast).snd.active = if ron s 0 SND_STATUS_REF_RDY then some false else none)
    ∧ (s.snd.active ≠ some true → (enqueueUrgent s ch fast).regs = s.regs)
    ∧ (s.snd.active = some false → (enqueueUrgent s ch fast).snd.active = some false)
    ∧ (s.snd.active = none → (enqueueUrgent s ch fast).snd.active = if ron s 0 SND_STATUS_REF_RDY then some false else none) := by
  obtain ⟨s1, h1⟩ : ∃ x, x = putUrgent s (s.snd.urgent ++ [(ch, fast)]) := ⟨_, rfl⟩
  have u1 : s1.snd.urgent = s.snd.urgent ++ [(ch, fast)] := by rw [h1]; rfl
  have a1 : s1.snd.active = s.snd.active := by rw [h1]; rfl
  have r1 : s1.regs = s.regs := by rw [h1]; rfl
  have d1 : s1.snd.doneAt = s.snd.doneAt ∧ s1.cyc = s.cyc := by rw [h1]; exact ⟨rfl, rfl⟩
  have b1 : (rbump s1 0 SND_PREEMPT).regs = (rbump s 0 SND_PREEMPT).regs := by rw [h1]; rfl
  have o1 : changesOnly [.snd] s s1 := by rw [h1]; exact only_snd _ _
  have e : enqueueUrgent s ch fast = startConversion (giveWay s1) := by
    unfold enqueueUrgent
    rw [if_neg (by omega), h1]
  have ne1 : s1.snd.urgent ≠ [] := by rw [u1]; simp
  rw [e]
  clear h1 e
  obtain ⟨g1, g2, g3, g4⟩ := giveWay_facts s1
  rw [a1, d1.1, d1.2, r1, b1] at g4
  rw [a1] at g3
  obtain ⟨s2, h2⟩ : ∃ x, x = giveWay s1 := ⟨_, rfl⟩
  rw [← h2] at g1 g2 g3 g4 ⊢
  obtain ⟨f1, f2, f3, f4, f5, f6⟩ := startConversion_facts s2
  by_cases ha : s.snd.active = some true
  · obtain ⟨a2, r2⟩ := g4 ha
    have ref : ron s2 0 SND_STATUS_REF_RDY = ron s 0 SND_STATUS_REF_RDY := by
      by_cases hd : s.snd.doneAt = some s.cyc
      · rw [if_pos hd] at r2; exact ron_of_regs r2 _ _
      · rw [if_neg hd] at r2
        rw [ron_of_regs r2]
        exact ron_rget (rbump_ne _ _ _ _ _ (by decide) (by decide))
    refine ⟨f3.trans (g1.trans u1), only_trans (only_mono o1 (by decide)) (only_trans g2 (only_mono f2 (by decide))), fun _ => ⟨f1.trans r2, ?_⟩, fun h => absurd ha h, fun h => (by rw [ha] at h; cases h), fun h => (by rw [ha] at h; cases h)⟩
    rw [f5 a2]
    unfold nextConversion
    rw [ref]
    cases ron s 0 SND_STATUS_REF_RDY with
    | false => rw [if_pos rfl]; rfl
    | true => rw [if_neg (by decide), if_pos (by rw [g1]; exact ne1)]; rfl
  · have e2 := g3 ha
    rw [e2] at f1 f2 f3 f4 f5 f6 ⊢
    refine ⟨f3.trans u1, only_trans (only_mono o1 (by decide)) (only_mono f2 (by decide)), fun h => absurd h ha, fun _ => f1.trans r1, fun h => ?_, fun h => ?_⟩
    · rw [f4 (by rw [a1, h]; simp), a1, h]
    · rw [f5 (by rw [a1, h])]
      unfold nextConversion
      rw [ron_of_regs r1]
      cases ron s 0 SND_STATUS_REF_RDY with
      | false => rw [if_pos rfl]; rfl
      | true => rw [if_neg (by decide), if_pos ne1]; rfl

theorem rget_rput_idx_ne (s : State) (k : Nat) (f g : Fld) (v i : Nat) (hg : g.fits = true) (h : f.off + f.stride * i ≠ g.off + g.stride * 0 ∨ f.apart g = true) :
    rget (rput s k g v) k f i = rget s k f i := by
  refine rget_rput_other _ _ _ _ _ _ _ _ hg ?_
  rcases h with h | h
  · left; rw [Ne, regKey_inj]; exact h
  · exact Or.inr h

theorem takeChannel_none (s : State) (ch : Nat) (code : BitVec 12) (h : ¬taken_ ch) : takeChannel s ch code = s := by
  unfold taken_ at h
  unfold takeChannel
  dsimp only
  split
  · rfl
  · rw [if_neg (by omega), if_neg (by omega), if_neg (by omega), if_neg (by omega), if_neg (by omega), if_neg (by omega)]

theorem sameBlock_refl (b : UnitRef) : sameBlock b b = true := by
  unfold sameBlock
  simp

theorem brstStatus_get (s : State) : rget (brstStatus s) 0 BNC_BRST_STATUS_BUSY = bit (s.rst.blocks.any fun r => r.brst)
    ∧ rget (brstStatus s) 0 BNC_BRST_STATUS_QUIESCE = bit (s.rst.blocks.any fun r => r.brst && r.quiesce) := by
  unfold brstStatus
  constructor
  · rw [rget_rput_ne _ _ _ _ _ (by decide) (by decide)]
    exact rget_rput_same1 _ _ _ _ (by decide) (bit_lt _)
  · exact rget_rput_same1 _ _ _ _ (by decide) (bit_lt _)

theorem lastBlock_blocks (s : State) (b : UnitRef) (late : Bool) : (lastBlock s b late).rst.blocks = s.rst.blocks := by
  have key : ∀ w, (recordCause s w).rst.blocks = s.rst.blocks := fun w => by unfold recordCause; split <;> rfl
  exact key _

theorem assertBlock_blocks (s : State) (r : BlockRst) (late : Bool) :
    (assertBlock s r late).rst.blocks = s.rst.blocks.map (fun x => if x = r then { r with quiesce := false, asserted := true, at_ := s.tick } else x) := by
  obtain ⟨s1, h1⟩ : ∃ x, x = putReset s r { r with quiesce := false, asserted := true, at_ := s.tick } := ⟨_, rfl⟩
  have e : assertBlock s r late = brstStatus (lastBlock (assertEffect s1 r.block) r.block late) := by rw [h1]; rfl
  obtain ⟨s2, h2⟩ : ∃ x, x = assertEffect s1 r.block := ⟨_, rfl⟩
  have o2 : s2.rst = s1.rst := by
    rw [h2]; exact only_of_frame (m := [.regs, .tiles, .dram, .net, .reports, .free, .stk, .vil, .fleet, .log, .pwr, .bnc]) (assertEffect_frame s1 _ (.refl _ _) (by decide)) .rst (by decide)
  rw [e, ← h2]
  show (lastBlock s2 r.block late).rst.blocks = _
  rw [lastBlock_blocks, o2, h1]; rfl

theorem find_map_block (l : List BlockRst) (r r1 : BlockRst) (b : UnitRef) (hb : r1.block = r.block) (h : (l.find? fun x => sameBlock x.block b).isSome = true) :
    ((l.map fun x => if x = r then r1 else x).find? fun x => sameBlock x.block b).isSome = true := by
  rw [List.find?_isSome] at h ⊢
  obtain ⟨x, hx, hs⟩ := h
  refine ⟨if x = r then r1 else x, List.mem_map.mpr ⟨x, hx, rfl⟩, ?_⟩
  split
  · rename_i he; rw [hb, ← he]; exact hs
  · exact hs

theorem releaseBlock_blocks (s : State) (r : BlockRst) : (releaseBlock s r).rst.blocks = s.rst.blocks.erase r := by
  obtain ⟨s1, h1⟩ : ∃ x : State, x = { s with rst := { s.rst with blocks := s.rst.blocks.erase r } } := ⟨_, rfl⟩
  obtain ⟨s2, h2⟩ : ∃ x, x = releaseEffect s1 r.block := ⟨_, rfl⟩
  have e : releaseBlock s r = brstStatus s2 := by rw [h2, h1]; rfl
  have o2 : s2.rst = s1.rst := by
    rw [h2]; exact only_of_frame (m := [.regs, .tiles, .stk, .vil]) (releaseEffect_frame s1 _ (.refl _ _) (by decide)) .rst (by decide)
  rw [e]
  show s2.rst.blocks = _
  rw [o2, h1]

theorem startBlock_facts (s : State) (b : UnitRef) (h : resetOf s b = none) :
    rget (startBlock s b true) 0 BNC_BRST_STATUS_BUSY = 1 ∧ (resetOf (startBlock s b true) b).isSome = true
    ∧ (blockInside s b = true → (startBlock s b true).rst.blocks = s.rst.blocks ++ [⟨b, true, false, true, s.tick⟩]
        ∧ rget (startBlock s b true) 0 BNC_BRST_STATUS_QUIESCE = 1) := by
  obtain ⟨q, hq⟩ : ∃ q, q = blockInside s b := ⟨_, rfl⟩
  obtain ⟨r, hr⟩ : ∃ r : BlockRst, r = ⟨b, q, false, true, s.tick⟩ := ⟨_, rfl⟩
  obtain ⟨s1, h1⟩ : ∃ x : State, x = { s with rst := { s.rst with blocks := s.rst.blocks ++ [r] } } := ⟨_, rfl⟩
  obtain ⟨s2, h2⟩ : ∃ x, x = (match blockTile s b with
      | some p => changeSite s1 b.stack.toNat p.2 fun (t : Tile) =>
          ({ t with wrapped := true, engs := (t.engs.map fun (g : Eng) => { g with st := 0 }) } : Tile)
      | none => s1) := ⟨_, rfl⟩
  have e : startBlock s b true = if q = true then brstStatus s2 else assertBlock s2 r false := by
    unfold startBlock
    rw [if_neg (by rw [h]; decide)]
    dsimp only
    rw [← hq, ← hr, ← h1]
    exact congrArg (fun x => if q = true then brstStatus x else assertBlock x r false) h2.symm
  have o2 : s2.rst = s1.rst := by
    rw [h2]
    split
    · refine only_of_frame (m := [.tiles, .reports, .log]) (changeSite_frame s1 _ _ _ ?_ (.refl _ _) (by decide)) .rst (by decide)
      intro t ht
      unfold tileSafe at ht ⊢
      dsimp only
      rw [List.length_map]
      exact ht
    · rfl
  have b2 : s2.rst.blocks = s.rst.blocks ++ [r] := by rw [o2, h1]
  have rb : r.block = b := by rw [hr]
  have rbr : r.brst = true := by rw [hr]
  have has : (s2.rst.blocks.find? fun x => sameBlock x.block b).isSome = true := by
    rw [List.find?_isSome, b2]
    exact ⟨r, by simp, by rw [rb]; exact sameBlock_refl b⟩
  have any : (s2.rst.blocks.any fun r => r.brst) = true := by
    rw [b2, List.any_eq_true]; exact ⟨r, by simp, rbr⟩
  rw [e, ← hq]
  clear e h2 hq
  cases q with
  | true =>
    rw [if_pos rfl]
    refine ⟨?_, has, fun _ => ⟨?_, ?_⟩⟩
    · rw [(brstStatus_get s2).1, any]; rfl
    · show s2.rst.blocks = _; rw [b2, hr]
    · rw [(brstStatus_get s2).2, show (s2.rst.blocks.any fun r => r.brst && r.quiesce) = true by
        rw [b2, List.any_eq_true]; exact ⟨r, by simp, by rw [hr]; rfl⟩]; rfl
  | false =>
    rw [if_neg (by decide)]
    have bl := assertBlock_blocks s2 r false
    refine ⟨?_, ?_, fun h => (by cases h)⟩
    · have hb : rget (assertBlock s2 r false) 0 BNC_BRST_STATUS_BUSY = bit ((assertBlock s2 r false).rst.blocks.any fun r => r.brst) :=
        (brstStatus_get _).1
      have a2 : ((assertBlock s2 r false).rst.blocks.any fun r => r.brst) = true := by
        rw [bl, List.any_eq_true]
        refine ⟨_, List.mem_map.mpr ⟨r, by rw [b2]; simp, rfl⟩, ?_⟩
        rw [if_pos rfl]; exact rbr
      rw [hb, a2]
      rfl
    · unfold resetOf
      rw [bl]
      exact find_map_block _ r _ b rfl has

theorem only_rst (s : State) (v : ResetSt) : changesOnly [.rst] s { s with rst := v } := by
  intro p hp
  cases p <;> first | rfl | exact absurd (by simp) hp

theorem only_lsr (s : State) (v : LodestarSt) : changesOnly [.lsr] s { s with lsr := v } := by
  intro p hp
  cases p <;> first | rfl | exact absurd (by simp) hp

theorem holds_le (s : State) (n : Nat) (h : preconditionHolds s n = true) : n ≤ 7 := by
  unfold preconditionHolds at h
  split at h <;> first | omega | cases h

theorem goes_facts (s : State) (n : Nat) (h : n < 16) :
    rget (toStep s n) 0 BNC_BRINGUP_STEP = n ∧ regsBut [(0, BNC_BRINGUP_STEP.off)] s (toStep s n) ∧ changesOnly [.regs] s (toStep s n) :=
  ⟨rget_rput_same1 _ _ _ _ (by decide) h, regsBut_rputm _ _ _ _ _ (by decide), only_rput _ _ _ _ _⟩

theorem releaseOrder_facts (s : State) (n : Nat) (hn : n ≤ 7) (h1 : 1 ≤ n) :
    (n ≠ 6 → (releaseOrder s n).rst.domains = n ∧ (releaseOrder s n).rst.stacks6 = 0)
    ∧ (n = 6 → s.rst.domains = 5 → s.rst.stacks6 < 7 → (releaseOrder s n).rst.domains = 5 ∧ (releaseOrder s n).rst.stacks6 = s.rst.stacks6 + 1)
    ∧ (n = 6 → s.rst.stacks6 = 7 → (releaseOrder s n).rst.domains = 6 ∧ (releaseOrder s n).rst.stacks6 = 0)
    ∧ (n = 7 → ∀ d ∈ (releaseOrder s n).stk, d.beat = (releaseOrder s n).tick)
    ∧ (n = 1 → (releaseOrder s n).lsr.dikCopy = 0 ∧ (releaseOrder s n).lsr.drawn = s.lsr.drawn + 8)
    ∧ (3 ≤ n → n < 6 → changesOnly [.rst, .lsr] s (releaseOrder s n)) := by
  have six : (n = 6 → s.rst.domains = 5 → s.rst.stacks6 < 7 → (releaseOrder s n).rst.domains = 5 ∧ (releaseOrder s n).rst.stacks6 = s.rst.stacks6 + 1)
    ∧ (n = 6 → s.rst.stacks6 = 7 → (releaseOrder s n).rst.domains = 6 ∧ (releaseOrder s n).rst.stacks6 = 0) := by
    obtain ⟨s1, e1⟩ : ∃ x, x = freeTiles { s with rst := { s.rst with stacks6 := s.rst.stacks6 + 1 } } s.rst.stacks6 := ⟨_, rfl⟩
    have r1 : s1.rst = { s.rst with stacks6 := s.rst.stacks6 + 1 } := by
      rw [e1]
      exact only_of_frame (m := [.tiles, .stk]) (freeTiles_frame { s with rst := { s.rst with stacks6 := s.rst.stacks6 + 1 } } s.rst.stacks6 (.refl _ _) (by decide)) .rst (by decide)
    have e : releaseStack s = if 8 ≤ s1.rst.stacks6 then orderUp s1 6 else s1 := by rw [e1]; rfl
    constructor
    · rintro rfl hd hs
      show (releaseStack s).rst.domains = 5 ∧ (releaseStack s).rst.stacks6 = _
      rw [e, if_neg (by rw [r1]; show ¬ 8 ≤ s.rst.stacks6 + 1; omega), r1]
      exact ⟨hd, rfl⟩
    · rintro rfl hs
      show (releaseStack s).rst.domains = 6 ∧ (releaseStack s).rst.stacks6 = _
      rw [e, if_pos (by rw [r1]; show 8 ≤ s.rst.stacks6 + 1; omega)]
      exact ⟨rfl, rfl⟩
  refine ⟨fun h => ?_, six.1, six.2, ?_, ?_, fun h3 h6 => ?_⟩
  · have hl : ∀ x, (drawNonce (clearSecrets x)).rst = x.rst := fun x =>
      (drawNonce_only _ .rst (by decide)).trans (clearSecrets_only _ .rst (by decide))
    rcases (by omega : n = 1 ∨ n = 2 ∨ n = 3 ∨ n = 4 ∨ n = 5 ∨ n = 7) with rfl | rfl | rfl | rfl | rfl | rfl
    · show (drawNonce (clearSecrets (orderUp s 1))).rst.domains = _ ∧ (drawNonce (clearSecrets (orderUp s 1))).rst.stacks6 = _
      rw [hl]; exact ⟨rfl, rfl⟩
    all_goals exact ⟨rfl, rfl⟩
  · rintro rfl d hd
    have : d ∈ (orderUp s 7).stk.map (fun d => { d with beat := (orderUp s 7).tick }) := hd
    obtain ⟨e, -, rfl⟩ := List.mem_map.mp this
    rfl
  · rintro rfl
    obtain ⟨x, hx⟩ : ∃ x, x = clearSecrets (orderUp s 1) := ⟨_, rfl⟩
    have e : releaseOrder s 1 = drawNonce x := by rw [hx]; rfl
    have lx : x.lsr = s.lsr.cleared := by rw [hx, clearSecrets_lsr]; rfl
    rw [e]
    have d : (drawNonce x).lsr.dikCopy = x.lsr.dikCopy ∧ (drawNonce x).lsr.drawn = x.lsr.drawn + 8 := by
      unfold drawNonce
      dsimp only
      rw [putWords_lsr]
      exact ⟨rfl, rfl⟩
    rw [d.1, d.2, lx]
    exact ⟨rfl, rfl⟩
  · rcases (by omega : n = 3 ∨ n = 4 ∨ n = 5) with rfl | rfl | rfl
    · exact only_mono (only_rst s _) (by decide)
    · exact only_trans (t := { s with lsr := { s.lsr with linkFw := s.lsr.inForceB } }) (only_mono (only_lsr _ _) (by decide)) (only_mono (only_rst _ _) (by decide))
    · exact only_mono (only_rst s _) (by decide)

theorem hottest_facts (s : State) : ∃ n, n < 48 ∧ hottest s = ((sensorAt s n).filtered, n) ∧ ∀ i, i < 48 → (sensorAt s i).filtered ≤ (sensorAt s n).filtered := by
  have key : ∀ (l : List Nat) (n : Nat), (∀ i ∈ l, i < 48) → n < 48 →
      ∃ m, m < 48 ∧ l.foldl (fun (m : Int × Nat) n => if m.1 < (sensorAt s n).filtered then ((sensorAt s n).filtered, n) else m) ((sensorAt s n).filtered, n)
        = ((sensorAt s m).filtered, m) ∧ (sensorAt s n).filtered ≤ (sensorAt s m).filtered ∧ ∀ i ∈ l, (sensorAt s i).filtered ≤ (sensorAt s m).filtered := by
    intro l
    induction l with
    | nil => intro n _ hn; exact ⟨n, hn, rfl, Int.le_refl _, fun i hi => by cases hi⟩
    | cons a r ih =>
      intro n hl hn
      rw [List.foldl_cons]
      by_cases h : (sensorAt s n).filtered < (sensorAt s a).filtered
      · rw [if_pos h]
        obtain ⟨m, h1, h2, h3, h4⟩ := ih a (fun i hi => hl i (List.mem_cons_of_mem _ hi)) (hl a List.mem_cons_self)
        refine ⟨m, h1, h2, by omega, fun i hi => ?_⟩
        rcases List.mem_cons.mp hi with rfl | hi
        · exact h3
        · exact h4 i hi
      · rw [if_neg h]
        obtain ⟨m, h1, h2, h3, h4⟩ := ih n (fun i hi => hl i (List.mem_cons_of_mem _ hi)) hn
        refine ⟨m, h1, h2, h3, fun i hi => ?_⟩
        rcases List.mem_cons.mp hi with rfl | hi
        · omega
        · exact h4 i hi
  obtain ⟨m, h1, h2, h3, h4⟩ := key (List.range 48) 0 (fun i hi => List.mem_range.mp hi) (by decide)
  exact ⟨m, h1, h2, fun i hi => h4 i (List.mem_range.mpr hi)⟩

theorem unsigned_lt (w : Nat) (v : Int) : unsigned w v < 2 ^ w := by
  unfold unsigned
  have h1 : (0 : Int) < ((2 ^ w : Nat) : Int) := by exact_mod_cast Nat.two_pow_pos w
  have := Int.emod_lt_of_pos v h1
  have h2 := Int.emod_nonneg v (by omega : ((2 ^ w : Nat) : Int) ≠ 0)
  omega

theorem alert_bit (s : State) (i : Nat) (hi : i < 7) : (rget (alert s i) 0 BNC_ALERT_ALERTS).testBit i = true := by
  unfold alert
  rw [rget_rput_mod _ _ _ _ (by decide)]
  have hx : rget s 0 BNC_ALERT_ALERTS < 128 := rget_lt s 0 BNC_ALERT_ALERTS 0
  have hw : BNC_ALERT_ALERTS.width = 7 := rfl
  rw [hw]
  have hb := bitsOf_putBits (rget s 0 BNC_ALERT_ALERTS) i 1 1
  unfold bitsOf at hb
  rw [Nat.testBit_mod_two_pow, Nat.testBit_eq_decide_div_mod_eq]
  simp only [hi, decide_true, Bool.true_and]
  rw [show (2 : Nat) ^ 1 = 2 from rfl] at hb
  rw [decide_eq_true_iff]; omega

theorem decideThrottle_facts (s : State) : ThrottleDecided s (decideThrottle s) ∧ changesOnly [.regs, .bnc] s (decideThrottle s)
    ∧ regsBut [(0, 0x12000C)] s (decideThrottle s)
    ∧ rget (decideThrottle s) 0 BNC_THROTTLE_REQ = rget s 0 BNC_THROTTLE_REQ
    ∧ rget (decideThrottle s) 0 BNC_THROTTLE_HOSTQ = rget s 0 BNC_THROTTLE_HOSTQ := by
  obtain ⟨q, hq⟩ : ∃ q, q = rget s 0 BNC_THROTTLE_REQ := ⟨_, rfl⟩
  obtain ⟨h, hh⟩ : ∃ h, h = min 100 (rget s 0 BNC_THROTTLE_HOSTQ) := ⟨_, rfl⟩
  have q7 : q < 2 ^ 7 := by rw [hq]; exact rget_lt s 0 BNC_THROTTLE_REQ 0
  have h7 : h < 2 ^ 7 := by rw [hh]; omega
  have e : decideThrottle s = if q ≤ h then rput (rput (rput s 0 BNC_THROTTLE_APPLIED h) 0 BNC_THROTTLE_GRACE 0) 0 BNC_THROTTLE_ENFORCED 0
      else if ron s 0 BNC_THROTTLE_ENFORCED then rput s 0 BNC_THROTTLE_APPLIED q
      else if ron s 0 BNC_THROTTLE_GRACE then rput s 0 BNC_THROTTLE_APPLIED h
      else { rput (rset s 0 BNC_THROTTLE_GRACE) 0 BNC_THROTTLE_APPLIED h with bnc := { s.bnc with graceAt := s.cyc } } := by
    rw [hq, hh]; rfl
  unfold ThrottleDecided
  dsimp only
  rw [← hq, ← hh, e]
  clear e
  by_cases c1 : q ≤ h
  · rw [if_pos c1]
    refine ⟨⟨fun _ => ⟨?_, ?_, ?_, rfl⟩, fun c => absurd c (by omega), fun c => absurd c (by omega)⟩, only_trans (only_trans (only_mono (only_rput _ _ _ _ _) (by decide)) (only_mono (only_rput _ _ _ _ _) (by decide))) (only_mono (only_rput _ _ _ _ _) (by decide)),
      regsBut_trans (regsBut_trans (regsBut_rputm _ _ _ _ _ (by decide)) (regsBut_rputm _ _ _ _ _ (by decide))) (regsBut_rputm _ _ _ _ _ (by decide)), ?_, ?_⟩
    · rw [rget_rput_ne _ _ _ _ _ (by decide) (by decide), rget_rput_ne _ _ _ _ _ (by decide) (by decide)]
      exact rget_rput_same1 _ _ _ _ (by decide) h7
    · rw [rget_rput_ne _ _ _ _ _ (by decide) (by decide), rget_rput_mod _ _ _ _ (by decide), Nat.zero_mod]
    · rw [rget_rput_mod _ _ _ _ (by decide), Nat.zero_mod]
    · rw [rget_rput_ne _ _ _ _ _ (by decide) (by decide), rget_rput_ne _ _ _ _ _ (by decide) (by decide), rget_rput_ne _ _ _ _ _ (by decide) (by decide), hq]
    · rw [rget_rput_ne _ _ _ _ _ (by decide) (by decide), rget_rput_ne _ _ _ _ _ (by decide) (by decide), rget_rput_ne _ _ _ _ _ (by decide) (by decide)]
  · rw [if_neg c1]
    cases c2 : ron s 0 BNC_THROTTLE_ENFORCED with
    | true =>
      rw [if_pos rfl]
      refine ⟨⟨fun c => absurd c c1, fun _ _ => ⟨rget_rput_same1 _ _ _ _ (by decide) q7, ?_, rfl⟩, fun _ c => (by cases c)⟩, only_mono (only_rput _ _ _ _ _) (by decide), regsBut_rputm _ _ _ _ _ (by decide), ?_, ?_⟩
      · rw [rget_rput_ne _ _ _ _ _ (by decide) (by decide)]; exact by simpa [ron] using c2
      · rw [rget_rput_ne _ _ _ _ _ (by decide) (by decide), hq]
      · rw [rget_rput_ne _ _ _ _ _ (by decide) (by decide)]
    | false =>
      rw [if_neg (show ¬(false = true) by decide)]
      have en : rget s 0 BNC_THROTTLE_ENFORCED = 0 := by
        have := rget_lt s 0 BNC_THROTTLE_ENFORCED 0
        have hw : BNC_THROTTLE_ENFORCED.width = 1 := rfl
        rw [hw] at this
        unfold ron at c2
        have := of_decide_eq_false c2
        omega
      cases c3 : ron s 0 BNC_THROTTLE_GRACE with
      | true =>
        rw [if_pos rfl]
        refine ⟨⟨fun c => absurd c c1, fun _ c => (by cases c), fun _ _ => ⟨rget_rput_same1 _ _ _ _ (by decide) h7, ?_, ?_, rfl⟩⟩, only_mono (only_rput _ _ _ _ _) (by decide), regsBut_rputm _ _ _ _ _ (by decide), ?_, ?_⟩
        · rw [rget_rput_ne _ _ _ _ _ (by decide) (by decide)]; exact by simpa [ron] using c3
        · rw [rget_rput_ne _ _ _ _ _ (by decide) (by decide)]; exact en
        · rw [rget_rput_ne _ _ _ _ _ (by decide) (by decide), hq]
        · rw [rget_rput_ne _ _ _ _ _ (by decide) (by decide)]
      | false =>
        rw [if_neg (show ¬(false = true) by decide)]
        obtain ⟨s1, h1⟩ : ∃ x, x = rput (rset s 0 BNC_THROTTLE_GRACE) 0 BNC_THROTTLE_APPLIED h := ⟨_, rfl⟩
        rw [← h1]
        have g : ∀ f : Fld, rget ({ s1 with bnc := { s.bnc with graceAt := s.cyc } } : State) 0 f = rget s1 0 f := fun _ => rfl
        refine ⟨⟨fun c => absurd c c1, fun _ c => (by cases c), fun _ _ => ⟨?_, ?_, ?_, rfl⟩⟩, ?_, ?_, ?_, ?_⟩
        · rw [g, h1]; exact rget_rput_same1 _ _ _ _ (by decide) h7
        · rw [g, h1, rget_rput_ne _ _ _ _ _ (by decide) (by decide)]; exact rset_one _ _ _ (by decide) (by decide)
        · rw [g, h1, rget_rput_ne _ _ _ _ _ (by decide) (by decide), rset_ne _ _ _ _ (by decide) (by decide)]; exact en
        · refine only_trans (t := s1) (by rw [h1]; exact only_trans (only_mono (only_rput _ _ _ _ _) (by decide)) (only_mono (only_rput _ _ _ _ _) (by decide))) (only_mono (only_bnc _ _) (by decide))
        · refine regsBut_trans (t := s1) (by rw [h1]; exact regsBut_trans (regsBut_rputm _ _ _ _ _ (by decide)) (regsBut_rputm _ _ _ _ _ (by decide))) (regsBut_of_regs rfl _)
        · rw [g, h1, rget_rput_ne _ _ _ _ _ (by decide) (by decide), rset_ne _ _ _ _ (by decide) (by decide), hq]
        · rw [g, h1, rget_rput_ne _ _ _ _ _ (by decide) (by decide), rset_ne _ _ _ _ (by decide) (by decide)]

theorem bearing_long (s : State) (kept : Bool) (f : State → State) (q : Byte × BitVec 24 × Word) (h1 : portRuns s = true) (h2 : s.bnc.long = some q) :
    bearing s kept f = replyBusy s q.1 := by
  unfold bearing
  rw [h1, h2]; rfl

theorem bearing_rec (s : State) (f : State → State) (h1 : portRuns s = true) (h2 : s.bnc.long = none)
    (h3 : ron s 0 LSR_STATUS_RECOVERY = true) : bearing s false f = reply s 3 0 := by
  unfold bearing
  rw [h1, h2, h3]; rfl

theorem bearing_kept (s : State) (f : State → State) (h1 : portRuns s = true) (h2 : s.bnc.long = none) : bearing s true f = f s := by
  unfold bearing
  rw [h1, h2]
  cases ron s 0 LSR_STATUS_RECOVERY <;> rfl

theorem only_free (s : State) (n : Nat) : changesOnly [.free] s { s with free := n } := by
  intro p hp
  cases p <;> first | rfl | exact absurd (by simp) hp

theorem replyBusy_facts (s : State) (op : Byte) :
    ∃ p, p ≤ 100 ∧ (replyBusy s op).bnc.replies = s.bnc.replies ++ [⟨1, BitVec.ofNat 32 (op.toNat + 256 * p)⟩]
      ∧ rget (replyBusy s op) 0 BNC_BBUSY = (rget s 0 BNC_BBUSY + 1) % 2 ^ 32
      ∧ regsBut [(0, BNC_BBUSY.off)] s (replyBusy s op) ∧ changesOnly [.regs, .free, .bnc] s (replyBusy s op) := by
  obtain ⟨s1, h1⟩ : ∃ x : State, x = { s with free := s.free + 1 } := ⟨_, rfl⟩
  obtain ⟨s2, h2⟩ : ∃ x, x = rbump s1 0 BNC_BBUSY := ⟨_, rfl⟩
  have e : replyBusy s op = reply s2 1 (BitVec.ofNat 32 (op.toNat + 256 * ((Config.freeWord s.free).toNat % 101))) := by rw [h2, h1]; rfl
  refine ⟨(Config.freeWord s.free).toNat % 101, by omega, ?_, ?_, ?_, ?_⟩
  · rw [e]; show s2.bnc.replies ++ _ = _; rw [h2]; show s1.bnc.replies ++ _ = _; rw [h1]
  · rw [e]; show rget s2 0 _ = _; rw [h2, rbump_same _ _ _ _ (by decide), h1]; rfl
  · rw [e]; refine regsBut_trans (t := s2) ?_ (regsBut_of_regs rfl _)
    rw [h2]; exact regsBut_trans (regsBut_of_regs (by rw [h1]) _) (regsBut_rputm _ _ _ _ _ (by decide))
  · rw [e]
    refine only_trans (t := s1) (by rw [h1]; exact only_mono (only_free _ _) (by decide)) (only_trans (t := s2) (by rw [h2]; exact only_mono (only_rput _ _ _ _ _) (by decide)) (only_mono (only_reply _ _ _) (by decide)))

theorem startLong_facts (s : State) (op : Byte) (a : BearingArg) (out : Option Nat) :
    (startLong s op a out).bnc.replies = s.bnc.replies ++ [⟨0, 0⟩] ∧ (startLong s op a out).bnc.long = some (op, a.addr, a.data)
    ∧ rget (startLong s op a out) 0 BNC_STATUS_LONG_BUSY = 1 ∧ (startLong s op a out).lsr = s.lsr
    ∧ (startLong s op a out).bnc.longOut = out ∧ changesOnly [.regs, .bnc] s (startLong s op a out) := by
  obtain ⟨s1, h1⟩ : ∃ x, x = rset (reply s 0 0) 0 BNC_STATUS_LONG_BUSY := ⟨_, rfl⟩
  have e : startLong s op a out = { s1 with bnc := { s1.bnc with long := some (op, a.addr, a.data), longOut := out } } := by rw [h1]; rfl
  rw [e]
  refine ⟨?_, rfl, ?_, ?_, rfl, ?_⟩
  · show s1.bnc.replies = _; rw [h1]; rfl
  · show rget s1 0 _ = 1; rw [h1]; exact rset_one _ _ _ (by decide) (by decide)
  · show s1.lsr = _; rw [h1]; rfl
  · refine only_trans (t := s1) (by rw [h1]; exact only_trans (only_mono (only_reply _ _ _) (by decide)) (only_mono (only_rput _ _ _ _ _) (by decide))) (only_mono (only_bnc _ _) (by decide))

theorem startFuses_facts (s x : State) (op : Byte) (a : BearingArg) (n : Nat) (hx : changesOnly [.regs, .lsr] s x)
    (hb : ron s 0 LSR_STATUS_BUSY = false) :
    Accepted s (startFuses s op a (x, n)) op a ∧ (startFuses s op a (x, n)).bnc.longOut = some n := by
  obtain ⟨z, hz⟩ : ∃ z : State, z = rset x 0 LSR_STATUS_BUSY := ⟨_, rfl⟩
  have hx : changesOnly [.regs, .lsr] s z := by rw [hz]; exact only_trans hx (only_mono (only_rput _ _ _ _ _) (by decide))
  obtain ⟨y, hy⟩ : ∃ y : State, y = { z with lsr := { z.lsr with fuses := s.lsr.fuses, burning := some z.lsr.fuses } } := ⟨_, rfl⟩
  have e : startFuses s op a (x, n) = startLong y op a (some n) := by unfold startFuses; rw [hb, hy, hz]; rfl
  obtain ⟨a1, a2, a3, a4, a5, a6⟩ := startLong_facts y op a (some n)
  have yb : y.bnc = s.bnc := by rw [hy]; exact hx .bnc (by decide)
  rw [e]
  refine ⟨⟨?_, a2, a3, ?_, ?_⟩, a5⟩
  · rw [a1, yb]
  · rw [a4, hy]
  · refine only_trans (only_mono hx (by decide)) (only_trans (t := y) (by rw [hy]; exact only_mono (only_lsr _ _) (by decide)) (only_mono a6 (by decide)))

theorem lsrAction_run (s : State) (f : State → State) (h : islandUp s = true) (hb : ron s 0 LSR_STATUS_BUSY = false) : lsrAction s f = f s := by
  unfold lsrAction
  rw [h, hb]; rfl

theorem putWords_rword (s : State) (off : Nat) (ws : List Word) (a : Nat) (h : ∀ i, i < ws.length → a ≠ off + 4 * i) :
    rword (putWords s off ws) 0 a = rword s 0 a := by
  unfold putWords
  have key : ∀ (l : List (Word × Nat)) (s : State), (∀ q ∈ l, a ≠ off + 4 * q.2) →
      rword (l.foldl (fun s q => setRword s 0 (off + 4 * q.2) q.1) s) 0 a = rword s 0 a := by
    intro l
    induction l with
    | nil => intro s _; rfl
    | cons b r ih =>
      intro s hh
      rw [List.foldl_cons, ih _ (fun q hq => hh q (List.mem_cons_of_mem _ hq)), rword_setRword, if_neg]
      rw [regKey_inj]
      exact hh b List.mem_cons_self
  refine key _ _ fun q hq => h _ ?_
  have := List.snd_lt_of_mem_zipIdx hq
  omega

theorem putWords_zero (s : State) (off n : Nat) (i : Nat) (hi : i < n) :
    rword (putWords s off (List.replicate n 0)) 0 (off + 4 * i) = 0 := by
  unfold putWords
  have key : ∀ (l : List (Word × Nat)) (s : State), (∀ q ∈ l, q.1 = 0) → (rword s 0 (off + 4 * i) = 0 ∨ ∃ q ∈ l, q.2 = i) →
      rword (l.foldl (fun s q => setRword s 0 (off + 4 * q.2) q.1) s) 0 (off + 4 * i) = 0 := by
    intro l
    induction l with
    | nil =>
      intro s _ h
      rcases h with h | ⟨q, hq, -⟩
      · exact h
      · cases hq
    | cons b r ih =>
      intro s hz h
      rw [List.foldl_cons]
      refine ih _ (fun q hq => hz q (List.mem_cons_of_mem _ hq)) ?_
      by_cases hb : b.2 = i
      · left
        rw [rword_setRword, if_pos (by rw [hb])]
        exact hz b List.mem_cons_self
      · rcases h with h | ⟨q, hq, hqi⟩
        · left
          rw [rword_setRword, if_neg (by rw [regKey_inj]; omega)]; exact h
        · rcases List.mem_cons.mp hq with rfl | hq
          · exact absurd hqi hb
          · exact Or.inr ⟨q, hq, hqi⟩
  refine key _ _ (fun q hq => ?_) (Or.inr ?_)
  · have := List.fst_mem_of_mem_zipIdx hq
    exact List.eq_of_mem_replicate this
  · refine ⟨(0, i), ?_, rfl⟩
    rw [List.mem_zipIdx_iff_getElem?]
    simp [hi]

theorem result_facts (s : State) (c : Nat) (hc : c < 256) : rget (lsrResult s c) 0 LSR_STATUS_CODE = c ∧ (lsrResult s c).lsr = s.lsr
    ∧ regsBut [(0, LSR_STATUS_CODE.off)] s (lsrResult s c) ∧ changesOnly [.regs] s (lsrResult s c) :=
  ⟨rget_rput_same1 _ _ _ _ (by decide) hc, rfl, regsBut_rputm _ _ _ _ _ (by decide), only_rput _ _ _ _ _⟩

theorem countVerify_facts (s : State) (g : Bool) : (countVerify s g).lsr = s.lsr ∧ changesOnly [.regs] s (countVerify s g)
    ∧ (g = false → rget (countVerify s g) 0 LSR_SIGFAIL = (rget s 0 LSR_SIGFAIL + 1) % 2 ^ 32) := by
  unfold countVerify
  cases g with
  | true => exact ⟨rfl, only_rput _ _ _ _ _, fun h => (by cases h)⟩
  | false =>
    refine ⟨rfl, only_trans (only_rput _ _ _ _ _) (only_rput _ _ _ _ _), fun _ => ?_⟩
    dsimp only
    rw [if_neg (by decide), rbump_same _ _ _ _ (by decide), rbump_ne _ _ _ _ _ (by decide) (by decide)]; rfl

theorem bundleCode_lt (s : State) (bs : List Byte) : bundleCode s bs < 256 ∧ (bundleCode s bs ≠ 0) := by
  unfold bundleCode
  dsimp only
  repeat' split
  all_goals decide

theorem clearSecrets_words (s : State) :
    rget (clearSecrets s) 0 LSR_ZEROISES = (rget s 0 LSR_ZEROISES + 1) % 2 ^ 32
    ∧ (∀ i, i < 8 → rword (clearSecrets s) 0 (0x140020 + 4 * i) = 0) ∧ (∀ i, i < 32 → rword (clearSecrets s) 0 (0x140080 + 4 * i) = 0) := by
  obtain ⟨y2, h2, z, hz, e⟩ := clearSecrets_split s
  have rz : z.regs = y2.regs := by rw [hz]
  have zf : ∀ a, a ≠ 0x140004 → rword (clearSecrets s) 0 a = rword (rbump z 0 LSR_ZEROISES) 0 a := fun a ha => by
    rw [e]
    split
    · rfl
    · unfold rset rput
      rw [rword_setRword, if_neg (by rw [regKey_inj]; simp only [LSR_STATUS_ZFAIL]; omega)]
  refine ⟨?_, fun i hi => ?_, fun i hi => ?_⟩
  · have : rget (clearSecrets s) 0 LSR_ZEROISES = rget (rbump z 0 LSR_ZEROISES) 0 LSR_ZEROISES := by
      unfold rget; rw [zf _ (by decide)]
    rw [this, rbump_same _ _ _ _ (by decide), rget_of_regs rz, h2, putWords_get _ _ _ _ (fun i hi => by simp only [List.length_replicate] at hi; simp only [LSR_ZEROISES]; omega),
      putWords_get _ _ _ _ (fun i hi => by simp only [List.length_replicate] at hi; simp only [LSR_ZEROISES]; omega)]
    rfl
  · rw [zf _ (by omega)]
    unfold rbump rput
    rw [rword_setRword, if_neg (by rw [regKey_inj]; simp only [LSR_ZEROISES]; omega), rword_of_regs rz, h2]
    exact putWords_zero _ _ _ _ hi
  · rw [zf _ (by omega)]
    unfold rbump rput
    rw [rword_setRword, if_neg (by rw [regKey_inj]; simp only [LSR_ZEROISES]; omega), rword_of_regs rz, h2,
      putWords_rword _ _ _ _ (fun j hj => by simp only [List.length_replicate] at hj; omega)]
    exact putWords_zero _ _ _ _ hi

theorem result_rword (s : State) (c a : Nat) (h : a ≠ 0x140004) : rword (lsrResult s c) 0 a = rword s 0 a := by
  unfold lsrResult rput
  rw [rword_setRword, if_neg (by rw [regKey_inj]; exact h)]

def same_after (s t : State) : Prop := ∀ key, islandKey key = false → mapGet reg2Reset t.regs key = mapGet reg2Reset s.regs key

theorem sa_refl (s : State) : same_after s s := fun _ _ => rfl

theorem sa_trans {s t u : State} (a : same_after s t) (b : same_after t u) : same_after s u := fun k h => (b k h).trans (a k h)

theorem sa_setRword (s : State) (off : Nat) (w : Word) (h : islandKey off = true) : same_after s (setRword s 0 off w) := by
  intro key hk
  unfold setRword
  refine mapGet_mapSet_ne _ _ _ _ _ ?_
  rintro rfl
  simp only [regKey, Nat.zero_mul, Nat.zero_add] at hk
  rw [h] at hk; cases hk

theorem sa_rput (s : State) (f : Fld) (v : Nat) (h : islandKey f.off = true) : same_after s (rput s 0 f v) := by
  unfold rput
  exact sa_setRword _ _ _ (by simpa using h)

theorem sa_of_regs {s t : State} (h : t.regs = s.regs) : same_after s t := fun _ _ => by rw [h]

theorem sa_putWords (s : State) (off : Nat) (ws : List Word) (h : ∀ i, i < ws.length → islandKey (off + 4 * i) = true) :
    same_after s (putWords s off ws) := by
  unfold putWords
  have : ∀ (l : List (Word × Nat)) (s : State), (∀ q ∈ l, islandKey (off + 4 * q.2) = true) →
      same_after s (l.foldl (fun s q => setRword s 0 (off + 4 * q.2) q.1) s) := by
    intro l
    induction l with
    | nil => intro s _; exact sa_refl s
    | cons q l ih =>
      intro s hq
      rw [List.foldl_cons]
      exact sa_trans (sa_setRword s _ _ (hq q (by simp))) (ih _ fun x hx => hq x (by simp [hx]))
  refine this _ _ fun q hq => h _ ?_
  have := List.mem_zipIdx' (show (q.1, q.2) ∈ ws.zipIdx from hq)
  exact this.1

theorem resetStatus_parts (s : State) (n : Nat) : same_after s (resetStatus s n) ∧ rget (resetStatus s n) 0 BNC_BRINGUP_FAULTED = 0
    ∧ (resetStatus s n).bnc = { s.bnc with stopped := false } ∧ (resetStatus s n).snd = s.snd := by
  obtain ⟨s1, h1⟩ : ∃ y, y = rput (rput (rput (rput s 0 PWR_STATUS_STATE 0) 0 PWR_CTL_MAIN_EN 0) 0 CLK_STATUS_SAFE 0) 0 PWR_STATUS_BUS_OK 0 := ⟨_, rfl⟩
  obtain ⟨s2, h2⟩ : ∃ y, y = rput (rput s1 0 BNC_STATUS_THERMSTOP 0) 0 BNC_STATUS_STOPCAUSE 0 := ⟨_, rfl⟩
  obtain ⟨s3, h3⟩ : ∃ y, y = rput (rput s2 0 BNC_BRST_STATUS_BUSY 0) 0 BNC_BRST_STATUS_QUIESCE 0 := ⟨_, rfl⟩
  obtain ⟨s4, h4⟩ : ∃ y, y = rput (rput s3 0 BNC_BRINGUP_READY 0) 0 BNC_BRINGUP_FAULTED 0 := ⟨_, rfl⟩
  obtain ⟨s5, h5⟩ : ∃ y, y = rput (rput s4 0 BNC_BRINGUP_STACKFAIL 0) 0 BNC_BRINGUP_MODFAIL 0 := ⟨_, rfl⟩
  obtain ⟨s6, h6⟩ : ∃ y : State, y = { s5 with bnc := { s5.bnc with stopped := false } } := ⟨_, rfl⟩
  have e : resetStatus s n = rput s6 0 BNC_BRINGUP_STEP n := by rw [h6, h5, h4, h3, h2, h1]; rfl
  have two : ∀ (x : State) (f g : Fld) (v w : Nat), islandKey f.off = true → islandKey g.off = true →
      same_after x (rput (rput x 0 f v) 0 g w) := fun x f g v w a b => sa_trans (sa_rput _ f v a) (sa_rput _ g w b)
  have l1 : same_after s s1 := by rw [h1]; exact sa_trans (two _ _ _ _ _ rfl rfl) (two _ _ _ _ _ rfl rfl)
  have l2 : same_after s1 s2 := by rw [h2]; exact two _ _ _ _ _ rfl rfl
  have l3 : same_after s2 s3 := by rw [h3]; exact two _ _ _ _ _ rfl rfl
  have l4 : same_after s3 s4 := by rw [h4]; exact two _ _ _ _ _ rfl rfl
  have l5 : same_after s4 s5 := by rw [h5]; exact two _ _ _ _ _ rfl rfl
  have l6 : same_after s5 s6 := sa_of_regs (by rw [h6])
  have b1 : s1.bnc = s.bnc ∧ s1.snd = s.snd := by rw [h1]; exact ⟨rfl, rfl⟩
  have b2 : s2.bnc = s1.bnc ∧ s2.snd = s1.snd := by rw [h2]; exact ⟨rfl, rfl⟩
  have b3 : s3.bnc = s2.bnc ∧ s3.snd = s2.snd := by rw [h3]; exact ⟨rfl, rfl⟩
  have b4 : s4.bnc = s3.bnc ∧ s4.snd = s3.snd := by rw [h4]; exact ⟨rfl, rfl⟩
  have b5 : s5.bnc = s4.bnc ∧ s5.snd = s4.snd := by rw [h5]; exact ⟨rfl, rfl⟩
  have b6 : s6.bnc = { s5.bnc with stopped := false } ∧ s6.snd = s5.snd := by rw [h6]; exact ⟨rfl, rfl⟩
  rw [e]
  refine ⟨sa_trans (sa_trans (sa_trans (sa_trans (sa_trans (sa_trans l1 l2) l3) l4) l5) l6) (sa_rput _ _ _ rfl), ?_, ?_, ?_⟩
  · have r6 : rget s6 0 BNC_BRINGUP_FAULTED = rget s5 0 BNC_BRINGUP_FAULTED := by rw [h6]; rfl
    rw [rget_rput_ne _ _ _ _ _ (by decide) (by decide), r6, h5, rget_rput_ne _ _ _ _ _ (by decide) (by decide),
      rget_rput_ne _ _ _ _ _ (by decide) (by decide), h4, rget_rput_mod _ _ _ _ (by decide), Nat.zero_mod]
  · show s6.bnc = _
    rw [b6.1, b5.1, b4.1, b3.1, b2.1, b1.1]
  · show s6.snd = _
    rw [b6.2, b5.2, b4.2, b3.2, b2.2, b1.2]

theorem sa_clear (z : State) : same_after z (clearSecrets z) := by
  obtain ⟨z2, h2, z3, h3, e⟩ := clearSecrets_split z
  have l1 : same_after z (putWords z 0x140080 (List.replicate 32 0)) := by
    refine sa_putWords _ _ _ fun i hi => ?_
    rw [List.length_replicate] at hi
    simp only [islandKey, Bool.and_eq_true, decide_eq_true_eq]; omega
  have l2 : same_after (putWords z 0x140080 (List.replicate 32 0)) z2 := by
    rw [h2]; refine sa_putWords _ _ _ fun i hi => ?_
    rw [List.length_replicate] at hi
    simp only [islandKey, Bool.and_eq_true, decide_eq_true_eq]; omega
  have l3 : same_after z2 z3 := sa_of_regs (by rw [h3])
  have l4 : same_after z (rbump z3 0 LSR_ZEROISES) := sa_trans (sa_trans (sa_trans l1 l2) l3) (sa_rput _ _ _ rfl)
  rw [e]
  split
  · exact l4
  · exact sa_trans l4 (sa_rput _ _ _ rfl)

theorem sa_draw (z : State) : same_after z (drawNonce z) := by
  unfold drawNonce
  dsimp only
  obtain ⟨y, hy⟩ : ∃ y : State, y = { z with lsr := { z.lsr with drawn := z.lsr.drawn + 8, pool := (List.range 8).map fun i => Config.trng (z.lsr.drawn + i) } } := ⟨_, rfl⟩
  rw [← hy]
  refine sa_trans (t := y) (sa_of_regs (by rw [hy])) (sa_putWords _ _ _ fun i hi => ?_)
  rw [List.length_map, List.length_range] at hi
  simp only [islandKey, Bool.and_eq_true, decide_eq_true_eq]; omega

theorem sa_last (z : State) (c : Nat) : same_after z (lastReset z c) := by
  unfold lastReset recordCause
  split
  · exact sa_refl _
  · exact sa_trans (sa_of_regs rfl) (sa_setRword _ _ _ rfl)

theorem sa_firmware (z : State) : same_after z (takeFirmware z) := by
  unfold takeFirmware
  split
  · unfold runFirmware
    exact sa_trans (sa_trans (sa_trans (sa_of_regs rfl) (sa_rput _ _ _ rfl)) (sa_rput _ _ _ rfl)) (sa_rput _ _ _ rfl)
  · exact sa_refl _

theorem reset_after (s : State) (c : Nat) (i : Bool) (key : Nat) (h : islandKey key = false) :
    mapGet reg2Reset (moduleReset s c i).regs key = reg2Reset key := by
  unfold moduleReset
  obtain ⟨x, hx⟩ : ∃ x, x = endLong s := ⟨_, rfl⟩
  rw [← hx]
  have hd : mapGet reg2Reset (dropDomains x).regs key = reg2Reset key := by
    show mapGet reg2Reset (x.regs.filter fun p => islandKey p.1) key = _
    rw [mapGet_filter, h]; rfl
  dsimp only
  cases i
  · rw [if_neg (by decide)]
    obtain ⟨y, hy⟩ : ∃ y, y = dropDomains x := ⟨_, rfl⟩
    rw [← hy] at hd ⊢
    rw [← hd]
    have a : same_after y (drawNonce (clearSecrets (lastReset (takeFirmware y) c))) :=
      sa_trans (sa_trans (sa_trans (sa_firmware y) (sa_last _ c)) (sa_clear _)) (sa_draw _)
    split
    · exact sa_trans (sa_trans a (resetStatus_parts _ 1).1) (sa_rput _ _ _ rfl) key h
    · exact sa_trans a (resetStatus_parts _ 2).1 key h
  · rw [if_pos rfl]
    have k : mapGet reg2Reset (dropIsland (dropDomains x)).regs key = reg2Reset key := by
      show mapGet reg2Reset (keptIsland (dropDomains x)) key = _
      unfold keptIsland
      simp only [islandKey, Bool.and_eq_false_iff, decide_eq_false_iff_not] at h
      dsimp only
      rw [mapGet_mapSet_ne _ _ _ _ _ (by omega), mapGet_mapSet_ne _ _ _ _ _ (by omega), mapGet_mapSet_ne _ _ _ _ _ (by omega)]
      rfl
    obtain ⟨y, hy⟩ : ∃ y, y = dropIsland (dropDomains x) := ⟨_, rfl⟩
    rw [← hy] at k ⊢
    rw [← k]
    exact sa_trans (sa_last y c) (resetStatus_parts _ 1).1 key h

end Sys2Proof.Claims
end

