-- ==== Sys2Proof/Laws/Numbers.lean ====
section
/-!
SUPPORT. Bytes, two's complement, narrow conversion and packed elements.
-/

namespace Sys2Proof.Claims

open Sys2Proof Sys2Proof.Machine

theorem leBytes_len (n v : Nat) : (leBytes n v).length = n := by
  induction n generalizing v with
  | zero => rfl
  | succ n ih => simp [leBytes, ih]

theorem leVal_leBytes (n v : Nat) : leVal (leBytes n v) = v % 256 ^ n := by
  induction n generalizing v with
  | zero => simp [leBytes, leVal, Nat.mod_one]
  | succ n ih =>
    unfold leBytes leVal
    rw [ih, BitVec.toNat_ofNat, show 256 ^ (n + 1) = 256 * 256 ^ n by ring, Nat.mod_mul (x := v) (a := 256)]

theorem leVal_append (a b : List Byte) : leVal (a ++ b) = leVal a + 256 ^ a.length * leVal b := by
  induction a with
  | nil => simp [leVal]
  | cons x a ih => simp only [List.cons_append, leVal, ih, List.length_cons, Nat.pow_succ']; ring

theorem unsigned_bound (w : Nat) (v : Int) : unsigned w v < 2 ^ w := by
  unfold unsigned
  have h1 : (0 : Int) < ((2 ^ w : Nat) : Int) := by positivity
  have := Int.emod_lt_of_pos v h1
  have := Int.emod_nonneg v (ne_of_gt h1)
  omega

theorem signed_unsigned (w : Nat) (hw : 0 < w) (v : Int) (h1 : -((2 ^ (w - 1) : Nat) : Int) ≤ v)
    (h2 : v < ((2 ^ (w - 1) : Nat) : Int)) : signed w (unsigned w v) = v := by
  obtain ⟨n, rfl⟩ : ∃ n, w = n + 1 := ⟨w - 1, by omega⟩
  simp only [Nat.add_sub_cancel] at h1 h2
  have hp : (2 ^ (n + 1) : Nat) = 2 * 2 ^ n := by rw [Nat.pow_succ]; ring
  unfold signed
  rw [Nat.mod_eq_of_lt (unsigned_bound _ _)]
  unfold unsigned
  simp only [Nat.add_sub_cancel]
  rw [hp]
  push_cast at *
  rcases lt_or_ge v 0 with hv | hv
  · have : v % (2 * 2 ^ n : Int) = v + 2 * 2 ^ n := by
      rw [← Int.add_emod_right]; exact Int.emod_eq_of_lt (by linarith) (by linarith)
    rw [this]
    have : ((v + 2 * 2 ^ n).toNat : Int) = v + 2 * 2 ^ n := Int.toNat_of_nonneg (by linarith)
    rw [if_neg, this]; · ring
    intro hc
    have : ((v + 2 * 2 ^ n).toNat : Int) < 2 ^ n := by exact_mod_cast hc
    linarith
  · have : v % (2 * 2 ^ n : Int) = v := Int.emod_eq_of_lt hv (by linarith)
    rw [this, if_pos]
    · exact Int.toNat_of_nonneg hv
    · zify; rw [Int.toNat_of_nonneg hv]; exact h2

theorem saturate_bounds (v : Int) : -2 ^ 95 ≤ saturate 96 v ∧ saturate 96 v < 2 ^ 95 := by
  unfold saturate; norm_num; split
  · norm_num
  · split
    · norm_num
    · constructor <;> linarith

theorem clamp_bounds (l v : Int) (h : 0 ≤ l) : -l ≤ clamp (-l) l v ∧ clamp (-l) l v ≤ l := by
  unfold clamp; split
  · constructor <;> omega
  · split
    · constructor <;> omega
    · constructor <;> omega

theorem convertBlock_bounds (wide shared pair : Bool) (a : Nat) (ys : List Int) (q : Int)
    (h : q ∈ (convertBlock wide shared pair a ys).elems) : -(limitOf wide : Int) ≤ q ∧ q ≤ (limitOf wide : Int) := by
  have h0 : ∀ {α : Type} (l : List α) (x : Int), x ∈ l.map (fun _ => (0 : Int)) → x = 0 := by
    intro α l x hx; simp at hx; omega
  have h1 : ∀ (l : List Int) d x, x ∈ l.map (fun y => clamp (-(limitOf wide : Int)) (limitOf wide) (rne y d)) →
      -(limitOf wide : Int) ≤ x ∧ x ≤ (limitOf wide : Int) := by
    intro l d x hx
    obtain ⟨y, -, rfl⟩ := List.mem_map.1 hx
    exact clamp_bounds _ _ (by omega)
  unfold convertBlock at h
  dsimp only at h
  generalize (e4m3Mag (scaleOf wide a) * 8388608) = d at h
  generalize clips wide a = cl at h
  split at h
  · have hq := h0 _ _ h; rw [hq]; exact ⟨by omega, by omega⟩
  · split at h
    · exact h1 _ _ _ h
    · split at h <;> exact h1 _ _ _ h

theorem convertPairs_bounds (wide : Bool) (l : List (List Int)) (b : Block) (q : Int) (hb : b ∈ convertPairs wide l)
    (h : q ∈ b.elems) : -(limitOf wide : Int) ≤ q ∧ q ≤ (limitOf wide : Int) := by
  induction l using convertPairs.induct with
  | case1 x y r ih =>
    simp only [convertPairs, List.mem_cons] at hb
    rcases hb with rfl | rfl | hb
    · exact convertBlock_bounds _ _ _ _ _ _ h
    · exact convertBlock_bounds _ _ _ _ _ _ h
    · exact ih hb
  | case2 x => simp only [convertPairs, List.mem_singleton] at hb; subst hb; exact convertBlock_bounds _ _ _ _ _ _ h
  | case3 => simp [convertPairs] at hb

theorem packed_wide (xs : List Int) : packElements true xs = xs.map fun x => BitVec.ofNat 8 (unsigned 8 x) := by
  induction xs using packElements.induct true with
  | case1 => rfl
  | case2 a => simp [packElements]
  | case3 => simp at *
  | case4 a b r _ ih => simp [packElements, ih]
  | case5 => simp at *

theorem packed_narrow (xs : List Int) : ∀ j, 2 * j < xs.length →
    ((packElements false xs).getD j 0).toNat = unsigned 4 (xs.getD (2 * j) 0) + 16 * unsigned 4 (xs.getD (2 * j + 1) 0) := by
  induction xs using packElements.induct false with
  | case1 => intro j h; simp at h
  | case2 => simp at *
  | case3 a =>
    intro j h
    obtain rfl : j = 0 := by simp at h; omega
    have := unsigned_bound 4 a
    simp [packElements, unsigned]
    simp only [unsigned] at this; omega
  | case4 => simp at *
  | case5 a b r _ ih =>
    intro j h
    cases j with
    | zero =>
      have h1 := unsigned_bound 4 a
      have h2 := unsigned_bound 4 b
      simp [packElements]; omega
    | succ j =>
      have := ih j (by simp at h; omega)
      simp only [packElements, Bool.false_eq_true, if_false, List.getD_cons_succ]
      rw [this, show 2 * (j + 1) = 2 * j + 1 + 1 by ring]
      simp only [List.getD_cons_succ]

end Sys2Proof.Claims
end

