-- ==== Sys2Proof/Tests/Slice0.lean ====
section
/-!
SUPPORT. Tests: ill-formed commands that WellFormed refuses, and, for the statements of
Certificates/Slice0/Obligations.lean, concrete machines and operands that meet the hypotheses of their clauses (theorems
`witness_…`). A hypothesis that asks for an answer of a constant without a body (Config) has no witness: NOTES.md says which.
-/

namespace Sys2Proof.Tests

open Sys2Proof Sys2Proof.Machine Sys2Proof.Claims

/-! ### Commands that are not well-formed -/

/-- A packet of operation `op` with `len` and `data`, from tile 0 to DRAM of stack 0. -/
def pkt (op : PktOp) (len : Nat) (data : List Byte) : Packet :=
  ⟨op, 0, .tile 0 ⟨0, 0⟩, 8, 0, len, data, .ok, false, [], false, none, false⟩

def hail (ports : List HailPort) : HailRec := ⟨1, 0, 0, 1, 1, 0, ports⟩

theorem test_put_length : wellFormed (.put (pkt .put 4 [1, 2, 3])) = false ∧ wellFormed (.put (pkt .put 3 [1, 2, 3])) = true := by
  decide
theorem test_put_operation : wellFormed (.put (pkt .get 3 [1, 2, 3])) = false := by decide
theorem test_get_empty : wellFormed (.get (pkt .get 0 []) none) = false ∧ wellFormed (.get (pkt .get 1 []) none) = true := by decide
theorem test_get_router : wellFormed (.get (pkt .get 1 []) (some ⟨0, 480⟩)) = false := by decide
theorem test_add32_length : wellFormed (.add32 (pkt .add32 2 [0]) none []) = false := by decide
theorem test_add64_length : wellFormed (.add64 (pkt .add64 1 [0]) none []) = false := by decide
theorem test_ladd_length : wellFormed (.ladd (pkt .ladd 0 []) none []) = false := by decide
theorem test_cas64_length : wellFormed (.cas64 (pkt .cas64 8 [0])) = false := by decide
theorem test_mput_targets : wellFormed (.mput ⟨pkt .mput 1 [0], []⟩) = false := by decide
theorem test_arrive_operation : wellFormed (.arrive (pkt .put 1 [0])) = false := by decide
theorem test_getData_length : wellFormed (.getData (pkt .getData 2 [0])) = false := by decide
theorem test_fleetFrame_length : wellFormed (.fleetFrame 0 ⟨[0], 0, 0⟩) = false := by decide
theorem test_linkReplayLimit_channel : wellFormed (.linkReplayLimit (.crossing 248)) = false
    ∧ wellFormed (.linkReplayLimit (.crossing 247)) = true := by decide
theorem test_hail_ports : wellFormed (.hail 0 (hail [])) = false := by decide
theorem test_groupComplete_site : wellFormed (.groupComplete 0 480 0 false ⟨[], [], [], [], false⟩) = false := by decide
theorem test_groupComplete_group : wellFormed (.groupComplete 0 0 293 true ⟨[], [], [], [], false⟩) = false := by decide
theorem test_tableEccError_site : wellFormed (.tableEccError 0 480) = false ∧ wellFormed (.tableEccError 0 479) = true := by decide
theorem test_vilgerFlit_length : wellFormed (.vilgerFlit 0 ⟨[], 0, 0⟩) = false := by decide
theorem test_dat_lines : wellFormed (.dat 0 0 .ok [0]) = false := by decide
theorem test_dramUncorrectable_off : wellFormed (.dramUncorrectable ⟨0, 0, 51539607552⟩) = false := by decide
theorem test_bringupStep_site : wellFormed (.bringupStep ⟨[.site 0 480], []⟩) = false := by decide
theorem test_diodeRound_diode : wellFormed (.diodeRound [⟨48, 700, 0⟩]) = false ∧ wellFormed (.diodeRound [⟨47, 700, 0⟩]) = true := by
  decide
theorem test_crossingFlitError_channel : wellFormed (.crossingFlitError 248) = false := by decide
theorem test_crossingRetrainDone_channel : wellFormed (.crossingRetrainDone 255 true) = false := by decide
theorem test_pllLock_pll : wellFormed (.pllLock 0 7) = false := by decide
theorem test_logBucketBoundary_kind : wellFormed (.logBucketBoundary 0) = false ∧ wellFormed (.logBucketBoundary 8) = false := by
  decide
/-- The longest image chunk is 64 MiB (R276). -/
theorem test_programChunk_length (o : ImageOrder) (bs : List Byte) (h : 67108864 < bs.length) :
    wellFormed (.programChunk o bs) = false := by
  simp only [wellFormed, decide_eq_false_iff_not]; omega

/-- No row of the table gives bits. -/
theorem test_decode_none : decodeTableWord 64 0x1234 = none ∧ State.reset.withFetchWord 64 0x1234 = State.reset := by decide

/- One proof at a time: the witnesses below evaluate large states. -/
set_option Elab.async false

/-! ### Tile instructions: a tile whose engines run, and instructions that issue on it -/

/-- A mapped tile, tile 0 of stack 0 at site 0, with its clock on, RUN set and every engine started. -/
def runTile : Tile :=
  { tput Tile.reset TIL_CTL_RUN 1 with clkOn := true, engs := List.replicate 5 { Eng.reset with on := true } }

/-- The same tile with engine registers at the values given. -/
def regTile (e : Engine) (l : List (Nat × Dword)) : Tile := l.foldl (fun t q => setGp t e q.1 q.2) runTile

/-- A machine that holds `t` as tile 0 of stack 0. -/
def onSite (t : Tile) : State :=
  putTile (rset (rput State.reset 0 STK_RT_MAP_SITE0 0) 0 STK_RT_MAP_VALID0) 0 0 t

def tile0 : TileRef := ⟨0, 0⟩

/-- An unslotted word: fields A, B, C and D, and the X bits from X[24]. -/
def word1 (a b c d x : Nat) : Enc := ⟨1, BitVec.ofNat 56 (a * 2 ^ 42 + b * 2 ^ 38 + c * 2 ^ 34 + d * 2 ^ 30 + x * 2 ^ 24)⟩

/-- The tile with the instruction's word in its engine's ring, at the program counter. -/
def ringed (t : Tile) (e : Engine) (op : Nat) (n : Enc) : Tile :=
  { t with store := memWrite t.store (ringPlace (engCode e) (pcOf t e)) (leBytes 8 (wordOf op n).toNat) }

/-- The machine's engine `e` issues `n` in cycle `k`, and `ok` holds of what it finds. -/
def Met (t : Tile) (e : Engine) (op : Nat) (n : Enc) (phased : Bool) (u : OpUnit) (k : Nat)
    (ok : Ctx → Tile → Flight → Prop) : Prop :=
  let s := onSite (ringed t e op n)
  let i : Issue := ⟨tile0, 0, n⟩
  Issues s e op i phased u 0 k ∧
    ok { reachCtx s i with now := k } (issued (found s i 0 k) e n k) (flight (found s i 0 k) e op n k)

theorem witness_nop : Met runTile .fet 0 (word1 0 0 0 0 0) false nopUnit 0 always :=
  ⟨by constructor <;> decide +kernel, trivial⟩
/-- Slotted at slot 4, with a wait for the token of the port bank's queue. -/
theorem witness_slotted : Met (regTile .fet [(1, 0), (3, 4)]) .fet 12 ⟨0, BitVec.ofNat 56 (25 * 2 ^ 51 + 2 ^ 42 + 3 * 2 ^ 34 + 4)⟩
    false (bankwUnit ⟨0, BitVec.ofNat 56 (25 * 2 ^ 51 + 2 ^ 42 + 3 * 2 ^ 34 + 4)⟩) 4
    (fun _ t _ => bankBusy t false 4 = false ∧ (bankOf t false).st ≠ .writing) :=
  ⟨by constructor <;> decide +kernel, by decide +kernel⟩
/-- With a post into the queue from Fetch to the Array engine. -/
theorem witness_posts : Met runTile .fet 0 ⟨1, BitVec.ofNat 56 (2 ^ 46)⟩ false nopUnit 0 always :=
  ⟨by constructor <;> decide +kernel, trivial⟩

def setrWord (reg imm : Nat) : Enc := ⟨2, BitVec.ofNat 56 (reg * 2 ^ 50 + imm)⟩
theorem witness_setr : Met runTile .sid 1 (setrWord 5 7) false (setrUnit .sid (setrWord 5 7)) 0 always :=
  ⟨by constructor <;> decide +kernel, trivial⟩
theorem witness_setrh : Met runTile .arr 2 (setrWord 34 7) false (setrhUnit .arr (setrWord 34 7)) 0 always :=
  ⟨by constructor <;> decide +kernel, trivial⟩
theorem witness_addr : Met runTile .plt 3 (word1 1 2 3 0 0) false (addrUnit .plt (word1 1 2 3 0 0)) 0 always :=
  ⟨by constructor <;> decide +kernel, trivial⟩

/-- A JUMP or LOOP word: TARGET, LCI and STRIDE. -/
def ringWord (target lci stride : Nat) : Enc := ⟨3, BitVec.ofNat 56 (target * 2 ^ 47 + lci * 2 ^ 45 + stride * 2 ^ 24)⟩
theorem witness_jump : Met runTile .sig 4 (ringWord 511 0 0) false (jumpUnit .sig (ringWord 511 0 0)) 0 always :=
  ⟨by constructor <;> decide +kernel, trivial⟩
theorem witness_loop_again : Met (regTile .fet [(27, 2)]) .fet 5 (ringWord 9 3 16) false (loopUnit .fet (ringWord 9 3 16)) 0
    (fun _ t _ => 1 < (gp (setGp t .fet 20 (gp t .fet 20 + BitVec.ofNat 64 (encStride (ringWord 9 3 16)))) .fet
      (24 + encLci (ringWord 9 3 16))).toNat) :=
  ⟨by constructor <;> decide +kernel, by decide +kernel⟩
theorem witness_loop_last : Met (regTile .fet [(27, 1)]) .fet 5 (ringWord 9 3 16) false (loopUnit .fet (ringWord 9 3 16)) 0
    (fun _ t _ => ¬ 1 < (gp (setGp t .fet 20 (gp t .fet 20 + BitVec.ofNat 64 (encStride (ringWord 9 3 16)))) .fet
      (24 + encLci (ringWord 9 3 16))).toNat) :=
  ⟨by constructor <;> decide +kernel, by decide +kernel⟩
/-- NEXTW, reached in the watch whose slots counted from cycle 0, in the watch whose slots count from cycle 30. -/
theorem witness_nextw : Issues (changeTile (elapse { onSite (ringed (setEng runTile .sig { engOf runTile .sig with nextw := some 0 }) .sig 6 (word1 0 0 0 0 0)) with
      slot0 := 30, cyc := 40 } 0) tile0 fun c t => markNextw c.slot0 .sig (word1 0 0 0 0 0) t) .sig 6 ⟨tile0, 0, word1 0 0 0 0 0⟩ false
    (nextwUnit .sig) 0 40 := by
  constructor <;> decide +kernel
theorem witness_halt : Met runTile .arr 7 (word1 0 0 0 0 0) false (haltUnit .arr) 0 always :=
  ⟨by constructor <;> decide +kernel, trivial⟩

/-! Fetch: 32 bytes to address 64. -/

theorem witness_fetLoad : Met (regTile .fet [(1, 0x1000), (2, 64), (3, 32)]) .fet 8 (word1 1 2 3 0 0) false
    (loadUnit (word1 1 2 3 0 0)) 0 always :=
  ⟨by constructor <;> decide +kernel, trivial⟩
theorem witness_fetLoads : Met (regTile .fet [(1, 0x1000), (2, 64), (3, 32 + 2 ^ 17), (4, 32 + 64 * 2 ^ 32)]) .fet 9
    (word1 1 2 3 4 0) false (loadsUnit (word1 1 2 3 4 0)) 0 always :=
  ⟨by constructor <;> decide +kernel, trivial⟩
theorem witness_fetCopy : Met (regTile .fet [(1, 0), (2, 64), (3, 32)]) .fet 10 (word1 1 2 3 0 0) false
    (copyUnit (word1 1 2 3 0 0)) 0 always :=
  ⟨by constructor <;> decide +kernel, trivial⟩
theorem witness_fetZero : Met (regTile .fet [(2, 64), (3, 32)]) .fet 11 (word1 0 2 3 0 0) false
    (zeroUnit (word1 0 2 3 0 0)) 0 always :=
  ⟨by constructor <;> decide +kernel, trivial⟩
theorem witness_fetBankw : Met (regTile .fet [(3, 4)]) .fet 12 (word1 1 0 3 0 1) false (bankwUnit (word1 1 0 3 0 1)) 0
    (fun _ t _ => bankBusy t true 0 = false ∧ (bankOf t true).st ≠ .writing) :=
  ⟨by constructor <;> decide +kernel, by decide +kernel⟩

/-! Array: segment 0 of an A8 vector at address 0, its tag at 512, the port bank ACTIVE. -/

def arrTile (demoted : Bool) : Tile :=
  { regTile .arr [(1, 0), (2, 512)] with port := { Bank.reset with st := .active }, demoted := demoted }
def mvmWord : Enc := word1 1 2 5 1 0
theorem witness_arrMvm : Met (arrTile false) .arr 8 mvmWord true (mvmUnit mvmWord []) 1 (fun c t _ =>
    activeBank t = some false ∧ t.demoted = false ∧
      inDog c 3 (3 + 3 * (drivenPlanes (mvmPlanes mvmWord) ((mvmSegs mvmWord).map (readSeg t mvmWord))).length) = false) :=
  ⟨by constructor <;> decide +kernel, by decide +kernel⟩
theorem witness_arrMvm_demoted : Met (arrTile true) .arr 8 mvmWord true (mvmUnit mvmWord []) 1 (fun _ t _ =>
    activeBank t = some false ∧ t.demoted = true) :=
  ⟨by constructor <;> decide +kernel, by decide +kernel⟩
def entry : RetryEntry := ⟨false, false, 0, 0, false, 0, 0, [], [], false, 5, 0, 0, 0, false⟩
theorem witness_arrRetry_empty : Met (arrTile false) .arr 9 (word1 0 0 0 0 0) true (retryUnit []) 1 (fun c t fl =>
    t.demoted = true ∨ (inDog c (fl.issued + 2) (fl.issued + 5) = false ∧ t.retryQ = [])) :=
  ⟨by constructor <;> decide +kernel, by decide +kernel⟩
theorem witness_arrRetry : Met { arrTile false with retryQ := [entry] } .arr 9 (word1 0 0 0 0 0) true (retryUnit []) 1
    (fun c t fl => t.demoted = false ∧ inDog c (fl.issued + 2) (fl.issued + 5) = false ∧ t.retryQ = entry :: []) :=
  ⟨by constructor <;> decide +kernel, by decide +kernel⟩
theorem witness_arrBank_active : Met (arrTile false) .arr 10 (word1 0 0 0 0 0) false (bankUnit (word1 0 0 0 0 0)) 0
    (fun _ t _ => t.stopped = false ∧ (bankOf t (encX (word1 0 0 0 0 0) 24)).st = .active) :=
  ⟨by constructor <;> decide +kernel, by decide +kernel⟩
theorem witness_arrBank_ready : Met { arrTile false with stbd := { Bank.reset with st := .ready } } .arr 10 (word1 0 0 0 0 1) false
    (bankUnit (word1 0 0 0 0 1)) 0 (fun _ t _ => t.stopped = false ∧ (bankOf t (encX (word1 0 0 0 0 1) 24)).st = .ready) :=
  ⟨by constructor <;> decide +kernel, by decide +kernel⟩
theorem witness_arrMode : Met runTile .arr 11 (word1 0 0 0 0 1) false (modeUnit (word1 0 0 0 0 1)) 0 always :=
  ⟨by constructor <;> decide +kernel, trivial⟩

/-! Side: set 1, and a drain of row 0, 128 lanes, to address 0 with tags at 1024 and flags at 2048. -/

theorem witness_sidMode : Met runTile .sid 8 (word1 0 0 0 0 3) false (sidModeUnit (word1 0 0 0 0 3)) 0 (fun _ t _ =>
    ∀ r, r < 16 → (rowOf t (encX (word1 0 0 0 0 3) 25) r).touched = false) :=
  ⟨by constructor <;> decide +kernel, by decide +kernel⟩
theorem witness_sidRecomp_empty : Met runTile .sid 9 (word1 0 0 0 0 0) false recompUnit 0 (fun _ t _ => t.recompQ = []) :=
  ⟨by constructor <;> decide +kernel, by decide +kernel⟩
theorem witness_sidRecomp : Met { runTile with recompQ := [entry] } .sid 9 (word1 0 0 0 0 0) false recompUnit 0
    (fun _ t _ => t.recompQ = entry :: []) :=
  ⟨by constructor <;> decide +kernel, by decide +kernel⟩
def drainTile : Tile := regTile .sid [(1, 0), (2, 1024), (3, 2048), (4, 4 + 2 ^ 15 + 512 * 2 ^ 24), (32, 1 + 128 * 2 ^ 16)]
theorem witness_sidDrain : Met drainTile .sid 10 (word1 1 2 3 0 0) false (drainUnit (word1 1 2 3 0 0)) 0 (fun c t fl =>
    draining t (encX (word1 1 2 3 0 0) 28) c.now = false ∧ (encX (word1 1 2 3 0 0) 27 = true ∨ t.pipeFree ≤ c.now)
      ∧ (drainTaken c t (drainJob t (word1 1 2 3 0 0) (watchId fl) fl.pc) fl).stopped = false) :=
  ⟨by constructor <;> decide +kernel, by decide +kernel⟩
theorem witness_sidEmit : Met drainTile .sid 11 (word1 1 2 3 4 0) false (emitUnit (word1 1 2 3 4 0)) 0
    (fun c t _ => t.pipeFree ≤ c.now) :=
  ⟨by constructor <;> decide +kernel, by decide +kernel⟩

/-! Plot: operands at 0, 0x1000 and 0x2000, PFLAG at 0x3000. -/

def plotTile (shape : Nat) : Tile := regTile .plt [(1, 0), (2, 0x1000), (3, 0x2000), (4, BitVec.ofNat 64 shape), (32, 0x3000)]
def plotWord : Enc := word1 1 2 3 4 0
def plotWord2 : Enc := word1 1 2 0 4 0
theorem witness_pltNorm : Met (plotTile (128 + 2 ^ 14)) .plt 8 plotWord false (normUnit plotWord) 0 always :=
  ⟨by constructor <;> decide +kernel, trivial⟩
theorem witness_pltScore : Met (plotTile 4) .plt 9 plotWord false (scoreUnit plotWord) 0 always :=
  ⟨by constructor <;> decide +kernel, trivial⟩
theorem witness_pltSoftmax : Met (plotTile (16 + 2 ^ 14)) .plt 10 plotWord2 false (softmaxUnit plotWord2) 0 always :=
  ⟨by constructor <;> decide +kernel, trivial⟩
theorem witness_pltVprod : Met (plotTile 4) .plt 11 plotWord false (vprodUnit plotWord) 0 always :=
  ⟨by constructor <;> decide +kernel, trivial⟩
theorem witness_pltTopk : Met (plotTile (16 + 4 * 2 ^ 16)) .plt 12 plotWord2 false (topkUnit plotWord2) 0 always :=
  ⟨by constructor <;> decide +kernel, trivial⟩
theorem witness_pltSort : Met (plotTile 4) .plt 13 plotWord2 false (sortUnit plotWord2) 0 always :=
  ⟨by constructor <;> decide +kernel, trivial⟩
/-- Two keys, all 0 and so in order, on each side. -/
theorem witness_pltMerge : Met (plotTile (2 + 2 * 2 ^ 14)) .plt 14 plotWord false (mergeUnit plotWord) 0 (fun _ t _ =>
    ordered ((List.range (setNa (shape t plotWord))).map (cellU t (pltA t plotWord).toNat)) = true ∧
      ordered ((List.range (setNb (shape t plotWord))).map (cellU t (pltB t plotWord).toNat)) = true) :=
  ⟨by constructor <;> decide +kernel, by decide +kernel⟩
theorem witness_pltIsect : Met (plotTile (2 + 2 * 2 ^ 14)) .plt 15 plotWord false (isectUnit plotWord) 0 (fun _ t _ =>
    ordered ((List.range (setNa (shape t plotWord))).map (cellU t (pltA t plotWord).toNat)) = true ∧
      ordered ((List.range (setNb (shape t plotWord))).map (cellU t (pltB t plotWord).toNat)) = true) :=
  ⟨by constructor <;> decide +kernel, by decide +kernel⟩
theorem witness_pltGather : Met (plotTile 4) .plt 16 plotWord false (gatherUnit plotWord) 0 (fun _ t _ =>
    ∀ a ∈ indexed t (pltA t plotWord) (pltB t plotWord).toNat (count14 (shape t plotWord)) (elemSize (shape t plotWord)),
      storeLegal a (elemSize (shape t plotWord)) = true) :=
  ⟨by constructor <;> decide +kernel, List.all_eq_true.mp (by decide +kernel)⟩
theorem witness_pltScatter : Met (plotTile 4) .plt 17 plotWord false (scatterUnit plotWord) 0 (fun _ t _ =>
    ∀ a ∈ indexed t (pltC t plotWord) (pltB t plotWord).toNat (count14 (shape t plotWord)) (elemSize (shape t plotWord)),
      storeLegal a (elemSize (shape t plotWord)) = true) :=
  ⟨by constructor <;> decide +kernel, List.all_eq_true.mp (by decide +kernel)⟩
theorem witness_pltHprobe : Met (plotTile (4 + 4 * 2 ^ 14 + 2 * 2 ^ 18)) .plt 18 plotWord false (hprobeUnit plotWord) 0 always :=
  ⟨by constructor <;> decide +kernel, trivial⟩
def allBelow (n : Nat) (f : Nat → List Dword) (p : Dword → Bool) : Bool := (List.range n).all fun j => (f j).all p
theorem witness_pltRelax : Met (plotTile 4) .plt 19 plotWord false (relaxUnit plotWord) 0 (fun _ t _ =>
    ∀ j, j < count14 (shape t plotWord) → ∀ a ∈ relaxAddrs t plotWord j, storeLegal a 4 = true) :=
  ⟨by constructor <;> decide +kernel, fun j hj => List.all_eq_true.mp (List.all_eq_true.mp (by decide +kernel : allBelow _ (relaxAddrs _ plotWord) (fun a => storeLegal a 4) = true) j (List.mem_range.mpr hj))⟩
theorem witness_pltSample : Met (plotTile 4) .plt 20 plotWord false (sampleUnit plotWord) 0 always :=
  ⟨by constructor <;> decide +kernel, trivial⟩

/-! Signal: local data at 0x1000, a list at 0x2000, group 0. -/

def sigTile (len : Nat) : Tile := regTile .sig [(1, 0x4000), (2, 0x1000), (3, BitVec.ofNat 64 len), (4, 0x2000)]
theorem witness_sigPut : Met (sigTile 32) .sig 8 (word1 1 2 3 0 0) false (putUnit (word1 1 2 3 0 0)) 0 always :=
  ⟨by constructor <;> decide +kernel, trivial⟩
theorem witness_sigGet : Met (sigTile 4096) .sig 9 (word1 1 2 3 0 0) false (getUnit (word1 1 2 3 0 0)) 0 always :=
  ⟨by constructor <;> decide +kernel, trivial⟩
theorem witness_sigAdd32 : Met (sigTile 1) .sig 10 (word1 1 2 3 0 0) false (addUnit (word1 1 2 3 0 0) .add32 4 1024) 0 always :=
  ⟨by constructor <;> decide +kernel, trivial⟩
theorem witness_sigAdd64 : Met (sigTile 512) .sig 11 (word1 1 2 3 0 0) false (addUnit (word1 1 2 3 0 0) .add64 8 512) 0 always :=
  ⟨by constructor <;> decide +kernel, trivial⟩
theorem witness_sigLadd : Met (sigTile 1) .sig 12 (word1 1 2 3 0 0) false (addUnit (word1 1 2 3 0 0) .ladd 16 256) 0 always :=
  ⟨by constructor <;> decide +kernel, trivial⟩
theorem witness_sigCas64 : Met (sigTile 0) .sig 13 (word1 1 2 0 0 0) false (casUnit (word1 1 2 0 0 0)) 0 always :=
  ⟨by constructor <;> decide +kernel, trivial⟩
/-- One target, address 0. -/
theorem witness_sigMput : Met (swrite (sigTile 32) 0x2000 [1]) .sig 14 (word1 0 2 3 4 0) false (mputUnit (word1 0 2 3 4 0)) 0
    (fun _ t _ => 1 ≤ listN t (word1 0 2 3 4 0) ∧ listN t (word1 0 2 3 4 0) ≤ 16
      ∧ (∀ j, j < listN t (word1 0 2 3 4 0) → (listTarget t (word1 0 2 3 4 0) j).toNat % 32 = 0)
      ∧ (listAddr t (word1 0 2 3 4 0)).toNat % 8 = 0
      ∧ storeLegal (listAddr t (word1 0 2 3 4 0)) (16 + 8 * listN t (word1 0 2 3 4 0)) = true) :=
  ⟨by constructor <;> decide +kernel, by decide +kernel⟩
theorem witness_sigArrive : Met (sigTile 7) .sig 15 (word1 1 0 3 0 0) false (arriveUnit (word1 1 0 3 0 0)) 0 always :=
  ⟨by constructor <;> decide +kernel, trivial⟩
theorem witness_sigWaitg : Met (sigTile 0x3000) .sig 16 (word1 0 2 3 0 4) false (waitgUnit (word1 0 2 3 0 4)) 0 always :=
  ⟨by constructor <;> decide +kernel, trivial⟩
theorem witness_sigWaitwp : Met (regTile .sig [(1, 0x7D000), (2, 0x1000)]) .sig 17 (word1 1 2 0 0 0) false
    (waitwpUnit (word1 1 2 0 0 0)) 0 always :=
  ⟨by constructor <;> decide +kernel, trivial⟩
theorem witness_sigWpinit : Met (regTile .sig [(1, 0x7DF70), (3, 9)]) .sig 18 (word1 1 0 3 0 0) false
    (wpinitUnit (word1 1 0 3 0 0)) 0 always :=
  ⟨by constructor <;> decide +kernel, trivial⟩

/-- A NOP word at static slot 0. -/
theorem witness_staticSlot : Issues (onSite (ringed runTile .fet 0 (wordEnc 0))) .fet (wordOp 0) ⟨tile0, 0, wordEnc 0⟩
    (Engine.fet == .arr && (wordOp 0 == 8 || wordOp 0 == 9)) (unitOf .fet (wordOp 0) (wordEnc 0) []) 0 0 := by
  constructor <;> decide +kernel

/-! ### Tile events, control bits, clocks -/

/-- The machine with every order released and stack 0 on. -/
def released (s : State) : State := rset { s with rst := { s.rst with domains := 7 } } 0 PWR_STK_CTL_ON
def upMachine (t : Tile) : State := released (onSite t)

def copyFlight : Flight := ⟨.fet, 5, 1, 0, 0, none⟩
theorem witness_wdog : siteOf (onSite { runTile with due := [⟨10 ^ 9, .retire copyFlight⟩] }) tile0.stack.toNat tile0.tile.toNat = some 0
    ∧ wdogFirst (settleBefore 0 (tileAt (onSite { runTile with due := [⟨10 ^ 9, .retire copyFlight⟩] }) 0 0)) .fet
      = some copyFlight := by
  decide +kernel
def stallTile : Tile := setEng runTile .sid { engOf runTile .sid with since := some 3 }
theorem witness_stall : siteOf (onSite stallTile) tile0.stack.toNat tile0.tile.toNat = some 0
    ∧ (engOf (settleBefore 0 (tileAt (onSite stallTile) 0 0)) .sid).since = some 3
    ∧ engineRuns (settleBefore 0 (tileAt (onSite stallTile) 0 0)) .sid = true := by
  decide +kernel

/-- A clocked tile with RUN 0 is idle. -/
def idleTile : Tile := { Tile.reset with clkOn := true }
theorem witness_tileClockGate : siteOf (upMachine idleTile) 0 0 = some 0 ∧ stackOnNow (upMachine idleTile) 0 = true
    ∧ (tileAt (upMachine idleTile) 0 0).clkOn = true ∧ govWaits (upMachine idleTile) false 0 0 = false
    ∧ tget (settle 0 (tileAt (upMachine idleTile) 0 0)) TIL_CTL_GATE_EN = 1
    ∧ (settle 0 (tileAt (upMachine idleTile) 0 0)).clkOn = true
    ∧ tileIdle (ctxOf (upMachine idleTile) tile0) (settle 0 (tileAt (upMachine idleTile) 0 0)) = true := by
  decide +kernel
theorem witness_wakeRequest : siteOf (upMachine Tile.reset) 0 0 = some 0 ∧ stackOnNow (upMachine Tile.reset) 0 = true
    ∧ (tileAt (upMachine Tile.reset) 0 0).clkOn = false ∧ govWaits (upMachine Tile.reset) true 0 0 = false
    ∧ (tileAt (upMachine Tile.reset) 0 0).inReset = false ∧ tget (tileAt (upMachine Tile.reset) 0 0) TIL_CTL_FENCE ≠ 1
    ∧ (upMachine Tile.reset).pwr.stopping = false := by
  decide +kernel
def govMachine (start : Bool) (t : Tile) : State :=
  { upMachine t with pwr := { PowerSt.reset with queue := [⟨start, 0, 0, 0, false⟩] } }
theorem witness_clockStartGrant : siteOf (govMachine true Tile.reset) 0 0 = some 0
    ∧ govNext (elapseNs (govMachine true Tile.reset) 30) true = some ⟨true, 0, 0, 0, false⟩
    ∧ govRoom (elapseNs (govMachine true Tile.reset) 30) true (elapseNs (govMachine true Tile.reset) 30).pwr.starts = true := by
  decide +kernel
theorem witness_clockStopGrant : siteOf (govMachine false idleTile) 0 0 = some 0
    ∧ govNext (elapseNs (govMachine false idleTile) 30) false = some ⟨false, 0, 0, 0, false⟩
    ∧ govRoom (elapseNs (govMachine false idleTile) 30) false (elapseNs (govMachine false idleTile) 30).pwr.stops = true
    ∧ (govMachine false idleTile).pwr.stopping = false := by
  decide +kernel
theorem witness_tileControlBits : siteOf (upMachine Tile.reset) 0 0 = some 0 ∧ tileClosed (upMachine Tile.reset) 0 0 = false
    ∧ tget (settle 0 (tileAt (upMachine Tile.reset) 0 0)) TIL_CTL_RUN ≠ 1
    ∧ tget (settle 0 (tileAt (upMachine Tile.reset) 0 0)) TIL_CTL_FENCE ≠ 1 := by
  decide +kernel
/-- A tile with a Signal operation in flight. -/
def busyTile : Tile := { runTile with sigs := [⟨8, 0, .put, 0, 32, [], [], false⟩] }
theorem witness_srst : siteOf (upMachine busyTile) 0 0 = some 0 ∧ tileClosed (upMachine busyTile) 0 0 = false
    ∧ blockInside (upMachine busyTile) (tileBlock tile0) = true ∧ resetOf (upMachine busyTile) (tileBlock tile0) = none
    ∧ tile0.tile.toNat < 480 := by
  decide +kernel

/-! ### Packets, completions, timeouts -/

/-- Stack 0's DRAM is trained. -/
def dramMachine : State := let s := upMachine runTile; putStk s 0 { stkOf s 0 with dramReady := true }
/-- A packet to byte `off` of stack 0's DRAM, and one to that of tile 0's store. -/
def toDram (op : PktOp) (off len : Nat) (data : List Byte) : Packet :=
  ⟨op, BitVec.ofNat 64 off, .tile 0 tile0, 8, 0, len, data, .ok, false, [], false, none, false⟩
def toTile (op : PktOp) (off len : Nat) (data : List Byte) : Packet :=
  ⟨op, tileAddr 0 tile0 off, .tile 0 tile0, 8, 0, len, data, .ok, false, [], false, none, false⟩
theorem witness_packetAtDram : addrModule (toDram .put 64 32 []).dest = moduleNo dramMachine
    ∧ destOf dramMachine (toDram .put 64 32 []).dest 32 (toDram .put 64 32 []).src = .dram 0 64
    ∧ destOf dramMachine (toDram .put 64 32 []).dest (1 * 4) (toDram .put 64 32 []).src = .dram 0 64
    ∧ destOf dramMachine (toDram .put 64 32 []).dest (1 * 8) (toDram .put 64 32 []).src = .dram 0 64
    ∧ destOf dramMachine (toDram .put 64 32 []).dest (1 * 16) (toDram .put 64 32 []).src = .dram 0 64 := by
  decide +kernel
theorem witness_packetAtTile : addrModule (toTile .put 64 32 []).dest = moduleNo dramMachine
    ∧ destOf dramMachine (toTile .put 64 32 []).dest 32 (toTile .put 64 32 []).src = .tile tile0 64
    ∧ destOf dramMachine (toTile .put 64 32 []).dest (1 * 4) (toTile .put 64 32 []).src = .tile tile0 64
    ∧ destOf dramMachine (toTile .put 64 32 []).dest (1 * 8) (toTile .put 64 32 []).src = .tile tile0 64
    ∧ destOf dramMachine (toTile .put 64 32 []).dest (1 * 16) (toTile .put 64 32 []).src = .tile tile0 64
    ∧ siteOf dramMachine 0 0 = some 0 := by
  decide +kernel
/-- Stack 0's DRAM does not answer while it is not trained. -/
theorem witness_packetFenced : addrModule (toDram .put 64 32 []).dest = moduleNo (upMachine runTile)
    ∧ destOf (upMachine runTile) (toDram .put 64 32 []).dest 32 (toDram .put 64 32 []).src = .fenced := by
  decide +kernel
/-- The last byte a PUT can reach, and one byte further. -/
theorem witness_packetAtEnd : destOf dramMachine (toDram .put (dramSize - 32) 32 []).dest 32 (.tile 0 tile0) = .dram 0 (dramSize - 32)
    ∧ destOf dramMachine (toDram .put (dramSize - 31) 32 []).dest 32 (.tile 0 tile0) = .fenced := by
  decide +kernel
theorem witness_cas64 :
    dread dramMachine 0 64 8 = (toDram .cas64 64 8 (List.replicate 16 0)).data.take 8
    ∧ dread dramMachine 0 64 8 ≠ (toDram .cas64 64 8 (List.replicate 16 1)).data.take 8
    ∧ destOf dramMachine (toDram .cas64 64 8 []).dest 8 (.tile 0 tile0) = .dram 0 64
    ∧ destOf dramMachine (toTile .cas64 64 8 []).dest 8 (.tile 0 tile0) = .tile tile0 64
    ∧ sread (settle 0 (tileAt dramMachine 0 0)) 64 8 = (toTile .cas64 64 8 (List.replicate 16 0)).data.take 8
    ∧ sread (settle 0 (tileAt dramMachine 0 0)) 64 8 ≠ (toTile .cas64 64 8 (List.replicate 16 1)).data.take 8 := by
  decide +kernel
theorem witness_arrive_first_and_last :
    destOf dramMachine (toTile .arrive 0x7D000 0 []).dest 16 (.tile 0 tile0) = .tile tile0 0x7D000
    ∧ destOf dramMachine (toTile .arrive 0x7DF70 0 []).dest 16 (.tile 0 tile0) = .tile tile0 0x7DF70 := by
  decide +kernel
theorem witness_mput : ({ toDram .mput 0 32 [] with targets := [(3, 64)] } : Packet).targets = [(3, 64)]
    ∧ addrModule 64 = moduleNo dramMachine ∧ destOf dramMachine 64 32 (.tile 0 tile0) = .dram 0 64
    ∧ ∀ p ∈ [({ toDram .mput 0 32 [] with targets := [(3, 64)] } : Packet)],
      ((stkOf dramMachine (mcastRouter dramMachine p).1).mcasts.filter fun e => e.site == (mcastRouter dramMachine p).2).length < 2
      ∧ (stkOf dramMachine (mcastRouter dramMachine p).1).mcasts.contains ⟨(mcastRouter dramMachine p).2, p⟩ = false := by
  decide +kernel

/-- A Fetch transaction in flight under tag 2, and a Signal PUT under tag 8, both with TURN 1. -/
def waitingTile : Tile :=
  { runTile with
    fetches := [⟨⟨.fet, 5, 1, 0, 0, none⟩, 0, [], [(2, ⟨0, 64, 32⟩)], none, 0, [], false⟩]
    sigs := [⟨8, 0, .put, 0, 32, [], [], false⟩]
    turns := [(2, 1), (8, 1)] }
def completionTo (tag : BitVec 5) : Packet := ⟨.completion, tileAddr 0 tile0 0, .tile 0 tile0, tag, 1, 0, [], .ok, false, [], false, none, false⟩
theorem witness_completion_fetch :
    let s := upMachine waitingTile
    let p := completionTo 2
    let q := passBackAll { s with net := s.net.erase p } p
    addrModule p.dest = moduleNo s ∧ p.src = .tile 0 tile0 ∧ siteOf q.2 0 0 = some 0
      ∧ turnMatches (tileAt q.2 0 0) p.tag p.turn = true
      ∧ (fetchOf (settle q.2.cyc (tileAt q.2 0 0)) 2).isSome = true ∧ (fetchOf (tileAt q.2 0 0) 2).isSome = true
      ∧ branchFails (tileAt q.2 0 0) 2 = [] ∧ p = { p with status := .ok } := by
  decide +kernel
theorem witness_completion_signal :
    let s := upMachine waitingTile
    let p := completionTo 8
    let q := passBackAll { s with net := s.net.erase p } p
    turnMatches (tileAt q.2 0 0) p.tag p.turn = true ∧ fetchOf (settle q.2.cyc (tileAt q.2 0 0)) 8 = none
      ∧ (sigOf (settle q.2.cyc (tileAt q.2 0 0)) 8).any (fun o => o.open_.isEmpty) = true
      ∧ branchFails (tileAt q.2 0 0) 8 = [] := by
  decide +kernel
theorem witness_completion_stale :
    turnMatches (tileAt (passBackAll (upMachine runTile) (completionTo 2)).2 0 0) (completionTo 2).tag (completionTo 2).turn = false := by
  decide +kernel
theorem witness_endToEndTimeout : tagUsed (tileAt (upMachine waitingTile) 0 0) 2 = true
    ∧ turnMatches (tileAt (upMachine waitingTile) 0 0) 2 (BitVec.ofNat 4 (turnOf (tileAt (upMachine waitingTile) 0 0) 2)) = true := by
  decide +kernel
theorem witness_hopTimeout : isResponse (toDram .put 0 32 []) = false ∧ (toDram .put 0 32 []).op ≠ .mput
    ∧ isResponse (completionTo 2) = true := by
  decide +kernel

/-! ### Charts -/

/-- Walkers of stack 0 enabled, one command in the ring. -/
def ringMachine : State := rput (rset dramMachine 0 CHT_CTL_EN) 0 CHT_HEAD_HEAD 1
/-- A chart command of stack 0: word 0 and two arguments. -/
def chartArgs (w0 a0 a1 : Nat) : ChartArgs := ⟨0, BitVec.ofNat 64 w0, BitVec.ofNat 64 a0, BitVec.ofNat 64 a1, 0⟩
theorem witness_chartRing : ringReady ringMachine 0 = true ∧ chtReserved (chartArgs 0 0 0) = false
    ∧ chtReserved (chartArgs (2 ^ 22) 0 0) = true := by
  decide +kernel
/-- OPEN at the ends of its ranges, and one beyond each. -/
theorem witness_open :
    (chtCount (chartArgs (128 * 2 ^ 48) 0 256) ≤ 128 ∧ 0 < (chartArgs (128 * 2 ^ 48) 0 256).arg1.toNat
      ∧ (chartArgs (128 * 2 ^ 48) 0 256).arg1.toNat ≤ 256 ∧ (chartArgs (128 * 2 ^ 48) (2 ^ 40 - 64) 256).arg0.toNat % 64 = 0
      ∧ (chartArgs (128 * 2 ^ 48) (2 ^ 40 - 64) 256).arg0.toNat < 2 ^ 40)
    ∧ 128 < chtCount (chartArgs (129 * 2 ^ 48) 0 256) ∧ (chartArgs 0 0 0).arg1.toNat = 0
    ∧ 256 < (chartArgs 0 0 257).arg1.toNat ∧ (chartArgs 0 32 1).arg0.toNat % 64 ≠ 0 ∧ 2 ^ 40 ≤ (chartArgs 0 (2 ^ 40) 1).arg0.toNat := by
  decide +kernel
/-- MAP of a node that is not published, for a chart without tokens. -/
theorem witness_map_stale : (rootOf ringMachine 0 (chtContext (chartArgs 0 0 0))).toks = 0
    ∧ nodeState ringMachine 0 (chartArgs 0 0 0).arg0.toNat ≠ 2 := by
  decide +kernel
theorem witness_fork_range : 16384 ≤ (chartArgs 0 16384 0).arg0.toNat := by decide +kernel
theorem witness_page_range : (rootOf ringMachine 0 (chtContext (chartArgs 0 0 0))).ppl ≤ chtPage (chartArgs 0 0 0) := by
  decide +kernel
/-- ADV by one token, and by none, in a chart without pages. -/
theorem witness_adv : (16384 < (rootOf ringMachine 0 0).toks + chtCount (chartArgs (2 ^ 48) 0 0)
      ∨ 64 * (rootOf ringMachine 0 0).ppl < (rootOf ringMachine 0 0).toks + chtCount (chartArgs (2 ^ 48) 0 0))
    ∧ (rootOf ringMachine 0 0).toks + chtCount (chartArgs 0 0 0) ≤ 16384
    ∧ (rootOf ringMachine 0 0).toks + chtCount (chartArgs 0 0 0) ≤ 64 * (rootOf ringMachine 0 0).ppl := by
  decide +kernel
theorem witness_rutter : rutterOn ringMachine 0 = false ∧ rutterOn (rput ringMachine 0 RUT_CFG_K 10) 0 = true
    ∧ rutterOn (rput ringMachine 0 RUT_CFG_K 24) 0 = true ∧ rutterOn (rput ringMachine 0 RUT_CFG_K 25) 0 = false
    ∧ 256 < chtCount (chartArgs (257 * 2 ^ 48) 0 0)
    ∧ nodeState (rput ringMachine 0 RUT_CFG_K 10) 0 (chartArgs 0 0 0).arg0.toNat ≠ 2 := by
  decide +kernel
/-- FORK between blank charts, and a LOOKUP of no block. -/
theorem witness_fork_lookup : (rootOf ringMachine 0 0).layers = 0 ∧ (rootOf ringMachine 0 1).ppl = 0
    ∧ chtCount (chartArgs 0 0 0) = 0 ∧ chtCount (chartArgs (256 * 2 ^ 48) 0 0) ≤ 256 := by
  decide +kernel

/-! A chart area whose header places the descriptors at 0x1000 and the roots at 0x8000. The header's layout is a constant
without a body, so these witnesses take what it answers as a hypothesis. -/

/-- Context 0's chart: page list at 0x2000, `layers` layers, one page a layer, `toks` tokens. -/
def chartMachine (layers toks : Nat) : State :=
  putCword (putCword (rput (rput ringMachine 0 RUT_CFG_K 10) 0 RUT_BUCKETS_OFFSET 16) 0 0x8000
    (0x2000 + layers * 2 ^ 40 + 2 ^ 48)) 0 0x8008 toks
/-- The same with frame 5 in its only place, which nothing else refers to. -/
def frameMachine : State :=
  putCword (putCword (putCword (chartMachine 1 64) 0 0x2000 (5 + 2 ^ 40)) 0 0x1050 5) 0 0x1058 (1 + 2 ^ 55)
/-- A published node at 0x20000, of depth 0. -/
def nodeMachine (s : State) : State := putCword s 0 0x20020 2
theorem witness_chartPages (h : ∀ bs, Config.chartHeader bs = [1024, 0x100000, 0x1000, 0x8000]) :
    (rootOf (chartMachine 1 64) 0 0).layers = 1 ∧ chtPage (chartArgs 0 0 0) < (rootOf (chartMachine 1 64) 0 0).ppl
    ∧ (getPle (chartMachine 1 64) 0 (rootOf (chartMachine 1 64) 0 0) 0 0).v = false
    ∧ (getPle frameMachine 0 (rootOf frameMachine 0 0) 0 0).v = true
    ∧ pleStale frameMachine 0 (getPle frameMachine 0 (rootOf frameMachine 0 0) 0 0) = false
    ∧ bitsOf (desc0 frameMachine 0 5) 0 24 = 5 ∧ (getPle frameMachine 0 (rootOf frameMachine 0 0) 0 0).frame = 5
    ∧ descRef (desc1 frameMachine 0 5) = 1 ∧ descPub (desc1 frameMachine 0 5) = false
    ∧ (pinUp frameMachine 0 5 (getPle frameMachine 0 (rootOf frameMachine 0 0) 0 0).gen).isSome = true
    ∧ (stkOf frameMachine 0).helmPins < 1024 := by
  simp only [rootOf, getPle, pleAt, pleStale, genHolds, pinUp, putDesc1, desc0, desc1, rootTable, descTable, chartFacts, h]
  decide +kernel
theorem witness_map (h : ∀ bs, Config.chartHeader bs = [1024, 0x100000, 0x1000, 0x8000]) :
    let s := nodeMachine (chartMachine 0 0)
    (rootOf s 0 0).toks = 0 ∧ nodeChain s 0 256 0x20000 = some [0x20000] ∧ [0x20000].length ≤ (rootOf s 0 0).ppl
    ∧ ([0x20000].foldl (mapNode 0 0 (rootOf s 0 0)) (some s)).isSome = true := by
  simp only [rootOf, rootTable, chartFacts, h]
  decide +kernel
theorem witness_evict : rutterOn (nodeMachine (chartMachine 0 0)) 0 = true
    ∧ nodeChildren (nodeMachine (chartMachine 0 0)) 0 0x20000 = 0 ∧ nodeState (nodeMachine (chartMachine 0 0)) 0 0x20000 = 2 := by
  decide +kernel
/-- INSERT of the first block, whose tokens are zeros, of a chart without layers. -/
theorem witness_insert (h : ∀ bs, Config.chartHeader bs = [1024, 0x100000, 0x1000, 0x8000]) :
    let s := chartMachine 0 64
    let toks := wordsOf (dread s 0 0x40000 256)
    let z := blockHash 0 toks
    64 * (0 + 1) ≤ (rootOf s 0 0).toks ∧ 0 < (rootOf s 0 0).ppl ∧ (findNode s 0 z 0 0 0 toks).2 = none
    ∧ ((List.range 8).find? fun i => cword s 0 (bucketAt s 0 z + 8 * i) == 0) = some 0
    ∧ (writeNode s 0 (rootOf s 0 0) (bucketAt s 0 z) z 0 0 0 toks).isSome = true := by
  simp only [rootOf, rootTable, chartFacts, h]
  refine ⟨by decide +kernel, by decide +kernel, by decide +kernel, by decide +kernel, ?_⟩
  rfl
theorem witness_walkerControls : chtReach dramMachine 0 = true ∧ 0 < dramMachine.stk.length
    ∧ (stkOf dramMachine 0).framesInit = false := by
  decide +kernel

/-! ### Serving -/

/-- A machine whose Helm of stack 0 leads and processes descriptors. -/
def leadMachine : State := rset (rset dramMachine 0 HLM_STATUS_LEAD) 0 HLM_CTL_EN
/-- A line at address `a` with field values by byte offset; HSEQ is 1. -/
def lineAt (a : Nat) (l : List (Nat × Nat)) : Line :=
  ⟨BitVec.ofNat 48 a, BitVec.ofNat 512 (l.foldl (fun v q => v + q.2 * 2 ^ (8 * q.1)) (2 ^ 32))⟩
/-- A schedule of tile 0 on stack 0 for this module, and an image of model 7 with it. -/
def schedule : Schedule := ⟨[], [⟨tile0, [], [], [], false⟩], [⟨0, 1, 0, [], 0, 0, 0, [], [], []⟩], [], 1, 0, 0, 0, [], [0]⟩
def image : BerthImage := ⟨(1, 7, 0xFFFF), 0, 3, 0, schedule, none, none, [], [], 0⟩
/-- Berth 0 enabled with that image. -/
def berthMachine : State :=
  putBerthState (putBerth leadMachine 0 { Berth.reset with image := some image }) 0 1
/-- A SUBMIT of model 7 with one token and no adapter, and one whose PLEN is 0. -/
def submitLine (plen : Nat) : Line :=
  lineAt 0x1000 [(0, 1), (8, 5), (24, plen), (28, 1), (40, 7), (42, 0xFFFF), (44, 0xFFFFFFFF)]
theorem witness_submit : machineSafe berthMachine = true ∧ newLine berthMachine (submitLine 1) = true ∧ dKind (submitLine 1) = 1
    ∧ submitCode (observed berthMachine (submitLine 1)) (submitLine 1) = none
    ∧ freeContext (observed berthMachine (submitLine 1)) = some 0 := by
  decide +kernel
theorem witness_submit_refused : newLine berthMachine (submitLine 0) = true ∧ dKind (submitLine 0) = 1
    ∧ submitCode (observed berthMachine (submitLine 0)) (submitLine 0) = some 3
    ∧ submitCode (observed leadMachine (submitLine 1)) (submitLine 1) = some 4 := by
  decide +kernel
def cancelLine : Line := lineAt 0x1000 [(0, 2), (8, 5)]
def ctxMachine : State := putCtx berthMachine 9 (some (newContext berthMachine (submitLine 1) [4]))
theorem witness_cancel : newLine ctxMachine cancelLine = true ∧ dKind cancelLine = 2
    ∧ (cancelTarget (observed ctxMachine cancelLine) (dReqid cancelLine)).isSome = true
    ∧ cancelTarget (observed berthMachine cancelLine) (dReqid cancelLine) = none
    ∧ newLine (markLine ctxMachine cancelLine) cancelLine = false := by
  decide +kernel

/-- ADAPTER_PUBLISH of adapter 4095 in version slot 2, which is STAGED while slot 1 is CURRENT. -/
def publishLine (berth adapter : Nat) : Line := lineAt 0x1000 [(0, 3), (2, berth), (42, adapter), (44, 2)]
def adapterMachine : State :=
  putCurrent (putVslot (putVslot berthMachine 2 ⟨.staged, 4095, 7, 1⟩) 1 ⟨.current, 4095, 7, 0⟩) 4095 (some 1)
theorem witness_publish :
    let l := publishLine 0 4095
    let s1 := observed adapterMachine l
    newLine adapterMachine l = true ∧ dKind l = 3 ∧ dBerth l < 16 ∧ dAdapter l ≤ 4095 ∧ berthState s1 (dBerth l) = 1
      ∧ vslotAt s1 (dStop l) = some ⟨.staged, 4095, 7, 1⟩ ∧ dAdapter l = 4095
      ∧ (berthOf s1 (dBerth l)).image = some image ∧ image.name.2.1 = 7
      ∧ currentSlot s1 (dAdapter l) = some 1 ∧ (1 ≠ dStop l) ∧ vslotAt s1 1 = some ⟨.current, 4095, 7, 0⟩ := by
  decide +kernel
theorem witness_publish_refused : 16 ≤ dBerth (publishLine 16 4095) ∧ 4095 < dAdapter (publishLine 15 4096)
    ∧ newLine adapterMachine (publishLine 15 4095) = true ∧ dBerth (publishLine 15 4095) < 16
    ∧ berthState (observed adapterMachine (publishLine 15 4095)) 15 ≠ 1 := by
  decide +kernel
def retireLine (adapter : Nat) : Line := lineAt 0x1000 [(0, 4), (42, adapter)]
theorem witness_retire : newLine adapterMachine (retireLine 4095) = true ∧ dKind (retireLine 4095) = 4
    ∧ currentSlot (observed adapterMachine (retireLine 4095)) 4095 = some 1
    ∧ currentSlot (observed adapterMachine (retireLine 4094)) 4094 = none := by
  decide +kernel
def disableLine (berth : Nat) : Line := lineAt 0x1000 [(0, 5), (2, berth)]
theorem witness_disable : newLine berthMachine (disableLine 0) = true ∧ dKind (disableLine 0) = 5 ∧ dBerth (disableLine 0) < 16
    ∧ berthState (observed berthMachine (disableLine 0)) 0 = 1 ∧ 16 ≤ dBerth (disableLine 16)
    ∧ dBerth (disableLine 15) < 16 ∧ berthState (observed berthMachine (disableLine 15)) 15 ≠ 1 := by
  decide +kernel
theorem witness_watchNotice : leadOf leadMachine ≠ none ∧ (lineAt 1088 []).addr.toNat % 64 = 0
    ∧ (watchedLines leadMachine).contains (lineAt 1088 []).addr.toNat = true := by
  decide +kernel
theorem witness_returnLine : ∀ b, b < 16 → (berthOf leadMachine b).held = [] := by decide +kernel
theorem witness_helmEn : leadOf leadMachine = some 0 ∧ ron leadMachine 0 HLM_CTL_EN = true
    ∧ leadOf (rset dramMachine 0 HLM_STATUS_LEAD) = some 0 ∧ ron (rset dramMachine 0 HLM_STATUS_LEAD) 0 HLM_CTL_EN = false := by
  decide +kernel

/-- Berth 0 with a field of it changed. -/
def withBerth (f : Berth → Berth) : State := putBerth berthMachine 0 (f (berthOf berthMachine 0))
theorem witness_stepBoundary_debt : machineSafe (withBerth fun b => { b with debt := 100 }) = true
    ∧ berthState (withBerth fun b => { b with debt := 100 }) 0 = 1
    ∧ (berthOf (withBerth fun b => { b with debt := 100 }) 0).step = .idle
    ∧ (berthOf (withBerth fun b => { b with debt := 100 }) 0).rptwait = false
    ∧ loadsHalted (withBerth fun b => { b with debt := 100 }) 0 = true
    ∧ 100 ≤ (berthOf (withBerth fun b => { b with debt := 100 }) 0).debt := by
  decide +kernel
theorem witness_stepBoundary : (berthOf (withBerth fun b => { b with debt := 99 }) 0).debt < 100
    ∧ berthState (withBerth fun b => { b with debt := 99 }) 0 = 1
    ∧ (berthOf (withBerth fun b => { b with debt := 99 }) 0).step = .idle
    ∧ loadsHalted (withBerth fun b => { b with debt := 99 }) 0 = true
    ∧ berthState (shapeBerth (withBerth fun b => { b with debt := 99 }) 0) 0 = 1
    ∧ loadsHalted (shapeBerth (withBerth fun b => { b with debt := 99 }) 0) 0 = true := by
  decide +kernel
/-- One arrival of the one that its stack's counter expects. -/
def runningMachine : State := putCounter (withBerth fun b => { b with step := .running 5 }) 0 32 ⟨1, 1, 0⟩
theorem witness_stackCommitRelease : (berthOf runningMachine 0).step = .running 5
    ∧ (helmCounter runningMachine 0 32).expect ≤ (helmCounter runningMachine 0 32).count
    ∧ (berthStacks runningMachine 0).contains 0 = true ∧ (berthOf runningMachine 0).released.contains 0 = false := by
  decide +kernel
def arrivedMachine : State := putCounter (withBerth fun b => { b with step := .running 5, arrived := true }) 0 0 ⟨1, 1, 0⟩
theorem witness_commitPoint : (berthOf arrivedMachine 0).step = .running 5 ∧ hostModule arrivedMachine 0 = moduleNo arrivedMachine
    ∧ (berthOf arrivedMachine 0).arrived = true
    ∧ (helmCounter arrivedMachine (leadStk arrivedMachine) 0).expect ≤ (helmCounter arrivedMachine (leadStk arrivedMachine) 0).count := by
  decide +kernel
/-- The same in module 3 of a berth whose host module is 0. -/
theorem witness_releaseRecord : hostModule (rput arrivedMachine 0 FLT_MOD_NUMBER 3) 0 ≠ moduleNo (rput arrivedMachine 0 FLT_MOD_NUMBER 3)
    ∧ (berthOf (rput arrivedMachine 0 FLT_MOD_NUMBER 3) 0).step = .running 5
    ∧ (berthOf (rput arrivedMachine 0 FLT_MOD_NUMBER 3) 0).arrived = true := by
  decide +kernel
def endingMachine : State := putBerthState (withBerth fun b => { b with disableAt := some 0, step := .running 5 }) 0 2
theorem witness_stepTimeout : (berthOf endingMachine 0).disableAt = some 0 ∧ (berthOf endingMachine 0).step ≠ .idle ∧ berthState endingMachine 0 = 2
    ∧ (watchNo endingMachine - 0).toNat < 2 ^ 31 ∧ machineSafe endingMachine = true := by
  decide +kernel

/-! ### Images -/

/-- A line of the image store for operation `op` on slot `slot` of model 7, with length and offset. -/
def imgLine (op slot len off : Nat) : Line := lineAt 1088 [(0, op), (1, 1), (2, slot), (8, 7), (10, 0xFFFF), (24, off), (32, len)]
def imgName : Nat × Nat × Nat := (1, 7, 0xFFFF)
/-- Slot A of model 7 in a state, with 8 KiB of no bytes. -/
def imgMachine (st : SlotState) : State :=
  putSlotData (putCat leadMachine ⟨imgName, 0, st, 0, 8192, 0, 0, 0⟩) imgName 0 (some ⟨[], []⟩)
theorem witness_programBegin : seqRoom leadMachine ∧ seqRoom (imgMachine .active)
    ∧ imageLine leadMachine (imgLine 1 1 8192 0) 1 ∧ lineSlot (imgLine 1 1 8192 0) < 2
    ∧ lineName (imgLine 1 1 8192 0) = imgName
    ∧ slotState (imageTaken leadMachine (imgLine 1 1 8192 0) 1) imgName 1 ≠ .active
    ∧ storeUsed (imageTaken leadMachine (imgLine 1 1 8192 0) 1) imgName 1 + lineField (imgLine 1 1 8192 0) 32 8 ≤ 2 ^ 44
    ∧ (storeNames (imageTaken leadMachine (imgLine 1 1 8192 0) 1)).length < 8192
    ∧ slotState (imageTaken (imgMachine .active) (imgLine 1 0 8192 0) 1) imgName 0 = .active := by
  unfold imageLine seqRoom; decide +kernel
theorem witness_programChunk : imageLine (imgMachine .incomplete) (imgLine 2 0 4096 4096) 2
    ∧ (catOf (imageTaken (imgMachine .incomplete) (imgLine 2 0 4096 4096) 2) imgName 0).isSome = true
    ∧ (slotData (imageTaken (imgMachine .incomplete) (imgLine 2 0 4096 4096) 2) imgName 0).isSome = true
    ∧ slotState (imageTaken (imgMachine .incomplete) (imgLine 2 0 4096 4096) 2) imgName 0 = .incomplete
    ∧ lineField (imgLine 2 0 4096 4096) 24 8 % 4096 = 0 ∧ lineField (imgLine 2 0 4096 4096) 32 8 ≤ 2 ^ 26
    ∧ lineField (imgLine 2 0 4096 4096) 24 8 + lineField (imgLine 2 0 4096 4096) 32 8 ≤ 8192
    ∧ imageLine (imgMachine .incomplete) (imgLine 2 0 4096 4095) 2 ∧ lineField (imgLine 2 0 4096 4095) 24 8 % 4096 ≠ 0 := by
  unfold imageLine; decide +kernel
/-- PROGRAM_END of a slot of which index 0, the lowest there is, is not covered. -/
theorem witness_programEnd_uncovered : imageLine (imgMachine .incomplete) (imgLine 3 0 0 0) 3
    ∧ (0, 4096) ∈ storedNeeds (memReader []) 0 ∧ mapGet (fun _ => 0) (SlotData.covered ⟨[], []⟩) 0 < 4096
    ∧ seqRoom (imgMachine .incomplete) := by
  unfold imageLine seqRoom; decide +kernel
theorem witness_activate : imageLine (imgMachine .verified) (imgLine 4 0 0 0) 4
    ∧ slotUsable (imageTaken (imgMachine .verified) (imgLine 4 0 0 0) 4) imgName 0 = true
    ∧ slotUsable (imageTaken (imgMachine .incomplete) (imgLine 4 0 0 0) 4) imgName 0 = false := by
  unfold imageLine; decide +kernel
theorem witness_erase : imageLine (imgMachine .active) (imgLine 5 0 0 0) 5
    ∧ slotState (imageTaken (imgMachine .active) (imgLine 5 0 0 0) 5) imgName 0 = .active
    ∧ slotState (imageTaken (imgMachine .verified) (imgLine 5 0 0 0) 5) imgName 0 ≠ .active := by
  unfold imageLine; decide +kernel
theorem witness_bootset : imageLine (imgMachine .active) (imgLine 9 2 0 0) 9
    ∧ resolveSlot (imageTaken (imgMachine .active) (imgLine 9 2 0 0) 9) imgName 2 = some 0
    ∧ lineField (imgLine 9 2 0 0) 1 1 = 1
    ∧ slotUsable (imageTaken (imgMachine .active) (imgLine 9 2 0 0) 9) imgName 0 = true
    ∧ resolveSlot (imageTaken (imgMachine .active) (imgLine 9 1 0 0) 9) imgName 1 = some 1
    ∧ slotUsable (imageTaken (imgMachine .active) (imgLine 9 1 0 0) 9) imgName 1 = false := by
  unfold imageLine; decide +kernel
/-- LOAD into an enabled berth, and of a slot that is not usable into a disabled one. -/
theorem witness_load_refused : imageLine (imgMachine .incomplete) (imgLine 6 0 0 0) 6
    ∧ resolveSlot (imageTaken (imgMachine .incomplete) (imgLine 6 0 0 0) 6) imgName 0 = some 0
    ∧ berthState (imageTaken (imgMachine .incomplete) (imgLine 6 0 0 0) 6) 0 = 0
    ∧ (catOf (imageTaken (imgMachine .incomplete) (imgLine 6 0 0 0) 6) imgName 0).isSome = true
    ∧ (slotData (imageTaken (imgMachine .incomplete) (imgLine 6 0 0 0) 6) imgName 0).isSome = true
    ∧ slotUsable (imageTaken (imgMachine .incomplete) (imgLine 6 0 0 0) 6) imgName 0 = false
    ∧ imageLine berthMachine (imgLine 6 0 0 0) 6 ∧ berthState (imageTaken berthMachine (imgLine 6 0 0 0) 6) 0 = 1 := by
  unfold imageLine; decide +kernel
/-- REPLACE of a berth that has an image and is not enabled. -/
def replaceMachine : State := putBerth (imgMachine .verified) 0 { Berth.reset with image := some image }
theorem witness_replace_refused : imageLine replaceMachine (imgLine 8 0 0 0) 8
    ∧ (berthOf (imageTaken replaceMachine (imgLine 8 0 0 0) 8) 0).image = some image
    ∧ (catOf (imageTaken replaceMachine (imgLine 8 0 0 0) 8) imgName 0).isSome = true
    ∧ (slotData (imageTaken replaceMachine (imgLine 8 0 0 0) 8) imgName 0).isSome = true
    ∧ berthState (imageTaken replaceMachine (imgLine 8 0 0 0) 8) 0 ≠ 1 := by
  unfold imageLine; decide +kernel
/-- STAGE_ADAPTER into version slot 0, which is taken, of one that COUNT allows. -/
def stageMachine : State := rput (putVslot (imgMachine .verified) 0 ⟨.staged, 1, 7, 1⟩) 0 HLM_ADP_CFG_COUNT 1
theorem witness_stageAdapter_refused : imageLine stageMachine (imgLine 7 0 0 0) 7
    ∧ resolveSlot (imageTaken stageMachine (imgLine 7 0 0 0) 7) imgName 0 = some 0
    ∧ lineField (imgLine 7 0 0 0) 12 2 < rget (imageTaken stageMachine (imgLine 7 0 0 0) 7) 0 HLM_ADP_CFG_COUNT
    ∧ vslotAt (imageTaken stageMachine (imgLine 7 0 0 0) 7) 0 ≠ none := by
  unfold imageLine; decide +kernel

/-! ### Fleet ports and discovery -/

/-- Port 0 enabled and in state `st`. -/
def portMachine (st : Nat) : State := pput (pput dramMachine 0 FLT_PORT_EN 1) 0 FLT_PORT_STATE st
theorem witness_receiverDetect : machineSafe (portMachine 0) = true ∧ portReach (portMachine 0) 0 = true
    ∧ pget (portMachine 0) 0 FLT_PORT_EN = 1 ∧ pget (portMachine 0) 0 FLT_PORT_STATE = 0 ∧ (portOf (portMachine 0) 0).locked = false := by
  decide +kernel
theorem witness_portStates : pget (portMachine 1) 0 FLT_PORT_STATE = 1 ∧ pget (portMachine 2) 0 FLT_PORT_STATE = 2
    ∧ pget (portMachine 3) 0 FLT_PORT_STATE = 3 ∧ pget (portMachine 4) 0 FLT_PORT_STATE = 4
    ∧ machineSafe (portMachine 1) = true ∧ machineSafe (portMachine 3) = true ∧ machineSafe (portMachine 4) = true := by
  decide +kernel
/-- The second and the third failed attempt. -/
def attempted (n : Nat) : State := putPort (portMachine 3) 0 { PortSt.reset with attempts := n }
theorem witness_trainingLimit : (portOf (attempted 1) 0).attempts < 2 ∧ (portOf (attempted 1) 0).retrain = false
    ∧ 1 ≤ pget (attempted 1) 0 FLT_PORT_STATE ∧ pget (attempted 1) 0 FLT_PORT_STATE ≤ 3
    ∧ 2 ≤ (portOf (attempted 2) 0).attempts ∧ (portOf (attempted 2) 0).retrain = false
    ∧ pget (attempted 2) 0 FLT_PORT_STATE = 3 ∧ machineSafe (attempted 2) = true := by
  decide +kernel
/-- This module has serial 9, revisions 1 to 2, and epoch 5. -/
def identMachine : State :=
  let s := rput (rput (rput (portMachine 3) 0 FLT_REV_REVMIN 1) 0 FLT_REV_REVMAX 2) 0 CHR_EPOCH_EPOCH 5
  { s with lsr := { s.lsr with fuses := { s.lsr.fuses with serial := 9 } } }
def ident (serial : Dword) (lo hi epoch : BitVec 8) : Identity := ⟨serial, 0, 0, 0, lo, hi, epoch⟩
theorem witness_identityFrame : pget identMachine 0 FLT_PORT_STATE = 3 ∧ (ident 9 1 2 5).serial = identMachine.lsr.fuses.serial
    ∧ (ident 8 3 3 5).serial ≠ identMachine.lsr.fuses.serial
    ∧ min (ident 8 3 3 5).revMax.toNat (rget identMachine 0 FLT_REV_REVMAX)
        < max (ident 8 3 3 5).revMin.toNat (rget identMachine 0 FLT_REV_REVMIN)
    ∧ max (ident 8 2 3 6).revMin.toNat (rget identMachine 0 FLT_REV_REVMIN)
        ≤ min (ident 8 2 3 6).revMax.toNat (rget identMachine 0 FLT_REV_REVMAX)
    ∧ rget identMachine 0 CHR_EPOCH_EPOCH ≠ 0 ∧ (ident 8 2 3 6).epoch.toNat ≠ 0
    ∧ rget identMachine 0 CHR_EPOCH_EPOCH ≠ (ident 8 2 3 6).epoch.toNat
    ∧ rget identMachine 0 CHR_EPOCH_EPOCH = (ident 8 2 3 5).epoch.toNat ∧ machineSafe identMachine = true := by
  decide +kernel
/-- A header flit of operation `op` and `n` flits. -/
def headerFlit (op n : Byte) : List Byte := List.replicate 13 0 ++ [op, 0, n] ++ List.replicate 240 0
/-- A frame with the flit and trailer [31:0] given, its CRC right or not. -/
def frameOf (seq : Nat) (flit : List Byte) (good : Bool) : Frame :=
  ⟨flit, BitVec.ofNat 64 (seq + 2 ^ 32 * ((crc32c (flit ++ leBytes 4 seq)).toNat + (if good then 0 else 1))), 0⟩
theorem witness_fleetFrame : frameGood (frameOf 0 [1, 2] false) = false ∧ (frameOf 0 [1, 2] false).fecLanes = 0
    ∧ frameGood (frameOf 1 [1, 2] true) = true ∧ (frameOf 1 [1, 2] true).trailer.toNat % 4096 ≠ (portOf (portMachine 4) 0).rxSeq
    ∧ frameGood (frameOf 0 [1, 2] true) = true ∧ (frameOf 0 [1, 2] true).trailer.toNat % 4096 = (portOf (portMachine 4) 0).rxSeq
    ∧ headPacket 0 ((portOf (portMachine 4) 0).flits ++ [headerFlit 0 2]) = none
    ∧ headPacket 0 ((portOf (portMachine 4) 0).flits ++ [headerFlit 14 1]) = some (none, []) := by
  decide +kernel
/-- A PUT of 0 bytes in one flit makes a packet. -/
theorem witness_fleetFrame_packet :
    ((headPacket 0 ((portOf (portMachine 4) 0).flits ++ [headerFlit 0 1])).map fun q => (q.1.map fun p => p.op, q.2))
      = some (some .put, []) := by
  decide +kernel
theorem witness_fltLock : portReach dramMachine 0 = true ∧ portReach dramMachine (4 * (3 : BitVec 2).toNat) = true := by decide +kernel

def hailRec (serial : Dword) (round : BitVec 8) : HailRec := ⟨serial, 0, 0, 1, 1, round, []⟩
/-- Discovery in ROUND 2, with the record of serial 1. -/
def discMachine : State :=
  let s := rput (rput (rset (portMachine 4) 0 FLT_CTL_FLEET_EN) 0 FLT_STATUS_ROUND 2) 0 FLT_STATUS_DISC 2
  { s with fleet := { s.fleet with hails := [hailRec 1 2] } }
theorem witness_fleetEnable : fleetOn (portMachine 4) = false ∧ portReach discMachine 0 = true ∧ fleetOn discMachine = true
    ∧ 1024 ≤ ({ discMachine with fleet := { discMachine.fleet with hails := List.replicate 1024 (hailRec 1 2) } }).fleet.hails.length := by
  decide +kernel
theorem witness_hail : pget discMachine 0 FLT_PORT_STATE = 4 ∧ (hailRec 1 1).round.toNat < rget discMachine 0 FLT_STATUS_ROUND
    ∧ (hailRec 1 2).round.toNat = rget discMachine 0 FLT_STATUS_ROUND ∧ rget discMachine 0 FLT_STATUS_DISC = 2
    ∧ (discMachine.fleet.hails.any fun x => x.serial == (hailRec 1 2).serial) = true
    ∧ (discMachine.fleet.hails.any fun x => x.serial == (hailRec 3 2).serial) = false
    ∧ discMachine.fleet.hails.length < 1024 ∧ rget discMachine 0 FLT_STATUS_ROUND < (hailRec 1 3).round.toNat := by
  decide +kernel
/-- The lowest serial is another module's, and this module's own (0 in blank fuses). -/
theorem witness_discoverySettle :
    (∀ q, q < 16 → pget discMachine q FLT_PORT_STATE = 0 ∨ 4 ≤ pget discMachine q FLT_PORT_STATE)
    ∧ viewSerials (elapseToTick discMachine 10000000) = [1] ∧ (1 : Dword) ≠ ownSerial (elapseToTick discMachine 10000000)
    ∧ ownSerial (elapseToTick { discMachine with fleet := { discMachine.fleet with hails := [hailRec 0 2] } } 10000000) = 0 := by
  decide +kernel
def numbersRec (crc : Word) : NumbersRec := ⟨[(1, 0)], 1, 2, crc⟩
theorem witness_numbers : (numbersRec 0).round.toNat = rget discMachine 0 FLT_STATUS_ROUND
    ∧ (numbersRec (serialCrc (viewSerials discMachine))).crc = serialCrc (viewSerials discMachine)
    ∧ (numbersRec 0).crc ≠ serialCrc (viewSerials discMachine) := by
  decide +kernel

/-! ### Register accesses, windows, reports -/

/-! The count of a flit leaves what a register access, a window and a report look at. -/

/-- It leaves every register beyond those of the routing block. -/
theorem rget_crossFlits (s : State) (k y ch n j : Nat) (f : Fld) (i : Nat) (h : 0x400 ≤ f.off + f.stride * i)
    (h1 : f.off + f.stride * i < 2 ^ 21) : rget (crossFlits s k y ch n) j f i = rget s j f i := by
  have hr : rword (crossFlits s k y ch n) j (f.off + f.stride * i) = rword s j (f.off + f.stride * i) := by
    apply crossFlits_rword
    intro x o ho
    have h2 : ∀ o ∈ flitRegs, o < 0x400 := by decide
    have := h2 o ho
    simp only [regKey]
    omega
  simp only [rget, hr]
theorem siteOf_crossFlits (s : State) (k y ch n j l : Nat) (h : l < 1024 := by decide) :
    siteOf (crossFlits s k y ch n) j l = siteOf s j l := by
  apply siteOf_of_rword
  apply crossFlits_rword
  intro x o ho
  have h2 : ∀ o ∈ flitRegs, o < 0x400 := by decide
  have := h2 o ho
  simp only [regKey]
  omega
theorem berthOfTile_crossFlits (s : State) (k y ch n : Nat) (r : TileRef) :
    berthOfTile (crossFlits s k y ch n) r = berthOfTile s r := by
  simp only [berthOfTile, berthTiles, crossFlits_serve]
theorem tileAt_crossFlits (s : State) (k y ch n j site : Nat) : tileAt (crossFlits s k y ch n) j site = tileAt s j site := by
  simp only [tileAt, crossFlits_tiles]
theorem moduleNo_crossFlits (s : State) (k y ch n : Nat) : moduleNo (crossFlits s k y ch n) = moduleNo s := by
  simp only [moduleNo, rget_crossFlits _ _ _ _ _ _ FLT_MOD_NUMBER 0 (by decide) (by decide)]
theorem leadStk_crossFlits (s : State) (k y ch n : Nat) : leadStk (crossFlits s k y ch n) = leadStk s := by
  simp only [leadStk, leadOf, ron, rget_crossFlits _ _ _ _ _ _ HLM_STATUS_LEAD 0 (by decide) (by decide)]
theorem stackOnNow_crossFlits (s : State) (k y ch n j : Nat) : stackOnNow (crossFlits s k y ch n) j = stackOnNow s j := by
  simp only [stackOnNow, ron, rget_crossFlits _ _ _ _ _ _ PWR_STK_CTL_ON 0 (by decide) (by decide)]
theorem regSource_crossFlits (s : State) (k y ch n : Nat) (src : Source) : regSource (crossFlits s k y ch n) src = regSource s src := by
  cases src <;> simp only [regSource, moduleNo_crossFlits, baseReach, wrapperClosed, resetOf, linkActive,
    rget_crossFlits _ _ _ _ _ _ LNK_STATUS_STATE 0 (by decide) (by decide), crossFlits_rst]
theorem regOpen_crossFlits (s : State) (k y ch n : Nat) (src : Source) (j off : Nat) :
    regOpen (crossFlits s k y ch n) src j off = regOpen s src j off := by
  simp only [regOpen, regSource_crossFlits, stackOnNow_crossFlits, blockOpen, baseReach, chtReach, chrReach, islandUp,
    wrapperClosed, resetOf, crossFlits_rst]
theorem tileRegSite_crossFlits (s : State) (k y ch n : Nat) (src : Source) (off : Nat) :
    tileRegSite (crossFlits s k y ch n) src tile0 off = tileRegSite s src tile0 off := by
  simp only [tileRegSite, siteOf_crossFlits _ _ _ _ _ _ tile0.tile.toNat, regSource_crossFlits, tileClosed, tileAt_crossFlits,
    stackOnNow_crossFlits, tilesReleased, crossFlits_rst]
  rfl
theorem crcStaged_crossFlits (s : State) (k y ch n : Nat) (d : Option Dword) :
    crcStaged (crossFlits s k y ch n) d = crcStaged s d := by
  simp only [crcStaged, moduleNo_crossFlits, imagesAt, berthImages, berthOf, areaBase, areaSize, leadStk_crossFlits, versionsAt,
    vslotBase, crossFlits_serve, rget_crossFlits _ _ _ _ _ _ HLM_IMG_AREA_LO_BASE 0 (by decide) (by decide),
    rget_crossFlits _ _ _ _ _ _ HLM_IMG_AREA_HI_BASE 0 (by decide) (by decide),
    rget_crossFlits _ _ _ _ _ _ HLM_IMG_AREASZ_AREASZ 0 (by decide) (by decide),
    rget_crossFlits _ _ _ _ _ _ HLM_ADP_BASE_LO_BASE 0 (by decide) (by decide),
    rget_crossFlits _ _ _ _ _ _ HLM_ADP_BASE_HI_BASE 0 (by decide) (by decide),
    rget_crossFlits _ _ _ _ _ _ HLM_ADP_CFG_SIZE 0 (by decide) (by decide)]
  rfl
theorem tileClass_crossFlits (s : State) (k y ch n : Nat) (t : Tile) : tileClass (crossFlits s k y ch n) t = tileClass s t := by
  simp only [tileClass, crcStaged_crossFlits]

theorem countFlits_cross (s : State) (k ch n : Nat) (h : crossedStacks 4 k k = [] := by decide) :
    countFlits s k ch n = crossFlits s k k ch n := by
  unfold crossFlits; rw [h]; rfl

/-- A read/write field, a lockable one, a read-only one, one cleared and one set by writing 1, at their words. -/
theorem witness_accessCodes : CHR_CTL_MODE ∈ blockFields 0x40000 ∧ fldIndex CHR_CTL_MODE 0x40000 = some 0
    ∧ TIL_CTL_RUN ∈ tileFields ∧ fldIndex TIL_CTL_RUN 0 = some 0
    ∧ (∃ f ∈ tileFields, f.acc = .rw ∧ (fldIndex f f.off).isSome) ∧ (∃ f ∈ tileFields, f.acc = .rwl ∧ (fldIndex f f.off).isSome)
    ∧ (∃ f ∈ tileFields, f.acc = .ro ∧ (fldIndex f f.off).isSome) ∧ (∃ f ∈ blockFields 0x40000, f.acc = .w1c ∧ (fldIndex f f.off).isSome)
    ∧ (∃ f ∈ tileFields, f.acc = .w1s ∧ (fldIndex f f.off).isSome) := by
  decide +kernel
/-- Vilger Link is ACTIVE, so that the companion reaches the registers. -/
def linkedMachine : State := rput dramMachine 0 LNK_STATUS_STATE 5
theorem witness_registerAccess (w : Bool) : regOpen (accessFlit linkedMachine .companion 0 w) .companion 0 0x40008 = true
    ∧ regOpen (accessFlit linkedMachine .companion 0 w) .companion 0 8 = true
    ∧ regOpen (accessFlit linkedMachine .companion 0 w) .companion 0 0x40010 = true
    ∧ regOpen (accessFlit dramMachine .companion 0 w) .companion 0 8 = false
    ∧ (0x40008 : BitVec 21).toNat % 4 = 0 ∧ (8 : BitVec 21).toNat / 0x10000 < 3 ∧ actsOnWrite (8 : BitVec 21).toNat = false
    ∧ (9 : BitVec 21).toNat % 4 ≠ 0 ∧ (0x4000C : BitVec 21).toNat % 8 ≠ 0 := by
  simp only [accessFlit, regOpen_crossFlits]
  decide +kernel
theorem witness_tileRegisterAccess (w : Bool) : tileRegSite (accessFlit linkedMachine .companion 0 w) .companion tile0 0 = some 0
    ∧ tileRegSite (accessFlit linkedMachine .companion 0 w) .companion tile0 4 = some 0 ∧ (4 : BitVec 12) ≠ 0
    ∧ tileRegSite (accessFlit dramMachine (.tile 0 tile0) 0 w) (.tile 0 tile0) tile0 4 = none := by
  simp only [accessFlit, tileRegSite_crossFlits]
  decide +kernel
/-- Binnacle and its clock run. -/
def portClock : State := rset dramMachine 0 CLK_STATUS_BCK_OK
theorem witness_bearing : portRuns portClock = true ∧ portClock.bnc.long = none ∧ ron portClock 0 LSR_STATUS_RECOVERY = false
    ∧ regOpen (crossFlits portClock 0 0 3 1) .bearing (bitsOf (0x120100 : BitVec 24).toNat 21 3)
        (bitsOf (0x120100 : BitVec 24).toNat 0 21) = true
    ∧ regOpen (crossFlits portClock 0 0 3 1) .bearing (bitsOf (0x210000 : BitVec 24).toNat 21 3)
        (bitsOf (0x210000 : BitVec 24).toNat 0 21) = false
    ∧ bitsOf (0x120102 : BitVec 24).toNat 0 21 % 4 ≠ 0 := by
  simp only [regOpen_crossFlits]
  decide +kernel
theorem witness_windows : (toDram .get 0 32 []).op = .get ∧ (toDram .put 0 32 []).op = .put ∧ ron ringMachine 0 CHT_CTL_EN = true
    ∧ ron dramMachine 0 CHT_CTL_EN = false ∧ (toDram .put 0 32 []).op ≠ .get := by
  decide +kernel
/-- A tile of berth 0 with a standing fault of a cause. -/
def faulted (cause : Cause) : State :=
  let s := putTile berthMachine 0 0 (tileFault runTile cause 0 5)
  { s with reports := [.tileFault tile0] }
/-- The machine once the report has come and its flit is counted. -/
def reported (s : State) : State := countFlits { s with reports := s.reports.erase (.tileFault tile0) } 0 0 1
theorem witness_controlReport :
    (∀ s ∈ [faulted .addr, faulted .wdog, berthMachine], siteOf (reported s) 0 0 = some 0 ∧ berthOfTile (reported s) tile0 = some 0)
    ∧ tget (tileAt (reported (faulted .addr)) 0 0) TIL_FAULT_VALID ≠ 0
    ∧ tileClass (reported (faulted .addr)) (tileAt (reported (faulted .addr)) 0 0) ≠ 2
    ∧ tget (tileAt (reported (faulted .wdog)) 0 0) TIL_FAULT_VALID ≠ 0
    ∧ tileClass (reported (faulted .wdog)) (tileAt (reported (faulted .wdog)) 0 0) = 2
    ∧ tget (tileAt (reported berthMachine) 0 0) TIL_FAULT_VALID = 0
    ∧ berthMachine.serve.masked.contains (tile0, 2) = false := by
  simp only [reported, countFlits_cross _ 0 0 1, siteOf_crossFlits _ _ _ _ _ 0 0, berthOfTile_crossFlits, tileAt_crossFlits,
    tileClass_crossFlits]
  decide +kernel
/-- The area of berth 0's image holds 64 MiB from address 0. -/
def areaMachine : State := rput berthMachine 0 HLM_IMG_AREASZ_AREASZ 1
theorem witness_bankCrc : crcStaged (countFlits areaMachine 0 0 1) (some 64) = true
    ∧ crcStaged (countFlits areaMachine 0 0 1) none = false := by
  simp only [countFlits_cross _ 0 0 1, crcStaged_crossFlits]
  decide +kernel

/-! ### Chronometer -/

/-- Module 1 of 2, discovery done, not aligned. -/
def alignMachine : State := rput (rput (rput dramMachine 0 FLT_STATUS_DISC 4) 0 FLT_MOD_COUNT 2) 0 FLT_MOD_NUMBER 1
def pairs (n : Nat) : List TimePair := List.replicate n ⟨0, 3, 4, 5⟩
theorem witness_timingFrame : mayAlign alignMachine = true ∧ (pairs 16).length = 16 ∧ (pairs 15).length ≠ 16
    ∧ mayAlign dramMachine = false := by
  decide +kernel
def followMachine (offset : Int) : State :=
  let s := rset alignMachine 0 CHR_STATUS_ALIGNED
  { s with chr := { s.chr with slewing := true, offset := offset } }
theorem witness_slew : follows (followMachine 1) = true ∧ (followMachine 1).chr.slewing = true ∧ tickRuns (followMachine 1) = true
    ∧ 0 < (followMachine 1).chr.offset ∧ follows (followMachine 0) = true ∧ (followMachine 0).chr.offset ≤ 0
    ∧ follows alignMachine = false := by
  decide +kernel
/-- The next epoch 127 ahead, none ahead, and 128 ahead; ACTIVATE at watch 1 and at watch 0. -/
def charter (next length act : Nat) : State :=
  { rput (rput (rput dramMachine 0 CHR_EPOCH_NEXT next) 0 CHR_NEXT_WLEN_L length) 0 CHR_ACTIVATE_WATCH act with tick := 9 }
theorem witness_arm : chrReach (charter 127 25600 1) = true
    ∧ (rget (charter 127 25600 1) 0 CHR_EPOCH_NEXT + 256 - rget (charter 127 25600 1) 0 CHR_EPOCH_EPOCH) % 256 = 127
    ∧ laterWatch (BitVec.ofNat 32 (rget (charter 127 25600 1) 0 CHR_ACTIVATE_WATCH)) (watchNo (charter 127 25600 1)) = true
    ∧ ¬ (rget (charter 127 25600 1) 0 CHR_NEXT_WLEN_L ≠ watchLen (charter 127 25600 1) ∧ berthsLive (charter 127 25600 1) = true) := by
  decide +kernel
theorem witness_arm_refused :
    (rget (charter 0 25600 1) 0 CHR_EPOCH_NEXT + 256 - rget (charter 0 25600 1) 0 CHR_EPOCH_EPOCH) % 256 = 0
    ∧ 127 < (rget (charter 128 25600 1) 0 CHR_EPOCH_NEXT + 256 - rget (charter 128 25600 1) 0 CHR_EPOCH_EPOCH) % 256
    ∧ laterWatch (BitVec.ofNat 32 (rget (charter 1 25600 0) 0 CHR_ACTIVATE_WATCH)) (watchNo (charter 1 25600 0)) = false
    ∧ ¬ (BitVec.ofNat 32 (rget (charter 1 25600 0) 0 CHR_ACTIVATE_WATCH) = watchNo (charter 1 25600 0)
      ∧ (charter 1 25600 0).tick = watchStart (charter 1 25600 0))
    ∧ (rget (rput berthMachine 0 CHR_NEXT_WLEN_L 51200) 0 CHR_NEXT_WLEN_L ≠ watchLen (rput berthMachine 0 CHR_NEXT_WLEN_L 51200)
      ∧ berthsLive (rput berthMachine 0 CHR_NEXT_WLEN_L 51200) = true) := by
  decide +kernel
theorem witness_agreementRecord : chrReach dramMachine = true ∧ laterWatch 1 (watchNo dramMachine) = true
    ∧ laterWatch 0 (watchNo dramMachine) = false := by
  decide +kernel
/-- The Signal engine of berth 0's tile has waited at a waypoint since cycle 2. -/
def waypointMachine : State :=
  putTile berthMachine 0 0 (setEng runTile .sig { engOf runTile .sig with wpSince := some 2 })
theorem witness_berthWaypointTimeout : (berthOf arrivedMachine 0).step = .running 5 ∧ (berthOf arrivedMachine 0).arrived = true
    ∧ (berthOf runningMachine 0).step = .running 5 ∧ (berthOf runningMachine 0).arrived = false := by
  decide +kernel
theorem witness_waypointTimeout : siteOf waypointMachine 0 0 = some 0
    ∧ (engOf (tileAt waypointMachine 0 0) .sig).wpSince = some 2 ∧ (engOf (tileAt waypointMachine 0 0) .sig).nextw = none
    ∧ berthOfTile (rbump (elapseTo waypointMachine (2 + 30 * watchLen waypointMachine)) 0 CHR_WPTIMEOUT) tile0 = some 0 := by
  decide +kernel

/-! ### Sextant -/

/-- Sextant of stack 0 enabled, with no pass, and with one whose references, at cycle 7, have been measured. -/
def sextant : State := rset dramMachine 0 SXT_CTL_EN
def passing (done : SMap Nat) : State := putStk sextant 0 { stkOf sextant 0 with pass := some ⟨[5], 7, true, false, done⟩ }
theorem witness_triggers : machineSafe sextant = true ∧ baseReach sextant 0 = true ∧ tickRuns sextant = true
    ∧ ((stkOf sextant 0).pass = none ∧ ron sextant 0 SXT_CTL_EN = true)
    ∧ ¬ ((stkOf (passing []) 0).pass = none ∧ ron (passing []) 0 SXT_CTL_EN = true) := by
  decide +kernel
/-- One dog slot in each watch, 100 cycles after its start. -/
def dogMachine (en : Nat) : State :=
  let s := rput sextant 0 SXT_CTL_EN en
  putStk s 0 { stkOf s 0 with dog := fldPut SXT_DOG_COUNT (fldPut SXT_DOG_FIRST 0 100) 1 }
theorem witness_dogSlot : nextDog (dogMachine 1) 0 = some 100 ∧ ron (dogMachine 1) 0 SXT_CTL_EN = true
    ∧ nextDog (dogMachine 0) 0 = some 100 ∧ ron (dogMachine 0) 0 SXT_CTL_EN = false ∧ 0 < (dogMachine 1).stk.length
    ∧ 0 ∈ passSites (dogMachine 1) 0 ∧ (tileAt (dogMachine 1) 0 0).clkOn = true := by
  decide +kernel
theorem witness_idleCycle :
    let s := { passing [] with cyc := 9 }
    let s1 := pickSight s 0
    let w := sequencer s1 0 0
    let s2 := elapseTo s1 (phase0From s1.slot0 (max s1.cyc w.next))
    ron s 0 SXT_CTL_EN = true ∧ ron s 0 SXT_CTL_IDLE_EN = true ∧ siteOf s 0 0 = some 0 ∧ (tileAt s 0 0).clkOn = true
    ∧ siteWork s1 0 0 = some (true, 0) ∧ (w.hand true 0).need ≠ 0
    ∧ arrayIdle s2 tile0 (settle s2.cyc (tileAt s2 0 0)) = true := by
  decide +kernel
/-- Sextant of a stack whose tile's clock is off, with a pass. -/
def sleeping : State :=
  let s := rset (upMachine Tile.reset) 0 SXT_CTL_EN
  putStk s 0 { stkOf s 0 with pass := some ⟨[5], 7, true, false, []⟩ }
theorem witness_sleeping : ron sleeping 0 SXT_CTL_EN = true ∧ ron sleeping 0 SXT_CTL_IDLE_EN = true
    ∧ siteOf sleeping 0 0 = some 0 ∧ logicalOf sleeping 0 0 = some 0 ∧ (tileAt sleeping 0 0).clkOn = false := by
  decide +kernel
theorem witness_tableEccError :
    let s := putStk sextant 0 { stkOf sextant 0 with demands := [⟨0, 0, [], [3], 0, false⟩] }
    0 < s.stk.length ∧ baseReach s 0 = true ∧ demandOf s 0 0 = some ⟨0, 0, [], [3], 0, false⟩ := by
  decide +kernel
theorem witness_demandStretch : ron sextant 0 SXT_CTL_STRETCH_EN = true ∧ baseReach sextant 0 = true := by decide +kernel
theorem witness_groupComplete :
    let s := { passing [] with cyc := 9 }
    let s1 := pickSight s 0
    ron s 0 SXT_CTL_EN = true ∧ logicalOf s 0 0 = some 0 ∧ (tileAt s 0 0).clkOn = true ∧ siteWork s1 0 0 = some (true, 0)
    ∧ (spendGroup s1 0 0 true 0).isSome = true
    ∧ resultWhole (tileAt s1 0 0) 0 ((sequencer s1 0 0).hand true 0).dropped
        ⟨[], List.replicate 9 (List.replicate 16 0), [], [], false⟩ = true := by
  decide +kernel
/-- A stack that has stepped, in a dog slot with 800 and with 0 array cycles left. -/
def stepped (left : Nat) : State :=
  let s := { passing [] with rst := { (passing []).rst with firstStep := [0] } }
  putStk s 0 { stkOf s 0 with work := [(0, ⟨[], 0, left, 9⟩)] }
theorem witness_spendGroup : hasStepped (stepped 800) 0 = true ∧ 0 < (stepped 800).stk.length
    ∧ ((sequencer (stepped 800) 0 0).hand true 0).need ≠ 0
    ∧ ((sequencer (stepped 800) 0 0).hand true 0).need ≤ slotLeft (stepped 800) (sequencer (stepped 800) 0 0)
    ∧ slotLeft (stepped 0) (sequencer (stepped 0) 0 0) < ((sequencer (stepped 0) 0 0).hand true 0).need
    ∧ spendGroup (pickSight (stepped 0) 0) 0 0 true 0 = none := by
  decide +kernel
theorem witness_references : (stkOf (passing []) 0).pass = some ⟨[5], 7, true, false, []⟩
    ∧ (stkOf (putStk sextant 0 { stkOf sextant 0 with pass := some ⟨[5], 7, false, false, []⟩ }) 0).pass
      = some ⟨[5], 7, false, false, []⟩ := by
  decide +kernel
theorem witness_passComplete : passFinished (passing [(0, 292)]) 0 = true := by decide +kernel

/-! ### Vilger Link and crossing channels -/

/-- The link in state `st` with `n` failed attempts. -/
def linkMachine (st n : Nat) : State :=
  let s := rput (rset dramMachine 0 CLK_STATUS_REF_OK) 0 LNK_STATUS_STATE st
  { s with vil := { s.vil with attempts := n } }
theorem witness_lnkEn : lnkReach (linkMachine 0 0) = true ∧ ron (linkMachine 0 0) 0 LNK_CTL_EN = false
    ∧ ron (linkMachine 0 0) 0 CLK_STATUS_REF_OK = true := by
  decide +kernel
theorem witness_linkStates : lnkState (linkMachine 1 0) = 1 ∧ lnkState (linkMachine 2 0) = 2 ∧ (linkMachine 2 0).vil.retrain = false
    ∧ lnkState (linkMachine 4 0) = 4 ∧ lnkState (linkMachine 5 0) = 5 ∧ lnkState (linkMachine 6 0) = 6
    ∧ lnkReach (linkMachine 5 0) = true ∧ (linkMachine 5 0).vil.halves.length = 2 ∧ (vhalf (linkMachine 5 0) 0).waiting = [] := by
  decide +kernel
/-- The lanes of a machine's halves that are good. -/
def goodLanes (s : State) (a b : Nat) : State := rput (rput s (halfStk 0) LNK_LANES_GOOD a) (halfStk 1) LNK_LANES_GOOD b
theorem witness_linkWidth : lnkState (goodLanes (linkMachine 3 0) 0xFFFF 0xFFFF) = 3
    ∧ linkWidth (goodLanes (linkMachine 3 0) 0xFFFF 0xFFFF) = some 16
    ∧ linkWidth (goodLanes (linkMachine 3 0) 0xFFFE 0xFFFF) = some 8 ∧ linkWidth (goodLanes (linkMachine 3 0) 0xFFFF 0x00F0) = some 4
    ∧ lnkState (goodLanes (linkMachine 6 0) 0xFFFF 0xFFFF) = 6 ∧ linkWidth (goodLanes (linkMachine 6 0) 0xFFFF 0xFFFF) = some 16 := by
  decide +kernel
def revMachine : State := rput (rput (linkMachine 4 0) 0 LNK_REV_REVMIN 1) 0 LNK_REV_REVMAX 2
theorem witness_identityExchange : lnkState revMachine = 4
    ∧ max (2 : Byte).toNat (rget revMachine 0 LNK_REV_REVMIN) ≤ min (3 : Byte).toNat (rget revMachine 0 LNK_REV_REVMAX)
    ∧ min (3 : Byte).toNat (rget revMachine 0 LNK_REV_REVMAX) < max (3 : Byte).toNat (rget revMachine 0 LNK_REV_REVMIN) := by
  decide +kernel
theorem witness_vilgerTrainingLimit : 1 ≤ lnkState (linkMachine 1 1) ∧ lnkState (linkMachine 4 2) ≤ 4
    ∧ (linkMachine 1 1).vil.attempts < 2 ∧ 2 ≤ (linkMachine 4 2).vil.attempts := by
  decide +kernel
/-- A half with eight replays and one flit that is not acknowledged. -/
def replayMachine : State := putHalf (linkMachine 5 0) 0 { VHalf.reset with replays := 8, replay := [⟨3, 3, 0, []⟩] }
theorem witness_replays : 8 ≤ (vhalf replayMachine 0).replays ∧ (vhalf replayMachine 0).replay ≠ []
    ∧ replayMachine.vil.halves.length = 2 ∧ lnkState replayMachine = 5 ∧ lnkState replayMachine ≠ 7 := by
  decide +kernel
/-- A Vilger flit with header `hdr`, its CRC right or not. -/
def vflit (hdr : Nat) (good : Bool) : VFlit :=
  let bs := leBytes 8 hdr ++ List.replicate 224 0
  ⟨bs ++ leBytes 4 ((crc32c bs).toNat + (if good then 0 else 1)), 1, 0⟩
/-- A flit's first eight bytes are its header, and its CRC is good exactly where it was made so. -/
theorem vflit_parts (hdr pad : List Byte) (good : Bool) (h8 : hdr.length = 8) (hp : (hdr ++ pad).length = 232) :
    let f : VFlit := ⟨(hdr ++ pad) ++ leBytes 4 ((crc32c (hdr ++ pad)).toNat + (if good then 0 else 1)), 1, 0⟩
    f.bytes.take 8 = hdr ∧ vflitGood f = good := by
  refine ⟨?_, ?_⟩
  · simp only [List.append_assoc]
    rw [List.take_append_of_le_length (by omega), List.take_of_length_le (by omega)]
  · simp only [vflitGood]
    rw [List.take_append_of_le_length (by omega), List.take_of_length_le (by omega), List.drop_append_of_le_length (by omega),
      List.drop_of_length_le (by omega), List.nil_append, List.take_of_length_le (by simp [leBytes_len]), leVal_leBytes]
    generalize crc32c (hdr ++ pad) = c
    have h : BitVec.ofNat 32 ((c.toNat + if good then 0 else 1) % 256 ^ 4) = c + if good then 0 else 1 := by
      cases good <;> simp [← BitVec.toNat_inj, Nat.mod_eq_of_lt c.isLt]
    rw [h]
    cases good <;> simp
theorem pad_len (hdr : Nat) : (leBytes 8 hdr ++ List.replicate 224 (0 : Byte)).length = 232 := by
  rw [List.length_append, leBytes_len, List.length_replicate]
theorem vflit_good (hdr : Nat) (good : Bool) : (vflit hdr good).bytes.take 8 = leBytes 8 hdr
    ∧ vflitGood (vflit hdr good) = good :=
  vflit_parts (leBytes 8 hdr) (List.replicate 224 0) good (leBytes_len 8 hdr) (pad_len hdr)
theorem witness_vilgerFlit : vflitGood (vflit 0 false) = false ∧ (vflit 0 false).fecLanes = 0
    ∧ (∀ hdr, vflitGood (vflit hdr true) = true ∧ (vflit hdr true).bytes.take 8 = leBytes 8 hdr)
    ∧ bitsOf (leVal (leBytes 8 (2 ^ 38 + 2 * 2 ^ 22))) 22 2 = 2 ∧ bitOf (leVal (leBytes 8 (2 ^ 38 + 2 * 2 ^ 22))) 38 = true
    ∧ bitsOf (leVal (leBytes 8 (2 ^ 22 + 2 ^ 20))) 22 2 = 1 ∧ bitOf (leVal (leBytes 8 (2 ^ 22 + 2 ^ 20))) 20 = true
    ∧ bitOf (leVal (leBytes 8 (2 ^ 22 + 2 ^ 20))) 21 = false
    ∧ leVal (leBytes 8 (2 ^ 22 + 2 ^ 20)) % 1024 = (vhalf (linkMachine 5 0) 0).rxSeq
    ∧ leVal (leBytes 8 (2 ^ 22 + 1)) % 1024 ≠ (vhalf (linkMachine 5 0) 0).rxSeq :=
  ⟨(vflit_good 0 false).2, rfl, fun hdr => ⟨(vflit_good hdr true).2, (vflit_good hdr true).1⟩, by decide +kernel⟩
/-- Half 0 with one request of a purpose under tag 7. -/
def asking (why : VPurpose) : State :=
  putHalf (linkMachine 5 0) 0 { VHalf.reset with reqs := [⟨⟨0, 1, 7, 1, 64, 0, []⟩, false, false, why⟩] }
theorem witness_vilgerMessages : reqOf (linkMachine 5 0) 0 7 = none
    ∧ (reqOf (asking (.packet 1 0)) 0 7).map VReq.purpose = some (.packet 1 0)
    ∧ (reqOf (asking .watch) 0 7).map VReq.purpose = some .watch
    ∧ (reqOf (asking (.helm 2)) 0 7).map VReq.purpose = some (.helm 2) ∧ lnkReach (asking .watch) = true := by
  decide +kernel
/-- A log in which a unit is in state `st`. -/
def unitLog (u : UnitRef) (st : Nat) (tb : List Nat) : LogSt :=
  { LogSt.reset with entries := [{ LogEntry.blank u with st := st, tb := tb }] }
theorem witness_crossings : 3 ≤ dramMachine.rst.domains ∧ (247 : BitVec 8).toNat < 248 ∧ 4 ≤ dramMachine.rst.domains
    ∧ (logCount dramMachine (crossingUnit 247) false 1 0).2 = false ∧ (logCount dramMachine (crossingUnit 247) true 1 0).2 = true
    ∧ (logCount { dramMachine with log := unitLog (crossingUnit 247) 0 [1024] } (crossingUnit 247) false 1 0).2 = true
    ∧ (logCount { dramMachine with log := unitLog (crossingUnit 247) 1 [1024] } (crossingUnit 247) true 1 0).2 = false
    ∧ 8 ≤ (portOf (putPort dramMachine 0 { PortSt.reset with replays := 8 }) 0).replays := by
  decide +kernel

/-! ### Resets, power and clocks -/

/-- Binnacle runs a long command with opcode `op`. -/
def longMachine (op : Byte) : State := { portClock with bnc := { portClock.bnc with long := some (op, 0, 0) } }
def fltrstMachine : State := rset (rput dramMachine 0 CHR_EPOCH_EPOCH 1) 0 BNC_FLTCTL_FLTRST_EN
theorem witness_moduleResets : (longMachine 0x12).bnc.long ≠ none ∧ portRuns portClock = true ∧ portClock.bnc.long = none
    ∧ ron portClock 0 LSR_STATUS_RECOVERY = false ∧ (0 : Word) ≠ 0x5A5A
    ∧ lnkReach (linkMachine 5 0) = true ∧ lnkState (linkMachine 5 0) ≠ 0 ∧ lnkState (linkMachine 5 0) ≠ 7
    ∧ islandUp fltrstMachine = true ∧ (5 : BitVec 10) ≠ moduleNo fltrstMachine
    ∧ ron fltrstMachine 0 BNC_FLTCTL_FLTRST_EN = true ∧ rget fltrstMachine 0 CHR_EPOCH_EPOCH ≠ 0
    ∧ ron dramMachine 0 BNC_FLTCTL_FLTRST_EN = false ∧ rget dramMachine 0 CHR_EPOCH_EPOCH = 0 ∧ moduleNo fltrstMachine = 0 := by
  decide +kernel

/-- The converter in state `st`, bring-up at step `n`. -/
def pwrMachine (st n : Nat) : State := rput (rput dramMachine 0 PWR_STATUS_STATE st) 0 BNC_BRINGUP_STEP n
def chargedMachine : State := { pwrMachine 1 3 with pwr := { PowerSt.reset with charged := true } }
theorem witness_powerEntry : islandUp (pwrMachine 0 3) = true ∧ ron (pwrMachine 0 3) 0 LSR_STATUS_RECOVERY = false
    ∧ pwrState (pwrMachine 0 3) = 0 ∧ (pwrMachine 0 3).bnc.stopped = false ∧ mainWaits (pwrMachine 0 3) = false
    ∧ mainWaits (pwrMachine 0 2) = true ∧ pwrState (pwrMachine 0 2) = 0
    ∧ pwrState (pwrMachine 1 3) = 1 ∧ (pwrMachine 1 3).pwr.charged = false
    ∧ pwrState chargedMachine = 1 ∧ chargedMachine.pwr.charged = true ∧ pwrState (pwrMachine 2 3) = 2
    ∧ rget (pwrMachine 2 3) 0 PWR_PAVG_P1S ≤ 16000 ∧ pwrState (pwrMachine 5 3) = 5 := by
  decide +kernel

/-- Stack 0 on, its power in state `st`. -/
def stackMachine (st : Nat) : State := rput dramMachine 0 PWR_STK_STATUS_STATE st
def stackOffMachine : State := rput (rput dramMachine 0 PWR_STK_CTL_ON 0) 0 PWR_STK_STATUS_STATE 3
def switchMachine : State := { dramMachine with pwr := { PowerSt.reset with switching := [.mesh 0] } }
theorem witness_stackPower : 3 ≤ (stackMachine 0).rst.domains ∧ wrapperClosed (stackMachine 0) 5 0 0 = false
    ∧ rget (stackMachine 0) 0 PWR_STK_STATUS_STATE = 0 ∧ rget (stackMachine 1) 0 PWR_STK_STATUS_STATE = 1
    ∧ wrapperClosed (stackMachine 2) 5 0 0 = false ∧ rget (stackMachine 2) 0 PWR_STK_STATUS_STATE = 2
    ∧ machineSafe (stackMachine 2) = true ∧ rget stackOffMachine 0 PWR_STK_STATUS_STATE = 3
    ∧ stackOffMachine.pwr.stopping = false ∧ stackOnNow stackOffMachine 0 = false
    ∧ sourceRuns dramMachine (.mesh 7) (!muxSel dramMachine (.mesh 7)) = false
    ∧ sourceRuns (rset dramMachine 0 CLK_STATUS_REF_OK) (.mesh 7) (!muxSel (rset dramMachine 0 CLK_STATUS_REF_OK) (.mesh 7)) = true
    ∧ muxBlocks (.mesh 0) = [⟨5, 0, 0⟩, ⟨1, 0, 0⟩] ∧ switchMachine.pwr.switching.contains (.mesh 0) = true := by
  decide +kernel
theorem witness_clocks : 2 ≤ dramMachine.rst.domains ∧ ron dramMachine 7 CLK_PLL_EN 4 = true ∧ islandUp dramMachine = true
    ∧ fmeasReach dramMachine (.stack 7) = true ∧ fmeasReach dramMachine .module = true
    ∧ ({ PowerSt.reset with measuring := [.module] } : PowerSt).measuring.contains .module = true := by
  decide +kernel

/-! ### The log, faults and recovery -/

/-- Stress tests enabled; tile 0's entry has one failed test. -/
def stressMachine : State := rput (rset (rset leadMachine 0 HLM_RCV_CTL_STRESS_EN) 0 PWR_STK_CTL_STRESS_EN) 0 CLK_TSEL_SEL 1
def stressedMachine : State :=
  { stressMachine with log := { LogSt.reset with entries := [{ LogEntry.blank (tileUnit 0 0) with stress := 1 }], changed := [tileUnit 0 0] } }
theorem witness_logEvents : ron stressMachine (leadStk stressMachine) HLM_RCV_CTL_STRESS_EN = true
    ∧ stressable stressMachine tile0 = true ∧ siteOf stressMachine 0 0 = some 0
    ∧ ron stressedMachine (leadStk stressedMachine) HLM_RCV_CTL_STRESS_EN = true ∧ stressable stressedMachine tile0 = true
    ∧ siteOf stressedMachine 0 0 = some 0 ∧ 1 ≤ (unitEntry stressedMachine (tileUnit 0 0)).stress
    ∧ stressedMachine.log.changed.contains (tileUnit 0 0) = true ∧ stressedMachine.log.changed.contains (helmUnit 0) = false
    ∧ (stressedMachine.log.entries.filter fun e => e.unit == tileUnit 0 0).length = 1
    ∧ 0 < stressedMachine.log.entries.length := by
  decide +kernel
def beatMachine (tick beat : Nat) : State :=
  let s := { leadMachine with tick := tick }
  putStk s 0 { stkOf s 0 with beat := beat }
theorem witness_memoryErrors : errorBerths leadMachine 0 64 = [] ∧ imagesAt leadMachine 64 = [] ∧ versionsAt leadMachine 64 = []
    ∧ frameAt leadMachine 0 64 = none ∧ inChart leadMachine 0 64 1 = false := by
  decide +kernel
theorem witness_heartbeats : 0 < leadMachine.stk.length ∧ 7 ≤ leadMachine.rst.domains ∧ wrapperClosed leadMachine 1 0 0 = false
    ∧ (stkOf (beatMachine 0 5) 0).beat + 10000000 ≤ (elapseToTick (beatMachine 0 5) ((stkOf (beatMachine 0 5) 0).beat + 10000000)).tick
    ∧ leadOf (beatMachine 0 5) = some 0 ∧ leadOf (beatMachine 0 5) ≠ some (1 : BitVec 3).toNat
    ∧ (stkOf (beatMachine 0 0) 1).beat + 10000000 ≤ (elapseToTick (beatMachine 0 0) ((stkOf (beatMachine 0 0) 1).beat + 10000000)).tick := by
  decide +kernel

/-- Berth 0's image runs in module 0 alone; its step is abandoned, to replay at watch `w`. -/
def hostMachine (f : Berth → Berth) : State :=
  withBerth fun b => f { b with image := some { image with steady := { schedule with modules := [0] } } }
theorem witness_replayWatch :
    (berthOf (withBerth fun b => { b with step := .replay 5 0 }) 0).step = .replay 5 0
    ∧ (watchNo (withBerth fun b => { b with step := .replay 5 0 }) - 0).toNat < 2 ^ 31
    ∧ loadsHalted (withBerth fun b => { b with step := .replay 5 0 }) 0 = true
    ∧ 0 < (withBerth fun b => { b with step := .replay 5 0 }).serve.berths.length
    ∧ (berthOf (withBerth fun b => { b with step := .replay 5 0 }) 0).charged = none
    ∧ 2 ^ 31 ≤ (watchNo (withBerth fun b => { b with step := .replay 5 1 }) - 1).toNat := by
  decide +kernel
theorem witness_abandon : hostModule (hostMachine fun b => { b with step := .running 5 }) 0
      = moduleNo (hostMachine fun b => { b with step := .running 5 })
    ∧ (berthModules (hostMachine fun b => { b with step := .running 5 }) 0).contains 0 = true
    ∧ (berthOf (hostMachine fun b => { b with step := .running 5 }) 0).step = .running 5
    ∧ (berthOf (hostMachine id) 0).step ≠ .running 5
    ∧ hostModule (rput (hostMachine id) 0 FLT_MOD_NUMBER 3) 0 ≠ moduleNo (rput (hostMachine id) 0 FLT_MOD_NUMBER 3)
    ∧ replayMax (hostMachine fun b => { b with step := .running 5, attempts := 2 })
      ≤ (berthOf (hostMachine fun b => { b with step := .running 5, attempts := 2 }) 0).attempts + 1 := by
  decide +kernel
def noticeMachine : State := withBerth fun b => { b with notice := some (5, 0) }
theorem witness_abandonNotice : (berthOf noticeMachine 0).notice = some (5, 0) ∧ berthState noticeMachine 0 = 1
    ∧ 0 + 10000000 ≤ (elapseToTick noticeMachine (0 + 10000000)).tick := by
  decide +kernel
theorem witness_thermalStop : leadOf dramMachine = none ∧ leadOf leadMachine ≠ none
    ∧ (∀ i, i < 16 → berthState leadMachine i ≠ 1 ∧ berthState leadMachine i ≠ 2 ∧ (berthOf leadMachine i).step = .idle
        ∧ (berthOf leadMachine i).thermal = false)
    ∧ berthState leadMachine 0 ≠ 1 ∧ berthState leadMachine 0 ≠ 2
    ∧ berthState (rput (hostMachine id) 0 FLT_MOD_NUMBER 3) 0 = 1
    ∧ (berthOf (rput (hostMachine id) 0 FLT_MOD_NUMBER 3) 0).step = .idle := by
  decide +kernel

/-! ### The Sounding ADC, block resets and bring-up -/

/-- The ADC with an urgent queue, a conversion, and fields that are set. -/
def adc (l : List (Nat × Bool)) (a : Option Bool) (fs : List Fld) : State :=
  { fs.foldl (fun s f => rset s 0 f) dramMachine with snd := { SndSt.reset with urgent := l, active := a } }
theorem witness_conversions : islandUp (adc [] none []) = true ∧ (adc [(1, false)] (some true) []).snd.urgent.length < 4
    ∧ 4 ≤ (adc [(1, false), (2, false), (3, true), (4, true)] none []).snd.urgent.length
    ∧ ron (adc [] none [SND_CTL_FAST_EN]) 0 SND_CTL_FAST_EN = true ∧ (adc [] none [SND_CTL_FAST_EN]).snd.active ≠ some true
    ∧ ron (adc [] none []) 0 SND_CTL_FAST_EN = false
    ∧ ron (adc [] none [SND_CTL_SEQ_EN, SND_STATUS_SEQ_RUN]) 0 SND_CTL_SEQ_EN = true
    ∧ ron (adc [] none [SND_CTL_SEQ_EN, SND_STATUS_SEQ_RUN]) 0 SND_STATUS_SEQ_RUN = true
    ∧ ron (adc [] none [SND_CTL_SEQ_EN, SND_SEQ_EN]) 0 SND_STATUS_SEQ_RUN = false
    ∧ nextEntry (adc [] none [SND_CTL_SEQ_EN, SND_SEQ_EN]) 0 = some 0
    ∧ (adc [(1, false), (2, true)] (some false) []).snd.urgent = (1, false) :: [(2, true)]
    ∧ rget (adc [] (some true) []) 0 SND_STATUS_ENTRY < 32
    ∧ rget (adc [] (some true) []) 0 SND_SEQ_CH (rget (adc [] (some true) []) 0 SND_STATUS_ENTRY) = 0
    ∧ ron (adc [] none [SND_CTL_REFBUF_EN]) 0 SND_CTL_REFBUF_EN = true := by
  decide +kernel
theorem witness_channel : ¬taken_ 0 ∧ ¬taken_ 6 ∧ taken_ 23 := by
  unfold taken_; decide

/-- BNC_BRST names tile 0, or the block of a kind. -/
def brstMachine (kind : Nat) (t : Tile) : State := rput (putTile dramMachine 0 0 t) 0 BNC_BRST_KIND kind
def blockMachine (kind : Nat) (quiesce asserted : Bool) : State :=
  { dramMachine with rst := { dramMachine.rst with blocks := [⟨⟨BitVec.ofNat 4 kind, 0, 0⟩, quiesce, asserted, true, 0⟩] } }
theorem witness_blockReset : islandUp (brstMachine 0 busyTile) = true ∧ ron (brstMachine 0 busyTile) 0 BNC_BRST_STATUS_BUSY = false
    ∧ blockLegal (brstMachine 0 busyTile) (namedBlock (brstMachine 0 busyTile)) = true
    ∧ blockReleased (brstMachine 0 busyTile) (namedBlock (brstMachine 0 busyTile)) = true
    ∧ resetOf (brstMachine 0 busyTile) (namedBlock (brstMachine 0 busyTile)) = none
    ∧ blockInside (brstMachine 0 busyTile) (namedBlock (brstMachine 0 busyTile)) = true
    ∧ blockLegal (brstMachine 15 busyTile) (namedBlock (brstMachine 15 busyTile)) = false := by
  decide +kernel
theorem witness_blockProgress : resetOf dramMachine ⟨0, 0, 0⟩ = none
    ∧ resetOf (blockMachine 0 true false) ⟨0, 0, 0⟩ = some ⟨⟨0, 0, 0⟩, true, false, true, 0⟩
    ∧ blockInside (blockMachine 0 true false) ⟨0, 0, 0⟩ = false
    ∧ blockInside { brstMachine 0 busyTile with rst := (blockMachine 0 true false).rst } ⟨0, 0, 0⟩ = true
    ∧ resetOf (blockMachine 0 false true) ⟨0, 0, 0⟩ = some ⟨⟨0, 0, 0⟩, false, true, true, 0⟩
    ∧ resetOf (blockMachine 4 true false) ⟨4, 0, 0⟩ = some ⟨⟨4, 0, 0⟩, true, false, true, 0⟩ := by
  decide +kernel

/-- `n` orders and `on` stacks of order 6 released, bring-up at step `st`, the converter in MAIN with its clocks. -/
def orderMachine (n on st : Nat) : State :=
  let s := rset (rset (rput (rput dramMachine 0 PWR_STATUS_STATE 2) 0 BNC_BRINGUP_STEP st) 0 CLK_STATUS_BCK_OK) 0 CLK_STATUS_REF_OK
  { s with rst := { s.rst with domains := n, stacks6 := on } }
theorem witness_release : bringing (orderMachine 5 7 5) = true
    ∧ (∀ n ∈ [0, 1, 5, 6], preconditionHolds (orderMachine n 0 5) (n + 1) = true)
    ∧ (orderMachine 5 6 5).rst.stacks6 < 7
    ∧ (∀ n ∈ [2, 3, 4], bringing (orderMachine n 0 3) = true ∧ preconditionHolds (orderMachine n 0 3) (n + 1) = false)
    ∧ bringing (rset (orderMachine 2 0 3) 0 BNC_BRINGUP_FAULTED) = false ∧ pwrState (orderMachine 1 0 3) = 2 := by
  decide +kernel
theorem witness_bringup : islandUp (orderMachine 7 0 5) = true ∧ bringing (orderMachine 7 0 5) = true
    ∧ rget (orderMachine 7 0 5) 0 BNC_BRINGUP_STEP = 5 ∧ (orderMachine 7 0 5).rst.domains = 7 ∧ (orderMachine 6 0 5).rst.domains ≠ 7
    ∧ (∀ k, k < 8 → bringupPassOver (orderMachine 7 0 7) k = true) ∧ ron (orderMachine 7 0 9) 0 FLT_CTL_FLEET_EN = false
    ∧ ron (rset (orderMachine 7 0 9) 0 FLT_CTL_FLEET_EN) 0 FLT_CTL_FLEET_EN = true
    ∧ rget (rset (orderMachine 7 0 9) 0 FLT_CTL_FLEET_EN) 0 FLT_STATUS_DISC ≠ 4
    ∧ (orderMachine 7 0 10).img.boots = [] ∧ rget (orderMachine 7 0 10) 0 BNC_BRINGUP_STEP = 10 := by
  decide +kernel
theorem witness_releaseRestarts : 1 ≤ dramMachine.rst.domains ∧ (1 : Nat) ≤ 8 ∧ (8 : Nat) < 16 := by decide +kernel

/-! ### Binnacle, Lodestar and the test port -/

/-- Diode 47 has read the trip limit twice. -/
def hotMachine : State := putSensor portClock 47 { Sensor.reset with hot := 2 }
theorem witness_diodes : binnacleRuns hotMachine = true ∧ (sensorAt hotMachine 47).st = 0 ∧ 2 ≤ (sensorAt hotMachine 47).hot
    ∧ pwrState hotMachine ≠ 4 := by
  decide +kernel
theorem witness_throttle : fleetMode dramMachine = false ∧ fleetMode (rset dramMachine 0 CHR_CTL_MODE) = true
    ∧ binnacleRuns (rset portClock 0 BNC_THROTTLE_GRACE) = true
    ∧ ron (rset portClock 0 BNC_THROTTLE_GRACE) 0 BNC_THROTTLE_GRACE = true ∧ ron dramMachine 0 BNC_THROTTLE_GRACE = false
    ∧ rget dramMachine 0 BNC_THROTTLE_REQ ≤ min 100 (rget dramMachine 0 BNC_THROTTLE_HOSTQ)
    ∧ min 100 (rget (rput dramMachine 0 BNC_THROTTLE_REQ 50) 0 BNC_THROTTLE_HOSTQ) < rget (rput dramMachine 0 BNC_THROTTLE_REQ 50) 0 BNC_THROTTLE_REQ
    ∧ ron (rset dramMachine 0 BNC_THROTTLE_ENFORCED) 0 BNC_THROTTLE_ENFORCED = true := by
  decide +kernel

def badRequest : BearingReq := ⟨1, 0, 0, 0⟩
def portLog : State := { portClock with log := unitLog (helmUnit 0) 0 [] }
def portLead : State := rset portClock 0 HLM_STATUS_LEAD
theorem witness_bearingCommands : portRuns (longMachine 0x11) = true ∧ (longMachine 0x11).bnc.long = some (0x11, 0, 0)
    ∧ ([badRequest.op] ++ (leBytes 3 badRequest.addr.toNat).reverse ++ (leBytes 4 badRequest.data.toNat).reverse).foldl crc8Byte 0
      ≠ badRequest.crc
    ∧ ron (rset portClock 0 LSR_STATUS_RECOVERY) 0 LSR_STATUS_RECOVERY = true ∧ portRuns (rset portClock 0 LSR_STATUS_RECOVERY) = true
    ∧ portLog.log.entries[(15 : BitVec 24).toNat / 16]? = some { LogEntry.blank (helmUnit 0) with tb := [] }
    ∧ (7 : BitVec 24).toNat < 8 ∧ 8 ≤ (8 : BitVec 24).toNat
    ∧ 2 ≤ bitsOf (0x800000 : BitVec 24).toNat 22 2 ∧ bitsOf (0x7FF : BitVec 24).toNat 22 2 = 0 ∧ bitsOf (0x7FF : BitVec 24).toNat 11 11 = 0
    ∧ bitsOf (0x400000 : BitVec 24).toNat 22 2 = 1 ∧ bitsOf (0x400000 : BitVec 24).toNat 0 22 = 0
    ∧ (maskStacks 0).all (baseReach portClock) = true
    ∧ (maskStacks 0).all (baseReach { portClock with rst := { portClock.rst with domains := 2 } }) = false
    ∧ portClock.bnc.commits = [] ∧ ({ portClock with bnc := { portClock.bnc with commits := [7] } } : State).bnc.commits = [7]
    ∧ leadOf portClock = none ∧ leadOf portLead ≠ none ∧ portRuns portLead = true := by
  decide +kernel
def burnMachine : State := { longMachine 0x11 with lsr := { LodestarSt.reset with burning := some { Fuses.blank with minsvn := 3 } } }
theorem witness_longdone : burnMachine.bnc.long = some (0x11, 0, 0) ∧ burnMachine.lsr.burning = some { Fuses.blank with minsvn := 3 }
    ∧ portClock.bnc.long = none := by
  decide +kernel

/-- Lodestar with `n` life-cycle fuse rows programmed, locked or not, in test mode or not. -/
def lodestar (n : Nat) (zlock test : Bool) : State :=
  { dramMachine with lsr := { LodestarSt.reset with
      fuses := { Fuses.blank with lcRows := List.replicate n 0xFFFFFFFF ++ List.replicate (7 - n) 0 }, zlock := zlock, testmode := test } }
theorem witness_lodestar : islandUp (rset dramMachine 0 LSR_STATUS_BUSY) = true
    ∧ ron (rset dramMachine 0 LSR_STATUS_BUSY) 0 LSR_STATUS_BUSY = true
    ∧ islandUp (lodestar 1 false false) = true ∧ ron (lodestar 1 false false) 0 LSR_STATUS_BUSY = false
    ∧ (lodestar 1 true false).lsr.zlock = true ∧ (lodestar 1 false false).lsr.zlock = false
    ∧ lcState (lodestar 0 false false).lsr.fuses = 0 ∧ lcState (lodestar 1 false false).lsr.fuses = 1
    ∧ lcState (lodestar 2 false false).lsr.fuses = 2 ∧ lcState (lodestar 3 false false).lsr.fuses = 3
    ∧ berthsLive (lodestar 3 false false) = false ∧ berthsLive berthMachine = true
    ∧ (lodestar 1 false true).lsr.testmode = true ∧ (lodestar 1 false false).lsr.loading = none
    ∧ manifestValid (lodestar 1 false false) [] = false ∧ bundleCode (lodestar 1 false false) [] ≠ 1 := by
  decide +kernel

/-! ### Further clauses -/

/-- A tile that is not idle, and one that is idle still when its idle count ends. -/
theorem witness_clockRequests_busy :
    tileIdle (ctxOf (upMachine busyTile) tile0) (settle 0 (tileAt (upMachine busyTile) 0 0)) = false
    ∧ tileIdle (ctxOf (elapseTo (upMachine idleTile) (idleSince (settle 0 (tileAt (upMachine idleTile) 0 0))
        + tget (settle 0 (tileAt (upMachine idleTile) 0 0)) TIL_GATE_IDLE)) tile0) (settle 0 (tileAt (upMachine idleTile) 0 0)) = true := by
  decide +kernel
/-- The governor's budget is used up: 20 starts, or stops, at tick 0. -/
def fullGov (start : Bool) (t : Tile) : State :=
  { upMachine t with pwr := { PowerSt.reset with
      queue := [⟨start, 0, 0, 0, false⟩], starts := List.replicate 1000 0, stops := List.replicate 1000 0 } }
theorem witness_clockGrants_full : govNext (elapseNs (fullGov true Tile.reset) 30) true = some ⟨true, 0, 0, 0, false⟩
    ∧ govRoom (elapseNs (fullGov true Tile.reset) 30) true (elapseNs (fullGov true Tile.reset) 30).pwr.starts = false
    ∧ govNext (elapseNs (fullGov false idleTile) 30) false = some ⟨false, 0, 0, 0, false⟩
    ∧ govRoom (elapseNs (fullGov false idleTile) 30) false (elapseNs (fullGov false idleTile) 30).pwr.stops = false := by
  decide +kernel
theorem witness_run_cleared : siteOf (upMachine runTile) 0 0 = some 0 ∧ tileClosed (upMachine runTile) 0 0 = false
    ∧ tget (settle 0 (tileAt (upMachine runTile) 0 0)) TIL_CTL_RUN = 1 := by
  decide +kernel

/-- The waiting tile, fenced. -/
def fencedTile : Tile := tput waitingTile TIL_CTL_FENCE 1
theorem witness_delivered :
    tget (settle 0 (tileAt (upMachine waitingTile) 0 0)) TIL_CTL_FENCE = 0
    ∧ fetchOf (tileAt (upMachine waitingTile) 0 0) 8 = none
    ∧ (sigOf (settle 0 (tileAt (upMachine waitingTile) 0 0)) 8).any (fun o => o.open_.isEmpty) = true
    ∧ tget (settle 0 (tileAt (upMachine fencedTile) 0 0)) TIL_CTL_FENCE = 1
    ∧ branchFails (tileAt (upMachine fencedTile) 0 0) 8 = [] := by
  decide +kernel
theorem witness_hopTimeout_held :
    ({ dramMachine with net := [toDram .put 0 32 []] } : State).net.contains (toDram .put 0 32 []) = true := by
  decide +kernel

/-- A stack one of whose frames the log has retired. -/
theorem witness_chtEn_retired :
    (stkOf (putStk dramMachine 0 { stkOf dramMachine 0 with retired := [2] }) 0).retired = [2]
    ∧ (stkOf (putStk dramMachine 0 { stkOf dramMachine 0 with retired := [2] }) 0).framesInit = false := by
  decide +kernel
theorem witness_submit_berthStacks : berthStacks berthMachine (dBerth (submitLine 1)) = [0] := by decide +kernel
theorem witness_stepBoundary_later :
    laterWatch (firstWatch (withBerth fun b => { b with debt := 100 }) 0 + 1)
      (watchNo (withBerth fun b => { b with debt := 100 }) + 1) = true := by
  decide +kernel

/-- Slot A of model 7 is INCOMPLETE, its PROGRAM_BEGIN before the last reset or after it. -/
theorem witness_programming :
    programming (imageTaken (imgMachine .incomplete) (imgLine 2 0 4096 4096) 2) imgName 0 = false
    ∧ programming (imageTaken { imgMachine .incomplete with img :=
        { (imgMachine .incomplete).img with begun := [(imgName, 0)] } } (imgLine 2 0 4096 4096) 2) imgName 0 = true
    ∧ programming (imageTaken { imgMachine .incomplete with img :=
        { (imgMachine .incomplete).img with begun := [(imgName, 0)] } } (imgLine 3 0 0 0) 3) imgName 0 = true := by
  decide +kernel

/-- Discovery's DISC 1, with a port that trains and without one. -/
theorem witness_endTraining :
    rget (rput (portMachine 3) 0 FLT_STATUS_DISC 1) 0 FLT_STATUS_DISC = 1 ∧ portsTrain (rput (portMachine 3) 0 FLT_STATUS_DISC 1) = true
    ∧ rget (rput (portMachine 4) 0 FLT_STATUS_DISC 1) 0 FLT_STATUS_DISC = 1 ∧ portsTrain (rput (portMachine 4) 0 FLT_STATUS_DISC 1) = false
    ∧ rget (portMachine 4) 0 FLT_STATUS_DISC ≠ 1 ∧ rget (portMachine 4) 0 FLT_STATUS_DISC ≠ 2
    ∧ portReach (rset (portMachine 3) 0 FLT_CTL_FLEET_EN) 0 = true ∧ fleetOn (rset (portMachine 3) 0 FLT_CTL_FLEET_EN) = true
    ∧ portsTrain (rset (portMachine 3) 0 FLT_CTL_FLEET_EN) = true ∧ portsTrain discMachine = false := by
  decide +kernel
/-- A module in discovery whose port 0 exchanges identities. -/
theorem witness_identity_discovery :
    rget (rput identMachine 0 FLT_STATUS_DISC 2) 0 FLT_STATUS_DISC = 2 ∧ pget (rput identMachine 0 FLT_STATUS_DISC 2) 0 FLT_PORT_STATE = 3 := by
  decide +kernel
/-- A header flit of operation `op` for module `m`. -/
def flitFor (m op : Nat) : List Byte :=
  leBytes 8 (m * 2 ^ 54) ++ List.replicate 5 0 ++ [BitVec.ofNat 8 op, 0, 1] ++ List.replicate 240 0
/-- A register access for module 3, a PUT for module 3 that routes on by the die it came in by, and a hail. -/
theorem witness_fleetFrame_ways :
    let routed := { portMachine 4 with fleet := { (portMachine 4).fleet with rt := [(3, BitVec.ofNat 32 (2 ^ 16))] } }
    ((headPacket 0 [flitFor 3 10]).map fun q => q.1.map fun p => (p.op, addrModule p.dest)) = some (some (.regAccess, 3))
    ∧ moduleNo routed = 0
    ∧ ((headPacket 0 [flitFor 3 0]).map fun q => q.1.map fun p => (p.op, portToPort routed p)) = some (some (.put, true))
    ∧ ((headPacket 0 [flitFor 0 0]).map fun q => q.1.map fun p => (p.op, portToPort routed p)) = some (some (.put, false))
    ∧ ((headPacket 0 [flitFor 0 12]).map fun q => q.1.map fun p => p.op) = some (some .hail) := by
  decide +kernel

theorem witness_accessCodes_writeOnly : TIL_CTL_SRST ∈ tileFields ∧ TIL_CTL_SRST.acc = .wo ∧ fldIndex TIL_CTL_SRST 0 = some 0
    ∧ (∃ f ∈ blockFields 0x20000, f.acc = .wo ∧ (fldIndex f f.off).isSome = true) := by
  decide +kernel
/-- In recovery mode a Bearing access of Binnacle's own registers, and one of the Chronometer's. -/
theorem witness_bearing_recovery : portRuns (rset portClock 0 LSR_STATUS_RECOVERY) = true
    ∧ (rset portClock 0 LSR_STATUS_RECOVERY).bnc.long = none ∧ ron (rset portClock 0 LSR_STATUS_RECOVERY) 0 LSR_STATUS_RECOVERY = true
    ∧ (0x12 ≤ bitsOf (0x120100 : BitVec 24).toNat 0 21 / 0x10000 ∧ bitsOf (0x120100 : BitVec 24).toNat 0 21 / 0x10000 ≤ 0x15
        ∧ bitsOf (0x120100 : BitVec 24).toNat 21 3 = 0)
    ∧ ¬ (0x12 ≤ bitsOf (0x40000 : BitVec 24).toNat 0 21 / 0x10000) ∧ portClock.bnc.masked = [] := by
  decide +kernel

/-- ARM in the boundary tick of watch 0, at tick 0, with ACTIVATE 0. -/
theorem witness_arm_now : chrReach { charter 1 25600 0 with tick := 0 } = true
    ∧ (rget { charter 1 25600 0 with tick := 0 } 0 CHR_EPOCH_NEXT + 256 - rget { charter 1 25600 0 with tick := 0 } 0 CHR_EPOCH_EPOCH) % 256 = 1
    ∧ BitVec.ofNat 32 (rget { charter 1 25600 0 with tick := 0 } 0 CHR_ACTIVATE_WATCH) = watchNo { charter 1 25600 0 with tick := 0 }
    ∧ ({ charter 1 25600 0 with tick := 0 } : State).tick = watchStart { charter 1 25600 0 with tick := 0 }
    ∧ rget { charter 1 25600 0 with tick := 0 } 0 CHR_NEXT_WLEN_L = watchLen { charter 1 25600 0 with tick := 0 } := by
  decide +kernel
/-- The lead Helm's operations: to this module, and to one that no route reaches; with tag 0 free, and with none. -/
theorem witness_sendHelm : reaches dramMachine (HelmMsg.thermal 0 0).dst = true ∧ reaches dramMachine (HelmMsg.thermal 5 0).dst = false
    ∧ (∀ o ∈ dramMachine.serve.ops, o.tag ≠ 0)
    ∧ ∀ g, g < 32 → ∃ o ∈ (List.range 32).map (fun g => (⟨g, 0, .thermal 0 0⟩ : HelmOp)), o.tag = g := by
  refine ⟨by decide +kernel, by decide +kernel, by decide +kernel, fun g hg => ⟨⟨g, 0, .thermal 0 0⟩, ?_, rfl⟩⟩
  simpa using hg
/-- Berth 0 alone has arrived. -/
theorem witness_moduleTimeout :
    (∀ b, b < 16 → b ≠ 0 → (berthOf arrivedMachine b).arrived = false) ∧ ∀ b, b < 16 → (berthOf dramMachine b).arrived = false := by
  decide +kernel
theorem witness_spendGroup_idle : ron (rput (stepped 800) 0 SXT_CTL_IDLE_EN 0) 0 SXT_CTL_IDLE_EN = false := by decide +kernel

/-- Both halves have nothing that waits to be sent. -/
theorem witness_quiet : halfQuiet (linkMachine 5 0) 0 ∧ halfQuiet (linkMachine 5 0) 1 ∧ (linkMachine 5 0).vil.halves.length = 2 := by
  unfold halfQuiet; decide +kernel
/-- A half whose companion has given it credits, and one in which an answer waits. -/
theorem witness_sni :
    hasCredit { VHalf.reset with credits := [9, 9, 9] } ⟨0, 0x07, 0, 1, 0, 0, []⟩ = true
    ∧ hasCredit { VHalf.reset with stalled := [⟨0, 0x07, 0, 1, 0, 0, []⟩] } ⟨0, 0x07, 0, 1, 0, 0, []⟩ = false
    ∧ (watchedLines leadMachine).contains (64 * ((1088 : BitVec 48).toNat / 64)) = true
    ∧ (watchedLines leadMachine).contains (64 * ((0x100000 : BitVec 48).toNat / 64)) = false
    ∧ leadOf leadMachine = some (rget leadMachine 0 LNK_CTL_LEADSTK) := by
  refine ⟨?_, by decide +kernel, by decide +kernel, by decide +kernel, by decide +kernel⟩
  have h : msgSlots ⟨0, 0x07, 0, 1, 0, 0, []⟩ = 1 := by decide +kernel
  simp only [hasCredit, sentClass, nth, VHalf.reset, h]
  simp
/-- Channel 247 retrains, and has been replayed eight times. -/
def crossMachine (train : List Nat) (n : Nat) : State :=
  { dramMachine with fleet := { dramMachine.fleet with xtrain := train, xreplays := [(247, n)] } }
theorem witness_crossings_retrain : (crossMachine [247] 0).fleet.xtrain.contains (247 : BitVec 8).toNat = true
    ∧ (logCount (crossMachine [] 0) (crossingUnit 247) true 1 0).2 = true ∧ (crossMachine [] 8).fleet.xtrain.contains 247 = false
    ∧ 8 ≤ mapGet (fun _ => 0) (crossMachine [] 8).fleet.xreplays 247 ∧ mapGet (fun _ => 0) (crossMachine [] 7).fleet.xreplays 247 < 8
    ∧ 4 ≤ (crossMachine [] 8).rst.domains := by
  decide +kernel

/-- A long command with Binnacle running, a fleet of eight modules, and a heartbeat that is late. -/
theorem witness_resets : binnacleRuns (longMachine 0x12) = true ∧ (5 : BitVec 10).toNat < moduleCount (rput fltrstMachine 0 FLT_MOD_COUNT 8)
    ∧ moduleCount fltrstMachine ≤ (5 : BitVec 10).toNat ∧ binnacleRuns (rset (beatMachine 0 5) 0 CLK_STATUS_BCK_OK) = true
    ∧ leadOf (rset (beatMachine 0 5) 0 CLK_STATUS_BCK_OK) = some 0 ∧ 7 ≤ (rset (beatMachine 0 5) 0 CLK_STATUS_BCK_OK).rst.domains
    ∧ wrapperClosed (rset (beatMachine 0 5) 0 CLK_STATUS_BCK_OK) 1 0 0 = false
    ∧ (stkOf (rset (beatMachine 0 5) 0 CLK_STATUS_BCK_OK) 0).beat + 10000000
      ≤ (elapseToTick (rset (beatMachine 0 5) 0 CLK_STATUS_BCK_OK) ((stkOf (rset (beatMachine 0 5) 0 CLK_STATUS_BCK_OK) 0).beat + 10000000)).tick := by
  decide +kernel
/-- Cause 1 has been recorded in this BCK cycle, and ranks before cause 4. -/
theorem witness_ranksBefore : ranksBefore dramMachine 4 = false
    ∧ ranksBefore { rput dramMachine 0 BNC_LAST_RESET_CAUSE 1 with rst := { dramMachine.rst with causeAt := some 0 } } 4 = true := by
  decide +kernel
/-- Samples of 48 V: 300 A, which is within the limits, and 500 A, which is above the 10 ms limit. -/
theorem witness_powerSample : binnacleRuns portClock = true ∧ binnacleRuns dramMachine = false ∧ pwrState portClock ≠ 4
    ∧ 20000 < ((min 65535 48000 * min 65535 5000 :: portClock.bnc.powers).take 1000).foldl (· + ·) 0 / (1000 * max 1 (min 1000 1))
    ∧ ((min 65535 4800 * min 65535 3000 :: portClock.bnc.powers).take 1000).foldl (· + ·) 0 / (1000 * max 1 (min 1000 1)) ≤ 20000 := by
  decide +kernel
/-- A stack whose ON was cleared while it ramps up. -/
theorem witness_rampDown : rget (rput (stackMachine 1) 0 PWR_STK_CTL_ON 0) 0 PWR_STK_STATUS_STATE = 1
    ∧ stackOnNow (rput (stackMachine 1) 0 PWR_STK_CTL_ON 0) 0 = false
    ∧ rget (rput (stackMachine 1) 0 PWR_STK_CTL_ON 0) 0 BNC_BRINGUP_STEP ≠ 5
    ∧ binnacleRuns (rset switchMachine 0 CLK_STATUS_BCK_OK) = true
    ∧ (rset switchMachine 0 CLK_STATUS_BCK_OK).pwr.switching.contains (.mesh 0) = true
    ∧ (resetOf switchMachine ⟨5, 0, 0⟩).isSome = false ∧ (resetOf (blockMachine 5 true false) ⟨5, 0, 0⟩).isSome = true := by
  decide +kernel
theorem witness_linkPlls : stackDie 0 = some 0 ∧ stackDie 1 = none ∧ 2 ≤ dramMachine.rst.domains
    ∧ (fmeasRange portClock .module).1 ≤ (fmeasRange portClock .module).2 := by
  decide +kernel
theorem witness_logAppend : binnacleRuns portLog = true ∧ 262144 ≤ ({ LogSt.reset with norUsed := 262144 } : LogSt).norUsed
    ∧ portLog.log.norUsed + (portLog.log.entries.countP fun e => portLog.log.changed.contains e.unit) ≤ 262144 := by
  decide +kernel
/-- GETs that read byte 64 of stack 0's DRAM, and one that does not. -/
theorem witness_withheld : addrModule (toDram .get 64 1 []).dest = moduleNo dramMachine ∧ addrRegion (toDram .get 64 1 []).dest = 0
    ∧ addrOff (toDram .get 64 1 []).dest ≤ 64 ∧ 64 < addrOff (toDram .get 64 1 []).dest + 1
    ∧ ¬ 64 < addrOff (toDram .get 63 1 []).dest + 1 := by
  decide +kernel

/-- Binnacle asks the lead Helm for an orderly stop; a berth's FINAL report is made, or not. -/
theorem witness_thermalAsked :
    (ron (rset leadMachine 0 BNC_STATUS_THERMSTOP) 0 BNC_STATUS_THERMSTOP = true
      ∧ ron (rset leadMachine 0 BNC_STATUS_THERMSTOP) (leadStk (rset leadMachine 0 BNC_STATUS_THERMSTOP)) HLM_STATUS_THERMSTOP = false)
    ∧ leadOf (rset dramMachine 0 BNC_STATUS_THERMSTOP) = none ∧ leadOf (rset leadMachine 0 BNC_STATUS_THERMSTOP) ≠ none
    ∧ ¬ (ron leadMachine 0 BNC_STATUS_THERMSTOP = true)
    ∧ (∀ i, i < 16 → berthState (rset leadMachine 0 BNC_STATUS_THERMSTOP) i ≠ 1 ∧ berthState (rset leadMachine 0 BNC_STATUS_THERMSTOP) i ≠ 2
        ∧ (berthOf (rset leadMachine 0 BNC_STATUS_THERMSTOP) i).step = .idle ∧ (berthOf (rset leadMachine 0 BNC_STATUS_THERMSTOP) i).thermal = false)
    ∧ finalMade berthMachine 0 = false ∧ berthState berthMachine 0 = 1 ∧ (berthOf berthMachine 0).step = .idle
    ∧ finalMade (withBerth fun b => { b with held := [⟨[], 0, 0, true⟩] }) 0 = true := by
  decide +kernel

/-- The entry before completed in this cycle; a sequence conversion of a channel that Binnacle takes; the fast pair's. -/
theorem witness_conversions_taken :
    ({ adc [] (some true) [] with snd := { SndSt.reset with active := some true, doneAt := some 0 } } : State).snd.doneAt = some (adc [] none []).cyc
    ∧ (let s := rput (adc [] (some true) []) 0 SND_SEQ_CH 5
      s.snd.active = some true ∧ rget s 0 SND_STATUS_ENTRY < 32 ∧ rget s 0 SND_SEQ_CH (rget s 0 SND_STATUS_ENTRY) = 5)
    ∧ taken_ 5
    ∧ binnacleRuns (adc [(3, true), (4, true)] (some false) [CLK_STATUS_BCK_OK]) = true
    ∧ (adc [(3, true), (4, true)] (some false) [CLK_STATUS_BCK_OK]).snd.urgent = (3, true) :: [(4, true)]
    ∧ (adc [(4, true)] (some false) [CLK_STATUS_BCK_OK]).snd.urgent = (4, true) :: []
    ∧ binnacleRuns (adc [] none []) = false ∧ 3 ≤ (adc [] none []).rst.domains := by
  refine ⟨by decide +kernel, by decide +kernel, by unfold taken_; decide, by decide +kernel⟩
/-- A flag that agrees with the reading of 800 mV, and one that does not, for the first time and for the fourth. -/
theorem witness_sampleFlag :
    decide (776 * 4096 ≤ 1311 * 2500 * 1 ∧ 1311 * 2500 * 1 ≤ 824 * 4096) = true ∧ ron dramMachine 0 PWR_STK_STATUS_VBD_OK = false
    ∧ ron (rset dramMachine 0 PWR_STK_STATUS_VBD_OK) 0 PWR_STK_STATUS_VBD_OK = true
    ∧ mapGet (fun _ => 0) dramMachine.snd.agree 8 < 3
    ∧ 3 ≤ mapGet (fun _ => 0) ({ SndSt.reset with agree := [(8, 3)] } : SndSt).agree 8 := by
  decide +kernel

/-- Main power and the reference are back after a module reset, and bring-up goes on. -/
theorem witness_releaseAgain :
    let u := { orderMachine 1 0 3 with rst := (moduleReset dramMachine 4 false).rst }
    u.rst = (moduleReset dramMachine 4 false).rst ∧ bringing u = true ∧ preconditionHolds u 2 = true :=
  ⟨rfl, by decide +kernel, by decide +kernel⟩
theorem witness_releaseFirst : preconditionHolds (moduleReset portClock 4 true) 1 = true := by decide +kernel
theorem witness_throttle_runs : fleetMode portClock = false ∧ binnacleRuns portClock = true ∧ binnacleRuns dramMachine = false := by
  decide +kernel
/-- Lodestar is BUSY while the port is not, and the other way round. -/
theorem witness_bearing_fuses : ron (rset portClock 0 LSR_STATUS_BUSY) 0 LSR_STATUS_BUSY = true
    ∧ portRuns (rset portClock 0 LSR_STATUS_BUSY) = true ∧ ron portClock 0 LSR_STATUS_BUSY = false
    ∧ (longMachine 0x12).bnc.long = some (0x12, 0, 0) ∧ ron (longMachine 0x13) (leadStk (longMachine 0x13)) HLM_IMG_STATUS_BUSY = false := by
  decide +kernel
theorem witness_portReset : pget State.reset 15 FLT_PORT_EN = 1 := by decide +kernel

/-! ### The step and the numbers -/

theorem witness_step : (dramMachine.withCommand .poweron).pending = .poweron :: [] ∧ dramMachine.pending = []
    ∧ machineSafe (dramMachine.withCommand .poweron) = true := by
  decide +kernel
theorem witness_blocks : ∃ b ∈ convertRow true 0 [1, -5, 300], b.elems.head? ≠ none := by decide +kernel
theorem witness_elements : 2 * 1 < ([-8, 3, 7, -1] : List Int).length ∧ -(8 : Int) ≤ ([-8, 3, 7, -1] : List Int).getD 0 0
    ∧ ([-8, 3, 7, -1] : List Int).getD 0 0 < 8 := by
  decide
/-- R31, R32: −8 and 3 pack into one byte, and 2^95 − 1 is the largest value that a container holds. -/
theorem test_packElements : packElements false [-8, 3, 7, -1] = [0x38, 0xF7] ∧ elementOf false [0x38, 0xF7] 0 = -8 := by decide +kernel
theorem test_longContainer : longOf (longBytes (2 ^ 95 - 1) false) = 2 ^ 95 - 1 ∧ longOvf (longBytes (-1) true) = true := by
  decide +kernel

end Sys2Proof.Tests
end

section
/-!
PROOFS. What a write leaves in a field, and what a read shows of it, by the field's access code (R7, R8, Table 0.3).
-/

namespace Sys2Proof.Claims

open Sys2Proof Sys2Proof.Machine

/-- The content of a field after a write of `new` over `was`, by the field's access code (Table 0.3). -/
def fieldAfterWrite (acc : Acc) (locked : Bool) (was new : Nat) : Nat :=
  match acc with
  | .rw => new
  | .rwl => if locked then was else new
  | .w1c => was - (was &&& new)
  | .w1s => was ||| new
  | .ro => was
  | .wo => was

theorem bitsOf_putBits_of_lt {x lo w v : Nat} (h : v < 2 ^ w) : bitsOf (putBits x lo w v) lo w = v := by
  rw [bitsOf_putBits, Nat.mod_eq_of_lt h]

/-- A field that fits in a register keeps its value as a 32-bit word. -/
theorem toNat_ofNat_bitsOf (x lo w : Nat) (h : lo + w ≤ 32) : (BitVec.ofNat 32 (bitsOf x lo w)).toNat = bitsOf x lo w := by
  have hw : 2 ^ w ≤ 2 ^ 32 := Nat.pow_le_pow_right (by decide) (by omega)
  rw [BitVec.toNat_ofNat, Nat.mod_eq_of_lt ((bitsOf_lt x lo w).trans_le hw)]

/-- A write to one field leaves in it what its access code says. -/
theorem bitsOf_storeField (locked : Bool) (old v : Nat) (f : Fld) (h : f.lo + f.width ≤ 32) :
    bitsOf (storeField locked old v f) f.lo f.width
      = fieldAfterWrite f.acc locked (bitsOf old f.lo f.width) (bitsOf v f.lo f.width) := by
  have hwas := bitsOf_lt old f.lo f.width
  have hnew := bitsOf_lt v f.lo f.width
  unfold storeField fieldAfterWrite
  cases f.acc with
  | rw => exact bitsOf_putBits_of_lt hnew
  | rwl =>
    cases locked with
    | true => rfl
    | false => exact bitsOf_putBits_of_lt hnew
  | w1c =>
    dsimp only
    rw [BitVec.toNat_and, toNat_ofNat_bitsOf _ _ _ h, toNat_ofNat_bitsOf _ _ _ h]
    exact bitsOf_putBits_of_lt ((Nat.sub_le _ _).trans_lt hwas)
  | w1s =>
    dsimp only
    rw [BitVec.toNat_or, toNat_ofNat_bitsOf _ _ _ h, toNat_ofNat_bitsOf _ _ _ h]
    exact bitsOf_putBits_of_lt (Nat.or_lt_two_pow hwas hnew)
  | ro => rfl
  | wo => rfl

/-- In a register whose fields share no bit, a write leaves in each field what that field's access code says. -/
theorem bitsOf_storeWord {fs : List Fld} {off i : Nat} {f : Fld} (hsep : sepAll fs = true) (hf : f ∈ fs)
    (hi : fldIndex f off = some i) (locked : Bool) (old v : Word) :
    bitsOf (storeWord fs locked off old v).toNat f.lo f.width
      = fieldAfterWrite f.acc locked (bitsOf old.toNat f.lo f.width) (bitsOf v.toNat f.lo f.width) := by
  have hfit := sepAll_fits fs f hsep hf
  obtain ⟨w, hw, hfold⟩ := fold_field locked off v.toNat i f hi fs old.toNat hsep hf
  calc bitsOf (storeWord fs locked off old v).toNat f.lo f.width
      = bitsOf (fs.foldl (stepFld locked off v.toNat) old.toNat) f.lo f.width := by
        rw [storeWord, BitVec.toNat_ofNat, bitsOf_mod _ _ _ _ hfit]; rfl
    _ = bitsOf (storeField locked w v.toNat f) f.lo f.width := hfold
    _ = _ := by rw [bitsOf_storeField _ _ _ _ hfit, hw]

/-! ### Reading: the view of a word is a write of 0 to its write-only fields -/

/-- A field whose write does to it what a read does to its view: read/write if it is write-only, else read-only. -/
def viewFld (f : Fld) : Fld := { f with acc := if f.acc = .wo then .rw else .ro }

theorem fldIndex_viewFld (f : Fld) (off : Nat) : fldIndex (viewFld f) off = fldIndex f off := rfl

theorem sepAll_map_viewFld (fs : List Fld) : sepAll (fs.map viewFld) = sepAll fs := by
  induction fs with
  | nil => rfl
  | cons f fs ih =>
    simp only [List.map_cons, sepAll, List.all_map, ih]
    rfl

theorem storeField_viewFld (w : Nat) (f : Fld) :
    storeField false w 0 (viewFld f) = if f.acc = .wo then putBits w f.lo f.width 0 else w := by
  unfold storeField viewFld
  by_cases h : f.acc = .wo
  · simp [h, bitsOf]
  · simp [h]

theorem readWord_eq_storeWord (fs : List Fld) (off : Nat) (w : Word) :
    readWord fs off w = storeWord (fs.map viewFld) false off w 0 := by
  unfold readWord storeWord
  rw [List.foldl_map]
  refine congrArg (BitVec.ofNat 32) (List.foldl_ext _ _ _ fun x f _ => ?_)
  rw [fldIndex_viewFld]
  cases fldIndex f off with
  | none => rfl
  | some i => exact (storeField_viewFld x f).symm

/-- A write-only field reads 0, and every other field reads as it is. -/
theorem bitsOf_readWord {fs : List Fld} {off i : Nat} {f : Fld} (hsep : sepAll fs = true) (hf : f ∈ fs)
    (hi : fldIndex f off = some i) (w : Word) :
    bitsOf (readWord fs off w).toNat f.lo f.width = if f.acc = .wo then 0 else bitsOf w.toNat f.lo f.width := by
  have h := bitsOf_storeWord (f := viewFld f) ((sepAll_map_viewFld fs).trans hsep) (List.mem_map_of_mem hf)
    ((fldIndex_viewFld f off).trans hi) false w 0
  rw [readWord_eq_storeWord]
  refine h.trans ?_
  by_cases hwo : f.acc = .wo
  · simp [viewFld, hwo, fieldAfterWrite, bitsOf]
  · simp [viewFld, hwo, fieldAfterWrite]

/-- Settles O28: the fields of one register share no bit (`tables_sep`), so each field is decided by its own access code. -/
theorem accessCodes : Obligations.AccessCodes := by
  unfold Obligations.AccessCodes
  intro fs locked off i old v f htable hf hi
  have hsep := tables_sep off fs htable
  dsimp only
  rw [bitsOf_storeWord hsep hf hi]
  refine ⟨fun h => ?_, fun h => ?_, fun h => ?_, fun h j _ => ?_, fun h j _ => ?_, fun h => ?_,
    bitsOf_readWord hsep hf hi old⟩
  · rw [h, fieldAfterWrite]
  · rw [h, fieldAfterWrite]
  · rw [h, fieldAfterWrite]
  · rw [h, fieldAfterWrite, bitOf_testBit, bitOf_testBit, bitOf_testBit, sub_and_bit]
  · rw [h, fieldAfterWrite, bitOf_testBit, bitOf_testBit, bitOf_testBit, Nat.testBit_or]
  · rw [h, fieldAfterWrite]

end Sys2Proof.Claims
end

section
/-!
PROOFS. Every step of a safe machine goes on, keeps it safe and takes the front of the queue.
-/

namespace Sys2Proof.Claims

open Sys2Proof Sys2Proof.Machine

/-! ### Every command answers a next state: no branch of a meaning faults or refuses -/

/-- Whether an outcome is a next state. For the outcome of `step s` this is `goesOn s`. -/
def AnswersNext (o : Host.Outcome State Fault Refusal) : Prop := ∃ t, o = .next t

theorem AnswersNext.next (t : State) : AnswersNext (.next t) := ⟨t, rfl⟩

theorem AnswersNext.ite {c : Prop} [Decidable c] {a b : Host.Outcome State Fault Refusal} (ha : AnswersNext a)
    (hb : AnswersNext b) : AnswersNext (if c then a else b) := by split <;> assumption

/-- A test between two next states. -/
theorem AnswersNext.test {c : Prop} [Decidable c] (t u : State) :
    AnswersNext (if c then .next t else .next u) := .ite (.next t) (.next u)

theorem execTileClockGate_answersNext (r : TileRef) (s : State) : AnswersNext (execTileClockGate r s) := by
  unfold execTileClockGate
  split
  · exact .next _
  · exact .test _ _

theorem execEndToEndTimeout_answersNext (r : TileRef) (tag : BitVec 5) (s : State) :
    AnswersNext (execEndToEndTimeout r tag s) := by
  unfold execEndToEndTimeout
  split
  · exact .next _
  · exact .test _ _

theorem execCommitPoint_answersNext (b : BitVec 4) (s : State) : AnswersNext (execCommitPoint b s) := by
  unfold execCommitPoint
  dsimp only
  split
  · exact .test _ _
  · exact .next _

theorem execReleaseRecord_answersNext (b : BitVec 4) (w : Word) (vmax : Half) (s : State) :
    AnswersNext (execReleaseRecord b w vmax s) := by
  unfold execReleaseRecord
  dsimp only
  split
  · exact .test _ _
  · exact .next _

theorem execStepTimeout_answersNext (b : BitVec 4) (s : State) : AnswersNext (execStepTimeout b s) := by
  unfold execStepTimeout
  dsimp only
  split
  · exact .test _ _
  · exact .next _

theorem execIdleCycle_answersNext (r : TileRef) (s : State) : AnswersNext (execIdleCycle r s) := by
  unfold execIdleCycle
  dsimp only
  split
  · exact .next _
  · exact .ite (.next _) (.test _ _)

theorem execGroupComplete_answersNext (k : BitVec 3) (site group : Nat) (fix : Bool) (r : GroupResult) (s : State) :
    AnswersNext (execGroupComplete k site group fix r s) := by
  refine .ite (.next _) (.ite (.next _) ?_)
  split
  · exact .next _
  · exact .test _ _

theorem execStressTest_answersNext (r : TileRef) (pass : Bool) (s : State) : AnswersNext (execStressTest r pass s) := by
  refine .ite (.next _) ?_
  dsimp only
  split <;> exact .next _

theorem execReplayWatch_answersNext (b : BitVec 4) (s : State) : AnswersNext (execReplayWatch b s) := by
  unfold execReplayWatch
  dsimp only
  split
  · exact .test _ _
  · exact .next _

theorem execAbandonNoticeTimeout_answersNext (b : BitVec 4) (s : State) :
    AnswersNext (execAbandonNoticeTimeout b s) := by
  unfold execAbandonNoticeTimeout
  dsimp only
  split
  · exact .test _ _
  · exact .next _

theorem execMuxHang_answersNext (m : MuxRef) (s : State) : AnswersNext (execMuxHang m s) := by
  unfold execMuxHang
  split
  · exact .next _
  · exact .test _ _

theorem execQuiesceTimeout_answersNext (b : UnitRef) (s : State) : AnswersNext (execQuiesceTimeout b s) := by
  unfold execQuiesceTimeout
  split
  · exact .next _
  · exact .test _ _

theorem execLongdone_answersNext (code : Byte) (s : State) : AnswersNext (execLongdone code s) := by
  refine .ite (.next _) ?_
  split
  · exact .next _
  · exact .test _ _

theorem execSequencePass_answersNext (s : State) : AnswersNext (execSequencePass s) := by
  refine .ite (.next _) (.ite (.next _) ?_)
  dsimp only
  split <;> exact .next _

theorem execPllLock_answersNext (k pll : BitVec 3) (s : State) : AnswersNext (execPllLock k pll s) := by
  refine .ite (.next _) (.ite (.next _) (.ite (.next _) ?_))
  split <;> exact .next _

/-- No command faults and none is refused: every branch of its meaning ends in a next state. The commands are grouped by
what their meaning decides before it answers. -/
theorem exec_answersNext (c : Instr) (s : State) : AnswersNext (exec c s) := by
  cases c
  -- One test.
  case trainingLimit | discoverySettle | timingFrame | offsetMeasure | slew | watchBoundary | abandonNotice
      | abandonRecord | grace => exact .test _ _
  -- A second test where the first one fails.
  case stepBoundary | heartbeatTimeout | stackPowerDone => exact .ite (.next _) (.test _ _)
  -- The kind of waiter or of clock.
  case fleetWaypointTimeout w => cases w <;> exact .next _
  case clockReturn l => cases l <;> exact .next _
  -- One lookup: a tile's site, a queue's first entry, a berth's step, a block's reset, a conversion.
  case wakeRequest | clockStartGrant | clockStopGrant | stackCommitRelease | dogSlot | idleAck | blockRelease
      | conversionDone =>
    simp only [exec, execWakeRequest, execClockStartGrant, execClockStopGrant, execStackCommitRelease, execDogSlot,
      execIdleAck, execBlockRelease, execConversionDone]
    split <;> exact .next _
  -- Lookups and tests.
  case tileClockGate r => exact execTileClockGate_answersNext r s
  case endToEndTimeout r tag => exact execEndToEndTimeout_answersNext r tag s
  case commitPoint b => exact execCommitPoint_answersNext b s
  case releaseRecord b w vmax => exact execReleaseRecord_answersNext b w vmax s
  case stepTimeout b => exact execStepTimeout_answersNext b s
  case idleCycle r => exact execIdleCycle_answersNext r s
  case groupComplete k site group fix r => exact execGroupComplete_answersNext k site group fix r s
  case stressTest r pass => exact execStressTest_answersNext r pass s
  case replayWatch b => exact execReplayWatch_answersNext b s
  case abandonNoticeTimeout b => exact execAbandonNoticeTimeout_answersNext b s
  case muxHang m => exact execMuxHang_answersNext m s
  case quiesceTimeout b => exact execQuiesceTimeout_answersNext b s
  case longdone code => exact execLongdone_answersNext code s
  case sequencePass => exact execSequencePass_answersNext s
  case pllLock k pll => exact execPllLock_answersNext k pll s
  -- Every other command has one answer.
  all_goals exact .next _

/-! ### The step, by the queue -/

theorem step_of_pending_nil {s : State} (h : s.pending = []) : step s = .next s := by rw [step, h]

theorem step_of_pending_cons {s : State} {c : Instr} {rest : List Instr} (h : s.pending = c :: rest) :
    step s = exec c { s with pending := rest } := by rw [step, h]

theorem step_goesOn (s : State) : goesOn s := by
  cases hq : s.pending with
  | nil => exact ⟨s, step_of_pending_nil hq⟩
  | cons c rest =>
    obtain ⟨t, ht⟩ := exec_answersNext c { s with pending := rest }
    exact ⟨t, (step_of_pending_cons hq).trans ht⟩

/-! ### What a step leaves of the queue and of safety -/

theorem exec_pending {c : Instr} {s t : State} (h : exec c s = .next t) : t.pending = s.pending :=
  (exec_frame c s t h).pending.resolve_left (by decide)

theorem exec_safeParts {c : Instr} {s t : State} (h : exec c s = .next t) (hs : SafeParts s) : SafeParts t :=
  (exec_frame c s t h).safe hs

/-- Safety does not look at the queue. -/
theorem safeParts_with_pending {s : State} (h : SafeParts s) (q : List Instr) : SafeParts { s with pending := q } where
  regs := h.regs
  dram := h.dram
  tiles := h.tiles
  tile := h.tile
  stk := h.stk
  fleet := h.fleet
  serve := h.serve
  vil := h.vil

/-- A step takes exactly the front of the queue and keeps a safe machine safe. -/
theorem step_pending_and_safe {s t : State} (h : step s = .next t) (hs : SafeParts s) :
    t.pending = s.pending.tail ∧ SafeParts t := by
  cases hq : s.pending with
  | nil =>
    rw [step_of_pending_nil hq] at h
    cases h
    exact ⟨hq, hs⟩
  | cons c rest =>
    rw [step_of_pending_cons hq] at h
    exact ⟨exec_pending h, exec_safeParts h (safeParts_with_pending hs rest)⟩

/-- Settles O55: no command faults or is refused (`exec_answersNext`), and none touches the queue or leaves the
canonical form (`exec_frame`). -/
theorem stepKeepsSafe : Obligations.StepKeepsSafe := by
  unfold Obligations.StepKeepsSafe
  intro s hs
  obtain ⟨t, ht⟩ := step_goesOn s
  obtain ⟨hqueue, hsafe⟩ := step_pending_and_safe ht ((machineSafe_iff s).mp hs)
  exact ⟨t, ht, (machineSafe_iff t).mpr hsafe, hqueue⟩

end Sys2Proof.Claims
end

section
/-!
PROOFS. Narrow elements and containers of long values in memory (R31, R32, R43).
-/

namespace Sys2Proof.Claims

open Sys2Proof Sys2Proof.Machine

/-! ### Packed elements (R32) -/

/-- Only the low `w` bits count for a two's-complement value. -/
theorem signed_mod (w x : Nat) : signed w (x % 2 ^ w) = signed w x := by
  simp only [signed, Nat.mod_mod]

theorem elementOf_packed_wide {xs : List Int} {i : Nat} (hi : i < xs.length) (hlo : -128 ≤ xs.getD i 0)
    (hhi : xs.getD i 0 < 128) : elementOf true (packElements true xs) i = xs.getD i 0 := by
  have hbyte : ((packElements true xs).getD i 0).toNat = unsigned 8 (xs.getD i 0) := by
    have hfit : unsigned 8 xs[i] < 256 := unsigned_bound 8 xs[i]
    simpa [packed_wide, hi] using hfit
  calc elementOf true (packElements true xs) i
      = signed 8 (unsigned 8 (xs.getD i 0)) := by rw [← hbyte]; rfl
    _ = xs.getD i 0 := signed_unsigned 8 (by decide) _ hlo hhi

/-- The nibble of a packed byte in which element `i` stands: the low one for an even `i`, the high one for an odd `i`. -/
theorem packed_nibble {xs : List Int} {i : Nat} (hi : i < xs.length) :
    ((packElements false xs).getD (i / 2) 0).toNat / 16 ^ (i % 2) % 2 ^ 4 = unsigned 4 (xs.getD i 0) := by
  have hbyte := packed_narrow xs (i / 2) (by omega)
  have hlow := unsigned_bound 4 (xs.getD (2 * (i / 2)) 0)
  have hhigh := unsigned_bound 4 (xs.getD (2 * (i / 2) + 1) 0)
  rcases Nat.mod_two_eq_zero_or_one i with h | h
  · have hplace : 2 * (i / 2) = i := by omega
    rw [hbyte, h]
    rw [hplace] at hlow ⊢
    omega
  · have hplace : 2 * (i / 2) + 1 = i := by omega
    rw [hbyte, h]
    rw [hplace] at hhigh ⊢
    omega

theorem elementOf_packed_narrow {xs : List Int} {i : Nat} (hi : i < xs.length) (hlo : -8 ≤ xs.getD i 0)
    (hhi : xs.getD i 0 < 8) : elementOf false (packElements false xs) i = xs.getD i 0 := by
  calc elementOf false (packElements false xs) i
      = signed 4 (((packElements false xs).getD (i / 2) 0).toNat / 16 ^ (i % 2)) := rfl
    _ = signed 4 (unsigned 4 (xs.getD i 0)) := by rw [← signed_mod, packed_nibble hi]
    _ = xs.getD i 0 := signed_unsigned 4 (by decide) _ hlo hhi

/-! ### Converted rows (R31, R45, R48) -/

theorem convertRow_bounds {wide : Bool} {conv : Nat} {ys : List Int} {b : Block} {q : Int}
    (hb : b ∈ convertRow wide conv ys) (hq : q ∈ b.elems) : -(limitOf wide : Int) ≤ q ∧ q ≤ (limitOf wide : Int) := by
  unfold convertRow at hb
  dsimp only at hb
  split at hb
  case isTrue =>
    obtain ⟨_, _, rfl⟩ := List.mem_map.1 hb
    exact convertBlock_bounds _ _ _ _ _ _ hq
  case isFalse =>
    split at hb
    case isTrue => exact convertPairs_bounds _ _ _ _ hb hq
    case isFalse =>
      obtain ⟨_, _, rfl⟩ := List.mem_map.1 hb
      exact convertBlock_bounds _ _ _ _ _ _ hq

/-- Settles O56: conversion clamps to the format's limit, and an element's bits stand in a byte, or in a nibble, of their
own, from which its two's-complement value is read back. -/
theorem narrowElements : Obligations.NarrowElements := by
  unfold Obligations.NarrowElements
  refine ⟨fun wide conv ys b q hb hq => ?_, packed_wide, packed_narrow, fun wide xs i hi hlo hhi => ?_⟩
  · have h := convertRow_bounds hb hq
    cases wide
    · exact h
    · exact h
  · cases wide with
    | false => exact elementOf_packed_narrow hi hlo hhi
    | true => exact elementOf_packed_wide hi hlo hhi

/-! ### Containers of long values (R43) -/

@[simp] theorem length_longBytes (v : Int) (ovf : Bool) : (longBytes v ovf).length = 16 := by
  simp [longBytes, leBytes_len]

theorem leVal_leBytes_unsigned (v : Int) : leVal (leBytes 12 (unsigned 96 v)) = unsigned 96 v := by
  have hfit : unsigned 96 v < 256 ^ 12 := unsigned_bound 96 v
  rw [leVal_leBytes, Nat.mod_eq_of_lt hfit]

theorem leVal_longBytes (v : Int) (ovf : Bool) :
    leVal (longBytes v ovf) = unsigned 96 v + (if ovf then 2 ^ 96 else 0) := by
  unfold longBytes
  rw [leVal_append, leVal_leBytes_unsigned, leBytes_len]
  cases ovf
  · rfl
  · rfl

@[simp] theorem longOvf_longBytes (v : Int) (ovf : Bool) : longOvf (longBytes v ovf) = ovf := by
  have hbyte : (longBytes v ovf).getD 12 0 = if ovf then 1 else 0 := rfl
  rw [longOvf, hbyte]
  cases ovf
  · rfl
  · rfl

theorem longOf_longBytes {v : Int} (ovf : Bool) (hlo : -2 ^ 95 ≤ v) (hhi : v < 2 ^ 95) :
    longOf (longBytes v ovf) = v := by
  have hvalue : (longBytes v ovf).take 12 = leBytes 12 (unsigned 96 v) := List.take_left' (leBytes_len 12 _)
  rw [longOf, hvalue, leVal_leBytes_unsigned]
  exact signed_unsigned 96 (by decide) v hlo hhi

/-- Settles O57: a container is the value's 12 bytes and then a byte whose lowest bit is OVF, and a sum's container is one
whose value saturation holds in range. -/
theorem longContainers : Obligations.LongContainers := by
  unfold Obligations.LongContainers
  refine ⟨fun v ovf => ⟨length_longBytes v ovf, leVal_longBytes v ovf, longOvf_longBytes v ovf⟩,
    fun v ovf hlo hhi => longOf_longBytes ovf hlo hhi, fun a b => ⟨?_, longOvf_longBytes _ _⟩⟩
  obtain ⟨hlo, hhi⟩ := saturate_bounds (longOf a + longOf b)
  exact longOf_longBytes _ hlo hhi

end Sys2Proof.Claims
end

section
/-!
PROOFS. The Plot engine's numeric and set instructions (R52 to R55, R165, R166).
-/

namespace Sys2Proof.Claims

open Sys2Proof Sys2Proof.Machine

/-- An instruction with no condition beyond issue has the effect that its unit runs. -/
theorem acts_unit {s : State} {e : Engine} {op : Nat} {i : Issue} {ph : Bool} {u : OpUnit}
    {out : Host.Outcome State Fault Refusal} (ho : out = .next (runIssue s e op i ph u)) :
    Acts s e op i ph u always u.run out := acts_run ho fun _ _ _ _ => rfl

theorem plotNumbers : PlotNumbers := by
  intro s i
  refine ⟨?norm, ?score, ?softmax, ?vprod, ?topk, ?sort⟩
  case norm => exact acts_unit rfl
  case score => exact acts_unit rfl
  case softmax => exact acts_unit rfl
  case vprod => exact acts_unit rfl
  case topk => exact acts_unit rfl
  case sort => exact acts_unit rfl

/-- PLT.MERGE and PLT.ISECT on two key lists in order (R166). -/
theorem setopUnit_run_of_ordered {n : Enc} {op : List Nat → List Nat → List Nat} {bound : Nat → Nat → Nat} {c : Ctx}
    {t : Tile} {fl : Flight} (ha : ordered ((List.range (setNa (shape t n))).map (cellU t (pltA t n).toNat)) = true)
    (hb : ordered ((List.range (setNb (shape t n))).map (cellU t (pltB t n).toNat)) = true) :
    (setopUnit n op bound).run c t fl =
      (let out := op ((List.range (setNa (shape t n))).map (cellU t (pltA t n).toNat))
        ((List.range (setNb (shape t n))).map (cellU t (pltB t n).toNat))
      (pltDone c (swrite t (pltC t n).toNat (leBytes 4 out.length ++ out.flatMap (leBytes 4))) fl
        (ceilDiv (setNa (shape t n) + setNb (shape t n)) 4 + 20) (setReads t n)
        [((pltC t n).toNat, 4 + 4 * out.length)], [])) := by
  unfold setopUnit
  dsimp only
  rw [ha, hb]
  rfl

theorem plotSets : PlotSets := by
  intro s i
  refine ⟨?merge, ?isect⟩
  case merge => exact acts_run rfl fun _ _ _ ⟨ha, hb⟩ => setopUnit_run_of_ordered ha hb
  case isect => exact acts_run rfl fun _ _ _ ⟨ha, hb⟩ => setopUnit_run_of_ordered ha hb

/-- Settles O7: an instruction that issues runs its unit (`acts_run`), and MERGE and ISECT of lists in order are the branch
of `setopUnit_run_of_ordered`. -/
theorem plotNumbersAndSets : Obligations.PlotNumbersAndSets := by
  unfold Obligations.PlotNumbersAndSets
  exact ⟨plotNumbers, plotSets⟩

end Sys2Proof.Claims
end

section
/-!
PROOFS. Reductions, CAS64, ARRIVE and a multicast's branch at their destination (R42, R169, R173, R332).
-/

namespace Sys2Proof.Claims

open Sys2Proof Sys2Proof.Machine

/-! ### Reductions at their destination (R42, R169) -/

/-- What a reduction flit `p` answers of SAT where its destination held `old`: a LADD says nothing (R42). -/
def reductionSat (op : PktOp) (p : Packet) (old : List Byte) : Bool :=
  op != .ladd && ((addBytes op old (p.data.take (p.len * opSize op))).2 || p.sat)

theorem destRead_dram (s : State) (k off n : Nat) : destRead s (.dram k off) n = dread s k off n := rfl

theorem destAtomic_dram (s : State) (k off : Nat) (bs : List Byte) :
    destAtomic s (.dram k off) bs = dwrite s k off bs := rfl

theorem reduce_dramAnswered {s : State} {p : Packet} {k off : Nat} (op : PktOp) (hm : addrModule p.dest = moduleNo s)
    (hd : destOf s p.dest (p.len * opSize op) p.src = .dram k off) :
    DramAnswered s { p with op := op } k off
      (addBytes op (dread s k off (p.len * opSize op)) (p.data.take (p.len * opSize op))).1 .ok
      (reductionSat op p (dread s k off (p.len * opSize op))) [] (.next (reduceAtDest s { p with op := op })) := by
  have h := reduce_here s p op hm _ hd rfl
  rw [destRead_dram, destAtomic_dram] at h
  exact dramAnswered s { p with op := op } k off _ _ _ _ _ (congrArg _ h)

theorem reduce_tileAnswered {s : State} {p : Packet} {r : TileRef} {off site : Nat} (op : PktOp)
    (hm : addrModule p.dest = moduleNo s) (hs : siteOf s r.stack.toNat r.tile.toNat = some site)
    (hd : destOf s p.dest (p.len * opSize op) p.src = .tile r off) :
    let old := sread (settleBefore s.cyc (tileAt s r.stack.toNat site)) off (p.len * opSize op)
    TileAnswered s { p with op := op } r site
      (tileAtomic s r site off (addBytes op old (p.data.take (p.len * opSize op))).1) .ok (reductionSat op p old) []
      (.next (reduceAtDest s { p with op := op })) := by
  have h := reduce_here s p op hm _ hd rfl
  rw [destRead_tile s r off _ site hs] at h
  exact tileAtomic_answered s { p with op := op } r site off _ _ _ _ _ hs (congrArg _ h)

theorem reductionPackets : ReductionPackets := by
  intro s p hm
  refine ⟨fun k off hd => ?add32, fun k off hd => ?add64, fun k off hd => ?ladd, fun r off site hs =>
    ⟨fun hd => ?tileAdd32, fun hd => ?tileAdd64, fun hd => ?tileLadd⟩⟩
  case add32 => exact reduce_dramAnswered .add32 hm hd
  case add64 => exact reduce_dramAnswered .add64 hm hd
  case ladd => exact reduce_dramAnswered .ladd hm hd
  case tileAdd32 => exact reduce_tileAnswered .add32 hm hs hd
  case tileAdd64 => exact reduce_tileAnswered .add64 hm hs hd
  case tileLadd => exact reduce_tileAnswered .ladd hm hs hd

/-! ### CAS64 and ARRIVE at their destination -/

theorem cas_equal {s : State} {p : Packet} {d : Dest} (hm : addrModule p.dest = moduleNo s)
    (hd : destOf s p.dest 8 p.src = d) (ha : atomicDest d = true) (hold : destRead s d 8 = p.data.take 8) :
    exec (.cas64 p) s = .next (complete (destAtomic s d ((p.data.drop 8).take 8)) (addrStack p.dest) p .ok false
      (p.data.take 8)) := by
  have h := cas_here s p hm d hd ha
  rw [if_pos hold, hold] at h
  exact h

theorem cas_different {s : State} {p : Packet} {d : Dest} (hm : addrModule p.dest = moduleNo s)
    (hd : destOf s p.dest 8 p.src = d) (ha : atomicDest d = true) (hold : destRead s d 8 ≠ p.data.take 8) :
    exec (.cas64 p) s = .next (complete s (addrStack p.dest) p .ok false (destRead s d 8)) := by
  have h := cas_here s p hm d hd ha
  rw [if_neg hold] at h
  exact h

theorem arrive_here {s : State} {p : Packet} {r : TileRef} {off : Nat} (hm : addrModule p.dest = moduleNo s)
    (hd : destOf s p.dest 16 p.src = .tile r off) (hcounter : off % 16 = 0 ∧ 0x7D000 ≤ off ∧ off ≤ 0x7DF70) :
    exec (.arrive p) s = .next (complete (changeTile s r fun _ t => arriveAt t off (leVal (p.data.take 2)))
      (addrStack p.dest) p .ok false []) := by
  refine congrArg _ ((atModule_here s p _ hm).trans ?_)
  dsimp only
  rw [hd]
  exact if_pos hcounter

/-! ### A multicast with one target in this module (R332, R333) -/

/-- The PUT that the branch of a multicast to its target `t` is. -/
def branchOf (p : Packet) (t : Nat × Dword) : Packet := { p with op := .put, dest := t.2, targets := [t] }

/-- A stack replaced by itself. -/
theorem putStk_self (s : State) (k : Nat) : putStk s k (stkOf s k) = s := by
  have hself : s.stk.set k (stkOf s k) = s.stk := by
    rcases lt_or_ge k s.stk.length with h | h
    · rw [stkOf, List.getD_eq_getElem _ _ h, List.set_getElem_self]
    · exact List.set_eq_of_length_le h
  rw [putStk, hself]

/-- A multicast that no buffer holds is only taken out of the network. -/
theorem takeMcast_of_notBuffered {s : State} {k : Nat} {e : McastEntry}
    (h : (stkOf s k).mcasts.contains e = false) : takeMcast s k e = { s with net := s.net.erase e.packet } := by
  have hmem : e ∉ (stkOf s k).mcasts := by simpa using h
  rw [takeMcast, List.erase_of_not_mem hmem]
  exact putStk_self { s with net := s.net.erase e.packet } k

theorem mputTarget_dram {s : State} {p : Packet} {t : Nat × Dword} {k off : Nat}
    (hd : destOf s t.2 p.len p.src = .dram k off) :
    mputTarget p s t = complete (dwrite s k off (p.data.take p.len)) k (branchOf p t) .ok false [] := by
  unfold mputTarget
  rw [hd]
  rfl

/-- A multicast whose one target lies in this module has its only branch there, when no branch waits. -/
theorem replicate_one_here {s : State} {k : Nat} {e : McastEntry} {t : Nat × Dword} (ht : e.packet.targets = [t])
    (hm : addrModule t.2 = moduleNo s) : replicate_ s k e [] = mputTarget e.packet (takeMcast s k e) t := by
  have hrest : waitingTargets s e.packet [] = [] := by simp [waitingTargets, ht, hm]
  have hothers : targetModules s e.packet = [] := by simp [targetModules, ht, hm]
  have hall : { e.packet with targets := [t] } = e.packet := by rw [← ht]
  have hgo : (e.packet.targets.filter fun x => !([] : List (Nat × Dword)).contains x) = [t] := by simp [ht]
  have hhere : (e.packet.targets.filter fun x => addrModule x.2 == moduleNo s) = [t] := by simp [ht, hm]
  unfold replicate_
  dsimp only
  rw [hrest, hgo, hall, hothers, ← ht, hhere]
  rfl

theorem complete_tiles (s : State) (k : Nat) (p : Packet) (st : Status) (sat : Bool) (data : List Byte) :
    (complete s k p st sat data).tiles = s.tiles := sendPacket_tiles _ _ _

/-- A multicast with one target, which lies in this module's DRAM, and a free buffer at its replication router: its
branch is answered there, and nothing of it stays behind. -/
theorem mput_one_dram {s : State} {p : Packet} {t : Nat × Dword} {k off : Nat} (ht : p.targets = [t])
    (hm : addrModule t.2 = moduleNo s) (hd : destOf s t.2 p.len p.src = .dram k off)
    (hroom : ((stkOf s (mcastRouter s p).1).mcasts.filter fun e => e.site == (mcastRouter s p).2).length < 2)
    (hnew : (stkOf s (mcastRouter s p).1).mcasts.contains ⟨(mcastRouter s p).2, p⟩ = false) :
    exec (.mput ⟨p, []⟩) s =
      .next (complete (dwrite { s with net := s.net.erase p } k off (p.data.take p.len)) k (branchOf p t) .ok false []) := by
  have htaken := takeMcast_of_notBuffered hnew
  have hd' : destOf { s with net := s.net.erase p } t.2 p.len p.src = .dram k off := hd
  refine congrArg _ ((if_neg fun h => ?_).trans ?_)
  · exact absurd h.1 (Nat.not_le.mpr hroom)
  · rw [replicate_one_here ht hm, htaken]
    exact mputTarget_dram hd'

/-! ### The two claims -/

theorem atomicArriveMulticast : AtomicArriveMulticast := by
  intro s p hm
  refine ⟨fun k off hd => ⟨fun hold => ?dramEqual, fun hold => ?dramDifferent⟩,
    fun r off site hd hs => ⟨fun hold => ?tileEqual, fun hold => ?tileDifferent⟩,
    fun r off site hd hs halign hfirst hlast => ?arrive, fun j d k off ht hmod hd hroom hnew => ?mput⟩
  case dramEqual =>
    have h := cas_equal hm hd rfl hold
    rw [destAtomic_dram] at h
    exact dramAnswered s p k off _ _ _ _ _ h
  case dramDifferent =>
    have h := cas_different hm hd rfl hold
    rw [destRead_dram] at h
    exact ⟨_, h, complete_answered _ _ _ _ _ _⟩
  case tileEqual =>
    rw [← destRead_tile s r off 8 site hs] at hold
    exact tileAtomic_answered s p r site off _ _ _ _ _ hs (cas_equal hm hd rfl hold)
  case tileDifferent =>
    rw [← destRead_tile s r off 8 site hs] at hold ⊢
    exact ⟨_, cas_different hm hd rfl hold, complete_answered _ _ _ _ _ _⟩
  case arrive =>
    exact ⟨_, _, arrive_here hm hd ⟨halign, hfirst, hlast⟩, complete_answered _ _ _ _ _ _,
      changeTile_ran s r _ site hs⟩
  case mput =>
    have hans := complete_answered (dwrite { s with net := s.net.erase p } k off (p.data.take p.len)) k
      (branchOf p (j, d)) .ok false []
    obtain ⟨hcyc, -, -, hreports, hstk, -, -, -, hserve, -⟩ := hans.rest
    refine ⟨_, mput_one_dram ht hmod hd hroom hnew, fun i hi => ?_, fun a ha => ?_, hans.net, stkOf_congr _ _ hstk,
      complete_tiles _ _ _ _ _ _, hserve, hcyc, hreports⟩
    · rw [hans.dram]
      exact memByte_memWrite_in _ _ _ _ hi
    · rw [hans.dram]
      exact memByte_memWrite_out _ _ _ _ ha

/-- Settles O16: a destination in this module answers a reduction with `reduceAtDest`, a CAS64 by its comparison and an
ARRIVE at its counter, and a multicast's one branch is a PUT (`mput_one_dram`). -/
theorem reductionAndAtomicPackets : Obligations.ReductionAndAtomicPackets := by
  unfold Obligations.ReductionAndAtomicPackets
  exact ⟨reductionPackets, atomicArriveMulticast⟩

end Sys2Proof.Claims
end

section
/-!
PROOFS. The Array engine's instructions: ARR.MVM in the array and in the exact lane, ARR.RETRY, ARR.BANK and ARR.MODE
(R67 to R78, R86, R96, R161, R184, R195).
-/

namespace Sys2Proof.Claims

open Sys2Proof Sys2Proof.Machine

/-! ### Banks (R86) -/

@[simp] theorem bankOf_setBank_same (t : Tile) (b : Bool) (v : Bank) : bankOf (setBank t b v) b = v := by
  cases b <;> rfl

@[simp] theorem bankOf_setBank_not (t : Tile) (b : Bool) (v : Bank) :
    bankOf (setBank t b v) (!b) = bankOf t (!b) := by
  cases b <;> rfl

theorem bankOf_congr {t u : Tile} (hp : u.port = t.port) (hs : u.stbd = t.stbd) (b : Bool) : bankOf u b = bankOf t b := by
  simp only [bankOf, hp, hs]

theorem active_of_activeBank {t : Tile} {b : Bool} (h : activeBank t = some b) : (bankOf t b).st = .active := by
  unfold activeBank at h
  split at h
  · rename_i hp
    cases h
    exact hp
  · split at h
    · rename_i hs
      cases h
      exact hs
    · cases h

theorem selectBank_of_active {t : Tile} {b : Bool} (h : (bankOf t b).st = .active) (pc : BitVec 9) :
    selectBank t b pc = t := by
  unfold selectBank
  rw [h]

theorem selectBank_of_ready {t : Tile} {b : Bool} (h : (bankOf t b).st = .ready) (pc : BitVec 9) :
    selectBank t b pc =
      (let t1 := setBank t b { bankOf t b with st := .active }
      if (bankOf t (!b)).st = .active then setBank t1 (!b) { bankOf t (!b) with st := .ready } else t1) := by
  unfold selectBank
  rw [h]

theorem selectBank_stopped_of_ready {t : Tile} {b : Bool} (h : (bankOf t b).st = .ready) (pc : BitVec 9) :
    (selectBank t b pc).stopped = t.stopped := by
  rw [selectBank_of_ready h]
  dsimp only
  split <;> simp

/-! ### What the steps of an array instruction leave alone -/

theorem ArrayKeeps.trans {t u v : Tile} (h : ArrayKeeps t u) (h2 : ArrayKeeps u v) : ArrayKeeps t v := by
  unfold ArrayKeeps at *
  simp_all

theorem later_arrayKeeps (t : Tile) (at_ : Nat) (x : Machine.Effect) : ArrayKeeps t (later t at_ x) := by
  simp [ArrayKeeps]

theorem setBank_arrayKeeps (t : Tile) (b : Bool) (v : Bank) : ArrayKeeps t (setBank t b v) := by
  simp [ArrayKeeps]

/-- ADV touches the engines' registers alone (R161). -/
theorem advance_eq (t : Tile) (n : Enc) : advance t n = { t with engs := (advance t n).engs } := by
  obtain ⟨g, hg⟩ := advance_keeps t n
  rw [hg]

@[simp] theorem advance_regs (t : Tile) (n : Enc) : (advance t n).regs = t.regs := by rw [advance_eq]
@[simp] theorem advance_port (t : Tile) (n : Enc) : (advance t n).port = t.port := by rw [advance_eq]
@[simp] theorem advance_stbd (t : Tile) (n : Enc) : (advance t n).stbd = t.stbd := by rw [advance_eq]
@[simp] theorem advance_rho (t : Tile) (n : Enc) : (advance t n).rho = t.rho := by rw [advance_eq]
@[simp] theorem advance_arrFree (t : Tile) (n : Enc) : (advance t n).arrFree = t.arrFree := by rw [advance_eq]
@[simp] theorem advance_laneFree (t : Tile) (n : Enc) : (advance t n).laneFree = t.laneFree := by rw [advance_eq]
@[simp] theorem advance_due (t : Tile) (n : Enc) : (advance t n).due = t.due := by rw [advance_eq]

theorem advance_arrayKeeps (t : Tile) (n : Enc) : ArrayKeeps t (advance t n) := by
  rw [advance_eq]
  simp [ArrayKeeps]

/-! ### The parts of an ARR.MVM in the array -/

/-- The selected segments as the input register receives them. -/
def mvmInput (t : Tile) (n : Enc) : List SegIn := (mvmSegs n).map (readSeg t n)

/-- The planes that an ARR.MVM drives. -/
def mvmDriven (t : Tile) (n : Enc) : List Nat := drivenPlanes (mvmPlanes n) (mvmInput t n)

/-- What the conversion of the driven planes gives, on a tile with bank `b` ACTIVE. -/
def mvmVector (t : Tile) (f : Flight) (n : Enc) (lv : List Level) (b : Bool) : VectorOut :=
  convertPlanes ⟨b, steering t, bankOf t b, t.bounded, mvmPlanes n, encX n 27, encC n, f.pc⟩ lv (mvmInput t n)
    (mvmDriven t n) 0 ⟨(mvmInput t n).map fun _ => [], 0, 0, 0, [], t.rho, []⟩

/-- The tile whose array converts a vector of `d` driven planes with outcome `o`: it is busy for three cycles a plane, one
plane's at least, the shadow rotation and the tallies have moved on (R72, R102, R184). -/
def takeArray (t : Tile) (f : Flight) (d : Nat) (o : VectorOut) : Tile :=
  { t with rho := o.rho, arrFree := f.issued + 3 * max d 1, tally := addTallies t.tally o.tally }

/-- The tile with a vector of `d` driven and `skipped` skipped planes counted (R71, R103). -/
def countVector (t : Tile) (d skipped segSkipped : Nat) (o : VectorOut) : Tile :=
  let t2 := tbump (tbump (tbump t TIL_ARR_PLANES d) TIL_ARR_SKIPPED skipped) TIL_ARR_SEGSKIP segSkipped
  tbump (tbump (tbump t2 TIL_SID_CMPFAIL o.cmp) TIL_SID_RNGFAIL o.rng) TIL_SID_SHDFAIL o.shd

/-- The tile with the effects of a vector of `d` driven planes to come: its retry entries, the end of its bank's busy
time, its partials `j` at stage 1 and its retirement (R72, R74 to R76). -/
def scheduleVector (t : Tile) (f : Flight) (d : Nat) (entries : List (Nat × RetryEntry)) (j : MvmJob) : Tile :=
  let t5 := entries.foldl (fun t e => later t (f.issued + 13 + 3 * e.1) (.retryIn e.2)) t
  retireIn (later (later t5 (f.issued + 10 + 3 * d) .bankCheck) (f.issued + 12 + 3 * d) (.stage1 j)) f (19 + 3 * d)

theorem takeArray_arrayKeeps (t : Tile) (f : Flight) (d : Nat) (o : VectorOut) : ArrayKeeps t (takeArray t f d o) := by
  simp [ArrayKeeps, takeArray]

theorem countVector_arrayKeeps (t : Tile) (d k m : Nat) (o : VectorOut) : ArrayKeeps t (countVector t d k m o) := by
  simp [ArrayKeeps, countVector]

theorem tget_countVector_planes (t : Tile) (d k m : Nat) (o : VectorOut) :
    tget (countVector t d k m o) TIL_ARR_PLANES = (tget t TIL_ARR_PLANES + d) % 2 ^ 32 := by
  unfold countVector
  iterate 5 rw [tget_tbump_other _ _ _ _ (by decide) (by decide)]
  exact tget_tbump _ _ _ (by decide)

theorem tget_countVector_skipped (t : Tile) (d k m : Nat) (o : VectorOut) :
    tget (countVector t d k m o) TIL_ARR_SKIPPED = (tget t TIL_ARR_SKIPPED + k) % 2 ^ 32 := by
  unfold countVector
  iterate 4 rw [tget_tbump_other _ _ _ _ (by decide) (by decide)]
  rw [tget_tbump _ _ _ (by decide), tget_tbump_other _ _ _ _ (by decide) (by decide)]
  rfl

theorem scheduleVector_eq (t : Tile) (f : Flight) (d : Nat) (entries : List (Nat × RetryEntry)) (j : MvmJob) :
    scheduleVector t f d entries j = { t with due := (scheduleVector t f d entries j).due } := by
  obtain ⟨due, hdue, -⟩ := foldl_later entries (fun e => f.issued + 13 + 3 * e.1) (fun e => .retryIn e.2) t
  unfold scheduleVector
  dsimp only
  rw [hdue]
  rfl

theorem scheduleVector_arrayKeeps (t : Tile) (f : Flight) (d : Nat) (entries : List (Nat × RetryEntry)) (j : MvmJob) :
    ArrayKeeps t (scheduleVector t f d entries j) := by
  rw [scheduleVector_eq]
  simp [ArrayKeeps]

/-- What is to come after a vector: what was to come, its retry entries, and its three own effects. -/
theorem mem_scheduleVector_due (t : Tile) (f : Flight) (d : Nat) (entries : List (Nat × RetryEntry)) (j : MvmJob)
    (x : Due) :
    x ∈ (scheduleVector t f d entries j).due ↔
      x = ⟨f.issued + 19 + 3 * d, .retire f⟩ ∨ x = ⟨f.issued + 12 + 3 * d, .stage1 j⟩ ∨
      x = ⟨f.issued + 10 + 3 * d, .bankCheck⟩ ∨ x ∈ t.due ∨
      ∃ e ∈ entries, x = ⟨f.issued + 13 + 3 * e.1, .retryIn e.2⟩ := by
  obtain ⟨due, hdue, hmem⟩ := foldl_later entries (fun e => f.issued + 13 + 3 * e.1) (fun e => .retryIn e.2) t
  unfold scheduleVector retireIn
  dsimp only
  rw [hdue, mem_later, mem_later, mem_later, hmem, ← Nat.add_assoc]

/-! ### ARR.MVM in the array (R68, R72, R74 to R76, R161) -/

/-- The tile of an ARR.MVM with its vector converted and counted, its addresses moved on and its bank busy; the effects
to come are not yet scheduled. -/
def convertedTile (t : Tile) (f : Flight) (n : Enc) (lv : List Level) (b : Bool) : Tile :=
  let d := (mvmDriven t n).length
  let o := mvmVector t f n lv b
  setBank (countVector (advance (takeArray t f d o) n) d (mvmPlanes n - d) (skippedSegPlanes (mvmPlanes n) (mvmInput t n)) o)
    b { bankOf t b with busyUntil := max (bankOf t b).busyUntil (f.issued + 10 + 3 * d) }

/-- Outside the dog slots an ARR.MVM converts and counts its vector, and then schedules its effects. -/
theorem runMvm_eq {c : Ctx} {t : Tile} {f : Flight} {n : Enc} {b : Bool}
    (h : inDog c (f.issued + 2) (f.issued + 2 + 3 * (mvmDriven t n).length) = false) (lv : List Level) :
    runMvm c t f n lv b =
      scheduleVector (convertedTile t f n lv b) f (mvmDriven t n).length (mvmVector t f n lv b).entries
        (mvmJob (bankOf t b) n (mvmInput t n) (mvmVector t f n lv b).parts f) :=
  if_neg (by rw [Bool.not_eq_true]; exact h)

section
variable (t : Tile) (f : Flight) (n : Enc) (lv : List Level) (b : Bool)

theorem convertedTile_arrFree : (convertedTile t f n lv b).arrFree = f.issued + 3 * max (mvmDriven t n).length 1 := by
  simp [convertedTile, countVector, takeArray]

theorem convertedTile_rho : (convertedTile t f n lv b).rho = (mvmVector t f n lv b).rho := by
  simp [convertedTile, countVector, takeArray]

theorem convertedTile_due : (convertedTile t f n lv b).due = t.due := by
  simp [convertedTile, countVector, takeArray]

theorem bankOf_convertedTile_same : bankOf (convertedTile t f n lv b) b =
    { bankOf t b with busyUntil := max (bankOf t b).busyUntil (f.issued + 10 + 3 * (mvmDriven t n).length) } :=
  bankOf_setBank_same _ _ _

theorem bankOf_convertedTile_not : bankOf (convertedTile t f n lv b) (!b) = bankOf t (!b) := by
  unfold convertedTile
  rw [bankOf_setBank_not]
  exact bankOf_congr (by simp [countVector, takeArray]) (by simp [countVector, takeArray]) _

theorem tget_convertedTile_planes : tget (convertedTile t f n lv b) TIL_ARR_PLANES =
    (tget t TIL_ARR_PLANES + (mvmDriven t n).length) % 2 ^ 32 := by
  unfold convertedTile
  rw [tget_congr _ _ (setBank_regs _ _ _), tget_countVector_planes, tget_congr _ _ (advance_regs _ _)]
  rfl

theorem tget_convertedTile_skipped : tget (convertedTile t f n lv b) TIL_ARR_SKIPPED =
    (tget t TIL_ARR_SKIPPED + (mvmPlanes n - (mvmDriven t n).length)) % 2 ^ 32 := by
  unfold convertedTile
  rw [tget_congr _ _ (setBank_regs _ _ _), tget_countVector_skipped, tget_congr _ _ (advance_regs _ _)]
  rfl

theorem convertedTile_advanced : Advanced n t (convertedTile t f n lv b) :=
  advance_advanced t (takeArray t f (mvmDriven t n).length (mvmVector t f n lv b)) _ n rfl
    (by simp [convertedTile, countVector, takeArray])

theorem convertedTile_arrayKeeps : ArrayKeeps t (convertedTile t f n lv b) :=
  (((takeArray_arrayKeeps _ _ _ _).trans (advance_arrayKeeps _ _)).trans (countVector_arrayKeeps _ _ _ _ _)).trans
    (setBank_arrayKeeps _ _ _)

end

theorem mvmUnit_run_array {n : Enc} {c : Ctx} {t : Tile} {b : Bool} (ha : activeBank t = some b)
    (hd : t.demoted = false) (lv : List Level) (f : Flight) :
    (mvmUnit n lv).run c t f = (runMvm c t f n lv b, []) := by
  simp [mvmUnit, ha, hd]

/-- Settles O4: outside the dog slots the tile is `convertedTile`, with the effects of `scheduleVector` to come. -/
theorem arrMvmConverts : Obligations.ArrMvmConverts := by
  unfold Obligations.ArrMvmConverts
  intro s i lv site k h t fl segs planes d b hb hdem hdog o
  have hran := runIssue_ran h (mvmUnit_run_array hb hdem lv fl)
  rw [runMvm_eq hdog] at hran
  let job := mvmJob (bankOf t b) i.enc segs o.parts fl
  have hkeeps := (convertedTile_arrayKeeps t fl i.enc lv b).trans (scheduleVector_arrayKeeps _ fl d o.entries job)
  have hdue := mem_scheduleVector_due (convertedTile t fl i.enc lv b) fl d o.entries job
  rw [convertedTile_due] at hdue
  refine ⟨_, _, rfl, hran, ?arrFree, ?rho, ?stage1, ?entries, ?retire, ?due, ?busy, ?active, ?other, ?planes, ?skipped,
    ?advanced, hkeeps⟩
  case stage1 => exact (hdue _).mpr (.inr (.inl rfl))
  case entries => exact fun q hq => (hdue _).mpr (.inr (.inr (.inr (.inr ⟨q, hq, rfl⟩))))
  case retire => exact (hdue _).mpr (.inl rfl)
  case due => exact fun x hx => (hdue x).mpr (.inr (.inr (.inr (.inl hx))))
  all_goals rw [scheduleVector_eq]
  case arrFree => exact convertedTile_arrFree t fl i.enc lv b
  case rho => exact convertedTile_rho t fl i.enc lv b
  case busy => exact congrArg Bank.busyUntil (bankOf_convertedTile_same t fl i.enc lv b)
  case active => exact (congrArg Bank.st (bankOf_convertedTile_same t fl i.enc lv b)).trans (active_of_activeBank hb)
  case other => exact bankOf_convertedTile_not t fl i.enc lv b
  case planes => exact tget_convertedTile_planes t fl i.enc lv b
  case skipped => exact tget_convertedTile_skipped t fl i.enc lv b
  case advanced => exact convertedTile_advanced t fl i.enc lv b

/-! ### ARR.MVM in the exact lane (R96, R195) -/

section
variable (t : Tile) (f : Flight) (n : Enc) (b : Bool)

theorem runMvmDemoted_arrFree : (runMvmDemoted t f n b).arrFree = t.arrFree := by
  simp [runMvmDemoted, retireIn]

theorem runMvmDemoted_laneFree : (runMvmDemoted t f n b).laneFree = f.issued + 48 * mvmPlanes n := by
  simp [runMvmDemoted, retireIn]

theorem runMvmDemoted_regs : (runMvmDemoted t f n b).regs = t.regs := by
  simp [runMvmDemoted, retireIn]

theorem runMvmDemoted_advanced : Advanced n t (runMvmDemoted t f n b) :=
  advance_advanced t { t with laneFree := f.issued + 48 * mvmPlanes n } _ n rfl (by simp [runMvmDemoted, retireIn])

theorem runMvmDemoted_arrayKeeps : ArrayKeeps t (runMvmDemoted t f n b) := by
  have hlane : ArrayKeeps t { t with laneFree := f.issued + 48 * mvmPlanes n } := by simp [ArrayKeeps]
  exact ((((hlane.trans (advance_arrayKeeps _ _)).trans (setBank_arrayKeeps _ _ _)).trans (later_arrayKeeps _ _ _)).trans
    (later_arrayKeeps _ _ _)).trans (later_arrayKeeps _ _ _)

theorem busyUntil_runMvmDemoted : (bankOf (runMvmDemoted t f n b) b).busyUntil =
    max (bankOf t b).busyUntil (f.issued + 19 + 48 * mvmPlanes n) :=
  congrArg Bank.busyUntil (bankOf_setBank_same (advance { t with laneFree := f.issued + 48 * mvmPlanes n } n) b _)

/-- What is to come after an ARR.MVM in the exact lane: what was to come, and its three own effects. -/
theorem mem_runMvmDemoted_due (x : Due) :
    x ∈ (runMvmDemoted t f n b).due ↔
      x = ⟨f.issued + 19 + 48 * mvmPlanes n, .bankCheck⟩ ∨ x = ⟨f.issued + 19 + 48 * mvmPlanes n, .retire f⟩ ∨
      x = ⟨f.issued + 12 + 48 * mvmPlanes n, .stage1 (mvmJob (bankOf t b) n (mvmInput t n)
        ((mvmInput t n).map (exactPartials (bankOf t b) (mvmPlanes n))) f)⟩ ∨ x ∈ t.due := by
  unfold runMvmDemoted retireIn
  dsimp only
  rw [mem_later, mem_later, mem_later, setBank_due, advance_due, ← Nat.add_assoc]
  rfl

end

theorem mvmUnit_run_demoted {n : Enc} {c : Ctx} {t : Tile} {b : Bool} (ha : activeBank t = some b)
    (hd : t.demoted = true) (lv : List Level) (f : Flight) :
    (mvmUnit n lv).run c t f = (runMvmDemoted t f n b, []) := by
  simp [mvmUnit, ha, hd]

theorem arrMvmDemoted : ArrMvmDemoted := by
  intro s i lv site k h t fl segs n b hb hdem
  have hran := runIssue_ran h (mvmUnit_run_demoted hb hdem lv fl)
  have hdue := mem_runMvmDemoted_due t fl i.enc b
  refine ⟨_, _, rfl, hran, runMvmDemoted_arrFree t fl i.enc b, runMvmDemoted_laneFree t fl i.enc b, ?stage1, ?retire, ?due,
    busyUntil_runMvmDemoted t fl i.enc b, runMvmDemoted_regs t fl i.enc b, runMvmDemoted_advanced t fl i.enc b,
    runMvmDemoted_arrayKeeps t fl i.enc b⟩
  case stage1 => exact (hdue _).mpr (.inr (.inr (.inl rfl)))
  case retire => exact (hdue _).mpr (.inr (.inl rfl))
  case due => exact fun x hx => (hdue x).mpr (.inr (.inr (.inr hx)))

/-! ### ARR.RETRY, ARR.BANK and ARR.MODE (R67, R77, R78, R86) -/

/-- ARR.RETRY with nothing to re-convert: the tile is demoted, or outside the dog slots with an empty retry queue. -/
theorem retryUnit_run_idle {c : Ctx} {t : Tile} {f : Flight}
    (h : t.demoted = true ∨ (inDog c (f.issued + 2) (f.issued + 5) = false ∧ t.retryQ = [])) (lv : List Level) :
    (retryUnit lv).run c t f = (retireIn { t with arrFree := f.issued + 3 } f 15, []) := by
  rcases h with hdem | ⟨hdog, hq⟩
  · simp [retryUnit, hdem]
  · simp [retryUnit, hdog, hq]

/-- ARR.RETRY with `x` the oldest entry, outside the dog slots. -/
theorem retryUnit_run_entry {c : Ctx} {t : Tile} {f : Flight} {x : RetryEntry} {q : List RetryEntry}
    (hdem : t.demoted = false) (hdog : inDog c (f.issued + 2) (f.issued + 5) = false) (hq : t.retryQ = x :: q)
    (lv : List Level) :
    (retryUnit lv).run c t f = (retireIn (later (tbump { t with
        arrFree := f.issued + 3
        retryQ := q
        tally := addTallies t.tally (retryTally (steering t) (bankOf t x.bank) lv x) } TIL_ARR_RETRIES)
      (f.issued + 15) (.retryDone x (reconvert (steering t) (bankOf t x.bank) lv x) f.pc)) f 15, []) := by
  simp [retryUnit, hdem, hdog, hq]

/-- ARR.BANK that leaves the tile running: the bank is selected, and the instruction retires in the next cycle. -/
theorem bankUnit_run_of_running {n : Enc} {c : Ctx} {t : Tile} {f : Flight}
    (h : (selectBank t (encX n 24) f.pc).stopped = false) :
    (bankUnit n).run c t f = (retireIn (selectBank t (encX n 24) f.pc) f 1, []) := by
  simp [bankUnit, h]

theorem arrRetryBankMode : ArrRetryBankMode := by
  intro s i lv
  refine ⟨?retryIdle, ?retryEntry, ?bankActive, ?bankReady, ?mode⟩
  case retryIdle => exact acts_run rfl fun _ _ _ hidle => retryUnit_run_idle hidle lv
  case retryEntry => exact fun x q => acts_run rfl fun _ _ _ ⟨hdem, hdog, hq⟩ => retryUnit_run_entry hdem hdog hq lv
  case bankActive =>
    refine acts_run rfl fun _ t fl ⟨hrun, hst⟩ => ?_
    have hsel := selectBank_of_active hst fl.pc
    rw [bankUnit_run_of_running (by rw [hsel]; exact hrun), hsel]
    rfl
  case bankReady =>
    refine acts_run rfl fun _ t fl ⟨hrun, hst⟩ => ?_
    rw [bankUnit_run_of_running ((selectBank_stopped_of_ready hst fl.pc).trans hrun), selectBank_of_ready hst]
    rfl
  case mode => exact acts_unit rfl

/-- Settles O5: a demoted tile's ARR.MVM is `runMvmDemoted`, and ARR.RETRY, ARR.BANK and ARR.MODE are the branches of their
units that their queues and banks choose. -/
theorem arrDemotedRetryBankMode : Obligations.ArrDemotedRetryBankMode := by
  unfold Obligations.ArrDemotedRetryBankMode
  exact ⟨arrMvmDemoted, arrRetryBankMode⟩

end Sys2Proof.Claims
end

section
/-!
PROOFS. The Side engine's instructions: SID.MODE, SID.RECOMP, SID.DRAIN and SID.EMIT, and the effects of a drain and of
a row of SID.EMIT as they come about (R107, R109, R115, R118, R119, R126, R127).
-/

namespace Sys2Proof.Claims

open Sys2Proof Sys2Proof.Machine

/-! ### SID.MODE and SID.RECOMP (R107, R115) -/

/-- SID.MODE of a set none of whose rows holds a contribution (R115). -/
theorem sidModeUnit_run_of_untouched {n : Enc} {c : Ctx} {t : Tile} {fl : Flight}
    (h : ∀ r, r < 16 → (rowOf t (encX n 25) r).touched = false) :
    (sidModeUnit n).run c t fl =
      (retireIn (putSet t (encX n 25) { setOf t (encX n 25) with long := encX n 24 }) fl 1, []) := by
  have hany : ((List.range 16).any fun r => (rowOf t (encX n 25) r).touched) = false :=
    List.any_eq_false.mpr fun r hr => by simp [h r (List.mem_range.mp hr)]
  unfold sidModeUnit
  dsimp only
  rw [hany]
  rfl

/-- SID.RECOMP with an empty queue (R107). -/
theorem recompUnit_run_of_nil {c : Ctx} {t : Tile} {fl : Flight} (hq : t.recompQ = []) :
    recompUnit.run c t fl = (retireIn t fl 13, []) := by
  simp [recompUnit, hq]

/-- SID.RECOMP with `x` the oldest entry (R107). -/
theorem recompUnit_run_of_cons {c : Ctx} {t : Tile} {fl : Flight} {x : RetryEntry} {q : List RetryEntry}
    (hq : t.recompQ = x :: q) :
    recompUnit.run c t fl =
      (retireIn (later { t with recompQ := q, laneFree := fl.issued + 12 } (fl.issued + 13)
        (.recompDone x (recompute (bankOf t x.bank) x) fl.pc)) fl 13, []) := by
  simp [recompUnit, hq]

/-! ### SID.DRAIN at issue (R109, R118, R119) -/

/-- SID.DRAIN of an open set, with the pipeline free or in raw mode, on a tile that it leaves running: the set and its
share of the pipeline are taken. -/
theorem drainUnit_run_of_open {n : Enc} {c : Ctx} {t : Tile} {fl : Flight}
    (hopen : draining t (encX n 28) c.now = false) (hpipe : encX n 27 = true ∨ t.pipeFree ≤ c.now)
    (hrun : (drainTaken c t (drainJob t n (watchId fl) fl.pc) fl).stopped = false) :
    (drainUnit n).run c t fl =
      (retireIn (drainTaken c t (drainJob t n (watchId fl) fl.pc) fl) fl
        (6 + drainCycles (drainJob t n (watchId fl) fl.pc) + if encX n 27 then 0 else 10), []) := by
  have hbusy : (draining t (encX n 28) c.now || (!encX n 27 && decide (c.now < t.pipeFree))) = false := by
    rcases hpipe with hraw | hfree
    · simp [hopen, hraw]
    · simp [hopen, hfree]
  have hcycles (m : Nat) : fl.issued + 6 + m - fl.issued = 6 + m := by omega
  refine (if_neg (Bool.eq_false_iff.mp hbusy)).trans ?_
  change (retireIn (drainTaken c t (drainJob t n (watchId fl) fl.pc) fl)
    (if (drainTaken c t (drainJob t n (watchId fl) fl.pc) fl).stopped then { fl with post := 0 } else fl) _, []) = _
  rw [hrun, hcycles]
  rfl

/-! ### SID.EMIT at issue (R127) -/

/-- SID.EMIT with the pipeline free: it takes the pipeline for the two passes of its row. -/
theorem emitUnit_run_of_free {n : Enc} {c : Ctx} {t : Tile} {fl : Flight} (hpipe : t.pipeFree ≤ c.now) :
    (emitUnit n).run c t fl =
      (let j := emitJob t n (watchId fl)
      let ends := fl.issued + 2 * ceilDiv (emitN j.desc) 8
      (retireIn (later (later (addWatch { t with pipeFree := ends } c.me j.watch false (emitRanges j)) ends (.emitRow j))
        (ends + 10) (.endWatch j.watch [])) fl (2 * ceilDiv (emitN j.desc) 8 + 10), [])) :=
  if_neg (Nat.not_lt.mpr hpipe)

/-! ### The effects as they come about (R119, R126, R127) -/

/-- A drain that finds no entry left for its set has its steps to come (R109, R118). -/
theorem mem_drainEffect_due {t : Tile} {j : DrainJob} (h : entriesLeft t j.set = false) (now : Nat)
    {n : Nat} {e : Machine.Effect} (he : (n, e) ∈ drainSteps j) : ⟨now + n, e⟩ ∈ (drainEffect t j now).due := by
  obtain ⟨due, hdue, hmem⟩ := foldl_later (drainSteps j) (fun q => now + q.1) (fun q => q.2) t
  unfold drainEffect
  rw [h, if_neg Bool.false_ne_true, hdue]
  exact (hmem _).mpr (.inr ⟨(n, e), he, rfl⟩)

/-- A drain in pipeline mode brings about each row at the end of the row's own passes (R119). -/
theorem drainRow_mem_drainSteps {j : DrainJob} {q : Nat × Nat} (hq : q ∈ (dcfgRows j.dcfg).zipIdx) (hraw : j.raw = false) :
    ((q.2 + 1) * drainRowCycles j, .drainRow j q.1) ∈ drainSteps j := by
  refine List.mem_flatMap.mpr ⟨q, hq, ?_⟩
  simp [hraw]

/-- A raw drain writes eight lanes of a row in each cycle of the row's own (R126). -/
theorem rawRow_mem_drainSteps {j : DrainJob} {q : Nat × Nat} (hq : q ∈ (dcfgRows j.dcfg).zipIdx) (hraw : j.raw = true)
    {i : Nat} (hi : i < drainRowCycles j) : (q.2 * drainRowCycles j + i + 1, .rawRow j q.1 i) ∈ drainSteps j := by
  refine List.mem_flatMap.mpr ⟨q, hq, ?_⟩
  simp [hraw, hi]

/-- The second pass of a SID.EMIT puts its row through the pipeline (R127). -/
theorem emitEffect_eq_emitRow (t : Tile) (j : EmitJob) (now : Nat) : emitEffect t j now = emitRow t j now := by
  unfold emitEffect emitRow
  cases emitInt32 j.desc with
  | true => simp
  | false => simp

/-- Settles O6: at issue each instruction takes the branch of its unit that its set, queue or pipeline chooses, and a drain's
rows are the steps that `mem_drainEffect_due` schedules. -/
theorem sideInstructions : Obligations.SideInstructions := by
  unfold Obligations.SideInstructions
  refine ⟨fun s i => ⟨?mode, ?idle, fun x q => ?entry, ?drain, ?emit⟩,
    fun t j now h q hq => ⟨fun hraw => ?row, fun hraw i hi => ?raw⟩, emitEffect_eq_emitRow⟩
  case mode => exact acts_run rfl fun _ _ _ hrows => sidModeUnit_run_of_untouched hrows
  case idle => exact acts_run rfl fun _ _ _ hq => recompUnit_run_of_nil hq
  case entry => exact acts_run rfl fun _ _ _ hq => recompUnit_run_of_cons hq
  case drain => exact acts_run rfl fun _ _ _ ⟨hopen, hpipe, hrun⟩ => drainUnit_run_of_open hopen hpipe hrun
  case emit => exact acts_run rfl fun _ _ _ hpipe => emitUnit_run_of_free hpipe
  case row => exact mem_drainEffect_due h now (drainRow_mem_drainSteps hq hraw)
  case raw =>
    rw [Nat.add_assoc now, Nat.add_assoc now]
    exact mem_drainEffect_due h now (rawRow_mem_drainSteps hq hraw hi)

end Sys2Proof.Claims
end

section
/-!
PROOFS. Static issue slots (R133), the watchdog and stall faults (R143 to R145).
-/

namespace Sys2Proof.Claims

open Sys2Proof Sys2Proof.Machine

/-! ### Static issue slots (R133) -/

/-- The tile that a name stands for, where it is mapped. -/
theorem namedTile_of_siteOf {s : State} {r : TileRef} {site : Nat}
    (hs : siteOf s r.stack.toNat r.tile.toNat = some site) : namedTile s r = tileAt s r.stack.toNat site := by
  rw [namedTile, hs]

/-- Settles O11: STATIC_ISSUE_SLOT is the engine's run of its instruction (`runIssue_ran`), and without a sight on the tile
nothing is discarded (`discardSight_none`). -/
theorem staticSlotIssues : Obligations.StaticSlotIssues := by
  unfold Obligations.StaticSlotIssues
  intro s e r dt w lv site k h
  have hran := runIssue_ran h rfl
  have hmapped : siteOf _ r.stack.toNat r.tile.toNat = some site := (Ran_siteOf hran).trans h.mapped
  refine ⟨_, _, rfl, ?discarded, fun hnone => discardSight_none _ r site _ hmapped hnone, hran⟩
  case discarded => rw [namedTile_of_siteOf h.mapped]

/-! ### Watchdog and stall (R143 to R145) -/

/-- WDOG of a mapped tile whose engine has an instruction in flight. -/
theorem wdog_ran {s : State} {e : Engine} {r : TileRef} {site : Nat} {f : Flight}
    (hs : siteOf s r.stack.toNat r.tile.toNat = some site)
    (hf : wdogFirst (settleBefore s.cyc (tileAt s r.stack.toNat site)) e = some f) :
    let t := settleBefore s.cyc (tileAt s r.stack.toNat site)
    let k := max s.cyc (wdogCycle t f)
    ∃ s', exec (.wdog e r) s = .next s' ∧
      Ran s s' r site k (bankTokens (tileFault (settleBefore k (withhold t f)) .wdog (engCode e) f.pc) k) [] := by
  refine ⟨_, rfl, onTile_ran s r _ site _ _ _ hs ?_ (Nat.le_max_left _ _)⟩
  dsimp only [ctxOf]
  rw [hf]

/-- STALL of a mapped tile whose engine runs and holds an instruction unissued since cycle `k0`. -/
theorem stall_ran {s : State} {e : Engine} {r : TileRef} {site k0 : Nat}
    (hs : siteOf s r.stack.toNat r.tile.toNat = some site)
    (hsince : (engOf (settleBefore s.cyc (tileAt s r.stack.toNat site)) e).since = some k0)
    (hruns : engineRuns (settleBefore s.cyc (tileAt s r.stack.toNat site)) e = true) :
    let t := settleBefore s.cyc (tileAt s r.stack.toNat site)
    let k := max s.cyc (k0 + 76799)
    ∃ s', exec (.stall e r) s = .next s' ∧
      Ran s s' r site k (bankTokens (tileFault (settleBefore k t) .stall (engCode e) (pcOf t e)) k) [] := by
  refine ⟨_, rfl, onTile_ran s r _ site _ _ _ hs ?_ (Nat.le_max_left _ _)⟩
  dsimp only [ctxOf]
  rw [hsince]
  dsimp only
  rw [hruns]
  rfl

/-- Settles O12: each event is a run of its tile that ends in the cycle in which the count exceeds its limit. -/
theorem watchdogAndStall : Obligations.WatchdogAndStall := by
  unfold Obligations.WatchdogAndStall
  exact fun s e r site hs => ⟨fun f hf => wdog_ran hs hf, fun k0 hsince hruns => stall_ran hs hsince hruns⟩

end Sys2Proof.Claims
end

section
/-!
PROOFS. A granted stop of a tile's clock (R398) and the software reset of a tile (R421, R423): what they leave of the tile.
-/

namespace Sys2Proof.Claims

open Sys2Proof Sys2Proof.Machine

/-- The machine after power-on with logical tile 0 of stack 0 mapped to site 0. -/
def oneTileMapped : State := rset State.reset 0 STK_RT_MAP_VALID0

/-! ### A granted stop (R398) -/

theorem bankToken_gate0 (t : Tile) (b : Bool) (now : Nat) : (bankToken t b now).gate0 = t.gate0 := by
  have hset : ∀ v : Bank, (setBank t b v).gate0 = t.gate0 := fun v => by cases b <;> rfl
  unfold bankToken
  dsimp only
  split
  · split
    · exact hset _
    · exact hset _
  · split
    · exact hset _
    · exact hset _

theorem bankTokens_gate0 (t : Tile) (now : Nat) : (bankTokens t now).gate0 = t.gate0 := by
  rw [bankTokens, bankToken_gate0, bankToken_gate0]

/-- What a tile's run leaves of the slot-count restart that the tile keeps while its clock is gated. -/
theorem ran_gate0 {s s' : State} {r : TileRef} {site k now : Nat} {t' : Tile} {ps : List Packet}
    (h : Ran s s' r site k (bankTokens t' now) ps) : (tileAt s' r.stack.toNat site).gate0 = t'.gate0 := by
  obtain ⟨d, hd, -⟩ := h.tile
  rw [hd]
  exact bankTokens_gate0 t' now

/-- The tile that a request names. -/
def reqTile (q : GovReq) : TileRef := ⟨BitVec.ofNat 3 q.stack, BitVec.ofNat 9 q.tile⟩

/-- The machine in which a stop of the tile that `q` names has been granted and counted, and its clock still runs. -/
def stopCounted (s : State) (q : GovReq) : State :=
  let s1 := rbump (govWithdraw s false q.stack q.tile) 0 PWR_STOPS
  { s1 with pwr := { s1.pwr with stops := govRecent s s1.pwr.stops ++ [s.tick] } }

/-- Counting a stop leaves the tiles' map alone. -/
theorem siteOf_stopCounted (s : State) (q : GovReq) (r : TileRef) :
    siteOf (stopCounted s q) r.stack.toNat r.tile.toNat = siteOf s r.stack.toNat r.tile.toNat := by
  refine siteOf_of_rword _ _ _ _ (rword_rput_ne _ _ _ _ PWR_STOPS _ ?_)
  have hl := r.tile.isLt
  simp only [regKey, PWR_STOPS]
  omega

/-- A granted stop is a run of the tile that the request names: its clock is off, and its slots count from the restart of
the stack of its name. -/
theorem stopClock_ran {s : State} {q : GovReq} {site : Nat}
    (hs : siteOf s (reqTile q).stack.toNat (reqTile q).tile.toNat = some site) :
    Ran (stopCounted s q) (stopClock s q) (reqTile q) site s.cyc
      (bankTokens { settle s.cyc (tileAt s (reqTile q).stack.toNat site) with
        clkOn := false, gate0 := slotZero s (reqTile q).stack.toNat } s.cyc) [] :=
  changeTile_ran (stopCounted s q) (reqTile q) (fun c t => { t with clkOn := false, gate0 := c.slot0 }) site
    ((siteOf_stopCounted s q _).trans hs)

theorem govRest_eq_or (s : State) (start : Bool) : govRest s start = s ∨ govRest s start = govDefer s start :=
  ite_eq_or_eq _ _ _

theorem govRest_tiles (s : State) (start : Bool) : (govRest s start).tiles = s.tiles := by
  rcases govRest_eq_or s start with h | h
  · rw [h]
  · rw [h]; rfl

theorem govRest_stopping (s : State) (start : Bool) : (govRest s start).pwr.stopping = s.pwr.stopping := by
  rcases govRest_eq_or s start with h | h
  · rw [h]
  · rw [h]; rfl

theorem stopStep_of_not_stopping {s : State} (h : s.pwr.stopping = false) : stopStep s = s := by
  unfold stopStep
  rw [h]
  rfl

/-- A stop that the budget allows, while no orderly stop is under way. -/
theorem clockStopGrant_granted {s : State} {dns : Nat} {q : GovReq} {site : Nat}
    (hq : govNext (elapseNs s dns) false = some q)
    (hroom : govRoom (elapseNs s dns) false (elapseNs s dns).pwr.stops = true)
    (hrun : (elapseNs s dns).pwr.stopping = false)
    (hs : siteOf (elapseNs s dns) (reqTile q).stack.toNat (reqTile q).tile.toNat = some site) :
    exec (.clockStopGrant dns) s = .next (govRest (stopClock (elapseNs s dns) q) false) := by
  obtain ⟨-, -, -, -, -, -, -, hpwr, -⟩ := (stopClock_ran hs).rest
  have hrest : (govRest (stopClock (elapseNs s dns) q) false).pwr.stopping = false := by
    rw [govRest_stopping, hpwr]
    exact hrun
  show execClockStopGrant dns s = _
  unfold execClockStopGrant
  dsimp only
  rw [hq]
  dsimp only
  rw [if_pos hroom, stopStep_of_not_stopping hrest]

/-- A request that names stack 8, which its tile's name holds as stack 0. -/
def strayRequest : GovReq := ⟨false, 8, 0, 0, false⟩

/-- The mapped tile's stack has the array phase 1, and the governor's queue holds the stray request. -/
def strayStop : State :=
  { oneTileMapped with
    stk := oneTileMapped.stk.set 0 { StackSt.reset with phase := 1 }
    pwr := { PowerSt.reset with queue := [strayRequest] } }

theorem siteOf_strayStop : siteOf strayStop (reqTile strayRequest).stack.toNat (reqTile strayRequest).tile.toNat = some 0 := by
  decide

theorem govRoom_strayStop : govRoom strayStop false strayStop.pwr.stops = true := by decide

/-- Refutes O13: of a granted stop the statement has the gated tile's slots count from the restart of the stack number that
the request holds, the model from that of the stack in the tile's name, which is that number's lowest three bits. `strayStop`
tells them apart: its request holds 8 and its tile's name stack 0, whose array phase 1 puts the restart one cycle later. -/
theorem not_tileClocks : ¬ Obligations.TileClocks := by
  unfold Obligations.TileClocks
  rintro ⟨-, hgrants⟩
  obtain ⟨-, hstop, -⟩ := hgrants strayStop 0 strayRequest 0 siteOf_strayStop
  obtain ⟨s2, s', hexec, -, -, -, -, -, -, hclaim⟩ := hstop rfl govRoom_strayStop rfl
  have hgranted : exec (.clockStopGrant 0) strayStop = .next (govRest (stopClock strayStop strayRequest) false) :=
    clockStopGrant_granted rfl govRoom_strayStop rfl siteOf_strayStop
  have hsame : govRest (stopClock strayStop strayRequest) false = govRest s' false := by
    rw [hgranted] at hexec
    injection hexec
  have htiles : (stopClock strayStop strayRequest).tiles = s'.tiles := by
    rw [← govRest_tiles _ false, hsame, govRest_tiles]
  have hgate : slotZero strayStop 8 = slotZero strayStop (reqTile strayRequest).stack.toNat := by
    calc slotZero strayStop 8 = (tileAt s' (reqTile strayRequest).stack.toNat 0).gate0 := (ran_gate0 hclaim).symm
      _ = (tileAt (stopClock strayStop strayRequest) (reqTile strayRequest).stack.toNat 0).gate0 := by
        rw [tileAt_congr _ _ htiles]
      _ = slotZero strayStop (reqTile strayRequest).stack.toNat := ran_gate0 (stopClock_ran siteOf_strayStop)
  exact absurd hgate (by decide)

/-! ### The software reset of a tile (R421, R423) -/

theorem blockTile_tileBlock {s : State} {r : TileRef} {site : Nat}
    (hs : siteOf s r.stack.toNat r.tile.toNat = some site) (hl : r.tile.toNat < 480) :
    blockTile s (tileBlock r) = some (r, site) := by
  unfold blockTile tileBlock
  rw [if_pos ⟨rfl, hl⟩]
  dsimp only
  rw [hs]
  simp

/-- A change of a tile at its site sends the tile's check events to the log. -/
theorem changeSite_events (s : State) (k site : Nat) (g : Tile → Tile) :
    (tileAt (changeSite s k site g) k site).events = [] := by
  obtain ⟨⟨d, hd, -⟩, -⟩ := drainChecks_tile _ k site
  unfold changeSite
  dsimp only
  rw [hd]

theorem brstStatus_tiles (s : State) : (brstStatus s).tiles = s.tiles := rfl

/-- A reset that waits for what is in flight in its tile (R421) leaves the tile no check events. -/
theorem startBlock_events {s : State} {b : UnitRef} {r : TileRef} {site : Nat} {brst : Bool}
    (hblock : blockTile s b = some (r, site)) (hinside : blockInside s b = true) (hnone : resetOf s b = none) :
    (tileAt (startBlock s b brst) b.stack.toNat site).events = [] := by
  unfold startBlock
  rw [if_neg (by rw [hnone]; decide), hinside, hblock]
  dsimp only
  rw [if_pos rfl, tileAt_congr _ _ (brstStatus_tiles _)]
  exact changeSite_events _ _ _ _

/-- SRST of a tile that answers starts the reset of its block (R423). -/
theorem writeSrst_of_open {s : State} {r : TileRef} {site : Nat} (hs : siteOf s r.stack.toNat r.tile.toNat = some site)
    (hopen : tileClosed s r.stack.toNat site = false) : writeSrst s r = startBlock s (tileBlock r) false := by
  unfold tileClosed at hopen
  simp only [Bool.or_eq_false_iff, Bool.not_eq_false'] at hopen
  obtain ⟨⟨-, hstack⟩, hreleased⟩ := hopen
  unfold writeSrst
  rw [hs]
  dsimp only
  rw [hstack, hreleased]
  rfl

/-- SRST of a tile with operations in flight leaves it no check events. -/
theorem srst_events {s : State} {r : TileRef} {site : Nat} (hs : siteOf s r.stack.toNat r.tile.toNat = some site)
    (hopen : tileClosed s r.stack.toNat site = false) (hinside : blockInside s (tileBlock r) = true)
    (hnone : resetOf s (tileBlock r) = none) (hl : r.tile.toNat < 480) :
    ∃ s', exec (.srst r) s = .next s' ∧ (tileAt s' r.stack.toNat site).events = [] :=
  ⟨_, congrArg Host.Outcome.next (writeSrst_of_open hs hopen), startBlock_events (blockTile_tileBlock hs hl) hinside hnone⟩

/-- A re-conversion that passed, as it comes about in cycle 0. -/
def passedCheck : Due := ⟨0, .retryDone ⟨false, false, 0, 0, false, 0, 0, [], [], false, 0, 0, 0, 0, false⟩ (some []) 0⟩

/-- A tile with a load in flight and a check result due. -/
def checkedTile : Tile :=
  { Tile.reset with
    fetches := [⟨⟨.fet, 0, 0, 0, 0, none⟩, 0, [], [], none, 0, [], false⟩]
    due := [passedCheck] }

/-- Stack 0 is on, its tiles are released, and its mapped tile is `checkedTile`. -/
def checkedState : State :=
  { rset oneTileMapped 0 PWR_STK_CTL_ON with
    tiles := [(0, checkedTile)]
    rst := { ResetSt.reset with domains := 6 } }

theorem siteOf_checkedState : siteOf checkedState 0 0 = some 0 := by decide

theorem tileClosed_checkedState : tileClosed checkedState 0 0 = false := by decide

theorem blockInside_checkedState : blockInside checkedState (tileBlock ⟨0, 0⟩) = true := by decide

theorem checkedTile_settle_events : (settle 0 checkedTile).events ≠ [] := by decide

/-- Refutes O14: at an SRST that waits, the tile's effects due by then come about, and the check events that they raise go
to the log (`srst_events`); the statement has the tile still hold them. `checkedState` has one such effect due. -/
theorem not_tileControlBits : ¬ Obligations.TileControlBits := by
  unfold Obligations.TileControlBits
  intro h
  obtain ⟨-, -, -, -, -, hsrst⟩ := h checkedState ⟨0, 0⟩ 0 siteOf_checkedState tileClosed_checkedState
  obtain ⟨s', hexec, -, hclaim, -⟩ := hsrst blockInside_checkedState rfl (by decide)
  obtain ⟨s'', hmodel, hevents⟩ := srst_events (r := ⟨0, 0⟩) siteOf_checkedState tileClosed_checkedState
    blockInside_checkedState rfl (by decide)
  obtain rfl : s' = s'' := by
    rw [hexec] at hmodel
    injection hmodel
  have hkept := congrArg Tile.events hclaim
  exact checkedTile_settle_events (hkept.symm.trans hevents)

end Sys2Proof.Claims
end

section
/-!
PROOFS. The control instructions of every engine and the Fetch engine's instructions (R86, R157 to R159, R188).
-/

namespace Sys2Proof.Claims

open Sys2Proof Sys2Proof.Machine

/-! ### Control instructions (R157, R158) -/

/-- A control instruction that issues has its unit's change of the tile, and retires one cycle later. -/
theorem acts_control {s : State} {e : Engine} {op : Nat} {i : Issue} {f : Tile → Tile}
    {out : Host.Outcome State Fault Refusal} (ho : out = .next (runIssue s e op i false (controlUnit f))) :
    Acts s e op i false (controlUnit f) always (changes 1 fun _ => f) out := acts_unit ho

/-- Settles O1: NOP, SETR, SETRH and ADDR are control instructions, which change their tile alone (`acts_control`). -/
theorem controlWritesRegisters : Obligations.ControlWritesRegisters := by
  unfold Obligations.ControlWritesRegisters
  intro s e i
  refine ⟨?nop, ?setr, ?setrh, ?addr⟩
  case nop => exact acts_control rfl
  case setr => exact acts_control rfl
  case setrh => exact acts_control rfl
  case addr => exact acts_control rfl

/-- LOOP while its count, read after SB has moved on, is above 1. -/
theorem loopTile_of_again {e : Engine} {n : Enc} {t : Tile}
    (h : 1 < (gp (setGp t e 20 (gp t e 20 + BitVec.ofNat 64 (encStride n))) e (24 + encLci n)).toNat) :
    loopTile e n t =
      (let t1 := setGp t e 20 (gp t e 20 + BitVec.ofNat 64 (encStride n))
      setPc (setGp t1 e (24 + encLci n) (gp t1 e (24 + encLci n) - 1)) e (encTarget n)) := if_pos h

/-- LOOP on its last pass. -/
theorem loopTile_of_last {e : Engine} {n : Enc} {t : Tile}
    (h : ¬ 1 < (gp (setGp t e 20 (gp t e 20 + BitVec.ofNat 64 (encStride n))) e (24 + encLci n)).toNat) :
    loopTile e n t =
      setGp (setGp t e 20 (gp t e 20 + BitVec.ofNat 64 (encStride n))) e (24 + encLci n) 0 := if_neg h

/-- LOOP that issues, where `ok` chooses the branch `g` of its change. -/
theorem acts_loop {s : State} {e : Engine} {i : Issue} {ok : Ctx → Tile → Flight → Prop} {g : Tile → Tile}
    (hg : ∀ c t fl, ok c t fl → loopTile e i.enc t = g t) :
    Acts s e 5 i false (loopUnit e i.enc) ok (changes 1 fun _ => g) (exec (.loop e i) s) :=
  acts_run rfl fun c t fl hok => congrArg (fun t' => (retireIn t' fl 1, [])) (hg c t fl hok)

/-- Settles O2: LOOP takes the branch that its count chooses (`acts_loop`), NEXTW issues on the machine in which it is
marked as reached, and JUMP and HALT are control instructions. -/
theorem controlTransfers : Obligations.ControlTransfers := by
  unfold Obligations.ControlTransfers
  intro s e i
  refine ⟨?jump, ?again, ?last, ?nextw, ?halt⟩
  case jump => exact acts_control rfl
  case again => exact acts_loop fun _ _ _ hcount => loopTile_of_again hcount
  case last => exact acts_loop fun _ _ _ hcount => loopTile_of_last hcount
  case nextw => exact acts_unit rfl
  case halt => exact acts_control rfl

/-! ### Fetch (R159) -/

/-- FET.BANKW into a bank that is neither busy nor in WRITING (R86). -/
theorem bankwUnit_run_of_free {n : Enc} {c : Ctx} {t : Tile} {f : Flight}
    (hbusy : bankBusy t (encX n 24) c.now = false) (hst : (bankOf t (encX n 24)).st ≠ .writing) :
    (bankwUnit n).run c t f =
      startFetch c (setBank t (encX n 24) { bankOf t (encX n 24) with st := .writing, fmt := 0 }) f
        (effAddr t .fet n (encA n)) (splitTx 20 (effAddr t .fet n (encA n)) 0 (32 * bankwBeats t n))
        (some (encX n 24)) (bankwBeats t n) :=
  if_neg (by simp [hbusy, hst])

/-- Settles O3: LOAD, LOADS, COPY and ZERO have no condition beyond issue, BANKW is the branch of `bankwUnit_run_of_free`,
and without a sight on the tile nothing is discarded (`discardSight_none`). -/
theorem fetchInstructions : Obligations.FetchInstructions := by
  unfold Obligations.FetchInstructions
  intro s i
  refine ⟨?load, ?loads, ?copy, ?zero, fun site k h => ?bankw⟩
  case load => exact acts_unit rfl
  case loads => exact acts_unit rfl
  case copy => exact acts_unit rfl
  case zero => exact acts_unit rfl
  case bankw =>
    intro t fl b hbusy hst
    have hran := runIssue_ran h (bankwUnit_run_of_free hbusy hst)
    have hmapped := (Ran_siteOf hran).trans h.mapped
    refine ⟨_, _, rfl, ?discarded, fun hnone => discardSight_none _ i.tile site _ hmapped hnone, hran⟩
    case discarded => rw [namedTile_of_siteOf h.mapped]

end Sys2Proof.Claims
end

section
/-!
PROOFS. The Plot engine's instructions with data-dependent addresses, and SAMPLE (R165, R166).
-/

namespace Sys2Proof.Claims

open Sys2Proof Sys2Proof.Machine

/-- RELAX checks the addresses of all its edges at once. -/
theorem relaxAddrs_all_legal {t : Tile} {n : Enc} {k : Nat}
    (h : ∀ j, j < k → ∀ a ∈ relaxAddrs t n j, storeLegal a 4 = true) :
    ((List.range k).all fun j => (relaxAddrs t n j).all fun a => storeLegal a 4) = true :=
  List.all_eq_true.mpr fun j hj => List.all_eq_true.mpr (h j (List.mem_range.mp hj))

/-- Settles O8: where every data-dependent address is legal, GATHER, SCATTER and RELAX take the branch of their unit that
does not fault; HPROBE and SAMPLE have no condition beyond issue. -/
theorem plotAddresses : Obligations.PlotAddresses := by
  unfold Obligations.PlotAddresses
  intro s i
  refine ⟨?gather, ?scatter, ?hprobe, ?relax, ?sample⟩
  case gather => exact acts_run rfl fun _ _ _ hlegal => if_pos (List.all_eq_true.mpr hlegal)
  case scatter => exact acts_run rfl fun _ _ _ hlegal => if_pos (List.all_eq_true.mpr hlegal)
  case hprobe => exact acts_unit rfl
  case relax => exact acts_run rfl fun _ _ _ hlegal => if_pos (relaxAddrs_all_legal hlegal)
  case sample => exact acts_unit rfl

end Sys2Proof.Claims
end

section
/-!
PROOFS. The Signal engine: its waits, and the issue of its remote operations (R168, R171, R174).
-/

namespace Sys2Proof.Claims

open Sys2Proof Sys2Proof.Machine

/-! ### Waits (R171, R174) -/

/-- Settles O10: an instruction that issues runs its unit, and the wait itself is the unit's readiness (`acts_unit`). -/
theorem signalWaits : Obligations.SignalWaits := by
  unfold Obligations.SignalWaits
  intro s i
  refine ⟨?waitg, ?waitwp, ?wpinit⟩
  case waitg => exact acts_unit rfl
  case waitwp => exact acts_unit rfl
  case wpinit => exact acts_unit rfl

/-! ### Remote operations (R168, R171) -/

/-- A tile that holds no completion groups holds none once an operation has been issued on it. -/
theorem sendOp_groups_of_nil {t : Tile} (h : t.groups = []) (c : Ctx) (f : Flight) (n : Enc) (op : PktOp)
    (localA len : Nat) (ps : List Piece) : (sendOp c t f n op localA len ps).1.groups = [] := by
  unfold sendOp
  split
  · exact h
  · simp [retireIn, tileFree, putGroup, takeTurn, h]

theorem bankToken_groups (t : Tile) (b : Bool) (now : Nat) : (bankToken t b now).groups = t.groups := by
  unfold bankToken
  dsimp only
  split
  · split
    · simp [setQueue]
    · simp
  · split
    · simp [setQueue]
    · simp

/-- What a tile's run leaves of its completion groups. -/
theorem ran_groups {s s' : State} {r : TileRef} {site k now : Nat} {t' : Tile} {ps : List Packet}
    (h : Ran s s' r site k (bankTokens t' now) ps) : (tileAt s' r.stack.toNat site).groups = t'.groups := by
  obtain ⟨d, hd, -⟩ := h.tile
  rw [hd]
  exact (bankToken_groups _ _ _).trans (bankToken_groups _ _ _)

/-- SIG.ARRIVE of the value in GP0 at address 0, in group 0. -/
def arriveWord : Enc := ⟨1, 0⟩

/-- A tile that runs, whose engines hold `arriveWord`, and whose state holds no completion groups. -/
def grouplessTile : Tile :=
  { tput Tile.reset TIL_CTL_RUN 1 with
    clkOn := true
    groups := []
    engs := List.replicate 5 { Eng.reset with on := true, held := some (wordOf 15 arriveWord) } }

/-- The machine whose one mapped tile is `grouplessTile`. -/
def grouplessState : State := { oneTileMapped with tiles := [(0, grouplessTile)] }

/-- Signal reaches its SIG.ARRIVE at once. -/
def grouplessIssue : Issue := ⟨⟨0, 0⟩, 0, arriveWord⟩

theorem grouplessIssue_issues : Issues grouplessState .sig 15 grouplessIssue false (arriveUnit arriveWord) 0 0 := by
  constructor <;> decide

theorem issued_grouplessTile_groups : (issued (found grouplessState grouplessIssue 0 0) .sig arriveWord 0).groups = [] := by
  decide

/-- Refutes O9: the statement has every remote operation counted in its group, for any state of its tile; the model keeps a
tile's groups as a list, and a count in a group that the list does not hold is lost (`sendOp_groups_of_nil`).
`grouplessState` issues a SIG.ARRIVE on a tile whose list of groups is empty. -/
theorem not_signalOperations : ¬ Obligations.SignalOperations := by
  unfold Obligations.SignalOperations
  intro h
  obtain ⟨-, -, -, -, -, -, -, harrive⟩ := h grouplessState grouplessIssue
  obtain ⟨s', t', pk, tag, hexec, -, hclaim, hsent⟩ := harrive 0 0 grouplessIssue_issues trivial
  have hmodel := runIssue_ran grouplessIssue_issues rfl
  obtain rfl : runIssue grouplessState .sig 15 grouplessIssue false (arriveUnit arriveWord) = s' := by
    injection hexec
  have hempty := (ran_groups hmodel).trans (sendOp_groups_of_nil issued_grouplessTile_groups _ _ _ _ _ _ _)
  have hnone : t'.groups = [] := (ran_groups hclaim).symm.trans hempty
  have hcount := congrArg Group.count hsent.group
  rw [groupOf, hnone] at hcount
  exact absurd hcount (Nat.zero_ne_add_one _)

end Sys2Proof.Claims
end

section
/-!
PROOFS. PUT and GET at their destination, completions at their tile, and the two timeouts (R142, R169, R170, R331, R380).
-/

namespace Sys2Proof.Claims

open Sys2Proof Sys2Proof.Machine

/-! ### PUT and GET at their destination (R169, R322) -/

theorem putPacket_atomicDest {s : State} {p : Packet} {d : Dest} (hm : addrModule p.dest = moduleNo s)
    (hd : destOf s p.dest p.len p.src = d) (ha : atomicDest d = true) :
    putPacket s p = complete (destWrite s d (p.data.take p.len)) (addrStack p.dest) p .ok false [] := by
  refine (atModule_here s p _ hm).trans ?_
  dsimp only
  rw [hd]
  cases d with
  | dram k off => rfl
  | tile r off => rfl
  | _ => cases ha

theorem putPacket_fenced {s : State} {p : Packet} (hm : addrModule p.dest = moduleNo s)
    (hd : destOf s p.dest p.len p.src = .fenced) : putPacket s p = complete s (addrStack p.dest) p .fenced false [] := by
  refine (atModule_here s p _ hm).trans ?_
  dsimp only
  rw [hd]

theorem getAtDest_atomicDest {s : State} {p : Packet} {d : Dest} (hm : addrModule p.dest = moduleNo s)
    (hd : destOf s p.dest p.len p.src = d) (ha : atomicDest d = true) :
    getAtDest s p = complete s (addrStack p.dest) p .ok false (destRead s d p.len) := by
  refine (atModule_here s p _ hm).trans ?_
  rw [hd]
  cases d with
  | dram k off => rfl
  | tile r off => rfl
  | _ => cases ha

theorem getAtDest_fenced {s : State} {p : Packet} (hm : addrModule p.dest = moduleNo s)
    (hd : destOf s p.dest p.len p.src = .fenced) : getAtDest s p = complete s (addrStack p.dest) p .fenced false [] := by
  refine (atModule_here s p _ hm).trans ?_
  rw [hd]

/-- A read of DRAM leaves its bytes alone. -/
theorem dramAnswered_read {s : State} {p : Packet} {st : Status} {sat : Bool} {data : List Byte}
    {out : Host.Outcome State Fault Refusal} (h : out = .next (complete s (addrStack p.dest) p st sat data)) (k off : Nat) :
    DramAnswered s p k off [] st sat data out :=
  ⟨s, _, h, complete_answered _ _ _ _ _ _, fun _ hj => absurd hj (Nat.not_lt_zero _), fun _ _ => rfl, rfl⟩

/-- Settles O15: DRAM and a tile's store are written or read as memory, and the packet is answered (`complete_answered`);
where nothing answers it is answered with FENCED alone. -/
theorem putAndGetPackets : Obligations.PutAndGetPackets := by
  unfold Obligations.PutAndGetPackets
  intro s p hm
  refine ⟨fun k off hd => ⟨?putDram, ?getDram⟩, fun r off site hd hs => ⟨?putTile, ?getTile⟩,
    fun hd => ⟨?putFenced, ?getFenced⟩⟩
  case putDram => exact dramAnswered s p k off _ _ _ _ _ (congrArg _ (putPacket_atomicDest hm hd rfl))
  case getDram => exact dramAnswered_read (congrArg _ (getAtDest_atomicDest hm hd rfl)) k off
  case putTile => exact tilePut_answered s p r site off _ _ _ _ _ hs (congrArg _ (putPacket_atomicDest hm hd rfl))
  case getTile =>
    rw [← destRead_tile s r off p.len site hs]
    exact ⟨_, congrArg Host.Outcome.next (getAtDest_atomicDest hm hd rfl), complete_answered _ _ _ _ _ _⟩
  case putFenced => exact ⟨_, congrArg Host.Outcome.next (putPacket_fenced hm hd), complete_answered _ _ _ _ _ _⟩
  case getFenced => exact ⟨_, congrArg Host.Outcome.next (getAtDest_fenced hm hd), complete_answered _ _ _ _ _ _⟩

/-! ### A response on its way back (R142, R305) -/

/-- A register that no change in a list of changes touches. -/
theorem rword_foldl {β : Type} {f : State → β → State} {k off : Nat} (hf : ∀ s x, rword (f s x) k off = rword s k off)
    (l : List β) (s : State) : rword (l.foldl f s) k off = rword s k off :=
  (List.foldl_hom (fun s => rword s k off) (g₂ := fun w _ => w) fun s x => (hf s x).symm).symm.trans (List.foldl_fixed l)

/-- A response on its way back changes no register but those of the flits of its copies. -/
theorem passBack_rword {k2 off : Nat} (h : ∀ x, ∀ o ∈ flitRegs, regKey k2 off ≠ regKey x o) (s : State) (k : Nat)
    (p : Packet) : rword (passBack s k p).2 k2 off = rword s k2 off := by
  unfold passBack
  dsimp only
  rw [rword_foldl fun s e => rword_foldl (fun s q => sendPacket_rword s k k2 off _ h) _ s,
    rword_foldl fun s q => sendPacket_rword s k k2 off _ h]
  rfl

theorem passBackAll_rword {k2 off : Nat} (h : ∀ x, ∀ o ∈ flitRegs, regKey k2 off ≠ regKey x o) (s : State)
    (p : Packet) : rword (passBackAll s p).2 k2 off = rword s k2 off := by
  unfold passBackAll
  generalize stackNos = ks, false = b
  induction ks generalizing s b with
  | nil => rfl
  | cons k ks ih => exact (ih _ _).trans (passBack_rword h s k p)

theorem moduleNo_passBackAll (s : State) (p : Packet) : moduleNo (passBackAll s p).2 = moduleNo s := by
  have hword : rword (passBackAll s p).2 0 FLT_MOD_NUMBER.off = rword s 0 FLT_MOD_NUMBER.off := by
    refine passBackAll_rword (fun x o ho => ?_) s p
    have hlow : ∀ o ∈ flitRegs, o < 0x400 := by decide
    have hflit := hlow o ho
    simp only [regKey, FLT_MOD_NUMBER]
    omega
  exact congrArg (fun w => BitVec.ofNat 10 (fldOf FLT_MOD_NUMBER w)) hword

/-! ### Completions at their tile (R170, R331) -/

/-- A response for a tile of this module reaches its tile once the routers have sent its copies. -/
theorem responsePacket_tile {s : State} {p : Packet} {m : BitVec 10} {r : TileRef} (hm : addrModule p.dest = moduleNo s)
    (hsrc : p.src = .tile m r) :
    let q := passBackAll { s with net := s.net.erase p } p
    responsePacket s p = deliver q.2 r p.tag p.turn p.status (p.sat || q.1) p.data (p.targets.map fun x => x.1) := by
  refine (if_pos (hm.trans (moduleNo_passBackAll { s with net := s.net.erase p } p).symm)).trans ?_
  dsimp only
  rw [hsrc]

/-- A completion whose TURN is another's is counted. -/
theorem deliver_stale {s : State} {r : TileRef} {site : Nat} {tag : BitVec 5} {turn : BitVec 4}
    (hs : siteOf s r.stack.toNat r.tile.toNat = some site)
    (ht : turnMatches (tileAt s r.stack.toNat site) tag turn = false) (st : Status) (sat : Bool) (data : List Byte)
    (br : List Nat) : deliver s r tag turn st sat data br = rbump s 0 FLT_STALE := by
  unfold deliver
  rw [hs]
  dsimp only
  rw [ht]
  rfl

theorem responsePacket_delivered {s : State} {p : Packet} {m : BitVec 10} {r : TileRef} {site : Nat}
    (hm : addrModule p.dest = moduleNo s) (hsrc : p.src = .tile m r) :
    let q := passBackAll { s with net := s.net.erase p } p
    siteOf q.2 r.stack.toNat r.tile.toNat = some site →
    turnMatches (tileAt q.2 r.stack.toNat site) p.tag p.turn = true →
    Delivered q.2 r site p.tag p.status (p.sat || q.1) p.data (.next (responsePacket s p)) := by
  intro q hs hturn
  rw [responsePacket_tile hm hsrc]
  exact deliver_delivered q.2 r site p.tag p.turn _ _ _ _ hs hturn

/-! ### Timeouts (R331, R380) -/

/-- A request that waits in the network, where it expires. -/
theorem hopTimeout_waiting {s : State} {p : Packet} (hreq : isResponse p = false) (hop : p.op ≠ .mput)
    (hnet : s.net.contains p = true) (w : Option LinkRef) :
    exec (.hopTimeout p w) s = .next (complete (recordHop s w) (addrStack (issuerAddr s p.src)) p .timeout false []) := by
  have hend : timeoutHop (recordHop s w) p
      = complete (recordHop s w) (addrStack (issuerAddr (recordHop s w) p.src)) p .timeout false [] :=
    (if_neg (Bool.eq_false_iff.mp hreq)).trans (if_neg hop)
  have hissuer : issuerAddr (recordHop s w) p.src = issuerAddr s p.src := by cases w <;> rfl
  rw [hissuer] at hend
  exact congrArg _ ((if_neg (Bool.eq_false_iff.mp hreq)).trans ((if_pos hnet).trans hend))

/-- A request that is no multicast and has gone on. -/
theorem hopTimeout_gone {s : State} {p : Packet} (hreq : isResponse p = false) (hop : p.op ≠ .mput)
    (hnet : s.net.contains p = false) (w : Option LinkRef) : exec (.hopTimeout p w) s = .next s := by
  have hbuf : (if p.op = .mput ∧ !p.targets.isEmpty then bufferOf s p else none) = none := if_neg fun h => hop h.1
  refine congrArg _ ((if_neg (Bool.eq_false_iff.mp hreq)).trans ((if_neg (Bool.eq_false_iff.mp hnet)).trans ?_))
  rw [hbuf]

theorem hopTimeout_response {p : Packet} (hres : isResponse p = true) (w : Option LinkRef) (s : State) :
    exec (.hopTimeout p w) s = .next s := congrArg _ (if_pos hres)

/-- An operation still under way is delivered TIMEOUT under its own TURN. -/
theorem endToEndTimeout_delivered {s : State} {r : TileRef} {tag : BitVec 5} {site : Nat}
    (hs : siteOf s r.stack.toNat r.tile.toNat = some site)
    (hused : tagUsed (tileAt s r.stack.toNat site) tag.toNat = true)
    (hturn : turnMatches (tileAt s r.stack.toNat site) tag
      (BitVec.ofNat 4 (turnOf (tileAt s r.stack.toNat site) tag.toNat)) = true) :
    Delivered s r site tag .timeout false [] (exec (.endToEndTimeout r tag) s) := by
  change Delivered s r site tag .timeout false [] (execEndToEndTimeout r tag s)
  unfold execEndToEndTimeout
  rw [hs]
  dsimp only
  rw [if_pos hused]
  exact deliver_delivered s r site tag _ .timeout false [] _ hs hturn

/-- Settles O17: a response for a tile of this module is delivered there (`responsePacket_tile`, `deliver_delivered`) or is
stale; a request that expires is answered with TIMEOUT (`hopTimeout_waiting`). -/
theorem completionsAndTimeouts : Obligations.CompletionsAndTimeouts := by
  unfold Obligations.CompletionsAndTimeouts
  refine ⟨?responses, ?requests, fun s p w hres => hopTimeout_response hres w s,
    fun s r tag site hs hused hturn => endToEndTimeout_delivered hs hused hturn⟩
  case responses =>
    intro s p m r site hm hsrc q t hs
    refine ⟨fun hturn => ⟨?completion, fun p2 hp => ?getData⟩, fun hstale => ?stale⟩
    case completion => exact responsePacket_delivered hm hsrc hs hturn
    case getData =>
      subst hp
      exact responsePacket_delivered hm hsrc hs hturn
    case stale =>
      exact congrArg Host.Outcome.next ((responsePacket_tile hm hsrc).trans (deliver_stale hs hstale _ _ _ _))
  case requests =>
    intro s p hreq hop
    refine ⟨fun hnet => ⟨_, hopTimeout_waiting hreq hop hnet none, ?unrecorded⟩,
      fun l hnet => ⟨_, hopTimeout_waiting hreq hop hnet (some l), ?recorded⟩,
      fun w hnet => hopTimeout_gone hreq hop hnet w⟩
    case unrecorded => exact complete_answered _ _ _ _ _ _
    case recorded => exact complete_answered _ _ _ _ _ _

end Sys2Proof.Claims
end

section
/-!
PROOFS. The triggers of Sextant's passes (R148, R189, R190) and its lock (R201).
-/

namespace Sys2Proof.Claims

open Sys2Proof Sys2Proof.Machine

/-! ### The tiles that a starting pass wakes (R148) -/

/-- A trigger writes words of its own stack's Sextant block. -/
theorem triggerWords_block {k : Nat} {q : Nat × Nat} (hq : q ∈ triggerWords k) : q.1 = k ∧ 0x10000 ≤ q.2 := by
  rcases List.mem_append.mp hq with hone | hmap
  · simp only [List.mem_cons, List.not_mem_nil, or_false] at hone
    rcases hone with rfl | rfl | rfl | rfl | rfl <;> exact ⟨rfl, by
      simp [SXT_CTL_FIX_REQ, SXT_STATUS_ACTIVITY, SXT_TRIG_HOST, SXT_TEMP_FIXTEMP, SXT_DEMAND_PENDING]⟩
  · obtain ⟨n, -, rfl⟩ := List.mem_map.mp hmap
    exact ⟨rfl, Nat.le_add_right_of_le (by decide)⟩

/-- The words that a trigger writes leave the map of tiles alone. -/
theorem mappedTiles_of_triggerWords {s t : State} {k : Nat} (h : regsBut (triggerWords k) s t) :
    mappedTiles t k = mappedTiles s k := by
  unfold mappedTiles
  refine List.filterMap_congr fun l hl => ?_
  rw [siteOf_of_rword s t k l (h k _ fun q hq => ?apart)]
  case apart =>
    have hl480 := List.mem_range.mp hl
    obtain ⟨hstack, hoff⟩ := triggerWords_block hq
    rw [hstack, ne_eq, regKey_inj]
    omega

/-- Where every mapped tile has its clock, none asks for a start. -/
theorem wakeSites_of_clocked {s : State} {k : Nat} (h : ∀ q ∈ mappedTiles s k, (tileAt s k q.2).clkOn = true) :
    wakeSites s k = s := by
  unfold wakeSites
  generalize mappedTiles s k = l at h
  induction l with
  | nil => rfl
  | cons q l ih =>
    obtain ⟨hq, hl⟩ := List.forall_mem_cons.mp h
    rw [List.foldl_cons, if_neg fun hoff => by simp [hq] at hoff]
    exact ih hl

/-- A pass that is to start stays as it is, or the tiles of a state with the same tiles are woken. -/
theorem startPass_wakes (s : State) (k : Nat) :
    startPass s k = s ∨ ∃ u, startPass s k = wakeSites u k ∧ u.tiles = s.tiles ∧ u.pwr = s.pwr := by
  unfold startPass
  extract_lets d s1 s2 s3
  split
  · exact .inl rfl
  · refine .inr ⟨_, rfl, ?_⟩
    have h3 : s3.tiles = s.tiles ∧ s3.pwr = s.pwr := by unfold s3; split <;> exact ⟨rfl, rfl⟩
    split <;> exact h3

/-- The start of a pass on a stack whose mapped tiles are clocked touches no tile. -/
theorem startPass_tiles_of_clocked {s : State} {k : Nat} (hr : regsBut (triggerWords k) s (startPass s k))
    (h : ∀ q ∈ mappedTiles s k, (tileAt s k q.2).clkOn = true) :
    (startPass s k).tiles = s.tiles ∧ (startPass s k).pwr = s.pwr := by
  rcases startPass_wakes s k with hstays | ⟨u, hwakes, htiles, hpwr⟩
  · rw [hstays]; exact ⟨rfl, rfl⟩
  · have hregs : (startPass s k).regs = u.regs := by
      rw [hwakes]
      exact (wakeSites_frame (fm := [.tiles, .pwr]) u k (.refl _ _) (by decide)).regs.resolve_left (by decide)
    have hmap : mappedTiles u k = mappedTiles s k :=
      mappedTiles_of_triggerWords (regsBut_trans hr (regsBut_of_regs hregs.symm _))
    have hsame : wakeSites u k = u := wakeSites_of_clocked fun q hq => by
      rw [tileAt_congr s u htiles]
      exact h q (hmap ▸ hq)
    rw [hwakes, hsame]
    exact ⟨htiles, hpwr⟩

theorem withTrigger_ne_nil (l : List Nat) (kind : Nat) : withTrigger l kind ≠ [] := by
  unfold withTrigger
  split
  · rintro rfl
    contradiction
  · simp

/-- The host's trigger touches no tile where every mapped tile has its clock, or where no pass starts. -/
theorem hostTrigger_tiles {s : State} {k : Nat} (hk : k < s.stk.length)
    (h : ¬ ((stkOf s k).pass = none ∧ ron s k SXT_CTL_EN = true)
      ∨ ∀ q ∈ mappedTiles s k, (tileAt s k q.2).clkOn = true) :
    (trigger s k 5).tiles = s.tiles ∧ (trigger s k 5).pwr = s.pwr := by
  obtain ⟨u, hu⟩ : ∃ u, u = putStk s k { stkOf s k with passes := withTrigger (stkOf s k).passes 5 } := ⟨_, rfl⟩
  have htrigger : trigger s k 5 = showSextant (startPass u k) k := by rw [hu]; rfl
  have hstk : stkOf u k = { stkOf s k with passes := withTrigger (stkOf s k).passes 5 } := by
    rw [hu]; exact stkOf_putStk _ _ _ hk
  have hutiles : u.tiles = s.tiles := by rw [hu]; rfl
  have hupwr : u.pwr = s.pwr := by rw [hu]; rfl
  have hlen : k < u.stk.length := by rw [hu]; simpa [putStk] using hk
  have hshown := showSextant_only (startPass u k) k
  have hstart : (startPass u k).tiles = u.tiles ∧ (startPass u k).pwr = u.pwr := by
    obtain ⟨hregs, -, -, -, hidle, -⟩ := startPass_facts u k hlen (by rw [hstk]; exact withTrigger_ne_nil _ _)
    rcases h with hno | hclk
    · rw [hidle (by rw [hstk, hu]; exact hno)]
      exact ⟨rfl, rfl⟩
    · exact startPass_tiles_of_clocked hregs (by rw [hu]; exact hclk)
  obtain ⟨htiles, hpwr⟩ := hstart
  rw [htrigger, ← hutiles, ← hupwr]
  exact ⟨(hshown .tiles (by decide)).trans htiles, (hshown .pwr (by decide)).trans hpwr⟩

/-! ### Ageing -/

/-- Where the Chronometers run, time reaches the tick that an event waits for. -/
theorem le_elapseToTick {s : State} (h : tickRuns s = true) (b : Nat) : b ≤ (elapseToTick s b).tick := by
  unfold elapseToTick
  split
  · rename_i hstays
    simpa [h] using hstays
  · exact le_rfl

/-- The tick of a stack's ageing trigger: 86,400 s after its last pass. -/
def ageingTick (s : State) (k : Nat) : Nat :=
  rget s k SXT_FIXTICK_LO_TICK + rget s k SXT_FIXTICK_HI_TICK * 2 ^ 32 + 86400000000000

theorem execAgeingTrigger_eq (k : BitVec 3) (s : State) :
    execAgeingTrigger k s = .next (if baseReach s k.toNat ∧
      ageingTick s k.toNat ≤ (elapseToTick s (ageingTick s k.toNat)).tick
      then trigger (elapseToTick s (ageingTick s k.toNat)) k.toNat 4 else s) := rfl

/-- Ageing fires once its tick is reached. -/
theorem ageingTrigger_of_reach {s : State} {k : BitVec 3} (hreach : baseReach s k.toNat = true)
    (htick : tickRuns s = true) :
    exec (.ageingTrigger k) s = .next (trigger (elapseToTick s (ageingTick s k.toNat)) k.toNat 4) :=
  (execAgeingTrigger_eq k s).trans (congrArg Host.Outcome.next (if_pos ⟨hreach, le_elapseToTick htick _⟩))

/-! ### FIX_REQ and LOCK -/

theorem fixReq_of_reach {s : State} {k : BitVec 3} (hreach : baseReach s k.toNat = true) :
    exec (.fixReq k) s = .next (trigger (rset s k.toNat SXT_CTL_FIX_REQ) k.toNat 5) :=
  congrArg Host.Outcome.next (if_pos hreach)

theorem sxtLock_of_reach {s : State} {k : BitVec 3} (hreach : baseReach s k.toNat = true) :
    exec (.sxtLock k) s = .next (rset s k.toNat SXT_CTL_LOCK) :=
  congrArg Host.Outcome.next (if_pos hreach)

/-! ### SextantTriggers -/

/-- Settles O34: FIX_REQ and ageing are triggers (`trigger_facts`), and a start wakes only tiles whose clock is off
(`hostTrigger_tiles`). -/
theorem sextantTriggers : Obligations.SextantTriggers := by
  unfold Obligations.SextantTriggers
  intro s k hsafe hreach n starts
  have hn : n < s.stk.length := by rw [((machineSafe_iff s).mp hsafe).stk]; exact k.isLt
  refine ⟨?fixReq, ?lock, fun htick => ?ageing⟩
  case fixReq =>
    obtain ⟨u, hu⟩ : ∃ u, u = rset s n SXT_CTL_FIX_REQ := ⟨_, rfl⟩
    have hexec : exec (.fixReq k) s = .next (trigger u n 5) := by rw [hu]; exact fixReq_of_reach hreach
    have hreq : rget u n SXT_CTL_FIX_REQ = 1 := by rw [hu]; exact rset_one _ _ _ (by decide) (by decide)
    have hen : ron u n SXT_CTL_EN = ron s n SXT_CTL_EN := by
      rw [hu, ron, rset_ne _ _ _ _ (by decide) (by decide), ron]
    have htemp : rget u n SXT_TEMP_NOWTEMP = rget s n SXT_TEMP_NOWTEMP := by
      rw [hu, rset_ne _ _ _ _ (by decide) (by decide)]
    have hregs : regsBut (triggerWords n) s u := by rw [hu]; exact regsBut_rputm _ _ _ _ _ (trigW n _ (.inl rfl))
    have honly : changesOnly [.regs, .tiles, .stk, .pwr] s u := by
      rw [hu]; exact only_mono (only_rput _ _ _ _ _) (by decide)
    have hstk : ∀ m, stkOf u m = stkOf s m := fun m => by rw [hu]; rfl
    have hcyc : u.cyc = s.cyc := honly .cyc (by decide)
    have hun : n < u.stk.length := by rw [hu]; exact hn
    have htiles := hostTrigger_tiles hun
    obtain ⟨hwords, hparts, hother, -, hidle, hgoes⟩ := trigger_facts u n 5 hun
    rw [hstk, hen] at hidle hgoes htiles
    rw [htemp, hcyc] at hgoes
    refine ⟨_, hexec, fun hno => ?waits, fun ⟨hpass, hrun⟩ => ?begins, fun m hm => (hother m hm).trans (hstk m),
      fun h => ?clocked, regsBut_trans hregs hwords, only_trans honly hparts⟩
    case waits =>
      obtain ⟨hpasses, hsame, hfix⟩ := hidle hno
      exact ⟨hpasses, hsame, (hfix rfl).trans hreq⟩
    case begins =>
      obtain ⟨hpasses, hnew, hfix, hfixtemp⟩ := hgoes hpass hrun
      obtain ⟨hclear, hhost⟩ := hfix rfl
      exact ⟨hpasses, hnew, hclear, hhost, hfixtemp⟩
    case clocked =>
      rw [mappedTiles_of_triggerWords hregs] at htiles
      rw [hu] at htiles ⊢
      exact htiles h
  case lock =>
    exact ⟨_, sxtLock_of_reach hreach, rset_one _ _ _ (by decide) (by decide), regsBut_rput0 _ _ _ _, only_rput _ _ _ _ _⟩
  case ageing =>
    obtain ⟨u, hu⟩ : ∃ u, u = elapseToTick s (ageingTick s n) := ⟨_, rfl⟩
    have hexec : exec (.ageingTrigger k) s = .next (trigger u n 4) := by rw [hu]; exact ageingTrigger_of_reach hreach htick
    have hstk : u.stk = s.stk := by rw [hu]; exact elapseToTick_stk s _
    have hregs : u.regs = s.regs := by rw [hu]; exact elapseToTick_regs s _
    have honly : changesOnly [.cyc, .tick, .tfrac] s u := by rw [hu]; exact elapseToTick_only s _
    obtain ⟨hwords, hparts, -, hage, hidle, hgoes⟩ := trigger_facts u n 4 (hstk ▸ hn)
    rw [stkOf_congr s u hstk, ron_congr s u hregs] at hidle hgoes
    have hcyc : (trigger u n 4).cyc = u.cyc := hparts .cyc (by decide)
    refine ⟨_, hexec, hage rfl, fun hno => ?waits, fun ⟨hpass, hrun⟩ => ?begins,
      regsBut_trans (regsBut_of_regs hregs _) hwords,
      only_trans (only_mono honly (by decide)) (only_mono hparts (by decide))⟩
    case waits =>
      obtain ⟨hpasses, -, -⟩ := hidle hno
      exact hpasses
    case begins =>
      obtain ⟨-, hnew, -, -⟩ := hgoes hpass hrun
      rw [hnew, hcyc]

end Sys2Proof.Claims
end

section
/-!
PROOFS. Sextant's array cycles: dog slots, idle cycles and demands (R186, R187, R193, R200).
-/

namespace Sys2Proof.Claims

open Sys2Proof Sys2Proof.Machine

/-! ### Dog slots (R186) -/

/-- What a dog slot does to one site of the pass: a clocked tile has 800 array cycles until it ends. -/
def openSite (k till : Nat) (s : State) (site : Nat) : State :=
  if (tileAt s k site).clkOn then putSequencer s k site { sequencer s k site with left := 800, until_ := till } else s

theorem openDog_eq_foldl (s : State) (k till : Nat) : openDog s k till = (passSites s k).foldl (openSite k till) s := rfl

theorem openSite_tiles (k till : Nat) (s : State) (site : Nat) : (openSite k till s site).tiles = s.tiles := by
  unfold openSite
  split <;> rfl

theorem openSite_len (k till : Nat) (s : State) (site : Nat) : (openSite k till s site).stk.length = s.stk.length := by
  unfold openSite
  split
  · exact putSequencer_len _ _ _ _
  · rfl

/-- The slot's array cycles of a site are those that it has, or that it is given now. -/
theorem sequencer_openSite {s : State} {k : Nat} (till site x : Nat) (hk : k < s.stk.length)
    (hx : (tileAt s k x).clkOn = true) :
    sequencer (openSite k till s site) k x
      = if x = site then { sequencer s k x with left := 800, until_ := till } else sequencer s k x := by
  unfold openSite
  by_cases hsite : x = site
  · subst hsite
    rw [if_pos hx, sequencer_put _ _ _ _ hk]
  · rw [if_neg hsite]
    split
    · rw [sequencer_put _ _ _ _ hk, if_neg hsite]
    · rfl

theorem sequencer_openSites (l : List Nat) {s : State} {k : Nat} (till x : Nat) (hk : k < s.stk.length)
    (hx : (tileAt s k x).clkOn = true) :
    sequencer (l.foldl (openSite k till) s) k x
      = if x ∈ l then { sequencer s k x with left := 800, until_ := till } else sequencer s k x := by
  induction l generalizing s with
  | nil => simp
  | cons site l ih =>
    have hlen := openSite_len k till s site
    have hclk := tileAt_congr _ _ (openSite_tiles k till s site) k x
    rw [List.foldl_cons, ih (hlen ▸ hk) (hclk ▸ hx), sequencer_openSite till site x hk hx]
    by_cases hsite : x = site <;> simp [hsite]

theorem sequencer_openDog {s : State} {k site : Nat} (till : Nat) (hk : k < s.stk.length) (hsite : site ∈ passSites s k)
    (hclk : (tileAt s k site).clkOn = true) :
    sequencer (openDog s k till) k site = { sequencer s k site with left := 800, until_ := till } := by
  rw [openDog_eq_foldl, sequencer_openSites _ till site hk hclk, if_pos hsite]

/-- The state in which the dog slot of stack `k` at cycle `x` begins. -/
def dogState (s : State) (k x : Nat) : State :=
  putStk (elapseTo s x) k { stkOf (elapseTo s x) k with dogAt := x + 1 }

theorem dogState_len (s : State) (k x : Nat) : (dogState s k x).stk.length = s.stk.length := by
  simp [dogState, putStk]

theorem dogSlot_exec {s : State} {k : BitVec 3} {x : Nat} (h : nextDog s k.toNat = some x) :
    exec (.dogSlot k) s = .next (if ron s k.toNat SXT_CTL_EN
      then wakeSites (pickSight (openDog (dogState s k.toNat x) k.toNat (x + 2400)) k.toNat) k.toNat
      else dogState s k.toNat x) := by
  change execDogSlot k s = _
  unfold execDogSlot
  dsimp only
  rw [h]
  rfl

/-! ### Idle array cycles (R187) -/

/-- An idle cycle of a mapped tile, where Sextant and its idle cycles are enabled. -/
theorem idleCycle_exec {s : State} {r : TileRef} {site : Nat} (hs : siteOf s r.stack.toNat r.tile.toNat = some site)
    (hen : ron s r.stack.toNat SXT_CTL_EN = true) (hidle : ron s r.stack.toNat SXT_CTL_IDLE_EN = true) :
    exec (.idleCycle r) s = if (tileAt s r.stack.toNat site).clkOn = true then .next (useIdle s r site)
      else .next (askStart s r.stack.toNat r.tile.toNat) := by
  change execIdleCycle r s = _
  unfold execIdleCycle
  dsimp only
  rw [hs]
  cases hclk : (tileAt s r.stack.toNat site).clkOn <;> simp [hen, hidle, hclk]

/-- An idle cycle is used for the group in hand, and counted. -/
theorem useIdle_of_work {s : State} {r : TileRef} {site : Nat} {q : Bool × Nat}
    (hwork : siteWork (pickSight s r.stack.toNat) r.stack.toNat site = some q) :
    let k := r.stack.toNat
    let s1 := pickSight s k
    let w := sequencer s1 k site
    let h := w.hand q.1 q.2
    let s2 := elapseTo s1 (phase0From (slotZero s1 k) (max s1.cyc w.next))
    h.need ≠ 0 → arrayIdle s2 r (settle s2.cyc (tileAt s2 k site)) = true →
      useIdle s r site
        = rbump (putSequencer s2 k site { w.put { h with done := h.done + 1 } with next := s2.cyc + 3 }) k SXT_IDLEUSED := by
  intro k s1 w h s2 hneed hidle
  unfold useIdle
  dsimp only
  rw [hwork]
  dsimp only
  rw [if_neg hneed, if_pos hidle]

/-! ### Uncorrectable records (R200) -/

/-- A demand of `site` for every group of it; another site's demand stays as it is. -/
def demandWhole (site : Nat) (y : Demand) : Demand :=
  if y.site = site then { y with toFix := List.range tileGroups, toSight := [] } else y

theorem demandWhole_site (site : Nat) (y : Demand) : (demandWhole site y).site = y.site := by
  unfold demandWhole
  split <;> rfl

theorem demandAll_of_pending {s : State} {k site : Nat} {x : Demand} (h : demandOf s k site = some x) :
    demandAll s k site = putStk s k { stkOf s k with demands := (stkOf s k).demands.map (demandWhole site) } := by
  unfold demandAll
  dsimp only
  rw [h]
  rfl

/-- A site that has a pending demand is demanded whole. -/
theorem demandOf_demandAll {s : State} {k site : Nat} {x : Demand} (hk : k < s.stk.length)
    (h : demandOf s k site = some x) :
    demandOf (demandAll s k site) k site = some { x with toFix := List.range 292, toSight := [] } := by
  have hsite : x.site = site := by simpa using List.find?_some h
  have hpred : ((fun y : Demand => y.site == site) ∘ demandWhole site) = fun y => y.site == site :=
    funext fun y => congrArg (· == site) (demandWhole_site site y)
  calc demandOf (demandAll s k site) k site
      = ((stkOf s k).demands.map (demandWhole site)).find? fun y => y.site == site := by
        rw [demandAll_of_pending h, demandOf, stkOf_putStk _ _ _ hk]
    _ = (demandOf s k site).map (demandWhole site) := by rw [List.find?_map, hpred, demandOf]
    _ = some { x with toFix := List.range 292, toSight := [] } := by
        rw [h, Option.map_some, demandWhole, if_pos hsite]
        rfl

theorem keepTrims_len (s : State) (k site : Nat) : (keepTrims s k site).stk.length = s.stk.length := by
  simp [keepTrims, putStk]

theorem demandOf_keepTrims {s : State} {k : Nat} (hk : k < s.stk.length) (site x : Nat) :
    demandOf (keepTrims s k site) k x = demandOf s k x := by
  unfold demandOf keepTrims
  rw [stkOf_putStk _ _ _ hk]

theorem tableEccError_of_reach {s : State} {k : BitVec 3} {site : Nat} (hsite : site < 480)
    (hreach : baseReach s k.toNat = true) :
    exec (.tableEccError k site) s
      = .next (showSextant (demandAll (keepTrims s k.toNat site) k.toNat site) k.toNat) :=
  congrArg Host.Outcome.next (if_neg fun hno => by simp [hreach] at hno; omega)

/-! ### SextantCycles -/

/-- Settles O35: a dog slot opens every clocked site of the pass (`sequencer_openDog`), an idle cycle goes to the group in
hand (`useIdle_of_work`), and an uncorrectable record has the whole tile demanded (`demandOf_demandAll`). -/
theorem sextantCycles : Obligations.SextantCycles := by
  unfold Obligations.SextantCycles
  intro s k n
  refine ⟨fun x hdog => ⟨dogState s n x, rfl, fun hoff => ?off, fun hon => ⟨?slot, fun hn site hsite hclk => ?cycles⟩⟩,
    fun r site hr hs hen hidle => ⟨fun hclk => ?wakes, fun q hclk hwork => ?used⟩,
    fun hstretch => ?stretch, fun site hsite hreach => ⟨tableEccError_of_reach hsite hreach, fun x hn hx => ?whole⟩⟩
  case off => rw [dogSlot_exec hdog, if_neg (by rw [hoff]; decide)]
  case slot => rw [dogSlot_exec hdog, if_pos hon]
  case cycles => exact sequencer_openDog _ ((dogState_len s n x).symm ▸ hn) hsite hclk
  case wakes =>
    subst hr
    rw [idleCycle_exec hs hen hidle, if_neg (by rw [hclk]; decide)]
  case used =>
    subst hr
    intro s1 w h s2 hneed harray
    rw [idleCycle_exec hs hen hidle, if_pos hclk, useIdle_of_work hwork hneed harray]
  case stretch => exact congrArg Host.Outcome.next (if_pos hstretch)
  case whole =>
    exact demandOf_demandAll ((keepTrims_len s n site).symm ▸ hn) ((demandOf_keepTrims hn site site).trans hx)

end Sys2Proof.Claims
end

section
/-!
PROOFS. Finished column groups, the references' measurement and the end of a pass (R181 to R184, R186, R190).
-/

namespace Sys2Proof.Claims

open Sys2Proof Sys2Proof.Machine

/-! ### GROUP_COMPLETE -/

/-- GROUP_COMPLETE of a column group of a mapped tile, where Sextant is enabled. -/
theorem groupComplete_exec {s : State} {k : BitVec 3} {site g l : Nat} (hg : g < 292)
    (hen : ron s k.toNat SXT_CTL_EN = true) (hl : logicalOf s k.toNat site = some l) (fix : Bool) (r : GroupResult) :
    exec (.groupComplete k site g fix r) s = if (tileAt s k.toNat site).clkOn = true
      then .next (siteGroup s k.toNat site g fix r) else .next (askStart s k.toNat l) := by
  have hcolumn : g ≠ tileGroups := hg.ne
  change execGroupComplete k site g fix r s = _
  unfold execGroupComplete
  dsimp only
  rw [if_neg (by rw [hen]; decide), if_neg hcolumn, hl]
  cases (tileAt s k.toNat site).clkOn <;> simp

/-- A group that its site works on, with the whole of its measurement, ends if its array cycles can be spent. -/
theorem siteGroup_of_whole {s : State} {k site g : Nat} {fix : Bool} {r : GroupResult} :
    let s1 := pickSight s k
    let dropped := ((sequencer s1 k site).hand fix g).dropped
    siteWork s1 k site = some (fix, g) → resultWhole (tileAt s1 k site) g dropped r = true →
      siteGroup s k site g fix r
        = (spendGroup s1 k site fix g).elim s fun s2 => showSextant (groupResult s2 k site fix g dropped r) k := by
  intro s1 dropped hwork hwhole
  unfold siteGroup
  dsimp only
  rw [if_neg fun hno => by simp [s1, dropped, hwork, hwhole] at hno]
  cases spendGroup s1 k site fix g with
  | none => rfl
  | some s2 => rw [Option.elim_some]

/-- GROUP_COMPLETE of group 292 is the end of the references' measurement. -/
theorem groupComplete_references {s : State} {k : BitVec 3} (hen : ron s k.toNat SXT_CTL_EN = true) (site : Nat)
    (r : GroupResult) :
    exec (.groupComplete k site 292 true r) s = .next (referencesDone s k.toNat r.targets) :=
  if_neg (by rw [hen]; decide)

theorem referencesDone_of_done {s : State} {k : Nat} {p : Pass} (hpass : (stkOf s k).pass = some p)
    (hdone : p.refsDone = true) (ts : List (Nat × Int)) : referencesDone s k ts = s := by
  unfold referencesDone
  rw [hpass]
  exact if_pos hdone

theorem referencesDone_of_due {s : State} {k : Nat} {p : Pass} (hpass : (stkOf s k).pass = some p)
    (hdue : p.refsDone = false) (ts : List (Nat × Int)) :
    let s1 := writeReferences (elapseTo s p.refsAt) k ts
    let s2 := putStk s1 k { stkOf s1 k with pass := some { p with refsDone := true } }
    referencesDone s k ts = showSextant (if hasStepped s2 k then s2 else takeTargets s2 k) k := by
  unfold referencesDone
  rw [hpass]
  exact if_neg (by rw [hdue]; decide)

/-! ### Array cycles (R186, R187) -/

/-- The machine whose group has had `need` array cycles from the dog slot at hand: time stands at its end there. -/
def slotSpent (s : State) (k site : Nat) (fix : Bool) (g need : Nat) : State :=
  let w := sequencer s k site
  elapseTo (rbump (putSequencer s k site { w.drop fix g with left := w.left - need }) k SXT_DOGUSED need)
    (w.until_ - 3 * (w.left - need))

theorem slotSpent_left {s : State} {k : Nat} (hk : k < s.stk.length) (site : Nat) (fix : Bool) (g need : Nat) :
    (sequencer (slotSpent s k site fix g need) k site).left = (sequencer s k site).left - need := by
  have hstk : (slotSpent s k site fix g need).stk = (putSequencer s k site
      { (sequencer s k site).drop fix g with left := (sequencer s k site).left - need }).stk := elapseTo_stk _ _
  rw [sequencer, stkOf_congr _ _ hstk, ← sequencer, sequencer_put _ _ _ _ hk, if_pos rfl]

theorem slotSpent_dogUsed (s : State) (k site : Nat) (fix : Bool) (g need : Nat) :
    rget (slotSpent s k site fix g need) k SXT_DOGUSED = (rget s k SXT_DOGUSED + need) % 2 ^ 32 :=
  (rget_congr _ _ (elapseTo_regs _ _) k SXT_DOGUSED 0).trans (rbump_same _ k SXT_DOGUSED need (by decide))

section Spend

-- Once the stack has stepped, or without idle cycles, a group's cycles come from the dog slot alone.
variable {s : State} {k site g : Nat} {fix : Bool}
  (hslot : hasStepped s k = true ∨ ron s k SXT_CTL_IDLE_EN = false)
include hslot

theorem not_idle_of_slot : ¬ (!hasStepped s k && ron s k SXT_CTL_IDLE_EN) = true := by
  rcases hslot with h | h <;> simp [h]

theorem spendGroup_of_slot (hneed : ((sequencer s k site).hand fix g).need ≠ 0)
    (hleft : ((sequencer s k site).hand fix g).need ≤ slotLeft s (sequencer s k site)) :
    spendGroup s k site fix g = some (slotSpent s k site fix g ((sequencer s k site).hand fix g).need) := by
  unfold spendGroup
  dsimp only
  rw [if_neg hneed, if_neg (not_idle_of_slot hslot), if_pos hleft, slotSpent]

theorem spendGroup_of_short (hshort : slotLeft s (sequencer s k site) < ((sequencer s k site).hand fix g).need) :
    spendGroup s k site fix g = none := by
  unfold spendGroup
  dsimp only
  rw [if_neg (Nat.ne_zero_of_lt hshort), if_neg (not_idle_of_slot hslot), if_neg hshort.not_ge]

end Spend

/-! ### SextantResults -/

/-- Settles O36: GROUP_COMPLETE of a whole group is `siteGroup_of_whole`, whose array cycles come from the dog slot
(`spendGroup_of_slot`, `spendGroup_of_short`); of group 292 it is the references' (`referencesDone_of_due`). -/
theorem sextantResults : Obligations.SextantResults := by
  unfold Obligations.SextantResults
  intro s k n
  refine ⟨fun site g l fix r hg hen hl => ⟨fun hclk => ?asks, fun hclk => ?group⟩,
    fun site g fix hn hslot => ⟨fun hpos hleft => ?spent, spendGroup_of_short hslot⟩,
    fun site r p hen hpass => ⟨fun hdue => ?due, fun hdone => ?done⟩,
    fun hfinished => congrArg Host.Outcome.next (if_pos hfinished)⟩
  case asks => rw [groupComplete_exec hg hen hl, if_neg (by rw [hclk]; decide)]
  case group =>
    intro s1 dropped hwork hwhole
    rw [groupComplete_exec hg hen hl, if_pos hclk, siteGroup_of_whole hwork hwhole]
    exact ⟨fun s2 hspent => by rw [hspent, Option.elim_some], fun hunspent => by rw [hunspent, Option.elim_none]⟩
  case spent =>
    exact ⟨_, spendGroup_of_slot hslot hpos hleft, slotSpent_left hn site fix g _, slotSpent_dogUsed s n site fix g _⟩
  case due => rw [groupComplete_references hen, referencesDone_of_due hpass hdue]
  case done => rw [groupComplete_references hen, referencesDone_of_done hpass hdone]

end Sys2Proof.Claims
end

section
/-!
PROOFS. The control bits of the walkers (R227, R229, R231, Table 9.12).
-/

namespace Sys2Proof.Claims

open Sys2Proof Sys2Proof.Machine

/-! ### What a put into one register of the control region leaves -/

/-- A put outside CHT_BASE leaves the frame count, which Helm wrote at the base of the chart area (R243). -/
theorem frameCount_rput (s : State) (k : Nat) (f : Fld) (v : Nat) (hf : f.fits = true)
    (hlo : CHT_BASE_LO_BASE.off ≠ f.off) (hhi : CHT_BASE_HI_BASE.off ≠ f.off) :
    frameCount (rput s k f v) k = frameCount s k := by
  have hbase : chartBase (rput s k f v) k = chartBase s k := by
    unfold chartBase
    rw [rget_rput_ne s k CHT_BASE_LO_BASE f v hf (.inl hlo), rget_rput_ne s k CHT_BASE_HI_BASE f v hf (.inl hhi)]
  unfold frameCount chartFacts cread
  rw [hbase]
  rfl

/-! ### EN (R227, R376) -/

/-- The frames of stack `k` that R376 has not retired, in ascending order. -/
def freshFrames (s : State) (k : Nat) : List Nat :=
  (List.range (frameCount s k)).filter fun f => !(stkOf s k).retired.contains f

/-- EN cleared, or set again, changes its own bit alone. -/
theorem writeChtEn_of_later {s : State} {k : Nat} {v : Bool} (hreach : chtReach s k = true)
    (h : v = false ∨ (stkOf s k).framesInit = true) : writeChtEn s k v = rput s k CHT_CTL_EN (bit v) := by
  have hnot : ¬ (v && !(stkOf s k).framesInit) = true := by
    rcases h with h | h <;> simp [h]
  unfold writeChtEn
  rw [if_neg (by rw [hreach]; decide)]
  exact if_neg hnot

/-- EN set for the first time frees the frames. -/
theorem writeChtEn_of_first {s : State} {k : Nat} {v : Bool} (hreach : chtReach s k = true) (hv : v = true)
    (h : (stkOf s k).framesInit = false) :
    writeChtEn s k v = putStk (rput s k CHT_CTL_EN (bit v)) k
      { stkOf s k with framesInit := true, frames := freshFrames s k } := by
  have hfirst : (v && !(stkOf s k).framesInit) = true := by rw [hv, h]; rfl
  unfold writeChtEn freshFrames
  rw [if_neg (by rw [hreach]; decide), ← frameCount_rput s k CHT_CTL_EN (bit v) rfl (by decide) (by decide)]
  exact if_pos hfirst

/-- Whether or not it frees the frames, EN written changes no register but its own, and only the stacks beside it. -/
theorem writeChtEn_regs {s : State} {k : Nat} (hreach : chtReach s k = true) (v : Bool) :
    ∃ l, writeChtEn s k v = { rput s k CHT_CTL_EN (bit v) with stk := l } := by
  by_cases h : v = false ∨ (stkOf s k).framesInit = true
  · exact ⟨s.stk, writeChtEn_of_later hreach h⟩
  · obtain ⟨hv, hinit⟩ := not_or.mp h
    exact ⟨_, writeChtEn_of_first hreach (Bool.eq_true_of_not_eq_false hv) (Bool.eq_false_of_not_eq_true hinit)⟩

/-- What EN written leaves of the registers and of the rest of the machine. -/
theorem writeChtEn_frame_of_reach {s : State} {k : Nat} (hreach : chtReach s k = true) (v : Bool) :
    rget (writeChtEn s k v) k CHT_CTL_EN = bit v
    ∧ rget (writeChtEn s k v) k CHT_CTL_LOCK = rget s k CHT_CTL_LOCK
    ∧ regsBut [(k, CHT_CTL_EN.off)] s (writeChtEn s k v)
    ∧ changesOnly [.regs, .stk] s (writeChtEn s k v) := by
  obtain ⟨l, hl⟩ := writeChtEn_regs hreach v
  rw [hl]
  refine ⟨rget_rput_same1 s k CHT_CTL_EN (bit v) rfl (bit_lt v), rget_rput_ne s k CHT_CTL_LOCK CHT_CTL_EN (bit v) rfl (.inr rfl),
    regsBut_rput0 s k CHT_CTL_EN (bit v), ?_⟩
  exact only_trans (only_mono (only_rput s k CHT_CTL_EN (bit v) 0) (by decide)) (only_mono (only_of_stk _ l) (by decide))

/-! ### INV_ALL, LOCK and HEAD (R229, R231) -/

theorem execInvAll_of_reach {s : State} {k : BitVec 3} (hreach : chtReach s k.toNat = true) :
    exec (.invAll k) s = .next (putStk s k.toNat { stkOf s k.toNat with cache := [] }) :=
  congrArg Host.Outcome.next (if_pos hreach)

theorem execChtLock_of_reach {s : State} {k : BitVec 3} (hreach : chtReach s k.toNat = true) :
    exec (.chtLock k) s = .next (rset s k.toNat CHT_CTL_LOCK) := congrArg Host.Outcome.next (if_pos hreach)

theorem execChtHead_of_reach {s : State} {k : BitVec 3} (hreach : chtReach s k.toNat = true) (h : BitVec 12) :
    exec (.chtHead k h) s = .next (rput s k.toNat CHT_HEAD_HEAD h.toNat) := congrArg Host.Outcome.next (if_pos hreach)

/-- Settles O20: EN's two cases are `writeChtEn_of_later` and `writeChtEn_of_first`; the other bits are one put each, and
INV_ALL replaces one stack. -/
theorem walkerControls : Obligations.WalkerControls := by
  unfold Obligations.WalkerControls
  intro s k hreach hk
  refine ⟨fun v => ?en, ?inv, ?lock, fun h => ?head⟩
  case en =>
    obtain ⟨hen, hlock, hregs, honly⟩ := writeChtEn_frame_of_reach hreach v
    refine ⟨writeChtEn s k.toNat v, rfl, hen, hlock, hregs, honly, fun hlater => ?_, fun hv hinit => ?_⟩
    · rw [writeChtEn_of_later hreach hlater]
      rfl
    · rw [writeChtEn_of_first hreach hv hinit]
      exact stkOf_putStk _ _ _ hk
  case inv =>
    exact ⟨_, execInvAll_of_reach hreach, stkOf_putStk s k.toNat _ hk, fun j hj => stkOf_putStk_ne s k.toNat j _ hj,
      only_putStk s k.toNat _⟩
  case lock =>
    exact ⟨_, execChtLock_of_reach hreach, rset_one s k.toNat CHT_CTL_LOCK rfl (by decide),
      rset_ne s k.toNat CHT_CTL_EN CHT_CTL_LOCK rfl (.inr rfl), regsBut_rput0 s k.toNat CHT_CTL_LOCK 1,
      only_rput s k.toNat CHT_CTL_LOCK 1 0⟩
  case head =>
    exact ⟨_, execChtHead_of_reach hreach h, rget_rput_same1 s k.toNat CHT_HEAD_HEAD h.toNat rfl h.isLt,
      regsBut_rput0 s k.toNat CHT_HEAD_HEAD h.toNat, only_rput s k.toNat CHT_HEAD_HEAD h.toNat 0⟩

end Sys2Proof.Claims
end

section
/-!
PROOFS. The page and append windows (R227, R228), and the answers to control reports (R84, R170, R374).
-/

namespace Sys2Proof.Claims

open Sys2Proof Sys2Proof.Machine

/-! ### The windows -/

theorem pageWindow_of_get {s : State} {p : Packet} (hop : p.op = .get)
    (hen : ron s (addrStack p.dest) CHT_CTL_EN = true) :
    pageWindow s p =
      (let q := windowRead s (addrStack p.dest) (addrOff p.dest) p.len
      complete q.1 (addrStack p.dest) p .ok false q.2) := if_pos ⟨hop, hen⟩

theorem pageWindow_fenced {s : State} {p : Packet}
    (h : p.op ≠ .get ∨ ron s (addrStack p.dest) CHT_CTL_EN = false) :
    pageWindow s p = complete s (addrStack p.dest) p .fenced false [] :=
  if_neg fun ⟨hop, hen⟩ => h.elim (absurd hop) fun hoff => Bool.noConfusion (hoff.symm.trans hen)

theorem appendWindow_of_put {s : State} {p : Packet} (hop : p.op = .put)
    (hen : ron s (addrStack p.dest) CHT_CTL_EN = true) :
    appendWindow s p =
      (let q := windowWrite s (addrStack p.dest) (winAddr (addrOff p.dest)) (p.data.take p.len)
      noteMasked (complete q.1 (addrStack p.dest) p q.2 false []) (addrStack p.dest) (winAddr (addrOff p.dest)) p q.2) :=
  if_pos ⟨hop, hen⟩

theorem appendWindow_fenced {s : State} {p : Packet}
    (h : p.op ≠ .put ∨ ron s (addrStack p.dest) CHT_CTL_EN = false) :
    appendWindow s p = complete s (addrStack p.dest) p .fenced false [] :=
  if_neg fun ⟨hop, hen⟩ => h.elim (absurd hop) fun hoff => Bool.noConfusion (hoff.symm.trans hen)

/-- Only an append that completed with FENCED is remembered (R247). -/
theorem noteMasked_ok (s : State) (k : Nat) (a : WinAddr) (p : Packet) : noteMasked s k a p .ok = s := by
  unfold noteMasked
  split
  · exact if_neg fun h => Status.noConfusion h.1
  · rfl

/-! ### Control reports -/

section Reports

variable {s : State} {r : TileRef} {site b : Nat}

/-- A tile fault that does not count against its tile has the source of its bank write restaged (R374, R385). -/
theorem reportTile_of_source (hsite : siteOf s r.stack.toNat r.tile.toNat = some site) (hberth : berthOfTile s r = some b)
    (hvalid : tget (tileAt s r.stack.toNat site) TIL_FAULT_VALID ≠ 0)
    (hclass : tileClass s (tileAt s r.stack.toNat site) ≠ 2) :
    reportTile s r =
      berthFault (restageSource s (tileAt s r.stack.toNat site).crcAt) b (tileClass s (tileAt s r.stack.toNat site))
        r.stack.toNat r.tile.toNat (tget (tileAt s r.stack.toNat site) TIL_FAULT_CAUSE) := by
  unfold reportTile
  dsimp only
  rw [hsite]
  dsimp only
  rw [if_neg hvalid, hberth]
  dsimp only
  rw [if_neg hclass]

/-- A tile fault of class 2 counts against its tile (R377). -/
theorem reportTile_of_hardware (hsite : siteOf s r.stack.toNat r.tile.toNat = some site) (hberth : berthOfTile s r = some b)
    (hvalid : tget (tileAt s r.stack.toNat site) TIL_FAULT_VALID ≠ 0)
    (hclass : tileClass s (tileAt s r.stack.toNat site) = 2) :
    reportTile s r =
      berthFault (countHardware s b r.stack.toNat site (tget (tileAt s r.stack.toNat site) TIL_FAULT_CAUSE)) b 2
        r.stack.toNat r.tile.toNat (tget (tileAt s r.stack.toNat site) TIL_FAULT_CAUSE) := by
  unfold reportTile
  dsimp only
  rw [hsite]
  dsimp only
  rw [if_neg hvalid, hberth]
  dsimp only
  rw [hclass, if_pos rfl]

/-- A tile fault that has been cleared has no effect. -/
theorem reportTile_of_cleared (hsite : siteOf s r.stack.toNat r.tile.toNat = some site)
    (hvalid : tget (tileAt s r.stack.toNat site) TIL_FAULT_VALID = 0) : reportTile s r = s := by
  unfold reportTile
  dsimp only
  rw [hsite]
  exact if_pos hvalid

theorem reportFailed_of_unmasked {tag : BitVec 5} (hberth : berthOfTile s r = some b)
    (hmask : s.serve.masked.contains (r, tag) = false) :
    reportFailed s r tag = berthFault s b 9 r.stack.toNat 0 0 := by
  unfold reportFailed
  rw [if_neg (by rw [hmask]; decide), hberth]

theorem bankSource_of_siteOf (hsite : siteOf s r.stack.toNat r.tile.toNat = some site) :
    bankSource s r = (tileAt s r.stack.toNat site).crcAt := by
  unfold bankSource
  rw [hsite]

/-- A bank write from a staged shard counts against the shard's DRAM channel, and the shard is restaged (R84, R385). -/
theorem countBank_of_staged {a : Dword} (hsource : bankSource s r = some a) (hstaged : crcStaged s (some a) = true)
    (ch : Nat) :
    countBank s r ch =
      changeTile (restageSource (logCount s (dramUnit (addrStack a) ch) false 1 0).1 (some a)) r
        fun _ t => { t with crcAt := none } := by
  unfold countBank
  rw [hsource]
  exact if_pos hstaged

theorem countBank_of_unstaged (hstaged : crcStaged s (bankSource s r) = false) (ch : Nat) : countBank s r ch = s := by
  unfold countBank
  cases hsource : bankSource s r with
  | none => rfl
  | some a => exact if_neg (by rw [← hsource, hstaged]; decide)

theorem reportBank_of_berth (hberth : berthOfTile s r = some b) (ch : Nat) :
    reportBank s r ch =
      berthFault (countBank s r ch) b (if crcStaged s (bankSource s r) then 4 else 3) r.stack.toNat 0 0 := by
  unfold reportBank
  dsimp only
  rw [hberth]

end Reports

/-- Settles O31: a window's operation takes the branch that its packet's OP and EN choose; a report acts on the machine
that its flit leaves, as the lemma of its kind says. -/
theorem windowsAndReports : Obligations.WindowsAndReports := by
  unfold Obligations.WindowsAndReports
  refine ⟨fun s p => ?windows, fun s r site b rep => ?reports⟩
  case windows =>
    refine ⟨fun hop hen => congrArg _ (pageWindow_of_get hop hen),
      fun hop hen => ⟨_, congrArg Host.Outcome.next (appendWindow_of_put hop hen), rfl, fun hok => ?_⟩,
      fun h => congrArg _ (pageWindow_fenced h), fun h => congrArg _ (appendWindow_fenced h)⟩
    dsimp only
    rw [hok]
    exact noteMasked_ok _ _ _ _
  case reports =>
    intro s1 t hsite hberth
    have hsource : bankSource s1 r = t.crcAt := bankSource_of_siteOf hsite
    refine ⟨?source, ?hardware, ?cleared, ?failed, ?staged, ?unstaged, ?chart⟩
    case source =>
      rintro rfl hvalid hclass
      exact congrArg _ (reportTile_of_source hsite hberth hvalid hclass)
    case hardware =>
      rintro rfl hvalid hclass
      exact congrArg _ (reportTile_of_hardware hsite hberth hvalid hclass)
    case cleared =>
      rintro rfl hvalid
      exact congrArg _ (reportTile_of_cleared hsite hvalid)
    case failed =>
      rintro tag st rfl hmask
      have hserve : s1.serve = s.serve := countFlits_serve _ _ _ _
      exact congrArg _ (reportFailed_of_unmasked hberth (hserve ▸ hmask))
    case staged =>
      rintro ch a rfl ha hstaged
      have hcount := countBank_of_staged (hsource.trans ha) (ha ▸ hstaged) ch.toNat
      refine congrArg _ ((reportBank_of_berth hberth ch.toNat).trans ?_)
      rw [hcount, hsource, if_pos hstaged]
    case unstaged =>
      rintro ch rfl hstaged
      refine congrArg _ ((reportBank_of_berth hberth ch.toNat).trans ?_)
      rw [countBank_of_unstaged (hsource ▸ hstaged), hsource, if_neg (by rw [hstaged]; decide)]
    case chart =>
      rintro k rfl
      rfl

end Sys2Proof.Claims
end

section
/-!
PROOFS. The chart commands of the ring: what each answers, by the branch that it takes (R231 to R236, Tables 9.7, 9.8).
-/

namespace Sys2Proof.Claims

open Sys2Proof Sys2Proof.Machine

/-- Settles O18: each command is run by `runChart`, of which `chartRuns` says what the ring does with any operation. -/
theorem chartRingCommands : Obligations.ChartRingCommands := by
  unfold Obligations.ChartRingCommands
  intro s a
  exact ⟨chartRuns s a (openChart a), chartRuns s a (mapChart a), chartRuns s a (forkChart a),
    chartRuns s a (allocChart a), chartRuns s a (cowChart a), chartRuns s a (advChart a), chartRuns s a (freeChart a),
    chartRuns s a (pinChart true a), chartRuns s a (pinChart false a), chartRuns s a (lookupChart a),
    chartRuns s a (insertRing a), chartRuns s a (evictChart a)⟩

/-! ### The ring completes a command that answers OK (R231) -/

/-- A command that is refused leaves the machine, and answers its code, DEPTH 0 and NODE 0. -/
theorem chtFail_answer {d : ChtDone} {s : State} {e : ChtCode} (h : d = chtFail s e) :
    d.st = s ∧ d.code = e ∧ d.depth = 0 ∧ d.node = 0 := by
  subst h
  exact ⟨rfl, rfl, rfl, rfl⟩

/-- The ring completes what its operation answers. -/
theorem chartCompletes_of_ok {s : State} {a : ChartArgs} {f : State → Nat → ChtDone} {d : ChtDone}
    (hf : f s a.stack.toNat = d) (hcode : d.code = .ok) : ChartCompletes s a d (.next (runChart s a f)) := by
  unfold ChartCompletes
  intro k place hready hreserved
  refine ⟨hcode, ?_⟩
  unfold runChart
  rw [if_pos hready]
  unfold runRing
  rw [if_neg (by rw [hreserved]; decide), hf]
  dsimp only
  rw [hcode, show chtCodeNo .ok = 0 from rfl, Nat.zero_add]
  rfl

/-! ### Parts of the state that the walkers' steps leave -/

/-- A stack replaced by one that agrees with it in a field reads the same there, whether or not the machine has it. -/
theorem stkOf_putStk_field {α : Type} (g : StackSt → α) {s : State} {k : Nat} {v : StackSt} {x : α} (hv : g v = x)
    (hs : g (stkOf s k) = x) : g (stkOf (putStk s k v) k) = x := by
  by_cases hk : k < s.stk.length
  · rw [stkOf_putStk s k v hk, hv]
  · have hsame : putStk s k v = s := by
      unfold putStk
      rw [List.set_eq_of_length_le (Nat.le_of_not_lt hk)]
    rw [hsame, hs]

theorem seeEntry_stk (s : State) (k c : Nat) (e : Ple) : (seeEntry s k c e).stk = s.stk :=
  (seeEntry_frame s k c e (Frame.refl [.regs, .reports] s) rfl).stk.resolve_left (by decide)

theorem pinUp_stk {s s1 : State} {k f gen : Nat} (h : pinUp s k f gen = some s1) : s1.stk = s.stk :=
  (pinUp_frame s k f gen (Frame.refl [.dram] s) rfl s1 h).stk.resolve_left (by decide)

theorem releaseFrame_helmPins (s : State) (k f : Nat) :
    (stkOf (releaseFrame s k f) k).helmPins = (stkOf s k).helmPins := by
  unfold releaseFrame
  dsimp only
  split
  · rfl
  · split
    · exact stkOf_putStk_field StackSt.helmPins rfl rfl
    · exact stkOf_putStk_field StackSt.helmPins rfl rfl

theorem pinDown_helmPins (s : State) (k f : Nat) : (stkOf (pinDown s k f) k).helmPins = (stkOf s k).helmPins := by
  unfold pinDown casDesc
  dsimp only
  split
  · exact releaseFrame_helmPins _ k f
  · rfl

theorem stkOf_putPle_frames (s : State) (k c : Nat) (r : Root) (l p : Nat) (e : Ple) :
    (stkOf (putPle s k c r l p e) k).frames = (stkOf s k).frames :=
  stkOf_putStk_field StackSt.frames rfl rfl

/-! ### Entries that the walkers read (R225) -/

/-- An entry in use that is not stale and whose descriptor is its frame's is read without a fault. -/
theorem seeEntry_of_sound {s : State} {k : Nat} {e : Ple} (hstale : pleStale s k e = false)
    (hdesc : bitsOf (desc0 s k e.frame) 0 24 = e.frame) (c : Nat) : seeEntry s k c e = s := by
  unfold seeEntry
  rw [if_neg (by rw [hstale]; decide), if_neg fun h => h.2 hdesc]

/-! ### OPEN (R231, R233) -/

/-- OPEN within its bounds. -/
theorem openChart_of_bounds {a : ChartArgs}
    (h : chtCount a % 256 ≤ 128 ∧ 0 < a.arg1.toNat ∧ a.arg1.toNat ≤ 256 ∧ a.arg0.toNat % 64 = 0 ∧ a.arg0.toNat < 2 ^ 40)
    (s : State) (k : Nat) :
    openChart a s k =
      chtOk (cwrite (putRoot (unmapChart s k (chtContext a)) k (chtContext a)
        ⟨a.arg0.toNat, chtCount a % 256, a.arg1.toNat, 0⟩) k a.arg0.toNat
        (List.replicate (8 * (chtCount a % 256 * a.arg1.toNat)) 0)) := by
  unfold openChart
  exact if_neg (by dsimp only; omega)

/-- OPEN beyond its bounds. -/
theorem openChart_of_outside {a : ChartArgs}
    (h : 128 < chtCount a % 256 ∨ a.arg1.toNat = 0 ∨ 256 < a.arg1.toNat ∨ a.arg0.toNat % 64 ≠ 0 ∨ 2 ^ 40 ≤ a.arg0.toNat)
    (s : State) (k : Nat) : openChart a s k = chtFail s .range := if_pos h

/-- A chart without layers or without pages has no places. -/
theorem chartPlaces_of_empty {r : Root} (h : r.layers = 0 ∨ r.ppl = 0) : chartPlaces r = [] := by
  unfold chartPlaces
  rcases h with h | h <;> simp [h]

/-- A context without a chart has no mapping to drop. -/
theorem unmapChart_of_empty {s : State} {k c : Nat} (h : (rootOf s k c).layers = 0 ∨ (rootOf s k c).ppl = 0) :
    unmapChart s k c = putStk s k { stkOf s k with cache := (stkOf s k).cache.filter fun x => x.context != c } := by
  unfold unmapChart
  dsimp only
  rw [chartPlaces_of_empty h]
  rfl

/-- What OPEN within its bounds leaves of the machine: the page list is cleared, and where the context had no chart no
register changes and nothing is reported. -/
theorem openChart_result {a : ChartArgs}
    (h : chtCount a % 256 ≤ 128 ∧ 0 < a.arg1.toNat ∧ a.arg1.toNat ≤ 256 ∧ a.arg0.toNat % 64 = 0 ∧ a.arg0.toNat < 2 ^ 40)
    (s : State) (k : Nat) :
    (openChart a s k).code = .ok
    ∧ cread (openChart a s k).st k a.arg0.toNat (8 * (chtCount a % 256 * a.arg1.toNat))
        = List.replicate (8 * (chtCount a % 256 * a.arg1.toNat)) 0
    ∧ changesOnly [.regs, .dram, .reports, .stk] s (openChart a s k).st
    ∧ ((rootOf s k (chtContext a)).layers = 0 ∨ (rootOf s k (chtContext a)).ppl = 0 →
        changesOnly [.dram, .stk] s (openChart a s k).st) := by
  refine ⟨?_, ?_, only_of_frame (openChart_frame a s k (Frame.refl [.regs, .dram, .reports, .stk] s) rfl), fun hempty => ?_⟩
  · rw [openChart_of_bounds h]
    rfl
  · rw [openChart_of_bounds h]
    have hread := fun t => cread_cwrite t k a.arg0.toNat
      (List.replicate (8 * (chtCount a % 256 * a.arg1.toNat)) (0 : Byte))
    rw [List.length_replicate] at hread
    exact hread _
  · rw [openChart_of_bounds h, unmapChart_of_empty hempty]
    refine only_of_frame (m := [.dram, .stk]) (cwrite_frame _ k _ _ (putRoot_frame _ k _ _ ?_ rfl) rfl)
    exact putStk_frame _ _ _ (Frame.refl _ _) rfl

/-! ### MAP and FORK (R231, R233) -/

theorem mapChart_of_tokens {s : State} {a : ChartArgs} {k : Nat} (h : (rootOf s k (chtContext a)).toks ≠ 0) :
    mapChart a s k = chtFail s .range := if_pos h

theorem mapChart_of_unpublished {s : State} {a : ChartArgs} {k : Nat} (htoks : (rootOf s k (chtContext a)).toks = 0)
    (h : nodeState s k a.arg0.toNat ≠ 2) : mapChart a s k = chtFail s .stale := by
  have hchain : nodeChain s k 256 a.arg0.toNat = none := if_pos h
  unfold mapChart
  dsimp only
  rw [if_neg (not_not.mpr htoks), hchain]

/-- MAP of a chain of nodes that fits, every mapping of which passes its GEN check. -/
theorem mapChart_of_chain {s s1 : State} {a : ChartArgs} {k : Nat} {l : List Nat}
    (htoks : (rootOf s k (chtContext a)).toks = 0) (hchain : nodeChain s k 256 a.arg0.toNat = some l)
    (hlen : l.length ≤ (rootOf s k (chtContext a)).ppl)
    (hmaps : l.foldl (mapNode k (chtContext a) (rootOf s k (chtContext a))) (some s) = some s1) :
    mapChart a s k = chtOk (putRoot s1 k (chtContext a) { rootOf s k (chtContext a) with toks := 64 * l.length }) := by
  unfold mapChart
  dsimp only
  rw [if_neg (not_not.mpr htoks), hchain]
  dsimp only
  rw [if_neg hlen.not_gt, hmaps]

theorem forkChart_of_beyond {a : ChartArgs} (h : 16384 ≤ a.arg0.toNat) (s : State) (k : Nat) :
    forkChart a s k = chtFail s .range := if_pos (.inl h)

/-- FORK of a chart of the same shape, every mapping of which passes its GEN check. -/
theorem forkChart_of_maps {s s1 : State} {a : ChartArgs} {k : Nat} (hsrc : a.arg0.toNat < 16384)
    (hlayers : (rootOf s k (chtContext a)).layers = (rootOf s k a.arg0.toNat).layers)
    (hppl : (rootOf s k (chtContext a)).ppl = (rootOf s k a.arg0.toNat).ppl)
    (hmaps : (chartPlaces (rootOf s k a.arg0.toNat)).foldl
      (forkEntry k (chtContext a) (rootOf s k a.arg0.toNat) (rootOf s k (chtContext a))) (some s) = some s1) :
    forkChart a s k =
      chtOk (putRoot s1 k (chtContext a) { rootOf s k (chtContext a) with toks := (rootOf s k a.arg0.toNat).toks }) := by
  unfold forkChart
  dsimp only
  rw [Nat.mod_eq_of_lt hsrc, if_neg (by simp [hlayers, hppl, hsrc]), hmaps]

/-! ### ALLOC (R231, R234) -/

theorem allocChart_of_beyond {s : State} {a : ChartArgs} {k : Nat} (h : (rootOf s k (chtContext a)).ppl ≤ chtPage a) :
    allocChart a s k = chtFail s .range := if_pos h

/-- The frame allocated is the free list's first. -/
theorem allocFrame_of_free {s : State} {k f : Nat} {rest : List Nat} (h : (stkOf s k).frames = f :: rest) (l : Nat) :
    ∃ s1 gen, allocFrame s k l = some (s1, f, gen) ∧ (stkOf s1 k).frames = rest := by
  have hk : k < s.stk.length := by
    by_contra hk
    rw [stkOf, List.getD_eq_default _ _ (Nat.le_of_not_lt hk)] at h
    exact List.cons_ne_nil _ _ h.symm
  unfold allocFrame
  dsimp only
  rw [h]
  refine ⟨_, _, rfl, ?_⟩
  have hput := fun v => congrArg StackSt.frames (stkOf_putStk s k v hk)
  split
  · exact hput _
  · exact hput _

/-- With a frame free, a layer of ALLOC takes at most one, the first. -/
theorem allocLayer_of_free {k c p : Nat} {r : Root} {q : State × List (Nat × Nat) × Bool} (hgoes : q.2.2 = false)
    (hfree : (stkOf q.1 k).frames ≠ []) (l : Nat) :
    (allocLayer k c r p q l).2.2 = false
    ∧ ∃ n, n ≤ 1 ∧ (stkOf (allocLayer k c r p q l).1 k).frames = (stkOf q.1 k).frames.drop n := by
  unfold allocLayer
  dsimp only
  rw [if_neg (by rw [hgoes]; decide)]
  split
  · refine ⟨hgoes, 0, Nat.zero_le 1, ?_⟩
    exact congrArg StackSt.frames (stkOf_congr q.1 _ (seeEntry_stk q.1 k c _) k)
  · obtain ⟨f, rest, hframes⟩ := List.exists_cons_of_ne_nil hfree
    obtain ⟨s1, gen, halloc, hrest⟩ := allocFrame_of_free hframes l
    rw [halloc, hframes]
    exact ⟨rfl, 1, Nat.le_refl 1, (stkOf_putPle_frames s1 k c r l p _).trans hrest⟩

/-- With a frame free for each of some layers, ALLOC in them takes at most one a layer. -/
theorem allocLayers_of_free {k c p : Nat} {r : Root} (ls : List Nat) (q : State × List (Nat × Nat) × Bool)
    (hgoes : q.2.2 = false) (hfree : ls.length ≤ (stkOf q.1 k).frames.length) :
    (ls.foldl (allocLayer k c r p) q).2.2 = false
    ∧ ∃ n, n ≤ ls.length ∧ (stkOf (ls.foldl (allocLayer k c r p) q).1 k).frames = (stkOf q.1 k).frames.drop n := by
  induction ls generalizing q with
  | nil => exact ⟨hgoes, 0, Nat.le_refl 0, rfl⟩
  | cons l ls ih =>
    rw [List.length_cons] at hfree
    obtain ⟨hgoes1, n, hn, hframes⟩ := allocLayer_of_free (c := c) (p := p) (r := r) hgoes
      (List.ne_nil_of_length_pos (Nat.lt_of_lt_of_le (Nat.succ_pos _) hfree)) l
    obtain ⟨hgoes2, m, hm, hframes2⟩ := ih (allocLayer k c r p q l) hgoes1
      (by rw [hframes, List.length_drop]; omega)
    refine ⟨hgoes2, n + m, by rw [List.length_cons]; omega, ?_⟩
    rw [List.foldl_cons, hframes2, hframes, List.drop_drop]

/-- ALLOC with a free frame for every layer. -/
theorem allocChart_of_free {s : State} {a : ChartArgs} {k : Nat} (hpage : chtPage a < (rootOf s k (chtContext a)).ppl)
    (hfree : (rootOf s k (chtContext a)).layers ≤ (stkOf s k).frames.length) :
    (allocChart a s k).code = .ok
    ∧ ∃ n, n ≤ (rootOf s k (chtContext a)).layers
      ∧ (stkOf (allocChart a s k).st k).frames = (stkOf s k).frames.drop n := by
  obtain ⟨hgoes, n, hn, hframes⟩ := allocLayers_of_free (c := chtContext a) (p := chtPage a)
    (r := rootOf s k (chtContext a)) (List.range (rootOf s k (chtContext a)).layers) (s, [], false) rfl
    (by rw [List.length_range]; exact hfree)
  rw [List.length_range] at hn
  unfold allocChart
  dsimp only
  rw [if_neg hpage.not_ge, if_neg (by rw [hgoes]; decide)]
  exact ⟨rfl, n, hn, hframes⟩

/-! ### COW (R235) -/

theorem cowChart_of_beyond {s : State} {a : ChartArgs} {k : Nat} (h : (rootOf s k (chtContext a)).ppl ≤ chtPage a) :
    cowChart a s k = chtFail s .range := if_pos h

/-- COW of a page that all its layers pass. -/
theorem cowChart_of_layers {s s1 : State} {a : ChartArgs} {k : Nat} (hpage : chtPage a < (rootOf s k (chtContext a)).ppl)
    (hlayers : (List.range (rootOf s k (chtContext a)).layers).foldl
      (cowLayer k (chtContext a) (rootOf s k (chtContext a)) (chtPage a)) (s, .ok) = (s1, .ok)) :
    cowChart a s k = chtOk s1 := by
  unfold cowChart
  dsimp only
  rw [if_neg hpage.not_ge, hlayers]
  exact if_neg ChtCode.noConfusion

/-- The entry, if it is in use, maps a sound frame that nothing else refers to. -/
def SoleEntry (s : State) (k : Nat) (e : Ple) : Prop :=
  e.v = true → pleStale s k e = false ∧ bitsOf (desc0 s k e.frame) 0 24 = e.frame
    ∧ descRef (desc1 s k e.frame) = 1 ∧ descPub (desc1 s k e.frame) = false

theorem cowLayer_of_sole {s : State} {k p l : Nat} {r : Root} (h : SoleEntry s k (getPle s k r l p)) (c : Nat) :
    cowLayer k c r p (s, .ok) l = (s, .ok) := by
  unfold cowLayer
  dsimp only
  by_cases hv : (getPle s k r l p).v = true
  · obtain ⟨hstale, hdesc, href, hpub⟩ := h hv
    rw [seeEntry_of_sound hstale hdesc, if_neg (by simp [hv]), if_neg (by rw [hstale]; decide),
      if_pos (by simp [href, hpub])]
  · exact if_pos (.inr (by simp [hv]))

/-- COW of a page whose frames nothing else refers to changes nothing. -/
theorem cowChart_of_sole {s : State} {a : ChartArgs} {k : Nat} (hpage : chtPage a < (rootOf s k (chtContext a)).ppl)
    (h : ∀ l, l < (rootOf s k (chtContext a)).layers →
      SoleEntry s k (getPle s k (rootOf s k (chtContext a)) l (chtPage a))) :
    cowChart a s k = chtOk s := by
  refine cowChart_of_layers hpage ?_
  refine List.foldlRecOn (motive := fun q => q = (s, ChtCode.ok)) (List.range _) _ rfl fun q hq l hl => ?_
  rw [hq]
  exact cowLayer_of_sole (h l (List.mem_range.mp hl)) _

/-! ### ADV and FREE (R231) -/

theorem advChart_of_beyond {s : State} {a : ChartArgs} {k : Nat}
    (h : 16384 < (rootOf s k (chtContext a)).toks + chtCount a
      ∨ 64 * (rootOf s k (chtContext a)).ppl < (rootOf s k (chtContext a)).toks + chtCount a) :
    advChart a s k = chtFail s .range := if_pos h

/-- VALID of the frame of layer `l` at page `p` raised to the positions that `toks` tokens of context `c` fill there. -/
def advEntry (k c : Nat) (r : Root) (toks p : Nat) (s : State) (l : Nat) : State :=
  let e := getPle s k r l p
  if e.v ∧ !pleStale s k e then
    putDesc1 (seeEntry s k c e) k e.frame
      (putBits (desc1 s k e.frame) 48 7 (max (descValid (desc1 s k e.frame)) (min 64 (toks - 64 * p))))
  else seeEntry s k c e

/-- The pages that the positions from TOKENS of `r` up to `toks` touch. -/
def advPages (r : Root) (toks : Nat) : List Nat :=
  (List.range r.ppl).filter fun p => decide (r.toks < 64 * (p + 1)) && decide (64 * p < toks)

/-- VALID raised so in every layer of the pages touched. -/
def advEntries (k c : Nat) (r : Root) (toks : Nat) (s : State) : State :=
  (advPages r toks).foldl (fun s p => (List.range r.layers).foldl (advEntry k c r toks p) s) s

/-- ADV within the chart. -/
theorem advChart_of_room {s : State} {a : ChartArgs} {k : Nat}
    (hmax : (rootOf s k (chtContext a)).toks + chtCount a ≤ 16384)
    (hppl : (rootOf s k (chtContext a)).toks + chtCount a ≤ 64 * (rootOf s k (chtContext a)).ppl) :
    advChart a s k =
      (let r := rootOf s k (chtContext a)
      chtOk (putRoot (advEntries k (chtContext a) r (r.toks + chtCount a) s) k (chtContext a)
        { r with toks := r.toks + chtCount a })) :=
  if_neg (not_or.mpr ⟨hmax.not_gt, hppl.not_gt⟩)

theorem advEntry_frame {s0 s : State} (h : Machine.Frame [.regs, .dram, .reports] s0 s) (k c : Nat) (r : Root) (toks p l : Nat) :
    Machine.Frame [.regs, .dram, .reports] s0 (advEntry k c r toks p s l) := by
  have hsee := seeEntry_frame s k c (getPle s k r l p) h rfl
  exact Frame.ite (putDesc1_frame _ k _ _ hsee rfl) hsee

theorem advEntries_only (k c : Nat) (r : Root) (toks : Nat) (s : State) :
    changesOnly [.regs, .dram, .reports] s (advEntries k c r toks s) := by
  refine only_of_frame (m := [.regs, .dram, .reports]) (Frame.foldl _ _ (fun s1 p h1 => ?_) (Frame.refl _ s))
  exact Frame.foldl _ _ (fun s2 l h2 => advEntry_frame h2 k c r toks p l) h1

/-! ### PIN and UNPIN (R236) -/

theorem pinChart_of_beyond {s : State} {a : ChartArgs} {k : Nat} (h : (rootOf s k (chtContext a)).ppl ≤ chtPage a)
    (up : Bool) : pinChart up a s k = chtFail s .range := if_pos (.inl h)

/-- PIN (`up`) or UNPIN in layer `l` of page `p` of context `c`; none when a GEN check fails. -/
def pinLayer (up : Bool) (k c : Nat) (r : Root) (p : Nat) (q : Option State) (l : Nat) : Option State :=
  match q with
  | none => none
  | some s =>
    let e := getPle s k r l p
    if !e.v then some s
    else if up then (pinUp s k e.frame e.gen).map fun s1 => seeEntry s1 k c e
    else if pleStale s k e then some (seeEntry s k c e)
    else some (pinDown (seeEntry s k c e) k e.frame)

/-- PIN and UNPIN where every layer's GEN check passes. -/
theorem pinChart_of_layers {up : Bool} {s s1 : State} {a : ChartArgs} {k : Nat}
    (hpage : chtPage a < (rootOf s k (chtContext a)).ppl) (hroom : up = true → (stkOf s k).helmPins < 1024)
    (hlayers : (List.range (rootOf s k (chtContext a)).layers).foldl
      (pinLayer up k (chtContext a) (rootOf s k (chtContext a)) (chtPage a)) (some s) = some s1) :
    pinChart up a s k =
      chtOk (putStk s1 k { stkOf s1 k with
        helmPins := if up then (stkOf s1 k).helmPins + 1 else (stkOf s1 k).helmPins - 1 }) := by
  have hwithin : ¬ ((rootOf s k (chtContext a)).ppl ≤ chtPage a ∨ (up ∧ 1024 ≤ (stkOf s k).helmPins)) :=
    not_or.mpr ⟨hpage.not_ge, fun h => h.2.not_gt (hroom h.1)⟩
  have hfold : pinChart up a s k =
      if (rootOf s k (chtContext a)).ppl ≤ chtPage a ∨ (up ∧ 1024 ≤ (stkOf s k).helmPins) then chtFail s .range
      else match (List.range (rootOf s k (chtContext a)).layers).foldl
          (pinLayer up k (chtContext a) (rootOf s k (chtContext a)) (chtPage a)) (some s) with
        | none => chtStale s k (chtContext a) (rootOf s k (chtContext a))
            (pagePlaces (rootOf s k (chtContext a)) (chtPage a))
        | some s1 => chtOk (putStk s1 k { stkOf s1 k with
            helmPins := if up then (stkOf s1 k).helmPins + 1 else (stkOf s1 k).helmPins - 1 }) := rfl
  rw [hfold, if_neg hwithin, hlayers]

theorem pinLayer_of_unmapped {s : State} {k : Nat} {r : Root} {l p : Nat} (h : (getPle s k r l p).v = false)
    (up : Bool) (c : Nat) : pinLayer up k c r p (some s) l = some s := if_pos (by rw [h]; rfl)

/-- A page that no layer maps is pinned and unpinned in none. -/
theorem pinLayers_of_unmapped {s : State} {k : Nat} {r : Root} {p : Nat}
    (h : ∀ l, l < r.layers → (getPle s k r l p).v = false) (up : Bool) (c : Nat) :
    (List.range r.layers).foldl (pinLayer up k c r p) (some s) = some s := by
  refine List.foldlRecOn (motive := fun q => q = some s) _ _ rfl fun q hq l hl => ?_
  rw [hq]
  exact pinLayer_of_unmapped (h l (List.mem_range.mp hl)) up c

/-- PIN of a layer that maps the page. -/
theorem pinLayer_up {s s1 : State} {k : Nat} {r : Root} {l p : Nat} (hv : (getPle s k r l p).v = true)
    (hpin : pinUp s k (getPle s k r l p).frame (getPle s k r l p).gen = some s1) (c : Nat) :
    pinLayer true k c r p (some s) l = some (seeEntry s1 k c (getPle s k r l p)) := by
  unfold pinLayer
  dsimp only
  rw [if_neg (by simp [hv]), if_pos rfl, hpin]
  rfl

/-- UNPIN of a layer that maps the page by an entry that is not stale. -/
theorem pinLayer_down {s : State} {k : Nat} {r : Root} {l p : Nat} (hv : (getPle s k r l p).v = true)
    (hstale : pleStale s k (getPle s k r l p) = false) (c : Nat) :
    pinLayer false k c r p (some s) l
      = some (pinDown (seeEntry s k c (getPle s k r l p)) k (getPle s k r l p).frame) := by
  unfold pinLayer
  dsimp only
  rw [if_neg (by simp [hv]), if_neg Bool.false_ne_true, if_neg (by rw [hstale]; decide)]

theorem pinLayers_of_one {r : Root} (h : r.layers = 1) (up : Bool) (k c p : Nat) (q : Option State) :
    (List.range r.layers).foldl (pinLayer up k c r p) q = pinLayer up k c r p q 0 := by
  rw [h]
  rfl

/-! ### The chart commands complete -/

theorem chartsComplete (s : State) (a : ChartArgs) : ChartsComplete s a := by
  unfold ChartsComplete
  intro k c r p pins
  refine ⟨fun l s1 htoks hchain hlen hmaps => ?map, ?fork, fun hpage hfree => ?alloc, fun hpage hsole => ?cowSole,
    fun s1 hpage hlayers => ?cow, fun hpage hunmapped => ⟨fun hroom => ?pinNone, ?unpinNone⟩,
    fun hpage hone hv => ⟨fun s1 hroom hpin => ?pinOne, fun hstale => ?unpinOne⟩⟩
  case map => exact chartCompletes_of_ok (mapChart_of_chain htoks hchain hlen hmaps) rfl
  case fork =>
    intro s1 src hsrc hlayers hppl hmaps
    exact chartCompletes_of_ok (forkChart_of_maps hsrc hlayers hppl hmaps) rfl
  case alloc =>
    obtain ⟨hcode, hframes⟩ := allocChart_of_free hpage hfree
    exact ⟨chartCompletes_of_ok rfl hcode, hframes⟩
  case cowSole => exact chartCompletes_of_ok (cowChart_of_sole hpage hsole) rfl
  case cow => exact chartCompletes_of_ok (cowChart_of_layers hpage hlayers) rfl
  case pinNone =>
    exact chartCompletes_of_ok
      (pinChart_of_layers hpage (fun _ => hroom) (pinLayers_of_unmapped hunmapped true c)) rfl
  case unpinNone =>
    exact chartCompletes_of_ok
      (pinChart_of_layers hpage Bool.noConfusion (pinLayers_of_unmapped hunmapped false c)) rfl
  case pinOne =>
    have hcount : (stkOf (seeEntry s1 k c (getPle s k r 0 p)) k).helmPins = (stkOf s k).helmPins :=
      congrArg StackSt.helmPins (stkOf_congr s _ ((seeEntry_stk s1 k c _).trans (pinUp_stk hpin)) k)
    have hdone := pinChart_of_layers hpage (fun _ => hroom)
      ((pinLayers_of_one hone true k c p (some s)).trans (pinLayer_up hv hpin c))
    rw [hcount] at hdone
    exact chartCompletes_of_ok hdone rfl
  case unpinOne =>
    intro s1
    have hcount : (stkOf s1 k).helmPins = (stkOf s k).helmPins :=
      (pinDown_helmPins _ k _).trans (congrArg StackSt.helmPins (stkOf_congr s _ (seeEntry_stk s k c _) k))
    have hdone := pinChart_of_layers hpage Bool.noConfusion
      ((pinLayers_of_one hone false k c p (some s)).trans (pinLayer_down hv hstale c))
    rw [hcount] at hdone
    exact chartCompletes_of_ok hdone rfl

end Sys2Proof.Claims
end

section
/-!
PROOFS. The Rutter commands of the ring (R240 to R242), and the results of all of them (Tables 9.7, 9.8).
-/

namespace Sys2Proof.Claims

open Sys2Proof Sys2Proof.Machine

/-! ### Without a Rutter -/

theorem lookupChart_norutter {s : State} {k : Nat} (h : rutterOn s k = false) (a : ChartArgs) :
    lookupChart a s k = chtFail s .norutter := by
  unfold lookupChart lookupToks
  rw [if_neg (by simp [h]), if_pos (by rw [h]; rfl)]

theorem insertChart_norutter {s : State} {k : Nat} (h : rutterOn s k = false) (a : ChartArgs) :
    insertChart a s k = chtFail s .norutter := if_pos (by rw [h]; rfl)

theorem evictChart_norutter {s : State} {k : Nat} (h : rutterOn s k = false) (a : ChartArgs) :
    evictChart a s k = chtFail s .norutter := if_pos (by rw [h]; rfl)

/-! ### LOOKUP (R240) -/

theorem lookupChart_of_beyond {s : State} {k : Nat} {a : ChartArgs} (hon : rutterOn s k = true) (h : 256 < chtCount a) :
    lookupChart a s k = chtFail s .range := if_pos ⟨hon, h⟩

/-- LOOKUP of at most 256 blocks answers what its walk over them finds. -/
theorem lookupChart_of_blocks {s : State} {k : Nat} {a : ChartArgs} (hon : rutterOn s k = true) (h : chtCount a ≤ 256) :
    lookupChart a s k =
      (let q := lookupBlocks k a.arg1
        ((List.range (chtCount a)).map fun i => wordsOf (dread s k (a.arg0.toNat + 256 * i) 256))
        (rbump s k RUT_LOOKUPS) a.arg1 0 0
      ⟨q.1, .ok, q.2.1, q.2.2⟩) := by
  unfold lookupChart lookupToks
  rw [if_neg fun hbeyond => hbeyond.2.not_ge h, if_neg (by rw [hon]; decide)]

/-- LOOKUP of no block finds nothing. -/
theorem lookupChart_of_none {s : State} {k : Nat} {a : ChartArgs} (hon : rutterOn s k = true) (h : chtCount a = 0) :
    lookupChart a s k = ⟨rbump s k RUT_LOOKUPS, .ok, 0, 0⟩ := by
  rw [lookupChart_of_blocks hon (by omega), h]
  rfl

/-! ### INSERT (R241) -/

/-- INSERT of a block whose positions are committed, under a published parent, where no node holds it and its bucket has a
free place. -/
theorem insertBlock_of_free {s s1 s2 : State} {k c j above parent x i : Nat} {root h : Dword} {toks : List Nat}
    (hon : rutterOn s k = true) (hcommitted : 64 * (j + 1) ≤ (rootOf s k c).toks) (hpage : j < (rootOf s k c).ppl)
    (hparent : parent = if j = 0 then 0 else above) (hpub : j = 0 ∨ nodeState s k parent = 2)
    (hhash : h = blockHash (if j = 0 then root else BitVec.ofNat 64 (nodeHash s k parent)) toks)
    (hfind : findNode s k h root parent j toks = (s1, none))
    (hplace : (List.range 8).find? (fun i => cword s1 k (bucketAt s1 k h + 8 * i) == 0) = some i)
    (hwrite : writeNode s1 k (rootOf s k c) (bucketAt s1 k h + 8 * i) h root parent j toks = some (s2, x)) :
    insertBlock s k c j root above toks = ⟨rbump s2 k RUT_INSERTS, .ok, 0, x⟩ := by
  have hwithin : ¬ ((rootOf s k c).toks < 64 * (j + 1) ∨ (rootOf s k c).ppl ≤ j
      ∨ (j ≠ 0 ∧ nodeState s k parent ≠ 2)) := by
    rintro (hshort | hbeyond | ⟨hdepth, hstate⟩)
    · exact hcommitted.not_gt hshort
    · exact hpage.not_ge hbeyond
    · exact hpub.elim hdepth hstate
  unfold insertBlock
  dsimp only
  rw [← hparent, ← hhash, if_neg (by rw [hon]; decide), if_neg hwithin, hfind]
  dsimp only
  rw [hplace]
  dsimp only
  rw [hwrite]

/-! ### EVICT (R242) -/

theorem evictChart_of_inuse {s : State} {k : Nat} {a : ChartArgs} (hon : rutterOn s k = true)
    (h : nodeChildren s k a.arg0.toNat ≠ 0 ∨ nodeState s k a.arg0.toNat ≠ 2) : evictChart a s k = chtFail s .inuse := by
  unfold evictChart
  rw [if_neg (by rw [hon]; decide), if_pos h]

theorem evictChart_of_leaf {s : State} {k : Nat} {a : ChartArgs} (hon : rutterOn s k = true)
    (hleaf : nodeChildren s k a.arg0.toNat = 0) (hpub : nodeState s k a.arg0.toNat = 2) :
    evictChart a s k = chtOk (evictNode (freeForms s k a.arg0.toNat) k a.arg0.toNat) := by
  unfold evictChart
  rw [if_neg (by rw [hon]; decide), if_neg (not_or.mpr ⟨not_not.mpr hleaf, not_not.mpr hpub⟩)]

/-! ### The Rutter commands complete, and the results of all commands -/

theorem rutterCompletes (s : State) (a : ChartArgs) : RutterCompletes s a := by
  unfold RutterCompletes
  intro k c r j parent toks h eligible hon
  refine ⟨fun hcount => ?lookup, fun hcount => ?lookupNone, fun hcommitted hpage hpub s1 i s2 x hfind hplace hwrite => ?insert,
    fun hleaf hstate => ?evict⟩
  case lookup => exact chartCompletes_of_ok (lookupChart_of_blocks hon hcount) rfl
  case lookupNone => exact chartCompletes_of_ok (lookupChart_of_none hon hcount) rfl
  case insert =>
    have hinsert : insertChart a s k = ⟨rbump s2 k RUT_INSERTS, .ok, 0, x⟩ :=
      insertBlock_of_free hon hcommitted hpage rfl hpub rfl hfind hplace hwrite
    refine chartCompletes_of_ok (f := insertRing a) ?_ rfl
    unfold insertRing
    rw [hinsert]
    rfl
  case evict => exact chartCompletes_of_ok (evictChart_of_leaf hon hleaf hstate) rfl

/-- Settles O19: each clause is the lemma of its command's branch; a refused command is `chtFail`, which changes nothing. -/
theorem chartCommandResults : Obligations.ChartCommandResults := by
  unfold Obligations.ChartCommandResults
  intro s a k c r failed
  refine ⟨⟨fun h => openChart_result h s k, fun h => chtFail_answer (openChart_of_outside h s k)⟩,
    fun h => chtFail_answer (mapChart_of_tokens h), fun htoks h => chtFail_answer (mapChart_of_unpublished htoks h),
    fun h => chtFail_answer (forkChart_of_beyond h s k), fun h => ?page, fun h => chtFail_answer (advChart_of_beyond h),
    fun hmax hppl => ?adv, rfl, fun h => ?norutter, fun hon h => chtFail_answer (lookupChart_of_beyond hon h),
    fun hon h => chtFail_answer (evictChart_of_inuse hon h), chartsComplete s a, rutterCompletes s a⟩
  case page =>
    exact ⟨chtFail_answer (allocChart_of_beyond h), chtFail_answer (cowChart_of_beyond h),
      chtFail_answer (pinChart_of_beyond h true), chtFail_answer (pinChart_of_beyond h false)⟩
  case adv =>
    rw [advChart_of_room hmax hppl]
    exact ⟨rfl, _, advEntries_only k c r (r.toks + chtCount a) s, rfl⟩
  case norutter =>
    exact ⟨chtFail_answer (lookupChart_norutter h a), chtFail_answer (insertChart_norutter h a),
      chtFail_answer (evictChart_norutter h a)⟩

end Sys2Proof.Claims
end

section
/-!
PROOFS. Descriptors of the companion's lines (R250, R251), SUBMIT and CANCEL (R252, R262).
-/

namespace Sys2Proof.Claims

open Sys2Proof Sys2Proof.Machine

/-! ### A new descriptor runs as its KIND says (R250) -/

theorem execSubmit_of_new {s : State} {l : Line} (h : newLine s l = true) (hkind : dKind l = 1) (toks : List Word) :
    exec (.submit l toks) s = .next (submitJob l toks (observed s l)) :=
  congrArg Host.Outcome.next ((descriptor_new s l toks h).trans (by rw [hkind]; rfl))

theorem execCancel_of_new {s : State} {l : Line} (h : newLine s l = true) (hkind : dKind l = 2) :
    exec (.cancel l) s = .next (cancelJob l (observed s l)) :=
  congrArg Host.Outcome.next ((descriptor_new s l [] h).trans (by rw [hkind]; rfl))

theorem execAdapterPublish_of_new {s : State} {l : Line} (h : newLine s l = true) (hkind : dKind l = 3) :
    exec (.adapterPublish l) s = .next (publishJob l (observed s l)) :=
  congrArg Host.Outcome.next ((descriptor_new s l [] h).trans (by rw [hkind]; rfl))

theorem execAdapterRetire_of_new {s : State} {l : Line} (h : newLine s l = true) (hkind : dKind l = 4) :
    exec (.adapterRetire l) s = .next (retireJob l (observed s l)) :=
  congrArg Host.Outcome.next ((descriptor_new s l [] h).trans (by rw [hkind]; rfl))

theorem execBerthDisable_of_new {s : State} {l : Line} (h : newLine s l = true) (hkind : dKind l = 5) :
    exec (.berthDisable l) s = .next (disableJob l (observed s l)) :=
  congrArg Host.Outcome.next ((descriptor_new s l [] h).trans (by rw [hkind]; rfl))

/-- A line whose HSEQ has been processed changes nothing, whatever command brings it. -/
theorem descriptor_next_of_old {s : State} {l : Line} (h : newLine s l = false) (toks : List Word) :
    (Host.Outcome.next (descriptor s l toks) : Host.Outcome State Fault Refusal) = .next s :=
  congrArg Host.Outcome.next (descriptor_old s l toks h)

/-! ### SUBMIT and CANCEL (R252, R262) -/

/-- A SUBMIT that passes its checks names one of the four classes (R252 step 1). -/
theorem dClass_lt_of_pass {s : State} {l : Line} (h : submitCode s l = none) : dClass l < 4 := by
  have hform : submitForm l = true := by
    by_contra hbad
    have hrange : submitCode s l = some 3 := if_pos (by simpa using hbad)
    rw [hrange] at h
    cases h
  simp only [submitForm, Bool.and_eq_true, decide_eq_true_eq] at hform
  exact hform.1.1.1.1.1.1.2

theorem submitJob_of_refused {s : State} {l : Line} {e : Nat} (h : submitCode s l = some e) (toks : List Word) :
    submitJob l toks s = writeAck (rbump s (leadStk s) HLM_REFUSED) l.addr.toNat 48 e 0 := by
  unfold submitJob
  rw [h]
  rfl

theorem cancelJob_of_live {s : State} {l : Line} {c : Nat} {x : Context} (h : cancelTarget s (dReqid l) = some (c, x)) :
    cancelJob l s = writeAck (rbump (putCtx s c (some { x with cancelled := true })) (leadStk s) HLM_CANCELS)
      l.addr.toNat 48 1 0 := by
  unfold cancelJob
  rw [h]

theorem cancelJob_of_late {s : State} {l : Line} (h : cancelTarget s (dReqid l) = none) :
    cancelJob l s = writeAck (rbump s (leadStk s) HLM_LATE) l.addr.toNat 48 2 0 := by
  unfold cancelJob
  rw [h]

/-- OPEN and MAP for a new context leave its state and its REQID (R252 step 4). -/
theorem mapPrefix_context (s : State) (c : Nat) (x : Context) :
    (mapPrefix s c x).2.st = x.st ∧ (mapPrefix s c x).2.reqid = x.reqid := by
  unfold mapPrefix
  split <;> exact ⟨rfl, rfl⟩

/-- A context put at the tail of a class queue is there, and every other context and queue is as before. -/
theorem enqueued {t : State} {q : Nat} (hq : q < t.serve.queues.length) (c : Nat) (x : Context) :
    let t' := putQueue (putCtx t c (some x)) q (queueAt t q ++ [c])
    ctxAt t' c = some x ∧ (∀ d, d ≠ c → ctxAt t' d = ctxAt t d) ∧ queueAt t' q = queueAt t q ++ [c]
      ∧ (∀ d, d ≠ q → queueAt t' d = queueAt t d) ∧ changesOnly [.serve] t t' :=
  ⟨ctxAt_putCtx t c (some x), fun d hd => ctxAt_putCtx_ne t c d (some x) hd,
    queueAt_putQueue (putCtx t c (some x)) q _ hq, fun d hd => queueAt_putQueue_ne (putCtx t c (some x)) q d _ hd,
    only_serve t _⟩

theorem tokenBytes_length (toks : List Word) :
    (toks.flatMap fun (w : Word) => leBytes 4 w.toNat).length = 4 * toks.length := by
  induction toks with
  | nil => rfl
  | cons w toks ih =>
    rw [List.flatMap_cons, List.length_append, leBytes_len, ih, List.length_cons]
    omega

theorem saveTokens_only (s : State) (b c : Nat) (toks : List Word) : changesOnly [.dram] s (saveTokens s b c toks) :=
  only_of_frame (saveTokens_frame (fm := [.dram]) s b c toks (.refl _ _) (by decide))

/-- The token buffer of a berth's one stack reads back the tokens saved there (R252 step 2). -/
theorem dread_saveTokens {s : State} {b j : Nat} (h : berthStacks s b = [j]) (c : Nat) (toks : List Word) :
    dread (saveTokens s b c toks) j (tokenBase j c) (4 * toks.length)
      = toks.flatMap fun (w : Word) => leBytes 4 w.toNat := by
  unfold saveTokens
  rw [h, ← tokenBytes_length toks]
  exact memRead_memWrite _ _ _

/-- The machine before an admitted request's context is kept still has its four class queues. -/
theorem admission_queues {s : State} (hs : SafeParts s) (k : Nat) (q : Nat × Nat × Nat × Nat) (b c a detail : Nat)
    (toks : List Word) (x : Context) :
    let s1 := saveTokens (rootKey (rbump s k HLM_ADMITS) q).1 b c toks
    (mapPrefix (writeAck s1 a 48 1 detail) c x).1.serve.queues.length = 4 := by
  have hbump := rbump_frame (fm := [.regs, .dram, .reports, .stk, .vil, .serve]) s k HLM_ADMITS 1 (.refl _ s) (by decide)
  have hkey := rootKey_frame _ q hbump (by decide)
  have hsave := saveTokens_frame _ b c toks hkey (by decide)
  have hack := writeAck_frame _ a 48 1 detail hsave (by decide)
  exact ((mapPrefix_frame _ c x hack (by decide)).safe hs).serve.2

/-- Settles O21: an admitted SUBMIT is its context at the tail of its class queue (`enqueued`), after steps that keep the
four queues (`admission_queues`); every other clause is one branch of the descriptor's own processing. -/
theorem submitAndCancel : Obligations.SubmitAndCancel := by
  unfold Obligations.SubmitAndCancel
  intro s l toks hsafe s1 k
  refine ⟨fun hnew hkind => ⟨?admitted, fun e hcode => ?refused⟩,
    fun hnew hkind => ⟨fun c x hlive => ?cancelled, fun hlate => ?late⟩, fun hold => ?processed⟩
  case admitted =>
    intro c hcode hfree x r r1 q
    have hs1 : SafeParts s1 := observed_safe s l ((machineSafe_iff s).mp hsafe)
    have hqueues : q.1.serve.queues.length = 4 := admission_queues hs1 k _ _ c _ _ _ _
    obtain ⟨hctx, hother, hqueue, hqother, honly⟩ :=
      enqueued (t := q.1) (q := dClass l) (by rw [hqueues]; exact dClass_lt_of_pass hcode) c q.2
    obtain ⟨hst, hreqid⟩ := mapPrefix_context (writeAck r1 l.addr.toNat 48 1 (c * 2 ^ 16)) c { x with root := r.2 }
    have hadmit : submitJob l toks s1
        = putQueue (putCtx q.1 c (some q.2)) (dClass l) (queueAt q.1 (dClass l) ++ [c]) := by
      unfold submitJob
      rw [hcode, hfree]
    rw [execSubmit_of_new hnew hkind, hadmit]
    exact ⟨_, rfl, hctx, hst, hreqid, hother, hqueue, hqother, honly, saveTokens_only r.1 _ c x.tokens,
      fun j hj => dread_saveTokens hj c x.tokens⟩
  case refused => rw [execSubmit_of_new hnew hkind, submitJob_of_refused hcode]
  case cancelled => rw [execCancel_of_new hnew hkind, cancelJob_of_live hlive]
  case late => rw [execCancel_of_new hnew hkind, cancelJob_of_late hlate]
  case processed =>
    exact ⟨descriptor_next_of_old hold toks, descriptor_next_of_old hold [], descriptor_next_of_old hold [],
      descriptor_next_of_old hold [], descriptor_next_of_old hold []⟩

end Sys2Proof.Claims
end

section
/-!
PROOFS. The descriptors of adapters (R263, R283) and BERTH_DISABLE (R265).
-/

namespace Sys2Proof.Claims

open Sys2Proof Sys2Proof.Machine

/-! ### The adapters (R263, R283) -/

/-- The machine with version slot `v` as the current one of adapter `a`, and the former one superseded. -/
def published (s : State) (a v : Nat) (x : VSlot) : State :=
  putCurrent (putVslot (supersede s (currentSlot s a)) v { x with st := .current }) a (some v)

theorem published_current (s : State) (a v : Nat) (x : VSlot) :
    vslotAt (published s a v x) v = some { x with st := .current } ∧ currentSlot (published s a v x) a = some v :=
  ⟨vslotAt_putVslot _ v _, currentSlot_put _ a _⟩

theorem published_others (s : State) (a v : Nat) (x : VSlot) {b : Nat} (hb : b ≠ a) :
    currentSlot (published s a v x) b = currentSlot s b :=
  (currentSlot_put_ne _ a b _ hb).trans (supersede_curr s _ b)

theorem published_former {s : State} {a v w : Nat} {y : VSlot} (hw : currentSlot s a = some w) (hne : w ≠ v)
    (hy : vslotAt s w = some y) (x : VSlot) : vslotAt (published s a v x) w = some { y with st := .superseded } := by
  unfold published
  rw [hw]
  exact (vslotAt_putVslot_ne _ v w _ hne).trans (supersede_vslot s w y hy)

theorem published_only (s : State) (a v : Nat) (x : VSlot) : changesOnly [.serve] s (published s a v x) :=
  only_trans (supersede_only s _) (only_serve _ _)

theorem publishJob_of_staged {s : State} {l : Line} {x : VSlot} {im : BerthImage} (hb : dBerth l < 16)
    (ha : dAdapter l ≤ 4095) (hen : berthState s (dBerth l) = 1) (hslot : vslotAt s (dStop l) = some x)
    (hst : x.st = .staged) (hadapter : x.adapter = dAdapter l) (him : (berthOf s (dBerth l)).image = some im)
    (hmodel : im.name.2.1 = x.model) :
    publishJob l s = writeAck (published s (dAdapter l) (dStop l) x) l.addr.toNat 48 1 0 := by
  have hrange : ¬ (16 ≤ dBerth l ∨ 4095 < dAdapter l) := by omega
  have hstaged : ¬ (x.st ≠ .staged ∨ x.adapter ≠ dAdapter l) := by simp [hst, hadapter]
  have hsame : ¬ decide (im.name.2.1 ≠ x.model) = true := by simp [hmodel]
  unfold publishJob
  dsimp only
  rw [if_neg hrange, if_neg (not_not_intro hen), hslot]
  dsimp only
  rw [if_neg hstaged, him, if_neg hsame]
  rfl

theorem publishJob_of_range {l : Line} (h : 16 ≤ dBerth l ∨ 4095 < dAdapter l) (s : State) :
    publishJob l s = writeAck s l.addr.toNat 48 3 0 := if_pos h

theorem publishJob_of_closed {s : State} {l : Line} (hb : dBerth l < 16) (ha : dAdapter l ≤ 4095)
    (h : berthState s (dBerth l) ≠ 1) : publishJob l s = writeAck s l.addr.toNat 48 4 0 := by
  unfold publishJob
  rw [if_neg (by omega), if_pos h]

theorem retireJob_of_current {s : State} {l : Line} {v : Nat} (h : currentSlot s (dAdapter l) = some v) :
    retireJob l s = writeAck (putCurrent (supersede s (some v)) (dAdapter l) none) l.addr.toNat 48 1 0 := by
  unfold retireJob
  rw [h]

theorem retireJob_of_none {s : State} {l : Line} (h : currentSlot s (dAdapter l) = none) :
    retireJob l s = writeAck s l.addr.toNat 48 7 0 := by
  unfold retireJob
  rw [h]

/-! ### BERTH_DISABLE (R265) -/

/-- The machine with berth `b` disabling: its last watch for the step in flight, the line that waits for its ACK, and
HLM_BERTH_n.STATE 2. -/
def disabling (s : State) (b : Nat) (line : Option (BitVec 48)) : State :=
  putBerthState (putBerth s b { berthOf s b with disableAt := some (stepLimit s b), disableLine := line }) b 2

/-- No berth's register is HLM_STATUS, so the lead Helm stays the lead Helm. -/
theorem leadStk_putBerthState (s : State) {b : Nat} (hb : b < 16) (v : Nat) :
    leadStk (putBerthState s b v) = leadStk s := by
  refine leadStk_of_regsBut (regsBut_rputi s (leadStk s) HLM_BERTH_STATE v b _ _ rfl rfl) fun q hq k => ?_
  rw [List.mem_singleton.mp hq]
  unfold regKey
  dsimp only [HLM_BERTH_STATE]
  omega

theorem berthState_putBerthState (s : State) {b v : Nat} (hb : b < 16) (hv : v < 4) :
    berthState (putBerthState s b v) b = v := by
  unfold berthState
  rw [leadStk_putBerthState s hb v]
  exact (rget_rput_same s (leadStk s) HLM_BERTH_STATE v b rfl).trans (Nat.mod_eq_of_lt hv)

theorem disabling_regs (s : State) (b : Nat) (line : Option (BitVec 48)) :
    regsBut [(leadStk s, 0x30040 + 4 * b)] s (disabling s b line) :=
  regsBut_rputi _ _ HLM_BERTH_STATE 2 b _ _ rfl rfl

theorem disableJob_of_enabled {s : State} {l : Line} (hb : dBerth l < 16) (h : berthState s (dBerth l) = 1) :
    disableJob l s =
      (if (berthOf s (dBerth l)).step = .idle then closeBerth (disabling s (dBerth l) (some l.addr)) (dBerth l)
      else disabling s (dBerth l) (some l.addr)) := by
  unfold disableJob
  rw [if_neg (by omega), if_neg (not_not_intro h)]
  rfl

theorem disableJob_of_range {l : Line} (h : 16 ≤ dBerth l) (s : State) :
    disableJob l s = writeAck s l.addr.toNat 48 3 0 := if_pos h

theorem disableJob_of_closed {s : State} {l : Line} (hb : dBerth l < 16) (h : berthState s (dBerth l) ≠ 1) :
    disableJob l s = writeAck s l.addr.toNat 48 4 0 := by
  unfold disableJob
  rw [if_neg (by omega), if_pos h]

/-- Settles O22: a published slot is `published`, a retired one is superseded and no longer current, and a berth being
disabled is `disabling`; each refusal is the branch of its check. -/
theorem adaptersAndDisable : Obligations.AdaptersAndDisable := by
  unfold Obligations.AdaptersAndDisable
  intro s l hnew s1 a
  refine ⟨fun hkind hb ha hen x im hslot hst hadapter him hmodel => ?publish, fun hkind h => ?range,
    fun hkind hb ha h => ?closed, fun hkind => ⟨fun v hv => ?retire, fun h => ?unpublished⟩, fun hkind hb hen => ?disable,
    fun hkind h => ?noBerth, fun hkind hb h => ?notEnabled⟩
  case publish =>
    rw [execAdapterPublish_of_new hnew hkind, publishJob_of_staged hb ha hen hslot hst hadapter him hmodel]
    obtain ⟨hcurrent, hadapterCurrent⟩ := published_current s1 (dAdapter l) (dStop l) x
    exact ⟨_, rfl, hcurrent, hadapterCurrent, fun b hne => published_others s1 _ _ x hne,
      fun v y hv hne hy => published_former hv hne hy x, published_only s1 _ _ x⟩
  case range => rw [execAdapterPublish_of_new hnew hkind, publishJob_of_range h]
  case closed => rw [execAdapterPublish_of_new hnew hkind, publishJob_of_closed hb ha h]
  case retire =>
    rw [execAdapterRetire_of_new hnew hkind, retireJob_of_current hv]
    exact ⟨_, rfl, currentSlot_put _ _ _, fun y hy => supersede_vslot s1 v y hy,
      only_trans (supersede_only s1 _) (only_serve _ _)⟩
  case unpublished => rw [execAdapterRetire_of_new hnew hkind, retireJob_of_none h]
  case disable =>
    intro b
    rw [execBerthDisable_of_new hnew hkind, disableJob_of_enabled hb hen]
    exact ⟨disabling s1 b (some l.addr), berthState_putBerthState _ hb (by decide), disabling_regs s1 b _, rfl, rfl⟩
  case noBerth => rw [execBerthDisable_of_new hnew hkind, disableJob_of_range h]
  case notEnabled => rw [execBerthDisable_of_new hnew hkind, disableJob_of_closed hb h]

end Sys2Proof.Claims
end

section
/-!
PROOFS. The lead Helm's lines and control bits (R260, R267, R369, R370).
-/

namespace Sys2Proof.Claims

open Sys2Proof Sys2Proof.Machine

/-! ### Watch notices and the return line (R260, R370) -/

theorem execWatchNotice_of_watched {s : State} {l : Line} (hlead : leadOf s ≠ none) (halign : l.addr.toNat % 64 = 0)
    (hwatched : (watchedLines s).contains l.addr.toNat = true) :
    exec (.watchNotice l) s = .next (watchRead
      { s with serve := { s.serve with notices := s.serve.notices.filter fun x => x.toNat != l.addr.toNat } }
      l.addr.toNat) := by
  have hread : ((leadOf s).isSome && (watchedLines s).contains l.addr.toNat) = true := by
    rw [hwatched, Option.isSome_iff_ne_none.mpr hlead]
    rfl
  show execWatchNotice l s = _
  unfold execWatchNotice
  dsimp only
  rw [halign, Nat.sub_zero, if_pos hread]

/-- Berths without a held report write none. -/
theorem releaseHeld_foldl_none {s : State} {bs : List Nat} (h : ∀ b ∈ bs, (berthOf s b).held = []) :
    bs.foldl releaseHeld s = s := by
  induction bs with
  | nil => rfl
  | cons b bs ih =>
    rw [List.foldl_cons, releaseHeld_none s b (h b List.mem_cons_self)]
    exact ih fun c hc => h c (List.mem_cons_of_mem b hc)

/-! ### HLM_CTL (R267, R369) -/

theorem leadStk_of_leadOf {s : State} {k : Nat} (h : leadOf s = some k) : leadStk s = k := by
  unfold leadStk
  rw [h]
  rfl

/-- EN cleared, or set again, changes its own bit alone. -/
theorem writeHelmEn_of_later {s : State} {k : Nat} {v : Bool} (hlead : leadOf s = some k)
    (h : v = false ∨ ron s k HLM_CTL_EN = true) : writeHelmEn s v = rput s k HLM_CTL_EN (bit v) := by
  have hnot : ¬ (v && !ron s k HLM_CTL_EN) = true := by
    rcases h with h | h <;> simp [h]
  unfold writeHelmEn
  rw [leadStk_of_leadOf hlead, hlead]
  exact if_neg hnot

/-- EN set for the first time reads every watched line that a window lets it read. -/
theorem writeHelmEn_of_first {s : State} {k : Nat} (hlead : leadOf s = some k) (h : ron s k HLM_CTL_EN = false) :
    writeHelmEn s true = (watchedLines (rput s k HLM_CTL_EN 1)).foldl
      (fun s a => if watchable s a then watchRead s a else s) (rput s k HLM_CTL_EN 1) := by
  have hfirst : (true && !ron s k HLM_CTL_EN) = true := by rw [h]; rfl
  unfold writeHelmEn
  rw [leadStk_of_leadOf hlead, hlead]
  exact if_pos hfirst

theorem execHlmLock_of_lead {s : State} {k : Nat} (hlead : leadOf s = some k) :
    exec .hlmLock s = .next (rset s k HLM_CTL_LOCK) := by
  show execHlmLock s = _
  unfold execHlmLock
  rw [leadStk_of_leadOf hlead, hlead]
  rfl

/-- Settles O23: a notice is one read, the return line makes room for what is held, and each control bit is one put,
EN's first setting with the reads of the watched lines after it. -/
theorem helmLines : Obligations.HelmLines := by
  unfold Obligations.HelmLines
  intro s
  refine ⟨fun l => execWatchNotice_of_watched, fun idx => ⟨_, rfl, rfl, fun hheld => ?none_held⟩,
    fun k hlead => ⟨?clear, fun hon => ?again, fun hoff => ?first, ?lock⟩⟩
  case none_held => exact releaseHeld_foldl_none fun b hb => hheld b (List.mem_range.mp hb)
  case clear =>
    exact ⟨_, congrArg Host.Outcome.next (writeHelmEn_of_later hlead (.inl rfl)),
      rget_rput_same1 s k HLM_CTL_EN 0 rfl (by decide), rget_rput_ne s k HLM_CTL_LOCK HLM_CTL_EN 0 rfl (.inr rfl),
      regsBut_rput0 s k HLM_CTL_EN 0, only_rput s k HLM_CTL_EN 0 0⟩
  case again =>
    exact ⟨_, congrArg Host.Outcome.next (writeHelmEn_of_later hlead (.inr hon)),
      rget_rput_same1 s k HLM_CTL_EN 1 rfl (by decide), regsBut_rput0 s k HLM_CTL_EN 1, only_rput s k HLM_CTL_EN 1 0⟩
  case first =>
    exact ⟨rput s k HLM_CTL_EN 1, rget_rput_same1 s k HLM_CTL_EN 1 rfl (by decide), regsBut_rput0 s k HLM_CTL_EN 1,
      only_rput s k HLM_CTL_EN 1 0, congrArg Host.Outcome.next (writeHelmEn_of_first hlead hoff)⟩
  case lock =>
    exact ⟨_, execHlmLock_of_lead hlead, rset_one s k HLM_CTL_LOCK rfl (by decide),
      rset_ne s k HLM_CTL_EN HLM_CTL_LOCK rfl (.inr rfl), regsBut_rput0 s k HLM_CTL_LOCK 1,
      only_rput s k HLM_CTL_LOCK 1 0⟩

end Sys2Proof.Claims
end

section
/-!
PROOFS. The steps of a berth: their boundaries, their commits and their end (R254, R257, R265, R349, R350, R439, R440).
-/

namespace Sys2Proof.Claims

open Sys2Proof Sys2Proof.Machine

/-! ### Step boundaries (R254, R439) -/

/-- Whether a step boundary of berth `b` begins a step or pays a debt (notes/assumptions/48.md). -/
def boundaryDue (s : State) (b : Nat) : Prop :=
  berthState s b = 1 ∧ (berthOf s b).step = .idle ∧ (berthOf s b).rptwait = false ∧ loadsHalted s b = true

theorem execStepBoundary_of_due {s : State} {b : BitVec 4} (h : boundaryDue s b.toNat) :
    exec (.stepBoundary b) s =
      (if 100 ≤ (berthOf s b.toNat).debt then .next (rbump (payWatch s b.toNat) 0 BNC_IDLEW)
      else .next (if berthState (shapeBerth s b.toNat) b.toNat = 1 ∧ loadsHalted (shapeBerth s b.toNat) b.toNat then
          stepBoundary (shapeBerth s b.toNat) b.toNat
        else shapeBerth s b.toNat)) := by
  obtain ⟨hen, hidle, hwrote, hloaded⟩ := h
  refine if_neg ?_
  rw [hwrote, hloaded]
  simp [hen, hidle]

/-- The first watch of the next step, read from the last step's. -/
theorem firstWatch_of_lastStep {s : State} {b : Nat} {w : Word} (h : (berthOf s b).lastStep = some w) :
    firstWatch s b = (let e := w + BitVec.ofNat 32 (rget s (leadStk s) HLM_BERTH_WPS b)
      if laterWatch e (watchNo s + 1) then e else watchNo s + 1) := by
  unfold firstWatch
  rw [h]

/-- BNC_IDLEW holds neither the lead Helm's choice, nor the watch number, nor a berth's WPS. -/
theorem watch_of_idlew {s t : State} (h : regsBut [(0, BNC_IDLEW.off)] s t) {b : Nat} (hb : b < 16) :
    watchNo t = watchNo s
      ∧ rget t (leadStk t) HLM_BERTH_WPS b = rget s (leadStk s) HLM_BERTH_WPS b := by
  have hlead : leadStk t = leadStk s := leadStk_of_regsBut h fun q hq k => by
    rw [List.mem_singleton.mp hq]
    unfold regKey
    dsimp only [BNC_IDLEW]
    omega
  refine ⟨congrArg (BitVec.ofNat 32) (rget_of_regsBut h 0 CHR_WATCH_WATCH 0 fun q hq => ?_), ?_⟩
  · rw [List.mem_singleton.mp hq]
    decide
  · rw [hlead]
    refine rget_of_regsBut h _ HLM_BERTH_WPS b fun q hq => ?_
    rw [List.mem_singleton.mp hq]
    unfold regKey
    dsimp only [BNC_IDLEW, HLM_BERTH_WPS]
    omega

/-- An idle watch puts a berth's next step one whole watch off (R439). -/
theorem firstWatch_of_paid {s t : State} {b : Nat} (hb : b < 16) (hregs : regsBut [(0, BNC_IDLEW.off)] s t)
    (hpaid : (berthOf t b).lastStep = some (firstWatch s b + 1 - BitVec.ofNat 32 (rget s (leadStk s) HLM_BERTH_WPS b)))
    (hlater : laterWatch (firstWatch s b + 1) (watchNo s + 1) = true) : firstWatch t b = firstWatch s b + 1 := by
  obtain ⟨hwatch, hwps⟩ := watch_of_idlew hregs hb
  rw [firstWatch_of_lastStep hpaid, hwatch, hwps]
  dsimp only
  rw [BitVec.sub_add_cancel, if_pos hlater]

/-- The machine of a step boundary before its step is entered: the cancelled requests have ended, versions and requests are
bound, the placements are made and every slot is written (R254, R255). -/
def boundaryPlaced (s : State) (b : Nat) : State :=
  let s0 := endCancelled s b
  let s1 := sweepVersions ((berthContexts s0 b).foldl rebindOne s0)
  let s2 := placeAll (crossBoundary s1 b) b
  (berthSlots s2 b).foldl (fun s e => writeSlot s b e) s2

/-- The machine with a berth's step entered at its first watch. -/
def stepEntered (s : State) (b : Nat) : State :=
  putBerth s b { berthOf s b with
    step := .running (firstWatch s b)
    lastStep := some (firstWatch s b)
    arrived := false
    released := []
    notice := none
    faulted := (berthOf s b).late
    late := [] }

theorem stepEntered_berth {s : State} {b : Nat} (hb : b < s.serve.berths.length) :
    (berthOf (stepEntered s b) b).step = .running (firstWatch s b)
      ∧ (berthOf (stepEntered s b) b).lastStep = some (firstWatch s b)
      ∧ (berthOf (stepEntered s b) b).arrived = false ∧ (berthOf (stepEntered s b) b).released = [] := by
  unfold stepEntered
  rw [berthOf_putBerth s b _ hb]
  exact ⟨rfl, rfl, rfl, rfl⟩

theorem stepBoundary_eq (s : State) (b : Nat) : stepBoundary s b = applyCharged (stepEntered (boundaryPlaced s b) b) b := rfl

theorem boundaryPlaced_safe {s : State} (h : SafeParts s) (b : Nat) : SafeParts (boundaryPlaced s b) := by
  have hended := endCancelled_frame (fm := allParts) (b0 := s) s b (.refl _ s) (by decide)
  have hbound := Frame.foldl (berthContexts (endCancelled s b) b) rebindOne
    (fun u q hu => rebindOne_frame u q hu (by decide)) hended
  have hcrossed := crossBoundary_frame _ b (sweepVersions_frame _ hbound (by decide)) (by decide)
  have hplaced := placeAll_frame _ b hcrossed (by decide)
  exact (Frame.foldl _ (fun u e => writeSlot u b e) (fun u e hu => writeSlot_frame u b e hu (by decide)) hplaced).safe h

theorem shapeBerth_safe {s : State} (h : SafeParts s) (b : Nat) : SafeParts (shapeBerth s b) :=
  (shapeBerth_frame (fm := allParts) s b (.refl _ s) (by decide)).safe h

/-! ### Commits (R257, R349, R350) -/

theorem execStackCommitRelease_of_arrived {s : State} {k : BitVec 3} {b : BitVec 4} {first : Word}
    (hrun : (berthOf s b.toNat).step = .running first)
    (hcount : (helmCounter s k.toNat (32 + b.toNat)).expect ≤ (helmCounter s k.toNat (32 + b.toNat)).count)
    (huses : (berthStacks s b.toNat).contains k.toNat = true) (hnew : (berthOf s b.toNat).released.contains k = false) :
    exec (.stackCommitRelease k b) s = .next (stackReleased s k.toNat b.toNat) := by
  show execStackCommitRelease k b s = _
  unfold execStackCommitRelease
  rw [hrun, hnew]
  exact congrArg Host.Outcome.next (if_pos ⟨hcount, huses, rfl⟩)

/-- From `s` to `t` stack `k` takes its part in the commit of berth `b`'s step: its counter has released, the berth holds the
stack as released, and nothing but stacks, serving and FLT_NOROUTE has changed (R349). -/
def TakesPart (s t : State) (k : BitVec 3) (b : Nat) : Prop :=
  helmCounter t k.toNat (32 + b) = { helmCounter s k.toNat (32 + b) with
      count := (helmCounter s k.toNat (32 + b)).count - (helmCounter s k.toNat (32 + b)).expect, vmax := 0 }
    ∧ (berthOf t b).released = k :: (berthOf s b).released
    ∧ regsBut [(0, FLT_NOROUTE.off)] s t ∧ changesOnly [.regs, .stk, .serve] s t

/-- The machine with the stack's part done, before the lead Helm arrives. -/
def partDone (s : State) (k : BitVec 3) (b : Nat) : State :=
  putBerth (releaseHelm s k.toNat (32 + b)) b { berthOf s b with released := k :: (berthOf s b).released }

theorem stackReleased_cases (s : State) (k : BitVec 3) (b : Nat) :
    stackReleased s k.toNat b = arriveCommit (partDone s k b) b ∨ stackReleased s k.toNat b = partDone s k b := by
  unfold stackReleased partDone
  rw [BitVec.ofNat_toNat, BitVec.setWidth_eq]
  exact ite_eq_or_eq _ _ _

theorem partDone_safe {s : State} (h : SafeParts s) (k : BitVec 3) (b : Nat) : SafeParts (partDone s k b) :=
  (putBerth_frame (fm := allParts) _ b _ (releaseHelm_frame s k.toNat (32 + b) (.refl _ s) (by decide)) (by decide)).safe h

theorem partDone_takesPart {s : State} (h : SafeParts s) {b : Nat} (hb : b < 16) (k : BitVec 3) :
    TakesPart s (partDone s k b) k b := by
  have hk : k.toNat < s.stk.length := by
    rw [h.stk]
    exact k.isLt
  have hlen : b < (releaseHelm s k.toNat (32 + b)).serve.berths.length := h.serve.1.symm ▸ hb
  refine ⟨helmCounter_put s k.toNat (32 + b) _ hk, congrArg Berth.released (berthOf_putBerth _ b _ hlen),
    regsBut_of_regs rfl _, ?_⟩
  exact only_trans (only_mono (only_putStk s _ _) (by decide)) (only_mono (only_serve _ _) (by decide))

/-- The lead Helm's arrival keeps what the stack's part has changed. -/
theorem arriveCommit_takesPart {s t : State} {k : BitVec 3} {b : Nat} (h : SafeParts t) (hb : b < 16)
    (hpart : TakesPart s t k b) : TakesPart s (arriveCommit t b) k b := by
  obtain ⟨hcounter, hreleased, hregs, honly⟩ := hpart
  obtain ⟨hkeepCounter, hkeepReleased, hregs', honly'⟩ := arriveCommit_facts t b k.toNat h.stk hb h.serve.1
  exact ⟨hkeepCounter.trans hcounter, hkeepReleased.trans hreleased, regsBut_trans hregs hregs', only_trans honly honly'⟩

/-- Whether or not the stack is the last one, it takes its part. -/
theorem stackReleased_takesPart {s : State} (h : SafeParts s) {b : Nat} (hb : b < 16) (k : BitVec 3) :
    TakesPart s (stackReleased s k.toNat b) k b := by
  have hpart := partDone_takesPart h hb k
  rcases stackReleased_cases s k b with harrive | hwait
  · rw [harrive]
    exact arriveCommit_takesPart (partDone_safe h k b) hb hpart
  · rw [hwait]
    exact hpart

theorem execCommitPoint_of_due {s : State} {b : BitVec 4} {first : Word} (hrun : (berthOf s b.toNat).step = .running first)
    (hhost : hostModule s b.toNat = moduleNo s) (harrived : (berthOf s b.toNat).arrived = true)
    (hcount : (helmCounter s (leadStk s) b.toNat).expect ≤ (helmCounter s (leadStk s) b.toNat).count) :
    exec (.commitPoint b) s =
      (let c := helmCounter s (leadStk s) b.toNat
      let s1 := sendHelm (releaseHelm s (leadStk s) b.toNat) ((otherModules s b.toNat).map fun m =>
        .release m b.toNat (lastWatch s b.toNat first) (BitVec.ofNat 16 c.vmax))
      .next (commitBerth (putBerth s1 b.toNat { berthOf s1 b.toNat with allReady := c.vmax % 2 == 0 }) b.toNat)) := by
  show execCommitPoint b s = _
  unfold execCommitPoint
  dsimp only
  rw [hrun]
  refine if_neg ?_
  rw [harrived]
  simp [hhost, hcount]

theorem execReleaseRecord_of_due {s : State} {b : BitVec 4} {first : Word}
    (hrun : (berthOf s b.toNat).step = .running first) (hhost : hostModule s b.toNat ≠ moduleNo s)
    (harrived : (berthOf s b.toNat).arrived = true) (vmax : Half) :
    exec (.releaseRecord b (lastWatch s b.toNat first) vmax) s =
      .next (commitBerth (putBerth s b.toNat { berthOf s b.toNat with allReady := vmax.toNat % 2 == 0 }) b.toNat) := by
  show execReleaseRecord b (lastWatch s b.toNat first) vmax s = _
  unfold execReleaseRecord
  dsimp only
  rw [hrun]
  refine if_neg ?_
  rw [harrived]
  simp [hhost]

theorem execStepTimeout_of_due {s : State} {b : BitVec 4} {w : Word} (hlimit : (berthOf s b.toNat).disableAt = some w)
    (hstate : berthState s b.toNat = 2) (hstep : (berthOf s b.toNat).step ≠ .idle) (hpast : (watchNo s - w).toNat < 2 ^ 31) :
    exec (.stepTimeout b) s = .next (closeBerth (stopTiles (countEvent s) b.toNat) b.toNat) := by
  show execStepTimeout b s = _
  unfold execStepTimeout
  dsimp only
  rw [hlimit]
  exact if_pos ⟨hstate, hstep, hpast⟩

/-- Settles O24: a boundary pays a watch (`firstWatch_of_paid`) or enters the step (`stepBoundary_eq`); a stack that
arrives takes its part (`stackReleased_takesPart`); the rest is the branch of the commit point, of the release record and
of the timeout. -/
theorem stepsAndCommits : Obligations.StepsAndCommits := by
  unfold Obligations.StepsAndCommits
  intro s b first hsafe n
  have hs : SafeParts s := (machineSafe_iff s).mp hsafe
  have hberth : ∀ t : State, SafeParts t → n < t.serve.berths.length := fun t ht => by
    rw [ht.serve.1]
    exact b.isLt
  refine ⟨fun hen hidle hwrote hloaded => ⟨fun hdebt => ?idleWatch, fun hdebt hopen hshaped => ?step⟩,
    fun k hrun hcount huses hnew => ?stack, fun hrun hhost harrived hcount => ?commit,
    fun vmax hrun hhost harrived => execReleaseRecord_of_due hrun hhost harrived vmax,
    fun w hlimit hstate hstep hpast => execStepTimeout_of_due hlimit hstate hstep hpast⟩
  case idleWatch =>
    have hregs : regsBut [(0, BNC_IDLEW.off)] s (rbump (payWatch s n) 0 BNC_IDLEW) :=
      regsBut_rput0 (payWatch s n) 0 BNC_IDLEW _
    have hpaid := berthOf_putBerth s n { berthOf s n with
      debt := (berthOf s n).debt - 100
      lastStep := some (firstWatch s n + 1 - BitVec.ofNat 32 (rget s (leadStk s) HLM_BERTH_WPS n)) } (hberth s hs)
    refine ⟨_, (execStepBoundary_of_due ⟨hen, hidle, hwrote, hloaded⟩).trans (if_pos hdebt), hpaid,
      firstWatch_of_paid b.isLt hregs (congrArg Berth.lastStep hpaid), fun m hm => berthOf_putBerth_ne s n m _ hm,
      rbump_same (payWatch s n) 0 BNC_IDLEW 1 rfl, hregs, ?_⟩
    exact only_trans (only_mono (only_serve s _) (by decide)) (only_mono (only_rbump _ 0 BNC_IDLEW 1) (by decide))
  case step =>
    have hplaced : SafeParts (boundaryPlaced (shapeBerth s n) n) := boundaryPlaced_safe (shapeBerth_safe hs n) n
    refine ⟨boundaryPlaced (shapeBerth s n) n, stepEntered (boundaryPlaced (shapeBerth s n) n) n, ?_, only_serve _ _,
      stepEntered_berth (hberth _ hplaced)⟩
    rw [execStepBoundary_of_due ⟨hen, hidle, hwrote, hloaded⟩, if_neg (Nat.not_le.mpr hdebt), if_pos ⟨hopen, hshaped⟩,
      stepBoundary_eq]
  case stack =>
    exact ⟨_, execStackCommitRelease_of_arrived hrun hcount huses hnew, stackReleased_takesPart hs b.isLt k⟩
  case commit => exact execCommitPoint_of_due hrun hhost harrived hcount

end Sys2Proof.Claims
end

section
/-!
PROOFS. The image commands of the store: PROGRAM_BEGIN, PROGRAM_CHUNK, PROGRAM_END, ACTIVATE, ERASE, BOOTSET (R273, R275,
R276, R429).
-/

namespace Sys2Proof.Claims

open Sys2Proof Sys2Proof.Machine

/-! ### An image command's answer (R276) -/

/-- A command that names slot 0 or 1 answers what its operation on that slot answers. -/
theorem acked_plainSlot {s t : State} {l : Line} {op c d : Nat} {f : State → Nat → ImgDone} (h : imageLine s l op)
    (hi : lineSlot l < 2) (hf : f (imageTaken s l op) (lineSlot l) = (t, c, d)) (hc : c ≠ 0) :
    acked l t c d (.next (imageCommand s l op false (withPlainSlot l f))) :=
  acked_of h ((plain l f _ hi).trans hf) hc

/-- One that succeeds answers OK, and MEDIA where NAND reports an error. -/
theorem acked_plainSlot_or_media {s t : State} {l : Line} {op : Nat} {f : State → Nat → ImgDone} (h : imageLine s l op)
    (hi : lineSlot l < 2) (hf : f (imageTaken s l op) (lineSlot l) = (t, 1, 0)) :
    acked l t 1 0 (.next (imageCommand s l op false (withPlainSlot l f)))
      ∧ acked l (imageTaken s l op) 14 0 (.next (imageCommand s l op true (withPlainSlot l f))) :=
  ⟨acked_plainSlot h hi hf (by decide), acked_media h ((plain l f _ hi).trans hf) (by decide)⟩

/-- A command that may also name the ACTIVE slot answers what its operation on the slot found answers. -/
theorem acked_slot {s t : State} {l : Line} {op j c d : Nat} {f : State → Nat → ImgDone} (h : imageLine s l op)
    (hj : resolveSlot (imageTaken s l op) (lineName l) (lineSlot l) = some j) (hf : f (imageTaken s l op) j = (t, c, d))
    (hc : c ≠ 0) : acked l t c d (.next (imageCommand s l op false (withSlot l f))) :=
  acked_of h ((resolved l f _ j hj).trans hf) hc

theorem acked_slot_or_media {s t : State} {l : Line} {op j : Nat} {f : State → Nat → ImgDone} (h : imageLine s l op)
    (hj : resolveSlot (imageTaken s l op) (lineName l) (lineSlot l) = some j) (hf : f (imageTaken s l op) j = (t, 1, 0)) :
    acked l t 1 0 (.next (imageCommand s l op false (withSlot l f)))
      ∧ acked l (imageTaken s l op) 14 0 (.next (imageCommand s l op true (withSlot l f))) :=
  ⟨acked_slot h hj hf (by decide), acked_media h ((resolved l f _ j hj).trans hf) (by decide)⟩

/-! ### PROGRAM_BEGIN and ERASE: a slot opened and a slot emptied -/

/-- The record of slot `i` that PROGRAM_BEGIN writes. -/
def openRecord (l : Line) (s : State) (i : Nat) : CatRec :=
  ⟨lineName l, i, .incomplete, lineField l 14 2, lineField l 32 8, Config.nandStart s.img.catalogue.length, 0, 0⟩

/-- The machine with slot `i` opened by PROGRAM_BEGIN: its record, no content, its programming begun. -/
def slotOpened (l : Line) (s : State) (i : Nat) : State :=
  putSlotData (beginProgram (putCat s (openRecord l s i)) (lineName l) i) (lineName l) i (some ⟨[], []⟩)

theorem programBegin_of_open {s : State} {l : Line} {i : Nat} (hst : slotState s (lineName l) i ≠ .active)
    (hroom : storeUsed s (lineName l) i + lineField l 32 8 ≤ 2 ^ 44)
    (hname : (storeNames s).contains (lineName l) = true ∨ (storeNames s).length < 8192) :
    programBegin l s i = (slotOpened l s i, 1, 0) := by
  have hfits : ¬ (2 ^ 44 < storeUsed s (lineName l) i + lineField l 32 8
      ∨ (!(storeNames s).contains (lineName l)) = true ∧ 8192 ≤ (storeNames s).length) := by
    rintro (hfull | ⟨hnew, hmany⟩)
    · exact absurd hroom (Nat.not_le.mpr hfull)
    · rcases hname with hold | hfew
      · rw [hold] at hnew
        exact absurd hnew (by decide)
      · exact absurd hmany (Nat.not_le.mpr hfew)
  exact (if_neg hst).trans (if_neg hfits)

theorem slotOpened_facts (l : Line) {s : State} (hseq : roomFor 1 s) (i : Nat) :
    slotState (slotOpened l s i) (lineName l) i = .incomplete
      ∧ slotData (slotOpened l s i) (lineName l) i = some ⟨[], []⟩
      ∧ programming (slotOpened l s i) (lineName l) i = true ∧ changesOnly [.img] s (slotOpened l s i) :=
  ⟨slotState_putCat s hseq (openRecord l s i), slotData_put _ _ _ _,
    by simp [programming, slotOpened, putSlotData, beginProgram], only_img s _⟩

/-- The machine with a slot emptied by ERASE: INCOMPLETE before the erasure, EMPTY after it (R429). -/
def slotErased (s : State) (n : ImgName) (i : Nat) (cat : CatRec) : State :=
  putSlotData (putCat (putCat s { cat with st := .incomplete }) { cat with st := .empty, length := 0 }) n i none

/-- ERASE of a slot that is not ACTIVE leaves it EMPTY. -/
theorem eraseCmd_empties {s : State} {l : Line} {i : Nat} (hseq : roomFor 2 s)
    (hst : slotState s (lineName l) i ≠ .active) :
    ∃ t, eraseCmd l s i = (t, 1, 0) ∧ slotState t (lineName l) i = .empty ∧ changesOnly [.img] s t := by
  unfold eraseCmd
  dsimp only
  cases hcat : catOf s (lineName l) i with
  | none => exact ⟨s, rfl, by rw [slotState, hcat], only_refl _ s⟩
  | some cat =>
    obtain ⟨hn, hi⟩ := catOf_named hcat
    have hidle : cat.st ≠ .active := by
      rwa [slotState, hcat] at hst
    exact ⟨slotErased s (lineName l) i cat, if_neg hidle,
      slotState_data1 _ (roomFor_putCat hseq (by decide) _) { cat with st := .empty, length := 0 } _ _ none hn hi,
      only_img s _⟩

theorem eraseCmd_of_active {s : State} {l : Line} {i : Nat} (hst : slotState s (lineName l) i = .active) :
    eraseCmd l s i = (s, 10, 0) := by
  unfold eraseCmd
  dsimp only
  cases hcat : catOf s (lineName l) i with
  | none =>
    rw [slotState, hcat] at hst
    exact absurd hst (by decide)
  | some cat =>
    rw [slotState, hcat] at hst
    exact if_pos hst

/-! ### PROGRAM_CHUNK: bytes written and 4 KiB indexes covered (R275) -/

/-- The covered bytes of one more 4 KiB index. -/
def coverIndex (m : SMap Nat) (q : Nat × Nat) : SMap Nat :=
  mapSet (fun _ => 0) m q.1 (max q.2 (mapGet (fun _ => 0) m q.1))

theorem mapGet_coverIndex (m : SMap Nat) (q : Nat × Nat) (x : Nat) :
    mapGet (fun _ => 0) (coverIndex m q) x
      = if x = q.1 then max q.2 (mapGet (fun _ => 0) m q.1) else mapGet (fun _ => 0) m x := mapGet_mapSet _ _ _ _ _

/-- Covering `k` indexes from `b` on, index `x` by `g x` bytes. -/
theorem mapGet_coverIndexes (m : SMap Nat) (b : Nat) (g : Nat → Nat) (k x : Nat) :
    mapGet (fun _ => 0) (((List.range k).map fun i => (b + i, g (b + i))).foldl coverIndex m) x
      = max (mapGet (fun _ => 0) m x) (if b ≤ x ∧ x < b + k then g x else 0) := by
  induction k with
  | zero =>
    rw [if_neg (by omega), Nat.max_zero]
    rfl
  | succ k ih =>
    rw [List.range_succ, List.map_append, List.foldl_append]
    refine (mapGet_coverIndex _ (b + k, g (b + k)) x).trans ?_
    by_cases hx : x = b + k
    · subst hx
      rw [if_pos rfl, ih, if_neg (by omega), if_pos (by omega), Nat.max_zero, Nat.max_comm]
    · rw [if_neg hx, ih]
      simp only [show (x < b + (k + 1)) ↔ (x < b + k) by omega]

/-- A chunk covers, of each index from its first on, the bytes that it reaches. -/
theorem coverChunk_covered (d : SlotData) {off : Nat} (hoff : off % 4096 = 0) (n x : Nat) :
    mapGet (fun _ => 0) (coverChunk d off n).covered x = max (mapGet (fun _ => 0) d.covered x)
      (if off / 4096 ≤ x then min 4096 (off + n - 4096 * x) else 0) := by
  refine (mapGet_coverIndexes d.covered (off / 4096) (fun y => min 4096 (off + n - 4096 * y)) _ x).trans ?_
  refine congrArg (max _) ?_
  unfold ceilDiv
  by_cases hfirst : off / 4096 ≤ x
  · by_cases hlast : x < off / 4096 + (off % 4096 + n + 4096 - 1) / 4096
    · rw [if_pos ⟨hfirst, hlast⟩, if_pos hfirst]
    · rw [if_neg (fun h => hlast h.2), if_pos hfirst]
      omega
  · rw [if_neg (fun h => hfirst h.1), if_neg hfirst]

/-- Slot `i` holds record `cat` and content `d`. -/
def slotHolds (s : State) (n : ImgName) (i : Nat) (cat : CatRec) (d : SlotData) : Prop :=
  catOf s n i = some cat ∧ slotData s n i = some d

/-- The content of a slot after a chunk of `n` bytes at `off`. -/
def chunkWritten (d : SlotData) (bytes : List Byte) (off n : Nat) : SlotData :=
  coverChunk { d with bytes := memWrite d.bytes off (bytes.take n) } off n

section Chunk
variable {s : State} {l : Line} {i : Nat} {cat : CatRec} {d : SlotData}

theorem programChunk_of_stale (h : slotHolds s (lineName l) i cat d) (hbegun : programming s (lineName l) i = false)
    (bytes : List Byte) : programChunk l bytes s i = (s, 10, 0) := by
  obtain ⟨hcat, hdata⟩ := h
  unfold programChunk
  dsimp only
  rw [hcat, hdata]
  exact if_pos (Or.inr (by rw [hbegun]; rfl))

/-- A chunk of a slot that is being programmed is checked for its place, and written. -/
theorem programChunk_of_begun (h : slotHolds s (lineName l) i cat d) (hst : cat.st = .incomplete)
    (hbegun : programming s (lineName l) i = true) (bytes : List Byte) :
    programChunk l bytes s i =
      (let off := lineField l 24 8
      let len := lineField l 32 8
      if off % 4096 ≠ 0 ∨ 2 ^ 26 < len ∨ cat.length < off + len then (s, 3, 0)
      else (putSlotData s (lineName l) i (some (chunkWritten d bytes off len)), 1, 0)) := by
  obtain ⟨hcat, hdata⟩ := h
  unfold programChunk
  dsimp only
  rw [hcat, hdata]
  exact if_neg (by simp [hst, hbegun])

end Chunk

/-! ### PROGRAM_END: coverage, signature, form and digests (R275) -/

/-- The lower of the index found so far and the next one. -/
def lowerIndex (a : Option Nat) (q : Nat × Nat) : Option Nat :=
  match a with
  | some x => some (min x q.1)
  | none => some q.1

/-- The fold of `firstUncovered` finds the lowest index of a list. -/
theorem foldl_lowerIndex {q : Nat × Nat} (l : List (Nat × Nat)) (a : Option Nat) (hlow : ∀ y ∈ l, q.1 ≤ y.1)
    (ha : ∀ x, a = some x → q.1 ≤ x) (hq : q ∈ l ∨ a = some q.1) : l.foldl lowerIndex a = some q.1 := by
  induction l generalizing a with
  | nil => exact hq.resolve_left (List.not_mem_nil)
  | cons y l ih =>
    have hy : q.1 ≤ y.1 := hlow y List.mem_cons_self
    refine ih (lowerIndex a y) (fun z hz => hlow z (List.mem_cons_of_mem y hz)) ?_ ?_
    · cases a with
      | none => rintro x ⟨⟩; exact hy
      | some x => rintro _ ⟨⟩; exact le_min (ha x rfl) hy
    · rcases hq with hmem | hfound
      · rcases List.mem_cons.mp hmem with rfl | hmem
        · right
          cases a with
          | none => rfl
          | some x => exact congrArg some (Nat.min_eq_right (ha x rfl))
        · exact Or.inl hmem
      · right
        rw [hfound]
        exact congrArg some (Nat.min_eq_left hy)

theorem firstUncovered_of_lowest {d : SlotData} {needs : List (Nat × Nat)} {q : Nat × Nat} (hq : q ∈ needs)
    (hless : mapGet (fun _ => 0) d.covered q.1 < q.2)
    (hlow : ∀ y ∈ needs, mapGet (fun _ => 0) d.covered y.1 < y.2 → q.1 ≤ y.1) : firstUncovered d needs = some q.1 := by
  refine foldl_lowerIndex _ none (fun y hy => ?_) (fun x h => nomatch h) (Or.inl ?_)
  · obtain ⟨hmem, huncovered⟩ := List.mem_filter.mp hy
    exact hlow y hmem (of_decide_eq_true huncovered)
  · exact List.mem_filter.mpr ⟨hq, decide_eq_true hless⟩

theorem firstUncovered_of_covered {d : SlotData} {r : Reader} {m : Nat} (h : coveredAll d r m) :
    firstUncovered d (storedNeeds r m) = none := by
  have hnone : (storedNeeds r m).filter (fun q => decide (mapGet (fun _ => 0) d.covered q.1 < q.2)) = [] :=
    List.filter_eq_nil_iff.mpr fun q hq hless => absurd (h q hq) (Nat.not_le.mpr (of_decide_eq_true hless))
  unfold firstUncovered
  rw [hnone]
  rfl

theorem checkImage_of_good {s : State} {r : Reader} (h : signatureGood s r = true) :
    checkImage s r = (countVerify s true, true) := by
  unfold checkImage
  dsimp only
  rw [h, if_pos rfl]

theorem roomFor_img {n : Nat} {s t : State} (h : t.img = s.img) (hr : roomFor n s) : roomFor n t :=
  fun x hx => hr x (h ▸ hx)

/-- The image that a slot's content makes up has the name and the form that PROGRAM_END asks of it, and its digests. -/
def imageSound (r : Reader) (n : ImgName) (m : Nat) : Prop :=
  imageShape r = true ∧ rdNat r 6 1 = n.1 ∧ rdNat r 8 2 = n.2.1 ∧ rdNat r 10 2 = n.2.2
    ∧ (shardsOf r m).all (shardShape r) = true ∧ (shardsOf r m).find? (fun e => !shardGood r e) = none

/-- The machine with slot `i` VERIFIED by PROGRAM_END: the check counted, what the slot does not store dropped. -/
def slotVerified (s : State) (n : ImgName) (i : Nat) (cat : CatRec) (d : SlotData) : State :=
  rbump (putSlotData (putCat (countVerify s true) { cat with st := .verified }) n i
    (some (keepStored d (storedIndexes (memReader d.bytes) cat.modidx)))) (leadStk s) HLM_PROGRAMS

section ProgramEnd
variable {s : State} {l : Line} {i : Nat} {cat : CatRec} {d : SlotData}

theorem programEnd_of_stale (h : slotHolds s (lineName l) i cat d) (hbegun : programming s (lineName l) i = false) :
    programEnd l s i = (s, 10, 0) := by
  obtain ⟨hcat, hdata⟩ := h
  unfold programEnd
  dsimp only
  rw [hcat, hdata]
  exact if_pos (Or.inr (by rw [hbegun]; rfl))

theorem programEnd_of_uncovered (h : slotHolds s (lineName l) i cat d) (hst : cat.st = .incomplete)
    (hbegun : programming s (lineName l) i = true) {x : Nat}
    (hfirst : firstUncovered d (storedNeeds (memReader d.bytes) cat.modidx) = some x) : programEnd l s i = (s, 3, x) := by
  obtain ⟨hcat, hdata⟩ := h
  unfold programEnd
  dsimp only
  rw [hcat, hdata]
  dsimp only
  rw [if_neg (by simp [hst, hbegun]), hfirst]

theorem programEnd_of_sound (h : slotHolds s (lineName l) i cat d) (hst : cat.st = .incomplete)
    (hbegun : programming s (lineName l) i = true) (hcovered : coveredAll d (memReader d.bytes) cat.modidx)
    (hsigned : signatureGood s (memReader d.bytes) = true)
    (hsound : imageSound (memReader d.bytes) (lineName l) cat.modidx) :
    programEnd l s i = (slotVerified s (lineName l) i cat d, 1, 0) := by
  obtain ⟨hcat, hdata⟩ := h
  obtain ⟨hshape, hkind, hmodel, hadapter, hshards, hdigests⟩ := hsound
  unfold programEnd
  dsimp only
  rw [hcat, hdata]
  dsimp only
  rw [if_neg (by simp [hst, hbegun]), firstUncovered_of_covered hcovered, checkImage_of_good hsigned]
  dsimp only
  rw [if_neg (by decide), if_neg (by simp [hshape, hkind, hmodel, hadapter, hshards]), hdigests]
  rfl

theorem slotVerified_facts (hseq : roomFor 1 s) (hcat : catOf s (lineName l) i = some cat) (d : SlotData) :
    slotState (slotVerified s (lineName l) i cat d) (lineName l) i = .verified
      ∧ slotData (slotVerified s (lineName l) i cat d) (lineName l) i
        = some (keepStored d (storedIndexes (memReader d.bytes) cat.modidx))
      ∧ changesOnly [.img, .regs] s (slotVerified s (lineName l) i cat d) := by
  obtain ⟨hn, hi⟩ := catOf_named hcat
  obtain ⟨_, hcounted, _⟩ := countVerify_facts s true
  have hseq' : roomFor 1 (countVerify s true) := roomFor_img (hcounted .img (by decide)) hseq
  refine ⟨(slotState_img (rbump_img _ _ _ _) _ _).trans (slotState_data1 _ hseq' { cat with st := .verified } _ _ _ hn hi),
    (slotData_img (rbump_img _ _ _ _) _ _).trans (slotData_put _ _ _ _), ?_⟩
  exact only_trans (only_mono hcounted (by decide))
    (only_trans (only_mono (only_img _ _) (by decide)) (only_mono (only_rbump _ _ _ _) (by decide)))

end ProgramEnd

/-! ### BOOTSET -/

/-- The machine with the line's berth booting from slot `j`. -/
def bootRecorded (l : Line) (s : State) (j : Nat) : State :=
  { s with img := { s.img with boots := mapSet (fun _ => none) s.img.boots (lineBerth l) (some ⟨lineName l, j⟩) } }

theorem bootsetCmd_of_base {l : Line} (hkind : lineField l 1 1 = 1) (s : State) (j : Nat) :
    bootsetCmd l s j = if slotUsable s (lineName l) j then (bootRecorded l s j, 1, 0) else (s, 10, 0) :=
  if_neg (not_not_intro hkind)

/-! ### The six commands -/

theorem imageStoreCommands : ImageStoreCommands := by
  intro s l bytes hseq n i len off
  have hseq2 : ∀ op, roomFor 2 (imageTaken s l op) := fun _ => seqRoom_roomFor hseq
  have hseq1 : ∀ op, roomFor 1 (imageTaken s l op) := fun op => roomFor_mono (by decide) (hseq2 op)
  refine ⟨fun hline hi => ⟨fun hst hroom hname => ?begin, fun hst => ?beginActive⟩,
    fun hline hi cat d hcat hdata => ⟨fun hbegun => ?chunkStale,
      fun hst hbegun => ⟨fun halign hlen hlast => ?chunk, fun halign => ?chunkRange⟩⟩,
    fun hline hi cat d hcat hdata => ⟨fun hbegun => ?endStale,
      fun hst hbegun => ⟨fun q hq hless hlow => ?endUncovered,
        fun hcovered hsigned hshape hkind hmodel hadapter hshards hdigests => ?endVerified⟩⟩,
    fun hline hi => ⟨fun husable => ?activate, fun hbad => ?activateRefused⟩,
    fun hline hi => ⟨fun hst => ?eraseActive, fun hst => ?erase⟩,
    fun hline j hj hkind => ⟨fun husable => ?bootset, fun hbad => ?bootsetRefused⟩⟩
  case begin =>
    obtain ⟨hok, hmedia⟩ := acked_plainSlot_or_media hline hi (programBegin_of_open hst hroom hname)
    exact ⟨⟨_, hok, slotOpened_facts l (hseq1 1) i⟩, hmedia⟩
  case beginActive => exact acked_plainSlot hline hi (if_pos hst) (by decide)
  case chunkStale => exact acked_plainSlot hline hi (programChunk_of_stale ⟨hcat, hdata⟩ hbegun bytes) (by decide)
  case chunk =>
    have hplace : ¬ (off % 4096 ≠ 0 ∨ 2 ^ 26 < len ∨ cat.length < off + len) := by omega
    obtain ⟨hok, hmedia⟩ := acked_plainSlot_or_media hline hi
      ((programChunk_of_begun ⟨hcat, hdata⟩ hst hbegun bytes).trans (if_neg hplace))
    exact ⟨⟨_, chunkWritten d bytes off len, hok, slotData_put _ n i _, rfl, coverChunk_covered _ halign len,
      only_putSlotData _ n i _⟩, hmedia⟩
  case chunkRange =>
    exact acked_plainSlot hline hi
      ((programChunk_of_begun ⟨hcat, hdata⟩ hst hbegun bytes).trans (if_pos (Or.inl halign))) (by decide)
  case endStale => exact acked_plainSlot hline hi (programEnd_of_stale ⟨hcat, hdata⟩ hbegun) (by decide)
  case endUncovered =>
    exact acked_plainSlot hline hi
      (programEnd_of_uncovered ⟨hcat, hdata⟩ hst hbegun (firstUncovered_of_lowest hq hless hlow)) (by decide)
  case endVerified =>
    have hsound : imageSound (memReader d.bytes) n cat.modidx := ⟨hshape, hkind, hmodel, hadapter, hshards, hdigests⟩
    obtain ⟨hok, hmedia⟩ := acked_plainSlot_or_media hline hi
      (programEnd_of_sound ⟨hcat, hdata⟩ hst hbegun hcovered hsigned hsound)
    exact ⟨⟨_, hok, slotVerified_facts (hseq1 3) hcat d⟩, hmedia⟩
  case activate =>
    obtain ⟨hok, hmedia⟩ := acked_plainSlot_or_media (f := activateCmd l) hline hi (if_pos husable)
    exact ⟨⟨_, hok, activate_facts _ (hseq2 4) n i hi husable⟩, hmedia⟩
  case activateRefused =>
    exact acked_plainSlot (f := activateCmd l) hline hi (if_neg (Bool.not_eq_true _ ▸ hbad)) (by decide)
  case eraseActive => exact acked_plainSlot hline hi (eraseCmd_of_active hst) (by decide)
  case erase =>
    obtain ⟨t, herase, hempty, honly⟩ := eraseCmd_empties (hseq2 5) hst
    obtain ⟨hok, hmedia⟩ := acked_plainSlot_or_media hline hi herase
    exact ⟨⟨t, hok, hempty, honly⟩, hmedia⟩
  case bootset =>
    obtain ⟨hok, hmedia⟩ := acked_slot_or_media hline hj ((bootsetCmd_of_base hkind _ j).trans (if_pos husable))
    exact ⟨⟨_, hok, mapGet_mapSet_same _ _ _ _, only_img _ _⟩, hmedia⟩
  case bootsetRefused =>
    exact acked_slot hline hj ((bootsetCmd_of_base hkind _ j).trans (if_neg (Bool.not_eq_true _ ▸ hbad))) (by decide)

end Sys2Proof.Claims
end

section
/-!
PROOFS. The image commands of berths and version slots: LOAD, REPLACE, STAGE_ADAPTER (R277, R279, R280, R282, R284, R336).
-/

namespace Sys2Proof.Claims

open Sys2Proof Sys2Proof.Machine

/-! ### LOAD (R277, R279, R336) -/

/-- A berth that takes a LOAD, and a slot whose base image may be loaded in this module, as far as its header says. -/
structure LoadReady (s : State) (n : ImgName) (j b : Nat) (cat : CatRec) (data : SlotData) : Prop where
  state : berthState s b = 0 ∨ berthState s b = 3
  holds : slotHolds s n j cat data
  usable : slotUsable s n j = true
  base : n.1 = 1
  tiles : rdNat (memReader data.bytes) 22 2 ≤ Config.tilesPerStack
  inModule : moduleMatches s (memReader data.bytes) cat.modidx = true

section Load
variable {s : State} {n : ImgName} {j b : Nat} {cat : CatRec} {data : SlotData}

theorem loadBerth_of_enabled (hoff : berthState s b ≠ 0) (hfenced : berthState s b ≠ 3) (n : ImgName) (j : Nat) :
    loadBerth s n j b = (s, 15, 0) := if_pos ⟨hoff, hfenced⟩

theorem loadBerth_of_unusable (hstate : berthState s b = 0 ∨ berthState s b = 3) (hholds : slotHolds s n j cat data)
    (hbad : slotUsable s n j = false) : loadBerth s n j b = (s, 10, 0) := by
  obtain ⟨hcat, hdata⟩ := hholds
  unfold loadBerth
  dsimp only
  rw [if_neg (by omega), hcat, hdata]
  dsimp only
  rw [if_pos (by rw [hbad]; rfl)]

/-- LOAD of a ready slot ends where the check of its image fails, and places the image once it is staged. -/
theorem loadBerth_of_ready (h : LoadReady s n j b cat data) :
    let r := memReader data.bytes
    let m := cat.modidx
    let area := 1 - (berthOf s b).live
    (∀ s2 e, checkModel s r m b area = (s2, .error e) → loadBerth s n j b = (s2, e.1, e.2))
      ∧ ∀ s2 d sp s3, checkModel s r m b area = (s2, .ok d) → fitsModule s2 b d = some sp →
          stageModel s2 r m b area d = (s3, none) → loadBerth s n j b = placeLoaded s3 b (imageIn n j area r d) sp := by
  obtain ⟨hcat, hdata⟩ := h.holds
  have hstate := h.state
  have hhere : ¬ (Config.tilesPerStack < rdNat (memReader data.bytes) 22 2
      ∨ (!moduleMatches s (memReader data.bytes) cat.modidx) = true) := by
    rw [h.inModule]
    simpa using h.tiles
  unfold loadBerth
  dsimp only
  rw [if_neg (by omega), hcat, hdata]
  dsimp only
  rw [if_neg (by rw [h.usable]; decide), if_neg (not_not_intro h.base), if_neg hhere]
  refine ⟨fun s2 e hcheck => ?failed, fun s2 d sp s3 hcheck hfits hstaged => ?staged⟩
  case failed => rw [hcheck]
  case staged =>
    rw [hcheck]
    dsimp only
    rw [hfits]
    dsimp only
    rw [hstaged]

end Load

/-- An image of this module alone is placed at once. -/
theorem placeLoaded_of_alone {im : BerthImage} (h : im.steady.modules.length ≤ 1) (s : State) (b : Nat)
    (sp : List (Nat × Nat)) : placeLoaded s b im sp = (rbump (placeImage s b im sp) (leadStk s) HLM_LOADS, 1, 0) := if_pos h

/-- One that spans modules is kept until they agree, its version told to the lowest-numbered of them (R336). -/
theorem placeLoaded_of_spanning {im : BerthImage} (h : 1 < im.steady.modules.length) (s : State) (b : Nat)
    (sp : List (Nat × Nat)) : placeLoaded s b im sp =
      (let s1 := putBerth s b { berthOf s b with next := some im, spares := sp }
      let host := lowestOf s im.steady.modules
      (if host = moduleNo s then s1 else sendHelm s1 [.version host b im.version], 0, 0)) := if_neg (Nat.not_le.mpr h)

/-- A command whose operation waits for the berth's other modules writes no ACK yet (R336). -/
theorem imageCommand_awaits {s t : State} {l : Line} {op d : Nat} {f : State → ImgDone} (h : imageLine s l op)
    (hf : f (imageTaken s l op) = (t, 0, d)) : imageCommand s l op false f = awaitVersions t (lineBerth l) l.addr := by
  obtain ⟨hnew, haddr, hop, hlegal, hfree⟩ := h
  unfold imageCommand
  rw [if_pos (by rw [hnew, hfree]; simp [haddr, hop])]
  dsimp only
  rw [if_pos hlegal]
  unfold imageTaken at hf
  rw [hf]
  exact if_pos rfl

/-! ### REPLACE (R284) -/

/-- A running berth without a crossing, and a slot whose base image may replace the one it holds. -/
structure ReplaceReady (s : State) (n : ImgName) (j b : Nat) (old : BerthImage) (cat : CatRec) (r : Reader) : Prop where
  enabled : berthState s b = 1
  idle : xingPhase s = 0
  usable : slotUsable s n j = true
  base : n.1 = 1
  model : n.2.1 = old.name.2.1
  crossing : rdNat r 7 1 = 1
  replaces : rdNat r 16 4 = rget s (leadStk s) HLM_BVER_VERSION b
  tiles : rdNat r 22 2 ≤ Config.tilesPerStack
  inModule : moduleMatches s r cat.modidx = true

theorem replaceCode_of_ready {s : State} {n : ImgName} {j b : Nat} {old : BerthImage} {cat : CatRec} {r : Reader}
    (h : ReplaceReady s n j b old cat r) : replaceCode s n j b old cat r = none := by
  have hfits : ¬ (n.2.1 ≠ old.name.2.1 ∨ rdNat r 7 1 ≠ 1 ∨ rdNat r 16 4 ≠ rget s (leadStk s) HLM_BVER_VERSION b
      ∨ Config.tilesPerStack < rdNat r 22 2 ∨ (!moduleMatches s r cat.modidx) = true) := by
    rw [h.inModule]
    simpa [h.model, h.crossing, h.replaces] using h.tiles
  unfold replaceCode
  rw [if_neg (by simp [h.enabled, h.idle]), if_neg (by rw [h.usable]; decide), if_neg (not_not_intro h.base), if_neg hfits]

section Replace
variable {s : State} {n : ImgName} {j b : Nat} {old : BerthImage} {cat : CatRec} {data : SlotData}

theorem replaceBerth_of_busy (hold : (berthOf s b).image = some old) (hholds : slotHolds s n j cat data)
    (hbusy : berthState s b ≠ 1 ∨ xingPhase s ≠ 0) : replaceBerth s n j b = (s, 15, 0) := by
  obtain ⟨hcat, hdata⟩ := hholds
  have hcode : replaceCode s n j b old cat (memReader data.bytes) = some 15 := if_pos hbusy
  unfold replaceBerth
  rw [hold, hcat, hdata]
  dsimp only
  rw [hcode]

theorem replaceBerth_of_staged {s2 s3 : State} {d : Decoded} {sp : List (Nat × Nat)}
    (hold : (berthOf s b).image = some old) (hholds : slotHolds s n j cat data)
    (hready : ReplaceReady s n j b old cat (memReader data.bytes))
    (hcheck : checkModel s (memReader data.bytes) cat.modidx b (1 - old.area) = (s2, .ok d))
    (hcross : crossingFits old.steady d = true) (hfits : fitsModule s2 b d = some sp)
    (hstaged : stageModel s2 (memReader data.bytes) cat.modidx b (1 - old.area) d = (s3, none)) :
    replaceBerth s n j b = (armCrossing s3 b (imageIn n j (1 - old.area) (memReader data.bytes) d) sp, 1, 0) := by
  obtain ⟨hcat, hdata⟩ := hholds
  unfold replaceBerth
  rw [hold, hcat, hdata]
  dsimp only
  rw [replaceCode_of_ready hready]
  dsimp only
  rw [hcheck]
  dsimp only
  rw [if_pos hcross, hfits]
  dsimp only
  rw [hstaged]

end Replace

section Arm
variable (s : State) (b : Nat) (im : BerthImage) (sp : List (Nat × Nat))

/-- Arming a crossing writes HLM_EVENT and HLM_XING of the lead Helm. -/
theorem armCrossing_regs : regsBut [(leadStk s, HLM_EVENT_EVENT.off), (leadStk s, HLM_XING_BERTH.off)] s
    (armCrossing s b im sp) :=
  regsBut_trans (regsBut_trans (t := countEvent _) (regsBut_rputm s (leadStk s) HLM_EVENT_EVENT _ _ (by simp))
    (regsBut_rputm _ _ HLM_XING_BERTH b _ (by simp)))
    (regsBut_rputm _ _ HLM_XING_PHASE 1 _ (by simp [HLM_XING_BERTH, HLM_XING_PHASE]))

theorem leadStk_armCrossing : leadStk (armCrossing s b im sp) = leadStk s := by
  refine leadStk_of_regsBut (armCrossing_regs s b im sp) fun q hq k => ?_
  unfold regKey
  rcases List.mem_pair.mp hq with rfl | rfl
  · dsimp only [HLM_EVENT_EVENT]
    omega
  · dsimp only [HLM_XING_BERTH]
    omega

theorem xingPhase_armCrossing : xingPhase (armCrossing s b im sp) = 1 := by
  unfold xingPhase
  rw [leadStk_armCrossing]
  exact rget_rput_same1 _ _ HLM_XING_PHASE 1 (by decide) (by decide)

theorem xingBerth_armCrossing (hb : b < 16) : xingBerth (armCrossing s b im sp) = b := by
  unfold xingBerth
  rw [leadStk_armCrossing]
  exact (rget_rput_ne _ _ _ _ _ (by decide) (by decide)).trans (rget_rput_same1 _ _ HLM_XING_BERTH b (by decide) hb)

/-- Arming is one event of the event order (R276). -/
theorem event_armCrossing :
    rget (armCrossing s b im sp) (leadStk s) HLM_EVENT_EVENT = (rget s (leadStk s) HLM_EVENT_EVENT + 1) % 2 ^ 32 :=
  (rget_rput_ne _ _ _ _ _ (by decide) (by decide)).trans
    ((rget_rput_ne _ _ _ _ _ (by decide) (by decide)).trans (rbump_same _ _ HLM_EVENT_EVENT 1 (by decide)))

/-- The berth holds the new image as the next one, and its spares beside the old. -/
theorem berthOf_armCrossing (hb : b < s.serve.berths.length) : berthOf (armCrossing s b im sp) b =
    { berthOf s b with
      next := some im
      spares := (berthOf s b).spares ++ sp.filter fun q => !(berthOf s b).spares.contains q } :=
  berthOf_putBerth s b _ hb

theorem armCrossing_only : changesOnly [.regs, .serve] s (armCrossing s b im sp) :=
  only_trans (only_mono (only_serve s _) (by decide)) (only_mono
    (only_trans (only_rbump _ _ HLM_EVENT_EVENT 1) (only_trans (only_rput _ _ _ _ _) (only_rput _ _ _ _ _))) (by decide))

end Arm

/-- What is appended to a list, less what it holds already, is in it. -/
theorem mem_append_filter_new {α : Type} [BEq α] [LawfulBEq α] (xs ys : List α) (q : α) :
    q ∈ xs ++ ys.filter (fun y => !xs.contains y) ↔ q ∈ xs ∨ q ∈ ys := by
  by_cases h : q ∈ xs <;> simp [h]

/-! ### STAGE_ADAPTER (R282) -/

/-- A free version slot `v`, and a slot whose adapter image may be staged there, with its signature, form and digests. -/
structure AdapterReady (s : State) (n : ImgName) (j v : Nat) (cat : CatRec) (r : Reader) : Prop where
  count : v < rget s (leadStk s) HLM_ADP_CFG_COUNT
  free : vslotAt s v = none
  usable : slotUsable s n j = true
  adapter : n.1 = 2
  inModule : moduleMatches s r cat.modidx = true
  small : (directory r).any (fun e => rget s (leadStk s) HLM_ADP_CFG_SIZE * 65536 < e.stage) = false
  apart : overlapsChart s (imageStacks r cat.modidx) (vslotBase s v) (rget s (leadStk s) HLM_ADP_CFG_SIZE * 65536) = false
  signed : (checkImage s r).2 = true
  shape : imageShape r = true
  shards : (shardsOf r cat.modidx).all (shardShape r) = true
  digests : (stageAll (checkImage s r).1 r cat.modidx (vslotBase s v)).2 = none

section Stage
variable {s : State} {n : ImgName} {j v : Nat} {cat : CatRec} {data : SlotData}

theorem stageAdapter_of_taken (hholds : slotHolds s n j cat data) (hcount : v < rget s (leadStk s) HLM_ADP_CFG_COUNT)
    (htaken : vslotAt s v ≠ none) : stageAdapter s n j v = (s, 10, 0) := by
  obtain ⟨hcat, hdata⟩ := hholds
  have hsome : (mapGet (fun _ => none) s.serve.vslots v).isSome = true := Option.isSome_iff_ne_none.mpr htaken
  unfold stageAdapter
  rw [hcat, hdata]
  dsimp only
  rw [if_neg (Nat.not_le.mpr hcount), if_pos (Or.inl hsome)]

theorem stageAdapter_of_ready (hholds : slotHolds s n j cat data) (h : AdapterReady s n j v cat (memReader data.bytes)) :
    stageAdapter s n j v =
      (putVslot (stageAll (checkImage s (memReader data.bytes)).1 (memReader data.bytes) cat.modidx (vslotBase s v)).1 v
        ⟨.staged, n.2.2, n.2.1, rdNat (memReader data.bytes) 12 4⟩, 1, 0) := by
  obtain ⟨hcat, hdata⟩ := hholds
  have hfree : mapGet (fun _ => none) s.serve.vslots v = none := h.free
  unfold stageAdapter
  rw [hcat, hdata]
  dsimp only
  rw [if_neg (Nat.not_le.mpr h.count), if_neg (by simp [hfree, h.usable]), if_neg (not_not_intro h.adapter),
    if_neg (by simp [h.inModule]), if_neg (by rw [h.small, h.apart]; decide), if_neg (by rw [h.signed]; decide),
    if_neg (by simp [h.shape, h.shards]), h.digests, putVslot]

end Stage

/-! ### The three commands -/

/-- The berth of a command line in range is one of the 16. -/
theorem lineBerth_lt {s : State} {l : Line} {op : Nat} (h : imageLine s l op) : lineBerth l < 16 := by
  obtain ⟨_, _, _, hlegal, _⟩ := h
  simp only [imgLineLegal, Bool.and_eq_true, decide_eq_true_eq] at hlegal
  omega

theorem imageLoadCommands : ImageLoadCommands := by
  intro s l j cat data n b r m
  refine ⟨fun hline hj => ⟨fun hoff hfenced => ?enabled, fun hstate hcat hdata => ⟨fun hbad => ?unusable,
    fun husable hbase htiles hmodule => ?ready⟩⟩,
    fun hline hj old hold hcat hdata => ⟨fun hbusy => ?busy, fun henabled hidle husable hbase hmodel hcrossing hreplaces
      htiles hmodule s2 d sp s3 hcheck hcross hfits hstaged hlen => ?replace⟩,
    fun hline hj hcat hdata hcount => ⟨fun htaken => ?taken, fun hfree husable hadapter hmodule hsmall hapart hsigned hshape
      hshards hdigests => ?stage⟩⟩
  case enabled => exact acked_slot hline hj (loadBerth_of_enabled hoff hfenced n j) (by decide)
  case unusable => exact acked_slot hline hj (loadBerth_of_unusable hstate ⟨hcat, hdata⟩ hbad) (by decide)
  case ready =>
    obtain ⟨hfailed, hplaced⟩ := loadBerth_of_ready ⟨hstate, ⟨hcat, hdata⟩, husable, hbase, htiles, hmodule⟩
    refine ⟨fun s2 e hcheck he => ?error, fun s2 d sp s3 hcheck hfits hstaged => ?placed⟩
    case error => exact acked_slot hline hj (hfailed s2 e hcheck) (by omega)
    case placed =>
      have hload := hplaced s2 d sp s3 hcheck hfits hstaged
      refine ⟨fun halone => ?alone, fun hspans => ?spanning⟩
      case alone => exact acked_slot_or_media hline hj (hload.trans (placeLoaded_of_alone halone s3 b sp))
      case spanning =>
        have hwaits := hload.trans (placeLoaded_of_spanning hspans s3 b sp)
        exact congrArg Host.Outcome.next (imageCommand_awaits hline ((resolved l _ _ j hj).trans hwaits))
  case busy => exact acked_slot hline hj (replaceBerth_of_busy hold ⟨hcat, hdata⟩ hbusy) (by decide)
  case replace =>
    have hready : ReplaceReady (imageTaken s l 8) n j b old cat r :=
      ⟨henabled, hidle, husable, hbase, hmodel, hcrossing, hreplaces, htiles, hmodule⟩
    obtain ⟨hok, hmedia⟩ := acked_slot_or_media (f := fun s i => replaceBerth s n i b) hline hj
      (replaceBerth_of_staged hold ⟨hcat, hdata⟩ hready hcheck hcross hfits hstaged)
    have hberth := berthOf_armCrossing s3 b (imageIn n j (1 - old.area) r d) sp hlen
    exact ⟨⟨_, hok, by rw [hberth], by rw [hberth], fun q => by rw [hberth]; exact mem_append_filter_new _ _ q,
      xingPhase_armCrossing _ _ _ _, xingBerth_armCrossing _ _ _ _ (lineBerth_lt hline), event_armCrossing _ _ _ _,
      armCrossing_only _ _ _ _⟩, hmedia⟩
  case taken => exact acked_slot hline hj (stageAdapter_of_taken ⟨hcat, hdata⟩ hcount htaken) (by decide)
  case stage =>
    have hready : AdapterReady (imageTaken s l 7) n j (lineField l 12 2) cat r :=
      ⟨hcount, hfree, husable, hadapter, hmodule, hsmall, hapart, hsigned, hshape, hshards, hdigests⟩
    obtain ⟨hok, hmedia⟩ := acked_slot_or_media (f := fun s i => stageAdapter s n i (lineField l 12 2)) hline hj
      (stageAdapter_of_ready ⟨hcat, hdata⟩ hready)
    exact ⟨⟨_, hok, vslotAt_putVslot _ _ _, only_serve _ _⟩, hmedia⟩

/-- Settles O25: each command's clauses are the branches of its operation on the slot named, and a success is MEDIA where
NAND reports an error (`acked_plainSlot_or_media`, `acked_slot_or_media`). -/
theorem imageCommands : Obligations.ImageCommands := ⟨imageStoreCommands, imageLoadCommands⟩

end Sys2Proof.Claims
end

section
/-!
PROOFS. The step (log 1), the alert line (R445), and what reset leaves.
-/

namespace Sys2Proof.Claims

open Sys2Proof Sys2Proof.Machine

/-! ### The step -/

/-- Settles O54, by the two equations of `step`, one for each shape of the queue. -/
theorem stepRunsFront : Obligations.StepRunsFront :=
  ⟨fun _ _ _ => step_of_pending_cons, fun s c => step_of_pending_cons (s := s.withCommand c) rfl,
    fun _ => step_of_pending_nil⟩

/-! ### The alert line (R445) -/

/-- The line is low where the words of BNC_ALERT and BNC_ALERT_EN have a bit in common. -/
theorem balertN_eq_false_iff (s : State) :
    balertN s = false ↔ rword s 0 BNC_ALERT_ALERTS.off &&& rword s 0 BNC_ALERT_EN_EN.off ≠ 0 :=
  decide_eq_false_iff_not

/-- Two words have a set bit in common just when their conjunction is not 0. -/
theorem and_ne_zero_iff_common_bit (x y : Word) :
    x &&& y ≠ 0 ↔ ∃ i, x.getLsbD i = true ∧ y.getLsbD i = true := by
  constructor
  · intro hne
    by_contra hnone
    refine hne (BitVec.eq_of_getLsbD_eq fun i _ => ?_)
    have hi : ¬ (x.getLsbD i = true ∧ y.getLsbD i = true) := fun h => hnone ⟨i, h⟩
    simpa using hi
  · rintro ⟨i, hx, hy⟩ hzero
    have hbit : (x &&& y).getLsbD i = true := by simp [hx, hy]
    rw [hzero] at hbit
    simp at hbit

/-- Settles O59: BALERT_N compares the conjunction of the two words with 0 (`and_ne_zero_iff_common_bit`). -/
theorem alertLine : Obligations.AlertLine := fun s =>
  (balertN_eq_false_iff s).trans (and_ne_zero_iff_common_bit _ _)

/-! ### Reset -/

theorem tileAt_reset (k site : Nat) : tileAt State.reset k site = Tile.reset := rfl

/-- Settles O60: a register that reset leaves unwritten reads its block's reset word, and a tile it leaves unwritten is
`Tile.reset`. -/
theorem resetState : Obligations.ResetState := by
  unfold Obligations.ResetState
  refine ⟨?safe, rfl, fun _ => rfl, ?stackRegs, ?ports, ?plls, ?module, fun k site => ?tile⟩
  case safe => decide +kernel
  case stackRegs => decide +kernel
  case ports => decide +kernel
  case plls => decide +kernel
  case module => decide +kernel
  case tile =>
    rw [tileAt_reset]
    exact ⟨fun _ => rfl, by decide +kernel, by decide +kernel, by decide +kernel, rfl, rfl⟩

end Sys2Proof.Claims
end

section
/-!
PROOFS. How what a chain of steps touches is put together, one step after the other.
-/

namespace Sys2Proof.Claims

open Sys2Proof Sys2Proof.Machine

theorem only_then {ps qs : List Component} {s t u : State} (h : changesOnly ps s t) (hu : changesOnly qs t u)
    (hsub : ∀ p ∈ qs, p ∈ ps) : changesOnly ps s u :=
  only_trans h (only_mono hu hsub)

theorem regs_then {l l' : List (Nat × Nat)} {s t u : State} (h : regsBut l s t) (hu : regsBut l' t u)
    (hsub : ∀ q ∈ l', q ∈ l) : regsBut l s u :=
  regsBut_trans h (regsBut_mono hu hsub)

/-- A step that writes no register leaves what a chain touches. -/
theorem regs_then_same {l : List (Nat × Nat)} {s t u : State} (h : regsBut l s t) (hu : u.regs = t.regs) : regsBut l s u :=
  regsBut_trans h (regsBut_of_regs hu l)

end Sys2Proof.Claims
end

section
/-!
PROOFS. Fleet discovery: DISCOVER, hail and numbers records, the settling of a round (R316 to R319, R337, R341).
-/

namespace Sys2Proof.Claims

open Sys2Proof Sys2Proof.Machine

/-! ### The start of a discovery (R316, R337, R341) -/

/-- The machine as a discovery at ROUND `r` begins: HINT shown, advances from 0, no holdover. -/
def discoveryOpened (s : State) (r : Nat) : State :=
  let h := if ron s 0 FLT_MOD_VALID then some (moduleNo s) else s.fleet.hint
  let s1 := rput s 0 FLT_MOD_HINT (match h with
    | some x => x.toNat
    | none => 0)
  let s2 := { s1 with fleet := { s1.fleet with advances := 0, hails := [] } }
  rput (fltAll (fltAll s2 FLT_STATUS_ROUND r) FLT_STATUS_PILOT 0) 0 CHR_STATUS_HOLDOVER 0

theorem beginDiscovery_eq (s : State) (r : Nat) (training : Bool) :
    beginDiscovery s r training = trainOrHail (discoveryOpened s r) training := rfl

theorem discoveryOpened_fleet (s : State) (r : Nat) :
    (discoveryOpened s r).fleet = { s.fleet with advances := 0, hails := [] } := rfl

theorem discoveryOpened_only (s : State) (r : Nat) : changesOnly [.regs, .fleet] s (discoveryOpened s r) :=
  only_then (only_then (only_then (only_then (only_mono (only_rput _ _ _ _ _) (by decide)) (only_fleet _ _) (by decide))
    (only_fltAll _ _ _) (by decide)) (only_fltAll _ _ _) (by decide)) (only_rput _ _ _ _ _) (by decide)

/-- What DISC then shows leaves ROUND, HINT and HOLDOVER as the start wrote them. -/
theorem discoveryOpened_regs (s : State) (r v : Nat) (hr : r < 256) :
    let t := fltAll (discoveryOpened s r) FLT_STATUS_DISC v
    (ron s 0 FLT_MOD_VALID = true → rget t 0 FLT_MOD_HINT = (moduleNo s).toNat)
      ∧ rget t 0 FLT_STATUS_ROUND = r ∧ rget t 0 CHR_STATUS_HOLDOVER = 0 := by
  refine ⟨fun hvalid => ?hint, ?round, ?holdover⟩
  case hint =>
    unfold discoveryOpened
    rw [if_pos hvalid, rget_fltAll_off _ _ _ _ rfl (by decide), rget_rput_ne _ _ _ _ _ rfl (by decide),
      rget_fltAll_off _ _ _ _ rfl (by decide), rget_fltAll_off _ _ _ _ rfl (by decide)]
    exact rget_rput_same1 s 0 FLT_MOD_HINT _ rfl (moduleNo s).isLt
  case round =>
    unfold discoveryOpened
    rw [rget_fltAll_apart _ _ _ _ rfl rfl, rget_rput_ne _ _ _ _ _ rfl (by decide),
      rget_fltAll_apart _ _ _ _ rfl rfl, rget_fltAll_same _ _ _ rfl hr (by decide) rfl]
  case holdover =>
    rw [rget_fltAll_off _ _ _ _ rfl (by decide)]
    exact rget_rput_same1 _ 0 CHR_STATUS_HOLDOVER 0 rfl (by decide)

/-- DISCOVER while ports train: DISC 1, and no hail yet. -/
theorem trainOrHail_of_training (s : State) (h : s.fleet.hails = []) :
    trainOrHail s true = fltAll s FLT_STATUS_DISC 1 := by
  have hsame : { s with fleet := { s.fleet with hails := [] } } = s := by rw [← h]
  show fltAll { s with fleet := { s.fleet with hails := [] } } FLT_STATUS_DISC 1 = _
  rw [hsame]

theorem execDiscover_of_fleet {s : State} (hreach : portReach s 0 = true) (hon : fleetOn s = true) :
    exec .discover s
      = .next (trainOrHail (discoveryOpened s ((rget s 0 FLT_STATUS_ROUND + 1) % 256)) (portsTrain s)) := by
  show Host.Outcome.next (writeDiscover s) = _
  rw [writeDiscover, if_pos hreach, startDiscovery, if_pos hon, beginDiscovery_eq]

/-- DISCOVER of a module in a fleet begins the next ROUND. -/
theorem discover_begins {s : State} (hreach : portReach s 0 = true) (hon : fleetOn s = true) :
    ∃ s1 t, exec .discover s = .next t
      ∧ s1.fleet.advances = 0 ∧ s1.fleet.hails = []
      ∧ (portsTrain s = false → t = hailAgain s1 ∧ t.fleet.hails = [ownHail s1] ∧ rget s1 0 FLT_STATUS_DISC = 2)
      ∧ (portsTrain s = true → t = s1 ∧ rget s1 0 FLT_STATUS_DISC = 1)
      ∧ changesOnly [.regs, .fleet] s s1
      ∧ (ron s 0 FLT_MOD_VALID = true → rget s1 0 FLT_MOD_HINT = (moduleNo s).toNat)
      ∧ rget s1 0 FLT_STATUS_ROUND = (rget s 0 FLT_STATUS_ROUND + 1) % 256 ∧ rget s1 0 CHR_STATUS_HOLDOVER = 0 := by
  have hround : (rget s 0 FLT_STATUS_ROUND + 1) % 256 < 256 := Nat.mod_lt _ (by decide)
  have honly (v : Nat) := only_trans (discoveryOpened_only s ((rget s 0 FLT_STATUS_ROUND + 1) % 256))
    (only_mono (only_fltAll _ FLT_STATUS_DISC v) (by decide))
  have hdisc (x : State) (v : Nat) (hv : v < 8) : rget (fltAll x FLT_STATUS_DISC v) 0 FLT_STATUS_DISC = v :=
    rget_fltAll_same x FLT_STATUS_DISC v rfl hv (by decide) rfl
  cases htrain : portsTrain s with
  | false =>
    refine ⟨fltAll (discoveryOpened s _) FLT_STATUS_DISC 2, hailAgain (fltAll (discoveryOpened s _) FLT_STATUS_DISC 2),
      ?_, rfl, rfl, fun _ => ⟨rfl, rfl, hdisc _ 2 (by decide)⟩, fun h => Bool.noConfusion h, honly 2,
      discoveryOpened_regs s _ 2 hround⟩
    rw [execDiscover_of_fleet hreach hon, htrain]
    rfl
  | true =>
    refine ⟨_, _, ?_, rfl, rfl, fun h => Bool.noConfusion h, fun _ => ⟨rfl, hdisc _ 1 (by decide)⟩, honly 1,
      discoveryOpened_regs s _ 1 hround⟩
    rw [execDiscover_of_fleet hreach hon, htrain, trainOrHail_of_training _ rfl]

/-! ### Records (R316, R317) -/

theorem execHail_of_up {s : State} {p : BitVec 4} (hup : pget s p.toNat FLT_PORT_STATE = 4) (r : HailRec) :
    exec (.hail p r) s = .next (takeHail s p.toNat r) := by
  show Host.Outcome.next _ = _
  rw [if_pos hup]

theorem takeHail_of_fleet {s : State} (hon : fleetOn s = true) (p : Nat) (r : HailRec) :
    (r.round.toNat < rget s 0 FLT_STATUS_ROUND → takeHail s p r = s)
      ∧ (r.round.toNat = rget s 0 FLT_STATUS_ROUND → takeHail s p r = storeHail s p r)
      ∧ (rget s 0 FLT_STATUS_ROUND < r.round.toNat →
          let s1 := if discovering s then advanceRound s r.round.toNat
            else beginDiscovery s r.round.toNat (portsTrain s)
          takeHail s p r = if rget s1 0 FLT_STATUS_DISC = 5 then s1 else storeHail s1 p r) := by
  have hnot : ¬ (!fleetOn s) = true := by simp [hon]
  unfold takeHail
  dsimp only
  rw [if_neg hnot]
  refine ⟨fun h => ?_, fun h => ?_, fun h => if_pos h⟩
  · rw [if_neg (by omega), if_neg (by omega)]
  · rw [if_neg (by omega), if_pos h]

/-- A hail record of the present ROUND: one already held changes nothing, and a new one is held and forwarded. -/
theorem storeHail_cases (s : State) (p : Nat) (r : HailRec) :
    ((s.fleet.hails.any fun x => x.serial == r.serial) = true → storeHail s p r = s)
      ∧ ((s.fleet.hails.any fun x => x.serial == r.serial) = false → 1024 ≤ s.fleet.hails.length →
          storeHail s p r = fltAll s FLT_STATUS_DISC 5)
      ∧ ((s.fleet.hails.any fun x => x.serial == r.serial) = false → s.fleet.hails.length < 1024 →
          storeHail s p r
            = floodHail { s with fleet := { s.fleet with hails := s.fleet.hails ++ [r], lastNew := s.tick } } r (some p)) := by
  unfold storeHail
  refine ⟨fun h => if_pos h, fun h hfull => ?_, fun h hroom => ?_⟩
  · rw [if_neg (by simp [h]), if_pos hfull]
    rfl
  · rw [if_neg (by simp [h]), if_neg (by omega)]

theorem execNumbers_of_up {s : State} {p : BitVec 4} (hup : pget s p.toNat FLT_PORT_STATE = 4) (r : NumbersRec) :
    exec (.numbers p r) s = .next (takeNumbers s p.toNat r) := by
  show Host.Outcome.next _ = _
  rw [if_pos hup]

/-- A numbers record of the present ROUND, while numbers are awaited. -/
theorem takeNumbers_of_awaited {s : State} (hon : fleetOn s = true) (p : Nat) {r : NumbersRec}
    (hround : r.round.toNat = rget s 0 FLT_STATUS_ROUND)
    (hdisc : rget s 0 FLT_STATUS_DISC = 2 ∨ rget s 0 FLT_STATUS_DISC = 3) :
    takeNumbers s p r = if r.crc ≠ serialCrc (viewSerials s)
      then advanceRound s ((rget s 0 FLT_STATUS_ROUND + 1) % 256) else floodNumbers (acceptNumbers s r) r (some p) := by
  unfold takeNumbers
  dsimp only
  rw [if_neg]
  rintro (h | h | h)
  · simp [hon] at h
  · exact h hround
  · omega

theorem acceptNumbers_advances (s : State) (r : NumbersRec) : (acceptNumbers s r).fleet.advances = 0 := by
  have hneighbours (x : State) : (fillNeighbours x).fleet = x.fleet :=
    (fillNeighbours_frame (fm := [.regs]) x (.refl _ _) (by decide)).fleet.resolve_left (by decide)
  have htopology (x : State) : (writeTopology x).fleet = x.fleet :=
    (writeTopology_frame (fm := [.regs, .vil, .serve]) x (.refl _ _) (by decide)).fleet.resolve_left (by decide)
  have hplaced (x : State) : (placeInTree x).fleet = x.fleet := rfl
  unfold acceptNumbers
  dsimp only
  split
  · rw [rset_fleet, hplaced, fltAll_fleet, htopology, hneighbours, rput_fleet, rput_fleet, rput_fleet]
  · rw [hplaced, fltAll_fleet, htopology, hneighbours, rput_fleet, rput_fleet, rput_fleet]

/-! ### Outside a fleet, and before the view settles -/

/-- With FLEET_EN 0 no discovery command changes anything (notes/assumptions/89.md). -/
theorem discovery_of_fleetOff {s : State} (hoff : fleetOn s = false) (p : BitVec 4) :
    exec .discover s = .next s ∧ (∀ r, exec (.hail p r) s = .next s) ∧ ∀ r, exec (.numbers p r) s = .next s := by
  have hstart : startDiscovery s (portsTrain s) = s := if_neg (by simp [hoff])
  have hhail (r : HailRec) : takeHail s p.toNat r = s := if_pos (by simp [hoff])
  have hnumbers (r : NumbersRec) : takeNumbers s p.toNat r = s := if_pos (.inl (by simp [hoff]))
  refine ⟨?_, fun r => ?_, fun r => ?_⟩
  · show Host.Outcome.next (writeDiscover s) = _
    rw [writeDiscover, hstart, ite_self]
  · show Host.Outcome.next (if _ then takeHail s p.toNat r else s) = _
    rw [hhail, ite_self]
  · show Host.Outcome.next (if _ then takeNumbers s p.toNat r else s) = _
    rw [hnumbers, ite_self]

theorem execDiscoverySettle_of_waiting {s : State} (h : rget s 0 FLT_STATUS_DISC ≠ 2 ∨ portsTrain s = true) :
    exec .discoverySettle s = .next (endTraining s) := by
  refine if_neg fun hsettles => ?_
  rcases h with h | h
  · exact h hsettles.1
  · simp [h] at hsettles

/-- Settles O27: each clause is one branch of the command that it names. -/
theorem fleetDiscovery : Obligations.FleetDiscovery := by
  unfold Obligations.FleetDiscovery
  intro s p
  refine ⟨fun hoff => discovery_of_fleetOff hoff p, discover_begins, fun hup hon r => ?hail,
    execDiscoverySettle_of_waiting, fun hdisc hports => ?settle, fun hup hon r hround hdisc => ?numbers⟩
  case hail =>
    obtain ⟨holder, hsame, hnewer⟩ := takeHail_of_fleet hon p.toNat r
    obtain ⟨hheld, hfull, hnew⟩ := storeHail_cases s p.toNat r
    rw [execHail_of_up hup]
    refine ⟨fun h => congrArg _ (holder h), fun h => ⟨fun hin => ?_, fun hin hroom => ?_, fun hin hmany => ?_⟩,
      fun h => congrArg _ (hnewer h)⟩
    · rw [hsame h, hheld hin]
    · exact ⟨_, congrArg _ ((hsame h).trans (hnew hin hroom)), rfl, rfl, rfl, only_fleet _ _⟩
    · rw [hsame h, hfull hin hmany]
  case settle =>
    intro s1 x l hview
    rw [settle_eq s hdisc hports]
    exact settleView_cases s1 x l hview
  case numbers =>
    rw [execNumbers_of_up hup, takeNumbers_of_awaited hon p.toNat hround hdisc]
    refine ⟨fun hcrc => ⟨?_, acceptNumbers_numbers s r, acceptNumbers_advances s r⟩, fun hcrc => ?_⟩
    · rw [if_neg (not_not_intro hcrc)]
    · rw [if_pos hcrc]

end Sys2Proof.Claims
end

section
/-!
PROOFS. Fleet ports: training, identity and data frames, COMMIT and LOCK (R311, R312, R314 to R316, R325, R326, R337).
-/

namespace Sys2Proof.Claims

open Sys2Proof Sys2Proof.Machine

/-! ### The registers of two ports -/

theorem dieStack_inj : ∀ d, d < 4 → ∀ e, e < 4 → d ≠ e → dieStack d ≠ dieStack e := by decide

/-- The registers of two ports lie on two stacks or at two offsets. -/
theorem portKey_ne {m n : Nat} (hm : m < 16) (hn : n < 16) (hne : m ≠ n) :
    regKey (portStack m) (0x100040 + 4 * (m % 4)) ≠ regKey (portStack n) (0x100040 + 4 * (n % 4)) := by
  by_cases hdie : m / 4 = n / 4
  · unfold portStack
    rw [hdie, Ne, regKey_inj]
    omega
  · exact regKey_ne_stack _ _ _ _ (dieStack_inj _ (by omega) _ (by omega) hdie) (by omega) (by omega)

theorem pget_pput_otherPort (s : State) {m n : Nat} (hm : m < 16) (hn : n < 16) (hne : m ≠ n) (f g : Fld) (v : Nat)
    (hf : f.off = 0x100040 ∧ f.stride = 4) (hg : g.off = 0x100040 ∧ g.stride = 4) (hfits : g.fits = true) :
    pget (pput s n g v) m f = pget s m f := by
  refine rget_rput_other _ _ _ _ _ _ _ _ hfits (.inl ?_)
  rw [hf.1, hf.2, hg.1, hg.2]
  exact portKey_ne hm hn hne

/-! ### A discovery's training ends (R337, notes/assumptions/107.md) -/

theorem endTraining_idle {u : State} (h : rget u 0 FLT_STATUS_DISC ≠ 1 ∨ portsTrain u = true) : endTraining u = u := by
  refine if_neg fun hends => ?_
  rcases h with h | h
  · exact h hends.1
  · simp [h] at hends

theorem endTraining_hails {u : State} (hdisc : rget u 0 FLT_STATUS_DISC = 1) (htrain : portsTrain u = false) :
    ∃ u1, u1 = fltAll u FLT_STATUS_DISC 2
      ∧ rget (endTraining u) 0 FLT_STATUS_DISC = 2 ∧ (endTraining u).fleet.lastNew = u.tick
      ∧ (endTraining u).fleet.hails = ownHail u1 :: u1.fleet.hails.filter (fun r => r.serial != ownSerial u1)
      ∧ (endTraining u).fleet.sentHails = u.fleet.sentHails ++ (upPorts u1).map (fun q => (q, ownHail u1))
      ∧ changesOnly [.regs, .fleet] u (endTraining u) := by
  have hall (l : List Nat) : l.filter (fun q => some q != none) = l := List.filter_eq_self.mpr fun _ _ => rfl
  obtain ⟨u1, hu1⟩ : ∃ u1, u1 = fltAll u FLT_STATUS_DISC 2 := ⟨_, rfl⟩
  have hdisc1 : rget u1 0 FLT_STATUS_DISC = 2 := by
    rw [hu1]
    exact rget_fltAll_same u FLT_STATUS_DISC 2 rfl (by decide) (by decide) rfl
  have hkept : u1.fleet = u.fleet ∧ u1.tick = u.tick := by rw [hu1]; exact ⟨rfl, rfl⟩
  have hends : endTraining u = floodHail { u1 with fleet := { u1.fleet with
      hails := withOwnHail u1, lastNew := u1.tick } } (ownHail u1) none := by
    unfold endTraining
    rw [if_pos ⟨hdisc, by simp [htrain]⟩, ← hu1]
  have honly := only_of_frame (endTraining_frame (fm := [.regs, .fleet]) u (.refl _ _) (by decide))
  rw [floodHail, hall] at hends
  rw [hends] at honly ⊢
  exact ⟨u1, hu1, hdisc1, hkept.2, rfl, by rw [← hkept.1]; rfl, honly⟩

/-! ### EN (R312) -/

theorem execPortEn_of_reach {s : State} {p : BitVec 4} (h : portReach s p.toNat = true) (v : Bool) :
    exec (.portEn p v) s = .next (endTraining (writePortEn s p.toNat v)) :=
  congrArg Host.Outcome.next (if_pos h)

/-- EN 0 of a port: what it leaves of the port, and of a port that was not UP the rest as it was. -/
theorem writePortEn_off {s : State} {n : Nat} (hsafe : SafeParts s) (hn : n < 16) :
    let t := writePortEn s n false
    pget t n FLT_PORT_EN = 0 ∧ pget t n FLT_PORT_STATE = 0
      ∧ pget t n FLT_PORT_CAUSE = 0 ∧ pget t n FLT_PORT_NBRVALID = 0 ∧ (portOf t n).attempts = 0
      ∧ (portOf t n).locked = false ∧ changesOnly [.regs, .net, .fleet] s t
      ∧ (pget s n FLT_PORT_STATE ≠ 4 → regsBut [portWord n] s t ∧ t.net = s.net) := by
  obtain ⟨w, hw⟩ : ∃ w : PortSt, w = { portOf (leaveUp s n) n with
    attempts := 0, locked := false, retrain := false, eqStored := false, sentId := none } := ⟨_, rfl⟩
  have hcleared : writePortEn s n false = pput (pput (pput (pput (putPort (leaveUp s n) n w) n FLT_PORT_EN 0)
      n FLT_PORT_STATE 0) n FLT_PORT_CAUSE 0) n FLT_PORT_NBRVALID 0 := by rw [hw]; rfl
  have hports : n < (leaveUp s n).fleet.ports.length := by
    rw [((leaveUp_frame (fm := [.regs, .net, .fleet]) s n (.refl _ _) (by decide)).safe hsafe).fleet]
    exact hn
  have hport : portOf (writePortEn s n false) n = w := by
    rw [hcleared, portOf_pput, portOf_pput, portOf_pput, portOf_pput, portOf_putPort _ _ _ hports]
  intro t
  refine ⟨?en, ?state, ?cause, ?valid, ?attempts, ?locked, ?only, fun hup => ?frame⟩
  case en =>
    show pget (writePortEn s n false) n FLT_PORT_EN = 0
    rw [hcleared, pget_pput_apart _ _ _ _ _ rfl rfl, pget_pput_apart _ _ _ _ _ rfl rfl,
      pget_pput_apart _ _ _ _ _ rfl rfl, pget_pput_lt _ _ _ _ rfl (by decide)]
  case state =>
    show pget (writePortEn s n false) n FLT_PORT_STATE = 0
    rw [hcleared, pget_pput_apart _ _ _ _ _ rfl rfl, pget_pput_apart _ _ _ _ _ rfl rfl,
      pget_pput_lt _ _ _ _ rfl (by decide)]
  case cause =>
    show pget (writePortEn s n false) n FLT_PORT_CAUSE = 0
    rw [hcleared, pget_pput_apart _ _ _ _ _ rfl rfl, pget_pput_lt _ _ _ _ rfl (by decide)]
  case valid =>
    show pget (writePortEn s n false) n FLT_PORT_NBRVALID = 0
    rw [hcleared, pget_pput_lt _ _ _ _ rfl (by decide)]
  case attempts =>
    show (portOf (writePortEn s n false) n).attempts = 0
    rw [hport, hw]
  case locked =>
    show (portOf (writePortEn s n false) n).locked = false
    rw [hport, hw]
  case only => exact only_of_frame (writePortEn_frame (fm := [.regs, .net, .fleet]) s n false (.refl _ _) (by decide))
  case frame =>
    have hstays : leaveUp s n = s := if_pos hup
    rw [hstays] at hcleared
    show regsBut [portWord n] s (writePortEn s n false) ∧ (writePortEn s n false).net = s.net
    rw [hcleared]
    refine ⟨?_, rfl⟩
    have hput (x : State) (f : Fld) (ho : f.off = 0x100040) (hs : f.stride = 4) : regsBut [portWord n] x (pput x n f 0) :=
      regsBut_pput x n f 0 ho hs
    exact regsBut_trans (regsBut_trans (regsBut_trans (regsBut_trans (regsBut_of_regs rfl _) (hput _ _ rfl rfl))
      (hput _ _ rfl rfl)) (hput _ _ rfl rfl)) (hput _ _ rfl rfl)

/-! ### A step of training (R312) -/

/-- A port's new state, with its record `v`, leaves the other ports and registers. -/
theorem portStep_facts {s : State} {n st : Nat} (hports : n < s.fleet.ports.length) (hst : st < 8) (v : PortSt) :
    pget (pput (putPort s n v) n FLT_PORT_STATE st) n FLT_PORT_STATE = st
      ∧ portOf (pput (putPort s n v) n FLT_PORT_STATE st) n = v
      ∧ (∀ m, m ≠ n → portOf (pput (putPort s n v) n FLT_PORT_STATE st) m = portOf s m)
      ∧ regsBut [portWord n] s (pput (putPort s n v) n FLT_PORT_STATE st)
      ∧ changesOnly [.regs, .fleet] s (pput (putPort s n v) n FLT_PORT_STATE st) :=
  ⟨pget_pput_lt _ _ _ _ rfl hst, portOf_putPort s n v hports, fun m hm => portOf_putPort_ne s n m v hm,
    regsBut_trans (regsBut_of_regs rfl _) (regsBut_pput _ _ _ _ rfl rfl),
    only_then (only_mono (only_putPort s n v) (by decide)) (only_pput _ _ _ _) (by decide)⟩

/-- A limit exceeded in EQ, ALIGN or IDENT, outside a retrain: the attempt counts, and the third in a row locks. -/
theorem trainingLimit_fails {s : State} {p : BitVec 4} (hports : p.toNat < s.fleet.ports.length)
    (hlow : 1 ≤ pget s p.toNat FLT_PORT_STATE) (hhigh : pget s p.toNat FLT_PORT_STATE ≤ 3)
    (hfirst : (portOf s p.toNat).retrain = false) (lanes : BitVec 8) :
    let n := p.toNat
    ∃ t, exec (.trainingLimit p lanes) s = .next (endTraining t) ∧ pget t n FLT_PORT_STATE = 0
      ∧ (portOf t n).attempts = (portOf s n).attempts + 1
      ∧ ((portOf s n).attempts < 2 → (portOf t n).locked = (portOf s n).locked
          ∧ pget t n FLT_PORT_CAUSE = limitCause (pget s n FLT_PORT_STATE) (pget s n FLT_PORT_CAUSE) ∧ t.log = s.log)
      ∧ (2 ≤ (portOf s n).attempts → (portOf t n).locked = true ∧ pget t n FLT_PORT_CAUSE = 6
          ∧ t.log = { s.log with extra := s.log.extra ++ [(8, s.tick)] })
      ∧ regsBut [portWord n] s t ∧ changesOnly [.regs, .fleet, .log] s t := by
  intro n
  obtain ⟨v, hv⟩ : ∃ v : PortSt, v = { portOf s n with
    attempts := (portOf s n).attempts + 1, retrain := false, sentId := none } := ⟨_, rfl⟩
  have hput : n < (putPort s n v).fleet.ports.length := by
    rw [putPort, List.length_set]
    exact hports
  have hport : portOf (putPort s n v) n = v := portOf_putPort s n v hports
  have hcause : limitCause (pget s n FLT_PORT_STATE) (pget s n FLT_PORT_CAUSE) < 8 := by
    have hlt : pget s n FLT_PORT_CAUSE < 8 := rget_lt _ _ _ _
    unfold limitCause
    split
    · decide
    · split
      · decide
      · exact hlt
  have hexec : exec (.trainingLimit p lanes) s = .next (endTraining (if 3 ≤ (portOf s n).attempts + 1
      then lockPort (putPort s n v) n 0 6
      else pput (pput (putPort s n v) n FLT_PORT_STATE 0) n FLT_PORT_CAUSE
        (limitCause (pget s n FLT_PORT_STATE) (pget s n FLT_PORT_CAUSE)))) := by
    show execTrainingLimit p lanes s = _
    unfold execTrainingLimit
    dsimp only
    rw [if_pos (by omega), hfirst, hv]
    rfl
  by_cases hthird : 2 ≤ (portOf s n).attempts
  · rw [if_pos (by omega)] at hexec
    obtain ⟨hstate, hsix, hlocked, hregs, honly⟩ := lockPort_facts (putPort s n v) n 0 6 hput (by decide) (by decide)
    have hkept : (portOf (lockPort (putPort s n v) n 0 6) n).attempts = (portOf s n).attempts + 1 := by
      show (portOf (putPort (putPort s n v) n { portOf (putPort s n v) n with locked := true, retrain := false }) n).attempts = _
      rw [portOf_putPort _ _ _ hput, hport, hv]
    exact ⟨_, hexec, hstate, hkept, fun h => absurd h (by omega), fun _ => ⟨hlocked, hsix, rfl⟩,
      regsBut_trans (regsBut_of_regs rfl _) hregs, only_trans (only_mono (only_putPort s n v) (by decide)) honly⟩
  · rw [if_neg (by omega)] at hexec
    refine ⟨_, hexec, ?_, ?_, fun _ => ⟨?_, pget_pput_lt _ _ _ _ rfl hcause, rfl⟩, fun h => absurd h hthird,
      regsBut_trans (regsBut_trans (regsBut_of_regs rfl _) (regsBut_pput _ _ _ _ rfl rfl)) (regsBut_pput _ _ _ _ rfl rfl),
      only_then (only_then (only_mono (only_putPort s n v) (by decide)) (only_pput _ _ _ _) (by decide)) (only_pput _ _ _ _) (by decide)⟩
    · rw [pget_pput_apart _ _ _ _ _ rfl rfl, pget_pput_lt _ _ _ _ rfl (by decide)]
    · rw [portOf_pput, portOf_pput, hport, hv]
    · rw [portOf_pput, portOf_pput, hport, hv]

theorem fleetPortTraining : FleetPortTraining := by
  intro s p hsafe n
  have hparts := (machineSafe_iff s).mp hsafe
  have hn : n < 16 := p.isLt
  have hports : n < s.fleet.ports.length := by rw [hparts.fleet]; exact hn
  refine ⟨fun hreach => ⟨?on, ?off, fun hen hstate hlocked => ?detect⟩, fun hstate => ?equalised, fun hstate => ?locked,
    fun hlow hhigh hfirst lanes => trainingLimit_fails hports hlow hhigh hfirst lanes,
    fun u => ⟨endTraining_idle, endTraining_hails⟩⟩
  case on =>
    exact ⟨_, execPortEn_of_reach hreach true, pget_pput_lt _ _ _ _ rfl (by decide),
      pget_pput_apart _ _ _ _ _ rfl rfl, regsBut_pput _ _ _ _ rfl rfl, only_pput _ _ _ _⟩
  case off => exact ⟨_, execPortEn_of_reach hreach false, writePortEn_off hparts hn⟩
  case detect =>
    exact ⟨_, congrArg Host.Outcome.next (if_pos ⟨hreach, hen, hstate, by rw [show (portOf s p.toNat).locked = false from hlocked]; rfl⟩),
      pget_pput_lt _ _ _ _ rfl (by decide), (pget_pput_apart _ _ _ _ _ rfl rfl).trans hen,
      regsBut_pput _ _ _ _ rfl rfl, only_pput _ _ _ _⟩
  case equalised =>
    exact ⟨_, congrArg Host.Outcome.next (if_pos hstate), portStep_facts hports (by decide) _⟩
  case locked =>
    exact ⟨_, congrArg Host.Outcome.next (if_pos hstate), portStep_facts hports (by decide) _⟩

/-! ### Identity frames (R314 to R316) -/

theorem execIdentityFrame_of_ident {s : State} {p : BitVec 4} (h : pget s p.toNat FLT_PORT_STATE = 3) (f : Identity) :
    exec (.identityFrame p f) s = .next (if pget (checkIdentity s p.toNat f) p.toNat FLT_PORT_STATE = 4
      then portUp (checkIdentity s p.toNat f) p.toNat else endTraining (checkIdentity s p.toNat f)) :=
  congrArg Host.Outcome.next (if_pos h)

/-- A port refused with a cause (Table 13.2). -/
theorem identityFrame_refused {s : State} {p : BitVec 4} {f : Identity} {c : Nat}
    (hports : p.toNat < s.fleet.ports.length) (h : pget s p.toNat FLT_PORT_STATE = 3) (hc : c < 8)
    (hcheck : checkIdentity s p.toNat f = lockPort s p.toNat 5 c) :
    ∃ t, exec (.identityFrame p f) s = .next (endTraining t) ∧ pget t p.toNat FLT_PORT_STATE = 5
      ∧ pget t p.toNat FLT_PORT_CAUSE = c ∧ (portOf t p.toNat).locked = true ∧ regsBut [portWord p.toNat] s t
      ∧ changesOnly [.regs, .fleet, .log] s t := by
  obtain ⟨hstate, hfacts⟩ := lockPort_facts s p.toNat 5 c hports (by decide) hc
  refine ⟨_, ?_, hstate, hfacts⟩
  rw [execIdentityFrame_of_ident h, hcheck, if_neg (by rw [hstate]; decide)]

/-- One step of `fillNeighbours`: NBRMOD of a port whose neighbour has a number. -/
def fillNeighbour (s : State) (p : Nat) : State :=
  match numberOf s.fleet.numbers (portOf s p).nbr with
  | some x => pput s p FLT_PORT_NBRMOD x.toNat
  | none => s

theorem fillNeighbours_eq (s : State) : fillNeighbours s = (upPorts s).foldl fillNeighbour s := rfl

theorem fillNeighbour_fleet (s : State) (p : Nat) : (fillNeighbour s p).fleet = s.fleet := by
  unfold fillNeighbour
  split <;> rfl

theorem fillNeighbour_regs (s : State) (p : Nat) : regsBut [portWord p] s (fillNeighbour s p) := by
  unfold fillNeighbour
  split
  · exact regsBut_pput _ _ _ _ rfl rfl
  · exact regsBut_refl _ _

theorem fillNeighbour_only (s : State) (p : Nat) : changesOnly [.regs] s (fillNeighbour s p) := by
  unfold fillNeighbour
  split
  · exact only_pput _ _ _ _
  · exact only_refl _ _

/-- A step of `fillNeighbours` leaves every field of a port but NBRMOD. -/
theorem pget_fillNeighbour (s : State) {m p : Nat} (hm : m < 16) (hp : p < 16) (f : Fld)
    (hf : f.off = 0x100040 ∧ f.stride = 4) (happart : f.apart FLT_PORT_NBRMOD = true) :
    pget (fillNeighbour s p) m f = pget s m f := by
  unfold fillNeighbour
  split
  · by_cases h : m = p
    · subst h
      exact pget_pput_apart _ _ _ _ _ rfl happart
    · exact pget_pput_otherPort s hm hp h f FLT_PORT_NBRMOD _ hf ⟨rfl, rfl⟩ rfl
  · rfl

/-- A step on another port leaves NBRMOD of this one, and a step on this one shows its neighbour's number. -/
theorem nbrmod_fillNeighbour (s : State) {n p : Nat} {x : BitVec 10} (hn : n < 16) (hp : p < 16)
    (hnumber : numberOf s.fleet.numbers (portOf s n).nbr = some x) :
    pget (fillNeighbour s p) n FLT_PORT_NBRMOD = if p = n then x.toNat else pget s n FLT_PORT_NBRMOD := by
  by_cases h : p = n
  · subst h
    rw [if_pos rfl, fillNeighbour, hnumber]
    exact pget_pput_lt _ _ _ _ rfl x.isLt
  · rw [if_neg h]
    unfold fillNeighbour
    split
    · exact pget_pput_otherPort s hn hp (Ne.symm h) _ _ _ ⟨rfl, rfl⟩ ⟨rfl, rfl⟩ rfl
    · rfl

theorem fillNeighbours_foldl {l : List Nat} (hl : ∀ p ∈ l, p < 16) (s : State) :
    (l.foldl fillNeighbour s).fleet = s.fleet
      ∧ (∀ m, m < 16 → ∀ f : Fld, f.off = 0x100040 ∧ f.stride = 4 → f.apart FLT_PORT_NBRMOD = true →
          pget (l.foldl fillNeighbour s) m f = pget s m f)
      ∧ regsBut ((List.range 16).map portWord) s (l.foldl fillNeighbour s)
      ∧ changesOnly [.regs] s (l.foldl fillNeighbour s)
      ∧ (∀ n x, n < 16 → numberOf s.fleet.numbers (portOf s n).nbr = some x →
          n ∈ l ∨ pget s n FLT_PORT_NBRMOD = x.toNat → pget (l.foldl fillNeighbour s) n FLT_PORT_NBRMOD = x.toNat) := by
  induction l generalizing s with
  | nil =>
    refine ⟨rfl, fun _ _ _ _ _ => rfl, regsBut_refl _ _, only_refl _ _, fun n x _ _ h => ?_⟩
    exact h.resolve_left (List.not_mem_nil)
  | cons p l ih =>
    have hp : p < 16 := hl p List.mem_cons_self
    obtain ⟨hfleet, hfields, hregs, honly, hmods⟩ := ih (fun q hq => hl q (List.mem_cons_of_mem p hq)) (fillNeighbour s p)
    have hword : ∀ q ∈ [portWord p], q ∈ (List.range 16).map portWord := fun q hq => by
      rw [List.mem_singleton.mp hq]
      exact List.mem_map_of_mem (List.mem_range.mpr hp)
    refine ⟨hfleet.trans (fillNeighbour_fleet s p), fun m hm f hf ha => ?_,
      regsBut_trans (regsBut_mono (fillNeighbour_regs s p) hword) hregs, only_trans (fillNeighbour_only s p) honly,
      fun n x hn hnumber h => ?_⟩
    · exact (hfields m hm f hf ha).trans (pget_fillNeighbour s hm hp f hf ha)
    · refine hmods n x hn ?_ ?_
      · rw [portOf_congr (fillNeighbour_fleet s p), fillNeighbour_fleet]
        exact hnumber
      · rw [nbrmod_fillNeighbour s hn hp hnumber]
        rcases h with h | h
        · rcases List.mem_cons.mp h with h | h
          · exact .inr (if_pos h.symm)
          · exact .inl h
        · right
          split
          · rfl
          · exact h

/-- The machine as a port comes UP at revision `neg` with its neighbour, before NBRMOD is filled in. -/
def portIdentified (s : State) (n neg : Nat) (f : Identity) : State :=
  let s1 := putPort s n { portOf s n with attempts := 0, retrain := false, nbr := f.serial }
  let s2 := pput (pput (pput s1 n FLT_PORT_STATE 4) n FLT_PORT_NEGREV neg) n FLT_PORT_NBRPORT f.port.toNat
  refreshRev (pput (pput s2 n FLT_PORT_NBRVALID 1) n FLT_PORT_CAUSE 0)

/-- FLEETREV leaves the ports' registers. -/
theorem pget_refreshRev (s : State) (m : Nat) (f : Fld) (hf : f.off = 0x100040 ∧ f.stride = 4) :
    pget (refreshRev s) m f = pget s m f := by
  refine rget_rput_other _ _ _ _ _ _ _ _ rfl (.inl ?_)
  rw [hf.1, hf.2]
  simp only [regKey, FLT_REV_FLEETREV]
  omega

section Identified

variable {s : State} {n : Nat} (neg : Nat) (f : Identity)

/-- What stands in the port's registers as it comes UP. -/
theorem portIdentified_own :
    pget (portIdentified s n neg f) n FLT_PORT_STATE = 4
      ∧ pget (portIdentified s n neg f) n FLT_PORT_NEGREV = neg % 256
      ∧ pget (portIdentified s n neg f) n FLT_PORT_NBRVALID = 1 := by
  unfold portIdentified
  refine ⟨?state, ?negrev, ?valid⟩
  case state =>
    rw [pget_refreshRev _ _ _ ⟨rfl, rfl⟩, pget_pput_apart _ _ _ _ _ rfl rfl,
      pget_pput_apart _ _ _ _ _ rfl rfl, pget_pput_apart _ _ _ _ _ rfl rfl, pget_pput_apart _ _ _ _ _ rfl rfl,
      pget_pput_lt _ _ _ _ rfl (by decide)]
  case negrev =>
    rw [pget_refreshRev _ _ _ ⟨rfl, rfl⟩, pget_pput_apart _ _ _ _ _ rfl rfl,
      pget_pput_apart _ _ _ _ _ rfl rfl, pget_pput_apart _ _ _ _ _ rfl rfl, pget_pput_same _ _ _ _ rfl]
    rfl
  case valid =>
    rw [pget_refreshRev _ _ _ ⟨rfl, rfl⟩, pget_pput_apart _ _ _ _ _ rfl rfl, pget_pput_lt _ _ _ _ rfl (by decide)]

theorem portIdentified_fleet : (portIdentified s n neg f).fleet
    = (putPort s n { portOf s n with attempts := 0, retrain := false, nbr := f.serial }).fleet := rfl

theorem portIdentified_others {m : Nat} (hm : m < 16) (hn : n < 16) (hne : m ≠ n) :
    pget (portIdentified s n neg f) m FLT_PORT_STATE = pget s m FLT_PORT_STATE := by
  have hother (x : State) (g : Fld) (v : Nat) (hg : g.off = 0x100040 ∧ g.stride = 4) (hfits : g.fits = true) :
      pget (pput x n g v) m FLT_PORT_STATE = pget x m FLT_PORT_STATE :=
    pget_pput_otherPort x hm hn hne _ _ _ ⟨rfl, rfl⟩ hg hfits
  unfold portIdentified
  rw [pget_refreshRev _ _ _ ⟨rfl, rfl⟩, hother _ _ _ ⟨rfl, rfl⟩ rfl, hother _ _ _ ⟨rfl, rfl⟩ rfl,
    hother _ _ _ ⟨rfl, rfl⟩ rfl, hother _ _ _ ⟨rfl, rfl⟩ rfl, hother _ _ _ ⟨rfl, rfl⟩ rfl, pget_putPort]

theorem portIdentified_regs (hn : n < 16) :
    regsBut ((List.range 16).map portWord ++ [(0, FLT_REV_FLEETREV.off)]) s (portIdentified s n neg f) := by
  have hword : ∀ q ∈ [portWord n], q ∈ (List.range 16).map portWord ++ [(0, FLT_REV_FLEETREV.off)] := fun q hq => by
    rw [List.mem_singleton.mp hq]
    exact List.mem_append_left _ (List.mem_map_of_mem (List.mem_range.mpr hn))
  have hput (x : State) (g : Fld) (v : Nat) (ho : g.off = 0x100040) (hs : g.stride = 4) :
      regsBut ((List.range 16).map portWord ++ [(0, FLT_REV_FLEETREV.off)]) x (pput x n g v) :=
    regsBut_mono (regsBut_pput x n g v ho hs) hword
  unfold portIdentified refreshRev
  refine regsBut_trans ?_ (regsBut_mono (regsBut_rput0 _ _ _ _) fun q hq => List.mem_append_right _ hq)
  refine regsBut_trans ?_ (hput _ _ _ rfl rfl)
  refine regsBut_trans ?_ (hput _ _ _ rfl rfl)
  refine regsBut_trans ?_ (hput _ _ _ rfl rfl)
  refine regsBut_trans ?_ (hput _ _ _ rfl rfl)
  exact regsBut_trans (regsBut_of_regs (t := putPort s n _) rfl _) (hput _ _ _ rfl rfl)

theorem portIdentified_only : changesOnly [.regs, .fleet] s (portIdentified s n neg f) := by
  unfold portIdentified refreshRev
  have hput (x : State) (g : Fld) (v : Nat) : changesOnly [.regs, .fleet] x (pput x n g v) := only_mono (only_pput _ _ _ _) (by decide)
  refine only_then ?_ (only_rput _ _ _ _ _) (by decide)
  refine only_trans (only_trans (only_trans (only_trans (only_trans ?_ (hput _ _ _)) (hput _ _ _)) (hput _ _ _)) (hput _ _ _)) (hput _ _ _)
  exact only_mono (only_putPort _ _ _) (by decide)

end Identified

/-- The outcomes of `checkIdentity`, in the order in which it checks (notes/assumptions/51.md). -/
theorem checkIdentity_cases (s : State) (n : Nat) (f : Identity) :
    let neg := min f.revMax.toNat (rget s 0 FLT_REV_REVMAX)
    (f.serial = s.lsr.fuses.serial → checkIdentity s n f = lockPort s n 5 4)
      ∧ (f.serial ≠ s.lsr.fuses.serial → neg < max f.revMin.toNat (rget s 0 FLT_REV_REVMIN) →
          checkIdentity s n f = lockPort s n 5 3)
      ∧ (f.serial ≠ s.lsr.fuses.serial → max f.revMin.toNat (rget s 0 FLT_REV_REVMIN) ≤ neg →
          (rget s 0 CHR_EPOCH_EPOCH ≠ 0 ∧ f.epoch.toNat ≠ 0 ∧ rget s 0 CHR_EPOCH_EPOCH ≠ f.epoch.toNat) →
          checkIdentity s n f = lockPort s n 5 5)
      ∧ (f.serial ≠ s.lsr.fuses.serial → max f.revMin.toNat (rget s 0 FLT_REV_REVMIN) ≤ neg →
          ¬ (rget s 0 CHR_EPOCH_EPOCH ≠ 0 ∧ f.epoch.toNat ≠ 0 ∧ rget s 0 CHR_EPOCH_EPOCH ≠ f.epoch.toNat) →
          checkIdentity s n f = (revFaults (fillNeighbours (portIdentified s n neg f)) n neg).foldl
            (fun s b => berthFault s b 9 0 0 0) (fillNeighbours (portIdentified s n neg f))) := by
  intro neg
  unfold checkIdentity
  refine ⟨fun h => if_pos h, fun h hrev => ?_, fun h hrev he => ?_, fun h hrev he => ?_⟩
  · exact (if_neg h).trans (if_pos hrev)
  · exact (if_neg h).trans ((if_neg (Nat.not_lt.mpr hrev)).trans (if_pos he))
  · exact (if_neg h).trans ((if_neg (Nat.not_lt.mpr hrev)).trans (if_neg he))

theorem portUp_of_hailing {t : State} {n : Nat} (h : rget t 0 FLT_STATUS_DISC = 2 ∨ rget t 0 FLT_STATUS_DISC = 3) :
    (portUp t n).fleet.sentHails = t.fleet.sentHails ++ [(n, ownHail t)] ∧ changesOnly [.fleet] t (portUp t n) := by
  have hup : portUp t n = { t with fleet := { t.fleet with
    hails := withOwnHail t, sentHails := t.fleet.sentHails ++ [(n, ownHail t)] } } := if_pos h
  rw [hup]
  exact ⟨rfl, only_fleet _ _⟩

/-- Identity and revision agree: the port comes UP at the highest revision that both offer, with its neighbour. -/
theorem identityFrame_up {s : State} {p : BitVec 4} {f : Identity} (hparts : SafeParts s)
    (hstate : pget s p.toNat FLT_PORT_STATE = 3) (hserial : f.serial ≠ s.lsr.fuses.serial)
    (hrev : max f.revMin.toNat (rget s 0 FLT_REV_REVMIN) ≤ min f.revMax.toNat (rget s 0 FLT_REV_REVMAX))
    (hepoch : rget s 0 CHR_EPOCH_EPOCH = 0 ∨ f.epoch.toNat = 0 ∨ rget s 0 CHR_EPOCH_EPOCH = f.epoch.toNat) :
    let n := p.toNat
    let neg := min f.revMax.toNat (rget s 0 FLT_REV_REVMAX)
    ∃ s1 t, exec (.identityFrame p f) s = .next (if pget t n FLT_PORT_STATE = 4 then portUp t n else endTraining t)
      ∧ t = (revFaults s1 n neg).foldl (fun s b => berthFault s b 9 0 0 0) s1
      ∧ pget s1 n FLT_PORT_STATE = 4 ∧ pget s1 n FLT_PORT_NEGREV = neg % 256 ∧ pget s1 n FLT_PORT_NBRVALID = 1
      ∧ (∀ x, numberOf s.fleet.numbers f.serial = some x → pget s1 n FLT_PORT_NBRMOD = x.toNat)
      ∧ (portOf s1 n).nbr = f.serial ∧ (portOf s1 n).attempts = 0
      ∧ (∀ m, m < 16 → m ≠ n → pget s1 m FLT_PORT_STATE = pget s m FLT_PORT_STATE)
      ∧ regsBut ((List.range 16).map portWord ++ [(0, FLT_REV_FLEETREV.off)]) s s1 ∧ changesOnly [.regs, .fleet] s s1
      ∧ (rget t 0 FLT_STATUS_DISC = 2 ∨ rget t 0 FLT_STATUS_DISC = 3 →
          (portUp t n).fleet.sentHails = t.fleet.sentHails ++ [(n, ownHail t)] ∧ changesOnly [.fleet] t (portUp t n)) := by
  intro n neg
  have hn : n < 16 := p.isLt
  have hports : n < s.fleet.ports.length := by rw [hparts.fleet]; exact hn
  obtain ⟨u, hu⟩ : ∃ u, u = portIdentified s n neg f := ⟨_, rfl⟩
  obtain ⟨hup, hneg, hvalid⟩ := portIdentified_own (s := s) (n := n) neg f
  have hregs := portIdentified_regs (s := s) neg f hn
  have honly := portIdentified_only (s := s) (n := n) neg f
  have hfleet := portIdentified_fleet (s := s) (n := n) neg f
  rw [← hu] at hup hneg hvalid hregs honly hfleet
  have hport : portOf u n = { portOf s n with attempts := 0, retrain := false, nbr := f.serial } :=
    (portOf_congr hfleet n).trans (portOf_putPort s n _ hports)
  have hsmall : ∀ q ∈ upPorts u, q < 16 := fun q hq => List.mem_range.mp (List.mem_filter.mp hq).1
  have hmem : n ∈ upPorts u := by simp [upPorts, hn, hup]
  obtain ⟨ffleet, ffields, fregs, fonly, fmods⟩ := fillNeighbours_foldl hsmall u
  rw [← fillNeighbours_eq] at ffleet ffields fregs fonly fmods
  have hagrees : ¬ (rget s 0 CHR_EPOCH_EPOCH ≠ 0 ∧ f.epoch.toNat ≠ 0 ∧ rget s 0 CHR_EPOCH_EPOCH ≠ f.epoch.toNat) :=
    fun ⟨hown, htheirs, hne⟩ => hepoch.elim hown fun h => h.elim htheirs hne
  obtain ⟨-, -, -, hcheck⟩ := checkIdentity_cases s n f
  replace hcheck := hcheck hserial hrev hagrees
  refine ⟨fillNeighbours u, checkIdentity s n f, execIdentityFrame_of_ident hstate f, ?eq, ?up, ?neg, ?valid,
    fun x hx => ?mod, ?nbr, ?attempts, fun m hm hne => ?others, ?regs, only_then honly fonly (by decide), portUp_of_hailing⟩
  case eq => rw [hcheck, hu]
  case up => exact (ffields n hn _ ⟨rfl, rfl⟩ rfl).trans hup
  case neg => exact (ffields n hn _ ⟨rfl, rfl⟩ rfl).trans hneg
  case valid => exact (ffields n hn _ ⟨rfl, rfl⟩ rfl).trans hvalid
  case mod =>
    refine fmods n x hn ?_ (.inl hmem)
    rw [hport, hfleet]
    exact hx
  case nbr => rw [portOf_congr ffleet, hport]
  case attempts => rw [portOf_congr ffleet, hport]
  case others => exact (ffields m hm _ ⟨rfl, rfl⟩ rfl).trans (hu ▸ portIdentified_others neg f hm hn hne)
  case regs => exact regsBut_trans hregs (regsBut_mono fregs fun q hq => List.mem_append_left _ hq)

/-! ### Data frames (R311, R325, R326) -/

theorem execFleetFrame_of_up {s : State} {p : BitVec 4} (h : pget s p.toNat FLT_PORT_STATE = 4) (f : Sys2Proof.Frame) :
    exec (.fleetFrame p f) s = .next (receiveFrame s p.toNat f) :=
  congrArg Host.Outcome.next (if_pos h)

theorem laneEvents_none (s : State) (n : Nat) (repeated : Bool) : laneEvents s n 0 repeated = s := by
  have hkeep : ∀ l : List Nat, l.foldl (fun s i => if (0 : BitVec 8).getLsbD i then laneEvent s n i repeated else s) s = s := by
    intro l
    induction l with
    | nil => rfl
    | cons i l ih =>
      rw [List.foldl_cons, if_neg (by simp)]
      exact ih
  exact hkeep _

/-- A frame that is not accepted: a NAK is owed for it, and nothing else. -/
theorem nakOwed_facts {s : State} {n : Nat} (hports : n < s.fleet.ports.length) :
    let t := putPort s n { portOf s n with nak := true }
    portOf t n = { portOf s n with nak := true } ∧ (∀ m, m ≠ n → portOf t m = portOf s m) ∧ changesOnly [.fleet] s t :=
  ⟨portOf_putPort s n _ hports, fun m hm => portOf_putPort_ne s n m _ hm, only_putPort s n _⟩

theorem receiveFrame_cases (s : State) (n : Nat) (f : Sys2Proof.Frame) :
    (frameGood f = false → f.fecLanes = 0 → receiveFrame s n f = putPort s n { portOf s n with nak := true })
      ∧ (frameGood f = true → f.trailer.toNat % 4096 ≠ (portOf s n).rxSeq →
          receiveFrame s n f = putPort s n { portOf s n with nak := true })
      ∧ (frameGood f = true → f.trailer.toNat % 4096 = (portOf s n).rxSeq →
          receiveFrame s n f = acceptFlit (takeAck (putPort s n { portOf s n with
            rxSeq := ((portOf s n).rxSeq + 1) % 4096, nak := false, heard := true }) n f.trailer) n f.flit) := by
  unfold receiveFrame
  dsimp only
  refine ⟨fun hbad hlanes => ?_, fun hgood hseq => ?_, fun hgood hseq => ?_⟩
  · rw [if_pos (by simp [hbad]), hlanes, laneEvents_none]
  · rw [if_neg (by simp [hgood]), if_pos hseq]
  · rw [if_neg (by simp [hgood]), if_neg (not_not_intro hseq)]

/-- What becomes of the packet that an accepted flit completes. -/
theorem acceptFlit_packet {s : State} {n : Nat} {b : List Byte} {q : Packet} {rest : List (List Byte)}
    (h : headPacket n ((portOf s n).flits ++ [b]) = some (some q, rest)) :
    let t := acceptFlit s n b
    let s3 := putPort s n { portOf s n with flits := rest }
    (q.op = .hail ∨ q.op = .numbers → t = s3)
      ∧ (q.op ≠ .hail → q.op ≠ .numbers →
        let away := addrModule q.dest ≠ moduleNo s3 ∧ (q.op = .regAccess ∨ q.op = .control)
        (away → t = routeOut s3 q (addrModule q.dest).toNat)
        ∧ (¬ away → t.net = s.net ++ [q] ∧ t.fleet = s3.fleet ∧ changesOnly [.net, .regs] s3 t
            ∧ (portToPort s3 q = true → t.regs = s3.regs))) := by
  intro t s3
  have hwhole : t = if q.op = .hail ∨ q.op = .numbers then s3 else enterPacket s3 n q :=
    (acceptFlit_facts s n b).2.2 q rest h
  refine ⟨fun hop => hwhole.trans (if_pos hop), fun hhail hnumbers => ?_⟩
  rw [hwhole, if_neg (by tauto)]
  exact enterPacket_facts s3 n q

theorem fleetLinkFrames : FleetLinkFrames := by
  intro s p hsafe n
  have hparts := (machineSafe_iff s).mp hsafe
  have hn : n < 16 := p.isLt
  have hports : n < s.fleet.ports.length := by rw [hparts.fleet]; exact hn
  refine ⟨fun hstate f => ?identity, fun hup f => ?frame, fun hreach => ?commit, fun d hreach => ?lock⟩
  case identity =>
    obtain ⟨hown, hrevision, hepochs, -⟩ := checkIdentity_cases s n f
    exact ⟨fun h => identityFrame_refused hports hstate (by decide) (hown h),
      fun h hrev => identityFrame_refused hports hstate (by decide) (hrevision h hrev),
      fun h hrev h0 hf hne => identityFrame_refused hports hstate (by decide) (hepochs h hrev ⟨h0, hf, hne⟩),
      identityFrame_up hparts hstate⟩
  case frame =>
    obtain ⟨hbad, hlate, hgood⟩ := receiveFrame_cases s n f
    have hexec := execFleetFrame_of_up hup f
    refine ⟨fun h hlanes => ⟨_, hexec.trans (congrArg _ (hbad h hlanes)), nakOwed_facts hports⟩,
      fun h hseq => ⟨_, hexec.trans (congrArg _ (hlate h hseq)), nakOwed_facts hports⟩, fun h hseq => ?_⟩
    intro s1 fl
    refine ⟨_, hexec.trans (congrArg _ (hgood h hseq)), rfl, fun s2 hs2 => ?_⟩
    have hports1 : n < s1.fleet.ports.length := by
      show n < (s.fleet.ports.set n _).length
      rw [List.length_set]
      exact hports
    have hport1 : portOf s1 n = { portOf s n with
        rxSeq := ((portOf s n).rxSeq + 1) % 4096, nak := false, heard := true } := portOf_putPort s n _ hports
    obtain ⟨hrx, hnak, hflits, hnet, -⟩ := takeAck_facts s1 n f.trailer hports1
    rw [← hs2, hport1] at hrx hnak hflits
    rw [← hs2] at hnet
    obtain ⟨hpart, hreserved, -⟩ := acceptFlit_facts s2 n f.flit
    rw [hflits] at hpart hreserved
    rw [← hs2]
    refine ⟨hrx, hnak, hnet, hpart, hreserved, fun q rest hwhole => ?_⟩
    have hpacket := acceptFlit_packet (s := s2) (n := n) (b := f.flit) (q := q) (rest := rest) (by rw [hflits]; exact hwhole)
    rw [hnet] at hpacket
    exact hpacket
  case commit =>
    exact ⟨_, congrArg Host.Outcome.next (if_pos hreach), rset_one s 0 FLT_RT_CTL_PENDING rfl (by decide),
      rset_ne s 0 _ _ rfl (.inr rfl), rfl, regsBut_rput0 _ _ _ _, only_rput _ _ _ _ _⟩
  case lock =>
    exact ⟨_, congrArg Host.Outcome.next (if_pos hreach), rset_one s _ FLT_CTL_LOCK rfl (by decide),
      rset_ne s _ _ _ rfl (.inr rfl), regsBut_rput0 _ _ _ _, only_rput _ _ _ _ _⟩

/-- Settles O26: the training of a port (`fleetPortTraining`) and the frames it takes (`fleetLinkFrames`). -/
theorem fleetPorts : Obligations.FleetPorts := ⟨fleetPortTraining, fleetLinkFrames⟩

end Sys2Proof.Claims
end

section
/-!
PROOFS. The Chronometer's alignment, its measurements and its slews (R340, R341, R344).
-/

namespace Sys2Proof.Claims

open Sys2Proof Sys2Proof.Machine

/-! ### Alignment (R340, R344) -/

theorem execTimingFrame_of_aligning {s : State} {l : List TimePair} (hmay : mayAlign s = true) (hlen : l.length = 16) :
    exec (.timingFrame l) s = .next (rset (showOffset (stepTick s (rne (medianFour l) 32)) (rne (medianFour l) 4)) 0
      CHR_STATUS_ALIGNED) :=
  if_neg fun h => h.elim (fun h => by simp [hmay] at h) fun h => h hlen

theorem execTimingFrame_of_not {s : State} {l : List TimePair} (h : mayAlign s = false ∨ l.length ≠ 16) :
    exec (.timingFrame l) s = .next s :=
  if_pos (h.imp_left fun h => by simp [h])

/-- What the offset shown and ALIGNED add to a stepped tick. -/
theorem aligned_facts (u : State) (o : Int) :
    let t := rset (showOffset u o) 0 CHR_STATUS_ALIGNED
    t.tick = u.tick ∧ rget t 0 CHR_OFFSET_OFFSET = unsigned 16 o % 65536
      ∧ rget t 0 CHR_WATCH_WATCH = rget u 0 CHR_WATCH_WATCH ∧ watchStart t = watchStart u
      ∧ rget t 0 CHR_STATUS_ALIGNED = 1 ∧ rget t 0 CHR_STATUS_HOLDOVER = rget u 0 CHR_STATUS_HOLDOVER
      ∧ regsBut alignWords u t ∧ changesOnly [.regs] u t := by
  refine ⟨rfl, ?offset, ?watch, ?start, ?aligned, ?holdover, ?regs, ?only⟩
  case offset =>
    rw [rset_ne _ _ _ _ rfl (by decide), showOffset, rget_rput_mod _ _ _ _ rfl]
    rfl
  case watch => rw [rset_ne _ _ _ _ rfl (by decide), showOffset, rget_rput_ne _ _ _ _ _ rfl (by decide)]
  case start =>
    exact (watchStart_rput _ _ _ rfl (by decide) (by decide)).trans (watchStart_rput _ _ _ rfl (by decide) (by decide))
  case aligned => exact rset_one _ _ _ rfl (by decide)
  case holdover => rw [rset_ne _ _ _ _ rfl (by decide), showOffset, rget_rput_ne _ _ _ _ _ rfl (by decide)]
  case regs => exact regsBut_trans (regsBut_rputm _ _ _ _ _ (by decide)) (regsBut_rputm _ _ _ _ _ (by decide))
  case only => exact only_trans (only_rput _ _ _ _ _) (only_rput _ _ _ _ _)

/-! ### Measurements and slews (R341) -/

theorem execOffsetMeasure_of_following {s : State} (h : follows s = true) (p : TimePair) :
    let start := decide (16 < (pairTwice p).natAbs) && !s.chr.slewing
    let s1 := showOffset { s with chr := { s.chr with
      offset := rne (pairTwice p) 2
      slewing := (start || s.chr.slewing) && !decide ((pairTwice p).natAbs ≤ 8) } } (rne (pairTwice p) 2)
    exec (.offsetMeasure p) s = .next (if start then rbump s1 0 CHR_SLEWS else s1) :=
  if_neg (by simp [h])

/-- The slew counted when one starts. -/
theorem countSlew_facts (u : State) (start : Bool) :
    let t := if start then rbump u 0 CHR_SLEWS else u
    t.chr = u.chr ∧ rget t 0 CHR_OFFSET_OFFSET = rget u 0 CHR_OFFSET_OFFSET
      ∧ rget t 0 CHR_SLEWS = (rget u 0 CHR_SLEWS + bit start) % 2 ^ 32
      ∧ regsBut [(0, 0x40088)] u t ∧ changesOnly [.regs] u t := by
  cases start with
  | true =>
    exact ⟨rfl, rbump_ne _ _ _ _ _ rfl (by decide), rbump_same _ _ _ _ rfl,
      regsBut_rputm _ _ _ _ _ (by decide), only_rbump _ _ _ _⟩
  | false => exact ⟨rfl, rfl, (Nat.mod_eq_of_lt (rget_lt u 0 CHR_SLEWS 0)).symm, regsBut_refl _ _, only_refl _ _⟩

theorem elapseNs_tick {s : State} (hruns : tickRuns s = true) {n : Nat} (hn : 0 < n) : (elapseNs s n).tick = s.tick + n := by
  have hlater : ¬ ((decide (s.tick + n ≤ s.tick) || !tickRuns s) = true) := by
    simp [hruns]
    omega
  unfold elapseNs elapseToTick
  rw [if_neg hlater]

theorem only_tick_chr (s : State) (t : Nat) (c : ChronoSt) : changesOnly [.tick, .chr] s { s with tick := t, chr := c } :=
  only_then (only_mono (only_tick s t) (by decide)) (only_chr { s with tick := t } c) (by decide)

/-- The tick after a microsecond of a slew, and the offset that is left. -/
def slewed (s : State) : State :=
  let up := decide (0 < s.chr.offset)
  let s1 := elapseNs s 1000
  let o := if up then s.chr.offset - 8 else s.chr.offset + 8
  { s1 with
    tick := if up then s1.tick + 1 else s1.tick - 1
    chr := { s1.chr with offset := o, slewing := decide (4 < o.natAbs) } }

theorem execSlew_of_slewing {s : State} (hfollows : follows s = true) (hslewing : s.chr.slewing = true) :
    exec .slew s = .next (slewed s) :=
  if_neg (by simp [hfollows, hslewing])

theorem slewed_facts {s : State} (hruns : tickRuns s = true) :
    (0 < s.chr.offset → (slewed s).tick = s.tick + 1001 ∧ (slewed s).chr.offset = s.chr.offset - 8)
      ∧ (s.chr.offset ≤ 0 → (slewed s).tick = s.tick + 999 ∧ (slewed s).chr.offset = s.chr.offset + 8)
      ∧ (slewed s).chr.slewing = decide (4 < (slewed s).chr.offset.natAbs)
      ∧ changesOnly [.cyc, .tick, .tfrac, .chr] s (slewed s) := by
  have htick : (elapseNs s 1000).tick = s.tick + 1000 := elapseNs_tick hruns (by decide)
  have honly : changesOnly [.cyc, .tick, .tfrac] s (elapseNs s 1000) := elapseNs_only s 1000
  unfold slewed
  refine ⟨fun h => ?_, fun h => ?_, rfl, ?_⟩
  · simp [h, htick]
  · simp [not_lt.mpr h, htick]
  · exact only_then (only_mono honly (by decide)) (only_tick_chr _ _ _) (by decide)

theorem exec_of_notFollowing {s : State} (h : follows s = false) :
    exec .slew s = .next s ∧ ∀ p, exec (.offsetMeasure p) s = .next s :=
  ⟨if_pos (by simp [h]), fun _ => if_pos (by simp [h])⟩

/-- Settles O32: alignment steps the tick (`stepTick_facts`) and shows the offset, a measurement starts or ends a slew,
and a slew moves the tick by one. -/
theorem clockAlignment : Obligations.ClockAlignment := by
  unfold Obligations.ClockAlignment
  intro s
  refine ⟨fun l hmay hlen => ?align, fun _ => execTimingFrame_of_not, fun p hfollows => ?measure,
    fun hfollows hslewing hruns => ⟨_, execSlew_of_slewing hfollows hslewing, slewed_facts hruns⟩, exec_of_notFollowing⟩
  case align =>
    obtain ⟨htick, hwatch, hstart, hholdover, hregs, honly⟩ := stepTick_facts s (rne (medianFour l) 32)
    obtain ⟨atick, aoffset, awatch, astart, aaligned, aholdover, aregs, aonly⟩ :=
      aligned_facts (stepTick s (rne (medianFour l) 32)) (rne (medianFour l) 4)
    exact ⟨_, execTimingFrame_of_aligning hmay hlen, atick.trans htick, aoffset, awatch.trans (hwatch.trans (by rw [atick])),
      astart.trans (hstart.trans (by rw [atick])), aaligned, aholdover.trans hholdover, regsBut_trans hregs aregs,
      only_then honly aonly (by decide)⟩
  case measure =>
    intro start
    have hexec := execOffsetMeasure_of_following hfollows p
    dsimp only at hexec
    obtain ⟨u, hu⟩ : ∃ u, u = showOffset { s with chr := { s.chr with
      offset := rne (pairTwice p) 2
      slewing := (start || s.chr.slewing) && !decide ((pairTwice p).natAbs ≤ 8) } } (rne (pairTwice p) 2) := ⟨_, rfl⟩
    rw [← hu] at hexec
    obtain ⟨cchr, coffset, cslews, cregs, conly⟩ := countSlew_facts u start
    have hslews : rget u 0 CHR_SLEWS = rget s 0 CHR_SLEWS := by
      rw [hu, showOffset, rget_rput_ne _ _ _ _ _ rfl (by decide)]
      rfl
    refine ⟨_, hexec, cchr.trans (by rw [hu]; rfl), coffset.trans ?_, cslews.trans (by rw [hslews]), ?_, ?_⟩
    · rw [hu, showOffset, rget_rput_mod _ _ _ _ rfl]
      rfl
    · refine regs_then ?_ cregs (by decide)
      rw [hu]
      exact regsBut_trans (regsBut_of_regs rfl _) (regsBut_rputm _ _ _ _ _ (by decide))
    · refine only_then ?_ conly (by decide)
      rw [hu]
      exact only_then (only_mono (only_chr _ _) (by decide)) (only_rput _ _ _ _ _) (by decide)

end Sys2Proof.Claims
end

section
/-!
PROOFS. Watch boundaries, ARM and LOCK of the charter (R343 to R345, R347).
-/

namespace Sys2Proof.Claims

open Sys2Proof Sys2Proof.Machine

/-! ### The new watch (R343, R345) -/

theorem openWatch_facts (s : State) (b : Nat) :
    rget (openWatch s b) 0 CHR_WATCH_WATCH = (rget s 0 CHR_WATCH_WATCH + 1) % 2 ^ 32
      ∧ watchStart (openWatch s b) = b % 2 ^ 64 ∧ (openWatch s b).slot0 = restartCycle s b
      ∧ regsBut [(0, 0x40010), (0, 0x40014), (0, 0x40018)] s (openWatch s b)
      ∧ changesOnly [.cyc, .slot0, .tick, .tfrac, .regs] s (openWatch s b) := by
  obtain ⟨u, hu⟩ : ∃ u, u = rput s 0 CHR_WATCH_WATCH (rget s 0 CHR_WATCH_WATCH + 1) := ⟨_, rfl⟩
  have hopen : openWatch s b = { putStart u b with slot0 := restartCycle s b } := by rw [hu]; rfl
  have hregs : (openWatch s b).regs = (putStart u b).regs := by rw [hopen]
  refine ⟨?watch, ?start, rfl, ?regs, ?only⟩
  case watch =>
    rw [rget_of_regs hregs, putStart, rget_rput_ne _ _ _ _ _ rfl (by decide), rget_rput_ne _ _ _ _ _ rfl (by decide), hu]
    exact rget_rput_mod _ _ _ _ rfl
  case start =>
    calc watchStart (openWatch s b) = watchStart (putStart u b) := by
          unfold watchStart
          rw [rget_of_regs hregs, rget_of_regs hregs]
      _ = b % 2 ^ 64 := putStart_start u b
  case regs =>
    refine regs_then_same (t := putStart u b) ?_ hregs
    rw [putStart, hu]
    exact regsBut_trans (regsBut_trans (regsBut_rputm _ _ _ _ _ (by decide)) (regsBut_rputm _ _ _ _ _ (by decide)))
      (regsBut_rputm _ _ _ _ _ (by decide))
  case only =>
    have hput : changesOnly [.regs] s (putStart u b) := by
      rw [hu]
      exact only_trans (only_rput _ _ _ _ _) (only_trans (only_rput _ _ _ _ _) (only_rput _ _ _ _ _))
    rw [hopen]
    exact only_then (only_mono hput (by decide)) (only_slot0 _ _) (by decide)

theorem execWatchBoundary_reached {s : State} (hreach : chrReach s = true) :
    let s0 := openWatch (elapseToTick s (nextBoundary s)) (nextBoundary s)
    exec .watchBoundary s = .next (startDue (stackNos.foldl sextantBoundary (
      if fleetMode (tableDue (charterDue s0)) then openRound (fleetStretch (tableDue (charterDue s0)))
      else harbourStretch (tableDue (charterDue s0))))) :=
  if_neg (by simp [hreach])

/-! ### ARM (R347) -/

section Arm

variable (s : State)

/-- How far the charter's next epoch lies ahead. -/
def epochAhead : Nat := (rget s 0 CHR_EPOCH_NEXT + 256 - rget s 0 CHR_EPOCH_EPOCH) % 256

/-- The watch that ACTIVATE names. -/
def activateWatch : Word := BitVec.ofNat 32 (rget s 0 CHR_ACTIVATE_WATCH)

/-- An epoch that is not ahead (R347). -/
def armStale : Bool := !(decide (1 ≤ epochAhead s) && decide (epochAhead s ≤ 127))

/-- ARM in the tick of the boundary that starts ACTIVATE. -/
def armNow : Bool := decide (activateWatch s = watchNo s) && decide (s.tick = watchStart s)

/-- An ACTIVATE that is not later (R347). -/
def armLate : Bool := !laterWatch (activateWatch s) (watchNo s) && !armNow s

/-- A new length while berths are live (R347). -/
def armBusy : Bool := decide (rget s 0 CHR_NEXT_WLEN_L ≠ watchLen s) && berthsLive s

/-- The charter that ARM arms. -/
def armedCharter : State :=
  rset { s with chr := { s.chr with
    armed := some (rget s 0 CHR_EPOCH_NEXT, rget s 0 CHR_NEXT_WLEN_L, activateWatch s) } } 0 CHR_STATUS_ARMED

theorem writeArm_eq : writeArm s = if armStale s || armLate s || armBusy s then refuseArm s (armStale s) (armLate s) (armBusy s)
    else if armNow s then activateNow s (rget s 0 CHR_EPOCH_NEXT) (rget s 0 CHR_NEXT_WLEN_L)
    else armedCharter s := rfl

theorem armedCharter_facts : (armedCharter s).chr = { s.chr with
      armed := some (rget s 0 CHR_EPOCH_NEXT, rget s 0 CHR_NEXT_WLEN_L, activateWatch s) }
    ∧ rget (armedCharter s) 0 CHR_STATUS_ARMED = 1 ∧ regsBut [(0, 0x40004)] s (armedCharter s)
    ∧ changesOnly [.regs, .chr] s (armedCharter s) :=
  ⟨rfl, rset_one _ _ _ rfl (by decide), regsBut_trans (regsBut_of_regs rfl _) (regsBut_rputm _ _ _ _ _ (by decide)),
    only_then (only_mono (only_chr _ _) (by decide)) (only_rput _ _ _ _ _) (by decide)⟩

variable {s}

theorem exec_arm (hreach : chrReach s = true) : exec .arm s = .next (writeArm s) :=
  congrArg Host.Outcome.next (if_pos hreach)

theorem exec_arm_refused (hreach : chrReach s = true) (h : (armStale s || armLate s || armBusy s) = true) :
    exec .arm s = .next (refuseArm s (armStale s) (armLate s) (armBusy s)) := by
  rw [exec_arm hreach, writeArm_eq, if_pos h]

theorem armStale_false (h1 : 1 ≤ epochAhead s) (h127 : epochAhead s ≤ 127) : armStale s = false := by simp [armStale, h1, h127]

theorem armStale_true (h : epochAhead s = 0 ∨ 127 < epochAhead s) : armStale s = true := by
  unfold armStale
  rcases h with h | h
  · simp [h]
  · simp [Nat.not_le.mpr h]

theorem armBusy_false (h : ¬ (rget s 0 CHR_NEXT_WLEN_L ≠ watchLen s ∧ berthsLive s = true)) : armBusy s = false := by
  unfold armBusy
  by_cases hlen : rget s 0 CHR_NEXT_WLEN_L = watchLen s
  · simp [hlen]
  · simpa [hlen] using fun hl => h ⟨hlen, hl⟩

theorem laterWatch_irrefl (w : Word) : laterWatch w w = false := by simp [laterWatch]

theorem armNow_of_later (h : laterWatch (activateWatch s) (watchNo s) = true) : armNow s = false := by
  unfold armNow
  by_cases heq : activateWatch s = watchNo s
  · rw [heq, laterWatch_irrefl] at h
    exact absurd h (by decide)
  · simp [heq]

end Arm

/-! ### A charter that takes effect in its own boundary's tick (R347, R353) -/

/-- An activated charter, before its stretch is set. -/
theorem activateCharter_facts (s : State) (epoch len : Nat) :
    rget (activateCharter s epoch len) 0 CHR_EPOCH_EPOCH = epoch % 2 ^ CHR_EPOCH_EPOCH.width
      ∧ rget (activateCharter s epoch len) 0 CHR_WLEN_L = len % 2 ^ CHR_WLEN_L.width
      ∧ rget (activateCharter s epoch len) 0 CHR_STATUS_ARMED = 0
      ∧ (activateCharter s epoch len).chr.armed = none
      ∧ (activateCharter s epoch len).chr.firstRound = some (s.chr.firstRound.getD (watchNo s))
      ∧ (∀ f : Fld, f.off ≠ 0x40004 → f.off ≠ CHR_EPOCH_EPOCH.off → f.off ≠ CHR_WLEN_L.off →
          rget (activateCharter s epoch len) 0 f = rget s 0 f)
      ∧ changesOnly [.regs, .stk, .chr] s (activateCharter s epoch len) := by
  obtain ⟨u, hu⟩ : ∃ u, u = rput (rput (rput s 0 CHR_EPOCH_EPOCH epoch) 0 CHR_WLEN_L len) 0 CHR_STATUS_ARMED 0 := ⟨_, rfl⟩
  have hregs : (activateCharter s epoch len).regs = u.regs := by rw [hu]; rfl
  have hne : ∀ f : Fld, f.off ≠ 0x40004 → f.off ≠ CHR_EPOCH_EPOCH.off → f.off ≠ CHR_WLEN_L.off → rget u 0 f = rget s 0 f := by
    intro f hstatus hepoch hlen
    rw [hu, rget_rput_ne _ _ _ _ _ rfl (.inl hstatus), rget_rput_ne _ _ _ _ _ rfl (.inl hlen),
      rget_rput_ne _ _ _ _ _ rfl (.inl hepoch)]
  refine ⟨?epoch, ?len, ?armed, rfl, ?first, fun f h1 h2 h3 => (rget_of_regs hregs 0 f).trans (hne f h1 h2 h3), ?only⟩
  case epoch =>
    rw [rget_of_regs hregs, hu, rget_rput_ne _ _ _ _ _ rfl (by decide), rget_rput_ne _ _ _ _ _ rfl (by decide)]
    exact rget_rput_mod _ _ _ _ rfl
  case len =>
    rw [rget_of_regs hregs, hu, rget_rput_ne _ _ _ _ _ rfl (by decide)]
    exact rget_rput_mod _ _ _ _ rfl
  case armed =>
    rw [rget_of_regs hregs, hu]
    exact rget_rput_same1 _ _ _ _ rfl (by decide)
  case first =>
    have hwatch : watchNo u = watchNo s := congrArg (BitVec.ofNat 32) (hne CHR_WATCH_WATCH (by decide) (by decide) (by decide))
    have heq : (activateCharter s epoch len).chr.firstRound = some (u.chr.firstRound.getD (watchNo u)) := by rw [hu]; rfl
    rw [heq, hwatch, hu]
    rfl
  case only =>
    exact only_frameM (activateCharter_frame (fm := [.regs, .stk, .chr]) s epoch len (.refl _ _) (by decide)) (by decide)

/-- The charter in force with the stretch of its watch. -/
def charterNow (s : State) (epoch len : Nat) : State :=
  rput (activateCharter s epoch len) 0 CHR_STRETCH_X (stretchOf (activateCharter s epoch len)
    (rget (activateCharter s epoch len) 0 CHR_STRETCH_Q) (ron (activateCharter s epoch len) 0 CHR_STRETCH_D))

theorem activateNow_eq (s : State) (epoch len : Nat) : activateNow s epoch len =
    if fleetMode (charterNow s epoch len) && s.chr.firstRound.isNone then openRound (charterNow s epoch len)
    else charterNow s epoch len := rfl

theorem bit_ron {s : State} {k : Nat} {f : Fld} (hw : f.width = 1) : bit (ron s k f) = rget s k f := by
  have hlt : rget s k f < 2 := by simpa [hw] using rget_lt s k f 0
  interval_cases h : rget s k f
  · rw [ron_false h]; rfl
  · rw [ron_true h]; rfl

theorem charterNow_facts (s : State) (epoch len : Nat) (he : epoch < 2 ^ CHR_EPOCH_EPOCH.width) (hl : len < 2 ^ CHR_WLEN_L.width) :
    fleetMode (charterNow s epoch len) = fleetMode s
      ∧ rget (charterNow s epoch len) 0 CHR_EPOCH_EPOCH = epoch ∧ watchLen (charterNow s epoch len) = len
      ∧ rget (charterNow s epoch len) 0 CHR_STATUS_ARMED = 0 ∧ (charterNow s epoch len).chr.armed = none
      ∧ (charterNow s epoch len).chr.firstRound = some (s.chr.firstRound.getD (watchNo s))
      ∧ rget (charterNow s epoch len) 0 CHR_STRETCH_X
          = (ceilDiv (len * rget s 0 CHR_STRETCH_Q) 100 + 400 * rget s 0 CHR_STRETCH_D) % 2 ^ CHR_STRETCH_X.width
      ∧ changesOnly [.regs, .stk, .chr] s (charterNow s epoch len) := by
  obtain ⟨hepoch, hlen, harmed, hnone, hfirst, hother, honly⟩ := activateCharter_facts s epoch len
  rw [Nat.mod_eq_of_lt he] at hepoch
  rw [Nat.mod_eq_of_lt hl] at hlen
  have hkeep : ∀ f : Fld, (f.off ≠ CHR_STRETCH_X.off) →
      rget (charterNow s epoch len) 0 f = rget (activateCharter s epoch len) 0 f :=
    fun f hf => rget_rput_ne _ _ _ _ _ rfl (.inl hf)
  refine ⟨?mode, (hkeep _ (by decide)).trans hepoch, (hkeep _ (by decide)).trans hlen, (hkeep _ (by decide)).trans harmed,
    hnone, hfirst, ?stretch, only_then honly (only_rput _ _ _ _ _) (by decide)⟩
  case mode => exact ron_rget ((hkeep _ (by decide)).trans (hother _ (by decide) (by decide) (by decide)))
  case stretch =>
    have hq := hother CHR_STRETCH_Q (by decide) (by decide) (by decide)
    have hd := hother CHR_STRETCH_D (by decide) (by decide) (by decide)
    have hof : stretchOf (activateCharter s epoch len) (rget (activateCharter s epoch len) 0 CHR_STRETCH_Q)
        (ron (activateCharter s epoch len) 0 CHR_STRETCH_D)
        = ceilDiv (len * rget s 0 CHR_STRETCH_Q) 100 + 400 * rget s 0 CHR_STRETCH_D := by
      unfold stretchOf
      rw [bit_ron rfl, hq, hd, show watchLen (activateCharter s epoch len) = len from hlen]
    unfold charterNow
    rw [hof]
    exact rget_rput_mod _ _ _ _ rfl

theorem watchBoundaries : WatchBoundaries := by
  unfold WatchBoundaries
  intro s hreach
  refine ⟨?boundary, ?arm, ?lock⟩
  case boundary =>
    obtain ⟨hwatch, hstart, hslot, hregs, honly⟩ := openWatch_facts (elapseToTick s (nextBoundary s)) (nextBoundary s)
    have helapse := elapseToTick_only s (nextBoundary s)
    have hkeep : (elapseToTick s (nextBoundary s)).regs = s.regs := helapse .regs (by decide)
    refine ⟨_, _, execWatchBoundary_reached hreach, rfl, hwatch.trans ?_, hstart, hslot,
      regsBut_trans (regsBut_of_regs hkeep _) hregs, only_then (only_mono helapse (by decide)) honly (by decide), rfl⟩
    rw [rget_of_regs hkeep]
  case arm =>
    obtain ⟨fstale, flate, fbusy, fregs, fonly⟩ := refuseArm_facts s (armStale s) (armLate s) (armBusy s)
    refine ⟨fun h1 h127 hlater hbusy => ?armed, fun h1 h127 hact htick hbusy => ?now, fun h => ?stale, fun hlater hnow => ?late,
      fun hbusy => ?busy⟩
    case armed =>
      refine ⟨armedCharter s, ?_, armedCharter_facts s⟩
      have hlate : armLate s = false := by
        unfold armLate
        rw [show laterWatch (activateWatch s) (watchNo s) = true from hlater]
        rfl
      rw [exec_arm hreach, writeArm_eq, armStale_false h1 h127, hlate, armBusy_false hbusy, armNow_of_later hlater]
      rfl
    case now =>
      obtain ⟨hmode, hepoch, hlen, harmed, hnone, hfirst, hstretch, honly⟩ := charterNow_facts s (rget s 0 CHR_EPOCH_NEXT)
        (rget s 0 CHR_NEXT_WLEN_L) (rget_lt s 0 CHR_EPOCH_NEXT 0) (rget_lt s 0 CHR_NEXT_WLEN_L 0)
      have hnow : armNow s = true := by
        unfold armNow
        rw [show activateWatch s = watchNo s from hact]
        simp [htick]
      have hlate : armLate s = false := by
        unfold armLate
        rw [hnow, Bool.not_true, Bool.and_false]
      refine ⟨charterNow s (rget s 0 CHR_EPOCH_NEXT) (rget s 0 CHR_NEXT_WLEN_L), ?_, hepoch, hlen, harmed, hnone, hfirst,
        by rw [hlen]; exact hstretch, honly⟩
      rw [exec_arm hreach, writeArm_eq, armStale_false h1 h127, hlate, armBusy_false hbusy, hnow]
      simp only [Bool.or_self, Bool.false_eq_true, if_false, if_true, activateNow_eq, hmode, Bool.and_eq_true, Option.isNone_iff_eq_none]
    case stale =>
      exact ⟨_, exec_arm_refused hreach (by rw [armStale_true h]; rfl), fstale (armStale_true h), fregs, fonly⟩
    case late =>
      have hlate : armLate s = true := by
        have hoff : ¬ (activateWatch s = watchNo s ∧ s.tick = watchStart s) := hnow
        unfold armLate armNow
        rw [show laterWatch (activateWatch s) (watchNo s) = false from hlater]
        simpa using not_and_or.mp hoff
      exact ⟨_, exec_arm_refused hreach (by simp [hlate]), flate hlate, fregs, fonly⟩
    case busy =>
      have hb : armBusy s = true := by simp [armBusy, hbusy.1, hbusy.2]
      exact ⟨_, exec_arm_refused hreach (by simp [hb]), fbusy hb, fregs, fonly⟩
  case lock =>
    obtain ⟨hone, hregs, honly⟩ := rset_facts s CHR_CTL_LOCK rfl (by decide)
    exact ⟨_, congrArg Host.Outcome.next (if_pos hreach), hone, rset_ne _ _ _ _ rfl (by decide), hregs, honly⟩

end Sys2Proof.Claims
end

section
/-!
PROOFS. Agreement records, the lead Helm's operations, and waypoint timeouts (R351 to R353, R324).
-/

namespace Sys2Proof.Claims

open Sys2Proof Sys2Proof.Machine

/-! ### Agreement records (R352, R353) -/

/-- A record that is held, before it is written on. -/
def heldRecord (s : State) (w : Word) (q : Nat) (d : Bool) : State :=
  let s1 := rput (rput (rput s 0 CHR_AGREE_LO_WATCH w.toNat) 0 CHR_AGREE_HI_Q q) 0 CHR_AGREE_HI_D (bit d)
  let s2 := { s1 with chr := { s1.chr with
    agreed := s1.chr.agreed.filter (fun r => r.watch != w) ++ [⟨w, q, d⟩]
    openRound := none } }
  rbump s2 0 CHR_ROUNDS

theorem heldRecord_facts (s : State) (w : Word) (q : Nat) (d : Bool) (hq : q < 2 ^ CHR_AGREE_HI_Q.width) :
    rget (heldRecord s w q d) 0 CHR_AGREE_LO_WATCH = w.toNat ∧ rget (heldRecord s w q d) 0 CHR_AGREE_HI_Q = q
      ∧ rget (heldRecord s w q d) 0 CHR_AGREE_HI_D = bit d
      ∧ rget (heldRecord s w q d) 0 CHR_ROUNDS = (rget s 0 CHR_ROUNDS + 1) % 2 ^ 32
      ∧ regsBut [(0, 0x40038), (0, 0x4003C), (0, 0x40080)] s (heldRecord s w q d)
      ∧ changesOnly [.regs, .chr] s (heldRecord s w q d) := by
  obtain ⟨u, hu⟩ : ∃ u, u = rput (rput (rput s 0 CHR_AGREE_LO_WATCH w.toNat) 0 CHR_AGREE_HI_Q q) 0 CHR_AGREE_HI_D (bit d) :=
    ⟨_, rfl⟩
  obtain ⟨v, hv⟩ : ∃ v : State, v = { u with chr := { s.chr with
    agreed := s.chr.agreed.filter (fun r => r.watch != w) ++ [⟨w, q, d⟩]
    openRound := none } } := ⟨_, rfl⟩
  have heq : heldRecord s w q d = rbump v 0 CHR_ROUNDS := by rw [hv, hu]; rfl
  have hkeep : ∀ f : Fld, f.off ≠ CHR_ROUNDS.off → rget (heldRecord s w q d) 0 f = rget u 0 f := fun f hf => by
    rw [heq, rbump_ne _ _ _ _ _ rfl (.inl hf)]
    exact rget_of_regs (by rw [hv]) 0 f
  refine ⟨?watch, ?q, ?d, ?rounds, ?regs, ?only⟩
  case watch =>
    rw [hkeep _ (by decide), hu, rget_rput_ne _ _ _ _ _ rfl (by decide), rget_rput_ne _ _ _ _ _ rfl (by decide)]
    exact rget_rput_same1 _ _ _ _ rfl w.isLt
  case q =>
    rw [hkeep _ (by decide), hu, rget_rput_ne _ _ _ _ _ rfl (by decide)]
    exact rget_rput_same1 _ _ _ _ rfl hq
  case d =>
    rw [hkeep _ (by decide), hu]
    exact rget_rput_same1 _ _ _ _ rfl (bit_lt d)
  case rounds =>
    have hrounds : rget v 0 CHR_ROUNDS = rget s 0 CHR_ROUNDS := by
      rw [rget_of_regs (t := v) (s := u) (by rw [hv]) 0 CHR_ROUNDS, hu, rget_rput_ne _ _ _ _ _ rfl (by decide),
        rget_rput_ne _ _ _ _ _ rfl (by decide), rget_rput_ne _ _ _ _ _ rfl (by decide)]
    rw [heq, rbump_same _ _ _ _ rfl, hrounds]
    rfl
  case regs =>
    have hput : regsBut [(0, 0x40038), (0, 0x4003C), (0, 0x40080)] s u := by
      rw [hu]
      exact regsBut_trans (regsBut_trans (regsBut_rputm _ _ _ _ _ (by decide)) (regsBut_rputm _ _ _ _ _ (by decide)))
        (regsBut_rputm _ _ _ _ _ (by decide))
    rw [heq]
    exact regsBut_trans (regs_then_same hput (by rw [hv])) (regsBut_rputm _ _ _ _ _ (by decide))
  case only =>
    have hput : changesOnly [.regs] s u := by
      rw [hu]
      exact only_trans (only_rput _ _ _ _ _) (only_trans (only_rput _ _ _ _ _) (only_rput _ _ _ _ _))
    rw [heq]
    refine only_then (only_then (only_mono hput (by decide)) (u := v) (qs := [.chr]) ?_ (by decide)) (only_rbump _ _ _ _) (by decide)
    rw [hv]
    exact only_chr _ _

theorem execAgreementRecord_later {s : State} {w : Word} (hreach : chrReach s = true) (hlater : laterWatch w (watchNo s) = true)
    (q : BitVec 7) (d : Bool) : exec (.agreementRecord w q d) s = .next (arriveOffer
      (sendHelm (heldRecord s w q.toNat d) (s.chr.children.map fun m => HelmMsg.agree m w q.toNat d))) := by
  show Host.Outcome.next (if chrReach s then arriveOffer (holdRecord s w q.toNat d) else s) = _
  rw [if_pos hreach, holdRecord, if_neg (by simp [hlater])]
  rfl

theorem execAgreementRecord_past {s : State} {w : Word} (hreach : chrReach s = true) (hlater : laterWatch w (watchNo s) = false)
    (q : BitVec 7) (d : Bool) : exec (.agreementRecord w q d) s = .next (arriveOffer (sendHelm { s with chr := { s.chr with
        openRound := if s.chr.openRound = some (w - 2) then none else s.chr.openRound } }
          (s.chr.children.map fun m => HelmMsg.agree m w q.toNat d))) := by
  have hcame : recordCame s w = { s with chr := { s.chr with
      openRound := if s.chr.openRound = some (w - 2) then none else s.chr.openRound } } := by
    unfold recordCame
    split <;> rfl
  show Host.Outcome.next (if chrReach s then arriveOffer (holdRecord s w q.toNat d) else s) = _
  rw [if_pos hreach, holdRecord, if_pos (by simp [hlater]), hcame]
  rfl

/-! ### The lead Helm's tags (R324, R329) -/

section Tags

variable {s : State} {m : HelmMsg}

/-- Whether one of the lead Helm's operations holds a tag. -/
theorem tagHeld_iff {g : Nat} : (s.serve.ops.any fun o => o.tag == g) = true ↔ ∃ o ∈ s.serve.ops, o.tag = g := by
  simp [List.any_eq_true]

theorem lowestTag {g : Nat} (hg : g < 32) (hfree : ∀ o ∈ s.serve.ops, o.tag ≠ g)
    (hlow : ∀ g', g' < g → ∃ o ∈ s.serve.ops, o.tag = g') :
    ((List.range 32).find? fun t => !s.serve.ops.any fun o => o.tag == t) = some g := by
  have hkept : (s.serve.ops.any fun o => o.tag == g) = false :=
    Bool.not_eq_true _ ▸ fun h => (tagHeld_iff.mp h).elim fun o ho => hfree o ho.1 ho.2
  rw [List.find?_range_eq_some]
  exact ⟨by simp [hkept], List.mem_range.mpr hg, fun g' hg' => by simp [tagHeld_iff.mpr (hlow g' hg')]⟩

theorem noTag (hall : ∀ g, g < 32 → ∃ o ∈ s.serve.ops, o.tag = g) :
    ((List.range 32).find? fun t => !s.serve.ops.any fun o => o.tag == t) = none :=
  List.find?_eq_none.mpr fun g hg => by simp [tagHeld_iff.mpr (hall g (List.mem_range.mp hg))]

/-- The next TURN of a tag. -/
def helmTurn (s : State) (g : Nat) : Nat := (mapGet (fun _ => 0) s.serve.turns g + 1) % 16

theorem issueHelm_free {g : Nat} (h : ((List.range 32).find? fun t => !s.serve.ops.any fun o => o.tag == t) = some g) :
    issueHelm s m = if reaches s m.dst then { s with serve := { s.serve with
        turns := mapSet (fun _ => 0) s.serve.turns g (helmTurn s g)
        ops := s.serve.ops ++ [⟨g, helmTurn s g, m⟩]
        msgs := s.serve.msgs ++ [m] } }
      else rbump { s with serve := { s.serve with turns := mapSet (fun _ => 0) s.serve.turns g (helmTurn s g) } } 0 FLT_NOROUTE := by
  unfold issueHelm
  rw [h]
  rfl

theorem issueHelm_waits (h : ((List.range 32).find? fun t => !s.serve.ops.any fun o => o.tag == t) = none) :
    issueHelm s m = { s with serve := { s.serve with waits := s.serve.waits ++ [m] } } := by
  unfold issueHelm
  rw [h]

end Tags

/-! ### Waypoint timeouts (R350, R351) -/

/-- Whether a berth waits at its commit waypoint. -/
def commitWaits (s : State) (b : Nat) : Prop :=
  (∃ first, (berthOf s b).step = .running first) ∧ (berthOf s b).arrived = true

/-- The fault of a berth whose commit waypoint has not released 5 L after its arrival. -/
def commitTimedOut (s : State) (b : Nat) : State :=
  berthFault (rbump (elapseTo s ((berthOf s b).arrivedAt + 30 * watchLen s)) 0 CHR_WPTIMEOUT) b 10 0 0 0

theorem berthTimeout_waiting {s : State} {b : Nat} (h : commitWaits s b) : berthTimeout s b = commitTimedOut s b := by
  obtain ⟨⟨first, hstep⟩, harrived⟩ := h
  unfold berthTimeout
  rw [hstep]
  exact if_pos harrived

theorem berthTimeout_idle {s : State} {b : Nat} (h : ¬ commitWaits s b) : berthTimeout s b = s := by
  unfold berthTimeout
  split
  case h_1 first hstep =>
    have harrived : ¬ (berthOf s b).arrived = true := fun ha => h ⟨⟨first, hstep⟩, ha⟩
    exact if_neg harrived
  case h_2 => rfl

theorem foldl_berthTimeout_idle {s : State} {l : List Nat} (h : ∀ b ∈ l, ¬ commitWaits s b) : l.foldl berthTimeout s = s := by
  induction l with
  | nil => rfl
  | cons b l ih =>
    rw [List.foldl_cons, berthTimeout_idle (h b List.mem_cons_self)]
    exact ih fun b' hb' => h b' (List.mem_cons_of_mem _ hb')

theorem range_split {n b : Nat} (h : b < n) : List.range n = List.range b ++ b :: (List.range (n - b - 1)).map (b + 1 + ·) := by
  calc List.range n = List.range (b + 1 + (n - b - 1)) := by rw [show b + 1 + (n - b - 1) = n by omega]
    _ = _ := by rw [List.range_add, List.range_succ, List.append_assoc]; rfl

/-- The fault of the one berth that waits leaves no other one waiting, so it is what the whole module's timeout does. -/
theorem foldl_berthTimeout_one {s : State} {b : Nat} (hb : b < 16) (hwaits : commitWaits s b)
    (hbefore : ∀ b', b' < 16 → b' ≠ b → ¬ commitWaits s b')
    (hafter : ∀ b', b' < 16 → b' ≠ b → ¬ commitWaits (commitTimedOut s b) b') :
    (List.range 16).foldl berthTimeout s = commitTimedOut s b := by
  rw [range_split hb, List.foldl_append, List.foldl_cons,
    foldl_berthTimeout_idle fun b' hb' => hbefore b' (by have := List.mem_range.mp hb'; omega) (by have := List.mem_range.mp hb'; omega),
    berthTimeout_waiting hwaits]
  refine foldl_berthTimeout_idle fun b' hb' => ?_
  obtain ⟨i, hi, rfl⟩ := List.mem_map.mp hb'
  have := List.mem_range.mp hi
  exact hafter _ (by omega) (by omega)

theorem engineTimeout_waiting {s : State} {r : TileRef} {site b k : Nat} (hsite : siteOf s r.stack.toNat r.tile.toNat = some site)
    (hsince : (engOf (tileAt s r.stack.toNat site) .sig).wpSince = some k)
    (hnext : (engOf (tileAt s r.stack.toNat site) .sig).nextw = none)
    (hberth : berthOfTile (rbump (elapseTo s (k + 30 * watchLen s)) 0 CHR_WPTIMEOUT) r = some b) :
    engineTimeout s r
      = berthFault (rbump (elapseTo s (k + 30 * watchLen s)) 0 CHR_WPTIMEOUT) b 10 r.stack.toNat r.tile.toNat 0 := by
  unfold engineTimeout
  rw [hsite]
  dsimp only
  rw [hsince, hnext]
  dsimp only
  rw [hberth]

theorem stretchAgreement : StretchAgreement := by
  unfold StretchAgreement
  intro s
  refine ⟨fun w q d hreach hlater => ?later, fun m ms => ⟨rfl, rfl, fun g hg hfree hlow => ?tag, fun hall => issueHelm_waits (noTag hall)⟩,
    fun w q d hreach hlater => execAgreementRecord_past hreach hlater q d, ⟨fun b => ⟨?waits, ?idle⟩, fun t ht => ⟨?none, ?one⟩⟩,
    fun r site b k hsite hsince hnext hberth => congrArg Host.Outcome.next (engineTimeout_waiting hsite hsince hnext hberth)⟩
  case later =>
    exact ⟨heldRecord s w q.toNat d, _, execAgreementRecord_later hreach hlater q d, rfl, rfl, heldRecord_facts s w q.toNat d q.isLt⟩
  case tag =>
    have hissue := issueHelm_free (m := m) (lowestTag hg hfree hlow)
    refine ⟨fun hreach => ⟨helmTurn s g, by rw [hissue, if_pos hreach]⟩, fun hreach => ⟨_, hissue, ?_⟩⟩
    rw [if_neg (by simp [hreach])]
    exact ⟨rbump_same _ _ _ _ rfl, rfl, rfl, only_then (only_mono (only_serve _ _) (by decide)) (only_rbump _ _ _ _) (by decide)⟩
  case waits => exact fun h => congrArg Host.Outcome.next (berthTimeout_waiting h)
  case idle => exact fun h => congrArg Host.Outcome.next (berthTimeout_idle h)
  case none =>
    intro h
    exact (Host.Outcome.next.inj ht).symm.trans (foldl_berthTimeout_idle fun b hb => h b (List.mem_range.mp hb))
  case one =>
    intro b hb hwaits hbefore hafter
    have hafter' : ∀ b', b' < 16 → b' ≠ b → ¬ commitWaits (commitTimedOut s b) b' := by
      rintro b' hb' hne ⟨⟨first, hstep⟩, harrived⟩
      rw [commitTimedOut, hafter b' hb' hne first hstep] at harrived
      exact absurd harrived (by decide)
    exact (Host.Outcome.next.inj ht).symm.trans (foldl_berthTimeout_one hb hwaits hbefore hafter')

/-- Settles O33: the boundary and the charter (`watchBoundaries`), the agreement, the lead Helm's tags and the timeouts
(`stretchAgreement`). -/
theorem watchCoordination : Obligations.WatchCoordination := ⟨watchBoundaries, stretchAgreement⟩

end Sys2Proof.Claims
end

section
/-!
PROOFS. Errors and retrains of the package's crossing channels, and the replay limits of links (R374, R381, Table 16.2).
-/

namespace Sys2Proof.Claims

open Sys2Proof Sys2Proof.Machine

/-- A fault bit set in each stack of a list: it reads 1 in each of them. -/
theorem foldl_rset_one (l : List Nat) {f : Fld} (hfits : f.fits = true) (hwidth : 1 < 2 ^ f.width) {k : Nat} (s : State)
    (hk : k ∈ l ∨ rget s k f = 1) : rget (l.foldl (fun s k => rset s k f) s) k f = 1 := by
  induction l generalizing s with
  | nil => exact hk.resolve_left List.not_mem_nil
  | cons j l ih =>
    refine ih (rset s j f) ?_
    by_cases hjk : k = j
    · exact .inr (hjk ▸ rset_one s k f hfits hwidth)
    · rcases hk with hmem | hone
      · exact .inl ((List.mem_cons.mp hmem).resolve_left hjk)
      · by_cases hkey : regKey k (f.off + f.stride * 0) = regKey j (f.off + f.stride * 0)
        · refine .inr ?_
          have hsame : rget (rset s j f) k f = rget (rset s j f) j f := by
            unfold rget rword
            rw [hkey]
          exact hsame.trans (rset_one s j f hfits hwidth)
        · exact .inr ((rget_rput_other _ _ _ _ _ _ _ _ hfits (.inl hkey)).trans hone)

section Channel

variable {s : State} {ch : BitVec 8}

theorem onCrossing_run (hdomains : 3 ≤ s.rst.domains) (hch : ch.toNat < 248) (repeated : Bool) :
    onCrossing s ch repeated = crossingEvent s ch.toNat repeated :=
  if_neg (by omega)

/-- What an event of a channel counts, and what becomes of the machine when the channel is lasting. -/
theorem crossingEvent_eq (s : State) (ch : Nat) (repeated : Bool) :
    let r := logCount ((crossingStacks ch).foldl (fun s k =>
      rset s k (if repeated then STK_NOC_FAULT_XDOWN else STK_NOC_FAULT_XREPLAY)) s) (crossingUnit ch) repeated 1 0
    (r.2 = false → crossingEvent s ch repeated = r.1) ∧ (r.2 = true → crossingEvent s ch repeated = moduleReset r.1 8 false) :=
  ⟨fun h => if_neg (by simp [h]), fun h => if_pos h⟩

theorem execCrossingFlitError_eq (hdomains : 3 ≤ s.rst.domains) (hch : ch.toNat < 248) :
    exec (.crossingFlitError ch) s = .next (crossingEvent (countReplay s ch.toNat) ch.toNat false) :=
  congrArg Host.Outcome.next (onCrossing_run (s := countReplay s ch.toNat) hdomains hch false)

theorem execCrossingRetrainDone_failed (hdomains : 3 ≤ s.rst.domains) (hch : ch.toNat < 248)
    (htrain : s.fleet.xtrain.contains ch.toNat = true) : exec (.crossingRetrainDone ch false) s
      = .next (crossingEvent { s with fleet := { s.fleet with xtrain := s.fleet.xtrain.erase ch.toNat } } ch.toNat true) :=
  congrArg Host.Outcome.next ((if_neg (by rw [htrain]; decide)).trans ((if_neg (by decide)).trans
    (onCrossing_run (s := { s with fleet := { s.fleet with xtrain := s.fleet.xtrain.erase ch.toNat } }) hdomains hch true)))

theorem execLinkReplayLimit_up (hdomains : 4 ≤ s.rst.domains) (l : LinkRef) :
    exec (.linkReplayLimit l) s = .next (replayLimit s l) :=
  congrArg Host.Outcome.next (if_pos hdomains)

end Channel

/-- Settles O40: each event of a channel is one `crossingEvent`, and the replay limits follow the counts. -/
theorem crossingChannels : Obligations.CrossingChannels := by
  unfold Obligations.CrossingChannels
  intro s ch hdomains hch count mark replayed ended a b training
  have herror := execCrossingFlitError_eq hdomains hch
  have hfailed := execCrossingRetrainDone_failed hdomains hch
  obtain ⟨hcount, hcountReset⟩ := crossingEvent_eq replayed ch.toNat false
  obtain ⟨hdown, hdownReset⟩ := crossingEvent_eq ended ch.toNat true
  refine ⟨fun h => herror.trans (congrArg _ (hcount h)), fun h => herror.trans (congrArg _ (hcountReset h)),
    fun ht h => (hfailed ht).trans (congrArg _ (hdown h)), fun ht h => (hfailed ht).trans (congrArg _ (hdownReset h)),
    fun f _ hlo hw _ k hk => foldl_rset_one _ (by simpa [Fld.fits] using hlo) hw _ (.inl hk),
    fun ht => congrArg Host.Outcome.next ((if_neg (by rw [show s.fleet.xtrain.contains ch.toNat = true from ht]; decide)).trans rfl),
    fun ht ok => congrArg Host.Outcome.next (if_pos (by rw [show s.fleet.xtrain.contains ch.toNat = false from ht]; rfl)),
    fun h4 h8 ht => ?retrain, fun h4 h => ?none, fun p h4 h8 => ?port⟩
  case retrain =>
    rw [execLinkReplayLimit_up h4]
    have htrain : s.fleet.xtrain.contains ch.toNat = false := ht
    exact congrArg Host.Outcome.next (if_pos ⟨h8, by rw [htrain]; rfl⟩)
  case none =>
    rw [execLinkReplayLimit_up h4]
    refine congrArg Host.Outcome.next (if_neg fun ⟨h8, hn⟩ => ?_)
    rcases h with hlt | ht
    · exact absurd h8 (Nat.not_le.mpr hlt)
    · rw [show s.fleet.xtrain.contains ch.toNat = true from ht] at hn
      exact absurd hn (by decide)
  case port =>
    rw [execLinkReplayLimit_up h4]
    exact congrArg Host.Outcome.next (if_pos h8)

end Sys2Proof.Claims
end

section
/-!
PROOFS. What the halves of Vilger Link send again when a training ends, and the registers that this touches (R358, R363).
-/

namespace Sys2Proof.Claims

open Sys2Proof Sys2Proof.Machine

/-! ### One half sends its unacknowledged flits again -/

theorem vhalf_putHalf_ne (s : State) {h k : Nat} (v : VHalf) (hk : k ≠ h) : vhalf (putHalf s h v) k = vhalf s k := by
  simp [vhalf, putHalf, List.getD_eq_getElem?_getD, List.getElem?_set_ne (Ne.symm hk)]

theorem vhalf_of_vil {s t : State} (h : t.vil.halves = s.vil.halves) (k : Nat) : vhalf t k = vhalf s k := by
  unfold vhalf
  rw [h]

/-- Flits put out again, one after the other. -/
theorem foldl_putOut (l : List HeldFlit) (v : VHalf) :
    let w := l.foldl (fun v q => putOut v 1 q) v
    w.replay = v.replay ∧ w.replays = v.replays ∧ w.waiting = v.waiting ∧ w.stalled = v.stalled
      ∧ ∃ r, w.sent = v.sent ++ r ∧ r.length = l.length := by
  induction l generalizing v with
  | nil => exact ⟨rfl, rfl, rfl, rfl, [], by simp, rfl⟩
  | cons q l ih =>
    obtain ⟨hreplay, hreplays, hwaiting, hstalled, r, hsent, hlen⟩ := ih (putOut v 1 q)
    exact ⟨hreplay, hreplays, hwaiting, hstalled, vflitBytes v 1 q :: r, by rw [List.foldl_cons, hsent]; simp [putOut],
      by simp [hlen]⟩

/-- What a half's replay does to that half, to the other one, and to LNK_REPLAYS. -/
theorem replayHalf_out (s : State) (h : Nat) (hl : h < s.vil.halves.length) :
    let t := replayHalf s h
    (vhalf t h).replay = (vhalf s h).replay ∧ (vhalf t h).waiting = (vhalf s h).waiting
      ∧ (vhalf t h).stalled = (vhalf s h).stalled
      ∧ (∃ r, (vhalf t h).sent = (vhalf s h).sent ++ r ∧ r.length = (vhalf s h).replay.length)
      ∧ (∀ k, k ≠ h → vhalf t k = vhalf s k) ∧ t.vil.halves.length = s.vil.halves.length
      ∧ rget t (halfStk h) LNK_REPLAYS = (rget s (halfStk h) LNK_REPLAYS + (vhalf s h).replay.length) % 2 ^ 32
      ∧ ((vhalf s h).replay ≠ [] → (vhalf t h).replays = (vhalf s h).replays + 1
          ∧ t.vil.resent = s.vil.resent.filter (fun q => q.1 != h) ++ (vhalf s h).replay.map (fun q => (h, q.seq))) := by
  obtain ⟨v, hv⟩ : ∃ v, v = vhalf s h := ⟨_, rfl⟩
  rw [← hv]
  by_cases hnil : v.replay = []
  · have hsame : replayHalf s h = s := if_pos (by rw [← hv, hnil]; rfl)
    dsimp only
    rw [hsame, ← hv, hnil]
    exact ⟨rfl, rfl, rfl, ⟨[], by simp, rfl⟩, fun _ _ => rfl, rfl, (Nat.mod_eq_of_lt (rget_lt s _ LNK_REPLAYS 0)).symm,
      fun hne => absurd rfl hne⟩
  · obtain ⟨hreplay, hreplays, hwaiting, hstalled, r, hsent, hlen⟩ := foldl_putOut v.replay { v with replays := v.replays + 1 }
    obtain ⟨w, hw⟩ : ∃ w, w = v.replay.foldl (fun v q => putOut v 1 q) { v with replays := v.replays + 1 } := ⟨_, rfl⟩
    obtain ⟨u, hu⟩ : ∃ u : State, u = { putHalf s h w with vil := { (putHalf s h w).vil with
      resent := s.vil.resent.filter (fun q => q.1 != h) ++ v.replay.map fun q => (h, q.seq) } } := ⟨_, rfl⟩
    have heq : replayHalf s h = rbump u (halfStk h) LNK_REPLAYS v.replay.length := by
      rw [hu, hw, hv]
      exact if_neg (by rw [← hv]; simpa using hnil)
    have hhalf : vhalf u h = w := (vhalf_of_vil (by rw [hu]) h).trans (vhalf_putHalf s h w hl)
    rw [← hw] at hreplay hreplays hwaiting hstalled hsent
    rw [heq]
    refine ⟨?_, ?_, ?_, ⟨r, ?_, hlen⟩, fun k hk => ?_, ?_, ?_, fun _ => ⟨?_, ?_⟩⟩
    · exact (congrArg VHalf.replay hhalf).trans hreplay
    · exact (congrArg VHalf.waiting hhalf).trans hwaiting
    · exact (congrArg VHalf.stalled hhalf).trans hstalled
    · exact (congrArg VHalf.sent hhalf).trans hsent
    · exact (vhalf_of_vil (t := u) (s := putHalf s h w) (by rw [hu]) k).trans (vhalf_putHalf_ne s w hk)
    · exact (show u.vil.halves.length = (putHalf s h w).vil.halves.length by rw [hu]).trans (putHalf_len s h w)
    · rw [rbump_same _ _ _ _ rfl, rget_of_regs (t := u) (s := s) (by rw [hu]; rfl)]
      rfl
    · exact (congrArg VHalf.replays hhalf).trans hreplays
    · show u.vil.resent = _
      rw [hu]

theorem replayHalf_regs (s : State) (h : Nat) : regsBut [(halfStk h, 0x110090)] s (replayHalf s h) := by
  unfold replayHalf
  dsimp only
  split
  · exact regsBut_refl _ _
  · exact regsBut_trans (regsBut_of_regs rfl _) (regsBut_rputm _ _ _ _ _ List.mem_cons_self)

/-! ### A half sends on at the end of a training -/

/-- A half that has nothing to send but its unacknowledged flits resumes by sending those again. -/
theorem resumeHalf_quiet (s : State) (h : Nat) (hl : h < s.vil.halves.length) (hquiet : halfQuiet s h) :
    let t := resumeHalf s h
    (vhalf t h).replay = (vhalf s h).replay ∧ (vhalf t h).replays = 0
      ∧ (∃ r, (vhalf t h).sent = (vhalf s h).sent ++ r ∧ r.length = (vhalf s h).replay.length)
      ∧ (∀ k, k ≠ h → vhalf t k = vhalf s k) ∧ t.vil.halves.length = s.vil.halves.length
      ∧ rget t (halfStk h) LNK_REPLAYS = (rget s (halfStk h) LNK_REPLAYS + (vhalf s h).replay.length) % 2 ^ 32
      ∧ regsBut [(halfStk h, 0x110090), (halfStk h, 0x110080)] s t := by
  obtain ⟨hwaits, hstalls, hnak⟩ := hquiet
  obtain ⟨v0, hv0⟩ : ∃ v0, v0 = { vhalf s h with scram := scramSeeds s h } := ⟨_, rfl⟩
  obtain ⟨s0, hs0⟩ : ∃ s0, s0 = putHalf s h v0 := ⟨_, rfl⟩
  obtain ⟨s1, hs1⟩ : ∃ s1, s1 = replayHalf s0 h := ⟨_, rfl⟩
  obtain ⟨s2, hs2⟩ : ∃ s2, s2 = putHalf s1 h { vhalf s1 h with replays := 0 } := ⟨_, rfl⟩
  have hl0 : h < s0.vil.halves.length := by rw [hs0, putHalf_len]; exact hl
  have hhalf0 : vhalf s0 h = v0 := by rw [hs0]; exact vhalf_putHalf s h v0 hl
  have hregs0 : s0.regs = s.regs := by rw [hs0]; rfl
  obtain ⟨hreplay, hwaiting, hstalled, ⟨r, hsent, hlen⟩, hother, hlength, hreplays, _⟩ := replayHalf_out s0 h hl0
  rw [← hs1, hhalf0] at hreplay hwaiting hstalled hsent
  rw [hhalf0] at hlen
  rw [← hs1] at hother hlength
  rw [← hs1, hhalf0] at hreplays
  have hregs1 : regsBut [(halfStk h, 0x110090)] s0 s1 := hs1 ▸ replayHalf_regs s0 h
  have hl1 : h < s1.vil.halves.length := hlength ▸ hl0
  have hhalf2 : vhalf s2 h = { vhalf s1 h with replays := 0 } := by rw [hs2]; exact vhalf_putHalf _ _ _ hl1
  have hl2 : h < s2.vil.halves.length := by rw [hs2, putHalf_len]; exact hl1
  have hnone : (vhalf s2 h).waiting = [] := by rw [hhalf2]; exact hwaiting.trans (by rw [hv0]; exact hwaits)
  have hidle : (vhalf s2 h).stalled = [] := by rw [hhalf2]; exact hstalled.trans (by rw [hv0]; exact hstalls)
  obtain ⟨s3, hs3⟩ : ∃ s3, s3 = rbump (putHalf s2 h (vhalf s2 h)) (halfStk h) LNK_FLITS_TX 0 := ⟨_, rfl⟩
  have hheld : sendHeld s2 h = s3 := by
    have hput : ({ vhalf s2 h with waiting := [] } : VHalf) = vhalf s2 h := by rw [← hnone]
    have hsend : sendHeld s2 h = rbump (putHalf s2 h { vhalf s2 h with waiting := [] }) (halfStk h) LNK_FLITS_TX 0 := by
      unfold sendHeld
      simp only [hnone, List.take_nil, List.drop_nil, List.foldl_nil, List.length_nil]
    rw [hsend, hput, hs3]
  have hhalf3 : vhalf s3 h = vhalf s2 h := by
    rw [hs3]
    exact (vhalf_of_vil rfl h).trans (vhalf_putHalf _ _ _ hl2)
  have hl3 : h < s3.vil.halves.length := by
    rw [hs3]
    exact lt_of_lt_of_eq hl2 (putHalf_len s2 h _).symm
  have hstall3 : (vhalf s3 h).stalled = [] := hhalf3 ▸ hidle
  have heq : resumeHalf s h = putHalf s3 h { vhalf s3 h with stalled := [] } := by
    have hresume : resumeHalf s h = sendStalled (sendHeld s2 h) h := by
      unfold resumeHalf
      have hsend : sendNak { vhalf s h with scram := scramSeeds s h } = v0 := by
        rw [hv0]
        exact if_neg (by simp [hnak])
      dsimp only
      rw [hsend, ← hs0, ← hs1, ← hs2]
    rw [hresume, hheld, sendStalled, hstall3, List.foldl_nil]
  have hhalf : vhalf (resumeHalf s h) h = { vhalf s1 h with replays := 0 } := by
    rw [heq, vhalf_putHalf _ _ _ hl3, ← hstall3, hhalf3, hhalf2]
  have hregs3 : regsBut [(halfStk h, 0x110090), (halfStk h, 0x110080)] s1 s3 := by
    rw [hs3]
    refine regsBut_trans (regsBut_of_regs (t := putHalf s2 h (vhalf s2 h)) ?_ _) (regsBut_rputm _ _ _ _ _ (by simp [LNK_FLITS_TX]))
    rw [hs2]
    rfl
  refine ⟨?_, ?_, ⟨r, ?_, ?_⟩, fun k hk => ?_, ?_, ?_, ?_⟩
  · rw [hhalf]
    exact hreplay.trans (by rw [hv0])
  · rw [hhalf]
  · rw [hhalf]
    exact hsent.trans (by rw [hv0])
  · exact hlen.trans (by rw [hv0])
  · rw [heq, vhalf_putHalf_ne _ _ hk, hs3]
    refine (vhalf_putHalf_ne s2 (vhalf s2 h) hk).trans ?_
    rw [hs2, vhalf_putHalf_ne _ _ hk, hother k hk, hs0, vhalf_putHalf_ne _ _ hk]
  · rw [heq, putHalf_len, hs3]
    refine (putHalf_len s2 h _).trans ?_
    rw [hs2, putHalf_len, hlength, hs0, putHalf_len]
  · have hkeep : rget (resumeHalf s h) (halfStk h) LNK_REPLAYS = rget s1 (halfStk h) LNK_REPLAYS := by
      rw [rget_of_regs (t := resumeHalf s h) (s := s3) (by rw [heq]; rfl), hs3, rbump_ne _ _ _ _ _ rfl (by decide)]
      exact rget_of_regs (by rw [hs2]; rfl) _ _
    rw [hkeep, hreplays, rget_of_regs hregs0, hv0]
  · rw [heq]
    exact regs_then_same (regsBut_trans (regsBut_trans (regsBut_of_regs hregs0 _)
      (regsBut_mono hregs1 fun q hq => List.mem_cons.mpr (.inl (List.mem_singleton.mp hq)))) hregs3) rfl

theorem halfStk_ne {h k : Nat} (hh : h < 2) (hk : k < 2) (hne : h ≠ k) : halfStk h ≠ halfStk k := by
  obtain ⟨rfl, rfl⟩ | ⟨rfl, rfl⟩ : h = 0 ∧ k = 1 ∨ h = 1 ∧ k = 0 := by omega
  · decide
  · decide

theorem rget_otherHalf {s t : State} {h k a b : Nat} (hh : h < 2) (hk : k < 2) (hne : k ≠ h) (ha : a < 2 ^ 21) (hb : b < 2 ^ 21)
    (hregs : regsBut [(halfStk h, a), (halfStk h, b)] s t) {f : Fld} (hf : f.off + f.stride * 0 < 2 ^ 21) :
    rget t (halfStk k) f = rget s (halfStk k) f := by
  refine rget_of_regsBut hregs _ f 0 fun q hq => ?_
  have hstk := halfStk_ne hk hh hne
  rcases List.mem_cons.mp hq with rfl | hq
  · exact regKey_ne_stack _ _ _ _ hstk hf ha
  · rw [List.mem_singleton.mp hq]
    exact regKey_ne_stack _ _ _ _ hstk hf hb

/-- Both halves send their unacknowledged flits again. -/
theorem resumeLink_resumed (s : State) : Resumed s (resumeLink s) := by
  intro hlen hquiet0 hquiet1
  obtain ⟨t, ht⟩ : ∃ t, t = resumeHalf s 0 := ⟨_, rfl⟩
  obtain ⟨areplay, areplays, ⟨ra, asent, alen⟩, aother, alength, arget, aregs⟩ := resumeHalf_quiet s 0 (by omega) hquiet0
  rw [← ht] at areplay areplays asent aother alength arget aregs
  have hother : vhalf t 1 = vhalf s 1 := aother 1 (by decide)
  have hquiet : halfQuiet t 1 := by
    unfold halfQuiet
    rw [hother]
    exact hquiet1
  obtain ⟨breplay, breplays, ⟨rb, bsent, blen⟩, bother, _, brget, bregs⟩ := resumeHalf_quiet t 1 (by omega) hquiet
  have heq : resumeLink s = resumeHalf t 1 := by rw [ht]; rfl
  have hkept : vhalf (resumeHalf t 1) 0 = vhalf t 0 := bother 0 (by decide)
  rw [heq]
  intro h hh
  obtain rfl | rfl : h = 0 ∨ h = 1 := by omega
  · rw [hkept]
    refine ⟨areplay, areplays, by simp [asent], by simp [asent, alen], ?_⟩
    rw [rget_otherHalf (h := 1) (by decide) (by decide) (by decide) (by decide) (by decide) bregs (by decide)]
    exact arget
  · refine ⟨breplay.trans (by rw [hother]), breplays, by simp [bsent, hother], by simp [bsent, blen, hother], ?_⟩
    rw [brget, hother, rget_otherHalf (h := 0) (by decide) (by decide) (by decide) (by decide) (by decide) aregs (by decide)]

/-! ### The registers that resuming touches -/

theorem mem_lnkSentWords {h : Nat} (hh : h < 2) : (halfStk h, LNK_FLITS_TX.off) ∈ lnkSentWords := by
  interval_cases h <;> decide

theorem sendVFlit_regs {h : Nat} (hh : h < 2) (s : State) (bs : List Byte) : regsBut lnkSentWords s (sendVFlit s h bs) := by
  unfold sendVFlit
  dsimp only
  split
  · exact regsBut_trans (regsBut_of_regs rfl _) (regsBut_rputm _ _ _ _ _ (mem_lnkSentWords hh))
  · exact regsBut_of_regs rfl _

/-- A message that is sent counts flits, and touches no other register. -/
theorem sendMsg_regs (s : State) (m : VMsg) : regsBut lnkSentWords s (sendMsg s m) := by
  unfold sendMsg giveMsg
  dsimp only
  split
  · exact regsBut_trans (regsBut_of_regs rfl _)
      (mem_regs_foldl (fun s b => sendVFlit s m.half.toNat b) _ _ (fun b _ s => sendVFlit_regs m.half.isLt s b) _)
  · exact regsBut_of_regs rfl _

theorem sendHeld_regs {h : Nat} (hh : h < 2) (s : State) : regsBut lnkSentWords s (sendHeld s h) := by
  unfold sendHeld
  exact regsBut_trans (regsBut_of_regs rfl _) (regsBut_rputm _ _ _ _ _ (mem_lnkSentWords hh))

theorem sendStalled_regs (s : State) (h : Nat) : regsBut lnkSentWords s (sendStalled s h) :=
  regsBut_trans (regsBut_of_regs rfl _) (mem_regs_foldl sendMsg _ _ (fun m _ s => sendMsg_regs s m) _)

theorem resumeHalf_regs {h : Nat} (hh : h < 2) (s : State) : regsBut (lnkSentWords ++ lnkReplayWords) s (resumeHalf s h) := by
  have hsent : ∀ q ∈ lnkSentWords, q ∈ lnkSentWords ++ lnkReplayWords := fun _ hq => List.mem_append_left _ hq
  have hreplay : ∀ q ∈ [(halfStk h, 0x110090)], q ∈ lnkSentWords ++ lnkReplayWords := by interval_cases h <;> decide
  unfold resumeHalf
  dsimp only
  refine regsBut_trans ?_ (regsBut_mono (sendStalled_regs _ _) hsent)
  refine regsBut_trans ?_ (regsBut_mono (sendHeld_regs hh _) hsent)
  refine regsBut_trans ?_ (regsBut_of_regs rfl _)
  exact regsBut_trans (regsBut_of_regs rfl _) (regsBut_mono (replayHalf_regs _ _) hreplay)

theorem resumeLink_regs (s : State) : regsBut (lnkSentWords ++ lnkReplayWords) s (resumeLink s) :=
  regsBut_trans (resumeHalf_regs (by decide) s) (resumeHalf_regs (by decide) _)

theorem resumeLink_only (s : State) : changesOnly [.regs, .vil] s (resumeLink s) :=
  only_frameM (resumeLink_frame (fm := [.regs, .vil]) s (.refl _ _) (by decide)) (by decide)

end Sys2Proof.Claims
end

section
/-!
PROOFS. Vilger Link's training and retrains (R359 to R361, R363, R381).
-/

namespace Sys2Proof.Claims

open Sys2Proof Sys2Proof.Machine

/-! ### Small steps of the link's state -/

theorem half_cases {h : Nat} (hh : h < 2) : h = 0 ∨ h = 1 := by omega

/-- `dropLanes` writes the lanes in use of both halves and the width. -/
theorem dropLanes_regs (s : State) : regsBut (lnkStatusWord :: lnkLaneWords) s (dropLanes s) :=
  regsBut_trans (regsBut_trans (regsBut_rputm _ _ _ _ _ (by decide)) (regsBut_rputm _ _ _ _ _ (by decide)))
    (regsBut_rputm _ _ _ _ _ (by decide))

/-- The shared state's word is none of the lane words. -/
theorem rget_lanes_putStatus (s : State) (f g : Fld) (v : Nat) {h : Nat} (hh : h < 2) (hf : f.off = 0x11000C) (hs : f.stride = 0)
    (hg : g.off = 0x110004) (ht : g.stride = 0) (hfits : g.fits = true) : rget (rput s 0 g v) (halfStk h) f = rget s (halfStk h) f := by
  refine rget_ne4 s f g v hfits _ _ ?_
  rw [hf, hs, hg, ht]
  rcases half_cases hh with rfl | rfl <;> decide

theorem lnkState_rput_apart (s : State) (f : Fld) (v : Nat) (hfits : f.fits = true)
    (h : LNK_STATUS_STATE.off ≠ f.off ∨ LNK_STATUS_STATE.apart f = true) : lnkState (rput s 0 f v) = lnkState s :=
  rget_rput_ne s 0 LNK_STATUS_STATE f v hfits h

/-! ### EN (R359) -/

section States

variable {s : State}

theorem exec_onLink (hreach : lnkReach s = true) (f : State → State) :
    (Host.Outcome.next (onLink s f) : Host.Outcome State Fault Refusal) = .next (f s) :=
  congrArg Host.Outcome.next (onLink_run s f hreach)

theorem writeLnkEn_on (hoff : ron s 0 LNK_CTL_EN = false) (href : ron s 0 CLK_STATUS_REF_OK = true) :
    writeLnkEn s true = putLnkState (putTraining (rset s 0 LNK_CTL_EN) 0 false) 1 := by
  unfold writeLnkEn
  rw [if_neg (by decide), if_neg (by simp [hoff])]
  exact if_pos href

/-- The link with EN at 0, no lane in use. -/
def lnkDown (s : State) : State := putTraining (setRword (dropLanes (rput s 0 LNK_CTL_EN 0)) 0 0x110004 0) 0 false

theorem lnkDown_facts (s : State) : lnkState (lnkDown s) = 0 ∧ rget (lnkDown s) 0 LNK_CTL_EN = 0
    ∧ (lnkDown s).vil = { s.vil with attempts := 0, retrain := false }
    ∧ (∀ h, h < 2 → rget (lnkDown s) (halfStk h) LNK_LANES_USED = 0) ∧ rget (lnkDown s) 0 LNK_STATUS_WIDTH = 0
    ∧ regsBut ((0, 0x110000) :: lnkStatusWord :: lnkLaneWords) s (lnkDown s) ∧ changesOnly [.regs, .vil] s (lnkDown s) := by
  obtain ⟨u, hu⟩ : ∃ u, u = dropLanes (rput s 0 LNK_CTL_EN 0) := ⟨_, rfl⟩
  obtain ⟨hlanes, _, honly⟩ := dropLanes_facts (rput s 0 LNK_CTL_EN 0)
  have hregs := dropLanes_regs (rput s 0 LNK_CTL_EN 0)
  rw [← hu] at hlanes honly hregs
  have hdown : (lnkDown s).regs = (setRword u 0 0x110004 0).regs := by rw [hu]; rfl
  have hset : regsBut [(0, 0x110004)] u (setRword u 0 0x110004 0) := regsBut_setRword _ _ _ _
  refine ⟨?_, ?_, rfl, fun h hh => ?_, ?_, ?_, ?_⟩
  · exact (rget_of_regs hdown 0 LNK_STATUS_STATE).trans ((rget_setRword_same u 0 0x110004 0 LNK_STATUS_STATE rfl).trans rfl)
  · refine (rget_of_regs hdown 0 LNK_CTL_EN).trans ((rget_of_regsBut hset 0 LNK_CTL_EN 0 (by decide)).trans ?_)
    exact (rget_of_regsBut hregs 0 LNK_CTL_EN 0 (by decide)).trans (rget_rput_same1 _ _ _ _ rfl (by decide))
  · refine (rget_of_regs hdown _ LNK_LANES_USED).trans ((rget_of_regsBut hset _ LNK_LANES_USED 0 ?_).trans (hlanes h hh))
    rcases half_cases hh with rfl | rfl <;> decide
  · exact (rget_of_regs hdown 0 LNK_STATUS_WIDTH).trans ((rget_setRword_same u 0 0x110004 0 LNK_STATUS_WIDTH rfl).trans rfl)
  · refine regs_then_same (regs_then (regsBut_trans (regsBut_rputm _ _ _ _ _ (by decide)) (regsBut_mono hregs (by decide))) hset (by decide)) hdown
  · have hall : changesOnly [.regs, .vil] s (setRword u 0 0x110004 0) :=
      only_mono (only_trans (only_trans (only_rput _ _ _ _ _) honly) (only_setRword _ _ _ _)) (by decide)
    exact only_then hall (show changesOnly [.vil] (setRword u 0 0x110004 0) (lnkDown s) from hu ▸ only_putTraining _ _ _) (by decide)

/-! ### Equalisation, deskew and the width (R360) -/

theorem markLanes_facts (hstate : lnkState s = 2) (htrain : s.vil.retrain = false) (a b : Half) :
    lnkState (markLanes s a b) = 3 ∧ rget (markLanes s a b) (halfStk 0) LNK_LANES_GOOD = a.toNat
      ∧ rget (markLanes s a b) (halfStk 1) LNK_LANES_GOOD = b.toNat
      ∧ regsBut (lnkStatusWord :: lnkLaneWords) s (markLanes s a b) ∧ changesOnly [.regs] s (markLanes s a b) := by
  have heq : markLanes s a b
      = putLnkState (rput (rput s (halfStk 0) LNK_LANES_GOOD a.toNat) (halfStk 1) LNK_LANES_GOOD b.toNat) 3 := by
    unfold markLanes
    rw [if_neg (by simp [hstate]), htrain]
    rfl
  rw [heq]
  refine ⟨lnkState_put _ _ (by decide), ?_, ?_, ?_, ?_⟩
  · refine (rget_lanes_putStatus _ _ _ _ (by decide) rfl rfl rfl rfl rfl).trans ((rget_ne4 _ _ _ _ rfl _ _ (by decide)).trans ?_)
    exact rget_rput_same1 _ _ _ _ rfl a.isLt
  · exact (rget_lanes_putStatus _ _ _ _ (by decide) rfl rfl rfl rfl rfl).trans (rget_rput_same1 _ _ _ _ rfl b.isLt)
  · exact regsBut_trans (regsBut_trans (regsBut_rputm _ _ _ _ _ (by decide)) (regsBut_rputm _ _ _ _ _ (by decide)))
      (regsBut_rputm _ _ _ _ _ (by decide))
  · exact only_trans (only_rput _ _ _ _ _) (only_trans (only_rput _ _ _ _ _) (only_rput _ _ _ _ _))

/-- The width that the lanes allow is in force, and the link goes on to a state. -/
theorem putWidth_state {w : Nat} (hw : linkWidth s = some w) {v : Nat} (hv : v < 8) :
    let t := putLnkState (putWidth s w) v
    lnkState t = v ∧ rget t 0 LNK_STATUS_WIDTH = (if w = 16 then 3 else if w = 8 then 2 else 1)
      ∧ (w < 16 → rget t (halfStk 0) LNK_FAULT_DEGRADE = 1)
      ∧ regsBut (lnkStatusWord :: (lnkLaneWords ++ lnkFaultWords)) s t ∧ changesOnly [.regs] s t := by
  obtain ⟨hwidth, hdegrade, hregs, honly, _⟩ := putWidth_facts s w (width_mem s w hw)
  refine ⟨lnkState_put _ _ hv, (rget_rput_ne _ _ _ _ _ rfl (by decide)).trans hwidth, fun h => ?_,
    regsBut_trans hregs (regsBut_rputm _ _ _ _ _ (by decide)), only_trans honly (only_rput _ _ _ _ _)⟩
  exact (rget_ne4 _ _ _ _ rfl _ _ (by decide)).trans (hdegrade h)

theorem lockBoundary_eq (hstate : lnkState s = 3) {w : Nat} (hw : linkWidth s = some w) :
    lockBoundary s = putLnkState (putWidth s w) 4 := by
  unfold lockBoundary
  rw [if_neg (by simp [hstate]), hw]

/-! ### The exchange of revisions (R361) -/

theorem exchangeRevisions_refused (lo hi : Nat) (h : min hi (rget s 0 LNK_REV_REVMAX) < max lo (rget s 0 LNK_REV_REVMIN)) :
    let t := exchangeRevisions s lo hi
    lnkState t = 7 ∧ rget t (halfStk 0) LNK_FAULT_REFUSED = 1 ∧ rget t (halfStk 1) LNK_FAULT_REFUSED = 1
      ∧ (∀ h, h < 2 → rget t (halfStk h) LNK_LANES_USED = 0)
      ∧ regsBut (lnkStatusWord :: (lnkLaneWords ++ lnkFaultWords)) s t ∧ changesOnly [.regs] s t := by
  obtain ⟨u, hu⟩ : ∃ u, u = putLnkState (dropLanes s) 7 := ⟨_, rfl⟩
  have heq : exchangeRevisions s lo hi = lnkFault u LNK_FAULT_REFUSED := by
    rw [hu]
    exact if_pos h
  obtain ⟨hlanes, hregs, honly⟩ := dropLanes_facts s
  obtain ⟨hzero, hone, fregs, fonly, fstate, fkeep⟩ := lnkFault_facts u LNK_FAULT_REFUSED rfl (by decide) rfl rfl
  rw [heq]
  refine ⟨fstate.trans (hu ▸ lnkState_put _ _ (by decide)), hzero, hone, fun h hh => ?_, ?_, ?_⟩
  · rw [fkeep _ _ (by decide) (by decide), hu]
    exact (rget_lanes_putStatus _ _ _ _ hh rfl rfl rfl rfl rfl).trans (hlanes h hh)
  · refine regs_then ?_ fregs (by decide)
    rw [hu]
    exact regsBut_trans hregs (regsBut_rputm _ _ _ _ _ (by decide))
  · refine only_trans ?_ fonly
    rw [hu]
    exact only_trans honly (only_rput _ _ _ _ _)

/-- The link ACTIVE at a revision, before its halves send on. -/
def lnkAgreed (s : State) (neg : Nat) : State := rput (putLnkState (putTraining s 0 false) 5) 0 LNK_STATUS_NEGREV neg

theorem lnkAgreed_facts (s : State) {neg : Nat} (hneg : neg < 2 ^ LNK_STATUS_NEGREV.width) :
    lnkState (lnkAgreed s neg) = 5 ∧ rget (lnkAgreed s neg) 0 LNK_STATUS_NEGREV = neg
      ∧ (lnkAgreed s neg).vil = { s.vil with attempts := 0, retrain := false }
      ∧ regsBut [lnkStatusWord] s (lnkAgreed s neg) ∧ changesOnly [.regs, .vil] s (lnkAgreed s neg) := by
  refine ⟨?_, rget_rput_same1 _ _ _ _ rfl hneg, rfl, ?_, ?_⟩
  · exact (lnkState_rput_apart _ _ _ rfl (by decide)).trans (lnkState_put _ _ (by decide))
  · exact regsBut_trans (regsBut_trans (regsBut_of_regs (t := putTraining s 0 false) rfl _) (regsBut_rputm _ _ _ _ _ (by decide)))
      (regsBut_rputm _ _ _ _ _ (by decide))
  · exact only_then (only_then (only_mono (only_putTraining s 0 false) (by decide)) (only_rput _ _ _ _ _) (by decide)) (only_rput _ _ _ _ _) (by decide)

theorem linkTrainingLimit_fails (h1 : 1 ≤ lnkState s) (h4 : lnkState s ≤ 4) : trainingLimit s = failTraining s := by
  unfold trainingLimit
  dsimp only
  rw [if_neg (by omega), if_pos ⟨h1, h4⟩]

theorem vilgerStates : VilgerStates := by
  unfold VilgerStates
  intro s hreach
  refine ⟨fun hoff href => ?on, ⟨_, exec_onLink hreach _, lnkDown_facts s⟩, fun hstate => ?receiver,
    fun hstate htrain a b => ⟨_, exec_onLink hreach _, markLanes_facts hstate htrain a b⟩, fun hstate w hw => ?boundary,
    fun hstate lo hi => ?exchange, fun h1 h4 => ?limit, fun _ => resumeLink_resumed s, resumeLink_regs s, resumeLink_only s⟩
  case on =>
    refine ⟨_, (exec_onLink hreach _).trans (congrArg _ (writeLnkEn_on hoff href)), lnkState_put _ _ (by decide), ?_, rfl, ?_, ?_⟩
    · exact (rget_rput_ne _ _ _ _ _ rfl (by decide)).trans (rset_one s 0 LNK_CTL_EN rfl (by decide))
    · exact regsBut_trans (regsBut_trans (t := rset s 0 LNK_CTL_EN) (regsBut_rputm _ _ _ _ _ (by decide)) (regsBut_of_regs rfl _))
        (regsBut_rputm _ _ _ _ _ (by decide))
    · exact only_then (only_then (only_mono (only_rput _ _ _ _ _) (by decide)) (only_putTraining _ _ _) (by decide)) (only_rput _ _ _ _ _) (by decide)
  case receiver =>
    exact ⟨_, (exec_onLink hreach _).trans (congrArg _ (if_pos hstate)), lnkState_put _ _ (by decide),
      regsBut_rputm _ _ _ _ _ (by decide), only_rput _ _ _ _ _⟩
  case boundary =>
    exact ⟨_, (exec_onLink hreach _).trans (congrArg _ (lockBoundary_eq hstate hw)), putWidth_state hw (by decide)⟩
  case exchange =>
    intro neg
    have hexec : exec (.identityExchange lo hi) s = .next (exchangeRevisions s lo.toNat hi.toNat) :=
      (exec_onLink hreach _).trans (congrArg _ (if_pos hstate))
    refine ⟨fun hle => ?_, fun hlt => ⟨_, hexec, exchangeRevisions_refused _ _ hlt⟩⟩
    refine ⟨lnkAgreed s neg, hexec.trans (congrArg _ (if_neg (Nat.not_lt.mpr hle))), lnkAgreed_facts s ?_⟩
    exact lt_of_le_of_lt (min_le_left _ _) hi.isLt
  case limit =>
    exact ⟨_, (exec_onLink hreach _).trans (congrArg _ (linkTrainingLimit_fails h1 h4)), failTraining_facts s⟩

end States

/-! ### Retrains (R363, R381) -/

/-- A write of the same word in two machines leaves them as far apart as they were. -/
theorem regsBut_rput_both {l : List (Nat × Nat)} {s t : State} (h : regsBut l s t) (k : Nat) (f : Fld) (v : Nat)
    (hf : ∀ q ∈ l, regKey k (f.off + f.stride * 0) ≠ regKey q.1 q.2) : regsBut l (rput s k f v) (rput t k f v) := by
  intro k' off hoff
  unfold rput
  rw [rword_setRword, rword_setRword, h k _ hf, h k' off hoff]

theorem regsBut_rbump_both {l : List (Nat × Nat)} {s t : State} (h : regsBut l s t) (k : Nat) (f : Fld)
    (hf : ∀ q ∈ l, regKey k (f.off + f.stride * 0) ≠ regKey q.1 q.2) : regsBut l (rbump s k f) (rbump t k f) := by
  unfold rbump
  rw [rget_of_regsBut h k f 0 hf]
  exact regsBut_rput_both h k f _ hf

/-- The link in RETRAIN, its halves' replays counted anew. -/
def lnkRetrain (s : State) : State :=
  let s1 := lnkBump s LNK_RETRAINS
  { s1 with vil := { s1.vil with
    retrain := true
    halves := s1.vil.halves.map fun v => { v with replays := 0 } } }

theorem startRetrain_eq {s : State} (hstate : lnkState s = 5) (replays : Bool) : startRetrain s replays
    = lnkRetrain (if replays then lnkFault (putLnkState s 6) LNK_FAULT_RETRAINED else putLnkState s 6) := by
  unfold startRetrain
  exact if_neg (by simp [hstate])

theorem lnkRetrain_regs (s : State) : (lnkRetrain s).regs = (rbump (rbump s (halfStk 0) LNK_RETRAINS) (halfStk 1) LNK_RETRAINS).regs :=
  rfl

theorem lnkRetrain_get (s : State) {k : Nat} {f : Fld} (h0 : regKey k (f.off + f.stride * 0) ≠ regKey (halfStk 0) 0x110094)
    (h1 : regKey k (f.off + f.stride * 0) ≠ regKey (halfStk 1) 0x110094) : rget (lnkRetrain s) k f = rget s k f := by
  rw [rget_of_regs (lnkRetrain_regs s)]
  exact (rget_ne4 _ _ _ _ rfl _ _ h1).trans (rget_ne4 _ _ _ _ rfl _ _ h0)

theorem lnkRetrain_only (s : State) : changesOnly [.regs, .vil] s (lnkRetrain s) :=
  only_then (only_mono (only_trans (only_rbump s (halfStk 0) LNK_RETRAINS 1)
    (only_rbump (rbump s (halfStk 0) LNK_RETRAINS) (halfStk 1) LNK_RETRAINS 1)) (by decide)) (only_vil _ _) (by decide)

/-- RETRAINED of the replays is all that a retrain after eight of them adds. -/
theorem lnkRetrain_both {l : List (Nat × Nat)} {s t : State} (h : regsBut l s t)
    (hf : ∀ i, i < 2 → ∀ q ∈ l, regKey (halfStk i) (LNK_RETRAINS.off + LNK_RETRAINS.stride * 0) ≠ regKey q.1 q.2) :
    regsBut l (lnkRetrain s) (lnkRetrain t) := by
  have hboth := regsBut_rbump_both (regsBut_rbump_both h (halfStk 0) LNK_RETRAINS (hf 0 (by decide))) (halfStk 1) LNK_RETRAINS
    (hf 1 (by decide))
  exact regsBut_trans (regsBut_trans (regsBut_of_regs (lnkRetrain_regs s).symm l) hboth) (regsBut_of_regs (lnkRetrain_regs t) l)

/-- Two machines that a step takes on alike, in a part more than those in which they differ, differ in no other part. -/
theorem only_both {q : Component} {ps : List Component} {s t s' t' : State} (h : changesOnly ps s t)
    (hs : changesOnly (q :: ps) s s') (ht : changesOnly (q :: ps) t t') (hq : q.same s' t') : changesOnly ps s' t' := by
  intro p hp
  by_cases hpq : p = q
  · exact hpq ▸ hq
  · have hp' : p ∉ q :: ps := fun hmem => (List.mem_cons.mp hmem).elim hpq hp
    have hbase := h p hp
    have hleft := hs p hp'
    have hright := ht p hp'
    cases p <;> exact Eq.trans hright (Eq.trans hbase (Eq.symm hleft))

theorem lnkRetrain_vil {s t : State} (h : t.vil = s.vil) : (lnkRetrain t).vil = (lnkRetrain s).vil := by
  have hform : ∀ u : State, (lnkRetrain u).vil
      = { u.vil with retrain := true, halves := u.vil.halves.map fun v => { v with replays := 0 } } := fun _ => rfl
  rw [hform, hform, h]

theorem startRetrain_facts {s : State} (hstate : lnkState s = 5) :
    let t := startRetrain s false
    lnkState t = 6 ∧ t.vil.retrain = true ∧ rget t (halfStk 0) LNK_RETRAINS = (rget s (halfStk 0) LNK_RETRAINS + 1) % 2 ^ 32
      ∧ t.vil.halves = s.vil.halves.map (fun v => { v with replays := 0 }) ∧ changesOnly [.regs, .vil] s t
      ∧ rget t (halfStk 0) LNK_FAULT_RETRAINED = rget s (halfStk 0) LNK_FAULT_RETRAINED := by
  have heq : startRetrain s false = lnkRetrain (putLnkState s 6) := startRetrain_eq hstate false
  have hkeep : ∀ f : Fld, f.off + f.stride * 0 ≠ 0x110004 → rget (putLnkState s 6) (halfStk 0) f = rget s (halfStk 0) f :=
    fun f hf => rget_ne4 _ _ _ _ rfl _ _ (by simpa [regKey_inj, halfStk, dieStack, LNK_STATUS_STATE] using hf)
  rw [heq]
  refine ⟨(lnkRetrain_get _ (by decide) (by decide)).trans (lnkState_put _ _ (by decide)), rfl, ?_, rfl,
    only_trans (only_mono (only_rput _ _ _ _ _) (by decide)) (lnkRetrain_only _),
    (lnkRetrain_get _ (by decide) (by decide)).trans (hkeep _ (by decide))⟩
  rw [rget_of_regs (lnkRetrain_regs _)]
  refine (rget_ne4 _ _ _ _ rfl _ _ (by decide)).trans ((rbump_same _ _ _ _ rfl).trans ?_)
  rw [hkeep _ (by decide)]
  rfl

theorem startRetrain_replays {s : State} (hstate : lnkState s = 5) :
    let t := startRetrain s false
    let u := startRetrain s true
    rget u (halfStk 0) LNK_FAULT_RETRAINED = 1 ∧ rget u (halfStk 1) LNK_FAULT_RETRAINED = 1
      ∧ lnkState u = 6 ∧ u.vil = t.vil ∧ regsBut lnkFaultWords t u ∧ changesOnly [.regs] t u := by
  have ht : startRetrain s false = lnkRetrain (putLnkState s 6) := startRetrain_eq hstate false
  have hu : startRetrain s true = lnkRetrain (lnkFault (putLnkState s 6) LNK_FAULT_RETRAINED) := startRetrain_eq hstate true
  obtain ⟨hzero, hone, fregs, fonly, fstate, _⟩ := lnkFault_facts (putLnkState s 6) LNK_FAULT_RETRAINED rfl (by decide) rfl rfl
  have hsix : lnkState (putLnkState s 6) = 6 := lnkState_put _ _ (by decide)
  rw [ht, hu]
  clear ht hu
  generalize putLnkState s 6 = x at *
  generalize lnkFault x LNK_FAULT_RETRAINED = y at *
  have hvil : (lnkRetrain y).vil = (lnkRetrain x).vil := lnkRetrain_vil (fonly .vil (by decide))
  exact ⟨(lnkRetrain_get _ (by decide) (by decide)).trans hzero, (lnkRetrain_get _ (by decide) (by decide)).trans hone,
    (lnkRetrain_get _ (by decide) (by decide)).trans (fstate.trans hsix), hvil,
    lnkRetrain_both fregs (by decide), only_both (q := .vil) fonly (only_mono (lnkRetrain_only x) (by decide))
      (only_mono (lnkRetrain_only y) (by decide)) hvil⟩

theorem endRetrain_active {s : State} (hstate : lnkState s = 6) {w : Nat} (hw : linkWidth s = some w) :
    endRetrain s true = resumeLink (putTraining (putLnkState (putWidth s w) 5) 0 false) := by
  unfold endRetrain
  rw [if_neg (by simp [hstate]), if_pos rfl, hw]

theorem endRetrain_failed {s : State} (hstate : lnkState s = 6) : endRetrain s false = putLnkState s 2 := by
  unfold endRetrain
  rw [if_neg (by simp [hstate])]
  rfl

theorem execAckTimer_unacked {s : State} (hreach : lnkReach s = true) (hstate : lnkState s = 5) {h : BitVec 1}
    (hne : (vhalf s h.toNat).replay ≠ []) : exec (.ackTimer h) s = .next (replayHalf (elapseNs s 2000) h.toNat) := by
  refine congrArg Host.Outcome.next ((onTraffic_run s _ hreach hstate).trans (if_neg ?_))
  simpa using hne

theorem lnkReach_up {s : State} (hreach : lnkReach s = true) : 4 ≤ s.rst.domains := by
  unfold lnkReach at hreach
  simp only [Bool.and_eq_true, decide_eq_true_eq] at hreach
  exact hreach.1.1

theorem vilgerRetrain : VilgerRetrain := by
  unfold VilgerRetrain
  intro s hreach
  refine ⟨fun hstate => ?retrain, fun hstate => ⟨fun w hw => ?done, ?failed, ?limit⟩, fun hstate hlen h hne => ?timer,
    fun h0 h7 => (exec_onLink hreach _).trans (congrArg _ (if_neg (by omega))), fun h => ?lock⟩
  case retrain =>
    obtain ⟨hsix, hflag, hcount, hhalves, honly, hfault⟩ := startRetrain_facts hstate
    refine ⟨_, exec_onLink hreach _, hsix, hflag, hcount, hhalves, honly, hfault, fun h h8 => ⟨_, ?_, startRetrain_replays hstate⟩⟩
    exact (execLinkReplayLimit_up (lnkReach_up hreach) _).trans (congrArg _ (if_pos h8))
  case done =>
    obtain ⟨hfive, hwidth, _, hregs, honly⟩ := putWidth_state hw (v := 5) (by decide)
    obtain ⟨v, hv⟩ : ∃ v, v = putLnkState (putWidth s w) 5 := ⟨_, rfl⟩
    rw [← hv] at hfive hwidth hregs honly
    refine ⟨putTraining v 0 false, (exec_onLink hreach _).trans (congrArg _ (hv ▸ endRetrain_active hstate hw)), hfive, hwidth, ?_,
      regs_then_same hregs rfl, only_then (only_mono honly (by decide)) (only_putTraining _ _ _) (by decide)⟩
    have hvil : v.vil = s.vil := honly .vil (by decide)
    show { v.vil with attempts := 0, retrain := false } = _
    rw [hvil]
  case failed =>
    exact ⟨_, (exec_onLink hreach _).trans (congrArg _ (endRetrain_failed hstate)), lnkState_put _ _ (by decide),
      regsBut_rputm _ _ _ _ _ (by decide), only_rput _ _ _ _ _⟩
  case limit =>
    refine ((exec_onLink hreach _).trans (congrArg _ ?_)).trans (exec_onLink hreach _).symm
    exact (if_pos hstate).trans (endRetrain_failed hstate).symm
  case timer =>
    have helapse := elapseNs_only s 2000
    have hvil : (elapseNs s 2000).vil = s.vil := helapse .vil (by decide)
    have hhalf : vhalf (elapseNs s 2000) h.toNat = vhalf s h.toNat := vhalf_of_vil (by rw [hvil]) _
    have hl : h.toNat < (elapseNs s 2000).vil.halves.length := by
      rw [hvil, hlen]
      exact h.isLt
    obtain ⟨hreplay, _, _, _, _, _, hget, hresent⟩ := replayHalf_out (elapseNs s 2000) h.toNat hl
    rw [hhalf] at hreplay hget hresent
    obtain ⟨hreplays, hout⟩ := hresent hne
    refine ⟨_, execAckTimer_unacked hreach hstate hne, hout.trans (by rw [hvil]), hreplay, hreplays, hget.trans ?_, ?_, ?_⟩
    · rw [rget_of_regs (helapse .regs (by decide))]
    · exact regsBut_trans (regsBut_of_regs (helapse .regs (by decide)) _) (replayHalf_regs _ _)
    · exact only_then (only_mono helapse (by decide))
        (only_frameM (ps := [.regs, .vil]) (replayHalf_frame (fm := [.regs, .vil]) _ _ (.refl _ _) (by decide)) (by decide)) (by decide)
  case lock =>
    exact ⟨_, exec_onLink hreach _, rset_one _ _ _ rfl (by decide), regsBut_rputm _ _ _ _ _ List.mem_cons_self, only_rput _ _ _ _ _⟩

/-- Settles O37: the training states (`vilgerStates`), then retrains, replays, hot reset and lock (`vilgerRetrain`). -/
theorem vilgerTraining : Obligations.VilgerTraining := ⟨vilgerStates, vilgerRetrain⟩

end Sys2Proof.Claims
end

section
/-!
PROOFS. The flits that Vilger Link receives (R362, R363).
-/

namespace Sys2Proof.Claims

open Sys2Proof Sys2Proof.Machine

/-- The counters of a received flit. -/
def vflitCounted (s : State) (n : Nat) (f : VFlit) : State :=
  rbump (rbump s (halfStk n) LNK_FLITS_RX) (halfStk n) LNK_FECCORR f.corrected

/-- LNK_STATUS is no counter of a half. -/
theorem regKey_status_ne (n : Nat) (a : Nat) (ha : a < 2 ^ 21) (hne : a ≠ 0x110004) :
    regKey 0 (LNK_STATUS_STATE.off + LNK_STATUS_STATE.stride * 0) ≠ regKey (halfStk n) a := by
  by_cases hk : 0 = halfStk n
  · rw [← hk, Ne, regKey_inj]
    exact fun h => hne h.symm
  · exact regKey_ne_stack _ _ _ _ hk (by decide) ha

theorem vflitCounted_facts (s : State) (n : Nat) (f : VFlit) :
    let t := vflitCounted s n f
    t.vil = s.vil ∧ lnkState t = lnkState s
      ∧ rget t (halfStk n) LNK_FLITS_RX = (rget s (halfStk n) LNK_FLITS_RX + 1) % 2 ^ 32
      ∧ rget t (halfStk n) LNK_FECCORR = (rget s (halfStk n) LNK_FECCORR + f.corrected) % 2 ^ 32
      ∧ rget t (halfStk n) LNK_CRCERR = rget s (halfStk n) LNK_CRCERR
      ∧ regsBut [(halfStk n, 0x110084), (halfStk n, 0x110088)] s t ∧ changesOnly [.regs] s t := by
  have hregs : regsBut [(halfStk n, 0x110084), (halfStk n, 0x110088)] s (vflitCounted s n f) :=
    regsBut_trans (regsBut_rputm _ _ _ _ _ List.mem_cons_self) (regsBut_rputm _ _ _ _ _ (List.mem_cons_of_mem _ List.mem_cons_self))
  refine ⟨rfl, ?_, ?_, ?_, ?_, hregs, only_trans (only_rbump _ _ _ _) (only_rbump _ _ _ _)⟩
  · refine rget_of_regsBut hregs 0 LNK_STATUS_STATE 0 fun q hq => ?_
    rcases List.mem_cons.mp hq with rfl | hq
    · exact regKey_status_ne n 0x110084 (by decide) (by decide)
    · exact List.mem_singleton.mp hq ▸ regKey_status_ne n 0x110088 (by decide) (by decide)
  · exact (rbump_ne _ _ _ _ _ rfl (by decide)).trans (rbump_same _ _ _ _ rfl)
  · refine (rbump_same _ _ _ _ rfl).trans ?_
    rw [rbump_ne _ _ _ _ _ rfl (by decide)]
    rfl
  · exact (rbump_ne _ _ _ _ _ rfl (by decide)).trans (rbump_ne _ _ _ _ _ rfl (by decide))

/-- A flit that is discarded has its half send, or owe, a NAK (R362). -/
theorem discardFlit_facts (s : State) (n : Nat) (hl : n < s.vil.halves.length) :
    vhalf (discardFlit s n) n = naked (lnkState s == 5) (vhalf s n) ∧ (discardFlit s n).regs = s.regs
      ∧ changesOnly [.vil] s (discardFlit s n) := by
  refine ⟨?_, rfl, only_putHalf _ _ _⟩
  have hactive : linkActive s = (lnkState s == 5) := (beq_eq_decide (lnkState s) 5).symm
  unfold discardFlit naked
  rw [vhalf_putHalf _ _ _ hl, hactive]
  cases h : lnkState s == 5 <;> rfl

theorem foldl_noLanes (s : State) (u : Nat → State → State) :
    (List.range 16).foldl (fun s i => if (0 : Half).getLsbD i then u i s else s) s = s := by
  have hnone : ∀ (l : List Nat) (s : State), l.foldl (fun s i => if (0 : Half).getLsbD i then u i s else s) s = s := by
    intro l
    induction l with
    | nil => exact fun _ => rfl
    | cons i l ih => exact fun s => (congrArg (List.foldl _ · l) (if_neg (by simp))).trans (ih s)
  exact hnone _ _

theorem dropBadFlit_eq {s : State} {n : Nat} {f : VFlit} (hlanes : f.fecLanes = 0) :
    dropBadFlit s n f = rbump (discardFlit s n) (halfStk n) LNK_CRCERR := by
  unfold dropBadFlit
  rw [hlanes]
  exact foldl_noLanes _ fun i s => (logCount s (vilgerLaneUnit (16 * n + i)) false 1 0).1

section Received

variable {s : State} {h : BitVec 1} {f : VFlit}

theorem execVilgerFlit_up (hreach : lnkReach s = true) (hstate : lnkState s ≠ 0) : exec (.vilgerFlit h f) s = .next (
    if vflitGood f then takeGoodFlit (vflitCounted s h.toNat f) h.toNat f else dropBadFlit (vflitCounted s h.toNat f) h.toNat f) :=
  (exec_onLink hreach _).trans (congrArg _ (if_neg hstate))

theorem takeGoodFlit_reset {n : Nat} (h2 : bitsOf (leVal (f.bytes.take 8)) 22 2 = 2) (h38 : bitOf (leVal (f.bytes.take 8)) 38 = true)
    (h0 : lnkState s ≠ 0) (h7 : lnkState s ≠ 7) : takeGoodFlit s n f = moduleReset s 3 false :=
  (if_pos ⟨h2, h38⟩).trans (if_neg (by omega))

theorem takeGoodFlit_data {n : Nat} (h1 : bitsOf (leVal (f.bytes.take 8)) 22 2 = 1) (h5 : lnkState s = 5) :
    takeGoodFlit s n f = if leVal (f.bytes.take 8) % 1024 ≠ (vhalf s n).rxSeq then discardFlit s n
      else takeDataFlit s n (leVal (f.bytes.take 8)) f := by
  unfold takeGoodFlit
  dsimp only
  rw [if_neg (by omega), if_neg (by omega), if_neg (by omega)]

/-- Settles O38: a flit is counted, then discarded with a NAK, or taken (`takeDataFlit_eq`). -/
theorem vilgerFlits : Obligations.VilgerFlits := by
  unfold Obligations.VilgerFlits
  intro s h f hreach hlen hup n hdr s1
  obtain ⟨hvil, hstate, hrx, hfec, hcrc, hregs, honly⟩ := vflitCounted_facts s n f
  have hexec := execVilgerFlit_up (h := h) (f := f) hreach hup
  obtain ⟨u, hu⟩ : ∃ u, u = vflitCounted s n f := ⟨_, rfl⟩
  rw [← hu] at hvil hstate hrx hfec hcrc hregs honly
  rw [show vflitCounted s h.toNat f = u from hu.symm] at hexec
  have hl : n < u.vil.halves.length := by
    rw [hvil, hlen]
    exact h.isLt
  have hhalf : vhalf u n = vhalf s n := vhalf_of_vil (by rw [hvil]) n
  obtain ⟨hnaked, hsame, hdrop⟩ := discardFlit_facts u n hl
  rw [hhalf, hstate] at hnaked
  have hdata : vflitGood f = true → lnkState s = 5 → bitsOf hdr 22 2 = 1 →
      (if vflitGood f then takeGoodFlit u n f else dropBadFlit u n f)
        = if hdr % 1024 ≠ (vhalf u n).rxSeq then discardFlit u n else takeDataFlit u n hdr f :=
    fun hgood h5 h1 => (if_pos hgood).trans (takeGoodFlit_data h1 (hstate.trans h5))
  refine ⟨fun hbad hlanes => ?bad, fun hgood h2 h38 h7 => ?reset, fun hgood h5 h1 => ⟨fun hseq => ?out, fun hseq => ?next⟩⟩
  case bad =>
    refine ⟨_, hexec.trans (congrArg _ ((if_neg (by simp [hbad])).trans (dropBadFlit_eq hlanes))),
      (vhalf_of_vil rfl n).trans hnaked, ?_, ?_, ?_, ?_, ?_⟩
    · exact (rbump_ne _ _ _ _ _ rfl (by decide)).trans ((rget_of_regs hsame _ _).trans hrx)
    · exact (rbump_ne _ _ _ _ _ rfl (by decide)).trans ((rget_of_regs hsame _ _).trans hfec)
    · refine (rbump_same _ _ _ _ rfl).trans ?_
      rw [rget_of_regs hsame, hcrc]
      rfl
    · refine regsBut_trans (regs_then_same (regsBut_mono hregs fun q hq => ?_) hsame) (regsBut_rputm _ _ _ _ _ ?_)
      · rcases List.mem_cons.mp hq with rfl | hq
        · exact List.mem_cons_self
        · exact List.mem_cons_of_mem _ (List.mem_cons.mpr (.inl (List.mem_singleton.mp hq)))
      · exact List.mem_cons_of_mem _ (List.mem_cons_of_mem _ List.mem_cons_self)
    · exact only_then (only_then (only_mono honly (by decide)) hdrop (by decide)) (only_rbump _ _ _ _) (by decide)
  case reset =>
    have hs1 : s1 = u := hu.symm
    rw [hs1]
    exact hexec.trans (congrArg _ ((if_pos hgood).trans
      (takeGoodFlit_reset h2 h38 (by rw [hstate]; exact hup) (by rw [hstate]; exact h7))))
  case out =>
    refine ⟨_, hexec.trans (congrArg _ ((hdata hgood h5 h1).trans (if_pos (by rw [hhalf]; exact hseq)))), ?_, regs_then_same hregs hsame,
      only_then (only_mono honly (by decide)) hdrop (by decide)⟩
    rw [hnaked, h5]
    rfl
  case next =>
    obtain ⟨s2, htake, hrxseq, hnak, hslots, hheard, hcredits, hreplay, htonly⟩ := takeDataFlit_eq u n hdr f hl
    rw [hhalf] at hrxseq hslots hcredits hreplay
    exact ⟨s2, hexec.trans (congrArg _ (((hdata hgood h5 h1).trans (if_neg (by rw [hhalf]; exact not_not.mpr hseq))).trans htake)), hrxseq, hnak,
      hslots, hheard, hcredits, hreplay, only_trans (only_mono honly (by decide)) htonly⟩

end Received

end Sys2Proof.Claims
end

section
/-!
PROOFS. The companion's messages on Vilger Link: responses, snoops and register accesses (R366 to R371, R471).
-/

namespace Sys2Proof.Claims

open Sys2Proof Sys2Proof.Machine

/-! ### Words of different offsets, and the words of flits -/

theorem regKey_off_ne {k a : Nat} {q : Nat × Nat} (ha : a < 2 ^ 21) (hq : q.2 < 2 ^ 21) (hne : a ≠ q.2) :
    regKey k a ≠ regKey q.1 q.2 := by
  by_cases hk : k = q.1
  · rw [hk, Ne, regKey_inj]
    exact hne
  · exact regKey_ne_stack _ _ _ _ hk ha hq

/-- A field at an offset that a list of words does not hold keeps its value, in every stack. -/
theorem rget_of_offs {l : List (Nat × Nat)} {s t : State} (h : regsBut l s t) (k : Nat) (f : Fld)
    (hf : f.off + f.stride * 0 < 2 ^ 21) (hl : ∀ q ∈ l, q.2 < 2 ^ 21 ∧ f.off + f.stride * 0 ≠ q.2) : rget t k f = rget s k f :=
  rget_of_regsBut h k f 0 fun q hq => regKey_off_ne hf (hl q hq).1 (hl q hq).2

theorem leadOf_of_offs {l : List (Nat × Nat)} {s t : State} (h : regsBut l s t) (hl : ∀ q ∈ l, q.2 < 2 ^ 21 ∧ 0x30004 ≠ q.2) :
    leadOf t = leadOf s :=
  leadOf_of_regsBut h fun q hq k => regKey_off_ne (by decide) (hl q hq).1 (hl q hq).2

theorem exec_onTraffic {s : State} (hreach : lnkReach s = true) (hstate : lnkState s = 5) (f : State → State) :
    (Host.Outcome.next (onTraffic s f) : Host.Outcome State Fault Refusal) = .next (f s) :=
  congrArg Host.Outcome.next (onTraffic_run s f hreach hstate)

/-! ### Responses (R366, R370, R371) -/

section Responses

variable {s : State} {h : Nat} {tag : BitVec 12}

theorem takeDat_orphan (hreq : reqOf s h tag = none) (st : Status) (d : List Byte) : takeDat s h tag st d = orphan s h := by
  unfold takeDat
  rw [hreq]

theorem takeCmp_orphan (hreq : reqOf s h tag = none) (st : Status) : takeCmp s h tag st = orphan s h := by
  unfold takeCmp
  rw [hreq]

/-- The machine after the data of a request, its line installed unless a snoop poisoned the read. -/
def datInstalled (s : State) (h : Nat) (q : VReq) (st : Status) (d : List Byte) : State :=
  if q.msg.opc = 0x01 ∧ st = .ok ∧ q.poisoned = false
  then installLine (endReq s h q) h (q.msg.addr.toNat / 64) (d.take 64) (q.purpose == .watch) else endReq s h q

section Found

variable {q : VReq}

theorem datInstalled_eq (st : Status) (d : List Byte) : (if decide (q.msg.opc = 0x01) && decide (st = .ok) && !q.poisoned
    then installLine (endReq s h q) h (q.msg.addr.toNat / 64) (d.take 64) (q.purpose == .watch) else endReq s h q)
    = datInstalled s h q st d :=
  if_congr (by simp [and_assoc]) rfl rfl

theorem takeDat_packet (hreq : reqOf s h tag = some q) {id i : Nat} (hp : q.purpose = .packet id i) (st : Status) (d : List Byte) :
    takeDat s h tag st d
      = endPart (datInstalled s h q st d) id i st (partBytes (datInstalled s h q st d) id i (d.take 64)) := by
  unfold takeDat
  rw [hreq]
  dsimp only
  rw [datInstalled_eq, hp]

theorem takeDat_watch (hreq : reqOf s h tag = some q) (hp : q.purpose = .watch) (st : Status) (d : List Byte) :
    takeDat s h tag st d = if q.again then watchRead (datInstalled s h q st d) (64 * (q.msg.addr.toNat / 64))
      else datInstalled s h q st d := by
  unfold takeDat
  rw [hreq]
  dsimp only
  rw [datInstalled_eq, hp]

theorem takeCmp_packet (hreq : reqOf s h tag = some q) {id i : Nat} (hp : q.purpose = .packet id i) (st : Status) :
    takeCmp s h tag st = endPart (endReq s h q) id i st [] := by
  unfold takeCmp
  rw [hreq]
  dsimp only
  rw [hp]

theorem takeCmp_helm (hreq : reqOf s h tag = some q) {g : Nat} (hp : q.purpose = .helm g) (st : Status) :
    takeCmp s h tag st = groupCmp (endReq s h q) g := by
  unfold takeCmp
  rw [hreq]
  dsimp only
  rw [hp]

end Found

end Responses

/-! ### Snoops (R368) -/

theorem hasCredit_congr {v w : VHalf} (m : VMsg) (hstalled : w.stalled = v.stalled) (hspent : w.spent = v.spent)
    (hcredits : w.credits = v.credits) : hasCredit w m = hasCredit v m := by
  unfold hasCredit
  rw [hstalled, hspent, hcredits]

/-- A snooped half, before it answers: its line is dropped and the line's outstanding reads are poisoned. -/
def snooped (s : State) (h line : Nat) : State := poisonReads (dropLine (rbump s (halfStk h) LNK_SNOOPS) h line) h line

theorem snooped_facts (s : State) (h line : Nat) (hl : h < s.vil.halves.length) :
    (vhalf (snooped s h line) h).stalled = (vhalf s h).stalled ∧ (vhalf (snooped s h line) h).spent = (vhalf s h).spent
      ∧ (vhalf (snooped s h line) h).credits = (vhalf s h).credits ∧ (snooped s h line).vil.out = s.vil.out
      ∧ (snooped s h line).vil.halves.length = s.vil.halves.length
      ∧ regsBut [(halfStk h, 0x110098), (halfStk h, 0x11009C)] s (snooped s h line)
      ∧ changesOnly [.regs, .vil] s (snooped s h line) := by
  obtain ⟨u, hu⟩ : ∃ u, u = dropLine (rbump s (halfStk h) LNK_SNOOPS) h line := ⟨_, rfl⟩
  have hu1 : h < u.vil.halves.length := by
    rw [hu]
    exact lt_of_lt_of_eq hl (putHalf_len _ h _).symm
  have hdropped : vhalf u h = { vhalf s h with lines := (vhalf s h).lines.filter fun l => l.line != line } := by
    rw [hu]
    exact vhalf_putHalf _ _ _ hl
  obtain ⟨v, n, hv, hsnooped⟩ : ∃ v n, (v.stalled = (vhalf u h).stalled ∧ v.spent = (vhalf u h).spent
      ∧ v.credits = (vhalf u h).credits) ∧ snooped s h line = rbump (putHalf u h v) (halfStk h) LNK_POISON n := by
    unfold snooped
    rw [← hu]
    refine ⟨_, _, ?_, rfl⟩
    exact ⟨rfl, rfl, rfl⟩
  obtain ⟨hstalled, hspent, hcredits⟩ := hv
  have hhalf : vhalf (snooped s h line) h = v := by
    rw [hsnooped]
    exact (vhalf_of_vil rfl h).trans (vhalf_putHalf u h v hu1)
  have hregs : regsBut [(halfStk h, 0x110098), (halfStk h, 0x11009C)] s u := by
    rw [hu]
    exact regs_then_same (t := rbump s (halfStk h) LNK_SNOOPS) (regsBut_rputm _ _ _ _ _ List.mem_cons_self) rfl
  have honly : changesOnly [.regs, .vil] s u := by
    rw [hu]
    exact only_trans (only_mono (only_rbump s (halfStk h) LNK_SNOOPS 1) (by decide)) (dropLine_only _ _ _)
  have hout : u.vil.out = s.vil.out := by rw [hu]; rfl
  have hlen : u.vil.halves.length = s.vil.halves.length := by
    rw [hu]
    exact putHalf_len _ h _
  refine ⟨?_, ?_, ?_, ?_, ?_, ?_, ?_⟩
  · rw [hhalf, hstalled, hdropped]
  · rw [hhalf, hspent, hdropped]
  · rw [hhalf, hcredits, hdropped]
  · rw [hsnooped]
    exact hout
  · rw [hsnooped]
    exact (putHalf_len u h v).trans hlen
  · rw [hsnooped]
    exact regsBut_trans (regs_then_same hregs (u := putHalf u h v) rfl)
      (regsBut_rputm _ _ _ _ _ (List.mem_cons_of_mem _ List.mem_cons_self))
  · rw [hsnooped]
    exact only_trans (only_then honly (only_putHalf u h v) (by decide)) (only_mono (only_rbump _ _ _ _) (by decide))

/-- The notice of a watched line reaches the lead Helm of the stack that LEADSTK names. -/
theorem sendNotice_facts (s : State) (h line : Nat) :
    (sendNotice s h line).vil = s.vil
      ∧ (leadOf s = some (rget s 0 LNK_CTL_LEADSTK) →
          (sendNotice s h line).serve.notices = s.serve.notices ++ [BitVec.ofNat 48 (64 * line)]) := by
  obtain ⟨u, hu⟩ : ∃ u, u = crossFlits (rbump s (halfStk h) LNK_NOTICES) (halfStk h) (rget s 0 LNK_CTL_LEADSTK) 0 1 := ⟨_, rfl⟩
  have hvil : u.vil = s.vil := by rw [hu, crossFlits_vil]; rfl
  have hserve : u.serve = s.serve := by rw [hu, crossFlits_serve]; rfl
  have heq : sendNotice s h line = if leadOf s = some (rget s 0 LNK_CTL_LEADSTK) then
      { u with serve := { u.serve with notices := u.serve.notices ++ [BitVec.ofNat 48 (64 * line)] } } else u := by rw [hu]; rfl
  rw [heq]
  refine ⟨?_, fun h => ?_⟩
  · split <;> exact hvil
  · rw [if_pos h, hserve]

/-- The answer to a snoop. -/
def sniAnswer (h : Nat) : VMsg := ⟨BitVec.ofNat 1 h, 0x07, 0, 1, 0, 0, []⟩

theorem takeSni_eq (s : State) (h : Nat) (a : BitVec 48) : takeSni s h 0 a =
    if (watchedLines s).contains (64 * (a.toNat / 64))
    then sendNotice (sendMsg (snooped s h (a.toNat / 64)) (sniAnswer h)) h (a.toNat / 64)
    else sendMsg (snooped s h (a.toNat / 64)) (sniAnswer h) := rfl

theorem takeSni_facts (s : State) (h : Nat) (a : BitVec 48) (hh : h < 2) (hl : h < s.vil.halves.length) :
    let t := takeSni s h 0 a
    (hasCredit (vhalf s h) (sniAnswer h) = true → t.vil.out = s.vil.out ++ [sniAnswer h])
      ∧ (hasCredit (vhalf s h) (sniAnswer h) = false → t.vil.out = s.vil.out
          ∧ (vhalf t h).stalled = (vhalf s h).stalled ++ [sniAnswer h])
      ∧ ((watchedLines s).contains (64 * (a.toNat / 64)) = true → leadOf s = some (rget s 0 LNK_CTL_LEADSTK) →
          t.serve.notices = s.serve.notices ++ [BitVec.ofNat 48 (64 * (a.toNat / 64))])
      ∧ ((watchedLines s).contains (64 * (a.toNat / 64)) = false → t.serve = s.serve)
      ∧ changesOnly [.regs, .vil, .serve] s t := by
  obtain ⟨hstalled, hspent, hcredits, hout, hlen, hregs, honly⟩ := snooped_facts s h (a.toNat / 64) hl
  obtain ⟨u, hu⟩ : ∃ u, u = snooped s h (a.toNat / 64) := ⟨_, rfl⟩
  have heq := takeSni_eq s h a
  rw [← hu] at hstalled hspent hcredits hout hlen hregs honly heq
  obtain ⟨hgiven, hheld, _, hmsg⟩ := sendMsg_facts u (sniAnswer h)
  have hsent := sendMsg_regs u (sniAnswer h)
  have hhalf : (sniAnswer h).half.toNat = h := by simp [sniAnswer, Nat.mod_eq_of_lt hh]
  rw [hhalf, hasCredit_congr _ hstalled hspent hcredits] at hgiven hheld
  obtain ⟨v, hv⟩ : ∃ v, v = sendMsg u (sniAnswer h) := ⟨_, rfl⟩
  rw [← hv] at hgiven hheld hmsg hsent heq
  have hserve : v.serve = s.serve := (hmsg .serve (by decide)).trans (honly .serve (by decide))
  obtain ⟨nvil, nserve⟩ := sendNotice_facts v h (a.toNat / 64)
  have hvil : (takeSni s h 0 a).vil = v.vil := by
    rw [heq]
    split
    · exact nvil
    · rfl
  have hwords : ∀ q ∈ ([(halfStk h, 0x110098), (halfStk h, 0x11009C)] : List (Nat × Nat)) ++ lnkSentWords,
      q.2 < 2 ^ 21 ∧ 0x30004 ≠ q.2 ∧ LNK_CTL_LEADSTK.off + LNK_CTL_LEADSTK.stride * 0 ≠ q.2 := by
    interval_cases h <;> decide
  have hall : regsBut ([(halfStk h, 0x110098), (halfStk h, 0x11009C)] ++ lnkSentWords) s v :=
    regsBut_trans (regsBut_mono hregs fun _ => List.mem_append_left _) (regsBut_mono hsent fun _ => List.mem_append_right _)
  refine ⟨fun hc => ?_, fun hc => ?_, fun hw hlead => ?_, fun hw => ?_, ?_⟩
  · rw [hvil, (hgiven hc).2, hout]
  · obtain ⟨hsame, hwaits⟩ := hheld hc
    refine ⟨by rw [hvil, hsame, hout], ?_⟩
    rw [vhalf_of_vil (t := takeSni s h 0 a) (s := v) (by rw [hvil]) h, hwaits (hlen ▸ hl), hstalled]
  · rw [heq, if_pos hw, nserve, hserve]
    rw [leadOf_of_offs hall fun q hq => ⟨(hwords q hq).1, (hwords q hq).2.1⟩, hlead,
      rget_of_offs hall 0 LNK_CTL_LEADSTK (by decide) fun q hq => ⟨(hwords q hq).1, (hwords q hq).2.2⟩]
  · rw [heq, if_neg (by rw [hw]; decide), hserve]
  · exact only_frameM (takeSni_frame (fm := [.regs, .vil, .serve]) s h 0 a (.refl _ _) (by decide)) (by decide)

/-- Settles O39: responses end their requests, a snoop is answered (`takeSni_facts`), and register accesses are made as
the companion. -/
theorem vilgerMessages : Obligations.VilgerMessages := by
  unfold Obligations.VilgerMessages
  intro s hreach hstate
  have hrun := exec_onTraffic hreach hstate
  refine ⟨fun h tag hreq => ?orphan, fun h tag q st d hreq => ?found, fun a => ?sni, fun h hdr => ⟨hrun _, hrun _⟩⟩
  case orphan =>
    exact ⟨orphan s h.toNat, rset_one _ _ _ rfl (by decide), regsBut_rputm _ _ _ _ _ List.mem_cons_self, only_rput _ _ _ _ _,
      fun st d => (hrun _).trans (congrArg _ (takeDat_orphan hreq st d)), fun st => (hrun _).trans (congrArg _ (takeCmp_orphan hreq st))⟩
  case found =>
    intro line s1 s2
    exact ⟨fun id i hp => ⟨(hrun _).trans (congrArg _ (takeDat_packet hreq hp st d)),
        (hrun _).trans (congrArg _ (takeCmp_packet hreq hp st))⟩,
      fun hp => (hrun _).trans (congrArg _ (takeDat_watch hreq hp st d)),
      fun g hp => (hrun _).trans (congrArg _ (takeCmp_helm hreq hp st))⟩
  case sni =>
    intro h m hlen
    exact ⟨_, hrun _, takeSni_facts s h a (bitsOf_lt _ _ _) (by rw [hlen]; exact bitsOf_lt _ _ _)⟩

end Sys2Proof.Claims
end

section
/-!
PROOFS. What the commands that reset the module leave, and with which cause (R415 to R418).
-/

namespace Sys2Proof.Claims

open Sys2Proof Sys2Proof.Machine

/-! ### Power-on (R413, R416) -/

theorem clearPowerOn_facts (s : State) : rget (clearPowerOn s) 0 BNC_LAST_RESET_CAUSE = 1 ∧ rget (clearPowerOn s) 0 PWR_TRIP_CAUSE = 0
    ∧ (clearPowerOn s).rst.domains = s.rst.domains := by
  obtain ⟨u, hu⟩ : ∃ u, u = lastReset { s with lsr := { s.lsr with testmode := false, zlock := false } } 1 := ⟨_, rfl⟩
  obtain ⟨hcause, _, hdomains⟩ := lastReset_facts { s with lsr := { s.lsr with testmode := false, zlock := false } } 1 (by decide)
  rw [← hu] at hcause hdomains
  obtain ⟨w, hw⟩ : ∃ w, w = BitVec.ofNat 32 (bitsOf (rword s 0 0x150100).toNat 0 2) := ⟨_, rfl⟩
  have heq : clearPowerOn s = setRword (setRword u 0 0x150008 0) 0 0x150100 w := by
    rw [hu, hw, lastReset, show BitVec.ofNat 32 (putBits 0 0 4 1) = 1 by decide]
    rfl
  have hfirst : ∀ x : State, ranksBefore x 1 = false := fun x => by simp [ranksBefore, causeOrder]
  have hkeep : ∀ (x : State) (a : Nat) (v : Word) (f : Fld), f.off + f.stride * 0 ≠ a → rget (setRword x 0 a v) 0 f = rget x 0 f :=
    fun x a v f hf => rget_of_regsBut (regsBut_setRword x 0 a v) 0 f 0 fun q hq => by
      rw [List.mem_singleton.mp hq, Ne, regKey_inj]
      exact hf
  rw [heq]
  refine ⟨?_, ?_, hdomains⟩
  · rw [hkeep _ _ _ _ (by decide), hkeep _ _ _ _ (by decide)]
    exact (hcause (hfirst _)).1
  · rw [hkeep _ _ _ _ (by decide)]
    exact (rget_setRword_same u 0 0x150008 0 PWR_TRIP_CAUSE rfl).trans rfl

theorem execPoweron_facts (s : State) : ∃ t, exec .poweron s = .next t ∧ Dropped s t ∧ rget t 0 BNC_LAST_RESET_CAUSE = 1
    ∧ pwrState t = 0 ∧ rget t 0 PWR_TRIP_CAUSE = 0 ∧ rget t 0 BNC_BRINGUP_STEP = 1 ∧ t.rst.domains = 0 := by
  obtain ⟨u, hu⟩ : ∃ u, u = dropIsland (dropDomains (endLong s)) := ⟨_, rfl⟩
  have hdropped : Dropped s (dropDomains (endLong s)) := dropped_drop s _ (endLong_only s)
  have hisland : changesOnly [.regs, .log, .rst, .bnc, .snd, .lsr] (dropDomains (endLong s)) u := hu ▸ dropIsland_only _
  have hdomains : u.rst.domains = 0 := by rw [hu]; rfl
  obtain ⟨hcause, htrip, hkept⟩ := clearPowerOn_facts u
  obtain ⟨hstate, _, _, hstep, hother⟩ := resetStatus_facts (clearPowerOn u) 1 (by decide)
  have hstatus := resetStatus_only (clearPowerOn u) 1
  have hzero : (resetStatus (clearPowerOn u) 1).rst.domains = 0 := by
    rw [show (resetStatus (clearPowerOn u) 1).rst = (clearPowerOn u).rst from hstatus .rst (by decide), hkept, hdomains]
  have honly : changesOnly [.regs, .free, .log, .rst, .bnc, .snd, .lsr] (dropDomains (endLong s)) (resetStatus (clearPowerOn u) 1) :=
    only_then (only_then (only_mono hisland (by decide)) (clearPowerOn_only u) (by decide)) hstatus (by decide)
  refine ⟨resetStatus (clearPowerOn u) 1, by rw [hu]; rfl, droppedTrans hdropped honly (by rw [hzero]; decide), ?_, hstate, ?_,
    hstep, hzero⟩
  · exact (hother _ (by decide) (by decide) (by decide) (by decide) (by decide) (by decide) rfl).trans hcause
  · exact (hother _ (by decide) (by decide) (by decide) (by decide) (by decide) (by decide) rfl).trans htrip

/-! ### A fleet reset message (R418) -/

/-- A write of BNC_FLTRST comes from another module's lead Helm. -/
def fltrstOther (s : State) (src : Source) : Bool :=
  match src with
  | .helm m _ lead => m != moduleNo s && lead && decide (m.toNat < moduleCount s)
  | _ => false

theorem writeFltrst_up {s : State} (hup : islandUp s = true) (src : Source) (v : Word) : writeFltrst s src v =
    if v = 0xA5A5 ∧ fltrstOther s src ∧ ron s 0 BNC_FLTCTL_FLTRST_EN ∧ rget s 0 CHR_EPOCH_EPOCH ≠ 0 then moduleReset s 6 false
    else rbump s 0 BNC_FLTREJ :=
  if_neg (by simp [hup])

theorem fltrstOther_false {s : State} {src : Source} (h : ∀ m k, src = .helm m k true → m = moduleNo s ∨ moduleCount s ≤ m.toNat) :
    fltrstOther s src = false := by
  cases src with
  | helm m k lead =>
    cases lead with
    | false => simp [fltrstOther]
    | true =>
      rcases h m k rfl with hm | hm
      · simp [fltrstOther, hm]
      · simp [fltrstOther, Nat.not_lt.mpr hm]
  | _ => rfl

/-! ### The commands -/

section Commands

variable {s : State}

theorem execWatchdog_resets (s : State) : ∃ t, exec .watchdog s = .next t ∧ ModuleReset s t 4 true :=
  ⟨_, rfl, (moduleReset_facts s (logExtra s 12) 4 true (by decide) (only_mono (only_logExtra _ _) (by decide))).1⟩

theorem execLongOverrun_resets (hruns : binnacleRuns s = true) (hlong : s.bnc.long ≠ none) :
    ∃ t, exec .longOverrun s = .next t ∧ ModuleReset s t 9 true := by
  have hguard : (binnacleRuns s && s.bnc.long.isSome) = true := by
    rw [hruns, Option.isSome_iff_ne_none.mpr hlong]
    rfl
  exact ⟨_, congrArg Host.Outcome.next (if_pos hguard), (moduleReset_facts s s 9 true (by decide) (only_refl _ _)).1⟩

theorem execBearingReset_run (hport : portRuns s = true) (hlong : s.bnc.long = none) (hrec : ron s 0 LSR_STATUS_RECOVERY = false)
    (a : BearingArg) : exec (.bearingReset a) s
      = .next (if a.data = 0x5A5A then moduleReset (reply s 0 0) 2 false else reply s 2 0) :=
  congrArg Host.Outcome.next (bearing_run s false _ hport hlong hrec)

theorem execBearingReset_resets (hlong : s.bnc.long = none) :
    ModuleReset s (moduleReset (reply s 0 0) 2 false) 2 false
      ∧ (moduleReset (reply s 0 0) 2 false).bnc.replies = s.bnc.replies ++ [⟨0, 0⟩] := by
  obtain ⟨hreset, hreplies⟩ := moduleReset_facts s (reply s 0 0) 2 false (by decide) (only_mono (only_reply _ _ _) (by decide))
  exact ⟨hreset, hreplies hlong rfl⟩

theorem execHotReset_resets (hreach : lnkReach s = true) (h0 : lnkState s ≠ 0) (h7 : lnkState s ≠ 7) :
    ∃ t, exec .hotReset s = .next t ∧ ModuleReset s t 3 false :=
  ⟨_, (exec_onLink hreach _).trans (congrArg _ (if_neg (by omega))), (moduleReset_facts s s 3 false (by decide) (only_refl _ _)).1⟩

theorem execFltrst_resets {m : BitVec 10} (hup : islandUp s = true) (hm : m ≠ moduleNo s) (hcount : m.toNat < moduleCount s)
    (hen : ron s 0 BNC_FLTCTL_FLTRST_EN = true) (hepoch : rget s 0 CHR_EPOCH_EPOCH ≠ 0) (k : BitVec 3) :
    ∃ t, exec (.fltrst (.helm m k true) 0xA5A5) s = .next t ∧ ModuleReset s t 6 false := by
  have hother : fltrstOther s (.helm m k true) = true := by simp [fltrstOther, hm, hcount]
  exact ⟨_, congrArg Host.Outcome.next ((writeFltrst_up hup _ _).trans (if_pos ⟨rfl, hother, hen, hepoch⟩)),
    (moduleReset_facts s s 6 false (by decide) (only_refl _ _)).1⟩

theorem execFltrst_rejected (hup : islandUp s = true) {src : Source} {v : Word}
    (h : v ≠ 0xA5A5 ∨ ron s 0 BNC_FLTCTL_FLTRST_EN = false ∨ rget s 0 CHR_EPOCH_EPOCH = 0 ∨
      ∀ m k, src = .helm m k true → m = moduleNo s ∨ moduleCount s ≤ m.toNat) :
    exec (.fltrst src v) s = .next (rbump s 0 BNC_FLTREJ) := by
  refine congrArg Host.Outcome.next ((writeFltrst_up hup _ _).trans (if_neg fun ⟨hv, hother, hen, hepoch⟩ => ?_))
  rcases h with hne | hoff | hzero | hsrc
  · exact hne hv
  · rw [hoff] at hen
    exact absurd hen (by decide)
  · exact hepoch hzero
  · rw [fltrstOther_false hsrc] at hother
    exact absurd hother (by decide)

/-- The lead Helm has not been heard for 10 ms. -/
theorem execHeartbeatTimeout_resets {k : BitVec 3} (hruns : binnacleRuns s = true) (hdomains : 7 ≤ s.rst.domains)
    (hwrap : wrapperClosed s 1 k.toNat 0 = false) (hlead : leadOf s = some k.toNat) {s1 : State}
    (hs1 : s1 = elapseToTick s ((stkOf s k.toNat).beat + 10000000)) (htick : (stkOf s k.toNat).beat + 10000000 ≤ s1.tick) :
    ∃ t, exec (.heartbeatTimeout k) s = .next t ∧ ModuleReset (logCount s1 (helmUnit k.toNat) true 1 0).1 t 8 false := by
  obtain ⟨s2, hs2⟩ : ∃ s2, s2 = (logCount s1 (helmUnit k.toNat) true 1 0).1 := ⟨_, rfl⟩
  have hlog : changesOnly [.log] s1 s2 := hs2 ▸ logCount_only _ _ _ _ _
  have hlead2 : leadOf s2 = some k.toNat := by
    have htime : s1.regs = s.regs := hs1 ▸ elapseToTick_only s _ .regs (by decide)
    have hregs : s2.regs = s.regs := (hlog .regs (by decide)).trans htime
    rw [leadOf_of_offs (l := []) (regsBut_of_regs hregs _) (by simp), hlead]
  rw [← hs2]
  refine ⟨_, (heartbeat_key s s1 s2 k hs1 hs2).trans ((if_neg ?_).trans (if_pos hlead2)),
    (moduleReset_facts s2 s2 8 false (by decide) (only_refl _ _)).1⟩
  rintro (h | h | h | h)
  · simp [hruns] at h
  · omega
  · simp [hwrap] at h
  · omega

end Commands

/-- Settles O41: each command runs `moduleReset`, whose effect `moduleReset_facts` states. -/
theorem moduleResets : Obligations.ModuleResets := by
  unfold Obligations.ModuleResets
  intro s
  refine ⟨execWatchdog_resets s, execLongOverrun_resets, fun a hport hlong hrec => ?bearing, execHotReset_resets,
    fun m k hup hm hcount hen hepoch => execFltrst_resets hup hm hcount hen hepoch k, fun src v hup h => execFltrst_rejected hup h,
    fun k hruns hdomains hwrap hlead => fun htick => execHeartbeatTimeout_resets hruns hdomains hwrap hlead rfl htick,
    execPoweron_facts s⟩
  have hrun := execBearingReset_run hport hlong hrec a
  obtain ⟨hreset, hreplies⟩ := execBearingReset_resets hlong
  exact ⟨fun ha => ⟨_, hrun.trans (congrArg _ (if_pos ha)), hreset, hreplies⟩, fun ha => hrun.trans (congrArg _ (if_neg ha))⟩

end Sys2Proof.Claims
end

section
/-!
PROOFS. The 48 V entry, its trips, and the samples of input power (R394 to R396, R401, R402).
-/

namespace Sys2Proof.Claims

open Sys2Proof Sys2Proof.Machine

/-! ### MAIN_EN (R395, R425) -/

section MainEn

variable {s : State}

theorem writeMainEn_on (hup : islandUp s = true) (hrec : ron s 0 LSR_STATUS_RECOVERY = false) (hstate : pwrState s = 0)
    (hstop : s.bnc.stopped = false) : exec (.mainEn true) s = .next (
      if mainWaits s then { rset s 0 PWR_CTL_MAIN_EN with pwr := { s.pwr with held := true } }
      else startCharge (rset s 0 PWR_CTL_MAIN_EN)) := by
  refine congrArg Host.Outcome.next ?_
  unfold writeMainEn
  rw [if_neg (by simp [hup]), if_neg (by decide), if_neg (by simp [hrec])]
  exact if_neg (by simp [hstate, hstop])

theorem writeMainEn_off (hup : islandUp s = true) : exec (.mainEn false) s
    = .next (orderlyStop { rput s 0 PWR_CTL_MAIN_EN 0 with pwr := { s.pwr with held := false } }) :=
  congrArg Host.Outcome.next ((if_neg (by simp [hup])).trans (if_pos rfl))

theorem mainEn_charges (s : State) :
    let t := startCharge (rset s 0 PWR_CTL_MAIN_EN)
    pwrState t = 1 ∧ rget t 0 PWR_CTL_MAIN_EN = 1 ∧ t.pwr = { s.pwr with held := false, charged := false }
      ∧ changesOnly [.regs, .pwr] s t ∧ regsBut [(0, 0x150000), (0, 0x150004)] s t := by
  obtain ⟨u, hu⟩ : ∃ u : State, u = { rset s 0 PWR_CTL_MAIN_EN with pwr := { s.pwr with held := false, charged := false } } :=
    ⟨_, rfl⟩
  have heq : startCharge (rset s 0 PWR_CTL_MAIN_EN) = rput u 0 PWR_STATUS_STATE 1 := by rw [hu]; rfl
  have hregs : u.regs = (rset s 0 PWR_CTL_MAIN_EN).regs := by rw [hu]
  rw [heq]
  refine ⟨rget_rput_same1 _ _ _ _ rfl (by decide), ?_, by rw [hu]; rfl, ?_, ?_⟩
  · rw [rget_rput_ne _ _ _ _ _ rfl (by decide), rget_of_regs hregs]
    exact rset_one _ _ _ rfl (by decide)
  · have hheld : changesOnly [.pwr] (rset s 0 PWR_CTL_MAIN_EN) u := hu ▸ only_pwr (rset s 0 PWR_CTL_MAIN_EN) _
    exact only_then (only_then (only_mono (only_rput s 0 PWR_CTL_MAIN_EN 1 0) (by decide)) hheld (by decide))
      (only_rput u 0 PWR_STATUS_STATE 1 0) (by decide)
  · exact regsBut_trans (regs_then_same (regsBut_rputm s 0 PWR_CTL_MAIN_EN 1 _ (by decide)) hregs) (regsBut_rputm _ _ _ _ _ (by decide))

theorem mainEn_held (hstate : pwrState s = 0) :
    let t := { rset s 0 PWR_CTL_MAIN_EN with pwr := { s.pwr with held := true } }
    pwrState t = 0 ∧ rget t 0 PWR_CTL_MAIN_EN = 1 ∧ changesOnly [.regs, .pwr] s t := by
  refine ⟨?_, rset_one s 0 PWR_CTL_MAIN_EN rfl (by decide),
    only_then (only_mono (only_rput s 0 PWR_CTL_MAIN_EN 1 0) (by decide)) (only_pwr (rset s 0 PWR_CTL_MAIN_EN) _) (by decide)⟩
  exact (rget_rput_ne s 0 PWR_STATUS_STATE PWR_CTL_MAIN_EN 1 rfl (by decide)).trans hstate

end MainEn

/-! ### A sample of input power (R401; notes/assumptions/102.md) -/

/-- The sample in PWR_VIN. -/
def sampledPower (s : State) (v i : Nat) : State := rput (rput s 0 PWR_VIN_V (min 65535 v)) 0 PWR_VIN_I (min 65535 i)

/-- The running means of the samples held. -/
def meanedPower (s : State) (l : List Nat) : State :=
  rput (rput { s with bnc := { s.bnc with powers := l } } 0 PWR_PAVG_P10MS (min 65535 (runningMean 1000 l))) 0 PWR_PAVG_P1S
    (min 65535 (runningMean 100000 l))

/-- An excess of the 1 s mean, recorded. -/
def overTdp (s : State) : State := logExtra (rbump (rset s 0 PWR_STATUS_OVERTDP) 0 PWR_OVERTDP) 15

theorem takePower_eq (s : State) (l : List Nat)
    (hl : l = (rget s 0 PWR_VIN_V * rget s 0 PWR_VIN_I :: s.bnc.powers).take 100000) :
    let s2 := if 16000 < runningMean 100000 l ∧ rget s 0 PWR_PAVG_P1S ≤ 16000 then overTdp (meanedPower s l) else meanedPower s l
    takePower s = if 20000 < runningMean 1000 l ∧ rget s 0 PWR_STATUS_STATE ≠ 4 then hardTrip s2 6 else s2 := by
  rw [hl]
  rfl

theorem sampledPower_facts (s : State) (v i : Nat) :
    let t := sampledPower s v i
    rget t 0 PWR_VIN_V = min 65535 v ∧ rget t 0 PWR_VIN_I = min 65535 i ∧ t.bnc = s.bnc
      ∧ (∀ f : Fld, f.off ≠ 0x15000C → rget t 0 f = rget s 0 f)
      ∧ regsBut [(0, PWR_VIN_V.off)] s t ∧ changesOnly [.regs] s t := by
  have hlt : ∀ x, min 65535 x < 2 ^ 16 := fun x => lt_of_le_of_lt (min_le_left _ _) (by decide)
  refine ⟨?_, rget_rput_same1 _ _ _ _ rfl (hlt i), rfl, fun f hf => ?_, ?_, only_trans (only_rput _ _ _ _ _) (only_rput _ _ _ _ _)⟩
  · exact (rget_rput_ne _ _ _ _ _ rfl (by decide)).trans (rget_rput_same1 _ _ _ _ rfl (hlt v))
  · exact (rget_rput_ne _ _ _ _ _ rfl (.inl hf)).trans (rget_rput_ne _ _ _ _ _ rfl (.inl hf))
  · exact regsBut_trans (regsBut_rputm _ _ _ _ _ List.mem_cons_self) (regsBut_rputm _ _ _ _ _ (by decide))

theorem meanedPower_facts (s : State) (l : List Nat) :
    let t := meanedPower s l
    rget t 0 PWR_PAVG_P10MS = min 65535 (runningMean 1000 l) ∧ rget t 0 PWR_PAVG_P1S = min 65535 (runningMean 100000 l)
      ∧ t.bnc = { s.bnc with powers := l } ∧ t.log = s.log
      ∧ (∀ f : Fld, f.off ≠ 0x150014 → rget t 0 f = rget s 0 f)
      ∧ regsBut [(0, 0x150014)] s t ∧ changesOnly [.regs, .bnc] s t := by
  have hlt : ∀ x, min 65535 x < 2 ^ 16 := fun x => lt_of_le_of_lt (min_le_left _ _) (by decide)
  refine ⟨?_, rget_rput_same1 _ _ _ _ rfl (hlt _), rfl, rfl, fun f hf => ?_, ?_, ?_⟩
  · exact (rget_rput_ne _ _ _ _ _ rfl (by decide)).trans (rget_rput_same1 _ _ _ _ rfl (hlt _))
  · exact (rget_rput_ne _ _ _ _ _ rfl (.inl hf)).trans (rget_rput_ne _ _ _ _ _ rfl (.inl hf))
  · exact regsBut_trans (regsBut_trans (regsBut_of_regs (t := { s with bnc := { s.bnc with powers := l } }) rfl _)
      (regsBut_rputm _ _ _ _ _ (by decide))) (regsBut_rputm _ _ _ _ _ (by decide))
  · exact only_then (only_then (only_mono (only_bnc s { s.bnc with powers := l }) (by decide)) (only_rput _ _ _ _ _) (by decide))
      (only_rput _ _ _ _ _) (by decide)

theorem overTdp_facts (s : State) :
    let t := overTdp s
    rget t 0 PWR_STATUS_OVERTDP = 1 ∧ rget t 0 PWR_OVERTDP = (rget s 0 PWR_OVERTDP + 1) % 2 ^ 32 ∧ t.bnc = s.bnc
      ∧ (∀ f : Fld, f.off ≠ 0x150004 → f.off ≠ 0x15004C → rget t 0 f = rget s 0 f) ∧ changesOnly [.regs, .log] s t := by
  refine ⟨?_, ?_, rfl, fun f h1 h2 => ?_, ?_⟩
  · exact (rbump_ne (rset s 0 PWR_STATUS_OVERTDP) 0 PWR_STATUS_OVERTDP PWR_OVERTDP 1 rfl (by decide)).trans
      (rset_one s 0 PWR_STATUS_OVERTDP rfl (by decide))
  · refine (rbump_same (rset s 0 PWR_STATUS_OVERTDP) 0 PWR_OVERTDP 1 rfl).trans ?_
    rw [rset_ne s 0 PWR_OVERTDP PWR_STATUS_OVERTDP rfl (by decide)]
    rfl
  · exact (rbump_ne (rset s 0 PWR_STATUS_OVERTDP) 0 f PWR_OVERTDP 1 rfl (.inl h2)).trans (rset_ne s 0 f PWR_STATUS_OVERTDP rfl (.inl h1))
  · exact only_then (only_mono (only_trans (only_rput s 0 PWR_STATUS_OVERTDP 1 0) (only_rbump _ 0 PWR_OVERTDP 1)) (by decide))
      (only_logExtra _ _) (by decide)

/-- The means of one more sample, before a trip is decided. -/
def powerTaken (s : State) (l : List Nat) : State :=
  if 16000 < runningMean 100000 l ∧ rget s 0 PWR_PAVG_P1S ≤ 16000 then overTdp (meanedPower s l) else meanedPower s l

theorem powerTaken_facts (s : State) (l : List Nat) :
    let t := powerTaken s l
    rget t 0 PWR_PAVG_P10MS = min 65535 (runningMean 1000 l) ∧ rget t 0 PWR_PAVG_P1S = min 65535 (runningMean 100000 l)
      ∧ t.bnc = { s.bnc with powers := l }
      ∧ (16000 < runningMean 100000 l → rget s 0 PWR_PAVG_P1S ≤ 16000 → rget t 0 PWR_STATUS_OVERTDP = 1
          ∧ rget t 0 PWR_OVERTDP = (rget s 0 PWR_OVERTDP + 1) % 2 ^ 32)
      ∧ (runningMean 100000 l ≤ 16000 → regsBut [(0, 0x150014)] s t ∧ t.log = s.log)
      ∧ (∀ f : Fld, f.off ≠ 0x150014 → f.off ≠ 0x150004 → f.off ≠ 0x15004C → rget t 0 f = rget s 0 f)
      ∧ changesOnly [.regs, .log, .bnc] s t := by
  obtain ⟨hten, hone, hbnc, hlog, hkeep, hregs, honly⟩ := meanedPower_facts s l
  obtain ⟨hset, hcount, hsame, hother, hmore⟩ := overTdp_facts (meanedPower s l)
  by_cases h : 16000 < runningMean 100000 l ∧ rget s 0 PWR_PAVG_P1S ≤ 16000
  · have heq : powerTaken s l = overTdp (meanedPower s l) := if_pos h
    rw [heq]
    refine ⟨(hother _ (by decide) (by decide)).trans hten, (hother _ (by decide) (by decide)).trans hone, hsame.trans hbnc,
      fun _ _ => ⟨hset, hcount.trans (by rw [hkeep _ (by decide)])⟩, fun hle => absurd h.1 (Nat.not_lt.mpr hle),
      fun f h1 h2 h3 => (hother f h2 h3).trans (hkeep f h1), only_then (only_mono honly (by decide)) hmore (by decide)⟩
  · have heq : powerTaken s l = meanedPower s l := if_neg h
    rw [heq]
    exact ⟨hten, hone, hbnc, fun h1 h2 => absurd ⟨h1, h2⟩ h, fun _ => ⟨hregs, hlog⟩, fun f h1 _ _ => hkeep f h1,
      only_mono honly (by decide)⟩

section Sample

variable {s : State} {v i : Nat} {l : List Nat}

theorem execPowerSample_eq (hruns : binnacleRuns s = true) (hl : l = (min 65535 v * min 65535 i :: s.bnc.powers).take 100000) :
    exec (.powerSample v i) s = .next (if 20000 < runningMean 1000 l ∧ pwrState s ≠ 4 then hardTrip (powerTaken (sampledPower s v i) l) 6
      else powerTaken (sampledPower s v i) l) := by
  obtain ⟨hv, hi, hbnc, hkeep, _, _⟩ := sampledPower_facts s v i
  have htake := takePower_eq (sampledPower s v i) l (by rw [hv, hi, hbnc, hl])
  rw [hkeep PWR_STATUS_STATE (by decide)] at htake
  exact congrArg Host.Outcome.next ((if_pos hruns).trans htake)

theorem powerSample_trips (s : State) (v i : Nat) (l : List Nat) : Tripped s (hardTrip (powerTaken (sampledPower s v i) l) 6) 6 := by
  obtain ⟨_, _, _, hkeep, _, honly⟩ := sampledPower_facts s v i
  obtain ⟨_, _, _, _, _, hother, hmore⟩ := powerTaken_facts (sampledPower s v i) l
  have hall : changesOnly [.regs, .bnc, .log] s (powerTaken (sampledPower s v i) l) :=
    only_then (only_mono honly (by decide)) hmore (by decide)
  exact hardTrip_facts s _ 6 (by decide) hall
    ((hother _ (by decide) (by decide) (by decide)).trans (hkeep _ (by decide)))

theorem powerSample_taken (hten : runningMean 1000 l ≤ 20000) :
    let t := powerTaken (sampledPower s v i) l
    rget t 0 PWR_VIN_V = min 65535 v ∧ rget t 0 PWR_VIN_I = min 65535 i ∧ t.bnc = { s.bnc with powers := l }
      ∧ rget t 0 PWR_PAVG_P10MS = runningMean 1000 l ∧ rget t 0 PWR_PAVG_P1S = min 65535 (runningMean 100000 l)
      ∧ (16000 < runningMean 100000 l → rget s 0 PWR_PAVG_P1S ≤ 16000 → rget t 0 PWR_STATUS_OVERTDP = 1
          ∧ rget t 0 PWR_OVERTDP = (rget s 0 PWR_OVERTDP + 1) % 2 ^ 32)
      ∧ (runningMean 100000 l ≤ 16000 → regsBut [(0, PWR_VIN_V.off), (0, 0x150014)] s t ∧ t.log = s.log)
      ∧ changesOnly [.regs, .log, .bnc] s t := by
  obtain ⟨hv, hi, hbnc, hkeep, hregs, honly⟩ := sampledPower_facts s v i
  obtain ⟨htenms, hones, hpowers, hover, hunder, hother, hmore⟩ := powerTaken_facts (sampledPower s v i) l
  rw [hkeep _ (by decide), hkeep _ (by decide)] at hover
  refine ⟨(hother _ (by decide) (by decide) (by decide)).trans hv, (hother _ (by decide) (by decide) (by decide)).trans hi,
    hpowers.trans (by rw [hbnc]), htenms.trans (min_eq_right (by omega)), hones, hover, fun hle => ?_,
    only_then (only_mono honly (by decide)) hmore (by decide)⟩
  obtain ⟨hsame, hlog⟩ := hunder hle
  exact ⟨regsBut_trans (regsBut_mono hregs (by decide)) (regsBut_mono hsame (by decide)), hlog.trans (honly .log (by decide))⟩

end Sample

/-- Settles O42: the entry's states, its trips (`hardTrip_facts`) and the means of the power samples. -/
theorem powerEntry : Obligations.PowerEntry := by
  unfold Obligations.PowerEntry
  intro s
  have trip (c : Nat) (hc : c < 16) : Tripped s (hardTrip s c) c := hardTrip_facts s s c hc (only_refl _ _) rfl
  refine ⟨fun hup hrec hstate hstop => ⟨fun hwaits => ?charges, fun hwaits => ?held⟩, writeMainEn_off,
    fun hstate => congrArg Host.Outcome.next (if_pos hstate), fun hstate hcharged => ?main,
    fun hstate hcharged => ⟨_, congrArg Host.Outcome.next (if_pos ⟨hstate, by rw [hcharged]; rfl⟩), trip 7 (by decide)⟩,
    fun hstate => ⟨⟨_, congrArg Host.Outcome.next (if_neg hstate), trip 2 (by decide)⟩,
      ⟨_, congrArg Host.Outcome.next (if_neg hstate), trip 3 (by decide)⟩⟩,
    fun hstate => ⟨⟨_, congrArg Host.Outcome.next (if_pos hstate), trip 4 (by decide)⟩,
      ⟨_, congrArg Host.Outcome.next (if_pos hstate), trip 5 (by decide)⟩⟩,
    fun v i hruns => ?sample, fun v i hruns => congrArg Host.Outcome.next (if_neg (by rw [hruns]; decide)), fun hup => ?lock⟩
  case charges =>
    obtain ⟨hone, hen, hpwr, honly, hregs⟩ := mainEn_charges s
    exact ⟨_, (writeMainEn_on hup hrec hstate hstop).trans (congrArg _ (if_neg (by rw [hwaits]; decide))), hone, hen, hpwr, honly, hregs⟩
  case held =>
    obtain ⟨hzero, hen, honly⟩ := mainEn_held hstate
    exact ⟨_, (writeMainEn_on hup hrec hstate hstop).trans (congrArg _ (if_pos hwaits)), hzero, rfl, hen, honly⟩
  case main =>
    exact ⟨_, congrArg Host.Outcome.next (if_pos ⟨hstate, hcharged⟩), rget_rput_same1 _ _ _ _ rfl (by decide),
      regsBut_rputm _ _ _ _ _ (by decide), only_rput _ _ _ _ _⟩
  case sample =>
    intro l mean
    have hexec := execPowerSample_eq (v := v) (i := i) hruns (l := l) rfl
    exact ⟨fun hgt hstate => ⟨_, hexec.trans (congrArg _ (if_pos ⟨hgt, hstate⟩)), powerSample_trips s v i l⟩,
      fun hle => ⟨_, hexec.trans (congrArg _ (if_neg fun h => absurd h.1 (Nat.not_lt.mpr hle))), powerSample_taken hle⟩⟩
  case lock =>
    obtain ⟨hone, hregs, honly⟩ := rset_facts s PWR_CTL_LOCK rfl (by decide)
    exact ⟨_, congrArg Host.Outcome.next (if_pos hup), hone, rset_ne _ _ _ _ rfl (by decide), hregs, honly⟩

end Sys2Proof.Claims
end

section
/-!
PROOFS. PLL locks, loss and return of clocks, power loss, and frequency counters (R199, R404, R410 to R413).
-/

namespace Sys2Proof.Claims

open Sys2Proof Sys2Proof.Machine

/-! ### PLL locks (R404) -/

section PllLock

variable {s : State} {k p : BitVec 3}

theorem execPllLock_stack (hdomains : 2 ≤ s.rst.domains) (hp : p.toNat < 5) (hen : ron s k.toNat CLK_PLL_EN p.toNat = true) :
    exec (.pllLock k p) s = .next (rset s k.toNat CLK_PLL_LOCK p.toNat) := by
  show execPllLock k p s = _
  unfold execPllLock
  dsimp only
  rw [if_neg (by omega), if_neg (by omega), if_pos hp, if_pos hen]

theorem execPllLock_die (hdomains : 2 ≤ s.rst.domains) {d : Nat} (hd : stackDie k.toNat = some d) :
    exec (.pllLock k 5) s = .next { s with pwr := { s.pwr with
      linkLocks := if s.pwr.linkLocks.contains d then s.pwr.linkLocks else s.pwr.linkLocks ++ [d] } } := by
  show execPllLock k 5 s = _
  unfold execPllLock
  dsimp only
  rw [if_neg (by decide), if_neg (by omega), if_neg (by decide), if_pos (by decide), hd]

theorem execPllLock_none (hdomains : 2 ≤ s.rst.domains) (hd : stackDie k.toNat = none) : exec (.pllLock k 5) s = .next s := by
  show execPllLock k 5 s = _
  unfold execPllLock
  dsimp only
  rw [if_neg (by decide), if_neg (by omega), if_neg (by decide), if_pos (by decide), hd]

theorem execPllLock_binnacle (hup : islandUp s = true) : exec (.pllLock k 6) s = .next (rset s 0 CLK_STATUS_BNC_LOCK) := by
  show execPllLock k 6 s = _
  unfold execPllLock
  dsimp only
  rw [if_pos (by decide), if_pos hup]

end PllLock

/-! ### Loss of a clock (R410) -/

/-- What a detector records: bits of CLK_STATUS alone. -/
theorem noteLoss_facts (s : State) (c : ClockLoss) :
    let x := noteLoss s c
    changesOnly [.regs] s x ∧ (∀ f : Fld, f.off ≠ 0x150100 → rget x 0 f = rget s 0 f)
      ∧ (c = .bck → rget x 0 CLK_STATUS_LOC_BCK = 1 ∧ rget x 0 CLK_STATUS_BCK_OK = 0)
      ∧ (c = .bck ∨ c = .binnaclePll → rget x 0 CLK_STATUS_BNC_LOCK = 0)
      ∧ (c ≠ .bck → rget x 0 CLK_STATUS_LOC_REF = 1) := by
  cases c with
  | bck =>
    refine ⟨only_trans (only_trans (only_rput _ _ _ _ _) (only_rput _ _ _ _ _)) (only_rput _ _ _ _ _), fun f hf => ?_,
      fun _ => ⟨rset_one _ _ _ rfl (by decide), ?_⟩, fun _ => ?_, fun h => absurd rfl h⟩
    · exact (rset_ne _ _ _ _ rfl (.inl hf)).trans ((rget_rput_ne _ _ _ _ _ rfl (.inl hf)).trans (rget_rput_ne _ _ _ _ _ rfl (.inl hf)))
    · exact (rset_ne _ _ _ _ rfl (by decide)).trans ((rget_rput_ne _ _ _ _ _ rfl (by decide)).trans
        (rget_rput_same1 _ _ _ _ rfl (by decide)))
    · exact (rset_ne _ _ _ _ rfl (by decide)).trans (rget_rput_same1 _ _ _ _ rfl (by decide))
  | ref =>
    refine ⟨only_trans (only_rput _ _ _ _ _) (only_rput _ _ _ _ _), fun f hf => ?_, nofun,
      (by rintro (h | h) <;> cases h), fun _ => rset_one _ _ _ rfl (by decide)⟩
    exact (rset_ne _ _ _ _ rfl (.inl hf)).trans (rget_rput_ne _ _ _ _ _ rfl (.inl hf))
  | pll =>
    exact ⟨only_rput _ _ _ _ _, fun f hf => rset_ne _ _ _ _ rfl (.inl hf), nofun,
      (by rintro (h | h) <;> cases h), fun _ => rset_one _ _ _ rfl (by decide)⟩
  | binnaclePll =>
    refine ⟨only_trans (only_rput _ _ _ _ _) (only_rput _ _ _ _ _), fun f hf => ?_, nofun, fun _ => ?_,
      fun _ => rset_one _ _ _ rfl (by decide)⟩
    · exact (rset_ne _ _ _ _ rfl (.inl hf)).trans (rget_rput_ne _ _ _ _ _ rfl (.inl hf))
    · exact (rset_ne _ _ _ _ rfl (by decide)).trans (rget_rput_same1 _ _ _ _ rfl (by decide))

/-- The safe state leaves the lock bit of Binnacle's PLL as it was. -/
theorem safeState_bncLock (x : State) : rget (safeState x) 0 CLK_STATUS_BNC_LOCK = rget x 0 CLK_STATUS_BNC_LOCK := by
  unfold safeState
  rw [rget_rput_ne _ _ _ _ _ rfl (by decide), rset_ne _ _ _ _ rfl (by decide), rget_rput_ne _ _ _ _ _ rfl (by decide),
    dropDomains_island _ _ (by decide), (breakCommits_facts x).1.rget _ rfl (by decide)]

theorem execLossOfClock_facts (s : State) (c : ClockLoss) : ∃ t, exec (.lossOfClock c) s = .next t ∧ Dropped s t
    ∧ rget t 0 CLK_STATUS_SAFE = 1 ∧ pwrState t = (if pwrState s = 4 then 4 else 3)
    ∧ rget t 0 CLK_LOCS = (rget s 0 CLK_LOCS + 1) % 2 ^ 32
    ∧ (c = .bck → rget t 0 CLK_STATUS_LOC_BCK = 1 ∧ rget t 0 CLK_STATUS_BCK_OK = 0)
    ∧ (c = .bck ∨ c = .binnaclePll → rget t 0 CLK_STATUS_BNC_LOCK = 0) ∧ (c ≠ .bck → rget t 0 CLK_STATUS_LOC_REF = 1) := by
  obtain ⟨nonly, nkeep, nbck, nlock, nref⟩ := noteLoss_facts s c
  obtain ⟨sdropped, ssafe, sstate, slocs, sbck, sref, sok⟩ := safeState_facts s (noteLoss s c) nonly
  have slock := safeState_bncLock (noteLoss s c)
  obtain ⟨u, hu⟩ : ∃ u, u = safeState (noteLoss s c) := ⟨_, rfl⟩
  rw [← hu] at sdropped ssafe sstate slocs sbck sref sok slock
  have hkeep : ∀ f : Fld, f.off ≠ CLK_LOCS.off → rget (rbump u 0 CLK_LOCS) 0 f = rget u 0 f :=
    fun f hf => rbump_ne _ _ _ _ _ rfl (.inl hf)
  refine ⟨rbump u 0 CLK_LOCS, by rw [hu]; rfl, droppedTrans sdropped (only_mono (only_rbump _ _ _ _) (by decide)) sdropped.domains,
    (hkeep _ (by decide)).trans ssafe, ?_, ?_, fun h => ⟨?_, ?_⟩, fun h => ?_, fun h => ?_⟩
  · have hstate : pwrState (noteLoss s c) = pwrState s := nkeep PWR_STATUS_STATE (by decide)
    exact (hkeep PWR_STATUS_STATE (by decide)).trans (sstate.trans (by rw [hstate]))
  · rw [rbump_same _ _ _ _ rfl, slocs, nkeep _ (by decide)]
    rfl
  · exact (hkeep _ (by decide)).trans (sbck.trans (nbck h).1)
  · exact (hkeep _ (by decide)).trans (sok.trans (nbck h).2)
  · exact (hkeep _ (by decide)).trans (slock.trans (nlock h))
  · exact (hkeep _ (by decide)).trans (sref.trans (nref h))

/-! ### Power loss (R199, R413) -/

theorem endStackCommit_nor (s : State) (k : Nat) (ok : Bool) : (endStackCommit s k ok).log.nor = s.log.nor := by
  have hcommit : (commitTable s k).log = s.log :=
    only_of_frame (m := [.regs, .stk]) (commitTable_frame s k (.refl _ _) (by decide)) .log (by decide)
  unfold endStackCommit
  rw [rput_log]
  cases ok with
  | true => exact congrArg LogSt.nor hcommit
  | false => rfl

theorem foldl_endMasked_nor (w : Word) (l : List (Nat × Nat)) (s : State) :
    (l.foldl (fun s q => endMasked s q.1 (!w.getLsbD q.2)) s).log.nor = s.log.nor := by
  induction l generalizing s with
  | nil => rfl
  | cons q l ih => exact (ih _).trans (endStackCommit_nor s _ _)

theorem passMasked_nor (s : State) : (passMasked s).log.nor = s.log.nor := by
  have hshow : ∀ u, (showMasked u).log = u.log :=
    fun u => only_of_frame (m := [.regs]) (showMasked_frame u (.refl _ _) (by decide)) .log (by decide)
  unfold passMasked
  dsimp only
  split
  · rfl
  · rw [hshow]
    exact foldl_endMasked_nor _ _ _

theorem spoilMasked_log (s : State) : (spoilMasked s).log = s.log := by
  unfold spoilMasked
  split <;> rfl

theorem breakCommits_nor (s : State) : (breakCommits s).log.nor = s.log.nor := by
  have hspoil : (spoilMasked (passMasked s)).log.nor = s.log.nor :=
    (congrArg LogSt.nor (spoilMasked_log _)).trans (passMasked_nor s)
  unfold breakCommits
  dsimp only
  split <;> exact hspoil

/-- What a reset cuts off leaves NOR as it was. -/
theorem endLong_nor (s : State) : (endLong s).log.nor = s.log.nor := by
  have hload : (endLoad s).log = s.log :=
    only_of_frame (m := [.regs, .lsr]) (endLoad_frame s (.refl _ _) (by decide)) .log (by decide)
  have hcommand : ∀ u, (endCommand u).log = u.log := fun u => by
    unfold endCommand
    split <;> rfl
  calc (endLong s).log.nor = (breakCommits (endLoad s)).log.nor := congrArg LogSt.nor (hcommand _)
    _ = (endLoad s).log.nor := breakCommits_nor _
    _ = s.log.nor := congrArg LogSt.nor hload

theorem execPowerLoss_facts (s : State) : ∃ t, exec .powerLoss s = .next t ∧ Dropped s t ∧ t.regs = [] ∧ t.log.nor = s.log.nor
    ∧ t.log.entries = [] ∧ t.rst.domains = 0 ∧ t.lsr.dikCopy = 0 := by
  obtain ⟨e, he⟩ : ∃ e, e = endLong s := ⟨_, rfl⟩
  obtain ⟨u, hu⟩ : ∃ u, u = dropIsland (dropDomains e) := ⟨_, rfl⟩
  obtain ⟨v, hv⟩ : ∃ v, v = clearPowerOn u := ⟨_, rfl⟩
  have hdropped : Dropped s (dropDomains e) := dropped_drop s _ (he ▸ endLong_only s)
  have hisland : changesOnly [.regs, .log, .rst, .bnc, .snd, .lsr] (dropDomains e) u := hu ▸ dropIsland_only _
  have hclear : changesOnly [.regs, .rst, .lsr] u v := hv ▸ clearPowerOn_only u
  have hlog : v.log = u.log := hclear .log (by decide)
  have hdomains : v.rst.domains = 0 := by
    rw [hv, (clearPowerOn_facts u).2.2, hu]
    rfl
  have hlsr : v.lsr.dikCopy = 0 := by
    have hsame : (clearPowerOn u).lsr = { u.lsr with testmode := false, zlock := false } := by
      unfold clearPowerOn recordCause
      dsimp only
      split <;> rfl
    rw [hv, hsame, hu]
    rfl
  have honly : changesOnly [.regs, .free, .log, .rst, .bnc, .snd, .lsr] (dropDomains e) { v with regs := [] } := by
    refine only_then (only_then (only_mono hisland (by decide)) hclear (by decide)) (qs := [.regs]) (fun p hp => ?_) (by decide)
    cases p <;> first | rfl | exact absurd (by simp) hp
  refine ⟨{ v with regs := [] }, by rw [hv, hu, he]; rfl, droppedTrans hdropped honly (by rw [hdomains]; decide), rfl, ?_, ?_,
    hdomains, hlsr⟩
  · have hnor : u.log.nor = e.log.nor := by rw [hu]; rfl
    exact (congrArg LogSt.nor hlog).trans (hnor.trans (he ▸ endLong_nor s))
  · exact (congrArg LogSt.entries hlog).trans (by rw [hu]; rfl)

/-! ### Frequency counters (R412) -/

section Measure

variable {s : State}

theorem execFmeasGo_facts {f : FmeasRef} (hreach : fmeasReach s f = true) : ∃ t, exec (.fmeasGo f) s = .next t
    ∧ rget t (fmeasStack f) (fmeasDone f) = 0 ∧ t.pwr = { s.pwr with measuring := s.pwr.measuring.erase f ++ [f] }
    ∧ changesOnly [.regs, .pwr] s t := by
  have hfits : (fmeasDone f).fits = true := by cases f <;> rfl
  refine ⟨_, congrArg Host.Outcome.next (if_neg (by rw [hreach]; decide)), ?_, rfl, ?_⟩
  · exact rget_rput_same1 s (fmeasStack f) (fmeasDone f) 0 hfits (Nat.two_pow_pos _)
  · exact only_then (only_mono (only_rput s (fmeasStack f) (fmeasDone f) 0 0) (by decide)) (only_pwr _ _) (by decide)

theorem fmeasValue_range (f : FmeasRef) (n : Word) (h : (fmeasRange s f).1 ≤ (fmeasRange s f).2) :
    (fmeasRange s f).1 ≤ fmeasValue s f n ∧ fmeasValue s f n ≤ (fmeasRange s f).2 :=
  ⟨le_max_left _ _, max_le h (min_le_left _ _)⟩

theorem execFmeasDone_facts {f : FmeasRef} (n : Word) (hruns : s.pwr.measuring.contains f = true) :
    ∃ t, exec (.fmeasDone f n) s = .next t
      ∧ rget t (fmeasStack f) (fmeasCount f) = fmeasValue s f n % 2 ^ (fmeasCount f).width
      ∧ ((fmeasRange s f).1 ≤ (fmeasRange s f).2 →
          (fmeasRange s f).1 ≤ fmeasValue s f n ∧ fmeasValue s f n ≤ (fmeasRange s f).2)
      ∧ rget t (fmeasStack f) (fmeasDone f) = 1
      ∧ t.pwr = { s.pwr with measuring := s.pwr.measuring.erase f } ∧ changesOnly [.regs, .pwr] s t := by
  have hdone : (fmeasDone f).fits = true := by cases f <;> rfl
  have hcount : (fmeasCount f).fits = true := by cases f <;> rfl
  have hwidth : 1 < 2 ^ (fmeasDone f).width := by cases f <;> exact Nat.lt_two_pow_self (n := 1)
  have happart : (fmeasCount f).off ≠ (fmeasDone f).off := by
    cases f
    · exact (by decide : SCLK_FMEAS_RES_COUNT.off ≠ SCLK_FMEAS_CTL_DONE.off)
    · exact (by decide : CLK_FMEAS_RES_COUNT.off ≠ CLK_FMEAS_CTL_DONE.off)
  refine ⟨_, congrArg Host.Outcome.next (if_pos hruns), ?_, fmeasValue_range f n, rset_one _ _ _ hdone hwidth, rfl, ?_⟩
  · exact (rset_ne _ _ _ _ hdone (.inl happart)).trans (rget_rput_mod _ _ _ _ hcount)
  · exact only_then (only_then (only_mono (only_pwr s _) (by decide)) (only_rput _ _ _ _ _) (by decide)) (only_rput _ _ _ _ _) (by decide)

end Measure

/-- Settles O44: locks, the loss and the return of clocks, power loss and the frequency counters, one command each. -/
theorem clocks : Obligations.Clocks := by
  unfold Obligations.Clocks
  intro s
  refine ⟨fun k p hdomains hp hen => ⟨_, execPllLock_stack hdomains hp hen, ?lock, ?word, only_rput _ _ _ _ _⟩,
    fun k hdomains => ⟨fun d hd => ⟨_, execPllLock_die hdomains hd, rfl, only_pwr _ _⟩, execPllLock_none hdomains⟩,
    fun hup k => ⟨_, execPllLock_binnacle hup, rset_one _ _ _ rfl (by decide), only_rput _ _ _ _ _⟩,
    execLossOfClock_facts s,
    ⟨_, rfl, rset_one _ _ _ rfl (by decide), rset_ne _ _ _ _ rfl (by decide), regsBut_rputm _ _ _ _ _ (by decide), only_rput _ _ _ _ _⟩,
    ⟨_, rfl, rset_one _ _ _ rfl (by decide), rset_ne _ _ _ _ rfl (by decide), regsBut_rputm _ _ _ _ _ (by decide), only_rput _ _ _ _ _⟩,
    execPowerLoss_facts s, fun f => execFmeasGo_facts, fun f n => execFmeasDone_facts n⟩
  case lock => exact rget_rput_same _ _ _ _ _ rfl
  case word => exact regsBut_rputi s k.toNat CLK_PLL_LOCK 1 p.toNat 0x50100 4 rfl rfl

end Sys2Proof.Claims
end

section
/-!
PROOFS. A stack's power and its clock multiplexers (R397, R406, R407).
-/

namespace Sys2Proof.Claims

open Sys2Proof Sys2Proof.Machine

/-! ### Power of a stack (R397) -/

/-- ON starts the ramp of a stack that is off. -/
theorem rampStack_up {s : State} {k : Nat} (hon : stackOnNow s k = true) (hoff : rget s k PWR_STK_STATUS_STATE = 0) :
    rampStack s k = rput s k PWR_STK_STATUS_STATE 1 := by
  unfold rampStack
  rw [hon, hoff]
  rfl

/-- A cleared ON starts the ramp down of a stack that is on. -/
theorem rampStack_down {s : State} {k : Nat} (hon : stackOnNow s k = false) (hup : rget s k PWR_STK_STATUS_STATE = 2) :
    rampStack s k = rput s k PWR_STK_STATUS_STATE 3 := by
  unfold rampStack
  rw [hon, hup]
  rfl

/-- A stack that is off stays off while ON is cleared. -/
theorem rampStack_rest {s : State} {k : Nat} (hon : stackOnNow s k = false) (hoff : rget s k PWR_STK_STATUS_STATE = 0) :
    rampStack s k = s := by
  unfold rampStack
  rw [hon, hoff]
  rfl

/-- STACK_ON of a stack whose domain is released and whose wrapper is open. -/
theorem execStackOn_open {s : State} {k : BitVec 3} (v : Bool) (hdomains : 3 ≤ s.rst.domains)
    (hopen : wrapperClosed s 5 k.toNat 0 = false) :
    exec (.stackOn k v) s = .next (if v = true then rampStack (rset s k.toNat PWR_STK_CTL_ON) k.toNat
      else rampStack (stackOff (rput s k.toNat PWR_STK_CTL_ON 0) k.toNat) k.toNat) := by
  have hreached : ¬ (s.rst.domains < 3 ∨ wrapperClosed s 5 k.toNat 0 = true) := by
    rintro (h | h)
    · omega
    · exact absurd (h.symm.trans hopen) (by decide)
  exact congrArg Host.Outcome.next (if_neg hreached)

section StackOn

variable {s : State} {k : BitVec 3}

theorem execStackOn_true (hdomains : 3 ≤ s.rst.domains) (hopen : wrapperClosed s 5 k.toNat 0 = false)
    (hoff : rget s k.toNat PWR_STK_STATUS_STATE = 0) :
    ∃ t, exec (.stackOn k true) s = .next t ∧ stackOnNow t k.toNat = true ∧ rget t k.toNat PWR_STK_STATUS_STATE = 1
      ∧ regsBut [(k.toNat, 0x50000), (k.toNat, 0x50004)] s t ∧ changesOnly [.regs] s t := by
  obtain ⟨c, hc⟩ : ∃ c, c = rset s k.toNat PWR_STK_CTL_ON := ⟨_, rfl⟩
  have hon : stackOnNow c k.toNat = true := ron_true (hc ▸ rset_one _ _ _ rfl (by decide))
  have hstill : rget c k.toNat PWR_STK_STATUS_STATE = 0 := by
    rw [hc]
    exact (rset_ne _ _ _ _ rfl (by decide)).trans hoff
  have cregs : regsBut [(k.toNat, 0x50000), (k.toNat, 0x50004)] s c :=
    hc ▸ regsBut_rputm _ _ PWR_STK_CTL_ON _ _ List.mem_cons_self
  have conly : changesOnly [.regs] s c := hc ▸ only_rput _ _ _ _ _
  refine ⟨rput c k.toNat PWR_STK_STATUS_STATE 1, ?_, (ron_rget (rget_rput_ne _ _ _ _ _ rfl (by decide))).trans hon,
    rget_rput_same1 _ _ _ _ rfl (by decide), regsBut_trans cregs (regsBut_rputm _ _ PWR_STK_STATUS_STATE _ _ (by simp [PWR_STK_STATUS_STATE])),
    only_then conly (only_rput _ _ _ _ _) (by decide)⟩
  rw [execStackOn_open true hdomains hopen, if_pos rfl, ← hc, rampStack_up hon hstill]

theorem execStackOn_false (hdomains : 3 ≤ s.rst.domains) (hopen : wrapperClosed s 5 k.toNat 0 = false)
    (hup : rget s k.toNat PWR_STK_STATUS_STATE = 2) (hsafe : machineSafe s = true) :
    ∃ t, exec (.stackOn k false) s = .next t ∧ stackOnNow t k.toNat = false ∧ rget t k.toNat PWR_STK_STATUS_STATE = 3
      ∧ rget t k.toNat PWR_STK_STATUS_DRAM_OK = 0 ∧ (stkOf t k.toNat).dramReady = false
      ∧ regsBut [(k.toNat, 0x50000), (k.toNat, 0x50004)] s t ∧ changesOnly [.regs, .tiles, .dram, .stk, .pwr] s t := by
  have hlen : k.toNat < s.stk.length := by
    rw [((machineSafe_iff s).mp hsafe).stk]
    exact k.isLt
  obtain ⟨c, hc⟩ : ∃ c, c = rput s k.toNat PWR_STK_CTL_ON 0 := ⟨_, rfl⟩
  obtain ⟨u, hu⟩ : ∃ u, u = stackOff c k.toNat := ⟨_, rfl⟩
  have conly : changesOnly [.regs] s c := hc ▸ only_rput _ _ _ _ _
  have hclen : k.toNat < c.stk.length := by
    rw [show c.stk = s.stk from conly .stk (by decide)]
    exact hlen
  obtain ⟨uregs, udram, ustate, uready⟩ := stackOff_facts c k.toNat hclen
  have uonly := stackOff_only c k.toNat
  rw [← hu] at uregs udram ustate uready uonly
  have hon : stackOnNow u k.toNat = false := by
    have hkept : rget u k.toNat PWR_STK_CTL_ON = rget c k.toNat PWR_STK_CTL_ON :=
      rget_of_offs uregs _ _ (by decide) (by simp [PWR_STK_CTL_ON])
    rw [hc, rget_rput_same1 _ _ _ _ rfl (by decide)] at hkept
    exact ron_false hkept
  have hstate : rget u k.toNat PWR_STK_STATUS_STATE = 2 := by
    rw [ustate, hc]
    exact (rget_rput_ne _ _ _ _ _ rfl (by decide)).trans hup
  have hramp := rampStack_down hon hstate
  rw [hu, hc] at hramp
  refine ⟨rput u k.toNat PWR_STK_STATUS_STATE 3, ?_, (ron_rget (rget_rput_ne _ _ _ _ _ rfl (by decide))).trans hon,
    rget_rput_same1 _ _ _ _ rfl (by decide), (rget_rput_ne _ _ _ _ _ rfl (by decide)).trans udram, uready, ?_, ?_⟩
  · rw [execStackOn_open false hdomains hopen, hu, hc]
    exact congrArg Host.Outcome.next hramp
  · refine regsBut_trans ?_ (regsBut_rputm _ _ _ _ _ (by simp [PWR_STK_STATUS_STATE]))
    refine regsBut_trans ?_ (regsBut_mono uregs (by simp))
    rw [hc]
    exact regsBut_rputm _ _ _ _ _ (by simp [PWR_STK_CTL_ON])
  · exact only_then (only_then (only_mono conly (by decide)) uonly (by decide)) (only_rput _ _ _ _ _) (by decide)

end StackOn

section RampEnds

variable {s : State} {k : BitVec 3}

theorem elapseNs_regs (s : State) (n : Nat) : (elapseNs s n).regs = s.regs := elapseNs_only s n .regs (by decide)

theorem execStackPowerDone_up (hstate : rget s k.toNat PWR_STK_STATUS_STATE = 1) :
    exec (.stackPowerDone k) s = .next (stackUp (elapseNs s 500000) k.toNat) := if_pos hstate

/-- Outside bring-up step 5, a stack whose ON was cleared ramps down as soon as it is up. -/
theorem stackUp_cleared {s : State} {n : Nat} (hon : stackOnNow s n = false) (hstep : rget s 0 BNC_BRINGUP_STEP ≠ 5) :
    stackUp s n = rput (rput s n PWR_STK_STATUS_STATE 2) n PWR_STK_STATUS_STATE 3 := by
  have hon2 : stackOnNow (rput s n PWR_STK_STATUS_STATE 2) n = false :=
    (ron_rget (rget_rput_ne _ _ _ _ _ rfl (by decide))).trans hon
  unfold stackUp
  dsimp only
  rw [if_neg (fun h => hstep h.1), hon, if_neg (by decide)]
  exact rampStack_down hon2 (rget_rput_same1 _ _ _ _ rfl (by decide))

theorem execStackPowerDone_cleared (hstate : rget s k.toNat PWR_STK_STATUS_STATE = 1) (hon : stackOnNow s k.toNat = false)
    (hstep : rget s 0 BNC_BRINGUP_STEP ≠ 5) :
    ∃ t, exec (.stackPowerDone k) s = .next t ∧ rget t k.toNat PWR_STK_STATUS_STATE = 3
      ∧ rget t k.toNat PWR_STK_STATUS_DRAM_OK = rget s k.toNat PWR_STK_STATUS_DRAM_OK
      ∧ regsBut [(k.toNat, 0x50004)] s t ∧ changesOnly [.cyc, .tick, .tfrac, .regs] s t := by
  have hregs := elapseNs_regs s 500000
  have hon1 : stackOnNow (elapseNs s 500000) k.toNat = false := (ron_of_regs hregs _ _).trans hon
  have hstep1 : rget (elapseNs s 500000) 0 BNC_BRINGUP_STEP ≠ 5 := fun h => hstep ((rget_of_regs hregs _ _).symm.trans h)
  refine ⟨_, (execStackPowerDone_up hstate).trans (congrArg Host.Outcome.next (stackUp_cleared hon1 hstep1)),
    rget_rput_same1 _ _ _ _ rfl (by decide), ?_, ?_, ?_⟩
  · rw [rget_rput_ne _ _ _ _ _ rfl (by decide), rget_rput_ne _ _ _ _ _ rfl (by decide), rget_of_regs hregs]
  · refine regsBut_trans ?_ (regsBut_rputm _ _ _ _ _ (by simp [PWR_STK_STATUS_STATE]))
    exact regsBut_trans (regsBut_of_regs hregs _) (regsBut_rputm _ _ _ _ _ (by simp [PWR_STK_STATUS_STATE]))
  · exact only_then (only_then (only_mono (elapseNs_only s 500000) (by decide)) (only_rput _ _ _ _ _) (by decide))
      (only_rput _ _ _ _ _) (by decide)

theorem execStackPowerDone_down (hstate : rget s k.toNat PWR_STK_STATUS_STATE = 3) (hstop : s.pwr.stopping = false)
    (hon : stackOnNow s k.toNat = false) :
    ∃ t, exec (.stackPowerDone k) s = .next t ∧ rget t k.toNat PWR_STK_STATUS_STATE = 0
      ∧ regsBut [(k.toNat, 0x50004)] s t ∧ changesOnly [.cyc, .tick, .tfrac, .regs] s t := by
  obtain ⟨e, he⟩ : ∃ e, e = elapseNs s 500000 := ⟨_, rfl⟩
  have eonly : changesOnly [.cyc, .tick, .tfrac] s e := he ▸ elapseNs_only s 500000
  have eregs : e.regs = s.regs := eonly .regs (by decide)
  have estop : e.pwr.stopping = false := (congrArg PowerSt.stopping (eonly .pwr (by decide))).trans hstop
  obtain ⟨t, ht⟩ : ∃ t, t = rput e k.toNat PWR_STK_STATUS_STATE 0 := ⟨_, rfl⟩
  have toff : rget t k.toNat PWR_STK_STATUS_STATE = 0 := by
    rw [ht]
    exact rget_rput_same1 _ _ _ _ rfl (by decide)
  have ton : stackOnNow t k.toNat = false := by
    rw [ht]
    exact (ron_rget (rget_rput_ne _ _ _ _ _ rfl (by decide))).trans ((ron_of_regs eregs _ _).trans hon)
  have tstop : t.pwr.stopping = false := by
    rw [ht]
    exact estop
  refine ⟨t, ?_, toff, ?_, ?_⟩
  · calc exec (.stackPowerDone k) s = .next (stopStep (rampStack t k.toNat)) := by
          rw [ht, he]
          exact (if_neg (by rw [hstate]; decide)).trans (if_pos hstate)
      _ = .next t := by rw [rampStack_rest ton toff, stopStep_of_not_stopping tstop]
  · rw [ht]
    exact regsBut_trans (regsBut_of_regs eregs _) (regsBut_rputm _ _ _ _ _ (by simp [PWR_STK_STATUS_STATE]))
  · rw [ht]
    exact only_then (only_mono eonly (by decide)) (only_rput _ _ _ _ _) (by decide)

end RampEnds

/-! ### Clock multiplexers (R406, R407) -/

theorem showSwitching_some {s : State} {m : MuxRef} {k : Nat} (h : muxStack m = some k) : showSwitching s m
    = rput s k CLK_SEL_SWITCHING (bit (s.pwr.switching.any fun x => muxStack x == some k)) := by
  unfold showSwitching
  rw [h]

theorem showSwitching_none {s : State} {m : MuxRef} (h : muxStack m = none) : showSwitching s m = s := by
  unfold showSwitching
  rw [h]

/-- A switch that ends: the multiplexer leaves the list, and its stack's bit shows what is left. -/
theorem endSwitch_facts (s : State) (m : MuxRef) :
    (endSwitch s m).pwr = { s.pwr with switching := s.pwr.switching.erase m }
      ∧ (∀ k, muxStack m = some k → rget (endSwitch s m) k CLK_SEL_SWITCHING
          = bit ((s.pwr.switching.erase m).any fun x => muxStack x == some k))
      ∧ rget (endSwitch s m) 0 CLK_HANGS = rget s 0 CLK_HANGS
      ∧ changesOnly [.regs, .pwr] s (endSwitch s m) := by
  obtain ⟨u, hu⟩ : ∃ u : State, u = { s with pwr := { s.pwr with switching := s.pwr.switching.erase m } } := ⟨_, rfl⟩
  have hend : endSwitch s m = showSwitching u m := by rw [hu]; rfl
  have hpwr : u.pwr = { s.pwr with switching := s.pwr.switching.erase m } := by rw [hu]
  have hregs : u.regs = s.regs := by rw [hu]
  have honly : changesOnly [.regs, .pwr] s u := hu ▸ only_mono (only_pwr s _) (by decide)
  rw [hend]
  cases hm : muxStack m with
  | none =>
    rw [showSwitching_none hm]
    exact ⟨hpwr, nofun, rget_of_regs hregs 0 _, honly⟩
  | some k =>
    rw [showSwitching_some hm, hpwr]
    refine ⟨hpwr, fun k' hk => ?_, ?_, only_then honly (only_rput _ _ _ _ _) (by decide)⟩
    · cases hk
      exact rget_rput_same1 _ _ _ _ rfl (bit_lt _)
    · exact (rget_of_offs (regsBut_rput0 u k CLK_SEL_SWITCHING _) 0 CLK_HANGS (by decide)
        (by simp [CLK_SEL_SWITCHING, CLK_HANGS])).trans (rget_of_regs hregs 0 _)

section Muxes

variable {s : State} {m : MuxRef}

theorem execMuxSwitch_stopped (hstopped : sourceRuns s m (!muxSel s m) = false) : exec (.muxSwitch m) s = .next s :=
  congrArg Host.Outcome.next (if_neg (by rw [hstopped]; decide))

theorem execMuxSwitch_runs (hruns : sourceRuns s m (!muxSel s m) = true) :
    exec (.muxSwitch m) s = .next (endSwitch s m) := congrArg Host.Outcome.next (if_pos hruns)

/-- A hang is counted; Binnacle's own multiplexer shares no counter with it. -/
theorem hang_counted (s : State) (m : MuxRef) :
    rget (rbump (endSwitch (elapseNs s 16000) m) 0 CLK_HANGS) 0 CLK_HANGS = (rget s 0 CLK_HANGS + 1) % 2 ^ 32 := by
  obtain ⟨-, -, hkeep, -⟩ := endSwitch_facts (elapseNs s 16000) m
  rw [rbump_same _ _ _ _ rfl, hkeep, rget_of_regs (elapseNs_regs s 16000)]
  rfl

/-- A hang with blocks to reset, while the multiplexer still switches and Binnacle runs. -/
theorem execMuxHang_blocks {bs : List UnitRef} (hbs : muxBlocks m = bs) (hsome : bs ≠ []) (hbnc : binnacleRuns s = true)
    (hswitch : s.pwr.switching.contains m = true) :
    exec (.muxHang m) s = .next (bs.foldl ensureReset (rbump (endSwitch (elapseNs s 16000) m) 0 CLK_HANGS)) := by
  show execMuxHang m s = _
  unfold execMuxHang
  rw [hbs]
  cases bs with
  | nil => exact absurd rfl hsome
  | cons b bs => exact if_neg (by rw [hswitch, hbnc]; decide)

end Muxes

/-- Settles O43: a stack's power and the multiplexers, one command of each clause at a time. -/
theorem stackPower : Obligations.StackPower := by
  unfold Obligations.StackPower
  intro s
  refine ⟨fun k hdomains hopen => ⟨execStackOn_true hdomains hopen, execStackOn_false hdomains hopen⟩,
    fun k => ⟨fun hstate => ⟨execStackPowerDone_up hstate, execStackPowerDone_cleared hstate⟩, execStackPowerDone_down⟩,
    fun m => execMuxSwitch_stopped, fun m hruns => ?switched, fun m hm hbnc hswitch => ?hang, fun b => rfl,
    ⟨_, rfl, rfl, only_bnc _ _⟩⟩
  case switched =>
    obtain ⟨hpwr, hshown, -, honly⟩ := endSwitch_facts s m
    exact ⟨_, execMuxSwitch_runs hruns, hpwr, hshown, honly⟩
  case hang =>
    intro s1
    refine ⟨hang_counted s m, ?_⟩
    cases m with
    | tile r => exact execMuxHang_blocks rfl (List.cons_ne_nil _ _) hbnc hswitch
    | mesh k => exact execMuxHang_blocks rfl (List.cons_ne_nil _ _) hbnc hswitch
    | dram k => exact execMuxHang_blocks rfl (List.cons_ne_nil _ _) hbnc hswitch
    | binnacle => exact absurd rfl hm

end Sys2Proof.Claims
end

section
/-!
PROOFS. The log: DRAM errors, stress tests, appends and bucket boundaries (R377, R378, R391, R392).
-/

namespace Sys2Proof.Claims

open Sys2Proof Sys2Proof.Machine

theorem only_log (s : State) (v : LogSt) : changesOnly [.log] s { s with log := v } := by
  intro p hp
  cases p <;> first | rfl | exact absurd (by simp) hp

theorem unitEntry_log {s t : State} (h : t.log = s.log) (u : UnitRef) : unitEntry t u = unitEntry s u := by
  unfold unitEntry
  rw [logEntryOf_log h]

theorem unitEntry_of_some {s : State} {u : UnitRef} {e : LogEntry} (h : logEntryOf s u = some e) : unitEntry s u = e := by
  unfold unitEntry
  rw [h]
  rfl

/-! ### Stress tests (R391, R392) -/

/-- The entry of a tile after one more failed test, from its entry `e`. -/
def failedEntry (e : LogEntry) : LogEntry :=
  { e with stress := min 255 (e.stress + 1), st := if 2 ≤ min 255 (e.stress + 1) then 3 else e.st }

theorem stressFail_eq {s : State} {k site : Nat} {e : LogEntry}
    (he : logEntryOf (tileEvent s k site true 1 0) (tileUnit k site) = some e) :
    stressFail s k site = storeEntry (tileEvent s k site true 1 0) (failedEntry e) (decide (2 ≤ min 255 (e.stress + 1))) := by
  unfold stressFail
  dsimp only
  rw [he]
  rfl

/-- A failed stress test: an event counted, the stress count one higher, and the tile retired at the second. -/
theorem stressFail_facts (s : State) (k site : Nat) :
    (unitEntry (stressFail s k site) (tileUnit k site)).stress = min 255 ((unitEntry s (tileUnit k site)).stress + 1)
      ∧ (unitEntry (stressFail s k site) (tileUnit k site)).repeats
          = min (2 ^ 32 - 1) ((unitEntry s (tileUnit k site)).repeats + 1)
      ∧ (1 ≤ (unitEntry s (tileUnit k site)).stress →
          (unitEntry (stressFail s k site) (tileUnit k site)).st = 3
          ∧ (stressFail s k site).log.nor.find? (fun e => e.unit == tileUnit k site)
              = some (unitEntry (stressFail s k site) (tileUnit k site)))
      ∧ (∀ v, v ≠ tileUnit k site → logEntryOf (stressFail s k site) v = logEntryOf s v)
      ∧ changesOnly [.tiles, .log] s (stressFail s k site) := by
  obtain ⟨x, hcounted, hlog⟩ := tileEvent_facts s k site true 0
  obtain ⟨e, he⟩ := Option.isSome_iff_exists.mp hcounted.listed
  have hevent : logEntryOf (tileEvent s k site true 1 0) (tileUnit k site) = some e := (logEntryOf_log hlog _).trans he
  have hx : unitEntry x (tileUnit k site) = e := unitEntry_of_some he
  have hunit : (failedEntry e).unit = tileUnit k site := show e.unit = _ from find_unit_of _ _ _ he
  have hstress : e.stress = (unitEntry s (tileUnit k site)).stress := hx ▸ hcounted.stress
  have hrepeats : e.repeats = min (2 ^ 32 - 1) ((unitEntry s (tileUnit k site)).repeats + 1) := by
    have h := hcounted.repeats
    rw [if_pos rfl, hx] at h
    exact h
  obtain ⟨hsame, hothers, hnor, -⟩ :=
    storeEntry_facts (tileEvent s k site true 1 0) (failedEntry e) (decide (2 ≤ min 255 (e.stress + 1)))
  rw [← stressFail_eq hevent, hunit] at hsame hothers hnor
  rw [unitEntry_of_some hsame]
  refine ⟨congrArg (fun n => min 255 (n + 1)) hstress, hrepeats, fun hone => ?_, fun v hv => ?_,
    only_of_frame (m := [.tiles, .log]) (stressFail_frame s k site (.refl _ _) (by decide))⟩
  · have hsecond : 2 ≤ min 255 (e.stress + 1) := by omega
    exact ⟨if_pos hsecond, hnor (decide_eq_true hsecond)⟩
  · exact (hothers v hv).trans ((logEntryOf_log hlog v).trans (hcounted.others v hv))

section StressTest

variable {s : State} {r : TileRef} {site : Nat}

theorem execStressTest_run (pass : Bool) (hen : ron s (leadStk s) HLM_RCV_CTL_STRESS_EN = true) (hmay : stressable s r = true)
    (hsite : siteOf s r.stack.toNat r.tile.toNat = some site) :
    exec (.stressTest r pass) s = .next (if pass = true then rbump s (leadStk s) HLM_STRESSRUN
      else stressFail (rbump s (leadStk s) HLM_STRESSRUN) r.stack.toNat site) := by
  show execStressTest r pass s = _
  unfold execStressTest
  dsimp only
  rw [if_neg (by rw [hen, hmay]; decide), hsite]

theorem execStressTest_failed (hen : ron s (leadStk s) HLM_RCV_CTL_STRESS_EN = true) (hmay : stressable s r = true)
    (hsite : siteOf s r.stack.toNat r.tile.toNat = some site) :
    ∃ t, exec (.stressTest r false) s = .next t ∧ changesOnly [.regs, .tiles, .log] s t
      ∧ regsBut [(leadStk s, HLM_STRESSRUN.off)] s t
      ∧ rget t (leadStk s) HLM_STRESSRUN = (rget s (leadStk s) HLM_STRESSRUN + 1) % 2 ^ 32
      ∧ (unitEntry t (tileUnit r.stack.toNat site)).stress = min 255 ((unitEntry s (tileUnit r.stack.toNat site)).stress + 1)
      ∧ (unitEntry t (tileUnit r.stack.toNat site)).repeats
          = min (2 ^ 32 - 1) ((unitEntry s (tileUnit r.stack.toNat site)).repeats + 1)
      ∧ (1 ≤ (unitEntry s (tileUnit r.stack.toNat site)).stress →
          (unitEntry t (tileUnit r.stack.toNat site)).st = 3
          ∧ t.log.nor.find? (fun e => e.unit == tileUnit r.stack.toNat site)
              = some (unitEntry t (tileUnit r.stack.toNat site)))
      ∧ ∀ v, v ≠ tileUnit r.stack.toNat site → logEntryOf t v = logEntryOf s v := by
  obtain ⟨c, hc⟩ : ∃ c, c = rbump s (leadStk s) HLM_STRESSRUN := ⟨_, rfl⟩
  have clog : c.log = s.log := by rw [hc]; rfl
  have conly : changesOnly [.regs] s c := hc ▸ only_rbump _ _ _ _
  obtain ⟨fstress, frepeats, fretired, fothers, fonly⟩ := stressFail_facts c r.stack.toNat site
  have fregs : (stressFail c r.stack.toNat site).regs = c.regs := fonly .regs (by decide)
  rw [unitEntry_log clog] at fstress frepeats fretired
  refine ⟨stressFail c r.stack.toNat site, ?_, ?_, ?_, ?_, fstress, frepeats, fretired,
    fun v hv => (fothers v hv).trans (logEntryOf_log clog v)⟩
  · rw [execStressTest_run false hen hmay hsite, hc]
    rfl
  · exact only_then (only_mono conly (by decide)) fonly (by decide)
  · refine regsBut_trans ?_ (regsBut_of_regs fregs _)
    rw [hc]
    exact regsBut_rputm _ _ _ _ _ (by simp)
  · rw [rget_of_regs fregs, hc]
    exact rbump_same _ _ _ _ rfl

end StressTest

/-! ### Appends (R378) -/

@[simp] theorem appendNor_entries (g : LogSt) (e : LogEntry) : (appendNor g e).entries = g.entries := by
  unfold appendNor
  dsimp only
  split <;> rfl

theorem mem_appendNor_changed {g : LogSt} {e : LogEntry} {u : UnitRef} (h : u ∈ (appendNor g e).changed) :
    u ∈ g.changed ∧ e.unit ≠ u := by
  unfold appendNor at h
  dsimp only at h
  split at h
  · have hmem := List.mem_filter.mp h
    exact ⟨hmem.1, fun heq => by simp [heq] at hmem⟩
  · exact absurd h (by simp)

theorem foldl_appendNor_entries (l : List LogEntry) (g : LogSt) : (l.foldl appendNor g).entries = g.entries := by
  induction l generalizing g with
  | nil => rfl
  | cons e l ih => exact (ih _).trans (appendNor_entries g e)

/-- No appended entry is left changed. -/
theorem mem_foldl_appendNor_changed {l : List LogEntry} {g : LogSt} {u : UnitRef} (h : u ∈ (l.foldl appendNor g).changed) :
    u ∈ g.changed ∧ ∀ e ∈ l, e.unit ≠ u := by
  induction l generalizing g with
  | nil => exact ⟨h, fun e he => absurd he (by simp)⟩
  | cons a l ih =>
    obtain ⟨hstep, hrest⟩ := ih h
    obtain ⟨hg, ha⟩ := mem_appendNor_changed hstep
    exact ⟨hg, fun e he => (List.mem_cons.mp he).elim (fun heq => heq ▸ ha) (hrest e)⟩

/-- While the half in use has room for them, appended entries replace their own alone. -/
theorem foldl_appendNor_room {l : List LogEntry} {g : LogSt} (hroom : g.norUsed + l.length ≤ norHalf) :
    (l.foldl appendNor g).nor = l.foldl putEntry g.nor := by
  induction l generalizing g with
  | nil => rfl
  | cons e l ih =>
    rw [List.length_cons] at hroom
    have hfree : g.norUsed < norHalf := by omega
    have hstep : appendNor g e = { g with nor := putEntry g.nor e, norUsed := g.norUsed + 1,
                                          changed := g.changed.filter fun u => u != e.unit } := if_pos hfree
    rw [List.foldl_cons, List.foldl_cons, hstep]
    exact ih (by dsimp only; omega)

/-- An appended entry of unit `u` that is the working copy's, or another unit's entry, leaves NOR's entry of `u` the working
copy's. -/
theorem appendNor_find {g : LogSt} {e : LogEntry} {u : UnitRef}
    (hown : e.unit = u → g.entries.find? (fun x => x.unit == u) = some e)
    (hheld : e.unit = u ∨ g.nor.find? (fun x => x.unit == u) = g.entries.find? (fun x => x.unit == u)) :
    (appendNor g e).nor.find? (fun x => x.unit == u) = g.entries.find? (fun x => x.unit == u) := by
  unfold appendNor
  dsimp only
  split
  · by_cases hu : e.unit = u
    · rw [hown hu, ← hu]
      exact putEntry_find_same _ _
    · exact (putEntry_find_ne _ _ _ (Ne.symm hu)).trans (hheld.resolve_left hu)
  · rfl

theorem foldl_appendNor_find {l : List LogEntry} {g : LogSt} {u : UnitRef}
    (hown : ∀ e ∈ l, e.unit = u → g.entries.find? (fun x => x.unit == u) = some e)
    (hheld : (∃ e ∈ l, e.unit = u) ∨ g.nor.find? (fun x => x.unit == u) = g.entries.find? (fun x => x.unit == u)) :
    (l.foldl appendNor g).nor.find? (fun x => x.unit == u) = g.entries.find? (fun x => x.unit == u) := by
  induction l generalizing g with
  | nil =>
    rcases hheld with ⟨e, he, -⟩ | hheld
    · exact absurd he (by simp)
    · exact hheld
  | cons a l ih =>
    have hfirst : a.unit = u → g.entries.find? (fun x => x.unit == u) = some a := hown a List.mem_cons_self
    rw [List.foldl_cons, ← appendNor_entries g a]
    refine ih (fun e he hu => ?_) ?_
    · rw [appendNor_entries]
      exact hown e (List.mem_cons_of_mem _ he) hu
    · by_cases hlater : ∃ e ∈ l, e.unit = u
      · exact .inl hlater
      · refine .inr ?_
        rw [appendNor_entries]
        refine appendNor_find hfirst ?_
        rcases hheld with ⟨e, he, hu⟩ | hheld
        · refine .inl ?_
          rcases List.mem_cons.mp he with heq | hmem
          · exact heq ▸ hu
          · exact absurd ⟨e, hmem, hu⟩ hlater
        · exact .inr hheld

/-- The only entry of a unit is the one a search finds. -/
theorem find_of_single {l : List LogEntry} {u : UnitRef} (h : (l.filter fun e => e.unit == u).length = 1) {e : LogEntry}
    (he : e ∈ l) (hu : e.unit = u) : l.find? (fun x => x.unit == u) = some e := by
  obtain ⟨a, ha⟩ := List.length_eq_one_iff.mp h
  have hmem : e ∈ l.filter fun x => x.unit == u := List.mem_filter.mpr ⟨he, by simp [hu]⟩
  rw [← List.head?_filter, ha]
  rw [ha] at hmem
  exact congrArg some (List.mem_singleton.mp hmem).symm

section Append

variable {s : State}

/-- The changed entries of the working copy. -/
def changedEntries (s : State) : List LogEntry := s.log.entries.filter fun e => s.log.changed.contains e.unit

theorem logFlush_log (s : State) : (logFlush s).log = (changedEntries s).foldl appendNor s.log := rfl

theorem mem_changedEntries {e : LogEntry} : e ∈ changedEntries s ↔ e ∈ s.log.entries ∧ e.unit ∈ s.log.changed := by
  unfold changedEntries
  rw [List.mem_filter, List.contains_iff_mem]

theorem logFlush_unchanged {u : UnitRef} (hu : u ∈ (logFlush s).log.changed) : ∀ e ∈ s.log.entries, e.unit ≠ u := by
  obtain ⟨hwas, hnone⟩ := mem_foldl_appendNor_changed (logFlush_log s ▸ hu)
  exact fun e he heq => hnone e (mem_changedEntries.mpr ⟨he, heq ▸ hwas⟩) heq

theorem logFlush_others (hroom : s.log.norUsed + (s.log.entries.countP fun e => s.log.changed.contains e.unit) ≤ 262144)
    {u : UnitRef} (hu : s.log.changed.contains u = false) :
    (logFlush s).log.nor.find? (fun e => e.unit == u) = s.log.nor.find? (fun e => e.unit == u) := by
  have hfits : s.log.norUsed + (changedEntries s).length ≤ norHalf := by
    unfold changedEntries
    rw [← List.countP_eq_length_filter]
    exact hroom
  rw [logFlush_log, foldl_appendNor_room hfits]
  refine foldl_putEntry_find _ _ _ fun e he heq => ?_
  have hmem := (mem_changedEntries.mp he).2
  rw [heq, ← List.contains_iff_mem, hu] at hmem
  exact absurd hmem (by decide)

theorem logFlush_changed {u : UnitRef} (hu : s.log.changed.contains u = true)
    (hone : (s.log.entries.filter fun e => e.unit == u).length = 1) :
    (logFlush s).log.nor.find? (fun e => e.unit == u) = logEntryOf s u := by
  rw [logFlush_log]
  refine foldl_appendNor_find (fun e he heq => find_of_single hone (mem_changedEntries.mp he).1 heq) (.inl ?_)
  obtain ⟨a, ha⟩ := List.length_eq_one_iff.mp hone
  have hmem : a ∈ s.log.entries.filter fun e => e.unit == u := by simp [ha]
  obtain ⟨hentry, hunit⟩ := List.mem_filter.mp hmem
  have heq : a.unit = u := by simpa using hunit
  exact ⟨a, mem_changedEntries.mpr ⟨hentry, heq ▸ List.contains_iff_mem.mp hu⟩, heq⟩

theorem execLogAppend_facts (hbnc : binnacleRuns s = true) :
    ∃ t, exec .logAppend s = .next t ∧ (∀ u ∈ t.log.changed, ∀ e ∈ s.log.entries, e.unit ≠ u)
      ∧ t.log.entries = s.log.entries ∧ changesOnly [.log] s t
      ∧ (s.log.norUsed + (s.log.entries.countP fun e => s.log.changed.contains e.unit) ≤ 262144 →
          ∀ u, s.log.changed.contains u = false →
            t.log.nor.find? (fun e => e.unit == u) = s.log.nor.find? (fun e => e.unit == u))
      ∧ ∀ u, s.log.changed.contains u = true → (s.log.entries.filter fun e => e.unit == u).length = 1 →
          t.log.nor.find? (fun e => e.unit == u) = logEntryOf s u :=
  ⟨logFlush s, congrArg Host.Outcome.next (if_pos hbnc), fun _ => logFlush_unchanged, foldl_appendNor_entries _ _, only_log _ _,
    fun hroom _ => logFlush_others hroom, fun _ => logFlush_changed⟩

/-- The entries of a kind lose the oldest eighth of their window at its boundary. -/
theorem execLogBucketBoundary_facts (kind : BitVec 4) (hbnc : binnacleRuns s = true) :
    ∃ t, exec (.logBucketBoundary kind) s = .next t ∧ changesOnly [.log] s t ∧ t.log.nor = s.log.nor
      ∧ t.log.entries.length = s.log.entries.length
      ∧ ∀ i (h : i < s.log.entries.length), t.log.entries[i]? = some (if s.log.entries[i].unit.kind = kind then
          { s.log.entries[i] with tb := 0 :: s.log.entries[i].tb.take 7, rb := 0 :: s.log.entries[i].rb.take 7 }
        else s.log.entries[i]) := by
  refine ⟨_, congrArg Host.Outcome.next (if_pos hbnc), only_log _ _, rfl, List.length_map _, fun i h => ?_⟩
  rw [List.getElem?_map, List.getElem?_eq_getElem h]
  rfl

end Append

/-- Settles O45: each event of the log, by what it counts, appends or shifts. -/
theorem logEvents : Obligations.LogEvents := by
  unfold Obligations.LogEvents
  intro s
  refine ⟨fun k ch => ⟨_, rfl, logCount_counted _ _ _ _, logCount_only _ _ _ _ _⟩, fun r site hen hmay hsite =>
    ⟨⟨_, execStressTest_run true hen hmay hsite, rfl⟩, execStressTest_failed hen hmay hsite⟩, execLogAppend_facts,
    fun g e hfull => if_neg ?full, execLogBucketBoundary_facts⟩
  case full =>
    unfold norHalf
    omega

end Sys2Proof.Claims
end

section
/-!
PROOFS. Replays, abandon notices and records, and thermal stops (R266, R385 to R387, R440, R441).
-/

namespace Sys2Proof.Claims

open Sys2Proof Sys2Proof.Machine

/-! ### The replay watch (R385) -/

/-- A berth's step at its replay watch: it runs, in this watch. -/
def replayed (s : State) (n : Nat) : Berth :=
  { berthOf s n with step := .running (watchNo s), lastStep := some (watchNo s), arrived := false, released := [] }

theorem startLoaded_berth {s : State} {n : Nat} (hn : n < s.serve.berths.length) :
    berthOf (startLoaded s n) n = { berthOf s n with loading := [] } := by
  obtain ⟨x, hx⟩ : ∃ x, x = startSteps (loadRings s ((berthPrograms s n).filter fun p => (berthOf s n).loading.contains p.tile))
    ((berthPrograms s n).filter fun p => (berthOf s n).loading.contains p.tile) := ⟨_, rfl⟩
  have hserve : x.serve = s.serve := by
    rw [hx]
    exact only_of_frame (startSteps_frame (fm := [.cyc, .tick, .tfrac, .regs, .tiles, .net, .reports, .log, .pwr, .rst]) _ _
      (loadRings_frame s _ (.refl _ _) (by decide)) (by decide)) .serve (by decide)
  have hstart : startLoaded s n = putBerth x n { berthOf x n with loading := [] } := by rw [hx]; rfl
  have hsame : berthOf x n = berthOf s n := congrArg (fun v : ServeSt => v.berths.getD n Berth.reset) hserve
  rw [hstart, berthOf_putBerth _ _ _ (by rw [hserve]; exact hn), hsame]

theorem applyCharged_none {s : State} {n : Nat} (h : (berthOf s n).charged = none) : applyCharged s n = s := by
  unfold applyCharged
  rw [h]

section Replay

variable {s : State} {b : BitVec 4} {first w : Word}

theorem execReplayWatch_due (hstep : (berthOf s b.toNat).step = .replay first w) (hdue : (watchNo s - w).toNat < 2 ^ 31)
    (hloads : loadsHalted s b.toNat = true) : exec (.replayWatch b) s
      = .next (applyCharged (startLoaded (putBerth (setReplaying s b.toNat 0) b.toNat (replayed s b.toNat)) b.toNat) b.toNat) := by
  show execReplayWatch b s = _
  unfold execReplayWatch
  dsimp only
  rw [hstep]
  dsimp only
  rw [if_pos ⟨hdue, hloads⟩]
  rfl

theorem execReplayWatch_early (hstep : (berthOf s b.toNat).step = .replay first w)
    (hearly : 2 ^ 31 ≤ (watchNo s - w).toNat ∨ loadsHalted s b.toNat = false) : exec (.replayWatch b) s = .next s := by
  show execReplayWatch b s = _
  unfold execReplayWatch
  dsimp only
  rw [hstep]
  dsimp only
  refine if_neg fun ⟨hdue, hloads⟩ => ?_
  rcases hearly with h | h
  · omega
  · exact absurd (hloads.symm.trans h) (by decide)

theorem execReplayWatch_runs (hstep : (berthOf s b.toNat).step = .replay first w) (hdue : (watchNo s - w).toNat < 2 ^ 31)
    (hloads : loadsHalted s b.toNat = true) (hn : b.toNat < s.serve.berths.length) (hcharged : (berthOf s b.toNat).charged = none) :
    ∃ t, exec (.replayWatch b) s = .next t ∧ (berthOf t b.toNat).step = .running (watchNo s)
      ∧ (berthOf t b.toNat).lastStep = some (watchNo s) ∧ (berthOf t b.toNat).arrived = false
      ∧ (berthOf t b.toNat).loading = [] ∧ (berthOf t b.toNat).attempts = (berthOf s b.toNat).attempts := by
  obtain ⟨u, hu⟩ : ∃ u, u = putBerth (setReplaying s b.toNat 0) b.toNat (replayed s b.toNat) := ⟨_, rfl⟩
  have hput : berthOf u b.toNat = replayed s b.toNat := by
    rw [hu]
    exact berthOf_putBerth _ _ _ hn
  have hlen : b.toNat < u.serve.berths.length := by
    rw [hu]
    exact (List.length_set (as := s.serve.berths)).symm ▸ hn
  have hloaded : berthOf (startLoaded u b.toNat) b.toNat = { replayed s b.toNat with loading := [] } := by
    rw [startLoaded_berth hlen, hput]
  have hend : applyCharged (startLoaded u b.toNat) b.toNat = startLoaded u b.toNat :=
    applyCharged_none (by rw [hloaded]; exact hcharged)
  refine ⟨startLoaded u b.toNat, ?_, ?_⟩
  · rw [execReplayWatch_due hstep hdue hloads, ← hu, hend]
  · rw [hloaded]
    exact ⟨rfl, rfl, rfl, rfl, rfl⟩

end Replay

/-! ### Abandon notices and records (R386) -/

section Abandon

variable {s : State} {b : BitVec 4} {first : Word}

theorem execAbandonNotice_running {m : BitVec 10} (hhost : hostModule s b.toNat = moduleNo s)
    (hmember : (berthModules s b.toNat).contains m = true) (hstep : (berthOf s b.toNat).step = .running first) :
    exec (.abandonNotice b first m) s
      = .next (abandonNow (sendRecords s b.toNat first (replayFrom s)) b.toNat 13 0 0 0 (replayFrom s)) := by
  refine if_neg ?_
  rintro (h | h | h)
  · exact h hhost
  · rw [hmember] at h
    exact absurd h (by decide)
  · exact h hstep

theorem execAbandonNotice_other {m : BitVec 10} (hstep : (berthOf s b.toNat).step ≠ .running first) :
    exec (.abandonNotice b first m) s = .next s := if_pos (.inr (.inr hstep))

theorem execAbandonNotice_elsewhere {m : BitVec 10} (hhost : hostModule s b.toNat ≠ moduleNo s) :
    exec (.abandonNotice b first m) s = .next s := if_pos (.inl hhost)

theorem execAbandonRecord_running (w : Word) (hstep : (berthOf s b.toNat).step = .running first) :
    exec (.abandonRecord b first w) s = .next (abandonNow s b.toNat 13 0 0 0 w) := if_neg (not_not_intro hstep)

/-- The last attempt abandoned: the berth gives up. -/
theorem abandonNow_last {n : Nat} (w : Word) (hstep : (berthOf s n).step = .running first)
    (hlast : replayMax s ≤ (berthOf s n).attempts + 1) : abandonNow s n 13 0 0 0 w
      = stopAfterLast (giveUp (stopTiles (countPending (noteAbandon s n 13 0 0 0 ((berthOf s n).attempts + 1)) n) n) n) := by
  unfold abandonNow
  dsimp only
  rw [hstep]
  exact if_pos hlast

theorem execAbandonNoticeTimeout_due {t0 : Nat} (hnotice : (berthOf s b.toNat).notice = some (first, t0))
    (hactive : berthState s b.toNat = 1) (hdue : t0 + 10000000 ≤ (elapseToTick s (t0 + 10000000)).tick) :
    exec (.abandonNoticeTimeout b) s = .next (disableBerth
      (putBerth (elapseToTick s (t0 + 10000000)) b.toNat { berthOf s b.toNat with notice := none }) b.toNat none) := by
  have hserve : (elapseToTick s (t0 + 10000000)).serve = s.serve :=
    only_of_frame (m := [.cyc, .tick, .tfrac]) (elapseToTick_frame s _ (.refl _ _) (by decide)) .serve (by decide)
  have hsame : berthOf (elapseToTick s (t0 + 10000000)) b.toNat = berthOf s b.toNat :=
    congrArg (fun v : ServeSt => v.berths.getD b.toNat Berth.reset) hserve
  rw [noticeTimeout_key s _ b first t0 hnotice rfl, hsame, if_neg]
  rintro (h | h)
  · omega
  · exact h hactive

end Abandon

/-! ### Thermal stops (R266, R440, R441) -/

section Thermal

variable {s : State}

theorem execThermalStopEvent_idle
    (h : ¬ (ron s 0 BNC_STATUS_THERMSTOP = true ∧ ron s (leadStk s) HLM_STATUS_THERMSTOP = false)) :
    exec .thermalStopEvent s = .next s := by
  refine congrArg Host.Outcome.next (if_neg fun hc => h ?_)
  rw [Bool.and_eq_true, Bool.not_eq_true'] at hc
  exact hc

theorem execThermalStopEvent_alone (hasked : ron s 0 BNC_STATUS_THERMSTOP = true)
    (hnew : ron s (leadStk s) HLM_STATUS_THERMSTOP = false) (hlead : leadOf s = none) :
    exec .thermalStopEvent s = .next (orderlyStop s) := by
  have hstop : thermalStop s = orderlyStop s := by
    unfold thermalStop
    rw [hlead]
    rfl
  calc exec .thermalStopEvent s = .next (thermalStop s) :=
        congrArg Host.Outcome.next (if_pos (by rw [hasked, hnew]; rfl))
    _ = .next (orderlyStop s) := by rw [hstop]

/-- A thermal notice as its host has written it on. -/
def noticeSent (s : State) (n : Nat) : State :=
  if hostModule s n = moduleNo s then sendHelm s ((otherModules s n).map fun m => HelmMsg.thermal m n) else s

/-- Writing the notice on changes neither the berth's state, nor its step, nor whether its final token is made. -/
theorem noticeSent_facts (s : State) {n : Nat} (hn : n < 16) :
    berthState (noticeSent s n) n = berthState s n ∧ finalMade (noticeSent s n) n = finalMade s n
      ∧ berthOf (noticeSent s n) n = berthOf s n := by
  unfold noticeSent
  split
  · obtain ⟨r, a, b, c, d, heq, hregs⟩ := sendHelm_serve s ((otherModules s n).map fun m => HelmMsg.thermal m n)
    have hlead : leadStk (sendHelm s ((otherModules s n).map fun m => HelmMsg.thermal m n)) = leadStk s := by
      refine leadStk_of_regsBut hregs fun q hq k => ?_
      rw [List.mem_singleton.mp hq]
      exact regKey_off_ne (by decide) (by decide) (by decide)
    refine ⟨?_, by rw [heq]; rfl, by rw [heq]; rfl⟩
    unfold berthState
    rw [hlead]
    refine rget_of_regsBut hregs _ _ _ fun q hq => ?_
    rw [List.mem_singleton.mp hq]
    refine regKey_off_ne ?_ (by decide) ?_
    · dsimp only [HLM_BERTH_STATE]
      omega
    · dsimp only [HLM_BERTH_STATE, FLT_NOROUTE]
      omega
  · exact ⟨rfl, rfl, rfl⟩

theorem execThermalNotice_over (b : BitVec 4)
    (hover : (berthState s b.toNat ≠ 1 ∧ berthState s b.toNat ≠ 2) ∨ finalMade s b.toNat = true) :
    exec (.thermalNotice b) s = .next (noticeSent s b.toNat) := by
  obtain ⟨hstate, hfinal, -⟩ := noticeSent_facts s b.isLt
  refine congrArg Host.Outcome.next ?_
  show endThermal (noticeSent s b.toNat) b.toNat = _
  unfold endThermal
  rw [hstate, hfinal]
  exact if_pos hover

theorem execThermalNotice_ends (b : BitVec 4) (hlive : berthState s b.toNat = 1 ∨ berthState s b.toNat = 2)
    (hfinal : finalMade s b.toNat = false) (hidle : (berthOf s b.toNat).step = .idle) :
    exec (.thermalNotice b) s = .next (stopAfterLast (finishBerth (noticeSent s b.toNat) b.toNat 2)) := by
  obtain ⟨hstate, hmade, hberth⟩ := noticeSent_facts s b.isLt
  have hgoes : ¬ ((berthState s b.toNat ≠ 1 ∧ berthState s b.toNat ≠ 2) ∨ finalMade s b.toNat = true) := by
    rintro (⟨h1, h2⟩ | h)
    · exact hlive.elim h1 h2
    · exact absurd (h.symm.trans hfinal) (by decide)
  refine congrArg Host.Outcome.next ?_
  show endThermal (noticeSent s b.toNat) b.toNat = _
  unfold endThermal
  rw [hstate, hmade, hberth, if_neg hgoes, if_pos hidle]

end Thermal

/-- Settles O47: replay watches, abandon notices and records, and thermal stops and notices. -/
theorem abandonmentAndThermal : Obligations.AbandonmentAndThermal := by
  unfold Obligations.AbandonmentAndThermal
  intro s b
  refine ⟨fun first w => execReplayWatch_runs, fun first w => execReplayWatch_early,
    fun first m hhost hmember => ⟨execAbandonNotice_running hhost hmember, execAbandonNotice_other⟩,
    fun first m => execAbandonNotice_elsewhere,
    fun first w => ⟨fun hstep => ⟨execAbandonRecord_running w hstep, abandonNow_last w hstep⟩, fun hstep => if_pos hstep⟩,
    fun first t0 hnotice hactive => ⟨execAbandonNoticeTimeout_due hnotice hactive, fun hearly => ?early⟩,
    ⟨execThermalStopEvent_idle, fun h => execThermalStopEvent_alone h.1 h.2, fun h => thermalStop_idle s h.1 h.2⟩,
    execThermalNotice_over b, execThermalNotice_ends b⟩
  case early => rw [noticeTimeout_key s _ b first t0 hnotice rfl, if_pos (.inl hearly)]

end Sys2Proof.Claims
end

section
/-!
PROOFS. Block resets: the request, the assertion, and the release (R421 to R424).
-/

namespace Sys2Proof.Claims

open Sys2Proof Sys2Proof.Machine

/-! ### The request (R421, R424) -/

section Request

variable {s : State}

/-- A request that BNC_BRST refuses sets REJECT alone. -/
theorem execBlockReset_refused (hup : islandUp s = true)
    (h : ron s 0 BNC_BRST_STATUS_BUSY = true ∨ blockLegal s (namedBlock s) = false ∨ blockReleased s (namedBlock s) = false
      ∨ (resetOf s (namedBlock s)).isSome = true) :
    exec .blockReset s = .next (rset s 0 BNC_BRST_STATUS_REJECT) := by
  refine congrArg Host.Outcome.next ?_
  show writeBrst s = _
  unfold writeBrst
  dsimp only
  rw [if_neg (by rw [hup]; decide)]
  by_cases hopen : (ron s 0 BNC_BRST_STATUS_BUSY || !blockLegal s (namedBlock s) || !blockReleased s (namedBlock s)) = true
  · exact if_pos hopen
  · rw [if_neg hopen]
    simp only [Bool.or_eq_true, Bool.not_eq_true', not_or] at hopen
    obtain ⟨⟨hidle, hlegal⟩, hreleased⟩ := hopen
    rcases h with h | h | h | h
    · exact absurd h hidle
    · exact absurd h hlegal
    · exact absurd h hreleased
    · exact if_pos h

theorem execBlockReset_taken (hup : islandUp s = true) (hidle : ron s 0 BNC_BRST_STATUS_BUSY = false)
    (hlegal : blockLegal s (namedBlock s) = true) (hreleased : blockReleased s (namedBlock s) = true) :
    exec .blockReset s = .next (startBlock s (namedBlock s) true) := by
  refine congrArg Host.Outcome.next ?_
  show writeBrst s = _
  unfold writeBrst
  dsimp only
  rw [if_neg (by rw [hup]; decide), if_neg (by rw [hidle, hlegal, hreleased]; decide)]

end Request

/-! ### The assertion and the release (R421, R423) -/

section Block

variable {s : State} {b : UnitRef} {r : BlockRst}

theorem execIdleAck_none (h : resetOf s b = none) : exec (.idleAck b) s = .next s := by
  show execIdleAck b s = _
  unfold execIdleAck
  rw [h]

theorem execQuiesceTimeout_none (h : resetOf s b = none) : exec (.quiesceTimeout b) s = .next s := by
  show execQuiesceTimeout b s = _
  unfold execQuiesceTimeout
  rw [h]

theorem execBlockRelease_none (h : resetOf s b = none) : exec (.blockRelease b) s = .next s := by
  show execBlockRelease b s = _
  unfold execBlockRelease
  rw [h]

/-- Whether a tile or a link die still has transfers inside it. -/
def stillBusy (s : State) (b : UnitRef) : Bool := (b.kind == 0 || b.kind == 6) && blockInside s b

theorem execIdleAck_some (h : resetOf s b = some r) :
    exec (.idleAck b) s = .next (if (r.quiesce && !stillBusy s b) = true then assertBlock s r false else s) := by
  show execIdleAck b s = _
  unfold execIdleAck
  rw [h]
  rfl

theorem stillBusy_false (h : (b.kind = 0 ∨ b.kind = 6) → blockInside s b = false) : stillBusy s b = false := by
  unfold stillBusy
  by_cases hkind : b.kind = 0 ∨ b.kind = 6
  · rw [h hkind, Bool.and_false]
  · rw [not_or] at hkind
    simp only [beq_eq_false_iff_ne.mpr hkind.1, beq_eq_false_iff_ne.mpr hkind.2, Bool.or_false, Bool.false_and]

theorem stillBusy_true (hkind : b.kind = 0 ∨ b.kind = 6) (hinside : blockInside s b = true) : stillBusy s b = true := by
  unfold stillBusy
  rw [hinside, Bool.and_true]
  simpa using hkind

theorem execIdleAck_idle (h : resetOf s b = some r) (hq : r.quiesce = true)
    (hidle : (b.kind = 0 ∨ b.kind = 6) → blockInside s b = false) :
    exec (.idleAck b) s = .next (assertBlock s r false) := by
  rw [execIdleAck_some h, stillBusy_false hidle, hq]
  rfl

theorem execIdleAck_busy (h : resetOf s b = some r) (hkind : b.kind = 0 ∨ b.kind = 6) (hinside : blockInside s b = true) :
    exec (.idleAck b) s = .next s := by
  rw [execIdleAck_some h, stillBusy_true hkind hinside, Bool.not_true, Bool.and_false]
  rfl

theorem execIdleAck_asserted (h : resetOf s b = some r) (hq : r.quiesce = false) : exec (.idleAck b) s = .next s := by
  rw [execIdleAck_some h, hq, Bool.false_and]
  rfl

theorem execQuiesceTimeout_asserted (h : resetOf s b = some r) (hq : r.quiesce = false) :
    exec (.quiesceTimeout b) s = .next s := by
  show execQuiesceTimeout b s = _
  unfold execQuiesceTimeout
  rw [h]
  exact if_pos (by rw [hq]; rfl)

/-- A block whose quiesce has run out, its reset asserted. -/
def quiesceOver (s : State) (r : BlockRst) : State :=
  assertBlock (abortInside (rset (elapseToTick s (r.at_ + 100000)) 0 BNC_BRST_STATUS_QTIMEOUT) r.block) r true

theorem execQuiesceTimeout_some (h : resetOf s b = some r) (hq : r.quiesce = true) : exec (.quiesceTimeout b) s
      = .next (if b.kind = 3 ∨ b.kind = 4 then moduleReset (quiesceOver s r) 8 false else quiesceOver s r) := by
  show execQuiesceTimeout b s = _
  unfold execQuiesceTimeout
  rw [h]
  exact if_neg (by rw [hq]; decide)

theorem execBlockRelease_some (h : resetOf s b = some r) :
    exec (.blockRelease b) s = .next (if r.asserted = true then releaseBlock (elapseToTick s (r.at_ + 4000)) r else s) := by
  show execBlockRelease b s = _
  unfold execBlockRelease
  rw [h]

theorem execBlockRelease_asserted (h : resetOf s b = some r) (hr : r.asserted = true) : ∃ t, exec (.blockRelease b) s = .next t
    ∧ t = releaseBlock (elapseToTick s (r.at_ + 4000)) r ∧ t.rst.blocks = s.rst.blocks.erase r := by
  have hrst : (elapseToTick s (r.at_ + 4000)).rst = s.rst :=
    only_of_frame (m := [.cyc, .tick, .tfrac]) (elapseToTick_frame s _ (.refl _ _) (by decide)) .rst (by decide)
  refine ⟨_, (execBlockRelease_some h).trans (congrArg Host.Outcome.next (if_pos hr)), rfl, ?_⟩
  rw [releaseBlock_blocks, hrst]

end Block

/-- Settles O49: a request taken or refused, and each step of a reset in progress. -/
theorem blockResets : Obligations.BlockResets := by
  unfold Obligations.BlockResets
  intro s
  refine ⟨fun hup => ⟨fun h => ⟨_, execBlockReset_refused hup h, rfl⟩, fun hidle hlegal hreleased hnone =>
      ⟨_, execBlockReset_taken hup hidle hlegal hreleased, startBlock_facts s _ hnone⟩⟩,
    fun b h => ⟨execIdleAck_none h, execQuiesceTimeout_none h, execBlockRelease_none h⟩,
    fun b r h => ⟨execIdleAck_idle h, fun _ => execIdleAck_busy h,
      fun hq => ⟨execIdleAck_asserted h hq, execQuiesceTimeout_asserted h hq⟩, fun hq => ⟨fun hkind => ?walker, fun h3 h4 => ?other⟩,
      execBlockRelease_asserted h, fun hr => ?held⟩⟩
  case walker =>
    exact ⟨quiesceOver s r, _, (execQuiesceTimeout_some h hq).trans (congrArg Host.Outcome.next (if_pos hkind)), rfl,
      (moduleReset_facts _ _ 8 false (by decide) (only_refl _ _)).1⟩
  case other => exact (execQuiesceTimeout_some h hq).trans (congrArg Host.Outcome.next (if_neg (not_or.mpr ⟨h3, h4⟩)))
  case held =>
    rw [execBlockRelease_some h, hr]
    rfl

end Sys2Proof.Claims
end

section
/-!
PROOFS. The release sequence and the steps of bring-up (R419, R425, R461).
-/

namespace Sys2Proof.Claims

open Sys2Proof Sys2Proof.Machine

/-! ### The release sequence (R419) -/

section Release

variable {s : State}

theorem execDomainRelease_due (hbring : bringing s = true) (hpre : preconditionHolds s (s.rst.domains + 1) = true) :
    exec .domainRelease s = .next (releaseOrder (elapseNs s 64000) (s.rst.domains + 1)) :=
  congrArg Host.Outcome.next (if_pos (by rw [hbring, hpre]; rfl))

theorem execDomainRelease_waits (h : bringing s = false ∨ preconditionHolds s (s.rst.domains + 1) = false) :
    exec .domainRelease s = .next s := by
  refine congrArg Host.Outcome.next (if_neg ?_)
  rcases h with h | h
  · rw [h, Bool.false_and]
    decide
  · rw [h, Bool.and_false]
    decide

/-- Order 4 takes the link dies' firmware, order 7 the Helms'. -/
theorem releaseOrder_firmware (s : State) :
    (releaseOrder s 4).lsr = { s.lsr with linkFw := s.lsr.inForceB } ∧ (releaseOrder s 7).lsr = { s.lsr with helmFw := s.lsr.inForceB } :=
  ⟨rfl, rfl⟩

theorem execDomainRelease_facts (hbring : bringing s = true) (hpre : preconditionHolds s (s.rst.domains + 1) = true) :
    ∃ t, exec .domainRelease s = .next t
      ∧ (s.rst.domains ≠ 5 → t.rst.domains = s.rst.domains + 1 ∧ t.rst.stacks6 = 0)
      ∧ (s.rst.domains = 5 → s.rst.stacks6 < 7 → t.rst.domains = 5 ∧ t.rst.stacks6 = s.rst.stacks6 + 1)
      ∧ (s.rst.domains = 5 → s.rst.stacks6 = 7 → t.rst.domains = 6 ∧ t.rst.stacks6 = 0)
      ∧ (s.rst.domains = 6 → ∀ d ∈ t.stk, d.beat = t.tick)
      ∧ (s.rst.domains = 0 → t.lsr.dikCopy = 0 ∧ t.lsr.drawn = s.lsr.drawn + 8)
      ∧ (s.rst.domains = 3 → t.lsr = { s.lsr with linkFw := s.lsr.inForceB })
      ∧ (s.rst.domains = 6 → t.lsr = { s.lsr with helmFw := s.lsr.inForceB })
      ∧ (2 ≤ s.rst.domains → s.rst.domains < 5 → changesOnly [.cyc, .tick, .tfrac, .rst, .lsr] s t)
      ∧ changesOnly [.cyc, .slot0, .tick, .tfrac, .regs, .tiles, .stk, .rst, .lsr] s t := by
  obtain ⟨e, he⟩ : ∃ e, e = elapseNs s 64000 := ⟨_, rfl⟩
  obtain ⟨d, hd⟩ : ∃ d, d = s.rst.domains := ⟨_, rfl⟩
  have eonly : changesOnly [.cyc, .tick, .tfrac] s e := he ▸ elapseNs_only s 64000
  have erst : e.rst = s.rst := eonly .rst (by decide)
  have elsr : e.lsr = s.lsr := eonly .lsr (by decide)
  have hexec : exec .domainRelease s = .next (releaseOrder e (d + 1)) := by
    rw [he, hd]
    exact execDomainRelease_due hbring hpre
  obtain ⟨hother, hstack, hlast, hbeats, hnonce, hmiddle⟩ :=
    releaseOrder_facts e (d + 1) (holds_le s _ (hd ▸ hpre)) (by omega)
  rw [erst, ← hd] at hstack
  rw [erst] at hlast
  rw [elsr] at hnonce
  rw [← hd]
  refine ⟨_, hexec, fun h => hother (by omega), fun h => hstack (by omega) h, fun h => hlast (by omega), fun h => hbeats (by omega),
    fun h => hnonce (by omega), fun h => ?_, fun h => ?_, fun h2 h5 => ?_, ?_⟩
  · rw [h, (releaseOrder_firmware e).1, elsr]
  · rw [h, (releaseOrder_firmware e).2, elsr]
  · exact only_then (only_mono eonly (by decide)) (hmiddle (by omega) (by omega)) (by decide)
  · exact only_frameM (releaseOrder_frame (fm := [.cyc, .slot0, .tick, .tfrac, .regs, .tiles, .stk, .rst, .lsr]) e (d + 1)
      (he ▸ elapseNs_frame s 64000 (.refl _ _) (by decide)) (by decide)) (by decide)

/-- Whether bring-up may fault for the next order (R419). -/
theorem execPreconditionTimeout_faults (hbring : bringing s = true) (h1 : 1 ≤ s.rst.domains) (h6 : s.rst.domains ≤ 6)
    (hpre : preconditionHolds s (s.rst.domains + 1) = false) (hpower : s.rst.domains = 1 → pwrState s = 2) :
    exec .preconditionTimeout s = .next (rset s 0 BNC_BRINGUP_FAULTED) := by
  have hsecond : (decide (s.rst.domains + 1 ≠ 2) || decide (pwrState s = 2)) = true := by
    by_cases h : s.rst.domains = 1
    · rw [hpower h]
      simp
    · simp [h]
  refine congrArg Host.Outcome.next (if_pos ?_)
  rw [hbring, hpre, hsecond, decide_eq_true (by omega : 2 ≤ s.rst.domains + 1), decide_eq_true (by omega : s.rst.domains + 1 ≤ 7)]
  rfl

theorem execPreconditionTimeout_holds (hpre : preconditionHolds s (s.rst.domains + 1) = true) :
    exec .preconditionTimeout s = .next s := by
  refine congrArg Host.Outcome.next (if_neg ?_)
  rw [hpre]
  simp

end Release

/-! ### The steps of bring-up (R425) -/

section Steps

variable {s : State} {b : BringupIn}

theorem execBringupStep_run (b : BringupIn) (hup : islandUp s = true) (hbring : bringing s = true) :
    exec (.bringupStep b) s = .next (endStep s (allFails b)) := congrArg Host.Outcome.next (if_pos (by rw [hup, hbring]; rfl))

theorem execBringupStep_ended (b : BringupIn) (hbring : bringing s = false) : exec (.bringupStep b) s = .next s :=
  congrArg Host.Outcome.next (if_neg (by rw [hbring, Bool.and_false]; decide))

theorem endStep_five (fails : List SelfTestFail) (hstep : rget s 0 BNC_BRINGUP_STEP = 5) :
    endStep s fails = if s.rst.domains = 7 then toStep s 6 else s := by
  unfold endStep
  rw [hstep]
  rfl

theorem endStep_seven (fails : List SelfTestFail) (hstep : rget s 0 BNC_BRINGUP_STEP = 7)
    (hover : ∀ k, k < 8 → bringupPassOver s k = true) : endStep s fails = toStep s 8 := by
  unfold endStep
  rw [hstep]
  exact if_pos (List.all_eq_true.mpr fun k hk => hover k (List.mem_range.mp hk))

theorem endStep_nine (fails : List SelfTestFail) (hstep : rget s 0 BNC_BRINGUP_STEP = 9) : endStep s fails
    = if ron s 0 FLT_CTL_FLEET_EN = true ∧ rget s 0 FLT_STATUS_DISC ≠ 4 then s else toStep s 10 := by
  unfold endStep
  rw [hstep]
  rfl

theorem endStep_ten (fails : List SelfTestFail) (hstep : rget s 0 BNC_BRINGUP_STEP = 10) (hboots : s.img.boots = []) :
    endStep s fails = rset (toStep s 11) 0 BNC_BRINGUP_READY := by
  have hskip : ∀ b, bootBerth s b = s := fun b => by
    unfold bootBerth
    rw [hboots]
    rfl
  have hnone : ∀ l : List Nat, l.foldl bootBerth s = s := fun l => by
    induction l with
    | nil => rfl
    | cons b l ih => rw [List.foldl_cons, hskip, ih]
  unfold endStep
  rw [hstep]
  show rset (toStep ((List.range 16).foldl bootBerth s) 11) 0 BNC_BRINGUP_READY = _
  rw [hnone]

theorem endStep_eleven (fails : List SelfTestFail) (hstep : rget s 0 BNC_BRINGUP_STEP = 11) : endStep s fails = s := by
  unfold endStep
  rw [hstep]
  rfl

/-- Bring-up goes to step `n`, and nothing else changes. -/
theorem goesTo {n : Nat} (hn : n < 16) (h : exec (.bringupStep b) s = .next (toStep s n)) :
    ∃ t, exec (.bringupStep b) s = .next t ∧ rget t 0 BNC_BRINGUP_STEP = n ∧ regsBut [(0, BNC_BRINGUP_STEP.off)] s t
      ∧ changesOnly [.regs] s t := ⟨_, h, goes_facts s n hn⟩

theorem ready_facts (s : State) : rget (rset (toStep s 11) 0 BNC_BRINGUP_READY) 0 BNC_BRINGUP_STEP = 11
    ∧ rget (rset (toStep s 11) 0 BNC_BRINGUP_READY) 0 BNC_BRINGUP_READY = 1
    ∧ regsBut [(0, BNC_BRINGUP_STEP.off)] s (rset (toStep s 11) 0 BNC_BRINGUP_READY)
    ∧ changesOnly [.regs] s (rset (toStep s 11) 0 BNC_BRINGUP_READY) := by
  obtain ⟨hstep, hregs, honly⟩ := goes_facts s 11 (by decide)
  exact ⟨(rset_ne _ _ _ _ rfl (by decide)).trans hstep, rset_one _ _ _ rfl (by decide),
    regsBut_trans hregs (regsBut_rputm _ _ _ _ _ (by decide)), only_then honly (only_rput _ _ _ _ _) (by decide)⟩

end Steps

/-- Settles O50: each order of the release, its missing precondition, and each step that bring-up ends. -/
theorem releaseAndBringup : Obligations.ReleaseAndBringup := by
  unfold Obligations.ReleaseAndBringup
  intro s
  refine ⟨execDomainRelease_facts, execDomainRelease_waits, fun hbring h1 h6 hpre hpower => ?faulted,
    execPreconditionTimeout_holds, fun b hup hbring => ?steps, fun b => execBringupStep_ended b⟩
  case faulted =>
    exact ⟨_, execPreconditionTimeout_faults hbring h1 h6 hpre hpower, rset_one _ _ _ rfl (by decide),
      rset_ne _ _ _ _ rfl (by decide), regsBut_rputm _ _ _ _ _ (by decide), only_rput _ _ _ _ _⟩
  case steps =>
    have hrun := execBringupStep_run b hup hbring
    have hto : ∀ {u : State}, endStep s (allFails b) = u → exec (.bringupStep b) s = .next u :=
      fun h => hrun.trans (congrArg Host.Outcome.next h)
    refine ⟨fun h5 h7 => goesTo (by decide) (hto ((endStep_five _ h5).trans (if_pos h7))),
      fun h5 h7 => hto ((endStep_five _ h5).trans (if_neg h7)),
      fun h7 hover => goesTo (by decide) (hto (endStep_seven _ h7 hover)),
      fun h9 hdone => goesTo (by decide) (hto ((endStep_nine _ h9).trans (if_neg ?ends))),
      fun h9 hen hdisc => hto ((endStep_nine _ h9).trans (if_pos ⟨hen, hdisc⟩)),
      fun h10 hboots => ⟨_, hto (endStep_ten _ h10 hboots), ready_facts s⟩, fun h11 => hto (endStep_eleven _ h11)⟩
    rintro ⟨hen, hdisc⟩
    rcases hdone with h | h
    · exact absurd (hen.symm.trans h) (by decide)
    · exact hdisc h

end Sys2Proof.Claims
end

section
/-!
PROOFS. A module reset in the release sequence: what it returns to reset, and the order that is released next (R420).
-/

namespace Sys2Proof.Claims

open Sys2Proof Sys2Proof.Machine

/-! ### Binnacle's own words after its reset -/

/-- Binnacle's words read their reset values, but for the trip's cause, the clock detectors, the last reset and the bring-up
step. -/
def IslandAtReset (s : State) : Prop :=
  ∀ off, islandKey off = true → off ∉ [0x150008, 0x150100, 0x120100, BNC_BRINGUP_STEP.off] → rword s 0 off = reg2Reset off

/-- A write of one of the four excepted words. -/
theorem islandAtReset_setRword {s : State} (h : IslandAtReset s) {off : Nat} (w : Word)
    (hoff : off ∈ [0x150008, 0x150100, 0x120100, BNC_BRINGUP_STEP.off]) : IslandAtReset (setRword s 0 off w) := by
  intro o hisland ho
  have hne : regKey 0 o ≠ regKey 0 off := by
    rw [Ne, regKey_inj]
    exact fun heq => ho (heq ▸ hoff)
  rw [rword_setRword, if_neg hne]
  exact h o hisland ho

theorem islandAtReset_rput_kept {s : State} (h : IslandAtReset s) (f : Fld) (v : Nat)
    (hoff : f.off + f.stride * 0 ∈ [0x150008, 0x150100, 0x120100, BNC_BRINGUP_STEP.off]) : IslandAtReset (rput s 0 f v) :=
  islandAtReset_setRword h _ hoff

/-- A field that is put to its reset value. -/
theorem islandAtReset_rput {s : State} (h : IslandAtReset s) (f : Fld) (v : Nat)
    (hisland : islandKey (f.off + f.stride * 0) = true)
    (hnew : f.off + f.stride * 0 ∉ [0x150008, 0x150100, 0x120100, BNC_BRINGUP_STEP.off])
    (hsame : fldPut f (reg2Reset (f.off + f.stride * 0)) v = reg2Reset (f.off + f.stride * 0)) : IslandAtReset (rput s 0 f v) := by
  intro o ho hother
  unfold rput
  rw [rword_setRword, h _ hisland hnew, hsame]
  by_cases heq : regKey 0 o = regKey 0 (f.off + f.stride * 0)
  · rw [if_pos heq, (regKey_inj 0 o _).mp heq]
  · rw [if_neg heq]
    exact h o ho hother

theorem islandAtReset_of_regs {s t : State} (h : t.regs = s.regs) (hs : IslandAtReset s) : IslandAtReset t :=
  fun off hisland hoff => (rword_of_regs h 0 off).trans (hs off hisland hoff)

/-- A reset's status registers are put to their reset values, but for the bring-up step. -/
theorem islandAtReset_resetStatus {s : State} (h : IslandAtReset s) (n : Nat) : IslandAtReset (resetStatus s n) := by
  have h1 : IslandAtReset (rput (rput (rput (rput s 0 PWR_STATUS_STATE 0) 0 PWR_CTL_MAIN_EN 0) 0 CLK_STATUS_SAFE 0) 0
      PWR_STATUS_BUS_OK 0) :=
    islandAtReset_rput (islandAtReset_rput_kept (islandAtReset_rput (islandAtReset_rput h PWR_STATUS_STATE 0 rfl (by decide)
      (by decide)) PWR_CTL_MAIN_EN 0 rfl (by decide) (by decide)) CLK_STATUS_SAFE 0 (by decide)) PWR_STATUS_BUS_OK 0 rfl (by decide)
      (by decide)
  obtain ⟨s1, hs1⟩ : ∃ y, y = rput (rput (rput (rput s 0 PWR_STATUS_STATE 0) 0 PWR_CTL_MAIN_EN 0) 0 CLK_STATUS_SAFE 0) 0
    PWR_STATUS_BUS_OK 0 := ⟨_, rfl⟩
  rw [← hs1] at h1
  have h3 : IslandAtReset (rput (rput (rput (rput s1 0 BNC_STATUS_THERMSTOP 0) 0 BNC_STATUS_STOPCAUSE 0) 0
      BNC_BRST_STATUS_BUSY 0) 0 BNC_BRST_STATUS_QUIESCE 0) :=
    islandAtReset_rput (islandAtReset_rput (islandAtReset_rput (islandAtReset_rput h1 BNC_STATUS_THERMSTOP 0 rfl (by decide)
      (by decide)) BNC_STATUS_STOPCAUSE 0 rfl (by decide) (by decide)) BNC_BRST_STATUS_BUSY 0 rfl (by decide) (by decide))
      BNC_BRST_STATUS_QUIESCE 0 rfl (by decide) (by decide)
  obtain ⟨s3, hs3⟩ : ∃ y, y = rput (rput (rput (rput s1 0 BNC_STATUS_THERMSTOP 0) 0 BNC_STATUS_STOPCAUSE 0) 0
      BNC_BRST_STATUS_BUSY 0) 0 BNC_BRST_STATUS_QUIESCE 0 := ⟨_, rfl⟩
  rw [← hs3] at h3
  have h5 : IslandAtReset (rput (rput (rput (rput s3 0 BNC_BRINGUP_READY 0) 0 BNC_BRINGUP_FAULTED 0) 0 BNC_BRINGUP_STACKFAIL 0) 0
      BNC_BRINGUP_MODFAIL 0) :=
    islandAtReset_rput_kept (islandAtReset_rput_kept (islandAtReset_rput_kept (islandAtReset_rput_kept h3 BNC_BRINGUP_READY 0
      (by decide)) BNC_BRINGUP_FAULTED 0 (by decide)) BNC_BRINGUP_STACKFAIL 0 (by decide)) BNC_BRINGUP_MODFAIL 0 (by decide)
  obtain ⟨s5, hs5⟩ : ∃ y, y = rput (rput (rput (rput s3 0 BNC_BRINGUP_READY 0) 0 BNC_BRINGUP_FAULTED 0) 0
      BNC_BRINGUP_STACKFAIL 0) 0 BNC_BRINGUP_MODFAIL 0 := ⟨_, rfl⟩
  rw [← hs5] at h5
  have hend : resetStatus s n = rput { s5 with bnc := { s5.bnc with stopped := false } } 0 BNC_BRINGUP_STEP n := by
    rw [hs5, hs3, hs1]
    rfl
  rw [hend]
  exact islandAtReset_rput_kept (islandAtReset_of_regs rfl h5) _ _ (by decide)

theorem islandAtReset_lastReset {s : State} (h : IslandAtReset s) (c : Nat) : IslandAtReset (lastReset s c) := by
  unfold lastReset recordCause
  split
  · exact h
  · exact islandAtReset_setRword (islandAtReset_of_regs rfl h) _ (by decide)

/-- Binnacle's island restarted. -/
theorem islandAtReset_dropIsland (s : State) : IslandAtReset (dropIsland s) := by
  intro off _ hoff
  simp only [List.mem_cons, List.not_mem_nil, or_false, not_or] at hoff
  obtain ⟨htrip, hclk, hlast, -⟩ := hoff
  have hkey : regKey 0 off = off := by simp [regKey]
  show mapGet reg2Reset (keptIsland s) (regKey 0 off) = _
  unfold keptIsland
  dsimp only
  rw [hkey, mapGet_mapSet_ne _ _ _ _ _ hlast, mapGet_mapSet_ne _ _ _ _ _ hclk, mapGet_mapSet_ne _ _ _ _ _ htrip]
  rfl

/-- The trip's cause outlives the island's restart. -/
theorem dropIsland_trip (s : State) : rget (dropIsland s) 0 PWR_TRIP_CAUSE = rget s 0 PWR_TRIP_CAUSE := by
  have hword : rword (dropIsland s) 0 0x150008 = BitVec.ofNat 32 (rget s 0 PWR_TRIP_CAUSE) := by
    show mapGet reg2Reset (keptIsland s) (regKey 0 0x150008) = _
    unfold keptIsland
    dsimp only
    rw [show regKey 0 0x150008 = 0x150008 from rfl, mapGet_mapSet_ne _ _ _ _ _ (by decide),
      mapGet_mapSet_ne _ _ _ _ _ (by decide), mapGet_mapSet_same]
  have hlt : rget s 0 PWR_TRIP_CAUSE < 2 ^ 4 := rget_lt s 0 PWR_TRIP_CAUSE 0
  show fldOf PWR_TRIP_CAUSE (rword (dropIsland s) 0 0x150008) = _
  rw [hword]
  show (BitVec.ofNat 32 (rget s 0 PWR_TRIP_CAUSE)).toNat / 2 ^ 0 % 2 ^ 4 = _
  rw [BitVec.toNat_ofNat]
  omega

/-! ### What a module reset leaves -/

theorem moduleReset_island (s : State) (c : Nat) :
    moduleReset s c true = resetStatus (lastReset (dropIsland (dropDomains (endLong s))) c) 1 := rfl

theorem lastReset_trip (s : State) (c : Nat) : rget (lastReset s c) 0 PWR_TRIP_CAUSE = rget s 0 PWR_TRIP_CAUSE := by
  unfold lastReset recordCause
  split
  · rfl
  · unfold rget
    rw [rword_setRword, if_neg (by rw [regKey_inj]; decide)]
    rfl

/-- Binnacle's state after a reset of its own island. -/
theorem moduleReset_binnacle (s : State) (c : Nat) :
    (moduleReset s c true).bnc = BinnSt.reset ∧ (moduleReset s c true).snd = SndSt.reset
      ∧ (moduleReset s c true).log.entries = [] ∧ (moduleReset s c true).lsr.dikCopy = 0
      ∧ rget (moduleReset s c true) 0 PWR_TRIP_CAUSE = rget s 0 PWR_TRIP_CAUSE ∧ IslandAtReset (moduleReset s c true) := by
  obtain ⟨x, hx⟩ : ∃ x, x = dropDomains (endLong s) := ⟨_, rfl⟩
  obtain ⟨d, hd⟩ : ∃ d, d = dropIsland x := ⟨_, rfl⟩
  obtain ⟨l, hl⟩ : ∃ l, l = lastReset d c := ⟨_, rfl⟩
  have dbnc : d.bnc = BinnSt.reset := by rw [hd]; rfl
  have dsnd : d.snd = SndSt.reset := by rw [hd]; rfl
  have dlog : d.log.entries = [] := by rw [hd]; rfl
  have ddik : d.lsr.dikCopy = 0 := by rw [hd]; rfl
  have lonly : changesOnly [.regs, .rst] d l := hl ▸ lastReset_only d c
  obtain ⟨-, -, rbnc, rsnd⟩ := resetStatus_parts l 1
  have ronly := resetStatus_only l 1
  obtain ⟨-, -, -, -, rkeep⟩ := resetStatus_facts l 1 (by decide)
  have hend : moduleReset s c true = resetStatus l 1 := by rw [hl, hd, hx]; exact moduleReset_island s c
  rw [hend]
  refine ⟨?_, ?_, ?_, ?_, ?_, ?_⟩
  · rw [rbnc, lonly .bnc (by decide), dbnc]
    rfl
  · rw [rsnd, lonly .snd (by decide), dsnd]
  · rw [show (resetStatus l 1).log = l.log from ronly .log (by decide), show l.log = d.log from lonly .log (by decide), dlog]
  · rw [show (resetStatus l 1).lsr = l.lsr from ronly .lsr (by decide), show l.lsr = d.lsr from lonly .lsr (by decide), ddik]
  · rw [rkeep _ (by decide) (by decide) (by decide) (by decide) (by decide) (by decide) rfl, hl, lastReset_trip, hd, dropIsland_trip,
      hx, dropDomains_island _ _ (by decide), (endLong_kept s).rget _ rfl (by decide)]
  · exact islandAtReset_resetStatus (hl ▸ islandAtReset_lastReset (hd ▸ islandAtReset_dropIsland x) c) 1

/-- A module reset that Binnacle's own island takes part in leaves bring-up running. -/
theorem moduleReset_bringing (s : State) (c : Nat) : bringing (moduleReset s c true) = true := by
  obtain ⟨l, hl⟩ : ∃ l, l = lastReset (dropIsland (dropDomains (endLong s))) c := ⟨_, rfl⟩
  have hend : moduleReset s c true = resetStatus l 1 := by rw [hl]; exact moduleReset_island s c
  obtain ⟨hstate, -⟩ := resetStatus_facts l 1 (by decide)
  obtain ⟨-, hfaulted, -⟩ := resetStatus_parts l 1
  rw [hend]
  unfold bringing
  rw [hstate, ron_false hfaulted]
  rfl

/-! ### The order that is released next (R419, R420) -/

/-- The release of an order that is not order 6. -/
theorem domainRelease_next {u : State} {n : Nat} (hn : u.rst.domains + 1 = n) (hother : n ≠ 6) (hbring : bringing u = true)
    (hpre : preconditionHolds u n = true) : ∃ v, exec .domainRelease u = .next v ∧ v.rst.domains = n := by
  subst hn
  obtain ⟨hup, -⟩ := releaseOrder_facts (elapseNs u 64000) (u.rst.domains + 1) (holds_le u _ hpre) (by omega)
  exact ⟨_, execDomainRelease_due hbring hpre, (hup hother).1⟩

theorem preconditionHolds_two (u : State) :
    preconditionHolds u 2 = true ↔ pwrState u = 2 ∧ ron u 0 CLK_STATUS_REF_OK = true := by
  show (decide (pwrState u = 2) && ron u 0 CLK_STATUS_REF_OK) = true ↔ _
  rw [Bool.and_eq_true, decide_eq_true_iff]

/-- Settles O58: what a module reset returns to reset, and that the sequence restarts at the order it names. -/
theorem releaseRestarts : Obligations.ReleaseRestarts := by
  unfold Obligations.ReleaseRestarts
  intro s cause island _ hcause hdomains t
  obtain ⟨hreset, -⟩ := moduleReset_facts s s cause island hcause (only_refl _ s)
  have hdom : t.rst.domains = if island then 0 else 1 := by
    rw [show t.rst.domains = _ from hreset.island_, Nat.min_eq_right hdomains]
  have hnext : t.rst.domains + 1 = if island then 1 else 2 := by
    rw [hdom]
    cases island <;> rfl
  refine ⟨hreset, fun k off h => reset_after s cause island (regKey k off) h, fun h => ?binnacle, hdom, fun h hpre => ?first,
    fun u hu hbring hpre => ?later, preconditionHolds_two⟩
  case binnacle =>
    subst h
    exact moduleReset_binnacle s cause
  case first =>
    subst h
    exact domainRelease_next hnext (by decide) (moduleReset_bringing s cause) hpre
  case later => exact domainRelease_next ((congrArg (fun r : ResetSt => r.domains + 1) hu).trans hnext) (by cases island <;> decide) hbring hpre

end Sys2Proof.Claims
end

section
/-!
PROOFS. The Sounding ADC: urgent requests, the fast pair, passes, and the reference buffer (R446 to R449).
-/

namespace Sys2Proof.Claims

open Sys2Proof Sys2Proof.Machine

/-- A step that may change registers and another part, and leaves the registers alone. -/
theorem only_without_regs {s t : State} {ps : List Component} (h : changesOnly (.regs :: ps) s t) (hregs : t.regs = s.regs) :
    changesOnly ps s t := by
  intro p hp
  by_cases hp' : p = .regs
  · rw [hp']
    exact hregs
  · exact h p (by simp [hp', hp])

/-! ### Urgent requests (R448) -/

section Urgent

variable {s : State}

theorem execUrgentRequest_up (hup : islandUp s = true) :
    exec .urgentRequest s = .next (enqueueUrgent (rput s 0 SND_CHSEL_DONE 0) (rget s 0 SND_CHSEL_CH) false) :=
  congrArg Host.Outcome.next (if_pos hup)

/-- What an urgent request of SND_CHSEL changes, where the queue has room. -/
theorem execUrgentRequest_room (hup : islandUp s = true) (hroom : s.snd.urgent.length < 4) :
    ∃ t, exec .urgentRequest s = .next t
      ∧ t.snd.urgent = s.snd.urgent ++ [(rget s 0 SND_CHSEL_CH, false)] ∧ rget t 0 SND_CHSEL_DONE = 0
      ∧ (s.snd.active = some true → rget t 0 SND_PREEMPT
              = (if s.snd.doneAt = some s.cyc then rget s 0 SND_PREEMPT else (rget s 0 SND_PREEMPT + 1) % 2 ^ 32)
          ∧ t.snd.active = if ron s 0 SND_STATUS_REF_RDY then some false else none)
      ∧ (s.snd.active = some false → t.snd.active = some false)
      ∧ (s.snd.active = none → t.snd.active = if ron s 0 SND_STATUS_REF_RDY then some false else none)
      ∧ regsBut [(0, SND_CHSEL_DONE.off), (0, SND_PREEMPT.off)] s t ∧ changesOnly [.regs, .snd] s t := by
  obtain ⟨x, hx⟩ : ∃ x, x = rput s 0 SND_CHSEL_DONE 0 := ⟨_, rfl⟩
  have xsnd : x.snd = s.snd := by rw [hx]; rfl
  have xcyc : x.cyc = s.cyc := by rw [hx]; rfl
  have xonly : changesOnly [.regs] s x := hx ▸ only_rput _ _ _ _ _
  have xdone : rget x 0 SND_CHSEL_DONE = 0 := hx ▸ rget_rput_same1 _ _ _ _ rfl (by decide)
  have xpreempt : rget x 0 SND_PREEMPT = rget s 0 SND_PREEMPT := hx ▸ rget_rput_ne _ _ _ _ _ rfl (by decide)
  have xready : ron x 0 SND_STATUS_REF_RDY = ron s 0 SND_STATUS_REF_RDY := ron_rget (hx ▸ rget_rput_ne _ _ _ _ _ rfl (by decide))
  have xregs : regsBut [(0, SND_CHSEL_DONE.off), (0, SND_PREEMPT.off)] s x := hx ▸ regsBut_rputm _ _ _ _ _ (by simp)
  obtain ⟨equeue, eonly, eseq, erest, eurgent, eidle⟩ := enqueue_facts x (rget s 0 SND_CHSEL_CH) false (by rw [xsnd]; exact hroom)
  rw [xsnd, xcyc, xready] at eseq
  rw [xsnd] at equeue erest eurgent eidle
  rw [xready] at eidle
  have hexec := execUrgentRequest_up hup
  rw [← hx] at hexec
  have bumped : regsBut [(0, SND_CHSEL_DONE.off), (0, SND_PREEMPT.off)] s (rbump x 0 SND_PREEMPT) :=
    regsBut_trans xregs (regsBut_rputm _ _ _ _ _ (by simp))
  have hwords : rget (enqueueUrgent x (rget s 0 SND_CHSEL_CH) false) 0 SND_CHSEL_DONE = 0
      ∧ regsBut [(0, SND_CHSEL_DONE.off), (0, SND_PREEMPT.off)] s (enqueueUrgent x (rget s 0 SND_CHSEL_CH) false) := by
    by_cases hactive : s.snd.active = some true
    · have hregs := (eseq hactive).1
      by_cases hjust : s.snd.doneAt = some s.cyc
      · rw [if_pos hjust] at hregs
        exact ⟨(rget_of_regs hregs 0 _).trans xdone, regs_then_same xregs hregs⟩
      · rw [if_neg hjust] at hregs
        exact ⟨(rget_of_regs hregs 0 _).trans ((rbump_ne _ _ _ _ _ rfl (by decide)).trans xdone), regs_then_same bumped hregs⟩
    · exact ⟨(rget_of_regs (erest hactive) 0 _).trans xdone, regs_then_same xregs (erest hactive)⟩
  refine ⟨_, hexec, equeue, hwords.1, fun hactive => ⟨?_, (eseq hactive).2⟩, eurgent, eidle, hwords.2,
    only_then (only_mono xonly (by decide)) eonly (by decide)⟩
  have hregs := (eseq hactive).1
  by_cases hjust : s.snd.doneAt = some s.cyc
  · rw [if_pos hjust] at hregs ⊢
    exact (rget_of_regs hregs 0 _).trans xpreempt
  · rw [if_neg hjust] at hregs ⊢
    rw [rget_of_regs hregs, rbump_same _ _ _ _ rfl, xpreempt]
    rfl

/-- A fifth request is dropped. -/
theorem execUrgentRequest_full (hup : islandUp s = true) (hfull : 4 ≤ s.snd.urgent.length) :
    exec .urgentRequest s = .next (rset (rput s 0 SND_CHSEL_DONE 0) 0 SND_STATUS_URGOVF) :=
  (execUrgentRequest_up hup).trans (congrArg Host.Outcome.next (if_pos hfull))

/-- A request of the fast pair aborts nothing where no sequence conversion runs, and none runs after it. -/
theorem enqueue_quiet {ch : Nat} {fast : Bool} (hroom : s.snd.urgent.length < 4) (hactive : s.snd.active ≠ some true) :
    (enqueueUrgent s ch fast).snd.urgent = s.snd.urgent ++ [(ch, fast)] ∧ (enqueueUrgent s ch fast).regs = s.regs
      ∧ (enqueueUrgent s ch fast).snd.active ≠ some true ∧ changesOnly [.snd] s (enqueueUrgent s ch fast) := by
  obtain ⟨equeue, eonly, -, erest, eurgent, eidle⟩ := enqueue_facts s ch fast hroom
  refine ⟨equeue, erest hactive, ?_, only_without_regs eonly (erest hactive)⟩
  cases hs : s.snd.active with
  | none =>
    rw [eidle hs]
    split <;> simp
  | some q =>
    cases q with
    | true => exact absurd hs hactive
    | false =>
      rw [eurgent hs]
      simp

theorem execFastPair_on (hup : islandUp s = true) (hfast : ron s 0 SND_CTL_FAST_EN = true) (hroom : s.snd.urgent.length < 3)
    (hactive : s.snd.active ≠ some true) : ∃ t, exec .fastPair s = .next t
      ∧ t.snd.urgent = s.snd.urgent ++ [(3, true), (4, true)] ∧ t.regs = s.regs ∧ changesOnly [.snd] s t := by
  obtain ⟨queue1, regs1, active1, only1⟩ := enqueue_quiet (ch := 3) (fast := true) (by omega : s.snd.urgent.length < 4) hactive
  have hlen : (enqueueUrgent s 3 true).snd.urgent.length < 4 := by
    rw [queue1, List.length_append, List.length_singleton]
    omega
  obtain ⟨queue2, regs2, -, only2⟩ := enqueue_quiet (ch := 4) (fast := true) hlen active1
  refine ⟨_, congrArg Host.Outcome.next (if_pos ⟨hup, hfast⟩), ?_, regs2.trans regs1, only_trans only1 only2⟩
  rw [queue2, queue1, List.append_assoc]
  rfl

theorem execFastPair_off (hfast : ron s 0 SND_CTL_FAST_EN = false) : exec .fastPair s = .next s := by
  refine congrArg Host.Outcome.next (if_neg fun h => ?_)
  exact absurd (h.2.symm.trans hfast) (by decide)

end Urgent

/-! ### Passes of the sequence (R447) -/

section Pass

variable {s : State}

theorem execSequencePass_skipped (hup : islandUp s = true) (hen : ron s 0 SND_CTL_SEQ_EN = true)
    (hrun : ron s 0 SND_STATUS_SEQ_RUN = true) :
    exec .sequencePass s = .next (rbump (rset s 0 SND_STATUS_SEQLATE) 0 SND_SEQSKIP) := by
  refine (if_neg ?_).trans (if_pos hrun)
  rw [hup, hen]
  decide

theorem execSequencePass_starts (hup : islandUp s = true) (hen : ron s 0 SND_CTL_SEQ_EN = true)
    (hrun : ron s 0 SND_STATUS_SEQ_RUN = false) {i : Nat} (hi : nextEntry s 0 = some i) :
    exec .sequencePass s = .next (startConversion (rset (rput { s with snd := { s.snd with pass := (s.snd.pass + 1) % 256 } } 0
      SND_STATUS_ENTRY i) 0 SND_STATUS_SEQ_RUN)) := by
  show execSequencePass s = _
  unfold execSequencePass
  dsimp only
  rw [if_neg (by rw [hup, hen]; decide), if_neg (by rw [hrun]; decide)]
  rw [show nextEntry { s with snd := { s.snd with pass := (s.snd.pass + 1) % 256 } } 0 = some i from hi]

theorem nextEntry_lt {n i : Nat} (h : nextEntry s n = some i) : i < 32 :=
  List.mem_range.mp (List.mem_of_find?_eq_some h)

theorem execSequencePass_facts (hup : islandUp s = true) (hen : ron s 0 SND_CTL_SEQ_EN = true)
    (hrun : ron s 0 SND_STATUS_SEQ_RUN = false) {i : Nat} (hi : nextEntry s 0 = some i) :
    ∃ t, exec .sequencePass s = .next t ∧ t.snd.pass = (s.snd.pass + 1) % 256 ∧ rget t 0 SND_STATUS_ENTRY = i
      ∧ rget t 0 SND_STATUS_SEQ_RUN = 1 ∧ regsBut [(0, SND_STATUS_ENTRY.off)] s t ∧ changesOnly [.regs, .snd] s t := by
  obtain ⟨p, hp⟩ : ∃ p : State, p = { s with snd := { s.snd with pass := (s.snd.pass + 1) % 256 } } := ⟨_, rfl⟩
  obtain ⟨x, hx⟩ : ∃ x, x = rset (rput p 0 SND_STATUS_ENTRY i) 0 SND_STATUS_SEQ_RUN := ⟨_, rfl⟩
  have hexec := execSequencePass_starts hup hen hrun hi
  rw [← hp, ← hx] at hexec
  have ponly : changesOnly [.snd] s p := hp ▸ only_snd _ _
  have xpass : x.snd.pass = (s.snd.pass + 1) % 256 := by rw [hx, hp]; rfl
  have xentry : rget x 0 SND_STATUS_ENTRY = i := by
    rw [hx]
    exact (rset_ne _ _ _ _ rfl (by decide)).trans (rget_rput_same1 _ _ _ _ rfl (nextEntry_lt hi))
  have xrun : rget x 0 SND_STATUS_SEQ_RUN = 1 := hx ▸ rset_one _ _ _ rfl (by decide)
  have xregs : regsBut [(0, SND_STATUS_ENTRY.off)] s x := by
    rw [hx]
    refine regsBut_trans ?_ (regsBut_rputm _ _ _ _ _ (by decide))
    exact regsBut_trans (regsBut_of_regs (ponly .regs (by decide)) _) (regsBut_rputm _ _ _ _ _ (by decide))
  have xonly : changesOnly [.regs, .snd] s x := by
    rw [hx]
    exact only_then (only_then (only_mono ponly (by decide)) (only_rput _ _ _ _ _) (by decide)) (only_rput _ _ _ _ _) (by decide)
  obtain ⟨cregs, conly, -, -, -, cpass⟩ := startConversion_facts x
  exact ⟨_, hexec, cpass.trans xpass, (rget_of_regs cregs 0 _).trans xentry, (rget_of_regs cregs 0 _).trans xrun,
    regs_then_same xregs cregs, only_then xonly conly (by decide)⟩

end Pass

/-! ### The flags of Tables 17.7 and 17.10 (R432) -/

/-- Whether a code lies in a flag's window. -/
def inWindow (c mul lo hi : Nat) : Bool := decide (lo * 4096 ≤ c * 2500 * mul ∧ c * 2500 * mul ≤ hi * 4096)

/-- A channel's count of samples that disagree with its flag. -/
def withAgree (s : State) (ch n : Nat) : State :=
  { s with snd := { s.snd with agree := mapSet (fun _ => 0) s.snd.agree ch n } }

theorem withAgree_same (s : State) (ch n : Nat) : mapGet (fun _ => 0) (withAgree s ch n).snd.agree ch = n := mapGet_mapSet_same _ _ _ _

section Flags

variable {s : State} {ch k : Nat} {f : Fld} {c mul lo hi : Nat}

/-- A sample that agrees with its flag starts the count again. -/
theorem sampleFlag_agrees (h : inWindow c mul lo hi = ron s k f) : sampleFlag s ch k f c mul lo hi = withAgree s ch 0 := by
  unfold inWindow at h
  rw [Bool.decide_and] at h
  exact if_pos h

theorem sampleFlag_counts (h : inWindow c mul lo hi ≠ ron s k f) (hn : mapGet (fun _ => 0) s.snd.agree ch < 3) :
    sampleFlag s ch k f c mul lo hi = withAgree s ch (mapGet (fun _ => 0) s.snd.agree ch + 1) := by
  unfold inWindow at h
  rw [Bool.decide_and] at h
  refine (if_neg h).trans (if_neg ?_)
  show ¬ 4 ≤ mapGet (fun _ => 0) s.snd.agree ch + 1
  omega

theorem sampleFlag_turns (h : inWindow c mul lo hi ≠ ron s k f) (hn : 3 ≤ mapGet (fun _ => 0) s.snd.agree ch) :
    sampleFlag s ch k f c mul lo hi = rput (withAgree s ch 0) k f (bit (inWindow c mul lo hi)) := by
  unfold inWindow at h ⊢
  rw [Bool.decide_and] at h ⊢
  refine (if_neg h).trans (if_pos ?_)
  show 4 ≤ mapGet (fun _ => 0) s.snd.agree ch + 1
  omega

/-- A sample changes the count, and the flag's word. -/
theorem sampleFlag_facts (s : State) (ch k : Nat) (f : Fld) (c mul lo hi : Nat) :
    changesOnly [.regs, .snd] s (sampleFlag s ch k f c mul lo hi)
      ∧ regsBut [(k, f.off + f.stride * 0)] s (sampleFlag s ch k f c mul lo hi)
      ∧ (sampleFlag s ch k f c mul lo hi).snd.active = s.snd.active
      ∧ (sampleFlag s ch k f c mul lo hi).snd.urgent = s.snd.urgent := by
  have hcount : ∀ n, changesOnly [.regs, .snd] s (withAgree s ch n) := fun n => only_mono (only_snd _ _) (by decide)
  by_cases h : inWindow c mul lo hi = ron s k f
  · rw [sampleFlag_agrees h]
    exact ⟨hcount 0, regsBut_of_regs rfl _, rfl, rfl⟩
  · rcases Nat.lt_or_ge (mapGet (fun _ => 0) s.snd.agree ch) 3 with hn | hn
    · rw [sampleFlag_counts h hn]
      exact ⟨hcount _, regsBut_of_regs rfl _, rfl, rfl⟩
    · rw [sampleFlag_turns h hn]
      exact ⟨only_then (hcount 0) (only_rput _ _ _ _ _) (by decide), regsBut_trans (regsBut_of_regs rfl _) (regsBut_rput _ _ _ _ _),
        rfl, rfl⟩

end Flags

/-! ### The reference buffer (R449) -/

section Refbuf

variable {s : State}

theorem execRefbufEn_on (hup : islandUp s = true) : exec (.refbufEn true) s = .next (rset s 0 SND_CTL_REFBUF_EN) := by
  refine congrArg Host.Outcome.next ((if_neg ?_).trans (if_pos rfl))
  rw [hup]
  decide

theorem execRefbufEn_off (hup : islandUp s = true) : exec (.refbufEn false) s
    = .next (abortConversion (rput (rput s 0 SND_CTL_REFBUF_EN 0) 0 SND_STATUS_REF_RDY 0)) := by
  refine congrArg Host.Outcome.next ((if_neg ?_).trans (if_neg (by decide)))
  rw [hup]
  decide

theorem abortConversion_facts (s : State) :
    (abortConversion s).snd = { s.snd with active := none }
      ∧ (s.snd.active ≠ none → rget (abortConversion s) 0 SND_PREEMPT = (rget s 0 SND_PREEMPT + 1) % 2 ^ 32)
      ∧ regsBut [(0, SND_PREEMPT.off)] s (abortConversion s) ∧ changesOnly [.regs, .snd] s (abortConversion s) := by
  unfold abortConversion
  cases h : s.snd.active with
  | none =>
    rw [if_neg (by decide)]
    refine ⟨?_, fun hne => absurd rfl hne, regsBut_refl _ _, only_refl _ _⟩
    show s.snd = { s.snd with active := none }
    rw [← h]
  | some q =>
    refine ⟨rfl, fun _ => rbump_same _ _ _ _ rfl, regsBut_trans (regsBut_of_regs rfl _) (regsBut_rputm _ _ _ _ _ (by decide)), ?_⟩
    exact only_then (only_mono (only_snd _ _) (by decide)) (only_rbump _ _ _ _) (by decide)

theorem execRefbufEn_off_facts (hup : islandUp s = true) : ∃ t, exec (.refbufEn false) s = .next t
    ∧ rget t 0 SND_CTL_REFBUF_EN = 0 ∧ rget t 0 SND_STATUS_REF_RDY = 0 ∧ t.snd = { s.snd with active := none }
    ∧ (s.snd.active ≠ none → rget t 0 SND_PREEMPT = (rget s 0 SND_PREEMPT + 1) % 2 ^ 32)
    ∧ changesOnly [.regs, .snd] s t := by
  obtain ⟨x, hx⟩ : ∃ x, x = rput (rput s 0 SND_CTL_REFBUF_EN 0) 0 SND_STATUS_REF_RDY 0 := ⟨_, rfl⟩
  have xsnd : x.snd = s.snd := by rw [hx]; rfl
  have xen : rget x 0 SND_CTL_REFBUF_EN = 0 := by
    rw [hx]
    exact (rget_rput_ne _ _ _ _ _ rfl (by decide)).trans (rget_rput_same1 _ _ _ _ rfl (by decide))
  have xready : rget x 0 SND_STATUS_REF_RDY = 0 := hx ▸ rget_rput_same1 _ _ _ _ rfl (by decide)
  have xpreempt : rget x 0 SND_PREEMPT = rget s 0 SND_PREEMPT := by
    rw [hx]
    exact (rget_rput_ne _ _ _ _ _ rfl (by decide)).trans (rget_rput_ne _ _ _ _ _ rfl (by decide))
  have xonly : changesOnly [.regs] s x := hx ▸ only_trans (only_rput _ _ _ _ _) (only_rput _ _ _ _ _)
  obtain ⟨asnd, apreempt, aregs, aonly⟩ := abortConversion_facts x
  rw [xsnd] at asnd apreempt
  rw [xpreempt] at apreempt
  have hexec := execRefbufEn_off hup
  rw [← hx] at hexec
  refine ⟨_, hexec, ?_, ?_, asnd, apreempt, only_then (only_mono xonly (by decide)) aonly (by decide)⟩
  · exact (rget_of_offs aregs 0 _ (by decide) (by simp [SND_PREEMPT, SND_CTL_REFBUF_EN])).trans xen
  · exact (rget_of_offs aregs 0 _ (by decide) (by simp [SND_PREEMPT, SND_STATUS_REF_RDY])).trans xready

/-- The reference is ready: what waits starts. -/
theorem execRefRdy_facts (hen : ron s 0 SND_CTL_REFBUF_EN = true) (hidle : s.snd.active = none) :
    ∃ t, exec .refRdy s = .next t ∧ rget t 0 SND_STATUS_REF_RDY = 1 ∧ t.snd.urgent = s.snd.urgent
      ∧ t.snd.active = (if s.snd.urgent ≠ [] then some false else if ron s 0 SND_STATUS_SEQ_RUN = true then some true else none)
      ∧ regsBut [(0, SND_STATUS_REF_RDY.off)] s t ∧ changesOnly [.regs, .snd] s t := by
  obtain ⟨x, hx⟩ : ∃ x, x = rset s 0 SND_STATUS_REF_RDY := ⟨_, rfl⟩
  have xsnd : x.snd = s.snd := by rw [hx]; rfl
  have xready : rget x 0 SND_STATUS_REF_RDY = 1 := hx ▸ rset_one _ _ _ rfl (by decide)
  have xrun : ron x 0 SND_STATUS_SEQ_RUN = ron s 0 SND_STATUS_SEQ_RUN := ron_rget (hx ▸ rset_ne _ _ _ _ rfl (by decide))
  have xregs : regsBut [(0, SND_STATUS_REF_RDY.off)] s x := hx ▸ regsBut_rputm _ _ _ _ _ (by decide)
  have xonly : changesOnly [.regs] s x := hx ▸ only_rput _ _ _ _ _
  obtain ⟨cregs, conly, curgent, -, cactive, -⟩ := startConversion_facts x
  have hnext : nextConversion x = (if s.snd.urgent ≠ [] then some false else if ron s 0 SND_STATUS_SEQ_RUN = true then some true else none) := by
    unfold nextConversion
    rw [ron_true xready, xsnd, xrun, if_neg (by decide)]
  refine ⟨startConversion x, hx ▸ congrArg Host.Outcome.next (if_pos hen), (rget_of_regs cregs 0 _).trans xready,
    curgent.trans (by rw [xsnd]), (cactive (by rw [xsnd]; exact hidle)).trans hnext, regs_then_same xregs cregs,
    only_then (only_mono xonly (by decide)) conly (by decide)⟩

end Refbuf

end Sys2Proof.Claims
end

section
/-!
PROOFS. Completed conversions of the Sounding ADC: results, and what Binnacle takes from them (R401, R432, R446).
-/

namespace Sys2Proof.Claims

open Sys2Proof Sys2Proof.Machine

/-! ### A conversion completes (R446) -/

/-- The conversion in progress completed and counted, its result still to be taken. -/
def converted (s : State) : State := rbump (putActive { s with snd := { s.snd with doneAt := some s.cyc } } none) 0 SND_CONV

theorem converted_facts (s : State) :
    rget (converted s) 0 SND_CONV = (rget s 0 SND_CONV + 1) % 2 ^ 32 ∧ regsBut [(0, SND_CONV.off)] s (converted s)
      ∧ (converted s).snd.active = none ∧ (converted s).snd.urgent = s.snd.urgent ∧ (converted s).snd.pass = s.snd.pass
      ∧ changesOnly [.regs, .snd] s (converted s) := by
  obtain ⟨x, hx⟩ : ∃ x, x = putActive { s with snd := { s.snd with doneAt := some s.cyc } } none := ⟨_, rfl⟩
  have hend : converted s = rbump x 0 SND_CONV := by rw [hx]; rfl
  have xregs : x.regs = s.regs := by rw [hx]; rfl
  have xonly : changesOnly [.snd] s x := hx ▸ only_snd _ _
  have xsnd : x.snd.active = none ∧ x.snd.urgent = s.snd.urgent ∧ x.snd.pass = s.snd.pass := by
    rw [hx]
    exact ⟨rfl, rfl, rfl⟩
  rw [hend]
  refine ⟨?_, regsBut_trans (regsBut_of_regs xregs _) (regsBut_rputm _ _ _ _ _ (by decide)), xsnd.1, xsnd.2.1, xsnd.2.2,
    only_then (only_mono xonly (by decide)) (only_rbump _ _ _ _) (by decide)⟩
  rw [rbump_same _ _ _ _ rfl, rget_of_regs xregs]
  rfl

/-- Where the count of conversions is not, a completed conversion reads as before. -/
theorem converted_get (s : State) (f : Fld) (i : Nat) (h : f.off + f.stride * i ≠ SND_CONV.off) :
    rget (converted s) 0 f i = rget s 0 f i := by
  refine rget_of_regsBut (converted_facts s).2.1 0 f i fun q hq => ?_
  rw [List.mem_singleton.mp hq, Ne, regKey_inj]
  exact h

section Done

variable {s : State} (code : BitVec 12)

theorem execConversionDone_idle (h : s.snd.active = none) : exec (.conversionDone code) s = .next s := by
  show execConversionDone code s = _
  unfold execConversionDone
  rw [h]

theorem execConversionDone_urgent (h : s.snd.active = some false) : exec (.conversionDone code) s
    = .next (startConversion (urgentResult (converted s) (channelCode (activeChannel s false) code))) := by
  show execConversionDone code s = _
  unfold execConversionDone
  rw [h]
  rfl

theorem execConversionDone_entry (h : s.snd.active = some true) : exec (.conversionDone code) s
    = .next (startConversion (entryResult (converted s) (channelCode (rget s 0 SND_SEQ_CH (rget s 0 SND_STATUS_ENTRY)) code))) := by
  show execConversionDone code s = _
  unfold execConversionDone
  rw [h]
  rfl

theorem channelCode_toNat (ch : Nat) : (channelCode ch code).toNat = if channelReserved ch = true then 0 else code.toNat := by
  unfold channelCode
  split <;> rfl

/-- A channel that Binnacle takes is not a reserved one. -/
theorem channelCode_taken {ch : Nat} (h : taken_ ch) : channelCode ch code = code := by
  have hopen : channelReserved ch = false := by
    unfold taken_ at h
    unfold channelReserved
    rw [Bool.or_eq_false_iff, Bool.or_eq_false_iff, beq_eq_false_iff_ne, decide_eq_false_iff_not, decide_eq_false_iff_not]
    omega
  unfold channelCode
  rw [hopen]
  rfl

end Done

/-! ### Urgent results (R448) -/

theorem urgentResult_cons {s : State} {ch : Nat} {fast : Bool} {l : List (Nat × Bool)} (h : s.snd.urgent = (ch, fast) :: l)
    (code : BitVec 12) : urgentResult s code = if fast = true
      then fastSample (takeChannel (rput (putUrgent s l) 0 (if ch = 3 then SND_FASTRES_VIN else SND_FASTRES_IIN) code.toNat) ch code) ch
      else rset (rput (putUrgent s l) 0 SND_MANRES_RESULT code.toNat) 0 SND_CHSEL_DONE := by
  unfold urgentResult
  rw [h]

theorem activeChannel_urgent {s : State} {ch : Nat} {fast : Bool} {l : List (Nat × Bool)} (h : s.snd.urgent = (ch, fast) :: l) :
    activeChannel s false = ch := by
  unfold activeChannel
  rw [h]
  rfl

section UrgentDone

variable {s : State} (code : BitVec 12)

/-- An urgent request of SND_CHSEL completes. -/
theorem execConversionDone_requested {ch : Nat} {l : List (Nat × Bool)} (hactive : s.snd.active = some false)
    (hqueue : s.snd.urgent = (ch, false) :: l) : ∃ t, exec (.conversionDone code) s = .next t
      ∧ rget t 0 SND_MANRES_RESULT = (if channelReserved ch then 0 else code.toNat) ∧ rget t 0 SND_CHSEL_DONE = 1
      ∧ t.snd.urgent = l ∧ rget t 0 SND_CONV = (rget s 0 SND_CONV + 1) % 2 ^ 32
      ∧ t.snd.active = nextConversion { s with snd := { s.snd with urgent := l } } ∧ changesOnly [.regs, .snd] s t := by
  obtain ⟨cconv, -, cactive, curgent, -, conly⟩ := converted_facts s
  obtain ⟨p, hp⟩ : ∃ p, p = putUrgent (converted s) l := ⟨_, rfl⟩
  have pregs : p.regs = (converted s).regs := by rw [hp]; rfl
  have psnd : p.snd.active = none ∧ p.snd.urgent = l := by
    rw [hp]
    exact ⟨cactive, rfl⟩
  have ponly : changesOnly [.regs, .snd] s p := hp ▸ only_then conly (only_snd _ _) (by decide)
  obtain ⟨x, hx⟩ : ∃ x, x = rset (rput p 0 SND_MANRES_RESULT (channelCode ch code).toNat) 0 SND_CHSEL_DONE := ⟨_, rfl⟩
  have hexec : exec (.conversionDone code) s = .next (startConversion x) := by
    rw [execConversionDone_urgent code hactive, activeChannel_urgent hqueue, urgentResult_cons (curgent.trans hqueue), hx, hp]
    rfl
  have xsnd : x.snd = p.snd := by rw [hx]; rfl
  have xother : ∀ f : Fld, f.stride = 0 → f.off ≠ SND_CONV.off → f.off ≠ SND_MANRES_RESULT.off → f.off ≠ SND_CHSEL_DONE.off →
      rget x 0 f = rget s 0 f := fun f hs h1 h2 h3 => by
    rw [hx, rset_ne _ _ _ _ rfl (.inl h3), rget_rput_ne _ _ _ _ _ rfl (.inl h2), rget_of_regs pregs]
    exact converted_get s f 0 (by rw [hs]; exact h1)
  have xready : ron x 0 SND_STATUS_REF_RDY = ron s 0 SND_STATUS_REF_RDY := ron_rget (xother _ rfl (by decide) (by decide) (by decide))
  have xrun : ron x 0 SND_STATUS_SEQ_RUN = ron s 0 SND_STATUS_SEQ_RUN := ron_rget (xother _ rfl (by decide) (by decide) (by decide))
  obtain ⟨tregs, tonly, turgent, -, tactive, -⟩ := startConversion_facts x
  refine ⟨_, hexec, ?_, ?_, ?_, ?_, ?_, ?_⟩
  · rw [rget_of_regs tregs, hx, rset_ne _ _ _ _ rfl (by decide), rget_rput_same1 _ _ _ _ rfl (channelCode ch code).isLt,
      channelCode_toNat]
  · rw [rget_of_regs tregs, hx]
    exact rset_one _ _ _ rfl (by decide)
  · rw [turgent, xsnd, psnd.2]
  · rw [rget_of_regs tregs, hx, rset_ne _ _ _ _ rfl (by decide), rget_rput_ne _ _ _ _ _ rfl (by decide), rget_of_regs pregs, cconv]
  · rw [tactive (by rw [xsnd, psnd.1])]
    unfold nextConversion
    rw [xready, xrun, xsnd, psnd.2]
    rfl
  · refine only_then ?_ tonly (by decide)
    rw [hx]
    exact only_then (only_then ponly (only_rput _ _ _ _ _) (by decide)) (only_rput _ _ _ _ _) (by decide)

/-- Binnacle runs as before where its clock's word and its own state are unchanged. -/
theorem binnacleRuns_congr {s t : State} (hrst : t.rst = s.rst) (hbnc : t.bnc = s.bnc)
    (hclk : rget t 0 CLK_STATUS_BCK_OK = rget s 0 CLK_STATUS_BCK_OK) : binnacleRuns t = binnacleRuns s := by
  unfold binnacleRuns islandUp
  rw [hrst, hbnc, ron_rget hclk]

/-- What Binnacle takes from the input's voltage: PWR_VIN and VIN_OK. -/
theorem takeChannel_vin (h : binnacleRuns s = true) : takeChannel s 3 code
    = sampleFlag (rput s 0 PWR_VIN_V (code.toNat * 125 / 64)) 3 0 PWR_STATUS_VIN_OK code.toNat 32 40000 60000 := by
  unfold takeChannel
  rw [h]
  rfl

theorem takeChannel_iin (h : binnacleRuns s = true) : takeChannel s 4 code = rput s 0 PWR_VIN_I (code.toNat * 3125 / 2048) := by
  unfold takeChannel
  rw [h]
  rfl

theorem takeChannel_vbus (h : binnacleRuns s = true) : takeChannel s 5 code
    = sampleFlag (rput s 0 PWR_VBUS_V (code.toNat * 625 / 128)) 5 0 PWR_STATUS_BUS_OK code.toNat 8 11400 13200 := by
  unfold takeChannel
  rw [h]
  rfl

theorem takeChannel_halted (h : binnacleRuns s = false) (ch : Nat) : takeChannel s ch code = s := by
  unfold takeChannel
  rw [h]
  rfl

theorem takeChannel_thermistor (h : binnacleRuns s = true) {n : Nat} (hn : n < 12) :
    takeChannel s (32 + n) code = takeThermistor s n code := by
  unfold takeChannel
  dsimp only
  rw [if_neg (by rw [h]; decide), if_neg (by omega), if_neg (by omega), if_neg (by omega), if_neg (by omega), if_neg (by omega),
    if_pos (by omega), Nat.add_sub_cancel_left]

theorem takeChannel_rails (h : binnacleRuns s = true) {k : Nat} (hk : k < 8) (hdomains : 3 ≤ s.rst.domains) :
    takeChannel s (8 + k) code = sampleFlag s (8 + k) k PWR_STK_STATUS_VBD_OK code.toNat 1 776 824
      ∧ takeChannel s (16 + k) code = sampleFlag s (16 + k) k PWR_STK_STATUS_VREF_OK code.toNat 2 1188 1212 := by
  unfold takeChannel
  dsimp only
  constructor
  · rw [if_neg (by rw [h]; decide), if_neg (by omega), if_neg (by omega), if_neg (by omega), if_pos (by omega), if_neg (by omega),
      Nat.add_sub_cancel_left]
  · rw [if_neg (by rw [h]; decide), if_neg (by omega), if_neg (by omega), if_neg (by omega), if_neg (by omega), if_pos (by omega),
      if_neg (by omega), Nat.add_sub_cancel_left]

theorem code_scaled (mul div lim : Nat) (h : 4095 * mul / div < lim) : code.toNat * mul / div < lim :=
  lt_of_le_of_lt (Nat.div_le_div_right (Nat.mul_le_mul_right mul (Nat.le_of_lt_succ code.isLt))) h

theorem takeChannel_vbus_get (h : binnacleRuns s = true) :
    rget (takeChannel s 5 code) 0 PWR_VBUS_V = code.toNat * 625 / 128 := by
  obtain ⟨-, fregs, -, -⟩ := sampleFlag_facts (rput s 0 PWR_VBUS_V (code.toNat * 625 / 128)) 5 0 PWR_STATUS_BUS_OK code.toNat 8 11400 13200
  rw [takeChannel_vbus code h, rget_of_offs fregs 0 PWR_VBUS_V (by decide) (by simp [PWR_STATUS_BUS_OK, PWR_VBUS_V])]
  exact rget_rput_same1 _ _ _ _ rfl (code_scaled code 625 128 _ (by decide))

/-- The queue's first request out of it, its result stored in SND_FASTRES. -/
def fastStored (s : State) (l : List (Nat × Bool)) (f : Fld) (v : Nat) : State := rput (putUrgent (converted s) l) 0 f v

theorem fastStored_facts (s : State) (l : List (Nat × Bool)) {f : Fld} {v : Nat} (hfits : f.fits = true) (hoff : f.off = 0x130014)
    (hv : v < 2 ^ f.width) : rget (fastStored s l f v) 0 f = v
      ∧ rget (fastStored s l f v) 0 SND_CONV = (rget s 0 SND_CONV + 1) % 2 ^ 32 ∧ (fastStored s l f v).snd.active = none
      ∧ (fastStored s l f v).snd.urgent = l ∧ binnacleRuns (fastStored s l f v) = binnacleRuns s
      ∧ changesOnly [.regs, .snd] s (fastStored s l f v) := by
  obtain ⟨cconv, -, cactive, -, -, conly⟩ := converted_facts s
  obtain ⟨p, hp⟩ : ∃ p, p = putUrgent (converted s) l := ⟨_, rfl⟩
  have hend : fastStored s l f v = rput p 0 f v := by rw [hp]; rfl
  have pregs : p.regs = (converted s).regs := by rw [hp]; rfl
  have pactive : p.snd.active = none := by rw [hp]; exact cactive
  have pqueue : p.snd.urgent = l := by rw [hp]; rfl
  have ponly : changesOnly [.regs, .snd] s p := hp ▸ only_then conly (only_snd _ _) (by decide)
  have xonly : changesOnly [.regs, .snd] s (rput p 0 f v) := only_then ponly (only_rput _ _ _ _ _) (by decide)
  have xother : ∀ g : Fld, g.off ≠ 0x130014 → rget (rput p 0 f v) 0 g = rget (converted s) 0 g := fun g hg =>
    (rget_rput_ne _ _ _ _ _ hfits (.inl (by rw [hoff]; exact hg))).trans (rget_of_regs pregs 0 g)
  rw [hend]
  refine ⟨rget_rput_same1 _ _ _ _ hfits hv, (xother _ (by decide)).trans cconv, pactive, pqueue,
    binnacleRuns_congr (xonly .rst (by decide)) (xonly .bnc (by decide)) ?_, xonly⟩
  exact (xother CLK_STATUS_BCK_OK (by decide)).trans (converted_get s _ 0 (by decide))

/-- The fast pair's first result: the input's voltage. -/
theorem execConversionDone_vin {l : List (Nat × Bool)} (hactive : s.snd.active = some false) (hruns : binnacleRuns s = true)
    (hqueue : s.snd.urgent = (3, true) :: l) : ∃ u, exec (.conversionDone code) s = .next (startConversion u)
      ∧ rget u 0 SND_FASTRES_VIN = code.toNat ∧ rget u 0 PWR_VIN_V = code.toNat * 125 / 64
      ∧ rget u 0 SND_CONV = (rget s 0 SND_CONV + 1) % 2 ^ 32 ∧ u.snd.active = none ∧ u.snd.urgent = l
      ∧ changesOnly [.regs, .snd] s u := by
  obtain ⟨-, -, -, curgent, -, -⟩ := converted_facts s
  obtain ⟨x, hx⟩ : ∃ x, x = fastStored s l SND_FASTRES_VIN code.toNat := ⟨_, rfl⟩
  obtain ⟨xres, xconv, xactive, xqueue, xruns, xonly⟩ := fastStored_facts s l (f := SND_FASTRES_VIN) rfl rfl code.isLt
  rw [← hx] at xres xconv xactive xqueue xruns xonly
  have hexec : exec (.conversionDone code) s = .next (startConversion (takeChannel x 3 code)) := by
    rw [execConversionDone_urgent code hactive, activeChannel_urgent hqueue, channelCode_taken code (.inl rfl),
      urgentResult_cons (curgent.trans hqueue), hx]
    rfl
  obtain ⟨v, hv⟩ : ∃ v, v = rput x 0 PWR_VIN_V (code.toNat * 125 / 64) := ⟨_, rfl⟩
  have vvin : rget v 0 PWR_VIN_V = code.toNat * 125 / 64 := hv ▸ rget_rput_same1 _ _ _ _ rfl (code_scaled code 125 64 _ (by decide))
  have vother : ∀ g : Fld, g.off ≠ PWR_VIN_V.off → rget v 0 g = rget x 0 g := fun g hg => hv ▸ rget_rput_ne _ _ _ _ _ rfl (.inl hg)
  have vonly : changesOnly [.regs, .snd] s v := hv ▸ only_then xonly (only_rput _ _ _ _ _) (by decide)
  have vsnd : v.snd = x.snd := by rw [hv]; rfl
  obtain ⟨fonly, fregs, factive, fqueue⟩ := sampleFlag_facts v 3 0 PWR_STATUS_VIN_OK code.toNat 32 40000 60000
  have fget : ∀ g : Fld, g.off + g.stride * 0 < 2 ^ 21 → g.off + g.stride * 0 ≠ 0x150004 →
      rget (sampleFlag v 3 0 PWR_STATUS_VIN_OK code.toNat 32 40000 60000) 0 g = rget v 0 g := fun g hg hne =>
    rget_of_offs fregs 0 g hg (by simpa [PWR_STATUS_VIN_OK] using hne)
  rw [takeChannel_vin code (xruns.trans hruns), ← hv] at hexec
  refine ⟨_, hexec, ?_, ?_, ?_, factive.trans (by rw [vsnd, xactive]), fqueue.trans (by rw [vsnd, xqueue]),
    only_then vonly fonly (by decide)⟩
  · rw [fget _ (by decide) (by decide), vother _ (by decide), xres]
  · rw [fget _ (by decide) (by decide), vvin]
  · rw [fget _ (by decide) (by decide), vother _ (by decide), xconv]

/-- The fast pair's second result, the input's current, completes a sample of input power. -/
theorem execConversionDone_iin {l : List (Nat × Bool)} (hactive : s.snd.active = some false) (hruns : binnacleRuns s = true)
    (hqueue : s.snd.urgent = (4, true) :: l) : ∃ u, exec (.conversionDone code) s = .next (startConversion (takePower u))
      ∧ rget u 0 SND_FASTRES_IIN = code.toNat ∧ rget u 0 PWR_VIN_I = code.toNat * 3125 / 2048
      ∧ rget u 0 SND_CONV = (rget s 0 SND_CONV + 1) % 2 ^ 32 ∧ u.snd.active = none ∧ u.snd.urgent = l
      ∧ changesOnly [.regs, .snd] s u := by
  obtain ⟨-, -, -, curgent, -, -⟩ := converted_facts s
  obtain ⟨x, hx⟩ : ∃ x, x = fastStored s l SND_FASTRES_IIN code.toNat := ⟨_, rfl⟩
  obtain ⟨xres, xconv, xactive, xqueue, xruns, xonly⟩ := fastStored_facts s l (f := SND_FASTRES_IIN) rfl rfl code.isLt
  rw [← hx] at xres xconv xactive xqueue xruns xonly
  obtain ⟨u, hu⟩ : ∃ u, u = rput x 0 PWR_VIN_I (code.toNat * 3125 / 2048) := ⟨_, rfl⟩
  have uonly : changesOnly [.regs, .snd] s u := hu ▸ only_then xonly (only_rput _ _ _ _ _) (by decide)
  have uother : ∀ g : Fld, g.off ≠ PWR_VIN_I.off → rget u 0 g = rget x 0 g := fun g hg => hu ▸ rget_rput_ne _ _ _ _ _ rfl (.inl hg)
  have usnd : u.snd = x.snd := by rw [hu]; rfl
  have uruns : binnacleRuns u = true := by
    rw [← hruns, ← xruns]
    exact binnacleRuns_congr (by rw [hu]; rfl) (by rw [hu]; rfl) (uother _ (by decide))
  have htake : takeChannel x 4 code = u := (takeChannel_iin code (xruns.trans hruns)).trans hu.symm
  have hexec : exec (.conversionDone code) s = .next (startConversion (fastSample (takeChannel x 4 code) 4)) := by
    rw [execConversionDone_urgent code hactive, activeChannel_urgent hqueue, channelCode_taken code (.inr (.inl rfl)),
      urgentResult_cons (curgent.trans hqueue), hx]
    rfl
  have hsample : fastSample u 4 = takePower u := if_pos ⟨rfl, uruns⟩
  rw [htake, hsample] at hexec
  refine ⟨u, hexec, ?_, hu ▸ rget_rput_same1 _ _ _ _ rfl (code_scaled code 3125 2048 _ (by decide)), ?_, ?_, ?_, uonly⟩
  · rw [uother _ (by decide), xres]
  · rw [uother _ (by decide), xconv]
  · rw [usnd, xactive]
  · rw [usnd, xqueue]

end UrgentDone

/-! ### Results of the sequence (R447) -/

/-- The result of sequence entry `i`: VALID, the code and the pass. -/
def entryStored (s : State) (i code pass : Nat) : State :=
  rput (rput (rset s 0 SND_RES_VALID i) 0 SND_RES_RESULT code i) 0 SND_RES_PASS pass i

theorem entryStored_facts (s : State) (i code pass : Nat) :
    rget (entryStored s i code pass) 0 SND_RES_RESULT i = code % 2 ^ 12 ∧ rget (entryStored s i code pass) 0 SND_RES_VALID i = 1
      ∧ rget (entryStored s i code pass) 0 SND_RES_PASS i = pass % 256 ∧ regsBut [(0, 0x130100 + 4 * i)] s (entryStored s i code pass)
      ∧ (entryStored s i code pass).snd = s.snd ∧ changesOnly [.regs] s (entryStored s i code pass) := by
  have hput : ∀ (f : Fld) (x : State) (v : Nat), f.off = 0x130100 → f.stride = 4 → regsBut [(0, 0x130100 + 4 * i)] x (rput x 0 f v i) :=
    fun f x v h1 h2 => regsBut_rputi x 0 f v i 0x130100 4 h1 h2
  unfold entryStored
  refine ⟨?_, ?_, rget_rput_same _ _ SND_RES_PASS _ _ rfl, ?_, rfl, ?_⟩
  · rw [rget_rput_other _ _ _ _ _ _ _ _ rfl (.inr rfl)]
    exact rget_rput_same _ _ SND_RES_RESULT _ _ rfl
  · rw [rget_rput_other _ _ _ _ _ _ _ _ rfl (.inr rfl), rget_rput_other _ _ _ _ _ _ _ _ rfl (.inr rfl)]
    exact rget_rput_same _ _ SND_RES_VALID _ _ rfl
  · exact regsBut_trans (regsBut_trans (hput SND_RES_VALID _ 1 rfl rfl) (hput SND_RES_RESULT _ _ rfl rfl)) (hput SND_RES_PASS _ _ rfl rfl)
  · exact only_trans (only_trans (only_rput _ _ _ _ _) (only_rput _ _ _ _ _)) (only_rput _ _ _ _ _)

/-- The pass goes on behind entry `i`, or ends. -/
def passOn (s : State) (i : Nat) : State :=
  match nextEntry s (i + 1) with
  | some j => rput s 0 SND_STATUS_ENTRY j
  | none => rput (rput s 0 SND_STATUS_ENTRY 0) 0 SND_STATUS_SEQ_RUN 0

theorem passOn_facts (s : State) (i : Nat) : regsBut [(0, 0x130004)] s (passOn s i) ∧ (passOn s i).snd = s.snd
    ∧ changesOnly [.regs] s (passOn s i) := by
  unfold passOn
  split
  · exact ⟨regsBut_rputm _ _ _ _ _ (by decide), rfl, only_rput _ _ _ _ _⟩
  · exact ⟨regsBut_trans (regsBut_rputm _ _ _ _ _ (by decide)) (regsBut_rputm _ _ _ _ _ (by decide)), rfl,
      only_trans (only_rput _ _ _ _ _) (only_rput _ _ _ _ _)⟩

theorem entryResult_eq (s : State) (code : BitVec 12) : entryResult s code
    = takeChannel (passOn (entryStored s (rget s 0 SND_STATUS_ENTRY) code.toNat s.snd.pass) (rget s 0 SND_STATUS_ENTRY))
        (rget s 0 SND_SEQ_CH (rget s 0 SND_STATUS_ENTRY)) code := rfl

/-- The entry in progress, completed: its result stored, the pass gone on. -/
def entryDone (s : State) (code : Nat) : State :=
  passOn (entryStored (converted s) (rget s 0 SND_STATUS_ENTRY) code s.snd.pass) (rget s 0 SND_STATUS_ENTRY)

section EntryDone

variable {s : State}

theorem entryDone_facts (hentry : rget s 0 SND_STATUS_ENTRY < 32) {code : Nat} (hcode : code < 2 ^ 12) :
    rget (entryDone s code) 0 SND_RES_RESULT (rget s 0 SND_STATUS_ENTRY) = code
      ∧ rget (entryDone s code) 0 SND_RES_VALID (rget s 0 SND_STATUS_ENTRY) = 1
      ∧ rget (entryDone s code) 0 SND_RES_PASS (rget s 0 SND_STATUS_ENTRY) = s.snd.pass % 256
      ∧ rget (entryDone s code) 0 SND_CONV = (rget s 0 SND_CONV + 1) % 2 ^ 32 ∧ (entryDone s code).snd.active = none
      ∧ (entryDone s code).snd.urgent = s.snd.urgent ∧ changesOnly [.regs, .snd] s (entryDone s code) := by
  obtain ⟨i, hi⟩ : ∃ i, i = rget s 0 SND_STATUS_ENTRY := ⟨_, rfl⟩
  rw [← hi] at hentry ⊢
  obtain ⟨cconv, -, cactive, curgent, -, conly⟩ := converted_facts s
  obtain ⟨x, hx⟩ : ∃ x, x = entryStored (converted s) i code s.snd.pass := ⟨_, rfl⟩
  obtain ⟨xres, xvalid, xpass, xregs, xsnd, xonly⟩ := entryStored_facts (converted s) i code s.snd.pass
  obtain ⟨pregs, psnd, ponly⟩ := passOn_facts x i
  have hend : entryDone s code = passOn x i := by rw [hx, hi]; rfl
  rw [← hx] at xres xvalid xpass xregs xsnd xonly
  have hkept : ∀ f : Fld, f.off = 0x130100 → f.stride = 4 → rget (passOn x i) 0 f i = rget x 0 f i := fun f h1 h2 => by
    refine rget_of_regsBut pregs 0 f i fun q hq => ?_
    rw [List.mem_singleton.mp hq, h1, h2]
    exact regKey_off_ne (by omega) (by decide) (by dsimp only; omega)
  rw [hend]
  refine ⟨?_, (hkept _ rfl rfl).trans xvalid, (hkept _ rfl rfl).trans xpass, ?_, ?_, ?_, ?_⟩
  · rw [hkept _ rfl rfl, xres]
    exact Nat.mod_eq_of_lt hcode
  · rw [rget_of_offs pregs 0 SND_CONV (by decide) (by simp [SND_CONV]), ← cconv]
    refine rget_of_regsBut xregs 0 SND_CONV 0 fun q hq => ?_
    rw [List.mem_singleton.mp hq]
    refine regKey_off_ne (by decide) (by dsimp only; omega) ?_
    dsimp only [SND_CONV]
    omega
  · rw [psnd, xsnd, cactive]
  · rw [psnd, xsnd, curgent]
  · exact only_then (only_then conly xonly (by decide)) ponly (by decide)

theorem execConversionDone_entryDone (code : BitVec 12) (hactive : s.snd.active = some true) (hentry : rget s 0 SND_STATUS_ENTRY < 32) :
    exec (.conversionDone code) s = .next (startConversion (takeChannel
      (entryDone s (channelCode (rget s 0 SND_SEQ_CH (rget s 0 SND_STATUS_ENTRY)) code).toNat)
      (rget s 0 SND_SEQ_CH (rget s 0 SND_STATUS_ENTRY)) (channelCode (rget s 0 SND_SEQ_CH (rget s 0 SND_STATUS_ENTRY)) code))) := by
  obtain ⟨-, -, -, -, cpass, -⟩ := converted_facts s
  have centry : rget (converted s) 0 SND_STATUS_ENTRY = rget s 0 SND_STATUS_ENTRY := converted_get s _ 0 (by decide)
  have cchannel : rget (converted s) 0 SND_SEQ_CH (rget s 0 SND_STATUS_ENTRY) = rget s 0 SND_SEQ_CH (rget s 0 SND_STATUS_ENTRY) := by
    refine converted_get s _ _ ?_
    dsimp only [SND_SEQ_CH, SND_CONV]
    omega
  rw [execConversionDone_entry code hactive, entryResult_eq, centry, cchannel, cpass]
  rfl

theorem execConversionDone_plain (code : BitVec 12) (hactive : s.snd.active = some true)
    (hplain : ¬ taken_ (rget s 0 SND_SEQ_CH (rget s 0 SND_STATUS_ENTRY))) (hentry : rget s 0 SND_STATUS_ENTRY < 32) :
    ∃ t, exec (.conversionDone code) s = .next t
      ∧ rget t 0 SND_RES_RESULT (rget s 0 SND_STATUS_ENTRY)
          = (if channelReserved (rget s 0 SND_SEQ_CH (rget s 0 SND_STATUS_ENTRY)) then 0 else code.toNat)
      ∧ rget t 0 SND_RES_VALID (rget s 0 SND_STATUS_ENTRY) = 1
      ∧ rget t 0 SND_RES_PASS (rget s 0 SND_STATUS_ENTRY) = s.snd.pass % 256
      ∧ rget t 0 SND_CONV = (rget s 0 SND_CONV + 1) % 2 ^ 32 ∧ t.snd.urgent = s.snd.urgent
      ∧ changesOnly [.regs, .snd] s t := by
  obtain ⟨ch, hch⟩ : ∃ ch, ch = rget s 0 SND_SEQ_CH (rget s 0 SND_STATUS_ENTRY) := ⟨_, rfl⟩
  have hexec := execConversionDone_entryDone code hactive hentry
  rw [← hch] at hplain hexec ⊢
  rw [takeChannel_none _ _ _ hplain] at hexec
  obtain ⟨dres, dvalid, dpass, dconv, -, durgent, donly⟩ := entryDone_facts hentry (channelCode ch code).isLt
  obtain ⟨tregs, tonly, turgent, -⟩ := startConversion_facts (entryDone s (channelCode ch code).toNat)
  exact ⟨_, hexec, (rget_of_regs tregs 0 _ _).trans (dres.trans (channelCode_toNat code ch)), (rget_of_regs tregs 0 _ _).trans dvalid,
    (rget_of_regs tregs 0 _ _).trans dpass, (rget_of_regs tregs 0 _).trans dconv, turgent.trans durgent,
    only_then donly tonly (by decide)⟩

theorem execConversionDone_taken (code : BitVec 12) (hactive : s.snd.active = some true)
    (htaken : taken_ (rget s 0 SND_SEQ_CH (rget s 0 SND_STATUS_ENTRY))) (hentry : rget s 0 SND_STATUS_ENTRY < 32) :
    ∃ u, exec (.conversionDone code) s
        = .next (startConversion (takeChannel u (rget s 0 SND_SEQ_CH (rget s 0 SND_STATUS_ENTRY)) code))
      ∧ rget u 0 SND_RES_RESULT (rget s 0 SND_STATUS_ENTRY) = code.toNat
      ∧ rget u 0 SND_RES_VALID (rget s 0 SND_STATUS_ENTRY) = 1
      ∧ rget u 0 SND_CONV = (rget s 0 SND_CONV + 1) % 2 ^ 32 ∧ u.snd.active = none ∧ u.snd.urgent = s.snd.urgent
      ∧ changesOnly [.regs, .snd] s u := by
  have hexec := execConversionDone_entryDone code hactive hentry
  rw [channelCode_taken code htaken] at hexec
  obtain ⟨dres, dvalid, -, dconv, dactive, durgent, donly⟩ := entryDone_facts hentry code.isLt
  exact ⟨_, hexec, dres, dvalid, dconv, dactive, durgent, donly⟩

end EntryDone

/-! ### The obligation -/

/-- What a flag does with a sample (R432). -/
theorem sampleFlag_cases (s : State) (ch k : Nat) (f : Fld) (c mul lo hi : Nat) :
    (inWindow c mul lo hi = ron s k f → (sampleFlag s ch k f c mul lo hi).regs = s.regs
        ∧ mapGet (fun _ => 0) (sampleFlag s ch k f c mul lo hi).snd.agree ch = 0)
      ∧ (inWindow c mul lo hi ≠ ron s k f → mapGet (fun _ => 0) s.snd.agree ch < 3 → (sampleFlag s ch k f c mul lo hi).regs = s.regs
        ∧ mapGet (fun _ => 0) (sampleFlag s ch k f c mul lo hi).snd.agree ch = mapGet (fun _ => 0) s.snd.agree ch + 1)
      ∧ (inWindow c mul lo hi ≠ ron s k f → 3 ≤ mapGet (fun _ => 0) s.snd.agree ch →
        ∃ s1, sampleFlag s ch k f c mul lo hi = rput s1 k f (bit (inWindow c mul lo hi)) ∧ s1.regs = s.regs
          ∧ mapGet (fun _ => 0) s1.snd.agree ch = 0 ∧ changesOnly [.snd] s s1)
      ∧ changesOnly [.regs, .snd] s (sampleFlag s ch k f c mul lo hi) := by
  refine ⟨fun h => ?_, fun h hn => ?_, fun h hn => ⟨_, sampleFlag_turns h hn, rfl, withAgree_same s ch 0, only_snd _ _⟩,
    (sampleFlag_facts s ch k f c mul lo hi).1⟩
  · rw [sampleFlag_agrees h]
    exact ⟨rfl, withAgree_same s ch 0⟩
  · rw [sampleFlag_counts h hn]
    exact ⟨rfl, withAgree_same s ch _⟩

/-- Settles O48: requests, the fast pair, passes, conversions, flags and the reference buffer, each by its own lemma. -/
theorem soundingConversions : Obligations.SoundingConversions := by
  unfold Obligations.SoundingConversions
  intro s
  refine ⟨execUrgentRequest_room, fun hup hfull => ?full, execFastPair_on, execFastPair_off,
    fun hup hen => ⟨fun hrun => ?skipped, fun hrun i => execSequencePass_facts hup hen hrun⟩,
    fun code => ⟨execConversionDone_idle code, fun hactive ch l => execConversionDone_requested code hactive, execConversionDone_plain code,
      execConversionDone_taken code, fun hactive hruns l => ⟨execConversionDone_vin code hactive hruns,
        execConversionDone_iin code hactive hruns⟩,
      fun hruns => ⟨takeChannel_vbus_get code hruns, fun n => takeChannel_thermistor code hruns, fun k => takeChannel_rails code hruns⟩,
      takeChannel_halted code⟩,
    sampleFlag_cases s, fun hup => ⟨_, execRefbufEn_on hup, rset_one _ _ _ rfl (by decide), regsBut_rputm _ _ _ _ _ (by decide),
      only_rput _ _ _ _ _⟩, execRefbufEn_off_facts, execRefRdy_facts⟩
  case full =>
    exact ⟨_, execUrgentRequest_full hup hfull, rfl, rset_one _ _ _ rfl (by decide),
      (rset_ne _ _ _ _ rfl (by decide)).trans (rget_rput_same1 _ _ _ _ rfl (by decide)),
      regsBut_trans (regsBut_rputm _ _ _ _ _ (by decide)) (regsBut_rputm _ _ _ _ _ (by decide)),
      only_trans (only_rput _ _ _ _ _) (only_rput _ _ _ _ _)⟩
  case skipped =>
    exact ⟨_, execSequencePass_skipped hup hen hrun, rfl, (rbump_ne _ _ _ _ _ rfl (by decide)).trans (rset_one _ _ _ rfl (by decide)),
      (rbump_same _ _ _ _ rfl).trans (by rw [rset_ne _ _ _ _ rfl (by decide)]; rfl),
      regsBut_trans (regsBut_rputm _ _ _ _ _ (by decide)) (regsBut_rputm _ _ _ _ _ (by decide)),
      only_trans (only_rput _ _ _ _ _) (only_rbump _ _ _ _)⟩

end Sys2Proof.Claims
end

section
/-!
PROOFS. The junction temperature, the hard trip, DRAM readings, the throttle and the ECC halt (R431, R433, R436, R438).
-/

namespace Sys2Proof.Claims

open Sys2Proof Sys2Proof.Machine

/-! ### Rounds of diodes (R433) -/

theorem putJunction_facts (s : State) :
    (∃ n, n < 48 ∧ rget (putJunction s) 0 BNC_TJ_SRC = n ∧ (∀ i, i < 48 → (sensorAt s i).filtered ≤ (sensorAt s n).filtered)
        ∧ rget (putJunction s) 0 BNC_TJ_T = unsigned 16 (sensorAt s n).filtered)
      ∧ (∀ f : Fld, f.off ≠ 0x120010 → rget (putJunction s) 0 f = rget s 0 f) ∧ changesOnly [.regs] s (putJunction s) := by
  obtain ⟨n, hn, hhot, hmax⟩ := hottest_facts s
  have hend : putJunction s = rput (rput s 0 BNC_TJ_T (unsigned 16 (sensorAt s n).filtered)) 0 BNC_TJ_SRC n := by
    unfold putJunction
    rw [hhot]
  rw [hend]
  refine ⟨⟨n, hn, rget_rput_same1 _ _ _ _ rfl (lt_trans hn (by decide)), hmax, ?_⟩,
    fun f hf => (rget_rput_ne _ _ _ _ _ rfl (.inl hf)).trans (rget_rput_ne _ _ _ _ _ rfl (.inl hf)),
    only_trans (only_rput _ _ _ _ _) (only_rput _ _ _ _ _)⟩
  exact (rget_rput_ne _ _ _ _ _ rfl (by decide)).trans (rget_rput_same1 _ _ _ _ rfl (unsigned_lt 16 _))

/-- A sample of a diode writes the diode's word, and the alerts and the count of a diode just found broken. -/
theorem takeDiode_cause (s0 s : State) (x : DiodeSample) :
    rget (takeDiode s0 s x) 0 BNC_LAST_RESET_CAUSE = rget s 0 BNC_LAST_RESET_CAUSE := by
  have hnote : ∀ (y : State) (a b : Sensor), rget (noteBroken y a b) 0 BNC_LAST_RESET_CAUSE = rget y 0 BNC_LAST_RESET_CAUSE := by
    intro y a b
    unfold noteBroken
    split
    · exact (rget_rput_ne _ _ _ _ _ rfl (by decide)).trans (rbump_ne _ _ _ _ _ rfl (by decide))
    · rfl
  unfold takeDiode
  dsimp only
  split
  · rfl
  · next hn =>
    have hword : ∀ (y : State) (f : Fld) (v : Nat), f.fits = true → f.off = 0x120040 → f.stride = 4 →
        rget (rput y 0 f v x.diode.toNat) 0 BNC_LAST_RESET_CAUSE = rget y 0 BNC_LAST_RESET_CAUSE := by
      intro y f v hfits hoff hstride
      refine rget_rput_other _ _ _ _ _ _ _ _ hfits (.inl ?_)
      rw [hoff, hstride, Ne, regKey_inj]
      dsimp only [BNC_LAST_RESET_CAUSE]
      omega
    rw [hword _ BNC_DIODE_STATE _ rfl rfl rfl, hword _ BNC_DIODE_TEMP _ rfl rfl rfl, hnote]
    rfl

theorem takeDiodes_facts (s0 : State) (l : List DiodeSample) (s : State) :
    changesOnly [.regs, .bnc] s (l.foldl (takeDiode s0) s)
      ∧ rget (l.foldl (takeDiode s0) s) 0 BNC_LAST_RESET_CAUSE = rget s 0 BNC_LAST_RESET_CAUSE := by
  induction l generalizing s with
  | nil => exact ⟨only_refl _ _, rfl⟩
  | cons x l ih =>
    obtain ⟨ihonly, ihcause⟩ := ih (takeDiode s0 s x)
    exact ⟨only_trans (only_frameM (takeDiode_frame (m := [.regs, .bnc]) s0 s x (.refl _ _) (by decide)) (by decide)) ihonly,
      ihcause.trans (takeDiode_cause s0 s x)⟩

section Round

variable {s : State}

theorem execDiodeRound_run (hruns : binnacleRuns s = true) (l : List DiodeSample) :
    exec (.diodeRound l) s = .next (endRound (l.foldl (takeDiode s) s)) := congrArg Host.Outcome.next (if_pos hruns)

/-- A diode with two readings in a row at the trip limit trips the module. -/
theorem endRound_trips {u : State} (hhot : ∃ n, n < 48 ∧ (sensorAt u n).st = 0 ∧ 2 ≤ (sensorAt u n).hot) (hstate : pwrState u ≠ 4) :
    endRound u = hardTrip (putJunction u) 1 := by
  obtain ⟨-, hkeep, honly⟩ := putJunction_facts u
  have hbnc : (putJunction u).bnc = u.bnc := honly .bnc (by decide)
  have hsensor : ∀ i, sensorAt (putJunction u) i = sensorAt u i := fun i => by
    unfold sensorAt
    rw [hbnc]
  obtain ⟨n, hn, hvalid, htwice⟩ := hhot
  refine if_pos ⟨?_, List.any_eq_true.mpr ⟨n, List.mem_range.mpr hn, ?_⟩⟩
  · exact fun h => hstate ((hkeep PWR_STATUS_STATE (by decide)).symm.trans h)
  · rw [hsensor, hvalid, decide_eq_true htwice]
    rfl

theorem execDiodeRound_facts (hruns : binnacleRuns s = true) (l : List DiodeSample) :
    let s1 := l.foldl (takeDiode s) s
    (∃ n, n < 48 ∧ rget (putJunction s1) 0 BNC_TJ_SRC = n ∧ (∀ i, i < 48 → (sensorAt s1 i).filtered ≤ (sensorAt s1 n).filtered)
        ∧ rget (putJunction s1) 0 BNC_TJ_T = unsigned 16 (sensorAt s1 n).filtered)
      ∧ exec (.diodeRound l) s = .next (endRound s1)
      ∧ ((∃ n, n < 48 ∧ (sensorAt s1 n).st = 0 ∧ 2 ≤ (sensorAt s1 n).hot) → pwrState s1 ≠ 4 →
          ∃ t, exec (.diodeRound l) s = .next t ∧ Tripped s t 1)
      ∧ changesOnly [.regs, .bnc] s s1 := by
  intro s1
  obtain ⟨honly, hcause⟩ := takeDiodes_facts s l s
  obtain ⟨hhottest, hkeep, hjunction⟩ := putJunction_facts s1
  refine ⟨hhottest, execDiodeRound_run hruns l, fun hhot hstate => ⟨_, (execDiodeRound_run hruns l).trans
    (congrArg Host.Outcome.next (endRound_trips hhot hstate)), ?_⟩, honly⟩
  refine hardTrip_facts s (putJunction s1) 1 (by decide) (only_then (only_mono honly (by decide)) hjunction (by decide)) ?_
  exact (hkeep BNC_LAST_RESET_CAUSE (by decide)).trans hcause

end Round

/-! ### DRAM readings (R436) -/

theorem takeDramTemp_cool {s : State} (k : BitVec 3) {temp : Int} (hcool : temp < 26880) :
    takeDramTemp s k.toNat temp = rput (rput (putSensor s (60 + k.toNat) ((sensorAt s (60 + k.toNat)).heat false)) 0 BNC_DRAMT_TEMP
      (unsigned 16 temp) k.toNat) 0 BNC_DRAMT_VALID (bit (decide (rget s k.toNat PWR_STK_STATUS_STATE = 2))) k.toNat := by
  unfold takeDramTemp
  dsimp only
  rw [decide_eq_false (by omega : ¬ 26880 ≤ temp)]
  exact if_neg (by simp [Sensor.heat])

theorem execDramTemperature_cool {s : State} (hruns : binnacleRuns s = true) (k : BitVec 3) {temp : Int} (hcool : temp < 26880) :
    ∃ t, exec (.dramTemperature k temp) s = .next t
      ∧ rget t 0 BNC_DRAMT_TEMP k.toNat = unsigned 16 temp
      ∧ rget t 0 BNC_DRAMT_VALID k.toNat = bit (decide (rget s k.toNat PWR_STK_STATUS_STATE = 2))
      ∧ (sensorAt t (60 + k.toNat)).hot = 0
      ∧ regsBut [(0, 0x1201C0 + 4 * k.toNat)] s t ∧ changesOnly [.regs, .bnc] s t := by
  obtain ⟨x, hx⟩ : ∃ x, x = putSensor s (60 + k.toNat) ((sensorAt s (60 + k.toNat)).heat false) := ⟨_, rfl⟩
  have hexec : exec (.dramTemperature k temp) s = .next (takeDramTemp s k.toNat temp) := congrArg Host.Outcome.next (if_pos hruns)
  rw [takeDramTemp_cool k hcool, ← hx] at hexec
  have xregs : x.regs = s.regs := by rw [hx]; rfl
  have xonly : changesOnly [.bnc] s x := hx ▸ only_bnc _ _
  have xhot : (sensorAt x (60 + k.toNat)).hot = 0 := by
    rw [hx]
    show (mapGet (fun _ => Sensor.reset) (mapSet _ _ _ _) _).hot = 0
    rw [mapGet_mapSet_same]
    rfl
  refine ⟨_, hexec, ?_, ?_, xhot, ?_, ?_⟩
  · rw [rget_rput_other _ _ _ _ _ _ _ _ rfl (.inr rfl), rget_rput_same _ _ _ _ _ rfl]
    exact Nat.mod_eq_of_lt (unsigned_lt 16 temp)
  · rw [rget_rput_same _ _ _ _ _ rfl]
    exact Nat.mod_eq_of_lt (bit_lt _)
  · refine regsBut_trans ?_ (regsBut_rputi _ _ BNC_DRAMT_VALID _ _ _ _ rfl rfl)
    exact regsBut_trans (regsBut_of_regs xregs _) (regsBut_rputi _ _ BNC_DRAMT_TEMP _ _ _ _ rfl rfl)
  · exact only_then (only_then (only_mono xonly (by decide)) (only_rput _ _ _ _ _) (by decide)) (only_rput _ _ _ _ _) (by decide)

/-! ### The throttle (R438) -/

section Throttle

variable {s : State}

theorem execHostq_facts (v : BitVec 7) (hup : islandUp s = true) :
    let s1 := rput s 0 BNC_THROTTLE_HOSTQ v.toNat
    ∃ t, exec (.hostq v) s = .next t ∧ rget t 0 BNC_THROTTLE_HOSTQ = v.toNat
      ∧ rget t 0 BNC_THROTTLE_REQ = rget s 0 BNC_THROTTLE_REQ
      ∧ (fleetMode s = true ∨ binnacleRuns s = false → t = s1)
      ∧ (fleetMode s = false → binnacleRuns s = true → ThrottleDecided s1 t)
      ∧ regsBut [(0, BNC_THROTTLE_HOSTQ.off)] s t ∧ changesOnly [.regs, .bnc] s t := by
  intro s1
  have hexec : exec (.hostq v) s = .next (if (fleetMode s || !binnacleRuns s) = true then s1 else decideThrottle s1) :=
    congrArg Host.Outcome.next (if_neg (by rw [hup]; decide))
  have hhost : rget s1 0 BNC_THROTTLE_HOSTQ = v.toNat := rget_rput_same1 _ _ _ _ rfl v.isLt
  have hreq : rget s1 0 BNC_THROTTLE_REQ = rget s 0 BNC_THROTTLE_REQ := rget_rput_ne _ _ _ _ _ rfl (by decide)
  have hregs : regsBut [(0, BNC_THROTTLE_HOSTQ.off)] s s1 := regsBut_rputm _ _ _ _ _ (by decide)
  have honly : changesOnly [.regs, .bnc] s s1 := only_mono (only_rput _ _ _ _ _) (by decide)
  by_cases hwaits : fleetMode s = true ∨ binnacleRuns s = false
  · rw [if_pos (by simpa using hwaits)] at hexec
    refine ⟨s1, hexec, hhost, hreq, fun _ => rfl, fun hmode hruns => ?_, hregs, honly⟩
    rcases hwaits with h | h
    · exact absurd (hmode.symm.trans h) (by decide)
    · exact absurd (hruns.symm.trans h) (by decide)
  · rw [if_neg (by simpa using hwaits)] at hexec
    obtain ⟨dthrottle, donly, dregs, dreq, dhost⟩ := decideThrottle_facts s1
    exact ⟨_, hexec, dhost.trans hhost, dreq.trans hreq, fun h => absurd h hwaits, fun _ _ => dthrottle,
      regsBut_trans hregs dregs, only_trans honly donly⟩

theorem passGrace_facts (s : State) : (passGrace s).cyc = max s.cyc (s.bnc.graceAt + 600000000) ∧ (passGrace s).regs = s.regs
    ∧ changesOnly [.cyc, .tick, .tfrac] s (passGrace s) := by
  refine ⟨?_, elapse_regs s _, only_of_frame (m := [.cyc, .tick, .tfrac]) (elapse_frame s _ (.refl _ _) (by decide))⟩
  show (elapse s _).cyc = _
  rw [elapse_cyc]
  omega

/-- The grace has passed: APPLIED follows REQ, counted and alerted. -/
theorem execGrace_facts (hruns : binnacleRuns s = true) (hmode : fleetMode s = false) (hgrace : ron s 0 BNC_THROTTLE_GRACE = true) :
    ∃ t, exec .grace s = .next t ∧ t.cyc = max s.cyc (s.bnc.graceAt + 600000000)
      ∧ rget t 0 BNC_THROTTLE_APPLIED = rget s 0 BNC_THROTTLE_REQ ∧ rget t 0 BNC_THROTTLE_ENFORCED = 1
      ∧ rget t 0 BNC_THROTTLE_GRACE = 0 ∧ rget t 0 BNC_ENFORCED = (rget s 0 BNC_ENFORCED + 1) % 2 ^ 32
      ∧ (rget t 0 BNC_ALERT_ALERTS).testBit 1 = true
      ∧ regsBut [(0, BNC_THROTTLE_GRACE.off), (0, BNC_ENFORCED.off), (0, BNC_ALERT_ALERTS.off)] s t
      ∧ changesOnly [.cyc, .tick, .tfrac, .regs] s t := by
  obtain ⟨p, hp⟩ : ∃ p, p = passGrace s := ⟨_, rfl⟩
  obtain ⟨pcyc, pregs, ponly⟩ := passGrace_facts s
  rw [← hp] at pcyc pregs ponly
  obtain ⟨x, hx⟩ : ∃ x, x = rput (rput (rset p 0 BNC_THROTTLE_ENFORCED) 0 BNC_THROTTLE_GRACE 0) 0 BNC_THROTTLE_APPLIED
    (rget s 0 BNC_THROTTLE_REQ) := ⟨_, rfl⟩
  obtain ⟨c, hc⟩ : ∃ c, c = rbump x 0 BNC_ENFORCED := ⟨_, rfl⟩
  have hexec : exec .grace s = .next (alert c 1) := by
    rw [hc, hx, hp]
    refine if_neg ?_
    rw [hruns, hmode, hgrace]
    decide
  have xapplied : rget x 0 BNC_THROTTLE_APPLIED = rget s 0 BNC_THROTTLE_REQ :=
    hx ▸ rget_rput_same1 _ _ _ _ rfl (rget_lt s 0 BNC_THROTTLE_REQ 0)
  have xenforced : rget x 0 BNC_THROTTLE_ENFORCED = 1 := by
    rw [hx, rget_rput_ne _ _ _ _ _ rfl (by decide), rget_rput_ne _ _ _ _ _ rfl (by decide)]
    exact rset_one _ _ _ rfl (by decide)
  have xgrace : rget x 0 BNC_THROTTLE_GRACE = 0 := by
    rw [hx, rget_rput_ne _ _ _ _ _ rfl (by decide)]
    exact rget_rput_same1 _ _ _ _ rfl (by decide)
  have xcount : rget x 0 BNC_ENFORCED = rget s 0 BNC_ENFORCED := by
    rw [hx, rget_rput_ne _ _ _ _ _ rfl (by decide), rget_rput_ne _ _ _ _ _ rfl (by decide), rset_ne _ _ _ _ rfl (by decide),
      rget_of_regs pregs]
  have xcyc : x.cyc = p.cyc := by rw [hx]; rfl
  have xregs : regsBut [(0, BNC_THROTTLE_GRACE.off), (0, BNC_ENFORCED.off), (0, BNC_ALERT_ALERTS.off)] s x := by
    rw [hx]
    refine regsBut_trans ?_ (regsBut_rputm _ _ _ _ _ (by decide))
    refine regsBut_trans ?_ (regsBut_rputm _ _ _ _ _ (by decide))
    exact regsBut_trans (regsBut_of_regs pregs _) (regsBut_rputm _ _ _ _ _ (by decide))
  have xonly : changesOnly [.cyc, .tick, .tfrac, .regs] s x := by
    refine only_then (qs := [.regs]) (only_mono ponly (by decide)) ?_ (by decide)
    rw [hx]
    exact only_trans (only_trans (only_rput _ _ _ _ _) (only_rput _ _ _ _ _)) (only_rput _ _ _ _ _)
  have hkeep : ∀ f : Fld, f.off ≠ BNC_ENFORCED.off → f.off ≠ BNC_ALERT_ALERTS.off → rget (alert c 1) 0 f = rget x 0 f := fun f h1 h2 =>
    (rget_rput_ne _ _ _ _ _ rfl (.inl h2)).trans (hc ▸ rbump_ne _ _ _ _ _ rfl (.inl h1))
  refine ⟨_, hexec, ?_, (hkeep _ (by decide) (by decide)).trans xapplied, (hkeep _ (by decide) (by decide)).trans xenforced,
    (hkeep _ (by decide) (by decide)).trans xgrace, ?_, alert_bit c 1 (by decide), ?_, ?_⟩
  · rw [show (alert c 1).cyc = c.cyc from rfl, hc, show (rbump x 0 BNC_ENFORCED).cyc = x.cyc from rfl, xcyc, pcyc]
  · rw [show rget (alert c 1) 0 BNC_ENFORCED = rget c 0 BNC_ENFORCED from rget_rput_ne _ _ _ _ _ rfl (by decide), hc,
      rbump_same _ _ _ _ rfl, xcount]
    rfl
  · refine regsBut_trans ?_ (regsBut_rputm _ _ BNC_ALERT_ALERTS _ _ (by decide))
    rw [hc]
    exact regsBut_trans xregs (regsBut_rputm _ _ _ _ _ (by decide))
  · refine only_then (qs := [.regs]) ?_ (only_rput _ _ BNC_ALERT_ALERTS _ _) (by decide)
    rw [hc]
    exact only_then xonly (only_rbump _ _ _ _) (by decide)

theorem execGrace_none (h : ron s 0 BNC_THROTTLE_GRACE = false ∨ fleetMode s = true) : exec .grace s = .next s := by
  refine if_pos ?_
  rcases h with h | h
  · exact .inr (.inr (by rw [h]; rfl))
  · exact .inr (.inl h)

end Throttle

/-- Rounds of diodes and DRAM readings (R433, R436). -/
theorem diodesAndDram : DiodesAndDram :=
  fun _ hruns => ⟨execDiodeRound_facts hruns, fun k _ => execDramTemperature_cool hruns k⟩

/-- The throttle and the halt of Binnacle's core (R431, R438). -/
theorem throttleAndAlert : ThrottleAndAlert :=
  fun _ => ⟨fun v => execHostq_facts v, execGrace_facts, execGrace_none, ⟨_, rfl, rfl, only_bnc _ _⟩⟩

/-- Settles O51: the rounds of diodes and DRAM readings, then the throttle and the halt. -/
theorem thermalControl : Obligations.ThermalControl := ⟨diodesAndDram, throttleAndAlert⟩

end Sys2Proof.Claims
end

section
/-!
PROOFS. Register accesses of region 2 and of tiles, and READ and WRITE on the Bearing port (R149, R321, R322, R442, R443).
-/

namespace Sys2Proof.Claims

open Sys2Proof Sys2Proof.Machine

/-! ### The access's own flit (R295, Table 12.5) -/

/-- An access enters the network as flits of one channel, between two stacks. -/
theorem accessFlit_eq (s : State) (src : Source) (k : Nat) (w : Bool) : ∃ j ch, accessFlit s src k w = crossFlits s j k ch 1 := by
  cases src <;> exact ⟨_, _, rfl⟩

theorem accessFlit_only (s : State) (src : Source) (k : Nat) (w : Bool) : changesOnly [.regs] s (accessFlit s src k w) := by
  obtain ⟨j, ch, h⟩ := accessFlit_eq s src k w
  rw [h]
  exact only_frameM (crossFlits_frame (fm := [.regs]) s j k ch 1 (.refl _ _) (by decide)) (by decide)

/-- Flits are counted in the routing block alone. -/
theorem accessFlit_rword (s : State) (src : Source) (k : Nat) (w : Bool) (j off : Nat) (hlo : 0x10000 ≤ off) (hhi : off < 2 ^ 21) :
    rword (accessFlit s src k w) j off = rword s j off := by
  obtain ⟨i, ch, h⟩ := accessFlit_eq s src k w
  rw [h]
  refine crossFlits_rword _ _ _ _ _ _ _ fun x o ho => ?_
  have hlow : o < 0x10000 := (by decide : ∀ o ∈ flitRegs, o < 0x10000) o ho
  exact regKey_off_ne (q := (x, o)) hhi (by dsimp only; omega) (by dsimp only; omega)

theorem accessFlit_slotZero (s : State) (src : Source) (k : Nat) (w : Bool) (j : Nat) :
    slotZero (accessFlit s src k w) j = slotZero s j := by
  have honly := accessFlit_only s src k w
  unfold slotZero arrayCycleFrom stkOf
  rw [honly .stk (by decide), honly .slot0 (by decide)]

/-! ### Region 2 (R321, R322) -/

section Region2

variable {s : State} {src : Source} {k : BitVec 3} {off : BitVec 21}

theorem registerAccess_write (v : Dword) (h4 : off.toNat % 4 = 0)
    (hopen : regOpen (accessFlit s src k.toNat true) src k.toNat off.toNat = true) :
    exec (.registerAccess ⟨src, .reg2 k off, false, some v⟩) s
      = .next (answered (writeReg (accessFlit s src k.toNat true) src k.toNat off.toNat (v.setWidth 32))
          ⟨src, .reg2 k off, false, some v⟩ .ok 0) := reg2_exec s src k off false (some v) _ (reg2_write _ src _ _ v h4 hopen)

/-- A word whose write starts nothing is stored by its access codes. -/
theorem registerAccess_stored {s0 : State} (v : Dword) (hblock : off.toNat / 0x10000 < 3) (hplain : actsOnWrite off.toNat = false)
    (a : RegAccess) :
    let t := answered (writeReg s0 src k.toNat off.toNat (v.setWidth 32)) a .ok 0
    rword t k.toNat off.toNat = storeWord (blockFields off.toNat) (regLocked s0 src k.toNat off.toNat) off.toNat
        (rword s0 k.toNat off.toNat) (v.setWidth 32)
      ∧ regsBut [(k.toNat, off.toNat)] s0 t ∧ changesOnly [.regs, .answers] s0 t := by
  intro t
  have hstore : writeReg s0 src k.toNat off.toNat (v.setWidth 32) = setRword s0 k.toNat off.toNat
      (storeWord (blockFields off.toNat) (regLocked s0 src k.toNat off.toNat) off.toNat (rword s0 k.toNat off.toNat) (v.setWidth 32)) :=
    (writeReg_plain s0 src _ _ _ hblock hplain).trans (storeReg_nil s0 src _ _ _)
  have hend : t = answered (setRword s0 k.toNat off.toNat (storeWord (blockFields off.toNat) (regLocked s0 src k.toNat off.toNat)
      off.toNat (rword s0 k.toNat off.toNat) (v.setWidth 32))) a .ok 0 := congrArg (fun x => answered x a .ok 0) hstore
  rw [hend]
  refine ⟨?_, regsBut_setRword _ _ _ _, only_then (only_mono (only_setRword _ _ _ _) (by decide)) (only_answers _ _) (by decide)⟩
  rw [rword_answered, rword_setRword, if_pos rfl]

theorem registerAccess_read (h4 : off.toNat % 4 = 0)
    (hopen : regOpen (accessFlit s src k.toNat false) src k.toNat off.toNat = true) :
    let s1 := (readReg (accessFlit s src k.toNat false) k.toNat off.toNat).1
    exec (.registerAccess ⟨src, .reg2 k off, false, none⟩) s
      = .next (answered s1 ⟨src, .reg2 k off, false, none⟩ .ok ((reg2View s1 k.toNat off.toNat).setWidth 64)) :=
  reg2_exec s src k off false none _ (reg2_read _ src _ _ h4 hopen)

theorem registerAccess_fenced (wide : Bool) (w : Option Dword)
    (h : regOpen (accessFlit s src k.toNat w.isSome) src k.toNat off.toNat = false ∨ off.toNat % (if wide then 8 else 4) ≠ 0) :
    exec (.registerAccess ⟨src, .reg2 k off, wide, w⟩) s
      = .next (answered (accessFlit s src k.toNat w.isSome) ⟨src, .reg2 k off, wide, w⟩ .fenced 0) :=
  reg2_exec s src k off wide w _ (reg2_fenced _ src _ _ wide w h)

end Region2

/-! ### Tiles (R149) -/

section Tiles

variable {s s0 : State} {src : Source} {r : TileRef} {site : Nat}

theorem accessTile_write {off : Nat} (v : Dword) (hsite : tileRegSite s0 src r off = some site) (h4 : off % 4 = 0) :
    accessTile s0 src r off false (some v) = (writeTileReg s0 r off (v.setWidth 32), .ok, 0) := by
  unfold accessTile
  rw [hsite]
  exact if_neg (by simp [h4])

theorem accessTile_read {off : Nat} (hsite : tileRegSite s0 src r off = some site) (h4 : off % 4 = 0) :
    accessTile s0 src r off false none = (changeSite s0 r.stack.toNat site id, .ok,
      (tileView (tileAt (changeSite s0 r.stack.toNat site id) r.stack.toNat site) (slotZero s0 r.stack.toNat) s0.cyc off).setWidth 64) := by
  unfold accessTile
  rw [hsite]
  exact if_neg (by simp [h4])

theorem accessTile_fenced {off : Nat} {wide : Bool} (w : Option Dword)
    (h : tileRegSite s0 src r off = none ∨ wide = true ∨ off % 4 ≠ 0) : accessTile s0 src r off wide w = (s0, .fenced, 0) := by
  unfold accessTile
  cases hsite : tileRegSite s0 src r off with
  | none => rfl
  | some site => exact if_pos (h.resolve_left (by rw [hsite]; simp))

theorem registerAccess_tileWrite {off : BitVec 12} (v : Dword) (h4 : off.toNat % 4 = 0)
    (hsite : tileRegSite (accessFlit s src r.stack.toNat true) src r off.toNat = some site) :
    exec (.registerAccess ⟨src, .tile r off, false, some v⟩) s
      = .next (answered (writeTileReg (accessFlit s src r.stack.toNat true) r off.toNat (v.setWidth 32))
          ⟨src, .tile r off, false, some v⟩ .ok 0) := tile_exec s src r off false (some v) _ (accessTile_write v hsite h4)

theorem registerAccess_tileRead {off : BitVec 12} (h4 : off.toNat % 4 = 0)
    (hsite : tileRegSite (accessFlit s src r.stack.toNat false) src r off.toNat = some site) :
    let s0 := accessFlit s src r.stack.toNat false
    exec (.registerAccess ⟨src, .tile r off, false, none⟩) s
      = .next (answered (changeSite s0 r.stack.toNat site id) ⟨src, .tile r off, false, none⟩ .ok
          ((tileView (tileAt (changeSite s0 r.stack.toNat site id) r.stack.toNat site) (slotZero s r.stack.toNat) s.cyc
            off.toNat).setWidth 64)) := by
  intro s0
  have hslot : slotZero s0 r.stack.toNat = slotZero s r.stack.toNat := accessFlit_slotZero s src _ false _
  have hcyc : s0.cyc = s.cyc := accessFlit_only s src r.stack.toNat false .cyc (by decide)
  have hread := accessTile_read hsite h4
  rw [show slotZero _ r.stack.toNat = _ from hslot, show State.cyc _ = _ from hcyc] at hread
  exact tile_exec s src r off false none _ hread

end Tiles

/-- Settles O29: the access's flit, then writes and reads of region 2 and of tiles, open and fenced. -/
theorem registerAccesses : Obligations.RegisterAccesses := by
  unfold Obligations.RegisterAccesses
  refine ⟨fun s src k w => ⟨accessFlit_only s src k w, accessFlit_rword s src k w⟩, fun s src k off h4 => ⟨?write, ?read⟩,
    fun s src k off wide w => registerAccess_fenced wide w, fun s src r off site h4 => ⟨?tileWrite, ?tileRead⟩,
    fun s src r off wide w h => tile_exec s src r off wide w _ (accessTile_fenced w h)⟩
  case write =>
    intro v s0 hopen
    exact ⟨_, registerAccess_write v h4 hopen, rfl, fun hblock hplain => registerAccess_stored v hblock hplain _⟩
  case read =>
    intro s0 s1 hopen
    obtain ⟨honly, hsame, -⟩ := readReg_facts s0 k.toNat off.toNat
    have hmasked : s0.bnc.masked = s.bnc.masked := congrArg BinnSt.masked (accessFlit_only s src k.toNat false .bnc (by decide))
    exact ⟨_, registerAccess_read h4 hopen, rfl, fun h => honly (hmasked ▸ h), hsame⟩
  case tileWrite =>
    intro v s0 hsite
    have hexec := registerAccess_tileWrite v h4 hsite
    refine ⟨fun hne => hexec.trans ?_, fun heq => hexec.trans ?_⟩
    · have hoff : off.toNat ≠ 0 := fun h => hne (BitVec.eq_of_toNat_eq h)
      rw [show writeTileReg _ r off.toNat _ = _ from if_neg hoff]
    · have hoff : off.toNat = 0 := by rw [heq]; rfl
      rw [show writeTileReg _ r off.toNat _ = _ from if_pos hoff]
  case tileRead => exact registerAccess_tileRead h4

/-! ### READ and WRITE on the Bearing port (R442, R443, R462) -/

section Bearing

variable {s : State} {a : BearingArg}

/-- The stack and the offset that ADDR names. -/
def bearingStack (a : BearingArg) : Nat := bitsOf a.addr.toNat 21 3
def bearingOff (a : BearingArg) : Nat := bitsOf a.addr.toNat 0 21

/-- Whether a block answers in ROM recovery. -/
def islandBlock (a : BearingArg) : Prop :=
  0x12 ≤ bearingOff a / 0x10000 ∧ bearingOff a / 0x10000 ≤ 0x15 ∧ bearingStack a = 0

/-- What the port does with an access once it takes it. -/
def bearingTaken (a : BearingArg) (write : Option Dword) (s : State) : State :=
  let q := accessReg2 (crossFlits s 0 (bearingStack a) 3 1) .bearing (bearingStack a) (bearingOff a) false write
  reply q.1 (if q.2.1 = .ok then 0 else 3) (q.2.2.setWidth 32)

theorem bearingAccess_eq (write : Option Dword) : bearingAccess s a write
    = bearing s (decide (0x12 ≤ bearingOff a / 0x10000) && decide (bearingOff a / 0x10000 ≤ 0x15) && bearingStack a == 0)
        (bearingTaken a write) := rfl

theorem islandBlock_iff : (decide (0x12 ≤ bearingOff a / 0x10000) && decide (bearingOff a / 0x10000 ≤ 0x15) && bearingStack a == 0) = true
    ↔ islandBlock a := by
  rw [Bool.and_eq_true, Bool.and_eq_true, decide_eq_true_iff, decide_eq_true_iff, beq_iff_eq, and_assoc]
  rfl

theorem bearingAccess_taken (hport : portRuns s = true) (hlong : s.bnc.long = none)
    (htaken : ron s 0 LSR_STATUS_RECOVERY = false ∨ islandBlock a) (write : Option Dword) :
    bearingAccess s a write = bearingTaken a write s := by
  rw [bearingAccess_eq]
  rcases htaken with h | h
  · exact bearing_run s _ _ hport hlong h
  · rw [islandBlock_iff.mpr h]
    exact bearing_kept s _ hport hlong

theorem bearingAccess_recovery (hport : portRuns s = true) (hlong : s.bnc.long = none)
    (hrecovery : ron s 0 LSR_STATUS_RECOVERY = true) (hother : ¬ islandBlock a) (write : Option Dword) :
    bearingAccess s a write = reply s 3 0 := by
  rw [bearingAccess_eq, Bool.eq_false_iff.mpr (fun h => hother (islandBlock_iff.mp h))]
  exact bearing_rec s _ hport hlong hrecovery

theorem bearingTaken_fenced (h : bearingOff a % 4 ≠ 0 ∨ regOpen (crossFlits s 0 (bearingStack a) 3 1) .bearing (bearingStack a) (bearingOff a) = false)
    (write : Option Dword) : bearingTaken a write s = reply (crossFlits s 0 (bearingStack a) 3 1) 3 0 := by
  unfold bearingTaken
  rw [reg2_fenced _ .bearing _ _ false write h.symm]
  rfl

section Open

variable (h4 : bearingOff a % 4 = 0)
  (hopen : regOpen (crossFlits s 0 (bearingStack a) 3 1) .bearing (bearingStack a) (bearingOff a) = true)
include h4 hopen

theorem bearingTaken_read : bearingTaken a none s
    = reply (readReg (crossFlits s 0 (bearingStack a) 3 1) (bearingStack a) (bearingOff a)).1 0
        (reg2View (readReg (crossFlits s 0 (bearingStack a) 3 1) (bearingStack a) (bearingOff a)).1 (bearingStack a) (bearingOff a)) := by
  unfold bearingTaken
  rw [reg2_read _ .bearing _ _ h4 hopen]
  dsimp only
  rw [if_pos rfl, BitVec.setWidth_setWidth_of_le _ (by decide), BitVec.setWidth_eq]

theorem bearingTaken_write : bearingTaken a (some (a.data.setWidth 64)) s
    = reply (writeReg (crossFlits s 0 (bearingStack a) 3 1) .bearing (bearingStack a) (bearingOff a) a.data) 0 0 := by
  unfold bearingTaken
  rw [reg2_write _ .bearing _ _ _ h4 hopen, BitVec.setWidth_setWidth_of_le _ (by decide), BitVec.setWidth_eq]
  rfl

/-- What a read on the port leaves: the reply, and the words that a read latches. -/
theorem bearingTaken_read_facts (hplain : bearingOff a / 0x10000 ≠ 1 ∨ s.bnc.masked = []) :
    (bearingTaken a none s).bnc.replies = s.bnc.replies ++ [⟨0, reg2View
        (readReg (crossFlits s 0 (bearingStack a) 3 1) (bearingStack a) (bearingOff a)).1 (bearingStack a) (bearingOff a)⟩]
      ∧ changesOnly [.chr, .bnc] (crossFlits s 0 (bearingStack a) 3 1) (bearingTaken a none s) := by
  obtain ⟨c, hc⟩ : ∃ c, c = crossFlits s 0 (bearingStack a) 3 1 := ⟨_, rfl⟩
  have cbnc : c.bnc = s.bnc := by
    rw [hc]
    exact accessFlit_only s .bearing (bearingStack a) false .bnc (by decide)
  obtain ⟨honly, -⟩ := readReg_facts c (bearingStack a) (bearingOff a)
  have hread := honly (by rw [cbnc]; exact hplain)
  rw [bearingTaken_read h4 hopen, ← hc]
  refine ⟨?_, only_then (only_mono hread (by decide)) (only_reply _ _ _) (by decide)⟩
  show (readReg c (bearingStack a) (bearingOff a)).1.bnc.replies ++ _ = _
  rw [hread .bnc (by decide), cbnc]

end Open

end Bearing

/-- Settles O30: READ and WRITE refused in recovery, fenced, and carried out. -/
theorem bearingAccesses : Obligations.BearingAccesses := by
  unfold Obligations.BearingAccesses
  intro s a hport hlong k off kept s0 s1
  have hrun : ∀ {t : State} (write : Option Dword), ron s 0 LSR_STATUS_RECOVERY = false ∨ kept → bearingTaken a write s = t →
      (Host.Outcome.next (bearingAccess s a write) : Host.Outcome State Fault Refusal) = .next t := fun write htaken h =>
    congrArg Host.Outcome.next ((bearingAccess_taken hport hlong htaken write).trans h)
  refine ⟨fun hrecovery hother => ⟨?_, ?_⟩, fun htaken hfenced => ⟨?_, ?_⟩, fun htaken h4 hopen => ⟨?_, ?_, ?_, fun hplain => ?_⟩⟩
  · exact congrArg Host.Outcome.next (bearingAccess_recovery hport hlong hrecovery hother none)
  · exact congrArg Host.Outcome.next (bearingAccess_recovery hport hlong hrecovery hother _)
  · exact hrun none htaken (bearingTaken_fenced hfenced none)
  · exact hrun _ htaken (bearingTaken_fenced hfenced _)
  · exact hrun none htaken (bearingTaken_read h4 hopen)
  · exact hrun _ htaken (bearingTaken_write h4 hopen)
  · exact ⟨_, hrun _ htaken (bearingTaken_write h4 hopen), rfl⟩
  · exact ⟨_, hrun none htaken rfl, bearingTaken_read_facts h4 hopen hplain⟩

end Sys2Proof.Claims
end

section
/-!
PROOFS. The other commands of the Bearing port: STATE, LOGREAD and the long commands (R443, R444, R462, R470, Table 19.4).
-/

namespace Sys2Proof.Claims

open Sys2Proof Sys2Proof.Machine

/-! ### A long command runs (R444) -/

section Busy

variable {s : State} {a : BearingArg}

theorem longRuns_busy (hport : portRuns s = true) {q : Byte × BitVec 24 × Word} (hlong : s.bnc.long = some q) :
    ∀ c ∈ [Instr.bearingState, .logread a, .lifecycleAdvance a, .fuseProgram a, .devtableCommit a, .imageSlotSelect a,
      .bearingReset a], exec c s = .next (replyBusy s q.1) := by
  have hbusy : ∀ kept f, (Host.Outcome.next (bearing s kept f) : Host.Outcome State Fault Refusal) = .next (replyBusy s q.1) :=
    fun kept f => congrArg Host.Outcome.next (bearing_long s kept f q hport hlong)
  simp only [List.forall_mem_cons, List.not_mem_nil, false_implies, implies_true, and_true]
  exact ⟨hbusy _ _, hbusy _ _, hbusy _ _, hbusy _ _, hbusy _ _, hbusy _ _, hbusy _ _⟩

theorem longRuns_facts (hport : portRuns s = true) {q : Byte × BitVec 24 × Word} (hlong : s.bnc.long = some q) :
    ∃ t p, p ≤ 100 ∧ t.bnc.replies = s.bnc.replies ++ [⟨1, BitVec.ofNat 32 (q.1.toNat + 256 * p)⟩]
      ∧ rget t 0 BNC_BBUSY = (rget s 0 BNC_BBUSY + 1) % 2 ^ 32
      ∧ regsBut [(0, BNC_BBUSY.off)] s t ∧ changesOnly [.regs, .free, .bnc] s t
      ∧ ∀ c ∈ [Instr.bearingState, .logread a, .lifecycleAdvance a, .fuseProgram a, .devtableCommit a, .imageSlotSelect a,
          .bearingReset a], exec c s = .next t := by
  obtain ⟨p, hp, hreplies, hcount, hregs, honly⟩ := replyBusy_facts s q.1
  exact ⟨_, p, hp, hreplies, hcount, hregs, honly, longRuns_busy hport hlong⟩

/-- A bad CRC is counted and answered FORMAT. -/
theorem execBearingRequestFormat_crc (hport : portRuns s = true) {r : BearingReq}
    (hcrc : ([r.op] ++ (leBytes 3 r.addr.toNat).reverse ++ (leBytes 4 r.data.toNat).reverse).foldl crc8Byte 0 ≠ r.crc) :
    exec (.bearingRequestFormat r) s = .next (reply (rbump s 0 BNC_BCRC) 2 0) := by
  refine congrArg Host.Outcome.next ((if_neg ?_).trans (if_pos hcrc))
  rw [hport]
  decide

end Busy

/-! ### STATE (Table 19.4) -/

/-- The word of STATE, field by field. -/
theorem stateWord_fields (s : State) : (stateWord s).toNat % 16 = rget s 0 BNC_BRINGUP_STEP
    ∧ (stateWord s).toNat / 16 % 2 = rget s 0 BNC_BRINGUP_READY ∧ (stateWord s).toNat / 32 % 2 = rget s 0 BNC_BRINGUP_FAULTED
    ∧ (stateWord s).toNat / 64 % 8 = pwrState s ∧ (stateWord s).toNat / 512 % 2 = rget s 0 CLK_STATUS_SAFE
    ∧ (stateWord s).toNat / 1024 % 2 = rget s 0 BNC_STATUS_THERMSTOP
    ∧ (stateWord s).toNat / 65536 % 16 = rget s 0 BNC_LAST_RESET_CAUSE := by
  have hstep : rget s 0 BNC_BRINGUP_STEP < 16 := rget_lt s 0 BNC_BRINGUP_STEP 0
  have hready : rget s 0 BNC_BRINGUP_READY < 2 := rget_lt s 0 BNC_BRINGUP_READY 0
  have hfaulted : rget s 0 BNC_BRINGUP_FAULTED < 2 := rget_lt s 0 BNC_BRINGUP_FAULTED 0
  have hpower : pwrState s < 8 := rget_lt s 0 PWR_STATUS_STATE 0
  have hsafe : rget s 0 CLK_STATUS_SAFE < 2 := rget_lt s 0 CLK_STATUS_SAFE 0
  have hstop : rget s 0 BNC_STATUS_THERMSTOP < 2 := rget_lt s 0 BNC_STATUS_THERMSTOP 0
  have hbck : rget s 0 CLK_STATUS_LOC_BCK < 2 := rget_lt s 0 CLK_STATUS_LOC_BCK 0
  have href : rget s 0 CLK_STATUS_LOC_REF < 2 := rget_lt s 0 CLK_STATUS_LOC_REF 0
  have hcause : rget s 0 BNC_LAST_RESET_CAUSE < 16 := rget_lt s 0 BNC_LAST_RESET_CAUSE 0
  unfold stateWord
  rw [BitVec.toNat_ofNat]
  refine ⟨?_, ?_, ?_, ?_, ?_, ?_, ?_⟩ <;> omega

section Commands

variable {s : State} {a : BearingArg}

theorem execBearingState_facts (hport : portRuns s = true) (hlong : s.bnc.long = none) :
    ∃ t w, exec .bearingState s = .next t ∧ t.bnc.replies = s.bnc.replies ++ [⟨0, w⟩] ∧ changesOnly [.bnc] s t
      ∧ w.toNat % 16 = rget s 0 BNC_BRINGUP_STEP ∧ w.toNat / 16 % 2 = rget s 0 BNC_BRINGUP_READY
      ∧ w.toNat / 32 % 2 = rget s 0 BNC_BRINGUP_FAULTED ∧ w.toNat / 64 % 8 = pwrState s
      ∧ w.toNat / 512 % 2 = rget s 0 CLK_STATUS_SAFE ∧ w.toNat / 1024 % 2 = rget s 0 BNC_STATUS_THERMSTOP
      ∧ w.toNat / 65536 % 16 = rget s 0 BNC_LAST_RESET_CAUSE :=
  ⟨reply s 0 (stateWord s), stateWord s, congrArg Host.Outcome.next (bearing_kept s _ hport hlong), rfl, only_reply _ _ _,
    stateWord_fields s⟩

/-! ### ROM recovery, LOGREAD and wrong arguments (R443, R462) -/

theorem recovery_fenced (hport : portRuns s = true) (hlong : s.bnc.long = none) (hrecovery : ron s 0 LSR_STATUS_RECOVERY = true) :
    ∀ c ∈ [Instr.logread a, .lifecycleAdvance a, .devtableCommit a, .imageSlotSelect a], exec c s = .next (reply s 3 0) := by
  have hfenced : ∀ f, (Host.Outcome.next (bearing s false f) : Host.Outcome State Fault Refusal) = .next (reply s 3 0) :=
    fun f => congrArg Host.Outcome.next (bearing_rec s f hport hlong hrecovery)
  simp only [List.forall_mem_cons, List.not_mem_nil, false_implies, implies_true, and_true]
  exact ⟨hfenced _, hfenced _, hfenced _, hfenced _⟩

theorem countFlits_only (s : State) (k ch n : Nat) : changesOnly [.regs] s (countFlits s k ch n) :=
  only_frameM (countFlits_frame (fm := [.regs]) s k ch n (.refl _ _) (by decide)) (by decide)

end Commands

section Run

variable {s : State} {a : BearingArg} (hport : portRuns s = true) (hlong : s.bnc.long = none)
  (hrom : ron s 0 LSR_STATUS_RECOVERY = false)
include hport hlong hrom

theorem execLogread_entry {e : LogEntry} (he : s.log.entries[a.addr.toNat / 16]? = some e) :
    exec (.logread a) s = .next (reply (countFlits s 0 3 1) 0
      (BitVec.ofNat 32 (leVal (((entryBytes e).drop (4 * (a.addr.toNat % 16))).take 4)))) := by
  have hlog : (countFlits s 0 3 1).log = s.log := countFlits_only s 0 3 1 .log (by decide)
  refine congrArg Host.Outcome.next ((bearing_run s _ _ hport hlong hrom).trans ?_)
  dsimp only
  rw [hlog, he]

theorem execLifecycleAdvance_wrong (hwrong : a.data ≠ 0x4C434144 ∨ 8 ≤ a.addr.toNat) :
    exec (.lifecycleAdvance a) s = .next (reply s 2 0) :=
  congrArg Host.Outcome.next ((bearing_run s _ _ hport hlong hrom).trans (if_pos hwrong))

theorem execLifecycleAdvance_start (hdata : a.data = 0x4C434144) (haddr : a.addr.toNat < 8) :
    exec (.lifecycleAdvance a) s = .next (startFuses s 0x10 a (advanceLife s a.addr.toNat)) := by
  refine congrArg Host.Outcome.next ((bearing_run s _ _ hport hlong hrom).trans (if_neg ?_))
  rintro (h | h)
  · exact h hdata
  · omega

theorem execFuseProgram_repair (htarget : bitsOf a.addr.toNat 22 2 = 0) (hrow : bitsOf a.addr.toNat 11 11 = 0) :
    exec (.fuseProgram a) s = .next (startFuses s 0x11 a (programRepair s (bitsOf a.addr.toNat 0 11) a.data)) :=
  congrArg Host.Outcome.next ((bearing_run s _ _ hport hlong hrom).trans (if_pos ⟨htarget, hrow⟩))

theorem execFuseProgram_wrong (htarget : 2 ≤ bitsOf a.addr.toNat 22 2) : exec (.fuseProgram a) s = .next (reply s 2 0) := by
  refine congrArg Host.Outcome.next ((bearing_run s _ _ hport hlong hrom).trans ((if_neg ?_).trans (if_neg ?_)))
  · exact fun h => absurd h.1 (by omega)
  · exact fun h => absurd h.1 (by omega)

theorem execDevtableCommit_run : exec (.devtableCommit a) s = .next (if (!s.bnc.commits.isEmpty) = true then replyBusy s 0x12
    else if (maskStacks a.addr).all (baseReach s) = true then
      showMasked { startLong s 0x12 a none with bnc := { (startLong s 0x12 a none).bnc with masked := maskStacks a.addr, maskBad := false } }
    else reply s 3 0) := congrArg Host.Outcome.next (bearing_run s _ _ hport hlong hrom)

theorem execImageSlotSelect_run : exec (.imageSlotSelect a) s
    = .next (if (leadOf s).isNone = true then reply s 3 0 else startLong s 0x13 a none) :=
  congrArg Host.Outcome.next (bearing_run s _ _ hport hlong hrom)

end Run

/-! ### Fuse commands begin (R470) -/

section Fuses

variable {s : State} {a : BearingArg}

theorem startFuses_waits (hbusy : ron s 0 LSR_STATUS_BUSY = true) (op : Byte) (q : State × Nat) :
    startFuses s op a q = replyBusy s op := if_pos hbusy

/-- A fuse command that begins keeps Lodestar BUSY. -/
theorem startFuses_lodestar (hfree : ron s 0 LSR_STATUS_BUSY = false) (op : Byte) (q : State × Nat) :
    rget (startFuses s op a q) 0 LSR_STATUS_BUSY = 1 := by
  obtain ⟨z, hz⟩ : ∃ z, z = rset q.1 0 LSR_STATUS_BUSY := ⟨_, rfl⟩
  obtain ⟨y, hy⟩ : ∃ y : State, y = { z with lsr := { z.lsr with fuses := s.lsr.fuses, burning := some z.lsr.fuses } } := ⟨_, rfl⟩
  have hend : startFuses s op a q = startLong y op a (some q.2) := by
    unfold startFuses
    rw [hfree, hy, hz]
    rfl
  have hword : rget (startLong y op a (some q.2)) 0 LSR_STATUS_BUSY = rget y 0 LSR_STATUS_BUSY := by
    have h : rget (rset (reply y 0 0) 0 BNC_STATUS_LONG_BUSY) 0 LSR_STATUS_BUSY = rget (reply y 0 0) 0 LSR_STATUS_BUSY :=
      rset_ne _ _ _ _ rfl (by decide)
    exact h
  have hyz : rget y 0 LSR_STATUS_BUSY = rget z 0 LSR_STATUS_BUSY := by rw [hy]; rfl
  rw [hend, hword, hyz, hz]
  exact rset_one _ _ _ rfl (by decide)

theorem startFuses_accepted {x : State} {n : Nat} (hfree : ron s 0 LSR_STATUS_BUSY = false) (hx : changesOnly [.regs, .lsr] s x)
    (op : Byte) : Accepted s (startFuses s op a (x, n)) op a ∧ rget (startFuses s op a (x, n)) 0 LSR_STATUS_BUSY = 1
      ∧ (startFuses s op a (x, n)).bnc.longOut = some n := by
  obtain ⟨haccepted, hout⟩ := startFuses_facts s x op a n hx hfree
  exact ⟨haccepted, startFuses_lodestar hfree op (x, n), hout⟩

theorem advanceLife_only (s : State) (n : Nat) : changesOnly [.regs, .lsr] s (advanceLife s n).1 :=
  only_frameM (advanceLife_frame (m := [.regs, .lsr]) s n (.refl _ _) (by decide)) (by decide)

theorem programRepair_only (s : State) (i : Nat) (w : Word) : changesOnly [.regs, .lsr] s (programRepair s i w).1 :=
  only_frameM (programRepair_frame (fm := [.lsr]) s i w (.refl _ _) (by decide)) (by decide)

theorem programSvn_only (s : State) (v : Nat) : changesOnly [.regs, .lsr] s (programSvn s v).1 :=
  only_frameM (programSvn_frame (fm := [.lsr]) s v (.refl _ _) (by decide)) (by decide)

/-- MINSVN is programmed in ROM recovery too. -/
theorem execFuseProgram_svn (hport : portRuns s = true) (hlong : s.bnc.long = none) (htarget : bitsOf a.addr.toNat 22 2 = 1)
    (hrest : bitsOf a.addr.toNat 0 22 = 0) :
    exec (.fuseProgram a) s = .next (startFuses s 0x11 a (programSvn s a.data.toNat)) := by
  refine congrArg Host.Outcome.next ?_
  show bearing s (bitsOf a.addr.toNat 22 2 == 1) _ = _
  rw [htarget]
  exact (bearing_kept s _ hport hlong).trans ((if_neg fun h => absurd h.1 (by decide)).trans (if_pos ⟨rfl, hrest⟩))

end Fuses

/-! ### DEVTABLE_COMMIT and IMAGE_SLOT_SELECT begin (R198, R274) -/

/-- A commit shown in a stack's table leaves every other field of the lead stack. -/
theorem rget_rset_commit (s : State) (k : Nat) {f : Fld} (hlt : f.off + f.stride * 0 < 2 ^ 21)
    (hne : f.off + f.stride * 0 ≠ SXT_STATUS_COMMIT.off) : rget (rset s k SXT_STATUS_COMMIT) 0 f = rget s 0 f := by
  refine rget_of_offs (regsBut_rput0 s k SXT_STATUS_COMMIT 1) 0 f hlt fun q hq => ?_
  rw [List.mem_singleton.mp hq]
  exact ⟨show SXT_STATUS_COMMIT.off < 2 ^ 21 by decide, hne⟩

/-- The commit shown in its stack's table. -/
theorem showMasked_facts (s : State) : (showMasked s).bnc = s.bnc ∧ (showMasked s).lsr = s.lsr
    ∧ rget (showMasked s) 0 BNC_STATUS_LONG_BUSY = rget s 0 BNC_STATUS_LONG_BUSY ∧ changesOnly [.regs] s (showMasked s) := by
  have honly : changesOnly [.regs] s (showMasked s) :=
    only_frameM (showMasked_frame (fm := [.regs]) s (.refl _ _) (by decide)) (by decide)
  refine ⟨honly .bnc (by decide), honly .lsr (by decide), ?_, honly⟩
  unfold showMasked
  split
  · next k l _ => exact rget_rset_commit s k (by decide) (by decide)
  · rfl

theorem accepted_of_startLong (s : State) (op : Byte) (a : BearingArg) (out : Option Nat) : Accepted s (startLong s op a out) op a := by
  obtain ⟨hreply, hlong, hbusy, hlsr, -, honly⟩ := startLong_facts s op a out
  exact ⟨hreply, hlong, hbusy, congrArg LodestarSt.fuses hlsr, only_mono honly (by decide)⟩

theorem commitStarted_accepted (s : State) (a : BearingArg) (l : List Nat) :
    Accepted s (showMasked { startLong s 0x12 a none with bnc := { (startLong s 0x12 a none).bnc with masked := l, maskBad := false } })
      0x12 a := by
  obtain ⟨hreply, hlong, hbusy, hfuses, honly⟩ := accepted_of_startLong s 0x12 a none
  obtain ⟨x, hx⟩ : ∃ x, x = startLong s 0x12 a none := ⟨_, rfl⟩
  rw [← hx] at hreply hlong hbusy hfuses honly ⊢
  obtain ⟨y, hy⟩ : ∃ y : State, y = { x with bnc := { x.bnc with masked := l, maskBad := false } } := ⟨_, rfl⟩
  rw [← hy]
  obtain ⟨mbnc, mlsr, mbusy, monly⟩ := showMasked_facts y
  refine ⟨?_, ?_, ?_, ?_, ?_⟩
  · rw [mbnc, hy]
    exact hreply
  · rw [mbnc, hy]
    exact hlong
  · rw [mbusy, hy]
    exact hbusy
  · rw [mlsr, hy]
    exact hfuses
  · refine only_then (only_then honly (qs := [.bnc]) ?_ (by decide)) monly (by decide)
    rw [hy]
    exact only_bnc _ _

/-! ### A long command ends (R444) -/

section Ends

variable {s : State} {code : Byte} {op : Byte} {addr : BitVec 24} {data : Word}

/-- What stands in BNC_LONG when a long command has ended: its OP and CODE, the port free. -/
def longEnded (s : State) (op : Byte) (code : Nat) : State :=
  let s1 := rput (rput (rput s 0 BNC_LONG_OP op.toNat) 0 BNC_LONG_CODE code) 0 BNC_STATUS_LONG_BUSY 0
  { s1 with bnc := { s1.bnc with long := none, longOut := none } }

theorem execLongdone_ends (hruns : binnacleRuns s = true) (hlong : s.bnc.long = some (op, addr, data))
    (hends : op ≠ 0x13 ∨ ron s (leadStk s) HLM_IMG_STATUS_BUSY = false) : exec (.longdone code) s
      = .next (alert (showCommit (longEnded (finishLong s op addr data code.toNat).1 op (finishLong s op addr data code.toNat).2)) 6) := by
  have hnow : longWaits s op = false := by
    unfold longWaits
    rcases hends with h | h
    · rw [beq_eq_false_iff_ne.mpr h, Bool.false_and]
    · rw [h, Bool.and_false]
  show execLongdone code s = _
  unfold execLongdone
  rw [if_neg (by rw [hruns]; decide), hlong]
  dsimp only
  rw [if_neg (by rw [hnow]; decide)]
  rfl

theorem longEnded_facts (s : State) (op : Byte) (n : Nat) :
    rget (longEnded s op n) 0 BNC_LONG_OP = op.toNat ∧ rget (longEnded s op n) 0 BNC_LONG_CODE = n % 256
      ∧ rget (longEnded s op n) 0 BNC_STATUS_LONG_BUSY = 0
      ∧ (∀ f : Fld, f.off ≠ 0x120014 → f.off ≠ 0x120000 → rget (longEnded s op n) 0 f = rget s 0 f)
      ∧ (longEnded s op n).bnc = { s.bnc with long := none, longOut := none } ∧ (longEnded s op n).lsr = s.lsr
      ∧ changesOnly [.regs, .bnc] s (longEnded s op n) := by
  obtain ⟨x, hx⟩ : ∃ x, x = rput (rput (rput s 0 BNC_LONG_OP op.toNat) 0 BNC_LONG_CODE n) 0 BNC_STATUS_LONG_BUSY 0 := ⟨_, rfl⟩
  have hend : longEnded s op n = { x with bnc := { s.bnc with long := none, longOut := none } } := by rw [hx]; rfl
  have hget : ∀ f : Fld, rget (longEnded s op n) 0 f = rget x 0 f := fun f => by rw [hend]; rfl
  refine ⟨?_, ?_, ?_, fun f h1 h2 => ?_, by rw [hend], by rw [hend, hx]; rfl, ?_⟩
  · rw [hget, hx, rget_rput_ne _ _ _ _ _ rfl (by decide), rget_rput_ne _ _ _ _ _ rfl (by decide)]
    exact rget_rput_same1 _ _ _ _ rfl op.isLt
  · rw [hget, hx, rget_rput_ne _ _ _ _ _ rfl (by decide)]
    exact rget_rput_mod _ _ _ _ rfl
  · rw [hget, hx]
    exact rget_rput_same1 _ _ _ _ rfl (by decide)
  · rw [hget, hx, rget_rput_ne _ _ _ _ _ rfl (.inl h2), rget_rput_ne _ _ _ _ _ rfl (.inl h1), rget_rput_ne _ _ _ _ _ rfl (.inl h1)]
  · rw [hend]
    refine only_then (qs := [.bnc]) ?_ (only_bnc x _) (by decide)
    rw [hx]
    exact only_mono (only_trans (only_trans (only_rput _ _ _ _ _) (only_rput _ _ _ _ _)) (only_rput _ _ _ _ _)) (by decide)

/-- The automatic commit that is shown again, and the alert, change SXT_STATUS and BNC_ALERT alone. -/
theorem shownAlert_facts (s : State) : (∀ f : Fld, f.off + f.stride * 0 < 2 ^ 21 → f.off + f.stride * 0 ≠ SXT_STATUS_COMMIT.off →
      f.off ≠ BNC_ALERT_ALERTS.off → rget (alert (showCommit s) 6) 0 f = rget s 0 f)
    ∧ (rget (alert (showCommit s) 6) 0 BNC_ALERT_ALERTS).testBit 6 = true ∧ (alert (showCommit s) 6).bnc = s.bnc
    ∧ (alert (showCommit s) 6).lsr = s.lsr ∧ changesOnly [.regs] s (alert (showCommit s) 6) := by
  have hshow : changesOnly [.regs] s (showCommit s) :=
    only_frameM (showCommit_frame (fm := [.regs]) s (.refl _ _) (by decide)) (by decide)
  have honly : changesOnly [.regs] s (alert (showCommit s) 6) := only_trans hshow (only_rput _ _ BNC_ALERT_ALERTS _ _)
  refine ⟨fun f hlt hcommit halert => ?_, alert_bit _ 6 (by decide), honly .bnc (by decide), honly .lsr (by decide), honly⟩
  rw [show rget (alert (showCommit s) 6) 0 f = rget (showCommit s) 0 f from rget_rput_ne _ _ _ _ _ rfl (.inl halert)]
  unfold showCommit
  split
  · next k l _ _ => exact rget_rset_commit s k hlt hcommit
  · rfl

/-- What the end of a fuse command leaves. -/
theorem endFuses_facts (s : State) (n : Nat) :
    (endFuses s n).2 = (if n = 17 then 17 else s.bnc.longOut.getD 1)
      ∧ (endFuses s n).1.lsr.fuses = (if n = 17 then s.lsr.fuses else s.lsr.burning.getD s.lsr.fuses)
      ∧ (endFuses s n).1.lsr.burning = none ∧ rget (endFuses s n).1 0 LSR_STATUS_BUSY = 0
      ∧ rget (endFuses s n).1 0 LSR_STATUS_CODE = (endFuses s n).2 % 256 ∧ (endFuses s n).1.bnc = s.bnc
      ∧ changesOnly [.regs, .lsr] s (endFuses s n).1 := by
  refine ⟨rfl, rfl, rfl, ?_, rget_rput_mod _ _ LSR_STATUS_CODE _ rfl, rfl, ?_⟩
  · exact (rget_rput_ne _ _ LSR_STATUS_BUSY LSR_STATUS_CODE _ rfl (by decide)).trans (rget_rput_same1 _ _ _ _ rfl (by decide))
  · exact only_frameM (endFuses_frame (fm := [.regs, .lsr]) s n (.refl _ _) (by decide)) (by decide)

theorem finishLong_fuses (s : State) (addr : BitVec 24) (data : Word) (n : Nat) : finishLong s 0x11 addr data n = endFuses s n :=
  (if_neg (by decide)).trans (if_pos rfl)

/-- The end of a fuse command: its result in BNC_LONG and LSR_STATUS, and its fuses read programmed unless it failed. -/
theorem execLongdone_fuses (hruns : binnacleRuns s = true) (hlong : s.bnc.long = some (0x11, addr, data)) {u : Fuses}
    (hburning : s.lsr.burning = some u) : ∃ t, exec (.longdone code) s = .next t
      ∧ rget t 0 BNC_LONG_OP = 0x11 ∧ rget t 0 BNC_LONG_CODE = (if code.toNat = 17 then 17 else (s.bnc.longOut.getD 1) % 256)
      ∧ t.lsr.fuses = (if code.toNat = 17 then s.lsr.fuses else u) ∧ t.lsr.burning = none
      ∧ rget t 0 LSR_STATUS_BUSY = 0 ∧ rget t 0 LSR_STATUS_CODE = rget t 0 BNC_LONG_CODE
      ∧ rget t 0 BNC_STATUS_LONG_BUSY = 0 ∧ t.bnc.long = none ∧ (rget t 0 BNC_ALERT_ALERTS).testBit 6 = true
      ∧ changesOnly [.regs, .bnc, .lsr] s t := by
  obtain ⟨fcode, ffuses, fburning, fbusy, fresult, -, fonly⟩ := endFuses_facts s code.toNat
  obtain ⟨x, hx⟩ : ∃ x, x = (endFuses s code.toNat).1 := ⟨_, rfl⟩
  obtain ⟨n, hn⟩ : ∃ n, n = (endFuses s code.toNat).2 := ⟨_, rfl⟩
  have hexec : exec (.longdone code) s = .next (alert (showCommit (longEnded x 0x11 n)) 6) := by
    rw [hx, hn, ← finishLong_fuses s addr data]
    exact execLongdone_ends hruns hlong (.inl (by decide))
  rw [← hn] at fcode
  rw [← hx] at ffuses fburning fbusy fonly
  rw [← hx, ← hn] at fresult
  obtain ⟨lop, lcode, lbusy, lkeep, lbnc, llsr, lonly⟩ := longEnded_facts x 0x11 n
  obtain ⟨akeep, aalert, abnc, alsr, aonly⟩ := shownAlert_facts (longEnded x 0x11 n)
  have hcode : n % 256 = if code.toNat = 17 then 17 else (s.bnc.longOut.getD 1) % 256 := by
    rw [fcode]
    split <;> rfl
  refine ⟨_, hexec, (akeep _ (by decide) (by decide) (by decide)).trans lop, ?_, ?_, ?_, ?_, ?_,
    (akeep _ (by decide) (by decide) (by decide)).trans lbusy, ?_, aalert, ?_⟩
  · rw [akeep _ (by decide) (by decide) (by decide), lcode, hcode]
  · rw [alsr, llsr, ffuses, hburning]
    rfl
  · rw [alsr, llsr, fburning]
  · rw [akeep _ (by decide) (by decide) (by decide), lkeep _ (by decide) (by decide), fbusy]
  · rw [akeep _ (by decide) (by decide) (by decide), lkeep _ (by decide) (by decide), fresult,
      akeep _ (by decide) (by decide) (by decide), lcode]
  · rw [abnc, lbnc]
  · exact only_then (only_then (only_mono fonly (by decide)) lonly (by decide)) aonly (by decide)

theorem foldl_endMasked_replies (ok : Nat × Nat → Bool) (l : List (Nat × Nat)) (s : State) :
    (l.foldl (fun s q => endMasked s q.1 (ok q)) s).bnc.replies = s.bnc.replies := by
  induction l generalizing s with
  | nil => rfl
  | cons q l ih => exact (ih _).trans (endMasked_replies s q.1 _)

theorem endMasks_replies (s : State) (w : Word) (fails : Bool) : (endMasks s w fails).bnc.replies = s.bnc.replies := by
  unfold endMasks
  exact foldl_endMasked_replies _ _ s

/-- The end of a DEVTABLE_COMMIT sends no reply. -/
theorem endCommit_replies (s : State) (n : Nat) : (endCommit s n).1.bnc.replies = s.bnc.replies :=
  endMasks_replies { s with free := s.free + 1 } _ _

/-- No long command's end sends a reply. -/
theorem finishLong_replies (s : State) (op : Byte) (addr : BitVec 24) (data : Word) (n : Nat) :
    (finishLong s op addr data n).1.bnc.replies = s.bnc.replies := by
  have hfuses : ((endFuses s n).1).bnc = s.bnc := rfl
  unfold finishLong
  dsimp only
  split
  · rw [drawNonce_only _ .bnc (by decide), hfuses]
  · split
    · rw [hfuses]
    · split
      · exact endCommit_replies s n
      · exact congrArg BinnSt.replies (only_frameM (ps := [.img]) (endSelect_frame (fm := [.img]) s addr data n (.refl _ _) (by decide))
          (by decide) .bnc (by decide))

theorem execLongdone_any (hruns : binnacleRuns s = true) (hlong : s.bnc.long = some (op, addr, data))
    (hends : op ≠ 0x13 ∨ ron s (leadStk s) HLM_IMG_STATUS_BUSY = false) : ∃ t, exec (.longdone code) s = .next t
      ∧ t.bnc.long = none ∧ t.bnc.replies = s.bnc.replies ∧ rget t 0 BNC_LONG_OP = op.toNat
      ∧ changesOnly [.regs, .free, .stk, .img, .log, .bnc, .lsr] s t := by
  have honly : changesOnly [.regs, .free, .stk, .img, .log, .bnc, .lsr] s (finishLong s op addr data code.toNat).1 :=
    only_frameM (finishLong_frame (fm := [.regs, .free, .stk, .img, .log, .bnc, .lsr]) s op addr data code.toNat (.refl _ _) (by decide))
      (by decide)
  have hreplies := finishLong_replies s op addr data code.toNat
  have hexec := execLongdone_ends (code := code) hruns hlong hends
  obtain ⟨q, hq⟩ : ∃ q, q = finishLong s op addr data code.toNat := ⟨_, rfl⟩
  rw [← hq] at honly hreplies hexec
  obtain ⟨lop, -, -, -, lbnc, -, lonly⟩ := longEnded_facts q.1 op q.2
  obtain ⟨akeep, -, abnc, -, aonly⟩ := shownAlert_facts (longEnded q.1 op q.2)
  refine ⟨_, hexec, ?_, ?_, (akeep _ (by decide) (by decide) (by decide)).trans lop,
    only_then (only_then honly lonly (by decide)) aonly (by decide)⟩
  · rw [abnc, lbnc]
  · rw [abnc, lbnc, hreplies]

/-- With no long command in progress it is the automatic commit that ends. -/
theorem execLongdone_auto (hruns : binnacleRuns s = true) (hlong : s.bnc.long = none) :
    exec (.longdone code) s = .next (endAutoCommit s (decide (code.toNat = 1))) := by
  show execLongdone code s = _
  unfold execLongdone
  rw [if_neg (by rw [hruns]; decide), hlong]

theorem endAutoCommit_nil (h : s.bnc.commits = []) (ok : Bool) : endAutoCommit s ok = s := by
  unfold endAutoCommit
  rw [h]

theorem endAutoCommit_cons {k : Nat} {r : List Nat} (h : s.bnc.commits = k :: r) (ok : Bool) :
    endAutoCommit s ok = showCommit (endStackCommit { s with bnc := { s.bnc with commits := r } } k ok) := by
  unfold endAutoCommit
  rw [h]

end Ends

/-! ### The obligation -/

/-- The long commands outside ROM recovery. -/
theorem longCommands_facts (s : State) (a : BearingArg) (hport : portRuns s = true) (hlong : s.bnc.long = none)
    (hrom : ron s 0 LSR_STATUS_RECOVERY = false) :
    (∀ e, s.log.entries[a.addr.toNat / 16]? = some e → exec (.logread a) s = .next (reply (countFlits s 0 3 1) 0
        (BitVec.ofNat 32 (leVal (((entryBytes e).drop (4 * (a.addr.toNat % 16))).take 4)))))
    ∧ ((a.data ≠ 0x4C434144 ∨ 8 ≤ a.addr.toNat) → exec (.lifecycleAdvance a) s = .next (reply s 2 0))
    ∧ (ron s 0 LSR_STATUS_BUSY = true →
        ((a.data = 0x4C434144 ∧ a.addr.toNat < 8) → exec (.lifecycleAdvance a) s = .next (replyBusy s 0x10))
        ∧ (bitsOf a.addr.toNat 22 2 = 0 → bitsOf a.addr.toNat 11 11 = 0 → exec (.fuseProgram a) s = .next (replyBusy s 0x11)))
    ∧ (ron s 0 LSR_STATUS_BUSY = false → a.data = 0x4C434144 → a.addr.toNat < 8 →
        ∃ t, exec (.lifecycleAdvance a) s = .next t ∧ Accepted s t 0x10 a ∧ rget t 0 LSR_STATUS_BUSY = 1
        ∧ t.bnc.longOut = some (advanceLife s a.addr.toNat).2)
    ∧ (2 ≤ bitsOf a.addr.toNat 22 2 → exec (.fuseProgram a) s = .next (reply s 2 0))
    ∧ (ron s 0 LSR_STATUS_BUSY = false → bitsOf a.addr.toNat 22 2 = 0 → bitsOf a.addr.toNat 11 11 = 0 →
        ∃ t, exec (.fuseProgram a) s = .next t ∧ Accepted s t 0x11 a ∧ rget t 0 LSR_STATUS_BUSY = 1
        ∧ t.bnc.longOut = some (programRepair s (bitsOf a.addr.toNat 0 11) a.data).2) := by
  refine ⟨fun e he => execLogread_entry hport hlong hrom he, execLifecycleAdvance_wrong hport hlong hrom,
    fun hbusy => ⟨fun h => ?_, fun h1 h2 => ?_⟩, fun hfree hdata haddr => ?_, execFuseProgram_wrong hport hlong hrom,
    fun hfree h1 h2 => ?_⟩
  · rw [execLifecycleAdvance_start hport hlong hrom h.1 h.2, startFuses_waits hbusy]
  · rw [execFuseProgram_repair hport hlong hrom h1 h2, startFuses_waits hbusy]
  · exact ⟨_, execLifecycleAdvance_start hport hlong hrom hdata haddr, startFuses_accepted hfree (advanceLife_only s _) 0x10⟩
  · exact ⟨_, execFuseProgram_repair hport hlong hrom h1 h2, startFuses_accepted hfree (programRepair_only s _ _) 0x11⟩

/-- DEVTABLE_COMMIT and IMAGE_SLOT_SELECT outside ROM recovery. -/
theorem commitAndSelect_facts (s : State) (a : BearingArg) (hport : portRuns s = true) (hlong : s.bnc.long = none)
    (hrom : ron s 0 LSR_STATUS_RECOVERY = false) :
    (s.bnc.commits = [] → (maskStacks a.addr).all (baseReach s) = false → exec (.devtableCommit a) s = .next (reply s 3 0))
    ∧ (s.bnc.commits = [] → (maskStacks a.addr).all (baseReach s) = true →
        ∃ t, exec (.devtableCommit a) s = .next t ∧ Accepted s t 0x12 a)
    ∧ (s.bnc.commits ≠ [] → ∃ t p, p ≤ 100 ∧ exec (.devtableCommit a) s = .next t
        ∧ t.bnc.replies = s.bnc.replies ++ [⟨1, BitVec.ofNat 32 (0x12 + 256 * p)⟩]
        ∧ regsBut [(0, BNC_BBUSY.off)] s t ∧ changesOnly [.regs, .free, .bnc] s t)
    ∧ (leadOf s = none → exec (.imageSlotSelect a) s = .next (reply s 3 0))
    ∧ (leadOf s ≠ none → ∃ t, exec (.imageSlotSelect a) s = .next t ∧ Accepted s t 0x13 a) := by
  have hcommit := execDevtableCommit_run (a := a) hport hlong hrom
  have hselect := execImageSlotSelect_run (a := a) hport hlong hrom
  refine ⟨fun hnone hreach => ?_, fun hnone hreach => ?_, fun hsome => ?_, fun hlead => ?_, fun hlead => ?_⟩
  · rw [hcommit, if_neg (by rw [hnone]; decide), if_neg (by rw [hreach]; decide)]
  · rw [hcommit, if_neg (by rw [hnone]; decide), if_pos hreach]
    exact ⟨_, rfl, commitStarted_accepted s a _⟩
  · obtain ⟨p, hp, hreplies, -, hregs, honly⟩ := replyBusy_facts s 0x12
    rw [hcommit, if_pos (by simpa using hsome)]
    exact ⟨_, p, hp, rfl, hreplies, hregs, honly⟩
  · rw [hselect, if_pos (by rw [hlead]; rfl)]
  · rw [hselect, if_neg (by simpa using hlead)]
    exact ⟨_, rfl, accepted_of_startLong s 0x13 a none⟩

/-- Settles O52: a busy port, wrong requests, STATE, ROM recovery, the long commands' beginnings and their ends. -/
theorem bearingCommands : Obligations.BearingCommands := by
  unfold Obligations.BearingCommands
  intro s a hport
  refine ⟨fun q => longRuns_facts hport, fun r hcrc => ⟨_, execBearingRequestFormat_crc hport hcrc, rfl, rbump_same _ _ _ _ rfl,
      regsBut_rputm _ _ BNC_BCRC _ _ (by decide), ?badCrc⟩,
    fun hlong => ⟨execBearingState_facts hport hlong, fun hrecovery => ⟨_, rfl, recovery_fenced hport hlong hrecovery⟩,
      fun hrom => ?commands, fun hfree htarget hrest => ?svn⟩,
    fun code addr data => ⟨fun hlong u => execLongdone_fuses hport hlong, fun op => execLongdone_any hport⟩,
    fun hlong code => ⟨fun hnone => ?idle, fun k r hsome => ?auto⟩⟩
  case badCrc => exact only_then (only_mono (only_rbump _ _ _ _) (by decide)) (only_reply _ _ _) (by decide)
  case commands =>
    obtain ⟨h1, h2, h3, h4, h5, h6⟩ := longCommands_facts s a hport hlong hrom
    exact ⟨h1, h2, h3, h4, h5, h6, commitAndSelect_facts s a hport hlong hrom⟩
  case svn =>
    obtain ⟨haccepted, -, hout⟩ := startFuses_accepted (a := a) (n := (programSvn s a.data.toNat).2) hfree
      (programSvn_only s a.data.toNat) 0x11
    exact ⟨_, execFuseProgram_svn hport hlong htarget hrest, haccepted, hout⟩
  case idle => rw [execLongdone_auto hport hlong, endAutoCommit_nil hnone]
  case auto => rw [execLongdone_auto hport hlong, endAutoCommit_cons hsome]

end Sys2Proof.Claims
end

section
/-!
PROOFS. Lodestar's actions (R456, R460, R465, R467) and the test port (R466).
-/

namespace Sys2Proof.Claims

open Sys2Proof Sys2Proof.Machine

/-! ### Words written in a row -/

theorem putWords_append (s : State) (off : Nat) (ws : List Word) (w : Word) :
    putWords s off (ws ++ [w]) = setRword (putWords s off ws) 0 (off + 4 * ws.length) w := by
  unfold putWords
  rw [List.zipIdx_append, List.foldl_append]
  simp

/-- Each word reads back where it was written. -/
theorem putWords_at (s : State) (off : Nat) (ws : List Word) {i : Nat} {w : Word} (h : ws[i]? = some w) :
    rword (putWords s off ws) 0 (off + 4 * i) = w := by
  induction ws using List.reverseRecOn with
  | nil => simp at h
  | append_singleton ws x ih =>
    rw [putWords_append, rword_setRword]
    by_cases hi : i = ws.length
    · rw [if_pos (by rw [hi])]
      simpa [hi] using h
    · have hlt : i < ws.length := by
        have := (List.getElem?_eq_some_iff.mp h).1
        simp only [List.length_append, List.length_singleton] at this
        omega
      rw [if_neg (by rw [regKey_inj]; omega)]
      exact ih (by rwa [List.getElem?_append_left hlt] at h)

theorem putWords_only (s : State) (off : Nat) (ws : List Word) : changesOnly [.regs] s (putWords s off ws) :=
  only_frameM (putWords_frame (fm := [.regs]) s off ws (.refl _ _) (by decide)) (by decide)

/-! ### The secret set is cleared (R460) -/

/-- A clearing leaves the words from LSR_DIKPUB up as they are, but for its own count. -/
theorem clearSecrets_rword (s : State) {a : Nat} (hlow : 0x140100 ≤ a) (hcount : a ≠ 0x140188) :
    rword (clearSecrets s) 0 a = rword s 0 a := by
  obtain ⟨y, hy, z, hz, hend⟩ := clearSecrets_split s
  have hwords : rword z 0 a = rword s 0 a := by
    rw [rword_of_regs (show z.regs = y.regs by rw [hz]), hy,
      putWords_rword _ _ _ _ fun i hi => by rw [List.length_replicate] at hi; omega,
      putWords_rword _ _ _ _ fun i hi => by rw [List.length_replicate] at hi; omega]
  have hbump : rword (rbump z 0 LSR_ZEROISES) 0 a = rword s 0 a :=
    (rword_rput_ne _ _ _ _ _ _ (by rw [Ne, regKey_inj]; exact hcount)).trans hwords
  rw [hend]
  split
  · exact hbump
  · exact (rword_rput_ne _ _ _ _ _ _ (by rw [Ne, regKey_inj]; exact fun h => absurd (hlow.trans_eq h) (by decide))).trans hbump

/-- A clearing leaves the fields of LSR_STATUS but ZFAIL. -/
theorem clearSecrets_status (s : State) {f : Fld} (hoff : f.off + f.stride * 0 = 0x140004) (hf : f.apart LSR_STATUS_ZFAIL = true) :
    rget (clearSecrets s) 0 f = rget s 0 f := by
  obtain ⟨y, hy, z, hz, hend⟩ := clearSecrets_split s
  have hwords : rget z 0 f = rget s 0 f := by
    rw [rget_of_regs (show z.regs = y.regs by rw [hz]), hy,
      putWords_get _ _ _ _ fun i hi => by rw [List.length_replicate] at hi; omega,
      putWords_get _ _ _ _ fun i hi => by rw [List.length_replicate] at hi; omega]
  have hbump : rget (rbump z 0 LSR_ZEROISES) 0 f = rget s 0 f :=
    (rbump_ne _ _ _ _ _ rfl (.inl (by simp only [LSR_ZEROISES]; omega))).trans hwords
  rw [hend]
  split
  · exact hbump
  · exact (rset_ne _ _ _ _ rfl (.inr hf)).trans hbump

/-- A word that does not read back zero sets ZFAIL. -/
theorem clearSecrets_zfail (s : State) (h : Config.clearMisses s.lsr.clears ≠ 0) : rget (clearSecrets s) 0 LSR_STATUS_ZFAIL = 1 := by
  obtain ⟨y, -, z, -, hend⟩ := clearSecrets_split s
  rw [hend, if_neg h]
  exact rset_one _ _ _ rfl (by decide)

/-- The result of an action that clears the secret set. -/
theorem clearResult_facts (s : State) : (clearResult s).lsr = s.lsr.cleared
    ∧ rget (clearResult s) 0 LSR_STATUS_CODE = (if s.lsr.cleared.zlock then 20 else 1)
    ∧ (∀ a, a ≠ 0x140004 → rword (clearResult s) 0 a = rword (clearSecrets s) 0 a)
    ∧ (∀ f : Fld, f.off ≠ LSR_STATUS_CODE.off ∨ f.apart LSR_STATUS_CODE = true → rget (clearResult s) 0 f = rget (clearSecrets s) 0 f)
    ∧ changesOnly [.regs, .lsr] s (clearResult s) := by
  have hlsr := clearSecrets_lsr s
  have hresult : clearResult s = lsrResult (clearSecrets s) (if (clearSecrets s).lsr.zlock then 20 else 1) := rfl
  rw [hlsr] at hresult
  rw [hresult]
  obtain ⟨hcode, hkept, -, honly⟩ := result_facts (clearSecrets s) (if s.lsr.cleared.zlock then 20 else 1) (by split <;> decide)
  exact ⟨hkept.trans hlsr, hcode, fun a ha => result_rword _ _ a ha, fun f hf => rget_rput_ne _ _ _ _ _ rfl hf,
    only_then (clearSecrets_only s) honly (by decide)⟩

/-! ### Actions that are ignored or refused (R460, R470) -/

section Actions

variable {s : State}

theorem lsrAction_busy (hbusy : ron s 0 LSR_STATUS_BUSY = true) (f : State → State) : lsrAction s f = s := by
  unfold lsrAction
  rw [hbusy, Bool.not_true, Bool.and_false]
  rfl

theorem actions_busy (hbusy : ron s 0 LSR_STATUS_BUSY = true) : ∀ c ∈ [Instr.attest, .testreq, .zeroise], exec c s = .next s := by
  have hkept : ∀ f, (Host.Outcome.next (lsrAction s f) : Host.Outcome State Fault Refusal) = .next s :=
    fun f => congrArg Host.Outcome.next (lsrAction_busy hbusy f)
  simp only [List.forall_mem_cons, List.not_mem_nil, false_implies, implies_true, and_true]
  exact ⟨hkept _, hkept _, hkept _⟩

/-- An action's result that changes LSR_STATUS alone; ATTEST clears RPTDONE first. -/
theorem reportResult_facts (s : State) {c : Nat} (hc : c < 256) :
    rget (lsrResult (rput s 0 LSR_STATUS_RPTDONE 0) c) 0 LSR_STATUS_CODE = c
      ∧ rget (lsrResult (rput s 0 LSR_STATUS_RPTDONE 0) c) 0 LSR_STATUS_RPTDONE = 0
      ∧ (lsrResult (rput s 0 LSR_STATUS_RPTDONE 0) c).lsr = s.lsr
      ∧ regsBut [(0, LSR_STATUS_CODE.off)] s (lsrResult (rput s 0 LSR_STATUS_RPTDONE 0) c)
      ∧ changesOnly [.regs] s (lsrResult (rput s 0 LSR_STATUS_RPTDONE 0) c) := by
  obtain ⟨hcode, hlsr, hregs, honly⟩ := result_facts (rput s 0 LSR_STATUS_RPTDONE 0) c hc
  refine ⟨hcode, ?_, hlsr, ?_, ?_⟩
  · exact (rget_rput_ne _ _ LSR_STATUS_RPTDONE LSR_STATUS_CODE _ rfl (.inr (by decide))).trans
      (rget_rput_same1 _ _ _ _ rfl (by decide))
  · exact regsBut_trans (regsBut_rputm _ _ LSR_STATUS_RPTDONE _ _ (by decide)) hregs
  · exact only_trans (only_rput _ _ LSR_STATUS_RPTDONE _ _) honly

section Free

variable (hup : islandUp s = true) (hfree : ron s 0 LSR_STATUS_BUSY = false)
include hup hfree

theorem execAttest_run : exec .attest s = .next (attest s) := congrArg Host.Outcome.next (lsrAction_run s attest hup hfree)

theorem execTestreq_run : exec .testreq s = .next (testRequest s) :=
  congrArg Host.Outcome.next (lsrAction_run s testRequest hup hfree)

theorem execZeroise_run : exec .zeroise s = .next (zeroise s) := congrArg Host.Outcome.next (lsrAction_run s zeroise hup hfree)

/-- After a clearing that failed twice every action ends with ZFAIL. -/
theorem actions_locked (hlock : s.lsr.zlock = true) : ∀ c ∈ [Instr.attest, .testreq, .zeroise], ∃ t, exec c s = .next t
    ∧ rget t 0 LSR_STATUS_CODE = 20 ∧ t.lsr = s.lsr ∧ regsBut [(0, LSR_STATUS_CODE.off)] s t ∧ changesOnly [.regs] s t := by
  obtain ⟨acode, -, alsr, aregs, aonly⟩ := reportResult_facts s (c := 20) (by decide)
  have hattest : attest s = lsrResult (rput s 0 LSR_STATUS_RPTDONE 0) 20 := if_pos hlock
  have htest : testRequest s = lsrResult s 20 := if_pos hlock
  have hzeroise : zeroise s = lsrResult s 20 := if_pos hlock
  have hresult := result_facts s 20 (by decide)
  simp only [List.forall_mem_cons, List.not_mem_nil, false_implies, implies_true, and_true]
  refine ⟨⟨_, execAttest_run hup hfree, ?_⟩, ⟨_, execTestreq_run hup hfree, ?_⟩, ⟨_, execZeroise_run hup hfree, ?_⟩⟩
  · rw [hattest]
    exact ⟨acode, alsr, aregs, aonly⟩
  · rw [htest]
    exact hresult
  · rw [hzeroise]
    exact hresult

end Free

/-! ### The attestation report (R465) -/

/-- The report stands in LSR_REPORT, counted, before the secret set is cleared. -/
def reported (s : State) (words : List Nat) (work : List Byte) : State :=
  rbump (rset (putWords { rput s 0 LSR_STATUS_RPTDONE 0 with lsr := { s.lsr with dikCopy := s.lsr.fuses.dik, work := work } } 0x141000
    (words.map fun w => BitVec.ofNat 32 w)) 0 LSR_STATUS_RPTDONE) 0 LSR_ATTESTS

theorem reported_facts (s : State) (words : List Nat) (work : List Byte) :
    rget (reported s words work) 0 LSR_STATUS_RPTDONE = 1
      ∧ rget (reported s words work) 0 LSR_ATTESTS = (rget s 0 LSR_ATTESTS + 1) % 2 ^ 32
      ∧ (∀ i w, words[i]? = some w → rword (reported s words work) 0 (0x141000 + 4 * i) = BitVec.ofNat 32 w)
      ∧ (reported s words work).lsr.cleared = s.lsr.cleared ∧ changesOnly [.regs, .lsr] s (reported s words work) := by
  obtain ⟨x, hx⟩ : ∃ x : State, x = { rput s 0 LSR_STATUS_RPTDONE 0 with
    lsr := { s.lsr with dikCopy := s.lsr.fuses.dik, work := work } } := ⟨_, rfl⟩
  obtain ⟨y, hy⟩ : ∃ y, y = putWords x 0x141000 (words.map fun w => BitVec.ofNat 32 w) := ⟨_, rfl⟩
  have hend : reported s words work = rbump (rset y 0 LSR_STATUS_RPTDONE) 0 LSR_ATTESTS := by rw [hy, hx]; rfl
  have hxonly : changesOnly [.regs, .lsr] s x := by
    rw [hx]
    exact only_then (only_mono (only_rput s 0 LSR_STATUS_RPTDONE 0 0) (by decide)) (only_lsr _ _) (by decide)
  have hcount : rget x 0 LSR_ATTESTS = rget s 0 LSR_ATTESTS := by
    rw [hx]
    exact rget_rput_ne s 0 _ LSR_STATUS_RPTDONE 0 rfl (.inl (by decide))
  have hyonly : changesOnly [.regs] x y := by
    rw [hy]
    exact putWords_only _ _ _
  rw [hend]
  refine ⟨?_, ?_, fun i w hw => ?_, ?_, ?_⟩
  · rw [rbump_ne _ _ _ _ _ rfl (.inl (by decide))]
    exact rset_one _ _ _ rfl (by decide)
  · rw [rbump_same _ _ _ _ rfl, rset_ne _ _ _ _ rfl (.inl (by decide)), hy,
      putWords_get _ _ _ _ fun i _ => by simp only [LSR_ATTESTS]; omega, hcount]
    rfl
  · have hwords : rword y 0 (0x141000 + 4 * i) = BitVec.ofNat 32 w := by
      rw [hy]
      exact putWords_at _ _ _ (by rw [List.getElem?_map, hw]; rfl)
    refine (rword_rput_ne _ _ _ _ _ _ ?_).trans ((rword_rput_ne _ _ _ _ _ _ ?_).trans hwords)
    · rw [Ne, regKey_inj]
      simp only [LSR_ATTESTS]
      omega
    · rw [Ne, regKey_inj]
      simp only [LSR_STATUS_RPTDONE]
      omega
  · show y.lsr.cleared = _
    rw [show y.lsr = x.lsr from hyonly .lsr (by decide), hx]
    rfl
  · exact only_then (only_then hxonly hyonly (by decide))
      (only_trans (only_rput _ _ LSR_STATUS_RPTDONE _ _) (only_rbump _ _ _ _)) (by decide)

/-! ### ZEROISE, ATTEST and TESTREQ run (R460, R465, R467) -/

section Run

variable (hup : islandUp s = true) (hfree : ron s 0 LSR_STATUS_BUSY = false) (hopen : s.lsr.zlock = false)
include hup hfree hopen

theorem execZeroise_facts : ∃ t, exec .zeroise s = .next t ∧ t.lsr = s.lsr.cleared
    ∧ rget t 0 LSR_STATUS_CODE = (if s.lsr.cleared.zlock then 20 else 1)
    ∧ (Config.clearMisses s.lsr.clears ≠ 0 → rget t 0 LSR_STATUS_ZFAIL = 1)
    ∧ rget t 0 LSR_ZEROISES = (rget s 0 LSR_ZEROISES + 1) % 2 ^ 32
    ∧ (∀ i, i < 8 → rword t 0 (0x140020 + 4 * i) = 0) ∧ (∀ i, i < 32 → rword t 0 (0x140080 + 4 * i) = 0)
    ∧ changesOnly [.regs, .lsr] s t := by
  have hrun : zeroise s = clearResult s := if_neg (by rw [hopen]; decide)
  obtain ⟨hlsr, hcode, hword, hfield, honly⟩ := clearResult_facts s
  obtain ⟨hcount, hnonce, hstage⟩ := clearSecrets_words s
  refine ⟨clearResult s, by rw [execZeroise_run hup hfree, hrun], hlsr, hcode, fun hmiss => ?_, ?_, fun i hi => ?_, fun i hi => ?_, honly⟩
  · rw [hfield _ (.inr (by decide)), clearSecrets_zfail s hmiss]
  · rw [hfield _ (.inl (by decide)), hcount]
  · rw [hword _ (by omega), hnonce i hi]
  · rw [hword _ (by omega), hstage i hi]

theorem execAttest_refused (hstate : lcState s.lsr.fuses = 0 ∨ lcState s.lsr.fuses = 4 ∨ s.lsr.testmode = true) :
    ∃ t, exec .attest s = .next t ∧ rget t 0 LSR_STATUS_CODE = 16 ∧ rget t 0 LSR_STATUS_RPTDONE = 0 ∧ t.lsr = s.lsr
      ∧ changesOnly [.regs] s t := by
  have hrun : attest s = lsrResult (rput s 0 LSR_STATUS_RPTDONE 0) 16 := (if_neg (by rw [hopen]; decide)).trans (if_pos hstate)
  obtain ⟨hcode, hdone, hlsr, -, honly⟩ := reportResult_facts s (c := 16) (by decide)
  exact ⟨_, (execAttest_run hup hfree).trans (congrArg Host.Outcome.next hrun), hcode, hdone, hlsr, honly⟩

/-- ATTEST: the signed report stands, and the secret set is cleared. -/
theorem execAttest_facts (hraw : lcState s.lsr.fuses ≠ 0) (hdecom : lcState s.lsr.fuses ≠ 4) (htest : s.lsr.testmode = false)
    {words : List Nat} (hwords : words = wordsOf (reportBody (rput s 0 LSR_STATUS_RPTDONE 0)
      ++ beBytes 96 (Config.ecdsaSign s.lsr.fuses.dik (Config.sha384 (reportBody (rput s 0 LSR_STATUS_RPTDONE 0)))).toNat)) :
    ∃ t, exec .attest s = .next t ∧ rget t 0 LSR_STATUS_RPTDONE = 1 ∧ rget t 0 LSR_ATTESTS = (rget s 0 LSR_ATTESTS + 1) % 2 ^ 32
      ∧ (∀ i w, words[i]? = some w → rword t 0 (0x141000 + 4 * i) = BitVec.ofNat 32 w)
      ∧ rget t 0 LSR_STATUS_CODE = (if s.lsr.cleared.zlock then 20 else 1) ∧ t.lsr = s.lsr.cleared
      ∧ changesOnly [.regs, .lsr] s t := by
  obtain ⟨work, hwork⟩ : ∃ work, work = beBytes 48 (Config.sha384 (reportBody (rput s 0 LSR_STATUS_RPTDONE 0))).toNat := ⟨_, rfl⟩
  have hallowed : ¬(lcState s.lsr.fuses = 0 ∨ lcState s.lsr.fuses = 4 ∨ s.lsr.testmode = true) := by
    simp [hraw, hdecom, htest]
  have hrun : attest s = clearResult (reported s words work) := by
    rw [hwords, hwork]
    exact (if_neg (by rw [hopen]; decide)).trans (if_neg hallowed)
  obtain ⟨rdone, rcount, rwords, rcleared, ronly⟩ := reported_facts s words work
  obtain ⟨x, hx⟩ : ∃ x, x = reported s words work := ⟨_, rfl⟩
  rw [← hx] at rdone rcount rwords rcleared ronly hrun
  obtain ⟨hlsr, hcode, hword, hfield, honly⟩ := clearResult_facts x
  rw [rcleared] at hlsr hcode
  refine ⟨_, (execAttest_run hup hfree).trans (congrArg Host.Outcome.next hrun), ?_, ?_, fun i w hw => ?_, hcode, hlsr,
    only_then ronly honly (by decide)⟩
  · rw [hfield _ (.inr (by decide)), clearSecrets_status x rfl (by decide), rdone]
  · rw [← rcount]
    exact (hfield LSR_ATTESTS (.inl (by decide))).trans
      (congrArg (fldOf LSR_ATTESTS) (clearSecrets_rword x (a := 0x14018C) (by decide) (by decide)))
  · rw [hword _ (by omega), clearSecrets_rword x (by omega) (by omega), rwords i w hw]

theorem execTestreq_facts (hstate : lcState s.lsr.fuses = 0 ∨ lcState s.lsr.fuses = 3) (hberths : berthsLive s = false) :
    ∃ t, exec .testreq s = .next t ∧ rget t 0 LSR_STATUS_CODE = (if s.lsr.cleared.zlock then 20 else 1)
      ∧ t.lsr = { s.lsr.cleared with testmode := s.lsr.testmode || !s.lsr.cleared.zlock } ∧ changesOnly [.regs, .lsr] s t := by
  obtain ⟨hlsr, hcode, -, -, honly⟩ := clearResult_facts s
  obtain ⟨x, hx⟩ : ∃ x, x = clearResult s := ⟨_, rfl⟩
  have hrun : testRequest s = { x with lsr := { x.lsr with testmode := x.lsr.testmode || !x.lsr.zlock } } := by
    rw [hx]
    exact (if_neg (by rw [hopen]; decide)).trans (if_pos ⟨hstate, by rw [hberths]; rfl⟩)
  rw [← hx] at hlsr hcode honly
  refine ⟨_, (execTestreq_run hup hfree).trans (congrArg Host.Outcome.next hrun), hcode, ?_, only_then honly (only_lsr x _) (by decide)⟩
  rw [hlsr]
  rfl

theorem execTestreq_refused (hstate : lcState s.lsr.fuses ≠ 0 ∧ lcState s.lsr.fuses ≠ 3 ∨ berthsLive s = true) :
    ∃ t, exec .testreq s = .next t ∧ rget t 0 LSR_STATUS_CODE = 16 ∧ t.lsr = s.lsr ∧ changesOnly [.regs] s t := by
  have hrefused : ¬((lcState s.lsr.fuses = 0 ∨ lcState s.lsr.fuses = 3) ∧ (!berthsLive s) = true) := by
    rintro ⟨hallowed, hberths⟩
    rcases hstate with ⟨h0, h3⟩ | hlive
    · exact hallowed.elim h0 h3
    · rw [hlive] at hberths
      cases hberths
  have hrun : testRequest s = lsrResult s 16 := (if_neg (by rw [hopen]; decide)).trans (if_neg hrefused)
  obtain ⟨hcode, hlsr, -, honly⟩ := result_facts s 16 (by decide)
  exact ⟨_, (execTestreq_run hup hfree).trans (congrArg Host.Outcome.next hrun), hcode, hlsr, honly⟩

end Run

/-! ### The test port (R466) -/

theorem selectTap_only (s : State) (ir : TapIr) (dr : Word) : changesOnly [.tap] s (selectTap s ir dr) :=
  only_frameM (selectTap_frame (fm := [.tap]) s ir dr (.refl _ _) (by decide)) (by decide)

/-- Without TESTMODE the boundary instructions select BYPASS. -/
theorem tapBoundary_closed (htest : s.lsr.testmode = false) : ∀ c ∈ [Instr.tapSamplePreload, .tapExtest], ∃ t, exec c s = .next t
    ∧ t.tap = ⟨.bypass, 0⟩ ∧ changesOnly [.tap] s t := by
  have hclosed : ∀ u, (Host.Outcome.next (if s.lsr.testmode = true then u else selectTap s .bypass 0)
      : Host.Outcome State Fault Refusal) = .next (selectTap s .bypass 0) := fun u => by rw [htest]; rfl
  simp only [List.forall_mem_cons, List.not_mem_nil, false_implies, implies_true, and_true]
  exact ⟨⟨_, hclosed _, rfl, selectTap_only _ _ _⟩, ⟨_, hclosed _, rfl, selectTap_only _ _ _⟩⟩

/-- With TESTMODE a boundary instruction is selected; what its register captures is free. -/
theorem tapBoundary_open (htest : s.lsr.testmode = true) (ir : TapIr) : ∃ t, (Host.Outcome.next (if s.lsr.testmode = true
      then selectTap { s with free := s.free + 1 } ir (Config.freeWord s.free) else selectTap s .bypass 0)
      : Host.Outcome State Fault Refusal) = .next t ∧ t.tap.ir = ir ∧ changesOnly [.tap, .free] s t :=
  ⟨_, congrArg Host.Outcome.next (if_pos htest), rfl, only_then (only_mono (only_free s _) (by decide)) (selectTap_only _ _ _) (by decide)⟩

end Actions

end Sys2Proof.Claims
end

section
/-!
PROOFS. Lodestar's loads of key manifests and firmware bundles (R459, R463), and the obligation on Lodestar and the test port.
-/

namespace Sys2Proof.Claims

open Sys2Proof Sys2Proof.Machine

/-! ### A load reads its source (R459) -/

theorem readSource_only (s : State) : changesOnly [.regs, .vil] s (readSource s) :=
  only_frameM (readSource_frame (fm := [.regs, .vil]) s (.refl _ _) (by decide)) (by decide)

theorem request_regs (s : State) (h opc addr len aux : Nat) (data : List Byte) (why : VPurpose) :
    regsBut lnkSentWords s (request s h opc addr len aux data why) := by
  unfold request
  dsimp only
  split
  · exact regsBut_trans (regsBut_of_regs rfl _) (sendMsg_regs _ _)
  · exact regsBut_of_regs rfl _

/-- The reads of a source count flits, and touch no other register. -/
theorem readSource_regs (s : State) : regsBut lnkSentWords s (readSource s) := by
  unfold readSource
  exact mem_regs_foldl _ _ _ (fun i _ s => request_regs s _ _ _ _ _ _ _) s

theorem rget_readSource (s : State) {f : Fld} (hlt : f.off + f.stride * 0 < 2 ^ 21)
    (hne : ∀ q ∈ lnkSentWords, q.2 < 2 ^ 21 ∧ f.off + f.stride * 0 ≠ q.2) : rget (readSource s) 0 f = rget s 0 f :=
  rget_of_offs (readSource_regs s) 0 f hlt hne

theorem startLoad_only (s : State) (fw : Bool) : changesOnly [.regs, .vil, .lsr] s (startLoad s fw) :=
  only_frameM (startLoad_frame (fm := [.regs, .vil, .lsr]) s fw (.refl _ _) (by decide)) (by decide)

theorem startLoad_split (s : State) (fw : Bool) : ∃ x, x = readSource s
    ∧ startLoad s fw = { rset x 0 LSR_STATUS_BUSY with lsr := { x.lsr with loading := some fw } } := ⟨_, rfl, rfl⟩

theorem startLoad_lsr (s : State) (fw : Bool) : (startLoad s fw).lsr = { s.lsr with loading := some fw } := by
  have hkept : (readSource s).lsr = s.lsr := readSource_only s .lsr (by decide)
  obtain ⟨x, hx, hstart⟩ := startLoad_split s fw
  rw [← hx] at hkept
  rw [hstart, ← hkept]

theorem startLoad_busy (s : State) (fw : Bool) : rget (startLoad s fw) 0 LSR_STATUS_BUSY = 1 := by
  obtain ⟨x, -, hstart⟩ := startLoad_split s fw
  rw [hstart]
  exact rset_one x 0 LSR_STATUS_BUSY rfl (by decide)

theorem rget_startLoad (s : State) (fw : Bool) {f : Fld} (hlt : f.off + f.stride * 0 < 2 ^ 21)
    (hne : ∀ q ∈ lnkSentWords, q.2 < 2 ^ 21 ∧ f.off + f.stride * 0 ≠ q.2) (hbusy : f.off ≠ LSR_STATUS_BUSY.off) :
    rget (startLoad s fw) 0 f = rget s 0 f := by
  have hread := rget_readSource s hlt hne
  obtain ⟨x, hx, hstart⟩ := startLoad_split s fw
  rw [← hx] at hread
  rw [hstart]
  exact (rset_ne x 0 f LSR_STATUS_BUSY rfl (.inl hbusy)).trans hread

/-- A load's bytes have come: Lodestar is no longer busy, and takes them next. -/
def loadRead (s : State) (fw : Bool) : State :=
  { rput (startLoad s fw) 0 LSR_STATUS_BUSY 0 with lsr := { (startLoad s fw).lsr with loading := none } }

theorem loadRead_facts (s : State) (fw : Bool) (hnone : s.lsr.loading = none) : (loadRead s fw).lsr = s.lsr
    ∧ (loadRead s fw).vil = (startLoad s fw).vil ∧ rget (loadRead s fw) 0 LSR_STATUS_BUSY = 0
    ∧ rget (loadRead s fw) 0 LSR_SIGFAIL = rget s 0 LSR_SIGFAIL
    ∧ rget (loadRead s fw) 0 LSR_SRCLEN_LEN = rget s 0 LSR_SRCLEN_LEN ∧ changesOnly [.regs, .vil] s (loadRead s fw) := by
  have hstart := startLoad_lsr s fw
  have hfail := rget_startLoad s fw (f := LSR_SIGFAIL) (by decide) (by decide) (by decide)
  have hlen := rget_startLoad s fw (f := LSR_SRCLEN_LEN) (by decide) (by decide) (by decide)
  have honly := startLoad_only s fw
  unfold loadRead
  obtain ⟨x, hx⟩ : ∃ x, x = startLoad s fw := ⟨_, rfl⟩
  rw [← hx] at hstart hfail hlen honly ⊢
  have hlsr : ({ x.lsr with loading := none } : LodestarSt) = s.lsr := by rw [hstart, ← hnone]
  refine ⟨hlsr, rfl, rget_rput_same1 x 0 LSR_STATUS_BUSY 0 rfl (by decide),
    (rget_rput_ne x 0 LSR_SIGFAIL LSR_STATUS_BUSY 0 rfl (.inl (by decide))).trans hfail,
    (rget_rput_ne x 0 LSR_SRCLEN_LEN LSR_STATUS_BUSY 0 rfl (.inl (by decide))).trans hlen, fun p hp => ?_⟩
  by_cases hpart : p = .lsr
  · rw [hpart]
    exact hlsr
  · exact only_then (only_then honly (only_rput x 0 LSR_STATUS_BUSY 0 0) (by decide)) (only_lsr _ _) (by decide) p
      (by simp only [List.mem_cons, List.not_mem_nil, or_false] at hp ⊢; tauto)

section Run

variable {s : State} (hup : islandUp s = true) (hfree : ron s 0 LSR_STATUS_BUSY = false) (hnone : s.lsr.loading = none)
include hup hfree hnone

theorem loadBytes_run (fw : Bool) (f : State → State) : loadBytes s fw f = f (loadRead s fw) :=
  (if_neg (by rw [hnone]; nofun)).trans (lsrAction_run s _ hup hfree)

theorem execMfLoad_run (bytes : List Byte) : exec (.mfLoad bytes) s
    = .next (loadManifest (loadRead s false) (bytes.take (rget s 0 LSR_SRCLEN_LEN))) := by
  obtain ⟨-, -, -, -, hlen, -⟩ := loadRead_facts s false hnone
  rw [← hlen]
  exact congrArg Host.Outcome.next (loadBytes_run hup hfree hnone false _)

theorem execFwLoad_run (bytes : List Byte) : exec (.fwLoad bytes) s
    = .next (loadFirmware (loadRead s true) (bytes.take (rget s 0 LSR_SRCLEN_LEN))) := by
  obtain ⟨-, -, -, -, hlen, -⟩ := loadRead_facts s true hnone
  rw [← hlen]
  exact congrArg Host.Outcome.next (loadBytes_run hup hfree hnone true _)

end Run

/-! ### What a check reads, and how it is counted -/

section Congruence

variable {s t : State} (h : t.lsr = s.lsr)
include h

theorem manifestValid_of_lsr (bs : List Byte) : manifestValid t bs = manifestValid s bs := by
  unfold manifestValid
  rw [h]

theorem mfNow_of_lsr : mfNow t = mfNow s := by
  have hcopy : mfCopy t = mfCopy s := by
    funext b
    unfold mfCopy
    rw [h]
  unfold mfNow
  rw [h, hcopy]

theorem bundleCode_of_lsr (bs : List Byte) : bundleCode t bs = bundleCode s bs := by
  unfold bundleCode keyGenuine
  rw [h]

theorem fwCopy_of_lsr (b : Bool) : fwCopy t b = fwCopy s b := by
  unfold fwCopy
  rw [h]

end Congruence

/-- A check that is counted, or is none, changes the counters alone. -/
theorem counted_facts (s : State) (b g : Bool) : (if b = true then countVerify s g else s).lsr = s.lsr
    ∧ rget (if b = true then countVerify s g else s) 0 LSR_STATUS_BUSY = rget s 0 LSR_STATUS_BUSY
    ∧ rget (if b = true then countVerify s g else s) 0 LSR_SIGFAIL = (rget s 0 LSR_SIGFAIL + bit (b && !g)) % 2 ^ 32
    ∧ changesOnly [.regs] s (if b = true then countVerify s g else s) := by
  have hkept : rget s 0 LSR_SIGFAIL = (rget s 0 LSR_SIGFAIL + 0) % 2 ^ 32 := (Nat.mod_eq_of_lt (rget_lt s 0 LSR_SIGFAIL 0)).symm
  cases b with
  | false => exact ⟨rfl, rfl, hkept, only_refl _ s⟩
  | true =>
    rw [if_pos rfl]
    obtain ⟨hlsr, honly, hfail⟩ := countVerify_facts s g
    refine ⟨hlsr, ?_, ?_, honly⟩
    · unfold countVerify
      dsimp only
      split
      · exact rbump_ne _ _ _ _ _ rfl (.inl (by decide))
      · exact (rbump_ne _ _ _ _ _ rfl (.inl (by decide))).trans (rbump_ne _ _ _ _ _ rfl (.inl (by decide)))
    · cases g with
      | false => exact hfail rfl
      | true => exact (rbump_ne s 0 LSR_SIGFAIL LSR_VERIFIES 1 rfl (.inl (by decide))).trans hkept

theorem rget_lsrResult (s : State) (c : Nat) {f : Fld} (h : f.off ≠ LSR_STATUS_CODE.off ∨ f.apart LSR_STATUS_CODE = true) :
    rget (lsrResult s c) 0 f = rget s 0 f := rget_rput_ne _ _ _ _ _ rfl h

theorem norFailed_busy (s : State) : rget (norFailed s) 0 LSR_STATUS_BUSY = rget s 0 LSR_STATUS_BUSY :=
  rget_lsrResult { s with free := s.free + 1 } _ (.inr (by decide))

theorem norHolds_of_free {s t : State} (h : t.free = s.free) : norHolds t = norHolds s := by
  unfold norHolds
  rw [h]

/-! ### Key manifests (R459) -/

section Manifests

variable {s : State} {bs : List Byte}

/-- Whether a manifest is later than the one in force. -/
def laterManifest (s : State) (bs : List Byte) : Prop :=
  ∀ m, mfNow s = some m → laterWatch (manifestSeq bs) (manifestSeq m) = true

/-- `laterManifest`, as the load decides it. -/
def isLaterManifest (s : State) (bs : List Byte) : Bool :=
  match mfNow s with
  | some m => laterWatch (manifestSeq bs) (manifestSeq m)
  | none => true

theorem isLaterManifest_iff (s : State) (bs : List Byte) : isLaterManifest s bs = true ↔ laterManifest s bs := by
  unfold isLaterManifest laterManifest
  cases mfNow s with
  | none => simp
  | some m => simp

/-- The manifest copy that is not in force. -/
def spareManifest (s : State) : Bool :=
  match s.lsr.mfInForce with
  | some x => !x
  | none => false

/-- The machine once the check of a manifest is counted. -/
def manifestChecked (s : State) (bs : List Byte) : State :=
  if manifestShape bs = true then countVerify s (manifestValid s bs) else s

theorem manifestChecked_facts (s : State) (bs : List Byte) : (manifestChecked s bs).lsr = s.lsr
    ∧ rget (manifestChecked s bs) 0 LSR_STATUS_BUSY = rget s 0 LSR_STATUS_BUSY
    ∧ rget (manifestChecked s bs) 0 LSR_SIGFAIL = (rget s 0 LSR_SIGFAIL + bit (manifestShape bs && !manifestValid s bs)) % 2 ^ 32
    ∧ changesOnly [.regs] s (manifestChecked s bs) := counted_facts s _ _

theorem loadManifest_refused (hopen : s.lsr.zlock = false) (h : manifestValid s bs = false ∨ ¬laterManifest s bs) :
    loadManifest s bs = lsrResult (manifestChecked s bs) 8 := by
  refine (if_neg (by rw [hopen]; decide)).trans (if_pos ?_)
  rw [Bool.or_eq_true]
  refine h.imp (fun hvalid => by rw [hvalid]; rfl) fun hlater => ?_
  rw [Bool.not_eq_true', ← Bool.not_eq_true]
  exact fun hh => hlater ((isLaterManifest_iff s bs).mp hh)

section Passes

variable (hopen : s.lsr.zlock = false) (hvalid : manifestValid s bs = true) (hlater : laterManifest s bs)
include hopen hvalid hlater

theorem loadManifest_passes : loadManifest s bs = if norHolds (manifestChecked s bs) = true
    then lsrResult (rset { writeManifest (afterNor (manifestChecked s bs)) (spareManifest s) (some bs) with
      lsr := { (writeManifest (afterNor (manifestChecked s bs)) (spareManifest s) (some bs)).lsr with
        mfInForce := some (spareManifest s) } } 0 LSR_STATUS_MFVALID) 1
    else norFailed (writeManifest (afterNor (manifestChecked s bs)) (spareManifest s) none) := by
  refine (if_neg (by rw [hopen]; decide)).trans ((if_neg ?_).trans rfl)
  rw [hvalid, Bool.not_true, Bool.false_or, Bool.not_eq_true', Bool.not_eq_false]
  exact (isLaterManifest_iff s bs).mpr hlater

/-- A manifest that reads back comes into force. -/
theorem loadManifest_holds (hnor : norHolds s = true) : rget (loadManifest s bs) 0 LSR_STATUS_CODE = 1
    ∧ rget (loadManifest s bs) 0 LSR_STATUS_MFVALID = 1 ∧ mfNow (loadManifest s bs) = some bs := by
  obtain ⟨-, -, -, conly⟩ := manifestChecked_facts s bs
  obtain ⟨x, hx⟩ : ∃ x, x = manifestChecked s bs := ⟨_, rfl⟩
  have hrun := loadManifest_passes hopen hvalid hlater
  rw [← hx] at conly hrun
  rw [if_pos ((norHolds_of_free (conly .free (by decide))).trans hnor)] at hrun
  rw [hrun]
  refine ⟨rget_rput_same1 _ _ LSR_STATUS_CODE _ rfl (by decide), ?_, ?_⟩
  · rw [rget_lsrResult _ _ (.inr (by decide))]
    exact rset_one _ _ _ rfl (by decide)
  · cases hspare : spareManifest s <;> rfl

/-- A manifest that does not read back leaves the copy in force, and the spare one invalid. -/
theorem loadManifest_fails (hnor : norHolds s = false) : (∀ m, mfNow s = some m → mfNow (loadManifest s bs) = some m)
    ∧ (s.lsr.mfInForce ≠ some true → (if s.lsr.mfInForce = none then (loadManifest s bs).lsr.mfA else (loadManifest s bs).lsr.mfB) = none)
    ∧ (s.lsr.mfInForce = some true → (loadManifest s bs).lsr.mfA = none) := by
  obtain ⟨clsr, -, -, conly⟩ := manifestChecked_facts s bs
  obtain ⟨x, hx⟩ : ∃ x, x = manifestChecked s bs := ⟨_, rfl⟩
  have hrun := loadManifest_passes hopen hvalid hlater
  rw [← hx] at clsr conly hrun
  rw [if_neg (by rw [norHolds_of_free (conly .free (by decide)), hnor]; decide)] at hrun
  have hlsr : (loadManifest s bs).lsr = { s.lsr with
      mfA := if spareManifest s = true then s.lsr.mfA else none, mfB := if spareManifest s = true then none else s.lsr.mfB } := by
    rw [hrun, ← clsr]
    rfl
  unfold mfNow mfCopy
  rw [hlsr]
  unfold spareManifest
  rcases hforce : s.lsr.mfInForce with _ | b
  · simp
  · cases b <;> simp

theorem loadManifest_firmware : (loadManifest s bs).lsr.fwA = s.lsr.fwA ∧ (loadManifest s bs).lsr.fwB = s.lsr.fwB := by
  obtain ⟨clsr, -, -, -⟩ := manifestChecked_facts s bs
  rw [loadManifest_passes hopen hvalid hlater, ← clsr]
  split <;> exact ⟨rfl, rfl⟩

end Passes

theorem loadManifest_only (s : State) (bs : List Byte) : changesOnly [.regs, .free, .lsr] s (loadManifest s bs) :=
  only_frameM (loadManifest_frame (fm := [.regs, .free, .lsr]) s bs (.refl _ _) (by decide)) (by decide)

theorem loadManifest_busy (s : State) (bs : List Byte) (hopen : s.lsr.zlock = false) :
    rget (loadManifest s bs) 0 LSR_STATUS_BUSY = rget s 0 LSR_STATUS_BUSY := by
  obtain ⟨-, cbusy, -, -⟩ := manifestChecked_facts s bs
  by_cases hpass : manifestValid s bs = true ∧ laterManifest s bs
  · rw [loadManifest_passes hopen hpass.1 hpass.2, ← cbusy]
    obtain ⟨x, hx⟩ : ∃ x, x = manifestChecked s bs := ⟨_, rfl⟩
    rw [← hx]
    split
    · rw [rget_lsrResult _ _ (.inr (by decide)), rset_ne _ _ _ _ rfl (.inr (by decide))]
      rfl
    · exact norFailed_busy _
  · rw [not_and_or, Bool.not_eq_true] at hpass
    rw [loadManifest_refused hopen hpass, rget_lsrResult _ _ (.inr (by decide)), cbusy]

theorem loadManifest_code (hopen : s.lsr.zlock = false) (h : manifestValid s bs = false ∨ ¬laterManifest s bs) :
    rget (loadManifest s bs) 0 LSR_STATUS_CODE = 8
      ∧ rget (loadManifest s bs) 0 LSR_SIGFAIL = (rget s 0 LSR_SIGFAIL + bit (manifestShape bs && !manifestValid s bs)) % 2 ^ 32
      ∧ (loadManifest s bs).lsr = s.lsr ∧ changesOnly [.regs] s (loadManifest s bs) := by
  obtain ⟨clsr, -, cfail, conly⟩ := manifestChecked_facts s bs
  rw [loadManifest_refused hopen h]
  obtain ⟨hcode, hlsr, -, honly⟩ := result_facts (manifestChecked s bs) 8 (by decide)
  exact ⟨hcode, (rget_lsrResult _ _ (.inl (by decide))).trans cfail, hlsr.trans clsr, only_trans conly honly⟩

end Manifests

/-! ### Firmware bundles (R463) -/

section Bundles

variable {s : State} {bs : List Byte}

/-- The machine once the check of a bundle is counted. -/
def bundleChecked (s : State) (bs : List Byte) : State :=
  if bundleShape (listReader bs) = true then countVerify s (decide (bundleCode s bs ≠ 8)) else s

theorem bundleChecked_facts (s : State) (bs : List Byte) : (bundleChecked s bs).lsr = s.lsr
    ∧ rget (bundleChecked s bs) 0 LSR_STATUS_BUSY = rget s 0 LSR_STATUS_BUSY ∧ changesOnly [.regs] s (bundleChecked s bs) := by
  obtain ⟨hlsr, hbusy, -, honly⟩ := counted_facts s (bundleShape (listReader bs)) (decide (bundleCode s bs ≠ 8))
  exact ⟨hlsr, hbusy, honly⟩

section Open

variable (hopen : s.lsr.zlock = false)
include hopen

theorem loadFirmware_refused (hcode : bundleCode s bs ≠ 1) :
    loadFirmware s bs = lsrResult (bundleChecked s bs) (bundleCode s bs) :=
  (if_neg (by rw [hopen]; decide)).trans (if_pos hcode)

theorem loadFirmware_passes (hcode : bundleCode s bs = 1) : loadFirmware s bs = if norHolds (bundleChecked s bs) = true
    then lsrResult { writeFirmware (afterNor (bundleChecked s bs)) (!s.lsr.preferB) (some bs) with
      lsr := { (writeFirmware (afterNor (bundleChecked s bs)) (!s.lsr.preferB) (some bs)).lsr with
        preferB := !s.lsr.preferB, fresh := true } } 1
    else norFailed (writeFirmware (afterNor (bundleChecked s bs)) (!s.lsr.preferB) none) :=
  (if_neg (by rw [hopen]; decide)).trans (if_neg (not_not_intro hcode))

/-- A bundle that reads back is preferred from now on. -/
theorem loadFirmware_holds (hcode : bundleCode s bs = 1) (hnor : norHolds s = true) :
    rget (loadFirmware s bs) 0 LSR_STATUS_CODE = 1 ∧ (loadFirmware s bs).lsr.preferB = !s.lsr.preferB
      ∧ fwCopy (loadFirmware s bs) (loadFirmware s bs).lsr.preferB = some bs ∧ (loadFirmware s bs).lsr.fresh = true := by
  obtain ⟨-, -, conly⟩ := bundleChecked_facts s bs
  obtain ⟨x, hx⟩ : ∃ x, x = bundleChecked s bs := ⟨_, rfl⟩
  have hrun := loadFirmware_passes hopen hcode
  rw [← hx] at conly hrun
  rw [if_pos ((norHolds_of_free (conly .free (by decide))).trans hnor)] at hrun
  rw [hrun]
  refine ⟨rget_rput_same1 _ _ LSR_STATUS_CODE _ rfl (by decide), rfl, ?_, rfl⟩
  cases hprefer : s.lsr.preferB <;> rfl

/-- A bundle that does not read back leaves its copy invalid and the other preferred. -/
theorem loadFirmware_fails (hcode : bundleCode s bs = 1) (hnor : norHolds s = false) :
    (loadFirmware s bs).lsr.preferB = s.lsr.preferB ∧ fwCopy (loadFirmware s bs) (!s.lsr.preferB) = none := by
  obtain ⟨clsr, -, conly⟩ := bundleChecked_facts s bs
  obtain ⟨x, hx⟩ : ∃ x, x = bundleChecked s bs := ⟨_, rfl⟩
  have hrun := loadFirmware_passes hopen hcode
  rw [← hx] at clsr conly hrun
  rw [if_neg (by rw [norHolds_of_free (conly .free (by decide)), hnor]; decide)] at hrun
  rw [hrun]
  refine ⟨show x.lsr.preferB = s.lsr.preferB by rw [clsr], ?_⟩
  cases hprefer : s.lsr.preferB <;> rfl

theorem loadFirmware_kept (hcode : bundleCode s bs = 1) : fwCopy (loadFirmware s bs) s.lsr.preferB = fwCopy s s.lsr.preferB
    ∧ (loadFirmware s bs).lsr.running = s.lsr.running := by
  obtain ⟨clsr, -, -⟩ := bundleChecked_facts s bs
  rw [loadFirmware_passes hopen hcode, ← fwCopy_of_lsr clsr, ← clsr]
  obtain ⟨x, hx⟩ : ∃ x, x = bundleChecked s bs := ⟨_, rfl⟩
  rw [← hx]
  split
  · refine ⟨?_, rfl⟩
    cases hprefer : x.lsr.preferB <;> rfl
  · refine ⟨?_, rfl⟩
    cases hprefer : x.lsr.preferB <;> rfl

theorem loadFirmware_busy : rget (loadFirmware s bs) 0 LSR_STATUS_BUSY = rget s 0 LSR_STATUS_BUSY := by
  obtain ⟨-, cbusy, -⟩ := bundleChecked_facts s bs
  by_cases hcode : bundleCode s bs = 1
  · rw [loadFirmware_passes hopen hcode, ← cbusy]
    obtain ⟨x, hx⟩ : ∃ x, x = bundleChecked s bs := ⟨_, rfl⟩
    rw [← hx]
    split
    · rw [rget_lsrResult _ _ (.inr (by decide))]
      rfl
    · exact norFailed_busy _
  · rw [loadFirmware_refused hopen hcode, rget_lsrResult _ _ (.inr (by decide)), cbusy]

theorem loadFirmware_code (hcode : bundleCode s bs ≠ 1) : rget (loadFirmware s bs) 0 LSR_STATUS_CODE = bundleCode s bs % 256
    ∧ (loadFirmware s bs).lsr = s.lsr ∧ changesOnly [.regs] s (loadFirmware s bs) := by
  obtain ⟨clsr, -, conly⟩ := bundleChecked_facts s bs
  rw [loadFirmware_refused hopen hcode]
  exact ⟨rget_rput_mod _ _ LSR_STATUS_CODE _ rfl, clsr, only_trans conly (only_rput _ _ LSR_STATUS_CODE _ _)⟩

end Open

theorem loadFirmware_only (s : State) (bs : List Byte) : changesOnly [.regs, .free, .lsr] s (loadFirmware s bs) :=
  only_frameM (loadFirmware_frame (fm := [.regs, .free, .lsr]) s bs (.refl _ _) (by decide)) (by decide)

end Bundles

/-! ### The obligation -/

section Loads

variable {s : State} (hup : islandUp s = true) (hfree : ron s 0 LSR_STATUS_BUSY = false) (hopen : s.lsr.zlock = false)
  (hnone : s.lsr.loading = none) (bytes : List Byte) {bs : List Byte} (hbs : bs = bytes.take (rget s 0 LSR_SRCLEN_LEN))
include hup hfree hopen hnone hbs

theorem execMfLoad_facts : ∃ t, exec (.mfLoad bytes) s = .next t ∧ t.vil = (startLoad s false).vil ∧ rget t 0 LSR_STATUS_BUSY = 0
    ∧ (manifestValid s bs = true → laterManifest s bs →
      (norHolds s = true → rget t 0 LSR_STATUS_CODE = 1 ∧ rget t 0 LSR_STATUS_MFVALID = 1 ∧ mfNow t = some bs)
      ∧ (norHolds s = false → (∀ m, mfNow s = some m → mfNow t = some m)
          ∧ (s.lsr.mfInForce ≠ some true → (if s.lsr.mfInForce = none then t.lsr.mfA else t.lsr.mfB) = none)
          ∧ (s.lsr.mfInForce = some true → t.lsr.mfA = none))
      ∧ t.lsr.fwA = s.lsr.fwA ∧ t.lsr.fwB = s.lsr.fwB ∧ changesOnly [.free, .regs, .vil, .lsr] s t)
    ∧ (manifestValid s bs = true → ¬laterManifest s bs → rget t 0 LSR_STATUS_CODE = 8
      ∧ rget t 0 LSR_SIGFAIL = rget s 0 LSR_SIGFAIL ∧ t.lsr = s.lsr ∧ changesOnly [.regs, .vil] s t)
    ∧ (manifestValid s bs = false → rget t 0 LSR_STATUS_CODE = 8
      ∧ rget t 0 LSR_SIGFAIL = (rget s 0 LSR_SIGFAIL + bit (manifestShape bs)) % 2 ^ 32
      ∧ t.lsr = s.lsr ∧ changesOnly [.regs, .vil] s t) := by
  obtain ⟨elsr, evil, ebusy, efail, -, eonly⟩ := loadRead_facts s false hnone
  have hexec := execMfLoad_run hup hfree hnone bytes
  obtain ⟨e, he⟩ : ∃ e, e = loadRead s false := ⟨_, rfl⟩
  rw [← he] at elsr evil ebusy efail eonly hexec
  rw [← hbs] at hexec
  have hlock : e.lsr.zlock = false := by rw [elsr, hopen]
  have hlater : laterManifest e bs ↔ laterManifest s bs := by
    unfold laterManifest
    rw [mfNow_of_lsr elsr]
  rw [← manifestValid_of_lsr elsr, ← hlater, ← norHolds_of_free (eonly .free (by decide)), ← mfNow_of_lsr elsr, ← elsr, ← efail]
  refine ⟨_, hexec, (loadManifest_only e bs .vil (by decide)).trans evil, (loadManifest_busy e bs hlock).trans ebusy,
    fun hvalid hnew => ⟨loadManifest_holds hlock hvalid hnew, loadManifest_fails hlock hvalid hnew, ?_⟩, fun hvalid hold => ?_,
    fun hinvalid => ?_⟩
  · obtain ⟨ha, hb⟩ := loadManifest_firmware hlock hvalid hnew
    exact ⟨ha, hb, only_then (only_mono eonly (by decide)) (loadManifest_only e bs) (by decide)⟩
  · obtain ⟨hcode, hfail, hlsr, honly⟩ := loadManifest_code hlock (.inr hold)
    refine ⟨hcode, ?_, hlsr, only_then eonly honly (by decide)⟩
    rw [hfail, hvalid, Bool.not_true, Bool.and_false]
    exact Nat.mod_eq_of_lt (rget_lt e 0 LSR_SIGFAIL 0)
  · obtain ⟨hcode, hfail, hlsr, honly⟩ := loadManifest_code (bs := bs) hlock (.inl hinvalid)
    refine ⟨hcode, ?_, hlsr, only_then eonly honly (by decide)⟩
    rw [hfail, hinvalid, Bool.not_false, Bool.and_true]

theorem execFwLoad_facts : ∃ u, exec (.fwLoad bytes) s = .next u ∧ u.vil = (startLoad s true).vil ∧ rget u 0 LSR_STATUS_BUSY = 0
    ∧ (bundleCode s bs = 1 →
      (norHolds s = true → rget u 0 LSR_STATUS_CODE = 1 ∧ u.lsr.preferB = !s.lsr.preferB
        ∧ fwCopy u u.lsr.preferB = some bs ∧ u.lsr.fresh = true)
      ∧ (norHolds s = false → u.lsr.preferB = s.lsr.preferB ∧ fwCopy u (!s.lsr.preferB) = none)
      ∧ fwCopy u s.lsr.preferB = fwCopy s s.lsr.preferB ∧ u.lsr.running = s.lsr.running
      ∧ changesOnly [.free, .regs, .vil, .lsr] s u)
    ∧ (bundleCode s bs ≠ 1 → rget u 0 LSR_STATUS_CODE = bundleCode s bs % 256 ∧ u.lsr = s.lsr ∧ changesOnly [.regs, .vil] s u) := by
  obtain ⟨elsr, evil, ebusy, -, -, eonly⟩ := loadRead_facts s true hnone
  have hexec := execFwLoad_run hup hfree hnone bytes
  obtain ⟨e, he⟩ : ∃ e, e = loadRead s true := ⟨_, rfl⟩
  rw [← he] at elsr evil ebusy eonly hexec
  rw [← hbs] at hexec
  have hlock : e.lsr.zlock = false := by rw [elsr, hopen]
  rw [← bundleCode_of_lsr elsr, ← norHolds_of_free (eonly .free (by decide)), ← fwCopy_of_lsr elsr, ← elsr]
  refine ⟨_, hexec, (loadFirmware_only e bs .vil (by decide)).trans evil, (loadFirmware_busy hlock).trans ebusy,
    fun hcode => ⟨loadFirmware_holds hlock hcode, loadFirmware_fails hlock hcode, ?_⟩, fun hcode => ?_⟩
  · obtain ⟨hcopy, hrunning⟩ := loadFirmware_kept hlock hcode
    exact ⟨hcopy, hrunning, only_then (only_mono eonly (by decide)) (loadFirmware_only e bs) (by decide)⟩
  · obtain ⟨hresult, hlsr, honly⟩ := loadFirmware_code hlock hcode
    exact ⟨hresult, hlsr, only_then eonly honly (by decide)⟩

end Loads

/-- A load that starts: Lodestar is busy, and its source is read. -/
theorem startLoads_facts (s : State) : changesOnly [.regs, .vil, .lsr] s (startLoad s false)
    ∧ changesOnly [.regs, .vil, .lsr] s (startLoad s true)
    ∧ (startLoad s false).lsr = { s.lsr with loading := some false } ∧ (startLoad s true).lsr = { s.lsr with loading := some true }
    ∧ rget (startLoad s false) 0 LSR_STATUS_BUSY = 1 ∧ rget (startLoad s true) 0 LSR_STATUS_BUSY = 1 :=
  ⟨startLoad_only s false, startLoad_only s true, startLoad_lsr s false, startLoad_lsr s true, startLoad_busy s false,
    startLoad_busy s true⟩

/-- Settles O53: Lodestar's actions while it is busy, locked and open, its two loads, and the test port. -/
theorem lodestarAndTestPort : Obligations.LodestarAndTestPort := by
  unfold Obligations.LodestarAndTestPort
  intro s
  refine ⟨fun _ => actions_busy, fun hup hfree => ⟨actions_locked hup hfree, fun hopen => ⟨rfl, rfl, ?zeroise, ?refused, ?report,
    ?test, ?untested, fun bytes => ⟨fun _ => startLoads_facts s, fun hnone => ?loads⟩⟩⟩,
    ⟨_, rfl, rfl, selectTap_only _ _ _⟩, ⟨_, rfl, rfl, selectTap_only _ _ _⟩, tapBoundary_closed,
    fun htest => ⟨tapBoundary_open htest .samplePreload, tapBoundary_open htest .extest⟩⟩
  case zeroise => exact execZeroise_facts hup hfree hopen
  case refused => exact execAttest_refused hup hfree hopen
  case report => exact fun hraw hdecom htest => execAttest_facts hup hfree hopen hraw hdecom htest rfl
  case test => exact execTestreq_facts hup hfree hopen
  case untested => exact execTestreq_refused hup hfree hopen
  case loads =>
    obtain ⟨t, ht, tvil, tbusy, tpass, told, tbad⟩ := execMfLoad_facts hup hfree hopen hnone bytes rfl
    obtain ⟨u, hu, uvil, ubusy, upass, ubad⟩ := execFwLoad_facts hup hfree hopen hnone bytes rfl
    exact ⟨t, u, ht, hu, tvil, uvil, tbusy, ubusy, tpass, told, tbad, upass, ubad⟩

end Sys2Proof.Claims
end
